-- ==== Sys2Proof/Word.lean ====
section
/-!
DEFINITION. The word types of the Galat G9 (R4: bit 0 is the least significant bit, memory is little-endian).
Only the plainest arithmetic stands here; bit-field and byte-order helpers are in `Sys2Proof.Machine.Bits`.
-/
namespace Sys2Proof

/-- A 32-bit register or instruction word (R7, R20). -/
abbrev Word := BitVec 32

/-- One byte of memory (R4). -/
abbrev Byte := BitVec 8

/-- A 64-bit value held in a register pair (R11). -/
abbrev DWord := BitVec 64

/-- A code address (PC, MEET: R7). -/
abbrev CodeAddr := BitVec 48

end Sys2Proof
end

