-- ==== Sys2Proof/Machine/Bits.lean ====
section
/-!
DEFINITION. Bit fields, sign extension and little-endian byte order (R4), and small list helpers.
-/
namespace Sys2Proof.Bits

/-- Bits `hi..lo` of a natural number. -/
def field (v hi lo : Nat) : Nat := (v >>> lo) % 2 ^ (hi - lo + 1)

/-- Bit `i` of a natural number. -/
def bit (v i : Nat) : Bool := v.testBit i

/-- `w`-bit two's-complement value of `v`. -/
def sint (w v : Nat) : Int := if v % 2 ^ w < 2 ^ (w - 1) then (v % 2 ^ w : Nat) else (v % 2 ^ w : Nat) - (2 ^ w : Nat)

/-- A number as `n` little-endian bytes (R4). -/
def toBytes : Nat → Nat → List Byte
  | 0, _ => []
  | n + 1, v => BitVec.ofNat 8 v :: toBytes n (v / 256)

/-- The number that little-endian bytes stand for (R4). -/
def ofBytes : List Byte → Nat
  | [] => 0
  | x :: xs => x.toNat + 256 * ofBytes xs

/-- A 32-bit word of four bytes at offset `o` of a byte string. -/
def wordAt (bs : List Byte) (o : Nat) : Word := BitVec.ofNat 32 (ofBytes ((bs.drop o).take 4))

/-- A number of `n` bytes at offset `o` of a byte string. -/
def natAt (bs : List Byte) (o n : Nat) : Nat := ofBytes ((bs.drop o).take n)

/-- A 64-bit value as two registers: bits 31:0 first (R11). -/
def loWord (v : Nat) : Word := BitVec.ofNat 32 v
/-- Bits 63:32 of a value (R11). -/
def hiWord (v : Nat) : Word := BitVec.ofNat 32 (v >>> 32)

/-- The low `n` 32-bit words of a value, lowest first (R11, R155). -/
def words : Nat → Nat → List Word
  | 0, _ => []
  | n + 1, v => BitVec.ofNat 32 v :: words n (v >>> 32)

/-- The value of a list of 32-bit words, lowest first. -/
def ofWords : List Word → Nat
  | [] => 0
  | x :: xs => x.toNat + 2 ^ 32 * ofWords xs

/-- A Bool as a number. -/
def ofBool (b : Bool) : Nat := if b then 1 else 0

/-- The first present value of a list. -/
def firstSome {α : Type} : List (Option α) → Option α
  | [] => none
  | some a :: _ => some a
  | none :: xs => firstSome xs

/-- A check that reports `a` when `bad` holds. -/
def flagIf {α : Type} (bad : Bool) (a : α) : Option α := if bad then some a else none

/-- The first entry of an association list whose key is `k`. -/
def lookup {α : Type} (k : Nat) : List (Nat × α) → Option α
  | [] => none
  | (j, a) :: xs => if j = k then some a else lookup k xs

/-- Replace or add the entry of key `k`, keeping keys in rising order. -/
def insert {α : Type} (k : Nat) (a : α) : List (Nat × α) → List (Nat × α)
  | [] => [(k, a)]
  | (j, b) :: xs => if k < j then (k, a) :: (j, b) :: xs else if k = j then (k, a) :: xs else (j, b) :: insert k a xs

/-- Remove every entry of key `k`. -/
def erase {α : Type} (k : Nat) (l : List (Nat × α)) : List (Nat × α) := l.filter (fun p => p.1 != k)

/-- Number of one bits of `v` below bit `w`. -/
def popcount : Nat → Nat → Nat
  | 0, _ => 0
  | w + 1, v => v % 2 + popcount w (v / 2)

/-- Number of trailing zero bits of `v`, at most `w`. -/
def ctz : Nat → Nat → Nat
  | 0, _ => 0
  | w + 1, v => if v % 2 = 1 then 0 else 1 + ctz w (v / 2)

/-- Number of leading zero bits of the `w`-bit value `v`. -/
def clz (w v : Nat) : Nat := if v % 2 ^ w = 0 then w else w - 1 - Nat.log2 (v % 2 ^ w)

/-- `v` with bit `i` moved to bit `w - 1 - i`. -/
def brev : Nat → Nat → Nat
  | 0, _ => 0
  | w + 1, v => (v % 2) * 2 ^ w + brev w (v / 2)

/-- Carry-less product of `a` and the low `w` bits of `b`. -/
def clmul : Nat → Nat → Nat → Nat
  | 0, _, _ => 0
  | w + 1, a, b => (if b % 2 = 1 then a else 0) ^^^ (clmul w (2 * a) (b / 2))

/-- Rotate left in 64 bits. -/
def rotl64 (v n : Nat) : Nat := ((v <<< (n % 64)) ||| ((v % 2 ^ 64) >>> (64 - n % 64))) % 2 ^ 64

end Sys2Proof.Bits
end

