-- ==== Sys2Proof/Machine/Softfloat.lean ====
section
/-!
DEFINITION. IEEE 754-2019 arithmetic on binary16, bfloat16, binary32 and binary64 (03 R36 to R41, R44, R45; 06 R90 to R97):
operands are taken apart into exact values, each operation is exact, and one rounding gives the result and its flags.
-/
namespace Sys2Proof.Machine
open Sys2Proof Bits

/-- FPFLAGS bits (Table 1.4): invalid. -/
def fInvalid : BitVec 5 := 1
/-- divide-by-zero -/
def fDivZero : BitVec 5 := 2
/-- overflow -/
def fOverflow : BitVec 5 := 4
/-- underflow -/
def fUnderflow : BitVec 5 := 8
/-- inexact -/
def fInexact : BitVec 5 := 16

/-- Rounding directions (R30). -/
inductive Rnd where
  | ne
  | tz
  | up
  | dn
  deriving DecidableEq, Repr

/-- The rounding field (R30). -/
def Rnd.of (m : Nat) : Rnd := match m % 4 with | 0 => .ne | 1 => .tz | 2 => .up | _ => .dn

/-- A floating-point format (Table 3.2): exponent bits and fraction bits. -/
structure FFmt where
  eb : Nat
  fb : Nat
  deriving DecidableEq, Repr

/-- binary16 -/
def fmtH : FFmt := ⟨5, 10⟩
/-- bfloat16 -/
def fmtBf : FFmt := ⟨8, 7⟩
/-- binary32 -/
def fmtF : FFmt := ⟨8, 23⟩
/-- binary64 -/
def fmtDf : FFmt := ⟨11, 52⟩

/-- The format of a T code (Table 2.6). -/
def fmtOf (t : BitVec 4) : FFmt := if t = 6 then fmtH else if t = 9 then fmtBf else if t = 8 then fmtDf else fmtF

/-- Exponent bias. -/
def FFmt.bias (f : FFmt) : Nat := 2 ^ (f.eb - 1) - 1
/-- Bits of the format. -/
def FFmt.width (f : FFmt) : Nat := f.eb + f.fb + 1
/-- The encoding of +∞. -/
def FFmt.inf (f : FFmt) : Nat := (2 ^ f.eb - 1) * 2 ^ f.fb
/-- The canonical NaN (Table 3.3). -/
def FFmt.nan (f : FFmt) : Nat := f.inf + 2 ^ (f.fb - 1)
/-- The encoding of 1. -/
def FFmt.one (f : FFmt) : Nat := f.bias * 2 ^ f.fb
/-- The sign bit. -/
def FFmt.sgn (f : FFmt) (s : Bool) : Nat := ofBool s * 2 ^ (f.eb + f.fb)

/-- A floating-point value: a finite one is (-1)^s · m · 2^e with m > 0. -/
inductive FVal where
  | nan (signalling : Bool)
  | inf (s : Bool)
  | zero (s : Bool)
  | fin (s : Bool) (m : Nat) (e : Int)
  deriving DecidableEq, Repr

/-- The value of an encoding. -/
def FFmt.decode (f : FFmt) (v : Nat) : FVal :=
  let s := bit v (f.eb + f.fb)
  let e := field v (f.eb + f.fb - 1) f.fb
  let m := v % 2 ^ f.fb
  if e = 2 ^ f.eb - 1 then (if m = 0 then .inf s else .nan (!bit v (f.fb - 1)))
  else if e = 0 then (if m = 0 then .zero s else .fin s m (1 - (f.bias : Int) - f.fb))
  else .fin s (2 ^ f.fb + m) ((e : Int) - f.bias - f.fb)

/-- Whether an encoding is subnormal. -/
def FFmt.isSub (f : FFmt) (v : Nat) : Bool := field v (f.eb + f.fb - 1) f.fb = 0 && v % 2 ^ f.fb ≠ 0

/-- An operand of a vector operation: a subnormal binary16 reads as zero of its sign under NBV 1 (R40). -/
def FFmt.operand (f : FFmt) (nbv : Nat) (v : Nat) : FVal :=
  if nbv = 1 ∧ f = fmtH ∧ f.isSub v = true then .zero (bit v 15) else f.decode v

/-- A NaN operand that signals. -/
def FVal.snan : FVal → Bool
  | .nan b => b
  | _ => false
/-- A NaN. -/
def FVal.isNan : FVal → Bool
  | .nan _ => true
  | _ => false
/-- The sign of a value; a NaN's is not read. -/
def FVal.sign : FVal → Bool
  | .nan _ => false | .inf s => s | .zero s => s | .fin s _ _ => s
/-- The value with the other sign. -/
def FVal.neg : FVal → FVal
  | .nan b => .nan b | .inf s => .inf (!s) | .zero s => .zero (!s) | .fin s m e => .fin (!s) m e

/-- Invalid for each signalling operand (R37). -/
def snanFlag (vs : List FVal) : BitVec 5 := if vs.any FVal.snan then fInvalid else 0

/-- Shift `m` right by `sh` and round the magnitude of a number of sign `s`: the integer, and whether bits were lost. -/
def roundShift (r : Rnd) (s : Bool) (m sh : Nat) : Nat × Bool :=
  let k := min sh (Nat.log2 m + 2)
  let q := m / 2 ^ k
  let rem := m % 2 ^ k
  let half := 2 ^ k / 2
  let up : Bool := match r with
    | .ne => half < rem || (rem = half && q % 2 = 1)
    | .tz => false
    | .up => !s
    | .dn => s
  (if rem ≠ 0 ∧ up = true then q + 1 else q, rem ≠ 0)

/-- Round (-1)^s · m · 2^e, m > 0, to a format (R36, R38): tininess is detected after rounding. -/
def FFmt.round (f : FFmt) (r : Rnd) (s : Bool) (m : Nat) (e : Int) : Nat × BitVec 5 :=
  let top : Int := (Nat.log2 m : Int) + e
  let emin : Int := 1 - f.bias
  let at_ := fun (q : Int) => if q ≤ e then (m * 2 ^ (e - q).toNat, false) else roundShift r s m (q - e).toNat
  let q : Int := max (top - f.fb) (emin - f.fb)
  let (sig, lost) := at_ q
  let free := at_ (top - f.fb)
  let tiny := decide ((Nat.log2 free.1 : Int) + (top - f.fb) < emin)
  let bits : Int := (q + f.fb + f.bias - 1) * 2 ^ f.fb + sig
  if bits ≥ f.inf then
    let away := match r with | .ne => true | .tz => false | .up => !s | .dn => s
    (f.sgn s + (if away then f.inf else f.inf - 1), fOverflow ||| fInexact)
  else (f.sgn s + bits.toNat, if lost then fInexact ||| (if tiny then fUnderflow else 0) else 0)

/-- A binary16 result under NBV 1: a subnormal is delivered as zero with underflow and inexact (R40). -/
def FFmt.flush (f : FFmt) (nbv : Nat) (x : Nat × BitVec 5) : Nat × BitVec 5 :=
  if nbv = 1 ∧ f = fmtH ∧ f.isSub x.1 = true then (f.sgn (bit x.1 15), x.2 ||| fUnderflow ||| fInexact) else x

/-- Deliver a value that an operation formed exactly. -/
def FFmt.deliver (f : FFmt) (nbv : Nat) (r : Rnd) : FVal → Nat × BitVec 5
  | .nan _ => (f.nan, 0)
  | .inf s => (f.sgn s + f.inf, 0)
  | .zero s => (f.sgn s, 0)
  | .fin s m e => f.flush nbv (f.round r s m e)

/-- The exact sum of two finite numbers given as signed integers times powers of two; an exact zero is +0, −0 under `.rm`,
unless both operands are zeros of one sign (R36). -/
def sumFin (r : Rnd) (s1 : Bool) (m1 : Nat) (e1 : Int) (s2 : Bool) (m2 : Nat) (e2 : Int) : FVal :=
  let e := min e1 e2
  let v := fun (s : Bool) (m : Nat) (x : Int) => (if s then -1 else 1) * ((m * 2 ^ (x - e).toNat : Nat) : Int)
  let t := v s1 m1 e1 + v s2 m2 e2
  if t = 0 then .zero (decide (r = .dn)) else .fin (decide (t < 0)) t.natAbs e

/-- Exact addition; the flag is invalid for opposite infinities (R38). -/
def FVal.add (r : Rnd) (a b : FVal) : FVal × BitVec 5 :=
  match a, b with
  | .nan _, _ => (.nan false, 0)
  | _, .nan _ => (.nan false, 0)
  | .inf s, .inf t => if s = t then (.inf s, 0) else (.nan false, fInvalid)
  | .inf s, _ => (.inf s, 0)
  | _, .inf t => (.inf t, 0)
  | .zero s, .zero t => (.zero (if s = t then s else decide (r = .dn)), 0)
  | .zero _, x => (x, 0)
  | x, .zero _ => (x, 0)
  | .fin s m e, .fin t n g => (sumFin r s m e t n g, 0)

/-- Exact multiplication; invalid for infinity times zero. -/
def FVal.mul (a b : FVal) : FVal × BitVec 5 :=
  let s := a.sign != b.sign
  match a, b with
  | .inf _, .zero _ => (.nan false, fInvalid)
  | .zero _, .inf _ => (.nan false, fInvalid)
  | .nan _, _ => (.nan false, 0)
  | _, .nan _ => (.nan false, 0)
  | .inf _, _ => (.inf s, 0)
  | _, .inf _ => (.inf s, 0)
  | .zero _, _ => (.zero s, 0)
  | _, .zero _ => (.zero s, 0)
  | .fin _ m e, .fin _ n g => (.fin s (m * n) (e + g), 0)

/-- `m` with its lowest bit replaced by whether anything lies below it. -/
def jam (m : Nat) (lost : Bool) : Nat := 2 * m + ofBool lost

/-- Division to 64 or more significant bits, the rest jammed into the last bit (R90). -/
def FVal.div (a b : FVal) : FVal × BitVec 5 :=
  let s := a.sign != b.sign
  match a, b with
  | .nan _, _ => (.nan false, 0)
  | _, .nan _ => (.nan false, 0)
  | .inf _, .inf _ => (.nan false, fInvalid)
  | .zero _, .zero _ => (.nan false, fInvalid)
  | .inf _, _ => (.inf s, 0)
  | _, .inf _ => (.zero s, 0)
  | .zero _, _ => (.zero s, 0)
  | .fin _ _ _, .zero _ => (.inf s, fDivZero)
  | .fin _ m e, .fin _ n g =>
    let k : Nat := 66 + Nat.log2 n - Nat.log2 m
    let v := m * 2 ^ k
    (.fin s (jam (v / n) (v % n ≠ 0)) (e - g - (k : Int) - 1), 0)

/-- Integer square root, bit by bit from bit `k - 1`. -/
def isqrtFrom (n : Nat) : Nat → Nat → Nat
  | 0, r => r
  | k + 1, r => if (r + 2 ^ k) * (r + 2 ^ k) ≤ n then isqrtFrom n k (r + 2 ^ k) else isqrtFrom n k r
/-- Integer square root. -/
def isqrt (n : Nat) : Nat := isqrtFrom n (Nat.log2 n / 2 + 1) 0

/-- Square root (R90). -/
def FVal.sqrt (a : FVal) : FVal × BitVec 5 :=
  match a with
  | .nan _ => (.nan false, 0)
  | .zero s => (.zero s, 0)
  | .inf s => if s then (.nan false, fInvalid) else (.inf false, 0)
  | .fin s m e =>
    if s then (.nan false, fInvalid) else
    let k : Nat := 132 + (if (e - 132) % 2 = 0 then 0 else 1)
    let v := m * 2 ^ k
    let q := isqrt v
    (.fin false (jam q (q * q ≠ v)) ((e - k) / 2 - 1), 0)

/-- Reciprocal square root (R90). -/
def FVal.rsqrt (a : FVal) : FVal × BitVec 5 :=
  match a with
  | .nan _ => (.nan false, 0)
  | .zero s => (.inf s, fDivZero)
  | .inf s => if s then (.nan false, fInvalid) else (.zero false, 0)
  | .fin s m e =>
    if s then (.nan false, fInvalid) else
    let k : Nat := 2 * (Nat.log2 m + 66) + (if e % 2 = 0 then 0 else 1)
    let q := isqrt (2 ^ k / m)
    (.fin false (jam q (q * q * m ≠ 2 ^ k)) (-((e + k) / 2) - 1), 0)

/-! ## Operations on encodings -/

/-- A two-operand operation in format `f`, direction `r`. -/
def fop2 (op : FVal → FVal → FVal × BitVec 5) (f : FFmt) (nbv : Nat) (r : Rnd) (a b : Nat) : Nat × BitVec 5 :=
  let x := f.operand nbv a
  let y := f.operand nbv b
  let (v, fl) := op x y
  let (z, g) := f.deliver nbv r v
  (z, snanFlag [x, y] ||| fl ||| g)

/-- Round a binary32 result to bfloat16 with nearest even; a NaN becomes canonical (R39). -/
def toBf (x : Nat × BitVec 5) : Nat × BitVec 5 :=
  let (z, g) := fmtBf.deliver 2 .ne (fmtF.decode x.1)
  (z, x.2 ||| g)

/-- The binary32 encoding of a bfloat16 operand (R39). -/
def bfUp (v : Nat) : Nat := v % 2 ^ 16 * 2 ^ 16

/-- A two-operand operation of type T: bfloat16 goes through binary32 (R39). -/
def farith2 (op : FVal → FVal → FVal × BitVec 5) (t : BitVec 4) (nbv : Nat) (r : Rnd) (a b : Nat) : Nat × BitVec 5 :=
  if t = 9 then toBf (fop2 op fmtF nbv r (bfUp a) (bfUp b)) else fop2 op (fmtOf t) nbv r a b

/-- A one-operand operation of type T. -/
def farith1 (op : FVal → FVal × BitVec 5) (t : BitVec 4) (nbv : Nat) (r : Rnd) (a : Nat) : Nat × BitVec 5 :=
  let one := fun (f : FFmt) (v : Nat) =>
    let x := f.operand nbv v
    let (y, fl) := op x
    let (z, g) := f.deliver nbv r y
    (z, snanFlag [x] ||| fl ||| g)
  if t = 9 then toBf (one fmtF (bfUp a)) else one (fmtOf t) a

/-- Fused multiply-add of three values (R90): infinity times zero is invalid whatever the addend (R38). -/
def FVal.fma (r : Rnd) (x y z : FVal) : FVal × BitVec 5 :=
  let (p, f1) := x.mul y
  let (v, f2) := p.add r z
  (v, f1 ||| f2)

/-- `ffma` of type T (R90). -/
def ffmaT (t : BitVec 4) (nbv : Nat) (r : Rnd) (a b c : Nat) : Nat × BitVec 5 :=
  let go := fun (f : FFmt) (a b c : Nat) =>
    let x := f.operand nbv a
    let y := f.operand nbv b
    let z := f.operand nbv c
    let (v, f1) := FVal.fma r x y z
    let (w, f2) := f.deliver nbv r v
    (w, snanFlag [x, y, z] ||| f1 ||| f2)
  if t = 9 then toBf (go fmtF (bfUp a) (bfUp b) (bfUp c)) else go (fmtOf t) a b c

/-- `fdot2`: both products and the sum exact, one rounding to binary32 (R94). -/
def fdot2T (t : BitVec 4) (nbv : Nat) (r : Rnd) (a b c : Nat) : Nat × BitVec 5 :=
  let f := fmtOf t
  let el := fun v i => f.operand nbv (v / 2 ^ (16 * i) % 2 ^ 16)
  let z := fmtF.decode c
  let (p, f1) := (el a 0).mul (el b 0)
  let (q, f2) := (el a 1).mul (el b 1)
  let (u, f3) := p.add r q
  let (v, f4) := u.add r z
  -- opposite infinities meet in whichever order they are added; a NaN already formed hides none (R94)
  let f5 := match p, q, z with
    | .inf s, _, .inf w => if s ≠ w then fInvalid else 0
    | _, .inf s, .inf w => if s ≠ w then fInvalid else 0
    | _, _, _ => 0
  let zeroFix : FVal := match v, p, q, z with
    | .zero _, .zero s, .zero t, .zero w => .zero (if s = t ∧ t = w then s else decide (r = .dn))
    | .zero _, _, _, _ => .zero (decide (r = .dn))
    | x, _, _, _ => x
  let (w, g) := fmtF.deliver nbv r zeroFix
  (w, snanFlag [el a 0, el a 1, el b 0, el b 1, z] ||| f1 ||| f2 ||| f3 ||| f4 ||| f5 ||| g)

/-- `a ≤ b` for numbers, −0 below +0 when `signedZero`. -/
def FVal.cmpKey (v : FVal) (e : Int) : Int :=
  match v with
  | .fin s m x => (if s then -1 else 1) * ((m * 2 ^ (x - e).toNat : Nat) : Int)
  | _ => 0

/-- −1, 0 or 1 as `a` is below, equal to or above `b`; zeros are equal; neither is a NaN. -/
def FVal.order (a b : FVal) : Int :=
  match a, b with
  | .inf s, .inf t => if s = t then 0 else if s then -1 else 1
  | .inf s, _ => if s then -1 else 1
  | _, .inf t => if t then 1 else -1
  | _, _ =>
    let ex := fun v => match v with | FVal.fin _ _ x => some x | _ => none
    let e := match ex a, ex b with
      | some x, some y => min x y
      | some x, none => x
      | none, some y => y
      | none, none => 0
    (a.cmpKey e - b.cmpKey e).sign

/-- `fmin` and `fmax` (R91), on encodings of one format. -/
def fminmax (mx : Bool) (t : BitVec 4) (nbv : Nat) (a b : Nat) : Nat × BitVec 5 :=
  let f := fmtOf t
  let clean := fun v => if nbv = 1 ∧ f = fmtH ∧ f.isSub v = true then f.sgn (bit v 15) else v % 2 ^ f.width
  let x := f.operand nbv a
  let y := f.operand nbv b
  let fl := snanFlag [x, y]
  if x.isNan && y.isNan then (f.nan, fl)
  else if x.isNan then (clean b, fl)
  else if y.isNan then (clean a, fl)
  else
    let o := x.order y
    let less := decide (o < 0) || (decide (o = 0) && x.sign && !y.sign)
    (if less != mx then clean a else clean b, fl)

/-- Relations of `fcmp` (R76) with the flags they raise. -/
def fcmpT (cond : Nat) (t : BitVec 4) (nbv : Nat) (a b : Nat) : Bool × BitVec 5 :=
  let f := fmtOf t
  let x := f.operand nbv a
  let y := f.operand nbv b
  let un := x.isNan || y.isNan
  let o := x.order y
  let quiet := snanFlag [x, y]
  match cond with
  | 0 => (!un && decide (o = 0), quiet)
  | 1 => (un || decide (o ≠ 0), quiet)
  | 2 => (!un && decide (o < 0), if un then fInvalid else 0)
  | 3 => (!un && decide (o ≤ 0), if un then fInvalid else 0)
  | 4 => (!un && decide (0 < o), if un then fInvalid else 0)
  | 5 => (!un && decide (0 ≤ o), if un then fInvalid else 0)
  | 6 => (un, quiet)
  | _ => (!un, quiet)

/-- `fclass` (Table 6.2): the encoding as stored. -/
def fclassT (t : BitVec 4) (a : Nat) : Nat :=
  let f := fmtOf t
  let s := bit a (f.eb + f.fb)
  match f.decode a with
  | .inf _ => if s then 2 ^ 2 else 2 ^ 9
  | .nan sig => if sig then 2 ^ 0 else 2 ^ 1
  | .zero _ => if s then 2 ^ 5 else 2 ^ 6
  | .fin _ _ _ => if f.isSub a then (if s then 2 ^ 4 else 2 ^ 7) else (if s then 2 ^ 3 else 2 ^ 8)

/-- Round a finite value to an integer of its sign: magnitude, and whether it changed. -/
def FVal.toIntMag (r : Rnd) (s : Bool) (m : Nat) (e : Int) : Nat × Bool :=
  if 0 ≤ e then (m * 2 ^ e.toNat, false) else roundShift r s m (-e).toNat

/-- `frnd` (R93): round to an integral value of the same type. -/
def frndT (t : BitVec 4) (nbv : Nat) (r : Rnd) (exact : Bool) (a : Nat) : Nat × BitVec 5 :=
  let f := fmtOf t
  let x := f.operand nbv a
  match x with
  | .nan sig => (f.nan, if sig then fInvalid else 0)
  | .inf s => (f.sgn s + f.inf, 0)
  | .zero s => (f.sgn s, 0)
  | .fin s m e =>
    let (n, lost) := FVal.toIntMag r s m e
    let z := if n = 0 then f.sgn s else (f.round .ne s n 0).1
    (z, if exact && lost then fInexact else 0)

/-- `fscale` (R90). -/
def fscaleT (t : BitVec 4) (nbv : Nat) (r : Rnd) (a : Nat) (n : Int) : Nat × BitVec 5 :=
  let f := fmtOf t
  match f.operand nbv a with
  | .nan sig => (f.nan, if sig then fInvalid else 0)
  | .fin s m e => f.deliver nbv r (.fin s m (e + n))
  | v => f.deliver nbv r v

/-- `fsplit` (R93): c = 0 the significand, c = 1 the exponent. -/
def fsplitT (t : BitVec 4) (nbv : Nat) (sub : Nat) (a : Nat) : Nat × BitVec 5 :=
  let f := fmtOf t
  match f.operand nbv a with
  | .fin s m e =>
    let l := Nat.log2 m
    if sub = 0 then (f.round .ne s m (-(l : Int))).1 |> fun z => (z, 0)
    else ((((l : Int) + e) % 2 ^ 32).toNat, 0)
  | v => (if sub = 0 then (f.deliver nbv .ne v).1 else 0x80000000, if v.snan then fInvalid else 0)

/-! ## Conversions (R41, R95) -/

/-- An integer type of a T code: signed, and its width. -/
def intType (t : Nat) : Bool × Nat := (t % 2 = 1, if t ≤ 2 then 32 else 64)
/-- The value of an integer operand. -/
def intVal (t v : Nat) : Int := if (intType t).1 then sint (intType t).2 v else (v % 2 ^ (intType t).2 : Nat)
/-- Saturate to an integer type: the value, and whether it lay outside. -/
def intSat (t : Nat) (v : Int) : Int × Bool :=
  let (sg, w) := intType t
  let lo : Int := if sg then -(2 ^ (w - 1)) else 0
  let hi : Int := if sg then 2 ^ (w - 1) - 1 else 2 ^ w - 1
  (max lo (min hi v), decide (v < lo ∨ hi < v))
/-- The `w`-bit encoding of an integer. -/
def wrapInt (w : Nat) (v : Int) : Nat := (v % 2 ^ w).toNat

/-- Floating point to integer (R41). -/
def floatToInt (t : Nat) (r : Rnd) (v : FVal) : Nat × BitVec 5 :=
  let w := (intType t).2
  let big : Int := 2 ^ 65
  let out := fun (x : Int) (lost : Bool) =>
    let (y, bad) := intSat t x
    (wrapInt w y, if bad then fInvalid else if lost then fInexact else (0 : BitVec 5))
  match v with
  | .nan _ => (0, fInvalid)
  | .inf s => out (if s then -big else big) false
  | .zero _ => (0, 0)
  | .fin s m e =>
    if e > 65 then out (if s then -big else big) false
    else
      let (n, lost) := FVal.toIntMag r s m e
      out (if s then -(n : Int) else n) lost

/-- Integer to floating point (R41). -/
def intToFloat (f : FFmt) (nbv : Nat) (r : Rnd) (v : Int) : Nat × BitVec 5 :=
  if v = 0 then (0, 0) else f.deliver nbv r (.fin (decide (v < 0)) v.natAbs 0)

/-- Floating point to floating point: one rounding, NaNs canonical (R95). -/
def floatToFloat (g f : FFmt) (nbv : Nat) (r : Rnd) (a : Nat) : Nat × BitVec 5 :=
  let x := g.operand nbv a
  let (z, fl) := f.deliver nbv r x
  (z, snanFlag [x] ||| fl)

/-- `cvt` from type code `s` to type code `t` (R95). -/
def cvtT (t s nbv m : Nat) (a : Nat) : Nat × BitVec 5 :=
  let r := Rnd.of m
  let isI := fun x => decide (1 ≤ x ∧ x ≤ 4)
  if isI s && isI t then
    let v := intVal s a
    (wrapInt (intType t).2 (if bit m 2 then (intSat t v).1 else v), 0)
  else if isI s then intToFloat (fmtOf (BitVec.ofNat 4 t)) nbv r (intVal s a)
  else
    let g := fmtOf (BitVec.ofNat 4 s)
    if isI t then floatToInt t r (g.operand nbv a)
    else floatToFloat g (fmtOf (BitVec.ofNat 4 t)) nbv r a

/-! ## Quantised elements (R42 to R45) -/

/-- The scale of a scale word: a subnormal scale reads as zero under NBV 1 (R42). -/
def scaleOf (nbv w : Nat) : FVal := fmtH.operand nbv (w / 2 ^ 16 % 2 ^ 16)
/-- The zero point: the signed byte in bits 15:8 (R42). -/
def zpOf (w : Nat) : Int := sint 8 (w / 2 ^ 8)

/-- Dequantisation (R44). -/
def dequantT (nbv w : Nat) (q : Int) : Nat × BitVec 5 :=
  let d := q - zpOf w
  match scaleOf nbv w with
  | .nan sig => (fmtF.nan, if sig then fInvalid else 0)
  | sc =>
    let dv : FVal := if d = 0 then .zero false else .fin (decide (d < 0)) d.natAbs 0
    let (v, fl) := sc.mul dv
    ((fmtF.deliver nbv .ne v).1, fl)

/-- Quantisation (R45): element and flags. -/
def quantT (nbv w : Nat) (int4 : Bool) (x : Nat) : Int × BitVec 5 :=
  let zp := zpOf w
  let (lo, hi) : Int × Int := if int4 then (-8, 7) else (-128, 127)
  let sc := scaleOf nbv w
  let xv := fmtF.decode x
  let (v, f1) := xv.div sc
  let (t, f2) := fmtF.deliver nbv .ne v
  let fl := snanFlag [xv, sc] ||| f1 ||| f2
  match fmtF.decode t with
  | .nan _ => (zp, fl ||| fInvalid)
  | .inf s => (if s then lo else hi, fl ||| fInexact)
  | .zero _ => let q := max lo (min hi zp); (q, fl ||| (if q = zp then 0 else fInexact))
  | .fin s m e =>
    let (n, lost) := FVal.toIntMag .ne s m e
    let i : Int := if s then -(n : Int) else n
    let q := max lo (min hi (i + zp))
    (q, fl ||| (if lost || q ≠ i + zp then fInexact else 0))

end Sys2Proof.Machine
end

