-- ==== Sys2Proof/Machine/Acc48.lean ====
section
/-!
DEFINITION. The acc48 formats of the accumulator banks, the matrix rules of the array, and what reads an element of a bank
(03 R46 to R51; 12 R178, R180; 13 R200, R201).
-/
namespace Sys2Proof.Machine
open Sys2Proof Bits

/-! ## Int form (R46) -/

/-- Saturate to ±(2^47 − 1): the 48-bit encoding, and whether it saturated. -/
def accInt (v : Int) : BitVec 48 × Bool :=
  let hi : Int := 2 ^ 47 - 1
  (BitVec.ofInt 48 (max (-hi) (min hi v)), decide (v < -hi ∨ hi < v))

/-! ## Float form (R47, Table 3.8) -/

/-- Canonical NaN of the float form (Table 3.3). -/
def accNan : BitVec 48 := 0x7FF000000000

/-- Value of a float-form element: every encoding of exponent 0 is a zero. -/
def accVal (b : BitVec 48) : FVal :=
  let v := b.toNat
  let s := bit v 47
  let e := field v 46 37
  let f := field v 36 0
  if e = 1023 then (if f = 0 then .inf s else .nan false)
  else if e = 0 then .zero s
  else .fin s (2 ^ 37 + f) ((e : Int) - 548)

/-- Encode a value, rounding to 38 significant bits: encoding, and whether SAT is set (R47). -/
def accRound (r : Rnd) : FVal → BitVec 48 × Bool
  | .nan _ => (accNan, false)
  | .inf s => (BitVec.ofNat 48 (ofBool s * 2 ^ 47 + 1023 * 2 ^ 37), false)
  | .zero s => (BitVec.ofNat 48 (ofBool s * 2 ^ 47), false)
  | .fin s m e =>
    let q : Int := (Nat.log2 m : Int) + e - 37
    let sig := if q ≤ e then m * 2 ^ (e - q).toNat else (roundShift r s m (q - e).toNat).1
    let top : Int := (Nat.log2 sig : Int) + q
    let sg := ofBool s * 2 ^ 47
    if top < -510 then (BitVec.ofNat 48 sg, false)
    else if 511 < top then
      (BitVec.ofNat 48 (sg + (if r = .tz then 1022 * 2 ^ 37 + (2 ^ 37 - 1) else 1023 * 2 ^ 37)), true)
    else (BitVec.ofNat 48 (sg + (top + 511).toNat * 2 ^ 37 + (if sig = 2 ^ 38 then 2 ^ 37 else sig) % 2 ^ 37), false)

/-- Whether one of two values is infinite with each sign. -/
def bothInf (ps : List FVal) : Bool := ps.any (fun p => p = .inf false) && ps.any (fun p => p = .inf true)

/-- floor(log2) of a finite value. -/
def FVal.expo : FVal → Option Int
  | .fin _ m e => some ((Nat.log2 m : Int) + e)
  | _ => none

/-- The term of one product in the window of top exponent `E` (R48). -/
def windowTerm (E : Int) : FVal → Int
  | .fin s m e =>
    let k := e + 38 - E
    let t : Nat := if 0 ≤ k then m * 2 ^ k.toNat else m / 2 ^ (-k).toNat
    if s then -(t : Int) else t
  | _ => 0

/-- A chunk's sum of products (R48, R49). -/
def chunkSum (ps : List FVal) : FVal :=
  if ps.any FVal.isNan || bothInf ps then .nan false
  else match ps.find? (fun p => p = .inf false || p = .inf true) with
    | some p => p
    | none =>
      match (ps.filterMap FVal.expo) with
      | [] => .zero false
      | x :: xs =>
        let E := xs.foldl max x
        let w := ps.foldl (fun acc p => acc + windowTerm E p) 0
        if w = 0 then .zero false else .fin (decide (w < 0)) w.natAbs (E - 38)

/-- An operand of the array: a subnormal reads as zero of its sign under both versions (R48). -/
def arrayOperand (f : FFmt) (v : Nat) : FVal := if f.isSub v then .zero (bit v (f.eb + f.fb)) else f.decode v

/-- Add a chunk's sum into a float-form accumulator: an exact zero sum leaves it unchanged (R48, R49, Table 3.9). -/
def accAddChunk (nbv : Nat) (acc : BitVec 48) (ps : List FVal) : BitVec 48 × Bool :=
  let r := if nbv = 1 then Rnd.tz else Rnd.ne
  let s := chunkSum ps
  if s = .zero false then (acc, false) else
  let (c, s1) := accRound r s
  let (z, s2) := accRound r (FVal.add .ne (accVal acc) (accVal c)).1
  (z, s1 || s2)

/-- Aligned chunks of `n` (R48). -/
def chunksOf {α : Type} (n : Nat) : Nat → List α → List (List α)
  | 0, _ => []
  | k + 1, l => l.take n :: chunksOf n k (l.drop n)

/-- Chunks of K under a numeric-behaviour version (Table 3.9). -/
def kChunks {α : Type} (nbv : Nat) (l : List α) : List (List α) := if nbv = 1 then chunksOf 16 16 l else chunksOf 32 8 l

/-- Accumulate one element over K in the float form, chunks in ascending k (R48, R50). -/
def accFloat (nbv : Nat) (f : FFmt) (acc : BitVec 48) (a b : List Nat) : BitVec 48 × Bool :=
  let ps := (a.zip b).map (fun p => ((arrayOperand f p.1).mul (arrayOperand f p.2)).1)
  (kChunks nbv ps).foldl (fun (x : BitVec 48 × Bool) c => let (z, s) := accAddChunk nbv x.1 c; (z, x.2 || s)) (acc, false)

/-- Accumulate one element over K in the int form: each chunk's corrected sum is exact and is then saturated, chunks in
ascending k (R46, R50, R178). -/
def accIntDot (nbv : Nat) (acc : BitVec 48) (za zb : Int) (a b : List Int) : BitVec 48 × Bool :=
  let ps := (a.zip b).map (fun p => (p.1 - za) * (p.2 - zb))
  (kChunks nbv ps).foldl (fun (x : BitVec 48 × Bool) c =>
    let (z, s) := accInt (x.1.toInt + c.foldl (· + ·) 0)
    (z, x.2 || s)) (acc, false)

/-! ## Reading an element (R200, R201) -/

/-- Exact value of an element by its bank's form: 0 none, 1 int, 2 float. -/
def accExact (form : Nat) (b : BitVec 48) : FVal :=
  if form = 1 then (if b = 0 then .zero false else .fin b.msb b.toInt.natAbs 0)
  else if form = 2 then accVal b else .zero false

/-- `accrd` in mode 0: the element as type `t`, and the flags of its conversion (R200). -/
def accRead (t : BitVec 4) (form : Nat) (b : BitVec 48) : Nat × BitVec 5 :=
  if form = 1 ∧ t = 3 then (wrapInt 64 b.toInt, 0)
  else if form = 1 ∧ (t = 1 ∨ t = 2) then (wrapInt 32 (intSat t.toNat b.toInt).1, 0)
  else
    let v := accExact form b
    if t = 7 ∨ t = 8 then (fmtOf t).deliver 2 .ne v else floatToInt t.toNat .ne v

/-- Bytes of an element that `accst` writes (R201). -/
def accstSize (t : Nat) : Nat := if t = 5 then 1 else if t = 6 ∨ t = 9 then 2 else 4

/-- What `accst` writes for one element: `scale` is the column's word of the scale vector (R201). -/
def accStore (nbv t form : Nat) (b : BitVec 48) (scale : Option Nat) : Nat :=
  let v := accExact form b
  if t = 5 then wrapInt 8 (quantT nbv (scale.getD 0) false (fmtF.deliver 2 .ne v).1).1
  else
    let p := match scale with | some w => (v.mul (fmtF.decode w)).1 | none => v
    if t = 1 then (floatToInt 1 .ne p).1 else ((fmtOf (BitVec.ofNat 4 t)).deliver 2 .ne p).1

/-! ## The block Hadamard transform (R180) -/

/-- Round to binary32 with nearest even: the value of the rounded encoding. -/
def rne32 (v : FVal) : FVal := fmtF.decode (fmtF.deliver 2 .ne v).1

/-- One butterfly step at distance `d` over a block. -/
def hadaStep (d : Nat) (x : List FVal) : List FVal :=
  let at_ := fun i => x.getD i (.zero false)
  (List.range x.length).map (fun j =>
    if j / d % 2 = 0 then rne32 (FVal.add .ne (at_ j) (at_ (j + d))).1
    else rne32 (FVal.add .ne (at_ (j - d)) (at_ j).neg).1)

/-- Butterflies at distances 1, 2, 4, … -/
def hadaSteps : Nat → Nat → List FVal → List FVal
  | 0, _, x => x
  | n + 1, d, x => hadaSteps n (2 * d) (hadaStep d x)

/-- One block of `n` elements of a row format. -/
def hadaBlock (f : FFmt) (n : Nat) (x : List Nat) : List Nat :=
  let y := hadaSteps (Nat.log2 n) 1 (x.map f.decode)
  let scaled := fun (v : FVal) => match n with
    | 16 => (v.mul (.fin false 1 (-2))).1
    | 64 => (v.mul (.fin false 1 (-3))).1
    | _ => rne32 (v.mul (fmtF.decode 0x3E3504F3)).1
  y.map (fun v => (f.deliver 2 .ne (scaled v)).1)

/-- One row of 256 elements. -/
def hadaRow (f : FFmt) (n : Nat) (row : List Nat) : List Nat := (chunksOf n (256 / n) row).flatMap (hadaBlock f n)

end Sys2Proof.Machine
end

