-- ==== Sys2Proof/Syntax.lean ====
section
/-!
DEFINITION. The instructions and events of the Galat G9: one constructor per row of the opcode table.
Rows with an encoding carry the fields of their form (R20 to R24); the event rows (which have no encoding) carry the
names of what they act on (a thread, a group, a launch, a device ...) and what the outside world supplies.
-/
namespace Sys2Proof

/-- Fields of an S form (Table 2.3): guard `g`, negate `n`, and the 6-bit fields d, a, b. In the S forms of bra, call
and meet the three fields together are the 18-bit word offset `b ++ a ++ d` (R22). -/
structure SEnc where
  g : BitVec 3
  n : Bool
  d : BitVec 6
  a : BitVec 6
  b : BitVec 6
  deriving DecidableEq, Repr

/-- Fields of an L or X form (Table 2.4, R24). `lit` is the X form's literal word W2; `none` is the L form. -/
structure LX where
  g : BitVec 3
  n : Bool
  cc : Bool
  d : BitVec 8
  a : BitVec 8
  b : BitVec 8
  c : BitVec 8
  t : BitVec 4
  la : BitVec 4
  m : BitVec 8
  lit : Option Word
  deriving DecidableEq, Repr

/-- Names a thread: the number the model gives its group when the group comes into being, and sr.tid (R114). -/
structure ThreadKey where
  gid : Nat
  tid : Nat
  deriving DecidableEq, Repr

/-- The unit an error record names (Table 25.2): kind 0 core, 1 die cache, 2 HBM stack, 3 fabric port,
4 management core; and its number. -/
structure ErrUnit where
  kind : Nat
  unit : Nat
  deriving DecidableEq, Repr

/-- What a patrol scrub finds in a line (Table 25.1): nothing, a corrected error, or an uncorrectable one. -/
inductive ScrubResult where
  | clean
  | corrected
  | uncorrectable
  deriving DecidableEq, Repr

/-- What an uncorrectable error strikes in state that a node owns (R331): a scratchpad sector, an accumulator pair's banks, or other
state, which a rollback restores from the phase record. -/
inductive Struck where
  | other
  | sector (n : Nat)
  | bank (pair : Nat)
  deriving DecidableEq, Repr

/-- An uncorrectable error: the unit it is reported for, and what it strikes. -/
structure ErrorHit where
  unit : ErrUnit
  struck : Struck
  deriving DecidableEq, Repr

/-- Where a launch is taken from (R225, R316): the next entry of a host queue, or firmware's own queue, with its record and argument. -/
inductive LaunchQueue where
  | host (q : Nat)
  | own (record : List Byte) (arg : DWord)
  deriving DecidableEq, Repr

/-- What of the snapshot of a view has been sent (R268): one block, or all that remains. -/
inductive SnapshotPart where
  | block (view : Word) (blk : Nat)
  | rest (view : Word)
  deriving DecidableEq, Repr

/-- A restore's target, and whether the header and the sealed section of the image there verify (R341). -/
structure RestoreSource where
  target : Nat
  verifies : Bool
  deriving DecidableEq, Repr

/-- The function that a configuration request goes to, and what it writes to the Resizable BAR control, if it does (R309). -/
structure ConfigTarget where
  pid : Nat
  bar2 : Option Nat
  deriving DecidableEq, Repr

/-- Every row of the opcode table: 208 instruction forms, then 123 events. -/
inductive Instr where
  /-- NOP_S (R79). -/
  | nopS (e : SEnc)
  /-- NOP_L (R79). -/
  | nopL (e : LX)
  /-- BRA_S (R79). -/
  | braS (e : SEnc)
  /-- BRA_X (R79). -/
  | braX (e : LX)
  /-- JMP_S (R79). -/
  | jmpS (e : SEnc)
  /-- JMP_L (R79). -/
  | jmpL (e : LX)
  /-- CALL_S (R79). -/
  | callS (e : SEnc)
  /-- CALL_X (R79). -/
  | callX (e : LX)
  /-- CALLI_S (R79). -/
  | calliS (e : SEnc)
  /-- CALLI_L (R79). -/
  | calliL (e : LX)
  /-- RET_S (R79). -/
  | retS (e : SEnc)
  /-- RET_L (R79). -/
  | retL (e : LX)
  /-- MEET_S (R79). -/
  | meetS (e : SEnc)
  /-- MEET_X (R79). -/
  | meetX (e : LX)
  /-- MEETR_S (R79). -/
  | meetrS (e : SEnc)
  /-- MEETR_L (R79). -/
  | meetrL (e : LX)
  /-- EXIT_S (R81). -/
  | exitS (e : SEnc)
  /-- EXIT_L (R81). -/
  | exitL (e : LX)
  /-- TRAP_S (R83). -/
  | trapS (e : SEnc)
  /-- TRAP_L (R83). -/
  | trapL (e : LX)
  /-- TRAP_X (R83). -/
  | trapX (e : LX)
  /-- BRK_S (R83). -/
  | brkS (e : SEnc)
  /-- BRK_L (R83). -/
  | brkL (e : LX)
  /-- YIELD_S (R82). -/
  | yieldS (e : SEnc)
  /-- YIELD_L (R82). -/
  | yieldL (e : LX)
  /-- ADD_S (R72). -/
  | addS (e : SEnc)
  /-- ADD_LX (R72). -/
  | addLX (e : LX)
  /-- SUB_S (R72). -/
  | subS (e : SEnc)
  /-- SUB_LX (R72). -/
  | subLX (e : LX)
  /-- ADDX (R72). -/
  | addx (e : LX)
  /-- SUBX (R72). -/
  | subx (e : LX)
  /-- MUL (R72). -/
  | mul (e : LX)
  /-- MULH (R72). -/
  | mulh (e : LX)
  /-- MAD (R72). -/
  | mad (e : LX)
  /-- MADW (R72). -/
  | madw (e : LX)
  /-- DIV (R73). -/
  | div (e : LX)
  /-- REM (R73). -/
  | rem (e : LX)
  /-- MIN (R72). -/
  | min (e : LX)
  /-- MAX (R72). -/
  | max (e : LX)
  /-- ABS (R72). -/
  | abs (e : LX)
  /-- NEG_S (R72). -/
  | negS (e : SEnc)
  /-- NEG_LX (R72). -/
  | negLX (e : LX)
  /-- BITC (R72). -/
  | bitc (e : LX)
  /-- CLAMP (R72). -/
  | clamp (e : LX)
  /-- AND_S (R74). -/
  | andS (e : SEnc)
  /-- AND_LX (R74). -/
  | andLX (e : LX)
  /-- OR_S (R74). -/
  | orS (e : SEnc)
  /-- OR_LX (R74). -/
  | orLX (e : LX)
  /-- XOR_S (R74). -/
  | xorS (e : SEnc)
  /-- XOR_LX (R74). -/
  | xorLX (e : LX)
  /-- ANDN (R74). -/
  | andn (e : LX)
  /-- BOOL3 (R74). -/
  | bool3 (e : LX)
  /-- SHL_S (R74). -/
  | shlS (e : SEnc)
  /-- SHL_LX (R74). -/
  | shlLX (e : LX)
  /-- SHR_S (R74). -/
  | shrS (e : SEnc)
  /-- SHR_LX (R74). -/
  | shrLX (e : LX)
  /-- SAR_S (R74). -/
  | sarS (e : SEnc)
  /-- SAR_LX (R74). -/
  | sarLX (e : LX)
  /-- ROTL (R74). -/
  | rotl (e : LX)
  /-- ROTR (R74). -/
  | rotr (e : LX)
  /-- FSH (R74). -/
  | fsh (e : LX)
  /-- BFX (R74). -/
  | bfx (e : LX)
  /-- BFI (R74). -/
  | bfi (e : LX)
  /-- CLMUL (R74). -/
  | clmul (e : LX)
  /-- LEA (R74). -/
  | lea (e : LX)
  /-- MOV_S (R74). -/
  | movS (e : SEnc)
  /-- MOV_LX (R74). -/
  | movLX (e : LX)
  /-- CMP_S (R75). -/
  | cmpS (e : SEnc)
  /-- CMP_LX (R75). -/
  | cmpLX (e : LX)
  /-- FCMP (R76). -/
  | fcmp (e : LX)
  /-- SCMP (R76). -/
  | scmp (e : LX)
  /-- QOP (R77). -/
  | qop (e : LX)
  /-- QGET (R77). -/
  | qget (e : LX)
  /-- QSET (R77). -/
  | qset (e : LX)
  /-- SEL_S (R78). -/
  | selS (e : SEnc)
  /-- SEL_LX (R78). -/
  | selLX (e : LX)
  /-- CCSEL (R78). -/
  | ccsel (e : LX)
  /-- CCGET (R78). -/
  | ccget (e : LX)
  /-- CCPUT (R78). -/
  | ccput (e : LX)
  /-- FADD_S (R90). -/
  | faddS (e : SEnc)
  /-- FADD_LX (R90). -/
  | faddLX (e : LX)
  /-- FSUB_S (R90). -/
  | fsubS (e : SEnc)
  /-- FSUB_LX (R90). -/
  | fsubLX (e : LX)
  /-- FMUL_S (R90). -/
  | fmulS (e : SEnc)
  /-- FMUL_LX (R90). -/
  | fmulLX (e : LX)
  /-- FFMA (R90). -/
  | ffma (e : LX)
  /-- FMIN (R91). -/
  | fmin (e : LX)
  /-- FMAX (R91). -/
  | fmax (e : LX)
  /-- FDIV (R90). -/
  | fdiv (e : LX)
  /-- FSQRT (R90). -/
  | fsqrt (e : LX)
  /-- FRCP (R90). -/
  | frcp (e : LX)
  /-- FRSQ (R90). -/
  | frsq (e : LX)
  /-- FCLASS (R92). -/
  | fclass (e : LX)
  /-- FRND (R93). -/
  | frnd (e : LX)
  /-- FSCALE (R90). -/
  | fscale (e : LX)
  /-- FSPLIT (R93). -/
  | fsplit (e : LX)
  /-- FDOT2 (R94). -/
  | fdot2 (e : LX)
  /-- CVT (R95). -/
  | cvt (e : LX)
  /-- QUANT (R96). -/
  | quant (e : LX)
  /-- DEQUANT (R96). -/
  | dequant (e : LX)
  /-- PACK (R97). -/
  | pack (e : LX)
  /-- UNPACK (R97). -/
  | unpack (e : LX)
  /-- FEXP2 (R98). -/
  | fexp2 (e : LX)
  /-- FLOG2 (R98). -/
  | flog2 (e : LX)
  /-- FSIN (R98). -/
  | fsin (e : LX)
  /-- FCOS (R98). -/
  | fcos (e : LX)
  /-- FTANH (R98). -/
  | ftanh (e : LX)
  /-- SADD (R99). -/
  | sadd (e : LX)
  /-- SSUB (R99). -/
  | ssub (e : LX)
  /-- SMUL (R99). -/
  | smul (e : LX)
  /-- SDIV (R99). -/
  | sdiv (e : LX)
  /-- SRCP (R60). -/
  | srcp (e : LX)
  /-- SLOG (R99). -/
  | slog (e : LX)
  /-- SANTI (R99). -/
  | santi (e : LX)
  /-- SFROM (R62). -/
  | sfrom (e : LX)
  /-- STO (R63). -/
  | sto (e : LX)
  /-- SACCE (R99). -/
  | sacce (e : LX)
  /-- LD_S (R157). -/
  | ldS (e : SEnc)
  /-- LD_LX (R157). -/
  | ldLX (e : LX)
  /-- ST_S (R157). -/
  | stS (e : SEnc)
  /-- ST_LX (R157). -/
  | stLX (e : LX)
  /-- LDS_S (R157). -/
  | ldsS (e : SEnc)
  /-- LDS_LX (R157). -/
  | ldsLX (e : LX)
  /-- STS_S (R157). -/
  | stsS (e : SEnc)
  /-- STS_LX (R157). -/
  | stsLX (e : LX)
  /-- LDF (R159). -/
  | ldf (e : LX)
  /-- LDK (R160). -/
  | ldk (e : LX)
  /-- PFCH (R161). -/
  | pfch (e : LX)
  /-- CCTL_INV (R162). -/
  | cctlInv (e : LX)
  /-- CCTL_INVL (R162). -/
  | cctlInvl (e : LX)
  /-- FENCE (R163). -/
  | fence (e : LX)
  /-- AMO (R165). -/
  | amo (e : LX)
  /-- AMOS (R165). -/
  | amos (e : LX)
  /-- SINIT (R169). -/
  | sinit (e : LX)
  /-- SARRIVE_S (R171). -/
  | sarriveS (e : SEnc)
  /-- SARRIVE_LX (R171). -/
  | sarriveLX (e : LX)
  /-- SWAIT_S (R171). -/
  | swaitS (e : SEnc)
  /-- SWAIT_LX (R171). -/
  | swaitLX (e : LX)
  /-- SBAR_S (R171). -/
  | sbarS (e : SEnc)
  /-- SBAR_L (R171). -/
  | sbarL (e : LX)
  /-- SPOLL (R171). -/
  | spoll (e : LX)
  /-- XPERM (R174). -/
  | xperm (e : LX)
  /-- XBCAST (R174). -/
  | xbcast (e : LX)
  /-- XVOTE (R174). -/
  | xvote (e : LX)
  /-- XRED (R174). -/
  | xred (e : LX)
  /-- XSCAN (R174). -/
  | xscan (e : LX)
  /-- XMATCH (R174). -/
  | xmatch (e : LX)
  /-- XELECT (R174). -/
  | xelect (e : LX)
  /-- ACCA (R194). -/
  | acca (e : LX)
  /-- ACCF (R195). -/
  | accf (e : LX)
  /-- MLOAD (R196). -/
  | mload (e : LX)
  /-- ROWLD (R196). -/
  | rowld (e : LX)
  /-- HADA (R197). -/
  | hada (e : LX)
  /-- MMAC (R198). -/
  | mmac (e : LX)
  /-- ASWAP (R199). -/
  | aswap (e : LX)
  /-- ACCZ (R199). -/
  | accz (e : LX)
  /-- ACCRD (R200). -/
  | accrd (e : LX)
  /-- ACCST (R201). -/
  | accst (e : LX)
  /-- XCOPY (R203). -/
  | xcopy (e : LX)
  /-- XGATH (R204). -/
  | xgath (e : LX)
  /-- FORK (R205). -/
  | fork (e : LX)
  /-- RDV (R206). -/
  | rdv (e : LX)
  /-- GRES (R207). -/
  | gres (e : LX)
  /-- XFER (R293). -/
  | xfer (e : LX)
  /-- FBEGIN (R294). -/
  | fbegin (e : LX)
  /-- FCOMMIT (R296). -/
  | fcommit (e : LX)
  /-- FRED (R297). -/
  | fred (e : LX)
  /-- CLOA (R245). -/
  | cloa (e : LX)
  /-- CLD (R246). -/
  | cld (e : LX)
  /-- CREF (R247). -/
  | cref (e : LX)
  /-- CUNREF (R247). -/
  | cunref (e : LX)
  /-- CSWAP (R248). -/
  | cswap (e : LX)
  /-- CCOPY (R249). -/
  | ccopy (e : LX)
  /-- LHASH (R250). -/
  | lhash (e : LX)
  /-- HBLK (R251). -/
  | hblk (e : LX)
  /-- PFLOOK (R253). -/
  | pflook (e : LX)
  /-- PFINS (R254). -/
  | pfins (e : LX)
  /-- PFPIN (R255). -/
  | pfpin (e : LX)
  /-- PFUNPIN (R255). -/
  | pfunpin (e : LX)
  /-- STEPBEG (R277). -/
  | stepbeg (e : LX)
  /-- STEPEND (R278). -/
  | stepend (e : LX)
  /-- GVIEW (R279). -/
  | gview (e : LX)
  /-- GSETW (R280). -/
  | gsetw (e : LX)
  /-- KVLD (R281). -/
  | kvld (e : LX)
  /-- KVST (R281). -/
  | kvst (e : LX)
  /-- KVCOMMIT (R282). -/
  | kvcommit (e : LX)
  /-- KVREJECT (R283). -/
  | kvreject (e : LX)
  /-- KVFORK (R284). -/
  | kvfork (e : LX)
  /-- KVINFO_LEN (R285). -/
  | kvinfoLen (e : LX)
  /-- KVINFO_BLK (R285). -/
  | kvinfoBlk (e : LX)
  /-- KVINFO_HASH (R285). -/
  | kvinfoHash (e : LX)
  /-- KVINFO_TOK (R285). -/
  | kvinfoTok (e : LX)
  /-- KVINFO_THR (R285). -/
  | kvinfoThr (e : LX)
  /-- KVINFO_MINT (R285). -/
  | kvinfoMint (e : LX)
  /-- KVINFO_REVOKE (R285). -/
  | kvinfoRevoke (e : LX)
  /-- SOLICIT (R304). -/
  | solicit (e : LX)
  /-- DIRPUT (R302). -/
  | dirput (e : LX)
  /-- DIRDEL (R302). -/
  | dirdel (e : LX)
  /-- REPLY (R305). -/
  | reply (e : LX)
  /-- RDSR (R17). -/
  | rdsr (e : LX)
  /-- WRSR (R17). -/
  | wrsr (e : LX)
  /-- KSET (R17). -/
  | kset (e : LX)
  /-- LAUNCH (R229). -/
  | launch (e : LX)
  /-- REGGIVE (R122). -/
  | reggive (e : LX)
  /-- REGCLAIM (R122). -/
  | regclaim (e : LX)
  /-- TKCLAIM (R124). -/
  | tkclaim (e : LX)
  /-- MBIND (R317). -/
  | mbind (e : LX)
  /-- TLBINV (R317). -/
  | tlbinv (e : LX)
  /-- SPIN_LOWERING_EXPIRY (R107): Spin lowering ends after 1,024 pipeline cycles. -/
  | spinLoweringExpiry (t : ThreadKey)
  /-- THREAD_AGED (R108): A thread ready for 2,048 cycles without issuing becomes aged. -/
  | threadAged (t : ThreadKey)
  /-- MEETING_RELEASE (R104): A meeting set is released once it waits for no thread. -/
  | meetingRelease (gid pack : Nat) (m : CodeAddr)
  /-- MEETING_EARLY_RELEASE (R105): A meeting set is released after 65,536 cycles without progress. -/
  | meetingEarlyRelease (gid pack : Nat) (m : CodeAddr)
  /-- YIELD_END (R82): A yielding thread becomes eligible again. -/
  | yieldEnd (t : ThreadKey)
  /-- CROSS_LANE_GATHER (R110): The last member arrives and the gathered instruction completes. -/
  | crossLaneGather (t : ThreadKey)
  /-- XSTALL (R111): A gather wait times out after 2^20 cycles. -/
  | xstall (t : ThreadKey)
  /-- BSTALL (R112): A sync-word wait reaches the stall limit. -/
  | bstall (t : ThreadKey)
  /-- TRAP_DELIVERY (R113): One due trap of a pack is delivered and its record written. -/
  | trapDelivery (gid pack : Nat)
  /-- TRAP_RESUME (R85): The resume word passes and the thread acts on the disposition. -/
  | trapResume (t : ThreadKey)
  /-- LONG_LATENCY_RESULT (R27): A pending long-latency result arrives and is written. -/
  | longLatencyResult (t : ThreadKey) (serial : Nat)
  /-- PHASE_COMMIT (R120): The phase's staged writes become visible together and the undo log is discarded. -/
  | phaseCommit (gid : Nat)
  /-- PHASE_ADMISSION (R116): The phase scheduler admits a Queued phase that fits. -/
  | phaseAdmission (gid core : Nat)
  /-- PHASE_AGING (R232): A Queued phase rises one level after each 50 µs. -/
  | phaseAging (gid : Nat)
  /-- FORCED_PREEMPTION (R233): A level-11 phase unserved for 20 µs forces mid-phase pre-emption. -/
  | forcedPreemption (gid victim : Nat)
  /-- UNCORRECTABLE_ERROR_CONSUMED (R331): A node consumes an uncorrectable error and is rolled back. -/
  | uncorrectableErrorConsumed (gid : Nat) (job : Option Nat) (u : ErrorHit)
  /-- AUDIT_RERUN (R336): The auditor re-runs a sampled phase on another die and compares signatures. -/
  | auditRerun (gid core slot : Nat)
  /-- AUDIT_THIRD_RUN (R336): A third run settles a mismatch by majority and may quarantine a core. -/
  | auditThirdRun (gid core slot : Nat)
  /-- AUDIT_SAMPLE_DROP (R336): No core is available within 100 µs, so the sample is dropped. -/
  | auditSampleDrop (gid : Nat) (err : Bool)
  /-- FAULT_SERVE (R312): An FQREPLY_HI write with action 0 serves the page, and the parked accesses replay. -/
  | faultServe (dev pid page : Nat)
  /-- FAULT_DECLINE (R312): An FQREPLY_HI write with action 1 declines the page, and the parked threads take XLATE. -/
  | faultDecline (dev pid page : Nat)
  /-- STACK_GROWTH (R138): Firmware maps a zero-filled stack page and the access replays. -/
  | stackGrowth (t : ThreadKey) (frames : List Nat)
  /-- ATS_TRANSLATION_COMPLETION (R312): An ATS translation returns for a host page. -/
  | atsTranslationCompletion (dev pid iova : Nat) (host : Option Nat)
  /-- ATS_INVALIDATION_REQUEST (R312): The host invalidates a cached ATS translation. -/
  | atsInvalidationRequest (dev pid iova : Nat)
  /-- TLBINV_REGISTER (R310): A TLBINV register write acts as tlbinv.all. -/
  | tlbinvRegister (dev pid : Nat)
  /-- ENGINE_JOB_START (R187): The job scheduler starts a job whose edges have cleared. -/
  | engineJobStart (dev core job : Nat)
  /-- ENGINE_JOB_COMPLETE (R185): A job adds its bytes to its sync word after acknowledgement. -/
  | engineJobComplete (dev core job : Nat)
  /-- ENGINE_JOB_FAIL (R192): A queued job fails on translation, class or permission. -/
  | engineJobFail (dev core job : Nat)
  /-- FOLLOW_ON_ISSUE (R186): The copy engine issues the follow-on command after the last byte lands. -/
  | followOnIssue (dev core job : Nat)
  /-- ARRAY_DRAIN (R179): An mmac's results are added into the working banks after the broadcast. -/
  | arrayDrain (dev core job : Nat)
  /-- EPILOGUE_STORE_TRANSLATED (R182): Every byte of an accst has passed translation, and the hold ends. -/
  | epilogueStoreTranslated (dev core job : Nat)
  /-- EPILOGUE_STORE_FAULT (R182): An accst stops on a declined or refused byte, and its pair becomes Faulted. -/
  | epilogueStoreFault (dev core job : Nat)
  /-- SEQUENCER_DESCRIPTOR_ISSUE (R205): A sequencer issues its next descriptor. -/
  | sequencerDescriptorIssue (dev core sq : Nat)
  /-- ACCA_GRANT (R194): A waiting acca receives a run of free pairs. -/
  | accaGrant (dev core : Nat)
  /-- REGCLAIM_SERVE (R122): A waiting regclaim receives blocks from the pool. -/
  | regclaimServe (gid : Nat)
  /-- SEQUENCER_GRANT (R205): A waiting fork receives a free sequencer. -/
  | sequencerGrant (dev core : Nat)
  /-- JOB_QUEUE_SPACE (R193): A command waiting on a full queue is accepted. -/
  | jobQueueSpace (t : ThreadKey)
  /-- TICKET_MERGE (R124): After 64 cycles the merge point sends one fetch-and-add for the claims it collected. -/
  | ticketMerge (dev cluster : Nat) (key : Nat)
  /-- TICKET_REPLY (R124): The merged add returns and each claim receives base plus its rank. -/
  | ticketReply (t : ThreadKey)
  /-- ATOMIC_PERFORM (R136): An atomic reaches its home slice and performs there. -/
  | atomicPerform (serial : Nat)
  /-- LAUNCH_TAG_FREE (R147): The walker clears an ended launch's stamps and frees its tag. -/
  | launchTagFree (lid : Nat)
  /-- BACKGROUND_WALKER (R242): The walker decrements the children of a freed interior line. -/
  | backgroundWalker (dev pid : Nat)
  /-- SLOT_FREE (R242): A freed line's slot becomes free once every load cache has dropped it. -/
  | slotFree (dev pid region slot : Nat)
  /-- QUEUE_DOORBELL (R226): A QTAIL write rings the doorbell, or a refused one sets error. -/
  | queueDoorbell (dev pid q : Nat) (tail : Word)
  /-- QUEUE_ENABLE (R226): A QCTL bit 31 write starts or stops acceptance. -/
  | queueEnable (dev pid q : Nat) (on : Bool)
  /-- QUEUE_ERROR_CLEAR (R226): A QCTL bit 30 write of 1 clears the error. -/
  | queueErrorClear (dev pid q : Nat)
  /-- QUEUE_RESET (R226): A QCTL bit 29 write completes waiting launches with status 2 and empties the queue. -/
  | queueReset (dev pid q : Nat)
  /-- QUEUE_ENTRY_ACCEPT (R226): The device reads one queue entry with acquire and accepts the launch. -/
  | queueEntryAccept (dev pid : Nat) (q : LaunchQueue)
  /-- DEFERRED_LAUNCH_START (R229): A held mailbox, responder or handler launch starts once the count falls below 4,096. -/
  | deferredLaunchStart (dev pid : Nat)
  /-- MAILBOX_OVERFLOW_CLEAR (R230): A write of 1 clears a mailbox's overflow bit. -/
  | mailboxOverflowClear (dev pid m : Nat)
  /-- DEPENDENCES_PASSED (R231): Every dependence of a waiting launch has passed, and it dispatches or prepares. -/
  | dependencesPassed (lid : Nat)
  /-- GANG_PREPARE (R234): The gang manager sends prepare to the members of a Current view. -/
  | gangPrepare (lid : Nat)
  /-- GANG_GO (R234): Every acknowledgement has arrived, and go admits the groups. -/
  | gangGo (lid : Nat)
  /-- GANG_PREPARE_TIMEOUT (R234): A prepare unacknowledged for 100 µs aborts with status 3. -/
  | gangPrepareTimeout (lid : Nat)
  /-- FABRIC_LAUNCH_PREPARE (R235): The origin sends the record to each listed device and each reserves admission. -/
  | fabricLaunchPrepare (lid : Nat)
  /-- FABRIC_LAUNCH_GO (R235): Every acknowledgement has arrived, and go admits the groups on every device. -/
  | fabricLaunchGo (lid : Nat)
  /-- FABRIC_LAUNCH_TIMEOUT (R235): A fabric launch unacknowledged for 100 µs aborts with status 3. -/
  | fabricLaunchTimeout (lid : Nat)
  /-- FABRIC_LAUNCH_REPORT (R235): A device reports the end of its part to the origin. -/
  | fabricLaunchReport (lid dev : Nat)
  /-- LAUNCH_END (R227): A launch writes its done word, its completion record and its interrupt. -/
  | launchEnd (lid : Nat)
  /-- STEP_END (R266): The last group ends its part, and pending commits are applied. -/
  | stepEnd (seq : Word) (lid : Nat)
  /-- VIEW_PREPARE (R264): A new view is formed as Pending and prepare is sent. -/
  | viewPrepare (seq : Word) (width : Nat)
  /-- VIEW_ACKNOWLEDGED (R264): Every member has acknowledged, and the view enters Transferring. -/
  | viewAcknowledged (seq : Word) (num : Word) (member : Nat)
  /-- VIEW_PREPARE_TIMEOUT (R264): A view unacknowledged for 100 µs is Abandoned. -/
  | viewPrepareTimeout (seq : Word) (num : Word)
  /-- SNAPSHOT_TRANSFER_COMPLETE (R268): The snapshot has moved and the predecessor becomes Draining. -/
  | snapshotTransferComplete (seq : Word) (part : SnapshotPart)
  /-- CATCH_UP (R268): Blocks and tail bytes committed since the snapshot move to the successor. -/
  | catchUp (seq : Word) (num : Word)
  /-- VIEW_RETIRE (R264): A Draining view with no open step retires and the successor becomes Current. -/
  | viewRetire (seq : Word) (num : Word)
  /-- MEMBER_FAULT (R269): A member faults, its views fail, and a survivor view is formed. -/
  | memberFault (dev : Nat)
  /-- LIVENESS_PROBE_TIMEOUT (R269): A member misses its 100 µs liveness probe. -/
  | livenessProbeTimeout (dev : Nat)
  /-- RECOMPUTE_HANDLER_LAUNCH (R270): The recompute handler is launched for a run of lost blocks. -/
  | recomputeHandlerLaunch (seq : Word)
  /-- GANG_RERUN (R271): A failed gang step is launched again on the survivor view. -/
  | gangRerun (lid : Nat)
  /-- REMOTE_ACCESS_ARRIVAL (R291): A remote access performs at the destination's home slice. -/
  | remoteAccessArrival (serial : Nat)
  /-- REMOTE_ACCESS_TIMEOUT (R291): An unanswered remote access after 50 µs counts as consumed. -/
  | remoteAccessTimeout (serial : Nat)
  /-- FLUSH_MARKER (R150): A flush marker arrives, and the release performs once every marker is gathered. -/
  | flushMarker (t : ThreadKey) (dst path : Nat)
  /-- FLIT_REPLAY (R287): A flit that fails its link check is replayed. -/
  | flitReplay (dev port : Nat)
  /-- XFER_PACKET_ARRIVAL (R293): A transfer packet writes its bytes and counts them into the arrival word. -/
  | xferPacketArrival (dev core job packet : Nat)
  /-- FCOMMIT_PREPARE (R296): A destination checks and locks a region's sectors and acknowledges. -/
  | fcommitPrepare (t : ThreadKey) (dst : Nat)
  /-- FCOMMIT_COMMIT (R296): A destination performs the region's sectors as one unit. -/
  | fcommitCommit (t : ThreadKey)
  /-- FCOMMIT_ABORT (R296): A destination unlocks and writes nothing. -/
  | fcommitAbort (t : ThreadKey)
  /-- FCOMMIT_TIMEOUT (R296): 50 µs without every prepare acknowledgement fails the region. -/
  | fcommitTimeout (t : ThreadKey)
  /-- FRED_CONTRIBUTION (R297): A contribution reaches the reduction unit, which writes the result when every index has arrived. -/
  | fredContribution (serial : Nat) (err : Bool)
  /-- REDUCTION_TIMEOUT (R298): An incomplete reduction is discarded after 200 µs. -/
  | reductionTimeout (dev : Nat) (id : Word) (view : Word)
  /-- VIEW_FAILURE_ANNOUNCEMENT (R298): The open reductions of a failed view are discarded. -/
  | viewFailureAnnouncement (seq : Word) (view : Word)
  /-- CENSUS_START (R300): A core processes a census, and matching entries spawn responders. -/
  | censusStart (census core : Nat)
  /-- REPLY_ARRIVAL (R306): A reply reaches the reply unit and is combined or dropped. -/
  | replyArrival (serial : Nat)
  /-- CENSUS_COMPLETE (R306): Finished responders equal spawned ones, and the reply buffer is written. -/
  | censusComplete (census : Nat)
  /-- INTEGRITY_CHECK (R337): The first read of a promoted block checks its tag. -/
  | integrityCheck (t : ThreadKey) (page block : Nat)
  /-- PAGE_REFETCH (R337): A failed page is refetched from its source and checked again. -/
  | pageRefetch (page : Nat) (bytes : List (Nat × Byte))
  /-- ECC_CORRECTED (R330): A corrected ECC error is logged. -/
  | eccCorrected (dev : Nat) (u : ErrUnit) (pid : Option Nat)
  /-- PATROL_SCRUB (R330): The patrol scrub visits HBM lines. -/
  | patrolScrub (dev line : Nat) (found : ScrubResult)
  /-- FATAL_ERROR (R334): A fatal condition sends ERR_FATAL and stops every port. -/
  | fatalError (dev : Nat)
  /-- PRESET (R315): A PRESET write resets the partition. -/
  | preset (dev pid : Nat)
  /-- NBVSET (R319): An NBVSET write sets sr.nbv for later launches. -/
  | nbvset (dev pid : Nat) (v : Word)
  /-- PARTITION_SWAP_OUT (R314): A PSWAP bit 8 write halts, saves and swaps out a partition. -/
  | partitionSwapOut (dev pid : Nat)
  /-- PARTITION_SWAP_IN (R314): A PSWAP bit 9 write restores the shadow state and re-queues the groups. -/
  | partitionSwapIn (dev pid : Nat)
  /-- SWAP_HALT_TIMEOUT (R314): A group without a boundary after 20 µs is pre-empted mid-phase. -/
  | swapHaltTimeout (dev pid : Nat)
  /-- CHECKPOINT (R340): A CKCTL bit 31 write quiesces the device and sends the image. -/
  | checkpoint (dev target : Nat)
  /-- RESTORE (R341): A CKCTL bit 30 write verifies the image and restores it. -/
  | restore (dev : Nat) (source : RestoreSource)
  /-- CHECKPOINT_TARGET_REGISTRATION (R340): A peer registers as a checkpoint target. -/
  | checkpointTargetRegistration (dev target capacity rate : Nat)
  /-- CONTENT_REGION_ENABLE (R237): An RCTL enable write enables a region, or is ignored while RUSED is not zero. -/
  | contentRegionEnable (dev pid region : Nat) (on : Bool)
  /-- PREFIX_TABLE_ENABLE (R252): Writing bit 31 enables a table, and clearing it empties the table and drops references. -/
  | prefixTableEnable (dev pid table : Nat) (on : Bool)
  /-- REGISTER_WRITE (R310): A write to a window register that has no row of its own. -/
  | registerWrite (dev pid off : Nat) (v : Word)
  /-- BAR2_ACCESS (R309): A host access through the memory window, translated by the partition's page table. -/
  | bar2Access (dev pid off size : Nat) (wr : Option Nat)
  /-- MEASURED_BOOT (R342): After a conventional reset the boot ROM measures, verifies and runs each stage. -/
  | measuredBoot (dev : Nat)
  /-- CONFIGURATION_REQUEST (R346): A configuration request, answered with Request Retry Status until boot is ready. -/
  | configurationRequest (dev : Nat) (target : ConfigTarget)
  /-- POWER_CONTROL_INTERVAL (R347): Every 1 ms the controller compares power and temperature and moves the clock. -/
  | powerControlInterval (dev watts die hbm : Nat)
  /-- GET_VERSION (R344): An SPDM version request. -/
  | getVersion (dev pid : Nat)
  /-- GET_CAPABILITIES (R344): An SPDM capabilities request. -/
  | getCapabilities (dev pid : Nat)
  /-- NEGOTIATE_ALGORITHMS (R344): An SPDM algorithm negotiation. -/
  | negotiateAlgorithms (dev pid : Nat) (hashes asyms : List Nat)
  /-- GET_DIGESTS (R344): An SPDM digests request. -/
  | getDigests (dev pid : Nat)
  /-- GET_CERTIFICATE (R344): An SPDM certificate request. -/
  | getCertificate (dev pid slot off len : Nat)
  /-- CHALLENGE (R344): An SPDM challenge. -/
  | challenge (dev pid slot : Nat) (nonce : List Byte)
  /-- GET_MEASUREMENTS (R344): An SPDM measurements request. -/
  | getMeasurements (dev pid : Nat) (index : Nat) (signed : Bool) (nonce : List Byte)
  /-- VENDOR_DEFINED_REQUEST (R344): Returns the ML-DSA-65 signature over the transcript. -/
  | vendorDefinedRequest (dev pid vendor code : Nat)
  /-- INTERLOCKED_RESULT_ARRIVAL (R243): The reply of an interlocked instruction that is not long-latency arrives from its home slice or the gang manager, and its Waiting thread becomes Ready. Examples are cref, cunref, cswap, stepbeg, kvcommit and launch. -/
  | interlockedResultArrival (t : ThreadKey)
  /-- STORE_ACKNOWLEDGEMENT (R142): A home die cache, home slice or remote destination acknowledges a store. This ends a release or full-fence wait, or the Waiting of a remote plain store. -/
  | storeAcknowledgement (t : ThreadKey) (serial : Nat)
  /-- PARTITION_SAVE_COMPLETE (R314): Saving of a halted partition finishes within 80 µs: PSTAT becomes 3 (swapped) and vector 66 signals. -/
  | partitionSaveComplete (dev pid : Nat)
  /-- CHECKPOINT_COMPLETE (R340): The image transfer finishes: CKSTAT reads 3 and vector 66 signals. -/
  | checkpointComplete (dev : Nat)
  /-- CHECKPOINT_TARGET_LOST (R340): The registered target is lost during a checkpoint or restore, which fails with cause 2. -/
  | checkpointTargetLost (dev : Nat)
  /-- POWER_LOSS (R334): Power is lost and the device keeps nothing, including the fatal record. -/
  | powerLoss (dev : Nat)
  /-- ROUTE_TABLE_WRITE (R288): The fabric manager writes a route-table entry by a message on VC 5. -/
  | routeTableWrite (dev dst : Nat) (entry : Word)
  /-- PREPARE_REFUSAL (R264): A member refuses a prepare, or reports CFULL as a receiver, and the view is Abandoned or the gang or fabric launch aborts with status 3. -/
  | prepareRefusal (lid : Nat) (seq num : Word) (dev : Nat)
  /-- PARTITION_STATE_ERROR (R330): An uncorrectable error in partition state (code 0x20) halts the partition until PRESET. -/
  | partitionStateError (dev pid : Nat)
  /-- FABRIC_LINKS_TRAINED (R346): The fabric links finish training and the fabric agent reports them trained. -/
  | fabricLinksTrained (dev : Nat)
  deriving DecidableEq, Repr

end Sys2Proof
end

