-- ==== Sys2Proof/Machine/Encoding.lean ====
section
/-!
DEFINITION. The encoding tables of the manual: the raw fields of an instruction's words, what each opcode does with
them (Tables 1.2, 1.3, 2.5 to 2.8 and the field tables of the instruction entries), and the illegal-instruction checks
of Table 2.10 in their order (R33, R34).
-/
namespace Sys2Proof
open Bits

/-- The three instruction lengths (Table 2.1). -/
inductive Form where
  | s
  | l
  | x
  deriving DecidableEq, Repr

/-- The raw fields of an instruction's words. S forms hold their 6-bit fields zero-extended in `d`, `a` and `b`.
`b31` is W0 bit 31 of an L or X form; `b` is W1 7:0 also in an X form; `lit` is W2 (0 unless X). -/
structure Enc where
  op : BitVec 8
  form : Form
  g : BitVec 3
  n : Bool
  cc : Bool
  d : BitVec 8
  a : BitVec 8
  b : BitVec 8
  c : BitVec 8
  t : BitVec 4
  la : BitVec 4
  m : BitVec 8
  b31 : Bool
  lit : Word
  deriving DecidableEq, Repr

/-- Fields of an S form of opcode `op`. -/
def SEnc.enc (e : SEnc) (op : BitVec 8) : Enc :=
  ⟨op, .s, e.g, e.n, false, e.d.setWidth 8, e.a.setWidth 8, e.b.setWidth 8, 0, 0, 0, 0, false, 0⟩

/-- Fields of an L or X form of opcode `op`: the L form when no literal is given. -/
def LX.enc (e : LX) (op : BitVec 8) : Enc :=
  match e.lit with
  | none => ⟨op, .l, e.g, e.n, e.cc, e.d, e.a, e.b, e.c, e.t, e.la, e.m, false, 0⟩
  | some v => ⟨op, .x, e.g, e.n, e.cc, e.d, e.a, e.b, e.c, e.t, e.la, e.m, false, v⟩

/-- The L form of a row that has no X form: a literal is dropped. -/
def LX.encL (e : LX) (op : BitVec 8) : Enc :=
  ⟨op, .l, e.g, e.n, e.cc, e.d, e.a, e.b, e.c, e.t, e.la, e.m, false, 0⟩

/-- The X form of a row that has no L form: an absent literal reads as zero. -/
def LX.encX (e : LX) (op : BitVec 8) : Enc :=
  ⟨op, .x, e.g, e.n, e.cc, e.d, e.a, e.b, e.c, e.t, e.la, e.m, false, e.lit.getD 0⟩

namespace Encoding

/-- Length in bytes (Table 2.1). -/
def len (e : Enc) : Nat := match e.form with | .s => 4 | .l => 8 | .x => 12

/-- Full code of a short register code (Table 1.3): 0 to 7 are o0 to o7, 8 is l0, 9 is l1, 10 is zr, 11 to 63 are x0 to x52. -/
def fullOfShort (c : BitVec 8) : BitVec 8 :=
  if c.toNat < 8 then BitVec.ofNat 8 (0xC0 + c.toNat)
  else if c = 8 then 0xC8 else if c = 9 then 0xC9 else if c = 10 then 0xFF else c - 11

/-- The full register code an operand field holds. -/
def code (e : Enc) (f : BitVec 8) : BitVec 8 := if e.form = .s then fullOfShort f else f

/-- x0 to x191. -/
def isX (c : BitVec 8) : Bool := c.toNat < 0xC0
/-- o0 to o7. -/
def isO (c : BitVec 8) : Bool := 0xC0 ≤ c.toNat && c.toNat ≤ 0xC7
/-- k0 to k31. -/
def isK (c : BitVec 8) : Bool := 0xD0 ≤ c.toNat && c.toNat ≤ 0xEF
/-- l0 or l1. -/
def isLast (c : BitVec 8) : Bool := c == 0xC8 || c == 0xC9
/-- Reserved full code (Table 1.2). -/
def isReserved (c : BitVec 8) : Bool :=
  (0xCA ≤ c.toNat && c.toNat ≤ 0xCF) || (0xF0 ≤ c.toNat && c.toNat ≤ 0xFE)

/-- What a destination may not be, beyond k and l1: `alu` takes l0 (R10); `mem` refuses l0 with cause 0x12 (R155);
`both` refuses l0 and l1 with cause 0x12 (R77, R173); `status` refuses l0, l1 and k with cause 0x12 (R229);
`xo` takes x and o registers only (R194). -/
inductive DPol where
  | alu
  | mem
  | both
  | status
  | xo
  deriving DecidableEq, Repr

/-- What an operand field holds. `src w` and `dst w` name 1, 2 (pair) or 4 (quad) registers. `kdst` is a uniform
destination (kset), `kpair` an even uniform pair (ldk), `kOrZr` a k code or zr (ldk), `kblk` a block of uniform
registers, `zrOnly` must be zr, `xbase` the x register of fbegin. -/
inductive Role where
  | zero
  | raw
  | pred
  | src (w : Nat)
  | dst (w : Nat) (p : DPol)
  | kdst
  | kpair
  | kOrZr
  | kblk
  | zrOnly
  | xbase
  deriving DecidableEq, Repr

/-- Whether the field names registers. -/
def Role.isReg : Role → Bool
  | .zero => false | .raw => false | .pred => false
  | .src _ => true | .dst _ _ => true | .kdst => true | .kpair => true | .kOrZr => true | .kblk => true
  | .zrOnly => true | .xbase => true

/-- How many registers the field names. -/
def Role.width : Role → Nat
  | .src w => w | .dst w _ => w | .kpair => 2 | _ => 1

/-- The roles of the four operand fields. -/
structure Roles where
  d : Role
  a : Role
  b : Role
  c : Role
  deriving DecidableEq, Repr

/-- Registers an integer or floating-point type takes: a pair for .d, .du and .df (Table 2.6). -/
def tw (t : BitVec 4) : Nat := if t = 3 || t = 4 || t = 8 then 2 else 1

/-- Registers a memory type takes: a quad for T = 0 (R155). -/
def mw (t : BitVec 4) : Nat := if t = 0 then 4 else tw t

/-- The forms of each opcode (Table 2.8): none is an unassigned opcode. -/
def forms (op : BitVec 8) : Option (List Form) :=
  let n := op.toNat
  if n = 0x01 || n = 0x03 || n = 0x06 then some [.s, .x]
  else if n = 0x09 then some [.s, .l, .x]
  else if n ≤ 0x0B then some [.s, .l]
  else if n ≤ 0x0F then none
  else if n = 0x10 || n = 0x11 || n = 0x1D || (0x20 ≤ n && n ≤ 0x22) || (0x25 ≤ n && n ≤ 0x27) || n = 0x2F then some [.s, .l, .x]
  else if n ≤ 0x2F then some [.l, .x]
  else if n = 0x30 || n = 0x35 then some [.s, .l, .x]
  else if n = 0x32 || n = 0x33 || n = 0x37 then some [.l]
  else if n ≤ 0x39 then some [.l, .x]
  else if n ≤ 0x3F then none
  else if n ≤ 0x42 then some [.s, .l, .x]
  else if n ≤ 0x4E then some [.l, .x]
  else if n = 0x4F then none
  else if n ≤ 0x54 then some [.l, .x]
  else if n ≤ 0x57 then none
  else if n ≤ 0x5C then some [.l, .x]
  else if n ≤ 0x5F then none
  else if n ≤ 0x69 then some [.l, .x]
  else if n ≤ 0x6F then none
  else if n ≤ 0x73 then some [.s, .l, .x]
  else if n ≤ 0x76 then some [.l, .x]
  else if n ≤ 0x78 then some [.l]
  else if n ≤ 0x7F then none
  else if n = 0x83 || n = 0x84 then some [.s, .l, .x]
  else if n = 0x85 then some [.s, .l]
  else if n ≤ 0x86 then some [.l, .x]
  else if n ≤ 0x8F then none
  else if n ≤ 0x96 then some [.l, .x]
  else if n ≤ 0x9F then none
  else if n = 0xA0 || n = 0xA1 || n = 0xA5 || n = 0xA6 || n = 0xA9 then some [.l, .x]
  else if n ≤ 0xA8 then some [.l]
  else if n ≤ 0xAF then none
  else if n = 0xB0 || n = 0xB2 then some [.l, .x]
  else if n ≤ 0xB4 then some [.l]
  else if n ≤ 0xB7 then none
  else if n = 0xB9 then some [.x]
  else if n ≤ 0xBB then some [.l]
  else if n ≤ 0xBF then none
  else if n = 0xC1 then some [.l, .x]
  else if n ≤ 0xCB then some [.l]
  else if n ≤ 0xCF then none
  else if n = 0xD0 || n = 0xD2 || n = 0xD3 then some [.l, .x]
  else if n ≤ 0xDD then some [.l]
  else if n ≤ 0xDF then none
  else if n = 0xE0 then some [.l]
  else if n ≤ 0xE5 then some [.l, .x]
  else if n ≤ 0xE7 then some [.l]
  else if n = 0xE8 then some [.l, .x]
  else none

/-- Special registers (Table 1.4): width 64 and sr.meet are pair registers (R16). -/
def srPair (m : BitVec 8) : Bool := m = 17 || m = 24 || m = 26
/-- Special register numbers that are not reserved (Table 1.4). -/
def srKnown (m : BitVec 8) : Bool :=
  let n := m.toNat
  n ≤ 3 || (8 ≤ n && n ≤ 21) || n = 24 || n = 26 || (32 ≤ n && n ≤ 36)
/-- Special registers that `wrsr` may write: yes or privileged only (Table 1.4). -/
def srWritable (m : BitVec 8) : Bool := (17 ≤ m.toNat && m.toNat ≤ 21)

/-- In an X form of a one-source instruction the literal takes the source's place and a must be code 0x00 (R68). -/
def one (e : Enc) (w : Nat) : Role := if e.form = .x then .zero else .src w
/-- The b operand: a register, or zero where the literal replaces it (R24). -/
def two (e : Enc) (w : Nat) : Role := if e.form = .x then .zero else .src w

/-- What each opcode keeps in its operand fields (Tables 1.5, 2.7, 5.3, 5.5, 5.7, 5.8, 6.1, 6.6, 11.3, 11.8, 11.10, 13.1,
17.4, 19.9, 20.7 and the entries). -/
def roles (e : Enc) : Roles :=
  let w := tw e.t
  let s := e.form = .s
  match e.op.toNat with
  | 0x01 | 0x03 | 0x06 => if s then ⟨.raw, .raw, .raw, .zero⟩ else ⟨.zero, .zero, .zero, .zero⟩
  | 0x02 | 0x04 | 0x05 | 0x07 => ⟨.zero, .src 1, .zero, .zero⟩
  | 0x09 => if s then ⟨.zero, .zero, .raw, .zero⟩ else ⟨.zero, one e 1, .zero, .zero⟩
  | 0x0A => if s then ⟨.zero, .zero, .raw, .zero⟩ else ⟨.zero, .zero, .zero, .zero⟩
  | 0x10 | 0x11 | 0x12 | 0x13 | 0x14 | 0x15 | 0x18 | 0x19 | 0x1A | 0x1B
  | 0x20 | 0x21 | 0x22 | 0x23 | 0x36 => ⟨.dst w .alu, .src w, two e w, .zero⟩
  | 0x16 | 0x1F | 0x24 => ⟨.dst w .alu, .src w, two e w, .src w⟩
  | 0x17 => ⟨.dst 2 .alu, .src 1, two e 1, .src 2⟩
  | 0x1C => ⟨.dst w .alu, one e w, .zero, .zero⟩
  | 0x1D | 0x2F => if s then ⟨.dst 1 .alu, .src 1, .zero, .zero⟩ else ⟨.dst w .alu, one e w, .zero, .zero⟩
  | 0x1E => ⟨.dst (if e.c = 3 then w else 1) .alu, one e w, .zero, .raw⟩
  | 0x25 | 0x26 | 0x27 => if s then ⟨.dst 1 .alu, .src 1, .raw, .zero⟩ else ⟨.dst w .alu, .src w, two e 1, .zero⟩
  | 0x28 | 0x29 | 0x2E => ⟨.dst w .alu, .src w, two e 1, .zero⟩
  | 0x2A | 0x2C => ⟨.dst 1 .alu, .src 1, two e 1, .src 1⟩
  | 0x2B | 0x2D => ⟨.dst 1 .alu, .src 1, two e 1, .zero⟩
  | 0x30 => if s then ⟨.raw, .src 1, .src 1, .zero⟩
            else ⟨.pred, .src w, two e w, if field e.m.toNat 7 6 = 0 then .zero else .pred⟩
  | 0x31 | 0x39 => ⟨.pred, .src w, two e w, if field e.m.toNat 7 6 = 0 then .zero else .pred⟩
  | 0x32 => ⟨.pred, .pred, .pred, .pred⟩
  | 0x33 => ⟨.dst 1 .both, .zero, .zero, .zero⟩
  | 0x34 | 0x38 => ⟨.zero, one e 1, .zero, .zero⟩
  | 0x35 => if s then ⟨.dst 1 .alu, .src 1, .src 1, .zero⟩ else ⟨.dst w .alu, .src w, two e w, .pred⟩
  | 0x37 => ⟨.dst 1 .alu, .zero, .zero, .zero⟩
  | 0x40 | 0x41 | 0x42 | 0x44 | 0x45 | 0x46 => ⟨.dst w .alu, .src w, two e w, .zero⟩
  | 0x43 => ⟨.dst w .alu, .src w, two e w, .src w⟩
  | 0x47 | 0x48 | 0x49 | 0x4B => ⟨.dst w .alu, one e w, .zero, .zero⟩
  | 0x4A => ⟨.dst 1 .alu, one e w, .zero, .zero⟩
  | 0x4C => ⟨.dst w .alu, .src w, two e 1, .zero⟩
  | 0x4D => ⟨.dst (if e.c = 0 then w else 1) .alu, one e w, .zero, .raw⟩
  | 0x4E => ⟨.dst 1 .alu, .src 1, two e 1, .src 1⟩
  | 0x50 => ⟨.dst w .alu, one e (tw (e.c.setWidth 4)), .zero, .raw⟩
  | 0x51 | 0x52 | 0x53 => ⟨.dst 1 .alu, .src 1, two e 1, .zero⟩
  | 0x54 => ⟨.dst 2 .alu, one e 1, .zero, .zero⟩
  | 0x58 | 0x59 | 0x5A | 0x5B | 0x5C => ⟨.dst 1 .alu, one e 1, .zero, .zero⟩
  | 0x60 | 0x61 | 0x62 | 0x63 => ⟨.dst w .alu, .src w, two e w, .zero⟩
  | 0x64 | 0x65 | 0x66 => ⟨.dst w .alu, one e w, .zero, .zero⟩
  | 0x67 | 0x68 => ⟨.dst w .alu, one e (tw (e.c.setWidth 4)), .zero, .raw⟩
  | 0x69 => ⟨.dst 2 .alu, one e 1, .zero, .zero⟩
  | 0x70 => if s then ⟨.dst 1 .mem, .src 2, .raw, .zero⟩ else ⟨.dst (mw e.t) .mem, .src 2, two e 1, .raw⟩
  | 0x71 => if s then ⟨.src 1, .src 2, .raw, .zero⟩ else ⟨.src (mw e.t), .src 2, two e 1, .zero⟩
  | 0x72 => if s then ⟨.dst 1 .mem, .src 1, .raw, .zero⟩ else ⟨.dst (mw e.t) .mem, .src 1, two e 1, .raw⟩
  | 0x73 => if s then ⟨.src 1, .src 1, .raw, .zero⟩ else ⟨.src (mw e.t), .src 1, two e 1, .zero⟩
  | 0x74 => ⟨.dst 1 .mem, .src 2, two e 1, .raw⟩
  | 0x75 => ⟨.dst (mw e.t) .mem, .kpair, if e.form = .x then .zero else .kOrZr, .raw⟩
  | 0x76 => ⟨.zero, .src 2, two e 1, .raw⟩
  | 0x77 => ⟨.zero, if e.c = 1 then .src 2 else .zero, .zero, .raw⟩
  | 0x80 => let v := if e.c = 8 then 2 * w else w
            ⟨.dst w .mem, .src 2, two e v, .raw⟩
  | 0x81 => let v := if e.c = 8 then 2 * w else w
            ⟨.dst w .mem, .src 1, two e v, .raw⟩
  | 0x82 => ⟨.zero, .src (if bit e.m.toNat 0 then 2 else 1), two e 1, if bit e.m.toNat 2 then .zero else .src 1⟩
  | 0x83 => if s then ⟨.zero, .src 1, .zero, .zero⟩ else ⟨.zero, .src (if bit e.m.toNat 0 then 2 else 1), two e 1, .zero⟩
  | 0x84 => if s then ⟨.zero, .src 1, .src 1, .zero⟩ else ⟨.zero, .src (if bit e.m.toNat 0 then 2 else 1), two e 1, .zero⟩
  | 0x85 => ⟨.zero, .src 1, .zero, .zero⟩
  | 0x86 => ⟨.dst 1 .mem, .src (if bit e.m.toNat 0 then 2 else 1), two e 1, .zero⟩
  | 0x90 => ⟨.dst w .both, .src w, two e 1, .src 1⟩
  | 0x91 => ⟨.dst w .both, .src w, two e 1, .zero⟩
  | 0x92 => ⟨.dst 1 .both, .zero, two e 1, .pred⟩
  | 0x93 | 0x94 => ⟨.dst w .both, .src w, two e 1, .zero⟩
  | 0x95 => ⟨.dst 1 .both, .src w, two e 1, .zero⟩
  | 0x96 => ⟨.pred, .zero, two e 1, .zero⟩
  | 0xA0 => ⟨.dst 1 .xo, one e 1, .zero, .zero⟩
  | 0xA1 | 0xA6 | 0xA9 => ⟨.zero, one e 1, .zero, .zero⟩
  | 0xA2 | 0xA3 => ⟨.src 1, .src (if bit e.m.toNat 5 && e.op = 0xA2 then 1 else if bit e.m.toNat 5 then 1 else 2), .src 1, .src 1⟩
  | 0xA4 => ⟨.zero, .zero, .zero, .raw⟩
  | 0xA5 => ⟨.zero, one e 1, .zero, if e.form = .x then .zero else .raw⟩
  | 0xA7 => ⟨.dst w .mem, .src 1, .src 1, .zero⟩
  | 0xA8 => ⟨.src 1, .src 1, .src (if bit e.m.toNat 0 then 1 else 2), .kblk⟩
  | 0xB0 => ⟨if field e.m.toNat 1 0 = 0 then .src 2 else .zrOnly, if bit e.m.toNat 2 then .zrOnly else .src 2, .zero, .kblk⟩
  | 0xB1 => ⟨.src 1, .src 2, .zero, .kblk⟩
  | 0xB2 => ⟨.dst 1 .mem, one e 1, .zero, .zero⟩
  | 0xB3 => ⟨.dst 1 .mem, .src 1, .zero, .zero⟩
  | 0xB4 => ⟨.zero, .zero, .zero, if bit e.m.toNat 4 then .zero else .pred⟩
  | 0xB8 => ⟨.zero, .zero, .zero, .kblk⟩
  | 0xB9 => ⟨.xbase, .zero, .zero, .raw⟩
  | 0xBB => ⟨.dst 1 .mem, .src 1, .zero, .kblk⟩
  | 0xC0 => ⟨.dst 2 .mem, .src (if bit e.m.toNat 5 then 1 else 2), .zero, .zero⟩
  | 0xC1 => ⟨.dst (mw e.t) .mem, .src 2, two e 1, .zero⟩
  | 0xC2 | 0xC3 => ⟨.dst 1 .mem, .src 2, .zero, .zero⟩
  | 0xC4 => ⟨.dst 2 .mem, .src 2, .src 2, .src 2⟩
  | 0xC5 => ⟨.src 2, .src 2, .src 1, .kblk⟩
  | 0xC6 => ⟨.dst 2 .mem, .src (if field e.m.toNat 7 6 = 0 then 4 else if field e.m.toNat 7 6 = 1 then 1 else 2), .zero, .zero⟩
  | 0xC7 => ⟨.dst 2 .mem, .src 2, .src (if bit e.m.toNat 2 then 2 else 1), .zero⟩
  | 0xC8 => ⟨.dst 4 .mem, .src 1, .src 1, .zero⟩
  | 0xC9 => ⟨.dst 1 .mem, .src 4, .src 1, .zero⟩
  | 0xCA | 0xCB => ⟨.dst 1 .mem, .src 2, .src 1, .zero⟩
  | 0xD0 | 0xD3 => ⟨.dst 1 .mem, .src 1, two e 1, .zero⟩
  | 0xD1 | 0xD7 => ⟨.dst 1 .mem, .src 1, .zero, .zero⟩
  | 0xD2 => if bit e.m.toNat 0 then ⟨.dst 1 .mem, .src 1, two e 1, .zero⟩ else ⟨.dst 4 .mem, .src 1, .zero, .zero⟩
  | 0xD4 => ⟨.dst (mw e.t) .mem, .src 2, .src 1, .src 1⟩
  | 0xD5 => ⟨.src (mw e.t), .src 2, .src 1, .src 1⟩
  | 0xD6 => ⟨.dst 1 .mem, .src 1, .src 1, .src (if bit e.m.toNat 0 then 2 else 1)⟩
  | 0xD8 => if bit e.m.toNat 0 then ⟨.dst 1 .mem, .src 4, .src 1, .zero⟩ else ⟨.dst 1 .mem, .src 1, .zero, .zero⟩
  | 0xD9 =>
      match e.c.toNat with
      | 0 | 4 => ⟨.dst 2 .mem, .src 1, .zero, .raw⟩
      | 1 => ⟨.dst 4 .mem, .src 1, .src 1, .raw⟩
      | 2 => ⟨.dst 2 .mem, .src 1, .src 1, .raw⟩
      | 3 => ⟨.dst 1 .mem, .src 1, .src 1, .raw⟩
      | 5 => ⟨.dst 2 .mem, .src 1, .src 4, .raw⟩
      | 6 => ⟨.dst 1 .mem, .src 2, .zero, .raw⟩
      | _ => ⟨.dst 1 .mem, .src 1, .raw, .raw⟩
  | 0xDA => ⟨.dst 1 .mem, .src 2, .src 1, .src 1⟩
  | 0xDB => ⟨.dst 4 .mem, .src 1, .zero, .zero⟩
  | 0xDC => ⟨.dst 1 .mem, .src 2, .src 4, .src 1⟩
  | 0xDD => ⟨.zero, .src 2, .zero, .zero⟩
  | 0xE0 => ⟨.dst (if srPair e.m then 2 else 1) .mem, .zero, .zero, .zero⟩
  | 0xE1 => ⟨.zero, .zero, two e (if srPair e.m then 2 else 1), .zero⟩
  | 0xE2 => ⟨.kdst, .zero, two e 1, .zero⟩
  | 0xE3 => ⟨.dst 1 .status, .src 2, two e 1, .zero⟩
  | 0xE4 | 0xE5 => ⟨.zero, .zero, two e 1, .zero⟩
  | 0xE6 => ⟨.dst 1 .mem, .src 2, .zero, .zero⟩
  | 0xE7 => ⟨.dst 1 .mem, .src 2, .src 4, .zero⟩
  | 0xE8 => if bit e.m.toNat 5 then ⟨.zero, .zrOnly, if e.form = .x then .zero else .zrOnly, .zero⟩
            else ⟨.zero, .src 2, two e 1, .zero⟩
  | _ => ⟨.zero, .zero, .zero, .zero⟩

/-- The types `cvt` converts between (Table 6.3). -/
def cvtType (t : Nat) : Bool := decide ((1 ≤ t ∧ t ≤ 4) ∨ (6 ≤ t ∧ t ≤ 9))

/-- Whether the entry permits the T value (R29, R68), and for `cvt` its source type with it. -/
def tOk (e : Enc) : Bool :=
  let t := e.t.toNat
  let int4 := decide (1 ≤ t ∧ t ≤ 4)
  let log5 := decide (t ≤ 4)
  let flt4 := decide (6 ≤ t ∧ t ≤ 9)
  let mem7 := decide (t ≤ 6)
  match e.form with
  | .s => true
  | _ =>
  match e.op.toNat with
  | 0x10 | 0x11 | 0x12 | 0x13 | 0x14 | 0x15 | 0x16 | 0x18 | 0x19 | 0x1A | 0x1B | 0x1F | 0x2E | 0x30 => int4
  | 0x17 | 0x2B => decide (t = 1 ∨ t = 2)
  | 0x1C | 0x1D => decide (t = 1 ∨ t = 3)
  | 0x1E => decide (t = 2 ∨ t = 4)
  | 0x20 | 0x21 | 0x22 | 0x23 | 0x24 | 0x25 | 0x26 | 0x27 | 0x28 | 0x29 | 0x2F | 0x35 | 0x36 => log5
  | 0x31 | 0x40 | 0x41 | 0x42 | 0x43 | 0x44 | 0x45 | 0x46 | 0x47 | 0x48 | 0x49 | 0x4A | 0x4B | 0x4C | 0x4D => flt4
  | 0x39 | 0x60 | 0x61 | 0x62 | 0x63 | 0x64 | 0x65 | 0x66 | 0x67 | 0x90 | 0x91 | 0x95 => decide (t = 0 ∨ t = 3)
  | 0x4E => decide (t = 6 ∨ t = 9)
  | 0x50 => cvtType t && cvtType (field e.c.toNat 3 0)
  | 0x53 | 0x54 => decide (t = 0 ∨ t = 6 ∨ t = 9)
  | 0x58 | 0x59 | 0x5A | 0x5B | 0x5C => decide (t = 6 ∨ t = 7 ∨ t = 9)
  | 0x68 => decide (6 ≤ t ∧ t ≤ 8)
  | 0x69 => decide (t = 3)
  | 0x70 | 0x71 | 0x72 | 0x73 | 0x75 | 0xD4 | 0xD5 => mem7
  | 0x74 => decide (t = 7)
  | 0x80 | 0x81 =>
      match e.c.toNat with
      | 0 | 1 | 2 | 3 | 4 | 5 | 6 | 7 => int4
      | 8 => decide (t = 2 ∨ t = 4)
      | 9 | 10 => decide (t = 2)
      | 11 => decide (t = 7)
      | _ => int4 || decide (t = 7)
  | 0x93 | 0x94 => int4 || flt4
  | 0xA7 => decide (t = 1 ∨ t = 2 ∨ t = 3 ∨ t = 7 ∨ t = 8)
  | 0xA8 => decide (t = 1 ∨ t = 5 ∨ t = 6 ∨ t = 7 ∨ t = 9)
  | 0xC1 => log5
  | 0xC4 => decide (t = 4)
  | _ => decide (t = 0)

/-- Whether `cvt` from type `s` to type `t` may round (Table 6.3). -/
def cvtRounds (t s : Nat) : Bool :=
  let isI := fun x => decide (1 ≤ x ∧ x ≤ 4)
  if isI s && isI t then false
  else if isI s then !(t = 8 && (s = 1 || s = 2))
  else if isI t then true
  else !((t = 7 && (s = 6 || s = 9)) || (t = 8 && (s = 6 || s = 7 || s = 9)))

/-- M of a load or store (Table 11.1): shift 0 to 4 in the L form and 0 in the X form, a scope only with order 10, order 11 illegal. -/
def mMem (e : Enc) (m : Nat) : Bool :=
  let sh := field m 7 5
  let sc := field m 4 2
  let o := field m 1 0
  (if e.form = .x then sh = 0 else sh ≤ 4) && o ≠ 3 && (if o = 2 then sc ≤ 6 else sc = 0)

/-- M of an atomic (Table 11.4). -/
def mAtomic (m : Nat) (o : Bool) : Bool :=
  field m 7 6 = 0 && (o || field m 5 5 = 0) && (if field m 1 0 = 0 then field m 4 2 = 0 else field m 4 2 ≤ 6)

/-- Whether the entry permits the M value (R30, and the M column of each table). -/
def mOk (e : Enc) : Bool :=
  let m := e.m.toNat
  match e.form with
  | .s => true
  | _ =>
  match e.op.toNat with
  | 0x09 | 0x0A | 0x24 | 0x32 | 0xA3 | 0xB9 | 0xE0 | 0xE1 => true
  | 0x2D => m ≤ 1
  | 0x2E => m ≤ 31
  | 0x30 => field m 5 2 ≤ 5 && field m 1 0 = 0
  | 0x31 | 0x39 => field m 5 2 ≤ 7 && field m 1 0 = 0
  | 0x34 => m < 128
  | 0x36 | 0x37 => m ≤ 13
  | 0x38 => m < 16
  | 0x40 | 0x41 | 0x42 | 0x43 | 0x46 | 0x47 | 0x48 | 0x49 | 0x4C | 0x4E
  | 0x58 | 0x59 | 0x5A | 0x5B | 0x5C | 0x68 => m < 4
  | 0x4B => m < 8
  | 0x50 =>
      let s := field e.c.toNat 3 0
      let t := e.t.toNat
      m < 8 && (m % 4 = 0 || cvtRounds t s) && (m < 4 || (1 ≤ t && t ≤ 4 && 1 ≤ s && s ≤ 4))
  | 0x51 | 0x52 => m = 0 || m = 4
  | 0x53 => if e.t = 0 then m = 0 else m < 4
  | 0x70 | 0x71 | 0x72 | 0x73 => mMem e m
  | 0x74 => mMem e m && field m 1 0 ≤ 1
  | 0x75 | 0x76 => mMem e m && field m 4 0 = 0
  | 0x78 => field m 1 0 ≠ 0 && field m 4 2 ≤ 6 && field m 7 5 = 0
  | 0x80 => mAtomic m true
  | 0x81 => mAtomic m false
  | 0x82 =>
      field m 7 6 = 0 && field m 5 3 ≤ 6 && (bit m 0 || field m 5 3 ≤ 2) && !(bit m 0 && bit m 2)
  | 0x83 => m < 4
  | 0x84 | 0x86 => m < 2
  | 0x90 | 0x92 => m < 4
  | 0x91 => m < 64
  | 0x93 => if e.t.toNat ≤ 4 then m ≤ 5 else m ≤ 2
  | 0x94 => m < 16 && (if e.t.toNat ≤ 4 then m % 8 ≤ 5 else m % 8 ≤ 2)
  | 0xA2 => m < 64
  | 0xA4 => m = 16 || m = 32 || m = 64
  | 0xA5 => e.form = .l || m = 0
  | 0xA7 => m % 64 = 0
  | 0xA8 | 0xA9 => m < 2
  | 0xB0 => (field m 1 0 ≥ 2 || field m 7 6 = 0) && (field m 1 0 = 2 || field m 5 3 = 0)
  | 0xB4 => m < 32
  | 0xB8 => m < 2
  | 0xC0 => m < 64
  | 0xC4 => mAtomic m false
  | 0xC6 =>
      match field m 7 6 with
      | 0 => m < 32 && 1 ≤ m && m ≤ 16
      | 1 | 2 => field m 5 0 = 0
      | _ => false
  | 0xC7 => m < 8 && m % 4 ≠ 3
  | 0xC8 | 0xC9 | 0xCA | 0xCB => m < 16
  | 0xD2 | 0xD6 => m < 2
  | 0xD8 => if bit m 0 then field m 3 1 = 0 else m = 0
  | 0xDA => m < 32 && field m 4 2 ≤ 5
  | 0xE7 => field m 7 5 ≤ 4
  | 0xE8 => m < 64
  | _ => m = 0

/-- The instructions that define a condition-code effect (R70). -/
def ccOk (op : BitVec 8) : Bool :=
  let n := op.toNat
  (0x10 ≤ n && n ≤ 0x13) || n = 0x1D || (0x20 ≤ n && n ≤ 0x24)

/-- The long-latency opcodes (Table 2.5). -/
def longLatency (op : BitVec 8) : Bool :=
  let n := op.toNat
  n = 0x18 || n = 0x19 || n = 0x46 || n = 0x47 || (0x58 ≤ n && n ≤ 0x5C) || (0x60 ≤ n && n ≤ 0x63) || (0x65 ≤ n && n ≤ 0x69)
    || n = 0x70 || n = 0x72 || n = 0x74 || n = 0x75 || n = 0x80 || n = 0x81 || n = 0x86 || n = 0xA7
    || n = 0xC0 || n = 0xC1 || n = 0xC6 || n = 0xD4 || n = 0xD9

/-- ILLEGAL detail word (Table 2.9). -/
def detail (cause : Nat) (op : BitVec 8) (fld : BitVec 8) (word : Nat) : Word :=
  BitVec.ofNat 32 (cause * 2 ^ 24 + op.toNat * 2 ^ 16 + fld.toNat * 2 ^ 8 + word)

/-- The type value that cause 0x07 reports: that of T, or the source type of `cvt` where only it is not permitted. -/
def badType (e : Enc) : BitVec 8 :=
  if e.op = 0x50 && cvtType e.t.toNat then e.c &&& 15 else e.t.setWidth 8

/-- The lowest register that `fbegin`'s mask selects at or above the granted count, as its distance from d. -/
def pastGrant (e : Enc) (grant : Nat) : Option Nat :=
  (List.range 16).find? (fun i => bit (e.c.toNat + 256 * e.m.toNat) i && decide (grant ≤ e.d.toNat + i))

/-- The operand fields in the order of check d, a, b, c (R34): role, field, and the word that holds it. -/
def operands (e : Enc) : List (Role × BitVec 8 × Nat) :=
  let r := roles e
  let w1 := if e.form = .s then 0 else 1
  [(r.d, e.d, 0), (r.a, e.a, 0), (r.b, e.b, w1), (r.c, e.c, w1)]

/-- The first operand that fails a check. -/
def firstBad (bad : Role → BitVec 8 → Bool) : List (Role × BitVec 8 × Nat) → Option (BitVec 8 × Nat)
  | [] => none
  | (r, f, w) :: xs => if bad r f then some (f, w) else firstBad bad xs

/-- Pair or quad misuse that the code alone shows (R11, R155). -/
def misuse (w : Nat) (c : BitVec 8) : Bool :=
  if w ≤ 1 || c = 0xFF then false
  else if isLast c then true
  else if w = 2 then c.toNat % 2 = 1
  else c.toNat % 4 ≠ 0

/-- The operand fields as the check for fields marked zero takes them: W1 7:0 of an X form is one (R24). -/
def zeroOperands (e : Enc) : List (Role × BitVec 8 × Nat) :=
  let r := roles e
  let w1 := if e.form = .s then 0 else 1
  [(r.d, e.d, 0), (r.a, e.a, 0), (if e.form = .x then .zero else r.b, e.b, w1), (r.c, e.c, w1)]

/-- Causes 0x06 to 0x0B, 0x0D (by code alone) to 0x0F and 0x12 of the encoding: see `illegal` for the whole order. -/
def zeroBad (r : Role) (f : BitVec 8) : Bool :=
  match r with | .zero => f ≠ 0 | .pred => f.toNat ≥ 8 | _ => false

/-- Illegal uses that an entry bases on fields of the encoding alone (cause 0x12), with the word of the field. -/
def entryBad (e : Enc) : Option (BitVec 8 × Nat) :=
  let cd := fun f => code e f
  let r := roles e
  let dPol : Option (BitVec 8 × Nat) :=
    match r.d with
    | .dst _ .mem => flagIf (cd e.d = 0xC8) (0, 0)
    | .dst _ .both => flagIf (isLast (cd e.d)) (0, 0)
    | .dst _ .status => flagIf (isLast (cd e.d) || isK (cd e.d)) (0, 0)
    | .dst _ .xo => flagIf (!(isX (cd e.d) || isO (cd e.d))) (0, 0)
    | .kdst => flagIf (!isK e.d) (0, 0)
    | .zrOnly => flagIf (e.d ≠ 0xFF) (0, 0)
    | .xbase => flagIf (!isX e.d) (0, 0)
    | _ => none
  let aPol : Option (BitVec 8 × Nat) :=
    match r.a with
    | .zrOnly => flagIf (e.a ≠ 0xFF) (0, 0)
    | .kpair => flagIf (!isK e.a) (0, 0)
    | _ => none
  let bPol : Option (BitVec 8 × Nat) :=
    match r.b with
    | .kOrZr => flagIf (!(isK e.b || e.b = 0xFF)) (0, 1)
    | .zrOnly => flagIf (e.b ≠ 0xFF) (0, 1)
    | _ => none
  let x := e.form = .x
  let own : Option (BitVec 8 × Nat) :=
    match e.op.toNat with
    | 0x1E => flagIf (e.c.toNat ≥ 4) (0, 1)
    | 0x25 | 0x26 | 0x27 => flagIf (e.form = .s && e.b.toNat ≥ 32) (0, 0)
    | 0x30 => flagIf (e.form = .s && e.d.toNat ≥ 48) (e.d, 0)
    | 0x31 | 0x40 | 0x41 | 0x42 | 0x43 | 0x44 | 0x45 | 0x46 | 0x47 | 0x48 | 0x49 | 0x4A | 0x4B => flagIf (x && e.t = 8) (0, 2)
    | 0x4D => if x && e.t = 8 then some (0, 2) else flagIf (e.c.toNat ≥ 2) (0, 1)
    | 0x39 | 0x60 | 0x61 | 0x62 | 0x63 | 0x64 | 0x65 | 0x66 => flagIf (x && e.t = 3) (0, 2)
    | 0x50 => if x && tw (e.c.setWidth 4) = 2 then some (0, 2) else flagIf (e.t.toNat = e.c.toNat) (0, 1)
    | 0x67 =>
        if x && (e.c = 8 || e.c = 3) then some (0, 2)
        else flagIf (!(e.c = 6 || e.c = 7 || e.c = 8 || e.c = 0 || e.c = 3) || e.c.toNat = e.t.toNat) (0, 1)
    | 0x68 => if !(e.c = 0 || e.c = 3) then some (0, 1) else flagIf (x && e.c = 3) (0, 2)
    | 0x70 | 0x72 | 0x75 => flagIf (e.c.toNat ≥ 2 || (e.c = 1 && !(e.t = 5 || e.t = 6))) (0, 1)
    | 0x74 | 0x76 => flagIf (e.c.toNat ≥ 2) (0, 1)
    | 0x77 => flagIf (e.c.toNat ≥ 2) (0, 1)
    | 0x80 | 0x81 => if e.c.toNat ≥ 12 then some (0, 1) else flagIf (x && e.c = 8) (0, 2)
    | 0xA7 =>
        let mode := field e.m.toNat 7 6
        flagIf (mode = 1 || mode = 2 || (mode = 3 && e.t ≠ 2)) (0, 1)
    | 0xD9 => flagIf (e.c.toNat ≥ 7) (0, 1)
    | _ => none
  firstSome [dPol, aPol, bPol, own]

/-- The checks of Table 2.10 that depend on the instruction's fields alone, as the detail word of the lowest cause,
over what the machine adds: causes 0x0C and 0x0D need the granted count `grant`, 0x10 the branch check `offBad`
and 0x11 the privilege `priv`. With `grant := 192`, `offBad := false` and `priv := true` it is what well-formedness asks. -/
def illegal (e : Enc) (grant : Nat) (offBad priv : Bool) : Option Word :=
  let ops := operands e
  let op := e.op
  let w1 := if e.form = .s then 0 else 1
  let by0 := fun cause (o : Option (BitVec 8 × Nat)) => o.map (fun p => detail cause op 0 p.2)
  let byF := fun cause (o : Option (BitVec 8 × Nat)) => o.map (fun p => detail cause op p.1 p.2)
  let byR := fun cause (o : Option (BitVec 8 × Nat)) => o.map (fun p => detail cause op (code e p.1) p.2)
  match forms op with
  | none => some (detail (if op.toNat ≥ 0xF0 then 3 else 4) op 0 0)
  | some fs =>
    if !(fs.contains e.form) then some (detail 5 op 0 0) else
    firstSome
      [ flagIf e.b31 (detail 6 op 0 0),
        by0 6 (firstBad zeroBad (zeroOperands e)),
        flagIf (op = 0x50 && field e.c.toNat 7 4 ≠ 0) (detail 6 op 0 1),
        flagIf (!tOk e) (detail 7 op (badType e) w1),
        flagIf (!mOk e) (detail 8 op e.m w1),
        flagIf (e.cc && !ccOk op) (detail 9 op 0 0),
        flagIf (e.la ≠ 0 && !longLatency op) (detail 0xA op 0 1),
        byR 0xB (firstBad (fun r f => r.isReg && isReserved (code e f)) ops),
        byR 0xC (firstBad (fun r f => r.isReg && isX (code e f) && decide (grant ≤ (code e f).toNat)) ops),
        if op = 0xB9 && isX e.d then (pastGrant e grant).map (fun i => detail 0xC op (e.d + BitVec.ofNat 8 i) 0) else none,
        byR 0xD (firstBad (fun r f => r.isReg &&
          (misuse r.width (code e f) ||
           (isX (code e f) && decide (grant < (code e f).toNat + r.width)))) ops),
        flagIf (match (roles e).d with
          | .dst _ .alu => isK (code e e.d) || code e e.d = 0xC9
          | .dst _ .mem => isK (code e e.d) || code e e.d = 0xC9
          | .dst _ .both => isK (code e e.d)
          | .kdst => e.d = 0xC9
          | _ => false) (detail 0xE op (code e e.d) 0),
        flagIf ((op = 0xE0 && !srKnown e.m) || (op = 0xE1 && !srWritable e.m)) (detail 0xF op e.m 1),
        flagIf offBad (detail 0x10 op 0 (if e.form = .x then 2 else 0)),
        flagIf (!priv && (op = 0xE7 || op = 0xE8 || (op = 0xE1 && e.m = 20))) (detail 0x11 op (if op = 0xE1 then e.m else 0) (if op = 0xE1 then 1 else 0)),
        byF 0x12 (entryBad e) ]

/-- Well-formed by the encoding alone: no check of Table 2.10 that rests on the words alone fails. -/
def ok (e : Enc) : Bool := (illegal e 192 false true).isNone

/-- Length field of each form (Table 2.1). -/
def lenField (f : Form) : BitVec 2 := match f with | .s => 0 | .l => 1 | .x => 2

/-- W0 13:0 (Table 2.2): guard, negate, opcode, length. -/
def common (e : Enc) : BitVec 14 := e.g ++ BitVec.ofBool e.n ++ e.op ++ lenField e.form

/-- W0 (Tables 2.3, 2.4). -/
def word0 (e : Enc) : Word :=
  match e.form with
  | .s => e.b.setWidth 6 ++ e.a.setWidth 6 ++ e.d.setWidth 6 ++ common e
  | _ => BitVec.ofBool e.b31 ++ BitVec.ofBool e.cc ++ e.a ++ e.d ++ common e

/-- W1 (Table 2.4). -/
def word1 (e : Enc) : Word := e.m ++ e.t ++ e.la ++ e.c ++ e.b

/-- The instruction's words (Tables 2.2 to 2.4). -/
def toWords (e : Enc) : List Word :=
  match e.form with
  | .s => [word0 e]
  | .l => [word0 e, word1 e]
  | .x => [word0 e, word1 e, e.lit]

/-- The form that bits 1:0 of W0 select (Table 2.1): none for 11. -/
def formOf (w0 : Word) : Option Form :=
  match w0.toNat % 4 with | 0 => some .s | 1 => some .l | 2 => some .x | _ => none

/-- The raw fields of words W0, W1, W2 (the words past the form's length are not read). -/
def ofWords (w0 w1 w2 : Word) : Option Enc :=
  let op := w0.extractLsb' 2 8
  let g := w0.extractLsb' 11 3
  let n := w0.getLsbD 10
  match formOf w0 with
  | none => none
  | some .s => some ⟨op, .s, g, n, false, (w0.extractLsb' 14 6).setWidth 8, (w0.extractLsb' 20 6).setWidth 8, (w0.extractLsb' 26 6).setWidth 8,
      0, 0, 0, 0, false, 0⟩
  | some f => some ⟨op, f, g, n, w0.getLsbD 30, w0.extractLsb' 14 8, w0.extractLsb' 22 8, w1.extractLsb' 0 8, w1.extractLsb' 8 8,
      w1.extractLsb' 20 4, w1.extractLsb' 16 4, w1.extractLsb' 24 8, w0.getLsbD 31, if f = .x then w2 else 0⟩

/-- The S form of raw fields. -/
def sOf (e : Enc) : SEnc := ⟨e.g, e.n, e.d.setWidth 6, e.a.setWidth 6, e.b.setWidth 6⟩
/-- The L or X form of raw fields. -/
def lxOf (e : Enc) : LX := ⟨e.g, e.n, e.cc, e.d, e.a, e.b, e.c, e.t, e.la, e.m, if e.form = .x then some e.lit else none⟩

/-- Word offset of an S-form bra, call or meet: W0 31:14 as a signed 18-bit number (R22). -/
def off18 (e : Enc) : Int := sint 18 (e.b.toNat * 2 ^ 12 + e.a.toNat * 2 ^ 6 + e.d.toNat)
/-- Word offset of an offset branch in either form (R24, R25). -/
def branchOff (e : Enc) : Int := if e.form = .s then off18 e else e.lit.toInt

end Encoding
end Sys2Proof
end

