-- ==== Sys2Proof/Config.lean ====
section
/-!
DEFINITION. What the manual leaves open, as constants without a body: nothing in Lean can evaluate one of them or prove
a value of it, so a statement holds whatever they are. Each is named in a log entry (notes/assumptions).
-/
namespace Sys2Proof.Config

/-- The free choices of the model: the `n`-th choice made since reset (a scheduling choice the votes leave open, a
cached line kept or dropped, a stale uniform value read or not). -/
opaque choice : Nat → Nat

/-- How much longer than one cycle at 1,900 MHz the `n`-th lapse of time lasts, in units of 1/1,900 ns (R6: the manual gives only typical times). -/
opaque nanos : Nat → Nat

/-- The partition key drawn from the device's random source (R241): half `h` of the `n`-th draw. -/
opaque keyDraw : Nat → Nat → DWord

/-- The audit seed drawn with the key (R335). -/
opaque seedDraw : Nat → Word

/-- SHA-512 of a byte string (R342; the manual names the function and does not define it). -/
opaque sha512 : List Byte → List Byte

/-- Whether both signatures of a firmware image of stage `i` verify (R342: Ed25519 and ML-DSA-65). -/
opaque signaturesVerify : Nat → List Byte → Bool

/-- The bytes of boot stage `i` as provisioned on device `d` (R342, Table 26.1: fused boot ROM, firmware images, fused configuration). -/
opaque firmware : Nat → Nat → List Byte

/-- The security version of stage `i` as provisioned on device `d` (R342). -/
opaque firmwareVersion : Nat → Nat → Nat

/-- The fused minimum security version of device `d` (R342). -/
opaque fusedMinimum : Nat → Nat

/-- The signature of a transcript hash under alias key `k` (0 Ed25519, 1 ML-DSA-65), on device `d` (R343, R344). -/
opaque sign : Nat → Nat → List Byte → List Byte

/-- Certificate chain of slot `k` on device `d` (R343). -/
opaque certificate : Nat → Nat → List Byte

/-- A byte the device's SPDM responder draws or is provisioned with where R344 states no value. -/
opaque spdmByte : Nat → Byte

/-- Bytes of a published-write log entry in an audit signature: thread, operation, address, operands, result (R336 gives no
layout). -/
opaque logBytes : Nat → Nat → Nat → List Word → List Word → List Byte

/-- Whether the IOD1 port of device `d` is trained (R346: the host may leave it untrained). -/
opaque iod1Trained : Nat → Bool

/-- An open value of `w` bits: the `n`-th value the manual leaves undefined since reset. -/
opaque freeBits : (w : Nat) → Nat → BitVec w

end Sys2Proof.Config
end

