-- ==== Sys2Proof/Machine/Memory.lean ====
section
/-!
DEFINITION. The flat memory: every byte of every device's 52-bit physical address space (R126), of host memory (device
1024) and of the tail blocks of sequences (R274), in one list in canonical form. A byte nothing has written reads as
zero (DESIGN CHOICE, notes/assumptions/2.md).
-/
namespace Sys2Proof.Machine

/-- What an address that no entry lists reads as (DESIGN CHOICE, notes/assumptions/2.md). -/
def Mem.unlisted : Byte := 0

/-- The byte at a key: the key of a byte is `2^52 * device + physical address` (R126; host memory is device 1024). -/
def Mem.get : List Host.Cell → Nat → Byte
  | [], _ => Mem.unlisted
  | (j, v) :: xs, k => if j = k then v else Mem.get xs k

/-- The list without an entry of key `k`. -/
def Mem.erase : List Host.Cell → Nat → List Host.Cell
  | [], _ => []
  | (j, w) :: xs, k => if j = k then Mem.erase xs k else (j, w) :: Mem.erase xs k

/-- The list with an entry of key `k` that holds `v`, keys rising. -/
def Mem.put : List Host.Cell → Nat → Byte → List Host.Cell
  | [], k, v => [(k, v)]
  | (j, w) :: xs, k, v =>
    if k < j then (k, v) :: (j, w) :: xs
    else if k = j then (k, v) :: xs
    else (j, w) :: Mem.put xs k v

/-- The memory with the byte at key `k` made `v`: no entry stays for a value that reads so unlisted. -/
def Mem.set (m : List Host.Cell) (k : Nat) (v : Byte) : List Host.Cell := if v = Mem.unlisted then Mem.erase m k else Mem.put m k v

/-- Keys rise strictly above `lo`, and no entry equals what an unlisted address reads as. -/
def Mem.wfFrom : Nat → List Host.Cell → Bool
  | _, [] => true
  | lo, (j, v) :: xs => decide (lo ≤ j) && decide (v ≠ Mem.unlisted) && Mem.wfFrom (j + 1) xs

/-- The canonical form. -/
def Memory.wf (m : List Host.Cell) : Bool := Mem.wfFrom 0 m

/-- `n` bytes from key `k`. -/
def Mem.read (m : List Host.Cell) (k : Nat) : Nat → List Byte
  | 0 => []
  | n + 1 => Mem.get m k :: Mem.read m (k + 1) n

/-- Bytes written from key `k` upward. -/
def Mem.write (m : List Host.Cell) (k : Nat) : List Byte → List Host.Cell
  | [] => m
  | x :: xs => Mem.write (Mem.set m k x) (k + 1) xs

/-- Bytes written at listed keys. -/
def Mem.writeCells (m : List Host.Cell) : List (Nat × Byte) → List Host.Cell
  | [] => m
  | (k, v) :: xs => Mem.writeCells (Mem.set m k v) xs

/-- A number of `n` little-endian bytes at key `k` (R4). -/
def Mem.nat (m : List Host.Cell) (k : Nat) (n : Nat) : Nat := Bits.ofBytes (Mem.read m k n)

end Sys2Proof.Machine
end

