-- ==== Sys2Proof/Machine/Objects.lean ====
section
/-!
DEFINITION. The objects the machine's state is made of: threads, groups, cores, launches, partitions, devices,
sequences, and what travels between them. Each field's docstring ends in [width; file and rule; value at reset].
"absent" means that no such object exists at reset (a thread exists from its launch on); the value then is the one the
model's placeholder holds, which no rule reads.
-/
namespace Sys2Proof.Machine

/-! ## Threads (chapters 01, 02, 07, 11) -/

/-- Where a sync word lies (R167): at an offset of the group's scratchpad, or at a key of the flat memory. -/
inductive SyncLoc where
  | scratch (gid off : Nat)
  | mem (key : Nat)
  deriving DecidableEq, Repr

/-- What a Waiting thread waits for (R101, R115). `interlock` and `resource` threads issue their instruction again once
the thing they wait for has changed; the others have performed their part. -/
inductive Wait where
  /-- pending results of the thread must arrive first (R27, R69, R89) -/
  | interlock
  /-- acknowledgements, or a sector that an earlier access or a region holds (R142, R296) -/
  | resource
  /-- space in the core's queue, or quiescence of a pair (R193, R195): under the stall limit -/
  | engine
  /-- an interlocked result on its way (R27, R243, R276): INTERLOCKED_RESULT_ARRIVAL delivers it -/
  | reply
  /-- a remote access on its way (R291): `serial` names the access -/
  | remote (serial : Nat)
  /-- swait or sbar: the word and the awaited generation (R171) -/
  | sync (loc : SyncLoc) (gen : Word)
  /-- a cross-lane gather, or the gather of reggive and regclaim (R110, R122): opcode, mask, the instruction's words, and
  whether the member's guard is true -/
  | gather (op : BitVec 8) (mask : Word) (ws : List Word) (live : Bool)
  /-- a gathered regclaim waiting for `n` blocks (R122) -/
  | regclaim (n : Nat)
  /-- acca waiting for `n` pairs, with its destination (R123, R194) -/
  | acca (n : Nat) (dst : BitVec 8)
  /-- aswap waiting for quiescence of pair `p` with respect to the commands numbered below `bound` (R181) -/
  | aswap (p bound : Nat)
  /-- fork waiting for a sequencer: its list and its destination (R205) -/
  | fork (list : Nat) (dst : BitVec 8)
  /-- rdv waiting for its sequencer (R206) -/
  | rdv (sq : Nat)
  /-- tkclaim waiting for the merge point (R124) -/
  | ticket
  /-- stepbeg waiting until the sequence has a view that new steps may bind (R267) -/
  | view (seq : Word)
  /-- fred waiting for its status (R298) -/
  | fred (serial : Nat)
  /-- fcommit in its two phases (R296) -/
  | fcommit
  /-- tlbinv waiting for every reply (R317): partition, first 64 KiB page and number of pages -/
  | tlbinv (pid first count : Nat)
  /-- yield: PCs of the splits that have not yet issued, and the cycle it ends (R82) -/
  | yield (pcs : List CodeAddr) (until_ : Nat)
  deriving DecidableEq, Repr

/-- Thread states of Table 7.4. Held is derived from PC and MEET (R104, R114); Suspended from the group's state. -/
inductive ThreadStatus where
  | ready
  | waiting (w : Wait)
  /-- parked on the page of virtual address `page * 2^16` (R137), or on an integrity check (R337) -/
  | parked (page : Nat)
  /-- trapped: cause, and the key of the trap record whose resume word it waits on (R85) -/
  | trapped (cause : Nat) (record : Nat)
  | exited
  deriving DecidableEq, Repr

/-- A pending long-latency result (R27, R28). -/
structure Pending where
  /-- the model's number of the instruction that will deliver it -/
  serial : Nat
  /-- destination, full register code -/
  dst : BitVec 8
  /-- the values of the destination registers, lowest first; empty until known -/
  vals : List Word
  /-- registers of the destination -/
  width : Nat
  /-- window instructions not yet executed (R28) -/
  win : Nat
  /-- whether the result has arrived -/
  arrived : Bool
  /-- FPFLAGS and SLIFLAGS it raises -/
  fp : BitVec 5
  sli : BitVec 7
  /-- an ALU-pipe result that shifts the last-result file (R10) -/
  alu : Bool
  /-- an `.acq` load: later accesses wait for it (R157) -/
  acq : Bool
  /-- whether the instruction can raise SLIFLAGS, FPFLAGS (R66, R89) -/
  canSli : Bool
  canFp : Bool
  deriving DecidableEq, Repr

/-- The spin detector of a thread (R107). -/
structure Spin where
  /-- address of the recorded backward branch [48; 07 R107; absent] -/
  addr : CodeAddr
  /-- recorded hash [32; 07 R107; absent] -/
  hash : Word
  /-- matching backward branches [5; 07 R107; absent] -/
  count : Nat
  /-- CRC-32C register over the writes since the last backward branch [32; 07 R107; absent] -/
  run : Word
  /-- spin lowering active [1; 07 R107; absent] -/
  low : Bool
  /-- cycle at which the lowering ends; the cycles left while the group is not resident [-; 07 R107; absent] -/
  lowUntil : Nat
  deriving DecidableEq, Repr

/-- The open `fbegin` region of a thread (R294, R295). -/
structure Region where
  /-- saved registers: full code and value -/
  saved : List (Nat × Word)
  /-- failure target -/
  target : CodeAddr
  /-- failure status of Table 20.3 once the region has failed, else 0 -/
  failed : Nat
  /-- devices that have acknowledged prepare -/
  acks : List Nat
  /-- commit has been sent -/
  sent : Bool
  /-- nanosecond at which fcommit sent prepare -/
  since : Nat
  deriving DecidableEq, Repr

/-- A store not yet acknowledged (R142): its serial, the destination device, and the path it took (R290). -/
structure Unacked where
  serial : Nat
  dev : Nat
  path : Nat
  deriving DecidableEq, Repr

/-- Per-thread state (Table 1.1, R115). -/
structure Thread where
  /-- group number and sr.tid [-; 07 R114; absent] -/
  key : ThreadKey
  /-- PC [48; 01 R7; 0, absent] -/
  pc : CodeAddr
  /-- MEET [48; 01 R7; absent] -/
  meet : CodeAddr
  /-- x0 to x191 at 0 to 191 and o0 to o7 at 192 to 199 [200 x 32; 01 R7; absent, zero] -/
  regs : Vector Word 200
  /-- last-result file [32; 01 R7, R10; absent, zero] -/
  l0 : Word
  /-- last-result file [32; 01 R7, R10; absent, zero] -/
  l1 : Word
  /-- q0 to q6 [7; 01 R7; absent, false] -/
  q : BitVec 7
  /-- C, Z, N, V in bits 0 to 3 [4; 01 R7, R16; absent, zero] -/
  cc : BitVec 4
  /-- FPFLAGS [5; 01 R7, R16; absent, zero] -/
  fp : BitVec 5
  /-- SLIFLAGS [7; 01 R7, R16; absent, zero] -/
  sli : BitVec 7
  /-- granted count of x registers [8; 01 R9; absent] -/
  grant : Nat
  /-- status [-; 07 R115; exited] -/
  status : ThreadStatus
  /-- released from its meeting and not yet issued at MEET [1; 07 R104; absent] -/
  released : Bool
  /-- PC after the instruction that waits [48; 07 R115; absent] -/
  npc : CodeAddr
  /-- words of the instruction that waits [3 x 32; 05 R84; absent] -/
  instr : List Word
  /-- cycle of the last issue with spin lowering not active [-; 07 R105; absent] -/
  progress : Nat
  /-- pending results in program order [-; 02 R27; absent] -/
  pend : List Pending
  /-- the result an interlocked instruction will deliver: full codes and values [-; 02 R27; absent] -/
  reply : List (Nat × Word)
  /-- trap that has fallen due and is not delivered: cause and detail [-; 07 R113; absent] -/
  due : Option (Nat × Word)
  /-- trap of a failed engine job, delivered at the thread's next instruction [-; 13 R192; absent] -/
  jobTrap : Option (Nat × Word)
  /-- spin detector [-; 07 R107; absent] -/
  spin : Spin
  /-- aged [1; 07 R108; absent] -/
  aged : Bool
  /-- cycle since which the thread has been ready without issuing [-; 07 R108; absent] -/
  readySince : Nat
  /-- cycle at which its wait began or its count was restarted [-; 07 R111, R112; absent] -/
  waitSince : Nat
  /-- cycles of a gather waited before the last suspension [-; 07 R114; absent] -/
  waited : Nat
  /-- byte count, thread count and thread target of the word it waits on, as it last saw them [-; 07 R112; absent] -/
  seen : Nat × Nat × Nat
  /-- stores not yet acknowledged [-; 10 R142; absent] -/
  unacked : List Unacked
  /-- the gang or system release it waits to perform: the model's number of its flush markers, and those not yet gathered, by device and
  path [-; 10 R150; absent] -/
  markers : Option (Nat × List (Nat × Nat))
  /-- a release or full fence of cluster scope or wider with no publishing write since [1; 10 R145; absent] -/
  fenced : Bool
  /-- older values of uniform registers that the thread may still read, oldest first [-; 01 R14; absent] -/
  stale : List (Nat × Word)
  /-- open fbegin region [-; 20 R294; absent] -/
  region : Option Region
  deriving DecidableEq, Repr

/-! ## The matrix array and the engines (chapters 12, 13) -/

/-- The undo copy of a macro or of the row buffer (R193): the group whose phase loaded it, and what it held. -/
structure UndoTile where
  gid : Nat
  fmt : Option Nat
  claim : Nat
  bytes : List (Nat × Byte)
  zps : List (Nat × Int)
  sums : List (Nat × Int)
  deriving DecidableEq, Repr

/-- A macro or the row buffer (R176 to R178). -/
structure Tile where
  /-- format: 0 INT8, 1 INT4, 2 BF16, 3 FP16; none when not loaded [-; 12 R176; none] -/
  fmt : Option Nat
  /-- claiming group [-; 12 R176; 0] -/
  claim : Nat
  /-- image bytes not zero, by rising offset [8 each; 12 R176; empty] -/
  bytes : List (Nat × Byte)
  /-- zero point of each column or row, where not zero [8 each; 12 R178; empty] -/
  zps : List (Nat × Int)
  /-- exact column or row sums [32 each; 12 R178; empty] -/
  sums : List (Nat × Int)
  /-- undo copy of the phase's first load: owner group, format, claim, bytes, zero points, sums [-; 13 R193; none] -/
  undo : Option UndoTile
  deriving DecidableEq, Repr

/-- An accumulator bank (R198): form 0 none, 1 int, 2 float; the elements that are not zero, at index 128 * row + column. -/
structure Bank where
  form : Nat
  cells : List (Nat × BitVec 48)
  deriving DecidableEq, Repr

/-- An accumulator pair (Table 12.2). -/
structure AccPair where
  /-- holding group, 0 when Free [-; 12 R181; 0] -/
  owner : Nat
  /-- Released by accf, until the phase commits [1; 12 R181; false] -/
  released : Bool
  /-- working bank [4096 x 48; 12 R181; form none] -/
  working : Bank
  /-- visible bank [4096 x 48; 12 R181; form none] -/
  visible : Bank
  /-- SAT [1; 13 R194, R200; 0] -/
  sat : Bool
  /-- stores that hold the visible bank: job numbers [-; 12 R182; empty] -/
  holds : List Nat
  /-- Faulted: cause and detail of the lost store [-; 12 R181; none] -/
  fault : Option (Nat × Word)
  deriving DecidableEq, Repr

/-- The space of one side of a transfer (R183). -/
inductive SideSpace where
  | global
  | scratch
  | macro_ (m : Nat)
  | rowbuf
  deriving DecidableEq, Repr

/-- One side of a transfer: a shape record (Table 13.5). -/
structure Side where
  space : SideSpace
  base : Nat
  mode : Nat
  s0 : Nat
  s1 : Nat
  s2 : Nat
  deriving DecidableEq, Repr

/-- What a queued command does (R190). -/
inductive JobKind where
  /-- xcopy, mload, rowld: source, destination, extents e0 to e3, format of a tile destination, the zero-point vector's
  scratchpad offset, and whether the rest of the tile is padded whatever its format was (mload, rowld) -/
  | copy (src dst : Side) (e0 e1 e2 e3 : Nat) (fmt : Nat) (zpv : Option Nat) (whole : Bool)
  /-- xgath: table base, row stride, row bytes, count, index list offset, destination offset -/
  | gather (table stride rowBytes count list dst : Nat)
  /-- ccopy: root name, byte limit, destination -/
  | ccopy (root : DWord) (limit dst : Nat)
  /-- xfer: source (scratchpad when `sp`), destination, length, arrival word -/
  | xfer (sp : Bool) (src dst length arrival : Nat)
  /-- accst: pair, type, destination base, scratchpad destination, row stride, rows, columns, scale vector, and the bank read at issue -/
  | accst (pair : Nat) (t : Nat) (base : Nat) (sp : Bool) (stride rows cols : Nat) (scale : Option Nat) (bank : Bank)
  /-- mmac: first pair, macro mask, rows; `zero` clears the working banks first -/
  | mmac (acc mask rows : Nat) (zero : Bool)
  /-- accz: pair, and whether both banks -/
  | accz (pair : Nat) (both : Bool)
  /-- hada: block size, rows -/
  | hada (n rows : Nat)
  deriving DecidableEq, Repr

/-- A region of a job card (R187): space code 0 global, 1 scratchpad, 2 row buffer, 3 macros; base and extent. -/
structure CardRegion where
  space : Nat
  base : Nat
  extent : Nat
  deriving DecidableEq, Repr

/-- A queued engine or array command (R187, R193). -/
structure Job where
  /-- the model's number, rising in issue order [-; 12 R187] -/
  id : Nat
  gid : Nat
  tid : Nat
  lid : Nat
  /-- partition of its launch -/
  pid : Nat
  /-- phase of the group in which it was issued -/
  phase : Nat
  kind : JobKind
  reads : List CardRegion
  writes : List CardRegion
  /-- guard slot it waits on (R188) -/
  guard : Option Nat
  /-- the slot resolved true, or no slot was named -/
  freed : Bool
  /-- its bytes have moved (R149: they are counted afterwards) -/
  moved : Bool
  /-- its follow-on has been issued, or there is none (R186) -/
  foDone : Bool
  /-- follow-on command (Table 12.3) -/
  fo : Option Word
  /-- sync word offset that receives the byte count (R168) -/
  count : Option Nat
  /-- bytes it will count -/
  bytes : Nat
  /-- numeric-behaviour version at issue (R51) -/
  nbv : Nat
  /-- sequencer that issued it, with the descriptor's index -/
  seqr : Option (Nat × Nat)
  /-- virtual page it is parked on (R184); `2^48 + k`: it waits until promoted page `k` has been fetched again (R337) -/
  parked : Option Nat
  /-- packets of an xfer that have arrived (R293) -/
  packets : List Nat
  /-- rows that an mmac has broadcast, in order: format, zero point and bytes (R187) -/
  cast : List (Nat × Int × List Byte)
  /-- its trap once it has failed (R192) -/
  failed : Option (Nat × Word)
  deriving DecidableEq, Repr

/-- An engine sequencer (R189, R205, R206). -/
structure Sequencer where
  /-- holding group, 0 when free [-; 12 R189; 0] -/
  gid : Nat
  /-- forking thread [-; 13 R205; 0] -/
  tid : Nat
  /-- scratchpad offset of its list [20; 13 R205; 0] -/
  list : Nat
  /-- descriptor it will issue next [-; 13 R205; 0] -/
  idx : Nat
  /-- reached kind 0 or stopped [1; 13 R206; false] -/
  stopped : Bool
  /-- status once stopped: descriptor index in bits 31:16, code in bits 7:0 [32; 13 R206; 0] -/
  status : Word
  deriving DecidableEq, Repr

/-! ## Groups and phases (chapter 08, 10) -/

/-- Guard slots (Table 8.2). -/
inductive GuardSlot where
  | never
  | unresolved
  | no
  | yes
  deriving DecidableEq, Repr

/-- Phase states (Table 8.3). -/
inductive PhaseState where
  | queued
  | running
  | closing
  | audited
  | committed
  | suspended
  | rollingBack
  | ended
  deriving DecidableEq, Repr

/-- Attributes of a sync word (R167): generation-advancing, barrier, completion scope code (0 the default). -/
structure SyncAttr where
  adv : Bool
  bar : Bool
  scope : Nat
  deriving DecidableEq, Repr

/-- An entry of the published-write log (R146); `serial` names the operation under way that will supply the returned value,
0 for none. -/
structure PubEntry where
  tid : Nat
  op : Nat
  addr : Nat
  operand : List Word
  ret : List Word
  serial : Nat
  deriving DecidableEq, Repr

/-- A thread phase record (Table 8.1), with the thread's place in the publishing rule (R145), which the table does not show. -/
structure ThreadRecord where
  tid : Nat
  pc : CodeAddr
  meet : CodeAddr
  q : BitVec 7
  cc : BitVec 4
  fp : BitVec 5
  sli : BitVec 7
  grant : Nat
  spin : Spin
  carry : List Word
  fenced : Bool
  deriving DecidableEq, Repr

/-- A group phase record (Table 8.2) with its thread records; `attrs` are the attributes of the group's scratchpad sync
words when the phase began, `seqs` its sequencers as they stood then (R189), and `bound` the sequence and view it was bound to (R278), and `held` the arrivals then held at scratchpad words (R172). -/
structure PhaseRecord where
  phase : Nat
  k : Vector Word 32
  guards : Vector GuardSlot 16
  pairs : Nat
  pool : Nat
  threads : List ThreadRecord
  attrs : List (Nat × SyncAttr)
  seqs : List (Nat × Sequencer)
  bound : Word × Word
  held : List (Nat × Nat)
  deriving DecidableEq, Repr

/-- The undo copy of an accumulator pair (R119, R193): its banks, forms, SAT and owner when the phase first wrote it, and which of its banks
the phase has written since (R336). -/
structure UndoBank where
  pair : Nat
  owner : Nat
  wForm : Nat
  wCells : List (Nat × BitVec 48)
  vForm : Nat
  vCells : List (Nat × BitVec 48)
  sat : Bool
  working : Bool
  visible : Bool
  deriving DecidableEq, Repr

/-- A group (R116 to R125). -/
structure Group where
  /-- number the model gives the group; 0 names the placeholder [-; 08 R116; 0] -/
  gid : Nat
  /-- its launch [-; 16 R225; absent] -/
  lid : Nat
  /-- sr.group [32; 01 R16; absent] -/
  idx : Nat
  /-- device and core [-; 08 R116; absent] -/
  dev : Nat
  /-- core on the device, 0 to 191 [-; 08 R116; absent] -/
  core : Nat
  /-- pack slots held, slot of pack p at position p [64 slots; 07 R102; absent] -/
  slots : List Nat
  /-- thread count T [11; 16 R223; absent] -/
  size : Nat
  /-- phase state [-; 08 R125; ended] -/
  phase : PhaseState
  /-- phases completed: sr.phase [32; 01 R16; absent] -/
  phases : Nat
  /-- roll-backs of the current phase [8; 05 R84, 08 R120; absent] -/
  attempt : Nat
  /-- early-committed and so not replayable [1; 08 R118, R120; absent] -/
  early : Bool
  /-- sampled by the auditor [1; 25 R335; absent] -/
  sampled : Bool
  /-- k0 to k31 [32 x 32; 01 R7; absent, zero] -/
  k : Vector Word 32
  /-- scratchpad allocation in bytes, a multiple of 4 KiB [21; 08 R116; absent] -/
  scratchSize : Nat
  /-- scratchpad bytes not zero, by rising offset [8 each; 09 R126; absent] -/
  scratch : List (Nat × Byte)
  /-- attributes of its scratchpad sync words [-; 11 R167; absent] -/
  attrs : List (Nat × SyncAttr)
  /-- arrivals held at a scratchpad word, by offset [-; 11 R168; absent] -/
  held : List (Nat × Nat)
  /-- undo copies of scratchpad sectors: sector and its 64 bytes, newest first [-; 08 R119; absent] -/
  undoScratch : List (Nat × List Byte)
  /-- undo copies of accumulator pairs: pair, and its banks [-; 08 R119; absent] -/
  undoBanks : List UndoBank
  /-- byte additions received in this phase from jobs issued by others or earlier: offset, bytes [-; 11 R172; absent] -/
  foreignBytes : List (Nat × Nat)
  /-- staged writes: key and byte, by rising key [8 each; 08 R119; absent] -/
  staged : List (Nat × Byte)
  /-- virtual address of each staged sector: sector key, virtual address [-; 25 R336; absent] -/
  stagedVa : List (Nat × Nat)
  /-- stamps the staged sectors had before the phase's first write [64 each; 10 R148; absent] -/
  stagedStamps : List (Nat × DWord)
  /-- published-write log of the phase [256 entries; 10 R146; absent] -/
  log : List PubEntry
  /-- entries a re-run has still to match [256 entries; 10 R146; absent] -/
  replay : List PubEntry
  /-- tickets and acca results received in this phase [16 x 32; 08 R124; absent] -/
  tickets : List Word
  /-- tickets a re-run has still to receive [16 x 32; 08 R124; absent] -/
  ticketReplay : List Word
  /-- free register blocks of the group [-; 08 R121; absent] -/
  pool : Nat
  /-- guard slots [16 x 2; 08 R123; absent] -/
  guards : Vector GuardSlot 16
  /-- phase record the current phase restarts from [-; 08 R118; absent] -/
  record : PhaseRecord
  /-- a thread of the group took a trap in this phase [1; 05 R86; absent] -/
  trapped : Bool
  /-- nanosecond at which its phase became Queued [-; 16 R232; absent] -/
  queuedAt : Nat
  /-- effective level [4; 16 R232; absent] -/
  level : Nat
  /-- packs waiting in regclaim, in arrival order: pack and blocks [-; 08 R122; absent] -/
  claims : List (Nat × Nat)
  /-- bound sequence id: sr.seq [32; 01 R16, 19 R266; absent, 0xFFFF_FFFF] -/
  seq : Word
  /-- bound view: sr.view [32; 01 R16, 19 R266; absent, 0xFFFF_FFFF] -/
  view : Word
  /-- stepend has executed in this phase [1; 19 R278; absent] -/
  stepEnded : Bool
  /-- sequences of the steps of its launch in which the group's part has ended [-; 19 R266; absent] -/
  partEnded : List Word
  /-- a forced or swap pre-emption is due at the next boundary [1; 16 R233, 21 R314; absent] -/
  preempt : Bool
  /-- audit runs so far: signature of the original and of the re-run; none for a re-run that would trap or differed [64 each; 25 R336; absent] -/
  audit : List (Option DWord)
  /-- core that ran the last audit run [-; 25 R336; absent] -/
  auditCore : Nat
  /-- bytes engine jobs wrote to global memory in this phase, with the job's number [-; 25 R336; absent] -/
  jobBytes : List (Nat × Byte)
  /-- nanosecond at which its phase closed [-; 25 R336; absent] -/
  closedAt : Nat
  /-- whether it has its place on `core`: not before its first admission, nor while suspended or swapped out [1; 08 R116, R125; absent] -/
  placed : Bool
  /-- accumulator pairs saved with it, by number [-; 08 R123; absent] -/
  savedPairs : List (Nat × AccPair)
  /-- claimed macros 0 to 7 and row buffer 8 saved with it [-; 12 R176; absent] -/
  savedTiles : List (Nat × Tile)
  /-- sequencers saved with it, by number [-; 12 R189; absent] -/
  savedSeqrs : List (Nat × Sequencer)
  /-- queued array commands saved with it [-; 13 R193; absent] -/
  savedJobs : List Job
  /-- a barrier word of it completed while it was suspended: its phase closes on resume [1; 08 R117; absent] -/
  boundary : Bool
  /-- group whose sampled phase it runs again for the auditor; 0 for every other group [-; 25 R336; absent] -/
  shadow : Nat
  /-- the re-run has differed from its original: it counts as a signature mismatch [1; 05 R86, 10 R146; absent] -/
  differs : Bool
  /-- a re-run's logged pair numbers and the pairs of its own core they stand for [-; 13 R194; absent] -/
  pairMap : List (Nat × Nat)
  deriving DecidableEq, Repr

/-! ## Cores (chapters 07, 09, 20) -/

/-- A line of a load cache (R134): partition, physical line key / 128, class, and its 128 bytes. -/
structure CacheLine where
  pid : Nat
  line : Nat
  cls : Nat
  bytes : List Byte
  deriving DecidableEq, Repr

/-- A translation held by a core (R137): partition, page virtual address / 2^16, and the 128-bit leaf entry. -/
structure TlbEntry where
  pid : Nat
  page : Nat
  entry : Nat
  deriving DecidableEq, Repr

/-- Directory entries (Table 20.6). -/
inductive DirState where
  | live
  | ghost
  deriving DecidableEq, Repr

/-- A directory entry that is not Empty (R299): slot 0 to 255. -/
structure DirEntry where
  pid : Nat
  slot : Nat
  state : DirState
  key : DWord
  serial : Word
  descriptor : DWord
  record : DWord
  puts : List Word
  thresholds : List Word
  deriving DecidableEq, Repr

/-- An entry of the combining buffer (R295): thread, destination device, sector of the destination, its virtual address,
whether a plain store is among those it holds (R148), and the bytes held, by offset in the sector. -/
structure CombEntry where
  t : ThreadKey
  dev : Nat
  sector : Nat
  va : Nat
  plain : Bool
  bytes : List (Nat × Byte)
  deriving DecidableEq, Repr

/-- A line of the fault buffer (R137): the parked thread whose access it belongs to, its virtual address / 128, and its bytes. -/
structure BufLine where
  t : ThreadKey
  line : Nat
  bytes : List Byte
  deriving DecidableEq, Repr

/-- A core. -/
structure Core where
  /-- device and number [-; 00 R3; 0] -/
  dev : Nat
  /-- number on the device, 0 to 191 [-; 00 R3; 0] -/
  num : Nat
  /-- load cache [64 KiB; 09 R134; empty] -/
  lcache : List CacheLine
  /-- cached translations [-; 09 R137; empty] -/
  tlb : List TlbEntry
  /-- fault buffer: lines waiting for a parked access [64 entries; 09 R137; empty] -/
  faultBuf : List BufLine
  /-- macros 0 to 7 [8 x 32 KiB; 12 R176; not loaded] -/
  macros : List Tile
  /-- row buffer [32 rows; 12 R177; not loaded] -/
  rowbuf : Tile
  /-- accumulator pairs 0 to 7 [8 pairs; 12 R181; Free] -/
  pairs : List AccPair
  /-- engine and array commands in issue order [32; 12 R187; empty] -/
  jobs : List Job
  /-- sequencers 0 to 3 [4; 12 R189; free] -/
  seqrs : List Sequencer
  /-- threads waiting in acca, in arrival order [-; 08 R123; empty] -/
  accaQ : List ThreadKey
  /-- threads waiting in fork, in arrival order [-; 13 R205; empty] -/
  forkQ : List ThreadKey
  /-- combining buffer [64 entries; 20 R295; empty] -/
  comb : List CombEntry
  /-- path table: sector key and path [1,024 entries; 20 R290; empty] -/
  paths : List (Nat × Nat)
  /-- paths used toward each device since the core's last gang or system release [-; 10 R150; empty] -/
  used : List (Nat × Nat)
  /-- directories of the resident partitions [256 entries each; 20 R299; Empty] -/
  dirs : List DirEntry
  /-- number of the last census processed: partition * 4 + scope, number [32 each; 20 R300; 0] -/
  seen : List (Nat × Word)
  /-- scratchpads of groups that have ended, as their jobs that run out still find them [-; 13 R206; empty] -/
  leftover : List (Nat × List (Nat × Byte))
  /-- admits no further groups [1; 25 R336; 0] -/
  quarantined : Bool
  /-- slots of the resident packs that have issued, the one that issued least recently first [-; 07 R102; empty] -/
  issued : List Nat
  deriving DecidableEq, Repr

/-! ## Launches (chapter 16) -/

/-- Launch states (Table 16.6). -/
inductive LaunchState where
  | submitted
  | waiting
  | preparing
  | dispatching
  | running
  | draining
  | aborting
  | completed
  deriving DecidableEq, Repr

/-- Where a launch comes from (R225). -/
inductive LaunchSource where
  /-- host queue `q`, with the key of its entry -/
  | queue (q : Nat) (entry : Nat)
  /-- the `launch` instruction -/
  | instr
  /-- mailbox `m`, and the mailbox address written -/
  | mailbox (m : Nat) (addr : Nat)
  /-- a responder of census `c` for the entry of serial `serial` at core `core` of device `dev` -/
  | responder (c : Nat) (serial : Word) (dev core : Nat)
  /-- the recompute handler of a sequence: its run of lost blocks -/
  | recompute (seq : Word) (first count : Nat)
  /-- device firmware's own queue (R316) -/
  | firmware
  deriving DecidableEq, Repr

/-- A launch (R222 to R236). -/
structure Launch where
  /-- number the model gives the launch; 0 names the placeholder [-; 16 R236; 0] -/
  lid : Nat
  /-- accepting device and partition [-; 16 R222; absent] -/
  dev : Nat
  /-- partition [5; 16 R222; absent] -/
  pid : Nat
  /-- the 256 bytes of its record [2048; 16 R222; absent] -/
  record : List Byte
  /-- argument [64; 16 R225; absent] -/
  arg : DWord
  /-- source [-; 16 R225; absent] -/
  source : LaunchSource
  /-- state [-; 16 R236; completed] -/
  state : LaunchState
  /-- status of Table 16.5 [3; 16 R227; absent] -/
  status : Nat
  /-- priority [4; 16 R222, R229; absent] -/
  priority : Nat
  /-- serial, completion record address and interrupt bit of its queue entry [64; 16 R226; absent] -/
  serial : DWord
  /-- completion record address, 0 none [64; 16 R226; absent] -/
  completion : Nat
  /-- interrupt after the completion record [1; 16 R226; absent] -/
  interrupt : Bool
  /-- launch number [32; 25 R338; absent] -/
  number : Word
  /-- launch tag (0 none) and race-domain generation on each device it runs on: device, tag, generation [8 each; 10 R147; absent] -/
  marks : List (Nat × Nat × Nat)
  /-- numeric-behaviour version: sr.nbv [2; 01 R16, 21 R319; absent, 2] -/
  nbv : Nat
  /-- submitted by device firmware [1; 21 R316; absent] -/
  privileged : Bool
  /-- groups that have been admitted once, with the core each went to: the dispatch cursor [-; 16 R236; absent] -/
  admitted : List (Nat × Nat)
  /-- admission reserved at prepare for groups not yet admitted: group, device, core [-; 16 R234, R235; absent] -/
  reserved : List (Nat × Nat × Nat)
  /-- groups that have ended [-; 16 R227; absent] -/
  ended : List Nat
  /-- a group on some device ended without re-queue (R235, R236) [1; 16 R236; absent] -/
  failed : Bool
  /-- devices that have acknowledged prepare [-; 16 R234; absent] -/
  acks : List Nat
  /-- nanosecond at which prepare was sent [-; 16 R234; absent] -/
  sentAt : Nat
  /-- prepare has been sent [1; 16 R234; absent] -/
  sent : Bool
  /-- view recorded at prepare [32; 16 R234; absent] -/
  view : Word
  /-- devices that have reported their end [-; 16 R235; absent] -/
  reports : List Nat
  /-- run again after a failed step [1; 19 R271; absent] -/
  rerun : Bool
  deriving DecidableEq, Repr

/-! ## Partitions (chapters 16, 17, 21, 25) -/

/-- Registers of a launch queue (Table 16.3). -/
structure Queue where
  base : DWord
  ctl : Word
  head : Word
  tail : Word
  deriving DecidableEq, Repr

/-- Registers of a mailbox (R230). -/
structure Mailbox where
  base : DWord
  extent : Word
  ctl : Word
  record : DWord
  /-- launches of it held until the count of device launches falls (R229): addresses written -/
  held : List Nat
  deriving DecidableEq, Repr

/-- Registers of a content region (Table 17.1). -/
structure ContentRegion where
  base : DWord
  lines : Word
  ctl : Word
  deriving DecidableEq, Repr

/-- A content line (R238, R242): region, hash, collision index, slot and the place in memory that was its slot's when it was written, kind,
bytes, count; `freed` and `walked` once its
count has reached zero and its children have been read. -/
structure ContentLine where
  region : Nat
  hash : BitVec 56
  coll : Nat
  slot : Nat
  key : Nat
  interior : Bool
  bytes : List Byte
  count : Nat
  freed : Bool
  walked : Bool
  deriving DecidableEq, Repr

/-- A valid entry of a prefix table (Table 17.7). -/
structure PrefixEntry where
  idx : Nat
  hash : DWord
  root : DWord
  length : Nat
  pins : Nat
  age : Nat
  deriving DecidableEq, Repr

/-- A prefix table (R252). -/
structure PrefixTable where
  enabled : Bool
  entries : List PrefixEntry
  deriving DecidableEq, Repr

/-- Registers of a sequence class (Table 19.2). -/
structure SeqClass where
  ctl : Word
  entry : Word
  tw : Word
  tn : Word
  recov : DWord
  deriving DecidableEq, Repr

/-- A journal entry (Table 25.5); `bad0`, `bad1` mark an unreadable copy (R339). -/
structure JournalEntry where
  seqno : Word
  state : Nat
  status : Nat
  number : Nat
  mailbox : Bool
  command : DWord
  serial : DWord
  time : DWord
  bad0 : Bool
  bad1 : Bool
  deriving DecidableEq, Repr

/-- An error record (Table 25.2). -/
structure ErrRecord where
  cls : Nat
  code : Nat
  unitKind : Nat
  unit : Nat
  context : Word
  time : DWord
  /-- cycle of its device at detection: the order of records of one cycle (R330) -/
  cycle : Nat
  deriving DecidableEq, Repr

/-- A fault posted, or held while the queue is full (R312): page, kind, core, and whether it is in the queue. -/
structure Fault_ where
  page : Nat
  kind : Nat
  core : Word
  posted : Bool
  deriving DecidableEq, Repr

/-- What a halted partition records to act on later (R314). -/
inductive Recorded where
  | doorbell (q : Nat) (tail : Word)
  | mailbox (m : Nat) (addr : Nat)
  | faultReply (page : Nat) (decline : Bool)
  deriving DecidableEq, Repr

/-- A partition of a device (R309 to R319). -/
structure Part where
  /-- device [-; 21 R309; 0] -/
  dev : Nat
  /-- number: sr.part [5; 21 R309; 0] -/
  pid : Nat
  /-- PSTAT [3; 21 R310; 0] -/
  pstat : Nat
  /-- NBVSET: sr.nbv of the next launches [2; 21 R310, R315; 2] -/
  nbv : Nat
  /-- PTROOT [52; 21 R310; 0] -/
  ptroot : DWord
  /-- PASID [32; 21 R310; 0] -/
  pasid : Word
  /-- TLBINV has not completed [1; 21 R310; 0] -/
  tlbinv : Bool
  /-- WINBASE [56; 21 R310; 0] -/
  winbase : DWord
  /-- AUDCTL [5; 25 R333; 10] -/
  audctl : Nat
  /-- AUDCNT mismatches [16; 25 R333; 0] -/
  audMis : Nat
  /-- AUDCNT samples dropped [16; 25 R333; 0] -/
  audDrop : Nat
  /-- audit seed [32; 25 R335; drawn] -/
  seed : Word
  /-- partition key, halves ka and kb [256 in two 128-bit halves of which 64 bits each are used; 17 R241; drawn] -/
  ka : DWord
  /-- partition key, half kb [64; 17 R241; drawn] -/
  kb : DWord
  /-- FQBASE [64; 21 R312; 0] -/
  fqbase : DWord
  /-- FQCTL [32; 21 R312; 0] -/
  fqctl : Word
  /-- FQHEAD [32; 21 R312; 0] -/
  fqhead : Word
  /-- FQTAIL [32; 21 R312; 0] -/
  fqtail : Word
  /-- FQREPLY_LO [32; 21 R312; 0] -/
  fqreply : Word
  /-- faults outstanding [-; 21 R312; empty] -/
  faults : List Fault_
  /-- launch queues that differ from the value after reset [64; 16 R226; disabled] -/
  queues : List (Nat × Queue)
  /-- mailboxes that differ from the value after reset [256; 16 R230; disabled] -/
  mailboxes : List (Nat × Mailbox)
  /-- content regions [16; 17 R237; disabled] -/
  regions : List (Nat × ContentRegion)
  /-- content lines [-; 17 R238; none] -/
  lines : List ContentLine
  /-- prefix tables [16; 17 R252; disabled] -/
  prefixes : List (Nat × PrefixTable)
  /-- sequence classes [16; 19 R262; disabled] -/
  classes : List (Nat × SeqClass)
  /-- fabric list [1,024 x 16; 21 R310; not valid] -/
  fabric : List (Nat × BitVec 16)
  /-- MSI-X table words by offset / 4 [67 x 128; 21 R313; masked] -/
  msix : List (Nat × Word)
  /-- MSI-X pending bits [67; 21 R313; 0] -/
  pba : List Nat
  /-- journal, newest first [65,536 x 256; 25 R338; empty] -/
  journal : List JournalEntry
  /-- JHEAD: number of the next entry [32; 25 R338; 1] -/
  jhead : Word
  /-- JSEL [32; 25 R333; 0] -/
  jsel : Word
  /-- next launch number of launches not from a host queue [32; 25 R338; 0x8000_0000] -/
  launchNo : Word
  /-- error log, newest first [1,024 x 128; 25 R333; empty] -/
  errors : List ErrRecord
  /-- ELHEAD [32; 25 R333; 0] -/
  elhead : Word
  /-- ELSEL [32; 25 R333; 0] -/
  elsel : Word
  /-- AER: Corrected Internal Error [1; 25 R333; 0] -/
  aerCor : Bool
  /-- AER: Uncorrectable Internal Error [1; 25 R333; 0] -/
  aerUnc : Bool
  /-- launch tags of ended launches that the background walker has still to clear and free: tag and launch [8 each; 10 R147; none] -/
  tags : List (Nat × Nat)
  /-- size of BAR2 in bits of offset: 30 to 39 [-; 21 R309; 30 (log)] -/
  bar2 : Nat
  /-- host translations cached by ATS: I/O virtual page, host page [-; 21 R312; empty] -/
  ats : List (Nat × Nat)
  /-- I/O virtual pages that ATS refused [-; 21 R312; empty] -/
  atsRefused : List Nat
  /-- nanosecond at which a swap out began [-; 21 R314; 0] -/
  haltAt : Nat
  /-- recorded while not running, oldest first [-; 21 R314; empty] -/
  recorded : List Recorded
  /-- halted by an error in its state; only PRESET restarts it [1; 25 R330; 0] -/
  broken : Bool
  /-- census numbers given out: scope instance key, number [32 each; 20 R300; 0] -/
  censusNo : List (Nat × Word)
  deriving DecidableEq, Repr

/-! ## Sequences, views and handles (chapter 19) -/

/-- View states (Table 19.3). -/
inductive ViewState where
  | pending
  | transferring
  | current
  | draining
  | retired
  | failed
  | abandoned
  deriving DecidableEq, Repr

/-- An entry of a block-table slice (R274): block, root name and chain hash at its owner; `page` names the slice page that
forked contexts share, 0 where the context has the page to itself. -/
structure SliceEntry where
  blk : Nat
  root : DWord
  hash : DWord
  page : Nat
  deriving DecidableEq, Repr

/-- The recompute run under way (R270, R327): its blocks, the owning members whose part is not rebuilt (the first is the one at
work), the launch under way (0 between launches), and whether a handler of this member has failed once. -/
structure Rebuild where
  first : Nat
  count : Nat
  todo : List Nat
  lid : Nat
  failedOnce : Bool
  deriving DecidableEq, Repr

/-- A view (R263, R264). -/
structure View where
  num : Word
  members : List Nat
  state : ViewState
  /-- view it was formed from -/
  pred : Word
  /-- members that have acknowledged prepare -/
  acks : List Nat
  sentAt : Nat
  /-- LENC at the snapshot (R268) -/
  snapshot : Nat
  /-- snapshot transfer complete -/
  transferred : Bool
  /-- catch-up done -/
  caughtUp : Bool
  /-- slice of each member, in member order -/
  slices : List (List SliceEntry)
  /-- blocks lost and not yet rebuilt (R269) -/
  lost : List Nat
  /-- recompute run under way -/
  run : Option Rebuild
  /-- formed after a fault: a survivor view -/
  survivor : Bool
  deriving DecidableEq, Repr

/-- A step bound to a sequence (R266): its launch, view, pending commits (token ids in order), and its state. -/
structure Step where
  lid : Nat
  view : Word
  /-- the first stepbeg has appended -/
  appended : Bool
  commits : List Word
  failed : Bool
  /-- run of lost blocks that its handler rebuilds: first, count (R270) -/
  rebuild : Option (Nat × Nat)
  deriving DecidableEq, Repr

/-- A sequence context (Table 19.1). -/
structure SeqCtx where
  /-- sequence id [32; 19 R261; absent] -/
  id : Word
  /-- partition [5; 19 R261; absent] -/
  pid : Nat
  /-- class [4; 19 R261; absent] -/
  cls : Nat
  /-- number of the current view [32; 19 R261; absent] -/
  view : Word
  /-- successor, 0 for none [32; 19 R261; absent] -/
  succ : Word
  /-- TW [24; 19 R261; absent] -/
  tw : Nat
  /-- TN [24; 19 R261; absent] -/
  tn : Nat
  /-- LENC [24; 19 R261; absent] -/
  lenc : Nat
  /-- LENT [24; 19 R261; absent] -/
  lent : Nat
  /-- token record: root name [64; 19 R261; absent] -/
  tokens : DWord
  /-- committed ids past the token record, held at the home device [32 each; 19 R261; absent] -/
  tailIds : List Word
  /-- views, newest first; GW is the width of the current one [-; 19 R263; absent] -/
  views : List View
  /-- open steps [-; 19 R266; absent] -/
  steps : List Step
  /-- a step end has left the width policy to check [1; 19 R265; absent] -/
  policyDue : Bool
  /-- failed gang launches to run again once a survivor view is Current [-; 19 R271; absent] -/
  reruns : List Nat
  deriving DecidableEq, Repr

/-- A handle table entry (Table 19.7). -/
structure HandleEntry where
  seq : Word
  off : Nat
  len : Nat
  gen : Nat
  write : Bool
  read : Bool
  valid : Bool
  deriving DecidableEq, Repr

/-! ## What is under way, and what lies between devices (chapters 10, 11, 20) -/

/-- What a sync-word instruction or `cswap` does at a word or cell of another device (R167, R168, R248, R291). -/
inductive SyncAct where
  /-- sinit: byte target, thread target, attributes -/
  | init (bt tt : Nat) (attr : SyncAttr)
  /-- sarrive: bytes, and whether a thread arrives -/
  | arrive (bytes : Nat) (thread : Bool)
  /-- swait registers its wait for a generation -/
  | await (gen : Word)
  /-- spoll: the awaited generation -/
  | poll (gen : Word)
  /-- cswap: expected and new root -/
  | swap (expected new : DWord)
  deriving DecidableEq, Repr

/-- A memory operation on its way to its home slice or to another device (R136, R291). -/
inductive AccessKind where
  /-- a read-modify-write of Table 11.5: operation, type code, operand and compare value -/
  | atomic (op t : Nat) (operand compare : Nat)
  /-- a remote load: sign extension and size -/
  | load (size : Nat) (sx : Bool)
  /-- a remote store of `size` bytes -/
  | store (size value : Nat)
  /-- an operation on a sync word or cell of another device -/
  | sync (act : SyncAct)
  /-- the second of the two reads of a decoding load (R131): the scale word where `scale`, else the element's byte, with what the
  first read gave and the half of the byte the element is in -/
  | decode (scale : Bool) (first nib fmt : Nat)
  deriving DecidableEq, Repr

/-- An access under way. `plain` accesses are race-checked at the destination with the sender's tags (R147). -/
structure Access where
  serial : Nat
  t : ThreadKey
  kind : AccessKind
  /-- device whose home slice performs it, and the key of its first byte -/
  dst : Nat
  key : Nat
  va : Nat
  plain : Bool
  remote : Bool
  /-- the instruction asked for `.o` order (R136) -/
  ordered : Bool
  /-- the thread waits for it (R291) -/
  waits : Bool
  sentAt : Nat
  lid : Nat
  /-- group tag, launch tag and generation of the sender -/
  tag : Nat
  ltag : Nat
  gen : Nat
  /-- the destination page's class is not 0 (R291) -/
  refused : Bool
  /-- path selector of its packet (R288, R290) -/
  path : Nat
  /-- source core: device * 192 + core (R150) -/
  src : Nat
  /-- an atomic that acquires: later accesses of the thread wait for it, and it invalidates when it completes (R142, R166) -/
  acq : Bool
  deriving DecidableEq, Repr

/-- A ticket claim at its cluster's merge point (R124): `val` once the merged add has been performed. -/
structure Ticket where
  t : ThreadKey
  dev : Nat
  core : Nat
  slot : Nat
  key : Nat
  va : Nat
  since : Nat
  dst : BitVec 8
  val : Option Word
  deriving DecidableEq, Repr

/-- A contribution of fred on its way (R297). -/
structure Contribution where
  serial : Nat
  t : ThreadKey
  wantsStatus : Bool
  dst : BitVec 8
  dev : Nat
  /-- where the result goes: key and number of bytes of each page's part -/
  parts : List (Nat × Nat)
  arrival : Option Nat
  op : Nat
  type_ : Nat
  count : Nat
  index : Nat
  length : Nat
  id : Word
  view : Word
  seq : Word
  nbv : Nat
  bytes : List Byte
  deriving DecidableEq, Repr

/-- An open reduction at its destination (R298). -/
structure Reduction where
  dev : Nat
  since : Nat
  parts : List Contribution
  /-- status of Table 20.5 that later contributors receive once it has been discarded (R298) -/
  dead : Option Nat
  deriving DecidableEq, Repr

/-- A reply on its way to the asker's reply unit (R305, R306). -/
structure Reply where
  serial : Nat
  census : Nat
  value : DWord
  entry : Word
  dev : Nat
  core : Nat
  deriving DecidableEq, Repr

/-- A census (R300 to R306). -/
structure Census where
  /-- the model's number -/
  id : Nat
  /-- number in its scope instance -/
  number : Word
  pid : Nat
  scope : Nat
  /-- instance: cluster, die or device key; the view for gang scope -/
  seq : Word
  view : Word
  combine : Nat
  key : DWord
  /-- asker: device, core and group, with the offsets of its buffer and word -/
  dev : Nat
  core : Nat
  gid : Nat
  buf : Nat
  word : Nat
  /-- cores that have not yet processed it: device * 192 + core -/
  todo : List Nat
  spawned : Nat
  finished : Nat
  /-- replies kept -/
  kept : Nat
  value : DWord
  /-- place of the reply that `first` keeps: device, core, serial -/
  first : Nat × Nat × Nat
  mobile : List Word
  overflow : Bool
  deriving DecidableEq, Repr

/-- A page promoted from the host or a safe tier (R337): page key / 2^16, source, sixteen tags, the blocks that have passed their check, those that
have failed once and not passed since, and whether the page is to be fetched again. -/
structure Promoted where
  page : Nat
  source : Nat
  tags : List DWord
  checked : List Nat
  bad : List Nat
  refetch : Bool
  deriving DecidableEq, Repr

/-! ## Devices (chapters 00, 20, 25, 26) -/

/-- SPDM responder state of one function (R344): stage 0 none, 1 version, 2 capabilities, 3 negotiated; the transcript,
and the hash of the last signed response. -/
structure Spdm where
  stage : Nat
  transcript : List Byte
  signed : Option (List Byte)
  deriving DecidableEq, Repr

/-- A firmware image in staging flash (R342): bytes, security version, readable. -/
structure Image where
  bytes : List Byte
  version : Nat
  readable : Bool
  deriving DecidableEq, Repr

/-- A device. -/
structure Device where
  /-- number: sr.dev [10; 01 R16; 0] -/
  num : Nat
  /-- ordered as G9-M (module) [1; 00 R2; true (log: form of the device)] -/
  module_ : Bool
  /-- core cycles since device start: sr.clk [64; 01 R16; 0] -/
  clk : Nat
  /-- part of the next cycle that has passed, in 1/1,900,000 [-; 00 R6, model (log 5); 0] -/
  clkFrac : Nat
  /-- nanosecond of the machine at which the device started [-; 01 R16; 0] -/
  startAt : Nat
  /-- arithmetic clock in MHz [-; 26 R347; 1,900] -/
  mhz : Nat
  /-- route table [1,024 x 32; 20 R288; 0] -/
  routes : List (Nat × Word)
  /-- links trained [1; 26 R346; false] -/
  trained : Bool
  /-- BOOTSTAT ready [1; 26 R345; 0] -/
  ready : Bool
  /-- BOOTSTAT failing stage [4; 26 R345; 0] -/
  bootStage : Nat
  /-- BOOTSTAT cause [4; 26 R345; 0] -/
  bootCause : Nat
  /-- measurements of stages 1 to 5 [512 each; 26 R342; none] -/
  measures : List (Nat × List Byte)
  /-- staging flash, stages 2 to 4 (1 and 5 are fused) [-; 26 R342; empty images] -/
  flash : List (Nat × Image)
  /-- fused minimum security version [-; 26 R342; 0] -/
  minVersion : Nat
  /-- PWRCAP [12; 26 R345, R347; 2,200 on the G9-M, 1,200 on the G9-P] -/
  pwrcap : Nat
  /-- PWRCAP written and not yet in force [12; 26 R347; none] -/
  pwrcapNext : Option Nat
  /-- PWRNOW [12; 26 R345; 0] -/
  pwrnow : Nat
  /-- THERM compute die, °C [8; 26 R345; 0] -/
  thermDie : Nat
  /-- THERM HBM stack, °C [8; 26 R345; 0] -/
  thermHbm : Nat
  /-- THERM throttling [1; 26 R345; 0] -/
  throttling : Bool
  /-- HBM refresh rate doubled [1; 26 R347; 0] -/
  refresh2 : Bool
  /-- THRCNT [32; 26 R345; 0] -/
  thrcnt : Word
  /-- stopped by a fatal condition [1; 25 R334; 0] -/
  stopped : Bool
  /-- compute dies without power [1; 26 R347; 0] -/
  unpowered : Bool
  /-- fatal record kept in management-core SRAM [128; 25 R334; none] -/
  fatal : Option ErrRecord
  /-- faulted for the views it belongs to [1; 19 R269; 0] -/
  faulted : Bool
  /-- sequence contexts homed here [65,536; 19 R261; none] -/
  seqs : List SeqCtx
  /-- contexts that share each slice page shared by a fork: page and count [-; 19 R274; none] -/
  pages : List (Nat × Nat)
  /-- handle table entries other than the value after reset [2^20 x 128; 19 R272; not valid] -/
  handles : List (Nat × HandleEntry)
  /-- open reductions [256; 20 R298; none] -/
  reductions : List Reduction
  /-- checkpoint targets: device, capacity, rate [4; 25 R340; none] -/
  targets : List (Nat × Nat × Nat)
  /-- CKSTAT state [3; 25 R340; 0] -/
  ckState : Nat
  /-- CKSTAT cause [8; 25 R340; 0] -/
  ckCause : Nat
  /-- target of the checkpoint or source of the restore under way [10; 25 R340; none] -/
  ckTarget : Option Nat
  /-- CKDONE [32; 25 R340; 0] -/
  ckDone : Word
  /-- writes through BAR2 discarded while a checkpoint transfers, newest first: partition, offset, size, data [-; 25 R340; none] -/
  discards : List (Nat × Nat × Nat × Nat)
  /-- SPDM sessions by function [-; 26 R344; none] -/
  spdm : List (Nat × Spdm)
  deriving DecidableEq, Repr

/-- A checkpoint image on its target (R340): its HBM pages in the clear with stamps, sync-word attributes and poison, and the sealed
state; `marked` once a fabric member has marked the writer faulted since (R341). -/
structure CkImage where
  dev : Nat
  target : Nat
  marked : Bool
  pages : List (Nat × Byte)
  stamps : List (Nat × DWord)
  owners : List (Nat × Nat × Nat)
  attrs : List (Nat × SyncAttr)
  held : List (Nat × Nat)
  poison : List Nat
  device : Device
  parts : List Part
  cores : List Core
  groups : List Group
  threads : List Thread
  launches : List Launch
  censuses : List Census
  deriving DecidableEq, Repr

/-- What leaves the device toward the host (R227, R313, R333, R334, R344, R346), newest first in `State.out`. -/
inductive OutMsg where
  /-- MSI-X vector of a partition -/
  | msix (dev pid vector : Nat)
  | errCor (dev pid : Nat)
  | errNonfatal (dev pid : Nat)
  /-- ERR_FATAL on a trained PCIe port: 0 IOD0, 1 IOD1 -/
  | errFatal (dev port : Nat)
  /-- ATS Translation Request: the partition's PASID, and the I/O virtual page (R312) -/
  | atsRequest (dev pid pasid iova : Nat)
  /-- completion of a BAR2 or configuration access: status 0 success, 1 Completer Abort, 2 Request Retry; and data -/
  | completion (dev pid : Nat) (status : Nat) (data : Nat)
  /-- SPDM response code and payload -/
  | spdm (dev pid code : Nat) (payload : List Byte)
  deriving DecidableEq, Repr

end Sys2Proof.Machine
end

