-- ==== Sys2Proof/Machine/State.lean ====
section
/-!
DEFINITION. The machine's state: the memory, the objects of chapters 07 to 26, what is under way between them, and the
model's own inputs and counters. One thread, group, launch, core, partition and device are checked out (`thr`, `grp`,
`lau`, `core`, `part`, `dev`); the lists hold all the others. An instruction acts on the objects checked out.
-/
namespace Sys2Proof.Machine

/-- Why a step stops. -/
inductive Fault where
  /-- raised by an instruction row when the thread checked out is not Ready (R101): no instruction issues there. Safe: the
  step function never brings it about, because it issues for Ready threads alone. -/
  | noThread
  deriving DecidableEq, Repr

/-- Why a row has no meaning. -/
inductive Refusal where
  /-- raised by an arm of `exec` whose row has no meaning yet, with the row's mnemonic. Safe. -/
  | notModelled (mnemonic : String)
  deriving DecidableEq, Repr

/-- A thread before it exists. -/
def Thread.none : Thread :=
  { key := ⟨0, 0⟩, pc := 0, meet := 0, regs := Vector.replicate 200 0, l0 := 0, l1 := 0, q := 0, cc := 0, fp := 0, sli := 0,
    grant := 0, status := .exited, released := false, npc := 0, instr := [], progress := 0, pend := [], reply := [], due := .none, jobTrap := .none,
    spin := ⟨0, 0, 0, 0, false, 0⟩, aged := false, readySince := 0, waitSince := 0, waited := 0, seen := (0, 0, 0), unacked := [], markers := .none,
    fenced := false, stale := [], region := .none }

/-- A phase record before one is written. -/
def PhaseRecord.none : PhaseRecord :=
  { phase := 0, k := Vector.replicate 32 0, guards := Vector.replicate 16 .never, pairs := 0, pool := 0, threads := [],
    attrs := [], seqs := [], bound := (0xFFFFFFFF, 0xFFFFFFFF), held := [] }

/-- A group before it exists. -/
def Group.none : Group :=
  { gid := 0, lid := 0, idx := 0, dev := 0, core := 0, slots := [], size := 0, phase := .ended, phases := 0, attempt := 0,
    early := false, sampled := false, k := Vector.replicate 32 0, scratchSize := 0, scratch := [], attrs := [],
    held := [], undoScratch := [], undoBanks := [], foreignBytes := [], staged := [], stagedVa := [], stagedStamps := [],
    log := [], replay := [], tickets := [], ticketReplay := [], pool := 0, guards := Vector.replicate 16 .never,
    record := PhaseRecord.none, trapped := false, queuedAt := 0, level := 0, claims := [], seq := 0xFFFFFFFF,
    view := 0xFFFFFFFF, stepEnded := false, partEnded := [], preempt := false, audit := [], auditCore := 0, jobBytes := [],
    closedAt := 0, placed := false, savedPairs := [], savedTiles := [], savedSeqrs := [], savedJobs := [],
    boundary := false, shadow := 0, differs := false, pairMap := [] }

/-- A tile that is not loaded (R176). -/
def Tile.none : Tile := { fmt := .none, claim := 0, bytes := [], zps := [], sums := [], undo := .none }

/-- A Free accumulator pair (R181). -/
def AccPair.free : AccPair :=
  { owner := 0, released := false, working := ⟨0, []⟩, visible := ⟨0, []⟩, sat := false, holds := [], fault := .none }

/-- A free sequencer (R189). -/
def Sequencer.free : Sequencer := { gid := 0, tid := 0, list := 0, idx := 0, stopped := false, status := 0 }

/-- Core `n` of device `d` after reset. -/
def Core.fresh (d n : Nat) : Core :=
  { dev := d, num := n, lcache := [], tlb := [], faultBuf := [], macros := List.replicate 8 Tile.none, rowbuf := Tile.none,
    pairs := List.replicate 8 AccPair.free, jobs := [], seqrs := List.replicate 4 Sequencer.free, accaQ := [], forkQ := [],
    comb := [], paths := [], used := [], dirs := [], seen := [], leftover := [], quarantined := false, issued := [] }

/-- A launch before it exists. -/
def Launch.none : Launch :=
  { lid := 0, dev := 0, pid := 0, record := [], arg := 0, source := .firmware, state := .completed, status := 0, priority := 0,
    serial := 0, completion := 0, interrupt := false, number := 0, marks := [], nbv := 2, privileged := false, admitted := [], reserved := [], ended := [], failed := false,
    acks := [], sentAt := 0, sent := false, view := 0xFFFFFFFF, reports := [], rerun := false }

/-- Partition `p` of device `d` after reset: the key is the first draw of its device's random source (R241). -/
def Part.fresh (d p : Nat) : Part :=
  { dev := d, pid := p, pstat := 0, nbv := 2, ptroot := 0, pasid := 0, tlbinv := false, winbase := 0, audctl := 10, audMis := 0,
    audDrop := 0, seed := Config.seedDraw (32 * d + p), ka := Config.keyDraw (32 * d + p) 0, kb := Config.keyDraw (32 * d + p) 1,
    fqbase := 0, fqctl := 0, fqhead := 0, fqtail := 0, fqreply := 0, faults := [], queues := [], mailboxes := [], regions := [],
    lines := [], prefixes := [], classes := [], fabric := [], msix := [], pba := [], journal := [], jhead := 1, jsel := 0,
    launchNo := 0x80000000, errors := [], elhead := 0, elsel := 0, aerCor := false, aerUnc := false, tags := [], bar2 := 30, ats := [],
    atsRefused := [], haltAt := 0, recorded := [], broken := false, censusNo := [] }

/-- Device `d` after a conventional reset from power-on. -/
def Device.fresh (d : Nat) : Device :=
  { num := d, module_ := true, clk := 0, clkFrac := 0, startAt := 0, mhz := 1900, routes := [], trained := false, ready := false, bootStage := 0,
    bootCause := 0, measures := [], flash := [], minVersion := 0, pwrcap := 2200, pwrcapNext := .none, pwrnow := 0, thermDie := 0,
    thermHbm := 0, throttling := false, refresh2 := false, thrcnt := 0, stopped := false, unpowered := false, fatal := .none,
    faulted := false, seqs := [], pages := [], handles := [], reductions := [], targets := [], ckState := 0, ckCause := 0, ckTarget := .none,
    ckDone := 0, discards := [], spdm := [] }

/-- The state of the machine: every device of a fabric domain, the host memory beside them, and what is under way. -/
structure State where
  /-- memory [8 each; 09 R126; every byte unlisted (log 2)] -/
  mem : List Host.Cell
  /-- poisoned 64-byte sectors: key / 64 [-; 25 R331; none] -/
  poison : List Nat
  /-- race stamps other than the empty one, by sector [64 each; 10 R147; empty] -/
  stamps : List (Nat × DWord)
  /-- device and partition whose launch tag each stamp holds: how the walker knows its launch's stamps [-; 10 R147, model (log 19); empty] -/
  stampOwner : List (Nat × Nat × Nat)
  /-- attributes of global sync words, by key [-; 11 R167; none] -/
  attrs : List (Nat × SyncAttr)
  /-- arrivals held at a global sync word, by key [-; 11 R168; none] -/
  held : List (Nat × Nat)
  /-- sectors locked by a prepared region [-; 20 R296; none] -/
  locks : List (Nat × ThreadKey)
  /-- promoted pages [-; 25 R337; none] -/
  promoted : List Promoted
  /-- thread checked out [-; model's own place for one of the threads; none] -/
  thr : Thread
  /-- group checked out [-; as thr; none] -/
  grp : Group
  /-- launch checked out [-; as thr; none] -/
  lau : Launch
  /-- core checked out [-; as thr; core 0 of device 0] -/
  core : Core
  /-- partition checked out [-; as thr; partition 0 of device 0] -/
  part : Part
  /-- device checked out [-; as thr; device 0] -/
  dev : Device
  /-- the other threads [-; 07 R115; none] -/
  threads : List Thread
  /-- the other groups [-; 08 R116; none] -/
  groups : List Group
  /-- the other launches [-; 16 R236; none] -/
  launches : List Launch
  /-- the other cores that differ from a core after reset [-; 00 R3; none] -/
  cores : List Core
  /-- the other partitions that differ from one after reset [-; 21 R309; none] -/
  parts : List Part
  /-- the other devices that differ from one after reset [-; 00 R3; none] -/
  devs : List Device
  /-- memory operations on their way, oldest first [-; 10 R136, 20 R291; none] -/
  inflight : List Access
  /-- ticket claims [-; 08 R124; none] -/
  tickets : List Ticket
  /-- contributions of fred on their way [-; 20 R297; none] -/
  contributions : List Contribution
  /-- views announced as failed: sequence and view [-; 20 R298; none] -/
  failedViews : List (Word × Word)
  /-- replies on their way [-; 20 R306; none] -/
  replies : List Reply
  /-- censuses [-; 20 R300; none] -/
  censuses : List Census
  /-- checkpoint images on their targets [-; 25 R340; none] -/
  images : List CkImage
  /-- nanoseconds since power-on: sr.gtime counts from a device's start [64; 01 R16; 0] -/
  now : Nat
  /-- part of the next nanosecond that has passed, in 1/1,900 [-; 00 R6, model (log 5); 0] -/
  nowFrac : Nat
  /-- events chosen to happen next: the model's own input list [-; model (log 3); empty] -/
  agenda : List Instr
  /-- threads of the splits voted in this cycle that have not yet issued, with the voted PC [-; 07 R103; empty] -/
  issueQ : List (ThreadKey × CodeAddr)
  /-- packs that have had a trap delivered in this cycle: group and pack [-; 07 R113; empty] -/
  cycTrap : List (Nat × Nat)
  /-- accf and aswap performed in this cycle, once for a split (R190): opcode, group, pack, PC and operand [-; 13 R190; empty] -/
  cycOnce : List (Nat × Nat × Nat × CodeAddr × Nat)
  /-- uniform registers written in this cycle: group, register and the writing thread of highest sr.tid [-; 01 R14; empty] -/
  cycSets : List (Nat × Nat × Nat)
  /-- steps so far: the model's own [-; model (log 5); 0] -/
  tick : Nat
  /-- free values and choices drawn so far: the model's own [-; model (log 5); 0] -/
  drawn : Nat
  /-- next number the model gives a group, a launch, an access or a job [-; model; 1] -/
  nextId : Nat
  /-- what left the devices toward the host, newest first [-; 16 R227, 21 R313; empty] -/
  out : List OutMsg
  deriving DecidableEq, Repr

/-- The machine right after power-on and conventional reset: no launch exists, nothing has been written. -/
def State.reset : State :=
  { mem := [], poison := [], stamps := [], stampOwner := [], attrs := [], held := [], locks := [], promoted := [],
    thr := Thread.none, grp := Group.none, lau := Launch.none, core := Core.fresh 0 0, part := Part.fresh 0 0, dev := Device.fresh 0,
    threads := [], groups := [], launches := [], cores := [], parts := [], devs := [], inflight := [], tickets := [],
    contributions := [], failedViews := [], replies := [], censuses := [], images := [], now := 0, nowFrac := 0, agenda := [], issueQ := [],
    cycTrap := [], cycOnce := [], cycSets := [], tick := 0, drawn := 0, nextId := 1, out := [] }

end Sys2Proof.Machine
end

