-- ==== Sys2Proof/Machine/Base.lean ====
section
/-!
DEFINITION. The named operations over registers, flags and the objects of the state: checking an object out, looking
one up, updating one wherever it stands, and drawing a free value.
-/
namespace Sys2Proof.Machine
open Sys2Proof Bits Encoding

/-! ## Free values -/

/-- Draw an open value of `w` bits (notes/assumptions/5.md). -/
def State.free (w : Nat) (s : State) : BitVec w × State := (Config.freeBits w s.drawn, { s with drawn := s.drawn + 1 })

/-- Draw a free choice below `n` (notes/assumptions/5.md); a choice among at most one is no choice. -/
def State.choose (n : Nat) (s : State) : Nat × State :=
  if n ≤ 1 then (0, s) else (Config.choice s.drawn % n, { s with drawn := s.drawn + 1 })

/-- Take the next number the model gives an object. -/
def State.freshId (s : State) : Nat × State := (s.nextId, { s with nextId := s.nextId + 1 })

/-! ## CRC-32C (R107, R335) -/

/-- One bit of the reflected Castagnoli CRC. -/
def crcBit (c : Word) : Word := if c.getLsbD 0 then (c >>> 1) ^^^ 0x82F63B78 else c >>> 1

/-- One byte into the CRC-32C register. -/
def crcByte (c : Word) (b : Byte) : Word :=
  crcBit (crcBit (crcBit (crcBit (crcBit (crcBit (crcBit (crcBit (c ^^^ b.setWidth 32))))))))

/-- A byte string into the CRC-32C register. -/
def crcBytes (c : Word) : List Byte → Word
  | [] => c
  | b :: bs => crcBytes (crcByte c b) bs

/-- CRC-32C of a byte string: initial value and final XOR all ones (R107). -/
def crc32c (bs : List Byte) : Word := crcBytes 0xFFFFFFFF bs ^^^ 0xFFFFFFFF

/-- Bit of CRC-64/XZ, reflected polynomial 0xC96C_5795_D787_0F42 (R336 gives it as 0x42F0_E1EB_A9EA_3693). -/
def crc64Bit (c : DWord) : DWord := if c.getLsbD 0 then (c >>> 1) ^^^ 0xC96C5795D7870F42 else c >>> 1

/-- One byte into the CRC-64 register. -/
def crc64Byte (c : DWord) (b : Byte) : DWord :=
  crc64Bit (crc64Bit (crc64Bit (crc64Bit (crc64Bit (crc64Bit (crc64Bit (crc64Bit (c ^^^ b.setWidth 64))))))))

/-- A byte string into the CRC-64 register. -/
def crc64Bytes (c : DWord) : List Byte → DWord
  | [] => c
  | b :: bs => crc64Bytes (crc64Byte c b) bs

/-- CRC-64/XZ of a byte string (R336, R337). -/
def crc64 (bs : List Byte) : DWord := crc64Bytes 0xFFFFFFFFFFFFFFFF bs ^^^ 0xFFFFFFFFFFFFFFFF

/-! ## Registers of a thread -/

/-- x and o registers and the last-result file; every other code reads zero here. -/
def Thread.get (t : Thread) (c : BitVec 8) : Word :=
  if h : c.toNat < 200 then t.regs[c.toNat] else if c = 0xC8 then t.l0 else if c = 0xC9 then t.l1 else 0

/-- Note a write in the spin detector's hash: identifier byte, then the value (R107). -/
def Thread.note (t : Thread) (ident : Nat) (v : Word) : Thread :=
  { t with spin := { t.spin with run := crcBytes t.spin.run (BitVec.ofNat 8 ident :: toBytes 4 v.toNat) } }

/-- Write x or o register `n`; other numbers write nothing. -/
def Thread.put1 (t : Thread) (n : Nat) (v : Word) : Thread :=
  if h : n < 200 then Thread.note { t with regs := t.regs.set n v } n v else t

/-- Write consecutive registers from code `c`: zr and the last-result file take nothing here (R10, R11). -/
def Thread.puts (t : Thread) (c : Nat) : List Word → Thread
  | [] => t
  | v :: vs => Thread.puts (Thread.put1 t c v) (c + 1) vs

/-- A destination of `c` and its values; code 0xFF discards them (Table 1.2). -/
def Thread.putDst (t : Thread) (c : BitVec 8) (vs : List Word) : Thread :=
  if c.toNat < 200 then Thread.puts t c.toNat vs else t

/-- Shift a 32-bit ALU-pipe result into the last-result file (R10). -/
def Thread.shift (t : Thread) (r : Word) : Thread := { t with l1 := t.l0, l0 := r }

/-- Deliver a result: a 32-bit ALU-pipe result shifts the last-result file, whatever the destination (R10). -/
def Thread.result (t : Thread) (alu : Bool) (c : BitVec 8) (vs : List Word) : Thread :=
  match alu, vs with
  | true, [v] => Thread.putDst (Thread.shift t v) c [v]
  | _, _ => Thread.putDst t c vs

/-- Predicate q0 to q7; q7 reads true (Table 1.1). -/
def Thread.getQ (t : Thread) (i : Nat) : Bool := if i % 8 = 7 then true else t.q.getLsbD (i % 8)

/-- Write a predicate; a write to q7 is discarded (R12). -/
def Thread.putQ (t : Thread) (i : Nat) (v : Bool) : Thread :=
  if i % 8 = 7 then t
  else Thread.note { t with q := if v then t.q ||| BitVec.twoPow 7 (i % 8) else t.q &&& ~~~(BitVec.twoPow 7 (i % 8)) } (0xF0 + i % 8)
    (BitVec.ofNat 32 (ofBool v))

/-- Write C, Z, N and V (R12). -/
def Thread.putCC (t : Thread) (v : BitVec 4) : Thread := Thread.note { t with cc := v } 0xF8 (v.setWidth 32)

/-- OR raised flags into FPFLAGS (R13): bit 0 invalid, 1 divide-by-zero, 2 overflow, 3 underflow, 4 inexact (Table 1.4). -/
def Thread.orFp (t : Thread) (f : BitVec 5) : Thread := { t with fp := t.fp ||| f }

/-- OR raised flags into SLIFLAGS (R13): bit 0 LUP up to bit 6 CONV (Table 1.4). -/
def Thread.orSli (t : Thread) (f : BitVec 7) : Thread := { t with sli := t.sli ||| f }

/-- Held by a meeting (R104): it stands at its MEET and has not been released there. -/
def Thread.held (t : Thread) : Bool := t.status = .ready && t.pc = t.meet && !t.released

/-- The pair of its own core that a pair number stands for in a group: an auditor's re-run maps the numbers that its original's
`acca` received onto pairs of its own (R194). -/
def Group.pairNo (g : Group) (p : Nat) : Nat := if g.shadow = 0 then p else (lookup p g.pairMap).getD (p + 8)

/-- Whether the guard lets the instruction execute (R21). -/
def Thread.guard (t : Thread) (g : BitVec 3) (n : Bool) : Bool := Thread.getQ t g.toNat != n

/-! ## Operands of the checked-out thread -/

/-- A uniform register as the checked-out thread reads it: an older value while it may still read one (R14). -/
def State.uniform (s : State) (i : Nat) : Word :=
  match lookup i s.thr.stale with
  | some v => v
  | none => if h : i < 32 then s.grp.k[i] else 0

/-- A 32-bit operand by full register code (Table 1.2). -/
def State.read32 (s : State) (c : BitVec 8) : Word :=
  if isK c then s.uniform (c.toNat - 0xD0) else s.thr.get c

/-- The words of an operand of `n` registers: zr reads zero throughout (R11, R155). -/
def State.readWords (s : State) (c : BitVec 8) : Nat → List Word
  | 0 => []
  | n + 1 => if c = 0xFF then List.replicate (n + 1) 0 else s.read32 c :: State.readWords s (c + 1) n

/-- The value of an operand of `n` registers. -/
def State.readN (s : State) (c : BitVec 8) (n : Nat) : Nat := ofWords (s.readWords c n)

/-! ## Checking objects out -/

/-- Put a thread back among the others, by rising key; the placeholder is dropped. -/
def putThread (t : Thread) (l : List Thread) : List Thread :=
  if t.key.gid = 0 then l else
  match l with
  | [] => [t]
  | u :: us => if t.key.gid < u.key.gid || (t.key.gid = u.key.gid && t.key.tid ≤ u.key.tid) then t :: u :: us else u :: putThread t us

/-- Check thread `k` out. -/
def State.checkoutThread (k : ThreadKey) (s : State) : Option State :=
  if s.thr.key = k then some s else
  match s.threads.find? (fun t => t.key = k) with
  | none => none
  | some t => some { s with thr := t, threads := putThread s.thr (s.threads.filter (fun u => u.key ≠ k)) }

/-- Put a group back among the others, by rising number; the placeholder is dropped. -/
def putGroup (g : Group) (l : List Group) : List Group :=
  if g.gid = 0 then l else
  match l with
  | [] => [g]
  | u :: us => if g.gid ≤ u.gid then g :: u :: us else u :: putGroup g us

/-- Check group `n` out. -/
def State.checkoutGroup (n : Nat) (s : State) : Option State :=
  if s.grp.gid = n then some s else
  match s.groups.find? (fun g => g.gid = n) with
  | none => none
  | some g => some { s with grp := g, groups := putGroup s.grp (s.groups.filter (fun u => u.gid ≠ n)) }

/-- Put a launch back among the others, by rising number; the placeholder is dropped. -/
def putLaunch (g : Launch) (l : List Launch) : List Launch :=
  if g.lid = 0 then l else
  match l with
  | [] => [g]
  | u :: us => if g.lid ≤ u.lid then g :: u :: us else u :: putLaunch g us

/-- Check launch `n` out. -/
def State.checkoutLaunch (n : Nat) (s : State) : Option State :=
  if s.lau.lid = n then some s else
  match s.launches.find? (fun g => g.lid = n) with
  | none => none
  | some g => some { s with lau := g, launches := putLaunch s.lau (s.launches.filter (fun u => u.lid ≠ n)) }

/-- Check core `n` of device `d` out; a core not listed is as after reset. -/
def State.checkoutCore (d n : Nat) (s : State) : State :=
  if s.core.dev = d ∧ s.core.num = n then s else
  { s with core := (s.cores.find? (fun c => c.dev = d && c.num = n)).getD (Core.fresh d n),
           cores := s.core :: s.cores.filter (fun c => !(c.dev = d && c.num = n)) }

/-- Check partition `p` of device `d` out; one not listed is as after reset. -/
def State.checkoutPart (d p : Nat) (s : State) : State :=
  if s.part.dev = d ∧ s.part.pid = p then s else
  { s with part := (s.parts.find? (fun c => c.dev = d && c.pid = p)).getD (Part.fresh d p),
           parts := s.part :: s.parts.filter (fun c => !(c.dev = d && c.pid = p)) }

/-- A device that is not listed: as after reset, its clock having run at 1,900 MHz since (R6, R16). -/
def State.idleDev (s : State) (d : Nat) : Device :=
  let t := s.now * 1900 + s.nowFrac
  { Device.fresh d with clk := t / 1000, clkFrac := t % 1000 * 1900 }

/-- Check device `d` out; one not listed is as after reset. -/
def State.checkoutDev (d : Nat) (s : State) : State :=
  if s.dev.num = d then s else
  { s with dev := (s.devs.find? (fun c => c.num = d)).getD (s.idleDev d),
           devs := s.dev :: s.devs.filter (fun c => !(c.num = d)) }

/-- Check partition and device out together. -/
def State.focusPart (d p : Nat) (s : State) : State := (s.checkoutPart d p).checkoutDev d

/-- Check a group out with its launch, core, partition and device. -/
def State.focusGroup (gid : Nat) (s : State) : Option State :=
  match s.checkoutGroup gid with
  | none => none
  | some s1 =>
    match s1.checkoutLaunch s1.grp.lid with
    | none => none
    | some s2 => some ((s2.checkoutCore s2.grp.dev s2.grp.core).focusPart s2.grp.dev s2.lau.pid)

/-- Check a thread out with its group, launch, core, partition and device. -/
def State.focus (k : ThreadKey) (s : State) : Option State :=
  match s.checkoutThread k with
  | none => none
  | some s1 => s1.focusGroup k.gid

/-! ## Looking objects up wherever they stand, and updating them there -/

/-- Every thread. -/
def State.allThreads (s : State) : List Thread := s.thr :: s.threads
/-- Every group. -/
def State.allGroups (s : State) : List Group := s.grp :: s.groups
/-- Every launch. -/
def State.allLaunches (s : State) : List Launch := s.lau :: s.launches
/-- Every core that differs from one after reset. -/
def State.allCores (s : State) : List Core := s.core :: s.cores
/-- Every partition that differs from one after reset. -/
def State.allParts (s : State) : List Part := s.part :: s.parts
/-- Every device that differs from one after reset. -/
def State.allDevs (s : State) : List Device := s.dev :: s.devs

/-- Update every thread. -/
def State.mapThreads (f : Thread → Thread) (s : State) : State := { s with thr := f s.thr, threads := s.threads.map f }
/-- Update every group. -/
def State.mapGroups (f : Group → Group) (s : State) : State := { s with grp := f s.grp, groups := s.groups.map f }
/-- Update every launch. -/
def State.mapLaunches (f : Launch → Launch) (s : State) : State := { s with lau := f s.lau, launches := s.launches.map f }
/-- Update every core that differs from one after reset. -/
def State.mapCores (f : Core → Core) (s : State) : State := { s with core := f s.core, cores := s.cores.map f }
/-- Update every listed partition. -/
def State.mapParts (f : Part → Part) (s : State) : State := { s with part := f s.part, parts := s.parts.map f }
/-- Update every listed device. -/
def State.mapDevs (f : Device → Device) (s : State) : State := { s with dev := f s.dev, devs := s.devs.map f }

/-- Update one thread. -/
def State.updThread (k : ThreadKey) (f : Thread → Thread) : State → State :=
  State.mapThreads (fun t => if t.key = k then f t else t)
/-- Update one group. -/
def State.updGroup (gid : Nat) (f : Group → Group) : State → State := State.mapGroups (fun g => if g.gid = gid then f g else g)
/-- Update one launch. -/
def State.updLaunch (lid : Nat) (f : Launch → Launch) : State → State := State.mapLaunches (fun l => if l.lid = lid then f l else l)

/-- One group. -/
def State.group? (s : State) (gid : Nat) : Option Group := s.allGroups.find? (fun g => g.gid = gid)
/-- One launch. -/
def State.launch? (s : State) (lid : Nat) : Option Launch := s.allLaunches.find? (fun l => l.lid = lid)
/-- One core. -/
def State.core? (s : State) (d n : Nat) : Core := (s.allCores.find? (fun c => c.dev = d && c.num = n)).getD (Core.fresh d n)
/-- One partition. -/
def State.part? (s : State) (d p : Nat) : Part := (s.allParts.find? (fun c => c.dev = d && c.pid = p)).getD (Part.fresh d p)
/-- One device. -/
def State.dev? (s : State) (d : Nat) : Device := (s.allDevs.find? (fun c => c.num = d)).getD (s.idleDev d)

/-- Update one core, listing it if it was not. -/
def State.updCore (d n : Nat) (f : Core → Core) (s : State) : State :=
  if s.core.dev = d ∧ s.core.num = n then { s with core := f s.core }
  else { s with cores := f (s.core? d n) :: s.cores.filter (fun c => !(c.dev = d && c.num = n)) }
/-- Update one partition, listing it if it was not. -/
def State.updPart (d p : Nat) (f : Part → Part) (s : State) : State :=
  if s.part.dev = d ∧ s.part.pid = p then { s with part := f s.part }
  else { s with parts := f (s.part? d p) :: s.parts.filter (fun c => !(c.dev = d && c.pid = p)) }
/-- Update one device, listing it if it was not. -/
def State.updDev (d : Nat) (f : Device → Device) (s : State) : State :=
  if s.dev.num = d then { s with dev := f s.dev }
  else { s with devs := f (s.dev? d) :: s.devs.filter (fun c => !(c.num = d)) }

/-- Threads of a group, in rising sr.tid. -/
def State.groupThreads (s : State) (gid : Nat) : List Thread :=
  if s.thr.key.gid = gid then putThread s.thr (s.threads.filter (fun t => t.key.gid = gid))
  else s.threads.filter (fun t => t.key.gid = gid)

/-- Threads of a group that have not exited. -/
def State.liveThreads (s : State) (gid : Nat) : List Thread := (s.groupThreads gid).filter (fun t => t.status ≠ .exited)

/-- Threads of one pack of a group. -/
def State.packThreads (s : State) (gid pack : Nat) : List Thread := (s.groupThreads gid).filter (fun t => t.key.tid / 32 = pack)

/-- Whether a device answers remote accesses and sends anything at all: neither stopped by a fatal condition nor without power (R334, R347). -/
def Device.answers (d : Device) : Bool := !d.stopped && !d.unpowered

/-- sr.gtime of a device: nanoseconds since it started (Table 1.4). -/
def State.gtime (dev : Nat) (s : State) : DWord := BitVec.ofNat 64 (s.now - (s.dev? dev).startAt)

/-- Place of a key in the flat memory (R126): the device's number above the 52-bit physical address. -/
def keyOf (dev pa : Nat) : Nat := dev * 2 ^ 52 + pa % 2 ^ 52

/-- Device of a key. -/
def devOf (k : Nat) : Nat := k / 2 ^ 52

/-- Host memory is the pseudo-device 1024 (notes/assumptions/6.md). -/
def hostDev : Nat := 1024

end Sys2Proof.Machine
end

