-- ==== Sys2Proof/Machine/ContentStore.lean ====
section
/-!
DEFINITION. The content store's names, hash, lines and prefix tables (17 R237 to R242, R252 to R255).
-/
namespace Sys2Proof.Machine
open Sys2Proof Bits

/-! ## The line hash (R240) -/

/-- One round of LH64 over the 128 bits of round `i`. -/
def lhRound (ka kb h data i : Nat) : Nat :=
  let lo := data / 2 ^ (128 * i) % 2 ^ 64
  let hi := data / 2 ^ (128 * i + 64) % 2 ^ 64
  let p := clmul 64 (lo ^^^ ka) (hi ^^^ kb)
  let h1 := rotl64 (h ^^^ (p % 2 ^ 64) ^^^ (p / 2 ^ 64)) 29
  let h2 := h1 * 0xB7C31E9F52D4A86B % 2 ^ 64
  h2 ^^^ rotl64 kb (8 * i + 1)

/-- LH64 of a block of at most 128 bytes, zero beyond its bytes, with length argument `n` (R240). -/
def lh64 (ka kb : DWord) (data : List Byte) (n : Nat) : Nat :=
  let d := ofBytes data
  let h0 := ka.toNat ^^^ (n * 0x8B514C27E3A96D05 % 2 ^ 64)
  let h := (List.range 8).foldl (fun h i => lhRound ka.toNat kb.toNat h d i) h0
  let h1 := (h ^^^ (h / 2 ^ 31)) * 0xF1E397A24C6B3D59 % 2 ^ 64
  h1 ^^^ (h1 / 2 ^ 29)

/-! ## Names (Table 17.3) -/

/-- The name of a line. -/
def ContentLine.name (l : ContentLine) : DWord := BitVec.ofNat 64 (l.region * 2 ^ 60 + l.coll * 2 ^ 56 + l.hash.toNat)

/-- The live line of a name: none for the null name (R239). -/
def Part.line (p : Part) (n : DWord) : Option ContentLine := if n = 0 then none else p.lines.find? (fun l => !l.freed && l.name = n)

/-- One reference more; a saturated count sticks (R242). -/
def Part.incr (p : Part) (n : DWord) : Part :=
  { p with lines := p.lines.map (fun l => if !l.freed && l.name = n && n ≠ 0 then { l with count := min (l.count + 1) 0xFFFFFFFF } else l) }

/-- One reference less: a count that reaches zero frees the line; a saturated one sticks (R242). -/
def Part.decr (p : Part) (n : DWord) : Part :=
  { p with lines := p.lines.map (fun l =>
      if !l.freed && l.name = n && n ≠ 0 && l.count ≠ 0xFFFFFFFF then
        (if l.count ≤ 1 then { l with count := 0, freed := true } else { l with count := l.count - 1 })
      else l) }

/-! ## Interior lines (Table 17.2) -/

/-- Depth of an interior line's bytes. -/
def lineDepth (bs : List Byte) : Nat := natAt bs 1 1
/-- Number of children. -/
def lineCount (bs : List Byte) : Nat := natAt bs 0 1
/-- Child `j`. -/
def lineChild (bs : List Byte) (j : Nat) : DWord := BitVec.ofNat 64 (natAt bs (8 + 8 * j) 8)
/-- The children in order. -/
def lineChildren (bs : List Byte) : List DWord := (List.range (lineCount bs)).map (lineChild bs)

/-- Whether interior bytes meet R238: header, zero tail, and live children of the right kind and depth. -/
def Part.interiorOk (p : Part) (bs : List Byte) : Bool :=
  let d := lineDepth bs
  let n := lineCount bs
  natAt bs 3 5 = 0 && decide (1 ≤ d) && decide (d ≤ 7) && decide (1 ≤ n) && decide (n ≤ 15)
    && (List.range 15).all (fun j => decide (j < n) || lineChild bs j = 0)
    && (lineChildren bs).all (fun c => match p.line c with
        | none => false
        | some l => if d = 1 then !l.interior else l.interior && lineDepth l.bytes = d - 1)

/-- The bytes of a tree, leaves in child order, with `n` levels of lines at most (R238). -/
def Part.treeBytes (p : Part) : Nat → DWord → List Byte
  | 0, _ => []
  | n + 1, name =>
    match p.line name with
    | none => []
    | some l => if l.interior then (lineChildren l.bytes).flatMap (fun c => Part.treeBytes p n c) else l.bytes

/-! ## Regions (R237) -/

/-- A region's registers; those after reset are zero. -/
def Part.region (p : Part) (r : Nat) : ContentRegion := (lookup r p.regions).getD ⟨0, 0, 0⟩
/-- Whether a region is enabled. -/
def Part.regionOn (p : Part) (r : Nat) : Bool := (p.region r).ctl.getLsbD 31
/-- Slots in use: every line, freed ones until their slot is free (RUSED). -/
def Part.used (p : Part) (r : Nat) : Nat := (p.lines.filter (fun l => l.region = r)).length
/-- Virtual address of a slot. -/
def Part.slotVa (p : Part) (r slot : Nat) : Nat := (p.region r).base.toNat + 128 * slot
/-- The first free slot from `start` on, cyclically: which one is taken is not architectural (R237). -/
def Part.freeSlot (p : Part) (r start : Nat) : Option Nat :=
  let n := (p.region r).lines.toNat
  if n ≤ p.used r then none else
  ((List.range (p.used r + 1)).map (fun i => (start + i) % n)).find? (fun s => !(p.lines.any (fun l => l.region = r && l.slot = s)))

/-- Lines of a chain that still hold their collision index: live ones, and freed interior ones the walker has not read (R242). -/
def Part.chain (p : Part) (r : Nat) (h : BitVec 56) : List ContentLine :=
  p.lines.filter (fun l => l.region = r && l.hash = h && (!l.freed || (l.interior && !l.walked)))

/-! ## Prefix tables (R252 to R255) -/

/-- A prefix table; those after reset are disabled. -/
def Part.table (p : Part) (t : Nat) : PrefixTable := (lookup t p.prefixes).getD ⟨false, []⟩
/-- Put a table back. -/
def Part.setTable (p : Part) (t : Nat) (x : PrefixTable) : Part := { p with prefixes := Bits.insert t x p.prefixes }
/-- Touch: the entry's age becomes 0, and every younger one ages by one (R252). -/
def PrefixTable.touch (x : PrefixTable) (i : Nat) : PrefixTable :=
  match x.entries.find? (fun e => e.idx = i) with
  | none => x
  | some old => { x with entries := x.entries.map (fun e => if e.idx = i then { e with age := 0 } else if e.age < old.age then { e with age := e.age + 1 } else e) }

/-- The longest stored prefix among `n` hashes: index in the array and entry (R253). -/
def PrefixTable.look (x : PrefixTable) (hs : List DWord) : Nat → Option (Nat × PrefixEntry)
  | 0 => none
  | n + 1 =>
    match x.entries.find? (fun e => e.hash = hs.getD n 0 && e.length = n + 1) with
    | some e => some (n + 1, e)
    | none => PrefixTable.look x hs n

/-- The unpinned entry of greatest age (R254). -/
def PrefixTable.victim (x : PrefixTable) : Option PrefixEntry :=
  (x.entries.filter (fun e => e.pins = 0)).foldl (fun best e => match best with
    | none => some e
    | some b => if b.age < e.age then some e else some b) none

/-- `pfins` (R254; R322 for the entry it leaves, with no pins and age 0, and the reference it takes on its root): the status word and the partition, or none where a dead root traps. -/
def Part.pfins (p : Part) (t : Nat) (hash root : DWord) (length : Nat) : Option (Word × Part) :=
  let x := p.table t
  let st := fun code idx => BitVec.ofNat 32 (code + 2 ^ 8 * idx)
  match x.entries.find? (fun e => e.hash = hash && e.length = length) with
  | some e => some (st 1 e.idx, p.setTable t (x.touch e.idx))
  | none =>
    let insertAt := fun (p : Part) (x : PrefixTable) (i age : Nat) =>
      if (p.line root).isNone then none else
      let y : PrefixTable := { x with entries := x.entries ++ [⟨i, hash, root, length, 0, age⟩] }
      some (st 0 i, (p.setTable t (y.touch i)).incr root)
    match (List.range 64).find? (fun i => !(x.entries.any (fun e => e.idx = i))) with
    | some i => insertAt p x i x.entries.length
    | none =>
      match x.victim with
      | none => some (st 2 0xFF, p)
      | some v =>
        (insertAt p { x with entries := x.entries.filter (fun e => e.idx ≠ v.idx) } v.idx v.age).map (fun r => (r.1, r.2.decr v.root))

/-- `pfpin` and `pfunpin` (R255): status and table. -/
def PrefixTable.pin (x : PrefixTable) (hash : DWord) (i : Nat) (up : Bool) : Nat × PrefixTable :=
  let set := fun n => { x with entries := x.entries.map (fun e => if e.idx = i then { e with pins := n } else e) }
  match x.entries.find? (fun e => e.idx = i && e.hash = hash) with
  | none => (1, x)
  | some e =>
    if up then (if e.pins = 65535 then (3, x) else (0, (set (e.pins + 1)).touch i))
    else (if e.pins = 0 then (2, x) else (0, set (e.pins - 1)))

end Sys2Proof.Machine
end

