-- ==== Sys2Proof/Machine/Translate.lean ====
section
/-!
DEFINITION. Page tables, translation and the checks of an access (09 R126 to R131, R137, R138, R349; 11 R156; 21 R311, R312).
-/
namespace Sys2Proof.Machine
open Sys2Proof Bits Encoding

/-- Why an instruction does not complete at issue. -/
inductive Stop where
  /-- it parks its thread on a page of the `n` bytes from `va` that it loads: the lines that did translate are buffered (R137) -/
  | parkRange (page kind va n : Nat)
  /-- it raises a trap: cause of Table 5.9, detail word, and the argument of `trap` -/
  | trap (cause : Nat) (detail arg : Word)
  /-- it parks its thread on a page (R137): fault-queue kind, or 15 where no fault is posted (stack growth, tag check) -/
  | park (page kind : Nat)
  /-- it names a Faulted pair and takes the lost store's trap (R182) -/
  | pairFault (pair cause : Nat) (detail : Word)
  /-- it waits at issue with nothing performed, and issues again once what it waits for has changed -/
  | wait (w : Wait)
  /-- it waits as a gang or system release does, its flush markers sent (R150) -/
  | flush
  /-- it consumes an uncorrectable error (R331): its node rolls back -/
  | consume (code : Nat)
  /-- it reads a KV block that reads as poisoned (R330, R331): the block is lost, and its node rolls back -/
  | kvPoison (seq : Word) (blk : Nat)
  /-- its node ends without re-queue (R146, R120) -/
  | abort
  deriving DecidableEq, Repr

/-! ## Leaf entries (Table 9.2) -/

namespace Pte
/-- valid -/
def valid (e : Nat) : Bool := bit e 0
/-- read permitted -/
def read (e : Nat) : Bool := bit e 1
/-- write permitted -/
def write (e : Nat) : Bool := bit e 2
/-- instructions may be fetched -/
def execute (e : Nat) : Bool := bit e 3
/-- page promoted from the host or the safe tier -/
def tagged (e : Nat) : Bool := bit e 4
/-- frame is host memory -/
def host (e : Nat) : Bool := bit e 5
/-- frame: physical address bits 51:16 -/
def frame (e : Nat) : Nat := field e 51 16
/-- page size code -/
def size (e : Nat) : Nat := field e 56 55
/-- region class (Table 9.3) -/
def cls (e : Nat) : Nat := field e 59 57
/-- format -/
def fmt (e : Nat) : Nat := field e 63 60
/-- scale offset in 8 KiB units -/
def scaleOff (e : Nat) : Nat := field e 91 80
/-- scale frame -/
def scaleFrame (e : Nat) : Nat := field e 127 92
/-- destination device of class 2 -/
def dest (e : Nat) : Nat := field e 127 118
/-- log2 of the page's bytes -/
def shift (e : Nat) : Nat := if size e = 0 then 16 else if size e = 1 then 21 else 30
/-- The level at which a leaf of a size stands (R311). -/
def level (e : Nat) : Nat := if size e = 0 then 0 else if size e = 1 then 1 else 2

/-- Malformed leaf (R128), wherever it stands. -/
def bad (e : Nat) : Bool :=
  field e 79 64 ≠ 0 || field e 54 52 ≠ 0 || field e 15 8 ≠ 0 || cls e ≥ 6 || size e = 3
    || fmt e ≥ 7 || (fmt e ≠ 0 && !(cls e = 0 || cls e = 1 || cls e = 3))
    || (size e = 1 && field e 20 16 ≠ 0) || (size e = 2 && field e 29 16 ≠ 0)
    || (fmt e = 0 && cls e ≠ 2 && (scaleFrame e ≠ 0 || scaleOff e ≠ 0))
    || (cls e = 2 && (fmt e ≠ 0 || scaleOff e ≠ 0 || host e || field e 117 92 ≠ 0))
    || (cls e = 4 && size e ≠ 0)

/-- Malformed at level `l`: a leaf is legal at its size's level alone (R311). -/
def badAt (l e : Nat) : Bool := bad e || level e ≠ l

/-- A pointer entry with a bit set that must be zero (R311). -/
def badPointer (e : Nat) : Bool := e ≠ field e 51 9 * 2 ^ 9 + 2 ^ 8 + 1
end Pte

/-- Index of a virtual address at a level (R311). -/
def levelIndex (va : Nat) : Nat → Nat
  | 0 => field va 20 16
  | 1 => field va 29 21
  | 2 => field va 38 30
  | 3 => field va 47 39
  | _ => field va 55 48

/-- What a walk finds. -/
inductive Walk where
  | miss
  | malformed
  | leaf (entry : Nat) (place : Nat)
  deriving DecidableEq, Repr

/-- Walk from the table at `tbl`, with `n` levels left (R311). -/
def walkFrom (mem : List Host.Cell) (dev va : Nat) : Nat → Nat → Walk
  | 0, _ => .malformed
  | n + 1, tbl =>
    let k := keyOf dev (tbl + 16 * levelIndex va n)
    let e := Mem.nat mem k 16
    if !Pte.valid e then .miss
    else if bit e 8 then (if n = 0 || Pte.badPointer e then .malformed else walkFrom mem dev va n (field e 51 9 * 2 ^ 9))
    else if Pte.badAt n e then .malformed else .leaf e k

/-- Walk a partition's tables from PTROOT (R310, R311). -/
def walk (mem : List Host.Cell) (p : Part) (va : Nat) : Walk :=
  if bit p.ptroot.toNat 0 then walkFrom mem p.dev va 5 (field p.ptroot.toNat 51 12 * 2 ^ 12) else .miss

/-- A translated address: the leaf entry, its class, and the key of the byte (on the destination device for class 2). -/
structure Xlat where
  entry : Nat
  cls : Nat
  key : Nat
  deriving DecidableEq, Repr

/-- What a translation gives. -/
inductive Trans where
  | ok (x : Xlat)
  | miss
  | hostMiss
  | hostRefused
  | malformed
  deriving DecidableEq, Repr

/-- The address behind a leaf entry (R127, R291, R312). -/
def leafAddr (p : Part) (e va : Nat) : Trans :=
  let pa := (Pte.frame e * 2 ^ 16 + va % 2 ^ Pte.shift e) % 2 ^ 52
  if Pte.cls e = 2 then .ok ⟨e, 2, keyOf (Pte.dest e) pa⟩
  else if Pte.host e then
    if !p.pasid.getLsbD 31 || p.atsRefused.contains (pa / 2 ^ 16) then .hostRefused
    else match lookup (pa / 2 ^ 16) p.ats with
      | some h => .ok ⟨e, Pte.cls e, keyOf hostDev (h * 2 ^ 16 + pa % 2 ^ 16)⟩
      | none => .hostMiss
  else .ok ⟨e, Pte.cls e, keyOf p.dev pa⟩

/-- Translate through a core's cached translations, else by a walk (R137: a cached page lasts until `tlbinv`). DESIGN CHOICE: what an
access to a physical address at or above the 512 GiB of Table 0.1 does is not stated; the model has memory at every address that the
frame field can name (notes/assumptions/35.md). -/
def translateBy (mem : List Host.Cell) (p : Part) (tlb : List TlbEntry) (va : Nat) : Trans :=
  match tlb.find? (fun t => t.pid = p.pid && t.page = va / 2 ^ 16) with
  | some t => leafAddr p t.entry va
  | none =>
    match walk mem p va with
    | .miss => .miss
    | .malformed => .malformed
    | .leaf e _ => leafAddr p e va

/-- Translate for the checked-out core and partition. -/
def State.translate (s : State) (va : Nat) : Trans := translateBy s.mem s.part s.core.tlb va

/-- A leaf entry once an access has used it: accessed, and dirty after a store (R127). -/
def Pte.used (e : Nat) (store : Bool) : Nat := e ||| 2 ^ 6 ||| (2 ^ 7 * ofBool store)

/-- Set the accessed bit, and the dirty bit for a store, in the entry of the checked-out partition at its home if it still equals
the one read (R127, R317). -/
def State.mark (va : Nat) (store : Bool) (x : Xlat) (s : State) : State :=
  if Pte.used x.entry store = x.entry then s else
  match walk s.mem s.part va with
  | .leaf e k => if e = x.entry then { s with mem := Mem.write s.mem k (toBytes 16 (Pte.used x.entry store)) } else s
  | _ => s

/-- An access by the device itself to the page of `va` through the checked-out partition's tables: its accessed bit, and its dirty bit for
a store (R127). -/
def State.visit (va : Nat) (store : Bool) (s : State) : State :=
  match translateBy s.mem s.part [] va with
  | .ok x => s.mark va store x
  | _ => s

/-- Keep a translation in the checked-out core, with its entry's accessed and dirty bits set (R127, R137). -/
def State.touch (va : Nat) (store : Bool) (x : Xlat) (s : State) : State :=
  let keep := s.core.tlb.filter (fun t => !(t.pid = s.part.pid && t.page = va / 2 ^ 16))
  State.mark va store x { s with core := { s.core with tlb := ⟨s.part.pid, va / 2 ^ 16, Pte.used x.entry store⟩ :: keep } }

/-! ## Detail words (Tables 9.7, 9.9) -/

/-- XLATE detail: kind, and virtual address bits 43:16. -/
def xlateDetail (kind va : Nat) : Word := BitVec.ofNat 32 (kind * 2 ^ 28 + field va 43 16)
/-- ALIGN, REGION and PROT detail: kind, and address bits 27:0 (R349). -/
def addrDetail (kind va : Nat) : Word := BitVec.ofNat 32 (kind * 2 ^ 28 + va % 2 ^ 28)

/-- Trap causes (Table 5.9). -/
def causeIllegal : Nat := 1
/-- cause RACE -/
def causeRace : Nat := 4
/-- cause STKOVF -/
def causeStkovf : Nat := 9
/-- cause CFULL -/
def causeCfull : Nat := 10
/-- cause PROT -/
def causeProt : Nat := 11
/-- cause ALIGN -/
def causeAlign : Nat := 12
/-- cause REGION -/
def causeRegion : Nat := 13
/-- cause XLATE -/
def causeXlate : Nat := 14
/-- cause KVHANDLE -/
def causeKvhandle : Nat := 15

/-- ALIGN for a byte address that must be aligned to `2^k`. -/
def alignStop (k va : Nat) : Stop := .trap causeAlign (addrDetail k va) 0

/-- ILLEGAL cause 0x12 with a refusal code (R191): word 0. -/
def refuse (op : BitVec 8) (code : Nat) : Stop := .trap causeIllegal (detail 0x12 op (BitVec.ofNat 8 code) 0) 0
/-- ILLEGAL cause 0x12 for an operand value or a state (R33): field 0, word 0 (notes/assumptions/12.md). -/
def misuse12 (op : BitVec 8) : Stop := refuse op 0

/-! ## Stack reservations (R8, R138) -/

/-- A field of a launch record (Table 16.1): `n` bytes at offset `o`. -/
def Launch.fld (l : Launch) (o n : Nat) : Nat := natAt l.record o n
/-- Level count. -/
def Launch.levels (l : Launch) : Nat := l.fld 11 1
/-- Level entry `j` (Table 16.2). -/
def Launch.level (l : Launch) (j : Nat) : Nat := l.fld (80 + 8 * j) 8
/-- Extent of level `j`. -/
def Launch.extent (l : Launch) (j : Nat) : Nat := field (l.level j) 31 0
/-- Domain of level `j`. -/
def Launch.domain (l : Launch) (j : Nat) : Nat := field (l.level j) 35 32
/-- Product of the extents of the levels that satisfy `p`. -/
def Launch.product (l : Launch) (p : Nat → Bool) : Nat :=
  (List.range l.levels).foldl (fun acc j => if p j then acc * l.extent j else acc) 1
/-- Thread count T of a group (R223). -/
def Launch.threadsPerGroup (l : Launch) : Nat := l.product (fun j => decide (l.domain j ≤ 1))
/-- Group count (R223). -/
def Launch.groupCount (l : Launch) : Nat := l.product (fun j => decide (2 ≤ l.domain j))
/-- Stack base, 0 for none. -/
def Launch.stackBase (l : Launch) : Nat := l.fld 24 8
/-- Stack bytes of each thread (R138). -/
def Launch.stackBytes (l : Launch) : Nat := (if l.fld 32 4 % 512 = 0 then 1 else l.fld 32 4 % 512) * 2 ^ 16
/-- First byte of the reservation of thread `tid` of group `idx` (R138). -/
def Launch.stackBottom (l : Launch) (idx tid : Nat) : Nat := l.stackBase + (idx * 1024 + tid) * l.stackBytes
/-- Registers at kernel entry (Table 1.1, R8): the stack pair, and zero elsewhere. -/
def Launch.entryRegs (l : Launch) (idx tid : Nat) : Vector Word 200 :=
  let top := if l.stackBase = 0 then 0 else l.stackBottom idx tid + l.stackBytes
  ((Vector.replicate 200 (0 : Word)).set 2 (loWord top)).set 3 (hiWord top)

/-- Whether a virtual address lies in the reservation of the checked-out thread. -/
def State.ownStack (s : State) (va : Nat) : Bool :=
  s.lau.stackBase ≠ 0 && decide (s.lau.stackBottom s.grp.idx s.thr.key.tid ≤ va) &&
    decide (va < s.lau.stackBottom s.grp.idx s.thr.key.tid + s.lau.stackBytes)

/-- Whether a virtual address lies in the stack region that the checked-out launch reserves, one range for each index of R138. -/
def State.inStacks (s : State) (va : Nat) : Bool :=
  s.lau.stackBase ≠ 0 && decide (s.lau.stackBase ≤ va) && decide (va < s.lau.stackBottom s.lau.groupCount 0)

/-- A stack-class address outside the thread's own reservation: STKOVF below its bottom, else PROT kind 2 (R138). -/
def State.stackStop (s : State) (va : Nat) : Stop :=
  let b := s.lau.stackBottom s.grp.idx s.thr.key.tid
  if s.lau.stackBase ≠ 0 && decide (va < b) then .trap causeStkovf (BitVec.ofNat 32 (min (b - va) 0xFFFFFFFF)) 0
  else .trap causeProt (addrDetail 2 va) 0

/-! ## Checks of an access (R156) -/

/-- What a thread's access asks for: address, size, whether it stores, the classes its entry accepts, and whether a store
to class 1 or 3 is PROT (R129, R166) where the entry does not accept them; `formatted` where it accepts formatted pages alone (R159). -/
structure Req where
  va : Nat
  size : Nat
  write : Bool
  classes : List Nat
  prot13 : Bool
  formatted : Bool := false
  deriving DecidableEq, Repr

/-- Fault-queue kind of a miss (Table 21.4). -/
def missKind (write : Bool) : Nat := if write then 1 else 0

/-- Integrity tag of the block an address lies in still to be checked (R337). -/
def State.untagged (s : State) (x : Xlat) : Bool :=
  Pte.tagged x.entry && s.promoted.any (fun p => p.page = x.key / 2 ^ 16 && !(p.checked.contains (x.key % 2 ^ 16 / 4096)))

/-- Whether a block of a promoted page has the tag recorded at its source. -/
def State.tagOk (s : State) (p : Promoted) (block : Nat) : Bool :=
  crc64 (Mem.read s.mem (p.page * 2 ^ 16 + 4096 * block) 4096) = p.tags.getD block 0

/-- Whether a read at a key meets a block of a promoted page that has not passed its check and does not (R337). -/
def State.tagBad (s : State) (key : Nat) : Bool :=
  let block := key % 2 ^ 16 / 4096
  s.promoted.any (fun p => p.page = key / 2 ^ 16 && !(p.checked.contains block) && !s.tagOk p block)

/-- The check of the block at a key has passed, or failed: then its page is to be fetched again (R337). -/
def State.checkedTag (key : Nat) (ok : Bool) (s : State) : State :=
  let block := key % 2 ^ 16 / 4096
  { s with promoted := s.promoted.map (fun p => if p.page ≠ key / 2 ^ 16 then p
      else if ok then { p with checked := block :: p.checked.filter (fun b => b ≠ block), bad := p.bad.filter (fun b => b ≠ block) }
      else { p with bad := block :: p.bad.filter (fun b => b ≠ block), refetch := true }) }

/-- Whether the block at a key has failed its check once already (R337). -/
def State.tagFailed (s : State) (key : Nat) : Bool := s.promoted.any (fun p => p.page = key / 2 ^ 16 && p.bad.contains (key % 2 ^ 16 / 4096))

/-- Steps 3 to 6 of R156 for a global access: the address's upper bits, translation, class and permission. A page of the launch's stack
region that is not mapped counts as stack-class (R138; notes/assumptions/35.md). -/
def State.checkMap (s : State) (r : Req) : Except Stop Xlat :=
  if r.va ≥ 2 ^ 56 then .error (.trap causeXlate (xlateDetail 2 r.va) 0) else
  match s.translate r.va with
  | .miss =>
    if s.ownStack r.va then .error (.park (r.va / 2 ^ 16) 15)
    else if s.inStacks r.va then .error (s.stackStop r.va)
    else .error (.park (r.va / 2 ^ 16) (missKind r.write))
  | .hostMiss => .error (.park (r.va / 2 ^ 16) 2)
  | .hostRefused => .error (.trap causeXlate (xlateDetail 3 r.va) 0)
  | .malformed => .error (.trap causeXlate (xlateDetail 1 r.va) 0)
  | .ok x =>
    if r.write && r.prot13 && (x.cls = 1 || x.cls = 3) then .error (.trap causeProt (addrDetail 1 r.va) 0)
    else if !(r.classes.contains x.cls) || (r.formatted && Pte.fmt x.entry = 0) then .error (.trap causeRegion (addrDetail x.cls r.va) 0)
    else if x.cls = 4 && !s.ownStack r.va then .error (s.stackStop r.va)
    else if (r.write && !Pte.write x.entry) || (!r.write && !Pte.read x.entry) then .error (.trap causeProt (addrDetail 0 r.va) 0)
    else if s.untagged x then .error (.park (r.va / 2 ^ 16) 15)
    else .ok x

/-- Steps 2 to 6 of R156 for a global access: alignment first. -/
def State.check (s : State) (r : Req) : Except Stop Xlat :=
  if r.va % r.size ≠ 0 then .error (alignStop (Nat.log2 r.size) r.va) else s.checkMap r

/-- Steps 2 and 3 of R156 for a scratchpad access: alignment, then the group's allocation (R116, R132). -/
def State.checkScratch (s : State) (off size : Nat) : Except Stop Unit :=
  if off % size ≠ 0 then .error (.trap causeAlign (addrDetail (Nat.log2 size) (off % 2 ^ 20)) 0)
  else if off + size > s.grp.scratchSize then .error (.trap causeProt (addrDetail 3 (off % 2 ^ 20)) 0)
  else .ok ()

/-! ## Instruction fetch (R26, R128) -/

/-- The first word of the instruction at the checked-out thread's PC: PROT without execute, parking on a miss. -/
def State.fetchAddr (s : State) : Except Stop Xlat :=
  let va := s.thr.pc.toNat
  match s.translate va with
  | .miss => .error (.park (va / 2 ^ 16) 0)
  | .hostMiss => .error (.park (va / 2 ^ 16) 2)
  | .hostRefused => .error (.trap causeXlate (xlateDetail 3 va) 0)
  | .malformed => .error (.trap causeXlate (xlateDetail 1 va) 0)
  | .ok x =>
    if !Pte.execute x.entry then .error (.trap causeProt (addrDetail 0 va) 0)
    else if s.untagged x then .error (.park (va / 2 ^ 16) 15) else .ok x

end Sys2Proof.Machine
end

