-- ==== Sys2Proof/Machine/Journal.lean ====
section
/-!
DEFINITION. Signals to the host, the error log and the command journal (21 R313; 25 R330, R333, R338).
-/
namespace Sys2Proof.Machine
open Sys2Proof Bits

/-- A word of the MSI-X table (R313): the vector control word of each entry has its mask bit set after reset (PCIe). -/
def Part.msixWord (p : Part) (i : Nat) : Word := (lookup i p.msix).getD (if i % 4 = 3 then 1 else 0)

/-- Send a message toward the host: nothing leaves a device once it has stopped (R334). -/
def State.emit (dev : Nat) (m : OutMsg) (s : State) : State := if (s.dev? dev).answers then { s with out := m :: s.out } else s

/-- Signal an MSI-X vector of partition `pid` of device `dev`: a masked vector sets its pending bit (R313). -/
def State.msixSignal (dev pid v : Nat) (s : State) : State :=
  if ((s.part? dev pid).msixWord (4 * v + 3)).getLsbD 0 then
    s.updPart dev pid (fun p => { p with pba := if p.pba.contains v then p.pba else v :: p.pba })
  else s.emit dev (.msix dev pid v)

/-- Class of each condition (Table 25.1) as Table 25.2 codes it: 1 correctable, 2 node, 3 launch, 4 partition, 5 sequence, 6 fatal. -/
def errClass (code : Nat) : Nat :=
  if code ≤ 0x05 then 1 else if code = 0x11 then 3 else if code = 0x15 then 5 else if code = 0x20 then 4
  else if code = 0x30 then 6 else 2

/-- A record among those of a log, newest first: below the records of higher code that its own cycle has already logged (R330). -/
def ErrRecord.among (r : ErrRecord) : List ErrRecord → List ErrRecord
  | [] => [r]
  | x :: xs => if x.cycle = r.cycle ∧ x.time = r.time ∧ r.code < x.code then x :: ErrRecord.among r xs else r :: x :: xs

/-- Append an error record to a function's log, which keeps the 1,024 newest, those of one cycle in ascending code order (R330, R333). -/
def Part.logError (p : Part) (r : ErrRecord) : Part :=
  { p with errors := (r.among p.errors).take 1024, elhead := p.elhead + 1 }

/-- The record of a condition that device `dev` detects now (Table 25.2). -/
def State.newError (dev code : Nat) (u : ErrUnit) (context : Word) (s : State) : ErrRecord :=
  ⟨errClass code, code, u.kind, u.unit, context, s.gtime dev, (s.dev? dev).clk⟩

/-- Whether a unit can be reported at all (Table 25.2). -/
def ErrUnit.legal (u : ErrUnit) : Bool :=
  match u.kind with
  | 0 => decide (u.unit < 192)
  | 1 => decide (u.unit < 4)
  | 2 => decide (u.unit < 8)
  | 3 => decide (u.unit < 16)
  | 4 => u.unit = 0
  | _ => false

/-- Report a condition of Table 25.1 in partition `pid` of device `dev` (the PF where no partition is affected): the log
record, the AER bits and messages, and vector 65 (R330, R333). A stopped device reports nothing more (R334), and fatal conditions are
`fatalStop`'s. -/
def State.report (dev pid code : Nat) (u : ErrUnit) (context : Word) (s : State) : State :=
  if !(s.dev? dev).answers then s else
  let s1 := s.updPart dev pid (fun p => p.logError (s.newError dev code u context))
  if errClass code = 1 then (s1.updPart dev pid (fun p => { p with aerCor := true })).emit dev (.errCor dev pid)
  else State.msixSignal dev pid 65 ((s1.updPart dev pid (fun p => { p with aerUnc := true })).emit dev (.errNonfatal dev pid))

/-- Journal sequence numbers run from 1 to 0x7FFF_FFFF and wrap to 1 (R338). -/
def nextSeqno (n : Word) : Word := if n = 0x7FFFFFFF then 1 else n + 1

/-- Append a journal entry; the ring keeps the 65,536 newest (R338). -/
def Part.journalAdd (p : Part) (state status number : Nat) (mailbox : Bool) (command serial time : DWord) : Part :=
  { p with journal := (⟨p.jhead, state, status, number, mailbox, command, serial, time, false, false⟩ :: p.journal).take 65536,
           jhead := nextSeqno p.jhead }

/-- Append a journal entry of a launch from a host queue: the others are not journaled (R338). -/
def State.journalLaunch (l : Launch) (state status : Nat) (s : State) : State :=
  match l.source with
  | .queue q entry => s.updPart l.dev l.pid (fun p => p.journalAdd state status q false (BitVec.ofNat 64 entry) l.serial (s.gtime l.dev))
  | _ => s

/-- Launch numbers of launches not from a host queue run from 0x8000_0000 to 0xFFFF_FFFF and wrap (R338). -/
def nextLaunchNo (n : Word) : Word := if n = 0xFFFFFFFF then 0x80000000 else n + 1

end Sys2Proof.Machine
end

