-- ==== Sys2Proof/Machine/Launching.lean ====
section
/-!
DEFINITION. Launch records and their rules, accepting a launch, and mailbox launches (16 R222 to R225, R229, R230).
-/
namespace Sys2Proof.Machine
open Sys2Proof Bits Encoding

/-! ## Fields of a record (Table 16.1) -/

/-- Code address of the kernel's first instruction. -/
def Launch.entry (l : Launch) : CodeAddr := BitVec.ofNat 48 (l.fld 0 8)
/-- Entries of the carry set. -/
def Launch.carryCount (l : Launch) : Nat := l.fld 10 1
/-- x registers granted to each thread (R9). -/
def Launch.regs (l : Launch) : Nat := l.fld 8 2
/-- Scratchpad bytes per group. -/
def Launch.scratch (l : Launch) : Nat := l.fld 12 4
/-- Scratchpad bytes rounded up to a multiple of 4 KiB (R116). -/
def Launch.scratchRounded (l : Launch) : Nat := (l.scratch + 4095) / 4096 * 4096
/-- Two-phase gang launch. -/
def Launch.gang (l : Launch) : Bool := bit (l.fld 16 4) 17
/-- Race-domain scope code, 15 for none. -/
def Launch.race (l : Launch) : Nat := field (l.fld 16 4) 15 12
/-- Barrier stall limit in cycles, 0 for none. -/
def Launch.stall (l : Launch) : Nat := l.fld 20 4
/-- Number of dependences. -/
def Launch.deps (l : Launch) : Nat := l.fld 36 4 % 8
/-- Trap area, 0 for none. -/
def Launch.trapArea (l : Launch) : Nat := l.fld 40 8
/-- Role of a pack (R121). -/
def Launch.role (l : Launch) (pack : Nat) : Nat := field (l.fld 48 16) (4 * pack + 3) (4 * pack)
/-- Entry `j` of the carry set (R117). -/
def Launch.carry (l : Launch) (j : Nat) : Nat := l.fld (64 + j) 1
/-- The carry set, in record order. -/
def Launch.carrySet (l : Launch) : List Nat := (List.range l.carryCount).map l.carry
/-- Scope of level `j`. -/
def Launch.scope (l : Launch) (j : Nat) : Nat := field (l.level j) 39 36
/-- Sync word address and generation of dependence `j`. -/
def Launch.dep (l : Launch) (j : Nat) : Nat × Word := (l.fld (144 + 16 * j) 8, BitVec.ofNat 32 (l.fld (152 + 16 * j) 4))
/-- Sequence context of a gang launch. -/
def Launch.seqId (l : Launch) : Word := BitVec.ofNat 32 (l.fld 244 4)
/-- Done word, 0 for none. -/
def Launch.doneWord (l : Launch) : Nat := l.fld 248 8

/-- Coordinate at level `j` of thread `tid` of group `idx`; zero for undeclared levels (R223, Table 1.4). -/
def Launch.coord (l : Launch) (idx tid j : Nat) : Nat :=
  if j < l.levels then
    (idx * l.threadsPerGroup + tid) / (List.range j).foldl (fun acc i => acc * l.extent i) 1 % l.extent j
  else 0
/-- Whether the launch has a level of domain `d`. -/
def Launch.hasDomain (l : Launch) (d : Nat) : Bool := (List.range l.levels).any (fun j => l.domain j = d)
/-- Coordinate of group `idx` at the level of domain `d`. -/
def Launch.coordOf (l : Launch) (idx d : Nat) : Nat :=
  match (List.range l.levels).find? (fun j => l.domain j = d) with
  | some j => l.coord idx 0 j
  | none => 0
/-- A fabric launch (R235): a level of domain fabric and a clear gang bit. -/
def Launch.isFabric (l : Launch) : Bool := l.hasDomain 7 && !l.gang
/-- Packs of one group. -/
def Launch.packs (l : Launch) : Nat := (l.threadsPerGroup + 31) / 32

/-- Entry `i` of a partition's fabric list when it is valid (Table 21.2). -/
def Part.fabricDev (p : Part) (i : Nat) : Option Nat :=
  match lookup i p.fabric with
  | some e => if e.getLsbD 15 then some (e.toNat % 1024) else none
  | none => none

/-- The device a group runs on: its member for a gang launch, its fabric index for a fabric launch (R223). -/
def Launch.groupDev (l : Launch) (p : Part) (members : List Nat) (idx : Nat) : Nat :=
  if l.gang then members.getD (l.coordOf idx 6) l.dev
  else if l.isFabric then (p.fabricDev (l.coordOf idx 7)).getD l.dev
  else l.dev

/-- Domain's own scope (R223). -/
def domainScope (d : Nat) : Nat := [0, 1, 1, 2, 3, 4, 5, 6].getD d 6

/-- A level entry that breaks Table 16.2. -/
def Launch.levelBad (l : Launch) (j : Nat) : Bool :=
  field (l.level j) 63 40 ≠ 0 || l.scope j > 6 || l.domain j > 7 || l.extent j = 0 || l.scope j < domainScope (l.domain j)
    || (0 < j && l.domain j < l.domain (j - 1)) || (j = 0 && l.domain 0 ≠ 0)

/-- A carry entry that breaks R117. -/
def Launch.carryBad (l : Launch) (c : Nat) : Bool := !((decide (c < 0xC0) && decide (c < l.regs)) || (0xC0 ≤ c && c ≤ 0xC7))

/-- A thread's stack range that crosses a 4 GiB boundary or ends at one (R224). -/
def Launch.stackBad (l : Launch) : Bool :=
  let n := l.groupCount * 1024
  l.stackBase ≠ 0 && (List.range ((n * l.stackBytes) / 2 ^ 32 + 2)).any (fun m =>
    let b := (l.stackBase / 2 ^ 32 + m) * 2 ^ 32
    let i := (b - l.stackBase - 1) / l.stackBytes
    decide (l.stackBase < b) && decide (i < n) && decide (i % 1024 < l.threadsPerGroup))

/-- Scope of the highest level whose extent is above 1 (R223, R224). -/
def Launch.topScope (l : Launch) : Nat :=
  ((List.range l.levels).filter (fun j => decide (1 < l.extent j))).foldl (fun _ j => l.scope j) 0

/-- A record that breaks no rule of Table 16.1, R223 or R224, submitted to partition `p`, through mailbox `mbox` or otherwise. -/
def Launch.recordOk (l : Launch) (p : Part) (mbox : Option Nat) : Bool :=
  let w16 := l.fld 16 4
  let w240 := l.fld 240 4
  l.record.length = 256
    && decide (l.fld 0 8 < 2 ^ 48) && l.fld 0 8 % 4 = 0
    && decide (1 ≤ l.levels) && decide (l.levels ≤ 8) && decide (l.carryCount ≤ 16)
    && l.regs % 8 = 0 && decide (8 ≤ l.regs) && decide (l.regs ≤ 192) && decide (l.scratch ≤ 0x100000)
    && field w16 31 18 = 0 && field w16 16 16 = 0 && (l.race ≤ 6 || l.race = 15) && field w16 11 9 = 0
    && field w16 8 4 = p.pid && field w16 3 0 ≤ 11
    && decide (l.stackBase < 2 ^ 56) && l.stackBase % 2 ^ 16 = 0 && field (l.fld 32 4) 31 9 = 0 && l.fld 32 4 % 512 ≤ 256
    && field (l.fld 36 4) 31 3 = 0 && l.deps ≤ 4 && l.trapArea % 64 = 0
    && (List.range l.carryCount).all (fun j => !l.carryBad (l.carry j))
    && ((List.range 16).all (fun j => decide (j < l.carryCount) || l.carry j = 0))
    && (List.range l.levels).all (fun j => !l.levelBad j)
    && (List.range 8).all (fun j => decide (j < l.levels) || l.level j = 0)
    && decide (1 ≤ l.threadsPerGroup) && decide (l.threadsPerGroup ≤ 1024) && decide (1 ≤ l.groupCount)
    && (l.race = 15 || (decide (l.groupCount ≤ 65535) && decide (l.topScope ≤ l.race)))
    && (List.range l.deps).all (fun j => (l.dep j).1 % 16 = 0 && l.fld (156 + 16 * j) 4 = 0)
    && field w240 31 16 = 0 && field w240 14 8 = 0
    && (match mbox with | some m => bit w240 15 && w240 % 256 = m | none => !bit w240 15)
    && (l.gang || l.fld 244 4 = 0xFFFFFFFF) && l.doneWord % 16 = 0
    && l.gang = l.hasDomain 6
    && !l.stackBad
    && decide (l.regs * l.threadsPerGroup ≤ 65536) && decide (l.packs ≤ 64)
    && (List.range l.levels).all (fun j => l.domain j ≠ 7 || (decide (l.extent j ≤ 1024)
        && (List.range (l.extent j)).all (fun c => (p.fabricDev c).isSome)))

/-! ## Accepting a launch -/

/-- The 256 bytes of the record at virtual address `va` of the checked-out partition, read through its tables and classes 0, 1 and 3;
`none` where it cannot be read (R222). -/
def State.readRecord (s : State) (va : Nat) : Option (List Byte) :=
  if va % 256 ≠ 0 || va ≥ 2 ^ 56 then none else
  match translateBy s.mem s.part [] va with
  | .ok x => if (x.cls = 0 || x.cls = 1 || x.cls = 3) && Pte.read x.entry then some (Mem.read s.mem x.key 256) else none
  | _ => none

/-- Device launches of a partition that have not finished: every one that did not come from a host queue (R229). -/
def State.deviceLaunches (s : State) (dev pid : Nat) : Nat :=
  (s.allLaunches.filter (fun l => l.lid ≠ 0 && l.dev = dev && l.pid = pid && l.state ≠ .completed && l.state ≠ .submitted &&
    (match l.source with | .queue _ _ => false | .firmware => false | _ => true))).length

/-- A launch in Submitted, before it is numbered. -/
def Launch.submitted (dev pid : Nat) (record : List Byte) (arg : DWord) (source : LaunchSource) : Launch :=
  { Launch.none with dev := dev, pid := pid, record := record, arg := arg, source := source, state := .submitted,
                     privileged := decide (source = .firmware) }

/-- Accept a valid launch: it enters Waiting with its priority, its launch number (R338) and its numeric-behaviour version
(R319), and a journal entry where its source has one. -/
def State.acceptLaunch (l : Launch) (priority : Nat) (s : State) : State :=
  let (id, s1) := s.freshId
  let p := s1.part? l.dev l.pid
  let isQueue := match l.source with | .queue _ _ => true | _ => false
  let l1 := { l with lid := id, state := .waiting, priority := priority, number := if isQueue then p.jhead else p.launchNo, nbv := p.nbv }
  let s2 := if isQueue then s1.journalLaunch l1 0 0
            else s1.updPart l.dev l.pid (fun p => { p with launchNo := nextLaunchNo p.launchNo })
  { s2 with launches := putLaunch l1 s2.launches }

/-- One launch of mailbox `m` has completed: its pending count falls (R230). -/
def Part.mailboxDone (p : Part) (m : Nat) : Part :=
  match lookup m p.mailboxes with
  | some b => { p with mailboxes := Bits.insert m { b with ctl := if b.ctl.toNat % 2 ^ 16 = 0 then b.ctl else b.ctl - 1 } p.mailboxes }
  | none => p

/-- Start one launch of mailbox `m`'s handler for the address written, in the checked-out partition (R230): a record that
cannot be read or breaks a rule ends with status 1, logged in the journal. -/
def State.startHandler (m addr : Nat) (s : State) : State :=
  let p := s.part
  match lookup m p.mailboxes with
  | none => s
  | some b =>
    let l := (s.readRecord b.record.toNat).map (fun r => Launch.submitted p.dev p.pid r (BitVec.ofNat 64 addr) (.mailbox m addr))
    let s1 := s.visit b.record.toNat false
    let failed := { s1 with part := (p.mailboxDone m).journalAdd 3 1 m true (BitVec.ofNat 64 addr) (BitVec.ofNat 64 addr) (s.gtime p.dev) }
    match l with
    | some l => if l.recordOk p (some m) then s1.acceptLaunch l (field (l.fld 16 4) 3 0) else failed
    | none => failed

/-- The mailbox of a partition whose enabled range holds a virtual address (R230). -/
def Part.mailboxOf (p : Part) (va : Nat) : Option (Nat × Mailbox) :=
  p.mailboxes.find? (fun b => b.2.ctl.getLsbD 31 && decide (b.2.base.toNat ≤ va) && decide (va < b.2.base.toNat + b.2.extent.toNat))

/-- Count one launching write at mailbox `m`: past 65,535 pending it starts nothing and sets overflow; while 4,096 device
launches are unfinished the launch is held; while the partition is halted or swapped it is recorded (R229, R230, R314). -/
def State.mailboxLaunch (m addr : Nat) (s : State) : State :=
  match lookup m s.part.mailboxes with
  | none => s
  | some b =>
    if s.part.pstat ≠ 0 then { s with part := { s.part with recorded := s.part.recorded ++ [.mailbox m addr] } }
    else if b.ctl.toNat % 2 ^ 16 = 0xFFFF then
      { s with part := { s.part with mailboxes := Bits.insert m { b with ctl := b.ctl ||| 0x40000000 } s.part.mailboxes } }
    else
      let b1 := { b with ctl := b.ctl + 1 }
      let s1 := { s with part := { s.part with mailboxes := Bits.insert m b1 s.part.mailboxes } }
      if s1.deviceLaunches s.part.dev s.part.pid ≥ 4096 then
        { s1 with part := { s1.part with mailboxes := Bits.insert m { b1 with held := b1.held ++ [addr] } s1.part.mailboxes } }
      else s1.startHandler m addr

/-- A store, atomic, trap record or engine completion that performs at `va` in the checked-out partition starts the handler
of the mailbox it lies in when its address is a multiple of 64 (R230). -/
def State.mailboxWrite (va : Nat) (s : State) : State :=
  if va % 64 ≠ 0 then s else
  match s.part.mailboxOf va with
  | some (m, _) => s.mailboxLaunch m va
  | none => s

end Sys2Proof.Machine
end

