-- ==== Sys2Proof/Machine/Access.lean ====
section
/-!
DEFINITION. What a thread's access does once its checks have passed: race stamps (10 R147, R148), loads through the load
cache and the staged overlay (09 R134, 10 R144), plain and shared stores (08 R119, R120), publication and the published-write
log (10 R145, R146), and the ordering of releases and acquires (10 R141, R142).
-/
namespace Sys2Proof.Machine
open Sys2Proof Bits Encoding

/-! ## Race stamps (Table 10.3) -/

/-- A stamp of its fields. -/
def stampOf (writer wgen reader rgen launch : Nat) : DWord :=
  BitVec.ofNat 64 (writer % 2 ^ 16 * 2 ^ 48 + wgen % 256 * 2 ^ 40 + reader % 2 ^ 16 * 2 ^ 24 + rgen % 256 * 2 ^ 16 + launch % 256 * 2 ^ 8)

/-- Check one sector's stamp for an access by group `g` of launch tag `l` at generation `gen`, and give the stamp after it;
the error is the other party's tag and the kind of conflict (R148). -/
def stampStep (stamp : DWord) (g l gen : Nat) (write : Bool) : Except (Nat × Nat) DWord :=
  let v := stamp.toNat
  let other := decide (field v 15 8 ≠ l)
  let writer := if other then 0 else field v 63 48
  let wgen := if other then (gen + 255) % 256 else field v 47 40
  let reader := if other then 0 else field v 39 24
  let rgen := if other then (gen + 255) % 256 else field v 23 16
  let wlive := decide (wgen = gen)
  let rlive := decide (rgen = gen)
  if wlive && decide (writer ≠ g) then .error (writer, if write then 1 else 0)
  else if write && rlive && decide (reader ≠ g) then .error (reader, 2)
  else if write then .ok (stampOf g gen reader rgen l)
  else if !rlive then .ok (stampOf writer wgen g gen l)
  else if reader ≠ g then .ok (stampOf writer wgen 0xFFFF rgen l)
  else .ok (stampOf writer wgen reader rgen l)

/-- The stamp of a sector; an unlisted one is empty. -/
def State.stamp (s : State) (sector : Nat) : DWord := (lookup sector s.stamps).getD 0

/-- RACE detail (Table 10.4): the other tag, the kind, and bits 19:6 of the address that names the sector. -/
def raceDetail (tag kind va : Nat) : Word := BitVec.ofNat 32 (tag * 2 ^ 16 + kind * 2 ^ 14 + field va 19 6)

/-- The launch tag on a device; 0 where it has none. -/
def Launch.tag (l : Launch) (dev : Nat) : Nat := ((lookup dev l.marks).map Prod.fst).getD 0
/-- The race-domain generation on a device. -/
def Launch.gen (l : Launch) (dev : Nat) : Nat := ((lookup dev l.marks).map Prod.snd).getD 0

/-- Race check and stamp update of a plain access to one sector by the checked-out thread (R148); `va` names the sector in
the detail word. A launch of race scope none is not checked (R147), nor is an auditor's re-run. The stamp of before is kept where the store is staged; a store of an
early-committed phase performs for good. -/
def State.race (key va : Nat) (write : Bool) (s : State) : Except Stop State :=
  if s.lau.race = 15 || s.grp.shadow ≠ 0 then .ok s else
  let sec := key / 64
  match stampStep (s.stamp sec) s.grp.idx (s.lau.tag s.grp.dev) (s.lau.gen s.grp.dev) write with
  | .error (tag, kind) => .error (.trap causeRace (raceDetail tag kind va) 0)
  | .ok st =>
    let keep := if write && !s.grp.early && (lookup sec s.grp.stagedStamps).isNone then Bits.insert sec (s.stamp sec) s.grp.stagedStamps else s.grp.stagedStamps
    .ok { s with stamps := Bits.insert sec st s.stamps, stampOwner := Bits.insert sec (s.grp.dev, s.lau.pid) s.stampOwner, grp := { s.grp with stagedStamps := keep } }

/-! ## Loads -/

/-- Bytes with a group's staged bytes laid over them (R144). -/
def overlay (staged : List (Nat × Byte)) (k : Nat) : List Byte → List Byte
  | [] => []
  | b :: bs => (lookup k staged).getD b :: overlay staged (k + 1) bs

/-- Whether the load cache holds lines of a class (R134). -/
def cacheable (cls : Nat) : Bool := cls = 0 || cls = 1 || cls = 3 || cls = 4

/-- Keep a line in the load cache of the checked-out core: 64 KiB, newest first (R134). -/
def State.cacheFill (line cls : Nat) (s : State) : State :=
  let rest := s.core.lcache.filter (fun c => !(c.line = line && c.pid = s.part.pid))
  { s with core := { s.core with lcache := (⟨s.part.pid, line, cls, Mem.read s.mem (line * 128) 128⟩ :: rest).take 512 } }

/-- `n` bytes at a key as a plain load of the checked-out core reads them: a line the load cache still holds may be older
than memory, and whether it is still held is a free choice (R134; notes/assumptions/7.md). -/
def State.plainBytes (key n cls : Nat) (s : State) : List Byte × State :=
  let mem := Mem.read s.mem key n
  if !cacheable cls then (mem, s) else
  match s.core.lcache.find? (fun c => c.line = key / 128 && c.pid = s.part.pid) with
  | some c =>
    let old := (c.bytes.drop (key % 128)).take n
    if old = mem then (mem, s) else
    let (pick, s1) := s.choose 2
    if pick = 0 then (old, s1) else (mem, s1.cacheFill (key / 128) cls)
  | none => (mem, s.cacheFill (key / 128) cls)

/-- Whether a byte range meets a poisoned sector (R331). -/
def State.poisoned (s : State) (key n : Nat) : Bool := s.poison.any (fun p => decide (key < (p + 1) * 64) && decide (p * 64 < key + n))

/-- The value a load of the checked-out thread returns: plain loads through the load cache, shared and acquire loads from the
home; the group's own staged bytes lie over it; a poisoned sector is consumed (R331). -/
def State.load (x : Xlat) (n : Nat) (plain : Bool) (s : State) : Except Stop (Nat × State) :=
  if s.poisoned x.key n then .error (.consume 0x10) else
  let (bs, s1) := if plain then s.plainBytes x.key n x.cls else (Mem.read s.mem x.key n, s)
  .ok (ofBytes (overlay s1.grp.staged x.key bs), s1)

/-! ## Writes that perform -/

/-- Write bytes at their home: attributes of a sync word written over are cleared (R167), and the checked-out core drops its
line (R142: the thread's later loads return the stored value). -/
def State.perform (key : Nat) (bs : List Byte) (s : State) : State :=
  { s with mem := Mem.write s.mem key bs,
           attrs := s.attrs.filter (fun a => !(decide (a.1 < key + bs.length) && decide (key < a.1 + 16))),
           core := { s.core with lcache := s.core.lcache.filter (fun c => !(decide (c.line * 128 < key + bs.length) && decide (key < c.line * 128 + 128))) } }

/-- Write cells at their home, keys in the list's order (R144). -/
def State.performCells (cells : List (Nat × Byte)) (s : State) : State :=
  cells.foldl (fun s c => s.perform c.1 [c.2]) s

/-- Sectors of which every byte is among the cells: a write of a whole sector clears its poison (R331). -/
def State.clearPoison (cells : List (Nat × Byte)) (s : State) : State :=
  { s with poison := s.poison.filter (fun p => !((List.range 64).all (fun i => (lookup (64 * p + i) cells).isSome))) }

/-- Make the checked-out group's staged writes visible together (R120, R144). -/
def State.commitStaged (s : State) : State :=
  let s1 := (s.performCells s.grp.staged).clearPoison s.grp.staged
  { s1 with grp := { s1.grp with staged := [], stagedVa := [], stagedStamps := [] } }

/-- A staged sector of the checked-out group that a commit cannot prepare: partly written and poisoned at its home (R331). -/
def State.unprepared (s : State) : Bool :=
  s.grp.stagedVa.any (fun p => s.poison.contains p.1 && !((List.range 64).all (fun i => (lookup (64 * p.1 + i) s.grp.staged).isSome)))

/-- Everything staged becomes visible, and the phase is early-committed, not replayable and withdrawn from audit (R120). -/
def State.commitNow (s : State) : State :=
  let s1 := s.commitStaged
  { s1 with grp := { s1.grp with early := true, sampled := false } }

/-- Commit early (R120): a sector that cannot be prepared rolls the phase back instead (R331), and an auditor's re-run, whose writes never
become visible (R144), differs from its original in doing so. -/
def State.commitEarly (s : State) : Except Stop State :=
  if s.grp.shadow ≠ 0 then .error .abort
  else if s.unprepared then .error (.consume 0x10)
  else .ok s.commitNow

/-- Before a publishing write performs: what is staged is committed early; with nothing staged the phase stays replayable (R145). A re-run's write
does not perform (R146). -/
def State.publishFirst (s : State) : Except Stop State := if s.grp.staged.isEmpty || s.grp.attempt ≠ 0 then .ok s else s.commitEarly

/-- Enter a store or atomic as not yet acknowledged (R142), with the device and path it went by (R150). -/
def State.addUnacked (dev path : Nat) (s : State) : State :=
  let (id, s1) := s.freshId
  { s1 with thr := { s1.thr with unacked := s1.thr.unacked ++ [⟨id, dev, path⟩] } }

/-- Stage a byte at a key. -/
def stageBytes (staged : List (Nat × Byte)) (k : Nat) : List Byte → List (Nat × Byte)
  | [] => staged
  | b :: bs => stageBytes (Bits.insert k b staged) (k + 1) bs

/-- A plain store of the checked-out thread to class 0 or 4 (R119, R120): staged, unless the phase is early-committed; the
store that would pass the quota of 16,384 sectors commits early and performs itself. -/
def State.stagePlain (key va : Nat) (bs : List Byte) (s : State) : Except Stop State :=
  let sec := key / 64
  let known := (lookup sec s.grp.stagedVa).isSome
  if s.grp.early then .ok (s.perform key bs)
  else if !known && decide (s.grp.stagedVa.length ≥ 16384) then s.commitEarly.map (State.perform key bs)
  else .ok { s with grp := { s.grp with staged := stageBytes s.grp.staged key bs,
                                        stagedVa := if known then s.grp.stagedVa else Bits.insert sec (va / 64 * 64) s.grp.stagedVa } }

/-- A store to a mailbox page performs at once and commits the phase early (R130); it starts the handler where R230 counts
it as a launching write. -/
def State.mailboxStore (key va : Nat) (bs : List Byte) (s : State) : Except Stop State :=
  s.commitEarly.map (fun s => (s.perform key bs).mailboxWrite va)

/-- Bytes that a write of the checked-out group's threads performs at its home at once are no longer staged by the group: its threads read
the performed ones (R142 to R144). -/
def State.unstage (key n : Nat) (s : State) : State :=
  { s with grp := { s.grp with staged := s.grp.staged.filter (fun p => !(decide (key ≤ p.1) && decide (p.1 < key + n))) } }

/-- `n` bytes at a key as the threads of a group read them at their home: its staged bytes over memory (R144). -/
def State.groupBytes (gid key n : Nat) (s : State) : List Byte :=
  overlay (((s.group? gid).map Group.staged).getD []) key (Mem.read s.mem key n)

/-! ## Acquire and release (R141, R142) -/

/-- An acquire of group scope or wider invalidates the load cache for classes 0 and 4 (Table 10.2). -/
def Core.invalidate (c : Core) : Core := { c with lcache := c.lcache.filter (fun l => !(l.cls = 0 || l.cls = 4)) }

/-- Acquire at a scope. -/
def State.acquire (scope : Nat) (s : State) : State := if scope = 0 then s else { s with core := s.core.invalidate }

/-- Every earlier store and atomic of the checked-out thread is acknowledged. -/
def State.acked (s : State) : Bool := s.thr.unacked.isEmpty && !(s.inflight.any (fun a => a.t = s.thr.key))

/-- Every flush marker of the release that the checked-out thread performs is gathered: one went down every path its core has used and not
flushed since, so with none used there is none (R150). -/
def State.flushed (s : State) : Bool :=
  match s.thr.markers with
  | none => s.core.used.isEmpty
  | some m => m.2.isEmpty

/-- Whether a release of the checked-out thread at a scope may perform: at cluster scope or wider every earlier store and atomic
is acknowledged; at gang or system scope every flush marker is gathered too (Table 10.2, R150). -/
def State.released (scope : Nat) (s : State) : Bool := scope < 2 || (s.acked && (scope < 5 || s.flushed))

/-- A release at a scope: it waits, at gang or system scope with its flush markers sent, or goes on (R142, R150). -/
def State.release (scope : Nat) (s : State) : Except Stop State :=
  if s.released scope then .ok (if scope < 5 then s else { s with thr := { s.thr with markers := none } })
  else .error (if scope < 5 then .wait .resource else .flush)

/-- The release side of an order code (Table 11.4): 2 a release, 3 a full access, before which the thread's earlier stores are acknowledged at
whatever scope (R142). -/
def State.releaseBy (order scope : Nat) (s : State) : Except Stop State :=
  if order = 3 ∧ s.acked = false then .error (.wait .resource)
  else if 2 ≤ order then s.release scope
  else .ok s

/-- The publishing rule for an access that writes memory outside the scratchpad: `rel` for a release or full access of cluster
scope or wider; a shared store, atomic or sarrive that follows such a fence counts too, once (R145). -/
def State.publishRule (rel : Bool) (s : State) : Except Stop State :=
  if rel || s.thr.fenced then s.publishFirst.map (fun s => { s with thr := { s.thr with fenced := false } })
  else .ok s

/-! ## The published-write log (R146) -/

/-- Perform an operation and enter it in the published-write log. -/
def State.logged (tid op addr : Nat) (operand : List Word) (act : State → Except Stop (List Word × State)) (s : State) :
    Except Stop (List Word × State) :=
  match act s with
  | .error e => .error e
  | .ok (ret, s1) => .ok (ret, { s1 with grp := { s1.grp with log := s1.grp.log ++ [⟨tid, op, addr, operand, ret, 0⟩] } })

/-- A published write of the checked-out thread: on a first run it performs and enters the log, the 257th committing the
phase early; in a re-run it sends nothing and takes its result from the thread's next entry, and a difference or a missing
entry ends the group. An entry whose operation met an error instead of performing (R292) is performed again; an auditor's re-run performs none. -/
def State.publish (op addr : Nat) (operand : List Word) (act : State → Except Stop (List Word × State)) (s : State) :
    Except Stop (List Word × State) :=
  let tid := s.thr.key.tid
  if s.grp.attempt ≠ 0 then
    match s.grp.replay.find? (fun e => e.tid = tid) with
    | none => .error .abort
    | some e =>
      if e.op = op ∧ e.addr = addr ∧ e.operand = operand then
        let s0 := { s with grp := { s.grp with replay := s.grp.replay.erase e } }
        if e.serial = 0 ∨ s.grp.shadow ≠ 0 then .ok (e.ret, { s0 with grp := { s0.grp with log := s0.grp.log ++ [e] } })
        else s0.logged tid op addr operand act
      else .error .abort
  else
    match (if s.grp.log.length ≥ 256 then s.commitEarly else .ok s) with
    | .error e => .error e
    | .ok s0 =>
      s0.logged tid op addr operand act

/-! ## Scratchpad (R119, R132) -/

/-- Old contents of a scratchpad sector go to the undo area before the phase's first store to it (R119). -/
def Group.undo (g : Group) (sector : Nat) : Group :=
  if (lookup sector g.undoScratch).isSome then g
  else { g with undoScratch := (sector, Mem.read g.scratch (64 * sector) 64) :: g.undoScratch }

/-- Undo copies of every sector a range touches. -/
def Group.undoRange (g : Group) (off n : Nat) : Group :=
  (List.range ((off + n + 63) / 64 - off / 64)).foldl (fun g i => g.undo (off / 64 + i)) g

/-- Store bytes in a group's scratchpad, undo-logged; attributes of a sync word written over are cleared (R119, R167). -/
def Group.sts (g : Group) (off : Nat) (bs : List Byte) : Group :=
  let g1 := g.undoRange off bs.length
  { g1 with scratch := Mem.write g1.scratch off bs,
            attrs := g1.attrs.filter (fun a => !(decide (a.1 < off + bs.length) && decide (off < a.1 + 16))) }

end Sys2Proof.Machine
end

