-- ==== Sys2Proof/Machine/SyncWord.lean ====
section
/-!
DEFINITION. Sync words: arrivals, byte additions, completions, the waits they end, and the race-domain generation
(11 R167, R168, R170; 10 R147).
-/
namespace Sys2Proof.Machine
open Sys2Proof Bits

/-- The fields of a sync word (Table 11.6). -/
structure SyncWord where
  bt : Nat
  bc : Nat
  tc : Nat
  tt : Nat
  gen : Nat
  deriving DecidableEq, Repr

/-- A sync word of its 16 bytes. -/
def SyncWord.ofBytes (bs : List Byte) : SyncWord :=
  { bt := natAt bs 0 4, bc := natAt bs 4 4, tc := natAt bs 10 2, tt := natAt bs 8 2, gen := natAt bs 12 4 }

/-- The 16 bytes of a sync word. -/
def SyncWord.bytes (w : SyncWord) : List Byte :=
  toBytes 4 w.bt ++ toBytes 4 w.bc ++ toBytes 2 w.tt ++ toBytes 2 w.tc ++ toBytes 4 w.gen

/-- Whether generation `g` has passed when the word's is `gen` (R168): int32(gen - g) is not negative. -/
def passed (gen g : Word) : Bool := !(gen - g).msb

/-- One completion after another (R168): `first` lets a word with byte target zero complete once. -/
def SyncWord.loop : Nat → Bool → SyncWord → Nat → Nat → SyncWord × Nat × Nat
  | 0, _, w, held, k => (w, held, k)
  | n + 1, first, w, held, k =>
    if w.bt ≤ w.bc ∧ w.tc = w.tt ∧ (0 < w.bt ∨ first = true) then
      SyncWord.loop n false { w with gen := (w.gen + 1) % 2 ^ 32, bc := w.bc - w.bt, tc := min held w.tt } (held - min held w.tt) (k + 1)
    else (w, held, k)

/-- The completions of an update: the word, the arrivals still held, and how many generations completed. A byte-only word
completes as many generations as its bytes allow (R168). -/
def SyncWord.run (w : SyncWord) (held : Nat) : SyncWord × Nat × Nat :=
  if w.tt = 0 ∧ w.tc = 0 ∧ 0 < w.bt then
    ({ w with gen := (w.gen + w.bc / w.bt) % 2 ^ 32, bc := w.bc % w.bt }, held, w.bc / w.bt)
  else SyncWord.loop (held + 2) true w held 0

/-- Apply bytes and perhaps a thread arrival (R168). -/
def SyncWord.apply (w : SyncWord) (held bytes : Nat) (arrival : Bool) : SyncWord × Nat × Nat :=
  let hold := arrival && w.tc = w.tt
  let w1 := { w with bc := min (w.bc + bytes) (2 ^ 32 - 1), tc := if arrival && !hold then w.tc + 1 else w.tc }
  SyncWord.run w1 (if hold then held + 1 else held)

/-- The sync word at a place. -/
def State.syncWord (s : State) : SyncLoc → SyncWord
  | .scratch gid off => SyncWord.ofBytes (Mem.read (((s.group? gid).map Group.scratch).getD []) off 16)
  | .mem key => SyncWord.ofBytes (Mem.read s.mem key 16)

/-- The attributes of the word at a place; none set by default (R167). -/
def State.syncAttr (s : State) : SyncLoc → SyncAttr
  | .scratch gid off => (lookup off (((s.group? gid).map Group.attrs).getD [])).getD ⟨false, false, 0⟩
  | .mem key => (lookup key s.attrs).getD ⟨false, false, 0⟩

/-- The scope of a word: group in scratchpad and device in global memory unless `sinit` named one (R167). -/
def State.syncScope (s : State) (loc : SyncLoc) : Nat :=
  let a := s.syncAttr loc
  if a.scope ≠ 0 then a.scope else match loc with | .scratch _ _ => 1 | .mem _ => 4

/-- Arrivals held at a word. -/
def State.syncHeld (s : State) : SyncLoc → Nat
  | .scratch gid off => (lookup off (((s.group? gid).map Group.held).getD [])).getD 0
  | .mem key => (lookup key s.held).getD 0

/-- The list of held arrivals with the entry of a word set. -/
def putHeld (k n : Nat) (l : List (Nat × Nat)) : List (Nat × Nat) := if n = 0 then Bits.erase k l else Bits.insert k n l

/-- Write a word's 16 bytes and its held arrivals at its home; attributes stay (R167). Scratchpad words are undo-logged. -/
def State.putSync (loc : SyncLoc) (w : SyncWord) (held : Nat) (s : State) : State :=
  match loc with
  | .scratch gid off =>
    s.updGroup gid (fun g =>
      let g1 := g.undoRange off 16
      { g1 with scratch := Mem.write g1.scratch off w.bytes, held := putHeld off held g.held })
  | .mem key => { s with mem := Mem.write s.mem key w.bytes, held := putHeld key held s.held }

/-- Set a word's attributes (R167, R169). -/
def State.putAttr (loc : SyncLoc) (a : SyncAttr) (s : State) : State :=
  match loc with
  | .scratch gid off => s.updGroup gid (fun g => { g with attrs := Bits.insert off a g.attrs })
  | .mem key => { s with attrs := Bits.insert key a s.attrs }

/-- A thread leaves a wait normally: Ready after the instruction that waited; a trap that had fallen due is dropped (R113, R115). -/
def Thread.wake (t : Thread) (clk : Nat) : Thread :=
  { t with status := .ready, pc := t.npc, readySince := clk, due := Option.none, waited := 0 }

/-- A thread that waits to issue again (R27, R193): Ready at the same instruction. -/
def Thread.retry (t : Thread) (clk : Nat) : Thread := { t with status := .ready, readySince := clk, waited := 0 }

/-- Whether a thread waits on a word for a generation that has passed. -/
def Thread.satisfied (t : Thread) (loc : SyncLoc) (gen : Word) : Bool :=
  match t.status with
  | .waiting (.sync l g) => l = loc && passed gen g
  | _ => false

/-- Whether a thread waits on a word. -/
def Thread.waitsOn (t : Thread) (loc : SyncLoc) : Bool :=
  match t.status with
  | .waiting (.sync l _) => l = loc
  | _ => false

/-- What a wait's stall count restarts at a change of: byte count, thread count and thread target (R112). -/
def SyncWord.counts (w : SyncWord) : Nat × Nat × Nat := (w.bc, w.tc, w.tt)

/-- The stall count of a waiter restarts, with the counts it has seen (R112). -/
def Thread.recount (t : Thread) (counts : Nat × Nat × Nat) (clk : Nat) : Thread := { t with waitSince := clk, waited := 0, seen := counts }

/-- Every wait the generation satisfies ends with an acquire; where the counts have changed, the stall count of every other waiter restarts
(R112, R168). -/
def State.wakeSync (loc : SyncLoc) (gen : Word) (changed : Bool) (counts : Nat × Nat × Nat) (s : State) : State :=
  let gids := ((s.allThreads.filter (fun t => t.satisfied loc gen)).map (fun t => t.key.gid)).dedup
  let s1 := s.mapThreads (fun t => if t.satisfied loc gen then t.wake s.dev.clk
    else if changed && t.waitsOn loc then t.recount counts s.dev.clk else t)
  gids.foldl (fun s g => match s.group? g with
    | some g => s.updCore g.dev g.core Core.invalidate
    | none => s) s1

/-- Before generation `g` becomes current the walker rewrites every wgen and rgen of the launch equal to `g` to `g - 1` (R147). -/
def ageStamp (tag g : Nat) (st : DWord) : DWord :=
  let v := st.toNat
  if field v 15 8 ≠ tag then st else
  let old := fun x => if x = g then (g + 255) % 256 else x
  stampOf (field v 63 48) (old (field v 47 40)) (field v 39 24) (old (field v 23 16)) tag

/-- Whether the stamp of a sector is of the launch that has a tag on device `dev` in partition `pid` (R147; notes/assumptions/19.md). -/
def State.ownsStamp (s : State) (dev pid : Nat) (p : Nat × DWord) : Bool := decide (lookup p.1 s.stampOwner = some (dev, pid))

/-- Advance a launch's race-domain generation on a device by one (R147). -/
def State.advanceGen (lid dev : Nat) (s : State) : State :=
  match s.launch? lid with
  | none => s
  | some l =>
    let g := (l.gen dev + 1) % 256
    let tag := l.tag dev
    { s.updLaunch lid (fun l => { l with marks := l.marks.map (fun m => if m.1 = dev then (dev, m.2.1, g) else m) }) with
      stamps := s.stamps.map (fun p => (p.1, if s.ownsStamp dev l.pid p then ageStamp tag g p.2 else p.2)) }

/-- Advance a generation `n` times. -/
def State.advanceGens (lid dev : Nat) : Nat → State → State
  | 0, s => s
  | n + 1, s => State.advanceGens lid dev n (s.advanceGen lid dev)

/-- Whether a word's home is on the device of the checked-out core: one behind a class 2 window advances no generation (R168). -/
def State.syncLocal (s : State) : SyncLoc → Bool
  | .scratch _ _ => true
  | .mem key => devOf key = s.dev.num || devOf key = hostDev

/-- Device of a word's home. -/
def State.syncDev (s : State) : SyncLoc → Nat
  | .scratch gid _ => ((s.group? gid).map Group.dev).getD s.dev.num
  | .mem _ => s.dev.num

/-- A barrier word of a group completes: its phase closes, at once or, where the group is not resident, once it is (R117). -/
def Group.close (g : Group) (now : Nat) : Group :=
  if g.phase = .running then { g with phase := .closing, closedAt := now }
  else if g.phase = .suspended ∨ g.phase = .queued then { g with boundary := true }
  else g

/-- What completions bring about: each advances the race-domain generation of launch `lid`, and for a barrier word of a group they end
its phase and every stale uniform view (R117, R14). -/
def State.onComplete (loc : SyncLoc) (lid n : Nat) (s : State) : State :=
  let a := s.syncAttr loc
  let race := ((s.launch? lid).map Launch.race).getD 15
  let s1 := if a.adv && s.syncScope loc = race && s.syncLocal loc then State.advanceGens lid (s.syncDev loc) n s else s
  match loc with
  | .scratch gid _ =>
    if a.bar then
      (s1.updGroup gid (fun g => g.close s1.now)).mapThreads
        (fun t => if t.key.gid = gid then { t with stale := [] } else t)
    else s1
  | .mem _ => s1

/-- Apply an arrival or bytes to the word at a place, on behalf of launch `lid` (R168). -/
def State.syncApply (loc : SyncLoc) (bytes : Nat) (arrival : Bool) (lid : Nat) (s : State) : State :=
  let w0 := s.syncWord loc
  let (w, held, n) := w0.apply (s.syncHeld loc) bytes arrival
  let s1 := s.putSync loc w held
  let s2 := if n = 0 then s1 else s1.onComplete loc lid n
  s2.wakeSync loc (BitVec.ofNat 32 w.gen) (n ≠ 0 || w.counts ≠ w0.counts) w.counts

/-- Lower the thread target of a barrier word by one, completing it where the count now meets it (R170). `last`: no thread of the group is
left, and the exit itself is the boundary (R117): the word completes no generation more (DEDUCED from Table 18.3; notes/assumptions/36.md). -/
def State.lowerTarget (gid off lid : Nat) (last : Bool) (s : State) : State :=
  let loc := SyncLoc.scratch gid off
  let w0 := s.syncWord loc
  let w1 := { w0 with tt := w0.tt - 1 }
  let (w, held, n) := if w0.tt = 0 || last then (w1, s.syncHeld loc, 0) else SyncWord.run w1 (s.syncHeld loc)
  let s1 := s.putSync loc w held
  let s2 := if n = 0 then s1 else s1.onComplete loc lid n
  s2.wakeSync loc (BitVec.ofNat 32 w.gen) (n ≠ 0 || w.counts ≠ w0.counts) w.counts

/-- Initialise a word (R169): the generation stays, and where its counts change, the stall count of its waiters restarts (R112). -/
def State.initSync (loc : SyncLoc) (bt tt : Nat) (attr : SyncAttr) (s : State) : State :=
  let w0 := s.syncWord loc
  let w : SyncWord := { w0 with bt := bt, bc := 0, tc := 0, tt := tt }
  ((s.putSync loc w 0).putAttr loc attr).wakeSync loc (BitVec.ofNat 32 w.gen) (decide (w.counts ≠ w0.counts)) w.counts

/-- Barrier words of a group. -/
def Group.barriers (g : Group) : List Nat := (g.attrs.filter (fun a => a.2.bar)).map Prod.fst

end Sys2Proof.Machine
end

