-- ==== Sys2Proof/Machine/Phase.lean ====
section
/-!
DEFINITION. Phases: the phase record, commit, rollback, the end of a thread, of a group and of a node (08 R117 to R120, R125;
05 R81; 25 R331, R332, R335).
-/
namespace Sys2Proof.Machine
open Sys2Proof Bits

/-! ## The phase record (Tables 8.1, 8.2) -/

/-- A carried register of a thread. -/
def Thread.carryValue (t : Thread) (c : Nat) : Word := t.get (BitVec.ofNat 8 c)

/-- The thread record of a live thread; spin lowering is kept as the cycles left (Table 8.1). -/
def Thread.record (t : Thread) (carry : List Nat) (clk : Nat) : ThreadRecord :=
  { tid := t.key.tid, pc := t.pc, meet := t.meet, q := t.q, cc := t.cc, fp := t.fp, sli := t.sli, grant := t.grant,
    spin := { t.spin with lowUntil := if t.spin.low then t.spin.lowUntil - clk else 0 }, carry := carry.map t.carryValue,
    fenced := t.fenced }

/-- Write the phase record of the checked-out group: what the phase needs to start, restart or be re-run (R118). -/
def State.writeRecord (s : State) : State :=
  let g := s.grp
  let rec' : PhaseRecord :=
    { phase := g.phases, k := g.k, guards := g.guards,
      pairs := (s.core.pairs.filter (fun p => p.owner = g.gid)).length + g.savedPairs.length, pool := g.pool,
      threads := (s.liveThreads g.gid).map (fun t => t.record s.lau.carrySet s.dev.clk), attrs := g.attrs,
      seqs := (s.core.seqrs.zipIdx.filter (fun q => q.1.gid = g.gid)).map (fun q => (q.2, q.1)) ++ g.savedSeqrs, bound := (g.seq, g.view), held := g.held }
  { s with grp := { g with record := rec' } }

/-- A thread's registers at the start of the next phase: carried ones stay, every other x and o register and the
last-result file read zero (R7, R117). -/
def Thread.cutRegs (t : Thread) (carry : List Nat) : Thread :=
  { t with regs := Vector.ofFn (fun i => if carry.contains i.val then t.regs[i] else 0), l0 := 0, l1 := 0 }

/-- Whether a phase is sampled: the low `k` bits of the CRC are zero, and sampling is not off (R335). -/
def sampledPhase (p : Part) (number : Word) (idx phase : Nat) : Bool :=
  p.audctl ≠ 0 &&
    (crc32c (toBytes 4 p.seed.toNat ++ toBytes 4 number.toNat ++ toBytes 4 idx ++ toBytes 4 phase)).toNat % 2 ^ p.audctl = 0

/-- Begin a phase of the checked-out group: nothing is staged, logged or undone yet; the sampling decision is made and the
record is written (R117, R118, R335). -/
def State.beginPhase (s : State) : State :=
  let g := s.grp
  State.writeRecord { s with grp :=
    { g with undoScratch := [], undoBanks := [], foreignBytes := [], staged := [], stagedVa := [], stagedStamps := [], log := [],
             replay := [], tickets := [], ticketReplay := [], early := false, attempt := 0, trapped := false, audit := [], jobBytes := [], boundary := false,
             sampled := sampledPhase s.part s.lau.number g.idx g.phases } }

/-! ## The end of a group -/

/-- A job that a rollback finds queued and that runs out, counting nothing: an epilogue store (R182), and `xfer`, which is
published (R293). -/
def Job.runsOut (j : Job) : Bool :=
  match j.kind with
  | .accst _ _ _ _ _ _ _ _ _ => true
  | .xfer _ _ _ _ _ => true
  | _ => false

/-- An array command, which reaches the array in issue order (R179, R199). -/
def JobKind.array : JobKind → Bool
  | .mmac _ _ _ _ => true | .accz _ _ => true | .hada _ _ => true | _ => false

/-- Discard the queued jobs that satisfy `mine`, on whichever core they are queued: a `ccopy` drops the reference its job holds (R188, R193,
R249). -/
def State.discardJobs (mine : Job → Bool) (s : State) : State :=
  let gone := s.allCores.flatMap (fun c => c.jobs.filter mine)
  let s1 := s.mapCores (fun c => { c with jobs := c.jobs.filter (fun j => !mine j) })
  { s1 with part := gone.foldl (fun p j => match j.kind with | .ccopy root _ _ => p.decr root | _ => p) s.part }

/-- The open phase's queued commands of the checked-out group are discarded; those that run out count nothing (R182, R193). -/
def State.discardPhaseJobs (s : State) : State :=
  let mine := fun (j : Job) => j.gid = s.grp.gid && j.phase = s.grp.phases
  let s1 := s.discardJobs (fun j => mine j && !j.runsOut)
  s1.mapCores (fun c => { c with jobs := c.jobs.map (fun j => if mine j then { j with count := .none } else j) })

/-- Restore a tile whose undo copy belongs to a group (R193). -/
def Tile.restore (t : Tile) (gid : Nat) : Tile :=
  match t.undo with
  | .some u => if u.gid = gid then { fmt := u.fmt, claim := u.claim, bytes := u.bytes, zps := u.zps, sums := u.sums, undo := .none } else t
  | .none => t

/-- Restore the tiles of a core. -/
def Core.restoreTiles (c : Core) (gid : Nat) : Core :=
  { c with macros := c.macros.map (fun t => t.restore gid), rowbuf := c.rowbuf.restore gid }

/-- Keep an undo copy of a tile before a group's first load of the phase (R193). -/
def Tile.save (t : Tile) (gid : Nat) : Tile :=
  if (t.undo.map UndoTile.gid) = .some gid then t
  else { t with undo := .some { gid := gid, fmt := t.fmt, claim := t.claim, bytes := t.bytes, zps := t.zps, sums := t.sums } }

/-- Free what a group held on its core: pairs, claims, sequencers; its jobs on unresolved guard slots are discarded
(R81, R176, R206). -/
def Core.freeGroup (c : Core) (gid : Nat) : Core :=
  let free := fun (t : Tile) => if t.claim = gid then { t with claim := 0, undo := .none } else t
  { c with pairs := c.pairs.map (fun p => if p.owner = gid then { AccPair.free with holds := p.holds } else p),
           macros := c.macros.map free, rowbuf := free c.rowbuf,
           seqrs := c.seqrs.map (fun q => if q.gid = gid then Sequencer.free else q),
           accaQ := c.accaQ.filter (fun k => k.gid ≠ gid), forkQ := c.forkQ.filter (fun k => k.gid ≠ gid),
           comb := c.comb.filter (fun b => b.t.gid ≠ gid), faultBuf := c.faultBuf.filter (fun b => b.t.gid ≠ gid) }

/-- A launch notes that one of its groups has ended. -/
def Launch.groupEnded (l : Launch) (idx : Nat) : Launch := { l with ended := idx :: l.ended }

/-- A group and its threads leave the machine. -/
def State.forget (gid : Nat) (s : State) : State :=
  { s with threads := s.threads.filter (fun t => t.key.gid ≠ gid), thr := if s.thr.key.gid = gid then Thread.none else s.thr,
           groups := s.groups.filter (fun g => g.gid ≠ gid), grp := if s.grp.gid = gid then Group.none else s.grp,
           issueQ := s.issueQ.filter (fun q => q.1.gid ≠ gid), tickets := s.tickets.filter (fun t => t.t.gid ≠ gid) }

/-- Groups of a core. -/
def State.gidsOn (dev core : Nat) (s : State) : List Nat := (s.allGroups.filter (fun g => g.gid ≠ 0 && g.dev = dev && g.core = core)).map Group.gid

/-- Groups of the checked-out core. -/
def State.coreGids (s : State) : List Nat := s.gidsOn s.core.dev s.core.num

/-- The stall counts of a core's threads that wait for pairs or for a sequencer restart where those have changed since the core was `old` (R112,
R123). -/
def State.changedSince (old : Core) (s : State) : State :=
  let c := s.core? old.dev old.num
  let pairs := decide (c.pairs.map AccPair.owner ≠ old.pairs.map AccPair.owner)
  let seqrs := decide (c.seqrs.map Sequencer.gid ≠ old.seqrs.map Sequencer.gid)
  let gids := s.gidsOn old.dev old.num
  if !pairs && !seqrs then s else
  s.mapThreads (fun t => if !gids.contains t.key.gid then t else match t.status with
    | .waiting (.acca _ _) => if pairs then { t with waitSince := s.dev.clk, waited := 0 } else t
    | .waiting (.fork _ _) => if seqrs then { t with waitSince := s.dev.clk, waited := 0 } else t
    | _ => t)

/-- The auditor's re-runs of the phase of group `gid`. -/
def State.shadowsOf (gid : Nat) (s : State) : List Group := s.allGroups.filter (fun g => g.gid ≠ 0 && gid ≠ 0 && g.shadow = gid)

/-- The auditor's re-runs of a group's phase are dropped: nothing of them has ever been visible (R144), and the tiles of their cores are as
before. -/
def State.dropShadow (gid : Nat) (s : State) : State :=
  (s.shadowsOf gid).foldl (fun s g =>
    let old := s.core? g.dev g.core
    let s1 := (s.discardJobs (fun j => j.gid = g.gid)).updCore g.dev g.core (fun c => (c.restoreTiles g.gid).freeGroup g.gid)
    (State.forget g.gid { s1 with inflight := s1.inflight.filter (fun a => a.t.gid ≠ g.gid) }).changedSince old) s

/-- End the checked-out group: it and its threads leave the machine, and what it held is freed; its jobs that run out keep its scratchpad
(R81, R125, R206). -/
def State.endGroup (s : State) : State :=
  let gid := s.grp.gid
  let idx := s.grp.idx
  let bytes := s.grp.scratch
  let s1 := (s.dropShadow gid).discardJobs (fun j => j.gid = gid && !j.freed)
  let keep := fun (c : Core) => if c.jobs.any (fun j => j.gid = gid) then { c with leftover := Bits.insert gid bytes c.leftover } else c
  (State.forget gid ({ s1 with core := s1.core.freeGroup gid, lau := s1.lau.groupEnded idx }.mapCores keep)).changedSince s1.core

/-- Discard the checked-out group's staged writes, and give each staged sector its earlier writer and write generation back;
reader fields that the attempt set remain (R120, R148). -/
def State.discardStaged (s : State) : State :=
  let back := fun (p : Nat × DWord) => match lookup p.1 s.grp.stagedStamps with
    | none => p
    | some old =>
      let v := p.2.toNat
      let o := old.toNat
      (p.1, if field o 15 8 = field v 15 8 then stampOf (field o 63 48) (field o 47 40) (field v 39 24) (field v 23 16) (field v 15 8)
            else stampOf 0 ((s.lau.gen s.grp.dev + 255) % 256) (field v 39 24) (field v 23 16) (field v 15 8))
  { s with stamps := s.stamps.map back, grp := { s.grp with staged := [], stagedVa := [], stagedStamps := [] } }

/-- The auditor's re-run that is checked out would not give what its original gave: it stops, and counts as a signature mismatch (R86,
R146, R336). -/
def State.differ (s : State) : State :=
  { s with grp := { s.grp with differs := true, phase := .closing, closedAt := s.now },
           issueQ := s.issueQ.filter (fun q => q.1.gid ≠ s.grp.gid) }

/-- Where a launch logs that a node of it on device `d` has ended without re-queue: a fabric launch on its origin (R235). -/
def Launch.logDev (l : Launch) (d : Nat) : Nat := if l.isFabric then l.dev else d

/-- End the checked-out node without re-queue: nothing staged becomes visible, the launch is aborted, and condition 0x11 is
logged (R84, R120, R332, R235, R236). An auditor's re-run ends nothing (R332). -/
def State.abortNode (s : State) : State :=
  if s.grp.shadow ≠ 0 then s.differ else
  let ctx := s.lau.number
  let unit : ErrUnit := ⟨0, s.grp.core⟩
  let d := s.lau.logDev s.grp.dev
  let s1 := s.discardStaged.discardPhaseJobs.endGroup
  let st := if s1.lau.state = .dispatching ∨ s1.lau.state = .running then LaunchState.aborting else s1.lau.state
  State.report d s1.lau.pid 0x11 unit ctx { s1 with lau := { s1.lau with failed := true, state := st } }

/-! ## Commit (R120) -/

/-- A tile whose undo copy a committing group owned keeps none (R193). -/
def Tile.settle (t : Tile) (gid : Nat) : Tile :=
  match t.undo with
  | .some u => if u.gid = gid then { t with undo := .none } else t
  | .none => t

/-- Pairs released by `accf` become Free when the phase commits (Table 12.2). -/
def Core.freeReleased (c : Core) (gid : Nat) : Core :=
  let ps := c.pairs.map (fun p => if p.owner = gid ∧ p.released = true then { AccPair.free with holds := p.holds } else p)
  { c with pairs := ps, macros := c.macros.map (fun t => t.settle gid), rowbuf := c.rowbuf.settle gid }

/-- Commit the checked-out group's phase: every staged write becomes visible together, the undo and ticket logs are
discarded, and a part that executed `stepend` ends (R120, R144, R278). -/
def State.commit (s : State) : State :=
  let s1 := s.commitStaged
  let g := s1.grp
  let s2 : State :=
  { s1 with core := (s1.core.freeReleased g.gid).invalidate,
            grp := { g with savedPairs := g.savedPairs.filter (fun p => !p.2.released), savedTiles := g.savedTiles.map (fun t => (t.1, t.2.settle g.gid)),
                            undoScratch := [], undoBanks := [], foreignBytes := [], log := [], replay := [], tickets := [], ticketReplay := [],
                            phase := .committed, partEnded := if g.stepEnded then g.seq :: g.partEnded else g.partEnded, seq := if g.stepEnded then 0xFFFFFFFF else g.seq,
                            view := if g.stepEnded then 0xFFFFFFFF else g.view, stepEnded := false } }
  s2.changedSince s1.core

/-! ## Saving with a group (R28, R114, R123, R176, R189, R193) -/

/-- What is counted in cycles stops while the group is not resident: the cycles left, or waited so far, are kept (R114). -/
def Thread.suspend (t : Thread) (clk : Nat) : Thread :=
  let t1 := { t with spin := { t.spin with lowUntil := if t.spin.low then t.spin.lowUntil - clk else 0 }, markers := .none }
  match t.status with
  | .waiting (.yield pcs til) => { t1 with status := .waiting (.yield pcs (til - clk)) }
  | .waiting _ => { t1 with waited := t.waited + (clk - t.waitSince) }
  | _ => t1

/-- Tiles of a core that a group claims, by number: macros 0 to 7, the row buffer 8. -/
def Core.claimed (c : Core) (gid : Nat) : List (Nat × Tile) :=
  ((c.macros ++ [c.rowbuf]).zipIdx.filter (fun t => t.1.claim = gid)).map (fun t => (t.2, t.1))

/-- Put a tile of that number. -/
def Core.putTile (c : Core) (n : Nat) (t : Tile) : Core := if n < 8 then { c with macros := c.macros.set n t } else { c with rowbuf := t }

/-- Save with the checked-out group its tiles, sequencers and queued array commands and, where `all` holds, its pairs; they leave the
core. -/
def State.saveGroup (all : Bool) (s : State) : State :=
  let g := s.grp
  let gid := g.gid
  let c := s.core
  let tiles := c.claimed gid
  let seqrs := (c.seqrs.zipIdx.filter (fun q => q.1.gid = gid)).map (fun q => (q.2, q.1))
  let pairs := if all then (c.pairs.zipIdx.filter (fun p => p.1.owner = gid)).map (fun p => (p.2, p.1)) else []
  let cmds := c.jobs.filter (fun j => j.gid = gid && j.kind.array)
  let c1 := tiles.foldl (fun (c : Core) t => c.putTile t.1 { t.2 with claim := 0, undo := .none }) c
  let c2 := { c1 with seqrs := c.seqrs.map (fun q => if q.gid = gid then Sequencer.free else q),
                      pairs := c.pairs.zipIdx.map (fun p => if (lookup p.2 pairs).isSome then { AccPair.free with holds := p.1.holds } else p.1),
                      jobs := c.jobs.filter (fun j => !(cmds.any (fun k => k.id = j.id))),
                      accaQ := c.accaQ.filter (fun k => k.gid ≠ gid), forkQ := c.forkQ.filter (fun k => k.gid ≠ gid),
                      faultBuf := c.faultBuf.filter (fun b => b.t.gid ≠ gid) }
  let g1 := { g with savedTiles := g.savedTiles ++ tiles, savedSeqrs := g.savedSeqrs ++ seqrs, savedPairs := g.savedPairs ++ pairs,
                     savedJobs := g.savedJobs ++ cmds }
  ({ s with core := c2, grp := g1 } : State).changedSince c

/-- Once the checked-out group is Queued on its core: its tiles, sequencers and commands are saved with it, and everything it holds where
it may go to another core (R314, R336). -/
def State.settleQueued (s : State) : State :=
  if s.grp.gid = 0 ∨ s.grp.phase ≠ .queued then s else
  let moves := s.core.quarantined || s.part.pstat ≠ 0
  let s1 := s.saveGroup moves
  if moves then { s1 with grp := { s1.grp with placed := false } } else s1

/-- After commit: with no live thread the group ends; else the next phase begins, Running, or Queued where a pre-emption is
due at the boundary (Table 8.3, R117). -/
def State.nextPhase (s : State) : State :=
  let g := s.grp
  if (s.liveThreads g.gid).isEmpty then s.endGroup else
  let carry := s.lau.carrySet
  let s1 := s.mapThreads (fun t => if t.key.gid = g.gid then t.cutRegs carry else t)
  let ph := if g.preempt then PhaseState.queued else PhaseState.running
  let sl := if g.preempt then [] else g.slots
  let at_ := if g.preempt then s.now else g.queuedAt
  let s2 := State.beginPhase { s1 with
    grp := { s1.grp with phases := g.phases + 1, phase := ph, preempt := false, slots := sl, queuedAt := at_, level := s.lau.priority } }
  if g.preempt then s2.mapThreads (fun t => if t.key.gid = g.gid then t.suspend s.dev.clk else t) else s2

/-! ## Rollback (R120, R193, R332) -/


/-- A thread back at its record (R120): Ready at the record's PC, with no pending result, wait or region; `regs` are the registers that do not pass in
the carry set. Its spin lowering stands as the cycles left, until the group is resident again. -/
def Thread.restart (t : Thread) (r : ThreadRecord) (carry : List Nat) (regs : Vector Word 200) (clk : Nat) : Thread :=
  let t0 := { Thread.none with regs := regs, key := t.key, pc := r.pc, meet := r.meet, q := r.q, cc := r.cc, fp := r.fp, sli := r.sli, grant := r.grant, fenced := r.fenced,
                               status := .ready, readySince := clk, spin := r.spin }
  { t0 with regs := (carry.zip r.carry).foldl (fun v c => if h : c.1 < 200 then v.set c.1 c.2 else v) t0.regs }

/-- Restore scratchpad sectors, newest copy first (R120). -/
def restoreScratch (m : List (Nat × Byte)) : List (Nat × List Byte) → List (Nat × Byte)
  | [] => m
  | u :: us => restoreScratch (Mem.write m (64 * u.1) u.2) us

/-- A pair as its undo copy gives it. -/
def UndoBank.restored (u : UndoBank) (p : AccPair) : AccPair :=
  { p with owner := u.owner, released := false, working := ⟨u.wForm, u.wCells⟩, visible := ⟨u.vForm, u.vCells⟩, sat := u.sat, fault := Option.none }

/-- Restore the pairs of a core from a group's undo copies (R120, R193). -/
def restorePairs (ps : List AccPair) (us : List UndoBank) : List AccPair :=
  ps.zipIdx.map (fun p => match us.find? (fun u => u.pair = p.2) with
    | none => p.1
    | some u => u.restored p.1)

/-- What a group that is not on a core has saved, as its phase record and its undo copies give it (R120, R193): a pair it took within the
phase goes, one it released comes back; a tile it claimed within the phase goes. -/
def Group.undoSaved (g : Group) : Group :=
  let kept := g.savedPairs.filterMap (fun p => match g.undoBanks.find? (fun u => u.pair = p.1) with
    | .none => .some p
    | .some u => if u.owner = g.gid then .some (p.1, u.restored p.2) else .none)
  let tiles := (g.savedTiles.map (fun t => (t.1, t.2.restore g.gid))).filter (fun t => t.2.claim = g.gid)
  { g with savedPairs := kept, savedTiles := tiles, savedSeqrs := g.record.seqs, savedJobs := g.savedJobs.filter (fun j => j.phase ≠ g.phases) }

/-- Whether an epilogue store of a group still holds a pair of the checked-out core (R182). -/
def Core.storeHolds (c : Core) (gid : Nat) : Bool := c.pairs.any (fun p => p.holds.any (fun h => c.jobs.any (fun j => j.id = h && j.gid = gid)))

/-- A rolled-back group is Queued: at once, or, where a store of it still holds a pair, once none does (R125, R182). -/
def State.requeue (s : State) : State :=
  let g := s.grp
  if s.core.storeHolds g.gid then { s with grp := { g with phase := .rollingBack, slots := [] } }
  else State.settleQueued { s with grp := { g with phase := .queued, slots := [], queuedAt := s.now, level := s.lau.priority } }

/-- Roll the checked-out group back to the start of its phase and re-queue it, the attempt raised by one (R120): staged
writes are discarded, scratchpad, banks, tiles, pair holdings, guard slots, uniform registers and threads restored, the
phase's queued commands discarded, and the byte additions of other jobs added back (R172, R193). Every thread that has a record returns to
it, one that ended within the phase too (R118, R120; notes/assumptions/36.md). -/
def State.rollbackGroup (s : State) : State :=
  let s1 := (s.dropShadow s.grp.gid).discardStaged.discardPhaseJobs
  let g := s1.grp
  let r := g.record
  let carry := s1.lau.carrySet
  let clk := s1.dev.clk
  let core := s1.core
  let queues := { core with accaQ := core.accaQ.filter (fun k => k.gid ≠ g.gid), forkQ := core.forkQ.filter (fun k => k.gid ≠ g.gid),
                            comb := core.comb.filter (fun b => b.t.gid ≠ g.gid), faultBuf := core.faultBuf.filter (fun b => b.t.gid ≠ g.gid) }
  let held := { queues.restoreTiles g.gid with
                            pairs := restorePairs core.pairs g.undoBanks,
                            seqrs := core.seqrs.zipIdx.map (fun q => match lookup q.2 r.seqs with
                              | some x => if q.1.gid = 0 ∨ q.1.gid = g.gid then x else q.1
                              | none => if q.1.gid = g.gid then Sequencer.free else q.1) }
  let core1 := if g.placed then held else queues
  let back := fun (t : Thread) => match r.threads.find? (fun q => t.key.gid = g.gid && q.tid = t.key.tid) with
    | some q => t.restart q carry (if r.phase = 0 then s1.lau.entryRegs g.idx t.key.tid else Vector.replicate 200 0) clk
    | none => t
  let saved := if g.placed then g else g.undoSaved
  let g1 := { saved with scratch := restoreScratch g.scratch g.undoScratch, attrs := r.attrs, held := r.held, undoScratch := [], undoBanks := [],
                         k := r.k, guards := r.guards, pool := r.pool, replay := g.log ++ g.replay, log := [],
                         ticketReplay := g.tickets ++ g.ticketReplay, tickets := [], attempt := g.attempt + 1, phase := .rollingBack,
                         boundary := false, stepEnded := false, seq := r.bound.1, view := r.bound.2, claims := [], trapped := false, audit := [], jobBytes := [] }
  let s2 := ({ s1 with core := core1, grp := g1, issueQ := s1.issueQ.filter (fun q => q.1.gid ≠ g.gid),
                       tickets := s1.tickets.filter (fun t => t.t.gid ≠ g.gid) }).mapThreads back
  (g.foreignBytes.foldl (fun s b => s.syncApply (.scratch g.gid b.1) b.2 false s.lau.lid) s2).requeue

/-- The audit of group `gid` is dropped: AUDCNT counts it, and the phase goes on to commit (R336). -/
def State.dropAudit (gid : Nat) (s : State) : State :=
  let s1 := (s.dropShadow gid).updGroup gid (fun g => { g with phase := .closing, sampled := false, audit := [] })
  { s1 with part := { s1.part with audDrop := min (s1.part.audDrop + 1) 0xFFFF } }

/-- An uncorrectable error is consumed by the checked-out node (R331): condition `code` is logged, and the node rolls back,
unless its phase is early-committed (R120) or this is its fourth rollback (R332): then it ends without re-queue. One that only an auditor's
re-run consumes drops the sample (code 0x05). -/
def State.consumeError (code : Nat) (unit : ErrUnit) (s : State) : State :=
  if s.grp.shadow ≠ 0 then (s.report s.grp.dev s.lau.pid 0x05 ⟨0, s.grp.core⟩ s.lau.number).dropAudit s.grp.shadow else
  let s1 := s.report s.grp.dev s.lau.pid code unit s.lau.number
  if s.grp.early || decide (s.grp.attempt ≥ 3) then s1.abortNode else s1.rollbackGroup

/-! ## The end of a thread (R81) -/

/-- Whether a waiting cross-lane member whose guard is true names a lane in its mask. -/
def Thread.gathersLane (t : Thread) (lane : Nat) : Option Word :=
  match t.status with
  | .waiting (.gather _ mask _ live) => if live && mask.getLsbD lane then .some mask else .none
  | _ => .none

/-- A thread leaves the queues of its core, and its combining-buffer and fault-buffer entries go (R81, R123, R137, R205, R295). -/
def Core.dequeue (c : Core) (k : ThreadKey) : Core :=
  { c with comb := c.comb.filter (fun b => b.t ≠ k), faultBuf := c.faultBuf.filter (fun b => b.t ≠ k), accaQ := c.accaQ.filter (fun q => q ≠ k), forkQ := c.forkQ.filter (fun q => q ≠ k) }

/-- The stall count of a pack that waits in `regclaim` restarts at a change of its group's pool (R112, R122). -/
def State.poolChanged (gid : Nat) (s : State) : State :=
  s.mapThreads (fun t => match t.status with
    | .waiting (.regclaim _) => if t.key.gid = gid then { t with waitSince := s.dev.clk, waited := 0 } else t
    | _ => t)

/-- The checked-out thread ends as by `exit` (R81): it counts as arrived for every meeting (held status is derived), lowers
each barrier word's target, leaves XABSENT due in gathering members that name it, and returns its registers to the pool; with
the last thread the open phase closes. DESIGN CHOICE (notes/assumptions/36.md): the pool is in blocks of a whole pack, and when one lane's
registers return is not stated; here a pack's return together, when its last thread has exited. -/
def State.exitThread (s : State) : State :=
  let k := s.thr.key
  let pack := k.tid / 32
  let s1 := { s with thr := { s.thr with status := .exited, pend := [], reply := [], due := .none, region := .none, jobTrap := .none },
                     core := s.core.dequeue k }
  let s2 := s1.grp.barriers.foldl (fun s off => s.lowerTarget k.gid off s.lau.lid (s.liveThreads k.gid).isEmpty) s1
  let s3 := s2.mapThreads (fun t => if t.key.gid = k.gid ∧ t.key.tid / 32 = pack then
    match t.gathersLane (k.tid % 32) with
    | some mask => if t.due.isNone then { t with due := .some (6, mask) } else t
    | none => t
    else t)
  let s4 := if (s3.packThreads k.gid pack).all (fun t => t.status = .exited) then
      State.poolChanged k.gid { s3 with grp := { s3.grp with pool := s3.grp.pool + s3.thr.grant / 8 } } else s3
  if (s4.liveThreads k.gid).isEmpty then { s4 with grp := { s4.grp with phase := .closing, closedAt := s4.now } } else s4

end Sys2Proof.Machine
end

