-- ==== Sys2Proof/Machine/AtomicOp.lean ====
section
/-!
DEFINITION. Atomic operations and the memory operations that perform away from their thread: at a home slice or on another
device (11 R165, R166; 09 R136; 20 R291, R292).
-/
namespace Sys2Proof.Machine
open Sys2Proof Bits

/-- New value of an atomic of Table 11.5, and the flags of `fadd`: `op` the c code, `t` the type code, `cmp` the compare value of `cas`. -/
def atomicNew (op t old b cmp : Nat) : Nat × BitVec 5 :=
  let w := (intType t).2
  let less := fun x y => if t % 2 = 1 then decide (sint w x < sint w y) else decide (x < y)
  match op with
  | 0 => ((old + b) % 2 ^ w, 0)
  | 1 => ((old + 2 ^ w - b) % 2 ^ w, 0)
  | 2 => (old &&& b, 0)
  | 3 => (old ||| b, 0)
  | 4 => (old ^^^ b, 0)
  | 5 => (if less b old then b else old, 0)
  | 6 => (if less old b then b else old, 0)
  | 7 => (b, 0)
  | 8 => (if old = cmp then b else old, 0)
  | 9 => (if old ≥ b then 0 else old + 1, 0)
  | 10 => (if old = 0 ∨ b < old then b else old - 1, 0)
  | _ => farith2 (FVal.add .ne) 7 2 .ne old b

/-- Bytes an atomic of a type code works on. -/
def atomicSize (t : Nat) : Nat := if t = 3 ∨ t = 4 then 8 else 4

/-- Put the value an operation under way returned into its entry of the published-write log (R146). -/
def fillLog (serial : Nat) (ret : List Word) (log : List PubEntry) : List PubEntry :=
  log.map (fun e => if e.serial = serial then { e with ret := ret, serial := 0 } else e)

/-- A result returns to a thread's pending entry; with no entry the flags are raised at once (R165). -/
def Thread.returned (t : Thread) (serial : Nat) (vals : List Word) (fp : BitVec 5) : Thread :=
  if t.pend.any (fun p => p.serial = serial) then
    { t with pend := t.pend.map (fun p => if p.serial = serial then { p with vals := vals, fp := fp } else p) }
  else t.orFp fp

/-! ## The class of a page at another device (R291) -/

/-- Leaf entries reachable from a table with `n` levels left. -/
def leavesFrom (mem : List Host.Cell) (dev : Nat) : Nat → Nat → List Nat
  | 0, _ => []
  | n + 1, tbl =>
    (List.range (if n = 0 then 32 else if n = 4 then 256 else 512)).flatMap (fun i =>
      let e := Mem.nat mem (keyOf dev (tbl + 16 * i)) 16
      if !Pte.valid e then []
      else if bit e 8 then leavesFrom mem dev n (field e 51 9 * 2 ^ 9)
      else if Pte.badAt n e then [] else [e])

/-- Leaf entries of a device's own tables that map the page of a key. -/
def State.leavesAt (s : State) (dev pid key : Nat) : List Nat :=
  let p := s.part? dev pid
  if !bit p.ptroot.toNat 0 then [] else
  let pa := key % 2 ^ 52
  (leavesFrom s.mem dev 5 (field p.ptroot.toNat 51 12 * 2 ^ 12)).filter
    (fun e => !Pte.host e && decide (Pte.frame e * 2 ^ 16 ≤ pa) && decide (pa < Pte.frame e * 2 ^ 16 + 2 ^ Pte.shift e))

/-- Whether the destination's own tables give the page of a key to a class other than 0 alone (R291; notes/assumptions/14.md). -/
def State.refusedAt (s : State) (dev pid key : Nat) : Bool :=
  let hits := s.leavesAt dev pid key
  !hits.isEmpty && hits.all (fun e => Pte.cls e ≠ 0)

/-- Whether they map it without write permission alone (R296). -/
def State.readOnlyAt (s : State) (dev pid key : Nat) : Bool :=
  let hits := s.leavesAt dev pid key
  !hits.isEmpty && hits.all (fun e => !Pte.write e)

/-! ## The decoding load (R131) -/

/-- Whether a page format is INT4. -/
def fmtInt4 (fmt : Nat) : Bool := 4 ≤ fmt && fmt ≤ 6
/-- The element of a byte. -/
def elementOf (fmt byte nib : Nat) : Int := if fmtInt4 fmt then sint 4 (byte / 16 ^ nib) else sint 8 byte
/-- What a decoding load delivers of its two words, the element and the scale word, and the flags (R159). -/
def decoded (nbv : Nat) (ret : List Word) : Nat × BitVec 5 := dequantT nbv (ret.getD 1 0).toNat (sint 32 (ret.getD 0 0).toNat)

/-! ## Performing -/

/-- How an access ends at its home. -/
inductive Performed where
  | done
  /-- it meets an uncorrectable error and writes nothing (R136, R291, R292) -/
  | error
  /-- it is refused with a trap and has performed nothing (R147, R248) -/
  | refused (cause : Nat) (detail : Word)
  deriving DecidableEq, Repr

/-- The source's device and core of an access. -/
def Access.home (a : Access) : Nat × Nat := (a.src / 192, a.src % 192)

/-- Partition of the launch an access belongs to. -/
def State.accessPid (s : State) (a : Access) : Nat := ((s.launch? a.lid).map Launch.pid).getD 0

/-- The core of an access acquires as the access completes (R141). -/
def State.acquired (a : Access) (s : State) : State := if a.acq then s.updCore a.home.1 a.home.2 Core.invalidate else s

/-- An access has performed with the words it returns: its thread's pending entry and its log entry receive them (R146, R165). -/
def State.answer (a : Access) (ret vals : List Word) (fp : BitVec 5) (s : State) : State :=
  (s.updThread a.t (fun t => t.returned a.serial vals fp)).updGroup a.t.gid (fun g => { g with log := fillLog a.serial ret g.log })

/-- A thread that waits for the answer of an access goes on. -/
def State.answered (a : Access) (s : State) : State :=
  s.updThread a.t (fun t => if t.status = .waiting (.remote a.serial) then t.wake (s.dev? a.home.1).clk else t)

/-- Race check of a plain access of another device at its destination, with its sender's tags (R147). -/
def State.raceRemote (a : Access) (s : State) : Except (Nat × Nat) State :=
  let write := match a.kind with | .store _ _ => true | _ => false
  if !a.plain || !a.remote || a.ltag = 0 then .ok s else
  match stampStep (s.stamp (a.key / 64)) a.tag a.ltag a.gen write with
  | .error e => .error e
  | .ok st => .ok { s with stamps := Bits.insert (a.key / 64) st s.stamps, stampOwner := Bits.insert (a.key / 64) (a.home.1, s.accessPid a) s.stampOwner }

/-- Bytes of a group that a write of one of its threads performs at their home are no longer staged (R142 to R144). -/
def State.unstageOf (gid key n : Nat) (s : State) : State :=
  s.updGroup gid (fun g => { g with staged := g.staged.filter (fun p => !(decide (key ≤ p.1) && decide (p.1 < key + n))) })

/-- Staged bytes of a group in a range perform before an atomic of one of its threads does (R143, R144). -/
def State.landOf (gid key n : Nat) (s : State) : State :=
  let cells := (((s.group? gid).map Group.staged).getD []).filter (fun p => decide (key ≤ p.1) && decide (p.1 < key + n))
  (s.performCells cells).unstageOf gid key n

/-- Bytes that an access reads at its home: its group's staged bytes over them, and those its region holds (R144, R295). -/
def State.accessBytes (a : Access) (n : Nat) (s : State) : List Byte :=
  let bs := s.groupBytes a.t.gid a.key n
  match (s.core? a.home.1 a.home.2).comb.find? (fun b => b.t = a.t && b.sector = a.key / 64) with
  | some b => bs.zipIdx.map (fun p => (lookup (a.key % 64 + p.2) b.bytes).getD p.1)
  | none => bs

/-- An operation on a sync word or root cell of another device performs there (R168, R169, R171, R248): the word's completions advance no
race-domain generation, and a wait is registered and acknowledged at once (R291). -/
def State.performSync (a : Access) (act : SyncAct) (s : State) : State × Performed :=
  let loc := SyncLoc.mem a.key
  match act with
  | .init bt tt attr =>
    if s.poisoned a.key 16 then (s, .error) else
    ((s.initSync loc bt tt attr).answer a [0] [] 0, .done)
  | .arrive bytes thread =>
    if s.poisoned a.key 16 then (s, .error) else ((s.syncApply loc bytes thread 0).answer a [0] [] 0, .done)
  | .await gen =>
    if s.poisoned a.key 16 then (s, .error) else
    let w := s.syncWord loc
    if passed (BitVec.ofNat 32 w.gen) gen then ((s.updCore a.home.1 a.home.2 Core.invalidate).answered a, .done)
    else (s.updThread a.t (fun t =>
      if t.status = .waiting (.remote a.serial) then { t with status := .waiting (.sync loc gen), seen := w.counts } else t), .done)
  | .poll gen =>
    if s.poisoned a.key 16 then (s, .error) else
    let g := BitVec.ofNat 32 (s.syncWord loc).gen
    ((if passed g gen then s.updCore a.home.1 a.home.2 Core.invalidate else s).answer a [g] [g] 0, .done)
  | .swap expected new =>
    if s.poisoned a.key 8 then (s, .error) else
    let pid := s.accessPid a
    if new ≠ 0 ∧ ((s.part? a.home.1 pid).line new).isNone = true then
      (s, .refused causeProt (BitVec.ofNat 32 (0xC * 2 ^ 28 + new.toNat % 2 ^ 24)))
    else
      let old := BitVec.ofNat 64 (Mem.nat s.mem a.key 8)
      let s1 := if old = expected then
          (s.perform a.key (toBytes 8 new.toNat)).updPart a.home.1 pid (fun p => (p.incr new).decr expected) else s
      let back := fun (t : Thread) =>
        if t.status = .waiting (.remote a.serial) then
          { t with status := .waiting .reply, reply := (t.reply.zip (words 2 old.toNat)).map (fun p => (p.1.1, p.2)) } else t
      (((s1.answer a (words 2 old.toNat) [] 0).updThread a.t back).acquired a, .done)

/-- A store, whose acknowledgement a release waits for. -/
def AccessKind.isStore : AccessKind → Bool
  | .store _ _ => true
  | _ => false

/-- Perform an atomic, a load or a store that was under way, at its home (R136, R144, R291, R292): a plain access from another device is
race-checked first (R147), and a read of a promoted block from there checks its tag (R337; notes/assumptions/32.md). -/
def State.performAccess (a : Access) (s : State) : State × Performed :=
  let s0 := { s with inflight := s.inflight.filter (fun b => b.serial ≠ a.serial) }
  match s0.raceRemote a with
  | .error (tag, kind) => (s0, .refused causeRace (raceDetail tag kind a.va))
  | .ok s1 =>
    if a.remote && !a.kind.isStore && s0.tagBad a.key then (s0.checkedTag a.key false, .error) else
    match a.kind with
    | .atomic op t b cmp =>
      let n := atomicSize t
      if s0.poisoned a.key n then (s0, .error) else
      let old := ofBytes (s1.groupBytes a.t.gid a.key n)
      let (new, fl) := atomicNew op t old b cmp
      let ret := words (n / 4) old
      ((((s1.perform a.key (toBytes n new)).unstageOf a.t.gid a.key n).answer a ret ret fl).acquired a, .done)
    | .load size sx =>
      if s0.poisoned a.key size then (s0, .error) else
      let v := ofBytes (s1.accessBytes a size)
      let ret := words ((size + 3) / 4) (if sx then wrapInt 32 (sint (8 * size) v) else v)
      ((s1.answer a ret ret 0).answered a, .done)
    | .store size value =>
      if s0.poisoned a.key size then (s0, .error) else ((s1.perform a.key (toBytes size value)).answer a [0] [] 0, .done)
    | .sync act => s1.performSync a act
    | .decode scale first nib fmt =>
      let n := if scale then 4 else 1
      if s0.poisoned a.key n then (s0, .error) else
      let v := ofBytes (s1.groupBytes a.t.gid a.key n)
      let ret : List Word := if scale then [BitVec.ofNat 32 first, BitVec.ofNat 32 v] else [BitVec.ofNat 32 (wrapInt 32 (elementOf fmt v nib)), BitVec.ofNat 32 first]
      let (w, fl) := decoded (((s1.launch? a.lid).map Launch.nbv).getD 0) ret
      (s1.answer a ret (words 1 w) fl, .done)

/-- Home stack and slice of a physical address (R135). -/
def homeSlice (pa : Nat) : Nat × Nat :=
  let g := pa / 512
  let s := (List.range 8).foldl (fun x j => x ^^^ field g (6 * j + 5) (6 * j)) 0
  (s / 8, s % 8)

/-- An atomic. -/
def AccessKind.isAtomic : AccessKind → Bool
  | .atomic _ _ _ _ => true
  | _ => false

/-- Whether `b`, issued before `a` by the same thread, must perform first: one sector on one path to another device (R290), a
load or store of one sector (R142), or two `.o` atomics of one home slice (R136). -/
def Access.before (b a : Access) : Bool :=
  b.t = a.t && (
    (b.key / 64 = a.key / 64 && (a.remote || !b.kind.isAtomic || !a.kind.isAtomic))
    || (a.ordered && b.ordered && a.dst = b.dst && homeSlice (a.key % 2 ^ 52) = homeSlice (b.key % 2 ^ 52)))

/-- Whether `a` may perform now: nothing of its thread must perform first, and its sector is not locked (R296). -/
def State.mayPerform (s : State) (a : Access) : Bool :=
  !((s.inflight.takeWhile (fun b => b.serial ≠ a.serial)).any (fun b => b.before a)) && (s.locks.all (fun l => l.1 ≠ a.key / 64))

/-- Perform everything under way of the threads that satisfy `mine`, oldest first; `true` where an error was met. What is refused has
performed nothing. -/
def performAll (mine : Access → Bool) : Nat → State → State × Bool
  | 0, s => (s, false)
  | n + 1, s =>
    match s.inflight.find? mine with
    | none => (s, false)
    | some a =>
      let (s1, r) := s.performAccess a
      let s2 := if a.va % 64 = 0 ∧ !a.remote ∧ a.kind.isAtomic then s1.mailboxWrite a.va else s1
      let (s3, bad3) := performAll mine n s2
      (s3, r = .error || bad3)

/-- Everything under way of the checked-out thread performs (R84). -/
def State.performOwn (s : State) : State × Bool := performAll (fun a => a.t = s.thr.key) s.inflight.length s

/-! ## Remote regions (R296) -/

/-- Stamps of the sectors that plain stores of a region write at a destination (R147). -/
def State.stampRegion (k : ThreadKey) (dst : Nat) (s : State) : State :=
  if s.lau.race = 15 then s else
  (s.core.comb.filter (fun b => b.t = k && b.dev = dst && b.plain)).foldl (fun (s : State) b =>
    match stampStep (s.stamp b.sector) s.grp.idx (s.lau.tag s.grp.dev) (s.lau.gen s.grp.dev) true with
    | .ok st => { s with stamps := Bits.insert b.sector st s.stamps, stampOwner := Bits.insert b.sector (s.grp.dev, s.lau.pid) s.stampOwner }
    | .error _ => s) s

/-- Destination `dst` performs a thread's held sectors as one unit and unlocks them (R296). -/
def State.commitDest (k : ThreadKey) (dst : Nat) (s : State) : State :=
  let mine := fun (b : CombEntry) => b.t = k && b.dev = dst
  let cells := (s.core.comb.filter mine).flatMap (fun b => b.bytes.map (fun p => (64 * b.sector + p.1, p.2)))
  let s1 := ((s.stampRegion k dst).performCells cells).clearPoison cells
  { s1 with core := { s1.core with comb := s1.core.comb.filter (fun b => !mine b) },
            locks := s1.locks.filter (fun l => !(l.2 = k && devOf (64 * l.1) = dst)) }

/-- Operation code of `fcommit` in the published-write log. -/
def fcommitOp : Nat := 0xBA * 2 ^ 20

/-- Log a published operation that has completed away from its issue: the 257th of a phase commits it early (R146). -/
def State.logDone (tid op addr : Nat) (operand ret : List Word) (s : State) : State :=
  let s1 := if s.grp.log.length ≥ 256 then s.commitNow else s
  { s1 with grp := { s1.grp with log := s1.grp.log ++ [⟨tid, op, addr, operand, ret, 0⟩] } }

/-- The regions of the checked-out group's threads before it rolls back or ends: a commit that has been sent is not
withdrawn, and every other one unlocks (R296). -/
def State.settleRegions (s : State) : State :=
  (s.groupThreads s.grp.gid).foldl (fun s t =>
    match t.region with
    | some r =>
      let s1 := if r.sent then (r.acks.foldl (fun s d => s.commitDest t.key d) s).logDone t.key.tid fcommitOp 0 [] [0] else s
      { s1 with locks := s1.locks.filter (fun l => l.2 ≠ t.key) }
    | none => s) s

/-- Everything under way of the checked-out group performs before it rolls back: what was sent is not sent again (R146). -/
def State.performGroup (s : State) : State :=
  (performAll (fun a => a.t.gid = s.grp.gid) s.inflight.length s).1.settleRegions

end Sys2Proof.Machine
end

