-- ==== Sys2Proof/Machine/Flags.lean ====
section
/-!
DEFINITION. Condition codes: how they are computed and tested (05 R70, R71). Bit 0 is C, bit 1 Z, bit 2 N, bit 3 V.
-/
namespace Sys2Proof.Machine
open Sys2Proof Bits

/-- C, Z, N, V as a value. -/
def packCC (c z n v : Bool) : BitVec 4 := BitVec.ofBool v ++ BitVec.ofBool n ++ BitVec.ofBool z ++ BitVec.ofBool c

/-- The top bit of a `w`-bit value. -/
def topBit (w v : Nat) : Bool := bit v (w - 1)

/-- Condition codes of an addition with carry in (R70). -/
def ccAdd (w a b cin : Nat) : BitVec 4 :=
  let r := (a + b + cin) % 2 ^ w
  packCC (2 ^ w ≤ a + b + cin) (r = 0) (topBit w r) (topBit w a == topBit w b && topBit w r != topBit w a)

/-- The result of a subtraction with borrow in (R70). -/
def subVal (w a b bin : Nat) : Nat := (a + 2 ^ (w + 1) - b - bin) % 2 ^ w

/-- Condition codes of a subtraction with borrow in (R70). -/
def ccSub (w a b bin : Nat) : BitVec 4 :=
  let r := subVal w a b bin
  packCC (a < b + bin) (r = 0) (topBit w r) (topBit w a != topBit w b && topBit w r != topBit w a)

/-- Condition codes of a logic operation (R70). -/
def ccLogic (w r : Nat) : BitVec 4 := packCC false (r = 0) (topBit w r) false

/-- Conditions of Table 5.2. -/
def condHolds (cc : BitVec 4) (m : Nat) : Bool :=
  let c := cc.getLsbD 0
  let z := cc.getLsbD 1
  let n := cc.getLsbD 2
  let v := cc.getLsbD 3
  match m with
  | 0 => z | 1 => !z | 2 => c | 3 => !c | 4 => n | 5 => !n | 6 => v | 7 => !v
  | 8 => !c && !z | 9 => c || z | 10 => n != v | 11 => n == v | 12 => !z && n == v | _ => z || n != v

end Sys2Proof.Machine
end

