-- ==== Sys2Proof/Machine/Operands.lean ====
section
/-!
DEFINITION. Operand forms: what an instruction reads and how its result reaches its destination (01 R10 to R13; 02 R22 to
R24, R27; 05 R68; 06 R87; 11 R154, R155).
-/
namespace Sys2Proof.Machine
open Sys2Proof Bits Encoding

/-! ## Sources -/

/-- The literal of an X form standing for an operand of `n` registers: sign-extended to 64 bits for `.s` and `.d`, else
zero-extended (R24). -/
def litVal (e : Enc) (n : Nat) : Nat :=
  if 2 ≤ n ∧ (e.t = 1 ∨ e.t = 3) ∧ e.lit.msb = true then e.lit.toNat + (2 ^ 64 - 2 ^ 32) else e.lit.toNat

/-- The a operand of `n` registers. -/
def State.opA (s : State) (e : Enc) (n : Nat) : Nat := s.readN (code e e.a) n
/-- The b operand of `n` registers, or the literal that replaces it (R24). -/
def State.opB (s : State) (e : Enc) (n : Nat) : Nat := if e.form = .x then litVal e n else s.readN (code e e.b) n
/-- The c operand of `n` registers. -/
def State.opC (s : State) (e : Enc) (n : Nat) : Nat := s.readN (code e e.c) n
/-- The d field read as a source of `n` registers (stores, and the engine instructions). -/
def State.opD (s : State) (e : Enc) (n : Nat) : Nat := s.readN (code e e.d) n
/-- The operand of a one-source instruction: a, or the literal in an X form (R68). -/
def State.op1 (s : State) (e : Enc) (n : Nat) : Nat := if e.form = .x then litVal e n else s.readN (code e e.a) n

/-- Type of the operation: S forms are `.s` (Table 2.7). -/
def opT (e : Enc) : BitVec 4 := if e.form = .s then 1 else e.t
/-- Width in bits of an integer operation. -/
def opW (e : Enc) : Nat := 32 * tw (opT e)
/-- Whether the type is signed. -/
def opSigned (e : Enc) : Bool := opT e = 1 || opT e = 3
/-- The value of a `w`-bit operand as the type reads it. -/
def opInt (e : Enc) (v : Nat) : Int := if opSigned e then sint (opW e) v else (v : Int)

/-! ## Results -/

/-- Deliver an ALU-pipe result of `n` registers to d (R10, R11). DESIGN CHOICE (notes/assumptions/34.md): results that are not long-latency
shift the last-result file at issue and so in program order, also where Table 5.1 gives the later one the shorter latency. -/
def State.putD (e : Enc) (n v : Nat) (s : State) : State := { s with thr := s.thr.result true (code e e.d) (words n v) }
/-- Deliver a result that does not shift the last-result file (R10). -/
def State.putM (e : Enc) (n v : Nat) (s : State) : State := { s with thr := s.thr.result false (code e e.d) (words n v) }
/-- Write the condition codes when cc = 1 (R12). -/
def State.withCC (e : Enc) (v : BitVec 4) (s : State) : State := if e.cc then { s with thr := s.thr.putCC v } else s
/-- OR FPFLAGS (R13). -/
def State.orFp (f : BitVec 5) (s : State) : State := { s with thr := s.thr.orFp f }
/-- OR SLIFLAGS (R13). -/
def State.orSli (f : BitVec 7) (s : State) : State := { s with thr := s.thr.orSli f }

/-- Leave a long-latency result pending under a given number (R27): its window is LA; S forms are treated as LA = 0 (R22). -/
def State.laterAs (id : Nat) (e : Enc) (vals : List Word) (n : Nat) (fp : BitVec 5) (sli : BitVec 7) (alu acq canSli canFp : Bool) (s : State) : State :=
  let p : Pending := { serial := id, dst := code e e.d, vals := vals, width := n, win := e.la.toNat, arrived := false, fp := fp, sli := sli,
                       alu := alu, acq := acq, canSli := canSli, canFp := canFp }
  { s with thr := { s.thr with pend := s.thr.pend ++ [p] } }

/-- Leave a long-latency result pending under the next number. -/
def State.later (e : Enc) (vals : List Word) (n : Nat) (fp : BitVec 5) (sli : BitVec 7) (alu acq canSli canFp : Bool) (s : State) : State :=
  s.freshId.2.laterAs s.nextId e vals n fp sli alu acq canSli canFp

/-- A pending ALU-pipe result of `n` registers. -/
def State.laterD (e : Enc) (n v : Nat) (s : State) : State := s.later e (words n v) n 0 0 true false false false
/-- A pending result that may raise FPFLAGS. -/
def State.laterF (e : Enc) (n v : Nat) (f : BitVec 5) (s : State) : State := s.later e (words n v) n f 0 true false false true
/-- A pending result that may raise SLIFLAGS. -/
def State.laterS (e : Enc) (n v : Nat) (f : BitVec 5) (g : BitVec 7) (s : State) : State :=
  s.later e (words n v) n f g true false true (f ≠ 0 || e.op = 0x68)
/-- A pending load. -/
def State.laterM (e : Enc) (n v : Nat) (acq : Bool) (fp : BitVec 5) (s : State) : State :=
  s.later e (words n v) n fp 0 false acq false (e.op = 0x74)

/-- Give the reply of an interlocked instruction that answers in d: the thread is Waiting until INTERLOCKED_RESULT_ARRIVAL
(R27, R243, R276). -/
def State.replyD (e : Enc) (n v : Nat) (s : State) : State :=
  let c := code e e.d
  let regs := if c.toNat < 200 then (words n v).zipIdx.map (fun p => (c.toNat + p.2, p.1)) else []
  { s with thr := { s.thr with reply := regs, status := .waiting .reply, waitSince := s.dev.clk } }

/-! ## Pending results (R27, R28) -/

/-- Instructions that wait at issue until every pending result has arrived (R27, R163). -/
def drains (op : BitVec 8) : Bool :=
  let n := op.toNat
  n = 0x03 || n = 0x04 || n = 0x05 || n = 0x08 || n = 0x0B || n = 0x78 || n = 0x83 || n = 0x84 || n = 0x85

/-- Whether two register ranges meet; l0 meets itself alone, and zr and l1 meet nothing. -/
def regsMeet (c n d m : Nat) : Bool :=
  (decide (c < 200) && decide (d < 200) && decide (c < d + m) && decide (d < c + n)) || (c = 200 && d = 200)

/-- Write an arrived result and raise its flags (R27, R89). DESIGN CHOICE (notes/assumptions/34.md): until then a read inside the window after a
write inside it returns the value written, which R27's first bullet does not say. -/
def Thread.deliver (t : Thread) (p : Pending) : Thread := ((t.result p.alu p.dst p.vals).orFp p.fp).orSli p.sli

/-- Write every arrived result whose window is over, same-register results in program order (R27). -/
def Thread.flush (t : Thread) (kept : List Pending) : List Pending → Thread
  | [] => { t with pend := kept.reverse }
  | p :: ps =>
    if p.arrived && p.win = 0 && !(kept.any (fun q => regsMeet p.dst.toNat p.width q.dst.toNat q.width)) then Thread.flush (t.deliver p) kept ps
    else Thread.flush t (p :: kept) ps

/-- One more instruction of the thread has executed: every window open before it shrinks by one (R27). -/
def Thread.shrink (t : Thread) (before : Nat) : Thread :=
  let t1 := { t with pend := t.pend.map (fun p => if p.serial < before then { p with win := p.win - 1 } else p) }
  Thread.flush t1 [] t1.pend

/-- Whether an instruction ends the window of a pending result: one that drains ends every window, and an access to sr.fpflags or sr.sliflags
those of the results it waits for (R27, R66, R89; notes/assumptions/34.md). -/
def endsWindow (e : Enc) (p : Pending) : Bool :=
  drains e.op || ((e.op = 0xE0 || e.op = 0xE1) && ((e.m = 18 && p.canFp) || (e.m = 19 && p.canSli)))

/-- The windows that an instruction ends: what has arrived is written. -/
def Thread.endWindows (t : Thread) (e : Enc) : Thread :=
  let t1 := { t with pend := t.pend.map (fun p => if endsWindow e p then { p with win := 0 } else p) }
  Thread.flush t1 [] t1.pend

end Sys2Proof.Machine
end

