-- ==== Sys2Proof/Machine/SeqStore.lean ====
section
/-!
DEFINITION. Sequence contexts, their classes, views and steps, and what a lost member or block does to them (19 R261 to R265,
R269; 25 R330).
-/
namespace Sys2Proof.Machine
open Sys2Proof Bits

/-! ## Sequence classes (R262) -/

/-- Registers of a class; those after reset are zero. -/
def Part.seqClass (p : Part) (c : Nat) : SeqClass := (lookup c p.classes).getD ⟨0, 0, 0, 0, 0⟩
/-- Block size B in tokens. -/
def SeqClass.block (c : SeqClass) : Nat := 16 * 2 ^ field c.ctl.toNat 1 0
/-- Bytes E of a token's entry. -/
def SeqClass.bytes (c : SeqClass) : Nat := c.entry.toNat
/-- Content region of KV trees and token records. -/
def SeqClass.region (c : SeqClass) : Nat := field c.ctl.toNat 15 12
/-- Maximum width. -/
def SeqClass.maxWidth (c : SeqClass) : Nat := field c.ctl.toNat 10 8 + 1
/-- Whether class `c` is usable (R262). -/
def Part.classUsable (p : Part) (c : Nat) : Bool :=
  let k := p.seqClass c
  k.ctl.getLsbD 31 && decide (field k.ctl.toNat 1 0 ≤ 2) && k.bytes % 128 = 0 && decide (128 ≤ k.bytes) && decide (k.bytes ≤ 65536)
    && p.regionOn k.region

/-! ## Contexts (R261) -/

/-- Home device of a sequence id; none where bits 31:26 are not zero. -/
def seqHome (id : Word) : Option Nat := if id.toNat / 2 ^ 26 = 0 then some (field id.toNat 25 16) else none

/-- The live context of an id, of a partition. -/
def State.seqCtx (s : State) (pid : Nat) (id : Word) : Option SeqCtx :=
  match seqHome id with
  | none => none
  | some d => (s.dev? d).seqs.find? (fun q => q.id = id && q.pid = pid)

/-- Update one context. -/
def State.updSeq (id : Word) (f : SeqCtx → SeqCtx) (s : State) : State :=
  match seqHome id with
  | none => s
  | some d => s.updDev d (fun v => { v with seqs := v.seqs.map (fun q => if q.id = id then f q else q) })

/-- Class of a context, at its home. -/
def State.seqCls (s : State) (q : SeqCtx) : SeqClass := (s.part? (field q.id.toNat 25 16) q.pid).seqClass q.cls

/-- A view of a context. -/
def SeqCtx.view? (q : SeqCtx) (n : Word) : Option View := q.views.find? (fun v => v.num = n)
/-- Update one view. -/
def SeqCtx.updView (q : SeqCtx) (n : Word) (f : View → View) : SeqCtx :=
  { q with views := q.views.map (fun v => if v.num = n then f v else v) }
/-- The current view (or the one that was current and has failed). -/
def SeqCtx.cur (q : SeqCtx) : Option View := q.view? q.view
/-- The successor. -/
def SeqCtx.next (q : SeqCtx) : Option View := if q.succ = 0 then none else q.view? q.succ
/-- The step of a launch. -/
def SeqCtx.step? (q : SeqCtx) (lid : Nat) : Option Step := q.steps.find? (fun t => t.lid = lid)
/-- Update the step of a launch. -/
def SeqCtx.updStep (q : SeqCtx) (lid : Nat) (f : Step → Step) : SeqCtx :=
  { q with steps := q.steps.map (fun t => if t.lid = lid then f t else t) }
/-- Steps open on a view. -/
def SeqCtx.openOn (q : SeqCtx) (n : Word) : Nat := (q.steps.filter (fun t => t.view = n)).length
/-- Pending commits of open steps that have not failed (R266, R283). -/
def SeqCtx.pending (q : SeqCtx) : Nat := q.steps.foldl (fun n t => if t.failed then n else n + t.commits.length) 0
/-- LENT := LENC + the pending commits of open steps (R266, R269, R283). -/
def SeqCtx.resetLent (q : SeqCtx) : SeqCtx := { q with lent := q.lenc + q.pending }

/-- Owner of a block: member `b mod W` (R263). -/
def View.owner (v : View) (blk : Nat) : Nat := v.members.getD (blk % v.members.length) 0
/-- Entry of a block in its owner's slice. -/
def View.entry? (v : View) (blk : Nat) : Option SliceEntry :=
  (v.slices.getD (blk % v.members.length) []).find? (fun e => e.blk = blk)
/-- Record an entry in its owner's slice, in place of an earlier one. -/
def View.putEntry (v : View) (e : SliceEntry) : View :=
  { v with slices := v.slices.modify (e.blk % v.members.length) (fun l => l.filter (fun x => x.blk ≠ e.blk) ++ [e]) }
/-- Whether a view is live: neither Failed, Retired nor Abandoned. -/
def View.live (v : View) : Bool := v.state = .pending || v.state = .transferring || v.state = .current || v.state = .draining
/-- The entries a member of a view holds, with the device. -/
def View.holdings (v : View) : List (Nat × SliceEntry) := (v.members.zip v.slices).flatMap (fun p => p.2.map (fun e => (p.1, e)))

/-- The next view number of a context. -/
def SeqCtx.nextNum (q : SeqCtx) : Word := ((q.views.head?.map View.num).getD 0) + 1

/-- Form a view as Pending: prepare has been sent to every member (R264). -/
def SeqCtx.form (q : SeqCtx) (members : List Nat) (survivor : Bool) (lost : List Nat) (now : Nat) : SeqCtx :=
  let v : View := { num := q.nextNum, members := members, state := .pending, pred := q.view, acks := [], sentAt := now, snapshot := 0,
                    transferred := false, caughtUp := false, slices := List.replicate members.length [], lost := lost, run := none,
                    survivor := survivor }
  { q with views := v :: q.views, succ := v.num, policyDue := false }

/-- Members of a view of another width formed from members `ms` (R263): those kept, then new ones in fabric-list order. -/
def widthMembers (ms : List Nat) (fabric : List Nat) (w : Nat) : List Nat :=
  let kept := ms.take w
  kept ++ ((fabric.filter (fun d => !(kept.contains d))).dedup.take (w - kept.length))

/-- Devices of a partition's fabric list, in list order. -/
def Part.fabricList (p : Part) : List Nat := (List.range 1024).filterMap p.fabricDev

/-! ## Tail memory (R274) -/

/-- Place of a byte of a tail block in the flat memory: it has no virtual address (R281). -/
def tailKey (dev : Nat) (seq : Word) (blk byte : Nat) : Nat := 2 ^ 80 + ((dev * 2 ^ 26 + seq.toNat) * 2 ^ 20 + blk) * 2 ^ 22 + byte
/-- Sequence of a tail key, where it is one. -/
def tailSeq (k : Nat) : Option Nat := if 2 ^ 80 ≤ k then some ((k - 2 ^ 80) / 2 ^ 42 % 2 ^ 26) else none

/-! ## Failure (R269) -/

/-- Every live view fails, with the steps bound to it: their pending commits are discarded (R269). -/
def SeqCtx.fail (q : SeqCtx) : SeqCtx :=
  let vs := q.views.map (fun v => if v.live then { v with state := .failed, run := none } else v)
  let dead := fun (t : Step) => vs.any (fun v => v.num = t.view && v.state = .failed)
  { q with views := vs, steps := q.steps.map (fun t => if dead t then { t with failed := true, commits := [] } else t),
           succ := 0, policyDue := false }.resetLent

/-- The live views of a sequence fail, and a survivor view is formed of the members that `gone` leaves: those of the failed
successor if one existed, else of the failed current view, in the same order; `lost` are blocks already known to be lost. With no
member left the sequence has no view and condition 0x15 is logged (R269, R330). Failed gang launches wait for their re-run (R271). -/
def State.failSeq (id : Word) (gone : Nat → Bool) (lost : List Nat) (s : State) : State :=
  match seqHome id with
  | none => s
  | some d =>
    match (s.dev? d).seqs.find? (fun q => q.id = id) with
    | none => s
    | some q =>
      let base := ((match q.next with | some v => if v.live then some v else q.cur | none => q.cur).map View.members).getD []
      let members := base.filter (fun m => !gone m)
      let wasLost := q.views.flatMap (fun v => if v.live then v.lost else [])
      let q1 := q.fail
      let again := (q1.steps.filter (fun t => t.failed && ((s.launch? t.lid).map Launch.gang).getD false)).map Step.lid
      let q2 := { q1 with reruns := (q1.reruns ++ again).dedup }
      if members.isEmpty then (s.updSeq id (fun _ => q2)).report d q.pid 0x15 ⟨4, 0⟩ id
      else s.updSeq id (fun _ => q2.form members true (lost ++ wasLost).dedup s.now)

/-- A block that reads as poisoned is treated as lost: condition 0x15, and a view with the same members is formed (R330). -/
def State.poisonedBlock (id : Word) (blk : Nat) (s : State) : State :=
  (s.failSeq id (fun _ => false) [blk]).report s.part.dev s.part.pid 0x15 ⟨4, 0⟩ id

/-- A step fails alone (R275): its pending commits are discarded and its view stays as it is. -/
def State.failStep (id : Word) (lid : Nat) : State → State :=
  State.updSeq id (fun q => (q.updStep lid (fun t => { t with failed := true, commits := [] })).resetLent)

end Sys2Proof.Machine
end

