-- ==== Sys2Proof/Machine/Ops.lean ====
section
/-!
DEFINITION. What an instruction does when it does not complete: taking a trap and resuming from one (05 R83 to R86; 07
R113), parking on a page (09 R137; 21 R312), waiting, and consuming an error (25 R331).
-/
namespace Sys2Proof.Machine
open Sys2Proof Bits Encoding

/-! ## Taking a trap (R84) -/

/-- Where the trap record of the checked-out thread goes: virtual address and translation; none where the write would fault. -/
def State.trapPlace (s : State) : Option (Nat × Xlat) :=
  let area := s.lau.trapArea
  let va := area + 64 * (s.grp.idx * 1024 + s.thr.key.tid)
  if area = 0 ∨ 2 ^ 56 ≤ va then none else
  match s.translate va with
  | .ok x => if x.cls = 5 ∧ Pte.write x.entry = true then some (va, x) else none
  | _ => none

/-- The trap record (Table 5.10). -/
def trapRecord (cause attempt : Nat) (detail arg : Word) (pc meet : CodeAddr) (ws : List Word) (tid : Nat) : List Byte :=
  SyncWord.bytes { bt := 0, bc := 0, tc := 0, tt := 1, gen := 0 } ++ toBytes 4 0xFFFFFFFF ++ toBytes 4 (min attempt 255 * 256 + cause)
    ++ toBytes 4 detail.toNat ++ toBytes 4 arg.toNat ++ toBytes 8 pc.toNat ++ toBytes 8 meet.toNat
    ++ toBytes 4 (ws.getD 0 0).toNat ++ toBytes 4 (ws.getD 1 0).toNat ++ toBytes 4 (ws.getD 2 0).toNat ++ toBytes 4 tid

/-- The unit that names a core. -/
def State.coreUnit (s : State) : ErrUnit := ⟨0, s.grp.core⟩

/-- An uncorrectable error is consumed by the checked-out group's node; what it has sent performs first (R331, R146). -/
def State.consume (code : Nat) (s : State) : State := (s.performGroup).consumeError code s.coreUnit

/-- The pack of the checked-out thread. -/
def State.packKey (s : State) : Nat × Nat := (s.thr.key.gid, s.thr.key.tid / 32)

/-- A trap of the checked-out thread's pack has been delivered in this cycle (R113). -/
def State.trapTaken (s : State) : Bool := s.cycTrap.contains s.packKey

/-- TAKE A TRAP (R84, R86, R113): the checked-out thread's earlier accesses perform, its record is written as a mailbox
write, it enters the trapped state at the trapping instruction, and the phase leaves audit sampling; `ws` are the
instruction's words. Without a place for the record the node is aborted. An auditor's re-run that would trap takes none: it counts as a
mismatch. -/
def State.takeTrap (cause : Nat) (detail arg : Word) (ws : List Word) (s : State) : State :=
  if s.grp.shadow ≠ 0 then s.differ else
  let (s1, bad) := s.performOwn
  if bad then s1.consume 0x10 else
  match s1.trapPlace with
  | none => { s1.abortNode with cycTrap := s1.packKey :: s1.cycTrap }
  | some (va, x) =>
    let key := x.key
    let bs := trapRecord cause s1.grp.attempt detail arg s1.thr.pc s1.thr.meet ws s1.thr.key.tid
    let s2 := ((s1.touch va true x).perform key bs).clearPoison (bs.zipIdx.map (fun b => (key + b.2, b.1)))
    let next := s2.thr.pc + BitVec.ofNat 48 (4 * max 1 ws.length)
    let core := { s2.core with accaQ := s2.core.accaQ.filter (fun q => q ≠ s2.thr.key), forkQ := s2.core.forkQ.filter (fun q => q ≠ s2.thr.key) }
    let s3 := { s2 with core := core, thr := { s2.thr with status := .trapped cause key, npc := next, due := none },
                        grp := { s2.grp with trapped := true, sampled := false }, cycTrap := s2.packKey :: s2.cycTrap }
    s3.mailboxWrite va

/-- The checked-out thread has issued an instruction that traps or parks: its age ends and its progress is noted (R105, R108). -/
def State.issuedOne (s : State) : State :=
  { s with thr := { s.thr with aged := false, readySince := s.dev.clk, progress := if s.thr.spin.low then s.thr.progress else s.dev.clk } }

/-- Deliver a trap of an instruction that issues, at most one for a pack in a cycle: with one already delivered the thread performs nothing and
stays as it is (R113). -/
def State.deliverTrap (cause : Nat) (detail arg : Word) (ws : List Word) (s : State) : State :=
  if s.trapTaken then s else s.issuedOne.takeTrap cause detail arg ws

/-! ## Returning from a trap (R85) -/

/-- Whether the resume word of the checked-out trapped thread has passed generation 1. -/
def State.trapReleased (s : State) : Bool :=
  match s.thr.status with
  | .trapped _ key => passed (BitVec.ofNat 32 (s.syncWord (.mem key)).gen) 1
  | _ => false

/-- RETURN FROM A TRAP (R85): the wait on the resume word ends as `swait` does; disposition 0 goes on after TRAP and BRK and
executes the instruction again after any other cause, 1 goes on at the next instruction, every other value ends the thread. -/
def State.resumeTrap (s : State) : State :=
  match s.thr.status with
  | .trapped cause key =>
    let disp := Mem.nat s.mem (key + 16) 4
    let s1 := { s with core := s.core.invalidate }
    if disp = 0 then
      (if cause = 2 ∨ cause = 3 then { s1 with thr := (s1.thr.wake s1.dev.clk).shrink s1.nextId }
       else { s1 with thr := s1.thr.retry s1.dev.clk })
    else if disp = 1 then { s1 with thr := s1.thr.wake s1.dev.clk }
    else s1.exitThread
  | _ => s

/-! ## Parking (R137, R312) -/

/-- Where a partition's structure at virtual address `va` lies, through its tables. -/
def State.partKey (s : State) (va : Nat) : Option Nat :=
  if 2 ^ 56 ≤ va then none else
  match translateBy s.mem s.part [] va with
  | .ok x => some x.key
  | _ => none

/-- A 16-byte fault-queue entry (R312). -/
def faultEntry (f : Fault_) : List Byte := toBytes 8 (f.page * 2 ^ 16 + f.kind) ++ toBytes 4 f.core.toNat ++ toBytes 4 0

/-- Post held faults of the checked-out partition while its queue has space (R312, R313); informational ones are then done with. -/
def postHeld : Nat → State → State
  | 0, s => s
  | n + 1, s =>
    let p := s.part
    match p.faults.find? (fun f => !f.posted) with
    | none => s
    | some f =>
      let size := 2 ^ (p.fqctl.toNat % 32)
      if !p.fqctl.getLsbD 31 || decide ((p.fqtail - p.fqhead).toNat ≥ size) then s else
      let va := p.fqbase.toNat + 16 * (p.fqtail.toNat % size)
      match s.partKey va with
      | none => s
      | some k =>
        let fs := p.faults.map (fun g => if g.page = f.page ∧ g.kind = f.kind then { g with posted := true } else g)
        let s0 := s.visit va true
        let s1 := { s0 with mem := Mem.write s0.mem k (faultEntry f),
                            part := { p with fqtail := p.fqtail + 1, faults := fs.filter (fun g => !(g.posted && g.kind = 8)) } }
        postHeld n (s1.msixSignal p.dev p.pid 64)

/-- Ask the host for the translation of the I/O virtual page that the leaf of virtual page `page` names (R312). -/
def State.atsRequest (page : Nat) (s : State) : State :=
  match walk s.mem s.part (page * 2 ^ 16) with
  | .leaf e _ =>
    let iova := (Pte.frame e * 2 ^ 16 + page * 2 ^ 16 % 2 ^ Pte.shift e) / 2 ^ 16
    s.emit s.part.dev (.atsRequest s.part.dev s.part.pid (field s.part.pasid.toNat 19 0) iova)
  | _ => s

/-- Post a fault of the checked-out partition once per page (R137, R312); for a host page that ATS has not translated the request goes out. -/
def State.postFault (page kind : Nat) (core : Word) (s : State) : State :=
  if s.part.faults.any (fun f => f.page = page && (f.kind = 8) == (kind = 8)) then s
  else
    let s0 := if kind = 2 then s.atsRequest page else s
    let s1 := { s0 with part := { s0.part with faults := s0.part.faults ++ [⟨page, kind, core, false⟩] } }
    postHeld s1.part.faults.length s1

/-- Park the checked-out thread on a page; kind 15 posts no fault (stack growth, R138; integrity check, R337). -/
def State.parkOn (page kind : Nat) (s : State) : State :=
  let s1 := { s with thr := { s.thr with status := .parked page } }
  if kind = 15 then s1 else s1.postFault page kind (BitVec.ofNat 32 s.grp.core)

/-- Lines of 128 bytes of the `n` bytes from `va`. -/
def linesOf (va n : Nat) : List Nat := (List.range ((va + n + 127) / 128 - va / 128)).map (va / 128 + ·)

/-- The lines of a load that parks which do translate are fetched into the core's fault buffer, where it has room for all of them (R137). -/
def State.bufferLines (va n : Nat) (s : State) : State :=
  let new := (linesOf va n).filterMap (fun l =>
    if s.core.faultBuf.any (fun b => b.t = s.thr.key && b.line = l) then none else
    match s.checkMap { va := 128 * l, size := 1, write := false, classes := [0, 1, 2, 3, 4, 5], prot13 := false } with
    | .ok x => if s.poisoned x.key 128 then none else some (⟨s.thr.key, l, s.groupBytes s.grp.gid x.key 128⟩ : BufLine)
    | .error _ => none)
  if s.core.faultBuf.length + new.length ≤ 64 then { s with core := { s.core with faultBuf := s.core.faultBuf ++ new } } else s

/-- The buffered lines of the checked-out thread's access are no longer needed. -/
def State.dropLines (s : State) : State := { s with core := { s.core with faultBuf := s.core.faultBuf.filter (fun b => b.t ≠ s.thr.key) } }

/-- A gang or system release that waits: a flush marker goes down every path the core has used and not flushed since, after which the path
table is cleared (R150, R290). -/
def State.sendMarkers (s : State) : State :=
  if s.thr.markers.isSome then s else
  let (id, s1) := s.freshId
  { s1 with thr := { s1.thr with markers := some (id, s1.core.used) }, core := { s1.core with paths := [] } }

/-- The checked-out thread waits at issue with nothing performed (R108, R112). -/
def State.waitAt (w : Wait) (ws : List Word) (s : State) : State :=
  { s with thr := { s.thr with status := .waiting w, waitSince := s.dev.clk, instr := ws, aged := false } }

/-! ## An instruction that does not complete -/

/-- What becomes of the checked-out thread whose instruction, of words `ws`, stops. -/
def State.stop (ws : List Word) (st : Stop) (s : State) : State :=
  match st with
  | .trap cause detail arg => s.deliverTrap cause detail arg ws
  | .park page kind => ({ s.issuedOne with thr := { s.issuedOne.thr with instr := ws } } : State).parkOn page kind
  | .parkRange page kind va n => (({ s.issuedOne with thr := { s.issuedOne.thr with instr := ws } } : State).bufferLines va n).parkOn page kind
  | .pairFault pair cause detail =>
    if s.trapTaken then s else
    { s.issuedOne with core := { s.core with pairs := s.core.pairs.modify pair (fun p => { p with fault := none }) } }.takeTrap cause detail 0 ws
  | .wait w => s.waitAt w ws
  | .flush => s.sendMarkers.waitAt .resource ws
  | .consume code => s.consume code
  | .kvPoison seq blk => (s.poisonedBlock seq blk).consume 0x10
  | .abort => (s.performGroup).abortNode

end Sys2Proof.Machine
end

