-- ==== Sys2Proof/Machine/Issue.lean ====
section
/-!
DEFINITION. Issuing an instruction for the checked-out thread: the checks of Table 2.10, the guard, the interlocks of
lookahead, the body, and what every completed instruction leaves (02 R21, R27, R33, R34; 01 R9, R14; 07 R104, R108).
-/
namespace Sys2Proof.Machine
open Sys2Proof Bits Encoding

/-- What executing a row answers. -/
abbrev Outcome := Host.Outcome State Fault Refusal

/-- A byte offset from a code address lies in the same code window (R25). -/
def inWindow (pc : CodeAddr) (target : Int) : Bool := decide (target / 2 ^ 32 = (pc.toNat / 2 ^ 32 : Nat))

/-- The branch check that rests on the encoding alone (R25, R33, R79): an offset target (that of `fbegin` too,
R294), and the return address of an offset `call`. -/
def offBad (e : Enc) (pc : CodeAddr) : Bool :=
  (e.op = 1 || e.op = 3 || e.op = 6 || e.op = 0xB9) &&
    (!(inWindow pc ((pc.toNat : Int) + 4 * branchOff e)) || (e.op = 3 && !(inWindow pc ((pc.toNat : Int) + len e))))

/-- The ILLEGAL detail word of an instruction for the checked-out thread, where it has one (R33, R34). -/
def State.illegalHere (s : State) (e : Enc) : Option Word := illegal e s.thr.grant (offBad e s.thr.pc) s.lau.privileged

/-- Memory, atomic, sync-word and engine instructions, which wait for a pending `.acq` load (R157). -/
def afterAcq (op : BitVec 8) : Bool :=
  let n := op.toNat
  (0x70 ≤ n && n ≤ 0x8F) || (0xA0 ≤ n && n ≤ 0xDF) || n = 0xE3 || n = 0xE6

/-- Whether an instruction names registers that meet a pending result whose window is over (R27). -/
def meetsPending (e : Enc) (ps : List Pending) : Bool :=
  (ps.filter (fun p => p.win = 0)).any (fun p =>
    (operands e).any (fun o => match o.1 with
      | .xbase => regsMeet (code e o.2.1).toNat 16 p.dst.toNat p.width
      | r => r.isReg && regsMeet (code e o.2.1).toNat r.width p.dst.toNat p.width))

/-- Whether an instruction waits at issue for pending results (R27, R66, R69, R89, R157). -/
def Thread.interlocked (t : Thread) (e : Enc) : Bool :=
  meetsPending e t.pend
    || (longLatency e.op && decide (16 ≤ t.pend.length))
    || (drains e.op && !t.pend.isEmpty)
    || (afterAcq e.op && t.pend.any (fun p => p.acq && !p.arrived))
    || ((e.op = 0xE0 || e.op = 0xE1) && ((e.m = 18 && t.pend.any (fun p => p.canFp)) || (e.m = 19 && t.pend.any (fun p => p.canSli))))

/-- Whether an instruction of the checked-out thread waits at issue for a result, or for an acquire of its own that returns none (R142,
R166). -/
def State.interlocked (e : Enc) (s : State) : Bool :=
  s.thr.interlocked e || (afterAcq e.op && s.inflight.any (fun a => a.t = s.thr.key && a.acq))

/-- A uniform register written by another thread may show its new value from any instruction on (R14): each older value
still held is dropped or kept by a free choice. -/
def freshenFrom : List (Nat × Word) → State → State
  | [], s => s
  | v :: vs, s =>
    let (c, s1) := s.choose 2
    freshenFrom vs (if c = 1 then { s1 with thr := { s1.thr with stale := s1.thr.stale.erase v } } else s1)
/-- Apply `freshenFrom` to the checked-out thread. -/
def State.freshen (s : State) : State := freshenFrom s.thr.stale s

/-- The PC past an instruction. Sequential flow that runs past the end of the code window goes on at the next address (DESIGN CHOICE: R25
names no trap for it; notes/assumptions/36.md). -/
def nextPc (e : Enc) (s : State) : CodeAddr := s.thr.pc + BitVec.ofNat 48 (len e)

/-- A meaning's body: it runs with the PC already past the instruction. -/
abbrev Body := Enc → State → Except Stop State

/-- What every issued instruction leaves (R27, R104, R105, R108): windows shrink, the release and the age end, progress is noted; an instruction that
waits keeps its PC. `s0` is the state it issued in. -/
def State.retire (s0 s : State) : State :=
  if s.thr.key ≠ s0.thr.key then s else
  let t1 := { s.thr.shrink s0.nextId with released := false, aged := false, readySince := s.dev.clk,
                                          progress := if s0.thr.spin.low then s.thr.progress else s.dev.clk }
  match s.thr.status with
  | .ready => { s with thr := t1 }
  | .exited => { s with thr := t1 }
  | _ => { s with thr := { t1 with pc := s0.thr.pc, npc := s.thr.pc } }

/-- The instruction does not execute: only the PC changes, and the windows count it (R13, R21, R27). -/
def State.skip (e : Enc) (s : State) : State := s.retire { s with thr := { s.thr with pc := nextPc e s } }

/-- Run a body on the checked-out thread. -/
def State.run (e : Enc) (body : Body) (s : State) : State :=
  let s0 := s.freshen
  match body e { s0 with thr := { s0.thr with pc := nextPc e s0, instr := toWords e } } with
  | .error st => s0.stop (toWords e) st
  | .ok s1 => s0.retire s1

/-- Issue an instruction for the checked-out thread. `gathers` marks the cross-lane instructions, whose false guard still
takes part in the gather (R110). -/
def State.issue (gathers : Bool) (body : Body) (e : Enc) (s : State) : Outcome :=
  if s.thr.status ≠ .ready then .fault .noThread else
  match s.illegalHere e with
  | some d => .next (s.deliverTrap causeIllegal d 0 (toWords e))
  | none =>
    match s.thr.jobTrap with
    | some (cause, d) =>
      .next (if s.trapTaken then s else { s with thr := { s.thr with jobTrap := none } }.takeTrap cause d 0 (toWords e))
    | none =>
      if !gathers && !(s.thr.guard e.g e.n) then .next (s.skip e)
      else
        let s1 := { s with thr := s.thr.endWindows e }
        if s1.interlocked e then .next (s1.stop (toWords e) (.wait .interlock)) else .next (s1.run e body)

end Sys2Proof.Machine
end

