-- ==== Sys2Proof/Machine/Remote.lean ====
section
/-!
DEFINITION. Sending an access to another device (20 R288, R290, R291, R295), and the accesses of one thread that must wait
for earlier ones (10 R142; 20 R296).
-/
namespace Sys2Proof.Machine
open Sys2Proof Bits Encoding

/-! ## Paths (R288, R290) -/

/-- The candidates of a device's route entry that are valid, by number. -/
def Device.candidates (d : Device) (dst : Nat) : List Nat :=
  let e := ((lookup dst d.routes).getD 0).toNat
  (List.range 4).filter (fun i => bit e (8 * i + 7))

/-- The candidate by which a router forwards a packet of path selector `p`: its own, else the lowest-numbered valid one (R288). -/
def Device.forward (d : Device) (dst p : Nat) : Option Nat :=
  let cs := d.candidates dst
  if cs.contains p then some p else cs.head?

/-- Port of a candidate of a device's route entry. -/
def Device.port (d : Device) (dst i : Nat) : Nat := field ((lookup dst d.routes).getD 0).toNat (8 * i + 6) (8 * i + 3)

/-- Of the candidates, the one whose port has the most free credits; ties go to the lowest (R290). -/
def mostCredits (credits : Nat → Nat) : List Nat → Option Nat
  | [] => none
  | c :: cs =>
    match mostCredits credits cs with
    | some b => if credits c < credits b then some b else some c
    | none => some c

/-- The path selector for an access to a remote sector (R290): the kept one; with the path table full, address bits 8:7; else the valid candidate
of the source's own entry whose port has the most free credits. The credits of the 16 ports are free values (notes/assumptions/5.md). -/
def State.pathTo (dst key : Nat) (s : State) : Nat × State :=
  let sec := key / 64
  match lookup sec s.core.paths with
  | some p => (p, s)
  | none =>
    if s.core.paths.length ≥ 1024 then (field key 8 7, s)
    else
      let p := (mostCredits (fun i => Config.choice (s.drawn + s.dev.port dst i)) (s.dev.candidates dst)).getD 0
      (p, { s with drawn := s.drawn + 16, core := { s.core with paths := Bits.insert sec p s.core.paths } })

/-- Note a path used toward a device since the core's last gang or system release (R150). -/
def Core.use (c : Core) (dst path : Nat) : Core := if c.used.contains (dst, path) then c else { c with used := (dst, path) :: c.used }

/-- Send an access of the checked-out thread; it is numbered `s.nextId`. An auditor's re-run is not race-checked. -/
def State.send (kind : AccessKind) (x : Xlat) (va : Nat) (plain ordered waits acq : Bool) (s : State) : State :=
  let remote := decide (x.cls = 2)
  let dst := devOf x.key
  let (id, s0) := s.freshId
  let (p, s1) := if remote then s0.pathTo dst x.key else (0, s0)
  let a : Access := { serial := id, t := s1.thr.key, kind := kind, dst := dst, key := x.key, va := va, plain := plain && s1.grp.shadow = 0, remote := remote,
                      ordered := ordered, waits := waits, sentAt := s1.now, lid := s1.lau.lid, tag := s1.grp.idx, ltag := s1.lau.tag s1.grp.dev,
                      gen := s1.lau.gen s1.grp.dev, refused := remote && s1.refusedAt dst s1.part.pid x.key, path := p,
                      src := s1.grp.dev * 192 + s1.grp.core, acq := acq }
  let t1 := if kind.isStore && remote then { s1.thr with unacked := s1.thr.unacked ++ [⟨id, dst, p⟩] } else s1.thr
  { s1 with inflight := s1.inflight ++ [a], thr := t1, core := if remote then s1.core.use dst p else s1.core }

/-- The checked-out thread waits for the answer of the access it has just sent, numbered `id` (R291). -/
def State.waitRemote (id : Nat) (s : State) : State := { s with thr := { s.thr with status := .waiting (.remote id), waitSince := s.dev.clk } }

/-- Whether the destination of a class 2 access refuses it (R291): a shared access, an atomic or an operation on a sync word or root cell, none of
which waits for its answer, takes REGION as it issues (DEDUCED, notes/assumptions/31.md). -/
def State.refusal (x : Xlat) (va : Nat) (s : State) : Option Stop :=
  if x.cls = 2 && s.refusedAt (devOf x.key) s.part.pid x.key then some (.trap causeRegion (addrDetail 2 va) 0) else none

/-- Why a read of `n` bytes at another device, made as its instruction issues, does not go through (R291, R292). -/
def State.awayStop (x : Xlat) (va n : Nat) (s : State) : Option Stop :=
  let d := s.dev? (devOf x.key)
  match s.refusal x va with
  | some st => some st
  | none =>
    if !d.answers || d.ckState = 2 || (s.dev.forward d.num 0).isNone then some (.consume 0x10)
    else if s.poisoned x.key n then some (.consume 0x13) else none

/-! ## Waiting for earlier accesses -/

/-- Whether a sector is locked by a prepared region (R296). -/
def State.locked (s : State) (key : Nat) : Bool := s.locks.any (fun l => l.1 = key / 64)

/-- Whether an access under way of the checked-out thread to the same sector must perform first (R142). -/
def State.behind (s : State) (key : Nat) : Bool := s.inflight.any (fun b => b.t = s.thr.key && b.key / 64 = key / 64)

/-- Check a global access, keep its translation, and wait where its sector is locked or an earlier access to it is under way; a
partial store that meets a poisoned sector is consumed (R331). -/
def State.global (r : Req) (s : State) : Except Stop (Xlat × State) :=
  match s.check r with
  | .error st => .error st
  | .ok x => if s.locked x.key || s.behind x.key then .error (.wait .resource)
    else if r.write && x.cls ≠ 2 && s.poisoned x.key r.size then .error (.consume 0x10)
    else .ok (x, s.touch r.va r.write x)

/-! ## The combining buffer (R295) -/

/-- The entry of the checked-out thread's region for a destination sector. -/
def State.combEntry (s : State) (key : Nat) : Option CombEntry :=
  s.core.comb.find? (fun b => b.t = s.thr.key && b.sector = key / 64)

/-- Merge bytes into a list of offsets. -/
def mergeBytes (held : List (Nat × Byte)) (o : Nat) : List Byte → List (Nat × Byte)
  | [] => held
  | b :: bs => mergeBytes (Bits.insert o b held) (o + 1) bs

/-- A store to class 2 inside a region is held; with no free entry the region fails with status 2 and the store is discarded (R295). -/
def State.holdStore (x : Xlat) (va : Nat) (plain : Bool) (bs : List Byte) (s : State) : State :=
  match s.combEntry x.key with
  | some b =>
    let b1 := { b with plain := b.plain || plain, bytes := mergeBytes b.bytes (x.key % 64) bs }
    { s with core := { s.core with comb := s.core.comb.map (fun c => if c.t = b.t ∧ c.sector = b.sector then b1 else c) } }
  | none =>
    if s.core.comb.length ≥ 64 then
      { s with thr := { s.thr with region := s.thr.region.map (fun r => if r.failed = 0 then { r with failed := 2 } else r) } }
    else
      { s with core := { s.core with comb := s.core.comb ++ [⟨s.thr.key, devOf x.key, x.key / 64, va, plain, mergeBytes [] (x.key % 64) bs⟩] } }

/-- Bytes of a load that the region's buffer holds whole (R295). -/
def State.heldLoad (s : State) (key n : Nat) : Option (List Byte) :=
  match s.thr.region, s.combEntry key with
  | some _, some b => (List.range n).mapM (fun i => lookup (key % 64 + i) b.bytes)
  | _, _ => none

/-- Bytes of one sector of another device as the checked-out thread reads them: those that its region holds over the ones there (R295). -/
def State.awayBytes (x : Xlat) (n : Nat) (s : State) : List Byte :=
  match s.combEntry x.key with
  | some b => (Mem.read s.mem x.key n).zipIdx.map (fun p => (lookup (x.key % 64 + p.2) b.bytes).getD p.1)
  | none => Mem.read s.mem x.key n

end Sys2Proof.Machine
end

