-- ==== Sys2Proof/Machine/MemInstr.lean ====
section
/-!
DEFINITION. Loads, stores, formatted and uniform loads, prefetch, cache control and fence, opcodes 0x70 to 0x78 (11 R154 to
R164; 09 R131; 10 R141, R142, R145).
-/
namespace Sys2Proof.Machine
open Sys2Proof Bits Encoding

/-! ## Addresses and modifiers (R154, R155) -/

/-- Type of a memory access: S forms are `.s` (R31). -/
def memT (e : Enc) : BitVec 4 := if e.form = .s then 1 else e.t
/-- Bytes of an access (R155). -/
def memSize (e : Enc) : Nat := match (memT e).toNat with | 0 => 16 | 5 => 1 | 6 => 2 | 3 => 8 | 4 => 8 | _ => 4
/-- Registers of an access. -/
def memN (e : Enc) : Nat := mw (memT e)
/-- Order: 0 plain, 1 `.sh`, 2 `.acq` or `.rel` (Table 11.1). -/
def memOrder (e : Enc) : Nat := if e.form = .s then 0 else field e.m.toNat 1 0
/-- Scope (Table 11.2). -/
def memScope (e : Enc) : Nat := if e.form = .s then 0 else field e.m.toNat 4 2
/-- Offset of an access (R154). -/
def State.memOff (s : State) (e : Enc) : Int :=
  match e.form with
  | .s => 4 * (e.b.toNat : Int)
  | .x => e.lit.toInt
  | .l => (s.read32 e.b).toInt * 2 ^ field e.m.toNat 7 5
/-- Virtual address of a global access (R154). -/
def State.globalAddr (s : State) (e : Enc) : Nat := (((s.opA e 2 : Int) + s.memOff e) % 2 ^ 64).toNat
/-- Scratchpad address (R154). -/
def State.scratchAddr (s : State) (e : Enc) : Nat := (((s.opA e 1 : Int) + s.memOff e) % 2 ^ 32).toNat
/-- A loaded value, sign-extended where c bit 0 is set (R155). -/
def loadExt (e : Enc) (v : Nat) : Nat := if bit e.c.toNat 0 then wrapInt 32 (sint (8 * memSize e) v) else v
/-- What a published operation is, for the log (R146). -/
def pubOp (e : Enc) : Nat := e.op.toNat * 2 ^ 20 + e.t.toNat * 2 ^ 16 + e.c.toNat * 2 ^ 8 + e.m.toNat
/-- The newest log entry awaits the value of an operation under way. -/
def State.logSerial (id : Nat) (s : State) : State :=
  { s with grp := { s.grp with log := s.grp.log.dropLast ++ (s.grp.log.getLast?.map (fun p => { p with serial := id })).toList } }
/-- The newest log entry awaits the access just sent. -/
def State.logSent (s : State) : State := s.logSerial (s.nextId - 1)
/-- A load that is an acquire: at thread scope an acquire does nothing (R141). -/
def memAcq (e : Enc) : Bool := memOrder e = 2 && memScope e ≠ 0
/-- The race check of a plain access where its class is checked (Table 9.3). -/
def State.raceIf (x : Xlat) (va : Nat) (write : Bool) (s : State) : Except Stop State :=
  if x.cls = 0 then s.race x.key va write else .ok s

/-! ## ld -/

/-- A load from another device (R291), or from the bytes that its region holds (R295): a shared or acquire load enters the log either way
(R164). -/
def loadRemote (e : Enc) (x : Xlat) (va : Nat) (s : State) : Except Stop State :=
  let size := memSize e
  let sx := bit e.c.toNat 0
  if memOrder e = 0 then
    match s.heldLoad x.key size with
    | some bs => .ok (s.laterM e (memN e) (loadExt e (ofBytes bs)) false 0)
    | none => .ok (((s.send (.load size sx) x va true false true false).laterAs s.nextId e [] (memN e) 0 0 false false false false).waitRemote s.nextId)
  else
    let act := fun (s : State) => match s.heldLoad x.key size, s.refusal x va with
      | some bs, _ => Except.ok (words (memN e) (loadExt e (ofBytes bs)), s)
      | none, some st => .error st
      | none, none => .ok ([], s.send (.load size sx) x va false false false false)
    match s.publish (pubOp e) va [] act with
    | .error st => .error st
    | .ok ([], s1) => .ok (s1.logSent.laterAs (s1.nextId - 1) e [] (memN e) 0 0 false (memAcq e) false false)
    | .ok (ret, s1) => .ok (s1.later e ret (memN e) 0 0 false (memAcq e) false false)

/-- `ld` (R157). -/
def bodyLd (e : Enc) (s : State) : Except Stop State :=
  let va := s.globalAddr e
  match s.global { va := va, size := memSize e, write := false, classes := [0, 1, 2, 3, 4, 5], prot13 := false } with
  | .error st => .error st
  | .ok (x, s1) =>
    if x.cls = 2 then loadRemote e x va s1
    else if memOrder e = 0 then
      match s1.raceIf x va false with
      | .error st => .error st
      | .ok s2 =>
        match s2.load x (memSize e) true with
        | .error st => .error st
        | .ok (v, s3) => .ok (s3.laterM e (memN e) (loadExt e v) false 0)
    else
      let act := fun (s : State) => match s.load x (memSize e) false with
        | .error st => Except.error st
        | .ok (v, s) => .ok (words (memN e) (loadExt e v), s)
      match s1.publish (pubOp e) va [] act with
      | .error st => .error st
      | .ok (ret, s2) => .ok (s2.later e ret (memN e) 0 0 false (memAcq e) false false)

/-! ## st -/

/-- The bytes a store writes. -/
def State.storeBytes (s : State) (e : Enc) : List Byte := toBytes (memSize e) (s.opD e (memN e))

/-- A plain store (R119, R130, R147, R291): one to another device is published, and waits for its acknowledgement. -/
def storePlain (e : Enc) (x : Xlat) (va : Nat) (bs : List Byte) (s : State) : Except Stop State :=
  if x.cls = 2 then
    if s.thr.region.isSome then .ok (s.holdStore x va true bs)
    else
      match s.publish (pubOp e) va (words 4 (ofBytes bs)) (fun s => .ok ([], s.send (.store bs.length (ofBytes bs)) x va true false true false)) with
      | .error st => .error st
      | .ok ([], s1) => .ok (s1.logSent.waitRemote (s1.nextId - 1))
      | .ok (_, s1) => .ok s1
  else if x.cls = 5 then (s.mailboxStore x.key va bs).map (fun s => s.addUnacked s.grp.dev 0)
  else
    match s.raceIf x va true with
    | .error st => .error st
    | .ok s1 => (s1.stagePlain x.key va bs).map (fun s => s.addUnacked s.grp.dev 0)

/-- What a shared store does at once (R130, R157, R291). -/
def storeNow (x : Xlat) (va : Nat) (bs : List Byte) (s : State) : Except Stop (List Word × State) :=
  if x.cls = 2 then
    match s.refusal x va with
    | some st => .error st
    | none => .ok ([], s.send (.store bs.length (ofBytes bs)) x va false false false false)
  else if x.cls = 5 then (s.mailboxStore x.key va bs).map (fun s => ([0], s.addUnacked s.grp.dev 0))
  else .ok ([0], (s.perform x.key bs).addUnacked s.grp.dev 0)

/-- A `.sh` or `.rel` store: the release waits first, then what is staged is committed where R145 asks, then it performs and is logged; what the
group has staged under it is overwritten, in a re-run too. -/
def storeShared (e : Enc) (x : Xlat) (va : Nat) (bs : List Byte) (s : State) : Except Stop State :=
  let rel := memOrder e = 2
  match (if rel then s.release (memScope e) else .ok s) with
  | .error st => .error st
  | .ok s1 =>
    if x.cls = 2 ∧ s1.thr.region.isSome = true then .ok (s1.holdStore x va false bs)
    else
      match s1.publishRule (rel && 2 ≤ memScope e) with
      | .error st => .error st
      | .ok s2 =>
        match (s2.unstage x.key bs.length).publish (pubOp e) va (words 4 (ofBytes bs)) (storeNow x va bs) with
        | .error st => .error st
        | .ok ([], s3) => .ok s3.logSent
        | .ok (_, s3) => .ok s3

/-- `st` (R157). -/
def bodySt (e : Enc) (s : State) : Except Stop State :=
  let va := s.globalAddr e
  match s.global { va := va, size := memSize e, write := true, classes := [0, 2, 4, 5], prot13 := true } with
  | .error st => .error st
  | .ok (x, s1) => if memOrder e = 0 then storePlain e x va (s.storeBytes e) s1 else storeShared e x va (s.storeBytes e) s1

/-! ## lds, sts -/

/-- `lds` (R157). -/
def bodyLds (e : Enc) (s : State) : Except Stop State :=
  let off := s.scratchAddr e
  match s.checkScratch off (memSize e) with
  | .error st => .error st
  | .ok _ => .ok (s.laterM e (memN e) (loadExt e (Mem.nat s.grp.scratch off (memSize e))) (memAcq e) 0)

/-- `sts` (R157). -/
def bodySts (e : Enc) (s : State) : Except Stop State :=
  let off := s.scratchAddr e
  match s.checkScratch off (memSize e) with
  | .error st => .error st
  | .ok _ =>
    match (if memOrder e = 2 then s.release (memScope e) else .ok s) with
    | .error st => .error st
    | .ok s1 => .ok { s1 with grp := s1.grp.sts off (s.storeBytes e) }

/-! ## ldf, ldk, pfch, cctl, fence -/

/-- Elements per scale word of a page format (Table 3.6). -/
def groupOf (fmt : Nat) : Nat := [32, 64, 128].getD ((fmt - 1) % 3) 32
/-- Index of the element at a virtual address of a formatted page (R43). -/
def elementIndex (entry va nib : Nat) : Nat :=
  let o := va % 2 ^ Pte.shift entry
  if fmtInt4 (Pte.fmt entry) then 2 * o + nib else o
/-- Key of the scale word of element `i` (R131). -/
def scaleKey (dev entry i : Nat) : Nat :=
  keyOf dev (Pte.scaleFrame entry * 2 ^ 16 + 8192 * Pte.scaleOff entry + 4 * (i / groupOf (Pte.fmt entry)))

/-- The first of the two reads of `ldf`, of the element or of the scale word by a free choice; the other is on its way, for nothing makes the two
one (R131, R152). -/
def readFirst (x : Xlat) (va nib : Nat) (plain : Bool) (s : State) : Except Stop State :=
  let fmt := Pte.fmt x.entry
  let k := scaleKey s.part.dev x.entry (elementIndex x.entry va nib)
  let (c, s1) := s.choose 2
  if c = 0 then
    match s1.load x 1 plain with
    | .error st => .error st
    | .ok (byte, s2) => .ok (s2.send (.decode true (wrapInt 32 (elementOf fmt byte nib)) nib fmt) { x with key := k } va false false false false)
  else if s1.poisoned k 4 then .error (.consume 0x10)
  else .ok (s1.send (.decode false (ofBytes (s1.groupBytes s1.grp.gid k 4)) nib fmt) x va false false false false)

/-- `ldf` (R159): a page without a format refuses as a class does. -/
def bodyLdf (e : Enc) (s : State) : Except Stop State :=
  let va := s.globalAddr e
  match s.global { va := va, size := 1, write := false, classes := [0, 1, 3], prot13 := false, formatted := true } with
  | .error st => .error st
  | .ok (x, s1) =>
    let nib := e.c.toNat % 2
    if memOrder e = 0 then
      match s1.raceIf x va false with
      | .error st => .error st
      | .ok s2 =>
        match readFirst x va nib true s2 with
        | .error st => .error st
        | .ok s3 => .ok (s3.laterAs (s3.nextId - 1) e [] 1 0 0 false false false true)
    else
      match s1.publish (pubOp e) va [] (fun s => (readFirst x va nib false s).map (fun s => ([], s))) with
      | .error st => .error st
      | .ok ([], s2) => .ok (s2.logSent.laterAs (s2.nextId - 1) e [] 1 0 0 false (memAcq e) false true)
      | .ok (ret, s2) =>
        let (v, f) := decoded s.lau.nbv ret
        .ok (s2.laterM e 1 v (memAcq e) f)

/-- `ldk` (R160): base in a uniform pair, index in a uniform register or zr. -/
def bodyLdk (e : Enc) (s : State) : Except Stop State :=
  let va := s.globalAddr e
  match s.global { va := va, size := memSize e, write := false, classes := [0, 1, 3], prot13 := false } with
  | .error st => .error st
  | .ok (x, s1) =>
    match s1.raceIf x va false with
    | .error st => .error st
    | .ok s2 =>
      match s2.load x (memSize e) true with
      | .error st => .error st
      | .ok (v, s3) => .ok (s3.laterM e (memN e) (loadExt e v) false 0)

/-- `pfch` (R161): the load cache may take the line; an access that would not go through is dropped. -/
def bodyPfch (e : Enc) (s : State) : Except Stop State :=
  let va := s.globalAddr e
  match s.checkMap { va := va, size := 1, write := false, classes := [0, 1, 3, 4], prot13 := false } with
  | .error _ => .ok s
  | .ok x =>
    let held := s.core.lcache.any (fun c => c.line = x.key / 128 && c.pid = s.part.pid)
    .ok (if bit e.c.toNat 0 || held then s else s.cacheFill (x.key / 128) x.cls)

/-- `cctl.inv` (R162). -/
def bodyCctlInv (_ : Enc) (s : State) : Except Stop State := .ok { s with core := { s.core with lcache := [] } }
/-- `cctl.invl` (R162): no translation fault, and nothing for an address that is none (R126). -/
def bodyCctlInvl (e : Enc) (s : State) : Except Stop State :=
  match (if 2 ^ 56 ≤ s.opA e 2 then Trans.miss else s.translate (s.opA e 2)) with
  | .ok x => .ok { s with core := { s.core with lcache := s.core.lcache.filter (fun c => !(c.line = x.key / 128 && c.pid = s.part.pid)) } }
  | _ => .ok s

/-- `fence` (R163): the release side waits, the acquire side invalidates, and a release of cluster scope or wider makes the
next shared access a publishing write (R145). -/
def bodyFence (e : Enc) (s : State) : Except Stop State :=
  let o := field e.m.toNat 1 0
  let sc := field e.m.toNat 4 2
  match s.releaseBy o sc with
  | .error st => .error st
  | .ok s1 =>
    let s2 := if o = 2 then s1 else s1.acquire sc
    .ok (if 2 ≤ o ∧ 2 ≤ sc then { s2 with thr := { s2.thr with fenced := true } } else s2)

/-- LD_S -/
def execLdS (e : SEnc) (s : State) : Outcome := s.issue false bodyLd (e.enc 0x70)
/-- LD_LX -/
def execLdLX (e : LX) (s : State) : Outcome := s.issue false bodyLd (e.enc 0x70)
/-- ST_S -/
def execStS (e : SEnc) (s : State) : Outcome := s.issue false bodySt (e.enc 0x71)
/-- ST_LX -/
def execStLX (e : LX) (s : State) : Outcome := s.issue false bodySt (e.enc 0x71)
/-- LDS_S -/
def execLdsS (e : SEnc) (s : State) : Outcome := s.issue false bodyLds (e.enc 0x72)
/-- LDS_LX -/
def execLdsLX (e : LX) (s : State) : Outcome := s.issue false bodyLds (e.enc 0x72)
/-- STS_S -/
def execStsS (e : SEnc) (s : State) : Outcome := s.issue false bodySts (e.enc 0x73)
/-- STS_LX -/
def execStsLX (e : LX) (s : State) : Outcome := s.issue false bodySts (e.enc 0x73)
/-- LDF -/
def execLdf (e : LX) (s : State) : Outcome := s.issue false bodyLdf (e.enc 0x74)
/-- LDK -/
def execLdk (e : LX) (s : State) : Outcome := s.issue false bodyLdk (e.enc 0x75)
/-- PFCH -/
def execPfch (e : LX) (s : State) : Outcome := s.issue false bodyPfch (e.enc 0x76)
/-- CCTL_INV -/
def execCctlInv (e : LX) (s : State) : Outcome := s.issue false bodyCctlInv (({ e with c := 0 } : LX).encL 0x77)
/-- CCTL_INVL -/
def execCctlInvl (e : LX) (s : State) : Outcome := s.issue false bodyCctlInvl (({ e with c := 1 } : LX).encL 0x77)
/-- FENCE -/
def execFence (e : LX) (s : State) : Outcome := s.issue false bodyFence (e.encL 0x78)

end Sys2Proof.Machine
end

