-- ==== Sys2Proof/Machine/Atomic.lean ====
section
/-!
DEFINITION. Atomics, opcodes 0x80 and 0x81 (11 R165, R166; 09 R136).
-/
namespace Sys2Proof.Machine
open Sys2Proof Bits Encoding

/-- Operand and compare value of an atomic: `cas` reads the compare value below the new one (R165). -/
def State.atomicArgs (s : State) (e : Enc) : Nat × Nat :=
  let n := tw e.t
  if e.c = 8 then (s.readN (code e e.b) (2 * n) / 2 ^ (32 * n), s.readN (code e e.b) (2 * n) % 2 ^ (32 * n)) else (s.opB e n, 0)

/-- An atomic that acquires: at thread scope an acquire does nothing (R141). -/
def amoAcq (e : Enc) : Bool := field e.m.toNat 1 0 % 2 = 1 && field e.m.toNat 4 2 ≠ 0

/-- `amo` on a checked address: release, publication, then the operation goes on its way to its home slice. With d = zr it leaves no pending
result; an acquire is waited for all the same (R142, R166). -/
def amoAt (e : Enc) (x : Xlat) (va : Nat) (s : State) : Except Stop State :=
  let o := field e.m.toNat 1 0
  let sc := field e.m.toNat 4 2
  let (b, cmp) := s.atomicArgs e
  let pends := decide (code e e.d ≠ 0xFF)
  let n := tw e.t
  match s.releaseBy o sc with
  | .error st => .error st
  | .ok s1 =>
    match s1.publishRule (2 ≤ o && 2 ≤ sc) with
    | .error st => .error st
    | .ok s2 =>
      let send := fun (s : State) => ([], s.send (.atomic e.c.toNat e.t.toNat b cmp) x va false (bit e.m.toNat 5) false (amoAcq e && !pends))
      let act := fun (s : State) => match s.refusal x va with
        | some st => Except.error st
        | none => if x.cls = 5 then s.commitEarly.map send else .ok (send s)
      match s2.publish (pubOp e) va (words 2 b ++ words 2 cmp) act with
      | .error st => .error st
      | .ok ([], s3) => .ok (if pends then s3.logSent.laterAs (s3.nextId - 1) e [] n 0 0 false (amoAcq e) false (e.c = 11) else s3.logSent)
      | .ok (ret, s3) =>
        let fl := (atomicNew e.c.toNat e.t.toNat (ofWords ret) b cmp).2
        let s4 := s3.unstage x.key (atomicSize e.t.toNat)
        .ok (if pends then s4.later e ret n fl 0 false (amoAcq e) false (e.c = 11) else (if amoAcq e then s4.acquire sc else s4).orFp fl)

/-- `amo` (R165, R166): illegal on class 2 inside a region. -/
def bodyAmo (e : Enc) (s : State) : Except Stop State :=
  let va := s.opA e 2
  match s.check { va := va, size := atomicSize e.t.toNat, write := true, classes := [0, 2, 5], prot13 := true } with
  | .error st => .error st
  | .ok x =>
    if x.cls = 2 ∧ s.thr.region.isSome = true then .error (misuse12 e.op)
    else amoAt e x va (s.touch va true x)

/-- `amos` (R165): on scratchpad, undo-logged. -/
def bodyAmos (e : Enc) (s : State) : Except Stop State :=
  let off := s.opA e 1
  let o := field e.m.toNat 1 0
  let n := atomicSize e.t.toNat
  let (b, cmp) := s.atomicArgs e
  match s.checkScratch off n with
  | .error st => .error st
  | .ok _ =>
    match s.releaseBy o (field e.m.toNat 4 2) with
    | .error st => .error st
    | .ok s1 =>
      let old := Mem.nat s1.grp.scratch off n
      let (new, fl) := atomicNew e.c.toNat e.t.toNat old b cmp
      let s2 := { s1 with grp := s1.grp.sts off (toBytes n new) }
      .ok (if code e e.d = 0xFF then (if amoAcq e then s2.acquire (field e.m.toNat 4 2) else s2).orFp fl
           else s2.later e (words (tw e.t) old) (tw e.t) fl 0 false (amoAcq e) false (e.c = 11))

/-- AMO -/
def execAmo (e : LX) (s : State) : Outcome := s.issue false bodyAmo (e.enc 0x80)
/-- AMOS -/
def execAmos (e : LX) (s : State) : Outcome := s.issue false bodyAmos (e.enc 0x81)

end Sys2Proof.Machine
end

