-- ==== Sys2Proof/Machine/Engine.lean ====
section
/-!
DEFINITION. What the matrix and engine instructions share: the state that earlier commands of the core will leave (R191),
job cards and their edges (R187), queueing a command (R188, R193), accumulator pairs (R181), and undo copies (R193).
-/
namespace Sys2Proof.Machine
open Sys2Proof Bits Encoding

/-! ## Formats (Tables 12.1, 13.4) -/

/-- Bytes of a column of a macro. -/
def colBytes (fmt : Nat) : Nat := [256, 128, 512, 512].getD fmt 256
/-- Columns of a macro. -/
def colCount (fmt : Nat) : Nat := [128, 256, 64, 64].getD fmt 128
/-- Bytes of a row of the row buffer. -/
def rowBytes (fmt : Nat) : Nat := colBytes fmt
/-- Whether a B format accepts an A format. -/
def accepts (b a : Nat) : Bool := b = a || (b = 1 && a = 0)
/-- Half slices that a macro of a format fills. -/
def halfSlices (fmt : Nat) : Nat := [2, 4, 1, 1].getD fmt 2
/-- The form of a format: 1 int, 2 float. -/
def formOfFmt (fmt : Nat) : Nat := if fmt ≤ 1 then 1 else 2
/-- Output slices of macros of a format (R179). -/
def slicesOf (fmt n : Nat) : Nat := (halfSlices fmt * n + 1) / 2
/-- Macros of a mask, ascending. -/
def maskList (mask : Nat) : List Nat := (List.range 8).filter (fun m => bit mask m)

/-! ## Follow-on and X-form literals (Table 12.3) -/

/-- Whether a literal is malformed by Table 12.3. -/
def litBad (w : Word) : Bool := !(field w.toNat 31 28 = 1 || field w.toNat 31 28 = 2) || field w.toNat 11 0 ≠ 0
/-- First pair. -/
def litAcc (w : Word) : Nat := field w.toNat 27 25
/-- Macro mask. -/
def litMask (w : Word) : Nat := field w.toNat 24 17
/-- Rows. -/
def litRows (w : Word) : Nat := field w.toNat 16 12 + 1
/-- `accz` of the working banks first. -/
def litZero (w : Word) : Bool := field w.toNat 31 28 = 2

/-! ## The state earlier commands will leave (R191) -/

/-- What the checks read: format and claim of each macro and of the row buffer, and the forms of each pair's working and visible banks. -/
structure Proj where
  macros : List (Option Nat × Nat)
  row : Option Nat × Nat
  forms : List Nat
  vis : List Nat
  deriving DecidableEq, Repr

/-- As the array stands. -/
def Core.proj (c : Core) : Proj :=
  { macros := c.macros.map (fun t => (t.fmt, t.claim)), row := (c.rowbuf.fmt, c.rowbuf.claim), forms := c.pairs.map (fun p => p.working.form),
    vis := c.pairs.map (fun p => p.visible.form) }

/-- The common format of the macros of a mask. -/
def Proj.bfmt (p : Proj) (mask : Nat) : Option Nat := ((maskList mask).head?.bind (fun m => (p.macros.getD m (none, 0)).1))

/-- Pairs an `mmac` of a group whose pair numbers `pm` maps adds into. -/
def Proj.outPairs (p : Proj) (pm : Nat → Nat) (acc mask : Nat) : List Nat :=
  (List.range (slicesOf ((p.bfmt mask).getD 0) (maskList mask).length)).map (fun i => pm (acc + i))

/-- After an `mmac`. -/
def Proj.mmac (p : Proj) (pm : Nat → Nat) (acc mask : Nat) : Proj :=
  { p with forms := p.forms.zipIdx.map (fun f => if (p.outPairs pm acc mask).contains f.2 then formOfFmt ((p.bfmt mask).getD 0) else f.1) }

/-- After a load of a tile that group `claim` then claims. -/
def Proj.load (p : Proj) (dst : SideSpace) (fmt claim : Nat) : Proj :=
  match dst with
  | .macro_ m => { p with macros := p.macros.set m (some fmt, claim) }
  | .rowbuf => { p with row := (some fmt, claim) }
  | _ => p

/-- After an exchange of the banks of a pair (R199). -/
def Proj.swap (p : Proj) (n : Nat) : Proj := { p with forms := p.forms.set n (p.vis.getD n 0), vis := p.vis.set n (p.forms.getD n 0) }

/-- The group that a load's tile is claimed by: none once it has ended (R176). -/
def State.claimant (gid : Nat) (s : State) : Nat := if (s.group? gid).isSome then gid else 0

/-- How a group's pair numbers map onto pairs of its core (R194). -/
def State.pairNo (gid : Nat) (s : State) (p : Nat) : Nat := ((s.group? gid).map (fun g => g.pairNo p)).getD p

/-- After a queued command. -/
def State.projAfter (s : State) (p : Proj) (j : Job) : Proj :=
  let p1 := match j.kind with
    | .copy _ dst _ _ _ _ fmt _ _ => if j.moved then p else p.load dst.space fmt (s.claimant j.gid)
    | .mmac acc mask _ _ => p.mmac (s.pairNo j.gid) acc mask
    | .accz pair both => { p with forms := p.forms.set pair 0, vis := if both then p.vis.set pair 0 else p.vis }
    | _ => p
  match j.fo with
  | some w => if j.foDone then p1 else p1.mmac (s.pairNo j.gid) (litAcc w) (litMask w)
  | none => p1

/-- Exchanges of banks that wait on the checked-out core, one for each split: the number of the first command issued after it, and the pair
(R181, R190). -/
def State.swaps (s : State) : List (Nat × Nat) :=
  ((s.allThreads.filterMap (fun t => match t.status with
    | .waiting (.aswap p bound) => if s.coreGids.contains t.key.gid then some (t.key.gid, t.key.tid / 32, t.pc, bound, p) else none
    | _ => none)).dedup).map (fun q => q.2.2.2)

/-- The state that queued commands leave, and the waiting exchanges issued before number `bound`, each in its place. -/
def State.project (s : State) (js : List Job) (bound : Nat) : Proj :=
  let due := fun n => s.swaps.filter (fun q => decide (q.1 ≤ n))
  let swap := fun (p : Proj) (q : Nat × Nat) => p.swap q.2
  let step := fun (acc : Proj × List (Nat × Nat)) (j : Job) =>
    let now := (due j.id).filter (fun q => !acc.2.contains q)
    (s.projAfter (now.foldl swap acc.1) j, acc.2 ++ now)
  let (p, seen) := js.foldl step (s.core.proj, [])
  ((due bound).filter (fun q => !seen.contains q)).foldl swap p

/-- The state every earlier command of the core will leave. -/
def State.projected (s : State) : Proj := s.project s.core.jobs s.nextId

/-- The state the commands before a queued one will leave. -/
def State.projBefore (s : State) (j : Job) : Proj := s.project (s.core.jobs.takeWhile (fun i => i.id ≠ j.id)) j.id

/-! ## Accumulator pairs (R181) -/

/-- Whether a group holds pair `p`. -/
def Core.holdsPair (c : Core) (gid p : Nat) : Bool :=
  match c.pairs[p]? with | some q => q.owner = gid && !q.released | none => false

/-- The pair of that number. -/
def Core.pair (c : Core) (p : Nat) : AccPair := c.pairs.getD p AccPair.free

/-- Update a pair. -/
def Core.updPair (c : Core) (p : Nat) (f : AccPair → AccPair) : Core := { c with pairs := c.pairs.modify p f }

/-- Pairs that the working banks of a queued command name, by the formats that the commands before it leave: those of its follow-on too until that
has drained (R181). -/
def State.namedPairs (s : State) (j : Job) : List Nat :=
  let p := s.projBefore j
  let pm := s.pairNo j.gid
  let own := match j.kind with
    | .mmac acc mask _ _ => p.outPairs pm acc mask
    | .accz pair _ => [pair]
    | _ => []
  own ++ (match j.fo with
    | some w => if j.foDone then [] else
        (let q := match j.kind with
          | .copy _ dst _ _ _ _ fmt _ _ => p.load dst.space fmt j.gid
          | _ => p
         q.outPairs pm (litAcc w) (litMask w))
    | none => [])

/-- Quiescence of a pair with respect to the commands numbered below `bound` (R181). -/
def State.quiescent (s : State) (p bound : Nat) : Bool :=
  s.core.jobs.all (fun j => decide (bound ≤ j.id) || !((s.namedPairs j).contains p)) && (s.core.pair p).holds.all (fun h => decide (bound ≤ h))

/-- Copy a pair's banks to the group's undo log before the phase's first write to it, and note which of them it writes (R119, R193, R336). -/
def Group.saveBank (g : Group) (n : Nat) (p : AccPair) (working visible : Bool) : Group :=
  if g.undoBanks.any (fun u => u.pair = n) then
    { g with undoBanks := g.undoBanks.map (fun u => if u.pair = n then { u with working := u.working || working, visible := u.visible || visible } else u) }
  else { g with undoBanks := { pair := n, owner := p.owner, wForm := p.working.form, wCells := p.working.cells, vForm := p.visible.form,
                               vCells := p.visible.cells, sat := p.sat, working := working, visible := visible } :: g.undoBanks }

/-- Update a pair of the checked-out core for group `gid`, its undo copy first (R119); `working` and `visible` say which banks are written. -/
def State.writePair (gid n : Nat) (working visible : Bool) (f : AccPair → AccPair) (s : State) : State :=
  let s1 := s.updGroup gid (fun g => g.saveBank n (s.core.pair n) working visible)
  { s1 with core := s1.core.updPair n f }

/-- Element of a bank. -/
def Bank.get (b : Bank) (i : Nat) : BitVec 48 := (lookup i b.cells).getD 0

/-- Exchange the banks of a pair with their forms (R199). -/
def AccPair.swap (p : AccPair) : AccPair := { p with working := p.visible, visible := p.working }

/-- Exchange the banks of pair `n` for group `gid`: what the phase has written moves with them (R119, R199). -/
def State.swapPair (gid n : Nat) (s : State) : State :=
  (s.writePair gid n false false AccPair.swap).updGroup gid (fun g =>
    { g with undoBanks := g.undoBanks.map (fun u => if u.pair = n then { u with working := u.visible, visible := u.working } else u) })

/-- Zero the working bank, and with `both` the visible one; SAT is cleared (R199). -/
def AccPair.clear (p : AccPair) (both : Bool) : AccPair :=
  { p with working := ⟨0, []⟩, visible := if both then ⟨0, []⟩ else p.visible, sat := false }

/-! ## Checks of an `mmac` (R179, R191, R198) -/

/-- Refusal codes of an `mmac` of a group against a projected state. -/
def mmacCodes (c : Core) (p : Proj) (g : Group) (acc mask : Nat) (zero : Bool) : List Nat :=
  let gid := g.gid
  let ms := maskList mask
  let fm := fun m => (p.macros.getD m (none, 0)).1
  let cl := fun m => (p.macros.getD m (none, 0)).2
  let bf := p.bfmt mask
  let outs := if bf.isSome then p.outPairs id acc mask else []
  let held := fun q => c.holdsPair gid (g.pairNo q)
  (if !held acc || outs.any (fun q => decide (q ≤ 7) && !held q) then [1] else [])
    ++ (if outs.any (fun q => decide (7 < q)) then [2] else [])
    ++ (if ms.any (fun m => (fm m).isNone || !(cl m = 0 || cl m = gid)) then [3] else [])
    ++ (if ms.any (fun m => fm m ≠ bf)
          || (match bf, p.row.1 with | some b, some a => !accepts b a | _, _ => false)
          || (match bf with
              | some b => !zero && outs.any (fun q => held q && !(p.forms.getD (g.pairNo q) 0 = 0 || p.forms.getD (g.pairNo q) 0 = formOfFmt b))
              | none => false) then [4] else [])
    ++ (if p.row.1.isNone || !(p.row.2 = 0 || p.row.2 = gid) then [5] else [])
    ++ (if ms.isEmpty then [0xD] else [])

/-- The lowest of several codes (R191). -/
def lowest : List Nat → Option Nat
  | [] => none
  | c :: cs => some (cs.foldl min c)

/-- The first Faulted pair of a list (R182). -/
def Core.faulted (c : Core) (ps : List Nat) : Option Stop :=
  firstSome (ps.map (fun p => (c.pair p).fault.map (fun f => Stop.pairFault p f.1 f.2)))

/-! ## Job cards (R187) -/

/-- Whether two regions overlap; row-buffer rows and macros are regions of one unit each. -/
def CardRegion.meets (a b : CardRegion) : Bool :=
  a.space = b.space && decide (a.base < b.base + b.extent) && decide (b.base < a.base + a.extent)

/-- Whether regions of two jobs overlap: scratchpad is a group's own, global addresses a partition's own. -/
def meetAny (i j : Job) (xs ys : List CardRegion) : Bool :=
  xs.any (fun x => ys.any (fun y => x.meets y && (if x.space = 1 then i.gid = j.gid else if x.space = 0 then i.pid = j.pid else true)))

/-- What a job still reads: of the row buffer the rows that an `mmac` has not yet broadcast, and what its pending follow-on will read (R187). -/
def Job.allReads (j : Job) : List CardRegion :=
  let k := j.cast.length
  (j.reads.map (fun r => if r.space = 2 then { r with base := r.base + k, extent := r.extent - k } else r)).filter (fun r => r.extent ≠ 0) ++ (match j.fo with
    | some w => if j.foDone then [] else ⟨2, 0, litRows w⟩ :: (maskList (litMask w)).map (fun m => ⟨3, m, 1⟩)
    | none => [])

/-- Whether `i`, queued earlier, keeps `j` from starting (R187): write-after-read ends once `i` has read. -/
def Job.edge (i j : Job) : Bool :=
  meetAny i j i.writes j.allReads || meetAny i j i.writes j.writes || (!(i.moved && i.foDone) && meetAny i j i.allReads j.writes)

/-- Whether an earlier command must reach the array before a later one: an array command, or a follow-on not yet issued (R181). -/
def Job.arrayFirst (i : Job) : Bool := i.kind.array || (i.freed && i.fo.isSome && !i.foDone)

/-- Whether pair `p` is named by a waiting `aswap` issued before job number `id` (R181: such a job runs after the exchange). -/
def State.swapPending (s : State) (p id : Nat) : Bool := s.swaps.any (fun q => q.2 = p && decide (q.1 ≤ id))

/-- Whether a queued job of the checked-out core may run (R181, R187, R188, R199). -/
def State.mayRun (s : State) (j : Job) : Bool :=
  let before := s.core.jobs.takeWhile (fun i => i.id ≠ j.id)
  j.freed && j.parked.isNone && j.failed.isNone
    && !(before.any (fun i => i.edge j))
    && (!j.kind.array || !(before.any Job.arrayFirst))
    && (match j.kind with | .accz p true => (s.core.pair p).holds.isEmpty | _ => true)
    && !(((s.namedPairs { j with fo := none }).any (fun p => s.swapPending p j.id)))

/-- An explicit card (Table 12.4): its regions, or none where it is malformed. DESIGN CHOICE (notes/assumptions/36.md): whether reserved bits of a
region that the header does not count as used make a card malformed is not stated; only the used regions are checked. -/
def cardOf (bs : List Byte) : Option (List CardRegion × List CardRegion) :=
  let h := natAt bs 0 32
  let nr := field h 3 0
  let nw := field h 7 4
  let reg := fun k => natAt bs (32 + 16 * k) 16
  let used := (List.range nr) ++ (List.range nw).map (· + 4)
  let bad := fun k => field (reg k) 127 96 ≠ 0 || field (reg k) 95 64 = 0 || field (reg k) 62 56 ≠ 0 || (bit (reg k) 63 && field (reg k) 55 20 ≠ 0)
  let mk := fun k => CardRegion.mk (if bit (reg k) 63 then 1 else 0) (field (reg k) 55 0) (field (reg k) 95 64)
  if h / 2 ^ 8 ≠ 0 ∨ 4 < nr ∨ 2 < nw ∨ used.any bad = true then none
  else some ((List.range nr).map mk, (List.range nw).map (fun k => mk (k + 4)))

/-! ## Queueing a command -/

/-- A command of the checked-out group before its kind's own fields are set. -/
def State.newJob (s : State) (kind : JobKind) : Job :=
  { id := s.nextId, gid := s.grp.gid, tid := s.thr.key.tid, lid := s.lau.lid, pid := s.part.pid, phase := s.grp.phases, kind := kind,
    reads := [], writes := [], guard := none, freed := true, moved := false, foDone := true, fo := none, count := none, bytes := 0,
    nbv := s.lau.nbv, seqr := none, parked := none, packets := [], cast := [], failed := none }

/-- Whether a guard slot is resolved, and how. -/
def Group.slot (g : Group) (i : Nat) : GuardSlot := if h : i < 16 then g.guards[i] else .never

/-- Queue a command, numbered `nextId`, its follow-on taking the next number (R186, R188): one on a false slot is discarded
at once, one on an unresolved slot waits. -/
def State.enqueue (j : Job) (s : State) : State :=
  let s1 := { s with nextId := s.nextId + 2 }
  match j.guard.map s.grp.slot with
  | some .no => s1
  | some .yes => { s1 with core := { s1.core with jobs := s1.core.jobs ++ [j] } }
  | some _ => { s1 with core := { s1.core with jobs := s1.core.jobs ++ [{ j with freed := false }] } }
  | none => { s1 with core := { s1.core with jobs := s1.core.jobs ++ [j] } }

/-- Whether the core's queue is full (R193). -/
def Core.full (c : Core) : Bool := decide (32 ≤ c.jobs.length)

/-- Issue a command of the checked-out thread: a full queue is waited for (R193), the lowest refusal is taken (R191), and the
command is a release at cluster scope (R149). -/
def State.command (op : BitVec 8) (codes : List Nat) (j : Job) (s : State) : Except Stop State :=
  match lowest codes with
  | some c => .error (refuse op c)
  | none =>
    if s.core.full then .error (.wait .engine)
    else match s.release 2 with
      | .error st => .error st
      | .ok s1 => .ok (s1.enqueue j)

/-- Whether a scratchpad range lies outside the checked-out group's allocation. -/
def State.outside (s : State) (off n : Nat) : Bool := decide (s.grp.scratchSize < off + n)

/-- A sync word in the scratchpad that is outside the allocation or not aligned (code 0x06). -/
def State.badWord (s : State) (off : Nat) : Bool := off % 16 ≠ 0 || s.outside off 16

/-- The sync word offset a d operand names: none for zr. -/
def State.countWord (s : State) (e : Enc) : Option Nat := if code e e.d = 0xFF then none else some (s.opD e 1)

/-- Uniform registers kN, kN+1, … named by a c operand; none where they leave k0 to k31. -/
def State.block (s : State) (c : BitVec 8) (n : Nat) : Option (List Word) :=
  let i := c.toNat - 0xD0
  if isK c && decide (i + n ≤ 32) then some ((List.range n).map (fun j => s.uniform (i + j))) else none

/-! ## Once for a split (R190), and the ticket log (R124, R194) -/

/-- Perform once for the threads of a split that issue together (R190). -/
def State.once (op pair : Nat) (f : State → State) (s : State) : State :=
  let k := (op, s.grp.gid, s.thr.key.tid / 32, s.thr.pc, pair)
  if s.cycOnce.contains k then s else { f s with cycOnce := k :: (f s).cycOnce }

/-- The value a re-run receives from the ticket log (R124). -/
def State.loggedTicket (s : State) : Option Word := if s.grp.attempt ≠ 0 then s.grp.ticketReplay.head? else none

/-- Before a claim or grant is logged: the 17th ticket of a phase, those still under way counted, commits it early (R124). -/
def State.ticketRoom (s : State) : Except Stop State :=
  if s.grp.tickets.length + (s.tickets.filter (fun t => t.t.gid = s.grp.gid)).length ≥ 16 then s.commitEarly else .ok s

/-- Enter a ticket in the group's log (R124). -/
def State.logTicket (v : Word) (s : State) : State :=
  { s with grp := { s.grp with tickets := s.grp.tickets ++ [v], ticketReplay := s.grp.ticketReplay.drop 1 } }

/-! ## Waiting threads of a core -/

/-- A change of the core's resources: threads of its groups waiting for one issue again, and the stall count of the others starts anew (R112). -/
def State.retryCore (s : State) : State :=
  let gids := s.coreGids
  s.mapThreads (fun t => if !gids.contains t.key.gid then t else match t.status with
    | .waiting .resource => t.retry s.dev.clk
    | .waiting .engine => t.retry s.dev.clk
    | .waiting (.aswap _ _) => { t with waitSince := s.dev.clk, waited := 0 }
    | _ => t)

/-- A thread whose wait in `aswap` may end: nothing but a stall trap has fallen due in it. -/
def Thread.swapWaits (t : Thread) : Option (Nat × Nat) :=
  match t.status with
  | .waiting (.aswap p bound) => if t.due.all (fun d => d.1 = 8) then .some (p, bound) else .none
  | _ => .none

/-- Threads waiting in `aswap` for a pair that has become quiescent: one takes a Faulted pair's trap, else the banks are exchanged once for each
split (R181, R182, R190). -/
def serveSwaps : Nat → State → State
  | 0, s => s
  | n + 1, s =>
    let gids := s.coreGids
    match s.allThreads.find? (fun t => gids.contains t.key.gid && t.swapWaits.any (fun w => s.quiescent w.1 w.2)) with
    | none => s
    | some t =>
      match t.swapWaits with
      | none => s
      | some (p, bound) =>
        match (s.core.pair p).fault with
        | some f =>
          serveSwaps n (State.updThread t.key (fun t => { t with due := some f }) { s with core := s.core.updPair p (fun q => { q with fault := none }) })
        | none =>
          let same := fun (u : Thread) => u.key.gid = t.key.gid && u.key.tid / 32 = t.key.tid / 32 && u.pc = t.pc && u.swapWaits = some (p, bound)
          serveSwaps n ((s.swapPair t.key.gid p).mapThreads (fun u => if same u then u.wake s.dev.clk else u))

/-- Whether a command of a group's sequencer is still queued, on whichever core (R189). -/
def State.seqrBusy (gid sq : Nat) (s : State) : Bool := s.allCores.any (fun c => c.jobs.any (fun j => j.gid = gid && (j.seqr.map Prod.fst) = some sq))

/-- Threads waiting in `rdv` whose sequencer has stopped with every job done issue again (R206). -/
def State.retryRdv (s : State) : State :=
  let gids := s.coreGids
  s.mapThreads (fun t => match t.status with
    | .waiting (.rdv sq) =>
      if gids.contains t.key.gid && (s.core.seqrs.getD sq Sequencer.free).stopped && !s.seqrBusy t.key.gid sq then t.retry s.dev.clk else t
    | _ => t)

/-- After the queue, the pairs or the sequencers of the checked-out core have changed. -/
def State.coreChanged (s : State) : State := (serveSwaps s.allThreads.length s).retryCore.retryRdv

end Sys2Proof.Machine
end

