-- ==== Sys2Proof/Machine/Matrix.lean ====
section
/-!
DEFINITION. Matrix array instructions, opcodes 0xA0 to 0xA9 (13 R190 to R201; 12 R176 to R182).
-/
namespace Sys2Proof.Machine
open Sys2Proof Bits Encoding

/-! ## acca, accf (R194, R195) -/

/-- Whether pairs `p` to `p + n - 1` are Free (R182: a pair that a store still holds is not). -/
def Core.runFree (c : Core) (p n : Nat) : Bool :=
  (List.range n).all (fun i => (c.pair (p + i)).owner = 0 && (c.pair (p + i)).holds.isEmpty && decide (p + i < 8))

/-- The run that an `acca` of `n` pairs of the checked-out group receives now, as the number it writes and the first pair: the lowest; in a re-run
the logged one, which an auditor's re-run maps onto the lowest run of its own core (R194). -/
def State.accaRun (s : State) (n : Nat) : Option (Nat × Nat) :=
  let low := (List.range 8).find? (fun p => s.core.runFree p n)
  match s.loggedTicket with
  | some v =>
    if s.grp.shadow ≠ 0 then low.map (fun p => (v.toNat, p)) else if s.core.runFree v.toNat n then some (v.toNat, v.toNat) else none
  | none => low.map (fun p => (p, p))

/-- Grant pairs `p` to `p + n - 1` to the checked-out group as numbers `v` on: banks zero, SAT clear, and the number logged (R194). -/
def State.grantPairs (v p n : Nat) (s : State) : State :=
  let s1 := (List.range n).foldl (fun s i => s.writePair s.grp.gid (p + i) true true (fun _ => { AccPair.free with owner := s.grp.gid })) s
  let map := if s.grp.shadow = 0 then s.grp.pairMap else (List.range n).foldl (fun m i => Bits.insert (v + i) (p + i) m) s.grp.pairMap
  (({ s1 with grp := { s1.grp with pairMap := map } } : State).logTicket (BitVec.ofNat 32 v)).changedSince s.core

/-- Whether an `acca` of `n` pairs could ever be served (R194). -/
def State.accaServable (s : State) (n : Nat) : Bool :=
  decide (1 ≤ n) && decide (n ≤ 8)
    && (List.range (9 - n)).any (fun p => (List.range n).all (fun i => !s.core.holdsPair s.grp.gid (s.grp.pairNo (p + i))))

/-- `acca` (R194): granted at once where nobody waits before it and a run is free, else in arrival order. An auditor's re-run that has no logged
number left differs from its original. -/
def bodyAcca (e : Enc) (s : State) : Except Stop State :=
  let n := s.op1 e 1
  if !s.accaServable n then .error (refuse e.op 0xD)
  else if s.grp.shadow ≠ 0 ∧ s.loggedTicket = none then .error .abort else
  match s.core.accaQ, s.accaRun n with
  | [], some (v, p) => s.ticketRoom.map (fun s => (s.grantPairs v p n).putM e 1 v)
  | _, _ => .ok { s with core := { s.core with accaQ := s.core.accaQ ++ [s.thr.key] },
                         thr := { s.thr with status := .waiting (.acca n e.d), waitSince := s.dev.clk } }

/-- The pair that an operand names, held by the group and not Faulted (codes 0x01; R182). -/
def State.thePair (op : BitVec 8) (p : Nat) (s : State) : Except Stop Unit :=
  if !s.core.holdsPair s.grp.gid p then .error (refuse op 1)
  else match s.core.faulted [p] with
    | some st => .error st
    | none => .ok ()

/-- `accf` (R195), once for a split. -/
def bodyAccf (e : Enc) (s : State) : Except Stop State :=
  let p := s.grp.pairNo (s.op1 e 1)
  if s.cycOnce.contains (0xA1, s.grp.gid, s.thr.key.tid / 32, s.thr.pc, p) then .ok s else
  match s.thePair e.op p with
  | .error st => .error st
  | .ok _ =>
    if !s.quiescent p s.nextId then .error (.wait .engine)
    else .ok (s.once 0xA1 p (fun s => s.writePair s.grp.gid p false false (fun q => { q with released := true })))

/-! ## mload, rowld (R196) -/

/-- Fields of `mload` and `rowld` (Table 13.3): destination, format, units loaded, and the source space. -/
def loadShape (e : Enc) : SideSpace × Nat × Nat × Bool :=
  let m := e.m.toNat
  if e.op = 0xA2 then (.macro_ (field m 2 0), field m 4 3, colCount (field m 4 3), bit m 5)
  else (.rowbuf, field m 7 6, field m 4 0 + 1, bit m 5)

/-- Claim refusal of a tile destination (R176): 0x03 for a macro, 0x05 for the row buffer. -/
def Proj.claimCodes (p : Proj) (dst : SideSpace) (gid : Nat) : List Nat :=
  match dst with
  | .macro_ m => let c := (p.macros.getD m (none, 0)).2; if c = 0 ∨ c = gid then [] else [3]
  | .rowbuf => if p.row.2 = 0 ∨ p.row.2 = gid then [] else [5]
  | _ => []

/-- Regions of a tile destination: rows of the row buffer, or a macro (R187). -/
def tileRegion (dst : SideSpace) (lo n : Nat) : CardRegion :=
  match dst with
  | .macro_ m => ⟨3, m, 1⟩
  | _ => ⟨2, lo, n⟩

/-- `mload` and `rowld`: a copy-engine job with an implicit card. -/
def bodyLoadTile (e : Enc) (s : State) : Except Stop State :=
  let (dst, fmt, n, sp) := loadShape e
  let cb := colBytes fmt
  let stride := s.opC e 1
  let base := if sp then s.opA e 1 else s.opA e 2
  let zpv := if e.b = 0xFF then none else some (s.opB e 1)
  let span := (n - 1) * stride + cb
  let word := s.countWord e
  let codes := s.projected.claimCodes dst s.grp.gid
    ++ (if (sp && s.outside base span) || (word.map s.badWord).getD false || (zpv.map (fun o => s.outside o n)).getD false then [6] else [])
    ++ (if stride < cb || stride % 4 ≠ 0 then [0xA] else [])
    ++ (if 2 ≤ fmt && zpv.isSome then [0xE] else [])
  let src : Side := ⟨if sp then .scratch else .global, base, 0, stride, 0, 0⟩
  let to_ : Side := ⟨dst, 0, 0, cb, 0, 0⟩
  let j := s.newJob (.copy src to_ cb n 1 1 fmt zpv true)
  let reads := ⟨if sp then 1 else 0, base, span⟩ :: (zpv.map (fun o => (⟨1, o, n⟩ : CardRegion))).toList
  s.command e.op codes { j with reads := reads, writes := [tileRegion dst 0 32], count := word, bytes := n * cb }

/-! ## hada, mmac, accz (R197 to R199) -/

/-- `hada` (R197). -/
def bodyHada (e : Enc) (s : State) : Except Stop State :=
  let rows := e.c.toNat + 1
  let p := s.projected.row
  let codes := (if !(p.1 = some 2 || p.1 = some 3) || !(p.2 = 0 || p.2 = s.grp.gid) then [5] else []) ++ (if 32 < rows then [0xA] else [])
  let j := s.newJob (.hada e.m.toNat rows)
  s.command e.op codes { j with reads := [⟨2, 0, rows⟩], writes := [⟨2, 0, rows⟩] }

/-- An `mmac` of the checked-out group. -/
def State.mmacJob (s : State) (acc mask rows : Nat) (zero : Bool) : Job :=
  { s.newJob (.mmac acc mask rows zero) with reads := ⟨2, 0, rows⟩ :: (maskList mask).map (fun m => ⟨3, m, 1⟩) }

/-- `mmac` (R198): the L form takes register, count and mask, the X form the literal of Table 12.3. -/
def bodyMmac (e : Enc) (s : State) : Except Stop State :=
  let x := decide (e.form = .x)
  let acc := if x then litAcc e.lit else s.opA e 1
  let mask := if x then litMask e.lit else e.m.toNat
  let rows := if x then litRows e.lit else e.c.toNat + 1
  let zero := x && litZero e.lit
  let p := s.projected
  let codes := mmacCodes s.core p s.grp acc mask zero
    ++ (if x && litBad e.lit then [9] else []) ++ (if 32 < rows then [0xA] else [])
  match codes, s.core.faulted (p.outPairs s.grp.pairNo acc mask) with
  | [], some st => .error st
  | _, _ => s.command e.op codes (s.mmacJob acc mask rows zero)

/-- `accz` (R199). -/
def bodyAccz (e : Enc) (s : State) : Except Stop State :=
  let p := s.grp.pairNo (s.op1 e 1)
  match s.thePair e.op p with
  | .error st => .error st
  | .ok _ => s.command e.op [] (s.newJob (.accz p (bit e.m.toNat 0)))

/-- `aswap` (R199), once for a split: at quiescence the banks are exchanged, else the thread waits for it. -/
def bodyAswap (e : Enc) (s : State) : Except Stop State :=
  let p := s.grp.pairNo (s.op1 e 1)
  match s.thePair e.op p with
  | .error st => .error st
  | .ok _ =>
    if s.quiescent p s.nextId then .ok (s.once 0xA6 p (fun s => s.swapPair s.grp.gid p))
    else .ok { s with thr := { s.thr with status := .waiting (.aswap p s.nextId), waitSince := s.dev.clk } }

/-! ## accrd, accst (R200, R201) -/

/-- The status word of a pair (R200). -/
def AccPair.statusWord (p : AccPair) : Nat := ofBool p.sat + 2 * p.visible.form + 8 * p.working.form

/-- `accrd` (R200). -/
def bodyAccrd (e : Enc) (s : State) : Except Stop State :=
  let p := s.grp.pairNo (s.opA e 1)
  match s.thePair e.op p with
  | .error st => .error st
  | .ok _ =>
    let q := s.core.pair p
    let i := s.opB e 1
    if field e.m.toNat 7 6 = 3 then .ok (s.later e (words 1 q.statusWord) 1 0 0 false false false true)
    else if 4095 < i then .error (misuse12 e.op)
    else
      let (v, f) := accRead e.t q.visible.form (q.visible.get i)
      .ok (s.later e (words (tw e.t) v) (tw e.t) f 0 false false false true)

/-- `accst` (R201): the visible bank is read at issue and Held. -/
def bodyAccst (e : Enc) (s : State) : Except Stop State :=
  let p := s.grp.pairNo (s.opA e 1)
  let t := e.t.toNat
  let sz := accstSize t
  let sp := bit e.m.toNat 0
  match s.block e.c 3 with
  | none => .error (refuse e.op (if !s.core.holdsPair s.grp.gid p then 1 else if ((s.countWord e).map s.badWord).getD false then 6 else 0xA))
  | some ws =>
    let w := fun i => (ws.getD i 0).toNat
    let rows := field (w 1) 4 0 + 1
    let cols := field (w 1) 14 8 + 1
    let scale := if bit (w 2) 20 then some (field (w 2) 19 0) else none
    let base := if sp then s.opB e 1 else s.opB e 2
    let span := (rows - 1) * w 0 + cols * sz
    let word := s.countWord e
    let codes := (if s.core.holdsPair s.grp.gid p then [] else [1])
      ++ (if (sp && s.outside base span) || (word.map s.badWord).getD false
            || (scale.map (fun o => o % 4 ≠ 0 || s.outside o (4 * cols))).getD false then [6] else [])
      ++ (if w 0 % sz ≠ 0 || base % sz ≠ 0 || field (w 1) 31 15 ≠ 0 || field (w 1) 7 5 ≠ 0 || field (w 2) 31 21 ≠ 0 then [0xA] else [])
      ++ (if t = 5 && scale.isNone then [0xE] else [])
    match codes, s.core.faulted [p] with
    | [], some st => .error st
    | _, _ =>
      let j := s.newJob (.accst p t base sp (w 0) rows cols scale (s.core.pair p).visible)
      let j1 := { j with reads := (scale.map (fun o => (⟨1, o, 4 * cols⟩ : CardRegion))).toList,
                         writes := [⟨if sp then 1 else 0, base, span⟩], count := word, bytes := rows * cols * sz }
      match s.command e.op codes j1 with
      | .error st => .error st
      | .ok s1 => .ok { s1 with core := s1.core.updPair p (fun q => { q with holds := q.holds ++ [j.id] }) }

/-- ACCA -/
def execAcca (e : LX) (s : State) : Outcome := s.issue false bodyAcca (e.enc 0xA0)
/-- ACCF -/
def execAccf (e : LX) (s : State) : Outcome := s.issue false bodyAccf (e.enc 0xA1)
/-- MLOAD -/
def execMload (e : LX) (s : State) : Outcome := s.issue false bodyLoadTile (e.encL 0xA2)
/-- ROWLD -/
def execRowld (e : LX) (s : State) : Outcome := s.issue false bodyLoadTile (e.encL 0xA3)
/-- HADA -/
def execHada (e : LX) (s : State) : Outcome := s.issue false bodyHada (e.encL 0xA4)
/-- MMAC -/
def execMmac (e : LX) (s : State) : Outcome := s.issue false bodyMmac (e.enc 0xA5)
/-- ASWAP -/
def execAswap (e : LX) (s : State) : Outcome := s.issue false bodyAswap (e.enc 0xA6)
/-- ACCRD -/
def execAccrd (e : LX) (s : State) : Outcome := s.issue false bodyAccrd (e.encL 0xA7)
/-- ACCST -/
def execAccst (e : LX) (s : State) : Outcome := s.issue false bodyAccst (e.encL 0xA8)
/-- ACCZ -/
def execAccz (e : LX) (s : State) : Outcome := s.issue false bodyAccz (e.enc 0xA9)

end Sys2Proof.Machine
end

