-- ==== Sys2Proof/Machine/Copy.lean ====
section
/-!
DEFINITION. Copy and gather engine commands, sequencers and guard slots, opcodes 0xB0 to 0xB4 (12 R183 to R189; 13 R202 to R207).
-/
namespace Sys2Proof.Machine
open Sys2Proof Bits Encoding

/-! ## Shape records and the copy block (R183, R202) -/

/-- A side of a transfer from three words of a block (Table 13.5); `base` is added for a global side. -/
def sideOf (space : SideSpace) (w0 w1 w2 : Word) (base : Nat) : Side :=
  { space := space, base := base + field w0.toNat 19 0, mode := field w0.toNat 23 20,
    s0 := field w0.toNat 31 24 + 2 ^ 8 * field w1.toNat 15 0, s1 := field w1.toNat 31 16 + 2 ^ 16 * field w2.toNat 7 0, s2 := field w2.toNat 31 8 }

/-- Offset of the last byte of a box from its base. -/
def Side.top (d : Side) (e0 e1 e2 e3 : Nat) : Nat := (e0 - 1) + (e1 - 1) * d.s0 + (e2 - 1) * d.s1 + (e3 - 1) * d.s2

/-- Bytes of a tile's image. -/
def imageBytes (dst : SideSpace) (fmt : Nat) : Nat := match dst with | .rowbuf => 32 * rowBytes fmt | _ => 32768

/-- The region of one side of a box (R187); a swizzled scratchpad side covers whole 256-byte blocks (R133). -/
def Side.region (d : Side) (fmt top : Nat) : CardRegion :=
  match d.space with
  | .global => ⟨0, d.base, top + 1⟩
  | .scratch => if d.mode = 0 then ⟨1, d.base, top + 1⟩ else ⟨1, d.base / 256 * 256, (d.base + top) / 256 * 256 + 256 - d.base / 256 * 256⟩
  | .macro_ m => ⟨3, m, 1⟩
  | .rowbuf => ⟨2, d.base / rowBytes fmt, (d.base + top) / rowBytes fmt + 1 - d.base / rowBytes fmt⟩

/-- The control word kN+8 of a block: guard slot and sync word. -/
def ctlGuard (w : Word) : Option Nat := if w.getLsbD 25 then some (field w.toNat 24 21) else none
/-- Sync word that counts the job's bytes. -/
def ctlCount (w : Word) : Option Nat := if w.getLsbD 20 then some (field w.toNat 19 0) else none

/-- An explicit card named by word kN+9: refusal codes and regions (R187, codes 0x06 and 0x08). -/
def State.cardCodes (s : State) (w : Word) : List Nat × List CardRegion × List CardRegion :=
  if !w.getLsbD 20 then ([], [], []) else
  let o := field w.toNat 19 0
  if o % 128 ≠ 0 || s.outside o 128 then ([6], [], [])
  else match cardOf (Mem.read s.grp.scratch o 128) with
    | none => ([8], [], [])
    | some (r, w) => ([], r, w)

/-- What `xcopy` asks for (R202, R203): the refusal codes, and the command. A format that differs from the one the row buffer will have pads every
row of it, so all of them are written (R187, R203). -/
def State.planCopy (s : State) (m srcBase dstBase : Nat) (ws : List Word) (fo : Option Word) : List Nat × Job :=
  let w := fun i => ws.getD i 0
  let kind := field m 1 0
  let fmt := field m 7 6
  let sp := bit m 2
  let dsp : SideSpace := match kind with | 0 => .global | 1 => .scratch | 2 => .macro_ (field m 5 3) | _ => .rowbuf
  let src := sideOf (if sp then .scratch else .global) (w 0) (w 1) (w 2) (if sp then 0 else srcBase)
  let dst := sideOf dsp (w 3) (w 4) (w 5) (if kind = 0 then dstBase else 0)
  let e0 := field (w 6).toNat 15 0
  let e1 := field (w 6).toNat 31 16
  let e2 := field (w 7).toNat 15 0
  let e3 := field (w 7).toNat 31 16
  let nb := e0 * e1 * e2 * e3
  let st := src.top e0 e1 e2 e3
  let dt := dst.top e0 e1 e2 e3
  let off3 := field (w 3).toNat 19 0
  let (cc, cr, cw) := s.cardCodes (w 9)
  let p := s.projected
  let repad := decide (kind = 3) && decide (p.row.1 ≠ some fmt)
  let foCodes := match fo with
    | none => []
    | some l => (if kind < 2 || litBad l then [9] else []) ++
        (if kind < 2 then [] else mmacCodes s.core (p.load dsp fmt s.grp.gid) s.grp (litAcc l) (litMask l) (litZero l))
  let codes := cc ++ foCodes ++ p.claimCodes dsp s.grp.gid
    ++ (if (sp && s.outside src.base (st + 1)) || (kind = 1 && s.outside dst.base (dt + 1)) || ((ctlCount (w 8)).map s.badWord).getD false then [6] else [])
    ++ (if 8 < src.mode || 8 < dst.mode || (!sp && src.mode ≠ 0) || (kind ≠ 1 && dst.mode ≠ 0) then [7] else [])
    ++ (if e0 = 0 || e1 = 0 || e2 = 0 || e3 = 0 || decide (2 ^ 32 ≤ nb) || (!sp && field (w 0).toNat 19 0 ≠ 0) || (kind = 0 && off3 ≠ 0)
          || (2 ≤ kind && decide (imageBytes dsp fmt < dst.base + dt + 1)) || field (w 8).toNat 31 26 ≠ 0 || field (w 9).toNat 31 21 ≠ 0 then [0xA] else [])
  let j := s.newJob (.copy src dst e0 e1 e2 e3 fmt none false)
  (codes, { j with reads := src.region fmt st :: cr, writes := (if repad then ⟨2, 0, 32⟩ else dst.region fmt dt) :: cw, guard := ctlGuard (w 8), fo := fo,
                   foDone := fo.isNone, count := ctlCount (w 8), bytes := nb })

/-- `xcopy` (R203): the X form carries a follow-on. A c operand that names no block is refused with 0x0A, or a lower code that does not read it. -/
def bodyXcopy (e : Enc) (s : State) : Except Stop State :=
  let fo := if e.form = .x then some e.lit else none
  match s.block e.c 10 with
  | none => .error (refuse e.op ((lowest (0xA :: (s.planCopy e.m.toNat 0 0 [] fo).1.filter (· ≠ 6))).getD 0xA))
  | some ws =>
    let (codes, j) := s.planCopy e.m.toNat (s.opA e 2) (s.opD e 2) ws fo
    s.command e.op codes j

/-- What `xgath` asks for (R184, R204). -/
def State.planGather (s : State) (table dst : Nat) (ws : List Word) : List Nat × Job :=
  let w := fun i => ws.getD i 0
  let list := field (w 0).toNat 19 0
  let n := field (w 1).toNat 7 0 + 1
  let rb := field (w 1).toNat 20 8
  let codes := (if list % 4 ≠ 0 || s.outside list (4 * n) || s.outside dst (n * rb) || ((ctlCount (w 3)).map s.badWord).getD false then [6] else [])
    ++ (if rb % 4 ≠ 0 || rb < 4 || 4096 < rb || field (w 1).toNat 31 21 ≠ 0 || field (w 0).toNat 31 20 ≠ 0 || field (w 3).toNat 31 26 ≠ 0 then [0xA] else [])
  let j := s.newJob (.gather table (w 2).toNat rb n list dst)
  (codes, { j with reads := [⟨1, list, 4 * n⟩, ⟨0, table, 2 ^ 56 - table⟩], writes := [⟨1, dst, n * rb⟩], guard := ctlGuard (w 3),
                   count := ctlCount (w 3), bytes := n * rb })

/-- `xgath` (R204). -/
def bodyXgath (e : Enc) (s : State) : Except Stop State :=
  match s.block e.c 4 with
  | none => .error (refuse e.op 0xA)
  | some ws => let (codes, j) := s.planGather (s.opA e 2) (s.opD e 1) ws; s.command e.op codes j

/-! ## fork, rdv (R205, R206) -/

/-- The lowest free sequencer of the checked-out core. -/
def Core.freeSeqr (c : Core) : Option Nat := (List.range 4).find? (fun i => (c.seqrs.getD i Sequencer.free).gid = 0)

/-- Start sequencer `sq` on a list for the checked-out thread. -/
def State.startSeqr (sq list : Nat) (s : State) : State :=
  let q : Sequencer := { gid := s.grp.gid, tid := s.thr.key.tid, list := list, idx := 0, stopped := false, status := 0 }
  ({ s with core := { s.core with seqrs := s.core.seqrs.set sq q } } : State).changedSince s.core

/-- `fork` (R205): a release at cluster scope, as every command it will issue is (R149); a free sequencer is taken at once where nobody waits before
it. -/
def bodyFork (e : Enc) (s0 : State) : Except Stop State :=
  let list := s0.op1 e 1
  if list % 128 ≠ 0 || s0.outside list 128 then .error (refuse e.op 6) else
  match s0.release 2 with
  | .error st => .error st
  | .ok s =>
  match s.core.forkQ, s.core.freeSeqr with
  | [], some sq => .ok ((s.startSeqr sq list).putM e 1 sq)
  | _, _ => .ok { s with core := { s.core with forkQ := s.core.forkQ ++ [s.thr.key] },
                         thr := { s.thr with status := .waiting (.fork list e.d), waitSince := s.dev.clk } }

/-- `rdv` (R206). -/
def bodyRdv (e : Enc) (s : State) : Except Stop State :=
  let sq := s.opA e 1
  let q := s.core.seqrs.getD sq Sequencer.free
  if 4 ≤ sq || q.gid ≠ s.grp.gid then .error (refuse e.op 0xB)
  else if s.allCores.any (fun c => c.jobs.any (fun j => j.gid = s.grp.gid && (j.seqr.map Prod.fst) = some sq && !j.freed)) then .error (refuse e.op 0xC)
  else if q.stopped && !s.seqrBusy s.grp.gid sq then
    .ok ((({ s with core := { s.core with seqrs := s.core.seqrs.set sq Sequencer.free } } : State).changedSince s.core).putM e 1 q.status.toNat)
  else .error (.wait (.rdv sq))

/-! ## gres (R207) -/

/-- Resolve guard slot `i` of the checked-out group: its commands waiting on it, on whichever core, run or are discarded (R188). -/
def State.resolve (i : Nat) (v : Bool) (s : State) : State :=
  let slot := if v then GuardSlot.yes else GuardSlot.no
  let mine := fun (j : Job) => j.gid = s.grp.gid && j.guard = some i && !j.freed
  let s1 := if v then s.mapCores (fun c => { c with jobs := c.jobs.map (fun j => if mine j then { j with freed := true } else j) })
            else s.discardJobs mine
  let g := { s.grp with guards := Vector.ofFn (fun (k : Fin 16) => if k.val = i then slot else s.grp.guards[k]) }
  ({ s1 with grp := g } : State).coreChanged

/-- Whether a thread of the checked-out group with a lower sr.tid is still to issue, this cycle, a `gres` that resolves slot `i` (R207). -/
def State.gresAhead (i : Nat) (s : State) : Bool :=
  s.issueQ.any (fun q => q.1.gid = s.thr.key.gid && decide (q.1.tid < s.thr.key.tid) &&
    (match s.focus q.1 with
     | none => false
     | some u => u.thr.status = .ready && u.thr.pc = q.2 && u.thr.jobTrap.isNone &&
       (match u.fetchAddr with
        | .error _ => false
        | .ok x =>
          let w := fun i => BitVec.ofNat 32 (Mem.nat s.mem (x.key + 4 * i) 4)
          match ofWords (w 0) (w 1) 0 with
          | some e => e.op = 0xB4 && (u.illegalHere e).isNone && u.thr.guard e.g e.n && field e.m.toNat 3 0 = i && !bit e.m.toNat 4
          | none => false)))

/-- `gres` (R207): a slot resolves once, of one cycle by the lowest sr.tid; `.clr` makes it unresolved again. -/
def bodyGres (e : Enc) (s : State) : Except Stop State :=
  let i := field e.m.toNat 3 0
  if bit e.m.toNat 4 then
    .ok { s with grp := { s.grp with guards := Vector.ofFn (fun (k : Fin 16) => if k.val = i then .unresolved else s.grp.guards[k]) } }
  else match s.grp.slot i with
    | .yes => .ok s
    | .no => .ok s
    | _ => .ok (if s.gresAhead i then s else s.resolve i (s.thr.getQ e.c.toNat))

/-- XCOPY -/
def execXcopy (e : LX) (s : State) : Outcome := s.issue false bodyXcopy (e.enc 0xB0)
/-- XGATH -/
def execXgath (e : LX) (s : State) : Outcome := s.issue false bodyXgath (e.encL 0xB1)
/-- FORK -/
def execFork (e : LX) (s : State) : Outcome := s.issue false bodyFork (e.enc 0xB2)
/-- RDV -/
def execRdv (e : LX) (s : State) : Outcome := s.issue false bodyRdv (e.encL 0xB3)
/-- GRES -/
def execGres (e : LX) (s : State) : Outcome := s.issue false bodyGres (e.encL 0xB4)

end Sys2Proof.Machine
end

