-- ==== Sys2Proof/Machine/Fabric.lean ====
section
/-!
DEFINITION. Bulk transfer, remote regions and router reduction, opcodes 0xB8 to 0xBB (20 R293 to R298).
-/
namespace Sys2Proof.Machine
open Sys2Proof Bits Encoding

/-! ## xfer (R293) -/

/-- What `xfer` asks for (Table 20.2). -/
def State.planXfer (s : State) (sp : Bool) (ws : List Word) : List Nat × Job :=
  let w := fun i => (ws.getD i 0).toNat
  let src := if sp then field (w 0) 19 0 else w 0 + 2 ^ 32 * w 1
  let dst := w 2 + 2 ^ 32 * w 3
  let length := w 4
  let arrival := w 6 + 2 ^ 32 * w 7
  let ctl := ws.getD 5 0
  let codes := (if (sp && s.outside src length) || ((ctlCount ctl).map s.badWord).getD false then [6] else [])
    ++ (if (sp && (w 1 ≠ 0 || field (w 0) 31 20 ≠ 0)) || length = 0 || decide (2 ^ 30 < length) || field (w 5) 31 26 ≠ 0 || arrival % 16 ≠ 0 then [0xA] else [])
  let j := s.newJob (.xfer sp src dst length arrival)
  (codes, { j with reads := [⟨if sp then 1 else 0, src, length⟩], writes := [⟨0, dst, length⟩], guard := ctlGuard ctl, count := ctlCount ctl,
                   bytes := length })

/-- `xfer` (R293): published, so a re-run sends nothing and its job counts the length once the first run's transfer is over; an auditor's re-run
captures the bytes instead of sending them. -/
def bodyXfer (e : Enc) (s : State) : Except Stop State :=
  let k := e.c.toNat - 0xD0
  match s.block e.c 8 with
  | none => .error (refuse e.op 0xA)
  | some ws =>
    let (own, j) := s.planXfer (bit e.m.toNat 0) ws
    let codes := own ++ (if k % 2 ≠ 0 then [0xA] else [])
    match s.command e.op codes j with
    | .error st => .error st
    | .ok _ =>
      match s.publish (pubOp e) (j.writes.headD ⟨0, 0, 0⟩).base ws (fun s => .ok ([], s)) with
      | .error st => .error st
      | .ok ([], s1) =>
        let s2 := { s1 with grp := { s1.grp with log := s1.grp.log.dropLast ++ (s1.grp.log.getLast?.map (fun (p : PubEntry) => { p with ret := [1] })).toList } }
        s2.command e.op [] { j with id := s2.nextId }
      | .ok (_, s1) =>
        let j1 := { j with id := s1.nextId }
        s1.command e.op [] (if s1.grp.shadow ≠ 0 then j1 else { j1 with moved := true, reads := [] })

/-! ## fbegin, fcommit (R294 to R296) -/

/-- `fbegin` (R294). -/
def bodyFbegin (e : Enc) (s : State) : Except Stop State :=
  if s.thr.region.isSome then .error (misuse12 e.op) else
  let mask := e.c.toNat + 2 ^ 8 * e.m.toNat
  let regs := ((List.range 16).filter (fun i => bit mask i)).map (fun i => (e.d.toNat + i, s.thr.get (BitVec.ofNat 8 (e.d.toNat + i))))
  let target := (s.thr.pc - BitVec.ofNat 48 (len e)) + BitVec.ofInt 48 (4 * branchOff e)
  .ok { s with thr := { s.thr with region := some { saved := regs, target := target, failed := 0, acks := [], sent := false, since := 0 } } }

/-- Restore saved registers. -/
def Thread.restoreRegs (t : Thread) (saved : List (Nat × Word)) : Thread := saved.foldl (fun t p => t.put1 p.1 p.2) t

/-- End the checked-out thread's region with a status of Table 20.3: on failure the saved registers are restored, a0 takes the
status, and the thread goes to the failure target (R296). -/
def State.endRegion (status : Nat) (s : State) : State :=
  let t := s.thr
  let s1 := { s with core := { s.core with comb := s.core.comb.filter (fun b => b.t ≠ t.key) }, locks := s.locks.filter (fun l => l.2 ≠ t.key) }
  match t.region with
  | none => s1
  | some r =>
    if status = 0 then { s1 with thr := { t with region := none } }
    else { s1 with thr := { (t.restoreRegs r.saved).put1 4 (BitVec.ofNat 32 status) with region := none, pc := r.target } }

/-- Devices with a held sector of the checked-out thread's region. -/
def State.regionDests (s : State) : List Nat := ((s.core.comb.filter (fun b => b.t = s.thr.key)).map CombEntry.dev).dedup

/-- `fcommit` (R296): a re-run takes the outcome from the log; a region that has failed or holds nothing ends at once; else the
thread waits while its two phases run. -/
def bodyFcommit (e : Enc) (s : State) : Except Stop State :=
  match s.thr.region with
  | none => .error (misuse12 e.op)
  | some r =>
    if s.grp.attempt ≠ 0 then
      match s.publish fcommitOp 0 [] (fun s => .ok ([], s)) with
      | .error st => .error st
      | .ok (ret, s1) => .ok (s1.endRegion (ret.getD 0 0).toNat)
    else if r.failed ≠ 0 then .ok ((s.endRegion r.failed).logDone s.thr.key.tid fcommitOp 0 [] [BitVec.ofNat 32 r.failed])
    else if s.regionDests.isEmpty then .ok ((s.endRegion 0).logDone s.thr.key.tid fcommitOp 0 [] [0])
    else .ok { s with thr := { s.thr with status := .waiting .fcommit, waitSince := s.dev.clk, region := some { r with since := s.now } } }

/-! ## fred (R297, R298) -/

/-- Types a reduction accepts (Table 20.4). -/
def fredType (t : Nat) : Bool := (1 ≤ t && t ≤ 4) || t = 7 || t = 8 || t = 9

/-- Translate an address of `fred` at issue, as a load would; the page must admit a write, which its entry records (R127, R297). -/
def State.fredMap (va : Nat) (s : State) : Except Stop (Xlat × State) :=
  match s.checkMap { va := va, size := 1, write := true, classes := [0, 2], prot13 := false } with
  | .error (.park page 1) => .error (.park page 0)
  | .error st => .error st
  | .ok x => .ok (x, s.touch va true x)

/-- The parts of a destination range of at most 64 KiB: one for each page it touches, the first page's first (R297). -/
def State.fredParts (va n : Nat) (s : State) : Except Stop (List (Nat × Nat) × State) :=
  let m := min n (2 ^ 16 - va % 2 ^ 16)
  match s.fredMap va with
  | .error st => .error st
  | .ok (x, s1) =>
    if m = n then .ok ([(x.key, n)], s1) else
    match s1.fredMap (va + m) with
    | .error st => .error st
    | .ok (y, s2) => .ok ([(x.key, m), (y.key, n - m)], s2)

/-- The checked-out thread waits for the status of its contribution, unless it asks for none (R298). -/
def State.awaitFred (wants : Bool) (serial : Nat) (s : State) : State :=
  if wants then { s with thr := { s.thr with status := .waiting (.fred serial), waitSince := s.dev.clk } } else s

/-- `fred` (R297). -/
def bodyFred (e : Enc) (s : State) : Except Stop State :=
  match s.block e.c 6 with
  | none => .error (refuse e.op (if s.opA e 1 % 64 ≠ 0 then 6 else 0xA))
  | some ws =>
    let w := fun i => (ws.getD i 0).toNat
    let dst := w 0 + 2 ^ 32 * w 1
    let arrival := w 4 + 2 ^ 32 * w 5
    let count := field (w 2) 23 20
    let index := field (w 2) 19 16
    let length := 64 * (field (w 2) 9 0 + 1)
    let off := s.opA e 1
    let codes := (if off % 64 ≠ 0 || s.outside off length || dst % 64 ≠ 0 || arrival % 16 ≠ 0 then [6] else [])
      ++ (if 2 < field (w 2) 31 28 || !fredType (field (w 2) 27 24) || count = 0 || count < index || field (w 2) 15 10 ≠ 0 then [0xA] else [])
    match lowest codes with
    | some c => .error (refuse e.op c)
    | none =>
      match s.fredParts dst length with
      | .error st => .error st
      | .ok (parts, sp) =>
        match (if arrival = 0 then .ok (none, sp) else (sp.fredMap arrival).map (fun p => (some p.1.key, p.2))) with
        | .error st => .error st
        | .ok (word, sw) =>
          let home := devOf (parts.headD (0, 0)).1
          if (parts.map Prod.fst ++ word.toList).any (fun k => devOf k ≠ home) then .error (refuse e.op 0xA) else
          let wants := decide (code e e.d ≠ 0xFF)
          -- a re-run whose status has not arrived waits for it and sends nothing
          let old := if sw.grp.attempt = 0 then 0 else ((sw.grp.replay.find? (fun p => p.tid = sw.thr.key.tid)).map PubEntry.serial).getD 0
          let act := fun (s : State) =>
            let c : Contribution :=
              { serial := s.nextId, t := s.thr.key, wantsStatus := wants, dst := code e e.d, dev := home, parts := parts,
                arrival := word, op := field (w 2) 31 28, type_ := field (w 2) 27 24, count := count,
                index := index, length := length, id := ws.getD 3 0, view := s.grp.view, seq := s.grp.seq, nbv := s.lau.nbv,
                bytes := Mem.read s.grp.scratch off length }
            Except.ok ([], if old ≠ 0 then s.awaitFred wants old
                           else ({ s with nextId := s.nextId + 1, contributions := s.contributions ++ [c] } : State).awaitFred wants s.nextId)
          match sw.publish (pubOp e) dst ws act with
          | .error st => .error st
          | .ok ([], s1) =>
            .ok (if s1.grp.shadow ≠ 0 then s1 else s1.logSerial (if old ≠ 0 then old else s1.nextId - 1))
          | .ok (ret, s1) => .ok (s1.putM e 1 (ofWords ret))

/-- XFER -/
def execXfer (e : LX) (s : State) : Outcome := s.issue false bodyXfer (e.encL 0xB8)
/-- FBEGIN -/
def execFbegin (e : LX) (s : State) : Outcome := s.issue false bodyFbegin (e.encX 0xB9)
/-- FCOMMIT -/
def execFcommit (e : LX) (s : State) : Outcome := s.issue false bodyFcommit (e.encL 0xBA)
/-- FRED -/
def execFred (e : LX) (s : State) : Outcome := s.issue false bodyFred (e.encL 0xBB)

end Sys2Proof.Machine
end

