-- ==== Sys2Proof/Machine/CensusInstr.lean ====
section
/-!
DEFINITION. Directories and census, opcodes 0xDA to 0xDD (20 R299 to R306).
-/
namespace Sys2Proof.Machine
open Sys2Proof Bits Encoding

/-! ## Scope instances (R300) -/

/-- Key of the instance of a scope that a core belongs to: 0 cluster, 1 die, 2 device, 3 gang. -/
def instanceKey (scope core : Nat) : Nat := match scope with | 0 => core / 4 | 1 => 1000 + core / 48 | 2 => 2000 | _ => 3000

/-- Cores of an instance on one device. -/
def instanceCores (scope core : Nat) : List Nat :=
  match scope with
  | 0 => (List.range 4).map (fun i => core / 4 * 4 + i)
  | 1 => (List.range 48).map (fun i => core / 48 * 48 + i)
  | _ => List.range 192

/-- The device that numbers an instance's censuses: the first of the partition's fabric list for gang scope. -/
def State.rootDev (s : State) (scope : Nat) : Nat :=
  if scope = 3 then ((List.range 1024).findSome? s.part.fabricDev).getD s.grp.dev else s.grp.dev

/-- Number of the last census a core has processed in a scope, for the checked-out partition. -/
def Core.seenNo (c : Core) (pid scope : Nat) : Word := (lookup (4 * pid + scope) c.seen).getD 0

/-! ## solicit (R304) -/

/-- Members of a view, wherever its sequence is homed. -/
def State.viewMembers (s : State) (seq view : Word) : List Nat :=
  (firstSome (s.allDevs.map (fun d => (d.seqs.find? (fun q => q.id = seq)).bind (fun q =>
    (q.views.find? (fun v => v.num = view)).map View.members)))).getD []

/-- Start a census of the checked-out group (R300, R304): its number, or why none starts. -/
def State.startCensus (scope combine : Nat) (key : DWord) (buf word : Nat) (s : State) : Word × State :=
  if (s.censuses.filter (fun c => c.dev = s.core.dev && c.core = s.core.num)).length ≥ 16 then (0xFFFFFFFF, s)
  else if scope = 3 ∧ s.grp.view = 0xFFFFFFFF then (0xFFFFFFFE, s)
  else
    let root := s.rootDev scope
    let k := instanceKey scope s.core.num
    let n := (lookup k (s.part? root s.part.pid).censusNo).getD 0 + 1
    let devs := if scope = 3 then s.viewMembers s.grp.seq s.grp.view else [s.grp.dev]
    let todo := devs.flatMap (fun d => (instanceCores scope s.core.num).map (fun c => d * 192 + c))
    let (id, s1) := s.freshId
    let c : Census := { id := id, number := n, pid := s.part.pid, scope := scope, seq := s.grp.seq, view := s.grp.view, combine := combine,
                        key := key, dev := s.core.dev, core := s.core.num, gid := s.grp.gid, buf := buf, word := word, todo := todo,
                        spawned := 0, finished := 0, kept := 0, value := 0, first := (0, 0, 0), mobile := [], overflow := false }
    (n, { s1.updPart root s.part.pid (fun p => { p with censusNo := Bits.insert k n p.censusNo }) with censuses := s1.censuses ++ [c] })

/-- `solicit` (R304): the number comes back from the instance's root. -/
def bodySolicit (e : Enc) (s : State) : Except Stop State :=
  let m := e.m.toNat
  let buf := s.opB e 1
  let word := s.opC e 1
  if buf % 32 ≠ 0 || s.outside buf 32 || s.badWord word then .error (refuse e.op 6) else
  let key := BitVec.ofNat 64 (s.opA e 2)
  match s.publish (pubOp e) buf (words 2 key.toNat ++ words 1 word)
      (fun s => let (r, s1) := s.startCensus (field m 1 0) (field m 4 2) key buf word; .ok ([r], s1)) with
  | .error st => .error st
  | .ok (ret, s1) => .ok (s1.replyD e 1 (ofWords ret))

/-! ## dirput, dirdel (R302) -/

/-- The lowest Empty entry of the checked-out partition's directory. -/
def Core.dirFree (c : Core) (pid : Nat) : Option Nat := (List.range 256).find? (fun i => !(c.dirs.any (fun d => d.pid = pid && d.slot = i)))

/-- Put an entry image into the directory of the checked-out core: the four words of d. -/
def State.dirPut (img : List Byte) (s : State) : List Word × State :=
  let pid := s.part.pid
  let key := BitVec.ofNat 64 (natAt img 0 8)
  let serial := wordAt img 8
  if wordAt img 12 ≠ 0 then (List.replicate 4 0xFFFFFFFD, s)
  else if s.core.dirs.any (fun d => d.pid = pid && d.state = .live && d.key = key && d.serial = serial) then (List.replicate 4 0xFFFFFFFE, s)
  else match s.core.dirFree pid with
    | none => (List.replicate 4 0xFFFFFFFF, s)
    | some i =>
      let puts := (List.range 4).map (fun sc => s.core.seenNo pid sc + 1)
      let d : DirEntry := { pid := pid, slot := i, state := .live, key := key, serial := serial, descriptor := BitVec.ofNat 64 (natAt img 16 8),
                            record := BitVec.ofNat 64 (natAt img 24 8), puts := puts, thresholds := [] }
      (puts, { s with core := { s.core with dirs := s.core.dirs ++ [d] } })

/-- `dirput` (R302). -/
def bodyDirput (e : Enc) (s : State) : Except Stop State :=
  let off := s.opA e 1
  if off % 32 ≠ 0 || s.outside off 32 then .error (refuse e.op 6) else
  let img := Mem.read s.grp.scratch off 32
  match s.publish (pubOp e) off (words 8 (ofBytes img)) (fun s => .ok (s.dirPut img)) with
  | .error st => .error st
  | .ok (ret, s1) => .ok (s1.putM e 4 (ofWords ret))

/-- A ghost whose core has processed, in each scope, every census below its threshold is Empty again (Table 20.6). -/
def Core.dropGhosts (c : Core) : Core :=
  { c with dirs := c.dirs.filter (fun d => !(d.state = .ghost && (List.range 4).all (fun sc =>
      !((c.seenNo d.pid sc + 1) - d.thresholds.getD sc 0).msb))) }

/-- Take an entry out of the directory of the checked-out core: 0, or 1 where there is none. -/
def State.dirDel (key : DWord) (serial : Word) (thresholds : Option (List Word)) (s : State) : Word × State :=
  let hit := fun (d : DirEntry) => d.pid = s.part.pid && d.state = .live && d.key = key && d.serial = serial
  if !(s.core.dirs.any hit) then (1, s) else
  match thresholds with
  | none => (0, { s with core := { s.core with dirs := s.core.dirs.filter (fun d => !hit d) } })
  | some ts =>
    let dirs := s.core.dirs.map (fun d => if hit d then { d with state := .ghost, thresholds := ts } else d)
    (0, { s with core := ({ s.core with dirs := dirs } : Core).dropGhosts })

/-- `dirdel` (R302). -/
def bodyDirdel (e : Enc) (s : State) : Except Stop State :=
  let key := BitVec.ofNat 64 (s.opA e 2)
  let serial := BitVec.ofNat 32 (s.opC e 1)
  let ts := if e.b = 0xFF then none else some (words 4 (s.opB e 4))
  match s.publish (pubOp e) 0 (words 2 key.toNat ++ [serial] ++ ts.getD []) (fun s => let (r, s1) := s.dirDel key serial ts; .ok ([r], s1)) with
  | .error st => .error st
  | .ok (ret, s1) => .ok (s1.putM e 1 (ofWords ret))

/-! ## reply (R305) -/

/-- `reply` (R305): only a responder's group may. -/
def bodyReply (e : Enc) (s : State) : Except Stop State :=
  match s.lau.source with
  | .responder c serial dev core =>
    let v := BitVec.ofNat 64 (s.opA e 2)
    let act := fun (s : State) =>
      let r : Reply := { serial := s.nextId, census := c, value := v, entry := serial, dev := dev, core := core }
      Except.ok ([0], { s with nextId := s.nextId + 1, replies := s.replies ++ [r] })
    match s.publish (pubOp e) 0 (words 2 v.toNat) act with
    | .error st => .error st
    | .ok (_, s1) => .ok s1
  | _ => .error (misuse12 e.op)

/-- SOLICIT -/
def execSolicit (e : LX) (s : State) : Outcome := s.issue false bodySolicit (e.encL 0xDA)
/-- DIRPUT -/
def execDirput (e : LX) (s : State) : Outcome := s.issue false bodyDirput (e.encL 0xDB)
/-- DIRDEL -/
def execDirdel (e : LX) (s : State) : Outcome := s.issue false bodyDirdel (e.encL 0xDC)
/-- REPLY -/
def execReply (e : LX) (s : State) : Outcome := s.issue false bodyReply (e.encL 0xDD)

end Sys2Proof.Machine
end

