-- ==== Sys2Proof/Machine/Sync.lean ====
section
/-!
DEFINITION. Sync-word instructions, opcodes 0x82 to 0x86 (11 R167 to R172). Those on another device's word check
its state as they issue and act on it when they arrive there (DEDUCED, notes/assumptions/15.md).
-/
namespace Sys2Proof.Machine
open Sys2Proof Bits Encoding

/-- Whether the word is in global memory (Table 11.7). -/
def syncGlobal (e : Enc) : Bool := e.form ≠ .s && bit e.m.toNat 0

/-- A word that an instruction names: where it lies, its address, and its translation where it is another device's (R291). -/
structure SyncTarget where
  loc : SyncLoc
  addr : Nat
  away : Option Xlat
  deriving DecidableEq, Repr

/-- The word an instruction names, checked: alignment, then the allocation or the map (R156, R167, R291). -/
def State.syncPlace (e : Enc) (write : Bool) (s : State) : Except Stop (SyncTarget × State) :=
  if syncGlobal e then
    let va := s.opA e 2
    match s.check { va := va, size := 16, write := write, classes := [0, 2, 5], prot13 := false } with
    | .error st => .error st
    | .ok x =>
      if s.locked x.key || s.behind x.key then .error (.wait .resource)
      else if x.cls ≠ 2 && s.poisoned x.key 16 then .error (.consume 0x10)
      else match s.refusal x va with
        | some st => .error st
        | none => .ok (⟨.mem x.key, va, if x.cls = 2 then some x else none⟩, s.touch va write x)
  else
    let off := s.opA e 1
    match s.checkScratch off 16 with
    | .error st => .error st
    | .ok _ => .ok (⟨.scratch s.grp.gid off, off, none⟩, s)

/-- The word as the checked-out thread reads it: its group's staged bytes over memory (R144). -/
def State.seenWord (s : State) : SyncLoc → SyncWord
  | .scratch gid off => s.syncWord (.scratch gid off)
  | .mem key => SyncWord.ofBytes (s.groupBytes s.grp.gid key 16)

/-- Bytes that the group has staged in a range perform before one of its threads changes the range at its home (R143). -/
def State.landBytes (key n : Nat) (s : State) : State :=
  (s.performCells (s.grp.staged.filter (fun p => decide (key ≤ p.1) && decide (p.1 < key + n)))).unstage key n

/-- The same for a sync word. -/
def State.landWord (loc : SyncLoc) (s : State) : State :=
  match loc with
  | .mem key => s.landBytes key 16
  | .scratch _ _ => s

/-- Drop a line of the checked-out core's load cache, so that the thread's later loads see what it wrote (R142). -/
def State.dropLine (loc : SyncLoc) (s : State) : State :=
  match loc with
  | .mem key => { s with core := { s.core with lcache := s.core.lcache.filter (fun c => c.line ≠ key / 128) } }
  | .scratch _ _ => s

/-- Whether a thread waits on the word. -/
def State.hasWaiters (s : State) (loc : SyncLoc) : Bool := s.allThreads.any (fun t => t.waitsOn loc)

/-- A published operation on a global word: here it acts at once, and on another device's word it is sent (R146, R291). -/
def State.syncUpdate (e : Enc) (p : SyncTarget) (rel : Bool) (operand : List Word) (act : SyncAct) (here : State → State) (s : State) : Except Stop State :=
  match s.publishRule rel with
  | .error st => .error st
  | .ok s1 =>
    let go := fun (s : State) => match p.away with
      | some x => Except.ok ([], s.send (.sync act) x p.addr false false false false)
      | none => .ok ([0], (here s).addUnacked s.grp.dev 0)
    match s1.publish (pubOp e) p.addr operand go with
    | .error st => .error st
    | .ok ([], s2) => .ok s2.logSent
    | .ok (_, s2) => .ok s2

/-- `sinit` (R169). -/
def bodySinit (e : Enc) (s : State) : Except Stop State :=
  let m := e.m.toNat
  let bt := s.opB e 1
  let bar := bit m 2
  let c := if bar then 0 else s.opC e 1
  let tt := if bar then (s.liveThreads s.grp.gid).length else c % 2 ^ 16
  if 2 ^ 16 ≤ c ∨ (bt = 0 ∧ tt = 0) then .error (misuse12 e.op) else
  match s.syncPlace e true with
  | .error st => .error st
  | .ok (p, s1) =>
    let others := s1.grp.barriers.filter (fun o => o ≠ p.addr)
    if bar && (decide (16 ≤ others.length) || s1.hasWaiters p.loc || (s1.seenWord p.loc).tc ≠ 0) then .error (misuse12 e.op) else
    let attr : SyncAttr := ⟨bit m 1, bar, field m 5 3⟩
    let set := fun (s : State) => ((s.landWord p.loc).initSync p.loc bt tt attr).dropLine p.loc
    if syncGlobal e then s1.syncUpdate e p false [BitVec.ofNat 32 bt, BitVec.ofNat 32 tt] (.init bt tt attr) set else .ok (set s1)

/-- `sarrive` (R171): a release at the word's scope, then bytes and perhaps one arrival. -/
def bodySarrive (e : Enc) (s : State) : Except Stop State :=
  let bytes := if e.form = .s then 0 else s.opB e 1
  let arrival := e.form = .s || !bit e.m.toNat 1
  match s.syncPlace e true with
  | .error st => .error st
  | .ok (p, s1) =>
    if (arrival && (s1.seenWord p.loc).tt = 0) || (s1.syncAttr p.loc).bar then .error (misuse12 e.op) else
    let sc := s1.syncScope p.loc
    match s1.release sc with
    | .error st => .error st
    | .ok s2 =>
      let go := fun (s : State) => ((s.landWord p.loc).syncApply p.loc bytes arrival s.lau.lid).dropLine p.loc
      if syncGlobal e then s2.syncUpdate e p (2 ≤ sc) [BitVec.ofNat 32 bytes] (.arrive bytes arrival) go else .ok (go s2)

/-- Wait in place for a generation of a word (R171): the PC past the instruction is where the thread goes on. -/
def State.syncWait (loc : SyncLoc) (g : Word) (s : State) : State :=
  { s with thr := { s.thr with status := .waiting (.sync loc g), npc := s.thr.pc, waitSince := s.dev.clk, seen := (s.syncWord loc).counts } }

/-- `swait` (R171): illegal inside a region (R294). On another device's word the wait is registered there (R291). -/
def bodySwait (e : Enc) (s : State) : Except Stop State :=
  if s.thr.region.isSome then .error (misuse12 e.op) else
  let g := if e.form = .x then e.lit else s.read32 (code e e.b)
  match s.syncPlace e false with
  | .error st => .error st
  | .ok (p, s1) =>
    match p.away with
    | some x => .ok ((s1.send (.sync (.await g)) x p.addr false false true false).waitRemote s1.nextId)
    | none =>
      if passed (BitVec.ofNat 32 (s1.seenWord p.loc).gen) g then .ok (s1.acquire (s1.syncScope p.loc)) else .ok (s1.syncWait p.loc g)

/-- Generations a new arrival lies ahead of the word's: a held arrival is applied after later completions (R168). -/
def SyncWord.ahead (w : SyncWord) (held : Nat) : Nat := if w.tc = w.tt then 1 + held / max 1 w.tt else 0

/-- `sbar` (R171): one arrival, then a wait for the generation after the one the arrival is counted in. -/
def bodySbar (e : Enc) (s : State) : Except Stop State :=
  if s.thr.region.isSome then .error (misuse12 e.op) else
  match s.syncPlace e true with
  | .error st => .error st
  | .ok (p, s1) =>
    let loc := p.loc
    if (s1.syncWord loc).tt = 0 || !(s1.syncAttr loc).bar then .error (misuse12 e.op) else
    match s1.release (s1.syncScope loc) with
    | .error st => .error st
    | .ok s2 =>
      let w := s2.syncWord loc
      let g := BitVec.ofNat 32 (w.gen + 1 + w.ahead (s2.syncHeld loc))
      .ok ((s2.syncWait loc g).syncApply loc 0 true s2.lau.lid)

/-- `spoll` (R171), long-latency: it never waits on the word. -/
def bodySpoll (e : Enc) (s : State) : Except Stop State :=
  let g := if e.form = .x then e.lit else s.read32 (code e e.b)
  match s.syncPlace e false with
  | .error st => .error st
  | .ok (p, s1) =>
    let act := fun (s : State) => match p.away with
      | some x => Except.ok ([], s.send (.sync (.poll g)) x p.addr false false false false)
      | none => .ok ([BitVec.ofNat 32 (s.seenWord p.loc).gen], s)
    match (if syncGlobal e then s1.publish (pubOp e) p.addr [g] act else act s1) with
    | .error st => .error st
    | .ok ([], s2) => .ok (s2.logSent.laterAs (s2.nextId - 1) e [] 1 0 0 false false false false)
    | .ok (ret, s2) =>
      let s3 := if passed (ret.getD 0 0) g then s2.acquire (s2.syncScope p.loc) else s2
      .ok (s3.laterM e 1 (ofWords ret) false 0)

/-- SINIT -/
def execSinit (e : LX) (s : State) : Outcome := s.issue false bodySinit (e.enc 0x82)
/-- SARRIVE_S -/
def execSarriveS (e : SEnc) (s : State) : Outcome := s.issue false bodySarrive (e.enc 0x83)
/-- SARRIVE_LX -/
def execSarriveLX (e : LX) (s : State) : Outcome := s.issue false bodySarrive (e.enc 0x83)
/-- SWAIT_S -/
def execSwaitS (e : SEnc) (s : State) : Outcome := s.issue false bodySwait (e.enc 0x84)
/-- SWAIT_LX -/
def execSwaitLX (e : LX) (s : State) : Outcome := s.issue false bodySwait (e.enc 0x84)
/-- SBAR_S -/
def execSbarS (e : SEnc) (s : State) : Outcome := s.issue false bodySbar (e.enc 0x85)
/-- SBAR_L -/
def execSbarL (e : LX) (s : State) : Outcome := s.issue false bodySbar (e.encL 0x85)
/-- SPOLL -/
def execSpoll (e : LX) (s : State) : Outcome := s.issue false bodySpoll (e.enc 0x86)

end Sys2Proof.Machine
end

