-- ==== Sys2Proof/Machine/Content.lean ====
section
/-!
DEFINITION. Content-store instructions, opcodes 0xC0 to 0xCB (17 R243 to R256).
-/
namespace Sys2Proof.Machine
open Sys2Proof Bits Encoding

/-- PROT detail of a content-store operation (Table 17.5): reason, and bits 23:0 of the offending name. -/
def contentProt (reason name : Nat) : Stop := .trap causeProt (BitVec.ofNat 32 (0xC * 2 ^ 28 + reason * 2 ^ 24 + name % 2 ^ 24)) 0
/-- CFULL detail (Table 17.5). -/
def contentFull (kind region hash : Nat) : Stop := .trap causeCfull (BitVec.ofNat 32 (kind * 2 ^ 28 + region * 2 ^ 24 + hash % 2 ^ 24)) 0

/-! ## Reading the operand lines -/

/-- Race checks of a plain access to each 64-byte sector of a range (R148). -/
def raceRange (x : Xlat) (va : Nat) (write : Bool) : Nat → State → Except Stop State
  | 0, s => .ok s
  | n + 1, s =>
    match raceRange x va write n s with
    | .error st => .error st
    | .ok s1 => s1.raceIf { x with key := x.key + 64 * n } (va + 64 * n) write

/-- A 128-byte line in scratchpad or global memory as a plain load reads it; `race` checks a class 0 source (R245). -/
def State.readLine (sp : Bool) (addr : Nat) (race : Bool) (s : State) : Except Stop (List Byte × State) :=
  if sp then
    match s.checkScratch addr 128 with
    | .error st => .error st
    | .ok _ => .ok (Mem.read s.grp.scratch addr 128, s)
  else
    match s.global { va := addr, size := 128, write := false, classes := [0, 1, 3, 4], prot13 := false } with
    | .error st => .error st
    | .ok (x, s1) =>
      match (if race then raceRange x addr false 2 s1 else .ok s1) with
      | .error st => .error st
      | .ok s2 =>
        match s2.load x 128 true with
        | .error st => .error st
        | .ok (v, s3) => .ok (toBytes 128 v, s3)

/-! ## cloa (R245) -/

/-- The name of a new line's slot page: it must be class 1, mapped and readable (R237). -/
def State.slotKey (s : State) (va : Nat) : Option Nat :=
  if 2 ^ 56 ≤ va then none else
  match translateBy s.mem s.part [] va with
  | .ok x => if x.cls = 1 ∧ Pte.read x.entry = true then some x.key else none
  | _ => none

/-- Drop a line of memory from every load cache of a device (R134, R242). -/
def State.forgetLine (dev : Nat) (key : Nat) : State → State :=
  State.mapCores (fun c => if c.dev = dev then { c with lcache := c.lcache.filter (fun x => x.line ≠ key / 128) } else c)

/-- The virtual page of a line's slot where the block it lies in is still to be checked against its tag (R337). -/
def State.lineUntagged (s : State) (l : ContentLine) : Option Nat :=
  let va := s.part.slotVa l.region l.slot
  match translateBy s.mem s.part [] va with
  | .ok x => if x.key = l.key && s.untagged x then some (va / 2 ^ 16) else none
  | _ => none

/-- What `cloa` does at the home slice with a line (R245): the name, allocating where no equal line exists; each call counts once, and an
interior line counts its children as it is made (R322: 120 lines for the two contexts of Table 22.2). -/
def State.cloa (r : Nat) (interior : Bool) (bs : List Byte) (s : State) : Except Stop (DWord × State) :=
  let p := s.part
  let h := lh64 p.ka p.kb bs (if interior then 129 else 128)
  let hb := BitVec.ofNat 56 h
  if !p.regionOn r then .error (contentProt 1 h)
  else if interior && !p.interiorOk bs then .error (contentProt 3 h)
  else
    match (p.chain r hb).find? (fun l => !l.freed && l.interior = interior && l.bytes = bs) with
    | some l => .ok (l.name, { s with part := p.incr l.name })
    | none =>
      let taken := (p.chain r hb).map ContentLine.coll
      match (List.range 16).find? (fun i => !(taken.contains i) && !(i = 0 && r = 0 && hb = 0)) with
      | none => .error (contentFull 0 r h)
      | some i =>
        let (start, s1) := s.choose (p.region r).lines.toNat
        match p.freeSlot r start with
        | none => .error (contentFull 1 r h)
        | some slot =>
          match s.slotKey (p.slotVa r slot) with
          | none => .error (contentProt 4 h)
          | some k =>
            let l : ContentLine := { region := r, hash := hb, coll := i, slot := slot, key := k, interior := interior, bytes := bs, count := 1,
                                     freed := false, walked := false }
            let p1 := { s1.part with lines := s1.part.lines ++ [l] }
            let p2 := if interior then (lineChildren bs).foldl Part.incr p1 else p1
            .ok (l.name, ({ s1 with part := p2, mem := Mem.write s1.mem k bs } : State).forgetLine p.dev k)

/-- `cloa` (R245). -/
def bodyCloa (e : Enc) (s : State) : Except Stop State :=
  let m := e.m.toNat
  let sp := bit m 5
  let addr := if sp then s.opA e 1 else s.opA e 2
  match s.readLine sp addr true with
  | .error st => .error st
  | .ok (bs, s1) =>
    match s1.publish (pubOp e) addr [] (fun s => (s.cloa (field m 3 0) (bit m 4) bs).map (fun r => (words 2 r.1.toNat, r.2))) with
    | .error st => .error st
    | .ok (ret, s2) => .ok (s2.later e ret 2 0 0 false false false false)

/-! ## cld (R246) -/

/-- Walk a tree to the line that holds an offset, `n` levels at most: the line and the offset in it, or the reason and name. -/
def Part.walkTree (p : Part) : Nat → DWord → Nat → Except (Nat × DWord) (ContentLine × Nat)
  | 0, name, _ => .error (0, name)
  | n + 1, name, off =>
    match p.line name with
    | none => .error (0, name)
    | some l =>
      if !l.interior then (if 128 ≤ off then .error (2, name) else .ok (l, off))
      else
        let span := 128 * 15 ^ (lineDepth l.bytes - 1)
        let j := off / span
        if lineCount l.bytes ≤ j then .error (2, name) else Part.walkTree p n (lineChild l.bytes j) (off - j * span)

/-- `cld` (R246): the offending name of reason 2 is the root (notes/assumptions/16.md). -/
def bodyCld (e : Enc) (s : State) : Except Stop State :=
  let size := memSize e
  let off := if e.form = .x then e.lit.toNat else s.opB e 1
  let root := BitVec.ofNat 64 (s.opA e 2)
  if off % size ≠ 0 then .error (alignStop (Nat.log2 size) off) else
  match s.part.walkTree 9 root off with
  | .error (reason, name) => .error (contentProt reason (if reason = 2 then root else name).toNat)
  | .ok (l, o) =>
    match s.lineUntagged l with
    | some page => .error (.park page 15)
    | none => if s.poisoned (l.key + o) size then .error (.consume 0x10) else .ok (s.laterM e (memN e) (natAt l.bytes o size) false 0)

/-! ## cref, cunref, cswap (R247, R248) -/

/-- A count as an instruction returns it. -/
def Part.countOf (p : Part) (n : DWord) : Nat := ((p.line n).map ContentLine.count).getD 0

/-- `cref` (R247). -/
def bodyCref (e : Enc) (s : State) : Except Stop State :=
  let n := BitVec.ofNat 64 (s.opA e 2)
  let act := fun (s : State) => Except.ok (words 1 ((s.part.incr n).countOf n), { s with part := s.part.incr n })
  match s.publish (pubOp e) n.toNat [] act with
  | .error st => .error st
  | .ok (ret, s1) => .ok (s1.replyD e 1 (ofWords ret))

/-- `cunref` (R247). -/
def bodyCunref (e : Enc) (s : State) : Except Stop State :=
  let n := BitVec.ofNat 64 (s.opA e 2)
  let act := fun (s : State) =>
    if (s.part.line n).isNone then Except.error (contentProt 0 n.toNat)
    else .ok (words 1 ((s.part.decr n).countOf n), { s with part := s.part.decr n })
  match s.publish (pubOp e) n.toNat [] act with
  | .error st => .error st
  | .ok (ret, s1) => .ok (s1.replyD e 1 (ofWords ret))

/-- What `cswap` does at a cell of its own device (R248): compare, store and both count changes as one. -/
def cellSwap (key : Nat) (expected new : DWord) (s0 : State) : Except Stop (List Word × State) :=
  if new ≠ 0 ∧ (s0.part.line new).isNone = true then .error (contentProt 0 new.toNat) else
  let s := s0.landBytes key 8
  let old := BitVec.ofNat 64 (Mem.nat s.mem key 8)
  if old = expected then
    let s1 := s.perform key (toBytes 8 new.toNat)
    .ok (words 2 old.toNat, { s1 with part := (s1.part.incr new).decr expected })
  else .ok (words 2 old.toNat, s)

/-- What `cswap` sends where the cell is another device's (R248, R291). -/
def cellSend (acq : Bool) (x : Xlat) (va : Nat) (expected new : DWord) (s : State) : Except Stop (List Word × State) :=
  match s.refusal x va with
  | some st => .error st
  | none => .ok ([], s.send (.sync (.swap expected new)) x va false false true acq)

/-- `cswap` (R248): on class 2 it is a remote atomic, illegal inside a region (R295). -/
def bodyCswap (e : Enc) (s : State) : Except Stop State :=
  let va := s.opA e 2
  let o := field e.m.toNat 1 0
  let sc := field e.m.toNat 4 2
  let exp := BitVec.ofNat 64 (s.opB e 2)
  let new := BitVec.ofNat 64 (s.opC e 2)
  match s.global { va := va, size := 8, write := true, classes := [0, 2], prot13 := false } with
  | .error st => .error st
  | .ok (x, s1) =>
    if x.cls = 2 ∧ s1.thr.region.isSome = true then .error (misuse12 e.op) else
    match s1.releaseBy o sc with
    | .error st => .error st
    | .ok s2 =>
      match s2.publishRule (2 ≤ o && 2 ≤ sc) with
      | .error st => .error st
      | .ok s3 =>
        let act := if x.cls = 2 then cellSend (o % 2 = 1 && sc ≠ 0) x va exp new else cellSwap x.key exp new
        match s3.publish (pubOp e) va (words 2 exp.toNat ++ words 2 new.toNat) act with
        | .error st => .error st
        | .ok ([], s4) => .ok ((s4.logSent.replyD e 2 0).waitRemote (s4.nextId - 1))
        | .ok (ret, s4) =>
          let s5 := if ret.take 2 = words 2 exp.toNat then s4.unstage x.key 8 else s4
          .ok ((if o % 2 = 1 then s5.acquire sc else s5).replyD e 2 (ofWords ret))

/-! ## ccopy (R249) -/

/-- `ccopy` (R249): the job holds a reference on the root. -/
def bodyCcopy (e : Enc) (s : State) : Except Stop State :=
  let root := BitVec.ofNat 64 (s.opA e 2)
  let dst := s.opD e 2
  let limit := s.opB e 1
  match s.block e.c 1 with
  | none => .error (refuse e.op (if dst % 128 ≠ 0 then 6 else 0xA))
  | some ws =>
    let ctl := ws.getD 0 0
    let codes := (if dst % 128 ≠ 0 || ((ctlCount ctl).map s.badWord).getD false then [6] else [])
      ++ (if limit = 0 || field ctl.toNat 31 26 ≠ 0 then [0xA] else [])
    match lowest codes with
    | some c => .error (refuse e.op c)
    | none =>
      if (s.part.line root).isNone then .error (contentProt 0 root.toNat) else
      let n := min limit (s.part.treeBytes 9 root).length
      let j := s.newJob (.ccopy root limit dst)
      match s.command e.op [] { j with writes := [⟨0, dst, n⟩], guard := ctlGuard ctl, count := ctlCount ctl, bytes := n } with
      | .error st => .error st
      | .ok s1 => .ok (if s1.core.jobs.any (fun i => i.id = j.id) then { s1 with part := s1.part.incr root } else s1)

/-! ## lhash, hblk (R250, R251) -/

/-- `lhash` (R250). -/
def bodyLhash (e : Enc) (s : State) : Except Stop State :=
  let m := e.m.toNat
  let h := fun bs n => lh64 s.part.ka s.part.kb bs n
  match field m 7 6 with
  | 0 =>
    let n := field m 4 0
    .ok (s.later e (words 2 (h ((toBytes 16 (s.opA e 4)).take n) n)) 2 0 0 false false false false)
  | k =>
    match s.readLine (k = 1) (if k = 1 then s.opA e 1 else s.opA e 2) false with
    | .error st => .error st
    | .ok (bs, s1) => .ok (s1.later e (words 2 (h bs 128)) 2 0 0 false false false false)

/-- Four bytes that the core's fault buffer holds for the checked-out thread (R137). -/
def State.buffered (va : Nat) (s : State) : Option (List Byte) :=
  (s.core.faultBuf.find? (fun b => b.t = s.thr.key && b.line = va / 128)).map (fun b => (b.bytes.drop (va % 128)).take 4)

/-- Four bytes at a global address as `ld` reads them: from the fault buffer, from another device, or as a plain load (R129, R137, R291). -/
def State.readWord (va : Nat) (s : State) : Except Stop (List Byte × State) :=
  match s.buffered va with
  | some bs => .ok (bs, s)
  | none =>
    match s.global { va := va, size := 4, write := false, classes := [0, 1, 2, 3, 4, 5], prot13 := false } with
    | .error st => .error st
    | .ok (x, s1) =>
      if x.cls = 2 then
        match s1.awayStop x va 4 with
        | some st => .error st
        | none => .ok (s1.awayBytes x 4, s1)
      else (s1.load x 4 true).map (fun r => (toBytes 4 r.1, r.2))

/-- The word of a range at which its access parks: the lines of the whole range that do translate are buffered (R137). -/
def ranged (va n : Nat) : Stop → Stop
  | .park page kind => .parkRange page kind va n
  | st => st

/-- Bytes of a global range read as `ld` reads it, four at a time. -/
def readWordsAt (va : Nat) : Nat → State → Except Stop (List Byte × State)
  | 0, s => .ok ([], s)
  | n + 1, s =>
    match s.readWord va with
    | .error st => .error st
    | .ok (b, s1) =>
      match readWordsAt (va + 4) n s1 with
      | .error st => .error st
      | .ok (bs, s2) => .ok (b ++ bs, s2)

/-- `n` bytes of scratchpad at an offset aligned to `2^k`; past the allocation the first byte outside names the trap (R349). -/
def State.scratchRange (s : State) (off n k : Nat) : Except Stop (List Byte) :=
  if off % 2 ^ k ≠ 0 then .error (.trap causeAlign (addrDetail k (off % 2 ^ 20)) 0)
  else if s.outside off n then .error (.trap causeProt (addrDetail 3 (max off s.grp.scratchSize % 2 ^ 20)) 0)
  else .ok (Mem.read s.grp.scratch off n)

/-- A token array of a chain hash or of `kvcommit` (R251): scratchpad, or global memory. -/
def State.readTokens (glob : Bool) (addr n : Nat) (s : State) : Except Stop (List Byte × State) :=
  if glob then
    match readWordsAt addr n s with
    | .error st => .error (ranged addr (4 * n) st)
    | .ok (bs, s1) => .ok (bs, s1.dropLines)
  else match s.scratchRange addr (4 * n) 2 with
    | .error st => .error st
    | .ok bs => .ok (bs, s)

/-- Chain hash over `b` blocks of 16 tokens (R251). -/
def chainHash (ka kb : DWord) (toks : List Byte) (h : Nat) : Nat → Nat
  | 0 => h
  | n + 1 => chainHash ka kb (toks.drop 64) (lh64 ka kb (toBytes 8 h ++ toks.take 64) 72) n

/-- `hblk` (R251). -/
def bodyHblk (e : Enc) (s : State) : Except Stop State :=
  let m := e.m.toNat
  let n := 16 * 2 ^ field m 1 0
  let glob := bit m 2
  match s.readTokens glob (if glob then s.opB e 2 else s.opB e 1) n with
  | .error st => .error st
  | .ok (bs, s1) => .ok (s1.replyD e 2 (chainHash s.part.ka s.part.kb bs (s.opA e 2) (n / 16)))

/-! ## Prefix tables (R252 to R255) -/

/-- A disabled table (R252): PROT with reason 1; its name field names nothing and is left open (notes/assumptions/5.md). -/
def State.tableOff (s : State) : Stop := contentProt 1 (Config.freeBits 24 s.drawn).toNat

/-- `pflook` (R253). -/
def bodyPflook (e : Enc) (s : State) : Except Stop State :=
  let t := field e.m.toNat 3 0
  let n := s.opB e 1
  let off := s.opA e 1
  if n = 0 ∨ 256 < n then .error (misuse12 e.op) else
  match s.scratchRange off (8 * n) 3 with
  | .error st => .error st
  | .ok bs =>
    let hs := (List.range n).map (fun i => BitVec.ofNat 64 (natAt bs (8 * i) 8))
    let act := fun (s : State) =>
      let x := s.part.table t
      if !x.enabled then Except.error s.tableOff else
      match x.look hs n with
      | some (i, q) => .ok (words 2 q.root.toNat ++ [BitVec.ofNat 32 i, BitVec.ofNat 32 q.idx], { s with part := s.part.setTable t (x.touch q.idx) })
      | none => .ok ([0, 0, 0, 0xFFFFFFFF], s)
    match s.publish (pubOp e) off [BitVec.ofNat 32 n] act with
    | .error st => .error st
    | .ok (ret, s1) => .ok (s1.replyD e 4 (ofWords ret))

/-- `pfins` (R254). -/
def bodyPfins (e : Enc) (s : State) : Except Stop State :=
  let t := field e.m.toNat 3 0
  let q := s.opA e 4
  let len := s.opB e 1
  let hash := BitVec.ofNat 64 q
  let root := BitVec.ofNat 64 (q / 2 ^ 64)
  if len = 0 ∨ 65535 < len then .error (misuse12 e.op) else
  let act := fun (s : State) =>
    if !(s.part.table t).enabled then Except.error s.tableOff else
    match s.part.pfins t hash root len with
    | none => .error (contentProt 0 root.toNat)
    | some (st, p) => .ok ([st], { s with part := p })
  match s.publish (pubOp e) t (words 4 q ++ words 1 len) act with
  | .error st => .error st
  | .ok (ret, s1) => .ok (s1.replyD e 1 (ofWords ret))

/-- `pfpin` and `pfunpin` (R255). -/
def bodyPin (up : Bool) (e : Enc) (s : State) : Except Stop State :=
  let t := field e.m.toNat 3 0
  let hash := BitVec.ofNat 64 (s.opA e 2)
  let i := s.opB e 1
  if 63 < i then .error (misuse12 e.op) else
  let act := fun (s : State) =>
    let x := s.part.table t
    if !x.enabled then Except.error s.tableOff else
    let (st, y) := x.pin hash i up
    .ok (words 1 st, { s with part := s.part.setTable t y })
  match s.publish (pubOp e) t (words 2 hash.toNat ++ words 1 i) act with
  | .error st => .error st
  | .ok (ret, s1) => .ok (s1.replyD e 1 (ofWords ret))

/-- CLOA -/
def execCloa (e : LX) (s : State) : Outcome := s.issue false bodyCloa (e.encL 0xC0)
/-- CLD -/
def execCld (e : LX) (s : State) : Outcome := s.issue false bodyCld (e.enc 0xC1)
/-- CREF -/
def execCref (e : LX) (s : State) : Outcome := s.issue false bodyCref (e.encL 0xC2)
/-- CUNREF -/
def execCunref (e : LX) (s : State) : Outcome := s.issue false bodyCunref (e.encL 0xC3)
/-- CSWAP -/
def execCswap (e : LX) (s : State) : Outcome := s.issue false bodyCswap (e.encL 0xC4)
/-- CCOPY -/
def execCcopy (e : LX) (s : State) : Outcome := s.issue false bodyCcopy (e.encL 0xC5)
/-- LHASH -/
def execLhash (e : LX) (s : State) : Outcome := s.issue false bodyLhash (e.encL 0xC6)
/-- HBLK -/
def execHblk (e : LX) (s : State) : Outcome := s.issue false bodyHblk (e.encL 0xC7)
/-- PFLOOK -/
def execPflook (e : LX) (s : State) : Outcome := s.issue false bodyPflook (e.encL 0xC8)
/-- PFINS -/
def execPfins (e : LX) (s : State) : Outcome := s.issue false bodyPfins (e.encL 0xC9)
/-- PFPIN -/
def execPfpin (e : LX) (s : State) : Outcome := s.issue false (bodyPin true) (e.encL 0xCA)
/-- PFUNPIN -/
def execPfunpin (e : LX) (s : State) : Outcome := s.issue false (bodyPin false) (e.encL 0xCB)

end Sys2Proof.Machine
end

