-- ==== Sys2Proof/Machine/Control.lean ====
section
/-!
DEFINITION. The control instructions, opcodes 0x00 to 0x0B (05 R79 to R83; 07 R107).
-/
namespace Sys2Proof.Machine
open Sys2Proof Bits Encoding

/-- The address of the instruction whose body runs. -/
def pcOf (e : Enc) (s : State) : CodeAddr := s.thr.pc - BitVec.ofNat 48 (len e)

/-- The code address a window offset names (R25). -/
def winAddr (pc : CodeAddr) (off : Word) : CodeAddr := pc.extractLsb' 32 16 ++ off

/-- ILLEGAL cause 0x10 (R25). DESIGN CHOICE (notes/assumptions/12.md): whether the code of a misaligned register target is the offending code
of Table 2.9 is not stated; field and word are 0. -/
def branchStop (e : Enc) : Stop := .trap causeIllegal (detail 0x10 e.op 0 0) 0

/-- The target of an offset branch; its window check has passed (R25, R33). -/
def offTarget (e : Enc) (s : State) : CodeAddr := pcOf e s + BitVec.ofInt 48 (4 * branchOff e)

/-- The window offset of a register target. -/
def regOff (e : Enc) (s : State) : Word := s.read32 (code e e.a)

/-- A taken `bra` or `jmp` to a target not above it is a backward branch: the spin detector compares the hash of the writes
since the last one; the sixteenth match lowers the thread for 1,024 cycles (R107). -/
def Thread.backward (t : Thread) (pc target : CodeAddr) (clk : Nat) : Thread :=
  if pc < target then t else
  let h := t.spin.run ^^^ 0xFFFFFFFF
  let n := if t.spin.addr = pc ∧ t.spin.hash = h then t.spin.count + 1 else 1
  let low := decide (16 ≤ n) || t.spin.low
  let til := if 16 ≤ n then clk + 1024 else t.spin.lowUntil
  { t with spin := { addr := pc, hash := h, count := if 16 ≤ n then 0 else n, run := 0xFFFFFFFF, low := low, lowUntil := til } }

/-- Go to a target. -/
def State.jump (target : CodeAddr) (s : State) : State := { s with thr := { s.thr with pc := target } }

/-- Go to a register target, checked (R25). -/
def jumpReg (e : Enc) (off : Word) (s : State) : Except Stop CodeAddr :=
  if off.toNat % 4 ≠ 0 then .error (branchStop e) else .ok (winAddr (pcOf e s) off)

/-- ra := the window offset of the next instruction (R79). -/
def State.link (s : State) : State := { s with thr := s.thr.put1 1 (s.thr.pc.setWidth 32) }

/-- `nop`. -/
def bodyNop (_ : Enc) (s : State) : Except Stop State := .ok s
/-- `bra`. -/
def bodyBra (e : Enc) (s : State) : Except Stop State :=
  .ok ({ s with thr := s.thr.backward (pcOf e s) (offTarget e s) s.dev.clk }.jump (offTarget e s))
/-- `jmp`. -/
def bodyJmp (e : Enc) (s : State) : Except Stop State :=
  match jumpReg e (regOff e s) s with
  | .error st => .error st
  | .ok t => .ok ({ s with thr := s.thr.backward (pcOf e s) t s.dev.clk }.jump t)
/-- `call`. -/
def bodyCall (e : Enc) (s : State) : Except Stop State := .ok (s.link.jump (offTarget e s))
/-- `calli`: the target is read before ra is written; a return address outside the window is cause 0x10 (R79). -/
def bodyCalli (e : Enc) (s : State) : Except Stop State :=
  match jumpReg e (regOff e s) s with
  | .error st => .error st
  | .ok t => if inWindow (pcOf e s) ((pcOf e s).toNat + len e) then .ok (s.link.jump t) else .error (branchStop e)
/-- `ret`: to address zero it ends the thread (R8, R79). -/
def bodyRet (e : Enc) (s : State) : Except Stop State :=
  if regOff e s = 0 then .ok s.exitThread
  else match jumpReg e (regOff e s) s with
    | .error st => .error st
    | .ok t => .ok (s.jump t)
/-- `meet`. -/
def bodyMeet (e : Enc) (s : State) : Except Stop State := .ok { s with thr := { s.thr with meet := offTarget e s } }
/-- `meetr`: zr clears MEET (R79). -/
def bodyMeetr (e : Enc) (s : State) : Except Stop State :=
  if code e e.a = 0xFF then .ok { s with thr := { s.thr with meet := 0xFFFFFFFFFFFF } }
  else match jumpReg e (regOff e s) s with
    | .error st => .error st
    | .ok t => .ok { s with thr := { s.thr with meet := t } }
/-- `exit` (R81). -/
def bodyExit (_ : Enc) (s : State) : Except Stop State := .ok s.exitThread
/-- The code of `trap` and `brk` (Table 5.8). -/
def trapCode (e : Enc) : Word := if e.form = .s then e.b.setWidth 32 else e.m.setWidth 32
/-- `trap` (R83, Table 5.10): the argument is a in the L form, the literal in the X form, zero in the S form. -/
def bodyTrap (e : Enc) (s : State) : Except Stop State :=
  .error (.trap 2 (trapCode e) (match e.form with | .s => 0 | .l => s.read32 e.a | .x => e.lit))
/-- `brk` (R83). -/
def bodyBrk (e : Enc) (_ : State) : Except Stop State := .error (.trap 3 (trapCode e) 0)
/-- PCs of the other ready splits of the checked-out thread's pack (a held thread is in none, R101), where the thread stands at `pc`. -/
def State.otherSplits (pc : CodeAddr) (s : State) : List CodeAddr :=
  let here : State := { s with thr := { s.thr with pc := pc } }
  (((here.packThreads s.thr.key.gid (s.thr.key.tid / 32)).filter fun t => t.status = .ready ∧ !t.held ∧ t.pc ≠ pc).map Thread.pc).dedup
/-- `yield` (R82): ineligible until every other ready split of the pack has issued, or 64 cycles have passed; illegal inside a region (R294). -/
def bodyYield (e : Enc) (s : State) : Except Stop State :=
  if s.thr.region.isSome then .error (misuse12 e.op) else
  .ok { s with thr := { s.thr with status := .waiting (.yield (s.otherSplits (pcOf e s)) (s.dev.clk + 64)), waitSince := s.dev.clk } }

/-- NOP_S -/
def execNopS (e : SEnc) (s : State) : Outcome := s.issue false bodyNop (e.enc 0x00)
/-- NOP_L -/
def execNopL (e : LX) (s : State) : Outcome := s.issue false bodyNop (e.encL 0x00)
/-- BRA_S -/
def execBraS (e : SEnc) (s : State) : Outcome := s.issue false bodyBra (e.enc 0x01)
/-- BRA_X -/
def execBraX (e : LX) (s : State) : Outcome := s.issue false bodyBra (e.encX 0x01)
/-- JMP_S -/
def execJmpS (e : SEnc) (s : State) : Outcome := s.issue false bodyJmp (e.enc 0x02)
/-- JMP_L -/
def execJmpL (e : LX) (s : State) : Outcome := s.issue false bodyJmp (e.encL 0x02)
/-- CALL_S -/
def execCallS (e : SEnc) (s : State) : Outcome := s.issue false bodyCall (e.enc 0x03)
/-- CALL_X -/
def execCallX (e : LX) (s : State) : Outcome := s.issue false bodyCall (e.encX 0x03)
/-- CALLI_S -/
def execCalliS (e : SEnc) (s : State) : Outcome := s.issue false bodyCalli (e.enc 0x04)
/-- CALLI_L -/
def execCalliL (e : LX) (s : State) : Outcome := s.issue false bodyCalli (e.encL 0x04)
/-- RET_S -/
def execRetS (e : SEnc) (s : State) : Outcome := s.issue false bodyRet (e.enc 0x05)
/-- RET_L -/
def execRetL (e : LX) (s : State) : Outcome := s.issue false bodyRet (e.encL 0x05)
/-- MEET_S -/
def execMeetS (e : SEnc) (s : State) : Outcome := s.issue false bodyMeet (e.enc 0x06)
/-- MEET_X -/
def execMeetX (e : LX) (s : State) : Outcome := s.issue false bodyMeet (e.encX 0x06)
/-- MEETR_S -/
def execMeetrS (e : SEnc) (s : State) : Outcome := s.issue false bodyMeetr (e.enc 0x07)
/-- MEETR_L -/
def execMeetrL (e : LX) (s : State) : Outcome := s.issue false bodyMeetr (e.encL 0x07)
/-- EXIT_S -/
def execExitS (e : SEnc) (s : State) : Outcome := s.issue false bodyExit (e.enc 0x08)
/-- EXIT_L -/
def execExitL (e : LX) (s : State) : Outcome := s.issue false bodyExit (e.encL 0x08)
/-- TRAP_S -/
def execTrapS (e : SEnc) (s : State) : Outcome := s.issue false bodyTrap (e.enc 0x09)
/-- TRAP_L -/
def execTrapL (e : LX) (s : State) : Outcome := s.issue false bodyTrap (e.encL 0x09)
/-- TRAP_X -/
def execTrapX (e : LX) (s : State) : Outcome := s.issue false bodyTrap (e.encX 0x09)
/-- BRK_S -/
def execBrkS (e : SEnc) (s : State) : Outcome := s.issue false bodyBrk (e.enc 0x0A)
/-- BRK_L -/
def execBrkL (e : LX) (s : State) : Outcome := s.issue false bodyBrk (e.encL 0x0A)
/-- YIELD_S -/
def execYieldS (e : SEnc) (s : State) : Outcome := s.issue false bodyYield (e.enc 0x0B)
/-- YIELD_L -/
def execYieldL (e : LX) (s : State) : Outcome := s.issue false bodyYield (e.encL 0x0B)

end Sys2Proof.Machine
end

