-- ==== Sys2Proof/Machine/Float.lean ====
section
/-!
DEFINITION. Floating-point arithmetic, opcodes 0x40 to 0x4E (06 R87 to R94).
-/
namespace Sys2Proof.Machine
open Sys2Proof Bits Encoding

/-- Type of a floating-point operation: S forms are binary32 (Table 2.7). -/
def fT (e : Enc) : BitVec 4 := if e.form = .s then 7 else e.t
/-- Direction: S forms round to nearest even (R22). -/
def fR (e : Enc) : Rnd := if e.form = .s then .ne else Rnd.of e.m.toNat

/-- Deliver a floating-point result and its flags. -/
def State.putF (e : Enc) (n : Nat) (x : Nat × BitVec 5) (s : State) : State := (s.putD e n x.1).orFp x.2

/-- A two-operand operation. -/
def bodyF2 (op : Rnd → FVal → FVal → FVal × BitVec 5) (e : Enc) (s : State) : Except Stop State :=
  let n := tw (fT e)
  .ok (s.putF e n (farith2 (op (fR e)) (fT e) s.lau.nbv (fR e) (s.opA e n) (s.opB e n)))
/-- `fadd`. -/
def bodyFadd : Body := bodyF2 FVal.add
/-- `fsub`. -/
def bodyFsub : Body := bodyF2 (fun r a b => a.add r b.neg)
/-- `fmul`. -/
def bodyFmul : Body := bodyF2 (fun _ a b => a.mul b)
/-- `ffma`. -/
def bodyFfma (e : Enc) (s : State) : Except Stop State :=
  let n := tw e.t
  .ok (s.putF e n (ffmaT e.t s.lau.nbv (fR e) (s.opA e n) (s.opB e n) (s.opC e n)))
/-- `fmin`. -/
def bodyFmin (e : Enc) (s : State) : Except Stop State :=
  .ok (s.putF e (tw e.t) (fminmax false e.t s.lau.nbv (s.opA e (tw e.t)) (s.opB e (tw e.t))))
/-- `fmax`. -/
def bodyFmax (e : Enc) (s : State) : Except Stop State :=
  .ok (s.putF e (tw e.t) (fminmax true e.t s.lau.nbv (s.opA e (tw e.t)) (s.opB e (tw e.t))))
/-- `fdiv`, long-latency. -/
def bodyFdiv (e : Enc) (s : State) : Except Stop State :=
  let x := farith2 FVal.div e.t s.lau.nbv (fR e) (s.opA e (tw e.t)) (s.opB e (tw e.t))
  .ok (s.laterF e (tw e.t) x.1 x.2)
/-- `fsqrt`, long-latency. -/
def bodyFsqrt (e : Enc) (s : State) : Except Stop State :=
  let x := farith1 FVal.sqrt e.t s.lau.nbv (fR e) (s.op1 e (tw e.t))
  .ok (s.laterF e (tw e.t) x.1 x.2)
/-- `frcp`. -/
def bodyFrcp (e : Enc) (s : State) : Except Stop State :=
  .ok (s.putF e (tw e.t) (farith1 (fun a => FVal.div (.fin false 1 0) a) e.t s.lau.nbv (fR e) (s.op1 e (tw e.t))))
/-- `frsq`. -/
def bodyFrsq (e : Enc) (s : State) : Except Stop State :=
  .ok (s.putF e (tw e.t) (farith1 FVal.rsqrt e.t s.lau.nbv (fR e) (s.op1 e (tw e.t))))
/-- `fclass`. -/
def bodyFclass (e : Enc) (s : State) : Except Stop State := .ok (s.putD e 1 (fclassT e.t (s.op1 e (tw e.t))))
/-- `frnd`. -/
def bodyFrnd (e : Enc) (s : State) : Except Stop State :=
  .ok (s.putF e (tw e.t) (frndT e.t s.lau.nbv (fR e) (bit e.m.toNat 2) (s.op1 e (tw e.t))))
/-- `fscale`: the count is a signed 32-bit register or literal. -/
def bodyFscale (e : Enc) (s : State) : Except Stop State :=
  let n := if e.form = .x then e.lit.toNat else s.opB e 1
  .ok (s.putF e (tw e.t) (fscaleT e.t s.lau.nbv (fR e) (s.opA e (tw e.t)) (sint 32 n)))
/-- `fsplit`. -/
def bodyFsplit (e : Enc) (s : State) : Except Stop State :=
  .ok (s.putF e (if e.c = 0 then tw e.t else 1) (fsplitT e.t s.lau.nbv e.c.toNat (s.op1 e (tw e.t))))
/-- `fdot2`. -/
def bodyFdot2 (e : Enc) (s : State) : Except Stop State :=
  .ok (s.putF e 1 (fdot2T e.t s.lau.nbv (fR e) (s.opA e 1) (s.opB e 1) (s.opC e 1)))

/-- FADD_S -/
def execFaddS (e : SEnc) (s : State) : Outcome := s.issue false bodyFadd (e.enc 0x40)
/-- FADD_LX -/
def execFaddLX (e : LX) (s : State) : Outcome := s.issue false bodyFadd (e.enc 0x40)
/-- FSUB_S -/
def execFsubS (e : SEnc) (s : State) : Outcome := s.issue false bodyFsub (e.enc 0x41)
/-- FSUB_LX -/
def execFsubLX (e : LX) (s : State) : Outcome := s.issue false bodyFsub (e.enc 0x41)
/-- FMUL_S -/
def execFmulS (e : SEnc) (s : State) : Outcome := s.issue false bodyFmul (e.enc 0x42)
/-- FMUL_LX -/
def execFmulLX (e : LX) (s : State) : Outcome := s.issue false bodyFmul (e.enc 0x42)
/-- FFMA -/
def execFfma (e : LX) (s : State) : Outcome := s.issue false bodyFfma (e.enc 0x43)
/-- FMIN -/
def execFmin (e : LX) (s : State) : Outcome := s.issue false bodyFmin (e.enc 0x44)
/-- FMAX -/
def execFmax (e : LX) (s : State) : Outcome := s.issue false bodyFmax (e.enc 0x45)
/-- FDIV -/
def execFdiv (e : LX) (s : State) : Outcome := s.issue false bodyFdiv (e.enc 0x46)
/-- FSQRT -/
def execFsqrt (e : LX) (s : State) : Outcome := s.issue false bodyFsqrt (e.enc 0x47)
/-- FRCP -/
def execFrcp (e : LX) (s : State) : Outcome := s.issue false bodyFrcp (e.enc 0x48)
/-- FRSQ -/
def execFrsq (e : LX) (s : State) : Outcome := s.issue false bodyFrsq (e.enc 0x49)
/-- FCLASS -/
def execFclass (e : LX) (s : State) : Outcome := s.issue false bodyFclass (e.enc 0x4A)
/-- FRND -/
def execFrnd (e : LX) (s : State) : Outcome := s.issue false bodyFrnd (e.enc 0x4B)
/-- FSCALE -/
def execFscale (e : LX) (s : State) : Outcome := s.issue false bodyFscale (e.enc 0x4C)
/-- FSPLIT -/
def execFsplit (e : LX) (s : State) : Outcome := s.issue false bodyFsplit (e.enc 0x4D)
/-- FDOT2 -/
def execFdot2 (e : LX) (s : State) : Outcome := s.issue false bodyFdot2 (e.enc 0x4E)

end Sys2Proof.Machine
end

