-- ==== Sys2Proof/Machine/Special.lean ====
section
/-!
DEFINITION. The special functions of 06 R98: the exact function value correctly rounded. Each value is computed in fixed
point with at least 256 bits below the argument's own scale and its last bit jammed (the exact value is irrational there);
the exact cases of Table 6.5 are taken out first. No value of a format of 24 significant bits lies within 2^-200 of a
rounding boundary, relatively, so the 256 bits decide the rounding (DEDUCED, notes/assumptions/13.md).
-/
namespace Sys2Proof.Machine
open Sys2Proof Bits

/-- Sum of x^(2k+1)/(2k+1), k < n, in fixed point: `t` is the running power, `x2` the square of x. -/
def atanhSum (p x2 : Nat) : Nat → Nat → Nat → Nat
  | 0, _, _ => 0
  | n + 1, k, t => if t = 0 then 0 else t / (2 * k + 1) + atanhSum p x2 n (k + 1) (t * x2 / 2 ^ p)

/-- atanh of x/2^p, for x ≤ 2^p/3. -/
def fxAtanh (p x : Nat) : Nat := atanhSum p (x * x / 2 ^ p) p 0 x
/-- ln 2 in `p` fraction bits. -/
def fxLn2 (p : Nat) : Nat := 2 * fxAtanh p (2 ^ p / 3)

/-- atan of 1/n, `p` fraction bits: the alternating sum. -/
def atanSum (n2 : Nat) : Nat → Nat → Nat → Int
  | 0, _, _ => 0
  | f + 1, k, t => ((t / (2 * k + 1) : Nat) : Int) - atanSum n2 f (k + 1) (t / n2)
/-- π in `p` fraction bits (Machin). -/
def fxPi (p : Nat) : Nat :=
  (16 * atanSum 25 (p / 4 + 2) 0 (2 ^ p / 5) - 4 * atanSum 57121 (p / 15 + 2) 0 (2 ^ p / 239)).toNat

/-- Sum of x^k/k! from term `t` on. -/
def expSum (p x : Nat) : Nat → Nat → Nat → Nat
  | 0, _, _ => 0
  | f + 1, k, t => if t = 0 then 0 else t + expSum p x f (k + 1) (t * x / 2 ^ p / (k + 1))
/-- e^x for 0 ≤ x < 1, `p` fraction bits. -/
def fxExp (p x : Nat) : Nat := expSum p x (p + 2) 0 (2 ^ p)

/-- Alternating sum of every second term of the exponential series. -/
def trigSum (p x2 : Nat) : Nat → Nat → Nat → Int
  | 0, _, _ => 0
  | f + 1, k, t => if t = 0 then 0 else (t : Int) - trigSum p x2 f (k + 2) (t * x2 / 2 ^ p / ((k + 1) * (k + 2)))
/-- sin x for 0 ≤ x < 2. -/
def fxSin (p x : Nat) : Nat := (trigSum p (x * x / 2 ^ p) p 1 x).toNat
/-- cos x for 0 ≤ x < 2. -/
def fxCos (p x : Nat) : Nat := (trigSum p (x * x / 2 ^ p) p 0 (2 ^ p)).toNat

/-- A positive fixed-point value with its low bits dropped and its last bit jammed. -/
def fxVal (s : Bool) (p v : Nat) : FVal := .fin s (2 * (v / 2 ^ 24) + 1) ((24 : Int) - p - 1)

/-- Fraction bits for an argument m · 2^e. -/
def fxBits (m : Nat) (e : Int) : Nat := 288 + (-((Nat.log2 m : Int) + e)).toNat
/-- m · 2^e in `p` fraction bits (exact when `e ≥ -p`). -/
def fxOf (p m : Nat) (e : Int) : Nat := if 0 ≤ e + p then m * 2 ^ (e + p).toNat else m / 2 ^ (-(e + p)).toNat

/-- 1 with a jammed bit far below: just above, or just below. -/
def nearOne (s above : Bool) : FVal := if above then .fin s (2 ^ 100 + 1) (-100) else .fin s (2 ^ 100 - 1) (-100)

/-- 2^a (R98). -/
def vExp2 : FVal → FVal × BitVec 5
  | .nan _ => (.nan false, 0)
  | .inf s => (if s then .zero false else .inf false, 0)
  | .zero _ => (.fin false 1 0, 0)
  | .fin s m e =>
    let top : Int := (Nat.log2 m : Int) + e
    if top ≥ 12 then (if s then .fin false 1 (-5000) else .fin false 1 5000, 0)
    else if top < -80 then (nearOne false (!s), 0)
    else
      let p := fxBits m e
      let x := fxOf p m e
      -- 2^(-x) = 2^(-n) · 2^(n - x) with n the ceiling
      let n : Nat := if s then (x + 2 ^ p - 1) / 2 ^ p else x / 2 ^ p
      let f : Nat := if s then n * 2 ^ p - x else x - n * 2 ^ p
      let k : Int := if s then -(n : Int) else n
      if f = 0 then (.fin false 1 k, 0)
      else match fxVal false p (fxExp p (f * fxLn2 p / 2 ^ p)) with
        | .fin t q g => (.fin t q (g + k), 0)
        | v => (v, 0)

/-- log2 a (R98). -/
def vLog2 : FVal → FVal × BitVec 5
  | .nan _ => (.nan false, 0)
  | .zero _ => (.inf true, fDivZero)
  | .inf s => if s then (.nan false, fInvalid) else (.inf false, 0)
  | .fin s m e =>
    if s then (.nan false, fInvalid) else
    let l := Nat.log2 m
    let k : Int := (l : Int) + e
    if m = 2 ^ l then (if k = 0 then .zero false else .fin (decide (k < 0)) k.natAbs 0, 0)
    else
      let p := 352
      let num := m * 2 ^ p - 2 ^ l * 2 ^ p
      let frac := 2 * fxAtanh p (num / (m + 2 ^ l)) * 2 ^ p / fxLn2 p
      let v : Int := k * 2 ^ p + frac
      (fxVal (decide (v < 0)) p v.natAbs, 0)

/-- The value of an argument in half-turns: half-turns below it, and the rest as a fraction of 2^p. -/
def halfTurns (p m : Nat) (e : Int) : Nat × Nat :=
  if e ≥ 1 then (0, 0) else ((fxOf p m e) / 2 ^ p % 2, (fxOf p m e) % 2 ^ p)

/-- sin(π a) (R98). -/
def vSin : FVal → FVal × BitVec 5
  | .nan _ => (.nan false, 0)
  | .inf _ => (.nan false, fInvalid)
  | .zero s => (.zero s, 0)
  | .fin s m e =>
    let p := fxBits m e
    let (n, f) := halfTurns p m e
    let sg := s != decide (n = 1)
    if f = 0 then (.zero s, 0)
    else if 2 * f = 2 ^ p then (.fin sg 1 0, 0)
    else
      let g := if 2 * f < 2 ^ p then f else 2 ^ p - f
      (if 4 * g ≤ 2 ^ p then fxVal sg p (fxSin p (g * fxPi p / 2 ^ p))
       else fxVal sg p (fxCos p ((2 ^ p / 2 - g) * fxPi p / 2 ^ p)), 0)

/-- cos(π a) (R98). -/
def vCos : FVal → FVal × BitVec 5
  | .nan _ => (.nan false, 0)
  | .inf _ => (.nan false, fInvalid)
  | .zero _ => (.fin false 1 0, 0)
  | .fin _ m e =>
    let p := fxBits m e
    let (n, f) := halfTurns p m e
    if f = 0 then (.fin (decide (n = 1)) 1 0, 0)
    else if 2 * f = 2 ^ p then (.zero false, 0)
    else if (Nat.log2 m : Int) + e < -80 then (nearOne false false, 0)
    else
      let low := 2 * f < 2 ^ p
      let sg := decide (n = 1) != !low
      let g := if low then f else 2 ^ p - f
      (if 4 * g ≤ 2 ^ p then fxVal sg p (fxCos p (g * fxPi p / 2 ^ p))
       else fxVal sg p (fxSin p ((2 ^ p / 2 - g) * fxPi p / 2 ^ p)), 0)

/-- tanh a (R98). -/
def vTanh : FVal → FVal × BitVec 5
  | .nan _ => (.nan false, 0)
  | .inf s => (.fin s 1 0, 0)
  | .zero s => (.zero s, 0)
  | .fin s m e =>
    let top : Int := (Nat.log2 m : Int) + e
    if top < -80 then (.fin s (m * 2 ^ 100 - 1) (e - 100), 0)
    else if top ≥ 5 then (nearOne s false, 0)
    else
      let p := fxBits m e
      let x := 2 * fxOf p m e
      let k := x / fxLn2 p
      let u := 2 ^ (2 * p) / fxExp p (x - k * fxLn2 p) / 2 ^ k
      (fxVal s p ((2 ^ p - u) * 2 ^ p / (2 ^ p + u)), 0)

end Sys2Proof.Machine
end

