-- ==== Sys2Proof/Machine/SliArith.lean ====
section
/-!
DEFINITION. Symmetric level-index numbers: encodings, the reference arithmetic bit for bit, rounding, flags and
conversions (04 R52 to R64; 06 R99; 05 R76).
-/
namespace Sys2Proof.Machine
open Sys2Proof Bits

/-- SLIFLAGS bits (Table 1.4). -/
def lLup : BitVec 7 := 1
/-- LDN -/
def lLdn : BitVec 7 := 2
/-- GX -/
def lGx : BitVec 7 := 4
/-- CEIL -/
def lCeil : BitVec 7 := 8
/-- FLOOR -/
def lFloor : BitVec 7 := 16
/-- INV -/
def lInv : BitVec 7 := 32
/-- CONV -/
def lConv : BitVec 7 := 64

/-! ## Encodings (R52, R53) -/

/-- The value of an SLI encoding; X in units of 2^-64. The non-canonical 1.0 reads as the canonical one (R54). -/
inductive SVal where
  | nan
  | zero (s : Bool)
  | inf (s : Bool)
  | fin (s big : Bool) (x : Nat)
  deriving DecidableEq, Repr

/-- One in fx units. -/
def fx1 : Nat := 2 ^ 64

/-- Bits of t: 62 for SLI64, 30 for SLI32. -/
def sliBits (wide : Bool) : Nat := if wide then 62 else 30

/-- Decode an SLI word (Tables 4.1 to 4.3). -/
def sliDecode (wide : Bool) (v : Nat) : SVal :=
  let n := sliBits wide
  let s := bit v (n + 1)
  let g := bit v n
  let t := v % 2 ^ n
  if !g && t = 0 then .zero s
  else if g && t = 2 ^ n - 1 then .inf s
  else
    let x := (if g then t else 2 ^ n - 1 - t) * 2 ^ (67 - n)
    if x < fx1 then .nan else .fin s (g || x = fx1) x

/-- A triple of the reference arithmetic, or an fx value (R58, R59). -/
inductive SNum where
  | fx (v : Int)
  | tri (neg big : Bool) (x : Nat)
  deriving DecidableEq, Repr

/-! ## Tables and fixed-point functions (R58) -/

/-- Round a fixed-point value of `p` fraction bits to units of 2^-64, half to even. -/
def fxRound64 (p v : Nat) : Nat := (roundShift .ne false v (p - 64)).1

/-- EXPT[i] (R58). -/
def sliExpT (i : Nat) : Nat :=
  let p := 256
  let x := i * 2 ^ p / 8
  let k := x / fxLn2 p
  if i = 0 then fx1 else fxRound64 p (2 ^ (2 * p) / fxExp p (x - k * fxLn2 p) / 2 ^ k)
/-- LNT[i] (R58). -/
def sliLnT (i : Nat) : Nat := if i = 0 then 0 else fxRound64 256 (2 * fxAtanh 256 (i * 2 ^ 256 / (1024 + i)))
/-- LN2 (R58). -/
def sliLn2 : Nat := fxRound64 256 (fxLn2 256)

/-- Floored product in fx. -/
def mulq (a b : Int) : Int := (a * b) / (fx1 : Int)
/-- Floored quotient in fx. -/
def divq (a b : Int) : Int := (a * (fx1 : Int)) / b

/-- p := 1 - divq(mulq(p, u), k) for k downward. -/
def expNegLoop (u : Int) : Nat → Int → Int
  | 0, p => p
  | k + 1, p => expNegLoop u k ((fx1 : Int) - mulq p u / (k + 1 : Nat))
/-- e^t, t ≤ 0 (R59). -/
def expNeg (t : Int) : Int :=
  if t ≤ -64 * (fx1 : Int) then 0 else
  let i := (-8 * t) / (fx1 : Int)
  let u := -t - i * (fx1 : Int) / 8
  mulq (sliExpT i.toNat) (expNegLoop u 12 fx1)
/-- e^t, 0 ≤ t < 64. -/
def expPos (t : Int) : Int := divq fx1 (expNeg (-t))

/-- s := divq(1, k) - mulq(w, s) for k downward. -/
def lnLoop (w : Int) : Nat → Int → Int
  | 0, s => s
  | k + 1, s => lnLoop w k ((fx1 : Int) / (k + 1 : Nat) - mulq w s)
/-- ln c, c > 0 (R59). -/
def lnFx (c : Int) : Int :=
  let n : Int := (Nat.log2 c.toNat : Int) - 64
  let m : Int := if 0 ≤ n then c / 2 ^ n.toNat else c * 2 ^ (-n).toNat
  let i := 512 * (m - fx1) / (fx1 : Int)
  let m0 := (fx1 : Int) + i * (fx1 : Int) / 512
  let w := divq (m - m0) m0
  n * sliLn2 + sliLnT i.toNat + mulq w (lnLoop w 7 ((fx1 : Int) / 8))

/-- The level index of u ≥ 0 (R59); eight steps bring every fx value below 1. -/
def liFx : Nat → Int → Int
  | 0, u => u
  | f + 1, u => if u < fx1 then u else (fx1 : Int) + liFx f (lnFx u)
/-- li(u). -/
def li (u : Int) : Nat := (liFx 12 u).toNat

/-- A nonzero fx value as a triple. -/
def fromFx (v : Int) : SNum :=
  if (fx1 : Int) ≤ v.natAbs then .tri (decide (v < 0)) true (li v.natAbs)
  else .tri (decide (v < 0)) false (fx1 + li (-(lnFx v.natAbs)))

/-- v := exp_pos(v), j times. -/
def expIter : Nat → Int → Int
  | 0, v => v
  | j + 1, v => expIter j (expPos v)
/-- The magnitude of a big-side triple in fx, or none for LARGE. -/
def bigFx (x : Nat) : Option Int :=
  if x ≥ 3 * fx1 + 22 * fx1 / 64 then none else some (expIter (x / fx1) (x % fx1 : Nat))
/-- The magnitude of a reciprocal-side triple in fx (R59). -/
def recipFx (x : Nat) : Int :=
  if x < 2 * fx1 then expNeg ((fx1 : Int) - x)
  else match bigFx (x - fx1) with
    | some e => expNeg (-e)
    | none => 0
/-- to_fx (R59): none is LARGE. -/
def toFx : SNum → Option Int
  | .fx v => some v
  | .tri neg big x => (if big then bigFx x else some (recipFx x)).map (fun v => if neg then -v else v)

/-- The other sign. -/
def SNum.negate : SNum → SNum
  | .fx v => .fx (-v)
  | .tri neg big x => .tri (!neg) big x
/-- ln |A| of a triple (R59). -/
def lnOf : SNum → SNum
  | .fx v => .fx v
  | .tri _ big x => if x ≥ 2 * fx1 then .tri (!big) true (x - fx1) else if big then .fx ((x : Int) - fx1) else .fx ((fx1 : Int) - x)
/-- e^A as a triple (R59). -/
def expOf (a : SNum) : SNum :=
  match a with
  | .tri neg true x => .tri false (!neg) (x + fx1)
  | _ => let v := (toFx a).getD 0
         .tri false (decide (0 ≤ v)) (fx1 + li v.natAbs)

/-- Whether |B| > |A| for triples. -/
def magGt (b a : SNum) : Bool :=
  match b, a with
  | .tri _ g y, .tri _ f x => if g then (!f || decide (y > x)) else (!f && decide (y < x))
  | _, _ => false

/-- add_l on triples, given add_n (R59). -/
def addL (addN : SNum → SNum → SNum) (p q : SNum) : SNum :=
  let (a, b) := if magGt q p then (q, p) else (p, q)
  let neg := fun n => match n with | SNum.tri s _ _ => s | .fx v => decide (v < 0)
  let rho := match toFx (addN (lnOf a) (lnOf b).negate) with
    | none => 0
    | some e => expNeg (-(max e 0))
  let c := if neg a = neg b then (fx1 : Int) + rho else (fx1 : Int) - rho
  if c = 0 then .fx 0 else
  match expOf (addN (lnOf a) (.fx (lnFx c))) with
  | .tri _ big x => .tri (neg a) big x
  | z => z
/-- add_n (R59); `n` bounds the depth, which falls by a level at each step. -/
def addN : Nat → SNum → SNum → SNum
  | 0, p, _ => p
  | n + 1, p, q =>
    match toFx p, toFx q with
    | some a, some b => if a = 0 then q else if b = 0 then p else .fx (a + b)
    | x, y =>
      if x = some 0 then q else if y = some 0 then p else
      let up := fun (v : SNum) => match v with | SNum.fx w => fromFx w | t => t
      addL (addN n) (up p) (up q)

/-- Depth that no pair of operands exceeds. -/
def sliDepth : Nat := 16

/-! ## Delivery (R55, R56) -/

/-- A result with its encoding, flags, and level and side when finite and nonzero. -/
structure SOut where
  bits : Nat
  flags : BitVec 7
  place : Option (Nat × Bool)
  deriving DecidableEq, Repr

/-- The canonical NaN with INV. -/
def sliNan (wide : Bool) : SOut := ⟨2 ^ sliBits wide, lInv, none⟩
/-- Zero and infinity. -/
def sliZero (wide s : Bool) : SOut := ⟨ofBool s * 2 ^ (sliBits wide + 1), 0, none⟩
/-- Infinity of a sign. -/
def sliInf (wide s : Bool) : SOut := ⟨ofBool s * 2 ^ (sliBits wide + 1) + (2 ^ (sliBits wide + 1) - 1), 0, none⟩

/-- Round X, of `p` fraction bits (and something below when `sticky`), to the destination (R55). -/
def sliRound (wide s big : Bool) (p x : Nat) (sticky : Bool) : SOut :=
  let n := sliBits wide
  let f := n - 3
  let sh := p - f
  let q := x / 2 ^ sh
  let rem := x % 2 ^ sh
  let half := 2 ^ sh / 2
  let up := decide (half < rem) || (decide (rem = half ∧ 0 < sh) && (sticky || (decide (q % 2 = 1) == big)))
  let y := if up then q + 1 else q
  let past := decide (y ≥ 2 ^ n - 1)
  let z := if past then 2 ^ n - 2 else y
  let g := big || z = 2 ^ f
  ⟨ofBool s * 2 ^ (n + 1) + ofBool g * 2 ^ n + (if g then z else 2 ^ n - 1 - z),
   if past then (if big then lCeil else lFloor) else 0, some (z / 2 ^ f, g)⟩

/-- Deliver a number of the reference arithmetic with a sign. -/
def sliDeliver (wide : Bool) : SNum → SOut
  | .fx v => if v = 0 then sliZero wide false else
      match fromFx v with
      | .tri s g x => sliRound wide s g 64 x false
      | .fx _ => sliZero wide false
  | .tri s g x => sliRound wide s g 64 x false

/-- Level and side of a finite nonzero operand. -/
def SVal.place : SVal → Option (Nat × Bool)
  | .fin _ g x => some (x / fx1, g)
  | _ => none

/-- The level flags of a result against its operands (R56). -/
def levelFlags (out : SOut) (ops : List SVal) : BitVec 7 :=
  let ps := ops.filterMap SVal.place
  match out.place with
  | none => 0
  | some (l, g) =>
    if ps.isEmpty then 0 else
    (if ps.all (fun p => decide (p.1 < l)) then lLup else 0) ||| (if ps.all (fun p => decide (l < p.1)) then lLdn else 0)
      ||| (if ps.all (fun p => p.2 != g) then lGx else 0)

/-- A value delivered as it stands. -/
def sliValue (wide : Bool) : SVal → SOut
  | .nan => sliNan wide
  | .zero s => sliZero wide s
  | .inf s => sliInf wide s
  | .fin s g x => sliRound wide s g 64 x false

/-- The triple of a finite value. -/
def SVal.tri : SVal → SNum
  | .fin s g x => .tri s g x
  | _ => .fx 0
/-- The sign of a value. -/
def SVal.sign : SVal → Bool
  | .nan => false | .zero s => s | .inf s => s | .fin s _ _ => s
/-- The value with the other sign. -/
def SVal.negate : SVal → SVal
  | .nan => .nan | .zero s => .zero (!s) | .inf s => .inf (!s) | .fin s g x => .fin (!s) g x

/-! ## Operations (Table 4.5, R59, R60) -/

/-- `sadd` of two values. -/
def sliAdd (wide : Bool) (a b : SVal) : SOut :=
  match a, b with
  | .nan, _ => sliNan wide
  | _, .nan => sliNan wide
  | .inf s, .inf t => if s = t then sliInf wide s else sliNan wide
  | .inf s, _ => sliInf wide s
  | _, .inf t => sliInf wide t
  | .zero s, .zero t => sliZero wide (s && t)
  | .zero _, y => sliValue wide y
  | x, .zero _ => sliValue wide x
  | x, y => sliDeliver wide (addL (addN sliDepth) x.tri y.tri)

/-- The sign of a product put on a magnitude. -/
def SNum.withSign (s : Bool) : SNum → SNum
  | .tri _ g x => .tri s g x
  | .fx v => .fx v

/-- `smul` of two values. -/
def sliMul (wide : Bool) (a b : SVal) : SOut :=
  let s := a.sign != b.sign
  match a, b with
  | .nan, _ => sliNan wide
  | _, .nan => sliNan wide
  | .zero _, .inf _ => sliNan wide
  | .inf _, .zero _ => sliNan wide
  | .zero _, _ => sliZero wide s
  | _, .zero _ => sliZero wide s
  | .inf _, _ => sliInf wide s
  | _, .inf _ => sliInf wide s
  | x, y => sliDeliver wide ((expOf (addN sliDepth (lnOf x.tri) (lnOf y.tri))).withSign s)

/-- `sdiv` of two values. -/
def sliDiv (wide : Bool) (a b : SVal) : SOut :=
  let s := a.sign != b.sign
  match a, b with
  | .nan, _ => sliNan wide
  | _, .nan => sliNan wide
  | .zero _, .zero _ => sliNan wide
  | .inf _, .inf _ => sliNan wide
  | _, .zero _ => sliInf wide s
  | .inf _, _ => sliInf wide s
  | .zero _, _ => sliZero wide s
  | _, .inf _ => sliZero wide s
  | x, y => sliDeliver wide ((expOf (addN sliDepth (lnOf x.tri) (lnOf y.tri).negate)).withSign s)

/-- `slog` of a value. -/
def sliLog (wide : Bool) (a : SVal) : SOut :=
  match a with
  | .nan => sliNan wide
  | .zero _ => sliInf wide true
  | .inf s => if s then sliNan wide else sliInf wide false
  | .fin s _ x => if s then sliNan wide else if x = fx1 then sliZero wide false else sliDeliver wide (lnOf a.tri)

/-- `santi` of a value. -/
def sliAnti (wide : Bool) (a : SVal) : SOut :=
  match a with
  | .nan => sliNan wide
  | .zero _ => sliRound wide false true 64 fx1 false
  | .inf s => if s then sliZero wide false else sliInf wide false
  | x => sliDeliver wide (expOf x.tri)

/-- `srcp` (R60): the operand's bits but the sign inverted; GX for a finite operand other than 1.0. -/
def sliRcp (wide : Bool) (v : Nat) : SOut :=
  let n := sliBits wide
  match sliDecode wide v with
  | .nan => sliNan wide
  | .fin s _ x => if x = fx1 then sliRound wide s true 64 fx1 false
                  else ⟨(v % 2 ^ (n + 2)) ^^^ (2 ^ (n + 1) - 1), lGx, none⟩
  | _ => ⟨(v % 2 ^ (n + 2)) ^^^ (2 ^ (n + 1) - 1), 0, none⟩

/-- A result with its level flags. -/
def SOut.done (o : SOut) (ops : List SVal) : Nat × BitVec 7 := (o.bits, o.flags ||| levelFlags o ops)

/-! ## Exact level index and its inverse (R62, R63, R59's sacce term) -/

/-- Fraction bits of the exact computations. -/
def liP : Nat := 352

/-- ln of v = m · 2^k' as a fixed-point integer: `v` > 0 has `liP` fraction bits. -/
def fxLn (v : Nat) : Int :=
  let l := Nat.log2 v
  let k : Int := (l : Int) - liP
  k * fxLn2 liP + 2 * fxAtanh liP ((v - 2 ^ l) * 2 ^ liP / (v + 2 ^ l))
/-- ln of m · 2^e. -/
def fxLnOf (m : Nat) (e : Int) : Int :=
  let l := Nat.log2 m
  ((l : Int) + e) * fxLn2 liP + 2 * fxAtanh liP ((m - 2 ^ l) * 2 ^ liP / (m + 2 ^ l))
/-- Level index of u ≥ 0 in `liP` fraction bits. -/
def fxLi : Nat → Nat → Nat
  | 0, u => u
  | f + 1, u => if u < 2 ^ liP then u else 2 ^ liP + fxLi f (fxLn u).toNat
/-- Side and X of the number m · 2^e. -/
def exactLi (m : Nat) (e : Int) : Bool × Nat :=
  let w := fxLnOf m e
  (decide (0 ≤ w), 2 ^ liP + fxLi 12 w.natAbs)

/-- `sfrom` from an IEEE format (R62). -/
def sliFromFloat (wide : Bool) (f : FFmt) (v : Nat) : SOut :=
  match f.decode v with
  | .nan _ => sliNan wide
  | .zero s => sliZero wide s
  | .inf s => sliInf wide s
  | .fin s m e =>
    let (g, x) := exactLi m e
    sliRound wide s g liP x (x ≠ 2 ^ liP)

/-- e^v for v in `liP` fraction bits, as a fixed-point number below 2 and a power of two. -/
def fxExpBig (v : Nat) : Nat × Nat := (fxExp liP (v % fxLn2 liP), v / fxLn2 liP)
/-- φ of level n and fraction f, n ≥ 1: mantissa (liP fraction bits) and power of two; levels past the binary64 range are
cut before they grow. -/
def phiVal : Nat → Nat → Nat × Nat
  | 0, f => (f, 0)
  | n + 1, f =>
    let (m, k) := phiVal n f
    if k ≥ 14 then (2 ^ liP, 5000) else fxExpBig (m * 2 ^ k)

/-- The value a finite SLI number stands for. -/
def SVal.value (s big : Bool) (x : Nat) : FVal :=
  if x = fx1 then .fin s 1 0
  else
    let (m, k) := phiVal (x / fx1) (x % fx1 * 2 ^ (liP - 64))
    if k ≥ 5000 then .fin s 1 (if big then 5000 else -5000)
    else if big then (match fxVal s liP m with | .fin t q g => .fin t q (g + k) | v => v)
    else match fxVal s liP (2 ^ (2 * liP) / m) with | .fin t q g => .fin t q (g - k) | v => v

/-- `sto` (R63): encoding, FPFLAGS and SLIFLAGS. DESIGN CHOICE (notes/assumptions/37.md): R56 does not say whether an IEEE result takes part in the
level flags LUP, LDN and GX; it raises none of them here. -/
def sliTo (f : FFmt) (nbv : Nat) (r : Rnd) (v : SVal) : Nat × BitVec 5 × BitVec 7 :=
  match v with
  | .nan => (f.nan, 0, lInv)
  | .zero s => (f.sgn s, 0, 0)
  | .inf s => (f.sgn s + f.inf, 0, 0)
  | .fin s big x =>
    let (z, fl) := f.deliver nbv r (SVal.value s big x)
    (z, fl, if fl &&& fOverflow ≠ 0 ∨ z % 2 ^ (f.eb + f.fb) = 0 then lConv else 0)

/-- The `sacce` term of a finite binary32 value (R59). -/
def sliTerm (s : Bool) (m : Nat) (e : Int) : SNum :=
  let v : Int := if 0 ≤ e + 64 then ((m * 2 ^ (e + 64).toNat : Nat) : Int) else ((m / 2 ^ (-(e + 64)).toNat : Nat) : Int)
  let w := if s then -v else v
  let whole := 0 ≤ e + 64 || m % 2 ^ (-(e + 64)).toNat = 0
  if whole && decide (-(2 ^ 95) ≤ w) && decide (w < 2 ^ 95) then .fx w
  else
    let (g, x) := exactLi m e
    .tri s g (x / 2 ^ (liP - 64))

/-- `sacce` (R57, R59): accumulator encoding and binary32 x. DESIGN CHOICE (notes/assumptions/37.md): with x = -infinity an accumulator that holds a
non-canonical 1.0 keeps its bits ("accumulator unchanged", Table 4.5), though R55 makes results of 1.0 canonical. -/
def sliAcce (acc x : Nat) : Nat × BitVec 7 :=
  let d := sliDecode true acc
  let term : SVal := match fmtF.decode x with
    | .zero _ => .fin false true fx1
    | .fin s m e => (match expOf (sliTerm s m e) with | .tri _ g y => SVal.fin false g y | .fx _ => SVal.zero false)
    | _ => .zero false
  match fmtF.decode x with
  | .nan _ => (sliNan true).done []
  | .inf s => if s then (if d = .nan then (sliNan true).done [] else (acc % 2 ^ 64, 0)) else (sliAdd true d (.inf false)).done [d]
  | _ => (sliAdd true d term).done [d, term]

/-- Widening and narrowing between SLI formats (R64). -/
def sliResize (toWide fromWide : Bool) (v : Nat) : Nat × BitVec 7 :=
  (sliValue toWide (sliDecode fromWide v)).done [sliDecode fromWide v]

/-- The order of two values that are not NaN (R54, R76). -/
def SVal.order (a b : SVal) : Int :=
  let key := fun (v : SVal) => match v with
    | .nan => (0 : Int) | .zero _ => 0
    | .inf s => (if s then -1 else 1) * 2 ^ 80
    | .fin s g x => (if s then -1 else 1) * (if g then (2 ^ 70 : Int) + x else 2 ^ 70 - x)
  (key a - key b).sign

/-- Relations of `scmp` (R76). -/
def scmpRel (cond : Nat) (a b : SVal) : Bool × BitVec 7 :=
  let un := a == .nan || b == .nan
  let o := a.order b
  let fl := if un && 2 ≤ cond && cond ≤ 5 then lInv else 0
  (match cond with
   | 0 => !un && decide (o = 0)
   | 1 => un || decide (o ≠ 0)
   | 2 => !un && decide (o < 0)
   | 3 => !un && decide (o ≤ 0)
   | 4 => !un && decide (0 < o)
   | 5 => !un && decide (0 ≤ o)
   | 6 => un
   | _ => !un, fl)

end Sys2Proof.Machine
end

