-- ==== Sys2Proof/Machine/Convert.lean ====
section
/-!
DEFINITION. Conversions, special functions and the SLI instructions, opcodes 0x50 to 0x69 (06 R95 to R99).
-/
namespace Sys2Proof.Machine
open Sys2Proof Bits Encoding

/-- `cvt` (R95). -/
def bodyCvt (e : Enc) (s : State) : Except Stop State :=
  let c := e.c.toNat % 16
  .ok (s.putF e (tw e.t) (cvtT e.t.toNat c s.lau.nbv e.m.toNat (s.op1 e (tw (BitVec.ofNat 4 c)))))
/-- `quant` (R96). -/
def bodyQuant (e : Enc) (s : State) : Except Stop State :=
  let (q, f) := quantT s.lau.nbv (s.opB e 1) (bit e.m.toNat 2) (s.opA e 1)
  .ok (s.putF e 1 (wrapInt 32 q, f))
/-- `dequant` (R96). -/
def bodyDequant (e : Enc) (s : State) : Except Stop State :=
  .ok (s.putF e 1 (dequantT s.lau.nbv (s.opB e 1) (sint (if bit e.m.toNat 2 then 4 else 8) (s.opA e 1))))
/-- One half of `pack` (R97). -/
def packHalf (e : Enc) (nbv v : Nat) : Nat × BitVec 5 :=
  if e.t = 0 then (v % 2 ^ 16, 0) else floatToFloat fmtF (fmtOf e.t) nbv (fR e) v
/-- `pack` (R97). -/
def bodyPack (e : Enc) (s : State) : Except Stop State :=
  let lo := packHalf e s.lau.nbv (s.opA e 1)
  let hi := packHalf e s.lau.nbv (s.opB e 1)
  .ok (s.putF e 1 (lo.1 + 2 ^ 16 * hi.1, lo.2 ||| hi.2))
/-- One element of `unpack` (R97). -/
def unpackHalf (e : Enc) (nbv v : Nat) : Nat × BitVec 5 := if e.t = 0 then (v, 0) else floatToFloat (fmtOf e.t) fmtF nbv .ne v
/-- `unpack` (R97). -/
def bodyUnpack (e : Enc) (s : State) : Except Stop State :=
  let a := s.op1 e 1
  let lo := unpackHalf e s.lau.nbv (a % 2 ^ 16)
  let hi := unpackHalf e s.lau.nbv (a / 2 ^ 16)
  .ok (s.putF e 2 (lo.1 + 2 ^ 32 * hi.1, lo.2 ||| hi.2))

/-- A special function (R98), long-latency. -/
def bodySpecial (f : FVal → FVal × BitVec 5) (e : Enc) (s : State) : Except Stop State :=
  let x := farith1 f e.t s.lau.nbv (fR e) (s.op1 e 1)
  .ok (s.laterF e 1 x.1 x.2)
/-- `fexp2`. -/
def bodyFexp2 : Body := bodySpecial vExp2
/-- `flog2`. -/
def bodyFlog2 : Body := bodySpecial vLog2
/-- `fsin`. -/
def bodyFsin : Body := bodySpecial vSin
/-- `fcos`. -/
def bodyFcos : Body := bodySpecial vCos
/-- `ftanh`. -/
def bodyFtanh : Body := bodySpecial vTanh

/-- Whether an SLI instruction works on SLI64. -/
def sliWide (e : Enc) : Bool := e.t = 3
/-- Leave an SLI result pending. -/
def State.laterSli (e : Enc) (x : Nat × BitVec 7) (s : State) : State := s.laterS e (tw e.t) x.1 0 x.2
/-- A two-operand SLI instruction (R99). -/
def bodySli2 (f : Bool → SVal → SVal → SOut) (e : Enc) (s : State) : Except Stop State :=
  let a := sliDecode (sliWide e) (s.opA e (tw e.t))
  let b := sliDecode (sliWide e) (s.opB e (tw e.t))
  .ok (s.laterSli e ((f (sliWide e) a b).done [a, b]))
/-- `sadd`. -/
def bodySadd : Body := bodySli2 sliAdd
/-- `ssub`. -/
def bodySsub : Body := bodySli2 (fun w a b => sliAdd w a b.negate)
/-- `smul`. -/
def bodySmul : Body := bodySli2 sliMul
/-- `sdiv`. -/
def bodySdiv : Body := bodySli2 sliDiv
/-- `srcp` (R60): it completes at once. -/
def bodySrcp (e : Enc) (s : State) : Except Stop State :=
  let x := (sliRcp (sliWide e) (s.op1 e (tw e.t))).done []
  .ok ((s.putD e (tw e.t) x.1).orSli x.2)
/-- A one-operand SLI instruction. -/
def bodySli1 (f : Bool → SVal → SOut) (e : Enc) (s : State) : Except Stop State :=
  let a := sliDecode (sliWide e) (s.op1 e (tw e.t))
  .ok (s.laterSli e ((f (sliWide e) a).done [a]))
/-- `slog`. -/
def bodySlog : Body := bodySli1 sliLog
/-- `santi`. -/
def bodySanti : Body := bodySli1 sliAnti
/-- `sfrom` (R62, R64): the source's type is in c. DESIGN CHOICE (notes/assumptions/37.md): R56 does not say whether an IEEE operand takes part in the
level flags LUP, LDN and GX; it is compared with nothing here. -/
def bodySfrom (e : Enc) (s : State) : Except Stop State :=
  let a := s.op1 e (tw (e.c.setWidth 4))
  .ok (s.laterSli e
    (if e.c = 0 then sliResize (sliWide e) false a else if e.c = 3 then sliResize (sliWide e) true a
     else (sliFromFloat (sliWide e) (fmtOf (e.c.setWidth 4)) a).done []))
/-- `sto` (R63): its result does not depend on sr.nbv (R52, Table 3.9), so a subnormal one is kept. -/
def bodySto (e : Enc) (s : State) : Except Stop State :=
  let wide : Bool := e.c = 3
  let (z, f, g) := sliTo (fmtOf e.t) 2 (fR e) (sliDecode wide (s.op1 e (tw (e.c.setWidth 4))))
  .ok (s.laterS e (tw e.t) z f g)
/-- `sacce` (R59): the accumulator pair d is read and written. -/
def bodySacce (e : Enc) (s : State) : Except Stop State :=
  .ok (s.laterSli e (sliAcce (s.opD e 2) (s.op1 e 1)))

/-- CVT -/
def execCvt (e : LX) (s : State) : Outcome := s.issue false bodyCvt (e.enc 0x50)
/-- QUANT -/
def execQuant (e : LX) (s : State) : Outcome := s.issue false bodyQuant (e.enc 0x51)
/-- DEQUANT -/
def execDequant (e : LX) (s : State) : Outcome := s.issue false bodyDequant (e.enc 0x52)
/-- PACK -/
def execPack (e : LX) (s : State) : Outcome := s.issue false bodyPack (e.enc 0x53)
/-- UNPACK -/
def execUnpack (e : LX) (s : State) : Outcome := s.issue false bodyUnpack (e.enc 0x54)
/-- FEXP2 -/
def execFexp2 (e : LX) (s : State) : Outcome := s.issue false bodyFexp2 (e.enc 0x58)
/-- FLOG2 -/
def execFlog2 (e : LX) (s : State) : Outcome := s.issue false bodyFlog2 (e.enc 0x59)
/-- FSIN -/
def execFsin (e : LX) (s : State) : Outcome := s.issue false bodyFsin (e.enc 0x5A)
/-- FCOS -/
def execFcos (e : LX) (s : State) : Outcome := s.issue false bodyFcos (e.enc 0x5B)
/-- FTANH -/
def execFtanh (e : LX) (s : State) : Outcome := s.issue false bodyFtanh (e.enc 0x5C)
/-- SADD -/
def execSadd (e : LX) (s : State) : Outcome := s.issue false bodySadd (e.enc 0x60)
/-- SSUB -/
def execSsub (e : LX) (s : State) : Outcome := s.issue false bodySsub (e.enc 0x61)
/-- SMUL -/
def execSmul (e : LX) (s : State) : Outcome := s.issue false bodySmul (e.enc 0x62)
/-- SDIV -/
def execSdiv (e : LX) (s : State) : Outcome := s.issue false bodySdiv (e.enc 0x63)
/-- SRCP -/
def execSrcp (e : LX) (s : State) : Outcome := s.issue false bodySrcp (e.enc 0x64)
/-- SLOG -/
def execSlog (e : LX) (s : State) : Outcome := s.issue false bodySlog (e.enc 0x65)
/-- SANTI -/
def execSanti (e : LX) (s : State) : Outcome := s.issue false bodySanti (e.enc 0x66)
/-- SFROM -/
def execSfrom (e : LX) (s : State) : Outcome := s.issue false bodySfrom (e.enc 0x67)
/-- STO -/
def execSto (e : LX) (s : State) : Outcome := s.issue false bodySto (e.enc 0x68)
/-- SACCE -/
def execSacce (e : LX) (s : State) : Outcome := s.issue false bodySacce (e.enc 0x69)

end Sys2Proof.Machine
end

