-- ==== Sys2Proof/Machine/CrossLane.lean ====
section
/-!
DEFINITION. Cross-lane instructions, opcodes 0x90 to 0x96 (07 R110, R111; 11 R173 to R175; 03 R50).
-/
namespace Sys2Proof.Machine
open Sys2Proof Bits Encoding

/-! ## Arriving at a gather -/

/-- Lanes of a mask without a live thread in the checked-out thread's pack (R110, R114). -/
def State.absentLanes (s : State) (mask : Word) : Bool :=
  let ts := s.packThreads s.thr.key.gid (s.thr.key.tid / 32)
  (List.range 32).any (fun l => mask.getLsbD l && !(ts.any (fun t => t.key.tid % 32 = l && t.status ≠ .exited)))

/-- Arrive at a gather with a member mask (R110, R111): XMASK and XABSENT are checked at issue. A member whose guard is false waits at its PC as an
empty slot, whatever its own mask is. -/
def State.arrive (e : Enc) (mask : Word) (s : State) : Except Stop State :=
  let live := s.thr.guard e.g e.n
  if live && !mask.getLsbD (s.thr.key.tid % 32) then .error (.trap 5 mask 0)
  else if live && s.absentLanes mask then .error (.trap 6 mask 0)
  else .ok { s with thr := { s.thr with status := .waiting (.gather e.op mask (toWords e) live), waitSince := s.dev.clk, waited := 0 } }

/-- A cross-lane instruction at issue: b is the member mask (R173). -/
def bodyCross (e : Enc) (s : State) : Except Stop State := s.arrive e (if e.form = .x then e.lit else s.read32 e.b)

/-! ## The gathered instruction -/

/-- Whether another thread stands in the gather of `t`: at its PC with the same opcode and the same mask, or with a false guard (R110). -/
def Thread.gatheredWith (t u : Thread) : Bool :=
  match t.status, u.status with
  | .waiting (.gather op mask _ _), .waiting (.gather op' mask' _ live) => op = op' && t.pc = u.pc && (mask = mask' || !live)
  | _, _ => false

/-- Whether a thread of the pack may still count the checked-out thread, whose guard is false, as a member: it stands at the same PC, and is ready,
or waits with a true guard and names its lane. -/
def Thread.mayCount (t u : Thread) : Bool :=
  u.key ≠ t.key && u.pc = t.pc && (match u.status with
    | .ready => !u.held
    | .waiting (.gather _ mask _ live) => live && mask.getLsbD (t.key.tid % 32)
    | _ => false)

/-- Whether the gather of the checked-out thread rests on its own mask: one whose guard is false may carry a mask that can never gather. -/
def State.ownGather (mask : Word) (live : Bool) (s : State) : Bool :=
  live || (mask.getLsbD (s.thr.key.tid % 32) && !s.absentLanes mask)

/-- Lanes that the checked-out thread's gather still waits for: those of its mask that have not gathered, or, where its own mask counts for
nothing, the threads that may still count it. -/
def State.missingLanes (s : State) : List Nat :=
  match s.thr.status with
  | .waiting (.gather _ mask _ live) =>
    let ts := s.packThreads s.thr.key.gid (s.thr.key.tid / 32)
    if s.ownGather mask live then
      (List.range 32).filter (fun l => mask.getLsbD l && !(ts.any (fun t => t.key.tid % 32 = l && s.thr.gatheredWith t)))
    else (ts.filter s.thr.mayCount).map (fun t => t.key.tid % 32)
  | _ => []

/-- Whether a thread completes with the checked-out thread's gather. -/
def State.inGather (s : State) (t : Thread) : Bool :=
  match s.thr.status with
  | .waiting (.gather _ mask _ live) =>
    t.key = s.thr.key || (s.ownGather mask live && s.thr.gatheredWith t && mask.getLsbD (t.key.tid % 32))
  | _ => false

/-- A live member: its lane, and its thread. -/
abbrev Member := Nat × Thread

/-- The live members of the checked-out thread's gather, in lane order. -/
def State.liveMembers (s : State) : List Member :=
  ((s.packThreads s.thr.key.gid (s.thr.key.tid / 32)).filter (fun t => s.inGather t &&
    (match t.status with | .waiting (.gather _ _ _ live) => live | _ => false))).map (fun t => (t.key.tid % 32, t))

/-- A register operand of a member: uniform registers through the group. -/
def State.memberReg (s : State) (t : Thread) (c : BitVec 8) (n : Nat) : Nat :=
  { s with thr := t }.readN c n

/-- One step of a reduction of type T: operation code, and the flags it raises (R174). -/
def redStep (op : Nat) (t : BitVec 4) (nbv : Nat) (a b : Nat) : Nat × BitVec 5 :=
  if 6 ≤ t.toNat then
    (match op with
     | 0 => farith2 (FVal.add .ne) t nbv .ne a b
     | 1 => fminmax false t nbv a b
     | _ => fminmax true t nbv a b)
  else
    let w := (intType t.toNat).2
    let less := fun x y => decide (intVal t.toNat x < intVal t.toNat y)
    (match op with
     | 0 => (a + b) % 2 ^ w
     | 1 => if less b a then b else a
     | 2 => if less a b then b else a
     | 3 => a &&& b
     | 4 => a ||| b
     | _ => a ^^^ b, 0)

/-- The identity of an operation (R174). -/
def redIdentity (op : Nat) (t : BitVec 4) : Nat :=
  if 6 ≤ t.toNat then
    let f := fmtOf t
    match op with | 0 => 0 | 1 => f.inf | _ => f.sgn true + f.inf
  else
    let (sg, w) := intType t.toNat
    match op with
    | 1 => if sg then 2 ^ (w - 1) - 1 else 2 ^ w - 1
    | 2 => if sg then 2 ^ (w - 1) else 0
    | 3 => 2 ^ w - 1
    | _ => 0

/-- Slots of one level of the reduction tree: pairs combine, an empty slot leaves the other (R50). -/
def treeLevel (step : Nat → Nat → Nat × BitVec 5) : List (Option Nat) → List (Option Nat) × BitVec 5
  | a :: b :: rest =>
    let (xs, f) := treeLevel step rest
    match a, b with
    | some x, some y => let (z, g) := step x y; (some z :: xs, f ||| g)
    | some x, none => (some x :: xs, f)
    | none, y => (y :: xs, f)
  | l => (l, 0)
/-- Five levels over the 32 slots. -/
def treeReduce (step : Nat → Nat → Nat × BitVec 5) : Nat → List (Option Nat) → Option Nat × BitVec 5
  | 0, l => (l.head?.join, 0)
  | n + 1, l =>
    let (l1, f) := treeLevel step l
    let (r, g) := treeReduce step n l1
    (r, f ||| g)

/-- Inclusive prefixes in ascending lane order, with the flags of every step (R50). -/
def prefixes (step : Nat → Nat → Nat × BitVec 5) : Option Nat → List (Nat × Nat) → List (Nat × Nat) × BitVec 5
  | _, [] => ([], 0)
  | acc, (l, v) :: rest =>
    let (w, f) := match acc with | some a => step a v | none => (v, 0)
    let (ps, g) := prefixes step (some w) rest
    ((l, w) :: ps, f ||| g)

/-- The value of lane `i`, when it is among the members. -/
def laneVal (vs : List (Nat × Nat)) (i : Nat) : Option Nat := lookup i vs

/-- The lane `xperm` reads for lane `i` and distance `c` in a mode, where it lies in the pack (R174). -/
def permSource (mode i c : Nat) : Option Nat :=
  match mode with
  | 0 => some c
  | 1 => if c ≤ i then some (i - c) else none
  | 2 => if i + c < 32 then some (i + c) else none
  | _ => some (i ^^^ c)

/-- An operand of a reduction: a 16-bit format reads the low half alone (R87, R174). -/
def redInput (t : BitVec 4) (v : Nat) : Nat := if 6 ≤ t.toNat then v % 2 ^ (1 + (fmtOf t).eb + (fmtOf t).fb) else v

/-- What each live member receives: by lane, the result; and the flags all of them raise (R174). -/
def crossResult (e : Enc) (nbv : Nat) (vals : List (Nat × Nat)) (arg : List (Nat × Nat)) (preds : List (Nat × Bool)) :
    List (Nat × Nat) × BitVec 5 :=
  let m := e.m.toNat
  let lanes := vals.map Prod.fst
  let own := fun i => (laneVal vals i).getD 0
  let step := redStep (m % 8) e.t nbv
  let red := vals.map (fun v => (v.1, redInput e.t v.2))
  match e.op.toNat with
  | 0x90 =>
    (lanes.map (fun i => (i, ((permSource (m % 4) i ((laneVal arg i).getD 0 % 32)).bind (laneVal vals)).getD (own i))), 0)
  | 0x91 =>
    let src := if bit m 5 then lanes.headD 0 else m % 32
    (lanes.map (fun i => (i, (laneVal vals src).getD (own i))), 0)
  | 0x92 =>
    let p := preds.filter (fun q => q.2)
    let r := match m % 4 with
      | 0 => p.foldl (fun acc q => acc + 2 ^ q.1) 0
      | 1 => ofBool (p.length = preds.length)
      | 2 => ofBool (!p.isEmpty)
      | _ => ofBool (p.length = preds.length || p.isEmpty)
    (preds.map (fun q => (q.1, r)), 0)
  | 0x93 =>
    let (r, f) := treeReduce step 5 ((List.range 32).map (laneVal red))
    (lanes.map (fun i => (i, r.getD 0)), f)
  | 0x94 =>
    let (ps, f) := prefixes step none red
    let excl := lanes.zip (redIdentity (m % 8) e.t :: ps.map Prod.snd)
    (if bit m 3 then excl else ps, f)
  | 0x95 => (vals.map (fun v => (v.1, (vals.filter (fun u => u.2 = v.2)).foldl (fun acc u => acc + 2 ^ u.1) 0)), 0)
  | _ => (lanes.map (fun i => (i, ofBool (some i = lanes.head?))), 0)

/-- Registers of a cross-lane result: a predicate has none. -/
def crossWidth (e : Enc) : Nat := if e.op = 0x92 || e.op = 0x95 then 1 else tw e.t

/-- A member receives its result and its flags, and leaves the gather (R174). -/
def Thread.gathered (t : Thread) (e : Enc) (clk : Nat) (res : List (Nat × Nat)) (fl : BitVec 5) : Thread :=
  match lookup (t.key.tid % 32) res with
  | .some v =>
    let t1 := if e.op = 0x96 then t.putQ e.d.toNat (v ≠ 0) else t.putDst e.d (words (crossWidth e) v)
    (t1.orFp fl).wake clk
  | .none => t.wake clk

/-- The gathered instruction of the checked-out thread completes for every member together (R110, R174). -/
def State.completeGather (e : Enc) (s : State) : State :=
  let ms := s.liveMembers
  let n := tw e.t
  let vals := ms.map (fun m => (m.1, s.memberReg m.2 e.a n))
  let arg := ms.map (fun m => (m.1, s.memberReg m.2 e.c 1))
  let preds := ms.map (fun m => (m.1, m.2.getQ e.c.toNat))
  let (res, fl) := crossResult e s.lau.nbv vals arg preds
  s.mapThreads (fun t => if t.key.gid = s.thr.key.gid && t.key.tid / 32 = s.thr.key.tid / 32 && s.inGather t
    then t.gathered e s.dev.clk res fl else t)

/-- XPERM -/
def execXperm (e : LX) (s : State) : Outcome := s.issue true bodyCross (e.enc 0x90)
/-- XBCAST -/
def execXbcast (e : LX) (s : State) : Outcome := s.issue true bodyCross (e.enc 0x91)
/-- XVOTE -/
def execXvote (e : LX) (s : State) : Outcome := s.issue true bodyCross (e.enc 0x92)
/-- XRED -/
def execXred (e : LX) (s : State) : Outcome := s.issue true bodyCross (e.enc 0x93)
/-- XSCAN -/
def execXscan (e : LX) (s : State) : Outcome := s.issue true bodyCross (e.enc 0x94)
/-- XMATCH -/
def execXmatch (e : LX) (s : State) : Outcome := s.issue true bodyCross (e.enc 0x95)
/-- XELECT -/
def execXelect (e : LX) (s : State) : Outcome := s.issue true bodyCross (e.enc 0x96)

end Sys2Proof.Machine
end

