-- ==== Sys2Proof/Machine/SeqMove.lean ====
section
/-!
DEFINITION. Moving and sealing KV blocks: canonical trees, transfers between devices, slices and their references, the token
record, and what a step end applies (19 R262, R266, R268, R274, R282; 22 R320).
-/
namespace Sys2Proof.Machine
open Sys2Proof Bits Encoding

/-! ## Acting on another device's partition -/

/-- Run an operation with partition `p` of device `d` checked out. -/
def State.within {α : Type} (d p : Nat) (f : State → Except Stop (α × State)) (s : State) : Except Stop (α × State) :=
  let d0 := s.part.dev
  let p0 := s.part.pid
  match f (s.focusPart d p) with
  | .error st => .error st
  | .ok (a, s1) => .ok (a, s1.focusPart d0 p0)

/-! ## Canonical trees (R238, R262) -/

/-- The bytes of an interior line with tag 0 (Table 17.2, R320). -/
def interiorLine (depth : Nat) (children : List DWord) : List Byte :=
  let body := toBytes 1 children.length ++ toBytes 1 depth ++ toBytes 6 0 ++ children.flatMap (fun c => toBytes 8 c.toNat)
  body ++ List.replicate (128 - body.length) 0

/-- Allocate leaves with `cloa`, in order. -/
def allocLeaves (r : Nat) : List (List Byte) → State → Except Stop (List DWord × State)
  | [], s => .ok ([], s)
  | b :: bs, s =>
    match s.cloa r false b with
    | .error st => .error st
    | .ok (n, s1) =>
      match allocLeaves r bs s1 with
      | .error st => .error st
      | .ok (ns, s2) => .ok (n :: ns, s2)

/-- Drop one reference on each name. -/
def State.dropAll (names : List DWord) (s : State) : State := { s with part := names.foldl Part.decr s.part }

/-- Allocate the lines of one depth over `names`: each holds 15 children except the last; `n` bounds the lines. The builder's own
references on the children pass to their parents. -/
def allocLevel (r depth : Nat) : Nat → List DWord → State → Except Stop (List DWord × State)
  | 0, _, s => .ok ([], s)
  | n + 1, names, s =>
    if names.isEmpty then .ok ([], s) else
    match s.cloa r true (interiorLine depth (names.take 15)) with
    | .error st => .error st
    | .ok (x, s1) =>
      match allocLevel r depth n (names.drop 15) (s1.dropAll (names.take 15)) with
      | .error st => .error st
      | .ok (xs, s2) => .ok (x :: xs, s2)

/-- Build depths until one line is left. -/
def allocTop (r : Nat) : Nat → Nat → List DWord → State → Except Stop (DWord × State)
  | 0, _, names, s => .ok (names.headD 0, s)
  | n + 1, depth, names, s =>
    if names.length ≤ 1 then .ok (names.headD 0, s) else
    match allocLevel r depth names.length names s with
    | .error st => .error st
    | .ok (up, s1) => allocTop r n (depth + 1) up s1

/-- `bs` cut into lines of 128 bytes. -/
def lines128 (bs : List Byte) : List (List Byte) := (List.range (bs.length / 128)).map (fun i => (bs.drop (128 * i)).take 128)

/-- The canonical tree of a byte string of whole lines, in the checked-out partition (R262): its root name, one reference held. -/
def State.buildTree (r : Nat) (bs : List Byte) (s : State) : Except Stop (DWord × State) :=
  match allocLeaves r (lines128 bs) s with
  | .error st => .error st
  | .ok (names, s1) => allocTop r 7 1 names s1

/-! ## Sending a tree (R268) -/

mutual
/-- The checked-out partition receives a line of `src` with everything below it: leaves first, interior lines rewritten with its
own children's names; one reference is held on the result. -/
def recvLine (src : Part) (r : Nat) : Nat → DWord → State → Except Stop (DWord × State)
  | 0, _, s => .ok (0, s)
  | n + 1, name, s =>
    match src.line name with
    | none => .ok (0, s)
    | some l =>
      if !l.interior then s.cloa r false l.bytes else
      match recvLines src r n (lineChildren l.bytes) s with
      | .error st => .error st
      | .ok (names, s1) =>
        let body := l.bytes.take 8 ++ names.flatMap (fun c => toBytes 8 c.toNat)
        match s1.cloa r true (body ++ List.replicate (128 - body.length) 0) with
        | .error st => .error st
        | .ok (x, s2) => .ok (x, s2.dropAll names)
/-- The children of an interior line, in order. -/
def recvLines (src : Part) (r : Nat) : Nat → List DWord → State → Except Stop (List DWord × State)
  | _, [], s => .ok ([], s)
  | n, c :: cs, s =>
    match recvLine src r n c s with
    | .error st => .error st
    | .ok (x, s1) =>
      match recvLines src r n cs s1 with
      | .error st => .error st
      | .ok (xs, s2) => .ok (x :: xs, s2)
end

/-- Send the tree of `root` from device `a` to device `b` (R268): its name there. -/
def State.sendTree (a b pid r : Nat) (root : DWord) (s : State) : Except Stop (DWord × State) :=
  s.within b pid (recvLine (s.part? a pid) r 9 root)

/-! ## Token ids and chain hashes (R261, R274) -/

/-- The committed token ids, as bytes. -/
def State.seqIds (q : SeqCtx) (s : State) : List Byte :=
  let home := s.part? (field q.id.toNat 25 16) q.pid
  ((home.treeBytes 9 q.tokens).take (4 * (q.lenc / 32 * 32))) ++ q.tailIds.flatMap (fun w => toBytes 4 w.toNat)

/-- Chain hash of block `blk` under the key of device `d` (R251, R274). -/
def State.blockHash (d pid b blk : Nat) (ids : List Byte) (s : State) : DWord :=
  let p := s.part? d pid
  BitVec.ofNat 64 (chainHash p.ka p.kb ids 0 ((blk + 1) * b / 16))

/-! ## References of slices (R268, R269, R274) -/

/-- One reference more or less on a name of device `d`. -/
def State.refAt (d pid : Nat) (name : DWord) (up : Bool) : State → State :=
  State.updPart d pid (fun p => if up then p.incr name else p.decr name)

/-- A context gives up a slice page: the last one to do so drops the references the page holds. -/
def State.dropPage (pid : Nat) (hs : List (Nat × SliceEntry)) (s : State) (pg : Nat × Nat) : State :=
  let n := (lookup pg.2 (s.dev? pg.1).pages).getD 1
  if n ≤ 1 then
    (hs.filter (fun h => h.1 = pg.1 && h.2.page = pg.2)).foldl (fun s h => s.refAt h.1 pid h.2.root false)
      (s.updDev pg.1 (fun v => { v with pages := Bits.erase pg.2 v.pages }))
  else s.updDev pg.1 (fun v => { v with pages := Bits.insert pg.2 (n - 1) v.pages })

/-- Holdings of views that end, one for each block of a device. -/
def holdingsOf (vs : List View) : List (Nat × SliceEntry) :=
  (vs.flatMap View.holdings).foldl (fun acc h =>
    if acc.any (fun x => x.1 = h.1 && x.2.blk = h.2.blk && (x.2.page = 0) == (h.2.page = 0)) then acc else acc ++ [h]) []

/-- Drop the references of views that end, but for the blocks a device keeps holding in the view `keep` (R268, R269). -/
def State.settle (pid : Nat) (vs : List View) (keep : Option View) (s : State) : State :=
  let hs := holdingsOf vs
  let kept := fun (h : Nat × SliceEntry) => match keep with
    | none => false
    | some v => v.holdings.any (fun x => x.1 = h.1 && x.2.blk = h.2.blk && x.2.root = h.2.root)
  let own := hs.filter (fun h => h.2.page = 0 && !kept h)
  let pages := ((hs.filter (fun h => h.2.page ≠ 0)).map (fun h => (h.1, h.2.page))).dedup
  pages.foldl (State.dropPage pid hs) (own.foldl (fun s h => s.refAt h.1 pid h.2.root false) s)

/-- The first change to a shared slice page copies it (R274): the copy takes a reference on each root, and its entries are the
context's own from then on. -/
def State.unsharePage (pid : Nat) (d : Nat) (pg : Nat) (v : View) (s : State) : View × State :=
  if pg = 0 then (v, s) else
  let hs := v.holdings
  let s1 := (hs.filter (fun h => h.1 = d && h.2.page = pg)).foldl (fun s h => s.refAt d pid h.2.root true) s
  let v1 := { v with slices := v.slices.map (fun l => l.map (fun (e : SliceEntry) => if e.page = pg then { e with page := 0 } else e)) }
  (v1, State.dropPage pid hs s1 (d, pg))

/-- Record a root the device holds a reference on as the entry of a block (R274, R282). -/
def State.recordBlock (pid : Nat) (e : SliceEntry) (v : View) (s : State) : View × State :=
  let w := v.members.length
  let near := (v.slices.getD (e.blk % w) []).find? (fun x => x.page ≠ 0 && x.blk / w / 256 = e.blk / w / 256)
  let (v1, s1) := s.unsharePage pid (v.owner e.blk) ((near.map SliceEntry.page).getD 0) v
  let s2 := match v1.entry? e.blk with | some old => s1.refAt (v.owner e.blk) pid old.root false | none => s1
  (v1.putEntry e, s2)

/-! ## Sealing a block (R282) -/

/-- Seal block `blk` of a view from its owner's tail bytes: build the canonical tree there, hash it and write the slice entry.
Table 22.2 (R322): its root counts one for each context or prefix entry that holds it, its lines one for their parent. -/
def State.sealBlock (q : SeqCtx) (blk : Nat) (ids : List Byte) (v : View) (s : State) : Except Stop (View × State) :=
  let c := s.seqCls q
  let d := v.owner blk
  match s.within d q.pid (State.buildTree c.region (Mem.read s.mem (tailKey d q.id blk 0) (c.block * c.bytes))) with
  | .error st => .error st
  | .ok (root, s1) => .ok (s1.recordBlock q.pid ⟨blk, root, s1.blockHash d q.pid c.block blk ids, 0⟩ v)

/-- Seal blocks in turn. -/
def sealBlocks (q : SeqCtx) (ids : List Byte) : List Nat → View → State → Except Stop (View × State)
  | [], v, s => .ok (v, s)
  | b :: bs, v, s =>
    match s.sealBlock q b ids v with
    | .error st => .error st
    | .ok (v1, s1) => sealBlocks q ids bs v1 s1

/-! ## Step end (R266, R282, R320) -/

/-- The token record over the full leaves of `ids`, the old one's reference dropped (R320), at the home device; equal leaves of two
records are one line that both count in (R322: `L0`, `L1` under T and T′). -/
def State.newRecord (q : SeqCtx) (ids : List Byte) (s : State) : Except Stop (DWord × State) :=
  let n := ids.length / 128 * 128
  if n = q.lenc / 32 * 128 then .ok (q.tokens, s) else
  s.within (field q.id.toNat 25 16) q.pid (fun s =>
    match s.buildTree (s.seqCls q).region (ids.take n) with
    | .error st => .error st
    | .ok (root, s1) => .ok (root, s1.dropAll [q.tokens]))

/-- Words of a byte string. -/
def wordsOf (bs : List Byte) : List Word := (List.range (bs.length / 4)).map (fun i => wordAt bs (4 * i))

/-- Apply the pending commits of a step as one change of its context (R266, R282, R320): LENC rises to LENT, the blocks filled are sealed and
the token record is renewed, which leaves the contexts of Table 22.2 (R322); an error is a content region that
cannot take the lines. -/
def State.applyCommits (q : SeqCtx) (t : Step) (s : State) : Except Stop (SeqCtx × State) :=
  let c := s.seqCls q
  let ids := s.seqIds q ++ t.commits.flatMap (fun w => toBytes 4 w.toNat)
  let lenc := q.lenc + t.commits.length
  match q.view? t.view with
  | none => .ok (q, s)
  | some v =>
    match s.newRecord q ids with
    | .error st => .error st
    | .ok (root, s1) =>
      let full := (List.range (lenc / c.block - q.lenc / c.block)).map (fun i => q.lenc / c.block + i)
      let rebuilt := match t.rebuild with
        | none => []
        | some (f, n) => ((List.range n).map (fun i => f + i)).filter (fun b =>
            v.lost.contains b && (v.run.bind (fun r => r.todo.head?)) = some (b % v.members.length))
      match sealBlocks q ids (full ++ rebuilt.filter (fun b => decide ((b + 1) * c.block ≤ q.lenc))) v s1 with
      | .error st => .error st
      | .ok (v1, s2) =>
        let v2 := { v1 with lost := v1.lost.filter (fun b => !(rebuilt.contains b)) }
        .ok ({ (q.updView t.view (fun _ => v2)) with lenc := lenc, tokens := root, tailIds := (wordsOf ids).drop (lenc / 32 * 32) }, s2)

/-- Copy the bytes of a tail block from device `a` to device `b` (R268). -/
def State.copyTail (a b : Nat) (seq to_ : Word) (blk n : Nat) (s : State) : State :=
  if a = b ∧ seq = to_ then s else
  { s with mem := Mem.write s.mem (tailKey b to_ blk 0) (Mem.read s.mem (tailKey a seq blk 0) n) }

/-- Blocks from `first` on with bytes in the tail memory of a context, at whatever member. -/
def State.tailBlocks (seq : Word) (first : Nat) (s : State) : List Nat :=
  ((s.mem.filterMap (fun c => if tailSeq c.1 = some seq.toNat then some ((c.1 - 2 ^ 80) / 2 ^ 22 % 2 ^ 20) else none)).dedup).filter (fun b => decide (first ≤ b))

/-- The tail memory of a context that ends is given back. -/
def State.dropTails (seq : Word) (s : State) : State :=
  { s with mem := s.mem.filter (fun c => tailSeq c.1 ≠ some seq.toNat), stamps := s.stamps.filter (fun c => tailSeq (64 * c.1) ≠ some seq.toNat),
           poison := s.poison.filter (fun k => tailSeq (64 * k) ≠ some seq.toNat) }

/-- Destroy a context (R280): every reference it holds is released, and its id is free. -/
def State.destroySeq (q : SeqCtx) (s : State) : State :=
  let d := field q.id.toNat 25 16
  let s1 := ((s.settle q.pid q.views none).refAt d q.pid q.tokens false).dropTails q.id
  s1.updDev d (fun v => { v with seqs := v.seqs.filter (fun x => x.id ≠ q.id) })

/-- Whether group `idx` of a launch counts as having ended its part in the step of `seq` (R266, R326). -/
def State.groupParted (l : Launch) (seq : Word) (idx : Nat) (s : State) : Bool :=
  l.ended.contains idx || (l.state = .aborting && !(l.admitted.any (fun a => a.1 = idx))) || s.allGroups.any (fun g => g.gid ≠ 0 && g.shadow = 0 && g.lid = l.lid && g.idx = idx && g.partEnded.contains seq)

/-- Whether every group of a launch has ended its part in the step of `seq`, or has ended (R266). -/
def State.allParted (lid : Nat) (seq : Word) (s : State) : Bool :=
  match s.launch? lid with
  | none => true
  | some l => (List.range l.groupCount).all (fun i => s.groupParted l seq i)

end Sys2Proof.Machine
end

