-- ==== Sys2Proof/Machine/Sequence.lean ====
section
/-!
DEFINITION. Steps, views and the KV cache, opcodes 0xD0 to 0xD9 (19 R266, R267, R272 to R285).
-/
namespace Sys2Proof.Machine
open Sys2Proof Bits Encoding

/-! ## stepbeg, stepend (R266, R267, R277, R278) -/

/-- Bind the checked-out group to a view of a sequence: a binding acquires (R266). -/
def State.bindGroup (sid view : Word) (s : State) : State :=
  let s1 := s.updGroup s.grp.gid (fun g => { g with seq := sid, view := view, partEnded := g.partEnded.filter (fun x => x ≠ sid) })
  { s1 with core := s1.core.invalidate }

/-- Whether `n` tokens may be appended (R277). -/
def SeqCtx.canAppend (q : SeqCtx) (n : Nat) : Bool := decide (q.lent + n ≤ q.lenc + 64) && decide (q.lent + n ≤ 16777215)

/-- The view a new step of the checked-out launch binds: the survivor view for its recompute handler (R270), else the current one;
none while a Draining view, or a Failed one whose survivor is forming, makes it wait (R267). -/
def State.viewForStep (q : SeqCtx) (s : State) : Option (View × Option (Nat × Nat)) :=
  let handler := match s.lau.source with
    | .recompute seq f n => if seq = q.id then (q.next.bind (fun (v : View) => if v.survivor && v.state = ViewState.transferring then some (v, some (f, n)) else none)) else none
    | _ => none
  match handler with
  | some r => some r
  | none =>
    match q.cur with
    | none => none
    | some v => if v.state = ViewState.draining || (v.state = ViewState.failed && q.succ ≠ 0) then none else some (v, none)

/-- What `stepbeg` does at the gang manager (R266, R267, R277). -/
def stepBind (sid : Word) (n : Nat) (s : State) : Except Stop (List Word × State) :=
  match s.seqCtx s.part.pid sid with
  | none => .ok ([0xFFFFFFFE], s)
  | some q =>
    match q.step? s.lau.lid with
    | some t =>
      if ((q.view? t.view).map View.state).getD .failed = .failed then .ok ([0xFFFFFFFF], s)
      else if t.appended then .ok ([t.view], s)
      else if !q.canAppend n then .ok ([0xFFFFFFFD], s)
      else
        .ok ([t.view], s.updSeq sid (fun q => { (q.updStep s.lau.lid (fun t => { t with appended := true })) with lent := q.lent + n }))
    | none =>
      match s.viewForStep q with
      | none => .error (.wait (.view sid))
      | some (v, run) =>
        if v.state = .failed then .ok ([0xFFFFFFFF], s)
        else if !q.canAppend n then .ok ([0xFFFFFFFD], s)
        else
          let t : Step := { lid := s.lau.lid, view := v.num, appended := true, commits := [], failed := false, rebuild := run }
          let s1 := s.updSeq sid (fun q => { q with lent := q.lent + n, steps := q.steps ++ [t] })
          .ok ([v.num], s1.mapGroups (fun g => if g.lid = s.lau.lid then { g with partEnded := g.partEnded.filter (fun x => x ≠ sid) } else g))

/-- `stepbeg` (R277): a view number binds the group, a re-run's logged one too (R276). -/
def bodyStepbeg (e : Enc) (s : State) : Except Stop State :=
  let sid := BitVec.ofNat 32 (s.opA e 1)
  let n := s.opB e 1
  if s.grp.seq ≠ 0xFFFFFFFF ∧ s.grp.seq ≠ sid then .error (misuse12 e.op) else
  match s.publish (pubOp e) sid.toNat (words 1 n) (stepBind sid n) with
  | .error st => .error st
  | .ok (ret, s1) =>
    let v := ret.headD 0xFFFFFFFF
    .ok ((if v.toNat < 0xFFFFFFFD then s1.bindGroup sid v else s1).replyD e 1 (ofWords ret))

/-- State of the view the checked-out group is bound to, of a sequence; none where the context is lost. -/
def State.boundView (s : State) (q : SeqCtx) : Option View := q.view? s.grp.view

/-- Whether the bound view of the checked-out group has failed; a lost context's views have (R269). -/
def State.boundFailed (s : State) (sid : Word) : Bool :=
  match (s.seqCtx s.part.pid sid).bind s.boundView with
  | some v => v.state = .failed
  | none => true

/-- `stepend` (R278): the part ends when the phase commits. -/
def bodyStepend (e : Enc) (s : State) : Except Stop State :=
  let sid := BitVec.ofNat 32 (s.opA e 1)
  if s.grp.seq ≠ sid ∨ sid = 0xFFFFFFFF then .error (misuse12 e.op) else
  let s1 := { s with grp := { s.grp with stepEnded := true } }
  .ok (s1.replyD e 1 (ofBool (s.boundFailed sid)))

/-! ## gview, gsetw (R279, R280) -/

/-- The view `gview` reports on: the bound one, else the current one (R279). -/
def State.reportView (s : State) (q : SeqCtx) : Option View := if s.grp.seq = q.id then s.boundView q else q.cur

/-- State code of `.info` (R279). -/
def viewCode : ViewState → Nat
  | .pending => 0
  | .transferring => 1
  | .current => 2
  | .draining => 3
  | _ => 4

/-- Index of a device in a view, or 0xFF. -/
def View.index (v : View) (d : Nat) : Nat := (v.members.findIdx? (fun m => m = d)).getD 0xFF

/-- `gview` (R279). -/
def bodyGview (e : Enc) (s : State) : Except Stop State :=
  let sid := BitVec.ofNat 32 (s.opA e 1)
  let mem := bit e.m.toNat 0
  let n := if mem then 1 else 4
  match s.seqCtx s.part.pid sid with
  | none => .ok (s.replyD e n 0)
  | some q =>
    match s.reportView q with
    | none => .ok (s.replyD e n 0)
    | some v =>
      if mem then
        let b := s.opB e 1
        .ok (s.replyD e 1 (v.members.getD b 0xFFFFFFFF))
      else
        let w1 := v.members.length % 32 + viewCode v.state * 2 ^ 8 + v.index s.grp.dev % 256 * 2 ^ 16
        let nx := (q.next.map (fun x => x.num.toNat + x.members.length * 2 ^ 32)).getD 0
        .ok (s.replyD e 4 (v.num.toNat + w1 * 2 ^ 32 + nx * 2 ^ 64))

/-- What `gsetw` does at the gang manager (R280). -/
def setWidth (sid : Word) (b : Nat) (s : State) : Except Stop (List Word × State) :=
  match s.seqCtx s.part.pid sid with
  | none => .ok ([3], s)
  | some q =>
    if b = 0 then
      (if !q.steps.isEmpty || q.succ ≠ 0 then .ok ([5], s) else .ok ([0], s.destroySeq q))
    else if q.succ ≠ 0 then .ok ([2], s)
    else
      let ms := (q.cur.map View.members).getD []
      let c := s.seqCls q
      let new := widthMembers ms (s.part? (field sid.toNat 25 16) q.pid).fabricList b
      if ms.length = b then .ok ([1], s)
      else if c.maxWidth < b ∨ new.length < b then .ok ([4], s)
      else .ok ([0], s.updSeq sid (fun q => q.form new false [] s.now))

/-- `gsetw` (R280). -/
def bodyGsetw (e : Enc) (s : State) : Except Stop State :=
  let sid := BitVec.ofNat 32 (s.opA e 1)
  let b := s.opB e 1
  match s.publish (pubOp e) sid.toNat (words 1 b) (setWidth sid b) with
  | .error st => .error st
  | .ok (ret, s1) => .ok (s1.replyD e 1 (ofWords ret))

/-! ## kvld, kvst (R272, R273, R281) -/

/-- KVHANDLE with a reason (Table 19.8). -/
def kvStop (reason tok : Nat) : Stop := .trap causeKvhandle (BitVec.ofNat 32 (reason * 2 ^ 28 + tok % 2 ^ 24)) 0

/-- Index, generation, bound and tenant of a handle (Table 19.6). -/
def handleIndex (h : Nat) : Nat := field h 43 24
/-- generation -/
def handleGen (h : Nat) : Nat := field h 55 44
/-- bound -/
def handleBound (h : Nat) : Nat := field h 23 0
/-- tenant -/
def handleTenant (h : Nat) : Nat := field h 63 56

/-- What a checked access names: the context, its class, the bound view, the block, the byte in the block, and whether the
access goes to a rebuilt block. -/
structure KvPlace where
  q : SeqCtx
  c : SeqClass
  v : View
  blk : Nat
  byte : Nat
  rebuild : Bool

/-- The checks of R273 after alignment, in the order of the reason codes of Table 19.8. -/
def State.kvCheck (s : State) (h tok off size : Nat) (write : Bool) : Except Nat KvPlace :=
  let none_ : HandleEntry := ⟨0, 0, 0, 0, false, false, false⟩
  let en := (lookup (handleIndex h) s.dev.handles).getD none_
  if handleTenant h ≠ s.part.pid then .error 0
  else if !en.valid || handleIndex h = 0 || en.gen ≠ handleGen h then .error 1
  else if handleBound h ≤ tok then .error 2
  else
    -- a bound group whose context is lost with its home device holds a failed view (R269)
    let lost := if en.len < off + size || !(if write then en.write else en.read) then 4 else 6
    if s.grp.seq ≠ en.seq then .error 3 else
    match s.seqCtx s.part.pid en.seq with
    | none => .error lost
    | some q =>
      match q.step? s.lau.lid, s.boundView q with
      | some t, some v =>
        let c := s.seqCls q
        let blk := tok / c.block
        let inRun := match t.rebuild with
          | some (f, n) => decide (f ≤ blk) && decide (blk < f + n) && v.lost.contains blk
          | none => false
        if en.len < off + size || !(if write then en.write else en.read) then .error 4
        else if v.owner blk ≠ s.grp.dev then .error 5
        else if v.state = .failed then .error 6
        else if (if write then decide (tok < q.lenc) && !inRun else decide (q.lent ≤ tok)) then .error 7
        else if !write && v.lost.contains blk then .error 8
        else .ok ⟨q, c, v, blk, tok % c.block * c.bytes + en.off + off, inRun⟩
      | _, _ => .error lost

/-- The translated place of a tail byte: class 0 rules, no virtual address (R281). -/
def kvXlat (dev : Nat) (p : KvPlace) : Xlat := ⟨0, 0, tailKey dev p.q.id p.blk p.byte⟩

/-- `kvld` (R281): a full block is read as `cld` reads its tree, anything else is a plain load of tail memory. -/
def bodyKvld (e : Enc) (s : State) : Except Stop State :=
  let size := memSize e
  let h := s.opA e 2
  let tok := s.opB e 1
  let off := s.opC e 1
  if off % size ≠ 0 then .error (alignStop (Nat.log2 size) off) else
  match s.kvCheck h tok off size false with
  | .error r => .error (kvStop r tok)
  | .ok p =>
    if p.blk < p.q.lenc / p.c.block then
      match p.v.entry? p.blk with
      | none => .error (kvStop 8 tok)
      | some en =>
        match s.part.walkTree 9 en.root p.byte with
        | .error (reason, name) => .error (contentProt reason (if reason = 2 then en.root else name).toNat)
        | .ok (l, o) =>
          match s.lineUntagged l with
          | some page => .error (.park page 15)
          | none => if s.poisoned (l.key + o) size then .error (.kvPoison p.q.id p.blk) else .ok (s.laterM e (memN e) (natAt l.bytes o size) false 0)
    else
      let x := kvXlat s.grp.dev p
      match s.race x.key p.byte false with
      | .error st => .error st
      | .ok s1 =>
        match s1.load x size true with
        | .error st => .error st
        | .ok (v, s2) => .ok (s2.laterM e (memN e) v false 0)

/-- `kvst` (R281): a plain store to tail memory, staged and race-checked. -/
def bodyKvst (e : Enc) (s : State) : Except Stop State :=
  let size := memSize e
  let h := s.opA e 2
  let tok := s.opB e 1
  let off := s.opC e 1
  if off % size ≠ 0 then .error (alignStop (Nat.log2 size) off) else
  match s.kvCheck h tok off size true with
  | .error r => .error (kvStop r tok)
  | .ok p =>
    let x := kvXlat s.grp.dev p
    if s.poisoned x.key size then .error (.consume 0x10) else
    match s.race x.key p.byte true with
    | .error st => .error st
    | .ok s1 => (s1.stagePlain x.key x.key (toBytes size (s.opD e (memN e)))).map (fun s => s.addUnacked s.grp.dev 0)

/-! ## kvcommit, kvreject (R282, R283) -/

/-- What `kvcommit` does at the gang manager (R282). -/
def commitTokens (sid : Word) (ids : List Word) (s : State) : Except Stop (List Word × State) :=
  match (if s.grp.seq = sid then s.seqCtx s.part.pid sid else none) with
  | none => .ok ([1], s)
  | some q =>
    match q.step? s.lau.lid with
    | none => .ok ([1], s)
    | some t =>
      if s.boundFailed sid then .ok ([3], s)
      else if q.lent - q.lenc < t.commits.length + ids.length then .ok ([2], s)
      else .ok ([0], s.updSeq sid (fun q => q.updStep s.lau.lid (fun t => { t with commits := t.commits ++ ids })))

/-- `kvcommit` (R282). -/
def bodyKvcommit (e : Enc) (s : State) : Except Stop State :=
  let sid := BitVec.ofNat 32 (s.opA e 1)
  let n := s.opB e 1
  let glob := bit e.m.toNat 0
  if n = 0 ∨ 64 < n then .error (misuse12 e.op) else
  match s.readTokens glob (if glob then s.opC e 2 else s.opC e 1) n with
  | .error st => .error st
  | .ok (bs, s1) =>
    let ids := wordsOf bs
    match s1.publish (pubOp e) sid.toNat ids (commitTokens sid ids) with
    | .error st => .error st
    | .ok (ret, s2) => .ok (s2.replyD e 1 (ofWords ret))

/-- What `kvreject` does at the gang manager (R283). -/
def rejectTokens (sid : Word) (s : State) : Except Stop (List Word × State) :=
  match (if s.grp.seq = sid then s.seqCtx s.part.pid sid else none) with
  | none => .ok ([1], s)
  | some q => if (q.step? s.lau.lid).isNone then .ok ([1], s) else .ok ([0], s.updSeq sid SeqCtx.resetLent)

/-- `kvreject` (R283). -/
def bodyKvreject (e : Enc) (s : State) : Except Stop State :=
  let sid := BitVec.ofNat 32 (s.opA e 1)
  match s.publish (pubOp e) sid.toNat [] (rejectTokens sid) with
  | .error st => .error st
  | .ok (ret, s1) => .ok (s1.replyD e 1 (ofWords ret))

/-! ## kvfork (R284) -/

/-- The lowest free context index of a device (R261). -/
def Device.freeSeq (v : Device) : Option Word :=
  ((List.range 65536).find? (fun i => !(v.seqs.any (fun q => q.id = BitVec.ofNat 32 (v.num * 2 ^ 16 + i))))).map
    (fun i => BitVec.ofNat 32 (v.num * 2 ^ 16 + i))

/-- A context with view 1 over `members`, Current (R284). -/
def SeqCtx.new (id : Word) (pid cls tw tn lenc : Nat) (tokens : DWord) (tailIds : List Word) (members : List Nat)
    (slices : List (List SliceEntry)) : SeqCtx :=
  let v : View := { num := 1, members := members, state := .current, pred := 0, acks := [], sentAt := 0, snapshot := 0,
                    transferred := true, caughtUp := true, slices := slices, lost := [], run := none, survivor := false }
  { id := id, pid := pid, cls := cls, view := 1, succ := 0, tw := tw, tn := tn, lenc := lenc, lent := lenc, tokens := tokens,
    tailIds := tailIds, views := [v], steps := [], policyDue := false, reruns := [] }

/-- Add a context to the checked-out device: what was announced of an earlier context of its id does not concern it. -/
def State.addSeq (q : SeqCtx) (s : State) : State :=
  { s with dev := { s.dev with seqs := s.dev.seqs ++ [q] }, failedViews := s.failedViews.filter (fun v => v.1 ≠ q.id) }

/-- Name the slice pages of member `i` that a fork shares: an unnamed page takes a number, a named one one more holder (R274). -/
def sharePages (d w : Nat) : List SliceEntry → List SliceEntry → State → List SliceEntry × State
  | done, [], s => (done, s)
  | done, e :: es, s =>
    match done.find? (fun x => x.blk / w / 256 = e.blk / w / 256) with
    | some x => sharePages d w (done ++ [{ e with page := x.page }]) es s
    | none =>
      let (pg, s1) := if e.page = 0 then s.freshId else (e.page, s)
      let n := (lookup pg (s1.dev? d).pages).getD 1
      sharePages d w (done ++ [{ e with page := pg }]) es (s1.updDev d (fun v => { v with pages := Bits.insert pg (n + 1) v.pages }))

/-- Share every slice of a view. -/
def shareSlices (w : Nat) : List (Nat × List SliceEntry) → State → List (List SliceEntry) × State
  | [], s => ([], s)
  | (d, es) :: rest, s =>
    let (l, s1) := sharePages d w [] es s
    let (ls, s2) := shareSlices w rest s1
    (l :: ls, s2)

/-- `kvfork.seq` (R284): the new context shares the source's slice pages, takes a reference on its token record, and copies the
committed tail bytes at each owner; a source homed elsewhere sends its token record (notes/assumptions/17.md). -/
def forkSeq (src : Word) (s : State) : Except Stop (List Word × State) :=
  match s.seqCtx s.part.pid src, s.dev.freeSeq with
  | some q, some id =>
    match q.cur with
    | none => .ok ([0xFFFFFFFF], s)
    | some v =>
      if q.succ ≠ 0 then .ok ([0xFFFFFFFF], s) else
      let c := s.seqCls q
      let home := field src.toNat 25 16
      let record := if home = s.dev.num then .ok (q.tokens, s.refAt home q.pid q.tokens true) else s.sendTree home s.dev.num q.pid c.region q.tokens
      match record with
      | .error st => .error st
      | .ok (tokens, s1) =>
        let (slices, s2) := shareSlices v.members.length (v.members.zip v.slices) s1
        let s3 := s2.updSeq src (fun q => q.updView q.view (fun v => { v with slices := slices }))
        let n := SeqCtx.new id q.pid q.cls q.tw q.tn q.lenc tokens q.tailIds v.members slices
        let part := q.lenc % c.block * c.bytes
        let blk := q.lenc / c.block
        .ok ([id], (s3.copyTail (v.owner blk) (v.owner blk) src id blk part).addSeq n)
  | _, _ => .ok ([0xFFFFFFFF], s)

/-- The lines of a prefix tree one depth below `names`, where every line but the last has 15 children (R284). -/
def Part.below (p : Part) (names : List DWord) : Option (List DWord) :=
  if names.dropLast.any (fun n => ((p.line n).map (fun l => lineCount l.bytes)).getD 0 ≠ 15) then none
  else some (names.flatMap (fun n => ((p.line n).map (fun l => lineChildren l.bytes)).getD []))

/-- Depth of a line, 0 for a leaf. -/
def Part.depthOf (p : Part) (n : DWord) : Nat := ((p.line n).map (fun l => if l.interior then lineDepth l.bytes else 0)).getD 0

/-- The block roots of a prefix tree: `k` depths above depth `d`, in the canonical shape (R284). -/
def Part.prefixRoots (p : Part) : Nat → List DWord → Option (List DWord)
  | 0, names => some names
  | k + 1, names =>
    match p.below names with
    | none => none
    | some ns => if names.length = 1 ∧ ns.length ≤ 1 then none else Part.prefixRoots p k ns

/-- Depth of the canonical tree of `n` leaves (R262). -/
def treeDepth (n : Nat) : Nat := ((List.range 8).find? (fun d => decide (n ≤ 15 ^ d))).getD 8

/-- `kvfork.pfx` (R284, R320): the new context takes a reference on the root of each block of the prefix (R322: S2 on b0 to b3). -/
def forkPrefix (cls : Nat) (pr tr : DWord) (n : Nat) (s : State) : Except Stop (List Word × State) :=
  let p := s.part
  let c := p.seqClass cls
  match p.classUsable cls, s.dev.freeSeq with
  | true, some id =>
    let make := fun (s : State) (tokens : DWord) (ids : List Word) (es : List SliceEntry) =>
      Except.ok ([id], s.addSeq (SeqCtx.new id p.pid cls (c.tw.toNat % 2 ^ 24) (c.tn.toNat % 2 ^ 24) (n * c.block) tokens ids [s.dev.num] [es]))
    if n = 0 ∧ pr = 0 ∧ tr = 0 then make s 0 [] [] else
    if (p.line pr).isNone then .error (contentProt 0 pr.toNat) else
    let d := treeDepth (c.block * c.bytes / 128)
    let roots := if p.depthOf pr < d then none else p.prefixRoots (p.depthOf pr - d) [pr]
    match roots with
    | none => .error (contentProt 3 pr.toNat)
    | some rs =>
      if rs.length ≠ n then .error (contentProt 3 pr.toNat)
      else if (p.line tr).isNone then .error (contentProt 0 tr.toNat)
      else
        let raw := p.treeBytes 9 tr
        let used := 4 * n * c.block
        if raw.length ≠ (used + 127) / 128 * 128 || (raw.drop used).any (fun b => b ≠ 0) then .error (contentProt 3 tr.toNat) else
        let ids := raw.take used
        let record := if n * c.block % 32 = 0 then Except.ok (tr, s) else
          match s.buildTree c.region (ids.take (used / 128 * 128)) with
          | .error st => .error st
          | .ok (x, s1) => .ok (x, s1.dropAll [tr])
        match record with
        | .error st => .error st
        | .ok (tokens, s1) =>
          let s2 := { s1 with part := (rs.foldl Part.incr s1.part).decr pr }
          let es := rs.zipIdx.map (fun r => (⟨r.2, r.1, s.blockHash p.dev p.pid c.block r.2 ids, 0⟩ : SliceEntry))
          make s2 tokens ((wordsOf ids).drop (used / 128 * 32)) es
  | _, _ => .ok ([0xFFFFFFFF], s)

/-- `kvfork` (R284). -/
def bodyKvfork (e : Enc) (s : State) : Except Stop State :=
  let m := e.m.toNat
  let q := s.opA e 4
  let n := s.opB e 1
  let src := s.opA e 1
  let (addr, operand, act) := if bit m 0
    then (0, words 4 q ++ words 1 n, forkPrefix (field m 7 4) (BitVec.ofNat 64 q) (BitVec.ofNat 64 (q / 2 ^ 64)) n)
    else (src, [], forkSeq (BitVec.ofNat 32 src))
  match s.publish (pubOp e) addr operand act with
  | .error st => .error st
  | .ok (ret, s1) => .ok (s1.replyD e 1 (ofWords ret))

/-! ## kvinfo (R285) -/

/-- The context `kvinfo` names. -/
def State.infoCtx (s : State) (e : Enc) : Option SeqCtx := s.seqCtx s.part.pid (BitVec.ofNat 32 (s.opA e 1))

/-- A pending result of `n` registers that shifts nothing. -/
def State.laterK (e : Enc) (n v : Nat) (s : State) : State := s.later e (words n v) n 0 0 false false false false

/-- `kvinfo.len`. -/
def bodyInfoLen (e : Enc) (s : State) : Except Stop State :=
  .ok (s.laterK e 2 (((s.infoCtx e).map (fun q => q.lenc + q.lent * 2 ^ 32)).getD 0))

/-- A report on full block b of the view `gview` would report on: `f` of the owner's index and the slice entry. -/
def infoBlock (n : Nat) (f : Nat → Option SliceEntry → Nat) (e : Enc) (s : State) : Except Stop State :=
  match s.infoCtx e with
  | none => .ok (s.laterK e n 0)
  | some q =>
    let b := s.opB e 1
    if q.lenc / (s.seqCls q).block ≤ b then .error (misuse12 e.op) else
    match s.reportView q with
    | none => .ok (s.laterK e n 0)
    | some v => .ok (s.laterK e n (f (b % v.members.length) (v.entry? b)))

/-- `kvinfo.blk`. -/
def bodyInfoBlk : Body := infoBlock 4 (fun o en => ((en.map SliceEntry.root).getD 0).toNat + o * 2 ^ 64)
/-- `kvinfo.hash`. -/
def bodyInfoHash : Body := infoBlock 2 (fun _ en => ((en.map SliceEntry.hash).getD 0).toNat)

/-- `kvinfo.tok`. -/
def bodyInfoTok (e : Enc) (s : State) : Except Stop State :=
  match s.infoCtx e with
  | none => .ok (s.laterK e 1 0)
  | some q =>
    let b := s.opB e 1
    if q.lenc ≤ b then .error (misuse12 e.op) else .ok (s.laterK e 1 (natAt (s.seqIds q) (4 * b) 4))

/-- `kvinfo.thr`. -/
def bodyInfoThr (e : Enc) (s : State) : Except Stop State :=
  .ok (s.laterK e 2 (((s.infoCtx e).map (fun q => q.tw + q.tn * 2 ^ 32)).getD 0))

/-- A handle table entry of the checked-out device (Table 19.7). -/
def Device.handle (v : Device) (i : Nat) : HandleEntry := (lookup i v.handles).getD ⟨0, 0, 0, 0, false, false, false⟩

/-- Mint a handle: the lowest entry that is not valid; pair 0 when the table is full (R285). -/
def mintHandle (sid : Word) (bound off len perm : Nat) (s : State) : Except Stop (List Word × State) :=
  match (List.range (s.dev.handles.length + 1)).find? (fun i => decide (i + 1 < 2 ^ 20) && !(s.dev.handle (i + 1)).valid) with
  | none => .ok ([0, 0], s)
  | some j =>
    let i := j + 1
    let g := (s.dev.handle i).gen
    let en : HandleEntry := { seq := sid, off := off, len := len, gen := g, write := bit perm 2, read := bit perm 1, valid := true }
    .ok (words 2 (s.part.pid * 2 ^ 56 + g * 2 ^ 44 + i * 2 ^ 24 + bound), { s with dev := { s.dev with handles := Bits.insert i en s.dev.handles } })

/-- `kvinfo.mint`. -/
def bodyInfoMint (e : Enc) (s : State) : Except Stop State :=
  match s.infoCtx e with
  | none => .ok (s.laterK e 2 0)
  | some q =>
    let r := s.opB e 4
    let bound := field r 31 0
    let off := field r 63 32
    let len := field r 95 64
    let perm := field r 127 96
    let el := (s.seqCls q).bytes
    if off % 16 ≠ 0 || len % 16 ≠ 0 || len < 16 || el < len || el < off + len || 2 ^ 24 ≤ bound then .error (misuse12 e.op) else
    match s.publish (pubOp e) q.id.toNat (words 4 r) (mintHandle q.id bound off len perm) with
    | .error st => .error st
    | .ok (ret, s1) => .ok (s1.laterK e 2 (ofWords ret))

/-- Revoke a handle that matches its entry: the entry's generation rises (R285, Table 19.7). -/
def revokeHandle (h : Nat) (s : State) : Except Stop (List Word × State) :=
  let i := handleIndex h
  let en := s.dev.handle i
  if handleTenant h ≠ s.part.pid || i = 0 || !en.valid || en.gen ≠ handleGen h then .ok ([1], s) else
  .ok ([0], { s with dev := { s.dev with handles := Bits.insert i { en with valid := false, gen := (en.gen + 1) % 4096 } s.dev.handles } })

/-- `kvinfo.revoke`. -/
def bodyInfoRevoke (e : Enc) (s : State) : Except Stop State :=
  let h := s.opA e 2
  match s.publish (pubOp e) h [] (revokeHandle h) with
  | .error st => .error st
  | .ok (ret, s1) => .ok (s1.laterK e 1 (ofWords ret))

/-- STEPBEG -/
def execStepbeg (e : LX) (s : State) : Outcome := s.issue false bodyStepbeg (e.enc 0xD0)
/-- STEPEND -/
def execStepend (e : LX) (s : State) : Outcome := s.issue false bodyStepend (e.encL 0xD1)
/-- GVIEW -/
def execGview (e : LX) (s : State) : Outcome := s.issue false bodyGview (e.enc 0xD2)
/-- GSETW -/
def execGsetw (e : LX) (s : State) : Outcome := s.issue false bodyGsetw (e.enc 0xD3)
/-- KVLD -/
def execKvld (e : LX) (s : State) : Outcome := s.issue false bodyKvld (e.encL 0xD4)
/-- KVST -/
def execKvst (e : LX) (s : State) : Outcome := s.issue false bodyKvst (e.encL 0xD5)
/-- KVCOMMIT -/
def execKvcommit (e : LX) (s : State) : Outcome := s.issue false bodyKvcommit (e.encL 0xD6)
/-- KVREJECT -/
def execKvreject (e : LX) (s : State) : Outcome := s.issue false bodyKvreject (e.encL 0xD7)
/-- KVFORK -/
def execKvfork (e : LX) (s : State) : Outcome := s.issue false bodyKvfork (e.encL 0xD8)
/-- KVINFO_LEN -/
def execKvinfoLen (e : LX) (s : State) : Outcome := s.issue false bodyInfoLen (({ e with c := 0 } : LX).encL 0xD9)
/-- KVINFO_BLK -/
def execKvinfoBlk (e : LX) (s : State) : Outcome := s.issue false bodyInfoBlk (({ e with c := 1 } : LX).encL 0xD9)
/-- KVINFO_HASH -/
def execKvinfoHash (e : LX) (s : State) : Outcome := s.issue false bodyInfoHash (({ e with c := 2 } : LX).encL 0xD9)
/-- KVINFO_TOK -/
def execKvinfoTok (e : LX) (s : State) : Outcome := s.issue false bodyInfoTok (({ e with c := 3 } : LX).encL 0xD9)
/-- KVINFO_THR -/
def execKvinfoThr (e : LX) (s : State) : Outcome := s.issue false bodyInfoThr (({ e with c := 4 } : LX).encL 0xD9)
/-- KVINFO_MINT -/
def execKvinfoMint (e : LX) (s : State) : Outcome := s.issue false bodyInfoMint (({ e with c := 5 } : LX).encL 0xD9)
/-- KVINFO_REVOKE -/
def execKvinfoRevoke (e : LX) (s : State) : Outcome := s.issue false bodyInfoRevoke (({ e with c := 6 } : LX).encL 0xD9)

end Sys2Proof.Machine
end

