-- ==== Sys2Proof/Machine/System.lean ====
section
/-!
DEFINITION. Special and uniform registers, device-side launch, the register pool, tickets and the privileged page-table
instructions, opcodes 0xE0 to 0xE8 (01 R14 to R19; 08 R121, R122, R124; 16 R229; 21 R316 to R319).
-/
namespace Sys2Proof.Machine
open Sys2Proof Bits Encoding

/-! ## Special registers (Table 1.4) -/

/-- The value of special register `n` as the checked-out thread reads it. -/
def State.special (s : State) (n : Nat) : Nat :=
  let t := s.thr
  if 8 ≤ n ∧ n ≤ 15 then s.lau.coord s.grp.idx t.key.tid (n - 8) else
  match n with
  | 0 => t.key.tid
  | 1 => t.key.tid % 32
  | 2 => t.key.tid / 32
  | 3 => s.grp.idx
  | 16 => s.lau.role (t.key.tid / 32)
  | 17 => t.meet.toNat
  | 18 => t.fp.toNat
  | 19 => t.sli.toNat
  | 20 => s.lau.nbv
  | 21 => t.cc.toNat
  | 24 => s.dev.clk
  | 26 => (s.gtime s.dev.num).toNat
  | 32 => s.part.pid
  | 33 => s.dev.num
  | 34 => s.grp.seq.toNat
  | 35 => s.grp.view.toNat
  | 36 => s.grp.phases
  | _ => 0

/-- `rdsr` (R17): reads of sr.clk and sr.gtime enter the published-write log (R335). -/
def bodyRdsr (e : Enc) (s : State) : Except Stop State :=
  let n := if srPair e.m then 2 else 1
  let v := s.special e.m.toNat
  if e.m = 24 ∨ e.m = 26 then
    match s.publish (pubOp e) e.m.toNat [] (fun s => .ok (words n v, s)) with
    | .error st => .error st
    | .ok (ret, s1) => .ok (s1.putM e n (ofWords ret))
  else .ok (s.putM e n v)

/-- A value that `wrsr` may not write: bits past the defined width of sr.meet (R17), or an sr.nbv other than 1 and 2 (R319). -/
def badSpecial (n v : Nat) : Bool := (n = 17 && decide (2 ^ 48 ≤ v)) || (n = 20 && v ≠ 1 && v ≠ 2)

/-- Write a writable special register: sr.nbv is that of the partition's later launches (R319). -/
def State.setSpecial (n v : Nat) (s : State) : State :=
  match n with
  | 17 => { s with thr := { s.thr with meet := BitVec.ofNat 48 v } }
  | 18 => { s with thr := { s.thr with fp := BitVec.ofNat 5 v } }
  | 19 => { s with thr := { s.thr with sli := BitVec.ofNat 7 v } }
  | 20 => { s with part := { s.part with nbv := v } }
  | 21 => { s with thr := { s.thr with cc := BitVec.ofNat 4 v } }
  | _ => s

/-- `wrsr` (R17). -/
def bodyWrsr (e : Enc) (s : State) : Except Stop State :=
  let v := s.opB e (if srPair e.m then 2 else 1)
  if badSpecial e.m.toNat v then .error (.trap causeIllegal (detail 0xF e.op e.m 1) 0) else .ok (s.setSpecial e.m.toNat v)

/-- The thread of the checked-out group with the highest sr.tid that has written uniform register `i` in this cycle (R14). -/
def State.setBy (i : Nat) (s : State) : Option Nat :=
  (s.cycSets.find? (fun p => p.1 = s.thr.key.gid && p.2.1 = i)).map (fun p => p.2.2)

/-- Write uniform register `i` (R14): the writer reads the new value at once, and the others may still read the old one. Of several writes in one
cycle the value of the highest sr.tid remains; each of their writers may read its own value until the group barrier. -/
def State.setUniform (i : Nat) (v : Word) (s : State) : State :=
  let gid := s.thr.key.gid
  let tid := s.thr.key.tid
  let old := if h : i < 32 then s.grp.k[i] else 0
  let keep := fun (p : Thread → Bool) (w : Word) (t : Thread) => if t.key.gid = gid ∧ t.key ≠ s.thr.key ∧ p t = true then { t with stale := t.stale ++ [(i, w)] } else t
  let mine := s.thr.stale.filter (fun p => p.1 ≠ i)
  let put := fun (p : Thread → Bool) =>
    { s with grp := { s.grp with k := if h : i < 32 then s.grp.k.set i v else s.grp.k }, thr := { s.thr with stale := mine }, threads := s.threads.map (keep p old),
             cycSets := (gid, i, tid) :: s.cycSets.filter (fun p => !(p.1 = gid && p.2.1 = i)) }
  match s.setBy i with
  | none => put (fun _ => true)
  | some u => if u ≤ tid then put (fun t => t.key.tid = u) else { s with thr := { s.thr with stale := mine ++ [(i, v)] } }

/-- `kset` (R17). -/
def bodyKset (e : Enc) (s : State) : Except Stop State := .ok (s.setUniform (e.d.toNat - 0xD0) (BitVec.ofNat 32 (s.opB e 1)))

/-! ## launch (R229) -/

/-- What `launch` does with the record at `x`: status 2, 1, 3, or an accepted launch (R229). -/
def startLaunch (x : Xlat) (arg : Nat) (s : State) : Except Stop (List Word × State) :=
  match s.load x 256 false with
  | .error st => .error st
  | .ok (v, s1) =>
    let p := s1.part
    let l := Launch.submitted p.dev p.pid (toBytes 256 v) (BitVec.ofNat 64 arg) .instr
    if field (l.fld 16 4) 8 4 ≠ p.pid then .ok ([2], s1)
    else if !l.recordOk p none then .ok ([1], s1)
    else if s1.deviceLaunches p.dev p.pid ≥ 4096 then .ok ([3], s1)
    else .ok ([0], s1.acceptLaunch l (min (field (l.fld 16 4) 3 0) s1.lau.priority))

/-- `launch` (R229): a publishing write (R145). -/
def bodyLaunch (e : Enc) (s : State) : Except Stop State :=
  let va := s.opA e 2
  let arg := s.opB e 1
  match s.global { va := va, size := 256, write := false, classes := [0, 1, 3], prot13 := false } with
  | .error st => .error st
  | .ok (x, s1) =>
    match s1.publishRule true with
    | .error st => .error st
    | .ok s2 =>
      match s2.publish (pubOp e) va (words 1 arg) (startLaunch x arg) with
      | .error st => .error st
      | .ok (ret, s3) => .ok (s3.replyD e 1 (ofWords ret))

/-! ## reggive, regclaim (R121, R122) -/

/-- Live lanes of the checked-out thread's pack: the implicit mask (R122). -/
def State.liveMask (s : State) : Word :=
  (s.packThreads s.thr.key.gid (s.thr.key.tid / 32)).foldl
    (fun m t => if t.status = .exited then m else m ||| BitVec.twoPow 32 (t.key.tid % 32)) 0

/-- `reggive` and `regclaim` gather with the pack's live lanes; what they do follows the gather. -/
def bodyPool (e : Enc) (s : State) : Except Stop State := s.arrive e s.liveMask

/-- Whether a thread belongs to the checked-out thread's pack. -/
def State.samePack (s : State) (t : Thread) : Bool := t.key.gid = s.thr.key.gid && t.key.tid / 32 = s.thr.key.tid / 32

/-- Blocks of the group's register budget that packs other than the checked-out thread's hold (R121). -/
def State.otherBlocks (s : State) : Nat :=
  ((List.range s.lau.packs).filter (fun p => p ≠ s.thr.key.tid / 32)).foldl (fun n p =>
    match (s.packThreads s.thr.key.gid p).find? (fun t => t.status ≠ .exited) with
    | some t => n + t.grant / 8
    | none => n) 0

/-- Change the grant of the whole pack, zeroing the registers from the lower grant to the higher (R122). -/
def State.setGrant (old new : Nat) (s : State) : State :=
  s.mapThreads (fun t => if s.samePack t then
    { t with grant := new, regs := Vector.ofFn (fun i => if min old new ≤ i.val && i.val < max old new then 0 else t.regs[i]) } else t)

/-- Every gathered member for which `p` holds leaves its wait. -/
def State.releaseGather (p : Thread → Bool) (s : State) : State :=
  s.mapThreads (fun t => if s.samePack t && s.inGather t && p t then t.wake s.dev.clk else t)

/-- Whether a gathered member's guard is true. -/
def Thread.gatherLive (t : Thread) : Bool := match t.status with | .waiting (.gather _ _ _ live) => live | _ => false

/-- The gathered `reggive` or `regclaim` of the checked-out thread (R122): an ILLEGAL trap falls due in every live member, or the
registers are given, or the pack enters the queue for blocks. -/
def State.completePool (e : Enc) (s : State) : State :=
  let ms := s.liveMembers
  let ns := ms.map (fun m => if e.form = .x then e.lit.toNat else s.memberReg m.2 e.b 1)
  let n := ns.headD 0
  let grant := s.thr.grant
  let give := e.op = 0xE4
  let total := s.lau.regs * s.lau.packs / 8
  let bad := n % 8 ≠ 0 || n = 0 || ns.any (fun x => x ≠ n)
    || (if give then decide (grant < n + 8) || s.lau.carrySet.any (fun c => decide (c < 192) && decide (grant ≤ c + n))
        else decide (192 < grant + n) || decide (total < n / 8 + s.otherBlocks))
  if ms.isEmpty then s.releaseGather (fun _ => true)
  else if bad then
    let s1 := s.mapThreads (fun t => if s.samePack t && s.inGather t && t.gatherLive then { t with due := some (causeIllegal, detail 0x12 e.op 0 0) } else t)
    s1.releaseGather (fun t => !t.gatherLive)
  else if give then
    let s1 := s.releaseGather (fun _ => true)
    State.poolChanged s1.grp.gid { s1.setGrant grant (grant - n) with grp := { s1.grp with pool := s1.grp.pool + n / 8 } }
  else
    let s1 := s.mapThreads (fun t => if s.samePack t && s.inGather t then { t with status := .waiting (.regclaim n), waitSince := s.dev.clk, waited := 0 } else t)
    { s1 with grp := { s1.grp with claims := s1.grp.claims ++ [(s.thr.key.tid / 32, n / 8)] } }

/-! ## tkclaim (R124) -/

/-- `tkclaim` (R124): a re-run takes its logged ticket and sends nothing, an auditor's one having no other; else the claim goes to the cluster's
merge point, an atomic that may publish (R145). -/
def bodyTkclaim (e : Enc) (s : State) : Except Stop State :=
  let va := s.opA e 2
  match s.global { va := va, size := 4, write := true, classes := [0], prot13 := false } with
  | .error st => .error st
  | .ok (x, s1) =>
    match s1.loggedTicket with
    | some v => .ok ((s1.logTicket v).replyD e 1 v.toNat)
    | none =>
      if s1.grp.shadow ≠ 0 then .error .abort else
      match s1.ticketRoom with
      | .error st => .error st
      | .ok s2 =>
        match s2.publishRule false with
        | .error st => .error st
        | .ok s3 =>
          let k : Ticket := { t := s3.thr.key, dev := s3.grp.dev, core := s3.grp.core, slot := s3.grp.slots.headD 0, key := x.key, va := va,
                              since := s3.dev.clk, dst := code e e.d, val := none }
          .ok { s3 with tickets := s3.tickets ++ [k], thr := { s3.thr with status := .waiting .ticket, waitSince := s3.dev.clk } }

/-! ## mbind, tlbinv (R317, R318) -/

/-- Place of the entry for an address at level `l`, from the table at `tbl` with `n` levels left; none where a table on the way
is not valid. -/
def entryPlace (mem : List Host.Cell) (dev va l : Nat) : Nat → Nat → Option Nat
  | 0, _ => none
  | n + 1, tbl =>
    let k := keyOf dev (tbl + 16 * levelIndex va n)
    if n = l then some k else
    let e := Mem.nat mem k 16
    if Pte.valid e && bit e 8 && !(Pte.badPointer e) then entryPlace mem dev va l n (field e 51 9 * 2 ^ 9) else none

/-- log2 of the span of an entry at a level (R311). -/
def levelShift (l : Nat) : Nat := if l = 0 then 16 else 12 + 9 * l

/-- Malformed at a level, pointer or leaf (R128, R311). -/
def malformedAt (l e : Nat) : Bool := if bit e 8 then (l = 0 || Pte.badPointer e) else Pte.badAt l e

/-- Key of the 64 KiB page that a level 0 leaf entry maps on a device, where the entry has the tagged bit: that of a promoted page (R337). -/
def taggedPage (dev e : Nat) : Option Nat :=
  if Pte.valid e && !bit e 8 && Pte.tagged e && !Pte.host e && decide (Pte.cls e ≠ 2) then some (keyOf dev (Pte.frame e * 2 ^ 16) / 2 ^ 16) else none

/-- The tags of a page's sixteen blocks, of their bytes as they stand. -/
def State.pageTags (s : State) (page : Nat) : List DWord := (List.range 16).map (fun b => crc64 (Mem.read s.mem (page * 2 ^ 16 + 4096 * b) 4096))

/-- A level 0 entry is bound: a page promoted by it is recorded with its tags, and one that the entry mapped before is no longer promoted (R337;
notes/assumptions/32.md). -/
def State.promotePage (dev old new : Nat) (s : State) : State :=
  let gone := { s with promoted := s.promoted.filter (fun p => (taggedPage dev old) ≠ some p.page) }
  match taggedPage dev new with
  | none => gone
  | some page => { gone with promoted := gone.promoted.filter (fun p => p.page ≠ page) ++ [⟨page, 0, s.pageTags page, [], [], false⟩] }

/-- What `mbind` does (R317): status, with the entry written as one 16-byte atomic. -/
def bindEntry (p : Part) (l va entry : Nat) (s : State) : Except Stop (List Word × State) :=
  let place := if bit p.ptroot.toNat 0 then entryPlace s.mem p.dev va l 5 (field p.ptroot.toNat 51 12 * 2 ^ 12) else none
  match place with
  | none => .ok ([1], s)
  | some k =>
    if va % 2 ^ levelShift l ≠ 0 then .ok ([2], s)
    else if Pte.valid entry && malformedAt l entry then .ok ([3], s)
    else
      let s1 := if l = 0 then s.promotePage p.dev (Mem.nat s.mem k 16) entry else s
      .ok ([0], s1.perform k (toBytes 16 entry))

/-- `mbind` (R317): a release at device scope, and a publishing write. -/
def bodyMbind (e : Enc) (s : State) : Except Stop State :=
  let m := e.m.toNat
  let va := s.opA e 2
  let entry := s.opB e 4
  let l := if field m 7 5 = 0 then Pte.level entry else field m 7 5
  match s.release 4 with
  | .error st => .error st
  | .ok s1 =>
    let p := s1.part? s1.grp.dev (field m 4 0)
    match s1.publishRule true with
    | .error st => .error st
    | .ok s2 =>
      match s2.publish (pubOp e) va (words 4 entry) (bindEntry p l va entry) with
      | .error st => .error st
      | .ok (ret, s3) => .ok (s3.replyD e 1 (ofWords ret))

/-- Drop a core's cached translations of a partition for a range of 64 KiB pages, and its class 3 lines (R317). -/
def Core.dropPages (c : Core) (pid first count : Nat) : Core :=
  { c with tlb := c.tlb.filter (fun t => !(t.pid = pid && decide (first ≤ t.page) && decide (t.page < first + count))),
           lcache := c.lcache.filter (fun l => !(l.pid = pid && l.cls = 3)) }

/-- Partition of a group's launch. -/
def State.pidOf (s : State) (gid : Nat) : Option Nat := (s.group? gid).bind (fun g => (s.launch? g.lid).map Launch.pid)

/-- Every core of device `dev` drops them, and the lines it buffers for parked threads of the partition (R137). -/
def State.dropPages (dev pid first count : Nat) (s : State) : State :=
  let stale := fun (b : BufLine) => decide (first ≤ b.line / 512) && decide (b.line / 512 < first + count) && s.pidOf b.t.gid = some pid
  s.mapCores (fun c => if c.dev = dev then { c.dropPages pid first count with faultBuf := c.faultBuf.filter (fun b => !stale b) } else c)

/-- `tlbinv` (R317): a core may drop what it holds at any time until every reply has arrived; whether it does at once is a free
choice, and at the last reply every core has. -/
def bodyTlbinv (e : Enc) (s : State) : Except Stop State :=
  let m := e.m.toNat
  let n := s.opB e 1
  let all := bit m 5
  if !all && (n = 0 || decide (2 ^ 24 < n)) then .error (misuse12 e.op) else
  let first := if all then 0 else s.opA e 2 / 2 ^ 16
  let count := if all then 2 ^ 48 else n
  let (c, s1) := s.choose 2
  let s2 := if c = 1 then s1.dropPages s1.grp.dev (field m 4 0) first count else s1
  .ok { s2 with thr := { s2.thr with status := .waiting (.tlbinv (field m 4 0) first count), waitSince := s2.dev.clk } }

/-- RDSR -/
def execRdsr (e : LX) (s : State) : Outcome := s.issue false bodyRdsr (e.encL 0xE0)
/-- WRSR -/
def execWrsr (e : LX) (s : State) : Outcome := s.issue false bodyWrsr (e.enc 0xE1)
/-- KSET -/
def execKset (e : LX) (s : State) : Outcome := s.issue false bodyKset (e.enc 0xE2)
/-- LAUNCH -/
def execLaunch (e : LX) (s : State) : Outcome := s.issue false bodyLaunch (e.enc 0xE3)
/-- REGGIVE -/
def execReggive (e : LX) (s : State) : Outcome := s.issue true bodyPool (e.enc 0xE4)
/-- REGCLAIM -/
def execRegclaim (e : LX) (s : State) : Outcome := s.issue true bodyPool (e.enc 0xE5)
/-- TKCLAIM -/
def execTkclaim (e : LX) (s : State) : Outcome := s.issue false bodyTkclaim (e.encL 0xE6)
/-- MBIND -/
def execMbind (e : LX) (s : State) : Outcome := s.issue false bodyMbind (e.encL 0xE7)
/-- TLBINV -/
def execTlbinv (e : LX) (s : State) : Outcome := s.issue false bodyTlbinv (e.enc 0xE8)

end Sys2Proof.Machine
end

