-- ==== Sys2Proof/Machine/EvThread.lean ====
section
/-!
DEFINITION. Events of threads: spinning, aging, meetings, gathers, stall limits, traps, results, the register pool and tickets
(02 R27; 05 R82, R85; 07 R104 to R113; 08 R122, R124; 10 R142). An event that is not due changes nothing.
-/
namespace Sys2Proof.Machine
open Sys2Proof Bits Encoding

/-! ## Acting on one object -/

/-- An event on a thread: nothing where it does not exist or is not due. -/
def State.onThread (k : ThreadKey) (f : State → Option State) (s : State) : Outcome := .next (((s.focus k).bind f).getD s)
/-- An event on a group. -/
def State.onGroup (gid : Nat) (f : State → Option State) (s : State) : Outcome :=
  .next ((if gid = 0 then none else (s.focusGroup gid).bind f).getD s)
/-- An event on a core. -/
def State.onCore (dev core : Nat) (f : State → Option State) (s : State) : Outcome := .next ((f ((s.checkoutCore dev core).checkoutDev dev)).getD s)
/-- An event on a partition, one of 32 (R309). -/
def State.onPart (dev pid : Nat) (f : State → Option State) (s : State) : Outcome := .next ((if pid < 32 then f (s.focusPart dev pid) else none).getD s)
/-- An event on a device. -/
def State.onDev (dev : Nat) (f : State → Option State) (s : State) : Outcome := .next ((f (s.checkoutDev dev)).getD s)
/-- An event on a launch, with its partition and device. -/
def State.onLaunch (lid : Nat) (f : State → Option State) (s : State) : Outcome :=
  .next ((if lid = 0 then none else (s.checkoutLaunch lid).bind (fun s => f (s.focusPart s.lau.dev s.lau.pid))).getD s)

/-- A phase that can be rolled back now: its group has its place on a core. -/
def Group.live (g : Group) : Bool := g.phase = .running || g.phase = .closing || g.phase = .audited

/-- The state `t` when the event is due. -/
def whenDue (due : Bool) (t : State) : Option State := if due then some t else none

/-- The checked-out group is resident and its phase is running (R101), on a device and in a partition that have not stopped (R330, R334,
R347). -/
def State.running (s : State) : Bool :=
  s.grp.phase = .running && !s.grp.slots.isEmpty && !s.part.broken && !s.dev.stopped && !s.dev.unpowered

/-! ## Spinning, aging, yield (R82, R107, R108) -/

/-- Spin lowering ends (R107). -/
def spinExpire (s : State) : Option State :=
  whenDue (s.running && s.thr.spin.low && decide (s.thr.spin.lowUntil ≤ s.dev.clk)) { s with thr := { s.thr with spin := { s.thr.spin with low := false } } }

/-- A thread ready for 2,048 cycles becomes aged (R108). -/
def ageThread (s : State) : Option State :=
  whenDue (s.running && s.thr.status = .ready && !s.thr.held && !s.thr.aged && decide (s.thr.readySince + 2048 ≤ s.dev.clk))
    { s with thr := { s.thr with aged := true } }

/-- A yielding thread becomes eligible again: every other split has issued, or 64 cycles have passed (R82). -/
def endYield (s : State) : Option State :=
  match s.thr.status with
  | .waiting (.yield pcs til) => whenDue (s.running && (pcs.isEmpty || decide (til ≤ s.dev.clk))) { s with thr := s.thr.wake s.dev.clk }
  | _ => none

/-- A split at `pc` of a pack has issued: the pack's yielding threads no longer wait for it (R82). -/
def State.splitIssued (k : ThreadKey) (pc : CodeAddr) : State → State :=
  State.mapThreads (fun t => match t.status with
    | .waiting (.yield pcs til) =>
      if t.key.gid = k.gid ∧ t.key.tid / 32 = k.tid / 32 then { t with status := .waiting (.yield (pcs.filter (fun p => p ≠ pc)) til) } else t
    | _ => t)

/-! ## Meetings (R104, R105) -/

/-- The meeting set of a pack for a MEET value. -/
def State.meetingSet (s : State) (gid pack : Nat) (m : CodeAddr) : List Thread :=
  (s.packThreads gid pack).filter (fun t => t.meet = m && t.held)

/-- The threads a meeting set waits for. -/
def State.meetingAbsent (s : State) (gid pack : Nat) (m : CodeAddr) : List Thread :=
  (s.packThreads gid pack).filter (fun t => t.status ≠ .exited && t.meet = m && t.pc ≠ m)

/-- Release a meeting set together. -/
def State.releaseMeeting (gid pack : Nat) (m : CodeAddr) (s : State) : State :=
  s.mapThreads (fun t => if t.key.gid = gid ∧ t.key.tid / 32 = pack ∧ t.meet = m ∧ t.held = true then
    { t with released := true, readySince := s.dev.clk } else t)

/-- A meeting set that waits for no thread is released (R104). -/
def meetRelease (pack : Nat) (m : CodeAddr) (s : State) : Option State :=
  let gid := s.grp.gid
  whenDue (s.running && !(s.meetingSet gid pack m).isEmpty && (s.meetingAbsent gid pack m).isEmpty) (s.releaseMeeting gid pack m)

/-- A meeting set is released after 65,536 cycles without progress of the threads it waits for, and without a thread joining it (R105). -/
def meetEarly (pack : Nat) (m : CodeAddr) (s : State) : Option State :=
  let gid := s.grp.gid
  whenDue (s.running && !(s.meetingSet gid pack m).isEmpty
      && (s.meetingSet gid pack m).all (fun t => decide (t.readySince + 65536 ≤ s.dev.clk))
      && (s.meetingAbsent gid pack m).all (fun t => decide (t.progress + 65536 ≤ s.dev.clk))) (s.releaseMeeting gid pack m)

/-! ## Gathers (R110, R111, R122) -/

/-- The last member of the checked-out thread's gather has arrived: the instruction completes for all of them. -/
def gatherDone (s : State) : Option State :=
  match s.thr.status with
  | .waiting (.gather op _ ws _) =>
    whenDue (s.running && s.missingLanes.isEmpty)
      (match Encoding.ofWords (ws.getD 0 0) (ws.getD 1 0) (ws.getD 2 0) with
       | some e => if op = 0xE4 || op = 0xE5 then s.completePool e else s.completeGather e
       | none => s)
  | _ => none

/-- A gather wait reaches 2^20 cycles: XSTALL falls due (R111). -/
def gatherStall (s : State) : Option State :=
  match s.thr.status with
  | .waiting (.gather _ _ _ _) =>
    let missing := s.missingLanes.foldl (fun (m : Word) l => m ||| BitVec.twoPow 32 l) 0
    whenDue (s.running && s.thr.due.isNone && missing ≠ 0 && decide (2 ^ 20 ≤ s.dev.clk - s.thr.waitSince + s.thr.waited))
      { s with thr := { s.thr with due := some (7, missing) } }
  | _ => none

/-! ## Stall limits (R112) -/

/-- The BSTALL detail of a wait: the word's thread count and target, or the blocks requested and the pool; where the manual gives
no layout it is a free value (notes/assumptions/5.md). None where no stall limit bounds the wait. -/
def State.stallDetail (s : State) : Option (Word × State) :=
  match s.thr.status with
  | .waiting (.sync loc _) => let w := s.syncWord loc; some (BitVec.ofNat 32 (w.tc * 2 ^ 16 + w.tt), s)
  | .waiting (.regclaim n) => some (BitVec.ofNat 32 (n / 8 * 2 ^ 16 + s.grp.pool), s)
  | .waiting .engine => some (s.free 32)
  | .waiting (.acca _ _) => some (s.free 32)
  | .waiting (.fork _ _) => some (s.free 32)
  | .waiting (.aswap _ _) => some (s.free 32)
  | .waiting (.view _) => some (s.free 32)
  | _ => none

/-- Whether the counts of the word a thread waits on are those its stall count started at; another wait has none (R112). -/
def State.countsSeen (s : State) : Bool :=
  match s.thr.status with
  | .waiting (.sync loc _) => (s.syncWord loc).counts = s.thr.seen
  | _ => true

/-- A wait reaches the stall limit: BSTALL falls due, in every thread of a `regclaim`'s pack; until it is delivered the wait may still be
satisfied (R112, R113, R122). -/
def waitStall (s : State) : Option State :=
  match s.stallDetail with
  | none => none
  | some (d, s1) =>
    whenDue (s.running && s.thr.due.isNone && s.countsSeen && s.lau.stall ≠ 0 && decide (s.lau.stall ≤ s.dev.clk - s.thr.waitSince + s.thr.waited))
      (match s.thr.status with
       | .waiting (.regclaim n) =>
         s1.mapThreads (fun t => if s.samePack t && t.status = .waiting (.regclaim n) then { t with due := some (8, d) } else t)
       | _ => { s1 with thr := { s1.thr with due := some (8, d) } })

/-! ## Traps (R85, R113) -/

/-- The claim of the checked-out thread's pack is withdrawn where the thread leaves a `regclaim` wait (R122). -/
def State.withdrawClaim (s : State) : State :=
  match s.thr.status with
  | .waiting (.regclaim _) => { s with grp := { s.grp with claims := s.grp.claims.filter (fun c => c.1 ≠ s.thr.key.tid / 32) } }
  | _ => s

/-- One due trap of a pack is delivered: that of the lowest lane (R113). -/
def deliverDue (gid pack : Nat) (s : State) : Option State :=
  match (s.packThreads gid pack).find? (fun t => t.due.isSome && t.status ≠ .exited) with
  | none => none
  | some t =>
    match s.focus t.key, t.due with
    | some s1, some (cause, d) =>
      whenDue (s1.running && !s1.trapTaken) (({ s1 with thr := { s1.thr with due := none } } : State).withdrawClaim.takeTrap cause d 0 s1.thr.instr)
    | _, _ => none

/-- The resume word of a trapped thread has passed (R85). -/
def trapEnd (s : State) : Option State := whenDue (s.running && s.trapReleased) s.resumeTrap

/-! ## Results (R27, R142, R243) -/

/-- A thread that waits for pending results issues its instruction again. -/
def Thread.retryInterlock (t : Thread) (clk : Nat) : Thread := if t.status = .waiting .interlock then t.retry clk else t

/-- A known result of the checked-out thread arrives: it is written once its window is over; an acquire drops what the load cache
may hold of older values (R27, R141). -/
def resultArrives (serial : Nat) (s : State) : Option State :=
  match s.thr.pend.find? (fun p => p.serial = serial && !p.arrived && !p.vals.isEmpty) with
  | none => none
  | some p =>
    let t := { s.thr with pend := s.thr.pend.map (fun (q : Pending) => if q.serial = serial then { q with arrived := true } else q) }
    let s1 := if p.acq then { s with core := s.core.invalidate } else s
    some { s1 with thr := (t.flush [] t.pend).retryInterlock s.dev.clk }

/-- Whether a thread's group belongs to partition `pid` of device `dev`. -/
def State.ofPart (s : State) (dev pid : Nat) (k : ThreadKey) : Bool := (s.group? k.gid).any (fun g => g.dev = dev) && s.pidOf k.gid = some pid

/-- Whether an access of the partition that used a translation of the range is still to perform: one under way, a ticket claim, a store that a
region holds, or a staged store of a group other than `own` (R318; notes/assumptions/32.md). -/
def State.usesPages (s : State) (own dev pid first count : Nat) : Bool :=
  let hit := fun (va : Nat) => decide (first ≤ va / 2 ^ 16) && decide (va / 2 ^ 16 < first + count)
  s.inflight.any (fun a => s.ofPart dev pid a.t && hit a.va)
    || s.tickets.any (fun k => k.val.isNone && s.ofPart dev pid k.t && hit k.va)
    || s.allCores.any (fun c => c.comb.any (fun b => s.ofPart dev pid b.t && hit b.va))
    || s.allGroups.any (fun g => g.gid ≠ 0 && g.gid ≠ own && s.ofPart dev pid ⟨g.gid, 0⟩ && g.stagedVa.any (fun p => hit p.2))

/-- Whether an access of the partition that is still to perform goes to the page of keys `page * 2^16` on: one under way, a ticket claim, or a
staged or held store (R312, R318). -/
def State.usesKeys (s : State) (dev pid page : Nat) : Bool :=
  s.inflight.any (fun a => s.ofPart dev pid a.t && a.key / 2 ^ 16 = page)
    || s.tickets.any (fun k => k.val.isNone && s.ofPart dev pid k.t && k.key / 2 ^ 16 = page)
    || s.allCores.any (fun c => c.comb.any (fun b => s.ofPart dev pid b.t && b.sector / 2 ^ 10 = page))
    || s.allGroups.any (fun g => g.gid ≠ 0 && s.ofPart dev pid ⟨g.gid, 0⟩ && g.stagedVa.any (fun p => p.1 / 2 ^ 10 = page))

/-- The reply of an interlocked instruction arrives (R27, R243, R276); `tlbinv` completes once no access that used an old
translation is under way (R318). -/
def replyArrives (s : State) : Option State :=
  match s.thr.status with
  | .waiting .reply =>
    let t := s.thr.reply.foldl (fun (t : Thread) (r : Nat × Word) => t.put1 r.1 r.2) s.thr
    some { s with thr := { t with reply := [] }.wake s.dev.clk }
  | .waiting (.tlbinv pid first count) =>
    whenDue (!s.usesPages s.grp.gid s.grp.dev pid first count) ({ s.dropPages s.grp.dev pid first count with thr := s.thr.wake s.dev.clk })
  | _ => none

/-- Threads that wait at issue for acknowledgements or for an earlier access issue again. -/
def State.retryResource (s : State) : State :=
  { s with thr := if s.thr.status = .waiting .resource then s.thr.retry s.dev.clk else s.thr }

/-- A store that has performed is acknowledged (R142): a remote plain store's thread goes on, and a waiting release is tried again. -/
def storeAcked (serial : Nat) (s : State) : Option State :=
  if !(s.thr.unacked.any (fun u => u.serial = serial)) || s.inflight.any (fun a => a.serial = serial) then none else
  let s1 := { s with thr := { s.thr with unacked := s.thr.unacked.filter (fun u => u.serial ≠ serial) } }
  some (if s1.thr.status = .waiting (.remote serial) then { s1 with thr := s1.thr.wake s.dev.clk } else s1.retryResource)

/-! ## The register pool (R122) -/

/-- The pack at the head of the queue receives its blocks: its wait ends with an acquire (R140), and the count of every other waiting pack
restarts (R112). -/
def serveClaim (s : State) : Option State :=
  match s.grp.claims with
  | [] => none
  | (pack, blocks) :: rest =>
    match (s.packThreads s.grp.gid pack).find? (fun t => t.status = .waiting (.regclaim (8 * blocks))) with
    | none => some { s with grp := { s.grp with claims := rest } }
    | some t =>
      match s.focus t.key with
      | none => none
      | some s1 =>
        let grant := s1.thr.grant
        let s2 := s1.mapThreads (fun t => if s1.samePack t && t.status = .waiting (.regclaim (8 * blocks)) then t.wake s1.dev.clk else t)
        whenDue (s1.running && decide (blocks ≤ s1.grp.pool))
          (State.poolChanged s1.grp.gid { s2.setGrant grant (grant + 8 * blocks) with
            grp := { s2.grp with pool := s2.grp.pool - blocks, claims := rest }, core := s2.core.invalidate })

/-! ## Tickets (R124) -/

/-- Rank order of claims: core, group slot, sr.tid. -/
def Ticket.before (a b : Ticket) : Bool :=
  decide (a.core < b.core) || (a.core = b.core && (decide (a.slot < b.slot) || (a.slot = b.slot && decide (a.t.tid < b.t.tid))))

/-- 64 cycles after the first of the claims a merge point holds for a counter it sends one fetch-and-add for those that reached it within them; what
the claiming groups have staged in the counter performs first (R144). An uncorrectable error there is consumed by the first claimant (R136). -/
def mergeTickets (dev cluster : Nat) (key : Nat) (s : State) : Option State :=
  let mine := fun (k : Ticket) => k.val.isNone && k.dev = dev && k.core / 4 = cluster && k.key = key
  match s.tickets.filter mine with
  | [] => none
  | k :: more =>
    let ks := k :: more.filter (fun j => decide (j.since < k.since + 64))
    let s0 := ks.foldl (fun s j => State.landOf j.t.gid key 4 s) s
    let base := Mem.nat s0.mem key 4
    let rank := fun (k : Ticket) => (ks.filter (fun j => j.before k)).length
    let s1 := s0.perform key (toBytes 4 ((base + ks.length) % 2 ^ 32))
    if s.locked key || decide (s.dev.clk < k.since + 64) then none
    else if s.poisoned key 4 then (s.focus k.t).bind (fun s => whenDue s.grp.live (s.consume 0x10).coreChanged)
    else some { s1 with tickets := s1.tickets.map (fun k => if ks.contains k then { k with val := some (BitVec.ofNat 32 (base + rank k)) } else k) }

/-- The value of a claim returns to its thread and enters the ticket log. -/
def ticketArrives (s : State) : Option State :=
  match s.tickets.find? (fun k => k.t = s.thr.key && k.val.isSome), s.thr.status with
  | some k, .waiting .ticket =>
    let v := k.val.getD 0
    let s1 := { s with tickets := s.tickets.filter (fun j => j.t ≠ k.t) }.logTicket v
    some { s1 with thr := (s1.thr.putDst k.dst [v]).wake s.dev.clk }
  | _, _ => none

/-- SPIN_LOWERING_EXPIRY -/
def execSpinLoweringExpiry (t : ThreadKey) (s : State) : Outcome := s.onThread t spinExpire
/-- THREAD_AGED -/
def execThreadAged (t : ThreadKey) (s : State) : Outcome := s.onThread t ageThread
/-- MEETING_RELEASE -/
def execMeetingRelease (gid pack : Nat) (m : CodeAddr) (s : State) : Outcome := s.onGroup gid (meetRelease pack m)
/-- MEETING_EARLY_RELEASE -/
def execMeetingEarlyRelease (gid pack : Nat) (m : CodeAddr) (s : State) : Outcome := s.onGroup gid (meetEarly pack m)
/-- YIELD_END -/
def execYieldEnd (t : ThreadKey) (s : State) : Outcome := s.onThread t endYield
/-- CROSS_LANE_GATHER -/
def execCrossLaneGather (t : ThreadKey) (s : State) : Outcome := s.onThread t gatherDone
/-- XSTALL -/
def execXstall (t : ThreadKey) (s : State) : Outcome := s.onThread t gatherStall
/-- BSTALL -/
def execBstall (t : ThreadKey) (s : State) : Outcome := s.onThread t waitStall
/-- TRAP_DELIVERY -/
def execTrapDelivery (gid pack : Nat) (s : State) : Outcome := s.onGroup gid (deliverDue gid pack)
/-- TRAP_RESUME -/
def execTrapResume (t : ThreadKey) (s : State) : Outcome := s.onThread t trapEnd
/-- LONG_LATENCY_RESULT -/
def execLongLatencyResult (t : ThreadKey) (serial : Nat) (s : State) : Outcome := s.onThread t (resultArrives serial)
/-- INTERLOCKED_RESULT_ARRIVAL -/
def execInterlockedResultArrival (t : ThreadKey) (s : State) : Outcome := s.onThread t replyArrives
/-- STORE_ACKNOWLEDGEMENT -/
def execStoreAcknowledgement (t : ThreadKey) (serial : Nat) (s : State) : Outcome := s.onThread t (storeAcked serial)
/-- REGCLAIM_SERVE -/
def execRegclaimServe (gid : Nat) (s : State) : Outcome := s.onGroup gid serveClaim
/-- TICKET_MERGE -/
def execTicketMerge (dev cluster : Nat) (key : Nat) (s : State) : Outcome := s.onDev dev (mergeTickets dev cluster key)
/-- TICKET_REPLY -/
def execTicketReply (t : ThreadKey) (s : State) : Outcome := s.onThread t ticketArrives

end Sys2Proof.Machine
end

