-- ==== Sys2Proof/Machine/Scheduler.lean ====
section
/-!
DEFINITION. The phase scheduler of a core: what a group needs, where it may go, admission, and what is saved with a group that
is pre-empted (08 R116, R123, R125; 12 R176, R189; 13 R193; 16 R223, R232, R233; 07 R114).
-/
namespace Sys2Proof.Machine
open Sys2Proof Bits Encoding

/-! ## Creating a group and its threads (R7, R8, R123, R225) -/

/-- Initial uniform registers: k0 to k7 of the record, the argument in k8:k9, zero above (R225). -/
def Launch.uniforms (l : Launch) : Vector Word 32 :=
  Vector.ofFn (fun i => if i.val < 8 then wordAt l.record (208 + 4 * i.val)
    else if i.val = 8 then loWord l.arg.toNat else if i.val = 9 then hiWord l.arg.toNat else 0)

/-- Group `idx` of a launch on device `dev`, Queued for the first time; its number is `gid`. -/
def Launch.newGroup (l : Launch) (gid idx dev now : Nat) : Group :=
  { Group.none with gid := gid, lid := l.lid, idx := idx, dev := dev, size := l.threadsPerGroup, phase := .queued, k := l.uniforms,
                    scratchSize := l.scratchRounded, guards := Vector.replicate 16 .unresolved, queuedAt := now, level := l.priority }

/-- A thread at kernel entry (Table 1.1, R8). -/
def Launch.newThread (l : Launch) (gid idx tid clk : Nat) : Thread :=
  { Thread.none with key := ⟨gid, tid⟩, pc := l.entry, meet := 0xFFFFFFFFFFFF, grant := l.regs, status := .ready, readySince := clk, progress := clk,
                     spin := ⟨0, 0, 0, 0xFFFFFFFF, false, 0⟩,
                     regs := l.entryRegs idx tid }

/-- Threads in rising sr.tid. -/
def Launch.newThreads (l : Launch) (gid idx clk : Nat) : List Thread := (List.range l.threadsPerGroup).map (fun t => l.newThread gid idx t clk)

/-! ## What a core has left (R116) -/

/-- What a group needs of a core: pack slots, registers, scratchpad bytes. -/
structure Need where
  packs : Nat
  regs : Nat
  bytes : Nat
  deriving DecidableEq, Repr

/-- What a group of a launch needs. -/
def Launch.need (l : Launch) : Need := ⟨l.packs, l.regs * l.threadsPerGroup, l.scratchRounded⟩

/-- What a group of the machine needs. -/
def State.needOf (s : State) (g : Group) : Need := ((s.launch? g.lid).map Launch.need).getD ⟨0, 0, 0⟩

/-- A group holds pack slots: it is resident. -/
def Group.resident (g : Group) : Bool := g.gid ≠ 0 && !g.slots.isEmpty

/-- Groups that have their place on a core. -/
def State.placedOn (s : State) (dev core : Nat) : List Group := s.allGroups.filter (fun g => g.gid ≠ 0 && g.placed && g.dev = dev && g.core = core)

/-- What two take together. -/
def Need.add (a b : Need) : Need := ⟨a.packs + b.packs, a.regs + b.regs, a.bytes + b.bytes⟩

/-- Pack slots, registers and scratchpad bytes in use on a core: slots and registers by resident groups, scratchpad by every placed one, and all
that is reserved there for groups of a prepared launch (R234, R235), but for group `own` of its launch (launch 0: nobody). -/
def State.inUse (s : State) (dev core : Nat) (own : Nat × Nat := (0, 0)) : Need :=
  let open_ := s.allLaunches.filter (fun l => l.state = .preparing || l.state = .dispatching)
  let kept := open_.flatMap (fun l => (l.reserved.filter (fun r => r.2 = (dev, core) && (l.lid, r.1) ≠ own)).map (fun _ => l.need))
  kept.foldl Need.add ((s.placedOn dev core).foldl (fun n g =>
    let w := s.needOf g
    n.add ⟨if g.resident then g.slots.length else 0, if g.resident then w.regs else 0, w.bytes⟩) ⟨0, 0, 0⟩)

/-- Whether a group fits beside what is in use: a placed one holds its scratchpad already. -/
def Need.fits (n used : Need) (placed : Bool) : Bool :=
  decide (used.packs + n.packs ≤ 64) && decide (used.regs + n.regs ≤ 65536) && decide (used.bytes + (if placed then 0 else n.bytes) ≤ 2 ^ 20)

/-- Whether what was saved with a group can return to a core: its pairs and sequencers are free there, its tiles not claimed, and the
queue has space for its commands. -/
def Core.canRestore (c : Core) (g : Group) : Bool :=
  g.savedPairs.all (fun p => (c.pair p.1).owner = 0)
    && g.savedSeqrs.all (fun q => (c.seqrs.getD q.1 Sequencer.free).gid = 0)
    && g.savedTiles.all (fun t => ((c.macros ++ [c.rowbuf]).getD t.1 Tile.none).claim = 0)
    && decide (c.jobs.length + g.savedJobs.length ≤ 32)

/-- Whether a group fits a core beside the groups resident there. -/
def State.fitsOn (s : State) (g : Group) (core : Nat) : Bool :=
  (s.needOf g).fits (s.inUse g.dev core (g.lid, g.idx)) (g.placed && g.core = core) && (s.core? g.dev core).canRestore g

/-! ## Placement (R223) -/

/-- Whether two groups of a launch agree at every level of domain `d` or wider. -/
def Launch.agree (l : Launch) (i j d : Nat) : Bool :=
  (List.range l.levels).all (fun k => decide (l.domain k < d) || l.coord i 0 k = l.coord j 0 k)

/-- Whether core `core` shares cluster and die with the cores of the groups `at_` of the same device that group `i` must share them with
(R223). -/
def Launch.near (l : Launch) (i core : Nat) (at_ : List (Nat × Nat)) : Bool :=
  at_.all (fun a => (!(l.agree i a.1 3) || a.2 / 4 = core / 4) && (!(l.agree i a.1 4) || a.2 / 48 = core / 48))

/-- Device on which group `i` of a launch runs; `d` where it has ended. -/
def State.devOfIdx (s : State) (lid i d : Nat) : Nat :=
  ((s.allGroups.find? (fun h => h.gid ≠ 0 && h.shadow = 0 && h.lid = lid && h.idx = i)).map Group.dev).getD d

/-- Whether a group may go to a core: its own once it has its place; for a first admission the one reserved at prepare, else one that shares
cluster and die with the groups it must share them with; any other core of the device for a group that moves (R114). -/
def State.mayGo (s : State) (g : Group) (core : Nat) : Bool :=
  decide (core < 192) && !(s.core? g.dev core).quarantined &&
  (if g.placed then g.core = core else
    match s.launch? g.lid with
    | none => false
    | some l =>
      l.admitted.any (fun a => a.1 = g.idx) ||
      (match lookup g.idx l.reserved with
       | some r => r = (g.dev, core)
       | none => l.near g.idx core (l.admitted.filter (fun a => s.devOfIdx l.lid a.1 g.dev = g.dev))))

/-! ## Order of admission (R232, R233) -/

/-- A phase that waits for a core: Queued, or Suspended and to be resumed. -/
def Group.waitsForCore (g : Group) : Bool := g.gid ≠ 0 && (g.phase = .queued || g.phase = .suspended)

/-- Whether `a` comes before `b`: effective level, then queue time, then sr.group within a launch. -/
def Group.ahead (a b : Group) : Bool :=
  decide (b.level < a.level)
    || (a.level = b.level && (decide (a.queuedAt < b.queuedAt) || (a.queuedAt = b.queuedAt && a.lid = b.lid && decide (a.idx < b.idx))))

/-- `a` needs no more than `b` of any resource. -/
def Need.atMost (a b : Need) : Bool := decide (a.packs ≤ b.packs) && decide (a.regs ≤ b.regs) && decide (a.bytes ≤ b.bytes)

/-- Whether the launch of a group may have groups admitted. -/
def State.admits (s : State) (g : Group) : Bool :=
  ((s.launch? g.lid).any (fun l => l.admitted.any (fun a => a.1 = g.idx) || l.state = .dispatching || l.state = .running)) &&
  (let p := s.part? g.dev (((s.launch? g.lid).map Launch.pid).getD 0)
   p.pstat = 0 && !p.broken && !(s.dev? g.dev).stopped && !(s.dev? g.dev).unpowered)

/-- Whether a waiting phase `q` keeps `g` from being admitted to a core: one ahead that fits, one of level 9 to 11 ahead whether it fits
or not (R233), or one queued earlier at no lower level that needs no less of anything (R232); nothing keeps out a group for which prepare has
reserved the core (R234). -/
def State.keepsOut (s : State) (g q : Group) (core : Nat) : Bool :=
  let reserved := (s.launch? g.lid).any (fun l => (lookup g.idx l.reserved).isSome)
  !reserved && q.gid ≠ g.gid && q.waitsForCore && q.dev = g.dev && s.mayGo q core && s.admits q &&
    ((q.ahead g && s.fitsOn q core) || (decide (9 ≤ q.level) && decide (g.level < q.level))
      || (decide (g.level ≤ q.level) && decide (q.queuedAt < g.queuedAt) && (s.needOf g).atMost (s.needOf q)))

/-- Free pack slots of a core, from a chosen one on: which slot a pack takes is not stated. -/
def State.freeSlots (s : State) (dev core start : Nat) : List Nat :=
  let taken := (s.placedOn dev core).flatMap Group.slots
  ((List.range 64).map (fun i => (start + i) % 64)).filter (fun x => !(taken.contains x))

/-! ## Restoring and suspending (R28, R114, R123, R176, R189, R193) -/

/-- It goes on from there; age and meeting counts start again (R114). -/
def Thread.resume (t : Thread) (clk : Nat) : Thread :=
  let t1 := { t with spin := { t.spin with lowUntil := t.spin.lowUntil + clk }, aged := false, readySince := clk, progress := clk, waitSince := clk }
  match t.status with
  | .waiting (.yield pcs til) => { t1 with status := .waiting (.yield pcs (til + clk)) }
  | _ => t1

/-- What was saved with the checked-out group returns to its core; threads that wait for pairs or a sequencer enter its queues again. -/
def State.restoreGroup (s : State) : State :=
  let g := s.grp
  let c1 := g.savedTiles.foldl (fun (c : Core) t => c.putTile t.1 t.2) s.core
  let c2 := { c1 with
    pairs := c1.pairs.zipIdx.map (fun (p : AccPair × Nat) => match lookup p.2 g.savedPairs with | some q => { q with holds := p.1.holds } | none => p.1),
    seqrs := c1.seqrs.zipIdx.map (fun (q : Sequencer × Nat) => (lookup q.2 g.savedSeqrs).getD q.1),
    jobs := c1.jobs ++ g.savedJobs }
  let wants := fun (f : Wait → Bool) => ((s.groupThreads g.gid).filter (fun t => match t.status with | .waiting w => f w | _ => false)).map Thread.key
  let add := fun (q : List ThreadKey) (ks : List ThreadKey) => q ++ ks.filter (fun k => !(q.contains k))
  let s1 : State := { s with core := { c2 with accaQ := add c2.accaQ (wants (fun w => match w with | .acca _ _ => true | _ => false)),
                                               forkQ := add c2.forkQ (wants (fun w => match w with | .fork _ _ => true | _ => false)) },
                             grp := { g with savedTiles := [], savedSeqrs := [], savedPairs := [], savedJobs := [] } }
  s1.changedSince s.core

/-- Suspend the checked-out running group mid-phase (R28, R233, R314): its full context is saved, its open regions fail (R294), and its
array commands under way have completed. -/
def State.suspendGroup (s : State) : State :=
  let gid := s.grp.gid
  let clk := s.dev.clk
  let fail := fun (t : Thread) =>
    if t.key.gid = gid then
      { t.suspend clk with region := t.region.map (fun r => if r.failed = 0 && !r.sent then { r with failed := 5 } else r) }
    else t
  let s1 := (s.saveGroup true).mapThreads fail
  { s1 with grp := { s1.grp with phase := .suspended, slots := [], placed := false, queuedAt := s.now, level := s.lau.priority },
            issueQ := s1.issueQ.filter (fun q => q.1.gid ≠ gid) }

/-! ## Pre-emption at a boundary (R233) -/

/-- Whether waiting phase `q` of level 9 to 11, which does not fit the checked-out core, takes the checked-out group's resources: of the
resident groups of lower launch priority the lowest are taken first, until it fits. -/
def State.takesFrom (s : State) (q : Group) : Bool :=
  let core := s.grp.core
  let prio := fun (g : Group) => ((s.launch? g.lid).map Launch.priority).getD 0
  let used := s.inUse s.grp.dev core
  let lower := (s.placedOn s.grp.dev core).filter (fun g => g.resident && g.shadow = 0 && g.gid ≠ s.grp.gid && decide (prio g < s.lau.priority))
  let freed := lower.foldl (fun (n : Need) g => let w := s.needOf g; ⟨n.packs + g.slots.length, n.regs + w.regs, n.bytes⟩) ⟨0, 0, 0⟩
  s.grp.shadow = 0 && q.waitsForCore && decide (9 ≤ q.level) && decide (s.lau.priority < q.level) && q.dev = s.grp.dev && s.mayGo q core && s.admits q
    && !(s.fitsOn q core)
    && !((s.needOf q).fits ⟨used.packs - freed.packs, used.regs - freed.regs, used.bytes⟩ (q.placed && q.core = core))

/-- Whether the checked-out group is pre-empted at its boundary: a request stands, its core is quarantined (R336), or a higher phase
takes its resources. -/
def State.preempted (s : State) : Bool := s.grp.preempt || s.core.quarantined || s.allGroups.any s.takesFrom

end Sys2Proof.Machine
end

