-- ==== Sys2Proof/Machine/EvPhase.lean ====
section
/-!
DEFINITION. Events of phases: commit, admission, aging, forced pre-emption, consumed errors and the replay auditor (08 R116 to R120,
R125; 16 R232, R233; 25 R331, R332, R335, R336).
-/
namespace Sys2Proof.Machine
open Sys2Proof Bits Encoding

/-! ## Commit (R120, R125) -/

/-- Whether the audit of a phase is settled: two of its runs agree (R336). -/
def Group.settled (g : Group) : Bool :=
  match g.audit with
  | [some a, some b] => a = b
  | _ => false

/-- A phase that may commit: Closing and not sampled, or Audited and settled (Table 8.3). -/
def Group.mayCommit (g : Group) : Bool := (g.phase = .closing && !g.sampled) || (g.phase = .audited && g.settled)

/-- The checked-out phase commits, or rolls back where a staged sector cannot be prepared; the next phase begins, or the group ends; a
group pre-empted at this boundary is queued with its tiles and sequencers saved. -/
def commitPhase (s : State) : State :=
  if s.unprepared then s.consume 0x10 else
  let s1 := s.commit
  let s2 := State.nextPhase { s1 with grp := { s1.grp with preempt := s.preempted } }
  s2.settleQueued.coreChanged

/-- PHASE_COMMIT: it waits while a staged sector is locked by a prepared region (R296). -/
def phaseCommits (s : State) : Option State :=
  whenDue (s.grp.mayCommit && s.grp.stagedVa.all (fun p => !(s.locked (64 * p.1)))) (commitPhase s)

/-! ## Admission (R116, R118, R232) -/

/-- First admission: the group's threads come into being and its first phase begins. -/
def State.firstAdmission (s : State) : State :=
  let g := s.grp
  let ts := s.lau.newThreads g.gid g.idx s.dev.clk
  let s1 := State.beginPhase { s with threads := ts.foldr putThread s.threads }
  let l := { s1.lau with admitted := s1.lau.admitted ++ [(g.idx, g.core)], reserved := Bits.erase g.idx s1.lau.reserved }
  let all := (List.range l.groupCount).all (fun i => l.admitted.any (fun a => a.1 = i) || l.ended.contains i)
  { s1 with lau := { l with state := if all && l.state = .dispatching then .running else l.state } }

/-- The checked-out group runs on a core, which drops its load cache (R231): with pack slots there, its counts going on from where they stood; a boundary that came while it was
suspended closes its phase now (R117). -/
def State.admitOn (core : Nat) (s : State) : State :=
  let s0 := s.checkoutCore s.grp.dev core
  let (start, s1) := s0.choose 64
  let g := s1.grp
  let first := !(s1.lau.admitted.any (fun a => a.1 = g.idx))
  let slots := (s1.freeSlots g.dev core start).take s1.lau.packs
  let s2 := { s1 with grp := { g with core := core, placed := true, slots := slots, phase := if g.boundary then .closing else .running,
                                      closedAt := s1.now, boundary := false, level := s1.lau.priority },
                      core := { s1.core with issued := s1.core.issued.filter (fun x => !(slots.contains x)) }.invalidate }
  if first then s2.firstAdmission
  else (s2.restoreGroup.mapThreads (fun t => if t.key.gid = g.gid then t.resume s2.dev.clk else t)).coreChanged

/-- PHASE_ADMISSION: the phase fits, and no other is to be admitted before it. -/
def phaseAdmits (core : Nat) (s : State) : Option State :=
  let g := s.grp
  whenDue (g.waitsForCore && s.mayGo g core && s.admits g && s.fitsOn g core && !(s.allGroups.any (fun q => s.keepsOut g q core))) (s.admitOn core)

/-- PHASE_AGING (R232): one level after each 50 µs in Queued, never above 8. -/
def phaseAges (s : State) : Option State :=
  let g := s.grp
  whenDue (g.phase = .queued && decide (g.level < 8) && decide ((g.level - s.lau.priority + 1) * 50000 ≤ s.now - g.queuedAt))
    { s with grp := { g with level := g.level + 1 } }

/-- Whether Queued phase `q` would fit the checked-out group's core without group `v`, which mid-phase pre-emption would suspend. -/
def State.wouldFit (s : State) (q v : Group) : Bool :=
  let used := s.inUse v.dev v.core
  let w := s.needOf v
  (s.needOf q).fits ⟨used.packs - v.slots.length, used.regs - w.regs, used.bytes - w.bytes⟩ (q.placed && q.core = v.core)

/-- FORCED_PREEMPTION (R233): a Queued level-11 phase unserved for 20 µs suspends the lowest-priority resident group whose resources
would suffice; a boundary in the same cycle wins, so none of its threads is still to issue (R120). An auditor's re-run is not pre-empted. -/
def preempts (q : Group) (s : State) : Option State :=
  let v := s.grp
  let prio := fun (g : Group) => ((s.launch? g.lid).map Launch.priority).getD 0
  let better := fun (g : Group) => g.resident && g.shadow = 0 && g.phase = .running && decide (prio g < prio v) && s.wouldFit q g
  whenDue (s.running && v.shadow = 0 && s.issueQ.all (fun t => t.1.gid ≠ v.gid) && q.gid ≠ 0 && q.phase = .queued && q.level = 11 && decide (q.queuedAt + 20000 ≤ s.now) && q.dev = v.dev && s.mayGo q v.core
      && s.admits q && !(s.fitsOn q v.core) && decide (s.lau.priority < 11) && s.wouldFit q v && !((s.placedOn v.dev v.core).any better))
    s.suspendGroup.coreChanged

/-! ## Consumed errors (R331, R332, R185) -/

/-- What an error that a core detects in the state of the checked-out node has struck: whether the node owns it, and whether rollback can repair
it; a scratchpad sector or a bank needs an undo copy (R331). -/
def State.struck (s : State) (hit : Struck) : Bool × Bool :=
  match hit with
  | .other => (true, true)
  | .sector n => (decide (64 * n < s.grp.scratchSize), (lookup n s.grp.undoScratch).isSome)
  | .bank p => ((s.core.pair p).owner = s.grp.gid, s.grp.undoBanks.any (fun u => u.pair = p))

/-- A core detects an uncorrectable error in state its node owns (R331): the node rolls back, or ends where rollback cannot repair it (code
0x11). -/
def nodeConsumes (u : ErrUnit) (hit : Struck) (s : State) : Option State :=
  let (owns, copied) := s.struck hit
  let s1 := s.performGroup
  whenDue (s.grp.live && ErrUnit.legal u && owns && s.dev.answers)
    (if copied || s.grp.shadow ≠ 0 then (s1.consumeError 0x10 u).coreChanged
     else (s1.report s1.grp.dev s1.lau.pid 0x10 u s1.lau.number).abortNode.coreChanged)

/-- An engine job consumes an error: it alone is rolled back and re-queued, and will write every byte again (R185); a job of an auditor's re-run
drops the sample (R336). -/
def jobConsumes (gid job : Nat) (u : ErrUnit) (s : State) : State :=
  let hit := fun (j : Job) => j.id = job && j.gid = gid && j.freed && !j.moved && !j.kind.array
  match s.allCores.find? (fun c => c.jobs.any hit), (s.allCores.flatMap Core.jobs).find? hit with
  | some c, some j =>
    if !ErrUnit.legal u then s else
    (match s.focusGroup gid with
     | some s1 => if s1.grp.shadow ≠ 0 then s1.consumeError 0x10 u else s.report c.dev j.pid 0x10 u s1.lau.number
     | none => s.report c.dev j.pid 0x10 u (((s.launch? j.lid).map Launch.number).getD 0))
  | _, _ => s

/-! ## The replay auditor (R335, R336) -/

/-- Bytes of a thread record (Table 8.1). -/
def ThreadRecord.bytes (r : ThreadRecord) : List Byte :=
  toBytes 8 r.pc.toNat ++ toBytes 8 r.meet.toNat
    ++ toBytes 4 (r.sli.toNat * 2 ^ 24 + r.fp.toNat * 2 ^ 16 + r.cc.toNat * 2 ^ 8 + r.q.toNat)
    ++ toBytes 4 (r.carry.length * 2 ^ 8 + r.grant) ++ toBytes 4 (r.spin.addr.toNat % 2 ^ 32) ++ toBytes 4 r.spin.hash.toNat
    ++ toBytes 4 (r.spin.lowUntil * 2 ^ 16 + r.spin.count) ++ List.replicate 28 0 ++ r.carry.flatMap (fun w => toBytes 4 w.toNat)

/-- Code of a guard slot (Table 8.2). -/
def GuardSlot.code : GuardSlot → Nat
  | .unresolved => 0
  | .no => 1
  | .yes => 2
  | .never => 3

/-- Bytes of a group record that starts a phase, with the flags and attempt fields zero (Table 8.2). -/
def PhaseRecord.bytes (r : PhaseRecord) : List Byte :=
  toBytes 4 r.phase ++ toBytes 4 0 ++ toBytes 4 r.threads.length
    ++ toBytes 4 (r.guards.toList.zipIdx.foldl (fun n g => n + g.1.code * 4 ^ g.2) 0)
    ++ toBytes 4 r.pairs ++ toBytes 4 r.pool ++ toBytes 4 0 ++ toBytes 4 0 ++ r.k.toList.flatMap (fun w => toBytes 4 w.toNat) ++ List.replicate 96 0

/-- The record the next phase of the checked-out group would start from. -/
def State.nextRecord (s : State) : PhaseRecord :=
  let s1 := s.mapThreads (fun t => if t.key.gid = s.grp.gid then t.cutRegs s.lau.carrySet else t)
  let r := (State.writeRecord { s1 with core := s1.core.freeReleased s.grp.gid, grp := { s1.grp with phases := s1.grp.phases + 1 } }).grp.record
  r

/-- Sectors of a list of undo copies, ascending. -/
def sectorsOf (u : List (Nat × List Byte)) : List Nat := (u.foldl (fun l x => Bits.insert x.1 () l) []).map Prod.fst

/-- A staged sector in a signature: its address, its bytes, of which one not written counts as zero, and the mask of the bytes written
(notes/assumptions/32.md). -/
def State.stagedSector (s : State) (sec va : Nat) : List Byte :=
  let mask := (List.range 64).foldl (fun m i => if (lookup (64 * sec + i) s.grp.staged).isSome then m + 2 ^ i else m) 0
  toBytes 8 va ++ (List.range 64).map (fun i => (lookup (64 * sec + i) s.grp.staged).getD 0) ++ toBytes 8 mask

/-- A bank in a signature: pair, bank, and 4,096 elements of 48 bits. -/
def bankBytes (pair bank : Nat) (b : Bank) : List Byte :=
  toBytes 1 pair ++ toBytes 1 bank ++ (List.range 4096).flatMap (fun i => toBytes 6 (b.get i).toNat)

/-- The number by which a group knows a pair of its core (R194). -/
def Group.pairName (g : Group) (p : Nat) : Nat := if g.shadow = 0 then p else ((g.pairMap.find? (fun m => m.2 = p)).map Prod.fst).getD p

/-- Put an entry after those of no higher number. -/
def insertAfter {α : Type} (p : Nat × α) : List (Nat × α) → List (Nat × α)
  | [] => [p]
  | q :: qs => if p.1 < q.1 then p :: q :: qs else q :: insertAfter p qs

/-- A list with a number on each entry, in the order of the numbers, entries of one number as they stand. -/
def inOrder {α : Type} (l : List (Nat × α)) : List α := (l.foldl (fun acc p => insertAfter p acc) []).map Prod.snd

/-- The signature of the checked-out phase as this core ran it (R336). Jobs and log entries are in order of job and of thread
(notes/assumptions/32.md). -/
def State.signature (s : State) : DWord :=
  let g := s.grp
  let va := g.stagedVa.foldl (fun l p => Bits.insert p.2 p.1 l) []
  let pairs := g.undoBanks.foldl (fun l (u : UndoBank) => Bits.insert (g.pairName u.pair) u l) []
  let r := s.nextRecord
  crc64 (va.flatMap (fun p => s.stagedSector p.2 p.1)
    ++ (sectorsOf g.undoScratch).flatMap (fun c => toBytes 4 (64 * c) ++ Mem.read g.scratch (64 * c) 64)
    ++ pairs.flatMap (fun p => (if p.2.working then bankBytes p.1 0 (s.core.pair p.2.pair).working else [])
        ++ (if p.2.visible then bankBytes p.1 1 (s.core.pair p.2.pair).visible else []))
    ++ r.threads.flatMap ThreadRecord.bytes ++ r.bytes ++ inOrder g.jobBytes
    ++ (inOrder (g.log.map (fun e => (e.tid, e)))).flatMap (fun e => Config.logBytes e.tid e.op e.addr e.operand e.ret))

/-- Accumulator pairs with which the checked-out group began its phase. -/
def State.startPairs (s : State) : List (Nat × AccPair) :=
  ((restorePairs s.core.pairs s.grp.undoBanks).zipIdx.filter (fun p => p.1.owner = s.grp.gid)).map (fun p => (p.2, p.1))

/-- Macros 0 to 7 and row buffer 8 of a core. -/
def Core.tiles (c : Core) : List Tile := c.macros ++ [c.rowbuf]

/-- Loaded tiles as the checked-out group's phase found them: its own, and those nobody claims. -/
def State.startTiles (s : State) : List (Nat × Tile) :=
  ((s.core.restoreTiles s.grp.gid).tiles.zipIdx.filter (fun t => t.1.fmt.isSome && (t.1.claim = 0 || t.1.claim = s.grp.gid))).map (fun t => (t.2, t.1))

/-- Pairs of an auditing core that stand for pairs `ns`, neighbours staying neighbours: the same numbers where they are free (R194). -/
def Core.placePairs (c : Core) (ns : List Nat) : Option (List (Nat × Nat)) :=
  ((7 :: List.range 15).map (fun d => ns.map (fun n => (n, n + d)))).find? (fun m => m.all (fun q => decide (7 ≤ q.2) && c.runFree (q.2 - 7) 1))
    |>.map (fun m => m.map (fun q => (q.1, q.2 - 7)))

/-- Whether a core of the checked-out group's device, on none of the dies given, can admit the group (R116) with the pairs, tiles and sequencers
that the re-run starts with (notes/assumptions/32.md). -/
def State.auditor (s : State) (dies : List Nat) (core : Nat) : Bool :=
  let c := s.core? s.grp.dev core
  decide (core < 192) && !(dies.contains (core / 48)) && !c.quarantined && s.lau.need.fits (s.inUse s.grp.dev core) false
    && (c.placePairs (s.startPairs.map Prod.fst)).isSome
    && s.startTiles.all (fun t => t.2.claim = 0 || (c.tiles.getD t.1 Tile.none).claim = 0)
    && c.seqrs.all (fun q => q.gid = 0)

/-- Whether nothing of a group's phase is still under way: no access, and no command that may run. -/
def State.settledGroup (gid : Nat) (s : State) : Bool :=
  s.inflight.all (fun a => a.t.gid ≠ gid) && s.tickets.all (fun k => k.t.gid ≠ gid)
    && s.allCores.all (fun c => c.jobs.all (fun j => j.gid ≠ gid || !j.freed))

/-- Core `c` with what the checked-out group's phase began with, for its re-run as group `new`: pairs under `map`, tiles with an undo copy of what
they held, sequencers. -/
def State.seedCore (s : State) (new : Nat) (map : List (Nat × Nat)) (slots : List Nat) (c : Core) : Core :=
  let c1 := s.startTiles.foldl (fun (c : Core) t =>
    let old := c.tiles.getD t.1 Tile.none
    if old.claim ≠ 0 then c else c.putTile t.1 { t.2 with claim := new, undo := (old.save new).undo }) c.invalidate
  { c1 with pairs := s.startPairs.foldl (fun ps p => ps.modify ((lookup p.1 map).getD 8) (fun q => { p.2 with owner := new, holds := q.holds })) c1.pairs,
            seqrs := s.grp.record.seqs.foldl (fun qs q => qs.set q.1 { q.2 with gid := new }) c1.seqrs,
            issued := c1.issued.filter (fun x => !(slots.contains x)) }

/-- Start a run of the checked-out sampled phase on another core, from its phase record and the original's state undone (R336, R146, R193): a
group of its own whose writes are kept apart, in the free pack slots from `slot` on. -/
def State.startShadow (core slot : Nat) (s0 : State) : State :=
  let (new, s) := s0.freshId
  let g := s.grp
  let r := g.record
  let clk := s.dev.clk
  let slots := (s.freeSlots g.dev core slot).take s.lau.packs
  let old := s.core? g.dev core
  let map := (old.placePairs (s.startPairs.map Prod.fst)).getD []
  let thread := fun (t : Thread) =>
    let regs := if r.phase = 0 then s.lau.entryRegs g.idx t.key.tid else Vector.replicate 200 0
    match r.threads.find? (fun q => q.tid = t.key.tid) with
    | some q => { (t.restart q s.lau.carrySet regs clk).resume clk with key := ⟨new, t.key.tid⟩ }
    | none => { Thread.none with key := ⟨new, t.key.tid⟩, grant := t.grant }
  let h := { g with gid := new, core := core, slots := slots, phase := .running, attempt := 1, k := r.k,
                    scratch := restoreScratch g.scratch g.undoScratch, attrs := r.attrs, held := r.held, undoScratch := [], undoBanks := [],
                    staged := [], stagedVa := [], stagedStamps := [], log := [], replay := g.log, tickets := [], ticketReplay := g.tickets,
                    pool := r.pool, guards := r.guards, trapped := false, claims := [], seq := r.bound.1, view := r.bound.2, stepEnded := false,
                    preempt := false, audit := [], jobBytes := [], shadow := g.gid, differs := false, pairMap := map }
  let s2 := (State.updCore g.dev core (s.seedCore new map slots)
    { s with groups := putGroup h s.groups, threads := ((s.groupThreads g.gid).map thread).foldr putThread s.threads }).changedSince old
  g.foreignBytes.foldl (fun s b => s.syncApply (.scratch new b.1) b.2 false s.lau.lid) s2

/-- Whether a run of the auditor has ended: its phase has closed with nothing under way, or it has differed. -/
def State.shadowDone (h : Group) (s : State) : Bool := h.differs || (h.phase = .closing && s.settledGroup h.gid)

/-- The signature of a run of the auditor; none for one that differed. -/
def State.shadowSignature (h : Group) (s : State) : Option DWord := if h.differs then none else (s.focusGroup h.gid).map State.signature

/-- AUDIT_RERUN: a sampled phase that closes is run again on another die; when that run has ended, the two signatures are compared. -/
def auditReruns (core slot : Nat) (s : State) : Option State :=
  let g := s.grp
  match s.shadowsOf g.gid with
  | [] =>
    whenDue (g.phase = .closing && g.sampled && s.settledGroup g.gid && s.auditor [g.core / 48] core)
      (State.startShadow core slot { s with grp := { g with phase := .audited, audit := [some s.signature], auditCore := core } })
  | h :: _ =>
    let s1 := { s with grp := { g with audit := [g.audit.headD none, s.shadowSignature h] } }
    whenDue (g.phase = .audited && g.audit.length = 1 && h.core = core && s.shadowDone h)
      (if s1.grp.settled then s1.dropShadow g.gid
       else { s1 with part := { s1.part with audMis := min (s1.part.audMis + 1) 0xFFFF } })

/-- A core admits no further group (R336): those Queued with their place on it may go elsewhere, and its resident groups are pre-empted at their
next boundary. -/
def State.quarantine (dev core : Nat) (s : State) : State :=
  let gids := ((s.placedOn dev core).filter (fun g => g.phase = .queued)).map Group.gid
  let s1 := s.updCore dev core (fun c => { c with quarantined := true })
  let s2 := gids.foldl (fun s gid => ((s.focusGroup gid).map State.settleQueued).getD s) s1
  (s2.focusGroup s.grp.gid).getD s2

/-- A run of the auditor becomes the checked-out group's own (R336): the run's staged writes and state are committed, and what the original held on
its core is discarded; the group goes to another core at the boundary (R114). -/
def State.adopt (h : Group) (s : State) : State :=
  let g := s.grp
  let from_ := s.core? h.dev h.core
  let own := s.startTiles
  let kept := (from_.claimed h.gid).filterMap (fun t =>
    let was := (lookup t.1 own).getD Tile.none
    let same := decide (was.fmt = t.2.fmt ∧ was.bytes = t.2.bytes ∧ was.zps = t.2.zps)
    if same && was.claim ≠ g.gid then none else some (t.1, { t.2 with claim := g.gid, undo := (was.save g.gid).undo }))
  let pairs := (from_.pairs.zipIdx.filter (fun p => p.1.owner = h.gid)).map (fun p => (h.pairName p.2, { p.1 with owner := g.gid, holds := [] }))
  let seqrs := (from_.seqrs.zipIdx.filter (fun q => q.1.gid = h.gid)).map (fun q => (q.2, { q.1 with gid := g.gid }))
  let cmds := (from_.jobs.filter (fun j => j.gid = h.gid && j.kind.array)).map (fun j => { j with gid := g.gid })
  let banks := h.undoBanks.map (fun u => { u with pair := h.pairName u.pair, owner := if u.owner = h.gid then g.gid else u.owner })
  let g1 := { h with gid := g.gid, core := g.core, slots := [], placed := false, phase := .audited, attempt := g.attempt, record := g.record, replay := [],
                     ticketReplay := [], undoBanks := banks, stagedStamps := g.stagedStamps, preempt := true, shadow := 0, pairMap := [],
                     savedTiles := kept, savedPairs := pairs, savedSeqrs := seqrs, savedJobs := cmds, auditCore := g.auditCore }
  let name := fun (t : Thread) => if t.key.gid = h.gid then { t with key := ⟨g.gid, t.key.tid⟩ } else t
  let jobs := fun (c : Core) => { c with jobs := (c.jobs.filter (fun j => j.gid ≠ g.gid && !(j.gid = h.gid && j.kind.array))).map (fun j =>
    if j.gid = h.gid then { j with gid := g.gid } else j) }
  let s1 : State := { s with core := s.core.freeGroup g.gid, grp := g1, groups := s.groups.filter (fun x => x.gid ≠ h.gid),
                             threads := (s.threads.filter (fun t => t.key.gid ≠ g.gid)).map name,
                             thr := if s.thr.key.gid = g.gid then Thread.none else name s.thr }
  let s2 := (s1.mapCores jobs).updCore h.dev h.core (fun c => (c.restoreTiles h.gid).freeGroup h.gid)
  (s2.changedSince s.core).changedSince from_

/-- What the third run of an audit leads to (Table 25.4): `c` is its signature, `a` and `b` those of the original and of the re-run `h`. -/
def State.settleAudit (a b c : Option DWord) (h : Group) (s : State) : State :=
  let dev := s.grp.dev
  let blame := fun (core : Nat) (s : State) => (s.quarantine dev core).report dev s.lau.pid 0x04 ⟨0, core⟩ s.lau.number
  if c.isSome && c = a then blame s.grp.auditCore (State.dropShadow s.grp.gid { s with grp := { s.grp with audit := [a, a] } })
  else if c.isSome && c = b then
    let s1 := s.adopt h
    blame s.grp.core (State.dropShadow s.grp.gid { s1 with grp := { s1.grp with audit := [b, b] } })
  else (s.consume 0x14).coreChanged

/-- AUDIT_THIRD_RUN: a third run, on a die that ran neither of the first two, settles a mismatch. -/
def auditThird (core slot : Nat) (s : State) : Option State :=
  let g := s.grp
  match g.audit, (s.shadowsOf g.gid).find? (fun h => h.core = g.auditCore), (s.shadowsOf g.gid).find? (fun h => h.core ≠ g.auditCore) with
  | [_, _], some _, none => whenDue (g.phase = .audited && !g.settled && s.auditor [g.core / 48, g.auditCore / 48] core) (s.startShadow core slot)
  | [a, b], some h, some k =>
    whenDue (g.phase = .audited && !g.settled && k.core = core && s.shadowDone k) (s.settleAudit a b (s.shadowSignature k) h)
  | _, _, _ => none

/-- AUDIT_SAMPLE_DROP: no core is available within 100 µs, or the auditor's run consumed an uncorrectable error (code 0x05); the phase
goes on to commit. -/
def auditDrops (err : Bool) (s : State) : Option State :=
  let g := s.grp
  let none_ := !((List.range 192).any (fun c => s.auditor [g.core / 48] c)) && decide (g.closedAt + 100000 ≤ s.now)
  if err then
    (match (s.shadowsOf g.gid).find? (fun h => !s.shadowDone h) with
     | some h => some ((s.report g.dev s.lau.pid 0x05 ⟨0, h.core⟩ s.lau.number).dropAudit g.gid)
     | none => none)
  else whenDue (g.phase = .closing && g.sampled && none_) (s.dropAudit g.gid)

/-- PHASE_COMMIT -/
def execPhaseCommit (gid : Nat) (s : State) : Outcome := s.onGroup gid phaseCommits
/-- PHASE_ADMISSION -/
def execPhaseAdmission (gid core : Nat) (s : State) : Outcome := s.onGroup gid (phaseAdmits core)
/-- PHASE_AGING -/
def execPhaseAging (gid : Nat) (s : State) : Outcome := s.onGroup gid phaseAges
/-- FORCED_PREEMPTION -/
def execForcedPreemption (gid victim : Nat) (s : State) : Outcome := s.onGroup victim (preempts ((s.group? gid).getD Group.none))
/-- UNCORRECTABLE_ERROR_CONSUMED -/
def execUncorrectableErrorConsumed (gid : Nat) (job : Option Nat) (u : ErrorHit) (s : State) : Outcome :=
  match job with
  | none => s.onGroup gid (nodeConsumes u.unit u.struck)
  | some j => .next (jobConsumes gid j u.unit s)
/-- AUDIT_RERUN -/
def execAuditRerun (gid core slot : Nat) (s : State) : Outcome := s.onGroup gid (auditReruns core slot)
/-- AUDIT_THIRD_RUN -/
def execAuditThirdRun (gid core slot : Nat) (s : State) : Outcome := s.onGroup gid (auditThird core slot)
/-- AUDIT_SAMPLE_DROP -/
def execAuditSampleDrop (gid : Nat) (err : Bool) (s : State) : Outcome := s.onGroup gid (auditDrops err)

end Sys2Proof.Machine
end

