-- ==== Sys2Proof/Machine/EvFault.lean ====
section
/-!
DEFINITION. Events of paging and translation: fault replies, stack growth, ATS, TLBINV, integrity tags (09 R137, R138; 21 R310, R312,
R318; 25 R337; 19 R275).
-/
namespace Sys2Proof.Machine
open Sys2Proof Bits Encoding

/-! ## Fault replies (R137, R312) -/

/-- Groups of the checked-out partition's launches on its device. -/
def State.partGids (s : State) : List Nat :=
  (s.allGroups.filter (fun g => g.gid ≠ 0 && g.dev = s.part.dev && ((s.launch? g.lid).any (fun l => l.pid = s.part.pid)))).map Group.gid

/-- A launch in Waiting of the checked-out partition with a dependence word on a page (R231). -/
def State.dependsOn (s : State) (page : Nat) (l : Launch) : Bool :=
  l.lid ≠ 0 && l.dev = s.part.dev && l.pid = s.part.pid && l.state = .waiting && (List.range l.deps).any (fun j => (l.dep j).1 / 2 ^ 16 = page)

/-- Complete a launch that never dispatched, with a status of Table 16.5: LAUNCH_END writes what is to be written. -/
def Launch.finish (l : Launch) (status : Nat) : Launch := { l with state := .completed, status := status, reserved := [] }

/-- Act on a reply (R312): served, every thread and job parked on the page replays; declined, the threads take XLATE (kind 3 for a host
page, else 0), the jobs fail, and launches whose dependence word lies there complete with status 1. -/
def State.faultReply (page : Nat) (decline : Bool) (s : State) : State :=
  let p := s.part
  let gids := s.partGids
  let host := p.faults.any (fun f => f.page = page && f.kind = 2)
  let d := xlateDetail (if host then 3 else 0) (page * 2 ^ 16)
  let thread := fun (t : Thread) =>
    if gids.contains t.key.gid && t.status = .parked page && t.due.isNone then
      (if decline then { t with due := some (causeXlate, d) } else t.retry s.dev.clk)
    else t
  let job := fun (j : Job) =>
    if j.pid = p.pid && j.parked = some page then
      (if decline then { j with parked := none, failed := some (causeXlate, d) } else { j with parked := none })
    else j
  let s1 := (s.mapThreads thread).mapCores (fun c => if c.dev = p.dev then { c with jobs := c.jobs.map job } else c)
  let s2 := if decline then s1.mapLaunches (fun l => if s.dependsOn page l then l.finish 1 else l) else s1
  { s2 with part := { s2.part with faults := s2.part.faults.filter (fun f => !(f.posted && f.page = page && f.kind ≠ 8)) } }

/-- A reply to the checked-out partition: recorded while it is halted or swapped (R314). -/
def State.reply_ (page : Nat) (decline : Bool) (s : State) : State :=
  if s.part.pstat ≠ 0 then { s with part := { s.part with recorded := s.part.recorded ++ [.faultReply page decline] } }
  else s.faultReply page decline

/-! ## Stack growth (R138) -/

/-- Leaf entry of a stack page: valid, read and write, class 4, 64 KiB. -/
def stackLeaf (frame : Nat) : Nat := 1 + 2 + 4 + frame * 2 ^ 16 + 4 * 2 ^ 57

/-- Bytes of memory from `first` on made zero; no core keeps a line of them. -/
def State.zeroRange (first n : Nat) (s : State) : State :=
  let inside := fun (k : Nat) => decide (first ≤ k) && decide (k < first + n)
  State.mapCores (fun c => { c with lcache := c.lcache.filter (fun l => !(inside (128 * l.line))) })
    { s with mem := s.mem.filter (fun c => !(inside c.1)), attrs := s.attrs.filter (fun a => !(inside a.1)),
             poison := s.poison.filter (fun k => !(inside (64 * k))) }

/-- A page of memory made zero. -/
def State.zeroPage (first : Nat) (s : State) : State := s.zeroRange first (2 ^ 16)

/-- Entry that points to the table in 8 KiB frame `t` (R311). -/
def pointerEntry (t : Nat) : Nat := 1 + 2 ^ 8 + t * 2 ^ 13

/-- The place of the level 0 entry for `va`, from the table at `tbl` with `n` levels left: a table that is missing on the way is made, empty, in the
next frame of `tables`. -/
def buildTables (dev va : Nat) : Nat → Nat → List Nat → State → Option (Nat × State)
  | 0, _, _, _ => none
  | n + 1, tbl, tables, s =>
    let k := keyOf dev (tbl + 16 * levelIndex va n)
    let e := Mem.nat s.mem k 16
    if n = 0 then some (k, s)
    else if Pte.valid e then (if bit e 8 && !(Pte.badPointer e) then buildTables dev va n (field e 51 9 * 2 ^ 9) tables s else none)
    else match tables with
      | t :: ts => buildTables dev va n (t * 2 ^ 13) ts ((s.zeroRange (keyOf dev (t * 2 ^ 13)) (2 ^ 13)).perform k (toBytes 16 (pointerEntry t)))
      | [] => none

/-- Firmware maps a zero-filled page of frame `frame` under a fault in the checked-out thread's own reservation, and the access replays;
tables that are missing on the way are made in `tables` (R138; notes/assumptions/18.md). -/
def growStack (frame : Nat) (tables : List Nat) (s : State) : Option State :=
  match s.thr.status with
  | .parked page =>
    let va := page * 2 ^ 16
    let p := s.part
    match (if bit p.ptroot.toNat 0 then buildTables p.dev va 5 (field p.ptroot.toNat 51 12 * 2 ^ 12) tables s else none) with
    | none => none
    | some (k, s0) =>
      let s1 := (s0.zeroPage (keyOf p.dev (frame * 2 ^ 16))).perform k (toBytes 16 (stackLeaf frame))
      whenDue (s.ownStack va && s.thr.due.isNone && s.translate va = .miss && decide (frame < 2 ^ 36) && tables.all (fun t => decide (t < 2 ^ 39)))
        { s1 with thr := s1.thr.retry s1.dev.clk }
  | _ => none

/-! ## ATS and TLBINV (R310, R312, R318) -/

/-- An ATS translation of an I/O virtual page returns, or the page is refused. -/
def State.atsReturns (iova : Nat) (host : Option Nat) (s : State) : State :=
  let p := s.part
  match host with
  | some h => { s with part := { p with ats := Bits.insert iova h p.ats, atsRefused := p.atsRefused.filter (fun x => x ≠ iova) } }
  | none => { s with part := { p with ats := Bits.erase iova p.ats, atsRefused := iova :: p.atsRefused.filter (fun x => x ≠ iova) } }

/-- An invalidation completes once no access that used the old translation is still to perform (R312, R318); lines that cores buffered of it
for parked threads go, and are read afresh. -/
def atsInvalidates (iova : Nat) (s : State) : Option State :=
  let p := s.part
  let used := match lookup iova p.ats with
    | some h => s.usesKeys p.dev p.pid (keyOf hostDev (h * 2 ^ 16) / 2 ^ 16)
    | none => false
  let s1 := State.mapCores (fun c => if c.dev = p.dev then { c with faultBuf := [] } else c) s
  whenDue (!used) { s1 with part := { p with ats := Bits.erase iova p.ats, atsRefused := p.atsRefused.filter (fun x => x ≠ iova) } }

/-- A TLBINV write sets the register's bit; it reads 1 until no access that used an old translation is under way, and every core has
dropped what it held (R310, R317, R318). -/
def tlbinvStep (s : State) : Option State :=
  let p := s.part
  if !p.tlbinv then some { s with part := { p with tlbinv := true } }
  else
    let s1 := s.dropPages p.dev p.pid 0 (2 ^ 48)
    whenDue (!s.usesPages 0 p.dev p.pid 0 (2 ^ 48)) { s1 with part := { p with tlbinv := false } }

/-! ## Integrity tags (R337, R275) -/

/-- The second failure ends the checked-out node (code 0x11), posts kind 8 for the virtual page, and a bound step fails alone (R275). -/
def State.secondFailure (va : Nat) (s : State) : State :=
  let seq := s.grp.seq
  let lid := s.lau.lid
  let s1 := s.performGroup.abortNode.postFault va 8 0xFFFFFFFF
  if seq = 0xFFFFFFFF then s1 else s1.failStep seq lid

/-- Whether a thread is parked on a virtual page that its tables map to the page of key `page * 2^16`. -/
def State.parksOn (s : State) (page : Nat) (t : Thread) : Bool :=
  match t.status, s.group? t.key.gid, s.pidOf t.key.gid with
  | .parked va, some g, some pid =>
    (match translateBy s.mem (s.part? g.dev pid) (s.core? g.dev g.core).tlb (va * 2 ^ 16) with | .ok x => x.key / 2 ^ 16 = page | _ => false)
  | _, _, _ => false

/-- The threads and jobs that wait for a page's blocks go on: those whose own block is still to be checked wait again. -/
def State.wakePage (page : Nat) (s : State) : State :=
  (s.mapThreads (fun t => if t.due.isNone && s.parksOn page t then t.retry s.dev.clk else t)).mapCores (fun c =>
    { c with jobs := c.jobs.map (fun j => if j.parked = some (2 ^ 48 + page) then { j with parked := none } else j) })

/-- The check of a block that the checked-out thread, parked on virtual page `va`, reads first: it passes, and every thread parked on the page
goes on, or its node rolls back and the page is to be fetched again, or it fails a second time. -/
def checkBlock (page block : Nat) (s : State) : Option State :=
  match s.thr.status, s.promoted.find? (fun p => p.page = page) with
  | .parked va, some p =>
    let key := page * 2 ^ 16 + 4096 * block
    whenDue (s.running && s.parksOn page s.thr && decide (block < 16) && !(p.checked.contains block) && !p.refetch)
      (if s.tagOk p block then (s.checkedTag key true).wakePage page
       else if s.tagFailed key then (s.secondFailure va).coreChanged
       else ((s.checkedTag key false).consume 0x12).coreChanged)
  | _, _ => none

/-- PAGE_REFETCH: the whole page arrives from its source again; its blocks are still to be checked. -/
def refetchPage (page : Nat) (bytes : List (Nat × Byte)) (s : State) : Option State :=
  match s.promoted.find? (fun p => p.page = page) with
  | none => none
  | some p =>
    let s1 := s.zeroPage (page * 2 ^ 16)
    let cells := (bytes.filter (fun b => decide (b.1 < 2 ^ 16))).map (fun b => (page * 2 ^ 16 + b.1, b.2))
    let fresh := fun (q : Promoted) => if q.page = page then { q with refetch := false, checked := [] } else q
    whenDue p.refetch (State.wakePage page { s1 with mem := Mem.writeCells s1.mem cells, promoted := s1.promoted.map fresh })

/-- FAULT_SERVE -/
def execFaultServe (dev pid page : Nat) (s : State) : Outcome := s.onPart dev pid (fun s => some (s.reply_ page false))
/-- FAULT_DECLINE -/
def execFaultDecline (dev pid page : Nat) (s : State) : Outcome := s.onPart dev pid (fun s => some (s.reply_ page true))
/-- STACK_GROWTH -/
def execStackGrowth (t : ThreadKey) (frames : List Nat) (s : State) : Outcome :=
  match frames with
  | frame :: tables => s.onThread t (growStack frame tables)
  | [] => .next s
/-- ATS_TRANSLATION_COMPLETION -/
def execAtsTranslationCompletion (dev pid iova : Nat) (host : Option Nat) (s : State) : Outcome :=
  s.onPart dev pid (fun s => some (s.atsReturns iova host))
/-- ATS_INVALIDATION_REQUEST -/
def execAtsInvalidationRequest (dev pid iova : Nat) (s : State) : Outcome := s.onPart dev pid (atsInvalidates iova)
/-- TLBINV_REGISTER -/
def execTlbinvRegister (dev pid : Nat) (s : State) : Outcome := s.onPart dev pid tlbinvStep
/-- INTEGRITY_CHECK -/
def execIntegrityCheck (t : ThreadKey) (page block : Nat) (s : State) : Outcome := s.onThread t (checkBlock page block)
/-- PAGE_REFETCH -/
def execPageRefetch (page : Nat) (bytes : List (Nat × Byte)) (s : State) : Outcome := .next ((refetchPage page bytes s).getD s)

end Sys2Proof.Machine
end

