-- ==== Sys2Proof/Machine/EngineMove.lean ====
section
/-!
DEFINITION. What an engine job moves: its bytes read and placed, its checks (R192), tiles with their zero points and padding
(12 R176 to R180, R183, R184; 13 R196, R201, R203; 09 R131, R133).
-/
namespace Sys2Proof.Machine
open Sys2Proof Bits Encoding

/-! ## A job and what it belongs to -/

/-- The queued job of that number of the checked-out core. -/
def State.job? (s : State) (id : Nat) : Option Job := s.core.jobs.find? (fun j => j.id = id)

/-- Update a queued job of the checked-out core. -/
def State.updJob (id : Nat) (f : Job → Job) (s : State) : State :=
  { s with core := { s.core with jobs := s.core.jobs.map (fun j => if j.id = id then f j else j) } }

/-- Check a job's core, partition and launch out, with its group where it still lives. -/
def State.focusJob (dev core id : Nat) (s : State) : Option (Job × State) :=
  let s1 := (s.checkoutCore dev core).checkoutDev dev
  match s1.job? id with
  | none => none
  | some j =>
    let s2 := s1.checkoutPart dev j.pid
    let s3 := (s2.checkoutGroup j.gid).getD s2
    some (j, (s3.checkoutLaunch j.lid).getD s3)

/-- Bytes of the scratchpad of a job's group; of one that has ended, as the jobs that run out leave it (R206). -/
def State.jobScratch (s : State) (j : Job) (off n : Nat) : List Byte :=
  Mem.read (match s.group? j.gid with | some g => g.scratch | none => (lookup j.gid s.core.leftover).getD []) off n

/-- A job belongs to an auditor's re-run: what it would write to memory is captured for the signature and never written (R193). -/
def State.shadowJob (s : State) (j : Job) : Bool := (s.group? j.gid).any (fun g => g.shadow ≠ 0)

/-- Why a job's byte does not move. -/
inductive JobStop where
  /-- its page does not translate: the page, and the fault-queue kind -/
  | park (page kind : Nat)
  /-- the job fails: cause and detail (R192) -/
  | fail (cause : Nat) (detail : Word)
  /-- it meets an uncorrectable error (R185, R331) -/
  | poison
  /-- it reads the promoted block at a key, through a virtual address, and the block does not pass its check (R337) -/
  | tag (key va : Nat)
  /-- a sector is locked by a prepared region: it waits (R296) -/
  | hold
  deriving DecidableEq, Repr

/-- The checks of a global byte of a job (R192): translation, class, permission, integrity tag. -/
def State.jobMap (s : State) (va : Nat) (write : Bool) (classes : List Nat) : Except JobStop Xlat :=
  if va ≥ 2 ^ 56 then .error (.fail causeXlate (xlateDetail 2 va)) else
  match s.translate va with
  | .miss => .error (.park (va / 2 ^ 16) (missKind write))
  | .hostMiss => .error (.park (va / 2 ^ 16) 2)
  | .hostRefused => .error (.fail causeXlate (xlateDetail 3 va))
  | .malformed => .error (.fail causeXlate (xlateDetail 1 va))
  | .ok x =>
    if write && classes ≠ [2] && (x.cls = 1 || x.cls = 3) then .error (.fail causeProt (addrDetail 1 va))
    else if !(classes.contains x.cls) || (x.cls = 2 && s.refusedAt (devOf x.key) s.part.pid x.key) then .error (.fail causeRegion (addrDetail x.cls va))
    else if (write && !Pte.write x.entry) || (!write && !Pte.read x.entry) then .error (.fail causeProt (addrDetail 0 va))
    else if s.locked x.key then .error .hold
    else if s.untagged x && s.tagBad x.key then .error (.tag x.key va)
    else .ok x

/-- A byte that a job reads from global memory: engines never read a staged write (R149). -/
def State.jobRead (s : State) (va : Nat) (classes : List Nat) : Except JobStop Byte :=
  match s.jobMap va false classes with
  | .error st => .error st
  | .ok x => if s.poisoned x.key 1 then .error .poison else .ok (Mem.get s.mem x.key)

/-- Where a job's byte goes. -/
inductive Place where
  | mem (key : Nat) (va : Nat)
  | scratch (off : Nat)
  | tile (off : Nat)
  deriving DecidableEq, Repr

/-! ## Boxes (R133, R183) -/

/-- Bank permutation of a scratchpad offset (R133). -/
def swz (a m : Nat) : Nat := if m = 0 then a else a ^^^ (field a (m + 11) (m + 7) * 8)

/-- Address of a side's byte at an offset of the box. -/
def Side.at (d : Side) (o : Nat) : Nat := match d.space with | .scratch => swz (d.base + o) d.mode | _ => d.base + o

/-- Offset of byte number `i` of a box on a side. -/
def Side.off (d : Side) (e0 e1 e2 i : Nat) : Nat :=
  i % e0 + i / e0 % e1 * d.s0 + i / e0 / e1 % e2 * d.s1 + i / e0 / e1 / e2 * d.s2

/-- Classes that a copy accepts as its source: `mload` and `rowld` (`whole`) read 0, 1 and 3 (R196), `xcopy` reads 0 to 3 (R203). -/
def sourceClasses (whole : Bool) : List Nat := if whole then [0, 1, 3] else [0, 1, 2, 3]

/-- Byte number `i` of a box, read. -/
def State.boxRead (s : State) (j : Job) (src : Side) (whole : Bool) (e0 e1 e2 i : Nat) : Except JobStop Byte :=
  let a := src.at (src.off e0 e1 e2 i)
  match src.space with
  | .global => s.jobRead a (sourceClasses whole)
  | _ => .ok ((s.jobScratch j a 1).headD 0)

/-- Place of byte number `i` of a box. -/
def State.boxPlace (s : State) (dst : Side) (e0 e1 e2 i : Nat) : Except JobStop Place :=
  let a := dst.at (dst.off e0 e1 e2 i)
  match dst.space with
  | .global => match s.jobMap a true [0, 2] with | .error st => .error st | .ok x => .ok (.mem x.key a)
  | .scratch => .ok (.scratch a)
  | _ => .ok (.tile a)

/-- Bytes from number `i` on, `n` of them, each read and placed, up to the first that stops. -/
def collect (read : Nat → Except JobStop Byte) (place : Nat → Except JobStop Place) : Nat → Nat → List (Place × Byte) × Option JobStop
  | 0, _ => ([], none)
  | n + 1, i =>
    match read i, place i with
    | .error st, _ => ([], some st)
    | _, .error st => ([], some st)
    | .ok b, .ok p => let (l, st) := collect read place n (i + 1); ((p, b) :: l, st)

/-! ## Writing (R149, R193, R336) -/

/-- Cells of a list of moved bytes that lie in memory. -/
def memCells (l : List (Place × Byte)) : List (Nat × Byte) := l.filterMap (fun p => match p.1 with | .mem k _ => some (k, p.2) | _ => none)

/-- Whether a partial write among the cells meets a poisoned sector (R331). -/
def State.partialPoison (s : State) (cells : List (Nat × Byte)) : Bool :=
  s.poison.any (fun p => cells.any (fun c => c.1 / 64 = p) && !((List.range 64).all (fun i => (lookup (64 * p + i) cells).isSome)))

/-- The pages of addresses that a job has used: their translations are kept, with accessed and dirty bits (R127), and promoted blocks have passed
their check (R337). -/
def State.touchPages (write : Bool) (vas : List Nat) (s : State) : State :=
  ((vas.map (fun va => va / 4096)).dedup).foldl (fun s blk => match s.translate (blk * 4096) with
    | .ok x =>
      let s1 := s.touch (blk * 4096) write x
      if s.untagged x && !(s.tagBad x.key) then s1.checkedTag x.key true else s1
    | _ => s) s

/-- A job's bytes into its group's scratchpad, undo-logged (R119), and its global ones into the group's record for the audit, in place of what an
earlier run of the job put there (R336). -/
def Group.jobBytesIn (g : Group) (id : Nat) (l : List (Place × Byte)) (cells : List (Nat × Byte)) : Group :=
  let g1 := l.foldl (fun (g : Group) p => match p.1 with | .scratch o => g.sts o [p.2] | _ => g) g
  { g1 with jobBytes := g1.jobBytes.filter (fun b => b.1 ≠ id) ++ cells.map (fun c => (id, c.2)) }

/-- Write a job's bytes to memory and to its group's scratchpad: engine writes perform at their home; the scratchpad of a group that has ended
stays for its other jobs (R206). -/
def State.jobWrite (j : Job) (l : List (Place × Byte)) (s : State) : State :=
  let cells := memCells l
  let s0 := s.touchPages true (l.filterMap (fun p => match p.1 with | .mem _ va => some va | _ => none))
  let s1 := if s.shadowJob j then s else (s0.performCells cells).clearPoison cells
  match s.group? j.gid with
  | some _ => s1.updGroup j.gid (fun g => g.jobBytesIn j.id l cells)
  | none =>
    let put := fun (m : List (Nat × Byte)) (p : Place × Byte) => match p.1 with | .scratch o => Mem.write m o [p.2] | _ => m
    { s1 with core := { s1.core with leftover := Bits.insert j.gid (l.foldl put ((lookup j.gid s1.core.leftover).getD [])) s1.core.leftover } }

/-! ## Tiles (R176 to R178) -/

/-- Tile of the checked-out core by space. -/
def Core.tile (c : Core) (d : SideSpace) : Tile := match d with | .macro_ m => c.macros.getD m Tile.none | _ => c.rowbuf

/-- Put a tile. -/
def Core.setTile (c : Core) (d : SideSpace) (t : Tile) : Core :=
  match d with
  | .macro_ m => { c with macros := c.macros.set m t }
  | _ => { c with rowbuf := t }

/-- Units of a tile: columns of a macro, rows of the row buffer. -/
def unitCount (d : SideSpace) (fmt : Nat) : Nat := match d with | .macro_ _ => colCount fmt | _ => 32

/-- Elements of unit `n`, as numbers: sign-extended integers, or encodings. -/
def Tile.elements (t : Tile) (fmt n : Nat) : List Int :=
  let bs := Mem.read t.bytes (n * colBytes fmt) (colBytes fmt)
  match fmt with
  | 0 => bs.map (fun b => b.toInt)
  | 1 => bs.flatMap (fun b => [sint 4 b.toNat, sint 4 (b.toNat / 16)])
  | _ => (List.range 256).map (fun k => (natAt bs (2 * k) 2 : Int))

/-- Zero point of a unit. -/
def Tile.zp (t : Tile) (n : Nat) : Int := (lookup n t.zps).getD 0

/-- A padding byte of a zero point: both elements of an INT4 byte take it (R177). DESIGN CHOICE (notes/assumptions/37.md): a zero point outside
-8 to 7, which R42 uses as it stands, pads an INT4 tile with its low four bits. -/
def padByte (fmt : Nat) (zp : Int) : Byte :=
  match fmt with
  | 0 => BitVec.ofInt 8 zp
  | 1 => BitVec.ofNat 8 (wrapInt 4 zp * 17)
  | _ => 0

/-- A finite encoding as a multiple of the format's smallest subnormal number. -/
def floatUnits (f : FFmt) (v : Nat) : Option Int :=
  match f.decode v with
  | .fin neg m e => let n : Int := m * 2 ^ (e - (1 - (f.bias : Int) - f.fb)).toNat; some (if neg then -n else n)
  | .zero _ => some 0
  | _ => none

/-- The exact sum of a unit's elements (R178, R196). DESIGN CHOICE (notes/assumptions/37.md): a floating-point one is kept as a multiple of its
format's smallest subnormal number, and one with an infinity or a NaN not at all. -/
def Tile.unitSum (t : Tile) (fmt n : Nat) : Option Int :=
  let es := t.elements fmt n
  if fmt ≤ 1 then some (es.foldl (· + ·) 0)
  else (es.mapM (fun v => floatUnits (if fmt = 2 then fmtBf else fmtH) v.toNat)).map (fun vs => vs.foldl (· + ·) 0)

/-- The exact element sums of a tile (R178, R196). -/
def Tile.resum (t : Tile) (fmt units : Nat) : Tile :=
  { t with sums := (List.range units).filterMap (fun n => (t.unitSum fmt n).map (fun v => (n, v))) }

/-- Zero point of a unit whose first byte in the box is number `i`: a vector's byte, or bits 15:8 of the scale word of a formatted source
page, else 0 (R196). -/
def State.unitZp (s : State) (j : Job) (src : Side) (e0 e1 e2 fmt i n : Nat) (zpv : Option Nat) : Except JobStop Int :=
  if 2 ≤ fmt then .ok 0 else
  match zpv with
  | some o => .ok ((s.jobScratch j (o + n) 1).headD 0).toInt
  | none =>
    match src.space with
    | .global =>
      let va := src.at (src.off e0 e1 e2 i)
      match s.jobMap va false [0, 1, 2, 3] with
      | .error st => .error st
      | .ok x =>
        if Pte.fmt x.entry = 0 then .ok 0 else
        let k := scaleKey s.part.dev x.entry (elementIndex x.entry va 0)
        if s.poisoned k 4 then .error .poison else .ok (sint 8 (field (Mem.nat s.mem k 4) 15 8))
    | _ => .ok 0

/-- Zero points of the units that a box touches. -/
def State.boxZps (s : State) (j : Job) (src dst : Side) (e0 e1 e2 nb fmt : Nat) (zpv : Option Nat) : List Nat → Except JobStop (List (Nat × Int))
  | [] => .ok []
  | n :: ns =>
    match (List.range nb).find? (fun i => dst.at (dst.off e0 e1 e2 i) / colBytes fmt = n) with
    | none => State.boxZps s j src dst e0 e1 e2 nb fmt zpv ns
    | some i =>
      match s.unitZp j src e0 e1 e2 fmt i n zpv, State.boxZps s j src dst e0 e1 e2 nb fmt zpv ns with
      | .error st, _ => .error st
      | _, .error st => .error st
      | .ok z, .ok zs => .ok ((n, z) :: zs)

/-- Load a tile: padding first where the load asks for it or the format changes, then the bytes, zero points and sums; the tile is
claimed (R176, R196, R203). -/
def Tile.loaded (t : Tile) (d : SideSpace) (fmt gid : Nat) (whole : Bool) (zps : List (Nat × Int)) (bs : List (Nat × Byte)) : Tile :=
  let units := unitCount d fmt
  let fresh := whole || t.fmt ≠ some fmt
  let zp := fun n => (lookup n zps).getD (if fresh then 0 else t.zp n)
  let pad := if fresh then (List.range units).flatMap (fun n => (List.range (colBytes fmt)).map (fun k => (n * colBytes fmt + k, padByte fmt (zp n)))) else []
  let base := if fresh then [] else t.bytes
  let t1 := { t with fmt := some fmt, claim := gid, bytes := Mem.writeCells (Mem.writeCells base pad) bs,
                     zps := ((List.range units).map (fun n => (n, zp n))).filter (fun p => p.2 ≠ 0) }
  t1.resum fmt units

/-! ## Starting a job -/

/-- A job meets an uncorrectable error of condition `code`: it alone will run again (R185); a job of an auditor's re-run drops the sample (R336). -/
def State.jobError (j : Job) (code : Nat) (s : State) : State :=
  match s.focusGroup j.gid with
  | some s1 => if s1.grp.shadow ≠ 0 then s1.consumeError code ⟨0, s.core.num⟩ else s.report s.core.dev j.pid code ⟨0, s.core.num⟩ s1.lau.number
  | none => s.report s.core.dev j.pid code ⟨0, s.core.num⟩ (((s.launch? j.lid).map Launch.number).getD 0)

/-- A job meets a promoted block that does not pass its check: the job waits until the page has been fetched again; at the second failure its node
ends (R337). -/
def State.jobTag (j : Job) (key va : Nat) (s : State) : State :=
  let page := key / 2 ^ 16
  let s1 := s.updJob j.id (fun j => { j with parked := some (2 ^ 48 + page) })
  if s.promoted.any (fun p => p.page = page && p.refetch) then s1
  else if s.tagFailed key then
    (match s.focusGroup j.gid with
     | some s2 => (s2.secondFailure (va / 2 ^ 16)).coreChanged
     | none => (s.updJob j.id (fun j => { j with failed := some (causeXlate, xlateDetail 0 va) })).postFault (va / 2 ^ 16) 8 0xFFFFFFFF)
  else (s1.checkedTag key false).jobError j 0x12

/-- A job stops: it parks and its fault is posted once per page, or fails, or is rolled back and re-queued alone (R184, R185, R192). -/
def State.jobStop (j : Job) (st : JobStop) (s : State) : State :=
  match st with
  | .park page kind => (s.updJob j.id (fun j => { j with parked := some page })).postFault page kind 0xFFFFFFFF
  | .fail cause d => s.updJob j.id (fun j => { j with failed := some (cause, d) })
  | .poison => s.jobError j 0x10
  | .tag key va => s.jobTag j key va
  | .hold => s

/-- The bytes of a job have moved. -/
def State.jobMoved (j : Job) (s : State) : State := s.updJob j.id (fun j => { j with moved := true })

/-- Write what was collected: all of it, or, of a job that fails, what came before the failing byte. -/
def State.jobFinish (j : Job) (l : List (Place × Byte)) (st : Option JobStop) (s : State) : State :=
  if s.partialPoison (memCells l) && !s.shadowJob j then s.jobStop j .poison else
  match st with
  | none => (s.jobWrite j l).jobMoved j
  | some (.fail c d) => (s.jobWrite j l).jobStop j (.fail c d)
  | some st => s.jobStop j st

/-- Number of a tile: macros 0 to 7, the row buffer 8. -/
def SideSpace.tileNo (d : SideSpace) : Nat := match d with | .macro_ m => m | _ => 8

/-- A load of a job lands in a tile (R176, R185): claimed by the job's group, on the core where the group is, or in what is saved with it; of a group
that has ended the tile stays unclaimed. Where another group has since claimed the tile nothing lands. -/
def State.landTile (j : Job) (d : SideSpace) (load : Tile → Tile) (s : State) : State :=
  let n := d.tileNo
  let free := fun (t : Tile) => t.claim = 0 || t.claim = j.gid
  match s.group? j.gid with
  | none => if free (s.core.tile d) then { s with core := s.core.setTile d { load (s.core.tile d) with claim := 0, undo := none } } else s
  | some g =>
    if g.placed then
      s.updCore g.dev g.core (fun c => if free (c.tile d) then c.setTile d { load ((c.tile d).save j.gid) with claim := j.gid } else c)
    else
      let t := (lookup n g.savedTiles).getD { s.core.tile d with claim := 0, undo := none }
      s.updGroup j.gid (fun g => { g with savedTiles := Bits.insert n { load (t.save j.gid) with claim := j.gid } g.savedTiles })

/-- Run a copy (R183, R196, R203). -/
def State.runCopy (j : Job) (src dst : Side) (e0 e1 e2 e3 fmt : Nat) (zpv : Option Nat) (whole : Bool) (s0 : State) : State :=
  let nb := e0 * e1 * e2 * e3
  let (l, st) := collect (s0.boxRead j src whole e0 e1 e2) (s0.boxPlace dst e0 e1 e2) nb 0
  let s := if src.space = .global && st.isNone then s0.touchPages false ((List.range nb).map (fun i => src.at (src.off e0 e1 e2 i))) else s0
  match dst.space with
  | .global => s.jobFinish j l st
  | .scratch => s.jobFinish j l st
  | d =>
    match st, s0.boxZps j src dst e0 e1 e2 nb fmt zpv (List.range (unitCount d fmt)) with
    | some st, _ => s.jobStop j st
    | none, .error st => s.jobStop j st
    | none, .ok zps =>
      let bs := l.filterMap (fun p => match p.1 with | .tile o => some (o, p.2) | _ => none)
      (s.landTile j d (fun t => t.loaded d fmt j.gid whole zps bs)).jobMoved j

/-- Rows of a gather in turn: each lands where it can, and the last stop is kept (R184). -/
def gatherRows (s : State) (j : Job) (table stride rb dst : Nat) : List (Nat × Nat) → List (Place × Byte) × Option JobStop
  | [] => ([], none)
  | (k, v) :: rows =>
    let (l, st) := gatherRows s j table stride rb dst rows
    let place := fun i => Except.ok (Place.scratch (dst + k * rb + i))
    let (m, sm) := if v = 0xFFFFFFFF then collect (fun _ => .ok 0) place rb 0
                   else collect (fun i => s.jobRead (table + v * stride + i) [0, 1, 3]) place rb 0
    (m ++ l, match sm with | some x => some x | none => st)

/-- Run a gather (R184, R204). -/
def State.runGather (j : Job) (table stride rb n list dst : Nat) (s : State) : State :=
  let rows := (List.range n).map (fun k => (k, ofBytes (s.jobScratch j (list + 4 * k) 4)))
  let (l, st) := gatherRows s j table stride rb dst rows
  let read := (rows.filter (fun r => r.2 ≠ 0xFFFFFFFF)).flatMap (fun r => (List.range rb).map (fun i => table + r.2 * stride + i))
  let s1 := s.touchPages false (read.filter (fun va => match s.jobRead va [0, 1, 3] with | .ok _ => true | .error _ => false))
  match st with
  | none => (s1.jobWrite j l).jobMoved j
  | some st => (s1.jobWrite j l).jobStop j st

/-- Run a `ccopy` (R249). -/
def State.runCcopy (j : Job) (root : DWord) (limit dst : Nat) (s : State) : State :=
  let bs := (s.part.treeBytes 9 root).take limit
  let place := fun i => match s.jobMap (dst + i) true [0, 2] with | .error st => Except.error st | .ok x => .ok (Place.mem x.key (dst + i))
  let (l, st) := collect (fun i => .ok (bs.getD i 0)) place bs.length 0
  (s.updJob j.id (fun j => { j with bytes := bs.length })).jobFinish j l st

/-- Bytes of an epilogue store (R201), each with its place. -/
def State.storeCells (s : State) (j : Job) (t base : Nat) (sp : Bool) (stride rows cols : Nat) (scale : Option Nat) (bank : Bank) :
    List (Place × Byte) × Option JobStop :=
  let sz := accstSize t
  let elem := fun i =>
    let r := i / cols
    let c := i % cols
    let w := scale.map (fun o => ofBytes (s.jobScratch j (o + 4 * c) 4))
    toBytes sz (accStore j.nbv t bank.form (bank.get (128 * r + c)) w)
  let addr := fun i => base + i / sz / cols * stride + i / sz % cols * sz + i % sz
  collect (fun i => .ok ((elem (i / sz)).getD (i % sz) 0))
    (fun i => if sp then .ok (.scratch (addr i)) else match s.jobMap (addr i) true [0, 2] with | .error st => .error st | .ok x => .ok (.mem x.key (addr i)))
    (rows * cols * sz) 0

/-- Update a pair for a job's group where the group still holds it, its undo copy first (R119): on the core, or saved with the group; `working` and
`visible` say which banks are written. -/
def State.jobPair (j : Job) (p : Nat) (working visible : Bool) (f : AccPair → AccPair) (s : State) : State :=
  let s1 := if (s.core.pair p).owner = j.gid then s.writePair j.gid p working visible f else s
  s1.updGroup j.gid (fun g => match lookup p g.savedPairs with
    | none => g
    | some q => { g.saveBank p q working visible with savedPairs := Bits.insert p (f q) g.savedPairs })

/-- A store no longer holds its pair's visible bank (R182). -/
def State.dropHold (j : Job) (p : Nat) (s : State) : State :=
  { s with core := s.core.updPair p (fun q => { q with holds := q.holds.filter (fun h => h ≠ j.id) }) }

/-! ## Array commands (R178 to R180, R198, R199) -/

/-- Half slices of an `mmac`, in order: macro, first column in the macro, output pair, first column of the pair (R179). -/
def halves (fmt acc : Nat) (ms : List Nat) : List (Nat × Nat × Nat × Nat) :=
  let hs := ms.flatMap (fun m => (List.range (halfSlices fmt)).map (fun k => (m, 64 * k)))
  hs.zipIdx.map (fun h => (h.1.1, h.1.2, acc + h.2 / 2, 64 * (h.2 % 2)))

/-- Add the products of 64 columns of one macro into a working bank (R198). -/
def addHalf (nbv fmt : Nat) (a b : Tile) (afmt col0 out0 rows : Nat) (p : AccPair) : AccPair :=
  let step := fun (p : AccPair) (i : Nat) =>
    let m := i / 64
    let n := col0 + i % 64
    let idx := 128 * m + out0 + i % 64
    let x := a.elements afmt m
    let y := b.elements fmt n
    let (v, sat) := if fmt ≤ 1 then accIntDot nbv (p.working.get idx) (a.zp m) (b.zp n) x y
      else accFloat nbv (if fmt = 2 then fmtOf 9 else fmtOf 6) (p.working.get idx) (x.map Int.toNat) (y.map Int.toNat)
    { p with working := { p.working with cells := if v = 0 then Bits.erase idx p.working.cells else Bits.insert idx v p.working.cells },
             sat := p.sat || sat }
  let q := (List.range (64 * rows)).foldl step p
  { q with working := { q.working with form := formOfFmt fmt } }

/-- A row of the row buffer as an `mmac` broadcasts it: format, zero point and bytes (R179, R187). -/
def Tile.castRow (t : Tile) (m : Nat) : Nat × Int × List Byte :=
  let fmt := t.fmt.getD 0
  (fmt, t.zp m, Mem.read t.bytes (m * rowBytes fmt) (rowBytes fmt))

/-- The rows that an `mmac` has broadcast, as a tile. -/
def castTile (rows : List (Nat × Int × List Byte)) : Tile :=
  { Tile.none with fmt := (rows.head?).map Prod.fst, bytes := rows.zipIdx.foldl (fun m r => Mem.write m (r.2 * rowBytes r.1.1) r.1.2.2) [],
                   zps := (rows.zipIdx.map (fun r => (r.2, r.1.2.1))).filter (fun z => z.2 ≠ 0) }

/-- An `mmac` drains (R179, R198): a zeroing one clears its working banks first. -/
def State.drain (j : Job) (acc mask rows : Nat) (zero : Bool) (s : State) : State :=
  let ms := maskList mask
  let fmt := (s.core.proj.bfmt mask).getD 0
  let a := castTile j.cast
  let pm := s.pairNo j.gid
  let outs := s.core.proj.outPairs pm acc mask
  let s1 := if zero then outs.foldl (fun s p => s.jobPair j p true false (fun q => q.clear false)) s else s
  (halves fmt acc ms).foldl (fun s h =>
    s.jobPair j (pm h.2.2.1) true false
      (addHalf j.nbv fmt a (s.core.macros.getD h.1 Tile.none) (a.fmt.getD fmt) h.2.1 h.2.2.2 rows)) s1

/-- `hada` runs: rows 0 to `rows` - 1 are transformed in place, and the row sums are those of the new elements (R180, R197). -/
def State.runHada (j : Job) (n rows : Nat) (s : State) : State :=
  let t := s.core.rowbuf.save j.gid
  let fmt := t.fmt.getD 2
  let f := if fmt = 2 then fmtOf 9 else fmtOf 6
  let row := fun (bs : List (Nat × Byte)) m =>
    Mem.write bs (512 * m) ((hadaRow f n ((t.elements fmt m).map Int.toNat)).flatMap (fun v => toBytes 2 v))
  { s with core := { s.core with rowbuf := Tile.resum { t with bytes := (List.range rows).foldl row t.bytes } fmt 32 } }

end Sys2Proof.Machine
end

