-- ==== Sys2Proof/Machine/EvEngine.lean ====
section
/-!
DEFINITION. Events of the matrix array, the engines and the sequencers (12 R179 to R189; 13 R192 to R206; 20 R293).
-/
namespace Sys2Proof.Machine
open Sys2Proof Bits Encoding

/-- An event on a queued job of a core. -/
def State.onJob (dev core id : Nat) (f : Job → State → Option State) (s : State) : Outcome :=
  .next ((match s.focusJob dev core id with | none => none | some (j, s1) => f j s1).getD s)

/-- A job leaves the queue, and what waits for the core's resources is tried again; with its last job the scratchpad of a group that has ended
goes. -/
def State.removeJob (id : Nat) (s : State) : State :=
  let left := s.core.jobs.filter (fun j => j.id ≠ id)
  let kept := s.core.leftover.filter (fun p => left.any (fun j => j.gid = p.1))
  ({ s with core := { s.core with jobs := left, leftover := kept } } : State).coreChanged

/-- A rolled-back group whose stores no longer hold a pair is Queued (R182, R125). -/
def State.requeueFreed (j : Job) (s : State) : State :=
  if s.grp.gid = j.gid ∧ s.grp.phase = .rollingBack then s.requeue.coreChanged else s

/-! ## Start (R183, R184, R187, R196, R249) -/

/-- ENGINE_JOB_START: a job whose edges have cleared runs. An array command that moves no bytes is over at once; an epilogue store that
cannot be translated parks or fails here; `xfer` goes packet by packet; an `mmac` broadcasts its next row (R187). -/
def startJob (j : Job) (s : State) : Option State :=
  let run := match j.kind with
    | .copy src dst e0 e1 e2 e3 fmt zpv whole => some (s.runCopy j src dst e0 e1 e2 e3 fmt zpv whole)
    | .gather table stride rb n list dst => some (s.runGather j table stride rb n list dst)
    | .ccopy root limit dst => some (s.runCcopy j root limit dst)
    | .accz p both => some ((s.jobPair j p true both (fun q => q.clear both)).removeJob j.id)
    | .mmac _ _ rows _ =>
      if j.cast.length < rows then some (s.updJob j.id (fun j => { j with cast := j.cast ++ [s.core.rowbuf.castRow j.cast.length] })) else none
    | .hada n rows => some ((s.runHada j n rows).removeJob j.id)
    | .accst _ t base sp stride rows cols scale bank =>
      match s.storeCells j t base sp stride rows cols scale bank with
      | (l, some (.fail c d)) => some ((s.jobWrite j l).jobStop j (.fail c d))
      | (_, some st) => some (s.jobStop j st)
      | _ => none
    | _ => none
  match run with
  | some t => whenDue (s.mayRun j && !j.moved) t
  | none => none

/-! ## The array (R179, R186) -/

/-- ARRAY_DRAIN: with every row broadcast, the results of an `mmac` are added into the working banks. -/
def drainJob (j : Job) (s : State) : Option State :=
  match j.kind with
  | .mmac acc mask rows zero => whenDue (s.mayRun j && j.cast.length = rows) ((s.drain j acc mask rows zero).removeJob j.id)
  | _ => none

/-- FOLLOW_ON_ISSUE: once the last byte has landed, the follow-on takes its place in the array's order, under the NBV of its `xcopy`. -/
def issueFollowOn (j : Job) (s : State) : Option State :=
  match j.fo with
  | none => none
  | some l =>
    let f : Job := { j with id := j.id + 1, kind := .mmac (litAcc l) (litMask l) (litRows l) (litZero l),
                            reads := ⟨2, 0, litRows l⟩ :: (maskList (litMask l)).map (fun m => ⟨3, m, 1⟩), writes := [], guard := none, freed := true,
                            moved := false, foDone := true, fo := none, count := none, bytes := 0, parked := none, packets := [], cast := [], failed := none }
    let jobs := s.core.jobs.flatMap (fun i => if i.id = j.id then [{ i with foDone := true }, f] else [i])
    whenDue (j.moved && !j.foDone) { s with core := { s.core with jobs := jobs } }

/-! ## Completion and failure (R185, R192) -/

/-- The transfers of a re-run phase's own `xfer`: the run before sent it, its packets still go, and the re-run counts once they are over (R293). -/
def State.twins (s : State) (j : Job) : List Job :=
  (s.allCores.flatMap Core.jobs).filter (fun i => i.gid = j.gid && i.kind = j.kind && i.id ≠ j.id)

/-- Whether a job is a re-run's `xfer`, which sends nothing of its own. -/
def Job.resent (j : Job) : Bool := match j.kind with | .xfer _ _ _ _ _ => j.moved && j.packets.isEmpty | _ => false

/-- ENGINE_JOB_COMPLETE: its bytes are acknowledged, and it adds them once to its sync word; `ccopy` drops its reference. A re-run's `xfer` counts
once its guard is true and the first run's packets are over (R293). -/
def completeJob (j : Job) (s : State) : Option State :=
  let s1 := match j.count, s.group? j.gid with
    | some off, some g =>
      let s0 := if g.phases = j.phase then s else s.updGroup j.gid (fun g => { g with foreignBytes := g.foreignBytes ++ [(off, j.bytes)] })
      s0.syncApply (.scratch j.gid off) j.bytes false j.lid
    | _, _ => s
  let s2 := match j.kind with | .ccopy root _ _ => { s1 with part := s1.part.decr root } | _ => s1
  let waits := j.resent && (!j.freed || (s.twins j).any (fun i => decide (i.id < j.id)))
  whenDue (j.moved && j.foDone && j.failed.isNone && !waits) (s2.removeJob j.id)

/-- The thread that takes a failed job's trap: the issuing one, else the lowest live one of its group (R192). -/
def State.jobVictim (s : State) (j : Job) : Option Thread :=
  let live := s.liveThreads j.gid
  match live.find? (fun t => t.key.tid = j.tid) with
  | some t => some t
  | none => live.head?

/-- A sequencer's job has failed: cause and detail go to its descriptor, and the sequencer stops, with code 0xFF too where it had reached its list's
end; the first code stays (R206). -/
def State.stopSeqr (j : Job) (sq idx cause : Nat) (d : Word) (s : State) : State :=
  let q := s.core.seqrs.getD sq Sequencer.free
  let status := BitVec.ofNat 32 (idx * 2 ^ 16 + 0xFF)
  let stop := fun (q : Sequencer) => if q.stopped && q.status.toNat % 2 ^ 8 ≠ 0 then q else { q with stopped := true, status := status }
  let s1 := s.updGroup j.gid (fun g =>
    let list := if q.gid = j.gid then q.list else ((lookup sq g.savedSeqrs).map Sequencer.list).getD q.list
    let g1 := g.sts (list + 128 * idx + 64) (toBytes 4 cause ++ toBytes 4 d.toNat)
    { g1 with savedSeqrs := g1.savedSeqrs.map (fun p => if p.1 = sq then (p.1, stop p.2) else p) })
  if q.gid = j.gid then { s1 with core := { s1.core with seqrs := s1.core.seqrs.modify sq stop } } else s1

/-- The launch of a node that ends with no live thread completes with status 2 (R192, R235). -/
def State.failLaunch (j : Job) (s : State) : State :=
  let l := (s.launch? j.lid).getD Launch.none
  let mark := fun (l : Launch) => { l with failed := true, state := if l.state = .dispatching ∨ l.state = .running then .aborting else l.state }
  (s.updLaunch j.lid mark).report (l.logDev s.core.dev) j.pid 0x11 ⟨0, s.core.num⟩ l.number

/-- ENGINE_JOB_FAIL: it adds no bytes and its follow-on is discarded; its trap goes to a thread of the group, or the node ends. An
epilogue store follows R182 instead. -/
def failJob (j : Job) (s : State) : Option State :=
  match j.failed with
  | none => none
  | some (cause, d) =>
    let s0 := match j.kind with | .ccopy root _ _ => { s with part := s.part.decr root } | _ => s
    let s1 := s0.removeJob j.id
    let later := (s.twins j).find? (fun i => i.resent && i.failed.isNone && decide (j.id < i.id))
    match j.kind, j.seqr with
    | .accst _ _ _ _ _ _ _ _ _, _ => none
    | .xfer _ _ _ _ _, _ =>
      (match later, s.jobVictim j with
       | some i, _ => some (s1.mapCores (fun c => { c with jobs := c.jobs.map (fun k => if k.id = i.id then { k with failed := some (cause, d) } else k) }))
       | none, some t => whenDue t.jobTrap.isNone (s1.updThread t.key (fun t => { t with jobTrap := some (cause, d) }))
       | none, none => some (if s1.grp.gid = j.gid then s1.abortNode else s1.failLaunch j))
    | _, some (sq, idx) => some ((s1.stopSeqr j sq idx cause d).retryRdv)
    | _, none =>
      match s.jobVictim j with
      | some t => whenDue t.jobTrap.isNone (s1.updThread t.key (fun t => { t with jobTrap := some (cause, d) }))
      | none => some (if s1.grp.gid = j.gid then s1.abortNode else s1.failLaunch j)

/-! ## Epilogue stores (R182) -/

/-- EPILOGUE_STORE_TRANSLATED: every byte has passed translation; they are written and the hold ends. -/
def storeTranslated (j : Job) (s : State) : Option State :=
  match j.kind with
  | .accst p t base sp stride rows cols scale bank =>
    match s.storeCells j t base sp stride rows cols scale bank with
    | (l, none) => whenDue (s.mayRun j && !j.moved) (if s.partialPoison (memCells l) && !s.shadowJob j then s.jobStop j .poison
                                                      else ((((s.jobWrite j l).jobMoved j).dropHold j p).requeueFreed j).coreChanged)
    | _ => none
  | _ => none

/-- EPILOGUE_STORE_FAULT: nothing more is written, its sync word receives no bytes, and its pair becomes Faulted, unless the phase that issued it
has been rolled back since. -/
def storeFaults (j : Job) (s : State) : Option State :=
  match j.kind, j.failed with
  | .accst p _ _ _ _ _ _ _ _, some f =>
    let back := (s.group? j.gid).any (fun g => g.phase = .rollingBack)
    let put := fun (q : AccPair) => if q.owner = j.gid && !back then { q with fault := some f } else q
    let s1 := { s with core := s.core.updPair p put }
    let s2 := s1.updGroup j.gid (fun g => { g with savedPairs := g.savedPairs.map (fun q => if q.1 = p then (q.1, put q.2) else q) })
    some (((s2.dropHold j p).removeJob j.id).requeueFreed j)
  | _, _ => none

/-! ## Sequencers (R189, R205) -/

/-- Stop a sequencer with a status. -/
def State.seqrStop (sq : Nat) (code : Nat) (s : State) : State :=
  let f := fun (q : Sequencer) => { q with stopped := true, status := BitVec.ofNat 32 (q.idx * 2 ^ 16 + code) }
  { s with core := { s.core with seqrs := s.core.seqrs.modify sq f } }.retryRdv

/-- Move to the next descriptor. -/
def State.seqrNext (sq : Nat) (s : State) : State :=
  { s with core := { s.core with seqrs := s.core.seqrs.modify sq (fun (q : Sequencer) => { q with idx := q.idx + 1 }) } }

/-- Every store and atomic of a thread is acknowledged (R142). -/
def State.stored (s : State) (k : ThreadKey) : Bool := s.inflight.all (fun a => a.t ≠ k) && s.allThreads.all (fun t => t.key ≠ k || t.unacked.isEmpty)

/-- Issue a sequencer's command as its group's, or stop the sequencer with the lowest refusal code. Each command is a release of the thread that
forked: its earlier stores are acknowledged first (R149). -/
def State.seqrIssue (sq : Nat) (codes : List Nat) (j : Job) (s : State) : Option State :=
  let q := s.core.seqrs.getD sq Sequencer.free
  match lowest codes with
  | some c => some (s.seqrStop sq c)
  | none => whenDue (!s.core.full && s.stored ⟨q.gid, q.tid⟩) ((s.enqueue { j with tid := q.tid, seqr := some (sq, q.idx) }).seqrNext sq)

/-- SEQUENCER_DESCRIPTOR_ISSUE (Table 13.7): a reserved kind or a field that is not zero, of M too (Table 13.6), is refused; its code is open
(notes/assumptions/5.md). -/
def issueDescriptor (sq : Nat) (s : State) : Option State :=
  let q := s.core.seqrs.getD sq Sequencer.free
  match (if q.gid = 0 ∨ q.stopped = true then none else s.focusGroup q.gid) with
  | none => none
  | some s1 =>
    let off := q.list + 128 * q.idx
    let d := Mem.read s1.grp.scratch off 128
    let kind := natAt d 0 1
    let ws := (List.range 10).map (fun i => wordAt d (24 + 4 * i))
    let m := natAt d 1 1
    let zero := fun a b => (d.drop a).take (b - a) |>.all (fun x => x = 0)
    let dst := field m 1 0
    let badM := (decide (dst < 2) && field m 7 6 ≠ 0) || (dst ≠ 2 && field m 5 3 ≠ 0)
    let open_ := let (c, s2) := s1.free 8; s2.seqrStop sq c.toNat
    if !s1.running then none
    else if s1.outside off 128 then some (s1.seqrStop sq 6)
    else if natAt d 2 2 ≠ 0 || !(zero 72 128) || 4 < kind || (kind = 0 && !(zero 24 64)) || ((kind = 1 || kind = 2) && badM) then some open_
    else match kind with
      | 0 => some (s1.seqrStop sq 0)
      | 1 => let (codes, j) := s1.planCopy m (natAt d 8 8) (natAt d 16 8) ws none; s1.seqrIssue sq codes j
      | 2 => let (codes, j) := s1.planCopy m (natAt d 8 8) (natAt d 16 8) ws (some (wordAt d 4)); s1.seqrIssue sq codes j
      | 3 =>
        if !(zero 40 64) then some open_
        else let (codes, j) := s1.planGather (natAt d 8 8) (field (natAt d 16 8) 19 0) (ws.take 4); s1.seqrIssue sq codes j
      | _ =>
        let w := natAt d 24 4
        if !(zero 32 64) then some open_
        else if s1.badWord w then some (s1.seqrStop sq 6)
        else whenDue (passed (BitVec.ofNat 32 (s1.syncWord (.scratch q.gid w)).gen) (wordAt d 28)) (s1.seqrNext sq)

/-! ## Grants (R123, R193, R194, R205) -/

/-- ACCA_GRANT: the first waiting `acca` receives the lowest run of free pairs. -/
def grantAcca (s : State) : Option State :=
  match s.core.accaQ with
  | [] => none
  | k :: rest =>
    match s.focus k with
    | none => some { s with core := { s.core with accaQ := rest } }
    | some s1 =>
      match s1.thr.status with
      | .waiting (.acca n dst) =>
        match s1.accaRun n with
        | none => none
        | some (v, p) =>
          match ({ s1 with core := { s1.core with accaQ := rest } } : State).ticketRoom with
          | .error st => whenDue s1.running (s1.stop s1.thr.instr st)
          | .ok s2 =>
            let s3 := s2.grantPairs v p n
            whenDue s1.running { s3 with thr := (s3.thr.putDst dst [BitVec.ofNat 32 v]).wake s3.dev.clk }
      | _ => some { s with core := { s.core with accaQ := rest } }

/-- SEQUENCER_GRANT: the first waiting `fork` receives a free sequencer. -/
def grantSeqr (s : State) : Option State :=
  match s.core.forkQ with
  | [] => none
  | k :: rest =>
    match s.focus k with
    | none => some { s with core := { s.core with forkQ := rest } }
    | some s1 =>
      match s1.thr.status, s1.core.freeSeqr with
      | .waiting (.fork list dst), some sq =>
        let s2 := ({ s1 with core := { s1.core with forkQ := rest } } : State).startSeqr sq list
        whenDue s1.running { s2 with thr := (s2.thr.putDst dst [BitVec.ofNat 32 sq]).wake s2.dev.clk }
      | .waiting (.fork _ _), none => none
      | _, _ => some { s with core := { s.core with forkQ := rest } }

/-- JOB_QUEUE_SPACE: a thread that waits at issue tries again once the core's queue has space. -/
def queueSpace (s : State) : Option State :=
  whenDue (s.thr.status = .waiting .engine && s.thr.due.isNone && !s.core.full) { s with thr := s.thr.retry s.dev.clk }

/-! ## Bulk transfer (R293) -/

/-- First byte and length of each packet of a transfer: up to 192 bytes, none crossing a 64 KiB destination page. -/
def packetsOf (dst : Nat) : Nat → Nat → Nat → List (Nat × Nat)
  | 0, _, _ => []
  | n + 1, o, length =>
    if length ≤ o then [] else
    let size := min 192 (min (length - o) (2 ^ 16 - (dst + o) % 2 ^ 16))
    (o, size) :: packetsOf dst n (o + size) length

/-- XFER_PACKET_ARRIVAL: a packet writes its bytes at the destination and counts them into the arrival word; after the last one the
transfer is over. A destination that is not class 2 or lies on several devices, or an arrival word elsewhere, fails the job with REGION; a page that
does not translate parks it. A packet goes where the destination answers and a route leads (R288, R334). -/
def packetArrives (packet : Nat) (j : Job) (s : State) : Option State :=
  match j.kind with
  | .xfer sp src dst length arrival =>
    let ps := packetsOf dst length 0 length
    match ps[packet]? with
    | none => none
    | some (o, size) =>
      let read := fun i => if sp then Except.ok ((s.jobScratch j (src + o + i) 1).headD 0) else s.jobRead (src + o + i) [0, 1, 3]
      let due := s.mayRun j && !j.moved && !(j.packets.contains packet)
      match s.jobMap dst true [2] with
      | .error st => whenDue due (s.jobStop j st)
      | .ok x0 =>
        let home := devOf x0.key
        let place := fun i => match s.jobMap (dst + o + i) true [2] with
          | .error st => Except.error st
          | .ok x => if devOf x.key = home then .ok (Place.mem x.key (dst + o + i)) else .error (.fail causeRegion (addrDetail 2 (dst + o + i)))
        let word : Except JobStop (Option Nat) := if arrival = 0 then .ok none else
          match s.jobMap arrival true [2] with
          | .error st => .error st
          | .ok x => if devOf x.key = home then .ok (some x.key) else .error (.fail causeRegion (addrDetail 2 arrival))
        let reached := (s.dev? home).answers && (home = s.core.dev || (s.dev.forward home 0).isSome)
        match collect read place size 0, word with
        | (_, some st), _ => whenDue due (s.jobStop j st)
        | (_, none), .error st => whenDue due (s.jobStop j st)
        | (l, none), .ok w =>
          let s0 := if sp then s else s.touchPages false ((List.range size).map (fun i => src + o + i))
          let s1 := s0.jobWrite j l
          let s2 := match w with | some k => if s.shadowJob j then s1 else s1.syncApply (.mem k) size false j.lid | none => s1
          let all := (List.range ps.length).all (fun i => i = packet || j.packets.contains i)
          whenDue (due && reached)
            (if s.partialPoison (memCells l) && !s.shadowJob j then s.jobStop j .poison
             else s2.updJob j.id (fun j => { j with packets := packet :: j.packets, moved := all }))
  | _ => none

/-- ENGINE_JOB_START -/
def execEngineJobStart (dev core job : Nat) (s : State) : Outcome := s.onJob dev core job startJob
/-- ENGINE_JOB_COMPLETE -/
def execEngineJobComplete (dev core job : Nat) (s : State) : Outcome := s.onJob dev core job completeJob
/-- ENGINE_JOB_FAIL -/
def execEngineJobFail (dev core job : Nat) (s : State) : Outcome := s.onJob dev core job failJob
/-- FOLLOW_ON_ISSUE -/
def execFollowOnIssue (dev core job : Nat) (s : State) : Outcome := s.onJob dev core job issueFollowOn
/-- ARRAY_DRAIN -/
def execArrayDrain (dev core job : Nat) (s : State) : Outcome := s.onJob dev core job drainJob
/-- EPILOGUE_STORE_TRANSLATED -/
def execEpilogueStoreTranslated (dev core job : Nat) (s : State) : Outcome := s.onJob dev core job storeTranslated
/-- EPILOGUE_STORE_FAULT -/
def execEpilogueStoreFault (dev core job : Nat) (s : State) : Outcome := s.onJob dev core job storeFaults
/-- SEQUENCER_DESCRIPTOR_ISSUE -/
def execSequencerDescriptorIssue (dev core sq : Nat) (s : State) : Outcome := s.onCore dev core (issueDescriptor sq)
/-- ACCA_GRANT -/
def execAccaGrant (dev core : Nat) (s : State) : Outcome := s.onCore dev core grantAcca
/-- SEQUENCER_GRANT -/
def execSequencerGrant (dev core : Nat) (s : State) : Outcome := s.onCore dev core grantSeqr
/-- JOB_QUEUE_SPACE -/
def execJobQueueSpace (t : ThreadKey) (s : State) : Outcome := s.onThread t queueSpace
/-- XFER_PACKET_ARRIVAL -/
def execXferPacketArrival (dev core job packet : Nat) (s : State) : Outcome := s.onJob dev core job (packetArrives packet)

end Sys2Proof.Machine
end

