-- ==== Sys2Proof/Machine/EvFabric.lean ====
section
/-!
DEFINITION. Events of the fabric: atomics and remote accesses performing, flush markers, remote regions, reductions, censuses,
launch tags and route tables (09 R136; 10 R147, R150; 20 R287, R288, R291 to R306).
-/
namespace Sys2Proof.Machine
open Sys2Proof Bits Encoding

/-! ## Atomics and remote accesses (R136, R291, R292) -/

/-- The checked-out group's node consumes an error met away from it, once it can be rolled back (R331). -/
def consumeRemote (code : Nat) (s : State) : Option State := whenDue s.grp.live (s.consume code).coreChanged

/-- An access of the checked-out thread is refused at its home: its trap falls due at the access, and nothing of it has performed (R147, R248,
R291). -/
def State.refuseAccess (a : Access) (cause : Nat) (d : Word) (s : State) : State :=
  let t := { s.thr with pend := s.thr.pend.filter (fun p => p.serial ≠ a.serial), unacked := s.thr.unacked.filter (fun u => u.serial ≠ a.serial),
                        due := some (cause, d) }
  { s with inflight := s.inflight.filter (fun b => b.serial ≠ a.serial), thr := t.retryInterlock s.dev.clk,
           grp := { s.grp with log := s.grp.log.filter (fun e => e.serial ≠ a.serial) } }

/-- What follows when an access of the checked-out thread has reached its home: an error is consumed with condition `code`, a refusal raises its
trap, and waiting instructions are tried again (R136, R291, R331). -/
def State.performed (a : Access) (code : Nat) (s : State) : Option State :=
  match s.performAccess a with
  | (s1, .error) => consumeRemote code s1
  | (_, .refused cause d) => some (s.refuseAccess a cause d)
  | (s1, .done) => some (if a.kind.isAtomic && !a.remote then s1.mailboxWrite a.va else s1).retryResource

/-- ATOMIC_PERFORM: an atomic, or the second read of a decoding load, performs at its home slice; an atomic that lies in a mailbox starts the
handler (R131, R136, R230). -/
def atomicPerforms (serial : Nat) (s : State) : Option State :=
  match s.inflight.find? (fun a => a.serial = serial && !a.remote) with
  | none => none
  | some a =>
    if !s.mayPerform a then none else
    match s.focus a.t with
    | none => some ((s.performAccess a).1.focusPart a.dst (s.accessPid a) |>.mailboxWrite a.va)
    | some s1 => s1.performed a 0x10

/-- Whether a packet of an access reaches its destination: both devices run, and the source's route table leads there by the packet's path (R288,
R334). -/
def State.reaches (s : State) (a : Access) : Bool :=
  (s.dev? a.dst).answers && (s.dev? a.home.1).answers && (a.dst = a.home.1 || ((s.dev? a.home.1).forward a.dst a.path).isSome)

/-- REMOTE_ACCESS_ARRIVAL: the access performs at the destination's home slice, or fails there: a page of another class refuses it with REGION, an
error response is consumed (R291, R292); a device that sends its checkpoint image answers with errors (R340). -/
def remoteArrives (serial : Nat) (s : State) : Option State :=
  match s.inflight.find? (fun a => a.serial = serial && a.remote) with
  | none => none
  | some a =>
    let lost := decide ((s.dev? a.dst).ckState = 2)
    let gone := fun (s : State) => { s with inflight := s.inflight.filter (fun b => b.serial ≠ serial) }
    if !s.reaches a || !s.mayPerform a then none else
    match s.focus a.t with
    | none => some (if a.refused || lost then gone s else (s.performAccess a).1)
    | some s1 =>
      if lost then consumeRemote 0x10 (gone s1)
      else if a.refused then some (s1.refuseAccess a causeRegion (addrDetail 2 a.va))
      else s1.performed a 0x13

/-- REMOTE_ACCESS_TIMEOUT: an access unanswered for 50 µs counts as an error consumed; whether it performed is a free choice. -/
def remoteTimesOut (serial : Nat) (s : State) : Option State :=
  match s.inflight.find? (fun a => a.serial = serial && a.remote) with
  | none => none
  | some a =>
    if decide (s.now < a.sentAt + 50000) then none else
    let (c, s1) := s.choose 2
    let s2 : State := if c = 1 && !a.refused && s1.reaches a && s1.mayPerform a then (s1.performAccess a).1
                      else { s1 with inflight := s1.inflight.filter (fun b => b.serial ≠ serial) }
    match s2.focus a.t with
    | none => some s2
    | some s3 => consumeRemote 0x10 s3

/-- FLUSH_MARKER (R150): it arrives after every earlier packet of its core on its path; the path counts as used again only where a later packet took
it, and with the last marker gathered the release is tried again. -/
def markerArrives (dst path : Nat) (s : State) : Option State :=
  match s.thr.markers with
  | none => none
  | some (id, ms) =>
    let src := s.grp.dev * 192 + s.grp.core
    let on := s.inflight.filter (fun a => a.remote && a.src = src && a.dst = dst && a.path = path)
    let left := ms.filter (fun m => m ≠ (dst, path))
    let core := if on.isEmpty then { s.core with used := s.core.used.filter (fun m => m ≠ (dst, path)) } else s.core
    let s1 : State := { s with thr := { s.thr with markers := some (id, left) }, core := core }
    whenDue (s.thr.status = .waiting .resource && ms.contains (dst, path) && (s.dev? dst).answers && s.dev.answers
        && (dst = s.grp.dev || (s.dev.forward dst path).isSome) && on.all (fun a => decide (id < a.serial)))
      (if left.isEmpty then s1.retryResource else s1)

/-- FLIT_REPLAY (R287): reported as a correctable error, and nothing else. -/
def flitReplayed (port : Nat) (s : State) : Option State :=
  whenDue (decide (port < 16) && s.dev.answers) (s.report s.dev.num 0 0x02 ⟨3, port⟩ 0)

/-! ## Remote regions (R296) -/

/-- Every thread that waits for a sector or an acknowledgement issues again. -/
def State.retryAll (s : State) : State := s.mapThreads (fun t => if t.status = .waiting .resource then t.retry s.dev.clk else t)

/-- Update the checked-out thread's region. -/
def State.setRegion (f : Region → Region) (s : State) : State := { s with thr := { s.thr with region := s.thr.region.map f } }

/-- Held sectors of the checked-out thread's region for a destination. -/
def State.regionOf (s : State) (dst : Nat) : List CombEntry := s.core.comb.filter (fun b => b.t = s.thr.key && b.dev = dst)

/-- Whether a region's sector meets a race at its destination (R148). -/
def State.regionRace (s : State) (b : CombEntry) : Bool :=
  s.lau.race ≠ 15 && (match stampStep (s.stamp b.sector) s.grp.idx (s.lau.tag s.grp.dev) (s.lau.gen s.grp.dev) true with | .error _ => true | .ok _ => false)

/-- A held sector that is partly written and poisoned at its home (R331). -/
def State.regionPoison (s : State) (b : CombEntry) : Bool := s.poison.contains b.sector && decide (b.bytes.length < 64)

/-- Whether a held sector may be written at its destination (R296): the sender's translation still leads there with write permission, and the
destination's own tables give the page class 0 and write permission. -/
def State.regionDenied (s : State) (dst : Nat) (b : CombEntry) : Bool :=
  s.refusedAt dst s.part.pid (64 * b.sector) || s.readOnlyAt dst s.part.pid (64 * b.sector) ||
    (match s.translate b.va with
     | .ok x => x.cls ≠ 2 || !Pte.write x.entry || x.key / 64 ≠ b.sector
     | _ => true)

/-- FCOMMIT_PREPARE: a destination checks translation, class and permission, race and lock of each sector, in this order, and locks all of them, or
refuses; one that sends its checkpoint image cannot be reached (R340). -/
def commitPrepares (dst : Nat) (s : State) : Option State :=
  match s.thr.region with
  | none => none
  | some r =>
    let bs := s.regionOf dst
    let due := s.thr.status = .waiting .fcommit && r.failed = 0 && !r.sent && !bs.isEmpty && !(r.acks.contains dst) && (s.dev? dst).answers
      && s.dev.answers && (dst = s.grp.dev || (s.dev.forward dst 0).isSome)
    let status := if (s.dev? dst).ckState = 2 then 3
      else if bs.any (s.regionDenied dst) then 4
      else if bs.any (fun b => b.plain && s.regionRace b) then 6
      else if bs.any (fun b => s.locks.any (fun l => l.1 = b.sector && l.2 ≠ s.thr.key)) then 1 else 0
    if !due then none
    else if status ≠ 0 then some (s.setRegion (fun r => { r with failed := status }))
    else if bs.any s.regionPoison then consumeRemote 0x13 s
    else some (State.setRegion (fun r => { r with acks := r.acks ++ [dst] }) { s with locks := s.locks ++ bs.map (fun b => (b.sector, s.thr.key)) })

/-- The checked-out thread's `fcommit` ends with a status, which enters the published-write log. -/
def State.fcommitDone (status : Nat) (s : State) : State :=
  let s1 : State := { s with thr := s.thr.wake s.dev.clk }
  ((s1.endRegion status).logDone s.thr.key.tid fcommitOp 0 [] [BitVec.ofNat 32 status]).retryAll

/-- FCOMMIT_COMMIT: with every acknowledgement in, one destination (a free choice) performs its sectors as one unit; after the last of them
`fcommit` completes. -/
def commitPerforms (s : State) : Option State :=
  match s.thr.region with
  | none => none
  | some r =>
    let (i, s1) := s.choose r.acks.length
    let dst := r.acks.getD i 0
    let s2 := s1.commitDest s.thr.key dst
    let s3 := s2.setRegion (fun r => { r with sent := true, acks := r.acks.filter (fun d => d ≠ dst) })
    whenDue (s.thr.status = .waiting .fcommit && r.failed = 0 && !r.acks.isEmpty && s.regionDests.all (fun d => r.acks.contains d))
      (if (r.acks.filter (fun d => d ≠ dst)).isEmpty then s3.fcommitDone 0 else s3)

/-- FCOMMIT_ABORT: every destination unlocks and writes nothing; the region ends with its status. -/
def commitAborts (s : State) : Option State :=
  match s.thr.region with
  | none => none
  | some r => whenDue (s.thr.status = .waiting .fcommit && r.failed ≠ 0 && !r.sent) (s.fcommitDone r.failed)

/-- FCOMMIT_TIMEOUT: 50 µs without every prepare acknowledgement. -/
def commitTimesOut (s : State) : Option State :=
  match s.thr.region with
  | none => none
  | some r =>
    whenDue (s.thr.status = .waiting .fcommit && r.failed = 0 && !r.sent && decide (r.since + 50000 ≤ s.now)
        && s.regionDests.any (fun d => !(r.acks.contains d)))
      (s.setRegion (fun r => { r with failed := 3 }))

/-! ## Router reduction (R297, R298) -/

/-- Bytes of an element of a type code. -/
def fredSize (t : Nat) : Nat := if t = 9 then 2 else if t = 3 ∨ t = 4 ∨ t = 8 then 8 else 4

/-- Combine two elements (R297): op 0 add, 1 min, 2 max. -/
def fredCombine (op t nbv a b : Nat) : Nat :=
  let ty : BitVec 4 := BitVec.ofNat 4 t
  if t ≤ 4 then
    let w := 8 * fredSize t
    let less := if t % 2 = 1 then decide (sint w a < sint w b) else decide (a < b)
    if op = 0 then (a + b) % 2 ^ w else if less = decide (op = 1) then a else b
  else if op = 0 then (farith2 (FVal.add .ne) ty nbv .ne a b).1
  else (fminmax (op = 2) ty nbv a b).1

/-- The value beside an empty slot is the value. -/
def fredMerge (op t nbv : Nat) : Option Nat → Option Nat → Option Nat
  | some a, some b => some (fredCombine op t nbv a b)
  | some a, none => some a
  | none, b => b

/-- The fixed tree over sixteen slots (R297): one level joins neighbours. -/
def fredTree (op t nbv : Nat) : Nat → List (Option Nat) → Option Nat
  | 0, slots => slots.headD none
  | n + 1, slots =>
    fredTree op t nbv n ((List.range (slots.length / 2)).map (fun i => fredMerge op t nbv (slots.getD (2 * i) none) (slots.getD (2 * i + 1) none)))

/-- The result of a complete reduction. -/
def fredResult (parts : List Contribution) (c : Contribution) : List Byte :=
  let z := fredSize c.type_
  (List.range (c.length / z)).flatMap (fun k =>
    let slots := (List.range 16).map (fun i => (parts.find? (fun p => p.index = i)).map (fun p => natAt p.bytes (z * k) z))
    toBytes z ((fredTree c.op c.type_ c.nbv 4 slots).getD 0))

/-- A contributor receives its status: its thread where it waits, and its entry of the published-write log (R298). -/
def State.fredStatus (st : Nat) (s : State) (c : Contribution) : State :=
  let v : Word := BitVec.ofNat 32 st
  let s1 := s.updThread c.t (fun t => if t.status = .waiting (.fred c.serial) then (t.putDst c.dst [v]).wake s.dev.clk else t)
  s1.updGroup c.t.gid (fun g => { g with log := fillLog c.serial [v] g.log, replay := fillLog c.serial [v] g.replay })

/-- Whether two contributions agree in everything R298 asks for. -/
def Contribution.agrees (a b : Contribution) : Bool :=
  a.parts = b.parts && a.op = b.op && a.type_ = b.type_ && a.count = b.count && a.length = b.length

/-- Whether a reduction is the one a contribution names: destination device, id and bound view. -/
def Reduction.of (r : Reduction) (c : Contribution) : Bool :=
  match r.parts with
  | [] => false
  | p :: _ => p.id = c.id && p.view = c.view && p.seq = c.seq

/-- A discarded reduction answers the contributors still to come: one whose index has not arrived. -/
def Reduction.owes (r : Reduction) (c : Contribution) : Bool := r.dead.isSome && r.of c && !(r.parts.any (fun p => p.index = c.index))

/-- Whether every index has arrived. -/
def Reduction.full (r : Reduction) : Bool :=
  match r.parts with
  | [] => true
  | p :: _ => (List.range (p.count + 1)).all (fun i => r.parts.any (fun q => q.index = i))

/-- Replace a reduction of the checked-out device; one that is discarded and owes no one more is forgotten. -/
def State.putReduction (old new : Reduction) (s : State) : State :=
  { s with dev := { s.dev with reductions :=
      s.dev.reductions.filterMap (fun r => if r = old then (if new.dead.isSome && new.full then none else some new) else some r) } }

/-- Discard a reduction of the checked-out device: every contributor that has arrived receives the status. -/
def State.discardReduction (r : Reduction) (parts : List Contribution) (st : Nat) (s : State) : State :=
  parts.foldl (State.fredStatus st) (s.putReduction r { r with parts := parts, dead := some st })

/-- A launch of a contributor on the device itself, whose race-domain generation the arrival word may advance (R168). -/
def State.fredLid (s : State) (dev : Nat) (parts : List Contribution) : Nat :=
  (parts.findSome? (fun p => (s.group? p.t.gid).bind (fun g => if g.dev = dev then some g.lid else none))).getD 0

/-- Bytes written to the parts of a range in turn (R297). -/
def cellsOf : List (Nat × Nat) → List Byte → List (Nat × Byte)
  | [], _ => []
  | (k, n) :: ps, bs => (bs.take n).zipIdx.map (fun p => (k + p.2, p.1)) ++ cellsOf ps (bs.drop n)

/-- Whether a sector of a range is locked by a prepared region (R296). -/
def State.lockedIn (s : State) (key n : Nat) : Bool := s.locks.any (fun l => decide (key < 64 * l.1 + 64) && decide (64 * l.1 < key + n))

/-- Write the result of a complete reduction as engine writes, count its bytes into the arrival word, and send status 0. -/
def State.finishReduction (r : Reduction) (parts : List Contribution) (c : Contribution) (s : State) : State :=
  let cells := cellsOf c.parts (fredResult parts c)
  let s0 : State := { s with dev := { s.dev with reductions := s.dev.reductions.filter (fun x => x ≠ r) } }
  let s1 := (s0.performCells cells).clearPoison cells
  let s2 := match c.arrival with
    | some k => s1.syncApply (.mem k) c.length false (s1.fredLid c.dev parts)
    | none => s1
  parts.foldl (State.fredStatus 0) s2

/-- Whether a contribution can reach its destination: both devices run and a route leads there (R288, R334). -/
def State.fredReaches (c : Contribution) (s : State) : Bool :=
  s.dev.answers && (match s.group? c.t.gid with
    | some g => (s.dev? g.dev).answers && (g.dev = c.dev || ((s.dev? g.dev).forward c.dev 0).isSome)
    | none => true)

/-- FRED_CONTRIBUTION: a contribution reaches the destination's reduction unit; `err` is an uncorrectable error in the combine. The last one waits
while a sector of the destination is locked (R296); a device that sends its checkpoint image answers with an error (R340). -/
def fredArrives (c : Contribution) (err : Bool) (s : State) : Option State :=
  let s0 : State := { s with contributions := s.contributions.filter (fun x => x.serial ≠ c.serial) }
  if !s.fredReaches c then none
  else if s.dev.ckState = 2 then some (s0.fredStatus 4 c)
  else if s.failedViews.contains (c.seq, c.view) then some (s0.fredStatus 2 c)
  else match s.dev.reductions.find? (fun r => r.owes c) with
    | some r => some ((s0.putReduction r { r with parts := r.parts ++ [c] }).fredStatus (r.dead.getD 1) c)
    | none =>
      let opened := s.dev.reductions.filter (fun r => r.dead.isNone)
      match opened.find? (fun r => r.of c) with
      | none =>
        if opened.length ≥ 256 then some (s0.fredStatus 5 c)
        else
          let r : Reduction := { dev := s.dev.num, since := s.now, parts := [c], dead := none }
          let s1 : State := { s0 with dev := { s0.dev with reductions := s0.dev.reductions ++ [r] } }
          some (if err then s1.discardReduction r [c] 4 else s1)
      | some r =>
        let parts := r.parts ++ [c]
        let bad := r.parts.any (fun p => !(p.agrees c) || p.index = c.index)
        let held := c.parts.any (fun p => s.lockedIn p.1 p.2) || c.arrival.any (fun k => s.lockedIn k 16)
        if bad then some (s0.discardReduction r parts 3)
        else if err then some (s0.discardReduction r parts 4)
        else if ({ r with parts := parts } : Reduction).full then whenDue (!held) (s0.finishReduction r parts c)
        else some (s0.putReduction r { r with parts := parts })

/-- REDUCTION_TIMEOUT: 200 µs after the first contribution without every index. -/
def reductionTimesOut (id view : Word) (s : State) : Option State :=
  match s.dev.reductions.find? (fun r => r.dead.isNone && r.parts.any (fun p => p.id = id && p.view = view)
      && decide (r.since + 200000 ≤ s.now)) with
  | none => none
  | some r => some (s.discardReduction r r.parts 1)

/-- Whether the gang manager has a failure of a view to announce: it has Failed, or its context is lost while contributions name it. -/
def State.viewGone (s : State) (seq view : Word) : Bool :=
  match firstSome (s.allDevs.map (fun d => d.seqs.find? (fun q => q.id = seq))) with
  | some q => (q.view? view).any (fun v => v.state = .failed)
  | none => s.contributions.any (fun c => c.seq = seq && c.view = view)
      || s.allDevs.any (fun d => d.reductions.any (fun r => r.parts.any (fun c => c.seq = seq && c.view = view)))
      || s.allGroups.any (fun g => g.gid ≠ 0 && g.seq = seq && g.view = view)

/-- Discard the open reductions of a view on the checked-out device. -/
def State.dropView (seq view : Word) (s : State) : State :=
  (s.dev.reductions.filter (fun r => r.parts.any (fun p => p.seq = seq && p.view = view))).foldl
    (fun s r =>
      let s1 : State := { s with dev := { s.dev with reductions := s.dev.reductions.filter (fun x => x ≠ r) } }
      if r.dead.isSome then s1 else r.parts.foldl (State.fredStatus 2) s1) s

/-- VIEW_FAILURE_ANNOUNCEMENT: every open reduction of the view is discarded with status 2, and later contributions receive it at once. -/
def viewAnnounced (seq view : Word) (s : State) : Option State :=
  let s1 : State := { s with failedViews := (seq, view) :: s.failedViews }
  whenDue (s.viewGone seq view && !(s.failedViews.contains (seq, view)))
    ((s.allDevs.map Device.num).foldl (fun s d => (s.checkoutDev d).dropView seq view) s1)

/-! ## Censuses (R300, R303, R306) -/

/-- Whether an entry answers a census numbered `n` in scope `sc` (R303). -/
def DirEntry.answers (d : DirEntry) (n : Word) (sc : Nat) : Bool :=
  !(n - d.puts.getD sc 0).msb && (d.state = .live || (n - d.thresholds.getD sc 0).msb)

/-- One census at one core: another of the same instance with a lower number comes first. -/
def Census.precedes (a b : Census) (at_ core : Nat) : Bool :=
  a.id ≠ b.id && a.pid = b.pid && a.scope = b.scope && (a.scope = 3 || a.dev = b.dev) && instanceKey a.scope (a.core) = instanceKey b.scope (b.core)
    && a.todo.contains (at_ * 192 + core) && (a.number - b.number).msb

/-- Update one census. -/
def State.updCensus (id : Nat) (f : Census → Census) (s : State) : State :=
  { s with censuses := s.censuses.map (fun c => if c.id = id then f c else c) }

/-- Spawn the responder of an entry of the checked-out core (R303): a rejected record counts as spawned and finished; past 4,096 device
launches it is held (R229). -/
def State.respond (c : Census) (s : State) (d : DirEntry) : State :=
  let p := s.part
  let src := LaunchSource.responder c.id d.serial s.core.dev s.core.num
  let bump := fun (done : Nat) (s : State) => s.updCensus c.id (fun c => { c with spawned := c.spawned + 1, finished := c.finished + done })
  match s.readRecord d.record.toNat with
  | none => bump 1 s
  | some bs =>
    let s := s.visit d.record.toNat false
    let l := Launch.submitted p.dev p.pid bs d.descriptor src
    if !l.recordOk p none then bump 1 s
    else if s.deviceLaunches p.dev p.pid ≥ 4096 then
      let (id, s1) := s.freshId
      bump 0 { s1 with launches := putLaunch { l with lid := id } s1.launches }
    else bump 0 (s.acceptLaunch l (field (l.fld 16 4) 3 0))

/-- CENSUS_START: a core processes a census, in number order of its instance; a halted or swapped partition's core holds it (R314). -/
def censusStarts (c : Census) (at_ : Nat) (s : State) : Option State :=
  let sc := c.scope
  let pid := c.pid
  let core : Core := { s.core with seen := Bits.insert (4 * pid + sc) c.number s.core.seen }
  let hits := s.core.dirs.filter (fun d => d.pid = pid && d.key = c.key && d.answers c.number sc)
  let s1 := hits.foldl (State.respond c) { s with core := core.dropGhosts }
  whenDue (c.todo.contains at_ && s.part.pstat = 0 && !s.part.broken && s.dev.answers && !(s.censuses.any (fun a => a.precedes c s.core.dev s.core.num)))
    (s1.updCensus c.id (fun c => { c with todo := c.todo.filter (fun x => x ≠ at_) }))

/-- Whether place `a` comes before `b`: device, core, serial. -/
def placeBefore (a b : Nat × Nat × Nat) : Bool :=
  decide (a.1 < b.1) || (a.1 = b.1 && (decide (a.2.1 < b.2.1) || (a.2.1 = b.2.1 && decide (a.2.2 < b.2.2))))

/-- Combine one more kept reply (R306). -/
def Census.keep (c : Census) (r : Reply) : Census :=
  let place := (r.dev, r.core, r.entry.toNat)
  let a := c.value
  let b := r.value
  let less := decide (b.toInt < a.toInt)
  let v := match c.combine with
    | 0 => a + b
    | 1 => if c.kept = 0 || less then b else a
    | 2 => if c.kept = 0 || decide (a.toInt < b.toInt) then b else a
    | 3 => a ||| b
    | 4 => a + 1
    | _ => if c.kept = 0 || placeBefore place c.first then b else a
  { c with value := v, kept := c.kept + 1, first := if c.kept = 0 || placeBefore place c.first then place else c.first }

/-- The reply unit takes a reply: of a mobile serial only the first, and at most 4,096 mobile serials. -/
def Census.take (c : Census) (r : Reply) : Census :=
  if !r.entry.msb then c.keep r
  else if c.mobile.contains r.entry then c
  else if c.mobile.length ≥ 4096 then { c with overflow := true }
  else { c.keep r with mobile := r.entry :: c.mobile }

/-- REPLY_ARRIVAL: with its census over, a reply is dropped. -/
def replyTaken (serial : Nat) (s : State) : Option State :=
  match s.replies.find? (fun r => r.serial = serial) with
  | none => none
  | some r => some (State.updCensus r.census (fun c => c.take r) { s with replies := s.replies.filter (fun q => q.serial ≠ serial) })

/-- Whether a gang census has lost a member or its view (R306). -/
def State.censusLost (s : State) (c : Census) : Bool :=
  c.scope = 3 &&
    (match firstSome (s.allDevs.map (fun d => d.seqs.find? (fun q => q.id = c.seq))) with
     | none => true
     | some q => (match q.view? c.view with | none => true | some v => v.state = .failed || v.members.any (fun m => (s.dev? m).faulted)))

/-- The reply buffer (Table 20.8). -/
def Census.buffer (c : Census) (status : Nat) : List Byte :=
  toBytes 8 c.value.toNat ++ toBytes 4 c.kept ++ toBytes 4 c.spawned ++ toBytes 4 status ++ toBytes 4 c.number.toNat ++ toBytes 8 0

/-- CENSUS_COMPLETE: the buffer is written and the census word takes one thread arrival. -/
def censusEnds (c : Census) (s : State) : Option State :=
  let lost := s.censusLost c
  let allIn := c.todo.isEmpty && c.finished = c.spawned && !(s.replies.any (fun r => r.census = c.id))
  let status := if lost then 2 else if c.overflow then 1 else 0
  let s1 : State := { s with censuses := s.censuses.filter (fun x => x.id ≠ c.id) }
  whenDue (lost || allIn)
    (match s1.group? c.gid with
     | none => s1
     | some g => (s1.updGroup c.gid (fun g => g.sts c.buf (c.buffer status))).syncApply (.scratch c.gid c.word) 0 true g.lid)

/-! ## Launch tags and route tables (R147, R288) -/

/-- LAUNCH_TAG_FREE: the walker clears the stamps of an ended launch on each of its devices, and its tags are free. -/
def tagFreed (lid : Nat) (s : State) : Option State :=
  let hits := s.allParts.flatMap (fun p => (p.tags.filter (fun t => t.2 = lid)).map (fun t => (p.dev, p.pid, t.1)))
  let mine := fun (p : Nat × DWord) => hits.any (fun h => s.ownsStamp h.1 h.2.1 p && field p.2.toNat 15 8 = h.2.2)
  whenDue (!hits.isEmpty)
    (State.mapParts (fun p => { p with tags := p.tags.filter (fun t => t.2 ≠ lid) })
      { s with stamps := s.stamps.filter (fun p => !mine p), stampOwner := s.stampOwner.filter (fun o => !(mine (o.1, s.stamp o.1))) })

/-- ROUTE_TABLE_WRITE: bits 2:0 of each candidate are zero (Table 20.1). -/
def writeRoute (dst : Nat) (entry : Word) (s : State) : Option State :=
  whenDue (decide (dst < 1024)) { s with dev := { s.dev with routes := Bits.insert dst (entry &&& 0xF8F8F8F8) s.dev.routes } }

/-- ATOMIC_PERFORM -/
def execAtomicPerform (serial : Nat) (s : State) : Outcome := .next ((atomicPerforms serial s).getD s)
/-- LAUNCH_TAG_FREE -/
def execLaunchTagFree (lid : Nat) (s : State) : Outcome := .next ((tagFreed lid s).getD s)
/-- REMOTE_ACCESS_ARRIVAL -/
def execRemoteAccessArrival (serial : Nat) (s : State) : Outcome := .next ((remoteArrives serial s).getD s)
/-- REMOTE_ACCESS_TIMEOUT -/
def execRemoteAccessTimeout (serial : Nat) (s : State) : Outcome := .next ((remoteTimesOut serial s).getD s)
/-- FLUSH_MARKER -/
def execFlushMarker (t : ThreadKey) (dst path : Nat) (s : State) : Outcome := s.onThread t (markerArrives dst path)
/-- FLIT_REPLAY -/
def execFlitReplay (dev port : Nat) (s : State) : Outcome := s.onDev dev (flitReplayed port)
/-- FCOMMIT_PREPARE -/
def execFcommitPrepare (t : ThreadKey) (dst : Nat) (s : State) : Outcome := s.onThread t (commitPrepares dst)
/-- FCOMMIT_COMMIT -/
def execFcommitCommit (t : ThreadKey) (s : State) : Outcome := s.onThread t commitPerforms
/-- FCOMMIT_ABORT -/
def execFcommitAbort (t : ThreadKey) (s : State) : Outcome := s.onThread t commitAborts
/-- FCOMMIT_TIMEOUT -/
def execFcommitTimeout (t : ThreadKey) (s : State) : Outcome := s.onThread t commitTimesOut
/-- FRED_CONTRIBUTION -/
def execFredContribution (serial : Nat) (err : Bool) (s : State) : Outcome :=
  match s.contributions.find? (fun c => c.serial = serial) with
  | none => .next s
  | some c => s.onDev c.dev (fredArrives c err)
/-- REDUCTION_TIMEOUT -/
def execReductionTimeout (dev : Nat) (id : Word) (view : Word) (s : State) : Outcome := s.onDev dev (reductionTimesOut id view)
/-- VIEW_FAILURE_ANNOUNCEMENT -/
def execViewFailureAnnouncement (seq : Word) (view : Word) (s : State) : Outcome := .next ((viewAnnounced seq view s).getD s)
/-- CENSUS_START: `core` names a core of the system, device number * 192 + core. -/
def execCensusStart (census core : Nat) (s : State) : Outcome :=
  match s.censuses.find? (fun c => c.id = census) with
  | none => .next s
  | some c => s.onCore (core / 192) (core % 192) (fun s => censusStarts c core (s.checkoutPart (core / 192) c.pid))
/-- REPLY_ARRIVAL -/
def execReplyArrival (serial : Nat) (s : State) : Outcome := .next ((replyTaken serial s).getD s)
/-- CENSUS_COMPLETE -/
def execCensusComplete (census : Nat) (s : State) : Outcome :=
  match s.censuses.find? (fun c => c.id = census) with
  | none => .next s
  | some c => s.onDev c.dev (censusEnds c)
/-- ROUTE_TABLE_WRITE -/
def execRouteTableWrite (dev dst : Nat) (entry : Word) (s : State) : Outcome := s.onDev dev (writeRoute dst entry)

end Sys2Proof.Machine
end

