-- ==== Sys2Proof/Machine/EvContent.lean ====
section
/-!
DEFINITION. Events of the content store and of its registers: the background walker, freed slots, content regions and prefix tables
(17 R237, R242, R252).
-/
namespace Sys2Proof.Machine
open Sys2Proof Bits

/-- BACKGROUND_WALKER: each child of the first freed interior line that waits is decremented once, in child order. -/
def walkLine (s : State) : Option State :=
  match s.part.lines.find? (fun l => l.freed && l.interior && !l.walked) with
  | none => none
  | some l =>
    let mark := fun (m : ContentLine) => if m = l then { m with walked := true } else m
    let p : Part := { s.part with lines := s.part.lines.map mark }
    some { s with part := (lineChildren l.bytes).foldl Part.decr p }

/-- SLOT_FREE: every load cache of the device has dropped a freed line, an interior one after the walker has read it. -/
def freeSlotOf (region slot : Nat) (s : State) : Option State :=
  let p := s.part
  let hit := fun (l : ContentLine) => l.region = region && l.slot = slot && l.freed && (!l.interior || l.walked)
  let s1 := (p.lines.filter hit).foldl (fun s l => State.forgetLine p.dev l.key s) s
  whenDue (p.lines.any hit) { s1 with part := { p with lines := p.lines.filter (fun l => !hit l) } }

/-- CONTENT_REGION_ENABLE: an RCTL write; clearing enable is ignored while the region holds lines. -/
def enableRegion (region : Nat) (on : Bool) (s : State) : Option State :=
  let p := s.part
  let r := p.region region
  whenDue (decide (region < 16) && (on || p.used region = 0))
    { s with part := { p with regions := Bits.insert region { r with ctl := if on then 0x80000000 else 0 } p.regions } }

/-- PREFIX_TABLE_ENABLE: clearing the bit empties the table and drops the references of its entries. -/
def enableTable (table : Nat) (on : Bool) (s : State) : Option State :=
  let p := s.part
  let t := p.table table
  whenDue (decide (table < 16))
    (if on then { s with part := p.setTable table { t with enabled := true } }
     else { s with part := t.entries.foldl (fun p e => p.decr e.root) (p.setTable table { enabled := false, entries := [] }) })

/-- BACKGROUND_WALKER -/
def execBackgroundWalker (dev pid : Nat) (s : State) : Outcome := s.onPart dev pid walkLine
/-- SLOT_FREE -/
def execSlotFree (dev pid region slot : Nat) (s : State) : Outcome := s.onPart dev pid (freeSlotOf region slot)
/-- CONTENT_REGION_ENABLE -/
def execContentRegionEnable (dev pid region : Nat) (on : Bool) (s : State) : Outcome := s.onPart dev pid (enableRegion region on)
/-- PREFIX_TABLE_ENABLE -/
def execPrefixTableEnable (dev pid table : Nat) (on : Bool) (s : State) : Outcome := s.onPart dev pid (enableTable table on)

end Sys2Proof.Machine
end

