-- ==== Sys2Proof/Machine/EvLaunch.lean ====
section
/-!
DEFINITION. Events of launches: host queues, deferred launches, dependences, dispatch, gang and fabric launches, and the end of a
launch (16 R226 to R231, R234 to R236; 19 R264, R271; 25 R338; 10 R147).
-/
namespace Sys2Proof.Machine
open Sys2Proof Bits Encoding

/-! ## Host queues (R226) -/

/-- Registers of a queue; those after reset are zero. -/
def Part.queue (p : Part) (q : Nat) : Queue := (lookup q p.queues).getD ⟨0, 0, 0, 0⟩

/-- Put the registers of a queue of the checked-out partition. -/
def State.setQueue (q : Nat) (x : Queue) (s : State) : State := { s with part := { s.part with queues := Bits.insert q x s.part.queues } }

/-- Entries of a queue. -/
def Queue.size (x : Queue) : Nat := 2 ^ (x.ctl.toNat % 32)

/-- A QTAIL write (R226): refused where it passes the size or moves the tail backward; a refused one sets error. -/
def Queue.ring (x : Queue) (tail : Word) : Queue :=
  if decide (x.size < (tail - x.head).toNat) || (tail - x.tail).msb then { x with ctl := x.ctl ||| 0x40000000 } else { x with tail := tail }

/-- QUEUE_DOORBELL: recorded while the partition is halted or swapped (R314). -/
def ringDoorbell (q : Nat) (tail : Word) (s : State) : Option State :=
  whenDue (decide (q < 64))
    (if s.part.pstat ≠ 0 then { s with part := { s.part with recorded := s.part.recorded ++ [.doorbell q tail] } }
     else s.setQueue q ((s.part.queue q).ring tail))

/-- QUEUE_ENABLE -/
def enableQueue (q : Nat) (on : Bool) (s : State) : Option State :=
  let x := s.part.queue q
  whenDue (decide (q < 64)) (s.setQueue q { x with ctl := if on then x.ctl ||| 0x80000000 else x.ctl &&& 0x7FFFFFFF })

/-- QUEUE_ERROR_CLEAR -/
def clearQueueError (q : Nat) (s : State) : Option State :=
  let x := s.part.queue q
  whenDue (decide (q < 64)) (s.setQueue q { x with ctl := x.ctl &&& 0xBFFFFFFF })

/-- Whether a launch came from queue `q` of the checked-out partition. -/
def State.fromQueue (s : State) (q : Nat) (l : Launch) : Bool :=
  l.lid ≠ 0 && l.dev = s.part.dev && l.pid = s.part.pid && (match l.source with | .queue k _ => k = q | _ => false)

/-- QUEUE_RESET: launches in Submitted or Waiting complete with status 2, the queue is empty and its error clear. -/
def resetQueue (q : Nat) (s : State) : Option State :=
  let x := s.part.queue q
  let s1 := s.mapLaunches (fun l => if s.fromQueue q l && (l.state = .submitted || l.state = .waiting) then l.finish 2 else l)
  whenDue (decide (q < 64)) (s1.setQueue q { x with head := x.tail, ctl := x.ctl &&& 0xBFFFFFFF })

/-- Where the device reads a queue entry: device memory through the partition's tables, or host memory through ATS (R226, R312). -/
def State.queuePlace (s : State) (x : Queue) : Option Nat :=
  let va := x.base.toNat + 64 * (x.head.toNat % x.size)
  if x.ctl.getLsbD 8 then
    (if s.part.pasid.getLsbD 31 then (lookup (va / 2 ^ 16) s.part.ats).map (fun h => keyOf hostDev (h * 2 ^ 16 + va % 2 ^ 16)) else none)
  else s.partKey va

/-- A malformed queue entry (Table 16.4): a field that is not zero, or an address that is not aligned. -/
def entryBad (bs : List Byte) : Bool :=
  natAt bs 0 8 % 256 ≠ 0 || natAt bs 16 8 % 16 ≠ 0 || decide (1 < natAt bs 32 4) || (bs.drop 36).any (fun b => b ≠ 0)

/-- Device firmware submits a launch through its own queue (R316): it is privileged, and acts for the partition that its record names; a record
that breaks a rule starts nothing. -/
def acceptOwn (record : List Byte) (arg : DWord) (s : State) : Option State :=
  let p := s.part
  let l := Launch.submitted p.dev p.pid record arg .firmware
  whenDue (p.pstat = 0 && !p.broken && s.dev.answers) (if l.recordOk p none then s.acceptLaunch l (field (l.fld 16 4) 3 0) else s)

/-- QUEUE_ENTRY_ACCEPT: the entry at the head of a host queue is read and its launch accepted, or completed with status 4 or 1; its accepted journal
entry precedes the head count (R338). -/
def acceptEntry (q : Nat) (s0 : State) : Option State :=
  let p := s0.part
  let x := p.queue q
  match s0.queuePlace x with
  | none => none
  | some k =>
    let bs := Mem.read s0.mem k 64
    let rec_ := if entryBad bs then none else s0.readRecord (natAt bs 0 8)
    let va := x.base.toNat + 64 * (x.head.toNat % x.size)
    let read := if x.ctl.getLsbD 8 then s0 else s0.visit va false
    let s := if rec_.isSome then read.visit (natAt bs 0 8) false else read
    let l := { Launch.submitted p.dev p.pid (rec_.getD []) (BitVec.ofNat 64 (natAt bs 24 8)) (.queue q va) with
               serial := BitVec.ofNat 64 (natAt bs 8 8), completion := natAt bs 16 8, interrupt := bit (natAt bs 32 4) 0 }
    let id := s.nextId
    let s1 := s.acceptLaunch l (field (l.fld 16 4) 3 0)
    let s2 := if entryBad bs then s1.updLaunch id (fun l => l.finish 4)
      else if rec_.isNone || !l.recordOk p none then s1.updLaunch id (fun l => l.finish 1) else s1
    whenDue (decide (q < 64) && x.ctl.getLsbD 31 && !x.ctl.getLsbD 30 && x.head ≠ x.tail && p.pstat = 0 && !p.broken && s.dev.answers)
      (s2.setQueue q { x with head := x.head + 1 })

/-! ## Deferred launches and mailboxes (R229, R230) -/

/-- Device launches of the checked-out partition that are held. -/
def State.heldLaunches (s : State) : List Launch :=
  s.allLaunches.filter (fun l => l.lid ≠ 0 && l.dev = s.part.dev && l.pid = s.part.pid && l.state = .submitted)

/-- Mailboxes of the checked-out partition that hold launches. -/
def Part.heldMailboxes (p : Part) : List (Nat × Mailbox) := p.mailboxes.filter (fun m => !m.2.held.isEmpty)

/-- A held launch enters Waiting. -/
def State.startHeld (l : Launch) (s : State) : State :=
  let p := s.part
  let s1 := s.updLaunch l.lid (fun l => { l with state := .waiting, priority := field (l.fld 16 4) 3 0, number := p.launchNo, nbv := p.nbv })
  { s1 with part := { s1.part with launchNo := nextLaunchNo p.launchNo } }

/-- DEFERRED_LAUNCH_START: one held launch starts once the count is below 4,096; which of them is a free choice. -/
def startDeferred (s : State) : Option State :=
  let ls := s.heldLaunches
  let ms := s.part.heldMailboxes
  let (i, s1) := s.choose (ls.length + ms.length)
  let t := match ls[i]?, ms[i - ls.length]? with
    | some l, _ => s1.startHeld l
    | none, some (m, b) =>
      State.startHandler m (b.held.headD 0) { s1 with part := { s1.part with mailboxes := Bits.insert m { b with held := b.held.drop 1 } s1.part.mailboxes } }
    | none, none => s1
  whenDue (decide (0 < ls.length + ms.length) && decide (s.deviceLaunches s.part.dev s.part.pid < 4096) && s.part.pstat = 0) t

/-- MAILBOX_OVERFLOW_CLEAR -/
def clearOverflow (m : Nat) (s : State) : Option State :=
  match lookup m s.part.mailboxes with
  | none => none
  | some b => some { s with part := { s.part with mailboxes := Bits.insert m { b with ctl := b.ctl &&& 0xBFFFFFFF } s.part.mailboxes } }

/-! ## Dispatch (R147, R223, R236) -/

/-- The lowest launch tag that is free for a partition of a device. -/
def State.freeTag (s : State) (dev pid : Nat) : Option Nat :=
  ((List.range 255).map (· + 1)).find? (fun t =>
    !(s.allLaunches.any (fun m => m.pid = pid && m.tag dev = t)) && !(((s.part? dev pid).tags).any (fun x => x.1 = t)))

/-- A tag and generation 0 on each device a launch goes to, where its race domain is checked; none while one has no tag free. -/
def State.newMarks (s : State) (l : Launch) (devs : List Nat) : Option (List (Nat × Nat × Nat)) :=
  if l.race = 15 then some [] else devs.mapM (fun d => (s.freeTag d l.pid).map (fun t => (d, t, 0)))

/-- Whether coordinate `c` of a gang group lies outside the view: such a group is never admitted and counts as ended at go (R326). -/
def Launch.outsideView (l : Launch) (members : List Nat) (idx : Nat) : Bool := l.gang && decide (members.length ≤ l.coordOf idx 6)

/-- The checked-out launch enters Dispatching with its groups Queued on their devices (R223, R236). -/
def State.dispatch (members : List Nat) (marks : List (Nat × Nat × Nat)) (s : State) : State :=
  let l0 := s.lau
  let out := (List.range l0.groupCount).filter (l0.outsideView members)
  let l := { l0 with state := .dispatching, marks := marks, nbv := s.part.nbv, ended := out ++ l0.ended }
  let idxs := (List.range l0.groupCount).filter (fun i => !(out.contains i))
  let first := s.nextId
  let gs := idxs.zipIdx.map (fun i => l.newGroup (first + i.2) i.1 (l.groupDev s.part members i.1) s.now)
  let l1 := if idxs.isEmpty then { l with state := .running } else l
  (fun (s : State) => if l.rerun then s else s.journalLaunch l1 1 0) { s with lau := l1, groups := gs.foldr putGroup s.groups, nextId := first + idxs.length }

/-! ## Dependences (R231) -/

/-- What a dependence word is found to be. -/
inductive DepState where
  | refused
  | fault (kind : Nat)
  | waits
  | passed
  deriving DecidableEq, Repr

/-- Look a dependence up through the checked-out partition's tables. -/
def State.depState (s : State) (d : Nat × Word) : DepState :=
  if 2 ^ 56 ≤ d.1 then .refused else
  match translateBy s.mem s.part [] d.1 with
  | .miss => .fault 0
  | .hostMiss => .fault 2
  | .hostRefused => .refused
  | .malformed => .refused
  | .ok x =>
    if !(x.cls = 0 || x.cls = 2 || x.cls = 5) then .refused
    else if Machine.passed (BitVec.ofNat 32 (s.syncWord (.mem x.key)).gen) d.2 then .passed else .waits

/-- DEPENDENCES_PASSED: a refused word completes the launch with status 1, a missing page is posted and waited for; once every generation
has passed the launch prepares or dispatches, held back while no launch tag is free. The test is an acquire: a group's core drops its load cache when
the group is admitted. -/
def depsPassed (s0 : State) : Option State :=
  let l := s0.lau
  let ds := (List.range l.deps).map (fun j => ((l.dep j).1, s0.depState (l.dep j)))
  let s := (ds.filter (fun d => d.2 = .passed || d.2 = .waits)).foldl (fun s d => s.visit d.1 false) s0
  if l.state ≠ .waiting ∨ s.part.pstat ≠ 0 ∨ s.part.broken = true ∨ s.dev.answers = false then none
  else if ds.any (fun d => d.2 = .refused) then some { s with lau := l.finish 1 }
  else match ds.find? (fun d => d.2 = .fault 0 || d.2 = .fault 2) with
    | some (va, k) => some (s.postFault (va / 2 ^ 16) (if k = .fault 2 then 2 else 0) 0xFFFFFFFF)
    | none =>
      if ds.any (fun d => d.2 = .waits) then none
      else if l.gang || l.isFabric then some { s with lau := { l with state := .preparing } }
      else (s.newMarks l [l.dev]).map (fun m => s.dispatch [] m)

/-! ## Gang launches (R234) -/

/-- The live context of the checked-out gang launch, homed on its device. -/
def State.gangCtx (s : State) : Option SeqCtx := if seqHome s.lau.seqId = some s.lau.dev then s.seqCtx s.lau.pid s.lau.seqId else none

/-- Whether a device refuses to take part in a two-phase launch (R234, R235): its partition of that number does not run, or the record breaks a rule
there. -/
def State.declines (s : State) (l : Launch) (d : Nat) : Bool :=
  let p := s.part? d l.pid
  (s.dev? d).answers && (p.pstat ≠ 0 || p.broken || !(l.recordOk p (match l.source with | .mailbox m _ => some m | _ => none)))

/-- Cores of device `d` for groups of a launch in turn, each fitting beside what is in use and what is taken here (R116, R223). -/
def State.pickCores (s : State) (l : Launch) (d start : Nat) : List Nat → List (Nat × Nat) → Option (List (Nat × Nat))
  | [], acc => some acc
  | i :: is, acc =>
    match ((List.range 192).map (fun c => (start + c) % 192)).find? (fun c =>
        !(s.core? d c).quarantined && l.near i c acc
          && l.need.fits ((acc.filter (fun a => a.2 = c)).foldl (fun n _ => n.add l.need) (s.inUse d c)) false) with
    | none => none
    | some c => State.pickCores s l d start is (acc ++ [(i, c)])

/-- A member reserves admission for the groups `idxs` of the checked-out launch and acknowledges, where all of them fit (R116, R234, R235); which
cores it takes is a free choice (notes/assumptions/32.md). -/
def State.reserveOn (d : Nat) (idxs : List Nat) (s0 : State) : State :=
  let (start, s) := s0.choose 192
  if s.lau.acks.contains d || !(s.dev? d).answers then s0 else
  match s.pickCores s.lau d start idxs [] with
  | none => s
  | some cs => { s with lau := { s.lau with acks := s.lau.acks ++ [d], reserved := s.lau.reserved ++ cs.map (fun c => (c.1, d, c.2)) } }

/-- The groups of the checked-out launch that device `d` runs. -/
def State.groupsFor (s : State) (members : List Nat) (d : Nat) : List Nat :=
  (List.range s.lau.groupCount).filter (fun i => !(s.lau.outsideView members i) && s.lau.groupDev s.part members i = d)

/-- Prepare reaches the devices `ds` of the checked-out two-phase launch (R234, R235): a refusal aborts it with status 3; each of the others reserves
and acknowledges as soon as its groups fit. -/
def State.prepareOn (ds members : List Nat) (s : State) : State :=
  if ds.any (s.declines s.lau) then { s with lau := s.lau.finish 3 }
  else ds.foldl (fun s d => s.reserveOn d (s.groupsFor members d)) s

/-- GANG_PREPARE: prepare goes to the members of a Current view, which acknowledge at once or later; without a live context or a live view, or once
the view is no longer current, the launch ends with status 3. -/
def gangPrepares (s : State) : Option State :=
  let l := s.lau
  if l.state ≠ .preparing ∨ l.gang = false then none else
  match s.gangCtx with
  | none => some { s with lau := l.finish 3 }
  | some q =>
    if !(q.views.any View.live) then some { s with lau := l.finish 3 } else
    match (if l.sent then q.view? l.view else q.cur) with
    | some v =>
      if l.sent then some (if v.state = .current then s.prepareOn v.members.dedup v.members else { s with lau := l.finish 3 })
      else whenDue (v.state = .current)
        (State.prepareOn v.members.dedup v.members { s with lau := { l with sent := true, sentAt := s.now, view := v.num } })
    | none => if l.sent then some { s with lau := l.finish 3 } else none

/-- GANG_GO: with every acknowledgement in, the members admit the groups, and the step on the sequence is bound to the view (R266); a view
that has stopped being current aborts the launch with status 3. -/
def gangGoes (s : State) : Option State :=
  let l := s.lau
  if l.state ≠ .preparing ∨ l.gang = false ∨ l.sent = false then none else
  match s.gangCtx.bind (fun q => (q.view? l.view).map (fun v => (q, v))) with
  | none => some { s with lau := l.finish 3 }
  | some (q, v) =>
    if v.state ≠ .current then some { s with lau := l.finish 3 } else
    let step : Step := { lid := l.lid, view := v.num, appended := false, commits := [], failed := false, rebuild := none }
    if !(v.members.all l.acks.contains) then none else
    (s.newMarks l v.members.dedup).map (fun m =>
      (s.dispatch v.members m).updSeq q.id (fun q => { q with steps := q.steps ++ [step] }))

/-- A two-phase launch aborts 100 µs after its prepare without every acknowledgement. -/
def prepareTimesOut (gang : Bool) (s : State) : Option State :=
  let l := s.lau
  whenDue (l.state = .preparing && l.gang = gang && l.sent && decide (l.sentAt + 100000 ≤ s.now)) { s with lau := l.finish 3 }

/-! ## Fabric launches (R235) -/

/-- Devices a fabric launch goes to: those at the indices of its fabric level. -/
def State.fabricDevs (s : State) (l : Launch) : List Nat :=
  ((List.range (((List.range l.levels).find? (fun j => l.domain j = 7)).elim 0 l.extent)).filterMap s.part.fabricDev).dedup

/-- FABRIC_LAUNCH_PREPARE: prepare goes to every device, and those whose groups did not fit try again. -/
def fabricPrepares (s : State) : Option State :=
  let l := s.lau
  let s1 : State := if l.sent then s else { s with lau := { l with sent := true, sentAt := s.now } }
  whenDue (l.state = .preparing && l.isFabric) (s1.prepareOn (s.fabricDevs l) [])

/-- FABRIC_LAUNCH_GO: with every acknowledgement in, every device admits its groups. -/
def fabricGoes (s : State) : Option State :=
  let l := s.lau
  let ds := s.fabricDevs l
  if !(l.state = .preparing && l.isFabric && l.sent && ds.all l.acks.contains) then none
  else (s.newMarks l ds).map (fun m => s.dispatch [] m)

/-- Whether engine jobs or accesses of a launch are under way on a device. -/
def State.busyOn (s : State) (lid : Nat) (dev : Nat) : Bool :=
  s.allCores.any (fun c => c.dev = dev && c.jobs.any (fun j => j.lid = lid))
    || s.inflight.any (fun a => a.lid = lid && (match s.group? a.t.gid with | some g => g.dev = dev | none => true))

/-- Whether the groups of the checked-out launch on a device have all ended; an aborting launch never admits the others (R236). -/
def State.endedOn (s : State) (l : Launch) (dev : Nat) : Bool :=
  (List.range l.groupCount).all (fun i => l.ended.contains i || (l.isFabric && l.groupDev s.part [] i ≠ dev)
    || (l.state = .aborting && !(l.admitted.any (fun a => a.1 = i))))

/-- FABRIC_LAUNCH_REPORT: a device reports its end to the origin. -/
def fabricReports (dev : Nat) (s : State) : Option State :=
  let l := s.lau
  whenDue (l.isFabric && (l.state = .running || l.state = .aborting || l.state = .draining) && (s.fabricDevs l).contains dev
      && !(l.reports.contains dev) && (s.dev? dev).answers && s.dev.answers && s.endedOn l dev && !s.busyOn l.lid dev)
    { s with lau := { l with reports := dev :: l.reports } }

/-! ## The end of a launch (R227, R236, R338) -/

/-- Where the device writes for a launch at a virtual address: `none` where nothing can be written; an error is a fault to be posted first. -/
def State.writePlace (s : State) (va : Nat) (classes : List Nat) : Except Nat (Option Nat) :=
  if va = 0 ∨ 2 ^ 56 ≤ va then .ok none else
  match translateBy s.mem s.part [] va with
  | .miss => .error 1
  | .hostMiss => .error 2
  | .ok x => .ok (if classes.contains x.cls then some x.key else none)
  | _ => .ok none

/-- The valid leaf entries of a table with `n` levels left that maps from virtual address `va` on: address, place and entry. -/
def leafPlaces (mem : List Host.Cell) (dev : Nat) : Nat → Nat → Nat → List (Nat × Nat × Nat)
  | 0, _, _ => []
  | n + 1, tbl, va =>
    (List.range (if n = 0 then 32 else if n = 4 then 256 else 512)).flatMap (fun i =>
      let k := keyOf dev (tbl + 16 * i)
      let e := Mem.nat mem k 16
      let at_ := va + i * 2 ^ levelShift n
      if !Pte.valid e then [] else if bit e 8 then leafPlaces mem dev n (field e 51 9 * 2 ^ 9) at_ else [(at_, k, e)])

/-- The stack pages of a launch that has ended are unmapped on device `d`, and no core keeps a translation of them (R138). -/
def State.dropStacks (l : Launch) (d : Nat) (s : State) : State :=
  let p := s.part? d l.pid
  let top := l.stackBottom l.groupCount 0
  if l.stackBase = 0 || !bit p.ptroot.toNat 0 then s else
  let hits := (leafPlaces s.mem d 5 (field p.ptroot.toNat 51 12 * 2 ^ 12) 0).filter
    (fun x => decide (l.stackBase ≤ x.1) && decide (x.1 < top) && Pte.cls x.2.2 = 4)
  (hits.foldl (fun s x => s.perform x.2.1 (List.replicate 16 0)) s).dropPages d l.pid (l.stackBase / 2 ^ 16) ((top - l.stackBase) / 2 ^ 16)

/-- The checked-out launch leaves the machine: its stack pages are unmapped (R138), its tags wait for the walker, its mailbox or census counts it. -/
def State.removeLaunch (s : State) : State :=
  let l := s.lau
  let s0 := (if l.gang || l.isFabric then l.acks else [l.dev]).foldl (fun s d => s.dropStacks l d) s
  let s1 := l.marks.foldl (fun s m => s.updPart m.1 l.pid (fun p => { p with tags := (m.2.1, l.lid) :: p.tags })) s0
  let s2 := match l.source with
    | .mailbox m _ => { s1 with part := s1.part.mailboxDone m }
    | .responder c _ _ _ => s1.updCensus c (fun c => { c with finished := c.finished + 1 })
    | _ => s1
  let gone := fun (g : Group) => g.lid = l.lid
  { s2 with lau := Launch.none, grp := if gone s2.grp && s2.grp.gid ≠ 0 then Group.none else s2.grp, groups := s2.groups.filter (fun g => !gone g) }

/-- What the device writes at the end of the checked-out launch, in order: done word, completion record, journal, interrupt. -/
def State.endWrites (done comp : Option Nat) (s : State) : State :=
  let l := s.lau
  let s1 := match done with
    | some k => s.syncApply (.mem k) 0 true l.lid
    | none => s
  let rec_ := toBytes 8 l.serial.toNat ++ toBytes 4 l.status ++ toBytes 4 0
  let s2 := match comp with
    | some k => (s1.perform k rec_).clearPoison (rec_.zipIdx.map (fun b => (k + b.2, b.1)))
    | none => s1
  let s3 := State.journalLaunch l (if l.status = 0 then 2 else 3) l.status s2
  match l.source, l.interrupt with
  | .queue q _, true => s3.msixSignal l.dev l.pid q
  | _, _ => s3

/-- Whether a gang launch's failed step is still to be run again (R271). -/
def State.awaitsRerun (s : State) (l : Launch) : Bool :=
  l.gang && (match s.seqCtx l.pid l.seqId with | some q => q.reruns.contains l.lid && q.views.any View.live | none => false)

/-- Whether the last group of the checked-out launch has ended. -/
def State.groupsOver (s : State) (l : Launch) : Bool :=
  (List.range l.groupCount).all (fun i => l.ended.contains i || (l.state = .aborting && !(l.admitted.any (fun a => a.1 = i))))

/-- Whether its engine jobs and accesses are over, every step that its groups bound has ended (R320), and every device of a fabric launch
has reported. -/
def State.launchDrained (s : State) (l : Launch) : Bool :=
  !(s.allCores.any (fun c => c.jobs.any (fun j => j.lid = l.lid))) && !(s.inflight.any (fun a => a.lid = l.lid))
    && !(s.contributions.any (fun c => (s.group? c.t.gid).any (fun g => g.lid = l.lid)))
    && !(s.allDevs.any (fun d => d.seqs.any (fun q => q.steps.any (fun t => t.lid = l.lid))))
    && (!l.isFabric || (s.fabricDevs l).all (fun d => l.reports.contains d))

/-- The end writes of the checked-out completed launch, or a fault where one of its pages is missing. -/
def State.finishLaunch (s : State) : State :=
  let l := s.lau
  let writesDone := l.status = 0 || l.status = 3 || (l.status = 2 && l.failed)
  match (if writesDone then s.writePlace l.doneWord [0, 2, 5] else .ok none), s.writePlace (if l.completion % 16 = 0 then l.completion else 0) [0, 2, 5] with
  | .error k, _ => s.postFault (l.doneWord / 2 ^ 16) k 0xFFFFFFFF
  | _, .error k => s.postFault (l.completion / 2 ^ 16) k 0xFFFFFFFF
  | .ok d, .ok c =>
    let s0 := if d.isSome then s.visit l.doneWord true else s
    ((if c.isSome then s0.visit l.completion true else s0).endWrites d c).removeLaunch

/-- LAUNCH_END: a Running launch whose last group has ended is Draining; once its jobs are over it completes with status 0, or 2 where it
was aborted; a completed launch writes what R227 says and is gone. A stopped device ends none (R334). -/
def launchEnds (s : State) : Option State :=
  let l := s.lau
  if !s.dev.answers then none
  else if l.state = .completed then some s.finishLaunch
  else if !(l.state = .running || l.state = .draining || l.state = .aborting) || !(s.groupsOver l) || s.awaitsRerun l then none
  else if s.launchDrained l then some (State.finishLaunch { s with lau := l.finish (if l.failed then 2 else 0) })
  else whenDue (l.state = .running) { s with lau := { l with state := .draining } }

/-- QUEUE_DOORBELL -/
def execQueueDoorbell (dev pid q : Nat) (tail : Word) (s : State) : Outcome := s.onPart dev pid (ringDoorbell q tail)
/-- QUEUE_ENABLE -/
def execQueueEnable (dev pid q : Nat) (on : Bool) (s : State) : Outcome := s.onPart dev pid (enableQueue q on)
/-- QUEUE_ERROR_CLEAR -/
def execQueueErrorClear (dev pid q : Nat) (s : State) : Outcome := s.onPart dev pid (clearQueueError q)
/-- QUEUE_RESET -/
def execQueueReset (dev pid q : Nat) (s : State) : Outcome := s.onPart dev pid (resetQueue q)
/-- QUEUE_ENTRY_ACCEPT: queue 64 is device firmware's own, whose entry is the record with its argument. -/
def execQueueEntryAccept (dev pid : Nat) (q : LaunchQueue) (s : State) : Outcome :=
  match q with
  | .host q => s.onPart dev pid (acceptEntry q)
  | .own record arg => s.onPart dev pid (acceptOwn record arg)
/-- DEFERRED_LAUNCH_START -/
def execDeferredLaunchStart (dev pid : Nat) (s : State) : Outcome := s.onPart dev pid startDeferred
/-- MAILBOX_OVERFLOW_CLEAR -/
def execMailboxOverflowClear (dev pid m : Nat) (s : State) : Outcome := s.onPart dev pid (clearOverflow m)
/-- DEPENDENCES_PASSED -/
def execDependencesPassed (lid : Nat) (s : State) : Outcome := s.onLaunch lid depsPassed
/-- GANG_PREPARE -/
def execGangPrepare (lid : Nat) (s : State) : Outcome := s.onLaunch lid gangPrepares
/-- GANG_GO -/
def execGangGo (lid : Nat) (s : State) : Outcome := s.onLaunch lid gangGoes
/-- GANG_PREPARE_TIMEOUT -/
def execGangPrepareTimeout (lid : Nat) (s : State) : Outcome := s.onLaunch lid (prepareTimesOut true)
/-- FABRIC_LAUNCH_PREPARE -/
def execFabricLaunchPrepare (lid : Nat) (s : State) : Outcome := s.onLaunch lid fabricPrepares
/-- FABRIC_LAUNCH_GO -/
def execFabricLaunchGo (lid : Nat) (s : State) : Outcome := s.onLaunch lid fabricGoes
/-- FABRIC_LAUNCH_TIMEOUT -/
def execFabricLaunchTimeout (lid : Nat) (s : State) : Outcome := s.onLaunch lid (prepareTimesOut false)
/-- FABRIC_LAUNCH_REPORT -/
def execFabricLaunchReport (lid dev : Nat) (s : State) : Outcome := s.onLaunch lid (fabricReports dev)
/-- LAUNCH_END -/
def execLaunchEnd (lid : Nat) (s : State) : Outcome := s.onLaunch lid launchEnds

end Sys2Proof.Machine
end

