-- ==== Sys2Proof/Machine/EvSeq.lean ====
section
/-!
DEFINITION. Events of sequences, kept by the gang manager: step ends, view changes, transfers, member faults, recompute handlers and
re-runs (19 R263 to R271; 22 R320; 24 R326, R327; 25 R330).
-/
namespace Sys2Proof.Machine
open Sys2Proof Bits Encoding

/-! ## Looking a context up -/

/-- The context of an id, whatever its partition. -/
def State.ctx? (s : State) (id : Word) : Option SeqCtx := (seqHome id).bind (fun d => (s.dev? d).seqs.find? (fun q => q.id = id))

/-- An event on a context: nothing where it does not exist or is not due. -/
def State.onSeq (id : Word) (f : SeqCtx → State → Option State) (s : State) : Outcome :=
  .next (((s.ctx? id).bind (fun q => f q (s.focusPart (field id.toNat 25 16) q.pid))).getD s)

/-- Threads that wait in `stepbeg` for a view of a sequence issue again. -/
def State.retryView (id : Word) (s : State) : State := s.mapThreads (fun t => if t.status = .waiting (.view id) then t.retry s.dev.clk else t)

/-! ## Step ends (R265, R266, R320) -/

/-- Take the step of a launch off a context. -/
def SeqCtx.dropStep (q : SeqCtx) (lid : Nat) : SeqCtx := { q with steps := q.steps.filter (fun t => t.lid ≠ lid) }

/-- STEP_END: every group has ended its part; the pending commits of a step that has not failed are applied. While a content region cannot
take the lines of a block the end waits (notes/assumptions/20.md). -/
def stepEnds (lid : Nat) (q : SeqCtx) (s : State) : Option State :=
  match q.step? lid with
  | none => none
  | some t =>
    if !(s.allParted lid q.id) then none else
    let due := fun (q : SeqCtx) => { (q.dropStep lid).resetLent with policyDue := decide (q.succ = 0) }
    if t.failed then some (s.updSeq q.id due) else
    match s.applyCommits q t with
    | .error _ => none
    | .ok (q1, s1) => some (s1.updSeq q.id (fun _ => due q1))

/-! ## The width policy and prepare (R263 to R265) -/

/-- Threshold doubled, held at 0xFF_FFFF. -/
def doubled (t : Nat) : Nat := min (2 * t) 0xFFFFFF

/-- What the width policy asks for: width, TW and TN. -/
def SeqCtx.policy (q : SeqCtx) (w maxW : Nat) : Option (Nat × Nat × Nat) :=
  if q.tw ≠ 0 ∧ q.tw ≤ q.lenc ∧ w < maxW then some (min (2 * w) maxW, doubled q.tw, doubled q.tn)
  else if q.tn ≠ 0 ∧ q.lenc < q.tn ∧ 1 < w then some ((w + 1) / 2, q.tw / 2, q.tn / 2)
  else none

/-- VIEW_PREPARE: the policy is checked after a step end; the view it asks for is formed Pending. A width that the fabric list cannot fill
forms nothing. -/
def viewPrepares (width : Nat) (q : SeqCtx) (s : State) : Option State :=
  match q.cur with
  | none => none
  | some v =>
    if !(q.policyDue && q.succ = 0 && (v.state = ViewState.current || v.state = ViewState.draining)) then none else
    match q.policy v.members.length (s.seqCls q).maxWidth with
    | none => some (s.updSeq q.id (fun q => { q with policyDue := false }))
    | some (w, tw, tn) =>
      let ms := widthMembers v.members s.part.fabricList w
      if ms.length < w then some (s.updSeq q.id (fun q => { q with policyDue := false }))
      else whenDue (width = w) (s.updSeq q.id (fun q => { q.form ms false [] s.now with tw := tw, tn := tn }))

/-- VIEW_ACKNOWLEDGED: with the last acknowledgement the view enters Transferring, and the snapshot is taken (R268). -/
def viewAcks (num : Word) (member : Nat) (q : SeqCtx) (s : State) : Option State :=
  match q.view? num with
  | none => none
  | some v =>
    let acks := v.acks ++ [member]
    let all := v.members.all (fun m => acks.contains m)
    whenDue (v.state = ViewState.pending && v.members.contains member && !(v.acks.contains member) && (s.dev? member).answers && !(s.dev? member).faulted)
      (s.updSeq q.id (fun q => q.updView num (fun v =>
        if all then { v with acks := acks, state := ViewState.transferring, snapshot := q.lenc } else { v with acks := acks })))

/-- Abandon a view: its predecessor stays as it is, and the references it took are dropped. -/
def State.abandon (q : SeqCtx) (num : Word) (s : State) : State :=
  let s1 := s.settle q.pid (q.views.filter (fun v => v.num = num)) q.cur
  (s1.updSeq q.id (fun q => { q.updView num (fun v => { v with state := ViewState.abandoned, slices := [] }) with succ := 0 })).retryView q.id

/-- VIEW_PREPARE_TIMEOUT: 100 µs without every acknowledgement. -/
def viewTimesOut (num : Word) (q : SeqCtx) (s : State) : Option State :=
  match q.view? num with
  | none => none
  | some v => whenDue (v.state = ViewState.pending && decide (v.sentAt + 100000 ≤ s.now)) (s.abandon q num)

/-! ## Transfer (R268, R269) -/

/-- The slice entries of a block that devices still answering hold, in views that have not ended. -/
def State.copies (s : State) (q : SeqCtx) (blk : Nat) : List (Nat × SliceEntry) :=
  ((q.views.filter (fun v => v.state = ViewState.failed || v.num = q.view)).flatMap View.holdings).filter
    (fun h => h.2.blk = blk && !(s.dev? h.1).faulted)

/-- Whether the copies of a block can be made now: its owner in a view and a holder answer, where it is not there already. -/
def State.reachesBlock (s : State) (q : SeqCtx) (v : View) (blk : Nat) : Bool :=
  let cs := s.copies q blk
  (s.dev? (v.owner blk)).answers && (cs.isEmpty || cs.any (fun h => (s.dev? h.1).answers))

/-- Put a full block at its owner in a view: a copy it holds is kept, else a holder that answers sends the tree; with no copy it is lost. -/
def State.placeBlock (q : SeqCtx) (ids : List Byte) (blk : Nat) (v : View) (s : State) : Except Stop (View × State) :=
  let c := s.seqCls q
  let d := v.owner blk
  if v.lost.contains blk || (v.entry? blk).isSome then .ok (v, s) else
  match (s.copies q blk).find? (fun h => h.1 = d), (s.copies q blk).filter (fun h => (s.dev? h.1).answers) with
  | some (_, e), _ =>
    if e.page = 0 then .ok (v.putEntry e, s) else .ok (v.putEntry { e with page := 0 }, s.refAt d q.pid e.root true)
  | none, [] => .ok ({ v with lost := v.lost ++ [blk] }, s)
  | none, (a, e) :: _ =>
    match s.sendTree a d q.pid c.region e.root with
    | .error st => .error st
    | .ok (root, s1) => .ok (v.putEntry ⟨blk, root, s1.blockHash d q.pid c.block blk ids, 0⟩, s1)

/-- Place blocks in turn. -/
def placeBlocks (q : SeqCtx) (ids : List Byte) : List Nat → View → State → Except Stop (View × State)
  | [], v, s => .ok (v, s)
  | b :: bs, v, s =>
    match s.placeBlock q ids b v with
    | .error st => .error st
    | .ok (v1, s1) => placeBlocks q ids bs v1 s1

/-- Owner of a block in the view that was current. -/
def SeqCtx.oldOwner (q : SeqCtx) (blk : Nat) : Option Nat := q.cur.map (fun v => v.owner blk)

/-- A partial block whose owner has faulted is lost with its committed tokens (R270). -/
def State.tailLost (s : State) (q : SeqCtx) (v : View) : View :=
  let b := (s.seqCls q).block
  let blk := q.lenc / b
  if v.survivor && q.lenc % b ≠ 0 && (q.oldOwner blk).any (fun d => (s.dev? d).faulted) && !(v.lost.contains blk) then { v with lost := v.lost ++ [blk] } else v

/-- SNAPSHOT_TRANSFER_COMPLETE: with `blk` one block below the snapshot has come to its owner in the successor (Table 19.5, step t2); without, the
rest have, every full block below the snapshot is at its owner, and a Current predecessor is Draining; a receiver that is full abandons the view. -/
def snapshotDone (num : Word) (blk : Option Nat) (q : SeqCtx) (s : State) : Option State :=
  match q.view? num with
  | none => none
  | some v =>
    let n := v.snapshot / (s.seqCls q).block
    let blocks := match blk with | some b => if b < n then [b] else [] | none => List.range n
    if !(v.state = ViewState.transferring && !v.transferred && q.succ = num && blocks.all (s.reachesBlock q v)) then none else
    match placeBlocks q (s.seqIds q) blocks v s with
    | .error _ => some (s.abandon q num)
    | .ok (v1, s1) =>
      if blk.isSome then some (s1.updSeq q.id (fun q => q.updView num (fun _ => v1))) else
      let v2 := { s1.tailLost q v1 with transferred := true }
      let drain := fun (w : View) => if w.num = v.pred && w.state = ViewState.current then { w with state := ViewState.draining } else w
      some ((s1.updSeq q.id (fun q => { q.updView num (fun _ => v2) with views := (q.updView num (fun _ => v2)).views.map drain })).retryView q.id)

/-- Copy the tail bytes of every block at or above floor(LENC / B) to its owner in the successor; a block without an entry in the flat memory reads
as zeros at both. -/
def State.moveTails (q : SeqCtx) (v : View) (s : State) : State :=
  let c := s.seqCls q
  let first := q.lenc / c.block
  (s.tailBlocks q.id first).foldl (fun s b =>
    match q.oldOwner b with
    | some a => if (s.dev? a).faulted then s else s.copyTail a (v.owner b) q.id q.id b (c.block * c.bytes)
    | none => s) s

/-- A successor whose predecessor has retired or failed, with its catch-up and every rebuild complete, is Current; what the ended views
hold beside it is released (Table 19.3, R269). -/
def State.promoteSeq (id : Word) (s : State) : State :=
  match s.ctx? id with
  | none => s
  | some q =>
    match q.next with
    | none => s
    | some v =>
      let gone := fun (w : View) => w.state = ViewState.failed || w.state = ViewState.retired
      let ready := v.state = ViewState.transferring && v.transferred && v.caughtUp && v.lost.isEmpty && v.run.isNone
        && (match q.view? v.pred with | some w => gone w | none => true)
      if !ready then s else
      let s1 := s.settle q.pid (q.views.filter gone) (some v)
      let up := fun (w : View) => if w.num = v.num then { w with state := ViewState.current } else if gone w then { w with slices := [] } else w
      (s1.updSeq id (fun q => { q with views := q.views.map up, view := v.num, succ := 0 })).retryView id

/-- CATCH_UP: with no open step on the old view, the blocks committed since the snapshot and the tail bytes move. -/
def catchesUp (num : Word) (q : SeqCtx) (s : State) : Option State :=
  match q.view? num, q.cur with
  | some v, some old =>
    let b := (s.seqCls q).block
    let blocks := ((List.range (q.lenc / b)).filter (fun i => decide (v.snapshot / b ≤ i)))
    if !(v.state = ViewState.transferring && v.transferred && !v.caughtUp && q.succ = num
        && (old.state = ViewState.failed || (old.state = ViewState.draining && q.openOn old.num = 0))
        && v.members.all (fun m => (s.dev? m).answers) && blocks.all (s.reachesBlock q v)) then none else
    match placeBlocks q (s.seqIds q) blocks v s with
    | .error _ => some (s.abandon q num)
    | .ok (v1, s1) => some (((s1.moveTails q v1).updSeq q.id (fun q => q.updView num (fun _ => { v1 with caughtUp := true }))).promoteSeq q.id)
  | _, _ => none

/-- VIEW_RETIRE: a Draining view with no open step retires after the successor's catch-up, and the successor is Current. -/
def viewRetires (num : Word) (q : SeqCtx) (s : State) : Option State :=
  match q.view? num, q.next with
  | some v, some w =>
    whenDue (v.state = ViewState.draining && q.openOn num = 0 && w.caughtUp)
      ((s.updSeq q.id (fun q => q.updView num (fun v => { v with state := ViewState.retired }))).promoteSeq q.id)
  | _, _ => none

/-! ## Faults (R269, R235) -/

/-- A context homed on a lost device: the surviving members release their slices, and each logs condition 0x15. -/
def State.loseContext (s : State) (q : SeqCtx) : State :=
  let ms := ((q.views.filter View.live).flatMap View.members).dedup.filter (fun m => !(s.dev? m).faulted)
  ms.foldl (fun s m => s.report m q.pid 0x15 ⟨4, 0⟩ q.id) ((s.destroySeq q).retryView q.id)

/-- Groups of launches of other devices that ran on a lost device count as ended; a fabric launch that the device took part in, whether or not its
groups there have ended, aborts with status 2 and condition 0x11 on its origin (R235). -/
def State.loseGroups (dev : Nat) (s : State) (l : Launch) : State :=
  let went := l.state = .dispatching || l.state = .running || l.state = .draining || l.state = .aborting
  let mine := fun (g : Group) => g.gid ≠ 0 && g.lid = l.lid && g.dev = dev
  let gids := (s.allGroups.filter mine).map Group.gid
  let idxs := (s.allGroups.filter (fun g => mine g && g.shadow = 0)).map Group.idx
  let part := l.isFabric && went && l.acks.contains dev
  if l.lid = 0 ∨ l.dev = dev ∨ (gids.isEmpty = true ∧ part = false) then s else
  let drop := fun (t : Thread) => gids.contains t.key.gid
  let end_ := fun (l : Launch) =>
    let l1 := { l with ended := idxs ++ l.ended, reports := if part && !(l.reports.contains dev) then dev :: l.reports else l.reports }
    if part then { l1 with failed := true, state := if l.state = .dispatching || l.state = .running then .aborting else l.state } else l1
  let s1 := (s.updLaunch l.lid end_).mapCores (fun c => if c.dev = dev then { c with jobs := c.jobs.filter (fun j => j.lid ≠ l.lid) } else c)
  let s2 : State := { s1 with thr := if drop s1.thr then Thread.none else s1.thr, threads := s1.threads.filter (fun t => !drop t),
                              grp := if mine s1.grp then Group.none else s1.grp, groups := s1.groups.filter (fun g => !mine g),
                              issueQ := s1.issueQ.filter (fun q => !(gids.contains q.1.gid)) }
  if part then s2.report l.dev l.pid 0x11 ⟨4, 0⟩ l.number else s2

/-- A device has faulted for every view it belongs to. -/
def State.faultDevice (dev : Nat) (s : State) : State :=
  let homed := (s.dev? dev).seqs
  let mark := fun (i : CkImage) => if i.dev = dev then { i with marked := true } else i
  let s1 := { s.updDev dev (fun d => { d with faulted := true }) with images := s.images.map mark }
  let s2 := homed.foldl State.loseContext s1
  let hit := (s2.allDevs.flatMap Device.seqs).filter (fun q => q.views.any (fun v => v.live && v.members.contains dev))
  let s3 := hit.foldl (fun s q => (s.failSeq q.id (fun m => (s1.dev? m).faulted) []).retryView q.id) s2
  (s3.allLaunches).foldl (State.loseGroups dev) s3

/-- MEMBER_FAULT: a device leaves the fabric or reports a fatal error. -/
def memberFaults (dev : Nat) (s : State) : Option State := whenDue (!(s.dev? dev).faulted) (s.faultDevice dev)

/-- LIVENESS_PROBE_TIMEOUT: a device that does not answer misses its probe; a swapped partition is answered for (R314). -/
def probeTimesOut (dev : Nat) (s : State) : Option State := whenDue (!(s.dev? dev).faulted && !(s.dev? dev).answers) (s.faultDevice dev)

/-! ## Rebuilding lost blocks (R270, R327) -/

/-- The first run of consecutive lost blocks, at most 4,096. -/
def firstRun (lost : List Nat) : Option (Nat × Nat) :=
  match lost with
  | [] => none
  | x :: xs =>
    let f := xs.foldl min x
    some (f, ((List.range 4096).find? (fun n => !(lost.contains (f + n)))).getD 4096)

/-- Member indices that own a block of a run, rising. -/
def View.runOwners (v : View) (first count : Nat) : List Nat :=
  (List.range v.members.length).filter (fun i => (List.range count).any (fun n => (first + n) % v.members.length = i && v.lost.contains (first + n)))

/-- Whether the part of a run that a member owns is rebuilt. -/
def View.partRebuilt (v : View) (r : Rebuild) (i : Nat) : Bool :=
  !((List.range r.count).any (fun n => (r.first + n) % v.members.length = i && v.lost.contains (r.first + n)))

/-- Submit the recompute handler of a run on a member: its launch, 0 where the record is rejected (R222 to R224, R327). -/
def State.submitHandler (q : SeqCtx) (r : Rebuild) (m : Nat) (s : State) : Nat × State :=
  let cls := s.seqCls q
  let s1 := s.focusPart m q.pid
  let arg : DWord := BitVec.ofNat 64 (q.id.toNat + (r.first + (r.count - 1) * 2 ^ 20) * 2 ^ 32)
  match s1.readRecord cls.recov.toNat with
  | none => (0, s1)
  | some bs =>
    let l := Launch.submitted m q.pid bs arg (.recompute q.id r.first r.count)
    if !l.recordOk s1.part none || l.gang then (0, s1)
    else if s1.deviceLaunches m q.pid ≥ 4096 then
      let (id, s2) := s1.freshId
      (id, { s2 with launches := putLaunch { l with lid := id } s2.launches })
    else (s1.nextId, s1.acceptLaunch l (field (l.fld 16 4) 3 0))

/-- Every view of the sequence ends Failed, with condition 0x15 (R270). -/
def State.endViews (q : SeqCtx) (s : State) : State :=
  ((s.updSeq q.id SeqCtx.fail).report (field q.id.toNat 25 16) q.pid 0x15 ⟨4, 0⟩ q.id).retryView q.id

/-- Launch the handler for the first member of a run that is not rebuilt; a rejected record is a failed handler. -/
def State.launchRun (q : SeqCtx) (num : Word) (r : Rebuild) (s : State) : State :=
  match q.view? num with
  | none => s
  | some v =>
    let (lid, s1) := s.submitHandler q r (v.members.getD (r.todo.headD 0) 0)
    if lid = 0 ∧ r.failedOnce = true then s1.endViews q
    else s1.updSeq q.id (fun q => q.updView num (fun v => { v with run := some { r with lid := lid, failedOnce := r.failedOnce || lid = 0 } }))

/-- RECOMPUTE_HANDLER_LAUNCH: with every kept copy in place, the handler is launched for the next member or run once the previous launch
has completed; one that failed is launched once more, and a second failure ends the views. -/
def recompute (q : SeqCtx) (s : State) : Option State :=
  match q.next with
  | none => none
  | some v =>
    if !(v.survivor && v.state = ViewState.transferring && v.transferred && v.caughtUp) then none else
    match v.run with
    | none =>
      match firstRun v.lost with
      | none => none
      | some (f, n) => some (s.launchRun q v.num { first := f, count := n, todo := v.runOwners f n, lid := 0, failedOnce := false })
    | some r =>
      if (s.launch? r.lid).isSome && r.lid ≠ 0 then none
      else if !(v.partRebuilt r (r.todo.headD 0)) then
        if r.lid = 0 then some (s.launchRun q v.num r)
        else if r.failedOnce then some (s.endViews q)
        else some (s.launchRun q v.num { r with failedOnce := true })
      else match r.todo.drop 1 with
        | [] => some ((s.updSeq q.id (fun q => q.updView v.num (fun v => { v with run := none }))).promoteSeq q.id)
        | rest => some (s.launchRun q v.num { r with todo := rest, failedOnce := false })

/-! ## Re-runs (R271, R326) -/

/-- GANG_RERUN: with the survivor view Current and the failed attempt over, the same record is launched again under the same number; what
the command writes at its end it writes once. -/
def gangReruns (s : State) : Option State :=
  let l := s.lau
  match s.seqCtx l.pid l.seqId with
  | none => none
  | some q =>
    let again := { l with lid := s.nextId, state := .preparing, status := 0, marks := [], admitted := [], ended := [], failed := false, acks := [],
                          sent := false, sentAt := 0, view := 0xFFFFFFFF, reports := [], rerun := true }
    let s1 : State := { s with nextId := s.nextId + 1, lau := { l with source := .firmware } }
    let s2 := s1.removeLaunch
    whenDue (l.gang && q.reruns.contains l.lid && (q.cur.any (fun v => v.state = ViewState.current)) && s.groupsOver l && s.launchDrained l)
      (State.updSeq q.id (fun q => { q with reruns := q.reruns.filter (fun x => x ≠ l.lid) }) { s2 with launches := putLaunch again s2.launches })

/-! ## Refused prepares (R234, R235, R264) -/

/-- PREPARE_REFUSAL: a gang or fabric launch aborts with status 3, or a view is Abandoned and its predecessor stays as it is. -/
def prepareRefused (lid : Nat) (seq num : Word) (dev : Nat) (s : State) : Option State :=
  if lid ≠ 0 then
    match s.launch? lid with
    | none => none
    | some l =>
      let s1 := s.focusPart l.dev l.pid
      whenDue (l.state = .preparing && l.sent && (if l.gang then (s1.viewMembers l.seqId l.view).contains dev else (s1.fabricDevs l).contains dev))
        (s1.updLaunch lid (fun l => l.finish 3))
  else
    match s.ctx? seq with
    | none => none
    | some q =>
      match q.view? num with
      | none => none
      | some v => whenDue ((v.state = ViewState.pending || v.state = ViewState.transferring) && v.members.contains dev)
          (s.abandon q num)

/-- STEP_END -/
def execStepEnd (seq : Word) (lid : Nat) (s : State) : Outcome := s.onSeq seq (stepEnds lid)
/-- VIEW_PREPARE -/
def execViewPrepare (seq : Word) (width : Nat) (s : State) : Outcome := s.onSeq seq (viewPrepares width)
/-- VIEW_ACKNOWLEDGED -/
def execViewAcknowledged (seq num : Word) (member : Nat) (s : State) : Outcome := s.onSeq seq (viewAcks num member)
/-- VIEW_PREPARE_TIMEOUT -/
def execViewPrepareTimeout (seq num : Word) (s : State) : Outcome := s.onSeq seq (viewTimesOut num)
/-- SNAPSHOT_TRANSFER_COMPLETE -/
def execSnapshotTransferComplete (seq : Word) (part : SnapshotPart) (s : State) : Outcome :=
  match part with
  | .block num blk => s.onSeq seq (snapshotDone num (some blk))
  | .rest num => s.onSeq seq (snapshotDone num none)
/-- CATCH_UP -/
def execCatchUp (seq num : Word) (s : State) : Outcome := s.onSeq seq (catchesUp num)
/-- VIEW_RETIRE -/
def execViewRetire (seq num : Word) (s : State) : Outcome := s.onSeq seq (viewRetires num)
/-- MEMBER_FAULT -/
def execMemberFault (dev : Nat) (s : State) : Outcome := .next ((memberFaults dev s).getD s)
/-- LIVENESS_PROBE_TIMEOUT -/
def execLivenessProbeTimeout (dev : Nat) (s : State) : Outcome := .next ((probeTimesOut dev s).getD s)
/-- RECOMPUTE_HANDLER_LAUNCH -/
def execRecomputeHandlerLaunch (seq : Word) (s : State) : Outcome := s.onSeq seq recompute
/-- GANG_RERUN -/
def execGangRerun (lid : Nat) (s : State) : Outcome := s.onLaunch lid gangReruns
/-- PREPARE_REFUSAL -/
def execPrepareRefusal (lid : Nat) (seq num : Word) (dev : Nat) (s : State) : Outcome := .next ((prepareRefused lid seq num dev s).getD s)

end Sys2Proof.Machine
end

