-- ==== Sys2Proof/Machine/EvDevice.lean ====
section
/-!
DEFINITION. Events of a whole device: errors, fatal stop, power loss, boot, power control, attestation, links, checkpoint and restore
(25 R330, R333, R334, R340, R341; 26 R342 to R348).
-/
namespace Sys2Proof.Machine
open Sys2Proof Bits

/-! ## Errors (R330, R331, R334) -/

/-- ECC_CORRECTED: nothing but the report; with no partition affected it is the PF's, and no unit but those of Table 25.2 is reported. -/
def eccReported (u : ErrUnit) (pid : Option Nat) (s : State) : Option State :=
  whenDue (s.dev.answers && ErrUnit.legal u && decide (pid.getD 0 < 32)) (s.report s.dev.num (pid.getD 0) 0x01 u 0)

/-- HBM stack of a physical address (R135). -/
def stackOf (pa : Nat) : Nat := (homeSlice pa).1

/-- PATROL_SCRUB: an HBM line of 64 bytes is visited; a corrected error is reported, an uncorrectable one poisons the sector. -/
def scrub (line : Nat) (found : ScrubResult) (s : State) : Option State :=
  let sec := keyOf s.dev.num (64 * line) / 64
  match found with
  | .clean => some s
  | .corrected => eccReported ⟨2, stackOf (64 * line)⟩ none s
  | .uncorrectable => whenDue s.dev.answers { s with poison := if s.poison.contains sec then s.poison else sec :: s.poison }

/-- A log without the records of the cycle in which record `r` of a fatal condition is detected: it supersedes them (R330). -/
def Part.superseded (p : Part) (r : ErrRecord) : Part :=
  let kept := p.errors.filter (fun x => !(x.cycle = r.cycle && x.time = r.time))
  { p with errors := kept, elhead := p.elhead - BitVec.ofNat 32 (p.errors.length - kept.length) }

/-- Trained PCIe ports of a device (R334, R346). -/
def pciePorts (dev : Nat) : List Nat := if Config.iod1Trained dev then [0, 1] else [0]

/-- Stop a device on a fatal condition (R334): ERR_FATAL leaves it on every trained port, and then nothing more; the record is kept in SRAM. -/
def State.fatalStop (dev : Nat) (s : State) : State :=
  let r := s.newError dev 0x30 ⟨4, 0⟩ 0
  let s1 := (pciePorts dev).foldl (fun s p => s.emit dev (.errFatal dev p)) s
  let s2 := s1.mapParts (fun p => if p.dev = dev then p.superseded r else p)
  (s2.updPart dev 0 (fun p => { p with aerUnc := true })).updDev dev (fun d => { d with stopped := true, fatal := some r })

/-- FATAL_ERROR -/
def fatalStops (s : State) : Option State := whenDue (!s.dev.stopped) (s.fatalStop s.dev.num)

/-! ## Losing what a device holds (R334, R342) -/

/-- Whether a key of memory is of a device: its physical memory, or tail memory there. -/
def keyOn (dev k : Nat) : Bool := if 2 ^ 80 ≤ k then (k - 2 ^ 80) / 2 ^ 68 = dev else devOf k = dev

/-- Take launches `lids` and their groups `gids` out of the machine. -/
def State.removeLaunches (lids gids : List Nat) (s : State) : State :=
  let g := fun (k : ThreadKey) => gids.contains k.gid
  let core := fun (c : Core) =>
    let c1 := gids.foldl Core.freeGroup c
    { c1 with jobs := c1.jobs.filter (fun j => !(lids.contains j.lid)) }
  let s1 := s.mapCores core
  { s1 with
    thr := if g s1.thr.key then Thread.none else s1.thr, threads := s1.threads.filter (fun t => !(g t.key)),
    grp := if gids.contains s1.grp.gid then Group.none else s1.grp, groups := s1.groups.filter (fun x => !(gids.contains x.gid)),
    lau := if lids.contains s1.lau.lid then Launch.none else s1.lau, launches := s1.launches.filter (fun l => !(lids.contains l.lid)),
    issueQ := s1.issueQ.filter (fun q => !(g q.1)), inflight := s1.inflight.filter (fun a => !(g a.t)),
    tickets := s1.tickets.filter (fun t => !(g t.t)), contributions := s1.contributions.filter (fun c => !(g c.t)),
    locks := s1.locks.filter (fun l => !(g l.2)) }

/-- Everything that runs or waits on a device is gone: its groups, its launches with their groups on any device, cores, partitions and what they had
under way. -/
def State.clearDevice (dev : Nat) (s : State) : State :=
  let lids := (s.allLaunches.filter (fun l => l.lid ≠ 0 && l.dev = dev)).map Launch.lid
  let gids := (s.allGroups.filter (fun g => g.gid ≠ 0 && (g.dev = dev || lids.contains g.lid))).map Group.gid
  let s1 := ((s.allLaunches).foldl (State.loseGroups dev) s).removeLaunches lids gids
  { s1 with
    core := if s1.core.dev = dev then Core.fresh dev s1.core.num else s1.core, cores := s1.cores.filter (fun c => c.dev ≠ dev),
    part := if s1.part.dev = dev then Part.fresh dev s1.part.pid else s1.part, parts := s1.parts.filter (fun p => p.dev ≠ dev),
    tickets := s1.tickets.filter (fun t => t.dev ≠ dev), censuses := s1.censuses.filter (fun c => c.dev ≠ dev),
    stamps := s1.stamps.filter (fun p => !(keyOn dev (64 * p.1))), stampOwner := s1.stampOwner.filter (fun p => !(keyOn dev (64 * p.1))),
    attrs := s1.attrs.filter (fun p => !(keyOn dev p.1)), held := s1.held.filter (fun p => !(keyOn dev p.1)),
    promoted := s1.promoted.filter (fun p => !(keyOn dev (p.page * 2 ^ 16))) }

/-- A device after a conventional reset: what is fused and what lies outside it stays. -/
def Device.resetOf (d : Device) : Device :=
  { Device.fresh d.num with module_ := d.module_, pwrcap := if d.module_ then 2200 else 1200, pwrcapNext := none, flash := d.flash,
                            minVersion := d.minVersion, faulted := d.faulted, targets := [] }

/-- New keys and seeds for every partition of a device (R241, R335): the next draws. -/
def State.rekey (dev : Nat) (s : State) : State :=
  (List.range 32).foldl (fun s p =>
    let n := s.drawn
    ({ s with drawn := n + 1 } : State).updPart dev p (fun q => { q with ka := Config.keyDraw (2 ^ 20 + n) 0, kb := Config.keyDraw (2 ^ 20 + n) 1, seed := Config.seedDraw (2 ^ 20 + n) })) s

/-- POWER_LOSS: the device keeps nothing, the fatal record included. -/
def losePower (s : State) : Option State :=
  let dev := s.dev.num
  let s1 := s.clearDevice dev
  let d := { s.dev.resetOf with fatal := none, unpowered := true, startAt := s.now }
  some ({ s1.updDev dev (fun _ => d) with mem := s1.mem.filter (fun c => !(keyOn dev c.1)), poison := s1.poison.filter (fun k => !(keyOn dev (64 * k))) })

/-! ## Measured boot (R342) -/

/-- The image of a boot stage: a staged update, else what the device was provisioned with. -/
def Device.image (d : Device) (i : Nat) : Image := (lookup i d.flash).getD ⟨Config.firmware d.num i, Config.firmwareVersion d.num i, true⟩

/-- Cause for which a stage does not run: 3 unreadable, 1 signature, 2 version. -/
def Device.stageCause (d : Device) (i : Nat) : Nat :=
  let m := d.image i
  if !m.readable then 3
  else if !(Config.signaturesVerify i m.bytes) then 1
  else if decide (m.version < max d.minVersion (Config.fusedMinimum d.num)) then 2 else 0

/-- Run the firmware stages in order: each is measured, then checked; the first that fails stops boot. -/
def Device.bootStages (d : Device) : List Nat → Device
  | [] => { d with ready := true }
  | i :: rest =>
    let cause := d.stageCause i
    let d1 := if cause = 3 then d else { d with measures := d.measures ++ [(i, Config.sha512 (d.image i).bytes)] }
    if cause = 0 then Device.bootStages d1 rest else { d1 with bootStage := i, bootCause := cause }

/-- Boot: blocks 1 and 5 are as fused; 2 to 4 are checked. -/
def Device.boot (d : Device) : Device :=
  let d1 := { d with measures := [(1, Config.sha512 (d.image 1).bytes)] }
  let d2 := d1.bootStages [2, 3, 4]
  if d2.ready then { d2 with measures := d2.measures ++ [(5, Config.sha512 (d.image 5).bytes)] } else d2

/-- MEASURED_BOOT: a conventional reset clears the device but its memory, and boot runs; a fatal record kept in SRAM becomes the first of
the PF log. -/
def boots (s : State) : Option State :=
  let dev := s.dev.num
  let s1 := (s.clearDevice dev).rekey dev
  let d := { (s.dev.resetOf).boot with startAt := s.now }
  let s2 := s1.updDev dev (fun _ => d)
  some (match s.dev.fatal with
    | some r => s2.updPart dev 0 (fun p => p.logError r)
    | none => s2)

/-- CONFIGURATION_REQUEST: answered with Request Retry Status until BOOTSTAT is ready or boot has stopped; a write of the Resizable BAR control sizes
BAR2, from 2^30 to 2^39 bytes (R309), and the data of the configuration space are open (notes/assumptions/5.md). -/
def configures (pid : Nat) (bar2 : Option Nat) (s : State) : Option State :=
  let d := s.dev
  let (v, s1) := s.free 32
  whenDue (d.answers && decide (pid < 32))
    (if !d.ready && d.bootCause = 0 then s.emit d.num (.completion d.num pid 2 0) else
     match bar2 with
     | some n => (s.updPart d.num pid (fun p => { p with bar2 := if 30 ≤ n ∧ n ≤ 39 then n else p.bar2 })).emit d.num (.completion d.num pid 0 0)
     | none => s1.emit d.num (.completion d.num pid 0 v.toNat))

/-- FABRIC_LINKS_TRAINED: by the fabric agent of a booted device; its peers answer for it again. -/
def linksTrained (s : State) : Option State :=
  whenDue (s.dev.ready && !s.dev.trained) { s with dev := { s.dev with trained := true, faulted := false } }

/-! ## Power and cooling (R347) -/

/-- The clock after an interval: 25 MHz down to 800 while a limit is exceeded, else up to 1,900. -/
def nextClock (mhz : Nat) (hot : Bool) : Nat := if hot then max 800 (mhz - 25) else min 1900 (mhz + 25)

/-- POWER_CONTROL_INTERVAL: power and temperatures of the interval are inputs. -/
def powerInterval (watts die hbm : Nat) (s : State) : Option State :=
  let d := s.dev
  let cap := d.pwrcapNext.getD d.pwrcap
  let hot := decide (cap < watts) || decide (95 < die) || decide (95 < hbm)
  let d1 := { d with pwrcap := cap, pwrcapNext := none, pwrnow := watts % 4096, thermDie := die % 256, thermHbm := hbm % 256, throttling := hot,
                     mhz := nextClock d.mhz hot, refresh2 := decide (95 < hbm), thrcnt := if hot && d.thrcnt ≠ 0xFFFFFFFF then d.thrcnt + 1 else d.thrcnt }
  let s1 : State := { s with dev := d1 }
  some (if 110 ≤ die ∨ 110 ≤ hbm then
      (if d.stopped then s1 else s1.fatalStop d.num).updDev d.num (fun d => { d with unpowered := true })
    else s1)

/-! ## Attestation (R343, R344) -/

/-- Session of a function. -/
def Device.session (d : Device) (pid : Nat) : Spdm := (lookup pid d.spdm).getD ⟨0, [], none⟩

/-- SPDM 1.3 codes (DSP0274; the manual names the messages alone: notes/assumptions/21.md). -/
def spdmError : Nat := 0x7F
/-- Error code UnexpectedRequest. -/
def spdmUnexpected : Nat := 0x04
/-- Error code InvalidRequest. -/
def spdmInvalid : Nat := 0x01

/-- Answer a request of a function with a code and payload, and leave its session as given. -/
def State.spdmAnswer (pid code : Nat) (payload : List Byte) (x : Spdm) (s : State) : State :=
  { s with dev := { s.dev with spdm := Bits.insert pid x s.dev.spdm }, out := .spdm s.dev.num pid code payload :: s.out }

/-- Answer with an error; a signed response is no longer the last. -/
def State.spdmRefuse (pid err : Nat) (s : State) : State :=
  s.spdmAnswer pid spdmError [BitVec.ofNat 8 err] { s.dev.session pid with signed := none }

/-- Bytes of a message in the transcript: version 1.3, its code, its payload. -/
def spdmBytes (code : Nat) (payload : List Byte) : List Byte := [0x13, BitVec.ofNat 8 code] ++ payload

/-- Append a request and its response to a session's transcript. -/
def Spdm.add (x : Spdm) (req : Nat) (reqPayload : List Byte) (code : Nat) (payload : List Byte) : Spdm :=
  { x with transcript := x.transcript ++ spdmBytes req reqPayload ++ spdmBytes code payload, signed := none }

/-- An unsigned exchange, legal once algorithms are negotiated. -/
def State.spdmPlain (pid req : Nat) (reqPayload : List Byte) (code : Nat) (payload : List Byte) (s : State) : State :=
  let x := s.dev.session pid
  if x.stage ≠ 3 then s.spdmRefuse pid spdmUnexpected
  else s.spdmAnswer pid code payload (x.add req reqPayload code payload)

/-- A signed exchange: the Ed25519 alias signature over the SHA-512 of the transcript ends the response (R343, R344). -/
def State.spdmSigned (pid req : Nat) (reqPayload : List Byte) (code : Nat) (payload : List Byte) (s : State) : State :=
  let x := s.dev.session pid
  if x.stage ≠ 3 then s.spdmRefuse pid spdmUnexpected else
  let y := x.add req reqPayload code payload
  let h := Config.sha512 y.transcript
  s.spdmAnswer pid code (payload ++ Config.sign 0 s.dev.num h) { y with transcript := [], signed := some h }

/-- Bytes that the responder draws or is provisioned with, where R344 states no value. -/
def State.spdmOpen (n : Nat) (s : State) : List Byte × State :=
  ((List.range n).map (fun i => Config.spdmByte (s.drawn + i)), { s with drawn := s.drawn + n })

/-- The functions of a device that has booted answer, while it is not stopped. -/
def State.spdmUp (s : State) (pid : Nat) : Bool := s.dev.ready && !s.dev.stopped && decide (pid < 32)

/-- GET_VERSION: SPDM 1.3 alone; a new exchange begins. -/
def versionAsked (pid : Nat) (s : State) : Option State :=
  let payload : List Byte := [0, 1, 0, 0x13]
  whenDue (s.spdmUp pid) (s.spdmAnswer pid 0x04 payload { stage := 1, transcript := spdmBytes 0x84 [] ++ spdmBytes 0x04 payload, signed := none })

/-- GET_CAPABILITIES -/
def capabilitiesAsked (pid : Nat) (s : State) : Option State :=
  let x := s.dev.session pid
  let (payload, s1) := s.spdmOpen 18
  whenDue (s.spdmUp pid)
    (if x.stage ≠ 1 then s.spdmRefuse pid spdmUnexpected
     else s1.spdmAnswer pid 0x61 payload { x.add 0xE1 [] 0x61 payload with stage := 2 })

/-- NEGOTIATE_ALGORITHMS: only SHA-512 (bit 2) and EdDSA Ed25519 (bit 9) are selected. -/
def algorithmsAsked (pid : Nat) (hashes asyms : List Nat) (s : State) : Option State :=
  let x := s.dev.session pid
  let payload : List Byte := Bits.toBytes 4 (2 ^ 9) ++ Bits.toBytes 4 (2 ^ 2)
  let asked := (hashes ++ asyms).flatMap (fun n => Bits.toBytes 4 n)
  whenDue (s.spdmUp pid)
    (if x.stage ≠ 2 then s.spdmRefuse pid spdmUnexpected
     else if !(hashes.contains 2 && asyms.contains 9) then s.spdmRefuse pid spdmInvalid
     else s.spdmAnswer pid 0x63 payload { x.add 0xE3 asked 0x63 payload with stage := 3 })

/-- GET_DIGESTS: the digests of the two certificate chains. -/
def digestsAsked (pid : Nat) (s : State) : Option State :=
  let payload := Config.sha512 (Config.certificate s.dev.num 0) ++ Config.sha512 (Config.certificate s.dev.num 1)
  whenDue (s.spdmUp pid) (s.spdmPlain pid 0x81 [] 0x01 payload)

/-- GET_CERTIFICATE: slot 0 holds the Ed25519 chain and slot 1 the ML-DSA-65 chain (R343). -/
def certificateAsked (pid slot off len : Nat) (s : State) : Option State :=
  let payload := ((Config.certificate s.dev.num slot).drop off).take len
  whenDue (s.spdmUp pid)
    (if 1 < slot then s.spdmRefuse pid spdmInvalid
     else s.spdmPlain pid 0x82 (Bits.toBytes 1 slot ++ Bits.toBytes 2 off ++ Bits.toBytes 2 len) 0x02 payload)

/-- Measurement blocks as bytes: index and digest. -/
def measureBytes (ms : List (Nat × List Byte)) : List Byte := ms.flatMap (fun m => Bits.toBytes 1 m.1 ++ m.2)

/-- CHALLENGE: signed with slot 0. -/
def challenged (pid slot : Nat) (nonce : List Byte) (s : State) : Option State :=
  let (own, s1) := s.spdmOpen 32
  let payload := Config.sha512 (Config.certificate s.dev.num 0) ++ own ++ Config.sha512 (measureBytes s.dev.measures)
  whenDue (s.spdmUp pid)
    (if slot ≠ 0 then s.spdmRefuse pid spdmInvalid else s1.spdmSigned pid 0x83 (Bits.toBytes 1 slot ++ nonce) 0x03 payload)

/-- GET_MEASUREMENTS: index 0 asks for the number of blocks, 0xFF for all of them, 1 to 5 for one; every function reports the same. -/
def measurementsAsked (pid index : Nat) (signed : Bool) (nonce : List Byte) (s : State) : Option State :=
  let ms := if index = 0xFF then s.dev.measures else s.dev.measures.filter (fun m => m.1 = index)
  let (own, s1) := s.spdmOpen 32
  let body := if index = 0 then Bits.toBytes 1 s.dev.measures.length else measureBytes ms
  whenDue (s.spdmUp pid)
    (if index ≠ 0 ∧ ms.isEmpty = true then s.spdmRefuse pid spdmInvalid
     else if signed then s1.spdmSigned pid 0xE0 (Bits.toBytes 1 index ++ nonce) 0x60 (body ++ own)
     else s.spdmPlain pid 0xE0 (Bits.toBytes 1 index) 0x60 body)

/-- VENDOR_DEFINED_REQUEST: right after a signed response, vendor 0x1F4E code 0x01 returns the ML-DSA-65 signature over the same transcript
hash; from anywhere else it is unexpected. -/
def vendorAsked (pid vendor code : Nat) (s : State) : Option State :=
  let x := s.dev.session pid
  whenDue (s.spdmUp pid)
    (match (if vendor = 0x1F4E ∧ code = 1 then x.signed else none) with
     | some h => s.spdmAnswer pid 0x7E (Config.sign 1 s.dev.num h) { x with signed := none }
     | none => s.spdmRefuse pid spdmUnexpected)

/-- ECC_CORRECTED -/
def execEccCorrected (dev : Nat) (u : ErrUnit) (pid : Option Nat) (s : State) : Outcome := s.onDev dev (eccReported u pid)
/-- PATROL_SCRUB -/
def execPatrolScrub (dev line : Nat) (found : ScrubResult) (s : State) : Outcome := s.onDev dev (scrub line found)
/-- FATAL_ERROR -/
def execFatalError (dev : Nat) (s : State) : Outcome := s.onDev dev fatalStops
/-- POWER_LOSS -/
def execPowerLoss (dev : Nat) (s : State) : Outcome := s.onDev dev losePower
/-- MEASURED_BOOT -/
def execMeasuredBoot (dev : Nat) (s : State) : Outcome := s.onDev dev boots
/-- CONFIGURATION_REQUEST -/
def execConfigurationRequest (dev : Nat) (target : ConfigTarget) (s : State) : Outcome := s.onDev dev (configures target.pid target.bar2)
/-- FABRIC_LINKS_TRAINED -/
def execFabricLinksTrained (dev : Nat) (s : State) : Outcome := s.onDev dev linksTrained
/-- POWER_CONTROL_INTERVAL -/
def execPowerControlInterval (dev watts die hbm : Nat) (s : State) : Outcome := s.onDev dev (powerInterval watts die hbm)
/-- GET_VERSION -/
def execGetVersion (dev pid : Nat) (s : State) : Outcome := s.onDev dev (versionAsked pid)
/-- GET_CAPABILITIES -/
def execGetCapabilities (dev pid : Nat) (s : State) : Outcome := s.onDev dev (capabilitiesAsked pid)
/-- NEGOTIATE_ALGORITHMS -/
def execNegotiateAlgorithms (dev pid : Nat) (hashes asyms : List Nat) (s : State) : Outcome := s.onDev dev (algorithmsAsked pid hashes asyms)
/-- GET_DIGESTS -/
def execGetDigests (dev pid : Nat) (s : State) : Outcome := s.onDev dev (digestsAsked pid)
/-- GET_CERTIFICATE -/
def execGetCertificate (dev pid slot off len : Nat) (s : State) : Outcome := s.onDev dev (certificateAsked pid slot off len)
/-- CHALLENGE -/
def execChallenge (dev pid slot : Nat) (nonce : List Byte) (s : State) : Outcome := s.onDev dev (challenged pid slot nonce)
/-- GET_MEASUREMENTS -/
def execGetMeasurements (dev pid index : Nat) (signed : Bool) (nonce : List Byte) (s : State) : Outcome := s.onDev dev (measurementsAsked pid index signed nonce)
/-- VENDOR_DEFINED_REQUEST -/
def execVendorDefinedRequest (dev pid vendor code : Nat) (s : State) : Outcome := s.onDev dev (vendorAsked pid vendor code)

end Sys2Proof.Machine
end

