-- ==== Sys2Proof/Machine/EvPartition.lean ====
section
/-!
DEFINITION. Events of a partition: reset, numeric-behaviour version, swap out and in, errors in its state (21 R309, R314, R315, R319;
17 R241; 25 R330).
-/
namespace Sys2Proof.Machine
open Sys2Proof Bits

/-! ## Swap (R314) -/

/-- Change PSTAT of the checked-out partition: vector 66 (R313). -/
def State.setPstat (v : Nat) (s : State) : State :=
  ({ s with part := { s.part with pstat := v } } : State).msixSignal s.part.dev s.part.pid 66

/-- Halt the checked-out partition: each resident group is pre-empted at its next boundary. -/
def State.haltPart (s : State) : State :=
  let gids := s.partGids
  let s1 := s.mapGroups (fun g => if gids.contains g.gid && g.resident && g.shadow = 0 then { g with preempt := true } else g)
  State.setPstat 1 { s1 with part := { s1.part with haltAt := s.now } }

/-- PARTITION_SWAP_OUT: ignored unless the partition runs. -/
def swapOut (s : State) : Option State := whenDue (s.part.pstat = 0 && !s.part.broken && s.dev.answers) s.haltPart

/-- Act on what a halted partition recorded. -/
def State.actOn (s : State) : Recorded → State
  | .doorbell q tail => s.setQueue q ((s.part.queue q).ring tail)
  | .mailbox m addr => s.mailboxLaunch m addr
  | .faultReply page decline => s.faultReply page decline

/-- PARTITION_SWAP_IN: ignored unless the partition is swapped out; groups suspended mid-phase are Queued at the level they have, those that were
Queued keep their level and their time in Queued (R232), and what was recorded is acted on in order. -/
def swapIn (s : State) : Option State :=
  let p := s.part
  let gids := s.partGids
  let again := fun (g : Group) => if gids.contains g.gid && g.phase = .suspended then { g with phase := .queued, queuedAt := s.now } else g
  let s1 := State.setPstat 0 (State.setPstat 4 (s.mapGroups again))
  whenDue (p.pstat = 3 && !p.broken && s.dev.answers)
    (p.recorded.foldl State.actOn { s1 with part := { s1.part with recorded := [] } })

/-- Suspend a running resident group mid-phase, wherever it stands. -/
def State.suspendNow (s : State) (gid : Nat) : State :=
  match s.focusGroup gid with
  | some s1 => if s1.grp.resident && s1.grp.phase = .running then s1.suspendGroup.coreChanged else s
  | none => s

/-- Drop the audit of a group's phase, which then commits without one. -/
def State.dropAuditNow (s : State) (gid : Nat) : State :=
  match s.focusGroup gid with
  | some s1 => if s1.grp.phase = .audited then s1.dropAudit gid else s
  | none => s

/-- SWAP_HALT_TIMEOUT: groups without a boundary 20 µs after the halt are pre-empted mid-phase; one whose phase is under audit commits unaudited
(notes/assumptions/32.md). -/
def haltTimesOut (s : State) : Option State :=
  let p := s.part
  let s1 := (s.partGids.foldl State.dropAuditNow s).focusPart p.dev p.pid
  whenDue (p.pstat = 1 && decide (p.haltAt + 20000 ≤ s.now)) ((s1.partGids.foldl State.suspendNow s1).focusPart p.dev p.pid)

/-- Save everything that a queued group holds on its core. -/
def State.saveQueued (s : State) (gid : Nat) : State :=
  match s.focusGroup gid with
  | some s1 =>
    if s1.grp.placed && s1.grp.slots.isEmpty then
      let s2 := s1.saveGroup true
      { s2 with grp := { s2.grp with placed := false } }
    else s
  | none => s

/-- Whether every core of the checked-out partition is halted: none of its groups is resident, and none waits for a store to let go of its pair (R182). -/
def State.halted (s : State) : Bool := s.allGroups.all (fun g => !(s.partGids.contains g.gid) || (!g.resident && g.phase ≠ .rollingBack))

/-- PARTITION_SAVE_COMPLETE: saving starts once every core is halted, and ends with the partition swapped. -/
def saveCompletes (s : State) : Option State :=
  let p := s.part
  if p.pstat = 1 then whenDue s.halted (State.setPstat 2 ((s.partGids.foldl State.saveQueued s).focusPart p.dev p.pid))
  else whenDue (p.pstat = 2) (s.setPstat 3)

/-! ## Reset (R315) -/

/-- A partition's state after a reset: what its functions keep outside it stays, and its key and seed are drawn anew (R241, R335). -/
def Part.renewed (p : Part) (n : Nat) : Part :=
  { p with pstat := 0, nbv := 2, ptroot := 0, audctl := 10, audMis := 0, audDrop := 0, seed := Config.seedDraw (2 ^ 20 + n),
           ka := Config.keyDraw (2 ^ 20 + n) 0, kb := Config.keyDraw (2 ^ 20 + n) 1, faults := [], queues := [], mailboxes := [], regions := [],
           lines := [], prefixes := [], classes := [], journal := [], jhead := 1, launchNo := 0x80000000, tags := [], haltAt := 0,
           recorded := [], broken := false, censusNo := [] }

/-- What is written for a discarded launch of the checked-out partition: its completion record and interrupt, no done word. -/
def State.discardWrites (s : State) (l : Launch) : State :=
  let st := if l.state = .completed then l.status else 2
  let bs := toBytes 8 l.serial.toNat ++ toBytes 4 st ++ toBytes 4 0
  let s1 := match s.writePlace (if l.completion % 16 = 0 then l.completion else 0) [0, 2, 5] with
    | .ok (some k) => (s.perform k bs).clearPoison (bs.zipIdx.map (fun b => (k + b.2, b.1)))
    | _ => s
  match l.source, l.interrupt with
  | .queue q _, true => s1.msixSignal l.dev l.pid q
  | _, _ => s1

/-- A core without what it holds of a partition: directory, last census numbers, cached lines. -/
def Core.forget (c : Core) (pid : Nat) : Core :=
  { c with dirs := c.dirs.filter (fun e => e.pid ≠ pid), seen := c.seen.filter (fun x => x.1 / 4 ≠ pid), lcache := c.lcache.filter (fun l => l.pid ≠ pid) }

/-- Take a context with its views out, and let threads that wait for it go on. -/
def State.dropSeq (s : State) (q : SeqCtx) : State := (s.destroySeq q).retryView q.id

/-- Reset the checked-out partition (R315). Its launches and their groups end, and groups that launches of other devices run here count as
ended. -/
def State.resetPart (s : State) : State :=
  let dev := s.part.dev
  let pid := s.part.pid
  let mine := s.allLaunches.filter (fun l => l.lid ≠ 0 && l.dev = dev && l.pid = pid)
  let lids := mine.map Launch.lid
  let gids := (s.allGroups.filter (fun g => g.gid ≠ 0 && lids.contains g.lid)).map Group.gid
  let s1 := (mine.foldl State.discardWrites s).removeLaunches lids gids
  let s2 := (s1.allLaunches.filter (fun l => l.pid = pid)).foldl (State.loseGroups dev) s1
  let s3 := ((s2.dev? dev).seqs.filter (fun q => q.pid = pid)).foldl State.dropSeq s2
  let s4 := s3.mapCores (fun c => if c.dev = dev then c.forget pid else c)
  let own := fun (p : Nat × DWord) => s4.ownsStamp dev pid p
  let s5 := { s4 with stamps := s4.stamps.filter (fun p => !own p), stampOwner := s4.stampOwner.filter (fun p => p.2 ≠ (dev, pid)),
                      censuses := s4.censuses.filter (fun c => !(c.dev = dev && c.pid = pid)),
                      drawn := s4.drawn + 1 }
  (s5.updPart dev pid (fun p => p.renewed s4.drawn)).focusPart dev pid

/-- PRESET: PSTAT reads 5 until the reset has finished, which is before the next step; each change signals vector 66. -/
def resetsPart (s : State) : Option State :=
  whenDue s.dev.answers (State.setPstat 0 (State.setPstat 5 s).resetPart)

/-- NBVSET: 1 and 2 alone are taken. -/
def setsNbv (v : Word) (s : State) : Option State :=
  whenDue (v.toNat % 4 = 1 || v.toNat % 4 = 2) { s with part := { s.part with nbv := v.toNat % 4 } }

/-- PARTITION_STATE_ERROR: the partition halts, and only PRESET restarts it (R330). -/
def State.breakPart (s : State) : State :=
  let s1 := s.report s.part.dev s.part.pid 0x20 ⟨4, 0⟩ 0
  { s1 with part := { s1.part with broken := true } }

/-- PRESET -/
def execPreset (dev pid : Nat) (s : State) : Outcome := s.onPart dev pid resetsPart
/-- NBVSET -/
def execNbvset (dev pid : Nat) (v : Word) (s : State) : Outcome := s.onPart dev pid (setsNbv v)
/-- PARTITION_SWAP_OUT -/
def execPartitionSwapOut (dev pid : Nat) (s : State) : Outcome := s.onPart dev pid swapOut
/-- PARTITION_SWAP_IN -/
def execPartitionSwapIn (dev pid : Nat) (s : State) : Outcome := s.onPart dev pid swapIn
/-- SWAP_HALT_TIMEOUT -/
def execSwapHaltTimeout (dev pid : Nat) (s : State) : Outcome := s.onPart dev pid haltTimesOut
/-- PARTITION_SAVE_COMPLETE -/
def execPartitionSaveComplete (dev pid : Nat) (s : State) : Outcome := s.onPart dev pid saveCompletes
/-- PARTITION_STATE_ERROR -/
def execPartitionStateError (dev pid : Nat) (s : State) : Outcome := s.onPart dev pid (fun s => some s.breakPart)

end Sys2Proof.Machine
end

