-- ==== Sys2Proof/Machine/EvCheckpoint.lean ====
section
/-!
DEFINITION. Events of checkpoint and restore (25 R340, R341).
-/
namespace Sys2Proof.Machine
open Sys2Proof Bits

/-- A checkpoint or restore ends as failed, with a cause; what it has not verified stays so. -/
def State.ckFail (cause : Nat) (s : State) : State := { s with dev := { s.dev with ckState := 4, ckCause := cause, ckTarget := none } }

/-- Bytes of an image: 513.125 GiB. -/
def ckBytes : Nat := 4105 * 2 ^ 27

/-- The registration of a target at the checked-out device: capacity and rate. -/
def Device.targetOf (d : Device) (target : Nat) : Option (Nat × Nat) := (d.targets.find? (fun t => t.1 = target)).map Prod.snd

/-- A checkpoint is quiescing or transferring. -/
def Device.ckRuns (d : Device) : Bool := d.ckState = 1 || d.ckState = 2

/-- Halt every running partition of a device. -/
def State.haltAll (dev : Nat) (s : State) : State :=
  (List.range 32).foldl (fun s pid =>
    let s1 := s.focusPart dev pid
    if s1.part.pstat = 0 && !s1.part.broken then s1.haltPart else s1) s

/-- CHECKPOINT: quiescing begins, or the request fails: cause 3 while one runs, which goes on; cause 1 without a target large enough. -/
def checkpoints (target : Nat) (s : State) : Option State :=
  let d := s.dev
  whenDue d.answers
    (if d.ckRuns then { s with dev := { d with ckCause := 3 } }
     else match d.targetOf target with
       | none => s.ckFail 1
       | some (cap, _) =>
         if cap < ckBytes then s.ckFail 1
         else State.haltAll d.num { s with dev := { d with ckState := 1, ckCause := 0, ckTarget := some target, ckDone := 0 } })

/-- Whether a device has come to rest: every partition is saved, and no engine job or access is under way. -/
def State.quiet (s : State) (dev : Nat) : Bool :=
  (List.range 32).all (fun pid => let p := s.part? dev pid; p.pstat = 3 || p.broken)
    && !(s.allCores.any (fun c => c.dev = dev && !c.jobs.isEmpty))
    && !(s.inflight.any (fun a => a.dst = dev || (s.group? a.t.gid).any (fun g => g.dev = dev)))
    && !(s.tickets.any (fun k => k.dev = dev || (s.group? k.t.gid).any (fun g => g.dev = dev)))
    && !(s.contributions.any (fun c => (s.group? c.t.gid).any (fun g => g.dev = dev)))

/-- The image of the checked-out device. -/
def State.takeImage (s : State) (target : Nat) : CkImage :=
  let dev := s.dev.num
  let here := fun (g : Group) => g.gid ≠ 0 && g.dev = dev
  let gids := (s.allGroups.filter here).map Group.gid
  { dev := dev, target := target, marked := false, pages := s.mem.filter (fun c => keyOn dev c.1),
    stamps := s.stamps.filter (fun p => keyOn dev (64 * p.1)), owners := s.stampOwner.filter (fun p => keyOn dev (64 * p.1)),
    attrs := s.attrs.filter (fun p => keyOn dev p.1), held := s.held.filter (fun p => keyOn dev p.1),
    poison := s.poison.filter (fun p => keyOn dev (64 * p)), device := s.dev, parts := s.allParts.filter (fun p => p.dev = dev),
    cores := s.allCores.filter (fun c => c.dev = dev), groups := s.allGroups.filter here,
    threads := s.allThreads.filter (fun t => gids.contains t.key.gid), launches := s.allLaunches.filter (fun l => l.lid ≠ 0 && l.dev = dev),
    censuses := s.censuses.filter (fun c => c.dev = dev) }

/-- CHECKPOINT_COMPLETE: from quiescing to transferring once the device is at rest; then the image is on its target, which replaces an
earlier one of the device there, CKSTAT reads 3, and vector 66 of the PF signals. -/
def checkpointEnds (s : State) : Option State :=
  let d := s.dev
  match d.ckTarget with
  | none => none
  | some target =>
    if d.ckState = 1 then whenDue (s.quiet d.num) { s with dev := { d with ckState := 2 } }
    else
      let i := s.takeImage target
      let s1 := { s with images := i :: s.images.filter (fun j => !(j.dev = d.num && j.target = target)),
                         dev := { d with ckState := 3, ckTarget := none, ckDone := 513 } }
      whenDue (d.ckState = 2) (s1.msixSignal d.num 0 66)

/-- Whether a page of a device that was restored from an image still has a block to be checked (R341). -/
def State.unverified (s : State) (dev : Nat) : Bool :=
  s.promoted.any (fun p => devOf (p.page * 2 ^ 16) = dev && p.source ≠ 0 && !((List.range 16).all p.checked.contains))

/-- CHECKPOINT_TARGET_LOST: its registration is gone; a checkpoint to it, and a restore from it with pages still to be verified, fail with cause 2. -/
def targetLost (s : State) : Option State :=
  let d := s.dev
  match d.ckTarget with
  | none => none
  | some target => whenDue (d.ckRuns || (d.ckState = 3 && s.unverified d.num))
      (State.ckFail 2 { s with dev := { d with targets := d.targets.filter (fun t => t.1 ≠ target) } })

/-- CHECKPOINT_TARGET_REGISTRATION: the device holds up to 4; a further registration of a target replaces its own. -/
def registers (target capacity rate : Nat) (s : State) : Option State :=
  let others := s.dev.targets.filter (fun t => t.1 ≠ target)
  whenDue (decide (others.length < 4) && s.dev.answers) { s with dev := { s.dev with targets := others ++ [(target, capacity, rate)] } }

/-! ## Restore (R341) -/

/-- The leaf entries of a partition's tables that map the device's own memory: place and entry. -/
def ownLeaves (mem : List Host.Cell) (p : Part) : List (Nat × Nat) :=
  if bit p.ptroot.toNat 0 then
    ((leafPlaces mem p.dev 5 (field p.ptroot.toNat 51 12 * 2 ^ 12) 0).filter (fun x => !(Pte.bad x.2.2) && !(Pte.host x.2.2) && Pte.cls x.2.2 ≠ 2)).map Prod.snd
  else []

/-- Set the tagged bit of a leaf entry. -/
def tagLeaf (mem : List Host.Cell) (k : Nat) : List Host.Cell := Mem.write mem k (toBytes 16 (Mem.nat mem k 16 ||| 2 ^ 4))

/-- Set the tagged bit of every leaf of a partition's tables. -/
def tagPart (mem : List Host.Cell) (p : Part) : List Host.Cell := (ownLeaves mem p).foldl (fun mem x => tagLeaf mem x.1) mem

/-- The 64 KiB pages that the leaves of a partition map. -/
def mappedPages (mem : List Host.Cell) (p : Part) : List Nat :=
  (ownLeaves mem p).flatMap (fun x =>
    (List.range (2 ^ (Pte.shift x.2 - 16))).map (fun i => keyOf p.dev (Pte.frame x.2 * 2 ^ 16) / 2 ^ 16 + i))

/-- The integrity records of a restored image: every 64 KiB page of HBM in which the image lists a byte or that a leaf maps, with its place in the
image and the tags of its blocks, those of the page tables as the restore leaves them (R337, R340, R341). -/
def CkImage.promote (i : CkImage) (mem : List Host.Cell) : List Promoted :=
  let listed := (i.pages.filter (fun c => decide (c.1 < 2 ^ 80))).map (fun c => c.1 / 2 ^ 16)
  ((listed ++ i.parts.flatMap (mappedPages mem)).dedup).map (fun p =>
    { page := p, source := 4096 + 2 ^ 27 + (p % 2 ^ 36) * (2 ^ 16 + 128),
      tags := (List.range 16).map (fun b => crc64 (Mem.read mem (p * 2 ^ 16 + 4096 * b) 4096)), checked := [], bad := [], refetch := false })

/-- The checked-out device as an image left it: memory and every object, no translation being cached; its partitions are swapped out, which signals
vector 66 of each that was not (R313). The target is kept until every page is verified. -/
def State.putImage (i : CkImage) (s : State) : State :=
  let dev := i.dev
  let s1 := s.clearDevice dev
  let parts := i.parts.map (fun p => { p with pstat := 3 })
  let mem := Mem.writeCells (s1.mem.filter (fun c => !(keyOn dev c.1))) i.pages
  let mem1 := parts.foldl tagPart mem
  let d := { s.dev with seqs := i.device.seqs, pages := i.device.pages, handles := i.device.handles, reductions := i.device.reductions,
                        ckState := 3, ckCause := 0, ckTarget := some i.target, ckDone := 513 }
  let s2 := { s1 with
    mem := mem1, poison := s1.poison.filter (fun p => !(keyOn dev (64 * p))) ++ i.poison,
    stamps := i.stamps.foldl (fun l p => Bits.insert p.1 p.2 l) s1.stamps, stampOwner := i.owners.foldl (fun l p => Bits.insert p.1 p.2 l) s1.stampOwner,
    attrs := i.attrs.foldl (fun l p => Bits.insert p.1 p.2 l) s1.attrs, held := i.held.foldl (fun l p => Bits.insert p.1 p.2 l) s1.held,
    promoted := s1.promoted ++ i.promote mem1, censuses := s1.censuses ++ i.censuses,
    threads := i.threads.foldr putThread s1.threads, groups := i.groups.foldr putGroup s1.groups, launches := i.launches.foldr putLaunch s1.launches }
  let s3 := parts.foldl (fun (s : State) p => s.updPart dev p.pid (fun _ => p)) s2
  let s4 := i.cores.foldl (fun (s : State) c => s.updCore dev c.num (fun _ => { c with tlb := [], faultBuf := [] })) s3
  let moved := parts.filter (fun p => (s.part? dev p.pid).pstat ≠ 3)
  moved.foldl (fun s p => s.msixSignal dev p.pid 66) { s4 with dev := d }

/-- RESTORE: cause 1 without the target, 3 while a checkpoint runs, 4 where the target holds no image that this device wrote or its header or sealed
section fails to verify; a context of an image whose writer was marked faulted since is checked against its members. -/
def restores (target : Nat) (verifies : Bool) (s : State) : Option State :=
  let d := s.dev
  whenDue d.answers
    (if d.ckRuns then { s with dev := { d with ckCause := 3 } }
     else if (d.targetOf target).isNone then s.ckFail 1
     else match s.images.find? (fun i => verifies && i.target = target && i.dev = d.num) with
       | none => s.ckFail 4
       | some i =>
         let s1 := s.putImage i
         if i.marked then i.device.seqs.foldl (fun s q => (s.failSeq q.id (fun m => m = d.num) []).retryView q.id) s1 else s1)

/-- CHECKPOINT -/
def execCheckpoint (dev target : Nat) (s : State) : Outcome := s.onDev dev (checkpoints target)
/-- RESTORE -/
def execRestore (dev : Nat) (source : RestoreSource) (s : State) : Outcome := s.onDev dev (restores source.target source.verifies)
/-- CHECKPOINT_TARGET_REGISTRATION -/
def execCheckpointTargetRegistration (dev target capacity rate : Nat) (s : State) : Outcome := s.onDev dev (registers target capacity rate)
/-- CHECKPOINT_COMPLETE -/
def execCheckpointComplete (dev : Nat) (s : State) : Outcome := s.onDev dev checkpointEnds
/-- CHECKPOINT_TARGET_LOST -/
def execCheckpointTargetLost (dev : Nat) (s : State) : Outcome := s.onDev dev targetLost

end Sys2Proof.Machine
end

