-- ==== Sys2Proof/Machine/EvWindow.lean ====
section
/-!
DEFINITION. The partition register window and the memory window (21 R309, R310, R312, R313; 16 R226, R230; 17 R237, R252; 19 R262;
25 R333, R339, R340; 26 R345, R347).
-/
namespace Sys2Proof.Machine
open Sys2Proof Bits

/-! ## Journal and error log (Tables 25.2, 25.3, 25.5) -/

/-- Four little-endian words of a byte string, as one list. -/
def regWords (bs : List Byte) : List Word := (List.range (bs.length / 4)).map (fun i => wordAt bs (4 * i))

/-- The 32 bytes of a journal entry. -/
def JournalEntry.bytes (e : JournalEntry) : List Byte :=
  toBytes 4 e.seqno.toNat ++ toBytes 4 (e.state * 2 ^ 28 + e.status * 2 ^ 24 + e.number * 2 ^ 8 + ofBool e.mailbox)
    ++ toBytes 8 e.command.toNat ++ toBytes 8 e.serial.toNat ++ toBytes 8 e.time.toNat

/-- The journal entry that JSEL names. -/
def Part.namedEntry (p : Part) : Option JournalEntry := p.journal.find? (fun e => e.seqno = p.jsel)

/-- JSTAT: valid, repaired, lost. -/
def Part.jstat (p : Part) : Word :=
  match p.namedEntry with
  | none => 0
  | some e => BitVec.ofNat 32 (1 + 2 * ofBool (e.bad0 != e.bad1) + 4 * ofBool (e.bad0 && e.bad1))

/-- Word `i` of JDATA: zero where both copies are unreadable. -/
def Part.jdata (p : Part) (i : Nat) : Word :=
  match p.namedEntry with
  | none => 0
  | some e => if e.bad0 && e.bad1 then 0 else (regWords e.bytes).getD i 0

/-- A JSEL write: the two copies of the entry are read, and whether each can be is a free choice (R339); a copy found bad before has been
written again from the other (Table 25.1). -/
def State.selectEntry (v : Word) (s : State) : State :=
  let heal := fun (e : JournalEntry) => if e.bad0 != e.bad1 then { e with bad0 := false, bad1 := false } else e
  let p := { s.part with jsel := v, journal := s.part.journal.map heal }
  let s1 := { s with part := p }
  match p.namedEntry with
  | none => s1
  | some e =>
    if e.bad0 && e.bad1 then s1.breakPart else
    let (c, s2) := s1.choose 4
    let put := fun (x : JournalEntry) => if x.seqno = e.seqno then { x with bad0 := decide (c % 2 = 1), bad1 := decide (2 ≤ c) } else x
    let s3 := { s2 with part := { s2.part with journal := s2.part.journal.map put } }
    if c = 0 then s3
    else if c = 3 then s3.breakPart
    else
      let (stack, s4) := s3.free 3
      s4.report p.dev p.pid 0x03 ⟨2, stack.toNat⟩ 0

/-- The 16 bytes of an error record. -/
def ErrRecord.bytes (r : ErrRecord) : List Byte :=
  toBytes 4 (r.cls * 2 ^ 24 + r.code * 2 ^ 16 + r.unitKind * 2 ^ 12 + r.unit) ++ toBytes 4 r.context.toNat ++ toBytes 8 r.time.toNat

/-- The error record that ELSEL names: records are numbered from 0, and the 1,024 newest are kept. -/
def Part.namedRecord (p : Part) : Option ErrRecord := p.errors[(p.elhead - 1 - p.elsel).toNat]?

/-! ## Reading the window (Tables 21.2, 21.3, 25.3, 26.2) -/

/-- Half `h` of a 64-bit register. -/
def half (d : DWord) (h : Nat) : Word := if h = 0 then loWord d.toNat else hiWord d.toNat

/-- Bits of a list of numbers in word `j`. -/
def bitsIn (l : List Nat) (j : Nat) : Word := l.foldl (fun (w : Word) c => if c / 32 = j then w ||| BitVec.twoPow 32 (c % 32) else w) 0

/-- Control registers below 0x100. -/
def State.readControl (s : State) (off : Nat) : Word :=
  let p := s.part
  let d := s.dev
  let pf := fun (w : Word) => if p.pid = 0 then w else 0
  if off = 0x00 then BitVec.ofNat 32 ((if p.pid = 0 then 2 ^ 31 else 0) + p.pid)
  else if off = 0x04 then BitVec.ofNat 32 p.pstat
  else if off = 0x0C then BitVec.ofNat 32 p.nbv
  else if off = 0x10 ∨ off = 0x14 then half p.ptroot ((off - 0x10) / 4)
  else if off = 0x18 then p.pasid
  else if off = 0x1C then BitVec.ofNat 32 (ofBool p.tlbinv)
  else if off = 0x20 ∨ off = 0x24 then half p.winbase ((off - 0x20) / 4)
  else if off = 0x38 then BitVec.ofNat 32 p.audctl
  else if off = 0x3C then BitVec.ofNat 32 (p.audMis * 2 ^ 16 + p.audDrop)
  else if off = 0x40 then p.jhead
  else if off = 0x44 then p.jsel
  else if off = 0x48 then p.jstat
  else if 0x50 ≤ off ∧ off < 0x70 then p.jdata ((off - 0x50) / 4)
  else if off = 0x80 then p.elhead
  else if off = 0x84 then p.elsel
  else if off = 0x88 then BitVec.ofNat 32 (ofBool p.namedRecord.isSome)
  else if 0x90 ≤ off ∧ off < 0xA0 then ((p.namedRecord.map ErrRecord.bytes).map regWords |>.getD []).getD ((off - 0x90) / 4) 0
  else if off = 0xA4 then pf (BitVec.ofNat 32 (d.ckCause * 2 ^ 8 + d.ckState))
  else if off = 0xA8 then pf d.ckDone
  else if 0xC0 ≤ off ∧ off < 0xD8 then
    pf (bitsIn ((s.allCores.filter (fun c => c.dev = d.num && c.quarantined)).map Core.num) ((off - 0xC0) / 4))
  else if off = 0xE0 then pf (BitVec.ofNat 32 ((if d.ready then 2 ^ 31 else 0) + d.bootStage * 2 ^ 8 + d.bootCause))
  else if off = 0xE4 then pf (BitVec.ofNat 32 (d.pwrcapNext.getD d.pwrcap))
  else if off = 0xE8 then pf (BitVec.ofNat 32 d.pwrnow)
  else if off = 0xEC then pf (BitVec.ofNat 32 ((if d.throttling then 2 ^ 16 else 0) + d.thermHbm * 2 ^ 8 + d.thermDie))
  else if off = 0xF0 then pf d.thrcnt
  else 0

/-- A mailbox's registers; those after reset are zero. -/
def Part.mailbox (p : Part) (m : Nat) : Mailbox := (lookup m p.mailboxes).getD ⟨0, 0, 0, 0, []⟩

/-- Word at offset `o` of queue `q` (Table 16.3): QTAIL reads the head count. -/
def Queue.word (x : Queue) (o : Nat) : Word := if o < 8 then half x.base (o / 4) else if o = 8 then x.ctl else x.head
/-- Word at offset `o` of a mailbox (R230). -/
def Mailbox.word (b : Mailbox) (o : Nat) : Word :=
  if o < 8 then half b.base (o / 4) else if o = 8 then b.extent else if o = 12 then b.ctl else if o < 24 then half b.record ((o - 16) / 4) else 0
/-- Word at offset `o` of region `r` (Table 17.1). -/
def Part.regionWord (p : Part) (r o : Nat) : Word :=
  let x := p.region r
  if o < 8 then half x.base (o / 4) else if o = 8 then x.lines else if o = 12 then x.ctl else if o = 16 then BitVec.ofNat 32 (p.used r) else 0
/-- Word at offset `o` of a sequence class (Table 19.2). -/
def SeqClass.word (c : SeqClass) (o : Nat) : Word :=
  if o = 0 then c.ctl else if o = 4 then c.entry else if o = 8 then c.tw else if o = 12 then c.tn else if o < 24 then half c.recov ((o - 16) / 4) else 0

/-- READ of the register at a 4-aligned offset of the checked-out partition's window (R310): what the map does not assign reads zero. -/
def State.readRegister (s : State) (off : Nat) : Word :=
  let p := s.part
  if off % 4 ≠ 0 then 0
  else if off < 0x100 then s.readControl off
  else if off = 0x100 ∨ off = 0x104 then half p.fqbase ((off - 0x100) / 4)
  else if off = 0x108 then p.fqctl
  else if off = 0x10C then p.fqhead
  else if off = 0x110 then p.fqtail
  else if off = 0x118 then p.fqreply
  else if 0x800 ≤ off ∧ off < 0xC00 then (p.queue ((off - 0x800) / 16)).word (off % 16)
  else if 0x2000 ≤ off ∧ off < 0x4000 then (p.mailbox ((off - 0x2000) / 32)).word (off % 32)
  else if 0x4000 ≤ off ∧ off < 0x4200 then p.regionWord ((off - 0x4000) / 32) (off % 32)
  else if 0x4200 ≤ off ∧ off < 0x4300 then
    (if off % 16 = 0 ∧ (p.table ((off - 0x4200) / 16)).enabled = true then 0x80000000 else 0)
  else if 0x4400 ≤ off ∧ off < 0x4600 then (p.seqClass ((off - 0x4400) / 32)).word (off % 32)
  else if 0x5000 ≤ off ∧ off < 0x5800 then
    let i := (off - 0x5000) / 2
    ((lookup (i + 1) p.fabric).getD 0) ++ ((lookup i p.fabric).getD 0)
  else if 0x8000 ≤ off ∧ off < 0x8430 then p.msixWord ((off - 0x8000) / 4)
  else if 0x9000 ≤ off ∧ off < 0x9010 then bitsIn p.pba ((off - 0x9000) / 4)
  else 0

/-! ## Writing the window -/

/-- A 64-bit register with half `h` written. -/
def setHalf (d : DWord) (h : Nat) (v : Word) : DWord :=
  BitVec.ofNat 64 (if h = 0 then d.toNat / 2 ^ 32 * 2 ^ 32 + v.toNat else v.toNat * 2 ^ 32 + d.toNat % 2 ^ 32)

/-- The checked-out partition has a launch that has not finished. -/
def State.launching (s : State) : Bool := s.allLaunches.any (fun l => l.lid ≠ 0 && l.dev = s.part.dev && l.pid = s.part.pid)

/-- Put the checked-out partition. -/
def State.withPart (f : Part → Part) (s : State) : State := { s with part := f s.part }

/-- An event of a row of its own that the write stands for: nothing where it is not due. -/
def State.also (f : State → Option State) (s : State) : State := (f s).getD s

/-- A PSWAP write of the PF: bit 8 swaps partition `v` bits 4:0 out, bit 9 in. -/
def State.writeSwap (v : Word) (s : State) : State :=
  let dev := s.part.dev
  let s1 := s.focusPart dev (v.toNat % 32)
  let s2 := if v.getLsbD 8 then s1.also swapOut else s1
  (if v.getLsbD 9 then s2.also swapIn else s2).focusPart dev 0

/-- Control registers below 0x100; whether an image's header and sealed section verify is a free choice where CKCTL asks for the restore; read-only and unassigned ones take nothing, and those of the PF take nothing in a VF window. -/
def State.writeControl (off : Nat) (v : Word) (s : State) : State :=
  let p := s.part
  let pf := p.pid = 0
  if off = 0x08 then (if v.getLsbD 0 then s.also resetsPart else s)
  else if off = 0x0C then s.also (setsNbv v)
  else if off = 0x10 ∨ off = 0x14 then
    (if s.launching then s else s.withPart (fun p => { p with ptroot := setHalf p.ptroot ((off - 0x10) / 4) (v &&& (if off = 0x10 then 0xFFFFF001 else 0x000FFFFF)) }))
  else if off = 0x18 then (if s.launching then s else s.withPart (fun p => { p with pasid := v &&& 0x800FFFFF }))
  else if off = 0x1C then (if v.getLsbD 0 && !p.tlbinv then s.withPart (fun p => { p with tlbinv := true }) else s)
  else if off = 0x20 ∨ off = 0x24 then
    (if s.launching then s else s.withPart (fun p => { p with winbase := setHalf p.winbase ((off - 0x20) / 4) (v &&& (if off = 0x20 then 0xC0000000 else 0x00FFFFFF)) }))
  else if off = 0x30 ∧ pf then s.writeSwap v
  else if off = 0x38 then
    (let k := v.toNat % 32; if k = 0 ∨ (4 ≤ k ∧ k ≤ 16) then s.withPart (fun p => { p with audctl := k }) else s)
  else if off = 0x44 then s.selectEntry v
  else if off = 0x84 then s.withPart (fun p => { p with elsel := v })
  else if off = 0xA0 ∧ pf then
    (if v.getLsbD 31 then s.also (checkpoints (v.toNat % 1024)) else if v.getLsbD 30 then (let (ok, s1) := s.choose 2; s1.also (restores (v.toNat % 1024) (ok = 0))) else s)
  else if off = 0xE4 ∧ pf then
    (let w := v.toNat % 4096; if 600 ≤ w ∧ w ≤ 2200 then { s with dev := { s.dev with pwrcapNext := some w } } else s)
  else s

/-- A QCTL write (Table 16.3): bits 8 and 4:0 only while the queue is not enabled, n within 4 to 16. -/
def Queue.setCtl (x : Queue) (v : Word) : Queue :=
  let on := x.ctl.getLsbD 31
  let n := v.toNat % 32
  let keep := if on then x.ctl.toNat % 512 else v.toNat / 256 % 2 * 256 + (if 4 ≤ n ∧ n ≤ 16 then n else x.ctl.toNat % 32)
  let err := x.ctl.getLsbD 30 && !(v.getLsbD 30)
  { x with ctl := BitVec.ofNat 32 ((if v.getLsbD 31 then 2 ^ 31 else 0) + (if err then 2 ^ 30 else 0) + keep) }

/-- Registers of queue `q`. -/
def State.writeQueue (q o : Nat) (v : Word) (s : State) : State :=
  let x := s.part.queue q
  if o < 8 then (if x.ctl.getLsbD 31 then s else s.setQueue q { x with base := setHalf x.base (o / 4) (if o = 0 then v &&& 0xFFFFFFC0 else v) })
  else if o = 8 then
    (let s1 := s.setQueue q (x.setCtl v); if v.getLsbD 29 then s1.also (resetQueue q) else s1)
  else s.also (ringDoorbell q v)

/-- Registers of mailbox `m` (R230): pending is read-only, overflow cleared by writing 1. -/
def Mailbox.write (b : Mailbox) (o : Nat) (v : Word) : Mailbox :=
  if o < 8 then { b with base := setHalf b.base (o / 4) (if o = 0 then v &&& 0xFFFFFFC0 else v) }
  else if o = 8 then { b with extent := v &&& 0xFFFFFFC0 }
  else if o = 12 then { b with ctl := (v &&& 0x80000000) ||| (b.ctl &&& (if v.getLsbD 30 then 0x0000FFFF else 0x4000FFFF)) }
  else if 16 ≤ o ∧ o < 24 then { b with record := setHalf b.record ((o - 16) / 4) v }
  else b

/-- Registers of content region `r` (Table 17.1): base and capacity only while it is not enabled; a capacity that the table does not allow is
ignored. -/
def State.writeRegion (r o : Nat) (v : Word) (s : State) : State :=
  let x := s.part.region r
  let put := fun (y : ContentRegion) => s.withPart (fun p => { p with regions := Bits.insert r y p.regions })
  if o = 12 then s.also (enableRegion r (v.getLsbD 31))
  else if x.ctl.getLsbD 31 then s
  else if o = 0 then put { x with base := setHalf x.base 0 (v &&& 0xFFFF0000) }
  else if o = 4 then put { x with base := setHalf x.base 1 (v &&& 0x00FFFFFF) }
  else if o = 8 then (if v.toNat % 512 = 0 ∧ v.toNat ≤ 2 ^ 27 then put { x with lines := v } else s)
  else s

/-- Registers of a sequence class (Table 19.2). -/
def SeqClass.write (c : SeqClass) (o : Nat) (v : Word) : SeqClass :=
  if o = 0 then { c with ctl := v &&& 0x8000F703 }
  else if o = 4 then { c with entry := v }
  else if o = 8 then { c with tw := v &&& 0x00FFFFFF }
  else if o = 12 then { c with tn := v &&& 0x00FFFFFF }
  else if o = 16 then { c with recov := setHalf c.recov 0 (v &&& 0xFFFFFF00) }
  else if o = 20 then { c with recov := setHalf c.recov 1 v }
  else c

/-- Registers of sequence class `c`: ignored while a context uses it (R262). -/
def State.writeClass (c o : Nat) (v : Word) (s : State) : State :=
  if s.dev.seqs.any (fun q => q.pid = s.part.pid && q.cls = c) then s
  else s.withPart (fun p => { p with classes := Bits.insert c ((p.seqClass c).write o v) p.classes })

/-- A write to the MSI-X table: a pending vector that is no longer masked is signalled (R313). -/
def State.writeMsix (i : Nat) (v : Word) (s : State) : State :=
  let n := i / 4
  let s1 := s.withPart (fun p => { p with msix := Bits.insert i v p.msix })
  if i % 4 = 3 ∧ v.getLsbD 0 = false ∧ s.part.pba.contains n = true then
    State.msixSignal s.part.dev s.part.pid n (s1.withPart (fun p => { p with pba := p.pba.filter (fun x => x ≠ n) }))
  else s1

/-- Fault queue registers (R312). -/
def State.writeFaultQueue (off : Nat) (v : Word) (s : State) : State :=
  let post := fun (s : State) => postHeld s.part.faults.length s
  if off = 0x100 ∨ off = 0x104 then
    s.withPart (fun p => { p with fqbase := setHalf p.fqbase ((off - 0x100) / 4) (if off = 0x100 then v &&& 0xFFFFFFC0 else v) })
  else if off = 0x108 then
    (let n := v.toNat % 32
     post (s.withPart (fun p => { p with fqctl := BitVec.ofNat 32 ((if v.getLsbD 31 then 2 ^ 31 else 0) + (if 4 ≤ n ∧ n ≤ 16 then n else p.fqctl.toNat % 32)) })))
  else if off = 0x10C then post (s.withPart (fun p => { p with fqhead := v }))
  else if off = 0x118 then s.withPart (fun p => { p with fqreply := v })
  else if off = 0x11C then
    (if v.toNat / 2 ^ 8 % 2 ^ 23 = 0 then s.reply_ (v.toNat % 2 ^ 8 * 2 ^ 32 + s.part.fqreply.toNat) (v.getLsbD 31) else s)
  else s

/-- WRITE of the register at a 4-aligned offset of the checked-out partition's window (R310): what the map does not assign takes nothing. -/
def State.writeRegister (off : Nat) (v : Word) (s : State) : State :=
  if off < 0x100 then s.writeControl off v
  else if off < 0x120 then s.writeFaultQueue off v
  else if 0x800 ≤ off ∧ off < 0xC00 then s.writeQueue ((off - 0x800) / 16) (off % 16) v
  else if 0x2000 ≤ off ∧ off < 0x4000 then
    s.withPart (fun p => { p with mailboxes := Bits.insert ((off - 0x2000) / 32) ((p.mailbox ((off - 0x2000) / 32)).write (off % 32) v) p.mailboxes })
  else if 0x4000 ≤ off ∧ off < 0x4200 then s.writeRegion ((off - 0x4000) / 32) (off % 32) v
  else if 0x4200 ≤ off ∧ off < 0x4300 then (if off % 16 = 0 then s.also (enableTable ((off - 0x4200) / 16) (v.getLsbD 31)) else s)
  else if 0x4400 ≤ off ∧ off < 0x4600 then s.writeClass ((off - 0x4400) / 32) (off % 32) v
  else if 0x5000 ≤ off ∧ off < 0x5800 then
    let i := (off - 0x5000) / 2
    s.withPart (fun p => { p with fabric := Bits.insert (i + 1) (v.extractLsb' 16 16 &&& 0x83FF) (Bits.insert i (v.extractLsb' 0 16 &&& 0x83FF) p.fabric) })
  else if 0x8000 ≤ off ∧ off < 0x8430 then s.writeMsix ((off - 0x8000) / 4) v
  else s

/-- REGISTER_WRITE: nothing reaches a device that has stopped. -/
def registerWritten (off : Nat) (v : Word) (s : State) : Option State :=
  whenDue (s.dev.answers && off % 4 = 0 && decide (off < 2 ^ 16)) (s.writeRegister off v)

/-! ## The memory window (R309) -/

/-- Where a byte of the memory window lies: nothing where it does not translate, or lies in class 2 or on the host. -/
def State.windowByte (s : State) (va : Nat) : Option (Nat × Nat) :=
  if 2 ^ 56 ≤ va then none else
  match translateBy s.mem s.part [] va with
  | .ok x => if x.cls = 2 ∨ Pte.host x.entry = true then none else some (x.key, x.cls)
  | _ => none

/-- The pages of a range that the device itself accesses (R127). -/
def State.visitRange (va size : Nat) (store : Bool) (s : State) : State :=
  (((List.range size).map (fun i => (va + i) / 2 ^ 16)).dedup).foldl (fun s page => s.visit (page * 2 ^ 16) store) s

/-- What an access through the memory window answers. -/
def State.windowAnswer (status : Nat) (data : Nat) (s : State) : State :=
  s.emit s.part.dev (.completion s.part.dev s.part.pid status data)

/-- Check the promoted blocks that a read of the bytes at `ks` meets: those that pass are checked, and one that fails starts the refetch of its page
(R337). -/
def State.checkWindow (ks : List Nat) (s : State) : State :=
  ((ks.map (fun k => k / 4096)).dedup).foldl (fun s b =>
    if s.promoted.any (fun p => p.page = b / 16 && !(p.checked.contains (b % 16))) then s.checkedTag (4096 * b) (!s.tagBad (4096 * b)) else s) s

/-- BAR2_ACCESS: an access that does not reach device memory completes with Completer Abort, and so does a read of a poisoned sector, of a block
that fails its check (R337), or while a checkpoint transfers, when writes are discarded and logged (R309, R340); a write waits at a sector that a
prepared region has locked (R296), and in a mailbox page starts its handler (R230). There is no access past the size of BAR2. -/
def windowAccess (off size : Nat) (wr : Option Nat) (s : State) : Option State :=
  let va := s.part.winbase.toNat + off
  let places := (List.range size).mapM (fun i => s.windowByte (va + i))
  if !s.dev.answers || size = 0 || decide (2 ^ s.part.bar2 < off + size) then none else
  match wr, places with
  | none, some ps =>
    if s.dev.ckState = 2 || ps.any (fun k => s.poisoned k.1 1) then some (s.windowAnswer 1 0)
    else if ps.any (fun k => s.tagBad k.1) then some ((s.checkWindow (ps.map Prod.fst)).windowAnswer 1 0)
    else some (((s.visitRange va size false).checkWindow (ps.map Prod.fst)).windowAnswer 0 (ofBytes (ps.map (fun k => Mem.get s.mem k.1))))
  | some v, some ps =>
    if s.dev.ckState = 2 then some { s with dev := { s.dev with discards := (s.part.pid, off, size, v) :: s.dev.discards } }
    else if ps.any (fun k => s.locked k.1) then none else
    let cells := (ps.map Prod.fst).zip (toBytes size v)
    let s1 := ((s.visitRange va size true).performCells cells).clearPoison cells
    some (if ps.any (fun k => k.2 = 5) then s1.mailboxWrite va else s1)
  | none, none => some (s.windowAnswer 1 0)
  | some v, none =>
    if s.dev.ckState = 2 then some { s with dev := { s.dev with discards := (s.part.pid, off, size, v) :: s.dev.discards } }
    else some (s.windowAnswer 1 0)

/-- REGISTER_WRITE -/
def execRegisterWrite (dev pid off : Nat) (v : Word) (s : State) : Outcome := s.onPart dev pid (registerWritten off v)
/-- BAR2_ACCESS -/
def execBar2Access (dev pid off size : Nat) (wr : Option Nat) (s : State) : Outcome := s.onPart dev pid (windowAccess off size wr)

end Sys2Proof.Machine
end

