-- ==== Sys2Proof/Machine/Integer.lean ====
section
/-!
DEFINITION. Integer arithmetic, opcodes 0x10 to 0x1F (05 R68, R70, R72, R73).
-/
namespace Sys2Proof.Machine
open Sys2Proof Bits Encoding

/-- A two-source integer instruction whose result is `f w a b`, with its condition codes. -/
def bodyInt2 (f : Enc → State → Nat → Nat → Nat) (cc : Enc → State → Nat → Nat → BitVec 4) (e : Enc) (s : State) : Except Stop State :=
  let n := tw (opT e)
  let a := s.opA e n
  let b := s.opB e n
  .ok ((s.withCC e (cc e s a b)).putD e n (f e s a b))

/-- No condition codes. -/
def noCC (_ : Enc) (s : State) (_ _ : Nat) : BitVec 4 := s.thr.cc

/-- C as a number. -/
def State.carry (s : State) : Nat := ofBool (s.thr.cc.getLsbD 0)

/-- `add`. -/
def bodyAdd : Body := bodyInt2 (fun e _ a b => (a + b) % 2 ^ opW e) (fun e _ a b => ccAdd (opW e) a b 0)
/-- `sub`. -/
def bodySub : Body := bodyInt2 (fun e _ a b => subVal (opW e) a b 0) (fun e _ a b => ccSub (opW e) a b 0)
/-- `addx`. -/
def bodyAddx : Body := bodyInt2 (fun e s a b => (a + b + s.carry) % 2 ^ opW e) (fun e s a b => ccAdd (opW e) a b s.carry)
/-- `subx`. -/
def bodySubx : Body := bodyInt2 (fun e s a b => subVal (opW e) a b s.carry) (fun e s a b => ccSub (opW e) a b s.carry)
/-- `mul`. -/
def bodyMul : Body := bodyInt2 (fun e _ a b => a * b % 2 ^ opW e) noCC
/-- `mulh`: the high half of the exact product. -/
def bodyMulh : Body := bodyInt2 (fun e _ a b => wrapInt (opW e) (opInt e a * opInt e b / 2 ^ opW e)) noCC
/-- `min`. -/
def bodyMin : Body := bodyInt2 (fun e _ a b => if opInt e a < opInt e b then a else b) noCC
/-- `max`. -/
def bodyMax : Body := bodyInt2 (fun e _ a b => if opInt e b < opInt e a then a else b) noCC

/-- `mad`. -/
def bodyMad (e : Enc) (s : State) : Except Stop State :=
  let n := tw e.t
  .ok (s.putD e n ((s.opA e n * s.opB e n + s.opC e n) % 2 ^ opW e))
/-- `madw`: a 64-bit sum of a widened product and a pair. -/
def bodyMadw (e : Enc) (s : State) : Except Stop State :=
  .ok (s.putD e 2 (wrapInt 64 (opInt e (s.opA e 1) * opInt e (s.opB e 1) + (s.opC e 2 : Int))))
/-- `clamp`: min(max(a, b), c). -/
def bodyClamp (e : Enc) (s : State) : Except Stop State :=
  let n := tw e.t
  let lo := if opInt e (s.opB e n) < opInt e (s.opA e n) then s.opA e n else s.opB e n
  .ok (s.putD e n (if opInt e lo < opInt e (s.opC e n) then lo else s.opC e n))

/-- Quotient and remainder (R73): all ones and the dividend on a zero divisor; both truncate toward zero. -/
def divVal (e : Enc) (a b : Nat) : Nat := if b = 0 then 2 ^ opW e - 1 else wrapInt (opW e) ((opInt e a).tdiv (opInt e b))
/-- Remainder (R73). -/
def remVal (e : Enc) (a b : Nat) : Nat := if b = 0 then a else wrapInt (opW e) ((opInt e a).tmod (opInt e b))
/-- `div`, long-latency. -/
def bodyDiv (e : Enc) (s : State) : Except Stop State :=
  .ok (s.laterD e (tw e.t) (divVal e (s.opA e (tw e.t)) (s.opB e (tw e.t))))
/-- `rem`, long-latency. -/
def bodyRem (e : Enc) (s : State) : Except Stop State :=
  .ok (s.laterD e (tw e.t) (remVal e (s.opA e (tw e.t)) (s.opB e (tw e.t))))

/-- `abs`. -/
def bodyAbs (e : Enc) (s : State) : Except Stop State :=
  .ok (s.putD e (tw e.t) (wrapInt (opW e) (opInt e (s.op1 e (tw e.t))).natAbs))
/-- `neg`. -/
def bodyNeg (e : Enc) (s : State) : Except Stop State :=
  let n := tw (opT e)
  let b := s.op1 e n
  .ok ((s.withCC e (ccSub (opW e) 0 b 0)).putD e n (subVal (opW e) 0 b 0))
/-- `bitc`: popc, clz, ctz, brev by c. -/
def bodyBitc (e : Enc) (s : State) : Except Stop State :=
  let a := s.op1 e (tw e.t)
  let w := opW e
  .ok (match e.c.toNat with
    | 0 => s.putD e 1 (popcount w a)
    | 1 => s.putD e 1 (clz w a)
    | 2 => s.putD e 1 (ctz w a)
    | _ => s.putD e (tw e.t) (brev w a))

/-- ADD_S -/
def execAddS (e : SEnc) (s : State) : Outcome := s.issue false bodyAdd (e.enc 0x10)
/-- ADD_LX -/
def execAddLX (e : LX) (s : State) : Outcome := s.issue false bodyAdd (e.enc 0x10)
/-- SUB_S -/
def execSubS (e : SEnc) (s : State) : Outcome := s.issue false bodySub (e.enc 0x11)
/-- SUB_LX -/
def execSubLX (e : LX) (s : State) : Outcome := s.issue false bodySub (e.enc 0x11)
/-- ADDX -/
def execAddx (e : LX) (s : State) : Outcome := s.issue false bodyAddx (e.enc 0x12)
/-- SUBX -/
def execSubx (e : LX) (s : State) : Outcome := s.issue false bodySubx (e.enc 0x13)
/-- MUL -/
def execMul (e : LX) (s : State) : Outcome := s.issue false bodyMul (e.enc 0x14)
/-- MULH -/
def execMulh (e : LX) (s : State) : Outcome := s.issue false bodyMulh (e.enc 0x15)
/-- MAD -/
def execMad (e : LX) (s : State) : Outcome := s.issue false bodyMad (e.enc 0x16)
/-- MADW -/
def execMadw (e : LX) (s : State) : Outcome := s.issue false bodyMadw (e.enc 0x17)
/-- DIV -/
def execDiv (e : LX) (s : State) : Outcome := s.issue false bodyDiv (e.enc 0x18)
/-- REM -/
def execRem (e : LX) (s : State) : Outcome := s.issue false bodyRem (e.enc 0x19)
/-- MIN -/
def execMin (e : LX) (s : State) : Outcome := s.issue false bodyMin (e.enc 0x1A)
/-- MAX -/
def execMax (e : LX) (s : State) : Outcome := s.issue false bodyMax (e.enc 0x1B)
/-- ABS -/
def execAbs (e : LX) (s : State) : Outcome := s.issue false bodyAbs (e.enc 0x1C)
/-- NEG_S -/
def execNegS (e : SEnc) (s : State) : Outcome := s.issue false bodyNeg (e.enc 0x1D)
/-- NEG_LX -/
def execNegLX (e : LX) (s : State) : Outcome := s.issue false bodyNeg (e.enc 0x1D)
/-- BITC -/
def execBitc (e : LX) (s : State) : Outcome := s.issue false bodyBitc (e.enc 0x1E)
/-- CLAMP -/
def execClamp (e : LX) (s : State) : Outcome := s.issue false bodyClamp (e.enc 0x1F)

end Sys2Proof.Machine
end

