-- ==== Sys2Proof/Machine/Logic.lean ====
section
/-!
DEFINITION. Logic, shifts, bit fields and addresses, opcodes 0x20 to 0x2F (05 R70, R74).
-/
namespace Sys2Proof.Machine
open Sys2Proof Bits Encoding

/-- Type of a logic operation: S forms are 32-bit (R74). -/
def logW (e : Enc) : Nat := 32 * (if e.form = .s then 1 else tw e.t)
/-- Registers of a logic operation. -/
def logN (e : Enc) : Nat := if e.form = .s then 1 else tw e.t

/-- A two-source logic instruction. -/
def bodyLog2 (f : Nat → Nat → Nat → Nat) (e : Enc) (s : State) : Except Stop State :=
  let r := f (logW e) (s.opA e (logN e)) (s.opB e (logN e))
  .ok ((s.withCC e (ccLogic (logW e) r)).putD e (logN e) r)

/-- `and`. -/
def bodyAnd : Body := bodyLog2 (fun _ a b => a &&& b)
/-- `or`. -/
def bodyOr : Body := bodyLog2 (fun _ a b => a ||| b)
/-- `xor`. -/
def bodyXor : Body := bodyLog2 (fun _ a b => a ^^^ b)
/-- `andn`. -/
def bodyAndn : Body := bodyLog2 (fun w a b => a &&& (2 ^ w - 1 - b))

/-- Bits `i` below `w` of the function with truth table `m` (R74). -/
def bool3Val (m a b c : Nat) : Nat → Nat
  | 0 => 0
  | w + 1 => bool3Val m a b c w + 2 ^ w * ofBool (bit m (4 * ofBool (bit a w) + 2 * ofBool (bit b w) + ofBool (bit c w)))
/-- `bool3`. -/
def bodyBool3 (e : Enc) (s : State) : Except Stop State :=
  let n := logN e
  let r := bool3Val e.m.toNat (s.opA e n) (s.opB e n) (s.opC e n) (logW e)
  .ok ((s.withCC e (ccLogic (logW e) r)).putD e n r)

/-- A shift amount: a 32-bit register, the literal, or the S form's immediate (R74). -/
def State.amount (s : State) (e : Enc) : Nat := if e.form = .s then e.b.toNat else if e.form = .x then e.lit.toNat else s.opB e 1
/-- A shift or rotate of `w` bits. -/
def bodyShift (f : Nat → Nat → Nat → Nat) (e : Enc) (s : State) : Except Stop State :=
  .ok (s.putD e (logN e) (f (logW e) (s.opA e (logN e)) (s.amount e)))

/-- Shift left (R74). -/
def shlVal (w a n : Nat) : Nat := if w ≤ n then 0 else a * 2 ^ n % 2 ^ w
/-- Shift right, zero fill (R74). -/
def shrVal (w a n : Nat) : Nat := if w ≤ n then 0 else a / 2 ^ n
/-- Shift right, sign fill (R74). -/
def sarVal (w a n : Nat) : Nat := wrapInt w (sint w a / 2 ^ min n (w - 1))
/-- Rotate left (R74). -/
def rotlVal (w a n : Nat) : Nat := a * 2 ^ (n % w) % 2 ^ w + a / 2 ^ (w - n % w)
/-- `shl`. -/
def bodyShl : Body := bodyShift shlVal
/-- `shr`. -/
def bodyShr : Body := bodyShift shrVal
/-- `sar`. -/
def bodySar : Body := bodyShift sarVal
/-- `rotl`. -/
def bodyRotl : Body := bodyShift rotlVal
/-- `rotr`. -/
def bodyRotr : Body := bodyShift (fun w a n => rotlVal w a (w - n % w))

/-- `fsh`: a funnel shift of a and b. -/
def bodyFsh (e : Enc) (s : State) : Except Stop State :=
  .ok (s.putD e 1 ((s.opA e 1 * 2 ^ 32 + s.opB e 1) / 2 ^ (s.opC e 1 % 32) % 2 ^ 32))
/-- Position and length of a field specification (R74). -/
def fieldSpec (b : Nat) : Nat × Nat := (field b 4 0, min (field b 13 8) (32 - field b 4 0))
/-- `bfx`. -/
def bodyBfx (e : Enc) (s : State) : Except Stop State :=
  let (pos, n) := fieldSpec (s.opB e 1)
  let f := s.opA e 1 / 2 ^ pos % 2 ^ n
  .ok (s.putD e 1 (if e.t = 1 ∧ 0 < n then wrapInt 32 (sint n f) else f))
/-- `bfi`. -/
def bodyBfi (e : Enc) (s : State) : Except Stop State :=
  let (pos, n) := fieldSpec (s.opB e 1)
  let m := (2 ^ n - 1) * 2 ^ pos
  .ok (s.putD e 1 ((s.opC e 1 &&& (2 ^ 32 - 1 - m)) ||| (s.opA e 1 * 2 ^ pos &&& m)))
/-- `clmul`: the low or high word of the carry-less product. -/
def bodyClmul (e : Enc) (s : State) : Except Stop State :=
  let p := clmul 32 (s.opB e 1) (s.opA e 1)
  .ok (s.putD e 1 (if bit e.m.toNat 0 then p / 2 ^ 32 else p % 2 ^ 32))
/-- `lea`: the index is one 32-bit register or the literal, widened by the type for a pair base (R74). -/
def bodyLea (e : Enc) (s : State) : Except Stop State :=
  let i := s.amount e
  let x : Int := if e.t = 3 then sint 32 i else (i : Int)
  .ok (s.putD e (tw e.t) (wrapInt (opW e) ((s.opA e (tw e.t) : Int) + x * 2 ^ e.m.toNat)))
/-- `mov`. -/
def bodyMov (e : Enc) (s : State) : Except Stop State := .ok (s.putD e (logN e) (s.op1 e (logN e)))

/-- AND_S -/
def execAndS (e : SEnc) (s : State) : Outcome := s.issue false bodyAnd (e.enc 0x20)
/-- AND_LX -/
def execAndLX (e : LX) (s : State) : Outcome := s.issue false bodyAnd (e.enc 0x20)
/-- OR_S -/
def execOrS (e : SEnc) (s : State) : Outcome := s.issue false bodyOr (e.enc 0x21)
/-- OR_LX -/
def execOrLX (e : LX) (s : State) : Outcome := s.issue false bodyOr (e.enc 0x21)
/-- XOR_S -/
def execXorS (e : SEnc) (s : State) : Outcome := s.issue false bodyXor (e.enc 0x22)
/-- XOR_LX -/
def execXorLX (e : LX) (s : State) : Outcome := s.issue false bodyXor (e.enc 0x22)
/-- ANDN -/
def execAndn (e : LX) (s : State) : Outcome := s.issue false bodyAndn (e.enc 0x23)
/-- BOOL3 -/
def execBool3 (e : LX) (s : State) : Outcome := s.issue false bodyBool3 (e.enc 0x24)
/-- SHL_S -/
def execShlS (e : SEnc) (s : State) : Outcome := s.issue false bodyShl (e.enc 0x25)
/-- SHL_LX -/
def execShlLX (e : LX) (s : State) : Outcome := s.issue false bodyShl (e.enc 0x25)
/-- SHR_S -/
def execShrS (e : SEnc) (s : State) : Outcome := s.issue false bodyShr (e.enc 0x26)
/-- SHR_LX -/
def execShrLX (e : LX) (s : State) : Outcome := s.issue false bodyShr (e.enc 0x26)
/-- SAR_S -/
def execSarS (e : SEnc) (s : State) : Outcome := s.issue false bodySar (e.enc 0x27)
/-- SAR_LX -/
def execSarLX (e : LX) (s : State) : Outcome := s.issue false bodySar (e.enc 0x27)
/-- ROTL -/
def execRotl (e : LX) (s : State) : Outcome := s.issue false bodyRotl (e.enc 0x28)
/-- ROTR -/
def execRotr (e : LX) (s : State) : Outcome := s.issue false bodyRotr (e.enc 0x29)
/-- FSH -/
def execFsh (e : LX) (s : State) : Outcome := s.issue false bodyFsh (e.enc 0x2A)
/-- BFX -/
def execBfx (e : LX) (s : State) : Outcome := s.issue false bodyBfx (e.enc 0x2B)
/-- BFI -/
def execBfi (e : LX) (s : State) : Outcome := s.issue false bodyBfi (e.enc 0x2C)
/-- CLMUL -/
def execClmul (e : LX) (s : State) : Outcome := s.issue false bodyClmul (e.enc 0x2D)
/-- LEA -/
def execLea (e : LX) (s : State) : Outcome := s.issue false bodyLea (e.enc 0x2E)
/-- MOV_S -/
def execMovS (e : SEnc) (s : State) : Outcome := s.issue false bodyMov (e.enc 0x2F)
/-- MOV_LX -/
def execMovLX (e : LX) (s : State) : Outcome := s.issue false bodyMov (e.enc 0x2F)

end Sys2Proof.Machine
end

