-- ==== Sys2Proof/Machine/Predicate.lean ====
section
/-!
DEFINITION. Compares, predicates and selects, opcodes 0x30 to 0x39 (05 R71, R75 to R78).
-/
namespace Sys2Proof.Machine
open Sys2Proof Bits Encoding

/-- Combine a relation with q[c] and write q[d] (R75). -/
def State.setPred (e : Enc) (r : Bool) (s : State) : State :=
  let q := s.thr.getQ e.c.toNat
  let v := match field e.m.toNat 7 6 with | 0 => r | 1 => r && q | 2 => r || q | _ => r != q
  { s with thr := s.thr.putQ e.d.toNat v }

/-- Relations 0 to 5 of integers: eq, ne, lt, le, gt, ge. -/
def intRel (cond : Nat) (a b : Int) : Bool :=
  match cond with
  | 0 => decide (a = b) | 1 => decide (a ≠ b) | 2 => decide (a < b) | 3 => decide (a ≤ b) | 4 => decide (b < a) | _ => decide (b ≤ a)

/-- `cmp`: the S form packs one of six conditions beside the predicate number (Table 2.7). -/
def bodyCmp (e : Enc) (s : State) : Except Stop State :=
  if e.form = .s then
    let a := s.opA e 1
    let b := s.opB e 1
    let r := match field e.d.toNat 5 3 with
      | 0 => decide (a = b) | 1 => decide (a ≠ b)
      | 2 => decide (sint 32 a < sint 32 b) | 3 => decide (sint 32 a ≤ sint 32 b)
      | 4 => decide (a < b) | _ => decide (a ≤ b)
    .ok { s with thr := s.thr.putQ (e.d.toNat % 8) r }
  else
    .ok (s.setPred e (intRel (field e.m.toNat 5 2) (opInt e (s.opA e (tw e.t))) (opInt e (s.opB e (tw e.t)))))

/-- `fcmp` (R76). -/
def bodyFcmp (e : Enc) (s : State) : Except Stop State :=
  let (r, f) := fcmpT (field e.m.toNat 5 2) e.t s.lau.nbv (s.opA e (tw e.t)) (s.opB e (tw e.t))
  .ok ((s.setPred e r).orFp f)
/-- `scmp` (R76). -/
def bodyScmp (e : Enc) (s : State) : Except Stop State :=
  let wide := e.t = 3
  let (r, f) := scmpRel (field e.m.toNat 5 2) (sliDecode wide (s.opA e (tw e.t))) (sliDecode wide (s.opB e (tw e.t)))
  .ok ((s.setPred e r).orSli f)

/-- `qop`: the predicate of a truth table (R77). -/
def bodyQop (e : Enc) (s : State) : Except Stop State :=
  let q := fun (f : BitVec 8) => ofBool (s.thr.getQ f.toNat)
  .ok { s with thr := s.thr.putQ e.d.toNat (bit e.m.toNat (4 * q e.a + 2 * q e.b + q e.c)) }
/-- `qget` (R77). -/
def bodyQget (e : Enc) (s : State) : Except Stop State := .ok (s.putM e 1 (s.thr.q.toNat + 128))
/-- Write the predicates a mask selects, lowest first. -/
def putQs (a m : Nat) (t : Thread) : Thread :=
  (List.range 7).foldl (fun t i => if bit m i then t.putQ i (bit a i) else t) t
/-- `qset` (R77). -/
def bodyQset (e : Enc) (s : State) : Except Stop State := .ok { s with thr := putQs (s.op1 e 1) e.m.toNat s.thr }

/-- `sel` (R78): the S form uses q0. -/
def bodySel (e : Enc) (s : State) : Except Stop State :=
  let n := logN e
  let q := s.thr.getQ (if e.form = .s then 0 else e.c.toNat)
  .ok (s.putD e n (if q then s.opA e n else s.opB e n))
/-- `ccsel` (R78). -/
def bodyCcsel (e : Enc) (s : State) : Except Stop State :=
  let n := tw e.t
  .ok (s.putD e n (if condHolds s.thr.cc e.m.toNat then s.opA e n else s.opB e n))
/-- `ccget` (R78). -/
def bodyCcget (e : Enc) (s : State) : Except Stop State := .ok (s.putD e 1 (ofBool (condHolds s.thr.cc e.m.toNat)))
/-- `ccput` (R78). -/
def bodyCcput (e : Enc) (s : State) : Except Stop State :=
  let m := e.m.setWidth 4
  .ok { s with thr := s.thr.putCC ((s.thr.cc &&& ~~~m) ||| (BitVec.ofNat 4 (s.op1 e 1) &&& m)) }

/-- CMP_S -/
def execCmpS (e : SEnc) (s : State) : Outcome := s.issue false bodyCmp (e.enc 0x30)
/-- CMP_LX -/
def execCmpLX (e : LX) (s : State) : Outcome := s.issue false bodyCmp (e.enc 0x30)
/-- FCMP -/
def execFcmp (e : LX) (s : State) : Outcome := s.issue false bodyFcmp (e.enc 0x31)
/-- SCMP -/
def execScmp (e : LX) (s : State) : Outcome := s.issue false bodyScmp (e.enc 0x39)
/-- QOP -/
def execQop (e : LX) (s : State) : Outcome := s.issue false bodyQop (e.encL 0x32)
/-- QGET -/
def execQget (e : LX) (s : State) : Outcome := s.issue false bodyQget (e.encL 0x33)
/-- QSET -/
def execQset (e : LX) (s : State) : Outcome := s.issue false bodyQset (e.enc 0x34)
/-- SEL_S -/
def execSelS (e : SEnc) (s : State) : Outcome := s.issue false bodySel (e.enc 0x35)
/-- SEL_LX -/
def execSelLX (e : LX) (s : State) : Outcome := s.issue false bodySel (e.enc 0x35)
/-- CCSEL -/
def execCcsel (e : LX) (s : State) : Outcome := s.issue false bodyCcsel (e.enc 0x36)
/-- CCGET -/
def execCcget (e : LX) (s : State) : Outcome := s.issue false bodyCcget (e.encL 0x37)
/-- CCPUT -/
def execCcput (e : LX) (s : State) : Outcome := s.issue false bodyCcput (e.enc 0x38)

end Sys2Proof.Machine
end

