-- ==== Sys2Proof/Machine/Dispatch.lean ====
section
/-!
DEFINITION. One arm per row of the opcode table: each calls its meaning.
-/
namespace Sys2Proof.Machine
open Sys2Proof

/-- What an instruction or event does. -/
def exec (i : Instr) (s : State) : Host.Outcome State Fault Refusal :=
  match i with
  | .nopS e => Sys2Proof.Machine.execNopS e s
  | .nopL e => Sys2Proof.Machine.execNopL e s
  | .braS e => Sys2Proof.Machine.execBraS e s
  | .braX e => Sys2Proof.Machine.execBraX e s
  | .jmpS e => Sys2Proof.Machine.execJmpS e s
  | .jmpL e => Sys2Proof.Machine.execJmpL e s
  | .callS e => Sys2Proof.Machine.execCallS e s
  | .callX e => Sys2Proof.Machine.execCallX e s
  | .calliS e => Sys2Proof.Machine.execCalliS e s
  | .calliL e => Sys2Proof.Machine.execCalliL e s
  | .retS e => Sys2Proof.Machine.execRetS e s
  | .retL e => Sys2Proof.Machine.execRetL e s
  | .meetS e => Sys2Proof.Machine.execMeetS e s
  | .meetX e => Sys2Proof.Machine.execMeetX e s
  | .meetrS e => Sys2Proof.Machine.execMeetrS e s
  | .meetrL e => Sys2Proof.Machine.execMeetrL e s
  | .exitS e => Sys2Proof.Machine.execExitS e s
  | .exitL e => Sys2Proof.Machine.execExitL e s
  | .trapS e => Sys2Proof.Machine.execTrapS e s
  | .trapL e => Sys2Proof.Machine.execTrapL e s
  | .trapX e => Sys2Proof.Machine.execTrapX e s
  | .brkS e => Sys2Proof.Machine.execBrkS e s
  | .brkL e => Sys2Proof.Machine.execBrkL e s
  | .yieldS e => Sys2Proof.Machine.execYieldS e s
  | .yieldL e => Sys2Proof.Machine.execYieldL e s
  | .addS e => Sys2Proof.Machine.execAddS e s
  | .addLX e => Sys2Proof.Machine.execAddLX e s
  | .subS e => Sys2Proof.Machine.execSubS e s
  | .subLX e => Sys2Proof.Machine.execSubLX e s
  | .addx e => Sys2Proof.Machine.execAddx e s
  | .subx e => Sys2Proof.Machine.execSubx e s
  | .mul e => Sys2Proof.Machine.execMul e s
  | .mulh e => Sys2Proof.Machine.execMulh e s
  | .mad e => Sys2Proof.Machine.execMad e s
  | .madw e => Sys2Proof.Machine.execMadw e s
  | .div e => Sys2Proof.Machine.execDiv e s
  | .rem e => Sys2Proof.Machine.execRem e s
  | .min e => Sys2Proof.Machine.execMin e s
  | .max e => Sys2Proof.Machine.execMax e s
  | .abs e => Sys2Proof.Machine.execAbs e s
  | .negS e => Sys2Proof.Machine.execNegS e s
  | .negLX e => Sys2Proof.Machine.execNegLX e s
  | .bitc e => Sys2Proof.Machine.execBitc e s
  | .clamp e => Sys2Proof.Machine.execClamp e s
  | .andS e => Sys2Proof.Machine.execAndS e s
  | .andLX e => Sys2Proof.Machine.execAndLX e s
  | .orS e => Sys2Proof.Machine.execOrS e s
  | .orLX e => Sys2Proof.Machine.execOrLX e s
  | .xorS e => Sys2Proof.Machine.execXorS e s
  | .xorLX e => Sys2Proof.Machine.execXorLX e s
  | .andn e => Sys2Proof.Machine.execAndn e s
  | .bool3 e => Sys2Proof.Machine.execBool3 e s
  | .shlS e => Sys2Proof.Machine.execShlS e s
  | .shlLX e => Sys2Proof.Machine.execShlLX e s
  | .shrS e => Sys2Proof.Machine.execShrS e s
  | .shrLX e => Sys2Proof.Machine.execShrLX e s
  | .sarS e => Sys2Proof.Machine.execSarS e s
  | .sarLX e => Sys2Proof.Machine.execSarLX e s
  | .rotl e => Sys2Proof.Machine.execRotl e s
  | .rotr e => Sys2Proof.Machine.execRotr e s
  | .fsh e => Sys2Proof.Machine.execFsh e s
  | .bfx e => Sys2Proof.Machine.execBfx e s
  | .bfi e => Sys2Proof.Machine.execBfi e s
  | .clmul e => Sys2Proof.Machine.execClmul e s
  | .lea e => Sys2Proof.Machine.execLea e s
  | .movS e => Sys2Proof.Machine.execMovS e s
  | .movLX e => Sys2Proof.Machine.execMovLX e s
  | .cmpS e => Sys2Proof.Machine.execCmpS e s
  | .cmpLX e => Sys2Proof.Machine.execCmpLX e s
  | .fcmp e => Sys2Proof.Machine.execFcmp e s
  | .scmp e => Sys2Proof.Machine.execScmp e s
  | .qop e => Sys2Proof.Machine.execQop e s
  | .qget e => Sys2Proof.Machine.execQget e s
  | .qset e => Sys2Proof.Machine.execQset e s
  | .selS e => Sys2Proof.Machine.execSelS e s
  | .selLX e => Sys2Proof.Machine.execSelLX e s
  | .ccsel e => Sys2Proof.Machine.execCcsel e s
  | .ccget e => Sys2Proof.Machine.execCcget e s
  | .ccput e => Sys2Proof.Machine.execCcput e s
  | .faddS e => Sys2Proof.Machine.execFaddS e s
  | .faddLX e => Sys2Proof.Machine.execFaddLX e s
  | .fsubS e => Sys2Proof.Machine.execFsubS e s
  | .fsubLX e => Sys2Proof.Machine.execFsubLX e s
  | .fmulS e => Sys2Proof.Machine.execFmulS e s
  | .fmulLX e => Sys2Proof.Machine.execFmulLX e s
  | .ffma e => Sys2Proof.Machine.execFfma e s
  | .fmin e => Sys2Proof.Machine.execFmin e s
  | .fmax e => Sys2Proof.Machine.execFmax e s
  | .fdiv e => Sys2Proof.Machine.execFdiv e s
  | .fsqrt e => Sys2Proof.Machine.execFsqrt e s
  | .frcp e => Sys2Proof.Machine.execFrcp e s
  | .frsq e => Sys2Proof.Machine.execFrsq e s
  | .fclass e => Sys2Proof.Machine.execFclass e s
  | .frnd e => Sys2Proof.Machine.execFrnd e s
  | .fscale e => Sys2Proof.Machine.execFscale e s
  | .fsplit e => Sys2Proof.Machine.execFsplit e s
  | .fdot2 e => Sys2Proof.Machine.execFdot2 e s
  | .cvt e => Sys2Proof.Machine.execCvt e s
  | .quant e => Sys2Proof.Machine.execQuant e s
  | .dequant e => Sys2Proof.Machine.execDequant e s
  | .pack e => Sys2Proof.Machine.execPack e s
  | .unpack e => Sys2Proof.Machine.execUnpack e s
  | .fexp2 e => Sys2Proof.Machine.execFexp2 e s
  | .flog2 e => Sys2Proof.Machine.execFlog2 e s
  | .fsin e => Sys2Proof.Machine.execFsin e s
  | .fcos e => Sys2Proof.Machine.execFcos e s
  | .ftanh e => Sys2Proof.Machine.execFtanh e s
  | .sadd e => Sys2Proof.Machine.execSadd e s
  | .ssub e => Sys2Proof.Machine.execSsub e s
  | .smul e => Sys2Proof.Machine.execSmul e s
  | .sdiv e => Sys2Proof.Machine.execSdiv e s
  | .srcp e => Sys2Proof.Machine.execSrcp e s
  | .slog e => Sys2Proof.Machine.execSlog e s
  | .santi e => Sys2Proof.Machine.execSanti e s
  | .sfrom e => Sys2Proof.Machine.execSfrom e s
  | .sto e => Sys2Proof.Machine.execSto e s
  | .sacce e => Sys2Proof.Machine.execSacce e s
  | .ldS e => Sys2Proof.Machine.execLdS e s
  | .ldLX e => Sys2Proof.Machine.execLdLX e s
  | .stS e => Sys2Proof.Machine.execStS e s
  | .stLX e => Sys2Proof.Machine.execStLX e s
  | .ldsS e => Sys2Proof.Machine.execLdsS e s
  | .ldsLX e => Sys2Proof.Machine.execLdsLX e s
  | .stsS e => Sys2Proof.Machine.execStsS e s
  | .stsLX e => Sys2Proof.Machine.execStsLX e s
  | .ldf e => Sys2Proof.Machine.execLdf e s
  | .ldk e => Sys2Proof.Machine.execLdk e s
  | .pfch e => Sys2Proof.Machine.execPfch e s
  | .cctlInv e => Sys2Proof.Machine.execCctlInv e s
  | .cctlInvl e => Sys2Proof.Machine.execCctlInvl e s
  | .fence e => Sys2Proof.Machine.execFence e s
  | .amo e => Sys2Proof.Machine.execAmo e s
  | .amos e => Sys2Proof.Machine.execAmos e s
  | .sinit e => Sys2Proof.Machine.execSinit e s
  | .sarriveS e => Sys2Proof.Machine.execSarriveS e s
  | .sarriveLX e => Sys2Proof.Machine.execSarriveLX e s
  | .swaitS e => Sys2Proof.Machine.execSwaitS e s
  | .swaitLX e => Sys2Proof.Machine.execSwaitLX e s
  | .sbarS e => Sys2Proof.Machine.execSbarS e s
  | .sbarL e => Sys2Proof.Machine.execSbarL e s
  | .spoll e => Sys2Proof.Machine.execSpoll e s
  | .xperm e => Sys2Proof.Machine.execXperm e s
  | .xbcast e => Sys2Proof.Machine.execXbcast e s
  | .xvote e => Sys2Proof.Machine.execXvote e s
  | .xred e => Sys2Proof.Machine.execXred e s
  | .xscan e => Sys2Proof.Machine.execXscan e s
  | .xmatch e => Sys2Proof.Machine.execXmatch e s
  | .xelect e => Sys2Proof.Machine.execXelect e s
  | .acca e => Sys2Proof.Machine.execAcca e s
  | .accf e => Sys2Proof.Machine.execAccf e s
  | .mload e => Sys2Proof.Machine.execMload e s
  | .rowld e => Sys2Proof.Machine.execRowld e s
  | .hada e => Sys2Proof.Machine.execHada e s
  | .mmac e => Sys2Proof.Machine.execMmac e s
  | .aswap e => Sys2Proof.Machine.execAswap e s
  | .accz e => Sys2Proof.Machine.execAccz e s
  | .accrd e => Sys2Proof.Machine.execAccrd e s
  | .accst e => Sys2Proof.Machine.execAccst e s
  | .xcopy e => Sys2Proof.Machine.execXcopy e s
  | .xgath e => Sys2Proof.Machine.execXgath e s
  | .fork e => Sys2Proof.Machine.execFork e s
  | .rdv e => Sys2Proof.Machine.execRdv e s
  | .gres e => Sys2Proof.Machine.execGres e s
  | .xfer e => Sys2Proof.Machine.execXfer e s
  | .fbegin e => Sys2Proof.Machine.execFbegin e s
  | .fcommit e => Sys2Proof.Machine.execFcommit e s
  | .fred e => Sys2Proof.Machine.execFred e s
  | .cloa e => Sys2Proof.Machine.execCloa e s
  | .cld e => Sys2Proof.Machine.execCld e s
  | .cref e => Sys2Proof.Machine.execCref e s
  | .cunref e => Sys2Proof.Machine.execCunref e s
  | .cswap e => Sys2Proof.Machine.execCswap e s
  | .ccopy e => Sys2Proof.Machine.execCcopy e s
  | .lhash e => Sys2Proof.Machine.execLhash e s
  | .hblk e => Sys2Proof.Machine.execHblk e s
  | .pflook e => Sys2Proof.Machine.execPflook e s
  | .pfins e => Sys2Proof.Machine.execPfins e s
  | .pfpin e => Sys2Proof.Machine.execPfpin e s
  | .pfunpin e => Sys2Proof.Machine.execPfunpin e s
  | .stepbeg e => Sys2Proof.Machine.execStepbeg e s
  | .stepend e => Sys2Proof.Machine.execStepend e s
  | .gview e => Sys2Proof.Machine.execGview e s
  | .gsetw e => Sys2Proof.Machine.execGsetw e s
  | .kvld e => Sys2Proof.Machine.execKvld e s
  | .kvst e => Sys2Proof.Machine.execKvst e s
  | .kvcommit e => Sys2Proof.Machine.execKvcommit e s
  | .kvreject e => Sys2Proof.Machine.execKvreject e s
  | .kvfork e => Sys2Proof.Machine.execKvfork e s
  | .kvinfoLen e => Sys2Proof.Machine.execKvinfoLen e s
  | .kvinfoBlk e => Sys2Proof.Machine.execKvinfoBlk e s
  | .kvinfoHash e => Sys2Proof.Machine.execKvinfoHash e s
  | .kvinfoTok e => Sys2Proof.Machine.execKvinfoTok e s
  | .kvinfoThr e => Sys2Proof.Machine.execKvinfoThr e s
  | .kvinfoMint e => Sys2Proof.Machine.execKvinfoMint e s
  | .kvinfoRevoke e => Sys2Proof.Machine.execKvinfoRevoke e s
  | .solicit e => Sys2Proof.Machine.execSolicit e s
  | .dirput e => Sys2Proof.Machine.execDirput e s
  | .dirdel e => Sys2Proof.Machine.execDirdel e s
  | .reply e => Sys2Proof.Machine.execReply e s
  | .rdsr e => Sys2Proof.Machine.execRdsr e s
  | .wrsr e => Sys2Proof.Machine.execWrsr e s
  | .kset e => Sys2Proof.Machine.execKset e s
  | .launch e => Sys2Proof.Machine.execLaunch e s
  | .reggive e => Sys2Proof.Machine.execReggive e s
  | .regclaim e => Sys2Proof.Machine.execRegclaim e s
  | .tkclaim e => Sys2Proof.Machine.execTkclaim e s
  | .mbind e => Sys2Proof.Machine.execMbind e s
  | .tlbinv e => Sys2Proof.Machine.execTlbinv e s
  | .spinLoweringExpiry t => Sys2Proof.Machine.execSpinLoweringExpiry t s
  | .threadAged t => Sys2Proof.Machine.execThreadAged t s
  | .meetingRelease gid pack m => Sys2Proof.Machine.execMeetingRelease gid pack m s
  | .meetingEarlyRelease gid pack m => Sys2Proof.Machine.execMeetingEarlyRelease gid pack m s
  | .yieldEnd t => Sys2Proof.Machine.execYieldEnd t s
  | .crossLaneGather t => Sys2Proof.Machine.execCrossLaneGather t s
  | .xstall t => Sys2Proof.Machine.execXstall t s
  | .bstall t => Sys2Proof.Machine.execBstall t s
  | .trapDelivery gid pack => Sys2Proof.Machine.execTrapDelivery gid pack s
  | .trapResume t => Sys2Proof.Machine.execTrapResume t s
  | .longLatencyResult t serial => Sys2Proof.Machine.execLongLatencyResult t serial s
  | .phaseCommit gid => Sys2Proof.Machine.execPhaseCommit gid s
  | .phaseAdmission gid core => Sys2Proof.Machine.execPhaseAdmission gid core s
  | .phaseAging gid => Sys2Proof.Machine.execPhaseAging gid s
  | .forcedPreemption gid victim => Sys2Proof.Machine.execForcedPreemption gid victim s
  | .uncorrectableErrorConsumed gid job u => Sys2Proof.Machine.execUncorrectableErrorConsumed gid job u s
  | .auditRerun gid core slot => Sys2Proof.Machine.execAuditRerun gid core slot s
  | .auditThirdRun gid core slot => Sys2Proof.Machine.execAuditThirdRun gid core slot s
  | .auditSampleDrop gid err => Sys2Proof.Machine.execAuditSampleDrop gid err s
  | .faultServe dev pid page => Sys2Proof.Machine.execFaultServe dev pid page s
  | .faultDecline dev pid page => Sys2Proof.Machine.execFaultDecline dev pid page s
  | .stackGrowth t frames => Sys2Proof.Machine.execStackGrowth t frames s
  | .atsTranslationCompletion dev pid iova host => Sys2Proof.Machine.execAtsTranslationCompletion dev pid iova host s
  | .atsInvalidationRequest dev pid iova => Sys2Proof.Machine.execAtsInvalidationRequest dev pid iova s
  | .tlbinvRegister dev pid => Sys2Proof.Machine.execTlbinvRegister dev pid s
  | .engineJobStart dev core job => Sys2Proof.Machine.execEngineJobStart dev core job s
  | .engineJobComplete dev core job => Sys2Proof.Machine.execEngineJobComplete dev core job s
  | .engineJobFail dev core job => Sys2Proof.Machine.execEngineJobFail dev core job s
  | .followOnIssue dev core job => Sys2Proof.Machine.execFollowOnIssue dev core job s
  | .arrayDrain dev core job => Sys2Proof.Machine.execArrayDrain dev core job s
  | .epilogueStoreTranslated dev core job => Sys2Proof.Machine.execEpilogueStoreTranslated dev core job s
  | .epilogueStoreFault dev core job => Sys2Proof.Machine.execEpilogueStoreFault dev core job s
  | .sequencerDescriptorIssue dev core sq => Sys2Proof.Machine.execSequencerDescriptorIssue dev core sq s
  | .accaGrant dev core => Sys2Proof.Machine.execAccaGrant dev core s
  | .regclaimServe gid => Sys2Proof.Machine.execRegclaimServe gid s
  | .sequencerGrant dev core => Sys2Proof.Machine.execSequencerGrant dev core s
  | .jobQueueSpace t => Sys2Proof.Machine.execJobQueueSpace t s
  | .ticketMerge dev cluster key => Sys2Proof.Machine.execTicketMerge dev cluster key s
  | .ticketReply t => Sys2Proof.Machine.execTicketReply t s
  | .atomicPerform serial => Sys2Proof.Machine.execAtomicPerform serial s
  | .launchTagFree lid => Sys2Proof.Machine.execLaunchTagFree lid s
  | .backgroundWalker dev pid => Sys2Proof.Machine.execBackgroundWalker dev pid s
  | .slotFree dev pid region slot => Sys2Proof.Machine.execSlotFree dev pid region slot s
  | .queueDoorbell dev pid q tail => Sys2Proof.Machine.execQueueDoorbell dev pid q tail s
  | .queueEnable dev pid q on => Sys2Proof.Machine.execQueueEnable dev pid q on s
  | .queueErrorClear dev pid q => Sys2Proof.Machine.execQueueErrorClear dev pid q s
  | .queueReset dev pid q => Sys2Proof.Machine.execQueueReset dev pid q s
  | .queueEntryAccept dev pid q => Sys2Proof.Machine.execQueueEntryAccept dev pid q s
  | .deferredLaunchStart dev pid => Sys2Proof.Machine.execDeferredLaunchStart dev pid s
  | .mailboxOverflowClear dev pid m => Sys2Proof.Machine.execMailboxOverflowClear dev pid m s
  | .dependencesPassed lid => Sys2Proof.Machine.execDependencesPassed lid s
  | .gangPrepare lid => Sys2Proof.Machine.execGangPrepare lid s
  | .gangGo lid => Sys2Proof.Machine.execGangGo lid s
  | .gangPrepareTimeout lid => Sys2Proof.Machine.execGangPrepareTimeout lid s
  | .fabricLaunchPrepare lid => Sys2Proof.Machine.execFabricLaunchPrepare lid s
  | .fabricLaunchGo lid => Sys2Proof.Machine.execFabricLaunchGo lid s
  | .fabricLaunchTimeout lid => Sys2Proof.Machine.execFabricLaunchTimeout lid s
  | .fabricLaunchReport lid dev => Sys2Proof.Machine.execFabricLaunchReport lid dev s
  | .launchEnd lid => Sys2Proof.Machine.execLaunchEnd lid s
  | .stepEnd seq lid => Sys2Proof.Machine.execStepEnd seq lid s
  | .viewPrepare seq width => Sys2Proof.Machine.execViewPrepare seq width s
  | .viewAcknowledged seq num member => Sys2Proof.Machine.execViewAcknowledged seq num member s
  | .viewPrepareTimeout seq num => Sys2Proof.Machine.execViewPrepareTimeout seq num s
  | .snapshotTransferComplete seq part => Sys2Proof.Machine.execSnapshotTransferComplete seq part s
  | .catchUp seq num => Sys2Proof.Machine.execCatchUp seq num s
  | .viewRetire seq num => Sys2Proof.Machine.execViewRetire seq num s
  | .memberFault dev => Sys2Proof.Machine.execMemberFault dev s
  | .livenessProbeTimeout dev => Sys2Proof.Machine.execLivenessProbeTimeout dev s
  | .recomputeHandlerLaunch seq => Sys2Proof.Machine.execRecomputeHandlerLaunch seq s
  | .gangRerun lid => Sys2Proof.Machine.execGangRerun lid s
  | .remoteAccessArrival serial => Sys2Proof.Machine.execRemoteAccessArrival serial s
  | .remoteAccessTimeout serial => Sys2Proof.Machine.execRemoteAccessTimeout serial s
  | .flushMarker t dst path => Sys2Proof.Machine.execFlushMarker t dst path s
  | .flitReplay dev port => Sys2Proof.Machine.execFlitReplay dev port s
  | .xferPacketArrival dev core job packet => Sys2Proof.Machine.execXferPacketArrival dev core job packet s
  | .fcommitPrepare t dst => Sys2Proof.Machine.execFcommitPrepare t dst s
  | .fcommitCommit t => Sys2Proof.Machine.execFcommitCommit t s
  | .fcommitAbort t => Sys2Proof.Machine.execFcommitAbort t s
  | .fcommitTimeout t => Sys2Proof.Machine.execFcommitTimeout t s
  | .fredContribution serial err => Sys2Proof.Machine.execFredContribution serial err s
  | .reductionTimeout dev id view => Sys2Proof.Machine.execReductionTimeout dev id view s
  | .viewFailureAnnouncement seq view => Sys2Proof.Machine.execViewFailureAnnouncement seq view s
  | .censusStart census core => Sys2Proof.Machine.execCensusStart census core s
  | .replyArrival serial => Sys2Proof.Machine.execReplyArrival serial s
  | .censusComplete census => Sys2Proof.Machine.execCensusComplete census s
  | .integrityCheck t page block => Sys2Proof.Machine.execIntegrityCheck t page block s
  | .pageRefetch page bytes => Sys2Proof.Machine.execPageRefetch page bytes s
  | .eccCorrected dev u pid => Sys2Proof.Machine.execEccCorrected dev u pid s
  | .patrolScrub dev line found => Sys2Proof.Machine.execPatrolScrub dev line found s
  | .fatalError dev => Sys2Proof.Machine.execFatalError dev s
  | .preset dev pid => Sys2Proof.Machine.execPreset dev pid s
  | .nbvset dev pid v => Sys2Proof.Machine.execNbvset dev pid v s
  | .partitionSwapOut dev pid => Sys2Proof.Machine.execPartitionSwapOut dev pid s
  | .partitionSwapIn dev pid => Sys2Proof.Machine.execPartitionSwapIn dev pid s
  | .swapHaltTimeout dev pid => Sys2Proof.Machine.execSwapHaltTimeout dev pid s
  | .checkpoint dev target => Sys2Proof.Machine.execCheckpoint dev target s
  | .restore dev source => Sys2Proof.Machine.execRestore dev source s
  | .checkpointTargetRegistration dev target capacity rate => Sys2Proof.Machine.execCheckpointTargetRegistration dev target capacity rate s
  | .contentRegionEnable dev pid region on => Sys2Proof.Machine.execContentRegionEnable dev pid region on s
  | .prefixTableEnable dev pid table on => Sys2Proof.Machine.execPrefixTableEnable dev pid table on s
  | .registerWrite dev pid off v => Sys2Proof.Machine.execRegisterWrite dev pid off v s
  | .bar2Access dev pid off size wr => Sys2Proof.Machine.execBar2Access dev pid off size wr s
  | .measuredBoot dev => Sys2Proof.Machine.execMeasuredBoot dev s
  | .configurationRequest dev target => Sys2Proof.Machine.execConfigurationRequest dev target s
  | .powerControlInterval dev watts die hbm => Sys2Proof.Machine.execPowerControlInterval dev watts die hbm s
  | .getVersion dev pid => Sys2Proof.Machine.execGetVersion dev pid s
  | .getCapabilities dev pid => Sys2Proof.Machine.execGetCapabilities dev pid s
  | .negotiateAlgorithms dev pid hashes asyms => Sys2Proof.Machine.execNegotiateAlgorithms dev pid hashes asyms s
  | .getDigests dev pid => Sys2Proof.Machine.execGetDigests dev pid s
  | .getCertificate dev pid slot off len => Sys2Proof.Machine.execGetCertificate dev pid slot off len s
  | .challenge dev pid slot nonce => Sys2Proof.Machine.execChallenge dev pid slot nonce s
  | .getMeasurements dev pid index signed nonce => Sys2Proof.Machine.execGetMeasurements dev pid index signed nonce s
  | .vendorDefinedRequest dev pid vendor code => Sys2Proof.Machine.execVendorDefinedRequest dev pid vendor code s
  | .interlockedResultArrival t => Sys2Proof.Machine.execInterlockedResultArrival t s
  | .storeAcknowledgement t serial => Sys2Proof.Machine.execStoreAcknowledgement t serial s
  | .partitionSaveComplete dev pid => Sys2Proof.Machine.execPartitionSaveComplete dev pid s
  | .checkpointComplete dev => Sys2Proof.Machine.execCheckpointComplete dev s
  | .checkpointTargetLost dev => Sys2Proof.Machine.execCheckpointTargetLost dev s
  | .powerLoss dev => Sys2Proof.Machine.execPowerLoss dev s
  | .routeTableWrite dev dst entry => Sys2Proof.Machine.execRouteTableWrite dev dst entry s
  | .prepareRefusal lid seq num dev => Sys2Proof.Machine.execPrepareRefusal lid seq num dev s
  | .partitionStateError dev pid => Sys2Proof.Machine.execPartitionStateError dev pid s
  | .fabricLinksTrained dev => Sys2Proof.Machine.execFabricLinksTrained dev s

end Sys2Proof.Machine
end

