-- ==== Sys2Proof/Machine/Rows.lean ====
section
/-!
DEFINITION. Which constructor stands for which opcode and form (Table 2.8), in both directions. Event rows have no
encoding.
-/
namespace Sys2Proof
open Encoding

/-- The raw fields of an instruction: `none` for an event row, which has no encoding. -/
def Instr.enc? (i : Instr) : Option Enc :=
  match i with
  | .nopS e => some (e.enc 0x00)
  | .nopL e => some (e.encL 0x00)
  | .braS e => some (e.enc 0x01)
  | .braX e => some (e.encX 0x01)
  | .jmpS e => some (e.enc 0x02)
  | .jmpL e => some (e.encL 0x02)
  | .callS e => some (e.enc 0x03)
  | .callX e => some (e.encX 0x03)
  | .calliS e => some (e.enc 0x04)
  | .calliL e => some (e.encL 0x04)
  | .retS e => some (e.enc 0x05)
  | .retL e => some (e.encL 0x05)
  | .meetS e => some (e.enc 0x06)
  | .meetX e => some (e.encX 0x06)
  | .meetrS e => some (e.enc 0x07)
  | .meetrL e => some (e.encL 0x07)
  | .exitS e => some (e.enc 0x08)
  | .exitL e => some (e.encL 0x08)
  | .trapS e => some (e.enc 0x09)
  | .trapL e => some (e.encL 0x09)
  | .trapX e => some (e.encX 0x09)
  | .brkS e => some (e.enc 0x0A)
  | .brkL e => some (e.encL 0x0A)
  | .yieldS e => some (e.enc 0x0B)
  | .yieldL e => some (e.encL 0x0B)
  | .addS e => some (e.enc 0x10)
  | .addLX e => some (e.enc 0x10)
  | .subS e => some (e.enc 0x11)
  | .subLX e => some (e.enc 0x11)
  | .addx e => some (e.enc 0x12)
  | .subx e => some (e.enc 0x13)
  | .mul e => some (e.enc 0x14)
  | .mulh e => some (e.enc 0x15)
  | .mad e => some (e.enc 0x16)
  | .madw e => some (e.enc 0x17)
  | .div e => some (e.enc 0x18)
  | .rem e => some (e.enc 0x19)
  | .min e => some (e.enc 0x1A)
  | .max e => some (e.enc 0x1B)
  | .abs e => some (e.enc 0x1C)
  | .negS e => some (e.enc 0x1D)
  | .negLX e => some (e.enc 0x1D)
  | .bitc e => some (e.enc 0x1E)
  | .clamp e => some (e.enc 0x1F)
  | .andS e => some (e.enc 0x20)
  | .andLX e => some (e.enc 0x20)
  | .orS e => some (e.enc 0x21)
  | .orLX e => some (e.enc 0x21)
  | .xorS e => some (e.enc 0x22)
  | .xorLX e => some (e.enc 0x22)
  | .andn e => some (e.enc 0x23)
  | .bool3 e => some (e.enc 0x24)
  | .shlS e => some (e.enc 0x25)
  | .shlLX e => some (e.enc 0x25)
  | .shrS e => some (e.enc 0x26)
  | .shrLX e => some (e.enc 0x26)
  | .sarS e => some (e.enc 0x27)
  | .sarLX e => some (e.enc 0x27)
  | .rotl e => some (e.enc 0x28)
  | .rotr e => some (e.enc 0x29)
  | .fsh e => some (e.enc 0x2A)
  | .bfx e => some (e.enc 0x2B)
  | .bfi e => some (e.enc 0x2C)
  | .clmul e => some (e.enc 0x2D)
  | .lea e => some (e.enc 0x2E)
  | .movS e => some (e.enc 0x2F)
  | .movLX e => some (e.enc 0x2F)
  | .cmpS e => some (e.enc 0x30)
  | .cmpLX e => some (e.enc 0x30)
  | .fcmp e => some (e.enc 0x31)
  | .scmp e => some (e.enc 0x39)
  | .qop e => some (e.encL 0x32)
  | .qget e => some (e.encL 0x33)
  | .qset e => some (e.enc 0x34)
  | .selS e => some (e.enc 0x35)
  | .selLX e => some (e.enc 0x35)
  | .ccsel e => some (e.enc 0x36)
  | .ccget e => some (e.encL 0x37)
  | .ccput e => some (e.enc 0x38)
  | .faddS e => some (e.enc 0x40)
  | .faddLX e => some (e.enc 0x40)
  | .fsubS e => some (e.enc 0x41)
  | .fsubLX e => some (e.enc 0x41)
  | .fmulS e => some (e.enc 0x42)
  | .fmulLX e => some (e.enc 0x42)
  | .ffma e => some (e.enc 0x43)
  | .fmin e => some (e.enc 0x44)
  | .fmax e => some (e.enc 0x45)
  | .fdiv e => some (e.enc 0x46)
  | .fsqrt e => some (e.enc 0x47)
  | .frcp e => some (e.enc 0x48)
  | .frsq e => some (e.enc 0x49)
  | .fclass e => some (e.enc 0x4A)
  | .frnd e => some (e.enc 0x4B)
  | .fscale e => some (e.enc 0x4C)
  | .fsplit e => some (e.enc 0x4D)
  | .fdot2 e => some (e.enc 0x4E)
  | .cvt e => some (e.enc 0x50)
  | .quant e => some (e.enc 0x51)
  | .dequant e => some (e.enc 0x52)
  | .pack e => some (e.enc 0x53)
  | .unpack e => some (e.enc 0x54)
  | .fexp2 e => some (e.enc 0x58)
  | .flog2 e => some (e.enc 0x59)
  | .fsin e => some (e.enc 0x5A)
  | .fcos e => some (e.enc 0x5B)
  | .ftanh e => some (e.enc 0x5C)
  | .sadd e => some (e.enc 0x60)
  | .ssub e => some (e.enc 0x61)
  | .smul e => some (e.enc 0x62)
  | .sdiv e => some (e.enc 0x63)
  | .srcp e => some (e.enc 0x64)
  | .slog e => some (e.enc 0x65)
  | .santi e => some (e.enc 0x66)
  | .sfrom e => some (e.enc 0x67)
  | .sto e => some (e.enc 0x68)
  | .sacce e => some (e.enc 0x69)
  | .ldS e => some (e.enc 0x70)
  | .ldLX e => some (e.enc 0x70)
  | .stS e => some (e.enc 0x71)
  | .stLX e => some (e.enc 0x71)
  | .ldsS e => some (e.enc 0x72)
  | .ldsLX e => some (e.enc 0x72)
  | .stsS e => some (e.enc 0x73)
  | .stsLX e => some (e.enc 0x73)
  | .ldf e => some (e.enc 0x74)
  | .ldk e => some (e.enc 0x75)
  | .pfch e => some (e.enc 0x76)
  | .cctlInv e => some ((({ e with c := 0 } : LX).encL) 0x77)
  | .cctlInvl e => some ((({ e with c := 1 } : LX).encL) 0x77)
  | .fence e => some (e.encL 0x78)
  | .amo e => some (e.enc 0x80)
  | .amos e => some (e.enc 0x81)
  | .sinit e => some (e.enc 0x82)
  | .sarriveS e => some (e.enc 0x83)
  | .sarriveLX e => some (e.enc 0x83)
  | .swaitS e => some (e.enc 0x84)
  | .swaitLX e => some (e.enc 0x84)
  | .sbarS e => some (e.enc 0x85)
  | .sbarL e => some (e.encL 0x85)
  | .spoll e => some (e.enc 0x86)
  | .xperm e => some (e.enc 0x90)
  | .xbcast e => some (e.enc 0x91)
  | .xvote e => some (e.enc 0x92)
  | .xred e => some (e.enc 0x93)
  | .xscan e => some (e.enc 0x94)
  | .xmatch e => some (e.enc 0x95)
  | .xelect e => some (e.enc 0x96)
  | .acca e => some (e.enc 0xA0)
  | .accf e => some (e.enc 0xA1)
  | .mload e => some (e.encL 0xA2)
  | .rowld e => some (e.encL 0xA3)
  | .hada e => some (e.encL 0xA4)
  | .mmac e => some (e.enc 0xA5)
  | .aswap e => some (e.enc 0xA6)
  | .accz e => some (e.enc 0xA9)
  | .accrd e => some (e.encL 0xA7)
  | .accst e => some (e.encL 0xA8)
  | .xcopy e => some (e.enc 0xB0)
  | .xgath e => some (e.encL 0xB1)
  | .fork e => some (e.enc 0xB2)
  | .rdv e => some (e.encL 0xB3)
  | .gres e => some (e.encL 0xB4)
  | .xfer e => some (e.encL 0xB8)
  | .fbegin e => some (e.encX 0xB9)
  | .fcommit e => some (e.encL 0xBA)
  | .fred e => some (e.encL 0xBB)
  | .cloa e => some (e.encL 0xC0)
  | .cld e => some (e.enc 0xC1)
  | .cref e => some (e.encL 0xC2)
  | .cunref e => some (e.encL 0xC3)
  | .cswap e => some (e.encL 0xC4)
  | .ccopy e => some (e.encL 0xC5)
  | .lhash e => some (e.encL 0xC6)
  | .hblk e => some (e.encL 0xC7)
  | .pflook e => some (e.encL 0xC8)
  | .pfins e => some (e.encL 0xC9)
  | .pfpin e => some (e.encL 0xCA)
  | .pfunpin e => some (e.encL 0xCB)
  | .stepbeg e => some (e.enc 0xD0)
  | .stepend e => some (e.encL 0xD1)
  | .gview e => some (e.enc 0xD2)
  | .gsetw e => some (e.enc 0xD3)
  | .kvld e => some (e.encL 0xD4)
  | .kvst e => some (e.encL 0xD5)
  | .kvcommit e => some (e.encL 0xD6)
  | .kvreject e => some (e.encL 0xD7)
  | .kvfork e => some (e.encL 0xD8)
  | .kvinfoLen e => some ((({ e with c := 0 } : LX).encL) 0xD9)
  | .kvinfoBlk e => some ((({ e with c := 1 } : LX).encL) 0xD9)
  | .kvinfoHash e => some ((({ e with c := 2 } : LX).encL) 0xD9)
  | .kvinfoTok e => some ((({ e with c := 3 } : LX).encL) 0xD9)
  | .kvinfoThr e => some ((({ e with c := 4 } : LX).encL) 0xD9)
  | .kvinfoMint e => some ((({ e with c := 5 } : LX).encL) 0xD9)
  | .kvinfoRevoke e => some ((({ e with c := 6 } : LX).encL) 0xD9)
  | .solicit e => some (e.encL 0xDA)
  | .dirput e => some (e.encL 0xDB)
  | .dirdel e => some (e.encL 0xDC)
  | .reply e => some (e.encL 0xDD)
  | .rdsr e => some (e.encL 0xE0)
  | .wrsr e => some (e.enc 0xE1)
  | .kset e => some (e.enc 0xE2)
  | .launch e => some (e.enc 0xE3)
  | .reggive e => some (e.enc 0xE4)
  | .regclaim e => some (e.enc 0xE5)
  | .tkclaim e => some (e.encL 0xE6)
  | .mbind e => some (e.encL 0xE7)
  | .tlbinv e => some (e.enc 0xE8)
  | _ => none

/-- The instruction of a form and opcode whose fields are `e` (Table 2.8): `none` where the table gives none. -/
def instrOf (e : Enc) : Option Instr :=
  match e.form, e.op.toNat with
  | .l, 0x00 => some (.nopL (lxOf e))
  | .l, 0x02 => some (.jmpL (lxOf e))
  | .l, 0x04 => some (.calliL (lxOf e))
  | .l, 0x05 => some (.retL (lxOf e))
  | .l, 0x07 => some (.meetrL (lxOf e))
  | .l, 0x08 => some (.exitL (lxOf e))
  | .l, 0x09 => some (.trapL (lxOf e))
  | .l, 0x0A => some (.brkL (lxOf e))
  | .l, 0x0B => some (.yieldL (lxOf e))
  | .l, 0x10 => some (.addLX (lxOf e))
  | .l, 0x11 => some (.subLX (lxOf e))
  | .l, 0x12 => some (.addx (lxOf e))
  | .l, 0x13 => some (.subx (lxOf e))
  | .l, 0x14 => some (.mul (lxOf e))
  | .l, 0x15 => some (.mulh (lxOf e))
  | .l, 0x16 => some (.mad (lxOf e))
  | .l, 0x17 => some (.madw (lxOf e))
  | .l, 0x18 => some (.div (lxOf e))
  | .l, 0x19 => some (.rem (lxOf e))
  | .l, 0x1A => some (.min (lxOf e))
  | .l, 0x1B => some (.max (lxOf e))
  | .l, 0x1C => some (.abs (lxOf e))
  | .l, 0x1D => some (.negLX (lxOf e))
  | .l, 0x1E => some (.bitc (lxOf e))
  | .l, 0x1F => some (.clamp (lxOf e))
  | .l, 0x20 => some (.andLX (lxOf e))
  | .l, 0x21 => some (.orLX (lxOf e))
  | .l, 0x22 => some (.xorLX (lxOf e))
  | .l, 0x23 => some (.andn (lxOf e))
  | .l, 0x24 => some (.bool3 (lxOf e))
  | .l, 0x25 => some (.shlLX (lxOf e))
  | .l, 0x26 => some (.shrLX (lxOf e))
  | .l, 0x27 => some (.sarLX (lxOf e))
  | .l, 0x28 => some (.rotl (lxOf e))
  | .l, 0x29 => some (.rotr (lxOf e))
  | .l, 0x2A => some (.fsh (lxOf e))
  | .l, 0x2B => some (.bfx (lxOf e))
  | .l, 0x2C => some (.bfi (lxOf e))
  | .l, 0x2D => some (.clmul (lxOf e))
  | .l, 0x2E => some (.lea (lxOf e))
  | .l, 0x2F => some (.movLX (lxOf e))
  | .l, 0x30 => some (.cmpLX (lxOf e))
  | .l, 0x31 => some (.fcmp (lxOf e))
  | .l, 0x32 => some (.qop (lxOf e))
  | .l, 0x33 => some (.qget (lxOf e))
  | .l, 0x34 => some (.qset (lxOf e))
  | .l, 0x35 => some (.selLX (lxOf e))
  | .l, 0x36 => some (.ccsel (lxOf e))
  | .l, 0x37 => some (.ccget (lxOf e))
  | .l, 0x38 => some (.ccput (lxOf e))
  | .l, 0x39 => some (.scmp (lxOf e))
  | .l, 0x40 => some (.faddLX (lxOf e))
  | .l, 0x41 => some (.fsubLX (lxOf e))
  | .l, 0x42 => some (.fmulLX (lxOf e))
  | .l, 0x43 => some (.ffma (lxOf e))
  | .l, 0x44 => some (.fmin (lxOf e))
  | .l, 0x45 => some (.fmax (lxOf e))
  | .l, 0x46 => some (.fdiv (lxOf e))
  | .l, 0x47 => some (.fsqrt (lxOf e))
  | .l, 0x48 => some (.frcp (lxOf e))
  | .l, 0x49 => some (.frsq (lxOf e))
  | .l, 0x4A => some (.fclass (lxOf e))
  | .l, 0x4B => some (.frnd (lxOf e))
  | .l, 0x4C => some (.fscale (lxOf e))
  | .l, 0x4D => some (.fsplit (lxOf e))
  | .l, 0x4E => some (.fdot2 (lxOf e))
  | .l, 0x50 => some (.cvt (lxOf e))
  | .l, 0x51 => some (.quant (lxOf e))
  | .l, 0x52 => some (.dequant (lxOf e))
  | .l, 0x53 => some (.pack (lxOf e))
  | .l, 0x54 => some (.unpack (lxOf e))
  | .l, 0x58 => some (.fexp2 (lxOf e))
  | .l, 0x59 => some (.flog2 (lxOf e))
  | .l, 0x5A => some (.fsin (lxOf e))
  | .l, 0x5B => some (.fcos (lxOf e))
  | .l, 0x5C => some (.ftanh (lxOf e))
  | .l, 0x60 => some (.sadd (lxOf e))
  | .l, 0x61 => some (.ssub (lxOf e))
  | .l, 0x62 => some (.smul (lxOf e))
  | .l, 0x63 => some (.sdiv (lxOf e))
  | .l, 0x64 => some (.srcp (lxOf e))
  | .l, 0x65 => some (.slog (lxOf e))
  | .l, 0x66 => some (.santi (lxOf e))
  | .l, 0x67 => some (.sfrom (lxOf e))
  | .l, 0x68 => some (.sto (lxOf e))
  | .l, 0x69 => some (.sacce (lxOf e))
  | .l, 0x70 => some (.ldLX (lxOf e))
  | .l, 0x71 => some (.stLX (lxOf e))
  | .l, 0x72 => some (.ldsLX (lxOf e))
  | .l, 0x73 => some (.stsLX (lxOf e))
  | .l, 0x74 => some (.ldf (lxOf e))
  | .l, 0x75 => some (.ldk (lxOf e))
  | .l, 0x76 => some (.pfch (lxOf e))
  | .l, 0x77 =>
    match e.c.toNat with
    | 0 => some (.cctlInv (lxOf e))
    | 1 => some (.cctlInvl (lxOf e))
    | _ => none
  | .l, 0x78 => some (.fence (lxOf e))
  | .l, 0x80 => some (.amo (lxOf e))
  | .l, 0x81 => some (.amos (lxOf e))
  | .l, 0x82 => some (.sinit (lxOf e))
  | .l, 0x83 => some (.sarriveLX (lxOf e))
  | .l, 0x84 => some (.swaitLX (lxOf e))
  | .l, 0x85 => some (.sbarL (lxOf e))
  | .l, 0x86 => some (.spoll (lxOf e))
  | .l, 0x90 => some (.xperm (lxOf e))
  | .l, 0x91 => some (.xbcast (lxOf e))
  | .l, 0x92 => some (.xvote (lxOf e))
  | .l, 0x93 => some (.xred (lxOf e))
  | .l, 0x94 => some (.xscan (lxOf e))
  | .l, 0x95 => some (.xmatch (lxOf e))
  | .l, 0x96 => some (.xelect (lxOf e))
  | .l, 0xA0 => some (.acca (lxOf e))
  | .l, 0xA1 => some (.accf (lxOf e))
  | .l, 0xA2 => some (.mload (lxOf e))
  | .l, 0xA3 => some (.rowld (lxOf e))
  | .l, 0xA4 => some (.hada (lxOf e))
  | .l, 0xA5 => some (.mmac (lxOf e))
  | .l, 0xA6 => some (.aswap (lxOf e))
  | .l, 0xA7 => some (.accrd (lxOf e))
  | .l, 0xA8 => some (.accst (lxOf e))
  | .l, 0xA9 => some (.accz (lxOf e))
  | .l, 0xB0 => some (.xcopy (lxOf e))
  | .l, 0xB1 => some (.xgath (lxOf e))
  | .l, 0xB2 => some (.fork (lxOf e))
  | .l, 0xB3 => some (.rdv (lxOf e))
  | .l, 0xB4 => some (.gres (lxOf e))
  | .l, 0xB8 => some (.xfer (lxOf e))
  | .l, 0xBA => some (.fcommit (lxOf e))
  | .l, 0xBB => some (.fred (lxOf e))
  | .l, 0xC0 => some (.cloa (lxOf e))
  | .l, 0xC1 => some (.cld (lxOf e))
  | .l, 0xC2 => some (.cref (lxOf e))
  | .l, 0xC3 => some (.cunref (lxOf e))
  | .l, 0xC4 => some (.cswap (lxOf e))
  | .l, 0xC5 => some (.ccopy (lxOf e))
  | .l, 0xC6 => some (.lhash (lxOf e))
  | .l, 0xC7 => some (.hblk (lxOf e))
  | .l, 0xC8 => some (.pflook (lxOf e))
  | .l, 0xC9 => some (.pfins (lxOf e))
  | .l, 0xCA => some (.pfpin (lxOf e))
  | .l, 0xCB => some (.pfunpin (lxOf e))
  | .l, 0xD0 => some (.stepbeg (lxOf e))
  | .l, 0xD1 => some (.stepend (lxOf e))
  | .l, 0xD2 => some (.gview (lxOf e))
  | .l, 0xD3 => some (.gsetw (lxOf e))
  | .l, 0xD4 => some (.kvld (lxOf e))
  | .l, 0xD5 => some (.kvst (lxOf e))
  | .l, 0xD6 => some (.kvcommit (lxOf e))
  | .l, 0xD7 => some (.kvreject (lxOf e))
  | .l, 0xD8 => some (.kvfork (lxOf e))
  | .l, 0xD9 =>
    match e.c.toNat with
    | 0 => some (.kvinfoLen (lxOf e))
    | 1 => some (.kvinfoBlk (lxOf e))
    | 2 => some (.kvinfoHash (lxOf e))
    | 3 => some (.kvinfoTok (lxOf e))
    | 4 => some (.kvinfoThr (lxOf e))
    | 5 => some (.kvinfoMint (lxOf e))
    | 6 => some (.kvinfoRevoke (lxOf e))
    | _ => none
  | .l, 0xDA => some (.solicit (lxOf e))
  | .l, 0xDB => some (.dirput (lxOf e))
  | .l, 0xDC => some (.dirdel (lxOf e))
  | .l, 0xDD => some (.reply (lxOf e))
  | .l, 0xE0 => some (.rdsr (lxOf e))
  | .l, 0xE1 => some (.wrsr (lxOf e))
  | .l, 0xE2 => some (.kset (lxOf e))
  | .l, 0xE3 => some (.launch (lxOf e))
  | .l, 0xE4 => some (.reggive (lxOf e))
  | .l, 0xE5 => some (.regclaim (lxOf e))
  | .l, 0xE6 => some (.tkclaim (lxOf e))
  | .l, 0xE7 => some (.mbind (lxOf e))
  | .l, 0xE8 => some (.tlbinv (lxOf e))
  | .s, 0x00 => some (.nopS (sOf e))
  | .s, 0x01 => some (.braS (sOf e))
  | .s, 0x02 => some (.jmpS (sOf e))
  | .s, 0x03 => some (.callS (sOf e))
  | .s, 0x04 => some (.calliS (sOf e))
  | .s, 0x05 => some (.retS (sOf e))
  | .s, 0x06 => some (.meetS (sOf e))
  | .s, 0x07 => some (.meetrS (sOf e))
  | .s, 0x08 => some (.exitS (sOf e))
  | .s, 0x09 => some (.trapS (sOf e))
  | .s, 0x0A => some (.brkS (sOf e))
  | .s, 0x0B => some (.yieldS (sOf e))
  | .s, 0x10 => some (.addS (sOf e))
  | .s, 0x11 => some (.subS (sOf e))
  | .s, 0x1D => some (.negS (sOf e))
  | .s, 0x20 => some (.andS (sOf e))
  | .s, 0x21 => some (.orS (sOf e))
  | .s, 0x22 => some (.xorS (sOf e))
  | .s, 0x25 => some (.shlS (sOf e))
  | .s, 0x26 => some (.shrS (sOf e))
  | .s, 0x27 => some (.sarS (sOf e))
  | .s, 0x2F => some (.movS (sOf e))
  | .s, 0x30 => some (.cmpS (sOf e))
  | .s, 0x35 => some (.selS (sOf e))
  | .s, 0x40 => some (.faddS (sOf e))
  | .s, 0x41 => some (.fsubS (sOf e))
  | .s, 0x42 => some (.fmulS (sOf e))
  | .s, 0x70 => some (.ldS (sOf e))
  | .s, 0x71 => some (.stS (sOf e))
  | .s, 0x72 => some (.ldsS (sOf e))
  | .s, 0x73 => some (.stsS (sOf e))
  | .s, 0x83 => some (.sarriveS (sOf e))
  | .s, 0x84 => some (.swaitS (sOf e))
  | .s, 0x85 => some (.sbarS (sOf e))
  | .x, 0x01 => some (.braX (lxOf e))
  | .x, 0x03 => some (.callX (lxOf e))
  | .x, 0x06 => some (.meetX (lxOf e))
  | .x, 0x09 => some (.trapX (lxOf e))
  | .x, 0x10 => some (.addLX (lxOf e))
  | .x, 0x11 => some (.subLX (lxOf e))
  | .x, 0x12 => some (.addx (lxOf e))
  | .x, 0x13 => some (.subx (lxOf e))
  | .x, 0x14 => some (.mul (lxOf e))
  | .x, 0x15 => some (.mulh (lxOf e))
  | .x, 0x16 => some (.mad (lxOf e))
  | .x, 0x17 => some (.madw (lxOf e))
  | .x, 0x18 => some (.div (lxOf e))
  | .x, 0x19 => some (.rem (lxOf e))
  | .x, 0x1A => some (.min (lxOf e))
  | .x, 0x1B => some (.max (lxOf e))
  | .x, 0x1C => some (.abs (lxOf e))
  | .x, 0x1D => some (.negLX (lxOf e))
  | .x, 0x1E => some (.bitc (lxOf e))
  | .x, 0x1F => some (.clamp (lxOf e))
  | .x, 0x20 => some (.andLX (lxOf e))
  | .x, 0x21 => some (.orLX (lxOf e))
  | .x, 0x22 => some (.xorLX (lxOf e))
  | .x, 0x23 => some (.andn (lxOf e))
  | .x, 0x24 => some (.bool3 (lxOf e))
  | .x, 0x25 => some (.shlLX (lxOf e))
  | .x, 0x26 => some (.shrLX (lxOf e))
  | .x, 0x27 => some (.sarLX (lxOf e))
  | .x, 0x28 => some (.rotl (lxOf e))
  | .x, 0x29 => some (.rotr (lxOf e))
  | .x, 0x2A => some (.fsh (lxOf e))
  | .x, 0x2B => some (.bfx (lxOf e))
  | .x, 0x2C => some (.bfi (lxOf e))
  | .x, 0x2D => some (.clmul (lxOf e))
  | .x, 0x2E => some (.lea (lxOf e))
  | .x, 0x2F => some (.movLX (lxOf e))
  | .x, 0x30 => some (.cmpLX (lxOf e))
  | .x, 0x31 => some (.fcmp (lxOf e))
  | .x, 0x34 => some (.qset (lxOf e))
  | .x, 0x35 => some (.selLX (lxOf e))
  | .x, 0x36 => some (.ccsel (lxOf e))
  | .x, 0x38 => some (.ccput (lxOf e))
  | .x, 0x39 => some (.scmp (lxOf e))
  | .x, 0x40 => some (.faddLX (lxOf e))
  | .x, 0x41 => some (.fsubLX (lxOf e))
  | .x, 0x42 => some (.fmulLX (lxOf e))
  | .x, 0x43 => some (.ffma (lxOf e))
  | .x, 0x44 => some (.fmin (lxOf e))
  | .x, 0x45 => some (.fmax (lxOf e))
  | .x, 0x46 => some (.fdiv (lxOf e))
  | .x, 0x47 => some (.fsqrt (lxOf e))
  | .x, 0x48 => some (.frcp (lxOf e))
  | .x, 0x49 => some (.frsq (lxOf e))
  | .x, 0x4A => some (.fclass (lxOf e))
  | .x, 0x4B => some (.frnd (lxOf e))
  | .x, 0x4C => some (.fscale (lxOf e))
  | .x, 0x4D => some (.fsplit (lxOf e))
  | .x, 0x4E => some (.fdot2 (lxOf e))
  | .x, 0x50 => some (.cvt (lxOf e))
  | .x, 0x51 => some (.quant (lxOf e))
  | .x, 0x52 => some (.dequant (lxOf e))
  | .x, 0x53 => some (.pack (lxOf e))
  | .x, 0x54 => some (.unpack (lxOf e))
  | .x, 0x58 => some (.fexp2 (lxOf e))
  | .x, 0x59 => some (.flog2 (lxOf e))
  | .x, 0x5A => some (.fsin (lxOf e))
  | .x, 0x5B => some (.fcos (lxOf e))
  | .x, 0x5C => some (.ftanh (lxOf e))
  | .x, 0x60 => some (.sadd (lxOf e))
  | .x, 0x61 => some (.ssub (lxOf e))
  | .x, 0x62 => some (.smul (lxOf e))
  | .x, 0x63 => some (.sdiv (lxOf e))
  | .x, 0x64 => some (.srcp (lxOf e))
  | .x, 0x65 => some (.slog (lxOf e))
  | .x, 0x66 => some (.santi (lxOf e))
  | .x, 0x67 => some (.sfrom (lxOf e))
  | .x, 0x68 => some (.sto (lxOf e))
  | .x, 0x69 => some (.sacce (lxOf e))
  | .x, 0x70 => some (.ldLX (lxOf e))
  | .x, 0x71 => some (.stLX (lxOf e))
  | .x, 0x72 => some (.ldsLX (lxOf e))
  | .x, 0x73 => some (.stsLX (lxOf e))
  | .x, 0x74 => some (.ldf (lxOf e))
  | .x, 0x75 => some (.ldk (lxOf e))
  | .x, 0x76 => some (.pfch (lxOf e))
  | .x, 0x80 => some (.amo (lxOf e))
  | .x, 0x81 => some (.amos (lxOf e))
  | .x, 0x82 => some (.sinit (lxOf e))
  | .x, 0x83 => some (.sarriveLX (lxOf e))
  | .x, 0x84 => some (.swaitLX (lxOf e))
  | .x, 0x86 => some (.spoll (lxOf e))
  | .x, 0x90 => some (.xperm (lxOf e))
  | .x, 0x91 => some (.xbcast (lxOf e))
  | .x, 0x92 => some (.xvote (lxOf e))
  | .x, 0x93 => some (.xred (lxOf e))
  | .x, 0x94 => some (.xscan (lxOf e))
  | .x, 0x95 => some (.xmatch (lxOf e))
  | .x, 0x96 => some (.xelect (lxOf e))
  | .x, 0xA0 => some (.acca (lxOf e))
  | .x, 0xA1 => some (.accf (lxOf e))
  | .x, 0xA5 => some (.mmac (lxOf e))
  | .x, 0xA6 => some (.aswap (lxOf e))
  | .x, 0xA9 => some (.accz (lxOf e))
  | .x, 0xB0 => some (.xcopy (lxOf e))
  | .x, 0xB2 => some (.fork (lxOf e))
  | .x, 0xB9 => some (.fbegin (lxOf e))
  | .x, 0xC1 => some (.cld (lxOf e))
  | .x, 0xD0 => some (.stepbeg (lxOf e))
  | .x, 0xD2 => some (.gview (lxOf e))
  | .x, 0xD3 => some (.gsetw (lxOf e))
  | .x, 0xE1 => some (.wrsr (lxOf e))
  | .x, 0xE2 => some (.kset (lxOf e))
  | .x, 0xE3 => some (.launch (lxOf e))
  | .x, 0xE4 => some (.reggive (lxOf e))
  | .x, 0xE5 => some (.regclaim (lxOf e))
  | .x, 0xE8 => some (.tlbinv (lxOf e))
  | _, _ => none

/-- Whether the term's literal fits its form: an X form has one and keeps its b field zero, an L form has none; and
the sub-operation of cctl and kvinfo rows is the row's own. -/
def litOk (e : LX) : Bool := match e.lit with | none => true | some _ => e.b == 0

/-- The shape of a term: rows of the L form have no literal, rows of the X form have one. -/
def Instr.shape (i : Instr) : Bool :=
  match i with
  | .nopL e => e.lit.isNone
  | .braX e => e.lit.isSome
  | .jmpL e => e.lit.isNone
  | .callX e => e.lit.isSome
  | .calliL e => e.lit.isNone
  | .retL e => e.lit.isNone
  | .meetX e => e.lit.isSome
  | .meetrL e => e.lit.isNone
  | .exitL e => e.lit.isNone
  | .trapL e => e.lit.isNone
  | .trapX e => e.lit.isSome
  | .brkL e => e.lit.isNone
  | .yieldL e => e.lit.isNone
  | .addLX e => litOk e
  | .subLX e => litOk e
  | .addx e => litOk e
  | .subx e => litOk e
  | .mul e => litOk e
  | .mulh e => litOk e
  | .mad e => litOk e
  | .madw e => litOk e
  | .div e => litOk e
  | .rem e => litOk e
  | .min e => litOk e
  | .max e => litOk e
  | .abs e => litOk e
  | .negLX e => litOk e
  | .bitc e => litOk e
  | .clamp e => litOk e
  | .andLX e => litOk e
  | .orLX e => litOk e
  | .xorLX e => litOk e
  | .andn e => litOk e
  | .bool3 e => litOk e
  | .shlLX e => litOk e
  | .shrLX e => litOk e
  | .sarLX e => litOk e
  | .rotl e => litOk e
  | .rotr e => litOk e
  | .fsh e => litOk e
  | .bfx e => litOk e
  | .bfi e => litOk e
  | .clmul e => litOk e
  | .lea e => litOk e
  | .movLX e => litOk e
  | .cmpLX e => litOk e
  | .fcmp e => litOk e
  | .scmp e => litOk e
  | .qop e => e.lit.isNone
  | .qget e => e.lit.isNone
  | .qset e => litOk e
  | .selLX e => litOk e
  | .ccsel e => litOk e
  | .ccget e => e.lit.isNone
  | .ccput e => litOk e
  | .faddLX e => litOk e
  | .fsubLX e => litOk e
  | .fmulLX e => litOk e
  | .ffma e => litOk e
  | .fmin e => litOk e
  | .fmax e => litOk e
  | .fdiv e => litOk e
  | .fsqrt e => litOk e
  | .frcp e => litOk e
  | .frsq e => litOk e
  | .fclass e => litOk e
  | .frnd e => litOk e
  | .fscale e => litOk e
  | .fsplit e => litOk e
  | .fdot2 e => litOk e
  | .cvt e => litOk e
  | .quant e => litOk e
  | .dequant e => litOk e
  | .pack e => litOk e
  | .unpack e => litOk e
  | .fexp2 e => litOk e
  | .flog2 e => litOk e
  | .fsin e => litOk e
  | .fcos e => litOk e
  | .ftanh e => litOk e
  | .sadd e => litOk e
  | .ssub e => litOk e
  | .smul e => litOk e
  | .sdiv e => litOk e
  | .srcp e => litOk e
  | .slog e => litOk e
  | .santi e => litOk e
  | .sfrom e => litOk e
  | .sto e => litOk e
  | .sacce e => litOk e
  | .ldLX e => litOk e
  | .stLX e => litOk e
  | .ldsLX e => litOk e
  | .stsLX e => litOk e
  | .ldf e => litOk e
  | .ldk e => litOk e
  | .pfch e => litOk e
  | .cctlInv e => e.lit.isNone && e.c == 0
  | .cctlInvl e => e.lit.isNone && e.c == 1
  | .fence e => e.lit.isNone
  | .amo e => litOk e
  | .amos e => litOk e
  | .sinit e => litOk e
  | .sarriveLX e => litOk e
  | .swaitLX e => litOk e
  | .sbarL e => e.lit.isNone
  | .spoll e => litOk e
  | .xperm e => litOk e
  | .xbcast e => litOk e
  | .xvote e => litOk e
  | .xred e => litOk e
  | .xscan e => litOk e
  | .xmatch e => litOk e
  | .xelect e => litOk e
  | .acca e => litOk e
  | .accf e => litOk e
  | .mload e => e.lit.isNone
  | .rowld e => e.lit.isNone
  | .hada e => e.lit.isNone
  | .mmac e => litOk e
  | .aswap e => litOk e
  | .accz e => litOk e
  | .accrd e => e.lit.isNone
  | .accst e => e.lit.isNone
  | .xcopy e => litOk e
  | .xgath e => e.lit.isNone
  | .fork e => litOk e
  | .rdv e => e.lit.isNone
  | .gres e => e.lit.isNone
  | .xfer e => e.lit.isNone
  | .fbegin e => e.lit.isSome
  | .fcommit e => e.lit.isNone
  | .fred e => e.lit.isNone
  | .cloa e => e.lit.isNone
  | .cld e => litOk e
  | .cref e => e.lit.isNone
  | .cunref e => e.lit.isNone
  | .cswap e => e.lit.isNone
  | .ccopy e => e.lit.isNone
  | .lhash e => e.lit.isNone
  | .hblk e => e.lit.isNone
  | .pflook e => e.lit.isNone
  | .pfins e => e.lit.isNone
  | .pfpin e => e.lit.isNone
  | .pfunpin e => e.lit.isNone
  | .stepbeg e => litOk e
  | .stepend e => e.lit.isNone
  | .gview e => litOk e
  | .gsetw e => litOk e
  | .kvld e => e.lit.isNone
  | .kvst e => e.lit.isNone
  | .kvcommit e => e.lit.isNone
  | .kvreject e => e.lit.isNone
  | .kvfork e => e.lit.isNone
  | .kvinfoLen e => e.lit.isNone && e.c == 0
  | .kvinfoBlk e => e.lit.isNone && e.c == 1
  | .kvinfoHash e => e.lit.isNone && e.c == 2
  | .kvinfoTok e => e.lit.isNone && e.c == 3
  | .kvinfoThr e => e.lit.isNone && e.c == 4
  | .kvinfoMint e => e.lit.isNone && e.c == 5
  | .kvinfoRevoke e => e.lit.isNone && e.c == 6
  | .solicit e => e.lit.isNone
  | .dirput e => e.lit.isNone
  | .dirdel e => e.lit.isNone
  | .reply e => e.lit.isNone
  | .rdsr e => e.lit.isNone
  | .wrsr e => litOk e
  | .kset e => litOk e
  | .launch e => litOk e
  | .reggive e => litOk e
  | .regclaim e => litOk e
  | .tkclaim e => e.lit.isNone
  | .mbind e => e.lit.isNone
  | .tlbinv e => litOk e
  | _ => true

end Sys2Proof
end

