-- ==== Sys2Proof/WellFormed.lean ====
section
/-!
DEFINITION. Well-formed instructions: the terms that stand for words which pass every check of Table 2.10 that rests on
the words alone (R33). Event rows have no words and are well-formed as they stand.
-/
namespace Sys2Proof

/-- Why words are rejected: the causes of Table 2.10 that rest on the words alone. -/
inductive Reject where
  | lengthField
  | reservedOpcode
  | unassignedOpcode
  | form
  | reservedBit
  | typeValue
  | modifierValue
  | conditionCodes
  | lookahead
  | registerCode
  | grantedCount
  | pair
  | destination
  | specialRegister
  | illegalUse
  deriving DecidableEq, Repr

/-- The name of a cause number of Table 2.10. -/
def Reject.ofCause (n : Nat) : Reject :=
  match n with
  | 1 => .lengthField
  | 3 => .reservedOpcode
  | 4 => .unassignedOpcode
  | 5 => .form
  | 6 => .reservedBit
  | 7 => .typeValue
  | 8 => .modifierValue
  | 9 => .conditionCodes
  | 10 => .lookahead
  | 11 => .registerCode
  | 12 => .grantedCount
  | 13 => .pair
  | 14 => .destination
  | 15 => .specialRegister
  | _ => .illegalUse

/-- The cause that rejects raw fields, if any, with 192 registers granted and every privilege (R33). -/
def Enc.reject (e : Enc) : Option Reject :=
  (Encoding.illegal e 192 false true).map (fun d => Reject.ofCause (d.toNat / 2 ^ 24))

/-- Well-formed: the term has the shape of its row and its fields pass every check on the words alone. -/
def Instr.wf (i : Instr) : Bool :=
  match i.enc? with
  | none => true
  | some e => i.shape && e.reject.isNone

end Sys2Proof
end

