-- ==== Sys2Proof/Decode.lean ====
section
/-!
DEFINITION. Decoding: from the bytes at the program counter to an instruction, total, rejecting by name (R20 to R34);
and the encoder, from the same tables.
-/
namespace Sys2Proof
open Encoding

/-- The instruction of words W0, W1, W2 and its raw fields; words past the form's length are not read. -/
def decodeWords (w0 w1 w2 : Word) : Except Reject (Enc × Instr) :=
  match ofWords w0 w1 w2 with
  | none => .error .lengthField
  | some e =>
    match e.reject with
    | some r => .error r
    | none =>
      match instrOf e with
      | some i => .ok (e, i)
      | none => .error .illegalUse

/-- Decode little-endian bytes (R4): the instruction and the bytes after it. Too few bytes are rejected as a length. -/
def decodeBytes (bs : List Byte) : Except Reject (Instr × List Byte) :=
  match decodeWords (Bits.wordAt bs 0) (Bits.wordAt bs 4) (Bits.wordAt bs 8) with
  | .error r => .error r
  | .ok (e, i) => if bs.length < len e then .error .lengthField else .ok (i, bs.drop (len e))

/-- The words of an instruction; an event row has none. -/
def encode (i : Instr) : List Word :=
  match i.enc? with
  | some e => toWords e
  | none => []

/-- The bytes of an instruction, as memory holds them (R4). -/
def encodeBytes (i : Instr) : List Byte := (encode i).flatMap (fun w => Bits.toBytes 4 w.toNat)

/-- Decode a list of words (missing words read as zero). -/
def decodeList (ws : List Word) : Except Reject Instr :=
  match decodeWords (ws.getD 0 0) (ws.getD 1 0) (ws.getD 2 0) with
  | .error r => .error r
  | .ok (_, i) => .ok i

/-- The instruction the decoder reads from bits numbered as the opcode table numbers them: the first word in bits 31:0,
each later word above it; bits at and above `nbits` are zero. -/
def decodeTableWord (nbits w : Nat) : Option Instr :=
  let v := w % 2 ^ nbits
  match decodeBytes (Bits.toBytes 12 v) with
  | .ok (i, _) => some i
  | .error _ => none

end Sys2Proof
end

