-- ==== Sys2Proof/Machine/Vote.lean ====
section
/-!
DEFINITION. A cycle: time, what happens of itself at its start, and the issue vote (07 R101 to R108; 00 R6; 11 R171; 26 R347, R348).
-/
namespace Sys2Proof.Machine
open Sys2Proof Bits Encoding

/-! ## Time (R6, R347, R348) -/

/-- A device after `q` units of 1/1,900 ns: the periods of its arithmetic clock that end in them at its frequency. -/
def Device.tick (q : Nat) (d : Device) : Device :=
  let t := d.clkFrac + q * d.mhz
  { d with clk := d.clk + t / 1900000, clkFrac := t % 1900000 }

/-- Time passes: a cycle at 1,900 MHz while a phase runs, so that no cycle goes by without its vote (R102, R109); else how much more is open
(notes/assumptions/5.md). -/
def State.advance (s : State) : State :=
  let runs := s.allGroups.any (fun g => g.resident && g.phase = .running && (s.dev? g.dev).answers)
  let q := if runs then 1000 else 1000 + Config.nanos s.tick
  let t := s.nowFrac + q
  { s.mapDevs (Device.tick q) with now := s.now + t / 1900, nowFrac := t % 1900, tick := s.tick + 1 }

/-- Whether the clock of a device has ticked between two states. -/
def State.ticked (s s1 : State) (dev : Nat) : Bool := decide ((s1.dev? dev).clk ≠ (s.dev? dev).clk)

/-- What is noted for the cycle that has ended, on the devices whose clock has ticked, is gone. -/
def State.clearCycle (on : Nat → Bool) (s : State) : State :=
  let keep := fun (gid : Nat) => (s.group? gid).any (fun g => !on g.dev)
  { s with cycTrap := s.cycTrap.filter (fun x => keep x.1), cycOnce := s.cycOnce.filter (fun x => keep x.2.1), cycSets := s.cycSets.filter (fun x => keep x.1) }

/-! ## What happens of itself at the start of a cycle -/

/-- An event of a thread, where it is due. -/
def State.tryThread (f : State → Option State) (s : State) (k : ThreadKey) : State := ((s.focus k).bind f).getD s
/-- An event of a group, where it is due. -/
def State.tryGroup (f : State → Option State) (s : State) (gid : Nat) : State := ((s.focusGroup gid).bind f).getD s

/-- A wait on a sync word whose generation has passed by other means than an arrival ends too (R171), and its stall count restarts where the
word's counts have changed by other means (R112). -/
def retestSync (s : State) : Option State :=
  match s.thr.status with
  | .waiting (.sync loc gen) =>
    if s.running && passed (BitVec.ofNat 32 (s.syncWord loc).gen) gen then some { s with thr := s.thr.wake s.dev.clk, core := s.core.invalidate }
    else whenDue (!s.countsSeen) { s with thr := s.thr.recount (s.syncWord loc).counts s.dev.clk }
  | _ => none

/-- MEET values of the meeting sets of a group, with their packs. -/
def State.meetings (s : State) (gid : Nat) : List (Nat × CodeAddr) :=
  (((s.groupThreads gid).filter Thread.held).map (fun t => (t.key.tid / 32, t.meet))).dedup

/-- Release the meeting sets of a group that wait for no thread (R104). -/
def State.meetAll (s : State) (gid : Nat) : State := (s.meetings gid).foldl (fun s m => s.tryGroup (meetRelease m.1 m.2) gid) s

/-- Release the meeting sets of a group that have waited for 65,536 cycles in vain (R105). -/
def State.meetLate (s : State) (gid : Nat) : State := (s.meetings gid).foldl (fun s m => s.tryGroup (meetEarly m.1 m.2) gid) s

/-- Deliver one due trap of each pack of a group (R113). -/
def State.deliverAll (s : State) (gid : Nat) : State :=
  (((s.groupThreads gid).filter (fun t => t.due.isSome)).map (fun t => t.key.tid / 32)).dedup.foldl (fun s p => s.tryGroup (deliverDue gid p) gid) s

/-- The start of a cycle: spin lowering and yields end, waits are tested, meeting sets are released, threads age, waits that reach their limit fall
due, and due traps are delivered, so that no state of R109 outlasts its bound. -/
def State.openCycle (s : State) : State :=
  let ks := (s.allThreads.filter (fun t => t.key.gid ≠ 0)).map Thread.key
  let gs := (s.allGroups.filter (fun g => g.gid ≠ 0)).map Group.gid
  let s1 := ks.foldl (State.tryThread gatherDone) (ks.foldl (State.tryThread retestSync) (ks.foldl (State.tryThread endYield) (ks.foldl (State.tryThread spinExpire) s)))
  let s2 := ks.foldl (State.tryThread ageThread) (gs.foldl State.meetLate (gs.foldl State.meetAll s1))
  gs.foldl State.deliverAll (ks.foldl (State.tryThread waitStall) (ks.foldl (State.tryThread gatherStall) s2))

/-! ## The vote (R102, R103) -/

/-- Ready threads of a pack (R101). -/
def State.readyThreads (s : State) (gid pack : Nat) : List Thread := (s.packThreads gid pack).filter (fun t => t.status = .ready && !t.held)

/-- What a pipeline chooses its pack by: the time since which its aged thread has waited, its group's level, and its place among
the packs that have issued. -/
structure PackKey where
  gid : Nat
  pack : Nat
  aged : Option Nat
  level : Nat
  last : Option Nat
  deriving DecidableEq, Repr

/-- Whether `a` has issued less recently than `b`. -/
def earlier : Option Nat → Option Nat → Bool
  | none, some _ => true
  | some i, some j => decide (i < j)
  | _, _ => false

/-- Whether `a` comes before `b` (R102). -/
def PackKey.before (a b : PackKey) : Bool :=
  let rest := decide (b.level < a.level) || (a.level = b.level && earlier a.last b.last)
  match a.aged, b.aged with
  | some _, none => true
  | none, some _ => false
  | some x, some y => decide (x < y) || (x = y && rest)
  | none, none => rest

/-- Groups whose packs may issue on a core: resident, running, and neither their partition nor their device stopped (R101, R330, R334). -/
def State.issuing (s : State) (dev core : Nat) : List Group :=
  s.allGroups.filter (fun g => g.resident && g.phase = .running && g.dev = dev && g.core = core &&
    !(s.part? dev (((s.launch? g.lid).map Launch.pid).getD 0)).broken && (s.dev? dev).answers)

/-- Packs of a pipeline that have a ready thread. -/
def State.candidates (s : State) (dev core pipe : Nat) : List PackKey :=
  (s.issuing dev core).flatMap (fun g => (g.slots.zipIdx.filter (fun x => x.1 % 4 = pipe)).filterMap (fun x =>
    let ts := s.readyThreads g.gid x.2
    if ts.isEmpty then none else
    let aged := (ts.filter Thread.aged).map Thread.readySince
    some ⟨g.gid, x.2, aged.min?, g.level, (s.core? dev core).issued.findIdx? (fun y => y = x.1)⟩))

/-- Threads that take part in a pack's vote (R103): its aged ones where it has any, else those not lowered, else all. -/
def eligible (ts : List Thread) : List Thread :=
  if ts.any Thread.aged then ts.filter Thread.aged
  else if ts.any (fun t => !t.spin.low) then ts.filter (fun t => !t.spin.low) else ts

/-- Distinct PCs, rising. -/
def pcsOf (ts : List Thread) : List Nat := ((ts.foldl (fun l t => Bits.insert t.pc.toNat () l) []).map Prod.fst)

/-- Pipe of an opcode (Table 7.1); an encoding that raises ILLEGAL takes the pipe of its range. -/
def pipeOf (op : Nat) : Nat :=
  if op < 0x10 then 0 else if op < 0x40 then 1 else if op < 0x58 then 2 else if op < 0x70 then 3 else if op < 0x90 then 4
  else if op < 0xA0 then 5 else if op < 0xE0 then 6 else 7

/-- Pipe of the instruction a thread stands at: the control pipe for a length field of 11, and where nothing can be fetched. -/
def State.pipeAt (s : State) (k : ThreadKey) : Nat :=
  match s.focus k with
  | none => 0
  | some s1 =>
    match s1.fetchAddr with
    | .error _ => 0
    | .ok x => let w := Mem.nat s1.mem x.key 4; if w % 4 = 3 then 0 else pipeOf (field w 9 2)

/-- The issue of a chosen pack in a cycle: port A's split, then port B's (R103). -/
def State.portsOf (s : State) (gid pack : Nat) : List (ThreadKey × CodeAddr) :=
  let ts := eligible (s.readyThreads gid pack)
  let split := fun (pc : Nat) => ts.filter (fun t => t.pc.toNat = pc)
  let out := fun (l : List Thread) => l.map (fun t => (t.key, t.pc))
  match pcsOf ts with
  | [] => []
  | [a] => out (split a)
  | a :: b :: _ =>
    match split a, split b with
    | x :: _, y :: _ => out (split a) ++ (if s.pipeAt x.key = s.pipeAt y.key then [] else out (split b))
    | _, _ => out (split a)

/-- The pack a pipeline chooses: which of equal ones is open (notes/assumptions/5.md). -/
def State.choosePack (s : State) (dev core pipe : Nat) : Option PackKey × State :=
  let cs := s.candidates dev core pipe
  let best := cs.filter (fun a => !(cs.any (fun b => b.before a)))
  let (i, s1) := s.choose best.length
  (best[i]?, s1)

/-- The packs that issue in a cycle, one at most for each pipeline of each core. -/
def State.choosePacks : List (Nat × Nat × Nat) → State → List PackKey × State
  | [], s => ([], s)
  | (d, c, p) :: rest, s =>
    let (k, s1) := s.choosePack d c p
    let (ks, s2) := State.choosePacks rest s1
    (match k with | some k => k :: ks | none => ks, s2)

/-- A list in an open order: that in which the packs of one cycle act is not stated. -/
def State.shuffle : Nat → List PackKey → State → List PackKey × State
  | 0, l, s => (l, s)
  | n + 1, l, s =>
    let (i, s1) := s.choose l.length
    match l[i]? with
    | none => (l, s1)
    | some x =>
      let (r, s2) := State.shuffle n (l.eraseIdx i) s1
      (x :: r, s2)

/-- Cores on which a group runs. -/
def State.busyCores (s : State) : List (Nat × Nat) :=
  ((s.allGroups.filter (fun g => g.resident && g.phase = .running)).map (fun g => (g.dev, g.core))).dedup

/-- A new cycle: time passes, the cycle opens, and the splits voted for on the devices whose clock has ticked are to issue in turn. -/
def State.cycle (s : State) : State :=
  let s0 := s.advance
  let on := s.ticked s0
  let s1 := (s0.clearCycle on).openCycle
  let (ks, s2) := State.choosePacks ((s1.busyCores.filter (fun c => on c.1)).flatMap (fun c => (List.range 4).map (fun p => (c.1, c.2, p)))) s1
  let (order, s3) := State.shuffle ks.length ks s2
  { s3 with issueQ := order.flatMap (fun k => s1.portsOf k.gid k.pack) }

/-! ## The instruction at a thread's PC (R20, R26, R128) -/

/-- The pack of the checked-out thread issues: it is the most recent on its core. -/
def State.noteIssue (s : State) : State :=
  match s.grp.slots[s.thr.key.tid / 32]? with
  | none => s
  | some x => { s with core := { s.core with issued := s.core.issued.filter (fun y => y ≠ x) ++ [x] } }

/-- Thread `k` of a voted split at `pc` checked out to issue: nothing where it no longer stands there ready. -/
def State.atIssue (k : ThreadKey) (pc : CodeAddr) (s : State) : Option State :=
  match s.focus k with
  | none => none
  | some s1 => if s1.running && s1.thr.status = .ready && s1.thr.pc = pc then some (s1.splitIssued k pc).noteIssue else none

/-- Length in bytes that W0 asks for; none for a length field of 11. -/
def lenOf (w0 : Word) : Option Nat := (formOf w0).map (fun f => match f with | .s => 4 | .l => 8 | .x => 12)

/-- Whether an instruction of `n` bytes at an address spans a 32-byte fetch boundary (R26). -/
def spans (pc n : Nat) : Bool := decide (pc / 32 ≠ (pc + n - 1) / 32)

/-- Word `i` at the checked-out thread's PC, which translates to `x`: zero past the page. -/
def State.fetchWord (s : State) (x : Xlat) (i : Nat) : Word :=
  if s.thr.pc.toNat % 2 ^ 16 + 4 * i < 2 ^ 16 then BitVec.ofNat 32 (Mem.nat s.mem (x.key + 4 * i) 4) else 0

/-- What the fetch at the checked-out thread's PC gives. -/
inductive Fetched where
  /-- an instruction, with the state in which it executes -/
  | instr (i : Instr) (s : State)
  /-- no instruction executes: the state after the trap, parking or error that meets the thread instead -/
  | stopped (s : State)
  deriving DecidableEq, Repr

/-- Fetch and decode for the checked-out thread (R20, R26, R33, R34, R128). -/
def State.fetch (s : State) : Fetched :=
  match s.fetchAddr with
  | .error st => .stopped (s.stop [] st)
  | .ok x =>
    let s1 := s.touch s.thr.pc.toNat false x
    let w0 := s.fetchWord x 0
    match lenOf w0 with
    | none => .stopped (s1.deliverTrap causeIllegal (detail 1 0 0 0) 0 [w0])
    | some n =>
      let ws := (List.range (n / 4)).map (s.fetchWord x)
      let op := w0.extractLsb' 2 8
      if s.poisoned x.key n then .stopped (s1.consume 0x10)
      else if spans s.thr.pc.toNat n then .stopped (s1.deliverTrap causeIllegal (detail 2 op 0 0) 0 ws)
      else
        match decodeWords (ws.getD 0 0) (ws.getD 1 0) (ws.getD 2 0) with
        | .ok (_, i) => .instr i s1
        | .error _ =>
          match ofWords (ws.getD 0 0) (ws.getD 1 0) (ws.getD 2 0) with
          | none => .stopped (s1.deliverTrap causeIllegal (detail 1 0 0 0) 0 [w0])
          | some e => .stopped (s1.deliverTrap causeIllegal ((s1.illegalHere e).getD (detail 0x12 op 0 0)) 0 ws)

end Sys2Proof.Machine
end

