-- ==== Sys2Proof/Machine/Step.lean ====
section
/-!
DEFINITION. One step: the next event of the agenda, or the issue of the next voted thread's instruction, or a new cycle; and the placing
of an instruction where the next step fetches it.
-/
namespace Sys2Proof.Machine
open Sys2Proof Bits

/-- One step of the machine. Events come from outside the program and happen before anything issues (notes/assumptions/3.md); an instruction
row in the agenda stands for nothing. Then the threads voted for issue in turn, each the instruction at its PC (R103); when none is left a new
cycle begins. -/
def step (s : State) : Host.Outcome State Fault Refusal :=
  match s.agenda with
  | i :: rest => if i.enc?.isSome then .next { s with agenda := rest } else exec i { s with agenda := rest }
  | [] =>
    match s.issueQ with
    | [] => .next s.cycle
    | (k, pc) :: rest =>
      match ({ s with issueQ := rest } : State).atIssue k pc with
      | none => .next { s with issueQ := rest }
      | some s1 =>
        match s1.fetch with
        | .instr i s2 => exec i s2
        | .stopped s2 => .next s2

/-! ## Placing an instruction (notes/assumptions/22.md) -/

/-- A launch record of one thread with 192 registers and a full scratchpad, not race-checked; its entry is code address 0. -/
def placedRecord : List Byte :=
  List.replicate 8 0 ++ toBytes 2 192 ++ [0, 1] ++ toBytes 4 (2 ^ 20) ++ toBytes 4 (15 * 2 ^ 12) ++ List.replicate 60 0 ++ toBytes 8 1
    ++ List.replicate 156 0 ++ toBytes 4 0xFFFFFFFF ++ List.replicate 8 0

/-- Physical address of the page that code address 0 is mapped to. -/
def placedPage : Nat := 0x100000

/-- The tables that map it, executable, readable and writable, under a root at 0x10000. -/
def placedTables (mem : List Host.Cell) : List Host.Cell :=
  let ptr := fun (m : List Host.Cell) (at_ next : Nat) => Mem.write m at_ (toBytes 16 (next + 2 ^ 8 + 1))
  Mem.write (ptr (ptr (ptr (ptr mem 0x10000 0x12000) 0x12000 0x14000) 0x14000 0x16000) 0x16000 0x18000) 0x18000
    (toBytes 16 (placedPage + 2 ^ 6 + 15))

/-- `s` with the instruction whose bits are `w` where the next step fetches: a running launch of device firmware in partition 0 of device 0,
one group of one thread on core 0, at code address 0, voted for in this cycle. -/
def State.withFetchWord (s : State) (nbits w : Nat) : State :=
  let gid := s.nextId
  let k : ThreadKey := ⟨gid, 0⟩
  let s1 := ((s.checkoutCore 0 0).checkoutPart 0 0).checkoutDev 0
  let l := { Launch.none with lid := gid + 1, record := placedRecord, state := .running, privileged := true, admitted := [(0, 0)] }
  let g := { Group.none with gid := gid, lid := gid + 1, size := 1, phase := .running, scratchSize := 2 ^ 20, slots := [0], placed := true,
                             guards := Vector.replicate 16 .unresolved }
  let t := { Thread.none with key := k, meet := 0xFFFFFFFFFFFF, grant := 192, status := .ready }
  { s1 with
    mem := Mem.write (placedTables s1.mem) placedPage (toBytes 12 (w % 2 ^ nbits)),
    poison := s1.poison.filter (fun p => p ≠ placedPage / 64),
    part := { s1.part with ptroot := 0x10001, broken := false }, dev := { s1.dev with stopped := false, unpowered := false },
    core := { s1.core with tlb := s1.core.tlb.filter (fun e => e.page ≠ 0) },
    threads := putThread s1.thr s1.threads, groups := putGroup s1.grp s1.groups, launches := putLaunch s1.lau s1.launches,
    thr := t, grp := g, lau := l, nextId := gid + 2, agenda := [], issueQ := [(k, 0)] }

end Sys2Proof.Machine
end

