-- ==== Sys2Proof/Safety.lean ====
section
/-!
DEFINITION. What a safe run is, and the words the claims are stated in: when an instruction issues and executes, the state its meaning
runs in, and what an instruction leaves unchanged.
-/
namespace Sys2Proof

/-- The steps from a state on all answer a next state. -/
def runsSafely : Nat → Machine.State → Prop
  | 0, _ => True
  | n + 1, s => ∃ t, Machine.step s = .next t ∧ runsSafely n t

/-- A state is safe when its memory is in canonical form. -/
def safeState (s : Machine.State) : Prop := Machine.Memory.wf s.mem = true

namespace Claims
open Machine Bits Encoding

/-! ## Issuing -/

/-- The checked-out thread is Ready and its instruction of fields `e` passes every check of Table 2.10; no failed job's trap waits for the
thread, and no interlock holds the instruction back (R27, R33, R34, R192). -/
abbrev Issues (e : Enc) (s : State) : Prop :=
  s.thr.status = .ready ∧ s.illegalHere e = none ∧ s.thr.jobTrap = none ∧ s.interlocked e = false

/-- It issues, and its guard is true (R21). -/
abbrev Ready (e : Enc) (s : State) : Prop := Issues e s ∧ s.thr.guard e.g e.n = true

/-- No result that has arrived waits for its window to end: the instruction about to issue ends no window that writes a register. -/
abbrev Quiet (s : State) : Prop := s.thr.pend.all (fun p => !p.arrived) = true

/-- The state the meaning of an instruction reads and changes: the PC is past it, its words are noted, and each older uniform value has been dropped
or kept (R14). Everything else is as it was: `Obligations.GuardsAndBodies`. -/
def atBody (e : Enc) (s : State) : State :=
  { s.freshen with thr := { s.freshen.thr with pc := nextPc e s.freshen, instr := toWords e } }

/-- Instruction `i`, of fields `e`, completes with effect `P` for a thread that can issue and execute it. `P` relates the state its meaning reads,
whose PC is past the instruction, to the next state. -/
def Does (i : Instr) (e : Enc) (s : State) (P : State → State → Prop) : Prop :=
  Ready e s → Quiet s → ∃ t, exec i s = .next t ∧ P (atBody e s) t

/-! ## Frames -/

/-- The pending results after one more instruction: every window open before it is one shorter (R27). -/
def shrunk (s : State) : List Pending :=
  s.thr.pend.map (fun p => if p.serial < s.nextId then { p with win := p.win - 1 } else p)

/-- Nothing but the checked-out thread differs, and of it only what its own instructions write and what every issue notes; the thread is Ready at the
next instruction, and MEET is unchanged. -/
def OnlyThread (s t : State) : Prop :=
  t = { s with
    thr := { s.thr with
      regs := t.thr.regs, l0 := t.thr.l0, l1 := t.thr.l1, q := t.thr.q, cc := t.thr.cc, fp := t.thr.fp, sli := t.thr.sli,
      pend := t.thr.pend, spin := t.thr.spin, released := false, aged := false, progress := t.thr.progress, readySince := s.dev.clk },
    nextId := t.nextId }

/-- No x or o register and no last-result register differs. -/
def SameRegs (s t : State) : Prop := t.thr.regs = s.thr.regs ∧ t.thr.l0 = s.thr.l0 ∧ t.thr.l1 = s.thr.l1

/-- The predicates, condition codes, FPFLAGS and SLIFLAGS are these. -/
def FlagsAre (q : BitVec 7) (cc : BitVec 4) (fp : BitVec 5) (sli : BitVec 7) (t : State) : Prop :=
  t.thr.q = q ∧ t.thr.cc = cc ∧ t.thr.fp = fp ∧ t.thr.sli = sli

/-- No flag differs. -/
def SameFlags (s t : State) : Prop := FlagsAre s.thr.q s.thr.cc s.thr.fp s.thr.sli t

/-- `vs` stands in the registers from code `c` on, and every other x and o register is unchanged. The codes of zr and of the last-result file name
none of them, so such a destination changes no register. -/
def Wrote (c : BitVec 8) (vs : List Word) (s t : State) : Prop :=
  ∀ (k : Nat) (h : k < 200), t.thr.regs[k] =
    if c.toNat ≤ k ∧ k < c.toNat + vs.length then vs.getD (k - c.toNat) 0 else s.thr.regs[k]

/-- An ALU-pipe result of `n` registers reaches d and, when it has 32 bits, the last-result file (R10). -/
def Result (e : Enc) (n v : Nat) (s t : State) : Prop :=
  Wrote (code e e.d) (words n v) s t
    ∧ t.thr.l0 = (if n = 1 then BitVec.ofNat 32 v else s.thr.l0) ∧ t.thr.l1 = (if n = 1 then s.thr.l0 else s.thr.l1)

/-! ## Shapes of effect -/

/-- The whole effect is the ALU-pipe result `v` of `n` registers, and these flags. -/
def Alu (e : Enc) (n v : Nat) (cc : BitVec 4) (fp : BitVec 5) (sli : BitVec 7) (s t : State) : Prop :=
  OnlyThread s t ∧ t.thr.pend = shrunk s ∧ Result e n v s t ∧ FlagsAre s.thr.q cc fp sli t

/-- The whole effect is the ALU-pipe result `v` of `n` registers: no flag differs. -/
def Gives (e : Enc) (n v : Nat) (s t : State) : Prop := Alu e n v s.thr.cc s.thr.fp s.thr.sli s t

/-- The condition codes an instruction leaves: `v` where it asks for them with cc = 1, else the old ones (R12). -/
def ccOf (e : Enc) (v : BitVec 4) (s : State) : BitVec 4 := if e.cc then v else s.thr.cc

/-- The whole effect is a result and the flags it raises, ORed into FPFLAGS. -/
def GivesF (e : Enc) (n : Nat) (x : Nat × BitVec 5) (s t : State) : Prop :=
  Alu e n x.1 s.thr.cc (s.thr.fp ||| x.2) s.thr.sli s t

/-- The whole effect is a long-latency result left pending: no register and no flag differs yet (R27). -/
def Leaves (p : Pending) (s t : State) : Prop :=
  OnlyThread s t ∧ t.thr.pend = shrunk s ++ [p] ∧ SameRegs s t ∧ SameFlags s t

/-- A long-latency ALU-pipe result of instruction `e` with the flags it will raise. -/
def aluPending (e : Enc) (n v : Nat) (fp : BitVec 5) (sli : BitVec 7) (canSli canFp : Bool) (s : State) : Pending :=
  { serial := s.nextId, dst := code e e.d, vals := words n v, width := n, win := e.la.toNat, arrived := false, fp := fp, sli := sli,
    alu := true, acq := false, canSli := canSli, canFp := canFp }

/-- The whole effect is that predicate `d` becomes `r`, and these FPFLAGS and SLIFLAGS; a write to q7 is discarded (R12). -/
def Decides (d : Nat) (r : Bool) (fp : BitVec 5) (sli : BitVec 7) (s t : State) : Prop :=
  OnlyThread s t ∧ t.thr.pend = shrunk s ∧ SameRegs s t ∧ t.thr.cc = s.thr.cc ∧ t.thr.fp = fp ∧ t.thr.sli = sli
    ∧ ∀ j < 8, t.thr.getQ j = if j = d ∧ d ≠ 7 then r else s.thr.getQ j

/-- The lower 32 or 64 bits of an operand, as a bit vector. -/
def bv (w v : Nat) : BitVec w := BitVec.ofNat w v

/-- Condition codes from what R70 asks of them: C, whether the result is zero, its top bit, V. -/
def ccFrom {w : Nat} (c v : Bool) (r : BitVec w) : BitVec 4 := packCC c (r == 0) r.msb v

/-- An exact signed value does not fit in `w` bits. -/
def overflows (w : Nat) (x : Int) : Bool := decide (x < -(2 ^ (w - 1)) ∨ 2 ^ (w - 1) ≤ x)

/-- The thread goes on at `target`; no register, flag or pending result differs but for windows one shorter. -/
def GoesTo (target : CodeAddr) (s t : State) : Prop :=
  OnlyThread { s with thr := { s.thr with pc := target } } t ∧ t.thr.pend = shrunk s ∧ SameRegs s t ∧ SameFlags s t

/-- The thread's instruction, that of the state `s` it issued in, has not gone on: the thread waits for `w` at the instruction, and `npc` is where it
goes on. -/
def Waits (w : Wait) (npc : CodeAddr) (s t : State) : Prop :=
  t.thr.status = .waiting w ∧ t.thr.pc = s.thr.pc ∧ t.thr.npc = npc ∧ SameRegs s t ∧ SameFlags s t

/-- The instruction has performed, and its result `vs` is on its way to d: the thread waits for it at the instruction, its registers and flags unchanged. -/
def Replied (e : Enc) (vs : List Word) (s b t : State) : Prop :=
  Waits .reply b.thr.pc s t ∧ t.thr.pend = shrunk b
    ∧ t.thr.reply = if (code e e.d).toNat < 200 then vs.zipIdx.map (fun p => ((code e e.d).toNat + p.2, p.1)) else []

/-- The published-write log has one entry more: this operation of the checked-out thread and what it returned (R146). -/
def Logged (e : Enc) (addr : Nat) (operand ret : List Word) (b t : State) : Prop :=
  t.grp.log = b.grp.log ++ [⟨b.thr.key.tid, pubOp e, addr, operand, ret, 0⟩]

/-! ## Traps -/

/-- A trap of the checked-out thread can be delivered: none of its pack has been in this cycle, nothing of the thread is under way, its record has a place
that is no mailbox (R84, R113, R230), and its group is no auditor's re-run (R86). -/
def CanTrap (s : State) : Prop :=
  s.trapTaken = false ∧ s.grp.shadow = 0 ∧ s.inflight.all (fun a => decide (a.t ≠ s.thr.key)) = true
    ∧ ∃ va x, s.trapPlace = some (va, x) ∧ s.part.mailboxOf va = none

/-- The checked-out thread of `s` has taken a trap (R84, Table 5.10): its record stands at its place, every other byte of memory is unchanged but for the
accessed and dirty bits of the entry that maps it (R127), the thread is trapped at the instruction with its registers unchanged, and `ws` are the
instruction's words. -/
def Trapped (cause : Nat) (detail arg : Word) (ws : List Word) (s t : State) : Prop :=
  ∃ va x, let key := x.key
    s.trapPlace = some (va, x)
    ∧ SyncWord.ofBytes (Mem.read t.mem key 16) = { bt := 0, bc := 0, tc := 0, tt := 1, gen := 0 }
    ∧ Mem.nat t.mem (key + 16) 4 = 0xFFFFFFFF
    ∧ Mem.nat t.mem (key + 20) 4 = (min s.grp.attempt 255 * 256 + cause) % 2 ^ 32
    ∧ Mem.nat t.mem (key + 24) 4 = detail.toNat ∧ Mem.nat t.mem (key + 28) 4 = arg.toNat
    ∧ Mem.nat t.mem (key + 32) 8 = s.thr.pc.toNat ∧ Mem.nat t.mem (key + 40) 8 = s.thr.meet.toNat
    ∧ (∀ i < 3, Mem.nat t.mem (key + 48 + 4 * i) 4 = (ws.getD i 0).toNat)
    ∧ Mem.nat t.mem (key + 60) 4 = s.thr.key.tid % 2 ^ 32
    ∧ (∀ a, a < key ∨ key + 64 ≤ a → Mem.get t.mem a = Mem.get (s.touch va true x).mem a)
    ∧ t.thr.status = .trapped cause key ∧ t.thr.pc = s.thr.pc ∧ t.thr.npc = s.thr.pc + BitVec.ofNat 48 (4 * max 1 ws.length)
    ∧ SameRegs s t ∧ SameFlags s t ∧ t.grp.trapped = true ∧ t.cycTrap.contains s.packKey = true

/-! ## Memory as a group sees it -/

/-- A byte of global memory as the checked-out group reads it: what it has staged lies over memory (R144). -/
def seen (s : State) (a : Nat) : Byte := (lookup a s.grp.staged).getD (Mem.get s.mem a)

/-- The group's phase runs for the first time, and its published-write log has room (R146). -/
abbrev FirstRun (s : State) : Prop := s.grp.attempt = 0 ∧ s.grp.log.length < 256

/-- The number that `n` bytes from key `k` on stand for, as the checked-out group reads them. -/
def numberSeen (s : State) (k : Nat) (n : Nat) : Nat := ofBytes ((List.range n).map (fun i => seen s (k + i)))

/-- The bytes `bs` stand from key `k` on as the checked-out group reads memory, and every other byte reads as before. -/
def Stored (k : Nat) (bs : List Byte) (s t : State) : Prop :=
  ∀ a, seen t a = if k ≤ a ∧ a < k + bs.length then bs.getD (a - k) 0 else seen s a

/-- The bytes `bs` stand in memory from key `k` on, and every other byte of memory is unchanged. -/
def Written (k : Nat) (bs : List Byte) (m m' : List Host.Cell) : Prop :=
  ∀ a, Mem.get m' a = if k ≤ a ∧ a < k + bs.length then bs.getD (a - k) 0 else Mem.get m a

/-- The thread is Ready at the next instruction; none of its registers, flags or MEET differs. -/
def Continues (s t : State) : Prop :=
  t.thr.status = .ready ∧ t.thr.pc = s.thr.pc ∧ t.thr.meet = s.thr.meet ∧ SameRegs s t ∧ SameFlags s t

/-- A load's result of `n` registers, pending. -/
def loadPending (e : Enc) (n v : Nat) (acq : Bool) (fp : BitVec 5) (canFp : Bool) (s : State) : Pending :=
  { serial := s.nextId, dst := code e e.d, vals := words n v, width := n, win := e.la.toNat, arrived := false, fp := fp, sli := 0,
    alu := false, acq := acq, canSli := false, canFp := canFp }

/-- The load cache of the checked-out core holds no line of the address, or its class is not cached: a plain load reads memory (R134). -/
def Uncached (l : Xlat) (s : State) : Prop :=
  cacheable l.cls = false ∨ s.core.lcache.find? (fun c => c.line = l.key / 128 && c.pid = s.part.pid) = none

/-- What a global load of instruction `e` asks of its address. -/
def loadReq (e : Enc) (s : State) : Req :=
  { va := s.globalAddr e, size := memSize e, write := false, classes := [0, 1, 2, 3, 4, 5], prot13 := false }
/-- What a global store of instruction `e` asks of its address. -/
def storeReq (e : Enc) (s : State) : Req :=
  { va := s.globalAddr e, size := memSize e, write := true, classes := [0, 2, 4, 5], prot13 := true }

/-! ## Sync words -/

/-- Outside the 16 bytes of a sync word nothing of memory or of the group's scratchpad differs. -/
def WordOnly (loc : SyncLoc) (s t : State) : Prop :=
  match loc with
  | .mem key => (∀ a, a < key ∨ key + 16 ≤ a → Mem.get t.mem a = Mem.get s.mem a) ∧ t.grp.scratch = s.grp.scratch
  | .scratch gid off => t.mem = s.mem ∧ (gid = s.grp.gid → ∀ a, a < off ∨ off + 16 ≤ a → Mem.get t.grp.scratch a = Mem.get s.grp.scratch a)

/-- The counts of a sync word are within their targets, as every run leaves them. -/
def countsOk (w : SyncWord) : Prop := w.tc ≤ w.tt

/-! ## Events -/

/-- Event `i`, on what `place` checks out, completes with effect `P` where it is due. -/
def Happens (i : Instr) (s : State) (place : Option State) (due : State → Prop) (P : State → State → Prop) : Prop :=
  ∀ s1, place = some s1 → due s1 → ∃ t, exec i s = .next t ∧ P s1 t

/-- It completes where it is due, and changes nothing where it is not. -/
def HappensWhen (i : Instr) (s : State) (place : Option State) (due : State → Prop) (P : State → State → Prop) : Prop :=
  Happens i s place due P ∧ ((∀ s1, place = some s1 → ¬ due s1) → exec i s = .next s)

/-- A group's place: group 0 is the placeholder, on which nothing happens. -/
def groupAt (gid : Nat) (s : State) : Option State := if gid = 0 then none else s.focusGroup gid

/-- A launch's place, with its partition and device. -/
def launchAt (lid : Nat) (s : State) : Option State :=
  if lid = 0 then none else (s.checkoutLaunch lid).map (fun s1 => s1.focusPart s1.lau.dev s1.lau.pid)

/-- The checked-out thread and all that belongs to it stand checked out already. -/
def Focused (s : State) : Prop := s.focus s.thr.key = some s

end Claims
end Sys2Proof
end

