-- ==== Sys2Proof/Certificates/Slice0/Obligations.lean ====
section
/-!
DEFINITION. The statements for the provers.
-/
section
open Sys2Proof Sys2Proof.Machine Sys2Proof.Claims Bits Encoding

/-! ## Arithmetic (chapters 05, 06) -/

/-- R70, R72: sums and differences. The result is that of `w`-bit arithmetic with the carry or borrow in; with cc = 1, C is the unsigned carry or borrow,
V the signed overflow of the exact value, and Z and N describe the result. Every other register and flag is unchanged. R72: products, orders, absolute values and counts. A result is taken from the exact value of the operands as the type reads them. R73: `div` and `rem` leave pending the quotient truncated toward zero and the remainder with the sign of the dividend; a zero divisor gives all ones
and the dividend; no flag is raised. -/
def Obligations.IntegerArithmetic : Prop :=
  (∀ (x : LX) (y : SEnc) (s : State),
  let sum := fun (cin : State → Nat) (e : Enc) (s t : State) =>
    let w := opW e
    let a := s.opA e (tw (opT e))
    let b := s.opB e (tw (opT e))
    let r := bv w a + bv w b + bv w (cin s)
    Alu e (tw (opT e)) r.toNat
      (ccOf e (ccFrom (decide (2 ^ w ≤ a + b + cin s)) (overflows w ((bv w a).toInt + (bv w b).toInt + cin s)) r) s) s.thr.fp s.thr.sli s t
  let diff := fun (bin : State → Nat) (e : Enc) (s t : State) =>
    let w := opW e
    let a := s.opA e (tw (opT e))
    let b := s.opB e (tw (opT e))
    let r := bv w a - bv w b - bv w (bin s)
    Alu e (tw (opT e)) r.toNat
      (ccOf e (ccFrom (decide (a < b + bin s)) (overflows w ((bv w a).toInt - (bv w b).toInt - bin s)) r) s) s.thr.fp s.thr.sli s t
  let neg := fun (e : Enc) (s t : State) =>
    let w := opW e
    let b := s.op1 e (tw (opT e))
    Alu e (tw (opT e)) (-(bv w b)).toNat (ccOf e (ccFrom (decide (0 < b)) (overflows w (-(bv w b).toInt)) (-(bv w b))) s) s.thr.fp s.thr.sli s t
  Does (.addS y) (y.enc 0x10) s (sum (fun _ => 0) (y.enc 0x10))
  ∧ Does (.addLX x) (x.enc 0x10) s (sum (fun _ => 0) (x.enc 0x10))
  ∧ Does (.addx x) (x.enc 0x12) s (sum State.carry (x.enc 0x12))
  ∧ Does (.subS y) (y.enc 0x11) s (diff (fun _ => 0) (y.enc 0x11))
  ∧ Does (.subLX x) (x.enc 0x11) s (diff (fun _ => 0) (x.enc 0x11))
  ∧ Does (.subx x) (x.enc 0x13) s (diff State.carry (x.enc 0x13))
  ∧ Does (.negS y) (y.enc 0x1D) s (neg (y.enc 0x1D))
  ∧ Does (.negLX x) (x.enc 0x1D) s (neg (x.enc 0x1D)))
  ∧ (∀ (x : LX) (s : State),
  let i := fun (e : Enc) (v : Nat) => opInt e v
  let a := fun (e : Enc) (s : State) => s.opA e (tw e.t)
  let b := fun (e : Enc) (s : State) => s.opB e (tw e.t)
  let c := fun (e : Enc) (s : State) => s.opC e (tw e.t)
  let whole := fun (e : Enc) (v : State → Nat) (s t : State) => Gives e (tw e.t) (v s) s t
  Does (.mul x) (x.enc 0x14) s (whole (x.enc 0x14) (fun s => a (x.enc 0x14) s * b (x.enc 0x14) s % 2 ^ opW (x.enc 0x14)))
  ∧ Does (.mulh x) (x.enc 0x15) s (whole (x.enc 0x15) (fun s =>
      (BitVec.ofInt (opW (x.enc 0x15)) (i (x.enc 0x15) (a (x.enc 0x15) s) * i (x.enc 0x15) (b (x.enc 0x15) s) / 2 ^ opW (x.enc 0x15))).toNat))
  ∧ Does (.mad x) (x.enc 0x16) s (whole (x.enc 0x16) (fun s =>
      (a (x.enc 0x16) s * b (x.enc 0x16) s + c (x.enc 0x16) s) % 2 ^ opW (x.enc 0x16)))
  ∧ Does (.madw x) (x.enc 0x17) s (fun s t => Gives (x.enc 0x17) 2
      (BitVec.ofInt 64 (i (x.enc 0x17) (s.opA (x.enc 0x17) 1) * i (x.enc 0x17) (s.opB (x.enc 0x17) 1) + s.opC (x.enc 0x17) 2)).toNat s t)
  ∧ Does (.min x) (x.enc 0x1A) s (whole (x.enc 0x1A) (fun s =>
      if i (x.enc 0x1A) (a (x.enc 0x1A) s) < i (x.enc 0x1A) (b (x.enc 0x1A) s) then a (x.enc 0x1A) s else b (x.enc 0x1A) s))
  ∧ Does (.max x) (x.enc 0x1B) s (whole (x.enc 0x1B) (fun s =>
      if i (x.enc 0x1B) (a (x.enc 0x1B) s) > i (x.enc 0x1B) (b (x.enc 0x1B) s) then a (x.enc 0x1B) s else b (x.enc 0x1B) s))
  ∧ Does (.clamp x) (x.enc 0x1F) s (fun s t => ∃ r, Gives (x.enc 0x1F) (tw x.t) r s t
      ∧ i (x.enc 0x1F) r = min (max (i (x.enc 0x1F) (a (x.enc 0x1F) s)) (i (x.enc 0x1F) (b (x.enc 0x1F) s))) (i (x.enc 0x1F) (c (x.enc 0x1F) s)))
  ∧ Does (.abs x) (x.enc 0x1C) s (fun s t => Gives (x.enc 0x1C) (tw x.t)
      (BitVec.ofInt (opW (x.enc 0x1C)) |i (x.enc 0x1C) (s.op1 (x.enc 0x1C) (tw x.t))|).toNat s t)
  ∧ Does (.bitc x) (x.enc 0x1E) s (fun s t =>
      let v := bv (opW (x.enc 0x1E)) (s.op1 (x.enc 0x1E) (tw x.t))
      (x.c = 0 → Gives (x.enc 0x1E) 1 ((List.range (opW (x.enc 0x1E))).countP (fun i => v.getLsbD i)) s t)
      ∧ (x.c = 1 → Gives (x.enc 0x1E) 1 v.clz.toNat s t)
      ∧ (x.c = 2 → Gives (x.enc 0x1E) 1 v.ctz.toNat s t)
      ∧ (x.c = 3 → Gives (x.enc 0x1E) (tw x.t) v.reverse.toNat s t)))
  ∧ (∀ (x : LX) (s : State),
  let w := fun (e : Enc) => opW e
  let a := fun (e : Enc) (s : State) => s.opA e (tw e.t)
  let b := fun (e : Enc) (s : State) => s.opB e (tw e.t)
  Does (.div x) (x.enc 0x18) s (fun s t => ∃ q, Leaves (aluPending (x.enc 0x18) (tw x.t) q 0 0 false false s) s t
      ∧ (b (x.enc 0x18) s = 0 → q = 2 ^ w (x.enc 0x18) - 1)
      ∧ (b (x.enc 0x18) s ≠ 0 → opSigned (x.enc 0x18) = false → q = a (x.enc 0x18) s / b (x.enc 0x18) s)
      ∧ (b (x.enc 0x18) s ≠ 0 → opSigned (x.enc 0x18) = true →
          q = ((bv (w (x.enc 0x18)) (a (x.enc 0x18) s)).sdiv (bv (w (x.enc 0x18)) (b (x.enc 0x18) s))).toNat))
  ∧ Does (.rem x) (x.enc 0x19) s (fun s t => ∃ r, Leaves (aluPending (x.enc 0x19) (tw x.t) r 0 0 false false s) s t
      ∧ (b (x.enc 0x19) s = 0 → r = a (x.enc 0x19) s)
      ∧ (b (x.enc 0x19) s ≠ 0 → opSigned (x.enc 0x19) = false → r = a (x.enc 0x19) s % b (x.enc 0x19) s)
      ∧ (b (x.enc 0x19) s ≠ 0 → opSigned (x.enc 0x19) = true →
          r = ((bv (w (x.enc 0x19)) (a (x.enc 0x19) s)).srem (bv (w (x.enc 0x19)) (b (x.enc 0x19) s))).toNat)))

/-- R70, R74: logic and moves. With cc = 1, C and V become 0. R74: shifts and rotates. A shift by the width or more gives zero, or the sign throughout; a rotate takes its amount modulo the width. -/
def Obligations.LogicMovesAndShifts : Prop :=
  (∀ (x : LX) (y : SEnc) (s : State),
  let two := fun (f : (w : Nat) → BitVec w → BitVec w → BitVec w) (e : Enc) (s t : State) =>
    let w := logW e
    let r := f w (bv w (s.opA e (logN e))) (bv w (s.opB e (logN e)))
    Alu e (logN e) r.toNat (ccOf e (ccFrom false false r) s) s.thr.fp s.thr.sli s t
  Does (.andS y) (y.enc 0x20) s (two (fun _ a b => a &&& b) (y.enc 0x20))
  ∧ Does (.andLX x) (x.enc 0x20) s (two (fun _ a b => a &&& b) (x.enc 0x20))
  ∧ Does (.orS y) (y.enc 0x21) s (two (fun _ a b => a ||| b) (y.enc 0x21))
  ∧ Does (.orLX x) (x.enc 0x21) s (two (fun _ a b => a ||| b) (x.enc 0x21))
  ∧ Does (.xorS y) (y.enc 0x22) s (two (fun _ a b => a ^^^ b) (y.enc 0x22))
  ∧ Does (.xorLX x) (x.enc 0x22) s (two (fun _ a b => a ^^^ b) (x.enc 0x22))
  ∧ Does (.andn x) (x.enc 0x23) s (two (fun _ a b => a &&& ~~~b) (x.enc 0x23))
  ∧ Does (.bool3 x) (x.enc 0x24) s (fun s t =>
      let w := logW (x.enc 0x24)
      let v := fun (f : State → Enc → Nat → Nat) (i : Nat) => (bv w (f s (x.enc 0x24) (tw x.t))).getLsbD i
      ∃ r : BitVec w, Alu (x.enc 0x24) (tw x.t) r.toNat (ccOf (x.enc 0x24) (ccFrom false false r) s) s.thr.fp s.thr.sli s t
        ∧ ∀ i < w, r.getLsbD i = x.m.getLsbD (4 * (v State.opA i).toNat + 2 * (v State.opB i).toNat + (v State.opC i).toNat))
  ∧ Does (.movS y) (y.enc 0x2F) s (fun s t => Gives (y.enc 0x2F) 1 (s.op1 (y.enc 0x2F) 1) s t)
  ∧ Does (.movLX x) (x.enc 0x2F) s (fun s t => Gives (x.enc 0x2F) (tw x.t) (s.op1 (x.enc 0x2F) (tw x.t)) s t))
  ∧ (∀ (x : LX) (y : SEnc) (s : State),
  let sh := fun (f : (w : Nat) → BitVec w → Nat → BitVec w) (e : Enc) (s t : State) =>
    Gives e (logN e) (f (logW e) (bv (logW e) (s.opA e (logN e))) (s.amount e)).toNat s t
  Does (.shlS y) (y.enc 0x25) s (sh (fun _ a n => a <<< n) (y.enc 0x25))
  ∧ Does (.shlLX x) (x.enc 0x25) s (sh (fun _ a n => a <<< n) (x.enc 0x25))
  ∧ Does (.shrS y) (y.enc 0x26) s (sh (fun _ a n => a >>> n) (y.enc 0x26))
  ∧ Does (.shrLX x) (x.enc 0x26) s (sh (fun _ a n => a >>> n) (x.enc 0x26))
  ∧ Does (.sarS y) (y.enc 0x27) s (sh (fun _ a n => a.sshiftRight n) (y.enc 0x27))
  ∧ Does (.sarLX x) (x.enc 0x27) s (sh (fun _ a n => a.sshiftRight n) (x.enc 0x27))
  ∧ Does (.rotl x) (x.enc 0x28) s (sh (fun _ a n => a.rotateLeft n) (x.enc 0x28))
  ∧ Does (.rotr x) (x.enc 0x29) s (sh (fun _ a n => a.rotateRight n) (x.enc 0x29)))

/-- R74: funnel shift, bit fields, carry-less product and address arithmetic. A field runs from bit `b<4:0>` over `b<13:8>` bits, ending at bit 31 at most. -/
def Obligations.FieldsAndAddresses : Prop := ∀ (x : LX) (s : State),
  let pos := fun (b : Nat) => b % 32
  let n := fun (b : Nat) => min (b / 256 % 64) (32 - b % 32)
  Does (.fsh x) (x.enc 0x2A) s (fun s t => Gives (x.enc 0x2A) 1
      (((bv 32 (s.opA (x.enc 0x2A) 1) ++ bv 32 (s.opB (x.enc 0x2A) 1)) >>> (s.opC (x.enc 0x2A) 1 % 32)).setWidth 32).toNat s t)
  ∧ Does (.bfx x) (x.enc 0x2B) s (fun s t => ∃ r : Word, Gives (x.enc 0x2B) 1 r.toNat s t ∧
      let a := bv 32 (s.opA (x.enc 0x2B) 1)
      let b := s.opB (x.enc 0x2B) 1
      ∀ i < 32, r.getLsbD i = if i < n b then a.getLsbD (pos b + i)
        else decide (x.t = 1 ∧ 0 < n b) && a.getLsbD (pos b + n b - 1))
  ∧ Does (.bfi x) (x.enc 0x2C) s (fun s t => ∃ r : Word, Gives (x.enc 0x2C) 1 r.toNat s t ∧
      let a := bv 32 (s.opA (x.enc 0x2C) 1)
      let b := s.opB (x.enc 0x2C) 1
      let c := bv 32 (s.opC (x.enc 0x2C) 1)
      ∀ i < 32, r.getLsbD i = if pos b ≤ i ∧ i < pos b + n b then a.getLsbD (i - pos b) else c.getLsbD i)
  ∧ Does (.clmul x) (x.enc 0x2D) s (fun s t => ∃ r : Word, Gives (x.enc 0x2D) 1 r.toNat s t ∧
      let a := bv 32 (s.opA (x.enc 0x2D) 1)
      let b := bv 32 (s.opB (x.enc 0x2D) 1)
      let off := if x.m.getLsbD 0 then 32 else 0
      ∀ i < 32, r.getLsbD i = (List.range 32).foldl (fun acc j => acc != (b.getLsbD j && decide (j ≤ i + off) && a.getLsbD (i + off - j))) false)
  ∧ Does (.lea x) (x.enc 0x2E) s (fun s t => Gives (x.enc 0x2E) (tw x.t)
      (bv (opW (x.enc 0x2E)) (s.opA (x.enc 0x2E) (tw x.t)) + ((if x.t = 3 then (bv 32 (s.amount (x.enc 0x2E))).signExtend (opW (x.enc 0x2E))
        else (bv 32 (s.amount (x.enc 0x2E))).setWidth (opW (x.enc 0x2E))) <<< x.m.toNat)).toNat s t)

/-- R75, R76: `cmp` decides q[d] by the relation of its condition, combined with q[c] as M bits 7:6 say; nothing else differs. R75, R76: `fcmp` and `scmp` decide q[d] by the relation and combine of M and raise the flags of their comparison. -/
def Obligations.Compares : Prop :=
  (∀ (x : LX) (y : SEnc) (s : State),
  Does (.cmpLX x) (x.enc 0x30) s (fun s t =>
      let a := opInt (x.enc 0x30) (s.opA (x.enc 0x30) (tw x.t))
      let b := opInt (x.enc 0x30) (s.opB (x.enc 0x30) (tw x.t))
      let r := match field x.m.toNat 5 2 with
        | 0 => decide (a = b) | 1 => decide (a ≠ b) | 2 => decide (a < b) | 3 => decide (a ≤ b) | 4 => decide (a > b) | _ => decide (a ≥ b)
      let q := s.thr.getQ x.c.toNat
      Decides x.d.toNat (match field x.m.toNat 7 6 with | 0 => r | 1 => r && q | 2 => r || q | _ => r ^^ q) s.thr.fp s.thr.sli s t)
  ∧ Does (.cmpS y) (y.enc 0x30) s (fun s t =>
      let a := bv 32 (s.opA (y.enc 0x30) 1)
      let b := bv 32 (s.opB (y.enc 0x30) 1)
      Decides (y.d.toNat % 8) (match y.d.toNat / 8 with
        | 0 => decide (a = b) | 1 => decide (a ≠ b) | 2 => a.slt b | 3 => a.sle b | 4 => a.ult b | _ => a.ule b) s.thr.fp s.thr.sli s t))
  ∧ (∀ (x : LX) (s : State),
  let mix := fun (s : State) (r : Bool) =>
    match field x.m.toNat 7 6 with | 0 => r | 1 => r && s.thr.getQ x.c.toNat | 2 => r || s.thr.getQ x.c.toNat | _ => r ^^ s.thr.getQ x.c.toNat
  Does (.fcmp x) (x.enc 0x31) s (fun s t =>
      let r := fcmpT (field x.m.toNat 5 2) x.t s.lau.nbv (s.opA (x.enc 0x31) (tw x.t)) (s.opB (x.enc 0x31) (tw x.t))
      Decides x.d.toNat (mix s r.1) (s.thr.fp ||| r.2) s.thr.sli s t)
  ∧ Does (.scmp x) (x.enc 0x39) s (fun s t =>
      let v := fun (o : Nat) => sliDecode (decide (x.t = 3)) o
      let r := scmpRel (field x.m.toNat 5 2) (v (s.opA (x.enc 0x39) (tw x.t))) (v (s.opB (x.enc 0x39) (tw x.t)))
      Decides x.d.toNat (mix s r.1) s.thr.fp (s.thr.sli ||| r.2) s t))

/-- R12, R77, R78: predicate logic, moves between predicates and registers, selects, and the condition codes read and written by mask. -/
def Obligations.PredicatesAndSelects : Prop := ∀ (x : LX) (y : SEnc) (s : State),
  let q := fun (s : State) (i : Nat) => (s.thr.getQ i).toNat
  Does (.qop x) (x.encL 0x32) s (fun s t =>
      Decides x.d.toNat (x.m.getLsbD (4 * q s x.a.toNat + 2 * q s x.b.toNat + q s x.c.toNat)) s.thr.fp s.thr.sli s t)
  ∧ Does (.qget x) (x.encL 0x33) s (fun s t => OnlyThread s t ∧ t.thr.pend = shrunk s ∧ SameFlags s t
      ∧ Wrote x.d [(1#1 ++ s.thr.q).setWidth 32] s t ∧ t.thr.l0 = s.thr.l0 ∧ t.thr.l1 = s.thr.l1)
  ∧ Does (.qset x) (x.enc 0x34) s (fun s t => OnlyThread s t ∧ t.thr.pend = shrunk s ∧ SameRegs s t
      ∧ t.thr.cc = s.thr.cc ∧ t.thr.fp = s.thr.fp ∧ t.thr.sli = s.thr.sli
      ∧ ∀ j < 7, t.thr.getQ j = if x.m.getLsbD j then (bv 32 (s.op1 (x.enc 0x34) 1)).getLsbD j else s.thr.getQ j)
  ∧ Does (.selS y) (y.enc 0x35) s (fun s t =>
      Gives (y.enc 0x35) 1 (if s.thr.getQ 0 then s.opA (y.enc 0x35) 1 else s.opB (y.enc 0x35) 1) s t)
  ∧ Does (.selLX x) (x.enc 0x35) s (fun s t =>
      Gives (x.enc 0x35) (tw x.t) (if s.thr.getQ x.c.toNat then s.opA (x.enc 0x35) (tw x.t) else s.opB (x.enc 0x35) (tw x.t)) s t)
  ∧ Does (.ccsel x) (x.enc 0x36) s (fun s t =>
      Gives (x.enc 0x36) (tw x.t) (if condHolds s.thr.cc x.m.toNat then s.opA (x.enc 0x36) (tw x.t) else s.opB (x.enc 0x36) (tw x.t)) s t)
  ∧ Does (.ccget x) (x.encL 0x37) s (fun s t => Gives (x.encL 0x37) 1 (condHolds s.thr.cc x.m.toNat).toNat s t)
  ∧ Does (.ccput x) (x.enc 0x38) s (fun s t => OnlyThread s t ∧ t.thr.pend = shrunk s ∧ SameRegs s t
      ∧ t.thr.q = s.thr.q ∧ t.thr.fp = s.thr.fp ∧ t.thr.sli = s.thr.sli
      ∧ ∀ j < 4, t.thr.cc.getLsbD j = if x.m.getLsbD j then (bv 32 (s.op1 (x.enc 0x38) 1)).getLsbD j else s.thr.cc.getLsbD j)

/-- R87 to R94: floating-point arithmetic that completes at once: the result and the flags it raises, ORed into FPFLAGS, under the numeric-behaviour version
of the launch. R65, R91, R98: `fdiv`, `fsqrt` and the special functions are long-latency: the result and its flags are left pending, and nothing is written yet. -/
def Obligations.FloatArithmetic : Prop :=
  (∀ (x : LX) (y : SEnc) (s : State),
  let two := fun (op : Rnd → FVal → FVal → FVal × BitVec 5) (e : Enc) (s t : State) =>
    let n := tw (fT e)
    GivesF e n (farith2 (op (fR e)) (fT e) s.lau.nbv (fR e) (s.opA e n) (s.opB e n)) s t
  let one := fun (f : BitVec 4 → Nat → Rnd → Nat → Nat × BitVec 5) (e : Enc) (s t : State) =>
    GivesF e (tw e.t) (f e.t s.lau.nbv (fR e) (s.op1 e (tw e.t))) s t
  Does (.faddS y) (y.enc 0x40) s (two FVal.add (y.enc 0x40))
  ∧ Does (.faddLX x) (x.enc 0x40) s (two FVal.add (x.enc 0x40))
  ∧ Does (.fsubS y) (y.enc 0x41) s (two (fun r a b => a.add r b.neg) (y.enc 0x41))
  ∧ Does (.fsubLX x) (x.enc 0x41) s (two (fun r a b => a.add r b.neg) (x.enc 0x41))
  ∧ Does (.fmulS y) (y.enc 0x42) s (two (fun _ a b => a.mul b) (y.enc 0x42))
  ∧ Does (.fmulLX x) (x.enc 0x42) s (two (fun _ a b => a.mul b) (x.enc 0x42))
  ∧ Does (.ffma x) (x.enc 0x43) s (fun s t => let e := x.enc 0x43
      GivesF e (tw e.t) (ffmaT e.t s.lau.nbv (fR e) (s.opA e (tw e.t)) (s.opB e (tw e.t)) (s.opC e (tw e.t))) s t)
  ∧ Does (.fmin x) (x.enc 0x44) s (fun s t => let e := x.enc 0x44
      GivesF e (tw e.t) (fminmax false e.t s.lau.nbv (s.opA e (tw e.t)) (s.opB e (tw e.t))) s t)
  ∧ Does (.fmax x) (x.enc 0x45) s (fun s t => let e := x.enc 0x45
      GivesF e (tw e.t) (fminmax true e.t s.lau.nbv (s.opA e (tw e.t)) (s.opB e (tw e.t))) s t)
  ∧ Does (.frcp x) (x.enc 0x48) s (one (fun t v r a => farith1 (FVal.div (.fin false 1 0)) t v r a) (x.enc 0x48))
  ∧ Does (.frsq x) (x.enc 0x49) s (one (fun t v r a => farith1 FVal.rsqrt t v r a) (x.enc 0x49))
  ∧ Does (.fclass x) (x.enc 0x4A) s (fun s t => Gives (x.enc 0x4A) 1 (fclassT x.t (s.op1 (x.enc 0x4A) (tw x.t))) s t)
  ∧ Does (.frnd x) (x.enc 0x4B) s (one (fun t v r a => frndT t v r (x.m.getLsbD 2) a) (x.enc 0x4B))
  ∧ Does (.fscale x) (x.enc 0x4C) s (fun s t => let e := x.enc 0x4C
      GivesF e (tw e.t) (fscaleT e.t s.lau.nbv (fR e) (s.opA e (tw e.t)) (bv 32 (s.opB e 1)).toInt) s t)
  ∧ Does (.fsplit x) (x.enc 0x4D) s (fun s t => let e := x.enc 0x4D
      GivesF e (if x.c = 0 then tw e.t else 1) (fsplitT e.t s.lau.nbv x.c.toNat (s.op1 e (tw e.t))) s t)
  ∧ Does (.fdot2 x) (x.enc 0x4E) s (fun s t => let e := x.enc 0x4E
      GivesF e 1 (fdot2T e.t s.lau.nbv (fR e) (s.opA e 1) (s.opB e 1) (s.opC e 1)) s t))
  ∧ (∀ (x : LX) (s : State),
  let late := fun (e : Enc) (r : State → Nat × BitVec 5) (s t : State) =>
    Leaves (aluPending e (tw e.t) (r s).1 (r s).2 0 false true s) s t
  let one := fun (f : FVal → FVal × BitVec 5) (e : Enc) (s : State) => farith1 f e.t s.lau.nbv (fR e) (s.op1 e (tw e.t))
  Does (.fdiv x) (x.enc 0x46) s (late (x.enc 0x46) (fun s => let e := x.enc 0x46
      farith2 FVal.div e.t s.lau.nbv (fR e) (s.opA e (tw e.t)) (s.opB e (tw e.t))))
  ∧ Does (.fsqrt x) (x.enc 0x47) s (late (x.enc 0x47) (one FVal.sqrt (x.enc 0x47)))
  ∧ Does (.fexp2 x) (x.enc 0x58) s (late (x.enc 0x58) (one vExp2 (x.enc 0x58)))
  ∧ Does (.flog2 x) (x.enc 0x59) s (late (x.enc 0x59) (one vLog2 (x.enc 0x59)))
  ∧ Does (.fsin x) (x.enc 0x5A) s (late (x.enc 0x5A) (one vSin (x.enc 0x5A)))
  ∧ Does (.fcos x) (x.enc 0x5B) s (late (x.enc 0x5B) (one vCos (x.enc 0x5B)))
  ∧ Does (.ftanh x) (x.enc 0x5C) s (late (x.enc 0x5C) (one vTanh (x.enc 0x5C))))

/-- R95 to R97: conversions, quantization and the packing of halves. R52 to R64, R99: the SLI instructions leave their rounded result and its SLIFLAGS pending; `srcp` completes at once. -/
def Obligations.ConversionsAndSli : Prop :=
  (∀ (x : LX) (s : State),
  Does (.cvt x) (x.enc 0x50) s (fun s t => let e := x.enc 0x50
      GivesF e (tw e.t) (cvtT e.t.toNat (x.c.toNat % 16) s.lau.nbv x.m.toNat (s.op1 e (tw (x.c.setWidth 4)))) s t)
  ∧ Does (.quant x) (x.enc 0x51) s (fun s t => let e := x.enc 0x51
      let q := quantT s.lau.nbv (s.opB e 1) (x.m.getLsbD 2) (s.opA e 1)
      GivesF e 1 ((BitVec.ofInt 32 q.1).toNat, q.2) s t)
  ∧ Does (.dequant x) (x.enc 0x52) s (fun s t => let e := x.enc 0x52
      let a := bv 32 (s.opA e 1)
      let q := if x.m.getLsbD 2 then (a.setWidth 4).toInt else (a.setWidth 8).toInt
      GivesF e 1 (dequantT s.lau.nbv (s.opB e 1) q) s t)
  ∧ Does (.pack x) (x.enc 0x53) s (fun s t => let e := x.enc 0x53
      let half := fun v => if e.t = 0 then (v % 2 ^ 16, 0#5) else floatToFloat fmtF (fmtOf e.t) s.lau.nbv (fR e) v
      GivesF e 1 ((half (s.opA e 1)).1 + 2 ^ 16 * (half (s.opB e 1)).1, (half (s.opA e 1)).2 ||| (half (s.opB e 1)).2) s t)
  ∧ Does (.unpack x) (x.enc 0x54) s (fun s t => let e := x.enc 0x54
      let half := fun v => if e.t = 0 then (v, 0#5) else floatToFloat (fmtOf e.t) fmtF s.lau.nbv .ne v
      let a := s.op1 e 1
      GivesF e 2 ((half (a % 2 ^ 16)).1 + 2 ^ 32 * (half (a / 2 ^ 16)).1, (half (a % 2 ^ 16)).2 ||| (half (a / 2 ^ 16)).2) s t))
  ∧ (∀ (x : LX) (s : State),
  let val := fun (e : Enc) (v : Nat) => sliDecode (decide (e.t = 3)) v
  let late := fun (e : Enc) (r : State → Nat × BitVec 7) (s t : State) =>
    Leaves (aluPending e (tw e.t) (r s).1 0 (r s).2 true (e.op = 0x68) s) s t
  let two := fun (f : Bool → SVal → SVal → SOut) (e : Enc) (s : State) =>
    (f (decide (e.t = 3)) (val e (s.opA e (tw e.t))) (val e (s.opB e (tw e.t)))).done [val e (s.opA e (tw e.t)), val e (s.opB e (tw e.t))]
  let one := fun (f : Bool → SVal → SOut) (e : Enc) (s : State) =>
    (f (decide (e.t = 3)) (val e (s.op1 e (tw e.t)))).done [val e (s.op1 e (tw e.t))]
  Does (.sadd x) (x.enc 0x60) s (late (x.enc 0x60) (two sliAdd (x.enc 0x60)))
  ∧ Does (.ssub x) (x.enc 0x61) s (late (x.enc 0x61) (two (fun w a b => sliAdd w a b.negate) (x.enc 0x61)))
  ∧ Does (.smul x) (x.enc 0x62) s (late (x.enc 0x62) (two sliMul (x.enc 0x62)))
  ∧ Does (.sdiv x) (x.enc 0x63) s (late (x.enc 0x63) (two sliDiv (x.enc 0x63)))
  ∧ Does (.srcp x) (x.enc 0x64) s (fun s t => let e := x.enc 0x64
      let r := (sliRcp (decide (e.t = 3)) (s.op1 e (tw e.t))).done []
      Alu e (tw e.t) r.1 s.thr.cc s.thr.fp (s.thr.sli ||| r.2) s t)
  ∧ Does (.slog x) (x.enc 0x65) s (late (x.enc 0x65) (one sliLog (x.enc 0x65)))
  ∧ Does (.santi x) (x.enc 0x66) s (late (x.enc 0x66) (one sliAnti (x.enc 0x66)))
  ∧ Does (.sfrom x) (x.enc 0x67) s (late (x.enc 0x67) (fun s => let e := x.enc 0x67
      let a := s.op1 e (tw (x.c.setWidth 4))
      if x.c = 0 ∨ x.c = 3 then sliResize (decide (e.t = 3)) (decide (x.c = 3)) a
      else (sliFromFloat (decide (e.t = 3)) (fmtOf (x.c.setWidth 4)) a).done []))
  ∧ Does (.sto x) (x.enc 0x68) s (fun s t => let e := x.enc 0x68
      let r := sliTo (fmtOf e.t) 2 (fR e) (sliDecode (decide (x.c = 3)) (s.op1 e (tw (x.c.setWidth 4))))
      Leaves (aluPending e (tw e.t) r.1 r.2.1 r.2.2 true true s) s t)
  ∧ Does (.sacce x) (x.enc 0x69) s (late (x.enc 0x69) (fun s => let e := x.enc 0x69
      sliAcce (s.opD e 2) (s.op1 e 1))))

/-! ## Control (chapter 05) -/

/-- R79, R25: taken branches. An offset branch goes to its word offset from its own address; a register branch to the offset in its window; `call` and `calli`
write the window offset of the next instruction to ra = x1, `calli` after its target is read. Nothing else differs. R79, R80: `nop` changes nothing but the PC; `meet` and `meetr` write MEET alone, and `meetr zr` sets all its bits. -/
def Obligations.ControlTransfers : Prop :=
  (∀ (x : LX) (y : SEnc) (s : State),
  let off := fun (e : Enc) => s.thr.pc + BitVec.ofInt 48 (4 * branchOff e)
  let reg := fun (e : Enc) => (atBody e s).read32 (code e e.a)
  let target := fun (e : Enc) => (s.thr.pc.extractLsb' 32 16 ++ reg e : CodeAddr)
  let aligned := fun (e : Enc) => reg e &&& 3 = 0
  let home := fun (e : Enc) => inWindow s.thr.pc (s.thr.pc.toNat + len e) = true
  let linked := fun (target : CodeAddr) (s t : State) =>
    OnlyThread { s with thr := { s.thr with pc := target } } t ∧ t.thr.pend = shrunk s ∧ SameFlags s t ∧ t.thr.l0 = s.thr.l0 ∧ t.thr.l1 = s.thr.l1
      ∧ Wrote 1 [s.thr.pc.setWidth 32] s t
  Does (.braS y) (y.enc 0x01) s (GoesTo (off (y.enc 0x01)))
  ∧ Does (.braX x) (x.encX 0x01) s (GoesTo (off (x.encX 0x01)))
  ∧ (aligned (y.enc 0x02) → Does (.jmpS y) (y.enc 0x02) s (GoesTo (target (y.enc 0x02))))
  ∧ (aligned (x.encL 0x02) → Does (.jmpL x) (x.encL 0x02) s (GoesTo (target (x.encL 0x02))))
  ∧ Does (.callS y) (y.enc 0x03) s (linked (off (y.enc 0x03)))
  ∧ Does (.callX x) (x.encX 0x03) s (linked (off (x.encX 0x03)))
  ∧ (aligned (y.enc 0x04) → home (y.enc 0x04) → Does (.calliS y) (y.enc 0x04) s (linked (target (y.enc 0x04))))
  ∧ (aligned (x.encL 0x04) → home (x.encL 0x04) → Does (.calliL x) (x.encL 0x04) s (linked (target (x.encL 0x04))))
  ∧ (aligned (y.enc 0x05) → reg (y.enc 0x05) ≠ 0 → Does (.retS y) (y.enc 0x05) s (GoesTo (target (y.enc 0x05))))
  ∧ (aligned (x.encL 0x05) → reg (x.encL 0x05) ≠ 0 → Does (.retL x) (x.encL 0x05) s (GoesTo (target (x.encL 0x05)))))
  ∧ (∀ (x : LX) (y : SEnc) (s : State),
  let nop := fun (s t : State) => OnlyThread s t ∧ t.thr.pend = shrunk s ∧ SameRegs s t ∧ SameFlags s t
  let meets := fun (m : CodeAddr) (s t : State) =>
    OnlyThread { s with thr := { s.thr with meet := m } } t ∧ t.thr.pend = shrunk s ∧ SameRegs s t ∧ SameFlags s t
  let reg := fun (e : Enc) => (atBody e s).read32 (code e e.a)
  let target := fun (e : Enc) => if code e e.a = 0xFF then 0xFFFFFFFFFFFF else (s.thr.pc.extractLsb' 32 16 ++ reg e : CodeAddr)
  Does (.nopS y) (y.enc 0x00) s nop ∧ Does (.nopL x) (x.encL 0x00) s nop
  ∧ Does (.meetS y) (y.enc 0x06) s (meets (s.thr.pc + BitVec.ofInt 48 (4 * branchOff (y.enc 0x06))))
  ∧ Does (.meetX x) (x.encX 0x06) s (meets (s.thr.pc + BitVec.ofInt 48 (4 * branchOff (x.encX 0x06))))
  ∧ (code (y.enc 0x07) (y.enc 0x07).a = 0xFF ∨ reg (y.enc 0x07) &&& 3 = 0 → Does (.meetrS y) (y.enc 0x07) s (meets (target (y.enc 0x07))))
  ∧ (x.a = 0xFF ∨ reg (x.encL 0x07) &&& 3 = 0 → Does (.meetrL x) (x.encL 0x07) s (meets (target (x.encL 0x07)))))

/-- R8, R79, R81: `exit`, and `ret` to address zero, end the thread: it has exited with nothing pending and no region, memory and its registers are as they were,
and when it was its group's last live thread the phase closes. R27, R82, R101: `yield` ends the windows of pending results and waits at issue for them; it then makes the thread wait, for at most 64 cycles, for every other ready split of its pack to issue (a held thread is in none), and it goes on at the next instruction; inside a region it takes ILLEGAL (R294). It releases no meeting and ends no phase: no other thread and nothing of the group differs. -/
def Obligations.EndsAndYield : Prop :=
  (∀ (x : LX) (y : SEnc) (s : State),
  let ends := fun (s t : State) => t.thr.key = s.thr.key ∧ t.thr.status = .exited ∧ t.thr.pend = [] ∧ t.thr.region = none ∧ t.mem = s.mem ∧ SameRegs s t
    ∧ (s.thr.key.gid = s.grp.gid → (∀ u ∈ s.threads, u.key.gid = s.grp.gid → u.status = .exited) → t.grp.phase = .closing)
  Does (.exitS y) (y.enc 0x08) s ends ∧ Does (.exitL x) (x.encL 0x08) s ends
  ∧ ((atBody (y.enc 0x05) s).read32 (code (y.enc 0x05) (y.enc 0x05).a) = 0 → Does (.retS y) (y.enc 0x05) s ends)
  ∧ ((atBody (x.encL 0x05) s).read32 x.a = 0 → Does (.retL x) (x.encL 0x05) s ends))
  ∧ (∀ (x : LX) (y : SEnc) (s : State),
  let waits := fun (e : Enc) (_ t : State) => ∃ pcs, Waits (.yield pcs (s.dev.clk + 64)) (s.thr.pc + BitVec.ofNat 48 (len e)) s t ∧ t.mem = s.mem ∧ t.threads = s.threads ∧ t.grp = s.grp ∧ t.thr.meet = s.thr.meet
    ∧ ∀ p, p ∈ pcs ↔ ∃ u ∈ s.packThreads s.thr.key.gid (s.thr.key.tid / 32), u.status = .ready ∧ u.held = false ∧ u.pc = p ∧ p ≠ s.thr.pc
  let pending := fun (i : Instr) (e : Enc) => s.thr.status = .ready → s.illegalHere e = none → s.thr.jobTrap = none → s.thr.guard e.g e.n = true → Quiet s → s.thr.pend ≠ [] →
    exec i s = .next { s with thr := { s.thr with pend := s.thr.pend.map (fun p => { p with win := 0 }), status := .waiting .interlock, waitSince := s.dev.clk, instr := toWords e, aged := false } }
  let yields := fun (i : Instr) (e : Enc) => (s.thr.region = none → Does i e s (waits e))
    ∧ (∀ r, s.thr.region = some r → Ready e s → Quiet s → CanTrap s → ∃ t, exec i s = .next t ∧ Trapped 1 (detail 0x12 0x0B 0 0) 0 (toWords e) s t)
  yields (.yieldS y) (y.enc 0x0B) ∧ yields (.yieldL x) (x.encL 0x0B)
  ∧ pending (.yieldS y) (y.enc 0x0B) ∧ pending (.yieldL x) (x.encL 0x0B)
  ∧ (∀ (k : ThreadKey) (pc : CodeAddr) (pcs : List CodeAddr) (til : Nat), ∀ t ∈ s.allThreads, t.status = .waiting (.yield pcs til) → t.key.gid = k.gid → t.key.tid / 32 = k.tid / 32 →
      { t with status := .waiting (.yield (pcs.filter (fun p => p ≠ pc)) til) } ∈ (s.splitIssued k pc).allThreads)
  ∧ (∀ k, HappensWhen (.yieldEnd k) s (s.focus k) (fun s => s.running = true ∧ ∃ pcs til, s.thr.status = .waiting (.yield pcs til) ∧ (pcs = [] ∨ til ≤ s.dev.clk))
      (fun s t => t.thr.status = .ready ∧ t.thr.pc = s.thr.npc ∧ SameRegs s t ∧ SameFlags s t ∧ t.mem = s.mem)))

/-! ## Loads and stores (chapters 09 to 11, 20) -/

/-- R144, R154, R155, R157: a load of the thread's own device leaves pending the bytes at its address as the group reads them, extended as c says. Memory (but
for the accessed bit that the check sets), what the group has staged, its scratchpad, the registers and the flags are unchanged. A shared or acquire load reads the
home and enters the published-write log; a plain load of a line the load cache still holds is not covered here, since R134 lets it read older bytes. R132, R154, R157, R119: scratchpad loads leave pending the bytes of the group's allocation at their address; scratchpad stores change those bytes alone. -/
def Obligations.LoadsAndScratchpad : Prop :=
  (∀ (x : LX) (y : SEnc) (s : State),
  let loads := fun (i : Instr) (e : Enc) => ∀ l s1 s2, let b := atBody e s
    b.global (loadReq e b) = .ok (l, s1) → l.cls ≠ 2 → s1.poisoned l.key (memSize e) = false →
    (if memOrder e = 0 then Uncached l s1 ∧ s1.raceIf l (b.globalAddr e) false = .ok s2 else FirstRun s1) →
    Does i e s (fun b t => Continues b t ∧ t.mem = s1.mem ∧ t.grp.staged = b.grp.staged ∧ t.grp.scratch = b.grp.scratch
      ∧ t.thr.pend = shrunk b ++ [loadPending e (memN e) (loadExt e (numberSeen s1 l.key (memSize e))) (memAcq e) 0 false b]
      ∧ (memOrder e ≠ 0 → t.grp.log = b.grp.log ++ [⟨b.thr.key.tid, pubOp e, b.globalAddr e, [],
          words (memN e) (loadExt e (numberSeen s1 l.key (memSize e))), 0⟩]))
  loads (.ldS y) (y.enc 0x70) ∧ loads (.ldLX x) (x.enc 0x70))
  ∧ (∀ (x : LX) (y : SEnc) (s : State),
  let loads := fun (i : Instr) (e : Enc) => let b := atBody e s
    b.checkScratch (b.scratchAddr e) (memSize e) = .ok () →
    Does i e s (fun b t => Leaves (loadPending e (memN e) (loadExt e (Mem.nat b.grp.scratch (b.scratchAddr e) (memSize e)))
      (memAcq e) 0 false b) b t)
  let stores := fun (i : Instr) (e : Enc) => let b := atBody e s
    b.checkScratch (b.scratchAddr e) (memSize e) = .ok () → (memOrder e = 2 → b.released (memScope e) = true) →
    Does i e s (fun b t => Continues b t ∧ t.thr.pend = shrunk b ∧ t.mem = b.mem ∧ t.grp.staged = b.grp.staged
      ∧ Written (b.scratchAddr e) (b.storeBytes e) b.grp.scratch t.grp.scratch)
  loads (.ldsS y) (y.enc 0x72) ∧ loads (.ldsLX x) (x.enc 0x72) ∧ stores (.stsS y) (y.enc 0x73) ∧ stores (.stsLX x) (x.enc 0x73))

/-- R119, R120, R142, R157: a plain store to class 0 or 4 is staged while its phase has not committed early and the staging quota has room. Its group reads the new
bytes at the address it computes and every other byte as before; memory itself is unchanged until the phase commits. R130, R145, R146, R157: a shared or release store to class 0 or 4, and every store to a mailbox page (class 5), performs at once at its home: the bytes stand in
memory at the address it computes, and every other byte of memory is unchanged. Stated where nothing is staged that the store would publish first, and where no
mailbox's range holds the address; an auditor's re-run, whose writes never become visible (R144), is not meant. -/
def Obligations.StoresToOwnDevice : Prop :=
  (∀ (x : LX) (y : SEnc) (s : State),
  let stores := fun (i : Instr) (e : Enc) => ∀ l s1 s2, let b := atBody e s
    memOrder e = 0 → b.global (storeReq e b) = .ok (l, s1) → (l.cls = 0 ∨ l.cls = 4) → s1.raceIf l (b.globalAddr e) true = .ok s2 →
    b.grp.early = false → b.grp.stagedVa.length < 16384 →
    Does i e s (fun b t => Continues b t ∧ Stored l.key (b.storeBytes e) s1 t ∧ t.mem = s1.mem ∧ t.grp.scratch = b.grp.scratch
      ∧ t.thr.pend = shrunk b ∧ t.thr.unacked = b.thr.unacked ++ [⟨b.nextId, b.grp.dev, 0⟩])
  stores (.stS y) (y.enc 0x71) ∧ stores (.stLX x) (x.enc 0x71))
  ∧ (∀ (x : LX) (y : SEnc) (s : State),
  let stores := fun (i : Instr) (e : Enc) => ∀ l s1, let b := atBody e s
    b.global (storeReq e b) = .ok (l, s1) → (l.cls = 5 ∨ ((l.cls = 0 ∨ l.cls = 4) ∧ memOrder e ≠ 0)) → b.grp.staged = [] → b.grp.stagedVa = [] → b.grp.shadow = 0 →
    b.part.mailboxOf (b.globalAddr e) = none → (memOrder e = 2 → s1.released (memScope e) = true) → (memOrder e ≠ 0 → FirstRun s1) →
    Does i e s (fun b t => Continues b t ∧ Written l.key (b.storeBytes e) s1.mem t.mem ∧ t.grp.staged = [] ∧ t.grp.scratch = b.grp.scratch
      ∧ t.thr.pend = shrunk b ∧ t.thr.unacked = b.thr.unacked ++ [⟨b.nextId, b.grp.dev, 0⟩]
      ∧ (memOrder e ≠ 0 → t.grp.log = b.grp.log ++ [⟨b.thr.key.tid, pubOp e, b.globalAddr e, words 4 (ofBytes (b.storeBytes e)), [0], 0⟩]))
  stores (.stS y) (y.enc 0x71) ∧ stores (.stLX x) (x.enc 0x71))

/-- R290, R291: an access to another device is sent to the device that its page names, and a plain one waits for its reply; memory is unchanged. A shared or acquire load
leaves its result pending, without a value until the reply. Stated where the destination refuses no shared access (notes/assumptions/31.md: such a refusal is met as the
instruction issues). -/
def Obligations.RemoteAccessesAreSent : Prop := ∀ (x : LX) (y : SEnc) (s : State),
  let sent := fun (_ : Enc) (l : Xlat) (kind : AccessKind) (waits : Bool) (b s1 t : State) =>
    t.mem = s1.mem ∧ SameRegs b t ∧ SameFlags b t ∧ ∃ a, t.inflight = b.inflight ++ [a] ∧ a.serial = b.nextId ∧ a.t = b.thr.key ∧ a.kind = kind
      ∧ a.dst = devOf l.key ∧ a.key = l.key ∧ a.remote = true ∧ a.waits = waits
      ∧ (if waits then t.thr.status = .waiting (.remote b.nextId) ∧ t.thr.pc = s.thr.pc ∧ t.thr.npc = b.thr.pc else t.thr.status = .ready ∧ t.thr.pc = b.thr.pc)
  let loads := fun (i : Instr) (e : Enc) => ∀ l s1, let b := atBody e s
    b.global (loadReq e b) = .ok (l, s1) → l.cls = 2 → b.thr.region = none → (memOrder e ≠ 0 → FirstRun s1 ∧ s1.refusal l (b.globalAddr e) = none) →
    Does i e s (fun b t => sent e l (.load (memSize e) (bit e.c.toNat 0)) (decide (memOrder e = 0)) b s1 t
      ∧ t.thr.pend = shrunk b ++ [{ loadPending e (memN e) 0 (memAcq e) 0 false b with vals := [] }])
  let stores := fun (i : Instr) (e : Enc) => ∀ l s1, let b := atBody e s
    b.global (storeReq e b) = .ok (l, s1) → l.cls = 2 → b.thr.region = none → FirstRun s1 → (memOrder e ≠ 0 → s1.refusal l (b.globalAddr e) = none) → (memOrder e = 2 → s1.released (memScope e) = true) → b.grp.staged = [] →
    Does i e s (fun b t => sent e l (.store (memSize e) (ofBytes (b.storeBytes e))) (decide (memOrder e = 0)) b s1 t)
  loads (.ldS y) (y.enc 0x70) ∧ loads (.ldLX x) (x.enc 0x70) ∧ stores (.stS y) (y.enc 0x71) ∧ stores (.stLX x) (x.enc 0x71)

/-- R43, R44, R131, R159: `ldf` of a formatted page makes one of its two reads, of the element or of its scale word, and has the other under way; its result is pending without a
value until the other read performs (R152: the two are separate reads; which comes first is open, notes/assumptions/5.md). R160: `ldk` is a
plain load whose base is a uniform pair. R161: `pfch` changes no register, flag or byte of memory. R162, R163, R141, R142: `cctl.inv` empties the load cache of the core and `cctl.invl` drops one line of the partition; `fence` completes once its release side may perform (a full one once the thread's earlier stores are acknowledged),
drops the lines of classes 0 and 4 on its acquire side, and a release of cluster scope or wider marks the thread fenced. -/
def Obligations.FormattedLoadsAndCacheControl : Prop :=
  (∀ (x : LX) (s : State),
  (∀ l s1 s2, let e := x.enc 0x74; let b := atBody e s
    b.global { va := b.globalAddr e, size := 1, write := false, classes := [0, 1, 3], prot13 := false, formatted := true } = .ok (l, s1) →
    (if memOrder e = 0 then Uncached l s1 ∧ s1.raceIf l (b.globalAddr e) false = .ok s2 else FirstRun s1) →
    let fmt := Pte.fmt l.entry
    let nib := x.c.toNat % 2
    let k := scaleKey b.part.dev l.entry (elementIndex l.entry (b.globalAddr e) nib)
    s1.poisoned l.key 1 = false → s1.poisoned k 4 = false →
    Does (.ldf x) e s (fun b t => Continues b t ∧ t.mem = s1.mem ∧ t.grp.staged = b.grp.staged
      ∧ t.thr.pend = shrunk b ++ [{ loadPending e 1 0 (memAcq e) 0 true b with vals := [] }]
      ∧ ∃ a, t.inflight = b.inflight ++ [a] ∧ a.serial = b.nextId ∧ a.t = b.thr.key ∧ a.remote = false
        ∧ ((a.key = k ∧ a.kind = .decode true (wrapInt 32 (elementOf fmt (numberSeen s1 l.key 1) nib)) nib fmt)
          ∨ (a.key = l.key ∧ a.kind = .decode false (numberSeen s1 k 4) nib fmt))))
  ∧ (∀ l s1 s2, let e := x.enc 0x75; let b := atBody e s
    b.global { va := b.globalAddr e, size := memSize e, write := false, classes := [0, 1, 3], prot13 := false } = .ok (l, s1) →
    s1.raceIf l (b.globalAddr e) false = .ok s2 → s1.poisoned l.key (memSize e) = false → Uncached l s1 →
    Does (.ldk x) e s (fun b t => Continues b t ∧ t.mem = s1.mem ∧ t.grp.staged = b.grp.staged
      ∧ t.thr.pend = shrunk b ++ [loadPending e (memN e) (loadExt e (numberSeen s1 l.key (memSize e))) false 0 false b]))
  ∧ Does (.pfch x) (x.enc 0x76) s (fun b t => Continues b t ∧ t.thr.pend = shrunk b ∧ t = { b with thr := t.thr, core := t.core }
      ∧ t.core = { b.core with lcache := t.core.lcache }))
  ∧ (∀ (x : LX) (s : State),
  let quiet := fun (b t : State) => Continues b t ∧ t.thr.pend = shrunk b ∧ t = { b with thr := t.thr, core := t.core }
  Does (.cctlInv x) (({ x with c := 0 } : LX).encL 0x77) s (fun b t => quiet b t ∧ t.core = { b.core with lcache := [] })
  ∧ Does (.cctlInvl x) (({ x with c := 1 } : LX).encL 0x77) s (fun b t => quiet b t ∧
      let va := b.opA (({ x with c := 1 } : LX).encL 0x77) 2
      match (if 2 ^ 56 ≤ va then Trans.miss else b.translate va) with
      | .ok l => t.core = { b.core with lcache := b.core.lcache.filter (fun c => !(c.line = l.key / 128 && c.pid = b.part.pid)) }
      | _ => t.core = b.core)
  ∧ (let e := x.encL 0x78
     let o := field x.m.toNat 1 0
     let sc := field x.m.toNat 4 2
     (2 ≤ o → (atBody e s).released sc = true) → (o = 3 → (atBody e s).acked = true) →
     Does (.fence x) e s (fun b t => quiet b t ∧ t.thr.fenced = (b.thr.fenced || decide (2 ≤ o ∧ 2 ≤ sc))
       ∧ t.core.lcache = (if o ≠ 2 ∧ sc ≠ 0 then b.core.lcache.filter (fun l => !(l.cls = 0 || l.cls = 4)) else b.core.lcache))))

/-- R165, R166: `amo` sends its operation to the home of its address, once its release may perform, and changes no byte of memory at issue; with a result register it leaves a
result pending, with d = zr none. `amos` performs at once on the group's scratchpad: the old value is left pending and the new one stored. R136, R144, R165, Table 11.5: when an atomic performs at its home, the new value of its operation on the old one, as its group reads it, stands there, and every other byte of
memory is unchanged. R131, R159: when the second read of an `ldf` performs, the pending result receives the dequantized element, and no byte of memory differs. -/
def Obligations.Atomics : Prop :=
  (∀ (x : LX) (s : State),
  (∀ l, let e := x.enc 0x80; let b := atBody e s
    let o := field x.m.toNat 1 0
    b.check { va := b.opA e 2, size := atomicSize x.t.toNat, write := true, classes := [0, 2, 5], prot13 := true } = .ok l →
    (l.cls = 2 → b.thr.region = none) → (2 ≤ o → (b.touch (b.opA e 2) true l).released (field x.m.toNat 4 2) = true) → (o = 3 → b.acked = true) → FirstRun b →
    b.grp.staged = [] → b.grp.stagedVa = [] → b.grp.shadow = 0 → (b.touch (b.opA e 2) true l).refusal l (b.opA e 2) = none →
    Does (.amo x) e s (fun b t => Continues b t ∧ t.mem = (b.touch (b.opA e 2) true l).mem
      ∧ (∃ a, t.inflight = b.inflight ++ [a] ∧ a.serial = b.nextId ∧ a.t = b.thr.key ∧ a.dst = devOf l.key ∧ a.key = l.key ∧ a.ordered = bit x.m.toNat 5
        ∧ a.kind = .atomic x.c.toNat x.t.toNat (b.atomicArgs e).1 (b.atomicArgs e).2)
      ∧ t.thr.pend = shrunk b ++ (if code e e.d ≠ 0xFF then [{ loadPending e (tw x.t) 0 (amoAcq e) 0 (decide (x.c = 11)) b with vals := [] }] else [])))
  ∧ (let e := x.enc 0x81; let b := atBody e s
     let o := field x.m.toNat 1 0
     let n := atomicSize x.t.toNat
     b.checkScratch (b.opA e 1) n = .ok () → (2 ≤ o → b.released (field x.m.toNat 4 2) = true) → (o = 3 → b.acked = true) →
     Does (.amos x) e s (fun b t =>
       let old := Mem.nat b.grp.scratch (b.opA e 1) n
       let new := atomicNew x.c.toNat x.t.toNat old (b.atomicArgs e).1 (b.atomicArgs e).2
       t.thr.status = .ready ∧ t.thr.pc = b.thr.pc ∧ SameRegs b t ∧ t.mem = b.mem
       ∧ Written (b.opA e 1) (toBytes n new.1) b.grp.scratch t.grp.scratch
       ∧ (if code e e.d = 0xFF then t.thr.pend = shrunk b ∧ t.thr.fp = b.thr.fp ||| new.2
          else t.thr.fp = b.thr.fp ∧ t.thr.pend = shrunk b ++ [loadPending e (tw x.t) old (amoAcq e) new.2 (decide (x.c = 11)) b]))))
  ∧ (∀ (serial : Nat) (s : State) (a : Access),
  s.inflight.find? (fun b => b.serial = serial) = some a → a.remote = false → a.va % 64 ≠ 0 → s.mayPerform a = true →
  (∀ op ty v cmp, a.kind = .atomic op ty v cmp → s.poisoned a.key (atomicSize ty) = false → ∃ t, exec (.atomicPerform serial) s = .next t
    ∧ Written a.key (toBytes (atomicSize ty) (atomicNew op ty (ofBytes (s.groupBytes a.t.gid a.key (atomicSize ty))) v cmp).1) s.mem t.mem
    ∧ t.inflight = s.inflight.filter (fun b => b.serial ≠ serial))
  ∧ (∀ scale first nib fmt s1 l, a.kind = .decode scale first nib fmt → s.poisoned a.key (if scale then 4 else 1) = false → s.focus a.t = some s1 → s1.launch? a.lid = some l →
      s1.thr.key = a.t → s1.thr.pend.any (fun p => p.serial = serial) = true →
      let v := ofBytes (s.groupBytes a.t.gid a.key (if scale then 4 else 1))
      let q := if scale then sint 32 (first % 2 ^ 32) else elementOf fmt v nib
      let w := if scale then v else first % 2 ^ 32
      ∃ t, exec (.atomicPerform serial) s = .next t ∧ t.mem = s.mem
        ∧ t.thr.pend = s1.thr.pend.map (fun p => if p.serial = serial then
            { p with vals := words 1 (dequantT l.nbv w q).1, fp := (dequantT l.nbv w q).2 } else p)))

/-! ## Sync words (chapter 11) -/

/-- R167 to R169: `sinit` writes the word's byte and thread targets, clears its counts and keeps its generation, and gives it its attributes. R168, R171: `sarrive` adds its
bytes and perhaps one arrival. A write to a global word enters the published-write log. Nothing outside the word's 16 bytes changes. R291: on another device's word the
operation is sent there, and no byte of memory changes at issue. Stated where nothing is staged that a global word's write would publish first. R168, R171: `swait` goes on with an acquire when the generation, as its group reads it, has passed, and waits in place otherwise; on another device's word it waits for the
answer (R291). `sbar` arrives and waits for the next generation, and the arrival that completes it goes on and closes its group's phase; `spoll` leaves the generation pending
and never waits on the word; on another device's word it is sent there. -/
def Obligations.SyncWords : Prop :=
  (∀ (x : LX) (y : SEnc) (s : State),
  let ready := fun (e : Enc) (b s1 : State) => (syncGlobal e = true → FirstRun s1 ∧ b.grp.staged = [])
  let sent := fun (act : SyncAct) (l : Xlat) (b s1 t : State) => Continues b t ∧ t.thr.pend = shrunk b ∧ t.mem = s1.mem ∧ t.grp.scratch = b.grp.scratch
    ∧ ∃ a, t.inflight = b.inflight ++ [a] ∧ a.serial = b.nextId ∧ a.t = b.thr.key ∧ a.kind = .sync act ∧ a.dst = devOf l.key ∧ a.key = l.key ∧ a.remote = true
  let arrives := fun (i : Instr) (e : Enc) (bytes : State → Nat) (arrival : Bool) => ∀ p s1, let b := atBody e s
    let loc := p.loc
    b.syncPlace e true = .ok (p, s1) → ready e b s1 → (s1.syncAttr loc).bar = false → (arrival = true → (s1.syncWord loc).tt ≠ 0) →
    countsOk (s1.syncWord loc) → s1.released (s1.syncScope loc) = true →
    (p.away = none → Does i e s (fun b t => Continues b t ∧ t.thr.pend = shrunk b ∧ WordOnly loc s1 t
      ∧ t.syncWord loc = ((s1.syncWord loc).apply (s1.syncHeld loc) (bytes b) arrival).1
      ∧ t.syncHeld loc = ((s1.syncWord loc).apply (s1.syncHeld loc) (bytes b) arrival).2.1))
    ∧ (∀ l, p.away = some l → Does i e s (fun b t => sent (.arrive (bytes b) arrival) l b s1 t))
  (∀ p s1, let e := x.enc 0x82; let b := atBody e s
    let loc := p.loc
    let bar := x.m.getLsbD 2
    let tt := if bar then (b.liveThreads b.grp.gid).length else b.opC e 1 % 2 ^ 16
    let attr : SyncAttr := ⟨x.m.getLsbD 1, bar, field x.m.toNat 5 3⟩
    b.syncPlace e true = .ok (p, s1) → ready e b s1 → tt < 2 ^ 16 → (bar = false → b.opC e 1 < 2 ^ 16) → (b.opB e 1 ≠ 0 ∨ tt ≠ 0) →
    (bar = true → (s1.grp.barriers.filter (fun o => o ≠ p.addr)).length < 16 ∧ s1.hasWaiters loc = false ∧ (s1.syncWord loc).tc = 0) →
    (p.away = none → Does (.sinit x) e s (fun b t => Continues b t ∧ t.thr.pend = shrunk b ∧ WordOnly loc s1 t
      ∧ t.syncWord loc = { s1.syncWord loc with bt := b.opB e 1, bc := 0, tt := tt, tc := 0 }
      ∧ t.syncAttr loc = attr))
    ∧ (∀ l, p.away = some l → Does (.sinit x) e s (fun b t => sent (.init (b.opB e 1) tt attr) l b s1 t)))
  ∧ arrives (.sarriveS y) (y.enc 0x83) (fun _ => 0) true
  ∧ arrives (.sarriveLX x) (x.enc 0x83) (fun b => b.opB (x.enc 0x83) 1) (!x.m.getLsbD 1))
  ∧ (∀ (x : LX) (y : SEnc) (s : State),
  let sent := fun (act : SyncAct) (l : Xlat) (b s1 t : State) => t.mem = s1.mem
    ∧ ∃ a, t.inflight = b.inflight ++ [a] ∧ a.serial = b.nextId ∧ a.t = b.thr.key ∧ a.kind = .sync act ∧ a.dst = devOf l.key ∧ a.key = l.key ∧ a.remote = true
  let waits := fun (i : Instr) (e : Enc) (gen : State → Word) => ∀ p s1, let b := atBody e s
    let loc := p.loc
    b.syncPlace e false = .ok (p, s1) → b.thr.region = none →
    (p.away = none → Does i e s (fun b t => t.mem = s1.mem ∧ t.grp = b.grp ∧
      if passed (BitVec.ofNat 32 (s1.seenWord loc).gen) (gen b) then
        Continues b t ∧ t.thr.pend = shrunk b ∧ t.core = (if s1.syncScope loc = 0 then s1.core else s1.core.invalidate)
      else Waits (.sync loc (gen b)) b.thr.pc s t))
    ∧ (∀ l, p.away = some l → Does i e s (fun b t => sent (.await (gen b)) l b s1 t ∧ Waits (.remote b.nextId) b.thr.pc s t))
  let bars := fun (i : Instr) (e : Enc) => ∀ off p s1, let b := atBody e s
    let loc := SyncLoc.scratch b.grp.gid off
    b.syncPlace e true = .ok (p, s1) → p.loc = loc → b.thr.region = none → b.thr.key.gid = b.grp.gid → (s1.syncAttr loc).bar = true → s1.released (s1.syncScope loc) = true →
    (s1.syncWord loc).bt = 0 → (s1.syncWord loc).tt < 2 ^ 16 → s1.syncHeld loc = 0 →
    ((s1.syncWord loc).tc + 1 < (s1.syncWord loc).tt →
      Does i e s (fun b t => Waits (.sync loc (BitVec.ofNat 32 ((s1.syncWord loc).gen + 1))) b.thr.pc s t
        ∧ t.syncWord loc = { s1.syncWord loc with tc := (s1.syncWord loc).tc + 1 }))
    ∧ ((s1.syncWord loc).tc + 1 = (s1.syncWord loc).tt → b.grp.phase = .running →
      Does i e s (fun b t => Continues b t ∧ t.grp.phase = .closing
        ∧ t.syncWord loc = { s1.syncWord loc with tc := 0, gen := ((s1.syncWord loc).gen + 1) % 2 ^ 32 }))
  waits (.swaitS y) (y.enc 0x84) (fun b => b.read32 (code (y.enc 0x84) (y.enc 0x84).b))
  ∧ waits (.swaitLX x) (x.enc 0x84) (fun b => x.lit.getD (b.read32 x.b))
  ∧ bars (.sbarS y) (y.enc 0x85) ∧ bars (.sbarL x) (x.encL 0x85)
  ∧ (∀ p s1, let e := x.enc 0x86; let b := atBody e s
      b.syncPlace e false = .ok (p, s1) → (syncGlobal e = true → FirstRun s1) →
      (p.away = none → Does (.spoll x) e s (fun b t => Continues b t ∧ t.mem = s1.mem ∧ t.grp.scratch = b.grp.scratch
        ∧ t.thr.pend = shrunk b ++ [loadPending e 1 (s1.seenWord p.loc).gen false 0 false b]))
      ∧ (∀ l, p.away = some l → Does (.spoll x) e s (fun b t => Continues b t ∧ sent (.poll (x.lit.getD (b.read32 x.b))) l b s1 t
        ∧ t.thr.pend = shrunk b ++ [{ loadPending e 1 0 false 0 false b with vals := [] }]))))

/-! ## Across lanes, the register pool and tickets (chapters 07, 08, 11) -/

/-- R110, R111, R173, R174: a cross-lane instruction waits, guard true or false, until every lane of its mask has gathered; the gather that no lane is missing from completes it:
the thread of a live lane is Ready past it with its result in d (the predicate q[d] for `xelect`) and the flags of the whole operation raised. R50, R174: what the lanes of a cross-lane instruction receive, where a lane may be a member or not: a permuted value or its own where the source lane is no member, the
broadcast value, the ballot and the other votes over the members' predicates, the members that hold an equal value, and the lowest lane. -/
def Obligations.CrossLane : Prop :=
  (∀ (x : LX) (s : State),
  let gathers := fun (i : Instr) (e : Enc) => let b := atBody e s
    let mask := if e.form = .x then e.lit else b.read32 e.b
    let lane := s.thr.key.tid % 32
    let live := s.thr.guard e.g e.n
    Issues e s → Quiet s → mask.getLsbD lane = true → b.absentLanes mask = false →
    ∃ t, exec i s = .next t ∧ Waits (.gather e.op mask (toWords e) live) b.thr.pc s t ∧ t.mem = b.mem ∧
      (Focused t → t.running = true → t.missingLanes = [] → live = true → ∃ u, exec (.crossLaneGather s.thr.key) t = .next u
        ∧ u.thr.status = .ready ∧ u.thr.pc = b.thr.pc ∧ u.mem = t.mem
        ∧ (let ms := t.liveMembers
           let r := crossResult e t.lau.nbv (ms.map (fun m => (m.1, t.memberReg m.2 e.a (tw e.t)))) (ms.map (fun m => (m.1, t.memberReg m.2 e.c 1)))
             (ms.map (fun m => (m.1, m.2.getQ e.c.toNat)))
           ∀ v, lookup lane r.1 = some v → u.thr.fp = t.thr.fp ||| r.2 ∧
             (if e.op = 0x96 then SameRegs t u ∧ ∀ j < 7, u.thr.getQ j = if j = e.d.toNat then decide (v ≠ 0) else t.thr.getQ j
              else Wrote e.d (words (crossWidth e) v) t u ∧ u.thr.q = t.thr.q)))
  gathers (.xperm x) (x.enc 0x90) ∧ gathers (.xbcast x) (x.enc 0x91) ∧ gathers (.xvote x) (x.enc 0x92) ∧ gathers (.xred x) (x.enc 0x93)
    ∧ gathers (.xscan x) (x.enc 0x94) ∧ gathers (.xmatch x) (x.enc 0x95) ∧ gathers (.xelect x) (x.enc 0x96))
  ∧ (∀ (e : Enc) (nbv : Nat) (vals arg : List (Nat × Nat)) (preds : List (Nat × Bool)) (l v : Nat),
  vals.Pairwise (fun a b => a.1 < b.1) → preds.Pairwise (fun a b => a.1 < b.1) → (∀ p ∈ preds, p.1 < 32) → (l, v) ∈ vals →
  let got := lookup l (crossResult e nbv vals arg preds).1
  (e.op = 0x90 → ∀ n, lookup l arg = some n → got = some (match permSource (e.m.toNat % 4) l (n % 32) with | some j => (lookup j vals).getD v | none => v))
  ∧ (e.op = 0x91 → e.m.getLsbD 5 = false → got = some ((lookup (e.m.toNat % 32) vals).getD v))
  ∧ (e.op = 0x92 → ∀ p, (l, p) ∈ preds → ∃ r, got = some r ∧
      (e.m.toNat % 4 = 0 → ∀ j, r.testBit j = decide ((j, true) ∈ preds))
      ∧ (e.m.toNat % 4 = 1 → (r = 1 ↔ ∀ q ∈ preds, q.2 = true))
      ∧ (e.m.toNat % 4 = 2 → (r = 1 ↔ ∃ q ∈ preds, q.2 = true))
      ∧ (e.m.toNat % 4 = 3 → (r = 1 ↔ ∀ q ∈ preds, ∀ q' ∈ preds, q.2 = q'.2)))
  ∧ (e.op = 0x95 → ∃ r, got = some r ∧ ((∀ u ∈ vals, u.1 < 32) → ∀ j, r.testBit j = decide ((j, v) ∈ vals)))
  ∧ (e.op = 0x96 → ∃ r, got = some r ∧ (r = 1 ↔ ∀ u ∈ vals, l ≤ u.1) ∧ r ≤ 1))

/-- R121, R122: `reggive` and `regclaim` gather with the pack's live lanes. Complete, a give of a legal count lowers the grant of the whole pack and raises the pool by its blocks, and
the registers given up read zero; a claim puts the pack in the queue for its blocks, and REGCLAIM_SERVE raises the grant once the pool holds them. R124: `tkclaim` sends its claim to the cluster's merge point and waits; 64 cycles after its first claim the merge point adds one to the counter, as the claiming
groups have staged it, for each claim that reached it within them, and each of these takes the old value plus its rank by core, slot and thread; the reply writes d and enters the ticket log. A re-run takes its logged ticket. -/
def Obligations.PoolAndTickets : Prop :=
  (∀ (x : LX) (s : State),
  let arrives := fun (i : Instr) (e : Enc) => let b := atBody e s
    Issues e s → Quiet s → b.liveMask.getLsbD (s.thr.key.tid % 32) = true → b.absentLanes b.liveMask = false →
    ∃ t, exec i s = .next t ∧ Waits (.gather e.op b.liveMask (toWords e) (s.thr.guard e.g e.n)) b.thr.pc s t ∧ t.mem = b.mem
  let gathered := fun (op : BitVec 8) (s : State) (n : Nat) => Focused s ∧ s.running = true ∧ s.missingLanes = [] ∧ s.liveMembers ≠ []
    ∧ (∃ e mask live, s.thr.status = .waiting (.gather op mask (toWords e) live) ∧ e.op = op ∧ Encoding.ofWords ((toWords e).getD 0 0) ((toWords e).getD 1 0) ((toWords e).getD 2 0) = some e
        ∧ ∀ m ∈ s.liveMembers, (if e.form = .x then e.lit.toNat else s.memberReg m.2 e.b 1) = n)
  arrives (.reggive x) (x.enc 0xE4) ∧ arrives (.regclaim x) (x.enc 0xE5)
  ∧ (∀ n, gathered 0xE4 s n → n % 8 = 0 → n ≠ 0 → n + 8 ≤ s.thr.grant → (∀ c ∈ s.lau.carrySet, c < 192 → c + n < s.thr.grant) →
      ∃ t, exec (.crossLaneGather s.thr.key) s = .next t ∧ t.thr.grant = s.thr.grant - n ∧ t.grp.pool = s.grp.pool + n / 8 ∧ t.thr.status = .ready ∧ t.thr.pc = s.thr.npc
        ∧ ∀ (k : Nat) (h : k < 200), t.thr.regs[k] = if s.thr.grant - n ≤ k ∧ k < s.thr.grant then 0 else s.thr.regs[k])
  ∧ (∀ n, gathered 0xE5 s n → n % 8 = 0 → n ≠ 0 → s.thr.grant + n ≤ 192 → n / 8 + s.otherBlocks ≤ s.lau.regs * s.lau.packs / 8 →
      ∃ t, exec (.crossLaneGather s.thr.key) s = .next t ∧ t.thr.status = .waiting (.regclaim n) ∧ t.grp.claims = s.grp.claims ++ [(s.thr.key.tid / 32, n / 8)]
        ∧ SameRegs s t)
  ∧ (∀ gid pack blocks rest u s1 s2, gid ≠ 0 → s.focusGroup gid = some s1 → s1.grp.claims = (pack, blocks) :: rest → s1.grp.gid = gid →
      (s1.packThreads gid pack).find? (fun t => t.status = .waiting (.regclaim (8 * blocks))) = some u → s1.focus u.key = some s2 → s2.running = true → blocks ≤ s2.grp.pool →
      s2.thr.key = u.key → s2.thr.status = .waiting (.regclaim (8 * blocks)) →
      ∃ t, exec (.regclaimServe gid) s = .next t ∧ t.thr.key = u.key ∧ t.thr.grant = s2.thr.grant + 8 * blocks ∧ t.thr.status = .ready ∧ t.thr.pc = s2.thr.npc
        ∧ t.grp.pool = s2.grp.pool - blocks ∧ t.grp.claims = rest))
  ∧ (∀ (x : LX) (s : State),
  (∀ l s1, let e := x.encL 0xE6; let b := atBody e s
    b.global { va := b.opA e 2, size := 4, write := true, classes := [0], prot13 := false } = .ok (l, s1) →
    (s1.loggedTicket = none → s1.grp.shadow = 0 → b.grp.tickets.length + (b.tickets.filter (fun t => t.t.gid = b.grp.gid)).length < 16 →
        (b.thr.fenced = true → b.grp.staged = []) → Does (.tkclaim x) e s (fun b t => Waits .ticket b.thr.pc s t ∧ t.mem = s1.mem
        ∧ ∃ k, t.tickets = b.tickets ++ [k] ∧ k.t = b.thr.key ∧ k.key = l.key ∧ k.dev = b.grp.dev ∧ k.core = b.grp.core ∧ k.since = b.dev.clk ∧ k.dst = x.d ∧ k.val = none))
    ∧ (∀ v, s1.loggedTicket = some v → Does (.tkclaim x) e s (fun b t => Waits .reply b.thr.pc s t ∧ t.mem = s1.mem ∧ t.tickets = b.tickets
        ∧ t.thr.reply = if x.d.toNat < 200 then [(x.d.toNat, v)] else [])))
  ∧ (∀ dev cluster key, let s1 := s.checkoutDev dev
      let mine := fun (k : Ticket) => k.val.isNone && k.dev = dev && k.core / 4 = cluster && k.key = key
      ∀ k rest, s.tickets.filter mine = k :: rest → k.since + 64 ≤ s1.dev.clk → s.locked key = false → s.poisoned key 4 = false →
      let ks := k :: rest.filter (fun j => decide (j.since < k.since + 64))
      let base := Mem.nat (ks.foldl (fun s j => State.landOf j.t.gid key 4 s) s1).mem key 4
      ∃ t, exec (.ticketMerge dev cluster key) s = .next t
        ∧ Written key (toBytes 4 ((base + ks.length) % 2 ^ 32)) s.mem t.mem
        ∧ t.tickets = s.tickets.map (fun j => if ks.contains j then
            { j with val := some (BitVec.ofNat 32 (base + (ks.filter (fun i => i.before j)).length)) } else j))
  ∧ (∀ k s1 tk v, s.focus k = some s1 → s1.tickets.find? (fun j => j.t = s1.thr.key && j.val.isSome) = some tk → tk.val = some v → s1.thr.status = .waiting .ticket →
      ∃ t, exec (.ticketReply k) s = .next t ∧ t.thr.status = .ready ∧ t.thr.pc = s1.thr.npc ∧ Wrote tk.dst [v] s1 t ∧ t.mem = s1.mem
        ∧ t.tickets = s1.tickets.filter (fun j => j.t ≠ tk.t)))

/-! ## Matrix array, engines and sequencers (chapters 12, 13, 20) -/

/-- R176, R187, R188, R191, R193, R196 to R199, R201: an array command, and a tile load or an epilogue store, that passes its checks enters the core's queue with its implicit card and its
number, and the thread goes on; nothing moves yet and memory is unchanged. The X form of `mmac` takes its fields from its literal. An `accst` holds its pair's visible bank, which it
has read. Stated where the queue has room and no earlier store is unacknowledged. -/
def Obligations.ArrayCommandsQueue : Prop := ∀ (x : LX) (s : State),
  let queues := fun (i : Instr) (e : Enc) (kind : JobKind) (reads writes : List CardRegion) (count : Option Nat) (bytes : Nat) (held : Option Nat) => let b := atBody e s
    b.core.full = false → b.released 2 = true →
    Does i e s (fun b t => Continues b t ∧ t.thr.pend = shrunk b ∧ t.mem = b.mem ∧ t.grp = b.grp ∧ t.nextId = b.nextId + 2
      ∧ ∃ j, t.core.jobs = b.core.jobs ++ [j] ∧ j.id = b.nextId ∧ j.gid = b.grp.gid ∧ j.tid = b.thr.key.tid ∧ j.phase = b.grp.phases ∧ j.kind = kind
        ∧ j.reads = reads ∧ j.writes = writes ∧ j.count = count ∧ j.bytes = bytes ∧ j.guard = none ∧ j.fo = none ∧ j.freed = true ∧ j.moved = false
        ∧ (∀ p, t.core.pair p = { b.core.pair p with
            holds := if held = some p ∧ p < b.core.pairs.length then (b.core.pair p).holds ++ [j.id] else (b.core.pair p).holds }))
  let count := fun (e : Enc) => if code e e.d = 0xFF then none else some ((atBody e s).opD e 1)
  let countOk := fun (e : Enc) => code e e.d = 0xFF ∨ ((atBody e s).opD e 1 % 16 = 0 ∧ (atBody e s).opD e 1 + 16 ≤ s.grp.scratchSize)
  let tile := fun (i : Instr) (e : Enc) (dst : SideSpace) (fmt n : Nat) (claimed : Nat) (region : CardRegion) => let b := atBody e s
    let sp := x.m.getLsbD 5
    let base := if sp then b.opA e 1 else b.opA e 2
    let stride := b.opC e 1
    let span := (n - 1) * stride + colBytes fmt
    let zpv := if x.b = 0xFF then none else some (b.opB e 1)
    (claimed = 0 ∨ claimed = s.grp.gid) → countOk e → (sp = true → base + span ≤ s.grp.scratchSize) → colBytes fmt ≤ stride → stride % 4 = 0 →
    (x.b ≠ 0xFF → fmt < 2 ∧ b.opB e 1 + n ≤ s.grp.scratchSize) →
    queues i e (.copy ⟨if sp then .scratch else .global, base, 0, stride, 0, 0⟩ ⟨dst, 0, 0, colBytes fmt, 0, 0⟩ (colBytes fmt) n 1 1 fmt zpv true)
      (⟨if sp then 1 else 0, base, span⟩ :: (zpv.map (fun o => (⟨1, o, n⟩ : CardRegion))).toList) [region] (count e) (n * colBytes fmt) none
  let m := x.m.toNat
  tile (.mload x) (x.encL 0xA2) (.macro_ (field m 2 0)) (field m 4 3) (colCount (field m 4 3)) ((atBody (x.encL 0xA2) s).projected.macros.getD (field m 2 0) (none, 0)).2 ⟨3, field m 2 0, 1⟩
  ∧ tile (.rowld x) (x.encL 0xA3) .rowbuf (field m 7 6) (field m 4 0 + 1) (atBody (x.encL 0xA3) s).projected.row.2 ⟨2, 0, 32⟩
  ∧ (let rows := x.c.toNat + 1
     let row := (atBody (x.encL 0xA4) s).projected.row
     rows ≤ 32 → (row.1 = some 2 ∨ row.1 = some 3) → (row.2 = 0 ∨ row.2 = s.grp.gid) →
     queues (.hada x) (x.encL 0xA4) (.hada m rows) [⟨2, 0, rows⟩] [⟨2, 0, rows⟩] none 0 none)
  ∧ (let e := x.enc 0xA5
     let l := x.lit
     let b := atBody e s
     let acc := (l.map litAcc).getD (b.opA e 1)
     let mask := (l.map litMask).getD m
     let rows := (l.map litRows).getD (x.c.toNat + 1)
     let zero := (l.map litZero).getD false
     (l.map litBad).getD false = false → rows ≤ 32 → mmacCodes b.core b.projected b.grp acc mask zero = [] →
     b.core.faulted (b.projected.outPairs b.grp.pairNo acc mask) = none →
     queues (.mmac x) e (.mmac acc mask rows zero) (⟨2, 0, rows⟩ :: (maskList mask).map (fun m => ⟨3, m, 1⟩)) [] none 0 none)
  ∧ (let e := x.enc 0xA9
     let p := s.grp.pairNo ((atBody e s).op1 e 1)
     s.core.holdsPair s.grp.gid p = true → (s.core.pair p).fault = none → queues (.accz x) e (.accz p (x.m.getLsbD 0)) [] [] none 0 none)
  ∧ (let e := x.encL 0xA8
     let b := atBody e s
     let p := b.grp.pairNo (b.opA e 1)
     let t := e.t.toNat
     let sz := accstSize t
     let sp := x.m.getLsbD 0
     ∀ w0 w1 w2, b.block e.c 3 = some [w0, w1, w2] →
     let rows := field w1.toNat 4 0 + 1
     let cols := field w1.toNat 14 8 + 1
     let scale := if w2.getLsbD 20 then some (field w2.toNat 19 0) else none
     let base := if sp then b.opB e 1 else b.opB e 2
     let span := (rows - 1) * w0.toNat + cols * sz
     s.core.holdsPair s.grp.gid p = true → (s.core.pair p).fault = none → countOk e → (sp = true → base + span ≤ s.grp.scratchSize) →
     (∀ o, scale = some o → o % 4 = 0 ∧ o + 4 * cols ≤ s.grp.scratchSize) → (t = 5 → scale.isSome = true) →
     w0.toNat % sz = 0 → base % sz = 0 → field w1.toNat 31 15 = 0 → field w1.toNat 7 5 = 0 → field w2.toNat 31 21 = 0 →
     queues (.accst x) e (.accst p t base sp w0.toNat rows cols scale (s.core.pair p).visible) ((scale.map (fun o => (⟨1, o, 4 * cols⟩ : CardRegion))).toList)
       [⟨if sp then 1 else 0, base, span⟩] (count e) (rows * cols * sz) (some p))

/-- R181, R194, R195, R199, R200: `acca` grants the lowest free run of pairs, zeroed, and returns its first number; `accf` releases a held pair and `aswap` exchanges its banks, once for a split, when
the pair is quiescent, and otherwise `aswap` waits; `accrd` leaves pending an element of the visible bank, or the pair's SAT and forms. R123, R149, R188, R189, R205 to R207: `fork`, a release at cluster scope, starts the lowest free sequencer on its list and returns its number, or waits its turn; `rdv` returns the status of a stopped sequencer with nothing
queued and frees it, and waits for one that runs; `gres` resolves an unresolved slot once, freeing or discarding the commands that wait on it, and `gres.clr` makes it unresolved. -/
def Obligations.PairsAndSequencers : Prop :=
  (∀ (x : LX) (s : State),
  let grown := fun (b t : State) => Continues b t ∧ t.thr.pend = shrunk b ∧ t.mem = b.mem
  let pairIs := fun (p : Nat) (q : AccPair) (b t : State) => t.core.pair p = q ∧ ∀ r, r ≠ p → t.core.pair r = b.core.pair r
  (let e := x.enc 0xA0
   let b := atBody e s
   let n := b.op1 e 1
   ∀ p, 1 ≤ n → n ≤ 8 → b.core.pairs.length = 8 → b.accaServable n = true → b.core.accaQ = [] → b.loggedTicket = none → b.grp.shadow = 0 →
     b.grp.tickets.length + (b.tickets.filter (fun t => t.t.gid = b.grp.gid)).length < 16 →
     p + n ≤ 8 → b.core.runFree p n = true → (∀ r < p, b.core.runFree r n = false) →
     Does (.acca x) e s (fun b t => t.thr.status = .ready ∧ t.thr.pc = b.thr.pc ∧ t.thr.pend = shrunk b ∧ t.mem = b.mem ∧ SameFlags b t
       ∧ Wrote (code e e.d) [BitVec.ofNat 32 p] b t ∧ t.grp.tickets = b.grp.tickets ++ [BitVec.ofNat 32 p]
       ∧ ∀ r < 8, t.core.pair r = if p ≤ r ∧ r < p + n then { AccPair.free with owner := b.grp.gid } else b.core.pair r))
  ∧ (let e := x.enc 0xA1
     let b := atBody e s
     let p := b.grp.pairNo (b.op1 e 1)
     b.core.holdsPair b.grp.gid p = true → (b.core.pair p).fault = none → b.quiescent p b.nextId = true → b.cycOnce.contains (0xA1, b.grp.gid, b.thr.key.tid / 32, b.thr.pc, p) = false →
     Does (.accf x) e s (fun b t => grown b t ∧ pairIs p { b.core.pair p with released := true } b t))
  ∧ (let e := x.enc 0xA6
     let b := atBody e s
     let p := b.grp.pairNo (b.op1 e 1)
     b.core.holdsPair b.grp.gid p = true → (b.core.pair p).fault = none →
     (b.quiescent p b.nextId = true → b.cycOnce.contains (0xA6, b.grp.gid, b.thr.key.tid / 32, b.thr.pc, p) = false →
       Does (.aswap x) e s (fun b t => grown b t ∧ pairIs p { b.core.pair p with working := (b.core.pair p).visible, visible := (b.core.pair p).working } b t))
     ∧ (b.quiescent p b.nextId = false → Does (.aswap x) e s (fun b t => Waits (.aswap p b.nextId) b.thr.pc s t ∧ t.core = b.core ∧ t.mem = b.mem)))
  ∧ (let e := x.encL 0xA7
     let b := atBody e s
     let p := b.grp.pairNo (b.opA e 1)
     let left := fun (n v : Nat) (f : BitVec 5) (b : State) => { aluPending e n v f 0 false true b with alu := false }
     b.core.holdsPair b.grp.gid p = true → (b.core.pair p).fault = none →
     (field x.m.toNat 7 6 = 3 → Does (.accrd x) e s (fun b t => Leaves (left 1 (ofBool (b.core.pair p).sat + 2 * (b.core.pair p).visible.form + 8 * (b.core.pair p).working.form) 0 b) b t))
     ∧ (field x.m.toNat 7 6 ≠ 3 → b.opB e 1 ≤ 4095 → Does (.accrd x) e s (fun b t =>
         let r := accRead e.t (b.core.pair p).visible.form ((b.core.pair p).visible.get (b.opB e 1))
         Leaves (left (tw e.t) r.1 r.2 b) b t))))
  ∧ (∀ (x : LX) (s : State),
  let returns := fun (e : Enc) (v : Nat) (b t : State) => t.thr.status = .ready ∧ t.thr.pc = b.thr.pc ∧ t.thr.pend = shrunk b ∧ t.mem = b.mem ∧ SameFlags b t
    ∧ Wrote (code e e.d) [BitVec.ofNat 32 v] b t
  (let e := x.enc 0xB2
   let b := atBody e s
   let list := b.op1 e 1
   list % 128 = 0 → list + 128 ≤ s.grp.scratchSize → b.released 2 = true →
   (∀ sq, b.core.forkQ = [] → b.core.freeSeqr = some sq → Does (.fork x) e s (fun b t => returns e sq b t
       ∧ t.core = { b.core with seqrs := b.core.seqrs.set sq { gid := b.grp.gid, tid := b.thr.key.tid, list := list, idx := 0, stopped := false, status := 0 } }))
   ∧ (b.core.forkQ ≠ [] ∨ b.core.freeSeqr = none → Does (.fork x) e s (fun b t => Waits (.fork list e.d) b.thr.pc s t ∧ t.mem = b.mem
       ∧ t.core = { b.core with forkQ := b.core.forkQ ++ [b.thr.key] })))
  ∧ (let e := x.encL 0xB3
     let b := atBody e s
     let sq := b.opA e 1
     let q := b.core.seqrs.getD sq Sequencer.free
     sq < 4 → q.gid = b.grp.gid → (∀ c ∈ b.allCores, ∀ j ∈ c.jobs, j.gid = b.grp.gid → (j.seqr.map Prod.fst) = some sq → j.freed = true) →
     (q.stopped = true → b.seqrBusy b.grp.gid sq = false → Does (.rdv x) e s (fun b t => returns e q.status.toNat b t
       ∧ t.core = { b.core with seqrs := b.core.seqrs.set sq Sequencer.free }))
     ∧ (q.stopped = false ∨ b.seqrBusy b.grp.gid sq = true → Issues e s → s.thr.guard e.g e.n = true → Quiet s → ∃ t, exec (.rdv x) s = .next t
       ∧ t.thr.status = .waiting (.rdv sq) ∧ t.thr.pc = s.thr.pc ∧ t.core = s.core ∧ t.mem = s.mem ∧ SameRegs s t))
  ∧ (let e := x.encL 0xB4
     let i := field x.m.toNat 3 0
     let b := atBody e s
     (x.m.getLsbD 4 = true → Does (.gres x) e s (fun b t => Continues b t ∧ t.mem = b.mem ∧ t.core = b.core
       ∧ ∀ k < 16, t.grp.slot k = if k = i then .unresolved else b.grp.slot k))
     ∧ (x.m.getLsbD 4 = false → (b.grp.slot i = .yes ∨ b.grp.slot i = .no ∨ b.gresAhead i = true) → Does (.gres x) e s (fun b t => Continues b t ∧ t.mem = b.mem ∧ t.core = b.core ∧ t.grp = b.grp))
     ∧ (x.m.getLsbD 4 = false → b.grp.slot i = .unresolved → b.gresAhead i = false → Does (.gres x) e s (fun b t => Continues b t ∧ t.mem = b.mem
       ∧ (∀ k < 16, t.grp.slot k = if k = i then (if b.thr.getQ x.c.toNat then .yes else .no) else b.grp.slot k)
       ∧ (let mine := fun (j : Job) => decide (j.gid = b.grp.gid ∧ j.guard = some i ∧ j.freed = false)
          t.core.jobs = if b.thr.getQ x.c.toNat then b.core.jobs.map (fun j => if mine j then { j with freed := true } else j)
            else b.core.jobs.filter (fun j => !mine j))))))

/-- R183, R184, R187, R188, R202 to R204, R249, R293: a copy, a gather, a content copy or a transfer that passes its checks enters the core's queue as its blocks of uniform
registers say; one on a false guard slot is discarded at once and one on an unresolved slot waits for it. `xfer` is a published write and `ccopy` holds a reference on its root. -/
def Obligations.CopiesQueue : Prop := ∀ (x : LX) (s : State),
  let queued := fun (j : Job) (b t : State) => Continues b t ∧ t.thr.pend = shrunk b ∧ t.mem = b.mem
    ∧ t.core = { b.core with jobs := b.core.jobs ++ (match j.guard.map b.grp.slot with
        | none => [j] | some .yes => [j] | some .no => [] | some _ => [{ j with freed := false }]) }
  let roomy := fun (b : State) => b.core.full = false ∧ b.released 2 = true
  (let e := x.enc 0xB0
   let b := atBody e s
   ∀ ws, b.block e.c 10 = some ws →
   let p := b.planCopy x.m.toNat (b.opA e 2) (b.opD e 2) ws x.lit
   p.1 = [] → roomy b → Does (.xcopy x) e s (queued p.2))
  ∧ (let e := x.encL 0xB1
     let b := atBody e s
     ∀ w0 w1 w2 w3, b.block e.c 4 = some [w0, w1, w2, w3] →
     let list := field w0.toNat 19 0
     let n := field w1.toNat 7 0 + 1
     let rb := field w1.toNat 20 8
     let dst := b.opD e 1
     let table := b.opA e 2
     list % 4 = 0 → list + 4 * n ≤ s.grp.scratchSize → dst + n * rb ≤ s.grp.scratchSize → rb % 4 = 0 → 4 ≤ rb → rb ≤ 4096 → field w1.toNat 31 21 = 0 → field w0.toNat 31 20 = 0 →
     field w3.toNat 31 26 = 0 → (∀ o, ctlCount w3 = some o → o % 16 = 0 ∧ o + 16 ≤ s.grp.scratchSize) → roomy b →
     Does (.xgath x) e s (fun b t => queued { b.newJob (.gather table w2.toNat rb n list dst) with
       reads := [⟨1, list, 4 * n⟩, ⟨0, table, 2 ^ 56 - table⟩], writes := [⟨1, dst, n * rb⟩], guard := ctlGuard w3, count := ctlCount w3, bytes := n * rb } b t))
  ∧ (let e := x.encL 0xC5
     let b := atBody e s
     let root := BitVec.ofNat 64 (b.opA e 2)
     let dst := b.opD e 2
     let limit := b.opB e 1
     ∀ w, b.block e.c 1 = some [w] → dst % 128 = 0 → limit ≠ 0 → field w.toNat 31 26 = 0 → (∀ o, ctlCount w = some o → o % 16 = 0 ∧ o + 16 ≤ s.grp.scratchSize) →
     (b.part.line root).isSome = true → roomy b → (∀ j ∈ b.core.jobs, j.id < b.nextId) →
     Does (.ccopy x) e s (fun b t =>
       queued { b.newJob (.ccopy root limit dst) with writes := [⟨0, dst, min limit (b.part.treeBytes 9 root).length⟩], guard := ctlGuard w, count := ctlCount w,
                                                       bytes := min limit (b.part.treeBytes 9 root).length } b t
       ∧ t.part = (if (ctlGuard w).map b.grp.slot = some .no then b.part else b.part.incr root)))
  ∧ (let e := x.encL 0xB8
     let b := atBody e s
     ∀ ws, b.block e.c 8 = some ws → x.c.toNat % 2 = 0 →
     let w := fun i => (ws.getD i 0).toNat
     let sp := x.m.getLsbD 0
     let src := if sp then field (w 0) 19 0 else w 0 + 2 ^ 32 * w 1
     let dst := w 2 + 2 ^ 32 * w 3
     let arrival := w 6 + 2 ^ 32 * w 7
     (sp = true → src + w 4 ≤ s.grp.scratchSize ∧ w 1 = 0 ∧ field (w 0) 31 20 = 0) → w 4 ≠ 0 → w 4 ≤ 2 ^ 30 → arrival % 16 = 0 → field (w 5) 31 26 = 0 →
     (∀ o, ctlCount (ws.getD 5 0) = some o → o % 16 = 0 ∧ o + 16 ≤ s.grp.scratchSize) → roomy b → FirstRun b →
     Does (.xfer x) e s (fun b t => queued { b.newJob (.xfer sp src dst (w 4) arrival) with
         reads := [⟨if sp then 1 else 0, src, w 4⟩], writes := [⟨0, dst, w 4⟩], guard := ctlGuard (ws.getD 5 0), count := ctlCount (ws.getD 5 0), bytes := w 4 } b t
       ∧ t.grp.log = b.grp.log ++ [⟨b.thr.key.tid, pubOp e, dst, ws, [1], 0⟩]))

/-! ## Content store (chapter 17) -/

/-- R237 to R242, R245 to R248: `cloa` names the 128 bytes at its address, raising the count of the line that holds them already or writing a new line of count one; `cld` reads a line's
bytes by its name and never waits; `cref` and `cunref` return the new count; `cswap` compares and exchanges a cell and moves the two references with it, and sends its operation to a cell of another device (R291). Memory changes by the new
line and by the exchanged cell alone. -/
def Obligations.ContentLines : Prop := ∀ (x : LX) (s : State),
  (let e := x.encL 0xC0
   let b := atBody e s
   let sp := x.m.getLsbD 5
   let addr := if sp then b.opA e 1 else b.opA e 2
   let r := field x.m.toNat 3 0
   let interior := x.m.getLsbD 4
   ∀ bs s1, b.readLine sp addr true = .ok (bs, s1) → FirstRun s1 → s1.part.regionOn r = true → (interior = true → s1.part.interiorOk bs = true) →
   let h := lh64 s1.part.ka s1.part.kb bs (if interior then 129 else 128)
   (∀ l, (s1.part.chain r (BitVec.ofNat 56 h)).find? (fun l => !l.freed && l.interior = interior && l.bytes = bs) = some l →
     Does (.cloa x) e s (fun b t => Continues b t ∧ t.mem = s1.mem ∧ t.part = s1.part.incr l.name
       ∧ Logged e addr [] (words 2 l.name.toNat) s1 t
       ∧ t.thr.pend = shrunk b ++ [{ loadPending e 2 l.name.toNat false 0 false s1 with serial := t.nextId - 1 }]))
   ∧ ((s1.part.chain r (BitVec.ofNat 56 h)).find? (fun l => !l.freed && l.interior = interior && l.bytes = bs) = none → ∀ i slot k, i < 16 →
     (∀ l ∈ s1.part.chain r (BitVec.ofNat 56 h), l.coll ≠ i) → ¬(i = 0 ∧ r = 0 ∧ BitVec.ofNat 56 h = 0) →
     (∀ j < i, (∃ l ∈ s1.part.chain r (BitVec.ofNat 56 h), l.coll = j) ∨ (j = 0 ∧ r = 0 ∧ BitVec.ofNat 56 h = 0)) →
     s1.part.freeSlot r (s1.choose (s1.part.region r).lines.toNat).1 = some slot → s1.slotKey (s1.part.slotVa r slot) = some k → bs.length = 128 →
     Does (.cloa x) e s (fun b t => Continues b t ∧ Written k bs s1.mem t.mem
       ∧ t.thr.pend = shrunk b ++ [{ loadPending e 2 (r * 2 ^ 60 + i * 2 ^ 56 + h % 2 ^ 56) false 0 false s1 with serial := t.nextId - 1 }]
       ∧ ∃ l ∈ t.part.lines, l.region = r ∧ l.coll = i ∧ l.hash = BitVec.ofNat 56 h ∧ l.slot = slot ∧ l.interior = interior ∧ l.bytes = bs ∧ l.freed = false)))
  ∧ (let e := x.enc 0xC1
     let b := atBody e s
     let off := (x.lit.map BitVec.toNat).getD (b.opB e 1)
     let root := BitVec.ofNat 64 (b.opA e 2)
     ∀ l o, off % memSize e = 0 → b.part.walkTree 9 root off = .ok (l, o) → b.lineUntagged l = none → b.poisoned (l.key + o) (memSize e) = false →
     Does (.cld x) e s (fun b t => Leaves (loadPending e (memN e) (natAt l.bytes o (memSize e)) false 0 false b) b t))
  ∧ (let e := x.encL 0xC2
     let b := atBody e s
     let n := BitVec.ofNat 64 (b.opA e 2)
     FirstRun b → (n = 0 → Does (.cref x) e s (fun b t => Replied e [0] s b t ∧ t.mem = b.mem ∧ t.part.lines = b.part.lines))
     ∧ (∀ l, b.part.line n = some l → Does (.cref x) e s (fun b t =>
         Replied e [BitVec.ofNat 32 (min (l.count + 1) 0xFFFFFFFF)] s b t ∧ t.mem = b.mem ∧ t.part = b.part.incr n ∧ Logged e n.toNat [] [BitVec.ofNat 32 (min (l.count + 1) 0xFFFFFFFF)] b t)))
  ∧ (let e := x.encL 0xC3
     let b := atBody e s
     let n := BitVec.ofNat 64 (b.opA e 2)
     ∀ l, FirstRun b → b.part.line n = some l → (∀ k ∈ b.part.lines, k.freed = false → k.name = n → k = l) →
     let v := BitVec.ofNat 32 (if l.count = 0xFFFFFFFF then l.count else l.count - 1)
     Does (.cunref x) e s (fun b t => Replied e [v] s b t ∧ t.mem = b.mem ∧ t.part = b.part.decr n ∧ Logged e n.toNat [] [v] b t
       ∧ (l.count = 1 → t.part.line n = none)))
  ∧ (let e := x.encL 0xC4
     let b := atBody e s
     let va := b.opA e 2
     let exp := BitVec.ofNat 64 (b.opB e 2)
     let new := BitVec.ofNat 64 (b.opC e 2)
     ∀ l s1, b.global { va := va, size := 8, write := true, classes := [0, 2], prot13 := false } = .ok (l, s1) → FirstRun s1 → b.grp.staged = [] →
     (2 ≤ field x.m.toNat 1 0 → s1.released (field x.m.toNat 4 2) = true) → (field x.m.toNat 1 0 = 3 → s1.acked = true) →
     (l.cls = 0 → (new = 0 ∨ (s1.part.line new).isSome = true) →
       let old := Mem.nat s1.mem l.key 8
       Does (.cswap x) e s (fun b t => Replied e (words 2 old) s b t
         ∧ (if BitVec.ofNat 64 old = exp then Written l.key (toBytes 8 new.toNat) s1.mem t.mem ∧ t.part = (s1.part.incr new).decr exp else t.mem = s1.mem ∧ t.part = s1.part)))
     ∧ (l.cls = 2 → b.thr.region = none → s1.refusal l va = none →
       Does (.cswap x) e s (fun b t => Waits (.remote b.nextId) b.thr.pc s t ∧ t.mem = s1.mem ∧ t.part = s1.part
         ∧ ∃ a, t.inflight = b.inflight ++ [a] ∧ a.serial = b.nextId ∧ a.t = b.thr.key ∧ a.kind = .sync (.swap exp new) ∧ a.dst = devOf l.key ∧ a.key = l.key ∧ a.remote = true)))

/-- R240, R250 to R255: `lhash` leaves pending the line hash of up to 16 register bytes, or of a line it reads; `hblk` answers the chain hash of a block of tokens; `pflook` answers the longest stored
prefix and makes its entry the youngest; `pfins` inserts, finds or evicts; `pfpin` and `pfunpin` move an entry's pin count between 0 and 65535. -/
def Obligations.HashesAndPrefixes : Prop := ∀ (x : LX) (s : State),
  let t := field x.m.toNat 3 0
  let publishes := fun (i : Instr) (e : Enc) (addr : Nat) (operand ret : List Word) (p : Part) => let b := atBody e s
    FirstRun b → (b.part.table t).enabled = true → Does i e s (fun b t => Replied e ret s b t ∧ Logged e addr operand ret b t ∧ t.mem = b.mem ∧ t.part = p)
  (let e := x.encL 0xC6
   let b := atBody e s
   let n := field x.m.toNat 4 0
   (field x.m.toNat 7 6 = 0 → Does (.lhash x) e s (fun b t =>
     Leaves (loadPending e 2 (lh64 b.part.ka b.part.kb ((toBytes 16 (b.opA e 4)).take n) n) false 0 false b) b t))
   ∧ (∀ bs s1, field x.m.toNat 7 6 ≠ 0 →
       b.readLine (field x.m.toNat 7 6 = 1) (if field x.m.toNat 7 6 = 1 then b.opA e 1 else b.opA e 2) false = .ok (bs, s1) →
       Does (.lhash x) e s (fun b t => Continues b t ∧ t.mem = s1.mem
         ∧ t.thr.pend = shrunk b ++ [loadPending e 2 (lh64 s1.part.ka s1.part.kb bs 128) false 0 false s1])))
  ∧ (let e := x.encL 0xC7
     let b := atBody e s
     let n := 16 * 2 ^ field x.m.toNat 1 0
     let glob := x.m.getLsbD 2
     ∀ bs s1, b.readTokens glob (if glob then b.opB e 2 else b.opB e 1) n = .ok (bs, s1) →
     Does (.hblk x) e s (fun b t => Replied e (words 2 (chainHash s1.part.ka s1.part.kb bs (b.opA e 2) (n / 16))) s b t ∧ t.mem = s1.mem))
  ∧ (let e := x.encL 0xC8
     let b := atBody e s
     let n := b.opB e 1
     let off := b.opA e 1
     let hash := fun i => BitVec.ofNat 64 (Mem.nat b.grp.scratch (off + 8 * i) 8)
     1 ≤ n → n ≤ 256 → off % 8 = 0 → off + 8 * n ≤ s.grp.scratchSize →
     (∀ i q, 1 ≤ i → i ≤ n → (b.part.table t).entries.find? (fun r => r.hash = hash (i - 1) && r.length = i) = some q →
       (∀ j, i < j → j ≤ n → ∀ r ∈ (b.part.table t).entries, ¬(r.hash = hash (j - 1) ∧ r.length = j)) →
       publishes (.pflook x) e off [BitVec.ofNat 32 n] (words 2 q.root.toNat ++ [BitVec.ofNat 32 i, BitVec.ofNat 32 q.idx]) (b.part.setTable t ((b.part.table t).touch q.idx)))
     ∧ ((∀ j, 1 ≤ j → j ≤ n → ∀ r ∈ (b.part.table t).entries, ¬(r.hash = hash (j - 1) ∧ r.length = j)) →
       publishes (.pflook x) e off [BitVec.ofNat 32 n] [0, 0, 0, 0xFFFFFFFF] b.part))
  ∧ (let e := x.encL 0xC9
     let b := atBody e s
     let q := b.opA e 4
     let len := b.opB e 1
     ∀ st p, 1 ≤ len → len ≤ 65535 → b.part.pfins t (BitVec.ofNat 64 q) (BitVec.ofNat 64 (q / 2 ^ 64)) len = some (st, p) →
       publishes (.pfins x) e t (words 4 q ++ words 1 len) [st] p)
  ∧ (let pins := fun (i : Instr) (e : Enc) (stop : Nat) (full : Nat) (next : Nat → Nat) (touches : Bool) => let b := atBody e s
     let hash := BitVec.ofNat 64 (b.opA e 2)
     let k := b.opB e 1
     let y := b.part.table t
     k ≤ 63 →
     ((∀ r ∈ y.entries, ¬(r.idx = k ∧ r.hash = hash)) → publishes i e t (words 2 hash.toNat ++ words 1 k) [1] (b.part.setTable t y))
     ∧ (∀ r, y.entries.find? (fun r => r.idx = k && r.hash = hash) = some r →
       (r.pins = stop → publishes i e t (words 2 hash.toNat ++ words 1 k) [BitVec.ofNat 32 full] (b.part.setTable t y))
       ∧ (r.pins ≠ stop →
          let z : PrefixTable := { y with entries := y.entries.map (fun q => if q.idx = k then { q with pins := next r.pins } else q) }
          publishes i e t (words 2 hash.toNat ++ words 1 k) [0] (b.part.setTable t (if touches then z.touch k else z))))
     pins (.pfpin x) (x.encL 0xCA) 65535 3 (· + 1) true ∧ pins (.pfunpin x) (x.encL 0xCB) 0 2 (· - 1) false)

/-! ## Sequences, views and the KV cache (chapter 19) -/

/-- R264 to R267, R277 to R280: `stepbeg` binds its group to a view of the sequence and, as the first of its launch, opens the launch's step and appends its tokens; `stepend` notes that the part ends with the phase and
answers whether the bound view has failed; `gview` reports on the bound view, else on the current one; `gsetw` forms a view of another width, or destroys an idle context. -/
def Obligations.StepsAndViews : Prop := ∀ (x : LX) (s : State),
  let answers := fun (i : Instr) (e : Enc) (operand : List Word) (v : Word) (more : State → State → Prop) => let b := atBody e s
    FirstRun b → Does i e s (fun b t => Replied e [v] s b t ∧ Logged e (b.opA e 1) operand [v] b t ∧ more b t)
  let same := fun (b t : State) => t.mem = b.mem ∧ t.dev = b.dev ∧ t.devs = b.devs
  (let e := x.enc 0xD0
   let b := atBody e s
   let sid := BitVec.ofNat 32 (b.opA e 1)
   let n := b.opB e 1
   let begins := answers (.stepbeg x) e (words 1 n)
   b.opA e 1 < 2 ^ 32 → (b.grp.seq = 0xFFFFFFFF ∨ b.grp.seq = sid) →
   (b.seqCtx b.part.pid sid = none → begins 0xFFFFFFFE same)
   ∧ (∀ q, b.seqCtx b.part.pid sid = some q → q.step? b.lau.lid = none →
      (b.viewForStep q = none → FirstRun b → Does (.stepbeg x) e s (fun _ t => t.thr.status = .waiting (.view sid) ∧ t.thr.pc = s.thr.pc ∧ SameRegs s t ∧ t.mem = s.mem))
      ∧ (∀ v run, b.viewForStep q = some (v, run) →
          (v.state = .failed → begins 0xFFFFFFFF same)
          ∧ (v.state ≠ .failed → q.canAppend n = false → begins 0xFFFFFFFD same)
          ∧ (v.state ≠ .failed → q.canAppend n = true → v.num.toNat < 0xFFFFFFFD → begins v.num (fun b t => t.mem = b.mem
              ∧ t.grp.seq = sid ∧ t.grp.view = v.num ∧ t.core.lcache = b.core.invalidate.lcache
              ∧ t.seqCtx b.part.pid sid = some { q with lent := q.lent + n, steps := q.steps ++ [⟨b.lau.lid, v.num, true, [], false, run⟩] })))))
  ∧ (let e := x.encL 0xD1
     let b := atBody e s
     let sid := BitVec.ofNat 32 (b.opA e 1)
     sid ≠ 0xFFFFFFFF → b.grp.seq = sid →
     Does (.stepend x) e s (fun b t => Replied e [if b.boundFailed sid then 1 else 0] s b t ∧ t.grp = { b.grp with stepEnded := true } ∧ t.mem = b.mem))
  ∧ (let e := x.enc 0xD2
     let b := atBody e s
     let sid := BitVec.ofNat 32 (b.opA e 1)
     let tells := fun (vs : List Word) => Does (.gview x) e s (fun b t => Replied e vs s b t ∧ t.mem = b.mem ∧ t.grp = b.grp ∧ t.dev = b.dev)
     (b.seqCtx b.part.pid sid = none → tells (List.replicate (if x.m.getLsbD 0 then 1 else 4) 0)) ∧ ∀ q v, b.seqCtx b.part.pid sid = some q → b.reportView q = some v →
     (x.m.getLsbD 0 = true → tells [BitVec.ofNat 32 (v.members.getD (b.opB e 1) 0xFFFFFFFF)])
     ∧ (x.m.getLsbD 0 = false → v.members.length ≤ 16 → (∀ w, q.next = some w → w.members.length < 2 ^ 32) →
         tells [v.num, BitVec.ofNat 32 (v.members.length + viewCode v.state * 2 ^ 8 + v.index b.grp.dev % 256 * 2 ^ 16),
               (q.next.map View.num).getD 0, BitVec.ofNat 32 ((q.next.map (fun w => w.members.length)).getD 0)]))
  ∧ (let e := x.enc 0xD3
     let b := atBody e s
     let sid := BitVec.ofNat 32 (b.opA e 1)
     let w := b.opB e 1
     let sets := answers (.gsetw x) e (words 1 w)
     b.opA e 1 < 2 ^ 32 →
     (b.seqCtx b.part.pid sid = none → sets 3 same)
     ∧ (∀ q, b.seqCtx b.part.pid sid = some q →
        let ms := (q.cur.map View.members).getD []
        let new := widthMembers ms (b.part? (field sid.toNat 25 16) q.pid).fabricList w
        (w = 0 → (q.steps ≠ [] ∨ q.succ ≠ 0) → sets 5 same)
        ∧ (w = 0 → q.steps = [] → q.succ = 0 → sets 0 (fun b t => t.seqCtx b.part.pid sid = none ∧ ∀ a, tailSeq a ≠ some sid.toNat → Mem.get t.mem a = Mem.get b.mem a))
        ∧ (w ≠ 0 → q.succ ≠ 0 → sets 2 same)
        ∧ (w ≠ 0 → q.succ = 0 → ms.length = w → sets 1 same)
        ∧ (w ≠ 0 → q.succ = 0 → ms.length ≠ w → ((b.seqCls q).maxWidth < w ∨ new.length < w) → sets 4 same)
        ∧ (w ≠ 0 → q.succ = 0 → ms.length ≠ w → w ≤ (b.seqCls q).maxWidth → w ≤ new.length → 
            sets 0 (fun b t => t.mem = b.mem ∧ t.seqCtx b.part.pid sid = some (q.form new false [] b.now)))))

/-- R272 to R275, R281 to R283: `kvld` reads a full block through its tree and a tail block from its owner's tail memory; `kvst` stages its bytes in tail memory; a failed check takes KVHANDLE with the lowest reason; `kvcommit`
adds token ids to the pending commits of the step, and `kvreject` gives back the appended tokens that are not pending. -/
def Obligations.KvAccessAndCommit : Prop := ∀ (x : LX) (s : State),
  let shape := fun (e : Enc) => let b := atBody e s
    (b.opA e 2, b.opB e 1, b.opC e 1)
  let refused := fun (i : Instr) (e : Enc) (write : Bool) => let b := atBody e s
    let (h, tok, off) := shape e
    ∀ r, off % memSize e = 0 → b.kvCheck h tok off (memSize e) write = .error r → Ready e s → Quiet s → CanTrap s →
      (∃ t, exec i s = .next t ∧ Trapped causeKvhandle (BitVec.ofNat 32 (r * 2 ^ 28 + tok % 2 ^ 24)) 0 (toWords e) s t)
      ∧ (r = 0 ↔ handleTenant h ≠ b.part.pid)
      ∧ (r = 1 → (b.dev.handle (handleIndex h)).valid = false ∨ handleIndex h = 0 ∨ (b.dev.handle (handleIndex h)).gen ≠ handleGen h) ∧ (r = 2 → handleBound h ≤ tok)
  (let e := x.encL 0xD4
   let b := atBody e s
   let (h, tok, off) := shape e
   ∀ p, off % memSize e = 0 → b.kvCheck h tok off (memSize e) false = .ok p →
   (p.blk < p.q.lenc / p.c.block → ∀ en l o, p.v.entry? p.blk = some en → b.part.walkTree 9 en.root p.byte = .ok (l, o) →
     b.lineUntagged l = none → b.poisoned (l.key + o) (memSize e) = false →
     Does (.kvld x) e s (fun b t => Leaves (loadPending e (memN e) (natAt l.bytes o (memSize e)) false 0 false b) b t))
   ∧ (p.q.lenc / p.c.block ≤ p.blk → ∀ k s1, k = tailKey b.grp.dev p.q.id p.blk p.byte → b.race k p.byte false = .ok s1 → b.poisoned k (memSize e) = false → Uncached ⟨0, 0, k⟩ b →
     Does (.kvld x) e s (fun b t => Continues b t ∧ t.mem = b.mem ∧ t.thr.pend = shrunk b ++ [loadPending e (memN e) (numberSeen b k (memSize e)) false 0 false b])))
  ∧ refused (.kvld x) (x.encL 0xD4) false ∧ refused (.kvst x) (x.encL 0xD5) true
  ∧ (let e := x.encL 0xD5
     let b := atBody e s
     let (h, tok, off) := shape e
     ∀ p, off % memSize e = 0 → b.kvCheck h tok off (memSize e) true = .ok p → ∀ k s1, k = tailKey b.grp.dev p.q.id p.blk p.byte → b.poisoned k (memSize e) = false → b.race k p.byte true = .ok s1 →
     b.grp.early = false → b.grp.stagedVa.length < 16384 →
     Does (.kvst x) e s (fun b t => Continues b t ∧ t.thr.pend = shrunk b ∧ t.mem = b.mem ∧ Stored k (toBytes (memSize e) (b.opD e (memN e))) b t
       ∧ t.thr.unacked = b.thr.unacked ++ [⟨b.nextId, b.grp.dev, 0⟩]))
  ∧ (let e := x.encL 0xD6
     let b := atBody e s
     let sid := BitVec.ofNat 32 (b.opA e 1)
     let n := b.opB e 1
     let glob := x.m.getLsbD 0
     ∀ bs s1, 1 ≤ n → n ≤ 64 → b.readTokens glob (if glob then b.opC e 2 else b.opC e 1) n = .ok (bs, s1) → FirstRun s1 →
     let ids := wordsOf bs
     let tells := fun (v : Word) (q : Option SeqCtx) => Does (.kvcommit x) e s (fun b t => Replied e [v] s b t ∧ Logged e sid.toNat ids [v] s1 t ∧ t.mem = s1.mem
       ∧ (s1.grp.seq = sid → t.seqCtx s1.part.pid sid = q))
     (s1.grp.seq ≠ sid ∨ s1.seqCtx s1.part.pid sid = none → tells 1 (s1.seqCtx s1.part.pid sid))
     ∧ (∀ q, s1.grp.seq = sid → s1.seqCtx s1.part.pid sid = some q → (q.step? s1.lau.lid = none → tells 1 (some q)) ∧ ∀ st, q.step? s1.lau.lid = some st →
        (s1.boundFailed sid = true → tells 3 (some q))
        ∧ (s1.boundFailed sid = false → q.lent - q.lenc < st.commits.length + ids.length → tells 2 (some q))
        ∧ (s1.boundFailed sid = false → st.commits.length + ids.length ≤ q.lent - q.lenc →
            tells 0 (some { q with steps := q.steps.map (fun t => if t.lid = s1.lau.lid then { t with commits := t.commits ++ ids } else t) }))))
  ∧ (let e := x.encL 0xD7
     let b := atBody e s
     let sid := BitVec.ofNat 32 (b.opA e 1)
     let tells := fun (v : Word) (q : Option SeqCtx) => FirstRun b → Does (.kvreject x) e s (fun b t => Replied e [v] s b t ∧ Logged e sid.toNat [] [v] b t ∧ t.mem = b.mem
       ∧ t.seqCtx b.part.pid sid = q)
     (b.grp.seq ≠ sid ∨ b.seqCtx b.part.pid sid = none → tells 1 (b.seqCtx b.part.pid sid))
     ∧ (∀ q, b.grp.seq = sid → b.seqCtx b.part.pid sid = some q →
        (q.step? b.lau.lid = none → tells 1 (some q)) ∧ ((q.step? b.lau.lid).isSome = true → tells 0 (some { q with lent := q.lenc + q.pending }))))

/-- R261, R262, R284, R285, Table 19.7: `kvfork` makes a context in the lowest free index, of a source's committed tokens or of a prefix tree, with view 1 Current, and answers 0xFFFFFFFF where none can be made; the reports of `kvinfo` are
pending results that change nothing; minting fills the lowest handle entry that is not valid and revoking raises its generation. -/
def Obligations.KvForkAndInfo : Prop := ∀ (x : LX) (s : State),
  (let e := x.encL 0xD8
   let b := atBody e s
   let src := BitVec.ofNat 32 (b.opA e 1)
   let prefix_ := x.m.getLsbD 0
   let cls := field x.m.toNat 7 4
   let operand := if prefix_ then words 4 (b.opA e 4) ++ words 1 (b.opB e 1) else []
   let addr := if prefix_ then 0 else b.opA e 1
   FirstRun b →
   ((if prefix_ then b.part.classUsable cls = false else b.seqCtx b.part.pid src = none) ∨ b.dev.freeSeq = none →
     Does (.kvfork x) e s (fun b t => Replied e [0xFFFFFFFF] s b t ∧ Logged e addr operand [0xFFFFFFFF] b t ∧ t.mem = b.mem ∧ t.dev = b.dev ∧ t.part = b.part))
   ∧ (∀ id, prefix_ = true → b.part.classUsable cls = true → b.dev.freeSeq = some id → b.opA e 4 = 0 → b.opB e 1 = 0 →
     Does (.kvfork x) e s (fun b t => Replied e [id] s b t ∧ t.mem = b.mem ∧ t.part = b.part
       ∧ t.dev.seqs = b.dev.seqs ++ [SeqCtx.new id b.part.pid cls ((b.part.seqClass cls).tw.toNat % 2 ^ 24) ((b.part.seqClass cls).tn.toNat % 2 ^ 24) 0 0 [] [b.dev.num] [[]]]))
   ∧ (∀ q v id, prefix_ = false → b.seqCtx b.part.pid src = some q → q.cur = some v → q.succ = 0 → b.dev.freeSeq = some id → field src.toNat 25 16 = b.dev.num →
     Does (.kvfork x) e s (fun b t => Replied e [id] s b t ∧ ∃ n ∈ t.dev.seqs, n.id = id ∧ n.pid = q.pid ∧ n.cls = q.cls ∧ n.lenc = q.lenc ∧ n.lent = q.lenc ∧ n.tw = q.tw ∧ n.tn = q.tn
       ∧ n.tokens = q.tokens ∧ n.tailIds = q.tailIds ∧ n.view = 1 ∧ n.succ = 0 ∧ n.steps = [] ∧ ∃ w, n.views = [w] ∧ w.members = v.members ∧ w.state = .current ∧ w.num = 1)))
  ∧ (let e := fun (c : BitVec 8) => ({ x with c := c } : LX).encL 0xD9
     let left := fun (i : Instr) (c : BitVec 8) (n v : Nat) => Does i (e c) s (fun b t => Leaves (loadPending (e c) n v false 0 false b) b t)
     let ctx := fun (c : BitVec 8) => (atBody (e c) s).seqCtx s.part.pid (BitVec.ofNat 32 ((atBody (e c) s).opA (e c) 1))
     let arg := fun (c : BitVec 8) => (atBody (e c) s).opB (e c) 1
     left (.kvinfoLen x) 0 2 (((ctx 0).map (fun q => q.lenc + q.lent * 2 ^ 32)).getD 0)
     ∧ left (.kvinfoThr x) 4 2 (((ctx 4).map (fun q => q.tw + q.tn * 2 ^ 32)).getD 0)
     ∧ (∀ q v en, ctx 1 = some q → arg 1 < q.lenc / (s.seqCls q).block → (atBody (e 1) s).reportView q = some v → v.entry? (arg 1) = some en →
         left (.kvinfoBlk x) 1 4 (en.root.toNat + arg 1 % v.members.length * 2 ^ 64))
     ∧ (∀ q v en, ctx 2 = some q → arg 2 < q.lenc / (s.seqCls q).block → (atBody (e 2) s).reportView q = some v → v.entry? (arg 2) = some en →
         left (.kvinfoHash x) 2 2 en.hash.toNat)
     ∧ (∀ q, ctx 3 = some q → arg 3 < q.lenc → left (.kvinfoTok x) 3 1 (natAt ((atBody (e 3) s).seqIds q) (4 * arg 3) 4))
     ∧ (ctx 1 = none → left (.kvinfoBlk x) 1 4 0) ∧ (ctx 2 = none → left (.kvinfoHash x) 2 2 0) ∧ (ctx 3 = none → left (.kvinfoTok x) 3 1 0) ∧ (ctx 5 = none → left (.kvinfoMint x) 5 2 0)
     ∧ (∀ q i, ctx 5 = some q → FirstRun (atBody (e 5) s) →
         let r := (atBody (e 5) s).opB (e 5) 4
         let off := field r 63 32
         let len := field r 95 64
         off % 16 = 0 → len % 16 = 0 → 16 ≤ len → off + len ≤ (s.seqCls q).bytes → field r 31 0 < 2 ^ 24 →
         1 ≤ i → i < 2 ^ 20 → (s.dev.handle i).valid = false → (∀ j, 1 ≤ j → j < i → (s.dev.handle j).valid = true) →
         Does (.kvinfoMint x) (e 5) s (fun b t => Continues b t ∧ t.mem = b.mem
           ∧ t.dev.handle i = { seq := q.id, off := off, len := len, gen := (s.dev.handle i).gen, write := bit r 98, read := bit r 97, valid := true }
           ∧ (∀ j, j ≠ i → t.dev.handle j = b.dev.handle j)
           ∧ t.thr.pend = shrunk b ++ [loadPending (e 5) 2 (s.part.pid * 2 ^ 56 + (s.dev.handle i).gen * 2 ^ 44 + i * 2 ^ 24 + field r 31 0) false 0 false b]))
     ∧ (let h := (atBody (e 6) s).opA (e 6) 2
        let i := handleIndex h
        let en := s.dev.handle i
        FirstRun (atBody (e 6) s) →
        (handleTenant h = s.part.pid → i ≠ 0 → en.valid = true → en.gen = handleGen h → Does (.kvinfoRevoke x) (e 6) s (fun b t => Continues b t ∧ t.mem = b.mem
          ∧ t.dev.handle i = { en with valid := false, gen := (en.gen + 1) % 4096 } ∧ (∀ j, j ≠ i → t.dev.handle j = b.dev.handle j)
          ∧ t.thr.pend = shrunk b ++ [loadPending (e 6) 1 0 false 0 false b]))
        ∧ ((handleTenant h ≠ s.part.pid ∨ i = 0 ∨ en.valid = false ∨ en.gen ≠ handleGen h) → Does (.kvinfoRevoke x) (e 6) s (fun b t => Continues b t ∧ t.dev = b.dev ∧ t.mem = b.mem
          ∧ t.thr.pend = shrunk b ++ [loadPending (e 6) 1 1 false 0 false b]))))

/-! ## Special and uniform registers, launches, page tables, censuses and regions (chapters 01, 16, 20, 21) -/

/-- R14 to R17, R319, R335: `rdsr` copies a special register to d; reads of sr.clk and sr.gtime enter the published-write log; `wrsr` writes MEET, FPFLAGS, SLIFLAGS, the condition codes or the partition's numeric version and nothing
else; a value it may not write takes ILLEGAL; `kset` writes a uniform register that its writer reads back at once, while the group's other threads may still read the old value; a thread of higher sr.tid that has written it in the same cycle prevails. -/
def Obligations.SpecialRegisters : Prop := ∀ (x : LX) (s : State),
  let wide := fun (n v : Nat) (b t : State) => t.thr.status = .ready ∧ t.thr.pc = b.thr.pc ∧ t.thr.pend = shrunk b ∧ t.mem = b.mem ∧ SameFlags b t
    ∧ Wrote x.d (words n v) b t
  let write := fun (m : BitVec 8) (v : Nat) (target : State → State) =>
    x.m = m → (atBody (x.enc 0xE1) s).opB (x.enc 0xE1) (if m = 17 then 2 else 1) = v →
    Does (.wrsr x) (x.enc 0xE1) s (fun b t => t.thr.pend = shrunk b ∧ OnlyThread (target b) t ∧ SameRegs b t ∧ SameFlags (target b) t)
  (x.m ≠ 24 → x.m ≠ 26 → Does (.rdsr x) (x.encL 0xE0) s (fun b t => wide (if srPair x.m then 2 else 1) (b.special x.m.toNat) b t ∧ t.grp = b.grp))
  ∧ ((x.m = 24 ∨ x.m = 26) → FirstRun s → Does (.rdsr x) (x.encL 0xE0) s (fun b t => wide 2 (if x.m = 24 then s.dev.clk else (s.gtime s.dev.num).toNat) b t
      ∧ Logged (x.encL 0xE0) x.m.toNat [] (words 2 (if x.m = 24 then s.dev.clk else (s.gtime s.dev.num).toNat)) b t))
  ∧ (∀ v, (v < 2 ^ 48 → write 17 v (fun b => { b with thr := { b.thr with meet := BitVec.ofNat 48 v } }))
      ∧ write 18 v (fun b => { b with thr := { b.thr with fp := BitVec.ofNat 5 v } })
      ∧ write 19 v (fun b => { b with thr := { b.thr with sli := BitVec.ofNat 7 v } })
      ∧ ((v = 1 ∨ v = 2) → write 20 v (fun b => { b with part := { b.part with nbv := v } }))
      ∧ write 21 v (fun b => { b with thr := { b.thr with cc := BitVec.ofNat 4 v } }))
  ∧ (let e := x.enc 0xE1
     let v := (atBody e s).opB e (if srPair x.m then 2 else 1)
     ((x.m = 17 ∧ 2 ^ 48 ≤ v) ∨ (x.m = 20 ∧ v ≠ 1 ∧ v ≠ 2)) → Ready e s → Quiet s → CanTrap s →
     ∃ t, exec (.wrsr x) s = .next t ∧ Trapped causeIllegal (detail 0xF 0xE1 x.m 1) 0 (toWords e) s t)
  ∧ (let e := x.enc 0xE2
     let v := BitVec.ofNat 32 ((atBody e s).opB e 1)
     let i := x.d.toNat - 0xD0
     i < 32 → Does (.kset x) e s (fun b t => Continues b t ∧ t.thr.pend = shrunk b ∧ t.mem = b.mem
       ∧ (∀ u, b.setBy i = some u → b.thr.key.tid < u → t.grp = b.grp ∧ t.threads = b.threads ∧ ∀ j < 32, t.uniform j = if j = i then v else b.uniform j)))
  ∧ (let e := x.enc 0xE2
     let v := BitVec.ofNat 32 ((atBody e s).opB e 1)
     let i := x.d.toNat - 0xD0
     i < 32 → (atBody e s).setBy i = none → Does (.kset x) e s (fun b t => Continues b t ∧ t.thr.pend = shrunk b ∧ t.mem = b.mem
       ∧ (∀ j < 32, t.uniform j = if j = i then v else b.uniform j)
       ∧ (∀ j (h : j < 32), t.grp.k[j] = if j = i then v else b.grp.k[j])
       ∧ t.threads = b.threads.map (fun u => if u.key.gid = b.thr.key.gid ∧ u.key ≠ b.thr.key then { u with stale := u.stale ++ [(i, b.grp.k.getD i 0)] } else u)))

/-- R229, R317, R318: `launch` reads its record as one 256-byte shared load and answers 0 with a launch accepted in Waiting, or 1, 2 or 3 with none; `mbind` writes one 16-byte table entry and answers 0, or answers 1, 2 or 3 and writes nothing; `tlbinv`
waits for the replies of every core. The last two are for device firmware alone: any other thread takes ILLEGAL. -/
def Obligations.LaunchesAndMappings : Prop := ∀ (x : LX) (s : State),
  (let e := x.enc 0xE3
   let b := atBody e s
   let va := b.opA e 2
   let arg := b.opB e 1
   ∀ l s1 v s2, b.global { va := va, size := 256, write := false, classes := [0, 1, 3], prot13 := false } = .ok (l, s1) → b.grp.staged = [] → FirstRun s1 → s1.load l 256 false = .ok (v, s2) →
   let r := Launch.submitted s1.part.dev s1.part.pid (toBytes 256 v) (BitVec.ofNat 64 arg) .instr
   let tells := fun (st : Word) (more : State → Prop) => Does (.launch x) e s (fun b t => Replied e [st] s b t ∧ Logged e va (words 1 arg) [st] s1 t ∧ t.mem = s1.mem ∧ more t)
   let none_ := fun (t : State) => t.launches = s1.launches ∧ t.part = s1.part
   let own := decide (field (r.fld 16 4) 8 4 = s1.part.pid)
   (own = false → tells 2 none_)
   ∧ (own = true → r.recordOk s1.part none = false → tells 1 none_)
   ∧ (own = true → r.recordOk s1.part none = true → 4096 ≤ s1.deviceLaunches s1.part.dev s1.part.pid → tells 3 none_)
   ∧ (own = true → r.recordOk s1.part none = true → s1.deviceLaunches s1.part.dev s1.part.pid < 4096 → s1.nextId ≠ 0 → tells 0 (fun t => ∃ n ∈ t.launches, n.lid = s1.nextId ∧ n.state = .waiting
       ∧ n.record = toBytes 256 v ∧ n.arg = BitVec.ofNat 64 arg ∧ n.source = .instr ∧ n.dev = s1.part.dev ∧ n.pid = s1.part.pid ∧ n.number = s1.part.launchNo ∧ n.nbv = s1.part.nbv
       ∧ n.priority = min (field (r.fld 16 4) 3 0) s1.lau.priority)))
  ∧ (let e := x.encL 0xE7
     let b := atBody e s
     let va := b.opA e 2
     let entry := b.opB e 4
     let l := if field x.m.toNat 7 5 = 0 then Pte.level entry else field x.m.toNat 7 5
     let p := b.part? b.grp.dev (field x.m.toNat 4 0)
     let place := entryPlace b.mem p.dev va l 5 (field p.ptroot.toNat 51 12 * 2 ^ 12)
     let tells := fun (st : Word) (more : State → State → Prop) => Does (.mbind x) e s (fun b t => Replied e [st] s b t ∧ Logged e va (words 4 entry) [st] b t ∧ more b t)
     let same := fun (b t : State) => t.mem = b.mem
     b.released 4 = true → b.grp.staged = [] → FirstRun b →
     (p.ptroot.toNat % 2 = 0 ∨ place = none → tells 1 same)
     ∧ (∀ k, p.ptroot.toNat % 2 = 1 → place = some k →
        (va % 2 ^ levelShift l ≠ 0 → tells 2 same)
        ∧ (va % 2 ^ levelShift l = 0 → Pte.valid entry = true → malformedAt l entry = true → tells 3 same)
        ∧ (va % 2 ^ levelShift l = 0 → (Pte.valid entry = true → malformedAt l entry = false) → tells 0 (fun b t => Written k (toBytes 16 entry) b.mem t.mem))))
  ∧ (let e := x.enc 0xE8
     let b := atBody e s
     let all := x.m.getLsbD 5
     (all = false → 1 ≤ b.opB e 1 ∧ b.opB e 1 ≤ 2 ^ 24) →
     Does (.tlbinv x) e s (fun b t => t.mem = b.mem ∧
       Waits (.tlbinv (field x.m.toNat 4 0) (if all then 0 else b.opA e 2 / 2 ^ 16) (if all then 2 ^ 48 else b.opB e 1)) b.thr.pc s t))
  ∧ (let denied := fun (i : Instr) (e : Enc) => s.thr.status = .ready → CanTrap s → s.lau.privileged = false → ∃ t d, exec i s = .next t ∧ s.illegalHere e = some d ∧ Trapped causeIllegal d 0 (toWords e) s t
     denied (.mbind x) (x.encL 0xE7) ∧ denied (.tlbinv x) (x.enc 0xE8))

/-- R299 to R306: `solicit` starts a census of its scope instance and answers its number; `dirput` puts an entry in the lowest empty slot and answers the threshold of each scope, `dirdel` takes one out; `reply` sends a responder's value. -/
def Obligations.CensusInstructions : Prop := ∀ (x : LX) (s : State),
  let gives := fun (n v : Nat) (b t : State) => t.thr.status = .ready ∧ t.thr.pc = b.thr.pc ∧ t.thr.pend = shrunk b ∧ t.mem = b.mem ∧ SameFlags b t ∧ Wrote x.d (words n v) b t
  (let e := x.encL 0xDA
   let b := atBody e s
   let buf := b.opB e 1
   let word := b.opC e 1
   let scope := field x.m.toNat 1 0
   let mine := b.censuses.filter (fun c => c.dev = b.core.dev && c.core = b.core.num)
   let devs := if scope = 3 then b.viewMembers b.grp.seq b.grp.view else [b.grp.dev]
   buf % 32 = 0 → buf + 32 ≤ s.grp.scratchSize → word % 16 = 0 → word + 16 ≤ s.grp.scratchSize → FirstRun b →
   (16 ≤ mine.length → Does (.solicit x) e s (fun b t => Replied e [0xFFFFFFFF] s b t ∧ t.censuses = b.censuses ∧ t.mem = b.mem))
   ∧ (mine.length < 16 → scope = 3 → b.grp.view = 0xFFFFFFFF → Does (.solicit x) e s (fun b t => Replied e [0xFFFFFFFE] s b t ∧ t.censuses = b.censuses ∧ t.mem = b.mem))
   ∧ (mine.length < 16 → (scope = 3 → b.grp.view ≠ 0xFFFFFFFF) →
     let n := (lookup (instanceKey scope b.core.num) (b.part? (b.rootDev scope) b.part.pid).censusNo).getD 0 + 1
     Does (.solicit x) e s (fun b t => Replied e [n] s b t ∧ t.mem = b.mem ∧ ∃ c, t.censuses = b.censuses ++ [c] ∧ c.number = n ∧ c.pid = b.part.pid ∧ c.scope = scope ∧ c.dev = b.core.dev ∧ c.core = b.core.num
       ∧ c.gid = b.grp.gid ∧ c.key = BitVec.ofNat 64 (b.opA e 2) ∧ c.buf = buf ∧ c.word = word ∧ c.combine = field x.m.toNat 4 2 ∧ c.spawned = 0 ∧ c.finished = 0 ∧ c.kept = 0
       ∧ ∀ d k, (d ∈ devs ∧ k ∈ instanceCores scope b.core.num) → d * 192 + k ∈ c.todo)))
  ∧ (let e := x.encL 0xDB
     let b := atBody e s
     let off := b.opA e 1
     let img := Mem.read s.grp.scratch off 32
     let key := BitVec.ofNat 64 (natAt img 0 8)
     let serial := wordAt img 8
     let held := b.core.dirs.any (fun d => d.pid = b.part.pid && d.state = .live && d.key = key && d.serial = serial)
     off % 32 = 0 → off + 32 ≤ s.grp.scratchSize → FirstRun b →
     (wordAt img 12 ≠ 0 → Does (.dirput x) e s (fun b t => gives 4 (Bits.ofWords (List.replicate 4 0xFFFFFFFD)) b t ∧ t.core.dirs = b.core.dirs))
     ∧ (wordAt img 12 = 0 → held = true → Does (.dirput x) e s (fun b t => gives 4 (Bits.ofWords (List.replicate 4 0xFFFFFFFE)) b t ∧ t.core.dirs = b.core.dirs))
     ∧ (wordAt img 12 = 0 → held = false → b.core.dirFree b.part.pid = none → Does (.dirput x) e s (fun b t => gives 4 (Bits.ofWords (List.replicate 4 0xFFFFFFFF)) b t ∧ t.core.dirs = b.core.dirs))
     ∧ (∀ i, wordAt img 12 = 0 → held = false → b.core.dirFree b.part.pid = some i →
       let puts := (List.range 4).map (fun sc => b.core.seenNo b.part.pid sc + 1)
       Does (.dirput x) e s (fun b t => gives 4 (Bits.ofWords puts) b t ∧ t.core.dirs = b.core.dirs ++ [⟨b.part.pid, i, .live, key, serial, BitVec.ofNat 64 (natAt img 16 8), BitVec.ofNat 64 (natAt img 24 8), puts, []⟩])))
  ∧ (let e := x.encL 0xDC
     let b := atBody e s
     let key := BitVec.ofNat 64 (b.opA e 2)
     let serial := BitVec.ofNat 32 (b.opC e 1)
     let hit := fun (d : DirEntry) => d.pid = s.part.pid && d.state = .live && d.key = key && d.serial = serial
     FirstRun b →
     (b.core.dirs.any hit = false → Does (.dirdel x) e s (fun b t => gives 1 1 b t ∧ t.core.dirs = b.core.dirs))
     ∧ (b.core.dirs.any hit = true → x.b = 0xFF → Does (.dirdel x) e s (fun b t => gives 1 0 b t ∧ t.core.dirs = b.core.dirs.filter (fun d => !hit d)))
     ∧ (b.core.dirs.any hit = true → x.b ≠ 0xFF → Does (.dirdel x) e s (fun b t => gives 1 0 b t ∧ t.core.dirs.any hit = false
         ∧ ∀ d ∈ b.core.dirs, hit d = false → d.state = .live → d ∈ t.core.dirs)))
  ∧ (let e := x.encL 0xDD
     let b := atBody e s
     ∀ c serial dev core, FirstRun b → b.lau.source = .responder c serial dev core →
     Does (.reply x) e s (fun b t => Continues b t ∧ t.thr.pend = shrunk b ∧ t.mem = b.mem
       ∧ t.replies = b.replies ++ [{ serial := b.nextId, census := c, value := BitVec.ofNat 64 (b.opA e 2), entry := serial, dev := dev, core := core }]))

/-- R293 to R298: `fbegin` opens the thread's region with the registers of its mask saved; `fcommit` ends a region that has failed with its saved registers restored, a0 the status and the thread at the failure target, ends one that holds nothing
with success, and otherwise waits while its two phases run; `fred` sends the group's scratchpad bytes as a contribution, and waits for the status where d names a register. -/
def Obligations.RegionsAndReductions : Prop := ∀ (x : LX) (s : State),
  (let e := x.encX 0xB9
   let b := atBody e s
   b.thr.region = none → Does (.fbegin x) e s (fun b t => t.thr.pend = shrunk b ∧ SameRegs b t ∧ SameFlags b t ∧ t.thr.status = .ready ∧ t.thr.pc = b.thr.pc ∧ t.mem = b.mem
     ∧ ∃ r, t.thr.region = some r ∧ r.target = s.thr.pc + BitVec.ofInt 48 (4 * branchOff e) ∧ r.failed = 0 ∧ r.acks = [] ∧ r.sent = false
       ∧ ∀ k v, (k, v) ∈ r.saved ↔ ∃ i < 16, bit (x.c.toNat + 2 ^ 8 * x.m.toNat) i = true ∧ k = x.d.toNat + i ∧ v = b.thr.get (BitVec.ofNat 8 k)))
  ∧ (let e := x.encL 0xBA
     let b := atBody e s
     ∀ r, b.thr.region = some r → b.grp.attempt = 0 → b.grp.log.length < 256 →
     (r.failed ≠ 0 → (∀ p ∈ r.saved, p.1 < 192) → r.saved.Pairwise (fun p q => p.1 < q.1) →
       Does (.fcommit x) e s (fun b t => t.thr.region = none ∧ t.thr.pc = r.target ∧ t.thr.status = .ready ∧ t.mem = b.mem ∧ SameFlags b t
         ∧ ∀ (k : Nat) (h : k < 200), t.thr.regs[k] = if k = 4 then BitVec.ofNat 32 r.failed else (lookup k r.saved).getD b.thr.regs[k]))
     ∧ (r.failed = 0 → (∀ c ∈ b.core.comb, c.t ≠ b.thr.key) → Does (.fcommit x) e s (fun b t => t.thr.region = none ∧ Continues b t ∧ t.mem = b.mem))
     ∧ (r.failed = 0 → (∃ c ∈ b.core.comb, c.t = b.thr.key) → Does (.fcommit x) e s (fun b t => Waits .fcommit b.thr.pc s t ∧ t.mem = b.mem ∧ t.core = b.core
         ∧ t.thr.region = some { r with since := s.now })))
  ∧ (let e := x.encL 0xBB
     let b := atBody e s
     ∀ ws, b.block e.c 6 = some ws →
     let w := fun i => (ws.getD i 0).toNat
     let dst := w 0 + 2 ^ 32 * w 1
     let arrival := w 4 + 2 ^ 32 * w 5
     let off := b.opA e 1
     let length := 64 * (field (w 2) 9 0 + 1)
     ∀ ps s1 ar sw, off % 64 = 0 → off + length ≤ s.grp.scratchSize → dst % 64 = 0 → arrival % 16 = 0 → field (w 2) 31 28 ≤ 2 → fredType (field (w 2) 27 24) = true →
     field (w 2) 23 20 ≠ 0 → field (w 2) 19 16 ≤ field (w 2) 23 20 → field (w 2) 15 10 = 0 → b.fredParts dst length = .ok (ps, s1) →
     (if arrival = 0 then ar = none ∧ sw = s1 else ∃ q, s1.fredMap arrival = .ok (q, sw) ∧ ar = some q.key) →
     (∀ k ∈ ps.map Prod.fst ++ ar.toList, devOf k = devOf (ps.headD (0, 0)).1) → FirstRun sw →
     Does (.fred x) e s (fun b t => t.mem = sw.mem ∧ SameRegs b t ∧ SameFlags b t
       ∧ (if x.d = 0xFF then t.thr.status = .ready ∧ t.thr.pc = b.thr.pc else Waits (.fred sw.nextId) b.thr.pc s t)
       ∧ ∃ c, t.contributions = sw.contributions ++ [c] ∧ c.serial = sw.nextId ∧ c.t = b.thr.key ∧ c.dev = devOf (ps.headD (0, 0)).1 ∧ c.parts = ps ∧ c.arrival = ar
         ∧ c.op = field (w 2) 31 28 ∧ c.type_ = field (w 2) 27 24 ∧ c.count = field (w 2) 23 20 ∧ c.index = field (w 2) 19 16 ∧ c.length = length ∧ c.id = ws.getD 3 0
         ∧ c.bytes = Mem.read b.grp.scratch off length))

/-! ## Events of threads (chapters 02, 05, 07, 10) -/

/-- R82, R85, R104, R105, R107, R108, R111 to R113: spin lowering ends; a thread waiting long ages; a meeting set is released together once it waits for no thread, or after 65,536 cycles without progress; a yield ends; a gather and a bounded wait
fall due to trap at their limits; the lowest due trap of a pack is delivered; and a trapped thread goes on as its disposition says. An event that is not due changes nothing. Which event happens next is the model's input (notes/assumptions/3.md). -/
def Obligations.ThreadEvents : Prop := ∀ (k : ThreadKey) (gid pack : Nat) (m : CodeAddr) (s : State),
  HappensWhen (.spinLoweringExpiry k) s (s.focus k) (fun s => s.running = true ∧ s.thr.spin.low = true ∧ s.thr.spin.lowUntil ≤ s.dev.clk)
    (fun s t => t = { s with thr := { s.thr with spin := { s.thr.spin with low := false } } })
  ∧ HappensWhen (.threadAged k) s (s.focus k) (fun s => s.running = true ∧ s.thr.status = .ready ∧ ¬(s.thr.pc = s.thr.meet ∧ s.thr.released = false) ∧ s.thr.aged = false ∧ s.thr.readySince + 2048 ≤ s.dev.clk)
    (fun s t => t = { s with thr := { s.thr with aged := true } })
  ∧ (let held := fun (t : Thread) => t.status = .ready ∧ t.pc = m ∧ t.meet = m ∧ t.released = false
     let release := fun (s t : State) => t.mem = s.mem ∧ t.grp = s.grp ∧ ∀ u : Thread, u ∈ s.allThreads → (
       (u.key.gid = gid ∧ u.key.tid / 32 = pack ∧ held u → { u with released := true, readySince := s.dev.clk } ∈ t.allThreads)
       ∧ (¬(u.key.gid = gid ∧ u.key.tid / 32 = pack ∧ held u) → u ∈ t.allThreads))
     HappensWhen (.meetingRelease gid pack m) s (groupAt gid s)
       (fun s => s.running = true ∧ (∃ u ∈ s.packThreads gid pack, held u) ∧ ∀ u ∈ s.packThreads gid pack, u.status ≠ .exited → u.meet = m → u.pc = m) release
     ∧ HappensWhen (.meetingEarlyRelease gid pack m) s (groupAt gid s)
       (fun s => s.running = true ∧ (∃ u ∈ s.packThreads gid pack, held u) ∧ (∀ u ∈ s.packThreads gid pack, held u → u.readySince + 65536 ≤ s.dev.clk)
         ∧ ∀ u ∈ s.packThreads gid pack, u.status ≠ .exited → u.meet = m → u.pc ≠ m → u.progress + 65536 ≤ s.dev.clk) release)
  ∧ HappensWhen (.yieldEnd k) s (s.focus k) (fun s => s.running = true ∧ ∃ pcs til, s.thr.status = .waiting (.yield pcs til) ∧ (pcs = [] ∨ til ≤ s.dev.clk))
    (fun s t => t = { s with thr := s.thr.wake s.dev.clk })
  ∧ (∀ op mask ws live, Happens (.xstall k) s (s.focus k)
      (fun s => s.running = true ∧ s.thr.status = .waiting (.gather op mask ws live) ∧ s.thr.due = none ∧ s.missingLanes ≠ [] ∧ (∀ l ∈ s.missingLanes, l < 32)
        ∧ 2 ^ 20 ≤ s.dev.clk - s.thr.waitSince + s.thr.waited)
      (fun s t => ∃ d, t = { s with thr := { s.thr with due := some (7, d) } } ∧ ∀ l < 32, d.getLsbD l = decide (l ∈ s.missingLanes)))
  ∧ (let long := fun (s : State) => s.running = true ∧ s.thr.due = none ∧ s.lau.stall ≠ 0 ∧ s.lau.stall ≤ s.dev.clk - s.thr.waitSince + s.thr.waited
     (∀ loc gen, Happens (.bstall k) s (s.focus k) (fun s => long s ∧ s.thr.status = .waiting (.sync loc gen) ∧ (s.syncWord loc).counts = s.thr.seen)
       (fun s t => t = { s with thr := { s.thr with due := some (8, BitVec.ofNat 32 ((s.syncWord loc).tc * 2 ^ 16 + (s.syncWord loc).tt)) } }))
     ∧ Happens (.bstall k) s (s.focus k) (fun s => long s ∧ ∃ w, s.thr.status = .waiting w ∧ (w = .engine ∨ (∃ n dst, w = .acca n dst) ∨ (∃ at_ dst, w = .fork at_ dst) ∨ (∃ p bound, w = .aswap p bound) ∨ ∃ q, w = .view q))
       (fun s t => ∃ d, t = { s with thr := { s.thr with due := some (8, d) }, drawn := s.drawn + 1 })
     ∧ (∀ n, Happens (.bstall k) s (s.focus k) (fun s => long s ∧ s.thr.status = .waiting (.regclaim n))
       (fun s t => let waits := fun (u : Thread) => u.key.gid = s.thr.key.gid ∧ u.key.tid / 32 = s.thr.key.tid / 32 ∧ u.status = .waiting (.regclaim n)
         t.mem = s.mem ∧ t.grp = s.grp ∧ ∀ u ∈ s.allThreads,
           (waits u → { u with due := some (8, BitVec.ofNat 32 (n / 8 * 2 ^ 16 + s.grp.pool)) } ∈ t.allThreads) ∧ (¬ waits u → u ∈ t.allThreads))))
  ∧ (∀ u cause d s2, Happens (.trapDelivery gid pack) s (groupAt gid s)
      (fun s1 => (s1.packThreads gid pack).find? (fun t => t.due.isSome && t.status ≠ .exited) = some u ∧ u.due = some (cause, d) ∧ s1.grp.gid = gid ∧ s1.focus u.key = some s2
        ∧ s2.running = true ∧ CanTrap s2)
      (fun _ t => Trapped cause d 0 s2.thr.instr s2 t))
  ∧ (∀ cause key, let released := fun (s : State) => s.running = true ∧ s.thr.status = .trapped cause key ∧ s.trapReleased = true
     Happens (.trapResume k) s (s.focus k) (fun s => released s ∧ (Mem.nat s.mem (key + 16) 4 = 1 ∨ (Mem.nat s.mem (key + 16) 4 = 0 ∧ (cause = 2 ∨ cause = 3) ∧ Quiet s)))
       (fun s t => t.thr.status = .ready ∧ t.thr.pc = s.thr.npc ∧ t.thr.meet = s.thr.meet ∧ SameRegs s t ∧ SameFlags s t ∧ t.mem = s.mem)
     ∧ Happens (.trapResume k) s (s.focus k) (fun s => released s ∧ Mem.nat s.mem (key + 16) 4 = 0 ∧ cause ≠ 2 ∧ cause ≠ 3)
       (fun s t => t.thr.status = .ready ∧ t.thr.pc = s.thr.pc ∧ t.thr.meet = s.thr.meet ∧ SameRegs s t ∧ SameFlags s t ∧ t.mem = s.mem)
     ∧ Happens (.trapResume k) s (s.focus k) (fun s => released s ∧ 1 < Mem.nat s.mem (key + 16) 4)
       (fun s t => t.thr.key = s.thr.key ∧ t.thr.status = .exited ∧ t.mem = s.mem ∧ SameRegs s t)
     ∧ ((∀ s1, s.focus k = some s1 → s1.trapReleased = false) → exec (.trapResume k) s = .next s))

/-- R10, R27, R28, R89, R141, R142, R243, R276, R318: an arrived result whose window is over is written with its flags, and one whose window is open waits; an acquire drops the cached lines of classes 0 and 4; an interlocked reply is written and its thread goes
on; a store that has performed is acknowledged and its remote plain store's thread goes on. Which event happens next is the model's input (notes/assumptions/3.md). -/
def Obligations.ResultEvents : Prop := ∀ (k : ThreadKey) (serial : Nat) (s : State),
  (∀ p : Pending, let known := fun (s : State) => s.thr.pend.find? (fun p => p.serial = serial && !p.arrived && !p.vals.isEmpty) = some p ∧ Quiet s ∧ (∀ q ∈ s.thr.pend, q.serial = serial → q = p)
       ∧ (s.thr.status = .ready ∨ s.thr.status = .waiting .interlock) ∧ p.vals.length = p.width
     let after := fun (s t : State) => t.mem = s.mem ∧ t.grp = s.grp ∧ t.thr.status = .ready ∧ t.thr.pc = s.thr.pc ∧ t.thr.q = s.thr.q ∧ t.thr.cc = s.thr.cc
       ∧ t.core = (if p.acq then s.core.invalidate else s.core)
     Happens (.longLatencyResult k serial) s (s.focus k)
       (fun s => known s ∧ p.win = 0 ∧ s.thr.pend.Nodup ∧ ∀ q ∈ s.thr.pend, q ≠ p → regsMeet p.dst.toNat p.width q.dst.toNat q.width = false)
       (fun s t => after s t ∧ Wrote p.dst p.vals s t ∧ t.thr.fp = s.thr.fp ||| p.fp ∧ t.thr.sli = s.thr.sli ||| p.sli ∧ t.thr.pend = s.thr.pend.filter (fun q => q ≠ p)
         ∧ (∀ v, p.vals = [v] → t.thr.l0 = (if p.alu then v else s.thr.l0) ∧ t.thr.l1 = (if p.alu then s.thr.l0 else s.thr.l1)))
     ∧ Happens (.longLatencyResult k serial) s (s.focus k) (fun s => known s ∧ p.win ≠ 0)
       (fun s t => after s t ∧ SameRegs s t ∧ SameFlags s t ∧ t.thr.pend = s.thr.pend.map (fun q => if q.serial = serial then { q with arrived := true } else q)))
  ∧ Happens (.interlockedResultArrival k) s (s.focus k) (fun s => s.thr.status = .waiting .reply ∧ s.thr.reply.Pairwise (fun a b => a.1 < b.1))
    (fun s t => t.mem = s.mem ∧ t.thr.status = .ready ∧ t.thr.pc = s.thr.npc ∧ t.thr.reply = [] ∧ SameFlags s t
      ∧ ∀ (n : Nat) (h : n < 200), t.thr.regs[n] = (lookup n s.thr.reply).getD s.thr.regs[n])
  ∧ (∀ pid first count, Happens (.interlockedResultArrival k) s (s.focus k) (fun s => s.thr.status = .waiting (.tlbinv pid first count) ∧ s.usesPages s.grp.gid s.grp.dev pid first count = false)
    (fun s t => t.mem = s.mem ∧ t.thr = s.thr.wake s.dev.clk
      ∧ ∀ c ∈ t.allCores, c.dev = s.grp.dev → ∀ e ∈ c.tlb, ¬(e.pid = pid ∧ first ≤ e.page ∧ e.page < first + count)))
  ∧ (let acked := fun (s : State) => (∃ u ∈ s.thr.unacked, u.serial = serial) ∧ ∀ a ∈ s.inflight, a.serial ≠ serial
     HappensWhen (.storeAcknowledgement k serial) s (s.focus k) acked
      (fun s t => t.mem = s.mem ∧ SameRegs s t ∧ SameFlags s t ∧ t.thr.unacked = s.thr.unacked.filter (fun u => u.serial ≠ serial)
        ∧ (s.thr.status = .waiting (.remote serial) → t.thr.status = .ready ∧ t.thr.pc = s.thr.npc)
        ∧ (s.thr.status = .waiting .resource → t.thr.status = .ready ∧ t.thr.pc = s.thr.pc)
        ∧ (s.thr.status = .ready → t.thr.status = .ready ∧ t.thr.pc = s.thr.pc)))

/-! ## Events of phases and of paging (chapters 08, 09, 16, 21, 25) -/

/-- R116 to R120, R125, R144, R232, R233: at a commit every staged byte becomes visible together, and with it the next phase begins or, with no live thread, the group ends; an admitted phase runs, the first one with its threads at kernel entry; a queued
phase rises one level each 50 µs, to level 8 at most; a forced pre-emption suspends its victim with its place given up and memory unchanged. Which event happens next is the model's input (notes/assumptions/3.md). -/
def Obligations.PhaseEvents : Prop := ∀ (gid core : Nat) (s : State),
  (let commits := fun (s : State) => s.grp.gid = gid ∧ s.grp.mayCommit = true ∧ s.unprepared = false ∧ (∀ p ∈ s.grp.stagedVa, s.locked (64 * p.1) = false)
     ∧ s.grp.staged.Pairwise (fun a b => a.1 < b.1)
   Happens (.phaseCommit gid) s (groupAt gid s) (fun s => commits s ∧ s.liveThreads gid ≠ [] ∧ s.preempted = false)
     (fun s t => (∀ a, Mem.get t.mem a = seen s a) ∧ t.grp.gid = gid ∧ t.grp.phase = .running ∧ t.grp.phases = s.grp.phases + 1 ∧ t.grp.staged = [] ∧ t.grp.log = [] ∧ t.grp.attempt = 0
       ∧ t.grp.early = false ∧ t.grp.trapped = false ∧ t.grp.scratch = s.grp.scratch ∧ t.grp.k = s.grp.k ∧ t.grp.record.phase = s.grp.phases + 1)
   ∧ Happens (.phaseCommit gid) s (groupAt gid s) (fun s => commits s ∧ s.liveThreads gid ≠ [] ∧ s.preempted = true)
     (fun s t => (∀ a, Mem.get t.mem a = seen s a) ∧ t.grp.gid = gid ∧ t.grp.phase = .queued ∧ t.grp.phases = s.grp.phases + 1 ∧ t.grp.staged = [] ∧ t.grp.slots = [])
   ∧ Happens (.phaseCommit gid) s (groupAt gid s) (fun s => commits s ∧ s.liveThreads gid = [])
     (fun s t => (∀ a, Mem.get t.mem a = seen s a) ∧ t.grp = Group.none ∧ t.lau.ended = s.grp.idx :: s.lau.ended ∧ ∀ u ∈ t.threads, u.key.gid ≠ gid)
   ∧ ((∀ s1, groupAt gid s = some s1 → s1.grp.mayCommit = false) → exec (.phaseCommit gid) s = .next s))
  ∧ (let admitted := fun (s : State) => s.grp.gid = gid ∧ gid ≠ 0 ∧ s.grp.waitsForCore = true ∧ s.mayGo s.grp core = true ∧ s.admits s.grp = true ∧ s.fitsOn s.grp core = true
       ∧ ∀ q ∈ s.allGroups, s.keepsOut s.grp q core = false
     let runs := fun (s t : State) => t.grp.gid = gid ∧ t.grp.phase = (if s.grp.boundary then .closing else .running) ∧ t.grp.core = core ∧ t.grp.placed = true
     Happens (.phaseAdmission gid core) s (groupAt gid s) (fun s => admitted s ∧ ∀ a ∈ s.lau.admitted, a.1 ≠ s.grp.idx)
       (fun s t => t.mem = s.mem ∧ runs s t ∧ (s.grp.idx, core) ∈ t.lau.admitted ∧ ∀ tid < s.lau.threadsPerGroup, ∃ u ∈ t.threads, u.key = ⟨gid, tid⟩ ∧ u.status = .ready ∧ u.pc = s.lau.entry
         ∧ u.meet = 0xFFFFFFFFFFFF ∧ u.grant = s.lau.regs ∧ u.q = 0 ∧ u.cc = 0 ∧ u.fp = 0 ∧ u.sli = 0 ∧ u.pend = []
         ∧ ∀ (n : Nat) (h : n < 200), n ≠ 2 → n ≠ 3 → u.regs[n] = 0)
     ∧ Happens (.phaseAdmission gid core) s (groupAt gid s) (fun s => admitted s ∧ ∃ a ∈ s.lau.admitted, a.1 = s.grp.idx) (fun s t => t.mem = s.mem ∧ runs s t))
  ∧ HappensWhen (.phaseAging gid) s (groupAt gid s)
    (fun s => s.grp.phase = .queued ∧ s.grp.level < 8 ∧ (s.grp.level - s.lau.priority + 1) * 50000 ≤ s.now - s.grp.queuedAt)
    (fun s t => t = { s with grp := { s.grp with level := s.grp.level + 1 } })
  ∧ (∀ q : Group, (s.group? gid).getD Group.none = q → ∀ victim,
     Happens (.forcedPreemption gid victim) s (groupAt victim s)
      (fun s => s.running = true ∧ s.grp.shadow = 0 ∧ (∀ p ∈ s.issueQ, p.1.gid ≠ victim) ∧ s.grp.gid = victim ∧ victim ≠ 0 ∧ q.gid ≠ 0 ∧ q.phase = .queued ∧ q.level = 11 ∧ q.queuedAt + 20000 ≤ s.now ∧ q.dev = s.grp.dev ∧ s.mayGo q s.grp.core = true ∧ s.admits q = true
        ∧ s.fitsOn q s.grp.core = false ∧ s.lau.priority < 11 ∧ s.wouldFit q s.grp = true
        ∧ ∀ g ∈ s.placedOn s.grp.dev s.grp.core, g.resident = true → g.shadow = 0 → g.phase = .running → ((s.launch? g.lid).map Launch.priority).getD 0 < ((s.launch? s.grp.lid).map Launch.priority).getD 0 → s.wouldFit q g = false)
      (fun s t => t.mem = s.mem ∧ t.grp.gid = s.grp.gid ∧ t.grp.phase = .suspended ∧ t.grp.slots = [] ∧ t.grp.placed = false ∧ t.grp.staged = s.grp.staged ∧ t.grp.scratch = s.grp.scratch))

/-- R120, R182, R185, R331, R332, R335, R336: an uncorrectable error consumed by a node rolls it back to its record where an undo copy of what it struck stands, and ends it where none does, at its fourth, or early-committed; one consumed by an engine job changes nothing but the log. The replay
auditor runs a sampled phase again on another core, from its record and with its published writes, compares the two signatures when that run has ended, and settles a mismatch by a third run: the core that differs is quarantined. A sample may be dropped. Which event happens next is the model's input (notes/assumptions/3.md). -/
def Obligations.ErrorAndAuditEvents : Prop := ∀ (gid core slot : Nat) (u : ErrUnit) (hit : Struck) (s : State),
  let still := fun (s : State) => s.grp.gid = gid ∧ gid ≠ 0 ∧ s.grp.shadow = 0 ∧ (∀ a ∈ s.inflight, a.t.gid ≠ gid) ∧ (∀ t ∈ s.groupThreads gid, t.region = none) ∧ s.grp.foreignBytes = []
    ∧ ∀ g ∈ s.shadowsOf gid, g.gid ≠ gid
  let rolled := fun (s t : State) => t.mem = s.mem ∧ t.grp.gid = gid ∧ t.grp.attempt = s.grp.attempt + 1 ∧ t.grp.staged = [] ∧ t.grp.slots = [] ∧ t.grp.k = s.grp.record.k
    ∧ t.grp.guards = s.grp.record.guards ∧ t.grp.scratch = restoreScratch s.grp.scratch s.grp.undoScratch ∧ t.grp.replay = s.grp.log ++ s.grp.replay ∧ t.grp.log = []
    ∧ (t.grp.phase = .queued ∨ t.grp.phase = .rollingBack) ∧ (s.core.storeHolds gid = false → t.grp.phase = .queued)
  let ended := fun (s t : State) => t.mem = s.mem ∧ t.grp = Group.none ∧ t.lau.failed = true
  let consumed := Happens (.uncorrectableErrorConsumed gid none ⟨u, hit⟩) s (groupAt gid s)
  let meets := fun (s : State) => still s ∧ (s.grp.phase = .running ∨ s.grp.phase = .closing ∨ s.grp.phase = .audited) ∧ ErrUnit.legal u = true ∧ (s.struck hit).1 = true ∧ s.dev.answers = true
  (consumed (fun s => meets s ∧ (s.struck hit).2 = true ∧ s.grp.early = false ∧ s.grp.attempt < 3) rolled
   ∧ consumed (fun s => meets s ∧ ((s.struck hit).2 = false ∨ s.grp.early = true ∨ 3 ≤ s.grp.attempt)) ended)
  ∧ (∀ j, (ErrUnit.legal u = false → exec (.uncorrectableErrorConsumed gid (some j) ⟨u, hit⟩) s = .next s)
      ∧ ((∀ g ∈ s.allGroups, g.gid = gid → g.shadow = 0) → ∃ t, exec (.uncorrectableErrorConsumed gid (some j) ⟨u, hit⟩) s = .next t ∧ t = { s with part := t.part, parts := t.parts, out := t.out }
        ∧ (ErrUnit.legal u = true → (∀ d, (s.dev? d).answers = true) → (∃ c ∈ s.allCores, ∃ i ∈ c.jobs, i.id = j ∧ i.gid = gid ∧ i.freed = true ∧ i.moved = false ∧ i.kind.array = false) → t.out ≠ s.out)))
  ∧ (let begins := fun (t s : State) => t.mem = s.mem ∧ ∃ h ∈ t.groups, h.gid = s.nextId ∧ h.shadow = gid ∧ h.core = core ∧ h.phase = .running ∧ h.attempt = 1 ∧ h.staged = [] ∧ h.log = []
       ∧ h.replay = s.grp.log ∧ h.ticketReplay = s.grp.tickets ∧ h.k = s.grp.record.k ∧ h.guards = s.grp.record.guards ∧ h.scratch = restoreScratch s.grp.scratch s.grp.undoScratch
     let other := fun (s : State) => still s ∧ s.nextId ≠ 0
     Happens (.auditRerun gid core slot) s (groupAt gid s)
       (fun s => other s ∧ s.grp.phase = .closing ∧ s.grp.sampled = true ∧ s.shadowsOf gid = [] ∧ s.settledGroup gid = true ∧ s.auditor [s.grp.core / 48] core = true)
       (fun s t => begins t s ∧ t.grp = { s.grp with phase := .audited, audit := [some s.signature], auditCore := core })
     ∧ (∀ h more a, let over_ := fun (s : State) => still s ∧ s.grp.phase = .audited ∧ s.grp.audit = [a] ∧ s.shadowsOf gid = h :: more ∧ h.core = core ∧ s.shadowDone h = true
        Happens (.auditRerun gid core slot) s (groupAt gid s) (fun s => over_ s ∧ a.isSome = true ∧ s.shadowSignature h = a)
          (fun s t => t.mem = s.mem ∧ t.grp = { s.grp with audit := [a, a] } ∧ t.part.audMis = s.part.audMis ∧ t.shadowsOf gid = [])
        ∧ Happens (.auditRerun gid core slot) s (groupAt gid s) (fun s => over_ s ∧ (a = none ∨ s.shadowSignature h ≠ a))
          (fun s t => t = { s with grp := { s.grp with audit := [a, s.shadowSignature h] }, part := { s.part with audMis := min (s.part.audMis + 1) 0xFFFF } }))
     ∧ (∀ a b h, let differ := fun (s : State) => still s ∧ s.grp.phase = .audited ∧ s.grp.audit = [a, b] ∧ s.grp.settled = false ∧ (s.shadowsOf gid).find? (fun h => h.core = s.grp.auditCore) = some h
        Happens (.auditThirdRun gid core slot) s (groupAt gid s)
          (fun s => other s ∧ differ s ∧ (∀ k ∈ s.shadowsOf gid, k.core = s.grp.auditCore) ∧ s.auditor [s.grp.core / 48, s.grp.auditCore / 48] core = true)
          (fun s t => begins t s ∧ t.grp = s.grp)
        ∧ (∀ k, let third := fun (s : State) => differ s ∧ (s.shadowsOf gid).find? (fun h => h.core ≠ s.grp.auditCore) = some k ∧ k.core = core ∧ s.shadowDone k = true
           let alone := fun (s : State) (n : Nat) => ∀ g ∈ s.placedOn s.grp.dev n, g.phase ≠ .queued
           let runs := Happens (.auditThirdRun gid core slot) s (groupAt gid s)
           runs (fun s => third s ∧ a.isSome = true ∧ s.shadowSignature k = a ∧ alone s s.grp.auditCore)
             (fun s t => t.mem = s.mem ∧ t.grp = { s.grp with audit := [a, a] } ∧ (t.core? s.grp.dev s.grp.auditCore).quarantined = true)
           ∧ runs (fun s => third s ∧ b.isSome = true ∧ s.shadowSignature k = b ∧ alone s s.grp.core)
             (fun s t => t.mem = s.mem ∧ t.grp.gid = gid ∧ t.grp.phase = .audited ∧ t.grp.audit = [b, b] ∧ t.grp.preempt = true ∧ t.grp.placed = false ∧ t.grp.staged = h.staged ∧ t.grp.scratch = h.scratch
               ∧ (t.core? s.grp.dev s.grp.core).quarantined = true)
           ∧ runs (fun s => third s ∧ (s.shadowSignature k = none ∨ (s.shadowSignature k ≠ a ∧ s.shadowSignature k ≠ b)) ∧ s.grp.early = false ∧ s.grp.attempt < 3) rolled)))
  ∧ (let dropped := fun (s t : State) => t.mem = s.mem ∧ t.grp = { s.grp with phase := .closing, sampled := false, audit := [] } ∧ t.part.audDrop = min (s.part.audDrop + 1) 0xFFFF
     Happens (.auditSampleDrop gid false) s (groupAt gid s)
       (fun s => still s ∧ s.grp.phase = .closing ∧ s.grp.sampled = true ∧ s.grp.closedAt + 100000 ≤ s.now ∧ ∀ c < 192, s.auditor [s.grp.core / 48] c = false) dropped
     ∧ Happens (.auditSampleDrop gid true) s (groupAt gid s) (fun s => still s ∧ ∃ h ∈ s.shadowsOf gid, s.shadowDone h = false) dropped)

/-- R128, R137, R138, R275, R310, R312, R314, R318, R337: a served fault lets every thread parked on its page issue again and a declined one makes XLATE due; a reply to a halted partition is recorded; stack growth maps a zeroed page, in tables that stand or are made for it; translations of the host return and are
invalidated; TLBINV drops every cached translation of its partition; an integrity check passes, rolls its node back for a refetch, or ends it at the second failure of a block. Which event happens next is the model's input (notes/assumptions/3.md). -/
def Obligations.PagingEvents : Prop := ∀ (k : ThreadKey) (dev pid page : Nat) (s : State),
  let at_ := s.focusPart dev pid
  (let reply := fun (i : Instr) (decline : Bool) => pid < 32 →
     (at_.part.pstat ≠ 0 → exec i s = .next { at_ with part := { at_.part with recorded := at_.part.recorded ++ [.faultReply page decline] } })
     ∧ (at_.part.pstat = 0 → ∃ t, exec i s = .next t ∧ t.mem = at_.mem
        ∧ t.part.faults = at_.part.faults.filter (fun f => !(f.posted && f.page = page && f.kind ≠ 8))
        ∧ ∀ u ∈ at_.allThreads, u.key.gid ∈ at_.partGids → u.status = .parked page → u.due = none → ∃ v ∈ t.allThreads, v.key = u.key ∧ v.pc = u.pc ∧ v.regs = u.regs
            ∧ (if decline then v.status = .parked page ∧ ∃ r, v.due = some (causeXlate, xlateDetail r (page * 2 ^ 16)) ∧ (r = 0 ∨ r = 3) else v.status = .ready ∧ v.due = none))
   reply (.faultServe dev pid page) false ∧ reply (.faultDecline dev pid page) true)
  ∧ (∀ frame tables e, let grows := fun (s : State) => s.thr.status = .parked page ∧ s.ownStack (page * 2 ^ 16) = true ∧ s.thr.due = none ∧ s.translate (page * 2 ^ 16) = .miss ∧ frame < 2 ^ 36
       ∧ (∀ t ∈ tables, t < 2 ^ 39) ∧ s.part.ptroot.toNat % 2 = 1
     let root := fun (s : State) => field s.part.ptroot.toNat 51 12 * 2 ^ 12
     let maps := fun (m : List Host.Cell) (s t : State) => let f := keyOf s.part.dev (frame * 2 ^ 16)
        t.thr = s.thr.retry s.dev.clk ∧ (∀ a, Mem.get t.mem a =
          if e ≤ a ∧ a < e + 16 then (toBytes 16 (7 + frame * 2 ^ 16 + 4 * 2 ^ 57)).getD (a - e) 0 else if f ≤ a ∧ a < f + 2 ^ 16 then 0 else Mem.get m a)
     Happens (.stackGrowth k (frame :: tables)) s (s.focus k) (fun s => grows s ∧ entryPlace s.mem s.part.dev (page * 2 ^ 16) 0 5 (root s) = some e) (fun s t => maps s.mem s t)
     ∧ (∀ s0, Happens (.stackGrowth k (frame :: tables)) s (s.focus k) (fun s => grows s ∧ buildTables s.part.dev (page * 2 ^ 16) 5 (root s) tables s = some (e, s0)) (fun s t => maps s0.mem s t)))
  ∧ (∀ iova, pid < 32 → (∀ h, exec (.atsTranslationCompletion dev pid iova (some h)) s
        = .next { at_ with part := { at_.part with ats := Bits.insert iova h at_.part.ats, atsRefused := at_.part.atsRefused.filter (fun x => x ≠ iova) } })
      ∧ exec (.atsTranslationCompletion dev pid iova none) s
        = .next { at_ with part := { at_.part with ats := Bits.erase iova at_.part.ats, atsRefused := iova :: at_.part.atsRefused.filter (fun x => x ≠ iova) } }
      ∧ (let used := ∃ h, lookup iova at_.part.ats = some h ∧ at_.usesKeys at_.part.dev at_.part.pid (keyOf hostDev (h * 2 ^ 16) / 2 ^ 16) = true
         exec (.atsInvalidationRequest dev pid iova) s = .next (open Classical in if used then s else
           { State.mapCores (fun c => if c.dev = at_.part.dev then { c with faultBuf := [] } else c) at_ with
             part := { at_.part with ats := Bits.erase iova at_.part.ats, atsRefused := at_.part.atsRefused.filter (fun x => x ≠ iova) } })))
  ∧ (pid < 32 → let uses := at_.usesPages 0 at_.part.dev at_.part.pid 0 (2 ^ 48)
     (at_.part.tlbinv = false → exec (.tlbinvRegister dev pid) s = .next { at_ with part := { at_.part with tlbinv := true } })
     ∧ (at_.part.tlbinv = true → uses = false → ∃ t, exec (.tlbinvRegister dev pid) s = .next t ∧ t.mem = at_.mem ∧ t.part = { at_.part with tlbinv := false }
         ∧ ∀ c ∈ t.allCores, c.dev = at_.part.dev → ∀ e ∈ c.tlb, e.pid = at_.part.pid → 2 ^ 48 ≤ e.page)
     ∧ (at_.part.tlbinv = true → uses = true → exec (.tlbinvRegister dev pid) s = .next s))
  ∧ (∀ block va p, let checks := fun (s : State) => s.thr.status = .parked va ∧ s.thr.due = none ∧ s.running = true ∧ s.parksOn page s.thr = true ∧ s.promoted.find? (fun p => p.page = page) = some p
        ∧ block < 16 ∧ block ∉ p.checked ∧ p.refetch = false
     let good := fun (s : State) => crc64 (Mem.read s.mem (page * 2 ^ 16 + 4096 * block) 4096) = p.tags.getD block 0
     let failed := fun (s : State) => s.tagFailed (page * 2 ^ 16 + 4096 * block)
     let quiet := fun (s : State) => s.grp.shadow = 0 ∧ (∀ a ∈ s.inflight, a.t.gid ≠ s.grp.gid) ∧ (∀ t ∈ s.groupThreads s.grp.gid, t.region = none) ∧ s.grp.foreignBytes = []
     let rest := p.bad.filter (fun b => b ≠ block)
     Happens (.integrityCheck k page block) s (s.focus k) (fun s => checks s ∧ good s)
       (fun s t => t.mem = s.mem ∧ t.thr = s.thr.retry s.dev.clk ∧ ∃ q ∈ t.promoted, q = { p with checked := block :: p.checked, bad := rest })
     ∧ Happens (.integrityCheck k page block) s (s.focus k) (fun s => checks s ∧ ¬ good s ∧ failed s = false ∧ quiet s)
       (fun s t => t.mem = s.mem ∧ ∃ q ∈ t.promoted, q = { p with bad := block :: rest, refetch := true })
     ∧ Happens (.integrityCheck k page block) s (s.focus k) (fun s => checks s ∧ ¬ good s ∧ failed s = true ∧ quiet s ∧ s.grp.seq = 0xFFFFFFFF)
       (fun _ t => t.grp = Group.none ∧ t.lau.failed = true))
  ∧ (∀ bytes p, s.promoted.find? (fun p => p.page = page) = some p → p.refetch = true → ∃ t, exec (.pageRefetch page bytes) s = .next t
      ∧ (∃ q ∈ t.promoted, q = { p with refetch := false, checked := [] }) ∧ ((∀ va, s.thr.status ≠ .parked va) → t.thr = s.thr)
      ∧ (∀ a, (a < page * 2 ^ 16 ∨ page * 2 ^ 16 + 2 ^ 16 ≤ a) → Mem.get t.mem a = Mem.get s.mem a)
      ∧ (∀ o v, o < 2 ^ 16 → (o, v) ∈ bytes → (∀ w, (o, w) ∈ bytes → w = v) → Mem.get t.mem (page * 2 ^ 16 + o) = v)
      ∧ (∀ o < 2 ^ 16, (∀ w, (o, w) ∉ bytes) → Mem.get t.mem (page * 2 ^ 16 + o) = 0))

/-! ## Events of the engines (chapters 12, 13, 20) -/

/-- R149, R168, R178 to R187, R192, R196 to R199, R201, R203: a job that may run moves its bytes as its box says and is complete at its event, adding its bytes to its sync word; an array command reaches the array and leaves the queue; a follow-on takes its place; a failed job's trap goes
to a live thread of its group, and a failed epilogue store makes its pair Faulted. Which event happens next is the model's input (notes/assumptions/3.md). -/
def Obligations.EngineJobEvents : Prop := ∀ (dev core id : Nat) (s : State),
  let jobDoes := fun (i : Instr) (due : Job → State → Prop) (P : Job → State → State → Prop) =>
    ∀ j s1, s.focusJob dev core id = some (j, s1) → due j s1 → ∃ t, exec i s = .next t ∧ P j s1 t
  let gone := fun (t : State) => ∀ i ∈ t.core.jobs, i.id ≠ id
  let moved := fun (t : State) => ∃ i ∈ t.core.jobs, i.id = id ∧ i.moved = true
  let noSwap := fun (s : State) => ∀ u ∈ s.allThreads, ∀ p b, u.status ≠ .waiting (.aswap p b)
  let starts := fun (j : Job) (s : State) => s.mayRun j = true ∧ j.moved = false
  let start := jobDoes (.engineJobStart dev core id)
  (∀ src dst e0 e1 e2 e3 fmt zpv whole l, start (fun j s => starts j s ∧ j.kind = .copy src dst e0 e1 e2 e3 fmt zpv whole ∧ (dst.space = .global ∨ dst.space = .scratch) ∧ src.space ≠ .global
      ∧ collect (s.boxRead j src whole e0 e1 e2) (s.boxPlace dst e0 e1 e2) (e0 * e1 * e2 * e3) 0 = (l, none) ∧ s.partialPoison (memCells l) = false) (fun _ _ t => moved t))
  ∧ (∀ a b n fmt zpv whole, start (fun j s => starts j s ∧ j.kind = .copy ⟨.scratch, a, 0, 0, 0, 0⟩ ⟨.scratch, b, 0, 0, 0, 0⟩ n 1 1 1 fmt zpv whole ∧ s.grp.gid = j.gid ∧ 0 < n)
      (fun _ s t => moved t ∧ t.mem = s.mem ∧ Written b (Mem.read s.grp.scratch a n) s.grp.scratch t.grp.scratch))
  ∧ (∀ src dst n rows fmt zpv whole, start (fun j s => starts j s ∧ j.kind = .copy src dst n rows 1 1 fmt zpv whole ∧ src.space = .scratch ∧ (∃ m, dst.space = .macro_ m ∧ m < s.core.macros.length) ∧ 0 < n ∧ 0 < rows
        ∧ s.grp.gid = j.gid ∧ s.grp.placed = true ∧ s.grp.dev = s.core.dev ∧ s.grp.core = s.core.num ∧ ((s.core.tile dst.space).claim = 0 ∨ (s.core.tile dst.space).claim = j.gid))
      (fun j s t => moved t ∧ t.mem = s.mem ∧ (t.core.tile dst.space).fmt = some fmt ∧ (t.core.tile dst.space).claim = j.gid))
  ∧ (∀ table stride rb n list dst l, start (fun j s => starts j s ∧ j.kind = .gather table stride rb n list dst
      ∧ gatherRows s j table stride rb dst ((List.range n).map (fun k => (k, ofBytes (s.jobScratch j (list + 4 * k) 4)))) = (l, none)) (fun _ _ t => moved t))
  ∧ (∀ p both, start (fun j s => starts j s ∧ j.kind = .accz p both ∧ (s.core.pair p).owner = j.gid ∧ p < s.core.pairs.length ∧ noSwap s)
      (fun _ s t => gone t ∧ t.mem = s.mem ∧ (t.core.pair p).working = ⟨0, []⟩ ∧ (t.core.pair p).sat = false ∧ (t.core.pair p).visible = (if both then ⟨0, []⟩ else (s.core.pair p).visible)))
  ∧ (∀ n rows, start (fun j s => starts j s ∧ j.kind = .hada n rows) (fun _ s t => gone t ∧ t.mem = s.mem ∧ t.core.macros = s.core.macros ∧ t.core.rowbuf.fmt = s.core.rowbuf.fmt))
  ∧ (∀ acc mask rows zero, start (fun j s => starts j s ∧ j.kind = .mmac acc mask rows zero ∧ j.cast.length < rows)
      (fun _ s t => t = s.updJob id (fun j => { j with cast := j.cast ++ [s.core.rowbuf.castRow j.cast.length] })))
  ∧ (∀ acc mask rows zero, jobDoes (.arrayDrain dev core id) (fun j s => s.mayRun j = true ∧ j.kind = .mmac acc mask rows zero ∧ j.cast.length = rows ∧ noSwap s)
      (fun j s t => gone t ∧ t.mem = s.mem ∧ t.core.macros = s.core.macros ∧ t.core.rowbuf = s.core.rowbuf
        ∧ ∀ p, p ∉ s.core.proj.outPairs (s.pairNo j.gid) acc mask → (∀ h ∈ halves ((s.core.proj.bfmt mask).getD 0) acc (maskList mask), s.pairNo j.gid h.2.2.1 ≠ p) → t.core.pair p = s.core.pair p))
  ∧ (∀ w, jobDoes (.followOnIssue dev core id) (fun j _ => j.fo = some w ∧ j.moved = true ∧ j.foDone = false)
      (fun j s t => t.mem = s.mem ∧ t.grp = s.grp ∧ ∃ f, t.core = { s.core with jobs := s.core.jobs.flatMap (fun i => if i.id = j.id then [{ i with foDone := true }, f] else [i]) }
        ∧ f.id = j.id + 1 ∧ f.kind = .mmac (litAcc w) (litMask w) (litRows w) (litZero w) ∧ f.nbv = j.nbv ∧ f.count = none ∧ f.guard = none ∧ f.freed = true))
  ∧ (let ends := fun (j : Job) => j.moved = true ∧ j.foDone = true ∧ j.failed = none ∧ j.resent = false ∧ ∀ r l d, j.kind ≠ .ccopy r l d
     jobDoes (.engineJobComplete dev core id) (fun j _ => ends j ∧ j.count = none) (fun _ s t => gone t ∧ t.mem = s.mem ∧ t.part = s.part ∧ t.grp.scratch = s.grp.scratch)
     ∧ (∀ off, jobDoes (.engineJobComplete dev core id) (fun j s => ends j ∧ j.count = some off ∧ s.grp.gid = j.gid ∧ s.grp.phases = j.phase)
       (fun j s t => gone t ∧ t.mem = s.mem ∧ t.syncWord (.scratch j.gid off) = ((s.syncWord (.scratch j.gid off)).apply (s.syncHeld (.scratch j.gid off)) j.bytes false).1)))
  ∧ (∀ c d u, jobDoes (.engineJobFail dev core id) (fun j s => j.failed = some (c, d) ∧ j.seqr = none ∧ s.twins j = [] ∧ (∀ p t b sp st r c sc bk, j.kind ≠ .accst p t b sp st r c sc bk) ∧ (∀ r l d, j.kind ≠ .ccopy r l d)
        ∧ s.jobVictim j = some u ∧ u.jobTrap = none ∧ u.status = .ready)
      (fun _ s t => gone t ∧ t.mem = s.mem ∧ { u with jobTrap := some (c, d) } ∈ t.allThreads))
  ∧ (∀ p t base sp st r c sc bk l, jobDoes (.epilogueStoreTranslated dev core id)
      (fun j s => starts j s ∧ j.kind = .accst p t base sp st r c sc bk ∧ s.storeCells j t base sp st r c sc bk = (l, none) ∧ s.partialPoison (memCells l) = false ∧ noSwap s ∧ p < s.core.pairs.length ∧ s.grp.phase ≠ .rollingBack)
      (fun j s u => moved u ∧ (u.core.pair p).holds = (s.core.pair p).holds.filter (fun h => h ≠ j.id) ∧ (u.core.pair p).visible = (s.core.pair p).visible))
  ∧ (∀ p t base sp st r c sc bk f, jobDoes (.epilogueStoreFault dev core id)
      (fun j s => j.kind = .accst p t base sp st r c sc bk ∧ j.failed = some f ∧ (s.core.pair p).owner = j.gid ∧ noSwap s ∧ p < s.core.pairs.length ∧ (s.group? j.gid).any (fun g => g.phase = .rollingBack) = false)
      (fun j s u => gone u ∧ u.mem = s.mem ∧ (u.core.pair p).fault = some f ∧ (u.core.pair p).holds = (s.core.pair p).holds.filter (fun h => h ≠ j.id)))

/-- R123, R187 to R189, R193, R194, R205, R206, R293: a sequencer issues its next descriptor, waits on a sync word, or stops with a status; a waiting `acca` or `fork` receives its pairs or sequencer in arrival order; a thread waiting for queue space issues again; a packet of a transfer writes
its bytes at the destination, and the last one ends the transfer. Which event happens next is the model's input (notes/assumptions/3.md). -/
def Obligations.SequencerAndGrantEvents : Prop := ∀ (dev core sq : Nat) (k : ThreadKey) (s : State),
  let place := some ((s.checkoutCore dev core).checkoutDev dev)
  (let descriptor := fun (s s1 : State) (kind : Nat) => let q := s.core.seqrs.getD sq Sequencer.free
     q.gid ≠ 0 ∧ q.stopped = false ∧ s.focusGroup q.gid = some s1 ∧ s1.core = s.core ∧ s1.grp.gid = q.gid ∧ s1.running = true ∧ q.list + 128 * q.idx + 128 ≤ s1.grp.scratchSize
       ∧ Mem.nat s1.grp.scratch (q.list + 128 * q.idx) 1 = kind ∧ Mem.nat s1.grp.scratch (q.list + 128 * q.idx + 2) 2 = 0
       ∧ (∀ i, 72 ≤ i → i < 128 → Mem.get s1.grp.scratch (q.list + 128 * q.idx + i) = 0) ∧ sq < s.core.seqrs.length
   ∀ s2, Happens (.sequencerDescriptorIssue dev core sq) s place (fun s => descriptor s s2 0 ∧ ∀ i, 24 ≤ i → i < 64 → Mem.get s2.grp.scratch ((s.core.seqrs.getD sq Sequencer.free).list + 128 * (s.core.seqrs.getD sq Sequencer.free).idx + i) = 0)
      (fun s t => t.mem = s2.mem ∧ let q := s.core.seqrs.getD sq Sequencer.free
        t.core.seqrs.getD sq Sequencer.free = { q with stopped := true, status := BitVec.ofNat 32 (q.idx * 2 ^ 16) })
   ∧ Happens (.sequencerDescriptorIssue dev core sq) s place
      (fun s => descriptor s s2 4 ∧ let q := s.core.seqrs.getD sq Sequencer.free
        let o := q.list + 128 * q.idx
        let w := Mem.nat s2.grp.scratch (o + 24) 4
        (∀ i, 32 ≤ i → i < 64 → Mem.get s2.grp.scratch (o + i) = 0) ∧ w % 16 = 0 ∧ w + 16 ≤ s2.grp.scratchSize
          ∧ passed (BitVec.ofNat 32 (s2.syncWord (.scratch q.gid w)).gen) (BitVec.ofNat 32 (Mem.nat s2.grp.scratch (o + 28) 4)) = true)
      (fun s t => t.mem = s2.mem ∧ let q := s.core.seqrs.getD sq Sequencer.free
        t.core.seqrs.getD sq Sequencer.free = { q with idx := q.idx + 1 } ∧ t.core.jobs = s.core.jobs)
   ∧ (∀ m dst0 src0 ws, Happens (.sequencerDescriptorIssue dev core sq) s place
      (fun s => descriptor s s2 1 ∧ let q := s.core.seqrs.getD sq Sequencer.free
        let o := q.list + 128 * q.idx
        m = Mem.nat s2.grp.scratch (o + 1) 1 ∧ src0 = Mem.nat s2.grp.scratch (o + 8) 8 ∧ dst0 = Mem.nat s2.grp.scratch (o + 16) 8
          ∧ ws = (List.range 10).map (fun i => BitVec.ofNat 32 (Mem.nat s2.grp.scratch (o + 24 + 4 * i) 4)) ∧ (s2.planCopy m src0 dst0 ws none).1 = []
          ∧ (s2.planCopy m src0 dst0 ws none).2.guard = none ∧ s.core.full = false
          ∧ (field m 1 0 < 2 → field m 7 6 = 0) ∧ (field m 1 0 ≠ 2 → field m 5 3 = 0) ∧ s2.stored ⟨q.gid, q.tid⟩ = true)
      (fun s t => t.mem = s2.mem ∧ let q := s.core.seqrs.getD sq Sequencer.free
        t.core.seqrs.getD sq Sequencer.free = { q with idx := q.idx + 1 }
          ∧ t.core.jobs = s.core.jobs ++ [{ (s2.planCopy m src0 dst0 ws none).2 with tid := q.tid, seqr := some (sq, q.idx) }])))
  ∧ (∀ key rest n dst p s2, Happens (.accaGrant dev core) s place
      (fun s => s.core.accaQ = key :: rest ∧ s.focus key = some s2 ∧ s2.thr.status = .waiting (.acca n dst) ∧ s2.running = true ∧ s2.loggedTicket = none ∧ s2.grp.tickets.length + (s2.tickets.filter (fun t => t.t.gid = s2.grp.gid)).length < 16
        ∧ s2.core.pairs.length = 8 ∧ p + n ≤ 8 ∧ s2.core.runFree p n = true ∧ (∀ r < p, s2.core.runFree r n = false) ∧ p < 8)
      (fun _ t => t.mem = s2.mem ∧ t.thr.status = .ready ∧ t.thr.pc = s2.thr.npc ∧ Wrote dst [BitVec.ofNat 32 p] s2 t ∧ SameFlags s2 t ∧ t.core.accaQ = rest
        ∧ ∀ i < n, t.core.pair (p + i) = { AccPair.free with owner := s2.grp.gid }))
  ∧ (∀ key rest list dst q s2, Happens (.sequencerGrant dev core) s place
      (fun s => s.core.forkQ = key :: rest ∧ s.focus key = some s2 ∧ s2.thr.status = .waiting (.fork list dst) ∧ s2.running = true ∧ s2.core.freeSeqr = some q ∧ q < s2.core.seqrs.length)
      (fun _ t => t.mem = s2.mem ∧ t.thr.status = .ready ∧ t.thr.pc = s2.thr.npc ∧ Wrote dst [BitVec.ofNat 32 q] s2 t ∧ SameFlags s2 t ∧ t.core.forkQ = rest
        ∧ t.core.seqrs.getD q Sequencer.free = { gid := s2.grp.gid, tid := s2.thr.key.tid, list := list, idx := 0, stopped := false, status := 0 }))
  ∧ HappensWhen (.jobQueueSpace k) s (s.focus k) (fun s => s.thr.status = .waiting .engine ∧ s.thr.due = none ∧ s.core.full = false)
    (fun s t => t = { s with thr := s.thr.retry s.dev.clk })
  ∧ (∀ job packet src dst length o size j s1 l, s.focusJob dev core job = some (j, s1) → j.kind = .xfer true src dst length 0 → (packetsOf dst length 0 length)[packet]? = some (o, size) →
      s1.mayRun j = true → j.moved = false → packet ∉ j.packets → ∀ x0, s1.jobMap dst true [2] = .ok x0 → (s1.dev? (devOf x0.key)).answers = true →
      (devOf x0.key = s1.core.dev ∨ (s1.dev.forward (devOf x0.key) 0).isSome = true) →
      collect (fun i => Except.ok ((s1.jobScratch j (src + o + i) 1).headD 0)) (fun i => match s1.jobMap (dst + o + i) true [2] with
        | .error st => Except.error st
        | .ok x => if devOf x.key = devOf x0.key then .ok (Place.mem x.key (dst + o + i))
                   else .error (.fail causeRegion (addrDetail 2 (dst + o + i)))) size 0 = (l, none) → s1.partialPoison (memCells l) = false →
      ∃ t, exec (.xferPacketArrival dev core job packet) s = .next t ∧ ∃ i ∈ t.core.jobs, i.id = job ∧ i.packets = packet :: j.packets
        ∧ (i.moved = true ↔ ∀ n < (packetsOf dst length 0 length).length, n = packet ∨ n ∈ j.packets))

/-! ## Events of the fabric (chapters 10, 17, 20) -/

/-- R142, R147, R150, R168, R171, R248, R287, R288, R291, R292, R295: a remote load, store, atomic or sync-word operation performs at its destination where a route leads there and its waiting thread goes on, and one that the destination refuses makes REGION due at the access; one unanswered for 50 µs counts as an error consumed; a flush
marker is gathered behind its path's packets; a replayed flit is reported and changes nothing else; an ended launch's stamps are cleared before its tags are free; a route entry is written with the reserved bits of its candidates zero. Which event happens next is the model's input (notes/assumptions/3.md). -/
def Obligations.RemoteAccessEvents : Prop := ∀ (serial : Nat) (k : ThreadKey) (dst path port lid dev : Nat) (entry : Word) (s : State),
  (∀ a s1, s.inflight.find? (fun a => a.serial = serial && a.remote) = some a → s.reaches a = true → (s.dev? a.dst).ckState ≠ 2 → s.mayPerform a = true → s.focus a.t = some s1 →
    let done := fun (t : State) => t.inflight = s1.inflight.filter (fun b => b.serial ≠ serial)
    let resumed := fun (t : State) => a.waits = true → s1.thr.status = .waiting (.remote serial) → t.thr.status = .ready ∧ t.thr.pc = s1.thr.npc
    let goes := a.refused = false ∧ (∃ s2, s1.raceRemote a = .ok s2) ∧ (a.kind.isStore = false → s1.tagBad a.key = false)
    let finds := fun (vals : List Word) (t : State) => ∀ p ∈ s1.thr.pend, p.serial = serial → { p with vals := vals, fp := 0 } ∈ t.thr.pend
    (∀ size sx, goes → a.kind = .load size sx → s1.poisoned a.key size = false →
      let v := ofBytes (s1.accessBytes a size)
      ∃ t, exec (.remoteAccessArrival serial) s = .next t ∧ done t ∧ resumed t ∧ t.mem = s1.mem ∧ SameRegs s1 t
        ∧ finds (words ((size + 3) / 4) (if sx then wrapInt 32 (sint (8 * size) v) else v)) t)
    ∧ (∀ size v, goes → a.kind = .store size v → s1.poisoned a.key size = false →
      ∃ t, exec (.remoteAccessArrival serial) s = .next t ∧ done t ∧ Written a.key (toBytes size v) s1.mem t.mem ∧ SameRegs s1 t)
    ∧ (∀ op ty b cmp, goes → a.kind = .atomic op ty b cmp → s1.poisoned a.key (atomicSize ty) = false →
      ∃ t, exec (.remoteAccessArrival serial) s = .next t ∧ done t ∧ SameRegs s1 t
        ∧ Written a.key (toBytes (atomicSize ty) (atomicNew op ty (ofBytes (s1.groupBytes a.t.gid a.key (atomicSize ty))) b cmp).1) s1.mem t.mem)
    ∧ (∀ bytes thread, goes → a.kind = .sync (.arrive bytes thread) → s1.poisoned a.key 16 = false →
      ∃ t, exec (.remoteAccessArrival serial) s = .next t ∧ done t ∧ WordOnly (.mem a.key) s1 t ∧ t.syncWord (.mem a.key) = ((s1.syncWord (.mem a.key)).apply (s1.syncHeld (.mem a.key)) bytes thread).1)
    ∧ (∀ gen, goes → a.kind = .sync (.await gen) → s1.poisoned a.key 16 = false → s1.thr.status = .waiting (.remote serial) →
      ∃ t, exec (.remoteAccessArrival serial) s = .next t ∧ done t ∧ t.mem = s1.mem ∧ SameRegs s1 t
        ∧ (if passed (BitVec.ofNat 32 (s1.syncWord (.mem a.key)).gen) gen then t.thr.status = .ready ∧ t.thr.pc = s1.thr.npc else t.thr.status = .waiting (.sync (.mem a.key) gen)))
    ∧ (∀ gen, goes → a.kind = .sync (.poll gen) → s1.poisoned a.key 16 = false →
      ∃ t, exec (.remoteAccessArrival serial) s = .next t ∧ done t ∧ t.mem = s1.mem ∧ SameRegs s1 t ∧ finds [BitVec.ofNat 32 (s1.syncWord (.mem a.key)).gen] t)
    ∧ (a.refused = true → ∃ t, exec (.remoteAccessArrival serial) s = .next t ∧ done t ∧ t.mem = s1.mem ∧ SameRegs s1 t
        ∧ t.thr.due = some (causeRegion, addrDetail 2 a.va) ∧ ∀ p ∈ t.thr.pend, p.serial ≠ serial))
  ∧ (∀ a, s.inflight.find? (fun a => a.serial = serial && a.remote) = some a → a.sentAt + 50000 ≤ s.now → (a.refused = true ∨ s.mayPerform a = false ∨ s.reaches a = false) →
      let s2 : State := { s with drawn := s.drawn + 1, inflight := s.inflight.filter (fun b => b.serial ≠ serial) }
      (s2.focus a.t = none → exec (.remoteAccessTimeout serial) s = .next s2)
      ∧ (∀ s3, s2.focus a.t = some s3 → (s3.grp.phase = .running ∨ s3.grp.phase = .closing ∨ s3.grp.phase = .audited) → (∀ b ∈ s3.inflight, b.t.gid ≠ s3.grp.gid) →
          (∀ u ∈ s3.groupThreads s3.grp.gid, u.region = none) → s3.grp.foreignBytes = [] → s3.grp.gid ≠ 0 →
          s3.grp.shadow = 0 → (∀ g ∈ s3.shadowsOf s3.grp.gid, g.gid ≠ s3.grp.gid) → s3.core.storeHolds s3.grp.gid = false →
          ∃ t, exec (.remoteAccessTimeout serial) s = .next t ∧ t.mem = s3.mem
            ∧ (if s3.grp.early = true ∨ 3 ≤ s3.grp.attempt then t.grp = Group.none ∧ t.lau.failed = true else t.grp.phase = .queued ∧ t.grp.attempt = s3.grp.attempt + 1 ∧ t.grp.staged = [])))
  ∧ HappensWhen (.flushMarker k dst path) s (s.focus k)
    (fun s => s.thr.status = .waiting .resource ∧ (s.dev? dst).answers = true ∧ s.dev.answers = true ∧ (dst = s.grp.dev ∨ (s.dev.forward dst path).isSome = true)
      ∧ ∃ n ms, s.thr.markers = some (n, ms) ∧ (dst, path) ∈ ms
        ∧ ∀ a ∈ s.inflight, a.remote = true → a.src = s.grp.dev * 192 + s.grp.core → a.dst = dst → a.path = path → n < a.serial)
    (fun s t => ∀ n ms, s.thr.markers = some (n, ms) → let left := ms.filter (fun m => m ≠ (dst, path))
      t = { s with core := t.core, thr := { (if left = [] then s.thr.retry s.dev.clk else s.thr) with markers := some (n, left) } }
        ∧ t.core = { s.core with used := t.core.used } ∧ ∀ m ∈ t.core.used, m ∈ s.core.used)
  ∧ Happens (.flitReplay dev port) s (some (s.checkoutDev dev)) (fun s => port < 16 ∧ s.dev.answers = true)
    (fun s t => t = { s with part := t.part, parts := t.parts, out := t.out } ∧ t.out = .errCor s.dev.num 0 :: s.out)
  ∧ HappensWhen (.launchTagFree lid) s (some s) (fun s => ∃ p ∈ s.allParts, ∃ tag, (tag, lid) ∈ p.tags)
    (fun s t => t.mem = s.mem ∧ t.thr = s.thr ∧ (∀ p ∈ t.allParts, ∀ tag, (tag, lid) ∉ p.tags)
      ∧ ∀ p ∈ s.stamps, (¬ ∃ q ∈ s.allParts, ∃ tag, (tag, lid) ∈ q.tags ∧ s.ownsStamp q.dev q.pid p = true ∧ field p.2.toNat 15 8 = tag) ↔ p ∈ t.stamps)
  ∧ HappensWhen (.routeTableWrite dev dst entry) s (some (s.checkoutDev dev)) (fun _ => dst < 1024)
    (fun s t => t = { s with dev := { s.dev with routes := Bits.insert dst (entry &&& 0xF8F8F8F8) s.dev.routes } })

/-- R294 to R296, R340: a destination checks translation, class and permission, race and lock of a region's sectors in this order and locks all of them, or fails the region; with every acknowledgement in, a destination performs its sectors as one unit, and after the last of them `fcommit` completes with status 0; a failed region
writes nothing and its thread goes to the failure target with its saved registers; 50 µs without an acknowledgement fail it. Which event happens next is the model's input (notes/assumptions/3.md). -/
def Obligations.RegionEvents : Prop := ∀ (k : ThreadKey) (dst : Nat) (s : State),
  ∀ r : Region, let waits := fun (s : State) => s.thr.status = .waiting .fcommit ∧ s.thr.region = some r
  (let asked := fun (s : State) => waits s ∧ r.failed = 0 ∧ r.sent = false ∧ s.regionOf dst ≠ [] ∧ dst ∉ r.acks ∧ (s.dev? dst).answers = true ∧ s.dev.answers = true
     ∧ (dst = s.grp.dev ∨ (s.dev.forward dst 0).isSome = true)
   let lost := fun (s : State) => (s.dev? dst).ckState = 2
   let cls := fun (s : State) => ∃ b ∈ s.regionOf dst, s.regionDenied dst b = true
   let race := fun (s : State) => ∃ b ∈ s.regionOf dst, b.plain = true ∧ s.regionRace b = true
   let lock := fun (s : State) => ∃ b ∈ s.regionOf dst, ∃ l ∈ s.locks, l.1 = b.sector ∧ l.2 ≠ s.thr.key
   let fails := fun (due : State → Prop) (status : Nat) => Happens (.fcommitPrepare k dst) s (s.focus k) (fun s => asked s ∧ due s)
     (fun s t => t = { s with thr := { s.thr with region := some { r with failed := status } } })
   fails lost 3 ∧ fails (fun s => ¬ lost s ∧ cls s) 4 ∧ fails (fun s => ¬ lost s ∧ ¬ cls s ∧ race s) 6 ∧ fails (fun s => ¬ lost s ∧ ¬ cls s ∧ ¬ race s ∧ lock s) 1
   ∧ Happens (.fcommitPrepare k dst) s (s.focus k) (fun s => asked s ∧ ¬ lost s ∧ ¬ cls s ∧ ¬ race s ∧ ¬ lock s ∧ ∀ b ∈ s.regionOf dst, s.regionPoison b = false)
     (fun s t => t = { s with locks := s.locks ++ (s.regionOf dst).map (fun b => (b.sector, s.thr.key)), thr := { s.thr with region := some { r with acks := r.acks ++ [dst] } } }))
  ∧ Happens (.fcommitCommit k) s (s.focus k)
    (fun s => waits s ∧ r.failed = 0 ∧ r.acks = [dst] ∧ (∀ d ∈ s.regionDests, d = dst) ∧ s.grp.log.length < 256
      ∧ ((s.regionOf dst).flatMap (fun b => b.bytes.map (fun p => (64 * b.sector + p.1, p.2)))).Pairwise (fun p q => p.1 ≠ q.1))
    (fun s t => t.thr.status = .ready ∧ t.thr.pc = s.thr.npc ∧ t.thr.region = none ∧ SameRegs s t ∧ SameFlags s t ∧ (∀ b ∈ t.core.comb, b.t ≠ s.thr.key) ∧ (∀ l ∈ t.locks, l.2 ≠ s.thr.key)
      ∧ t.grp.log = s.grp.log ++ [⟨s.thr.key.tid, fcommitOp, 0, [], [0], 0⟩]
      ∧ (let cells := (s.regionOf dst).flatMap (fun b => b.bytes.map (fun p => (64 * b.sector + p.1, p.2)))
         (∀ c ∈ cells, Mem.get t.mem c.1 = c.2) ∧ ∀ a, (∀ c ∈ cells, c.1 ≠ a) → Mem.get t.mem a = Mem.get s.mem a))
  ∧ Happens (.fcommitAbort k) s (s.focus k)
    (fun s => waits s ∧ r.failed ≠ 0 ∧ r.sent = false ∧ s.grp.log.length < 256 ∧ (∀ p ∈ r.saved, p.1 < 192) ∧ r.saved.Pairwise (fun p q => p.1 < q.1))
    (fun s t => t.mem = s.mem ∧ t.thr.status = .ready ∧ t.thr.pc = r.target ∧ t.thr.region = none ∧ SameFlags s t ∧ (∀ b ∈ t.core.comb, b.t ≠ s.thr.key) ∧ (∀ l ∈ t.locks, l.2 ≠ s.thr.key)
      ∧ ∀ (n : Nat) (h : n < 200), t.thr.regs[n] = if n = 4 then BitVec.ofNat 32 r.failed else (lookup n r.saved).getD s.thr.regs[n])
  ∧ Happens (.fcommitTimeout k) s (s.focus k)
    (fun s => waits s ∧ r.failed = 0 ∧ r.sent = false ∧ r.since + 50000 ≤ s.now ∧ ∃ d ∈ s.regionDests, d ∉ r.acks)
    (fun s t => t = { s with thr := { s.thr with region := some { r with failed := 3 } } })

/-- R297 to R306: a contribution opens a reduction or joins it, and a disagreeing one discards it with status 3; a late reduction is discarded with status 1, and a failed view's with status 2; a core processes a census once and notes its number; the reply unit combines each reply; a census
that is over writes its buffer and arrives at its word. Which event happens next is the model's input (notes/assumptions/3.md). -/
def Obligations.ReductionAndCensusEvents : Prop := ∀ (serial : Nat) (dev census core : Nat) (id view seq : Word) (s : State),
  (∀ c, s.contributions.find? (fun c => c.serial = serial) = some c →
    let s1 := s.checkoutDev c.dev
    let opened := s1.dev.reductions.filter (fun r => r.dead.isNone)
    let answered := fun (t : State) (st : Nat) => ∀ u ∈ s1.allThreads, u.key = c.t → u.status = .waiting (.fred serial) → ∃ v ∈ t.allThreads, v.key = u.key ∧ v.status = .ready ∧ v.pc = u.npc
      ∧ ∀ (n : Nat) (h : n < 200), v.regs[n] = if n = c.dst.toNat then BitVec.ofNat 32 st else u.regs[n]
    let gone := fun (t : State) => t.mem = s1.mem ∧ t.contributions = s1.contributions.filter (fun x => x.serial ≠ c.serial)
    s1.fredReaches c = true → (∀ r ∈ s1.dev.reductions, r.owes c = false) →
    (s1.dev.ckState = 2 → ∀ e, ∃ t, exec (.fredContribution serial e) s = .next t ∧ gone t ∧ answered t 4)
    ∧ (s1.dev.ckState ≠ 2 → (c.seq, c.view) ∈ s1.failedViews → ∀ e, ∃ t, exec (.fredContribution serial e) s = .next t ∧ gone t ∧ answered t 2)
    ∧ (s1.dev.ckState ≠ 2 → (c.seq, c.view) ∉ s1.failedViews → (∀ r ∈ opened, r.of c = false) →
        (256 ≤ opened.length → ∀ e, ∃ t, exec (.fredContribution serial e) s = .next t ∧ gone t ∧ answered t 5)
        ∧ (opened.length < 256 → ∃ t, exec (.fredContribution serial false) s = .next t ∧ gone t ∧ t.thr = s1.thr
            ∧ t.dev.reductions = s1.dev.reductions ++ [{ dev := s1.dev.num, since := s1.now, parts := [c], dead := none }]))
    ∧ (∀ r, s1.dev.ckState ≠ 2 → (c.seq, c.view) ∉ s1.failedViews → opened.find? (fun r => r.of c) = some r → (∀ p ∈ r.parts, p.serial ≠ serial) →
        let bad := ∃ p ∈ r.parts, p.agrees c = false ∨ p.index = c.index
        (bad → ∀ e, ∃ t, exec (.fredContribution serial e) s = .next t ∧ gone t ∧ r ∉ t.dev.reductions ∧ answered t 3)
        ∧ (¬ bad → ({ r with parts := r.parts ++ [c] } : Reduction).full = false → ∃ t, exec (.fredContribution serial false) s = .next t ∧ gone t ∧ { r with parts := r.parts ++ [c] } ∈ t.dev.reductions)
        ∧ (¬ bad → ({ r with parts := r.parts ++ [c] } : Reduction).full = true → c.arrival = none → (∀ p ∈ c.parts, s1.lockedIn p.1 p.2 = false) →
            let cells := cellsOf c.parts (fredResult (r.parts ++ [c]) c)
            cells.Pairwise (fun p q => p.1 ≠ q.1) → ∃ t, exec (.fredContribution serial false) s = .next t
            ∧ (∀ x ∈ cells, Mem.get t.mem x.1 = x.2) ∧ (∀ a, (∀ x ∈ cells, x.1 ≠ a) → Mem.get t.mem a = Mem.get s1.mem a) ∧ r ∉ t.dev.reductions ∧ answered t 0)))
  ∧ (∀ r, (s.checkoutDev dev).dev.reductions.find? (fun r => r.dead.isNone && r.parts.any (fun p => p.id = id && p.view = view) && decide (r.since + 200000 ≤ (s.checkoutDev dev).now)) = some r →
      ∃ t, exec (.reductionTimeout dev id view) s = .next t ∧ t.mem = s.mem ∧ r ∉ t.dev.reductions
        ∧ ∀ c ∈ r.parts, ∀ u ∈ (s.checkoutDev dev).allThreads, u.key = c.t → u.status = .waiting (.fred c.serial) → ∃ v ∈ t.allThreads, v.key = u.key ∧ v.status = .ready ∧ v.pc = u.npc)
  ∧ HappensWhen (.viewFailureAnnouncement seq view) s (some s) (fun s => s.viewGone seq view = true ∧ (seq, view) ∉ s.failedViews)
    (fun s t => t.mem = s.mem ∧ t.failedViews = (seq, view) :: s.failedViews)
  ∧ (∀ c, s.censuses.find? (fun c => c.id = census) = some c →
      (let s1 := (((s.checkoutCore (core / 192) (core % 192)).checkoutDev (core / 192)).checkoutPart (core / 192) c.pid)
       core ∈ c.todo → s1.part.pstat = 0 → s1.part.broken = false → s1.dev.answers = true → (∀ a ∈ s1.censuses, a.precedes c s1.core.dev s1.core.num = false) →
       ∃ t, exec (.censusStart census core) s = .next t ∧ ((∀ d ∈ s1.core.dirs, d.pid = c.pid → d.key = c.key → d.answers c.number c.scope = false) → t.mem = s.mem) ∧ t.core.seenNo c.pid c.scope = c.number ∧ ∀ d ∈ t.censuses, d.id = census → core ∉ d.todo)
      ∧ (∀ g, let s1 := s.checkoutDev c.dev
         s1.censusLost c = false → c.todo = [] → c.finished = c.spawned → (∀ r ∈ s1.replies, r.census ≠ c.id) → s1.group? c.gid = some g → (c.word + 16 ≤ c.buf ∨ c.buf + 32 ≤ c.word) →
         ∃ t, exec (.censusComplete census) s = .next t ∧ t.mem = s1.mem ∧ t.censuses = s1.censuses.filter (fun x => x.id ≠ c.id)
           ∧ ∃ h, t.group? c.gid = some h ∧ Mem.read h.scratch c.buf 32 = c.buffer (if c.overflow then 1 else 0)))
  ∧ (∀ r, s.replies.find? (fun r => r.serial = serial) = some r →
      exec (.replyArrival serial) s = .next { s with replies := s.replies.filter (fun q => q.serial ≠ serial), censuses := s.censuses.map (fun c => if c.id = r.census then c.take r else c) })

/-- R237, R242, R252: the background walker drops one reference of each child of a freed interior line, once; a slot is free once its line is freed and, for an interior line, walked; a region is not disabled while it holds lines; disabling a prefix table empties it and drops its references. Which event happens next is the model's input (notes/assumptions/3.md). -/
def Obligations.ContentEvents : Prop := ∀ (dev pid region slot table : Nat) (s : State),
  let place := if pid < 32 then some (s.focusPart dev pid) else none
  (∀ l, Happens (.backgroundWalker dev pid) s place (fun s => s.part.lines.find? (fun l => l.freed && l.interior && !l.walked) = some l)
    (fun s t => t = { s with part := (lineChildren l.bytes).foldl Part.decr { s.part with lines := s.part.lines.map (fun m => if m = l then { m with walked := true } else m) } }))
  ∧ (let free := fun (l : ContentLine) => l.region = region ∧ l.slot = slot ∧ l.freed = true ∧ (l.interior = true → l.walked = true)
     HappensWhen (.slotFree dev pid region slot) s place (fun s => ∃ l ∈ s.part.lines, free l)
      (fun s t => t.mem = s.mem ∧ ∀ l, l ∈ t.part.lines ↔ l ∈ s.part.lines ∧ ¬ free l))
  ∧ (∀ on, HappensWhen (.contentRegionEnable dev pid region on) s place (fun s => region < 16 ∧ (on = true ∨ s.part.used region = 0))
      (fun s t => t.mem = s.mem ∧ t.part.lines = s.part.lines ∧ t.part.region region = { s.part.region region with ctl := if on then 0x80000000 else 0 }
        ∧ ∀ r, r ≠ region → t.part.region r = s.part.region r))
  ∧ HappensWhen (.prefixTableEnable dev pid table true) s place (fun _ => table < 16)
    (fun s t => t.mem = s.mem ∧ t.part.lines = s.part.lines ∧ t.part.table table = { s.part.table table with enabled := true } ∧ ∀ r, r ≠ table → t.part.table r = s.part.table r)
  ∧ HappensWhen (.prefixTableEnable dev pid table false) s place (fun _ => table < 16)
    (fun s t => t.mem = s.mem ∧ t.part.lines = ((s.part.table table).entries.foldl (fun p e => p.decr e.root) s.part).lines ∧ t.part.table table = { enabled := false, entries := [] }
      ∧ ∀ r, r ≠ table → t.part.table r = s.part.table r)

/-! ## Events of launches (chapter 16) -/

/-- R226, R229, R230, R314, R316, R338: a doorbell sets the tail, or the error where it passes the queue's size or moves backward; QCTL's bits act; a reset completes the launches that wait with status 2 and empties the queue; the entry at the head is accepted with its journal entry, and its launch waits, or is
completed with status 4 or 1; device firmware's own launches are privileged; a held launch starts once the count is below 4,096. Which event happens next is the model's input (notes/assumptions/3.md). -/
def Obligations.QueueEvents : Prop := ∀ (dev pid q m : Nat) (tail : Word) (on : Bool) (s : State),
  let place := if pid < 32 then some (s.focusPart dev pid) else none
  let set := fun (x : Queue) (s t : State) => t = { s with part := { s.part with queues := Bits.insert q x s.part.queues } }
  let size := fun (x : Queue) => 2 ^ (x.ctl.toNat % 32)
  let refused := fun (s : State) => let x := s.part.queue q
    size x < (tail - x.head).toNat ∨ (tail - x.tail).toInt < 0
  Happens (.queueDoorbell dev pid q tail) s place (fun s => q < 64 ∧ s.part.pstat = 0 ∧ ¬ refused s) (fun s t => set { s.part.queue q with tail := tail } s t)
  ∧ Happens (.queueDoorbell dev pid q tail) s place (fun s => q < 64 ∧ s.part.pstat = 0 ∧ refused s) (fun s t => set { s.part.queue q with ctl := (s.part.queue q).ctl ||| 0x40000000 } s t)
  ∧ Happens (.queueDoorbell dev pid q tail) s place (fun s => q < 64 ∧ s.part.pstat ≠ 0)
      (fun s t => t = { s with part := { s.part with recorded := s.part.recorded ++ [.doorbell q tail] } })
  ∧ HappensWhen (.queueEnable dev pid q on) s place (fun _ => q < 64)
      (fun s t => set { s.part.queue q with ctl := if on then (s.part.queue q).ctl ||| 0x80000000 else (s.part.queue q).ctl &&& 0x7FFFFFFF } s t)
  ∧ HappensWhen (.queueErrorClear dev pid q) s place (fun _ => q < 64) (fun s t => set { s.part.queue q with ctl := (s.part.queue q).ctl &&& 0xBFFFFFFF } s t)
  ∧ HappensWhen (.queueReset dev pid q) s place (fun _ => q < 64)
      (fun s t => t.mem = s.mem ∧ t.groups = s.groups ∧ t.part.queue q = { s.part.queue q with head := (s.part.queue q).tail, ctl := (s.part.queue q).ctl &&& 0xBFFFFFFF }
        ∧ (∀ r, r ≠ q → t.part.queue r = s.part.queue r)
        ∧ ∀ l, l.lid ≠ 0 → l ∈ s.allLaunches →
            let waits := l.dev = s.part.dev ∧ l.pid = s.part.pid ∧ (∃ e, l.source = .queue q e) ∧ (l.state = .submitted ∨ l.state = .waiting)
            (waits → l.finish 2 ∈ t.allLaunches) ∧ (¬ waits → l ∈ t.allLaunches))
  ∧ (∀ k, let ready := fun (s : State) => let x := s.part.queue q
       q < 64 ∧ x.ctl.getLsbD 31 = true ∧ x.ctl.getLsbD 30 = false ∧ x.head ≠ x.tail ∧ s.part.pstat = 0 ∧ s.part.broken = false ∧ s.dev.answers = true ∧ s.queuePlace x = some k ∧ 0 < s.nextId
     let entry := fun (s : State) => Mem.read s.mem k 64
     let rec_ := fun (s : State) => s.readRecord (natAt (entry s) 0 8)
     let new := fun (s : State) (r : List Byte) => { Launch.submitted s.part.dev s.part.pid r (BitVec.ofNat 64 (natAt (entry s) 24 8))
         (.queue q ((s.part.queue q).base.toNat + 64 * ((s.part.queue q).head.toNat % size (s.part.queue q)))) with
         lid := s.nextId, serial := BitVec.ofNat 64 (natAt (entry s) 8 8), completion := natAt (entry s) 16 8, interrupt := bit (natAt (entry s) 32 4) 0,
         number := s.part.jhead, nbv := s.part.nbv }
     let fetched := fun (s : State) => if (s.part.queue q).ctl.getLsbD 8 then s else s.visit ((s.part.queue q).base.toNat + 64 * ((s.part.queue q).head.toNat % size (s.part.queue q))) false
     let took := fun (s : State) => (fetched s).visit (natAt (entry s) 0 8) false
     let accepted := fun (read : State → State) (l : Launch) (s t : State) => t.mem = (read s).mem ∧ t.part.queue q = { s.part.queue q with head := (s.part.queue q).head + 1 }
       ∧ t.part.jhead = nextSeqno s.part.jhead ∧ { l with priority := field (l.fld 16 4) 3 0 } ∈ t.allLaunches
     (∀ r, Happens (.queueEntryAccept dev pid (.host q)) s place (fun s => ready s ∧ entryBad (entry s) = false ∧ rec_ s = some r ∧ (new s r).recordOk s.part none = true)
       (fun s t => accepted took { new s r with state := .waiting } s t))
     ∧ (∀ r, Happens (.queueEntryAccept dev pid (.host q)) s place (fun s => ready s ∧ entryBad (entry s) = false ∧ rec_ s = some r ∧ (new s r).recordOk s.part none = false)
       (fun s t => accepted took ((new s r).finish 1) s t))
     ∧ Happens (.queueEntryAccept dev pid (.host q)) s place (fun s => ready s ∧ entryBad (entry s) = false ∧ rec_ s = none)
       (fun s t => accepted fetched ((new s []).finish 1) s t)
     ∧ Happens (.queueEntryAccept dev pid (.host q)) s place (fun s => ready s ∧ entryBad (entry s) = true)
       (fun s t => accepted fetched ((new s []).finish 4) s t))
  ∧ (∀ record arg, let own := fun (s : State) => Launch.submitted s.part.dev s.part.pid record arg .firmware
     let runs := fun (s : State) => s.part.pstat = 0 ∧ s.part.broken = false ∧ s.dev.answers = true
     Happens (.queueEntryAccept dev pid (.own record arg)) s place (fun s => runs s ∧ 0 < s.nextId ∧ (own s).recordOk s.part none = true)
       (fun s t => t.mem = s.mem ∧ t.part.launchNo = nextLaunchNo s.part.launchNo
         ∧ { own s with lid := s.nextId, state := .waiting, priority := field ((own s).fld 16 4) 3 0, number := s.part.launchNo, nbv := s.part.nbv, privileged := true } ∈ t.allLaunches)
     ∧ Happens (.queueEntryAccept dev pid (.own record arg)) s place (fun s => runs s ∧ (own s).recordOk s.part none = false) (fun s t => t = s))
  ∧ (let below := fun (s : State) => s.deviceLaunches s.part.dev s.part.pid < 4096 ∧ s.part.pstat = 0
     let chosen := fun (s : State) => (s.choose (s.heldLaunches.length + s.part.heldMailboxes.length)).1
     (∀ l, Happens (.deferredLaunchStart dev pid) s place (fun s => below s ∧ s.heldLaunches[chosen s]? = some l)
       (fun s t => t.mem = s.mem ∧ t.part.launchNo = nextLaunchNo s.part.launchNo
         ∧ { l with state := .waiting, priority := field (l.fld 16 4) 3 0, number := s.part.launchNo, nbv := s.part.nbv } ∈ t.allLaunches))
     ∧ (∀ b a as r, Happens (.deferredLaunchStart dev pid) s place
       (fun s => below s ∧ s.heldLaunches = [] ∧ s.part.heldMailboxes[chosen s]? = some (m, b) ∧ b.held = a :: as ∧ s.readRecord b.record.toNat = some r ∧ 0 < s.nextId
         ∧ (Launch.submitted s.part.dev s.part.pid r (BitVec.ofNat 64 a) (.mailbox m a)).recordOk s.part (some m) = true)
       (fun s t => t.mem = (s.visit b.record.toNat false).mem ∧ lookup m t.part.mailboxes = some { b with held := as } ∧ t.part.launchNo = nextLaunchNo s.part.launchNo
         ∧ let l := Launch.submitted s.part.dev s.part.pid r (BitVec.ofNat 64 a) (.mailbox m a)
           { l with lid := s.nextId, state := .waiting, priority := field (l.fld 16 4) 3 0, number := s.part.launchNo, nbv := s.part.nbv } ∈ t.allLaunches)))
  ∧ (∀ b, Happens (.mailboxOverflowClear dev pid m) s place (fun s => lookup m s.part.mailboxes = some b)
      (fun s t => t = { s with part := { s.part with mailboxes := Bits.insert m { b with ctl := b.ctl &&& 0xBFFFFFFF } s.part.mailboxes } }))

/-- R231, R234 to R236: a refused dependence word completes the launch with status 1, a missing page is posted, and with every generation passed the launch dispatches or prepares; a gang or fabric launch sends prepare, and go dispatches its groups once every member takes part; it aborts with status 3
without a context, without its Current view, or 100 µs after prepare. Which event happens next is the model's input (notes/assumptions/3.md). -/
def Obligations.LaunchStartEvents : Prop := ∀ (lid : Nat) (s : State),
  let place := launchAt lid s
  let ends := fun (status : Nat) (s t : State) => t = { s with lau := s.lau.finish status }
  let dispatched := fun (marks : List (Nat × Nat × Nat)) (members : List Nat) (s t : State) => t.mem = s.mem ∧ t.lau.state = .dispatching ∧ t.lau.marks = marks ∧ t.lau.nbv = s.part.nbv
    ∧ (∀ i, i ∈ t.lau.ended ↔ i ∈ s.lau.ended ∨ (i < s.lau.groupCount ∧ s.lau.outsideView members i = true))
    ∧ ∀ i < s.lau.groupCount, s.lau.outsideView members i = false →
        ∃ g ∈ t.groups, s.nextId ≤ g.gid ∧ g.lid = s.lau.lid ∧ g.idx = i ∧ g.dev = s.lau.groupDev s.part members i ∧ g.phase = .queued ∧ g.size = s.lau.threadsPerGroup ∧ g.level = s.lau.priority
          ∧ g.queuedAt = s.now
  let startable := fun (members : List Nat) (s : State) => 0 < s.nextId ∧ ∃ i < s.lau.groupCount, s.lau.outsideView members i = false
  let prepared := fun (l : Launch) (ds members : List Nat) (s t : State) => let s1 : State := { s with lau := l }
    ((∃ d ∈ ds, s1.declines l d = true) → t = { s with lau := l.finish 3 })
    ∧ ((∀ d ∈ ds, s1.declines l d = false) → t = { s with lau := { l with acks := t.lau.acks, reserved := t.lau.reserved }, drawn := t.drawn } ∧ (∀ d ∈ t.lau.acks, d ∈ l.acks ∨ d ∈ ds)
        ∧ ∀ d start s2 cs, ds = [d] → d ∉ l.acks → (s.dev? d).answers = true → s1.choose 192 = (start, s2) → s2.pickCores l d start (s1.groupsFor members d) [] = some cs →
            t.lau.acks = l.acks ++ [d] ∧ t.lau.reserved = l.reserved ++ cs.map (fun c => (c.1, d, c.2)))
  (let due := fun (s : State) => s.lau.state = .waiting ∧ s.part.pstat = 0 ∧ s.part.broken = false ∧ s.dev.answers = true
   let deps := fun (s : State) => (List.range s.lau.deps).map s.lau.dep
   let event := Happens (.dependencesPassed lid) s place
   let read := fun (s : State) => ((deps s).filter (fun d => s.depState d = .passed || s.depState d = .waits)).foldl (fun s d => s.visit d.1 false) s
   event (fun s => due s ∧ ∃ d ∈ deps s, s.depState d = .refused) (fun s t => ends 1 (read s) t)
   ∧ (∀ va gen, event (fun s => due s ∧ deps s = [(va, gen)] ∧ s.depState (va, gen) = .fault 0) (fun s t => t = s.postFault (va / 2 ^ 16) 0 0xFFFFFFFF))
   ∧ event (fun s => due s ∧ (∀ d ∈ deps s, s.depState d = .passed) ∧ (s.lau.gang = true ∨ s.lau.isFabric = true)) (fun s t => t = { read s with lau := { s.lau with state := .preparing } })
   ∧ (∀ marks, event (fun s => due s ∧ (∀ d ∈ deps s, s.depState d = .passed) ∧ s.lau.gang = false ∧ s.lau.isFabric = false ∧ s.newMarks s.lau [s.lau.dev] = some marks ∧ startable [] s)
       (fun s t => dispatched marks [] (read s) t)))
  ∧ (let due := fun (s : State) => s.lau.state = .preparing ∧ s.lau.gang = true ∧ s.lau.sent = false
     let event := Happens (.gangPrepare lid) s place
     event (fun s => due s ∧ (s.gangCtx = none ∨ ∃ q, s.gangCtx = some q ∧ ∀ v ∈ q.views, v.live = false)) (ends 3)
     ∧ (∀ q v, event (fun s => due s ∧ s.gangCtx = some q ∧ (∃ w ∈ q.views, w.live = true) ∧ q.cur = some v ∧ v.state = .current)
       (fun s t => prepared { s.lau with sent := true, sentAt := s.now, view := v.num } v.members.dedup v.members s t)))
  ∧ (let due := fun (s : State) => s.lau.state = .preparing ∧ s.lau.gang = true ∧ s.lau.sent = true
     let event := Happens (.gangGo lid) s place
     (∀ q v, let bound := fun (s : State) => due s ∧ s.gangCtx = some q ∧ q.view? s.lau.view = some v
      event (fun s => bound s ∧ v.state ≠ .current) (ends 3)
      ∧ ∀ marks, event (fun s => bound s ∧ v.state = .current ∧ (∀ d ∈ v.members, d ∈ s.lau.acks) ∧ s.newMarks s.lau v.members.dedup = some marks ∧ startable v.members s)
        (fun s t => dispatched marks v.members s t ∧ ∃ c, t.ctx? q.id = some c ∧ ∃ p ∈ c.steps, p.lid = s.lau.lid ∧ p.view = v.num))
     ∧ HappensWhen (.gangPrepareTimeout lid) s place (fun s => due s ∧ s.lau.sentAt + 100000 ≤ s.now) (ends 3))
  ∧ HappensWhen (.fabricLaunchPrepare lid) s place (fun s => s.lau.state = .preparing ∧ s.lau.isFabric = true)
      (fun s t => prepared (if s.lau.sent then s.lau else { s.lau with sent := true, sentAt := s.now }) (s.fabricDevs s.lau) [] s t)
  ∧ (∀ marks, Happens (.fabricLaunchGo lid) s place
      (fun s => s.lau.state = .preparing ∧ s.lau.isFabric = true ∧ s.lau.sent = true ∧ (∀ d ∈ s.fabricDevs s.lau, d ∈ s.lau.acks)
        ∧ s.newMarks s.lau (s.fabricDevs s.lau) = some marks ∧ startable [] s) (dispatched marks []))
  ∧ HappensWhen (.fabricLaunchTimeout lid) s place (fun s => s.lau.state = .preparing ∧ s.lau.gang = false ∧ s.lau.sent = true ∧ s.lau.sentAt + 100000 ≤ s.now) (ends 3)

/-- R227, R235, R236, R271, R338: a device of a fabric launch reports once its groups, jobs and accesses are over; a launch whose groups have all ended drains, and at the end of its jobs it completes: the done word receives a thread arrival, the completion record holds the serial and the status, and the
launch is gone. Which event happens next is the model's input (notes/assumptions/3.md). -/
def Obligations.LaunchEndEvents : Prop := ∀ (lid dev : Nat) (s : State),
  let place := launchAt lid s
  HappensWhen (.fabricLaunchReport lid dev) s place
    (fun s => s.lau.isFabric = true ∧ (s.lau.state = .running ∨ s.lau.state = .aborting ∨ s.lau.state = .draining) ∧ dev ∈ s.fabricDevs s.lau ∧ dev ∉ s.lau.reports
      ∧ (s.dev? dev).answers = true ∧ s.dev.answers = true ∧ s.endedOn s.lau dev = true ∧ s.busyOn s.lau.lid dev = false)
    (fun s t => t = { s with lau := { s.lau with reports := dev :: s.lau.reports } })
  ∧ (let allOver := fun (s : State) => s.dev.answers = true ∧ s.groupsOver s.lau = true ∧ s.awaitsRerun s.lau = false
     let gone := fun (s t : State) => t.lau = Launch.none ∧ (∀ g ∈ t.groups, g.lid ≠ s.lau.lid) ∧ ∀ l ∈ s.launches, l.lid ≠ s.lau.lid → l ∈ t.launches
     let event := Happens (.launchEnd lid) s place
     event (fun s => allOver s ∧ s.lau.state = .running ∧ s.launchDrained s.lau = false) (fun s t => t = { s with lau := { s.lau with state := .draining } })
     ∧ (let drained := fun (s : State) => allOver s ∧ s.launchDrained s.lau = true ∧ (s.lau.state = .running ∨ s.lau.state = .draining ∨ s.lau.state = .aborting)
        event (fun s => drained s ∧ s.lau.doneWord = 0 ∧ s.lau.completion = 0) (fun s t => gone s t ∧ (s.lau.stackBase = 0 → t.mem = s.mem))
        ∧ (∀ comp, event (fun s => drained s ∧ s.lau.doneWord = 0 ∧ 0 < s.lau.completion ∧ s.lau.completion % 16 = 0 ∧ s.writePlace s.lau.completion [0, 2, 5] = .ok (some comp))
            (fun s t => gone s t ∧ (s.lau.stackBase = 0 → Written comp (toBytes 8 s.lau.serial.toNat ++ toBytes 4 (if s.lau.failed then 2 else 0) ++ toBytes 4 0) (s.visit s.lau.completion true).mem t.mem)))
        ∧ (∀ done, event (fun s => drained s ∧ s.lau.completion = 0 ∧ s.writePlace s.lau.doneWord [0, 2, 5] = .ok (some done) ∧ countsOk ((s.visit s.lau.doneWord true).syncWord (.mem done)))
            (fun s t => let v := s.visit s.lau.doneWord true
              gone s t ∧ (s.lau.stackBase = 0 → (∀ a, a < done ∨ done + 16 ≤ a → Mem.get t.mem a = Mem.get v.mem a) ∧ t.syncWord (.mem done) = ((v.syncWord (.mem done)).apply (v.syncHeld (.mem done)) 0 true).1)))
        ∧ (∀ k, event (fun s => drained s ∧ s.writePlace s.lau.doneWord [0, 2, 5] = .error k)
            (fun s t => t = ({ s with lau := s.lau.finish (if s.lau.failed then 2 else 0) } : State).postFault (s.lau.doneWord / 2 ^ 16) k 0xFFFFFFFF)))
     ∧ event (fun s => s.dev.answers = true ∧ s.lau.state = .completed ∧ (s.lau.status = 1 ∨ s.lau.status = 4) ∧ s.lau.completion = 0)
        (fun s t => gone s t ∧ (s.lau.stackBase = 0 → t.mem = s.mem)))

/-! ## Events of sequences (chapter 19) -/

/-- R264 to R266, R282, R320: a step ends once every group has ended its part: its commits are dropped if it has failed, else LENC rises by them; the width policy then widens or narrows by forming a Pending view; the last acknowledgement makes it Transferring and takes the snapshot; 100 µs without one, or a
refusal, abandon it. Which event happens next is the model's input (notes/assumptions/3.md). -/
def Obligations.StepAndViewEvents : Prop := ∀ (seq num : Word) (lid width member : Nat) (q : SeqCtx) (s0 : State), s0.ctx? seq = some q →
  let s := s0.focusPart (field seq.toNat 25 16) q.pid
  let event := fun (i : Instr) (due : Prop) (P : State → Prop) => due → ∃ t, exec i s0 = .next t ∧ P t
  let becomes := fun (f : SeqCtx → SeqCtx) (t : State) => t = s.updSeq seq f
  (∀ st, q.step? lid = some st → s.allParted lid seq = true →
    let rest := fun (c : SeqCtx) => let r := { c with steps := c.steps.filter (fun x => x.lid ≠ lid) }
      { r with lent := r.lenc + r.pending, policyDue := decide (c.succ = 0) }
    event (.stepEnd seq lid) (st.failed = true) (becomes rest)
    ∧ event (.stepEnd seq lid)
        (let b := (s.seqCls q).block
         st.failed = false ∧ st.rebuild = none ∧ (q.view? st.view).isSome ∧ (s.seqIds q).length = 4 * q.lenc ∧ q.tailIds.length = q.lenc % 32 ∧ (q.lenc + st.commits.length) / b = q.lenc / b ∧ (q.lenc + st.commits.length) / 32 = q.lenc / 32)
        (fun t => t.mem = s.mem ∧ ∃ c, t.ctx? seq = some c ∧ c.lenc = q.lenc + st.commits.length ∧ c.steps = q.steps.filter (fun x => x.lid ≠ lid) ∧ c.lent = c.lenc + c.pending ∧ c.tokens = q.tokens
          ∧ s.seqIds c = s.seqIds q ++ st.commits.flatMap (fun w => toBytes 4 w.toNat)))
  ∧ (∀ v, q.policyDue = true → q.succ = 0 → q.cur = some v → v.state = .current →
      let w := v.members.length
      let mx := (s.seqCls q).maxWidth
      let wide := q.tw ≠ 0 ∧ q.tw ≤ q.lenc ∧ w < mx
      let narrow := q.tn ≠ 0 ∧ q.lenc < q.tn ∧ 1 < w
      let members := widthMembers v.members s.part.fabricList width
      event (.viewPrepare seq width) (wide ∧ width = min (2 * w) mx ∧ width ≤ members.length)
        (becomes (fun c => { c.form members false [] s.now with tw := min (2 * q.tw) 0xFFFFFF, tn := min (2 * q.tn) 0xFFFFFF }))
      ∧ event (.viewPrepare seq width) (¬ wide ∧ narrow ∧ width = (w + 1) / 2 ∧ width ≤ members.length) (becomes (fun c => { c.form members false [] s.now with tw := q.tw / 2, tn := q.tn / 2 }))
      ∧ event (.viewPrepare seq width) (¬ wide ∧ ¬ narrow) (becomes (fun c => { c with policyDue := false })))
  ∧ (∀ v, q.view? num = some v →
      (v.state = .pending → member ∈ v.members → member ∉ v.acks → (s.dev? member).answers = true → (s.dev? member).faulted = false →
        let acks := v.acks ++ [member]
        event (.viewAcknowledged seq num member) (∀ m ∈ v.members, m ∈ acks)
          (becomes (fun c => { c with views := c.views.map (fun x => if x.num = num then { x with acks := acks, state := .transferring, snapshot := c.lenc } else x) }))
        ∧ event (.viewAcknowledged seq num member) (∃ m ∈ v.members, m ∉ acks) (becomes (fun c => { c with views := c.views.map (fun x => if x.num = num then { x with acks := acks } else x) })))
      ∧ (let abandoned := fun (t : State) => t.mem = s.mem ∧ t.groups = s.groups ∧ t.launches = s.launches
           ∧ t.ctx? seq = some { q with succ := 0, views := q.views.map (fun x => if x.num = num then { x with state := .abandoned, slices := [] } else x) }
         event (.viewPrepareTimeout seq num) (v.state = .pending ∧ v.sentAt + 100000 ≤ s.now) abandoned
         ∧ event (.prepareRefusal 0 seq num member) ((v.state = .pending ∨ v.state = .transferring) ∧ member ∈ v.members)
             (fun t => t.mem = s.mem ∧ t.ctx? seq = some { q with succ := 0, views := q.views.map (fun x => if x.num = num then { x with state := .abandoned, slices := [] } else x) })))

/-- R234, R235: a refused prepare of a gang or fabric launch aborts it with status 3. R268, R264, R269: a snapshot transfer places its blocks, one at a time or the rest at once, and then makes a Current predecessor Draining; the catch-up moves the tail bytes once no step is open on the old view; a Draining view without open steps retires, and its successor, with nothing lost, is
Current. Which event happens next is the model's input (notes/assumptions/3.md). -/
def Obligations.ViewChangeEvents : Prop := ∀ (seq num : Word) (lid dev : Nat) (s0 : State),
  (∀ l, lid ≠ 0 → s0.launch? lid = some l → l.state = .preparing → l.sent = true →
    let s := s0.focusPart l.dev l.pid
    (l.gang = true ∧ dev ∈ s.viewMembers l.seqId l.view) ∨ (l.gang = false ∧ dev ∈ s.fabricDevs l) →
    ∃ t, exec (.prepareRefusal lid seq num dev) s0 = .next t ∧ t.mem = s.mem ∧ t.groups = s.groups ∧ { l with state := .completed, status := 3, reserved := [] } ∈ t.allLaunches)
  ∧ (∀ q v, s0.ctx? seq = some q → q.view? num = some v →
    let s := s0.focusPart (field seq.toNat 25 16) q.pid
    let b := (s.seqCls q).block
    let event := fun (i : Instr) (due : Prop) (P : State → Prop) => due → ∃ t, exec i s0 = .next t ∧ P t
    let views := fun (f : View → View) (t : State) => t.ctx? seq = some { q with views := q.views.map f }
    (∀ v1 s1, placeBlocks q (s.seqIds q) (List.range (v.snapshot / b)) v s = .ok (v1, s1) →
      event (.snapshotTransferComplete seq (.rest num)) (v.state = .transferring ∧ v.transferred = false ∧ q.succ = num ∧ v.survivor = false ∧ (List.range (v.snapshot / b)).all (s.reachesBlock q v) = true)
        (fun t => t.mem = s1.mem ∧ views (fun x => let y := if x.num = num then { v1 with transferred := true } else x
          if y.num = v.pred ∧ y.state = .current then { y with state := .draining } else y) t))
    ∧ (∀ blk v1 s1, s.placeBlock q (s.seqIds q) blk v = .ok (v1, s1) →
      event (.snapshotTransferComplete seq (.block num blk)) (v.state = .transferring ∧ v.transferred = false ∧ q.succ = num ∧ blk < v.snapshot / b ∧ s.reachesBlock q v blk = true)
        (fun t => t.mem = s1.mem ∧ views (fun x => if x.num = num then v1 else x) t))
    ∧ (∀ old, q.cur = some old → event (.catchUp seq num)
        (v.state = .transferring ∧ v.transferred = true ∧ v.caughtUp = false ∧ q.succ = num ∧ num ≠ 0 ∧ v.pred = old.num ∧ old.state = .draining ∧ q.openOn old.num = 0 ∧ q.lenc / b ≤ v.snapshot / b ∧ ∀ m ∈ v.members, (s.dev? m).answers = true)
        (fun t => t.mem = (s.moveTails q v).mem ∧ views (fun x => if x.num = num then { v with caughtUp := true } else x) t))
    ∧ (∀ w, q.next = some w → event (.viewRetire seq num) (v.state = .draining ∧ q.openOn num = 0 ∧ w.caughtUp = true ∧ w.pred = num ∧ w.num ≠ num ∧ w.lost ≠ [])
        (views (fun x => if x.num = num then { x with state := .retired } else x)))
    ∧ (∀ w, q.next = some w → event (.viewRetire seq num)
        (v.state = .draining ∧ q.openOn num = 0 ∧ w.caughtUp = true ∧ w.pred = num ∧ w.num ≠ num ∧ w.state = .transferring ∧ w.transferred = true ∧ w.lost = [] ∧ w.run = none)
        (fun t => t.mem = s.mem ∧ ∃ c, t.ctx? seq = some c ∧ c.view = w.num ∧ c.succ = 0 ∧ c.lenc = q.lenc ∧ { w with state := .current } ∈ c.views ∧ { v with state := .retired, slices := [] } ∈ c.views)))

/-- R269 to R271, R330: a device that faults, or misses its probe, fails the live views it belongs to, with their steps, and a survivor view of the other members is formed; lost blocks are rebuilt by a recompute handler, which is launched once more, and a second failure ends the views; a failed gang launch is
run again under the survivor view. Which event happens next is the model's input (notes/assumptions/3.md). -/
def Obligations.FaultAndRebuildEvents : Prop := ∀ (dev lid : Nat) (seq : Word) (s : State),
  (let alone := (∀ g ∈ s.allGroups, g.gid ≠ 0 → g.dev ≠ dev) ∧ ∀ l ∈ s.allLaunches, l.isFabric = true → dev ∉ l.acks
   let faults := fun (i : Instr) (due : Prop) => (¬ due → exec i s = .next s)
     ∧ (due → ∃ t, exec i s = .next t ∧ (t.dev? dev).faulted = true)
     ∧ (due → (s.dev? dev).seqs = [] → (∀ q ∈ s.allDevs.flatMap Device.seqs, ∀ v ∈ q.views, v.live = true → dev ∉ v.members) → alone →
        exec i s = .next { s.updDev dev (fun d => { d with faulted := true }) with images := s.images.map (fun m => if m.dev = dev then { m with marked := true } else m) })
     ∧ (∀ q, due → (s.dev? dev).seqs = [] → s.ctx? seq = some q → seqHome seq ≠ some dev →
        (s.allDevs.flatMap Device.seqs).filter (fun q => q.views.any (fun v => v.live && v.members.contains dev)) = [q] → alone →
        let last := ((match q.next with | some v => if v.live then some v else q.cur | none => q.cur).map View.members).getD []
        let left := last.filter (fun m => m ≠ dev && !(s.dev? m).faulted)
        left ≠ [] → ∃ t, exec i s = .next t ∧ t.mem = s.mem ∧ ∃ c, t.ctx? seq = some c ∧ c.lent = c.lenc + c.pending ∧ c.lenc = q.lenc
          ∧ (∀ v ∈ q.views, v.live = true → { v with state := .failed, run := none } ∈ c.views)
          ∧ (∀ p ∈ q.steps, (∃ v ∈ q.views, v.num = p.view ∧ v.live = true) → { p with failed := true, commits := [] } ∈ c.steps)
          ∧ ∃ v, c.views.head? = some v ∧ v.state = .pending ∧ v.members = left ∧ v.survivor = true ∧ c.succ = v.num ∧ v.pred = q.view ∧ v.sentAt = s.now)
   faults (.memberFault dev) ((s.dev? dev).faulted = false)
   ∧ faults (.livenessProbeTimeout dev) ((s.dev? dev).faulted = false ∧ (s.dev? dev).answers = false))
  ∧ (∀ q v, s.ctx? seq = some q → q.next = some v → v.survivor = true → v.state = .transferring → v.transferred = true → v.caughtUp = true →
      let s1 := s.focusPart (field seq.toNat 25 16) q.pid
      (∀ f n bs, v.run = none → firstRun v.lost = some (f, n) →
        let m := v.members.getD ((v.runOwners f n).headD 0) 0
        let s2 := s1.focusPart m q.pid
        let l := Launch.submitted m q.pid bs (BitVec.ofNat 64 (seq.toNat + (f + (n - 1) * 2 ^ 20) * 2 ^ 32)) (.recompute seq f n)
        s2.readRecord (s1.seqCls q).recov.toNat = some bs → l.recordOk s2.part none = true → l.gang = false → s2.deviceLaunches m q.pid < 4096 → 0 < s.nextId →
        ∃ t, exec (.recomputeHandlerLaunch seq) s = .next t ∧ t.mem = s.mem
          ∧ { l with lid := s.nextId, state := .waiting, priority := field (l.fld 16 4) 3 0, number := s2.part.launchNo, nbv := s2.part.nbv } ∈ t.allLaunches
          ∧ ∃ c, t.ctx? seq = some c ∧ { v with run := some { first := f, count := n, todo := v.runOwners f n, lid := s.nextId, failedOnce := false } } ∈ c.views)
      ∧ (∀ r, v.run = some r → r.lid ≠ 0 → s1.launch? r.lid = none → v.partRebuilt r (r.todo.headD 0) = false → r.failedOnce = true →
        ∃ t, exec (.recomputeHandlerLaunch seq) s = .next t ∧ t.mem = s.mem ∧ ∃ c, t.ctx? seq = some c ∧ c.lenc = q.lenc ∧ c.succ = 0 ∧ (∀ x ∈ c.views, x.live = false) ∧ ∀ p ∈ c.steps, (∃ x ∈ q.views, x.num = p.view ∧ x.live = true) → p.failed = true))
  ∧ (∀ q v, Happens (.gangRerun lid) s (launchAt lid s)
      (fun s => s.lau.gang = true ∧ s.seqCtx s.lau.pid s.lau.seqId = some q ∧ s.lau.lid ∈ q.reruns ∧ q.cur = some v ∧ v.state = .current ∧ s.groupsOver s.lau = true ∧ s.launchDrained s.lau = true ∧ 0 < s.nextId)
      (fun s t => (s.lau.stackBase = 0 → t.mem = s.mem) ∧ t.lau = Launch.none ∧ (∀ g ∈ t.groups, g.lid ≠ s.lau.lid)
        ∧ { s.lau with lid := s.nextId, state := .preparing, status := 0, marks := [], admitted := [], ended := [], failed := false, acks := [], sent := false, sentAt := 0, view := 0xFFFFFFFF, reports := [], rerun := true } ∈ t.allLaunches
        ∧ ∃ c, t.ctx? q.id = some c ∧ s.lau.lid ∉ c.reruns))

/-! ## Events of a device (chapters 25, 26) -/

/-- R330, R331, R333, R334, R342, R347: a corrected error is reported and changes nothing else; a scrub poisons the sector of an uncorrectable one; a fatal condition stops the device, leaves on every trained port and is kept; power loss loses its memory and record; boot measures the stages in order, stops at the first that fails, and keeps memory;
configuration requests are retried until then, and size BAR2; power control moves the clock. Which event happens next is the model's input (notes/assumptions/3.md). -/
def Obligations.DeviceEvents : Prop := ∀ (dev pid line watts die hbm : Nat) (u : ErrUnit) (s : State),
  let place := some (s.checkoutDev dev)
  let logged := fun (p : Nat) (u : ErrUnit) (s t : State) => t.mem = s.mem ∧ t.dev = s.dev ∧ t.poison = s.poison ∧ t.groups = s.groups ∧ t.threads = s.threads ∧ t.thr = s.thr
    ∧ t.out = .errCor s.dev.num p :: s.out ∧ (t.part? s.dev.num p).errors = (ErrRecord.among ⟨1, 0x01, u.kind, u.unit, 0, s.gtime s.dev.num, s.dev.clk⟩ (s.part? s.dev.num p).errors).take 1024
    ∧ (t.part? s.dev.num p).elhead = (s.part? s.dev.num p).elhead + 1
  let up := fun (s : State) => s.dev.stopped = false ∧ s.dev.unpowered = false
  let legal := (u.kind = 0 ∧ u.unit < 192) ∨ (u.kind = 1 ∧ u.unit < 4) ∨ (u.kind = 2 ∧ u.unit < 8) ∨ (u.kind = 3 ∧ u.unit < 16) ∨ (u.kind = 4 ∧ u.unit = 0)
  HappensWhen (.eccCorrected dev u (some pid)) s place (fun s => up s ∧ pid < 32 ∧ legal) (logged pid u)
  ∧ HappensWhen (.eccCorrected dev u none) s place (fun s => up s ∧ legal) (logged 0 u)
  ∧ Happens (.patrolScrub dev line .clean) s place (fun _ => True) (fun s t => t = s)
  ∧ HappensWhen (.patrolScrub dev line .corrected) s place up (logged 0 ⟨2, (homeSlice (64 * line)).1⟩)
  ∧ HappensWhen (.patrolScrub dev line .uncorrectable) s place up
      (fun s t => t = { s with poison := t.poison } ∧ ∀ x, x ∈ t.poison ↔ x = keyOf s.dev.num (64 * line) / 64 ∨ x ∈ s.poison)
  ∧ HappensWhen (.fatalError dev) s place (fun s => s.dev.stopped = false)
      (fun s t => t.mem = s.mem ∧ t.groups = s.groups ∧ t.dev = { s.dev with stopped := true, fatal := some ⟨6, 0x30, 4, 0, 0, s.gtime s.dev.num, s.dev.clk⟩ }
        ∧ t.out = (if s.dev.unpowered then [] else (if Config.iod1Trained s.dev.num then [.errFatal s.dev.num 1] else []) ++ [.errFatal s.dev.num 0]) ++ s.out)
  ∧ (let cleared := fun (s t : State) => (∀ g ∈ t.allGroups, g.gid ≠ 0 → g.dev ≠ s.dev.num) ∧ (∀ l ∈ t.allLaunches, l.lid ≠ 0 → l.dev ≠ s.dev.num) ∧ (∀ c ∈ t.cores, c.dev ≠ s.dev.num) ∧ t.dev.seqs = []
     Happens (.powerLoss dev) s place (fun _ => True)
       (fun s t => cleared s t ∧ t.dev.unpowered = true ∧ t.dev.fatal = none ∧ ∀ a, Mem.get t.mem a = if keyOn s.dev.num a then 0 else Mem.get s.mem a)
     ∧ (let block := fun (s : State) (i : Nat) => (i, Config.sha512 (s.dev.image i).bytes)
        Happens (.measuredBoot dev) s place (fun s => ∀ i ∈ [2, 3, 4], s.dev.stageCause i = 0)
          (fun s t => t.mem = s.mem ∧ cleared s t ∧ t.dev.ready = true ∧ t.dev.bootCause = 0 ∧ t.dev.measures = [1, 2, 3, 4, 5].map (block s)
            ∧ ∀ r, s.dev.fatal = some r → (t.part? s.dev.num 0).errors = [r])
        ∧ ∀ i ∈ [2, 3, 4], Happens (.measuredBoot dev) s place (fun s => (∀ j, 2 ≤ j → j < i → s.dev.stageCause j = 0) ∧ s.dev.stageCause i ≠ 0)
          (fun s t => t.mem = s.mem ∧ cleared s t ∧ t.dev.ready = false ∧ t.dev.bootStage = i ∧ t.dev.bootCause = s.dev.stageCause i
            ∧ t.dev.measures = (List.range' 1 (if s.dev.stageCause i = 3 then i - 1 else i)).map (block s))))
  ∧ (∀ bar2, Happens (.configurationRequest dev ⟨pid, bar2⟩) s place (fun s => up s ∧ pid < 32 ∧ s.dev.ready = false ∧ s.dev.bootCause = 0) (fun s t => t = { s with out := .completion s.dev.num pid 2 0 :: s.out }))
  ∧ (∀ n, Happens (.configurationRequest dev ⟨pid, some n⟩) s place (fun s => up s ∧ pid < 32 ∧ (s.dev.ready = true ∨ s.dev.bootCause ≠ 0))
      (fun s t => t.mem = s.mem ∧ t.dev = s.dev ∧ t.out = .completion s.dev.num pid 0 0 :: s.out
        ∧ t.part? s.dev.num pid = { s.part? s.dev.num pid with bar2 := if 30 ≤ n ∧ n ≤ 39 then n else (s.part? s.dev.num pid).bar2 }))
  ∧ Happens (.configurationRequest dev ⟨pid, none⟩) s place (fun s => up s ∧ pid < 32 ∧ (s.dev.ready = true ∨ s.dev.bootCause ≠ 0))
      (fun s t => ∃ v, t = { s with drawn := t.drawn, out := .completion s.dev.num pid 0 v :: s.out })
  ∧ HappensWhen (.fabricLinksTrained dev) s place (fun s => s.dev.ready = true ∧ s.dev.trained = false) (fun s t => t = { s with dev := { s.dev with trained := true, faulted := false } })
  ∧ (let cap := fun (s : State) => s.dev.pwrcapNext.getD s.dev.pwrcap
     let hot := fun (s : State) => cap s < watts ∨ 95 < die ∨ 95 < hbm
     let fields := fun (s t : State) => t.mem = s.mem ∧ t.groups = s.groups ∧ t.dev.pwrcap = cap s ∧ t.dev.pwrcapNext = none ∧ t.dev.pwrnow = watts % 4096 ∧ t.dev.thermDie = die % 256 ∧ t.dev.thermHbm = hbm % 256 ∧ t.dev.refresh2 = decide (95 < hbm)
       ∧ (hot s → t.dev.throttling = true ∧ t.dev.mhz = max 800 (s.dev.mhz - 25)) ∧ (¬ hot s → t.dev.throttling = false ∧ t.dev.mhz = min 1900 (s.dev.mhz + 25) ∧ t.dev.thrcnt = s.dev.thrcnt)
       ∧ (hot s → s.dev.thrcnt ≠ 0xFFFFFFFF → t.dev.thrcnt = s.dev.thrcnt + 1)
     Happens (.powerControlInterval dev watts die hbm) s place (fun _ => die < 110 ∧ hbm < 110) (fun s t => fields s t ∧ t.out = s.out ∧ t.dev.unpowered = s.dev.unpowered)
     ∧ Happens (.powerControlInterval dev watts die hbm) s place (fun _ => 110 ≤ die ∨ 110 ≤ hbm) (fun s t => fields s t ∧ t.dev.stopped = true ∧ t.dev.unpowered = true))

/-- R343, R344: requests in the SPDM order are answered and enter the transcript, a signed response signs its hash and ends it, the vendor-defined request returns the second signature right after one, and a request out of order is answered with ERROR. The codes and the bytes of the transcript are the model's
choice (notes/assumptions/21.md). Which event happens next is the model's input (notes/assumptions/3.md). -/
def Obligations.AttestationEvents : Prop := ∀ (dev pid : Nat) (s : State),
  let place := some (s.checkoutDev dev)
  let session := fun (s : State) => s.dev.session pid
  let up := fun (s : State) => s.dev.ready = true ∧ s.dev.stopped = false ∧ pid < 32
  let answers := fun (code : Nat) (payload : List Byte) (x : Spdm) (s t : State) =>
    t = { s with drawn := t.drawn, dev := { s.dev with spdm := Bits.insert pid x s.dev.spdm }, out := .spdm s.dev.num pid code payload :: s.out }
  let errs := fun (i : Instr) (e : Nat) (due : State → Prop) => Happens i s place (fun s => up s ∧ due s) (fun s t => answers 0x7F [BitVec.ofNat 8 e] { session s with signed := none } s t)
  let log := fun (s : State) (q : Nat) (ask : List Byte) (r : Nat) (ans : List Byte) => (session s).transcript ++ ([0x13, BitVec.ofNat 8 q] ++ ask) ++ ([0x13, BitVec.ofNat 8 r] ++ ans)
  let plain := fun (i : Instr) (q : Nat) (ask : List Byte) (r : Nat) (ans : State → List Byte) =>
    Happens i s place (fun s => up s ∧ (session s).stage = 3) (fun s t => answers r (ans s) { session s with transcript := log s q ask r (ans s), signed := none } s t)
    ∧ errs i 4 (fun s => (session s).stage ≠ 3)
  let signs := fun (i : Instr) (q : Nat) (ask : List Byte) (r : Nat) (shape : State → List Byte → Prop) =>
    Happens i s place (fun s => up s ∧ (session s).stage = 3) (fun s t => ∃ body, shape s body ∧
      let h := Config.sha512 (log s q ask r body)
      answers r (body ++ Config.sign 0 s.dev.num h) { session s with transcript := [], signed := some h } s t)
    ∧ errs i 4 (fun s => (session s).stage ≠ 3)
  HappensWhen (.getVersion dev pid) s place up (answers 0x04 [0, 1, 0, 0x13] { stage := 1, transcript := [0x13, 0x84] ++ [0x13, 0x04] ++ [0, 1, 0, 0x13], signed := none })
  ∧ Happens (.getCapabilities dev pid) s place (fun s => up s ∧ (session s).stage = 1)
      (fun s t => ∃ p, p.length = 18 ∧ answers 0x61 p { stage := 2, transcript := log s 0xE1 [] 0x61 p, signed := none } s t)
  ∧ errs (.getCapabilities dev pid) 4 (fun s => (session s).stage ≠ 1)
  ∧ (∀ hashes asyms, let i := Instr.negotiateAlgorithms dev pid hashes asyms
     let p : List Byte := toBytes 4 (2 ^ 9) ++ toBytes 4 (2 ^ 2)
     Happens i s place (fun s => up s ∧ (session s).stage = 2 ∧ 2 ∈ hashes ∧ 9 ∈ asyms)
       (fun s t => answers 0x63 p { stage := 3, transcript := log s 0xE3 ((hashes ++ asyms).flatMap (fun n => toBytes 4 n)) 0x63 p, signed := none } s t)
     ∧ errs i 1 (fun s => (session s).stage = 2 ∧ ¬(2 ∈ hashes ∧ 9 ∈ asyms)) ∧ errs i 4 (fun s => (session s).stage ≠ 2))
  ∧ plain (.getDigests dev pid) 0x81 [] 0x01 (fun s => Config.sha512 (Config.certificate s.dev.num 0) ++ Config.sha512 (Config.certificate s.dev.num 1))
  ∧ (∀ slot off len, (slot ≤ 1 → plain (.getCertificate dev pid slot off len) 0x82 (toBytes 1 slot ++ toBytes 2 off ++ toBytes 2 len) 0x02 (fun s => ((Config.certificate s.dev.num slot).drop off).take len))
      ∧ (1 < slot → errs (.getCertificate dev pid slot off len) 1 (fun _ => True)))
  ∧ (∀ nonce, signs (.challenge dev pid 0 nonce) 0x83 (toBytes 1 0 ++ nonce) 0x03
      (fun s b => ∃ own, own.length = 32 ∧ b = Config.sha512 (Config.certificate s.dev.num 0) ++ own ++ Config.sha512 (measureBytes s.dev.measures)))
  ∧ (∀ slot nonce, slot ≠ 0 → errs (.challenge dev pid slot nonce) 1 (fun _ => True))
  ∧ (∀ index nonce, let named := fun (s : State) => if index = 0xFF then s.dev.measures else s.dev.measures.filter (fun m => m.1 = index)
     let body := fun (s : State) => if index = 0 then toBytes 1 s.dev.measures.length else measureBytes (named s)
     let some_ := fun (s : State) => index = 0 ∨ named s ≠ []
     (∀ sign, errs (.getMeasurements dev pid index sign nonce) 1 (fun s => ¬ some_ s) ∧ errs (.getMeasurements dev pid index sign nonce) 4 (fun s => some_ s ∧ (session s).stage ≠ 3))
     ∧ Happens (.getMeasurements dev pid index false nonce) s place (fun s => up s ∧ (session s).stage = 3 ∧ some_ s)
       (fun s t => answers 0x60 (body s) { session s with transcript := log s 0xE0 (toBytes 1 index) 0x60 (body s), signed := none } s t)
     ∧ Happens (.getMeasurements dev pid index true nonce) s place (fun s => up s ∧ (session s).stage = 3 ∧ some_ s)
       (fun s t => ∃ own, own.length = 32 ∧ let h := Config.sha512 (log s 0xE0 (toBytes 1 index ++ nonce) 0x60 (body s ++ own))
         answers 0x60 (body s ++ own ++ Config.sign 0 s.dev.num h) { session s with transcript := [], signed := some h } s t))
  ∧ (∀ h, Happens (.vendorDefinedRequest dev pid 0x1F4E 1) s place (fun s => up s ∧ (session s).signed = some h)
      (fun s t => answers 0x7E (Config.sign 1 s.dev.num h) { session s with signed := none } s t))
  ∧ errs (.vendorDefinedRequest dev pid 0x1F4E 1) 4 (fun s => (session s).signed = none)
  ∧ (∀ vendor code, ¬(vendor = 0x1F4E ∧ code = 1) → errs (.vendorDefinedRequest dev pid vendor code) 4 (fun _ => True))

/-! ## Events of a partition, checkpoint and restore, and the host's windows (chapters 21, 25) -/

/-- R241, R313 to R315, R319, R330: a partition reset ends its launches and leaves its registers as after reset; NBVSET takes 1 and 2 alone; a swap halts, suspends the groups that reach no boundary in 20 µs, saves and ends swapped, each with vector 66, and a swap-in queues the groups again; an error in a
partition's state halts it. Which event happens next is the model's input (notes/assumptions/3.md). -/
def Obligations.PartitionEvents : Prop := ∀ (dev pid : Nat) (v : Word) (s : State),
  let place := if pid < 32 then some (s.focusPart dev pid) else none
  let signalled := fun (s t : State) => if (s.part.msixWord (4 * 66 + 3)).getLsbD 0 then 66 ∈ t.part.pba ∧ t.out = s.out else t.out = .msix s.part.dev s.part.pid 66 :: s.out
  let up := fun (s : State) => s.part.broken = false ∧ s.dev.answers = true
  HappensWhen (.preset dev pid) s place (fun s => s.dev.answers = true)
    (fun s t => t.part.dev = s.part.dev ∧ t.part.pid = s.part.pid ∧ t.part.pstat = 0 ∧ t.part.nbv = 2 ∧ t.part.ptroot = 0 ∧ t.part.broken = false ∧ t.part.lines = [] ∧ t.part.queues = [] ∧ t.part.mailboxes = []
      ∧ t.part.prefixes = [] ∧ t.part.faults = [] ∧ t.part.journal = [] ∧ t.part.jhead = 1 ∧ t.part.launchNo = 0x80000000 ∧ t.part.recorded = []
      ∧ (∀ l ∈ t.allLaunches, l.lid ≠ 0 → ¬(l.dev = s.part.dev ∧ l.pid = s.part.pid))
      ∧ ∀ l ∈ s.allLaunches, l.lid ≠ 0 → l.dev = s.part.dev → l.pid = s.part.pid → ∀ g ∈ t.allGroups, g.gid ≠ 0 → g.lid ≠ l.lid)
  ∧ HappensWhen (.nbvset dev pid v) s place (fun _ => v.toNat % 4 = 1 ∨ v.toNat % 4 = 2) (fun s t => t = { s with part := { s.part with nbv := v.toNat % 4 } })
  ∧ HappensWhen (.partitionSwapOut dev pid) s place (fun s => up s ∧ s.part.pstat = 0)
    (fun s t => t.mem = s.mem ∧ t.part.pstat = 1 ∧ t.part.haltAt = s.now ∧ signalled s t
      ∧ ∀ g ∈ s.allGroups, (if g.gid ∈ s.partGids ∧ g.resident = true ∧ g.shadow = 0 then { g with preempt := true } else g) ∈ t.allGroups)
  ∧ Happens (.partitionSwapIn dev pid) s place (fun s => up s ∧ s.part.pstat = 3 ∧ s.part.recorded = [])
    (fun s t => t.mem = s.mem ∧ t.part.pstat = 0
      ∧ ∀ g ∈ s.allGroups, (if g.gid ∈ s.partGids ∧ g.phase = .suspended then { g with phase := .queued, queuedAt := s.now } else g) ∈ t.allGroups)
  ∧ (∀ gid s1, Happens (.swapHaltTimeout dev pid) s place
    (fun s => s.part.pstat = 1 ∧ s.part.haltAt + 20000 ≤ s.now ∧ s.partGids = [gid] ∧ s.focusGroup gid = some s1 ∧ s1.grp.resident = true ∧ s1.grp.phase = .running ∧ s1.grp.gid = gid
      ∧ ∀ u ∈ s1.allThreads, ∀ p b, u.status ≠ .waiting (.aswap p b))
    (fun s t => t.mem = s.mem ∧ t.part.pstat = 1 ∧ t.grp.gid = gid ∧ t.grp.phase = .suspended ∧ t.grp.slots = [] ∧ t.grp.placed = false ∧ t.grp.scratch = s1.grp.scratch))
  ∧ Happens (.partitionSaveComplete dev pid) s place (fun s => s.dev.answers = true ∧ s.part.pstat = 1 ∧ s.halted = true ∧ ∀ g ∈ s.allGroups, g.placed = false) (fun s t => t.mem = s.mem ∧ t.groups = s.groups ∧ t.part.pstat = 2 ∧ signalled s t)
  ∧ Happens (.partitionSaveComplete dev pid) s place (fun s => s.dev.answers = true ∧ s.part.pstat = 2) (fun s t => t.mem = s.mem ∧ t.groups = s.groups ∧ t.part.pstat = 3 ∧ signalled s t)
  ∧ Happens (.partitionStateError dev pid) s place (fun _ => True)
    (fun s t => t.mem = s.mem ∧ t.groups = s.groups ∧ t.part.broken = true
      ∧ (s.dev.answers = true → t.part.aerUnc = true ∧ t.part.errors = (ErrRecord.among ⟨4, 0x20, 4, 0, 0, s.gtime s.dev.num, s.dev.clk⟩ s.part.errors).take 1024))

/-- R340, R341: a checkpoint halts the running partitions, or fails with a cause, transfers once the device is at rest and ends with its image on the target; a lost target fails it; a restore puts the image's memory back, with the partitions swapped out, or fails; a device keeps up to four targets. Which event happens next is the model's input (notes/assumptions/3.md). -/
def Obligations.CheckpointEvents : Prop := ∀ (dev target capacity rate : Nat) (s : State),
  let place := some (s.checkoutDev dev)
  let fails := fun (cause : Nat) (s t : State) => t = { s with dev := { s.dev with ckState := 4, ckCause := cause, ckTarget := none } }
  let runs := fun (s : State) => s.dev.ckState = 1 ∨ s.dev.ckState = 2
  let known := fun (s : State) => s.dev.targets.find? (fun t => t.1 = target)
  let asked := fun (i : Instr) => Happens i s place (fun s => s.dev.answers = true ∧ runs s) (fun s t => t = { s with dev := { s.dev with ckCause := 3 } })
    ∧ Happens i s place (fun s => s.dev.answers = true ∧ ¬ runs s ∧ known s = none) (fails 1)
  asked (.checkpoint dev target) ∧ (∀ verifies, asked (.restore dev ⟨target, verifies⟩))
  ∧ (∀ n cap r, Happens (.checkpoint dev target) s place (fun s => s.dev.answers = true ∧ ¬ runs s ∧ known s = some (n, cap, r) ∧ cap < 4105 * 2 ^ 27) (fails 1)
     ∧ Happens (.checkpoint dev target) s place (fun s => s.dev.answers = true ∧ ¬ runs s ∧ known s = some (n, cap, r) ∧ 4105 * 2 ^ 27 ≤ cap)
       (fun s t => t.mem = s.mem ∧ t.dev.ckState = 1 ∧ t.dev.ckCause = 0 ∧ t.dev.ckTarget = some target
         ∧ ∀ p < 32, (t.part? s.dev.num p).pstat = if (s.part? s.dev.num p).pstat = 0 ∧ (s.part? s.dev.num p).broken = false then 1 else (s.part? s.dev.num p).pstat))
  ∧ (∀ verifies, Happens (.restore dev ⟨target, verifies⟩) s place (fun s => s.dev.answers = true ∧ ¬ runs s ∧ (known s).isSome ∧ (verifies = false ∨ ∀ i ∈ s.images, ¬(i.target = target ∧ i.dev = s.dev.num))) (fails 4))
  ∧ (∀ i, let restored := fun (due : State → Prop) (P : State → State → Prop) => Happens (.restore dev ⟨target, true⟩) s place
            (fun s => s.dev.answers = true ∧ ¬ runs s ∧ (known s).isSome ∧ s.images.find? (fun i => i.target = target && i.dev = s.dev.num) = some i ∧ i.marked = false ∧ due s) P
     restored (fun _ => True) (fun s t => t.dev.num = s.dev.num ∧ t.dev.ckState = 3 ∧ t.dev.ckCause = 0 ∧ t.dev.ckDone = 513 ∧ t.dev.seqs = i.device.seqs ∧ t.dev.handles = i.device.handles)
     ∧ restored (fun s => i.parts = [] ∧ Memory.wf i.pages = true ∧ ∀ c ∈ i.pages, keyOn s.dev.num c.1 = true)
       (fun s t => ∀ a, Mem.get t.mem a = if keyOn s.dev.num a then Mem.get i.pages a else Mem.get s.mem a))
  ∧ HappensWhen (.checkpointTargetRegistration dev target capacity rate) s place (fun s => (s.dev.targets.filter (fun t => t.1 ≠ target)).length < 4 ∧ s.dev.answers = true)
    (fun s t => t = { s with dev := { s.dev with targets := s.dev.targets.filter (fun t => t.1 ≠ target) ++ [(target, capacity, rate)] } })
  ∧ Happens (.checkpointComplete dev) s place (fun s => s.dev.ckTarget = some target ∧ s.dev.ckState = 1 ∧ s.quiet s.dev.num = true) (fun s t => t = { s with dev := { s.dev with ckState := 2 } })
  ∧ Happens (.checkpointComplete dev) s place (fun s => s.dev.ckTarget = some target ∧ s.dev.ckState = 2)
    (fun s t => t.mem = s.mem ∧ t.groups = s.groups ∧ t.dev = { s.dev with ckState := 3, ckTarget := none, ckDone := 513 }
      ∧ ∃ i, i ∈ t.images ∧ i.dev = s.dev.num ∧ i.target = target ∧ i.marked = false ∧ i.device = s.dev ∧ (∀ a, Mem.get i.pages a = if keyOn s.dev.num a then Mem.get s.mem a else 0)
        ∧ (∀ j ∈ t.images, j = i ∨ j ∈ s.images) ∧ ∀ j ∈ t.images, j.dev = s.dev.num → j.target = target → j = i)
  ∧ Happens (.checkpointTargetLost dev) s place (fun s => s.dev.ckTarget = some target ∧ (runs s ∨ s.dev.ckState = 3 ∧ s.unverified s.dev.num = true))
    (fun s t => t = { s with dev := { s.dev with targets := s.dev.targets.filter (fun t => t.1 ≠ target), ckState := 4, ckCause := 2, ckTarget := none } })

/-- R309, R310, R312, R319, R340, R347: a write of the register window reaches the register that the map assigns to the offset, where it may be written, and no other offset; unassigned offsets read zero; an access through the memory window reads or writes device memory, or completes with Completer Abort, as does a read of a block that fails its check; writes while a checkpoint transfers are kept apart. Which event happens next is the model's input (notes/assumptions/3.md). -/
def Obligations.WindowEvents : Prop := ∀ (dev pid off size : Nat) (v : Word) (s : State),
  let place := if pid < 32 then some (s.focusPart dev pid) else none
  let written := fun (off : Nat) (due : State → Prop) (P : State → State → Prop) => Happens (.registerWrite dev pid off v) s place (fun s => s.dev.answers = true ∧ due s) P
  let idle := fun (s : State) => s.launching = false
  let part := fun (f : Part → Part) (s t : State) => t = { s with part := f s.part }
  let any := fun (_ : State) => True
  Happens (.registerWrite dev pid off v) s place (fun s => s.dev.answers = true ∧ off % 4 = 0 ∧ off < 2 ^ 16) (fun s t => t = s.writeRegister off v)
  ∧ written 0x0C (fun _ => v.toNat % 4 = 1 ∨ v.toNat % 4 = 2) (part (fun p => { p with nbv := v.toNat % 4 }))
  ∧ written 0x10 idle (part (fun p => { p with ptroot := BitVec.ofNat 64 (p.ptroot.toNat / 2 ^ 32 * 2 ^ 32 + (v &&& 0xFFFFF001).toNat) }))
  ∧ written 0x14 idle (part (fun p => { p with ptroot := BitVec.ofNat 64 ((v &&& 0xFFFFF).toNat * 2 ^ 32 + p.ptroot.toNat % 2 ^ 32) }))
  ∧ written 0x10 (fun s => ¬ idle s) (fun s t => t = s)
  ∧ written 0x38 (fun _ => v.toNat % 32 = 0 ∨ (4 ≤ v.toNat % 32 ∧ v.toNat % 32 ≤ 16)) (part (fun p => { p with audctl := v.toNat % 32 }))
  ∧ written 0x84 any (part (fun p => { p with elsel := v }))
  ∧ written 0xE4 (fun s => s.part.pid = 0 ∧ 600 ≤ v.toNat % 4096 ∧ v.toNat % 4096 ≤ 2200) (fun s t => t = { s with dev := { s.dev with pwrcapNext := some (v.toNat % 4096) } })
  ∧ written 0xE4 (fun s => s.part.pid ≠ 0) (fun s t => t = s)
  ∧ written 0x118 any (part (fun p => { p with fqreply := v }))
  ∧ (∀ o ∈ [0x00, 0x04, 0x28, 0x40, 0x48, 0xE0, 0x110, 0xC00, 0x9000], written o any (fun s t => t = s))
  ∧ ((∀ o, 0xC00 ≤ o ∧ o < 0x2000 ∨ 0x4600 ≤ o ∧ o < 0x5000 ∨ 0x5800 ≤ o ∧ o < 0x8000 ∨ 0x8430 ≤ o ∧ o < 0x9000 ∨ 0x9010 ≤ o → s.readRegister o = 0)
     ∧ s.readRegister 0x00 = BitVec.ofNat 32 ((if s.part.pid = 0 then 2 ^ 31 else 0) + s.part.pid) ∧ s.readRegister 0x04 = BitVec.ofNat 32 s.part.pstat
     ∧ s.readRegister 0x0C = BitVec.ofNat 32 s.part.nbv ∧ s.readRegister 0x30 = 0)
  ∧ (let va := fun (s : State) => s.part.winbase.toNat + off
     let inside := fun (s : State) => s.dev.answers = true ∧ 0 < size ∧ off + size ≤ 2 ^ s.part.bar2
     let reach := fun (s : State) (ps : List (Nat × Nat)) => inside s ∧ (List.range size).mapM (fun i => s.windowByte (va s + i)) = some ps
     let completion := fun (status data : Nat) (s t : State) => t = { s with out := .completion s.part.dev s.part.pid status data :: s.out }
     (∀ ps, Happens (.bar2Access dev pid off size none) s place (fun s => reach s ps ∧ s.dev.ckState ≠ 2 ∧ ∀ k ∈ ps, s.poisoned k.1 1 = false ∧ s.tagBad k.1 = false)
       (fun s t => t.out = .completion s.part.dev s.part.pid 0 (ofBytes (ps.map (fun k => Mem.get s.mem k.1))) :: s.out ∧ t.mem = (s.visitRange (va s) size false).mem ∧ t.groups = s.groups ∧ t.part = s.part))
     ∧ (∀ ps, Happens (.bar2Access dev pid off size none) s place (fun s => reach s ps ∧ (s.dev.ckState = 2 ∨ ∃ k ∈ ps, s.poisoned k.1 1 = true)) (completion 1 0))
     ∧ (∀ ps, Happens (.bar2Access dev pid off size none) s place (fun s => reach s ps ∧ s.dev.ckState ≠ 2 ∧ (∀ k ∈ ps, s.poisoned k.1 1 = false) ∧ ∃ k ∈ ps, s.tagBad k.1 = true)
       (fun s t => completion 1 0 { s with promoted := t.promoted } t ∧ ∀ k ∈ ps, s.tagBad k.1 = true → ∃ p ∈ t.promoted, p.page = k.1 / 2 ^ 16 ∧ p.refetch = true))
     ∧ (∀ wr, Happens (.bar2Access dev pid off size wr) s place (fun s => inside s ∧ (wr = none ∨ s.dev.ckState ≠ 2) ∧ ∃ i < size, s.windowByte (va s + i) = none) (completion 1 0))
     ∧ (∀ wr, (∀ s1, place = some s1 → 2 ^ s1.part.bar2 < off + size) → exec (.bar2Access dev pid off size wr) s = .next s)
     ∧ (∀ n k, Happens (.bar2Access dev pid off size (some n)) s place (fun s => inside s ∧ s.dev.ckState ≠ 2 ∧ ∀ i < size, s.locked (k + i) = false ∧ ∃ c, c ≠ 5 ∧ s.windowByte (va s + i) = some (k + i, c))
       (fun s t => Written k (toBytes size n) (s.visitRange (va s) size true).mem t.mem ∧ t.out = s.out ∧ t.groups = s.groups ∧ t.part = s.part))
     ∧ (∀ n, Happens (.bar2Access dev pid off size (some n)) s place (fun s => inside s ∧ s.dev.ckState = 2)
       (fun s t => t = { s with dev := { s.dev with discards := (s.part.pid, off, size, n) :: s.dev.discards } })))

/-! ## Issue, traps, fetch, decoding and reset -/

/-- R21, R13, R27, R104: an instruction whose guard is false changes only the PC, and the windows of pending results count it; q7 makes an instruction unconditional, or, negated, one that never executes. The cross-lane and pool instructions are apart: their false guard still takes part in the gather (R110). The second clause is
what every statement of a completed instruction rests on: the state a meaning reads differs from the state it issued in by the PC, the words noted, and uniform values that are older than those held (R14). -/
def Obligations.GuardsAndBodies : Prop := ∀ (i : Instr) (e : Enc) (s : State), i.enc? = some e →
  (Issues e s → Quiet s → s.thr.guard e.g e.n = false → (e.op.toNat < 0x90 ∨ 0x9F < e.op.toNat) → e.op ≠ 0xE4 → e.op ≠ 0xE5 →
    ∃ t, exec i s = .next t ∧ t.mem = s.mem ∧ t.grp = s.grp ∧ t.core = s.core ∧ t.part = s.part ∧ t.dev = s.dev ∧ OnlyThread { s with thr := { s.thr with pc := nextPc e s } } t
      ∧ t.thr.pend = shrunk s ∧ SameRegs s t ∧ SameFlags s t)
  ∧ (s.thr.guard 7 false = true ∧ s.thr.guard 7 true = false ∧ ∀ q, q ≠ 7#3 → ∀ n, s.thr.guard q n = (s.thr.getQ q.toNat != n))
  ∧ (let b := atBody e s
     b.thr.pc = s.thr.pc + BitVec.ofNat 48 (len e) ∧ b.thr.instr = toWords e ∧ (∀ v ∈ b.thr.stale, v ∈ s.thr.stale)
       ∧ b = { s with thr := { s.thr with pc := b.thr.pc, instr := b.thr.instr, stale := b.thr.stale }, drawn := b.drawn })

/-- R9, R33, R34, R84: an instruction that fails a check of Table 2.10 is precise: its thread takes ILLEGAL with the detail word of the lowest cause, whether its guard is true or false, and no register, flag or byte outside the trap record changes. -/
def Obligations.IllegalInstructionTraps : Prop := ∀ (i : Instr) (e : Enc) (s : State) (d : Word), i.enc? = some e →
  s.thr.status = .ready → s.illegalHere e = some d → CanTrap s → ∃ t, exec i s = .next t ∧ Trapped 1 d 0 (toWords e) s t

/-- R83, R84: `trap` and `brk` take their trap: causes 0x02 and 0x03, the code in the detail word, and the argument of `trap` (zero, a, or the literal). R128, R129, R138, R154, R156, R159, R349: a load or store, or a decoding load, whose address fails a check takes the trap of the first check that fails, with the detail word of Table 9.9, and nothing of it
performs: alignment, the upper address bits, the class of the page and that it has a format, a store to class 1 or 3, the permission, or the scratchpad allocation. -/
def Obligations.SoftwareAndAccessTraps : Prop := ∀ (x : LX) (y : SEnc) (s : State),
  let takes := fun (i : Instr) (e : Enc) (cause : Nat) (detail : State → Word) (arg : State → Word) =>
    Ready e s → Quiet s → CanTrap s → ∃ t, exec i s = .next t ∧ Trapped cause (detail (atBody e s)) (arg (atBody e s)) (toWords e) s t
  let access := fun (i : Instr) (e : Enc) (r : Req) => let b := atBody e s
    let fails := fun (cause : Nat) (detail : Word) => takes i e cause (fun _ => detail) (fun _ => 0)
    let at_ := fun (kind : Nat) => BitVec.ofNat 32 (kind * 2 ^ 28 + r.va % 2 ^ 28)
    let refused := fun (l : Xlat) => r.formatted = true ∧ Pte.fmt l.entry = 0
    (r.va % r.size ≠ 0 → fails 0x0C (at_ (Nat.log2 r.size)))
    ∧ (r.va % r.size = 0 → 2 ^ 56 ≤ r.va → fails 0x0E (BitVec.ofNat 32 (2 * 2 ^ 28 + field r.va 43 16)))
    ∧ ∀ l, r.va % r.size = 0 → r.va < 2 ^ 56 → b.translate r.va = .ok l →
        (r.write = true → l.cls = 1 ∨ l.cls = 3 → fails 0x0B (at_ 1))
        ∧ (l.cls ∉ r.classes ∨ refused l → ¬(r.write = true ∧ (l.cls = 1 ∨ l.cls = 3)) → fails 0x0D (at_ l.cls))
        ∧ (l.cls ∈ r.classes → ¬ refused l → l.cls ≠ 4 → (if r.write then Pte.write l.entry else Pte.read l.entry) = false → fails 0x0B (at_ 0))
  let scratch := fun (i : Instr) (e : Enc) => let off := (atBody e s).scratchAddr e
    let at_ := fun (kind : Nat) (_ : State) => BitVec.ofNat 32 (kind * 2 ^ 28 + off % 2 ^ 20)
    (off % memSize e ≠ 0 → takes i e 0x0C (at_ (Nat.log2 (memSize e))) (fun _ => 0))
    ∧ (off % memSize e = 0 → s.grp.scratchSize < off + memSize e → takes i e 0x0B (at_ 3) (fun _ => 0))
  takes (.trapS y) (y.enc 0x09) 2 (fun _ => y.b.setWidth 32) (fun _ => 0)
  ∧ takes (.trapL x) (x.encL 0x09) 2 (fun _ => x.m.setWidth 32) (fun s => s.read32 x.a)
  ∧ takes (.trapX x) (x.encX 0x09) 2 (fun _ => x.m.setWidth 32) (fun _ => x.lit.getD 0)
  ∧ takes (.brkS y) (y.enc 0x0A) 3 (fun _ => y.b.setWidth 32) (fun _ => 0)
  ∧ takes (.brkL x) (x.encL 0x0A) 3 (fun _ => x.m.setWidth 32) (fun _ => 0)
  ∧ access (.ldS y) (y.enc 0x70) (loadReq (y.enc 0x70) (atBody (y.enc 0x70) s)) ∧ access (.ldLX x) (x.enc 0x70) (loadReq (x.enc 0x70) (atBody (x.enc 0x70) s))
  ∧ access (.stS y) (y.enc 0x71) (storeReq (y.enc 0x71) (atBody (y.enc 0x71) s)) ∧ access (.stLX x) (x.enc 0x71) (storeReq (x.enc 0x71) (atBody (x.enc 0x71) s))
  ∧ access (.ldf x) (x.enc 0x74) { va := (atBody (x.enc 0x74) s).globalAddr (x.enc 0x74), size := 1, write := false, classes := [0, 1, 3], prot13 := false, formatted := true }
  ∧ scratch (.ldsS y) (y.enc 0x72) ∧ scratch (.ldsLX x) (x.enc 0x72) ∧ scratch (.stsS y) (y.enc 0x73) ∧ scratch (.stsLX x) (x.enc 0x73)

/-- R20, R26: a step executes the instruction at the PC of the thread voted for. With the agenda empty, the words there decode to an instruction, and the step is `exec` of it; an instruction that spans a 32-byte fetch boundary, and a length field of 11, take ILLEGAL with causes 0x02 and 0x01 when control reaches them. An event of the
agenda happens before anything issues (notes/assumptions/3.md). -/
def Obligations.StepRunsFetched : Prop := ∀ (s : State) (k : ThreadKey) (pc : CodeAddr) (rest : List (ThreadKey × CodeAddr)) (x : Xlat) (s0 : State),
  (∀ i es, s.agenda = i :: es → i.enc? = none → step s = exec i { s with agenda := es })
  ∧ (s.agenda = [] → s.issueQ = (k, pc) :: rest → ({ s with issueQ := rest } : State).atIssue k pc = some s0 → s0.fetchAddr = .ok x →
      let pc := s0.thr.pc.toNat
      let s1 := s0.touch pc false x
      let words := (List.range 3).map (s0.fetchWord x)
      let bytes := fun (n : Nat) => words.take (n / 4)
      let fits := fun (n : Nat) => pc / 32 = (pc + n - 1) / 32
      let stops := fun (d : Word) (ws : List Word) => CanTrap s1 → ∃ t, step s = .next t ∧ Trapped 1 d 0 ws s1 t
      (∀ e i, decodeWords (words.getD 0 0) (words.getD 1 0) (words.getD 2 0) = .ok (e, i) → fits (len e) → s0.poisoned x.key (len e) = false → step s = exec i s1)
      ∧ (∀ n, lenOf (words.getD 0 0) = some n → s0.poisoned x.key n = false → ¬ fits n → stops (detail 2 ((words.getD 0 0).extractLsb' 2 8) 0 0) (bytes n))
      ∧ (lenOf (words.getD 0 0) = none → stops (detail 1 0 0 0) [words.getD 0 0]))

/-- R20 to R24 and the opcode map: words that the chapters write out for an instruction decode to it, and its encoding gives them back. -/
def Obligations.WordsDecode : Prop := let reads := fun (ws : List Word) (i : Instr) => decodeList ws = .ok i ∧ encode i = ws
  let s := fun (g : BitVec 3) (n : Bool) (d a b : BitVec 6) => ({ g := g, n := n, d := d, a := a, b := b } : SEnc)
  let lx := fun (d a b c : BitVec 8) (t la : BitVec 4) (m : BitVec 8) (lit : Option Word) => ({ g := 7, n := false, cc := false, d := d, a := a, b := b, c := c, t := t, la := la, m := m, lit := lit } : LX)
  reads [0x00003820] (.exitS (s 7 false 0 0 0)) ∧ reads [0x00C03814] (.retS (s 7 false 0 12 0)) ∧ reads [0x40F5F840] (.addS (s 7 false 23 15 16))
  ∧ reads [0x40F478C0] (.cmpS (s 7 false 17 15 16)) ∧ reads [0x00003806, 0, 0x00040000] (.braX (lx 0 0 0 0 0 0 0 (some 0x40000)))
  ∧ reads [0x08F5F9C0] (.ldS (s 7 false 23 15 2)) ∧ reads [0x058539C1, 0x52100005] (.ldLX (lx 20 22 5 0 1 0 0x52 none))
  ∧ reads [0x05033A02, 0x00200000, 1] (.amo (lx 12 20 0 0 2 0 0 (some 1)))
  ∧ reads [0x02903A14] (.sbarS (s 7 false 0 41 0)) ∧ reads [0x00003B92, 0, 0x10] (.reggive (lx 0 0 0 0 0 0 0 (some 16)))
  ∧ reads [0x05003A95, 0x03001F00] (.mmac (lx 0 20 0 31 0 0 3 none)) ∧ reads [0x05033B8D, 0x0000000D] (.launch (lx 12 20 13 0 0 0 0 none))
  ∧ reads [0x05853B01, 0x02000000] (.cloa (lx 20 22 0 0 0 0 2 none)) ∧ reads [0x05033B42, 0, 1] (.stepbeg (lx 12 20 0 0 0 0 0 (some 1)))
  ∧ reads [0x05043B55, 0x00300E0D] (.kvst (lx 16 20 13 14 3 0 0 none)) ∧ reads [0x07833AED, 0x0000E000] (.fred (lx 12 30 0 0xE0 0 0 0 none))
  ∧ reads [0x05033B69, 0x12001F1E] (.solicit (lx 12 20 30 31 0 0 0x12 none)) ∧ reads [0x05033B9D, 0x03000018] (.mbind (lx 12 20 24 0 0 0 3 none))

/-- R20 to R24, R33: no bit of an encoding is dropped: every well-formed instruction is what its own words decode to, with every operand at every value that the encoding admits. -/
def Obligations.DecodeOfEncode : Prop := ∀ i : Instr, i.enc?.isSome = true → i.wf = true → decodeList (encode i) = .ok i

/-- R309 to R319, R333, R338, R345, R347: what the machine holds right after reset, where the chapters give a value: PSTAT, NBVSET, AUDCTL, the journal's first number, launch numbers, no launch, group or thread, nothing stopped; and the memory is in canonical form. -/
def Obligations.ResetState : Prop := let s := State.reset
  s.part.pstat = 0 ∧ s.part.nbv = 2 ∧ s.part.ptroot = 0 ∧ s.part.audctl = 10 ∧ s.part.jhead = 1 ∧ s.part.launchNo = 0x80000000 ∧ s.part.journal = [] ∧ s.part.errors = [] ∧ s.part.broken = false
  ∧ (∀ n < 67, (s.part.msixWord (4 * n + 3)).getLsbD 0 = true) ∧ s.dev.mhz = 1900 ∧ s.dev.stopped = false ∧ s.dev.ready = false ∧ s.dev.ckState = 0 ∧ s.dev.throttling = false
  ∧ (∀ d p, s.part? d p = Part.fresh d p) ∧ (∀ d, s.dev? d = Device.fresh d) ∧ (∀ d c, s.core? d c = Core.fresh d c)
  ∧ (∀ t ∈ s.allThreads, t.key.gid = 0) ∧ (∀ g ∈ s.allGroups, g.gid = 0) ∧ (∀ l ∈ s.allLaunches, l.lid = 0) ∧ s.now = 0 ∧ s.agenda = [] ∧ s.issueQ = [] ∧ Memory.wf s.mem = true

/-- The memory keeps its canonical form: keys rise strictly and no entry equals what an unlisted address reads as (the model's own form, notes/assumptions/2.md), whatever instruction or event a step executes. -/
def Obligations.StepKeepsMemoryCanonical : Prop := ∀ s t : State, safeState s → step s = .next t → safeState t

end
end

