-- ==== Sys2Proof/Laws/Lists.lean ====
section
/-!
SUPPORT. Laws of the small list helpers and of byte order: lookups after an insertion or an erasure, and numbers as bytes and back (R4).
-/
namespace Sys2Proof.Bits

theorem lookup_insert {α : Type} (l : List (Nat × α)) (k : Nat) (v : α) (j : Nat) :
    lookup j (insert k v l) = if j = k then some v else lookup j l := by
  induction l with
  | nil =>
    by_cases h : j = k
    · simp [insert, lookup, h]
    · have h' : ¬k = j := fun e => h e.symm
      simp [insert, lookup, h, h']
  | cons c xs ih =>
    obtain ⟨i, w⟩ := c
    by_cases h : j = k
    · subst h
      by_cases h1 : j < i
      · simp [insert, lookup, h1]
      · by_cases h2 : j = i
        · simp [insert, lookup, h2]
        · have h3 : ¬i = j := fun e => h2 e.symm
          simp [insert, lookup, h1, h2, h3, ih]
    · have h' : ¬k = j := fun e => h e.symm
      by_cases h1 : k < i
      · simp [insert, lookup, h1, h, h']
      · by_cases h2 : k = i
        · subst h2; simp [insert, lookup, h, h']
        · simp [insert, lookup, h1, h2, h, ih]

@[simp] theorem lookup_insert_self {α : Type} (l : List (Nat × α)) (k : Nat) (v : α) : lookup k (insert k v l) = some v := by
  simp [lookup_insert]

theorem lookup_erase {α : Type} (l : List (Nat × α)) (k j : Nat) : lookup j (erase k l) = if j = k then none else lookup j l := by
  induction l with
  | nil => simp [erase, lookup]
  | cons c xs ih =>
    obtain ⟨i, w⟩ := c
    simp only [erase] at ih
    by_cases h1 : i = k
    · subst h1
      by_cases h : j = i
      · simp [erase, lookup, h] at ih ⊢; simpa [h] using ih
      · have h' : ¬i = j := fun e => h e.symm
        simp [erase, lookup, h, h'] at ih ⊢; exact ih
    · by_cases h2 : i = j
      · subst h2; simp [erase, lookup, h1]
      · simp [erase, lookup, h1, h2, ih]

@[simp] theorem toBytes_length (n v : Nat) : (toBytes n v).length = n := by
  induction n generalizing v with
  | zero => rfl
  | succ n ih => simp [toBytes, ih]

/-- A number survives its bytes, modulo their width. -/
theorem ofBytes_toBytes (n v : Nat) : ofBytes (toBytes n v) = v % 256 ^ n := by
  induction n generalizing v with
  | zero => simp [toBytes, ofBytes, Nat.mod_one]
  | succ n ih =>
    simp only [toBytes, ofBytes, ih, BitVec.toNat_ofNat]
    have e : 256 ^ (n + 1) = 256 * 256 ^ n := Nat.pow_succ'
    rw [e, Nat.mod_mul]

theorem ofBytes_lt (bs : List Byte) : ofBytes bs < 256 ^ bs.length := by
  induction bs with
  | nil => simp [ofBytes]
  | cons b bs ih =>
    simp only [ofBytes, List.length_cons, Nat.pow_succ']
    have := b.isLt
    omega

/-- Bytes survive their number. -/
theorem toBytes_ofBytes (bs : List Byte) : toBytes bs.length (ofBytes bs) = bs := by
  induction bs with
  | nil => rfl
  | cons b bs ih =>
    have hb := b.isLt
    have e : (b.toNat + 256 * ofBytes bs) / 256 = ofBytes bs := by omega
    simp only [List.length_cons, toBytes, ofBytes, e, ih]
    congr 1
    apply BitVec.eq_of_toNat_eq
    simp; omega

@[simp] theorem words_length (n v : Nat) : (words n v).length = n := by
  induction n generalizing v with
  | zero => rfl
  | succ n ih => simp [words, ih]

theorem words_one (v : Nat) : words 1 v = [BitVec.ofNat 32 v] := rfl

theorem ofWords_words (n v : Nat) : ofWords (words n v) = v % (2 ^ 32) ^ n := by
  induction n generalizing v with
  | zero => simp [words, ofWords, Nat.mod_one]
  | succ n ih =>
    simp only [words, ofWords, ih, BitVec.toNat_ofNat, Nat.shiftRight_eq_div_pow]
    have e : (2 ^ 32) ^ (n + 1) = 2 ^ 32 * (2 ^ 32) ^ n := Nat.pow_succ'
    rw [e, Nat.mod_mul]

end Sys2Proof.Bits
end

