-- ==== Sys2Proof/Laws/Memory.lean ====
section
/-!
SUPPORT. Laws of the flat memory: a read after a write, a write elsewhere, and the canonical form, which every operation keeps.
-/
namespace Sys2Proof.Machine

/-! ## Reading one byte -/

@[simp] theorem Mem.get_nil (k : Nat) : Mem.get [] k = Mem.unlisted := rfl

theorem Mem.get_cons (j : Nat) (v : Byte) (xs : List Host.Cell) (k : Nat) : Mem.get ((j, v) :: xs) k = if j = k then v else Mem.get xs k := rfl

theorem Mem.get_erase (m : List Host.Cell) (k a : Nat) : Mem.get (Mem.erase m k) a = if a = k then Mem.unlisted else Mem.get m a := by
  induction m with
  | nil => simp [Mem.erase]
  | cons c xs ih =>
    obtain ⟨j, v⟩ := c
    by_cases hj : j = k <;> by_cases ha : a = k <;> by_cases hja : j = a <;> simp_all [Mem.erase, Mem.get_cons]

theorem Mem.get_put (m : List Host.Cell) (k : Nat) (v : Byte) (a : Nat) : Mem.get (Mem.put m k v) a = if a = k then v else Mem.get m a := by
  induction m with
  | nil =>
    by_cases ha : a = k
    · simp [Mem.put, Mem.get_cons, ha]
    · have hk : ¬k = a := fun e => ha e.symm
      simp [Mem.put, Mem.get_cons, ha, hk]
  | cons c xs ih =>
    obtain ⟨j, w⟩ := c
    by_cases ha : a = k
    · subst ha
      by_cases h1 : a < j
      · simp [Mem.put, Mem.get_cons, h1]
      · by_cases h2 : a = j
        · simp [Mem.put, Mem.get_cons, h2]
        · have h3 : ¬j = a := fun e => h2 e.symm
          simp [Mem.put, Mem.get_cons, h1, h2, h3, ih]
    · have hk : ¬k = a := fun e => ha e.symm
      by_cases h1 : k < j
      · simp [Mem.put, Mem.get_cons, h1, ha, hk]
      · by_cases h2 : k = j
        · subst h2; simp [Mem.put, Mem.get_cons, ha, hk]
        · simp [Mem.put, Mem.get_cons, h1, h2, ha, ih]

theorem Mem.get_set (m : List Host.Cell) (k : Nat) (v : Byte) (a : Nat) : Mem.get (Mem.set m k v) a = if a = k then v else Mem.get m a := by
  unfold Mem.set; split
  · subst_vars; exact Mem.get_erase m k a
  · exact Mem.get_put m k v a

@[simp] theorem Mem.get_set_self (m : List Host.Cell) (k : Nat) (v : Byte) : Mem.get (Mem.set m k v) k = v := by simp [Mem.get_set]

theorem Mem.get_set_other (m : List Host.Cell) (k : Nat) (v : Byte) {a : Nat} (h : a ≠ k) : Mem.get (Mem.set m k v) a = Mem.get m a := by
  simp [Mem.get_set, h]

/-! ## Strings of bytes -/

/-- What `Mem.write` does: the string stands from `k` on, and every other byte reads as before. -/
theorem Mem.get_write (bs : List Byte) (m : List Host.Cell) (k a : Nat) :
    Mem.get (Mem.write m k bs) a = if k ≤ a ∧ a < k + bs.length then bs.getD (a - k) 0 else Mem.get m a := by
  induction bs generalizing m k with
  | nil => have h : ¬(k ≤ a ∧ a < k) := by omega
           simp [Mem.write, h]
  | cons b bs ih =>
    simp only [Mem.write, ih, Mem.get_set, List.length_cons]
    by_cases h1 : a = k
    · subst h1; simp
    · by_cases h2 : k + 1 ≤ a ∧ a < k + 1 + bs.length
      · have e : a - k = (a - (k + 1)) + 1 := by omega
        have h3 : k ≤ a ∧ a < k + (bs.length + 1) := by omega
        rw [if_pos h2, if_pos h3, e, List.getD_cons_succ]
      · have h3 : ¬(k ≤ a ∧ a < k + (bs.length + 1)) := by omega
        rw [if_neg h2, if_neg h3, if_neg h1]

@[simp] theorem Mem.read_length (m : List Host.Cell) (k : Nat) (n : Nat) : (Mem.read m k n).length = n := by
  induction n generalizing k with
  | zero => rfl
  | succ n ih => simp [Mem.read, ih]

theorem Mem.read_getD (m : List Host.Cell) (k : Nat) (n i : Nat) (d : Byte) (h : i < n) : (Mem.read m k n).getD i d = Mem.get m (k + i) := by
  induction n generalizing k i with
  | zero => omega
  | succ n ih =>
    cases i with
    | zero => simp [Mem.read]
    | succ i =>
      have e : k + (i + 1) = k + 1 + i := by omega
      simp only [Mem.read, List.getD_cons_succ, e]
      exact ih (k + 1) i (by omega)

/-- Two memories that agree on a range give the same string there. -/
theorem Mem.read_congr {m m' : List Host.Cell} {k : Nat} {n : Nat} (h : ∀ a, k ≤ a → a < k + n → Mem.get m' a = Mem.get m a) :
    Mem.read m' k n = Mem.read m k n := by
  induction n generalizing k with
  | zero => rfl
  | succ n ih =>
    simp only [Mem.read]
    rw [h k (by omega) (by omega), ih (fun a h1 h2 => h a (by omega) (by omega))]

/-- A string is read back where it was written. -/
theorem Mem.read_write_self (m : List Host.Cell) (k : Nat) (bs : List Byte) : Mem.read (Mem.write m k bs) k bs.length = bs := by
  apply List.ext_getElem
  · simp
  · intro i h1 h2
    have h : i < bs.length := h2
    have e := Mem.read_getD (Mem.write m k bs) k bs.length i 0 h
    rw [Mem.get_write] at e
    simp only [List.getD_eq_getElem?_getD, List.getElem?_eq_getElem h1, Option.getD_some] at e
    rw [e]
    have c : k ≤ k + i ∧ k + i < k + bs.length := by omega
    simp [h]

/-- A string apart from the one written reads as before. -/
theorem Mem.read_write_other (m : List Host.Cell) (k j : Nat) (bs : List Byte) (n : Nat) (h : j + n ≤ k ∨ k + bs.length ≤ j) :
    Mem.read (Mem.write m k bs) j n = Mem.read m j n := by
  apply Mem.read_congr
  intro a h1 h2
  rw [Mem.get_write, if_neg (by omega)]

theorem Mem.writeCells_append (xs ys : List (Nat × Byte)) (m : List Host.Cell) :
    Mem.writeCells m (xs ++ ys) = Mem.writeCells (Mem.writeCells m xs) ys := by
  induction xs generalizing m with
  | nil => rfl
  | cons x xs ih => simp [Mem.writeCells, ih]

/-- A key that no cell lists reads as before. -/
theorem Mem.get_writeCells_other (xs : List (Nat × Byte)) (m : List Host.Cell) (a : Nat) (h : ∀ c ∈ xs, c.1 ≠ a) :
    Mem.get (Mem.writeCells m xs) a = Mem.get m a := by
  induction xs generalizing m with
  | nil => rfl
  | cons x xs ih =>
    have h1 : a ≠ x.1 := fun e => h x (by simp) e.symm
    simp only [Mem.writeCells]
    rw [ih _ (fun c hc => h c (by simp [hc])), Mem.get_set_other _ _ _ h1]

/-- With distinct keys each cell is read back. -/
theorem Mem.get_writeCells_mem (xs : List (Nat × Byte)) (m : List Host.Cell) (hd : xs.Pairwise (fun p q => p.1 ≠ q.1)) (c : Nat × Byte) (h : c ∈ xs) :
    Mem.get (Mem.writeCells m xs) c.1 = c.2 := by
  induction xs generalizing m with
  | nil => cases h
  | cons x xs ih =>
    obtain ⟨hx, hxs⟩ := List.pairwise_cons.mp hd
    rcases List.mem_cons.mp h with rfl | h
    · simp only [Mem.writeCells]
      rw [Mem.get_writeCells_other xs _ _ (fun d hd' => (hx d hd').symm)]; simp
    · exact ih _ hxs h

theorem Mem.get_filter (m : List Host.Cell) (f : Nat → Bool) (a : Nat) :
    Mem.get (m.filter (fun c => f c.1)) a = if f a then Mem.get m a else Mem.unlisted := by
  induction m with
  | nil => simp
  | cons c xs ih =>
    obtain ⟨j, v⟩ := c
    simp only [List.filter_cons]
    by_cases hf : f j = true
    · by_cases hja : j = a
      · subst hja; simp [hf, Mem.get_cons]
      · simp [hf, Mem.get_cons, hja, ih]
    · by_cases hja : j = a
      · subst hja; simp [hf, ih]
      · simp [hf, Mem.get_cons, hja, ih]

/-! ## The canonical form -/

theorem Mem.wfFrom_mono {lo lo' : Nat} (h : lo ≤ lo') (m : List Host.Cell) (hm : Mem.wfFrom lo' m = true) : Mem.wfFrom lo m = true := by
  cases m with
  | nil => rfl
  | cons c xs =>
    obtain ⟨j, v⟩ := c
    simp only [Mem.wfFrom, Bool.and_eq_true, decide_eq_true_eq] at hm ⊢
    exact ⟨⟨by omega, hm.1.2⟩, hm.2⟩

/-- Any filter keeps the form. -/
theorem Mem.wfFrom_filter (f : Host.Cell → Bool) (m : List Host.Cell) (lo : Nat) (h : Mem.wfFrom lo m = true) : Mem.wfFrom lo (m.filter f) = true := by
  induction m generalizing lo with
  | nil => rfl
  | cons c xs ih =>
    obtain ⟨j, v⟩ := c
    simp only [Mem.wfFrom, Bool.and_eq_true, decide_eq_true_eq] at h
    simp only [List.filter_cons]
    split
    · simp only [Mem.wfFrom, Bool.and_eq_true, decide_eq_true_eq]
      exact ⟨h.1, ih _ h.2⟩
    · exact Mem.wfFrom_mono (by omega) _ (ih _ h.2)

theorem Mem.wfFrom_erase (m : List Host.Cell) (k : Nat) (lo : Nat) (h : Mem.wfFrom lo m = true) : Mem.wfFrom lo (Mem.erase m k) = true := by
  induction m generalizing lo with
  | nil => rfl
  | cons c xs ih =>
    obtain ⟨j, v⟩ := c
    simp only [Mem.wfFrom, Bool.and_eq_true, decide_eq_true_eq] at h
    simp only [Mem.erase]
    split
    · exact Mem.wfFrom_mono (by omega) _ (ih _ h.2)
    · simp only [Mem.wfFrom, Bool.and_eq_true, decide_eq_true_eq]
      exact ⟨h.1, ih _ h.2⟩

theorem Mem.wfFrom_put (m : List Host.Cell) (k : Nat) (v : Byte) (hv : v ≠ Mem.unlisted) (lo : Nat) (hlo : lo ≤ k) (h : Mem.wfFrom lo m = true) :
    Mem.wfFrom lo (Mem.put m k v) = true := by
  induction m generalizing lo with
  | nil => simp [Mem.put, Mem.wfFrom, hlo, hv]
  | cons c xs ih =>
    obtain ⟨j, w⟩ := c
    simp only [Mem.wfFrom, Bool.and_eq_true, decide_eq_true_eq] at h
    simp only [Mem.put]
    split
    · simp only [Mem.wfFrom, Bool.and_eq_true, decide_eq_true_eq]
      exact ⟨⟨hlo, hv⟩, ⟨by omega, h.1.2⟩, h.2⟩
    · split
      · subst_vars
        simp only [Mem.wfFrom, Bool.and_eq_true, decide_eq_true_eq]
        exact ⟨⟨hlo, hv⟩, h.2⟩
      · simp only [Mem.wfFrom, Bool.and_eq_true, decide_eq_true_eq]
        exact ⟨h.1, ih _ (by omega) h.2⟩

theorem Memory.wf_set {m : List Host.Cell} (h : Memory.wf m = true) (k : Nat) (v : Byte) : Memory.wf (Mem.set m k v) = true := by
  unfold Mem.set Memory.wf at *
  split
  · exact Mem.wfFrom_erase m k 0 h
  · exact Mem.wfFrom_put m k v ‹_› 0 (Nat.zero_le k) h

theorem Memory.wf_write (bs : List Byte) {m : List Host.Cell} (h : Memory.wf m = true) (k : Nat) : Memory.wf (Mem.write m k bs) = true := by
  induction bs generalizing m k with
  | nil => exact h
  | cons b bs ih => exact ih (Memory.wf_set h k b) (k + 1)

theorem Memory.wf_writeCells (xs : List (Nat × Byte)) {m : List Host.Cell} (h : Memory.wf m = true) : Memory.wf (Mem.writeCells m xs) = true := by
  induction xs generalizing m with
  | nil => exact h
  | cons x xs ih => exact ih (Memory.wf_set h x.1 x.2)

theorem Memory.wf_filter {m : List Host.Cell} (h : Memory.wf m = true) (f : Host.Cell → Bool) : Memory.wf (m.filter f) = true :=
  Mem.wfFrom_filter f m 0 h

/-- In canonical form, memories that read alike are equal. -/
theorem Mem.wfFrom_get_lt {lo : Nat} {m : List Host.Cell} (h : Mem.wfFrom lo m = true) {a : Nat} (ha : a < lo) : Mem.get m a = Mem.unlisted := by
  induction m generalizing lo with
  | nil => rfl
  | cons c xs ih =>
    obtain ⟨j, v⟩ := c
    simp only [Mem.wfFrom, Bool.and_eq_true, decide_eq_true_eq] at h
    rw [Mem.get_cons, if_neg (by omega)]
    exact ih h.2 (by omega)

theorem Mem.wfFrom_ext {lo : Nat} {m m' : List Host.Cell} (h : Mem.wfFrom lo m = true) (h' : Mem.wfFrom lo m' = true)
    (e : ∀ a, Mem.get m a = Mem.get m' a) : m = m' := by
  induction m generalizing lo m' with
  | nil =>
    cases m' with
    | nil => rfl
    | cons c xs =>
      obtain ⟨j, v⟩ := c
      simp only [Mem.wfFrom, Bool.and_eq_true, decide_eq_true_eq] at h'
      have := e j
      simp [Mem.get_cons] at this
      exact absurd this.symm h'.1.2
  | cons c xs ih =>
    obtain ⟨j, v⟩ := c
    have h0 := h
    simp only [Mem.wfFrom, Bool.and_eq_true, decide_eq_true_eq] at h
    cases m' with
    | nil =>
      have := e j
      simp [Mem.get_cons] at this
      exact absurd this h.1.2
    | cons c' ys =>
      obtain ⟨j', v'⟩ := c'
      have h0' := h'
      simp only [Mem.wfFrom, Bool.and_eq_true, decide_eq_true_eq] at h'
      have ej : j = j' := by
        rcases Nat.lt_trichotomy j j' with hlt | heq | hlt
        · have := e j
          rw [Mem.get_cons, if_pos rfl, Mem.get_cons, if_neg (by omega), Mem.wfFrom_get_lt h'.2 (by omega)] at this
          exact absurd this h.1.2
        · exact heq
        · have := e j'
          rw [Mem.get_cons, if_neg (by omega), Mem.wfFrom_get_lt h.2 (by omega), Mem.get_cons, if_pos rfl] at this
          exact absurd this.symm h'.1.2
      subst ej
      have ev : v = v' := by simpa [Mem.get_cons] using e j
      subst ev
      have et : ∀ a, Mem.get xs a = Mem.get ys a := by
        intro a
        by_cases ha : a < j + 1
        · rw [Mem.wfFrom_get_lt h.2 ha, Mem.wfFrom_get_lt h'.2 ha]
        · have := e a
          rwa [Mem.get_cons, if_neg (by omega), Mem.get_cons, if_neg (by omega)] at this
      rw [ih h.2 h'.2 et]

/-- Equal memories are equal data. -/
theorem Memory.wf_ext {m m' : List Host.Cell} (h : Memory.wf m = true) (h' : Memory.wf m' = true) (e : ∀ a, Mem.get m a = Mem.get m' a) : m = m' :=
  Mem.wfFrom_ext h h' e

end Sys2Proof.Machine
end

