-- ==== Sys2Proof/Laws/Access.lean ====
section
/-!
SUPPORT. Laws of the shared operations of an access: what a load, a staged store, a write that performs and a commit change, and that each keeps
the canonical form of memory.
-/
namespace Sys2Proof.Machine
open Sys2Proof Bits Encoding

/-! ## Loads -/

@[simp] theorem State.cacheFill_mem (line cls : Nat) (s : State) : (s.cacheFill line cls).mem = s.mem := rfl
@[simp] theorem State.cacheFill_thr (line cls : Nat) (s : State) : (s.cacheFill line cls).thr = s.thr := rfl
@[simp] theorem State.cacheFill_grp (line cls : Nat) (s : State) : (s.cacheFill line cls).grp = s.grp := rfl

/-- A plain load changes the load cache and the count of choices drawn, and nothing else. -/
theorem State.plainBytes_eq (key n cls : Nat) (s : State) :
    (s.plainBytes key n cls).2 = { s with core := { s.core with lcache := (s.plainBytes key n cls).2.core.lcache }, drawn := (s.plainBytes key n cls).2.drawn } := by
  unfold State.plainBytes
  simp only
  split
  · rfl
  · split
    · split
      · rfl
      · by_cases hc : Config.choice s.drawn % 2 = 0 <;> simp [State.choose, State.cacheFill, hc]
    · rfl

/-- What a load changes: as a plain load, or nothing. -/
theorem State.load_eq {x : Xlat} {n : Nat} {plain : Bool} {s t : State} {v : Nat} (h : s.load x n plain = .ok (v, t)) :
    t = { s with core := { s.core with lcache := t.core.lcache }, drawn := t.drawn } := by
  unfold State.load at h
  split at h
  · cases h
  · cases plain with
    | false => simp at h; obtain ⟨-, rfl⟩ := h; rfl
    | true =>
      simp only [if_true, Except.ok.injEq, Prod.mk.injEq] at h
      obtain ⟨-, rfl⟩ := h
      exact State.plainBytes_eq _ _ _ _

@[simp] theorem overlay_length (staged : List (Nat × Byte)) (k : Nat) (bs : List Byte) : (overlay staged k bs).length = bs.length := by
  induction bs generalizing k with
  | nil => rfl
  | cons b bs ih => simp [overlay, ih]

/-- With nothing staged, a group reads memory. -/
@[simp] theorem overlay_nil (k : Nat) (bs : List Byte) : overlay [] k bs = bs := by
  induction bs generalizing k with
  | nil => rfl
  | cons b bs ih => simp [overlay, lookup, ih]

/-! ## Writes that perform -/

theorem State.perform_get (key : Nat) (bs : List Byte) (s : State) (a : Nat) :
    Mem.get (s.perform key bs).mem a = if key ≤ a ∧ a < key + bs.length then bs.getD (a - key) 0 else Mem.get s.mem a := Mem.get_write bs s.mem key a

@[simp] theorem State.perform_thr (key : Nat) (bs : List Byte) (s : State) : (s.perform key bs).thr = s.thr := rfl
@[simp] theorem State.perform_grp (key : Nat) (bs : List Byte) (s : State) : (s.perform key bs).grp = s.grp := rfl
@[simp] theorem State.perform_part (key : Nat) (bs : List Byte) (s : State) : (s.perform key bs).part = s.part := rfl
@[simp] theorem State.perform_nextId (key : Nat) (bs : List Byte) (s : State) : (s.perform key bs).nextId = s.nextId := rfl

theorem State.perform_wf {key : Nat} {bs : List Byte} {s : State} (h : Memory.wf s.mem = true) : Memory.wf (s.perform key bs).mem = true :=
  Memory.wf_write bs h key

theorem State.performCells_mem (cells : List (Nat × Byte)) (s : State) : (s.performCells cells).mem = Mem.writeCells s.mem cells := by
  unfold State.performCells
  induction cells generalizing s with
  | nil => rfl
  | cons c cs ih => simp only [List.foldl_cons, ih, Mem.writeCells]; rfl

theorem State.performCells_thr (cells : List (Nat × Byte)) (s : State) : (s.performCells cells).thr = s.thr := by
  unfold State.performCells
  induction cells generalizing s with
  | nil => rfl
  | cons c cs ih => simp [ih]

theorem State.performCells_grp (cells : List (Nat × Byte)) (s : State) : (s.performCells cells).grp = s.grp := by
  unfold State.performCells
  induction cells generalizing s with
  | nil => rfl
  | cons c cs ih => simp [ih]

@[simp] theorem State.clearPoison_mem (cells : List (Nat × Byte)) (s : State) : (s.clearPoison cells).mem = s.mem := rfl
@[simp] theorem State.clearPoison_thr (cells : List (Nat × Byte)) (s : State) : (s.clearPoison cells).thr = s.thr := rfl
@[simp] theorem State.clearPoison_grp (cells : List (Nat × Byte)) (s : State) : (s.clearPoison cells).grp = s.grp := rfl

/-! ## Commit (R120, R144) -/

theorem State.commitStaged_mem (s : State) : s.commitStaged.mem = Mem.writeCells s.mem s.grp.staged := by
  simp only [State.commitStaged, State.clearPoison_mem, State.performCells_mem]

theorem State.commitStaged_thr (s : State) : s.commitStaged.thr = s.thr := by
  simp only [State.commitStaged, State.clearPoison_thr, State.performCells_thr]

theorem State.commitStaged_grp (s : State) : s.commitStaged.grp = { s.grp with staged := [], stagedVa := [], stagedStamps := [] } := by
  simp only [State.commitStaged, State.clearPoison_grp, State.performCells_grp]

theorem State.commitStaged_wf {s : State} (h : Memory.wf s.mem = true) : Memory.wf s.commitStaged.mem = true := by
  rw [State.commitStaged_mem]; exact Memory.wf_writeCells _ h

theorem State.commitNow_mem (s : State) : s.commitNow.mem = Mem.writeCells s.mem s.grp.staged := by
  simp only [State.commitNow]; exact State.commitStaged_mem s

theorem State.commitNow_thr (s : State) : s.commitNow.thr = s.thr := by
  simp only [State.commitNow]; exact State.commitStaged_thr s

/-- An early commit that goes through is no auditor's, has found every sector prepared, and commits what is staged. -/
theorem State.commitEarly_ok {s t : State} (h : s.commitEarly = .ok t) : s.grp.shadow = 0 ∧ s.unprepared = false ∧ t = s.commitNow := by
  unfold State.commitEarly at h
  split at h
  · cases h
  · split at h
    · cases h
    · next h1 h2 =>
      cases h
      exact ⟨by simpa using h1, by simpa using h2, rfl⟩

theorem State.commitEarly_wf {s t : State} (h : Memory.wf s.mem = true) (ht : s.commitEarly = .ok t) : Memory.wf t.mem = true := by
  rw [(State.commitEarly_ok ht).2.2, State.commitNow_mem]; exact Memory.wf_writeCells _ h

/-- With nothing staged a publishing write commits nothing. -/
theorem State.publishFirst_nil {s : State} (h : s.grp.staged = []) : s.publishFirst = .ok s := by simp [State.publishFirst, h]

theorem State.publishFirst_wf {s t : State} (h : Memory.wf s.mem = true) (ht : s.publishFirst = .ok t) : Memory.wf t.mem = true := by
  unfold State.publishFirst at ht; split at ht
  · cases ht; exact h
  · exact State.commitEarly_wf h ht

theorem State.publishRule_wf {rel : Bool} {s t : State} (h : Memory.wf s.mem = true) (ht : s.publishRule rel = .ok t) : Memory.wf t.mem = true := by
  unfold State.publishRule at ht; split at ht
  · cases hp : s.publishFirst with
    | error e => rw [hp] at ht; cases ht
    | ok s1 => rw [hp] at ht; cases ht; have := State.publishFirst_wf h hp; exact this
  · cases ht; exact h

/-- A plain store keeps the form, whether it is staged or performs. -/
theorem State.stagePlain_wf {key va : Nat} {bs : List Byte} {s t : State} (h : Memory.wf s.mem = true) (ht : s.stagePlain key va bs = .ok t) :
    Memory.wf t.mem = true := by
  unfold State.stagePlain at ht
  simp only at ht
  split at ht
  · cases ht; exact State.perform_wf h
  · split at ht
    · cases hc : s.commitEarly with
      | error e => rw [hc] at ht; cases ht
      | ok s1 => rw [hc] at ht; cases ht; have := State.commitEarly_wf h hc; exact State.perform_wf this
    · cases ht; exact h

/-- A staged byte is what the group reads next. -/
theorem stageBytes_lookup (bs : List Byte) (staged : List (Nat × Byte)) (k a : Nat) :
    lookup a (stageBytes staged k bs) = if k ≤ a ∧ a < k + bs.length then some (bs.getD (a - k) 0) else lookup a staged := by
  induction bs generalizing staged k with
  | nil =>
    have h : ¬(k ≤ a ∧ a < k) := by omega
    simp [stageBytes, h]
  | cons b bs ih =>
    simp only [stageBytes, ih, lookup_insert, List.length_cons]
    by_cases h1 : a = k
    · subst h1; simp
    · by_cases h2 : k + 1 ≤ a ∧ a < k + 1 + bs.length
      · have e : a - k = (a - (k + 1)) + 1 := by omega
        rw [if_pos h2, if_pos (by omega), e, List.getD_cons_succ]
      · rw [if_neg h2, if_neg h1, if_neg (by omega)]

/-! ## Ordering (R141, R142) -/

@[simp] theorem State.acquire_mem (scope : Nat) (s : State) : (s.acquire scope).mem = s.mem := by unfold State.acquire; split <;> rfl
@[simp] theorem State.acquire_thr (scope : Nat) (s : State) : (s.acquire scope).thr = s.thr := by unfold State.acquire; split <;> rfl
@[simp] theorem State.acquire_grp (scope : Nat) (s : State) : (s.acquire scope).grp = s.grp := by unfold State.acquire; split <;> rfl

/-- A release that goes on has found every earlier write acknowledged and every marker gathered, and forgets the markers at most. -/
theorem State.release_ok {scope : Nat} {s t : State} (h : s.release scope = .ok t) :
    s.released scope = true ∧ t = { s with thr := { s.thr with markers := t.thr.markers } } := by
  unfold State.release at h
  split at h
  · next hr =>
    refine ⟨hr, ?_⟩
    simp only [Except.ok.injEq] at h
    subst h
    split <;> rfl
  · cases h

@[simp] theorem State.addUnacked_mem (dev path : Nat) (s : State) : (s.addUnacked dev path).mem = s.mem := rfl
@[simp] theorem State.addUnacked_grp (dev path : Nat) (s : State) : (s.addUnacked dev path).grp = s.grp := rfl

end Sys2Proof.Machine
end

