-- ==== Sys2Proof/Laws/Registers.lean ====
section
/-!
SUPPORT. Laws of the register file and of the flags: what each write of a thread's registers, predicates and flags changes, and that it changes
nothing else.
-/
namespace Sys2Proof.Machine
open Sys2Proof Bits Encoding

/-! ## One register -/

/-- Writing a register changes the registers and the spin hash. -/
theorem Thread.put1_eq (t : Thread) (n : Nat) (v : Word) : t.put1 n v = { t with regs := (t.put1 n v).regs, spin := (t.put1 n v).spin } := by
  unfold Thread.put1; split <;> rfl

theorem Thread.put1_regs (t : Thread) (n : Nat) (v : Word) (k : Nat) (h : k < 200) : (t.put1 n v).regs[k] = if n = k then v else t.regs[k] := by
  unfold Thread.put1; split
  · simp [Thread.note, Vector.getElem_set]
  · have hn : n ≠ k := by omega
    simp [hn]

/-! ## Consecutive registers -/

theorem Thread.puts_eq (vs : List Word) (t : Thread) (c : Nat) : t.puts c vs = { t with regs := (t.puts c vs).regs, spin := (t.puts c vs).spin } := by
  induction vs generalizing t c with
  | nil => rfl
  | cons v vs ih => simp only [Thread.puts]; rw [ih, Thread.put1_eq]

theorem Thread.puts_regs (vs : List Word) (t : Thread) (c : Nat) (k : Nat) (h : k < 200) :
    (t.puts c vs).regs[k] = if c ≤ k ∧ k < c + vs.length then vs.getD (k - c) 0 else t.regs[k] := by
  induction vs generalizing t c with
  | nil =>
    have h0 : ¬(c ≤ k ∧ k < c) := by omega
    simp [Thread.puts, h0]
  | cons v vs ih =>
    simp only [Thread.puts, ih, Thread.put1_regs _ _ _ _ h, List.length_cons]
    by_cases h1 : c = k
    · subst h1; simp
    · by_cases h2 : c + 1 ≤ k ∧ k < c + 1 + vs.length
      · have e1 : k - c = (k - (c + 1)) + 1 := by omega
        rw [if_pos h2, if_pos (by omega), e1, List.getD_cons_succ]
      · rw [if_neg h2, if_neg h1, if_neg (by omega)]

/-- A destination that is no x or o register discards what is written (Table 1.2). -/
theorem Thread.putDst_discards (t : Thread) (c : BitVec 8) (vs : List Word) (h : 200 ≤ c.toNat) : t.putDst c vs = t := by
  unfold Thread.putDst; rw [if_neg (by omega)]

theorem Thread.putDst_eq (t : Thread) (c : BitVec 8) (vs : List Word) :
    t.putDst c vs = { t with regs := (t.putDst c vs).regs, spin := (t.putDst c vs).spin } := by
  unfold Thread.putDst; split
  · exact Thread.puts_eq _ _ _
  · rfl

theorem Thread.putDst_regs (t : Thread) (c : BitVec 8) (vs : List Word) (k : Nat) (h : k < 200) :
    (t.putDst c vs).regs[k] = if c.toNat ≤ k ∧ k < c.toNat + vs.length then vs.getD (k - c.toNat) 0 else t.regs[k] := by
  by_cases hc : c.toNat < 200
  · have e : t.putDst c vs = t.puts c.toNat vs := if_pos hc
    simp only [e, Thread.puts_regs _ _ _ _ h]
  · simp only [Thread.putDst_discards t c vs (by omega)]
    rw [if_neg (by omega)]

/-! ## Results -/

/-- Everything a delivered result changes: the registers it names, the spin hash and, for a 32-bit ALU-pipe result, the last-result file (R10). -/
theorem Thread.result_eq (t : Thread) (a : Bool) (c : BitVec 8) (vs : List Word) :
    t.result a c vs = { t with
      l0 := (if a && vs.length == 1 then vs.getD 0 0 else t.l0), l1 := (if a && vs.length == 1 then t.l0 else t.l1),
      regs := (t.putDst c vs).regs, spin := (t.putDst c vs).spin } := by
  unfold Thread.result
  split
  · next v =>
    have e : (t.shift v).putDst c [v] = { t.putDst c [v] with l1 := t.l0, l0 := v } := by
      unfold Thread.putDst; split
      · simp only [Thread.puts, Thread.put1]; split <;> rfl
      · rfl
    rw [e, Thread.putDst_eq]; rfl
  · rename_i hne
    have e : (a && vs.length == 1) = false := by
      cases a with
      | false => rfl
      | true =>
        match vs with
        | [] => rfl
        | [v] => exact absurd rfl (hne v rfl)
        | _ :: _ :: _ => rfl
    rw [Thread.putDst_eq, e]; rfl

/-! ## Predicates and flags -/

/-- Writing a predicate changes the predicates and the spin hash. -/
theorem Thread.putQ_eq (t : Thread) (i : Nat) (v : Bool) : t.putQ i v = { t with q := (t.putQ i v).q, spin := (t.putQ i v).spin } := by
  unfold Thread.putQ; split <;> rfl

/-- A write to q7 is discarded (R12). -/
@[simp] theorem Thread.putQ_seven (t : Thread) (v : Bool) : t.putQ 7 v = t := rfl

/-- q7 reads true (Table 1.1). -/
@[simp] theorem Thread.getQ_seven (t : Thread) : t.getQ 7 = true := rfl

theorem Thread.getQ_putQ (t : Thread) (d : Nat) (v : Bool) (j : Nat) (hd : d < 8) (hj : j < 8) :
    (t.putQ d v).getQ j = if j = d ∧ d ≠ 7 then v else t.getQ j := by
  by_cases h7 : j = 7
  · subst h7
    by_cases e : 7 = d
    · subst e; simp
    · simp [e]
  · have hjm : j % 8 = j := Nat.mod_eq_of_lt hj
    have hdm : d % 8 = d := Nat.mod_eq_of_lt hd
    unfold Thread.putQ
    split
    · next h => rw [hdm] at h; simp [h]
    · next h =>
      rw [hdm] at h
      have hj7 : j < 7 := by omega
      have hd7 : d < 7 := by omega
      simp only [Thread.getQ, Thread.note, hjm, hdm, if_neg h7]
      cases v <;> by_cases e : j = d
      · subst e; simp [h, hj7]
      · have e' : ¬d = j := fun x => e x.symm
        simp [e, e', hj7]
      · subst e; simp [h, hj7]
      · have e' : ¬d = j := fun x => e x.symm
        simp [e, e']

@[simp] theorem Thread.putCC_cc (t : Thread) (v : BitVec 4) : (t.putCC v).cc = v := rfl
theorem Thread.putCC_eq (t : Thread) (v : BitVec 4) : t.putCC v = { t with cc := v, spin := (t.putCC v).spin } := rfl

/-! ## Pending results -/

/-- With no result arrived, nothing is written: the pending results stay in order. -/
theorem Thread.flush_quiet (t : Thread) (kept ps : List Pending) (h : ps.all (fun p => !p.arrived) = true) :
    Thread.flush t kept ps = { t with pend := kept.reverse ++ ps } := by
  induction ps generalizing t kept with
  | nil => simp [Thread.flush]
  | cons p ps ih =>
    simp only [List.all_cons, Bool.and_eq_true] at h
    have ha : p.arrived = false := by simpa using h.1
    simp [Thread.flush, ha, ih _ _ h.2]

/-- With no result arrived, one more instruction makes each older window one shorter and changes nothing else. -/
theorem Thread.shrink_quiet (t : Thread) (n : Nat) (h : t.pend.all (fun p => !p.arrived) = true) :
    t.shrink n = { t with pend := t.pend.map (fun p => if p.serial < n then { p with win := p.win - 1 } else p) } := by
  simp only [Thread.shrink]
  rw [Thread.flush_quiet]
  · simp
  · simp only [List.all_map, List.all_eq_true] at h ⊢
    intro p hp
    have := h p hp
    simp only [Function.comp]
    split <;> simpa using this

end Sys2Proof.Machine
end

