-- ==== Sys2Proof/Laws/Issue.lean ====
section
/-!
SUPPORT. Laws of issuing: what `State.issue` answers for an instruction that can execute, and how the effect of its body reaches the next state.
-/
namespace Sys2Proof.Claims
open Machine Bits Encoding

/-! ## The choice of R14 -/

theorem freshenFrom_eq (l : List (Nat × Word)) (s : State) :
    freshenFrom l s = { s with thr := { s.thr with stale := (freshenFrom l s).thr.stale }, drawn := (freshenFrom l s).drawn } := by
  induction l generalizing s with
  | nil => rfl
  | cons v vs ih =>
    simp only [freshenFrom]
    split <;> (rw [ih]; simp [State.choose])

/-- Dropping older uniform values changes nothing else but the count of choices drawn. -/
theorem freshen_eq (s : State) : s.freshen = { s with thr := { s.thr with stale := s.freshen.thr.stale }, drawn := s.freshen.drawn } :=
  freshenFrom_eq _ _

theorem freshen_status (s : State) : s.freshen.thr.status = s.thr.status := by rw [freshen_eq]
theorem freshen_pend (s : State) : s.freshen.thr.pend = s.thr.pend := by rw [freshen_eq]
theorem freshen_key (s : State) : s.freshen.thr.key = s.thr.key := by rw [freshen_eq]
theorem freshen_nextId (s : State) : s.freshen.nextId = s.nextId := by rw [freshen_eq]
theorem freshen_spin (s : State) : s.freshen.thr.spin = s.thr.spin := by rw [freshen_eq]
theorem freshen_mem (s : State) : s.freshen.mem = s.mem := by rw [freshen_eq]

@[simp] theorem atBody_status (e : Enc) (s : State) : (atBody e s).thr.status = s.thr.status := by simp [atBody, freshen_status]
@[simp] theorem atBody_pend (e : Enc) (s : State) : (atBody e s).thr.pend = s.thr.pend := by simp [atBody, freshen_pend]
@[simp] theorem atBody_key (e : Enc) (s : State) : (atBody e s).thr.key = s.thr.key := by simp [atBody, freshen_key]
@[simp] theorem atBody_nextId (e : Enc) (s : State) : (atBody e s).nextId = s.nextId := by simp [atBody, freshen_nextId]
@[simp] theorem atBody_mem (e : Enc) (s : State) : (atBody e s).mem = s.mem := by simp [atBody, freshen_mem]

/-! ## Issuing -/

/-- An instruction that nothing holds back ends no window of a result that has not arrived. -/
theorem endsWindow_free {e : Enc} {s : State} (h : s.interlocked e = false) : ∀ p ∈ s.thr.pend, endsWindow e p = false := by
  intro p hp
  simp only [State.interlocked, Thread.interlocked, Bool.or_eq_false_iff] at h
  obtain ⟨⟨⟨⟨⟨-, -⟩, hd⟩, -⟩, hf⟩, -⟩ := h
  have hn : s.thr.pend.isEmpty = false := by cases hs : s.thr.pend with | nil => rw [hs] at hp; cases hp | cons => rfl
  have hd' : drains e.op = false := by simpa [hn] using hd
  simp only [endsWindow, hd', Bool.false_or]
  by_cases h1 : (e.op = 0xE0 || e.op = 0xE1) = true
  · rw [h1] at hf ⊢
    simp only [Bool.true_and, Bool.or_eq_false_iff, Bool.and_eq_false_iff] at hf ⊢
    refine ⟨hf.1.imp id (fun g => ?_), hf.2.imp id (fun g => ?_)⟩ <;> exact List.any_eq_false.1 g p hp |> fun x => by simpa using x
  · have : (e.op = 0xE0 || e.op = 0xE1) = false := by simpa using h1
    rw [this]; rfl

/-- With no result arrived, an instruction that nothing holds back ends no window. -/
theorem endWindows_quiet {e : Enc} {s : State} (h : s.interlocked e = false) (hq : Quiet s) : s.thr.endWindows e = s.thr := by
  have hm : s.thr.pend.map (fun p => if endsWindow e p then { p with win := 0 } else p) = s.thr.pend := by
    conv => rhs; rw [← List.map_id s.thr.pend]
    apply List.map_congr_left
    intro p hp
    simp [endsWindow_free h p hp]
  simp only [Thread.endWindows, hm]
  rw [Thread.flush_quiet _ _ _ hq]
  rfl

/-- An instruction that can issue and whose guard is true runs its body. -/
theorem issue_runs {g : Bool} {b : Body} {e : Enc} {s : State} (h : Ready e s) (hq : Quiet s) : s.issue g b e = .next (s.run e b) := by
  obtain ⟨⟨h1, h2, h3, h4⟩, h5⟩ := h
  simp [State.issue, h1, h2, h3, h4, h5, endWindows_quiet h4 hq]

/-- A cross-lane or pool instruction runs its body whatever its guard. -/
theorem issue_gathers {b : Body} {e : Enc} {s : State} (h : Issues e s) (hq : Quiet s) : s.issue true b e = .next (s.run e b) := by
  obtain ⟨h1, h2, h3, h4⟩ := h
  simp [State.issue, h1, h2, h3, h4, endWindows_quiet h4 hq]

/-- An instruction whose guard is false only moves on. -/
theorem issue_skips {b : Body} {e : Enc} {s : State} (h : Issues e s) (hg : s.thr.guard e.g e.n = false) : s.issue false b e = .next (s.skip e) := by
  obtain ⟨h1, h2, h3, h4⟩ := h
  simp [State.issue, h1, h2, h3, h4, hg]

theorem run_ok {e : Enc} {body : Body} {s s1 : State} (hb : body e (atBody e s) = .ok s1) : s.run e body = s.freshen.retire s1 := by
  simp only [State.run]; unfold atBody at hb; rw [hb]

theorem run_error {e : Enc} {body : Body} {s : State} {st : Stop} (hb : body e (atBody e s) = .error st) :
    s.run e body = s.freshen.stop (toWords e) st := by
  simp only [State.run]; unfold atBody at hb; rw [hb]

/-! ## Retiring -/

/-- What every completed instruction leaves, with no result arrived. -/
theorem retire_ready (s0 s : State) (hk : s.thr.key = s0.thr.key) (hs : s.thr.status = .ready) (hq : s.thr.pend.all (fun p => !p.arrived) = true) :
    s0.retire s = { s with thr := { s.thr with
      pend := s.thr.pend.map (fun p => if p.serial < s0.nextId then { p with win := p.win - 1 } else p),
      released := false, aged := false, readySince := s.dev.clk, progress := if s0.thr.spin.low then s.thr.progress else s.dev.clk } } := by
  simp only [State.retire, hk, hs, ne_eq, not_true_eq_false, if_false]
  rw [Thread.shrink_quiet _ _ hq]
  simp [hs, hk]

/-- An instruction completes when its body answers and the retired state is as claimed. -/
theorem does_ok {g : Bool} {body : Body} {e : Enc} {s : State} {P : State → State → Prop} (i : Instr) (hi : exec i s = s.issue g body e) (s1 : State)
    (hb : body e (atBody e s) = .ok s1) (hP : s.thr.status = .ready → Quiet s → P (atBody e s) (s.freshen.retire s1)) : Does i e s P := by
  intro hr hq
  refine ⟨_, ?_, hP hr.1.1 hq⟩
  rw [hi, issue_runs hr hq, run_ok hb]

/-- The effect of a body that only writes flags and delivers an ALU-pipe result. -/
theorem alu_put (e : Enc) (s : State) (n v : Nat) (cc : BitVec 4) (fp : BitVec 5) (sli : BitVec 7) (s1 : State)
    (hs : s.thr.status = .ready) (hq : Quiet s)
    (h1 : s1 = { atBody e s with thr := { (atBody e s).thr with cc := cc, spin := s1.thr.spin, fp := fp, sli := sli } }) :
    Alu e n v cc fp sli (atBody e s) (s.freshen.retire (s1.putD e n v)) := by
  have hp : s1.putD e n v = { s1 with thr := s1.thr.result true (code e e.d) (words n v) } := rfl
  rw [hp, Thread.result_eq, h1, retire_ready]
  rotate_left
  · simp [freshen_key]
  · simpa using hs
  · simpa [Quiet] using hq
  refine ⟨?_, ?_, ⟨?_, ?_, ?_⟩, rfl, rfl, rfl, rfl⟩
  · simp only [OnlyThread]
  · simp only [shrunk, freshen_nextId, atBody_nextId]
  · intro k h
    simp only [Thread.putDst_regs _ _ _ _ h]
  · by_cases hn : n = 1
    · subst hn; simp [words_one]
    · simp [words_length, hn]
  · by_cases hn : n = 1
    · subst hn; simp [words_one]
    · simp [words_length, hn]

/-! ## Events -/

theorem happens_of {i : Instr} {s : State} {place : Option State} {due : State → Prop} {P : State → State → Prop} (f : State → Option State)
    (hi : exec i s = .next ((place.bind f).getD s)) (hf : ∀ s1, place = some s1 → due s1 → ∃ t, f s1 = some t ∧ P s1 t) : Happens i s place due P := by
  intro s1 hs hd
  obtain ⟨t, ht, hp⟩ := hf s1 hs hd
  exact ⟨t, by rw [hi, hs]; simp [ht], hp⟩

theorem happensWhen_of {i : Instr} {s : State} {place : Option State} {due : State → Prop} {P : State → State → Prop} (f : State → Option State)
    (hi : exec i s = .next ((place.bind f).getD s)) (hf : ∀ s1, place = some s1 → due s1 → ∃ t, f s1 = some t ∧ P s1 t)
    (hn : ∀ s1, place = some s1 → ¬due s1 → f s1 = none) : HappensWhen i s place due P := by
  refine ⟨happens_of f hi hf, fun h => ?_⟩
  rw [hi]
  cases e : place with
  | none => rfl
  | some s1 => simp [hn s1 e (h s1 e)]

end Sys2Proof.Claims
end

