-- ==== Sys2Proof/Laws/Effects.lean ====
section
/-!
SUPPORT. What the shared operations of an access leave, once each: the check and translation of a global access, the race check, a published write, a release,
an access sent, a pending result, and an instruction that goes on or waits.
-/
namespace Sys2Proof.Claims
open Machine Bits Encoding

/-- A long-latency instruction leaves its result pending. -/
theorem later_leaves {e : Enc} {s : State} (vals : List Word) (n : Nat) (fp : BitVec 5) (sli : BitVec 7) (alu acq canSli canFp : Bool)
    (hs : s.thr.status = .ready) (hq : Quiet s) :
    Leaves ⟨(atBody e s).nextId, code e e.d, vals, n, e.la.toNat, false, fp, sli, alu, acq, canSli, canFp⟩ (atBody e s)
      (s.freshen.retire ((atBody e s).later e vals n fp sli alu acq canSli canFp)) := by
  rw [retire_ready]
  rotate_left
  · simp [State.later, State.laterAs, State.freshId, freshen_key]
  · simpa [State.later, State.laterAs, State.freshId] using hs
  · simp only [State.later, State.laterAs, State.freshId, atBody_pend, List.all_append, Bool.and_eq_true]
    exact ⟨hq, rfl⟩
  refine ⟨rfl, ?_, ⟨rfl, rfl, rfl⟩, rfl, rfl, rfl, rfl⟩
  simp [State.later, State.laterAs, State.freshId, shrunk, freshen_nextId]

/-- Choosing older uniform values leaves the group as it is. -/
theorem atBody_grp (e : Enc) (s : State) : (atBody e s).grp = s.grp := by unfold atBody; rw [freshen_eq]
theorem atBody_nid (e : Enc) (s : State) : (atBody e s).nextId = s.nextId := atBody_nextId e s

/-- Setting accessed and dirty bits changes memory alone. -/
theorem mark_eq (va : Nat) (st : Bool) (x : Xlat) (s : State) : s.mark va st x = { s with mem := (s.mark va st x).mem } := by
  unfold State.mark
  split
  · rfl
  · split
    · split <;> rfl
    · rfl

/-- `touch` changes nothing but the cached translations and memory. -/
theorem touch_eq (va : Nat) (st : Bool) (x : Xlat) (s : State) :
    s.touch va st x = { s with mem := (s.touch va st x).mem, core := (s.touch va st x).core } := by
  unfold State.touch
  simp only
  rw [mark_eq]

/-- A global access that passes its checks has touched its page and nothing else. -/
theorem global_ok {r : Req} {s s1 : State} {x : Xlat} (h : s.global r = .ok (x, s1)) : s1 = s.touch r.va r.write x := by
  unfold State.global at h
  split at h
  · cases h
  · split at h
    · cases h
    · split at h
      · cases h
      · cases h; rfl

/-- Fields that the check of a global access leaves alone. -/
theorem global_facts {r : Req} {b s1 : State} {l : Xlat} (hg : b.global r = .ok (l, s1)) :
    s1.thr = b.thr ∧ s1.grp = b.grp ∧ s1.nextId = b.nextId ∧ s1.part = b.part ∧ s1.inflight = b.inflight ∧ s1.dev = b.dev ∧ s1.lau = b.lau := by
  have hg1 := global_ok hg
  have ht := touch_eq r.va r.write l b
  rw [← hg1] at ht
  refine ⟨?_, ?_, ?_, ?_, ?_, ?_, ?_⟩ <;> rw [ht]

/-- A race check that passes changes stamps alone, and keeps the old one of a staged store. -/
theorem race_eq {key va : Nat} {w : Bool} {s t : State} (h : s.race key va w = .ok t) :
    t = { s with stamps := t.stamps, stampOwner := t.stampOwner, grp := { s.grp with stagedStamps := t.grp.stagedStamps } } := by
  unfold State.race at h
  split at h
  · cases h; rfl
  · simp only at h
    split at h
    · cases h
    · cases h; rfl

/-- The same where the class decides whether the check is made. -/
theorem raceIf_eq {x : Xlat} {va : Nat} {w : Bool} {s t : State} (h : s.raceIf x va w = .ok t) :
    t = { s with stamps := t.stamps, stampOwner := t.stampOwner, grp := { s.grp with stagedStamps := t.grp.stagedStamps } } := by
  unfold State.raceIf at h
  split at h
  · exact race_eq h
  · cases h; rfl

/-- Bytes of memory under a group's staged bytes, one by one. -/
theorem overlay_map (staged : List (Nat × Byte)) (m : List Host.Cell) (k n : Nat) :
    overlay staged k (Mem.read m k n) = (List.range n).map (fun i => (lookup (k + i) staged).getD (Mem.get m (k + i))) := by
  apply List.ext_getElem
  · simp
  · intro i h1 h2
    have : ∀ (bs : List Byte) (k i : Nat) (h : i < (overlay staged k bs).length), (overlay staged k bs)[i] = (lookup (k + i) staged).getD (bs.getD i 0) := by
      intro bs
      induction bs with
      | nil => intro k i h; simp [overlay] at h
      | cons b bs ih =>
        intro k i h
        cases i with
        | zero => simp [overlay]
        | succ j => simp only [overlay, List.getElem_cons_succ]; rw [ih]; simp [Nat.add_assoc, Nat.add_comm 1 j]
    rw [this]
    simp at h1 h2
    rw [Mem.read_getD _ _ _ _ _ h2]
    simp

/-- With no line of the address cached, a plain load reads memory. -/
theorem plainBytes_uncached {key n cls : Nat} {s : State} (h : cacheable cls = false ∨ s.core.lcache.find? (fun c => c.line = key / 128 && c.pid = s.part.pid) = none) :
    (s.plainBytes key n cls).1 = Mem.read s.mem key n := by
  unfold State.plainBytes
  rcases h with h | h
  · simp [h]
  · simp only; split
    · rfl
    · simp only [h]

/-- What `retire` leaves of an instruction that does not wait. -/
theorem retire_next {s s1 : State} (hk : s1.thr.key = s.thr.key) (hs : s1.thr.status = .ready) (hq : s1.thr.pend.all (fun p => !p.arrived) = true) :
    s.freshen.retire s1 = { s1 with thr := { s1.thr with
      pend := s1.thr.pend.map (fun p => if p.serial < s.nextId then { p with win := p.win - 1 } else p),
      released := false, aged := false, readySince := s1.dev.clk, progress := if s.thr.spin.low then s1.thr.progress else s1.dev.clk } } := by
  rw [retire_ready _ _ (by rw [hk, freshen_key]) hs hq, freshen_nextId, freshen_spin]

/-- Choosing older uniform values leaves the PC. -/
theorem freshen_pc (s : State) : s.freshen.thr.pc = s.thr.pc := by rw [freshen_eq]

/-- What `retire` leaves of an instruction that waits. -/
theorem retire_wait {s s1 : State} {w : Wait} (hk : s1.thr.key = s.thr.key) (hs : s1.thr.status = .waiting w) (hq : s1.thr.pend.all (fun p => !p.arrived) = true) :
    s.freshen.retire s1 = { s1 with thr := { s1.thr with
      pend := s1.thr.pend.map (fun p => if p.serial < s.nextId then { p with win := p.win - 1 } else p), pc := s.thr.pc, npc := s1.thr.pc,
      released := false, aged := false, readySince := s1.dev.clk, progress := if s.thr.spin.low then s1.thr.progress else s1.dev.clk } } := by
  simp only [State.retire, hk, freshen_key, hs, ne_eq, not_true_eq_false, if_false]
  rw [Thread.shrink_quiet _ _ hq, freshen_nextId, freshen_spin]
  simp [hs, hk, freshen_pc]

/-- A release that may perform forgets its gathered markers at gang and system scope and changes nothing else. -/
theorem release_eq {scope : Nat} {s : State} (h : s.released scope = true) : s.release scope = .ok (if scope < 5 then s else { s with thr := { s.thr with markers := none } }) := by
  simp [State.release, h]

/-- An undo copy changes no byte, staged write or attribute. -/
theorem undo_scratch (g : Group) (x : Nat) : (g.undo x).scratch = g.scratch ∧ (g.undo x).staged = g.staged ∧ (g.undo x).attrs = g.attrs := by
  unfold Group.undo; split <;> simp

/-- Nor do the undo copies of a range. -/
theorem undoRange_scratch (g : Group) (o n : Nat) : (g.undoRange o n).scratch = g.scratch ∧ (g.undoRange o n).staged = g.staged := by
  unfold Group.undoRange
  generalize List.range _ = l
  induction l generalizing g with
  | nil => simp
  | cons x xs ih => simp only [List.foldl_cons]; rw [(ih _).1, (ih _).2]; exact ⟨(undo_scratch g _).1, (undo_scratch g _).2.1⟩

/-- A published write on a first run with room in its log performs and enters the log. -/
theorem publish_first {op addr : Nat} {operand : List Word} {act : State → Except Stop (List Word × State)} {s s1 : State} {ret : List Word}
    (h : FirstRun s) (ha : act s = .ok (ret, s1)) :
    s.publish op addr operand act = .ok (ret, { s1 with grp := { s1.grp with log := s1.grp.log ++ [⟨s.thr.key.tid, op, addr, operand, ret, 0⟩] } }) := by
  simp only [State.publish]
  have h1 : ¬ (s.grp.attempt ≠ 0) := by simp [h.1]
  have h2 : ¬ (s.grp.log.length ≥ 256) := by have := h.2; omega
  simp only [if_neg h1, if_neg h2, State.logged, ha]

/-- Choosing a path changes the path table and the count of choices drawn. -/
theorem pathTo_eq (dst key : Nat) (s : State) : ∃ c n, (s.pathTo dst key).2 = { s with core := c, drawn := n } := by
  unfold State.pathTo
  simp only
  split
  · exact ⟨s.core, s.drawn, rfl⟩
  · split <;> exact ⟨_, _, rfl⟩

/-- Sending an access: what is under way afterwards, and what it changes. -/
theorem send_facts (kind : AccessKind) (x : Xlat) (va : Nat) (p o w q : Bool) (s : State) :
    ∃ c n t a, s.send kind x va p o w q = { s with core := c, drawn := n, nextId := s.nextId + 1, thr := t, inflight := s.inflight ++ [a] }
      ∧ t = { s.thr with unacked := t.unacked } ∧ a.serial = s.nextId ∧ a.t = s.thr.key ∧ a.kind = kind ∧ a.dst = devOf x.key ∧ a.key = x.key
      ∧ a.va = va ∧ a.remote = decide (x.cls = 2) ∧ a.waits = w ∧ a.ordered = o ∧ a.acq = q ∧ (x.cls ≠ 2 → c = s.core ∧ n = s.drawn ∧ t = s.thr) := by
  obtain ⟨c, n, h⟩ := pathTo_eq (devOf x.key) x.key s.freshId.2
  unfold State.send
  simp only
  by_cases h2 : x.cls = 2
  · simp only [h2, decide_true, if_true, h]
    refine ⟨_, n, _, _, rfl, ?_, rfl, rfl, rfl, rfl, rfl, rfl, rfl, rfl, rfl, rfl, fun h => absurd rfl h⟩
    split <;> rfl
  · simp only [h2, decide_false, Bool.false_eq_true, if_false, Bool.and_false]
    exact ⟨s.core, s.drawn, s.thr, _, rfl, rfl, rfl, rfl, rfl, rfl, rfl, rfl, rfl, rfl, rfl, rfl, fun _ => ⟨rfl, rfl, rfl⟩⟩

end Sys2Proof.Claims
end

