-- ==== Sys2Proof/Laws/State.lean ====
section
/-!
SUPPORT. Laws of the state's updates: one lemma per field that an update leaves alone, so that no later proof unfolds a record update.
-/
namespace Sys2Proof.Machine
open Sys2Proof Bits Encoding

/-! ## `State.freshId` -/

@[simp] theorem State.freshId_mem (s : State) : s.freshId.2.mem = s.mem := rfl
@[simp] theorem State.freshId_poison (s : State) : s.freshId.2.poison = s.poison := rfl
@[simp] theorem State.freshId_stamps (s : State) : s.freshId.2.stamps = s.stamps := rfl
@[simp] theorem State.freshId_stampOwner (s : State) : s.freshId.2.stampOwner = s.stampOwner := rfl
@[simp] theorem State.freshId_attrs (s : State) : s.freshId.2.attrs = s.attrs := rfl
@[simp] theorem State.freshId_held (s : State) : s.freshId.2.held = s.held := rfl
@[simp] theorem State.freshId_locks (s : State) : s.freshId.2.locks = s.locks := rfl
@[simp] theorem State.freshId_promoted (s : State) : s.freshId.2.promoted = s.promoted := rfl
@[simp] theorem State.freshId_thr (s : State) : s.freshId.2.thr = s.thr := rfl
@[simp] theorem State.freshId_grp (s : State) : s.freshId.2.grp = s.grp := rfl
@[simp] theorem State.freshId_lau (s : State) : s.freshId.2.lau = s.lau := rfl
@[simp] theorem State.freshId_core (s : State) : s.freshId.2.core = s.core := rfl
@[simp] theorem State.freshId_part (s : State) : s.freshId.2.part = s.part := rfl
@[simp] theorem State.freshId_dev (s : State) : s.freshId.2.dev = s.dev := rfl
@[simp] theorem State.freshId_threads (s : State) : s.freshId.2.threads = s.threads := rfl
@[simp] theorem State.freshId_groups (s : State) : s.freshId.2.groups = s.groups := rfl
@[simp] theorem State.freshId_launches (s : State) : s.freshId.2.launches = s.launches := rfl
@[simp] theorem State.freshId_cores (s : State) : s.freshId.2.cores = s.cores := rfl
@[simp] theorem State.freshId_parts (s : State) : s.freshId.2.parts = s.parts := rfl
@[simp] theorem State.freshId_devs (s : State) : s.freshId.2.devs = s.devs := rfl
@[simp] theorem State.freshId_inflight (s : State) : s.freshId.2.inflight = s.inflight := rfl
@[simp] theorem State.freshId_tickets (s : State) : s.freshId.2.tickets = s.tickets := rfl
@[simp] theorem State.freshId_contributions (s : State) : s.freshId.2.contributions = s.contributions := rfl
@[simp] theorem State.freshId_failedViews (s : State) : s.freshId.2.failedViews = s.failedViews := rfl
@[simp] theorem State.freshId_replies (s : State) : s.freshId.2.replies = s.replies := rfl
@[simp] theorem State.freshId_censuses (s : State) : s.freshId.2.censuses = s.censuses := rfl
@[simp] theorem State.freshId_images (s : State) : s.freshId.2.images = s.images := rfl
@[simp] theorem State.freshId_now (s : State) : s.freshId.2.now = s.now := rfl
@[simp] theorem State.freshId_nowFrac (s : State) : s.freshId.2.nowFrac = s.nowFrac := rfl
@[simp] theorem State.freshId_agenda (s : State) : s.freshId.2.agenda = s.agenda := rfl
@[simp] theorem State.freshId_issueQ (s : State) : s.freshId.2.issueQ = s.issueQ := rfl
@[simp] theorem State.freshId_cycTrap (s : State) : s.freshId.2.cycTrap = s.cycTrap := rfl
@[simp] theorem State.freshId_cycOnce (s : State) : s.freshId.2.cycOnce = s.cycOnce := rfl
@[simp] theorem State.freshId_cycSets (s : State) : s.freshId.2.cycSets = s.cycSets := rfl
@[simp] theorem State.freshId_tick (s : State) : s.freshId.2.tick = s.tick := rfl
@[simp] theorem State.freshId_drawn (s : State) : s.freshId.2.drawn = s.drawn := rfl
@[simp] theorem State.freshId_out (s : State) : s.freshId.2.out = s.out := rfl
@[simp] theorem State.freshId_nextId (s : State) : s.freshId.2.nextId = s.nextId + 1 := rfl
@[simp] theorem State.freshId_fst (s : State) : s.freshId.1 = s.nextId := rfl

/-! ## `State.free` -/

@[simp] theorem State.free_mem (w : Nat) (s : State) : (s.free w).2.mem = s.mem := rfl
@[simp] theorem State.free_poison (w : Nat) (s : State) : (s.free w).2.poison = s.poison := rfl
@[simp] theorem State.free_stamps (w : Nat) (s : State) : (s.free w).2.stamps = s.stamps := rfl
@[simp] theorem State.free_stampOwner (w : Nat) (s : State) : (s.free w).2.stampOwner = s.stampOwner := rfl
@[simp] theorem State.free_attrs (w : Nat) (s : State) : (s.free w).2.attrs = s.attrs := rfl
@[simp] theorem State.free_held (w : Nat) (s : State) : (s.free w).2.held = s.held := rfl
@[simp] theorem State.free_locks (w : Nat) (s : State) : (s.free w).2.locks = s.locks := rfl
@[simp] theorem State.free_promoted (w : Nat) (s : State) : (s.free w).2.promoted = s.promoted := rfl
@[simp] theorem State.free_thr (w : Nat) (s : State) : (s.free w).2.thr = s.thr := rfl
@[simp] theorem State.free_grp (w : Nat) (s : State) : (s.free w).2.grp = s.grp := rfl
@[simp] theorem State.free_lau (w : Nat) (s : State) : (s.free w).2.lau = s.lau := rfl
@[simp] theorem State.free_core (w : Nat) (s : State) : (s.free w).2.core = s.core := rfl
@[simp] theorem State.free_part (w : Nat) (s : State) : (s.free w).2.part = s.part := rfl
@[simp] theorem State.free_dev (w : Nat) (s : State) : (s.free w).2.dev = s.dev := rfl
@[simp] theorem State.free_threads (w : Nat) (s : State) : (s.free w).2.threads = s.threads := rfl
@[simp] theorem State.free_groups (w : Nat) (s : State) : (s.free w).2.groups = s.groups := rfl
@[simp] theorem State.free_launches (w : Nat) (s : State) : (s.free w).2.launches = s.launches := rfl
@[simp] theorem State.free_cores (w : Nat) (s : State) : (s.free w).2.cores = s.cores := rfl
@[simp] theorem State.free_parts (w : Nat) (s : State) : (s.free w).2.parts = s.parts := rfl
@[simp] theorem State.free_devs (w : Nat) (s : State) : (s.free w).2.devs = s.devs := rfl
@[simp] theorem State.free_inflight (w : Nat) (s : State) : (s.free w).2.inflight = s.inflight := rfl
@[simp] theorem State.free_tickets (w : Nat) (s : State) : (s.free w).2.tickets = s.tickets := rfl
@[simp] theorem State.free_contributions (w : Nat) (s : State) : (s.free w).2.contributions = s.contributions := rfl
@[simp] theorem State.free_failedViews (w : Nat) (s : State) : (s.free w).2.failedViews = s.failedViews := rfl
@[simp] theorem State.free_replies (w : Nat) (s : State) : (s.free w).2.replies = s.replies := rfl
@[simp] theorem State.free_censuses (w : Nat) (s : State) : (s.free w).2.censuses = s.censuses := rfl
@[simp] theorem State.free_images (w : Nat) (s : State) : (s.free w).2.images = s.images := rfl
@[simp] theorem State.free_now (w : Nat) (s : State) : (s.free w).2.now = s.now := rfl
@[simp] theorem State.free_nowFrac (w : Nat) (s : State) : (s.free w).2.nowFrac = s.nowFrac := rfl
@[simp] theorem State.free_agenda (w : Nat) (s : State) : (s.free w).2.agenda = s.agenda := rfl
@[simp] theorem State.free_issueQ (w : Nat) (s : State) : (s.free w).2.issueQ = s.issueQ := rfl
@[simp] theorem State.free_cycTrap (w : Nat) (s : State) : (s.free w).2.cycTrap = s.cycTrap := rfl
@[simp] theorem State.free_cycOnce (w : Nat) (s : State) : (s.free w).2.cycOnce = s.cycOnce := rfl
@[simp] theorem State.free_cycSets (w : Nat) (s : State) : (s.free w).2.cycSets = s.cycSets := rfl
@[simp] theorem State.free_tick (w : Nat) (s : State) : (s.free w).2.tick = s.tick := rfl
@[simp] theorem State.free_nextId (w : Nat) (s : State) : (s.free w).2.nextId = s.nextId := rfl
@[simp] theorem State.free_out (w : Nat) (s : State) : (s.free w).2.out = s.out := rfl
@[simp] theorem State.free_drawn (w : Nat) (s : State) : (s.free w).2.drawn = s.drawn + 1 := rfl

/-! ## `State.choose` -/

@[simp] theorem State.choose_mem (n : Nat) (s : State) : (s.choose n).2.mem = s.mem := by unfold State.choose; split <;> rfl
@[simp] theorem State.choose_poison (n : Nat) (s : State) : (s.choose n).2.poison = s.poison := by unfold State.choose; split <;> rfl
@[simp] theorem State.choose_stamps (n : Nat) (s : State) : (s.choose n).2.stamps = s.stamps := by unfold State.choose; split <;> rfl
@[simp] theorem State.choose_stampOwner (n : Nat) (s : State) : (s.choose n).2.stampOwner = s.stampOwner := by unfold State.choose; split <;> rfl
@[simp] theorem State.choose_attrs (n : Nat) (s : State) : (s.choose n).2.attrs = s.attrs := by unfold State.choose; split <;> rfl
@[simp] theorem State.choose_held (n : Nat) (s : State) : (s.choose n).2.held = s.held := by unfold State.choose; split <;> rfl
@[simp] theorem State.choose_locks (n : Nat) (s : State) : (s.choose n).2.locks = s.locks := by unfold State.choose; split <;> rfl
@[simp] theorem State.choose_promoted (n : Nat) (s : State) : (s.choose n).2.promoted = s.promoted := by unfold State.choose; split <;> rfl
@[simp] theorem State.choose_thr (n : Nat) (s : State) : (s.choose n).2.thr = s.thr := by unfold State.choose; split <;> rfl
@[simp] theorem State.choose_grp (n : Nat) (s : State) : (s.choose n).2.grp = s.grp := by unfold State.choose; split <;> rfl
@[simp] theorem State.choose_lau (n : Nat) (s : State) : (s.choose n).2.lau = s.lau := by unfold State.choose; split <;> rfl
@[simp] theorem State.choose_core (n : Nat) (s : State) : (s.choose n).2.core = s.core := by unfold State.choose; split <;> rfl
@[simp] theorem State.choose_part (n : Nat) (s : State) : (s.choose n).2.part = s.part := by unfold State.choose; split <;> rfl
@[simp] theorem State.choose_dev (n : Nat) (s : State) : (s.choose n).2.dev = s.dev := by unfold State.choose; split <;> rfl
@[simp] theorem State.choose_threads (n : Nat) (s : State) : (s.choose n).2.threads = s.threads := by unfold State.choose; split <;> rfl
@[simp] theorem State.choose_groups (n : Nat) (s : State) : (s.choose n).2.groups = s.groups := by unfold State.choose; split <;> rfl
@[simp] theorem State.choose_launches (n : Nat) (s : State) : (s.choose n).2.launches = s.launches := by unfold State.choose; split <;> rfl
@[simp] theorem State.choose_cores (n : Nat) (s : State) : (s.choose n).2.cores = s.cores := by unfold State.choose; split <;> rfl
@[simp] theorem State.choose_parts (n : Nat) (s : State) : (s.choose n).2.parts = s.parts := by unfold State.choose; split <;> rfl
@[simp] theorem State.choose_devs (n : Nat) (s : State) : (s.choose n).2.devs = s.devs := by unfold State.choose; split <;> rfl
@[simp] theorem State.choose_inflight (n : Nat) (s : State) : (s.choose n).2.inflight = s.inflight := by unfold State.choose; split <;> rfl
@[simp] theorem State.choose_tickets (n : Nat) (s : State) : (s.choose n).2.tickets = s.tickets := by unfold State.choose; split <;> rfl
@[simp] theorem State.choose_contributions (n : Nat) (s : State) : (s.choose n).2.contributions = s.contributions := by unfold State.choose; split <;> rfl
@[simp] theorem State.choose_failedViews (n : Nat) (s : State) : (s.choose n).2.failedViews = s.failedViews := by unfold State.choose; split <;> rfl
@[simp] theorem State.choose_replies (n : Nat) (s : State) : (s.choose n).2.replies = s.replies := by unfold State.choose; split <;> rfl
@[simp] theorem State.choose_censuses (n : Nat) (s : State) : (s.choose n).2.censuses = s.censuses := by unfold State.choose; split <;> rfl
@[simp] theorem State.choose_images (n : Nat) (s : State) : (s.choose n).2.images = s.images := by unfold State.choose; split <;> rfl
@[simp] theorem State.choose_now (n : Nat) (s : State) : (s.choose n).2.now = s.now := by unfold State.choose; split <;> rfl
@[simp] theorem State.choose_nowFrac (n : Nat) (s : State) : (s.choose n).2.nowFrac = s.nowFrac := by unfold State.choose; split <;> rfl
@[simp] theorem State.choose_agenda (n : Nat) (s : State) : (s.choose n).2.agenda = s.agenda := by unfold State.choose; split <;> rfl
@[simp] theorem State.choose_issueQ (n : Nat) (s : State) : (s.choose n).2.issueQ = s.issueQ := by unfold State.choose; split <;> rfl
@[simp] theorem State.choose_cycTrap (n : Nat) (s : State) : (s.choose n).2.cycTrap = s.cycTrap := by unfold State.choose; split <;> rfl
@[simp] theorem State.choose_cycOnce (n : Nat) (s : State) : (s.choose n).2.cycOnce = s.cycOnce := by unfold State.choose; split <;> rfl
@[simp] theorem State.choose_cycSets (n : Nat) (s : State) : (s.choose n).2.cycSets = s.cycSets := by unfold State.choose; split <;> rfl
@[simp] theorem State.choose_tick (n : Nat) (s : State) : (s.choose n).2.tick = s.tick := by unfold State.choose; split <;> rfl
@[simp] theorem State.choose_nextId (n : Nat) (s : State) : (s.choose n).2.nextId = s.nextId := by unfold State.choose; split <;> rfl
@[simp] theorem State.choose_out (n : Nat) (s : State) : (s.choose n).2.out = s.out := by unfold State.choose; split <;> rfl

/-! ## `State.mapThreads` -/

@[simp] theorem State.mapThreads_mem (f : Thread → Thread) (s : State) : (s.mapThreads f).mem = s.mem := rfl
@[simp] theorem State.mapThreads_poison (f : Thread → Thread) (s : State) : (s.mapThreads f).poison = s.poison := rfl
@[simp] theorem State.mapThreads_stamps (f : Thread → Thread) (s : State) : (s.mapThreads f).stamps = s.stamps := rfl
@[simp] theorem State.mapThreads_stampOwner (f : Thread → Thread) (s : State) : (s.mapThreads f).stampOwner = s.stampOwner := rfl
@[simp] theorem State.mapThreads_attrs (f : Thread → Thread) (s : State) : (s.mapThreads f).attrs = s.attrs := rfl
@[simp] theorem State.mapThreads_held (f : Thread → Thread) (s : State) : (s.mapThreads f).held = s.held := rfl
@[simp] theorem State.mapThreads_locks (f : Thread → Thread) (s : State) : (s.mapThreads f).locks = s.locks := rfl
@[simp] theorem State.mapThreads_promoted (f : Thread → Thread) (s : State) : (s.mapThreads f).promoted = s.promoted := rfl
@[simp] theorem State.mapThreads_grp (f : Thread → Thread) (s : State) : (s.mapThreads f).grp = s.grp := rfl
@[simp] theorem State.mapThreads_lau (f : Thread → Thread) (s : State) : (s.mapThreads f).lau = s.lau := rfl
@[simp] theorem State.mapThreads_core (f : Thread → Thread) (s : State) : (s.mapThreads f).core = s.core := rfl
@[simp] theorem State.mapThreads_part (f : Thread → Thread) (s : State) : (s.mapThreads f).part = s.part := rfl
@[simp] theorem State.mapThreads_dev (f : Thread → Thread) (s : State) : (s.mapThreads f).dev = s.dev := rfl
@[simp] theorem State.mapThreads_groups (f : Thread → Thread) (s : State) : (s.mapThreads f).groups = s.groups := rfl
@[simp] theorem State.mapThreads_launches (f : Thread → Thread) (s : State) : (s.mapThreads f).launches = s.launches := rfl
@[simp] theorem State.mapThreads_cores (f : Thread → Thread) (s : State) : (s.mapThreads f).cores = s.cores := rfl
@[simp] theorem State.mapThreads_parts (f : Thread → Thread) (s : State) : (s.mapThreads f).parts = s.parts := rfl
@[simp] theorem State.mapThreads_devs (f : Thread → Thread) (s : State) : (s.mapThreads f).devs = s.devs := rfl
@[simp] theorem State.mapThreads_inflight (f : Thread → Thread) (s : State) : (s.mapThreads f).inflight = s.inflight := rfl
@[simp] theorem State.mapThreads_tickets (f : Thread → Thread) (s : State) : (s.mapThreads f).tickets = s.tickets := rfl
@[simp] theorem State.mapThreads_contributions (f : Thread → Thread) (s : State) : (s.mapThreads f).contributions = s.contributions := rfl
@[simp] theorem State.mapThreads_failedViews (f : Thread → Thread) (s : State) : (s.mapThreads f).failedViews = s.failedViews := rfl
@[simp] theorem State.mapThreads_replies (f : Thread → Thread) (s : State) : (s.mapThreads f).replies = s.replies := rfl
@[simp] theorem State.mapThreads_censuses (f : Thread → Thread) (s : State) : (s.mapThreads f).censuses = s.censuses := rfl
@[simp] theorem State.mapThreads_images (f : Thread → Thread) (s : State) : (s.mapThreads f).images = s.images := rfl
@[simp] theorem State.mapThreads_now (f : Thread → Thread) (s : State) : (s.mapThreads f).now = s.now := rfl
@[simp] theorem State.mapThreads_nowFrac (f : Thread → Thread) (s : State) : (s.mapThreads f).nowFrac = s.nowFrac := rfl
@[simp] theorem State.mapThreads_agenda (f : Thread → Thread) (s : State) : (s.mapThreads f).agenda = s.agenda := rfl
@[simp] theorem State.mapThreads_issueQ (f : Thread → Thread) (s : State) : (s.mapThreads f).issueQ = s.issueQ := rfl
@[simp] theorem State.mapThreads_cycTrap (f : Thread → Thread) (s : State) : (s.mapThreads f).cycTrap = s.cycTrap := rfl
@[simp] theorem State.mapThreads_cycOnce (f : Thread → Thread) (s : State) : (s.mapThreads f).cycOnce = s.cycOnce := rfl
@[simp] theorem State.mapThreads_cycSets (f : Thread → Thread) (s : State) : (s.mapThreads f).cycSets = s.cycSets := rfl
@[simp] theorem State.mapThreads_tick (f : Thread → Thread) (s : State) : (s.mapThreads f).tick = s.tick := rfl
@[simp] theorem State.mapThreads_drawn (f : Thread → Thread) (s : State) : (s.mapThreads f).drawn = s.drawn := rfl
@[simp] theorem State.mapThreads_nextId (f : Thread → Thread) (s : State) : (s.mapThreads f).nextId = s.nextId := rfl
@[simp] theorem State.mapThreads_out (f : Thread → Thread) (s : State) : (s.mapThreads f).out = s.out := rfl

/-! ## `State.mapGroups` -/

@[simp] theorem State.mapGroups_mem (f : Group → Group) (s : State) : (s.mapGroups f).mem = s.mem := rfl
@[simp] theorem State.mapGroups_poison (f : Group → Group) (s : State) : (s.mapGroups f).poison = s.poison := rfl
@[simp] theorem State.mapGroups_stamps (f : Group → Group) (s : State) : (s.mapGroups f).stamps = s.stamps := rfl
@[simp] theorem State.mapGroups_stampOwner (f : Group → Group) (s : State) : (s.mapGroups f).stampOwner = s.stampOwner := rfl
@[simp] theorem State.mapGroups_attrs (f : Group → Group) (s : State) : (s.mapGroups f).attrs = s.attrs := rfl
@[simp] theorem State.mapGroups_held (f : Group → Group) (s : State) : (s.mapGroups f).held = s.held := rfl
@[simp] theorem State.mapGroups_locks (f : Group → Group) (s : State) : (s.mapGroups f).locks = s.locks := rfl
@[simp] theorem State.mapGroups_promoted (f : Group → Group) (s : State) : (s.mapGroups f).promoted = s.promoted := rfl
@[simp] theorem State.mapGroups_thr (f : Group → Group) (s : State) : (s.mapGroups f).thr = s.thr := rfl
@[simp] theorem State.mapGroups_lau (f : Group → Group) (s : State) : (s.mapGroups f).lau = s.lau := rfl
@[simp] theorem State.mapGroups_core (f : Group → Group) (s : State) : (s.mapGroups f).core = s.core := rfl
@[simp] theorem State.mapGroups_part (f : Group → Group) (s : State) : (s.mapGroups f).part = s.part := rfl
@[simp] theorem State.mapGroups_dev (f : Group → Group) (s : State) : (s.mapGroups f).dev = s.dev := rfl
@[simp] theorem State.mapGroups_threads (f : Group → Group) (s : State) : (s.mapGroups f).threads = s.threads := rfl
@[simp] theorem State.mapGroups_launches (f : Group → Group) (s : State) : (s.mapGroups f).launches = s.launches := rfl
@[simp] theorem State.mapGroups_cores (f : Group → Group) (s : State) : (s.mapGroups f).cores = s.cores := rfl
@[simp] theorem State.mapGroups_parts (f : Group → Group) (s : State) : (s.mapGroups f).parts = s.parts := rfl
@[simp] theorem State.mapGroups_devs (f : Group → Group) (s : State) : (s.mapGroups f).devs = s.devs := rfl
@[simp] theorem State.mapGroups_inflight (f : Group → Group) (s : State) : (s.mapGroups f).inflight = s.inflight := rfl
@[simp] theorem State.mapGroups_tickets (f : Group → Group) (s : State) : (s.mapGroups f).tickets = s.tickets := rfl
@[simp] theorem State.mapGroups_contributions (f : Group → Group) (s : State) : (s.mapGroups f).contributions = s.contributions := rfl
@[simp] theorem State.mapGroups_failedViews (f : Group → Group) (s : State) : (s.mapGroups f).failedViews = s.failedViews := rfl
@[simp] theorem State.mapGroups_replies (f : Group → Group) (s : State) : (s.mapGroups f).replies = s.replies := rfl
@[simp] theorem State.mapGroups_censuses (f : Group → Group) (s : State) : (s.mapGroups f).censuses = s.censuses := rfl
@[simp] theorem State.mapGroups_images (f : Group → Group) (s : State) : (s.mapGroups f).images = s.images := rfl
@[simp] theorem State.mapGroups_now (f : Group → Group) (s : State) : (s.mapGroups f).now = s.now := rfl
@[simp] theorem State.mapGroups_nowFrac (f : Group → Group) (s : State) : (s.mapGroups f).nowFrac = s.nowFrac := rfl
@[simp] theorem State.mapGroups_agenda (f : Group → Group) (s : State) : (s.mapGroups f).agenda = s.agenda := rfl
@[simp] theorem State.mapGroups_issueQ (f : Group → Group) (s : State) : (s.mapGroups f).issueQ = s.issueQ := rfl
@[simp] theorem State.mapGroups_cycTrap (f : Group → Group) (s : State) : (s.mapGroups f).cycTrap = s.cycTrap := rfl
@[simp] theorem State.mapGroups_cycOnce (f : Group → Group) (s : State) : (s.mapGroups f).cycOnce = s.cycOnce := rfl
@[simp] theorem State.mapGroups_cycSets (f : Group → Group) (s : State) : (s.mapGroups f).cycSets = s.cycSets := rfl
@[simp] theorem State.mapGroups_tick (f : Group → Group) (s : State) : (s.mapGroups f).tick = s.tick := rfl
@[simp] theorem State.mapGroups_drawn (f : Group → Group) (s : State) : (s.mapGroups f).drawn = s.drawn := rfl
@[simp] theorem State.mapGroups_nextId (f : Group → Group) (s : State) : (s.mapGroups f).nextId = s.nextId := rfl
@[simp] theorem State.mapGroups_out (f : Group → Group) (s : State) : (s.mapGroups f).out = s.out := rfl

/-! ## `State.mapLaunches` -/

@[simp] theorem State.mapLaunches_mem (f : Launch → Launch) (s : State) : (s.mapLaunches f).mem = s.mem := rfl
@[simp] theorem State.mapLaunches_poison (f : Launch → Launch) (s : State) : (s.mapLaunches f).poison = s.poison := rfl
@[simp] theorem State.mapLaunches_stamps (f : Launch → Launch) (s : State) : (s.mapLaunches f).stamps = s.stamps := rfl
@[simp] theorem State.mapLaunches_stampOwner (f : Launch → Launch) (s : State) : (s.mapLaunches f).stampOwner = s.stampOwner := rfl
@[simp] theorem State.mapLaunches_attrs (f : Launch → Launch) (s : State) : (s.mapLaunches f).attrs = s.attrs := rfl
@[simp] theorem State.mapLaunches_held (f : Launch → Launch) (s : State) : (s.mapLaunches f).held = s.held := rfl
@[simp] theorem State.mapLaunches_locks (f : Launch → Launch) (s : State) : (s.mapLaunches f).locks = s.locks := rfl
@[simp] theorem State.mapLaunches_promoted (f : Launch → Launch) (s : State) : (s.mapLaunches f).promoted = s.promoted := rfl
@[simp] theorem State.mapLaunches_thr (f : Launch → Launch) (s : State) : (s.mapLaunches f).thr = s.thr := rfl
@[simp] theorem State.mapLaunches_grp (f : Launch → Launch) (s : State) : (s.mapLaunches f).grp = s.grp := rfl
@[simp] theorem State.mapLaunches_core (f : Launch → Launch) (s : State) : (s.mapLaunches f).core = s.core := rfl
@[simp] theorem State.mapLaunches_part (f : Launch → Launch) (s : State) : (s.mapLaunches f).part = s.part := rfl
@[simp] theorem State.mapLaunches_dev (f : Launch → Launch) (s : State) : (s.mapLaunches f).dev = s.dev := rfl
@[simp] theorem State.mapLaunches_threads (f : Launch → Launch) (s : State) : (s.mapLaunches f).threads = s.threads := rfl
@[simp] theorem State.mapLaunches_groups (f : Launch → Launch) (s : State) : (s.mapLaunches f).groups = s.groups := rfl
@[simp] theorem State.mapLaunches_cores (f : Launch → Launch) (s : State) : (s.mapLaunches f).cores = s.cores := rfl
@[simp] theorem State.mapLaunches_parts (f : Launch → Launch) (s : State) : (s.mapLaunches f).parts = s.parts := rfl
@[simp] theorem State.mapLaunches_devs (f : Launch → Launch) (s : State) : (s.mapLaunches f).devs = s.devs := rfl
@[simp] theorem State.mapLaunches_inflight (f : Launch → Launch) (s : State) : (s.mapLaunches f).inflight = s.inflight := rfl
@[simp] theorem State.mapLaunches_tickets (f : Launch → Launch) (s : State) : (s.mapLaunches f).tickets = s.tickets := rfl
@[simp] theorem State.mapLaunches_contributions (f : Launch → Launch) (s : State) : (s.mapLaunches f).contributions = s.contributions := rfl
@[simp] theorem State.mapLaunches_failedViews (f : Launch → Launch) (s : State) : (s.mapLaunches f).failedViews = s.failedViews := rfl
@[simp] theorem State.mapLaunches_replies (f : Launch → Launch) (s : State) : (s.mapLaunches f).replies = s.replies := rfl
@[simp] theorem State.mapLaunches_censuses (f : Launch → Launch) (s : State) : (s.mapLaunches f).censuses = s.censuses := rfl
@[simp] theorem State.mapLaunches_images (f : Launch → Launch) (s : State) : (s.mapLaunches f).images = s.images := rfl
@[simp] theorem State.mapLaunches_now (f : Launch → Launch) (s : State) : (s.mapLaunches f).now = s.now := rfl
@[simp] theorem State.mapLaunches_nowFrac (f : Launch → Launch) (s : State) : (s.mapLaunches f).nowFrac = s.nowFrac := rfl
@[simp] theorem State.mapLaunches_agenda (f : Launch → Launch) (s : State) : (s.mapLaunches f).agenda = s.agenda := rfl
@[simp] theorem State.mapLaunches_issueQ (f : Launch → Launch) (s : State) : (s.mapLaunches f).issueQ = s.issueQ := rfl
@[simp] theorem State.mapLaunches_cycTrap (f : Launch → Launch) (s : State) : (s.mapLaunches f).cycTrap = s.cycTrap := rfl
@[simp] theorem State.mapLaunches_cycOnce (f : Launch → Launch) (s : State) : (s.mapLaunches f).cycOnce = s.cycOnce := rfl
@[simp] theorem State.mapLaunches_cycSets (f : Launch → Launch) (s : State) : (s.mapLaunches f).cycSets = s.cycSets := rfl
@[simp] theorem State.mapLaunches_tick (f : Launch → Launch) (s : State) : (s.mapLaunches f).tick = s.tick := rfl
@[simp] theorem State.mapLaunches_drawn (f : Launch → Launch) (s : State) : (s.mapLaunches f).drawn = s.drawn := rfl
@[simp] theorem State.mapLaunches_nextId (f : Launch → Launch) (s : State) : (s.mapLaunches f).nextId = s.nextId := rfl
@[simp] theorem State.mapLaunches_out (f : Launch → Launch) (s : State) : (s.mapLaunches f).out = s.out := rfl

/-! ## `State.mapCores` -/

@[simp] theorem State.mapCores_mem (f : Core → Core) (s : State) : (s.mapCores f).mem = s.mem := rfl
@[simp] theorem State.mapCores_poison (f : Core → Core) (s : State) : (s.mapCores f).poison = s.poison := rfl
@[simp] theorem State.mapCores_stamps (f : Core → Core) (s : State) : (s.mapCores f).stamps = s.stamps := rfl
@[simp] theorem State.mapCores_stampOwner (f : Core → Core) (s : State) : (s.mapCores f).stampOwner = s.stampOwner := rfl
@[simp] theorem State.mapCores_attrs (f : Core → Core) (s : State) : (s.mapCores f).attrs = s.attrs := rfl
@[simp] theorem State.mapCores_held (f : Core → Core) (s : State) : (s.mapCores f).held = s.held := rfl
@[simp] theorem State.mapCores_locks (f : Core → Core) (s : State) : (s.mapCores f).locks = s.locks := rfl
@[simp] theorem State.mapCores_promoted (f : Core → Core) (s : State) : (s.mapCores f).promoted = s.promoted := rfl
@[simp] theorem State.mapCores_thr (f : Core → Core) (s : State) : (s.mapCores f).thr = s.thr := rfl
@[simp] theorem State.mapCores_grp (f : Core → Core) (s : State) : (s.mapCores f).grp = s.grp := rfl
@[simp] theorem State.mapCores_lau (f : Core → Core) (s : State) : (s.mapCores f).lau = s.lau := rfl
@[simp] theorem State.mapCores_part (f : Core → Core) (s : State) : (s.mapCores f).part = s.part := rfl
@[simp] theorem State.mapCores_dev (f : Core → Core) (s : State) : (s.mapCores f).dev = s.dev := rfl
@[simp] theorem State.mapCores_threads (f : Core → Core) (s : State) : (s.mapCores f).threads = s.threads := rfl
@[simp] theorem State.mapCores_groups (f : Core → Core) (s : State) : (s.mapCores f).groups = s.groups := rfl
@[simp] theorem State.mapCores_launches (f : Core → Core) (s : State) : (s.mapCores f).launches = s.launches := rfl
@[simp] theorem State.mapCores_parts (f : Core → Core) (s : State) : (s.mapCores f).parts = s.parts := rfl
@[simp] theorem State.mapCores_devs (f : Core → Core) (s : State) : (s.mapCores f).devs = s.devs := rfl
@[simp] theorem State.mapCores_inflight (f : Core → Core) (s : State) : (s.mapCores f).inflight = s.inflight := rfl
@[simp] theorem State.mapCores_tickets (f : Core → Core) (s : State) : (s.mapCores f).tickets = s.tickets := rfl
@[simp] theorem State.mapCores_contributions (f : Core → Core) (s : State) : (s.mapCores f).contributions = s.contributions := rfl
@[simp] theorem State.mapCores_failedViews (f : Core → Core) (s : State) : (s.mapCores f).failedViews = s.failedViews := rfl
@[simp] theorem State.mapCores_replies (f : Core → Core) (s : State) : (s.mapCores f).replies = s.replies := rfl
@[simp] theorem State.mapCores_censuses (f : Core → Core) (s : State) : (s.mapCores f).censuses = s.censuses := rfl
@[simp] theorem State.mapCores_images (f : Core → Core) (s : State) : (s.mapCores f).images = s.images := rfl
@[simp] theorem State.mapCores_now (f : Core → Core) (s : State) : (s.mapCores f).now = s.now := rfl
@[simp] theorem State.mapCores_nowFrac (f : Core → Core) (s : State) : (s.mapCores f).nowFrac = s.nowFrac := rfl
@[simp] theorem State.mapCores_agenda (f : Core → Core) (s : State) : (s.mapCores f).agenda = s.agenda := rfl
@[simp] theorem State.mapCores_issueQ (f : Core → Core) (s : State) : (s.mapCores f).issueQ = s.issueQ := rfl
@[simp] theorem State.mapCores_cycTrap (f : Core → Core) (s : State) : (s.mapCores f).cycTrap = s.cycTrap := rfl
@[simp] theorem State.mapCores_cycOnce (f : Core → Core) (s : State) : (s.mapCores f).cycOnce = s.cycOnce := rfl
@[simp] theorem State.mapCores_cycSets (f : Core → Core) (s : State) : (s.mapCores f).cycSets = s.cycSets := rfl
@[simp] theorem State.mapCores_tick (f : Core → Core) (s : State) : (s.mapCores f).tick = s.tick := rfl
@[simp] theorem State.mapCores_drawn (f : Core → Core) (s : State) : (s.mapCores f).drawn = s.drawn := rfl
@[simp] theorem State.mapCores_nextId (f : Core → Core) (s : State) : (s.mapCores f).nextId = s.nextId := rfl
@[simp] theorem State.mapCores_out (f : Core → Core) (s : State) : (s.mapCores f).out = s.out := rfl

/-! ## `State.mapParts` -/

@[simp] theorem State.mapParts_mem (f : Part → Part) (s : State) : (s.mapParts f).mem = s.mem := rfl
@[simp] theorem State.mapParts_poison (f : Part → Part) (s : State) : (s.mapParts f).poison = s.poison := rfl
@[simp] theorem State.mapParts_stamps (f : Part → Part) (s : State) : (s.mapParts f).stamps = s.stamps := rfl
@[simp] theorem State.mapParts_stampOwner (f : Part → Part) (s : State) : (s.mapParts f).stampOwner = s.stampOwner := rfl
@[simp] theorem State.mapParts_attrs (f : Part → Part) (s : State) : (s.mapParts f).attrs = s.attrs := rfl
@[simp] theorem State.mapParts_held (f : Part → Part) (s : State) : (s.mapParts f).held = s.held := rfl
@[simp] theorem State.mapParts_locks (f : Part → Part) (s : State) : (s.mapParts f).locks = s.locks := rfl
@[simp] theorem State.mapParts_promoted (f : Part → Part) (s : State) : (s.mapParts f).promoted = s.promoted := rfl
@[simp] theorem State.mapParts_thr (f : Part → Part) (s : State) : (s.mapParts f).thr = s.thr := rfl
@[simp] theorem State.mapParts_grp (f : Part → Part) (s : State) : (s.mapParts f).grp = s.grp := rfl
@[simp] theorem State.mapParts_lau (f : Part → Part) (s : State) : (s.mapParts f).lau = s.lau := rfl
@[simp] theorem State.mapParts_core (f : Part → Part) (s : State) : (s.mapParts f).core = s.core := rfl
@[simp] theorem State.mapParts_dev (f : Part → Part) (s : State) : (s.mapParts f).dev = s.dev := rfl
@[simp] theorem State.mapParts_threads (f : Part → Part) (s : State) : (s.mapParts f).threads = s.threads := rfl
@[simp] theorem State.mapParts_groups (f : Part → Part) (s : State) : (s.mapParts f).groups = s.groups := rfl
@[simp] theorem State.mapParts_launches (f : Part → Part) (s : State) : (s.mapParts f).launches = s.launches := rfl
@[simp] theorem State.mapParts_cores (f : Part → Part) (s : State) : (s.mapParts f).cores = s.cores := rfl
@[simp] theorem State.mapParts_devs (f : Part → Part) (s : State) : (s.mapParts f).devs = s.devs := rfl
@[simp] theorem State.mapParts_inflight (f : Part → Part) (s : State) : (s.mapParts f).inflight = s.inflight := rfl
@[simp] theorem State.mapParts_tickets (f : Part → Part) (s : State) : (s.mapParts f).tickets = s.tickets := rfl
@[simp] theorem State.mapParts_contributions (f : Part → Part) (s : State) : (s.mapParts f).contributions = s.contributions := rfl
@[simp] theorem State.mapParts_failedViews (f : Part → Part) (s : State) : (s.mapParts f).failedViews = s.failedViews := rfl
@[simp] theorem State.mapParts_replies (f : Part → Part) (s : State) : (s.mapParts f).replies = s.replies := rfl
@[simp] theorem State.mapParts_censuses (f : Part → Part) (s : State) : (s.mapParts f).censuses = s.censuses := rfl
@[simp] theorem State.mapParts_images (f : Part → Part) (s : State) : (s.mapParts f).images = s.images := rfl
@[simp] theorem State.mapParts_now (f : Part → Part) (s : State) : (s.mapParts f).now = s.now := rfl
@[simp] theorem State.mapParts_nowFrac (f : Part → Part) (s : State) : (s.mapParts f).nowFrac = s.nowFrac := rfl
@[simp] theorem State.mapParts_agenda (f : Part → Part) (s : State) : (s.mapParts f).agenda = s.agenda := rfl
@[simp] theorem State.mapParts_issueQ (f : Part → Part) (s : State) : (s.mapParts f).issueQ = s.issueQ := rfl
@[simp] theorem State.mapParts_cycTrap (f : Part → Part) (s : State) : (s.mapParts f).cycTrap = s.cycTrap := rfl
@[simp] theorem State.mapParts_cycOnce (f : Part → Part) (s : State) : (s.mapParts f).cycOnce = s.cycOnce := rfl
@[simp] theorem State.mapParts_cycSets (f : Part → Part) (s : State) : (s.mapParts f).cycSets = s.cycSets := rfl
@[simp] theorem State.mapParts_tick (f : Part → Part) (s : State) : (s.mapParts f).tick = s.tick := rfl
@[simp] theorem State.mapParts_drawn (f : Part → Part) (s : State) : (s.mapParts f).drawn = s.drawn := rfl
@[simp] theorem State.mapParts_nextId (f : Part → Part) (s : State) : (s.mapParts f).nextId = s.nextId := rfl
@[simp] theorem State.mapParts_out (f : Part → Part) (s : State) : (s.mapParts f).out = s.out := rfl

/-! ## `State.mapDevs` -/

@[simp] theorem State.mapDevs_mem (f : Device → Device) (s : State) : (s.mapDevs f).mem = s.mem := rfl
@[simp] theorem State.mapDevs_poison (f : Device → Device) (s : State) : (s.mapDevs f).poison = s.poison := rfl
@[simp] theorem State.mapDevs_stamps (f : Device → Device) (s : State) : (s.mapDevs f).stamps = s.stamps := rfl
@[simp] theorem State.mapDevs_stampOwner (f : Device → Device) (s : State) : (s.mapDevs f).stampOwner = s.stampOwner := rfl
@[simp] theorem State.mapDevs_attrs (f : Device → Device) (s : State) : (s.mapDevs f).attrs = s.attrs := rfl
@[simp] theorem State.mapDevs_held (f : Device → Device) (s : State) : (s.mapDevs f).held = s.held := rfl
@[simp] theorem State.mapDevs_locks (f : Device → Device) (s : State) : (s.mapDevs f).locks = s.locks := rfl
@[simp] theorem State.mapDevs_promoted (f : Device → Device) (s : State) : (s.mapDevs f).promoted = s.promoted := rfl
@[simp] theorem State.mapDevs_thr (f : Device → Device) (s : State) : (s.mapDevs f).thr = s.thr := rfl
@[simp] theorem State.mapDevs_grp (f : Device → Device) (s : State) : (s.mapDevs f).grp = s.grp := rfl
@[simp] theorem State.mapDevs_lau (f : Device → Device) (s : State) : (s.mapDevs f).lau = s.lau := rfl
@[simp] theorem State.mapDevs_core (f : Device → Device) (s : State) : (s.mapDevs f).core = s.core := rfl
@[simp] theorem State.mapDevs_part (f : Device → Device) (s : State) : (s.mapDevs f).part = s.part := rfl
@[simp] theorem State.mapDevs_threads (f : Device → Device) (s : State) : (s.mapDevs f).threads = s.threads := rfl
@[simp] theorem State.mapDevs_groups (f : Device → Device) (s : State) : (s.mapDevs f).groups = s.groups := rfl
@[simp] theorem State.mapDevs_launches (f : Device → Device) (s : State) : (s.mapDevs f).launches = s.launches := rfl
@[simp] theorem State.mapDevs_cores (f : Device → Device) (s : State) : (s.mapDevs f).cores = s.cores := rfl
@[simp] theorem State.mapDevs_parts (f : Device → Device) (s : State) : (s.mapDevs f).parts = s.parts := rfl
@[simp] theorem State.mapDevs_inflight (f : Device → Device) (s : State) : (s.mapDevs f).inflight = s.inflight := rfl
@[simp] theorem State.mapDevs_tickets (f : Device → Device) (s : State) : (s.mapDevs f).tickets = s.tickets := rfl
@[simp] theorem State.mapDevs_contributions (f : Device → Device) (s : State) : (s.mapDevs f).contributions = s.contributions := rfl
@[simp] theorem State.mapDevs_failedViews (f : Device → Device) (s : State) : (s.mapDevs f).failedViews = s.failedViews := rfl
@[simp] theorem State.mapDevs_replies (f : Device → Device) (s : State) : (s.mapDevs f).replies = s.replies := rfl
@[simp] theorem State.mapDevs_censuses (f : Device → Device) (s : State) : (s.mapDevs f).censuses = s.censuses := rfl
@[simp] theorem State.mapDevs_images (f : Device → Device) (s : State) : (s.mapDevs f).images = s.images := rfl
@[simp] theorem State.mapDevs_now (f : Device → Device) (s : State) : (s.mapDevs f).now = s.now := rfl
@[simp] theorem State.mapDevs_nowFrac (f : Device → Device) (s : State) : (s.mapDevs f).nowFrac = s.nowFrac := rfl
@[simp] theorem State.mapDevs_agenda (f : Device → Device) (s : State) : (s.mapDevs f).agenda = s.agenda := rfl
@[simp] theorem State.mapDevs_issueQ (f : Device → Device) (s : State) : (s.mapDevs f).issueQ = s.issueQ := rfl
@[simp] theorem State.mapDevs_cycTrap (f : Device → Device) (s : State) : (s.mapDevs f).cycTrap = s.cycTrap := rfl
@[simp] theorem State.mapDevs_cycOnce (f : Device → Device) (s : State) : (s.mapDevs f).cycOnce = s.cycOnce := rfl
@[simp] theorem State.mapDevs_cycSets (f : Device → Device) (s : State) : (s.mapDevs f).cycSets = s.cycSets := rfl
@[simp] theorem State.mapDevs_tick (f : Device → Device) (s : State) : (s.mapDevs f).tick = s.tick := rfl
@[simp] theorem State.mapDevs_drawn (f : Device → Device) (s : State) : (s.mapDevs f).drawn = s.drawn := rfl
@[simp] theorem State.mapDevs_nextId (f : Device → Device) (s : State) : (s.mapDevs f).nextId = s.nextId := rfl
@[simp] theorem State.mapDevs_out (f : Device → Device) (s : State) : (s.mapDevs f).out = s.out := rfl

/-! ## `State.checkoutCore` -/

@[simp] theorem State.checkoutCore_mem (d n : Nat) (s : State) : (s.checkoutCore d n).mem = s.mem := by unfold State.checkoutCore; split <;> rfl
@[simp] theorem State.checkoutCore_poison (d n : Nat) (s : State) : (s.checkoutCore d n).poison = s.poison := by unfold State.checkoutCore; split <;> rfl
@[simp] theorem State.checkoutCore_stamps (d n : Nat) (s : State) : (s.checkoutCore d n).stamps = s.stamps := by unfold State.checkoutCore; split <;> rfl
@[simp] theorem State.checkoutCore_stampOwner (d n : Nat) (s : State) : (s.checkoutCore d n).stampOwner = s.stampOwner := by unfold State.checkoutCore; split <;> rfl
@[simp] theorem State.checkoutCore_attrs (d n : Nat) (s : State) : (s.checkoutCore d n).attrs = s.attrs := by unfold State.checkoutCore; split <;> rfl
@[simp] theorem State.checkoutCore_held (d n : Nat) (s : State) : (s.checkoutCore d n).held = s.held := by unfold State.checkoutCore; split <;> rfl
@[simp] theorem State.checkoutCore_locks (d n : Nat) (s : State) : (s.checkoutCore d n).locks = s.locks := by unfold State.checkoutCore; split <;> rfl
@[simp] theorem State.checkoutCore_promoted (d n : Nat) (s : State) : (s.checkoutCore d n).promoted = s.promoted := by unfold State.checkoutCore; split <;> rfl
@[simp] theorem State.checkoutCore_thr (d n : Nat) (s : State) : (s.checkoutCore d n).thr = s.thr := by unfold State.checkoutCore; split <;> rfl
@[simp] theorem State.checkoutCore_grp (d n : Nat) (s : State) : (s.checkoutCore d n).grp = s.grp := by unfold State.checkoutCore; split <;> rfl
@[simp] theorem State.checkoutCore_lau (d n : Nat) (s : State) : (s.checkoutCore d n).lau = s.lau := by unfold State.checkoutCore; split <;> rfl
@[simp] theorem State.checkoutCore_part (d n : Nat) (s : State) : (s.checkoutCore d n).part = s.part := by unfold State.checkoutCore; split <;> rfl
@[simp] theorem State.checkoutCore_dev (d n : Nat) (s : State) : (s.checkoutCore d n).dev = s.dev := by unfold State.checkoutCore; split <;> rfl
@[simp] theorem State.checkoutCore_threads (d n : Nat) (s : State) : (s.checkoutCore d n).threads = s.threads := by unfold State.checkoutCore; split <;> rfl
@[simp] theorem State.checkoutCore_groups (d n : Nat) (s : State) : (s.checkoutCore d n).groups = s.groups := by unfold State.checkoutCore; split <;> rfl
@[simp] theorem State.checkoutCore_launches (d n : Nat) (s : State) : (s.checkoutCore d n).launches = s.launches := by unfold State.checkoutCore; split <;> rfl
@[simp] theorem State.checkoutCore_parts (d n : Nat) (s : State) : (s.checkoutCore d n).parts = s.parts := by unfold State.checkoutCore; split <;> rfl
@[simp] theorem State.checkoutCore_devs (d n : Nat) (s : State) : (s.checkoutCore d n).devs = s.devs := by unfold State.checkoutCore; split <;> rfl
@[simp] theorem State.checkoutCore_inflight (d n : Nat) (s : State) : (s.checkoutCore d n).inflight = s.inflight := by unfold State.checkoutCore; split <;> rfl
@[simp] theorem State.checkoutCore_tickets (d n : Nat) (s : State) : (s.checkoutCore d n).tickets = s.tickets := by unfold State.checkoutCore; split <;> rfl
@[simp] theorem State.checkoutCore_contributions (d n : Nat) (s : State) : (s.checkoutCore d n).contributions = s.contributions := by unfold State.checkoutCore; split <;> rfl
@[simp] theorem State.checkoutCore_failedViews (d n : Nat) (s : State) : (s.checkoutCore d n).failedViews = s.failedViews := by unfold State.checkoutCore; split <;> rfl
@[simp] theorem State.checkoutCore_replies (d n : Nat) (s : State) : (s.checkoutCore d n).replies = s.replies := by unfold State.checkoutCore; split <;> rfl
@[simp] theorem State.checkoutCore_censuses (d n : Nat) (s : State) : (s.checkoutCore d n).censuses = s.censuses := by unfold State.checkoutCore; split <;> rfl
@[simp] theorem State.checkoutCore_images (d n : Nat) (s : State) : (s.checkoutCore d n).images = s.images := by unfold State.checkoutCore; split <;> rfl
@[simp] theorem State.checkoutCore_now (d n : Nat) (s : State) : (s.checkoutCore d n).now = s.now := by unfold State.checkoutCore; split <;> rfl
@[simp] theorem State.checkoutCore_nowFrac (d n : Nat) (s : State) : (s.checkoutCore d n).nowFrac = s.nowFrac := by unfold State.checkoutCore; split <;> rfl
@[simp] theorem State.checkoutCore_agenda (d n : Nat) (s : State) : (s.checkoutCore d n).agenda = s.agenda := by unfold State.checkoutCore; split <;> rfl
@[simp] theorem State.checkoutCore_issueQ (d n : Nat) (s : State) : (s.checkoutCore d n).issueQ = s.issueQ := by unfold State.checkoutCore; split <;> rfl
@[simp] theorem State.checkoutCore_cycTrap (d n : Nat) (s : State) : (s.checkoutCore d n).cycTrap = s.cycTrap := by unfold State.checkoutCore; split <;> rfl
@[simp] theorem State.checkoutCore_cycOnce (d n : Nat) (s : State) : (s.checkoutCore d n).cycOnce = s.cycOnce := by unfold State.checkoutCore; split <;> rfl
@[simp] theorem State.checkoutCore_cycSets (d n : Nat) (s : State) : (s.checkoutCore d n).cycSets = s.cycSets := by unfold State.checkoutCore; split <;> rfl
@[simp] theorem State.checkoutCore_tick (d n : Nat) (s : State) : (s.checkoutCore d n).tick = s.tick := by unfold State.checkoutCore; split <;> rfl
@[simp] theorem State.checkoutCore_drawn (d n : Nat) (s : State) : (s.checkoutCore d n).drawn = s.drawn := by unfold State.checkoutCore; split <;> rfl
@[simp] theorem State.checkoutCore_nextId (d n : Nat) (s : State) : (s.checkoutCore d n).nextId = s.nextId := by unfold State.checkoutCore; split <;> rfl
@[simp] theorem State.checkoutCore_out (d n : Nat) (s : State) : (s.checkoutCore d n).out = s.out := by unfold State.checkoutCore; split <;> rfl

/-! ## `State.checkoutPart` -/

@[simp] theorem State.checkoutPart_mem (d p : Nat) (s : State) : (s.checkoutPart d p).mem = s.mem := by unfold State.checkoutPart; split <;> rfl
@[simp] theorem State.checkoutPart_poison (d p : Nat) (s : State) : (s.checkoutPart d p).poison = s.poison := by unfold State.checkoutPart; split <;> rfl
@[simp] theorem State.checkoutPart_stamps (d p : Nat) (s : State) : (s.checkoutPart d p).stamps = s.stamps := by unfold State.checkoutPart; split <;> rfl
@[simp] theorem State.checkoutPart_stampOwner (d p : Nat) (s : State) : (s.checkoutPart d p).stampOwner = s.stampOwner := by unfold State.checkoutPart; split <;> rfl
@[simp] theorem State.checkoutPart_attrs (d p : Nat) (s : State) : (s.checkoutPart d p).attrs = s.attrs := by unfold State.checkoutPart; split <;> rfl
@[simp] theorem State.checkoutPart_held (d p : Nat) (s : State) : (s.checkoutPart d p).held = s.held := by unfold State.checkoutPart; split <;> rfl
@[simp] theorem State.checkoutPart_locks (d p : Nat) (s : State) : (s.checkoutPart d p).locks = s.locks := by unfold State.checkoutPart; split <;> rfl
@[simp] theorem State.checkoutPart_promoted (d p : Nat) (s : State) : (s.checkoutPart d p).promoted = s.promoted := by unfold State.checkoutPart; split <;> rfl
@[simp] theorem State.checkoutPart_thr (d p : Nat) (s : State) : (s.checkoutPart d p).thr = s.thr := by unfold State.checkoutPart; split <;> rfl
@[simp] theorem State.checkoutPart_grp (d p : Nat) (s : State) : (s.checkoutPart d p).grp = s.grp := by unfold State.checkoutPart; split <;> rfl
@[simp] theorem State.checkoutPart_lau (d p : Nat) (s : State) : (s.checkoutPart d p).lau = s.lau := by unfold State.checkoutPart; split <;> rfl
@[simp] theorem State.checkoutPart_core (d p : Nat) (s : State) : (s.checkoutPart d p).core = s.core := by unfold State.checkoutPart; split <;> rfl
@[simp] theorem State.checkoutPart_dev (d p : Nat) (s : State) : (s.checkoutPart d p).dev = s.dev := by unfold State.checkoutPart; split <;> rfl
@[simp] theorem State.checkoutPart_threads (d p : Nat) (s : State) : (s.checkoutPart d p).threads = s.threads := by unfold State.checkoutPart; split <;> rfl
@[simp] theorem State.checkoutPart_groups (d p : Nat) (s : State) : (s.checkoutPart d p).groups = s.groups := by unfold State.checkoutPart; split <;> rfl
@[simp] theorem State.checkoutPart_launches (d p : Nat) (s : State) : (s.checkoutPart d p).launches = s.launches := by unfold State.checkoutPart; split <;> rfl
@[simp] theorem State.checkoutPart_cores (d p : Nat) (s : State) : (s.checkoutPart d p).cores = s.cores := by unfold State.checkoutPart; split <;> rfl
@[simp] theorem State.checkoutPart_devs (d p : Nat) (s : State) : (s.checkoutPart d p).devs = s.devs := by unfold State.checkoutPart; split <;> rfl
@[simp] theorem State.checkoutPart_inflight (d p : Nat) (s : State) : (s.checkoutPart d p).inflight = s.inflight := by unfold State.checkoutPart; split <;> rfl
@[simp] theorem State.checkoutPart_tickets (d p : Nat) (s : State) : (s.checkoutPart d p).tickets = s.tickets := by unfold State.checkoutPart; split <;> rfl
@[simp] theorem State.checkoutPart_contributions (d p : Nat) (s : State) : (s.checkoutPart d p).contributions = s.contributions := by unfold State.checkoutPart; split <;> rfl
@[simp] theorem State.checkoutPart_failedViews (d p : Nat) (s : State) : (s.checkoutPart d p).failedViews = s.failedViews := by unfold State.checkoutPart; split <;> rfl
@[simp] theorem State.checkoutPart_replies (d p : Nat) (s : State) : (s.checkoutPart d p).replies = s.replies := by unfold State.checkoutPart; split <;> rfl
@[simp] theorem State.checkoutPart_censuses (d p : Nat) (s : State) : (s.checkoutPart d p).censuses = s.censuses := by unfold State.checkoutPart; split <;> rfl
@[simp] theorem State.checkoutPart_images (d p : Nat) (s : State) : (s.checkoutPart d p).images = s.images := by unfold State.checkoutPart; split <;> rfl
@[simp] theorem State.checkoutPart_now (d p : Nat) (s : State) : (s.checkoutPart d p).now = s.now := by unfold State.checkoutPart; split <;> rfl
@[simp] theorem State.checkoutPart_nowFrac (d p : Nat) (s : State) : (s.checkoutPart d p).nowFrac = s.nowFrac := by unfold State.checkoutPart; split <;> rfl
@[simp] theorem State.checkoutPart_agenda (d p : Nat) (s : State) : (s.checkoutPart d p).agenda = s.agenda := by unfold State.checkoutPart; split <;> rfl
@[simp] theorem State.checkoutPart_issueQ (d p : Nat) (s : State) : (s.checkoutPart d p).issueQ = s.issueQ := by unfold State.checkoutPart; split <;> rfl
@[simp] theorem State.checkoutPart_cycTrap (d p : Nat) (s : State) : (s.checkoutPart d p).cycTrap = s.cycTrap := by unfold State.checkoutPart; split <;> rfl
@[simp] theorem State.checkoutPart_cycOnce (d p : Nat) (s : State) : (s.checkoutPart d p).cycOnce = s.cycOnce := by unfold State.checkoutPart; split <;> rfl
@[simp] theorem State.checkoutPart_cycSets (d p : Nat) (s : State) : (s.checkoutPart d p).cycSets = s.cycSets := by unfold State.checkoutPart; split <;> rfl
@[simp] theorem State.checkoutPart_tick (d p : Nat) (s : State) : (s.checkoutPart d p).tick = s.tick := by unfold State.checkoutPart; split <;> rfl
@[simp] theorem State.checkoutPart_drawn (d p : Nat) (s : State) : (s.checkoutPart d p).drawn = s.drawn := by unfold State.checkoutPart; split <;> rfl
@[simp] theorem State.checkoutPart_nextId (d p : Nat) (s : State) : (s.checkoutPart d p).nextId = s.nextId := by unfold State.checkoutPart; split <;> rfl
@[simp] theorem State.checkoutPart_out (d p : Nat) (s : State) : (s.checkoutPart d p).out = s.out := by unfold State.checkoutPart; split <;> rfl

/-! ## `State.checkoutDev` -/

@[simp] theorem State.checkoutDev_mem (d : Nat) (s : State) : (s.checkoutDev d).mem = s.mem := by unfold State.checkoutDev; split <;> rfl
@[simp] theorem State.checkoutDev_poison (d : Nat) (s : State) : (s.checkoutDev d).poison = s.poison := by unfold State.checkoutDev; split <;> rfl
@[simp] theorem State.checkoutDev_stamps (d : Nat) (s : State) : (s.checkoutDev d).stamps = s.stamps := by unfold State.checkoutDev; split <;> rfl
@[simp] theorem State.checkoutDev_stampOwner (d : Nat) (s : State) : (s.checkoutDev d).stampOwner = s.stampOwner := by unfold State.checkoutDev; split <;> rfl
@[simp] theorem State.checkoutDev_attrs (d : Nat) (s : State) : (s.checkoutDev d).attrs = s.attrs := by unfold State.checkoutDev; split <;> rfl
@[simp] theorem State.checkoutDev_held (d : Nat) (s : State) : (s.checkoutDev d).held = s.held := by unfold State.checkoutDev; split <;> rfl
@[simp] theorem State.checkoutDev_locks (d : Nat) (s : State) : (s.checkoutDev d).locks = s.locks := by unfold State.checkoutDev; split <;> rfl
@[simp] theorem State.checkoutDev_promoted (d : Nat) (s : State) : (s.checkoutDev d).promoted = s.promoted := by unfold State.checkoutDev; split <;> rfl
@[simp] theorem State.checkoutDev_thr (d : Nat) (s : State) : (s.checkoutDev d).thr = s.thr := by unfold State.checkoutDev; split <;> rfl
@[simp] theorem State.checkoutDev_grp (d : Nat) (s : State) : (s.checkoutDev d).grp = s.grp := by unfold State.checkoutDev; split <;> rfl
@[simp] theorem State.checkoutDev_lau (d : Nat) (s : State) : (s.checkoutDev d).lau = s.lau := by unfold State.checkoutDev; split <;> rfl
@[simp] theorem State.checkoutDev_core (d : Nat) (s : State) : (s.checkoutDev d).core = s.core := by unfold State.checkoutDev; split <;> rfl
@[simp] theorem State.checkoutDev_part (d : Nat) (s : State) : (s.checkoutDev d).part = s.part := by unfold State.checkoutDev; split <;> rfl
@[simp] theorem State.checkoutDev_threads (d : Nat) (s : State) : (s.checkoutDev d).threads = s.threads := by unfold State.checkoutDev; split <;> rfl
@[simp] theorem State.checkoutDev_groups (d : Nat) (s : State) : (s.checkoutDev d).groups = s.groups := by unfold State.checkoutDev; split <;> rfl
@[simp] theorem State.checkoutDev_launches (d : Nat) (s : State) : (s.checkoutDev d).launches = s.launches := by unfold State.checkoutDev; split <;> rfl
@[simp] theorem State.checkoutDev_cores (d : Nat) (s : State) : (s.checkoutDev d).cores = s.cores := by unfold State.checkoutDev; split <;> rfl
@[simp] theorem State.checkoutDev_parts (d : Nat) (s : State) : (s.checkoutDev d).parts = s.parts := by unfold State.checkoutDev; split <;> rfl
@[simp] theorem State.checkoutDev_inflight (d : Nat) (s : State) : (s.checkoutDev d).inflight = s.inflight := by unfold State.checkoutDev; split <;> rfl
@[simp] theorem State.checkoutDev_tickets (d : Nat) (s : State) : (s.checkoutDev d).tickets = s.tickets := by unfold State.checkoutDev; split <;> rfl
@[simp] theorem State.checkoutDev_contributions (d : Nat) (s : State) : (s.checkoutDev d).contributions = s.contributions := by unfold State.checkoutDev; split <;> rfl
@[simp] theorem State.checkoutDev_failedViews (d : Nat) (s : State) : (s.checkoutDev d).failedViews = s.failedViews := by unfold State.checkoutDev; split <;> rfl
@[simp] theorem State.checkoutDev_replies (d : Nat) (s : State) : (s.checkoutDev d).replies = s.replies := by unfold State.checkoutDev; split <;> rfl
@[simp] theorem State.checkoutDev_censuses (d : Nat) (s : State) : (s.checkoutDev d).censuses = s.censuses := by unfold State.checkoutDev; split <;> rfl
@[simp] theorem State.checkoutDev_images (d : Nat) (s : State) : (s.checkoutDev d).images = s.images := by unfold State.checkoutDev; split <;> rfl
@[simp] theorem State.checkoutDev_now (d : Nat) (s : State) : (s.checkoutDev d).now = s.now := by unfold State.checkoutDev; split <;> rfl
@[simp] theorem State.checkoutDev_nowFrac (d : Nat) (s : State) : (s.checkoutDev d).nowFrac = s.nowFrac := by unfold State.checkoutDev; split <;> rfl
@[simp] theorem State.checkoutDev_agenda (d : Nat) (s : State) : (s.checkoutDev d).agenda = s.agenda := by unfold State.checkoutDev; split <;> rfl
@[simp] theorem State.checkoutDev_issueQ (d : Nat) (s : State) : (s.checkoutDev d).issueQ = s.issueQ := by unfold State.checkoutDev; split <;> rfl
@[simp] theorem State.checkoutDev_cycTrap (d : Nat) (s : State) : (s.checkoutDev d).cycTrap = s.cycTrap := by unfold State.checkoutDev; split <;> rfl
@[simp] theorem State.checkoutDev_cycOnce (d : Nat) (s : State) : (s.checkoutDev d).cycOnce = s.cycOnce := by unfold State.checkoutDev; split <;> rfl
@[simp] theorem State.checkoutDev_cycSets (d : Nat) (s : State) : (s.checkoutDev d).cycSets = s.cycSets := by unfold State.checkoutDev; split <;> rfl
@[simp] theorem State.checkoutDev_tick (d : Nat) (s : State) : (s.checkoutDev d).tick = s.tick := by unfold State.checkoutDev; split <;> rfl
@[simp] theorem State.checkoutDev_drawn (d : Nat) (s : State) : (s.checkoutDev d).drawn = s.drawn := by unfold State.checkoutDev; split <;> rfl
@[simp] theorem State.checkoutDev_nextId (d : Nat) (s : State) : (s.checkoutDev d).nextId = s.nextId := by unfold State.checkoutDev; split <;> rfl
@[simp] theorem State.checkoutDev_out (d : Nat) (s : State) : (s.checkoutDev d).out = s.out := by unfold State.checkoutDev; split <;> rfl

/-! ## `State.focusPart` -/

@[simp] theorem State.focusPart_mem (d p : Nat) (s : State) : (s.focusPart d p).mem = s.mem := by simp [State.focusPart]
@[simp] theorem State.focusPart_poison (d p : Nat) (s : State) : (s.focusPart d p).poison = s.poison := by simp [State.focusPart]
@[simp] theorem State.focusPart_stamps (d p : Nat) (s : State) : (s.focusPart d p).stamps = s.stamps := by simp [State.focusPart]
@[simp] theorem State.focusPart_stampOwner (d p : Nat) (s : State) : (s.focusPart d p).stampOwner = s.stampOwner := by simp [State.focusPart]
@[simp] theorem State.focusPart_attrs (d p : Nat) (s : State) : (s.focusPart d p).attrs = s.attrs := by simp [State.focusPart]
@[simp] theorem State.focusPart_held (d p : Nat) (s : State) : (s.focusPart d p).held = s.held := by simp [State.focusPart]
@[simp] theorem State.focusPart_locks (d p : Nat) (s : State) : (s.focusPart d p).locks = s.locks := by simp [State.focusPart]
@[simp] theorem State.focusPart_promoted (d p : Nat) (s : State) : (s.focusPart d p).promoted = s.promoted := by simp [State.focusPart]
@[simp] theorem State.focusPart_thr (d p : Nat) (s : State) : (s.focusPart d p).thr = s.thr := by simp [State.focusPart]
@[simp] theorem State.focusPart_grp (d p : Nat) (s : State) : (s.focusPart d p).grp = s.grp := by simp [State.focusPart]
@[simp] theorem State.focusPart_lau (d p : Nat) (s : State) : (s.focusPart d p).lau = s.lau := by simp [State.focusPart]
@[simp] theorem State.focusPart_core (d p : Nat) (s : State) : (s.focusPart d p).core = s.core := by simp [State.focusPart]
@[simp] theorem State.focusPart_threads (d p : Nat) (s : State) : (s.focusPart d p).threads = s.threads := by simp [State.focusPart]
@[simp] theorem State.focusPart_groups (d p : Nat) (s : State) : (s.focusPart d p).groups = s.groups := by simp [State.focusPart]
@[simp] theorem State.focusPart_launches (d p : Nat) (s : State) : (s.focusPart d p).launches = s.launches := by simp [State.focusPart]
@[simp] theorem State.focusPart_cores (d p : Nat) (s : State) : (s.focusPart d p).cores = s.cores := by simp [State.focusPart]
@[simp] theorem State.focusPart_inflight (d p : Nat) (s : State) : (s.focusPart d p).inflight = s.inflight := by simp [State.focusPart]
@[simp] theorem State.focusPart_tickets (d p : Nat) (s : State) : (s.focusPart d p).tickets = s.tickets := by simp [State.focusPart]
@[simp] theorem State.focusPart_contributions (d p : Nat) (s : State) : (s.focusPart d p).contributions = s.contributions := by simp [State.focusPart]
@[simp] theorem State.focusPart_failedViews (d p : Nat) (s : State) : (s.focusPart d p).failedViews = s.failedViews := by simp [State.focusPart]
@[simp] theorem State.focusPart_replies (d p : Nat) (s : State) : (s.focusPart d p).replies = s.replies := by simp [State.focusPart]
@[simp] theorem State.focusPart_censuses (d p : Nat) (s : State) : (s.focusPart d p).censuses = s.censuses := by simp [State.focusPart]
@[simp] theorem State.focusPart_images (d p : Nat) (s : State) : (s.focusPart d p).images = s.images := by simp [State.focusPart]
@[simp] theorem State.focusPart_now (d p : Nat) (s : State) : (s.focusPart d p).now = s.now := by simp [State.focusPart]
@[simp] theorem State.focusPart_nowFrac (d p : Nat) (s : State) : (s.focusPart d p).nowFrac = s.nowFrac := by simp [State.focusPart]
@[simp] theorem State.focusPart_agenda (d p : Nat) (s : State) : (s.focusPart d p).agenda = s.agenda := by simp [State.focusPart]
@[simp] theorem State.focusPart_issueQ (d p : Nat) (s : State) : (s.focusPart d p).issueQ = s.issueQ := by simp [State.focusPart]
@[simp] theorem State.focusPart_cycTrap (d p : Nat) (s : State) : (s.focusPart d p).cycTrap = s.cycTrap := by simp [State.focusPart]
@[simp] theorem State.focusPart_cycOnce (d p : Nat) (s : State) : (s.focusPart d p).cycOnce = s.cycOnce := by simp [State.focusPart]
@[simp] theorem State.focusPart_cycSets (d p : Nat) (s : State) : (s.focusPart d p).cycSets = s.cycSets := by simp [State.focusPart]
@[simp] theorem State.focusPart_tick (d p : Nat) (s : State) : (s.focusPart d p).tick = s.tick := by simp [State.focusPart]
@[simp] theorem State.focusPart_drawn (d p : Nat) (s : State) : (s.focusPart d p).drawn = s.drawn := by simp [State.focusPart]
@[simp] theorem State.focusPart_nextId (d p : Nat) (s : State) : (s.focusPart d p).nextId = s.nextId := by simp [State.focusPart]
@[simp] theorem State.focusPart_out (d p : Nat) (s : State) : (s.focusPart d p).out = s.out := by simp [State.focusPart]

/-! ## `State.updCore` -/

@[simp] theorem State.updCore_mem (d n : Nat) (f : Core → Core) (s : State) : (s.updCore d n f).mem = s.mem := by unfold State.updCore; split <;> rfl
@[simp] theorem State.updCore_poison (d n : Nat) (f : Core → Core) (s : State) : (s.updCore d n f).poison = s.poison := by unfold State.updCore; split <;> rfl
@[simp] theorem State.updCore_stamps (d n : Nat) (f : Core → Core) (s : State) : (s.updCore d n f).stamps = s.stamps := by unfold State.updCore; split <;> rfl
@[simp] theorem State.updCore_stampOwner (d n : Nat) (f : Core → Core) (s : State) : (s.updCore d n f).stampOwner = s.stampOwner := by unfold State.updCore; split <;> rfl
@[simp] theorem State.updCore_attrs (d n : Nat) (f : Core → Core) (s : State) : (s.updCore d n f).attrs = s.attrs := by unfold State.updCore; split <;> rfl
@[simp] theorem State.updCore_held (d n : Nat) (f : Core → Core) (s : State) : (s.updCore d n f).held = s.held := by unfold State.updCore; split <;> rfl
@[simp] theorem State.updCore_locks (d n : Nat) (f : Core → Core) (s : State) : (s.updCore d n f).locks = s.locks := by unfold State.updCore; split <;> rfl
@[simp] theorem State.updCore_promoted (d n : Nat) (f : Core → Core) (s : State) : (s.updCore d n f).promoted = s.promoted := by unfold State.updCore; split <;> rfl
@[simp] theorem State.updCore_thr (d n : Nat) (f : Core → Core) (s : State) : (s.updCore d n f).thr = s.thr := by unfold State.updCore; split <;> rfl
@[simp] theorem State.updCore_grp (d n : Nat) (f : Core → Core) (s : State) : (s.updCore d n f).grp = s.grp := by unfold State.updCore; split <;> rfl
@[simp] theorem State.updCore_lau (d n : Nat) (f : Core → Core) (s : State) : (s.updCore d n f).lau = s.lau := by unfold State.updCore; split <;> rfl
@[simp] theorem State.updCore_part (d n : Nat) (f : Core → Core) (s : State) : (s.updCore d n f).part = s.part := by unfold State.updCore; split <;> rfl
@[simp] theorem State.updCore_dev (d n : Nat) (f : Core → Core) (s : State) : (s.updCore d n f).dev = s.dev := by unfold State.updCore; split <;> rfl
@[simp] theorem State.updCore_threads (d n : Nat) (f : Core → Core) (s : State) : (s.updCore d n f).threads = s.threads := by unfold State.updCore; split <;> rfl
@[simp] theorem State.updCore_groups (d n : Nat) (f : Core → Core) (s : State) : (s.updCore d n f).groups = s.groups := by unfold State.updCore; split <;> rfl
@[simp] theorem State.updCore_launches (d n : Nat) (f : Core → Core) (s : State) : (s.updCore d n f).launches = s.launches := by unfold State.updCore; split <;> rfl
@[simp] theorem State.updCore_parts (d n : Nat) (f : Core → Core) (s : State) : (s.updCore d n f).parts = s.parts := by unfold State.updCore; split <;> rfl
@[simp] theorem State.updCore_devs (d n : Nat) (f : Core → Core) (s : State) : (s.updCore d n f).devs = s.devs := by unfold State.updCore; split <;> rfl
@[simp] theorem State.updCore_inflight (d n : Nat) (f : Core → Core) (s : State) : (s.updCore d n f).inflight = s.inflight := by unfold State.updCore; split <;> rfl
@[simp] theorem State.updCore_tickets (d n : Nat) (f : Core → Core) (s : State) : (s.updCore d n f).tickets = s.tickets := by unfold State.updCore; split <;> rfl
@[simp] theorem State.updCore_contributions (d n : Nat) (f : Core → Core) (s : State) : (s.updCore d n f).contributions = s.contributions := by unfold State.updCore; split <;> rfl
@[simp] theorem State.updCore_failedViews (d n : Nat) (f : Core → Core) (s : State) : (s.updCore d n f).failedViews = s.failedViews := by unfold State.updCore; split <;> rfl
@[simp] theorem State.updCore_replies (d n : Nat) (f : Core → Core) (s : State) : (s.updCore d n f).replies = s.replies := by unfold State.updCore; split <;> rfl
@[simp] theorem State.updCore_censuses (d n : Nat) (f : Core → Core) (s : State) : (s.updCore d n f).censuses = s.censuses := by unfold State.updCore; split <;> rfl
@[simp] theorem State.updCore_images (d n : Nat) (f : Core → Core) (s : State) : (s.updCore d n f).images = s.images := by unfold State.updCore; split <;> rfl
@[simp] theorem State.updCore_now (d n : Nat) (f : Core → Core) (s : State) : (s.updCore d n f).now = s.now := by unfold State.updCore; split <;> rfl
@[simp] theorem State.updCore_nowFrac (d n : Nat) (f : Core → Core) (s : State) : (s.updCore d n f).nowFrac = s.nowFrac := by unfold State.updCore; split <;> rfl
@[simp] theorem State.updCore_agenda (d n : Nat) (f : Core → Core) (s : State) : (s.updCore d n f).agenda = s.agenda := by unfold State.updCore; split <;> rfl
@[simp] theorem State.updCore_issueQ (d n : Nat) (f : Core → Core) (s : State) : (s.updCore d n f).issueQ = s.issueQ := by unfold State.updCore; split <;> rfl
@[simp] theorem State.updCore_cycTrap (d n : Nat) (f : Core → Core) (s : State) : (s.updCore d n f).cycTrap = s.cycTrap := by unfold State.updCore; split <;> rfl
@[simp] theorem State.updCore_cycOnce (d n : Nat) (f : Core → Core) (s : State) : (s.updCore d n f).cycOnce = s.cycOnce := by unfold State.updCore; split <;> rfl
@[simp] theorem State.updCore_cycSets (d n : Nat) (f : Core → Core) (s : State) : (s.updCore d n f).cycSets = s.cycSets := by unfold State.updCore; split <;> rfl
@[simp] theorem State.updCore_tick (d n : Nat) (f : Core → Core) (s : State) : (s.updCore d n f).tick = s.tick := by unfold State.updCore; split <;> rfl
@[simp] theorem State.updCore_drawn (d n : Nat) (f : Core → Core) (s : State) : (s.updCore d n f).drawn = s.drawn := by unfold State.updCore; split <;> rfl
@[simp] theorem State.updCore_nextId (d n : Nat) (f : Core → Core) (s : State) : (s.updCore d n f).nextId = s.nextId := by unfold State.updCore; split <;> rfl
@[simp] theorem State.updCore_out (d n : Nat) (f : Core → Core) (s : State) : (s.updCore d n f).out = s.out := by unfold State.updCore; split <;> rfl

/-! ## `State.updPart` -/

@[simp] theorem State.updPart_mem (d p : Nat) (f : Part → Part) (s : State) : (s.updPart d p f).mem = s.mem := by unfold State.updPart; split <;> rfl
@[simp] theorem State.updPart_poison (d p : Nat) (f : Part → Part) (s : State) : (s.updPart d p f).poison = s.poison := by unfold State.updPart; split <;> rfl
@[simp] theorem State.updPart_stamps (d p : Nat) (f : Part → Part) (s : State) : (s.updPart d p f).stamps = s.stamps := by unfold State.updPart; split <;> rfl
@[simp] theorem State.updPart_stampOwner (d p : Nat) (f : Part → Part) (s : State) : (s.updPart d p f).stampOwner = s.stampOwner := by unfold State.updPart; split <;> rfl
@[simp] theorem State.updPart_attrs (d p : Nat) (f : Part → Part) (s : State) : (s.updPart d p f).attrs = s.attrs := by unfold State.updPart; split <;> rfl
@[simp] theorem State.updPart_held (d p : Nat) (f : Part → Part) (s : State) : (s.updPart d p f).held = s.held := by unfold State.updPart; split <;> rfl
@[simp] theorem State.updPart_locks (d p : Nat) (f : Part → Part) (s : State) : (s.updPart d p f).locks = s.locks := by unfold State.updPart; split <;> rfl
@[simp] theorem State.updPart_promoted (d p : Nat) (f : Part → Part) (s : State) : (s.updPart d p f).promoted = s.promoted := by unfold State.updPart; split <;> rfl
@[simp] theorem State.updPart_thr (d p : Nat) (f : Part → Part) (s : State) : (s.updPart d p f).thr = s.thr := by unfold State.updPart; split <;> rfl
@[simp] theorem State.updPart_grp (d p : Nat) (f : Part → Part) (s : State) : (s.updPart d p f).grp = s.grp := by unfold State.updPart; split <;> rfl
@[simp] theorem State.updPart_lau (d p : Nat) (f : Part → Part) (s : State) : (s.updPart d p f).lau = s.lau := by unfold State.updPart; split <;> rfl
@[simp] theorem State.updPart_core (d p : Nat) (f : Part → Part) (s : State) : (s.updPart d p f).core = s.core := by unfold State.updPart; split <;> rfl
@[simp] theorem State.updPart_dev (d p : Nat) (f : Part → Part) (s : State) : (s.updPart d p f).dev = s.dev := by unfold State.updPart; split <;> rfl
@[simp] theorem State.updPart_threads (d p : Nat) (f : Part → Part) (s : State) : (s.updPart d p f).threads = s.threads := by unfold State.updPart; split <;> rfl
@[simp] theorem State.updPart_groups (d p : Nat) (f : Part → Part) (s : State) : (s.updPart d p f).groups = s.groups := by unfold State.updPart; split <;> rfl
@[simp] theorem State.updPart_launches (d p : Nat) (f : Part → Part) (s : State) : (s.updPart d p f).launches = s.launches := by unfold State.updPart; split <;> rfl
@[simp] theorem State.updPart_cores (d p : Nat) (f : Part → Part) (s : State) : (s.updPart d p f).cores = s.cores := by unfold State.updPart; split <;> rfl
@[simp] theorem State.updPart_devs (d p : Nat) (f : Part → Part) (s : State) : (s.updPart d p f).devs = s.devs := by unfold State.updPart; split <;> rfl
@[simp] theorem State.updPart_inflight (d p : Nat) (f : Part → Part) (s : State) : (s.updPart d p f).inflight = s.inflight := by unfold State.updPart; split <;> rfl
@[simp] theorem State.updPart_tickets (d p : Nat) (f : Part → Part) (s : State) : (s.updPart d p f).tickets = s.tickets := by unfold State.updPart; split <;> rfl
@[simp] theorem State.updPart_contributions (d p : Nat) (f : Part → Part) (s : State) : (s.updPart d p f).contributions = s.contributions := by unfold State.updPart; split <;> rfl
@[simp] theorem State.updPart_failedViews (d p : Nat) (f : Part → Part) (s : State) : (s.updPart d p f).failedViews = s.failedViews := by unfold State.updPart; split <;> rfl
@[simp] theorem State.updPart_replies (d p : Nat) (f : Part → Part) (s : State) : (s.updPart d p f).replies = s.replies := by unfold State.updPart; split <;> rfl
@[simp] theorem State.updPart_censuses (d p : Nat) (f : Part → Part) (s : State) : (s.updPart d p f).censuses = s.censuses := by unfold State.updPart; split <;> rfl
@[simp] theorem State.updPart_images (d p : Nat) (f : Part → Part) (s : State) : (s.updPart d p f).images = s.images := by unfold State.updPart; split <;> rfl
@[simp] theorem State.updPart_now (d p : Nat) (f : Part → Part) (s : State) : (s.updPart d p f).now = s.now := by unfold State.updPart; split <;> rfl
@[simp] theorem State.updPart_nowFrac (d p : Nat) (f : Part → Part) (s : State) : (s.updPart d p f).nowFrac = s.nowFrac := by unfold State.updPart; split <;> rfl
@[simp] theorem State.updPart_agenda (d p : Nat) (f : Part → Part) (s : State) : (s.updPart d p f).agenda = s.agenda := by unfold State.updPart; split <;> rfl
@[simp] theorem State.updPart_issueQ (d p : Nat) (f : Part → Part) (s : State) : (s.updPart d p f).issueQ = s.issueQ := by unfold State.updPart; split <;> rfl
@[simp] theorem State.updPart_cycTrap (d p : Nat) (f : Part → Part) (s : State) : (s.updPart d p f).cycTrap = s.cycTrap := by unfold State.updPart; split <;> rfl
@[simp] theorem State.updPart_cycOnce (d p : Nat) (f : Part → Part) (s : State) : (s.updPart d p f).cycOnce = s.cycOnce := by unfold State.updPart; split <;> rfl
@[simp] theorem State.updPart_cycSets (d p : Nat) (f : Part → Part) (s : State) : (s.updPart d p f).cycSets = s.cycSets := by unfold State.updPart; split <;> rfl
@[simp] theorem State.updPart_tick (d p : Nat) (f : Part → Part) (s : State) : (s.updPart d p f).tick = s.tick := by unfold State.updPart; split <;> rfl
@[simp] theorem State.updPart_drawn (d p : Nat) (f : Part → Part) (s : State) : (s.updPart d p f).drawn = s.drawn := by unfold State.updPart; split <;> rfl
@[simp] theorem State.updPart_nextId (d p : Nat) (f : Part → Part) (s : State) : (s.updPart d p f).nextId = s.nextId := by unfold State.updPart; split <;> rfl
@[simp] theorem State.updPart_out (d p : Nat) (f : Part → Part) (s : State) : (s.updPart d p f).out = s.out := by unfold State.updPart; split <;> rfl

/-! ## `State.updDev` -/

@[simp] theorem State.updDev_mem (d : Nat) (f : Device → Device) (s : State) : (s.updDev d f).mem = s.mem := by unfold State.updDev; split <;> rfl
@[simp] theorem State.updDev_poison (d : Nat) (f : Device → Device) (s : State) : (s.updDev d f).poison = s.poison := by unfold State.updDev; split <;> rfl
@[simp] theorem State.updDev_stamps (d : Nat) (f : Device → Device) (s : State) : (s.updDev d f).stamps = s.stamps := by unfold State.updDev; split <;> rfl
@[simp] theorem State.updDev_stampOwner (d : Nat) (f : Device → Device) (s : State) : (s.updDev d f).stampOwner = s.stampOwner := by unfold State.updDev; split <;> rfl
@[simp] theorem State.updDev_attrs (d : Nat) (f : Device → Device) (s : State) : (s.updDev d f).attrs = s.attrs := by unfold State.updDev; split <;> rfl
@[simp] theorem State.updDev_held (d : Nat) (f : Device → Device) (s : State) : (s.updDev d f).held = s.held := by unfold State.updDev; split <;> rfl
@[simp] theorem State.updDev_locks (d : Nat) (f : Device → Device) (s : State) : (s.updDev d f).locks = s.locks := by unfold State.updDev; split <;> rfl
@[simp] theorem State.updDev_promoted (d : Nat) (f : Device → Device) (s : State) : (s.updDev d f).promoted = s.promoted := by unfold State.updDev; split <;> rfl
@[simp] theorem State.updDev_thr (d : Nat) (f : Device → Device) (s : State) : (s.updDev d f).thr = s.thr := by unfold State.updDev; split <;> rfl
@[simp] theorem State.updDev_grp (d : Nat) (f : Device → Device) (s : State) : (s.updDev d f).grp = s.grp := by unfold State.updDev; split <;> rfl
@[simp] theorem State.updDev_lau (d : Nat) (f : Device → Device) (s : State) : (s.updDev d f).lau = s.lau := by unfold State.updDev; split <;> rfl
@[simp] theorem State.updDev_core (d : Nat) (f : Device → Device) (s : State) : (s.updDev d f).core = s.core := by unfold State.updDev; split <;> rfl
@[simp] theorem State.updDev_part (d : Nat) (f : Device → Device) (s : State) : (s.updDev d f).part = s.part := by unfold State.updDev; split <;> rfl
@[simp] theorem State.updDev_threads (d : Nat) (f : Device → Device) (s : State) : (s.updDev d f).threads = s.threads := by unfold State.updDev; split <;> rfl
@[simp] theorem State.updDev_groups (d : Nat) (f : Device → Device) (s : State) : (s.updDev d f).groups = s.groups := by unfold State.updDev; split <;> rfl
@[simp] theorem State.updDev_launches (d : Nat) (f : Device → Device) (s : State) : (s.updDev d f).launches = s.launches := by unfold State.updDev; split <;> rfl
@[simp] theorem State.updDev_cores (d : Nat) (f : Device → Device) (s : State) : (s.updDev d f).cores = s.cores := by unfold State.updDev; split <;> rfl
@[simp] theorem State.updDev_parts (d : Nat) (f : Device → Device) (s : State) : (s.updDev d f).parts = s.parts := by unfold State.updDev; split <;> rfl
@[simp] theorem State.updDev_inflight (d : Nat) (f : Device → Device) (s : State) : (s.updDev d f).inflight = s.inflight := by unfold State.updDev; split <;> rfl
@[simp] theorem State.updDev_tickets (d : Nat) (f : Device → Device) (s : State) : (s.updDev d f).tickets = s.tickets := by unfold State.updDev; split <;> rfl
@[simp] theorem State.updDev_contributions (d : Nat) (f : Device → Device) (s : State) : (s.updDev d f).contributions = s.contributions := by unfold State.updDev; split <;> rfl
@[simp] theorem State.updDev_failedViews (d : Nat) (f : Device → Device) (s : State) : (s.updDev d f).failedViews = s.failedViews := by unfold State.updDev; split <;> rfl
@[simp] theorem State.updDev_replies (d : Nat) (f : Device → Device) (s : State) : (s.updDev d f).replies = s.replies := by unfold State.updDev; split <;> rfl
@[simp] theorem State.updDev_censuses (d : Nat) (f : Device → Device) (s : State) : (s.updDev d f).censuses = s.censuses := by unfold State.updDev; split <;> rfl
@[simp] theorem State.updDev_images (d : Nat) (f : Device → Device) (s : State) : (s.updDev d f).images = s.images := by unfold State.updDev; split <;> rfl
@[simp] theorem State.updDev_now (d : Nat) (f : Device → Device) (s : State) : (s.updDev d f).now = s.now := by unfold State.updDev; split <;> rfl
@[simp] theorem State.updDev_nowFrac (d : Nat) (f : Device → Device) (s : State) : (s.updDev d f).nowFrac = s.nowFrac := by unfold State.updDev; split <;> rfl
@[simp] theorem State.updDev_agenda (d : Nat) (f : Device → Device) (s : State) : (s.updDev d f).agenda = s.agenda := by unfold State.updDev; split <;> rfl
@[simp] theorem State.updDev_issueQ (d : Nat) (f : Device → Device) (s : State) : (s.updDev d f).issueQ = s.issueQ := by unfold State.updDev; split <;> rfl
@[simp] theorem State.updDev_cycTrap (d : Nat) (f : Device → Device) (s : State) : (s.updDev d f).cycTrap = s.cycTrap := by unfold State.updDev; split <;> rfl
@[simp] theorem State.updDev_cycOnce (d : Nat) (f : Device → Device) (s : State) : (s.updDev d f).cycOnce = s.cycOnce := by unfold State.updDev; split <;> rfl
@[simp] theorem State.updDev_cycSets (d : Nat) (f : Device → Device) (s : State) : (s.updDev d f).cycSets = s.cycSets := by unfold State.updDev; split <;> rfl
@[simp] theorem State.updDev_tick (d : Nat) (f : Device → Device) (s : State) : (s.updDev d f).tick = s.tick := by unfold State.updDev; split <;> rfl
@[simp] theorem State.updDev_drawn (d : Nat) (f : Device → Device) (s : State) : (s.updDev d f).drawn = s.drawn := by unfold State.updDev; split <;> rfl
@[simp] theorem State.updDev_nextId (d : Nat) (f : Device → Device) (s : State) : (s.updDev d f).nextId = s.nextId := by unfold State.updDev; split <;> rfl
@[simp] theorem State.updDev_out (d : Nat) (f : Device → Device) (s : State) : (s.updDev d f).out = s.out := by unfold State.updDev; split <;> rfl

/-! ## `State.putD` -/

@[simp] theorem State.putD_mem (e : Enc) (n v : Nat) (s : State) : (s.putD e n v).mem = s.mem := rfl
@[simp] theorem State.putD_poison (e : Enc) (n v : Nat) (s : State) : (s.putD e n v).poison = s.poison := rfl
@[simp] theorem State.putD_stamps (e : Enc) (n v : Nat) (s : State) : (s.putD e n v).stamps = s.stamps := rfl
@[simp] theorem State.putD_stampOwner (e : Enc) (n v : Nat) (s : State) : (s.putD e n v).stampOwner = s.stampOwner := rfl
@[simp] theorem State.putD_attrs (e : Enc) (n v : Nat) (s : State) : (s.putD e n v).attrs = s.attrs := rfl
@[simp] theorem State.putD_held (e : Enc) (n v : Nat) (s : State) : (s.putD e n v).held = s.held := rfl
@[simp] theorem State.putD_locks (e : Enc) (n v : Nat) (s : State) : (s.putD e n v).locks = s.locks := rfl
@[simp] theorem State.putD_promoted (e : Enc) (n v : Nat) (s : State) : (s.putD e n v).promoted = s.promoted := rfl
@[simp] theorem State.putD_grp (e : Enc) (n v : Nat) (s : State) : (s.putD e n v).grp = s.grp := rfl
@[simp] theorem State.putD_lau (e : Enc) (n v : Nat) (s : State) : (s.putD e n v).lau = s.lau := rfl
@[simp] theorem State.putD_core (e : Enc) (n v : Nat) (s : State) : (s.putD e n v).core = s.core := rfl
@[simp] theorem State.putD_part (e : Enc) (n v : Nat) (s : State) : (s.putD e n v).part = s.part := rfl
@[simp] theorem State.putD_dev (e : Enc) (n v : Nat) (s : State) : (s.putD e n v).dev = s.dev := rfl
@[simp] theorem State.putD_threads (e : Enc) (n v : Nat) (s : State) : (s.putD e n v).threads = s.threads := rfl
@[simp] theorem State.putD_groups (e : Enc) (n v : Nat) (s : State) : (s.putD e n v).groups = s.groups := rfl
@[simp] theorem State.putD_launches (e : Enc) (n v : Nat) (s : State) : (s.putD e n v).launches = s.launches := rfl
@[simp] theorem State.putD_cores (e : Enc) (n v : Nat) (s : State) : (s.putD e n v).cores = s.cores := rfl
@[simp] theorem State.putD_parts (e : Enc) (n v : Nat) (s : State) : (s.putD e n v).parts = s.parts := rfl
@[simp] theorem State.putD_devs (e : Enc) (n v : Nat) (s : State) : (s.putD e n v).devs = s.devs := rfl
@[simp] theorem State.putD_inflight (e : Enc) (n v : Nat) (s : State) : (s.putD e n v).inflight = s.inflight := rfl
@[simp] theorem State.putD_tickets (e : Enc) (n v : Nat) (s : State) : (s.putD e n v).tickets = s.tickets := rfl
@[simp] theorem State.putD_contributions (e : Enc) (n v : Nat) (s : State) : (s.putD e n v).contributions = s.contributions := rfl
@[simp] theorem State.putD_failedViews (e : Enc) (n v : Nat) (s : State) : (s.putD e n v).failedViews = s.failedViews := rfl
@[simp] theorem State.putD_replies (e : Enc) (n v : Nat) (s : State) : (s.putD e n v).replies = s.replies := rfl
@[simp] theorem State.putD_censuses (e : Enc) (n v : Nat) (s : State) : (s.putD e n v).censuses = s.censuses := rfl
@[simp] theorem State.putD_images (e : Enc) (n v : Nat) (s : State) : (s.putD e n v).images = s.images := rfl
@[simp] theorem State.putD_now (e : Enc) (n v : Nat) (s : State) : (s.putD e n v).now = s.now := rfl
@[simp] theorem State.putD_nowFrac (e : Enc) (n v : Nat) (s : State) : (s.putD e n v).nowFrac = s.nowFrac := rfl
@[simp] theorem State.putD_agenda (e : Enc) (n v : Nat) (s : State) : (s.putD e n v).agenda = s.agenda := rfl
@[simp] theorem State.putD_issueQ (e : Enc) (n v : Nat) (s : State) : (s.putD e n v).issueQ = s.issueQ := rfl
@[simp] theorem State.putD_cycTrap (e : Enc) (n v : Nat) (s : State) : (s.putD e n v).cycTrap = s.cycTrap := rfl
@[simp] theorem State.putD_cycOnce (e : Enc) (n v : Nat) (s : State) : (s.putD e n v).cycOnce = s.cycOnce := rfl
@[simp] theorem State.putD_cycSets (e : Enc) (n v : Nat) (s : State) : (s.putD e n v).cycSets = s.cycSets := rfl
@[simp] theorem State.putD_tick (e : Enc) (n v : Nat) (s : State) : (s.putD e n v).tick = s.tick := rfl
@[simp] theorem State.putD_drawn (e : Enc) (n v : Nat) (s : State) : (s.putD e n v).drawn = s.drawn := rfl
@[simp] theorem State.putD_nextId (e : Enc) (n v : Nat) (s : State) : (s.putD e n v).nextId = s.nextId := rfl
@[simp] theorem State.putD_out (e : Enc) (n v : Nat) (s : State) : (s.putD e n v).out = s.out := rfl

/-! ## `State.putM` -/

@[simp] theorem State.putM_mem (e : Enc) (n v : Nat) (s : State) : (s.putM e n v).mem = s.mem := rfl
@[simp] theorem State.putM_poison (e : Enc) (n v : Nat) (s : State) : (s.putM e n v).poison = s.poison := rfl
@[simp] theorem State.putM_stamps (e : Enc) (n v : Nat) (s : State) : (s.putM e n v).stamps = s.stamps := rfl
@[simp] theorem State.putM_stampOwner (e : Enc) (n v : Nat) (s : State) : (s.putM e n v).stampOwner = s.stampOwner := rfl
@[simp] theorem State.putM_attrs (e : Enc) (n v : Nat) (s : State) : (s.putM e n v).attrs = s.attrs := rfl
@[simp] theorem State.putM_held (e : Enc) (n v : Nat) (s : State) : (s.putM e n v).held = s.held := rfl
@[simp] theorem State.putM_locks (e : Enc) (n v : Nat) (s : State) : (s.putM e n v).locks = s.locks := rfl
@[simp] theorem State.putM_promoted (e : Enc) (n v : Nat) (s : State) : (s.putM e n v).promoted = s.promoted := rfl
@[simp] theorem State.putM_grp (e : Enc) (n v : Nat) (s : State) : (s.putM e n v).grp = s.grp := rfl
@[simp] theorem State.putM_lau (e : Enc) (n v : Nat) (s : State) : (s.putM e n v).lau = s.lau := rfl
@[simp] theorem State.putM_core (e : Enc) (n v : Nat) (s : State) : (s.putM e n v).core = s.core := rfl
@[simp] theorem State.putM_part (e : Enc) (n v : Nat) (s : State) : (s.putM e n v).part = s.part := rfl
@[simp] theorem State.putM_dev (e : Enc) (n v : Nat) (s : State) : (s.putM e n v).dev = s.dev := rfl
@[simp] theorem State.putM_threads (e : Enc) (n v : Nat) (s : State) : (s.putM e n v).threads = s.threads := rfl
@[simp] theorem State.putM_groups (e : Enc) (n v : Nat) (s : State) : (s.putM e n v).groups = s.groups := rfl
@[simp] theorem State.putM_launches (e : Enc) (n v : Nat) (s : State) : (s.putM e n v).launches = s.launches := rfl
@[simp] theorem State.putM_cores (e : Enc) (n v : Nat) (s : State) : (s.putM e n v).cores = s.cores := rfl
@[simp] theorem State.putM_parts (e : Enc) (n v : Nat) (s : State) : (s.putM e n v).parts = s.parts := rfl
@[simp] theorem State.putM_devs (e : Enc) (n v : Nat) (s : State) : (s.putM e n v).devs = s.devs := rfl
@[simp] theorem State.putM_inflight (e : Enc) (n v : Nat) (s : State) : (s.putM e n v).inflight = s.inflight := rfl
@[simp] theorem State.putM_tickets (e : Enc) (n v : Nat) (s : State) : (s.putM e n v).tickets = s.tickets := rfl
@[simp] theorem State.putM_contributions (e : Enc) (n v : Nat) (s : State) : (s.putM e n v).contributions = s.contributions := rfl
@[simp] theorem State.putM_failedViews (e : Enc) (n v : Nat) (s : State) : (s.putM e n v).failedViews = s.failedViews := rfl
@[simp] theorem State.putM_replies (e : Enc) (n v : Nat) (s : State) : (s.putM e n v).replies = s.replies := rfl
@[simp] theorem State.putM_censuses (e : Enc) (n v : Nat) (s : State) : (s.putM e n v).censuses = s.censuses := rfl
@[simp] theorem State.putM_images (e : Enc) (n v : Nat) (s : State) : (s.putM e n v).images = s.images := rfl
@[simp] theorem State.putM_now (e : Enc) (n v : Nat) (s : State) : (s.putM e n v).now = s.now := rfl
@[simp] theorem State.putM_nowFrac (e : Enc) (n v : Nat) (s : State) : (s.putM e n v).nowFrac = s.nowFrac := rfl
@[simp] theorem State.putM_agenda (e : Enc) (n v : Nat) (s : State) : (s.putM e n v).agenda = s.agenda := rfl
@[simp] theorem State.putM_issueQ (e : Enc) (n v : Nat) (s : State) : (s.putM e n v).issueQ = s.issueQ := rfl
@[simp] theorem State.putM_cycTrap (e : Enc) (n v : Nat) (s : State) : (s.putM e n v).cycTrap = s.cycTrap := rfl
@[simp] theorem State.putM_cycOnce (e : Enc) (n v : Nat) (s : State) : (s.putM e n v).cycOnce = s.cycOnce := rfl
@[simp] theorem State.putM_cycSets (e : Enc) (n v : Nat) (s : State) : (s.putM e n v).cycSets = s.cycSets := rfl
@[simp] theorem State.putM_tick (e : Enc) (n v : Nat) (s : State) : (s.putM e n v).tick = s.tick := rfl
@[simp] theorem State.putM_drawn (e : Enc) (n v : Nat) (s : State) : (s.putM e n v).drawn = s.drawn := rfl
@[simp] theorem State.putM_nextId (e : Enc) (n v : Nat) (s : State) : (s.putM e n v).nextId = s.nextId := rfl
@[simp] theorem State.putM_out (e : Enc) (n v : Nat) (s : State) : (s.putM e n v).out = s.out := rfl

/-! ## `State.withCC` -/

@[simp] theorem State.withCC_mem (e : Enc) (v : BitVec 4) (s : State) : (s.withCC e v).mem = s.mem := by unfold State.withCC; split <;> rfl
@[simp] theorem State.withCC_poison (e : Enc) (v : BitVec 4) (s : State) : (s.withCC e v).poison = s.poison := by unfold State.withCC; split <;> rfl
@[simp] theorem State.withCC_stamps (e : Enc) (v : BitVec 4) (s : State) : (s.withCC e v).stamps = s.stamps := by unfold State.withCC; split <;> rfl
@[simp] theorem State.withCC_stampOwner (e : Enc) (v : BitVec 4) (s : State) : (s.withCC e v).stampOwner = s.stampOwner := by unfold State.withCC; split <;> rfl
@[simp] theorem State.withCC_attrs (e : Enc) (v : BitVec 4) (s : State) : (s.withCC e v).attrs = s.attrs := by unfold State.withCC; split <;> rfl
@[simp] theorem State.withCC_held (e : Enc) (v : BitVec 4) (s : State) : (s.withCC e v).held = s.held := by unfold State.withCC; split <;> rfl
@[simp] theorem State.withCC_locks (e : Enc) (v : BitVec 4) (s : State) : (s.withCC e v).locks = s.locks := by unfold State.withCC; split <;> rfl
@[simp] theorem State.withCC_promoted (e : Enc) (v : BitVec 4) (s : State) : (s.withCC e v).promoted = s.promoted := by unfold State.withCC; split <;> rfl
@[simp] theorem State.withCC_grp (e : Enc) (v : BitVec 4) (s : State) : (s.withCC e v).grp = s.grp := by unfold State.withCC; split <;> rfl
@[simp] theorem State.withCC_lau (e : Enc) (v : BitVec 4) (s : State) : (s.withCC e v).lau = s.lau := by unfold State.withCC; split <;> rfl
@[simp] theorem State.withCC_core (e : Enc) (v : BitVec 4) (s : State) : (s.withCC e v).core = s.core := by unfold State.withCC; split <;> rfl
@[simp] theorem State.withCC_part (e : Enc) (v : BitVec 4) (s : State) : (s.withCC e v).part = s.part := by unfold State.withCC; split <;> rfl
@[simp] theorem State.withCC_dev (e : Enc) (v : BitVec 4) (s : State) : (s.withCC e v).dev = s.dev := by unfold State.withCC; split <;> rfl
@[simp] theorem State.withCC_threads (e : Enc) (v : BitVec 4) (s : State) : (s.withCC e v).threads = s.threads := by unfold State.withCC; split <;> rfl
@[simp] theorem State.withCC_groups (e : Enc) (v : BitVec 4) (s : State) : (s.withCC e v).groups = s.groups := by unfold State.withCC; split <;> rfl
@[simp] theorem State.withCC_launches (e : Enc) (v : BitVec 4) (s : State) : (s.withCC e v).launches = s.launches := by unfold State.withCC; split <;> rfl
@[simp] theorem State.withCC_cores (e : Enc) (v : BitVec 4) (s : State) : (s.withCC e v).cores = s.cores := by unfold State.withCC; split <;> rfl
@[simp] theorem State.withCC_parts (e : Enc) (v : BitVec 4) (s : State) : (s.withCC e v).parts = s.parts := by unfold State.withCC; split <;> rfl
@[simp] theorem State.withCC_devs (e : Enc) (v : BitVec 4) (s : State) : (s.withCC e v).devs = s.devs := by unfold State.withCC; split <;> rfl
@[simp] theorem State.withCC_inflight (e : Enc) (v : BitVec 4) (s : State) : (s.withCC e v).inflight = s.inflight := by unfold State.withCC; split <;> rfl
@[simp] theorem State.withCC_tickets (e : Enc) (v : BitVec 4) (s : State) : (s.withCC e v).tickets = s.tickets := by unfold State.withCC; split <;> rfl
@[simp] theorem State.withCC_contributions (e : Enc) (v : BitVec 4) (s : State) : (s.withCC e v).contributions = s.contributions := by unfold State.withCC; split <;> rfl
@[simp] theorem State.withCC_failedViews (e : Enc) (v : BitVec 4) (s : State) : (s.withCC e v).failedViews = s.failedViews := by unfold State.withCC; split <;> rfl
@[simp] theorem State.withCC_replies (e : Enc) (v : BitVec 4) (s : State) : (s.withCC e v).replies = s.replies := by unfold State.withCC; split <;> rfl
@[simp] theorem State.withCC_censuses (e : Enc) (v : BitVec 4) (s : State) : (s.withCC e v).censuses = s.censuses := by unfold State.withCC; split <;> rfl
@[simp] theorem State.withCC_images (e : Enc) (v : BitVec 4) (s : State) : (s.withCC e v).images = s.images := by unfold State.withCC; split <;> rfl
@[simp] theorem State.withCC_now (e : Enc) (v : BitVec 4) (s : State) : (s.withCC e v).now = s.now := by unfold State.withCC; split <;> rfl
@[simp] theorem State.withCC_nowFrac (e : Enc) (v : BitVec 4) (s : State) : (s.withCC e v).nowFrac = s.nowFrac := by unfold State.withCC; split <;> rfl
@[simp] theorem State.withCC_agenda (e : Enc) (v : BitVec 4) (s : State) : (s.withCC e v).agenda = s.agenda := by unfold State.withCC; split <;> rfl
@[simp] theorem State.withCC_issueQ (e : Enc) (v : BitVec 4) (s : State) : (s.withCC e v).issueQ = s.issueQ := by unfold State.withCC; split <;> rfl
@[simp] theorem State.withCC_cycTrap (e : Enc) (v : BitVec 4) (s : State) : (s.withCC e v).cycTrap = s.cycTrap := by unfold State.withCC; split <;> rfl
@[simp] theorem State.withCC_cycOnce (e : Enc) (v : BitVec 4) (s : State) : (s.withCC e v).cycOnce = s.cycOnce := by unfold State.withCC; split <;> rfl
@[simp] theorem State.withCC_cycSets (e : Enc) (v : BitVec 4) (s : State) : (s.withCC e v).cycSets = s.cycSets := by unfold State.withCC; split <;> rfl
@[simp] theorem State.withCC_tick (e : Enc) (v : BitVec 4) (s : State) : (s.withCC e v).tick = s.tick := by unfold State.withCC; split <;> rfl
@[simp] theorem State.withCC_drawn (e : Enc) (v : BitVec 4) (s : State) : (s.withCC e v).drawn = s.drawn := by unfold State.withCC; split <;> rfl
@[simp] theorem State.withCC_nextId (e : Enc) (v : BitVec 4) (s : State) : (s.withCC e v).nextId = s.nextId := by unfold State.withCC; split <;> rfl
@[simp] theorem State.withCC_out (e : Enc) (v : BitVec 4) (s : State) : (s.withCC e v).out = s.out := by unfold State.withCC; split <;> rfl

/-! ## `State.orFp` -/

@[simp] theorem State.orFp_mem (f : BitVec 5) (s : State) : (s.orFp f).mem = s.mem := rfl
@[simp] theorem State.orFp_poison (f : BitVec 5) (s : State) : (s.orFp f).poison = s.poison := rfl
@[simp] theorem State.orFp_stamps (f : BitVec 5) (s : State) : (s.orFp f).stamps = s.stamps := rfl
@[simp] theorem State.orFp_stampOwner (f : BitVec 5) (s : State) : (s.orFp f).stampOwner = s.stampOwner := rfl
@[simp] theorem State.orFp_attrs (f : BitVec 5) (s : State) : (s.orFp f).attrs = s.attrs := rfl
@[simp] theorem State.orFp_held (f : BitVec 5) (s : State) : (s.orFp f).held = s.held := rfl
@[simp] theorem State.orFp_locks (f : BitVec 5) (s : State) : (s.orFp f).locks = s.locks := rfl
@[simp] theorem State.orFp_promoted (f : BitVec 5) (s : State) : (s.orFp f).promoted = s.promoted := rfl
@[simp] theorem State.orFp_grp (f : BitVec 5) (s : State) : (s.orFp f).grp = s.grp := rfl
@[simp] theorem State.orFp_lau (f : BitVec 5) (s : State) : (s.orFp f).lau = s.lau := rfl
@[simp] theorem State.orFp_core (f : BitVec 5) (s : State) : (s.orFp f).core = s.core := rfl
@[simp] theorem State.orFp_part (f : BitVec 5) (s : State) : (s.orFp f).part = s.part := rfl
@[simp] theorem State.orFp_dev (f : BitVec 5) (s : State) : (s.orFp f).dev = s.dev := rfl
@[simp] theorem State.orFp_threads (f : BitVec 5) (s : State) : (s.orFp f).threads = s.threads := rfl
@[simp] theorem State.orFp_groups (f : BitVec 5) (s : State) : (s.orFp f).groups = s.groups := rfl
@[simp] theorem State.orFp_launches (f : BitVec 5) (s : State) : (s.orFp f).launches = s.launches := rfl
@[simp] theorem State.orFp_cores (f : BitVec 5) (s : State) : (s.orFp f).cores = s.cores := rfl
@[simp] theorem State.orFp_parts (f : BitVec 5) (s : State) : (s.orFp f).parts = s.parts := rfl
@[simp] theorem State.orFp_devs (f : BitVec 5) (s : State) : (s.orFp f).devs = s.devs := rfl
@[simp] theorem State.orFp_inflight (f : BitVec 5) (s : State) : (s.orFp f).inflight = s.inflight := rfl
@[simp] theorem State.orFp_tickets (f : BitVec 5) (s : State) : (s.orFp f).tickets = s.tickets := rfl
@[simp] theorem State.orFp_contributions (f : BitVec 5) (s : State) : (s.orFp f).contributions = s.contributions := rfl
@[simp] theorem State.orFp_failedViews (f : BitVec 5) (s : State) : (s.orFp f).failedViews = s.failedViews := rfl
@[simp] theorem State.orFp_replies (f : BitVec 5) (s : State) : (s.orFp f).replies = s.replies := rfl
@[simp] theorem State.orFp_censuses (f : BitVec 5) (s : State) : (s.orFp f).censuses = s.censuses := rfl
@[simp] theorem State.orFp_images (f : BitVec 5) (s : State) : (s.orFp f).images = s.images := rfl
@[simp] theorem State.orFp_now (f : BitVec 5) (s : State) : (s.orFp f).now = s.now := rfl
@[simp] theorem State.orFp_nowFrac (f : BitVec 5) (s : State) : (s.orFp f).nowFrac = s.nowFrac := rfl
@[simp] theorem State.orFp_agenda (f : BitVec 5) (s : State) : (s.orFp f).agenda = s.agenda := rfl
@[simp] theorem State.orFp_issueQ (f : BitVec 5) (s : State) : (s.orFp f).issueQ = s.issueQ := rfl
@[simp] theorem State.orFp_cycTrap (f : BitVec 5) (s : State) : (s.orFp f).cycTrap = s.cycTrap := rfl
@[simp] theorem State.orFp_cycOnce (f : BitVec 5) (s : State) : (s.orFp f).cycOnce = s.cycOnce := rfl
@[simp] theorem State.orFp_cycSets (f : BitVec 5) (s : State) : (s.orFp f).cycSets = s.cycSets := rfl
@[simp] theorem State.orFp_tick (f : BitVec 5) (s : State) : (s.orFp f).tick = s.tick := rfl
@[simp] theorem State.orFp_drawn (f : BitVec 5) (s : State) : (s.orFp f).drawn = s.drawn := rfl
@[simp] theorem State.orFp_nextId (f : BitVec 5) (s : State) : (s.orFp f).nextId = s.nextId := rfl
@[simp] theorem State.orFp_out (f : BitVec 5) (s : State) : (s.orFp f).out = s.out := rfl

/-! ## `State.orSli` -/

@[simp] theorem State.orSli_mem (f : BitVec 7) (s : State) : (s.orSli f).mem = s.mem := rfl
@[simp] theorem State.orSli_poison (f : BitVec 7) (s : State) : (s.orSli f).poison = s.poison := rfl
@[simp] theorem State.orSli_stamps (f : BitVec 7) (s : State) : (s.orSli f).stamps = s.stamps := rfl
@[simp] theorem State.orSli_stampOwner (f : BitVec 7) (s : State) : (s.orSli f).stampOwner = s.stampOwner := rfl
@[simp] theorem State.orSli_attrs (f : BitVec 7) (s : State) : (s.orSli f).attrs = s.attrs := rfl
@[simp] theorem State.orSli_held (f : BitVec 7) (s : State) : (s.orSli f).held = s.held := rfl
@[simp] theorem State.orSli_locks (f : BitVec 7) (s : State) : (s.orSli f).locks = s.locks := rfl
@[simp] theorem State.orSli_promoted (f : BitVec 7) (s : State) : (s.orSli f).promoted = s.promoted := rfl
@[simp] theorem State.orSli_grp (f : BitVec 7) (s : State) : (s.orSli f).grp = s.grp := rfl
@[simp] theorem State.orSli_lau (f : BitVec 7) (s : State) : (s.orSli f).lau = s.lau := rfl
@[simp] theorem State.orSli_core (f : BitVec 7) (s : State) : (s.orSli f).core = s.core := rfl
@[simp] theorem State.orSli_part (f : BitVec 7) (s : State) : (s.orSli f).part = s.part := rfl
@[simp] theorem State.orSli_dev (f : BitVec 7) (s : State) : (s.orSli f).dev = s.dev := rfl
@[simp] theorem State.orSli_threads (f : BitVec 7) (s : State) : (s.orSli f).threads = s.threads := rfl
@[simp] theorem State.orSli_groups (f : BitVec 7) (s : State) : (s.orSli f).groups = s.groups := rfl
@[simp] theorem State.orSli_launches (f : BitVec 7) (s : State) : (s.orSli f).launches = s.launches := rfl
@[simp] theorem State.orSli_cores (f : BitVec 7) (s : State) : (s.orSli f).cores = s.cores := rfl
@[simp] theorem State.orSli_parts (f : BitVec 7) (s : State) : (s.orSli f).parts = s.parts := rfl
@[simp] theorem State.orSli_devs (f : BitVec 7) (s : State) : (s.orSli f).devs = s.devs := rfl
@[simp] theorem State.orSli_inflight (f : BitVec 7) (s : State) : (s.orSli f).inflight = s.inflight := rfl
@[simp] theorem State.orSli_tickets (f : BitVec 7) (s : State) : (s.orSli f).tickets = s.tickets := rfl
@[simp] theorem State.orSli_contributions (f : BitVec 7) (s : State) : (s.orSli f).contributions = s.contributions := rfl
@[simp] theorem State.orSli_failedViews (f : BitVec 7) (s : State) : (s.orSli f).failedViews = s.failedViews := rfl
@[simp] theorem State.orSli_replies (f : BitVec 7) (s : State) : (s.orSli f).replies = s.replies := rfl
@[simp] theorem State.orSli_censuses (f : BitVec 7) (s : State) : (s.orSli f).censuses = s.censuses := rfl
@[simp] theorem State.orSli_images (f : BitVec 7) (s : State) : (s.orSli f).images = s.images := rfl
@[simp] theorem State.orSli_now (f : BitVec 7) (s : State) : (s.orSli f).now = s.now := rfl
@[simp] theorem State.orSli_nowFrac (f : BitVec 7) (s : State) : (s.orSli f).nowFrac = s.nowFrac := rfl
@[simp] theorem State.orSli_agenda (f : BitVec 7) (s : State) : (s.orSli f).agenda = s.agenda := rfl
@[simp] theorem State.orSli_issueQ (f : BitVec 7) (s : State) : (s.orSli f).issueQ = s.issueQ := rfl
@[simp] theorem State.orSli_cycTrap (f : BitVec 7) (s : State) : (s.orSli f).cycTrap = s.cycTrap := rfl
@[simp] theorem State.orSli_cycOnce (f : BitVec 7) (s : State) : (s.orSli f).cycOnce = s.cycOnce := rfl
@[simp] theorem State.orSli_cycSets (f : BitVec 7) (s : State) : (s.orSli f).cycSets = s.cycSets := rfl
@[simp] theorem State.orSli_tick (f : BitVec 7) (s : State) : (s.orSli f).tick = s.tick := rfl
@[simp] theorem State.orSli_drawn (f : BitVec 7) (s : State) : (s.orSli f).drawn = s.drawn := rfl
@[simp] theorem State.orSli_nextId (f : BitVec 7) (s : State) : (s.orSli f).nextId = s.nextId := rfl
@[simp] theorem State.orSli_out (f : BitVec 7) (s : State) : (s.orSli f).out = s.out := rfl

/-! ## `State.replyD` -/

@[simp] theorem State.replyD_mem (e : Enc) (n v : Nat) (s : State) : (s.replyD e n v).mem = s.mem := rfl
@[simp] theorem State.replyD_poison (e : Enc) (n v : Nat) (s : State) : (s.replyD e n v).poison = s.poison := rfl
@[simp] theorem State.replyD_stamps (e : Enc) (n v : Nat) (s : State) : (s.replyD e n v).stamps = s.stamps := rfl
@[simp] theorem State.replyD_stampOwner (e : Enc) (n v : Nat) (s : State) : (s.replyD e n v).stampOwner = s.stampOwner := rfl
@[simp] theorem State.replyD_attrs (e : Enc) (n v : Nat) (s : State) : (s.replyD e n v).attrs = s.attrs := rfl
@[simp] theorem State.replyD_held (e : Enc) (n v : Nat) (s : State) : (s.replyD e n v).held = s.held := rfl
@[simp] theorem State.replyD_locks (e : Enc) (n v : Nat) (s : State) : (s.replyD e n v).locks = s.locks := rfl
@[simp] theorem State.replyD_promoted (e : Enc) (n v : Nat) (s : State) : (s.replyD e n v).promoted = s.promoted := rfl
@[simp] theorem State.replyD_grp (e : Enc) (n v : Nat) (s : State) : (s.replyD e n v).grp = s.grp := rfl
@[simp] theorem State.replyD_lau (e : Enc) (n v : Nat) (s : State) : (s.replyD e n v).lau = s.lau := rfl
@[simp] theorem State.replyD_core (e : Enc) (n v : Nat) (s : State) : (s.replyD e n v).core = s.core := rfl
@[simp] theorem State.replyD_part (e : Enc) (n v : Nat) (s : State) : (s.replyD e n v).part = s.part := rfl
@[simp] theorem State.replyD_dev (e : Enc) (n v : Nat) (s : State) : (s.replyD e n v).dev = s.dev := rfl
@[simp] theorem State.replyD_threads (e : Enc) (n v : Nat) (s : State) : (s.replyD e n v).threads = s.threads := rfl
@[simp] theorem State.replyD_groups (e : Enc) (n v : Nat) (s : State) : (s.replyD e n v).groups = s.groups := rfl
@[simp] theorem State.replyD_launches (e : Enc) (n v : Nat) (s : State) : (s.replyD e n v).launches = s.launches := rfl
@[simp] theorem State.replyD_cores (e : Enc) (n v : Nat) (s : State) : (s.replyD e n v).cores = s.cores := rfl
@[simp] theorem State.replyD_parts (e : Enc) (n v : Nat) (s : State) : (s.replyD e n v).parts = s.parts := rfl
@[simp] theorem State.replyD_devs (e : Enc) (n v : Nat) (s : State) : (s.replyD e n v).devs = s.devs := rfl
@[simp] theorem State.replyD_inflight (e : Enc) (n v : Nat) (s : State) : (s.replyD e n v).inflight = s.inflight := rfl
@[simp] theorem State.replyD_tickets (e : Enc) (n v : Nat) (s : State) : (s.replyD e n v).tickets = s.tickets := rfl
@[simp] theorem State.replyD_contributions (e : Enc) (n v : Nat) (s : State) : (s.replyD e n v).contributions = s.contributions := rfl
@[simp] theorem State.replyD_failedViews (e : Enc) (n v : Nat) (s : State) : (s.replyD e n v).failedViews = s.failedViews := rfl
@[simp] theorem State.replyD_replies (e : Enc) (n v : Nat) (s : State) : (s.replyD e n v).replies = s.replies := rfl
@[simp] theorem State.replyD_censuses (e : Enc) (n v : Nat) (s : State) : (s.replyD e n v).censuses = s.censuses := rfl
@[simp] theorem State.replyD_images (e : Enc) (n v : Nat) (s : State) : (s.replyD e n v).images = s.images := rfl
@[simp] theorem State.replyD_now (e : Enc) (n v : Nat) (s : State) : (s.replyD e n v).now = s.now := rfl
@[simp] theorem State.replyD_nowFrac (e : Enc) (n v : Nat) (s : State) : (s.replyD e n v).nowFrac = s.nowFrac := rfl
@[simp] theorem State.replyD_agenda (e : Enc) (n v : Nat) (s : State) : (s.replyD e n v).agenda = s.agenda := rfl
@[simp] theorem State.replyD_issueQ (e : Enc) (n v : Nat) (s : State) : (s.replyD e n v).issueQ = s.issueQ := rfl
@[simp] theorem State.replyD_cycTrap (e : Enc) (n v : Nat) (s : State) : (s.replyD e n v).cycTrap = s.cycTrap := rfl
@[simp] theorem State.replyD_cycOnce (e : Enc) (n v : Nat) (s : State) : (s.replyD e n v).cycOnce = s.cycOnce := rfl
@[simp] theorem State.replyD_cycSets (e : Enc) (n v : Nat) (s : State) : (s.replyD e n v).cycSets = s.cycSets := rfl
@[simp] theorem State.replyD_tick (e : Enc) (n v : Nat) (s : State) : (s.replyD e n v).tick = s.tick := rfl
@[simp] theorem State.replyD_drawn (e : Enc) (n v : Nat) (s : State) : (s.replyD e n v).drawn = s.drawn := rfl
@[simp] theorem State.replyD_nextId (e : Enc) (n v : Nat) (s : State) : (s.replyD e n v).nextId = s.nextId := rfl
@[simp] theorem State.replyD_out (e : Enc) (n v : Nat) (s : State) : (s.replyD e n v).out = s.out := rfl

/-! ## `State.later` -/

@[simp] theorem State.later_mem (e : Enc) (vals : List Word) (n : Nat) (fp : BitVec 5) (sli : BitVec 7) (alu acq canSli canFp : Bool) (s : State) : (s.later e vals n fp sli alu acq canSli canFp).mem = s.mem := rfl
@[simp] theorem State.later_poison (e : Enc) (vals : List Word) (n : Nat) (fp : BitVec 5) (sli : BitVec 7) (alu acq canSli canFp : Bool) (s : State) : (s.later e vals n fp sli alu acq canSli canFp).poison = s.poison := rfl
@[simp] theorem State.later_stamps (e : Enc) (vals : List Word) (n : Nat) (fp : BitVec 5) (sli : BitVec 7) (alu acq canSli canFp : Bool) (s : State) : (s.later e vals n fp sli alu acq canSli canFp).stamps = s.stamps := rfl
@[simp] theorem State.later_stampOwner (e : Enc) (vals : List Word) (n : Nat) (fp : BitVec 5) (sli : BitVec 7) (alu acq canSli canFp : Bool) (s : State) : (s.later e vals n fp sli alu acq canSli canFp).stampOwner = s.stampOwner := rfl
@[simp] theorem State.later_attrs (e : Enc) (vals : List Word) (n : Nat) (fp : BitVec 5) (sli : BitVec 7) (alu acq canSli canFp : Bool) (s : State) : (s.later e vals n fp sli alu acq canSli canFp).attrs = s.attrs := rfl
@[simp] theorem State.later_held (e : Enc) (vals : List Word) (n : Nat) (fp : BitVec 5) (sli : BitVec 7) (alu acq canSli canFp : Bool) (s : State) : (s.later e vals n fp sli alu acq canSli canFp).held = s.held := rfl
@[simp] theorem State.later_locks (e : Enc) (vals : List Word) (n : Nat) (fp : BitVec 5) (sli : BitVec 7) (alu acq canSli canFp : Bool) (s : State) : (s.later e vals n fp sli alu acq canSli canFp).locks = s.locks := rfl
@[simp] theorem State.later_promoted (e : Enc) (vals : List Word) (n : Nat) (fp : BitVec 5) (sli : BitVec 7) (alu acq canSli canFp : Bool) (s : State) : (s.later e vals n fp sli alu acq canSli canFp).promoted = s.promoted := rfl
@[simp] theorem State.later_grp (e : Enc) (vals : List Word) (n : Nat) (fp : BitVec 5) (sli : BitVec 7) (alu acq canSli canFp : Bool) (s : State) : (s.later e vals n fp sli alu acq canSli canFp).grp = s.grp := rfl
@[simp] theorem State.later_lau (e : Enc) (vals : List Word) (n : Nat) (fp : BitVec 5) (sli : BitVec 7) (alu acq canSli canFp : Bool) (s : State) : (s.later e vals n fp sli alu acq canSli canFp).lau = s.lau := rfl
@[simp] theorem State.later_core (e : Enc) (vals : List Word) (n : Nat) (fp : BitVec 5) (sli : BitVec 7) (alu acq canSli canFp : Bool) (s : State) : (s.later e vals n fp sli alu acq canSli canFp).core = s.core := rfl
@[simp] theorem State.later_part (e : Enc) (vals : List Word) (n : Nat) (fp : BitVec 5) (sli : BitVec 7) (alu acq canSli canFp : Bool) (s : State) : (s.later e vals n fp sli alu acq canSli canFp).part = s.part := rfl
@[simp] theorem State.later_dev (e : Enc) (vals : List Word) (n : Nat) (fp : BitVec 5) (sli : BitVec 7) (alu acq canSli canFp : Bool) (s : State) : (s.later e vals n fp sli alu acq canSli canFp).dev = s.dev := rfl
@[simp] theorem State.later_threads (e : Enc) (vals : List Word) (n : Nat) (fp : BitVec 5) (sli : BitVec 7) (alu acq canSli canFp : Bool) (s : State) : (s.later e vals n fp sli alu acq canSli canFp).threads = s.threads := rfl
@[simp] theorem State.later_groups (e : Enc) (vals : List Word) (n : Nat) (fp : BitVec 5) (sli : BitVec 7) (alu acq canSli canFp : Bool) (s : State) : (s.later e vals n fp sli alu acq canSli canFp).groups = s.groups := rfl
@[simp] theorem State.later_launches (e : Enc) (vals : List Word) (n : Nat) (fp : BitVec 5) (sli : BitVec 7) (alu acq canSli canFp : Bool) (s : State) : (s.later e vals n fp sli alu acq canSli canFp).launches = s.launches := rfl
@[simp] theorem State.later_cores (e : Enc) (vals : List Word) (n : Nat) (fp : BitVec 5) (sli : BitVec 7) (alu acq canSli canFp : Bool) (s : State) : (s.later e vals n fp sli alu acq canSli canFp).cores = s.cores := rfl
@[simp] theorem State.later_parts (e : Enc) (vals : List Word) (n : Nat) (fp : BitVec 5) (sli : BitVec 7) (alu acq canSli canFp : Bool) (s : State) : (s.later e vals n fp sli alu acq canSli canFp).parts = s.parts := rfl
@[simp] theorem State.later_devs (e : Enc) (vals : List Word) (n : Nat) (fp : BitVec 5) (sli : BitVec 7) (alu acq canSli canFp : Bool) (s : State) : (s.later e vals n fp sli alu acq canSli canFp).devs = s.devs := rfl
@[simp] theorem State.later_inflight (e : Enc) (vals : List Word) (n : Nat) (fp : BitVec 5) (sli : BitVec 7) (alu acq canSli canFp : Bool) (s : State) : (s.later e vals n fp sli alu acq canSli canFp).inflight = s.inflight := rfl
@[simp] theorem State.later_tickets (e : Enc) (vals : List Word) (n : Nat) (fp : BitVec 5) (sli : BitVec 7) (alu acq canSli canFp : Bool) (s : State) : (s.later e vals n fp sli alu acq canSli canFp).tickets = s.tickets := rfl
@[simp] theorem State.later_contributions (e : Enc) (vals : List Word) (n : Nat) (fp : BitVec 5) (sli : BitVec 7) (alu acq canSli canFp : Bool) (s : State) : (s.later e vals n fp sli alu acq canSli canFp).contributions = s.contributions := rfl
@[simp] theorem State.later_failedViews (e : Enc) (vals : List Word) (n : Nat) (fp : BitVec 5) (sli : BitVec 7) (alu acq canSli canFp : Bool) (s : State) : (s.later e vals n fp sli alu acq canSli canFp).failedViews = s.failedViews := rfl
@[simp] theorem State.later_replies (e : Enc) (vals : List Word) (n : Nat) (fp : BitVec 5) (sli : BitVec 7) (alu acq canSli canFp : Bool) (s : State) : (s.later e vals n fp sli alu acq canSli canFp).replies = s.replies := rfl
@[simp] theorem State.later_censuses (e : Enc) (vals : List Word) (n : Nat) (fp : BitVec 5) (sli : BitVec 7) (alu acq canSli canFp : Bool) (s : State) : (s.later e vals n fp sli alu acq canSli canFp).censuses = s.censuses := rfl
@[simp] theorem State.later_images (e : Enc) (vals : List Word) (n : Nat) (fp : BitVec 5) (sli : BitVec 7) (alu acq canSli canFp : Bool) (s : State) : (s.later e vals n fp sli alu acq canSli canFp).images = s.images := rfl
@[simp] theorem State.later_now (e : Enc) (vals : List Word) (n : Nat) (fp : BitVec 5) (sli : BitVec 7) (alu acq canSli canFp : Bool) (s : State) : (s.later e vals n fp sli alu acq canSli canFp).now = s.now := rfl
@[simp] theorem State.later_nowFrac (e : Enc) (vals : List Word) (n : Nat) (fp : BitVec 5) (sli : BitVec 7) (alu acq canSli canFp : Bool) (s : State) : (s.later e vals n fp sli alu acq canSli canFp).nowFrac = s.nowFrac := rfl
@[simp] theorem State.later_agenda (e : Enc) (vals : List Word) (n : Nat) (fp : BitVec 5) (sli : BitVec 7) (alu acq canSli canFp : Bool) (s : State) : (s.later e vals n fp sli alu acq canSli canFp).agenda = s.agenda := rfl
@[simp] theorem State.later_issueQ (e : Enc) (vals : List Word) (n : Nat) (fp : BitVec 5) (sli : BitVec 7) (alu acq canSli canFp : Bool) (s : State) : (s.later e vals n fp sli alu acq canSli canFp).issueQ = s.issueQ := rfl
@[simp] theorem State.later_cycTrap (e : Enc) (vals : List Word) (n : Nat) (fp : BitVec 5) (sli : BitVec 7) (alu acq canSli canFp : Bool) (s : State) : (s.later e vals n fp sli alu acq canSli canFp).cycTrap = s.cycTrap := rfl
@[simp] theorem State.later_cycOnce (e : Enc) (vals : List Word) (n : Nat) (fp : BitVec 5) (sli : BitVec 7) (alu acq canSli canFp : Bool) (s : State) : (s.later e vals n fp sli alu acq canSli canFp).cycOnce = s.cycOnce := rfl
@[simp] theorem State.later_cycSets (e : Enc) (vals : List Word) (n : Nat) (fp : BitVec 5) (sli : BitVec 7) (alu acq canSli canFp : Bool) (s : State) : (s.later e vals n fp sli alu acq canSli canFp).cycSets = s.cycSets := rfl
@[simp] theorem State.later_tick (e : Enc) (vals : List Word) (n : Nat) (fp : BitVec 5) (sli : BitVec 7) (alu acq canSli canFp : Bool) (s : State) : (s.later e vals n fp sli alu acq canSli canFp).tick = s.tick := rfl
@[simp] theorem State.later_drawn (e : Enc) (vals : List Word) (n : Nat) (fp : BitVec 5) (sli : BitVec 7) (alu acq canSli canFp : Bool) (s : State) : (s.later e vals n fp sli alu acq canSli canFp).drawn = s.drawn := rfl
@[simp] theorem State.later_out (e : Enc) (vals : List Word) (n : Nat) (fp : BitVec 5) (sli : BitVec 7) (alu acq canSli canFp : Bool) (s : State) : (s.later e vals n fp sli alu acq canSli canFp).out = s.out := rfl
@[simp] theorem State.later_nextId (e : Enc) (vals : List Word) (n : Nat) (fp : BitVec 5) (sli : BitVec 7) (alu acq canSli canFp : Bool) (s : State) : (s.later e vals n fp sli alu acq canSli canFp).nextId = s.nextId + 1 := rfl

/-! ## Checking out -/

/-- A core checked out is the one asked for. -/
theorem State.checkoutCore_core (d n : Nat) (s : State) : (s.checkoutCore d n).core.dev = d ∧ (s.checkoutCore d n).core.num = n := by
  unfold State.checkoutCore; split
  · assumption
  · simp only
    cases h : s.cores.find? (fun c => c.dev = d && c.num = n) with
    | none => exact ⟨rfl, rfl⟩
    | some c => simpa using List.find?_some h

theorem State.checkoutPart_part (d p : Nat) (s : State) : (s.checkoutPart d p).part.dev = d ∧ (s.checkoutPart d p).part.pid = p := by
  unfold State.checkoutPart; split
  · assumption
  · simp only
    cases h : s.parts.find? (fun c => c.dev = d && c.pid = p) with
    | none => exact ⟨rfl, rfl⟩
    | some c => simpa using List.find?_some h

theorem State.checkoutDev_dev (d : Nat) (s : State) : (s.checkoutDev d).dev.num = d := by
  unfold State.checkoutDev; split
  · assumption
  · simp only
    cases h : s.devs.find? (fun c => c.num = d) with
    | none => rfl
    | some c => simpa using List.find?_some h

/-- A thread checked out is the one asked for. -/
theorem State.checkoutThread_key {k : ThreadKey} {s t : State} (h : s.checkoutThread k = some t) : t.thr.key = k := by
  unfold State.checkoutThread at h
  split at h
  · cases h; assumption
  · cases e : s.threads.find? (fun t => t.key = k) with
    | none => simp [e] at h
    | some u =>
      simp only [e, Option.some.injEq] at h
      subst h
      simpa using List.find?_some e

theorem State.checkoutGroup_gid {n : Nat} {s t : State} (h : s.checkoutGroup n = some t) : t.grp.gid = n := by
  unfold State.checkoutGroup at h
  split at h
  · cases h; assumption
  · cases e : s.groups.find? (fun g => g.gid = n) with
    | none => simp [e] at h
    | some u =>
      simp only [e, Option.some.injEq] at h
      subst h
      simpa using List.find?_some e

/-- Checking the same thread out again changes nothing. -/
@[simp] theorem State.checkoutThread_self (s : State) : s.checkoutThread s.thr.key = some s := by simp [State.checkoutThread]
@[simp] theorem State.checkoutGroup_self (s : State) : s.checkoutGroup s.grp.gid = some s := by simp [State.checkoutGroup]
@[simp] theorem State.checkoutLaunch_self (s : State) : s.checkoutLaunch s.lau.lid = some s := by simp [State.checkoutLaunch]
@[simp] theorem State.checkoutCore_self (s : State) : s.checkoutCore s.core.dev s.core.num = s := by simp [State.checkoutCore]
@[simp] theorem State.checkoutPart_self (s : State) : s.checkoutPart s.part.dev s.part.pid = s := by simp [State.checkoutPart]
@[simp] theorem State.checkoutDev_self (s : State) : s.checkoutDev s.dev.num = s := by simp [State.checkoutDev]

end Sys2Proof.Machine
end

