-- ==== Sys2Proof/Tests/Slice0.lean ====
section
/-!
SUPPORT. The model's own tests: words and terms that the checks refuse, words that decode, worked examples of the chapters, and for every obligation
with hypotheses a theorem that shows states and operands that meet them.
-/
set_option Elab.async false
namespace Sys2Proof.Tests
open Sys2Proof Sys2Proof.Machine Sys2Proof.Claims Bits Encoding

/-! ## A small machine -/

/-- The machine just after reset, with one thread of one group voted for and checked out at code address 0, every operand register zero, and the
partition's keys and seed set to zero. -/
def base : State :=
  let s := (({ State.reset.withFetchWord 96 0 with issueQ := [] } : State).atIssue ⟨1, 0⟩ 0).getD State.reset
  { s with part := { s.part with ka := 0, kb := 0, seed := 0 } }

/-- The fields of a long or extended form, guard true. -/
def lx (d a b c t m : Nat) (lit : Option Word := none) : LX :=
  ⟨7, false, false, BitVec.ofNat 8 d, BitVec.ofNat 8 a, BitVec.ofNat 8 b, BitVec.ofNat 8 c, BitVec.ofNat 4 t, 0, BitVec.ofNat 8 m, lit⟩
/-- The fields of a short form, guard true. -/
def sf (d a b : Nat) : SEnc := ⟨7, false, BitVec.ofNat 6 d, BitVec.ofNat 6 a, BitVec.ofNat 6 b⟩

/-- Changes of what is checked out. -/
def onThr (f : Thread → Thread) (s : State) : State := { s with thr := f s.thr }
def onGrp (f : Group → Group) (s : State) : State := { s with grp := f s.grp }
def onLau (f : Launch → Launch) (s : State) : State := { s with lau := f s.lau }
def onCore (f : Core → Core) (s : State) : State := { s with core := f s.core }
def onPart (f : Part → Part) (s : State) : State := { s with part := f s.part }
def onDev (f : Device → Device) (s : State) : State := { s with dev := f s.dev }
/-- x registers from these numbers and values. -/
def regs (l : List (Nat × Word)) : State → State := onThr (fun t => { t with regs := l.foldl (fun v p => v.setIfInBounds p.1 p.2) t.regs })
/-- Uniform registers. -/
def ks (l : List (Nat × Word)) : State → State := onGrp (fun g => { g with k := l.foldl (fun v p => v.setIfInBounds p.1 p.2) g.k })
/-- Scratchpad bytes: a number of four bytes at an offset. -/
def pad (o v : Nat) : State → State := onGrp (fun g => { g with scratch := Mem.write g.scratch o (Bits.toBytes 4 v) })
/-- The page of virtual address 0 has this class, format, destination and scale frame. -/
def page (cls fmt dest scale : Nat) (s : State) : State :=
  { s with mem := Mem.write s.mem 0x18000 (Bits.toBytes 16 (placedPage + 2 ^ 6 + 15 + cls * 2 ^ 57 + fmt * 2 ^ 60 + dest * 2 ^ 118 + scale * 2 ^ 92)) }

/-- The instruction can issue and execute, nothing has arrived, and `p` holds of its fields and the state its meaning reads. -/
def fits (i : Instr) (s : State) (p : Enc → State → Bool) : Bool :=
  match i.enc? with
  | some e => decide (Ready e s ∧ Quiet s) && p e (atBody e s)
  | none => false
/-- The words stand for an instruction that can issue and execute. -/
def wordsFit (s : State) (ws : List Word) : Bool :=
  match decodeList ws with
  | .ok i => fits i s (fun _ _ => true)
  | .error _ => false
/-- A check passes, and its answer has a property. -/
def oks {ε α : Type} (x : Except ε α) (p : α → Bool) : Bool :=
  match x with
  | .ok a => p a
  | .error _ => false
/-- What `Uncached` says, decided. -/
def uncached (l : Xlat) (s : State) : Bool :=
  decide (cacheable l.cls = false ∨ s.core.lcache.find? (fun c => c.line = l.key / 128 && c.pid = s.part.pid) = none)
/-- A result is pending. -/
def pending : State → State :=
  onThr (fun t => { t with pend := [⟨0, 4, [], 1, 0, false, 0, 0, true, false, false, false⟩] })
/-- An access of the thread on its way to an address of a device. -/
def access (s : State) (serial : Nat) (kind : AccessKind) (dst key va : Nat) (remote : Bool) : Access :=
  { serial := serial, t := s.thr.key, kind := kind, dst := dst, key := key, va := va, plain := false, remote := remote, ordered := false,
    waits := false, sentAt := 0, lid := s.lau.lid, tag := 0, ltag := 0, gen := 0, refused := false, path := 0, src := 0, acq := false }
/-- An atomic on the placed page is on its way to its home. -/
def flying (s : State) : State := { s with inflight := [access s 7 (.atomic 0 1 1 0) 0 (placedPage + 4) 4 false] }
/-- The scratchpad's first sync word expects `n` arrivals. -/
def word (n : Nat) : State → State := onGrp (fun g => { g with scratch := Mem.write g.scratch 0 (SyncWord.bytes { bt := 0, bc := 0, tc := 0, tt := n, gen := 0 }) })
/-- It is a barrier. -/
def barrier (n : Nat) (s : State) : State := onGrp (fun g => { g with attrs := [(0, ⟨false, true, 0⟩)] }) (word n s)
/-- The only lane of the pack gathers on a mask of its own bit. -/
def gathers (i : Instr) : Bool :=
  let s := regs [(8, 1)] base
  match i.enc? with
  | some e =>
    let b := atBody e s
    let mask := if e.form = .x then e.lit else b.read32 e.b
    decide (Issues e s ∧ Quiet s) && mask.getLsbD (s.thr.key.tid % 32) && !b.absentLanes mask
  | none => false
/-- The state after it has gathered. -/
def gathered (i : Instr) (s : State) : Option State :=
  match exec i s with
  | .next t => some t
  | _ => none
/-- It is in its place, and no lane is missing. -/
def gatheredIn (i : Instr) : Bool :=
  (gathered i (regs [(8, 1)] base)).any (fun t => decide (t.focus t.thr.key = some t) && t.running && t.missingLanes.isEmpty && base.thr.guard 7 false)
/-- The only lane arrives at a change of the pool. -/
def poolArrives (i : Instr) : Bool :=
  match i.enc? with
  | some e => decide (Issues e base ∧ Quiet base) && (atBody e base).liveMask.getLsbD 0 && !(atBody e base).absentLanes (atBody e base).liveMask
  | none => false
/-- It has gathered there with count `n`. -/
def poolGathered (op : BitVec 8) (i : Instr) (s : State) (n : Nat) : Bool :=
  (gathered i s).any (fun t => decide (t.focus t.thr.key = some t) && t.running && t.missingLanes.isEmpty && !t.liveMembers.isEmpty && decide (n % 8 = 0 ∧ n ≠ 0) &&
    match i.enc? with
    | some e => e.op = op && (match t.thr.status with | .waiting (.gather o _ ws _) => o = op && ws = toWords e | _ => false)
        && Encoding.ofWords ((toWords e).getD 0 0) ((toWords e).getD 1 0) ((toWords e).getD 2 0) = some e
        && t.liveMembers.all (fun m => (if e.form = .x then e.lit.toNat else t.memberReg m.2 e.b 1) = n)
    | none => false)
/-- A claim for one block waits, and the pool holds a block. -/
def claimed : State :=
  onGrp (fun g => { g with claims := [(0, 1)], pool := 1 }) (onThr (fun t => { t with status := .waiting (.regclaim 8), grant := 184 }) base)
/-- A ticket claim has waited at its merge point for 64 cycles. -/
def ticketed (s : State) : State :=
  onDev (fun d => { d with clk := 64 }) { s with tickets := [{ t := s.thr.key, dev := 0, core := 0, slot := 0, key := placedPage, va := 0, since := 0, dst := 6, val := none }] }
/-- A ticket claim has its ticket. -/
def answered (s : State) : State :=
  onThr (fun t => { t with status := .waiting .ticket })
    { s with tickets := [{ t := s.thr.key, dev := 0, core := 0, slot := 0, key := placedPage, va := 0, since := 0, dst := 6, val := some 3 }] }
/-- The core's queue has room, and no access is unacknowledged. -/
def roomy (s : State) : Bool := !s.core.full && s.released 2
/-- Group 1 holds `n` pairs from `p` on. -/
def owns (p n : Nat) : State → State :=
  onCore (fun c => { c with pairs := (List.range 8).map (fun i => if p ≤ i ∧ i < p + n then { AccPair.free with owner := 1 } else AccPair.free) })
/-- The row buffer, and macro 0, hold a tile of group 1. -/
def rowHolds (fmt : Nat) : State → State := onCore (fun c => { c with rowbuf := { Tile.none with fmt := some fmt, claim := 1 } })
def macroHolds : State → State := onCore (fun c => { c with macros := { Tile.none with fmt := some 0, claim := 1 } :: List.replicate 7 Tile.none })
/-- A command of group 1. -/
def job (id : Nat) (kind : JobKind) : Job :=
  ⟨id, 1, 0, 2, 0, 0, kind, [], [], none, true, false, true, none, none, 0, 2, none, none, [], [], none⟩
/-- A command of the array that works on pair 0 is queued. -/
def busyPair : State → State := onCore (fun c => { c with jobs := [job 0 (.accz 0 false)] })
/-- Sequencer `i` belongs to group 1. -/
def seqr (i : Nat) (stopped : Bool) : State → State :=
  onCore (fun c => { c with seqrs := c.seqrs.set i { gid := 1, tid := 0, list := 0, idx := 0, stopped := stopped, status := 0x10001 } })
/-- A copy of 16 bytes within the placed page. -/
def copyBlock : List (Nat × Word) := [(6, 0x10010), (7, 0x10001)]
/-- Region 0 holds one line of name 5, of count one. -/
def stored : State → State :=
  onPart (fun p => { p with lines := [{ region := 0, coll := 0, hash := 5, slot := 0, key := placedPage, interior := false, bytes := List.replicate 128 0, count := 1, freed := false, walked := false }] })
/-- Region 1 is enabled with one slot, class 0 of sequences uses it, and the page of virtual address 0 is a content page. -/
def cellar (s : State) : State :=
  onPart (fun p => { p with ka := 1, kb := 2, regions := [(1, ⟨0, 1, 0x80000000⟩)], classes := [(0, ⟨0x80001100, 128, 0, 0, 0⟩)] }) (page 1 0 0 0 s)
/-- And holds a line of these bytes. -/
def lineOf (bs : List Byte) (s : State) : State :=
  onPart (fun p => { p with lines := [{ region := 1, coll := 0, hash := BitVec.ofNat 56 (lh64 1 2 bs 128), slot := 0, key := placedPage, interior := false, bytes := bs, count := 1, freed := false, walked := false }] }) (cellar s)
/-- Prefix table 0 is enabled with these entries. -/
def prefixes (es : List PrefixEntry) : State → State := onPart (fun p => { p with prefixes := [(0, ⟨true, es⟩)] })
/-- Sequence 5 is open on this device, with a step of the launch, bound by the group to view 1. -/
def inSeq (f : SeqCtx → SeqCtx) (s : State) : State :=
  onGrp (fun g => { g with seq := 5, view := 1 })
    (onDev (fun d => { d with seqs := [f { SeqCtx.new 5 0 0 0 0 0 0 [] [0] [[]] with steps := [⟨2, 1, true, [], false, none⟩] }] })
      (onPart (fun p => { p with regions := [(1, ⟨0, 1, 0x80000000⟩)], classes := [(0, ⟨0x80001100, 128, 0, 0, 0⟩)] }) s))
/-- Handle 1 is that of sequence 5, and x8 and x9 hold it with a bound on the token. -/
def handled (bound : Nat) (s : State) : State :=
  regs [(8, BitVec.ofNat 32 (2 ^ 24 + bound))] (onDev (fun d => { d with handles := [(1, { seq := 5, off := 0, len := 128, gen := 0, write := true, read := true, valid := true })] }) s)
/-- A trap of the thread can be delivered: its record has a place. -/
def trappable (s : State) : State :=
  onLau (fun l => { l with record := l.record.set 41 0x10 }) (page 5 0 0 0 s)
/-- What `CanTrap` says, decided. -/
def canTrap (s : State) : Bool :=
  !s.trapTaken && decide (s.grp.shadow = 0) && s.inflight.all (fun a => decide (a.t ≠ s.thr.key)) && s.trapPlace.any (fun p => s.part.mailboxOf p.1 = none)
/-- A KV access is refused for reason `r` with a trap that can be delivered. -/
def refuses (i : Instr) (s : State) (write : Bool) (r : Nat) : Bool :=
  fits i s (fun e b => b.opC e 1 % memSize e = 0 && (match b.kvCheck (b.opA e 2) (b.opB e 1) (b.opC e 1) (memSize e) write with | .error q => q = r | .ok _ => false) && canTrap s)
/-- Bytes of a launch record at virtual address 0x100, where x8 points. -/
def recordAt (bs : List Byte) (s : State) : State := regs [(8, 0x100)] { s with mem := Mem.write s.mem (placedPage + 0x100) bs }
/-- What the statement of `launch` asks of its record. -/
def launches (e : Enc) (b : State) (p : State → Launch → Bool) : Bool :=
  oks (b.global { va := b.opA e 2, size := 256, write := false, classes := [0, 1, 3], prot13 := false }) (fun x => b.grp.staged = [] && decide (FirstRun x.2) &&
    oks (x.2.load x.1 256 false) (fun y => p x.2 (Launch.submitted x.2.part.dev x.2.part.pid (Bits.toBytes 256 y.1) (BitVec.ofNat 64 (b.opB e 1)) .instr)))
/-- What the statement of `mbind` asks of its entry. -/
def binds (e : Enc) (b : State) (p : Nat → Nat → Nat → Bool) : Bool :=
  let va := b.opA e 2
  let entry := b.opB e 4
  let l := if field e.m.toNat 7 5 = 0 then Pte.level entry else field e.m.toNat 7 5
  let q := b.part? b.grp.dev (field e.m.toNat 4 0)
  b.released 4 && b.grp.staged = [] && decide (FirstRun b) && decide (q.ptroot.toNat % 2 = 1)
    && (entryPlace b.mem q.dev va l 5 (field q.ptroot.toNat 51 12 * 2 ^ 12)).isSome && p va l entry
/-- A thread that is no firmware's is refused. -/
def denies (i : Instr) : Bool :=
  let s := onLau (fun l => { l with privileged := false }) (trappable base)
  match i.enc? with
  | some e => decide (s.thr.status = .ready) && canTrap s && !s.lau.privileged && (s.illegalHere e).isSome
  | none => false
/-- `n` censuses of the core are under way. -/
def censused (n : Nat) (s : State) : State :=
  { s with censuses := List.replicate n { id := 0, number := 0, pid := 0, scope := 0, seq := 0, view := 0, combine := 0, key := 0, dev := 0, core := 0, gid := 1, buf := 0, word := 0,
                                          todo := [], spawned := 0, finished := 0, kept := 0, value := 0, first := (0, 0, 0), mobile := [], overflow := false } }
/-- The core's directory holds `n` live entries. -/
def listed (n : Nat) : State → State :=
  onCore (fun c => { c with dirs := (List.range n).map (fun i => ⟨0, i, .live, 0, BitVec.ofNat 32 i, 0, 0, [0, 0, 0, 0], []⟩) })
/-- The thread's region is open, with x8 saved; it has failed where `f` is not zero. -/
def opened (f : Nat) : State → State := onThr (fun t => { t with region := some { saved := [(8, 5)], target := 0x40, failed := f, acks := [], sent := false, since := 0 } })
/-- The guard is false, and no gather counts it. -/
def guardFalse (i : Instr) : Bool :=
  match i.enc? with
  | some e => decide (Issues e base ∧ Quiet base) && !base.thr.guard e.g e.n && decide (e.op.toNat < 0x90 ∨ 0x9F < e.op.toNat) && e.op ≠ 0xE4 && e.op ≠ 0xE5
  | none => false
/-- The second page, at 0x10000, is a trap area. -/
def split (s : State) : State :=
  onLau (fun l => { l with record := l.record.set 42 1 }) { s with mem := Mem.write s.mem 0x18010 (Bits.toBytes 16 (placedPage + 0x10000 + 2 ^ 6 + 15 + 5 * 2 ^ 57)) }
/-- Page 0 may be read by none. -/
def unreadable (s : State) : State := split { s with mem := Mem.write s.mem 0x18000 (Bits.toBytes 16 (placedPage + 2 ^ 6 + 13)) }
/-- What an event of thread 0 of group 1 finds in its place. -/
def at1 (s : State) (p : State → Bool) : Bool := (s.focus ⟨1, 0⟩).any p
/-- The thread waits, and is at its meeting. -/
def waits (w : Wait) : State → State := onThr (fun t => { t with status := .waiting w })
def met : State → State := onThr (fun t => { t with meet := 0 })
/-- A second thread of the pack. -/
def pair (s : State) : State := { s with threads := putThread { s.thr with key := ⟨1, 1⟩, status := .ready } s.threads }
/-- The thread has waited for its launch's stall limit. -/
def stalled (w : Wait) : State :=
  onDev (fun d => { d with clk := 2 ^ 32 }) (waits w (onLau (fun l => { l with record := l.record.set 20 1 }) base))
/-- What a stall limit asks, decided. -/
def long (s : State) : Bool := s.running && s.thr.due = none && decide (s.lau.stall ≠ 0 ∧ s.lau.stall ≤ s.dev.clk - s.thr.waitSince + s.thr.waited)
/-- The thread is trapped with its record on the placed page, its resume word released with disposition `d`. -/
def resumable (cause d : Nat) : State :=
  onThr (fun t => { t with status := .trapped cause placedPage })
    { base with mem := Mem.write base.mem placedPage (SyncWord.bytes { bt := 0, bc := 0, tc := 0, tt := 1, gen := 1 } ++ Bits.toBytes 4 d) }
/-- One result is pending. -/
def pendingOf (p : Pending) : State := onThr (fun t => { t with pend := [p] }) base
/-- The group's phase closes with one byte staged. -/
def closing : State → State := onGrp (fun g => { g with phase := .closing, staged := [(placedPage, 7)], stagedVa := [(placedPage / 64, 0)] })
/-- The group waits for a core. -/
def queued (s : State) : State :=
  onLau (fun l => { l with admitted := [] }) (onGrp (fun g => { g with phase := .queued, slots := [], placed := false }) { s with thr := Thread.none, threads := [] })
/-- A level-11 phase of another launch waits for the core that group 1 has. -/
def contended : State :=
  { base with
    now := 20000,
    groups := putGroup { Group.none with gid := 7, lid := 8, size := 1, phase := .queued, level := 11, scratchSize := 2 ^ 20 } base.groups,
    launches := putLaunch { Launch.none with lid := 8, record := placedRecord, state := .running, priority := 11 } base.launches }
/-- Every core is quarantined. -/
def idleNone : List Core := (List.range 192).map (fun c => { Core.fresh 0 c with quarantined := true })
/-- The CRC-64 of the placed page's first block. -/
def blockTag : DWord := crc64 (Mem.read base.mem placedPage 4096)
/-- The thread is parked on the placed page, a promoted one whose first block has this tag. -/
def promoted_ (tag : DWord) (bad : List Nat) (refetch : Bool) (s : State) : State :=
  onThr (fun t => { t with status := .parked 0 }) { s with promoted := [⟨16, 0, [tag], [], bad, refetch⟩] }
/-- Block 0 of it is to be checked, and it has failed where `bad`. -/
def checks (tag : DWord) (bad : Bool) : Bool :=
  at1 (promoted_ tag (if bad then [0] else []) false base) (fun s => s.thr.status = .parked 0 && s.thr.due = none && s.running && s.parksOn 16 s.thr && s.mem = base.mem
    && (s.promoted.find? (fun p => p.page = 16)).any (fun p => p.checked = [] && !p.refetch && p.tags.length = 1) && s.tagFailed placedPage = bad
    && s.grp.shadow = 0 && s.inflight = [] && (s.groupThreads s.grp.gid).all (fun t => t.region = none) && s.grp.foreignBytes = [] && s.grp.seq = 0xFFFFFFFF)
/-- What an event of job 5 of core 0 finds in its place. -/
def jobOf (s : State) (j : Job) (p : Job → State → Bool) : Bool :=
  ((onCore (fun c => { c with jobs := [j] }) s).focusJob 0 0 5).any (fun x => p x.1 x.2)
/-- A job that may start. -/
def jobAt (j : Job) (p : Job → State → Bool) : Bool := jobOf base j (fun j s => s.mayRun j && !j.moved && p j s)
/-- No thread waits to exchange banks. -/
def noSwap (s : State) : Bool := s.allThreads.all (fun u => match u.status with | .waiting (.aswap _ _) => false | _ => true)
/-- Sequencer 0 stands at a well-formed descriptor of a kind. -/
def descriptor (kind : Nat) (s0 : State) : Bool :=
  let s := (s0.checkoutCore 0 0).checkoutDev 0
  let q := s.core.seqrs.getD 0 Sequencer.free
  decide (q.gid ≠ 0) && !q.stopped && (s.focusGroup q.gid).any (fun s1 => s1.core = s.core && s1.grp.gid = q.gid && s1.running && q.list + 128 * q.idx + 128 ≤ s1.grp.scratchSize
    && Mem.nat s1.grp.scratch (q.list + 128 * q.idx) 1 = kind && Mem.nat s1.grp.scratch (q.list + 128 * q.idx + 2) 2 = 0
    && (List.range 56).all (fun i => Mem.get s1.grp.scratch (q.list + 128 * q.idx + 72 + i) = 0) && decide (0 < s.core.seqrs.length))
/-- Its descriptor is a copy. -/
def copyDescriptor (s : State) : State := pad 52 0x10001 (pad 48 0x10010 (pad 0 1 (seqr 0 false s)))
/-- The thread waits for pairs, or for a sequencer. -/
def waitsAcca (s : State) : State := onCore (fun c => { c with accaQ := [⟨1, 0⟩] }) (waits (.acca 8 6) s)
def waitsFork (s : State) : State := onCore (fun c => { c with forkQ := [⟨1, 0⟩] }) (waits (.fork 128 6) s)
/-- The route table sends packets for device 1 by candidate 0. -/
def routed : State → State := onDev (fun d => { d with routes := [(1, 0x80)] })
/-- A remote access of the thread arrives. -/
def remoteAt (a : Access) (p : Access → State → Bool) : Bool :=
  let s : State := { onThr (fun t => { t with pend := [⟨7, 4, [], 1, 0, false, 0, 0, false, false, false, false⟩] }) (waits (.remote 7) (routed base)) with inflight := [a] }
  s.reaches a && (s.dev? a.dst).ckState ≠ 2 && s.mayPerform a && (s.focus a.t).any (fun s1 => p a s1)
/-- A refused one has waited for 50 µs. -/
def lost (s : State) : State := { s with now := 50000, inflight := [{ access s 7 (.load 4 false) 1 (2 ^ 52) 0 true with refused := true }] }
/-- One byte of a sector of device 1. -/
def sector : CombEntry := ⟨⟨1, 0⟩, 1, 2 ^ 46 + placedPage / 64, 0, true, [(0, 7)]⟩
/-- The thread's region holds it and is being committed. -/
def regionAt (s : State) : State := onCore (fun c => { c with comb := [sector] }) (waits .fcommit (opened 0 (routed (page 2 0 1 0 s))))
/-- What the statement asks of a region that a destination has not answered. -/
def asked (s : State) : Bool :=
  s.thr.status = .waiting .fcommit && s.thr.region.any (fun r => r.failed = 0 && !r.sent && !r.acks.contains 1) && s.regionOf 1 ≠ [] && (s.dev? 1).answers && s.dev.answers && (s.dev.forward 1 0).isSome
/-- On device 1, whose memory holds nothing but its tables, the sector lies in a page of 1 GiB and class 5. -/
def classed (s : State) : State :=
  { s with parts := { Part.fresh 1 0 with ptroot := 0x10001 } :: s.parts, mem :=
    [(0x10000, 1), (0x10001, 0x21), (0x10002, 1), (0x12000, 1), (0x12001, 0x41), (0x12002, 1), (0x14000, 0x4F), (0x14007, 0x0B)].map (fun c => (2 ^ 52 + c.1, c.2)) }
/-- A contribution of the thread to a reduction of two. -/
def part0 : Contribution :=
  { serial := 7, t := ⟨1, 0⟩, wantsStatus := true, dst := 6, dev := 0, parts := [(placedPage, 64)], arrival := none, op := 0, type_ := 1, count := 1, index := 0, length := 64, id := 0,
    view := 0xFFFFFFFF, seq := 0xFFFFFFFF, nbv := 2, bytes := List.replicate 64 0 }
/-- It arrives where these reductions are open. -/
def contributedTo (c : Contribution) (rs : List Reduction) (s0 : State) (p : Contribution → State → Bool) : Bool :=
  let s : State := onDev (fun d => { d with reductions := rs }) { s0 with contributions := [c] }
  (s.contributions.find? (fun c => c.serial = 7)).any (fun c => p c (s.checkoutDev c.dev))
def contributed : List Reduction → State → (Contribution → State → Bool) → Bool := contributedTo part0
/-- A census is to reach core 5. -/
def counted : State := { base with censuses := (censused 1 base).censuses.map (fun c => { c with todo := [5] }) }
/-- Whether a tail that a doorbell brings is refused. -/
def late (s : State) (q : Nat) (tail : Word) : Bool :=
  let x := s.part.queue q
  decide (2 ^ (x.ctl.toNat % 32) < (tail - x.head).toNat ∨ (tail - x.tail).toInt < 0)
/-- Queue 0 of four entries at virtual address 0x400 is enabled. -/
def queue (log : Nat) (head tail : Word) : State → State :=
  onPart (fun p => { p with queues := [(0, ⟨0x400, BitVec.ofNat 32 (2 ^ 31 + log), head, tail⟩)] })
/-- Its first entry names a record. -/
def entry (rec_ comp : Nat) (s : State) : State := { s with mem := Mem.write s.mem (placedPage + 0x400) (Bits.toBytes 8 rec_ ++ Bits.toBytes 8 0 ++ Bits.toBytes 8 comp) }
/-- What the statements of an accepted entry ask. -/
def accepts (s0 : State) (p : State → Nat → Option (List Byte) → Bool) : Bool :=
  let s := s0.focusPart 0 0
  let x := s.part.queue 0
  x.ctl.getLsbD 31 && !x.ctl.getLsbD 30 && decide (x.head ≠ x.tail) && s.part.pstat = 0 && !s.part.broken && s.dev.answers && decide (0 < s.nextId)
    && (s.queuePlace x).any (fun k => p s k (s.readRecord (Bits.natAt (Mem.read s.mem k 64) 0 8)))
/-- A launch record with these bytes. -/
def record (l : List (Nat × Byte)) : List Byte := l.foldl (fun r p => r.set p.1 p.2) placedRecord
/-- Mailbox 3 holds a launch. -/
def mailed (s : State) : State :=
  onPart (fun p => { p with mailboxes := [(3, ⟨0x8000, 1, 0x80000000, 0x100, [7]⟩)] }) (recordAt (record [(240, 3), (241, 0x80)]) s)
/-- The launch, of a record with these bytes, in a state; it has no group yet. -/
def launchIn (st : LaunchState) (l : List (Nat × Byte)) : State :=
  onLau (fun a => { a with state := st, record := record l, admitted := [], source := .instr }) { base with thr := Thread.none, grp := Group.none }
/-- What a waiting launch asks of its partition. -/
def dueStart (s : State) : Bool := s.lau.state = .waiting && s.part.pstat = 0 && !s.part.broken && s.dev.answers
/-- A gang launch over one device of sequence 5, and a fabric launch over one device. -/
def gangRecord : List (Nat × Byte) := [(18, 2), (11, 2), (88, 1), (92, 0x56), (244, 5), (245, 0), (246, 0), (247, 0)]
def fabricIn (st : LaunchState) : State :=
  onPart (fun p => { p with fabric := [(0, 0x8000)] }) (launchIn st [(11, 2), (88, 1), (92, 0x67)])
/-- The launch's group has ended. -/
def ended (l : List (Nat × Byte)) : State :=
  onLau (fun a => { a with record := record l, ended := [0] }) { base with thr := Thread.none, grp := Group.none, core := { base.core with jobs := [] } }
/-- A view of one device. -/
def v0 : View := ⟨2, [0], .pending, 1, [], 0, 0, true, true, [[]], [], none, false⟩
/-- The sequence forms view 2. -/
def forming (st : ViewState) (lost : List Nat) (q : SeqCtx) : SeqCtx := { q with succ := 2, views := { v0 with state := st, lost := lost } :: q.views }
/-- What an event of sequence 5 finds, with a partition of two devices and a recompute handler. -/
def seqAt (f : SeqCtx → SeqCtx) (p : SeqCtx → State → State → Bool) : Bool :=
  let s0 := onPart (fun p => { p with fabric := [(0, 0x8000), (1, 0x8001)], classes := [(0, ⟨0x80001100, 128, 0, 0, 0x100⟩)] })
    (onGrp (fun g => { g with stepEnded := true, partEnded := [5] }) (recordAt placedRecord (inSeq f { base with thr := { base.thr with status := .exited } })))
  (s0.ctx? 5).any (fun q => p q s0 (s0.focusPart 0 q.pid))
/-- A session of the device at a stage. -/
def session (stage : Nat) (signed : Option (List Byte)) : State := onDev (fun d => { d with ready := true, spdm := [(0, ⟨stage, [], signed⟩)] }) base
/-- Target 9 is registered with a capacity. -/
def targeted (cap : Nat) : State := onDev (fun d => { d with targets := [(9, cap, 1)] }) base
/-- It holds an image of the device. -/
def imaged : State :=
  { targeted 0 with images := [{ dev := 0, target := 9, marked := false, pages := [(5, 7)], stamps := [], owners := [], attrs := [], held := [], poison := [], device := Device.fresh 0, parts := [],
                                 cores := [], groups := [], threads := [], launches := [], censuses := [] }] }
/-- A checkpoint waits for the device, which is at rest. -/
def resting : State :=
  { onDev (fun d => { d with ckState := 1, ckTarget := some 9 }) base with
    grp := Group.none, thr := Thread.none, part := { base.part with pstat := 3 }, parts := (List.range 32).map (fun p => { Part.fresh 0 p with pstat := 3 }) }
/-- The window reaches the placed page's first eight bytes, of class 0. -/
def reach (s0 : State) : Bool :=
  let s := s0.focusPart 0 0
  s.dev.answers && decide (0 + 8 ≤ 2 ^ s.part.bar2) && (List.range 8).all (fun i => s.windowByte (s.part.winbase.toNat + 0 + i) = some (placedPage + i, 0))
/-- What the statement of `ldf` asks of its two addresses, and a property of the first. -/
def decodes (e : Enc) (b : State) (p : Xlat → State → Bool) : Bool :=
  oks (b.global { va := b.globalAddr e, size := 1, write := false, classes := [0, 1, 3], prot13 := false, formatted := true }) (fun x =>
    !x.2.poisoned x.1.key 1 && !x.2.poisoned (scaleKey b.part.dev x.1.entry (elementIndex x.1.entry (b.globalAddr e) (e.c.toNat % 2))) 4 && p x.1 x.2)
/-- What the statement of `amo` asks of its group and its address. -/
def amoFree (e : Enc) (l : Xlat) (b : State) : Bool :=
  decide (FirstRun b) && b.grp.staged = [] && b.grp.stagedVa = [] && decide (b.grp.shadow = 0) && ((b.touch (b.opA e 2) true l).refusal l (b.opA e 2)).isNone
/-- The second read of a formatted load is on its way to its home: of the scale word, or of the element. -/
def decoding (scale : Bool) : Bool :=
  let s : State := { pendingOf ⟨7, 6, [], 1, 0, false, 0, 0, false, false, false, true⟩ with inflight := [access base 7 (.decode scale 5 0 1) 0 (placedPage + 4) 4 false] }
  (s.inflight.find? (fun b => b.serial = 7)).any (fun a => !a.remote && a.va % 64 ≠ 0 && s.mayPerform a && !s.poisoned a.key 4
    && (s.focus a.t).any (fun s1 => (s1.launch? a.lid).isSome && s1.thr.key = a.t && s1.thr.pend.any (fun p => p.serial = 7)))
/-- What the statement of `fred` asks of its control word. -/
def reduces (ws : List Word) (b : State) : Bool :=
  let w := (ws.getD 2 0).toNat
  b.thr.region = none && field w 31 28 ≤ 2 && field w 23 20 ≠ 0 && field w 19 16 ≤ field w 23 20 && fredType (field w 27 24) && field w 15 10 = 0
/-- What the statement of consumed errors and audits asks of group 1, decided. -/
def still (s : State) : Bool :=
  s.grp.gid = 1 && s.grp.shadow = 0 && s.inflight = [] && (s.groupThreads 1).all (fun t => t.region = none) && s.grp.foreignBytes = [] && (s.shadowsOf 1).all (fun g => g.gid ≠ 1)
/-- The group's phase closes and has been sampled. -/
def sampled : State := onGrp (fun g => { g with phase := .closing, sampled := true }) base
/-- A run of the auditor on a core has ended; it has differed where `differs`. -/
def rerun (n core : Nat) (differs : Bool) : Group := { base.grp with gid := n, core := core, phase := .closing, shadow := 1, differs := differs }
/-- The group's phase has been run again with these ended runs, and these are the signatures so far. -/
def audited (runs : List Group) (audit : List (Option DWord)) : State :=
  { onGrp (fun g => { g with phase := .audited, sampled := true, audit := audit, auditCore := 48 }) base with groups := runs.foldr putGroup base.groups }
/-- The signature of an ended run. -/
def signed (h : Group) : Option DWord := (audited [h] []).shadowSignature h
/-- The third run has ended, and two signatures differ; `p` holds of that run. -/
def third (audit : List (Option DWord)) (p : State → Group → Bool) : Bool :=
  (groupAt 1 (audited [rerun 9 48 true, rerun 11 96 false] audit)).any (fun s => still s && s.grp.phase = .audited && s.grp.audit = audit && !s.grp.settled
    && ((s.shadowsOf 1).find? (fun h => h.core = 48)).isSome && ((s.shadowsOf 1).find? (fun h => h.core ≠ 48)).any (fun k => k.core = 96 && s.shadowDone k && p s k))

/-! ## A step runs what it fetches -/

/-- The machine about to fetch these words at an address of the placed page. -/
def about (pc : Nat) (ws : List Word) : State :=
  let s := trappable (State.reset.withFetchWord 96 0)
  { onThr (fun t => { t with pc := BitVec.ofNat 48 pc }) s with
    issueQ := [(⟨1, 0⟩, BitVec.ofNat 48 pc)], mem := Mem.write s.mem (placedPage + pc) (ws.flatMap (fun w => Bits.toBytes 4 w.toNat)) }
/-- What the statement asks of a fetch, and a property of the words, the state in which the instruction executes and its PC. -/
def fetches (s : State) (p : List Word → State → Nat → Bool) : Bool :=
  match s.agenda, s.issueQ with
  | [], (k, pc) :: rest =>
    (({ s with issueQ := rest } : State).atIssue k pc).any (fun s0 => oks s0.fetchAddr (fun x =>
      !s0.poisoned x.key 12 && p ((List.range 3).map (s0.fetchWord x)) (s0.touch s0.thr.pc.toNat false x) s0.thr.pc.toNat))
  | _, _ => false

/-- R20, R26 and the decoding examples of chapter 02: `add.s x12, x4, x5` at address 0 is fetched; 0x0000_0005 at offset 28 spans the boundary. -/
theorem witness_StepRunsFetched :
    fetches (about 0 [0x40F5F840]) (fun ws _ pc => oks (decodeWords (ws.getD 0 0) (ws.getD 1 0) (ws.getD 2 0)) (fun r =>
      r.2 = .addS ⟨7, false, 23, 15, 16⟩ && len r.1 = 4 && pc / 32 = (pc + 4 - 1) / 32))
    ∧ fetches (about 28 [5]) (fun ws s1 pc => lenOf (ws.getD 0 0) = some 8 && pc / 32 ≠ (pc + 8 - 1) / 32 && canTrap s1)
    ∧ fetches (about 0 [3]) (fun ws s1 _ => lenOf (ws.getD 0 0) = none && canTrap s1)
    ∧ ({ base with agenda := [.yieldEnd ⟨1, 0⟩] } : State).agenda = .yieldEnd ⟨1, 0⟩ :: [] ∧ (Instr.yieldEnd ⟨1, 0⟩).enc? = none := by decide +kernel

/-- A step from a safe state that answers a next state. -/
theorem witness_StepKeepsMemoryCanonical :
    Memory.wf (about 0 [0x40F5F840]).mem = true ∧ (match step (about 0 [0x40F5F840]) with | .next t => Memory.wf t.mem | _ => false) = true := by decide +kernel

/-- A well-formed instruction of each form. -/
theorem witness_DecodeOfEncode : ∀ i ∈ ([.addS ⟨7, false, 63, 0, 63⟩, .addLX (lx 0xBF 0 0x94 0 1 0), .amo (lx 12 20 0 0 2 0 (some 1)), .fred (lx 12 30 0 0xE0 0 0)] : List Instr),
    i.enc?.isSome = true ∧ i.wf = true := by decide +kernel

/-- Where every image verifies (an opaque answer), stages of the least version that runs have no cause. -/
theorem witness_measuredBoot (h : ∀ i, Config.signaturesVerify i [] = true) :
    let d : Device := { base.dev with flash := [2, 3, 4].map (fun i => (i, ⟨[], Config.fusedMinimum base.dev.num, true⟩)), minVersion := 0 }
    ∀ i ∈ [2, 3, 4], d.stageCause i = 0 := by
  simp [Device.stageCause, Device.image, lookup, h]

/-! ## What the checks of chapter 02 refuse (R33, Table 2.10) -/

/-- The decoder refuses words for a reason. -/
def refused (r : Reject) (ws : List Word) : Bool :=
  match decodeList ws with
  | .ok _ => false
  | .error q => q = r

/-- A term whose shape is not its row's, and one ill-formed instruction for each check, refused by name. -/
theorem test_illFormedTerms :
    (Instr.nopL { lx 0 0 0 0 0 0 with lit := some 1 }).wf = false
    ∧ ∀ p ∈ ([(.reservedBit, .nopS ⟨7, false, 1, 0, 0⟩), (.typeValue, .addLX (lx 6 8 9 0 15 0)), (.modifierValue, .exitL (lx 0 0 0 0 0 1)),
      (.conditionCodes, .jmpL { lx 0 8 0 0 0 0 with cc := true }), (.lookahead, .nopL { lx 0 0 0 0 0 0 with la := 3 }), (.registerCode, .jmpL (lx 0 0xF4 0 0 0 0)),
      (.pair, .addLX (lx 7 8 10 0 3 0)), (.destination, .addLX (lx 0xD8 8 9 0 1 0)), (.specialRegister, .rdsr (lx 6 0 0 0 0 99)),
      (.illegalUse, .accrd (lx 6 8 9 0 1 0x40)), (.illegalUse, .kset (lx 6 0 8 0 0 0))] : List (Reject × Instr)),
        p.2.wf = false ∧ (p.2.enc?.bind Enc.reject) = some p.1 := by decide +kernel
/-- Words that stand for no instruction. -/
theorem test_illFormedWords : ∀ p ∈ ([(.lengthField, [3]), (.reservedOpcode, [0x3BC0]), (.unassignedOpcode, [0x3830]), (.form, [0x3802]), (.form, [5]),
    (.grantedCount, [0x002F3EE6, 0x53008400, 0x87654321])] : List (Reject × List Word)), refused p.1 p.2 = true := by decide +kernel

/-! ## Worked examples of the chapters -/

/-- The instruction completes, and what it leaves has a property. -/
def after (i : Instr) (s : State) (p : Thread → Bool) : Bool :=
  match exec i s with
  | .next t => p t.thr
  | _ => false
/-- Its destination x6 and FPFLAGS, from x8 = `a` and x9 = `b`. -/
def gives (i : Instr) (a b d : Word) (fp : BitVec 5) : Bool :=
  after i (regs [(8, a), (9, b)] base) (fun t => t.regs.getD 6 0 = d && t.fp = fp)
/-- The same of a result that is left pending: its lowest words and flags. -/
def leaves (i : Instr) (s : State) (vals : List Word) (fp : BitVec 5) (sli : BitVec 7) : Bool :=
  after i s (fun t => t.pend.any (fun p => p.vals = vals && p.fp = fp && p.sli = sli))

/-- The decoding examples of chapter 02. -/
theorem test_decodingExamples :
    decodeList [0x40F5F840] = .ok (.addS ⟨7, false, 23, 15, 16⟩)
    ∧ decodeList [0x4A4A1441, 0x0020002A] = .ok (.addLX ⟨2, true, true, 0x28, 0x29, 0x2A, 0, 2, 0, 0, none⟩)
    ∧ decodeList [0x05853981, 0x00300018] = .ok (.sadd (lx 20 22 24 0 3 0)) := by decide +kernel
/-- The chain of chapter 05 (after Table 5.2): the carry of the low words goes into the high ones. -/
theorem test_addCarry :
    after (.addLX { lx 12 4 6 0 2 0 with cc := true }) (regs [(4, 0xFFFFFFFF), (6, 1)] base) (fun t => t.regs.getD 12 1 = 0 && t.cc.getLsbD 0 && t.cc.getLsbD 1)
    ∧ after (.addx { lx 13 5 7 0 2 0 with cc := true }) (onThr (fun t => { t with cc := 3 }) (regs [(5, 1), (7, 2)] base)) (fun t => t.regs.getD 13 0 = 4 && t.cc = 0) := by
  decide +kernel
/-- Table 5.4. -/
theorem test_borderlineDivisions : ∀ p ∈ ([(1, 7, 0xFFFFFFFE, 0xFFFFFFFD, 1), (1, 0xFFFFFFF9, 2, 0xFFFFFFFD, 0xFFFFFFFF), (1, 0x80000000, 0xFFFFFFFF, 0x80000000, 0),
    (2, 5, 0, 0xFFFFFFFF, 5), (1, 0xFFFFFFFB, 0, 0xFFFFFFFF, 0xFFFFFFFB)] : List (Nat × Word × Word × Word × Word)),
      leaves (.div (lx 6 8 9 0 p.1 0)) (regs [(8, p.2.1), (9, p.2.2.1)] base) [p.2.2.2.1] 0 0
      ∧ leaves (.rem (lx 6 8 9 0 p.1 0)) (regs [(8, p.2.1), (9, p.2.2.1)] base) [p.2.2.2.2] 0 0 := by decide +kernel
/-- The examples of `clmul` and `bfx` in chapter 05. -/
theorem test_bits : gives (.clmul (lx 6 8 9 0 0 0)) 0x101 0xFFFFFFFF 0xFF 0 ∧ gives (.bfx (lx 6 8 9 0 1 0)) 0xF80 0x804 0xFFFFFFF8 0 := by decide +kernel
/-- Table 3.4. -/
theorem test_fadd :
    let add := fun (a b d : Word) (fp : BitVec 5) => gives (.faddLX (lx 6 8 9 0 7 0)) a b d fp
    add 0x7F800000 0xFF800000 0x7FC00000 1 ∧ add 0x7F800001 0x3F800000 0x7FC00000 1 ∧ add 0xFFC12345 0x3F800000 0x7FC00000 0 ∧ add 0x7F7FFFFF 0x7F7FFFFF 0x7F800000 0x14 ∧ add 0x3F800000 0xBF800000 0 0 := by
  decide +kernel
/-- Table 6.4. -/
theorem test_conversions : ∀ p ∈ ([(9, 7, 0, 0x3F808000, 0x3F80, 0x10), (9, 7, 2, 0x3F808000, 0x3F81, 0x10), (1, 7, 0, 0xC0200000, 0xFFFFFFFE, 0x10),
    (1, 7, 0, 0x4F32D05E, 0x7FFFFFFF, 1), (2, 1, 4, 0xFFFFFFFB, 0, 0), (2, 1, 0, 0xFFFFFFFB, 0xFFFFFFFB, 0)] : List (Nat × Nat × Nat × Word × Word × BitVec 5)),
      gives (.cvt (lx 6 8 0 p.2.1 p.1 p.2.2.1)) p.2.2.2.1 0 p.2.2.2.2.1 p.2.2.2.2.2 := by decide +kernel
/-- Table 3.7. -/
theorem test_quantisation :
    let quant := fun (m : Nat) (a d : Word) (fp : BitVec 5) => gives (.quant (lx 6 8 9 0 0 m)) a 0x2C00FD00 d fp
    quant 0 0x3F800000 0x0D 0 ∧ quant 4 0x3F800000 7 0x10 ∧ quant 0 0x3E200000 0xFFFFFFFF 0x10 ∧ quant 4 0x3E200000 0xFFFFFFFF 0x10 ∧ quant 0 0x41200000 0x7F 0x10 ∧ quant 4 0x41200000 7 0x10 := by decide +kernel
/-- The examples of the special functions in chapter 06, and of `sacce` into a zero accumulator. -/
theorem test_specialFunctions :
    leaves (.fexp2 (lx 6 8 0 0 7 0)) (regs [(8, 0x40400000)] base) [0x41000000] 0 0
    ∧ leaves (.flog2 (lx 6 8 0 0 7 0)) (regs [(8, 0x3F400000)] base) [0xBED47FCC] 0x10 0
    ∧ leaves (.sacce (lx 20 12 0 0 3 0)) base [0, 0x48000000] 0 0 := by decide +kernel
/-- Chapter 03: a K of 256 products of 0.5 makes 128.0. -/
theorem test_accumulator : (accFloat 2 fmtBf 0 (List.replicate 256 0x3F80) (List.replicate 256 0x3F00)).1 = 0x40C000000000 := by decide +kernel
/-- Chapter 09: the home of 0x1_2600. -/
theorem test_home : homeSlice 0x12600 = (2, 1) := by decide +kernel
/-- Table 11.9, and the waits after it. -/
theorem test_syncGeneration :
    let w1 := (SyncWord.apply { bt := 0x1000, bc := 0, tc := 0, tt := 2, gen := 0 } 0 3072 false).1
    let w2 := (w1.apply 0 0 true).1
    let w3 := (w2.apply 0 2048 false).1
    w3 = { bt := 0x1000, bc := 0x1400, tc := 1, tt := 2, gen := 0 } ∧ (w3.apply 0 0 true).1 = { bt := 0x1000, bc := 0x400, tc := 0, tt := 2, gen := 1 }
    ∧ passed 1 1 = true ∧ passed 1 0x80000002 = true ∧ passed 1 0x80000001 = false := by decide +kernel

/-! ## Decoding -/

/-- Words written out from the encoding tables, and the instructions they stand for: control. -/
theorem test_decode_control_1 : ∀ p ∈ ([
    ([0x00002C00], .nopS ⟨5, true, 0, 0, 0⟩),
    ([0x00002C01, 0x00000000], .nopL ⟨5, true, false, 0, 0, 0, 0, 0, 0, 0, none⟩),
    ([0x4115EC04], .braS ⟨5, true, 23, 17, 16⟩),
    ([0x00002C06, 0x00000000, 0x87654321], .braX ⟨5, true, false, 0, 0, 0, 0, 0, 0, 0, some 0x87654321⟩),
    ([0x01102C08], .jmpS ⟨5, true, 0, 17, 0⟩),
    ([0x25002C09, 0x00000000], .jmpL ⟨5, true, false, 0, 148, 0, 0, 0, 0, 0, none⟩),
    ([0x4115EC0C], .callS ⟨5, true, 23, 17, 16⟩),
    ([0x00002C0E, 0x00000000, 0x87654321], .callX ⟨5, true, false, 0, 0, 0, 0, 0, 0, 0, some 0x87654321⟩),
    ([0x01102C10], .calliS ⟨5, true, 0, 17, 0⟩),
    ([0x25002C11, 0x00000000], .calliL ⟨5, true, false, 0, 148, 0, 0, 0, 0, 0, none⟩),
    ([0x01102C14], .retS ⟨5, true, 0, 17, 0⟩),
    ([0x25002C15, 0x00000000], .retL ⟨5, true, false, 0, 148, 0, 0, 0, 0, 0, none⟩),
    ([0x4115EC18], .meetS ⟨5, true, 23, 17, 16⟩),
    ([0x00002C1A, 0x00000000, 0x87654321], .meetX ⟨5, true, false, 0, 0, 0, 0, 0, 0, 0, some 0x87654321⟩),
    ([0x01102C1C], .meetrS ⟨5, true, 0, 17, 0⟩),
    ([0x25002C1D, 0x00000000], .meetrL ⟨5, true, false, 0, 148, 0, 0, 0, 0, 0, none⟩),
    ([0x00002C20], .exitS ⟨5, true, 0, 0, 0⟩),
    ([0x00002C21, 0x00000000], .exitL ⟨5, true, false, 0, 0, 0, 0, 0, 0, 0, none⟩),
    ([0x40002C24], .trapS ⟨5, true, 0, 0, 16⟩),
    ([0x25002C25, 0x53000000], .trapL ⟨5, true, false, 0, 148, 0, 0, 0, 0, 83, none⟩),
    ([0x00002C26, 0x53000000, 0x87654321], .trapX ⟨5, true, false, 0, 0, 0, 0, 0, 0, 83, some 0x87654321⟩),
    ([0x40002C28], .brkS ⟨5, true, 0, 0, 16⟩),
    ([0x00002C29, 0x53000000], .brkL ⟨5, true, false, 0, 0, 0, 0, 0, 0, 83, none⟩),
    ([0x00002C2C], .yieldS ⟨5, true, 0, 0, 0⟩)] : List (List Word × Instr)), decodeList p.1 = .ok p.2 ∧ encode p.2 = p.1 := by decide +kernel

/-- Words written out from the encoding tables, and the instructions they stand for: control. -/
theorem test_decode_control_2 : ∀ p ∈ ([
    ([0x00002C2D, 0x00000000], .yieldL ⟨5, true, false, 0, 0, 0, 0, 0, 0, 0, none⟩)] : List (List Word × Instr)), decodeList p.1 = .ok p.2 ∧ encode p.2 = p.1 := by decide +kernel

/-- Words written out from the encoding tables, and the instructions they stand for: integer. -/
theorem test_decode_integer_1 : ∀ p ∈ ([
    ([0x4115EC40], .addS ⟨5, true, 23, 17, 16⟩),
    ([0x250F2C41, 0x00100048], .addLX ⟨5, true, false, 60, 148, 72, 0, 1, 0, 0, none⟩),
    ([0x250F2C42, 0x00100000, 0x87654321], .addLX ⟨5, true, false, 60, 148, 0, 0, 1, 0, 0, some 0x87654321⟩),
    ([0x4115EC44], .subS ⟨5, true, 23, 17, 16⟩),
    ([0x250F2C45, 0x00100048], .subLX ⟨5, true, false, 60, 148, 72, 0, 1, 0, 0, none⟩),
    ([0x250F2C46, 0x00100000, 0x87654321], .subLX ⟨5, true, false, 60, 148, 0, 0, 1, 0, 0, some 0x87654321⟩),
    ([0x250F2C49, 0x00100048], .addx ⟨5, true, false, 60, 148, 72, 0, 1, 0, 0, none⟩),
    ([0x250F2C4A, 0x00100000, 0x87654321], .addx ⟨5, true, false, 60, 148, 0, 0, 1, 0, 0, some 0x87654321⟩),
    ([0x250F2C4D, 0x00100048], .subx ⟨5, true, false, 60, 148, 72, 0, 1, 0, 0, none⟩),
    ([0x250F2C4E, 0x00100000, 0x87654321], .subx ⟨5, true, false, 60, 148, 0, 0, 1, 0, 0, some 0x87654321⟩),
    ([0x250F2C51, 0x00100048], .mul ⟨5, true, false, 60, 148, 72, 0, 1, 0, 0, none⟩),
    ([0x250F2C52, 0x00100000, 0x87654321], .mul ⟨5, true, false, 60, 148, 0, 0, 1, 0, 0, some 0x87654321⟩),
    ([0x250F2C55, 0x00100048], .mulh ⟨5, true, false, 60, 148, 72, 0, 1, 0, 0, none⟩),
    ([0x250F2C56, 0x00100000, 0x87654321], .mulh ⟨5, true, false, 60, 148, 0, 0, 1, 0, 0, some 0x87654321⟩),
    ([0x250F2C59, 0x00108448], .mad ⟨5, true, false, 60, 148, 72, 132, 1, 0, 0, none⟩),
    ([0x250F2C5A, 0x00108400, 0x87654321], .mad ⟨5, true, false, 60, 148, 0, 132, 1, 0, 0, some 0x87654321⟩),
    ([0x250F2C5D, 0x00108448], .madw ⟨5, true, false, 60, 148, 72, 132, 1, 0, 0, none⟩),
    ([0x250F2C5E, 0x00108400, 0x87654321], .madw ⟨5, true, false, 60, 148, 0, 132, 1, 0, 0, some 0x87654321⟩),
    ([0x250F2C61, 0x00190048], .div ⟨5, true, false, 60, 148, 72, 0, 1, 9, 0, none⟩),
    ([0x250F2C62, 0x00190000, 0x87654321], .div ⟨5, true, false, 60, 148, 0, 0, 1, 9, 0, some 0x87654321⟩),
    ([0x250F2C65, 0x00190048], .rem ⟨5, true, false, 60, 148, 72, 0, 1, 9, 0, none⟩),
    ([0x250F2C66, 0x00190000, 0x87654321], .rem ⟨5, true, false, 60, 148, 0, 0, 1, 9, 0, some 0x87654321⟩),
    ([0x250F2C69, 0x00100048], .min ⟨5, true, false, 60, 148, 72, 0, 1, 0, 0, none⟩),
    ([0x250F2C6A, 0x00100000, 0x87654321], .min ⟨5, true, false, 60, 148, 0, 0, 1, 0, 0, some 0x87654321⟩)] : List (List Word × Instr)), decodeList p.1 = .ok p.2 ∧ encode p.2 = p.1 := by decide +kernel

/-- Words written out from the encoding tables, and the instructions they stand for: integer. -/
theorem test_decode_integer_2 : ∀ p ∈ ([
    ([0x250F2C6D, 0x00100048], .max ⟨5, true, false, 60, 148, 72, 0, 1, 0, 0, none⟩),
    ([0x250F2C6E, 0x00100000, 0x87654321], .max ⟨5, true, false, 60, 148, 0, 0, 1, 0, 0, some 0x87654321⟩),
    ([0x250F2C71, 0x00100000], .abs ⟨5, true, false, 60, 148, 0, 0, 1, 0, 0, none⟩),
    ([0x000F2C72, 0x00100000, 0x87654321], .abs ⟨5, true, false, 60, 0, 0, 0, 1, 0, 0, some 0x87654321⟩),
    ([0x0115EC74], .negS ⟨5, true, 23, 17, 0⟩),
    ([0x250F2C75, 0x00100000], .negLX ⟨5, true, false, 60, 148, 0, 0, 1, 0, 0, none⟩),
    ([0x000F2C76, 0x00100000, 0x87654321], .negLX ⟨5, true, false, 60, 0, 0, 0, 1, 0, 0, some 0x87654321⟩),
    ([0x250F2C79, 0x00200300], .bitc ⟨5, true, false, 60, 148, 0, 3, 2, 0, 0, none⟩),
    ([0x000F2C7A, 0x00200300, 0x87654321], .bitc ⟨5, true, false, 60, 0, 0, 3, 2, 0, 0, some 0x87654321⟩),
    ([0x250F2C7D, 0x00108448], .clamp ⟨5, true, false, 60, 148, 72, 132, 1, 0, 0, none⟩),
    ([0x250F2C7E, 0x00108400, 0x87654321], .clamp ⟨5, true, false, 60, 148, 0, 132, 1, 0, 0, some 0x87654321⟩)] : List (List Word × Instr)), decodeList p.1 = .ok p.2 ∧ encode p.2 = p.1 := by decide +kernel

/-- Words written out from the encoding tables, and the instructions they stand for: logic. -/
theorem test_decode_logic_1 : ∀ p ∈ ([
    ([0x4115EC80], .andS ⟨5, true, 23, 17, 16⟩),
    ([0x250F2C81, 0x00100048], .andLX ⟨5, true, false, 60, 148, 72, 0, 1, 0, 0, none⟩),
    ([0x250F2C82, 0x00100000, 0x87654321], .andLX ⟨5, true, false, 60, 148, 0, 0, 1, 0, 0, some 0x87654321⟩),
    ([0x4115EC84], .orS ⟨5, true, 23, 17, 16⟩),
    ([0x250F2C85, 0x00100048], .orLX ⟨5, true, false, 60, 148, 72, 0, 1, 0, 0, none⟩),
    ([0x250F2C86, 0x00100000, 0x87654321], .orLX ⟨5, true, false, 60, 148, 0, 0, 1, 0, 0, some 0x87654321⟩),
    ([0x4115EC88], .xorS ⟨5, true, 23, 17, 16⟩),
    ([0x250F2C89, 0x00100048], .xorLX ⟨5, true, false, 60, 148, 72, 0, 1, 0, 0, none⟩),
    ([0x250F2C8A, 0x00100000, 0x87654321], .xorLX ⟨5, true, false, 60, 148, 0, 0, 1, 0, 0, some 0x87654321⟩),
    ([0x250F2C8D, 0x00100048], .andn ⟨5, true, false, 60, 148, 72, 0, 1, 0, 0, none⟩),
    ([0x250F2C8E, 0x00100000, 0x87654321], .andn ⟨5, true, false, 60, 148, 0, 0, 1, 0, 0, some 0x87654321⟩),
    ([0x250F2C91, 0x53108448], .bool3 ⟨5, true, false, 60, 148, 72, 132, 1, 0, 83, none⟩),
    ([0x250F2C92, 0x53108400, 0x87654321], .bool3 ⟨5, true, false, 60, 148, 0, 132, 1, 0, 83, some 0x87654321⟩),
    ([0x4115EC94], .shlS ⟨5, true, 23, 17, 16⟩),
    ([0x250F2C95, 0x00100048], .shlLX ⟨5, true, false, 60, 148, 72, 0, 1, 0, 0, none⟩),
    ([0x250F2C96, 0x00100000, 0x87654321], .shlLX ⟨5, true, false, 60, 148, 0, 0, 1, 0, 0, some 0x87654321⟩),
    ([0x4115EC98], .shrS ⟨5, true, 23, 17, 16⟩),
    ([0x250F2C99, 0x00100048], .shrLX ⟨5, true, false, 60, 148, 72, 0, 1, 0, 0, none⟩),
    ([0x250F2C9A, 0x00100000, 0x87654321], .shrLX ⟨5, true, false, 60, 148, 0, 0, 1, 0, 0, some 0x87654321⟩),
    ([0x4115EC9C], .sarS ⟨5, true, 23, 17, 16⟩),
    ([0x250F2C9D, 0x00100048], .sarLX ⟨5, true, false, 60, 148, 72, 0, 1, 0, 0, none⟩),
    ([0x250F2C9E, 0x00100000, 0x87654321], .sarLX ⟨5, true, false, 60, 148, 0, 0, 1, 0, 0, some 0x87654321⟩),
    ([0x250F2CA1, 0x00100048], .rotl ⟨5, true, false, 60, 148, 72, 0, 1, 0, 0, none⟩),
    ([0x250F2CA2, 0x00100000, 0x87654321], .rotl ⟨5, true, false, 60, 148, 0, 0, 1, 0, 0, some 0x87654321⟩)] : List (List Word × Instr)), decodeList p.1 = .ok p.2 ∧ encode p.2 = p.1 := by decide +kernel

/-- Words written out from the encoding tables, and the instructions they stand for: logic. -/
theorem test_decode_logic_2 : ∀ p ∈ ([
    ([0x250F2CA5, 0x00100048], .rotr ⟨5, true, false, 60, 148, 72, 0, 1, 0, 0, none⟩),
    ([0x250F2CA6, 0x00100000, 0x87654321], .rotr ⟨5, true, false, 60, 148, 0, 0, 1, 0, 0, some 0x87654321⟩),
    ([0x250F2CA9, 0x00008448], .fsh ⟨5, true, false, 60, 148, 72, 132, 0, 0, 0, none⟩),
    ([0x250F2CAA, 0x00008400, 0x87654321], .fsh ⟨5, true, false, 60, 148, 0, 132, 0, 0, 0, some 0x87654321⟩),
    ([0x250F2CAD, 0x00100048], .bfx ⟨5, true, false, 60, 148, 72, 0, 1, 0, 0, none⟩),
    ([0x250F2CAE, 0x00100000, 0x87654321], .bfx ⟨5, true, false, 60, 148, 0, 0, 1, 0, 0, some 0x87654321⟩),
    ([0x250F2CB1, 0x00008448], .bfi ⟨5, true, false, 60, 148, 72, 132, 0, 0, 0, none⟩),
    ([0x250F2CB2, 0x00008400, 0x87654321], .bfi ⟨5, true, false, 60, 148, 0, 132, 0, 0, 0, some 0x87654321⟩),
    ([0x250F2CB5, 0x01000048], .clmul ⟨5, true, false, 60, 148, 72, 0, 0, 0, 1, none⟩),
    ([0x250F2CB6, 0x01000000, 0x87654321], .clmul ⟨5, true, false, 60, 148, 0, 0, 0, 0, 1, some 0x87654321⟩),
    ([0x250F2CB9, 0x12100048], .lea ⟨5, true, false, 60, 148, 72, 0, 1, 0, 18, none⟩),
    ([0x250F2CBA, 0x12100000, 0x87654321], .lea ⟨5, true, false, 60, 148, 0, 0, 1, 0, 18, some 0x87654321⟩),
    ([0x0115ECBC], .movS ⟨5, true, 23, 17, 0⟩),
    ([0x250F2CBD, 0x00100000], .movLX ⟨5, true, false, 60, 148, 0, 0, 1, 0, 0, none⟩),
    ([0x000F2CBE, 0x00100000, 0x87654321], .movLX ⟨5, true, false, 60, 0, 0, 0, 1, 0, 0, some 0x87654321⟩)] : List (List Word × Instr)), decodeList p.1 = .ok p.2 ∧ encode p.2 = p.1 := by decide +kernel

/-- Words written out from the encoding tables, and the instructions they stand for: predicates. -/
theorem test_decode_predicates : ∀ p ∈ ([
    ([0x4115ECC0], .cmpS ⟨5, true, 23, 17, 16⟩),
    ([0x25012CC1, 0x00100048], .cmpLX ⟨5, true, false, 4, 148, 72, 0, 1, 0, 0, none⟩),
    ([0x25012CC2, 0x00100000, 0x87654321], .cmpLX ⟨5, true, false, 4, 148, 0, 0, 1, 0, 0, some 0x87654321⟩),
    ([0x25012CC5, 0x00600048], .fcmp ⟨5, true, false, 4, 148, 72, 0, 6, 0, 0, none⟩),
    ([0x25012CC6, 0x00600000, 0x87654321], .fcmp ⟨5, true, false, 4, 148, 0, 0, 6, 0, 0, some 0x87654321⟩),
    ([0x25012CE5, 0x00000048], .scmp ⟨5, true, false, 4, 148, 72, 0, 0, 0, 0, none⟩),
    ([0x25012CE6, 0x00000000, 0x87654321], .scmp ⟨5, true, false, 4, 148, 0, 0, 0, 0, 0, some 0x87654321⟩),
    ([0x00012CC9, 0x53000500], .qop ⟨5, true, false, 4, 0, 0, 5, 0, 0, 83, none⟩),
    ([0x000F2CCD, 0x00000000], .qget ⟨5, true, false, 60, 0, 0, 0, 0, 0, 0, none⟩),
    ([0x25002CD1, 0x53000000], .qset ⟨5, true, false, 0, 148, 0, 0, 0, 0, 83, none⟩),
    ([0x00002CD2, 0x53000000, 0x87654321], .qset ⟨5, true, false, 0, 0, 0, 0, 0, 0, 83, some 0x87654321⟩),
    ([0x4115ECD4], .selS ⟨5, true, 23, 17, 16⟩),
    ([0x250F2CD5, 0x00100548], .selLX ⟨5, true, false, 60, 148, 72, 5, 1, 0, 0, none⟩),
    ([0x250F2CD6, 0x00100500, 0x87654321], .selLX ⟨5, true, false, 60, 148, 0, 5, 1, 0, 0, some 0x87654321⟩),
    ([0x250F2CD9, 0x0D100048], .ccsel ⟨5, true, false, 60, 148, 72, 0, 1, 0, 13, none⟩),
    ([0x250F2CDA, 0x0D100000, 0x87654321], .ccsel ⟨5, true, false, 60, 148, 0, 0, 1, 0, 13, some 0x87654321⟩),
    ([0x000F2CDD, 0x0D000000], .ccget ⟨5, true, false, 60, 0, 0, 0, 0, 0, 13, none⟩),
    ([0x25002CE1, 0x0D000000], .ccput ⟨5, true, false, 0, 148, 0, 0, 0, 0, 13, none⟩),
    ([0x00002CE2, 0x0D000000, 0x87654321], .ccput ⟨5, true, false, 0, 0, 0, 0, 0, 0, 13, some 0x87654321⟩)] : List (List Word × Instr)), decodeList p.1 = .ok p.2 ∧ encode p.2 = p.1 := by decide +kernel

/-- Words written out from the encoding tables, and the instructions they stand for: float. -/
theorem test_decode_float_1 : ∀ p ∈ ([
    ([0x4115ED00], .faddS ⟨5, true, 23, 17, 16⟩),
    ([0x250F2D01, 0x03600048], .faddLX ⟨5, true, false, 60, 148, 72, 0, 6, 0, 3, none⟩),
    ([0x250F2D02, 0x03600000, 0x87654321], .faddLX ⟨5, true, false, 60, 148, 0, 0, 6, 0, 3, some 0x87654321⟩),
    ([0x4115ED04], .fsubS ⟨5, true, 23, 17, 16⟩),
    ([0x250F2D05, 0x03600048], .fsubLX ⟨5, true, false, 60, 148, 72, 0, 6, 0, 3, none⟩),
    ([0x250F2D06, 0x03600000, 0x87654321], .fsubLX ⟨5, true, false, 60, 148, 0, 0, 6, 0, 3, some 0x87654321⟩),
    ([0x4115ED08], .fmulS ⟨5, true, 23, 17, 16⟩),
    ([0x250F2D09, 0x03600048], .fmulLX ⟨5, true, false, 60, 148, 72, 0, 6, 0, 3, none⟩),
    ([0x250F2D0A, 0x03600000, 0x87654321], .fmulLX ⟨5, true, false, 60, 148, 0, 0, 6, 0, 3, some 0x87654321⟩),
    ([0x250F2D0D, 0x03608448], .ffma ⟨5, true, false, 60, 148, 72, 132, 6, 0, 3, none⟩),
    ([0x250F2D0E, 0x03608400, 0x87654321], .ffma ⟨5, true, false, 60, 148, 0, 132, 6, 0, 3, some 0x87654321⟩),
    ([0x250F2D11, 0x00600048], .fmin ⟨5, true, false, 60, 148, 72, 0, 6, 0, 0, none⟩),
    ([0x250F2D12, 0x00600000, 0x87654321], .fmin ⟨5, true, false, 60, 148, 0, 0, 6, 0, 0, some 0x87654321⟩),
    ([0x250F2D15, 0x00600048], .fmax ⟨5, true, false, 60, 148, 72, 0, 6, 0, 0, none⟩),
    ([0x250F2D16, 0x00600000, 0x87654321], .fmax ⟨5, true, false, 60, 148, 0, 0, 6, 0, 0, some 0x87654321⟩),
    ([0x250F2D19, 0x03690048], .fdiv ⟨5, true, false, 60, 148, 72, 0, 6, 9, 3, none⟩),
    ([0x250F2D1A, 0x03690000, 0x87654321], .fdiv ⟨5, true, false, 60, 148, 0, 0, 6, 9, 3, some 0x87654321⟩),
    ([0x250F2D1D, 0x03690000], .fsqrt ⟨5, true, false, 60, 148, 0, 0, 6, 9, 3, none⟩),
    ([0x000F2D1E, 0x03690000, 0x87654321], .fsqrt ⟨5, true, false, 60, 0, 0, 0, 6, 9, 3, some 0x87654321⟩),
    ([0x250F2D21, 0x03600000], .frcp ⟨5, true, false, 60, 148, 0, 0, 6, 0, 3, none⟩),
    ([0x000F2D22, 0x03600000, 0x87654321], .frcp ⟨5, true, false, 60, 0, 0, 0, 6, 0, 3, some 0x87654321⟩),
    ([0x250F2D25, 0x03600000], .frsq ⟨5, true, false, 60, 148, 0, 0, 6, 0, 3, none⟩),
    ([0x000F2D26, 0x03600000, 0x87654321], .frsq ⟨5, true, false, 60, 0, 0, 0, 6, 0, 3, some 0x87654321⟩),
    ([0x250F2D29, 0x00600000], .fclass ⟨5, true, false, 60, 148, 0, 0, 6, 0, 0, none⟩)] : List (List Word × Instr)), decodeList p.1 = .ok p.2 ∧ encode p.2 = p.1 := by decide +kernel

/-- Words written out from the encoding tables, and the instructions they stand for: float. -/
theorem test_decode_float_2 : ∀ p ∈ ([
    ([0x000F2D2A, 0x00600000, 0x87654321], .fclass ⟨5, true, false, 60, 0, 0, 0, 6, 0, 0, some 0x87654321⟩),
    ([0x250F2D2D, 0x05600000], .frnd ⟨5, true, false, 60, 148, 0, 0, 6, 0, 5, none⟩),
    ([0x000F2D2E, 0x05600000, 0x87654321], .frnd ⟨5, true, false, 60, 0, 0, 0, 6, 0, 5, some 0x87654321⟩),
    ([0x250F2D31, 0x03600048], .fscale ⟨5, true, false, 60, 148, 72, 0, 6, 0, 3, none⟩),
    ([0x250F2D32, 0x03600000, 0x87654321], .fscale ⟨5, true, false, 60, 148, 0, 0, 6, 0, 3, some 0x87654321⟩),
    ([0x250F2D35, 0x00600100], .fsplit ⟨5, true, false, 60, 148, 0, 1, 6, 0, 0, none⟩),
    ([0x000F2D36, 0x00600100, 0x87654321], .fsplit ⟨5, true, false, 60, 0, 0, 1, 6, 0, 0, some 0x87654321⟩),
    ([0x250F2D39, 0x03608448], .fdot2 ⟨5, true, false, 60, 148, 72, 132, 6, 0, 3, none⟩),
    ([0x250F2D3A, 0x03608400, 0x87654321], .fdot2 ⟨5, true, false, 60, 148, 0, 132, 6, 0, 3, some 0x87654321⟩),
    ([0x250F2D41, 0x00100200], .cvt ⟨5, true, false, 60, 148, 0, 2, 1, 0, 0, none⟩),
    ([0x000F2D42, 0x00100200, 0x87654321], .cvt ⟨5, true, false, 60, 0, 0, 2, 1, 0, 0, some 0x87654321⟩),
    ([0x250F2D45, 0x00000048], .quant ⟨5, true, false, 60, 148, 72, 0, 0, 0, 0, none⟩),
    ([0x250F2D46, 0x00000000, 0x87654321], .quant ⟨5, true, false, 60, 148, 0, 0, 0, 0, 0, some 0x87654321⟩),
    ([0x250F2D49, 0x00000048], .dequant ⟨5, true, false, 60, 148, 72, 0, 0, 0, 0, none⟩),
    ([0x250F2D4A, 0x00000000, 0x87654321], .dequant ⟨5, true, false, 60, 148, 0, 0, 0, 0, 0, some 0x87654321⟩),
    ([0x250F2D4D, 0x00000048], .pack ⟨5, true, false, 60, 148, 72, 0, 0, 0, 0, none⟩),
    ([0x250F2D4E, 0x00000000, 0x87654321], .pack ⟨5, true, false, 60, 148, 0, 0, 0, 0, 0, some 0x87654321⟩),
    ([0x250F2D51, 0x00000000], .unpack ⟨5, true, false, 60, 148, 0, 0, 0, 0, 0, none⟩),
    ([0x000F2D52, 0x00000000, 0x87654321], .unpack ⟨5, true, false, 60, 0, 0, 0, 0, 0, 0, some 0x87654321⟩),
    ([0x250F2D61, 0x03690000], .fexp2 ⟨5, true, false, 60, 148, 0, 0, 6, 9, 3, none⟩),
    ([0x000F2D62, 0x03690000, 0x87654321], .fexp2 ⟨5, true, false, 60, 0, 0, 0, 6, 9, 3, some 0x87654321⟩),
    ([0x250F2D65, 0x03690000], .flog2 ⟨5, true, false, 60, 148, 0, 0, 6, 9, 3, none⟩),
    ([0x000F2D66, 0x03690000, 0x87654321], .flog2 ⟨5, true, false, 60, 0, 0, 0, 6, 9, 3, some 0x87654321⟩),
    ([0x250F2D69, 0x03690000], .fsin ⟨5, true, false, 60, 148, 0, 0, 6, 9, 3, none⟩)] : List (List Word × Instr)), decodeList p.1 = .ok p.2 ∧ encode p.2 = p.1 := by decide +kernel

/-- Words written out from the encoding tables, and the instructions they stand for: float. -/
theorem test_decode_float_3 : ∀ p ∈ ([
    ([0x000F2D6A, 0x03690000, 0x87654321], .fsin ⟨5, true, false, 60, 0, 0, 0, 6, 9, 3, some 0x87654321⟩),
    ([0x250F2D6D, 0x03690000], .fcos ⟨5, true, false, 60, 148, 0, 0, 6, 9, 3, none⟩),
    ([0x000F2D6E, 0x03690000, 0x87654321], .fcos ⟨5, true, false, 60, 0, 0, 0, 6, 9, 3, some 0x87654321⟩),
    ([0x250F2D71, 0x03690000], .ftanh ⟨5, true, false, 60, 148, 0, 0, 6, 9, 3, none⟩),
    ([0x000F2D72, 0x03690000, 0x87654321], .ftanh ⟨5, true, false, 60, 0, 0, 0, 6, 9, 3, some 0x87654321⟩)] : List (List Word × Instr)), decodeList p.1 = .ok p.2 ∧ encode p.2 = p.1 := by decide +kernel

/-- Words written out from the encoding tables, and the instructions they stand for: sli. -/
theorem test_decode_sli : ∀ p ∈ ([
    ([0x250F2D81, 0x00090048], .sadd ⟨5, true, false, 60, 148, 72, 0, 0, 9, 0, none⟩),
    ([0x250F2D82, 0x00090000, 0x87654321], .sadd ⟨5, true, false, 60, 148, 0, 0, 0, 9, 0, some 0x87654321⟩),
    ([0x250F2D85, 0x00090048], .ssub ⟨5, true, false, 60, 148, 72, 0, 0, 9, 0, none⟩),
    ([0x250F2D86, 0x00090000, 0x87654321], .ssub ⟨5, true, false, 60, 148, 0, 0, 0, 9, 0, some 0x87654321⟩),
    ([0x250F2D89, 0x00090048], .smul ⟨5, true, false, 60, 148, 72, 0, 0, 9, 0, none⟩),
    ([0x250F2D8A, 0x00090000, 0x87654321], .smul ⟨5, true, false, 60, 148, 0, 0, 0, 9, 0, some 0x87654321⟩),
    ([0x250F2D8D, 0x00090048], .sdiv ⟨5, true, false, 60, 148, 72, 0, 0, 9, 0, none⟩),
    ([0x250F2D8E, 0x00090000, 0x87654321], .sdiv ⟨5, true, false, 60, 148, 0, 0, 0, 9, 0, some 0x87654321⟩),
    ([0x250F2D91, 0x00000000], .srcp ⟨5, true, false, 60, 148, 0, 0, 0, 0, 0, none⟩),
    ([0x000F2D92, 0x00000000, 0x87654321], .srcp ⟨5, true, false, 60, 0, 0, 0, 0, 0, 0, some 0x87654321⟩),
    ([0x250F2D95, 0x00090000], .slog ⟨5, true, false, 60, 148, 0, 0, 0, 9, 0, none⟩),
    ([0x000F2D96, 0x00090000, 0x87654321], .slog ⟨5, true, false, 60, 0, 0, 0, 0, 9, 0, some 0x87654321⟩),
    ([0x250F2D99, 0x00090000], .santi ⟨5, true, false, 60, 148, 0, 0, 0, 9, 0, none⟩),
    ([0x000F2D9A, 0x00090000, 0x87654321], .santi ⟨5, true, false, 60, 0, 0, 0, 0, 9, 0, some 0x87654321⟩),
    ([0x250F2D9D, 0x00090300], .sfrom ⟨5, true, false, 60, 148, 0, 3, 0, 9, 0, none⟩),
    ([0x000F2D9E, 0x00390000, 0x87654321], .sfrom ⟨5, true, false, 60, 0, 0, 0, 3, 9, 0, some 0x87654321⟩),
    ([0x250F2DA1, 0x03690300], .sto ⟨5, true, false, 60, 148, 0, 3, 6, 9, 3, none⟩),
    ([0x000F2DA2, 0x03690000, 0x87654321], .sto ⟨5, true, false, 60, 0, 0, 0, 6, 9, 3, some 0x87654321⟩),
    ([0x250F2DA5, 0x00390000], .sacce ⟨5, true, false, 60, 148, 0, 0, 3, 9, 0, none⟩),
    ([0x000F2DA6, 0x00390000, 0x87654321], .sacce ⟨5, true, false, 60, 0, 0, 0, 3, 9, 0, some 0x87654321⟩)] : List (List Word × Instr)), decodeList p.1 = .ok p.2 ∧ encode p.2 = p.1 := by decide +kernel

/-- Words written out from the encoding tables, and the instructions they stand for: memory. -/
theorem test_decode_memory : ∀ p ∈ ([
    ([0x4115EDC0], .ldS ⟨5, true, 23, 17, 16⟩),
    ([0x250F2DC1, 0x12190048], .ldLX ⟨5, true, false, 60, 148, 72, 0, 1, 9, 18, none⟩),
    ([0x250F2DC2, 0x12190000, 0x87654321], .ldLX ⟨5, true, false, 60, 148, 0, 0, 1, 9, 18, some 0x87654321⟩),
    ([0x4115EDC4], .stS ⟨5, true, 23, 17, 16⟩),
    ([0x250F2DC5, 0x12100048], .stLX ⟨5, true, false, 60, 148, 72, 0, 1, 0, 18, none⟩),
    ([0x250F2DC6, 0x12100000, 0x87654321], .stLX ⟨5, true, false, 60, 148, 0, 0, 1, 0, 18, some 0x87654321⟩),
    ([0x4115EDC8], .ldsS ⟨5, true, 23, 17, 16⟩),
    ([0x250F2DC9, 0x12190048], .ldsLX ⟨5, true, false, 60, 148, 72, 0, 1, 9, 18, none⟩),
    ([0x250F2DCA, 0x12190000, 0x87654321], .ldsLX ⟨5, true, false, 60, 148, 0, 0, 1, 9, 18, some 0x87654321⟩),
    ([0x4115EDCC], .stsS ⟨5, true, 23, 17, 16⟩),
    ([0x250F2DCD, 0x12100048], .stsLX ⟨5, true, false, 60, 148, 72, 0, 1, 0, 18, none⟩),
    ([0x250F2DCE, 0x12100000, 0x87654321], .stsLX ⟨5, true, false, 60, 148, 0, 0, 1, 0, 18, some 0x87654321⟩),
    ([0x250F2DD1, 0x01790148], .ldf ⟨5, true, false, 60, 148, 72, 1, 7, 9, 1, none⟩),
    ([0x250F2DD2, 0x01790100, 0x87654321], .ldf ⟨5, true, false, 60, 148, 0, 1, 7, 9, 1, some 0x87654321⟩),
    ([0x350F2DD5, 0x001900D8], .ldk ⟨5, true, false, 60, 212, 216, 0, 1, 9, 0, none⟩),
    ([0x350F2DD6, 0x00190000, 0x87654321], .ldk ⟨5, true, false, 60, 212, 0, 0, 1, 9, 0, some 0x87654321⟩),
    ([0x25002DD9, 0x00000148], .pfch ⟨5, true, false, 0, 148, 72, 1, 0, 0, 0, none⟩),
    ([0x25002DDA, 0x00000100, 0x87654321], .pfch ⟨5, true, false, 0, 148, 0, 1, 0, 0, 0, some 0x87654321⟩),
    ([0x00002DDD, 0x00000000], .cctlInv ⟨5, true, false, 0, 0, 0, 0, 0, 0, 0, none⟩),
    ([0x25002DDD, 0x00000100], .cctlInvl ⟨5, true, false, 0, 148, 0, 1, 0, 0, 0, none⟩)] : List (List Word × Instr)), decodeList p.1 = .ok p.2 ∧ encode p.2 = p.1 := by decide +kernel

/-- Words written out from the encoding tables, and the instructions they stand for: system. -/
theorem test_decode_system : ∀ p ∈ ([
    ([0x00002DE1, 0x01000000], .fence ⟨5, true, false, 0, 0, 0, 0, 0, 0, 1, none⟩)] : List (List Word × Instr)), decodeList p.1 = .ok p.2 ∧ encode p.2 = p.1 := by decide +kernel

/-- Words written out from the encoding tables, and the instructions they stand for: atomics_sync. -/
theorem test_decode_atomics_sync : ∀ p ∈ ([
    ([0x250F2E01, 0x31190548], .amo ⟨5, true, false, 60, 148, 72, 5, 1, 9, 49, none⟩),
    ([0x250F2E02, 0x31190500, 0x87654321], .amo ⟨5, true, false, 60, 148, 0, 5, 1, 9, 49, some 0x87654321⟩),
    ([0x250F2E05, 0x12190548], .amos ⟨5, true, false, 60, 148, 72, 5, 1, 9, 18, none⟩),
    ([0x250F2E06, 0x12190500, 0x87654321], .amos ⟨5, true, false, 60, 148, 0, 5, 1, 9, 18, some 0x87654321⟩),
    ([0x25002E09, 0x31008448], .sinit ⟨5, true, false, 0, 148, 72, 132, 0, 0, 49, none⟩),
    ([0x25002E0A, 0x31008400, 0x87654321], .sinit ⟨5, true, false, 0, 148, 0, 132, 0, 0, 49, some 0x87654321⟩),
    ([0x01102E0C], .sarriveS ⟨5, true, 0, 17, 0⟩),
    ([0x25002E0D, 0x03000048], .sarriveLX ⟨5, true, false, 0, 148, 72, 0, 0, 0, 3, none⟩),
    ([0x25002E0E, 0x03000000, 0x87654321], .sarriveLX ⟨5, true, false, 0, 148, 0, 0, 0, 0, 3, some 0x87654321⟩),
    ([0x41102E10], .swaitS ⟨5, true, 0, 17, 16⟩),
    ([0x25002E11, 0x01000048], .swaitLX ⟨5, true, false, 0, 148, 72, 0, 0, 0, 1, none⟩),
    ([0x25002E12, 0x01000000, 0x87654321], .swaitLX ⟨5, true, false, 0, 148, 0, 0, 0, 0, 1, some 0x87654321⟩),
    ([0x01102E14], .sbarS ⟨5, true, 0, 17, 0⟩),
    ([0x25002E15, 0x00000000], .sbarL ⟨5, true, false, 0, 148, 0, 0, 0, 0, 0, none⟩),
    ([0x250F2E19, 0x01090048], .spoll ⟨5, true, false, 60, 148, 72, 0, 0, 9, 1, none⟩),
    ([0x250F2E1A, 0x01090000, 0x87654321], .spoll ⟨5, true, false, 60, 148, 0, 0, 0, 9, 1, some 0x87654321⟩)] : List (List Word × Instr)), decodeList p.1 = .ok p.2 ∧ encode p.2 = p.1 := by decide +kernel

/-- Words written out from the encoding tables, and the instructions they stand for: cross_lane. -/
theorem test_decode_cross_lane : ∀ p ∈ ([
    ([0x250F2E41, 0x03008448], .xperm ⟨5, true, false, 60, 148, 72, 132, 0, 0, 3, none⟩),
    ([0x250F2E42, 0x03008400, 0x87654321], .xperm ⟨5, true, false, 60, 148, 0, 132, 0, 0, 3, some 0x87654321⟩),
    ([0x250F2E45, 0x31000048], .xbcast ⟨5, true, false, 60, 148, 72, 0, 0, 0, 49, none⟩),
    ([0x250F2E46, 0x31000000, 0x87654321], .xbcast ⟨5, true, false, 60, 148, 0, 0, 0, 0, 49, some 0x87654321⟩),
    ([0x000F2E49, 0x03000548], .xvote ⟨5, true, false, 60, 0, 72, 5, 0, 0, 3, none⟩),
    ([0x000F2E4A, 0x03000500, 0x87654321], .xvote ⟨5, true, false, 60, 0, 0, 5, 0, 0, 3, some 0x87654321⟩),
    ([0x250F2E4D, 0x05100048], .xred ⟨5, true, false, 60, 148, 72, 0, 1, 0, 5, none⟩),
    ([0x250F2E4E, 0x05100000, 0x87654321], .xred ⟨5, true, false, 60, 148, 0, 0, 1, 0, 5, some 0x87654321⟩),
    ([0x250F2E51, 0x0D100048], .xscan ⟨5, true, false, 60, 148, 72, 0, 1, 0, 13, none⟩),
    ([0x250F2E52, 0x0D100000, 0x87654321], .xscan ⟨5, true, false, 60, 148, 0, 0, 1, 0, 13, some 0x87654321⟩),
    ([0x250F2E55, 0x00000048], .xmatch ⟨5, true, false, 60, 148, 72, 0, 0, 0, 0, none⟩),
    ([0x250F2E56, 0x00000000, 0x87654321], .xmatch ⟨5, true, false, 60, 148, 0, 0, 0, 0, 0, some 0x87654321⟩),
    ([0x00012E59, 0x00000048], .xelect ⟨5, true, false, 4, 0, 72, 0, 0, 0, 0, none⟩),
    ([0x00012E5A, 0x00000000, 0x87654321], .xelect ⟨5, true, false, 4, 0, 0, 0, 0, 0, 0, some 0x87654321⟩)] : List (List Word × Instr)), decodeList p.1 = .ok p.2 ∧ encode p.2 = p.1 := by decide +kernel

/-- Words written out from the encoding tables, and the instructions they stand for: matrix_engine. -/
theorem test_decode_matrix_engine : ∀ p ∈ ([
    ([0x250F2E81, 0x00000000], .acca ⟨5, true, false, 60, 148, 0, 0, 0, 0, 0, none⟩),
    ([0x000F2E82, 0x00000000, 0x87654321], .acca ⟨5, true, false, 60, 0, 0, 0, 0, 0, 0, some 0x87654321⟩),
    ([0x25002E85, 0x00000000], .accf ⟨5, true, false, 0, 148, 0, 0, 0, 0, 0, none⟩),
    ([0x00002E86, 0x00000000, 0x87654321], .accf ⟨5, true, false, 0, 0, 0, 0, 0, 0, 0, some 0x87654321⟩),
    ([0x250F2E89, 0x31008448], .mload ⟨5, true, false, 60, 148, 72, 132, 0, 0, 49, none⟩),
    ([0x250F2E8D, 0x53008448], .rowld ⟨5, true, false, 60, 148, 72, 132, 0, 0, 83, none⟩),
    ([0x00002E91, 0x10008400], .hada ⟨5, true, false, 0, 0, 0, 132, 0, 0, 16, none⟩),
    ([0x25002E95, 0x53008400], .mmac ⟨5, true, false, 0, 148, 0, 132, 0, 0, 83, none⟩),
    ([0x00002E96, 0x00000000, 0x87654321], .mmac ⟨5, true, false, 0, 0, 0, 0, 0, 0, 0, some 0x87654321⟩),
    ([0x25002E99, 0x00000000], .aswap ⟨5, true, false, 0, 148, 0, 0, 0, 0, 0, none⟩),
    ([0x00002E9A, 0x00000000, 0x87654321], .aswap ⟨5, true, false, 0, 0, 0, 0, 0, 0, 0, some 0x87654321⟩),
    ([0x25002EA5, 0x01000000], .accz ⟨5, true, false, 0, 148, 0, 0, 0, 0, 1, none⟩),
    ([0x00002EA6, 0x01000000, 0x87654321], .accz ⟨5, true, false, 0, 0, 0, 0, 0, 0, 1, some 0x87654321⟩),
    ([0x250F2E9D, 0x00190048], .accrd ⟨5, true, false, 60, 148, 72, 0, 1, 9, 0, none⟩),
    ([0x250F2EA1, 0x01108448], .accst ⟨5, true, false, 60, 148, 72, 132, 1, 0, 1, none⟩)] : List (List Word × Instr)), decodeList p.1 = .ok p.2 ∧ encode p.2 = p.1 := by decide +kernel

/-- Words written out from the encoding tables, and the instructions they stand for: copies_fabric. -/
theorem test_decode_copies_fabric : ∀ p ∈ ([
    ([0x250F2EC1, 0x00008400], .xcopy ⟨5, true, false, 60, 148, 0, 132, 0, 0, 0, none⟩),
    ([0x250F2EC2, 0x00008400, 0x87654321], .xcopy ⟨5, true, false, 60, 148, 0, 132, 0, 0, 0, some 0x87654321⟩),
    ([0x250F2EC5, 0x00008400], .xgath ⟨5, true, false, 60, 148, 0, 132, 0, 0, 0, none⟩),
    ([0x250F2EC9, 0x00000000], .fork ⟨5, true, false, 60, 148, 0, 0, 0, 0, 0, none⟩),
    ([0x000F2ECA, 0x00000000, 0x87654321], .fork ⟨5, true, false, 60, 0, 0, 0, 0, 0, 0, some 0x87654321⟩),
    ([0x250F2ECD, 0x00000000], .rdv ⟨5, true, false, 60, 148, 0, 0, 0, 0, 0, none⟩),
    ([0x00002ED1, 0x0D000500], .gres ⟨5, true, false, 0, 0, 0, 5, 0, 0, 13, none⟩),
    ([0x00002EE1, 0x01008400], .xfer ⟨5, true, false, 0, 0, 0, 132, 0, 0, 1, none⟩),
    ([0x000F2EE6, 0x53008400, 0x87654321], .fbegin ⟨5, true, false, 60, 0, 0, 132, 0, 0, 83, some 0x87654321⟩),
    ([0x00002EE9, 0x00000000], .fcommit ⟨5, true, false, 0, 0, 0, 0, 0, 0, 0, none⟩),
    ([0x250F2EED, 0x00008400], .fred ⟨5, true, false, 60, 148, 0, 132, 0, 0, 0, none⟩)] : List (List Word × Instr)), decodeList p.1 = .ok p.2 ∧ encode p.2 = p.1 := by decide +kernel

/-- Words written out from the encoding tables, and the instructions they stand for: content. -/
theorem test_decode_content : ∀ p ∈ ([
    ([0x250F2F01, 0x31090000], .cloa ⟨5, true, false, 60, 148, 0, 0, 0, 9, 49, none⟩),
    ([0x250F2F05, 0x00190048], .cld ⟨5, true, false, 60, 148, 72, 0, 1, 9, 0, none⟩),
    ([0x250F2F06, 0x00190000, 0x87654321], .cld ⟨5, true, false, 60, 148, 0, 0, 1, 9, 0, some 0x87654321⟩),
    ([0x250F2F09, 0x00000000], .cref ⟨5, true, false, 60, 148, 0, 0, 0, 0, 0, none⟩),
    ([0x250F2F0D, 0x00000000], .cunref ⟨5, true, false, 60, 148, 0, 0, 0, 0, 0, none⟩),
    ([0x250F2F11, 0x12408448], .cswap ⟨5, true, false, 60, 148, 72, 132, 4, 0, 18, none⟩),
    ([0x250F2F15, 0x00008448], .ccopy ⟨5, true, false, 60, 148, 72, 132, 0, 0, 0, none⟩),
    ([0x250F2F19, 0x01090000], .lhash ⟨5, true, false, 60, 148, 0, 0, 0, 9, 1, none⟩),
    ([0x250F2F1D, 0x05000048], .hblk ⟨5, true, false, 60, 148, 72, 0, 0, 0, 5, none⟩),
    ([0x250F2F21, 0x0D000048], .pflook ⟨5, true, false, 60, 148, 72, 0, 0, 0, 13, none⟩),
    ([0x250F2F25, 0x0D000048], .pfins ⟨5, true, false, 60, 148, 72, 0, 0, 0, 13, none⟩),
    ([0x250F2F29, 0x0D000048], .pfpin ⟨5, true, false, 60, 148, 72, 0, 0, 0, 13, none⟩),
    ([0x250F2F2D, 0x0D000048], .pfunpin ⟨5, true, false, 60, 148, 72, 0, 0, 0, 13, none⟩)] : List (List Word × Instr)), decodeList p.1 = .ok p.2 ∧ encode p.2 = p.1 := by decide +kernel

/-- Words written out from the encoding tables, and the instructions they stand for: sequences. -/
theorem test_decode_sequences : ∀ p ∈ ([
    ([0x250F2F41, 0x00000048], .stepbeg ⟨5, true, false, 60, 148, 72, 0, 0, 0, 0, none⟩),
    ([0x250F2F42, 0x00000000, 0x87654321], .stepbeg ⟨5, true, false, 60, 148, 0, 0, 0, 0, 0, some 0x87654321⟩),
    ([0x250F2F45, 0x00000000], .stepend ⟨5, true, false, 60, 148, 0, 0, 0, 0, 0, none⟩),
    ([0x250F2F49, 0x01000048], .gview ⟨5, true, false, 60, 148, 72, 0, 0, 0, 1, none⟩),
    ([0x250F2F4A, 0x01000000, 0x87654321], .gview ⟨5, true, false, 60, 148, 0, 0, 0, 0, 1, some 0x87654321⟩),
    ([0x250F2F4D, 0x00000048], .gsetw ⟨5, true, false, 60, 148, 72, 0, 0, 0, 0, none⟩),
    ([0x250F2F4E, 0x00000000, 0x87654321], .gsetw ⟨5, true, false, 60, 148, 0, 0, 0, 0, 0, some 0x87654321⟩),
    ([0x250F2F51, 0x00198448], .kvld ⟨5, true, false, 60, 148, 72, 132, 1, 9, 0, none⟩),
    ([0x250F2F55, 0x00108448], .kvst ⟨5, true, false, 60, 148, 72, 132, 1, 0, 0, none⟩),
    ([0x250F2F59, 0x01008448], .kvcommit ⟨5, true, false, 60, 148, 72, 132, 0, 0, 1, none⟩),
    ([0x250F2F5D, 0x00000000], .kvreject ⟨5, true, false, 60, 148, 0, 0, 0, 0, 0, none⟩),
    ([0x250F2F61, 0x01000048], .kvfork ⟨5, true, false, 60, 148, 72, 0, 0, 0, 1, none⟩),
    ([0x250F2F65, 0x00090000], .kvinfoLen ⟨5, true, false, 60, 148, 0, 0, 0, 9, 0, none⟩),
    ([0x250F2F65, 0x00090148], .kvinfoBlk ⟨5, true, false, 60, 148, 72, 1, 0, 9, 0, none⟩),
    ([0x250F2F65, 0x00090248], .kvinfoHash ⟨5, true, false, 60, 148, 72, 2, 0, 9, 0, none⟩),
    ([0x250F2F65, 0x00090348], .kvinfoTok ⟨5, true, false, 60, 148, 72, 3, 0, 9, 0, none⟩),
    ([0x250F2F65, 0x00090400], .kvinfoThr ⟨5, true, false, 60, 148, 0, 4, 0, 9, 0, none⟩),
    ([0x250F2F65, 0x00090548], .kvinfoMint ⟨5, true, false, 60, 148, 72, 5, 0, 9, 0, none⟩),
    ([0x250F2F65, 0x00090600], .kvinfoRevoke ⟨5, true, false, 60, 148, 0, 6, 0, 9, 0, none⟩),
    ([0x250F2F69, 0x12008448], .solicit ⟨5, true, false, 60, 148, 72, 132, 0, 0, 18, none⟩),
    ([0x250F2F6D, 0x00000000], .dirput ⟨5, true, false, 60, 148, 0, 0, 0, 0, 0, none⟩),
    ([0x250F2F71, 0x00008448], .dirdel ⟨5, true, false, 60, 148, 72, 132, 0, 0, 0, none⟩),
    ([0x25002F75, 0x00000000], .reply ⟨5, true, false, 0, 148, 0, 0, 0, 0, 0, none⟩)] : List (List Word × Instr)), decodeList p.1 = .ok p.2 ∧ encode p.2 = p.1 := by decide +kernel

/-- Words written out from the encoding tables, and the instructions they stand for: rest. -/
theorem test_decode_rest : ∀ p ∈ ([
    ([0x000F2F81, 0x12000000], .rdsr ⟨5, true, false, 60, 0, 0, 0, 0, 0, 18, none⟩),
    ([0x00002F85, 0x12000048], .wrsr ⟨5, true, false, 0, 0, 72, 0, 0, 0, 18, none⟩),
    ([0x00002F86, 0x12000000, 0x87654321], .wrsr ⟨5, true, false, 0, 0, 0, 0, 0, 0, 18, some 0x87654321⟩),
    ([0x00362F89, 0x00000048], .kset ⟨5, true, false, 216, 0, 72, 0, 0, 0, 0, none⟩),
    ([0x00362F8A, 0x00000000, 0x87654321], .kset ⟨5, true, false, 216, 0, 0, 0, 0, 0, 0, some 0x87654321⟩),
    ([0x250F2F8D, 0x00000048], .launch ⟨5, true, false, 60, 148, 72, 0, 0, 0, 0, none⟩),
    ([0x250F2F8E, 0x00000000, 0x87654321], .launch ⟨5, true, false, 60, 148, 0, 0, 0, 0, 0, some 0x87654321⟩),
    ([0x00002F91, 0x00000048], .reggive ⟨5, true, false, 0, 0, 72, 0, 0, 0, 0, none⟩),
    ([0x00002F92, 0x00000000, 0x87654321], .reggive ⟨5, true, false, 0, 0, 0, 0, 0, 0, 0, some 0x87654321⟩),
    ([0x00002F95, 0x00000048], .regclaim ⟨5, true, false, 0, 0, 72, 0, 0, 0, 0, none⟩),
    ([0x00002F96, 0x00000000, 0x87654321], .regclaim ⟨5, true, false, 0, 0, 0, 0, 0, 0, 0, some 0x87654321⟩),
    ([0x250F2F99, 0x00000000], .tkclaim ⟨5, true, false, 60, 148, 0, 0, 0, 0, 0, none⟩),
    ([0x250F2F9D, 0x53000048], .mbind ⟨5, true, false, 60, 148, 72, 0, 0, 0, 83, none⟩),
    ([0x25002FA1, 0x12000048], .tlbinv ⟨5, true, false, 0, 148, 72, 0, 0, 0, 18, none⟩),
    ([0x25002FA2, 0x12000000, 0x87654321], .tlbinv ⟨5, true, false, 0, 148, 0, 0, 0, 0, 18, some 0x87654321⟩)] : List (List Word × Instr)), decodeList p.1 = .ok p.2 ∧ encode p.2 = p.1 := by decide +kernel

/-! ## Hypotheses that are met -/

/-- States and operands that meet the hypotheses of `Obligations.IntegerArithmetic`, clause by clause. -/
theorem witness_IntegerArithmetic :
    (∀ ws ∈ ([
      [0x250F3871, 0x00100000], [0x000F3872, 0x00100000, 0x87654321], [0x250F3841, 0x00100048], [0x250F3842, 0x00100000, 0x87654321], [0x4115F840],
      [0x250F3849, 0x00100048], [0x250F384A, 0x00100000, 0x87654321], [0x250F3879, 0x00200300], [0x000F387A, 0x00200300, 0x87654321], [0x250F387D, 0x00108448],
      [0x250F387E, 0x00108400, 0x87654321], [0x250F3861, 0x00190048], [0x250F3862, 0x00190000, 0x87654321], [0x250F3859, 0x00108448],
      [0x250F385A, 0x00108400, 0x87654321], [0x250F385D, 0x00108448], [0x250F385E, 0x00108400, 0x87654321], [0x250F386D, 0x00100048],
      [0x250F386E, 0x00100000, 0x87654321], [0x250F3869, 0x00100048], [0x250F386A, 0x00100000, 0x87654321], [0x250F3851, 0x00100048],
      [0x250F3852, 0x00100000, 0x87654321], [0x250F3855, 0x00100048], [0x250F3856, 0x00100000, 0x87654321], [0x250F3875, 0x00100000],
      [0x000F3876, 0x00100000, 0x87654321], [0x0115F874], [0x250F3865, 0x00190048], [0x250F3866, 0x00190000, 0x87654321], [0x250F398D, 0x00090048],
      [0x250F398E, 0x00090000, 0x87654321], [0x250F3845, 0x00100048], [0x250F3846, 0x00100000, 0x87654321], [0x4115F844], [0x250F384D, 0x00100048],
      [0x250F384E, 0x00100000, 0x87654321]] : List (List Word)), wordsFit base ws) := by decide +kernel

/-- States and operands that meet the hypotheses of `Obligations.LogicMovesAndShifts`, clause by clause. -/
theorem witness_LogicMovesAndShifts :
    (∀ ws ∈ ([
      [0x250F3881, 0x00100048], [0x250F3882, 0x00100000, 0x87654321], [0x4115F880], [0x250F388D, 0x00100048], [0x250F388E, 0x00100000, 0x87654321],
      [0x250F3891, 0x53108448], [0x250F3892, 0x53108400, 0x87654321], [0x250F38BD, 0x00100000], [0x000F38BE, 0x00100000, 0x87654321], [0x0115F8BC],
      [0x250F3885, 0x00100048], [0x250F3886, 0x00100000, 0x87654321], [0x4115F884], [0x250F38A1, 0x00100048], [0x250F38A2, 0x00100000, 0x87654321],
      [0x250F38A5, 0x00100048], [0x250F38A6, 0x00100000, 0x87654321], [0x250F389D, 0x00100048], [0x250F389E, 0x00100000, 0x87654321], [0x4115F89C],
      [0x250F3895, 0x00100048], [0x250F3896, 0x00100000, 0x87654321], [0x4115F894], [0x250F3899, 0x00100048], [0x250F389A, 0x00100000, 0x87654321],
      [0x4115F898], [0x250F3889, 0x00100048], [0x250F388A, 0x00100000, 0x87654321], [0x4115F888]] : List (List Word)), wordsFit base ws) := by decide +kernel

/-- States and operands that meet the hypotheses of `Obligations.FieldsAndAddresses`, clause by clause. -/
theorem witness_FieldsAndAddresses :
    (∀ ws ∈ ([
      [0x250F38B1, 0x00008448], [0x250F38B2, 0x00008400, 0x87654321], [0x250F38AD, 0x00100048], [0x250F38AE, 0x00100000, 0x87654321], [0x250F38B5, 0x01000048],
      [0x250F38B6, 0x01000000, 0x87654321], [0x250F38A9, 0x00008448], [0x250F38AA, 0x00008400, 0x87654321], [0x250F38B9, 0x12100048],
      [0x250F38BA, 0x12100000, 0x87654321]] : List (List Word)), wordsFit base ws) := by decide +kernel

/-- States and operands that meet the hypotheses of `Obligations.Compares`, clause by clause. -/
theorem witness_Compares :
    (∀ ws ∈ ([
      [0x250138C1, 0x00100048], [0x250138C2, 0x00100000, 0x87654321], [0x4115F8C0], [0x250138C5, 0x00600048], [0x250138C6, 0x00600000, 0x87654321],
      [0x250138E5, 0x00000048], [0x250138E6, 0x00000000, 0x87654321]] : List (List Word)), wordsFit base ws) := by decide +kernel

/-- States and operands that meet the hypotheses of `Obligations.PredicatesAndSelects`, clause by clause. -/
theorem witness_PredicatesAndSelects :
    (∀ ws ∈ ([
      [0x000F38DD, 0x0D000000], [0x250038E1, 0x0D000000], [0x000038E2, 0x0D000000, 0x87654321], [0x250F38D9, 0x0D100048], [0x250F38DA, 0x0D100000, 0x87654321],
      [0x000F38CD, 0x00000000], [0x000138C9, 0x53000500], [0x250038D1, 0x53000000], [0x000038D2, 0x53000000, 0x87654321], [0x250F38D5, 0x00100548],
      [0x250F38D6, 0x00100500, 0x87654321], [0x4115F8D4]] : List (List Word)), wordsFit base ws) := by decide +kernel

/-- States and operands that meet the hypotheses of `Obligations.FloatArithmetic`, clause by clause. -/
theorem witness_FloatArithmetic :
    (∀ ws ∈ ([
      [0x250F3861, 0x00190048], [0x250F3862, 0x00190000, 0x87654321], [0x250F3901, 0x03600048], [0x250F3902, 0x03600000, 0x87654321], [0x4115F900],
      [0x250F3929, 0x00600000], [0x000F392A, 0x00600000, 0x87654321], [0x250F396D, 0x03690000], [0x000F396E, 0x03690000, 0x87654321], [0x250F3919, 0x03690048],
      [0x250F391A, 0x03690000, 0x87654321], [0x250F3939, 0x03608448], [0x250F393A, 0x03608400, 0x87654321], [0x250F3961, 0x03690000],
      [0x000F3962, 0x03690000, 0x87654321], [0x250F390D, 0x03608448], [0x250F390E, 0x03608400, 0x87654321], [0x250F3965, 0x03690000],
      [0x000F3966, 0x03690000, 0x87654321], [0x250F3915, 0x00600048], [0x250F3916, 0x00600000, 0x87654321], [0x250F3911, 0x00600048],
      [0x250F3912, 0x00600000, 0x87654321], [0x250F3909, 0x03600048], [0x250F390A, 0x03600000, 0x87654321], [0x4115F908], [0x250F3921, 0x03600000],
      [0x000F3922, 0x03600000, 0x87654321], [0x250F392D, 0x05600000], [0x000F392E, 0x05600000, 0x87654321], [0x250F3925, 0x03600000],
      [0x000F3926, 0x03600000, 0x87654321], [0x250F3931, 0x03600048], [0x250F3932, 0x03600000, 0x87654321], [0x250F3969, 0x03690000],
      [0x000F396A, 0x03690000, 0x87654321], [0x250F3935, 0x00600100], [0x000F3936, 0x00600100, 0x87654321], [0x250F391D, 0x03690000],
      [0x000F391E, 0x03690000, 0x87654321], [0x250F3905, 0x03600048], [0x250F3906, 0x03600000, 0x87654321], [0x4115F904], [0x250F3971, 0x03690000],
      [0x000F3972, 0x03690000, 0x87654321], [0x250F3851, 0x00100048], [0x250F3852, 0x00100000, 0x87654321]] : List (List Word)), wordsFit base ws) := by decide +kernel

/-- States and operands that meet the hypotheses of `Obligations.ConversionsAndSli`, clause by clause. -/
theorem witness_ConversionsAndSli :
    (∀ ws ∈ ([
      [0x250F3941, 0x00100200], [0x000F3942, 0x00100200, 0x87654321], [0x250F3949, 0x00000048], [0x250F394A, 0x00000000, 0x87654321], [0x250F394D, 0x00000048],
      [0x250F394E, 0x00000000, 0x87654321], [0x250F3945, 0x00000048], [0x250F3946, 0x00000000, 0x87654321], [0x250F39A5, 0x00390000],
      [0x000F39A6, 0x00390000, 0x87654321], [0x250F3981, 0x00090048], [0x250F3982, 0x00090000, 0x87654321], [0x250F3999, 0x00090000],
      [0x000F399A, 0x00090000, 0x87654321], [0x250F398D, 0x00090048], [0x250F398E, 0x00090000, 0x87654321], [0x250F399D, 0x00090300],
      [0x000F399E, 0x00390000, 0x87654321], [0x250F3995, 0x00090000], [0x000F3996, 0x00090000, 0x87654321], [0x250F3989, 0x00090048],
      [0x250F398A, 0x00090000, 0x87654321], [0x250F3991, 0x00000000], [0x000F3992, 0x00000000, 0x87654321], [0x250F3985, 0x00090048],
      [0x250F3986, 0x00090000, 0x87654321], [0x250F39A1, 0x03690300], [0x000F39A2, 0x03690000, 0x87654321], [0x250F3951, 0x00000000],
      [0x000F3952, 0x00000000, 0x87654321]] : List (List Word)), wordsFit base ws) := by decide +kernel

/-- States and operands that meet the hypotheses of `Obligations.ControlTransfers`, clause by clause. -/
theorem witness_ControlTransfers :
    (∀ ws ∈ ([
      [0x4115F804], [0x00003806, 0x00000000, 0x00000040], [0x4115F80C], [0x0000380E, 0x00000000, 0x00000040], [0x25003811, 0x00000000], [0x01103810],
      [0x25003809, 0x00000000], [0x01103808], [0x4115F818], [0x0000381A, 0x00000000, 0x00000040], [0x2500381D, 0x00000000], [0x0110381C],
      [0x00003801, 0x00000000], [0x00003800], [0x25003815, 0x00000000], [0x01103814]] : List (List Word)), wordsFit base ws)
    ∧ (fits (.jmpS (sf 0 17 0)) base (fun e b => b.read32 (code e e.a) &&& 3 = 0))
    ∧ (fits (.jmpL (lx 0 191 0 0 0 0)) base (fun e b => b.read32 (code e e.a) &&& 3 = 0))
    ∧ (fits (.calliS (sf 0 17 0)) base (fun e b => (b.read32 (code e e.a) &&& 3 = 0) && inWindow base.thr.pc (base.thr.pc.toNat + len e)))
    ∧ (fits (.calliL (lx 0 191 0 0 0 0)) base (fun e b => (b.read32 (code e e.a) &&& 3 = 0) && inWindow base.thr.pc (base.thr.pc.toNat + len e)))
    ∧ (fits (.retS (sf 0 17 0)) (regs [(6, 4)] base) (fun e b => (b.read32 (code e e.a) &&& 3 = 0) && b.read32 (code e e.a) ≠ 0))
    ∧ (fits (.retL (lx 0 191 0 0 0 0)) (regs [(191, 0xFFFFFFFC)] base) (fun e b => (b.read32 (code e e.a) &&& 3 = 0) && b.read32 (code e e.a) ≠ 0))
    ∧ (fits (.meetrS (sf 0 17 0)) base (fun e b => b.read32 (code e e.a) &&& 3 = 0))
    ∧ (fits (.meetrL (lx 0 255 0 0 0 0)) base (fun e _ => e.a = 0xFF)) := by decide +kernel

/-- States and operands that meet the hypotheses of `Obligations.EndsAndYield`, clause by clause. -/
theorem witness_EndsAndYield :
    (∀ ws ∈ ([
      [0x00003821, 0x00000000], [0x00003820], [0x25003815, 0x00000000], [0x01103814], [0x0000382D, 0x00000000], [0x0000382C]] : List (List Word)), wordsFit base ws)
    ∧ (fits (.retS (sf 0 17 0)) base (fun e b => b.read32 (code e e.a) = 0))
    ∧ (fits (.retL (lx 0 255 0 0 0 0)) base (fun e b => b.read32 e.a = 0))
    ∧ (base.thr.key.gid = base.grp.gid ∧ ∀ u ∈ base.threads, u.key.gid = base.grp.gid → u.status = .exited)
    ∧ (let s := pending base
       s.thr.status = .ready ∧ s.illegalHere ((sf 0 0 0).enc 0x0B) = none ∧ s.thr.jobTrap = none ∧ s.thr.guard 7 false = true ∧ Quiet s ∧ s.thr.pend ≠ [])
    ∧ (at1 (waits (.yield [4] 0) base) (fun s => s.running && s.thr.status = .waiting (.yield [4] 0) && decide (0 ≤ s.dev.clk)))
    ∧ (at1 (waits (.yield [] 64) base) (fun s => s.running && s.thr.status = .waiting (.yield [] 64)))
    ∧ (fits (.yieldS (sf 0 0 0)) base (fun _ b => b.thr.region.isNone))
    ∧ (fits (.yieldL (lx 0 0 0 0 0 0)) base (fun _ b => b.thr.region.isNone))
    ∧ (fits (.yieldS (sf 0 0 0)) (trappable (opened 0 base)) (fun _ b => canTrap b && b.thr.region.isSome))
    ∧ (fits (.yieldL (lx 0 0 0 0 0 0)) (trappable (opened 0 base)) (fun _ b => canTrap b && b.thr.region.isSome)) := by decide +kernel

/-- States and operands that meet the hypotheses of `Obligations.LoadsAndScratchpad`, clause by clause. -/
theorem witness_LoadsAndScratchpad :
    (∀ ws ∈ ([
      [0x250F39C1, 0x12190048], [0x250F39C2, 0x12190000, 0x87654321], [0x4115F9C0], [0x250F39C9, 0x12190048], [0x250F39CA, 0x12190000, 0x87654321],
      [0x4115F9C8], [0x250F39CD, 0x12100048], [0x250F39CE, 0x12100000, 0x87654321], [0x4115F9CC]] : List (List Word)), wordsFit base ws)
    ∧ (fits (.ldS (sf 6 2 1)) base (fun e b => oks (b.global (loadReq e b)) (fun p => p.1.cls ≠ 2 && !p.2.poisoned p.1.key (memSize e) && memOrder e = 0 && uncached p.1 p.2 && oks (p.2.raceIf p.1 (b.globalAddr e) false) (fun _ => true))))
    ∧ (fits (.ldLX (lx 6 2 0 1 5 0 (some 0xFFFF))) base (fun e b => oks (b.global (loadReq e b)) (fun p => p.1.cls ≠ 2 && !p.2.poisoned p.1.key (memSize e) && memOrder e = 0 && uncached p.1 p.2 && oks (p.2.raceIf p.1 (b.globalAddr e) false) (fun _ => true))))
    ∧ (fits (.ldLX (lx 6 2 255 0 1 2)) base (fun e b => oks (b.global (loadReq e b)) (fun p => p.1.cls ≠ 2 && !p.2.poisoned p.1.key (memSize e) && memOrder e ≠ 0 && decide (FirstRun p.2))))
    ∧ (fits (.ldsS (sf 6 2 63)) base (fun e b => oks (b.checkScratch (b.scratchAddr e) (memSize e)) (fun _ => true)))
    ∧ (fits (.ldsLX (lx 8 2 0 0 0 0 (some 0xFFFF0))) base (fun e b => oks (b.checkScratch (b.scratchAddr e) (memSize e)) (fun _ => true)))
    ∧ (fits (.stsS (sf 6 2 63)) base (fun e b => oks (b.checkScratch (b.scratchAddr e) (memSize e)) (fun _ => memOrder e ≠ 2)))
    ∧ (fits (.stsLX (lx 6 2 255 0 1 2)) base (fun e b => oks (b.checkScratch (b.scratchAddr e) (memSize e)) (fun _ => memOrder e = 2 && b.released (memScope e)))) := by decide +kernel

/-- States and operands that meet the hypotheses of `Obligations.StoresToOwnDevice`, clause by clause. -/
theorem witness_StoresToOwnDevice :
    (∀ ws ∈ ([
      [0x250F39C5, 0x12100048], [0x250F39C6, 0x12100000, 0x87654321], [0x4115F9C4]] : List (List Word)), wordsFit base ws)
    ∧ (fits (.stS (sf 6 2 0)) base (fun e b => memOrder e = 0 && oks (b.global (storeReq e b)) (fun p => p.1.cls = 0 && oks (p.2.raceIf p.1 (b.globalAddr e) true) (fun _ => !b.grp.early && b.grp.stagedVa.length < 16384))))
    ∧ (fits (.stLX (lx 4 2 0 0 0 0 (some 0xFFF0))) base (fun e b => memOrder e = 0 && oks (b.global (storeReq e b)) (fun p => p.1.cls = 0 && oks (p.2.raceIf p.1 (b.globalAddr e) true) (fun _ => !b.grp.early && b.grp.stagedVa.length < 16384))))
    ∧ (fits (.stS (sf 6 2 0)) (page 5 0 0 0 base) (fun e b => oks (b.global (storeReq e b)) (fun p => p.1.cls = 5 && b.grp.staged = [] && b.grp.stagedVa = [] && decide (b.grp.shadow = 0) && b.part.mailboxOf (b.globalAddr e) = none)))
    ∧ (fits (.stLX (lx 6 2 255 0 1 2)) base (fun e b => oks (b.global (storeReq e b)) (fun p => p.1.cls = 0 && memOrder e = 2 && b.grp.staged = [] && b.grp.stagedVa = [] && decide (b.grp.shadow = 0) && b.part.mailboxOf (b.globalAddr e) = none && p.2.released (memScope e) && decide (FirstRun p.2)))) := by decide +kernel

/-- States and operands that meet the hypotheses of `Obligations.RemoteAccessesAreSent`, clause by clause. -/
theorem witness_RemoteAccessesAreSent :
    (∀ ws ∈ ([
      [0x250F39C1, 0x12190048], [0x250F39C2, 0x12190000, 0x87654321], [0x4115F9C0], [0x250F39C5, 0x12100048], [0x250F39C6, 0x12100000, 0x87654321],
      [0x4115F9C4]] : List (List Word)), wordsFit base ws)
    ∧ (fits (.ldS (sf 6 2 0)) (page 2 0 1 0 base) (fun e b => oks (b.global (loadReq e b)) (fun p => p.1.cls = 2 && b.thr.region = none && memOrder e = 0)))
    ∧ (fits (.ldLX (lx 6 2 255 0 1 2)) (page 2 0 1023 0 base) (fun e b => oks (b.global (loadReq e b)) (fun p => p.1.cls = 2 && b.thr.region = none && decide (FirstRun p.2) && (p.2.refusal p.1 (b.globalAddr e)).isNone)))
    ∧ (fits (.stS (sf 6 2 0)) (page 2 0 1 0 base) (fun e b => oks (b.global (storeReq e b)) (fun p => p.1.cls = 2 && b.thr.region = none && memOrder e = 0 && decide (FirstRun p.2) && b.grp.staged = [])))
    ∧ (fits (.stLX (lx 6 2 255 0 1 2)) (page 2 0 1 0 base) (fun e b => oks (b.global (storeReq e b)) (fun p => p.1.cls = 2 && b.thr.region = none && memOrder e = 2 && decide (FirstRun p.2) && b.grp.staged = [] && (p.2.refusal p.1 (b.globalAddr e)).isNone && p.2.released (memScope e)))) := by decide +kernel

/-- States and operands that meet the hypotheses of `Obligations.FormattedLoadsAndCacheControl`, clause by clause. -/
theorem witness_FormattedLoadsAndCacheControl :
    (∀ ws ∈ ([
      [0x000039DD, 0x00000000], [0x250039DD, 0x00000100], [0x000039E1, 0x01000000], [0x250F39D1, 0x01790148], [0x250F39D2, 0x01790100, 0x87654321],
      [0x350F39D5, 0x001900D8], [0x350F39D6, 0x00190000, 0x87654321], [0x250039D9, 0x00000148], [0x250039DA, 0x00000100, 0x87654321]] : List (List Word)), wordsFit base ws)
    ∧ (fits (.ldf (lx 6 2 255 0 7 0)) (page 0 1 0 16 base) (fun e b => decodes e b (fun l s1 => memOrder e = 0 && uncached l s1 && oks (s1.raceIf l (b.globalAddr e) false) (fun _ => true))))
    ∧ (fits (.ldf (lx 6 2 255 0 7 1)) (page 0 1 0 16 base) (fun e b => decodes e b (fun _ s1 => memOrder e ≠ 0 && decide (FirstRun s1))))
    ∧ (fits (.ldk (lx 6 0xD0 255 0 1 0)) base (fun e b => oks (b.global { va := b.globalAddr e, size := memSize e, write := false, classes := [0, 1, 3], prot13 := false }) (fun p => !p.2.poisoned p.1.key (memSize e) && uncached p.1 p.2 && oks (p.2.raceIf p.1 (b.globalAddr e) false) (fun _ => true))))
    ∧ (fits (.pfch (lx 0 2 255 0 0 0)) base (fun _ _ => true))
    ∧ (fits (.cctlInv (lx 0 0 0 0 0 0)) base (fun _ _ => true))
    ∧ (fits (.cctlInvl (lx 0 2 0 1 0 0)) base (fun _ _ => true))
    ∧ (fits (.fence (lx 0 0 0 0 0 1)) base (fun _ _ => true))
    ∧ (fits (.fence (lx 0 0 0 0 0 0x17)) base (fun e b => field e.m.toNat 1 0 = 3 && b.acked && b.released (field e.m.toNat 4 2))) := by decide +kernel

/-- States and operands that meet the hypotheses of `Obligations.Atomics`, clause by clause. -/
theorem witness_Atomics :
    (∀ ws ∈ ([
      [0x250F3A01, 0x31190548], [0x250F3A02, 0x31190500, 0x87654321], [0x250F3A05, 0x12190548], [0x250F3A06, 0x12190500, 0x87654321]] : List (List Word)), wordsFit base ws)
    ∧ (fits (.amo (lx 6 2 8 0 1 0)) base (fun e b => oks (b.check { va := b.opA e 2, size := 4, write := true, classes := [0, 2, 5], prot13 := true }) (fun l => l.cls ≠ 2 && field e.m.toNat 1 0 = 0 && amoFree e l b)))
    ∧ (fits (.amo (lx 6 2 8 0 1 0x17)) (page 2 0 1 0 base) (fun e b => oks (b.check { va := b.opA e 2, size := 4, write := true, classes := [0, 2, 5], prot13 := true }) (fun l => l.cls = 2 && b.thr.region = none && field e.m.toNat 1 0 = 3 && (b.touch (b.opA e 2) true l).released 5 && b.acked && amoFree e l b)))
    ∧ (fits (.amos (lx 6 2 8 0 1 3)) base (fun e b => oks (b.checkScratch (b.opA e 1) 4) (fun _ => b.acked && b.released (field e.m.toNat 4 2))))
    ∧ ((flying base).inflight.any (fun a => a.serial = 7 && a.kind = .atomic 0 1 1 0 && !a.remote && a.va % 64 ≠ 0 && (flying base).mayPerform a && !(flying base).poisoned a.key 4))
    ∧ decoding true ∧ decoding false := by decide +kernel

/-- States and operands that meet the hypotheses of `Obligations.SyncWords`, clause by clause. -/
theorem witness_SyncWords :
    (∀ ws ∈ ([
      [0x25003A0D, 0x03000048], [0x25003A0E, 0x03000000, 0x87654321], [0x01103A0C], [0x25003A15, 0x00000000], [0x01103A14], [0x25003A09, 0x31008448],
      [0x25003A0A, 0x31008400, 0x87654321], [0x250F3A19, 0x01090048], [0x250F3A1A, 0x01090000, 0x87654321], [0x25003A11, 0x01000048],
      [0x25003A12, 0x01000000, 0x87654321], [0x41103A10]] : List (List Word)), wordsFit base ws)
    ∧ (fits (.sinit (lx 0 4 8 9 0 0)) (regs [(9, 1)] base) (fun e b => oks (b.syncPlace e true) (fun p => p.1.away = none && !syncGlobal e && !e.m.getLsbD 2 && b.opC e 1 = 1 && b.opB e 1 = 0)))
    ∧ (fits (.sinit (lx 0 4 8 0 0 4)) base (fun e b => oks (b.syncPlace e true) (fun p => p.1.away = none && e.m.getLsbD 2 && (b.liveThreads b.grp.gid).length = 1 && decide ((p.2.grp.barriers.filter (fun o => o ≠ p.1.addr)).length < 16) && !p.2.hasWaiters p.1.loc && (p.2.syncWord p.1.loc).tc = 0)))
    ∧ (fits (.sinit (lx 0 4 8 9 0 1)) (regs [(8, 0xFFFFFFFF)] base) (fun e b => oks (b.syncPlace e true) (fun p => p.1.away = none && syncGlobal e && decide (FirstRun p.2) && b.grp.staged = [] && b.opC e 1 = 0 && b.opB e 1 ≠ 0)))
    ∧ (fits (.sarriveS (sf 0 12 0)) (word 2 base) (fun e b => oks (b.syncPlace e true) (fun p => p.1.away = none && !syncGlobal e && !(p.2.syncAttr p.1.loc).bar && (p.2.syncWord p.1.loc).tt ≠ 0 && (p.2.syncWord p.1.loc).tc ≤ (p.2.syncWord p.1.loc).tt && p.2.released (p.2.syncScope p.1.loc))))
    ∧ (fits (.sarriveLX (lx 0 4 8 0 0 2)) base (fun e b => oks (b.syncPlace e true) (fun p => p.1.away = none && !syncGlobal e && !(p.2.syncAttr p.1.loc).bar && (p.2.syncWord p.1.loc).tt = 0 && (p.2.syncWord p.1.loc).tc ≤ (p.2.syncWord p.1.loc).tt && p.2.released (p.2.syncScope p.1.loc))))
    ∧ (fits (.swaitS (sf 0 12 14)) base (fun e b => oks (b.syncPlace e false) (fun p => p.1.away = none && b.thr.region = none && passed (BitVec.ofNat 32 (p.2.seenWord p.1.loc).gen) (b.read32 (code e e.b)))))
    ∧ (fits (.swaitLX (lx 0 4 0 0 0 0 (some 1))) base (fun e b => oks (b.syncPlace e false) (fun p => p.1.away = none && b.thr.region = none && !passed (BitVec.ofNat 32 (p.2.seenWord p.1.loc).gen) 1)))
    ∧ (fits (.sbarS (sf 0 12 0)) (barrier 2 base) (fun e b => oks (b.syncPlace e true) (fun p => p.1.away = none && p.1.loc = .scratch b.grp.gid 0 && b.thr.region = none && b.thr.key.gid = b.grp.gid && (p.2.syncAttr p.1.loc).bar && p.2.released (p.2.syncScope p.1.loc) && (p.2.syncWord p.1.loc).bt = 0 && (p.2.syncWord p.1.loc).tt < 2 ^ 16 && p.2.syncHeld p.1.loc = 0 && (p.2.syncWord p.1.loc).tc + 1 < (p.2.syncWord p.1.loc).tt)))
    ∧ (fits (.sbarL (lx 0 4 0 0 0 0)) (barrier 1 base) (fun e b => oks (b.syncPlace e true) (fun p => p.1.away = none && p.1.loc = .scratch b.grp.gid 0 && b.thr.region = none && b.thr.key.gid = b.grp.gid && (p.2.syncAttr p.1.loc).bar && p.2.released (p.2.syncScope p.1.loc) && (p.2.syncWord p.1.loc).bt = 0 && p.2.syncHeld p.1.loc = 0 && (p.2.syncWord p.1.loc).tc + 1 = (p.2.syncWord p.1.loc).tt && b.grp.phase = .running)))
    ∧ (fits (.spoll (lx 6 4 0 0 0 0)) base (fun e b => oks (b.syncPlace e false) (fun p => p.1.away = none && !syncGlobal e)))
    ∧ (fits (.spoll (lx 6 4 0 0 0 1)) base (fun e b => oks (b.syncPlace e false) (fun p => p.1.away = none && syncGlobal e && decide (FirstRun p.2))))
    ∧ (fits (.sinit (lx 0 4 8 9 0 1)) (regs [(8, 1)] (page 2 0 1 0 base)) (fun e b => oks (b.syncPlace e true) (fun p => p.1.away.isSome && syncGlobal e && decide (FirstRun p.2) && b.grp.staged = [] && b.opC e 1 = 0 && b.opB e 1 ≠ 0)))
    ∧ (fits (.sarriveLX (lx 0 4 8 0 0 3)) (page 2 0 1 0 base) (fun e b => oks (b.syncPlace e true) (fun p => p.1.away.isSome && syncGlobal e && decide (FirstRun p.2) && b.grp.staged = [] && !(p.2.syncAttr p.1.loc).bar && (p.2.syncWord p.1.loc).tc ≤ (p.2.syncWord p.1.loc).tt && p.2.released (p.2.syncScope p.1.loc))))
    ∧ (fits (.swaitLX (lx 0 4 8 0 0 1)) (page 2 0 1 0 base) (fun e b => oks (b.syncPlace e false) (fun p => p.1.away.isSome && b.thr.region = none)))
    ∧ (fits (.spoll (lx 6 4 0 0 0 1)) (page 2 0 1 0 base) (fun e b => oks (b.syncPlace e false) (fun p => p.1.away.isSome && syncGlobal e && decide (FirstRun p.2)))) := by decide +kernel

/-- States and operands that meet the hypotheses of `Obligations.CrossLane`, clause by clause. -/
theorem witness_CrossLane :
    (∀ ws ∈ ([
      [0x250F3A45, 0x31000048], [0x250F3A46, 0x31000000, 0x87654321], [0x00013A59, 0x00000048], [0x00013A5A, 0x00000000, 0x87654321], [0x250F3A55, 0x00000048],
      [0x250F3A56, 0x00000000, 0x87654321], [0x250F3A41, 0x03008448], [0x250F3A42, 0x03008400, 0x87654321], [0x250F3A4D, 0x05100048],
      [0x250F3A4E, 0x05100000, 0x87654321], [0x250F3A51, 0x0D100048], [0x250F3A52, 0x0D100000, 0x87654321], [0x000F3A49, 0x03000548],
      [0x000F3A4A, 0x03000500, 0x87654321]] : List (List Word)), wordsFit base ws)
    ∧ (gathers (.xperm (lx 6 2 8 9 0 0)))
    ∧ (gathers (.xbcast (lx 6 2 8 0 0 0)))
    ∧ (gathers (.xvote (lx 6 0 8 0 0 0)))
    ∧ (gathers (.xred (lx 6 2 8 0 1 0)))
    ∧ (gathers (.xscan (lx 6 2 8 0 1 0)))
    ∧ (gathers (.xmatch (lx 6 2 8 0 0 0)))
    ∧ (gathers (.xelect (lx 1 0 8 0 0 0)))
    ∧ (gatheredIn (.xperm (lx 6 2 8 9 0 0)))
    ∧ (gatheredIn (.xelect (lx 1 0 8 0 0 0)))
    ∧ (([(0, 5), (3, 6)] : List (Nat × Nat)).Pairwise (fun a b => a.1 < b.1) ∧ ([(0, true), (31, false)] : List (Nat × Bool)).Pairwise (fun a b => a.1 < b.1) ∧ (∀ p ∈ ([(0, true), (31, false)] : List (Nat × Bool)), p.1 < 32) ∧ ((3, 6) : Nat × Nat) ∈ [(0, 5), (3, 6)] ∧ ((lx 6 2 8 9 1 0).enc 0x90).op = 0x90 ∧ lookup 3 ([(3, 0)] : List (Nat × Nat)) = some 0)
    ∧ (((lx 6 2 8 0 1 3).enc 0x91).op = 0x91 ∧ ((lx 6 2 8 0 1 3).enc 0x91).m.getLsbD 5 = false ∧ ((lx 6 2 8 0 1 3).enc 0x92).op = 0x92 ∧ ((31, false) : Nat × Bool) ∈ [(0, true), (31, false)] ∧ ((lx 6 2 8 0 1 3).enc 0x92).m.toNat % 4 = 3 ∧ ((lx 6 2 8 0 1 3).enc 0x95).op = 0x95 ∧ ∀ u ∈ ([(0, 5), (3, 6)] : List (Nat × Nat)), u.1 < 32) := by decide +kernel

/-- States and operands that meet the hypotheses of `Obligations.PoolAndTickets`, clause by clause. -/
theorem witness_PoolAndTickets :
    (∀ ws ∈ ([
      [0x00003B95, 0x00000048], [0x00003B96, 0x00000000, 0x87654321], [0x00003B91, 0x00000048], [0x00003B92, 0x00000000, 0x87654321], [0x25003B75, 0x00000000],
      [0x250F3B99, 0x00000000]] : List (List Word)), wordsFit base ws)
    ∧ (poolArrives (.reggive (lx 0 0 8 0 0 0)))
    ∧ (poolArrives (.regclaim (lx 0 0 8 0 0 0)))
    ∧ (poolGathered 0xE4 (.reggive (lx 0 0 8 0 0 0)) (regs [(8, 184)] base) 184 && 184 + 8 ≤ base.thr.grant && base.lau.carrySet.all (fun c => 192 ≤ c || c + 184 < base.thr.grant))
    ∧ (poolGathered 0xE5 (.regclaim (lx 0 0 0 0 0 0 (some 8))) (onThr (fun t => { t with grant := 184 }) base) 8 && 184 + 8 ≤ 192 && 8 / 8 + base.otherBlocks ≤ base.lau.regs * base.lau.packs / 8)
    ∧ ((claimed.focusGroup 1).any (fun s1 => s1.grp.claims = [(0, 1)] && s1.grp.gid = 1 && ((s1.packThreads 1 0).find? (fun t => t.status = .waiting (.regclaim (8 * 1)))).any (fun u => (s1.focus u.key).any (fun s2 => s2.running && decide (1 ≤ s2.grp.pool) && s2.thr.key = u.key && s2.thr.status = .waiting (.regclaim 8)))))
    ∧ (fits (.tkclaim (lx 6 2 0 0 0 0)) base (fun e b => oks (b.global { va := b.opA e 2, size := 4, write := true, classes := [0], prot13 := false }) (fun p => p.2.loggedTicket = none && decide (p.2.grp.shadow = 0) && decide (b.grp.tickets.length + (b.tickets.filter (fun t => t.t.gid = b.grp.gid)).length < 16) && !b.thr.fenced)))
    ∧ (fits (.tkclaim (lx 6 2 0 0 0 0)) (onGrp (fun g => { g with attempt := 1, ticketReplay := [5] }) base) (fun e b => oks (b.global { va := b.opA e 2, size := 4, write := true, classes := [0], prot13 := false }) (fun p => p.2.loggedTicket = some 5)))
    ∧ (((ticketed base).checkoutDev 0).dev.clk = 64 ∧ ((ticketed base).tickets.filter (fun k => k.val.isNone && k.dev = 0 && k.core / 4 = 0 && k.key = placedPage)).any (fun k => k.since + 64 ≤ 64) ∧ (ticketed base).locked placedPage = false ∧ (ticketed base).poisoned placedPage 4 = false)
    ∧ (((answered base).focus ⟨1, 0⟩).any (fun s1 => (s1.tickets.find? (fun j => j.t = s1.thr.key && j.val.isSome)).any (fun tk => tk.val = some 3) && s1.thr.status = .waiting .ticket)) := by decide +kernel

/-- States and operands that meet the hypotheses of `Obligations.ArrayCommandsQueue`, clause by clause. -/
theorem witness_ArrayCommandsQueue :
    (∀ ws ∈ ([
      [0x250F3AA1, 0x01108448], [0x25003AA5, 0x01000000], [0x00003AA6, 0x01000000, 0x87654321], [0x00003A91, 0x10008400], [0x250F3A89, 0x31008448],
      [0x25003A95, 0x53008400], [0x00003A96, 0x00000000, 0x87654321], [0x250F3A8D, 0x53008448]] : List (List Word)), wordsFit base ws)
    ∧ (fits (.mload (lx 255 4 255 8 0 0)) (regs [(8, 512)] base) (fun e b => roomy b && (b.projected.macros.getD 0 (none, 0)).2 = 0 && code e e.d = 0xFF && colBytes 0 ≤ b.opC e 1 && b.opC e 1 % 4 = 0 && e.b = 0xFF))
    ∧ (fits (.rowld (lx 255 4 255 8 0 0x3F)) (regs [(8, 512)] base) (fun e b => roomy b && b.projected.row.2 = 0 && code e e.d = 0xFF && b.opA e 1 + 31 * b.opC e 1 + colBytes 0 ≤ b.grp.scratchSize && colBytes 0 ≤ b.opC e 1 && b.opC e 1 % 4 = 0 && e.b = 0xFF))
    ∧ (fits (.hada (lx 0 0 0 31 0 64)) (rowHolds 2 base) (fun e b => roomy b && e.c.toNat + 1 ≤ 32 && b.projected.row.1 = some 2 && b.projected.row.2 = b.grp.gid))
    ∧ (fits (.mmac (lx 0 8 0 31 0 1)) (owns 0 1 (rowHolds 0 (macroHolds base))) (fun e b => roomy b && mmacCodes b.core b.projected b.grp (b.opA e 1) 1 false = [] && b.core.faulted (b.projected.outPairs b.grp.pairNo (b.opA e 1) 1) = none))
    ∧ (fits (.accz (lx 0 8 0 0 0 0)) (regs [(8, 7)] (owns 7 1 base)) (fun e b => roomy b && b.core.holdsPair b.grp.gid (b.grp.pairNo (b.op1 e 1)) && (b.core.pair (b.grp.pairNo (b.op1 e 1))).fault = none))
    ∧ (fits (.accz (lx 0 0 0 0 0 0 (some 0))) (owns 0 1 base) (fun e b => roomy b && b.core.holdsPair b.grp.gid (b.grp.pairNo (b.op1 e 1)) && (b.core.pair (b.grp.pairNo (b.op1 e 1))).fault = none))
    ∧ (fits (.accst (lx 255 8 4 0xD0 1 1)) (ks [(0, 512), (1, 0), (2, 0)] (owns 0 1 base)) (fun e b => roomy b && b.core.holdsPair b.grp.gid (b.grp.pairNo (b.opA e 1)) && (b.core.pair 0).fault = none && b.block e.c 3 = some [512, 0, 0] && b.opB e 1 + accstSize 1 ≤ b.grp.scratchSize && 512 % accstSize 1 = 0 && b.opB e 1 % accstSize 1 = 0 && code e e.d = 0xFF))
    ∧ (fits (.mload (lx 9 4 10 8 0 0x20)) (regs [(8, 512), (9, 0xFFFF0), (10, 0)] base) (fun e b => roomy b && code e e.d ≠ 0xFF && b.opD e 1 % 16 = 0 && b.opD e 1 + 16 ≤ b.grp.scratchSize && e.b ≠ 0xFF && b.opB e 1 + colCount 0 ≤ b.grp.scratchSize && b.opA e 1 + (colCount 0 - 1) * 512 + colBytes 0 ≤ b.grp.scratchSize && colBytes 0 ≤ 512)) := by decide +kernel

/-- States and operands that meet the hypotheses of `Obligations.PairsAndSequencers`, clause by clause. -/
theorem witness_PairsAndSequencers :
    (∀ ws ∈ ([
      [0x250F3A81, 0x00000000], [0x000F3A82, 0x00000000, 0x87654321], [0x25003A85, 0x00000000], [0x00003A86, 0x00000000, 0x87654321], [0x250F3A9D, 0x00190048],
      [0x25003A99, 0x00000000], [0x00003A9A, 0x00000000, 0x87654321], [0x250F3AC9, 0x00000000], [0x000F3ACA, 0x00000000, 0x87654321], [0x00003AD1, 0x0D000500],
      [0x250F3ACD, 0x00000000]] : List (List Word)), wordsFit base ws)
    ∧ (fits (.acca (lx 6 0 0 0 0 0 (some 8))) base (fun e b => b.op1 e 1 = 8 && b.core.pairs.length = 8 && b.accaServable 8 && b.core.accaQ = [] && b.loggedTicket = none && decide (b.grp.shadow = 0) && decide (b.grp.tickets.length + (b.tickets.filter (fun t => t.t.gid = b.grp.gid)).length < 16) && b.core.runFree 0 8))
    ∧ (fits (.acca (lx 6 8 0 0 0 0)) (regs [(8, 1)] (owns 0 1 base)) (fun e b => b.op1 e 1 = 1 && b.core.pairs.length = 8 && b.accaServable 1 && b.core.accaQ = [] && b.loggedTicket = none && decide (b.grp.shadow = 0) && decide (b.grp.tickets.length + (b.tickets.filter (fun t => t.t.gid = b.grp.gid)).length < 16) && b.core.runFree 1 1 && !b.core.runFree 0 1))
    ∧ (fits (.accf (lx 0 8 0 0 0 0)) (regs [(8, 7)] (owns 7 1 base)) (fun e b => b.core.holdsPair b.grp.gid (b.grp.pairNo (b.op1 e 1)) && (b.core.pair 7).fault = none && b.quiescent 7 b.nextId && !b.cycOnce.contains (0xA1, b.grp.gid, b.thr.key.tid / 32, b.thr.pc, 7)))
    ∧ (fits (.aswap (lx 0 8 0 0 0 0)) (owns 0 1 base) (fun e b => b.core.holdsPair b.grp.gid (b.grp.pairNo (b.op1 e 1)) && (b.core.pair 0).fault = none && b.quiescent 0 b.nextId && !b.cycOnce.contains (0xA6, b.grp.gid, b.thr.key.tid / 32, b.thr.pc, 0)))
    ∧ (fits (.aswap (lx 0 8 0 0 0 0)) (busyPair (owns 0 1 base)) (fun e b => b.core.holdsPair b.grp.gid (b.grp.pairNo (b.op1 e 1)) && (b.core.pair 0).fault = none && !b.quiescent 0 b.nextId))
    ∧ (fits (.accrd (lx 6 8 0 0 2 0xC0)) (owns 0 1 base) (fun e b => b.core.holdsPair b.grp.gid (b.grp.pairNo (b.opA e 1)) && (b.core.pair 0).fault = none && field e.m.toNat 7 6 = 3))
    ∧ (fits (.accrd (lx 6 8 9 0 1 0)) (regs [(9, 4095)] (owns 0 1 base)) (fun e b => b.core.holdsPair b.grp.gid (b.grp.pairNo (b.opA e 1)) && (b.core.pair 0).fault = none && field e.m.toNat 7 6 ≠ 3 && b.opB e 1 ≤ 4095))
    ∧ (fits (.fork (lx 6 8 0 0 0 0)) (regs [(8, 0xFFF80)] base) (fun e b => b.released 2 && b.op1 e 1 % 128 = 0 && b.op1 e 1 + 128 ≤ b.grp.scratchSize && b.core.forkQ = [] && b.core.freeSeqr = some 0))
    ∧ (fits (.fork (lx 6 0 0 0 0 0 (some 0))) (onCore (fun c => { c with seqrs := List.replicate 4 { gid := 1, tid := 0, list := 0, idx := 0, stopped := false, status := 0 } }) base) (fun e b => b.released 2 && b.op1 e 1 % 128 = 0 && b.op1 e 1 + 128 ≤ b.grp.scratchSize && b.core.freeSeqr = none))
    ∧ (fits (.rdv (lx 6 8 0 0 0 0)) (regs [(8, 3)] (seqr 3 true base)) (fun e b => b.opA e 1 = 3 && (b.core.seqrs.getD 3 Sequencer.free).gid = b.grp.gid && b.allCores.all (fun c => c.jobs.isEmpty) && (b.core.seqrs.getD 3 Sequencer.free).stopped && !b.seqrBusy b.grp.gid 3))
    ∧ (let s := seqr 0 false base
       let e := (lx 6 8 0 0 0 0).encL 0xB3
       Issues e s ∧ s.thr.guard e.g e.n = true ∧ Quiet s)
    ∧ ((fun (e : Enc) (b : State) => b.opA e 1 = 0 && (b.core.seqrs.getD 0 Sequencer.free).gid = b.grp.gid && b.allCores.all (fun c => c.jobs.isEmpty) && !(b.core.seqrs.getD 0 Sequencer.free).stopped) ((lx 6 8 0 0 0 0).encL 0xB3) (atBody ((lx 6 8 0 0 0 0).encL 0xB3) (seqr 0 false base)))
    ∧ (fits (.gres (lx 0 0 0 0 0 0x1F)) base (fun e _ => e.m.getLsbD 4))
    ∧ (fits (.gres (lx 0 0 0 3 0 0xF)) (onGrp (fun g => { g with guards := Vector.replicate 16 .yes }) base) (fun e b => !e.m.getLsbD 4 && b.grp.slot 15 = .yes))
    ∧ (fits (.gres (lx 0 0 0 3 0 0)) base (fun e b => !e.m.getLsbD 4 && b.grp.slot 0 = .unresolved && !b.gresAhead 0)) := by decide +kernel

/-- States and operands that meet the hypotheses of `Obligations.CopiesQueue`, clause by clause. -/
theorem witness_CopiesQueue :
    (∀ ws ∈ ([
      [0x250F3B15, 0x00008448], [0x250F3AC1, 0x00008400], [0x250F3AC2, 0x00008400, 0x87654321], [0x00003AE1, 0x01008400], [0x250F3AC5, 0x00008400]] : List (List Word)), wordsFit base ws)
    ∧ (fits (.xcopy (lx 4 8 0 0xD0 0 0)) (ks copyBlock base) (fun e b => (b.block e.c 10).any (fun ws => (b.planCopy e.m.toNat (b.opA e 2) (b.opD e 2) ws none).1 = []) && roomy b))
    ∧ (fits (.xgath (lx 4 8 0 0xD0 0 0)) (ks [(0, 0), (1, 0x400), (2, 16), (3, 0)] base) (fun e b => b.block e.c 4 = some [0, 0x400, 16, 0] && b.opD e 1 + 1 * 4 ≤ b.grp.scratchSize && roomy b))
    ∧ (fits (.ccopy (lx 4 8 10 0xD0 0 0)) (stored (regs [(8, 5), (9, 0), (10, 0xFFFFFFFF)] base)) (fun e b => b.block e.c 1 = some [0] && b.opD e 2 % 128 = 0 && b.opB e 1 ≠ 0 && ctlCount 0 = none && (b.part.line (BitVec.ofNat 64 (b.opA e 2))).isSome && roomy b && b.core.jobs = []))
    ∧ (fits (.xfer (lx 0 0 0 0xD0 0 0)) (ks [(4, 1)] base) (fun e b => (b.block e.c 8).isSome && e.c.toNat % 2 = 0 && (b.uniform 4) = 1 && b.uniform 5 = 0 && ctlCount 0 = none && roomy b && decide (FirstRun b))) := by decide +kernel

/-- States and operands that meet the hypotheses of `Obligations.ContentLines`, clause by clause. -/
theorem witness_ContentLines :
    (∀ ws ∈ ([
      [0x250F3B05, 0x00190048], [0x250F3B06, 0x00190000, 0x87654321], [0x250F3B01, 0x31090000], [0x250F3B09, 0x00000000], [0x250F3B11, 0x12408448],
      [0x250F3B0D, 0x00000000]] : List (List Word)), wordsFit base ws)
    ∧ (fits (.cloa (lx 6 8 0 0 0 0x21)) (cellar base) (fun e b => oks (b.readLine true (b.opA e 1) true) (fun p => decide (FirstRun p.2) && p.2.part.regionOn 1 && (p.2.part.chain 1 (BitVec.ofNat 56 (lh64 p.2.part.ka p.2.part.kb p.1 128))) = [] && p.2.part.freeSlot 1 (p.2.choose (p.2.part.region 1).lines.toNat).1 = some 0 && (p.2.slotKey (p.2.part.slotVa 1 0)).isSome && p.1.length = 128)))
    ∧ (fits (.cloa (lx 6 8 0 0 0 0x21)) (lineOf (List.replicate 128 0) base) (fun e b => oks (b.readLine true (b.opA e 1) true) (fun p => decide (FirstRun p.2) && p.2.part.regionOn 1 && ((p.2.part.chain 1 (BitVec.ofNat 56 (lh64 p.2.part.ka p.2.part.kb p.1 128))).find? (fun l => !l.freed && l.interior = false && l.bytes = p.1)).isSome)))
    ∧ (fits (.cld (lx 6 8 9 0 1 0)) (regs [(8, 5), (10, 124)] (stored base)) (fun e b => b.opB e 1 % memSize e = 0 && oks (b.part.walkTree 9 (BitVec.ofNat 64 (b.opA e 2)) (b.opB e 1)) (fun p => (b.lineUntagged p.1).isNone && !b.poisoned (p.1.key + p.2) (memSize e))))
    ∧ (fits (.cref (lx 6 8 0 0 0 0)) base (fun e b => decide (FirstRun b) && b.opA e 2 = 0))
    ∧ (fits (.cref (lx 6 8 0 0 0 0)) (regs [(8, 5)] (stored base)) (fun e b => decide (FirstRun b) && (b.part.line (BitVec.ofNat 64 (b.opA e 2))).isSome))
    ∧ (fits (.cunref (lx 6 8 0 0 0 0)) (regs [(8, 5)] (stored base)) (fun e b => decide (FirstRun b) && (b.part.line (BitVec.ofNat 64 (b.opA e 2))).any (fun l => l.count = 1 && b.part.lines = [l])))
    ∧ (fits (.cswap (lx 6 8 10 12 4 2)) base (fun e b => oks (b.global { va := b.opA e 2, size := 8, write := true, classes := [0, 2], prot13 := false }) (fun p => p.1.cls = 0 && decide (FirstRun p.2) && b.grp.staged = [] && p.2.released (field e.m.toNat 4 2) && b.opC e 2 = 0 && Mem.nat p.2.mem p.1.key 8 = b.opB e 2)))
    ∧ (fits (.cswap (lx 6 8 10 12 4 0)) (regs [(10, 1), (12, 5)] (stored base)) (fun e b => oks (b.global { va := b.opA e 2, size := 8, write := true, classes := [0, 2], prot13 := false }) (fun p => p.1.cls = 0 && decide (FirstRun p.2) && b.grp.staged = [] && (p.2.part.line (BitVec.ofNat 64 (b.opC e 2))).isSome && Mem.nat p.2.mem p.1.key 8 ≠ b.opB e 2)))
    ∧ (fits (.cswap (lx 6 8 10 12 4 3)) (page 2 0 1 0 base) (fun e b => oks (b.global { va := b.opA e 2, size := 8, write := true, classes := [0, 2], prot13 := false }) (fun p => p.1.cls = 2 && decide (FirstRun p.2) && b.grp.staged = [] && p.2.released (field e.m.toNat 4 2) && p.2.acked && b.thr.region = none && (p.2.refusal p.1 (b.opA e 2)).isNone))) := by decide +kernel

/-- States and operands that meet the hypotheses of `Obligations.HashesAndPrefixes`, clause by clause. -/
theorem witness_HashesAndPrefixes :
    (∀ ws ∈ ([
      [0x250F3B1D, 0x05000048], [0x250F3B19, 0x01090000], [0x250F3B25, 0x0D000048], [0x250F3B21, 0x0D000048], [0x250F3B29, 0x0D000048],
      [0x250F3B2D, 0x0D000048]] : List (List Word)), wordsFit base ws)
    ∧ (fits (.lhash (lx 6 8 0 0 0 16)) base (fun e _ => field e.m.toNat 7 6 = 0))
    ∧ (fits (.lhash (lx 6 8 0 0 0 64)) base (fun e b => field e.m.toNat 7 6 = 1 && oks (b.readLine true (b.opA e 1) false) (fun _ => true)))
    ∧ (fits (.lhash (lx 6 8 0 0 0 128)) base (fun e b => field e.m.toNat 7 6 ≠ 0 && oks (b.readLine false (b.opA e 2) false) (fun _ => true)))
    ∧ (fits (.hblk (lx 6 8 10 0 0 0)) base (fun e b => oks (b.readTokens false (b.opB e 1) 16) (fun _ => true)))
    ∧ (fits (.hblk (lx 6 8 10 0 0 4)) base (fun e b => oks (b.readTokens true (b.opB e 2) 16) (fun _ => true)))
    ∧ (fits (.pflook (lx 4 8 9 0 0 0)) (regs [(9, 256)] (prefixes [] base)) (fun e b => b.opB e 1 = 256 && b.opA e 1 % 8 = 0 && b.opA e 1 + 8 * 256 ≤ b.grp.scratchSize && (b.part.table 0).entries = [] && decide (FirstRun b) && (b.part.table 0).enabled))
    ∧ (fits (.pflook (lx 4 8 9 0 0 0)) (regs [(9, 1)] (prefixes [⟨0, 0, 5, 1, 0, 0⟩] base)) (fun e b => b.opB e 1 = 1 && ((b.part.table 0).entries.find? (fun r => r.hash = BitVec.ofNat 64 (Mem.nat b.grp.scratch (b.opA e 1) 8) && r.length = 1)).isSome && decide (FirstRun b) && (b.part.table 0).enabled))
    ∧ (fits (.pfins (lx 4 8 12 0 0 0)) (regs [(8, 7), (10, 5), (12, 65535)] (prefixes [] (stored base))) (fun e b => b.opB e 1 = 65535 && (b.part.pfins 0 (BitVec.ofNat 64 (b.opA e 4)) (BitVec.ofNat 64 (b.opA e 4 / 2 ^ 64)) 65535).isSome && decide (FirstRun b) && (b.part.table 0).enabled))
    ∧ (fits (.pfpin (lx 6 8 10 0 0 0)) (regs [(10, 63)] (prefixes [] base)) (fun e b => b.opB e 1 = 63 && (b.part.table 0).entries = [] && decide (FirstRun b) && (b.part.table 0).enabled))
    ∧ (fits (.pfpin (lx 6 8 10 0 0 0)) (prefixes [⟨0, 0, 5, 1, 65535, 0⟩] base) (fun e b => b.opB e 1 = 0 && ((b.part.table 0).entries.find? (fun r => r.idx = 0 && r.hash = BitVec.ofNat 64 (b.opA e 2))).any (fun r => r.pins = 65535) && decide (FirstRun b) && (b.part.table 0).enabled))
    ∧ (fits (.pfpin (lx 6 8 10 0 0 0)) (prefixes [⟨0, 0, 5, 1, 65534, 0⟩] base) (fun e b => b.opB e 1 = 0 && ((b.part.table 0).entries.find? (fun r => r.idx = 0 && r.hash = BitVec.ofNat 64 (b.opA e 2))).any (fun r => r.pins ≠ 65535) && decide (FirstRun b) && (b.part.table 0).enabled))
    ∧ (fits (.pfunpin (lx 6 8 10 0 0 0)) (prefixes [⟨0, 0, 5, 1, 0, 0⟩] base) (fun e b => b.opB e 1 = 0 && ((b.part.table 0).entries.find? (fun r => r.idx = 0 && r.hash = BitVec.ofNat 64 (b.opA e 2))).any (fun r => r.pins = 0) && decide (FirstRun b) && (b.part.table 0).enabled))
    ∧ (fits (.pfunpin (lx 6 8 10 0 0 0)) (prefixes [⟨0, 0, 5, 1, 1, 0⟩] base) (fun e b => b.opB e 1 = 0 && ((b.part.table 0).entries.find? (fun r => r.idx = 0 && r.hash = BitVec.ofNat 64 (b.opA e 2))).any (fun r => r.pins ≠ 0) && decide (FirstRun b) && (b.part.table 0).enabled)) := by decide +kernel

/-- States and operands that meet the hypotheses of `Obligations.StepsAndViews`, clause by clause. -/
theorem witness_StepsAndViews :
    (∀ ws ∈ ([
      [0x250F3B4D, 0x00000048], [0x250F3B4E, 0x00000000, 0x87654321], [0x250F3B49, 0x01000048], [0x250F3B4A, 0x01000000, 0x87654321], [0x250F3B41, 0x00000048],
      [0x250F3B42, 0x00000000, 0x87654321], [0x250F3B45, 0x00000000]] : List (List Word)), wordsFit base ws)
    ∧ (fits (.stepbeg (lx 6 8 9 0 0 0)) (regs [(8, 5)] base) (fun e b => decide (FirstRun b) && b.grp.seq = 0xFFFFFFFF && b.seqCtx b.part.pid 5 = none && b.opA e 1 = 5))
    ∧ (fits (.stepbeg (lx 6 8 0 0 0 0 (some 64))) (regs [(8, 5)] (inSeq (fun q => { q with steps := [] }) base)) (fun e b => decide (FirstRun b) && b.grp.seq = 5 && (b.seqCtx b.part.pid 5).any (fun q => q.step? b.lau.lid = none && (b.viewForStep q).any (fun p => p.1.state ≠ .failed && decide (p.1.num.toNat < 0xFFFFFFFD)) && q.canAppend (b.opB e 1))))
    ∧ (fits (.stepbeg (lx 6 8 0 0 0 0 (some 65))) (regs [(8, 5)] (inSeq (fun q => { q with steps := [] }) base)) (fun e b => decide (FirstRun b) && (b.seqCtx b.part.pid 5).any (fun q => q.step? b.lau.lid = none && (b.viewForStep q).any (fun p => p.1.state ≠ .failed) && !q.canAppend (b.opB e 1))))
    ∧ (fits (.stepbeg (lx 6 8 9 0 0 0)) (regs [(8, 5)] (inSeq (fun q => { q with steps := [], views := q.views.map (fun v => { v with state := .draining }) }) base)) (fun _ b => decide (FirstRun b) && (b.seqCtx b.part.pid 5).any (fun q => q.step? b.lau.lid = none && b.viewForStep q = none)))
    ∧ (fits (.stepbeg (lx 6 8 9 0 0 0)) (regs [(8, 5)] (inSeq (fun q => { q with steps := [], views := q.views.map (fun v => { v with state := .failed }) }) base)) (fun _ b => decide (FirstRun b) && (b.seqCtx b.part.pid 5).any (fun q => q.step? b.lau.lid = none && (b.viewForStep q).any (fun p => p.1.state = .failed))))
    ∧ (fits (.stepend (lx 6 8 0 0 0 0)) (regs [(8, 5)] (inSeq id base)) (fun e b => b.opA e 1 = 5 && b.grp.seq = 5))
    ∧ (fits (.gview (lx 4 8 0 0 0 0)) base (fun _ b => b.seqCtx b.part.pid 0 = none))
    ∧ (fits (.gview (lx 4 8 9 0 0 1)) (regs [(8, 5)] (inSeq id base)) (fun e b => e.m.getLsbD 0 && (b.seqCtx b.part.pid 5).any (fun q => (b.reportView q).isSome)))
    ∧ (fits (.gview (lx 4 8 0 0 0 0)) (regs [(8, 5)] (inSeq id base)) (fun e b => !e.m.getLsbD 0 && (b.seqCtx b.part.pid 5).any (fun q => (b.reportView q).any (fun v => v.members.length ≤ 16) && q.next = none)))
    ∧ (fits (.gsetw (lx 6 8 9 0 0 0)) base (fun _ b => decide (FirstRun b) && b.seqCtx b.part.pid 0 = none))
    ∧ (fits (.gsetw (lx 6 8 9 0 0 0)) (regs [(8, 5)] (inSeq id base)) (fun e b => decide (FirstRun b) && b.opB e 1 = 0 && (b.seqCtx b.part.pid 5).any (fun q => q.steps ≠ [])))
    ∧ (fits (.gsetw (lx 6 8 9 0 0 0)) (regs [(8, 5)] (inSeq (fun q => { q with steps := [] }) base)) (fun e b => decide (FirstRun b) && b.opB e 1 = 0 && (b.seqCtx b.part.pid 5).any (fun q => q.steps = [] && q.succ = 0)))
    ∧ (fits (.gsetw (lx 6 8 0 0 0 0 (some 2))) (regs [(8, 5)] (inSeq (fun q => { q with succ := 2 }) base)) (fun e b => decide (FirstRun b) && b.opB e 1 ≠ 0 && (b.seqCtx b.part.pid 5).any (fun q => q.succ ≠ 0)))
    ∧ (fits (.gsetw (lx 6 8 0 0 0 0 (some 1))) (regs [(8, 5)] (inSeq id base)) (fun e b => decide (FirstRun b) && b.opB e 1 = 1 && (b.seqCtx b.part.pid 5).any (fun q => q.succ = 0 && ((q.cur.map View.members).getD []).length = 1)))
    ∧ (fits (.gsetw (lx 6 8 0 0 0 0 (some 3))) (regs [(8, 5)] (inSeq id base)) (fun e b => decide (FirstRun b) && (b.seqCtx b.part.pid 5).any (fun q => q.succ = 0 && (b.seqCls q).maxWidth < b.opB e 1)))
    ∧ (fits (.gsetw (lx 6 8 0 0 0 0 (some 2))) (onPart (fun p => { p with fabric := [(0, 0x8000), (1, 0x8001)] }) (regs [(8, 5)] (inSeq id base))) (fun e b => decide (FirstRun b) && (b.seqCtx b.part.pid 5).any (fun q => q.succ = 0 && b.opB e 1 ≤ (b.seqCls q).maxWidth && 2 ≤ (widthMembers ((q.cur.map View.members).getD []) (b.part? 0 q.pid).fabricList 2).length))) := by decide +kernel

/-- States and operands that meet the hypotheses of `Obligations.KvAccessAndCommit`, clause by clause. -/
theorem witness_KvAccessAndCommit :
    (∀ ws ∈ ([
      [0x250F3B59, 0x01008448], [0x250F3B51, 0x00198448], [0x250F3B5D, 0x00000000], [0x250F3B55, 0x00108448]] : List (List Word)), wordsFit base ws)
    ∧ (fits (.kvld (lx 6 8 10 11 1 0)) (handled 16 (inSeq (fun q => { q with lenc := 16, lent := 17, views := q.views.map (fun v => { v with slices := [[⟨0, 5, 0, 0⟩]] }) }) (stored base))) (fun e b => b.opC e 1 % memSize e = 0 && oks (b.kvCheck (b.opA e 2) (b.opB e 1) (b.opC e 1) (memSize e) false) (fun p => p.blk < p.q.lenc / p.c.block && (p.v.entry? p.blk).any (fun en => oks (b.part.walkTree 9 en.root p.byte) (fun x => (b.lineUntagged x.1).isNone && !b.poisoned (x.1.key + x.2) (memSize e))))))
    ∧ (fits (.kvld (lx 6 8 10 11 1 0)) (handled 16 (inSeq (fun q => { q with lent := 1 }) base)) (fun e b => b.opC e 1 % memSize e = 0 && oks (b.kvCheck (b.opA e 2) (b.opB e 1) (b.opC e 1) (memSize e) false) (fun p => p.q.lenc / p.c.block ≤ p.blk && uncached ⟨0, 0, tailKey b.grp.dev p.q.id p.blk p.byte⟩ b && !b.poisoned (tailKey b.grp.dev p.q.id p.blk p.byte) (memSize e) && oks (b.race (tailKey b.grp.dev p.q.id p.blk p.byte) p.byte false) (fun _ => true))))
    ∧ (fits (.kvst (lx 6 8 10 11 1 0)) (handled 16 (inSeq (fun q => { q with lent := 1 }) base)) (fun e b => b.opC e 1 % memSize e = 0 && oks (b.kvCheck (b.opA e 2) (b.opB e 1) (b.opC e 1) (memSize e) true) (fun p => !b.poisoned (tailKey b.grp.dev p.q.id p.blk p.byte) (memSize e) && oks (b.race (tailKey b.grp.dev p.q.id p.blk p.byte) p.byte true) (fun _ => true) && !b.grp.early && b.grp.stagedVa.length < 16384)))
    ∧ (refuses (.kvld (lx 6 8 10 11 1 0)) (handled 0 (inSeq id (trappable base))) false 2)
    ∧ (refuses (.kvst (lx 6 8 10 11 1 0)) (regs [(9, 0x01000000)] (trappable base)) true 0)
    ∧ (refuses (.kvst (lx 6 8 10 11 1 0)) (trappable base) true 1)
    ∧ (fits (.kvcommit (lx 6 8 9 10 0 0)) (regs [(8, 5), (9, 1)] base) (fun e b => b.opB e 1 = 1 && oks (b.readTokens false (b.opC e 1) 1) (fun p => decide (FirstRun p.2) && p.2.grp.seq ≠ 5)))
    ∧ (fits (.kvcommit (lx 6 8 9 10 0 1)) (regs [(8, 5), (9, 64)] (inSeq (fun q => { q with lent := 64 }) base)) (fun e b => b.opB e 1 = 64 && oks (b.readTokens true (b.opC e 2) 64) (fun p => decide (FirstRun p.2) && p.2.grp.seq = 5 && !p.2.boundFailed 5 && (p.2.seqCtx p.2.part.pid 5).any (fun q => (q.step? p.2.lau.lid).any (fun st => st.commits.length + 64 ≤ q.lent - q.lenc)))))
    ∧ (fits (.kvcommit (lx 6 8 9 10 0 0)) (regs [(8, 5), (9, 1)] (inSeq id base)) (fun e b => oks (b.readTokens false (b.opC e 1) 1) (fun p => decide (FirstRun p.2) && p.2.grp.seq = 5 && !p.2.boundFailed 5 && (p.2.seqCtx p.2.part.pid 5).any (fun q => (q.step? p.2.lau.lid).any (fun st => q.lent - q.lenc < st.commits.length + 1)))))
    ∧ (fits (.kvcommit (lx 6 8 9 10 0 0)) (regs [(8, 5), (9, 1)] (inSeq (fun q => { q with views := q.views.map (fun v => { v with state := .failed }) }) base)) (fun e b => oks (b.readTokens false (b.opC e 1) 1) (fun p => decide (FirstRun p.2) && p.2.grp.seq = 5 && p.2.boundFailed 5 && (p.2.seqCtx p.2.part.pid 5).any (fun q => (q.step? p.2.lau.lid).isSome))))
    ∧ (fits (.kvcommit (lx 6 8 9 10 0 0)) (regs [(8, 5), (9, 1)] (inSeq (fun q => { q with steps := [] }) base)) (fun e b => oks (b.readTokens false (b.opC e 1) 1) (fun p => decide (FirstRun p.2) && p.2.grp.seq = 5 && (p.2.seqCtx p.2.part.pid 5).any (fun q => q.step? p.2.lau.lid = none))))
    ∧ (fits (.kvreject (lx 6 8 0 0 0 0)) (regs [(8, 5)] base) (fun _ b => decide (FirstRun b) && b.grp.seq ≠ 5))
    ∧ (fits (.kvreject (lx 6 8 0 0 0 0)) (regs [(8, 5)] (inSeq (fun q => { q with steps := [] }) base)) (fun _ b => decide (FirstRun b) && b.grp.seq = 5 && (b.seqCtx b.part.pid 5).any (fun q => q.step? b.lau.lid = none)))
    ∧ (fits (.kvreject (lx 6 8 0 0 0 0)) (regs [(8, 5)] (inSeq id base)) (fun _ b => decide (FirstRun b) && b.grp.seq = 5 && (b.seqCtx b.part.pid 5).any (fun q => (q.step? b.lau.lid).isSome))) := by decide +kernel

/-- States and operands that meet the hypotheses of `Obligations.KvForkAndInfo`, clause by clause. -/
theorem witness_KvForkAndInfo :
    (∀ ws ∈ ([
      [0x250F3B61, 0x01000048], [0x250F3B65, 0x00090148], [0x250F3B65, 0x00090248], [0x250F3B65, 0x00090000], [0x250F3B65, 0x00090548],
      [0x250F3B65, 0x00090600], [0x250F3B65, 0x00090400], [0x250F3B65, 0x00090348]] : List (List Word)), wordsFit base ws)
    ∧ (fits (.kvfork (lx 6 8 0 0 0 0)) base (fun e b => decide (FirstRun b) && !e.m.getLsbD 0 && b.seqCtx b.part.pid 0 = none))
    ∧ (fits (.kvfork (lx 6 8 12 0 0 1)) base (fun e b => decide (FirstRun b) && e.m.getLsbD 0 && !b.part.classUsable 0))
    ∧ (fits (.kvfork (lx 6 8 12 0 0 1)) (cellar base) (fun e b => decide (FirstRun b) && e.m.getLsbD 0 && b.part.classUsable 0 && b.dev.freeSeq = some 0 && b.opA e 4 = 0 && b.opB e 1 = 0))
    ∧ (fits (.kvfork (lx 6 8 0 0 0 0)) (regs [(8, 5)] (inSeq id base)) (fun e b => decide (FirstRun b) && !e.m.getLsbD 0 && b.dev.freeSeq = some 0 && (b.seqCtx b.part.pid 5).any (fun q => q.cur.isSome && q.succ = 0) && b.dev.num = 0))
    ∧ (fits (.kvinfoLen (lx 6 8 0 0 0 0)) (regs [(8, 5)] (inSeq id base)) (fun _ b => (b.seqCtx b.part.pid 5).isSome))
    ∧ (fits (.kvinfoThr (lx 6 8 0 4 0 0)) base (fun _ _ => true))
    ∧ (fits (.kvinfoBlk (lx 4 8 9 1 0 0)) (regs [(8, 5)] (inSeq (fun q => { q with lenc := 16, lent := 17, views := q.views.map (fun v => { v with slices := [[⟨0, 5, 0, 0⟩]] }) }) base)) (fun e b => (b.seqCtx b.part.pid 5).any (fun q => b.opB e 1 < q.lenc / (base.seqCls q).block && (b.reportView q).any (fun v => (v.entry? (b.opB e 1)).isSome))))
    ∧ (fits (.kvinfoHash (lx 4 8 9 2 0 0)) (regs [(8, 5)] (inSeq (fun q => { q with lenc := 16, lent := 17, views := q.views.map (fun v => { v with slices := [[⟨0, 5, 0, 0⟩]] }) }) base)) (fun e b => (b.seqCtx b.part.pid 5).any (fun q => b.opB e 1 < q.lenc / (base.seqCls q).block && (b.reportView q).any (fun v => (v.entry? (b.opB e 1)).isSome))))
    ∧ (fits (.kvinfoTok (lx 6 8 9 3 0 0)) (regs [(8, 5)] (inSeq (fun q => { q with lenc := 1, lent := 1, tailIds := [9] }) base)) (fun e b => (b.seqCtx b.part.pid 5).any (fun q => b.opB e 1 < q.lenc)))
    ∧ (fits (.kvinfoBlk (lx 4 8 9 1 0 0)) base (fun _ b => b.seqCtx b.part.pid 0 = none))
    ∧ (fits (.kvinfoHash (lx 4 8 9 2 0 0)) base (fun _ b => b.seqCtx b.part.pid 0 = none))
    ∧ (fits (.kvinfoTok (lx 6 8 9 3 0 0)) base (fun _ b => b.seqCtx b.part.pid 0 = none))
    ∧ (fits (.kvinfoMint (lx 6 8 12 5 0 0)) base (fun _ b => b.seqCtx b.part.pid 0 = none))
    ∧ (fits (.kvinfoMint (lx 6 8 12 5 0 0)) (regs [(8, 5), (12, 16), (14, 128)] (inSeq id base)) (fun e b => decide (FirstRun b) && (b.seqCtx b.part.pid 5).any (fun q => field (b.opB e 4) 95 64 ≤ (b.seqCls q).bytes) && field (b.opB e 4) 63 32 % 16 = 0 && 16 ≤ field (b.opB e 4) 95 64 && (b.dev.handle 1).valid = false))
    ∧ (fits (.kvinfoRevoke (lx 6 8 0 6 0 0)) (handled 16 base) (fun e b => decide (FirstRun b) && handleTenant (b.opA e 2) = b.part.pid && handleIndex (b.opA e 2) = 1 && (b.dev.handle 1).valid && (b.dev.handle 1).gen = handleGen (b.opA e 2)))
    ∧ (fits (.kvinfoRevoke (lx 6 8 0 6 0 0)) base (fun e b => decide (FirstRun b) && handleIndex (b.opA e 2) = 0)) := by decide +kernel

/-- States and operands that meet the hypotheses of `Obligations.SpecialRegisters`, clause by clause. -/
theorem witness_SpecialRegisters :
    (∀ ws ∈ ([
      [0x00363B89, 0x00000048], [0x00363B8A, 0x00000000, 0x87654321], [0x000F3B81, 0x12000000], [0x00003B85, 0x12000048], [0x00003B86, 0x12000000, 0x87654321]] : List (List Word)), wordsFit base ws)
    ∧ (fits (.rdsr (lx 6 0 0 0 0 17)) base (fun e _ => e.m ≠ 24 ∧ e.m ≠ 26))
    ∧ (fits (.rdsr (lx 6 0 0 0 0 24)) base (fun e b => e.m = 24 ∧ FirstRun b))
    ∧ (fits (.rdsr (lx 6 0 0 0 0 26)) base (fun e b => e.m = 26 ∧ FirstRun b))
    ∧ (fits (.wrsr (lx 0 0 8 0 0 17)) (regs [(8, 0xFFFFFFFC), (9, 0xFFFF)] base) (fun e b => e.m = 17 && b.opB e 2 < 2 ^ 48))
    ∧ (fits (.wrsr (lx 0 0 8 0 0 18)) (regs [(8, 0xFFFFFFFF)] base) (fun e b => e.m = 18 && b.opB e 1 = 0xFFFFFFFF))
    ∧ (fits (.wrsr (lx 0 0 8 0 0 19)) base (fun e _ => e.m = 19))
    ∧ (fits (.wrsr (lx 0 0 8 0 0 20)) (regs [(8, 1)] base) (fun e b => e.m = 20 && b.opB e 1 = 1))
    ∧ (fits (.wrsr (lx 0 0 0 0 0 20 (some 2))) base (fun e b => e.m = 20 && b.opB e 1 = 2))
    ∧ (fits (.wrsr (lx 0 0 8 0 0 21)) base (fun e _ => e.m = 21))
    ∧ (fits (.wrsr (lx 0 0 8 0 0 17)) (regs [(9, 0x10000)] (trappable base)) (fun e b => e.m = 17 && 2 ^ 48 ≤ b.opB e 2 && canTrap b))
    ∧ (fits (.wrsr (lx 0 0 8 0 0 20)) (regs [(8, 3)] (trappable base)) (fun e b => e.m = 20 && b.opB e 1 = 3 && canTrap b))
    ∧ (fits (.kset (lx 0xD0 0 8 0 0 0)) base (fun e _ => e.d.toNat - 0xD0 < 32))
    ∧ (fits (.kset (lx 0xEF 0 0 0 0 0 (some 7))) base (fun e b => decide (e.d.toNat - 0xD0 < 32) && b.setBy 31 = none))
    ∧ (fits (.kset (lx 0xD0 0 8 0 0 0)) { base with cycSets := [(1, 0, 5)] } (fun e b => decide (e.d.toNat - 0xD0 < 32) && b.setBy 0 = some 5 && decide (b.thr.key.tid < 5))) := by decide +kernel

/-- States and operands that meet the hypotheses of `Obligations.LaunchesAndMappings`, clause by clause. -/
theorem witness_LaunchesAndMappings :
    (∀ ws ∈ ([
      [0x250F3B8D, 0x00000048], [0x250F3B8E, 0x00000000, 0x87654321], [0x250F3B9D, 0x53000048], [0x25003BA1, 0x12000048], [0x25003BA2, 0x12000000, 0x87654321]] : List (List Word)), wordsFit base ws)
    ∧ (fits (.launch (lx 6 8 9 0 0 0)) (recordAt [] base) (fun e b => launches e b (fun s1 r => field (r.fld 16 4) 8 4 = s1.part.pid && !r.recordOk s1.part none)))
    ∧ (fits (.launch (lx 6 8 9 0 0 0)) (recordAt placedRecord base) (fun e b => launches e b (fun s1 r => field (r.fld 16 4) 8 4 = s1.part.pid && r.recordOk s1.part none && s1.deviceLaunches s1.part.dev s1.part.pid < 4096 && s1.nextId ≠ 0)))
    ∧ (fits (.launch (lx 6 8 9 0 0 0)) (recordAt (List.replicate 16 0 ++ [0x10]) base) (fun e b => launches e b (fun s1 r => field (r.fld 16 4) 8 4 ≠ s1.part.pid)))
    ∧ (fits (.mbind (lx 6 8 12 0 0 0)) (onPart (fun p => { p with ptroot := 0 }) base) (fun _ b => b.released 4 && b.grp.staged = [] && decide (FirstRun b) && b.part.ptroot.toNat % 2 = 0))
    ∧ (fits (.mbind (lx 6 8 12 0 0 0)) base (fun e b => binds e b (fun va l entry => va % 2 ^ levelShift l = 0 && !Pte.valid entry)))
    ∧ (fits (.mbind (lx 6 8 12 0 0 0)) (regs [(8, 1)] base) (fun e b => binds e b (fun va l _ => va % 2 ^ levelShift l ≠ 0)))
    ∧ (fits (.mbind (lx 6 8 12 0 0 0)) (regs [(12, 1), (13, 0xE000000)] base) (fun e b => binds e b (fun va l entry => va % 2 ^ levelShift l = 0 && Pte.valid entry && malformedAt l entry)))
    ∧ (fits (.tlbinv (lx 0 8 10 0 0 0)) (regs [(10, 0x1000000)] base) (fun e b => !e.m.getLsbD 5 && 1 ≤ b.opB e 1 && b.opB e 1 ≤ 2 ^ 24))
    ∧ (fits (.tlbinv (lx 0 255 255 0 0 32)) base (fun e _ => e.m.getLsbD 5))
    ∧ (denies (.mbind (lx 6 8 12 0 0 0)))
    ∧ (denies (.tlbinv (lx 0 8 10 0 0 0))) := by decide +kernel

/-- States and operands that meet the hypotheses of `Obligations.CensusInstructions`, clause by clause. -/
theorem witness_CensusInstructions :
    (∀ ws ∈ ([
      [0x250F3B71, 0x00008448], [0x250F3B6D, 0x00000000], [0x25003B75, 0x00000000], [0x250F3B69, 0x12008448]] : List (List Word)), wordsFit base ws)
    ∧ (fits (.solicit (lx 6 8 10 11 0 0)) (regs [(10, 0xFFFE0), (11, 0xFFFF0)] base) (fun e b => b.opB e 1 + 32 ≤ b.grp.scratchSize && b.opC e 1 + 16 ≤ b.grp.scratchSize && decide (FirstRun b) && b.censuses = []))
    ∧ (fits (.solicit (lx 6 8 10 11 0 3)) (regs [(11, 32)] base) (fun e b => field e.m.toNat 1 0 = 3 && decide (FirstRun b) && b.censuses = [] && b.grp.view = 0xFFFFFFFF))
    ∧ (fits (.solicit (lx 6 8 10 11 0 3)) (regs [(11, 32)] (inSeq id base)) (fun e b => field e.m.toNat 1 0 = 3 && decide (FirstRun b) && b.censuses = [] && b.grp.view ≠ 0xFFFFFFFF))
    ∧ (fits (.solicit (lx 6 8 10 11 0 0)) (regs [(11, 32)] (censused 16 base)) (fun _ b => decide (FirstRun b) && 16 ≤ (b.censuses.filter (fun c => c.dev = b.core.dev && c.core = b.core.num)).length))
    ∧ (fits (.dirput (lx 4 8 0 0 0 0)) (regs [(8, 0xFFFE0)] base) (fun e b => b.opA e 1 + 32 ≤ b.grp.scratchSize && decide (FirstRun b) && b.core.dirs = [] && b.core.dirFree b.part.pid = some 0))
    ∧ (fits (.dirput (lx 4 8 0 0 0 0)) (pad 12 1 base) (fun e b => decide (FirstRun b) && wordAt (Mem.read b.grp.scratch (b.opA e 1) 32) 12 ≠ 0))
    ∧ (fits (.dirput (lx 4 8 0 0 0 0)) (listed 1 base) (fun _ b => decide (FirstRun b) && b.core.dirs.any (fun d => d.pid = b.part.pid && d.state = .live && d.key = 0 && d.serial = 0)))
    ∧ (fits (.dirput (lx 4 8 0 0 0 0)) (pad 0 7 (listed 256 base)) (fun _ b => decide (FirstRun b) && b.core.dirFree b.part.pid = none && b.core.dirs.all (fun d => d.key ≠ 7)))
    ∧ (fits (.dirdel (lx 6 8 255 10 0 0)) base (fun _ b => decide (FirstRun b) && b.core.dirs = []))
    ∧ (fits (.dirdel (lx 6 8 255 10 0 0)) (listed 1 base) (fun e b => decide (FirstRun b) && b.core.dirs.any (fun d => d.pid = base.part.pid && d.state = .live && d.key = 0 && d.serial = 0) && e.b = 0xFF))
    ∧ (fits (.dirdel (lx 6 8 12 10 0 0)) (listed 1 base) (fun e b => decide (FirstRun b) && b.core.dirs.any (fun d => d.pid = base.part.pid && d.state = .live && d.key = 0 && d.serial = 0) && e.b ≠ 0xFF))
    ∧ (fits (.reply (lx 0 8 0 0 0 0)) (onLau (fun l => { l with source := .responder 1 0 0 0 }) base) (fun _ b => decide (FirstRun b) && b.lau.source = .responder 1 0 0 0)) := by decide +kernel

/-- States and operands that meet the hypotheses of `Obligations.RegionsAndReductions`, clause by clause. -/
theorem witness_RegionsAndReductions :
    (∀ ws ∈ ([
      [0x000F3AE6, 0x53008400, 0x00000040], [0x00003AE9, 0x00000000], [0x250F3AED, 0x00008400]] : List (List Word)), wordsFit base ws)
    ∧ (fits (.fbegin (lx 8 0 0 1 0 0 (some 0x40))) base (fun _ b => b.thr.region = none))
    ∧ (fits (.fcommit (lx 0 0 0 0 0 0)) (opened 4 base) (fun _ b => b.thr.region.any (fun r => r.failed ≠ 0 && r.saved = [(8, 5)]) && b.grp.attempt = 0 && b.grp.log.length < 256))
    ∧ (fits (.fcommit (lx 0 0 0 0 0 0)) (opened 0 base) (fun _ b => b.thr.region.any (fun r => r.failed = 0) && b.core.comb.all (fun c => c.t ≠ b.thr.key) && b.grp.attempt = 0 && b.grp.log.length < 256))
    ∧ (fits (.fcommit (lx 0 0 0 0 0 0)) (onCore (fun c => { c with comb := [⟨⟨1, 0⟩, 1, 0, 0, true, []⟩] }) (opened 0 base)) (fun _ b => b.thr.region.any (fun r => r.failed = 0) && b.core.comb.any (fun c => c.t = b.thr.key) && b.grp.attempt = 0 && b.grp.log.length < 256))
    ∧ (fits (.fred (lx 255 8 0 0xD0 0 0)) (ks [(2, 0x01100000)] (page 2 0 1 0 base)) (fun e b => (b.block e.c 6).any (fun ws => reduces ws b && oks (b.fredParts 0 64) (fun p => decide (FirstRun p.2) && p.1.all (fun q => devOf q.1 = devOf (p.1.headD (0, 0)).1)) && b.opA e 1 + 64 ≤ b.grp.scratchSize)))
    ∧ (fits (.fred (lx 6 8 0 0xD0 0 0)) (ks [(2, 0x01100000), (4, 0x40)] (page 2 0 1 0 base)) (fun e b => (b.block e.c 6).any (fun ws => reduces ws b && oks (b.fredParts 0 64) (fun p => oks (p.2.fredMap 0x40) (fun q => decide (FirstRun q.2) && (p.1.map Prod.fst ++ [q.1.key]).all (fun k => devOf k = devOf (p.1.headD (0, 0)).1)))))) := by decide +kernel

/-- States and operands that meet the hypotheses of `Obligations.ThreadEvents`, clause by clause. -/
theorem witness_ThreadEvents :
    (∀ ws ∈ ([
      [0x250F3A81, 0x00000000], [0x000F3A82, 0x00000000, 0x87654321], [0x00003B95, 0x00000048], [0x00003B96, 0x00000000, 0x87654321]] : List (List Word)), wordsFit base ws)
    ∧ (at1 (onThr (fun t => { t with spin := { t.spin with low := true, lowUntil := 0 } }) base) (fun s => s.running && s.thr.spin.low && s.thr.spin.lowUntil ≤ s.dev.clk))
    ∧ (at1 (onDev (fun d => { d with clk := 2048 }) base) (fun s => s.running && s.thr.status = .ready && !(s.thr.pc = s.thr.meet && !s.thr.released) && !s.thr.aged && s.thr.readySince + 2048 ≤ s.dev.clk))
    ∧ ((groupAt 1 (met base)).any (fun s => s.running && (s.packThreads 1 0).any (fun u => u.status = .ready && u.pc = 0 && u.meet = 0 && !u.released) && (s.packThreads 1 0).all (fun u => u.status = .exited || u.meet ≠ 0 || u.pc = 0)))
    ∧ ((groupAt 1 (onDev (fun d => { d with clk := 65536 }) (met base))).any (fun s => s.running && (s.packThreads 1 0).any (fun u => u.status = .ready && u.pc = 0 && u.meet = 0 && !u.released) && (s.packThreads 1 0).all (fun u => u.readySince + 65536 ≤ s.dev.clk && u.progress + 65536 ≤ s.dev.clk)))
    ∧ (at1 (waits (.yield [] 64) base) (fun s => s.running && s.thr.status = .waiting (.yield [] 64)))
    ∧ (at1 (onDev (fun d => { d with clk := 64 }) (waits (.yield [8] 64) base)) (fun s => s.running && s.thr.status = .waiting (.yield [8] 64) && 64 ≤ s.dev.clk))
    ∧ (at1 (onDev (fun d => { d with clk := 2 ^ 20 }) (pair (waits (.gather 0x92 3 [] true) base))) (fun s => s.running && s.thr.status = .waiting (.gather 0x92 3 [] true) && s.thr.due = none && s.missingLanes = [1] && 2 ^ 20 ≤ s.dev.clk - s.thr.waitSince + s.thr.waited))
    ∧ (at1 (stalled (.sync (.scratch 1 0) 1)) (fun s => long s && s.thr.status = .waiting (.sync (.scratch 1 0) 1) && (s.syncWord (.scratch 1 0)).counts = s.thr.seen))
    ∧ (at1 (stalled .engine) (fun s => long s && s.thr.status = .waiting .engine))
    ∧ (at1 (stalled (.acca 2 6)) (fun s => long s && s.thr.status = .waiting (.acca 2 6)))
    ∧ (at1 (stalled (.regclaim 8)) (fun s => long s && s.thr.status = .waiting (.regclaim 8)))
    ∧ ((groupAt 1 (onThr (fun t => { t with due := some (8, 5) }) (waits .engine (trappable base)))).any (fun s1 => ((s1.packThreads 1 0).find? (fun t => t.due.isSome && t.status ≠ .exited)).any (fun u => u.due = some (8, 5) && s1.grp.gid = 1 && (s1.focus u.key).any (fun s2 => s2.running && canTrap s2))))
    ∧ (at1 (resumable 2 0) (fun s => s.running && s.thr.status = .trapped 2 placedPage && s.trapReleased && Mem.nat s.mem (placedPage + 16) 4 = 0 && decide (Quiet s)))
    ∧ (at1 (resumable 4 1) (fun s => s.running && s.thr.status = .trapped 4 placedPage && s.trapReleased && Mem.nat s.mem (placedPage + 16) 4 = 1))
    ∧ (at1 (resumable 4 0) (fun s => s.running && s.thr.status = .trapped 4 placedPage && s.trapReleased && Mem.nat s.mem (placedPage + 16) 4 = 0))
    ∧ (at1 (resumable 4 2) (fun s => s.running && s.thr.status = .trapped 4 placedPage && s.trapReleased && 1 < Mem.nat s.mem (placedPage + 16) 4))
    ∧ (at1 (onThr (fun t => { t with status := .trapped 4 placedPage }) { base with mem := Mem.write base.mem placedPage (Bits.toBytes 16 0) }) (fun s => !s.trapReleased) || at1 base (fun s => !s.trapReleased)) := by decide +kernel

/-- States and operands that meet the hypotheses of `Obligations.ResultEvents`, clause by clause. -/
theorem witness_ResultEvents :
    (at1 (pendingOf ⟨3, 4, [7], 1, 0, false, 0, 0, true, false, false, false⟩) (fun s => (s.thr.pend.find? (fun p => p.serial = 3 && !p.arrived && !p.vals.isEmpty)) = some ⟨3, 4, [7], 1, 0, false, 0, 0, true, false, false, false⟩ && decide (Quiet s) && s.thr.pend.length = 1 && s.thr.status = .ready && decide (s.thr.pend.Nodup)))
    ∧ (at1 (pendingOf ⟨3, 4, [7, 8], 2, 15, false, 0, 0, false, true, false, false⟩) (fun s => (s.thr.pend.find? (fun p => p.serial = 3 && !p.arrived && !p.vals.isEmpty)) = some ⟨3, 4, [7, 8], 2, 15, false, 0, 0, false, true, false, false⟩ && decide (Quiet s) && s.thr.pend.length = 1))
    ∧ (at1 (onThr (fun t => { t with reply := [(6, 1), (7, 2)] }) (waits .reply base)) (fun s => s.thr.status = .waiting .reply && decide (s.thr.reply.Pairwise (fun a b => a.1 < b.1))))
    ∧ (at1 (waits (.tlbinv 0 0 1) base) (fun s => s.thr.status = .waiting (.tlbinv 0 0 1) && !s.usesPages s.grp.gid s.grp.dev 0 0 1))
    ∧ (at1 (onThr (fun t => { t with unacked := [⟨3, 0, 0⟩] }) (waits (.remote 3) base)) (fun s => s.thr.unacked.any (fun u => u.serial = 3) && s.inflight.all (fun a => a.serial ≠ 3))) := by decide +kernel

/-- States and operands that meet the hypotheses of `Obligations.PhaseEvents`, clause by clause. -/
theorem witness_PhaseEvents :
    ((groupAt 1 (closing base)).any (fun s => s.grp.gid = 1 && s.grp.mayCommit && !s.unprepared && s.grp.stagedVa.all (fun p => !s.locked (64 * p.1)) && s.grp.staged = [(placedPage, 7)] && s.liveThreads 1 ≠ [] && !s.preempted))
    ∧ ((groupAt 1 (onGrp (fun g => { g with preempt := true }) (closing base))).any (fun s => s.grp.gid = 1 && s.grp.mayCommit && !s.unprepared && s.liveThreads 1 ≠ [] && s.preempted))
    ∧ ((groupAt 1 (onThr (fun t => { t with status := .exited }) (closing base))).any (fun s => s.grp.gid = 1 && s.grp.mayCommit && !s.unprepared && s.liveThreads 1 = []))
    ∧ ((groupAt 1 base).any (fun s => !s.grp.mayCommit))
    ∧ ((groupAt 1 (queued base)).any (fun s => s.grp.gid = 1 && s.grp.waitsForCore && s.mayGo s.grp 0 && s.admits s.grp && s.fitsOn s.grp 0 && s.allGroups.all (fun q => !s.keepsOut s.grp q 0) && s.lau.admitted = []))
    ∧ ((groupAt 1 (onLau (fun l => { l with admitted := [(0, 0)] }) (queued base))).any (fun s => s.grp.gid = 1 && s.grp.waitsForCore && s.mayGo s.grp 5 && s.admits s.grp && s.fitsOn s.grp 5 && s.allGroups.all (fun q => !s.keepsOut s.grp q 5) && s.lau.admitted = [(0, 0)]))
    ∧ ((groupAt 1 { queued base with now := 50000 }).any (fun s => s.grp.phase = .queued && s.grp.level < 8 && (s.grp.level - s.lau.priority + 1) * 50000 ≤ s.now - s.grp.queuedAt))
    ∧ ((groupAt 1 contended).any (fun s => s.running && s.grp.gid = 1 && s.grp.shadow = 0 && s.issueQ.all (fun p => p.1.gid ≠ 1) && (contended.group? 7).any (fun q => q.phase = .queued && q.level = 11 && q.queuedAt + 20000 ≤ s.now && q.dev = s.grp.dev && s.mayGo q s.grp.core && s.admits q && !s.fitsOn q s.grp.core && s.lau.priority < 11 && s.wouldFit q s.grp) && (s.placedOn 0 0).all (fun g => g.gid = 1))) := by decide +kernel

set_option maxRecDepth 20000 in
/-- States and operands that meet the hypotheses of `Obligations.ErrorAndAuditEvents`, clause by clause. -/
theorem witness_ErrorAndAuditEvents :
    ((groupAt 1 base).any (fun s => still s && s.grp.phase = .running && ErrUnit.legal ⟨0, 0⟩ && (s.struck .other).1 && s.dev.answers && (s.struck .other).2 && !s.grp.early && s.grp.attempt < 3 && !s.core.storeHolds 1))
    ∧ ((groupAt 1 (onGrp (fun g => { g with scratchSize := 64 }) base)).any (fun s => still s && s.grp.phase = .running && (s.struck (.sector 0)).1 && s.dev.answers && !(s.struck (.sector 0)).2))
    ∧ ((groupAt 1 (onGrp (fun g => { g with attempt := 3 }) base)).any (fun s => still s && s.grp.phase = .running && (s.struck .other).1 && s.dev.answers && 3 ≤ s.grp.attempt))
    ∧ ((groupAt 1 (onGrp (fun g => { g with early := true }) base)).any (fun s => still s && s.grp.phase = .running && (s.struck .other).1 && s.dev.answers && s.grp.early))
    ∧ ErrUnit.legal ⟨5, 0⟩ = false
    ∧ (let s := onCore (fun c => { c with jobs := [{ job 5 (.gather 0 0 0 0 0 0) with freed := true }] }) base
       s.allGroups.all (fun g => g.shadow = 0) && s.allCores.any (fun c => c.jobs.any (fun i => i.id = 5 && i.gid = 1 && i.freed && !i.moved && !i.kind.array)))
    ∧ ((groupAt 1 sampled).any (fun s => still s && s.nextId ≠ 0 && s.grp.phase = .closing && s.grp.sampled && s.shadowsOf 1 = [] && s.settledGroup 1 && s.auditor [s.grp.core / 48] 48))
    ∧ ((groupAt 1 (audited [rerun 9 48 false] [signed (rerun 9 48 false)])).any (fun s => still s && s.grp.phase = .audited
        && s.shadowsOf 1 = [rerun 9 48 false] && s.shadowDone (rerun 9 48 false) && (signed (rerun 9 48 false)).isSome && s.grp.audit = [s.shadowSignature (rerun 9 48 false)]))
    ∧ ((groupAt 1 (audited [rerun 9 48 true] [some 1])).any (fun s => still s && s.grp.phase = .audited && s.grp.audit = [some 1]
        && s.shadowsOf 1 = [rerun 9 48 true] && s.shadowDone (rerun 9 48 true) && s.shadowSignature (rerun 9 48 true) ≠ some 1)) := by decide +kernel

set_option maxRecDepth 20000 in
/-- States and operands that meet the hypotheses of `Obligations.ErrorAndAuditEvents`, clause by clause. -/
theorem witness_ErrorAndAuditEvents_third :
    ((groupAt 1 (audited [rerun 9 48 true] [some 1, none])).any (fun s => still s && s.nextId ≠ 0 && s.grp.phase = .audited && s.grp.audit = [some 1, none] && !s.grp.settled
        && (s.shadowsOf 1).find? (fun h => h.core = s.grp.auditCore) = some (rerun 9 48 true) && (s.shadowsOf 1).all (fun k => k.core = s.grp.auditCore)
        && s.auditor [s.grp.core / 48, s.grp.auditCore / 48] 96))
    ∧ (third [signed (rerun 11 96 false), some 2] (fun s k => s.shadowSignature k = signed (rerun 11 96 false) && (signed (rerun 11 96 false)).isSome && (s.placedOn 0 48).all (fun g => g.phase ≠ .queued)))
    ∧ (third [some 1, signed (rerun 11 96 false)] (fun s k => s.shadowSignature k = signed (rerun 11 96 false) && (s.placedOn 0 0).all (fun g => g.phase ≠ .queued)))
    ∧ (third [some 1, some 2] (fun s k => s.shadowSignature k ≠ some 1 && s.shadowSignature k ≠ some 2 && !s.grp.early && s.grp.attempt < 3))
    ∧ ((groupAt 1 { sampled with now := 100000, cores := idleNone }).any (fun s => still s && s.grp.phase = .closing && s.grp.sampled && s.grp.closedAt + 100000 ≤ s.now && (List.range 192).all (fun c => !s.auditor [s.grp.core / 48] c)))
    ∧ ((groupAt 1 { sampled with groups := putGroup { rerun 9 48 false with phase := .running } sampled.groups }).any (fun s => still s && (s.shadowsOf 1).any (fun h => !s.shadowDone h))) := by decide +kernel

/-- States and operands that meet the hypotheses of `Obligations.ErrorAndAuditEvents`, clause by clause. -/
theorem witness_ErrorAndAuditEvents_devices (d : Nat) : (base.dev? d).answers = true := by
  have h : (base.allDevs.all (fun c => c.answers) && (base.idleDev 0).answers) = true := by decide +kernel
  simp only [State.dev?, Bool.and_eq_true, List.all_eq_true] at h ⊢
  cases f : base.allDevs.find? (fun c => c.num = d) with
  | some c => exact h.1 c (List.mem_of_find?_eq_some f)
  | none => exact h.2

/-- States and operands that meet the hypotheses of `Obligations.PagingEvents`, clause by clause. -/
theorem witness_PagingEvents :
    ((base.focusPart 0 0).part.pstat = 0)
    ∧ (((onPart (fun p => { p with pstat := 1 }) base).focusPart 0 0).part.pstat ≠ 0)
    ∧ (at1 (onLau (fun l => { l with record := l.record.set 26 0x10 }) (onThr (fun t => { t with status := .parked 0x10 }) base)) (fun s => s.thr.status = .parked 0x10 && s.ownStack (0x10 * 2 ^ 16) && s.thr.due = none && s.translate (0x10 * 2 ^ 16) = .miss && s.part.ptroot.toNat % 2 = 1 && (entryPlace s.mem s.part.dev (0x10 * 2 ^ 16) 0 5 (field s.part.ptroot.toNat 51 12 * 2 ^ 12)).isSome))
    ∧ (at1 (onLau (fun l => { l with record := l.record.set 27 0x10 }) (onThr (fun t => { t with status := .parked 0x1000 }) base)) (fun s => s.thr.status = .parked 0x1000 && s.ownStack (0x1000 * 2 ^ 16) && s.thr.due = none && s.translate (0x1000 * 2 ^ 16) = .miss && s.part.ptroot.toNat % 2 = 1 && (buildTables s.part.dev (0x1000 * 2 ^ 16) 5 (field s.part.ptroot.toNat 51 12 * 2 ^ 12) [0x100] s).isSome))
    ∧ (!(base.focusPart 0 0).part.tlbinv)
    ∧ ((onPart (fun p => { p with tlbinv := true }) base).part.tlbinv && !(onPart (fun p => { p with tlbinv := true }) base).usesPages 0 0 0 0 (2 ^ 48))
    ∧ ((onPart (fun p => { p with tlbinv := true }) (flying base)).part.tlbinv && (onPart (fun p => { p with tlbinv := true }) (flying base)).usesPages 0 0 0 0 (2 ^ 48))
    ∧ ((promoted_ 0 [0] true base).promoted.find? (fun p => p.page = 16)).any (fun p => p.refetch) := by decide +kernel

/-- States and operands that meet the hypotheses of `Obligations.PagingEvents`, clause by clause. -/
theorem witness_PagingEvents_good : checks blockTag false = true ∧ crc64 (Mem.read base.mem placedPage 4096) = [blockTag].getD 0 0 := ⟨by decide +kernel, rfl⟩

/-- States and operands that meet the hypotheses of `Obligations.PagingEvents`, clause by clause. -/
theorem witness_PagingEvents_bad (bad : Bool) :
    checks (blockTag + 1) bad = true ∧ crc64 (Mem.read base.mem placedPage 4096) ≠ [blockTag + 1].getD 0 0 :=
  ⟨by cases bad <;> decide +kernel, by
    intro h
    have g : blockTag = blockTag + 1 := h
    simp at g⟩

/-- States and operands that meet the hypotheses of `Obligations.EngineJobEvents`, clause by clause. -/
theorem witness_EngineJobEvents :
    (∀ ws ∈ ([
      [0x250F3AA1, 0x01108448], [0x25003AA5, 0x01000000], [0x00003AA6, 0x01000000, 0x87654321], [0x25003A99, 0x00000000], [0x00003A9A, 0x00000000, 0x87654321],
      [0x250F3B15, 0x00008448], [0x00003A91, 0x10008400], [0x25003A95, 0x53008400], [0x00003A96, 0x00000000, 0x87654321]] : List (List Word)), wordsFit base ws)
    ∧ (jobAt (job 5 (.copy ⟨.scratch, 0, 0, 0, 0, 0⟩ ⟨.global, 0, 0, 0, 0, 0⟩ 4 2 1 1 0 none false)) (fun j s => let c := collect (s.boxRead j ⟨.scratch, 0, 0, 0, 0, 0⟩ false 4 2 1) (s.boxPlace ⟨.global, 0, 0, 0, 0, 0⟩ 4 2 1) 8 0; c.2.isNone && !s.partialPoison (memCells c.1)))
    ∧ (jobAt (job 5 (.copy ⟨.scratch, 0, 0, 0, 0, 0⟩ ⟨.scratch, 64, 0, 0, 0, 0⟩ 16 1 1 1 0 none false)) (fun j s => s.grp.gid = j.gid && decide (0 < 16)))
    ∧ (jobAt (job 5 (.copy ⟨.scratch, 0, 0, 16, 0, 0⟩ ⟨.macro_ 7, 0, 0, 16, 0, 0⟩ 16 2 1 1 0 none true)) (fun j s => 7 < s.core.macros.length && s.grp.gid = j.gid && s.grp.placed && s.grp.dev = s.core.dev && s.grp.core = s.core.num && (s.core.tile (.macro_ 7)).claim = 0))
    ∧ (jobAt (job 5 (.gather 0 16 4 2 0 64)) (fun j s => (gatherRows s j 0 16 4 64 ((List.range 2).map (fun k => (k, ofBytes (s.jobScratch j (0 + 4 * k) 4))))).2.isNone))
    ∧ (jobOf (owns 7 1 base) (job 5 (.accz 7 true)) (fun j s => s.mayRun j && !j.moved && (s.core.pair 7).owner = j.gid && 7 < s.core.pairs.length && noSwap s))
    ∧ (jobAt (job 5 (.hada 64 32)) (fun _ _ => true))
    ∧ (jobOf (owns 0 1 (rowHolds 0 (macroHolds base))) (job 5 (.mmac 0 1 32 false)) (fun j s => s.mayRun j && !j.moved && decide (j.cast.length < 32)))
    ∧ (jobOf (owns 0 1 (rowHolds 0 (macroHolds base))) { job 5 (.mmac 0 1 1 false) with cast := [(0, 0, [])] } (fun j s => s.mayRun j && j.cast.length = 1 && noSwap s))
    ∧ (jobOf base { job 5 (.copy ⟨.scratch, 0, 0, 0, 0, 0⟩ ⟨.macro_ 0, 0, 0, 0, 0, 0⟩ 16 1 1 1 0 none false) with fo := some 0x101, moved := true, foDone := false } (fun j _ => j.fo = some 0x101 && j.moved && !j.foDone))
    ∧ (jobOf base { job 5 (.hada 64 1) with moved := true } (fun j _ => j.moved && j.foDone && j.failed = none && !j.resent && j.count = none))
    ∧ (jobOf base { job 5 (.hada 64 1) with moved := true, count := some 0 } (fun j s => j.moved && j.foDone && j.failed = none && !j.resent && j.count = some 0 && s.grp.gid = j.gid && s.grp.phases = j.phase))
    ∧ (jobOf base { job 5 (.hada 64 1) with failed := some (9, 5) } (fun j s => j.failed = some (9, 5) && j.seqr = none && s.twins j = [] && (s.jobVictim j).any (fun u => u.jobTrap = none && u.status = .ready)))
    ∧ (jobOf (owns 0 1 base) (job 5 (.accst 0 1 0 true 16 2 4 none ⟨0, []⟩)) (fun j s => s.mayRun j && !j.moved && (s.storeCells j 1 0 true 16 2 4 none ⟨0, []⟩).2.isNone && !s.partialPoison (memCells (s.storeCells j 1 0 true 16 2 4 none ⟨0, []⟩).1) && noSwap s && 0 < s.core.pairs.length && s.grp.phase ≠ .rollingBack))
    ∧ (jobOf (owns 0 1 base) { job 5 (.accst 0 1 0 true 16 2 4 none ⟨0, []⟩) with failed := some (9, 5) } (fun j s => j.failed = some (9, 5) && (s.core.pair 0).owner = j.gid && noSwap s && 0 < s.core.pairs.length && !(s.group? j.gid).any (fun g => g.phase = .rollingBack))) := by decide +kernel

/-- States and operands that meet the hypotheses of `Obligations.SequencerAndGrantEvents`, clause by clause. -/
theorem witness_SequencerAndGrantEvents :
    (∀ ws ∈ ([
      [0x250F3A81, 0x00000000], [0x000F3A82, 0x00000000, 0x87654321], [0x250F3AC9, 0x00000000], [0x000F3ACA, 0x00000000, 0x87654321], [0x00003AE1, 0x01008400]] : List (List Word)), wordsFit base ws)
    ∧ (descriptor 0 (seqr 0 false base))
    ∧ (descriptor 4 (pad 0 4 (seqr 0 false base)) && passed 0 (BitVec.ofNat 32 (Mem.nat (pad 0 4 base).grp.scratch 28 4)) && (Mem.nat (pad 0 4 base).grp.scratch 24 4 = 0) && (List.range 32).all (fun i => Mem.get (pad 0 4 base).grp.scratch (32 + i) = 0))
    ∧ (descriptor 1 (copyDescriptor base) && (copyDescriptor base).stored ⟨1, 0⟩ && !(copyDescriptor base).core.full && (let p := (copyDescriptor base).planCopy 0 0 0 ((List.range 10).map (fun i => BitVec.ofNat 32 (Mem.nat (copyDescriptor base).grp.scratch (24 + 4 * i) 4))) none; p.1 = [] && p.2.guard = none))
    ∧ ((((waitsAcca base).checkoutCore 0 0).checkoutDev 0).core.accaQ = [⟨1, 0⟩] && at1 (((waitsAcca base).checkoutCore 0 0).checkoutDev 0) (fun s2 => s2.thr.status = .waiting (.acca 8 6) && s2.running && s2.loggedTicket = none && s2.grp.tickets.length + (s2.tickets.filter (fun t => t.t.gid = s2.grp.gid)).length < 16 && s2.core.pairs.length = 8 && s2.core.runFree 0 8))
    ∧ ((((waitsFork base).checkoutCore 0 0).checkoutDev 0).core.forkQ = [⟨1, 0⟩] && at1 (((waitsFork base).checkoutCore 0 0).checkoutDev 0) (fun s2 => s2.thr.status = .waiting (.fork 128 6) && s2.running && s2.core.freeSeqr = some 0 && 0 < s2.core.seqrs.length))
    ∧ (at1 (waits .engine base) (fun s => s.thr.status = .waiting .engine && s.thr.due = none && !s.core.full))
    ∧ (jobOf (page 2 0 1 0 (routed base)) (job 5 (.xfer true 0 0 4 0)) (fun j s1 => (packetsOf 0 4 0 4)[0]? = some (0, 4) && s1.mayRun j && !j.moved && j.packets = [] && (match s1.jobMap 0 true [2] with | .ok x => devOf x.key = 1 | _ => false) && (s1.dev? 1).answers && (s1.dev.forward 1 0).isSome && s1.poison = [])) := by decide +kernel

/-- States and operands that meet the hypotheses of `Obligations.RemoteAccessEvents`, clause by clause. -/
theorem witness_RemoteAccessEvents :
    (∀ k ∈ ([.load 4 false, .store 4 5, .atomic 0 1 1 0, .sync (.arrive 0 true), .sync (.await 1), .sync (.poll 1)] : List AccessKind),
      remoteAt (access base 7 k 1 (2 ^ 52) 0 true) (fun a s1 => !a.refused && oks (s1.raceRemote a) (fun _ => true) && !s1.tagBad a.key && !s1.poisoned a.key 16
        && s1.thr.status = .waiting (.remote 7) && s1.thr.pend.any (fun p => p.serial = 7)))
    ∧ (remoteAt { access base 7 (.load 4 false) 1 (2 ^ 52) 0 true with refused := true, waits := true } (fun a _ => a.refused && a.waits))
    ∧ ((lost base).inflight.any (fun a => a.serial = 7 && a.remote && a.sentAt + 50000 ≤ (lost base).now && a.refused)
        && at1 { lost base with inflight := [], drawn := (lost base).drawn + 1 } (fun s3 => s3.grp.phase = .running && s3.inflight = [] && (s3.groupThreads s3.grp.gid).all (fun u => u.region = none) && s3.grp.foreignBytes = [] && s3.grp.gid ≠ 0
          && s3.grp.shadow = 0 && s3.shadowsOf s3.grp.gid = [] && !s3.core.storeHolds s3.grp.gid))
    ∧ (let s : State := { lost base with inflight := (lost base).inflight.map (fun a => { a with t := ⟨9, 0⟩ }) }
       s.inflight.any (fun a => a.serial = 7 && a.remote && a.sentAt + 50000 ≤ s.now && a.refused && ({ s with inflight := [], drawn := s.drawn + 1 }.focus a.t).isNone))
    ∧ (at1 (onThr (fun t => { t with markers := some (0, [(1, 0)]) }) (waits .resource (routed base))) (fun s => s.thr.status = .waiting .resource && s.thr.markers = some (0, [(1, 0)]) && (s.dev? 1).answers && s.dev.answers && (s.dev.forward 1 0).isSome && s.inflight = []))
    ∧ ((base.checkoutDev 0).dev.answers && decide (15 < 16))
    ∧ ((onPart (fun p => { p with tags := [(1, 2)] }) base).allParts.any (fun p => p.tags.contains (1, 2))) := by decide +kernel

/-- States and operands that meet the hypotheses of `Obligations.RegionEvents`, clause by clause. -/
theorem witness_RegionEvents :
    (at1 { regionAt base with devs := [{ Device.fresh 1 with ckState := 2 }] } (fun s => asked s && (s.dev? 1).ckState = 2))
    ∧ (at1 (classed (regionAt base)) (fun s => asked s && (s.dev? 1).ckState ≠ 2 && s.regionOf 1 = [sector] && s.regionDenied 1 sector)) := by decide +kernel

/-- States and operands that meet the hypotheses of `Obligations.RegionEvents`, clause by clause. -/
theorem witness_RegionEvents_raced :
    (at1 { regionAt base with locks := [(sector.sector, ⟨9, 0⟩)] } (fun s => asked s && (s.dev? 1).ckState ≠ 2 && s.regionOf 1 = [sector] && !s.regionDenied 1 sector && !s.regionRace sector && s.locks = [(sector.sector, ⟨9, 0⟩)] && s.thr.key = ⟨1, 0⟩))
    ∧ (at1 (onLau (fun l => { l with record := l.record.set 17 0x60, marks := [(0, 1, 0)] }) { regionAt base with stamps := [(sector.sector, stampOf 5 0 0 255 1)] })
        (fun s => asked s && (s.dev? 1).ckState ≠ 2 && s.regionOf 1 = [sector] && !s.regionDenied 1 sector && s.regionRace sector)) := by decide +kernel

/-- States and operands that meet the hypotheses of `Obligations.RegionEvents`, clause by clause. -/
theorem witness_RegionEvents_acknowledged :
    (at1 (regionAt base) (fun s => asked s && (s.dev? 1).ckState ≠ 2 && s.regionOf 1 = [sector] && !s.regionDenied 1 sector && !s.regionRace sector && s.locks = [] && !s.regionPoison sector))
    ∧ (at1 (onThr (fun t => { t with region := t.region.map (fun r => { r with acks := [1] }) }) (regionAt base)) (fun s => s.thr.status = .waiting .fcommit && s.thr.region.any (fun r => r.failed = 0 && r.acks = [1]) && s.regionDests = [1] && s.regionOf 1 = [sector] && s.grp.log.length < 256))
    ∧ (at1 (waits .fcommit (opened 4 base)) (fun s => s.thr.status = .waiting .fcommit && s.thr.region.any (fun r => r.failed ≠ 0 && !r.sent && r.saved = [(8, 5)]) && s.grp.log.length < 256))
    ∧ (at1 { regionAt base with now := 50000 } (fun s => s.thr.status = .waiting .fcommit && s.thr.region.any (fun r => r.failed = 0 && !r.sent && r.since + 50000 ≤ s.now && s.regionDests.any (fun d => !r.acks.contains d)))) := by decide +kernel

/-- States and operands that meet the hypotheses of `Obligations.ReductionAndCensusEvents`, clause by clause. -/
theorem witness_ReductionAndCensusEvents :
    (contributed [] base (fun c s1 => s1.fredReaches c && s1.dev.ckState ≠ 2 && s1.dev.reductions = [] && !s1.failedViews.contains (c.seq, c.view)))
    ∧ (contributed [] (onDev (fun d => { d with ckState := 2 }) base) (fun c s1 => s1.fredReaches c && s1.dev.reductions = [] && s1.dev.ckState = 2))
    ∧ (contributed [] { base with failedViews := [(0xFFFFFFFF, 0xFFFFFFFF)] } (fun c s1 => s1.fredReaches c && s1.dev.ckState ≠ 2 && s1.dev.reductions = [] && s1.failedViews.contains (c.seq, c.view)))
    ∧ (contributed (List.replicate 256 ⟨0, 0, [], none⟩) base (fun c s1 => s1.fredReaches c && s1.dev.ckState ≠ 2 && s1.dev.reductions.all (fun r => !r.owes c && !r.of c && r.dead.isNone) && 256 ≤ s1.dev.reductions.length))
    ∧ (contributed [⟨0, 0, [{ part0 with serial := 6 }], none⟩] base (fun c s1 => s1.fredReaches c && s1.dev.ckState ≠ 2 && !s1.failedViews.contains (c.seq, c.view) && s1.dev.reductions.all (fun r => !r.owes c && r.dead.isNone) && (s1.dev.reductions.find? (fun r => r.of c)).any (fun r => r.dead.isNone && r.parts.any (fun p => p.index = c.index && p.serial ≠ 7))))
    ∧ (contributed [⟨0, 0, [{ part0 with serial := 6, index := 1, count := 2 }], none⟩] base (fun c s1 => s1.fredReaches c && s1.dev.ckState ≠ 2 && !s1.failedViews.contains (c.seq, c.view) && s1.dev.reductions.all (fun r => !r.owes c && r.dead.isNone) && (s1.dev.reductions.find? (fun r => r.of c)).any (fun r => r.parts.any (fun p => !p.agrees c))))
    ∧ (contributed [⟨0, 0, [{ part0 with serial := 6, index := 1 }], none⟩] base (fun c s1 => s1.fredReaches c && s1.dev.ckState ≠ 2 && !s1.failedViews.contains (c.seq, c.view) && s1.dev.reductions.all (fun r => !r.owes c && r.dead.isNone) && (s1.dev.reductions.find? (fun r => r.of c)).any (fun r => r.parts.all (fun p => p.agrees c && p.index ≠ c.index) && ({ r with parts := r.parts ++ [c] } : Reduction).full && c.arrival = none && r.parts.all (fun p => p.serial ≠ 7) && c.parts.all (fun p => !s1.lockedIn p.1 p.2) && decide ((cellsOf c.parts (fredResult (r.parts ++ [c]) c)).Pairwise (fun p q => p.1 ≠ q.1)))))
    ∧ (contributedTo { part0 with count := 2 } [⟨0, 0, [{ part0 with serial := 6, index := 1, count := 2 }], none⟩] base (fun c s1 => s1.fredReaches c && s1.dev.ckState ≠ 2 && !s1.failedViews.contains (c.seq, c.view) && s1.dev.reductions.all (fun r => !r.owes c && r.dead.isNone) && (s1.dev.reductions.find? (fun r => r.of c)).any (fun r => r.parts.all (fun p => p.agrees c && p.index ≠ c.index) && !({ r with parts := r.parts ++ [c] } : Reduction).full)))
    ∧ (((onDev (fun d => { d with reductions := [⟨0, 0, [part0], none⟩] }) { base with now := 200000 }).checkoutDev 0).dev.reductions.any (fun r => r.dead.isNone && r.parts.any (fun p => p.id = 0 && p.view = 0xFFFFFFFF) && r.since + 200000 ≤ 200000))
    ∧ ((inSeq (fun q => { q with views := q.views.map (fun v => { v with state := .failed }) }) base).viewGone 5 1 && !base.failedViews.contains (5, 1))
    ∧ (counted.censuses.any (fun c => c.id = 0 && c.todo = [5]) && (let s1 := ((counted.checkoutCore 0 5).checkoutDev 0).checkoutPart 0 0; s1.part.pstat = 0 && !s1.part.broken && s1.dev.answers && s1.censuses.all (fun a => counted.censuses.all (fun c => !a.precedes c 0 5))))
    ∧ (let s : State := { base with censuses := (censused 1 base).censuses.map (fun c => { c with word := 64 }) }
       s.censuses.any (fun c => let s1 := s.checkoutDev c.dev; c.id = 0 && !s1.censusLost c && c.todo = [] && c.finished = c.spawned && s1.replies = [] && (s1.group? c.gid).isSome && decide (c.buf + 32 ≤ c.word)))
    ∧ (({ base with replies := [⟨7, 0, 0, 0, 0, 0⟩] } : State).replies.any (fun r => r.serial = 7)) := by decide +kernel

/-- States and operands that meet the hypotheses of `Obligations.ContentEvents`, clause by clause. -/
theorem witness_ContentEvents :
    (((onPart (fun p => { p with lines := p.lines.map (fun l => { l with interior := true, freed := true }) }) (stored base)).focusPart 0 0).part.lines.any (fun l => l.freed && l.interior && !l.walked))
    ∧ (((onPart (fun p => { p with lines := p.lines.map (fun l => { l with freed := true }) }) (stored base)).focusPart 0 0).part.lines.any (fun l => l.region = 0 && l.slot = 0 && l.freed && !l.interior))
    ∧ ((base.focusPart 0 0).part.used 15 = 0 ∧ 15 < 16)
    ∧ (((stored base).focusPart 0 0).part.used 0 ≠ 0) := by decide +kernel

/-- States and operands that meet the hypotheses of `Obligations.QueueEvents`, clause by clause. -/
theorem witness_QueueEvents :
    ((fun s => !late s 0 1 && s.part.pstat = 0) ((queue 2 0 0 base).focusPart 0 0))
    ∧ ((fun s => late s 0 5 && s.part.pstat = 0) ((queue 2 0 0 base).focusPart 0 0))
    ∧ ((fun s => late s 0 0xFFFFFFFF) ((queue 2 0 0 base).focusPart 0 0))
    ∧ (((onPart (fun p => { p with pstat := 1 }) base).focusPart 0 0).part.pstat ≠ 0)
    ∧ (accepts (queue 2 0 1 (recordAt placedRecord (entry 0x100 0 base))) (fun s k r => !entryBad (Mem.read s.mem k 64) && r.any (fun r => (Launch.submitted s.part.dev s.part.pid r 0 (.queue 0 0)).recordOk s.part none)))
    ∧ (accepts (queue 2 0 1 (recordAt [1] (entry 0x100 0 base))) (fun s k r => !entryBad (Mem.read s.mem k 64) && r.any (fun r => !(Launch.submitted s.part.dev s.part.pid r 0 (.queue 0 0)).recordOk s.part none)))
    ∧ (accepts (queue 2 0 1 (entry 0x10000 0 base)) (fun s k r => !entryBad (Mem.read s.mem k 64) && r.isNone))
    ∧ (accepts (queue 2 0 1 (entry 1 0 base)) (fun s k _ => entryBad (Mem.read s.mem k 64)))
    ∧ ((fun s => s.part.pstat = 0 && !s.part.broken && s.dev.answers && 0 < s.nextId && (Launch.submitted 0 0 placedRecord 0 .firmware).recordOk s.part none && !(Launch.submitted 0 0 [1] 0 .firmware).recordOk s.part none) (base.focusPart 0 0))
    ∧ ((fun s => s.deviceLaunches 0 0 < 4096 && s.part.pstat = 0 && (s.heldLaunches[(s.choose (s.heldLaunches.length + s.part.heldMailboxes.length)).1]?).isSome) ((onLau (fun l => { l with state := .submitted, source := .instr }) base).focusPart 0 0))
    ∧ ((fun s => s.deviceLaunches 0 0 < 4096 && s.part.pstat = 0 && s.heldLaunches = [] && (s.part.heldMailboxes[(s.choose (s.heldLaunches.length + s.part.heldMailboxes.length)).1]?).any (fun m => m.1 = 3 && m.2.held = [7] && (s.readRecord m.2.record.toNat).any (fun r => (Launch.submitted 0 0 r 7 (.mailbox 3 7)).recordOk s.part (some 3))) && 0 < s.nextId) ((mailed base).focusPart 0 0))
    ∧ ((lookup 3 ((mailed base).focusPart 0 0).part.mailboxes).isSome) := by decide +kernel

/-- States and operands that meet the hypotheses of `Obligations.LaunchStartEvents`, clause by clause. -/
theorem witness_LaunchStartEvents :
    ((launchAt 2 (launchIn .waiting [(36, 1), (145, 1), (151, 1)])).any (fun s => dueStart s && (List.range s.lau.deps).any (fun j => s.depState (s.lau.dep j) = .refused)))
    ∧ ((launchAt 2 (launchIn .waiting [(36, 1), (146, 1)])).any (fun s => dueStart s && (List.range s.lau.deps).map s.lau.dep = [(0x10000, 0)] && s.depState (0x10000, 0) = .fault 0))
    ∧ ((launchAt 2 (launchIn .waiting (gangRecord ++ [(36, 1)]))).any (fun s => dueStart s && s.lau.gang && (List.range s.lau.deps).all (fun j => s.depState (s.lau.dep j) = .passed)))
    ∧ ((launchAt 2 (launchIn .waiting [])).any (fun s => dueStart s && !s.lau.gang && !s.lau.isFabric && s.lau.deps = 0 && (s.newMarks s.lau [s.lau.dev]).isSome && 0 < s.nextId && !s.lau.outsideView [] 0 && s.lau.groupCount = 1))
    ∧ ((launchAt 2 (launchIn .preparing gangRecord)).any (fun s => s.lau.state = .preparing && s.lau.gang && !s.lau.sent && s.gangCtx = none))
    ∧ ((launchAt 2 (inSeq id (launchIn .preparing gangRecord))).any (fun s => s.lau.state = .preparing && s.lau.gang && !s.lau.sent && s.gangCtx.any (fun q => q.views.any View.live && q.cur.any (fun v => v.state = .current))))
    ∧ ((launchAt 2 (onLau (fun l => { l with sent := true, view := 1 }) (inSeq (fun q => { q with views := q.views.map (fun v => { v with state := .draining }) }) (launchIn .preparing gangRecord)))).any (fun s => s.lau.state = .preparing && s.lau.gang && s.lau.sent && s.gangCtx.any (fun q => (q.view? s.lau.view).any (fun v => v.state ≠ .current))))
    ∧ ((launchAt 2 (onLau (fun l => { l with sent := true, view := 1, acks := [0] }) (inSeq (fun q => { q with steps := [] }) (launchIn .preparing gangRecord)))).any (fun s => s.lau.state = .preparing && s.lau.gang && s.lau.sent && s.gangCtx.any (fun q => (q.view? s.lau.view).any (fun v => v.state = .current && v.members.all (fun d => s.lau.acks.contains d) && (s.newMarks s.lau v.members.dedup).isSome && !s.lau.outsideView v.members 0)) && 0 < s.nextId))
    ∧ ((launchAt 2 { onLau (fun l => { l with sent := true }) (launchIn .preparing gangRecord) with now := 100000 }).any (fun s => s.lau.state = .preparing && s.lau.gang && s.lau.sent && s.lau.sentAt + 100000 ≤ s.now))
    ∧ ((launchAt 2 (fabricIn .preparing)).any (fun s => s.lau.state = .preparing && s.lau.isFabric && !s.lau.sent))
    ∧ ((launchAt 2 (onLau (fun l => { l with sent := true, acks := [0] }) (fabricIn .preparing))).any (fun s => s.lau.state = .preparing && s.lau.isFabric && !s.lau.gang && s.lau.sent && s.fabricDevs s.lau = [0] && (s.fabricDevs s.lau).all (fun d => s.lau.acks.contains d) && (s.newMarks s.lau (s.fabricDevs s.lau)).isSome && 0 < s.nextId && s.lau.groupCount = 1 && !s.lau.outsideView [] 0))
    ∧ ((launchAt 2 { onLau (fun l => { l with sent := true }) (fabricIn .preparing) with now := 100000 }).any (fun s => s.lau.state = .preparing && !s.lau.gang && s.lau.sent && s.lau.sentAt + 100000 ≤ s.now)) := by decide +kernel

/-- States and operands that meet the hypotheses of `Obligations.LaunchEndEvents`, clause by clause. -/
theorem witness_LaunchEndEvents :
    ((launchAt 2 (onLau (fun l => { l with ended := [0] }) (fabricIn .running))).any (fun s => s.lau.isFabric && s.lau.state = .running && (s.fabricDevs s.lau).contains 0 && (s.dev? 0).answers && s.dev.answers && s.lau.reports = [] && s.endedOn s.lau 0 && !s.busyOn s.lau.lid 0))
    ∧ ((launchAt 2 { ended [] with inflight := [access base 7 (.load 4 false) 1 (2 ^ 52) 0 true] }).any (fun s => s.dev.answers && s.groupsOver s.lau && !s.awaitsRerun s.lau && s.lau.state = .running && !s.launchDrained s.lau))
    ∧ ((launchAt 2 (ended [])).any (fun s => s.dev.answers && s.groupsOver s.lau && !s.awaitsRerun s.lau && s.launchDrained s.lau && s.lau.state = .running && s.lau.doneWord = 0 && s.lau.completion = 0))
    ∧ ((launchAt 2 (onLau (fun l => { l with completion := 0x40 }) (ended []))).any (fun s => s.dev.answers && s.groupsOver s.lau && !s.awaitsRerun s.lau && s.launchDrained s.lau && s.lau.doneWord = 0 && 0 < s.lau.completion && s.lau.completion % 16 = 0 && (match s.writePlace s.lau.completion [0, 2, 5] with | .ok (some _) => true | _ => false)))
    ∧ ((launchAt 2 (ended [(248, 0x40)])).any (fun s => s.dev.answers && s.groupsOver s.lau && !s.awaitsRerun s.lau && s.launchDrained s.lau && s.lau.completion = 0 && (match s.writePlace s.lau.doneWord [0, 2, 5] with | .ok (some k) => (let w := (s.visit s.lau.doneWord true).syncWord (.mem k); w.tc ≤ w.tt) | _ => false)))
    ∧ ((launchAt 2 (ended [(250, 1)])).any (fun s => s.dev.answers && s.groupsOver s.lau && !s.awaitsRerun s.lau && s.launchDrained s.lau && (match s.writePlace s.lau.doneWord [0, 2, 5] with | .error k => k = 1 | _ => false)))
    ∧ ((launchAt 2 (onLau (fun l => { l with state := .completed, status := 4 }) base)).any (fun s => s.dev.answers && s.lau.state = .completed && s.lau.status = 4 && s.lau.completion = 0)) := by decide +kernel

/-- States and operands that meet the hypotheses of `Obligations.StepAndViewEvents`, clause by clause. -/
theorem witness_StepAndViewEvents :
    (seqAt (fun q => { q with steps := [⟨2, 1, true, [], true, none⟩] }) (fun q _ s => (q.step? 2).any (fun st => st.failed) && s.allParted 2 5))
    ∧ (seqAt (fun q => { q with lent := 15, steps := [⟨2, 1, true, List.replicate 15 7, false, none⟩], tailIds := [] }) (fun q _ s => (q.step? 2).any (fun st => !st.failed && st.rebuild = none && (q.view? st.view).isSome && (s.seqIds q).length = 4 * q.lenc && q.tailIds.length = q.lenc % 32 && (q.lenc + st.commits.length) / (s.seqCls q).block = q.lenc / (s.seqCls q).block && (q.lenc + st.commits.length) / 32 = q.lenc / 32) && s.allParted 2 5))
    ∧ (seqAt (fun q => { q with policyDue := true, tw := 1, lenc := 1, lent := 1 }) (fun q _ s => q.policyDue && q.succ = 0 && q.cur.any (fun v => v.state = .current && q.tw ≠ 0 && q.tw ≤ q.lenc && v.members.length < (s.seqCls q).maxWidth && min 2 (s.seqCls q).maxWidth = 2 && 2 ≤ (widthMembers v.members s.part.fabricList 2).length)))
    ∧ (seqAt (fun q => { q with policyDue := true, tn := 5, views := q.views.map (fun v => { v with members := [0, 1] }) }) (fun q _ s => q.policyDue && q.cur.any (fun v => v.state = .current && q.tw = 0 && q.tn ≠ 0 && q.lenc < q.tn && 1 < v.members.length && 1 ≤ (widthMembers v.members s.part.fabricList 1).length)))
    ∧ (seqAt (fun q => { q with policyDue := true }) (fun q _ _ => q.policyDue && q.succ = 0 && q.tw = 0 && q.tn = 0 && q.cur.any (fun v => v.state = .current)))
    ∧ (seqAt (forming .pending []) (fun q _ s => (q.view? 2).any (fun v => v.state = .pending && v.members = [0] && v.acks = [] && (s.dev? 0).answers && !(s.dev? 0).faulted)))
    ∧ (seqAt (fun q => { forming .pending [] q with views := { (forming .pending [] q).views.headD v0 with members := [0, 1] } :: q.views }) (fun q _ s => (q.view? 2).any (fun v => v.state = .pending && v.members = [0, 1] && v.acks = [] && (s.dev? 1).answers && !(s.dev? 1).faulted)))
    ∧ (seqAt (forming .pending []) (fun q _ s => (q.view? 2).any (fun v => v.state = .pending && v.sentAt = 0 && 100000 ≤ ({ s with now := 100000 } : State).now)))
    ∧ (seqAt (forming .transferring []) (fun q _ _ => (q.view? 2).any (fun v => v.state = .transferring && v.members.contains 0))) := by decide +kernel

/-- States and operands that meet the hypotheses of `Obligations.ViewChangeEvents`, clause by clause. -/
theorem witness_ViewChangeEvents :
    (((onLau (fun l => { l with sent := true, view := 1 }) (inSeq id (launchIn .preparing gangRecord))).launch? 2).any (fun l => l.state = .preparing && l.sent && l.gang && ((inSeq id base).viewMembers l.seqId l.view).contains 0))
    ∧ (((onLau (fun l => { l with sent := true }) (fabricIn .preparing)).launch? 2).any (fun l => l.state = .preparing && l.sent && !l.gang && ((fabricIn .preparing).fabricDevs l).contains 0))
    ∧ (seqAt (fun q => { forming .transferring [] q with views := { (forming .transferring [] q).views.headD v0 with transferred := false } :: q.views }) (fun q _ _ => (q.view? 2).any (fun v => v.state = .transferring && !v.transferred && q.succ = 2 && !v.survivor && v.snapshot = 0)))
    ∧ (seqAt (fun q => { forming .transferring [] q with views := { (forming .transferring [] q).views.headD v0 with transferred := false, snapshot := 16 } :: q.views }) (fun q _ s => (q.view? 2).any (fun v => v.state = .transferring && !v.transferred && q.succ = 2 && (s.seqCls q).block = 16 && s.reachesBlock q v 0 && (List.range 1).all (s.reachesBlock q v)
        && oks (s.placeBlock q (s.seqIds q) 0 v) (fun _ => true) && oks (placeBlocks q (s.seqIds q) (List.range 1) v s) (fun _ => true))))
    ∧ (seqAt (fun q => { forming .transferring [] q with views := { (forming .transferring [] q).views.headD v0 with caughtUp := false } :: q.views.map (fun v => { v with state := .draining }), steps := [] }) (fun q _ _ => (q.view? 2).any (fun v => v.state = .transferring && v.transferred && !v.caughtUp && q.succ = 2 && q.cur.any (fun o => v.pred = o.num && o.state = .draining && q.openOn o.num = 0) && q.lenc / 16 ≤ v.snapshot / 16 && v.members = [0])))
    ∧ (seqAt (fun q => { forming .transferring [3] q with views := (forming .transferring [3] q).views.headD v0 :: q.views.map (fun v => { v with state := .draining }), steps := [] }) (fun q _ _ => (q.view? 1).any (fun v => v.state = .draining && q.openOn 1 = 0 && q.next.any (fun w => w.caughtUp && w.pred = 1 && w.num ≠ 1 && w.lost ≠ []))))
    ∧ (seqAt (fun q => { forming .transferring [] q with views := (forming .transferring [] q).views.headD v0 :: q.views.map (fun v => { v with state := .draining }), steps := [] }) (fun q _ _ => (q.view? 1).any (fun v => v.state = .draining && q.openOn 1 = 0 && q.next.any (fun w => w.caughtUp && w.pred = 1 && w.num ≠ 1 && w.state = .transferring && w.transferred && w.lost = [] && w.run = none)))) := by decide +kernel

/-- States and operands that meet the hypotheses of `Obligations.FaultAndRebuildEvents`, clause by clause. -/
theorem witness_FaultAndRebuildEvents :
    (!((inSeq id base).dev? 1).faulted && ((inSeq id base).dev? 1).seqs = [] && ((inSeq id base).allDevs.flatMap Device.seqs).all (fun q => q.views.all (fun v => !v.members.contains 1)) && (inSeq id base).allGroups.all (fun g => g.gid = 0 || g.dev ≠ 1) && (inSeq id base).allLaunches.all (fun l => !l.isFabric))
    ∧ (seqAt (fun q => { q with views := q.views.map (fun v => { v with members := [0, 1] }) }) (fun q s0 _ => (s0.allDevs.flatMap Device.seqs).filter (fun q => q.views.any (fun v => v.live && v.members.contains 1)) = [q] && q.cur.any (fun v => v.members.filter (fun m => m ≠ 1 && !(s0.dev? m).faulted) = [0]) && s0.allGroups.all (fun g => g.gid = 0 || g.dev ≠ 1) && s0.allLaunches.all (fun l => !l.isFabric) && (s0.dev? 1).seqs = [] && seqHome 5 ≠ some 1 && !(s0.dev? 1).faulted))
    ∧ (!(({ base with devs := { Device.fresh 1 with unpowered := true } :: base.devs } : State).dev? 1).answers)
    ∧ (seqAt (fun q => { forming .transferring [0] q with views := { (forming .transferring [0] q).views.headD v0 with survivor := true } :: q.views }) (fun q _ s => q.next.any (fun v => v.survivor && v.state = .transferring && v.transferred && v.caughtUp && v.run = none && firstRun v.lost = some (0, 1) && (s.seqCls q).recov = 0x100 && (s.readRecord 0x100).any (fun bs => (Launch.submitted 0 0 bs 5 (.recompute 5 0 1)).recordOk s.part none && !(Launch.submitted 0 0 bs 5 (.recompute 5 0 1)).gang) && s.deviceLaunches 0 0 < 4096 && 0 < s.nextId)))
    ∧ (seqAt (fun q => { forming .transferring [0] q with views := { (forming .transferring [0] q).views.headD v0 with survivor := true, run := some ⟨0, 1, [0], 77, true⟩ } :: q.views }) (fun q _ s => q.next.any (fun v => v.survivor && v.run.any (fun r => r.lid ≠ 0 && s.launch? r.lid = none && !v.partRebuilt r (r.todo.headD 0) && r.failedOnce))))
    ∧ ((launchAt 2 (onLau (fun l => { l with ended := [0] }) (inSeq (fun q => { q with steps := [], reruns := [2] }) (launchIn .running gangRecord)))).any (fun s => s.lau.gang && (s.seqCtx s.lau.pid s.lau.seqId).any (fun q => q.reruns.contains 2 && q.cur.any (fun v => v.state = .current)) && s.groupsOver s.lau && s.launchDrained s.lau && 0 < s.nextId)) := by decide +kernel

/-- States and operands that meet the hypotheses of `Obligations.DeviceEvents`, clause by clause. -/
theorem witness_DeviceEvents :
    (!(base.checkoutDev 0).dev.stopped && !(base.checkoutDev 0).dev.unpowered)
    ∧ ((onDev (fun d => { d with flash := [(2, ⟨[], 0, false⟩)] }) base).dev.stageCause 2 = 3)
    ∧ (!(base.checkoutDev 0).dev.ready && (base.checkoutDev 0).dev.bootCause = 0)
    ∧ (((onDev (fun d => { d with ready := true }) base).checkoutDev 0).dev.ready && !((onDev (fun d => { d with ready := true }) base).checkoutDev 0).dev.trained)
    ∧ (decide (109 < 110 ∧ 110 ≤ 110)) := by decide +kernel

/-- States and operands that meet the hypotheses of `Obligations.AttestationEvents`, clause by clause. -/
theorem witness_AttestationEvents :
    ((session 0 none).dev.ready && !(session 0 none).dev.stopped && ((session 0 none).dev.session 0).stage = 0)
    ∧ (((session 1 none).dev.session 0).stage = 1)
    ∧ (((session 2 none).dev.session 0).stage = 2)
    ∧ (((session 3 none).dev.session 0).stage = 3 && ((session 3 none).dev.session 0).signed = none)
    ∧ (((session 3 (some [1])).dev.session 0).signed = some [1])
    ∧ ((onDev (fun d => { d with measures := [(1, [7])] }) (session 3 none)).dev.measures.filter (fun m => m.1 = 1) ≠ []) := by decide +kernel

/-- States and operands that meet the hypotheses of `Obligations.PartitionEvents`, clause by clause. -/
theorem witness_PartitionEvents :
    ((base.focusPart 0 31).dev.answers && (base.focusPart 0 31).part.pstat = 0 && !(base.focusPart 0 31).part.broken)
    ∧ ((5 : Word).toNat % 4 = 1 ∧ (0xFFFFFFFE : Word).toNat % 4 = 2)
    ∧ (((onPart (fun p => { p with pstat := 3 }) base).focusPart 0 0).part.pstat = 3 && ((onPart (fun p => { p with pstat := 3 }) base).focusPart 0 0).part.recorded = [])
    ∧ ((fun s => s.part.pstat = 1 && s.part.haltAt + 20000 ≤ s.now && s.partGids = [1] && (s.focusGroup 1).any (fun s1 => s1.grp.resident && s1.grp.phase = .running && s1.grp.gid = 1 && noSwap s1)) (({ onPart (fun p => { p with pstat := 1 }) base with now := 20000 } : State).focusPart 0 0))
    ∧ ((fun s => s.part.pstat = 1 && s.halted && s.allGroups.all (fun g => !g.placed)) ((onPart (fun p => { p with pstat := 1 }) { base with grp := Group.none }).focusPart 0 0))
    ∧ (((onPart (fun p => { p with pstat := 2 }) base).focusPart 0 0).part.pstat = 2) := by decide +kernel

/-- States and operands that meet the hypotheses of `Obligations.CheckpointEvents`, clause by clause. -/
theorem witness_CheckpointEvents :
    (((onDev (fun d => { d with ckState := 1 }) base).checkoutDev 0).dev.ckState = 1 && ((onDev (fun d => { d with ckState := 1 }) base).checkoutDev 0).dev.answers)
    ∧ ((base.checkoutDev 0).dev.answers && (base.checkoutDev 0).dev.ckState = 0 && (base.checkoutDev 0).dev.targets = [])
    ∧ (((targeted (4105 * 2 ^ 27 - 1)).dev.targets.find? (fun t => t.1 = 9)).any (fun t => t.2.1 < 4105 * 2 ^ 27))
    ∧ (((targeted (4105 * 2 ^ 27)).dev.targets.find? (fun t => t.1 = 9)).any (fun t => 4105 * 2 ^ 27 ≤ t.2.1) && (targeted (4105 * 2 ^ 27)).images = [])
    ∧ ((imaged.images.find? (fun i => i.target = 9 && i.dev = 0)).any (fun i => !i.marked && i.parts = [] && Memory.wf i.pages && i.pages.all (fun c => keyOn 0 c.1)) && imaged.dev.targets.any (fun t => t.1 = 9))
    ∧ ((targeted 0).dev.targets.length < 4)
    ∧ ((fun s => s.dev.ckTarget = some 9 && s.dev.ckState = 1 && s.quiet 0) resting)
    ∧ ((onDev (fun d => { d with ckState := 2 }) resting).dev.ckTarget = some 9 && (onDev (fun d => { d with ckState := 2 }) resting).dev.ckState = 2)
    ∧ (let s : State := { onDev (fun d => { d with ckState := 3, ckTarget := some 9 }) base with promoted := [⟨16, 9, [], [], [], false⟩] }
       (s.checkoutDev 0).dev.ckTarget = some 9 && (s.checkoutDev 0).unverified 0) := by decide +kernel

/-- States and operands that meet the hypotheses of `Obligations.WindowEvents`, clause by clause. -/
theorem witness_WindowEvents :
    ((base.focusPart 0 0).dev.answers && (base.focusPart 0 0).launching)
    ∧ (!(State.reset.focusPart 0 0).launching && (State.reset.focusPart 0 0).dev.answers)
    ∧ ((4 : Word).toNat % 32 = 4 ∧ (16 : Word).toNat % 32 = 16 ∧ (600 : Word).toNat % 4096 = 600 ∧ (2200 : Word).toNat % 4096 = 2200)
    ∧ (reach base && (base.focusPart 0 0).dev.ckState ≠ 2 && (base.focusPart 0 0).poison = [] && (base.focusPart 0 0).promoted = [] && (base.focusPart 0 0).locks = [])
    ∧ (let s := onDev (fun d => { d with ckState := 2 }) base
       reach s && (s.focusPart 0 0).dev.ckState = 2)
    ∧ (let s : State := { base with poison := [placedPage / 64] }
       reach s && (s.focusPart 0 0).poisoned placedPage 1)
    ∧ ((base.focusPart 0 0).windowByte 0x10000 = none)
    ∧ decide (2 ^ (base.focusPart 0 0).part.bar2 < 2 ^ 30 - 7 + 8) := by decide +kernel

/-- States and operands that meet the hypotheses of `Obligations.WindowEvents`, clause by clause. -/
theorem witness_WindowEvents_tag :
    (reach (promoted_ (blockTag + 1) [] false base) && (promoted_ (blockTag + 1) [] false base).poison = []
        && ((promoted_ (blockTag + 1) [] false base).focusPart 0 0).promoted.any (fun p => p.page = 16 && p.checked = [])
        && ((promoted_ (blockTag + 1) [] false base).focusPart 0 0).mem = base.mem) = true
    ∧ crc64 (Mem.read base.mem placedPage 4096) ≠ [blockTag + 1].getD 0 0 :=
  ⟨by decide +kernel, (witness_PagingEvents_bad false).2⟩

/-- States and operands that meet the hypotheses of `Obligations.GuardsAndBodies`, clause by clause. -/
theorem witness_GuardsAndBodies :
    (guardFalse (.movS ⟨0, false, 14, 15, 0⟩))
    ∧ (guardFalse (.exitS ⟨7, true, 0, 0, 0⟩)) := by decide +kernel

/-- States and operands that meet the hypotheses of `Obligations.IllegalInstructionTraps`, clause by clause. -/
theorem witness_IllegalInstructionTraps :
    ((trappable base).thr.status = .ready && (trappable base).illegalHere ({ lx 0 0 0 0 0 0 with m := 1 } |>.encL 0x08) = some (Encoding.detail 8 8 1 1) && canTrap (trappable base)) := by decide +kernel

/-- States and operands that meet the hypotheses of `Obligations.SoftwareAndAccessTraps`, clause by clause. -/
theorem witness_SoftwareAndAccessTraps :
    (fits (.trapS (sf 0 0 63)) (trappable base) (fun _ b => canTrap b))
    ∧ (fits (.trapL (lx 0 8 0 0 0 255)) (trappable base) (fun _ b => canTrap b))
    ∧ (fits (.trapX (lx 0 0 0 0 0 255 (some 0xFFFFFFFF))) (trappable base) (fun _ b => canTrap b))
    ∧ (fits (.brkS (sf 0 0 63)) (trappable base) (fun _ b => canTrap b))
    ∧ (fits (.brkL (lx 0 0 0 0 0 255)) (trappable base) (fun _ b => canTrap b))
    ∧ (fits (.ldLX (lx 6 8 0 0 1 0 (some 1))) (trappable base) (fun e b => canTrap b && (loadReq e b).va % (loadReq e b).size = 1))
    ∧ (fits (.stLX (lx 6 8 0 0 1 0 (some 0))) (regs [(9, 0x1000000)] (trappable base)) (fun e b => canTrap b && (storeReq e b).va = 2 ^ 56))
    ∧ (fits (.stS (sf 6 2 0)) (split (page 1 0 0 0 base)) (fun e b => canTrap b && (match b.translate (storeReq e b).va with | .ok l => l.cls = 1 | _ => false)))
    ∧ (fits (.ldS (sf 6 2 0)) (unreadable base) (fun e b => canTrap b && (match b.translate (loadReq e b).va with | .ok l => l.cls = 0 && !Pte.read l.entry | _ => false)))
    ∧ (fits (.ldf (lx 6 2 255 0 7 0)) (trappable base) (fun e b => canTrap b && (match b.translate (b.globalAddr e) with | .ok l => l.cls = 5 | _ => false)))
    ∧ (fits (.ldf (lx 6 2 255 0 7 0)) (split base) (fun e b => canTrap b && (match b.translate (b.globalAddr e) with | .ok l => l.cls = 0 && Pte.fmt l.entry = 0 | _ => false)))
    ∧ (fits (.ldsS (sf 6 2 0)) (onGrp (fun g => { g with scratchSize := 0 }) (trappable base)) (fun e b => canTrap b && b.scratchAddr e % memSize e = 0 && b.grp.scratchSize < b.scratchAddr e + memSize e))
    ∧ (fits (.stsLX (lx 6 8 0 0 1 0 (some 2))) (trappable base) (fun e b => canTrap b && b.scratchAddr e % memSize e ≠ 0)) := by decide +kernel

end Sys2Proof.Tests
end

section
/-!
PROOFS. Traps: what delivering a trap of the checked-out thread leaves, where it can be delivered (R84, R113, Table 5.10). A statement about an
instruction that traps follows from `deliverTrap_trapped`.
-/
namespace Sys2Proof.Claims
open Machine Bits Encoding

/-! ## Reading part of what was written -/

/-- Part of a written string is read back as that part of the string. -/
theorem read_write_slice (m : List Host.Cell) (k : Nat) (bs : List Byte) (o n : Nat) (h : o + n ≤ bs.length) :
    Mem.read (Mem.write m k bs) (k + o) n = (bs.drop o).take n := by
  apply List.ext_getElem
  · simp; omega
  · intro i hi _
    have hin : i < n := by simpa using hi
    have hread := Mem.read_getD (Mem.write m k bs) (k + o) n i 0 hin
    rw [List.getD_eq_getElem _ _ hi, Mem.get_write, if_pos (by omega), show k + o + i - k = o + i by omega,
      List.getD_eq_getElem _ _ (by omega)] at hread
    simp [hread]

/-- A number that stands in a written string at an offset is read back there. -/
theorem nat_write_slice (m : List Host.Cell) (k : Nat) (bs : List Byte) {o n v : Nat} (h : o + n ≤ bs.length)
    (hf : (bs.drop o).take n = toBytes n v) : Mem.nat (Mem.write m k bs) (k + o) n = v % 256 ^ n := by
  rw [Mem.nat, read_write_slice m k bs o n h, hf, ofBytes_toBytes]

/-! ## The trap record -/

theorem trapRecord_length (cause attempt : Nat) (d arg : Word) (pc meet : CodeAddr) (ws : List Word) (tid : Nat) :
    (trapRecord cause attempt d arg pc meet ws tid).length = 64 := by
  simp [trapRecord, SyncWord.bytes]

/-- What stands at each offset of the record (Table 5.10). -/
theorem trapRecord_fields (cause attempt : Nat) (d arg : Word) (pc meet : CodeAddr) (ws : List Word) (tid : Nat) :
    let r := trapRecord cause attempt d arg pc meet ws tid
    (r.drop 0).take 16 = SyncWord.bytes { bt := 0, bc := 0, tc := 0, tt := 1, gen := 0 } ∧ (r.drop 16).take 4 = toBytes 4 0xFFFFFFFF
    ∧ (r.drop 20).take 4 = toBytes 4 (min attempt 255 * 256 + cause) ∧ (r.drop 24).take 4 = toBytes 4 d.toNat
    ∧ (r.drop 28).take 4 = toBytes 4 arg.toNat ∧ (r.drop 32).take 8 = toBytes 8 pc.toNat ∧ (r.drop 40).take 8 = toBytes 8 meet.toNat
    ∧ (∀ i < 3, (r.drop (48 + 4 * i)).take 4 = toBytes 4 (ws.getD i 0).toNat) ∧ (r.drop 60).take 4 = toBytes 4 tid := by
  refine ⟨rfl, rfl, rfl, rfl, rfl, rfl, rfl, ?_, rfl⟩
  intro i hi
  match i, hi with
  | 0, _ => rfl
  | 1, _ => rfl
  | 2, _ => rfl

/-! ## What a trap leaves -/

/-- Nothing under way of the checked-out thread: nothing performs. -/
theorem performOwn_idle {s : State} (h : s.inflight.all (fun a => decide (a.t ≠ s.thr.key)) = true) : s.performOwn = (s, false) := by
  have hnone : s.inflight.find? (fun a => a.t = s.thr.key) = none := by
    rw [List.find?_eq_none]
    intro a ha
    simpa using List.all_eq_true.1 h a ha
  unfold State.performOwn
  cases s.inflight.length with
  | zero => rfl
  | succ n => simp only [performAll, hnone]

/-- A write outside every mailbox starts nothing. -/
theorem mailboxWrite_outside {s : State} {va : Nat} (h : s.part.mailboxOf va = none) : s.mailboxWrite va = s := by
  unfold State.mailboxWrite
  split
  · rfl
  · rw [h]

/-- The bits that `mark` sets are decided by memory and the partition alone. -/
theorem mark_mem_congr {s t : State} (va : Nat) (st : Bool) (x : Xlat) (hm : t.mem = s.mem) (hp : t.part = s.part) :
    (t.mark va st x).mem = (s.mark va st x).mem := by
  simp only [State.mark, hm, hp]
  split
  · exact hm
  · split
    · split
      · rfl
      · exact hm
    · exact hm

theorem touch_mem_congr {s t : State} (va : Nat) (st : Bool) (x : Xlat) (hm : t.mem = s.mem) (hp : t.part = s.part) :
    (t.touch va st x).mem = (s.touch va st x).mem :=
  mark_mem_congr va st x hm hp

@[simp] theorem touch_thr (va : Nat) (st : Bool) (x : Xlat) (s : State) : (s.touch va st x).thr = s.thr := by rw [touch_eq]
@[simp] theorem touch_grp (va : Nat) (st : Bool) (x : Xlat) (s : State) : (s.touch va st x).grp = s.grp := by rw [touch_eq]
@[simp] theorem touch_part (va : Nat) (st : Bool) (x : Xlat) (s : State) : (s.touch va st x).part = s.part := by rw [touch_eq]
@[simp] theorem touch_cycTrap (va : Nat) (st : Bool) (x : Xlat) (s : State) : (s.touch va st x).cycTrap = s.cycTrap := by rw [touch_eq]

section
variable {s : State} {va : Nat} {x : Xlat} (hsh : s.grp.shadow = 0) (hidle : s.inflight.all (fun a => decide (a.t ≠ s.thr.key)) = true)
  (hplace : s.trapPlace = some (va, x)) (hbox : s.part.mailboxOf va = none) (cause : Nat) (d arg : Word) (ws : List Word)
include hsh hidle hplace hbox

/-- A trap with a place for its record that is no mailbox: the record is written there, and the thread stands trapped at its instruction. -/
theorem takeTrap_leaves : let t := s.takeTrap cause d arg ws
    t.mem = Mem.write (s.touch va true x).mem x.key (trapRecord cause s.grp.attempt d arg s.thr.pc s.thr.meet ws s.thr.key.tid)
    ∧ t.thr = { s.thr with status := .trapped cause x.key, npc := s.thr.pc + BitVec.ofNat 48 (4 * max 1 ws.length), due := none }
    ∧ t.grp = { s.grp with trapped := true, sampled := false } ∧ t.cycTrap = s.packKey :: s.cycTrap := by
  simp only [State.takeTrap, hsh, performOwn_idle hidle, hplace, ne_eq, not_true_eq_false, if_false, Bool.false_eq_true]
  rw [mailboxWrite_outside]
  · refine ⟨rfl, ?_, ?_, ?_⟩
    · simp
    · simp [hsh]
    · simp [State.packKey, State.perform, State.clearPoison]
  · simpa [State.perform, State.clearPoison] using hbox

/-- Such a trap is taken as R84 says. -/
theorem takeTrap_trapped : Trapped cause d arg ws s (s.takeTrap cause d arg ws) := by
  obtain ⟨hmem, hthr, hgrp, hcyc⟩ := takeTrap_leaves hsh hidle hplace hbox cause d arg ws
  obtain ⟨fsync, fdisp, fcause, fd, farg, fpc, fmeet, fws, ftid⟩ :=
    trapRecord_fields cause s.grp.attempt d arg s.thr.pc s.thr.meet ws s.thr.key.tid
  have hlen := trapRecord_length cause s.grp.attempt d arg s.thr.pc s.thr.meet ws s.thr.key.tid
  have hpc : s.thr.pc.toNat < 256 ^ 8 := by have := s.thr.pc.isLt; omega
  have hmeet : s.thr.meet.toNat < 256 ^ 8 := by have := s.thr.meet.isLt; omega
  have field {o n v : Nat} (ho : o + n ≤ 64) (hf : ((trapRecord cause s.grp.attempt d arg s.thr.pc s.thr.meet ws s.thr.key.tid).drop o).take n = toBytes n v) :
      Mem.nat (s.takeTrap cause d arg ws).mem (x.key + o) n = v % 256 ^ n := by
    rw [hmem]; exact nat_write_slice _ _ _ (by omega) hf
  refine ⟨va, x, hplace, ?sync, field (by omega) fdisp, field (by omega) fcause, ?detail, ?arg, ?pc, ?meet, ?words, field (by omega) ftid,
    ?outside, ?status, ?atPc, ?npc, ?regs, ?flags, ?trapped, ?pack⟩
  case sync =>
    have hread := read_write_slice (s.touch va true x).mem x.key _ 0 16 (by rw [hlen]; decide)
    rw [Nat.add_zero, fsync] at hread
    rw [hmem, hread]
    decide
  case detail => exact (field (by omega) fd).trans (Nat.mod_eq_of_lt d.isLt)
  case arg => exact (field (by omega) farg).trans (Nat.mod_eq_of_lt arg.isLt)
  case pc => exact (field (by omega) fpc).trans (Nat.mod_eq_of_lt hpc)
  case meet => exact (field (by omega) fmeet).trans (Nat.mod_eq_of_lt hmeet)
  case words =>
    intro i hi
    rw [Nat.add_assoc]
    exact (field (by omega) (fws i hi)).trans (Nat.mod_eq_of_lt (ws.getD i 0).isLt)
  case outside =>
    intro a ha
    rw [hmem, Mem.get_write, if_neg (by omega)]
  case status => rw [hthr]
  case atPc => rw [hthr]
  case npc => rw [hthr]
  case regs => rw [SameRegs, hthr]; exact ⟨rfl, rfl, rfl⟩
  case flags => rw [SameFlags, FlagsAre, hthr]; exact ⟨rfl, rfl, rfl, rfl⟩
  case trapped => rw [hgrp]
  case pack => simp [hcyc]

end

/-- Where a trap can be delivered, delivering it is taking it. -/
theorem deliverTrap_trapped {s : State} (h : CanTrap s) (cause : Nat) (d arg : Word) (ws : List Word) :
    Trapped cause d arg ws s (s.deliverTrap cause d arg ws) := by
  obtain ⟨hnew, hsh, hidle, va, x, hplace, hbox⟩ := h
  have htrap : Trapped cause d arg ws s.issuedOne (s.issuedOne.takeTrap cause d arg ws) :=
    takeTrap_trapped (s := s.issuedOne) hsh hidle hplace hbox cause d arg ws
  have hdeliver : s.deliverTrap cause d arg ws = s.issuedOne.takeTrap cause d arg ws := by simp [State.deliverTrap, hnew]
  rw [hdeliver]
  obtain ⟨va, x, hplace, hsync, hdisp, hcause, hd, harg, hpc, hmeet, hws, htid, hout, hrest⟩ := htrap
  exact ⟨va, x, hplace, hsync, hdisp, hcause, hd, harg, hpc, hmeet, hws, htid,
    fun a ha => (hout a ha).trans (congrArg (Mem.get · a) (touch_mem_congr va true x rfl rfl)), hrest⟩

end Sys2Proof.Claims
end

section
/-!
PROOFS. A step and what it fetches (R20, R26): the agenda's event, the instruction at the PC of the thread voted for, and the two fetches that end
in ILLEGAL.
-/
namespace Sys2Proof.Claims
open Machine Bits Encoding

/-! ## Words of an instruction -/

/-- The form of the raw fields is the one that W0 selects. -/
theorem ofWords_form {w0 w1 w2 : Word} {e : Enc} (h : Encoding.ofWords w0 w1 w2 = some e) : formOf w0 = some e.form := by
  unfold Encoding.ofWords at h
  cases hf : formOf w0 with
  | none => simp [hf] at h
  | some f => cases f <;> (simp only [hf, Option.some.injEq] at h; subst h; rfl)

/-- A decoded instruction is as long as W0 says. -/
theorem lenOf_of_decodeWords {w0 w1 w2 : Word} {e : Enc} {i : Instr} (h : decodeWords w0 w1 w2 = .ok (e, i)) : lenOf w0 = some (len e) := by
  unfold decodeWords at h
  split at h
  · cases h
  · rename_i e' he
    split at h
    · cases h
    · split at h
      · cases h
        simp only [lenOf, ofWords_form he, Option.map_some]
        cases hf : e.form <;> simp [len, hf]
      · cases h

/-- A length that W0 asks for is that of a form. -/
theorem lenOf_form {w0 : Word} {n : Nat} (h : lenOf w0 = some n) :
    (formOf w0 = some .s ∧ n = 4) ∨ (formOf w0 = some .l ∧ n = 8) ∨ (formOf w0 = some .x ∧ n = 12) := by
  unfold lenOf at h
  cases hf : formOf w0 with
  | none => simp [hf] at h
  | some f => cases f <;> simp [hf] at h <;> simp [h]

/-- The raw fields of an S form do not read W1 and W2. -/
theorem ofWords_s {w0 : Word} (h : formOf w0 = some .s) (w1 w2 w1' w2' : Word) : Encoding.ofWords w0 w1 w2 = Encoding.ofWords w0 w1' w2' := by
  simp only [Encoding.ofWords, h]

/-- The raw fields of an L form do not read W2. -/
theorem ofWords_l {w0 : Word} (h : formOf w0 = some .l) (w1 w2 w2' : Word) : Encoding.ofWords w0 w1 w2 = Encoding.ofWords w0 w1 w2' := by
  simp [Encoding.ofWords, h]

/-- Decoding reads the raw fields alone. -/
theorem decodeWords_congr {w0 w1 w2 v0 v1 v2 : Word} (h : Encoding.ofWords w0 w1 w2 = Encoding.ofWords v0 v1 v2) :
    decodeWords w0 w1 w2 = decodeWords v0 v1 v2 := by
  unfold decodeWords; rw [h]

/-- The words past an instruction's length are not read: those fetched for it decode as three words from its address on do. -/
theorem decodeWords_fetched {f : Nat → Word} {n : Nat} (h : lenOf (f 0) = some n) :
    let ws := (List.range (n / 4)).map f
    decodeWords (ws.getD 0 0) (ws.getD 1 0) (ws.getD 2 0) = decodeWords (f 0) (f 1) (f 2) := by
  obtain ⟨hf, rfl⟩ | ⟨hf, rfl⟩ | ⟨hf, rfl⟩ := lenOf_form h
  · exact decodeWords_congr (ofWords_s hf 0 0 (f 1) (f 2))
  · exact decodeWords_congr (ofWords_l hf (f 1) 0 (f 2))
  · rfl

/-- The words fetched for an instruction are the first of three words from its address on. -/
theorem take_fetched {w0 : Word} {n : Nat} (h : lenOf w0 = some n) (f : Nat → Word) : ((List.range 3).map f).take (n / 4) = (List.range (n / 4)).map f := by
  obtain ⟨-, rfl⟩ | ⟨-, rfl⟩ | ⟨-, rfl⟩ := lenOf_form h <;> rfl

/-! ## What a fetch gives -/

theorem spans_eq_false {pc n : Nat} : spans pc n = false ↔ pc / 32 = (pc + n - 1) / 32 := by simp [spans]

section
variable {s : State} {x : Xlat} (hx : s.fetchAddr = .ok x)
include hx

/-- An instruction within its fetch block and free of poison is fetched. -/
theorem fetch_instr {e : Enc} {i : Instr} (hd : decodeWords (s.fetchWord x 0) (s.fetchWord x 1) (s.fetchWord x 2) = .ok (e, i))
    (hp : s.poisoned x.key (len e) = false) (hs : spans s.thr.pc.toNat (len e) = false) :
    s.fetch = .instr i (s.touch s.thr.pc.toNat false x) := by
  have hlen := lenOf_of_decodeWords hd
  have hws := decodeWords_fetched hlen
  simp only [hd] at hws
  simp only [State.fetch, hx, hlen, hp, hs, hws, Bool.false_eq_true, if_false]

/-- An instruction that spans a fetch boundary is ILLEGAL with cause 0x02 (R26). -/
theorem fetch_spanning {n : Nat} (hn : lenOf (s.fetchWord x 0) = some n) (hp : s.poisoned x.key n = false) (hs : spans s.thr.pc.toNat n = true) :
    s.fetch = .stopped ((s.touch s.thr.pc.toNat false x).deliverTrap causeIllegal (detail 2 ((s.fetchWord x 0).extractLsb' 2 8) 0 0) 0
      (((List.range 3).map (s.fetchWord x)).take (n / 4))) := by
  simp only [State.fetch, hx, hn, hp, hs, take_fetched hn, Bool.false_eq_true, if_false, if_true]

/-- A length field of 11 is ILLEGAL with cause 0x01 (R20). -/
theorem fetch_lengthless (hn : lenOf (s.fetchWord x 0) = none) :
    s.fetch = .stopped ((s.touch s.thr.pc.toNat false x).deliverTrap causeIllegal (detail 1 0 0 0) 0 [s.fetchWord x 0]) := by
  simp only [State.fetch, hx, hn]

end

/-! ## What a step does -/

/-- An event of the agenda happens before anything issues. -/
theorem step_event {s : State} {i : Instr} {es : List Instr} (ha : s.agenda = i :: es) (hi : i.enc? = none) :
    step s = exec i { s with agenda := es } := by
  simp only [step, ha, hi, Option.isSome_none, Bool.false_eq_true, if_false]

section
variable {s s0 : State} {k : ThreadKey} {pc : CodeAddr} {rest : List (ThreadKey × CodeAddr)} (ha : s.agenda = []) (hq : s.issueQ = (k, pc) :: rest)
  (h0 : ({ s with issueQ := rest } : State).atIssue k pc = some s0)
include ha hq h0

/-- With the agenda empty, the thread voted for executes what it fetches. -/
theorem step_fetched {i : Instr} {s1 : State} (hf : s0.fetch = .instr i s1) : step s = exec i s1 := by
  simp only [ha] at h0
  simp only [step, ha, hq, h0, hf]

/-- Where its fetch stops it, nothing executes. -/
theorem step_stopped {t : State} (hf : s0.fetch = .stopped t) : step s = .next t := by
  simp only [ha] at h0
  simp only [step, ha, hq, h0, hf]

end

/-- Settles O55: the agenda's event, else what the fetch at the PC gives: the instruction that three words from there decode to, or the trap. -/
theorem stepRunsFetched : Obligations.StepRunsFetched := by
  unfold Obligations.StepRunsFetched
  intro s k pc rest x s0
  refine ⟨fun i es ha hi => step_event ha hi, fun ha hq h0 hx => ⟨?decoded, ?spanning, ?lengthless⟩⟩
  case decoded =>
    intro e i hd hfits hp
    exact step_fetched ha hq h0 (fetch_instr hx hd hp (spans_eq_false.2 hfits))
  case spanning =>
    intro n hn hp hfits htrap
    have hs : spans s0.thr.pc.toNat n = true := Bool.eq_true_of_not_eq_false (fun h => hfits (spans_eq_false.1 h))
    exact ⟨_, step_stopped ha hq h0 (fetch_spanning hx hn hp hs), deliverTrap_trapped htrap _ _ _ _⟩
  case lengthless =>
    intro hn htrap
    exact ⟨_, step_stopped ha hq h0 (fetch_lengthless hx hn), deliverTrap_trapped htrap _ _ _ _⟩

end Sys2Proof.Claims
end

section
/-!
PROOFS. Numbers and bit vectors: the model computes on natural numbers of `w` bits, the statements speak of bit vectors. Each operation of the one is
tied here to that of the other (R68, R70, R72 to R74).
-/
namespace Sys2Proof.Claims
open Machine Bits Encoding

/-! ## Operands are within their width -/

theorem ofWords_lt (ws : List Word) : Bits.ofWords ws < 2 ^ (32 * ws.length) := by
  induction ws with
  | nil => simp [Bits.ofWords]
  | cons x xs ih =>
    have hx := x.isLt
    have hpow : 2 ^ (32 * (x :: xs).length) = 2 ^ 32 * 2 ^ (32 * xs.length) := by rw [← pow_add]; congr 1; simp; omega
    rw [Bits.ofWords, hpow]
    omega

@[simp] theorem readWords_length (s : State) (c : BitVec 8) (n : Nat) : (s.readWords c n).length = n := by
  induction n generalizing c with
  | zero => rfl
  | succ n ih => simp only [State.readWords]; split <;> simp [ih]

theorem readN_lt (s : State) (c : BitVec 8) (n : Nat) : s.readN c n < 2 ^ (32 * n) := by
  simpa [State.readN] using ofWords_lt (s.readWords c n)

/-- A type names one or two registers (R11). -/
theorem tw_cases (t : BitVec 4) : tw t = 1 ∨ tw t = 2 := by unfold tw; split <;> simp

theorem litVal_lt (e : Enc) (t : BitVec 4) : litVal e (tw t) < 2 ^ (32 * tw t) := by
  have hl := e.lit.isLt
  unfold litVal
  obtain ht | ht := tw_cases t <;> rw [ht] <;> split <;> omega

/-- What an operand of the operation's type reads lies within the operation's width. -/
theorem opA_lt (s : State) (e : Enc) : s.opA e (tw (opT e)) < 2 ^ opW e := readN_lt ..

theorem opB_lt (s : State) (e : Enc) : s.opB e (tw (opT e)) < 2 ^ opW e := by
  unfold State.opB; split
  · exact litVal_lt e (opT e)
  · exact readN_lt ..

theorem op1_lt (s : State) (e : Enc) : s.op1 e (tw (opT e)) < 2 ^ opW e := by
  unfold State.op1; split
  · exact litVal_lt e (opT e)
  · exact readN_lt ..

theorem opW_pos (e : Enc) : 0 < opW e := by
  unfold opW; have := tw_cases (opT e); omega

/-! ## Values -/

/-- The sign bit parts the `w`-bit numbers in two halves. -/
theorem two_pow_eq_halves {w : Nat} (hw : 0 < w) : 2 ^ w = 2 * 2 ^ (w - 1) := by rw [← pow_succ', Nat.sub_add_cancel hw]

section
variable {w : Nat} (hw : 0 < w)
include hw

/-- The two's-complement value of the model is that of the bit vector. -/
theorem sint_eq_toInt (v : Nat) : sint w v = (bv w v).toInt := by
  have hp := two_pow_eq_halves hw
  have hcond : v % 2 ^ w < 2 ^ (w - 1) ↔ 2 * (v % 2 ^ w) < 2 ^ w := by omega
  simp only [sint, hcond, bv, BitVec.toInt_eq_toNat_cond, BitVec.toNat_ofNat]

theorem topBit_eq_msb (v : Nat) : topBit w v = (bv w v).msb := by
  simp only [topBit, bit, bv, BitVec.msb_eq_getLsbD_last, BitVec.getLsbD_ofNat, Nat.sub_lt hw Nat.one_pos, decide_true, Bool.true_and]

end

/-- The `w`-bit encoding of an integer is that of the bit vector. -/
theorem wrapInt_eq_toNat (w : Nat) (v : Int) : wrapInt w v = (BitVec.ofInt w v).toNat := by
  simp [wrapInt]

/-- An operand that its type reads as signed. -/
theorem opInt_signed {e : Enc} (h : opSigned e = true) (v : Nat) : opInt e v = (bv (opW e) v).toInt := by
  rw [opInt, if_pos h, sint_eq_toInt (opW_pos e)]

/-- An operand that its type reads as unsigned. -/
theorem opInt_unsigned {e : Enc} (h : opSigned e = false) (v : Nat) : opInt e v = v := by simp [opInt, h]

/-! ## Sums and differences (R70) -/

theorem sum_toNat (w a b c : Nat) : (bv w a + bv w b + bv w c).toNat = (a + b + c) % 2 ^ w := by simp [bv, BitVec.toNat_add]

/-- The bit vector of a number within its width is zero, and has its top bit, where the number says so. -/
theorem ccFrom_toNat {w r : Nat} (hw : 0 < w) {x : BitVec w} (h : x.toNat = r) (c v : Bool) :
    packCC c (decide (r = 0)) (topBit w r) v = ccFrom c v x := by
  have hx : bv w r = x := by rw [← h]; exact BitVec.ofNat_toNat w x |>.trans (BitVec.setWidth_eq x)
  have hz : decide (r = 0) = (x == 0) := by rw [← h, Bool.eq_iff_iff]; simp [BitVec.toNat_eq]
  rw [ccFrom, topBit_eq_msb hw, hx, hz]

section
variable {w a b c : Nat} (hw : 0 < w) (ha : a < 2 ^ w) (hb : b < 2 ^ w) (hc : c ≤ 1)

include hw ha in
theorem topBit_eq_decide : topBit w a = decide (2 ^ (w - 1) ≤ a) := by
  rw [topBit_eq_msb hw, BitVec.msb_eq_decide, bv, BitVec.toNat_ofNat, Nat.mod_eq_of_lt ha]

include hw ha in
theorem toInt_eq_ite : (bv w a).toInt = if 2 ^ (w - 1) ≤ a then (a : Int) - (2 ^ w : Nat) else a := by
  rw [← sint_eq_toInt hw, sint, Nat.mod_eq_of_lt ha]
  simp only [← not_le, ite_not]

theorem overflows_eq_decide (w : Nat) (x : Int) :
    overflows w x = decide (x < -((2 ^ (w - 1) : Nat) : Int) ∨ ((2 ^ (w - 1) : Nat) : Int) ≤ x) := by
  rw [overflows]; push_cast; rfl

include ha hb hc

/-- A sum of two `w`-bit numbers and a carry wraps around at most once. -/
theorem sum_mod : (a + b + c) % 2 ^ w = if a + b + c < 2 ^ w then a + b + c else a + b + c - 2 ^ w := by
  split
  · exact Nat.mod_eq_of_lt ‹_›
  · rw [Nat.mod_eq_sub_mod (by omega), Nat.mod_eq_of_lt (by omega)]

/-- So does a difference with a borrow. -/
theorem subVal_eq_ite : subVal w a b c = if a < b + c then a + 2 ^ w - b - c else a - b - c := by
  have hp : 2 ^ (w + 1) = 2 ^ w + 2 ^ w := by rw [pow_succ]; omega
  unfold subVal
  split
  · rw [Nat.mod_eq_sub_mod (by omega), Nat.mod_eq_of_lt (by omega)]; omega
  · rw [show a + 2 ^ (w + 1) - b - c = a - b - c + 2 ^ w + 2 ^ w by omega, Nat.add_mod_right, Nat.add_mod_right, Nat.mod_eq_of_lt (by omega)]

include hw

theorem diff_toNat : (bv w a - bv w b - bv w c).toNat = subVal w a b c := by
  have hp : 2 ^ (w + 1) = 2 ^ w + 2 ^ w := by rw [pow_succ]; omega
  have h1 : 1 < 2 ^ w := Nat.one_lt_two_pow (by omega)
  simp only [bv, BitVec.toNat_sub, BitVec.toNat_ofNat, subVal, Nat.mod_eq_of_lt ha, Nat.mod_eq_of_lt hb, Nat.mod_eq_of_lt (show c < 2 ^ w by omega)]
  rw [Nat.add_mod_mod]
  congr 1; omega

/-- The V of a sum: the operands agree in sign and the result does not. -/
theorem sum_overflows : (topBit w a == topBit w b && topBit w ((a + b + c) % 2 ^ w) != topBit w a)
    = overflows w ((bv w a).toInt + (bv w b).toInt + c) := by
  rw [topBit_eq_decide hw ha, topBit_eq_decide hw hb, topBit_eq_decide hw (Nat.mod_lt _ (by positivity)), sum_mod ha hb hc,
    toInt_eq_ite hw ha, toInt_eq_ite hw hb, overflows_eq_decide]
  rw [two_pow_eq_halves hw] at ha hb ⊢
  generalize 2 ^ (w - 1) = p at ha hb ⊢
  rw [Bool.eq_iff_iff]
  simp only [Bool.and_eq_true, beq_iff_eq, bne_iff_ne, ne_eq, decide_eq_decide, decide_eq_true_eq]
  split_ifs <;> omega

/-- The V of a difference: the operands differ in sign and the result differs from the first. -/
theorem diff_overflows : (topBit w a != topBit w b && topBit w (subVal w a b c) != topBit w a)
    = overflows w ((bv w a).toInt - (bv w b).toInt - c) := by
  have hr : subVal w a b c < 2 ^ w := Nat.mod_lt _ (by positivity)
  rw [topBit_eq_decide hw ha, topBit_eq_decide hw hb, topBit_eq_decide hw hr, subVal_eq_ite ha hb hc,
    toInt_eq_ite hw ha, toInt_eq_ite hw hb, overflows_eq_decide]
  rw [two_pow_eq_halves hw] at ha hb ⊢
  generalize 2 ^ (w - 1) = p at ha hb ⊢
  rw [Bool.eq_iff_iff]
  simp only [Bool.and_eq_true, bne_iff_ne, ne_eq, decide_eq_decide, decide_eq_true_eq]
  split_ifs <;> omega

/-- The condition codes of a sum (R70). -/
theorem ccAdd_eq : ccAdd w a b c
    = ccFrom (decide (2 ^ w ≤ a + b + c)) (overflows w ((bv w a).toInt + (bv w b).toInt + c)) (bv w a + bv w b + bv w c) := by
  rw [← ccFrom_toNat hw (sum_toNat w a b c), ← sum_overflows hw ha hb hc]; rfl

/-- The condition codes of a difference (R70). -/
theorem ccSub_eq : ccSub w a b c
    = ccFrom (decide (a < b + c)) (overflows w ((bv w a).toInt - (bv w b).toInt - c)) (bv w a - bv w b - bv w c) := by
  rw [← ccFrom_toNat hw (diff_toNat hw ha hb hc), ← diff_overflows hw ha hb hc]; rfl

end

/-- A negation is the difference from zero. -/
theorem neg_toNat {w b : Nat} (hw : 0 < w) (hb : b < 2 ^ w) : (-(bv w b)).toNat = subVal w 0 b 0 := by
  rw [← diff_toNat hw (Nat.two_pow_pos w) hb (Nat.zero_le 1), show bv w 0 = 0#w from rfl, BitVec.zero_sub, BitVec.sub_zero]

theorem ccSub_zero {w b : Nat} (hw : 0 < w) (hb : b < 2 ^ w) :
    ccSub w 0 b 0 = ccFrom (decide (0 < b)) (overflows w (-(bv w b).toInt)) (-(bv w b)) := by
  rw [ccSub_eq hw (Nat.two_pow_pos w) hb (Nat.zero_le 1), show bv w 0 = 0#w from rfl, BitVec.zero_sub, BitVec.sub_zero, BitVec.toInt_zero,
    zero_sub, Nat.cast_zero, sub_zero, Nat.add_zero]

/-! ## Counts of bits (R72) -/

theorem bv_getLsbD {w i : Nat} (hi : i < w) (v : Nat) : (bv w v).getLsbD i = v.testBit i := by
  simp only [bv, BitVec.getLsbD_ofNat, hi, decide_true, Bool.true_and]

theorem bv_reverse_getLsbD {w i : Nat} (hi : i < w) (v : Nat) : (bv w v).reverse.getLsbD i = v.testBit (w - 1 - i) := by
  rw [BitVec.getLsbD_reverse, BitVec.getMsbD, bv_getLsbD (by omega)]; simp [hi]

theorem popcount_eq_countP_testBit (w v : Nat) : popcount w v = (List.range w).countP (fun i => v.testBit i) := by
  induction w generalizing v with
  | zero => rfl
  | succ w ih =>
    have hbit : v % 2 = if v.testBit 0 = true then 1 else 0 := by rw [Nat.testBit_zero]; split <;> simp_all
    rw [popcount, ih, List.range_succ_eq_map, List.countP_cons, List.countP_map, hbit, Nat.add_comm]
    simp only [Function.comp_def, Nat.succ_eq_add_one, Nat.testBit_succ]

theorem popcount_eq (w v : Nat) : popcount w v = (List.range w).countP (fun i => (bv w v).getLsbD i) := by
  rw [popcount_eq_countP_testBit]
  exact List.countP_congr (fun i hi => by rw [bv_getLsbD (List.mem_range.1 hi)])

theorem clz_eq {w : Nat} (hw : 0 < w) (v : Nat) : clz w v = (bv w v).clz.toNat := by
  have hv : (bv w v).toNat = v % 2 ^ w := BitVec.toNat_ofNat ..
  unfold clz
  split
  · next h0 =>
    have hz : bv w v = 0#w := by apply BitVec.eq_of_toNat_eq; rw [hv, h0]; simp
    rw [BitVec.clz_eq_iff_eq_zero.2 hz]; simp [Nat.mod_eq_of_lt Nat.lt_two_pow_self]
  · next h0 =>
    have hne : bv w v ≠ 0#w := fun h => h0 (by rw [← hv, h]; simp)
    have hlow := BitVec.two_pow_sub_clz_le_toNat_of_ne_zero hw hne
    have hhigh := BitVec.toNat_lt_two_pow_sub_clz (x := bv w v)
    have hlt : (bv w v).clz.toNat < w := by
      have := BitVec.lt_def.1 (BitVec.clz_lt_iff_ne_zero.2 hne)
      simpa [Nat.mod_eq_of_lt Nat.lt_two_pow_self] using this
    rw [hv] at hlow hhigh
    have hlog : Nat.log2 (v % 2 ^ w) = w - 1 - (bv w v).clz.toNat :=
      (Nat.log2_eq_iff h0).2 ⟨hlow, by rwa [show w - 1 - (bv w v).clz.toNat + 1 = w - (bv w v).clz.toNat by omega]⟩
    omega

/-- The zeros below the lowest one bit are counted. -/
theorem ctz_of_testBit {w v c : Nat} (hc : c ≤ w) (hlow : ∀ i < c, v.testBit i = false) (htop : c < w → v.testBit c = true) : ctz w v = c := by
  induction w generalizing v c with
  | zero => simp [ctz]; omega
  | succ w ih =>
    cases c with
    | zero => simpa [ctz, Nat.testBit_zero] using htop (by omega)
    | succ c =>
      have heven : ¬ v % 2 = 1 := by simpa [Nat.testBit_zero] using hlow 0 (by omega)
      have hrest : ctz w (v / 2) = c := ih (by omega) (fun i hi => by rw [← Nat.testBit_succ]; exact hlow _ (by omega))
        (fun h => by rw [← Nat.testBit_succ]; exact htop (by omega))
      rw [ctz, if_neg heven, hrest, Nat.add_comm]

theorem ctz_eq {w : Nat} (hw : 0 < w) (v : Nat) : ctz w v = (bv w v).ctz.toNat := by
  have hle : (bv w v).reverse.clz.toNat ≤ w := by
    simpa [BitVec.le_def, Nat.mod_eq_of_lt Nat.lt_two_pow_self] using BitVec.clz_le (x := (bv w v).reverse)
  have hdef : (bv w v).ctz = (bv w v).reverse.clz := rfl
  rw [hdef]
  refine ctz_of_testBit hle (fun i hi => ?low) (fun hlt => ?top)
  case low =>
    have hzero : (bv w v).reverse.getLsbD (w - 1 - i) = false :=
      Nat.testBit_lt_two_pow (lt_of_lt_of_le BitVec.toNat_lt_two_pow_sub_clz (Nat.pow_le_pow_right (by decide) (by omega)))
    rwa [bv_reverse_getLsbD (by omega), show w - 1 - (w - 1 - i) = i by omega] at hzero
  case top =>
    have hne : (bv w v).reverse ≠ 0#w :=
      BitVec.clz_lt_iff_ne_zero.1 (by simpa [BitVec.lt_def, Nat.mod_eq_of_lt Nat.lt_two_pow_self] using hlt)
    have hone := BitVec.getLsbD_true_clz_of_ne_zero hw hne
    rwa [bv_reverse_getLsbD (by omega), show w - 1 - (w - 1 - (bv w v).reverse.clz.toNat) = (bv w v).reverse.clz.toNat by omega] at hone

theorem brev_lt (w v : Nat) : brev w v < 2 ^ w := by
  induction w generalizing v with
  | zero => simp [brev]
  | succ w ih => have := ih (v / 2); have := Nat.mod_lt v (show 0 < 2 by decide); rw [brev, pow_succ]; nlinarith

/-- Each bit of a reversed number is the one at its mirror. -/
theorem brev_testBit (w v i : Nat) (hi : i < w) : (brev w v).testBit i = v.testBit (w - 1 - i) := by
  induction w generalizing v with
  | zero => omega
  | succ w ih =>
    rw [brev, mul_comm, Nat.testBit_two_pow_mul_add _ (brev_lt w _)]
    split
    · next h => rw [ih _ h, ← Nat.testBit_succ]; congr 1; omega
    · obtain rfl : i = w := by omega
      simp [Nat.testBit_zero]

theorem brev_eq (w v : Nat) : brev w v = (bv w v).reverse.toNat := by
  apply Nat.eq_of_testBit_eq
  intro i
  rw [BitVec.testBit_toNat]
  by_cases hi : i < w
  · rw [brev_testBit w v i hi, bv_reverse_getLsbD hi]
  · rw [Nat.testBit_lt_two_pow (lt_of_lt_of_le (brev_lt w v) (Nat.pow_le_pow_right (by decide) (by omega))), BitVec.getLsbD_of_ge _ _ (by omega)]

/-! ## Quotients and remainders (R73) -/

theorem divVal_zero (e : Enc) (a : Nat) : divVal e a 0 = 2 ^ opW e - 1 := rfl
theorem remVal_zero (e : Enc) (a : Nat) : remVal e a 0 = a := rfl

theorem wrapInt_ofNat {w n : Nat} (h : n < 2 ^ w) : wrapInt w (n : Int) = n := by
  unfold wrapInt; rw [Int.emod_eq_of_lt (by positivity) (by exact_mod_cast h)]; rfl

theorem divVal_unsigned {e : Enc} {a b : Nat} (ha : a < 2 ^ opW e) (hb : b ≠ 0) (h : opSigned e = false) : divVal e a b = a / b := by
  rw [divVal, if_neg hb, opInt_unsigned h, opInt_unsigned h, ← Int.ofNat_tdiv, wrapInt_ofNat (lt_of_le_of_lt (Nat.div_le_self a b) ha)]

theorem remVal_unsigned {e : Enc} {a b : Nat} (ha : a < 2 ^ opW e) (hb : b ≠ 0) (h : opSigned e = false) : remVal e a b = a % b := by
  rw [remVal, if_neg hb, opInt_unsigned h, opInt_unsigned h, ← Int.ofNat_tmod, wrapInt_ofNat (lt_of_le_of_lt (Nat.mod_le a b) ha)]

theorem divVal_signed {e : Enc} {a b : Nat} (hb : b ≠ 0) (h : opSigned e = true) :
    divVal e a b = ((bv (opW e) a).sdiv (bv (opW e) b)).toNat := by
  rw [divVal, if_neg hb, opInt_signed h, opInt_signed h, wrapInt_eq_toNat]
  congr 1
  apply BitVec.eq_of_toInt_eq
  rw [BitVec.toInt_ofInt, BitVec.toInt_sdiv]

theorem remVal_signed {e : Enc} {a b : Nat} (hb : b ≠ 0) (h : opSigned e = true) :
    remVal e a b = ((bv (opW e) a).srem (bv (opW e) b)).toNat := by
  rw [remVal, if_neg hb, opInt_signed h, opInt_signed h, wrapInt_eq_toNat, ← BitVec.toInt_srem, BitVec.ofInt_toInt]

end Sys2Proof.Claims
end

section
/-!
PROOFS. Integer arithmetic (R70, R72, R73): the shapes of an integer instruction's effect, and each operation's result as a bit vector.
-/
namespace Sys2Proof.Claims
open Machine Bits Encoding

/-! ## Shapes of effect -/

/-- The effect of `Does` may be restated state by state. -/
theorem Does.imp {i : Instr} {e : Enc} {s : State} {P Q : State → State → Prop} (h : Does i e s P) (hPQ : ∀ b t, P b t → Q b t) : Does i e s Q :=
  fun hr hq => let ⟨t, ht, hp⟩ := h hr hq; ⟨t, ht, hPQ _ t hp⟩

/-- A body that only delivers an ALU-pipe result: no flag differs. -/
theorem does_gives {i : Instr} {e : Enc} {s : State} {g : Bool} {body : Body} {n : Nat} {v : State → Nat} (hi : exec i s = s.issue g body e)
    (hb : ∀ b, body e b = .ok (b.putD e n (v b))) : Does i e s (fun b t => Gives e n (v b) b t) :=
  does_ok i hi _ (hb _) (fun hs hq => alu_put e s n _ _ _ _ _ hs hq rfl)

/-- A body that only leaves an ALU-pipe result pending. -/
theorem does_leaves {i : Instr} {e : Enc} {s : State} {g : Bool} {body : Body} {n : Nat} {v : State → Nat} (hi : exec i s = s.issue g body e)
    (hb : ∀ b, body e b = .ok (b.laterD e n (v b))) : Does i e s (fun b t => Leaves (aluPending e n (v b) 0 0 false false b) b t) :=
  does_ok i hi _ (hb _) (fun hs hq => later_leaves _ n 0 0 true false false false hs hq)

/-- Writing condition codes where cc = 1 changes them and the spin hash. -/
theorem withCC_eq (e : Enc) (v : BitVec 4) (s : State) :
    s.withCC e v = { s with thr := { s.thr with cc := ccOf e v s, spin := (s.withCC e v).thr.spin } } := by
  unfold State.withCC ccOf; split <;> rfl

/-- A two-source integer instruction delivers its result and, where asked, its condition codes. -/
theorem does_int2 {i : Instr} {e : Enc} {s : State} {f : Enc → State → Nat → Nat → Nat} {cc : Enc → State → Nat → Nat → BitVec 4}
    (hi : exec i s = s.issue false (bodyInt2 f cc) e) :
    Does i e s (fun b t => let x := b.opA e (tw (opT e)); let y := b.opB e (tw (opT e))
      Alu e (tw (opT e)) (f e b x y) (ccOf e (cc e b x y) b) b.thr.fp b.thr.sli b t) :=
  does_ok i hi _ rfl (fun hs hq => alu_put e s _ _ _ _ _ _ hs hq (withCC_eq ..))

/-- Without condition codes of its own, no flag differs. -/
theorem does_int2_gives {i : Instr} {e : Enc} {s : State} {f : Enc → State → Nat → Nat → Nat} (hi : exec i s = s.issue false (bodyInt2 f noCC) e) :
    Does i e s (fun b t => Gives e (tw (opT e)) (f e b (b.opA e (tw (opT e))) (b.opB e (tw (opT e)))) b t) :=
  (does_int2 hi).imp (fun b t h => by simpa [Gives, ccOf, noCC] using h)

/-! ## Sums and differences (R70, R72) -/

/-- The whole effect of a sum with carry `cin` in, as `w`-bit arithmetic gives it. -/
def SumOf (cin : State → Nat) (e : Enc) (s t : State) : Prop :=
  let w := opW e
  let a := s.opA e (tw (opT e))
  let b := s.opB e (tw (opT e))
  let r := bv w a + bv w b + bv w (cin s)
  Alu e (tw (opT e)) r.toNat
    (ccOf e (ccFrom (decide (2 ^ w ≤ a + b + cin s)) (overflows w ((bv w a).toInt + (bv w b).toInt + cin s)) r) s) s.thr.fp s.thr.sli s t

/-- The whole effect of a difference with borrow `bin` in. -/
def DiffOf (bin : State → Nat) (e : Enc) (s t : State) : Prop :=
  let w := opW e
  let a := s.opA e (tw (opT e))
  let b := s.opB e (tw (opT e))
  let r := bv w a - bv w b - bv w (bin s)
  Alu e (tw (opT e)) r.toNat
    (ccOf e (ccFrom (decide (a < b + bin s)) (overflows w ((bv w a).toInt - (bv w b).toInt - bin s)) r) s) s.thr.fp s.thr.sli s t

theorem carry_le_one (s : State) : s.carry ≤ 1 := by unfold State.carry ofBool; split <;> simp

section
variable {i : Instr} {e : Enc} {s : State}

theorem does_sum {cin : State → Nat} (hc : ∀ b, cin b ≤ 1)
    (hi : exec i s = s.issue false (bodyInt2 (fun e b x y => (x + y + cin b) % 2 ^ opW e) (fun e b x y => ccAdd (opW e) x y (cin b))) e) :
    Does i e s (SumOf cin e) :=
  (does_int2 hi).imp (fun b t h => by
    simpa only [SumOf, sum_toNat, ccAdd_eq (opW_pos e) (opA_lt b e) (opB_lt b e) (hc b)] using h)

theorem does_add (hi : exec i s = s.issue false bodyAdd e) : Does i e s (SumOf (fun _ => 0) e) := does_sum (fun _ => Nat.zero_le 1) hi
theorem does_addx (hi : exec i s = s.issue false bodyAddx e) : Does i e s (SumOf State.carry e) := does_sum carry_le_one hi

theorem does_diff {bin : State → Nat} (hc : ∀ b, bin b ≤ 1)
    (hi : exec i s = s.issue false (bodyInt2 (fun e b x y => subVal (opW e) x y (bin b)) (fun e b x y => ccSub (opW e) x y (bin b))) e) :
    Does i e s (DiffOf bin e) :=
  (does_int2 hi).imp (fun b t h => by
    simpa only [DiffOf, diff_toNat (opW_pos e) (opA_lt b e) (opB_lt b e) (hc b), ccSub_eq (opW_pos e) (opA_lt b e) (opB_lt b e) (hc b)] using h)

theorem does_sub (hi : exec i s = s.issue false bodySub e) : Does i e s (DiffOf (fun _ => 0) e) := does_diff (fun _ => Nat.zero_le 1) hi
theorem does_subx (hi : exec i s = s.issue false bodySubx e) : Does i e s (DiffOf State.carry e) := does_diff carry_le_one hi

theorem does_neg (hi : exec i s = s.issue false bodyNeg e) :
    Does i e s (fun s t =>
      let w := opW e
      let b := s.op1 e (tw (opT e))
      Alu e (tw (opT e)) (-(bv w b)).toNat (ccOf e (ccFrom (decide (0 < b)) (overflows w (-(bv w b).toInt)) (-(bv w b))) s) s.thr.fp s.thr.sli s t) := by
  refine does_ok i hi _ rfl (fun hs hq => ?_)
  simp only [← ccSub_zero (opW_pos e) (op1_lt _ e), neg_toNat (opW_pos e) (op1_lt _ e)]
  exact alu_put e s _ _ _ _ _ _ hs hq (withCC_eq ..)

end

/-! ## Products, orders, absolute values and counts (R72) -/

theorem LX.enc_opT (x : LX) (op : BitVec 8) : opT (x.enc op) = x.t := by unfold LX.enc; split <;> rfl
theorem LX.enc_t (x : LX) (op : BitVec 8) : (x.enc op).t = x.t := by unfold LX.enc; split <;> rfl
theorem LX.enc_c (x : LX) (op : BitVec 8) : (x.enc op).c = x.c := by unfold LX.enc; split <;> rfl

/-- The middle of three values by the order of the type. -/
theorem opInt_clamp (e : Enc) (a b c : Nat) :
    opInt e (let lo := if opInt e b < opInt e a then a else b; if opInt e lo < opInt e c then lo else c)
      = min (max (opInt e a) (opInt e b)) (opInt e c) := by
  simp only
  split_ifs <;> omega

/-- Registers of the result of `bitc`, by its c field: a reversal has the type's, a count has one. -/
def bitcWidth (e : Enc) : Nat := match e.c.toNat with | 0 => 1 | 1 => 1 | 2 => 1 | _ => tw e.t

/-- The result of `bitc` on a `w`-bit operand. -/
def bitcValue (e : Enc) (w a : Nat) : Nat :=
  match e.c.toNat with | 0 => popcount w a | 1 => clz w a | 2 => ctz w a | _ => brev w a

theorem bodyBitc_eq (e : Enc) (s : State) : bodyBitc e s = .ok (s.putD e (bitcWidth e) (bitcValue e (opW e) (s.op1 e (tw e.t)))) := by
  unfold bodyBitc bitcWidth bitcValue
  generalize e.c.toNat = k
  match k with
  | 0 | 1 | 2 | _ + 3 => rfl

section
variable {i : Instr} {e : Enc} {s : State} (ht : opT e = e.t)

include ht in
theorem does_mul (hi : exec i s = s.issue false bodyMul e) :
    Does i e s (fun s t => Gives e (tw e.t) (s.opA e (tw e.t) * s.opB e (tw e.t) % 2 ^ opW e) s t) := by
  simpa only [ht] using does_int2_gives hi

include ht in
theorem does_mulh (hi : exec i s = s.issue false bodyMulh e) :
    Does i e s (fun s t => Gives e (tw e.t)
      (BitVec.ofInt (opW e) (opInt e (s.opA e (tw e.t)) * opInt e (s.opB e (tw e.t)) / 2 ^ opW e)).toNat s t) := by
  simpa only [ht, wrapInt_eq_toNat] using does_int2_gives hi

include ht in
theorem does_min (hi : exec i s = s.issue false bodyMin e) :
    Does i e s (fun s t => Gives e (tw e.t)
      (if opInt e (s.opA e (tw e.t)) < opInt e (s.opB e (tw e.t)) then s.opA e (tw e.t) else s.opB e (tw e.t)) s t) := by
  simpa only [ht] using does_int2_gives hi

include ht in
theorem does_max (hi : exec i s = s.issue false bodyMax e) :
    Does i e s (fun s t => Gives e (tw e.t)
      (if opInt e (s.opA e (tw e.t)) > opInt e (s.opB e (tw e.t)) then s.opA e (tw e.t) else s.opB e (tw e.t)) s t) := by
  simpa only [ht] using does_int2_gives hi

theorem does_madw (hi : exec i s = s.issue false bodyMadw e) :
    Does i e s (fun s t => Gives e 2 (BitVec.ofInt 64 (opInt e (s.opA e 1) * opInt e (s.opB e 1) + s.opC e 2)).toNat s t) := by
  simpa only [wrapInt_eq_toNat] using does_gives hi (fun _ => rfl)

theorem does_clamp (hi : exec i s = s.issue false bodyClamp e) :
    Does i e s (fun s t => ∃ r, Gives e (tw e.t) r s t
      ∧ opInt e r = min (max (opInt e (s.opA e (tw e.t))) (opInt e (s.opB e (tw e.t)))) (opInt e (s.opC e (tw e.t)))) :=
  (does_gives hi (fun _ => rfl)).imp (fun _ _ h => ⟨_, h, opInt_clamp e ..⟩)

theorem does_abs (hi : exec i s = s.issue false bodyAbs e) :
    Does i e s (fun s t => Gives e (tw e.t) (BitVec.ofInt (opW e) |opInt e (s.op1 e (tw e.t))|).toNat s t) := by
  simpa only [wrapInt_eq_toNat, Int.natCast_natAbs] using does_gives hi (fun _ => rfl)

theorem does_bitc (hi : exec i s = s.issue false bodyBitc e) :
    Does i e s (fun s t =>
      let v := bv (opW e) (s.op1 e (tw e.t))
      (e.c = 0 → Gives e 1 ((List.range (opW e)).countP (fun i => v.getLsbD i)) s t)
      ∧ (e.c = 1 → Gives e 1 v.clz.toNat s t)
      ∧ (e.c = 2 → Gives e 1 v.ctz.toNat s t)
      ∧ (e.c = 3 → Gives e (tw e.t) v.reverse.toNat s t)) := by
  refine (does_gives hi (bodyBitc_eq e)).imp (fun b t h => ⟨fun hc => ?_, fun hc => ?_, fun hc => ?_, fun hc => ?_⟩)
  · simpa [bitcWidth, bitcValue, hc, popcount_eq] using h
  · simpa [bitcWidth, bitcValue, hc, clz_eq (opW_pos e)] using h
  · simpa [bitcWidth, bitcValue, hc, ctz_eq (opW_pos e)] using h
  · simpa [bitcWidth, bitcValue, hc, brev_eq] using h

/-! ## Division (R73) -/

include ht in
theorem does_div (hi : exec i s = s.issue false bodyDiv e) :
    let a := fun (s : State) => s.opA e (tw e.t)
    let b := fun (s : State) => s.opB e (tw e.t)
    Does i e s (fun s t => ∃ q, Leaves (aluPending e (tw e.t) q 0 0 false false s) s t
      ∧ (b s = 0 → q = 2 ^ opW e - 1)
      ∧ (b s ≠ 0 → opSigned e = false → q = a s / b s)
      ∧ (b s ≠ 0 → opSigned e = true → q = ((bv (opW e) (a s)).sdiv (bv (opW e) (b s))).toNat)) :=
  (does_leaves hi (fun _ => rfl)).imp (fun b t h => ⟨_, h, fun h0 => (congrArg _ h0).trans (divVal_zero e _),
    fun h0 hu => divVal_unsigned (by rw [← ht]; exact opA_lt b e) h0 hu, fun h0 hs => divVal_signed h0 hs⟩)

include ht in
theorem does_rem (hi : exec i s = s.issue false bodyRem e) :
    let a := fun (s : State) => s.opA e (tw e.t)
    let b := fun (s : State) => s.opB e (tw e.t)
    Does i e s (fun s t => ∃ r, Leaves (aluPending e (tw e.t) r 0 0 false false s) s t
      ∧ (b s = 0 → r = a s)
      ∧ (b s ≠ 0 → opSigned e = false → r = a s % b s)
      ∧ (b s ≠ 0 → opSigned e = true → r = ((bv (opW e) (a s)).srem (bv (opW e) (b s))).toNat)) :=
  (does_leaves hi (fun _ => rfl)).imp (fun b t h => ⟨_, h, fun h0 => (congrArg _ h0).trans (remVal_zero e _),
    fun h0 hu => remVal_unsigned (by rw [← ht]; exact opA_lt b e) h0 hu, fun h0 hs => remVal_signed h0 hs⟩)

end

/-! ## Settling the statement -/

/-- Settles O1: each operation's result on numbers is that of bit vectors. -/
theorem integerArithmetic : Obligations.IntegerArithmetic := by
  unfold Obligations.IntegerArithmetic
  refine ⟨fun x y s => ?sums, fun x s => ?products, fun x s => ?quotients⟩
  case sums => exact ⟨does_add rfl, does_add rfl, does_addx rfl, does_sub rfl, does_sub rfl, does_subx rfl, does_neg rfl, does_neg rfl⟩
  case products =>
    have ht (op : BitVec 8) : opT (x.enc op) = (x.enc op).t := by rw [LX.enc_opT, LX.enc_t]
    refine ⟨does_mul (ht _) rfl, does_mulh (ht _) rfl, does_gives rfl (fun _ => rfl), does_madw rfl, does_min (ht _) rfl, does_max (ht _) rfl,
      ?clamp, ?abs, ?bitc⟩
    case clamp => rw [← LX.enc_t x 0x1F]; exact does_clamp rfl
    case abs => rw [← LX.enc_t x 0x1C]; exact does_abs rfl
    case bitc => rw [← LX.enc_t x 0x1E, ← LX.enc_c x 0x1E]; exact does_bitc rfl
  case quotients =>
    have ht (op : BitVec 8) : opT (x.enc op) = (x.enc op).t := by rw [LX.enc_opT, LX.enc_t]
    refine ⟨?div, ?rem⟩
    case div => rw [← LX.enc_t x 0x18]; exact does_div (ht _) rfl
    case rem => rw [← LX.enc_t x 0x19]; exact does_rem (ht _) rfl

end Sys2Proof.Claims
end

section
/-!
PROOFS. The end of a thread (R8, R81): what ending the checked-out thread leaves of memory, of the thread itself and of the threads that have
already exited.
-/
namespace Sys2Proof.Claims
open Machine Bits Encoding

/-! ## Updates that spare the threads that have exited -/

/-- An update of threads that keeps their names, and of a thread that has exited changes at most the older uniform values it may read. -/
def SparesExited (f : Thread → Thread) : Prop := ∀ u, (f u).key = u.key ∧ (u.status = .exited → f u = { u with stale := (f u).stale })

/-- Memory is the same, and every thread is one that an update of `SparesExited` made. -/
def EndsOthers (s t : State) : Prop :=
  t.mem = s.mem ∧ ∃ f, SparesExited f ∧ t.thr = f s.thr ∧ t.threads = s.threads.map f

theorem SparesExited.of_fixed {f : Thread → Thread} (hk : ∀ u, (f u).key = u.key) (hf : ∀ u, u.status = .exited → f u = u) : SparesExited f :=
  fun u => ⟨hk u, fun hu => by rw [hf u hu]⟩

theorem sparesExited_id : SparesExited id := fun _ => ⟨rfl, fun _ => rfl⟩

theorem SparesExited.comp {f g : Thread → Thread} (hg : SparesExited g) (hf : SparesExited f) : SparesExited (g ∘ f) := by
  intro u
  refine ⟨(hg _).1.trans (hf u).1, fun hu => ?_⟩
  have h1 := (hf u).2 hu
  have h2 := (hg (f u)).2 (by rw [h1]; exact hu)
  rw [Function.comp_apply, h2, h1]

theorem EndsOthers.of_eq {s t : State} (hm : t.mem = s.mem) (ht : t.thr = s.thr) (hts : t.threads = s.threads) : EndsOthers s t :=
  ⟨hm, id, sparesExited_id, ht, by rw [hts, List.map_id]⟩

theorem EndsOthers.trans {s t u : State} (h1 : EndsOthers s t) (h2 : EndsOthers t u) : EndsOthers s u := by
  obtain ⟨hm, f, hf, ht, hts⟩ := h1
  obtain ⟨hm', f', hf', ht', hts'⟩ := h2
  exact ⟨hm'.trans hm, f' ∘ f, hf'.comp hf, by rw [ht', ht]; rfl, by rw [hts', hts, List.map_map]⟩

theorem endsOthers_refl (s : State) : EndsOthers s s := .of_eq rfl rfl rfl

theorem endsOthers_ite {c : Prop} [Decidable c] {s t : State} (h : EndsOthers s t) : EndsOthers s (if c then t else s) := by
  split
  · exact h
  · exact endsOthers_refl s

theorem endsOthers_mapThreads {f : Thread → Thread} (hf : SparesExited f) (s : State) : EndsOthers s (s.mapThreads f) :=
  ⟨rfl, f, hf, rfl, rfl⟩

theorem endsOthers_updGroup (gid : Nat) (f : Group → Group) (s : State) : EndsOthers s (s.updGroup gid f) := .of_eq rfl rfl rfl

theorem endsOthers_foldl {α : Type} {f : State → α → State} (hf : ∀ s a, EndsOthers s (f s a)) (l : List α) (s : State) : EndsOthers s (l.foldl f s) := by
  induction l generalizing s with
  | nil => exact endsOthers_refl s
  | cons a l ih => exact (hf s a).trans (ih _)

/-! ## Barrier words of the group (R117, R168, R170) -/

theorem endsOthers_putSync (gid off : Nat) (w : SyncWord) (held : Nat) (s : State) : EndsOthers s (s.putSync (.scratch gid off) w held) :=
  endsOthers_updGroup gid _ s

theorem endsOthers_advanceGen (lid dev : Nat) (s : State) : EndsOthers s (s.advanceGen lid dev) := by
  unfold State.advanceGen; split
  · exact endsOthers_refl s
  · exact .of_eq rfl rfl rfl

theorem endsOthers_advanceGens (lid dev n : Nat) (s : State) : EndsOthers s (s.advanceGens lid dev n) := by
  induction n generalizing s with
  | zero => exact endsOthers_refl s
  | succ n ih => exact (endsOthers_advanceGen lid dev s).trans (ih _)

theorem sparesExited_dropStale (gid : Nat) : SparesExited (fun t => if t.key.gid = gid then { t with stale := [] } else t) := by
  intro u; dsimp only; split <;> simp

theorem endsOthers_onComplete (gid off lid n : Nat) (s : State) : EndsOthers s (s.onComplete (.scratch gid off) lid n) := by
  simp only [State.onComplete]
  split
  · exact (endsOthers_ite (endsOthers_advanceGens ..)).trans
      ((endsOthers_updGroup gid _ _).trans (endsOthers_mapThreads (sparesExited_dropStale gid) _))
  · exact endsOthers_ite (endsOthers_advanceGens ..)

theorem satisfied_exited {t : Thread} (h : t.status = .exited) (loc : SyncLoc) (gen : Word) : t.satisfied loc gen = false := by
  simp [Thread.satisfied, h]

theorem waitsOn_exited {t : Thread} (h : t.status = .exited) (loc : SyncLoc) : t.waitsOn loc = false := by simp [Thread.waitsOn, h]

theorem sparesExited_wake (loc : SyncLoc) (gen : Word) (changed : Bool) (counts : Nat × Nat × Nat) (clk : Nat) :
    SparesExited (fun t => if t.satisfied loc gen then t.wake clk else if changed && t.waitsOn loc then t.recount counts clk else t) := by
  refine .of_fixed (fun u => ?_) (fun u hu => ?_)
  · split_ifs <;> rfl
  · simp [satisfied_exited hu, waitsOn_exited hu]

theorem endsOthers_wakeSync (loc : SyncLoc) (gen : Word) (changed : Bool) (counts : Nat × Nat × Nat) (s : State) :
    EndsOthers s (s.wakeSync loc gen changed counts) := by
  refine (endsOthers_mapThreads (sparesExited_wake loc gen changed counts s.dev.clk) s).trans (endsOthers_foldl (fun t g => ?_) _ _)
  split
  · exact .of_eq (by simp) (by simp) (by simp)
  · exact endsOthers_refl t

/-- Writing a barrier word back with its completions. -/
theorem endsOthers_complete (gid off lid : Nat) (w : SyncWord) (held n : Nat) (s : State) :
    EndsOthers s (if n = 0 then s.putSync (.scratch gid off) w held else (s.putSync (.scratch gid off) w held).onComplete (.scratch gid off) lid n) := by
  split
  · exact endsOthers_putSync ..
  · exact (endsOthers_putSync ..).trans (endsOthers_onComplete ..)

theorem endsOthers_lowerTarget (gid off lid : Nat) (last : Bool) (s : State) : EndsOthers s (s.lowerTarget gid off lid last) := by
  simp only [State.lowerTarget]
  exact (endsOthers_complete ..).trans (endsOthers_wakeSync ..)

/-! ## Gathers and the pool (R110, R122) -/

theorem gathersLane_exited {t : Thread} (h : t.status = .exited) (lane : Nat) : t.gathersLane lane = none := by simp [Thread.gathersLane, h]

/-- A gathering member of a pack that names a lane has XABSENT due (R81, R110). -/
def absentDue (k : ThreadKey) (t : Thread) : Thread :=
  if t.key.gid = k.gid ∧ t.key.tid / 32 = k.tid / 32 then
    match t.gathersLane (k.tid % 32) with
    | some mask => if t.due.isNone then { t with due := some (6, mask) } else t
    | none => t
  else t

theorem sparesExited_absentDue (k : ThreadKey) : SparesExited (absentDue k) := by
  refine .of_fixed (fun u => ?_) (fun u hu => ?_)
  · unfold absentDue; split
    · split
      · split <;> rfl
      · rfl
    · rfl
  · simp [absentDue, gathersLane_exited hu]

theorem endsOthers_poolChanged (gid : Nat) (s : State) : EndsOthers s (s.poolChanged gid) := by
  refine endsOthers_mapThreads (.of_fixed (fun u => ?_) (fun u hu => ?_)) s
  · split
    · split <;> rfl
    · rfl
  · simp [hu]

/-! ## The end of the checked-out thread -/

/-- The checked-out thread has exited, with nothing left of what it waited for, and is in no queue of its core (R81). -/
def withdrawn (s : State) : State :=
  { s with thr := { s.thr with status := .exited, pend := [], reply := [], due := none, region := none, jobTrap := none }, core := s.core.dequeue s.thr.key }

/-- What the end of a thread does beyond that is done to others, and the phase closes where nobody is left (R81). -/
theorem exitThread_eq (s : State) : ∃ t, EndsOthers (withdrawn s) t ∧ s.exitThread =
    if (t.liveThreads s.thr.key.gid).isEmpty then { t with grp := { t.grp with phase := .closing, closedAt := t.now } } else t := by
  refine ⟨_, ?_, rfl⟩
  have hbars : EndsOthers (withdrawn s) ((withdrawn s).grp.barriers.foldl
      (fun t off => t.lowerTarget s.thr.key.gid off t.lau.lid (t.liveThreads s.thr.key.gid).isEmpty) (withdrawn s)) :=
    endsOthers_foldl (fun t off => endsOthers_lowerTarget ..) _ _
  have hgathers := hbars.trans (endsOthers_mapThreads (sparesExited_absentDue s.thr.key) _)
  split
  · exact hgathers.trans (.trans (.of_eq rfl rfl rfl) (endsOthers_poolChanged ..))
  · exact hgathers

theorem mem_putThread {t u : Thread} {l : List Thread} : u ∈ putThread t l ↔ (t.key.gid ≠ 0 ∧ u = t) ∨ u ∈ l := by
  induction l with
  | nil => by_cases h0 : t.key.gid = 0 <;> simp [putThread, h0]
  | cons v vs ih =>
    by_cases h0 : t.key.gid = 0
    · simp [putThread, h0]
    · rw [putThread, if_neg h0]
      split
      · simp [h0]
      · simp [ih, h0, or_left_comm]

theorem mem_groupThreads {s : State} {gid : Nat} {u : Thread} :
    u ∈ s.groupThreads gid ↔ (s.thr.key.gid = gid ∧ s.thr.key.gid ≠ 0 ∧ u = s.thr) ∨ (u ∈ s.threads ∧ u.key.gid = gid) := by
  unfold State.groupThreads
  split
  · next h => simp [mem_putThread, h]
  · next h => simp [h]

/-- With every thread of a group exited, none of it is live. -/
theorem liveThreads_isEmpty {s : State} {gid : Nat} (ht : s.thr.status = .exited) (h : ∀ u ∈ s.threads, u.key.gid = gid → u.status = .exited) :
    (s.liveThreads gid).isEmpty = true := by
  rw [List.isEmpty_iff, State.liveThreads, List.filter_eq_nil_iff]
  intro u hu
  rcases mem_groupThreads.1 hu with ⟨-, -, rfl⟩ | ⟨hmem, hgid⟩
  · simp [ht]
  · simp [h u hmem hgid]

/-- The thread has exited, nothing of it is pending, and memory and its registers are as they were; with the last of its group the phase closes. -/
def Ends (s t : State) : Prop :=
  t.thr.key = s.thr.key ∧ t.thr.status = .exited ∧ t.thr.pend = [] ∧ t.thr.region = none ∧ t.mem = s.mem ∧ SameRegs s t
    ∧ (s.thr.key.gid = s.grp.gid → (∀ u ∈ s.threads, u.key.gid = s.grp.gid → u.status = .exited) → t.grp.phase = .closing)

theorem exitThread_ends (s : State) : Ends s s.exitThread := by
  obtain ⟨t, ⟨hmem, f, hf, hthr, hthreads⟩, heq⟩ := exitThread_eq s
  obtain ⟨l, hl⟩ : ∃ l, t.thr = { (withdrawn s).thr with stale := l } := ⟨_, hthr.trans ((hf _).2 rfl)⟩
  have hexit : s.exitThread.thr = { (withdrawn s).thr with stale := l } := by rw [heq]; split <;> exact hl
  have hmem' : s.exitThread.mem = s.mem := by rw [heq]; split <;> exact hmem
  refine ⟨?key, ?status, ?pend, ?region, hmem', ?regs, fun hgid hall => ?phase⟩
  case key => rw [hexit]; rfl
  case status => rw [hexit]; rfl
  case pend => rw [hexit]; rfl
  case region => rw [hexit]; rfl
  case regs => rw [SameRegs, hexit]; exact ⟨rfl, rfl, rfl⟩
  case phase =>
    have hempty : (t.liveThreads s.thr.key.gid).isEmpty = true := by
      refine liveThreads_isEmpty (by rw [hl]; rfl) (fun u hu hg => ?_)
      rw [hthreads] at hu
      obtain ⟨v, hv, rfl⟩ := List.mem_map.1 hu
      have hve : v.status = .exited := hall v hv (by rw [← (hf v).1, hg, hgid])
      rw [(hf v).2 hve]; exact hve
    rw [heq, if_pos hempty]

/-- What `retire` leaves of a thread that has ended. -/
theorem retire_exited {s s1 : State} (hk : s1.thr.key = s.thr.key) (hs : s1.thr.status = .exited) (hp : s1.thr.pend = []) :
    s.freshen.retire s1 = { s1 with thr := { s1.thr with
      released := false, aged := false, readySince := s1.dev.clk, progress := if s.thr.spin.low then s1.thr.progress else s1.dev.clk } } := by
  simp only [State.retire, hk, freshen_key, hs, ne_eq, not_true_eq_false, if_false]
  rw [Thread.shrink_quiet _ _ (by simp [hp]), freshen_spin]
  simp [hs, hk, hp]

theorem does_exit {i : Instr} {e : Enc} {s : State} {body : Body} (hi : exec i s = s.issue false body e)
    (hb : body e (atBody e s) = .ok (atBody e s).exitThread) : Does i e s Ends := by
  refine does_ok i hi _ hb (fun _ _ => ?_)
  have hends := exitThread_ends (atBody e s)
  generalize (atBody e s).exitThread = t at hends ⊢
  obtain ⟨hkey, hstatus, hpend, hregion, hmem, hregs, hphase⟩ := hends
  rw [retire_exited (hkey.trans (atBody_key e s)) hstatus hpend]
  exact ⟨hkey, hstatus, hpend, hregion, hmem, hregs, hphase⟩

/-- `ret` to address zero ends the thread (R79). -/
theorem bodyRet_zero {e : Enc} {s : State} (h : s.read32 (code e e.a) = 0) : bodyRet e s = .ok s.exitThread := if_pos h

end Sys2Proof.Claims
end

section
/-!
PROOFS. `exit`, `ret` to zero and `yield` (R8, R79, R81, R82, R101, R294).
-/
namespace Sys2Proof.Claims
open Machine Bits Encoding

/-! ## The state a body reads -/

/-- It differs from the one the instruction issued in by the PC, the noted words and the older uniform values alone. -/
theorem atBody_eq (e : Enc) (s : State) : atBody e s =
    { s with thr := { s.thr with pc := nextPc e s, instr := toWords e, stale := s.freshen.thr.stale }, drawn := s.freshen.drawn } := by
  unfold atBody; rw [freshen_eq]; rfl

@[simp] theorem atBody_pc (e : Enc) (s : State) : (atBody e s).thr.pc = nextPc e s := by rw [atBody_eq]
@[simp] theorem atBody_meet (e : Enc) (s : State) : (atBody e s).thr.meet = s.thr.meet := by rw [atBody_eq]
@[simp] theorem atBody_region (e : Enc) (s : State) : (atBody e s).thr.region = s.thr.region := by rw [atBody_eq]
@[simp] theorem atBody_dev (e : Enc) (s : State) : (atBody e s).dev = s.dev := by rw [atBody_eq]
@[simp] theorem atBody_threads (e : Enc) (s : State) : (atBody e s).threads = s.threads := by rw [atBody_eq]
theorem atBody_sameRegs (e : Enc) (s : State) : SameRegs s (atBody e s) := by rw [atBody_eq]; exact ⟨rfl, rfl, rfl⟩
theorem atBody_sameFlags (e : Enc) (s : State) : SameFlags s (atBody e s) := by rw [atBody_eq]; exact ⟨rfl, rfl, rfl, rfl⟩

theorem pcOf_atBody (e : Enc) (s : State) : pcOf e (atBody e s) = s.thr.pc := by
  simp [pcOf, nextPc]

/-- Whether a trap can be delivered does not depend on older uniform values. -/
theorem CanTrap.freshen {s : State} (h : CanTrap s) : CanTrap s.freshen := by rw [freshen_eq]; exact h

/-- A trap taken with older uniform values chosen is one of the state the instruction issued in. -/
theorem Trapped.of_freshen {cause : Nat} {d arg : Word} {ws : List Word} {s t : State} (h : Trapped cause d arg ws s.freshen t) :
    Trapped cause d arg ws s t := by
  obtain ⟨va, x, hplace, hsync, hdisp, hcause, hd, harg, hpc, hmeet, hws, htid, hout, hstatus, hat, hnpc, hregs, hflags, htrap, hpack⟩ := h
  rw [freshen_eq] at *
  exact ⟨va, x, hplace, hsync, hdisp, hcause, hd, harg, hpc, hmeet, hws, htid,
    fun a ha => (hout a ha).trans (congrArg (Mem.get · a) (touch_mem_congr va true x rfl rfl)), hstatus, hat, hnpc, hregs, hflags, htrap, hpack⟩

/-- A body that asks for a trap takes it, where one can be delivered. -/
theorem issue_traps {i : Instr} {e : Enc} {s : State} {g : Bool} {body : Body} {cause : Nat} {d arg : Word} (hi : exec i s = s.issue g body e)
    (hr : Ready e s) (hq : Quiet s) (hc : CanTrap s) (hb : body e (atBody e s) = .error (.trap cause d arg)) :
    ∃ t, exec i s = .next t ∧ Trapped cause d arg (toWords e) s t :=
  ⟨_, by rw [hi, issue_runs hr hq, run_error hb]; rfl, .of_freshen (deliverTrap_trapped hc.freshen ..)⟩

/-! ## Splits of a pack (R82, R101) -/

/-- Two states whose checked-out threads stand at one PC have the same other members of a pack at other PCs. -/
theorem mem_packThreads_congr {s t : State} (hpc : t.thr.pc = s.thr.pc) (hth : t.threads = s.threads) {gid pack : Nat}
    {u : Thread} (hu : u.pc ≠ s.thr.pc) : u ∈ t.packThreads gid pack ↔ u ∈ s.packThreads gid pack := by
  have hs : u ≠ s.thr := fun h => hu (by rw [h])
  have ht : u ≠ t.thr := fun h => hu (by rw [h, hpc])
  simp [State.packThreads, mem_groupThreads, hs, ht, hth]

theorem mem_otherSplits {s : State} {pc p : CodeAddr} : p ∈ s.otherSplits pc ↔
    ∃ u ∈ ({ s with thr := { s.thr with pc := pc } } : State).packThreads s.thr.key.gid (s.thr.key.tid / 32),
      u.status = .ready ∧ u.held = false ∧ u.pc = p ∧ p ≠ pc := by
  simp only [State.otherSplits, List.mem_dedup, List.mem_map, List.mem_filter, decide_eq_true_eq]
  constructor
  · rintro ⟨u, ⟨hu, hready, hheld, hpc⟩, rfl⟩
    exact ⟨u, hu, hready, by simpa using hheld, rfl, hpc⟩
  · rintro ⟨u, hu, hready, hheld, rfl, hpc⟩
    exact ⟨u, ⟨hu, hready, by simpa using hheld, hpc⟩, rfl⟩

/-- The splits a yielding thread waits for are those of its pack as it issues. -/
theorem mem_otherSplits_atBody {e : Enc} {s : State} {p : CodeAddr} : p ∈ (atBody e s).otherSplits s.thr.pc ↔
    ∃ u ∈ s.packThreads s.thr.key.gid (s.thr.key.tid / 32), u.status = .ready ∧ u.held = false ∧ u.pc = p ∧ p ≠ s.thr.pc := by
  rw [mem_otherSplits, atBody_key]
  refine exists_congr fun u => and_congr_left fun ⟨_, _, hp, hne⟩ => mem_packThreads_congr ?_ ?_ (by rwa [hp])
  · rfl
  · exact atBody_threads e s

/-! ## yield -/

/-- The thread waits for every other ready split of its pack, for at most 64 cycles; nothing else of its group differs (R82, R101). -/
def Yields (e : Enc) (s t : State) : Prop :=
  ∃ pcs, Waits (.yield pcs (s.dev.clk + 64)) (s.thr.pc + BitVec.ofNat 48 (len e)) s t ∧ t.mem = s.mem ∧ t.threads = s.threads ∧ t.grp = s.grp
    ∧ t.thr.meet = s.thr.meet
    ∧ ∀ p, p ∈ pcs ↔ ∃ u ∈ s.packThreads s.thr.key.gid (s.thr.key.tid / 32), u.status = .ready ∧ u.held = false ∧ u.pc = p ∧ p ≠ s.thr.pc

/-- What `yield` itself changes: the thread waits for the other splits. -/
def yielding (e : Enc) (s : State) : State :=
  { s with thr := { s.thr with status := .waiting (.yield (s.otherSplits (pcOf e s)) (s.dev.clk + 64)), waitSince := s.dev.clk } }

theorem bodyYield_waits {e : Enc} {s : State} (h : s.thr.region = none) : bodyYield e s = .ok (yielding e s) := by
  simp [bodyYield, h, yielding]

/-- Inside a region `yield` is ILLEGAL (R294). -/
theorem bodyYield_illegal {e : Enc} {s : State} {r : Region} (h : s.thr.region = some r) : bodyYield e s = .error (misuse12 e.op) := by
  simp [bodyYield, h]

theorem does_yield {i : Instr} {e : Enc} {s : State} (hi : exec i s = s.issue false bodyYield e) (hreg : s.thr.region = none) :
    Does i e s (fun _ t => Yields e s t) := by
  refine does_ok i hi _ (bodyYield_waits (by rw [atBody_region, hreg])) (fun _ hq => ?_)
  rw [retire_wait (s1 := yielding e (atBody e s)) (atBody_key e s) rfl (by simpa [yielding] using hq)]
  refine ⟨(atBody e s).otherSplits s.thr.pc, ⟨?status, rfl, atBody_pc e s, atBody_sameRegs e s, atBody_sameFlags e s⟩,
    atBody_mem e s, atBody_threads e s, atBody_grp e s, atBody_meet e s, fun p => mem_otherSplits_atBody⟩
  case status => simp only [yielding, pcOf_atBody, atBody_dev]

/-- An instruction that drains ends the windows of pending results, and with none arrived waits for them at issue (R27). -/
theorem issue_drains {body : Body} {e : Enc} {s : State} (hop : drains e.op = true) (hs : s.thr.status = .ready) (hill : s.illegalHere e = none)
    (hjob : s.thr.jobTrap = none) (hg : s.thr.guard e.g e.n = true) (hq : Quiet s) (hp : s.thr.pend ≠ []) :
    s.issue false body e = .next (({ s with thr := { s.thr with pend := s.thr.pend.map (fun p => { p with win := 0 }) } } : State).waitAt .interlock
      (toWords e)) := by
  have hend : s.thr.endWindows e = { s.thr with pend := s.thr.pend.map (fun p => { p with win := 0 }) } := by
    simp only [Thread.endWindows, endsWindow, hop, Bool.true_or, if_true]
    rw [Thread.flush_quiet _ _ _ (by simpa [List.all_map, Function.comp_def] using hq)]
    rfl
  have hlock : ({ s with thr := s.thr.endWindows e } : State).interlocked e = true := by
    simp [State.interlocked, Thread.interlocked, hend, hop, hp]
  have hwait : s.issue false body e = .next (({ s with thr := s.thr.endWindows e } : State).stop (toWords e) (.wait .interlock)) := by
    simp only [State.issue, hs, hill, hjob, hg, hlock, ne_eq, not_true_eq_false, Bool.not_true, Bool.and_false, Bool.false_eq_true, if_false, if_true]
  rw [hwait, hend]; rfl

/-- What an update of threads makes of a thread stands among the threads afterwards. -/
theorem mem_allThreads_mapThreads {f : Thread → Thread} {s : State} {t : Thread} (h : t ∈ s.allThreads) : f t ∈ (s.mapThreads f).allThreads := by
  simpa [State.allThreads, State.mapThreads] using List.mem_map_of_mem (f := f) h

/-- A yielding thread of the pack no longer waits for a split that has issued (R82). -/
theorem splitIssued_yielding {s : State} {k : ThreadKey} {pc : CodeAddr} {pcs : List CodeAddr} {til : Nat} {t : Thread} (ht : t ∈ s.allThreads)
    (hs : t.status = .waiting (.yield pcs til)) (hg : t.key.gid = k.gid) (hk : t.key.tid / 32 = k.tid / 32) :
    { t with status := .waiting (.yield (pcs.filter (fun p => p ≠ pc)) til) } ∈ (s.splitIssued k pc).allThreads := by
  unfold State.splitIssued
  convert mem_allThreads_mapThreads ht using 1
  simp [hs, hg, hk]

/-- A yield that is due ends: the thread is Ready past it (R82). -/
theorem endYield_due {s : State} {pcs : List CodeAddr} {til : Nat} (hrun : s.running = true) (hs : s.thr.status = .waiting (.yield pcs til))
    (hdue : pcs = [] ∨ til ≤ s.dev.clk) : endYield s = some { s with thr := s.thr.wake s.dev.clk } := by
  have hd : (pcs.isEmpty || decide (til ≤ s.dev.clk)) = true := by simpa [List.isEmpty_iff] using hdue
  simp only [endYield, hs, whenDue, hrun, hd, Bool.and_self, if_true]

theorem endYield_some {s t : State} (h : endYield s = some t) :
    s.running = true ∧ ∃ pcs til, s.thr.status = .waiting (.yield pcs til) ∧ (pcs = [] ∨ til ≤ s.dev.clk) := by
  unfold endYield at h
  split at h
  · next pcs til hs =>
    unfold whenDue at h
    split at h
    · next hd =>
      simp only [Bool.and_eq_true, Bool.or_eq_true, List.isEmpty_iff, decide_eq_true_eq] at hd
      exact ⟨hd.1, pcs, til, hs, hd.2⟩
    · cases h
  · cases h

/-- `yield` of either form: it waits for the other splits, or inside a region takes ILLEGAL. -/
theorem yield_yields {i : Instr} {e : Enc} {s : State} (hi : exec i s = s.issue false bodyYield e) (hop : e.op = 0x0B) :
    (s.thr.region = none → Does i e s (fun _ t => Yields e s t))
    ∧ (∀ r, s.thr.region = some r → Ready e s → Quiet s → CanTrap s →
        ∃ t, exec i s = .next t ∧ Trapped 1 (detail 0x12 0x0B 0 0) 0 (toWords e) s t) := by
  refine ⟨does_yield hi, fun r hreg hr hq hc => issue_traps hi hr hq hc ?_⟩
  rw [bodyYield_illegal (by rw [atBody_region, hreg]), hop]; rfl

/-! ## Settling the statement -/

/-- Settles O9: what an ended thread leaves of the others, and the splits for which a yielding one waits. -/
theorem endsAndYield : Obligations.EndsAndYield := by
  unfold Obligations.EndsAndYield
  refine ⟨fun x y s => ⟨?exitS, ?exitL, fun h0 => ?retS, fun h0 => ?retL⟩, fun x y s => ⟨?yieldS, ?yieldL, ?pendingS, ?pendingL, ?issued, fun k => ?ended⟩⟩
  case exitS => exact does_exit rfl rfl
  case exitL => exact does_exit rfl rfl
  case retS => exact does_exit rfl (bodyRet_zero h0)
  case retL => exact does_exit rfl (bodyRet_zero h0)
  case yieldS => exact yield_yields rfl rfl
  case yieldL => exact yield_yields rfl rfl
  case pendingS => exact fun hs hill hjob hg hq hp => issue_drains rfl hs hill hjob hg hq hp
  case pendingL => exact fun hs hill hjob hg hq hp => issue_drains rfl hs hill hjob hg hq hp
  case issued => exact fun k pc pcs til t ht hs hg hk => splitIssued_yielding ht hs hg hk
  case ended =>
    refine happensWhen_of endYield rfl (fun s1 _ hdue => ?due) (fun s1 _ hnot => ?undue)
    case due =>
      obtain ⟨hrun, pcs, til, hs, hend⟩ := hdue
      exact ⟨_, endYield_due hrun hs hend, rfl, rfl, ⟨rfl, rfl, rfl⟩, ⟨rfl, rfl, rfl, rfl⟩, rfl⟩
    case undue => exact Option.eq_none_iff_forall_ne_some.2 (fun t ht => hnot (endYield_some ht))

end Sys2Proof.Claims
end

section
/-!
PROOFS. Sequence contexts (R261): looking one up after a change of its home device, and what changing or destroying one leaves.
-/
namespace Sys2Proof.Claims
open Machine Bits Encoding

/-! ## Devices wherever they stand -/

theorem dev?_num (s : State) (d : Nat) : (s.dev? d).num = d := by
  unfold State.dev?
  cases h : s.allDevs.find? (fun c => c.num = d) with
  | none => rfl
  | some c => simpa using List.find?_some h

/-- A device that keeps its number is found as it was updated. -/
theorem dev?_updDev {f : Device → Device} (d : Nat) (s : State) (hf : ∀ v, (f v).num = v.num) : (s.updDev d f).dev? d = f (s.dev? d) := by
  have hnum : (f (s.dev? d)).num = d := by rw [hf, dev?_num]
  unfold State.updDev
  split
  · next h => simp [State.dev?, State.allDevs, hf, h]
  · next h =>
    generalize f (s.dev? d) = v at hnum
    simp [State.dev?, State.allDevs, h, hnum]

/-- The contexts of a device that they alone are changed of. -/
theorem seqs_updDev (g : List SeqCtx → List SeqCtx) (d : Nat) (s : State) :
    ((s.updDev d (fun v => { v with seqs := g v.seqs })).dev? d).seqs = g (s.dev? d).seqs :=
  congrArg Device.seqs (dev?_updDev (f := fun v => { v with seqs := g v.seqs }) d s (fun _ => rfl))

/-! ## Looking a context up (R261) -/

theorem seqHome_some {id : Word} {d : Nat} (h : seqHome id = some d) : d = field id.toNat 25 16 := by
  unfold seqHome at h
  split at h
  · exact (Option.some.inj h).symm
  · cases h

/-- A context found has the id and the partition asked for. -/
theorem seqCtx_some {s : State} {pid : Nat} {id : Word} {q : SeqCtx} (h : s.seqCtx pid id = some q) : q.id = id ∧ q.pid = pid := by
  unfold State.seqCtx at h
  split at h
  · cases h
  · simpa using List.find?_some h

/-- Contexts stand in devices alone: what changes no device changes none. -/
theorem seqCtx_congr {s t : State} (hdev : t.dev = s.dev) (hdevs : t.devs = s.devs) (hnow : t.now = s.now) (hfrac : t.nowFrac = s.nowFrac)
    (pid : Nat) (id : Word) : t.seqCtx pid id = s.seqCtx pid id := by
  have hdev? (d : Nat) : t.dev? d = s.dev? d := by simp only [State.dev?, State.allDevs, State.idleDev, hdev, hdevs, hnow, hfrac]
  simp only [State.seqCtx, hdev?]

/-- An update that keeps ids and partitions is seen by whoever looks the context up. -/
theorem seqCtx_updSeq {s : State} {pid : Nat} {id : Word} {q : SeqCtx} {f : SeqCtx → SeqCtx} (hf : ∀ q, (f q).id = q.id ∧ (f q).pid = q.pid)
    (h : s.seqCtx pid id = some q) : (s.updSeq id f).seqCtx pid id = some (f q) := by
  have hq := (seqCtx_some h).1
  unfold State.seqCtx State.updSeq at *
  cases hd : seqHome id with
  | none => simp [hd] at h
  | some d =>
    simp only [hd] at h ⊢
    have hkeeps : ((fun q => decide (q.id = id) && decide (q.pid = pid)) ∘ fun q => if q.id = id then f q else q)
        = fun q => decide (q.id = id) && decide (q.pid = pid) := by
      funext q
      by_cases hid : q.id = id <;> simp [hid, hf]
    rw [seqs_updDev, List.find?_map, hkeeps, h]
    simp [hq]

/-- Updating a context changes devices alone. -/
theorem updSeq_eq (id : Word) (f : SeqCtx → SeqCtx) (s : State) :
    s.updSeq id f = { s with dev := (s.updSeq id f).dev, devs := (s.updSeq id f).devs } := by
  unfold State.updSeq State.updDev
  split
  · rfl
  · split <;> rfl

@[simp] theorem updSeq_thr (id : Word) (f : SeqCtx → SeqCtx) (s : State) : (s.updSeq id f).thr = s.thr := by rw [updSeq_eq]
@[simp] theorem updSeq_grp (id : Word) (f : SeqCtx → SeqCtx) (s : State) : (s.updSeq id f).grp = s.grp := by rw [updSeq_eq]
@[simp] theorem updSeq_mem (id : Word) (f : SeqCtx → SeqCtx) (s : State) : (s.updSeq id f).mem = s.mem := by rw [updSeq_eq]
@[simp] theorem updSeq_core (id : Word) (f : SeqCtx → SeqCtx) (s : State) : (s.updSeq id f).core = s.core := by rw [updSeq_eq]

/-! ## Destroying a context (R280) -/

/-- Only partitions and devices differ: what references and slice pages are kept in. -/
def OnlyStores (s t : State) : Prop := t = { s with part := t.part, parts := t.parts, dev := t.dev, devs := t.devs }

theorem onlyStores_refl (s : State) : OnlyStores s s := rfl

theorem OnlyStores.trans {s t u : State} (h1 : OnlyStores s t) (h2 : OnlyStores t u) : OnlyStores s u := by
  unfold OnlyStores at *
  rw [h1] at h2
  exact h2

theorem onlyStores_foldl {α : Type} {f : State → α → State} (hf : ∀ s a, OnlyStores s (f s a)) (l : List α) (s : State) : OnlyStores s (l.foldl f s) := by
  induction l generalizing s with
  | nil => exact onlyStores_refl s
  | cons a l ih => exact (hf s a).trans (ih _)

theorem onlyStores_updDev (d : Nat) (f : Device → Device) (s : State) : OnlyStores s (s.updDev d f) := by
  unfold State.updDev; split <;> rfl

theorem onlyStores_refAt (d pid : Nat) (name : DWord) (up : Bool) (s : State) : OnlyStores s (s.refAt d pid name up) := by
  unfold State.refAt State.updPart; split <;> rfl

theorem onlyStores_dropPage (pid : Nat) (hs : List (Nat × SliceEntry)) (s : State) (pg : Nat × Nat) : OnlyStores s (State.dropPage pid hs s pg) := by
  simp only [State.dropPage]
  split
  · exact (onlyStores_updDev ..).trans (onlyStores_foldl (fun s h => onlyStores_refAt ..) _ _)
  · exact onlyStores_updDev ..

theorem onlyStores_settle (pid : Nat) (vs : List View) (keep : Option View) (s : State) : OnlyStores s (s.settle pid vs keep) := by
  simp only [State.settle]
  exact (onlyStores_foldl (fun s h => onlyStores_refAt ..) _ _).trans (onlyStores_foldl (fun s pg => onlyStores_dropPage ..) _ _)

/-- Giving tail memory back, and then leaving the home device, follow on dropping what the context holds. -/
theorem destroySeq_facts (q : SeqCtx) (s : State) :
    (s.destroySeq q).thr = s.thr ∧ (s.destroySeq q).grp = s.grp ∧ (s.destroySeq q).mem = s.mem.filter (fun c => tailSeq c.1 ≠ some q.id.toNat) := by
  have hdrop : OnlyStores s ((s.settle q.pid q.views none).refAt (field q.id.toNat 25 16) q.pid q.tokens false) :=
    (onlyStores_settle ..).trans (onlyStores_refAt ..)
  simp only [State.destroySeq, State.updDev_thr, State.updDev_grp, State.updDev_mem, State.dropTails]
  refine ⟨?_, ?_, ?_⟩ <;> rw [hdrop]

/-- The bytes of memory outside the tail memory of the context stay. -/
theorem destroySeq_get {q : SeqCtx} {s : State} {a : Nat} (ha : tailSeq a ≠ some q.id.toNat) : Mem.get (s.destroySeq q).mem a = Mem.get s.mem a := by
  obtain ⟨-, -, hmem⟩ := destroySeq_facts q s
  rw [hmem, Mem.get_filter s.mem (fun k => decide (tailSeq k ≠ some q.id.toNat)), if_pos (decide_eq_true ha)]

/-- A destroyed context is no longer found. -/
theorem destroySeq_seqCtx (q : SeqCtx) (s : State) (pid : Nat) : (s.destroySeq q).seqCtx pid q.id = none := by
  unfold State.seqCtx
  cases hd : seqHome q.id with
  | none => rfl
  | some d =>
    obtain rfl := seqHome_some hd
    simp only [State.destroySeq]
    rw [seqs_updDev, List.find?_eq_none]
    intro r hr
    have hne : r.id ≠ q.id := by simpa using (List.mem_filter.1 hr).2
    simp [hne]

end Sys2Proof.Claims
end

section
/-!
PROOFS. Interlocked instructions that answer in d (R27, R276): the reply, and the published write that gives it (R146).
-/
namespace Sys2Proof.Claims
open Machine Bits Encoding

/-- A word is the reply that its number stands for. -/
theorem words_ofWords_one (v : Word) : words 1 (ofWords [v]) = [v] := by
  rw [words_one]; congr 1; apply BitVec.eq_of_toNat_eq; simp [Bits.ofWords]

/-- The state with another checked-out thread. -/
def withThread (u : Thread) (t : State) : State := { t with thr := u }

@[simp] theorem withThread_thr (u : Thread) (t : State) : (withThread u t).thr = u := rfl
@[simp] theorem withThread_mem (u : Thread) (t : State) : (withThread u t).mem = t.mem := rfl
@[simp] theorem withThread_grp (u : Thread) (t : State) : (withThread u t).grp = t.grp := rfl
@[simp] theorem withThread_core (u : Thread) (t : State) : (withThread u t).core = t.core := rfl
@[simp] theorem withThread_seqCtx (u : Thread) (t : State) (pid : Nat) (id : Word) : (withThread u t).seqCtx pid id = t.seqCtx pid id :=
  seqCtx_congr rfl rfl rfl rfl pid id

/-- What `retire` leaves of an instruction that has answered in d: the thread waits for the reply, and nothing else differs. -/
theorem retire_replied {e : Enc} {s s1 : State} (n v : Nat) (hq : Quiet s) (hthr : s1.thr = (atBody e s).thr) :
    ∃ u, s.freshen.retire (s1.replyD e n v) = withThread u s1 ∧ Replied e (words n v) s (atBody e s) (withThread u s1) := by
  have hkey : s1.thr.key = s.thr.key := by rw [hthr, atBody_key]
  have hpend : s1.thr.pend = s.thr.pend := by rw [hthr, atBody_pend]
  refine ⟨_, retire_wait (w := .reply) hkey rfl (by simpa [State.replyD, hpend] using hq), ⟨rfl, rfl, ?npc, ?regs, ?flags⟩, ?pend, rfl⟩
  case npc => simp [withThread, State.replyD, hthr]
  case regs => simpa [withThread, SameRegs, State.replyD, hthr] using atBody_sameRegs e s
  case flags => simpa [withThread, SameFlags, FlagsAre, State.replyD, hthr] using atBody_sameFlags e s
  case pend => simp [withThread, State.replyD, hpend, shrunk]

/-- An instruction whose body ends in a reply leaves the thread waiting for it; of the rest, what the body made of it. -/
theorem does_replied {i : Instr} {e : Enc} {s s1 : State} {g : Bool} {body : Body} {n v : Nat} {P : State → State → Prop}
    (hi : exec i s = s.issue g body e) (hb : body e (atBody e s) = .ok (s1.replyD e n v)) (hthr : s1.thr = (atBody e s).thr)
    (hP : ∀ u, Replied e (words n v) s (atBody e s) (withThread u s1) → P (atBody e s) (withThread u s1)) : Does i e s P := by
  refine does_ok i hi _ hb (fun _ hq => ?_)
  obtain ⟨u, hu, hreply⟩ := retire_replied n v hq hthr
  rw [hu]
  exact hP u hreply

/-- An operation that asks to wait waits, on a first run. -/
theorem publish_waits {op addr : Nat} {operand : List Word} {act : State → Except Stop (List Word × State)} {s : State} {st : Stop} (h : FirstRun s)
    (ha : act s = .error st) : s.publish op addr operand act = .error st := by
  obtain ⟨hattempt, hroom⟩ := h
  simp [State.publish, State.logged, hattempt, ha, Nat.not_le.2 hroom]

/-- A state with a published write of the thread of `b` entered in the group's log (R146). -/
def withEntry (e : Enc) (addr : Nat) (operand ret : List Word) (b t : State) : State :=
  { t with grp := { t.grp with log := t.grp.log ++ [⟨b.thr.key.tid, pubOp e, addr, operand, ret, 0⟩] } }

section
variable (e : Enc) (addr : Nat) (operand ret : List Word) (b t : State)

@[simp] theorem withEntry_mem : (withEntry e addr operand ret b t).mem = t.mem := rfl
@[simp] theorem withEntry_thr : (withEntry e addr operand ret b t).thr = t.thr := rfl
@[simp] theorem withEntry_core : (withEntry e addr operand ret b t).core = t.core := rfl
@[simp] theorem withEntry_log : (withEntry e addr operand ret b t).grp.log = t.grp.log ++ [⟨b.thr.key.tid, pubOp e, addr, operand, ret, 0⟩] := rfl
@[simp] theorem withEntry_seqCtx (pid : Nat) (id : Word) : (withEntry e addr operand ret b t).seqCtx pid id = t.seqCtx pid id :=
  seqCtx_congr rfl rfl rfl rfl pid id

end

/-- The published write of a first run, as `publish_first` has it. -/
theorem publish_withEntry {e : Enc} {addr : Nat} {operand ret : List Word} {act : State → Except Stop (List Word × State)} {s s1 : State}
    (h : FirstRun s) (ha : act s = .ok (ret, s1)) : s.publish (pubOp e) addr operand act = .ok (ret, withEntry e addr operand ret s s1) :=
  publish_first h ha

/-- A published write that performs on a first run enters the log, and its answer is the reply. -/
theorem does_published {i : Instr} {e : Enc} {s s1 s2 : State} {g : Bool} {body : Body} {addr : Nat} {operand : List Word} {v : Word}
    {act : State → Except Stop (List Word × State)} {P : State → State → Prop} (hi : exec i s = s.issue g body e) (hrun : FirstRun s1)
    (hb : ∀ s3, s1.publish (pubOp e) addr operand act = .ok ([v], s3) → body e (atBody e s) = .ok (s3.replyD e 1 (ofWords [v])))
    (hact : act s1 = .ok ([v], s2)) (hthr1 : s1.thr = (atBody e s).thr) (hthr : s2.thr = s1.thr) (hlog : s2.grp.log = s1.grp.log)
    (hP : ∀ u, Replied e [v] s (atBody e s) (withThread u (withEntry e addr operand [v] s1 s2)) →
      Logged e addr operand [v] s1 (withThread u (withEntry e addr operand [v] s1 s2)) → P (atBody e s) (withThread u (withEntry e addr operand [v] s1 s2))) :
    Does i e s P := by
  refine does_replied hi (hb _ (publish_withEntry hrun hact)) (hthr.trans hthr1) (fun u hu => hP u ?_ (by simp [Logged, hlog]))
  rw [← words_ofWords_one v]
  exact hu

end Sys2Proof.Claims
end

section
/-!
PROOFS. `stepbeg`, `stepend`, `gview` and `gsetw` (R264 to R267, R277 to R280): what each answers, case by case, and what it changes.
-/
namespace Sys2Proof.Claims
open Machine Bits Encoding

/-! ## stepbeg (R266, R267, R277) -/

/-- The group is free or bound to the sequence (R277). -/
abbrev MayBind (sid : Word) (s : State) : Prop := s.grp.seq = 0xFFFFFFFF ∨ s.grp.seq = sid

theorem MayBind.not_other {sid : Word} {s : State} (h : MayBind sid s) : ¬(s.grp.seq ≠ 0xFFFFFFFF ∧ s.grp.seq ≠ sid) := fun ho => h.elim ho.1 ho.2

/-- A context with a new step of launch `lid` on view `v`, its `n` tokens appended (R266). -/
def withStep (lid n : Nat) (v : View) (run : Option (Nat × Nat)) (q : SeqCtx) : SeqCtx :=
  { q with lent := q.lent + n, steps := q.steps ++ [⟨lid, v.num, true, [], false, run⟩] }

/-- What the first `stepbeg` of the checked-out launch does at the gang manager: the step is open, and no group of the launch has ended its part in
it (R266). -/
def opened (sid : Word) (n : Nat) (v : View) (run : Option (Nat × Nat)) (s : State) : State :=
  (s.updSeq sid (withStep s.lau.lid n v run)).mapGroups
    (fun g => if g.lid = s.lau.lid then { g with partEnded := g.partEnded.filter (fun x => x ≠ sid) } else g)

/-- A sequence id that lies in 32 bits is logged as the register reads. -/
theorem ofNat_toNat_of_lt {n : Nat} (h : n < 2 ^ 32) : (BitVec.ofNat 32 n).toNat = n := by
  rw [BitVec.toNat_ofNat]; exact Nat.mod_eq_of_lt h

section
variable (sid : Word) (n : Nat) (v : View) (run : Option (Nat × Nat)) (s : State)

@[simp] theorem opened_thr : (opened sid n v run s).thr = s.thr := by simp [opened]
@[simp] theorem opened_mem : (opened sid n v run s).mem = s.mem := by simp [opened]
@[simp] theorem opened_core : (opened sid n v run s).core = s.core := by simp [opened]
@[simp] theorem opened_log : (opened sid n v run s).grp.log = s.grp.log := by
  simp only [opened, State.mapGroups, updSeq_grp]; split <;> rfl

end

theorem opened_seqCtx {sid : Word} {n : Nat} {v : View} {run : Option (Nat × Nat)} {s : State} {pid : Nat} {q : SeqCtx}
    (hq : s.seqCtx pid sid = some q) : (opened sid n v run s).seqCtx pid sid = some (withStep s.lau.lid n v run q) := by
  have hupd : (opened sid n v run s).seqCtx pid sid = (s.updSeq sid (withStep s.lau.lid n v run)).seqCtx pid sid := seqCtx_congr rfl rfl rfl rfl pid sid
  exact hupd.trans (seqCtx_updSeq (fun _ => ⟨rfl, rfl⟩) hq)

section
variable {sid : Word} {n : Nat} {s : State}

theorem stepBind_dead (h : s.seqCtx s.part.pid sid = none) : stepBind sid n s = .ok ([0xFFFFFFFE], s) := by
  simp only [stepBind, h]

variable {q : SeqCtx} (hq : s.seqCtx s.part.pid sid = some q) (hstep : q.step? s.lau.lid = none)
include hq hstep

theorem stepBind_waits (hv : s.viewForStep q = none) : stepBind sid n s = .error (.wait (.view sid)) := by
  simp only [stepBind, hq, hstep, hv]

variable {v : View} {run : Option (Nat × Nat)} (hv : s.viewForStep q = some (v, run))
include hv

theorem stepBind_failed (hf : v.state = .failed) : stepBind sid n s = .ok ([0xFFFFFFFF], s) := by
  simp only [stepBind, hq, hstep, hv, hf, if_true]

theorem stepBind_full (hf : v.state ≠ .failed) (hn : q.canAppend n = false) : stepBind sid n s = .ok ([0xFFFFFFFD], s) := by
  simp only [stepBind, hq, hstep, hv, hf, hn, if_false, Bool.not_false, if_true]

theorem stepBind_opens (hf : v.state ≠ .failed) (hn : q.canAppend n = true) : stepBind sid n s = .ok ([v.num], opened sid n v run s) := by
  simp only [stepBind, hq, hstep, hv, hf, hn, if_false, Bool.not_true, Bool.false_eq_true]
  rfl

end

section
variable {e : Enc} {s : State} {sid : Word} {n : Nat} (hsid : s.opA e 1 = sid.toNat) (hn : s.opB e 1 = n) (hseq : MayBind sid s)
include hsid hn hseq

/-- With its group free to bind the sequence, `stepbeg` answers what its published write does, and a view number binds the group. -/
theorem bodyStepbeg_ok {s1 : State} {v : Word} (hp : s.publish (pubOp e) sid.toNat (words 1 n) (stepBind sid n) = .ok ([v], s1)) :
    bodyStepbeg e s = .ok ((if v.toNat < 0xFFFFFFFD then s1.bindGroup sid v else s1).replyD e 1 (ofWords [v])) := by
  simp only [bodyStepbeg, hsid, hn, BitVec.ofNat_toNat, BitVec.setWidth_eq, if_neg hseq.not_other, hp]
  rfl

theorem bodyStepbeg_error {st : Stop} (hp : s.publish (pubOp e) sid.toNat (words 1 n) (stepBind sid n) = .error st) : bodyStepbeg e s = .error st := by
  simp only [bodyStepbeg, hsid, hn, BitVec.ofNat_toNat, BitVec.setWidth_eq, if_neg hseq.not_other, hp]

end

section
variable (sid view : Word) (s : State)

/-- Binding a group changes its own binding and what its core has cached (R266). -/
theorem bindGroup_grp : (s.bindGroup sid view).grp
    = { s.grp with seq := sid, view := view, partEnded := s.grp.partEnded.filter (fun x => x ≠ sid) } := by
  simp [State.bindGroup, State.updGroup, State.mapGroups]

@[simp] theorem bindGroup_seq : (s.bindGroup sid view).grp.seq = sid := by rw [bindGroup_grp]
@[simp] theorem bindGroup_view : (s.bindGroup sid view).grp.view = view := by rw [bindGroup_grp]
@[simp] theorem bindGroup_log : (s.bindGroup sid view).grp.log = s.grp.log := by rw [bindGroup_grp]
@[simp] theorem bindGroup_thr : (s.bindGroup sid view).thr = s.thr := rfl
@[simp] theorem bindGroup_mem : (s.bindGroup sid view).mem = s.mem := rfl
@[simp] theorem bindGroup_core : (s.bindGroup sid view).core = s.core.invalidate := rfl

@[simp] theorem bindGroup_seqCtx (pid : Nat) (id : Word) : (s.bindGroup sid view).seqCtx pid id = s.seqCtx pid id := seqCtx_congr rfl rfl rfl rfl pid id

end

section
variable {i : Instr} {e : Enc} {s : State} {sid : Word} {n : Nat} (hi : exec i s = s.issue false bodyStepbeg e)
  (hsid : (atBody e s).opA e 1 = sid.toNat) (hn : (atBody e s).opB e 1 = n) (hseq : MayBind sid (atBody e s)) (hrun : FirstRun (atBody e s))
include hi hsid hn hseq hrun

/-- A step that no view takes yet waits, with nothing performed (R267). -/
theorem does_stepbeg_waits (hbind : stepBind sid n (atBody e s) = .error (.wait (.view sid))) :
    Does i e s (fun _ t => t.thr.status = .waiting (.view sid) ∧ t.thr.pc = s.thr.pc ∧ SameRegs s t ∧ t.mem = s.mem) := by
  intro hr hq
  have hbody : bodyStepbeg e (atBody e s) = .error (.wait (.view sid)) :=
    bodyStepbeg_error hsid hn hseq (publish_waits hrun hbind)
  refine ⟨_, by rw [hi, issue_runs hr hq, run_error hbody], ?_⟩
  rw [freshen_eq]
  exact ⟨rfl, rfl, ⟨rfl, rfl, rfl⟩, rfl⟩

/-- An answer that is no view number binds and appends nothing. -/
theorem does_stepbeg_refused {v : Word} (hv : 0xFFFFFFFD ≤ v.toNat) (hbind : stepBind sid n (atBody e s) = .ok ([v], atBody e s)) :
    Does i e s (fun b t => Replied e [v] s b t ∧ Logged e (b.opA e 1) (words 1 n) [v] b t ∧ t.mem = b.mem ∧ t.dev = b.dev ∧ t.devs = b.devs) :=
  does_published hi hrun (fun _ hp => by rw [bodyStepbeg_ok hsid hn hseq hp, if_neg (Nat.not_lt.2 hv)]) hbind rfl rfl rfl
    (fun _ hreply hlog => ⟨hreply, by rwa [hsid], rfl, rfl, rfl⟩)

/-- The first `stepbeg` of a launch binds the group, which acquires, and opens the step with its tokens appended (R266). -/
theorem does_stepbeg_opens {q : SeqCtx} {v : View} {run : Option (Nat × Nat)} (hq : (atBody e s).seqCtx (atBody e s).part.pid sid = some q)
    (hstep : q.step? (atBody e s).lau.lid = none) (hv : (atBody e s).viewForStep q = some (v, run)) (hf : v.state ≠ .failed)
    (hroom : q.canAppend n = true) (hnum : v.num.toNat < 0xFFFFFFFD) :
    Does i e s (fun b t => Replied e [v.num] s b t ∧ Logged e (b.opA e 1) (words 1 n) [v.num] b t
      ∧ t.mem = b.mem ∧ t.grp.seq = sid ∧ t.grp.view = v.num ∧ t.core.lcache = b.core.invalidate.lcache
      ∧ t.seqCtx b.part.pid sid = some (withStep b.lau.lid n v run q)) := by
  have hbody := bodyStepbeg_ok hsid hn hseq (publish_withEntry hrun (stepBind_opens hq hstep hv hf hroom))
  rw [if_pos hnum] at hbody
  refine does_replied hi hbody (by simp) (fun u hu => ⟨words_ofWords_one v.num ▸ hu, ?logged, ?mem, ?seq, ?view, ?cache, ?ctx⟩)
  case logged => simp [Logged, hsid]
  case mem => simp
  case seq => simp
  case view => simp
  case cache => simp
  case ctx => simpa using opened_seqCtx hq

end

/-! ## stepend (R278) -/

theorem does_stepend {i : Instr} {e : Enc} {s : State} {sid : Word} (hi : exec i s = s.issue false bodyStepend e)
    (hsid : BitVec.ofNat 32 ((atBody e s).opA e 1) = sid) (hbound : (atBody e s).grp.seq = sid) (hlive : sid ≠ 0xFFFFFFFF) :
    Does i e s (fun b t => Replied e [if b.boundFailed sid then 1 else 0] s b t ∧ t.grp = { b.grp with stepEnded := true } ∧ t.mem = b.mem) := by
  have hbody : bodyStepend e (atBody e s) = .ok (({ atBody e s with grp := { (atBody e s).grp with stepEnded := true } } : State).replyD e 1
      (ofBool ((atBody e s).boundFailed sid))) := by
    have hown : ¬((atBody e s).grp.seq ≠ sid ∨ sid = 0xFFFFFFFF) := fun h => h.elim (· hbound) hlive
    simp only [bodyStepend, hsid, if_neg hown]
  refine does_replied hi hbody rfl (fun u hu => ⟨?_, rfl, rfl⟩)
  have hanswer : words 1 (ofBool ((atBody e s).boundFailed sid)) = [if (atBody e s).boundFailed sid then 1 else 0] := by
    cases (atBody e s).boundFailed sid <;> rfl
  rw [← hanswer]; exact hu

/-! ## gview (R279) -/

theorem word_lt (v : Word) : v.toNat < 2 ^ 32 := by have := v.isLt; omega

/-- The three words of `.info` past the view number lie side by side: each is read back from the four (R155). -/
theorem words_four {a b c d : Nat} (ha : a < 2 ^ 32) (hb : b < 2 ^ 32) (hc : c < 2 ^ 32) :
    words 4 (a + b * 2 ^ 32 + (c + d * 2 ^ 32) * 2 ^ 64) = [BitVec.ofNat 32 a, BitVec.ofNat 32 b, BitVec.ofNat 32 c, BitVec.ofNat 32 d] := by
  simp only [words, Nat.shiftRight_eq_div_pow, List.cons.injEq, and_true]
  refine ⟨?_, ?_, ?_, ?_⟩ <;> apply BitVec.eq_of_toNat_eq <;> simp only [BitVec.toNat_ofNat] <;> omega

theorem LX.enc_m (x : LX) (op : BitVec 8) : (x.enc op).m = x.m := by unfold LX.enc; split <;> rfl

/-- Bit 0 of M selects `.mem`. -/
theorem bit_zero (m : BitVec 8) : bit m.toNat 0 = m.getLsbD 0 := rfl

theorem viewCode_lt (v : ViewState) : viewCode v < 8 := by cases v <;> decide

section
variable {e : Enc} {s : State} {sid : Word} (hsid : BitVec.ofNat 32 (s.opA e 1) = sid)
include hsid

theorem bodyGview_dead (h : s.seqCtx s.part.pid sid = none) : bodyGview e s = .ok (s.replyD e (if e.m.getLsbD 0 then 1 else 4) 0) := by
  simp only [bodyGview, hsid, h, bit_zero]
  rfl

variable {q : SeqCtx} {v : View} (hq : s.seqCtx s.part.pid sid = some q) (hv : s.reportView q = some v)
include hq hv

theorem bodyGview_mem (hm : e.m.getLsbD 0 = true) : bodyGview e s = .ok (s.replyD e 1 (v.members.getD (s.opB e 1) 0xFFFFFFFF)) := by
  simp only [bodyGview, hsid, hq, hv, bit_zero, hm, if_true]

theorem bodyGview_info (hm : e.m.getLsbD 0 = false) : bodyGview e s = .ok (s.replyD e 4 (v.num.toNat
    + (v.members.length % 32 + viewCode v.state * 2 ^ 8 + v.index s.grp.dev % 256 * 2 ^ 16) * 2 ^ 32
    + ((q.next.map (fun x => x.num.toNat + x.members.length * 2 ^ 32)).getD 0) * 2 ^ 64)) := by
  simp only [bodyGview, hsid, hq, hv, bit_zero, hm, Bool.false_eq_true, if_false]

end

/-- The successor's number and width stand side by side, or are zero without one. -/
theorem next_pair (next : Option View) (k : Nat) : (next.map (fun x => x.num.toNat + x.members.length * k)).getD 0
    = ((next.map View.num).getD 0).toNat + (next.map (fun w => w.members.length)).getD 0 * k := by
  cases next <;> simp

/-- The quad of `.info` (R279). -/
theorem words_info {q : SeqCtx} {v : View} {dev : Nat} (hlen : v.members.length ≤ 16) :
    words 4 (v.num.toNat + (v.members.length % 32 + viewCode v.state * 2 ^ 8 + v.index dev % 256 * 2 ^ 16) * 2 ^ 32
        + ((q.next.map (fun x => x.num.toNat + x.members.length * 2 ^ 32)).getD 0) * 2 ^ 64)
      = [v.num, BitVec.ofNat 32 (v.members.length + viewCode v.state * 2 ^ 8 + v.index dev % 256 * 2 ^ 16),
          (q.next.map View.num).getD 0, BitVec.ofNat 32 ((q.next.map (fun w => w.members.length)).getD 0)] := by
  have hcode := viewCode_lt v.state
  have hw1 : v.members.length + viewCode v.state * 2 ^ 8 + v.index dev % 256 * 2 ^ 16 < 2 ^ 32 := by omega
  rw [Nat.mod_eq_of_lt (by omega : v.members.length < 32), next_pair, words_four (word_lt _) hw1 (word_lt _)]
  simp only [BitVec.ofNat_toNat, BitVec.setWidth_eq]

/-- A report of `gview` changes nothing. -/
theorem does_report {i : Instr} {e : Enc} {s : State} {body : Body} {n v : Nat} (hi : exec i s = s.issue false body e)
    (hb : body e (atBody e s) = .ok ((atBody e s).replyD e n v)) :
    Does i e s (fun b t => Replied e (words n v) s b t ∧ t.mem = b.mem ∧ t.grp = b.grp ∧ t.dev = b.dev) :=
  does_replied hi hb rfl (fun _ hu => ⟨hu, rfl, rfl, rfl⟩)

/-! ## gsetw (R280) -/

section
variable {sid : Word} {w : Nat} {s : State}

theorem setWidth_dead (h : s.seqCtx s.part.pid sid = none) : setWidth sid w s = .ok ([3], s) := by
  simp only [setWidth, h]

variable {q : SeqCtx} (hq : s.seqCtx s.part.pid sid = some q)
include hq

theorem setWidth_busy (hw : w = 0) (h : q.steps ≠ [] ∨ q.succ ≠ 0) : setWidth sid w s = .ok ([5], s) := by
  have hbusy : (!q.steps.isEmpty || decide (q.succ ≠ 0)) = true := by simpa using h
  simp only [setWidth, hq, hw, hbusy, if_true]

theorem setWidth_destroys (hw : w = 0) (h : q.steps = []) (hsucc : q.succ = 0) : setWidth sid w s = .ok ([0], s.destroySeq q) := by
  simp [setWidth, hq, hw, h, hsucc]

variable (hw : w ≠ 0)
include hw

theorem setWidth_changing (hsucc : q.succ ≠ 0) : setWidth sid w s = .ok ([2], s) := by
  simp only [setWidth, hq, if_neg hw, if_pos hsucc]

variable (hsucc : q.succ = 0)
include hsucc

theorem setWidth_same (hlen : ((q.cur.map View.members).getD []).length = w) : setWidth sid w s = .ok ([1], s) := by
  simp [setWidth, hq, hw, hsucc, hlen]

variable (hlen : ((q.cur.map View.members).getD []).length ≠ w)
include hlen

/-- A width beyond the class maximum or beyond the devices of the fabric list. -/
theorem setWidth_tooWide (h : (s.seqCls q).maxWidth < w
      ∨ (widthMembers ((q.cur.map View.members).getD []) (s.part? (field sid.toNat 25 16) q.pid).fabricList w).length < w) :
    setWidth sid w s = .ok ([4], s) := by
  simp only [setWidth, hq, hw, hsucc, hlen, h, ne_eq, not_true_eq_false, if_true, if_false]

theorem setWidth_forms (hmax : w ≤ (s.seqCls q).maxWidth)
    (h : w ≤ (widthMembers ((q.cur.map View.members).getD []) (s.part? (field sid.toNat 25 16) q.pid).fabricList w).length) :
    setWidth sid w s = .ok ([0], s.updSeq sid (fun r => r.form (widthMembers ((q.cur.map View.members).getD [])
      (s.part? (field sid.toNat 25 16) q.pid).fabricList w) false [] s.now)) := by
  have hfits : ¬((s.seqCls q).maxWidth < w
      ∨ (widthMembers ((q.cur.map View.members).getD []) (s.part? (field sid.toNat 25 16) q.pid).fabricList w).length < w) := by omega
  simp only [setWidth, hq, hw, hsucc, hlen, hfits, ne_eq, not_true_eq_false, if_false]

end

section
variable {i : Instr} {e : Enc} {s : State} {sid : Word} {w : Nat} (hi : exec i s = s.issue false bodyGsetw e)
  (hsid : (atBody e s).opA e 1 = sid.toNat) (hw : (atBody e s).opB e 1 = w) (hrun : FirstRun (atBody e s)) {v : Word}
include hi hsid hw hrun

/-- `gsetw` answers what its published write does, and changes nothing else. -/
theorem does_gsetw {s2 : State} {more : State → State → Prop} (hset : setWidth sid w (atBody e s) = .ok ([v], s2)) (hthr : s2.thr = (atBody e s).thr)
    (hgrp : s2.grp = (atBody e s).grp) (hmore : ∀ u, more (atBody e s) (withThread u (withEntry e sid.toNat (words 1 w) [v] (atBody e s) s2))) :
    Does i e s (fun b t => Replied e [v] s b t ∧ Logged e (b.opA e 1) (words 1 w) [v] b t ∧ more b t) := by
  refine does_published hi hrun (fun s3 hp => ?_) hset rfl hthr (by rw [hgrp]) (fun u hreply hlog => ⟨hreply, by rwa [hsid], hmore u⟩)
  simp only [bodyGsetw, hsid, hw, BitVec.ofNat_toNat, BitVec.setWidth_eq, hp]

/-- A refusal changes nothing. -/
theorem does_gsetw_refused (hset : setWidth sid w (atBody e s) = .ok ([v], atBody e s)) :
    Does i e s (fun b t => Replied e [v] s b t ∧ Logged e (b.opA e 1) (words 1 w) [v] b t ∧ t.mem = b.mem ∧ t.dev = b.dev ∧ t.devs = b.devs) :=
  does_gsetw hi hsid hw hrun hset rfl rfl (fun _ => ⟨rfl, rfl, rfl⟩)

/-- A destroyed context is gone with its tail memory; every other byte stays. -/
theorem does_gsetw_destroys {q : SeqCtx} (hq : (atBody e s).seqCtx (atBody e s).part.pid sid = some q)
    (hset : setWidth sid w (atBody e s) = .ok ([v], (atBody e s).destroySeq q)) :
    Does i e s (fun b t => Replied e [v] s b t ∧ Logged e (b.opA e 1) (words 1 w) [v] b t
      ∧ t.seqCtx b.part.pid sid = none ∧ ∀ a, tailSeq a ≠ some sid.toNat → Mem.get t.mem a = Mem.get b.mem a) := by
  obtain ⟨hthr, hgrp, -⟩ := destroySeq_facts q (atBody e s)
  obtain ⟨rfl, -⟩ := seqCtx_some hq
  refine does_gsetw hi hsid hw hrun hset hthr hgrp (fun u => ⟨?none, fun a ha => ?other⟩)
  case none => rw [withThread_seqCtx, withEntry_seqCtx, destroySeq_seqCtx]
  case other => rw [withThread_mem, withEntry_mem, destroySeq_get ha]

/-- A view that `gsetw` forms is all that changes. -/
theorem does_gsetw_forms {q : SeqCtx} {members : List Nat} (hq : (atBody e s).seqCtx (atBody e s).part.pid sid = some q)
    (hset : setWidth sid w (atBody e s) = .ok ([v], (atBody e s).updSeq sid (fun r => r.form members false [] (atBody e s).now))) :
    Does i e s (fun b t => Replied e [v] s b t ∧ Logged e (b.opA e 1) (words 1 w) [v] b t
      ∧ t.mem = b.mem ∧ t.seqCtx b.part.pid sid = some (q.form members false [] b.now)) := by
  refine does_gsetw hi hsid hw hrun hset (updSeq_thr ..) (updSeq_grp ..) (fun u => ⟨?mem, ?ctx⟩)
  case mem => rw [withThread_mem, withEntry_mem, updSeq_mem]
  case ctx => rw [withThread_seqCtx, withEntry_seqCtx]; exact seqCtx_updSeq (fun _ => ⟨rfl, rfl⟩) hq

end

/-! ## Settling the statement -/

/-- Settles O23: `stepbeg` and `gsetw` by the cases of what the gang manager does, `stepend` and `gview` by what they report. -/
theorem stepsAndViews : Obligations.StepsAndViews := by
  unfold Obligations.StepsAndViews
  intro x s answers same
  refine ⟨?stepbeg, ?stepend, ?gview, ?gsetw⟩
  case stepbeg =>
    intro e b sid n begins hid hseq
    have hsid : b.opA e 1 = sid.toNat := (ofNat_toNat_of_lt hid).symm
    refine ⟨fun hdead hrun => ?dead, fun q hq hstep => ⟨fun hv hrun => ?waits, fun v run hv => ⟨fun hf hrun => ?failed, fun hf hn hrun => ?full,
      fun hf hn hnum hrun => ?opens⟩⟩⟩
    case dead => exact does_stepbeg_refused rfl hsid rfl hseq hrun (by decide) (stepBind_dead hdead)
    case waits => exact does_stepbeg_waits rfl hsid rfl hseq hrun (stepBind_waits hq hstep hv)
    case failed => exact does_stepbeg_refused rfl hsid rfl hseq hrun (by decide) (stepBind_failed hq hstep hv hf)
    case full => exact does_stepbeg_refused rfl hsid rfl hseq hrun (by decide) (stepBind_full hq hstep hv hf hn)
    case opens => exact does_stepbeg_opens rfl hsid rfl hseq hrun hq hstep hv hf hn hnum
  case stepend => exact fun hlive hbound => does_stepend rfl rfl hbound hlive
  case gview =>
    intro e b sid tells
    have hm : e.m = x.m := LX.enc_m x _
    refine ⟨fun hdead => ?dead, fun q v hq hv => ⟨fun hmem => ?mem, fun hinfo hlen _ => ?info⟩⟩
    case dead =>
      have hzero : List.replicate (if x.m.getLsbD 0 then 1 else 4) (0 : Word) = words (if x.m.getLsbD 0 then 1 else 4) 0 := by split <;> rfl
      rw [hzero, ← hm]
      exact does_report rfl (bodyGview_dead rfl hdead)
    case mem => exact does_report rfl (bodyGview_mem rfl hq hv (by rw [hm, hmem]))
    case info =>
      rw [← words_info hlen]
      exact does_report rfl (bodyGview_info rfl hq hv (by rw [hm, hinfo]))
  case gsetw =>
    intro e b sid w sets hid
    have hsid : b.opA e 1 = sid.toNat := (ofNat_toNat_of_lt hid).symm
    refine ⟨fun hdead hrun => ?dead, fun q hq => ?live⟩
    case dead => exact does_gsetw_refused rfl hsid rfl hrun (setWidth_dead hdead)
    case live =>
      intro ms new
      refine ⟨fun hw hbusy hrun => ?busy, fun hw hsteps hsucc hrun => ?destroys, fun hw hsucc hrun => ?changing, fun hw hsucc hlen hrun => ?same,
        fun hw hsucc hlen hwide hrun => ?wide, fun hw hsucc hlen hmax hfits hrun => ?forms⟩
      case busy => exact does_gsetw_refused rfl hsid rfl hrun (setWidth_busy hq hw hbusy)
      case destroys => exact does_gsetw_destroys rfl hsid rfl hrun hq (setWidth_destroys hq hw hsteps hsucc)
      case changing => exact does_gsetw_refused rfl hsid rfl hrun (setWidth_changing hq hw hsucc)
      case same => exact does_gsetw_refused rfl hsid rfl hrun (setWidth_same hq hw hsucc hlen)
      case wide => exact does_gsetw_refused rfl hsid rfl hrun (setWidth_tooWide hq hw hsucc hlen hwide)
      case forms => exact does_gsetw_forms rfl hsid rfl hrun hq (setWidth_forms hq hw hsucc hlen hmax hfits)

end Sys2Proof.Claims
end

section
/-!
PROOFS. Plain accesses that complete at once: what a thread that goes on leaves, the value of a load that no cached line answers, and a staged store
(R134, R144).
-/
namespace Sys2Proof.Claims
open Machine Bits Encoding

/-- What `retire` leaves of an instruction that goes on with new results pending and new writes unacknowledged. -/
theorem retire_continues {e : Enc} {s s1 : State} {ps : List Pending} {us : List Unacked} (hs : s.thr.status = .ready) (hq : Quiet s)
    (hthr : s1.thr = { (atBody e s).thr with pend := (atBody e s).thr.pend ++ ps, unacked := us })
    (hps : ∀ p ∈ ps, p.arrived = false ∧ s.nextId ≤ p.serial) :
    ∃ u, s.freshen.retire s1 = withThread u s1 ∧ Continues (atBody e s) (withThread u s1) ∧ u.pend = shrunk (atBody e s) ++ ps ∧ u.unacked = us := by
  have hkey : s1.thr.key = s.thr.key := by rw [hthr]; exact atBody_key e s
  have hstatus : s1.thr.status = .ready := by rw [hthr]; exact (atBody_status e s).trans hs
  have hpend : s1.thr.pend = s.thr.pend ++ ps := by rw [hthr, atBody_pend]
  have hquiet : s1.thr.pend.all (fun p => !p.arrived) = true := by
    rw [hpend, List.all_append, Bool.and_eq_true]
    exact ⟨hq, List.all_eq_true.2 (fun p hp => by simp [(hps p hp).1])⟩
  have hnew : ps.map (fun p => if p.serial < s.nextId then { p with win := p.win - 1 } else p) = ps := by
    conv => rhs; rw [← List.map_id ps]
    exact List.map_congr_left (fun p hp => if_neg (Nat.not_lt.2 (hps p hp).2))
  refine ⟨_, retire_next hkey hstatus hquiet, ⟨hstatus, ?pc, ?meet, ?regs, ?flags⟩, ?pend, ?unacked⟩
  case pc => simp [withThread, hthr]
  case meet => simp [withThread, hthr]
  case regs => simp [withThread, SameRegs, hthr]
  case flags => simp [withThread, SameFlags, FlagsAre, hthr]
  case pend => simp [hpend, shrunk, hnew]
  case unacked => simp [hthr]

/-- A race check leaves all but stamps. -/
theorem race_facts {key va : Nat} {w : Bool} {s t : State} (h : s.race key va w = .ok t) :
    t.thr = s.thr ∧ t.mem = s.mem ∧ t.poison = s.poison ∧ t.core = s.core ∧ t.part = s.part ∧ t.nextId = s.nextId
      ∧ t.grp.staged = s.grp.staged ∧ t.grp.stagedVa = s.grp.stagedVa ∧ t.grp.early = s.grp.early ∧ t.grp.dev = s.grp.dev := by
  have ht := race_eq h
  refine ⟨?_, ?_, ?_, ?_, ?_, ?_, ?_, ?_, ?_, ?_⟩ <;> rw [ht]

/-- A plain load leaves the thread, the count of results and memory. -/
theorem load_facts {x : Xlat} {n : Nat} {plain : Bool} {s t : State} {v : Nat} (h : s.load x n plain = .ok (v, t)) :
    t.thr = s.thr ∧ t.nextId = s.nextId ∧ t.mem = s.mem := by
  have ht := State.load_eq h
  refine ⟨?_, ?_, ?_⟩ <;> rw [ht]

/-- A load leaves its result pending (R27). -/
theorem laterM_thr {e : Enc} (hop : e.op ≠ 0x74) (n v : Nat) (s : State) :
    (s.laterM e n v false 0).thr = { s.thr with pend := s.thr.pend ++ [loadPending e n v false 0 false s] } := by
  have hfp : decide (e.op = 0x74) = false := decide_eq_false hop
  simp only [State.laterM, hfp]
  rfl

/-- A plain load that no cached line answers reads memory under what the group has staged. -/
theorem load_uncached {x : Xlat} {n : Nat} {s : State} (hp : s.poisoned x.key n = false) (hu : Uncached x s) :
    ∃ t, s.load x n true = .ok (numberSeen s x.key n, t) := by
  have hbytes : (s.plainBytes x.key n x.cls).1 = Mem.read s.mem x.key n := plainBytes_uncached hu
  have hgrp : (s.plainBytes x.key n x.cls).2.grp = s.grp := by rw [State.plainBytes_eq]
  refine ⟨(s.plainBytes x.key n x.cls).2, ?_⟩
  simp only [State.load, hp, Bool.false_eq_true, if_false, if_true, hbytes, hgrp, overlay_map]
  rfl

/-- Within its quota a plain store of a phase that has not committed early is staged (R119, R120). -/
theorem stagePlain_staged {key va : Nat} {bs : List Byte} {s : State} (hearly : s.grp.early = false) (hroom : s.grp.stagedVa.length < 16384) :
    ∃ t, s.stagePlain key va bs = .ok t ∧ t.thr = s.thr ∧ t.mem = s.mem ∧ t.nextId = s.nextId
      ∧ t.grp.staged = stageBytes s.grp.staged key bs ∧ t.grp.dev = s.grp.dev := by
  have hquota : (!(lookup (key / 64) s.grp.stagedVa).isSome && decide (s.grp.stagedVa.length ≥ 16384)) = false := by
    simp [Nat.not_le.2 hroom]
  simp only [State.stagePlain, hearly, hquota, Bool.false_eq_true, if_false]
  exact ⟨_, rfl, rfl, rfl, rfl, rfl, rfl⟩

/-- A store not yet acknowledged (R142). -/
theorem addUnacked_thr (dev path : Nat) (s : State) :
    (s.addUnacked dev path).thr = { s.thr with unacked := s.thr.unacked ++ [⟨s.nextId, dev, path⟩] } := rfl

/-- Bytes staged over what a group reads stand there, and it reads the rest as before. -/
theorem stored_of_staged {k : Nat} {bs : List Byte} {s t : State} (hs : t.grp.staged = stageBytes s.grp.staged k bs) (hm : t.mem = s.mem) :
    Stored k bs s t := by
  intro a
  rw [seen, hs, hm, stageBytes_lookup]
  split <;> rfl

end Sys2Proof.Claims
end

section
/-!
PROOFS. `kvld`, `kvst`, `kvcommit` and `kvreject` (R272, R273, R281 to R283): the checks of a handle in order, where an access goes, and the
answers of a commit and of a rejection.
-/
namespace Sys2Proof.Claims
open Machine Bits Encoding

/-! ## The checks of a handle (R273) -/

/-- What each of the three lowest reasons says of the handle (Table 19.8). -/
theorem kvCheck_error {s : State} {h tok off size : Nat} {write : Bool} {r : Nat} (hc : s.kvCheck h tok off size write = .error r) :
    (r = 0 ↔ handleTenant h ≠ s.part.pid)
    ∧ (r = 1 → (s.dev.handle (handleIndex h)).valid = false ∨ handleIndex h = 0 ∨ (s.dev.handle (handleIndex h)).gen ≠ handleGen h)
    ∧ (r = 2 → handleBound h ≤ tok) := by
  unfold State.kvCheck at hc
  simp only at hc
  split at hc
  case isTrue htenant => cases hc; exact ⟨⟨fun _ => htenant, fun _ => rfl⟩, by simp, by simp⟩
  case isFalse htenant =>
    split at hc
    case isTrue hentry => cases hc; exact ⟨by simpa using htenant, fun _ => by simpa [Device.handle, or_assoc] using hentry, by simp⟩
    case isFalse =>
      split at hc
      case isTrue hbound => cases hc; exact ⟨by simpa using htenant, by simp, fun _ => hbound⟩
      case isFalse =>
        -- every later check answers a reason from 3 on
        have hr : 3 ≤ r := by grind
        exact ⟨⟨fun h0 => by omega, fun h0 => absurd h0 htenant⟩, fun h1 => by omega, fun h2 => by omega⟩

section
variable {i : Instr} {e : Enc} {s : State}

/-! ## kvld (R281) -/

section
variable {p : KvPlace} (halign : s.opC e 1 % memSize e = 0) (hcheck : s.kvCheck (s.opA e 2) (s.opB e 1) (s.opC e 1) (memSize e) false = .ok p)
include halign hcheck

/-- A full block is read through its tree. -/
theorem bodyKvld_block (hblk : p.blk < p.q.lenc / p.c.block) {en : SliceEntry} {l : ContentLine} {o : Nat} (hen : p.v.entry? p.blk = some en)
    (hwalk : s.part.walkTree 9 en.root p.byte = .ok (l, o)) (htag : s.lineUntagged l = none) (hp : s.poisoned (l.key + o) (memSize e) = false) :
    bodyKvld e s = .ok (s.laterM e (memN e) (natAt l.bytes o (memSize e)) false 0) := by
  simp only [bodyKvld, halign, ne_eq, not_true_eq_false, hcheck, if_pos hblk, hen, hwalk, htag, hp, Bool.false_eq_true, if_false]

/-- A tail block is read in its owner's tail memory. -/
theorem bodyKvld_tail (hblk : p.q.lenc / p.c.block ≤ p.blk) {k : Nat} (hk : k = tailKey s.grp.dev p.q.id p.blk p.byte) {s1 s2 : State} {v : Nat}
    (hrace : s.race k p.byte false = .ok s1) (hload : s1.load ⟨0, 0, k⟩ (memSize e) true = .ok (v, s2)) :
    bodyKvld e s = .ok (s2.laterM e (memN e) v false 0) := by
  simp only [bodyKvld, halign, ne_eq, not_true_eq_false, hcheck, if_neg (Nat.not_lt.2 hblk), kvXlat, ← hk, hrace, hload, if_false]

end

theorem bodyKvld_refused {r : Nat} (halign : s.opC e 1 % memSize e = 0)
    (hcheck : s.kvCheck (s.opA e 2) (s.opB e 1) (s.opC e 1) (memSize e) false = .error r) : bodyKvld e s = .error (kvStop r (s.opB e 1)) := by
  simp only [bodyKvld, halign, ne_eq, not_true_eq_false, if_false, hcheck]

/-! ## kvst (R281) -/

theorem bodyKvst_refused {r : Nat} (halign : s.opC e 1 % memSize e = 0)
    (hcheck : s.kvCheck (s.opA e 2) (s.opB e 1) (s.opC e 1) (memSize e) true = .error r) : bodyKvst e s = .error (kvStop r (s.opB e 1)) := by
  simp only [bodyKvst, halign, ne_eq, not_true_eq_false, if_false, hcheck]

theorem bodyKvst_staged {p : KvPlace} (halign : s.opC e 1 % memSize e = 0)
    (hcheck : s.kvCheck (s.opA e 2) (s.opB e 1) (s.opC e 1) (memSize e) true = .ok p) {k : Nat} (hk : k = tailKey s.grp.dev p.q.id p.blk p.byte)
    {s1 s2 : State} (hp : s.poisoned k (memSize e) = false) (hrace : s.race k p.byte true = .ok s1)
    (hstage : s1.stagePlain k k (toBytes (memSize e) (s.opD e (memN e))) = .ok s2) :
    bodyKvst e s = .ok (s2.addUnacked s2.grp.dev 0) := by
  simp only [bodyKvst, halign, ne_eq, not_true_eq_false, hcheck, kvXlat, ← hk, hp, hrace, hstage, Bool.false_eq_true, if_false]
  rfl

/-! ## What an access leaves -/

/-- An access whose check fails takes KVHANDLE with the reason of that check (R273). -/
theorem kvhandle_trapped {body : Body} {h tok off size : Nat} {write : Bool} {r : Nat} (hi : exec i s = s.issue false body e)
    (hcheck : (atBody e s).kvCheck h tok off size write = .error r) (hb : body e (atBody e s) = .error (kvStop r tok))
    (hr : Ready e s) (hq : Quiet s) (hc : CanTrap s) :
    (∃ t, exec i s = .next t ∧ Trapped causeKvhandle (BitVec.ofNat 32 (r * 2 ^ 28 + tok % 2 ^ 24)) 0 (toWords e) s t)
      ∧ (r = 0 ↔ handleTenant h ≠ (atBody e s).part.pid)
      ∧ (r = 1 → ((atBody e s).dev.handle (handleIndex h)).valid = false ∨ handleIndex h = 0 ∨ ((atBody e s).dev.handle (handleIndex h)).gen ≠ handleGen h)
      ∧ (r = 2 → handleBound h ≤ tok) :=
  ⟨issue_traps hi hr hq hc hb, kvCheck_error hcheck⟩

/-- A read of a full block leaves its value pending. -/
theorem does_kvld_block (hi : exec i s = s.issue false bodyKvld e) (hop : e.op ≠ 0x74) {v : Nat}
    (hb : bodyKvld e (atBody e s) = .ok ((atBody e s).laterM e (memN e) v false 0)) :
    Does i e s (fun b t => Leaves (loadPending e (memN e) v false 0 false b) b t) := by
  refine does_ok i hi _ hb (fun hs hq => ?_)
  have hfp : decide (e.op = 0x74) = false := decide_eq_false hop
  rw [State.laterM, hfp]
  exact later_leaves (words (memN e) v) (memN e) 0 0 false false false false hs hq

/-- A read of tail memory leaves pending what the group sees there, where the load cache holds no line of it. -/
theorem does_kvld_tail (hi : exec i s = s.issue false bodyKvld e) (hop : e.op ≠ 0x74) {s1 : State} {k va n : Nat}
    (hrace : (atBody e s).race k va false = .ok s1) (hp : (atBody e s).poisoned k n = false) (hu : Uncached ⟨0, 0, k⟩ (atBody e s))
    (hb : ∀ v s2, s1.load ⟨0, 0, k⟩ n true = .ok (v, s2) → bodyKvld e (atBody e s) = .ok (s2.laterM e (memN e) v false 0)) :
    Does i e s (fun b t => Continues b t ∧ t.mem = b.mem
      ∧ t.thr.pend = shrunk b ++ [loadPending e (memN e) (numberSeen b k n) false 0 false b]) := by
  obtain ⟨hthr1, hmem1, hpoison1, hcore1, hpart1, hid1, hstaged1, -, -, -⟩ := race_facts hrace
  have hp1 : s1.poisoned k n = false := by rw [State.poisoned, hpoison1]; exact hp
  have hu1 : Uncached ⟨0, 0, k⟩ s1 := by rw [Uncached, hcore1, hpart1]; exact hu
  have hseen : numberSeen s1 k n = numberSeen (atBody e s) k n := by simp only [numberSeen, seen, hmem1, hstaged1]
  obtain ⟨s2, hload⟩ := load_uncached (x := ⟨0, 0, k⟩) hp1 hu1
  obtain ⟨hthr2, hid2, hmem2⟩ := load_facts hload
  have hpending (v : Nat) : loadPending e (memN e) v false 0 false s2 = loadPending e (memN e) v false 0 false (atBody e s) := by
    simp only [loadPending, hid2, hid1]
  refine does_ok i hi _ (hb _ s2 hload) (fun hs hq => ?_)
  have hthr := laterM_thr hop (memN e) (numberSeen s1 k n) s2
  rw [hthr2, hthr1, hpending, hseen] at hthr
  rw [hseen]
  obtain ⟨u, hu, hcont, hpend, -⟩ := retire_continues hs hq hthr (by simp [loadPending])
  rw [hu]
  refine ⟨hcont, ?_, hpend⟩
  rw [withThread_mem, State.laterM, State.later_mem, hmem2, hmem1]

/-- A store to tail memory is staged. -/
theorem does_kvst_staged (hi : exec i s = s.issue false bodyKvst e) {s1 : State} {k va : Nat} {bs : List Byte}
    (hrace : (atBody e s).race k va true = .ok s1) (hearly : (atBody e s).grp.early = false) (hroom : (atBody e s).grp.stagedVa.length < 16384)
    (hb : ∀ s2, s1.stagePlain k k bs = .ok s2 → bodyKvst e (atBody e s) = .ok (s2.addUnacked s2.grp.dev 0)) :
    Does i e s (fun b t => Continues b t ∧ t.thr.pend = shrunk b ∧ t.mem = b.mem ∧ Stored k bs b t
      ∧ t.thr.unacked = b.thr.unacked ++ [⟨b.nextId, b.grp.dev, 0⟩]) := by
  obtain ⟨hthr1, hmem1, -, -, -, hid1, hstaged1, hva1, hearly1, hdev1⟩ := race_facts hrace
  obtain ⟨s2, hstage, hthr2, hmem2, hid2, hstaged2, hdev2⟩ := stagePlain_staged (key := k) (va := k) (bs := bs) (hearly1.trans hearly) (by rw [hva1]; exact hroom)
  refine does_ok i hi _ (hb _ hstage) (fun hs hq => ?_)
  have hthr : (s2.addUnacked s2.grp.dev 0).thr = { (atBody e s).thr with
      pend := (atBody e s).thr.pend ++ [], unacked := (atBody e s).thr.unacked ++ [⟨(atBody e s).nextId, (atBody e s).grp.dev, 0⟩] } := by
    rw [addUnacked_thr, hthr2, hthr1, hid2, hid1, hdev2, hdev1, List.append_nil]
  obtain ⟨u, hu, hcont, hpend, hunacked⟩ := retire_continues hs hq hthr (by simp)
  rw [hu]
  refine ⟨hcont, by simpa using hpend, ?mem, stored_of_staged ?staged ?mem, hunacked⟩
  case mem => rw [withThread_mem, State.addUnacked_mem, hmem2, hmem1]
  case staged => rw [withThread_grp, State.addUnacked_grp, hstaged2, hstaged1]

end

/-! ## kvcommit (R282) -/

/-- Reading tokens leaves the thread as it is. -/
theorem readWord_thr {va : Nat} {s s1 : State} {bs : List Byte} (h : s.readWord va = .ok (bs, s1)) : s1.thr = s.thr := by
  unfold State.readWord at h
  split at h
  · cases h; rfl
  · split at h
    · cases h
    · next x s2 hglobal =>
      have hthr := (global_facts hglobal).1
      split at h
      · split at h
        · cases h
        · cases h; exact hthr
      · cases hload : s2.load x 4 true with
        | error st => rw [hload] at h; cases h
        | ok r =>
          obtain ⟨v, s3⟩ := r
          rw [hload] at h
          cases h
          rw [State.load_eq hload]
          exact hthr

theorem readWordsAt_thr {n : Nat} : ∀ {va : Nat} {s s1 : State} {bs : List Byte}, readWordsAt va n s = .ok (bs, s1) → s1.thr = s.thr := by
  induction n with
  | zero => intro va s s1 bs h; cases h; rfl
  | succ n ih =>
    intro va s s1 bs h
    unfold readWordsAt at h
    split at h
    · cases h
    · next hword =>
      split at h
      · cases h
      · next hrest => cases h; exact (ih hrest).trans (readWord_thr hword)

theorem readTokens_thr {glob : Bool} {addr n : Nat} {s s1 : State} {bs : List Byte} (h : s.readTokens glob addr n = .ok (bs, s1)) : s1.thr = s.thr := by
  unfold State.readTokens at h
  split at h
  · split at h
    · cases h
    · next hwords => cases h; simpa [State.dropLines] using readWordsAt_thr hwords
  · split at h
    · cases h
    · cases h; rfl

/-- A group that is bound to no live context of the sequence has none to act on. -/
theorem boundCtx_none {sid : Word} {s : State} (h : s.grp.seq ≠ sid ∨ s.seqCtx s.part.pid sid = none) :
    (if s.grp.seq = sid then s.seqCtx s.part.pid sid else none) = none := by
  rcases h with h | h <;> simp [h]

section
variable {sid : Word} {ids : List Word} {s : State}

theorem commitTokens_unbound (h : s.grp.seq ≠ sid ∨ s.seqCtx s.part.pid sid = none) : commitTokens sid ids s = .ok ([1], s) := by
  simp only [commitTokens, boundCtx_none h]

variable {q : SeqCtx} (hseq : s.grp.seq = sid) (hq : s.seqCtx s.part.pid sid = some q)
include hseq hq

theorem commitTokens_stepless (hstep : q.step? s.lau.lid = none) : commitTokens sid ids s = .ok ([1], s) := by
  simp only [commitTokens, if_pos hseq, hq, hstep]

variable {st : Step} (hstep : q.step? s.lau.lid = some st)
include hstep

theorem commitTokens_failed (hf : s.boundFailed sid = true) : commitTokens sid ids s = .ok ([3], s) := by
  simp only [commitTokens, if_pos hseq, hq, hstep, hf, if_true]

theorem commitTokens_short (hf : s.boundFailed sid = false) (hn : q.lent - q.lenc < st.commits.length + ids.length) :
    commitTokens sid ids s = .ok ([2], s) := by
  simp only [commitTokens, if_pos hseq, hq, hstep, hf, if_pos hn, Bool.false_eq_true, if_false]

theorem commitTokens_records (hf : s.boundFailed sid = false) (hn : st.commits.length + ids.length ≤ q.lent - q.lenc) :
    commitTokens sid ids s = .ok ([0], s.updSeq sid (fun q => q.updStep s.lau.lid (fun t => { t with commits := t.commits ++ ids }))) := by
  simp only [commitTokens, if_pos hseq, hq, hstep, hf, if_neg (Nat.not_lt.2 hn), Bool.false_eq_true, if_false]

end

section
variable {i : Instr} {e : Enc} {s s1 : State} {sid : Word} {bs : List Byte} (hi : exec i s = s.issue false bodyKvcommit e)
  (hsid : BitVec.ofNat 32 ((atBody e s).opA e 1) = sid) (hlo : 1 ≤ (atBody e s).opB e 1) (hhi : (atBody e s).opB e 1 ≤ 64)
  (hread : (atBody e s).readTokens (bit e.m.toNat 0) (if bit e.m.toNat 0 then (atBody e s).opC e 2 else (atBody e s).opC e 1) ((atBody e s).opB e 1)
    = .ok (bs, s1))
  (hrun : FirstRun s1) {v : Word}
include hi hsid hlo hhi hread hrun

/-- `kvcommit` answers what its published write does in the state that reading its ids leaves. -/
theorem does_kvcommit {s2 : State} {r : Option SeqCtx} (hact : commitTokens sid (wordsOf bs) s1 = .ok ([v], s2)) (hthr : s2.thr = s1.thr)
    (hgrp : s2.grp = s1.grp) (hmem : s2.mem = s1.mem) (hctx : s1.grp.seq = sid → s2.seqCtx s1.part.pid sid = r) :
    Does i e s (fun b t => Replied e [v] s b t ∧ Logged e sid.toNat (wordsOf bs) [v] s1 t ∧ t.mem = s1.mem
      ∧ (s1.grp.seq = sid → t.seqCtx s1.part.pid sid = r)) := by
  refine does_published hi hrun (fun s3 hp => ?body) hact (readTokens_thr hread) hthr (by rw [hgrp])
    (fun u hreply hlog => ⟨hreply, hlog, hmem, fun hseq => ?ctx⟩)
  case body =>
    have hcount : ¬((atBody e s).opB e 1 = 0 ∨ 64 < (atBody e s).opB e 1) := by omega
    simp only [bodyKvcommit, hsid, if_neg hcount, hread, hp]
  case ctx => rw [withThread_seqCtx, withEntry_seqCtx]; exact hctx hseq

/-- A refused commit changes nothing. -/
theorem does_kvcommit_refused {r : Option SeqCtx} (hact : commitTokens sid (wordsOf bs) s1 = .ok ([v], s1))
    (hctx : s1.grp.seq = sid → s1.seqCtx s1.part.pid sid = r) :
    Does i e s (fun b t => Replied e [v] s b t ∧ Logged e sid.toNat (wordsOf bs) [v] s1 t ∧ t.mem = s1.mem
      ∧ (s1.grp.seq = sid → t.seqCtx s1.part.pid sid = r)) :=
  does_kvcommit hi hsid hlo hhi hread hrun hact rfl rfl rfl hctx

/-- A commit changes its context alone. -/
theorem does_kvcommit_changes {q : SeqCtx} {f : SeqCtx → SeqCtx} (hq : s1.seqCtx s1.part.pid sid = some q)
    (hact : commitTokens sid (wordsOf bs) s1 = .ok ([v], s1.updSeq sid f)) (hf : ∀ q, (f q).id = q.id ∧ (f q).pid = q.pid) :
    Does i e s (fun b t => Replied e [v] s b t ∧ Logged e sid.toNat (wordsOf bs) [v] s1 t ∧ t.mem = s1.mem
      ∧ (s1.grp.seq = sid → t.seqCtx s1.part.pid sid = some (f q))) :=
  does_kvcommit hi hsid hlo hhi hread hrun hact (updSeq_thr ..) (updSeq_grp ..) (updSeq_mem ..) (fun _ => seqCtx_updSeq hf hq)

end

/-! ## kvreject (R283) -/

section
variable {sid : Word} {s : State}

theorem rejectTokens_unbound (h : s.grp.seq ≠ sid ∨ s.seqCtx s.part.pid sid = none) : rejectTokens sid s = .ok ([1], s) := by
  simp only [rejectTokens, boundCtx_none h]

variable {q : SeqCtx} (hseq : s.grp.seq = sid) (hq : s.seqCtx s.part.pid sid = some q)
include hseq hq

theorem rejectTokens_stepless (hstep : q.step? s.lau.lid = none) : rejectTokens sid s = .ok ([1], s) := by
  simp only [rejectTokens, if_pos hseq, hq, hstep, Option.isNone_none, if_true]

theorem rejectTokens_resets (hstep : (q.step? s.lau.lid).isSome = true) : rejectTokens sid s = .ok ([0], s.updSeq sid SeqCtx.resetLent) := by
  have hopen : (q.step? s.lau.lid).isNone = false := Option.isNone_eq_false_iff.2 hstep
  simp only [rejectTokens, if_pos hseq, hq, hopen, Bool.false_eq_true, if_false]

end

section
variable {i : Instr} {e : Enc} {s : State} {sid : Word} (hi : exec i s = s.issue false bodyKvreject e)
  (hsid : BitVec.ofNat 32 ((atBody e s).opA e 1) = sid) (hrun : FirstRun (atBody e s)) {v : Word}
include hi hsid hrun

/-- `kvreject` answers what its published write does. -/
theorem does_kvreject {s2 : State} {r : Option SeqCtx} (hact : rejectTokens sid (atBody e s) = .ok ([v], s2)) (hthr : s2.thr = (atBody e s).thr)
    (hgrp : s2.grp = (atBody e s).grp) (hmem : s2.mem = (atBody e s).mem) (hctx : s2.seqCtx (atBody e s).part.pid sid = r) :
    Does i e s (fun b t => Replied e [v] s b t ∧ Logged e sid.toNat [] [v] b t ∧ t.mem = b.mem ∧ t.seqCtx b.part.pid sid = r) := by
  refine does_published hi hrun (fun s3 hp => ?body) hact rfl hthr (by rw [hgrp]) (fun u hreply hlog => ⟨hreply, hlog, hmem, ?ctx⟩)
  case body => simp only [bodyKvreject, hsid, hp]
  case ctx => rw [withThread_seqCtx, withEntry_seqCtx]; exact hctx

end

/-! ## Settling the statement -/

/-- Settles O24: accesses by the place their check names, commits and rejections by the cases of what the gang manager does. -/
theorem kvAccessAndCommit : Obligations.KvAccessAndCommit := by
  unfold Obligations.KvAccessAndCommit
  intro x s shape refused
  refine ⟨?kvld, ?kvldRefused, ?kvstRefused, ?kvst, ?kvcommit, ?kvreject⟩
  case kvld =>
    intro e b p halign hcheck
    have hop : e.op ≠ 0x74 := show (0xD4 : BitVec 8) ≠ 0x74 by decide
    refine ⟨fun hblk en l o hen hwalk htag hp => ?block, fun hblk k s1 hk hrace hp hu => ?tail⟩
    case block => exact does_kvld_block rfl hop (bodyKvld_block halign hcheck hblk hen hwalk htag hp)
    case tail => exact does_kvld_tail rfl hop hrace hp hu (fun v s2 hload => bodyKvld_tail halign hcheck hblk hk hrace hload)
  case kvldRefused => exact fun r halign hcheck hr hq hc => kvhandle_trapped rfl hcheck (bodyKvld_refused halign hcheck) hr hq hc
  case kvstRefused => exact fun r halign hcheck hr hq hc => kvhandle_trapped rfl hcheck (bodyKvst_refused halign hcheck) hr hq hc
  case kvst =>
    intro e b p halign hcheck k s1 hk hp hrace hearly hroom
    exact does_kvst_staged rfl hrace hearly hroom (fun s2 hstage => bodyKvst_staged halign hcheck hk hp hrace hstage)
  case kvcommit =>
    intro e b sid n glob bs s1 hlo hhi hread hrun ids tells
    refine ⟨fun hunbound => ?unbound, fun q hseq hq => ⟨fun hstep => ?stepless, fun st hstep =>
      ⟨fun hf => ?failed, fun hf hn => ?short, fun hf hn => ?records⟩⟩⟩
    case unbound => exact does_kvcommit_refused rfl rfl hlo hhi hread hrun (commitTokens_unbound hunbound) (fun _ => rfl)
    case stepless => exact does_kvcommit_refused rfl rfl hlo hhi hread hrun (commitTokens_stepless hseq hq hstep) (fun _ => hq)
    case failed => exact does_kvcommit_refused rfl rfl hlo hhi hread hrun (commitTokens_failed hseq hq hstep hf) (fun _ => hq)
    case short => exact does_kvcommit_refused rfl rfl hlo hhi hread hrun (commitTokens_short hseq hq hstep hf hn) (fun _ => hq)
    case records => exact does_kvcommit_changes rfl rfl hlo hhi hread hrun hq (commitTokens_records hseq hq hstep hf hn) (fun _ => ⟨rfl, rfl⟩)
  case kvreject =>
    intro e b sid tells
    refine ⟨fun hunbound hrun => ?unbound, fun q hseq hq => ⟨fun hstep hrun => ?stepless, fun hstep hrun => ?resets⟩⟩
    case unbound => exact does_kvreject rfl rfl hrun (rejectTokens_unbound hunbound) rfl rfl rfl rfl
    case stepless => exact does_kvreject rfl rfl hrun (rejectTokens_stepless hseq hq hstep) rfl rfl rfl hq
    case resets =>
      exact does_kvreject rfl rfl hrun (rejectTokens_resets hseq hq hstep) (updSeq_thr ..) (updSeq_grp ..) (updSeq_mem ..)
        (seqCtx_updSeq (fun _ => ⟨rfl, rfl⟩) hq)

end Sys2Proof.Claims
end

section
/-!
PROOFS. Decoding what was encoded (R20 to R24, R33): the raw fields of an instruction survive its words, and the row of the opcode table that they
select is the instruction's own.
-/
namespace Sys2Proof.Claims
open Machine Bits Encoding

/-! ## Parts of joined bits -/

section
variable {a b c d f : Nat} (u : BitVec a) (x : BitVec b) (y : BitVec c) (z : BitVec d) (v : BitVec f)

theorem extract_low {s n : Nat} (h : s + n ≤ b) : (u ++ x).extractLsb' s n = x.extractLsb' s n := BitVec.extractLsb'_append_eq_of_add_le h

theorem extract_high {s n : Nat} (h : b ≤ s) : (u ++ x).extractLsb' s n = u.extractLsb' (s - b) n := BitVec.extractLsb'_append_eq_of_le h

theorem append4_fields : (u ++ x ++ y ++ z).extractLsb' 0 d = z ∧ (u ++ x ++ y ++ z).extractLsb' d c = y
    ∧ (u ++ x ++ y ++ z).extractLsb' (d + c) b = x ∧ (u ++ x ++ y ++ z).extractLsb' (d + c + b) a = u := by
  simp [extract_low, extract_high, Nat.add_assoc]

theorem append5_fields : (u ++ x ++ y ++ z ++ v).extractLsb' 0 f = v ∧ (u ++ x ++ y ++ z ++ v).extractLsb' f d = z
    ∧ (u ++ x ++ y ++ z ++ v).extractLsb' (f + d) c = y ∧ (u ++ x ++ y ++ z ++ v).extractLsb' (f + d + c) b = x
    ∧ (u ++ x ++ y ++ z ++ v).extractLsb' (f + d + c + b) a = u := by
  simp [extract_low, extract_high, Nat.add_assoc]

end

theorem getLsbD_of_extract {w i : Nat} {x : BitVec w} {b : Bool} (h : x.extractLsb' i 1 = BitVec.ofBool b) : x.getLsbD i = b := by
  have h0 := congrArg (fun z => z.getLsbD 0) h
  simpa using h0

/-! ## Raw fields survive their words (Tables 2.2 to 2.4) -/

theorem word0_low (e : Enc) {s n : Nat} (h : s + n ≤ 14) : (word0 e).extractLsb' s n = (common e).extractLsb' s n := by
  unfold word0
  split
  · exact extract_low _ _ h
  · exact extract_low _ _ h

theorem word0_common (e : Enc) : (word0 e).extractLsb' 0 2 = lenField e.form ∧ (word0 e).extractLsb' 2 8 = e.op ∧ (word0 e).getLsbD 10 = e.n
    ∧ (word0 e).extractLsb' 11 3 = e.g := by
  obtain ⟨hlen, hop, hn, hg⟩ := append4_fields e.g (BitVec.ofBool e.n) e.op (lenField e.form)
  refine ⟨?_, ?_, getLsbD_of_extract ?_, ?_⟩ <;> rw [word0_low e (by decide)]
  · exact hlen
  · exact hop
  · exact hn
  · exact hg

theorem formOf_word0 (e : Enc) : formOf (word0 e) = some e.form := by
  have h := congrArg BitVec.toNat (word0_common e).1
  simp only [BitVec.extractLsb'_toNat, Nat.shiftRight_zero, Nat.reducePow] at h
  simp only [formOf, h]
  cases e.form <;> rfl

theorem word0_s {e : Enc} (h : e.form = .s) : (word0 e).extractLsb' 14 6 = e.d.setWidth 6 ∧ (word0 e).extractLsb' 20 6 = e.a.setWidth 6
    ∧ (word0 e).extractLsb' 26 6 = e.b.setWidth 6 := by
  simp only [word0, h]
  exact (append4_fields (e.b.setWidth 6) (e.a.setWidth 6) (e.d.setWidth 6) (common e)).2

theorem word0_lx {e : Enc} (h : e.form ≠ .s) : (word0 e).extractLsb' 14 8 = e.d ∧ (word0 e).extractLsb' 22 8 = e.a
    ∧ (word0 e).getLsbD 30 = e.cc ∧ (word0 e).getLsbD 31 = e.b31 := by
  have hw : word0 e = BitVec.ofBool e.b31 ++ BitVec.ofBool e.cc ++ e.a ++ e.d ++ common e := by
    unfold word0; split
    · contradiction
    · rfl
  obtain ⟨-, hd, ha, hcc, hb⟩ := append5_fields (BitVec.ofBool e.b31) (BitVec.ofBool e.cc) e.a e.d (common e)
  rw [hw]
  exact ⟨hd, ha, getLsbD_of_extract hcc, getLsbD_of_extract hb⟩

theorem word1_fields (e : Enc) : (word1 e).extractLsb' 0 8 = e.b ∧ (word1 e).extractLsb' 8 8 = e.c ∧ (word1 e).extractLsb' 16 4 = e.la
    ∧ (word1 e).extractLsb' 20 4 = e.t ∧ (word1 e).extractLsb' 24 8 = e.m :=
  append5_fields e.m e.t e.la e.c e.b

/-- The raw fields hold nothing that their form has no bits for: an S form has three operand fields of six bits, and an L form no literal. -/
def FieldsFit (e : Enc) : Prop :=
  match e.form with
  | .s => e = (sOf e).enc e.op
  | .l => e.lit = 0
  | .x => True

/-- Raw fields are read back from their words. -/
theorem ofWords_toWords {e : Enc} (h : FieldsFit e) :
    Encoding.ofWords ((toWords e).getD 0 0) ((toWords e).getD 1 0) ((toWords e).getD 2 0) = some e := by
  obtain ⟨-, hop, hn, hg⟩ := word0_common e
  have hf := formOf_word0 e
  obtain ⟨hb, hc, hla, ht, hm⟩ := word1_fields e
  cases hform : e.form with
  | s =>
    obtain ⟨hd, ha, hb⟩ := word0_s hform
    simp only [FieldsFit, hform] at h
    rw [hform] at hf
    simp only [toWords, hform, Encoding.ofWords, List.getD_cons_zero, hf, hop, hn, hg, hd, ha, hb]
    exact congrArg some h.symm
  | l =>
    obtain ⟨hd, ha, hcc, hb31⟩ := word0_lx (e := e) (by simp [hform])
    simp only [FieldsFit, hform] at h
    rw [hform] at hf
    simp only [toWords, hform, Encoding.ofWords, List.getD_cons_zero, List.getD_cons_succ, hf, hop, hn, hg, hd, ha, hcc, hb31, hb, hc, hla, ht, hm,
      reduceCtorEq, if_false]
    rw [← h, ← hform]
  | x =>
    obtain ⟨hd, ha, hcc, hb31⟩ := word0_lx (e := e) (by simp [hform])
    rw [hform] at hf
    simp only [toWords, hform, Encoding.ofWords, List.getD_cons_zero, List.getD_cons_succ, hf, hop, hn, hg, hd, ha, hcc, hb31, hb, hc, hla, ht, hm,
      if_true]
    rw [← hform]

/-! ## The row that the raw fields select (Table 2.8) -/

/-- `e` holds the fields of `i`: words can hold them, and the row they select is that of `i`. -/
def Coded (e : Enc) (i : Instr) : Prop := FieldsFit e ∧ instrOf e = some i

@[simp] theorem sOf_enc (y : SEnc) (op : BitVec 8) : sOf (y.enc op) = y := by
  simp [sOf, SEnc.enc]

theorem lxOf_encL {x : LX} (h : x.lit = none) (op : BitVec 8) : lxOf (x.encL op) = x := by
  obtain ⟨g, n, cc, d, a, b, c, t, la, m, lit⟩ := x
  cases h; rfl

theorem lxOf_encX {x : LX} {v : Word} (h : x.lit = some v) (op : BitVec 8) : lxOf (x.encX op) = x := by
  obtain ⟨g, n, cc, d, a, b, c, t, la, m, lit⟩ := x
  cases h; rfl

section
variable {C : LX → Instr} {x : LX} {op : BitVec 8}

theorem coded_s {C : SEnc → Instr} {y : SEnc} (h : instrOf (y.enc op) = some (C (sOf (y.enc op)))) : Coded (y.enc op) (C y) := by
  refine ⟨?_, by rw [h, sOf_enc]⟩
  show y.enc op = (sOf (y.enc op)).enc op
  rw [sOf_enc]

theorem coded_l (hl : x.lit.isNone = true) (h : instrOf (x.encL op) = some (C (lxOf (x.encL op)))) : Coded (x.encL op) (C x) :=
  ⟨rfl, by rw [h, lxOf_encL (Option.isNone_iff_eq_none.1 hl)]⟩

theorem coded_x (hl : x.lit.isSome = true) (h : instrOf (x.encX op) = some (C (lxOf (x.encX op)))) : Coded (x.encX op) (C x) := by
  obtain ⟨v, hv⟩ := Option.isSome_iff_exists.1 hl
  exact ⟨trivial, by rw [h, lxOf_encX hv]⟩

/-- A row that has both forms: the term's literal decides which. -/
theorem coded_lx (hL : instrOf (x.encL op) = some (C (lxOf (x.encL op)))) (hX : instrOf (x.encX op) = some (C (lxOf (x.encX op)))) :
    Coded (x.enc op) (C x) := by
  cases hl : x.lit with
  | none =>
    have he : x.enc op = x.encL op := by simp [LX.enc, LX.encL, hl]
    rw [he]; exact coded_l (by simp [hl]) hL
  | some v =>
    have he : x.enc op = x.encX op := by simp [LX.enc, LX.encX, hl]
    rw [he]; exact coded_x (by simp [hl]) hX

/-- A row of an opcode whose c field selects the sub-operation. -/
theorem coded_sub {c : BitVec 8} (hs : (x.lit.isNone && x.c == c) = true)
    (h : instrOf (({ x with c := c } : LX).encL op) = some (C (lxOf (({ x with c := c } : LX).encL op)))) :
    Coded (({ x with c := c } : LX).encL op) (C x) := by
  simp only [Bool.and_eq_true, beq_iff_eq] at hs
  obtain ⟨hl, rfl⟩ := hs
  exact coded_l hl h

end

/-- Every encodable term of a row's shape is what its raw fields select. -/
theorem coded_of_enc? {i : Instr} {e : Enc} (he : i.enc? = some e) (hs : i.shape = true) : Coded e i := by
  cases i
  case nopS x | braS x | jmpS x | callS x | calliS x | retS x | meetS x | meetrS x | exitS x | trapS x | brkS x | yieldS x | addS x | subS x | negS x
     | andS x | orS x | xorS x | shlS x | shrS x | sarS x | movS x | cmpS x | selS x | faddS x | fsubS x | fmulS x | ldS x | stS x | ldsS x | stsS x
     | sarriveS x | swaitS x | sbarS x => cases he; exact coded_s rfl
  case nopL x | jmpL x | calliL x | retL x | meetrL x | exitL x | trapL x | brkL x | yieldL x | qop x | qget x | ccget x | fence x | sbarL x | mload x
     | rowld x | hada x | accrd x | accst x | xgath x | rdv x | gres x | xfer x | fcommit x | fred x | cloa x | cref x | cunref x | cswap x | ccopy x
     | lhash x | hblk x | pflook x | pfins x | pfpin x | pfunpin x | stepend x | kvld x | kvst x | kvcommit x | kvreject x | kvfork x | solicit x
     | dirput x | dirdel x | reply x | rdsr x | tkclaim x | mbind x => cases he; exact coded_l hs rfl
  case braX x | callX x | meetX x | trapX x | fbegin x => cases he; exact coded_x hs rfl
  case addLX x | subLX x | addx x | subx x | mul x | mulh x | mad x | madw x | div x | rem x | min x | max x | abs x | negLX x | bitc x | clamp x
     | andLX x | orLX x | xorLX x | andn x | bool3 x | shlLX x | shrLX x | sarLX x | rotl x | rotr x | fsh x | bfx x | bfi x | clmul x | lea x
     | movLX x | cmpLX x | fcmp x | scmp x | qset x | selLX x | ccsel x | ccput x | faddLX x | fsubLX x | fmulLX x | ffma x | fmin x | fmax x | fdiv x
     | fsqrt x | frcp x | frsq x | fclass x | frnd x | fscale x | fsplit x | fdot2 x | cvt x | quant x | dequant x | pack x | unpack x | fexp2 x
     | flog2 x | fsin x | fcos x | ftanh x | sadd x | ssub x | smul x | sdiv x | srcp x | slog x | santi x | sfrom x | sto x | sacce x | ldLX x
     | stLX x | ldsLX x | stsLX x | ldf x | ldk x | pfch x | amo x | amos x | sinit x | sarriveLX x | swaitLX x | spoll x | xperm x | xbcast x
     | xvote x | xred x | xscan x | xmatch x | xelect x | acca x | accf x | mmac x | aswap x | accz x | xcopy x | fork x | cld x | stepbeg x | gview x
     | gsetw x | wrsr x | kset x | launch x | reggive x | regclaim x | tlbinv x => cases he; exact coded_lx rfl rfl
  case cctlInv x | cctlInvl x | kvinfoLen x | kvinfoBlk x | kvinfoHash x | kvinfoTok x | kvinfoThr x | kvinfoMint x | kvinfoRevoke x => cases he; exact coded_sub hs rfl
  all_goals cases he

/-! ## Settling the statement -/

/-- Settles O57: the words hold every raw field, and these select the instruction's own row. -/
theorem decodeOfEncode : Obligations.DecodeOfEncode := by
  unfold Obligations.DecodeOfEncode
  intro i henc hwf
  obtain ⟨e, he⟩ := Option.isSome_iff_exists.1 henc
  simp only [Instr.wf, he, Bool.and_eq_true, Option.isNone_iff_eq_none] at hwf
  obtain ⟨hshape, hok⟩ := hwf
  obtain ⟨hfit, hrow⟩ := coded_of_enc? he hshape
  simp only [decodeList, encode, he, decodeWords, ofWords_toWords hfit, hok, hrow]

end Sys2Proof.Claims
end

section
/-!
PROOFS. What each function does to the memory, 1 of 8: the accesses: focus, journals, content lines, translation, stores, publication, sync words, phases and sequences. `_mem`: it leaves the memory as it is; `_wf`: it keeps the memory canonical.
-/
namespace Sys2Proof.Claims
open Machine Bits Encoding

/-! ## Folds and choices -/

theorem foldl_mem {α : Type} {f : State → α → State} (hf : ∀ s a, (f s a).mem = s.mem) (l : List α) (s : State) : (l.foldl f s).mem = s.mem := by
  induction l generalizing s with
  | nil => rfl
  | cons a l ih => rw [List.foldl_cons, ih, hf]

theorem foldl_wf {α : Type} {f : State → α → State} (hf : ∀ s a, Memory.wf s.mem = true → Memory.wf (f s a).mem = true) (l : List α) {s : State}
    (h : Memory.wf s.mem = true) : Memory.wf (l.foldl f s).mem = true := by
  induction l generalizing s with
  | nil => exact h
  | cons a l ih => exact ih (hf s a h)

theorem getD_mem {o : Option State} {s : State} (h : ∀ t, o = some t → t.mem = s.mem) : (o.getD s).mem = s.mem := by
  cases o with
  | none => rfl
  | some t => exact h t rfl

theorem getD_wf {o : Option State} {s : State} (h : Memory.wf s.mem = true) (ho : ∀ t, o = some t → Memory.wf t.mem = true) :
    Memory.wf (o.getD s).mem = true := by
  cases o with
  | none => exact h
  | some t => exact ho t rfl

theorem map_ok {ε α β : Type} {f : α → β} {x : Except ε α} {b : β} (h : x.map f = .ok b) : ∃ a, x = .ok a ∧ f a = b := by
  cases x with
  | error e => cases h
  | ok a => cases h; exact ⟨a, rfl, rfl⟩

/-! ## Functions of Base -/

theorem checkoutThread_mem {k : ThreadKey} {s : State} {t : State} (ht : State.checkoutThread k s = some t) : t.mem = s.mem := by
  unfold State.checkoutThread at ht
  grind

theorem checkoutGroup_mem {n : Nat} {s : State} {t : State} (ht : State.checkoutGroup n s = some t) : t.mem = s.mem := by
  unfold State.checkoutGroup at ht
  grind

theorem checkoutLaunch_mem {n : Nat} {s : State} {t : State} (ht : State.checkoutLaunch n s = some t) : t.mem = s.mem := by
  unfold State.checkoutLaunch at ht
  grind

theorem focusGroup_mem {gid : Nat} {s : State} {t : State} (ht : State.focusGroup gid s = some t) : t.mem = s.mem := by
  unfold State.focusGroup at ht
  grind [State.checkoutCore_mem, → checkoutGroup_mem, → checkoutLaunch_mem, State.focusPart_mem]

theorem focus_mem {k : ThreadKey} {s : State} {t : State} (ht : State.focus k s = some t) : t.mem = s.mem := by
  unfold State.focus at ht
  grind [→ checkoutThread_mem, → focusGroup_mem]

@[simp] theorem updThread_mem (k : ThreadKey) (f : Thread → Thread) (s : State) : (s.updThread k f).mem = s.mem := rfl

@[simp] theorem updGroup_mem (gid : Nat) (f : Group → Group) (s : State) : (s.updGroup gid f).mem = s.mem := rfl

@[simp] theorem updLaunch_mem (lid : Nat) (f : Launch → Launch) (s : State) : (s.updLaunch lid f).mem = s.mem := rfl

/-! ## Functions of Translate -/

theorem mark_wf {va : Nat} {store : Bool} {x : Xlat} {s : State} (h : Memory.wf s.mem = true) : Memory.wf (s.mark va store x).mem = true := by
  unfold State.mark
  repeat' split
  · exact h
  · exact Memory.wf_write _ h _
  · exact h
  · exact h

theorem visit_wf {va : Nat} {store : Bool} {s : State} (h : Memory.wf s.mem = true) : Memory.wf (State.visit va store s).mem = true := by
  unfold State.visit
  grind [mark_wf]

theorem touch_wf {va : Nat} {store : Bool} {x : Xlat} {s : State} (h : Memory.wf s.mem = true) : Memory.wf (State.touch va store x s).mem = true := by
  unfold State.touch
  grind [mark_wf]

@[simp] theorem checkedTag_mem (key : Nat) (ok : Bool) (s : State) : (State.checkedTag key ok s).mem = s.mem := by
  unfold State.checkedTag
  grind [→ map_ok]

/-! ## Functions of Journal -/

@[simp] theorem emit_mem (dev : Nat) (m : OutMsg) (s : State) : (State.emit dev m s).mem = s.mem := by
  unfold State.emit
  grind

@[simp] theorem msixSignal_mem (dev pid v : Nat) (s : State) : (State.msixSignal dev pid v s).mem = s.mem := by
  unfold State.msixSignal
  grind [emit_mem, State.updPart_mem]

@[simp] theorem report_mem (dev pid code : Nat) (u : ErrUnit) (context : Word) (s : State) : (State.report dev pid code u context s).mem = s.mem := by
  unfold State.report
  grind [emit_mem, msixSignal_mem, State.updPart_mem]

@[simp] theorem journalLaunch_mem (l : Launch) (state status : Nat) (s : State) : (State.journalLaunch l state status s).mem = s.mem := by
  unfold State.journalLaunch
  grind [State.updPart_mem]

/-! ## Functions of Launching -/

@[simp] theorem acceptLaunch_mem (l : Launch) (priority : Nat) (s : State) : (State.acceptLaunch l priority s).mem = s.mem := by
  unfold State.acceptLaunch
  grind [State.freshId_mem, journalLaunch_mem, State.updPart_mem]

theorem startHandler_wf {m addr : Nat} {s : State} (h : Memory.wf s.mem = true) : Memory.wf (State.startHandler m addr s).mem = true := by
  unfold State.startHandler
  grind [acceptLaunch_mem, visit_wf, → map_ok]

theorem mailboxLaunch_wf {m addr : Nat} {s : State} (h : Memory.wf s.mem = true) : Memory.wf (State.mailboxLaunch m addr s).mem = true := by
  unfold State.mailboxLaunch
  grind [startHandler_wf]

theorem mailboxWrite_wf {va : Nat} {s : State} (h : Memory.wf s.mem = true) : Memory.wf (State.mailboxWrite va s).mem = true := by
  unfold State.mailboxWrite
  grind [mailboxLaunch_wf]

/-! ## Functions of Access -/

theorem race_mem {key va : Nat} {write : Bool} {s : State} {t : State} (ht : State.race key va write s = .ok t) : t.mem = s.mem := by
  unfold State.race at ht
  grind

@[simp] theorem plainBytes_mem (key n cls : Nat) (s : State) : (State.plainBytes key n cls s).2.mem = s.mem := by
  unfold State.plainBytes
  grind [State.cacheFill_mem, State.choose_mem]

theorem load_mem {x : Xlat} {n : Nat} {plain : Bool} {s : State} {t : State} {r : Nat} (ht : State.load x n plain s = .ok (r, t)) : t.mem = s.mem := by
  unfold State.load at ht
  grind [plainBytes_mem]

theorem performCells_wf {cells : List (Nat × Byte)} {s : State} (h : Memory.wf s.mem = true) : Memory.wf (s.performCells cells).mem = true := by
  rw [State.performCells_mem]; exact Memory.wf_writeCells _ h

theorem commitStaged_wf {s : State} (h : Memory.wf s.mem = true) : Memory.wf (State.commitStaged s).mem = true := by
  unfold State.commitStaged
  grind [State.clearPoison_mem, performCells_wf]

theorem commitNow_wf {s : State} (h : Memory.wf s.mem = true) : Memory.wf (State.commitNow s).mem = true := by
  unfold State.commitNow
  grind [commitStaged_wf]

theorem mailboxStore_wf {key va : Nat} {bs : List Byte} {s t : State} (h : Memory.wf s.mem = true) (ht : s.mailboxStore key va bs = .ok t) :
    Memory.wf t.mem = true := by
  unfold State.mailboxStore at ht
  cases hc : s.commitEarly with
  | error e => rw [hc] at ht; cases ht
  | ok s1 =>
    rw [hc] at ht; cases ht
    exact mailboxWrite_wf (State.perform_wf (State.commitEarly_wf h hc))

@[simp] theorem unstage_mem (key n : Nat) (s : State) : (State.unstage key n s).mem = s.mem := by
  unfold State.unstage
  grind

theorem release_mem {scope : Nat} {s : State} {t : State} (ht : State.release scope s = .ok t) : t.mem = s.mem := by
  unfold State.release at ht
  grind

theorem releaseBy_mem {order scope : Nat} {s : State} {t : State} (ht : State.releaseBy order scope s = .ok t) : t.mem = s.mem := by
  unfold State.releaseBy at ht
  grind [→ release_mem]

theorem logged_wf {tid op addr : Nat} {operand : List Word} {act : State → Except Stop (List Word × State)}
    (hact : ∀ {s : State} {r t}, Memory.wf s.mem = true → act s = .ok (r, t) → Memory.wf t.mem = true) {s t : State} {r : List Word}
    (h : Memory.wf s.mem = true) (ht : s.logged tid op addr operand act = .ok (r, t)) : Memory.wf t.mem = true := by
  unfold State.logged at ht
  split at ht
  · cases ht
  · next ha => cases ht; have h1 := hact h ha; exact h1

theorem publish_wf {op addr : Nat} {operand : List Word} {act : State → Except Stop (List Word × State)}
    (hact : ∀ {s : State} {r t}, Memory.wf s.mem = true → act s = .ok (r, t) → Memory.wf t.mem = true) {s t : State} {r : List Word}
    (h : Memory.wf s.mem = true) (ht : s.publish op addr operand act = .ok (r, t)) : Memory.wf t.mem = true := by
  unfold State.publish at ht
  dsimp only at ht
  split at ht
  · split at ht
    · cases ht
    · split at ht
      · split at ht
        · cases ht; exact h
        · exact logged_wf hact (by exact h) ht
      · cases ht
  · split at ht
    · cases ht
    · next s1 hs1 =>
      refine logged_wf hact ?_ ht
      split at hs1
      · exact State.commitEarly_wf h hs1
      · cases hs1; exact h

/-! ## Functions of SyncWord -/

theorem putSync_wf {loc : SyncLoc} {w : SyncWord} {held : Nat} {s : State} (h : Memory.wf s.mem = true) : Memory.wf (s.putSync loc w held).mem = true := by
  cases loc with
  | scratch gid off => exact h
  | mem key => exact Memory.wf_write _ h _

@[simp] theorem putAttr_mem (loc : SyncLoc) (a : SyncAttr) (s : State) : (s.putAttr loc a).mem = s.mem := by cases loc <;> rfl

@[simp] theorem wakeSync_mem (loc : SyncLoc) (gen : Word) (changed : Bool) (counts : Nat × Nat × Nat) (s : State) :
    (s.wakeSync loc gen changed counts).mem = s.mem := by
  unfold State.wakeSync
  refine (foldl_mem (fun s g => ?_) _ _).trans rfl
  split <;> simp

@[simp] theorem advanceGen_mem (lid dev : Nat) (s : State) : (s.advanceGen lid dev).mem = s.mem := by
  unfold State.advanceGen; split <;> rfl

@[simp] theorem advanceGens_mem (lid dev n : Nat) (s : State) : (s.advanceGens lid dev n).mem = s.mem := by
  induction n generalizing s with
  | zero => rfl
  | succ n ih => rw [State.advanceGens, ih, advanceGen_mem]

@[simp] theorem onComplete_mem (loc : SyncLoc) (lid n : Nat) (s : State) : (s.onComplete loc lid n).mem = s.mem := by
  unfold State.onComplete
  cases loc <;> grind [updGroup_mem, State.mapThreads_mem, advanceGens_mem]

theorem syncApply_wf {loc : SyncLoc} {bytes : Nat} {arrival : Bool} {lid : Nat} {s : State} (h : Memory.wf s.mem = true) : Memory.wf (State.syncApply loc bytes arrival lid s).mem = true := by
  unfold State.syncApply
  grind [onComplete_mem, putSync_wf, wakeSync_mem]

theorem lowerTarget_wf {gid off lid : Nat} {last : Bool} {s : State} (h : Memory.wf s.mem = true) : Memory.wf (State.lowerTarget gid off lid last s).mem = true := by
  unfold State.lowerTarget
  grind [onComplete_mem, putSync_wf, wakeSync_mem]

theorem initSync_wf {loc : SyncLoc} {bt tt : Nat} {attr : SyncAttr} {s : State} (h : Memory.wf s.mem = true) : Memory.wf (State.initSync loc bt tt attr s).mem = true := by
  unfold State.initSync
  grind [putAttr_mem, putSync_wf, wakeSync_mem]

/-! ## Functions of Phase -/

@[simp] theorem writeRecord_mem (s : State) : (State.writeRecord s).mem = s.mem := by
  unfold State.writeRecord
  grind [→ map_ok]

@[simp] theorem beginPhase_mem (s : State) : (State.beginPhase s).mem = s.mem := by
  unfold State.beginPhase
  grind [writeRecord_mem]

@[simp] theorem discardJobs_mem (mine : Job → Bool) (s : State) : (State.discardJobs mine s).mem = s.mem := by
  unfold State.discardJobs
  grind [State.mapCores_mem]

@[simp] theorem discardPhaseJobs_mem (s : State) : (State.discardPhaseJobs s).mem = s.mem := by
  unfold State.discardPhaseJobs
  grind [discardJobs_mem, State.mapCores_mem, → map_ok]

@[simp] theorem forget_mem (gid : Nat) (s : State) : (State.forget gid s).mem = s.mem := by
  unfold State.forget
  grind

@[simp] theorem changedSince_mem (old : Core) (s : State) : (State.changedSince old s).mem = s.mem := by
  unfold State.changedSince
  grind [State.mapThreads_mem]

@[simp] theorem dropShadow_mem (gid : Nat) (s : State) : (s.dropShadow gid).mem = s.mem := by
  unfold State.dropShadow
  exact foldl_mem (fun s g => by simp) _ _

@[simp] theorem endGroup_mem (s : State) : (State.endGroup s).mem = s.mem := by
  unfold State.endGroup
  grind [changedSince_mem, discardJobs_mem, dropShadow_mem, forget_mem, State.mapCores_mem]

@[simp] theorem discardStaged_mem (s : State) : (State.discardStaged s).mem = s.mem := by
  unfold State.discardStaged
  grind

@[simp] theorem differ_mem (s : State) : (State.differ s).mem = s.mem := by
  unfold State.differ
  grind

@[simp] theorem abortNode_mem (s : State) : (State.abortNode s).mem = s.mem := by
  unfold State.abortNode
  grind [differ_mem, discardPhaseJobs_mem, discardStaged_mem, endGroup_mem, report_mem]

theorem commit_wf {s : State} (h : Memory.wf s.mem = true) : Memory.wf (State.commit s).mem = true := by
  unfold State.commit
  grind [changedSince_mem, commitStaged_wf, → map_ok]

@[simp] theorem saveGroup_mem (all : Bool) (s : State) : (State.saveGroup all s).mem = s.mem := by
  unfold State.saveGroup
  grind [changedSince_mem, State.free_mem, → map_ok]

@[simp] theorem settleQueued_mem (s : State) : (State.settleQueued s).mem = s.mem := by
  unfold State.settleQueued
  grind [saveGroup_mem]

@[simp] theorem nextPhase_mem (s : State) : (State.nextPhase s).mem = s.mem := by
  unfold State.nextPhase
  grind [beginPhase_mem, endGroup_mem, State.mapThreads_mem]

@[simp] theorem requeue_mem (s : State) : (State.requeue s).mem = s.mem := by
  unfold State.requeue
  grind [settleQueued_mem]

theorem rollbackGroup_wf {s : State} (h : Memory.wf s.mem = true) : Memory.wf s.rollbackGroup.mem = true := by
  simp only [State.rollbackGroup, requeue_mem]
  refine foldl_wf (fun s b hs => syncApply_wf hs) _ ?_
  simpa using h

@[simp] theorem dropAudit_mem (gid : Nat) (s : State) : (s.dropAudit gid).mem = s.mem := by
  simp only [State.dropAudit, updGroup_mem, dropShadow_mem]

theorem consumeError_wf {code : Nat} {unit : ErrUnit} {s : State} (h : Memory.wf s.mem = true) : Memory.wf (State.consumeError code unit s).mem = true := by
  unfold State.consumeError
  grind [abortNode_mem, dropAudit_mem, report_mem, rollbackGroup_wf]

@[simp] theorem poolChanged_mem (gid : Nat) (s : State) : (State.poolChanged gid s).mem = s.mem := by
  unfold State.poolChanged
  grind [State.mapThreads_mem]

theorem exitThread_wf {s : State} (h : Memory.wf s.mem = true) : Memory.wf s.exitThread.mem = true := by
  simp only [State.exitThread]
  split <;> split <;> simp only [poolChanged_mem, State.mapThreads_mem] <;> exact foldl_wf (fun s b hs => lowerTarget_wf hs) _ h

/-! ## Functions of AtomicOp -/

@[simp] theorem acquired_mem (a : Access) (s : State) : (State.acquired a s).mem = s.mem := by
  unfold State.acquired
  grind [State.updCore_mem]

@[simp] theorem answer_mem (a : Access) (ret vals : List Word) (fp : BitVec 5) (s : State) : (s.answer a ret vals fp).mem = s.mem := rfl

@[simp] theorem answered_mem (a : Access) (s : State) : (s.answered a).mem = s.mem := rfl

theorem raceRemote_mem {a : Access} {s : State} {t : State} (ht : State.raceRemote a s = .ok t) : t.mem = s.mem := by
  unfold State.raceRemote at ht
  grind

@[simp] theorem unstageOf_mem (gid key n : Nat) (s : State) : (s.unstageOf gid key n).mem = s.mem := rfl

theorem landOf_wf {gid key n : Nat} {s : State} (h : Memory.wf s.mem = true) : Memory.wf (State.landOf gid key n s).mem = true := by
  unfold State.landOf
  grind [performCells_wf, unstageOf_mem]

theorem performSync_wf {a : Access} {act : SyncAct} {s : State} (h : Memory.wf s.mem = true) : Memory.wf (State.performSync a act s).1.mem = true := by
  unfold State.performSync
  grind [acquired_mem, answer_mem, answered_mem, initSync_wf, State.perform_wf, syncApply_wf, State.updCore_mem, State.updPart_mem, updThread_mem, → map_ok]

theorem performAccess_wf {a : Access} {s : State} (h : Memory.wf s.mem = true) : Memory.wf (State.performAccess a s).1.mem = true := by
  unfold State.performAccess
  grind [acquired_mem, answer_mem, answered_mem, checkedTag_mem, State.perform_wf, performSync_wf, → raceRemote_mem, unstageOf_mem]

theorem performAll_wf {mine : Access → Bool} {n : Nat} {s : State} (h : Memory.wf s.mem = true) : Memory.wf (performAll mine n s).1.mem = true := by
  induction n generalizing s with
  | zero => exact h
  | succ n ih =>
    unfold performAll
    split
    · exact h
    · refine ih ?_
      split
      · exact mailboxWrite_wf (performAccess_wf h)
      · exact performAccess_wf h

theorem performOwn_wf {s : State} (h : Memory.wf s.mem = true) : Memory.wf s.performOwn.1.mem = true := performAll_wf h

@[simp] theorem stampRegion_mem (k : ThreadKey) (dst : Nat) (s : State) : (s.stampRegion k dst).mem = s.mem := by
  unfold State.stampRegion
  split
  · rfl
  · exact foldl_mem (fun s b => by split <;> rfl) _ _

theorem commitDest_wf {k : ThreadKey} {dst : Nat} {s : State} (h : Memory.wf s.mem = true) : Memory.wf (State.commitDest k dst s).mem = true := by
  unfold State.commitDest
  grind [State.clearPoison_mem, performCells_wf, stampRegion_mem, → map_ok]

theorem logDone_wf {tid op addr : Nat} {operand ret : List Word} {s : State} (h : Memory.wf s.mem = true) : Memory.wf (State.logDone tid op addr operand ret s).mem = true := by
  unfold State.logDone
  grind [commitNow_wf]

theorem settleRegions_wf {s : State} (h : Memory.wf s.mem = true) : Memory.wf s.settleRegions.mem = true := by
  unfold State.settleRegions
  refine foldl_wf (fun s t hs => ?_) _ h
  split
  · dsimp only
    split
    · exact logDone_wf (foldl_wf (fun s d hs => commitDest_wf hs) _ hs)
    · exact hs
  · exact hs

theorem performGroup_wf {s : State} (h : Memory.wf s.mem = true) : Memory.wf s.performGroup.mem = true :=
  settleRegions_wf (performAll_wf h)

/-! ## Functions of Operands -/

@[simp] theorem laterAs_mem (id : Nat) (e : Enc) (vals : List Word) (n : Nat) (fp : BitVec 5) (sli : BitVec 7) (alu acq canSli canFp : Bool) (s : State) : (State.laterAs id e vals n fp sli alu acq canSli canFp s).mem = s.mem := by
  unfold State.laterAs
  grind

@[simp] theorem laterD_mem (e : Enc) (n v : Nat) (s : State) : (State.laterD e n v s).mem = s.mem := by
  unfold State.laterD
  grind [State.later_mem]

@[simp] theorem laterF_mem (e : Enc) (n v : Nat) (f : BitVec 5) (s : State) : (State.laterF e n v f s).mem = s.mem := by
  unfold State.laterF
  grind [State.later_mem]

@[simp] theorem laterS_mem (e : Enc) (n v : Nat) (f : BitVec 5) (g : BitVec 7) (s : State) : (State.laterS e n v f g s).mem = s.mem := by
  unfold State.laterS
  grind [State.later_mem]

@[simp] theorem laterM_mem (e : Enc) (n v : Nat) (acq : Bool) (fp : BitVec 5) (s : State) : (State.laterM e n v acq fp s).mem = s.mem := by
  unfold State.laterM
  grind [State.later_mem]

/-! ## Functions of SeqStore -/

@[simp] theorem failSeq_mem (id : Word) (gone : Nat → Bool) (lost : List Nat) (s : State) : (State.failSeq id gone lost s).mem = s.mem := by
  unfold State.failSeq
  grind [report_mem, updSeq_mem]

@[simp] theorem poisonedBlock_mem (id : Word) (blk : Nat) (s : State) : (State.poisonedBlock id blk s).mem = s.mem := by
  unfold State.poisonedBlock
  grind [failSeq_mem, report_mem]

@[simp] theorem failStep_mem (id : Word) (lid : Nat) (s : State) : (s.failStep id lid).mem = s.mem := updSeq_mem ..

end Sys2Proof.Claims
end

section
/-!
PROOFS. What each function does to the memory, 2 of 8: issue, remote accesses, loads and stores, engines and the fabric. `_mem`: it leaves the memory as it is; `_wf`: it keeps the memory canonical.
-/
namespace Sys2Proof.Claims
open Machine Bits Encoding

/-! ## Functions of Ops -/

theorem consume_wf {code : Nat} {s : State} (h : Memory.wf s.mem = true) : Memory.wf (State.consume code s).mem = true := by
  unfold State.consume
  grind [consumeError_wf, performGroup_wf]

theorem takeTrap_wf {cause : Nat} {detail arg : Word} {ws : List Word} {s : State} (h : Memory.wf s.mem = true) : Memory.wf (State.takeTrap cause detail arg ws s).mem = true := by
  unfold State.takeTrap
  grind [abortNode_mem, State.clearPoison_mem, consume_wf, differ_mem, mailboxWrite_wf, State.perform_wf, performOwn_wf, touch_wf, → map_ok]

@[simp] theorem issuedOne_mem (s : State) : (State.issuedOne s).mem = s.mem := by
  unfold State.issuedOne
  grind

theorem deliverTrap_wf {cause : Nat} {detail arg : Word} {ws : List Word} {s : State} (h : Memory.wf s.mem = true) : Memory.wf (State.deliverTrap cause detail arg ws s).mem = true := by
  unfold State.deliverTrap
  grind [issuedOne_mem, takeTrap_wf]

theorem resumeTrap_wf {s : State} (h : Memory.wf s.mem = true) : Memory.wf (State.resumeTrap s).mem = true := by
  unfold State.resumeTrap
  grind [exitThread_wf]

theorem postHeld_wf {n : Nat} {s : State} (h : Memory.wf s.mem = true) : Memory.wf (postHeld n s).mem = true := by
  induction n generalizing s with
  | zero => exact h
  | succ n ih =>
    unfold postHeld
    dsimp only
    repeat' split
    · exact h
    · exact h
    · exact h
    · refine ih ?_
      simp only [msixSignal_mem]
      exact Memory.wf_write _ (visit_wf h) _

@[simp] theorem atsRequest_mem (page : Nat) (s : State) : (State.atsRequest page s).mem = s.mem := by
  unfold State.atsRequest
  grind [emit_mem]

theorem postFault_wf {page kind : Nat} {core : Word} {s : State} (h : Memory.wf s.mem = true) : Memory.wf (s.postFault page kind core).mem = true := by
  unfold State.postFault
  split
  · exact h
  · refine postHeld_wf ?_
    split
    · simpa using h
    · exact h

theorem parkOn_wf {page kind : Nat} {s : State} (h : Memory.wf s.mem = true) : Memory.wf (State.parkOn page kind s).mem = true := by
  unfold State.parkOn
  grind [postFault_wf]

@[simp] theorem bufferLines_mem (va n : Nat) (s : State) : (State.bufferLines va n s).mem = s.mem := by
  unfold State.bufferLines
  grind

@[simp] theorem dropLines_mem (s : State) : (State.dropLines s).mem = s.mem := by
  unfold State.dropLines
  grind

@[simp] theorem sendMarkers_mem (s : State) : (State.sendMarkers s).mem = s.mem := by
  unfold State.sendMarkers
  grind [State.freshId_mem]

@[simp] theorem waitAt_mem (w : Wait) (ws : List Word) (s : State) : (State.waitAt w ws s).mem = s.mem := by
  unfold State.waitAt
  grind

theorem stop_wf {ws : List Word} {st : Stop} {s : State} (h : Memory.wf s.mem = true) : Memory.wf (State.stop ws st s).mem = true := by
  unfold State.stop
  grind [abortNode_mem, bufferLines_mem, consume_wf, deliverTrap_wf, issuedOne_mem, parkOn_wf, performGroup_wf, poisonedBlock_mem, sendMarkers_mem, takeTrap_wf, waitAt_mem]

/-! ## Functions of Issue -/

@[simp] theorem freshenFrom_mem (vs : List (Nat × Word)) (s : State) : (freshenFrom vs s).mem = s.mem := by
  induction vs generalizing s with
  | nil => rfl
  | cons v vs ih =>
    unfold freshenFrom
    rw [ih]
    split <;> simp

@[simp] theorem retire_mem (s0 s : State) : (s0.retire s).mem = s.mem := by
  unfold State.retire; grind

@[simp] theorem skip_mem (e : Enc) (s : State) : (s.skip e).mem = s.mem := by simp only [State.skip, retire_mem]

theorem run_wf {e : Enc} {body : Body} (hb : ∀ {s t : State}, Memory.wf s.mem = true → body e s = .ok t → Memory.wf t.mem = true) {s : State}
    (h : Memory.wf s.mem = true) : Memory.wf (s.run e body).mem = true := by
  have h0 : Memory.wf s.freshen.mem = true := by rwa [freshen_mem]
  unfold State.run
  dsimp only
  split
  · exact stop_wf h0
  · next hok => rw [retire_mem]; refine hb ?_ hok; exact h0

/-! ## Functions of Remote -/

@[simp] theorem pathTo_mem (dst key : Nat) (s : State) : (State.pathTo dst key s).2.mem = s.mem := by
  unfold State.pathTo
  grind

@[simp] theorem send_mem (kind : AccessKind) (x : Xlat) (va : Nat) (plain ordered waits acq : Bool) (s : State) : (State.send kind x va plain ordered waits acq s).mem = s.mem := by
  unfold State.send
  grind [State.freshId_mem, pathTo_mem]

@[simp] theorem waitRemote_mem (id : Nat) (s : State) : (State.waitRemote id s).mem = s.mem := by
  unfold State.waitRemote
  grind

theorem global_wf {r : Req} {s : State} (h : Memory.wf s.mem = true) {t : State} {v : Xlat} (ht : State.global r s = .ok (v, t)) : Memory.wf t.mem = true := by
  unfold State.global at ht
  grind [touch_wf]

@[simp] theorem holdStore_mem (x : Xlat) (va : Nat) (plain : Bool) (bs : List Byte) (s : State) : (State.holdStore x va plain bs s).mem = s.mem := by
  unfold State.holdStore
  grind [→ map_ok]

/-! ## Functions of MemInstr -/

@[simp] theorem logSerial_mem (id : Nat) (s : State) : (State.logSerial id s).mem = s.mem := by
  unfold State.logSerial
  grind [→ map_ok]

@[simp] theorem logSent_mem (s : State) : (State.logSent s).mem = s.mem := by
  unfold State.logSent
  grind [logSerial_mem]

theorem raceIf_mem {x : Xlat} {va : Nat} {write : Bool} {s : State} {t : State} (ht : State.raceIf x va write s = .ok t) : t.mem = s.mem := by
  unfold State.raceIf at ht
  grind [→ race_mem]

theorem loadRemote_wf {e : Enc} {x : Xlat} {va : Nat} {s : State} (h : Memory.wf s.mem = true) {t : State} (ht : loadRemote e x va s = .ok t) : Memory.wf t.mem = true := by
  unfold loadRemote at ht
  grind [State.later_mem, laterAs_mem, laterM_mem, logSent_mem, → publish_wf, send_mem, waitRemote_mem]

theorem bodyLd_wf {e : Enc} {s : State} (h : Memory.wf s.mem = true) {t : State} (ht : bodyLd e s = .ok t) : Memory.wf t.mem = true := by
  unfold bodyLd at ht
  grind [→ global_wf, State.later_mem, laterM_mem, → load_mem, → publish_wf, → raceIf_mem, → loadRemote_wf]

theorem storePlain_wf {e : Enc} {x : Xlat} {va : Nat} {bs : List Byte} {s t : State} (h : Memory.wf s.mem = true)
    (ht : storePlain e x va bs s = .ok t) : Memory.wf t.mem = true := by
  unfold storePlain at ht
  grind [holdStore_mem, → publish_wf, send_mem, logSent_mem, waitRemote_mem, → mailboxStore_wf, State.addUnacked_mem, → raceIf_mem,
    → State.stagePlain_wf, → map_ok]

theorem storeNow_wf {x : Xlat} {va : Nat} {bs : List Byte} {s t : State} {r : List Word} (h : Memory.wf s.mem = true)
    (ht : storeNow x va bs s = .ok (r, t)) : Memory.wf t.mem = true := by
  unfold storeNow at ht
  grind [send_mem, → mailboxStore_wf, State.perform_wf, State.addUnacked_mem, → map_ok]

theorem storeShared_wf {e : Enc} {x : Xlat} {va : Nat} {bs : List Byte} {s : State} (h : Memory.wf s.mem = true) {t : State} (ht : storeShared e x va bs s = .ok t) : Memory.wf t.mem = true := by
  unfold storeShared at ht
  grind [holdStore_mem, logSent_mem, → publish_wf, → State.publishRule_wf, → release_mem, unstage_mem, → storeNow_wf]

theorem bodySt_wf {e : Enc} {s : State} (h : Memory.wf s.mem = true) {t : State} (ht : bodySt e s = .ok t) : Memory.wf t.mem = true := by
  unfold bodySt at ht
  grind [→ global_wf, → storePlain_wf, → storeShared_wf]

theorem bodyLds_mem {e : Enc} {s : State} {t : State} (ht : bodyLds e s = .ok t) : t.mem = s.mem := by
  unfold bodyLds at ht
  grind [laterM_mem]

theorem bodySts_mem {e : Enc} {s : State} {t : State} (ht : bodySts e s = .ok t) : t.mem = s.mem := by
  unfold bodySts at ht
  grind [→ release_mem]

theorem readFirst_mem {x : Xlat} {va nib : Nat} {plain : Bool} {s : State} {t : State} (ht : readFirst x va nib plain s = .ok t) : t.mem = s.mem := by
  unfold readFirst at ht
  grind [State.choose_mem, → load_mem, send_mem]

theorem bodyLdf_wf {e : Enc} {s : State} (h : Memory.wf s.mem = true) {t : State} (ht : bodyLdf e s = .ok t) : Memory.wf t.mem = true := by
  unfold bodyLdf at ht
  grind [→ global_wf, laterAs_mem, laterM_mem, logSent_mem, → publish_wf, → raceIf_mem, → readFirst_mem, → map_ok]

theorem bodyLdk_wf {e : Enc} {s : State} (h : Memory.wf s.mem = true) {t : State} (ht : bodyLdk e s = .ok t) : Memory.wf t.mem = true := by
  unfold bodyLdk at ht
  grind [→ global_wf, laterM_mem, → load_mem, → raceIf_mem]

theorem bodyPfch_mem {e : Enc} {s : State} {t : State} (ht : bodyPfch e s = .ok t) : t.mem = s.mem := by
  unfold bodyPfch at ht
  grind [State.cacheFill_mem]

theorem bodyCctlInv_mem {e0 : Enc} {s : State} {t : State} (ht : bodyCctlInv e0 s = .ok t) : t.mem = s.mem := by
  unfold bodyCctlInv at ht
  grind

theorem bodyCctlInvl_mem {e : Enc} {s : State} {t : State} (ht : bodyCctlInvl e s = .ok t) : t.mem = s.mem := by
  unfold bodyCctlInvl at ht
  grind

theorem bodyFence_mem {e : Enc} {s : State} {t : State} (ht : bodyFence e s = .ok t) : t.mem = s.mem := by
  unfold bodyFence at ht
  grind [State.acquire_mem, → releaseBy_mem]

/-! ## Functions of Atomic -/

theorem amoAt_wf {e : Enc} {x : Xlat} {va : Nat} {s t : State} (h : Memory.wf s.mem = true) (ht : amoAt e x va s = .ok t) :
    Memory.wf t.mem = true := by
  unfold amoAt at ht
  dsimp only at ht
  split at ht
  · cases ht
  · split at ht
    · cases ht
    · next _ s1 hrel _ s2 hpub =>
      have h2 : Memory.wf s2.mem = true := State.publishRule_wf (by rwa [releaseBy_mem hrel]) hpub
      split at ht
      · cases ht
      · next hp =>
        have h3 := publish_wf (fun h ha => by grind [send_mem, → State.commitEarly_wf, → map_ok]) h2 hp
        grind [State.later_mem, laterAs_mem, logSent_mem]
      · next hp =>
        have h3 := publish_wf (fun h ha => by grind [send_mem, → State.commitEarly_wf, → map_ok]) h2 hp
        grind [State.later_mem, unstage_mem, State.orFp_mem, State.acquire_mem]

theorem bodyAmo_wf {e : Enc} {s : State} (h : Memory.wf s.mem = true) {t : State} (ht : bodyAmo e s = .ok t) : Memory.wf t.mem = true := by
  unfold bodyAmo at ht
  grind [touch_wf, → amoAt_wf]

theorem bodyAmos_mem {e : Enc} {s : State} {t : State} (ht : bodyAmos e s = .ok t) : t.mem = s.mem := by
  unfold bodyAmos at ht
  grind [State.acquire_mem, State.later_mem, State.orFp_mem, → releaseBy_mem]

/-! ## Functions of Engine -/

@[simp] theorem writePair_mem (gid n : Nat) (working visible : Bool) (f : AccPair → AccPair) (s : State) :
    (s.writePair gid n working visible f).mem = s.mem := rfl

@[simp] theorem swapPair_mem (gid n : Nat) (s : State) : (s.swapPair gid n).mem = s.mem := rfl

@[simp] theorem enqueue_mem (j : Job) (s : State) : (State.enqueue j s).mem = s.mem := by
  unfold State.enqueue
  grind

theorem command_mem {op : BitVec 8} {codes : List Nat} {j : Job} {s : State} {t : State} (ht : State.command op codes j s = .ok t) : t.mem = s.mem := by
  unfold State.command at ht
  grind [enqueue_mem, → release_mem]

theorem once_mem {op pair : Nat} {f : State → State} {s : State} (hf : (f s).mem = s.mem) : (s.once op pair f).mem = s.mem := by
  simp only [State.once]; split
  · rfl
  · exact hf

theorem ticketRoom_wf {s : State} (h : Memory.wf s.mem = true) {t : State} (ht : State.ticketRoom s = .ok t) : Memory.wf t.mem = true := by
  unfold State.ticketRoom at ht
  grind [→ State.commitEarly_wf]

@[simp] theorem logTicket_mem (v : Word) (s : State) : (State.logTicket v s).mem = s.mem := by
  unfold State.logTicket
  grind

@[simp] theorem retryCore_mem (s : State) : (State.retryCore s).mem = s.mem := by
  unfold State.retryCore
  grind [State.mapThreads_mem]

@[simp] theorem serveSwaps_mem (n : Nat) (s : State) : (serveSwaps n s).mem = s.mem := by
  induction n generalizing s with
  | zero => rfl
  | succ n ih =>
    unfold serveSwaps
    grind [updThread_mem, swapPair_mem, State.mapThreads_mem]

@[simp] theorem retryRdv_mem (s : State) : (State.retryRdv s).mem = s.mem := by
  unfold State.retryRdv
  grind [State.free_mem, State.mapThreads_mem]

@[simp] theorem coreChanged_mem (s : State) : s.coreChanged.mem = s.mem := by
  simp only [State.coreChanged, retryRdv_mem, retryCore_mem, serveSwaps_mem]

/-! ## Functions of Matrix -/

@[simp] theorem grantPairs_mem (v p n : Nat) (s : State) : (s.grantPairs v p n).mem = s.mem := by
  simp only [State.grantPairs, changedSince_mem, logTicket_mem]
  exact foldl_mem (fun s i => writePair_mem ..) _ _

theorem bodyAcca_wf {e : Enc} {s t : State} (h : Memory.wf s.mem = true) (ht : bodyAcca e s = .ok t) : Memory.wf t.mem = true := by
  unfold bodyAcca at ht
  dsimp only at ht
  repeat' split at ht
  · cases ht
  · cases ht
  · next v p _ _ =>
    cases hr : s.ticketRoom with
    | error st => rw [hr] at ht; cases ht
    | ok s1 => rw [hr] at ht; cases ht; simpa using ticketRoom_wf h hr
  · cases ht; exact h

theorem bodyAccf_mem {e : Enc} {s : State} {t : State} (ht : bodyAccf e s = .ok t) : t.mem = s.mem := by
  unfold bodyAccf at ht
  grind [once_mem, writePair_mem]

theorem bodyLoadTile_mem {e : Enc} {s : State} {t : State} (ht : bodyLoadTile e s = .ok t) : t.mem = s.mem := by
  unfold bodyLoadTile at ht
  grind [→ command_mem, → map_ok]

theorem bodyHada_mem {e : Enc} {s : State} {t : State} (ht : bodyHada e s = .ok t) : t.mem = s.mem := by
  unfold bodyHada at ht
  grind [→ command_mem]

theorem bodyMmac_mem {e : Enc} {s : State} {t : State} (ht : bodyMmac e s = .ok t) : t.mem = s.mem := by
  unfold bodyMmac at ht
  grind [→ command_mem]

theorem bodyAccz_mem {e : Enc} {s : State} {t : State} (ht : bodyAccz e s = .ok t) : t.mem = s.mem := by
  unfold bodyAccz at ht
  grind [→ command_mem]

theorem bodyAswap_mem {e : Enc} {s : State} {t : State} (ht : bodyAswap e s = .ok t) : t.mem = s.mem := by
  unfold bodyAswap at ht
  grind [once_mem, swapPair_mem]

theorem bodyAccrd_mem {e : Enc} {s : State} {t : State} (ht : bodyAccrd e s = .ok t) : t.mem = s.mem := by
  unfold bodyAccrd at ht
  grind [State.later_mem]

theorem bodyAccst_mem {e : Enc} {s : State} {t : State} (ht : bodyAccst e s = .ok t) : t.mem = s.mem := by
  unfold bodyAccst at ht
  grind [→ command_mem, → map_ok]

/-! ## Functions of Copy -/

theorem bodyXcopy_mem {e : Enc} {s : State} {t : State} (ht : bodyXcopy e s = .ok t) : t.mem = s.mem := by
  unfold bodyXcopy at ht
  grind [→ command_mem]

theorem bodyXgath_mem {e : Enc} {s : State} {t : State} (ht : bodyXgath e s = .ok t) : t.mem = s.mem := by
  unfold bodyXgath at ht
  grind [→ command_mem]

@[simp] theorem startSeqr_mem (sq list : Nat) (s : State) : (State.startSeqr sq list s).mem = s.mem := by
  unfold State.startSeqr
  grind [changedSince_mem]

theorem bodyFork_mem {e : Enc} {s0 : State} {t : State} (ht : bodyFork e s0 = .ok t) : t.mem = s0.mem := by
  unfold bodyFork at ht
  grind [State.putM_mem, → release_mem, startSeqr_mem]

theorem bodyRdv_mem {e : Enc} {s : State} {t : State} (ht : bodyRdv e s = .ok t) : t.mem = s.mem := by
  unfold bodyRdv at ht
  grind [changedSince_mem, State.free_mem, State.putM_mem]

@[simp] theorem resolve_mem (i : Nat) (v : Bool) (s : State) : (State.resolve i v s).mem = s.mem := by
  unfold State.resolve
  grind [coreChanged_mem, discardJobs_mem, State.mapCores_mem, → map_ok]

theorem bodyGres_mem {e : Enc} {s : State} {t : State} (ht : bodyGres e s = .ok t) : t.mem = s.mem := by
  unfold bodyGres at ht
  grind [resolve_mem]

end Sys2Proof.Claims
end

section
/-!
PROOFS. What each function does to the memory, 3 of 8: census, sync words, lines, hashes, control, numbers and cross-lane instructions. `_mem`: it leaves the memory as it is; `_wf`: it keeps the memory canonical.
-/
namespace Sys2Proof.Claims
open Machine Bits Encoding

/-! ## Functions of Fabric -/

theorem bodyXfer_wf {e : Enc} {s : State} (h : Memory.wf s.mem = true) {t : State} (ht : bodyXfer e s = .ok t) : Memory.wf t.mem = true := by
  unfold bodyXfer at ht
  grind [→ command_mem, → publish_wf, → map_ok]

theorem bodyFbegin_mem {e : Enc} {s : State} {t : State} (ht : bodyFbegin e s = .ok t) : t.mem = s.mem := by
  unfold bodyFbegin at ht
  grind [→ map_ok]

@[simp] theorem endRegion_mem (status : Nat) (s : State) : (State.endRegion status s).mem = s.mem := by
  unfold State.endRegion
  grind

theorem bodyFcommit_wf {e : Enc} {s : State} (h : Memory.wf s.mem = true) {t : State} (ht : bodyFcommit e s = .ok t) : Memory.wf t.mem = true := by
  unfold bodyFcommit at ht
  grind [endRegion_mem, logDone_wf, → publish_wf]

theorem fredMap_wf {va : Nat} {s : State} (h : Memory.wf s.mem = true) {t : State} {r : Xlat} (ht : State.fredMap va s = .ok (r, t)) : Memory.wf t.mem = true := by
  unfold State.fredMap at ht
  grind [touch_wf]

theorem fredParts_wf {va n : Nat} {s : State} (h : Memory.wf s.mem = true) {t : State} {r : List (Nat × Nat)} (ht : State.fredParts va n s = .ok (r, t)) : Memory.wf t.mem = true := by
  unfold State.fredParts at ht
  grind [→ fredMap_wf]

@[simp] theorem awaitFred_mem (wants : Bool) (serial : Nat) (s : State) : (State.awaitFred wants serial s).mem = s.mem := by
  unfold State.awaitFred
  grind

theorem bodyFred_wf {e : Enc} {s t : State} (h : Memory.wf s.mem = true) (ht : bodyFred e s = .ok t) : Memory.wf t.mem = true := by
  unfold bodyFred at ht
  dsimp only at ht
  split at ht
  · cases ht
  · split at ht
    · cases ht
    · split at ht
      · cases ht
      · next _ parts sp hparts =>
        have h1 := fredParts_wf h hparts
        split at ht
        · cases ht
        · next _ word sw hword =>
          have h2 : Memory.wf sw.mem = true := by grind [→ fredMap_wf, → map_ok]
          split at ht
          · cases ht
          · split at ht
            · cases ht
            · next hp =>
              have h3 := publish_wf (fun h ha => by grind [awaitFred_mem]) h2 hp
              grind [logSerial_mem]
            · next hp =>
              have h3 := publish_wf (fun h ha => by grind [awaitFred_mem]) h2 hp
              cases ht; simpa using h3

/-! ## Functions of CensusInstr -/

@[simp] theorem startCensus_mem (scope combine : Nat) (key : DWord) (buf word : Nat) (s : State) : (State.startCensus scope combine key buf word s).2.mem = s.mem := by
  unfold State.startCensus
  grind [State.freshId_mem, State.updPart_mem, → map_ok]

theorem bodySolicit_wf {e : Enc} {s : State} (h : Memory.wf s.mem = true) {t : State} (ht : bodySolicit e s = .ok t) : Memory.wf t.mem = true := by
  unfold bodySolicit at ht
  grind [→ publish_wf, State.replyD_mem, startCensus_mem]

@[simp] theorem dirPut_mem (img : List Byte) (s : State) : (State.dirPut img s).2.mem = s.mem := by
  unfold State.dirPut
  grind [→ map_ok]

theorem bodyDirput_wf {e : Enc} {s : State} (h : Memory.wf s.mem = true) {t : State} (ht : bodyDirput e s = .ok t) : Memory.wf t.mem = true := by
  unfold bodyDirput at ht
  grind [dirPut_mem, → publish_wf, State.putM_mem]

@[simp] theorem dirDel_mem (key : DWord) (serial : Word) (thresholds : Option (List Word)) (s : State) : (State.dirDel key serial thresholds s).2.mem = s.mem := by
  unfold State.dirDel
  grind [→ map_ok]

theorem bodyDirdel_wf {e : Enc} {s : State} (h : Memory.wf s.mem = true) {t : State} (ht : bodyDirdel e s = .ok t) : Memory.wf t.mem = true := by
  unfold bodyDirdel at ht
  grind [dirDel_mem, → publish_wf, State.putM_mem]

theorem bodyReply_wf {e : Enc} {s : State} (h : Memory.wf s.mem = true) {t : State} (ht : bodyReply e s = .ok t) : Memory.wf t.mem = true := by
  unfold bodyReply at ht
  grind [→ publish_wf]

/-! ## Functions of Sync -/

theorem syncPlace_wf {e : Enc} {write : Bool} {s : State} (h : Memory.wf s.mem = true) {t : State} {r : SyncTarget} (ht : State.syncPlace e write s = .ok (r, t)) : Memory.wf t.mem = true := by
  unfold State.syncPlace at ht
  grind [touch_wf]

theorem landBytes_wf {key n : Nat} {s : State} (h : Memory.wf s.mem = true) : Memory.wf (State.landBytes key n s).mem = true := by
  unfold State.landBytes
  grind [performCells_wf, unstage_mem]

theorem landWord_wf {loc : SyncLoc} {s : State} (h : Memory.wf s.mem = true) : Memory.wf (State.landWord loc s).mem = true := by
  unfold State.landWord
  grind [landBytes_wf]

@[simp] theorem dropLine_mem (loc : SyncLoc) (s : State) : (State.dropLine loc s).mem = s.mem := by
  unfold State.dropLine
  grind

theorem syncUpdate_wf {e : Enc} {p : SyncTarget} {rel : Bool} {operand : List Word} {act : SyncAct} {here : State → State}
    (hhere : ∀ {s : State}, Memory.wf s.mem = true → Memory.wf (here s).mem = true) {s t : State} (h : Memory.wf s.mem = true)
    (ht : s.syncUpdate e p rel operand act here = .ok t) : Memory.wf t.mem = true := by
  unfold State.syncUpdate at ht
  grind [→ State.publishRule_wf, → publish_wf, send_mem, State.addUnacked_mem, logSent_mem]

theorem bodySinit_wf {e : Enc} {s : State} (h : Memory.wf s.mem = true) {t : State} (ht : bodySinit e s = .ok t) : Memory.wf t.mem = true := by
  unfold bodySinit at ht
  grind [dropLine_mem, initSync_wf, landWord_wf, → syncPlace_wf, → syncUpdate_wf]

theorem bodySarrive_wf {e : Enc} {s : State} (h : Memory.wf s.mem = true) {t : State} (ht : bodySarrive e s = .ok t) : Memory.wf t.mem = true := by
  unfold bodySarrive at ht
  grind [dropLine_mem, landWord_wf, → release_mem, syncApply_wf, → syncPlace_wf, → syncUpdate_wf]

@[simp] theorem syncWait_mem (loc : SyncLoc) (g : Word) (s : State) : (State.syncWait loc g s).mem = s.mem := by
  unfold State.syncWait
  grind

theorem bodySwait_wf {e : Enc} {s : State} (h : Memory.wf s.mem = true) {t : State} (ht : bodySwait e s = .ok t) : Memory.wf t.mem = true := by
  unfold bodySwait at ht
  grind [State.acquire_mem, send_mem, → syncPlace_wf, syncWait_mem, waitRemote_mem]

theorem bodySbar_wf {e : Enc} {s : State} (h : Memory.wf s.mem = true) {t : State} (ht : bodySbar e s = .ok t) : Memory.wf t.mem = true := by
  unfold bodySbar at ht
  grind [→ release_mem, syncApply_wf, → syncPlace_wf, syncWait_mem]

theorem bodySpoll_wf {e : Enc} {s : State} (h : Memory.wf s.mem = true) {t : State} (ht : bodySpoll e s = .ok t) : Memory.wf t.mem = true := by
  unfold bodySpoll at ht
  grind [State.acquire_mem, laterAs_mem, laterM_mem, logSent_mem, → publish_wf, send_mem, → syncPlace_wf]

/-! ## Functions of Content -/

theorem raceRange_mem {x : Xlat} {va : Nat} {w : Bool} {n : Nat} {s t : State} (ht : raceRange x va w n s = .ok t) : t.mem = s.mem := by
  induction n generalizing t with
  | zero => cases ht; rfl
  | succ n ih =>
    unfold raceRange at ht
    grind [→ raceIf_mem]

theorem readLine_wf {sp : Bool} {addr : Nat} {race : Bool} {s t : State} {r : List Byte} (h : Memory.wf s.mem = true)
    (ht : s.readLine sp addr race = .ok (r, t)) : Memory.wf t.mem = true := by
  unfold State.readLine at ht
  grind [→ global_wf, → raceRange_mem, → load_mem]

@[simp] theorem forgetLine_mem (dev key : Nat) (s : State) : (s.forgetLine dev key).mem = s.mem := rfl

theorem cloa_wf {r : Nat} {interior : Bool} {bs : List Byte} {s t : State} {n : DWord} (h : Memory.wf s.mem = true)
    (ht : s.cloa r interior bs = .ok (n, t)) : Memory.wf t.mem = true := by
  unfold State.cloa at ht
  dsimp only at ht
  repeat' split at ht
  all_goals cases ht
  · exact h
  all_goals
    rw [forgetLine_mem]
    exact Memory.wf_write _ (by rwa [State.choose_mem]) _

theorem bodyCloa_wf {e : Enc} {s : State} (h : Memory.wf s.mem = true) {t : State} (ht : bodyCloa e s = .ok t) : Memory.wf t.mem = true := by
  unfold bodyCloa at ht
  grind [→ cloa_wf, State.later_mem, → publish_wf, → readLine_wf, → map_ok]

theorem bodyCld_mem {e : Enc} {s : State} {t : State} (ht : bodyCld e s = .ok t) : t.mem = s.mem := by
  unfold bodyCld at ht
  grind [laterM_mem]

theorem bodyCref_wf {e : Enc} {s : State} (h : Memory.wf s.mem = true) {t : State} (ht : bodyCref e s = .ok t) : Memory.wf t.mem = true := by
  unfold bodyCref at ht
  grind [→ publish_wf, State.replyD_mem]

theorem bodyCunref_wf {e : Enc} {s : State} (h : Memory.wf s.mem = true) {t : State} (ht : bodyCunref e s = .ok t) : Memory.wf t.mem = true := by
  unfold bodyCunref at ht
  grind [→ publish_wf, State.replyD_mem]

theorem cellSwap_wf {key : Nat} {expected new : DWord} {s0 : State} (h : Memory.wf s0.mem = true) {t : State} {r : List Word} (ht : cellSwap key expected new s0 = .ok (r, t)) : Memory.wf t.mem = true := by
  unfold cellSwap at ht
  grind [landBytes_wf, State.perform_wf]

theorem cellSend_mem {acq : Bool} {x : Xlat} {va : Nat} {expected new : DWord} {s : State} {t : State} {r : List Word} (ht : cellSend acq x va expected new s = .ok (r, t)) : t.mem = s.mem := by
  unfold cellSend at ht
  grind [send_mem]

theorem bodyCswap_wf {e : Enc} {s t : State} (h : Memory.wf s.mem = true) (ht : bodyCswap e s = .ok t) : Memory.wf t.mem = true := by
  unfold bodyCswap at ht
  dsimp only at ht
  split at ht
  · cases ht
  · next _ x s1 hglob =>
    have h1 := global_wf h hglob
    split at ht
    · cases ht
    · split at ht
      · cases ht
      · next _ s2 hrel =>
        split at ht
        · cases ht
        · next _ s3 hpub =>
          have h3 : Memory.wf s3.mem = true := State.publishRule_wf (by rwa [releaseBy_mem hrel]) hpub
          split at ht
          · cases ht
          · next hp =>
            have h4 := publish_wf (fun h ha => by grind [→ cellSend_mem, → cellSwap_wf]) h3 hp
            cases ht; simpa using h4
          · next hp =>
            have h4 := publish_wf (fun h ha => by grind [→ cellSend_mem, → cellSwap_wf]) h3 hp
            grind [unstage_mem, State.replyD_mem, State.acquire_mem]

theorem bodyCcopy_mem {e : Enc} {s : State} {t : State} (ht : bodyCcopy e s = .ok t) : t.mem = s.mem := by
  unfold bodyCcopy at ht
  grind [→ command_mem]

theorem bodyLhash_wf {e : Enc} {s : State} (h : Memory.wf s.mem = true) {t : State} (ht : bodyLhash e s = .ok t) : Memory.wf t.mem = true := by
  unfold bodyLhash at ht
  grind [State.later_mem, → readLine_wf]

theorem readWord_wf {va : Nat} {s t : State} {bs : List Byte} (h : Memory.wf s.mem = true) (ht : s.readWord va = .ok (bs, t)) :
    Memory.wf t.mem = true := by
  unfold State.readWord at ht
  split at ht
  · cases ht; exact h
  · split at ht
    · cases ht
    · next hglob =>
      have h1 := global_wf h hglob
      split at ht
      · split at ht
        · cases ht
        · cases ht; exact h1
      · obtain ⟨⟨v, s2⟩, hload, he⟩ := map_ok ht
        cases he; rwa [load_mem hload]

theorem readWordsAt_wf {va n : Nat} {s t : State} {bs : List Byte} (h : Memory.wf s.mem = true) (ht : readWordsAt va n s = .ok (bs, t)) :
    Memory.wf t.mem = true := by
  induction n generalizing va s t bs with
  | zero => cases ht; exact h
  | succ n ih =>
    unfold readWordsAt at ht
    grind [→ readWord_wf]

theorem readTokens_wf {glob : Bool} {addr n : Nat} {s t : State} {bs : List Byte} (h : Memory.wf s.mem = true)
    (ht : s.readTokens glob addr n = .ok (bs, t)) : Memory.wf t.mem = true := by
  unfold State.readTokens at ht
  grind [→ readWordsAt_wf, dropLines_mem]

theorem bodyHblk_wf {e : Enc} {s : State} (h : Memory.wf s.mem = true) {t : State} (ht : bodyHblk e s = .ok t) : Memory.wf t.mem = true := by
  unfold bodyHblk at ht
  grind [→ readTokens_wf, State.replyD_mem]

theorem bodyPflook_wf {e : Enc} {s : State} (h : Memory.wf s.mem = true) {t : State} (ht : bodyPflook e s = .ok t) : Memory.wf t.mem = true := by
  unfold bodyPflook at ht
  grind [→ publish_wf, State.replyD_mem, touch_wf, → map_ok]

theorem bodyPfins_wf {e : Enc} {s : State} (h : Memory.wf s.mem = true) {t : State} (ht : bodyPfins e s = .ok t) : Memory.wf t.mem = true := by
  unfold bodyPfins at ht
  grind [→ publish_wf, State.replyD_mem]

theorem bodyPin_wf {up : Bool} {e : Enc} {s : State} (h : Memory.wf s.mem = true) {t : State} (ht : bodyPin up e s = .ok t) : Memory.wf t.mem = true := by
  unfold bodyPin at ht
  grind [→ publish_wf, State.replyD_mem]

/-! ## Functions of Control -/

@[simp] theorem jump_mem (target : CodeAddr) (s : State) : (State.jump target s).mem = s.mem := by
  unfold State.jump
  grind

@[simp] theorem link_mem (s : State) : (State.link s).mem = s.mem := by
  unfold State.link
  grind

theorem bodyNop_mem {e0 : Enc} {s : State} {t : State} (ht : bodyNop e0 s = .ok t) : t.mem = s.mem := by
  unfold bodyNop at ht
  grind

theorem bodyBra_mem {e : Enc} {s : State} {t : State} (ht : bodyBra e s = .ok t) : t.mem = s.mem := by
  unfold bodyBra at ht
  grind [jump_mem]

theorem bodyJmp_mem {e : Enc} {s : State} {t : State} (ht : bodyJmp e s = .ok t) : t.mem = s.mem := by
  unfold bodyJmp at ht
  grind [jump_mem]

theorem bodyCall_mem {e : Enc} {s : State} {t : State} (ht : bodyCall e s = .ok t) : t.mem = s.mem := by
  unfold bodyCall at ht
  grind [jump_mem, link_mem]

theorem bodyCalli_mem {e : Enc} {s : State} {t : State} (ht : bodyCalli e s = .ok t) : t.mem = s.mem := by
  unfold bodyCalli at ht
  grind [jump_mem, link_mem]

theorem bodyRet_wf {e : Enc} {s : State} (h : Memory.wf s.mem = true) {t : State} (ht : bodyRet e s = .ok t) : Memory.wf t.mem = true := by
  unfold bodyRet at ht
  grind [exitThread_wf, jump_mem]

theorem bodyMeet_mem {e : Enc} {s : State} {t : State} (ht : bodyMeet e s = .ok t) : t.mem = s.mem := by
  unfold bodyMeet at ht
  grind

theorem bodyMeetr_mem {e : Enc} {s : State} {t : State} (ht : bodyMeetr e s = .ok t) : t.mem = s.mem := by
  unfold bodyMeetr at ht
  grind

theorem bodyExit_wf {e0 : Enc} {s : State} (h : Memory.wf s.mem = true) {t : State} (ht : bodyExit e0 s = .ok t) : Memory.wf t.mem = true := by
  unfold bodyExit at ht
  grind [exitThread_wf]

theorem bodyTrap_mem {e : Enc} {s : State} {t : State} (ht : bodyTrap e s = .ok t) : t.mem = s.mem := by
  unfold bodyTrap at ht
  grind

theorem bodyBrk_mem {e : Enc} {e1 : State} {t : State} (ht : bodyBrk e e1 = .ok t) : t.mem = e1.mem := by
  unfold bodyBrk at ht
  grind

theorem bodyYield_mem {e : Enc} {s : State} {t : State} (ht : bodyYield e s = .ok t) : t.mem = s.mem := by
  unfold bodyYield at ht
  grind

/-! ## Functions of Float -/

@[simp] theorem putF_mem (e : Enc) (n : Nat) (x : Nat × BitVec 5) (s : State) : (State.putF e n x s).mem = s.mem := by
  unfold State.putF
  grind [State.orFp_mem, State.putD_mem]

theorem bodyF2_mem {op : Rnd → FVal → FVal → FVal × BitVec 5} {e : Enc} {s : State} {t : State} (ht : bodyF2 op e s = .ok t) : t.mem = s.mem := by
  unfold bodyF2 at ht
  grind [putF_mem]

theorem bodyFadd_mem {e : Enc} {s : State} {t : State} (ht : bodyFadd e s = .ok t) : t.mem = s.mem := by
  unfold bodyFadd at ht
  grind [→ bodyF2_mem]

theorem bodyFsub_mem {e : Enc} {s : State} {t : State} (ht : bodyFsub e s = .ok t) : t.mem = s.mem := by
  unfold bodyFsub at ht
  grind [→ bodyF2_mem]

theorem bodyFmul_mem {e : Enc} {s : State} {t : State} (ht : bodyFmul e s = .ok t) : t.mem = s.mem := by
  unfold bodyFmul at ht
  grind [→ bodyF2_mem]

theorem bodyFfma_mem {e : Enc} {s : State} {t : State} (ht : bodyFfma e s = .ok t) : t.mem = s.mem := by
  unfold bodyFfma at ht
  grind [putF_mem]

theorem bodyFmin_mem {e : Enc} {s : State} {t : State} (ht : bodyFmin e s = .ok t) : t.mem = s.mem := by
  unfold bodyFmin at ht
  grind [putF_mem]

theorem bodyFmax_mem {e : Enc} {s : State} {t : State} (ht : bodyFmax e s = .ok t) : t.mem = s.mem := by
  unfold bodyFmax at ht
  grind [putF_mem]

theorem bodyFdiv_mem {e : Enc} {s : State} {t : State} (ht : bodyFdiv e s = .ok t) : t.mem = s.mem := by
  unfold bodyFdiv at ht
  grind [laterF_mem]

theorem bodyFsqrt_mem {e : Enc} {s : State} {t : State} (ht : bodyFsqrt e s = .ok t) : t.mem = s.mem := by
  unfold bodyFsqrt at ht
  grind [laterF_mem]

theorem bodyFrcp_mem {e : Enc} {s : State} {t : State} (ht : bodyFrcp e s = .ok t) : t.mem = s.mem := by
  unfold bodyFrcp at ht
  grind [putF_mem]

theorem bodyFrsq_mem {e : Enc} {s : State} {t : State} (ht : bodyFrsq e s = .ok t) : t.mem = s.mem := by
  unfold bodyFrsq at ht
  grind [putF_mem]

theorem bodyFclass_mem {e : Enc} {s : State} {t : State} (ht : bodyFclass e s = .ok t) : t.mem = s.mem := by
  unfold bodyFclass at ht
  grind [State.putD_mem]

theorem bodyFrnd_mem {e : Enc} {s : State} {t : State} (ht : bodyFrnd e s = .ok t) : t.mem = s.mem := by
  unfold bodyFrnd at ht
  grind [putF_mem]

theorem bodyFscale_mem {e : Enc} {s : State} {t : State} (ht : bodyFscale e s = .ok t) : t.mem = s.mem := by
  unfold bodyFscale at ht
  grind [putF_mem]

theorem bodyFsplit_mem {e : Enc} {s : State} {t : State} (ht : bodyFsplit e s = .ok t) : t.mem = s.mem := by
  unfold bodyFsplit at ht
  grind [putF_mem]

theorem bodyFdot2_mem {e : Enc} {s : State} {t : State} (ht : bodyFdot2 e s = .ok t) : t.mem = s.mem := by
  unfold bodyFdot2 at ht
  grind [putF_mem]

/-! ## Functions of Convert -/

theorem bodyCvt_mem {e : Enc} {s : State} {t : State} (ht : bodyCvt e s = .ok t) : t.mem = s.mem := by
  unfold bodyCvt at ht
  grind [putF_mem]

theorem bodyQuant_mem {e : Enc} {s : State} {t : State} (ht : bodyQuant e s = .ok t) : t.mem = s.mem := by
  unfold bodyQuant at ht
  grind [putF_mem]

theorem bodyDequant_mem {e : Enc} {s : State} {t : State} (ht : bodyDequant e s = .ok t) : t.mem = s.mem := by
  unfold bodyDequant at ht
  grind [putF_mem]

theorem bodyPack_mem {e : Enc} {s : State} {t : State} (ht : bodyPack e s = .ok t) : t.mem = s.mem := by
  unfold bodyPack at ht
  grind [putF_mem]

theorem bodyUnpack_mem {e : Enc} {s : State} {t : State} (ht : bodyUnpack e s = .ok t) : t.mem = s.mem := by
  unfold bodyUnpack at ht
  grind [putF_mem]

theorem bodySpecial_mem {f : FVal → FVal × BitVec 5} {e : Enc} {s : State} {t : State} (ht : bodySpecial f e s = .ok t) : t.mem = s.mem := by
  unfold bodySpecial at ht
  grind [laterF_mem]

theorem bodyFexp2_mem {e : Enc} {s : State} {t : State} (ht : bodyFexp2 e s = .ok t) : t.mem = s.mem := by
  unfold bodyFexp2 at ht
  grind [→ bodySpecial_mem]

theorem bodyFlog2_mem {e : Enc} {s : State} {t : State} (ht : bodyFlog2 e s = .ok t) : t.mem = s.mem := by
  unfold bodyFlog2 at ht
  grind [→ bodySpecial_mem]

theorem bodyFsin_mem {e : Enc} {s : State} {t : State} (ht : bodyFsin e s = .ok t) : t.mem = s.mem := by
  unfold bodyFsin at ht
  grind [→ bodySpecial_mem]

theorem bodyFcos_mem {e : Enc} {s : State} {t : State} (ht : bodyFcos e s = .ok t) : t.mem = s.mem := by
  unfold bodyFcos at ht
  grind [→ bodySpecial_mem]

theorem bodyFtanh_mem {e : Enc} {s : State} {t : State} (ht : bodyFtanh e s = .ok t) : t.mem = s.mem := by
  unfold bodyFtanh at ht
  grind [→ bodySpecial_mem]

@[simp] theorem laterSli_mem (e : Enc) (x : Nat × BitVec 7) (s : State) : (State.laterSli e x s).mem = s.mem := by
  unfold State.laterSli
  grind [laterS_mem]

theorem bodySli2_mem {f : Bool → SVal → SVal → SOut} {e : Enc} {s : State} {t : State} (ht : bodySli2 f e s = .ok t) : t.mem = s.mem := by
  unfold bodySli2 at ht
  grind [laterSli_mem]

theorem bodySadd_mem {e : Enc} {s : State} {t : State} (ht : bodySadd e s = .ok t) : t.mem = s.mem := by
  unfold bodySadd at ht
  grind [→ bodySli2_mem]

theorem bodySsub_mem {e : Enc} {s : State} {t : State} (ht : bodySsub e s = .ok t) : t.mem = s.mem := by
  unfold bodySsub at ht
  grind [→ bodySli2_mem]

theorem bodySmul_mem {e : Enc} {s : State} {t : State} (ht : bodySmul e s = .ok t) : t.mem = s.mem := by
  unfold bodySmul at ht
  grind [→ bodySli2_mem]

theorem bodySdiv_mem {e : Enc} {s : State} {t : State} (ht : bodySdiv e s = .ok t) : t.mem = s.mem := by
  unfold bodySdiv at ht
  grind [→ bodySli2_mem]

theorem bodySrcp_mem {e : Enc} {s : State} {t : State} (ht : bodySrcp e s = .ok t) : t.mem = s.mem := by
  unfold bodySrcp at ht
  grind [State.orSli_mem, State.putD_mem]

theorem bodySli1_mem {f : Bool → SVal → SOut} {e : Enc} {s : State} {t : State} (ht : bodySli1 f e s = .ok t) : t.mem = s.mem := by
  unfold bodySli1 at ht
  grind [laterSli_mem]

theorem bodySlog_mem {e : Enc} {s : State} {t : State} (ht : bodySlog e s = .ok t) : t.mem = s.mem := by
  unfold bodySlog at ht
  grind [→ bodySli1_mem]

theorem bodySanti_mem {e : Enc} {s : State} {t : State} (ht : bodySanti e s = .ok t) : t.mem = s.mem := by
  unfold bodySanti at ht
  grind [→ bodySli1_mem]

theorem bodySfrom_mem {e : Enc} {s : State} {t : State} (ht : bodySfrom e s = .ok t) : t.mem = s.mem := by
  unfold bodySfrom at ht
  grind [laterSli_mem]

theorem bodySto_mem {e : Enc} {s : State} {t : State} (ht : bodySto e s = .ok t) : t.mem = s.mem := by
  unfold bodySto at ht
  grind [laterS_mem]

theorem bodySacce_mem {e : Enc} {s : State} {t : State} (ht : bodySacce e s = .ok t) : t.mem = s.mem := by
  unfold bodySacce at ht
  grind [laterSli_mem]

/-! ## Functions of CrossLane -/

theorem arrive_mem {e : Enc} {mask : Word} {s : State} {t : State} (ht : State.arrive e mask s = .ok t) : t.mem = s.mem := by
  unfold State.arrive at ht
  grind

theorem bodyCross_mem {e : Enc} {s : State} {t : State} (ht : bodyCross e s = .ok t) : t.mem = s.mem := by
  unfold bodyCross at ht
  grind [→ arrive_mem]

@[simp] theorem completeGather_mem (e : Enc) (s : State) : (State.completeGather e s).mem = s.mem := by
  unfold State.completeGather
  grind [State.mapThreads_mem, → map_ok]

end Sys2Proof.Claims
end

section
/-!
PROOFS. What each function does to the memory, 4 of 8: sequences, handles and privileged instructions. `_mem`: it leaves the memory as it is; `_wf`: it keeps the memory canonical.
-/
namespace Sys2Proof.Claims
open Machine Bits Encoding

/-! ## Functions of SeqMove -/

theorem within_wf {α : Type} {d p : Nat} {f : State → Except Stop (α × State)}
    (hf : ∀ {s t : State} {a : α}, Memory.wf s.mem = true → f s = .ok (a, t) → Memory.wf t.mem = true) {s t : State} {a : α}
    (h : Memory.wf s.mem = true) (ht : s.within d p f = .ok (a, t)) : Memory.wf t.mem = true := by
  unfold State.within at ht
  grind [State.focusPart_mem]

theorem allocLeaves_wf {r : Nat} {bs : List (List Byte)} {s t : State} {ns : List DWord} (h : Memory.wf s.mem = true)
    (ht : allocLeaves r bs s = .ok (ns, t)) : Memory.wf t.mem = true := by
  induction bs generalizing s t ns with
  | nil => cases ht; exact h
  | cons b bs ih =>
    unfold allocLeaves at ht
    grind [→ cloa_wf]

@[simp] theorem dropAll_mem (names : List DWord) (s : State) : (State.dropAll names s).mem = s.mem := by
  unfold State.dropAll
  grind

theorem allocLevel_wf {r depth n : Nat} {names : List DWord} {s t : State} {ns : List DWord} (h : Memory.wf s.mem = true)
    (ht : allocLevel r depth n names s = .ok (ns, t)) : Memory.wf t.mem = true := by
  induction n generalizing names s t ns with
  | zero => cases ht; exact h
  | succ n ih =>
    unfold allocLevel at ht
    grind [→ cloa_wf, dropAll_mem]

theorem allocTop_wf {r n depth : Nat} {names : List DWord} {s t : State} {x : DWord} (h : Memory.wf s.mem = true)
    (ht : allocTop r n depth names s = .ok (x, t)) : Memory.wf t.mem = true := by
  induction n generalizing depth names s t x with
  | zero => cases ht; exact h
  | succ n ih =>
    unfold allocTop at ht
    grind [→ allocLevel_wf]

theorem buildTree_wf {r : Nat} {bs : List Byte} {s t : State} {x : DWord} (h : Memory.wf s.mem = true) (ht : s.buildTree r bs = .ok (x, t)) :
    Memory.wf t.mem = true := by
  unfold State.buildTree at ht
  grind [→ allocLeaves_wf, → allocTop_wf]

/-- A received line keeps the form if its children do. -/
theorem recvLine_wf_of {src : Part} {r n : Nat}
    (hc : ∀ {cs : List DWord} {s t : State} {xs : List DWord}, Memory.wf s.mem = true → recvLines src r n cs s = .ok (xs, t) → Memory.wf t.mem = true)
    {name : DWord} {s t : State} {x : DWord} (h : Memory.wf s.mem = true) (ht : recvLine src r (n + 1) name s = .ok (x, t)) :
    Memory.wf t.mem = true := by
  unfold recvLine at ht
  grind [→ cloa_wf, dropAll_mem]

theorem recvLines_wf {src : Part} {r n : Nat} {cs : List DWord} {s t : State} {xs : List DWord} (h : Memory.wf s.mem = true)
    (ht : recvLines src r n cs s = .ok (xs, t)) : Memory.wf t.mem = true := by
  induction n generalizing cs s t xs with
  | zero =>
    induction cs generalizing s t xs with
    | nil => unfold recvLines at ht; cases ht; exact h
    | cons c cs ihc =>
      unfold recvLines at ht
      simp only [recvLine] at ht
      grind
  | succ n ihn =>
    induction cs generalizing s t xs with
    | nil => unfold recvLines at ht; cases ht; exact h
    | cons c cs ihc =>
      unfold recvLines at ht
      have hl := @recvLine_wf_of src r n ihn
      grind

theorem recvLine_wf {src : Part} {r n : Nat} {name : DWord} {s t : State} {x : DWord} (h : Memory.wf s.mem = true)
    (ht : recvLine src r n name s = .ok (x, t)) : Memory.wf t.mem = true := by
  cases n with
  | zero => unfold recvLine at ht; cases ht; exact h
  | succ n => exact recvLine_wf_of recvLines_wf h ht

theorem sendTree_wf {a b pid r : Nat} {root : DWord} {s : State} (h : Memory.wf s.mem = true) {t : State} {v : DWord} (ht : State.sendTree a b pid r root s = .ok (v, t)) : Memory.wf t.mem = true := by
  unfold State.sendTree at ht
  grind [→ within_wf, → recvLine_wf]

@[simp] theorem refAt_mem (d pid : Nat) (name : DWord) (up : Bool) (s : State) : (s.refAt d pid name up).mem = s.mem := State.updPart_mem ..

@[simp] theorem dropPage_mem (pid : Nat) (hs : List (Nat × SliceEntry)) (s : State) (pg : Nat × Nat) : (s.dropPage pid hs pg).mem = s.mem := by
  simp only [State.dropPage]
  split
  · exact (foldl_mem (fun s x => refAt_mem ..) _ _).trans (State.updDev_mem ..)
  · simp

@[simp] theorem settle_mem (pid : Nat) (vs : List View) (keep : Option View) (s : State) : (s.settle pid vs keep).mem = s.mem := by
  simp only [State.settle]
  exact (foldl_mem (fun s pg => dropPage_mem ..) _ _).trans (foldl_mem (fun s x => refAt_mem ..) _ _)

@[simp] theorem unsharePage_mem (pid d pg : Nat) (v : View) (s : State) : (s.unsharePage pid d pg v).2.mem = s.mem := by
  simp only [State.unsharePage]
  split
  · rfl
  · exact (dropPage_mem ..).trans (foldl_mem (fun s x => refAt_mem ..) _ _)

@[simp] theorem recordBlock_mem (pid : Nat) (e : SliceEntry) (v : View) (s : State) : (s.recordBlock pid e v).2.mem = s.mem := by
  simp only [State.recordBlock]
  split <;> simp

theorem sealBlock_wf {q : SeqCtx} {blk : Nat} {ids : List Byte} {v : View} {s : State} (h : Memory.wf s.mem = true) {t : State} {r : View} (ht : State.sealBlock q blk ids v s = .ok (r, t)) : Memory.wf t.mem = true := by
  unfold State.sealBlock at ht
  grind [→ buildTree_wf, recordBlock_mem, → within_wf]

theorem sealBlocks_wf {q : SeqCtx} {ids : List Byte} {bs : List Nat} {v w : View} {s t : State} (h : Memory.wf s.mem = true)
    (ht : sealBlocks q ids bs v s = .ok (w, t)) : Memory.wf t.mem = true := by
  induction bs generalizing v s t w with
  | nil => cases ht; exact h
  | cons b bs ih =>
    unfold sealBlocks at ht
    grind [→ sealBlock_wf]

theorem newRecord_wf {q : SeqCtx} {ids : List Byte} {s : State} (h : Memory.wf s.mem = true) {t : State} {r : DWord} (ht : State.newRecord q ids s = .ok (r, t)) : Memory.wf t.mem = true := by
  unfold State.newRecord at ht
  grind [→ buildTree_wf, dropAll_mem, → within_wf]

theorem applyCommits_wf {q : SeqCtx} {t : Step} {s : State} (h : Memory.wf s.mem = true) {u : State} {r : SeqCtx} (ht : State.applyCommits q t s = .ok (r, u)) : Memory.wf u.mem = true := by
  unfold State.applyCommits at ht
  grind [→ newRecord_wf, run_wf, → sealBlocks_wf, → map_ok]

theorem copyTail_wf {a b : Nat} {seq to_ : Word} {blk n : Nat} {s : State} (h : Memory.wf s.mem = true) :
    Memory.wf (s.copyTail a b seq to_ blk n).mem = true := by
  unfold State.copyTail
  split
  · exact h
  · exact Memory.wf_write _ h _

theorem dropTails_wf {seq : Word} {s : State} (h : Memory.wf s.mem = true) : Memory.wf (s.dropTails seq).mem = true := Memory.wf_filter h _

theorem destroySeq_wf {q : SeqCtx} {s : State} (h : Memory.wf s.mem = true) : Memory.wf (s.destroySeq q).mem = true := by
  simp only [State.destroySeq, State.updDev_mem]
  exact dropTails_wf (by simpa using h)

/-! ## Functions of Sequence -/

theorem stepBind_mem {sid : Word} {n : Nat} {s : State} {t : State} {r : List Word} (ht : stepBind sid n s = .ok (r, t)) : t.mem = s.mem := by
  unfold stepBind at ht
  grind [State.mapGroups_mem, updSeq_mem]

theorem bodyStepbeg_wf {e : Enc} {s : State} (h : Memory.wf s.mem = true) {t : State} (ht : bodyStepbeg e s = .ok t) : Memory.wf t.mem = true := by
  unfold bodyStepbeg at ht
  grind [bindGroup_mem, → publish_wf, State.replyD_mem, → stepBind_mem]

theorem bodyStepend_mem {e : Enc} {s : State} {t : State} (ht : bodyStepend e s = .ok t) : t.mem = s.mem := by
  unfold bodyStepend at ht
  grind [State.replyD_mem]

theorem setWidth_wf {sid : Word} {b : Nat} {s : State} (h : Memory.wf s.mem = true) {t : State} {r : List Word} (ht : setWidth sid b s = .ok (r, t)) : Memory.wf t.mem = true := by
  unfold setWidth at ht
  grind [destroySeq_wf, updSeq_mem]

theorem bodyGsetw_wf {e : Enc} {s : State} (h : Memory.wf s.mem = true) {t : State} (ht : bodyGsetw e s = .ok t) : Memory.wf t.mem = true := by
  unfold bodyGsetw at ht
  grind [→ publish_wf, State.replyD_mem, → setWidth_wf]

theorem bodyKvld_mem {e : Enc} {s : State} {t : State} (ht : bodyKvld e s = .ok t) : t.mem = s.mem := by
  unfold bodyKvld at ht
  grind [laterM_mem, → load_mem, → race_mem]

theorem bodyKvst_wf {e : Enc} {s : State} (h : Memory.wf s.mem = true) {t : State} (ht : bodyKvst e s = .ok t) : Memory.wf t.mem = true := by
  unfold bodyKvst at ht
  grind [State.addUnacked_mem, → race_mem, → State.stagePlain_wf, → map_ok]

theorem commitTokens_mem {sid : Word} {ids : List Word} {s : State} {t : State} {r : List Word} (ht : commitTokens sid ids s = .ok (r, t)) : t.mem = s.mem := by
  unfold commitTokens at ht
  grind [updSeq_mem]

theorem bodyKvcommit_wf {e : Enc} {s : State} (h : Memory.wf s.mem = true) {t : State} (ht : bodyKvcommit e s = .ok t) : Memory.wf t.mem = true := by
  unfold bodyKvcommit at ht
  grind [→ publish_wf, → readTokens_wf, State.replyD_mem, → commitTokens_mem]

theorem rejectTokens_mem {sid : Word} {s : State} {t : State} {r : List Word} (ht : rejectTokens sid s = .ok (r, t)) : t.mem = s.mem := by
  unfold rejectTokens at ht
  grind [updSeq_mem]

theorem bodyKvreject_wf {e : Enc} {s : State} (h : Memory.wf s.mem = true) {t : State} (ht : bodyKvreject e s = .ok t) : Memory.wf t.mem = true := by
  unfold bodyKvreject at ht
  grind [→ publish_wf, State.replyD_mem, → rejectTokens_mem]

@[simp] theorem addSeq_mem (q : SeqCtx) (s : State) : (State.addSeq q s).mem = s.mem := by
  unfold State.addSeq
  grind

@[simp] theorem sharePages_mem (d w : Nat) (done es : List SliceEntry) (s : State) : (sharePages d w done es s).2.mem = s.mem := by
  induction es generalizing done s with
  | nil => rfl
  | cons e es ih =>
    unfold sharePages
    split
    · exact ih ..
    · dsimp only
      rw [ih]
      split <;> simp

@[simp] theorem shareSlices_mem (w : Nat) (l : List (Nat × List SliceEntry)) (s : State) : (shareSlices w l s).2.mem = s.mem := by
  induction l generalizing s with
  | nil => rfl
  | cons x rest ih => simp only [shareSlices, ih, sharePages_mem]

theorem forkSeq_wf {src : Word} {s : State} (h : Memory.wf s.mem = true) {t : State} {r : List Word} (ht : forkSeq src s = .ok (r, t)) : Memory.wf t.mem = true := by
  unfold forkSeq at ht
  grind [addSeq_mem, copyTail_wf, refAt_mem, → sendTree_wf, updSeq_mem, shareSlices_mem]

theorem forkPrefix_wf {cls : Nat} {pr tr : DWord} {n : Nat} {s : State} (h : Memory.wf s.mem = true) {t : State} {r : List Word} (ht : forkPrefix cls pr tr n s = .ok (r, t)) : Memory.wf t.mem = true := by
  unfold forkPrefix at ht
  grind [addSeq_mem, → buildTree_wf, dropAll_mem, → map_ok]

theorem bodyKvfork_wf {e : Enc} {s t : State} (h : Memory.wf s.mem = true) (ht : bodyKvfork e s = .ok t) : Memory.wf t.mem = true := by
  unfold bodyKvfork at ht
  dsimp only at ht
  split at ht
  · cases ht
  · next hp =>
    have h1 := publish_wf (fun h ha => by
      split at ha
      · exact forkPrefix_wf h ha
      · exact forkSeq_wf h ha) h hp
    cases ht
    exact h1

@[simp] theorem laterK_mem (e : Enc) (n v : Nat) (s : State) : (State.laterK e n v s).mem = s.mem := by
  unfold State.laterK
  grind [State.later_mem]

theorem bodyInfoLen_mem {e : Enc} {s : State} {t : State} (ht : bodyInfoLen e s = .ok t) : t.mem = s.mem := by
  unfold bodyInfoLen at ht
  grind [laterK_mem, → map_ok]

theorem infoBlock_mem {n : Nat} {f : Nat → Option SliceEntry → Nat} {e : Enc} {s : State} {t : State} (ht : infoBlock n f e s = .ok t) : t.mem = s.mem := by
  unfold infoBlock at ht
  grind [laterK_mem]

theorem bodyInfoBlk_mem {e : Enc} {s : State} {t : State} (ht : bodyInfoBlk e s = .ok t) : t.mem = s.mem := by
  unfold bodyInfoBlk at ht
  grind [→ infoBlock_mem]

theorem bodyInfoHash_mem {e : Enc} {s : State} {t : State} (ht : bodyInfoHash e s = .ok t) : t.mem = s.mem := by
  unfold bodyInfoHash at ht
  grind [→ infoBlock_mem]

theorem bodyInfoTok_mem {e : Enc} {s : State} {t : State} (ht : bodyInfoTok e s = .ok t) : t.mem = s.mem := by
  unfold bodyInfoTok at ht
  grind [laterK_mem]

theorem bodyInfoThr_mem {e : Enc} {s : State} {t : State} (ht : bodyInfoThr e s = .ok t) : t.mem = s.mem := by
  unfold bodyInfoThr at ht
  grind [laterK_mem, → map_ok]

theorem mintHandle_mem {sid : Word} {bound off len perm : Nat} {s : State} {t : State} {r : List Word} (ht : mintHandle sid bound off len perm s = .ok (r, t)) : t.mem = s.mem := by
  unfold mintHandle at ht
  grind

theorem bodyInfoMint_wf {e : Enc} {s : State} (h : Memory.wf s.mem = true) {t : State} (ht : bodyInfoMint e s = .ok t) : Memory.wf t.mem = true := by
  unfold bodyInfoMint at ht
  grind [laterK_mem, → publish_wf, → mintHandle_mem]

theorem revokeHandle_mem {h : Nat} {s : State} {t : State} {r : List Word} (ht : revokeHandle h s = .ok (r, t)) : t.mem = s.mem := by
  unfold revokeHandle at ht
  grind

theorem bodyInfoRevoke_wf {e : Enc} {s : State} (h : Memory.wf s.mem = true) {t : State} (ht : bodyInfoRevoke e s = .ok t) : Memory.wf t.mem = true := by
  unfold bodyInfoRevoke at ht
  grind [laterK_mem, → publish_wf, → revokeHandle_mem]

/-! ## Functions of System -/

theorem bodyRdsr_wf {e : Enc} {s : State} (h : Memory.wf s.mem = true) {t : State} (ht : bodyRdsr e s = .ok t) : Memory.wf t.mem = true := by
  unfold bodyRdsr at ht
  grind [→ publish_wf, State.putM_mem]

@[simp] theorem setSpecial_mem (n v : Nat) (s : State) : (State.setSpecial n v s).mem = s.mem := by
  unfold State.setSpecial
  grind

theorem bodyWrsr_mem {e : Enc} {s : State} {t : State} (ht : bodyWrsr e s = .ok t) : t.mem = s.mem := by
  unfold bodyWrsr at ht
  grind [setSpecial_mem]

@[simp] theorem setUniform_mem (i : Nat) (v : Word) (s : State) : (State.setUniform i v s).mem = s.mem := by
  unfold State.setUniform
  grind [→ map_ok]

theorem bodyKset_mem {e : Enc} {s : State} {t : State} (ht : bodyKset e s = .ok t) : t.mem = s.mem := by
  unfold bodyKset at ht
  grind [setUniform_mem]

theorem startLaunch_mem {x : Xlat} {arg : Nat} {s : State} {t : State} {r : List Word} (ht : startLaunch x arg s = .ok (r, t)) : t.mem = s.mem := by
  unfold startLaunch at ht
  grind [acceptLaunch_mem, → load_mem]

theorem bodyLaunch_wf {e : Enc} {s : State} (h : Memory.wf s.mem = true) {t : State} (ht : bodyLaunch e s = .ok t) : Memory.wf t.mem = true := by
  unfold bodyLaunch at ht
  grind [→ global_wf, → publish_wf, → State.publishRule_wf, State.replyD_mem, → startLaunch_mem]

theorem bodyPool_mem {e : Enc} {s : State} {t : State} (ht : bodyPool e s = .ok t) : t.mem = s.mem := by
  unfold bodyPool at ht
  grind [→ arrive_mem]

@[simp] theorem setGrant_mem (old new : Nat) (s : State) : (State.setGrant old new s).mem = s.mem := by
  unfold State.setGrant
  grind [State.mapThreads_mem]

@[simp] theorem releaseGather_mem (p : Thread → Bool) (s : State) : (State.releaseGather p s).mem = s.mem := by
  unfold State.releaseGather
  grind [State.mapThreads_mem]

@[simp] theorem completePool_mem (e : Enc) (s : State) : (State.completePool e s).mem = s.mem := by
  unfold State.completePool
  grind [State.mapThreads_mem, poolChanged_mem, releaseGather_mem, setGrant_mem, → map_ok]

theorem bodyTkclaim_wf {e : Enc} {s : State} (h : Memory.wf s.mem = true) {t : State} (ht : bodyTkclaim e s = .ok t) : Memory.wf t.mem = true := by
  unfold bodyTkclaim at ht
  grind [→ global_wf, logTicket_mem, → State.publishRule_wf, State.replyD_mem, → ticketRoom_wf]

@[simp] theorem promotePage_mem (dev old new : Nat) (s : State) : (State.promotePage dev old new s).mem = s.mem := by
  unfold State.promotePage
  grind

theorem bindEntry_wf {p : Part} {l va entry : Nat} {s : State} (h : Memory.wf s.mem = true) {t : State} {r : List Word} (ht : bindEntry p l va entry s = .ok (r, t)) : Memory.wf t.mem = true := by
  unfold bindEntry at ht
  grind [State.perform_wf, promotePage_mem]

theorem bodyMbind_wf {e : Enc} {s : State} (h : Memory.wf s.mem = true) {t : State} (ht : bodyMbind e s = .ok t) : Memory.wf t.mem = true := by
  unfold bodyMbind at ht
  grind [→ publish_wf, → State.publishRule_wf, → release_mem, State.replyD_mem, → bindEntry_wf]

@[simp] theorem dropPages_mem (dev pid first count : Nat) (s : State) : (State.dropPages dev pid first count s).mem = s.mem := by
  unfold State.dropPages
  grind [State.mapCores_mem]

theorem bodyTlbinv_mem {e : Enc} {s : State} {t : State} (ht : bodyTlbinv e s = .ok t) : t.mem = s.mem := by
  unfold bodyTlbinv at ht
  grind [State.choose_mem, dropPages_mem]

end Sys2Proof.Claims
end

section
/-!
PROOFS. What each function does to the memory, 5 of 8: events of threads, phases, faults and engine jobs. `_mem`: it leaves the memory as it is; `_wf`: it keeps the memory canonical.
-/
namespace Sys2Proof.Claims
open Machine Bits Encoding

/-! ## Functions of EvThread -/

theorem whenDue_some {b : Bool} {s t : State} (h : whenDue b s = some t) : t = s := by
  unfold whenDue at h; split at h
  · cases h; rfl
  · cases h

theorem spinExpire_mem {s : State} {t : State} (ht : spinExpire s = some t) : t.mem = s.mem := by
  unfold spinExpire at ht
  grind [whenDue_some]

theorem ageThread_mem {s : State} {t : State} (ht : ageThread s = some t) : t.mem = s.mem := by
  unfold ageThread at ht
  grind [whenDue_some]

theorem endYield_mem {s : State} {t : State} (ht : endYield s = some t) : t.mem = s.mem := by
  unfold endYield at ht
  grind [whenDue_some]

@[simp] theorem splitIssued_mem (k : ThreadKey) (pc : CodeAddr) (s : State) : (s.splitIssued k pc).mem = s.mem := rfl

@[simp] theorem releaseMeeting_mem (gid pack : Nat) (m : CodeAddr) (s : State) : (State.releaseMeeting gid pack m s).mem = s.mem := by
  unfold State.releaseMeeting
  grind [State.mapThreads_mem]

theorem meetRelease_mem {pack : Nat} {m : CodeAddr} {s : State} {t : State} (ht : meetRelease pack m s = some t) : t.mem = s.mem := by
  unfold meetRelease at ht
  grind [releaseMeeting_mem, whenDue_some]

theorem meetEarly_mem {pack : Nat} {m : CodeAddr} {s : State} {t : State} (ht : meetEarly pack m s = some t) : t.mem = s.mem := by
  unfold meetEarly at ht
  grind [releaseMeeting_mem, whenDue_some]

theorem gatherDone_mem {s : State} {t : State} (ht : gatherDone s = some t) : t.mem = s.mem := by
  unfold gatherDone at ht
  grind [completeGather_mem, completePool_mem, whenDue_some]

theorem gatherStall_mem {s : State} {t : State} (ht : gatherStall s = some t) : t.mem = s.mem := by
  unfold gatherStall at ht
  grind [whenDue_some]

theorem stallDetail_mem {s : State} {t : State} {r : Word} (ht : State.stallDetail s = some (r, t)) : t.mem = s.mem := by
  unfold State.stallDetail at ht
  grind [State.free_mem]

theorem waitStall_mem {s : State} {t : State} (ht : waitStall s = some t) : t.mem = s.mem := by
  unfold waitStall at ht
  grind [State.mapThreads_mem, → stallDetail_mem, whenDue_some]

@[simp] theorem withdrawClaim_mem (s : State) : (State.withdrawClaim s).mem = s.mem := by
  unfold State.withdrawClaim
  grind

theorem deliverDue_wf {gid pack : Nat} {s : State} (h : Memory.wf s.mem = true) {t : State} (ht : deliverDue gid pack s = some t) : Memory.wf t.mem = true := by
  unfold deliverDue at ht
  grind [→ focus_mem, takeTrap_wf, withdrawClaim_mem, whenDue_some]

theorem trapEnd_wf {s : State} (h : Memory.wf s.mem = true) {t : State} (ht : trapEnd s = some t) : Memory.wf t.mem = true := by
  unfold trapEnd at ht
  grind [resumeTrap_wf, whenDue_some]

theorem resultArrives_mem {serial : Nat} {s : State} {t : State} (ht : resultArrives serial s = some t) : t.mem = s.mem := by
  unfold resultArrives at ht
  grind [→ map_ok]

theorem replyArrives_mem {s : State} {t : State} (ht : replyArrives s = some t) : t.mem = s.mem := by
  unfold replyArrives at ht
  grind [dropPages_mem, whenDue_some]

@[simp] theorem retryResource_mem (s : State) : (State.retryResource s).mem = s.mem := by
  unfold State.retryResource
  grind

theorem storeAcked_mem {serial : Nat} {s : State} {t : State} (ht : storeAcked serial s = some t) : t.mem = s.mem := by
  unfold storeAcked at ht
  grind [retryResource_mem]

theorem serveClaim_mem {s : State} {t : State} (ht : serveClaim s = some t) : t.mem = s.mem := by
  unfold serveClaim at ht
  grind [→ focus_mem, State.mapThreads_mem, poolChanged_mem, setGrant_mem, whenDue_some]

theorem mergeTickets_wf {dev cluster key : Nat} {s t : State} (h : Memory.wf s.mem = true) (ht : mergeTickets dev cluster key s = some t) :
    Memory.wf t.mem = true := by
  unfold mergeTickets at ht
  dsimp only at ht
  split at ht
  · cases ht
  · split at ht
    · cases ht
    · split at ht
      · obtain ⟨s1, hs1, h1⟩ := Option.bind_eq_some_iff.1 ht
        rw [whenDue_some h1, coreChanged_mem]
        exact consume_wf (by rwa [focus_mem hs1])
      · cases ht
        exact State.perform_wf (foldl_wf (fun s j hs => landOf_wf hs) _ h)

theorem ticketArrives_mem {s : State} {t : State} (ht : ticketArrives s = some t) : t.mem = s.mem := by
  unfold ticketArrives at ht
  grind [logTicket_mem]

/-! ## Functions of Scheduler -/

@[simp] theorem restoreGroup_mem (s : State) : (State.restoreGroup s).mem = s.mem := by
  unfold State.restoreGroup
  grind [changedSince_mem, → map_ok]

@[simp] theorem suspendGroup_mem (s : State) : (State.suspendGroup s).mem = s.mem := by
  unfold State.suspendGroup
  grind [State.mapThreads_mem, saveGroup_mem, → map_ok]

/-! ## Functions of EvPhase -/

theorem commitPhase_wf {s : State} (h : Memory.wf s.mem = true) : Memory.wf (commitPhase s).mem = true := by
  unfold commitPhase
  grind [commit_wf, consume_wf, coreChanged_mem, nextPhase_mem, settleQueued_mem]

theorem phaseCommits_wf {s : State} (h : Memory.wf s.mem = true) {t : State} (ht : phaseCommits s = some t) : Memory.wf t.mem = true := by
  unfold phaseCommits at ht
  grind [commitPhase_wf, whenDue_some]

@[simp] theorem firstAdmission_mem (s : State) : (State.firstAdmission s).mem = s.mem := by
  unfold State.firstAdmission
  grind [beginPhase_mem]

@[simp] theorem admitOn_mem (core : Nat) (s : State) : (State.admitOn core s).mem = s.mem := by
  unfold State.admitOn
  grind [State.checkoutCore_mem, State.choose_mem, coreChanged_mem, firstAdmission_mem, State.mapThreads_mem, restoreGroup_mem]

theorem phaseAdmits_mem {core : Nat} {s : State} {t : State} (ht : phaseAdmits core s = some t) : t.mem = s.mem := by
  unfold phaseAdmits at ht
  grind [admitOn_mem, whenDue_some]

theorem phaseAges_mem {s : State} {t : State} (ht : phaseAges s = some t) : t.mem = s.mem := by
  unfold phaseAges at ht
  grind [whenDue_some]

theorem preempts_mem {q : Group} {s : State} {t : State} (ht : preempts q s = some t) : t.mem = s.mem := by
  unfold preempts at ht
  grind [coreChanged_mem, suspendGroup_mem, whenDue_some]

theorem nodeConsumes_wf {u : ErrUnit} {hit : Struck} {s : State} (h : Memory.wf s.mem = true) {t : State} (ht : nodeConsumes u hit s = some t) : Memory.wf t.mem = true := by
  unfold nodeConsumes at ht
  grind [abortNode_mem, consumeError_wf, coreChanged_mem, performGroup_wf, report_mem, whenDue_some]

theorem jobConsumes_wf {gid job : Nat} {u : ErrUnit} {s : State} (h : Memory.wf s.mem = true) : Memory.wf (jobConsumes gid job u s).mem = true := by
  unfold jobConsumes
  grind [consumeError_wf, → focusGroup_mem, report_mem]

theorem startShadow_wf {core slot : Nat} {s : State} (h : Memory.wf s.mem = true) : Memory.wf (s.startShadow core slot).mem = true := by
  simp only [State.startShadow]
  refine foldl_wf (fun s b hs => syncApply_wf hs) _ ?_
  simpa using h

theorem auditReruns_wf {core slot : Nat} {s : State} (h : Memory.wf s.mem = true) {t : State} (ht : auditReruns core slot s = some t) : Memory.wf t.mem = true := by
  unfold auditReruns at ht
  grind [dropShadow_mem, startShadow_wf, whenDue_some]

@[simp] theorem quarantine_mem (dev core : Nat) (s : State) : (s.quarantine dev core).mem = s.mem := by
  simp only [State.quarantine]
  refine (getD_mem fun _ => focusGroup_mem).trans ?_
  refine (foldl_mem (fun s gid => getD_mem fun t ht => ?_) _ _).trans (State.updCore_mem ..)
  obtain ⟨s1, hs1, rfl⟩ := Option.map_eq_some_iff.1 ht
  rw [settleQueued_mem, focusGroup_mem hs1]

@[simp] theorem adopt_mem (h : Group) (s : State) : (State.adopt h s).mem = s.mem := by
  unfold State.adopt
  grind [changedSince_mem, State.mapCores_mem, State.updCore_mem, → map_ok]

theorem settleAudit_wf {a b c : Option DWord} {h : Group} {s : State} (hs : Memory.wf s.mem = true) : Memory.wf (State.settleAudit a b c h s).mem = true := by
  unfold State.settleAudit
  grind [adopt_mem, consume_wf, coreChanged_mem, dropShadow_mem, quarantine_mem, report_mem]

theorem auditThird_wf {core slot : Nat} {s : State} (h : Memory.wf s.mem = true) {t : State} (ht : auditThird core slot s = some t) : Memory.wf t.mem = true := by
  unfold auditThird at ht
  grind [settleAudit_wf, startShadow_wf, whenDue_some]

theorem auditDrops_mem {err : Bool} {s : State} {t : State} (ht : auditDrops err s = some t) : t.mem = s.mem := by
  unfold auditDrops at ht
  grind [dropAudit_mem, report_mem, whenDue_some]

/-! ## Functions of EvFault -/

@[simp] theorem faultReply_mem (page : Nat) (decline : Bool) (s : State) : (State.faultReply page decline s).mem = s.mem := by
  unfold State.faultReply
  grind [State.mapCores_mem, State.mapLaunches_mem, State.mapThreads_mem]

@[simp] theorem reply__mem (page : Nat) (decline : Bool) (s : State) : (State.reply_ page decline s).mem = s.mem := by
  unfold State.reply_
  grind [faultReply_mem]

theorem zeroRange_wf {first n : Nat} {s : State} (h : Memory.wf s.mem = true) : Memory.wf (s.zeroRange first n).mem = true :=
  Memory.wf_filter h (fun c => !(decide (first ≤ c.1) && decide (c.1 < first + n)))

theorem zeroPage_wf {first : Nat} {s : State} (h : Memory.wf s.mem = true) : Memory.wf (State.zeroPage first s).mem = true := by
  unfold State.zeroPage
  grind [zeroRange_wf]

theorem buildTables_wf {dev va n tbl : Nat} {tables : List Nat} {s t : State} {k : Nat} (h : Memory.wf s.mem = true)
    (ht : buildTables dev va n tbl tables s = some (k, t)) : Memory.wf t.mem = true := by
  induction n generalizing tbl tables s with
  | zero => cases ht
  | succ n ih =>
    unfold buildTables at ht
    grind [zeroRange_wf, State.perform_wf]

theorem growStack_wf {frame : Nat} {tables : List Nat} {s : State} (h : Memory.wf s.mem = true) {t : State} (ht : growStack frame tables s = some t) : Memory.wf t.mem = true := by
  unfold growStack at ht
  grind [State.perform_wf, zeroPage_wf, → buildTables_wf, whenDue_some]

@[simp] theorem atsReturns_mem (iova : Nat) (host : Option Nat) (s : State) : (State.atsReturns iova host s).mem = s.mem := by
  unfold State.atsReturns
  grind

theorem atsInvalidates_mem {iova : Nat} {s : State} {t : State} (ht : atsInvalidates iova s = some t) : t.mem = s.mem := by
  unfold atsInvalidates at ht
  grind [State.mapCores_mem, whenDue_some]

theorem tlbinvStep_mem {s : State} {t : State} (ht : tlbinvStep s = some t) : t.mem = s.mem := by
  unfold tlbinvStep at ht
  grind [dropPages_mem, whenDue_some]

theorem secondFailure_wf {va : Nat} {s : State} (h : Memory.wf s.mem = true) : Memory.wf (s.secondFailure va).mem = true := by
  have h1 : Memory.wf (s.performGroup.abortNode.postFault va 8 0xFFFFFFFF).mem = true := postFault_wf (by simpa using performGroup_wf h)
  simp only [State.secondFailure]
  split
  · exact h1
  · simpa using h1

@[simp] theorem wakePage_mem (page : Nat) (s : State) : (State.wakePage page s).mem = s.mem := by
  unfold State.wakePage
  grind [State.mapCores_mem, State.mapThreads_mem, → map_ok]

theorem checkBlock_wf {page block : Nat} {s t : State} (h : Memory.wf s.mem = true) (ht : checkBlock page block s = some t) :
    Memory.wf t.mem = true := by
  unfold checkBlock at ht
  split at ht
  · have h1 := whenDue_some ht
    subst h1
    split
    · simpa using h
    · split
      · simpa using secondFailure_wf h
      · simpa using consume_wf (by simpa using h)
  · cases ht

theorem refetchPage_wf {page : Nat} {bytes : List (Nat × Byte)} {s t : State} (h : Memory.wf s.mem = true)
    (ht : refetchPage page bytes s = some t) : Memory.wf t.mem = true := by
  unfold refetchPage at ht
  split at ht
  · cases ht
  · rw [whenDue_some ht, wakePage_mem]
    exact Memory.wf_writeCells _ (zeroPage_wf h)

/-! ## Functions of EngineMove -/

@[simp] theorem updJob_mem (id : Nat) (f : Job → Job) (s : State) : (State.updJob id f s).mem = s.mem := by
  unfold State.updJob
  grind [→ map_ok]

theorem focusJob_mem {dev core id : Nat} {j : Job} {s t : State} (ht : s.focusJob dev core id = some (j, t)) : t.mem = s.mem := by
  unfold State.focusJob at ht
  dsimp only at ht
  split at ht
  · cases ht
  · cases ht
    exact (getD_mem fun _ => checkoutLaunch_mem).trans ((getD_mem fun _ => checkoutGroup_mem).trans (by simp))

theorem touchPages_wf {write : Bool} {vas : List Nat} {s : State} (h : Memory.wf s.mem = true) : Memory.wf (s.touchPages write vas).mem = true := by
  unfold State.touchPages
  refine foldl_wf (fun s blk hs => ?_) _ h
  split
  · dsimp only
    split
    · simpa using touch_wf hs
    · exact touch_wf hs
  · exact hs

theorem jobWrite_wf {j : Job} {l : List (Place × Byte)} {s : State} (h : Memory.wf s.mem = true) : Memory.wf (s.jobWrite j l).mem = true := by
  simp only [State.jobWrite]
  split <;> simp only [updGroup_mem] <;> split
  · exact h
  · exact performCells_wf (touchPages_wf h)
  · exact h
  · exact performCells_wf (touchPages_wf h)

theorem jobError_wf {j : Job} {code : Nat} {s : State} (h : Memory.wf s.mem = true) : Memory.wf (State.jobError j code s).mem = true := by
  unfold State.jobError
  grind [consumeError_wf, → focusGroup_mem, report_mem]

theorem jobTag_wf {j : Job} {key va : Nat} {s : State} (h : Memory.wf s.mem = true) : Memory.wf (State.jobTag j key va s).mem = true := by
  unfold State.jobTag
  grind [checkedTag_mem, coreChanged_mem, → focusGroup_mem, jobError_wf, postFault_wf, secondFailure_wf, updJob_mem]

theorem jobStop_wf {j : Job} {st : JobStop} {s : State} (h : Memory.wf s.mem = true) : Memory.wf (State.jobStop j st s).mem = true := by
  unfold State.jobStop
  grind [jobError_wf, jobTag_wf, postFault_wf, updJob_mem]

@[simp] theorem jobMoved_mem (j : Job) (s : State) : (State.jobMoved j s).mem = s.mem := by
  unfold State.jobMoved
  grind [updJob_mem]

theorem jobFinish_wf {j : Job} {l : List (Place × Byte)} {st : Option JobStop} {s : State} (h : Memory.wf s.mem = true) : Memory.wf (State.jobFinish j l st s).mem = true := by
  unfold State.jobFinish
  grind [jobMoved_mem, jobStop_wf, jobWrite_wf]

@[simp] theorem landTile_mem (j : Job) (d : SideSpace) (load : Tile → Tile) (s : State) : (s.landTile j d load).mem = s.mem := by
  simp only [State.landTile]
  repeat' split
  all_goals simp

theorem runCopy_wf {j : Job} {src dst : Side} {e0 e1 e2 e3 fmt : Nat} {zpv : Option Nat} {whole : Bool} {s0 : State} (h : Memory.wf s0.mem = true) : Memory.wf (State.runCopy j src dst e0 e1 e2 e3 fmt zpv whole s0).mem = true := by
  unfold State.runCopy
  grind [jobFinish_wf, jobMoved_mem, jobStop_wf, landTile_mem, touchPages_wf, → map_ok]

theorem runGather_wf {j : Job} {table stride rb n list dst : Nat} {s : State} (h : Memory.wf s.mem = true) : Memory.wf (State.runGather j table stride rb n list dst s).mem = true := by
  unfold State.runGather
  grind [jobMoved_mem, jobStop_wf, jobWrite_wf, touchPages_wf, → map_ok]

theorem runCcopy_wf {j : Job} {root : DWord} {limit dst : Nat} {s : State} (h : Memory.wf s.mem = true) : Memory.wf (State.runCcopy j root limit dst s).mem = true := by
  unfold State.runCcopy
  grind [jobFinish_wf, updJob_mem]

@[simp] theorem jobPair_mem (j : Job) (p : Nat) (working visible : Bool) (f : AccPair → AccPair) (s : State) :
    (s.jobPair j p working visible f).mem = s.mem := by
  simp only [State.jobPair, updGroup_mem]
  split <;> simp

@[simp] theorem dropHold_mem (j : Job) (p : Nat) (s : State) : (State.dropHold j p s).mem = s.mem := by
  unfold State.dropHold
  grind

@[simp] theorem drain_mem (j : Job) (acc mask rows : Nat) (zero : Bool) (s : State) : (s.drain j acc mask rows zero).mem = s.mem := by
  simp only [State.drain]
  refine (foldl_mem (fun s x => jobPair_mem ..) _ _).trans ?_
  split
  · exact foldl_mem (fun s x => jobPair_mem ..) _ _
  · rfl

@[simp] theorem runHada_mem (j : Job) (n rows : Nat) (s : State) : (State.runHada j n rows s).mem = s.mem := by
  unfold State.runHada
  grind

end Sys2Proof.Claims
end

section
/-!
PROOFS. What each function does to the memory, 6 of 8: events of engines, the fabric, content lines, launches and sequences. `_mem`: it leaves the memory as it is; `_wf`: it keeps the memory canonical.
-/
namespace Sys2Proof.Claims
open Machine Bits Encoding

/-! ## Functions of EvEngine -/

@[simp] theorem removeJob_mem (id : Nat) (s : State) : (State.removeJob id s).mem = s.mem := by
  unfold State.removeJob
  grind [coreChanged_mem]

@[simp] theorem requeueFreed_mem (j : Job) (s : State) : (State.requeueFreed j s).mem = s.mem := by
  unfold State.requeueFreed
  grind [coreChanged_mem, requeue_mem]

theorem startJob_wf {j : Job} {s : State} (h : Memory.wf s.mem = true) {t : State} (ht : startJob j s = some t) : Memory.wf t.mem = true := by
  unfold startJob at ht
  grind [jobPair_mem, jobStop_wf, jobWrite_wf, removeJob_mem, runCcopy_wf, runCopy_wf, runGather_wf, runHada_mem, updJob_mem, whenDue_some]

theorem drainJob_mem {j : Job} {s : State} {t : State} (ht : drainJob j s = some t) : t.mem = s.mem := by
  unfold drainJob at ht
  grind [drain_mem, removeJob_mem, whenDue_some]

theorem issueFollowOn_mem {j : Job} {s : State} {t : State} (ht : issueFollowOn j s = some t) : t.mem = s.mem := by
  unfold issueFollowOn at ht
  grind [whenDue_some, → map_ok]

theorem completeJob_wf {j : Job} {s : State} (h : Memory.wf s.mem = true) {t : State} (ht : completeJob j s = some t) : Memory.wf t.mem = true := by
  unfold completeJob at ht
  grind [removeJob_mem, syncApply_wf, updGroup_mem, whenDue_some]

@[simp] theorem stopSeqr_mem (j : Job) (sq idx cause : Nat) (d : Word) (s : State) : (State.stopSeqr j sq idx cause d s).mem = s.mem := by
  unfold State.stopSeqr
  grind [State.free_mem, updGroup_mem, → map_ok]

@[simp] theorem failLaunch_mem (j : Job) (s : State) : (State.failLaunch j s).mem = s.mem := by
  unfold State.failLaunch
  grind [report_mem, updLaunch_mem]

theorem failJob_mem {j : Job} {s : State} {t : State} (ht : failJob j s = some t) : t.mem = s.mem := by
  unfold failJob at ht
  grind [abortNode_mem, failLaunch_mem, State.mapCores_mem, removeJob_mem, retryRdv_mem, stopSeqr_mem, updThread_mem, whenDue_some, → map_ok]

theorem storeTranslated_wf {j : Job} {s : State} (h : Memory.wf s.mem = true) {t : State} (ht : storeTranslated j s = some t) : Memory.wf t.mem = true := by
  unfold storeTranslated at ht
  grind [coreChanged_mem, dropHold_mem, jobMoved_mem, jobStop_wf, jobWrite_wf, requeueFreed_mem, whenDue_some]

theorem storeFaults_mem {j : Job} {s : State} {t : State} (ht : storeFaults j s = some t) : t.mem = s.mem := by
  unfold storeFaults at ht
  grind [dropHold_mem, removeJob_mem, requeueFreed_mem, updGroup_mem, → map_ok]

@[simp] theorem seqrStop_mem (sq : Nat) (code : Nat) (s : State) : (State.seqrStop sq code s).mem = s.mem := by
  unfold State.seqrStop
  grind [retryRdv_mem]

@[simp] theorem seqrNext_mem (sq : Nat) (s : State) : (State.seqrNext sq s).mem = s.mem := by
  unfold State.seqrNext
  grind

theorem seqrIssue_mem {sq : Nat} {codes : List Nat} {j : Job} {s : State} {t : State} (ht : State.seqrIssue sq codes j s = some t) : t.mem = s.mem := by
  unfold State.seqrIssue at ht
  grind [enqueue_mem, State.free_mem, seqrNext_mem, seqrStop_mem, whenDue_some]

theorem issueDescriptor_mem {sq : Nat} {s t : State} (ht : issueDescriptor sq s = some t) : t.mem = s.mem := by
  unfold issueDescriptor at ht
  dsimp only at ht
  split at ht
  · cases ht
  · next s1 hs1 =>
    have h1 : s1.mem = s.mem := by
      split at hs1
      · cases hs1
      · exact focusGroup_mem hs1
    rw [← h1]
    repeat' split at ht
    · cases ht
    · cases ht; simp
    · cases ht; simp
    · cases ht; simp
    · exact seqrIssue_mem ht
    · exact seqrIssue_mem ht
    · cases ht; simp
    · exact seqrIssue_mem ht
    · cases ht; simp
    · cases ht; simp
    · rw [whenDue_some ht]; exact seqrNext_mem ..

theorem grantAcca_wf {s t : State} (h : Memory.wf s.mem = true) (ht : grantAcca s = some t) : Memory.wf t.mem = true := by
  unfold grantAcca at ht
  split at ht
  · cases ht
  · split at ht
    · cases ht; exact h
    · next hfoc =>
      have h1 := focus_mem hfoc ▸ h
      split at ht
      · split at ht
        · cases ht
        · split at ht
          · rw [whenDue_some ht]; exact stop_wf h1
          · next hroom =>
            rw [whenDue_some ht, grantPairs_mem]
            exact ticketRoom_wf (by exact h1) hroom
      · cases ht; exact h

theorem grantSeqr_mem {s : State} {t : State} (ht : grantSeqr s = some t) : t.mem = s.mem := by
  unfold grantSeqr at ht
  grind [→ focus_mem, startSeqr_mem, whenDue_some]

theorem queueSpace_mem {s : State} {t : State} (ht : queueSpace s = some t) : t.mem = s.mem := by
  unfold queueSpace at ht
  grind [whenDue_some]

theorem packetArrives_wf {packet : Nat} {j : Job} {s t : State} (h : Memory.wf s.mem = true) (ht : packetArrives packet j s = some t) :
    Memory.wf t.mem = true := by
  unfold packetArrives at ht
  split at ht
  · dsimp only at ht
    split at ht
    · cases ht
    · split at ht
      · rw [whenDue_some ht]; exact jobStop_wf h
      · split at ht
        · rw [whenDue_some ht]; exact jobStop_wf h
        · rw [whenDue_some ht]; exact jobStop_wf h
        · rw [whenDue_some ht]
          have hread : ∀ (c : Bool) (vas : List Nat), Memory.wf (if c = true then s else s.touchPages false vas).mem = true := fun c vas => by
            split
            · exact h
            · exact touchPages_wf h
          split
          · exact jobStop_wf h
          · rw [updJob_mem]
            split
            · split
              · exact jobWrite_wf (hread ..)
              · exact syncApply_wf (jobWrite_wf (hread ..))
            · exact jobWrite_wf (hread ..)
  · cases ht

/-! ## Functions of EvFabric -/

theorem consumeRemote_wf {code : Nat} {s : State} (h : Memory.wf s.mem = true) {t : State} (ht : consumeRemote code s = some t) : Memory.wf t.mem = true := by
  unfold consumeRemote at ht
  grind [consume_wf, coreChanged_mem, whenDue_some]

@[simp] theorem refuseAccess_mem (a : Access) (cause : Nat) (d : Word) (s : State) : (State.refuseAccess a cause d s).mem = s.mem := by
  unfold State.refuseAccess
  grind

theorem performed_wf {a : Access} {code : Nat} {s : State} (h : Memory.wf s.mem = true) {t : State} (ht : State.performed a code s = some t) : Memory.wf t.mem = true := by
  unfold State.performed at ht
  grind [mailboxWrite_wf, performAccess_wf, refuseAccess_mem, retryResource_mem, → consumeRemote_wf]

theorem atomicPerforms_wf {serial : Nat} {s t : State} (h : Memory.wf s.mem = true) (ht : atomicPerforms serial s = some t) :
    Memory.wf t.mem = true := by
  unfold atomicPerforms at ht
  split at ht
  · cases ht
  · split at ht
    · cases ht
    · split at ht
      · cases ht
        exact mailboxWrite_wf (by rw [State.focusPart_mem]; exact performAccess_wf h)
      · next hfoc => exact performed_wf (focus_mem hfoc ▸ h) ht

theorem remoteArrives_wf {serial : Nat} {s t : State} (h : Memory.wf s.mem = true) (ht : remoteArrives serial s = some t) :
    Memory.wf t.mem = true := by
  unfold remoteArrives at ht
  dsimp only at ht
  split at ht
  · cases ht
  · split at ht
    · cases ht
    · split at ht
      · cases ht
        split
        · exact h
        · exact performAccess_wf h
      · next hfoc =>
        have h1 := focus_mem hfoc ▸ h
        split at ht
        · exact consumeRemote_wf (by exact h1) ht
        · split at ht
          · cases ht; exact h1
          · exact performed_wf h1 ht

theorem remoteTimesOut_wf {serial : Nat} {s : State} (h : Memory.wf s.mem = true) {t : State} (ht : remoteTimesOut serial s = some t) : Memory.wf t.mem = true := by
  unfold remoteTimesOut at ht
  grind [State.choose_mem, → focus_mem, performAccess_wf, → consumeRemote_wf]

theorem markerArrives_mem {dst path : Nat} {s : State} {t : State} (ht : markerArrives dst path s = some t) : t.mem = s.mem := by
  unfold markerArrives at ht
  grind [retryResource_mem, whenDue_some]

theorem flitReplayed_mem {port : Nat} {s : State} {t : State} (ht : flitReplayed port s = some t) : t.mem = s.mem := by
  unfold flitReplayed at ht
  grind [report_mem, whenDue_some]

@[simp] theorem retryAll_mem (s : State) : (State.retryAll s).mem = s.mem := by
  unfold State.retryAll
  grind [State.mapThreads_mem]

@[simp] theorem setRegion_mem (f : Region → Region) (s : State) : (State.setRegion f s).mem = s.mem := by
  unfold State.setRegion
  grind

theorem commitPrepares_wf {dst : Nat} {s : State} (h : Memory.wf s.mem = true) {t : State} (ht : commitPrepares dst s = some t) : Memory.wf t.mem = true := by
  unfold commitPrepares at ht
  grind [setRegion_mem, → consumeRemote_wf, → map_ok]

theorem fcommitDone_wf {status : Nat} {s : State} (h : Memory.wf s.mem = true) : Memory.wf (State.fcommitDone status s).mem = true := by
  unfold State.fcommitDone
  grind [endRegion_mem, logDone_wf, retryAll_mem]

theorem commitPerforms_wf {s : State} (h : Memory.wf s.mem = true) {t : State} (ht : commitPerforms s = some t) : Memory.wf t.mem = true := by
  unfold commitPerforms at ht
  grind [State.choose_mem, commitDest_wf, fcommitDone_wf, setRegion_mem, whenDue_some]

theorem commitAborts_wf {s : State} (h : Memory.wf s.mem = true) {t : State} (ht : commitAborts s = some t) : Memory.wf t.mem = true := by
  unfold commitAborts at ht
  grind [fcommitDone_wf, whenDue_some]

theorem commitTimesOut_mem {s : State} {t : State} (ht : commitTimesOut s = some t) : t.mem = s.mem := by
  unfold commitTimesOut at ht
  grind [setRegion_mem, whenDue_some]

@[simp] theorem fredStatus_mem (st : Nat) (s : State) (c : Contribution) : (State.fredStatus st s c).mem = s.mem := by
  unfold State.fredStatus
  grind [updGroup_mem, updThread_mem]

@[simp] theorem putReduction_mem (old new : Reduction) (s : State) : (State.putReduction old new s).mem = s.mem := by
  unfold State.putReduction
  grind

@[simp] theorem discardReduction_mem (r : Reduction) (parts : List Contribution) (st : Nat) (s : State) :
    (s.discardReduction r parts st).mem = s.mem :=
  (foldl_mem (fun s c => fredStatus_mem ..) _ _).trans (putReduction_mem ..)

theorem finishReduction_wf {r : Reduction} {parts : List Contribution} {c : Contribution} {s : State} (h : Memory.wf s.mem = true) :
    Memory.wf (s.finishReduction r parts c).mem = true := by
  simp only [State.finishReduction]
  rw [foldl_mem (fun s c => fredStatus_mem ..)]
  split
  · exact syncApply_wf (performCells_wf h)
  · exact performCells_wf h

theorem fredArrives_wf {c : Contribution} {err : Bool} {s t : State} (h : Memory.wf s.mem = true) (ht : fredArrives c err s = some t) :
    Memory.wf t.mem = true := by
  unfold fredArrives at ht
  dsimp only at ht
  repeat' split at ht
  · cases ht
  · cases ht; simpa using h
  · cases ht; simpa using h
  · cases ht; simpa using h
  · cases ht; simpa using h
  · cases ht; simpa using h
  · cases ht; simpa using h
  · cases ht; simpa using h
  · cases ht; simpa using h
  · rw [whenDue_some ht]; exact finishReduction_wf h
  · cases ht; simpa using h

theorem reductionTimesOut_mem {id view : Word} {s : State} {t : State} (ht : reductionTimesOut id view s = some t) : t.mem = s.mem := by
  unfold reductionTimesOut at ht
  grind [discardReduction_mem]

@[simp] theorem dropView_mem (seq view : Word) (s : State) : (s.dropView seq view).mem = s.mem := by
  unfold State.dropView
  refine foldl_mem (fun s r => ?_) _ _
  dsimp only
  split
  · rfl
  · exact foldl_mem (fun s c => fredStatus_mem ..) _ _

theorem viewAnnounced_mem {seq view : Word} {s t : State} (ht : viewAnnounced seq view s = some t) : t.mem = s.mem := by
  rw [whenDue_some ht]
  exact foldl_mem (fun s d => (dropView_mem ..).trans (State.checkoutDev_mem ..)) _ _

@[simp] theorem updCensus_mem (id : Nat) (f : Census → Census) (s : State) : (State.updCensus id f s).mem = s.mem := by
  unfold State.updCensus
  grind [→ map_ok]

theorem respond_wf {c : Census} {s : State} {d : DirEntry} (h : Memory.wf s.mem = true) : Memory.wf (State.respond c s d).mem = true := by
  unfold State.respond
  grind [acceptLaunch_mem, State.freshId_mem, updCensus_mem, visit_wf]

theorem censusStarts_wf {c : Census} {at_ : Nat} {s t : State} (h : Memory.wf s.mem = true) (ht : censusStarts c at_ s = some t) :
    Memory.wf t.mem = true := by
  rw [whenDue_some ht, updCensus_mem]
  exact foldl_wf (fun s d hs => respond_wf hs) _ h

theorem replyTaken_mem {serial : Nat} {s : State} {t : State} (ht : replyTaken serial s = some t) : t.mem = s.mem := by
  unfold replyTaken at ht
  grind [updCensus_mem]

theorem censusEnds_wf {c : Census} {s : State} (h : Memory.wf s.mem = true) {t : State} (ht : censusEnds c s = some t) : Memory.wf t.mem = true := by
  unfold censusEnds at ht
  grind [syncApply_wf, updGroup_mem, whenDue_some]

theorem tagFreed_mem {lid : Nat} {s : State} {t : State} (ht : tagFreed lid s = some t) : t.mem = s.mem := by
  unfold tagFreed at ht
  grind [State.mapParts_mem, whenDue_some, → map_ok]

theorem writeRoute_mem {dst : Nat} {entry : Word} {s : State} {t : State} (ht : writeRoute dst entry s = some t) : t.mem = s.mem := by
  unfold writeRoute at ht
  grind [whenDue_some]

/-! ## Functions of EvContent -/

theorem walkLine_mem {s : State} {t : State} (ht : walkLine s = some t) : t.mem = s.mem := by
  unfold walkLine at ht
  grind

theorem freeSlotOf_mem {region slot : Nat} {s t : State} (ht : freeSlotOf region slot s = some t) : t.mem = s.mem := by
  rw [whenDue_some ht]
  exact foldl_mem (fun s l => forgetLine_mem ..) _ _

theorem enableRegion_mem {region : Nat} {on : Bool} {s : State} {t : State} (ht : enableRegion region on s = some t) : t.mem = s.mem := by
  unfold enableRegion at ht
  grind [whenDue_some]

theorem enableTable_mem {table : Nat} {on : Bool} {s : State} {t : State} (ht : enableTable table on s = some t) : t.mem = s.mem := by
  unfold enableTable at ht
  grind [whenDue_some]

/-! ## Functions of EvLaunch -/

@[simp] theorem setQueue_mem (q : Nat) (x : Queue) (s : State) : (State.setQueue q x s).mem = s.mem := by
  unfold State.setQueue
  grind

theorem ringDoorbell_mem {q : Nat} {tail : Word} {s : State} {t : State} (ht : ringDoorbell q tail s = some t) : t.mem = s.mem := by
  unfold ringDoorbell at ht
  grind [setQueue_mem, whenDue_some]

theorem enableQueue_mem {q : Nat} {on : Bool} {s : State} {t : State} (ht : enableQueue q on s = some t) : t.mem = s.mem := by
  unfold enableQueue at ht
  grind [setQueue_mem, whenDue_some]

theorem clearQueueError_mem {q : Nat} {s : State} {t : State} (ht : clearQueueError q s = some t) : t.mem = s.mem := by
  unfold clearQueueError at ht
  grind [setQueue_mem, whenDue_some]

theorem resetQueue_mem {q : Nat} {s : State} {t : State} (ht : resetQueue q s = some t) : t.mem = s.mem := by
  unfold resetQueue at ht
  grind [State.mapLaunches_mem, setQueue_mem, whenDue_some]

theorem acceptOwn_mem {record : List Byte} {arg : DWord} {s : State} {t : State} (ht : acceptOwn record arg s = some t) : t.mem = s.mem := by
  unfold acceptOwn at ht
  grind [acceptLaunch_mem, whenDue_some]

theorem acceptEntry_wf {q : Nat} {s0 : State} (h : Memory.wf s0.mem = true) {t : State} (ht : acceptEntry q s0 = some t) : Memory.wf t.mem = true := by
  unfold acceptEntry at ht
  grind [acceptLaunch_mem, setQueue_mem, updLaunch_mem, visit_wf, whenDue_some]

@[simp] theorem startHeld_mem (l : Launch) (s : State) : (State.startHeld l s).mem = s.mem := by
  unfold State.startHeld
  grind [updLaunch_mem]

theorem startDeferred_wf {s : State} (h : Memory.wf s.mem = true) {t : State} (ht : startDeferred s = some t) : Memory.wf t.mem = true := by
  unfold startDeferred at ht
  grind [State.choose_mem, startHandler_wf, startHeld_mem, whenDue_some]

theorem clearOverflow_mem {m : Nat} {s : State} {t : State} (ht : clearOverflow m s = some t) : t.mem = s.mem := by
  unfold clearOverflow at ht
  grind

@[simp] theorem dispatch_mem (members : List Nat) (marks : List (Nat × Nat × Nat)) (s : State) : (State.dispatch members marks s).mem = s.mem := by
  unfold State.dispatch
  grind [journalLaunch_mem, → map_ok]

theorem depsPassed_wf {s0 t : State} (h : Memory.wf s0.mem = true) (ht : depsPassed s0 = some t) : Memory.wf t.mem = true := by
  unfold depsPassed at ht
  extract_lets l ds s at ht
  have hs : Memory.wf s.mem = true := foldl_wf (fun s d hs => visit_wf hs) _ h
  clear_value s
  split at ht
  · cases ht
  · split at ht
    · cases ht; exact hs
    · split at ht
      · cases ht; exact postFault_wf hs
      · split at ht
        · cases ht
        · split at ht
          · cases ht; exact hs
          · obtain ⟨m, -, rfl⟩ := Option.map_eq_some_iff.1 ht
            simpa using hs

@[simp] theorem reserveOn_mem (d : Nat) (idxs : List Nat) (s0 : State) : (State.reserveOn d idxs s0).mem = s0.mem := by
  unfold State.reserveOn
  grind [State.choose_mem, → map_ok]

@[simp] theorem prepareOn_mem (ds members : List Nat) (s : State) : (s.prepareOn ds members).mem = s.mem := by
  unfold State.prepareOn
  split
  · rfl
  · exact foldl_mem (fun s d => reserveOn_mem ..) _ _

theorem gangPrepares_mem {s : State} {t : State} (ht : gangPrepares s = some t) : t.mem = s.mem := by
  unfold gangPrepares at ht
  grind [prepareOn_mem, whenDue_some]

theorem gangGoes_mem {s t : State} (ht : gangGoes s = some t) : t.mem = s.mem := by
  unfold gangGoes at ht
  dsimp only at ht
  split at ht
  · cases ht
  · split at ht
    · cases ht; rfl
    · split at ht
      · cases ht; rfl
      · split at ht
        · cases ht
        · obtain ⟨m, -, rfl⟩ := Option.map_eq_some_iff.1 ht
          simp

theorem prepareTimesOut_mem {gang : Bool} {s : State} {t : State} (ht : prepareTimesOut gang s = some t) : t.mem = s.mem := by
  unfold prepareTimesOut at ht
  grind [whenDue_some]

theorem fabricPrepares_mem {s : State} {t : State} (ht : fabricPrepares s = some t) : t.mem = s.mem := by
  unfold fabricPrepares at ht
  grind [prepareOn_mem, whenDue_some]

theorem fabricGoes_mem {s t : State} (ht : fabricGoes s = some t) : t.mem = s.mem := by
  unfold fabricGoes at ht
  dsimp only at ht
  split at ht
  · cases ht
  · obtain ⟨m, -, rfl⟩ := Option.map_eq_some_iff.1 ht
    simp

theorem fabricReports_mem {dev : Nat} {s : State} {t : State} (ht : fabricReports dev s = some t) : t.mem = s.mem := by
  unfold fabricReports at ht
  grind [whenDue_some]

theorem dropStacks_wf {l : Launch} {d : Nat} {s : State} (h : Memory.wf s.mem = true) : Memory.wf (s.dropStacks l d).mem = true := by
  simp only [State.dropStacks]
  split
  · exact h
  · rw [dropPages_mem]
    exact foldl_wf (fun s x hs => State.perform_wf hs) _ h

theorem removeLaunch_wf {s : State} (h : Memory.wf s.mem = true) : Memory.wf s.removeLaunch.mem = true := by
  simp only [State.removeLaunch]
  have hs0 : ∀ ds : List Nat, Memory.wf (ds.foldl (fun s' d => s'.dropStacks s.lau d) s).mem = true := fun ds =>
    foldl_wf (fun s' d hs => dropStacks_wf hs) ds h
  generalize hs1 : List.foldl _ (List.foldl _ s _) s.lau.marks = s1
  have h1 : Memory.wf s1.mem = true := by
    rw [← hs1, foldl_mem (fun s' m => State.updPart_mem ..)]
    exact hs0 _
  split
  · exact h1
  · rw [updCensus_mem]; exact h1
  · exact h1

theorem endWrites_wf {done comp : Option Nat} {s : State} (h : Memory.wf s.mem = true) : Memory.wf (State.endWrites done comp s).mem = true := by
  unfold State.endWrites
  grind [State.clearPoison_mem, journalLaunch_mem, msixSignal_mem, State.perform_wf, syncApply_wf, → map_ok]

theorem finishLaunch_wf {s : State} (h : Memory.wf s.mem = true) : Memory.wf (State.finishLaunch s).mem = true := by
  unfold State.finishLaunch
  grind [endWrites_wf, postFault_wf, removeLaunch_wf, visit_wf]

theorem launchEnds_wf {s : State} (h : Memory.wf s.mem = true) {t : State} (ht : launchEnds s = some t) : Memory.wf t.mem = true := by
  unfold launchEnds at ht
  grind [finishLaunch_wf, whenDue_some]

/-! ## Functions of EvSeq -/

@[simp] theorem retryView_mem (id : Word) (s : State) : (State.retryView id s).mem = s.mem := by
  unfold State.retryView
  grind [State.mapThreads_mem]

theorem stepEnds_wf {lid : Nat} {q : SeqCtx} {s : State} (h : Memory.wf s.mem = true) {t : State} (ht : stepEnds lid q s = some t) : Memory.wf t.mem = true := by
  unfold stepEnds at ht
  grind [→ applyCommits_wf, updSeq_mem]

theorem viewPrepares_mem {width : Nat} {q : SeqCtx} {s : State} {t : State} (ht : viewPrepares width q s = some t) : t.mem = s.mem := by
  unfold viewPrepares at ht
  grind [updSeq_mem, whenDue_some]

theorem viewAcks_mem {num : Word} {member : Nat} {q : SeqCtx} {s : State} {t : State} (ht : viewAcks num member q s = some t) : t.mem = s.mem := by
  unfold viewAcks at ht
  grind [updSeq_mem, whenDue_some]

@[simp] theorem abandon_mem (q : SeqCtx) (num : Word) (s : State) : (State.abandon q num s).mem = s.mem := by
  unfold State.abandon
  grind [retryView_mem, settle_mem, updSeq_mem]

theorem viewTimesOut_mem {num : Word} {q : SeqCtx} {s : State} {t : State} (ht : viewTimesOut num q s = some t) : t.mem = s.mem := by
  unfold viewTimesOut at ht
  grind [abandon_mem, whenDue_some]

theorem placeBlock_wf {q : SeqCtx} {ids : List Byte} {blk : Nat} {v : View} {s : State} (h : Memory.wf s.mem = true) {t : State} {r : View} (ht : State.placeBlock q ids blk v s = .ok (r, t)) : Memory.wf t.mem = true := by
  unfold State.placeBlock at ht
  grind [refAt_mem, → sendTree_wf]

theorem placeBlocks_wf {q : SeqCtx} {ids : List Byte} {bs : List Nat} {v w : View} {s t : State} (h : Memory.wf s.mem = true)
    (ht : placeBlocks q ids bs v s = .ok (w, t)) : Memory.wf t.mem = true := by
  induction bs generalizing v s t w with
  | nil => cases ht; exact h
  | cons b bs ih =>
    unfold placeBlocks at ht
    grind [→ placeBlock_wf]

theorem snapshotDone_wf {num : Word} {blk : Option Nat} {q : SeqCtx} {s t : State} (h : Memory.wf s.mem = true)
    (ht : snapshotDone num blk q s = some t) : Memory.wf t.mem = true := by
  unfold snapshotDone at ht
  dsimp only at ht
  split at ht
  · cases ht
  · next v _ =>
    rw [Option.ite_none_left_eq_some] at ht
    obtain ⟨-, ht⟩ := ht
    generalize hp : placeBlocks _ _ _ v s = r at ht
    rcases r with e | ⟨v1, s1⟩
    · cases ht; simpa using h
    · have h1 := placeBlocks_wf h hp
      dsimp only at ht
      split at ht <;> cases ht <;> simpa using h1

theorem moveTails_wf {q : SeqCtx} {v : View} {s : State} (h : Memory.wf s.mem = true) : Memory.wf (s.moveTails q v).mem = true := by
  simp only [State.moveTails]
  refine foldl_wf (fun s b hs => ?_) _ h
  split
  · split
    · exact hs
    · exact copyTail_wf hs
  · exact hs

theorem promoteSeq_wf {id : Word} {s : State} (h : Memory.wf s.mem = true) : Memory.wf (State.promoteSeq id s).mem = true := by
  unfold State.promoteSeq
  grind [retryView_mem, run_wf, settle_mem, updSeq_mem]

theorem catchesUp_wf {num : Word} {q : SeqCtx} {s t : State} (h : Memory.wf s.mem = true) (ht : catchesUp num q s = some t) :
    Memory.wf t.mem = true := by
  unfold catchesUp at ht
  dsimp only at ht
  split at ht
  · split at ht
    · cases ht
    · split at ht
      · cases ht; simpa using h
      · next hp =>
        cases ht
        exact promoteSeq_wf (by rw [updSeq_mem]; exact moveTails_wf (placeBlocks_wf h hp))
  · cases ht

theorem viewRetires_wf {num : Word} {q : SeqCtx} {s : State} (h : Memory.wf s.mem = true) {t : State} (ht : viewRetires num q s = some t) : Memory.wf t.mem = true := by
  unfold viewRetires at ht
  grind [promoteSeq_wf, updSeq_mem, whenDue_some]

theorem loseContext_wf {s : State} {q : SeqCtx} (h : Memory.wf s.mem = true) : Memory.wf (s.loseContext q).mem = true := by
  simp only [State.loseContext]
  rw [foldl_mem (fun s m => report_mem ..), retryView_mem]
  exact destroySeq_wf h

@[simp] theorem loseGroups_mem (dev : Nat) (s : State) (l : Launch) : (State.loseGroups dev s l).mem = s.mem := by
  unfold State.loseGroups
  grind [State.mapCores_mem, report_mem, updLaunch_mem]

theorem faultDevice_wf {dev : Nat} {s : State} (h : Memory.wf s.mem = true) : Memory.wf (s.faultDevice dev).mem = true := by
  simp only [State.faultDevice]
  rw [foldl_mem (fun s l => loseGroups_mem ..), foldl_mem (fun s q => (retryView_mem ..).trans (failSeq_mem ..))]
  exact foldl_wf (fun s q hs => loseContext_wf hs) _ (by simpa using h)

theorem memberFaults_wf {dev : Nat} {s : State} (h : Memory.wf s.mem = true) {t : State} (ht : memberFaults dev s = some t) : Memory.wf t.mem = true := by
  unfold memberFaults at ht
  grind [faultDevice_wf, whenDue_some]

theorem probeTimesOut_wf {dev : Nat} {s : State} (h : Memory.wf s.mem = true) {t : State} (ht : probeTimesOut dev s = some t) : Memory.wf t.mem = true := by
  unfold probeTimesOut at ht
  grind [faultDevice_wf, whenDue_some]

@[simp] theorem submitHandler_mem (q : SeqCtx) (r : Rebuild) (m : Nat) (s : State) : (State.submitHandler q r m s).2.mem = s.mem := by
  unfold State.submitHandler
  grind [acceptLaunch_mem, State.focusPart_mem, State.freshId_mem]

@[simp] theorem endViews_mem (q : SeqCtx) (s : State) : (State.endViews q s).mem = s.mem := by
  unfold State.endViews
  grind [report_mem, retryView_mem, updSeq_mem]

@[simp] theorem launchRun_mem (q : SeqCtx) (num : Word) (r : Rebuild) (s : State) : (State.launchRun q num r s).mem = s.mem := by
  unfold State.launchRun
  grind [endViews_mem, submitHandler_mem, updSeq_mem]

theorem recompute_wf {q : SeqCtx} {s : State} (h : Memory.wf s.mem = true) {t : State} (ht : recompute q s = some t) : Memory.wf t.mem = true := by
  unfold recompute at ht
  grind [endViews_mem, launchRun_mem, promoteSeq_wf, run_wf, updSeq_mem]

theorem gangReruns_wf {s : State} (h : Memory.wf s.mem = true) {t : State} (ht : gangReruns s = some t) : Memory.wf t.mem = true := by
  unfold gangReruns at ht
  grind [removeLaunch_wf, updSeq_mem, whenDue_some]

theorem prepareRefused_mem {lid : Nat} {seq num : Word} {dev : Nat} {s : State} {t : State} (ht : prepareRefused lid seq num dev s = some t) : t.mem = s.mem := by
  unfold prepareRefused at ht
  grind [abandon_mem, State.focusPart_mem, updLaunch_mem, whenDue_some]

end Sys2Proof.Claims
end

section
/-!
PROOFS. What each function does to the memory, 7 of 8: events of devices, partitions, checkpoints and the register window. `_mem`: it leaves the memory as it is; `_wf`: it keeps the memory canonical.
-/
namespace Sys2Proof.Claims
open Machine Bits Encoding

/-! ## Functions of EvDevice -/

theorem eccReported_mem {u : ErrUnit} {pid : Option Nat} {s : State} {t : State} (ht : eccReported u pid s = some t) : t.mem = s.mem := by
  unfold eccReported at ht
  grind [report_mem, whenDue_some]

theorem scrub_mem {line : Nat} {found : ScrubResult} {s : State} {t : State} (ht : scrub line found s = some t) : t.mem = s.mem := by
  unfold scrub at ht
  grind [→ eccReported_mem, whenDue_some]

@[simp] theorem fatalStop_mem (dev : Nat) (s : State) : (State.fatalStop dev s).mem = s.mem := by
  simp only [State.fatalStop, State.updDev_mem, State.updPart_mem, State.mapParts_mem]
  exact foldl_mem (fun s p => emit_mem ..) _ _

theorem fatalStops_mem {s : State} {t : State} (ht : fatalStops s = some t) : t.mem = s.mem := by
  unfold fatalStops at ht
  grind [fatalStop_mem, whenDue_some]

@[simp] theorem removeLaunches_mem (lids gids : List Nat) (s : State) : (State.removeLaunches lids gids s).mem = s.mem := by
  unfold State.removeLaunches
  grind [State.mapCores_mem]

@[simp] theorem clearDevice_mem (dev : Nat) (s : State) : (State.clearDevice dev s).mem = s.mem := by
  simp only [State.clearDevice, removeLaunches_mem]
  exact foldl_mem (fun s l => loseGroups_mem ..) _ _

@[simp] theorem rekey_mem (dev : Nat) (s : State) : (State.rekey dev s).mem = s.mem := by
  unfold State.rekey
  generalize List.range 32 = l
  refine foldl_mem (fun s p => ?_) l s
  dsimp only
  rw [State.updPart_mem]

theorem losePower_wf {s : State} (h : Memory.wf s.mem = true) {t : State} (ht : losePower s = some t) : Memory.wf t.mem = true := by
  cases ht
  exact Memory.wf_filter (by simpa using h) _

theorem boots_mem {s : State} {t : State} (ht : boots s = some t) : t.mem = s.mem := by
  unfold boots at ht
  grind [clearDevice_mem, rekey_mem, State.updDev_mem, State.updPart_mem]

theorem configures_mem {pid : Nat} {bar2 : Option Nat} {s : State} {t : State} (ht : configures pid bar2 s = some t) : t.mem = s.mem := by
  unfold configures at ht
  grind [emit_mem, State.free_mem, State.updPart_mem, whenDue_some]

theorem linksTrained_mem {s : State} {t : State} (ht : linksTrained s = some t) : t.mem = s.mem := by
  unfold linksTrained at ht
  grind [whenDue_some]

theorem powerInterval_mem {watts die hbm : Nat} {s : State} {t : State} (ht : powerInterval watts die hbm s = some t) : t.mem = s.mem := by
  unfold powerInterval at ht
  grind [fatalStop_mem, State.updDev_mem]

@[simp] theorem spdmAnswer_mem (pid code : Nat) (payload : List Byte) (x : Spdm) (s : State) : (State.spdmAnswer pid code payload x s).mem = s.mem := by
  unfold State.spdmAnswer
  grind

@[simp] theorem spdmRefuse_mem (pid err : Nat) (s : State) : (State.spdmRefuse pid err s).mem = s.mem := by
  unfold State.spdmRefuse
  grind [spdmAnswer_mem]

@[simp] theorem spdmPlain_mem (pid req : Nat) (reqPayload : List Byte) (code : Nat) (payload : List Byte) (s : State) : (State.spdmPlain pid req reqPayload code payload s).mem = s.mem := by
  unfold State.spdmPlain
  grind [spdmAnswer_mem, spdmRefuse_mem]

@[simp] theorem spdmSigned_mem (pid req : Nat) (reqPayload : List Byte) (code : Nat) (payload : List Byte) (s : State) : (State.spdmSigned pid req reqPayload code payload s).mem = s.mem := by
  unfold State.spdmSigned
  grind [spdmAnswer_mem, spdmRefuse_mem]

@[simp] theorem spdmOpen_mem (n : Nat) (s : State) : (State.spdmOpen n s).2.mem = s.mem := by
  unfold State.spdmOpen
  grind [→ map_ok]

theorem versionAsked_mem {pid : Nat} {s : State} {t : State} (ht : versionAsked pid s = some t) : t.mem = s.mem := by
  unfold versionAsked at ht
  grind [spdmAnswer_mem, whenDue_some]

theorem capabilitiesAsked_mem {pid : Nat} {s : State} {t : State} (ht : capabilitiesAsked pid s = some t) : t.mem = s.mem := by
  unfold capabilitiesAsked at ht
  grind [spdmAnswer_mem, spdmOpen_mem, spdmRefuse_mem, whenDue_some]

theorem algorithmsAsked_mem {pid : Nat} {hashes asyms : List Nat} {s : State} {t : State} (ht : algorithmsAsked pid hashes asyms s = some t) : t.mem = s.mem := by
  unfold algorithmsAsked at ht
  grind [spdmAnswer_mem, spdmRefuse_mem, whenDue_some]

theorem digestsAsked_mem {pid : Nat} {s : State} {t : State} (ht : digestsAsked pid s = some t) : t.mem = s.mem := by
  unfold digestsAsked at ht
  grind [spdmPlain_mem, whenDue_some]

theorem certificateAsked_mem {pid slot off len : Nat} {s : State} {t : State} (ht : certificateAsked pid slot off len s = some t) : t.mem = s.mem := by
  unfold certificateAsked at ht
  grind [spdmPlain_mem, spdmRefuse_mem, whenDue_some]

theorem challenged_mem {pid slot : Nat} {nonce : List Byte} {s : State} {t : State} (ht : challenged pid slot nonce s = some t) : t.mem = s.mem := by
  unfold challenged at ht
  grind [spdmOpen_mem, spdmRefuse_mem, spdmSigned_mem, whenDue_some]

theorem measurementsAsked_mem {pid index : Nat} {signed : Bool} {nonce : List Byte} {s : State} {t : State} (ht : measurementsAsked pid index signed nonce s = some t) : t.mem = s.mem := by
  unfold measurementsAsked at ht
  grind [spdmOpen_mem, spdmPlain_mem, spdmRefuse_mem, spdmSigned_mem, whenDue_some]

theorem vendorAsked_mem {pid vendor code : Nat} {s : State} {t : State} (ht : vendorAsked pid vendor code s = some t) : t.mem = s.mem := by
  unfold vendorAsked at ht
  grind [spdmAnswer_mem, spdmRefuse_mem, whenDue_some]

/-! ## Functions of EvPartition -/

@[simp] theorem setPstat_mem (v : Nat) (s : State) : (State.setPstat v s).mem = s.mem := by
  unfold State.setPstat
  grind [msixSignal_mem]

@[simp] theorem haltPart_mem (s : State) : (State.haltPart s).mem = s.mem := by
  unfold State.haltPart
  grind [State.mapGroups_mem, setPstat_mem]

theorem swapOut_mem {s : State} {t : State} (ht : swapOut s = some t) : t.mem = s.mem := by
  unfold swapOut at ht
  grind [haltPart_mem, whenDue_some]

theorem actOn_wf {s : State} {r : Recorded} (h : Memory.wf s.mem = true) : Memory.wf (s.actOn r).mem = true := by
  cases r with
  | doorbell q tail => simpa [State.actOn] using h
  | mailbox m addr => exact mailboxLaunch_wf h
  | faultReply page decline => simpa [State.actOn] using h

theorem swapIn_wf {s : State} (h : Memory.wf s.mem = true) {t : State} (ht : swapIn s = some t) : Memory.wf t.mem = true := by
  rw [whenDue_some ht]
  exact foldl_wf (fun s r hs => actOn_wf hs) _ (by simpa using h)

@[simp] theorem suspendNow_mem (s : State) (gid : Nat) : (State.suspendNow s gid).mem = s.mem := by
  unfold State.suspendNow
  grind [coreChanged_mem, → focusGroup_mem, suspendGroup_mem]

@[simp] theorem dropAuditNow_mem (s : State) (gid : Nat) : (State.dropAuditNow s gid).mem = s.mem := by
  unfold State.dropAuditNow
  grind [dropAudit_mem, → focusGroup_mem]

theorem haltTimesOut_mem {s : State} {t : State} (ht : haltTimesOut s = some t) : t.mem = s.mem := by
  rw [whenDue_some ht, State.focusPart_mem, foldl_mem (fun s g => suspendNow_mem ..), State.focusPart_mem, foldl_mem (fun s g => dropAuditNow_mem ..)]

@[simp] theorem saveQueued_mem (s : State) (gid : Nat) : (State.saveQueued s gid).mem = s.mem := by
  unfold State.saveQueued
  grind [→ focusGroup_mem, saveGroup_mem]

theorem saveCompletes_mem {s : State} {t : State} (ht : saveCompletes s = some t) : t.mem = s.mem := by
  simp only [saveCompletes] at ht
  split at ht
  · rw [whenDue_some ht, setPstat_mem, State.focusPart_mem, foldl_mem (fun s g => saveQueued_mem ..)]
  · rw [whenDue_some ht, setPstat_mem]

theorem discardWrites_wf {s : State} {l : Launch} (h : Memory.wf s.mem = true) : Memory.wf (State.discardWrites s l).mem = true := by
  unfold State.discardWrites
  grind [State.clearPoison_mem, msixSignal_mem, State.perform_wf, → map_ok]

theorem dropSeq_wf {s : State} {q : SeqCtx} (h : Memory.wf s.mem = true) : Memory.wf (State.dropSeq s q).mem = true := by
  unfold State.dropSeq
  grind [destroySeq_wf, retryView_mem]

theorem resetPart_wf {s : State} (h : Memory.wf s.mem = true) : Memory.wf (State.resetPart s).mem = true := by
  have h1 : ∀ ls : List Launch, Memory.wf (ls.foldl State.discardWrites s).mem = true := fun ls => foldl_wf (fun s l hs => discardWrites_wf hs) ls h
  simp only [State.resetPart, State.focusPart_mem, State.updPart_mem, State.mapCores_mem]
  refine foldl_wf (fun s q hs => dropSeq_wf hs) _ ?_
  rw [foldl_mem (fun s l => loseGroups_mem ..), removeLaunches_mem]
  exact h1 _

theorem resetsPart_wf {s : State} (h : Memory.wf s.mem = true) {t : State} (ht : resetsPart s = some t) : Memory.wf t.mem = true := by
  unfold resetsPart at ht
  grind [resetPart_wf, setPstat_mem, whenDue_some]

theorem setsNbv_mem {v : Word} {s : State} {t : State} (ht : setsNbv v s = some t) : t.mem = s.mem := by
  unfold setsNbv at ht
  grind [whenDue_some]

@[simp] theorem breakPart_mem (s : State) : (State.breakPart s).mem = s.mem := by
  unfold State.breakPart
  grind [report_mem]

/-! ## Functions of EvCheckpoint -/

@[simp] theorem ckFail_mem (cause : Nat) (s : State) : (State.ckFail cause s).mem = s.mem := by
  unfold State.ckFail
  grind

@[simp] theorem haltAll_mem (dev : Nat) (s : State) : (State.haltAll dev s).mem = s.mem := by
  refine foldl_mem (fun s pid => ?_) _ _
  dsimp only
  split <;> simp

theorem checkpoints_mem {target : Nat} {s : State} {t : State} (ht : checkpoints target s = some t) : t.mem = s.mem := by
  unfold checkpoints at ht
  grind [ckFail_mem, haltAll_mem, whenDue_some]

theorem checkpointEnds_mem {s : State} {t : State} (ht : checkpointEnds s = some t) : t.mem = s.mem := by
  unfold checkpointEnds at ht
  grind [msixSignal_mem, whenDue_some]

theorem targetLost_mem {s : State} {t : State} (ht : targetLost s = some t) : t.mem = s.mem := by
  unfold targetLost at ht
  grind [ckFail_mem, whenDue_some]

theorem registers_mem {target capacity rate : Nat} {s : State} {t : State} (ht : registers target capacity rate s = some t) : t.mem = s.mem := by
  unfold registers at ht
  grind [whenDue_some]

theorem tagPart_wf {m : List Host.Cell} {p : Part} (h : Memory.wf m = true) : Memory.wf (tagPart m p) = true := by
  unfold tagPart
  induction ownLeaves m p generalizing m with
  | nil => exact h
  | cons x l ih => exact ih (Memory.wf_write _ h _)

theorem putImage_wf {i : CkImage} {s : State} (h : Memory.wf s.mem = true) : Memory.wf (State.putImage i s).mem = true := by
  simp only [State.putImage]
  rw [foldl_mem (fun s p => msixSignal_mem ..)]
  dsimp only
  rw [foldl_mem (fun s c => State.updCore_mem ..), foldl_mem (fun s p => State.updPart_mem ..)]
  have hm : Memory.wf (Mem.writeCells ((s.clearDevice i.dev).mem.filter (fun c => !(keyOn i.dev c.1))) i.pages) = true :=
    Memory.wf_writeCells _ (Memory.wf_filter (by simpa using h) _)
  generalize Mem.writeCells _ _ = m at hm
  generalize List.map _ _ = ps
  dsimp only
  induction ps generalizing m with
  | nil => exact hm
  | cons p ps ih => exact ih _ (tagPart_wf hm)

theorem restores_wf {target : Nat} {verifies : Bool} {s : State} (h : Memory.wf s.mem = true) {t : State} (ht : restores target verifies s = some t) :
    Memory.wf t.mem = true := by
  rw [whenDue_some ht]
  repeat' split
  · exact h
  · simpa using h
  · simpa using h
  · rw [foldl_mem (fun s q => (retryView_mem ..).trans (failSeq_mem ..))]
    exact putImage_wf h
  · exact putImage_wf h

/-! ## Functions of EvWindow -/

@[simp] theorem selectEntry_mem (v : Word) (s : State) : (State.selectEntry v s).mem = s.mem := by
  unfold State.selectEntry
  grind [breakPart_mem, State.choose_mem, State.free_mem, report_mem]

@[simp] theorem withPart_mem (f : Part → Part) (s : State) : (State.withPart f s).mem = s.mem := by
  unfold State.withPart
  grind

theorem also_mem {f : State → Option State} {s : State} (hf : ∀ t, f s = some t → t.mem = s.mem) : (State.also f s).mem = s.mem :=
  getD_mem hf

theorem also_wf {f : State → Option State} {s : State} (h : Memory.wf s.mem = true) (hf : ∀ t, f s = some t → Memory.wf t.mem = true) :
    Memory.wf (State.also f s).mem = true :=
  getD_wf h hf

theorem writeSwap_wf {v : Word} {s : State} (h : Memory.wf s.mem = true) : Memory.wf (State.writeSwap v s).mem = true := by
  have h1 : Memory.wf (s.focusPart s.part.dev (v.toNat % 32)).mem = true := by simpa using h
  have h2 : Memory.wf (if v.getLsbD 8 then State.also swapOut (s.focusPart s.part.dev (v.toNat % 32)) else s.focusPart s.part.dev (v.toNat % 32)).mem = true := by
    split
    · rwa [also_mem (fun t => swapOut_mem)]
    · exact h1
  simp only [State.writeSwap, State.focusPart_mem]
  split
  · exact also_wf h2 (fun t => swapIn_wf h2)
  · exact h2

theorem ite_wf {c : Prop} [Decidable c] {a b : State} (ha : Memory.wf a.mem = true) (hb : Memory.wf b.mem = true) :
    Memory.wf (if c then a else b).mem = true := by
  split
  · exact ha
  · exact hb

theorem writeControl_wf {off : Nat} {v : Word} {s : State} (h : Memory.wf s.mem = true) : Memory.wf (State.writeControl off v s).mem = true := by
  have hp : ∀ f, Memory.wf (s.withPart f).mem = true := fun f => by simpa using h
  have hnbv : Memory.wf (s.also (setsNbv v)).mem = true := by rwa [also_mem (fun t => setsNbv_mem)]
  have hcheck : Memory.wf (s.also (checkpoints (v.toNat % 1024))).mem = true := by rwa [also_mem (fun t => checkpoints_mem)]
  have hrestore : ∀ b, Memory.wf ((s.choose 2).2.also (restores (v.toNat % 1024) b)).mem = true := fun b =>
    also_wf (by simpa using h) (fun t => restores_wf (by simpa using h))
  unfold State.writeControl
  dsimp only
  refine ite_wf (ite_wf (also_wf h (fun t => resetsPart_wf h)) h) <| ite_wf hnbv <| ite_wf (ite_wf h (hp _)) <| ite_wf (ite_wf h (hp _)) <|
    ite_wf (ite_wf (hp _) h) <| ite_wf (ite_wf h (hp _)) <| ite_wf (writeSwap_wf h) <| ite_wf (ite_wf (hp _) h) <| ite_wf (by simpa using h) <|
    ite_wf (hp _) <| ite_wf (ite_wf hcheck (ite_wf (hrestore _) h)) <| ite_wf (ite_wf h h) h

@[simp] theorem writeQueue_mem (q o : Nat) (v : Word) (s : State) : (State.writeQueue q o v s).mem = s.mem := by
  have hreset : ∀ s1 : State, (s1.also (resetQueue q)).mem = s1.mem := fun s1 => also_mem (fun t => resetQueue_mem)
  have hring : (s.also (ringDoorbell q v)).mem = s.mem := also_mem (fun t => ringDoorbell_mem)
  unfold State.writeQueue
  grind [setQueue_mem]

@[simp] theorem writeRegion_mem (r o : Nat) (v : Word) (s : State) : (State.writeRegion r o v s).mem = s.mem := by
  have hen : (s.also (enableRegion r (v.getLsbD 31))).mem = s.mem := also_mem (fun t => enableRegion_mem)
  unfold State.writeRegion
  grind [withPart_mem]

@[simp] theorem writeClass_mem (c o : Nat) (v : Word) (s : State) : (State.writeClass c o v s).mem = s.mem := by
  unfold State.writeClass
  grind [withPart_mem]

@[simp] theorem writeMsix_mem (i : Nat) (v : Word) (s : State) : (State.writeMsix i v s).mem = s.mem := by
  unfold State.writeMsix
  grind [msixSignal_mem, withPart_mem]

theorem writeFaultQueue_wf {off : Nat} {v : Word} {s : State} (h : Memory.wf s.mem = true) : Memory.wf (State.writeFaultQueue off v s).mem = true := by
  unfold State.writeFaultQueue
  grind [reply__mem, withPart_mem, postHeld_wf]

theorem writeRegister_wf {off : Nat} {v : Word} {s : State} (h : Memory.wf s.mem = true) : Memory.wf (State.writeRegister off v s).mem = true := by
  unfold State.writeRegister
  grind [also_wf, withPart_mem, writeClass_mem, writeControl_wf, writeFaultQueue_wf, writeMsix_mem, writeQueue_mem, writeRegion_mem, → enableTable_mem]

theorem registerWritten_wf {off : Nat} {v : Word} {s : State} (h : Memory.wf s.mem = true) {t : State} (ht : registerWritten off v s = some t) : Memory.wf t.mem = true := by
  unfold registerWritten at ht
  grind [writeRegister_wf, whenDue_some]

theorem visitRange_wf {va size : Nat} {store : Bool} {s : State} (h : Memory.wf s.mem = true) : Memory.wf (State.visitRange va size store s).mem = true :=
  foldl_wf (fun s page hs => visit_wf hs) _ h

@[simp] theorem windowAnswer_mem (status : Nat) (data : Nat) (s : State) : (State.windowAnswer status data s).mem = s.mem := by
  unfold State.windowAnswer
  grind [emit_mem]

@[simp] theorem checkWindow_mem (ks : List Nat) (s : State) : (State.checkWindow ks s).mem = s.mem := by
  refine foldl_mem (fun s b => ?_) _ _
  split <;> rfl

theorem windowAccess_wf {off size : Nat} {wr : Option Nat} {s : State} (h : Memory.wf s.mem = true) {t : State} (ht : windowAccess off size wr s = some t) : Memory.wf t.mem = true := by
  unfold windowAccess at ht
  grind [checkWindow_mem, State.clearPoison_mem, mailboxWrite_wf, performCells_wf, visitRange_wf, windowAnswer_mem, → map_ok]

end Sys2Proof.Claims
end

section
/-!
PROOFS. What each function does to the memory, 8 of 8: integer, logic and predicate instructions; the cycle. `_mem`: it leaves the memory as it is; `_wf`: it keeps the memory canonical.
-/
namespace Sys2Proof.Claims
open Machine Bits Encoding

/-! ## Functions of Integer -/

theorem bodyInt2_mem {f : Enc → State → Nat → Nat → Nat} {cc : Enc → State → Nat → Nat → BitVec 4} {e : Enc} {s : State} {t : State} (ht : bodyInt2 f cc e s = .ok t) : t.mem = s.mem := by
  unfold bodyInt2 at ht
  grind [State.putD_mem, State.withCC_mem]

theorem bodyAdd_mem {e : Enc} {s : State} {t : State} (ht : bodyAdd e s = .ok t) : t.mem = s.mem := by
  unfold bodyAdd at ht
  grind [→ bodyInt2_mem]

theorem bodySub_mem {e : Enc} {s : State} {t : State} (ht : bodySub e s = .ok t) : t.mem = s.mem := by
  unfold bodySub at ht
  grind [→ bodyInt2_mem]

theorem bodyAddx_mem {e : Enc} {s : State} {t : State} (ht : bodyAddx e s = .ok t) : t.mem = s.mem := by
  unfold bodyAddx at ht
  grind [→ bodyInt2_mem]

theorem bodySubx_mem {e : Enc} {s : State} {t : State} (ht : bodySubx e s = .ok t) : t.mem = s.mem := by
  unfold bodySubx at ht
  grind [→ bodyInt2_mem]

theorem bodyMul_mem {e : Enc} {s : State} {t : State} (ht : bodyMul e s = .ok t) : t.mem = s.mem := by
  unfold bodyMul at ht
  grind [→ bodyInt2_mem]

theorem bodyMulh_mem {e : Enc} {s : State} {t : State} (ht : bodyMulh e s = .ok t) : t.mem = s.mem := by
  unfold bodyMulh at ht
  grind [→ bodyInt2_mem]

theorem bodyMin_mem {e : Enc} {s : State} {t : State} (ht : bodyMin e s = .ok t) : t.mem = s.mem := by
  unfold bodyMin at ht
  grind [→ bodyInt2_mem]

theorem bodyMax_mem {e : Enc} {s : State} {t : State} (ht : bodyMax e s = .ok t) : t.mem = s.mem := by
  unfold bodyMax at ht
  grind [→ bodyInt2_mem]

theorem bodyMad_mem {e : Enc} {s : State} {t : State} (ht : bodyMad e s = .ok t) : t.mem = s.mem := by
  unfold bodyMad at ht
  grind [State.putD_mem]

theorem bodyMadw_mem {e : Enc} {s : State} {t : State} (ht : bodyMadw e s = .ok t) : t.mem = s.mem := by
  unfold bodyMadw at ht
  grind [State.putD_mem]

theorem bodyClamp_mem {e : Enc} {s : State} {t : State} (ht : bodyClamp e s = .ok t) : t.mem = s.mem := by
  unfold bodyClamp at ht
  grind [State.putD_mem]

theorem bodyDiv_mem {e : Enc} {s : State} {t : State} (ht : bodyDiv e s = .ok t) : t.mem = s.mem := by
  unfold bodyDiv at ht
  grind [laterD_mem]

theorem bodyRem_mem {e : Enc} {s : State} {t : State} (ht : bodyRem e s = .ok t) : t.mem = s.mem := by
  unfold bodyRem at ht
  grind [laterD_mem]

theorem bodyAbs_mem {e : Enc} {s : State} {t : State} (ht : bodyAbs e s = .ok t) : t.mem = s.mem := by
  unfold bodyAbs at ht
  grind [State.putD_mem]

theorem bodyNeg_mem {e : Enc} {s : State} {t : State} (ht : bodyNeg e s = .ok t) : t.mem = s.mem := by
  unfold bodyNeg at ht
  grind [State.putD_mem, State.withCC_mem]

theorem bodyBitc_mem {e : Enc} {s : State} {t : State} (ht : bodyBitc e s = .ok t) : t.mem = s.mem := by
  unfold bodyBitc at ht
  grind [State.putD_mem]

/-! ## Functions of Logic -/

theorem bodyLog2_mem {f : Nat → Nat → Nat → Nat} {e : Enc} {s : State} {t : State} (ht : bodyLog2 f e s = .ok t) : t.mem = s.mem := by
  unfold bodyLog2 at ht
  grind [State.putD_mem, State.withCC_mem]

theorem bodyAnd_mem {e : Enc} {s : State} {t : State} (ht : bodyAnd e s = .ok t) : t.mem = s.mem := by
  unfold bodyAnd at ht
  grind [→ bodyLog2_mem]

theorem bodyOr_mem {e : Enc} {s : State} {t : State} (ht : bodyOr e s = .ok t) : t.mem = s.mem := by
  unfold bodyOr at ht
  grind [→ bodyLog2_mem]

theorem bodyXor_mem {e : Enc} {s : State} {t : State} (ht : bodyXor e s = .ok t) : t.mem = s.mem := by
  unfold bodyXor at ht
  grind [→ bodyLog2_mem]

theorem bodyAndn_mem {e : Enc} {s : State} {t : State} (ht : bodyAndn e s = .ok t) : t.mem = s.mem := by
  unfold bodyAndn at ht
  grind [→ bodyLog2_mem]

theorem bodyBool3_mem {e : Enc} {s : State} {t : State} (ht : bodyBool3 e s = .ok t) : t.mem = s.mem := by
  unfold bodyBool3 at ht
  grind [State.putD_mem, State.withCC_mem]

theorem bodyShift_mem {f : Nat → Nat → Nat → Nat} {e : Enc} {s : State} {t : State} (ht : bodyShift f e s = .ok t) : t.mem = s.mem := by
  unfold bodyShift at ht
  grind [State.putD_mem]

theorem bodyShl_mem {e : Enc} {s : State} {t : State} (ht : bodyShl e s = .ok t) : t.mem = s.mem := by
  unfold bodyShl at ht
  grind [→ bodyShift_mem]

theorem bodyShr_mem {e : Enc} {s : State} {t : State} (ht : bodyShr e s = .ok t) : t.mem = s.mem := by
  unfold bodyShr at ht
  grind [→ bodyShift_mem]

theorem bodySar_mem {e : Enc} {s : State} {t : State} (ht : bodySar e s = .ok t) : t.mem = s.mem := by
  unfold bodySar at ht
  grind [→ bodyShift_mem]

theorem bodyRotl_mem {e : Enc} {s : State} {t : State} (ht : bodyRotl e s = .ok t) : t.mem = s.mem := by
  unfold bodyRotl at ht
  grind [→ bodyShift_mem]

theorem bodyRotr_mem {e : Enc} {s : State} {t : State} (ht : bodyRotr e s = .ok t) : t.mem = s.mem := by
  unfold bodyRotr at ht
  grind [→ bodyShift_mem]

theorem bodyFsh_mem {e : Enc} {s : State} {t : State} (ht : bodyFsh e s = .ok t) : t.mem = s.mem := by
  unfold bodyFsh at ht
  grind [State.putD_mem]

theorem bodyBfx_mem {e : Enc} {s : State} {t : State} (ht : bodyBfx e s = .ok t) : t.mem = s.mem := by
  unfold bodyBfx at ht
  grind [State.putD_mem]

theorem bodyBfi_mem {e : Enc} {s : State} {t : State} (ht : bodyBfi e s = .ok t) : t.mem = s.mem := by
  unfold bodyBfi at ht
  grind [State.putD_mem]

theorem bodyClmul_mem {e : Enc} {s : State} {t : State} (ht : bodyClmul e s = .ok t) : t.mem = s.mem := by
  unfold bodyClmul at ht
  grind [State.putD_mem]

theorem bodyLea_mem {e : Enc} {s : State} {t : State} (ht : bodyLea e s = .ok t) : t.mem = s.mem := by
  unfold bodyLea at ht
  grind [State.putD_mem]

theorem bodyMov_mem {e : Enc} {s : State} {t : State} (ht : bodyMov e s = .ok t) : t.mem = s.mem := by
  unfold bodyMov at ht
  grind [State.putD_mem]

/-! ## Functions of Predicate -/

@[simp] theorem setPred_mem (e : Enc) (r : Bool) (s : State) : (State.setPred e r s).mem = s.mem := by
  unfold State.setPred
  grind

theorem bodyCmp_mem {e : Enc} {s : State} {t : State} (ht : bodyCmp e s = .ok t) : t.mem = s.mem := by
  unfold bodyCmp at ht
  grind [setPred_mem]

theorem bodyFcmp_mem {e : Enc} {s : State} {t : State} (ht : bodyFcmp e s = .ok t) : t.mem = s.mem := by
  unfold bodyFcmp at ht
  grind [State.orFp_mem, setPred_mem]

theorem bodyScmp_mem {e : Enc} {s : State} {t : State} (ht : bodyScmp e s = .ok t) : t.mem = s.mem := by
  unfold bodyScmp at ht
  grind [State.orSli_mem, setPred_mem]

theorem bodyQop_mem {e : Enc} {s : State} {t : State} (ht : bodyQop e s = .ok t) : t.mem = s.mem := by
  unfold bodyQop at ht
  grind

theorem bodyQget_mem {e : Enc} {s : State} {t : State} (ht : bodyQget e s = .ok t) : t.mem = s.mem := by
  unfold bodyQget at ht
  grind [State.putM_mem]

theorem bodyQset_mem {e : Enc} {s : State} {t : State} (ht : bodyQset e s = .ok t) : t.mem = s.mem := by
  unfold bodyQset at ht
  grind

theorem bodySel_mem {e : Enc} {s : State} {t : State} (ht : bodySel e s = .ok t) : t.mem = s.mem := by
  unfold bodySel at ht
  grind [State.putD_mem]

theorem bodyCcsel_mem {e : Enc} {s : State} {t : State} (ht : bodyCcsel e s = .ok t) : t.mem = s.mem := by
  unfold bodyCcsel at ht
  grind [State.putD_mem]

theorem bodyCcget_mem {e : Enc} {s : State} {t : State} (ht : bodyCcget e s = .ok t) : t.mem = s.mem := by
  unfold bodyCcget at ht
  grind [State.putD_mem]

theorem bodyCcput_mem {e : Enc} {s : State} {t : State} (ht : bodyCcput e s = .ok t) : t.mem = s.mem := by
  unfold bodyCcput at ht
  grind

/-! ## Functions of Vote -/

@[simp] theorem advance_mem (s : State) : (State.advance s).mem = s.mem := by
  unfold State.advance
  grind [State.mapDevs_mem]

@[simp] theorem clearCycle_mem (on : Nat → Bool) (s : State) : (State.clearCycle on s).mem = s.mem := by
  unfold State.clearCycle
  grind

theorem tryThread_mem {f : State → Option State} (hf : ∀ s t, f s = some t → t.mem = s.mem) (s : State) (k : ThreadKey) :
    (State.tryThread f s k).mem = s.mem := by
  refine getD_mem fun t ht => ?_
  obtain ⟨s1, hfocus, hstep⟩ := Option.bind_eq_some_iff.mp ht
  rw [hf s1 t hstep, focus_mem hfocus]

theorem tryThread_wf {f : State → Option State} (hf : ∀ s t, Memory.wf s.mem = true → f s = some t → Memory.wf t.mem = true) {s : State} (k : ThreadKey)
    (h : Memory.wf s.mem = true) : Memory.wf (State.tryThread f s k).mem = true := by
  refine getD_wf h fun t ht => ?_
  obtain ⟨s1, hfocus, hstep⟩ := Option.bind_eq_some_iff.mp ht
  exact hf s1 t (by rwa [focus_mem hfocus]) hstep

theorem tryGroup_mem {f : State → Option State} (hf : ∀ s t, f s = some t → t.mem = s.mem) (s : State) (gid : Nat) :
    (State.tryGroup f s gid).mem = s.mem := by
  refine getD_mem fun t ht => ?_
  obtain ⟨s1, hfocus, hstep⟩ := Option.bind_eq_some_iff.mp ht
  rw [hf s1 t hstep, focusGroup_mem hfocus]

theorem tryGroup_wf {f : State → Option State} (hf : ∀ s t, Memory.wf s.mem = true → f s = some t → Memory.wf t.mem = true) {s : State} (gid : Nat)
    (h : Memory.wf s.mem = true) : Memory.wf (State.tryGroup f s gid).mem = true := by
  refine getD_wf h fun t ht => ?_
  obtain ⟨s1, hfocus, hstep⟩ := Option.bind_eq_some_iff.mp ht
  exact hf s1 t (by rwa [focusGroup_mem hfocus]) hstep

theorem retestSync_mem {s : State} {t : State} (ht : retestSync s = some t) : t.mem = s.mem := by
  unfold retestSync at ht
  grind [whenDue_some]

@[simp] theorem meetAll_mem (s : State) (gid : Nat) : (State.meetAll s gid).mem = s.mem :=
  foldl_mem (fun _ m => tryGroup_mem (fun _ _ => meetRelease_mem) ..) _ _

@[simp] theorem meetLate_mem (s : State) (gid : Nat) : (State.meetLate s gid).mem = s.mem :=
  foldl_mem (fun _ m => tryGroup_mem (fun _ _ => meetEarly_mem) ..) _ _

theorem deliverAll_wf {s : State} {gid : Nat} (h : Memory.wf s.mem = true) : Memory.wf (State.deliverAll s gid).mem = true :=
  foldl_wf (fun _ p => tryGroup_wf (fun _ _ hs => deliverDue_wf hs) gid) _ h

theorem openCycle_wf {s : State} (h : Memory.wf s.mem = true) : Memory.wf (State.openCycle s).mem = true := by
  have hthreads : ∀ {f : State → Option State}, (∀ s t, f s = some t → t.mem = s.mem) → ∀ (ks : List ThreadKey) (s : State),
      (ks.foldl (State.tryThread f) s).mem = s.mem := fun hf ks s => foldl_mem (tryThread_mem hf) ks s
  unfold State.openCycle
  dsimp only
  refine foldl_wf (fun _ gid => deliverAll_wf) _ ?_
  rw [hthreads (fun _ _ => waitStall_mem), hthreads (fun _ _ => gatherStall_mem), hthreads (fun _ _ => ageThread_mem), foldl_mem meetLate_mem,
    foldl_mem meetAll_mem]
  rw [hthreads (fun _ _ => gatherDone_mem), hthreads (fun _ _ => retestSync_mem), hthreads (fun _ _ => endYield_mem), hthreads (fun _ _ => spinExpire_mem)]
  exact h

@[simp] theorem choosePack_mem (s : State) (dev core pipe : Nat) : (s.choosePack dev core pipe).2.mem = s.mem := State.choose_mem ..

@[simp] theorem choosePacks_mem (l : List (Nat × Nat × Nat)) (s : State) : (State.choosePacks l s).2.mem = s.mem := by
  induction l generalizing s with
  | nil => rfl
  | cons x rest ih => simp only [State.choosePacks, ih, choosePack_mem]

@[simp] theorem shuffle_mem (n : Nat) (l : List PackKey) (s : State) : (State.shuffle n l s).2.mem = s.mem := by
  induction n generalizing l s with
  | zero => rfl
  | succ n ih =>
    unfold State.shuffle
    dsimp only
    split
    · simp
    · simp only [ih, State.choose_mem]

theorem cycle_wf {s : State} (h : Memory.wf s.mem = true) : Memory.wf (State.cycle s).mem = true := by
  unfold State.cycle
  grind [advance_mem, choosePacks_mem, clearCycle_mem, openCycle_wf, shuffle_mem, → map_ok]

@[simp] theorem noteIssue_mem (s : State) : (State.noteIssue s).mem = s.mem := by
  unfold State.noteIssue
  grind

theorem atIssue_mem {k : ThreadKey} {pc : CodeAddr} {s : State} {t : State} (ht : State.atIssue k pc s = some t) : t.mem = s.mem := by
  unfold State.atIssue at ht
  grind [→ focus_mem, noteIssue_mem, splitIssued_mem]

end Sys2Proof.Claims
end

section
/-!
PROOFS. Every step keeps the memory canonical (notes/assumptions/2.md).
-/
namespace Sys2Proof.Claims
open Machine Bits Encoding

/-! ## Rows and events -/

/-- What an event's function leaves has canonical memory where what it is given has. -/
def EventKeepsWf (f : State → Option State) : Prop := ∀ s t, Memory.wf s.mem = true → f s = some t → Memory.wf t.mem = true

theorem EventKeepsWf.of_mem {f : State → Option State} (hf : ∀ s t, f s = some t → t.mem = s.mem) : EventKeepsWf f :=
  fun s t h ht => by rwa [hf s t ht]

/-- What an instruction's meaning leaves has canonical memory where what it is given has. -/
def BodyKeepsWf (body : Body) : Prop := ∀ e, ∀ s t, Memory.wf s.mem = true → body e s = .ok t → Memory.wf t.mem = true

theorem BodyKeepsWf.of_mem {body : Body} (hb : ∀ e s t, body e s = .ok t → t.mem = s.mem) : BodyKeepsWf body :=
  fun e s t h ht => by rwa [hb e s t ht]

section
variable {s t : State} (h : Memory.wf s.mem = true)
include h

theorem issue_wf {gathers : Bool} {body : Body} {e : Enc} (hb : BodyKeepsWf body) (ht : s.issue gathers body e = .next t) : Memory.wf t.mem = true := by
  have hrun : ∀ s1 : State, s1.mem = s.mem → Memory.wf (s1.run e body).mem = true := fun s1 h1 =>
    run_wf (fun hs hok => hb e _ _ hs hok) (by rwa [h1])
  unfold State.issue at ht
  split at ht
  · cases ht
  · split at ht
    · cases ht; exact deliverTrap_wf h
    · split at ht
      · cases ht
        split
        · exact h
        · exact takeTrap_wf (by exact h)
      · split at ht
        · cases ht; simpa using h
        · dsimp only at ht
          split at ht
          · cases ht; exact stop_wf (by exact h)
          · cases ht; exact hrun _ rfl

section
variable {f : State → Option State} (hf : EventKeepsWf f)
include hf

theorem getD_next_wf (ht : (.next ((f s).getD s) : Outcome) = .next t) : Memory.wf t.mem = true := by
  cases ht; exact getD_wf h fun t ht => hf s t h ht

theorem onThread_wf {k : ThreadKey} (ht : s.onThread k f = .next t) : Memory.wf t.mem = true := by
  cases ht
  refine getD_wf h fun t ht => ?_
  obtain ⟨s1, hfocus, hstep⟩ := Option.bind_eq_some_iff.mp ht
  exact hf s1 t (by rwa [focus_mem hfocus]) hstep

theorem onGroup_wf {gid : Nat} (ht : s.onGroup gid f = .next t) : Memory.wf t.mem = true := by
  cases ht
  refine getD_wf h fun t ht => ?_
  split at ht
  · cases ht
  · obtain ⟨s1, hfocus, hstep⟩ := Option.bind_eq_some_iff.mp ht
    exact hf s1 t (by rwa [focusGroup_mem hfocus]) hstep

theorem onCore_wf {dev core : Nat} (ht : s.onCore dev core f = .next t) : Memory.wf t.mem = true := by
  cases ht
  exact getD_wf h fun t ht => hf _ t (by simpa using h) ht

theorem onPart_wf {dev pid : Nat} (ht : s.onPart dev pid f = .next t) : Memory.wf t.mem = true := by
  cases ht
  refine getD_wf h fun t ht => ?_
  split at ht
  · exact hf _ t (by simpa using h) ht
  · cases ht

theorem onDev_wf {dev : Nat} (ht : s.onDev dev f = .next t) : Memory.wf t.mem = true := by
  cases ht
  exact getD_wf h fun t ht => hf _ t (by simpa using h) ht

theorem onLaunch_wf {lid : Nat} (ht : s.onLaunch lid f = .next t) : Memory.wf t.mem = true := by
  cases ht
  refine getD_wf h fun t ht => ?_
  split at ht
  · cases ht
  · obtain ⟨s1, hout, hstep⟩ := Option.bind_eq_some_iff.mp ht
    exact hf _ t (by simpa [checkoutLaunch_mem hout] using h) hstep

end

theorem onJob_wf {dev core id : Nat} {f : Job → State → Option State} (hf : ∀ j, EventKeepsWf (f j)) (ht : s.onJob dev core id f = .next t) :
    Memory.wf t.mem = true := by
  cases ht
  refine getD_wf h fun t ht => ?_
  split at ht
  · cases ht
  · next j s1 hfocus => exact hf j s1 t (by rwa [focusJob_mem hfocus]) ht

theorem onSeq_wf {id : Word} {f : SeqCtx → State → Option State} (hf : ∀ q, EventKeepsWf (f q)) (ht : s.onSeq id f = .next t) :
    Memory.wf t.mem = true := by
  cases ht
  refine getD_wf h fun t ht => ?_
  obtain ⟨q, -, hstep⟩ := Option.bind_eq_some_iff.mp ht
  exact hf q _ t (by simpa using h) hstep

end

/-! ## The step -/

theorem bodyGview_sameMem {e : Enc} {s t : State} (ht : bodyGview e s = .ok t) : t.mem = s.mem := by
  unfold bodyGview at ht
  grind [State.replyD_mem]

theorem exec_wf {i : Instr} {s t : State} (h : Memory.wf s.mem = true) (ht : exec i s = .next t) : Memory.wf t.mem = true := by
  cases i with
  | nopS e | nopL e => exact issue_wf h (.of_mem fun _ _ _ => bodyNop_mem) ht
  | braS e | braX e => exact issue_wf h (.of_mem fun _ _ _ => bodyBra_mem) ht
  | jmpS e | jmpL e => exact issue_wf h (.of_mem fun _ _ _ => bodyJmp_mem) ht
  | callS e | callX e => exact issue_wf h (.of_mem fun _ _ _ => bodyCall_mem) ht
  | calliS e | calliL e => exact issue_wf h (.of_mem fun _ _ _ => bodyCalli_mem) ht
  | retS e | retL e => exact issue_wf h (fun _ _ _ hs => bodyRet_wf hs) ht
  | meetS e | meetX e => exact issue_wf h (.of_mem fun _ _ _ => bodyMeet_mem) ht
  | meetrS e | meetrL e => exact issue_wf h (.of_mem fun _ _ _ => bodyMeetr_mem) ht
  | exitS e | exitL e => exact issue_wf h (fun _ _ _ hs => bodyExit_wf hs) ht
  | trapS e | trapL e | trapX e => exact issue_wf h (.of_mem fun _ _ _ => bodyTrap_mem) ht
  | brkS e | brkL e => exact issue_wf h (.of_mem fun _ _ _ => bodyBrk_mem) ht
  | yieldS e | yieldL e => exact issue_wf h (.of_mem fun _ _ _ => bodyYield_mem) ht
  | addS e | addLX e => exact issue_wf h (.of_mem fun _ _ _ => bodyAdd_mem) ht
  | subS e | subLX e => exact issue_wf h (.of_mem fun _ _ _ => bodySub_mem) ht
  | addx e => exact issue_wf h (.of_mem fun _ _ _ => bodyAddx_mem) ht
  | subx e => exact issue_wf h (.of_mem fun _ _ _ => bodySubx_mem) ht
  | mul e => exact issue_wf h (.of_mem fun _ _ _ => bodyMul_mem) ht
  | mulh e => exact issue_wf h (.of_mem fun _ _ _ => bodyMulh_mem) ht
  | mad e => exact issue_wf h (.of_mem fun _ _ _ => bodyMad_mem) ht
  | madw e => exact issue_wf h (.of_mem fun _ _ _ => bodyMadw_mem) ht
  | div e => exact issue_wf h (.of_mem fun _ _ _ => bodyDiv_mem) ht
  | rem e => exact issue_wf h (.of_mem fun _ _ _ => bodyRem_mem) ht
  | min e => exact issue_wf h (.of_mem fun _ _ _ => bodyMin_mem) ht
  | max e => exact issue_wf h (.of_mem fun _ _ _ => bodyMax_mem) ht
  | abs e => exact issue_wf h (.of_mem fun _ _ _ => bodyAbs_mem) ht
  | negS e | negLX e => exact issue_wf h (.of_mem fun _ _ _ => bodyNeg_mem) ht
  | bitc e => exact issue_wf h (.of_mem fun _ _ _ => bodyBitc_mem) ht
  | clamp e => exact issue_wf h (.of_mem fun _ _ _ => bodyClamp_mem) ht
  | andS e | andLX e => exact issue_wf h (.of_mem fun _ _ _ => bodyAnd_mem) ht
  | orS e | orLX e => exact issue_wf h (.of_mem fun _ _ _ => bodyOr_mem) ht
  | xorS e | xorLX e => exact issue_wf h (.of_mem fun _ _ _ => bodyXor_mem) ht
  | andn e => exact issue_wf h (.of_mem fun _ _ _ => bodyAndn_mem) ht
  | bool3 e => exact issue_wf h (.of_mem fun _ _ _ => bodyBool3_mem) ht
  | shlS e | shlLX e => exact issue_wf h (.of_mem fun _ _ _ => bodyShl_mem) ht
  | shrS e | shrLX e => exact issue_wf h (.of_mem fun _ _ _ => bodyShr_mem) ht
  | sarS e | sarLX e => exact issue_wf h (.of_mem fun _ _ _ => bodySar_mem) ht
  | rotl e => exact issue_wf h (.of_mem fun _ _ _ => bodyRotl_mem) ht
  | rotr e => exact issue_wf h (.of_mem fun _ _ _ => bodyRotr_mem) ht
  | fsh e => exact issue_wf h (.of_mem fun _ _ _ => bodyFsh_mem) ht
  | bfx e => exact issue_wf h (.of_mem fun _ _ _ => bodyBfx_mem) ht
  | bfi e => exact issue_wf h (.of_mem fun _ _ _ => bodyBfi_mem) ht
  | clmul e => exact issue_wf h (.of_mem fun _ _ _ => bodyClmul_mem) ht
  | lea e => exact issue_wf h (.of_mem fun _ _ _ => bodyLea_mem) ht
  | movS e | movLX e => exact issue_wf h (.of_mem fun _ _ _ => bodyMov_mem) ht
  | cmpS e | cmpLX e => exact issue_wf h (.of_mem fun _ _ _ => bodyCmp_mem) ht
  | fcmp e => exact issue_wf h (.of_mem fun _ _ _ => bodyFcmp_mem) ht
  | scmp e => exact issue_wf h (.of_mem fun _ _ _ => bodyScmp_mem) ht
  | qop e => exact issue_wf h (.of_mem fun _ _ _ => bodyQop_mem) ht
  | qget e => exact issue_wf h (.of_mem fun _ _ _ => bodyQget_mem) ht
  | qset e => exact issue_wf h (.of_mem fun _ _ _ => bodyQset_mem) ht
  | selS e | selLX e => exact issue_wf h (.of_mem fun _ _ _ => bodySel_mem) ht
  | ccsel e => exact issue_wf h (.of_mem fun _ _ _ => bodyCcsel_mem) ht
  | ccget e => exact issue_wf h (.of_mem fun _ _ _ => bodyCcget_mem) ht
  | ccput e => exact issue_wf h (.of_mem fun _ _ _ => bodyCcput_mem) ht
  | faddS e | faddLX e => exact issue_wf h (.of_mem fun _ _ _ => bodyFadd_mem) ht
  | fsubS e | fsubLX e => exact issue_wf h (.of_mem fun _ _ _ => bodyFsub_mem) ht
  | fmulS e | fmulLX e => exact issue_wf h (.of_mem fun _ _ _ => bodyFmul_mem) ht
  | ffma e => exact issue_wf h (.of_mem fun _ _ _ => bodyFfma_mem) ht
  | fmin e => exact issue_wf h (.of_mem fun _ _ _ => bodyFmin_mem) ht
  | fmax e => exact issue_wf h (.of_mem fun _ _ _ => bodyFmax_mem) ht
  | fdiv e => exact issue_wf h (.of_mem fun _ _ _ => bodyFdiv_mem) ht
  | fsqrt e => exact issue_wf h (.of_mem fun _ _ _ => bodyFsqrt_mem) ht
  | frcp e => exact issue_wf h (.of_mem fun _ _ _ => bodyFrcp_mem) ht
  | frsq e => exact issue_wf h (.of_mem fun _ _ _ => bodyFrsq_mem) ht
  | fclass e => exact issue_wf h (.of_mem fun _ _ _ => bodyFclass_mem) ht
  | frnd e => exact issue_wf h (.of_mem fun _ _ _ => bodyFrnd_mem) ht
  | fscale e => exact issue_wf h (.of_mem fun _ _ _ => bodyFscale_mem) ht
  | fsplit e => exact issue_wf h (.of_mem fun _ _ _ => bodyFsplit_mem) ht
  | fdot2 e => exact issue_wf h (.of_mem fun _ _ _ => bodyFdot2_mem) ht
  | cvt e => exact issue_wf h (.of_mem fun _ _ _ => bodyCvt_mem) ht
  | quant e => exact issue_wf h (.of_mem fun _ _ _ => bodyQuant_mem) ht
  | dequant e => exact issue_wf h (.of_mem fun _ _ _ => bodyDequant_mem) ht
  | pack e => exact issue_wf h (.of_mem fun _ _ _ => bodyPack_mem) ht
  | unpack e => exact issue_wf h (.of_mem fun _ _ _ => bodyUnpack_mem) ht
  | fexp2 e => exact issue_wf h (.of_mem fun _ _ _ => bodyFexp2_mem) ht
  | flog2 e => exact issue_wf h (.of_mem fun _ _ _ => bodyFlog2_mem) ht
  | fsin e => exact issue_wf h (.of_mem fun _ _ _ => bodyFsin_mem) ht
  | fcos e => exact issue_wf h (.of_mem fun _ _ _ => bodyFcos_mem) ht
  | ftanh e => exact issue_wf h (.of_mem fun _ _ _ => bodyFtanh_mem) ht
  | sadd e => exact issue_wf h (.of_mem fun _ _ _ => bodySadd_mem) ht
  | ssub e => exact issue_wf h (.of_mem fun _ _ _ => bodySsub_mem) ht
  | smul e => exact issue_wf h (.of_mem fun _ _ _ => bodySmul_mem) ht
  | sdiv e => exact issue_wf h (.of_mem fun _ _ _ => bodySdiv_mem) ht
  | srcp e => exact issue_wf h (.of_mem fun _ _ _ => bodySrcp_mem) ht
  | slog e => exact issue_wf h (.of_mem fun _ _ _ => bodySlog_mem) ht
  | santi e => exact issue_wf h (.of_mem fun _ _ _ => bodySanti_mem) ht
  | sfrom e => exact issue_wf h (.of_mem fun _ _ _ => bodySfrom_mem) ht
  | sto e => exact issue_wf h (.of_mem fun _ _ _ => bodySto_mem) ht
  | sacce e => exact issue_wf h (.of_mem fun _ _ _ => bodySacce_mem) ht
  | ldS e | ldLX e => exact issue_wf h (fun _ _ _ hs => bodyLd_wf hs) ht
  | stS e | stLX e => exact issue_wf h (fun _ _ _ hs => bodySt_wf hs) ht
  | ldsS e | ldsLX e => exact issue_wf h (.of_mem fun _ _ _ => bodyLds_mem) ht
  | stsS e | stsLX e => exact issue_wf h (.of_mem fun _ _ _ => bodySts_mem) ht
  | ldf e => exact issue_wf h (fun _ _ _ hs => bodyLdf_wf hs) ht
  | ldk e => exact issue_wf h (fun _ _ _ hs => bodyLdk_wf hs) ht
  | pfch e => exact issue_wf h (.of_mem fun _ _ _ => bodyPfch_mem) ht
  | cctlInv e => exact issue_wf h (.of_mem fun _ _ _ => bodyCctlInv_mem) ht
  | cctlInvl e => exact issue_wf h (.of_mem fun _ _ _ => bodyCctlInvl_mem) ht
  | fence e => exact issue_wf h (.of_mem fun _ _ _ => bodyFence_mem) ht
  | amo e => exact issue_wf h (fun _ _ _ hs => bodyAmo_wf hs) ht
  | amos e => exact issue_wf h (.of_mem fun _ _ _ => bodyAmos_mem) ht
  | sinit e => exact issue_wf h (fun _ _ _ hs => bodySinit_wf hs) ht
  | sarriveS e | sarriveLX e => exact issue_wf h (fun _ _ _ hs => bodySarrive_wf hs) ht
  | swaitS e | swaitLX e => exact issue_wf h (fun _ _ _ hs => bodySwait_wf hs) ht
  | sbarS e | sbarL e => exact issue_wf h (fun _ _ _ hs => bodySbar_wf hs) ht
  | spoll e => exact issue_wf h (fun _ _ _ hs => bodySpoll_wf hs) ht
  | xperm e | xbcast e | xvote e | xred e | xscan e | xmatch e | xelect e => exact issue_wf h (.of_mem fun _ _ _ => bodyCross_mem) ht
  | acca e => exact issue_wf h (fun _ _ _ hs => bodyAcca_wf hs) ht
  | accf e => exact issue_wf h (.of_mem fun _ _ _ => bodyAccf_mem) ht
  | mload e | rowld e => exact issue_wf h (.of_mem fun _ _ _ => bodyLoadTile_mem) ht
  | hada e => exact issue_wf h (.of_mem fun _ _ _ => bodyHada_mem) ht
  | mmac e => exact issue_wf h (.of_mem fun _ _ _ => bodyMmac_mem) ht
  | aswap e => exact issue_wf h (.of_mem fun _ _ _ => bodyAswap_mem) ht
  | accz e => exact issue_wf h (.of_mem fun _ _ _ => bodyAccz_mem) ht
  | accrd e => exact issue_wf h (.of_mem fun _ _ _ => bodyAccrd_mem) ht
  | accst e => exact issue_wf h (.of_mem fun _ _ _ => bodyAccst_mem) ht
  | xcopy e => exact issue_wf h (.of_mem fun _ _ _ => bodyXcopy_mem) ht
  | xgath e => exact issue_wf h (.of_mem fun _ _ _ => bodyXgath_mem) ht
  | fork e => exact issue_wf h (.of_mem fun _ _ _ => bodyFork_mem) ht
  | rdv e => exact issue_wf h (.of_mem fun _ _ _ => bodyRdv_mem) ht
  | gres e => exact issue_wf h (.of_mem fun _ _ _ => bodyGres_mem) ht
  | xfer e => exact issue_wf h (fun _ _ _ hs => bodyXfer_wf hs) ht
  | fbegin e => exact issue_wf h (.of_mem fun _ _ _ => bodyFbegin_mem) ht
  | fcommit e => exact issue_wf h (fun _ _ _ hs => bodyFcommit_wf hs) ht
  | fred e => exact issue_wf h (fun _ _ _ hs => bodyFred_wf hs) ht
  | cloa e => exact issue_wf h (fun _ _ _ hs => bodyCloa_wf hs) ht
  | cld e => exact issue_wf h (.of_mem fun _ _ _ => bodyCld_mem) ht
  | cref e => exact issue_wf h (fun _ _ _ hs => bodyCref_wf hs) ht
  | cunref e => exact issue_wf h (fun _ _ _ hs => bodyCunref_wf hs) ht
  | cswap e => exact issue_wf h (fun _ _ _ hs => bodyCswap_wf hs) ht
  | ccopy e => exact issue_wf h (.of_mem fun _ _ _ => bodyCcopy_mem) ht
  | lhash e => exact issue_wf h (fun _ _ _ hs => bodyLhash_wf hs) ht
  | hblk e => exact issue_wf h (fun _ _ _ hs => bodyHblk_wf hs) ht
  | pflook e => exact issue_wf h (fun _ _ _ hs => bodyPflook_wf hs) ht
  | pfins e => exact issue_wf h (fun _ _ _ hs => bodyPfins_wf hs) ht
  | pfpin e | pfunpin e => exact issue_wf h (fun _ _ _ hs => bodyPin_wf hs) ht
  | stepbeg e => exact issue_wf h (fun _ _ _ hs => bodyStepbeg_wf hs) ht
  | stepend e => exact issue_wf h (.of_mem fun _ _ _ => bodyStepend_mem) ht
  | gview e => exact issue_wf h (.of_mem fun _ _ _ => bodyGview_sameMem) ht
  | gsetw e => exact issue_wf h (fun _ _ _ hs => bodyGsetw_wf hs) ht
  | kvld e => exact issue_wf h (.of_mem fun _ _ _ => bodyKvld_mem) ht
  | kvst e => exact issue_wf h (fun _ _ _ hs => bodyKvst_wf hs) ht
  | kvcommit e => exact issue_wf h (fun _ _ _ hs => bodyKvcommit_wf hs) ht
  | kvreject e => exact issue_wf h (fun _ _ _ hs => bodyKvreject_wf hs) ht
  | kvfork e => exact issue_wf h (fun _ _ _ hs => bodyKvfork_wf hs) ht
  | kvinfoLen e => exact issue_wf h (.of_mem fun _ _ _ => bodyInfoLen_mem) ht
  | kvinfoBlk e => exact issue_wf h (.of_mem fun _ _ _ => bodyInfoBlk_mem) ht
  | kvinfoHash e => exact issue_wf h (.of_mem fun _ _ _ => bodyInfoHash_mem) ht
  | kvinfoTok e => exact issue_wf h (.of_mem fun _ _ _ => bodyInfoTok_mem) ht
  | kvinfoThr e => exact issue_wf h (.of_mem fun _ _ _ => bodyInfoThr_mem) ht
  | kvinfoMint e => exact issue_wf h (fun _ _ _ hs => bodyInfoMint_wf hs) ht
  | kvinfoRevoke e => exact issue_wf h (fun _ _ _ hs => bodyInfoRevoke_wf hs) ht
  | solicit e => exact issue_wf h (fun _ _ _ hs => bodySolicit_wf hs) ht
  | dirput e => exact issue_wf h (fun _ _ _ hs => bodyDirput_wf hs) ht
  | dirdel e => exact issue_wf h (fun _ _ _ hs => bodyDirdel_wf hs) ht
  | reply e => exact issue_wf h (fun _ _ _ hs => bodyReply_wf hs) ht
  | rdsr e => exact issue_wf h (fun _ _ _ hs => bodyRdsr_wf hs) ht
  | wrsr e => exact issue_wf h (.of_mem fun _ _ _ => bodyWrsr_mem) ht
  | kset e => exact issue_wf h (.of_mem fun _ _ _ => bodyKset_mem) ht
  | launch e => exact issue_wf h (fun _ _ _ hs => bodyLaunch_wf hs) ht
  | reggive e | regclaim e => exact issue_wf h (.of_mem fun _ _ _ => bodyPool_mem) ht
  | tkclaim e => exact issue_wf h (fun _ _ _ hs => bodyTkclaim_wf hs) ht
  | mbind e => exact issue_wf h (fun _ _ _ hs => bodyMbind_wf hs) ht
  | tlbinv e => exact issue_wf h (.of_mem fun _ _ _ => bodyTlbinv_mem) ht
  | spinLoweringExpiry t => exact onThread_wf h (.of_mem fun _ _ => spinExpire_mem) ht
  | threadAged t => exact onThread_wf h (.of_mem fun _ _ => ageThread_mem) ht
  | meetingRelease gid pack m => exact onGroup_wf h (.of_mem fun _ _ => meetRelease_mem) ht
  | meetingEarlyRelease gid pack m => exact onGroup_wf h (.of_mem fun _ _ => meetEarly_mem) ht
  | yieldEnd t => exact onThread_wf h (.of_mem fun _ _ => endYield_mem) ht
  | crossLaneGather t => exact onThread_wf h (.of_mem fun _ _ => gatherDone_mem) ht
  | xstall t => exact onThread_wf h (.of_mem fun _ _ => gatherStall_mem) ht
  | bstall t => exact onThread_wf h (.of_mem fun _ _ => waitStall_mem) ht
  | trapDelivery gid pack => exact onGroup_wf h (fun _ _ hs => deliverDue_wf hs) ht
  | trapResume t => exact onThread_wf h (fun _ _ hs => trapEnd_wf hs) ht
  | longLatencyResult t serial => exact onThread_wf h (.of_mem fun _ _ => resultArrives_mem) ht
  | phaseCommit gid => exact onGroup_wf h (fun _ _ hs => phaseCommits_wf hs) ht
  | phaseAdmission gid core => exact onGroup_wf h (.of_mem fun _ _ => phaseAdmits_mem) ht
  | phaseAging gid => exact onGroup_wf h (.of_mem fun _ _ => phaseAges_mem) ht
  | forcedPreemption gid victim => exact onGroup_wf h (.of_mem fun _ _ => preempts_mem) ht
  | auditRerun gid core slot => exact onGroup_wf h (fun _ _ hs => auditReruns_wf hs) ht
  | auditThirdRun gid core slot => exact onGroup_wf h (fun _ _ hs => auditThird_wf hs) ht
  | auditSampleDrop gid err => exact onGroup_wf h (.of_mem fun _ _ => auditDrops_mem) ht
  | atsInvalidationRequest dev pid iova => exact onPart_wf h (.of_mem fun _ _ => atsInvalidates_mem) ht
  | tlbinvRegister dev pid => exact onPart_wf h (.of_mem fun _ _ => tlbinvStep_mem) ht
  | engineJobStart dev core job => exact onJob_wf h (fun _ => (fun _ _ hs => startJob_wf hs)) ht
  | engineJobComplete dev core job => exact onJob_wf h (fun _ => (fun _ _ hs => completeJob_wf hs)) ht
  | engineJobFail dev core job => exact onJob_wf h (fun _ => (.of_mem fun _ _ => failJob_mem)) ht
  | followOnIssue dev core job => exact onJob_wf h (fun _ => (.of_mem fun _ _ => issueFollowOn_mem)) ht
  | arrayDrain dev core job => exact onJob_wf h (fun _ => (.of_mem fun _ _ => drainJob_mem)) ht
  | epilogueStoreTranslated dev core job => exact onJob_wf h (fun _ => (fun _ _ hs => storeTranslated_wf hs)) ht
  | epilogueStoreFault dev core job => exact onJob_wf h (fun _ => (.of_mem fun _ _ => storeFaults_mem)) ht
  | sequencerDescriptorIssue dev core sq => exact onCore_wf h (.of_mem fun _ _ => issueDescriptor_mem) ht
  | accaGrant dev core => exact onCore_wf h (fun _ _ hs => grantAcca_wf hs) ht
  | regclaimServe gid => exact onGroup_wf h (.of_mem fun _ _ => serveClaim_mem) ht
  | sequencerGrant dev core => exact onCore_wf h (.of_mem fun _ _ => grantSeqr_mem) ht
  | jobQueueSpace t => exact onThread_wf h (.of_mem fun _ _ => queueSpace_mem) ht
  | ticketMerge dev cluster key => exact onDev_wf h (fun _ _ hs => mergeTickets_wf hs) ht
  | ticketReply t => exact onThread_wf h (.of_mem fun _ _ => ticketArrives_mem) ht
  | atomicPerform serial => exact getD_next_wf h (fun _ _ hs => atomicPerforms_wf hs) ht
  | launchTagFree lid => exact getD_next_wf h (.of_mem fun _ _ => tagFreed_mem) ht
  | backgroundWalker dev pid => exact onPart_wf h (.of_mem fun _ _ => walkLine_mem) ht
  | slotFree dev pid region slot => exact onPart_wf h (.of_mem fun _ _ => freeSlotOf_mem) ht
  | queueDoorbell dev pid q tail => exact onPart_wf h (.of_mem fun _ _ => ringDoorbell_mem) ht
  | queueEnable dev pid q on => exact onPart_wf h (.of_mem fun _ _ => enableQueue_mem) ht
  | queueErrorClear dev pid q => exact onPart_wf h (.of_mem fun _ _ => clearQueueError_mem) ht
  | queueReset dev pid q => exact onPart_wf h (.of_mem fun _ _ => resetQueue_mem) ht
  | deferredLaunchStart dev pid => exact onPart_wf h (fun _ _ hs => startDeferred_wf hs) ht
  | mailboxOverflowClear dev pid m => exact onPart_wf h (.of_mem fun _ _ => clearOverflow_mem) ht
  | dependencesPassed lid => exact onLaunch_wf h (fun _ _ hs => depsPassed_wf hs) ht
  | gangPrepare lid => exact onLaunch_wf h (.of_mem fun _ _ => gangPrepares_mem) ht
  | gangGo lid => exact onLaunch_wf h (.of_mem fun _ _ => gangGoes_mem) ht
  | gangPrepareTimeout lid | fabricLaunchTimeout lid => exact onLaunch_wf h (.of_mem fun _ _ => prepareTimesOut_mem) ht
  | fabricLaunchPrepare lid => exact onLaunch_wf h (.of_mem fun _ _ => fabricPrepares_mem) ht
  | fabricLaunchGo lid => exact onLaunch_wf h (.of_mem fun _ _ => fabricGoes_mem) ht
  | fabricLaunchReport lid dev => exact onLaunch_wf h (.of_mem fun _ _ => fabricReports_mem) ht
  | launchEnd lid => exact onLaunch_wf h (fun _ _ hs => launchEnds_wf hs) ht
  | stepEnd seq lid => exact onSeq_wf h (fun _ => (fun _ _ hs => stepEnds_wf hs)) ht
  | viewPrepare seq width => exact onSeq_wf h (fun _ => (.of_mem fun _ _ => viewPrepares_mem)) ht
  | viewAcknowledged seq num member => exact onSeq_wf h (fun _ => (.of_mem fun _ _ => viewAcks_mem)) ht
  | viewPrepareTimeout seq num => exact onSeq_wf h (fun _ => (.of_mem fun _ _ => viewTimesOut_mem)) ht
  | catchUp seq num => exact onSeq_wf h (fun _ => (fun _ _ hs => catchesUp_wf hs)) ht
  | viewRetire seq num => exact onSeq_wf h (fun _ => (fun _ _ hs => viewRetires_wf hs)) ht
  | memberFault dev => exact getD_next_wf h (fun _ _ hs => memberFaults_wf hs) ht
  | livenessProbeTimeout dev => exact getD_next_wf h (fun _ _ hs => probeTimesOut_wf hs) ht
  | recomputeHandlerLaunch seq => exact onSeq_wf h (fun _ => (fun _ _ hs => recompute_wf hs)) ht
  | gangRerun lid => exact onLaunch_wf h (fun _ _ hs => gangReruns_wf hs) ht
  | remoteAccessArrival serial => exact getD_next_wf h (fun _ _ hs => remoteArrives_wf hs) ht
  | remoteAccessTimeout serial => exact getD_next_wf h (fun _ _ hs => remoteTimesOut_wf hs) ht
  | flushMarker t dst path => exact onThread_wf h (.of_mem fun _ _ => markerArrives_mem) ht
  | flitReplay dev port => exact onDev_wf h (.of_mem fun _ _ => flitReplayed_mem) ht
  | xferPacketArrival dev core job packet => exact onJob_wf h (fun _ => (fun _ _ hs => packetArrives_wf hs)) ht
  | fcommitPrepare t dst => exact onThread_wf h (fun _ _ hs => commitPrepares_wf hs) ht
  | fcommitCommit t => exact onThread_wf h (fun _ _ hs => commitPerforms_wf hs) ht
  | fcommitAbort t => exact onThread_wf h (fun _ _ hs => commitAborts_wf hs) ht
  | fcommitTimeout t => exact onThread_wf h (.of_mem fun _ _ => commitTimesOut_mem) ht
  | reductionTimeout dev id view => exact onDev_wf h (.of_mem fun _ _ => reductionTimesOut_mem) ht
  | viewFailureAnnouncement seq view => exact getD_next_wf h (.of_mem fun _ _ => viewAnnounced_mem) ht
  | replyArrival serial => exact getD_next_wf h (.of_mem fun _ _ => replyTaken_mem) ht
  | integrityCheck t page block => exact onThread_wf h (fun _ _ hs => checkBlock_wf hs) ht
  | pageRefetch page bytes => exact getD_next_wf h (fun _ _ hs => refetchPage_wf hs) ht
  | eccCorrected dev u pid => exact onDev_wf h (.of_mem fun _ _ => eccReported_mem) ht
  | patrolScrub dev line found => exact onDev_wf h (.of_mem fun _ _ => scrub_mem) ht
  | fatalError dev => exact onDev_wf h (.of_mem fun _ _ => fatalStops_mem) ht
  | preset dev pid => exact onPart_wf h (fun _ _ hs => resetsPart_wf hs) ht
  | nbvset dev pid v => exact onPart_wf h (.of_mem fun _ _ => setsNbv_mem) ht
  | partitionSwapOut dev pid => exact onPart_wf h (.of_mem fun _ _ => swapOut_mem) ht
  | partitionSwapIn dev pid => exact onPart_wf h (fun _ _ hs => swapIn_wf hs) ht
  | swapHaltTimeout dev pid => exact onPart_wf h (.of_mem fun _ _ => haltTimesOut_mem) ht
  | checkpoint dev target => exact onDev_wf h (.of_mem fun _ _ => checkpoints_mem) ht
  | restore dev source => exact onDev_wf h (fun _ _ hs => restores_wf hs) ht
  | checkpointTargetRegistration dev target capacity rate => exact onDev_wf h (.of_mem fun _ _ => registers_mem) ht
  | contentRegionEnable dev pid region on => exact onPart_wf h (.of_mem fun _ _ => enableRegion_mem) ht
  | prefixTableEnable dev pid table on => exact onPart_wf h (.of_mem fun _ _ => enableTable_mem) ht
  | registerWrite dev pid off v => exact onPart_wf h (fun _ _ hs => registerWritten_wf hs) ht
  | bar2Access dev pid off size wr => exact onPart_wf h (fun _ _ hs => windowAccess_wf hs) ht
  | measuredBoot dev => exact onDev_wf h (.of_mem fun _ _ => boots_mem) ht
  | configurationRequest dev target => exact onDev_wf h (.of_mem fun _ _ => configures_mem) ht
  | powerControlInterval dev watts die hbm => exact onDev_wf h (.of_mem fun _ _ => powerInterval_mem) ht
  | getVersion dev pid => exact onDev_wf h (.of_mem fun _ _ => versionAsked_mem) ht
  | getCapabilities dev pid => exact onDev_wf h (.of_mem fun _ _ => capabilitiesAsked_mem) ht
  | negotiateAlgorithms dev pid hashes asyms => exact onDev_wf h (.of_mem fun _ _ => algorithmsAsked_mem) ht
  | getDigests dev pid => exact onDev_wf h (.of_mem fun _ _ => digestsAsked_mem) ht
  | getCertificate dev pid slot off len => exact onDev_wf h (.of_mem fun _ _ => certificateAsked_mem) ht
  | challenge dev pid slot nonce => exact onDev_wf h (.of_mem fun _ _ => challenged_mem) ht
  | getMeasurements dev pid index signed nonce => exact onDev_wf h (.of_mem fun _ _ => measurementsAsked_mem) ht
  | vendorDefinedRequest dev pid vendor code => exact onDev_wf h (.of_mem fun _ _ => vendorAsked_mem) ht
  | interlockedResultArrival t => exact onThread_wf h (.of_mem fun _ _ => replyArrives_mem) ht
  | storeAcknowledgement t serial => exact onThread_wf h (.of_mem fun _ _ => storeAcked_mem) ht
  | partitionSaveComplete dev pid => exact onPart_wf h (.of_mem fun _ _ => saveCompletes_mem) ht
  | checkpointComplete dev => exact onDev_wf h (.of_mem fun _ _ => checkpointEnds_mem) ht
  | checkpointTargetLost dev => exact onDev_wf h (.of_mem fun _ _ => targetLost_mem) ht
  | powerLoss dev => exact onDev_wf h (fun _ _ hs => losePower_wf hs) ht
  | routeTableWrite dev dst entry => exact onDev_wf h (.of_mem fun _ _ => writeRoute_mem) ht
  | prepareRefusal lid seq num dev => exact getD_next_wf h (.of_mem fun _ _ => prepareRefused_mem) ht
  | fabricLinksTrained dev => exact onDev_wf h (.of_mem fun _ _ => linksTrained_mem) ht
  | uncorrectableErrorConsumed gid job u =>
    cases job with
    | none => exact onGroup_wf h (fun _ _ hs => nodeConsumes_wf hs) ht
    | some j => cases ht; exact jobConsumes_wf h
  | faultServe dev pid page =>
    exact onPart_wf (f := fun s => some (s.reply_ page false)) h (.of_mem fun s t hf => by cases hf; exact reply__mem ..) ht
  | faultDecline dev pid page =>
    exact onPart_wf (f := fun s => some (s.reply_ page true)) h (.of_mem fun s t hf => by cases hf; exact reply__mem ..) ht
  | stackGrowth t frames =>
    cases frames with
    | nil => cases ht; exact h
    | cons frame tables => exact onThread_wf h (fun _ _ hs => growStack_wf hs) ht
  | atsTranslationCompletion dev pid iova host =>
    exact onPart_wf (f := fun s => some (s.atsReturns iova host)) h (.of_mem fun s t hf => by cases hf; exact atsReturns_mem ..) ht
  | queueEntryAccept dev pid q =>
    cases q with
    | host q => exact onPart_wf h (fun _ _ hs => acceptEntry_wf hs) ht
    | own record arg => exact onPart_wf h (.of_mem fun _ _ => acceptOwn_mem) ht
  | snapshotTransferComplete seq part =>
    cases part with
    | block num blk => exact onSeq_wf h (fun _ => (fun _ _ hs => snapshotDone_wf hs)) ht
    | rest num => exact onSeq_wf h (fun _ => (fun _ _ hs => snapshotDone_wf hs)) ht
  | fredContribution serial err =>
    change execFredContribution serial err s = _ at ht
    unfold execFredContribution at ht
    split at ht
    · cases ht; exact h
    · exact onDev_wf h (fun _ _ hs => fredArrives_wf hs) ht
  | censusStart census core =>
    change execCensusStart census core s = _ at ht
    unfold execCensusStart at ht
    split at ht
    · cases ht; exact h
    · exact onCore_wf h (fun _ _ hs => censusStarts_wf (by simpa using hs)) ht
  | censusComplete census =>
    change execCensusComplete census s = _ at ht
    unfold execCensusComplete at ht
    split at ht
    · cases ht; exact h
    · exact onDev_wf h (fun _ _ hs => censusEnds_wf hs) ht
  | partitionStateError dev pid => exact onPart_wf (f := fun s => some s.breakPart) h (.of_mem fun s t hf => by cases hf; exact breakPart_mem ..) ht

theorem fetch_wf {s : State} (h : Memory.wf s.mem = true) :
    (∀ i t, s.fetch = .instr i t → Memory.wf t.mem = true) ∧ ∀ t, s.fetch = .stopped t → Memory.wf t.mem = true := by
  have ht : ∀ x, Memory.wf (s.touch s.thr.pc.toNat false x).mem = true := fun x => touch_wf h
  constructor
  · intro i t hi
    unfold State.fetch at hi
    dsimp only at hi
    grind
  · intro t hi
    unfold State.fetch at hi
    dsimp only at hi
    split at hi
    · cases hi; exact stop_wf h
    · split at hi
      · cases hi; exact deliverTrap_wf (ht _)
      · split at hi
        · cases hi; exact consume_wf (ht _)
        · split at hi
          · cases hi; exact deliverTrap_wf (ht _)
          · split at hi
            · cases hi
            · split at hi <;> cases hi <;> exact deliverTrap_wf (ht _)

/-- Settles O59: every instruction, every event and every trap of the fetch keeps the memory canonical, and so does a step. -/
theorem stepKeepsMemoryCanonical : Obligations.StepKeepsMemoryCanonical := by
  unfold Obligations.StepKeepsMemoryCanonical
  intro s t h ht
  have h : Memory.wf s.mem = true := h
  show Memory.wf t.mem = true
  unfold step at ht
  split at ht
  · split at ht
    · cases ht; exact h
    · exact exec_wf (by exact h) ht
  · split at ht
    · cases ht; exact cycle_wf h
    · split at ht
      · cases ht; exact h
      · next s1 hissue =>
        have h1 : Memory.wf s1.mem = true := by rwa [atIssue_mem hissue]
        split at ht
        · next hf => exact exec_wf ((fetch_wf h1).1 _ _ hf) ht
        · next hf => cases ht; exact (fetch_wf h1).2 _ hf

end Sys2Proof.Claims
end

section
/-!
PROOFS. Logic, moves, shifts and rotates (R70, R74): each result on numbers as a bit vector.
-/
namespace Sys2Proof.Claims
open Machine Bits Encoding

/-! ## Operands of a logic operation -/

/-- A logic operation has the registers and the width of its type. -/
theorem logN_eq (e : Enc) : logN e = tw (opT e) := by unfold logN opT; split <;> rfl
theorem logW_eq (e : Enc) : logW e = opW e := by unfold logW opW opT; split <;> rfl

theorem logW_pos (e : Enc) : 0 < logW e := by rw [logW_eq]; exact opW_pos e
theorem logA_lt (e : Enc) (s : State) : s.opA e (logN e) < 2 ^ logW e := by rw [logN_eq, logW_eq]; exact opA_lt s e
theorem logB_lt (e : Enc) (s : State) : s.opB e (logN e) < 2 ^ logW e := by rw [logN_eq, logW_eq]; exact opB_lt s e

theorem bv_toNat {w v : Nat} (h : v < 2 ^ w) : (bv w v).toNat = v := by rw [bv, BitVec.toNat_ofNat, Nat.mod_eq_of_lt h]

section
variable {w a b : Nat} (hw : 0 < w) (ha : a < 2 ^ w) (hb : b < 2 ^ w)

/-! ## Shifts and rotates (R74) -/

include ha in
theorem shlVal_eq (n : Nat) : shlVal w a n = (bv w a <<< n).toNat := by
  rw [BitVec.toNat_shiftLeft, bv_toNat ha, Nat.shiftLeft_eq, shlVal]
  split
  · next h =>
    obtain ⟨k, rfl⟩ := Nat.exists_eq_add_of_le h
    rw [pow_add, ← mul_assoc, mul_comm a, mul_assoc, Nat.mul_mod_right]
  · rfl

include ha in
theorem shrVal_eq (n : Nat) : shrVal w a n = (bv w a >>> n).toNat := by
  rw [BitVec.toNat_ushiftRight, bv_toNat ha, Nat.shiftRight_eq_div_pow, shrVal]
  split
  · next h => rw [Nat.div_eq_of_lt (lt_of_lt_of_le ha (Nat.pow_le_pow_right (by decide) h))]
  · rfl

/-- A number of `w` signed bits shifted right by `w - 1` or more is its sign throughout. -/
theorem div_pow_min {w : Nat} {x : Int} (hlo : -2 ^ (w - 1) ≤ x) (hhi : x < 2 ^ (w - 1)) (n : Nat) :
    x / 2 ^ min n (w - 1) = x / 2 ^ n := by
  by_cases h : n ≤ w - 1
  · rw [min_eq_left h]
  · have hpow : (2 : Int) ^ (w - 1) ≤ 2 ^ n := pow_le_pow_right₀ (by decide) (by omega)
    have hpos : (0 : Int) < 2 ^ (w - 1) := by positivity
    rw [min_eq_right (by omega)]
    obtain hx | hx := lt_or_ge x 0
    · rw [Int.ediv_eq_neg_one_of_neg_of_le hx (by omega), Int.ediv_eq_neg_one_of_neg_of_le hx (by omega)]
    · rw [Int.ediv_eq_zero_of_lt hx hhi, Int.ediv_eq_zero_of_lt hx (by omega)]

include hw in
theorem sarVal_eq (n : Nat) : sarVal w a n = ((bv w a).sshiftRight n).toNat := by
  have hlo : -2 ^ (w - 1) ≤ (bv w a).toInt := BitVec.le_toInt _
  have hhi : (bv w a).toInt < 2 ^ (w - 1) := BitVec.toInt_lt
  rw [sarVal, sint_eq_toInt hw, div_pow_min hlo hhi, wrapInt_eq_toNat, BitVec.sshiftRight, Int.shiftRight_eq_div_pow]
  push_cast
  rfl

include ha in
/-- The bits that a rotate by `k` shifts out at the top come in below those that it shifts up. -/
theorem rotate_parts {k : Nat} (hk : k ≤ w) : a * 2 ^ k % 2 ^ w + a / 2 ^ (w - k) = a <<< k % 2 ^ w ||| a >>> (w - k) := by
  have hpow : 2 ^ w = 2 ^ k * 2 ^ (w - k) := by rw [← pow_add]; congr 1; omega
  have hlow : a / 2 ^ (w - k) < 2 ^ k := Nat.div_lt_of_lt_mul (by rwa [mul_comm, ← hpow])
  have hhigh : a * 2 ^ k % 2 ^ w = (a % 2 ^ (w - k)) <<< k := by rw [hpow, mul_comm a, Nat.mul_mod_mul_left, Nat.shiftLeft_eq, mul_comm]
  rw [Nat.shiftLeft_eq a, Nat.shiftRight_eq_div_pow, hhigh, Nat.shiftLeft_add_eq_or_of_lt hlow]

include hw ha in
theorem rotlVal_eq (n : Nat) : rotlVal w a n = ((bv w a).rotateLeft n).toNat := by
  rw [BitVec.toNat_rotateLeft, bv_toNat ha, rotlVal, rotate_parts ha (Nat.mod_lt n hw).le]

include hw ha in
theorem rotrVal_eq (n : Nat) : rotlVal w a (w - n % w) = ((bv w a).rotateRight n).toNat := by
  have hn := Nat.mod_lt n hw
  rw [BitVec.toNat_rotateRight, bv_toNat ha, rotlVal, rotate_parts ha (Nat.mod_lt _ hw).le, Nat.or_comm]
  obtain h0 | h0 := Nat.eq_zero_or_pos (n % w)
  · rw [h0, Nat.sub_zero, Nat.mod_self, Nat.sub_zero, Nat.shiftLeft_eq a w, Nat.mul_mod_left, Nat.shiftRight_eq_div_pow, Nat.div_eq_of_lt ha]
    simp [Nat.mod_eq_of_lt ha]
  · rw [Nat.mod_eq_of_lt (show w - n % w < w by omega), show w - (w - n % w) = n % w by omega]

/-! ## Logic (R74) -/

include ha hb in
theorem and_eq : a &&& b = (bv w a &&& bv w b).toNat := by rw [BitVec.toNat_and, bv_toNat ha, bv_toNat hb]

include ha hb in
theorem or_eq : a ||| b = (bv w a ||| bv w b).toNat := by rw [BitVec.toNat_or, bv_toNat ha, bv_toNat hb]

include ha hb in
theorem xor_eq : a ^^^ b = (bv w a ^^^ bv w b).toNat := by rw [BitVec.toNat_xor, bv_toNat ha, bv_toNat hb]

include ha hb in
theorem andn_eq : a &&& (2 ^ w - 1 - b) = (bv w a &&& ~~~bv w b).toNat := by
  rw [BitVec.toNat_and, BitVec.toNat_not, bv_toNat ha, bv_toNat hb]

end

theorem bool3Val_lt (m a b c w : Nat) : bool3Val m a b c w < 2 ^ w := by
  induction w with
  | zero => exact Nat.one_pos
  | succ w ih =>
    have hbit : ∀ x, ofBool x ≤ 1 := by decide
    have := Nat.mul_le_mul_left (2 ^ w) (hbit (bit m (4 * ofBool (bit a w) + 2 * ofBool (bit b w) + ofBool (bit c w))))
    rw [bool3Val, pow_succ]; omega

/-- Each bit of `bool3` is the table's bit for the three source bits. -/
theorem bool3Val_testBit (m a b c w : Nat) {i : Nat} (hi : i < w) :
    (bool3Val m a b c w).testBit i = m.testBit (4 * (a.testBit i).toNat + 2 * (b.testBit i).toNat + (c.testBit i).toNat) := by
  have hbool : ∀ x, ofBool x = x.toNat := by decide
  induction w with
  | zero => omega
  | succ w ih =>
    rw [bool3Val, Nat.add_comm, Nat.testBit_two_pow_mul_add _ (bool3Val_lt m a b c w)]
    split
    · next h => exact ih h
    · obtain rfl : i = w := by omega
      simp only [bit, hbool, Nat.sub_self]
      cases m.testBit _ <;> rfl

/-! ## Effects -/

section
variable {i : Instr} {e : Enc} {s : State}

theorem ccLogic_eq {w : Nat} (hw : 0 < w) (x : BitVec w) : ccLogic w x.toNat = ccFrom false false x := ccFrom_toNat hw rfl false false

/-- A logic operation's result, with its condition codes where they are asked for: C and V are 0 (R70). -/
theorem does_logic {body : Body} {n : Nat} {v : State → BitVec (logW e)} (hi : exec i s = s.issue false body e)
    (hb : ∀ b, body e b = .ok ((b.withCC e (ccLogic (logW e) (v b).toNat)).putD e n (v b).toNat)) :
    Does i e s (fun b t => Alu e n (v b).toNat (ccOf e (ccFrom false false (v b)) b) b.thr.fp b.thr.sli b t) :=
  does_ok i hi _ (hb _) (fun hs hq => by rw [← ccLogic_eq (logW_pos e)]; exact alu_put e s _ _ _ _ _ _ hs hq (withCC_eq ..))

/-- The whole effect of the two-source logic operation that is `g` on bit vectors. -/
def LogicOf (g : (w : Nat) → BitVec w → BitVec w → BitVec w) (e : Enc) (s t : State) : Prop :=
  let w := logW e
  let r := g w (bv w (s.opA e (logN e))) (bv w (s.opB e (logN e)))
  Alu e (logN e) r.toNat (ccOf e (ccFrom false false r) s) s.thr.fp s.thr.sli s t

/-- The whole effect of the shift or rotate that is `g` on bit vectors. -/
def ShiftOf (g : (w : Nat) → BitVec w → Nat → BitVec w) (e : Enc) (s t : State) : Prop :=
  Gives e (logN e) (g (logW e) (bv (logW e) (s.opA e (logN e))) (s.amount e)).toNat s t

theorem does_log2 {f : Nat → Nat → Nat → Nat} {g : (w : Nat) → BitVec w → BitVec w → BitVec w} (hi : exec i s = s.issue false (bodyLog2 f) e)
    (hfg : ∀ {w a b}, a < 2 ^ w → b < 2 ^ w → f w a b = (g w (bv w a) (bv w b)).toNat) :
    Does i e s (LogicOf g e) :=
  does_logic hi (fun b => by rw [bodyLog2, hfg (logA_lt e b) (logB_lt e b)])

theorem does_and (hi : exec i s = s.issue false bodyAnd e) : Does i e s (LogicOf (fun _ a b => a &&& b) e) := does_log2 hi and_eq
theorem does_or (hi : exec i s = s.issue false bodyOr e) : Does i e s (LogicOf (fun _ a b => a ||| b) e) := does_log2 hi or_eq
theorem does_xor (hi : exec i s = s.issue false bodyXor e) : Does i e s (LogicOf (fun _ a b => a ^^^ b) e) := does_log2 hi xor_eq
theorem does_andn (hi : exec i s = s.issue false bodyAndn e) : Does i e s (LogicOf (fun _ a b => a &&& ~~~b) e) := does_log2 hi andn_eq

theorem does_shift {f : Nat → Nat → Nat → Nat} {g : (w : Nat) → BitVec w → Nat → BitVec w} (hi : exec i s = s.issue false (bodyShift f) e)
    (hfg : ∀ {w a}, 0 < w → a < 2 ^ w → ∀ n, f w a n = (g w (bv w a) n).toNat) :
    Does i e s (ShiftOf g e) :=
  does_gives hi (fun b => by rw [bodyShift, hfg (logW_pos e) (logA_lt e b)])

theorem does_shl (hi : exec i s = s.issue false bodyShl e) : Does i e s (ShiftOf (fun _ a n => a <<< n) e) := does_shift hi (fun _ => shlVal_eq)
theorem does_shr (hi : exec i s = s.issue false bodyShr e) : Does i e s (ShiftOf (fun _ a n => a >>> n) e) := does_shift hi (fun _ => shrVal_eq)
theorem does_sar (hi : exec i s = s.issue false bodySar e) : Does i e s (ShiftOf (fun _ a n => a.sshiftRight n) e) :=
  does_shift hi (fun hw _ => sarVal_eq hw)
theorem does_rotl (hi : exec i s = s.issue false bodyRotl e) : Does i e s (ShiftOf (fun _ a n => a.rotateLeft n) e) := does_shift hi rotlVal_eq
theorem does_rotr (hi : exec i s = s.issue false bodyRotr e) : Does i e s (ShiftOf (fun _ a n => a.rotateRight n) e) := does_shift hi rotrVal_eq

theorem does_bool3 (hi : exec i s = s.issue false bodyBool3 e) :
    Does i e s (fun s t =>
      let v := fun (f : State → Enc → Nat → Nat) (i : Nat) => (bv (logW e) (f s e (logN e))).getLsbD i
      ∃ r : BitVec (logW e), Alu e (logN e) r.toNat (ccOf e (ccFrom false false r) s) s.thr.fp s.thr.sli s t
        ∧ ∀ i < logW e, r.getLsbD i = e.m.getLsbD (4 * (v State.opA i).toNat + 2 * (v State.opB i).toNat + (v State.opC i).toNat)) := by
  refine (does_logic (v := fun b => bv (logW e) (bool3Val e.m.toNat (b.opA e (logN e)) (b.opB e (logN e)) (b.opC e (logN e)) (logW e))) hi
    (fun b => by rw [bv_toNat (bool3Val_lt ..)]; rfl)).imp (fun b t h => ⟨_, h, fun i hi => ?_⟩)
  dsimp only
  rw [bv_getLsbD hi, bool3Val_testBit _ _ _ _ _ hi, bv_getLsbD hi, bv_getLsbD hi, bv_getLsbD hi, BitVec.testBit_toNat]

theorem does_mov (hi : exec i s = s.issue false bodyMov e) : Does i e s (fun s t => Gives e (logN e) (s.op1 e (logN e)) s t) :=
  does_gives hi (fun _ => rfl)

end

theorem LX.logN_enc (x : LX) (op : BitVec 8) : logN (x.enc op) = tw x.t := by rw [logN_eq, LX.enc_opT]

/-- Settles O2: the operations on numbers are those of bit vectors. -/
theorem logicMovesAndShifts : Obligations.LogicMovesAndShifts := by
  unfold Obligations.LogicMovesAndShifts
  refine ⟨fun x y s => ⟨does_and rfl, does_and rfl, does_or rfl, does_or rfl, does_xor rfl, does_xor rfl, does_andn rfl, ?bool3, does_mov rfl, ?mov⟩,
    fun x y s => ?shifts⟩
  case bool3 =>
    have h := does_bool3 (i := .bool3 x) (e := x.enc 0x24) (s := s) rfl
    rw [LX.logN_enc, LX.enc_m] at h
    exact h
  case mov => rw [← LX.logN_enc x 0x2F]; exact does_mov rfl
  case shifts =>
    exact ⟨does_shl rfl, does_shl rfl, does_shr rfl, does_shr rfl, does_sar rfl, does_sar rfl, does_rotl rfl, does_rotr rfl⟩

end Sys2Proof.Claims
end

section
/-!
PROOFS. Funnel shift, bit fields, carry-less product and address arithmetic (R74): each bit of their results.
-/
namespace Sys2Proof.Claims
open Machine Bits Encoding

/-! ## Operands of one register -/

theorem readN1_lt (s : State) (c : BitVec 8) : s.readN c 1 < 2 ^ 32 := readN_lt s c 1
theorem opA1_lt (s : State) (e : Enc) : s.opA e 1 < 2 ^ 32 := readN1_lt ..
theorem opC1_lt (s : State) (e : Enc) : s.opC e 1 < 2 ^ 32 := readN1_lt ..

theorem litVal_one (e : Enc) : litVal e 1 = e.lit.toNat := by simp [litVal]

theorem opB1_lt (s : State) (e : Enc) : s.opB e 1 < 2 ^ 32 := by
  unfold State.opB; split
  · rw [litVal_one]; exact e.lit.isLt
  · exact readN1_lt ..

theorem amount_lt (s : State) (e : Enc) : s.amount e < 2 ^ 32 := by
  unfold State.amount
  split
  · have := e.b.isLt; omega
  · split
    · exact e.lit.isLt
    · exact opB1_lt s e

/-! ## Funnel shift -/

theorem funnel_eq {a b : Nat} (ha : a < 2 ^ 32) (hb : b < 2 ^ 32) (n : Nat) :
    (a * 2 ^ 32 + b) / 2 ^ n % 2 ^ 32 = (((bv 32 a ++ bv 32 b) >>> n).setWidth 32).toNat := by
  rw [BitVec.toNat_setWidth, BitVec.toNat_ushiftRight, BitVec.toNat_append, bv_toNat ha, bv_toNat hb, ← Nat.shiftLeft_add_eq_or_of_lt hb,
    Nat.shiftLeft_eq, Nat.shiftRight_eq_div_pow]

/-! ## Bit fields -/

/-- Length of the field that a specification asks for. -/
def fieldLen (b : Nat) : Nat := min (b / 256 % 64) (32 - b % 32)

theorem fieldSpec_eq (b : Nat) : fieldSpec b = (b % 32, fieldLen b) := by
  simp [fieldSpec, field, fieldLen, Nat.shiftRight_eq_div_pow]

theorem fieldLen_le (b : Nat) : b % 32 + fieldLen b ≤ 32 := by unfold fieldLen; omega

theorem bit_of_lt {a i : Nat} (hi : 32 ≤ i) (ha : a < 2 ^ 32) : a.testBit i = false :=
  Nat.testBit_lt_two_pow (lt_of_lt_of_le ha (Nat.pow_le_pow_right (by decide) hi))

theorem bv32_getLsbD {a : Nat} (ha : a < 2 ^ 32) (i : Nat) : (bv 32 a).getLsbD i = a.testBit i := by
  by_cases hi : i < 32
  · exact bv_getLsbD hi a
  · rw [BitVec.getLsbD_of_ge _ _ (by omega), bit_of_lt (by omega) ha]

/-- A field of `n` bits, extended to a register: by its sign bit for a signed type, else by zeros. -/
def extended (signed : Prop) [Decidable signed] (n f : Nat) : Word := if signed ∧ 0 < n then (bv n f).signExtend 32 else bv 32 f

theorem extended_toNat (signed : Prop) [Decidable signed] {n f : Nat} (hn : n ≤ 32) (hf : f < 2 ^ n) :
    (if signed ∧ 0 < n then wrapInt 32 (sint n f) else f) = (extended signed n f).toNat := by
  unfold extended
  split
  · next h => rw [sint_eq_toInt h.2, wrapInt_eq_toNat, BitVec.signExtend]
  · rw [bv_toNat (lt_of_lt_of_le hf (Nat.pow_le_pow_right (by decide) hn))]

theorem extended_getLsbD (signed : Prop) [Decidable signed] {a pos n i : Nat} (ha : a < 2 ^ 32) (hi : i < 32) :
    (extended signed n (a / 2 ^ pos % 2 ^ n)).getLsbD i
      = if i < n then (bv 32 a).getLsbD (pos + i) else decide (signed ∧ 0 < n) && (bv 32 a).getLsbD (pos + n - 1) := by
  have hbit : ∀ j, (a / 2 ^ pos % 2 ^ n).testBit j = (decide (j < n) && a.testBit (pos + j)) := fun j => by
    rw [Nat.testBit_mod_two_pow, Nat.testBit_div_two_pow, Nat.add_comm]
  simp only [bv32_getLsbD ha]
  unfold extended
  split
  · next h =>
    rw [BitVec.getLsbD_signExtend, BitVec.msb_eq_getLsbD_last]
    split
    · next hin => rw [bv_getLsbD hin, hbit]; simp [hi, hin]
    · rw [bv_getLsbD (by omega), hbit, show pos + (n - 1) = pos + n - 1 by omega]; simp [hi, h]
  · next h =>
    rw [bv_getLsbD hi, hbit]
    split
    · next hin => simp [hin]
    · next hin => simp [hin, h]

/-- Inserting a field replaces its bits alone. -/
theorem insert_testBit {a c pos n i : Nat} (hfit : pos + n ≤ 32) (hi : i < 32) :
    ((c &&& (2 ^ 32 - 1 - (2 ^ n - 1) * 2 ^ pos)) ||| (a * 2 ^ pos &&& (2 ^ n - 1) * 2 ^ pos)).testBit i
      = if pos ≤ i ∧ i < pos + n then a.testBit (i - pos) else c.testBit i := by
  have hmask : ((2 ^ n - 1) * 2 ^ pos).testBit i = decide (pos ≤ i ∧ i < pos + n) := by
    rw [Nat.testBit_mul_two_pow, Nat.testBit_two_pow_sub_one, Bool.eq_iff_iff]; simp; omega
  have hlt : (2 ^ n - 1) * 2 ^ pos < 2 ^ 32 :=
    calc (2 ^ n - 1) * 2 ^ pos < 2 ^ n * 2 ^ pos := Nat.mul_lt_mul_of_pos_right (by have := Nat.two_pow_pos n; omega) (Nat.two_pow_pos pos)
      _ = 2 ^ (pos + n) := by rw [← pow_add, Nat.add_comm]
      _ ≤ 2 ^ 32 := Nat.pow_le_pow_right (by decide) hfit
  have hnot : (2 ^ 32 - 1 - (2 ^ n - 1) * 2 ^ pos).testBit i = !decide (pos ≤ i ∧ i < pos + n) := by
    rw [show 2 ^ 32 - 1 - (2 ^ n - 1) * 2 ^ pos = 2 ^ 32 - ((2 ^ n - 1) * 2 ^ pos + 1) by omega, Nat.testBit_two_pow_sub_succ hlt, hmask]
    simp [hi]
  rw [Nat.testBit_or, Nat.testBit_and, Nat.testBit_and, hmask, hnot, Nat.testBit_mul_two_pow]
  by_cases h : pos ≤ i ∧ i < pos + n
  · simp [h]
  · simp [h]

/-- It fits in a register. -/
theorem insert_lt {a c pos n : Nat} (hfit : pos + n ≤ 32) :
    (c &&& (2 ^ 32 - 1 - (2 ^ n - 1) * 2 ^ pos)) ||| (a * 2 ^ pos &&& (2 ^ n - 1) * 2 ^ pos) < 2 ^ 32 := by
  have hlt : (2 ^ n - 1) * 2 ^ pos < 2 ^ 32 :=
    calc (2 ^ n - 1) * 2 ^ pos < 2 ^ n * 2 ^ pos := Nat.mul_lt_mul_of_pos_right (by have := Nat.two_pow_pos n; omega) (Nat.two_pow_pos pos)
      _ = 2 ^ (pos + n) := by rw [← pow_add, Nat.add_comm]
      _ ≤ 2 ^ 32 := Nat.pow_le_pow_right (by decide) hfit
  exact Nat.or_lt_two_pow (Nat.and_lt_two_pow _ (by omega)) (Nat.and_lt_two_pow _ hlt)

/-! ## Carry-less product -/

/-- The sum modulo 2 of the first `n` values. -/
def xorTo (f : Nat → Bool) : Nat → Bool
  | 0 => false
  | n + 1 => xorTo f n != f n

theorem xorTo_eq_foldl (f : Nat → Bool) (n : Nat) : xorTo f n = (List.range n).foldl (fun acc j => acc != f j) false := by
  induction n with
  | zero => rfl
  | succ n ih => rw [List.range_succ, List.foldl_append, ← ih]; rfl

theorem xorTo_congr {f g : Nat → Bool} {n : Nat} (h : ∀ j < n, f j = g j) : xorTo f n = xorTo g n := by
  induction n with
  | zero => rfl
  | succ n ih => rw [xorTo, xorTo, ih (fun j hj => h j (by omega)), h n (by omega)]

/-- Values that are all false add nothing. -/
theorem xorTo_add {f : Nat → Bool} {n : Nat} (m : Nat) (h : ∀ j, n ≤ j → f j = false) : xorTo f (n + m) = xorTo f n := by
  induction m with
  | zero => rfl
  | succ m ih => rw [Nat.add_succ, xorTo, ih, h (n + m) (by omega), Bool.bne_false]

theorem xorTo_succ' (f : Nat → Bool) (n : Nat) : xorTo f (n + 1) = (f 0 != xorTo (fun j => f (j + 1)) n) := by
  induction n with
  | zero => simp [xorTo]
  | succ n ih => rw [xorTo, ih, xorTo, Bool.bne_assoc]

/-- Bit `t` of the carry-less product of `x` and the low `w` bits of `y`. -/
theorem clmul_testBit (w x y t : Nat) :
    (clmul w x y).testBit t = xorTo (fun j => x.testBit j && (decide (t - j < w) && y.testBit (t - j))) (t + 1) := by
  induction w generalizing x y with
  | zero =>
    have hz : ∀ n, xorTo (fun j => x.testBit j && (decide (t - j < 0) && y.testBit (t - j))) n = false := fun n => by
      rw [← Nat.zero_add n, xorTo_add n (fun j _ => by simp)]; rfl
    rw [clmul, Nat.zero_testBit, hz]
  | succ w ih =>
    have hlow : (if y % 2 = 1 then x else 0).testBit t = (x.testBit t && y.testBit 0) := by
      rw [Nat.testBit_zero]; split <;> simp [*]
    have hdouble : ∀ j, (2 * x).testBit (j + 1) = x.testBit j := fun j => by rw [Nat.testBit_succ, Nat.mul_div_cancel_left x (by decide)]
    have heven : (2 * x).testBit 0 = false := by simp [Nat.testBit_zero]
    rw [clmul, Nat.testBit_xor, ih, hlow, xorTo_succ', heven, xorTo, Nat.sub_self]
    rw [xorTo_congr (g := fun j => x.testBit j && (decide (t - j < w + 1) && y.testBit (t - j)))]
    · generalize xorTo _ t = r
      cases x.testBit t <;> cases y.testBit 0 <;> cases r <;> simp
    · intro j hj
      rw [hdouble, ← Nat.testBit_succ, show (t - (j + 1)).succ = t - j by omega]
      congr 2; rw [Bool.eq_iff_iff]; simp; omega

theorem clmul_lt {k : Nat} (w : Nat) {x : Nat} (y : Nat) (hx : x < 2 ^ k) : clmul w x y < 2 ^ (k + w) := by
  induction w generalizing k x y with
  | zero => exact Nat.two_pow_pos _
  | succ w ih =>
    have h2 : 2 * x < 2 ^ (k + 1) := by rw [pow_succ]; omega
    have hrest := ih (y / 2) h2
    rw [show k + 1 + w = k + (w + 1) by omega] at hrest
    refine Nat.xor_lt_two_pow ?_ hrest
    have hle : 2 ^ k ≤ 2 ^ (k + (w + 1)) := Nat.pow_le_pow_right (by decide) (by omega)
    split <;> omega

/-- Each bit of the product of two words: the sum modulo 2 of the products of bits that meet there. -/
theorem clmul_bits {a b : Nat} (ha : a < 2 ^ 32) (hb : b < 2 ^ 32) (t : Nat) :
    (clmul 32 b a).testBit t
      = (List.range 32).foldl (fun acc j => acc != ((bv 32 b).getLsbD j && decide (j ≤ t) && (bv 32 a).getLsbD (t - j))) false := by
  simp only [bv32_getLsbD ha, bv32_getLsbD hb]
  rw [← xorTo_eq_foldl (fun j => b.testBit j && decide (j ≤ t) && a.testBit (t - j)), clmul_testBit]
  have hterm : ∀ j < t + 1, (b.testBit j && (decide (t - j < 32) && a.testBit (t - j))) = (b.testBit j && decide (j ≤ t) && a.testBit (t - j)) := by
    intro j hj
    have hle : j ≤ t := by omega
    by_cases h : t - j < 32
    · simp [h, hle]
    · simp [h, bit_of_lt (show 32 ≤ t - j by omega) ha]
  rw [xorTo_congr hterm]
  have hhigh : ∀ j, 32 ≤ j → (b.testBit j && decide (j ≤ t) && a.testBit (t - j)) = false := fun j hj => by simp [bit_of_lt hj hb]
  have hpast : ∀ j, t + 1 ≤ j → (b.testBit j && decide (j ≤ t) && a.testBit (t - j)) = false := fun j hj => by simp; omega
  rw [← xorTo_add 32 hpast, ← xorTo_add (t + 1) hhigh, Nat.add_comm]

/-! ## Address arithmetic -/

/-- A base plus a scaled index, as bit vectors. -/
theorem lea_eq (w a m : Nat) (x : Int) {y : BitVec w} (hy : BitVec.ofInt w x = y) : wrapInt w ((a : Int) + x * 2 ^ m) = (bv w a + y <<< m).toNat := by
  rw [wrapInt_eq_toNat, BitVec.ofInt_add, BitVec.ofInt_natCast, BitVec.ofInt_mul, hy, BitVec.shiftLeft_eq_mul_twoPow]
  congr 3
  rw [show (2 : Int) ^ m = ((2 ^ m : Nat) : Int) by push_cast; rfl, BitVec.ofInt_natCast]
  apply BitVec.eq_of_toNat_eq; rw [BitVec.toNat_twoPow, BitVec.toNat_ofNat]

/-! ## Effects -/

section
variable {i : Instr} {e : Enc} {s : State}

theorem does_fsh (hi : exec i s = s.issue false bodyFsh e) :
    Does i e s (fun s t => Gives e 1 (((bv 32 (s.opA e 1) ++ bv 32 (s.opB e 1)) >>> (s.opC e 1 % 32)).setWidth 32).toNat s t) :=
  does_gives hi (fun b => by rw [bodyFsh, funnel_eq (opA1_lt b e) (opB1_lt b e)])

theorem does_bfx (hi : exec i s = s.issue false bodyBfx e) :
    Does i e s (fun s t => ∃ r : Word, Gives e 1 r.toNat s t ∧
      ∀ i < 32, r.getLsbD i = if i < fieldLen (s.opB e 1) then (bv 32 (s.opA e 1)).getLsbD (s.opB e 1 % 32 + i)
        else decide (e.t = 1 ∧ 0 < fieldLen (s.opB e 1)) && (bv 32 (s.opA e 1)).getLsbD (s.opB e 1 % 32 + fieldLen (s.opB e 1) - 1)) := by
  refine (does_gives (n := 1)
    (v := fun b => (extended (e.t = 1) (fieldLen (b.opB e 1)) (b.opA e 1 / 2 ^ (b.opB e 1 % 32) % 2 ^ fieldLen (b.opB e 1))).toNat) hi (fun b => ?body)).imp
    (fun b t h => ⟨_, h, fun i hi => extended_getLsbD _ (opA1_lt b e) hi⟩)
  case body =>
    have hlen := fieldLen_le (b.opB e 1)
    rw [bodyBfx, fieldSpec_eq, ← extended_toNat _ (by omega) (Nat.mod_lt _ (Nat.two_pow_pos _))]

theorem does_bfi (hi : exec i s = s.issue false bodyBfi e) :
    Does i e s (fun s t => ∃ r : Word, Gives e 1 r.toNat s t ∧
      ∀ i < 32, r.getLsbD i = if s.opB e 1 % 32 ≤ i ∧ i < s.opB e 1 % 32 + fieldLen (s.opB e 1) then (bv 32 (s.opA e 1)).getLsbD (i - s.opB e 1 % 32)
        else (bv 32 (s.opC e 1)).getLsbD i) := by
  refine (does_gives hi (fun b => by rw [bodyBfi, fieldSpec_eq])).imp (fun b t h => ?_)
  have hlen := fieldLen_le (b.opB e 1)
  refine ⟨bv 32 _, (bv_toNat (insert_lt hlen)).symm ▸ h, fun i hi => ?_⟩
  rw [bv_getLsbD hi, insert_testBit hlen hi, bv32_getLsbD (opA1_lt b e), bv32_getLsbD (opC1_lt b e)]

theorem does_clmul (hi : exec i s = s.issue false bodyClmul e) :
    Does i e s (fun s t => ∃ r : Word, Gives e 1 r.toNat s t ∧
      let a := bv 32 (s.opA e 1)
      let b := bv 32 (s.opB e 1)
      let off := if e.m.getLsbD 0 then 32 else 0
      ∀ i < 32, r.getLsbD i = (List.range 32).foldl (fun acc j => acc != (b.getLsbD j && decide (j ≤ i + off) && a.getLsbD (i + off - j))) false) := by
  refine (does_gives hi (fun b => rfl)).imp (fun b t h => ?_)
  have hp : clmul 32 (b.opB e 1) (b.opA e 1) < 2 ^ 64 := clmul_lt 32 _ (opB1_lt b e)
  have hbit : bit e.m.toNat 0 = e.m.getLsbD 0 := rfl
  rw [hbit] at h
  have hlt : (if e.m.getLsbD 0 = true then clmul 32 (b.opB e 1) (b.opA e 1) / 2 ^ 32 else clmul 32 (b.opB e 1) (b.opA e 1) % 2 ^ 32) < 2 ^ 32 := by
    split <;> omega
  rw [← bv_toNat hlt] at h
  refine ⟨_, h, fun i hi => ?bits⟩
  case bits =>
    rw [bv_getLsbD hi]
    split
    · rw [Nat.testBit_div_two_pow]; exact clmul_bits (opA1_lt b e) (opB1_lt b e) _
    · rw [Nat.testBit_mod_two_pow]; simp only [hi, decide_true, Bool.true_and]; exact clmul_bits (opA1_lt b e) (opB1_lt b e) _

theorem does_lea (hi : exec i s = s.issue false bodyLea e) :
    Does i e s (fun s t => Gives e (tw e.t) (bv (opW e) (s.opA e (tw e.t))
      + ((if e.t = 3 then (bv 32 (s.amount e)).signExtend (opW e) else (bv 32 (s.amount e)).setWidth (opW e)) <<< e.m.toNat)).toNat s t) := by
  refine does_gives hi (fun b => ?_)
  have hx : BitVec.ofInt (opW e) (if e.t = 3 then sint 32 (b.amount e) else (b.amount e : Int))
      = if e.t = 3 then (bv 32 (b.amount e)).signExtend (opW e) else (bv 32 (b.amount e)).setWidth (opW e) := by
    split
    · rw [sint_eq_toInt (by decide), BitVec.signExtend]
    · rw [BitVec.ofInt_natCast]; apply BitVec.eq_of_toNat_eq; rw [BitVec.toNat_setWidth, bv_toNat (amount_lt b e), BitVec.toNat_ofNat]
  rw [bodyLea, ← lea_eq _ _ _ _ hx]

end

/-- Settles O3: bit by bit, the operations on numbers are those the statement gives. -/
theorem fieldsAndAddresses : Obligations.FieldsAndAddresses := by
  unfold Obligations.FieldsAndAddresses
  intro x s pos n
  refine ⟨does_fsh rfl, ?bfx, does_bfi rfl, ?clmul, ?lea⟩
  case bfx =>
    have h := does_bfx (i := .bfx x) (e := x.enc 0x2B) (s := s) rfl
    rw [LX.enc_t] at h; exact h
  case clmul =>
    have h := does_clmul (i := .clmul x) (e := x.enc 0x2D) (s := s) rfl
    rw [LX.enc_m] at h; exact h
  case lea =>
    have h := does_lea (i := .lea x) (e := x.enc 0x2E) (s := s) rfl
    rw [LX.enc_t, LX.enc_m] at h; exact h

end Sys2Proof.Claims
end

section
/-!
PROOFS. What a legal instruction has passed (R33, R34): each check of Table 2.10 by itself.
-/
namespace Sys2Proof.Claims
open Machine Bits Encoding

theorem firstSome_eq_none {α : Type} {l : List (Option α)} : firstSome l = none ↔ ∀ o ∈ l, o = none := by
  induction l with
  | nil => simp [firstSome]
  | cons o l ih => cases o <;> simp [firstSome, ih]

theorem flagIf_eq_none {α : Type} {bad : Bool} {a : α} : flagIf bad a = none ↔ bad = false := by cases bad <;> simp [flagIf]

theorem firstBad_eq_none {bad : Role → BitVec 8 → Bool} {l : List (Role × BitVec 8 × Nat)} : firstBad bad l = none ↔ ∀ x ∈ l, bad x.1 x.2.1 = false := by
  induction l with
  | nil => simp [firstBad]
  | cons x l ih =>
    obtain ⟨r, f, w⟩ := x
    cases h : bad r f <;> simp [firstBad, h, ih]

section
variable {e : Enc} {grant : Nat} {off priv : Bool} (h : illegal e grant off priv = none)
include h

/-- Every check passes, and the opcode has the form. -/
theorem illegal_checks : (∃ fs, forms e.op = some fs ∧ fs.contains e.form = true) ∧ firstBad zeroBad (zeroOperands e) = none ∧ tOk e = true ∧ mOk e = true
    ∧ entryBad e = none := by
  unfold illegal at h
  dsimp only at h
  split at h
  · cases h
  · next fs hfs =>
    split at h
    · cases h
    · next hform =>
      rw [firstSome_eq_none] at h
      simp only [List.mem_cons, List.not_mem_nil, or_false, forall_eq_or_imp, forall_eq, Option.map_eq_none_iff, flagIf_eq_none,
        Bool.not_eq_eq_eq_not, Bool.not_false] at h
      obtain ⟨-, hzero, -, ht, hm, -, -, -, -, -, -, -, -, -, -, hentry⟩ := h
      exact ⟨⟨fs, hfs, by simpa using hform⟩, hzero, ht, hm, hentry⟩

/-- A field that names a predicate is below 8. -/
theorem legal_pred {f : BitVec 8} {w : Nat} (hf : (Role.pred, f, w) ∈ zeroOperands e) : f.toNat < 8 := by
  have hz := firstBad_eq_none.1 (illegal_checks h).2.1 _ hf
  simpa [zeroBad] using hz

end

end Sys2Proof.Claims
end

section
/-!
PROOFS. Compares, predicates, selects and condition codes (R12, R75 to R78).
-/
namespace Sys2Proof.Claims
open Machine Bits Encoding

/-! ## Flags -/

/-- What a body leaves that writes predicates and flags alone. -/
theorem flags_put (e : Enc) (s : State) (q : BitVec 7) (cc : BitVec 4) (fp : BitVec 5) (sli : BitVec 7) (s1 : State)
    (hs : s.thr.status = .ready) (hq : Quiet s)
    (h1 : s1 = { atBody e s with thr := { (atBody e s).thr with q := q, cc := cc, spin := s1.thr.spin, fp := fp, sli := sli } }) :
    let b := atBody e s
    let t := s.freshen.retire s1
    OnlyThread b t ∧ t.thr.pend = shrunk b ∧ SameRegs b t ∧ FlagsAre q cc fp sli t := by
  dsimp only
  rw [h1, retire_ready]
  rotate_left
  · simp [freshen_key]
  · simpa using hs
  · simpa [Quiet] using hq
  refine ⟨rfl, ?_, ⟨rfl, rfl, rfl⟩, rfl, rfl, rfl, rfl⟩
  simp only [shrunk, freshen_nextId, atBody_nextId]

/-- What a thread reads of its predicates is decided by them. -/
theorem getQ_congr {t u : Thread} (h : t.q = u.q) (j : Nat) : t.getQ j = u.getQ j := by simp only [Thread.getQ, h]

/-- A body that decides one predicate and may raise flags. -/
theorem does_decides {i : Instr} {e : Enc} {s : State} {body : Body} {d : Nat} {r : State → Bool} {fp : State → BitVec 5} {sli : State → BitVec 7}
    (hi : exec i s = s.issue false body e) (hd : s.illegalHere e = none → d < 8)
    (hb : ∀ b, body e b = .ok { b with thr := { b.thr.putQ d (r b) with fp := fp b, sli := sli b } }) :
    Does i e s (fun b t => Decides d (r b) (fp b) (sli b) b t) := by
  intro hr hq
  refine ⟨_, by rw [hi, issue_runs hr hq, run_ok (hb _)], ?_⟩
  generalize hb : atBody e s = b
  have h1 := flags_put e s (b.thr.putQ d (r b)).q b.thr.cc (fp b) (sli b) { b with thr := { b.thr.putQ d (r b) with fp := fp b, sli := sli b } } hr.1.1 hq
    (by rw [hb, Thread.putQ_eq])
  rw [hb] at h1
  obtain ⟨honly, hpend, hregs, hq', hcc, hfp, hsli⟩ := h1
  refine ⟨honly, hpend, hregs, hcc, hfp, hsli, fun j hj => ?_⟩
  rw [getQ_congr hq', Thread.getQ_putQ _ _ _ _ (hd hr.1.2.1) hj]

/-- A body that decides one predicate and nothing else. -/
theorem does_decides_only {i : Instr} {e : Enc} {s : State} {body : Body} {d : Nat} {r : State → Bool}
    (hi : exec i s = s.issue false body e) (hd : s.illegalHere e = none → d < 8) (hb : ∀ b, body e b = .ok { b with thr := b.thr.putQ d (r b) }) :
    Does i e s (fun b t => Decides d (r b) b.thr.fp b.thr.sli b t) :=
  does_decides hi hd (fun b => by rw [hb, Thread.putQ_eq])

/-! ## Fields of an L or X form -/

theorem LX.enc_op (x : LX) (op : BitVec 8) : (x.enc op).op = op := by unfold LX.enc; split <;> rfl
theorem LX.enc_d (x : LX) (op : BitVec 8) : (x.enc op).d = x.d := by unfold LX.enc; split <;> rfl
theorem LX.enc_form (x : LX) (op : BitVec 8) : (x.enc op).form ≠ .s := by unfold LX.enc; split <;> simp

/-- The predicate that a compare or `qop` decides is below 8 (R12). -/
theorem legal_dst_pred {e : Enc} {s : State} (hr : (roles e).d = .pred) (h : s.illegalHere e = none) : e.d.toNat < 8 :=
  legal_pred h (by rw [← hr]; exact List.mem_cons_self)

theorem roles_compare {e : Enc} (hop : e.op = 0x30 ∨ e.op = 0x31 ∨ e.op = 0x39) (hf : e.form ≠ .s) : (roles e).d = .pred := by
  rcases hop with hop | hop | hop <;> simp [roles, hop, hf]

/-! ## Compares (R75, R76) -/

section
variable {i : Instr} {e : Enc} {s : State}

/-- The relation as M bits 7:6 combine it with q[c]. -/
def combined (e : Enc) (s : State) (r : Bool) : Bool :=
  match field e.m.toNat 7 6 with | 0 => r | 1 => r && s.thr.getQ e.c.toNat | 2 => r || s.thr.getQ e.c.toNat | _ => r ^^ s.thr.getQ e.c.toNat

theorem setPred_eq (e : Enc) (r : Bool) (s : State) : s.setPred e r = { s with thr := s.thr.putQ e.d.toNat (combined e s r) } := by
  have hxor : ∀ a b : Bool, (a != b) = (a ^^ b) := by decide
  simp only [State.setPred, combined, hxor] <;> rfl

theorem does_cmp_S (hi : exec i s = s.issue false bodyCmp e) (hf : e.form = .s) :
    Does i e s (fun s t =>
      let a := bv 32 (s.opA e 1)
      let b := bv 32 (s.opB e 1)
      Decides (e.d.toNat % 8) (match field e.d.toNat 5 3 with
        | 0 => decide (a = b) | 1 => decide (a ≠ b) | 2 => a.slt b | 3 => a.sle b | 4 => a.ult b | _ => a.ule b) s.thr.fp s.thr.sli s t) := by
  refine does_decides_only hi (fun _ => Nat.mod_lt _ (by decide)) (fun b => ?_)
  have ha := bv_toNat (opA1_lt b e)
  have hb := bv_toNat (opB1_lt b e)
  have heq : (bv 32 (b.opA e 1) = bv 32 (b.opB e 1)) ↔ b.opA e 1 = b.opB e 1 := by rw [← BitVec.toNat_inj, ha, hb]
  simp only [bodyCmp, hf, if_true, ne_eq, heq, BitVec.slt, BitVec.sle, BitVec.ult, BitVec.ule, ha, hb, sint_eq_toInt (show 0 < 32 by decide)] <;> rfl

theorem does_cmp (hi : exec i s = s.issue false bodyCmp e) (hop : e.op = 0x30) (hf : e.form ≠ .s) :
    Does i e s (fun s t => Decides e.d.toNat (combined e s (intRel (field e.m.toNat 5 2) (opInt e (s.opA e (tw e.t))) (opInt e (s.opB e (tw e.t)))))
      s.thr.fp s.thr.sli s t) :=
  does_decides_only hi (legal_dst_pred (roles_compare (.inl hop) hf)) (fun b => by rw [bodyCmp, if_neg hf, setPred_eq])

theorem does_fcmp (hi : exec i s = s.issue false bodyFcmp e) (hop : e.op = 0x31) (hf : e.form ≠ .s) :
    Does i e s (fun s t =>
      let r := fcmpT (field e.m.toNat 5 2) e.t s.lau.nbv (s.opA e (tw e.t)) (s.opB e (tw e.t))
      Decides e.d.toNat (combined e s r.1) (s.thr.fp ||| r.2) s.thr.sli s t) :=
  does_decides hi (legal_dst_pred (roles_compare (.inr (.inl hop)) hf)) (fun b => by
    rw [bodyFcmp]; simp only [setPred_eq, State.orFp, Thread.orFp]; rw [Thread.putQ_eq])

theorem does_scmp (hi : exec i s = s.issue false bodyScmp e) (hop : e.op = 0x39) (hf : e.form ≠ .s) :
    Does i e s (fun s t =>
      let v := fun (o : Nat) => sliDecode (decide (e.t = 3)) o
      let r := scmpRel (field e.m.toNat 5 2) (v (s.opA e (tw e.t))) (v (s.opB e (tw e.t)))
      Decides e.d.toNat (combined e s r.1) s.thr.fp (s.thr.sli ||| r.2) s t) :=
  does_decides hi (legal_dst_pred (roles_compare (.inr (.inr hop)) hf)) (fun b => by
    rw [bodyScmp]; simp only [setPred_eq, State.orSli, Thread.orSli]; rw [Thread.putQ_eq])

end

/-- Settles O4: each compare decides its predicate by the relation it asks for. -/
theorem compares : Obligations.Compares := by
  unfold Obligations.Compares
  refine ⟨fun x y s => ⟨?cmp, ?short⟩, fun x s => ?flagged⟩
  case cmp =>
    have h := does_cmp (i := .cmpLX x) (s := s) rfl (LX.enc_op x 0x30) (LX.enc_form x 0x30)
    simp only [combined, LX.enc_d, LX.enc_m, LX.enc_c, LX.enc_t] at h
    exact h
  case short =>
    have h := does_cmp_S (i := .cmpS y) (e := y.enc 0x30) (s := s) rfl rfl
    have hd : (y.enc 0x30).d.toNat = y.d.toNat := by have := y.d.isLt; simp [SEnc.enc]; omega
    have hc : field y.d.toNat 5 3 = y.d.toNat / 8 := by have := y.d.isLt; simp [field, Nat.shiftRight_eq_div_pow]; omega
    rw [hd, hc] at h
    exact h
  case flagged =>
    have hf := does_fcmp (i := .fcmp x) (s := s) rfl (LX.enc_op x 0x31) (LX.enc_form x 0x31)
    have hs := does_scmp (i := .scmp x) (s := s) rfl (LX.enc_op x 0x39) (LX.enc_form x 0x39)
    simp only [combined, LX.enc_d, LX.enc_m, LX.enc_c, LX.enc_t] at hf hs
    exact ⟨hf, hs⟩

end Sys2Proof.Claims
end

section
/-!
PROOFS. Predicate logic, moves of predicates, selects and condition codes (R12, R77, R78).
-/
namespace Sys2Proof.Claims
open Machine Bits Encoding

theorem ofBool_eq_toNat (b : Bool) : ofBool b = b.toNat := by cases b <;> rfl

/-! ## Writes by mask -/

/-- Predicates written by mask, up to predicate `n`. -/
theorem putQs_upto (a m : Nat) (t : Thread) (n : Nat) (hn : n ≤ 7) {j : Nat} (hj : j < 7) :
    ((List.range n).foldl (fun t i => if bit m i then t.putQ i (bit a i) else t) t).getQ j
      = if j < n ∧ bit m j = true then bit a j else t.getQ j := by
  induction n with
  | zero => simp
  | succ n ih =>
    rw [List.range_succ, List.foldl_append, List.foldl_cons, List.foldl_nil]
    by_cases hm : bit m n = true
    · rw [if_pos hm, Thread.getQ_putQ _ _ _ _ (by omega) (by omega), ih (by omega)]
      by_cases hjn : j = n
      · subst hjn; simp [hm, show j ≠ 7 by omega]
      · simp [hjn, show j < n + 1 ↔ j < n by omega]
    · rw [if_neg hm, ih (by omega)]
      by_cases hjn : j = n
      · subst hjn; simp [hm]
      · simp [show j < n + 1 ↔ j < n by omega]

theorem putQs_getQ (a m : Nat) (t : Thread) {j : Nat} (hj : j < 7) : (putQs a m t).getQ j = if bit m j = true then bit a j else t.getQ j := by
  rw [putQs, putQs_upto a m t 7 (by decide) hj]; simp [hj]

/-- Writing predicates changes the predicates and the spin hash. -/
theorem putQs_eq (a m : Nat) (t : Thread) : putQs a m t = { t with q := (putQs a m t).q, spin := (putQs a m t).spin } := by
  unfold putQs
  generalize List.range 7 = l
  induction l generalizing t with
  | nil => rfl
  | cons i l ih =>
    rw [List.foldl_cons, ih]
    split
    · rw [Thread.putQ_eq]
    · rfl

theorem mask4_getLsbD (cc : BitVec 4) (m : BitVec 8) (v : Nat) (j : Nat) (hj : j < 4) :
    ((cc &&& ~~~(m.setWidth 4)) ||| (BitVec.ofNat 4 v &&& m.setWidth 4)).getLsbD j = if m.getLsbD j then (bv 32 v).getLsbD j else cc.getLsbD j := by
  rw [bv_getLsbD (by omega)]
  simp only [BitVec.getLsbD_or, BitVec.getLsbD_and, BitVec.getLsbD_not, BitVec.getLsbD_setWidth, BitVec.getLsbD_ofNat, hj, decide_true, Bool.true_and]
  cases m.getLsbD j <;> simp

/-! ## Effects -/

/-- What a body leaves that delivers a result which does not shift the last-result file (R10). -/
theorem mem_put (e : Enc) (s : State) (n v : Nat) (hs : s.thr.status = .ready) (hq : Quiet s) :
    let b := atBody e s
    let t := s.freshen.retire (b.putM e n v)
    OnlyThread b t ∧ t.thr.pend = shrunk b ∧ SameFlags b t ∧ Wrote (code e e.d) (words n v) b t ∧ t.thr.l0 = b.thr.l0 ∧ t.thr.l1 = b.thr.l1 := by
  have hp : (atBody e s).putM e n v = { atBody e s with thr := (atBody e s).thr.result false (code e e.d) (words n v) } := rfl
  dsimp only
  rw [hp, Thread.result_eq, retire_ready]
  rotate_left
  · simp [freshen_key]
  · simpa using hs
  · simpa [Quiet] using hq
  refine ⟨rfl, ?_, ⟨rfl, rfl, rfl, rfl⟩, ?_, rfl, rfl⟩
  · simp only [shrunk, freshen_nextId, atBody_nextId]
  · intro k h
    simp only [Thread.putDst_regs _ _ _ _ h]

section
variable {i : Instr} {e : Enc} {s : State}

theorem does_qop (hi : exec i s = s.issue false bodyQop e) (hop : e.op = 0x32) :
    Does i e s (fun s t => Decides e.d.toNat
      (e.m.getLsbD (4 * (s.thr.getQ e.a.toNat).toNat + 2 * (s.thr.getQ e.b.toNat).toNat + (s.thr.getQ e.c.toNat).toNat)) s.thr.fp s.thr.sli s t) :=
  does_decides_only hi (legal_dst_pred (by simp [roles, hop])) (fun b => by simp only [bodyQop, ofBool_eq_toNat]; rfl)

theorem does_qget (hi : exec i s = s.issue false bodyQget e) (hf : e.form ≠ .s) :
    Does i e s (fun s t => OnlyThread s t ∧ t.thr.pend = shrunk s ∧ SameFlags s t
      ∧ Wrote e.d [(1#1 ++ s.thr.q).setWidth 32] s t ∧ t.thr.l0 = s.thr.l0 ∧ t.thr.l1 = s.thr.l1) := by
  refine does_ok i hi _ rfl (fun hs hq => ?_)
  have h := mem_put e s 1 ((atBody e s).thr.q.toNat + 128) hs hq
  have hword : words 1 ((atBody e s).thr.q.toNat + 128) = [(1#1 ++ (atBody e s).thr.q).setWidth 32] := by
    have hlt := (atBody e s).thr.q.isLt
    rw [words_one]
    congr 1
    apply BitVec.eq_of_toNat_eq
    rw [BitVec.toNat_setWidth, BitVec.toNat_append, ← Nat.shiftLeft_add_eq_or_of_lt hlt, Nat.shiftLeft_eq, BitVec.toNat_ofNat]
    congr 1; simp; omega
  have hcode : code e e.d = e.d := if_neg hf
  rw [hword, hcode] at h
  exact h

theorem does_qset (hi : exec i s = s.issue false bodyQset e) :
    Does i e s (fun s t => OnlyThread s t ∧ t.thr.pend = shrunk s ∧ SameRegs s t ∧ t.thr.cc = s.thr.cc ∧ t.thr.fp = s.thr.fp ∧ t.thr.sli = s.thr.sli
      ∧ ∀ j < 7, t.thr.getQ j = if e.m.getLsbD j then (bv 32 (s.op1 e 1)).getLsbD j else s.thr.getQ j) := by
  refine does_ok i hi _ rfl (fun hs hq => ?_)
  obtain ⟨honly, hpend, hregs, hq', hcc, hfp, hsli⟩ := flags_put e s (putQs ((atBody e s).op1 e 1) e.m.toNat (atBody e s).thr).q (atBody e s).thr.cc
    (atBody e s).thr.fp (atBody e s).thr.sli { atBody e s with thr := putQs ((atBody e s).op1 e 1) e.m.toNat (atBody e s).thr } hs hq
    (by rw [putQs_eq])
  refine ⟨honly, hpend, hregs, hcc, hfp, hsli, fun j hj => ?_⟩
  rw [getQ_congr hq', putQs_getQ _ _ _ hj, bv_getLsbD (by omega)]
  rfl

theorem does_ccput (hi : exec i s = s.issue false bodyCcput e) :
    Does i e s (fun s t => OnlyThread s t ∧ t.thr.pend = shrunk s ∧ SameRegs s t ∧ t.thr.q = s.thr.q ∧ t.thr.fp = s.thr.fp ∧ t.thr.sli = s.thr.sli
      ∧ ∀ j < 4, t.thr.cc.getLsbD j = if e.m.getLsbD j then (bv 32 (s.op1 e 1)).getLsbD j else s.thr.cc.getLsbD j) := by
  refine does_ok i hi _ rfl (fun hs hq => ?_)
  obtain ⟨honly, hpend, hregs, hq', hcc, hfp, hsli⟩ := flags_put e s (atBody e s).thr.q _ (atBody e s).thr.fp (atBody e s).thr.sli
    { atBody e s with thr := (atBody e s).thr.putCC _ } hs hq (by rw [Thread.putCC_eq])
  exact ⟨honly, hpend, hregs, hq', hfp, hsli, fun j hj => by rw [hcc, mask4_getLsbD _ _ _ _ hj]⟩

theorem does_sel (hi : exec i s = s.issue false bodySel e) :
    Does i e s (fun s t => Gives e (logN e) (if s.thr.getQ (if e.form = .s then 0 else e.c.toNat) then s.opA e (logN e) else s.opB e (logN e)) s t) :=
  does_gives hi (fun _ => rfl)

theorem does_ccsel (hi : exec i s = s.issue false bodyCcsel e) :
    Does i e s (fun s t => Gives e (tw e.t) (if condHolds s.thr.cc e.m.toNat then s.opA e (tw e.t) else s.opB e (tw e.t)) s t) :=
  does_gives hi (fun _ => rfl)

theorem does_ccget (hi : exec i s = s.issue false bodyCcget e) : Does i e s (fun s t => Gives e 1 (condHolds s.thr.cc e.m.toNat).toNat s t) :=
  does_gives hi (fun b => by rw [bodyCcget, ofBool_eq_toNat])

end

/-- Settles O5: each operation by the predicates and condition codes it reads. -/
theorem predicatesAndSelects : Obligations.PredicatesAndSelects := by
  unfold Obligations.PredicatesAndSelects
  intro x y s q
  refine ⟨does_qop rfl rfl, does_qget rfl (by simp [LX.encL]), ?qset, does_sel rfl, ?sel, ?ccsel, does_ccget rfl, ?ccput⟩
  case qset =>
    have h := does_qset (i := .qset x) (e := x.enc 0x34) (s := s) rfl
    rw [LX.enc_m] at h; exact h
  case sel =>
    have h := does_sel (i := .selLX x) (e := x.enc 0x35) (s := s) rfl
    rw [LX.logN_enc, LX.enc_c] at h
    simp only [if_neg (LX.enc_form x 0x35)] at h
    exact h
  case ccsel =>
    have h := does_ccsel (i := .ccsel x) (e := x.enc 0x36) (s := s) rfl
    rw [LX.enc_m, LX.enc_t] at h; exact h
  case ccput =>
    have h := does_ccput (i := .ccput x) (e := x.enc 0x38) (s := s) rfl
    rw [LX.enc_m] at h; exact h

end Sys2Proof.Claims
end

section
/-!
PROOFS. Floating-point, conversion and SLI results (R52 to R65, R87 to R99): how each body delivers its result and flags.
-/
namespace Sys2Proof.Claims
open Machine Bits Encoding

/-! ## Results with flags -/

theorem put1_orFp (t : Thread) (n : Nat) (v : Word) (f : BitVec 5) : (t.put1 n v).orFp f = (t.orFp f).put1 n v := by unfold Thread.put1; split <;> rfl
theorem put1_orSli (t : Thread) (n : Nat) (v : Word) (f : BitVec 7) : (t.put1 n v).orSli f = (t.orSli f).put1 n v := by unfold Thread.put1; split <;> rfl

theorem puts_orFp (vs : List Word) (t : Thread) (c : Nat) (f : BitVec 5) : (t.puts c vs).orFp f = (t.orFp f).puts c vs := by
  induction vs generalizing t c with
  | nil => rfl
  | cons v vs ih => rw [Thread.puts, ih, put1_orFp]; rfl

theorem puts_orSli (vs : List Word) (t : Thread) (c : Nat) (f : BitVec 7) : (t.puts c vs).orSli f = (t.orSli f).puts c vs := by
  induction vs generalizing t c with
  | nil => rfl
  | cons v vs ih => rw [Thread.puts, ih, put1_orSli]; rfl

theorem putDst_orFp (t : Thread) (c : BitVec 8) (vs : List Word) (f : BitVec 5) : (t.putDst c vs).orFp f = (t.orFp f).putDst c vs := by
  unfold Thread.putDst; split
  · exact puts_orFp ..
  · rfl

theorem putDst_orSli (t : Thread) (c : BitVec 8) (vs : List Word) (f : BitVec 7) : (t.putDst c vs).orSli f = (t.orSli f).putDst c vs := by
  unfold Thread.putDst; split
  · exact puts_orSli ..
  · rfl

/-- The registers and the flags of a result may be written in either order. -/
theorem putD_orFp (e : Enc) (n v : Nat) (f : BitVec 5) (s : State) : (s.putD e n v).orFp f = (s.orFp f).putD e n v := by
  simp only [State.putD, State.orFp]
  congr 1
  unfold Thread.result
  split <;> exact putDst_orFp ..

theorem putD_orSli (e : Enc) (n v : Nat) (f : BitVec 7) (s : State) : (s.putD e n v).orSli f = (s.orSli f).putD e n v := by
  simp only [State.putD, State.orSli]
  congr 1
  unfold Thread.result
  split <;> exact putDst_orSli ..

section
variable {i : Instr} {e : Enc} {s : State} {body : Body} {n : Nat}

/-- A body that delivers a result and raises FPFLAGS. -/
theorem does_givesF {x : State → Nat × BitVec 5} (hi : exec i s = s.issue false body e) (hb : ∀ b, body e b = .ok (b.putF e n (x b))) :
    Does i e s (fun b t => GivesF e n (x b) b t) :=
  does_ok i hi _ (hb _) (fun hs hq => by rw [State.putF, putD_orFp]; exact alu_put e s _ _ _ _ _ _ hs hq rfl)

/-- A body that delivers a result and raises SLIFLAGS. -/
theorem does_givesS {x : State → Nat × BitVec 7} (hi : exec i s = s.issue false body e) (hb : ∀ b, body e b = .ok ((b.putD e n (x b).1).orSli (x b).2)) :
    Does i e s (fun b t => Alu e n (x b).1 b.thr.cc b.thr.fp (b.thr.sli ||| (x b).2) b t) :=
  does_ok i hi _ (hb _) (fun hs hq => by rw [putD_orSli]; exact alu_put e s _ _ _ _ _ _ hs hq rfl)

/-- A body that leaves a result with its FPFLAGS pending. -/
theorem does_laterF {x : State → Nat × BitVec 5} (hi : exec i s = s.issue false body e) (hb : ∀ b, body e b = .ok (b.laterF e n (x b).1 (x b).2)) :
    Does i e s (fun b t => Leaves (aluPending e n (x b).1 (x b).2 0 false true b) b t) :=
  does_ok i hi _ (hb _) (fun hs hq => later_leaves _ n _ 0 true false false true hs hq)

/-- A body that leaves a result with its FPFLAGS and SLIFLAGS pending. -/
theorem does_laterS {x : State → Nat × BitVec 5 × BitVec 7} (hi : exec i s = s.issue false body e)
    (hb : ∀ b, body e b = .ok (b.laterS e n (x b).1 (x b).2.1 (x b).2.2)) :
    Does i e s (fun b t => Leaves (aluPending e n (x b).1 (x b).2.1 (x b).2.2 true ((x b).2.1 ≠ 0 || e.op = 0x68) b) b t) :=
  does_ok i hi _ (hb _) (fun hs hq => later_leaves _ n _ _ true false true _ hs hq)

end

/-! ## Floating point (R87 to R94, R98) -/

section
variable {i : Instr} {e : Enc} {s : State}

theorem does_f2 {op : Rnd → FVal → FVal → FVal × BitVec 5} (hi : exec i s = s.issue false (bodyF2 op) e) :
    Does i e s (fun s t => GivesF e (tw (fT e)) (farith2 (op (fR e)) (fT e) s.lau.nbv (fR e) (s.opA e (tw (fT e))) (s.opB e (tw (fT e)))) s t) :=
  does_givesF hi (fun _ => rfl)

theorem does_fadd (hi : exec i s = s.issue false bodyFadd e) :
    Does i e s (fun s t => GivesF e (tw (fT e)) (farith2 (FVal.add (fR e)) (fT e) s.lau.nbv (fR e) (s.opA e (tw (fT e))) (s.opB e (tw (fT e)))) s t) :=
  does_f2 hi

theorem does_fsub (hi : exec i s = s.issue false bodyFsub e) :
    Does i e s (fun s t => GivesF e (tw (fT e))
      (farith2 (fun a b => a.add (fR e) b.neg) (fT e) s.lau.nbv (fR e) (s.opA e (tw (fT e))) (s.opB e (tw (fT e)))) s t) :=
  does_f2 (op := fun r a b => a.add r b.neg) hi

theorem does_fmul (hi : exec i s = s.issue false bodyFmul e) :
    Does i e s (fun s t => GivesF e (tw (fT e))
      (farith2 (fun a b => a.mul b) (fT e) s.lau.nbv (fR e) (s.opA e (tw (fT e))) (s.opB e (tw (fT e)))) s t) :=
  does_f2 (op := fun _ a b => a.mul b) hi

theorem does_fscale (hi : exec i s = s.issue false bodyFscale e) :
    Does i e s (fun s t => GivesF e (tw e.t) (fscaleT e.t s.lau.nbv (fR e) (s.opA e (tw e.t)) (bv 32 (s.opB e 1)).toInt) s t) := by
  refine does_givesF hi (fun b => ?_)
  have hn : (if e.form = .x then e.lit.toNat else b.opB e 1) = b.opB e 1 := by
    split
    · next hx => rw [State.opB, if_pos hx, litVal_one]
    · rfl
  simp only [bodyFscale, hn, sint_eq_toInt (show 0 < 32 by decide)]

/-- A special function is of a one-register type (Table 6.6). -/
theorem special_type {e : Enc} {s : State} (hop : e.op = 0x58 ∨ e.op = 0x59 ∨ e.op = 0x5A ∨ e.op = 0x5B ∨ e.op = 0x5C) (hf : e.form ≠ .s)
    (h : s.illegalHere e = none) : tw e.t = 1 := by
  have ht := (illegal_checks h).2.2.1
  have htypes : e.t.toNat = 6 ∨ e.t.toNat = 7 ∨ e.t.toNat = 9 := by
    rcases hop with hop | hop | hop | hop | hop <;> simpa [tOk, hop, hf] using ht
  have h3 : ¬ e.t = 3#4 ∧ ¬ e.t = 4#4 ∧ ¬ e.t = 8#4 := by simp only [BitVec.toNat_eq]; simp; omega
  simp [tw, h3]

theorem does_special {f : FVal → FVal × BitVec 5} (hi : exec i s = s.issue false (bodySpecial f) e)
    (hop : e.op = 0x58 ∨ e.op = 0x59 ∨ e.op = 0x5A ∨ e.op = 0x5B ∨ e.op = 0x5C) (hf : e.form ≠ .s) :
    Does i e s (fun s t =>
      let r := farith1 f e.t s.lau.nbv (fR e) (s.op1 e (tw e.t))
      Leaves (aluPending e (tw e.t) r.1 r.2 0 false true s) s t) := by
  intro hr hq
  rw [special_type hop hf hr.1.2.1]
  exact does_laterF hi (fun _ => rfl) hr hq

end

/-- Settles O6: each body delivers or leaves the result that the statement names. -/
theorem floatArithmetic : Obligations.FloatArithmetic := by
  unfold Obligations.FloatArithmetic
  refine ⟨fun x y s => ?atOnce, fun x s => ?late⟩
  case atOnce =>
    refine ⟨does_fadd rfl, does_fadd rfl, does_fsub rfl, does_fsub rfl, does_fmul rfl, does_fmul rfl, does_givesF rfl (fun _ => rfl),
      does_givesF rfl (fun _ => rfl), does_givesF rfl (fun _ => rfl), does_givesF rfl (fun _ => rfl), does_givesF rfl (fun _ => rfl),
      ?fclass, ?frnd, does_fscale rfl, ?fsplit, does_givesF rfl (fun _ => rfl)⟩
    case fclass => rw [← LX.enc_t x 0x4A]; exact does_gives rfl (fun _ => rfl)
    case frnd => rw [← LX.enc_m x 0x4B]; exact does_givesF rfl (fun _ => rfl)
    case fsplit => rw [← LX.enc_c x 0x4D]; exact does_givesF rfl (fun _ => rfl)
  case late =>
    have hspecial {op : BitVec 8} {i : Instr} {f : FVal → FVal × BitVec 5} (hop : op = 0x58 ∨ op = 0x59 ∨ op = 0x5A ∨ op = 0x5B ∨ op = 0x5C)
        (hi : exec i s = s.issue false (bodySpecial f) (x.enc op)) := does_special hi (by rwa [LX.enc_op]) (LX.enc_form x op)
    exact ⟨does_laterF rfl (fun _ => rfl), does_laterF rfl (fun _ => rfl), hspecial (f := vExp2) (by decide) rfl, hspecial (f := vLog2) (by decide) rfl,
      hspecial (f := vSin) (by decide) rfl, hspecial (f := vCos) (by decide) rfl, hspecial (f := vTanh) (by decide) rfl⟩

end Sys2Proof.Claims
end

section
/-!
PROOFS. Conversions and SLI results (R52 to R64, R95 to R97, R99).
-/
namespace Sys2Proof.Claims
open Machine Bits Encoding

section
variable {i : Instr} {e : Enc} {s : State}

/-! ## Conversions (R95 to R97) -/

theorem does_cvt (hi : exec i s = s.issue false bodyCvt e) :
    Does i e s (fun s t => GivesF e (tw e.t) (cvtT e.t.toNat (e.c.toNat % 16) s.lau.nbv e.m.toNat (s.op1 e (tw (e.c.setWidth 4)))) s t) := by
  refine does_givesF hi (fun b => ?_)
  have hc : BitVec.ofNat 4 (e.c.toNat % 16) = e.c.setWidth 4 := by apply BitVec.eq_of_toNat_eq; simp
  simp only [bodyCvt, hc]

theorem does_quant (hi : exec i s = s.issue false bodyQuant e) :
    Does i e s (fun s t =>
      let q := quantT s.lau.nbv (s.opB e 1) (e.m.getLsbD 2) (s.opA e 1)
      GivesF e 1 ((BitVec.ofInt 32 q.1).toNat, q.2) s t) :=
  does_givesF hi (fun b => by simp only [bodyQuant, wrapInt_eq_toNat]; rfl)

theorem does_dequant (hi : exec i s = s.issue false bodyDequant e) :
    Does i e s (fun s t =>
      let a := bv 32 (s.opA e 1)
      let q := if e.m.getLsbD 2 then (a.setWidth 4).toInt else (a.setWidth 8).toInt
      GivesF e 1 (dequantT s.lau.nbv (s.opB e 1) q) s t) := by
  refine does_givesF hi (fun b => ?_)
  have hcut : ∀ w ≤ 32, (bv 32 (b.opA e 1)).setWidth w = bv w (b.opA e 1) := fun w hw => by
    apply BitVec.eq_of_toNat_eq
    rw [BitVec.toNat_setWidth, bv_toNat (opA1_lt b e), bv, BitVec.toNat_ofNat]
  have hq : sint (if bit e.m.toNat 2 then 4 else 8) (b.opA e 1)
      = if e.m.getLsbD 2 then ((bv 32 (b.opA e 1)).setWidth 4).toInt else ((bv 32 (b.opA e 1)).setWidth 8).toInt := by
    rw [hcut 4 (by decide), hcut 8 (by decide), ← sint_eq_toInt (by decide), ← sint_eq_toInt (by decide), show bit e.m.toNat 2 = e.m.getLsbD 2 from rfl]
    split <;> rfl
  rw [bodyDequant, hq]

theorem does_pack (hi : exec i s = s.issue false bodyPack e) :
    Does i e s (fun s t =>
      let half := fun v => if e.t = 0 then (v % 2 ^ 16, 0#5) else floatToFloat fmtF (fmtOf e.t) s.lau.nbv (fR e) v
      GivesF e 1 ((half (s.opA e 1)).1 + 2 ^ 16 * (half (s.opB e 1)).1, (half (s.opA e 1)).2 ||| (half (s.opB e 1)).2) s t) :=
  does_givesF hi (fun _ => rfl)

theorem does_unpack (hi : exec i s = s.issue false bodyUnpack e) :
    Does i e s (fun s t =>
      let half := fun v => if e.t = 0 then (v, 0#5) else floatToFloat (fmtOf e.t) fmtF s.lau.nbv .ne v
      let a := s.op1 e 1
      GivesF e 2 ((half (a % 2 ^ 16)).1 + 2 ^ 32 * (half (a / 2 ^ 16)).1, (half (a % 2 ^ 16)).2 ||| (half (a / 2 ^ 16)).2) s t) :=
  does_givesF hi (fun _ => rfl)

/-! ## SLI (R52 to R64, R99) -/

/-- An SLI result left pending: it raises no FPFLAGS but that of `sto`, whose window an access to sr.fpflags ends (R66). -/
def SliLater (e : Enc) (r : State → Nat × BitVec 7) (s t : State) : Prop :=
  Leaves (aluPending e (tw e.t) (r s).1 0 (r s).2 true (e.op = 0x68) s) s t

theorem does_sli {body : Body} {r : State → Nat × BitVec 7} (hi : exec i s = s.issue false body e) (hb : ∀ b, body e b = .ok (b.laterSli e (r b))) :
    Does i e s (SliLater e r) :=
  (does_laterS (x := fun b => ((r b).1, 0, (r b).2)) hi hb).imp (fun b t h => by simpa [SliLater] using h)

/-- The value that an operand of an SLI instruction encodes. -/
def sliOf (e : Enc) (v : Nat) : SVal := sliDecode (decide (e.t = 3)) v

theorem does_sli2 {f : Bool → SVal → SVal → SOut} (hi : exec i s = s.issue false (bodySli2 f) e) :
    Does i e s (SliLater e (fun s => (f (decide (e.t = 3)) (sliOf e (s.opA e (tw e.t))) (sliOf e (s.opB e (tw e.t)))).done
      [sliOf e (s.opA e (tw e.t)), sliOf e (s.opB e (tw e.t))])) :=
  does_sli hi (fun _ => rfl)

theorem does_sli1 {f : Bool → SVal → SOut} (hi : exec i s = s.issue false (bodySli1 f) e) :
    Does i e s (SliLater e (fun s => (f (decide (e.t = 3)) (sliOf e (s.op1 e (tw e.t)))).done [sliOf e (s.op1 e (tw e.t))])) :=
  does_sli hi (fun _ => rfl)

theorem does_sfrom (hi : exec i s = s.issue false bodySfrom e) :
    Does i e s (SliLater e (fun s =>
      if e.c = 0 ∨ e.c = 3 then sliResize (decide (e.t = 3)) (decide (e.c = 3)) (s.op1 e (tw (e.c.setWidth 4)))
      else (sliFromFloat (decide (e.t = 3)) (fmtOf (e.c.setWidth 4)) (s.op1 e (tw (e.c.setWidth 4)))).done [])) := by
  refine does_sli hi (fun b => ?_)
  rw [bodySfrom]
  by_cases h0 : e.c = 0#8
  · simp [h0, sliWide]
  · by_cases h3 : e.c = 3#8
    · simp [h3, sliWide]
    · simp [h0, h3, sliWide]

theorem does_sto (hi : exec i s = s.issue false bodySto e) (hop : e.op = 0x68) :
    Does i e s (fun s t =>
      let r := sliTo (fmtOf e.t) 2 (fR e) (sliDecode (decide (e.c = 3)) (s.op1 e (tw (e.c.setWidth 4))))
      Leaves (aluPending e (tw e.t) r.1 r.2.1 r.2.2 true true s) s t) :=
  (does_laterS (x := fun s => sliTo (fmtOf e.t) 2 (fR e) (sliDecode (decide (e.c = 3)) (s.op1 e (tw (e.c.setWidth 4))))) hi (fun _ => rfl)).imp
    (fun b t h => by simpa only [hop, decide_true, Bool.or_true] using h)

theorem does_sacce (hi : exec i s = s.issue false bodySacce e) : Does i e s (SliLater e (fun s => sliAcce (s.opD e 2) (s.op1 e 1))) :=
  does_sli hi (fun _ => rfl)

end

/-- Settles O7: each body delivers or leaves the result that the statement names. -/
theorem conversionsAndSli : Obligations.ConversionsAndSli := by
  unfold Obligations.ConversionsAndSli
  refine ⟨fun x s => ⟨?cvt, ?quant, ?dequant, does_pack rfl, does_unpack rfl⟩, fun x s => ?sli⟩
  case cvt =>
    have h := does_cvt (i := .cvt x) (e := x.enc 0x50) (s := s) rfl
    rw [LX.enc_c, LX.enc_m] at h; exact h
  case quant =>
    have h := does_quant (i := .quant x) (e := x.enc 0x51) (s := s) rfl
    rw [LX.enc_m] at h; exact h
  case dequant =>
    have h := does_dequant (i := .dequant x) (e := x.enc 0x52) (s := s) rfl
    rw [LX.enc_m] at h; exact h
  case sli =>
    refine ⟨does_sli2 (f := sliAdd) rfl, does_sli2 (f := fun w a b => sliAdd w a b.negate) rfl, does_sli2 (f := sliMul) rfl, does_sli2 (f := sliDiv) rfl,
      does_givesS rfl (fun _ => rfl), does_sli1 (f := sliLog) rfl, does_sli1 (f := sliAnti) rfl, ?sfrom, ?sto, does_sacce rfl⟩
    case sfrom =>
      have h := does_sfrom (i := .sfrom x) (e := x.enc 0x67) (s := s) rfl
      rw [LX.enc_c] at h; exact h
    case sto =>
      have h := does_sto (i := .sto x) (e := x.enc 0x68) (s := s) rfl (LX.enc_op x 0x68)
      rw [LX.enc_c] at h; exact h

end Sys2Proof.Claims
end

section
/-!
PROOFS. Branches, calls, returns, MEET and nop (R25, R79, R80).
-/
namespace Sys2Proof.Claims
open Machine Bits Encoding

/-! ## Targets (R25) -/

theorem offTarget_atBody (e : Enc) (s : State) : offTarget e (atBody e s) = s.thr.pc + BitVec.ofInt 48 (4 * branchOff e) := by
  rw [offTarget, pcOf_atBody]

theorem aligned_mod {v : Word} (h : v &&& 3 = 0) : v.toNat % 4 = 0 := by
  have h4 : (v &&& 3).toNat = 0 := by rw [h]; rfl
  rw [BitVec.toNat_and, show (3 : Word).toNat = 2 ^ 2 - 1 from rfl, Nat.and_two_pow_sub_one_eq_mod] at h4
  exact h4

/-- A register target that is aligned passes its check. -/
theorem jumpReg_aligned {e : Enc} {s : State} (h : regOff e (atBody e s) &&& 3 = 0) :
    jumpReg e (regOff e (atBody e s)) (atBody e s) = .ok (s.thr.pc.extractLsb' 32 16 ++ regOff e (atBody e s)) := by
  rw [jumpReg, if_neg (by simp [aligned_mod h]), winAddr, pcOf_atBody]

/-- The spin detector alone notes a backward branch (R107). -/
theorem Thread.backward_eq (t : Thread) (pc target : CodeAddr) (clk : Nat) :
    t.backward pc target clk = { t with spin := (t.backward pc target clk).spin } := by
  unfold Thread.backward; split <;> rfl

/-! ## Effects -/

/-- What a body leaves that sets the PC and MEET and may write registers. -/
theorem goes_put (e : Enc) (s : State) (pc meet : CodeAddr) (s1 : State) (hs : s.thr.status = .ready) (hq : Quiet s)
    (h1 : s1 = { atBody e s with thr := { (atBody e s).thr with pc := pc, meet := meet, regs := s1.thr.regs, spin := s1.thr.spin } }) :
    let b := atBody e s
    let t := s.freshen.retire s1
    OnlyThread { b with thr := { b.thr with pc := pc, meet := meet } } t ∧ t.thr.pend = shrunk b ∧ SameFlags b t ∧ t.thr.l0 = b.thr.l0 ∧ t.thr.l1 = b.thr.l1
      ∧ t.thr.regs = s1.thr.regs := by
  dsimp only
  rw [retire_ready]
  rotate_left
  · rw [h1]; simp [freshen_key]
  · rw [h1]; simpa using hs
  · rw [h1]; simpa [Quiet] using hq
  refine ⟨?_, ?_, ?_, ?_, ?_, rfl⟩
  · rw [h1]; rfl
  · rw [h1]; simp only [shrunk, freshen_nextId, atBody_nextId]
  · rw [h1]; exact ⟨rfl, rfl, rfl, rfl⟩
  · rw [h1]
  · rw [h1]

section
variable {i : Instr} {e : Enc} {s : State} {body : Body} (hi : exec i s = s.issue false body e)
include hi

/-- A body that sets the PC alone. -/
theorem does_goes {pc : CodeAddr} {s1 : State} (hb : body e (atBody e s) = .ok s1)
    (h1 : s1 = { atBody e s with thr := { (atBody e s).thr with pc := pc, spin := s1.thr.spin } }) : Does i e s (GoesTo pc) := by
  refine does_ok i hi _ hb (fun hs hq => ?_)
  have hregs1 : s1.thr.regs = (atBody e s).thr.regs := by rw [h1]
  obtain ⟨honly, hpend, hflags, hl0, hl1, hregs⟩ := goes_put e s pc (atBody e s).thr.meet s1 hs hq (by rw [hregs1]; exact h1)
  exact ⟨honly, hpend, ⟨hregs.trans hregs1, hl0, hl1⟩, hflags⟩

/-- What `call` and `calli` leave: the thread is at its target, with the window offset of the next instruction in ra (R79). -/
def Linked (target : CodeAddr) (b t : State) : Prop :=
  OnlyThread { b with thr := { b.thr with pc := target } } t ∧ t.thr.pend = shrunk b ∧ SameFlags b t ∧ t.thr.l0 = b.thr.l0 ∧ t.thr.l1 = b.thr.l1
    ∧ Wrote 1 [b.thr.pc.setWidth 32] b t

theorem does_linked {target : CodeAddr} (hb : body e (atBody e s) = .ok ((atBody e s).link.jump target)) : Does i e s (Linked target) := by
  refine does_ok i hi _ hb (fun hs hq => ?_)
  obtain ⟨honly, hpend, hflags, hl0, hl1, hregs⟩ := goes_put e s target (atBody e s).thr.meet ((atBody e s).link.jump target) hs hq
    (by simp only [State.link, State.jump]; rw [Thread.put1_eq])
  refine ⟨honly, hpend, hflags, hl0, hl1, fun k hk => ?_⟩
  have hreg : (s.freshen.retire ((atBody e s).link.jump target)).thr.regs[k] = ((atBody e s).link.jump target).thr.regs[k] := by rw [hregs]
  rw [hreg]
  simp only [State.link, State.jump, Thread.put1_regs _ _ _ _ hk]
  by_cases h1 : k = 1
  · subst h1; simp
  · have h1' : ¬1 = k := fun h => h1 h.symm
    rw [if_neg h1', if_neg (by simp; omega)]

/-- The whole effect is MEET. -/
def Meets (m : CodeAddr) (b t : State) : Prop :=
  OnlyThread { b with thr := { b.thr with meet := m } } t ∧ t.thr.pend = shrunk b ∧ SameRegs b t ∧ SameFlags b t

/-- A body that sets MEET alone. -/
theorem does_meets {m : CodeAddr} (hb : body e (atBody e s) = .ok { atBody e s with thr := { (atBody e s).thr with meet := m } }) :
    Does i e s (Meets m) := by
  refine does_ok i hi _ hb (fun hs hq => ?_)
  obtain ⟨honly, hpend, hflags, hl0, hl1, hregs⟩ := goes_put e s (atBody e s).thr.pc m
    { atBody e s with thr := { (atBody e s).thr with meet := m } } hs hq rfl
  exact ⟨honly, hpend, ⟨hregs, hl0, hl1⟩, hflags⟩

end

section
variable {i : Instr} {e : Enc} {s : State}

/-- `nop` leaves MEET where it is. -/
theorem does_nop (hi : exec i s = s.issue false bodyNop e) :
    Does i e s (fun b t => OnlyThread b t ∧ t.thr.pend = shrunk b ∧ SameRegs b t ∧ SameFlags b t) := by
  refine does_ok i hi _ rfl (fun hs hq => ?_)
  obtain ⟨honly, hpend, hflags, hl0, hl1, hregs⟩ := goes_put e s (atBody e s).thr.pc (atBody e s).thr.meet (atBody e s) hs hq rfl
  exact ⟨honly, hpend, ⟨hregs, hl0, hl1⟩, hflags⟩

theorem does_bra (hi : exec i s = s.issue false bodyBra e) : Does i e s (GoesTo (s.thr.pc + BitVec.ofInt 48 (4 * branchOff e))) := by
  refine does_goes hi (by rw [bodyBra, offTarget_atBody]) ?_
  simp only [State.jump]
  rw [Thread.backward_eq]

theorem does_jmp (hi : exec i s = s.issue false bodyJmp e) (h : regOff e (atBody e s) &&& 3 = 0) :
    Does i e s (GoesTo (s.thr.pc.extractLsb' 32 16 ++ regOff e (atBody e s))) := by
  refine does_goes hi (by rw [bodyJmp, jumpReg_aligned h]) ?_
  simp only [State.jump]
  rw [Thread.backward_eq]

theorem does_ret (hi : exec i s = s.issue false bodyRet e) (h : regOff e (atBody e s) &&& 3 = 0) (h0 : regOff e (atBody e s) ≠ 0) :
    Does i e s (GoesTo (s.thr.pc.extractLsb' 32 16 ++ regOff e (atBody e s))) :=
  does_goes hi (by rw [bodyRet, if_neg h0, jumpReg_aligned h]) rfl

theorem does_call (hi : exec i s = s.issue false bodyCall e) : Does i e s (Linked (s.thr.pc + BitVec.ofInt 48 (4 * branchOff e))) :=
  does_linked hi (by rw [bodyCall, offTarget_atBody])

theorem does_calli (hi : exec i s = s.issue false bodyCalli e) (h : regOff e (atBody e s) &&& 3 = 0)
    (hhome : inWindow s.thr.pc (s.thr.pc.toNat + len e) = true) :
    Does i e s (Linked (s.thr.pc.extractLsb' 32 16 ++ regOff e (atBody e s))) :=
  does_linked hi (by rw [bodyCalli, jumpReg_aligned h, pcOf_atBody]; simp only [hhome, if_true])

theorem does_meet (hi : exec i s = s.issue false bodyMeet e) : Does i e s (Meets (s.thr.pc + BitVec.ofInt 48 (4 * branchOff e))) :=
  does_meets hi (by rw [bodyMeet, offTarget_atBody])

theorem does_meetr (hi : exec i s = s.issue false bodyMeetr e) (h : code e e.a = 0xFF ∨ regOff e (atBody e s) &&& 3 = 0) :
    Does i e s (Meets (if code e e.a = 0xFF then 0xFFFFFFFFFFFF else s.thr.pc.extractLsb' 32 16 ++ regOff e (atBody e s))) := by
  refine does_meets hi ?_
  rw [bodyMeetr]
  by_cases hz : code e e.a = 0xFF
  · rw [if_pos hz, if_pos hz]
  · rw [if_neg hz, if_neg hz, jumpReg_aligned (h.resolve_left hz)]

end

/-- Settles O8: each transfer by its target and its link. -/
theorem controlTransfers : Obligations.ControlTransfers := by
  unfold Obligations.ControlTransfers
  refine ⟨fun x y s => ?taken, fun x y s => ?others⟩
  case taken =>
    exact ⟨does_bra rfl, does_bra rfl, does_jmp rfl, does_jmp rfl, does_call rfl, does_call rfl, does_calli rfl, does_calli rfl, does_ret rfl, does_ret rfl⟩
  case others =>
    refine ⟨does_nop rfl, does_nop rfl, does_meet rfl, does_meet rfl, does_meetr rfl, fun h => does_meetr rfl h⟩

end Sys2Proof.Claims
end

section
/-!
PROOFS. Words of the chapters (R20 to R24), and the state after reset (R309 to R319, R333, R338, R345, R347).
-/
namespace Sys2Proof.Claims
open Machine Bits Encoding

/-- Settles O56: each word string is decoded, and encoded again. -/
theorem wordsDecode : Obligations.WordsDecode := by
  unfold Obligations.WordsDecode
  decide

/-! ## Reset -/

/-- Every partition reads as a fresh one: the one checked out is that of device 0. -/
theorem reset_part (d p : Nat) : State.reset.part? d p = Part.fresh d p := by
  by_cases h : 0 = d ∧ 0 = p
  · obtain ⟨rfl, rfl⟩ := h; rfl
  · have hne : (decide ((Part.fresh 0 0).dev = d) && decide ((Part.fresh 0 0).pid = p)) = false := by
      rw [← Bool.decide_and]; exact decide_eq_false h
    simp only [State.part?, State.allParts, State.reset, List.find?, hne, Option.getD_none]

theorem reset_dev (d : Nat) : State.reset.dev? d = Device.fresh d := by
  by_cases h : 0 = d
  · subst h; rfl
  · have hne : decide ((Device.fresh 0).num = d) = false := decide_eq_false h
    simp only [State.dev?, State.allDevs, State.reset, List.find?, hne, Option.getD_none, State.idleDev]
    rfl

theorem reset_core (d n : Nat) : State.reset.core? d n = Core.fresh d n := by
  by_cases h : 0 = d ∧ 0 = n
  · obtain ⟨rfl, rfl⟩ := h; rfl
  · have hne : (decide ((Core.fresh 0 0).dev = d) && decide ((Core.fresh 0 0).num = n)) = false := by
      rw [← Bool.decide_and]; exact decide_eq_false h
    simp only [State.core?, State.allCores, State.reset, List.find?, hne, Option.getD_none]

/-- Every MSI-X vector of a fresh partition is masked. -/
theorem fresh_msix_masked (d p n : Nat) : ((Part.fresh d p).msixWord (4 * n + 3)).getLsbD 0 = true := by
  have h3 : (4 * n + 3) % 4 = 3 := by omega
  simp [Part.msixWord, Part.fresh, lookup, h3]

/-- Settles O58: the registers as written, and every object a fresh one. -/
theorem resetState : Obligations.ResetState := by
  unfold Obligations.ResetState
  refine ⟨rfl, rfl, rfl, rfl, rfl, rfl, rfl, rfl, rfl, fun n _ => fresh_msix_masked 0 0 n, rfl, rfl, rfl, rfl, rfl, reset_part, reset_dev, reset_core,
    ?threads, ?groups, ?launches, rfl, rfl, rfl, rfl⟩
  case threads => intro t ht; obtain rfl := List.mem_singleton.1 ht; rfl
  case groups => intro g hg; obtain rfl := List.mem_singleton.1 hg; rfl
  case launches => intro l hl; obtain rfl := List.mem_singleton.1 hl; rfl

end Sys2Proof.Claims
end

section
/-!
PROOFS. Guards, illegal instructions, software traps and the traps of an access (O52, O53, O54).
-/
namespace Sys2Proof.Claims
open Machine Bits Encoding

/-! ## Every instruction issues -/

/-- An instruction executes by issuing a body; only the cross-lane and pool instructions run it with a false guard too (R110). -/
theorem exec_issues {i : Instr} {e : Enc} (s : State) (hi : i.enc? = some e) :
    ∃ g body, exec i s = s.issue g body e ∧ (g = true → (0x90 ≤ e.op.toNat ∧ e.op.toNat ≤ 0x9F) ∨ e.op = 0xE4 ∨ e.op = 0xE5) := by
  cases i with
  | xperm x | xbcast x | xvote x | xred x | xscan x | xmatch x | xelect x | reggive x | regclaim x =>
    cases hi; exact ⟨true, _, rfl, fun _ => by rw [LX.enc_op]; decide⟩
  | _ => cases hi <;> exact ⟨false, _, rfl, nofun⟩

/-! ## Guards -/

/-- A skipped instruction moves the PC, and the windows of pending results count it (R21, R27). -/
theorem skip_eq {e : Enc} {s : State} (hr : s.thr.status = .ready) (hq : Quiet s) : s.skip e = { s with thr := { s.thr with
    pc := nextPc e s, pend := shrunk s, released := false, aged := false, readySince := s.dev.clk,
    progress := if s.thr.spin.low then s.thr.progress else s.dev.clk } } :=
  retire_ready s { s with thr := { s.thr with pc := nextPc e s } } rfl hr hq

theorem guard_always (t : Thread) (n : Bool) : t.guard 7 n = !n := by
  cases n <;> simp [Thread.guard, Thread.getQ]

/-- A reading of an older uniform value drops or keeps it. -/
theorem freshenFrom_stale (l : List (Nat × Word)) (s : State) : (freshenFrom l s).thr.stale ⊆ s.thr.stale := by
  induction l generalizing s with
  | nil => exact List.Subset.refl _
  | cons v vs ih =>
    simp only [freshenFrom]
    split
    · exact List.Subset.trans (ih _) List.erase_subset
    · exact ih _

/-- Settles O52: a false guard only skips, and the state of a body is `freshen` with the PC past the instruction. -/
theorem guardsAndBodies : Obligations.GuardsAndBodies := by
  intro i e s hi
  refine ⟨?skips, ⟨guard_always _ false, guard_always _ true, fun _ _ _ => rfl⟩, ?body⟩
  case skips =>
    intro hready hq hguard hcross hgive hclaim
    obtain ⟨g, body, hexec, hgather⟩ := exec_issues s hi
    have hg : g = false := by
      by_contra hne
      rcases hgather (by simpa using hne) with hop | hop | hop
      · omega
      · exact hgive hop
      · exact hclaim hop
    subst hg
    refine ⟨s.skip e, by rw [hexec, issue_skips hready hguard], ?_⟩
    rw [skip_eq hready.1 hq]
    exact ⟨rfl, rfl, rfl, rfl, rfl, rfl, rfl, ⟨rfl, rfl, rfl⟩, ⟨rfl, rfl, rfl, rfl⟩⟩
  case body =>
    refine ⟨?_, rfl, fun v hv => freshenFrom_stale _ _ hv, ?_⟩
    · simp [atBody, nextPc, freshen_pc]
    · simp only [atBody]
      rw [freshen_eq]

/-! ## Traps -/

/-- Settles O53: the checks of Table 2.10 come first, whatever the instruction, and deliver ILLEGAL. -/
theorem illegalInstructionTraps : Obligations.IllegalInstructionTraps := by
  intro i e s d hi hready hill htrap
  obtain ⟨g, body, hexec, -⟩ := exec_issues s hi
  refine ⟨_, ?_, deliverTrap_trapped htrap 1 d 0 (toWords e)⟩
  rw [hexec]
  simp [State.issue, hready, hill, causeIllegal]

/-- The instruction takes this trap at its place where it may be delivered. -/
def Takes (i : Instr) (e : Enc) (s : State) (cause : Nat) (d arg : Word) : Prop :=
  Ready e s → Quiet s → CanTrap s → ∃ t, exec i s = .next t ∧ Trapped cause d arg (toWords e) s t

theorem takes_of {g : Bool} {body : Body} {i : Instr} {e : Enc} {s : State} {cause : Nat} {d arg : Word} (hi : exec i s = s.issue g body e)
    (hb : body e (atBody e s) = .error (.trap cause d arg)) : Takes i e s cause d arg :=
  fun hr hq ht => issue_traps hi hr hq ht hb

/-! ## The checks of an access -/

theorem global_error {r : Req} {s : State} {st : Stop} (h : s.check r = .error st) : s.global r = .error st := by
  simp [State.global, h]

theorem check_unaligned {r : Req} {s : State} (h : r.va % r.size ≠ 0) :
    s.check r = .error (.trap 0x0C (addrDetail (Nat.log2 r.size) r.va) 0) := by
  simp [State.check, h, alignStop, causeAlign]

theorem check_upper {r : Req} {s : State} (ha : r.va % r.size = 0) (h : 2 ^ 56 ≤ r.va) :
    s.check r = .error (.trap 0x0E (xlateDetail 2 r.va) 0) := by
  rw [State.check, if_neg (not_not.mpr ha), State.checkMap, if_pos h]
  rfl

section
variable {r : Req} {s : State} {l : Xlat} (ha : r.va % r.size = 0) (hu : r.va < 2 ^ 56) (hl : s.translate r.va = .ok l)
include ha hu hl

theorem check_mapped : s.check r =
    if r.write && r.prot13 && (l.cls = 1 || l.cls = 3) then .error (.trap causeProt (addrDetail 1 r.va) 0)
    else if !(r.classes.contains l.cls) || (r.formatted && Pte.fmt l.entry = 0) then .error (.trap causeRegion (addrDetail l.cls r.va) 0)
    else if l.cls = 4 && !s.ownStack r.va then .error (s.stackStop r.va)
    else if (r.write && !Pte.write l.entry) || (!r.write && !Pte.read l.entry) then .error (.trap causeProt (addrDetail 0 r.va) 0)
    else if s.untagged l then .error (.park (r.va / 2 ^ 16) 15)
    else .ok l := by
  rw [State.check, if_neg (not_not.mpr ha), State.checkMap, if_neg (Nat.not_le.mpr hu), hl]

theorem check_readOnly (hp : r.prot13 = true) (hw : r.write = true) (hc : l.cls = 1 ∨ l.cls = 3) :
    s.check r = .error (.trap 0x0B (addrDetail 1 r.va) 0) := by
  rw [check_mapped ha hu hl]
  simp [hp, hw, hc, causeProt]

theorem check_class (hc : l.cls ∉ r.classes ∨ (r.formatted = true ∧ Pte.fmt l.entry = 0)) (hn : ¬(r.write = true ∧ (l.cls = 1 ∨ l.cls = 3))) :
    s.check r = .error (.trap 0x0D (addrDetail l.cls r.va) 0) := by
  have h1 : ¬(((r.write = true ∧ r.prot13 = true) ∧ (l.cls = 1 ∨ l.cls = 3))) := fun h => hn ⟨h.1.1, h.2⟩
  rw [check_mapped ha hu hl]
  simp [h1, hc, causeRegion]

theorem check_permission (hp : r.write = true → r.prot13 = true ∧ 1 ∉ r.classes ∧ 3 ∉ r.classes) (hc : l.cls ∈ r.classes)
    (hf : ¬(r.formatted = true ∧ Pte.fmt l.entry = 0)) (h4 : l.cls ≠ 4) (h : (if r.write then Pte.write l.entry else Pte.read l.entry) = false) :
    s.check r = .error (.trap 0x0B (addrDetail 0 r.va) 0) := by
  have h1 : ¬(r.write = true ∧ (l.cls = 1 ∨ l.cls = 3)) := by
    rintro ⟨hw, hc1 | hc3⟩
    · exact (hp hw).2.1 (hc1 ▸ hc)
    · exact (hp hw).2.2 (hc3 ▸ hc)
  have h2 : ¬(l.cls ∉ r.classes ∨ (r.formatted = true ∧ Pte.fmt l.entry = 0)) := fun hn => hn.elim (· hc) hf
  rw [check_mapped ha hu hl]
  cases hw : r.write with
  | false => simp [h2, show Pte.read l.entry = false by simpa [hw] using h, h4, causeProt]
  | true =>
    obtain ⟨h1, h3⟩ : l.cls ≠ 1 ∧ l.cls ≠ 3 := by simpa [hw] using h1
    simp [h1, h2, h3, show Pte.write l.entry = false by simpa [hw] using h, h4, causeProt]
end

/-- Each check of a global access (R156) has its instruction take the trap of Table 9.9. -/
theorem access_takes {i : Instr} {e : Enc} {s : State} {r : Req} {g : Bool} {body : Body} (hi : exec i s = s.issue g body e)
    (hb : ∀ st, (atBody e s).global r = .error st → body e (atBody e s) = .error st)
    (hp : r.write = true → r.prot13 = true ∧ 1 ∉ r.classes ∧ 3 ∉ r.classes) :
    let fails := fun (cause : Nat) (d : Word) => Takes i e s cause d 0
    let at_ := fun (kind : Nat) => BitVec.ofNat 32 (kind * 2 ^ 28 + r.va % 2 ^ 28)
    let refused := fun (l : Xlat) => r.formatted = true ∧ Pte.fmt l.entry = 0
    (r.va % r.size ≠ 0 → fails 0x0C (at_ (Nat.log2 r.size)))
    ∧ (r.va % r.size = 0 → 2 ^ 56 ≤ r.va → fails 0x0E (BitVec.ofNat 32 (2 * 2 ^ 28 + field r.va 43 16)))
    ∧ ∀ l, r.va % r.size = 0 → r.va < 2 ^ 56 → (atBody e s).translate r.va = .ok l →
        (r.write = true → l.cls = 1 ∨ l.cls = 3 → fails 0x0B (at_ 1))
        ∧ (l.cls ∉ r.classes ∨ refused l → ¬(r.write = true ∧ (l.cls = 1 ∨ l.cls = 3)) → fails 0x0D (at_ l.cls))
        ∧ (l.cls ∈ r.classes → ¬ refused l → l.cls ≠ 4 → (if r.write then Pte.write l.entry else Pte.read l.entry) = false → fails 0x0B (at_ 0)) := by
  have takes {cause : Nat} {d : Word} (h : (atBody e s).check r = .error (.trap cause d 0)) : Takes i e s cause d 0 :=
    takes_of hi (hb _ (global_error h))
  exact ⟨fun h => takes (check_unaligned h), fun ha h => takes (check_upper ha h), fun l ha hu hl =>
    ⟨fun hw hc => takes (check_readOnly ha hu hl (hp hw).1 hw hc), fun hc hn => takes (check_class ha hu hl hc hn),
      fun hc hf h4 h => takes (check_permission ha hu hl hp hc hf h4 h)⟩⟩

theorem scratchOff_mod (off : Nat) : off % 1048576 % 268435456 = off % 1048576 := by omega

theorem checkScratch_unaligned {s : State} {off size : Nat} (h : off % size ≠ 0) :
    s.checkScratch off size = .error (.trap 0x0C (BitVec.ofNat 32 (Nat.log2 size * 2 ^ 28 + off % 2 ^ 20)) 0) := by
  simp [State.checkScratch, h, causeAlign, addrDetail, scratchOff_mod]

theorem checkScratch_outside {s : State} {off size : Nat} (ha : off % size = 0) (h : s.grp.scratchSize < off + size) :
    s.checkScratch off size = .error (.trap 0x0B (BitVec.ofNat 32 (3 * 2 ^ 28 + off % 2 ^ 20)) 0) := by
  simp [State.checkScratch, ha, h, causeProt, addrDetail, scratchOff_mod]

theorem scratch_takes {i : Instr} {e : Enc} {s : State} {g : Bool} {body : Body} (hi : exec i s = s.issue g body e)
    (hb : ∀ st, (atBody e s).checkScratch ((atBody e s).scratchAddr e) (memSize e) = .error st → body e (atBody e s) = .error st) :
    let off := (atBody e s).scratchAddr e
    let at_ := fun (kind : Nat) => BitVec.ofNat 32 (kind * 2 ^ 28 + off % 2 ^ 20)
    (off % memSize e ≠ 0 → Takes i e s 0x0C (at_ (Nat.log2 (memSize e))) 0)
    ∧ (off % memSize e = 0 → s.grp.scratchSize < off + memSize e → Takes i e s 0x0B (at_ 3) 0) :=
  ⟨fun h => takes_of hi (hb _ (checkScratch_unaligned h)), fun ha h => takes_of hi (hb _ (checkScratch_outside ha (by rwa [atBody_grp])))⟩

theorem bodyLd_refused (e : Enc) (b : State) (st : Stop) (h : b.global (loadReq e b) = .error st) : bodyLd e b = .error st := by
  simp only [loadReq] at h; simp [bodyLd, h]
theorem bodySt_refused (e : Enc) (b : State) (st : Stop) (h : b.global (storeReq e b) = .error st) : bodySt e b = .error st := by
  simp only [storeReq] at h; simp [bodySt, h]
theorem bodyLdf_refused (e : Enc) (b : State) (st : Stop)
    (h : b.global { va := b.globalAddr e, size := 1, write := false, classes := [0, 1, 3], prot13 := false, formatted := true } = .error st) :
    bodyLdf e b = .error st := by
  simp [bodyLdf, h]
theorem bodyLds_refused (e : Enc) (b : State) (st : Stop) (h : b.checkScratch (b.scratchAddr e) (memSize e) = .error st) : bodyLds e b = .error st := by
  simp [bodyLds, h]
theorem bodySts_refused (e : Enc) (b : State) (st : Stop) (h : b.checkScratch (b.scratchAddr e) (memSize e) = .error st) : bodySts e b = .error st := by
  simp [bodySts, h]

/-- A load writes nothing: the clause about stores does not apply. -/
theorem load_prot (e : Enc) (b : State) : (loadReq e b).write = true → (loadReq e b).prot13 = true ∧ 1 ∉ (loadReq e b).classes ∧ 3 ∉ (loadReq e b).classes := nofun
theorem store_prot (e : Enc) (b : State) : (storeReq e b).write = true → (storeReq e b).prot13 = true ∧ 1 ∉ (storeReq e b).classes ∧ 3 ∉ (storeReq e b).classes :=
  fun _ => ⟨rfl, by simp [storeReq], by simp [storeReq]⟩

/-- Settles O54: the bodies of `trap` and `brk` answer their trap, and each access answers that of the first check that fails. -/
theorem softwareAndAccessTraps : Obligations.SoftwareAndAccessTraps := by
  intro x y s
  refine ⟨takes_of (i := .trapS y) rfl rfl, takes_of (i := .trapL x) rfl rfl, takes_of (i := .trapX x) rfl rfl,
    takes_of (i := .brkS y) rfl rfl, takes_of (i := .brkL x) rfl rfl,
    access_takes (i := .ldS y) rfl (bodyLd_refused _ _) (load_prot _ _), access_takes (i := .ldLX x) rfl (bodyLd_refused _ _) (load_prot _ _),
    access_takes (i := .stS y) rfl (bodySt_refused _ _) (store_prot _ _), access_takes (i := .stLX x) rfl (bodySt_refused _ _) (store_prot _ _),
    access_takes (i := .ldf x) rfl (bodyLdf_refused _ _) nofun,
    scratch_takes (i := .ldsS y) rfl (bodyLds_refused _ _), scratch_takes (i := .ldsLX x) rfl (bodyLds_refused _ _),
    scratch_takes (i := .stsS y) rfl (bodySts_refused _ _), scratch_takes (i := .stsLX x) rfl (bodySts_refused _ _)⟩

end Sys2Proof.Claims
end

section
/-!
PROOFS. What an access leaves that completes at once, and the loads and stores of the own device (O10, O11).
-/
namespace Sys2Proof.Claims
open Machine Bits Encoding

theorem SEnc.enc_op (y : SEnc) (op : BitVec 8) : (y.enc op).op = op := rfl

/-- An effect that follows in the state the body reads. -/
theorem Does.imp_at {i : Instr} {e : Enc} {s : State} {P Q : State → State → Prop} (h : Does i e s P)
    (hPQ : ∀ t, P (atBody e s) t → Q (atBody e s) t) : Does i e s Q :=
  fun hr hq => let ⟨t, ht, hp⟩ := h hr hq; ⟨t, ht, hPQ t hp⟩

/-! ## An instruction that goes on -/

/-- The checked-out thread of `s1` is that of the state `b` a body reads, with results `ps` pending besides: its place, registers and flags are the same. -/
def Onward (ps : List Pending) (b s1 : State) : Prop :=
  s1.thr.key = b.thr.key ∧ s1.thr.status = b.thr.status ∧ s1.thr.pend = b.thr.pend ++ ps ∧ s1.thr.pc = b.thr.pc ∧ s1.thr.meet = b.thr.meet
    ∧ SameRegs b s1 ∧ SameFlags b s1

/-- What retiring leaves of a thread: its windows, its marks of progress and since when it is Ready may differ. -/
def RetiredAs (t u : Thread) : Prop :=
  u = { t with pend := u.pend, released := u.released, aged := u.aged, readySince := u.readySince, progress := u.progress }

theorem RetiredAs.unacked {t u : Thread} (h : RetiredAs t u) : u.unacked = t.unacked := by rw [h]
theorem RetiredAs.fenced {t u : Thread} (h : RetiredAs t u) : u.fenced = t.fenced := by rw [h]
theorem RetiredAs.key {t u : Thread} (h : RetiredAs t u) : u.key = t.key := by rw [h]

theorem onward_refl (b : State) : Onward [] b b := ⟨rfl, rfl, (List.append_nil _).symm, rfl, rfl, ⟨rfl, rfl, rfl⟩, ⟨rfl, rfl, rfl, rfl⟩⟩

theorem Onward.congr {ps : List Pending} {b s1 s2 : State} (h : Onward ps b s1) (ht : s2.thr = s1.thr) : Onward ps b s2 := by
  obtain ⟨hkey, hstatus, hpend, hpc, hmeet, hregs, hflags⟩ := h
  refine ⟨by rw [ht, hkey], by rw [ht, hstatus], by rw [ht, hpend], by rw [ht, hpc], by rw [ht, hmeet], ?_, ?_⟩
  · simpa only [SameRegs, ht] using hregs
  · simpa only [SameFlags, FlagsAre, ht] using hflags

/-- An instruction completes whose body leaves its thread Ready, with new results pending besides. -/
theorem does_ready {i : Instr} {e : Enc} {s s1 : State} {g : Bool} {body : Body} {ps : List Pending} {P : State → State → Prop}
    (hi : exec i s = s.issue g body e) (hb : body e (atBody e s) = .ok s1) (hkey : s1.thr.key = (atBody e s).thr.key)
    (hstatus : s1.thr.status = (atBody e s).thr.status) (hpend : s1.thr.pend = (atBody e s).thr.pend ++ ps)
    (hps : ∀ p ∈ ps, p.arrived = false ∧ s.nextId ≤ p.serial)
    (hP : ∀ u, u.status = .ready → u.pend = shrunk (atBody e s) ++ ps → RetiredAs s1.thr u → P (atBody e s) (withThread u s1)) : Does i e s P := by
  refine does_ok i hi _ hb (fun hs hq => ?_)
  rw [atBody_key] at hkey
  rw [atBody_status, hs] at hstatus
  have hquiet : s1.thr.pend.all (fun p => !p.arrived) = true := by
    rw [hpend, atBody_pend, List.all_append, Bool.and_eq_true]
    exact ⟨hq, List.all_eq_true.2 (fun p hp => by simp [(hps p hp).1])⟩
  have hnew : ps.map (fun p => if p.serial < s.nextId then { p with win := p.win - 1 } else p) = ps := by
    conv => rhs; rw [← List.map_id ps]
    exact List.map_congr_left (fun p hp => if_neg (Nat.not_lt.2 (hps p hp).2))
  rw [retire_next hkey hstatus hquiet]
  refine hP _ hstatus ?_ rfl
  rw [hpend, List.map_append, hnew]
  simp [shrunk]

/-- An instruction goes on whose body leaves its thread as it was but for new results pending. -/
theorem does_continues {i : Instr} {e : Enc} {s s1 : State} {g : Bool} {body : Body} {ps : List Pending} {P : State → State → Prop}
    (hi : exec i s = s.issue g body e) (hb : body e (atBody e s) = .ok s1) (h : Onward ps (atBody e s) s1)
    (hps : ∀ p ∈ ps, p.arrived = false ∧ s.nextId ≤ p.serial)
    (hP : ∀ u, Continues (atBody e s) (withThread u s1) → u.pend = shrunk (atBody e s) ++ ps → RetiredAs s1.thr u → P (atBody e s) (withThread u s1)) :
    Does i e s P := by
  obtain ⟨hkey, hstatus, hpend, hpc, hmeet, ⟨hregs, hl0, hl1⟩, hqs, hcc, hfp, hsli⟩ := h
  refine does_ready hi hb hkey hstatus hpend hps (fun u hready hu hret => hP u ?_ hu hret)
  rw [RetiredAs] at hret
  refine ⟨hready, ?_, ?_, ⟨?_, ?_, ?_⟩, ?_, ?_, ?_, ?_⟩ <;> rw [withThread_thr, hret] <;> assumption

theorem onward_later {e : Enc} {b s1 : State} (vals : List Word) (n : Nat) (fp : BitVec 5) (acq canFp : Bool) (h : s1.thr = b.thr) :
    Onward [{ loadPending e n 0 acq fp canFp s1 with vals := vals }] b (s1.later e vals n fp 0 false acq false canFp) := by
  refine Onward.congr (s1 := { s1 with thr := { s1.thr with pend := s1.thr.pend ++ [{ loadPending e n 0 acq fp canFp s1 with vals := vals }] } }) ?_ rfl
  simp only [Onward, SameRegs, SameFlags, FlagsAre, h, and_self]

theorem onward_laterM {e : Enc} {b s1 : State} (n v : Nat) (acq : Bool) (fp : BitVec 5) (h : s1.thr = b.thr) (hid : s1.nextId = b.nextId) :
    Onward [loadPending e n v acq fp (e.op = 0x74) b] b (s1.laterM e n v acq fp) := by
  have hp : loadPending e n v acq fp (e.op = 0x74) b = { loadPending e n 0 acq fp (e.op = 0x74) s1 with vals := words n v } := by
    simp only [loadPending, hid]
  rw [hp]
  exact onward_later (words n v) n fp acq (e.op = 0x74) h

theorem loadPending_new (e : Enc) (n v : Nat) (acq : Bool) (fp : BitVec 5) (canFp : Bool) (s : State) :
    ∀ p ∈ [loadPending e n v acq fp canFp (atBody e s)], p.arrived = false ∧ s.nextId ≤ p.serial := by
  simp [loadPending]

/-! ## Loads (R154, R155, R157) -/

/-- A load that reads memory leaves its value pending; the accessed bit apart, memory is unchanged, and so are the bytes the group has staged. -/
def LoadsOf (e : Enc) (s1 : State) (k : Nat) (acq : Bool) (b t : State) : Prop :=
  Continues b t ∧ t.mem = s1.mem ∧ t.grp.staged = b.grp.staged ∧ t.grp.scratch = b.grp.scratch
    ∧ t.thr.pend = shrunk b ++ [loadPending e (memN e) (loadExt e (numberSeen s1 k (memSize e))) acq 0 false b]

/-- A shared or acquire load where it performs: the home's bytes under what the group has staged. -/
def loadNow (e : Enc) (l : Xlat) (s : State) : Except Stop (List Word × State) :=
  match s.load l (memSize e) false with
  | .error st => .error st
  | .ok (v, s) => .ok (words (memN e) (loadExt e v), s)

section
variable {i : Instr} {e : Enc} {s s1 s2 : State} {l : Xlat} {r : Req} {g : Bool} {body : Body} (hi : exec i s = s.issue g body e)
  (hg : (atBody e s).global r = .ok (l, s1)) (hp : s1.poisoned l.key (memSize e) = false)
include hi hg hp

/-- A plain load that no cached line answers. -/
theorem does_loads_plain (hop : ¬ e.op = 0x74) {va : Nat} (hrace : s1.raceIf l va false = .ok s2) (hu : Uncached l s1)
    (hb : ∀ v s3, s2.load l (memSize e) true = .ok (v, s3) → body e (atBody e s) = .ok (s3.laterM e (memN e) (loadExt e v) false 0)) :
    Does i e s (LoadsOf e s1 l.key false) := by
  obtain ⟨hthr1, hgrp1, hid1, -⟩ := global_facts hg
  have hrace' := raceIf_eq hrace
  have hp2 : s2.poisoned l.key (memSize e) = false := by rw [hrace']; exact hp
  have hu2 : Uncached l s2 := by rw [hrace']; exact hu
  have hseen : numberSeen s2 l.key (memSize e) = numberSeen s1 l.key (memSize e) := by rw [hrace']; rfl
  obtain ⟨s3, hload⟩ := load_uncached hp2 hu2
  have hs3 := State.load_eq hload
  have hthr3 : s3.thr = (atBody e s).thr := by rw [hs3, hrace']; exact hthr1
  have hid3 : s3.nextId = (atBody e s).nextId := by rw [hs3, hrace']; exact hid1
  have hon := onward_laterM (e := e) (memN e) (loadExt e (numberSeen s2 l.key (memSize e))) false 0 hthr3 hid3
  rw [decide_eq_false hop, hseen] at hon
  have hbody := hb _ s3 hload
  rw [hseen] at hbody
  refine does_continues hi hbody hon (loadPending_new _ _ _ _ _ _ _) (fun u hcont hpend _ => ⟨hcont, ?_, ?_, ?_, hpend⟩)
  · show s3.mem = s1.mem; rw [hs3, hrace']
  · show s3.grp.staged = _; rw [hs3, hrace', ← hgrp1]
  · show s3.grp.scratch = _; rw [hs3, hrace', ← hgrp1]

/-- A shared or acquire load reads the home and enters the published-write log (R146). -/
theorem does_loads_shared (hrun : FirstRun s1) {va : Nat}
    (hb : ∀ ret s2, s1.publish (pubOp e) va [] (loadNow e l) = .ok (ret, s2) →
      body e (atBody e s) = .ok (s2.later e ret (memN e) 0 0 false (memAcq e) false false)) :
    Does i e s (fun b t => LoadsOf e s1 l.key (memAcq e) b t
      ∧ t.grp.log = b.grp.log ++ [⟨b.thr.key.tid, pubOp e, va, [], words (memN e) (loadExt e (numberSeen s1 l.key (memSize e))), 0⟩]) := by
  obtain ⟨hthr1, hgrp1, hid1, -⟩ := global_facts hg
  have hload : s1.load l (memSize e) false = .ok (numberSeen s1 l.key (memSize e), s1) := by
    simp [State.load, hp, overlay_map, numberSeen, seen]
  have hact : loadNow e l s1 = .ok (words (memN e) (loadExt e (numberSeen s1 l.key (memSize e))), s1) := by simp only [loadNow, hload]
  have hpub := publish_withEntry (e := e) (addr := va) (operand := []) hrun hact
  have hon := onward_later (e := e) (b := atBody e s) (s1 := withEntry e va [] (words (memN e) (loadExt e (numberSeen s1 l.key (memSize e)))) s1 s1)
    (words (memN e) (loadExt e (numberSeen s1 l.key (memSize e)))) (memN e) 0 (memAcq e) false hthr1
  have hpending : ({ loadPending e (memN e) 0 (memAcq e) 0 false (withEntry e va [] (words (memN e) (loadExt e (numberSeen s1 l.key (memSize e)))) s1 s1)
      with vals := words (memN e) (loadExt e (numberSeen s1 l.key (memSize e))) } : Pending)
      = loadPending e (memN e) (loadExt e (numberSeen s1 l.key (memSize e))) (memAcq e) 0 false (atBody e s) := by
    simp only [loadPending, withEntry, hid1]
  rw [hpending] at hon
  refine does_continues hi (hb _ _ hpub) hon (loadPending_new _ _ _ _ _ _ _) (fun u hcont hpend _ => ⟨⟨hcont, ?_, ?_, ?_, hpend⟩, ?_⟩)
  · rfl
  · show s1.grp.staged = _; rw [hgrp1]
  · show s1.grp.scratch = _; rw [hgrp1]
  · simp [hgrp1, hthr1]
end

theorem bodyLd_plain {e : Enc} {b s1 s2 s3 : State} {l : Xlat} {v : Nat} (hg : b.global (loadReq e b) = .ok (l, s1)) (hc : l.cls ≠ 2) (ho : memOrder e = 0)
    (hrace : s1.raceIf l (b.globalAddr e) false = .ok s2) (hload : s2.load l (memSize e) true = .ok (v, s3)) :
    bodyLd e b = .ok (s3.laterM e (memN e) (loadExt e v) false 0) := by
  simp only [loadReq] at hg
  simp [bodyLd, hg, hc, ho, hrace, hload]

theorem bodyLd_shared {e : Enc} {b s1 s2 : State} {l : Xlat} {ret : List Word} (hg : b.global (loadReq e b) = .ok (l, s1)) (hc : l.cls ≠ 2) (ho : memOrder e ≠ 0)
    (hpub : s1.publish (pubOp e) (b.globalAddr e) [] (loadNow e l) = .ok (ret, s2)) :
    bodyLd e b = .ok (s2.later e ret (memN e) 0 0 false (memAcq e) false false) := by
  simp only [loadReq] at hg
  have hbody : bodyLd e b = match s1.publish (pubOp e) (b.globalAddr e) [] (loadNow e l) with
      | .error st => .error st
      | .ok (ret, s2) => .ok (s2.later e ret (memN e) 0 0 false (memAcq e) false false) := by
    simp only [bodyLd, hg, hc, ho, if_false] <;> rfl
  rw [hbody, hpub]

theorem memAcq_plain {e : Enc} (h : memOrder e = 0) : memAcq e = false := by simp [memAcq, h]

/-! ## Scratchpad accesses (R132, R154, R157) -/

theorem bodyLds_reads {e : Enc} {b : State} (h : b.checkScratch (b.scratchAddr e) (memSize e) = .ok ()) :
    bodyLds e b = .ok (b.laterM e (memN e) (loadExt e (Mem.nat b.grp.scratch (b.scratchAddr e) (memSize e))) (memAcq e) 0) := by
  simp [bodyLds, h]

theorem does_lds {i : Instr} {e : Enc} {s : State} {g : Bool} (hi : exec i s = s.issue g bodyLds e) (hop : ¬ e.op = 0x74)
    (h : (atBody e s).checkScratch ((atBody e s).scratchAddr e) (memSize e) = .ok ()) :
    Does i e s (fun b t => Leaves (loadPending e (memN e) (loadExt e (Mem.nat b.grp.scratch (b.scratchAddr e) (memSize e)))
      (memAcq e) 0 false b) b t) := by
  refine does_ok i hi _ (bodyLds_reads h) (fun hs hq => ?_)
  have hfp : decide (e.op = 0x74) = false := decide_eq_false hop
  rw [State.laterM, hfp]
  exact later_leaves _ (memN e) 0 0 false (memAcq e) false false hs hq

/-- A scratchpad store keeps an undo copy and changes the bytes it names alone. -/
theorem sts_facts (g : Group) (off : Nat) (bs : List Byte) : (g.sts off bs).staged = g.staged ∧ Written off bs g.scratch (g.sts off bs).scratch := by
  obtain ⟨hscratch, hstaged⟩ := undoRange_scratch g off bs.length
  refine ⟨hstaged, fun a => ?_⟩
  simp only [Group.sts, hscratch]
  exact Mem.get_write ..

/-- A state with other flush markers and another mark of a fence of its thread. -/
def marked (m : Option (Nat × List (Nat × Nat))) (f : Bool) (s : State) : State := { s with thr := { s.thr with markers := m, fenced := f } }

theorem release_marked {scope : Nat} {s : State} (h : s.released scope = true) : ∃ m, s.release scope = .ok (marked m s.thr.fenced s) := by
  rw [release_eq h]
  split
  · exact ⟨s.thr.markers, rfl⟩
  · exact ⟨none, rfl⟩

/-- The release side of a store, where it has one. -/
theorem releaseIf_marked {c : Prop} [Decidable c] {scope : Nat} {s : State} (h : c → s.released scope = true) :
    ∃ m, (if c then s.release scope else .ok s) = .ok (marked m s.thr.fenced s) := by
  split
  · next hc => exact release_marked (h hc)
  · exact ⟨s.thr.markers, rfl⟩

theorem onward_marked (b : State) (m : Option (Nat × List (Nat × Nat))) (f : Bool) : Onward [] b (marked m f b) :=
  ⟨rfl, rfl, (List.append_nil _).symm, rfl, rfl, ⟨rfl, rfl, rfl⟩, ⟨rfl, rfl, rfl, rfl⟩⟩

theorem does_sts {i : Instr} {e : Enc} {s : State} {g : Bool} (hi : exec i s = s.issue g bodySts e)
    (h : (atBody e s).checkScratch ((atBody e s).scratchAddr e) (memSize e) = .ok ())
    (hrel : memOrder e = 2 → (atBody e s).released (memScope e) = true) :
    Does i e s (fun b t => Continues b t ∧ t.thr.pend = shrunk b ∧ t.mem = b.mem ∧ t.grp.staged = b.grp.staged
      ∧ Written (b.scratchAddr e) (b.storeBytes e) b.grp.scratch t.grp.scratch) := by
  obtain ⟨m, hm⟩ := releaseIf_marked hrel
  obtain ⟨hstaged, hwritten⟩ := sts_facts (atBody e s).grp ((atBody e s).scratchAddr e) ((atBody e s).storeBytes e)
  refine does_continues (ps := []) hi (s1 := { marked m (atBody e s).thr.fenced (atBody e s) with grp := (atBody e s).grp.sts ((atBody e s).scratchAddr e) ((atBody e s).storeBytes e) }) ?body
    ((onward_marked _ m _).congr rfl) (by simp) (fun u hcont hpend _ => ⟨hcont, by simpa using hpend, rfl, hstaged, hwritten⟩)
  simp only [bodySts, h, hm] <;> rfl

/-- Settles O10: loads by whether they are plain, scratchpad accesses by their bodies. -/
theorem loadsAndScratchpad : Obligations.LoadsAndScratchpad := by
  have load {i : Instr} {e : Enc} {s s1 s2 : State} {l : Xlat} (hi : exec i s = s.issue false bodyLd e) (hop : ¬ e.op = 0x74)
      (hg : (atBody e s).global (loadReq e (atBody e s)) = .ok (l, s1)) (hc : l.cls ≠ 2) (hp : s1.poisoned l.key (memSize e) = false)
      (h : if memOrder e = 0 then Uncached l s1 ∧ s1.raceIf l ((atBody e s).globalAddr e) false = .ok s2 else FirstRun s1) :
      Does i e s (fun b t => Continues b t ∧ t.mem = s1.mem ∧ t.grp.staged = b.grp.staged ∧ t.grp.scratch = b.grp.scratch
        ∧ t.thr.pend = shrunk b ++ [loadPending e (memN e) (loadExt e (numberSeen s1 l.key (memSize e))) (memAcq e) 0 false b]
        ∧ (memOrder e ≠ 0 → t.grp.log = b.grp.log ++ [⟨b.thr.key.tid, pubOp e, b.globalAddr e, [],
            words (memN e) (loadExt e (numberSeen s1 l.key (memSize e))), 0⟩])) := by
    by_cases ho : memOrder e = 0
    · rw [if_pos ho] at h
      refine (does_loads_plain hi hg hp hop h.2 h.1 (fun v s3 hload => bodyLd_plain hg hc ho h.2 hload)).imp ?_
      rintro b t ⟨hcont, hmem, hstaged, hscratch, hpend⟩
      exact ⟨hcont, hmem, hstaged, hscratch, by rw [memAcq_plain ho]; exact hpend, fun hne => absurd ho hne⟩
    · rw [if_neg ho] at h
      refine (does_loads_shared hi hg hp h (fun ret s2 hpub => bodyLd_shared hg hc ho hpub)).imp_at ?_
      rintro t ⟨⟨hcont, hmem, hstaged, hscratch, hpend⟩, hlog⟩
      exact ⟨hcont, hmem, hstaged, hscratch, hpend, fun _ => hlog⟩
  refine ⟨fun x y s => ⟨fun l s1 s2 hg hc hp h => load rfl (by rw [SEnc.enc_op]; decide) hg hc hp h, fun l s1 s2 hg hc hp h => load rfl (by rw [LX.enc_op]; decide) hg hc hp h⟩,
    fun x y s => ⟨does_lds rfl (by rw [SEnc.enc_op]; decide), does_lds rfl (by rw [LX.enc_op]; decide), does_sts rfl, does_sts rfl⟩⟩

/-! ## Stores (R119, R120, R130, R157) -/

/-- A store leaves its thread but for its unacknowledged stores, its flush markers and its mark of a fence. -/
theorem onward_of_thr {b s1 : State} {us : List Unacked} {m : Option (Nat × List (Nat × Nat))} {f : Bool}
    (h : s1.thr = { b.thr with unacked := us, markers := m, fenced := f }) : Onward [] b s1 := by
  simp only [Onward, SameRegs, SameFlags, FlagsAre, h, List.append_nil, and_self]

/-- A plain store that is staged. -/
theorem does_stores_staged {i : Instr} {e : Enc} {s s1 s2 : State} {g : Bool} {l : Xlat} (hi : exec i s = s.issue g bodySt e) (ho : memOrder e = 0)
    (hg : (atBody e s).global (storeReq e (atBody e s)) = .ok (l, s1)) (hc : l.cls = 0 ∨ l.cls = 4)
    (hrace : s1.raceIf l ((atBody e s).globalAddr e) true = .ok s2) (hearly : (atBody e s).grp.early = false)
    (hroom : (atBody e s).grp.stagedVa.length < 16384) :
    Does i e s (fun b t => Continues b t ∧ Stored l.key (b.storeBytes e) s1 t ∧ t.mem = s1.mem ∧ t.grp.scratch = b.grp.scratch
      ∧ t.thr.pend = shrunk b ∧ t.thr.unacked = b.thr.unacked ++ [⟨b.nextId, b.grp.dev, 0⟩]) := by
  obtain ⟨hthr1, hgrp1, hid1, -⟩ := global_facts hg
  have hrace' := raceIf_eq hrace
  have hearly2 : s2.grp.early = false := by rw [hrace']; rw [← hgrp1] at hearly; exact hearly
  have hroom2 : s2.grp.stagedVa.length < 16384 := by rw [hrace']; rw [← hgrp1] at hroom; exact hroom
  obtain ⟨s3, hstage, hthr3, hmem3, hid3, hstaged3, hdev3, hscratch3⟩ : ∃ t, s2.stagePlain l.key ((atBody e s).globalAddr e) ((atBody e s).storeBytes e) = .ok t
      ∧ t.thr = s2.thr ∧ t.mem = s2.mem ∧ t.nextId = s2.nextId ∧ t.grp.staged = stageBytes s2.grp.staged l.key ((atBody e s).storeBytes e)
      ∧ t.grp.dev = s2.grp.dev ∧ t.grp.scratch = s2.grp.scratch := by
    have hquota : (!(lookup (l.key / 64) s2.grp.stagedVa).isSome && decide (s2.grp.stagedVa.length ≥ 16384)) = false := by simp [Nat.not_le.2 hroom2]
    simp only [State.stagePlain, hearly2, hquota, Bool.false_eq_true, if_false]
    exact ⟨_, rfl, rfl, rfl, rfl, rfl, rfl, rfl⟩
  have hbody : bodySt e (atBody e s) = .ok (s3.addUnacked s3.grp.dev 0) := by
    have h2 : l.cls ≠ 2 := by omega
    have h5 : l.cls ≠ 5 := by omega
    simp only [storeReq] at hg
    simp [bodySt, hg, ho, storePlain, h2, h5, hrace, hstage, Except.map]
  have hthr : s3.thr = (atBody e s).thr := by rw [hthr3, hrace']; exact hthr1
  have hunacked : (s3.addUnacked s3.grp.dev 0).thr = { (atBody e s).thr with unacked := (atBody e s).thr.unacked ++ [⟨(atBody e s).nextId, (atBody e s).grp.dev, 0⟩] } := by
    have hid : s3.nextId = (atBody e s).nextId := by rw [hid3, hrace']; exact hid1
    have hdev : s3.grp.dev = (atBody e s).grp.dev := by rw [hdev3, hrace', ← hgrp1]
    rw [addUnacked_thr, hthr, hid, hdev]
  have hmem : s3.mem = s1.mem := by rw [hmem3, hrace']
  refine does_continues (ps := []) hi hbody (onward_of_thr hunacked) (by simp) (fun u hcont hpend hu => ⟨hcont, ?stored, hmem, ?scratch, by simpa using hpend, ?unacked⟩)
  case stored => exact stored_of_staged (by show s3.grp.staged = _; rw [hstaged3, hrace']) hmem
  case scratch => show s3.grp.scratch = _; rw [hscratch3, hrace', ← hgrp1]
  case unacked => rw [withThread_thr, hu.unacked, hunacked]

/-- With nothing staged, an early commit makes nothing visible. -/
theorem commitEarly_empty {s : State} (hsh : s.grp.shadow = 0) (hst : s.grp.staged = []) (hva : s.grp.stagedVa = []) : ∃ ps, s.commitEarly = .ok { s with
    poison := ps, grp := { s.grp with early := true, sampled := false, staged := [], stagedVa := [], stagedStamps := [] } } := by
  refine ⟨(s.clearPoison []).poison, ?_⟩
  simp [State.commitEarly, State.unprepared, State.commitNow, State.commitStaged, State.performCells, State.clearPoison, hsh, hst, hva]

/-- The checked-out group has staged nothing and is no auditor's re-run, and no mailbox holds the address. -/
def Unstaged (va : Nat) (s : State) : Prop :=
  s.grp.shadow = 0 ∧ s.grp.staged = [] ∧ s.grp.stagedVa = [] ∧ s.part.mailboxOf va = none

/-- What a store at its home leaves: its bytes in memory, and the thread's store unacknowledged. -/
def StoredAtHome (k : Nat) (bs : List Byte) (s t : State) : Prop :=
  t.thr = { s.thr with unacked := s.thr.unacked ++ [⟨s.nextId, s.grp.dev, 0⟩] } ∧ Written k bs s.mem t.mem ∧ t.grp.staged = [] ∧ t.grp.scratch = s.grp.scratch
    ∧ t.grp.log = s.grp.log

theorem written_write (m : List Host.Cell) (k : Nat) (bs : List Byte) : Written k bs m (Mem.write m k bs) := fun _ => Mem.get_write ..

/-- A store to a mailbox page performs at once (R130). -/
theorem mailboxStore_performs {key va : Nat} {bs : List Byte} {s : State} (h : Unstaged va s) :
    ∃ t, s.mailboxStore key va bs = .ok t ∧ StoredAtHome key bs s (t.addUnacked t.grp.dev 0) := by
  obtain ⟨hsh, hst, hva, hbox⟩ := h
  obtain ⟨ps, hcommit⟩ := commitEarly_empty hsh hst hva
  have hstore : s.mailboxStore key va bs = .ok (State.perform key bs { s with
      poison := ps, grp := { s.grp with early := true, sampled := false, staged := [], stagedVa := [], stagedStamps := [] } }) := by
    rw [State.mailboxStore, hcommit]
    exact congrArg Except.ok (mailboxWrite_outside hbox)
  exact ⟨_, hstore, rfl, written_write _ _ _, rfl, rfl, rfl⟩

theorem storeNow_performs {x : Xlat} {va : Nat} {bs : List Byte} {s : State} (hc : x.cls ≠ 2) (h : Unstaged va s) :
    ∃ t, storeNow x va bs s = .ok ([0], t) ∧ StoredAtHome x.key bs s t := by
  by_cases h5 : x.cls = 5
  · obtain ⟨t, ht, hstored⟩ := mailboxStore_performs (key := x.key) (bs := bs) h
    exact ⟨_, by simp [storeNow, h5, ht, Except.map], hstored⟩
  · have hnow : storeNow x va bs s = .ok ([0], (s.perform x.key bs).addUnacked s.grp.dev 0) := by rw [storeNow, if_neg hc, if_neg h5]
    exact ⟨_, hnow, rfl, written_write _ _ _, h.2.1, rfl, rfl⟩

/-- With nothing staged, the publishing rule only forgets the fence. -/
theorem publishRule_unstaged {rel : Bool} {s : State} (hst : s.grp.staged = []) : ∃ f, s.publishRule rel = .ok (marked s.thr.markers f s) := by
  unfold State.publishRule
  split
  · exact ⟨false, by simp [State.publishFirst, hst, Except.map, marked]⟩
  · exact ⟨s.thr.fenced, rfl⟩

theorem unstage_empty {s : State} (hst : s.grp.staged = []) (k n : Nat) : s.unstage k n = s := by
  simp only [State.unstage, hst, List.filter_nil]
  rw [← hst]

/-- A shared or release store of the own device. -/
theorem storeShared_performs {e : Enc} {x : Xlat} {va : Nat} {bs : List Byte} {s : State} (hc : x.cls ≠ 2) (h : Unstaged va s)
    (hrel : memOrder e = 2 → s.released (memScope e) = true) (hrun : FirstRun s) : ∃ m f t, storeShared e x va bs s = .ok t
      ∧ t.thr = { s.thr with unacked := s.thr.unacked ++ [⟨s.nextId, s.grp.dev, 0⟩], markers := m, fenced := f }
      ∧ Written x.key bs s.mem t.mem ∧ t.grp.staged = [] ∧ t.grp.scratch = s.grp.scratch
      ∧ t.grp.log = s.grp.log ++ [⟨s.thr.key.tid, pubOp e, va, words 4 (ofBytes bs), [0], 0⟩] := by
  obtain ⟨m, hm⟩ := releaseIf_marked hrel
  obtain ⟨f, hf⟩ := publishRule_unstaged (rel := decide (memOrder e = 2) && 2 ≤ memScope e) (s := marked m s.thr.fenced s) h.2.1
  have hunst := unstage_empty (s := marked (marked m s.thr.fenced s).thr.markers f (marked m s.thr.fenced s)) h.2.1 x.key bs.length
  obtain ⟨t, ht, hthr, hmem, hstaged, hscratch, hlog⟩ :=
    storeNow_performs (s := marked (marked m s.thr.fenced s).thr.markers f (marked m s.thr.fenced s)) (bs := bs) hc h
  have hpub := publish_withEntry (e := e) (addr := va) (operand := words 4 (ofBytes bs))
    (s := marked (marked m s.thr.fenced s).thr.markers f (marked m s.thr.fenced s)) hrun ht
  refine ⟨m, f, withEntry e va (words 4 (ofBytes bs)) [0] (marked (marked m s.thr.fenced s).thr.markers f (marked m s.thr.fenced s)) t, ?_, hthr, hmem,
    hstaged, hscratch, by rw [withEntry_log, hlog]; rfl⟩
  simp only [storeShared, hm, hc, false_and, if_false, hf, hunst, hpub]

/-- A store that performs at its home. -/
theorem does_stores_home {i : Instr} {e : Enc} {s s1 : State} {g : Bool} {l : Xlat} (hi : exec i s = s.issue g bodySt e)
    (hg : (atBody e s).global (storeReq e (atBody e s)) = .ok (l, s1)) (hc : l.cls = 5 ∨ ((l.cls = 0 ∨ l.cls = 4) ∧ memOrder e ≠ 0))
    (h : Unstaged ((atBody e s).globalAddr e) (atBody e s)) (hrel : memOrder e = 2 → s1.released (memScope e) = true) (hrun : memOrder e ≠ 0 → FirstRun s1) :
    Does i e s (fun b t => Continues b t ∧ Written l.key (b.storeBytes e) s1.mem t.mem ∧ t.grp.staged = [] ∧ t.grp.scratch = b.grp.scratch
      ∧ t.thr.pend = shrunk b ∧ t.thr.unacked = b.thr.unacked ++ [⟨b.nextId, b.grp.dev, 0⟩]
      ∧ (memOrder e ≠ 0 → t.grp.log = b.grp.log ++ [⟨b.thr.key.tid, pubOp e, b.globalAddr e, words 4 (ofBytes (b.storeBytes e)), [0], 0⟩])) := by
  obtain ⟨hthr1, hgrp1, hid1, hpart1, -⟩ := global_facts hg
  have h1 : Unstaged ((atBody e s).globalAddr e) s1 := by simpa only [Unstaged, hgrp1, hpart1] using h
  have h2 : l.cls ≠ 2 := by omega
  simp only [storeReq] at hg
  obtain ⟨m, f, t, hbody, hthr, hmem, hstaged, hscratch, hlog⟩ : ∃ m f t, bodySt e (atBody e s) = .ok t
      ∧ t.thr = { (atBody e s).thr with unacked := (atBody e s).thr.unacked ++ [⟨(atBody e s).nextId, (atBody e s).grp.dev, 0⟩], markers := m, fenced := f }
      ∧ Written l.key ((atBody e s).storeBytes e) s1.mem t.mem ∧ t.grp.staged = [] ∧ t.grp.scratch = (atBody e s).grp.scratch
      ∧ (memOrder e ≠ 0 → t.grp.log = (atBody e s).grp.log
          ++ [⟨(atBody e s).thr.key.tid, pubOp e, (atBody e s).globalAddr e, words 4 (ofBytes ((atBody e s).storeBytes e)), [0], 0⟩]) := by
    rw [← hthr1, ← hgrp1, ← hid1]
    by_cases ho : memOrder e = 0
    · have h5 : l.cls = 5 := hc.resolve_right (fun hn => hn.2 ho)
      obtain ⟨t, ht, hthr, hmem, hstaged, hscratch, -⟩ := mailboxStore_performs (key := l.key) (bs := (atBody e s).storeBytes e) h1
      exact ⟨_, _, _, by simp [bodySt, hg, ho, storePlain, h5, ht, Except.map], hthr, hmem, hstaged, hscratch, fun hne => absurd ho hne⟩
    · obtain ⟨m, f, t, ht, hthr, hmem, hstaged, hscratch, hlog⟩ := storeShared_performs (bs := (atBody e s).storeBytes e) h2 h1 hrel (hrun ho)
      exact ⟨m, f, t, by simp [bodySt, hg, ho, ht], hthr, hmem, hstaged, hscratch, fun _ => hlog⟩
  exact does_continues (ps := []) hi hbody (onward_of_thr hthr) (by simp) (fun u hcont hpend hu =>
    ⟨hcont, hmem, hstaged, hscratch, by simpa using hpend, by rw [withThread_thr, hu.unacked, hthr], hlog⟩)

/-- Settles O11: a plain store is staged, any other performs at its home. -/
theorem storesToOwnDevice : Obligations.StoresToOwnDevice :=
  ⟨fun _ _ _ => ⟨fun _ _ _ ho hg hc hrace hearly hroom => does_stores_staged rfl ho hg hc hrace hearly hroom,
      fun _ _ _ ho hg hc hrace hearly hroom => does_stores_staged rfl ho hg hc hrace hearly hroom⟩,
    fun _ _ _ => ⟨fun _ _ hg hc hst hva hsh hbox => does_stores_home rfl hg hc ⟨hsh, hst, hva, hbox⟩,
      fun _ _ hg hc hst hva hsh hbox => does_stores_home rfl hg hc ⟨hsh, hst, hva, hbox⟩⟩⟩

end Sys2Proof.Claims
end

section
/-!
PROOFS. Accesses sent to another device (O12).
-/
namespace Sys2Proof.Claims
open Machine Bits Encoding

/-! ## An instruction that waits -/

/-- The thread of `b` after its access is under way: its status, its pending results, and what it notes of its stores may differ. -/
def Under (st : ThreadStatus) (ps : List Pending) (t u : Thread) : Prop :=
  u = { t with status := st, pend := t.pend ++ ps, unacked := u.unacked, markers := u.markers, fenced := u.fenced, waitSince := u.waitSince }

theorem Under.onward {b s1 : State} {ps : List Pending} (h : Under b.thr.status ps b.thr s1.thr) : Onward ps b s1 := by
  unfold Under at h
  refine ⟨?_, ?_, ?_, ?_, ?_, ⟨?_, ?_, ?_⟩, ?_, ?_, ?_, ?_⟩ <;> rw [h]

/-- An instruction waits whose body leaves its thread waiting, with its registers and flags as they were. -/
theorem does_waits {i : Instr} {e : Enc} {s s1 : State} {g : Bool} {body : Body} {ps : List Pending} {w : Wait} {P : State → State → Prop}
    (hi : exec i s = s.issue g body e) (hb : body e (atBody e s) = .ok s1) (h : Under (.waiting w) ps (atBody e s).thr s1.thr)
    (hps : ∀ p ∈ ps, p.arrived = false ∧ s.nextId ≤ p.serial)
    (hP : ∀ u, Waits w (atBody e s).thr.pc s (withThread u s1) → SameRegs (atBody e s) (withThread u s1) → SameFlags (atBody e s) (withThread u s1) →
      u.pend = shrunk (atBody e s) ++ ps → P (atBody e s) (withThread u s1)) :
    Does i e s P := by
  refine does_ok i hi _ hb (fun hs hq => ?_)
  unfold Under at h
  have hkey : s1.thr.key = s.thr.key := by rw [h]; exact atBody_key e s
  have hstatus : s1.thr.status = .waiting w := by rw [h]
  have hpend : s1.thr.pend = s.thr.pend ++ ps := by rw [h]; exact congrArg (· ++ ps) (atBody_pend e s)
  have hpc : s1.thr.pc = (atBody e s).thr.pc := by rw [h]
  have hquiet : s1.thr.pend.all (fun p => !p.arrived) = true := by
    rw [hpend, List.all_append, Bool.and_eq_true]
    exact ⟨hq, List.all_eq_true.2 (fun p hp => by simp [(hps p hp).1])⟩
  have hnew : ps.map (fun p => if p.serial < s.nextId then { p with win := p.win - 1 } else p) = ps := by
    conv => rhs; rw [← List.map_id ps]
    exact List.map_congr_left (fun p hp => if_neg (Nat.not_lt.2 (hps p hp).2))
  have hregs : SameRegs (atBody e s) s1 := by refine ⟨?_, ?_, ?_⟩ <;> rw [h]
  have hflags : SameFlags (atBody e s) s1 := by refine ⟨?_, ?_, ?_, ?_⟩ <;> rw [h]
  obtain ⟨hr0, hr1, hr2⟩ := atBody_sameRegs e s
  obtain ⟨hf0, hf1, hf2, hf3⟩ := atBody_sameFlags e s
  rw [retire_wait hkey hstatus hquiet]
  refine hP _ ⟨hstatus, rfl, hpc, ⟨hregs.1.trans hr0, hregs.2.1.trans hr1, hregs.2.2.trans hr2⟩, hflags.1.trans hf0, hflags.2.1.trans hf1,
    hflags.2.2.1.trans hf2, hflags.2.2.2.trans hf3⟩ hregs hflags ?_
  rw [hpend, List.map_append, hnew]
  simp [shrunk]

/-! ## Sending (R290, R291) -/

/-- An access of the checked-out thread of `s` to the device of `l`'s page. -/
def SentAs (l : Xlat) (kind : AccessKind) (waits : Bool) (s : State) (a : Access) : Prop :=
  a.serial = s.nextId ∧ a.t = s.thr.key ∧ a.kind = kind ∧ a.dst = devOf l.key ∧ a.key = l.key ∧ a.remote = true ∧ a.waits = waits

/-- Sending enters the access and notes an unacknowledged store, and changes nothing of memory, the group or the rest of the thread. -/
theorem send_remote (kind : AccessKind) {l : Xlat} (va : Nat) (p o w q : Bool) (s : State) (hc : l.cls = 2) : ∃ a us,
    (s.send kind l va p o w q).thr = { s.thr with unacked := us } ∧ (s.send kind l va p o w q).mem = s.mem ∧ (s.send kind l va p o w q).nextId = s.nextId + 1
      ∧ (s.send kind l va p o w q).grp = s.grp ∧ (s.send kind l va p o w q).inflight = s.inflight ++ [a] ∧ SentAs l kind w s a := by
  obtain ⟨c, n, t, a, hsend, ht, hserial, hthr, hkind, hdst, hkey, -, hremote, hwaits, -⟩ := send_facts kind l va p o w q s
  rw [hsend]
  exact ⟨a, t.unacked, ht, rfl, rfl, rfl, rfl, hserial, hthr, hkind, hdst, hkey, by rw [hremote, hc]; rfl, hwaits⟩

/-- The access is under way, memory is as the check left it, and the thread waits for the reply or goes on. -/
def Sent (l : Xlat) (kind : AccessKind) (waits : Bool) (s b s1 t : State) : Prop :=
  t.mem = s1.mem ∧ SameRegs b t ∧ SameFlags b t ∧ ∃ a, t.inflight = b.inflight ++ [a] ∧ a.serial = b.nextId ∧ a.t = b.thr.key ∧ a.kind = kind
    ∧ a.dst = devOf l.key ∧ a.key = l.key ∧ a.remote = true ∧ a.waits = waits
    ∧ (if waits then t.thr.status = .waiting (.remote b.nextId) ∧ t.thr.pc = s.thr.pc ∧ t.thr.npc = b.thr.pc else t.thr.status = .ready ∧ t.thr.pc = b.thr.pc)

section
variable {i : Instr} {e : Enc} {s s1 s2 : State} {g : Bool} {body : Body} {ps : List Pending} {l : Xlat} {kind : AccessKind} {a : Access}
  (hi : exec i s = s.issue g body e) (hb : body e (atBody e s) = .ok s2) (hps : ∀ p ∈ ps, p.arrived = false ∧ s.nextId ≤ p.serial)
  (hmem : s2.mem = s1.mem) (hin : s2.inflight = (atBody e s).inflight ++ [a])
include hi hb hps hmem hin

theorem does_sent_waits (ha : SentAs l kind true (atBody e s) a) (h : Under (.waiting (.remote (atBody e s).nextId)) ps (atBody e s).thr s2.thr) :
    Does i e s (fun b t => Sent l kind true s b s1 t ∧ t.thr.pend = shrunk b ++ ps) := by
  obtain ⟨hserial, hthr, hkind, hdst, hkey, hremote, hwaits⟩ := ha
  exact does_waits hi hb h hps (fun u ⟨hstatus, hpc, hnpc, _, _⟩ hregs hflags hpend =>
    ⟨⟨hmem, hregs, hflags, a, hin, hserial, hthr, hkind, hdst, hkey, hremote, hwaits, hstatus, hpc, hnpc⟩, hpend⟩)

theorem does_sent_continues (ha : SentAs l kind false (atBody e s) a) (h : Onward ps (atBody e s) s2) :
    Does i e s (fun b t => Sent l kind false s b s1 t ∧ t.thr.pend = shrunk b ++ ps) := by
  obtain ⟨hserial, hthr, hkind, hdst, hkey, hremote, hwaits⟩ := ha
  exact does_continues hi hb h hps (fun u ⟨hstatus, hpc, _, hregs, hflags⟩ hpend _ =>
    ⟨⟨hmem, hregs, hflags, a, hin, hserial, hthr, hkind, hdst, hkey, hremote, hwaits, hstatus, hpc⟩, hpend⟩)
end

/-! ## Loads -/

theorem heldLoad_none {s : State} (h : s.thr.region = none) (k n : Nat) : s.heldLoad k n = none := by
  simp [State.heldLoad, h]

section
variable {e : Enc} {b s1 : State} {l : Xlat} (hg : b.global (loadReq e b) = .ok (l, s1)) (hc : l.cls = 2) (hr : b.thr.region = none)
include hg hc hr

theorem bodyLd_remote_plain (ho : memOrder e = 0) : bodyLd e b = .ok (((s1.send (.load (memSize e) (bit e.c.toNat 0)) l (b.globalAddr e) true false true false).laterAs
    s1.nextId e [] (memN e) 0 0 false false false false).waitRemote s1.nextId) := by
  obtain ⟨hthr1, -⟩ := global_facts hg
  simp only [loadReq] at hg
  simp [bodyLd, hg, hc, loadRemote, ho, heldLoad_none (show s1.thr.region = none by rw [hthr1, hr])]

theorem bodyLd_remote_shared (ho : memOrder e ≠ 0) (hrun : FirstRun s1) (href : s1.refusal l (b.globalAddr e) = none) :
    let t := withEntry e (b.globalAddr e) [] [] s1 (s1.send (.load (memSize e) (bit e.c.toNat 0)) l (b.globalAddr e) false false false false)
    bodyLd e b = .ok (t.logSent.laterAs (t.nextId - 1) e [] (memN e) 0 0 false (memAcq e) false false) := by
  obtain ⟨hthr1, -⟩ := global_facts hg
  have hheld := heldLoad_none (show s1.thr.region = none by rw [hthr1, hr]) l.key (memSize e)
  simp only [loadReq] at hg
  simp only [bodyLd, hg, hc, if_true, loadRemote, ho, if_false]
  rw [publish_withEntry hrun (ret := []) (s1 := s1.send (.load (memSize e) (bit e.c.toNat 0)) l (b.globalAddr e) false false false false)
    (by simp only [hheld, href])]
end

theorem logSent_facts (s : State) : s.logSent.thr = s.thr ∧ s.logSent.mem = s.mem ∧ s.logSent.inflight = s.inflight := ⟨rfl, rfl, rfl⟩

theorem does_load_remote {i : Instr} {e : Enc} {s s1 : State} {g : Bool} {l : Xlat} (hi : exec i s = s.issue g bodyLd e)
    (hg : (atBody e s).global (loadReq e (atBody e s)) = .ok (l, s1)) (hc : l.cls = 2) (hr : (atBody e s).thr.region = none)
    (h : memOrder e ≠ 0 → FirstRun s1 ∧ s1.refusal l ((atBody e s).globalAddr e) = none) :
    Does i e s (fun b t => Sent l (.load (memSize e) (bit e.c.toNat 0)) (decide (memOrder e = 0)) s b s1 t
      ∧ t.thr.pend = shrunk b ++ [{ loadPending e (memN e) 0 (memAcq e) 0 false b with vals := [] }]) := by
  obtain ⟨hthr1, hgrp1, hid1, -, hin1, -⟩ := global_facts hg
  have hnew : ∀ p ∈ [({ loadPending e (memN e) 0 (memAcq e) 0 false (atBody e s) with vals := [] } : Pending)], p.arrived = false ∧ s.nextId ≤ p.serial := by
    simp [loadPending]
  by_cases ho : memOrder e = 0
  · rw [decide_eq_true ho]
    obtain ⟨a, us, hthr, hmem, hid, hgrp, hin, ha⟩ := send_remote (.load (memSize e) (bit e.c.toNat 0)) ((atBody e s).globalAddr e) true false true false s1 hc
    refine does_sent_waits hi (bodyLd_remote_plain hg hc hr ho) hnew hmem (hin.trans (by rw [hin1])) (by rwa [SentAs, hthr1, hid1] at ha) ?_
    simp [Under, State.waitRemote, State.laterAs, hthr, hthr1, hid1, loadPending, memAcq_plain ho]
  · rw [decide_eq_false ho]
    obtain ⟨a, us, hthr, hmem, hid, hgrp, hin, ha⟩ := send_remote (.load (memSize e) (bit e.c.toNat 0)) ((atBody e s).globalAddr e) false false false false s1 hc
    refine does_sent_continues hi (bodyLd_remote_shared hg hc hr ho (h ho).1 (h ho).2) hnew hmem (hin.trans (by rw [hin1])) (by rwa [SentAs, hthr1, hid1] at ha)
      (Under.onward ?_)
    simp [Under, State.laterAs, logSent_facts, hthr, hthr1, hid, hid1, withEntry, loadPending]

/-! ## Stores -/

section
variable {e : Enc} {b s1 : State} {l : Xlat} (hg : b.global (storeReq e b) = .ok (l, s1)) (hc : l.cls = 2) (hr : b.thr.region = none) (hrun : FirstRun s1)
include hg hc hr hrun

theorem bodySt_remote_plain (ho : memOrder e = 0) :
    let bs := b.storeBytes e
    let t := withEntry e (b.globalAddr e) (words 4 (ofBytes bs)) [] s1 (s1.send (.store bs.length (ofBytes bs)) l (b.globalAddr e) true false true false)
    bodySt e b = .ok (t.logSent.waitRemote (t.nextId - 1)) := by
  obtain ⟨hthr1, -⟩ := global_facts hg
  have hnone : s1.thr.region.isSome = false := by rw [hthr1, hr]; rfl
  simp only [storeReq] at hg
  simp only [bodySt, hg, ho, if_true, storePlain, hc, hnone, Bool.false_eq_true, if_false]
  rw [publish_withEntry hrun rfl]

theorem bodySt_remote_shared (ho : memOrder e ≠ 0) (href : s1.refusal l (b.globalAddr e) = none) (hrel : memOrder e = 2 → s1.released (memScope e) = true)
    (hst : s1.grp.staged = []) : ∃ m f, let bs := b.storeBytes e
      bodySt e b = .ok (withEntry e (b.globalAddr e) (words 4 (ofBytes bs)) [] (marked m f s1)
        ((marked m f s1).send (.store bs.length (ofBytes bs)) l (b.globalAddr e) false false false false)).logSent := by
  obtain ⟨hthr1, -⟩ := global_facts hg
  obtain ⟨m, hm⟩ := releaseIf_marked hrel
  obtain ⟨f, hf⟩ := publishRule_unstaged (rel := decide (memOrder e = 2) && 2 ≤ memScope e) (s := marked m s1.thr.fenced s1) hst
  have hunst := unstage_empty (s := marked m f s1) hst l.key (b.storeBytes e).length
  have hnone : (marked m s1.thr.fenced s1).thr.region.isSome = false := by
    show s1.thr.region.isSome = false
    rw [hthr1, hr]; rfl
  have hnow : storeNow l (b.globalAddr e) (b.storeBytes e) (marked m f s1)
      = .ok ([], (marked m f s1).send (.store (b.storeBytes e).length (ofBytes (b.storeBytes e))) l (b.globalAddr e) false false false false) := by
    have hmarked : (marked m f s1).refusal l (b.globalAddr e) = none := href
    simp only [storeNow, hc, if_true, hmarked]
  have hpub := publish_withEntry (e := e) (addr := b.globalAddr e) (operand := words 4 (ofBytes (b.storeBytes e))) (s := marked m f s1) hrun hnow
  simp only [storeReq] at hg
  refine ⟨m, f, ?_⟩
  simp only [bodySt, hg, ho, if_false, storeShared, hm, hnone, Bool.false_eq_true, and_false, hf]
  have hmarks : marked (marked m s1.thr.fenced s1).thr.markers f (marked m s1.thr.fenced s1) = marked m f s1 := rfl
  simp only [hmarks, hunst, hpub]
end

theorem storeBytes_length (s : State) (e : Enc) : (s.storeBytes e).length = memSize e := by simp [State.storeBytes]

theorem does_store_remote {i : Instr} {e : Enc} {s s1 : State} {g : Bool} {l : Xlat} (hi : exec i s = s.issue g bodySt e)
    (hg : (atBody e s).global (storeReq e (atBody e s)) = .ok (l, s1)) (hc : l.cls = 2) (hr : (atBody e s).thr.region = none) (hrun : FirstRun s1)
    (href : memOrder e ≠ 0 → s1.refusal l ((atBody e s).globalAddr e) = none) (hrel : memOrder e = 2 → s1.released (memScope e) = true)
    (hst : (atBody e s).grp.staged = []) :
    Does i e s (fun b t => Sent l (.store (memSize e) (ofBytes (b.storeBytes e))) (decide (memOrder e = 0)) s b s1 t) := by
  obtain ⟨hthr1, hgrp1, hid1, -, hin1, -⟩ := global_facts hg
  rw [← storeBytes_length (atBody e s) e]
  by_cases ho : memOrder e = 0
  · rw [decide_eq_true ho]
    obtain ⟨a, us, hthr, hmem, hid, hgrp, hin, ha⟩ := send_remote (.store ((atBody e s).storeBytes e).length (ofBytes ((atBody e s).storeBytes e)))
      ((atBody e s).globalAddr e) true false true false s1 hc
    refine (does_sent_waits (ps := []) hi (bodySt_remote_plain hg hc hr hrun ho) (by simp) hmem (hin.trans (by rw [hin1])) (by rwa [SentAs, hthr1, hid1] at ha) ?_).imp_at
      (fun t ht => ht.1)
    simp [Under, State.waitRemote, logSent_facts, hthr, hthr1, hid, hid1, withEntry]
  · rw [decide_eq_false ho]
    obtain ⟨m, f, hbody⟩ := bodySt_remote_shared hg hc hr hrun ho (href ho) hrel (by rw [hgrp1, hst])
    obtain ⟨a, us, hthr, hmem, hid, hgrp, hin, ha⟩ := send_remote (.store ((atBody e s).storeBytes e).length (ofBytes ((atBody e s).storeBytes e)))
      ((atBody e s).globalAddr e) false false false false (marked m f s1) hc
    have ha1 : SentAs l (.store ((atBody e s).storeBytes e).length (ofBytes ((atBody e s).storeBytes e))) false s1 a := ha
    rw [SentAs, hthr1, hid1] at ha1
    refine (does_sent_continues (ps := []) hi hbody (by simp) hmem (hin.trans (by rw [← hin1]; rfl)) ha1 (onward_of_thr (us := us) (m := m) (f := f) ?_)).imp_at
      (fun t ht => ht.1)
    rw [(logSent_facts _).1, withEntry_thr, hthr]
    simp only [marked, hthr1]

/-- Settles O12: the access is entered as under way, and a plain one has its thread wait. -/
theorem remoteAccessesAreSent : Obligations.RemoteAccessesAreSent := fun _ _ _ =>
  ⟨fun _ _ hg hc hr h => does_load_remote rfl hg hc hr h, fun _ _ hg hc hr h => does_load_remote rfl hg hc hr h,
    fun _ _ hg hc hr hrun href hrel hst => does_store_remote rfl hg hc hr hrun href hrel hst,
    fun _ _ hg hc hr hrun href hrel hst => does_store_remote rfl hg hc hr hrun href hrel hst⟩

end Sys2Proof.Claims
end

section
/-!
PROOFS. `ldf`, `ldk`, `pfch`, `cctl` and `fence` (O13).
-/
namespace Sys2Proof.Claims
open Machine Bits Encoding

/-! ## ldf (R159) -/

/-- A global access that passes its checks is of a class that the instruction admits. -/
theorem global_cls {r : Req} {s s1 : State} {l : Xlat} (h : s.global r = .ok (l, s1)) : l.cls ∈ r.classes := by
  have hcheck : s.check r = .ok l := by
    unfold State.global at h
    split at h
    · cases h
    · next x hx => split_ifs at h; cases h; exact hx
  unfold State.check at hcheck
  split_ifs at hcheck
  unfold State.checkMap at hcheck
  split at hcheck
  · cases hcheck
  split at hcheck
  · split_ifs at hcheck
  · cases hcheck
  · cases hcheck
  · cases hcheck
  · split_ifs at hcheck with h1 h2
    cases hcheck
    by_contra hn
    exact h2 (by simp [hn])

/-- Bytes as a group reads them, of the checked-out one. -/
theorem groupBytes_own (s : State) (k n : Nat) : ofBytes (s.groupBytes s.grp.gid k n) = numberSeen s k n := by
  simp [State.groupBytes, State.group?, State.allGroups, overlay_map, numberSeen, seen]

/-- The second read that `ldf` has under way: of the scale word, with the element read, or of the element, with the scale read. -/
def SecondRead (fmt nib k : Nat) (l : Xlat) (s : State) (a : Access) : Prop :=
  (a.key = k ∧ a.kind = .decode true (wrapInt 32 (elementOf fmt (numberSeen s l.key 1) nib)) nib fmt)
    ∨ (a.key = l.key ∧ a.kind = .decode false (numberSeen s k 4) nib fmt)

/-- A state after one more choice. -/
def drew (s : State) : State := { s with drawn := s.drawn + 1 }

theorem choose_two (s : State) : ∃ c, s.choose 2 = (c, drew s) := ⟨_, rfl⟩

/-- The element, read plainly past the cache or at its home. -/
theorem load_element {l : Xlat} {plain : Bool} {s : State} (hu : plain = true → Uncached l s) (hp : s.poisoned l.key 1 = false) :
    ∃ t, s.load l 1 plain = .ok (numberSeen s l.key 1, t) ∧ t = { s with core := { s.core with lcache := t.core.lcache }, drawn := t.drawn } := by
  cases plain with
  | true =>
    obtain ⟨t, ht⟩ := load_uncached hp (hu rfl)
    exact ⟨t, ht, State.load_eq ht⟩
  | false =>
    have hload : s.load l 1 false = .ok (numberSeen s l.key 1, s) := by simp [State.load, hp, overlay_map, numberSeen, seen]
    exact ⟨s, hload, rfl⟩

/-- What makes the first read of `ldf`: one of the two, with the other under way as an access of the thread. -/
theorem readFirst_facts {l : Xlat} {va nib : Nat} {plain : Bool} {s : State} (hc : l.cls ≠ 2) (hu : plain = true → Uncached l s)
    (hp : s.poisoned l.key 1 = false) (hpk : s.poisoned (scaleKey s.part.dev l.entry (elementIndex l.entry va nib)) 4 = false) :
    ∃ t a, readFirst l va nib plain s = .ok t ∧ t.thr = s.thr ∧ t.mem = s.mem ∧ t.grp = s.grp ∧ t.nextId = s.nextId + 1 ∧ t.inflight = s.inflight ++ [a]
      ∧ a.serial = s.nextId ∧ a.t = s.thr.key ∧ a.remote = false
      ∧ SecondRead (Pte.fmt l.entry) nib (scaleKey s.part.dev l.entry (elementIndex l.entry va nib)) l s a := by
  obtain ⟨c, hchoose⟩ := choose_two s
  by_cases h0 : c = 0
  · obtain ⟨s2, hload, hs2⟩ := load_element (s := drew s) hu hp
    obtain ⟨core, n, t, a, hsend, -, hserial, hthr, hkind, -, hkey, -, hremote, -, -, -, hown⟩ :=
      send_facts (.decode true (wrapInt 32 (elementOf (Pte.fmt l.entry) (numberSeen (drew s) l.key 1) nib)) nib (Pte.fmt l.entry))
        { l with key := scaleKey s.part.dev l.entry (elementIndex l.entry va nib) } va false false false false s2
    obtain ⟨-, -, ht⟩ := hown hc
    have hread : readFirst l va nib plain s = .ok (s2.send (.decode true (wrapInt 32 (elementOf (Pte.fmt l.entry) (numberSeen (drew s) l.key 1) nib)) nib
        (Pte.fmt l.entry)) { l with key := scaleKey s.part.dev l.entry (elementIndex l.entry va nib) } va false false false false) := by
      simp only [readFirst, hchoose, h0, if_true, hload]
    refine ⟨_, a, hread, ?_⟩
    rw [hsend]
    rw [hs2] at hserial hthr ht ⊢
    exact ⟨ht, rfl, rfl, rfl, rfl, hserial, hthr, by rw [hremote]; exact decide_eq_false hc, .inl ⟨hkey, hkind⟩⟩
  · obtain ⟨core, n, t, a, hsend, -, hserial, hthr, hkind, -, hkey, -, hremote, -, -, -, hown⟩ :=
      send_facts (.decode false (numberSeen (drew s) (scaleKey s.part.dev l.entry (elementIndex l.entry va nib)) 4) nib (Pte.fmt l.entry))
        l va false false false false (drew s)
    obtain ⟨-, -, ht⟩ := hown hc
    have hbytes := groupBytes_own (drew s) (scaleKey s.part.dev l.entry (elementIndex l.entry va nib)) 4
    have hp' : (drew s).poisoned (scaleKey s.part.dev l.entry (elementIndex l.entry va nib)) 4 = false := hpk
    have hread : readFirst l va nib plain s = .ok ((drew s).send (.decode false (numberSeen (drew s) (scaleKey s.part.dev l.entry (elementIndex l.entry va nib)) 4)
        nib (Pte.fmt l.entry)) l va false false false false) := by
      simp only [readFirst, hchoose, h0, if_false, hp', Bool.false_eq_true, hbytes]
    refine ⟨_, a, hread, ?_⟩
    rw [hsend]
    exact ⟨ht, rfl, rfl, rfl, rfl, hserial, hthr, by rw [hremote]; exact decide_eq_false hc, .inr ⟨hkey, hkind⟩⟩

/-- The request of `ldf` (R159). -/
def ldfReq (e : Enc) (b : State) : Req :=
  { va := b.globalAddr e, size := 1, write := false, classes := [0, 1, 3], prot13 := false, formatted := true }

/-- The scale word of the element that `ldf` reads. -/
def ldfScale (e : Enc) (l : Xlat) (b : State) : Nat := scaleKey b.part.dev l.entry (elementIndex l.entry (b.globalAddr e) (e.c.toNat % 2))

theorem does_ldf {i : Instr} {e : Enc} {s s1 s2 : State} {g : Bool} {l : Xlat} (hi : exec i s = s.issue g bodyLdf e)
    (hg : (atBody e s).global (ldfReq e (atBody e s)) = .ok (l, s1))
    (h : if memOrder e = 0 then Uncached l s1 ∧ s1.raceIf l ((atBody e s).globalAddr e) false = .ok s2 else FirstRun s1)
    (hp : s1.poisoned l.key 1 = false) (hpk : s1.poisoned (ldfScale e l (atBody e s)) 4 = false) :
    Does i e s (fun b t => Continues b t ∧ t.mem = s1.mem ∧ t.grp.staged = b.grp.staged
      ∧ t.thr.pend = shrunk b ++ [{ loadPending e 1 0 (memAcq e) 0 true b with vals := [] }]
      ∧ ∃ a, t.inflight = b.inflight ++ [a] ∧ a.serial = b.nextId ∧ a.t = b.thr.key ∧ a.remote = false
        ∧ SecondRead (Pte.fmt l.entry) (e.c.toNat % 2) (ldfScale e l b) l s1 a) := by
  obtain ⟨hthr1, hgrp1, hid1, hpart1, hin1, -⟩ := global_facts hg
  have hc : l.cls ≠ 2 := fun h2 => by simpa [ldfReq, h2] using global_cls hg
  have hnew : ∀ p ∈ [({ loadPending e 1 0 (memAcq e) 0 true (atBody e s) with vals := [] } : Pending)], p.arrived = false ∧ s.nextId ≤ p.serial := by
    simp [loadPending]
  rw [ldfScale, ← hpart1] at hpk
  simp only [ldfReq] at hg
  by_cases ho : memOrder e = 0
  · rw [if_pos ho] at h
    obtain ⟨hu, hrace⟩ := h
    have heq := raceIf_eq hrace
    obtain ⟨t, a, hread, hthr, hmem, hgrp, hid, hin, hserial, hkey, hremote, hsecond⟩ :=
      readFirst_facts (l := l) (va := (atBody e s).globalAddr e) (nib := e.c.toNat % 2) (plain := true) (s := s2) hc (by rw [heq]; exact fun _ => hu)
        (by rw [heq]; exact hp) (by rw [heq]; exact hpk)
    have hbody : bodyLdf e (atBody e s) = .ok (t.laterAs (t.nextId - 1) e [] 1 0 0 false false false true) := by
      simp [bodyLdf, hg, ho, hrace, hread]
    have hlater : Under (atBody e s).thr.status [{ loadPending e 1 0 (memAcq e) 0 true (atBody e s) with vals := [] }] (atBody e s).thr
        (t.laterAs (t.nextId - 1) e [] 1 0 0 false false false true).thr := by
      have hthr2 : s2.thr = (atBody e s).thr := by rw [heq]; exact hthr1
      have hid2 : s2.nextId = (atBody e s).nextId := by rw [heq]; exact hid1
      simp only [Under, State.laterAs, hthr, hthr2, hid, hid2, loadPending, memAcq_plain ho, Nat.add_sub_cancel]
    refine does_continues hi hbody hlater.onward hnew (fun u hcont hpend _ => ⟨hcont, ?mem, ?staged, hpend, a, ?inflight, ?serial, ?key, hremote, ?second⟩)
    case mem => exact hmem.trans (by rw [heq])
    case staged => show t.grp.staged = _; rw [hgrp, heq, ← hgrp1]
    case inflight => exact hin.trans (by rw [heq]; exact congrArg (· ++ [a]) hin1)
    case serial => rw [hserial, heq]; exact hid1
    case key => rw [hkey, heq]; exact congrArg Thread.key hthr1
    case second => rw [heq] at hsecond; rw [ldfScale, ← hpart1]; exact hsecond
  · rw [if_neg ho] at h
    obtain ⟨t, a, hread, hthr, hmem, hgrp, hid, hin, hserial, hkey, hremote, hsecond⟩ :=
      readFirst_facts (l := l) (va := (atBody e s).globalAddr e) (nib := e.c.toNat % 2) (plain := false) (s := s1) hc nofun hp hpk
    have hbody : bodyLdf e (atBody e s) = .ok ((withEntry e ((atBody e s).globalAddr e) [] [] s1 t).logSent.laterAs (t.nextId - 1) e [] 1 0 0 false (memAcq e) false true) := by
      simp only [bodyLdf, hg, ho, if_false]
      rw [publish_withEntry h (ret := []) (s1 := t) (by simp only [hread, Except.map])]
      rfl
    have hlater : Under (atBody e s).thr.status [{ loadPending e 1 0 (memAcq e) 0 true (atBody e s) with vals := [] }] (atBody e s).thr
        ((withEntry e ((atBody e s).globalAddr e) [] [] s1 t).logSent.laterAs (t.nextId - 1) e [] 1 0 0 false (memAcq e) false true).thr := by
      simp only [Under, State.laterAs, logSent_facts, withEntry_thr, hthr, hthr1, hid, hid1, loadPending, Nat.add_sub_cancel]
    refine does_continues hi hbody hlater.onward hnew (fun u hcont hpend _ => ⟨hcont, hmem, ?staged, hpend, a, ?inflight, ?serial, ?key, hremote, ?second⟩)
    case staged => show t.grp.staged = _; rw [hgrp, ← hgrp1]
    case inflight => exact hin.trans (congrArg (· ++ [a]) hin1)
    case serial => exact hserial.trans hid1
    case key => exact hkey.trans (congrArg Thread.key hthr1)
    case second => rw [ldfScale, ← hpart1]; exact hsecond

/-! ## Cache control and fences -/

/-- Nothing but the thread and the load cache of the core differs, and the thread goes on. -/
def CacheOnly (b t : State) : Prop := Continues b t ∧ t.thr.pend = shrunk b ∧ t = { b with thr := t.thr, core := t.core }

theorem does_cacheOnly {i : Instr} {e : Enc} {s : State} {g : Bool} {body : Body} {c : Core} {m : Option (Nat × List (Nat × Nat))} {f : Bool}
    (hi : exec i s = s.issue g body e) (hb : body e (atBody e s) = .ok { marked m f (atBody e s) with core := c }) :
    Does i e s (fun b t => CacheOnly b t ∧ t.core = c ∧ t.thr.fenced = f) :=
  does_continues (ps := []) hi hb ((onward_marked _ m f).congr rfl) (by simp)
    (fun u hcont hpend hu => ⟨⟨hcont, by simpa using hpend, rfl⟩, rfl, hu.fenced⟩)

theorem bodyPfch_cache (e : Enc) (b : State) : ∃ ls, bodyPfch e b = .ok { b with core := { b.core with lcache := ls } } := by
  unfold bodyPfch
  simp only
  split
  · exact ⟨b.core.lcache, rfl⟩
  · split
    · exact ⟨b.core.lcache, rfl⟩
    · exact ⟨_, rfl⟩

/-- The release side of a fence or atomic. -/
theorem releaseBy_marked {o sc : Nat} {s : State} (h2 : 2 ≤ o → s.released sc = true) (h3 : o = 3 → s.acked = true) :
    ∃ m, s.releaseBy o sc = .ok (marked m s.thr.fenced s) := by
  have hn : ¬(o = 3 ∧ s.acked = false) := fun ⟨ho, ha⟩ => by simp [h3 ho] at ha
  rw [State.releaseBy, if_neg hn]
  exact releaseIf_marked h2

theorem acquireUnless_eq (o sc : Nat) (s : State) :
    (if o = 2 then s else s.acquire sc) = { s with core := if o ≠ 2 ∧ sc ≠ 0 then s.core.invalidate else s.core } := by
  by_cases ho : o = 2
  · simp [ho]
  · by_cases hsc : sc = 0 <;> simp [ho, hsc, State.acquire]

theorem markFence_eq (c : Prop) [Decidable c] (s : State) :
    (if c then { s with thr := { s.thr with fenced := true } } else s) = marked s.thr.markers (s.thr.fenced || decide c) s := by
  by_cases hc : c <;> simp [hc, marked]

theorem bodyFence_ok {e : Enc} {b : State} (h2 : 2 ≤ field e.m.toNat 1 0 → b.released (field e.m.toNat 4 2) = true)
    (h3 : field e.m.toNat 1 0 = 3 → b.acked = true) : ∃ m, bodyFence e b = .ok
      { marked m (b.thr.fenced || decide (2 ≤ field e.m.toNat 1 0 ∧ 2 ≤ field e.m.toNat 4 2)) b with
        core := if field e.m.toNat 1 0 ≠ 2 ∧ field e.m.toNat 4 2 ≠ 0 then b.core.invalidate else b.core } := by
  obtain ⟨m, hm⟩ := releaseBy_marked h2 h3
  refine ⟨m, ?_⟩
  simp only [bodyFence, hm, acquireUnless_eq]
  exact congrArg Except.ok (markFence_eq _ _)

theorem bodyCctlInvl_eq (e : Enc) (b : State) : bodyCctlInvl e b = .ok { b with core :=
    match (if 2 ^ 56 ≤ b.opA e 2 then Trans.miss else b.translate (b.opA e 2)) with
    | .ok l => { b.core with lcache := b.core.lcache.filter (fun c => !(c.line = l.key / 128 && c.pid = b.part.pid)) }
    | _ => b.core } := by
  unfold bodyCctlInvl
  generalize (if 2 ^ 56 ≤ b.opA e 2 then Trans.miss else b.translate (b.opA e 2)) = tr
  cases tr <;> rfl

/-- Settles O13: `ldf` by its order and which read comes first, `ldk` as a plain load, the others by what they leave of the load cache. -/
theorem formattedLoadsAndCacheControl : Obligations.FormattedLoadsAndCacheControl := by
  refine ⟨fun x s => ⟨?ldf, ?ldk, ?pfch⟩, fun x s => ⟨?inv, ?invl, ?fence⟩⟩
  case ldf =>
    intro l s1 s2 e b hg h fmt nib k hp hpk
    have hc : e.c = x.c := LX.enc_c x _
    have hnib : nib = e.c.toNat % 2 := by rw [hc]
    refine (does_ldf (i := .ldf x) rfl hg h hp (by rw [ldfScale, ← hnib]; exact hpk)).imp_at ?_
    rintro t ⟨hcont, hmem, hstaged, hpend, a, hin, hserial, hkey, hremote, hsecond⟩
    rw [SecondRead, ldfScale, ← hnib] at hsecond
    exact ⟨hcont, hmem, hstaged, hpend, a, hin, hserial, hkey, hremote, hsecond⟩
  case ldk =>
    intro l s1 s2 e b hg hrace hp hu
    refine (does_loads_plain (i := .ldk x) (body := bodyLdk) rfl hg hp (by rw [LX.enc_op]; decide) hrace hu (fun v s3 hload => ?_)).imp ?_
    · simp only [bodyLdk, hg, hrace, hload, e, b]
    · rintro b t ⟨hcont, hmem, hstaged, -, hpend⟩
      exact ⟨hcont, hmem, hstaged, hpend⟩
  case pfch =>
    obtain ⟨ls, hls⟩ := bodyPfch_cache (x.enc 0x76) (atBody (x.enc 0x76) s)
    refine (does_cacheOnly (i := .pfch x) (m := (atBody (x.enc 0x76) s).thr.markers) (f := (atBody (x.enc 0x76) s).thr.fenced) rfl hls).imp_at ?_
    rintro t ⟨⟨hcont, hpend, hsame⟩, hcore, -⟩
    exact ⟨hcont, hpend, hsame, by rw [hcore]⟩
  case inv =>
    exact (does_cacheOnly (i := .cctlInv x) (m := (atBody (({ x with c := 0 } : LX).encL 0x77) s).thr.markers)
      (f := (atBody (({ x with c := 0 } : LX).encL 0x77) s).thr.fenced) rfl rfl).imp_at (fun t ht => ⟨ht.1, ht.2.1⟩)
  case invl =>
    refine (does_cacheOnly (i := .cctlInvl x) (m := (atBody (({ x with c := 1 } : LX).encL 0x77) s).thr.markers)
      (f := (atBody (({ x with c := 1 } : LX).encL 0x77) s).thr.fenced) rfl (bodyCctlInvl_eq _ _)).imp_at ?_
    rintro t ⟨hquiet, hcore, -⟩
    refine ⟨hquiet, ?_⟩
    simp only [hcore]
    generalize (if 2 ^ 56 ≤ _ then Trans.miss else _) = tr
    cases tr <;> rfl
  case fence =>
    intro e o sc h2 h3
    obtain ⟨m, hm⟩ := bodyFence_ok (e := e) h2 h3
    refine (does_cacheOnly (i := .fence x) rfl hm).imp_at ?_
    rintro t ⟨hquiet, hcore, hfenced⟩
    exact ⟨hquiet, hfenced, by rw [hcore]; exact apply_ite Core.lcache ..⟩

end Sys2Proof.Claims
end

section
/-!
PROOFS. What the focus of an event leaves of the machine, and atomics (O14).
-/
namespace Sys2Proof.Claims
open Machine Bits Encoding

/-! ## Checking out -/

/-- Only what is checked out, and the lists of what is not, may differ. -/
def Refocused (s t : State) : Prop :=
  t = { s with thr := t.thr, threads := t.threads, grp := t.grp, groups := t.groups, lau := t.lau, launches := t.launches, core := t.core, cores := t.cores,
               part := t.part, parts := t.parts, dev := t.dev, devs := t.devs }

theorem refocused_refl (s : State) : Refocused s s := rfl

theorem Refocused.trans {s t u : State} (h1 : Refocused s t) (h2 : Refocused t u) : Refocused s u := by
  unfold Refocused at *
  rw [h2, h1]

theorem Refocused.mem {s t : State} (h : Refocused s t) : t.mem = s.mem := by rw [h]
theorem Refocused.inflight {s t : State} (h : Refocused s t) : t.inflight = s.inflight := by rw [h]
theorem Refocused.poison {s t : State} (h : Refocused s t) : t.poison = s.poison := by rw [h]
theorem Refocused.poisoned {s t : State} (h : Refocused s t) (k n : Nat) : t.poisoned k n = s.poisoned k n := by rw [h]; rfl

theorem checkoutThread_refocused {k : ThreadKey} {s t : State} (h : s.checkoutThread k = some t) : Refocused s t := by
  unfold State.checkoutThread at h
  split at h
  · cases h; rfl
  · split at h
    · cases h
    · cases h; rfl

theorem checkoutGroup_refocused {n : Nat} {s t : State} (h : s.checkoutGroup n = some t) : Refocused s t := by
  unfold State.checkoutGroup at h
  split at h
  · cases h; rfl
  · split at h
    · cases h
    · cases h; rfl

theorem checkoutLaunch_refocused {n : Nat} {s t : State} (h : s.checkoutLaunch n = some t) : Refocused s t := by
  unfold State.checkoutLaunch at h
  split at h
  · cases h; rfl
  · split at h
    · cases h
    · cases h; rfl

theorem checkoutCore_refocused (d n : Nat) (s : State) : Refocused s (s.checkoutCore d n) := by
  unfold State.checkoutCore; split <;> rfl
theorem checkoutPart_refocused (d n : Nat) (s : State) : Refocused s (s.checkoutPart d n) := by
  unfold State.checkoutPart; split <;> rfl
theorem checkoutDev_refocused (d : Nat) (s : State) : Refocused s (s.checkoutDev d) := by
  unfold State.checkoutDev; split <;> rfl
theorem focusPart_refocused (d n : Nat) (s : State) : Refocused s (s.focusPart d n) :=
  (checkoutPart_refocused d n s).trans (checkoutDev_refocused d _)

theorem focusPart_grp (d n : Nat) (s : State) : (s.focusPart d n).grp = s.grp := by simp

/-- A group's focus checks out that group, as it stands in the machine. -/
theorem focusGroup_facts {gid : Nat} {s t : State} (h : s.focusGroup gid = some t) :
    Refocused s t ∧ s.group? gid = some t.grp ∧ t.grp.gid = gid ∧ t.thr = s.thr := by
  unfold State.focusGroup at h
  split at h
  · cases h
  · next s1 h1 =>
    split at h
    · cases h
    · next s2 h2 =>
      cases h
      have hgrp2 : s2.grp = s1.grp ∧ s2.thr = s1.thr := by
        unfold State.checkoutLaunch at h2
        split at h2
        · cases h2; exact ⟨rfl, rfl⟩
        · split at h2
          · cases h2
          · cases h2; exact ⟨rfl, rfl⟩
      have hgrp : ((s2.checkoutCore s2.grp.dev s2.grp.core).focusPart s2.grp.dev s2.lau.pid).grp = s1.grp := by simp [hgrp2.1]
      have hthr : ((s2.checkoutCore s2.grp.dev s2.grp.core).focusPart s2.grp.dev s2.lau.pid).thr = s1.thr := by simp [hgrp2.2]
      refine ⟨(((checkoutGroup_refocused h1).trans (checkoutLaunch_refocused h2)).trans (checkoutCore_refocused _ _ _)).trans (focusPart_refocused _ _ _), ?_⟩
      rw [hgrp, hthr]
      unfold State.checkoutGroup at h1
      split at h1
      · next hg => cases h1; exact ⟨by simp [State.group?, State.allGroups, hg], hg, rfl⟩
      · next hg =>
        split at h1
        · cases h1
        · next g hfind =>
          cases h1
          exact ⟨by simpa [State.group?, State.allGroups, hg] using hfind, by simpa using List.find?_some hfind, rfl⟩

/-- A thread's focus checks out that thread and its group. -/
theorem focus_facts {k : ThreadKey} {s t : State} (h : s.focus k = some t) :
    Refocused s t ∧ s.group? k.gid = some t.grp ∧ t.grp.gid = k.gid ∧ t.thr.key = k := by
  unfold State.focus at h
  split at h
  · cases h
  · next s1 h1 =>
    obtain ⟨href, hgrp, hgid, hthr⟩ := focusGroup_facts h
    have hgroups : s1.group? k.gid = s.group? k.gid ∧ s1.thr.key = k := by
      unfold State.checkoutThread at h1
      split at h1
      · next hk => cases h1; exact ⟨rfl, hk⟩
      · split at h1
        · cases h1
        · next u hfind => cases h1; exact ⟨rfl, by simpa using List.find?_some hfind⟩
    exact ⟨(checkoutThread_refocused h1).trans href, by rw [← hgroups.1, hgrp], hgid, by rw [hthr]; exact hgroups.2⟩

/-- A thread's group reads the same bytes in its focus. -/
theorem focus_groupBytes {k : ThreadKey} {s t : State} (h : s.focus k = some t) (key n : Nat) : t.groupBytes k.gid key n = s.groupBytes k.gid key n := by
  obtain ⟨href, hgrp, hgid, -⟩ := focus_facts h
  have hown : t.group? k.gid = some t.grp := by simp [State.group?, State.allGroups, hgid]
  simp only [State.groupBytes, hown, hgrp, href.mem]

/-! ## An atomic at issue (R165) -/

theorem touch_facts (va : Nat) (st : Bool) (x : Xlat) (s : State) : (s.touch va st x).thr = s.thr ∧ (s.touch va st x).grp = s.grp
    ∧ (s.touch va st x).nextId = s.nextId ∧ (s.touch va st x).inflight = s.inflight := by
  have h := touch_eq va st x s
  refine ⟨?_, ?_, ?_, ?_⟩ <;> rw [h]

theorem touch_read32 (va : Nat) (st : Bool) (x : Xlat) (s : State) (c : BitVec 8) : (s.touch va st x).read32 c = s.read32 c := by
  rw [touch_eq]; rfl

theorem readWords_congr {s t : State} (h : ∀ c, t.read32 c = s.read32 c) (c : BitVec 8) (n : Nat) : t.readWords c n = s.readWords c n := by
  induction n generalizing c with
  | zero => rfl
  | succ n ih => simp only [State.readWords, h, ih]

theorem atomicArgs_congr {s t : State} (h : ∀ c, t.read32 c = s.read32 c) (e : Enc) : t.atomicArgs e = s.atomicArgs e := by
  simp only [State.atomicArgs, State.opB, State.readN, readWords_congr h]

/-- The atomic of an instruction. -/
def atomicOf (e : Enc) (b : State) : AccessKind := .atomic e.c.toNat e.t.toNat (b.atomicArgs e).1 (b.atomicArgs e).2

/-- The operation as its published write has it: refused, or sent to its home, a mailbox page with the phase committed early (R130). -/
def atomicNow (x : Xlat) (va : Nat) (o q : Bool) (kind : AccessKind) (s : State) : Except Stop (List Word × State) :=
  match s.refusal x va with
  | some st => .error st
  | none => if x.cls = 5 then s.commitEarly.map (fun s => ([], State.send kind x va false o false q s)) else .ok ([], s.send kind x va false o false q)

/-- With nothing staged the operation is under way, and nothing else of it has happened. -/
theorem atomicNow_facts {x : Xlat} {va : Nat} (o q : Bool) {kind : AccessKind} {s : State} (href : s.refusal x va = none)
    (hsh : s.grp.shadow = 0) (hst : s.grp.staged = []) (hva : s.grp.stagedVa = []) : ∃ t a us, atomicNow x va o q kind s = .ok ([], t)
      ∧ t.thr = { s.thr with unacked := us } ∧ t.mem = s.mem ∧ t.nextId = s.nextId + 1 ∧ t.inflight = s.inflight ++ [a]
      ∧ a.serial = s.nextId ∧ a.t = s.thr.key ∧ a.dst = devOf x.key ∧ a.key = x.key ∧ a.ordered = o ∧ a.kind = kind := by
  have sends (s : State) : ∃ a us, (s.send kind x va false o false q).thr = { s.thr with unacked := us } ∧ (s.send kind x va false o false q).mem = s.mem
      ∧ (s.send kind x va false o false q).nextId = s.nextId + 1 ∧ (s.send kind x va false o false q).inflight = s.inflight ++ [a]
      ∧ a.serial = s.nextId ∧ a.t = s.thr.key ∧ a.dst = devOf x.key ∧ a.key = x.key ∧ a.ordered = o ∧ a.kind = kind := by
    obtain ⟨c, n, t, a, hsend, ht, hserial, hthr, hkind, hdst, hkey, -, -, -, hordered, -⟩ := send_facts kind x va false o false q s
    rw [hsend]
    exact ⟨a, t.unacked, ht, rfl, rfl, rfl, hserial, hthr, hdst, hkey, hordered, hkind⟩
  by_cases h5 : x.cls = 5
  · obtain ⟨ps, hcommit⟩ := commitEarly_empty hsh hst hva
    obtain ⟨a, us, hfacts⟩ := sends { s with
      poison := ps, grp := { s.grp with early := true, sampled := false, staged := [], stagedVa := [], stagedStamps := [] } }
    refine ⟨_, a, us, ?_, hfacts⟩
    simp only [atomicNow, href, h5, if_true, hcommit, Except.map]
  · obtain ⟨a, us, hfacts⟩ := sends s
    refine ⟨_, a, us, ?_, hfacts⟩
    simp only [atomicNow, href, h5, if_false]

theorem amoAt_eq (e : Enc) (x : Xlat) (va : Nat) (s : State) : amoAt e x va s =
    match s.releaseBy (field e.m.toNat 1 0) (field e.m.toNat 4 2) with
    | .error st => .error st
    | .ok s1 =>
      match s1.publishRule (2 ≤ field e.m.toNat 1 0 && 2 ≤ field e.m.toNat 4 2) with
      | .error st => .error st
      | .ok s2 =>
        match s2.publish (pubOp e) va (words 2 (s.atomicArgs e).1 ++ words 2 (s.atomicArgs e).2)
          (atomicNow x va (bit e.m.toNat 5) (amoAcq e && !decide (code e e.d ≠ 0xFF)) (atomicOf e s)) with
        | .error st => .error st
        | .ok ([], s3) => .ok (if decide (code e e.d ≠ 0xFF) then s3.logSent.laterAs (s3.nextId - 1) e [] (tw e.t) 0 0 false (amoAcq e) false (e.c = 11) else s3.logSent)
        | .ok (ret, s3) =>
          .ok (if decide (code e e.d ≠ 0xFF) then (s3.unstage x.key (atomicSize e.t.toNat)).later e ret (tw e.t)
              (atomicNew e.c.toNat e.t.toNat (ofWords ret) (s.atomicArgs e).1 (s.atomicArgs e).2).2 0 false (amoAcq e) false (e.c = 11)
            else (if amoAcq e then (s3.unstage x.key (atomicSize e.t.toNat)).acquire (field e.m.toNat 4 2) else s3.unstage x.key (atomicSize e.t.toNat)).orFp
              (atomicNew e.c.toNat e.t.toNat (ofWords ret) (s.atomicArgs e).1 (s.atomicArgs e).2).2) := rfl

theorem does_amo {i : Instr} {e : Enc} {s : State} {g : Bool} {l : Xlat} (hi : exec i s = s.issue g bodyAmo e)
    (hcheck : (atBody e s).check { va := (atBody e s).opA e 2, size := atomicSize e.t.toNat, write := true, classes := [0, 2, 5], prot13 := true } = .ok l)
    (hreg : l.cls = 2 → (atBody e s).thr.region = none)
    (h2 : 2 ≤ field e.m.toNat 1 0 → ((atBody e s).touch ((atBody e s).opA e 2) true l).released (field e.m.toNat 4 2) = true)
    (h3 : field e.m.toNat 1 0 = 3 → (atBody e s).acked = true) (hrun : FirstRun (atBody e s)) (hst : (atBody e s).grp.staged = [])
    (hva : (atBody e s).grp.stagedVa = []) (hsh : (atBody e s).grp.shadow = 0)
    (href : ((atBody e s).touch ((atBody e s).opA e 2) true l).refusal l ((atBody e s).opA e 2) = none) :
    Does i e s (fun b t => Continues b t ∧ t.mem = (b.touch (b.opA e 2) true l).mem
      ∧ (∃ a, t.inflight = b.inflight ++ [a] ∧ a.serial = b.nextId ∧ a.t = b.thr.key ∧ a.dst = devOf l.key ∧ a.key = l.key ∧ a.ordered = bit e.m.toNat 5
        ∧ a.kind = atomicOf e b)
      ∧ t.thr.pend = shrunk b ++ (if code e e.d ≠ 0xFF then [{ loadPending e (tw e.t) 0 (amoAcq e) 0 (decide (e.c = 11)) b with vals := [] }] else [])) := by
  obtain ⟨hthr, hgrp, hid, hin⟩ := touch_facts ((atBody e s).opA e 2) true l (atBody e s)
  have hacked : field e.m.toNat 1 0 = 3 → ((atBody e s).touch ((atBody e s).opA e 2) true l).acked = true := by
    simpa only [State.acked, hthr, hin] using h3
  have hargs : ((atBody e s).touch ((atBody e s).opA e 2) true l).atomicArgs e = (atBody e s).atomicArgs e :=
    atomicArgs_congr (touch_read32 _ _ _ _) e
  obtain ⟨m, hm⟩ := releaseBy_marked h2 hacked
  obtain ⟨f, hf⟩ := publishRule_unstaged (rel := 2 ≤ field e.m.toNat 1 0 && 2 ≤ field e.m.toNat 4 2)
    (s := marked m ((atBody e s).touch ((atBody e s).opA e 2) true l).thr.fenced ((atBody e s).touch ((atBody e s).opA e 2) true l)) (by rw [← hgrp] at hst; exact hst)
  obtain ⟨t, a, us, hnow, htthr, hmem, htid, htin, hserial, hkey, hdst, hk, hordered, hkind⟩ :=
    atomicNow_facts (x := l) (va := (atBody e s).opA e 2) (bit e.m.toNat 5) (amoAcq e && !decide (code e e.d ≠ 0xFF)) (kind := atomicOf e (atBody e s))
      (s := marked m f ((atBody e s).touch ((atBody e s).opA e 2) true l)) href (by rw [← hgrp] at hsh; exact hsh) (by rw [← hgrp] at hst; exact hst)
      (by rw [← hgrp] at hva; exact hva)
  have hpub := publish_withEntry (e := e) (addr := (atBody e s).opA e 2)
    (operand := words 2 ((atBody e s).atomicArgs e).1 ++ words 2 ((atBody e s).atomicArgs e).2) (s := marked m f ((atBody e s).touch ((atBody e s).opA e 2) true l))
    (by rw [FirstRun, ← hgrp] at hrun; exact hrun) hnow
  have hatomic : atomicOf e ((atBody e s).touch ((atBody e s).opA e 2) true l) = atomicOf e (atBody e s) := by simp only [atomicOf, hargs]
  have hmarks : marked (marked m ((atBody e s).touch ((atBody e s).opA e 2) true l).thr.fenced ((atBody e s).touch ((atBody e s).opA e 2) true l)).thr.markers f
      (marked m ((atBody e s).touch ((atBody e s).opA e 2) true l).thr.fenced ((atBody e s).touch ((atBody e s).opA e 2) true l))
      = marked m f ((atBody e s).touch ((atBody e s).opA e 2) true l) := rfl
  have hnoreg : ¬(l.cls = 2 ∧ (atBody e s).thr.region.isSome = true) := fun ⟨hc, hr⟩ => by rw [hreg hc] at hr; cases hr
  have hbody : bodyAmo e (atBody e s) = .ok (if decide (code e e.d ≠ 0xFF) then
      (withEntry e ((atBody e s).opA e 2) (words 2 ((atBody e s).atomicArgs e).1 ++ words 2 ((atBody e s).atomicArgs e).2) []
        (marked m f ((atBody e s).touch ((atBody e s).opA e 2) true l)) t).logSent.laterAs (t.nextId - 1) e [] (tw e.t) 0 0 false (amoAcq e) false (e.c = 11)
      else (withEntry e ((atBody e s).opA e 2) (words 2 ((atBody e s).atomicArgs e).1 ++ words 2 ((atBody e s).atomicArgs e).2) []
        (marked m f ((atBody e s).touch ((atBody e s).opA e 2) true l)) t).logSent) := by
    simp only [bodyAmo, hcheck, if_neg hnoreg, amoAt_eq, hm, hf, hargs, hatomic, hmarks, hpub]
    rfl
  have hthr' : t.thr = { (atBody e s).thr with unacked := us, markers := m, fenced := f } := by
    rw [htthr]
    show ({ ((atBody e s).touch ((atBody e s).opA e 2) true l).thr with unacked := us, markers := m, fenced := f } : Thread) = _
    rw [hthr]
  have hid' : t.nextId - 1 = (atBody e s).nextId := (congrArg (· - 1) htid).trans hid
  have hmem' : t.mem = ((atBody e s).touch ((atBody e s).opA e 2) true l).mem := hmem
  have hin' : t.inflight = (atBody e s).inflight ++ [a] := htin.trans (congrArg (· ++ [a]) hin)
  have haccess : a.serial = (atBody e s).nextId ∧ a.t = (atBody e s).thr.key ∧ a.dst = devOf l.key ∧ a.key = l.key ∧ a.ordered = bit e.m.toNat 5
      ∧ a.kind = atomicOf e (atBody e s) :=
    ⟨hserial.trans hid, hkey.trans (show ((atBody e s).touch ((atBody e s).opA e 2) true l).thr.key = _ by rw [hthr]), hdst, hk, hordered, hkind⟩
  by_cases hd : code e e.d = 0xFF
  · rw [if_neg (by simp [hd])] at hbody
    refine does_continues (ps := []) hi hbody (onward_of_thr hthr') (by simp) (fun u hcont hpend _ => ⟨hcont, hmem', ⟨a, hin', haccess⟩, ?_⟩)
    rw [if_neg (not_not.2 hd)]
    exact hpend
  · rw [if_pos (decide_eq_true hd)] at hbody
    have hunder : Under (atBody e s).thr.status [{ loadPending e (tw e.t) 0 (amoAcq e) 0 (decide (e.c = 11)) (atBody e s) with vals := [] }] (atBody e s).thr
        ((withEntry e ((atBody e s).opA e 2) (words 2 ((atBody e s).atomicArgs e).1 ++ words 2 ((atBody e s).atomicArgs e).2) []
        (marked m f ((atBody e s).touch ((atBody e s).opA e 2) true l)) t).logSent.laterAs (t.nextId - 1) e [] (tw e.t) 0 0 false (amoAcq e) false (e.c = 11)).thr := by
      simp only [State.laterAs, logSent_facts, withEntry_thr, hthr', Under, hid', loadPending]
    refine does_continues hi hbody hunder.onward (by simp [loadPending]) (fun u hcont hpend _ => ⟨hcont, hmem', ⟨a, hin', haccess⟩, ?_⟩)
    rw [if_pos hd]
    exact hpend

/-! ## An atomic on the scratchpad (R166) -/

/-- What `amos` makes of the state: the new value on the scratchpad, and the old one pending or, with d = zr, the flags raised. -/
def amosLeaves (e : Enc) (b : State) (old : Nat) (new : Nat × BitVec 5) : State :=
  let s2 := { b with grp := b.grp.sts (b.opA e 1) (toBytes (atomicSize e.t.toNat) new.1) }
  if code e e.d = 0xFF then (if amoAcq e then s2.acquire (field e.m.toNat 4 2) else s2).orFp new.2
  else s2.later e (words (tw e.t) old) (tw e.t) new.2 0 false (amoAcq e) false (e.c = 11)

theorem amosLeaves_facts (e : Enc) (b : State) (old : Nat) (new : Nat × BitVec 5) :
    (amosLeaves e b old new).mem = b.mem ∧ (amosLeaves e b old new).grp = b.grp.sts (b.opA e 1) (toBytes (atomicSize e.t.toNat) new.1)
      ∧ (amosLeaves e b old new).thr = if code e e.d = 0xFF then b.thr.orFp new.2
          else { b.thr with pend := b.thr.pend ++ [loadPending e (tw e.t) old (amoAcq e) new.2 (decide (e.c = 11)) b] } := by
  unfold amosLeaves
  by_cases hd : code e e.d = 0xFF
  · by_cases ha : amoAcq e = true <;> by_cases hsc : field e.m.toNat 4 2 = 0 <;> simp [hd, ha, hsc, State.acquire, State.orFp]
  · simp only [hd, if_false]
    exact ⟨rfl, rfl, rfl⟩

theorem does_amos {i : Instr} {e : Enc} {s : State} {g : Bool} (hi : exec i s = s.issue g bodyAmos e)
    (hcheck : (atBody e s).checkScratch ((atBody e s).opA e 1) (atomicSize e.t.toNat) = .ok ())
    (h2 : 2 ≤ field e.m.toNat 1 0 → (atBody e s).released (field e.m.toNat 4 2) = true) (h3 : field e.m.toNat 1 0 = 3 → (atBody e s).acked = true) :
    Does i e s (fun b t =>
       let old := Mem.nat b.grp.scratch (b.opA e 1) (atomicSize e.t.toNat)
       let new := atomicNew e.c.toNat e.t.toNat old (b.atomicArgs e).1 (b.atomicArgs e).2
       t.thr.status = .ready ∧ t.thr.pc = b.thr.pc ∧ SameRegs b t ∧ t.mem = b.mem
       ∧ Written (b.opA e 1) (toBytes (atomicSize e.t.toNat) new.1) b.grp.scratch t.grp.scratch
       ∧ (if code e e.d = 0xFF then t.thr.pend = shrunk b ∧ t.thr.fp = b.thr.fp ||| new.2
          else t.thr.fp = b.thr.fp ∧ t.thr.pend = shrunk b ++ [loadPending e (tw e.t) old (amoAcq e) new.2 (decide (e.c = 11)) b])) := by
  obtain ⟨m, hm⟩ := releaseBy_marked h2 h3
  have hwritten := (sts_facts (atBody e s).grp ((atBody e s).opA e 1) (toBytes (atomicSize e.t.toNat)
    (atomicNew e.c.toNat e.t.toNat (Mem.nat (atBody e s).grp.scratch ((atBody e s).opA e 1) (atomicSize e.t.toNat)) ((atBody e s).atomicArgs e).1
      ((atBody e s).atomicArgs e).2).1)).2
  have hbody : bodyAmos e (atBody e s) = .ok (amosLeaves e (marked m (atBody e s).thr.fenced (atBody e s))
      (Mem.nat (atBody e s).grp.scratch ((atBody e s).opA e 1) (atomicSize e.t.toNat))
      (atomicNew e.c.toNat e.t.toNat (Mem.nat (atBody e s).grp.scratch ((atBody e s).opA e 1) (atomicSize e.t.toNat)) ((atBody e s).atomicArgs e).1
        ((atBody e s).atomicArgs e).2)) := by
    simp only [bodyAmos, hcheck, hm, amosLeaves]
    rfl
  obtain ⟨hmem, hgrp, hthr⟩ := amosLeaves_facts e (marked m (atBody e s).thr.fenced (atBody e s))
    (Mem.nat (atBody e s).grp.scratch ((atBody e s).opA e 1) (atomicSize e.t.toNat))
    (atomicNew e.c.toNat e.t.toNat (Mem.nat (atBody e s).grp.scratch ((atBody e s).opA e 1) (atomicSize e.t.toNat)) ((atBody e s).atomicArgs e).1
      ((atBody e s).atomicArgs e).2)
  have hscratch := (congrArg Group.scratch hgrp)
  by_cases hd : code e e.d = 0xFF
  · rw [if_pos hd] at hthr
    refine does_ready (ps := []) hi hbody ?_ ?_ ?_ (by simp) (fun u hready hpend hu => ?_)
    · rw [hthr]; rfl
    · rw [hthr]; rfl
    · rw [hthr]; exact (List.append_nil _).symm
    · rw [RetiredAs, hthr] at hu
      refine ⟨hready, by rw [withThread_thr, hu]; rfl, ⟨by rw [withThread_thr, hu]; rfl, by rw [withThread_thr, hu]; rfl, by rw [withThread_thr, hu]; rfl⟩, hmem,
        fun a => (congrArg (Mem.get · a) hscratch).trans (hwritten a), ?_⟩
      rw [if_pos hd]
      exact ⟨hpend.trans (List.append_nil _), by rw [withThread_thr, hu]; rfl⟩
  · rw [if_neg hd] at hthr
    refine does_ready hi hbody (by rw [hthr]; rfl) (by rw [hthr]; rfl) (by rw [hthr]; rfl) (by simp [loadPending, marked]) (fun u hready hpend hu => ?_)
    rw [RetiredAs, hthr] at hu
    refine ⟨hready, by rw [withThread_thr, hu]; rfl, ⟨by rw [withThread_thr, hu]; rfl, by rw [withThread_thr, hu]; rfl, by rw [withThread_thr, hu]; rfl⟩, hmem,
      fun a => (congrArg (Mem.get · a) hscratch).trans (hwritten a), ?_⟩
    rw [if_neg hd]
    exact ⟨by rw [withThread_thr, hu]; rfl, hpend⟩

/-! ## Performing (R136, R165) -/

theorem find?_and_of {α : Type} {p q : α → Bool} {l : List α} {a : α} (h : l.find? p = some a) (hq : q a = true) :
    l.find? (fun x => p x && q x) = some a := by
  induction l with
  | nil => cases h
  | cons x xs ih =>
    rw [List.find?_cons] at h ⊢
    cases hp : p x with
    | true => simp only [hp, Option.some.injEq] at h; subst h; simp [hq]
    | false => simp only [hp] at h; simpa using ih h

theorem mailboxWrite_unaligned {va : Nat} (h : va % 64 ≠ 0) (s : State) : s.mailboxWrite va = s := by
  unfold State.mailboxWrite; rw [if_pos h]

theorem retryResource_facts (s : State) : s.retryResource.mem = s.mem ∧ s.retryResource.inflight = s.inflight ∧ s.retryResource.thr.pend = s.thr.pend := by
  refine ⟨rfl, rfl, ?_⟩
  unfold State.retryResource
  simp only
  split <;> rfl

theorem acquired_facts (a : Access) (s : State) : (s.acquired a).mem = s.mem ∧ (s.acquired a).inflight = s.inflight := by
  unfold State.acquired
  split <;> simp

/-- An atomic of the own device performs: its new value stands at its place. -/
theorem performAccess_atomic {a : Access} {op ty v cmp : Nat} {s : State} (hr : a.remote = false) (hk : a.kind = .atomic op ty v cmp)
    (hp : s.poisoned a.key (atomicSize ty) = false) : ∃ t, s.performAccess a = (t, .done)
      ∧ t.mem = Mem.write s.mem a.key (toBytes (atomicSize ty) (atomicNew op ty (ofBytes (s.groupBytes a.t.gid a.key (atomicSize ty))) v cmp).1)
      ∧ t.inflight = s.inflight.filter (fun b => b.serial ≠ a.serial) := by
  have hp' : State.poisoned { s with inflight := s.inflight.filter (fun b => b.serial ≠ a.serial) } a.key (atomicSize ty) = false := hp
  simp only [State.performAccess, State.raceRemote, hr, hk, hp', Bool.not_false, Bool.or_true, Bool.true_or, if_true, Bool.false_and, Bool.false_eq_true, if_false]
  refine ⟨_, rfl, ?_, ?_⟩
  · rw [(acquired_facts a _).1]; rfl
  · rw [(acquired_facts a _).2]; rfl

theorem performed_atomic {a : Access} {op ty v cmp : Nat} {s : State} (code : Nat) (hr : a.remote = false) (hva : a.va % 64 ≠ 0) (hk : a.kind = .atomic op ty v cmp)
    (hp : s.poisoned a.key (atomicSize ty) = false) : ∃ t, s.performed a code = some t
      ∧ t.mem = Mem.write s.mem a.key (toBytes (atomicSize ty) (atomicNew op ty (ofBytes (s.groupBytes a.t.gid a.key (atomicSize ty))) v cmp).1)
      ∧ t.inflight = s.inflight.filter (fun b => b.serial ≠ a.serial) := by
  obtain ⟨t, ht, hmem, hin⟩ := performAccess_atomic hr hk hp
  refine ⟨t.retryResource, ?_, hmem, hin⟩
  simp only [State.performed, ht, mailboxWrite_unaligned hva, ite_self]

/-- ATOMIC_PERFORM of an atomic, whether its thread still stands or not. -/
theorem atomicPerforms_atomic {serial : Nat} {a : Access} {op ty v cmp : Nat} {s : State} (hf : s.inflight.find? (fun b => b.serial = serial) = some a)
    (hr : a.remote = false) (hva : a.va % 64 ≠ 0) (hmay : s.mayPerform a = true) (hk : a.kind = .atomic op ty v cmp)
    (hp : s.poisoned a.key (atomicSize ty) = false) : ∃ t, atomicPerforms serial s = some t
      ∧ t.mem = Mem.write s.mem a.key (toBytes (atomicSize ty) (atomicNew op ty (ofBytes (s.groupBytes a.t.gid a.key (atomicSize ty))) v cmp).1)
      ∧ t.inflight = s.inflight.filter (fun b => b.serial ≠ serial) := by
  have hserial : a.serial = serial := by simpa using List.find?_some hf
  have hfind : s.inflight.find? (fun b => b.serial = serial && !b.remote) = some a := find?_and_of (q := fun b => !b.remote) hf (by simp [hr])
  cases hfocus : s.focus a.t with
  | none =>
    obtain ⟨t, ht, hmem, hin⟩ := performAccess_atomic hr hk hp
    refine ⟨t.focusPart a.dst (s.accessPid a), ?_, by rw [(focusPart_refocused _ _ _).mem, hmem], by rw [(focusPart_refocused _ _ _).inflight, hin, hserial]⟩
    simp only [atomicPerforms, hfind, hmay, Bool.not_true, Bool.false_eq_true, if_false, hfocus, ht, mailboxWrite_unaligned hva]
  | some s1 =>
    obtain ⟨href, -⟩ := focus_facts hfocus
    obtain ⟨t, ht, hmem, hin⟩ := performed_atomic 0x10 hr hva hk (by rw [href.poisoned]; exact hp)
    refine ⟨t, ?_, by rw [hmem, href.mem, focus_groupBytes hfocus], by rw [hin, href.inflight, hserial]⟩
    simp only [atomicPerforms, hfind, hmay, Bool.not_true, Bool.false_eq_true, if_false, hfocus, ht]

/-! ## The second read of `ldf` (R131, R159) -/

theorem sint_wrap32 {x : Int} (h1 : -2 ^ 31 ≤ x) (h2 : x < 2 ^ 31) : sint 32 (wrapInt 32 x % 2 ^ 32) = x := by
  have hmod : (wrapInt 32 x % 2 ^ 32 % 2 ^ 32 : Nat) = (x % 2 ^ 32).toNat := by unfold wrapInt; omega
  unfold sint
  rw [hmod]
  split <;> omega

theorem elementOf_bounds (fmt byte nib : Nat) : -2 ^ 31 ≤ elementOf fmt byte nib ∧ elementOf fmt byte nib < 2 ^ 31 := by
  unfold elementOf sint
  split <;> split <;> omega

theorem ofBytes_groupBytes_lt (s : State) (gid k n : Nat) : ofBytes (s.groupBytes gid k n) < 256 ^ n := by
  have h := ofBytes_lt (s.groupBytes gid k n)
  have hlen : (s.groupBytes gid k n).length = n := by simp [State.groupBytes, overlay_map]
  rwa [hlen] at h

/-- What the second read of `ldf` makes of the scale word `w` and the element `q` (R44). -/
def dequantized (nbv : Nat) (scale : Bool) (first nib fmt v : Nat) : Nat × BitVec 5 :=
  dequantT nbv (if scale then v else first % 2 ^ 32) (if scale then sint 32 (first % 2 ^ 32) else elementOf fmt v nib)

/-- The words an `ldf` returns, scale word and element, dequantize so. -/
theorem decoded_words (nbv : Nat) (scale : Bool) (first nib fmt : Nat) {v : Nat} (hv : v < 2 ^ 32) :
    decoded nbv (if scale then [BitVec.ofNat 32 first, BitVec.ofNat 32 v] else [BitVec.ofNat 32 (wrapInt 32 (elementOf fmt v nib)), BitVec.ofNat 32 first])
      = dequantized nbv scale first nib fmt v := by
  obtain ⟨h1, h2⟩ := elementOf_bounds fmt v nib
  cases scale with
  | true =>
    simp only [decoded, dequantized, if_true, List.getD_cons_succ, List.getD_cons_zero, BitVec.toNat_ofNat, Nat.mod_eq_of_lt hv]
  | false =>
    have hq := sint_wrap32 h1 h2
    simp only [decoded, dequantized, Bool.false_eq_true, if_false, List.getD_cons_succ, List.getD_cons_zero, BitVec.toNat_ofNat, hq]

theorem performed_done {a : Access} {s t : State} (code : Nat) (ht : s.performAccess a = (t, .done)) (hk : a.kind.isAtomic = false) :
    s.performed a code = some t.retryResource := by
  simp only [State.performed, ht, hk, Bool.false_and, Bool.false_eq_true, if_false]

/-- The read performs: the pending result receives the element, and no byte of memory differs. -/
theorem performed_decode {a : Access} {scale : Bool} {first nib fmt : Nat} {s : State} {l : Launch} (code : Nat) (hr : a.remote = false)
    (hk : a.kind = .decode scale first nib fmt) (hp : s.poisoned a.key (if scale then 4 else 1) = false) (hl : s.launch? a.lid = some l)
    (hkey : s.thr.key = a.t) (hany : s.thr.pend.any (fun p => p.serial = a.serial) = true) : ∃ t, s.performed a code = some t ∧ t.mem = s.mem
      ∧ t.thr.pend = s.thr.pend.map (fun p => if p.serial = a.serial then
          { p with vals := words 1 (dequantized l.nbv scale first nib fmt (ofBytes (s.groupBytes a.t.gid a.key (if scale then 4 else 1)))).1,
                   fp := (dequantized l.nbv scale first nib fmt (ofBytes (s.groupBytes a.t.gid a.key (if scale then 4 else 1)))).2 } else p) := by
  have hp' : State.poisoned { s with inflight := s.inflight.filter (fun b => b.serial ≠ a.serial) } a.key (if scale then 4 else 1) = false := hp
  have hv : ofBytes (s.groupBytes a.t.gid a.key (if scale then 4 else 1)) < 2 ^ 32 := by
    have := ofBytes_groupBytes_lt s a.t.gid a.key (if scale then 4 else 1)
    cases scale <;> simp at this ⊢ <;> omega
  have hdec := decoded_words l.nbv scale first nib fmt hv
  have hperform : s.performAccess a = (State.answer a
      (if scale then [BitVec.ofNat 32 first, BitVec.ofNat 32 (ofBytes (s.groupBytes a.t.gid a.key (if scale then 4 else 1)))]
        else [BitVec.ofNat 32 (wrapInt 32 (elementOf fmt (ofBytes (s.groupBytes a.t.gid a.key (if scale then 4 else 1))) nib)), BitVec.ofNat 32 first])
      (words 1 (dequantized l.nbv scale first nib fmt (ofBytes (s.groupBytes a.t.gid a.key (if scale then 4 else 1)))).1)
      (dequantized l.nbv scale first nib fmt (ofBytes (s.groupBytes a.t.gid a.key (if scale then 4 else 1)))).2
      { s with inflight := s.inflight.filter (fun b => b.serial ≠ a.serial) }, .done) := by
    have hl' : State.launch? { s with inflight := s.inflight.filter (fun b => b.serial ≠ a.serial) } a.lid = some l := hl
    have hbytes (n : Nat) : State.groupBytes a.t.gid a.key n { s with inflight := s.inflight.filter (fun b => b.serial ≠ a.serial) } = s.groupBytes a.t.gid a.key n := rfl
    simp only [State.performAccess, State.raceRemote, hr, hk, hp', hl', hbytes, hdec, Bool.not_false, Bool.or_true, Bool.true_or, if_true, Bool.false_and, Bool.false_eq_true, if_false,
      Option.map_some, Option.getD_some]
  refine ⟨_, performed_done code hperform (by rw [hk]; rfl), rfl, ?_⟩
  rw [(retryResource_facts _).2.2]
  simp only [State.answer, State.updThread, State.updGroup, State.mapThreads, State.mapGroups, hkey, if_true, Thread.returned, hany]

theorem exec_atomicPerform {serial : Nat} {s t : State} (h : atomicPerforms serial s = some t) : exec (.atomicPerform serial) s = .next t := by
  show Host.Outcome.next ((atomicPerforms serial s).getD s) = _
  rw [h]; rfl

/-- Settles O14: an atomic at issue, on the scratchpad, and where it performs; and the second read of `ldf`. -/
theorem atomics : Obligations.Atomics := by
  refine ⟨fun x s => ⟨?amo, ?amos⟩, fun serial s a hf hr hva hmay => ⟨?atomic, ?decode⟩⟩
  case amo =>
    intro l e b o hcheck hreg h2 h3 hrun hst hva hsh href
    have ht : e.t = x.t := LX.enc_t x _
    have hm : e.m = x.m := LX.enc_m x _
    have hc : e.c = x.c := LX.enc_c x _
    have h := does_amo (i := .amo x) (g := false) (e := e) (s := s) (l := l) rfl (by rw [ht]; exact hcheck) hreg (by rw [hm]; exact h2) (by rw [hm]; exact h3) hrun hst hva hsh href
    simp only [atomicOf, ht, hm, hc] at h
    exact h
  case amos =>
    intro e b o n hcheck h2 h3
    have ht : e.t = x.t := LX.enc_t x _
    have hm : e.m = x.m := LX.enc_m x _
    have hc : e.c = x.c := LX.enc_c x _
    have h := does_amos (i := .amos x) (g := false) (e := e) (s := s) rfl (by rw [ht]; exact hcheck) (by rw [hm]; exact h2) (by rw [hm]; exact h3)
    simp only [ht, hc] at h
    exact h
  case atomic =>
    intro op ty v cmp hk hp
    obtain ⟨t, ht, hmem, hin⟩ := atomicPerforms_atomic hf hr hva hmay hk hp
    refine ⟨t, exec_atomicPerform ht, ?_, hin⟩
    rw [hmem]
    exact written_write _ _ _
  case decode =>
    intro scale first nib fmt s1 l hk hp hfocus hl hkey hany v q w
    obtain ⟨href, -⟩ := focus_facts hfocus
    have hserial : a.serial = serial := by simpa using List.find?_some hf
    have hfind : s.inflight.find? (fun b => b.serial = serial && !b.remote) = some a := find?_and_of (q := fun b => !b.remote) hf (by simp [hr])
    obtain ⟨t, ht, hmem, hpend⟩ := performed_decode 0x10 hr hk (by rw [href.poisoned]; exact hp) hl hkey (by rw [hserial]; exact hany)
    rw [hserial, focus_groupBytes hfocus] at hpend
    refine ⟨t, exec_atomicPerform ?_, by rw [hmem, href.mem], hpend⟩
    simp only [atomicPerforms, hfind, hmay, Bool.not_true, Bool.false_eq_true, if_false, hfocus, ht]

end Sys2Proof.Claims
end

section
/-!
PROOFS. Events of one thread: aging, meeting, due traps, resuming (O30).
-/
namespace Sys2Proof.Claims
open Machine Bits Encoding

/-! ## Events on their places -/

theorem groupAt_some {gid : Nat} {s s1 : State} (h : groupAt gid s = some s1) : gid ≠ 0 ∧ s.focusGroup gid = some s1 := by
  unfold groupAt at h
  split at h
  · cases h
  · next h0 => exact ⟨h0, h⟩

theorem groupAt_gid {gid : Nat} {s s1 : State} (h : groupAt gid s = some s1) : s1.grp.gid = gid := (focusGroup_facts (groupAt_some h).2).2.2.1

theorem onGroup_eq (gid : Nat) (f : State → Option State) (s : State) : s.onGroup gid f = .next (((groupAt gid s).bind f).getD s) := by
  unfold State.onGroup groupAt
  split <;> rfl

theorem whenDue_true {b : Bool} (h : b = true) (t : State) : whenDue b t = some t := if_pos h
theorem whenDue_false {b : Bool} (h : b = false) (t : State) : whenDue b t = none := by rw [h]; rfl

/-- An event that acts where a condition holds, and is claimed to where an equivalent one does. -/
theorem happensWhen_due {i : Instr} {s : State} {place : Option State} {due : State → Prop} {P : State → State → Prop} (c : State → Bool) (g : State → State)
    (hi : exec i s = .next ((place.bind (fun s => whenDue (c s) (g s))).getD s)) (hc : ∀ s1, place = some s1 → (c s1 = true ↔ due s1))
    (hP : ∀ s1, place = some s1 → due s1 → P s1 (g s1)) : HappensWhen i s place due P := by
  refine happensWhen_of _ hi (fun s1 hs hd => ⟨_, whenDue_true ((hc s1 hs).2 hd) _, hP s1 hs hd⟩) (fun s1 hs hd => whenDue_false ?_ _)
  exact Bool.eq_false_iff.2 (fun h => hd ((hc s1 hs).1 h))

/-! ## Meetings (R104, R105) -/

theorem held_iff (t : Thread) (m : CodeAddr) : (t.meet = m ∧ t.held = true) ↔ (t.status = .ready ∧ t.pc = m ∧ t.meet = m ∧ t.released = false) := by
  unfold Thread.held
  constructor
  · rintro ⟨rfl, h⟩; simpa [and_assoc] using h
  · rintro ⟨hs, hp, rfl, hr⟩; simp [hs, hp, hr]

theorem meetingSet_nonempty (s : State) (gid pack : Nat) (m : CodeAddr) : (!(s.meetingSet gid pack m).isEmpty) = true
    ↔ ∃ u ∈ s.packThreads gid pack, u.status = .ready ∧ u.pc = m ∧ u.meet = m ∧ u.released = false := by
  simp only [State.meetingSet, Bool.not_eq_true', List.isEmpty_eq_false_iff_exists_mem, List.mem_filter, Bool.and_eq_true, decide_eq_true_eq, held_iff]

theorem meetingSet_all (s : State) (gid pack : Nat) (m : CodeAddr) (c : Thread → Prop) [DecidablePred c] : (s.meetingSet gid pack m).all (fun t => decide (c t)) = true
    ↔ ∀ u ∈ s.packThreads gid pack, (u.status = .ready ∧ u.pc = m ∧ u.meet = m ∧ u.released = false) → c u := by
  simp only [State.meetingSet, List.all_eq_true, List.mem_filter, Bool.and_eq_true, decide_eq_true_eq, held_iff, and_imp]

theorem meetingAbsent_all (s : State) (gid pack : Nat) (m : CodeAddr) (c : Thread → Prop) [DecidablePred c] : (s.meetingAbsent gid pack m).all (fun t => decide (c t)) = true
    ↔ ∀ u ∈ s.packThreads gid pack, u.status ≠ .exited → u.meet = m → u.pc ≠ m → c u := by
  simp only [State.meetingAbsent, List.all_eq_true, List.mem_filter, Bool.and_eq_true, decide_eq_true_eq, and_imp]

theorem meetingAbsent_empty (s : State) (gid pack : Nat) (m : CodeAddr) : (s.meetingAbsent gid pack m).isEmpty = true
    ↔ ∀ u ∈ s.packThreads gid pack, u.status ≠ .exited → u.meet = m → u.pc = m := by
  have h := meetingAbsent_all s gid pack m (fun _ => False)
  rw [show (s.meetingAbsent gid pack m).isEmpty = (s.meetingAbsent gid pack m).all (fun _ => decide False) by cases s.meetingAbsent gid pack m <;> simp]
  rw [h]
  exact forall₂_congr (fun u _ => forall₂_congr (fun _ _ => not_not))

/-- A released meeting set: its threads are released together, and nothing else differs. -/
def Released (gid pack : Nat) (m : CodeAddr) (s t : State) : Prop :=
  let held := fun (t : Thread) => t.status = .ready ∧ t.pc = m ∧ t.meet = m ∧ t.released = false
  t.mem = s.mem ∧ t.grp = s.grp ∧ ∀ u : Thread, u ∈ s.allThreads →
    ((u.key.gid = gid ∧ u.key.tid / 32 = pack ∧ held u → { u with released := true, readySince := s.dev.clk } ∈ t.allThreads)
     ∧ (¬(u.key.gid = gid ∧ u.key.tid / 32 = pack ∧ held u) → u ∈ t.allThreads))

theorem releaseMeeting_released (gid pack : Nat) (m : CodeAddr) (s : State) : Released gid pack m s (s.releaseMeeting gid pack m) := by
  refine ⟨rfl, rfl, fun u hu => ?_⟩
  have hmem : (if u.key.gid = gid ∧ u.key.tid / 32 = pack ∧ u.meet = m ∧ u.held = true then { u with released := true, readySince := s.dev.clk } else u)
      ∈ (s.releaseMeeting gid pack m).allThreads := mem_allThreads_mapThreads hu
  refine ⟨fun ⟨hg, hp, hheld⟩ => ?_, fun hn => ?_⟩
  · rwa [if_pos ⟨hg, hp, (held_iff u m).2 hheld⟩] at hmem
  · rwa [if_neg (fun ⟨hg, hp, hheld⟩ => hn ⟨hg, hp, (held_iff u m).1 hheld⟩)] at hmem

/-! ## Gathers and stall limits (R111, R112) -/

theorem foldl_or_getLsbD (ls : List Nat) (m : Word) {l : Nat} (hl : l < 32) :
    (ls.foldl (fun (m : Word) l => m ||| BitVec.twoPow 32 l) m).getLsbD l = (m.getLsbD l || decide (l ∈ ls)) := by
  induction ls generalizing m with
  | nil => simp
  | cons x xs ih =>
    rw [List.foldl_cons, ih, BitVec.getLsbD_or, BitVec.getLsbD_twoPow]
    by_cases hx : x = l
    · subst hx; simp [hl]
    · simp [hx, Ne.symm hx]

theorem waitStall_own {s s1 : State} {d : Word} {w : Wait} (hrun : s.running = true) (hdue : s.thr.due = none) (h0 : s.lau.stall ≠ 0)
    (hlim : s.lau.stall ≤ s.dev.clk - s.thr.waitSince + s.thr.waited) (hw : s.thr.status = .waiting w) (hc : s.countsSeen = true)
    (hd : s.stallDetail = some (d, s1)) (hn : ∀ n, w ≠ .regclaim n) : waitStall s = some { s1 with thr := { s1.thr with due := some (8, d) } } := by
  simp only [waitStall, hd, hrun, hdue, hc, h0, hlim, hw, Option.isNone_none, Bool.and_self, ne_eq, not_false_eq_true, decide_true, whenDue, if_true]
  cases w with
  | regclaim n => exact absurd rfl (hn n)
  | _ => rfl

/-- What a claim of the register pool that waits too long makes due, in every thread of its pack (R122). -/
theorem waitStall_claim {s : State} {n : Nat} (hrun : s.running = true) (hdue : s.thr.due = none) (h0 : s.lau.stall ≠ 0)
    (hlim : s.lau.stall ≤ s.dev.clk - s.thr.waitSince + s.thr.waited) (hw : s.thr.status = .waiting (.regclaim n)) :
    waitStall s = some (s.mapThreads (fun t => if s.samePack t && t.status = .waiting (.regclaim n) then
      { t with due := some (8, BitVec.ofNat 32 (n / 8 * 2 ^ 16 + s.grp.pool)) } else t)) := by
  simp only [waitStall, State.stallDetail, State.countsSeen, hrun, hdue, h0, hlim, hw, Option.isNone_none, Bool.and_self, ne_eq, not_false_eq_true, decide_true, whenDue, if_true]

/-! ## Due traps (R113) -/

theorem withdrawClaim_facts (s : State) : s.withdrawClaim.thr = s.thr ∧ s.withdrawClaim.mem = s.mem ∧ s.withdrawClaim.part = s.part
    ∧ s.withdrawClaim = { s with grp := { s.grp with claims := s.withdrawClaim.grp.claims } } := by
  unfold State.withdrawClaim
  split <;> exact ⟨rfl, rfl, rfl, rfl⟩

/-- A due trap is taken as any other: it is no longer due, and a claim of the pool is withdrawn. -/
theorem takeTrap_due {s : State} (h : CanTrap s) (cause : Nat) (d : Word) (ws : List Word) :
    Trapped cause d 0 ws s ((State.withdrawClaim { s with thr := { s.thr with due := none } }).takeTrap cause d 0 ws) := by
  obtain ⟨-, hsh, hidle, va, x, hplace, hbox⟩ := h
  obtain ⟨hthr, hmem, hpart, heq⟩ := withdrawClaim_facts { s with thr := { s.thr with due := none } }
  generalize State.withdrawClaim { s with thr := { s.thr with due := none } } = s1 at *
  have htrap : Trapped cause d 0 ws s1 (s1.takeTrap cause d 0 ws) := by
    refine takeTrap_trapped (va := va) (x := x) ?_ ?_ ?_ ?_ cause d 0 ws
    · rw [heq]; exact hsh
    · rw [heq]; exact hidle
    · rw [heq]; exact hplace
    · rw [heq]; exact hbox
  obtain ⟨va, x, hplace, hsync, hdisp, hcause, hd, harg, hpc, hmeet, hws, htid, hout, hrest⟩ := htrap
  generalize s1.takeTrap cause d 0 ws = t at *
  rw [heq] at hplace hcause hpc hmeet htid hrest
  exact ⟨va, x, hplace, hsync, hdisp, hcause, hd, harg, hpc, hmeet, hws, htid,
    fun a ha => (hout a ha).trans (congrArg (Mem.get · a) (touch_mem_congr va true x hmem hpart)), hrest⟩

theorem deliverDue_takes {gid pack cause : Nat} {u : Thread} {d : Word} {s s2 : State} (hfind : (s.packThreads gid pack).find? (fun t => t.due.isSome && t.status ≠ .exited) = some u)
    (hdue : u.due = some (cause, d)) (hfocus : s.focus u.key = some s2) (hrun : s2.running = true) (hc : CanTrap s2) :
    deliverDue gid pack s = some ((State.withdrawClaim { s2 with thr := { s2.thr with due := none } }).takeTrap cause d 0 s2.thr.instr) := by
  have hnew : s2.trapTaken = false := hc.1
  simp only [deliverDue, hfind, hfocus, hdue, hrun, hnew, Bool.not_false, Bool.and_self, whenDue, if_true]

/-! ## Trapped threads (R85) -/

section
variable {s : State} {cause key : Nat} (hrun : s.running = true) (hs : s.thr.status = .trapped cause key) (hrel : s.trapReleased = true)
include hrun hs hrel

theorem trapEnd_goesOn (hm : Mem.nat s.mem (key + 16) 4 = 1) : trapEnd s = some { s with core := s.core.invalidate, thr := s.thr.wake s.dev.clk } := by
  simp only [trapEnd, hrun, hrel, Bool.and_self, whenDue, if_true, State.resumeTrap, hs, hm]
  rfl

theorem trapEnd_software (hm : Mem.nat s.mem (key + 16) 4 = 0) (hc : cause = 2 ∨ cause = 3) :
    trapEnd s = some { s with core := s.core.invalidate, thr := (s.thr.wake s.dev.clk).shrink s.nextId } := by
  simp only [trapEnd, hrun, hrel, Bool.and_self, whenDue, if_true, State.resumeTrap, hs, hm, hc]

theorem trapEnd_again (hm : Mem.nat s.mem (key + 16) 4 = 0) (hc : cause ≠ 2 ∧ cause ≠ 3) :
    trapEnd s = some { s with core := s.core.invalidate, thr := s.thr.retry s.dev.clk } := by
  simp only [trapEnd, hrun, hrel, Bool.and_self, whenDue, if_true, State.resumeTrap, hs, hm, hc, false_or, if_false]

theorem trapEnd_ends (hm : 1 < Mem.nat s.mem (key + 16) 4) : trapEnd s = some (State.exitThread { s with core := s.core.invalidate }) := by
  have h0 : Mem.nat s.mem (key + 16) 4 ≠ 0 := by omega
  have h1 : Mem.nat s.mem (key + 16) 4 ≠ 1 := by omega
  simp only [trapEnd, hrun, hrel, Bool.and_self, whenDue, if_true, State.resumeTrap, hs, h0, h1, if_false]

end

/-- Settles O30: each event by its condition and what it makes of the thread, of the pack or of the group. -/
theorem threadEvents : Obligations.ThreadEvents := by
  intro k gid pack m s
  refine ⟨?spin, ?aged, ⟨?meets, ?early⟩, ?yields, fun op mask ws live => ?xstall, ⟨fun loc gen => ?bsync, ?bother, fun n => ?bclaim⟩, fun u cause d s2 => ?trap,
    fun cause key => ⟨?skips, ?again, ?kills, ?waits⟩⟩
  case spin =>
    refine happensWhen_due (fun s => s.running && s.thr.spin.low && decide (s.thr.spin.lowUntil ≤ s.dev.clk)) _ rfl (fun s1 _ => ?_) (fun s1 _ _ => rfl)
    simp [and_assoc]
  case aged =>
    refine happensWhen_due (fun s => s.running && s.thr.status = .ready && !s.thr.held && !s.thr.aged && decide (s.thr.readySince + 2048 ≤ s.dev.clk)) _ rfl
      (fun s1 _ => ?_) (fun s1 _ _ => rfl)
    simp only [Bool.and_eq_true, decide_eq_true_eq, Bool.not_eq_true', Thread.held]
    constructor
    · rintro ⟨⟨⟨⟨h1, h2⟩, h3⟩, h4⟩, h5⟩
      exact ⟨h1, h2, by simpa [h2] using h3, h4, h5⟩
    · rintro ⟨h1, h2, h3, h4, h5⟩
      exact ⟨⟨⟨⟨h1, h2⟩, by simpa [h2] using h3⟩, h4⟩, h5⟩
  case meets =>
    refine happensWhen_due (fun s => s.running && !(s.meetingSet s.grp.gid pack m).isEmpty && (s.meetingAbsent s.grp.gid pack m).isEmpty) _ (onGroup_eq _ _ _)
      (fun s1 h1 => ?_) (fun s1 h1 _ => ?_)
    · rw [groupAt_gid h1, Bool.and_eq_true, Bool.and_eq_true, meetingSet_nonempty, meetingAbsent_empty, and_assoc]
    · rw [groupAt_gid h1]; exact releaseMeeting_released gid pack m s1
  case early =>
    refine happensWhen_due (fun s => s.running && !(s.meetingSet s.grp.gid pack m).isEmpty
      && (s.meetingSet s.grp.gid pack m).all (fun t => decide (t.readySince + 65536 ≤ s.dev.clk))
      && (s.meetingAbsent s.grp.gid pack m).all (fun t => decide (t.progress + 65536 ≤ s.dev.clk))) _ (onGroup_eq _ _ _)
      (fun s1 h1 => ?_) (fun s1 h1 _ => ?_)
    · rw [groupAt_gid h1, Bool.and_eq_true, Bool.and_eq_true, Bool.and_eq_true, meetingSet_nonempty, meetingSet_all, meetingAbsent_all, and_assoc, and_assoc]
    · rw [groupAt_gid h1]; exact releaseMeeting_released gid pack m s1
  case yields =>
    refine happensWhen_of endYield rfl (fun s1 _ hdue => ?due) (fun s1 _ hnot => ?undue)
    case due =>
      obtain ⟨hrun, pcs, til, hs, hend⟩ := hdue
      exact ⟨_, endYield_due hrun hs hend, rfl⟩
    case undue => exact Option.eq_none_iff_forall_ne_some.2 (fun t ht => hnot (endYield_some ht))
  case xstall =>
    refine happens_of gatherStall rfl (fun s1 _ ⟨hrun, hw, hdue, hmiss, hlt, hlim⟩ => ?_)
    have hbits (l : Nat) (hl : l < 32) : (s1.missingLanes.foldl (fun (m : Word) l => m ||| BitVec.twoPow 32 l) 0).getLsbD l = decide (l ∈ s1.missingLanes) := by
      rw [foldl_or_getLsbD _ _ hl]; simp
    have hne : s1.missingLanes.foldl (fun (m : Word) l => m ||| BitVec.twoPow 32 l) 0 ≠ 0 := by
      obtain ⟨l, hl⟩ := List.exists_mem_of_ne_nil _ hmiss
      intro h0
      have hb := hbits l (hlt l hl)
      rw [h0] at hb
      simp [hl] at hb
    refine ⟨_, ?_, _, rfl, hbits⟩
    simp only [gatherStall, hw, hrun, hdue, hlim, Option.isNone_none, ne_eq, hne, not_false_eq_true, decide_true, Bool.and_self, whenDue, if_true]
  case bsync =>
    refine happens_of waitStall rfl (fun s1 _ ⟨⟨hrun, hdue, h0, hlim⟩, hw, hseen⟩ => ⟨_, waitStall_own hrun hdue h0 hlim hw ?_ ?_ nofun, rfl⟩)
    · simp [State.countsSeen, hw, hseen]
    · simp only [State.stallDetail, hw]
  case bother =>
    refine happens_of waitStall rfl ?_
    rintro s1 - ⟨⟨hrun, hdue, h0, hlim⟩, w, hw, hkind⟩
    have hfree : s1.stallDetail = some (s1.free 32) ∧ s1.countsSeen = true ∧ ∀ n, w ≠ .regclaim n := by
      rcases hkind with rfl | ⟨n, dst, rfl⟩ | ⟨at_, dst, rfl⟩ | ⟨p, bound, rfl⟩ | ⟨q, rfl⟩ <;> simp [State.stallDetail, State.countsSeen, hw]
    exact ⟨_, waitStall_own hrun hdue h0 hlim hw hfree.2.1 hfree.1 hfree.2.2, _, rfl⟩
  case bclaim =>
    refine happens_of waitStall rfl (fun s1 _ ⟨⟨hrun, hdue, h0, hlim⟩, hw⟩ => ⟨_, waitStall_claim hrun hdue h0 hlim hw, rfl, rfl, fun u hu => ?_⟩)
    have hmem := mem_allThreads_mapThreads (f := fun t => if s1.samePack t && t.status = .waiting (.regclaim n) then
      { t with due := some (8, BitVec.ofNat 32 (n / 8 * 2 ^ 16 + s1.grp.pool)) } else t) hu
    have hcond : (s1.samePack u && decide (u.status = .waiting (.regclaim n))) = true
        ↔ (u.key.gid = s1.thr.key.gid ∧ u.key.tid / 32 = s1.thr.key.tid / 32 ∧ u.status = .waiting (.regclaim n)) := by
      simp [State.samePack, and_assoc]
    refine ⟨fun h => ?_, fun h => ?_⟩
    · simpa only [hcond.2 h, if_true] using hmem
    · simpa only [Bool.eq_false_iff.2 (fun hb => h (hcond.1 hb)), Bool.false_eq_true, if_false] using hmem
  case trap =>
    refine happens_of (deliverDue gid pack) (onGroup_eq _ _ _) (fun s1 _ ⟨hfind, hdue, _, hfocus, hrun, hc⟩ => ⟨_, deliverDue_takes hfind hdue hfocus hrun hc, takeTrap_due hc ..⟩)
  case skips =>
    refine happens_of trapEnd rfl ?_
    rintro s1 - ⟨⟨hrun, hs, hrel⟩, hm | ⟨hm, hc, hq⟩⟩
    · exact ⟨_, trapEnd_goesOn hrun hs hrel hm, rfl, rfl, rfl, ⟨rfl, rfl, rfl⟩, ⟨rfl, rfl, rfl, rfl⟩, rfl⟩
    · refine ⟨_, trapEnd_software hrun hs hrel hm hc, ?_⟩
      rw [Thread.shrink_quiet (s1.thr.wake s1.dev.clk) s1.nextId hq]
      exact ⟨rfl, rfl, rfl, ⟨rfl, rfl, rfl⟩, ⟨rfl, rfl, rfl, rfl⟩, rfl⟩
  case again =>
    exact happens_of trapEnd rfl (fun s1 _ ⟨⟨hrun, hs, hrel⟩, hm, hc⟩ =>
      ⟨_, trapEnd_again hrun hs hrel hm hc, rfl, rfl, rfl, ⟨rfl, rfl, rfl⟩, ⟨rfl, rfl, rfl, rfl⟩, rfl⟩)
  case kills =>
    refine happens_of trapEnd rfl (fun s1 _ ⟨⟨hrun, hs, hrel⟩, hm⟩ => ⟨_, trapEnd_ends hrun hs hrel hm, ?_⟩)
    obtain ⟨hkey, hstatus, -, -, hmem, hregs, -⟩ := exitThread_ends { s1 with core := s1.core.invalidate }
    exact ⟨hkey, hstatus, hmem, hregs⟩
  case waits =>
    intro hn
    show Host.Outcome.next (((s.focus k).bind trapEnd).getD s) = _
    cases hf : s.focus k with
    | none => rfl
    | some s1 => simp only [Option.bind_some, trapEnd, hn s1 hf, Bool.and_false, whenDue_false, Option.getD_none]

end Sys2Proof.Claims
end

section
/-!
PROOFS. Arrival of results, replies and acknowledgements (O31).
-/
namespace Sys2Proof.Claims
open Machine Bits Encoding

/-! ## Delivering a result (R27) -/

theorem flush_skips (t : Thread) (kept : List Pending) {ps : List Pending} (qs : List Pending) (h : ps.all (fun p => !(p.arrived && p.win = 0)) = true) :
    Thread.flush t kept (ps ++ qs) = Thread.flush t (ps.reverse ++ kept) qs := by
  induction ps generalizing kept with
  | nil => rfl
  | cons p ps ih =>
    rw [List.all_cons, Bool.and_eq_true, Bool.not_eq_true'] at h
    rw [List.cons_append, Thread.flush, h.1]
    simpa using ih (p :: kept) h.2

theorem flush_waits (t : Thread) {ps : List Pending} (h : ps.all (fun p => !(p.arrived && p.win = 0)) = true) : Thread.flush t [] ps = { t with pend := ps } := by
  have := flush_skips t [] [] h
  simpa [Thread.flush] using this

/-- Delivering writes the registers and flags of a result, and what spinning notes of it. -/
theorem deliver_eq (t : Thread) (p : Pending) : t.deliver p = { t with
    regs := (t.putDst p.dst p.vals).regs, spin := (t.putDst p.dst p.vals).spin, fp := t.fp ||| p.fp, sli := t.sli ||| p.sli,
    l0 := (if p.alu && p.vals.length == 1 then p.vals.getD 0 0 else t.l0), l1 := (if p.alu && p.vals.length == 1 then t.l0 else t.l1) } := by
  unfold Thread.deliver
  rw [Thread.result_eq]
  rfl

/-- The one arrived result whose window is over is delivered, past others that its registers do not meet. -/
theorem flush_delivers (t : Thread) {ps qs : List Pending} {p : Pending} (hps : ps.all (fun p => !(p.arrived && p.win = 0)) = true)
    (hqs : qs.all (fun p => !(p.arrived && p.win = 0)) = true) (ha : p.arrived = true) (hw : p.win = 0)
    (hmeet : ∀ q ∈ ps, regsMeet p.dst.toNat p.width q.dst.toNat q.width = false) :
    Thread.flush t [] (ps ++ p :: qs) = { t.deliver p with pend := ps ++ qs } := by
  have hany : (ps.reverse ++ []).any (fun q => regsMeet p.dst.toNat p.width q.dst.toNat q.width) = false := by
    simpa [List.any_eq_false] using fun q hq => by simp [hmeet q hq]
  rw [flush_skips t [] _ hps, Thread.flush, ha, hw, hany]
  have := flush_skips (t.deliver p) (ps.reverse ++ []) [] hqs
  simpa [Thread.flush] using this

/-- Marking the results of a serial as arrived, where only `p` has it and stands in one place. -/
theorem map_arrived {l : List Pending} {p : Pending} {serial : Nat} (hp : p ∈ l) (hnodup : l.Nodup) (hone : ∀ q ∈ l, q.serial = serial → q = p) (hs : p.serial = serial) :
    ∃ ps qs, l = ps ++ p :: qs ∧ l.filter (fun q => q ≠ p) = ps ++ qs
      ∧ l.map (fun q => if q.serial = serial then { q with arrived := true } else q) = ps ++ { p with arrived := true } :: qs := by
  obtain ⟨ps, qs, rfl⟩ := List.append_of_mem hp
  have hne (q : Pending) (hq : q ∈ ps ∨ q ∈ qs) : q ≠ p := by
    rintro rfl
    rw [List.nodup_append] at hnodup
    obtain ⟨-, hc, hd⟩ := hnodup
    rcases hq with hq | hq
    · exact hd q hq q (by simp) rfl
    · exact (List.nodup_cons.1 hc).1 hq
  have hsame (rs : List Pending) (hrs : ∀ q ∈ rs, q ≠ p ∧ q ∈ ps ++ p :: qs) :
      rs.map (fun q => if q.serial = serial then { q with arrived := true } else q) = rs ∧ rs.filter (fun q => q ≠ p) = rs := by
    refine ⟨?_, List.filter_eq_self.2 (fun q hq => by simpa using (hrs q hq).1)⟩
    conv => rhs; rw [← List.map_id rs]
    exact List.map_congr_left (fun q hq => if_neg (fun h => (hrs q hq).1 (hone q (hrs q hq).2 h)))
  obtain ⟨hps, hpf⟩ := hsame ps (fun q hq => ⟨hne q (.inl hq), by simp [hq]⟩)
  obtain ⟨hqs, hqf⟩ := hsame qs (fun q hq => ⟨hne q (.inr hq), by simp [hq]⟩)
  refine ⟨ps, qs, rfl, ?_, ?_⟩
  · rw [List.filter_append, hpf, List.filter_cons_of_neg (by simp), hqf]
  · rw [List.map_append, hps, List.map_cons, hqs, if_pos hs]

theorem retryInterlock_ready {t : Thread} (clk : Nat) (h : t.status = .ready ∨ t.status = .waiting .interlock) :
    ∃ r w, t.retryInterlock clk = { t with status := .ready, readySince := r, waited := w } := by
  unfold Thread.retryInterlock
  rcases h with h | h
  · have hn : ¬ t.status = .waiting .interlock := by rw [h]; nofun
    rw [if_neg hn]
    exact ⟨t.readySince, t.waited, by rw [← h]⟩
  · rw [if_pos h]; exact ⟨_, _, rfl⟩

/-! ## Replies (R27, R276) -/

theorem foldl_put1_eq (rs : List (Nat × Word)) (t : Thread) : rs.foldl (fun (t : Thread) (r : Nat × Word) => t.put1 r.1 r.2) t
    = { t with regs := (rs.foldl (fun (t : Thread) (r : Nat × Word) => t.put1 r.1 r.2) t).regs,
               spin := (rs.foldl (fun (t : Thread) (r : Nat × Word) => t.put1 r.1 r.2) t).spin } := by
  induction rs generalizing t with
  | nil => rfl
  | cons r rs ih => rw [List.foldl_cons, ih, Thread.put1_eq]

theorem lookup_absent {α : Type} {k : Nat} {l : List (Nat × α)} (h : ∀ q ∈ l, q.1 ≠ k) : lookup k l = none := by
  induction l with
  | nil => rfl
  | cons q l ih => rw [lookup, if_neg (h q (by simp))]; exact ih (fun r hr => h r (by simp [hr]))

/-- Words for registers in rising order stand there afterwards. -/
theorem foldl_put1_regs {rs : List (Nat × Word)} (hrs : rs.Pairwise (fun a b => a.1 < b.1)) (t : Thread) (k : Nat) (h : k < 200) :
    (rs.foldl (fun (t : Thread) (r : Nat × Word) => t.put1 r.1 r.2) t).regs[k] = (lookup k rs).getD t.regs[k] := by
  induction rs generalizing t with
  | nil => rfl
  | cons r rs ih =>
    obtain ⟨hlt, hrest⟩ := List.pairwise_cons.1 hrs
    have hreg := Thread.put1_regs t r.1 r.2 k h
    rw [List.foldl_cons, ih hrest, lookup]
    by_cases hk : r.1 = k
    · have hnone : lookup k rs = none := lookup_absent (fun q hq => by have := hlt q hq; omega)
      rw [hnone, if_pos hk, Option.getD_none, hreg, if_pos hk, Option.getD_some]
    · rw [if_neg hk, hreg, if_neg hk]

/-- The arrived result is delivered, and is pending no more. -/
theorem flush_arrived {t : Thread} {p : Pending} {serial : Nat} (hp : p ∈ t.pend) (hnodup : t.pend.Nodup) (hone : ∀ q ∈ t.pend, q.serial = serial → q = p)
    (hs : p.serial = serial) (hq : t.pend.all (fun p => !p.arrived) = true) (hw : p.win = 0)
    (hmeet : ∀ q ∈ t.pend, q ≠ p → regsMeet p.dst.toNat p.width q.dst.toNat q.width = false) :
    Thread.flush { t with pend := t.pend.map (fun q => if q.serial = serial then { q with arrived := true } else q) } []
      (t.pend.map (fun q => if q.serial = serial then { q with arrived := true } else q))
      = { Thread.deliver { t with pend := t.pend.map (fun q => if q.serial = serial then { q with arrived := true } else q) } { p with arrived := true } with
          pend := t.pend.filter (fun q => q ≠ p) } := by
  obtain ⟨ps, qs, hl, hfilter, hmap⟩ := map_arrived hp hnodup hone hs
  have hopen (q : Pending) (hq' : q ∈ ps ∨ q ∈ qs) : (!(q.arrived && decide (q.win = 0))) = true := by
    have hqm : q ∈ t.pend := by rw [hl]; rcases hq' with h | h <;> simp [h]
    have harrived : q.arrived = false := by simpa using List.all_eq_true.1 hq q hqm
    simp [harrived]
  have hps : ∀ q ∈ ps, regsMeet p.dst.toNat p.width q.dst.toNat q.width = false := by
    intro q hq'
    have hqf : q ∈ t.pend.filter (fun q => q ≠ p) := by rw [hfilter]; simp [hq']
    exact hmeet q (List.mem_filter.1 hqf).1 (by simpa using (List.mem_filter.1 hqf).2)
  rw [hfilter, hmap]
  exact flush_delivers _ (p := { p with arrived := true }) (List.all_eq_true.2 fun q h => hopen q (.inl h)) (List.all_eq_true.2 fun q h => hopen q (.inr h)) rfl hw hps

/-- No core of the device holds a translation of the range any more. -/
theorem dropPages_tlb {dev pid first count : Nat} {s : State} {c : Core} (hc : c ∈ (s.dropPages dev pid first count).allCores) (hd : c.dev = dev) {e : TlbEntry}
    (he : e ∈ c.tlb) : ¬(e.pid = pid ∧ first ≤ e.page ∧ e.page < first + count) := by
  have hmem : c ∈ s.allCores.map (fun c => if c.dev = dev then { c.dropPages pid first count with faultBuf := c.faultBuf.filter (fun b =>
      !(decide (first ≤ b.line / 512) && decide (b.line / 512 < first + count) && s.pidOf b.t.gid = some pid)) } else c) := hc
  obtain ⟨c0, -, rfl⟩ := List.mem_map.1 hmem
  split at he
  · have := (List.mem_filter.1 he).2
    simp at this
    omega
  · next hn => rw [if_neg hn] at hd; exact absurd hd hn

/-! ## Settling the statement -/

theorem resultArrives_eq {serial : Nat} {p : Pending} {s : State}
    (hf : s.thr.pend.find? (fun p => p.serial = serial && !p.arrived && !p.vals.isEmpty) = some p) : resultArrives serial s = some { s with
      core := if p.acq then s.core.invalidate else s.core,
      thr := (Thread.flush { s.thr with pend := s.thr.pend.map (fun q => if q.serial = serial then { q with arrived := true } else q) } []
        (s.thr.pend.map (fun q => if q.serial = serial then { q with arrived := true } else q))).retryInterlock s.dev.clk } := by
  simp only [resultArrives, hf]
  split <;> rfl

/-- A result that arrives leaves all but its thread and, for an acquire, the load cache. -/
theorem storeAcked_eq {serial : Nat} {s : State} (hu : ∃ u ∈ s.thr.unacked, u.serial = serial) (ha : ∀ a ∈ s.inflight, a.serial ≠ serial) :
    storeAcked serial s = some (if s.thr.status = .waiting (.remote serial)
      then { s with thr := Thread.wake { s.thr with unacked := s.thr.unacked.filter (fun u => u.serial ≠ serial) } s.dev.clk }
      else State.retryResource { s with thr := { s.thr with unacked := s.thr.unacked.filter (fun u => u.serial ≠ serial) } }) := by
  have h1 : s.thr.unacked.any (fun u => decide (u.serial = serial)) = true := by simpa using hu
  have h2 : s.inflight.any (fun a => decide (a.serial = serial)) = false := by simpa [List.any_eq_false] using ha
  simp only [storeAcked, h1, h2, Bool.not_true, Bool.or_self, Bool.false_eq_true, if_false]

theorem storeAcked_none {serial : Nat} {s : State} (h : ¬((∃ u ∈ s.thr.unacked, u.serial = serial) ∧ ∀ a ∈ s.inflight, a.serial ≠ serial)) :
    storeAcked serial s = none := by
  have hc : (!(s.thr.unacked.any (fun u => decide (u.serial = serial))) || s.inflight.any (fun a => decide (a.serial = serial))) = true := by
    rw [Bool.or_eq_true, Bool.not_eq_true', List.any_eq_false, List.any_eq_true]
    by_contra hn
    push Not at hn
    refine h ⟨?_, fun a ha => by simpa using hn.2 a ha⟩
    obtain ⟨u, hu, hs⟩ := hn.1
    exact ⟨u, hu, by simpa using hs⟩
  simp only [storeAcked, hc, if_true]

/-- Settles O31: the arrival of a result by whether its window is over, the replies, and the acknowledgement by the thread's status. -/
theorem resultEvents : Obligations.ResultEvents := by
  intro k serial s
  refine ⟨fun p => ⟨?arrives, ?waits⟩, ?reply, fun pid first count => ?tlbinv, ?acked⟩
  case arrives =>
    refine happens_of (resultArrives serial) rfl (fun s1 _ ⟨⟨hf, hq, hone, hst, hlen⟩, hw, hnodup, hmeet⟩ => ⟨_, resultArrives_eq hf, ?_⟩)
    have hp : p ∈ s1.thr.pend := List.mem_of_find?_eq_some hf
    have hs : p.serial = serial := by have := List.find?_some hf; simp_all
    rw [flush_arrived hp hnodup hone hs hq hw hmeet, deliver_eq]
    have hput := fun k h => Thread.putDst_regs { s1.thr with pend := s1.thr.pend.map (fun q => if q.serial = serial then { q with arrived := true } else q) } p.dst p.vals k h
    generalize Thread.putDst { s1.thr with pend := s1.thr.pend.map (fun q => if q.serial = serial then { q with arrived := true } else q) } p.dst p.vals = r at hput ⊢
    obtain ⟨since, waited, heq⟩ := retryInterlock_ready (t := { s1.thr with
      regs := r.regs, spin := r.spin, fp := s1.thr.fp ||| p.fp, sli := s1.thr.sli ||| p.sli, l0 := (if p.alu && p.vals.length == 1 then p.vals.getD 0 0 else s1.thr.l0),
      l1 := (if p.alu && p.vals.length == 1 then s1.thr.l0 else s1.thr.l1), pend := s1.thr.pend.filter (fun q => q ≠ p) }) s1.dev.clk hst
    rw [heq]
    refine ⟨⟨rfl, rfl, rfl, rfl, rfl, rfl, rfl⟩, fun k h => hput k h, rfl, rfl, rfl, fun v hv => ?_⟩
    simp only [hv]
    cases p.alu <;> exact ⟨rfl, rfl⟩
  case waits =>
    refine happens_of (resultArrives serial) rfl (fun s1 _ ⟨⟨hf, hq, hone, hst, hlen⟩, hw⟩ => ⟨_, resultArrives_eq hf, ?_⟩)
    have hquiet : (s1.thr.pend.map (fun q => if q.serial = serial then { q with arrived := true } else q)).all (fun p => !(p.arrived && decide (p.win = 0))) = true := by
      simp only [List.all_map, List.all_eq_true]
      intro q hqm
      have hna := List.all_eq_true.1 hq q hqm
      by_cases hs : q.serial = serial
      · have := hone q hqm hs; subst this; simp [hs, hw]
      · simp_all
    rw [flush_waits _ hquiet]
    obtain ⟨since, waited, heq⟩ :=
      retryInterlock_ready (t := { s1.thr with pend := s1.thr.pend.map (fun q => if q.serial = serial then { q with arrived := true } else q) }) s1.dev.clk hst
    rw [heq]
    exact ⟨⟨rfl, rfl, rfl, rfl, rfl, rfl, rfl⟩, ⟨rfl, rfl, rfl⟩, ⟨rfl, rfl, rfl, rfl⟩, rfl⟩
  case reply =>
    refine happens_of replyArrives rfl (fun s1 _ ⟨hs, hrs⟩ => ?_)
    have heq := foldl_put1_eq s1.thr.reply s1.thr
    have hregs := fun n h => foldl_put1_regs hrs s1.thr n h
    generalize hr : s1.thr.reply.foldl (fun (t : Thread) (r : Nat × Word) => t.put1 r.1 r.2) s1.thr = r at heq hregs
    refine ⟨{ s1 with thr := Thread.wake { r with reply := [] } s1.dev.clk }, ?_, rfl, rfl, ?_, rfl, ⟨?_, ?_, ?_, ?_⟩, hregs⟩
    · simp only [replyArrives, hs, hr]
    all_goals rw [heq]; rfl
  case tlbinv =>
    refine happens_of replyArrives rfl (fun s1 _ ⟨hs, huses⟩ => ⟨{ s1.dropPages s1.grp.dev pid first count with thr := s1.thr.wake s1.dev.clk }, ?_, rfl, rfl, ?_⟩)
    · simp only [replyArrives, hs, huses, Bool.not_false, whenDue, if_true]
    · exact fun c hc hdev e he => dropPages_tlb hc hdev he
  case acked =>
    refine happensWhen_of (storeAcked serial) rfl (fun s1 _ ⟨hu, ha⟩ => ⟨_, storeAcked_eq hu ha, ?_⟩) (fun s1 _ hn => storeAcked_none hn)
    by_cases hw : s1.thr.status = .waiting (.remote serial)
    · rw [if_pos hw]
      exact ⟨rfl, ⟨rfl, rfl, rfl⟩, ⟨rfl, rfl, rfl, rfl⟩, rfl, fun _ => ⟨rfl, rfl⟩, fun h => absurd (hw.symm.trans h) nofun,
        fun h => absurd (hw.symm.trans h) nofun⟩
    · rw [if_neg hw]
      by_cases hres : s1.thr.status = .waiting .resource
      · rw [State.retryResource, if_pos hres]
        exact ⟨rfl, ⟨rfl, rfl, rfl⟩, ⟨rfl, rfl, rfl, rfl⟩, rfl, fun h => absurd h hw, fun _ => ⟨rfl, rfl⟩, fun h => absurd (hres.symm.trans h) nofun⟩
      · rw [State.retryResource, if_neg hres]
        exact ⟨rfl, ⟨rfl, rfl, rfl⟩, ⟨rfl, rfl, rfl, rfl⟩, rfl, fun h => absurd h hw, fun h => absurd h hres, fun h => ⟨h, rfl⟩⟩

end Sys2Proof.Claims
end

section
/-!
PROOFS. Attestation (O48).
-/
namespace Sys2Proof.Claims
open Machine Bits Encoding

/-! ## Events of a device -/

/-- An event of a device completes as its own function says. -/
theorem happens_onDev {i : Instr} {dev : Nat} {f : State → Option State} {s : State} {due : State → Prop} {P : State → State → Prop} (hi : exec i s = s.onDev dev f)
    (h : ∀ s1, due s1 → ∃ t, f s1 = some t ∧ P s1 t) : Happens i s (some (s.checkoutDev dev)) due P := by
  rintro s1 hs hd
  cases hs
  obtain ⟨t, ht, hp⟩ := h _ hd
  refine ⟨t, ?_, hp⟩
  rw [hi, State.onDev, ht, Option.getD_some]

/-- One that acts where a condition holds. -/
theorem happensWhen_onDev {i : Instr} {dev : Nat} {f : State → Option State} {s : State} {due : State → Prop} {P : State → State → Prop} (c : State → Bool)
    (g : State → State) (hi : exec i s = s.onDev dev f) (hf : ∀ s1, f s1 = whenDue (c s1) (g s1)) (hc : ∀ s1, c s1 = true ↔ due s1)
    (hP : ∀ s1, due s1 → P s1 (g s1)) : HappensWhen i s (some (s.checkoutDev dev)) due P := by
  refine happensWhen_due c g ?_ (fun s1 _ => hc s1) (fun s1 _ => hP s1)
  rw [hi, State.onDev, hf, Option.bind_some]

/-! ## The responder of a function (R343, R344) -/

/-- The function is asked on a device that has booted and is not stopped. -/
def SpdmUp (pid : Nat) (s : State) : Prop := s.dev.ready = true ∧ s.dev.stopped = false ∧ pid < 32

/-- The whole effect is an answer and what the session is after it. -/
def Answers (pid code : Nat) (payload : List Byte) (x : Spdm) (s t : State) : Prop :=
  t = { s with drawn := t.drawn, dev := { s.dev with spdm := Bits.insert pid x s.dev.spdm }, out := .spdm s.dev.num pid code payload :: s.out }

/-- The whole effect is the answer ERROR, with its code. -/
def Refuses (pid err : Nat) (s t : State) : Prop := Answers pid 0x7F [BitVec.ofNat 8 err] { s.dev.session pid with signed := none } s t

theorem spdmUp_iff (s : State) (pid : Nat) : s.spdmUp pid = true ↔ SpdmUp pid s := by
  simp [State.spdmUp, SpdmUp, and_assoc]

theorem spdmAnswer_answers (pid code : Nat) (payload : List Byte) (x : Spdm) (s : State) : Answers pid code payload x s (s.spdmAnswer pid code payload x) := rfl

theorem spdmRefuse_refuses (pid err : Nat) (s : State) : Refuses pid err s (s.spdmRefuse pid err) := rfl

theorem spdmPlain_negotiated {s : State} {pid : Nat} (h : (s.dev.session pid).stage = 3) (req : Nat) (ask : List Byte) (code : Nat) (payload : List Byte) :
    s.spdmPlain pid req ask code payload = s.spdmAnswer pid code payload ((s.dev.session pid).add req ask code payload) := if_neg (not_not.2 h)

theorem spdmPlain_unexpected {s : State} {pid : Nat} (h : (s.dev.session pid).stage ≠ 3) (req : Nat) (ask : List Byte) (code : Nat) (payload : List Byte) :
    s.spdmPlain pid req ask code payload = s.spdmRefuse pid 4 := if_pos h

theorem spdmOpen_length (n : Nat) (s : State) : (s.spdmOpen n).1.length = n := by simp [State.spdmOpen]

/-- A signed exchange, after the responder has drawn what its answer needs: it signs the hash of the transcript and ends it. -/
theorem spdmSigned_negotiated {s : State} {pid : Nat} (h : (s.dev.session pid).stage = 3) (n req : Nat) (ask : List Byte) (code : Nat) (payload : List Byte) :
    Answers pid code (payload ++ Config.sign 0 s.dev.num (Config.sha512 ((s.dev.session pid).add req ask code payload).transcript))
      { s.dev.session pid with transcript := [], signed := some (Config.sha512 ((s.dev.session pid).add req ask code payload).transcript) } s
      ((s.spdmOpen n).2.spdmSigned pid req ask code payload) := by
  unfold State.spdmSigned
  rw [if_neg (show ¬(((s.spdmOpen n).2.dev.session pid).stage ≠ 3) from not_not.2 h)]
  rfl

theorem spdmSigned_unexpected {s : State} {pid : Nat} (h : (s.dev.session pid).stage ≠ 3) (n req : Nat) (ask : List Byte) (code : Nat) (payload : List Byte) :
    Refuses pid 4 s ((s.spdmOpen n).2.spdmSigned pid req ask code payload) := by
  unfold State.spdmSigned
  rw [if_pos (show ((s.spdmOpen n).2.dev.session pid).stage ≠ 3 from h)]
  rfl

/-! ## A request that the function answers -/

section
variable {i : Instr} {dev pid : Nat} {f : State → Option State} {g : State → State} {s : State}

theorem asked {due : State → Prop} {P : State → State → Prop} (hi : exec i s = s.onDev dev f) (hf : ∀ s1, f s1 = whenDue (s1.spdmUp pid) (g s1))
    (h : ∀ s1, due s1 → P s1 (g s1)) : Happens i s (some (s.checkoutDev dev)) (fun s => SpdmUp pid s ∧ due s) P :=
  happens_onDev hi (fun s1 hs => ⟨g s1, by rw [hf, whenDue_true ((spdmUp_iff s1 pid).2 hs.1)], h s1 hs.2⟩)

end

theorem getVersion_answers (dev pid : Nat) (s : State) : HappensWhen (.getVersion dev pid) s (some (s.checkoutDev dev)) (SpdmUp pid)
    (Answers pid 0x04 [0, 1, 0, 0x13] { stage := 1, transcript := [0x13, 0x84] ++ [0x13, 0x04] ++ [0, 1, 0, 0x13], signed := none }) :=
  happensWhen_onDev (f := versionAsked pid) (fun s => s.spdmUp pid) _ rfl (fun _ => rfl) (fun s1 => spdmUp_iff s1 pid) (fun _ _ => rfl)

/-- Settles O48: each request is asked of the responder of its function, which answers by the stage of its session. -/
theorem attestationEvents : Obligations.AttestationEvents := by
  unfold Obligations.AttestationEvents
  intro dev pid s
  refine ⟨getVersion_answers dev pid s, ?capabilities, ?noCapabilities, ?algorithms, ⟨?digests, ?noDigests⟩, ?certificate, ?challenge, ?noChallenge, ?measurements,
    ?vendor, ?noVendor, ?otherVendor⟩
  case capabilities =>
    refine asked (f := capabilitiesAsked pid) rfl (fun _ => rfl) (fun s1 hs => ⟨(s1.spdmOpen 18).1, spdmOpen_length 18 s1, ?_⟩)
    rw [if_neg (not_not.2 hs)]
    rfl
  case noCapabilities => exact asked (f := capabilitiesAsked pid) (P := Refuses pid 4) rfl (fun _ => rfl) (fun s1 hs => by rw [if_pos hs]; rfl)
  case algorithms =>
    intro hashes asyms
    refine ⟨asked (f := algorithmsAsked pid hashes asyms) rfl (fun _ => rfl) ?_,
      asked (f := algorithmsAsked pid hashes asyms) (P := Refuses pid 1) rfl (fun _ => rfl) ?_,
      asked (f := algorithmsAsked pid hashes asyms) (P := Refuses pid 4) rfl (fun _ => rfl) ?_⟩
    · rintro s1 ⟨hs, hh, ha⟩
      rw [if_neg (not_not.2 hs), if_neg (by simp [hh, ha])]
      rfl
    · rintro s1 ⟨hs, hn⟩
      rw [if_neg (not_not.2 hs), if_pos (by simpa only [Bool.not_eq_true', ← Bool.not_eq_true, Bool.and_eq_true, List.contains_iff_mem] using hn)]
      rfl
    · intro s1 hs
      rw [if_pos hs]
      rfl
  case digests => exact asked (f := digestsAsked pid) rfl (fun _ => rfl) (fun s1 hs => by rw [spdmPlain_negotiated hs]; rfl)
  case noDigests => exact asked (f := digestsAsked pid) (P := Refuses pid 4) rfl (fun _ => rfl) (fun s1 hs => by rw [spdmPlain_unexpected hs]; rfl)
  case certificate =>
    intro slot off len
    refine ⟨fun h => ⟨asked (f := certificateAsked pid slot off len) rfl (fun _ => rfl) ?_, asked (f := certificateAsked pid slot off len) (P := Refuses pid 4) rfl (fun _ => rfl) ?_⟩,
      fun h => asked (f := certificateAsked pid slot off len) (P := Refuses pid 1) rfl (fun _ => rfl) ?_⟩
    · intro s1 hs
      rw [if_neg (Nat.not_lt.2 h), spdmPlain_negotiated hs]
      rfl
    · intro s1 hs
      rw [if_neg (Nat.not_lt.2 h), spdmPlain_unexpected hs]
      rfl
    · intro s1 _
      rw [if_pos h]
      rfl
  case challenge =>
    intro nonce
    refine ⟨asked (f := challenged pid 0 nonce) rfl (fun _ => rfl) ?_, asked (f := challenged pid 0 nonce) (P := Refuses pid 4) rfl (fun _ => rfl) ?_⟩
    · intro s1 hs
      refine ⟨_, ⟨(s1.spdmOpen 32).1, spdmOpen_length 32 s1, rfl⟩, ?_⟩
      rw [if_neg (not_not.2 rfl)]
      exact spdmSigned_negotiated hs ..
    · intro s1 hs
      rw [if_neg (not_not.2 rfl)]
      exact spdmSigned_unexpected hs ..
  case noChallenge => exact fun slot nonce h => asked (f := challenged pid slot nonce) (P := Refuses pid 1) rfl (fun _ => rfl) (fun s1 _ => by rw [if_pos h]; rfl)
  case measurements =>
    intro index nonce
    refine ⟨fun sign => ⟨asked (f := measurementsAsked pid index sign nonce) (P := Refuses pid 1) rfl (fun _ => rfl) ?_,
      asked (f := measurementsAsked pid index sign nonce) (P := Refuses pid 4) rfl (fun _ => rfl) ?_⟩,
      asked (f := measurementsAsked pid index false nonce) rfl (fun _ => rfl) ?_, asked (f := measurementsAsked pid index true nonce) rfl (fun _ => rfl) ?_⟩
    · intro s1 hs
      rw [if_pos (by simpa [List.isEmpty_iff] using hs)]
      rfl
    · rintro s1 ⟨hn, hs⟩
      rw [if_neg (by simpa [List.isEmpty_iff, or_iff_not_imp_left] using hn)]
      cases sign
      · rw [if_neg (by decide), spdmPlain_unexpected hs]
        rfl
      · rw [if_pos rfl]
        exact spdmSigned_unexpected hs ..
    · rintro s1 ⟨hs, hn⟩
      rw [if_neg (by simpa [List.isEmpty_iff, or_iff_not_imp_left] using hn), if_neg (by decide), spdmPlain_negotiated hs]
      rfl
    · rintro s1 ⟨hs, hn⟩
      refine ⟨(s1.spdmOpen 32).1, spdmOpen_length 32 s1, ?_⟩
      rw [if_neg (by simpa [List.isEmpty_iff, or_iff_not_imp_left] using hn), if_pos rfl]
      exact spdmSigned_negotiated hs ..
  case vendor =>
    refine fun h => asked (f := vendorAsked pid 0x1F4E 1) rfl (fun _ => rfl) (fun s1 hs => ?_)
    rw [if_pos ⟨rfl, rfl⟩, hs]
    rfl
  case noVendor =>
    refine asked (f := vendorAsked pid 0x1F4E 1) (P := Refuses pid 4) rfl (fun _ => rfl) (fun s1 hs => ?_)
    rw [if_pos ⟨rfl, rfl⟩, hs]
    rfl
  case otherVendor =>
    refine fun vendor code h => asked (f := vendorAsked pid vendor code) (P := Refuses pid 4) rfl (fun _ => rfl) (fun s1 _ => ?_)
    rw [if_neg h]
    rfl

end Sys2Proof.Claims
end

section
/-!
PROOFS. The content walker and the disabling of a prefix table (O40).
-/
namespace Sys2Proof.Claims
open Machine Bits Encoding

/-! ## Events of a partition -/

/-- The place of an event of a partition: a device has partitions 0 to 31. -/
def partPlace (dev pid : Nat) (s : State) : Option State := if pid < 32 then some (s.focusPart dev pid) else none

theorem onPart_eq (dev pid : Nat) (f : State → Option State) (s : State) : s.onPart dev pid f = .next (((partPlace dev pid s).bind f).getD s) := by
  unfold State.onPart partPlace
  split <;> rfl

theorem happens_onPart {i : Instr} {dev pid : Nat} {f : State → Option State} {s : State} {due : State → Prop} {P : State → State → Prop} (hi : exec i s = s.onPart dev pid f)
    (h : ∀ s1, due s1 → ∃ t, f s1 = some t ∧ P s1 t) : Happens i s (partPlace dev pid s) due P := by
  intro s1 hs hd
  obtain ⟨t, ht, hp⟩ := h s1 hd
  refine ⟨t, ?_, hp⟩
  rw [hi, onPart_eq, hs, Option.bind_some, ht, Option.getD_some]

theorem happensWhen_onPart {i : Instr} {dev pid : Nat} {f : State → Option State} {s : State} {due : State → Prop} {P : State → State → Prop} (c : State → Bool)
    (g : State → State) (hi : exec i s = s.onPart dev pid f) (hf : ∀ s1, f s1 = whenDue (c s1) (g s1)) (hc : ∀ s1, c s1 = true ↔ due s1)
    (hP : ∀ s1, due s1 → P s1 (g s1)) : HappensWhen i s (partPlace dev pid s) due P := by
  refine happensWhen_due c g ?_ (fun s1 _ => hc s1) (fun s1 _ => hP s1)
  rw [hi, onPart_eq, funext hf]

/-! ## The registers of content regions and prefix tables -/

theorem region_insert (p : Part) (r : Nat) (x : ContentRegion) (j : Nat) :
    ({ p with regions := Bits.insert r x p.regions } : Part).region j = if j = r then x else p.region j := by
  unfold Part.region
  rw [lookup_insert]
  split <;> rfl

theorem table_setTable (p : Part) (r : Nat) (x : PrefixTable) (j : Nat) : (p.setTable r x).table j = if j = r then x else p.table j := by
  unfold Part.table Part.setTable
  rw [lookup_insert]
  split <;> rfl

/-- Dropping references changes the counts of lines alone, whatever the tables hold. -/
theorem foldl_decr_setTable (names : List DWord) (p : Part) (r : Nat) (x : PrefixTable) :
    names.foldl Part.decr (p.setTable r x) = (names.foldl Part.decr p).setTable r x := by
  induction names generalizing p with
  | nil => rfl
  | cons n ns ih => exact ih (p.decr n)

theorem foldl_decr_table (names : List DWord) (p : Part) (j : Nat) : (names.foldl Part.decr p).table j = p.table j := by
  induction names generalizing p with
  | nil => rfl
  | cons n ns ih => exact ih (p.decr n)

/-- Settles O40: each event acts on the lines, regions or tables of its partition where its condition holds. -/
theorem contentEvents : Obligations.ContentEvents := by
  unfold Obligations.ContentEvents
  intro dev pid region slot table s
  refine ⟨fun l => ?walker, ?slotFree, fun on => ?region, ?enable, ?disable⟩
  case walker =>
    refine happens_onPart (f := walkLine) rfl (fun s1 h => ?_)
    unfold walkLine
    rw [h]
    exact ⟨_, rfl, rfl⟩
  case slotFree =>
    refine happensWhen_onPart (f := freeSlotOf region slot) _ _ rfl (fun _ => rfl) (fun s1 => ?_) (fun s1 _ => ⟨foldl_mem (fun s l => forgetLine_mem _ _ s) _ s1, fun l => ?_⟩)
    · simp only [List.any_eq_true, Bool.and_eq_true, Bool.or_eq_true, Bool.not_eq_true', decide_eq_true_eq, and_assoc, imp_iff_not_or, Bool.not_eq_true]
    · simp only [List.mem_filter, Bool.not_eq_true', ← Bool.not_eq_true, Bool.and_eq_true, Bool.or_eq_true, decide_eq_true_eq, and_assoc, imp_iff_not_or]
  case region =>
    refine happensWhen_onPart (f := enableRegion region on) _ _ rfl (fun _ => rfl) (fun s1 => ?_) (fun s1 _ => ⟨rfl, rfl, ?_, fun r hr => ?_⟩)
    · simp only [Bool.and_eq_true, Bool.or_eq_true, decide_eq_true_eq]
    · exact (region_insert ..).trans (if_pos rfl)
    · exact (region_insert ..).trans (if_neg hr)
  case enable =>
    refine happensWhen_onPart (f := enableTable table true) _ _ rfl (fun _ => rfl) (fun s1 => decide_eq_true_iff) (fun s1 _ => ?_)
    exact ⟨rfl, rfl, (table_setTable ..).trans (if_pos rfl), fun r hr => (table_setTable ..).trans (if_neg hr)⟩
  case disable =>
    refine happensWhen_onPart (f := enableTable table false) _ _ rfl (fun _ => rfl) (fun s1 => decide_eq_true_iff) (fun s1 _ => ?_)
    have hd := fun r => congrArg (fun p => Part.table p r) (foldl_decr_setTable ((s1.part.table table).entries.map (fun e => e.root)) s1.part table { enabled := false, entries := [] })
    have hl := congrArg Part.lines (foldl_decr_setTable ((s1.part.table table).entries.map (fun e => e.root)) s1.part table { enabled := false, entries := [] })
    simp only [List.foldl_map, table_setTable] at hd hl
    refine ⟨rfl, hl, (hd table).trans (if_pos rfl), fun r hr => (hd r).trans ((if_neg hr).trans ?_)⟩
    rw [← List.foldl_map (f := fun e : PrefixEntry => e.root)]
    exact foldl_decr_table ..

end Sys2Proof.Claims
end

section
/-!
PROOFS. Errors, fatal conditions, power and boot of a device (O47).
-/
namespace Sys2Proof.Claims
open Machine Bits Encoding

/-! ## Partitions and devices wherever they stand -/

theorem dev?_self (s : State) : s.dev? s.dev.num = s.dev := by simp [State.dev?, State.allDevs]

theorem updDev_self (f : Device → Device) (s : State) : s.updDev s.dev.num f = { s with dev := f s.dev } := if_pos rfl

theorem part?_keys (s : State) (d p : Nat) : (s.part? d p).dev = d ∧ (s.part? d p).pid = p := by
  unfold State.part?
  cases h : s.allParts.find? (fun c => c.dev = d && c.pid = p) with
  | none => exact ⟨rfl, rfl⟩
  | some c => simpa using List.find?_some h

theorem find?_filter_of {α : Type} {l : List α} {a b : α → Bool} (h : ∀ x, a x = true → b x = true) : (l.filter b).find? a = l.find? a := by
  rw [List.find?_filter]
  congr 1
  funext x
  cases ha : a x
  · simp
  · simp [h x ha]

/-- A partition that keeps its place is found as it was updated, and every other one as it was. -/
theorem part?_updPart {f : Part → Part} (hf : ∀ x, (f x).dev = x.dev ∧ (f x).pid = x.pid) (d p d' p' : Nat) (s : State) :
    (s.updPart d p f).part? d' p' = if d' = d ∧ p' = p then f (s.part? d p) else s.part? d' p' := by
  obtain ⟨hd, hp⟩ := part?_keys s d p
  unfold State.updPart
  split
  · next h =>
    by_cases h' : d' = d ∧ p' = p
    · simp [State.part?, State.allParts, hf, h, h'.1, h'.2]
    · have hne : ¬(d = d' ∧ p = p') := fun e => h' ⟨e.1.symm, e.2.symm⟩
      simp [State.part?, State.allParts, hf, h, h', hne]
  · next h =>
    generalize hv : s.part? d p = v at hd hp ⊢
    have hfv := hf v
    rw [hd, hp] at hfv
    generalize f v = w at hfv
    split
    · next h' => simp [State.part?, State.allParts, h'.1, h'.2, h, hfv.1, hfv.2]
    · next h' =>
      have hne : ¬(d = d' ∧ p = p') := fun e => h' ⟨e.1.symm, e.2.symm⟩
      simp only [State.part?, State.allParts, List.find?_cons, hfv.1, hfv.2, ← Bool.decide_and, hne, decide_false]
      rw [find?_filter_of]
      intro x hx
      obtain ⟨rfl, rfl⟩ := of_decide_eq_true hx
      simp [h']

/-! ## What a report changes -/

/-- Nothing but partitions and the messages that leave the machine differs. -/
def Reported (s t : State) : Prop := t = { s with part := t.part, parts := t.parts, out := t.out }

theorem reported_refl (s : State) : Reported s s := rfl

theorem Reported.trans {s t u : State} (h1 : Reported s t) (h2 : Reported t u) : Reported s u := by
  unfold Reported at h1 h2 ⊢
  rw [h1] at h2
  exact h2

section
variable {s t : State} (h : Reported s t)
include h

theorem Reported.mem : t.mem = s.mem := (congrArg State.mem (show t = _ from h) :)
theorem Reported.poison : t.poison = s.poison := (congrArg State.poison (show t = _ from h) :)
theorem Reported.dev : t.dev = s.dev := (congrArg State.dev (show t = _ from h) :)
theorem Reported.groups : t.groups = s.groups := (congrArg State.groups (show t = _ from h) :)
theorem Reported.threads : t.threads = s.threads := (congrArg State.threads (show t = _ from h) :)
theorem Reported.thr : t.thr = s.thr := (congrArg State.thr (show t = _ from h) :)

end

theorem updPart_reported (d p : Nat) (f : Part → Part) (s : State) : Reported s (s.updPart d p f) := by
  unfold State.updPart
  split <;> rfl

theorem emit_reported (d : Nat) (m : OutMsg) (s : State) : Reported s (s.emit d m) := by
  unfold State.emit
  split <;> rfl

theorem msixSignal_reported (d p v : Nat) (s : State) : Reported s (s.msixSignal d p v) := by
  unfold State.msixSignal
  split
  · exact updPart_reported ..
  · exact emit_reported ..

theorem report_reported (d p code : Nat) (u : ErrUnit) (x : Word) (s : State) : Reported s (s.report d p code u x) := by
  unfold State.report
  split
  · rfl
  · simp only []
    split
    · exact ((updPart_reported ..).trans (updPart_reported ..)).trans (emit_reported ..)
    · exact (((updPart_reported ..).trans (updPart_reported ..)).trans (emit_reported ..)).trans (msixSignal_reported ..)

/-! ## A device that is up (R334, R347) -/

/-- The device is neither stopped nor without power. -/
def DevUp (s : State) : Prop := s.dev.stopped = false ∧ s.dev.unpowered = false

theorem answers_iff (s : State) : s.dev.answers = true ↔ DevUp s := by simp [Device.answers, DevUp]

theorem emit_self {s : State} (h : s.dev.answers = true) (m : OutMsg) : s.emit s.dev.num m = { s with out := m :: s.out } := by
  unfold State.emit
  rw [dev?_self, if_pos h]

theorem emit_down {s : State} (h : s.dev.answers = false) (m : OutMsg) : s.emit s.dev.num m = s := by
  unfold State.emit
  rw [dev?_self, if_neg (by rw [h]; exact Bool.false_ne_true)]

/-- A corrected error of the checked-out device is logged by the function, and its message leaves; nothing else differs (R330, R333). -/
def LoggedCor (p : Nat) (u : ErrUnit) (s t : State) : Prop :=
  t.mem = s.mem ∧ t.dev = s.dev ∧ t.poison = s.poison ∧ t.groups = s.groups ∧ t.threads = s.threads ∧ t.thr = s.thr
    ∧ t.out = .errCor s.dev.num p :: s.out ∧ (t.part? s.dev.num p).errors = (ErrRecord.among ⟨1, 0x01, u.kind, u.unit, 0, s.gtime s.dev.num, s.dev.clk⟩ (s.part? s.dev.num p).errors).take 1024
    ∧ (t.part? s.dev.num p).elhead = (s.part? s.dev.num p).elhead + 1

theorem report_corrected {s : State} (h : s.dev.answers = true) (p : Nat) (u : ErrUnit) : LoggedCor p u s (s.report s.dev.num p 0x01 u 0) := by
  have hr := report_reported s.dev.num p 1 u 0 s
  refine ⟨hr.mem, hr.dev, hr.poison, hr.groups, hr.threads, hr.thr, ?_⟩
  have hlog : ∀ (r : ErrRecord) (x : Part), (x.logError r).dev = x.dev ∧ (x.logError r).pid = x.pid := fun _ _ => ⟨rfl, rfl⟩
  have haer : ∀ x : Part, ({ x with aerCor := true } : Part).dev = x.dev ∧ ({ x with aerCor := true } : Part).pid = x.pid := fun _ => ⟨rfl, rfl⟩
  have hdev : ∀ f g : Part → Part, ((s.updPart s.dev.num p f).updPart s.dev.num p g).dev = s.dev := fun f g => by simp
  have heq : s.report s.dev.num p 1 u 0 = ((s.updPart s.dev.num p (fun q => q.logError (s.newError s.dev.num 1 u 0))).updPart s.dev.num p (fun q => { q with aerCor := true })).emit s.dev.num (.errCor s.dev.num p) := by
    unfold State.report
    rw [dev?_self, h]
    rfl
  have hemit := emit_self (s := (s.updPart s.dev.num p (fun q => q.logError (s.newError s.dev.num 1 u 0))).updPart s.dev.num p (fun q => { q with aerCor := true })) (by rw [hdev]; exact h) (.errCor s.dev.num p)
  rw [hdev] at hemit
  have hnew : s.newError s.dev.num 1 u 0 = ⟨1, 0x01, u.kind, u.unit, 0, s.gtime s.dev.num, s.dev.clk⟩ := by
    unfold State.newError
    rw [dev?_self]
    rfl
  have hp := (part?_updPart haer s.dev.num p s.dev.num p (s.updPart s.dev.num p (fun q => q.logError (s.newError s.dev.num 1 u 0)))).trans (if_pos ⟨rfl, rfl⟩)
  rw [part?_updPart (hlog _), if_pos ⟨rfl, rfl⟩, hnew] at hp
  rw [heq, hemit, hnew]
  refine ⟨by simp, ?_, ?_⟩
  · exact congrArg Part.errors hp
  · exact congrArg Part.elhead hp

theorem legal_iff (u : ErrUnit) : ErrUnit.legal u = true
    ↔ (u.kind = 0 ∧ u.unit < 192) ∨ (u.kind = 1 ∧ u.unit < 4) ∨ (u.kind = 2 ∧ u.unit < 8) ∨ (u.kind = 3 ∧ u.unit < 16) ∨ (u.kind = 4 ∧ u.unit = 0) := by
  unfold ErrUnit.legal
  split <;> simp_all

theorem homeSlice_lt (pa : Nat) : stackOf pa < 8 := by
  unfold stackOf homeSlice
  have hx : ∀ (l : List Nat) (x : Nat), x < 2 ^ 6 → l.foldl (fun x j => x ^^^ field (pa / 512) (6 * j + 5) (6 * j)) x < 2 ^ 6 := by
    intro l
    induction l with
    | nil => exact fun x hx => hx
    | cons j l ih =>
      refine fun x hx => ih _ (Nat.xor_lt_two_pow hx ?_)
      unfold field
      rw [show 6 * j + 5 - 6 * j + 1 = 6 by omega]
      exact Nat.mod_lt _ (by norm_num)
  have := hx (List.range 8) 0 (by norm_num)
  simp only
  omega

/-! ## What clearing a device leaves (R334, R342) -/

/-- Groups and launches only go or change their progress: a group that is left was there, and a launch is of the partition of one that was. -/
def Kin (s t : State) : Prop :=
  (∀ g ∈ t.allGroups, g.gid ≠ 0 → g ∈ s.allGroups) ∧ ∀ l ∈ t.allLaunches, ∃ l0 ∈ s.allLaunches, l0.lid = l.lid ∧ l0.dev = l.dev ∧ l0.pid = l.pid

theorem kin_refl (s : State) : Kin s s := ⟨fun _ h _ => h, fun l h => ⟨l, h, rfl, rfl, rfl⟩⟩

theorem Kin.trans {s t u : State} (h1 : Kin s t) (h2 : Kin t u) : Kin s u := by
  obtain ⟨hg, hl⟩ := h1
  obtain ⟨hg', hl'⟩ := h2
  refine ⟨fun g h h0 => hg g (hg' g h h0) h0, fun l h => ?_⟩
  obtain ⟨l1, h1, e1, e2, e3⟩ := hl' l h
  obtain ⟨l0, h0, e4, e5, e6⟩ := hl l1 h1
  exact ⟨l0, h0, e4.trans e1, e5.trans e2, e6.trans e3⟩

/-- As `Kin`, on the same device. -/
def Within (s t : State) : Prop := Kin s t ∧ t.dev = s.dev

theorem within_refl (s : State) : Within s s := ⟨kin_refl s, rfl⟩

theorem Within.trans {s t u : State} (h1 : Within s t) (h2 : Within t u) : Within s u := ⟨h1.1.trans h2.1, h2.2.trans h1.2⟩

theorem Reported.within {s t : State} (h : Reported s t) : Within s t := by
  unfold Reported at h
  rw [h]
  exact within_refl _

theorem foldl_within {α : Type} {f : State → α → State} (h : ∀ s a, Within s (f s a)) (l : List α) (s : State) : Within s (l.foldl f s) := by
  induction l generalizing s with
  | nil => exact within_refl s
  | cons a l ih => exact (h s a).trans (ih _)

theorem mapLaunches_within {f : Launch → Launch} (hf : ∀ l, (f l).lid = l.lid ∧ (f l).dev = l.dev ∧ (f l).pid = l.pid) (s : State) : Within s (s.mapLaunches f) := by
  refine ⟨⟨fun _ h _ => h, fun l h => ?_⟩, rfl⟩
  rw [show (s.mapLaunches f).allLaunches = s.allLaunches.map f from rfl, List.mem_map] at h
  obtain ⟨l0, h0, rfl⟩ := h
  exact ⟨l0, h0, (hf l0).1.symm, (hf l0).2.1.symm, (hf l0).2.2.symm⟩

theorem mapCores_within (f : Core → Core) (s : State) : Within s (s.mapCores f) := within_refl s

/-- Taking groups out leaves the others. -/
theorem mem_allGroups_filter {keep : Group → Bool} {s t : State} (hgrp : t.grp = if keep s.grp then s.grp else Group.none) (hgroups : t.groups = s.groups.filter keep) :
    ∀ g ∈ t.allGroups, g.gid ≠ 0 → g ∈ s.allGroups ∧ keep g = true := by
  intro g h h0
  rcases List.mem_cons.1 h with rfl | h
  · rw [hgrp] at h0 ⊢
    split at h0
    · next hk => rw [if_pos hk]; exact ⟨List.mem_cons_self .., hk⟩
    · exact absurd rfl h0
  · rw [hgroups, List.mem_filter] at h
    exact ⟨List.mem_cons_of_mem _ h.1, h.2⟩

theorem mem_allLaunches_filter {keep : Launch → Bool} {s t : State} (hlau : t.lau = if keep s.lau then s.lau else Launch.none) (hlaunches : t.launches = s.launches.filter keep) :
    ∀ l ∈ t.allLaunches, l.lid ≠ 0 → l ∈ s.allLaunches ∧ keep l = true := by
  intro l h h0
  rcases List.mem_cons.1 h with rfl | h
  · rw [hlau] at h0 ⊢
    split at h0
    · next hk => rw [if_pos hk]; exact ⟨List.mem_cons_self .., hk⟩
    · exact absurd rfl h0
  · rw [hlaunches, List.mem_filter] at h
    exact ⟨List.mem_cons_of_mem _ h.1, h.2⟩

theorem filterGroups_within {out : Group → Bool} {s t : State} (hgrp : t.grp = if out s.grp then Group.none else s.grp) (hgroups : t.groups = s.groups.filter (fun g => !out g))
    (hlau : t.lau = s.lau) (hlaunches : t.launches = s.launches) (hdev : t.dev = s.dev) : Within s t := by
  refine ⟨⟨fun g hg h0 => (mem_allGroups_filter (keep := fun g => !out g) ?_ hgroups g hg h0).1, fun l h => ⟨l, ?_, rfl, rfl, rfl⟩⟩, hdev⟩
  · rw [hgrp]
    cases out s.grp <;> rfl
  · rwa [State.allLaunches, hlau, hlaunches] at h

theorem loseGroups_within (dev : Nat) (s : State) (l : Launch) : Within s (State.loseGroups dev s l) := by
  unfold State.loseGroups
  simp only []
  split
  · exact within_refl s
  · have hl : ∀ f : Launch → Launch, (∀ l, (f l).lid = l.lid ∧ (f l).dev = l.dev ∧ (f l).pid = l.pid) → Within s (s.updLaunch l.lid f) := by
      intro f hf
      refine mapLaunches_within (fun m => ?_) s
      split
      · exact hf m
      · exact ⟨rfl, rfl, rfl⟩
    generalize hs1 : State.mapCores _ (State.updLaunch l.lid _ s) = s1
    have h1 : Within s s1 := by
      rw [← hs1]
      refine Within.trans (hl _ (fun m => ?_)) (mapCores_within _ _)
      split <;> exact ⟨rfl, rfl, rfl⟩
    refine h1.trans ?_
    generalize hs2 : State.mk .. = s2
    have h2 : Within s1 s2 := by
      rw [← hs2]
      exact filterGroups_within rfl rfl rfl rfl rfl
    split
    · exact h2.trans (report_reported ..).within
    · exact h2

theorem removeLaunches_left (lids gids : List Nat) (s : State) :
    (∀ g ∈ (s.removeLaunches lids gids).allGroups, g.gid ≠ 0 → g ∈ s.allGroups ∧ (!(gids.contains g.gid)) = true)
    ∧ (∀ l ∈ (s.removeLaunches lids gids).allLaunches, l.lid ≠ 0 → l ∈ s.allLaunches ∧ (!(lids.contains l.lid)) = true) := by
  refine ⟨mem_allGroups_filter (keep := fun g => !(gids.contains g.gid)) ?_ rfl, mem_allLaunches_filter (keep := fun l => !(lids.contains l.lid)) ?_ rfl⟩
  · show (if gids.contains s.grp.gid = true then Group.none else s.grp) = _
    cases gids.contains s.grp.gid <;> rfl
  · show (if lids.contains s.lau.lid = true then Launch.none else s.lau) = _
    cases lids.contains s.lau.lid <;> rfl

/-- The device is cleared: no group, launch or core of it is left, and its partitions are as fresh. -/
def Cleared (dev : Nat) (t : State) : Prop :=
  (∀ g ∈ t.allGroups, g.gid ≠ 0 → g.dev ≠ dev) ∧ (∀ l ∈ t.allLaunches, l.lid ≠ 0 → l.dev ≠ dev) ∧ (∀ c ∈ t.cores, c.dev ≠ dev)

theorem clearDevice_facts (dev : Nat) (s : State) : Cleared dev (s.clearDevice dev) ∧ (s.clearDevice dev).dev = s.dev ∧ ((s.clearDevice dev).part? dev 0).errors = [] := by
  unfold State.clearDevice
  simp only []
  generalize hlids : (s.allLaunches.filter (fun l => l.lid ≠ 0 && l.dev = dev)).map Launch.lid = lids
  generalize hgids : (s.allGroups.filter (fun g => g.gid ≠ 0 && (g.dev = dev || lids.contains g.lid))).map Group.gid = gids
  obtain ⟨⟨hg, hl⟩, hd⟩ := foldl_within (loseGroups_within dev) s.allLaunches s
  generalize s.allLaunches.foldl (State.loseGroups dev) s = s0 at hg hl hd
  obtain ⟨hrg, hrl⟩ := removeLaunches_left lids gids s0
  refine ⟨⟨fun g h h0 hdev => ?_, fun l h h0 hdev => ?_, fun c h => ?_⟩, hd, ?_⟩
  · obtain ⟨hm, hk⟩ := hrg g h h0
    have hin : g.gid ∈ gids := by
      rw [← hgids]
      exact List.mem_map_of_mem (List.mem_filter.2 ⟨hg g hm h0, by simp [h0, hdev]⟩)
    simp [hin] at hk
  · obtain ⟨hm, hk⟩ := hrl l h h0
    obtain ⟨l0, hm0, e1, e2, _⟩ := hl l hm
    have hin : l.lid ∈ lids := by
      rw [← hlids, ← e1]
      exact List.mem_map_of_mem (List.mem_filter.2 ⟨hm0, by simp [e1, e2, h0, hdev]⟩)
    simp [hin] at hk
  · simpa using (List.mem_filter.1 h).2
  · have hnone : ∀ ps : List Part, (ps.filter (fun p => p.dev ≠ dev)).find? (fun c => decide (c.dev = dev) && decide (c.pid = 0)) = none := by
      intro ps
      rw [List.find?_eq_none]
      intro p hp
      simp_all
    unfold State.part? State.allParts
    simp only [List.find?_cons, hnone]
    generalize (s0.removeLaunches lids gids).part = q
    by_cases hq : q.dev = dev
    · rw [if_pos hq]
      split <;> rfl
    · rw [if_neg hq]
      simp [hq, Part.fresh]

theorem rekey_facts (dev : Nat) (s : State) : (s.rekey dev).dev = s.dev ∧ (s.rekey dev).allGroups = s.allGroups ∧ (s.rekey dev).allLaunches = s.allLaunches
    ∧ (s.rekey dev).cores = s.cores ∧ ((s.rekey dev).part? dev 0).errors = (s.part? dev 0).errors := by
  unfold State.rekey
  generalize List.range 32 = ps
  induction ps generalizing s with
  | nil => exact ⟨rfl, rfl, rfl, rfl, rfl⟩
  | cons p ps ih =>
    obtain ⟨h1, h2, h3, h4, h5⟩ := ih (({ s with drawn := s.drawn + 1 } : State).updPart dev p (fun q => { q with ka := Config.keyDraw (2 ^ 20 + s.drawn) 0, kb := Config.keyDraw (2 ^ 20 + s.drawn) 1, seed := Config.seedDraw (2 ^ 20 + s.drawn) }))
    refine ⟨h1.trans (by simp), h2.trans (by simp [State.allGroups]), h3.trans (by simp [State.allLaunches]), h4.trans (by simp), h5.trans ?_⟩
    rw [part?_updPart (by exact fun _ => ⟨rfl, rfl⟩)]
    split
    · next h => rw [← h.2]; rfl
    · rfl

theorem cleared_rekey {dev : Nat} {s : State} (h : Cleared dev s) : Cleared dev (s.rekey dev) := by
  obtain ⟨_, hg, hl, hc, _⟩ := rekey_facts dev s
  unfold Cleared
  rw [hg, hl, hc]
  exact h

/-! ## A fatal condition (R334) -/

/-- The record that a fatal condition leaves. -/
def fatalRecord (s : State) : ErrRecord := ⟨6, 0x30, 4, 0, 0, s.gtime s.dev.num, s.dev.clk⟩

/-- What leaves a device as it stops. -/
def fatalMessages (s : State) : List OutMsg :=
  (if s.dev.unpowered then [] else (if Config.iod1Trained s.dev.num then [.errFatal s.dev.num 1] else []) ++ [.errFatal s.dev.num 0]) ++ s.out

theorem fatalStop_facts {s : State} (h : s.dev.stopped = false) : (s.fatalStop s.dev.num).mem = s.mem ∧ (s.fatalStop s.dev.num).groups = s.groups
    ∧ (s.fatalStop s.dev.num).dev = { s.dev with stopped := true, fatal := some (fatalRecord s) } ∧ (s.fatalStop s.dev.num).out = fatalMessages s := by
  have hrec : s.newError s.dev.num 0x30 ⟨4, 0⟩ 0 = fatalRecord s := by
    unfold State.newError
    rw [dev?_self]
    rfl
  have hemit : (pciePorts s.dev.num).foldl (fun t p => t.emit s.dev.num (.errFatal s.dev.num p)) s = { s with out := fatalMessages s } := by
    unfold pciePorts fatalMessages
    cases hu : s.dev.unpowered
    · have ha : s.dev.answers = true := (answers_iff s).2 ⟨h, hu⟩
      cases Config.iod1Trained s.dev.num
      · exact emit_self ha _
      · exact (congrArg (fun t : State => t.emit s.dev.num (.errFatal s.dev.num 1)) (emit_self ha _)).trans (emit_self (s := { s with out := .errFatal s.dev.num 0 :: s.out }) ha _)
    · have ha : s.dev.answers = false := by simp [Device.answers, hu]
      cases Config.iod1Trained s.dev.num
      · exact emit_down ha _
      · exact (congrArg (fun t : State => t.emit s.dev.num (.errFatal s.dev.num 1)) (emit_down ha _)).trans (emit_down ha _)
  unfold State.fatalStop
  simp only [hemit, hrec]
  refine ⟨by simp, ?_, ?_, ?_⟩ <;> simp [State.updDev, State.mapParts]

/-! ## Boot (R342) -/

/-- A boot block: the digest of its image. -/
def bootBlock (d : Device) (i : Nat) : Nat × List Byte := (i, Config.sha512 (d.image i).bytes)

theorem bootStages_stops {i : Nat} (rest : List Nat) {d : Device} (h : d.stageCause i ≠ 0) : d.bootStages (i :: rest)
    = { (if d.stageCause i = 3 then d else { d with measures := d.measures ++ [bootBlock d i] }) with bootStage := i, bootCause := d.stageCause i } :=
  if_neg h

theorem bootStages_passes {i : Nat} (rest : List Nat) {d : Device} (h : d.stageCause i = 0) :
    d.bootStages (i :: rest) = ({ d with measures := d.measures ++ [bootBlock d i] } : Device).bootStages rest := by
  show (if d.stageCause i = 0 then Device.bootStages (if d.stageCause i = 3 then d else _) rest else _) = _
  rw [if_pos h, if_neg (by rw [h]; decide)]
  rfl

/-- Stages that pass are measured one after another. -/
theorem bootStages_append (pre rest : List Nat) (d : Device) (h : ∀ i ∈ pre, d.stageCause i = 0) :
    d.bootStages (pre ++ rest) = ({ d with measures := d.measures ++ pre.map (bootBlock d) } : Device).bootStages rest := by
  induction pre generalizing d with
  | nil => simp
  | cons i pre ih =>
    have hi := h i List.mem_cons_self
    have hgo := bootStages_passes (pre ++ rest) hi
    rw [List.cons_append, hgo, ih { d with measures := d.measures ++ [bootBlock d i] } (fun j hj => h j (List.mem_cons_of_mem _ hj))]
    simp only [List.append_assoc]
    rfl

/-- The device with these boot blocks measured. -/
def measured (d : Device) (ids : List Nat) : Device := { d with measures := ids.map (bootBlock d) }

theorem boot_passes {d : Device} (h : ∀ i ∈ [2, 3, 4], d.stageCause i = 0) : d.boot = { measured d [1, 2, 3, 4, 5] with ready := true } := by
  unfold Device.boot
  simp only []
  rw [show [2, 3, 4] = [2, 3, 4] ++ [] from rfl, bootStages_append _ _ { d with measures := [(1, Config.sha512 (d.image 1).bytes)] } h]
  rfl

/-- Boot stops at the first stage that fails; one that cannot be read is not measured. -/
theorem boot_stops {d : Device} (hr : d.ready = false) {i : Nat} (hi : i ∈ [2, 3, 4]) (hbefore : ∀ j, 2 ≤ j → j < i → d.stageCause j = 0) (h : d.stageCause i ≠ 0) :
    d.boot = { measured d (List.range' 1 (if d.stageCause i = 3 then i - 1 else i)) with bootStage := i, bootCause := d.stageCause i } := by
  obtain ⟨rest, hrest⟩ : ∃ rest, [2, 3, 4] = List.range' 2 (i - 2) ++ i :: rest := by
    simp only [List.mem_cons, List.not_mem_nil, or_false] at hi
    rcases hi with rfl | rfl | rfl
    exacts [⟨[3, 4], rfl⟩, ⟨[4], rfl⟩, ⟨[], rfl⟩]
  have h2 : 2 ≤ i := by
    simp only [List.mem_cons, List.not_mem_nil, or_false] at hi
    omega
  have hpre : ∀ j ∈ List.range' 2 (i - 2), d.stageCause j = 0 := by
    intro j hj
    rw [List.mem_range'_1] at hj
    exact hbefore j hj.1 (by omega)
  have hids : (1 :: List.range' 2 (i - 2)) = List.range' 1 (i - 1) := by
    rw [show i - 1 = (i - 2) + 1 by omega, List.range'_succ]
  have hlast : List.range' 1 (i - 1) ++ [i] = List.range' 1 i := by
    rw [show List.range' 1 i = List.range' 1 (i - 1 + 1) by rw [Nat.sub_add_cancel (by omega)], List.range'_1_concat, Nat.add_sub_cancel' (by omega)]
  have hgo : (measured d [1]).bootStages [2, 3, 4] = (measured d (List.range' 1 (i - 1))).bootStages (i :: rest) := by
    rw [hrest, bootStages_append _ _ (measured d [1]) hpre, ← hids]
    rfl
  have hstop : (measured d (List.range' 1 (i - 1))).bootStages (i :: rest)
      = { measured d (List.range' 1 (if d.stageCause i = 3 then i - 1 else i)) with bootStage := i, bootCause := d.stageCause i } := by
    refine (bootStages_stops rest (d := measured d (List.range' 1 (i - 1))) h).trans ?_
    by_cases h3 : d.stageCause i = 3
    · rw [if_pos (show (measured d (List.range' 1 (i - 1))).stageCause i = 3 from h3), if_pos h3]
      rfl
    · rw [if_neg (show ¬((measured d (List.range' 1 (i - 1))).stageCause i = 3) from h3), if_neg h3, ← hlast]
      unfold measured
      rw [List.map_append]
      rfl
  show (if ((measured d [1]).bootStages [2, 3, 4]).ready = true then _ else (measured d [1]).bootStages [2, 3, 4]) = _
  rw [hgo, hstop, if_neg (by show ¬(d.ready = true); rw [hr]; decide)]

/-- What boot leaves apart from the device's own record: the device cleared, its memory kept, and a fatal record first in the PF's log (R342). -/
theorem boots_facts (s : State) : ∃ t, boots s = some t ∧ t.mem = s.mem ∧ Cleared s.dev.num t ∧ t.dev = { s.dev.resetOf.boot with startAt := s.now }
    ∧ ∀ r, s.dev.fatal = some r → (t.part? s.dev.num 0).errors = [r] := by
  obtain ⟨hclr, hdev, herr⟩ := clearDevice_facts s.dev.num s
  obtain ⟨hrdev, _, _, _, hrerr⟩ := rekey_facts s.dev.num (s.clearDevice s.dev.num)
  have hclr := cleared_rekey hclr
  have hmem : ((s.clearDevice s.dev.num).rekey s.dev.num).mem = s.mem := by simp
  have hdev := hrdev.trans hdev
  have herr := hrerr.trans herr
  unfold boots
  simp only []
  generalize (s.clearDevice s.dev.num).rekey s.dev.num = c at hclr hdev herr hmem
  have hupd : c.updDev s.dev.num (fun _ => { s.dev.resetOf.boot with startAt := s.now }) = { c with dev := { s.dev.resetOf.boot with startAt := s.now } } := by
    unfold State.updDev
    rw [hdev, if_pos rfl]
  rw [hupd]
  generalize ({ s.dev.resetOf.boot with startAt := s.now } : Device) = d
  cases hf : s.dev.fatal with
  | none => exact ⟨_, rfl, hmem, hclr, rfl, fun r hr => nomatch hr⟩
  | some r =>
    have hr := updPart_reported s.dev.num 0 (fun p => p.logError r) { c with dev := d }
    refine ⟨_, rfl, hr.mem.trans hmem, ?_, hr.dev, fun r' hr' => ?_⟩
    · show Cleared _ (State.updPart s.dev.num 0 (fun p => p.logError r) { c with dev := d })
      unfold Reported at hr
      rw [hr]
      exact hclr
    · cases hr'
      rw [part?_updPart (by exact fun _ => ⟨rfl, rfl⟩), if_pos ⟨rfl, rfl⟩]
      show (r.among (c.part? s.dev.num 0).errors).take 1024 = [r]
      rw [herr]
      rfl

/-- Power control at a temperature that shuts the device down (R347): it is stopped, and then without power. -/
theorem shutDown_facts (s : State) : ∀ t, t = (if s.dev.stopped then s else s.fatalStop s.dev.num).updDev s.dev.num (fun d => { d with unpowered := true }) →
    t.mem = s.mem ∧ t.groups = s.groups ∧ t.dev = { s.dev with stopped := true, unpowered := true, fatal := t.dev.fatal } := by
  rintro t rfl
  cases hst : s.dev.stopped
  · obtain ⟨hm, hg, hdev, _⟩ := fatalStop_facts hst
    rw [if_neg Bool.false_ne_true]
    unfold State.updDev
    rw [hdev, if_pos rfl]
    exact ⟨hm, hg, rfl⟩
  · rw [if_pos rfl, updDev_self]
    exact ⟨rfl, rfl, by rw [← hst]⟩

/-! ## The intervals of power control (R347) -/

/-- The device after an interval that measured these. -/
def afterInterval (watts die hbm : Nat) (d : Device) : Device :=
  let hot := decide (d.pwrcapNext.getD d.pwrcap < watts) || decide (95 < die) || decide (95 < hbm)
  { d with pwrcap := d.pwrcapNext.getD d.pwrcap, pwrcapNext := none, pwrnow := watts % 4096, thermDie := die % 256, thermHbm := hbm % 256, throttling := hot,
           mhz := nextClock d.mhz hot, refresh2 := decide (95 < hbm), thrcnt := if hot && d.thrcnt ≠ 0xFFFFFFFF then d.thrcnt + 1 else d.thrcnt }

/-- What an interval leaves of the device's registers. -/
def IntervalFields (watts die hbm : Nat) (d e : Device) : Prop :=
  let cap := d.pwrcapNext.getD d.pwrcap
  let hot := cap < watts ∨ 95 < die ∨ 95 < hbm
  e.pwrcap = cap ∧ e.pwrcapNext = none ∧ e.pwrnow = watts % 4096 ∧ e.thermDie = die % 256 ∧ e.thermHbm = hbm % 256 ∧ e.refresh2 = decide (95 < hbm)
    ∧ (hot → e.throttling = true ∧ e.mhz = max 800 (d.mhz - 25)) ∧ (¬ hot → e.throttling = false ∧ e.mhz = min 1900 (d.mhz + 25) ∧ e.thrcnt = d.thrcnt)
    ∧ (hot → d.thrcnt ≠ 0xFFFFFFFF → e.thrcnt = d.thrcnt + 1)

theorem afterInterval_fields (watts die hbm : Nat) (d : Device) : IntervalFields watts die hbm d (afterInterval watts die hbm d) := by
  have hhot : (decide (d.pwrcapNext.getD d.pwrcap < watts) || decide (95 < die) || decide (95 < hbm)) = decide (d.pwrcapNext.getD d.pwrcap < watts ∨ 95 < die ∨ 95 < hbm) := by
    simp only [Bool.decide_or, Bool.or_assoc]
  refine ⟨rfl, rfl, rfl, rfl, rfl, rfl, fun h => ?_, fun h => ?_, fun h h0 => ?_⟩ <;> simp [afterInterval, nextClock, hhot, h]
  exact h0

theorem powerInterval_stays {watts die hbm : Nat} (h : die < 110 ∧ hbm < 110) (s : State) :
    powerInterval watts die hbm s = some { s with dev := afterInterval watts die hbm s.dev } := by
  unfold powerInterval
  simp only []
  rw [if_neg (by omega)]
  rfl

theorem powerInterval_shuts {watts die hbm : Nat} (h : 110 ≤ die ∨ 110 ≤ hbm) (s : State) : ∃ t, powerInterval watts die hbm s = some t
    ∧ t.mem = s.mem ∧ t.groups = s.groups ∧ t.dev = { afterInterval watts die hbm s.dev with stopped := true, unpowered := true, fatal := t.dev.fatal } := by
  unfold powerInterval
  simp only []
  rw [if_pos h]
  exact ⟨_, rfl, shutDown_facts { s with dev := afterInterval watts die hbm s.dev } _ rfl⟩

/-! ## Configuration requests -/

theorem configures_retries {s : State} (h : DevUp s) {pid : Nat} (hp : pid < 32) (hr : s.dev.ready = false) (hb : s.dev.bootCause = 0) (bar2 : Option Nat) :
    configures pid bar2 s = some { s with out := .completion s.dev.num pid 2 0 :: s.out } := by
  have ha := (answers_iff s).2 h
  show whenDue _ (if _ then s.emit s.dev.num (.completion s.dev.num pid 2 0) else _) = _
  rw [whenDue_true (by simp [ha, hp]), if_pos (by simp [hr, hb]), emit_self ha]

theorem configures_answers {s : State} (h : DevUp s) {pid : Nat} (hp : pid < 32) (hr : s.dev.ready = true ∨ s.dev.bootCause ≠ 0) :
    configures pid none s = some { s with drawn := s.drawn + 1, out := .completion s.dev.num pid 0 (s.free 32).1.toNat :: s.out }
    ∧ ∀ n, configures pid (some n) s = some ((s.updPart s.dev.num pid (fun p => { p with bar2 := if 30 ≤ n ∧ n ≤ 39 then n else p.bar2 })).emit s.dev.num (.completion s.dev.num pid 0 0)) := by
  have ha := (answers_iff s).2 h
  have hn : ¬((!s.dev.ready && decide (s.dev.bootCause = 0)) = true) := by
    rcases hr with hr | hr <;> simp [hr]
  refine ⟨?_, fun n => ?_⟩
  · show whenDue _ (if _ then _ else (s.free 32).2.emit s.dev.num (.completion s.dev.num pid 0 (s.free 32).1.toNat)) = _
    rw [whenDue_true (by simp [ha, hp]), if_neg hn]
    exact congrArg some (emit_self (s := (s.free 32).2) ha _)
  · show whenDue _ (if _ then _ else _) = _
    rw [whenDue_true (by simp [ha, hp]), if_neg hn]

/-- POWER_LOSS: the device is cleared, and of memory nothing of it is left (R334). -/
theorem losePower_facts (s : State) : ∃ t, losePower s = some t ∧ Cleared s.dev.num t ∧ t.dev = { s.dev.resetOf with fatal := none, unpowered := true, startAt := s.now }
    ∧ ∀ a, Mem.get t.mem a = if keyOn s.dev.num a then 0 else Mem.get s.mem a := by
  obtain ⟨hclr, hdev, _⟩ := clearDevice_facts s.dev.num s
  have hmem : (s.clearDevice s.dev.num).mem = s.mem := by simp
  unfold losePower
  simp only []
  generalize s.clearDevice s.dev.num = c at hclr hdev hmem
  refine ⟨_, rfl, ?_⟩
  unfold State.updDev
  rw [hdev, if_pos rfl]
  refine ⟨hclr, rfl, fun a => ?_⟩
  show Mem.get (c.mem.filter _) a = _
  rw [hmem, Mem.get_filter s.mem (fun k => !(keyOn s.dev.num k))]
  cases keyOn s.dev.num a <;> rfl

/-- A write of the BAR control: the function's BAR2 is sized, and the request is completed. -/
theorem sizes_facts {s : State} (h : DevUp s) (pid n : Nat) : ∀ t, t = (s.updPart s.dev.num pid (fun p => { p with bar2 := if 30 ≤ n ∧ n ≤ 39 then n else p.bar2 })).emit s.dev.num (.completion s.dev.num pid 0 0) →
    t.mem = s.mem ∧ t.dev = s.dev ∧ t.out = .completion s.dev.num pid 0 0 :: s.out
      ∧ t.part? s.dev.num pid = { s.part? s.dev.num pid with bar2 := if 30 ≤ n ∧ n ≤ 39 then n else (s.part? s.dev.num pid).bar2 } := by
  rintro t rfl
  have hpart := (part?_updPart (f := fun p => { p with bar2 := if 30 ≤ n ∧ n ≤ 39 then n else p.bar2 }) (by exact fun _ => ⟨rfl, rfl⟩) s.dev.num pid s.dev.num pid s).trans (if_pos ⟨rfl, rfl⟩)
  have hdev : (s.updPart s.dev.num pid (fun p => { p with bar2 := if 30 ≤ n ∧ n ≤ 39 then n else p.bar2 })).dev = s.dev := by simp
  have hout : (s.updPart s.dev.num pid (fun p => { p with bar2 := if 30 ≤ n ∧ n ≤ 39 then n else p.bar2 })).out = s.out := by simp
  have hmem : (s.updPart s.dev.num pid (fun p => { p with bar2 := if 30 ≤ n ∧ n ≤ 39 then n else p.bar2 })).mem = s.mem := by simp
  generalize s.updPart s.dev.num pid (fun p => { p with bar2 := if 30 ≤ n ∧ n ≤ 39 then n else p.bar2 }) = c at hpart hdev hout hmem
  have he := emit_self (s := c) (by rw [hdev]; exact (answers_iff s).2 h) (.completion s.dev.num pid 0 0)
  rw [hdev] at he
  rw [he]
  exact ⟨hmem, rfl, congrArg _ hout, hpart⟩

/-- Settles O47: each event by the function of its device, with the rules of reports, of clearing a device and of boot. -/
theorem deviceEvents : Obligations.DeviceEvents := by
  unfold Obligations.DeviceEvents
  intro dev pid line watts die hbm u s
  have hcor : ∀ p u, ∀ s1 : State, DevUp s1 → LoggedCor p u s1 (s1.report s1.dev.num p 0x01 u 0) := fun p u s1 h => report_corrected ((answers_iff s1).2 h) p u
  refine ⟨?correctedOf, ?corrected, ?clean, ?scrubbed, ?poisoned, ?fatal, ⟨?power, ?boot, fun i hi => ?bootFails⟩, fun bar2 => ?retry, fun n => ?sized, ?answered, ?trained, ?stays, ?shuts⟩
  case correctedOf =>
    refine happensWhen_onDev (f := eccReported u (some pid)) _ _ rfl (fun _ => rfl) (fun s1 => ?_) (fun s1 h => hcor pid u s1 h.1)
    simp only [Bool.and_eq_true, decide_eq_true_eq, Option.getD_some, answers_iff, legal_iff, DevUp]
    tauto
  case corrected =>
    refine happensWhen_onDev (f := eccReported u none) _ _ rfl (fun _ => rfl) (fun s1 => ?_) (fun s1 h => hcor 0 u s1 h.1)
    simp only [Bool.and_eq_true, decide_eq_true_eq, Option.getD_none, answers_iff, legal_iff, DevUp, Nat.ofNat_pos, and_true]
  case clean => exact happens_onDev (f := scrub line .clean) rfl (fun s1 _ => ⟨s1, rfl, rfl⟩)
  case scrubbed =>
    refine happensWhen_onDev (f := scrub line .corrected) _ _ rfl (fun _ => rfl) (fun s1 => ?_) (fun s1 h => hcor 0 _ s1 h)
    have hlegal : ErrUnit.legal ⟨2, stackOf (64 * line)⟩ = true := decide_eq_true (homeSlice_lt _)
    simp only [hlegal, Bool.and_true, Bool.and_eq_true, decide_eq_true_eq, Option.getD_none, answers_iff, DevUp, Nat.ofNat_pos, and_true]
  case poisoned =>
    refine happensWhen_onDev (f := scrub line .uncorrectable) _ _ rfl (fun _ => rfl) (fun s1 => answers_iff s1) (fun s1 _ => ⟨rfl, fun x => ?_⟩)
    show x ∈ (if s1.poison.contains (keyOf s1.dev.num (64 * line) / 64) then s1.poison else _ :: s1.poison) ↔ _
    split
    · next hc =>
      refine ⟨Or.inr, fun h => h.elim (fun e => ?_) id⟩
      rw [e]
      simpa using hc
    · exact List.mem_cons
  case fatal =>
    refine happensWhen_onDev (f := fatalStops) _ _ rfl (fun _ => rfl) (fun s1 => Bool.not_eq_true' _ ▸ Iff.rfl) (fun s1 h => fatalStop_facts h)
  case power =>
    refine happens_onDev (f := losePower) rfl (fun s1 _ => ?_)
    obtain ⟨t, ht, hc, hd, hm⟩ := losePower_facts s1
    refine ⟨t, ht, ⟨hc.1, hc.2.1, hc.2.2, ?_⟩, ?_, ?_, hm⟩ <;> rw [hd] <;> rfl
  case boot =>
    refine happens_onDev (f := boots) rfl (fun s1 h => ?_)
    obtain ⟨t, ht, hm, hc, hd, hf⟩ := boots_facts s1
    rw [boot_passes (d := s1.dev.resetOf) h] at hd
    refine ⟨t, ht, hm, ⟨hc.1, hc.2.1, hc.2.2, ?_⟩, ?_, ?_, ?_, hf⟩ <;> rw [hd] <;> rfl
  case bootFails =>
    refine happens_onDev (f := boots) rfl (fun s1 h => ?_)
    obtain ⟨t, ht, hm, hc, hd, hf⟩ := boots_facts s1
    rw [boot_stops (d := s1.dev.resetOf) rfl hi h.1 h.2] at hd
    refine ⟨t, ht, hm, ⟨hc.1, hc.2.1, hc.2.2, ?_⟩, ?_, ?_, ?_, ?_⟩ <;> rw [hd] <;> rfl
  case retry => exact happens_onDev (f := configures pid bar2) rfl (fun s1 ⟨h, hp, hr, hb⟩ => ⟨_, configures_retries h hp hr hb bar2, rfl⟩)
  case sized =>
    refine happens_onDev (f := configures pid (some n)) rfl (fun s1 ⟨h, hp, hr⟩ => ⟨_, (configures_answers h hp hr).2 n, sizes_facts h pid n _ rfl⟩)
  case answered => exact happens_onDev (f := configures pid none) rfl (fun s1 ⟨h, hp, hr⟩ => ⟨_, (configures_answers h hp hr).1, _, rfl⟩)
  case trained =>
    refine happensWhen_onDev (f := linksTrained) _ _ rfl (fun _ => rfl) (fun s1 => ?_) (fun s1 _ => rfl)
    simp
  case stays =>
    refine happens_onDev (f := powerInterval watts die hbm) rfl (fun s1 h => ⟨_, powerInterval_stays h s1, ?_, rfl, rfl⟩)
    exact ⟨rfl, rfl, afterInterval_fields watts die hbm s1.dev⟩
  case shuts =>
    refine happens_onDev (f := powerInterval watts die hbm) rfl (fun s1 h => ?_)
    obtain ⟨t, ht, hm, hg, hd⟩ := powerInterval_shuts (watts := watts) h s1
    have hf : IntervalFields watts die hbm s1.dev t.dev := by
      rw [hd]
      exact afterInterval_fields watts die hbm s1.dev
    exact ⟨t, ht, ⟨hm, hg, hf⟩, by rw [hd], by rw [hd]⟩

end Sys2Proof.Claims
end

section
/-!
PROOFS. The register window and the memory window (O51).
-/
namespace Sys2Proof.Claims
open Machine Bits Encoding

/-! ## The place of a partition -/

theorem checkoutPart_keys (dev pid : Nat) (s : State) : (s.checkoutPart dev pid).part.dev = dev ∧ (s.checkoutPart dev pid).part.pid = pid := by
  unfold State.checkoutPart
  split
  · next h => exact h
  · show ((s.parts.find? (fun c => c.dev = dev && c.pid = pid)).getD (Part.fresh dev pid)).dev = dev ∧ ((s.parts.find? (fun c => c.dev = dev && c.pid = pid)).getD (Part.fresh dev pid)).pid = pid
    cases hf : s.parts.find? (fun c => c.dev = dev && c.pid = pid) with
    | none => exact ⟨rfl, rfl⟩
    | some c => simpa using List.find?_some hf

theorem checkoutDev_num (dev : Nat) (s : State) : (s.checkoutDev dev).dev.num = dev := by
  unfold State.checkoutDev
  split
  · next h => exact h
  · show ((s.devs.find? (fun c => c.num = dev)).getD (s.idleDev dev)).num = dev
    cases hf : s.devs.find? (fun c => c.num = dev) with
    | none => rfl
    | some c => simpa using List.find?_some hf

theorem checkoutDev_part (dev : Nat) (s : State) : (s.checkoutDev dev).part = s.part := by
  unfold State.checkoutDev
  split <;> rfl

theorem focusPart_keys (dev pid : Nat) (s : State) : (s.focusPart dev pid).part.dev = dev ∧ (s.focusPart dev pid).part.pid = pid ∧ (s.focusPart dev pid).dev.num = dev := by
  obtain ⟨hd, hp⟩ := checkoutPart_keys dev pid s
  unfold State.focusPart
  rw [checkoutDev_part, checkoutDev_num]
  exact ⟨hd, hp, rfl⟩

theorem partPlace_some {dev pid : Nat} {s s1 : State} (h : partPlace dev pid s = some s1) : s1.part.dev = dev ∧ s1.part.pid = pid ∧ s1.dev.num = dev := by
  unfold partPlace at h
  split at h
  · cases h
    exact focusPart_keys dev pid s
  · cases h

/-- The checked-out device is the partition's. -/
def Placed (s : State) : Prop := s.dev.num = s.part.dev

/-- As `happens_onPart`, of a state in which partition and device stand together. -/
theorem happens_onPart_placed {i : Instr} {dev pid : Nat} {f : State → Option State} {s : State} {due : State → Prop} {P : State → State → Prop} (hi : exec i s = s.onPart dev pid f)
    (h : ∀ s1, Placed s1 → due s1 → ∃ t, f s1 = some t ∧ P s1 t) : Happens i s (partPlace dev pid s) due P := by
  intro s1 hs hd
  obtain ⟨hp, _, hn⟩ := partPlace_some hs
  obtain ⟨t, ht, hP⟩ := h s1 (hn.trans hp.symm) hd
  refine ⟨t, ?_, hP⟩
  rw [hi, onPart_eq, hs, Option.bind_some, ht, Option.getD_some]

/-! ## The register window (R310) -/

theorem registerWritten_due {s : State} {off : Nat} (h : s.dev.answers = true) (hoff : off % 4 = 0 ∧ off < 2 ^ 16) (v : Word) :
    registerWritten off v s = some (s.writeRegister off v) := by
  unfold registerWritten
  rw [whenDue_true]
  simpa [h, hoff.1] using hoff.2

/-- A write of the window completes as the register says. -/
theorem written_happens {dev pid off : Nat} {v : Word} {s : State} (hoff : off % 4 = 0 ∧ off < 2 ^ 16) {due : State → Prop} {P : State → State → Prop}
    (h : ∀ s1, due s1 → P s1 (s1.writeRegister off v)) : Happens (.registerWrite dev pid off v) s (partPlace dev pid s) (fun s => s.dev.answers = true ∧ due s) P :=
  happens_onPart (f := registerWritten off v) rfl (fun s1 hd => ⟨_, registerWritten_due hd.1 hoff v, h s1 hd.2⟩)

theorem readRegister_unassigned {o : Nat} (h : 0xC00 ≤ o ∧ o < 0x2000 ∨ 0x4600 ≤ o ∧ o < 0x5000 ∨ 0x5800 ≤ o ∧ o < 0x8000 ∨ 0x8430 ≤ o ∧ o < 0x9000 ∨ 0x9010 ≤ o) (s : State) :
    s.readRegister o = 0 := by
  unfold State.readRegister
  simp only []
  by_cases h4 : o % 4 ≠ 0
  · rw [if_pos h4]
  · rw [if_neg h4]
    iterate 14 rw [if_neg (by omega)]

theorem writeRegister_nothing (s : State) (v : Word) : ∀ o ∈ [0x00, 0x04, 0x28, 0x40, 0x48, 0xE0, 0x110, 0xC00, 0x9000], s.writeRegister o v = s := by
  simp only [List.forall_mem_cons, List.not_mem_nil, false_implies, implies_true, and_true]
  exact ⟨rfl, rfl, rfl, rfl, rfl, rfl, rfl, rfl, rfl⟩

theorem writeRegister_root0 {s : State} (h : s.launching = false) (v : Word) :
    s.writeRegister 0x10 v = { s with part := { s.part with ptroot := BitVec.ofNat 64 (s.part.ptroot.toNat / 2 ^ 32 * 2 ^ 32 + (v &&& 0xFFFFF001).toNat) } } := by
  simp [State.writeRegister, State.writeControl, h, State.withPart, setHalf]

theorem writeRegister_root1 {s : State} (h : s.launching = false) (v : Word) :
    s.writeRegister 0x14 v = { s with part := { s.part with ptroot := BitVec.ofNat 64 ((v &&& 0xFFFFF).toNat * 2 ^ 32 + s.part.ptroot.toNat % 2 ^ 32) } } := by
  simp [State.writeRegister, State.writeControl, h, State.withPart, setHalf]

theorem writeRegister_rootBusy {s : State} (h : s.launching = true) (v : Word) : s.writeRegister 0x10 v = s := by
  simp [State.writeRegister, State.writeControl, h]

theorem writeRegister_nbv {v : Word} (h : v.toNat % 4 = 1 ∨ v.toNat % 4 = 2) (s : State) : s.writeRegister 0x0C v = { s with part := { s.part with nbv := v.toNat % 4 } } := by
  simp [State.writeRegister, State.writeControl, State.also, setsNbv, whenDue, h]

theorem writeRegister_audctl {v : Word} (h : v.toNat % 32 = 0 ∨ (4 ≤ v.toNat % 32 ∧ v.toNat % 32 ≤ 16)) (s : State) :
    s.writeRegister 0x38 v = { s with part := { s.part with audctl := v.toNat % 32 } } := by
  simp [State.writeRegister, State.writeControl, State.withPart, h]

theorem writeRegister_pwrcap {s : State} {v : Word} (hp : s.part.pid = 0) (h : 600 ≤ v.toNat % 4096 ∧ v.toNat % 4096 ≤ 2200) :
    s.writeRegister 0xE4 v = { s with dev := { s.dev with pwrcapNext := some (v.toNat % 4096) } } := by
  simp [State.writeRegister, State.writeControl, hp, h]

theorem writeRegister_pwrcap_vf {s : State} (hp : s.part.pid ≠ 0) (v : Word) : s.writeRegister 0xE4 v = s := by
  simp [State.writeRegister, State.writeControl, hp]

/-! ## The memory window (R309) -/

/-- Nothing but what a write or a check at home changes differs: memory and its poison, attributes of words, load cache, integrity tags. -/
def HomeOnly (s t : State) : Prop := t = { s with mem := t.mem, poison := t.poison, attrs := t.attrs, core := t.core, promoted := t.promoted }

theorem homeOnly_refl (s : State) : HomeOnly s s := rfl

theorem HomeOnly.trans {s t u : State} (h1 : HomeOnly s t) (h2 : HomeOnly t u) : HomeOnly s u := by
  unfold HomeOnly at h1 h2 ⊢
  rw [h1] at h2
  exact h2

section
variable {s t : State} (h : HomeOnly s t)
include h

theorem HomeOnly.dev : t.dev = s.dev := (congrArg State.dev (show t = _ from h) :)
theorem HomeOnly.part : t.part = s.part := (congrArg State.part (show t = _ from h) :)
theorem HomeOnly.groups : t.groups = s.groups := (congrArg State.groups (show t = _ from h) :)
theorem HomeOnly.out : t.out = s.out := (congrArg State.out (show t = _ from h) :)

end

theorem foldl_homeOnly {α : Type} {f : State → α → State} (h : ∀ s a, HomeOnly s (f s a)) (l : List α) (s : State) : HomeOnly s (l.foldl f s) := by
  induction l generalizing s with
  | nil => exact homeOnly_refl s
  | cons a l ih => exact (h s a).trans (ih _)

theorem mark_homeOnly (va : Nat) (store : Bool) (x : Xlat) (s : State) : HomeOnly s (s.mark va store x) := by
  unfold State.mark
  split
  · rfl
  · split
    · split <;> rfl
    · rfl

theorem visitRange_homeOnly (va size : Nat) (store : Bool) (s : State) : HomeOnly s (s.visitRange va size store) := by
  refine foldl_homeOnly (fun s page => ?_) _ s
  unfold State.visit
  split
  · exact mark_homeOnly ..
  · rfl

theorem performCells_homeOnly (cells : List (Nat × Byte)) (s : State) : HomeOnly s (s.performCells cells) :=
  foldl_homeOnly (f := fun (s : State) (c : Nat × Byte) => s.perform c.1 [c.2]) (fun _ _ => rfl) _ s

/-- Answering changes the messages alone. -/
theorem windowAnswer_eq {s : State} (hp : Placed s) (h : s.dev.answers = true) (status data : Nat) :
    s.windowAnswer status data = { s with out := .completion s.part.dev s.part.pid status data :: s.out } := by
  unfold State.windowAnswer
  unfold Placed at hp
  rw [← hp]
  exact emit_self h _

/-- The check of the blocks at some keys changes the promoted pages alone. -/
theorem checkWindow_eq (ks : List Nat) (s : State) : s.checkWindow ks = { s with promoted := (s.checkWindow ks).promoted } := by
  unfold State.checkWindow
  generalize (ks.map (fun k => k / 4096)).dedup = bs
  induction bs generalizing s with
  | nil => rfl
  | cons b bs ih =>
    rw [List.foldl_cons, ih]
    split <;> rfl

/-- A block that failed its check: its page is to be fetched again. -/
def Refetched (k : Nat) (s : State) : Prop := ∃ p ∈ s.promoted, p.page = k / 2 ^ 16 ∧ p.refetch = true

theorem checkedTag_refetched {k : Nat} {s : State} (h : Refetched k s) (key : Nat) (ok : Bool) : Refetched k (s.checkedTag key ok) := by
  obtain ⟨p, hp, hk, hr⟩ := h
  refine ⟨_, List.mem_map_of_mem hp, ?_, ?_⟩ <;> split <;> (try split) <;> simp [hk, hr]

/-- A promoted page after the check of a block. -/
theorem checkedTag_promoted (b : Nat) (ok : Bool) (s : State) : (s.checkedTag (4096 * b) ok).promoted = s.promoted.map (fun p => if p.page ≠ b / 16 then p
    else if ok then { p with checked := b % 16 :: p.checked.filter (fun c => c ≠ b % 16), bad := p.bad.filter (fun c => c ≠ b % 16) }
    else { p with bad := b % 16 :: p.bad.filter (fun c => c ≠ b % 16), refetch := true }) := by
  unfold State.checkedTag
  rw [show 4096 * b / 2 ^ 16 = b / 16 by omega, show 4096 * b % 2 ^ 16 / 4096 = b % 16 by omega]

theorem tagBad_iff (s : State) (k : Nat) : s.tagBad k = true ↔ ∃ p ∈ s.promoted, p.page = k / 4096 / 16 ∧ p.checked.contains (k / 4096 % 16) = false ∧ s.tagOk p (k / 4096 % 16) = false := by
  unfold State.tagBad
  rw [show k / 2 ^ 16 = k / 4096 / 16 by omega, show k % 2 ^ 16 / 4096 = k / 4096 % 16 by omega]
  simp only [List.any_eq_true, Bool.and_eq_true, decide_eq_true_eq, Bool.not_eq_true', and_assoc]

/-- The check of another block leaves one that does not pass. -/
theorem checkedTag_tagBad {k b : Nat} {s : State} (h : s.tagBad k = true) (hne : k / 4096 ≠ b) (ok : Bool) : (s.checkedTag (4096 * b) ok).tagBad k = true := by
  rw [tagBad_iff] at h ⊢
  obtain ⟨p, hp, hpage, hc, ht⟩ := h
  rw [checkedTag_promoted]
  refine ⟨_, List.mem_map_of_mem hp, ?_⟩
  split
  · exact ⟨hpage, hc, ht⟩
  · next hb =>
    have hmod : k / 4096 % 16 ≠ b % 16 := by omega
    split
    · refine ⟨hpage, ?_, ht⟩
      simpa [List.contains_iff_mem, hmod] using hc
    · exact ⟨hpage, hc, ht⟩

/-- The block that does not pass is checked: its page is to be fetched again. -/
theorem checkedTag_bad {k : Nat} {s : State} (h : s.tagBad k = true) : Refetched k (s.checkedTag (4096 * (k / 4096)) (!s.tagBad (4096 * (k / 4096)))) := by
  have hb : s.tagBad (4096 * (k / 4096)) = true := by
    rw [tagBad_iff] at h ⊢
    rwa [show 4096 * (k / 4096) / 4096 = k / 4096 by omega]
  obtain ⟨p, hp, hpage, _⟩ := (tagBad_iff s k).1 h
  rw [hb]
  refine ⟨_, by rw [checkedTag_promoted]; exact List.mem_map_of_mem hp, ?_, ?_⟩ <;> rw [if_neg (not_not.2 hpage)]
  · exact hpage.trans (by omega)
  · rfl

/-- A failing block among those that are checked is found. -/
theorem checkWindow_refetched {k : Nat} {ks : List Nat} {s : State} (hk : k ∈ ks) (h : s.tagBad k = true) : Refetched k (s.checkWindow ks) := by
  unfold State.checkWindow
  have hmem : k / 4096 ∈ (ks.map (fun k => k / 4096)).dedup := List.mem_dedup.2 (List.mem_map_of_mem (f := fun k => k / 4096) hk)
  generalize (ks.map (fun k => k / 4096)).dedup = bs at hmem
  have hkeep : ∀ (bs : List Nat) (s : State), Refetched k s → Refetched k (bs.foldl (fun s b =>
      if s.promoted.any (fun p => p.page = b / 16 && !(p.checked.contains (b % 16))) then s.checkedTag (4096 * b) (!s.tagBad (4096 * b)) else s) s) := by
    intro bs
    induction bs with
    | nil => exact fun _ h => h
    | cons b bs ih =>
      refine fun s h => ih _ ?_
      beta_reduce
      split
      · exact checkedTag_refetched h _ _
      · exact h
  induction bs generalizing s with
  | nil => cases hmem
  | cons b bs ih =>
    rw [List.foldl_cons]
    rcases Decidable.em (k / 4096 = b) with rfl | hne
    · obtain ⟨p, hp, hpage, hc, _⟩ := (tagBad_iff s k).1 h
      rw [if_pos (List.any_eq_true.2 ⟨p, hp, by rw [hc]; simpa using hpage⟩)]
      exact hkeep bs _ (checkedTag_bad h)
    · refine ih ?_ ((List.mem_cons.1 hmem).resolve_left hne)
      split
      · exact checkedTag_tagBad h hne _
      · exact h

/-! ## Accesses through the memory window -/

section
variable {s : State} {off size : Nat}

/-- An access that the window answers: within BAR2, of some bytes, on a device that is up. -/
def Inside (off size : Nat) (s : State) : Prop := s.dev.answers = true ∧ 0 < size ∧ off + size ≤ 2 ^ s.part.bar2

/-- Where its bytes lie, if all of them do. -/
def windowPlaces (off size : Nat) (s : State) : Option (List (Nat × Nat)) := (List.range size).mapM (fun i => s.windowByte (s.part.winbase.toNat + off + i))

theorem inside_iff : (!s.dev.answers || decide (size = 0) || decide (2 ^ s.part.bar2 < off + size)) = false ↔ Inside off size s := by
  simp [Inside, and_assoc, Nat.pos_iff_ne_zero]

theorem windowAccess_outside (h : 2 ^ s.part.bar2 < off + size) (wr : Option Nat) : windowAccess off size wr s = none := by
  unfold windowAccess
  simp only []
  rw [if_pos (by simp [h])]

theorem windowAccess_read (h : Inside off size s) {ps : List (Nat × Nat)} (hps : windowPlaces off size s = some ps) : windowAccess off size none s =
    if s.dev.ckState = 2 || ps.any (fun k => s.poisoned k.1 1) then some (s.windowAnswer 1 0)
    else if ps.any (fun k => s.tagBad k.1) then some ((s.checkWindow (ps.map Prod.fst)).windowAnswer 1 0)
    else some (((s.visitRange (s.part.winbase.toNat + off) size false).checkWindow (ps.map Prod.fst)).windowAnswer 0 (ofBytes (ps.map (fun k => Mem.get s.mem k.1)))) := by
  unfold windowAccess
  unfold windowPlaces at hps
  simp only [hps]
  rw [if_neg (Bool.eq_false_iff.1 (inside_iff.2 h))]

theorem windowAccess_nowhere (h : Inside off size s) (hps : windowPlaces off size s = none) {wr : Option Nat} (hck : wr = none ∨ s.dev.ckState ≠ 2) :
    windowAccess off size wr s = some (s.windowAnswer 1 0) := by
  unfold windowAccess
  unfold windowPlaces at hps
  simp only [hps]
  rw [if_neg (Bool.eq_false_iff.1 (inside_iff.2 h))]
  cases wr with
  | none => rfl
  | some v => exact if_neg (hck.resolve_left (Option.some_ne_none v))

theorem windowAccess_discards (h : Inside off size s) (hck : s.dev.ckState = 2) (v : Nat) :
    windowAccess off size (some v) s = some { s with dev := { s.dev with discards := (s.part.pid, off, size, v) :: s.dev.discards } } := by
  unfold windowAccess
  simp only []
  rw [if_neg (Bool.eq_false_iff.1 (inside_iff.2 h))]
  cases (List.range size).mapM (fun i => s.windowByte (s.part.winbase.toNat + off + i)) <;> exact if_pos hck

theorem windowAccess_write (h : Inside off size s) (hck : s.dev.ckState ≠ 2) {ps : List (Nat × Nat)} (hps : windowPlaces off size s = some ps)
    (hlock : ps.any (fun k => s.locked k.1) = false) (hbox : ps.any (fun k => k.2 = 5) = false) (v : Nat) : windowAccess off size (some v) s =
    some (((s.visitRange (s.part.winbase.toNat + off) size true).performCells ((ps.map Prod.fst).zip (toBytes size v))).clearPoison ((ps.map Prod.fst).zip (toBytes size v))) := by
  unfold windowAccess
  unfold windowPlaces at hps
  simp only [hps]
  rw [if_neg (Bool.eq_false_iff.1 (inside_iff.2 h)), if_neg hck, if_neg (Bool.eq_false_iff.1 hlock), if_neg (Bool.eq_false_iff.1 hbox)]

end

theorem mapM_some_of {α β : Type} {f : α → Option β} {g : α → β} {l : List α} (h : ∀ a ∈ l, f a = some (g a)) : l.mapM f = some (l.map g) := by
  induction l with
  | nil => rfl
  | cons a l ih =>
    rw [List.mapM_cons, h a List.mem_cons_self, ih (fun b hb => h b (List.mem_cons_of_mem _ hb))]
    rfl

theorem mapM_none_of {α β : Type} {f : α → Option β} {l : List α} {a : α} (ha : a ∈ l) (h : f a = none) : l.mapM f = none := by
  induction l with
  | nil => cases ha
  | cons b l ih =>
    rw [List.mapM_cons]
    rcases List.mem_cons.1 ha with rfl | ha
    · rw [h]; rfl
    · rw [ih ha]
      cases f b <;> rfl

theorem windowPlaces_none {s : State} {off size i : Nat} (hi : i < size) (h : s.windowByte (s.part.winbase.toNat + off + i) = none) : windowPlaces off size s = none :=
  mapM_none_of (List.mem_range.2 hi) h

/-- The bytes of a range that lies in one piece from key `k` on. -/
def placesAt (off size : Nat) (s : State) : List (Nat × Nat) := (List.range size).map (fun i => (s.windowByte (s.part.winbase.toNat + off + i)).getD (0, 0))

theorem windowPlaces_at {s : State} {off size k : Nat} (h : ∀ i < size, ∃ c, c ≠ 5 ∧ s.windowByte (s.part.winbase.toNat + off + i) = some (k + i, c)) :
    windowPlaces off size s = some (placesAt off size s) ∧ (placesAt off size s).map Prod.fst = (List.range size).map (fun i => k + i)
      ∧ ∀ p ∈ placesAt off size s, p.2 ≠ 5 ∧ ∃ i < size, p.1 = k + i := by
  refine ⟨mapM_some_of (fun i hi => ?_), ?_, fun p hp => ?_⟩
  · obtain ⟨c, _, hc⟩ := h i (List.mem_range.1 hi)
    rw [hc, Option.getD_some]
  · rw [placesAt, List.map_map]
    refine List.map_congr_left (fun i hi => ?_)
    obtain ⟨c, _, hc⟩ := h i (List.mem_range.1 hi)
    rw [Function.comp_apply, hc, Option.getD_some]
  · obtain ⟨i, hi, rfl⟩ := List.mem_map.1 hp
    obtain ⟨c, h5, hc⟩ := h i (List.mem_range.1 hi)
    rw [hc, Option.getD_some]
    exact ⟨h5, i, List.mem_range.1 hi, rfl⟩

/-- Bytes written one after another. -/
theorem writeCells_written (m : List Host.Cell) (k : Nat) (bs : List Byte) : Written k bs m (Mem.writeCells m (((List.range bs.length).map (fun i => k + i)).zip bs)) := by
  intro a
  have hcells : ((List.range bs.length).map (fun i => k + i)).zip bs = (List.range bs.length).map (fun i => (k + i, bs.getD i 0)) := by
    refine List.ext_getElem (by simp) (fun i h1 h2 => ?_)
    have hi : i < bs.length := by simpa using h1
    simp [List.getElem_zip, hi]
  rw [hcells]
  split
  · next h =>
    have hmem : (k + (a - k), bs.getD (a - k) 0) ∈ (List.range bs.length).map (fun i => (k + i, bs.getD i 0)) :=
      List.mem_map_of_mem (f := fun i => (k + i, bs.getD i 0)) (List.mem_range.2 (by omega))
    have hd : ((List.range bs.length).map (fun i => (k + i, bs.getD i 0))).Pairwise (fun p q => p.1 ≠ q.1) := by
      rw [List.pairwise_map]
      exact List.pairwise_lt_range.imp (fun h => by simp only [ne_eq]; omega)
    have := Mem.get_writeCells_mem _ m hd _ hmem
    rwa [show k + (a - k) = a by omega] at this
  · next h =>
    refine Mem.get_writeCells_other _ m a (fun c hc => ?_)
    obtain ⟨i, hi, rfl⟩ := List.mem_map.1 hc
    have := List.mem_range.1 hi
    simp only [ne_eq]
    omega

/-- Settles O51: a write of the register window is the map's, and an access through the memory window reaches device memory or is refused. -/
theorem windowEvents : Obligations.WindowEvents := by
  unfold Obligations.WindowEvents
  intro dev pid off size v s
  refine ⟨?any, ?nbv, ?root0, ?root1, ?rootBusy, ?aud, ?elsel, ?cap, ?capVf, ?reply, fun o ho => ?nothing, ⟨fun o ho => readRegister_unassigned ho s, rfl, rfl, rfl, rfl⟩,
    fun ps => ?read, fun ps => ?abort, fun ps => ?bad, fun wr => ?nowhere, fun wr h => ?outside, fun n k => ?write, fun n => ?discard⟩
  case any => exact happens_onPart (f := registerWritten off v) rfl (fun s1 hd => ⟨_, registerWritten_due hd.1 hd.2 v, rfl⟩)
  case nbv => exact written_happens (by decide) (fun s1 h => writeRegister_nbv h s1)
  case root0 => exact written_happens (by decide) (fun s1 h => writeRegister_root0 h v)
  case root1 => exact written_happens (by decide) (fun s1 h => writeRegister_root1 h v)
  case rootBusy => exact written_happens (by decide) (fun s1 h => writeRegister_rootBusy (by simpa using h) v)
  case aud => exact written_happens (by decide) (fun s1 h => writeRegister_audctl h s1)
  case elsel => exact written_happens (by decide) (fun s1 _ => rfl)
  case cap => exact written_happens (by decide) (fun s1 h => writeRegister_pwrcap h.1 h.2)
  case capVf => exact written_happens (by decide) (fun s1 h => writeRegister_pwrcap_vf h v)
  case reply => exact written_happens (by decide) (fun s1 _ => rfl)
  case nothing =>
    refine written_happens ?_ (fun s1 _ => writeRegister_nothing s1 v o ho)
    revert o
    decide
  case read =>
    refine happens_onPart_placed (f := windowAccess off size none) rfl (fun s1 hp ⟨⟨hin, hps⟩, hck, hall⟩ => ?_)
    have hs := visitRange_homeOnly (s1.part.winbase.toNat + off) size false s1
    have hc := checkWindow_eq (ps.map Prod.fst) (s1.visitRange (s1.part.winbase.toNat + off) size false)
    rw [windowAccess_read hin hps, if_neg (by simpa [hck] using fun a b h => (hall (a, b) h).1), if_neg (by simpa using fun a b h => (hall (a, b) h).2)]
    generalize s1.visitRange (s1.part.winbase.toNat + off) size false = s2 at hs hc
    have hw := windowAnswer_eq (s := s2.checkWindow (ps.map Prod.fst)) (by rw [hc]; exact (congrArg Device.num hs.dev).trans (hp.trans (congrArg Part.dev hs.part).symm))
      (by rw [hc]; exact (congrArg Device.answers hs.dev).trans hin.1) 0 (ofBytes (ps.map (fun k => Mem.get s1.mem k.1)))
    refine ⟨_, rfl, ?_⟩
    rw [hw, hc]
    refine ⟨?_, rfl, hs.groups, hs.part⟩
    show .completion s2.part.dev s2.part.pid _ _ :: s2.out = _
    rw [hs.part, hs.out]
  case abort =>
    refine happens_onPart_placed (f := windowAccess off size none) rfl (fun s1 hp ⟨⟨hin, hps⟩, hck⟩ => ?_)
    rw [windowAccess_read hin hps, if_pos (by simpa using hck)]
    exact ⟨_, rfl, windowAnswer_eq hp hin.1 1 0⟩
  case bad =>
    refine happens_onPart_placed (f := windowAccess off size none) rfl (fun s1 hp ⟨⟨hin, hps⟩, hck, hall, hbad⟩ => ?_)
    rw [windowAccess_read hin hps, if_neg (by simpa [hck] using fun a b h => hall (a, b) h), if_pos (by simpa using hbad)]
    have hc := checkWindow_eq (ps.map Prod.fst) s1
    have hw := windowAnswer_eq (s := s1.checkWindow (ps.map Prod.fst)) (by rw [hc]; exact hp) (by rw [hc]; exact hin.1) 1 0
    refine ⟨_, rfl, ?_, fun k hk hb => ?_⟩
    · rw [hw, hc]
    · rw [hw]
      exact checkWindow_refetched (List.mem_map_of_mem hk) hb
  case nowhere =>
    refine happens_onPart_placed (f := windowAccess off size wr) rfl (fun s1 hp ⟨hin, hck, i, hi, hnone⟩ => ?_)
    rw [windowAccess_nowhere hin (windowPlaces_none hi hnone) hck]
    exact ⟨_, rfl, windowAnswer_eq hp hin.1 1 0⟩
  case outside =>
    show s.onPart dev pid (windowAccess off size wr) = _
    rw [onPart_eq]
    cases hpl : partPlace dev pid s with
    | none => rfl
    | some s1 => rw [Option.bind_some, windowAccess_outside (h s1 hpl)]; rfl
  case write =>
    refine happens_onPart_placed (f := windowAccess off size (some n)) rfl (fun s1 hp ⟨hin, hck, hall⟩ => ?_)
    obtain ⟨hps, hfst, hcls⟩ := windowPlaces_at (fun i hi => (hall i hi).2)
    have hlock : (placesAt off size s1).any (fun p => s1.locked p.1) = false := by
      rw [List.any_eq_false]
      rintro p hp
      obtain ⟨_, i, hi, he⟩ := hcls p hp
      rw [he, (hall i hi).1]
      exact Bool.false_ne_true
    have hbox : (placesAt off size s1).any (fun p => decide (p.2 = 5)) = false := by
      rw [List.any_eq_false]
      exact fun p hp => by simpa using (hcls p hp).1
    have hs := visitRange_homeOnly (s1.part.winbase.toNat + off) size true s1
    have hcells := (hs.trans (performCells_homeOnly ((List.map Prod.fst (placesAt off size s1)).zip (toBytes size n)) _))
    refine ⟨_, windowAccess_write hin hck hps hlock hbox n, ?_, hcells.out, hcells.groups, hcells.part⟩
    rw [State.clearPoison_mem, State.performCells_mem, hfst]
    have := writeCells_written (s1.visitRange (s1.part.winbase.toNat + off) size true).mem k (toBytes size n)
    rwa [toBytes_length] at this
  case discard => exact happens_onPart (f := windowAccess off size (some n)) rfl (fun s1 ⟨hin, hck⟩ => ⟨_, windowAccess_discards hin hck n, rfl⟩)

end Sys2Proof.Claims
end

section
/-!
PROOFS. Checkpoint and restore (O50).
-/
namespace Sys2Proof.Claims
open Machine Bits Encoding

/-! ## Partitions while one is checked out -/

/-- Checking a partition out leaves every partition what it is. -/
theorem part?_checkoutPart (d p d' p' : Nat) (s : State) : (s.checkoutPart d p).part? d' p' = s.part? d' p' := by
  unfold State.checkoutPart
  split
  · rfl
  · next h =>
    have hkeys := checkoutPart_keys d p s
    rw [State.checkoutPart, if_neg h] at hkeys
    simp only at hkeys
    have hs : (decide (s.part.dev = d) && decide (s.part.pid = p)) = false := by simpa using h
    generalize hv : (s.parts.find? (fun c => c.dev = d && c.pid = p)).getD (Part.fresh d p) = v at hkeys
    simp only [State.part?, State.allParts, List.find?_cons, hkeys.1, hkeys.2]
    by_cases h' : d' = d ∧ p' = p
    · obtain ⟨rfl, rfl⟩ := h'
      simp [hs, hv]
    · have hne : (decide (d = d') && decide (p = p')) = false := by simpa using fun e1 e2 => h' ⟨e1.symm, e2.symm⟩
      rw [hne]
      simp only []
      split
      · rfl
      · rw [find?_filter_of]
        intro x hx
        simp only [Bool.and_eq_true, decide_eq_true_eq] at hx
        obtain ⟨rfl, rfl⟩ := hx
        rw [Bool.not_eq_true', ← Bool.decide_and, decide_eq_false_iff_not]
        exact h'

theorem part?_checkoutDev (d d' p' : Nat) (s : State) : (s.checkoutDev d).part? d' p' = s.part? d' p' := by
  unfold State.checkoutDev
  split <;> rfl

theorem part?_focusPart (d p d' p' : Nat) (s : State) : (s.focusPart d p).part? d' p' = s.part? d' p' := by
  unfold State.focusPart
  rw [part?_checkoutDev, part?_checkoutPart]

theorem part?_self (s : State) : s.part? s.part.dev s.part.pid = s.part := by simp [State.part?, State.allParts]

theorem focusPart_part (dev pid : Nat) (s : State) : (s.focusPart dev pid).part = s.part? dev pid := by
  obtain ⟨hd, hp, _⟩ := focusPart_keys dev pid s
  have h := part?_self (s.focusPart dev pid)
  rw [hd, hp, part?_focusPart] at h
  exact h.symm

/-- Focusing a partition of the checked-out device leaves the device. -/
theorem focusPart_dev {dev : Nat} (pid : Nat) {s : State} (h : s.dev.num = dev) : (s.focusPart dev pid).dev = s.dev := by
  unfold State.focusPart State.checkoutDev
  rw [State.checkoutPart_dev, if_pos h, State.checkoutPart_dev]

/-! ## PSTAT (R313) -/

/-- Vector 66 of the checked-out partition is signalled, or pending where it is masked. -/
def Signalled (s t : State) : Prop :=
  if (s.part.msixWord (4 * 66 + 3)).getLsbD 0 then 66 ∈ t.part.pba ∧ t.out = s.out else t.out = .msix s.part.dev s.part.pid 66 :: s.out

/-- A new PSTAT: nothing else differs but what the signal writes. -/
theorem setPstat_eq (v : Nat) (s : State) : s.setPstat v = { s with part := { s.part with pstat := v, pba := (s.setPstat v).part.pba }, out := (s.setPstat v).out } := by
  unfold State.setPstat State.msixSignal
  split
  · unfold State.updPart
    rw [if_pos ⟨rfl, rfl⟩]
  · unfold State.emit
    split <;> rfl

theorem setPstat_signalled {s : State} (hp : Placed s) (h : s.dev.answers = true) (v : Nat) : Signalled s (s.setPstat v) := by
  have hword : ((({ s with part := { s.part with pstat := v } } : State).part? s.part.dev s.part.pid).msixWord (4 * 66 + 3)).getLsbD 0 = (s.part.msixWord (4 * 66 + 3)).getLsbD 0 := by
    rw [show ({ s with part := { s.part with pstat := v } } : State).part? s.part.dev s.part.pid = { s.part with pstat := v } from part?_self { s with part := { s.part with pstat := v } }]
    rfl
  unfold Signalled State.setPstat State.msixSignal
  rw [hword]
  split
  · unfold State.updPart
    rw [if_pos ⟨rfl, rfl⟩]
    refine ⟨?_, rfl⟩
    show 66 ∈ (if s.part.pba.contains 66 then s.part.pba else 66 :: s.part.pba)
    split
    · next hc => simpa using hc
    · exact List.mem_cons_self
  · have he := emit_self (s := { s with part := { s.part with pstat := v } }) h (.msix s.part.dev s.part.pid 66)
    unfold Placed at hp
    rw [← hp] at he ⊢
    exact congrArg State.out he

/-- Every partition but the checked-out one, which is part of the state, is found as it was. -/
theorem part?_of_parts {s t : State} (hd : t.part.dev = s.part.dev) (hp : t.part.pid = s.part.pid) (h : t.parts = s.parts) (d p : Nat) :
    t.part? d p = if d = s.part.dev ∧ p = s.part.pid then t.part else s.part? d p := by
  split
  · next h' => rw [h'.1, h'.2, ← hd, ← hp, part?_self]
  · next h' =>
    have hne : (decide (s.part.dev = d) && decide (s.part.pid = p)) = false := by
      rw [← Bool.decide_and, decide_eq_false_iff_not]
      exact fun e => h' ⟨e.1.symm, e.2.symm⟩
    unfold State.part? State.allParts
    rw [List.find?_cons, List.find?_cons, hd, hp, hne, h]

theorem haltPart_eq (s : State) : ∃ pba out, s.haltPart = { s.mapGroups (fun g => if s.partGids.contains g.gid && g.resident && g.shadow = 0 then { g with preempt := true } else g) with
    part := { s.part with pstat := 1, haltAt := s.now, pba := pba }, out := out } :=
  ⟨_, _, setPstat_eq 1 _⟩

/-! ## Checkpoints (R340) -/

/-- Halting every running partition of the checked-out device, one after another. -/
theorem haltAll_facts (dev : Nat) (pids : List Nat) (s : State) (hdev : s.dev.num = dev) : ∀ t, t = pids.foldl (fun s pid =>
      let s1 := s.focusPart dev pid
      if s1.part.pstat = 0 && !s1.part.broken then s1.haltPart else s1) s →
    t.mem = s.mem ∧ t.dev = s.dev ∧ ∀ p, (t.part? dev p).broken = (s.part? dev p).broken
      ∧ (t.part? dev p).pstat = if p ∈ pids ∧ (s.part? dev p).pstat = 0 ∧ (s.part? dev p).broken = false then 1 else (s.part? dev p).pstat := by
  induction pids generalizing s with
  | nil =>
    rintro t rfl
    exact ⟨rfl, rfl, fun p => ⟨rfl, (if_neg (fun h => nomatch h.1)).symm⟩⟩
  | cons pid pids ih =>
    intro t ht
    rw [List.foldl_cons] at ht
    obtain ⟨hkd, hkp, _⟩ := focusPart_keys dev pid s
    have hfd := focusPart_dev pid hdev
    have hpart := focusPart_part dev pid s
    have hfp := fun p => part?_focusPart dev pid dev p s
    have hfm : (s.focusPart dev pid).mem = s.mem := by rw [State.focusPart_mem]
    generalize s.focusPart dev pid = s1 at ht hkd hkp hfd hpart hfp hfm
    have hstep : ∃ s2, s2 = (if s1.part.pstat = 0 && !s1.part.broken then s1.haltPart else s1) ∧ s2.mem = s1.mem ∧ s2.dev = s1.dev ∧ ∀ p, (s2.part? dev p).broken = (s1.part? dev p).broken
        ∧ (s2.part? dev p).pstat = if p = pid ∧ (s.part? dev p).pstat = 0 ∧ (s.part? dev p).broken = false then 1 else (s1.part? dev p).pstat := by
      refine ⟨_, rfl, ?_⟩
      rw [← hkp]
      split
      · next h =>
        simp only [Bool.and_eq_true, decide_eq_true_eq, Bool.not_eq_true'] at h
        obtain ⟨pba, out, he⟩ := haltPart_eq s1
        have hp2 := part?_of_parts (s := s1) (t := s1.haltPart) (by rw [he]) (by rw [he]) (by rw [he]; rfl)
        refine ⟨by rw [he]; rfl, by rw [he]; rfl, fun p => ?_⟩
        rw [hp2, hkd]
        by_cases hp : p = s1.part.pid
        · rw [if_pos ⟨rfl, hp⟩, hp, he, ← hkd, part?_self, hkd, hkp, ← hpart, if_pos ⟨rfl, h.1, h.2⟩]
          exact ⟨rfl, rfl⟩
        · rw [if_neg (fun e => hp e.2), if_neg (fun e => hp e.1)]
          exact ⟨rfl, rfl⟩
      · next h =>
        simp only [Bool.and_eq_true, decide_eq_true_eq, Bool.not_eq_true'] at h
        refine ⟨rfl, rfl, fun p => ⟨rfl, (if_neg ?_).symm⟩⟩
        rintro ⟨rfl, h0, hb⟩
        rw [hkp, ← hpart] at h0 hb
        exact h ⟨h0, hb⟩
    obtain ⟨s2, hs2, hm2, hd2, hp2⟩ := hstep
    have ht2 := ht.trans (congrArg (fun u => pids.foldl _ u) hs2.symm)
    obtain ⟨hm, hd, hp⟩ := ih s2 (by rw [hd2, hfd, hdev]) t ht2
    refine ⟨hm.trans (hm2.trans hfm), hd.trans (hd2.trans hfd), fun p => ?_⟩
    obtain ⟨hb3, hp3⟩ := hp p
    obtain ⟨hb2, hp2⟩ := hp2 p
    rw [hfp] at hb2 hp2
    refine ⟨hb3.trans hb2, ?_⟩
    rw [hp3, hb2, hp2]
    by_cases hc : (s.part? dev p).pstat = 0 ∧ (s.part? dev p).broken = false
    · obtain ⟨h0, hb⟩ := hc
      rw [h0, hb]
      by_cases h : p = pid <;> simp [h]
    · simp [hc]

/-- The registration of a target, as the obligation finds it. -/
theorem targetOf_eq {d : Device} {target : Nat} {r : Option (Nat × Nat × Nat)} (h : d.targets.find? (fun t => t.1 = target) = r) : d.targetOf target = r.map Prod.snd := by
  unfold Device.targetOf
  rw [h]

theorem ckRuns_iff (d : Device) : d.ckRuns = true ↔ d.ckState = 1 ∨ d.ckState = 2 := by simp [Device.ckRuns]

/-! ## The image and the restore (R341) -/

/-- What the image of a device holds of memory. -/
theorem takeImage_pages (s : State) (target a : Nat) : Mem.get (s.takeImage target).pages a = if keyOn s.dev.num a then Mem.get s.mem a else 0 :=
  Mem.get_filter s.mem (fun k => keyOn s.dev.num k) a

/-- Cells of a canonical memory, written over another one. -/
theorem get_writeCells_wf {m pages : List Host.Cell} {lo : Nat} (h : Mem.wfFrom lo pages = true) (a : Nat) :
    Mem.get (Mem.writeCells m pages) a = if Mem.get pages a = Mem.unlisted then Mem.get m a else Mem.get pages a := by
  induction pages generalizing m lo with
  | nil => rfl
  | cons c xs ih =>
    obtain ⟨j, v⟩ := c
    simp only [Mem.wfFrom, Bool.and_eq_true, decide_eq_true_eq] at h
    rw [Mem.writeCells, ih h.2, Mem.get_cons]
    by_cases ha : j = a
    · rw [if_pos ha, if_pos (Mem.wfFrom_get_lt h.2 (by omega)), if_neg h.1.2, ← ha, Mem.get_set_self]
    · rw [if_neg ha, Mem.get_set_other _ _ _ (Ne.symm ha)]

theorem get_of_keys {P : Nat → Prop} {m : List Host.Cell} (h : ∀ c ∈ m, P c.1) {a : Nat} (ha : ¬ P a) : Mem.get m a = Mem.unlisted := by
  induction m with
  | nil => rfl
  | cons c xs ih =>
    rw [Mem.get_cons, if_neg (fun e => ha (by rw [← e]; exact h c List.mem_cons_self))]
    exact ih (fun c hc => h c (List.mem_cons_of_mem _ hc))

theorem foldl_reported {α : Type} {f : State → α → State} (h : ∀ s a, Reported s (f s a)) (l : List α) (s : State) : Reported s (l.foldl f s) := by
  induction l generalizing s with
  | nil => exact reported_refl s
  | cons a l ih => exact (h s a).trans (ih _)

theorem foldl_keeps {α β : Type} {f : State → α → State} {g : State → β} (h : ∀ s a, g (f s a) = g s) (l : List α) (s : State) : g (l.foldl f s) = g s := by
  induction l generalizing s with
  | nil => rfl
  | cons a l ih => exact (ih _).trans (h s a)

/-- The device that an image restores. -/
def restoredDevice (i : CkImage) (d : Device) : Device :=
  { d with seqs := i.device.seqs, pages := i.device.pages, handles := i.device.handles, reductions := i.device.reductions,
           ckState := 3, ckCause := 0, ckTarget := some i.target, ckDone := 513 }

theorem putImage_dev (i : CkImage) (s : State) : (s.putImage i).dev = restoredDevice i s.dev := by
  unfold State.putImage
  exact foldl_keeps (g := State.dev) (fun s p => (msixSignal_reported ..).dev) _ _

/-- The memory of the device is the image's, where no table of a partition is to be tagged. -/
theorem putImage_mem {i : CkImage} {s : State} (hparts : i.parts = []) (hwf : Memory.wf i.pages = true) (hkeys : ∀ c ∈ i.pages, keyOn i.dev c.1 = true) (a : Nat) :
    Mem.get (s.putImage i).mem a = if keyOn i.dev a then Mem.get i.pages a else Mem.get s.mem a := by
  have hmem : (s.putImage i).mem = Mem.writeCells (s.mem.filter (fun c => !(keyOn i.dev c.1))) i.pages := by
    unfold State.putImage
    simp only [hparts, List.map_nil, List.foldl_nil, List.filter_nil]
    rw [foldl_keeps (g := State.mem) (fun s c => State.updCore_mem ..)]
    simp only [clearDevice_mem]
  rw [hmem, get_writeCells_wf hwf, Mem.get_filter s.mem (fun k => !(keyOn i.dev k))]
  cases hk : keyOn i.dev a
  · rw [get_of_keys (P := fun k => keyOn i.dev k = true) hkeys (by simp [hk])]
    rfl
  · simp only [Bool.not_true, Bool.false_eq_true, if_false, if_true]
    split
    · next h => exact h.symm
    · rfl

theorem restores_puts {s : State} {i : CkImage} {target : Nat} (h : s.dev.answers = true) (hr : s.dev.ckRuns = false) (ht : (s.dev.targetOf target).isNone = false)
    (hi : s.images.find? (fun i => i.target = target && i.dev = s.dev.num) = some i) (hm : i.marked = false) : restores target true s = some (s.putImage i) := by
  unfold restores
  simp only [Bool.true_and]
  rw [whenDue_true h, hr, ht, hi, if_neg Bool.false_ne_true, if_neg Bool.false_ne_true]
  simp only [hm, Bool.false_eq_true, if_false]

/-- The state whose image has come to its target. -/
def imaged (target : Nat) (s : State) : State :=
  ({ s with images := s.takeImage target :: s.images.filter (fun j => !(j.dev = s.dev.num && j.target = target)), dev := { s.dev with ckState := 3, ckTarget := none, ckDone := 513 } } : State).msixSignal s.dev.num 0 66

theorem checkpointEnds_image {s : State} {target : Nat} (ht : s.dev.ckTarget = some target) (hc : s.dev.ckState = 2) : checkpointEnds s = some (imaged target s) := by
  unfold checkpointEnds
  simp only [ht]
  rw [if_neg (by rw [hc]; decide), whenDue_true (by rw [hc]; rfl)]
  rfl

theorem imaged_facts (s : State) (target : Nat) : (imaged target s).mem = s.mem ∧ (imaged target s).groups = s.groups
    ∧ (imaged target s).dev = { s.dev with ckState := 3, ckTarget := none, ckDone := 513 }
    ∧ ∃ i, i ∈ (imaged target s).images ∧ i.dev = s.dev.num ∧ i.target = target ∧ i.marked = false ∧ i.device = s.dev ∧ (∀ a, Mem.get i.pages a = if keyOn s.dev.num a then Mem.get s.mem a else 0)
      ∧ (∀ j ∈ (imaged target s).images, j = i ∨ j ∈ s.images) ∧ ∀ j ∈ (imaged target s).images, j.dev = s.dev.num → j.target = target → j = i := by
  have hr := msixSignal_reported s.dev.num 0 66 { s with images := s.takeImage target :: s.images.filter (fun j => !(j.dev = s.dev.num && j.target = target)), dev := { s.dev with ckState := 3, ckTarget := none, ckDone := 513 } }
  have himg : (imaged target s).images = s.takeImage target :: s.images.filter (fun j => !(j.dev = s.dev.num && j.target = target)) := (congrArg State.images (show _ = _ from hr) :)
  refine ⟨hr.mem, hr.groups, hr.dev, s.takeImage target, ?_, rfl, rfl, rfl, rfl, takeImage_pages s target, fun j hj => ?_, fun j hj hd ht => ?_⟩
  · rw [himg]
    exact List.mem_cons_self
  · rw [himg] at hj
    exact (List.mem_cons.1 hj).imp id (fun h => (List.mem_filter.1 h).1)
  · rw [himg] at hj
    refine (List.mem_cons.1 hj).resolve_right (fun h => ?_)
    simpa [hd, ht] using (List.mem_filter.1 h).2

/-- Settles O50: each event of a checkpoint or restore by the state that the device keeps of it. -/
theorem checkpointEvents : Obligations.CheckpointEvents := by
  unfold Obligations.CheckpointEvents
  intro dev target capacity rate s
  have hnone : ∀ {d : Device}, d.targets.find? (fun t => t.1 = target) = none → d.targetOf target = none := fun h => targetOf_eq h
  have hruns : ∀ {d : Device}, ¬(d.ckState = 1 ∨ d.ckState = 2) → d.ckRuns = false := fun h => Bool.eq_false_iff.2 (fun e => h ((ckRuns_iff _).1 e))
  have htarget : ∀ {d : Device}, (d.targets.find? (fun t => t.1 = target)).isSome = true → (d.targetOf target).isNone = false := by
    intro d h
    unfold Device.targetOf
    rwa [Option.isNone_map, ← Option.not_isSome, Bool.not_eq_false']
  refine ⟨⟨?busy, ?unknown⟩, fun verifies => ⟨?restoreBusy, ?restoreUnknown⟩, fun n cap r => ⟨?small, ?starts⟩, fun verifies => ?noImage, fun i => ⟨?restored, ?restoredMem⟩,
    ?registers, ?rests, ?ends, ?lost⟩
  case busy =>
    refine happens_onDev (f := checkpoints target) rfl (fun s1 ⟨h, hr⟩ => ⟨_, ?_, rfl⟩)
    unfold checkpoints
    rw [whenDue_true h, if_pos ((ckRuns_iff _).2 hr)]
  case unknown =>
    refine happens_onDev (f := checkpoints target) rfl (fun s1 ⟨h, hr, hk⟩ => ⟨s1.ckFail 1, ?_, rfl⟩)
    unfold checkpoints
    rw [whenDue_true h, hruns hr, hnone hk, if_neg Bool.false_ne_true]
  case restoreBusy =>
    refine happens_onDev (f := restores target verifies) rfl (fun s1 ⟨h, hr⟩ => ⟨_, ?_, rfl⟩)
    unfold restores
    rw [whenDue_true h, if_pos ((ckRuns_iff _).2 hr)]
  case restoreUnknown =>
    refine happens_onDev (f := restores target verifies) rfl (fun s1 ⟨h, hr, hk⟩ => ⟨s1.ckFail 1, ?_, rfl⟩)
    unfold restores
    rw [whenDue_true h, hruns hr, hnone hk, if_neg Bool.false_ne_true]
    rfl
  case small =>
    refine happens_onDev (f := checkpoints target) rfl (fun s1 ⟨h, hr, hk, hc⟩ => ⟨s1.ckFail 1, ?_, rfl⟩)
    unfold checkpoints
    rw [whenDue_true h, hruns hr, targetOf_eq hk, if_neg Bool.false_ne_true]
    exact congrArg some (if_pos hc)
  case starts =>
    refine happens_onDev (f := checkpoints target) rfl (fun s1 ⟨h, hr, hk, hc⟩ => ⟨State.haltAll s1.dev.num { s1 with dev := { s1.dev with ckState := 1, ckCause := 0, ckTarget := some target, ckDone := 0 } }, ?_, ?_⟩)
    · unfold checkpoints
      rw [whenDue_true h, hruns hr, targetOf_eq hk, if_neg Bool.false_ne_true]
      exact congrArg some (if_neg (Nat.not_lt.2 hc))
    · generalize ht : State.haltAll s1.dev.num _ = t
      obtain ⟨hm, hd, hp⟩ := haltAll_facts s1.dev.num (List.range 32) { s1 with dev := { s1.dev with ckState := 1, ckCause := 0, ckTarget := some target, ckDone := 0 } } rfl t ht.symm
      refine ⟨hm, by rw [hd], by rw [hd], by rw [hd], fun p hp32 => ?_⟩
      have hp2 := (hp p).2
      simp only [List.mem_range.2 hp32, true_and] at hp2
      exact hp2
  case noImage =>
    refine happens_onDev (f := restores target verifies) rfl (fun s1 ⟨h, hr, hk, hv⟩ => ⟨s1.ckFail 4, ?_, rfl⟩)
    have hfind : s1.images.find? (fun i => verifies && decide (i.target = target) && decide (i.dev = s1.dev.num)) = none := by
      rw [List.find?_eq_none]
      intro i hi
      rcases hv with hv | hv
      · simp [hv]
      · simpa using fun _ => fun e => fun e' => hv i hi ⟨e, e'⟩
    unfold restores
    simp only [hfind]
    rw [whenDue_true h, hruns hr, htarget hk, if_neg Bool.false_ne_true, if_neg Bool.false_ne_true]
  case restored =>
    refine happens_onDev (f := restores target true) rfl (fun s1 ⟨h, hr, hk, hi, hm, _⟩ => ⟨_, restores_puts h (hruns hr) (htarget hk) hi hm, ?_⟩)
    rw [putImage_dev]
    exact ⟨rfl, rfl, rfl, rfl, rfl, rfl⟩
  case restoredMem =>
    refine happens_onDev (f := restores target true) rfl (fun s1 ⟨h, hr, hk, hi, hm, hparts, hwf, hkeys⟩ => ⟨_, restores_puts h (hruns hr) (htarget hk) hi hm, fun a => ?_⟩)
    have hfound := List.find?_some hi
    simp only [Bool.and_eq_true, decide_eq_true_eq] at hfound
    have hdev := hfound.2
    rw [← hdev] at hkeys ⊢
    exact putImage_mem hparts hwf hkeys a
  case registers =>
    refine happensWhen_onDev (f := registers target capacity rate) _ _ rfl (fun _ => rfl) (fun s1 => ?_) (fun s1 _ => rfl)
    rw [Bool.and_eq_true, decide_eq_true_eq]
  case rests =>
    refine happens_onDev (f := checkpointEnds) rfl (fun s1 ⟨ht, hc, hq⟩ => ⟨_, ?_, rfl⟩)
    unfold checkpointEnds
    simp only [ht, hc, if_true]
    rw [whenDue_true hq]
  case ends =>
    exact happens_onDev (f := checkpointEnds) rfl (fun s1 ⟨ht, hc⟩ => ⟨_, checkpointEnds_image ht hc, imaged_facts s1 target⟩)
  case lost =>
    refine happens_onDev (f := targetLost) rfl (fun s1 ⟨ht, hc⟩ => ⟨_, ?_, rfl⟩)
    unfold targetLost
    simp only [ht]
    rw [whenDue_true (by simpa [ckRuns_iff] using hc)]
    rfl

end Sys2Proof.Claims
end

section
/-!
PROOFS. What serving the waiting threads of a core changes, and the events of phases (O32).
-/
namespace Sys2Proof.Claims
open Machine Bits Encoding

/-! ## Threads and groups of a core that are served (R112, R123, R181, R199) -/

/-- Only how a thread waits differs. -/
def WaitOnly (h : Thread → Thread) : Prop := ∀ u, h u = { u with
  status := (h u).status, pc := (h u).pc, readySince := (h u).readySince, due := (h u).due, waited := (h u).waited, waitSince := (h u).waitSince }

/-- Only undo copies of banks differ, and nothing of the placeholder. -/
def BanksOnly (f : Group → Group) : Prop := ∀ g, f g = { g with undoBanks := (f g).undoBanks } ∧ (g.gid = 0 → f g = g)

/-- Nothing but the checked-out core, the undo copies of banks, and how threads wait differs. -/
def CoreServed (s t : State) : Prop := ∃ f h, BanksOnly f ∧ WaitOnly h
  ∧ t = { s with core := t.core, grp := f s.grp, groups := s.groups.map f, thr := h s.thr, threads := s.threads.map h }

theorem waitOnly_id : WaitOnly id := fun _ => rfl
theorem banksOnly_id : BanksOnly id := fun _ => ⟨rfl, fun _ => rfl⟩

theorem WaitOnly.comp {h k : Thread → Thread} (h1 : WaitOnly h) (h2 : WaitOnly k) : WaitOnly (k ∘ h) := by
  intro u
  have e1 := h1 u
  have e2 := h2 (h u)
  show k (h u) = { u with
    status := (k (h u)).status, pc := (k (h u)).pc, readySince := (k (h u)).readySince, due := (k (h u)).due, waited := (k (h u)).waited, waitSince := (k (h u)).waitSince }
  generalize k (h u) = w at e2 ⊢
  generalize h u = v at e1 e2
  rw [e1] at e2
  exact e2

theorem BanksOnly.comp {f g : Group → Group} (h1 : BanksOnly f) (h2 : BanksOnly g) : BanksOnly (g ∘ f) := by
  intro x
  refine ⟨?_, fun h0 => ?_⟩
  · have e1 := (h1 x).1
    have e2 := (h2 (f x)).1
    show g (f x) = { x with undoBanks := (g (f x)).undoBanks }
    generalize g (f x) = z at e2 ⊢
    generalize f x = y at e1 e2
    rw [e1] at e2
    exact e2
  · show g (f x) = x
    rw [(h1 x).2 h0, (h2 x).2 h0]

theorem coreServed_refl (s : State) : CoreServed s s := ⟨id, id, banksOnly_id, waitOnly_id, by simp⟩

theorem CoreServed.trans {s t u : State} (h1 : CoreServed s t) (h2 : CoreServed t u) : CoreServed s u := by
  obtain ⟨f, h, hf, hh, e1⟩ := h1
  obtain ⟨f', h', hf', hh', e2⟩ := h2
  refine ⟨f' ∘ f, h' ∘ h, hf.comp hf', hh.comp hh', ?_⟩
  rw [e1] at e2
  rw [e2]
  simp only [List.map_map, Function.comp_apply]

theorem mapThreads_served {h : Thread → Thread} (hh : WaitOnly h) (s : State) : CoreServed s (s.mapThreads h) := by
  refine ⟨id, h, banksOnly_id, hh, ?_⟩
  simp [State.mapThreads]

theorem core_served (c : Core) (s : State) : CoreServed s { s with core := c } := ⟨id, id, banksOnly_id, waitOnly_id, by simp⟩

theorem updGroup_served {gid : Nat} (h0 : gid ≠ 0) {f : Group → Group} (hf : ∀ g, f g = { g with undoBanks := (f g).undoBanks }) (s : State) : CoreServed s (s.updGroup gid f) := by
  refine ⟨fun g => if g.gid = gid then f g else g, id, fun g => ?_, waitOnly_id, by simp [State.updGroup, State.mapGroups]⟩
  dsimp only
  split
  · next h => exact ⟨hf g, fun h' => absurd (h.symm.trans h') h0⟩
  · exact ⟨rfl, fun _ => rfl⟩

theorem saveBank_eq (g : Group) (n : Nat) (p : AccPair) (w v : Bool) : g.saveBank n p w v = { g with undoBanks := (g.saveBank n p w v).undoBanks } := by
  unfold Group.saveBank
  split <;> rfl

theorem swapPair_served {gid : Nat} (h0 : gid ≠ 0) (n : Nat) (s : State) : CoreServed s (s.swapPair gid n) := by
  unfold State.swapPair State.writePair
  exact ((updGroup_served h0 (fun g => saveBank_eq ..) s).trans (core_served _ _)).trans (updGroup_served h0 (fun g => rfl) _)

theorem mem_gidsOn {s : State} {d c gid : Nat} (h : (s.gidsOn d c).contains gid = true) : gid ≠ 0 := by
  unfold State.gidsOn at h
  rw [List.contains_iff_mem, List.mem_map] at h
  obtain ⟨g, hg, rfl⟩ := h
  have := (List.mem_filter.1 hg).2
  simp only [Bool.and_eq_true, decide_eq_true_eq] at this
  exact this.1.1

theorem serveSwaps_served (n : Nat) (s : State) : CoreServed s (serveSwaps n s) := by
  induction n generalizing s with
  | zero => exact coreServed_refl s
  | succ n ih =>
    unfold serveSwaps
    simp only []
    split
    · exact coreServed_refl s
    · next t ht =>
      split
      · exact coreServed_refl s
      · split
        · refine CoreServed.trans ((core_served _ s).trans (mapThreads_served (fun u => ?_) _)) (ih _)
          split <;> rfl
        · have hgid := List.find?_some ht
          rw [Bool.and_eq_true] at hgid
          refine CoreServed.trans ((swapPair_served (mem_gidsOn hgid.1) _ s).trans (mapThreads_served (fun u => ?_) _)) (ih _)
          split <;> rfl

theorem retryCore_served (s : State) : CoreServed s s.retryCore := by
  unfold State.retryCore
  refine mapThreads_served (fun u => ?_) s
  split
  · rfl
  · split <;> rfl

theorem retryRdv_served (s : State) : CoreServed s s.retryRdv := by
  unfold State.retryRdv
  refine mapThreads_served (fun u => ?_) s
  split
  · split <;> rfl
  · rfl

theorem coreChanged_served (s : State) : CoreServed s s.coreChanged := ((serveSwaps_served _ s).trans (retryCore_served _)).trans (retryRdv_served _)

theorem changedSince_served (old : Core) (s : State) : CoreServed s (s.changedSince old) := by
  unfold State.changedSince
  simp only []
  split
  · exact coreServed_refl s
  · refine mapThreads_served (fun u => ?_) s
    split
    · rfl
    · split
      · split <;> rfl
      · split <;> rfl
      · rfl

section
variable {s t : State} (h : CoreServed s t)
include h

theorem CoreServed.mem : t.mem = s.mem := by obtain ⟨f, k, _, _, e⟩ := h; rw [e]
theorem CoreServed.lau : t.lau = s.lau := by obtain ⟨f, k, _, _, e⟩ := h; rw [e]
theorem CoreServed.part : t.part = s.part := by obtain ⟨f, k, _, _, e⟩ := h; rw [e]
theorem CoreServed.parts : t.parts = s.parts := by obtain ⟨f, k, _, _, e⟩ := h; rw [e]
theorem CoreServed.dev : t.dev = s.dev := by obtain ⟨f, k, _, _, e⟩ := h; rw [e]
theorem CoreServed.now : t.now = s.now := by obtain ⟨f, k, _, _, e⟩ := h; rw [e]
theorem CoreServed.out : t.out = s.out := by obtain ⟨f, k, _, _, e⟩ := h; rw [e]
theorem CoreServed.cores : t.cores = s.cores := by obtain ⟨f, k, _, _, e⟩ := h; rw [e]
theorem CoreServed.grp : t.grp = { s.grp with undoBanks := t.grp.undoBanks } := by
  obtain ⟨f, k, hf, _, e⟩ := h
  rw [e]
  exact (hf s.grp).1
theorem CoreServed.grp_none (h0 : s.grp.gid = 0) : t.grp = s.grp := by
  obtain ⟨f, k, hf, _, e⟩ := h
  rw [e]
  exact (hf s.grp).2 h0
theorem CoreServed.threads : ∀ u ∈ t.threads, ∃ v ∈ s.threads, v.key = u.key := by
  obtain ⟨f, k, _, hk, e⟩ := h
  rw [e]
  intro u hu
  obtain ⟨v, hv, rfl⟩ := List.mem_map.1 hu
  exact ⟨v, hv, by rw [hk v]⟩

end

/-! ## What a group takes with it (R114) -/

/-- Besides what serving changes, only what is saved with the checked-out group differs. -/
def GroupSaved (s t : State) : Prop := ∃ c tiles seqrs pairs jobs,
  CoreServed { s with core := c, grp := { s.grp with savedTiles := tiles, savedSeqrs := seqrs, savedPairs := pairs, savedJobs := jobs } } t

theorem saveGroup_saved (all : Bool) (s : State) : GroupSaved s (s.saveGroup all) := ⟨_, _, _, _, _, changedSince_served _ _⟩

theorem restoreGroup_saved (s : State) : GroupSaved s s.restoreGroup := ⟨_, _, _, _, _, changedSince_served _ _⟩

/-- What a saved or restored group keeps. -/
structure GroupKept (s t : State) : Prop where
  mem : t.mem = s.mem
  lau : t.lau = s.lau
  dev : t.dev = s.dev
  now : t.now = s.now
  part : t.part = s.part
  parts : t.parts = s.parts
  gid : t.grp.gid = s.grp.gid
  core : t.grp.core = s.grp.core
  phase : t.grp.phase = s.grp.phase
  phases : t.grp.phases = s.grp.phases
  slots : t.grp.slots = s.grp.slots
  placed : t.grp.placed = s.grp.placed
  staged : t.grp.staged = s.grp.staged
  scratch : t.grp.scratch = s.grp.scratch

theorem GroupSaved.kept {s t : State} (h : GroupSaved s t) : GroupKept s t := by
  obtain ⟨c, tiles, seqrs, pairs, jobs, h⟩ := h
  have hg := h.grp
  exact ⟨h.mem, h.lau, h.dev, h.now, h.part, h.parts, (congrArg Group.gid hg :), (congrArg Group.core hg :), (congrArg Group.phase hg :), (congrArg Group.phases hg :),
    (congrArg Group.slots hg :), (congrArg Group.placed hg :), (congrArg Group.staged hg :), (congrArg Group.scratch hg :)⟩

theorem CoreServed.kept {s t : State} (h : CoreServed s t) : GroupKept s t := by
  have hg := h.grp
  exact ⟨h.mem, h.lau, h.dev, h.now, h.part, h.parts, (congrArg Group.gid hg :), (congrArg Group.core hg :), (congrArg Group.phase hg :), (congrArg Group.phases hg :),
    (congrArg Group.slots hg :), (congrArg Group.placed hg :), (congrArg Group.staged hg :), (congrArg Group.scratch hg :)⟩

theorem GroupKept.trans {s t u : State} (h1 : GroupKept s t) (h2 : GroupKept t u) : GroupKept s u :=
  ⟨h2.mem.trans h1.mem, h2.lau.trans h1.lau, h2.dev.trans h1.dev, h2.now.trans h1.now, h2.part.trans h1.part, h2.parts.trans h1.parts, h2.gid.trans h1.gid, h2.core.trans h1.core, h2.phase.trans h1.phase, h2.phases.trans h1.phases,
    h2.slots.trans h1.slots, h2.placed.trans h1.placed, h2.staged.trans h1.staged, h2.scratch.trans h1.scratch⟩

/-- A group suspended mid-phase (R233): its place is given up, what it has staged and its scratchpad are kept. -/
theorem suspendGroup_facts (s : State) : ∀ t, t = s.suspendGroup.coreChanged → t.mem = s.mem ∧ t.grp.gid = s.grp.gid ∧ t.grp.phase = .suspended ∧ t.grp.slots = []
    ∧ t.grp.placed = false ∧ t.grp.staged = s.grp.staged ∧ t.grp.scratch = s.grp.scratch ∧ t.part = s.part ∧ t.parts = s.parts := by
  rintro t rfl
  have hs := (saveGroup_saved true s).kept
  have hc := (coreChanged_served s.suspendGroup).kept
  generalize s.suspendGroup.coreChanged = t at hc ⊢
  unfold State.suspendGroup at hc
  generalize s.saveGroup true = s1 at hs hc
  exact ⟨hc.mem.trans hs.mem, hc.gid.trans hs.gid, hc.phase, hc.slots, hc.placed, hc.staged.trans hs.staged, hc.scratch.trans hs.scratch, hc.part.trans hs.part, hc.parts.trans hs.parts⟩

/-! ## Commit (R120, R144) -/

theorem liveThreads_empty (s : State) (gid : Nat) (h0 : gid ≠ 0) : s.liveThreads gid = [] ↔ ∀ u ∈ s.allThreads, u.key.gid = gid → u.status = .exited := by
  unfold State.liveThreads
  rw [List.filter_eq_nil_iff]
  simp only [decide_eq_true_eq, not_not]
  constructor
  · intro h u hu hg
    rcases List.mem_cons.1 hu with rfl | hu
    · exact h _ (mem_groupThreads.2 (.inl ⟨hg, hg ▸ h0, rfl⟩))
    · exact h u (mem_groupThreads.2 (.inr ⟨hu, hg⟩))
  · intro h u hu
    rcases mem_groupThreads.1 hu with ⟨hg, -, rfl⟩ | ⟨hu, hg⟩
    · exact h _ List.mem_cons_self hg
    · exact h u (List.mem_cons_of_mem _ hu) hg

theorem lookup_mem {α : Type} {k : Nat} {v : α} {l : List (Nat × α)} (h : lookup k l = some v) : (k, v) ∈ l := by
  induction l with
  | nil => cases h
  | cons c xs ih =>
    obtain ⟨j, w⟩ := c
    unfold lookup at h
    split at h
    · next hj => rw [Option.some.injEq] at h; subst hj; subst h; exact List.mem_cons_self
    · exact List.mem_cons_of_mem _ (ih h)

theorem lookup_none {α : Type} {k : Nat} {l : List (Nat × α)} (h : lookup k l = none) : ∀ c ∈ l, c.1 ≠ k := by
  induction l with
  | nil => exact fun _ hc => nomatch hc
  | cons c xs ih =>
    unfold lookup at h
    split at h
    · cases h
    · next hj => exact List.forall_mem_cons.2 ⟨hj, ih h⟩

/-- The bytes that the checked-out group has staged, in memory: a byte reads as the group saw it. -/
theorem writeCells_seen {s : State} (h : s.grp.staged.Pairwise (fun a b => a.1 < b.1)) (a : Nat) : Mem.get (Mem.writeCells s.mem s.grp.staged) a = seen s a := by
  unfold seen
  cases hl : lookup a s.grp.staged with
  | none => exact Mem.get_writeCells_other _ _ _ (lookup_none hl)
  | some v => exact Mem.get_writeCells_mem _ _ (h.imp (fun h => Nat.ne_of_lt h)) _ (lookup_mem hl)

/-- The group after its commit, but for the undo copies of banks. -/
def committed (g : Group) : Group :=
  { g with staged := [], stagedVa := [], stagedStamps := [], savedPairs := g.savedPairs.filter (fun p => !p.2.released), savedTiles := g.savedTiles.map (fun t => (t.1, t.2.settle g.gid)),
           undoScratch := [], undoBanks := [], foreignBytes := [], log := [], replay := [], tickets := [], ticketReplay := [],
           phase := .committed, partEnded := if g.stepEnded then g.seq :: g.partEnded else g.partEnded, seq := if g.stepEnded then 0xFFFFFFFF else g.seq,
           view := if g.stepEnded then 0xFFFFFFFF else g.view, stepEnded := false }

/-- Nothing but the stall counts of threads differs. -/
def StallOnly (s t : State) : Prop := ∃ h : Thread → Thread, (∀ u, h u = { u with waitSince := (h u).waitSince, waited := (h u).waited }) ∧ t = s.mapThreads h

theorem changedSince_stall (old : Core) (s : State) : StallOnly s (s.changedSince old) := by
  unfold State.changedSince
  simp only []
  split
  · exact ⟨id, fun _ => rfl, by simp [State.mapThreads]⟩
  · refine ⟨_, fun u => ?_, rfl⟩
    split
    · rfl
    · split
      · split <;> rfl
      · split <;> rfl
      · rfl

/-- A commit makes every staged byte visible and leaves the threads of the group but for their stall counts. -/
theorem commit_facts (s : State) : ∃ s1, s1.mem = Mem.writeCells s.mem s.grp.staged ∧ s1.grp = committed s.grp ∧ s1.lau = s.lau ∧ s1.thr = s.thr ∧ s1.threads = s.threads ∧ StallOnly s1 s.commit := by
  have hh := performCells_homeOnly s.grp.staged s
  refine ⟨{ s.commitStaged with core := (s.commitStaged.core.freeReleased s.grp.gid).invalidate, grp := committed s.grp }, State.commitStaged_mem s, rfl,
    (congrArg State.lau (show _ = _ from hh) :), (congrArg State.thr (show _ = _ from hh) :), (congrArg State.threads (show _ = _ from hh) :), ?_⟩
  have h := changedSince_stall s.commitStaged.core { s.commitStaged with core := (s.commitStaged.core.freeReleased s.grp.gid).invalidate, grp := committed s.grp }
  unfold State.commit
  simp only [State.commitStaged_grp]
  exact h

theorem stallOnly_live {s t : State} (h : StallOnly s t) {gid : Nat} (h0 : gid ≠ 0) : t.liveThreads gid = [] ↔ s.liveThreads gid = [] := by
  obtain ⟨k, hk, rfl⟩ := h
  rw [liveThreads_empty _ _ h0, liveThreads_empty _ _ h0]
  have hall : (s.mapThreads k).allThreads = s.allThreads.map k := rfl
  rw [hall, List.forall_mem_map]
  refine forall₂_congr (fun u _ => ?_)
  rw [hk u]

/-! ## The end of a group (R125) -/

/-- The checked-out group is as it was, or gone; its launch is as it was. -/
def Lingers (s t : State) : Prop := (t.grp = s.grp ∨ t.grp = Group.none) ∧ t.lau = s.lau

theorem lingers_refl (s : State) : Lingers s s := ⟨.inl rfl, rfl⟩

theorem Lingers.trans {s t u : State} (h1 : Lingers s t) (h2 : Lingers t u) : Lingers s u := by
  obtain ⟨hg, hl⟩ := h1
  obtain ⟨hg', hl'⟩ := h2
  exact ⟨hg'.elim (fun e => by rwa [e]) .inr, hl'.trans hl⟩

theorem forget_lingers (gid : Nat) (s : State) : Lingers s (s.forget gid) := by
  refine ⟨?_, rfl⟩
  show (if s.grp.gid = gid then Group.none else s.grp) = _ ∨ (if s.grp.gid = gid then Group.none else s.grp) = _
  split
  · exact .inr rfl
  · exact .inl rfl

theorem dropShadow_lingers (gid : Nat) (s : State) : Lingers s (s.dropShadow gid) := by
  unfold State.dropShadow
  generalize s.shadowsOf gid = gs
  induction gs generalizing s with
  | nil => exact lingers_refl s
  | cons g gs ih =>
    rw [List.foldl_cons]
    refine Lingers.trans ?_ (ih _)
    obtain ⟨k, _, he⟩ := changedSince_stall (s.core? g.dev g.core)
      (State.forget g.gid { (s.discardJobs (fun j => j.gid = g.gid)).updCore g.dev g.core (fun c => (c.restoreTiles g.gid).freeGroup g.gid) with
        inflight := ((s.discardJobs (fun j => j.gid = g.gid)).updCore g.dev g.core (fun c => (c.restoreTiles g.gid).freeGroup g.gid)).inflight.filter (fun a => a.t.gid ≠ g.gid) })
    rw [he]
    have hu : ∀ s1 : State, Lingers s1 (s1.updCore g.dev g.core (fun c => (c.restoreTiles g.gid).freeGroup g.gid)) := fun s1 => ⟨.inl (State.updCore_grp ..), State.updCore_lau ..⟩
    have hd : Lingers s (s.discardJobs (fun j => j.gid = g.gid)) := ⟨.inl rfl, rfl⟩
    exact (hd.trans (hu _)).trans (forget_lingers g.gid _)

/-- The group and its threads are gone, and its launch notes it. -/
theorem endGroup_facts {s : State} (h0 : s.grp.gid ≠ 0) : s.endGroup.grp = Group.none ∧ s.endGroup.lau.ended = s.grp.idx :: s.lau.ended ∧ (∀ u ∈ s.endGroup.threads, u.key.gid ≠ s.grp.gid) := by
  obtain ⟨hg, hl⟩ := dropShadow_lingers s.grp.gid s
  unfold State.endGroup
  simp only []
  generalize s.dropShadow s.grp.gid = d at hg hl
  have hd : (d.discardJobs (fun j => j.gid = s.grp.gid && !j.freed)).grp = d.grp ∧ (d.discardJobs (fun j => j.gid = s.grp.gid && !j.freed)).lau = d.lau := ⟨rfl, rfl⟩
  generalize d.discardJobs (fun j => j.gid = s.grp.gid && !j.freed) = e at hd
  generalize hkept : State.mapCores _ _ = k
  obtain ⟨w, hw, he⟩ := changedSince_stall e.core (k.forget s.grp.gid)
  rw [he]
  have hk : k.grp = d.grp ∧ k.lau = d.lau.groupEnded s.grp.idx := by
    rw [← hkept, ← hd.1, ← hd.2]
    exact ⟨rfl, rfl⟩
  refine ⟨?_, ?_, fun u hu => ?_⟩
  · show (if k.grp.gid = s.grp.gid then Group.none else k.grp) = Group.none
    rw [hk.1]
    rcases hg with hg | hg <;> rw [hg]
    · exact if_pos rfl
    · exact if_neg (fun e => h0 e.symm)
  · show k.lau.ended = _
    rw [hk.2, hl]
    rfl
  · obtain ⟨v, hv, rfl⟩ := List.mem_map.1 hu
    rw [hw v]
    simpa using (List.mem_filter.1 hv).2

/-! ## The next phase (R117, R118) -/

/-- A phase that begins: nothing is staged, logged or undone. -/
theorem beginPhase_facts (s : State) : s.beginPhase.mem = s.mem ∧ s.beginPhase.lau = s.lau ∧ s.beginPhase.thr = s.thr ∧ s.beginPhase.threads = s.threads
    ∧ ∃ r b, s.beginPhase.grp = { s.grp with
        undoScratch := [], undoBanks := [], foreignBytes := [], staged := [], stagedVa := [], stagedStamps := [], log := [],
        replay := [], tickets := [], ticketReplay := [], early := false, attempt := 0, trapped := false, audit := [], jobBytes := [], boundary := false, sampled := b, record := r }
      ∧ r.phase = s.grp.phases :=
  ⟨rfl, rfl, rfl, rfl, _, _, rfl, rfl⟩

/-- What the checked-out group is after its commit, where it goes on: `p` where it is pre-empted at this boundary. -/
structure NextPhase (p : Bool) (s t : State) : Prop where
  mem : t.mem = s.mem
  gid : t.grp.gid = s.grp.gid
  phase : t.grp.phase = if p then .queued else .running
  phases : t.grp.phases = s.grp.phases + 1
  staged : t.grp.staged = []
  slots : p = true → t.grp.slots = []
  log : t.grp.log = []
  attempt : t.grp.attempt = 0
  early : t.grp.early = false
  trapped : t.grp.trapped = false
  scratch : t.grp.scratch = s.grp.scratch
  k : t.grp.k = s.grp.k
  record : t.grp.record.phase = s.grp.phases + 1

/-- The checked-out group as its next phase is about to begin. -/
def steppedOn (s : State) : Group :=
  { s.grp with phases := s.grp.phases + 1, phase := if s.grp.preempt then .queued else .running, preempt := false, slots := if s.grp.preempt then [] else s.grp.slots,
               queuedAt := if s.grp.preempt then s.now else s.grp.queuedAt, level := s.lau.priority }

theorem beginPhase_next {s u : State} (hm : u.mem = s.mem) (hu : u.grp = steppedOn s) : NextPhase s.grp.preempt s u.beginPhase := by
  obtain ⟨hm', _, _, _, r, b, hg, hr⟩ := beginPhase_facts u
  rw [hu] at hg hr
  refine ⟨hm'.trans hm, ?_, ?_, ?_, ?_, fun hp => ?_, ?_, ?_, ?_, ?_, ?_, ?_, ?_⟩ <;> rw [hg]
  · rfl
  · rfl
  · rfl
  · exact if_pos hp
  · rfl
  · rfl
  · exact hr

theorem of_ite {α : Sort*} {c : Prop} [Decidable c] {P : α → Prop} {a b : α} (ha : c → P a) (hb : ¬c → P b) : P (if c then a else b) := by
  split
  · next h => exact ha h
  · next h => exact hb h

theorem nextPhase_goes {s : State} (h : s.liveThreads s.grp.gid ≠ []) : NextPhase s.grp.preempt s s.nextPhase := by
  unfold State.nextPhase
  simp only []
  rw [if_neg (by simpa using h)]
  refine of_ite (P := NextPhase s.grp.preempt s) (fun _ => ?_) (fun _ => beginPhase_next rfl rfl)
  · have ht := beginPhase_next (s := s) (u := { s.mapThreads (fun t => if t.key.gid = s.grp.gid then t.cutRegs s.lau.carrySet else t) with grp := steppedOn s }) rfl rfl
    exact ⟨ht.mem, ht.gid, ht.phase, ht.phases, ht.staged, ht.slots, ht.log, ht.attempt, ht.early, ht.trapped, ht.scratch, ht.k, ht.record⟩

/-- Settling changes only what is saved with a group that is queued. -/
theorem settleQueued_facts (s : State) : (s.grp.gid = 0 ∨ s.grp.phase ≠ .queued → s.settleQueued = s)
    ∧ s.settleQueued.mem = s.mem ∧ s.settleQueued.grp.gid = s.grp.gid ∧ s.settleQueued.grp.phase = s.grp.phase ∧ s.settleQueued.grp.phases = s.grp.phases
    ∧ s.settleQueued.grp.staged = s.grp.staged ∧ s.settleQueued.grp.slots = s.grp.slots := by
  refine ⟨fun h => if_pos h, ?_⟩
  unfold State.settleQueued
  split
  · exact ⟨rfl, rfl, rfl, rfl, rfl, rfl⟩
  · have hk := (saveGroup_saved (s.core.quarantined || decide (s.part.pstat ≠ 0)) s).kept
    simp only []
    generalize s.saveGroup (s.core.quarantined || decide (s.part.pstat ≠ 0)) = t at hk
    split
    · exact ⟨hk.mem, hk.gid, hk.phase, hk.phases, hk.staged, hk.slots⟩
    · exact ⟨hk.mem, hk.gid, hk.phase, hk.phases, hk.staged, hk.slots⟩

/-! ## The events of a phase -/

/-- A phase that may commit now: every sector that it has staged is prepared and unlocked. -/
def Commits (gid : Nat) (s : State) : Prop := s.grp.gid = gid ∧ s.grp.mayCommit = true ∧ s.unprepared = false ∧ (∀ p ∈ s.grp.stagedVa, s.locked (64 * p.1) = false)
  ∧ s.grp.staged.Pairwise (fun a b => a.1 < b.1)

/-- The state at the boundary: committed, and marked where it is pre-empted there. -/
def boundaryOf (s : State) : State := { s.commit with grp := { s.commit.grp with preempt := s.preempted } }

theorem phaseCommits_due {gid : Nat} {s : State} (h : Commits gid s) : phaseCommits s = some (boundaryOf s).nextPhase.settleQueued.coreChanged := by
  obtain ⟨_, hmay, hprep, hlock, _⟩ := h
  unfold phaseCommits commitPhase
  rw [whenDue_true, hprep, if_neg Bool.false_ne_true]
  · rfl
  · rw [hmay, Bool.true_and, List.all_eq_true]
    exact fun p hp => by rw [hlock p hp]; rfl

theorem boundaryOf_facts {gid : Nat} {s : State} (h : Commits gid s) : (∀ a, Mem.get (boundaryOf s).mem a = seen s a) ∧ (boundaryOf s).grp = { committed s.grp with preempt := s.preempted }
    ∧ (boundaryOf s).lau = s.lau ∧ (gid ≠ 0 → ((boundaryOf s).liveThreads (boundaryOf s).grp.gid = [] ↔ s.liveThreads gid = [])) := by
  obtain ⟨hgid, _, _, _, hs⟩ := h
  obtain ⟨s1, hm, hg, hl, hthr, hths, hst⟩ := commit_facts s
  have hlive := fun h0 => stallOnly_live hst (gid := gid) h0
  obtain ⟨k, _, he⟩ := hst
  have hgrp : (boundaryOf s).grp = { committed s.grp with preempt := s.preempted } := by
    unfold boundaryOf
    rw [he, ← hg]
    rfl
  refine ⟨fun a => ?_, hgrp, ?_, fun h0 => ?_⟩
  · rw [← writeCells_seen hs, ← hm]
    unfold boundaryOf
    rw [he]
    rfl
  · rw [← hl]
    unfold boundaryOf
    rw [he]
    rfl
  · rw [hgrp]
    show (boundaryOf s).liveThreads s.grp.gid = [] ↔ _
    rw [hgid]
    refine (Iff.trans ?_ (hlive h0)).trans ?_
    · exact Iff.rfl
    · rw [liveThreads_empty _ _ h0, liveThreads_empty _ _ h0]
      unfold State.allThreads
      rw [hthr, hths]

/-! ## Admission (R116, R118, R232) -/

/-- The group runs on the core. -/
def RunsOn (gid core : Nat) (s t : State) : Prop := t.grp.gid = gid ∧ t.grp.phase = (if s.grp.boundary then .closing else .running) ∧ t.grp.core = core ∧ t.grp.placed = true

/-- The checked-out group on its core, its launch and the threads as they were. -/
structure PlacedOn (core : Nat) (s t : State) : Prop where
  mem : t.mem = s.mem
  lau : t.lau = s.lau
  gid : t.grp.gid = s.grp.gid
  idx : t.grp.idx = s.grp.idx
  phase : t.grp.phase = if s.grp.boundary then .closing else .running
  core : t.grp.core = core
  placed : t.grp.placed = true

theorem checkoutCore_kept (d n : Nat) (s : State) : (s.checkoutCore d n).mem = s.mem ∧ (s.checkoutCore d n).lau = s.lau ∧ (s.checkoutCore d n).grp = s.grp := by
  unfold State.checkoutCore
  split <;> exact ⟨rfl, rfl, rfl⟩

theorem choose_kept (n : Nat) (s : State) : (s.choose n).2.mem = s.mem ∧ (s.choose n).2.lau = s.lau ∧ (s.choose n).2.grp = s.grp := by
  unfold State.choose
  split <;> exact ⟨rfl, rfl, rfl⟩

/-- The group placed on the checked-out core, in pack slots from a chosen one on. -/
def onCore (core start : Nat) (s : State) : State :=
  let slots := (s.freeSlots s.grp.dev core start).take s.lau.packs
  { s with grp := { s.grp with core := core, placed := true, slots := slots, phase := if s.grp.boundary then .closing else .running, closedAt := s.now, boundary := false, level := s.lau.priority },
           core := { s.core with issued := s.core.issued.filter (fun x => !(slots.contains x)) }.invalidate }

/-- An admission places the group, and then its threads come into being or what was saved with it returns. -/
theorem admitOn_eq (core : Nat) (s : State) : ∃ s2, PlacedOn core s s2
    ∧ s.admitOn core = if (s.lau.admitted.any (fun a => a.1 = s.grp.idx)) = false then s2.firstAdmission
        else (s2.restoreGroup.mapThreads (fun t => if t.key.gid = s.grp.gid then t.resume s2.dev.clk else t)).coreChanged := by
  obtain ⟨hm, hl, hg⟩ := checkoutCore_kept s.grp.dev core s
  obtain ⟨hm', hl', hg'⟩ := choose_kept 64 (s.checkoutCore s.grp.dev core)
  have he : s.admitOn core = (fun c : Nat × State => if (!(c.2.lau.admitted.any (fun a => a.1 = c.2.grp.idx))) = true then (onCore core c.1 c.2).firstAdmission
      else ((onCore core c.1 c.2).restoreGroup.mapThreads (fun t => if t.key.gid = c.2.grp.gid then t.resume (onCore core c.1 c.2).dev.clk else t)).coreChanged)
      ((s.checkoutCore s.grp.dev core).choose 64) := rfl
  rw [he]
  generalize (s.checkoutCore s.grp.dev core).choose 64 = c at hm' hl' hg'
  obtain ⟨start, s1⟩ := c
  dsimp only at hm' hl' hg' ⊢
  rw [hm] at hm'
  rw [hl] at hl'
  rw [hg] at hg'
  refine ⟨onCore core start s1, ⟨hm', hl', (congrArg Group.gid hg' :), (congrArg Group.idx hg' :), ?_, rfl, rfl⟩, ?_⟩
  · rw [← hg']
    rfl
  · rw [hl', hg']
    simp only [Bool.not_eq_true']

/-- A thread at kernel entry (R8, Table 1.1). -/
def AtEntry (l : Launch) (gid tid : Nat) (u : Thread) : Prop := u.key = ⟨gid, tid⟩ ∧ u.status = .ready ∧ u.pc = l.entry
  ∧ u.meet = 0xFFFFFFFFFFFF ∧ u.grant = l.regs ∧ u.q = 0 ∧ u.cc = 0 ∧ u.fp = 0 ∧ u.sli = 0 ∧ u.pend = []
  ∧ ∀ (n : Nat) (h : n < 200), n ≠ 2 → n ≠ 3 → u.regs[n] = 0

theorem newThread_atEntry (l : Launch) (gid idx tid clk : Nat) : AtEntry l gid tid (l.newThread gid idx tid clk) := by
  refine ⟨rfl, rfl, rfl, rfl, rfl, rfl, rfl, rfl, rfl, rfl, fun n h h2 h3 => ?_⟩
  show (l.entryRegs idx tid)[n] = 0
  unfold Launch.entryRegs
  simp only []
  rw [Vector.getElem_set_ne _ _ (Ne.symm h3), Vector.getElem_set_ne _ _ (Ne.symm h2), Vector.getElem_replicate]

theorem mem_foldr_putThread {u : Thread} (h0 : u.key.gid ≠ 0) {ts l : List Thread} (h : u ∈ ts) : u ∈ ts.foldr putThread l := by
  induction ts with
  | nil => cases h
  | cons t ts ih =>
    rw [List.foldr_cons, mem_putThread]
    rcases List.mem_cons.1 h with rfl | h
    · exact .inl ⟨h0, rfl⟩
    · exact .inr (ih h)

theorem firstAdmission_facts {core gid : Nat} {s s2 : State} (h : PlacedOn core s s2) (hgid : s.grp.gid = gid) (h0 : gid ≠ 0) : s2.firstAdmission.mem = s.mem
    ∧ RunsOn gid core s s2.firstAdmission ∧ (s.grp.idx, core) ∈ s2.firstAdmission.lau.admitted
    ∧ ∀ tid < s.lau.threadsPerGroup, ∃ u ∈ s2.firstAdmission.threads, AtEntry s.lau gid tid u := by
  obtain ⟨hm, hl, hthr, hths, r, b, hg, _⟩ := beginPhase_facts { s2 with threads := (s2.lau.newThreads s2.grp.gid s2.grp.idx s2.dev.clk).foldr putThread s2.threads }
  unfold State.firstAdmission
  simp only []
  generalize State.beginPhase _ = t at hm hl hths hg ⊢
  refine ⟨hm.trans h.mem, ?_, ?_, fun tid ht => ⟨s.lau.newThread gid s2.grp.idx tid s2.dev.clk, ?_, newThread_atEntry ..⟩⟩
  · refine ⟨(congrArg Group.gid hg).trans (h.gid.trans hgid), (congrArg Group.phase hg).trans h.phase, (congrArg Group.core hg).trans h.core, (congrArg Group.placed hg).trans h.placed⟩
  · rw [hl, ← h.idx, ← h.core]
    exact List.mem_append_right _ List.mem_cons_self
  · show _ ∈ t.threads
    rw [hths, h.lau, h.gid, hgid]
    exact mem_foldr_putThread h0 (List.mem_map_of_mem (f := fun t => s.lau.newThread gid s2.grp.idx t s2.dev.clk) (List.mem_range.2 ht))

theorem readmission_facts {core gid : Nat} {s s2 : State} (h : PlacedOn core s s2) (hgid : s.grp.gid = gid) (f : Thread → Thread) :
    (s2.restoreGroup.mapThreads f).coreChanged.mem = s.mem ∧ RunsOn gid core s (s2.restoreGroup.mapThreads f).coreChanged := by
  have hr := (restoreGroup_saved s2).kept
  generalize s2.restoreGroup = r at hr
  have hc := (coreChanged_served (r.mapThreads f)).kept
  exact ⟨hc.mem.trans (hr.mem.trans h.mem), hc.gid.trans (hr.gid.trans (h.gid.trans hgid)), hc.phase.trans (hr.phase.trans h.phase), hc.core.trans (hr.core.trans h.core),
    hc.placed.trans (hr.placed.trans h.placed)⟩

theorem happens_onGroup {i : Instr} {place : Nat} {f : State → Option State} {s : State} {due : State → Prop} {P : State → State → Prop} (hi : exec i s = s.onGroup place f)
    (h : ∀ s1, groupAt place s = some s1 → due s1 → ∃ t, f s1 = some t ∧ P s1 t) : Happens i s (groupAt place s) due P := by
  intro s1 hs hd
  obtain ⟨t, ht, hp⟩ := h s1 hs hd
  refine ⟨t, ?_, hp⟩
  rw [hi, onGroup_eq, hs, Option.bind_some, ht, Option.getD_some]

/-- Settles O32: a commit by what it makes visible and how the next phase begins or the group ends, an admission by where it places the group. -/
theorem phaseEvents : Obligations.PhaseEvents := by
  unfold Obligations.PhaseEvents
  intro gid core s
  refine ⟨⟨?goes, ?queued, ?ends, ?waits⟩, ⟨?first, ?again⟩, ?ages, fun q hq victim => ?preempts⟩
  case goes =>
    refine happens_onGroup (f := phaseCommits) rfl (fun s1 hs ⟨hc, hlive, hp⟩ => ⟨_, phaseCommits_due hc, ?_⟩)
    obtain ⟨hm, hg, hl, hlv⟩ := boundaryOf_facts hc
    have hn := nextPhase_goes (fun h => hlive ((hlv (groupAt_some hs).1).1 h))
    generalize boundaryOf s1 = b at hm hg hl hlv hn
    rw [show b.grp.preempt = s1.preempted by rw [hg], hp] at hn
    generalize b.nextPhase = n at hn
    have hset : n.settleQueued = n := (settleQueued_facts n).1 (.inr (by rw [hn.phase]; decide))
    rw [hset]
    have hcs := coreChanged_served n
    have hk := hcs.kept
    have hgrp := hcs.grp
    refine ⟨fun a => ?_, hk.gid.trans (hn.gid.trans ?_), hk.phase.trans hn.phase, hk.phases.trans (hn.phases.trans ?_), hk.staged.trans hn.staged, (congrArg Group.log hgrp).trans hn.log,
      (congrArg Group.attempt hgrp).trans hn.attempt, (congrArg Group.early hgrp).trans hn.early, (congrArg Group.trapped hgrp).trans hn.trapped, hk.scratch.trans (hn.scratch.trans ?_),
      (congrArg Group.k hgrp).trans (hn.k.trans ?_), (congrArg (fun g => g.record.phase) hgrp).trans (hn.record.trans ?_)⟩
    · rw [hk.mem, hn.mem, hm]
    all_goals rw [hg]
    · exact hc.1
    all_goals rfl
  case queued =>
    refine happens_onGroup (f := phaseCommits) rfl (fun s1 hs ⟨hc, hlive, hp⟩ => ⟨_, phaseCommits_due hc, ?_⟩)
    obtain ⟨hm, hg, hl, hlv⟩ := boundaryOf_facts hc
    have hn := nextPhase_goes (fun h => hlive ((hlv (groupAt_some hs).1).1 h))
    generalize boundaryOf s1 = b at hm hg hl hlv hn
    rw [show b.grp.preempt = s1.preempted by rw [hg], hp] at hn
    generalize b.nextPhase = n at hn
    obtain ⟨_, hsm, hsg, hsp, hsps, hss, hsl⟩ := settleQueued_facts n
    generalize n.settleQueued = q at hsm hsg hsp hsps hss hsl
    have hk := (coreChanged_served q).kept
    refine ⟨fun a => ?_, hk.gid.trans (hsg.trans (hn.gid.trans ?_)), hk.phase.trans (hsp.trans hn.phase), hk.phases.trans (hsps.trans (hn.phases.trans ?_)), hk.staged.trans (hss.trans hn.staged),
      hk.slots.trans (hsl.trans (hn.slots rfl))⟩
    · rw [hk.mem, hsm, hn.mem, hm]
    all_goals rw [hg]
    · exact hc.1
    · rfl
  case ends =>
    refine happens_onGroup (f := phaseCommits) rfl (fun s1 hs ⟨hc, hlive⟩ => ⟨_, phaseCommits_due hc, ?_⟩)
    have h0 := (groupAt_some hs).1
    obtain ⟨hm, hg, hl, hlv⟩ := boundaryOf_facts hc
    have hempty := (hlv h0).2 hlive
    generalize boundaryOf s1 = b at hm hg hl hlv hempty
    have hbgid : b.grp.gid = gid := by rw [hg]; exact hc.1
    have hnext : b.nextPhase = b.endGroup := by
      unfold State.nextPhase
      simp only []
      rw [if_pos (by simpa using hempty)]
    have hend := endGroup_facts (s := b) (by rw [hbgid]; exact h0)
    have hemem : b.endGroup.mem = b.mem := endGroup_mem b
    rw [hnext]
    generalize b.endGroup = e at hend hemem
    obtain ⟨heg, hel, het⟩ := hend
    rw [(settleQueued_facts e).1 (.inl (by rw [heg]; rfl))]
    have hcs := coreChanged_served e
    refine ⟨fun a => ?_, (hcs.grp_none (by rw [heg]; rfl)).trans heg, ?_, fun u hu => ?_⟩
    · rw [hcs.mem, hemem, hm]
    · rw [hcs.lau, hel, hg, hl]
      rfl
    · obtain ⟨v, hv, hk⟩ := hcs.threads u hu
      rw [← hk, ← hbgid]
      exact het v hv
  case waits =>
    intro h
    show s.onGroup gid phaseCommits = _
    rw [onGroup_eq]
    cases hs : groupAt gid s with
    | none => rfl
    | some s1 =>
      rw [Option.bind_some, phaseCommits, whenDue_false (by rw [h s1 hs]; rfl)]
      rfl
  case first =>
    refine happens_onGroup (f := phaseAdmits core) rfl (fun s1 hs ⟨⟨hgid, h0, hw, hgo, had, hfit, hkeep⟩, hnew⟩ => ⟨s1.admitOn core, ?_, ?_⟩)
    · unfold phaseAdmits
      rw [whenDue_true]
      simpa [hw, hgo, had, hfit] using hkeep
    · obtain ⟨s2, hp, he⟩ := admitOn_eq core s1
      rw [he, if_pos (by simpa using hnew)]
      exact firstAdmission_facts hp hgid h0
  case again =>
    refine happens_onGroup (f := phaseAdmits core) rfl (fun s1 hs ⟨⟨hgid, h0, hw, hgo, had, hfit, hkeep⟩, hold⟩ => ⟨s1.admitOn core, ?_, ?_⟩)
    · unfold phaseAdmits
      rw [whenDue_true]
      simpa [hw, hgo, had, hfit] using hkeep
    · obtain ⟨s2, hp, he⟩ := admitOn_eq core s1
      rw [he, if_neg (by simpa using hold)]
      exact readmission_facts hp hgid _
  case ages =>
    refine happensWhen_due _ _ (onGroup_eq gid phaseAges s) (fun s1 _ => ?_) (fun s1 _ _ => rfl)
    simp only [Bool.and_eq_true, decide_eq_true_eq, and_assoc]
  case preempts =>
    subst hq
    refine happens_onGroup (f := preempts ((s.group? gid).getD Group.none)) rfl (fun s1 hs ⟨hrun, hsh, hiss, hgid, h0, hq0, hqp, hql, hqa, hqd, hgo, had, hfit, hprio, hwould, hbest⟩ => ⟨s1.suspendGroup.coreChanged, ?_, ?_⟩)
    · unfold preempts
      rw [whenDue_true]
      simp only [Bool.and_eq_true, Bool.not_eq_true', decide_eq_true_eq, List.all_eq_true, List.any_eq_false, hgid, and_assoc]
      refine ⟨hrun, hsh, hiss, hq0, hqp, hql, hqa, hqd, hgo, had, hfit, hprio, hwould, fun g hg ⟨hres, hshg, hrung, hpg, hwg⟩ => ?_⟩
      rw [hbest g hg hres hshg hrung hpg] at hwg
      cases hwg
    · obtain ⟨hm, hg, hp, hsl, hpl, hst, hsc, _⟩ := suspendGroup_facts s1 _ rfl
      exact ⟨hm, hg, hp, hsl, hpl, hst, hsc⟩

end Sys2Proof.Claims
end

section
/-!
PROOFS. Partition reset, swap and halt (O49).
-/
namespace Sys2Proof.Claims
open Machine Bits Encoding

/-! ## What is checked out already -/

theorem focusPart_self {s : State} (hp : Placed s) : s.focusPart s.part.dev s.part.pid = s := by
  unfold State.focusPart State.checkoutPart
  rw [if_pos ⟨rfl, rfl⟩]
  unfold State.checkoutDev
  exact if_pos hp

theorem partPlace_placed {dev pid : Nat} {s s1 : State} (h : partPlace dev pid s = some s1) : Placed s1 := by
  obtain ⟨hp, _, hn⟩ := partPlace_some h
  exact hn.trans hp.symm

theorem focusGroup_part? {gid : Nat} {s t : State} (h : s.focusGroup gid = some t) (d p : Nat) : t.part? d p = s.part? d p := by
  unfold State.focusGroup at h
  split at h
  · cases h
  · next s1 h1 =>
    split at h
    · cases h
    · next s2 h2 =>
      cases h
      rw [part?_focusPart]
      have hcore : ∀ (u : State) (a b : Nat), (u.checkoutCore a b).part? d p = u.part? d p := by
        intro u a b
        unfold State.checkoutCore
        split <;> rfl
      rw [hcore]
      have h21 : s2.part? d p = s1.part? d p := by
        unfold State.checkoutLaunch at h2
        split at h2
        · cases h2; rfl
        · split at h2 <;> cases h2
          rfl
      rw [h21]
      unfold State.checkoutGroup at h1
      split at h1
      · cases h1; rfl
      · split at h1 <;> cases h1
        rfl

/-! ## Reset (R315) -/

theorem kin_of_eq {s t : State} (hg : t.allGroups = s.allGroups) (hl : t.allLaunches = s.allLaunches) : Kin s t := by
  unfold Kin
  rw [hg, hl]
  exact kin_refl s

theorem foldl_kin {α : Type} {f : State → α → State} (h : ∀ s a, Kin s (f s a)) (l : List α) (s : State) : Kin s (l.foldl f s) := by
  induction l generalizing s with
  | nil => exact kin_refl s
  | cons a l ih => exact (h s a).trans (ih _)

theorem perform_kin (k : Nat) (bs : List Byte) (cells : List (Nat × Byte)) (s : State) : Kin s ((s.perform k bs).clearPoison cells) := kin_of_eq rfl rfl

theorem discardWrites_kin (s : State) (l : Launch) : Kin s (s.discardWrites l) := by
  have hsig : ∀ s1, Kin s s1 → Kin s (match l.source, l.interrupt with | .queue q _, true => s1.msixSignal l.dev l.pid q | _, _ => s1) := by
    intro s1 h1
    split
    · exact h1.trans (msixSignal_reported ..).within.1
    · exact h1
  refine hsig _ ?_
  split
  · exact perform_kin ..
  · exact kin_refl s

theorem dropSeq_kin (s : State) (q : SeqCtx) : Kin s (s.dropSeq q) := by
  have h : OnlyStores s ((s.settle q.pid q.views none).refAt (field q.id.toNat 25 16) q.pid q.tokens false) := (onlyStores_settle ..).trans (onlyStores_refAt ..)
  unfold State.dropSeq State.destroySeq
  simp only []
  generalize (s.settle q.pid q.views none).refAt (field q.id.toNat 25 16) q.pid q.tokens false = s1 at h
  have h1 : Kin s s1 := by
    rw [h]
    exact kin_refl s
  refine h1.trans (kin_of_eq ?_ ?_)
  · show ((s1.dropTails q.id).updDev _ _).allGroups = _
    unfold State.updDev
    split <;> rfl
  · show ((s1.dropTails q.id).updDev _ _).allLaunches = _
    unfold State.updDev
    split <;> rfl

/-- The registers and objects of a partition after reset. -/
def FreshPart (p q : Part) : Prop := q.dev = p.dev ∧ q.pid = p.pid ∧ q.pstat = 0 ∧ q.nbv = 2 ∧ q.ptroot = 0 ∧ q.broken = false ∧ q.lines = [] ∧ q.queues = [] ∧ q.mailboxes = []
  ∧ q.prefixes = [] ∧ q.faults = [] ∧ q.journal = [] ∧ q.jhead = 1 ∧ q.launchNo = 0x80000000 ∧ q.recorded = []

/-- No launch of the checked-out partition of `s` is left, nor a group of one. -/
def LaunchesGone (s t : State) : Prop := (∀ l ∈ t.allLaunches, l.lid ≠ 0 → ¬(l.dev = s.part.dev ∧ l.pid = s.part.pid))
  ∧ ∀ l ∈ s.allLaunches, l.lid ≠ 0 → l.dev = s.part.dev → l.pid = s.part.pid → ∀ g ∈ t.allGroups, g.gid ≠ 0 → g.lid ≠ l.lid

theorem launchesGone_of_kin {s t u : State} (h : LaunchesGone s t) (hk : Kin t u) : LaunchesGone s u := by
  obtain ⟨hl, hg⟩ := h
  refine ⟨fun l hm h0 hl' => ?_, fun l hm h0 hd hp g hgm hg0 => hg l hm h0 hd hp g (hk.1 g hgm hg0) hg0⟩
  obtain ⟨l0, hm0, e1, e2, e3⟩ := hk.2 l hm
  exact hl l0 hm0 (e1 ▸ h0) ⟨e2.trans hl'.1, e3.trans hl'.2⟩

/-- Taking the launches of a partition out, with their groups. -/
theorem removeLaunches_gone (s : State) : LaunchesGone s (((s.allLaunches.filter (fun l => l.lid ≠ 0 && l.dev = s.part.dev && l.pid = s.part.pid)).foldl State.discardWrites s).removeLaunches
    ((s.allLaunches.filter (fun l => l.lid ≠ 0 && l.dev = s.part.dev && l.pid = s.part.pid)).map Launch.lid)
    ((s.allGroups.filter (fun g => g.gid ≠ 0 && ((s.allLaunches.filter (fun l => l.lid ≠ 0 && l.dev = s.part.dev && l.pid = s.part.pid)).map Launch.lid).contains g.lid)).map Group.gid)) := by
  generalize hlids : (s.allLaunches.filter (fun l => l.lid ≠ 0 && l.dev = s.part.dev && l.pid = s.part.pid)).map Launch.lid = lids
  have hmine : ∀ l ∈ s.allLaunches, l.lid ≠ 0 → l.dev = s.part.dev → l.pid = s.part.pid → l.lid ∈ lids := by
    intro l hm h0 hd hp
    rw [← hlids]
    exact List.mem_map_of_mem (List.mem_filter.2 ⟨hm, by simp [h0, hd, hp]⟩)
  have hk := foldl_kin discardWrites_kin (s.allLaunches.filter (fun l => l.lid ≠ 0 && l.dev = s.part.dev && l.pid = s.part.pid)) s
  generalize (s.allLaunches.filter (fun l => l.lid ≠ 0 && l.dev = s.part.dev && l.pid = s.part.pid)).foldl State.discardWrites s = s1 at hk
  generalize hgids : (s.allGroups.filter (fun g => g.gid ≠ 0 && lids.contains g.lid)).map Group.gid = gids
  obtain ⟨hrg, hrl⟩ := removeLaunches_left lids gids s1
  refine ⟨fun l hm h0 hl => ?_, fun l hm h0 hd hp g hgm hg0 heq => ?_⟩
  · obtain ⟨hm1, hk1⟩ := hrl l hm h0
    obtain ⟨l0, hm0, e1, e2, e3⟩ := hk.2 l hm1
    have := hmine l0 hm0 (e1 ▸ h0) (e2.trans hl.1) (e3.trans hl.2)
    simp [← e1, this] at hk1
  · obtain ⟨hm1, hk1⟩ := hrg g hgm hg0
    have : g.gid ∈ gids := by
      rw [← hgids]
      exact List.mem_map_of_mem (List.mem_filter.2 ⟨hk.1 g hm1 hg0, by simp [hg0, heq, hmine l hm h0 hd hp]⟩)
    simp [this] at hk1

theorem resetPart_facts (s : State) : FreshPart s.part s.resetPart.part ∧ LaunchesGone s s.resetPart := by
  have h1 := removeLaunches_gone s
  unfold State.resetPart
  simp only []
  generalize State.removeLaunches _ _ _ = s1 at h1
  have h2 := (foldl_within (loseGroups_within s.part.dev) (s1.allLaunches.filter (fun l => l.pid = s.part.pid)) s1).1
  generalize (s1.allLaunches.filter (fun l => l.pid = s.part.pid)).foldl (State.loseGroups s.part.dev) s1 = s2 at h2
  have h3 := foldl_kin dropSeq_kin ((s2.dev? s.part.dev).seqs.filter (fun q => q.pid = s.part.pid)) s2
  generalize ((s2.dev? s.part.dev).seqs.filter (fun q => q.pid = s.part.pid)).foldl State.dropSeq s2 = s3 at h3
  generalize hs4 : s3.mapCores (fun c => if c.dev = s.part.dev then c.forget s.part.pid else c) = s4
  have h4 : Kin s3 s4 := hs4 ▸ kin_refl s3
  have hgone := launchesGone_of_kin h1 ((h2.trans h3).trans h4)
  have h5 : Kin s4 { s4 with
      stamps := s4.stamps.filter (fun p => !s4.ownsStamp s.part.dev s.part.pid p), stampOwner := s4.stampOwner.filter (fun p => p.2 ≠ (s.part.dev, s.part.pid)),
      censuses := s4.censuses.filter (fun c => !(c.dev = s.part.dev && c.pid = s.part.pid)), drawn := s4.drawn + 1 } := kin_of_eq rfl rfl
  generalize ({ s4 with
      stamps := s4.stamps.filter (fun p => !s4.ownsStamp s.part.dev s.part.pid p), stampOwner := s4.stampOwner.filter (fun p => p.2 ≠ (s.part.dev, s.part.pid)),
      censuses := s4.censuses.filter (fun c => !(c.dev = s.part.dev && c.pid = s.part.pid)), drawn := s4.drawn + 1 } : State) = s5 at h5 ⊢
  have h6 := (updPart_reported s.part.dev s.part.pid (fun p => p.renewed s4.drawn) s5).within.1
  have hp6 := (part?_updPart (f := fun p => p.renewed s4.drawn) (by exact fun _ => ⟨rfl, rfl⟩) s.part.dev s.part.pid s.part.dev s.part.pid s5).trans (if_pos ⟨rfl, rfl⟩)
  generalize s5.updPart s.part.dev s.part.pid (fun p => p.renewed s4.drawn) = s6 at h6 hp6
  have h7 : Kin s6 (s6.focusPart s.part.dev s.part.pid) := kin_of_eq (by simp [State.allGroups]) (by simp [State.allLaunches])
  obtain ⟨hkd, hkp, _⟩ := focusPart_keys s.part.dev s.part.pid s6
  refine ⟨?_, launchesGone_of_kin hgone ((h5.trans h6).trans h7)⟩
  rw [focusPart_part, hp6]
  obtain ⟨hd, hp⟩ := part?_keys s5 s.part.dev s.part.pid
  exact ⟨hd, hp, rfl, rfl, rfl, rfl, rfl, rfl, rfl, rfl, rfl, rfl, rfl, rfl, rfl⟩

/-! ## Halts (R314) -/

theorem emit_part (d : Nat) (m : OutMsg) (s : State) : (s.emit d m).part = s.part := by
  unfold State.emit
  split <;> rfl

theorem msixSignal_part (v : Nat) (s : State) : ∃ pba, (s.msixSignal s.part.dev s.part.pid v).part = { s.part with pba := pba } := by
  unfold State.msixSignal
  split
  · unfold State.updPart
    rw [if_pos ⟨rfl, rfl⟩]
    exact ⟨_, rfl⟩
  · exact ⟨_, emit_part ..⟩

/-- An uncorrected error of the checked-out partition is logged, and its Advanced Error status is set. -/
theorem report_uncorrected {s : State} (hp : Placed s) (h : s.dev.answers = true) {code : Nat} (hc : errClass code ≠ 1) (u : ErrUnit) (ctx : Word) : ∃ pba,
    (s.report s.part.dev s.part.pid code u ctx).part = { s.part.logError ⟨errClass code, code, u.kind, u.unit, ctx, s.gtime s.dev.num, s.dev.clk⟩ with aerUnc := true, pba := pba } := by
  have hdev : s.dev? s.part.dev = s.dev := by
    rw [← show s.dev.num = s.part.dev from hp]
    exact dev?_self s
  have hnew : s.newError s.part.dev code u ctx = ⟨errClass code, code, u.kind, u.unit, ctx, s.gtime s.dev.num, s.dev.clk⟩ := by
    unfold State.newError
    rw [hdev, ← show s.dev.num = s.part.dev from hp]
  unfold State.report
  rw [hdev, h, if_neg (by decide)]
  simp only []
  rw [if_neg hc, hnew]
  have hupd : ∀ f g : Part → Part, (f s.part).dev = s.part.dev → (f s.part).pid = s.part.pid →
      (s.updPart s.part.dev s.part.pid f).updPart s.part.dev s.part.pid g = { s with part := g (f s.part) } := by
    intro f g hd hp
    rw [show s.updPart s.part.dev s.part.pid f = { s with part := f s.part } from if_pos ⟨rfl, rfl⟩]
    exact if_pos ⟨hd, hp⟩
  rw [hupd _ _ rfl rfl]
  have he := emit_part s.part.dev (.errNonfatal s.part.dev s.part.pid)
    { s with part := { s.part.logError ⟨errClass code, code, u.kind, u.unit, ctx, s.gtime s.dev.num, s.dev.clk⟩ with aerUnc := true } }
  generalize State.emit _ _ _ = e at he
  obtain ⟨pba, hm⟩ := msixSignal_part 65 e
  rw [he] at hm
  exact ⟨pba, hm⟩

theorem haltPart_signalled {s : State} (hp : Placed s) (h : s.dev.answers = true) : Signalled s s.haltPart :=
  setPstat_signalled (s := { s.mapGroups (fun g => if s.partGids.contains g.gid && g.resident && g.shadow = 0 then { g with preempt := true } else g) with part := { s.part with haltAt := s.now } }) hp h 1

/-- A group of the checked-out partition is one of the machine's. -/
theorem focusGroup_mem_groups {gid : Nat} {s t : State} (h : s.focusGroup gid = some t) : t.grp ∈ s.allGroups := by
  obtain ⟨_, hg, _⟩ := focusGroup_facts h
  exact List.mem_of_find?_eq_some hg

theorem saveQueued_unplaced {s : State} (h : ∀ g ∈ s.allGroups, g.placed = false) (gid : Nat) : s.saveQueued gid = s := by
  unfold State.saveQueued
  split
  · next s1 hs1 =>
    rw [h _ (focusGroup_mem_groups hs1)]
    rfl
  · rfl

theorem foldl_fixed {α β : Type} {f : β → α → β} {s : β} (h : ∀ a, f s a = s) (l : List α) : l.foldl f s = s := by
  induction l with
  | nil => rfl
  | cons a l ih => rw [List.foldl_cons, h a, ih]

theorem mem_allGroups_mapped {f : Group → Group} {s t : State} (hg : t.grp = f s.grp) (hgs : t.groups = s.groups.map f) {g x : Group} (hm : g ∈ s.allGroups)
    (hx : x = f g) : x ∈ t.allGroups := by
  unfold State.allGroups at hm ⊢
  rw [hg, hgs, hx]
  exact List.mem_map_of_mem (f := f) hm

/-- Settles O49: each event by what it makes of the partition, its groups and its launches. -/
theorem partitionEvents : Obligations.PartitionEvents := by
  unfold Obligations.PartitionEvents
  intro dev pid v s
  refine ⟨?preset, ?nbv, ?out, ?in_, fun gid s1 => ?timeout, ?saves, ?saved, ?error⟩
  case preset =>
    refine happensWhen_onPart (f := resetsPart) (fun s => s.dev.answers) (fun s => State.setPstat 0 (State.setPstat 5 s).resetPart) rfl (fun _ => rfl) (fun s1 => Iff.rfl) (fun s1 _ => ?_)
    have h5 := setPstat_eq 5 s1
    obtain ⟨hfresh, hgone⟩ := resetPart_facts (s1.setPstat 5)
    generalize (s1.setPstat 5).resetPart = r at hfresh hgone ⊢
    have hgone1 : LaunchesGone s1 r := by
      rw [h5] at hgone
      exact hgone
    rw [h5] at hfresh
    have h0 := setPstat_eq 0 r
    have hgone0 : LaunchesGone s1 (r.setPstat 0) := by
      rw [h0]
      exact hgone1
    obtain ⟨hd, hp, _, hn, hr, hb, hl, hq, hm, hpre, hf, hj, hjh, hln, hrec⟩ := hfresh
    obtain ⟨pba, hpart⟩ : ∃ pba, (r.setPstat 0).part = { r.part with pstat := 0, pba := pba } := ⟨_, congrArg State.part h0⟩
    rw [hpart]
    exact ⟨hd, hp, rfl, hn, hr, hb, hl, hq, hm, hpre, hf, hj, hjh, hln, hrec, hgone0⟩
  case nbv =>
    refine happensWhen_onPart (f := setsNbv v) _ _ rfl (fun _ => rfl) (fun s1 => ?_) (fun s1 _ => rfl)
    simp only [Bool.or_eq_true, decide_eq_true_eq]
  case out =>
    refine happensWhen_due (fun s => s.part.pstat = 0 && !s.part.broken && s.dev.answers) State.haltPart (onPart_eq dev pid swapOut s) (fun s1 _ => ?_) (fun s1 hs hd => ?_)
    · simp only [Bool.and_eq_true, decide_eq_true_eq, Bool.not_eq_true']
      tauto
    · have hsig := haltPart_signalled (partPlace_placed hs) hd.1.2
      obtain ⟨pba, out, he⟩ := haltPart_eq s1
      rw [he] at hsig ⊢
      refine ⟨rfl, rfl, rfl, hsig, fun g hg => ?_⟩
      refine mem_allGroups_mapped (s := s1) (f := fun g => if s1.partGids.contains g.gid && g.resident && g.shadow = 0 then { g with preempt := true } else g) rfl rfl hg ?_
      simp only [List.contains_iff_mem, Bool.and_eq_true, decide_eq_true_eq, and_assoc]
  case in_ =>
    refine happens_onPart (f := swapIn) rfl (fun s1 ⟨⟨hb, ha⟩, hp, hr⟩ => ?_)
    unfold swapIn
    simp only [hr, List.foldl_nil]
    rw [whenDue_true (by simp [hp, hb, ha])]
    refine ⟨_, rfl, ?_⟩
    rw [setPstat_eq 0, setPstat_eq 4]
    refine ⟨rfl, rfl, fun g hg => ?_⟩
    refine mem_allGroups_mapped (s := s1) (f := fun g => if s1.partGids.contains g.gid && g.phase = .suspended then { g with phase := .queued, queuedAt := s1.now } else g) rfl rfl hg ?_
    simp only [List.contains_iff_mem, Bool.and_eq_true, decide_eq_true_eq]
  case timeout =>
    refine happens_onPart_placed (f := haltTimesOut) rfl (fun s0 hpl ⟨hp, hh, hgids, hf, hres, hph, hgid, _⟩ => ?_)
    have hdrop : s0.dropAuditNow gid = s0 := by
      unfold State.dropAuditNow
      rw [hf]
      exact if_neg (by rw [hph]; decide)
    have hsusp : s0.suspendNow gid = s1.suspendGroup.coreChanged := by
      unfold State.suspendNow
      rw [hf]
      exact if_pos (by rw [hph, hres]; rfl)
    unfold haltTimesOut
    simp only [hgids, List.foldl_cons, List.foldl_nil, hdrop, focusPart_self hpl, hsusp]
    rw [whenDue_true (by simp [hp, hh])]
    obtain ⟨hm, hg, hphase, hsl, hplc, _, hsc, hpart, hparts⟩ := suspendGroup_facts s1 _ rfl
    generalize s1.suspendGroup.coreChanged = t at hm hg hphase hsl hplc hsc hpart hparts
    have hgrp : (t.focusPart s0.part.dev s0.part.pid).grp = t.grp := by simp
    have hmem : (t.focusPart s0.part.dev s0.part.pid).mem = t.mem := by simp
    have hst : (t.focusPart s0.part.dev s0.part.pid).part = s0.part := by
      have h1 : t.part? s0.part.dev s0.part.pid = s1.part? s0.part.dev s0.part.pid := by
        unfold State.part? State.allParts
        rw [hpart, hparts]
      rw [focusPart_part, h1, focusGroup_part? hf, part?_self]
    refine ⟨_, rfl, ?_⟩
    rw [hgrp, hmem, hst, hg]
    exact ⟨hm.trans (focusGroup_facts hf).1.mem, hp, hgid, hphase, hsl, hplc, hsc⟩
  case saves =>
    refine happens_onPart_placed (f := saveCompletes) rfl (fun s0 hpl ⟨ha, hp, hh, hpl'⟩ => ⟨s0.setPstat 2, ?_, ?_⟩)
    · unfold saveCompletes
      simp only []
      rw [if_pos hp, whenDue_true hh, foldl_fixed (fun g => saveQueued_unplaced hpl' g), focusPart_self hpl]
    · have hsig := setPstat_signalled hpl ha 2
      have he := setPstat_eq 2 s0
      rw [he] at hsig ⊢
      exact ⟨rfl, rfl, rfl, hsig⟩
  case saved =>
    refine happens_onPart_placed (f := saveCompletes) rfl (fun s0 hpl ⟨ha, hp⟩ => ⟨s0.setPstat 3, ?_, ?_⟩)
    · unfold saveCompletes
      simp only []
      rw [if_neg (by rw [hp]; decide), whenDue_true (by rw [hp]; rfl)]
    · have hsig := setPstat_signalled hpl ha 3
      have he := setPstat_eq 3 s0
      rw [he] at hsig ⊢
      exact ⟨rfl, rfl, rfl, hsig⟩
  case error =>
    refine happens_onPart_placed (f := fun s => some s.breakPart) rfl (fun s0 hpl _ => ⟨_, rfl, ?_⟩)
    have hr := report_reported s0.part.dev s0.part.pid 0x20 ⟨4, 0⟩ 0 s0
    refine ⟨hr.mem, hr.groups, rfl, fun ha => ?_⟩
    obtain ⟨pba, he⟩ := report_uncorrected hpl ha (code := 0x20) (by decide) ⟨4, 0⟩ 0
    exact ⟨congrArg Part.aerUnc he, congrArg Part.errors he⟩

end Sys2Proof.Claims
end

section
/-!
PROOFS. Steps end and views form or are abandoned (O44).
-/
namespace Sys2Proof.Claims
open Machine Bits Encoding

/-! ## Devices, wherever they are checked out -/

theorem dev?_checkoutDev (d d' : Nat) (s : State) : (s.checkoutDev d).dev? d' = s.dev? d' := by
  unfold State.checkoutDev
  split
  · rfl
  · next hd =>
    have hnum : ((s.devs.find? (fun c => c.num = d)).getD (s.idleDev d)).num = d := by
      cases h : s.devs.find? (fun c => c.num = d) with
      | none => rfl
      | some c => simpa using List.find?_some h
    by_cases h' : d = d'
    · subst h'
      simp [State.dev?, State.allDevs, hnum, hd]
    · have hf : (s.devs.filter (fun c => !decide (c.num = d))).find? (fun c => decide (c.num = d')) = s.devs.find? (fun c => decide (c.num = d')) :=
        find?_filter_of (fun x hx => by
          have hx' : x.num = d' := of_decide_eq_true hx
          simpa [hx'] using fun e => h' e.symm)
      simp only [State.dev?, State.allDevs, List.find?_cons, hnum, h', decide_false, hf]
      rfl

theorem dev?_focusPart (d p d' : Nat) (s : State) : (s.focusPart d p).dev? d' = s.dev? d' := by
  refine (dev?_checkoutDev ..).trans ?_
  unfold State.checkoutPart
  split <;> rfl

theorem dev?_updDev_other {f : Device → Device} (hf : ∀ v, (f v).num = v.num) {d d' : Nat} (h : d' ≠ d) (s : State) : (s.updDev d f).dev? d' = s.dev? d' := by
  unfold State.updDev
  split
  · next hd =>
    have h' : d ≠ d' := h.symm
    simp only [State.dev?, State.allDevs, List.find?_cons, hf, hd, h', decide_false]
    rfl
  · next hd =>
    have hn : (f (s.dev? d)).num ≠ d' := by rw [hf, dev?_num]; exact h.symm
    have hfil : (s.devs.filter (fun c => !decide (c.num = d))).find? (fun c => decide (c.num = d')) = s.devs.find? (fun c => decide (c.num = d')) :=
      find?_filter_of (fun x hx => by
        have hx' : x.num = d' := of_decide_eq_true hx
        simpa [hx'] using h)
    generalize f (s.dev? d) = v at hn
    simp only [State.dev?, State.allDevs, List.find?_cons, hn, decide_false, hfil]
    rfl

/-! ## Contexts, wherever their devices are checked out -/

/-- Every device holds the contexts it held. -/
structure SameSeqs (s t : State) : Prop where
  seqs : ∀ d, (t.dev? d).seqs = (s.dev? d).seqs

theorem sameSeqs_refl (s : State) : SameSeqs s s := ⟨fun _ => rfl⟩

theorem SameSeqs.trans {s t u : State} (h1 : SameSeqs s t) (h2 : SameSeqs t u) : SameSeqs s u := ⟨fun d => (h2.seqs d).trans (h1.seqs d)⟩

theorem SameSeqs.ctx? {s t : State} (h : SameSeqs s t) (id : Word) : t.ctx? id = s.ctx? id := by simp only [State.ctx?, h.seqs]

theorem dev?_seqs (s : State) (d : Nat) : (s.dev? d).seqs = ((s.allDevs.find? (fun c => c.num = d)).map Device.seqs).getD [] := by
  unfold State.dev?
  cases s.allDevs.find? (fun c => c.num = d) with
  | none => rfl
  | some c => rfl

theorem sameSeqs_of_devs {s t : State} (hdev : t.dev = s.dev) (hdevs : t.devs = s.devs) : SameSeqs s t := by
  refine ⟨fun d => ?_⟩
  rw [dev?_seqs, dev?_seqs, State.allDevs, State.allDevs, hdev, hdevs]

theorem sameSeqs_foldl {α : Type} {f : State → α → State} (h : ∀ s a, SameSeqs s (f s a)) (l : List α) (s : State) : SameSeqs s (l.foldl f s) := by
  induction l generalizing s with
  | nil => exact sameSeqs_refl s
  | cons a l ih => exact (h s a).trans (ih _)

theorem sameSeqs_updDev {f : Device → Device} (hf : ∀ v, (f v).num = v.num ∧ (f v).seqs = v.seqs) (d : Nat) (s : State) : SameSeqs s (s.updDev d f) := by
  refine ⟨fun d' => ?_⟩
  by_cases h : d' = d
  · rw [h, dev?_updDev d s (fun v => (hf v).1), (hf _).2]
  · rw [dev?_updDev_other (fun v => (hf v).1) h]

theorem sameSeqs_focusPart (d p : Nat) (s : State) : SameSeqs s (s.focusPart d p) := ⟨fun d' => congrArg Device.seqs (dev?_focusPart d p d' s)⟩

theorem sameSeqs_updPart (d p : Nat) (f : Part → Part) (s : State) : SameSeqs s (s.updPart d p f) := by
  unfold State.updPart
  split <;> exact sameSeqs_of_devs rfl rfl

theorem sameSeqs_dropPage (pid : Nat) (hs : List (Nat × SliceEntry)) (s : State) (pg : Nat × Nat) : SameSeqs s (State.dropPage pid hs s pg) := by
  simp only [State.dropPage]
  split
  · exact (sameSeqs_updDev (by exact fun _ => ⟨rfl, rfl⟩) _ _).trans (sameSeqs_foldl (fun s h => sameSeqs_updPart ..) _ _)
  · exact sameSeqs_updDev (by exact fun _ => ⟨rfl, rfl⟩) _ _

theorem sameSeqs_settle (pid : Nat) (vs : List View) (keep : Option View) (s : State) : SameSeqs s (s.settle pid vs keep) := by
  simp only [State.settle]
  exact (sameSeqs_foldl (fun s h => sameSeqs_updPart ..) _ _).trans (sameSeqs_foldl (fun s pg => sameSeqs_dropPage ..) _ _)

theorem sameSeqs_retryView (id : Word) (s : State) : SameSeqs s (s.retryView id) := sameSeqs_of_devs rfl rfl

/-- A context found has the id asked for, and that id names a home. -/
theorem ctx?_some {s : State} {id : Word} {q : SeqCtx} (h : s.ctx? id = some q) : q.id = id ∧ seqHome id = some (field id.toNat 25 16) := by
  unfold State.ctx? at h
  obtain ⟨d, hd, hq⟩ := Option.bind_eq_some_iff.mp h
  exact ⟨by simpa using List.find?_some hq, by rw [hd, seqHome_some hd]⟩

/-- A context whose update keeps its id is found as it was updated. -/
theorem ctx?_updSeq {s : State} {id : Word} {q : SeqCtx} (h : s.ctx? id = some q) {f : SeqCtx → SeqCtx} (hf : ∀ q, q.id = id → (f q).id = id) :
    (s.updSeq id f).ctx? id = some (f q) := by
  obtain ⟨hq, hhome⟩ := ctx?_some h
  unfold State.ctx? State.updSeq at *
  rw [hhome] at h ⊢
  simp only [Option.bind_some] at h ⊢
  have hkeeps : ((fun q => decide (q.id = id)) ∘ fun q => if q.id = id then f q else q) = fun q => decide (q.id = id) := by
    funext q
    by_cases hid : q.id = id
    · simp [hid, hf q hid]
    · simp [hid]
  rw [seqs_updDev, List.find?_map, hkeeps, h]
  simp [hq]

/-- An event of a context takes effect where it is due. -/
theorem onSeq_due {i : Instr} {id : Word} {f : SeqCtx → State → Option State} {s0 t : State} {q : SeqCtx} (hi : exec i s0 = s0.onSeq id f) (hq : s0.ctx? id = some q)
    (h : f q (s0.focusPart (field id.toNat 25 16) q.pid) = some t) : exec i s0 = .next t := by
  rw [hi, State.onSeq, hq, Option.bind_some, h, Option.getD_some]

/-- Abandoning a view gives its references up and ends it and the succession. -/
theorem abandon_facts {s : State} {q : SeqCtx} {seq : Word} (h : s.ctx? seq = some q) (num : Word) : (s.abandon q num).mem = s.mem ∧ (s.abandon q num).groups = s.groups
    ∧ (s.abandon q num).launches = s.launches
    ∧ (s.abandon q num).ctx? seq = some { q with succ := 0, views := q.views.map (fun x => if x.num = num then { x with state := .abandoned, slices := [] } else x) } := by
  have hid := (ctx?_some h).1
  have hstores := onlyStores_settle q.pid (q.views.filter (fun v => v.num = num)) q.cur s
  have hctx : (s.settle q.pid (q.views.filter (fun v => v.num = num)) q.cur).ctx? seq = some q := ((sameSeqs_settle ..).ctx? seq).trans h
  unfold State.abandon
  generalize s.settle q.pid (q.views.filter (fun v => v.num = num)) q.cur = s1 at hstores hctx
  have hu := ctx?_updSeq hctx (f := fun q => { q.updView num (fun v => { v with state := ViewState.abandoned, slices := [] }) with succ := 0 }) (fun _ h => h)
  refine ⟨?mem, ?groups, ?launches, ?ctx⟩
  case mem => exact (updSeq_mem ..).trans (congrArg State.mem (show s1 = _ from hstores) :)
  case groups => exact (congrArg State.groups (updSeq_eq ..)).trans (congrArg State.groups (show s1 = _ from hstores) :)
  case launches => exact (congrArg State.launches (updSeq_eq ..)).trans (congrArg State.launches (show s1 = _ from hstores) :)
  case ctx =>
    subst hid
    rw [(sameSeqs_retryView ..).ctx?]
    exact hu

/-! ## Steps (R265, R266) -/

/-- The words of whole four-byte groups give the bytes back. -/
theorem wordsOf_bytes (n : Nat) (bs : List Byte) (h : bs.length = 4 * n) : (wordsOf bs).flatMap (fun w => toBytes 4 w.toNat) = bs := by
  induction n generalizing bs with
  | zero => simp [wordsOf, List.length_eq_zero_iff.mp h]
  | succ n ih =>
    have hfour : (bs.take 4).length = 4 := by rw [List.length_take]; omega
    have hlt : ofBytes (bs.take 4) < 2 ^ 32 := by simpa [hfour] using ofBytes_lt (bs.take 4)
    have hfirst : toBytes 4 (wordAt bs 0).toNat = bs.take 4 := by
      rw [wordAt, List.drop_zero, BitVec.toNat_ofNat, Nat.mod_eq_of_lt hlt]
      have hback := toBytes_ofBytes (bs.take 4)
      rwa [hfour] at hback
    have hrest : (List.range n).map (fun i => wordAt bs (4 * (i + 1))) = wordsOf (bs.drop 4) := by
      have hlen : (bs.drop 4).length / 4 = n := by rw [List.length_drop]; omega
      simp only [wordsOf, hlen, wordAt, List.drop_drop, Nat.mul_add, Nat.add_comm, Nat.mul_one]
    have hdiv : bs.length / 4 = n + 1 := by omega
    rw [wordsOf, hdiv, List.range_succ_eq_map, List.map_cons, List.map_map, List.flatMap_cons]
    simp only [Function.comp_def, Nat.succ_eq_add_one, Nat.mul_zero]
    rw [hrest, ih _ (by rw [List.length_drop]; omega), hfirst, List.take_append_drop]

theorem wordsOf_drop (k : Nat) (bs : List Byte) : (wordsOf bs).drop k = wordsOf (bs.drop (4 * k)) := by
  have hlen : bs.length / 4 - k = (bs.length - 4 * k) / 4 := by omega
  refine List.ext_getElem (by simp [wordsOf, hlen]) (fun i h1 h2 => ?_)
  simp [wordsOf, wordAt, List.drop_drop, Nat.mul_add]

/-- What a step end leaves of a context whose step is over. -/
def stepOver (lid : Nat) (q : SeqCtx) : SeqCtx := { (q.dropStep lid).resetLent with policyDue := decide (q.succ = 0) }

theorem stepEnds_failed {lid : Nat} {q : SeqCtx} {s : State} {st : Step} (hst : q.step? lid = some st) (hp : s.allParted lid q.id = true) (hf : st.failed = true) :
    stepEnds lid q s = some (s.updSeq q.id (stepOver lid)) := by
  simp only [stepEnds, hst, hp, hf, Bool.not_true, Bool.false_eq_true, if_false, if_true]
  rfl

/-- A commit that fills no block and no leaf of 32 ids only lengthens the record's tail. -/
def lengthened (ids : List Byte) (q : SeqCtx) (st : Step) (v : View) : SeqCtx :=
  { q.updView st.view (fun _ => v) with lenc := q.lenc + st.commits.length, tokens := q.tokens, tailIds := (wordsOf ids).drop ((q.lenc + st.commits.length) / 32 * 32) }

/-- What is committed by a step that fills neither a block nor a leaf. -/
theorem applyCommits_within {q : SeqCtx} {st : Step} {s : State} {v : View} (hv : q.view? st.view = some v) (hr : st.rebuild = none)
    (hlen : (s.seqIds q).length = 4 * q.lenc) (hblock : (q.lenc + st.commits.length) / (s.seqCls q).block = q.lenc / (s.seqCls q).block)
    (hleaf : (q.lenc + st.commits.length) / 32 = q.lenc / 32) :
    s.applyCommits q st = .ok (lengthened (s.seqIds q ++ st.commits.flatMap (fun w => toBytes 4 w.toNat)) q st v, s) := by
  have hids : (s.seqIds q ++ st.commits.flatMap (fun w => toBytes 4 w.toNat)).length = 4 * (q.lenc + st.commits.length) := by
    simp [hlen, Nat.mul_add, Nat.mul_comm]
  have hrec : s.newRecord q (s.seqIds q ++ st.commits.flatMap (fun w => toBytes 4 w.toNat)) = .ok (q.tokens, s) := by
    unfold State.newRecord
    rw [hids]
    exact if_pos (by omega)
  have hfull : (List.range ((q.lenc + st.commits.length) / (s.seqCls q).block - q.lenc / (s.seqCls q).block)).map (fun i => q.lenc / (s.seqCls q).block + i) = [] := by
    rw [hblock, Nat.sub_self]; rfl
  simp only [State.applyCommits, hv, hrec, hr, hfull, List.filter_nil, List.append_nil, sealBlocks, lengthened]
  simp

/-- The ids of the lengthened record are the old ones and the committed ones. -/
theorem seqIds_lengthened {q : SeqCtx} {s : State} (hlen : (s.seqIds q).length = 4 * q.lenc) (htail : q.tailIds.length = q.lenc % 32) (lid : Nat) (st : Step) (v : View)
    (hleaf : (q.lenc + st.commits.length) / 32 = q.lenc / 32) :
    s.seqIds (stepOver lid (lengthened (s.seqIds q ++ st.commits.flatMap (fun w => toBytes 4 w.toNat)) q st v))
      = s.seqIds q ++ st.commits.flatMap (fun w => toBytes 4 w.toNat) := by
  have hnew : (st.commits.flatMap (fun w => toBytes 4 w.toNat)).length = 4 * st.commits.length := by simp [Nat.mul_comm]
  have hold : s.seqIds q = ((s.part? (field q.id.toNat 25 16) q.pid).treeBytes 9 q.tokens).take (4 * (q.lenc / 32 * 32)) ++ q.tailIds.flatMap (fun w => toBytes 4 w.toNat) := rfl
  have htailBytes : (q.tailIds.flatMap (fun w => toBytes 4 w.toNat)).length = 4 * (q.lenc % 32) := by simp [htail, Nat.mul_comm]
  have hgoal : s.seqIds (stepOver lid (lengthened (s.seqIds q ++ st.commits.flatMap (fun w => toBytes 4 w.toNat)) q st v))
      = ((s.part? (field q.id.toNat 25 16) q.pid).treeBytes 9 q.tokens).take (4 * (q.lenc / 32 * 32))
        ++ (wordsOf ((s.seqIds q ++ st.commits.flatMap (fun w => toBytes 4 w.toNat)).drop (4 * (q.lenc / 32 * 32)))).flatMap (fun w => toBytes 4 w.toNat) := by
    rw [← wordsOf_drop, ← hleaf]
    rfl
  rw [hgoal]
  generalize ((s.part? (field q.id.toNat 25 16) q.pid).treeBytes 9 q.tokens).take (4 * (q.lenc / 32 * 32)) = head at hold ⊢
  rw [hold, List.length_append, htailBytes] at hlen
  have hhead : head.length = 4 * (q.lenc / 32 * 32) := by omega
  rw [hold, List.append_assoc, ← hhead, List.drop_left]
  rw [wordsOf_bytes (q.lenc % 32 + st.commits.length) _ (by rw [List.length_append, htailBytes, hnew]; omega)]

/-! ## Views form and are acknowledged (R263 to R265) -/

/-- What the views of a context become at an acknowledgement. -/
theorem viewAcks_due {q : SeqCtx} {s : State} {num : Word} {v : View} {member : Nat} (hv : q.view? num = some v) (hst : v.state = .pending) (hm : member ∈ v.members)
    (hack : member ∉ v.acks) (hup : (s.dev? member).answers = true) (hok : (s.dev? member).faulted = false) :
    viewAcks num member q s = some (s.updSeq q.id (fun q => q.updView num (fun x =>
      if v.members.all (fun m => (v.acks ++ [member]).contains m) then { x with acks := v.acks ++ [member], state := .transferring, snapshot := q.lenc }
      else { x with acks := v.acks ++ [member] }))) := by
  simp only [viewAcks, hv]
  exact if_pos (by simp [hst, hm, hack, hup, hok])

/-- The view that the width policy asks for is formed where the fabric list fills it. -/
theorem viewPrepares_forms {q : SeqCtx} {s : State} {v : View} {w tw tn : Nat} (hpol : q.policyDue = true) (hsucc : q.succ = 0) (hcur : q.cur = some v)
    (hst : v.state = .current) (hask : q.policy v.members.length (s.seqCls q).maxWidth = some (w, tw, tn))
    (hms : w ≤ (widthMembers v.members s.part.fabricList w).length) :
    viewPrepares w q s = some (s.updSeq q.id (fun q => { q.form (widthMembers v.members s.part.fabricList w) false [] s.now with tw := tw, tn := tn })) := by
  simp only [viewPrepares, hcur, hpol, hsucc, hst, hask, Nat.not_lt.mpr hms, whenDue, decide_true, Bool.true_or, Bool.and_true, Bool.not_true, Bool.false_eq_true, if_false, if_true]

/-- Settles O44: each event changes the context as its condition says, and abandoning a view gives its references up. -/
theorem stepAndViewEvents : Obligations.StepAndViewEvents := by
  unfold Obligations.StepAndViewEvents
  intro seq num lid width member q s0 hq
  have hid := (ctx?_some hq).1
  have hctx : (s0.focusPart (field seq.toNat 25 16) q.pid).ctx? seq = some q := ((sameSeqs_focusPart ..).ctx? seq).trans hq
  have hdue := fun {i : Instr} {f : SeqCtx → State → Option State} {t : State} (hi : exec i s0 = s0.onSeq seq f) => onSeq_due (t := t) hi hq
  have hsm : (s0.focusPart (field seq.toNat 25 16) q.pid).mem = s0.mem := State.focusPart_mem ..
  subst hid
  generalize s0.focusPart (field q.id.toNat 25 16) q.pid = s at hctx hdue hsm
  refine ⟨fun st hst hp => ⟨fun hf => ?stepFailed, fun ⟨hf, hr, hv, hlen, htail, hblock, hleaf⟩ => ?stepEnds⟩, fun v hpol hsucc hcur hst => ⟨?widen, ?narrow, ?keep⟩,
    fun v hv => ⟨fun hst hm hack hup hok => ⟨fun hall => ?last, fun hsome => ?more⟩, fun ⟨hst, hsent⟩ => ?timeout, fun ⟨hst, hm⟩ => ?refused⟩⟩
  case stepFailed => exact ⟨_, hdue (f := stepEnds lid) rfl (stepEnds_failed hst hp hf), rfl⟩
  case stepEnds =>
    obtain ⟨v, hv⟩ := Option.isSome_iff_exists.mp hv
    refine ⟨_, hdue (f := stepEnds lid) (t := s.updSeq q.id (fun _ => stepOver lid (lengthened (s.seqIds q ++ st.commits.flatMap (fun w => toBytes 4 w.toNat)) q st v))) rfl ?_, ?_⟩
    · simp only [stepEnds, hst, hp, hf, applyCommits_within hv hr hlen hblock hleaf, Bool.not_true, Bool.false_eq_true, if_false]
      rfl
    · exact ⟨updSeq_mem .., _, ctx?_updSeq hctx (fun _ _ => rfl), rfl, rfl, rfl, rfl, seqIds_lengthened hlen htail lid st v hleaf⟩
  case widen =>
    rintro ⟨hwide, hw, hms⟩
    refine ⟨_, hdue (f := viewPrepares width) rfl ?_, rfl⟩
    subst hw
    exact viewPrepares_forms hpol hsucc hcur hst (if_pos hwide) hms
  case narrow =>
    rintro ⟨hwide, hnarrow, hw, hms⟩
    refine ⟨_, hdue (f := viewPrepares width) rfl ?_, rfl⟩
    subst hw
    exact viewPrepares_forms hpol hsucc hcur hst ((if_neg hwide).trans (if_pos hnarrow)) hms
  case keep =>
    rintro ⟨hwide, hnarrow⟩
    refine ⟨_, hdue (f := viewPrepares width) rfl ?_, rfl⟩
    have hpolicy : q.policy v.members.length (s.seqCls q).maxWidth = none := (if_neg hwide).trans (if_neg hnarrow)
    simp [viewPrepares, hcur, hpol, hsucc, hst, hpolicy]
  case last =>
    refine ⟨_, hdue (f := viewAcks num member) rfl (viewAcks_due hv hst hm hack hup hok), ?_⟩
    have h : v.members.all (fun m => (v.acks ++ [member]).contains m) = true := by simpa [List.all_eq_true] using hall
    simp only [h, if_true]
    rfl
  case more =>
    refine ⟨_, hdue (f := viewAcks num member) rfl (viewAcks_due hv hst hm hack hup hok), ?_⟩
    have h : v.members.all (fun m => (v.acks ++ [member]).contains m) = false := by simpa [List.all_eq_false] using hsome
    simp only [h, Bool.false_eq_true, if_false]
    rfl
  case timeout =>
    refine ⟨_, hdue (f := viewTimesOut num) rfl ?_, abandon_facts hctx num⟩
    simp only [viewTimesOut, hv]
    exact if_pos (by simp [hst, hsent])
  case refused =>
    have h0 : prepareRefused 0 q.id num member s0 = some (s0.abandon q num) := by
      simp only [prepareRefused, ne_eq, not_true, if_false, hq, hv]
      exact if_pos (by simpa using ⟨hst, hm⟩)
    obtain ⟨hmem, -, -, hc⟩ := abandon_facts hq num
    exact ⟨_, by rw [show exec (.prepareRefusal 0 q.id num member) s0 = .next ((prepareRefused 0 q.id num member s0).getD s0) from rfl, h0, Option.getD_some], hmem.trans hsm.symm, hc⟩

end Sys2Proof.Claims
end

section
/-!
PROOFS. Views change, and a gang launch aborts (O45).
-/
namespace Sys2Proof.Claims
open Machine Bits Encoding

/-! ## Content moves keep the contexts -/

theorem sameSeqs_choose (n : Nat) (s : State) : SameSeqs s (s.choose n).2 := by
  unfold State.choose
  split <;> exact sameSeqs_of_devs rfl rfl

theorem sameSeqs_forgetLine (d k : Nat) (s : State) : SameSeqs s (s.forgetLine d k) := sameSeqs_of_devs rfl rfl

theorem sameSeqs_cloa {r : Nat} {interior : Bool} {bs : List Byte} {s t : State} {n : DWord} (h : s.cloa r interior bs = .ok (n, t)) : SameSeqs s t := by
  have hc := sameSeqs_choose (s.part.region r).lines.toNat s
  unfold State.cloa at h
  simp only at h
  split at h
  · cases h
  · split at h
    · cases h
    · split at h
      · cases h; exact sameSeqs_of_devs rfl rfl
      · split at h
        · cases h
        · split at h
          · cases h
          · split at h
            · cases h
            · cases h
              refine hc.trans (SameSeqs.trans ?_ (sameSeqs_forgetLine ..))
              exact sameSeqs_of_devs rfl rfl

theorem sameSeqs_within {α : Type} {d p : Nat} {f : State → Except Stop (α × State)} (hf : ∀ {s t : State} {a : α}, f s = .ok (a, t) → SameSeqs s t)
    {s t : State} {a : α} (h : s.within d p f = .ok (a, t)) : SameSeqs s t := by
  unfold State.within at h
  split at h
  · cases h
  · next s1 hs1 =>
    cases h
    exact ((sameSeqs_focusPart ..).trans (hf hs1)).trans (sameSeqs_focusPart ..)

theorem sameSeqs_dropAll (names : List DWord) (s : State) : SameSeqs s (s.dropAll names) := sameSeqs_of_devs rfl rfl

/-- A received line keeps the contexts if its children do. -/
theorem sameSeqs_recvLine_of {src : Part} {r n : Nat} (hc : ∀ {cs : List DWord} {s t : State} {xs : List DWord}, recvLines src r n cs s = .ok (xs, t) → SameSeqs s t)
    {name : DWord} {s t : State} {x : DWord} (h : recvLine src r (n + 1) name s = .ok (x, t)) : SameSeqs s t := by
  unfold recvLine at h
  split at h
  · cases h; exact sameSeqs_refl s
  · split at h
    · exact sameSeqs_cloa h
    · split at h
      · cases h
      · next hr =>
        simp only at h
        split at h
        · cases h
        · next hcl =>
          cases h
          exact ((hc hr).trans (sameSeqs_cloa hcl)).trans (sameSeqs_dropAll ..)

theorem sameSeqs_recvLines_of {src : Part} {r n : Nat} (hl : ∀ {name : DWord} {s t : State} {x : DWord}, recvLine src r n name s = .ok (x, t) → SameSeqs s t)
    {cs : List DWord} {s t : State} {xs : List DWord} (h : recvLines src r n cs s = .ok (xs, t)) : SameSeqs s t := by
  induction cs generalizing s t xs with
  | nil => unfold recvLines at h; cases h; exact sameSeqs_refl _
  | cons c cs ih =>
    unfold recvLines at h
    split at h
    · cases h
    · next hc =>
      split at h
      · cases h
      · next hcs =>
        cases h
        exact (hl hc).trans (ih hcs)

theorem sameSeqs_recvLine {src : Part} {r n : Nat} {name : DWord} {s t : State} {x : DWord} (h : recvLine src r n name s = .ok (x, t)) : SameSeqs s t := by
  induction n generalizing name s t x with
  | zero => unfold recvLine at h; cases h; exact sameSeqs_refl s
  | succ n ih => exact sameSeqs_recvLine_of (sameSeqs_recvLines_of ih) h

theorem sameSeqs_sendTree {a b pid r : Nat} {root : DWord} {s t : State} {x : DWord} (h : s.sendTree a b pid r root = .ok (x, t)) : SameSeqs s t :=
  sameSeqs_within sameSeqs_recvLine h

/-- Placing a block changes what the view holds, not its place among the views. -/
theorem placeBlock_facts {q : SeqCtx} {ids : List Byte} {blk : Nat} {v v1 : View} {s s1 : State} (h : s.placeBlock q ids blk v = .ok (v1, s1)) :
    SameSeqs s s1 ∧ v1.survivor = v.survivor := by
  unfold State.placeBlock at h
  simp only at h
  split at h
  · cases h; exact ⟨sameSeqs_refl s, rfl⟩
  · split at h
    · split at h
      · cases h; exact ⟨sameSeqs_refl s, rfl⟩
      · cases h; exact ⟨sameSeqs_updPart .., rfl⟩
    · cases h; exact ⟨sameSeqs_refl s, rfl⟩
    · split at h
      · cases h
      · next hs => cases h; exact ⟨sameSeqs_sendTree hs, rfl⟩

theorem placeBlocks_facts {q : SeqCtx} {ids : List Byte} {bs : List Nat} {v v1 : View} {s s1 : State} (h : placeBlocks q ids bs v s = .ok (v1, s1)) :
    SameSeqs s s1 ∧ v1.survivor = v.survivor := by
  induction bs generalizing v s with
  | nil => cases h; exact ⟨sameSeqs_refl _, rfl⟩
  | cons b bs ih =>
    unfold placeBlocks at h
    split at h
    · cases h
    · next hb =>
      obtain ⟨hs, hv⟩ := placeBlock_facts hb
      obtain ⟨hs', hv'⟩ := ih h
      exact ⟨hs.trans hs', hv'.trans hv⟩

theorem sameSeqs_moveTails (q : SeqCtx) (v : View) (s : State) : SameSeqs s (s.moveTails q v) := by
  unfold State.moveTails
  refine sameSeqs_foldl (fun s b => ?_) _ _
  split
  · split
    · exact sameSeqs_refl s
    · unfold State.copyTail
      split <;> exact sameSeqs_of_devs rfl rfl
  · exact sameSeqs_refl s

/-! ## The successor becomes Current (R269) -/

/-- Whether a view has ended, by failing or by retiring. -/
def View.gone (w : View) : Bool := w.state = ViewState.failed || w.state = ViewState.retired

/-- Whether the successor view may be Current. -/
def succReady (c : SeqCtx) (v : View) : Bool :=
  v.state = ViewState.transferring && v.transferred && v.caughtUp && v.lost.isEmpty && v.run.isNone && (match c.view? v.pred with | some w => View.gone w | none => true)

theorem promoteSeq_waits {s : State} {id : Word} {c : SeqCtx} {v : View} (hc : s.ctx? id = some c) (hn : c.next = some v) (hr : succReady c v = false) :
    s.promoteSeq id = s := by
  unfold State.promoteSeq
  rw [hc]
  simp only [hn]
  exact if_pos (show (!succReady c v) = true by rw [hr]; rfl)

/-- The views once the successor is Current: those that have ended hold nothing. -/
def promoted (v : View) (c : SeqCtx) : SeqCtx :=
  { c with views := c.views.map (fun w => if w.num = v.num then { w with state := ViewState.current } else if View.gone w then { w with slices := [] } else w), view := v.num, succ := 0 }

theorem promoteSeq_promotes {s : State} {id : Word} {c : SeqCtx} {v : View} (hc : s.ctx? id = some c) (hn : c.next = some v) (hr : succReady c v = true) :
    (s.promoteSeq id).mem = s.mem ∧ (s.promoteSeq id).ctx? id = some (promoted v c) := by
  have he : s.promoteSeq id = ((s.settle c.pid (c.views.filter View.gone) (some v)).updSeq id (promoted v)).retryView id := by
    unfold State.promoteSeq
    rw [hc]
    simp only [hn]
    exact if_neg (show ¬(!succReady c v) = true by rw [hr]; exact Bool.false_ne_true)
  rw [he]
  refine ⟨(updSeq_mem ..).trans (settle_mem ..), ?_⟩
  rw [(sameSeqs_retryView ..).ctx?]
  exact ctx?_updSeq (((sameSeqs_settle ..).ctx? id).trans hc) (fun _ h => h)

theorem tailLost_kept {v : View} (h : v.survivor = false) (s : State) (q : SeqCtx) : s.tailLost q v = v := by
  simp [State.tailLost, h]

/-- The view of a number has that number. -/
theorem view?_num {q : SeqCtx} {n : Word} {v : View} (h : q.view? n = some v) : v.num = n ∧ v ∈ q.views :=
  ⟨by simpa using List.find?_some h, List.mem_of_find?_eq_some h⟩

/-- A view of another number than the one updated is found as before. -/
theorem view?_updView_other {q : SeqCtx} {n m : Word} {f : View → View} (hf : ∀ x, x.num = n → (f x).num = n) (h : m ≠ n) : (q.updView n f).view? m = q.view? m := by
  unfold SeqCtx.view? SeqCtx.updView
  induction q.views with
  | nil => rfl
  | cons x xs ih =>
    by_cases hx : x.num = n
    · have hx' : x.num ≠ m := fun e => h (e ▸ hx)
      have hfx : (f x).num ≠ m := by rw [hf x hx]; exact fun e => h e.symm
      simpa [hx, hfx, h.symm] using ih
    · by_cases hm : x.num = m
      · have hmn : m ≠ n := h
        simp [hm, hmn]
      · simpa [hx, hm] using ih

theorem view?_updView_same {q : SeqCtx} {n : Word} {v : View} {f : View → View} (hf : ∀ x, x.num = n → (f x).num = n) (h : q.view? n = some v) :
    (q.updView n f).view? n = some (f v) := by
  unfold SeqCtx.view? SeqCtx.updView at *
  have hkeeps : ((fun x => decide (x.num = n)) ∘ fun x => if x.num = n then f x else x) = fun x => decide (x.num = n) := by
    funext x
    by_cases hx : x.num = n <;> simp [hx, hf]
  rw [List.find?_map, hkeeps, h]
  have hv : v.num = n := by simpa using List.find?_some h
  simp [hv]

/-- A Current view that a transfer makes Draining. -/
def drained (n : Word) (y : View) : View := if y.num = n && y.state = ViewState.current then { y with state := .draining } else y

/-- What a context is once its snapshot has come: `v1` stands as the view `num`, and the predecessor drains. -/
def snapshotted (num pred : Word) (v1 : View) (q : SeqCtx) : SeqCtx :=
  { q.updView num (fun _ => { v1 with transferred := true }) with views := (q.updView num (fun _ => { v1 with transferred := true })).views.map (drained pred) }

theorem snapshotDone_rest {q : SeqCtx} {num : Word} {v v1 : View} {s s1 : State} (hv : q.view? num = some v)
    (hd : v.state = .transferring ∧ v.transferred = false ∧ q.succ = num ∧ v.survivor = false ∧ (List.range (v.snapshot / (s.seqCls q).block)).all (s.reachesBlock q v) = true)
    (hpl : placeBlocks q (s.seqIds q) (List.range (v.snapshot / (s.seqCls q).block)) v s = .ok (v1, s1)) :
    snapshotDone num none q s = some ((s1.updSeq q.id (snapshotted num v.pred v1)).retryView q.id) := by
  obtain ⟨hst, htr, hsucc, hsurv, hreach⟩ := hd
  have hkept := tailLost_kept ((placeBlocks_facts hpl).2.trans hsurv) s1 q
  simp only [snapshotDone, hv, hst, htr, hsucc, hreach, hpl, hkept, decide_true, Bool.not_false, Bool.and_true, Bool.not_true, Bool.false_eq_true, if_false, Option.isSome_none]
  rfl

theorem snapshotDone_block {q : SeqCtx} {num : Word} {blk : Nat} {v v1 : View} {s s1 : State} (hv : q.view? num = some v)
    (hd : v.state = .transferring ∧ v.transferred = false ∧ q.succ = num ∧ blk < v.snapshot / (s.seqCls q).block ∧ s.reachesBlock q v blk = true)
    (hpl : s.placeBlock q (s.seqIds q) blk v = .ok (v1, s1)) :
    snapshotDone num (some blk) q s = some (s1.updSeq q.id (fun q => q.updView num (fun _ => v1))) := by
  obtain ⟨hst, htr, hsucc, hblk, hreach⟩ := hd
  have hpls : placeBlocks q (s.seqIds q) [blk] v s = .ok (v1, s1) := by simp only [placeBlocks, hpl]
  simp only [snapshotDone, hv, hst, htr, hsucc, hblk, if_true, List.all_cons, List.all_nil, hreach, hpls]
  simp

/-- The catch-up of a view whose snapshot holds every full block moves the tail bytes alone. -/
theorem catchesUp_tails {q : SeqCtx} {num : Word} {v old : View} {s : State} (hv : q.view? num = some v) (hcur : q.cur = some old)
    (hd : v.state = .transferring ∧ v.transferred = true ∧ v.caughtUp = false ∧ q.succ = num ∧ old.state = .draining ∧ q.openOn old.num = 0)
    (hb : q.lenc / (s.seqCls q).block ≤ v.snapshot / (s.seqCls q).block) (hans : ∀ m ∈ v.members, (s.dev? m).answers = true) :
    catchesUp num q s = some (((s.moveTails q v).updSeq q.id (fun q => q.updView num (fun _ => { v with caughtUp := true }))).promoteSeq q.id) := by
  obtain ⟨hst, htr, hcu, hsucc, hold, hopen⟩ := hd
  have hnone : (List.range (q.lenc / (s.seqCls q).block)).filter (fun i => decide (v.snapshot / (s.seqCls q).block ≤ i)) = [] := by
    rw [List.filter_eq_nil_iff]
    intro i hi
    have := List.mem_range.mp hi
    simpa using by omega
  have hall : v.members.all (fun m => (s.dev? m).answers) = true := by simpa [List.all_eq_true] using hans
  simp only [catchesUp, hv, hcur, hst, htr, hcu, hsucc, hold, hopen, hnone, hall, placeBlocks]
  simp

theorem viewRetires_due {q : SeqCtx} {num : Word} {v w : View} {s : State} (hv : q.view? num = some v) (hw : q.next = some w)
    (hd : v.state = .draining ∧ q.openOn num = 0 ∧ w.caughtUp = true) :
    viewRetires num q s = some ((s.updSeq q.id (fun q => q.updView num (fun v => { v with state := ViewState.retired }))).promoteSeq q.id) := by
  obtain ⟨hst, hopen, hcu⟩ := hd
  simp [viewRetires, hv, hw, hst, hopen, hcu, whenDue]

/-- The successor of a context: a view under a number that is not 0. -/
theorem next_view? {q : SeqCtx} {w : View} (h : q.next = some w) : q.succ ≠ 0 ∧ q.view? q.succ = some w := by
  unfold SeqCtx.next at h
  split at h
  · cases h
  · next h0 => exact ⟨h0, h⟩

theorem next_of_view? {q : SeqCtx} {w : View} (h0 : q.succ ≠ 0) (h : q.view? q.succ = some w) : q.next = some w := (if_neg h0).trans h

theorem focusPart_allLaunches (d p : Nat) (s : State) : (s.focusPart d p).allLaunches = s.allLaunches := by
  unfold State.focusPart State.checkoutPart State.checkoutDev
  split <;> split <;> rfl

/-- A successor of another number than the view updated stays the successor. -/
theorem next_updView {q : SeqCtx} {n : Word} {w : View} {f : View → View} (hf : ∀ x, x.num = n → (f x).num = n) (hw : q.next = some w) (hne : w.num ≠ n) :
    (q.updView n f).next = some w := by
  obtain ⟨h0, hv⟩ := next_view? hw
  have hsucc : q.succ ≠ n := fun e => hne ((view?_num hv).1.trans e)
  exact next_of_view? h0 ((view?_updView_other hf hsucc).trans hv)

/-- Settles O45: refused prepares abort, transfers place their blocks, and a retired view makes way for its successor. -/
theorem viewChangeEvents : Obligations.ViewChangeEvents := by
  unfold Obligations.ViewChangeEvents
  intro seq num lid dev s0
  refine ⟨fun l h0 hl hst hsent hdev => ?aborts, fun q v hq hv => ?views⟩
  case aborts =>
    have hl' : (s0.focusPart l.dev l.pid).allLaunches = s0.allLaunches := focusPart_allLaunches ..
    generalize hs : s0.focusPart l.dev l.pid = s at hdev hl'
    have hmem : (if l.gang then (s.viewMembers l.seqId l.view).contains dev else (s.fabricDevs l).contains dev) = true := by
      rcases hdev with ⟨hg, hm⟩ | ⟨hg, hm⟩
      · simpa [hg] using hm
      · simpa [hg] using hm
    have h : prepareRefused lid seq num dev s0 = some (s.updLaunch lid (fun l => l.finish 3)) := by
      simp only [prepareRefused, if_pos h0, hl, hs]
      exact if_pos (by rw [hmem, hst, hsent]; rfl)
    refine ⟨s.updLaunch lid (fun l => l.finish 3), ?_, rfl, rfl, ?_⟩
    · rw [show exec (.prepareRefusal lid seq num dev) s0 = .next ((prepareRefused lid seq num dev s0).getD s0) from rfl, h, Option.getD_some]
    · have hin : l ∈ s.allLaunches := by rw [hl']; exact List.mem_of_find?_eq_some hl
      have hlid : l.lid = lid := by simpa using List.find?_some hl
      have hout := List.mem_map_of_mem (f := fun l : Launch => if l.lid = lid then l.finish 3 else l) hin
      rwa [if_pos hlid] at hout
  case views =>
    have hid := (ctx?_some hq).1
    have hctx : (s0.focusPart (field seq.toNat 25 16) q.pid).ctx? seq = some q := ((sameSeqs_focusPart ..).ctx? seq).trans hq
    have hdue := fun {i : Instr} {f : SeqCtx → State → Option State} {t : State} (hi : exec i s0 = s0.onSeq seq f) => onSeq_due (t := t) hi hq
    obtain ⟨hnum, hmem⟩ := view?_num hv
    subst hid
    generalize s0.focusPart (field q.id.toNat 25 16) q.pid = s at hctx hdue
    refine ⟨fun v1 s1 hpl hd => ⟨_, hdue (f := snapshotDone num none) rfl (snapshotDone_rest hv hd hpl), updSeq_mem .., ?rest⟩,
      fun blk v1 s1 hpl hd => ⟨_, hdue (f := snapshotDone num (some blk)) rfl (snapshotDone_block hv hd hpl), updSeq_mem .., ?block⟩,
      fun old hcur ⟨hst, htr, hcu, hsucc, hn0, hpred, hold, hopen, hb, hans⟩ =>
        ⟨_, hdue (f := catchesUp num) rfl (catchesUp_tails hv hcur ⟨hst, htr, hcu, hsucc, hold, hopen⟩ hb hans), ?catchUp⟩,
      fun w hw ⟨hst, hopen, hcu, hpred, hne, hlost⟩ => ⟨_, hdue (f := viewRetires num) rfl (viewRetires_due hv hw ⟨hst, hopen, hcu⟩), ?retireLost⟩,
      fun w hw ⟨hst, hopen, hcu, hpred, hne, hwst, hwtr, hlost, hrun⟩ => ⟨_, hdue (f := viewRetires num) rfl (viewRetires_due hv hw ⟨hst, hopen, hcu⟩), ?retire⟩⟩
    case rest =>
      obtain ⟨hsame, -⟩ := placeBlocks_facts hpl
      refine ((sameSeqs_retryView ..).ctx? _).trans ((ctx?_updSeq ((hsame.ctx? q.id).trans hctx) (f := snapshotted num v.pred v1) (fun _ h => h)).trans ?_)
      simp [snapshotted, SeqCtx.updView, drained, Function.comp_def]
    case block => exact ctx?_updSeq (((placeBlock_facts hpl).1.ctx? q.id).trans hctx) (fun _ h => h)
    case catchUp =>
      have hc := ctx?_updSeq (((sameSeqs_moveTails q v s).ctx? q.id).trans hctx) (f := fun q => q.updView num (fun _ => { v with caughtUp := true })) (fun _ h => h)
      have hne : old.num ≠ num := fun e => by
        have hcv : q.view? num = some old := by rw [← e, (view?_num hcur).1]; exact hcur
        have hov : old = v := Option.some.inj (hcv.symm.trans hv)
        rw [hov, hst] at hold
        cases hold
      have hsame : (q.updView num (fun _ => { v with caughtUp := true })).view? num = some { v with caughtUp := true } := view?_updView_same (fun _ _ => hnum) hv
      have hpredView : (q.updView num (fun _ => { v with caughtUp := true })).view? v.pred = some old := by
        refine (view?_updView_other (f := fun _ => { v with caughtUp := true }) (fun _ _ => hnum) (hpred ▸ hne)).trans ?_
        rw [hpred, (view?_num hcur).1]
        exact hcur
      have hnext : (q.updView num (fun _ => { v with caughtUp := true })).next = some { v with caughtUp := true } :=
        next_of_view? (hsucc ▸ hn0) (by rw [show (q.updView num (fun _ => { v with caughtUp := true })).succ = num from hsucc]; exact hsame)
      rw [promoteSeq_waits hc hnext (by simp [succReady, hpredView, View.gone, hold])]
      exact ⟨updSeq_mem .., hc⟩
    case retireLost =>
      have hc := ctx?_updSeq hctx (f := fun q => q.updView num (fun v => { v with state := ViewState.retired })) (fun _ h => h)
      have hnext := next_updView (f := fun v => { v with state := ViewState.retired }) (fun _ h => h) hw hne
      rw [promoteSeq_waits hc hnext (by simp [succReady, hlost])]
      exact hc
    case retire =>
      have hc := ctx?_updSeq hctx (f := fun q => q.updView num (fun v => { v with state := ViewState.retired })) (fun _ h => h)
      obtain ⟨hs0, hsv⟩ := next_view? hw
      have hnext := next_updView (f := fun v => { v with state := ViewState.retired }) (fun _ h => h) hw hne
      have hpredView : (q.updView num (fun v => { v with state := ViewState.retired })).view? w.pred = some { v with state := .retired } := by
        rw [hpred]
        exact view?_updView_same (fun _ h => h) hv
      obtain ⟨hm, hc1⟩ := promoteSeq_promotes hc hnext (by simp [succReady, hpredView, View.gone, hwst, hwtr, hcu, hlost, hrun])
      refine ⟨hm.trans (updSeq_mem ..), _, hc1, rfl, rfl, rfl, ?_, ?_⟩
      · exact List.mem_map.mpr ⟨w, List.mem_map.mpr ⟨w, (view?_num hsv).2, if_neg hne⟩, if_pos rfl⟩
      · refine List.mem_map.mpr ⟨{ v with state := .retired }, List.mem_map.mpr ⟨v, hmem, if_pos hnum⟩, ?_⟩
        have hvw : v.num ≠ w.num := fun e => hne (e.symm.trans hnum)
        simp [hvw, View.gone]

end Sys2Proof.Claims
end

section
/-!
PROOFS. Member faults, survivor views, recompute handlers and re-runs (O46).
-/
namespace Sys2Proof.Claims
open Machine Bits Encoding

/-! ## Which devices have faulted -/

/-- The devices that have faulted are those that had. -/
structure SameFaults (s t : State) : Prop where
  faults : ∀ d, (t.dev? d).faulted = (s.dev? d).faulted

theorem sameFaults_refl (s : State) : SameFaults s s := ⟨fun _ => rfl⟩

theorem SameFaults.trans {s t u : State} (h1 : SameFaults s t) (h2 : SameFaults t u) : SameFaults s u := ⟨fun d => (h2.faults d).trans (h1.faults d)⟩

theorem dev?_faulted (s : State) (d : Nat) : (s.dev? d).faulted = ((s.allDevs.find? (fun c => c.num = d)).map Device.faulted).getD false := by
  unfold State.dev?
  cases s.allDevs.find? (fun c => c.num = d) with
  | none => rfl
  | some c => rfl

theorem sameFaults_of_devs {s t : State} (hdev : t.dev = s.dev) (hdevs : t.devs = s.devs) : SameFaults s t := by
  refine ⟨fun d => ?_⟩
  rw [dev?_faulted, dev?_faulted, State.allDevs, State.allDevs, hdev, hdevs]

theorem sameFaults_foldl {α : Type} {f : State → α → State} (h : ∀ s a, SameFaults s (f s a)) (l : List α) (s : State) : SameFaults s (l.foldl f s) := by
  induction l generalizing s with
  | nil => exact sameFaults_refl s
  | cons a l ih => exact (h s a).trans (ih _)

theorem sameFaults_updDev {f : Device → Device} (hf : ∀ v, (f v).num = v.num ∧ (f v).faulted = v.faulted) (d : Nat) (s : State) : SameFaults s (s.updDev d f) := by
  refine ⟨fun d' => ?_⟩
  by_cases h : d' = d
  · rw [h, dev?_updDev d s (fun v => (hf v).1), (hf _).2]
  · rw [dev?_updDev_other (fun v => (hf v).1) h]

theorem sameFaults_updPart (d p : Nat) (f : Part → Part) (s : State) : SameFaults s (s.updPart d p f) := by
  unfold State.updPart
  split <;> exact sameFaults_of_devs rfl rfl

theorem sameFaults_refAt (d p : Nat) (n : DWord) (up : Bool) (s : State) : SameFaults s (s.refAt d p n up) := sameFaults_updPart ..

theorem sameFaults_dropTails (id : Word) (s : State) : SameFaults s (s.dropTails id) := sameFaults_of_devs rfl rfl

theorem sameFaults_dropPage (pid : Nat) (hs : List (Nat × SliceEntry)) (s : State) (pg : Nat × Nat) : SameFaults s (State.dropPage pid hs s pg) := by
  simp only [State.dropPage]
  split
  · exact (sameFaults_updDev (by exact fun _ => ⟨rfl, rfl⟩) _ _).trans (sameFaults_foldl (fun s h => sameFaults_updPart ..) _ _)
  · exact sameFaults_updDev (by exact fun _ => ⟨rfl, rfl⟩) _ _

theorem sameFaults_settle (pid : Nat) (vs : List View) (keep : Option View) (s : State) : SameFaults s (s.settle pid vs keep) := by
  simp only [State.settle]
  exact (sameFaults_foldl (fun s h => sameFaults_updPart ..) _ _).trans (sameFaults_foldl (fun s pg => sameFaults_dropPage ..) _ _)

theorem Reported.devs {s t : State} (h : Reported s t) : t.devs = s.devs := (congrArg State.devs (show t = _ from h) :)

theorem sameFaults_report (d p code : Nat) (u : ErrUnit) (x : Word) (s : State) : SameFaults s (s.report d p code u x) :=
  sameFaults_of_devs (report_reported ..).dev (report_reported ..).devs

theorem sameFaults_retryView (id : Word) (s : State) : SameFaults s (s.retryView id) := sameFaults_of_devs rfl rfl

theorem sameFaults_updSeq (id : Word) (f : SeqCtx → SeqCtx) (s : State) : SameFaults s (s.updSeq id f) := by
  unfold State.updSeq
  split
  · exact sameFaults_refl s
  · exact sameFaults_updDev (by exact fun _ => ⟨rfl, rfl⟩) _ _

theorem sameFaults_destroySeq (q : SeqCtx) (s : State) : SameFaults s (s.destroySeq q) := by
  simp only [State.destroySeq]
  refine SameFaults.trans ?_ (sameFaults_updDev (by exact fun _ => ⟨rfl, rfl⟩) _ _)
  exact ((sameFaults_settle ..).trans (sameFaults_refAt ..)).trans (sameFaults_dropTails ..)

theorem sameFaults_loseContext (s : State) (q : SeqCtx) : SameFaults s (s.loseContext q) := by
  simp only [State.loseContext]
  exact ((sameFaults_destroySeq ..).trans (sameFaults_retryView ..)).trans (sameFaults_foldl (fun s m => sameFaults_report ..) _ _)

theorem sameFaults_failSeq (id : Word) (gone : Nat → Bool) (lost : List Nat) (s : State) : SameFaults s (s.failSeq id gone lost) := by
  unfold State.failSeq
  split
  · exact sameFaults_refl s
  · split
    · exact sameFaults_refl s
    · exact of_ite (P := SameFaults s) (fun _ => (sameFaults_updSeq ..).trans (sameFaults_report ..)) (fun _ => sameFaults_updSeq ..)

theorem sameFaults_loseGroups (dev : Nat) (s : State) (l : Launch) : SameFaults s (State.loseGroups dev s l) := by
  unfold State.loseGroups
  simp only []
  split
  · exact sameFaults_refl s
  · split
    · refine SameFaults.trans ?_ (sameFaults_report ..)
      exact sameFaults_of_devs rfl rfl
    · exact sameFaults_of_devs rfl rfl

/-- The device alone, marked with its images as faulted. -/
def markFaulted (dev : Nat) (s : State) : State :=
  { s.updDev dev (fun d => { d with faulted := true }) with images := s.images.map (fun i => if i.dev = dev then { i with marked := true } else i) }

theorem dev?_markFaulted (dev d : Nat) (s : State) : ((markFaulted dev s).dev? d) = if d = dev then { s.dev? d with faulted := true } else s.dev? d := by
  refine Eq.trans (show _ = (s.updDev dev (fun d => { d with faulted := true })).dev? d from rfl) ?_
  split
  · next h =>
    rw [h]
    exact dev?_updDev (f := fun d => { d with faulted := true }) dev s (fun _ => rfl)
  · next h => exact dev?_updDev_other (f := fun d => { d with faulted := true }) (fun _ => rfl) h s

/-- The contexts with a live view that the device is a member of. -/
def hitSeqs (dev : Nat) (s : State) : List SeqCtx := (s.allDevs.flatMap Device.seqs).filter (fun q => q.views.any (fun v => v.live && v.members.contains dev))

/-- What a fault leaves of the contexts, before the groups on the device are counted as ended. -/
def afterHits (dev : Nat) (s : State) : State :=
  (hitSeqs dev (markFaulted dev s)).foldl (fun t q => (t.failSeq q.id (fun m => ((markFaulted dev s).dev? m).faulted) []).retryView q.id) (markFaulted dev s)

theorem faultDevice_unhomed {dev : Nat} {s : State} (h : (s.dev? dev).seqs = []) :
    s.faultDevice dev = (afterHits dev s).allLaunches.foldl (State.loseGroups dev) (afterHits dev s) := by
  simp only [State.faultDevice, h]
  rfl

theorem faultDevice_faulted (dev : Nat) (s : State) : ((s.faultDevice dev).dev? dev).faulted = true := by
  have h1 : ((markFaulted dev s).dev? dev).faulted = true := by rw [dev?_markFaulted, if_pos rfl]
  simp only [State.faultDevice]
  rw [(sameFaults_foldl (fun s l => sameFaults_loseGroups dev s l) _ _).faults,
    (sameFaults_foldl (fun s q => (sameFaults_failSeq ..).trans (sameFaults_retryView ..)) _ _).faults, (sameFaults_foldl (fun s q => sameFaults_loseContext s q) _ _).faults]
  exact h1

/-- A device no group runs on, and that no fabric launch counts in, takes nothing from a launch. -/
theorem loseGroups_alone {dev : Nat} {s : State} (hg : ∀ g ∈ s.allGroups, g.gid ≠ 0 → g.dev ≠ dev) {l : Launch} (hl : l.isFabric = true → dev ∉ l.acks) :
    State.loseGroups dev s l = s := by
  have hnone : s.allGroups.filter (fun g => g.gid ≠ 0 && g.lid = l.lid && g.dev = dev) = [] := by
    rw [List.filter_eq_nil_iff]
    intro g hm
    simpa using fun h0 _ => hg g hm h0
  have hpart : (l.isFabric && (l.state = .dispatching || l.state = .running || l.state = .draining || l.state = .aborting) && l.acks.contains dev) = false := by
    cases hf : l.isFabric with
    | false => rfl
    | true => simp [hl hf]
  unfold State.loseGroups
  exact if_pos (.inr (.inr ⟨by rw [hnone]; rfl, hpart⟩))

theorem foldl_fixed_mem {α β : Type} {f : β → α → β} {s : β} {l : List α} (h : ∀ a ∈ l, f s a = s) : l.foldl f s = s := by
  induction l with
  | nil => rfl
  | cons a l ih =>
    rw [List.foldl_cons, h a (List.mem_cons_self ..)]
    exact ih (fun b hb => h b (List.mem_cons_of_mem _ hb))

theorem loseGroups_all_alone {dev : Nat} {s : State} (hg : ∀ g ∈ s.allGroups, g.gid ≠ 0 → g.dev ≠ dev) (hl : ∀ l ∈ s.allLaunches, l.isFabric = true → dev ∉ l.acks) :
    s.allLaunches.foldl (State.loseGroups dev) s = s :=
  foldl_fixed_mem (fun l h => loseGroups_alone hg (hl l h))

/-- Contexts of a device that holds none stand in the same order once it has faulted. -/
theorem hitSeqs_markFaulted {dev : Nat} {s : State} (h : (s.dev? dev).seqs = []) :
    List.Sublist (hitSeqs dev (markFaulted dev s)) (hitSeqs dev s) := by
  unfold hitSeqs
  refine List.Sublist.filter _ ?_
  by_cases hd : s.dev.num = dev
  · have he : (markFaulted dev s).allDevs = { s.dev with faulted := true } :: s.devs := by simp [markFaulted, State.allDevs, State.updDev, hd]
    rw [he]
    exact List.Sublist.refl _
  · have he : (markFaulted dev s).allDevs = s.dev :: { s.dev? dev with faulted := true } :: s.devs.filter (fun c => !(c.num = dev)) := by simp [markFaulted, State.allDevs, State.updDev, hd]
    rw [he, State.allDevs, List.flatMap_cons, List.flatMap_cons, List.flatMap_cons, show (Device.seqs { s.dev? dev with faulted := true }) = [] from h, List.nil_append]
    refine List.Sublist.append (List.Sublist.refl _) ?_
    exact List.Sublist.flatMap List.filter_sublist _

/-- A context homed elsewhere stays one of them. -/
theorem mem_hitSeqs_markFaulted {dev : Nat} {seq : Word} {s : State} {q : SeqCtx} (hq : s.ctx? seq = some q) (hhome : seqHome seq ≠ some dev) (hhit : q ∈ hitSeqs dev s) :
    q ∈ hitSeqs dev (markFaulted dev s) := by
  unfold hitSeqs at *
  obtain ⟨-, hp⟩ := List.mem_filter.mp hhit
  refine List.mem_filter.mpr ⟨List.mem_flatMap.mpr ?_, hp⟩
  unfold State.ctx? at hq
  obtain ⟨d, hd, hf⟩ := Option.bind_eq_some_iff.mp hq
  have hne : d ≠ dev := fun e => hhome (hd.trans (congrArg some e))
  have hsame : (markFaulted dev s).dev? d = s.dev? d := by rw [dev?_markFaulted, if_neg hne]
  have hmem : q ∈ ((markFaulted dev s).dev? d).seqs := by rw [hsame]; exact List.mem_of_find?_eq_some hf
  rw [dev?_seqs] at hmem
  cases hc : (markFaulted dev s).allDevs.find? (fun c => c.num = d) with
  | none => rw [hc] at hmem; cases hmem
  | some c => rw [hc] at hmem; exact ⟨c, List.mem_of_find?_eq_some hc, hmem⟩

/-- The one context of the device's views, homed elsewhere, is the one that is hit. -/
theorem hitSeqs_one {dev : Nat} {seq : Word} {s : State} {q : SeqCtx} (h : (s.dev? dev).seqs = []) (hq : s.ctx? seq = some q) (hhome : seqHome seq ≠ some dev)
    (hone : hitSeqs dev s = [q]) : hitSeqs dev (markFaulted dev s) = [q] := by
  have hsub := hitSeqs_markFaulted h
  have hmem := mem_hitSeqs_markFaulted hq hhome (by rw [hone]; exact List.mem_singleton_self q)
  rw [hone] at hsub
  refine hsub.eq_of_length_le ?_
  exact List.length_pos_of_mem hmem

/-- The members of the last live view, of which a survivor view is made (R270). -/
def lastMembers (q : SeqCtx) : List Nat := ((match q.next with | some v => if v.live then some v else q.cur | none => q.cur).map View.members).getD []

/-- A failed context, with the launches that will be run again. -/
def failedSeq (s : State) (q : SeqCtx) : SeqCtx :=
  { q.fail with reruns := (q.fail.reruns ++ (q.fail.steps.filter (fun t => t.failed && ((s.launch? t.lid).map Launch.gang).getD false)).map Step.lid).dedup }

theorem failSeq_forms {s : State} {id : Word} {q : SeqCtx} (hq : s.ctx? id = some q) {gone : Nat → Bool} (hleft : (lastMembers q).filter (fun m => !gone m) ≠ []) (lost : List Nat) :
    s.failSeq id gone lost = s.updSeq id (fun _ => (failedSeq s q).form ((lastMembers q).filter (fun m => !gone m)) true
      (lost ++ q.views.flatMap (fun v => if v.live then v.lost else [])).dedup s.now) := by
  obtain ⟨-, hhome⟩ := ctx?_some hq
  have hfind : (s.dev? (field id.toNat 25 16)).seqs.find? (fun q => q.id = id) = some q := by
    unfold State.ctx? at hq
    rwa [hhome] at hq
  simp only [State.failSeq, hhome, hfind]
  have hne : ((lastMembers q).filter (fun m => !gone m)).isEmpty = false := by simpa [List.isEmpty_iff] using hleft
  exact if_neg (show ¬((lastMembers q).filter (fun m => !gone m)).isEmpty = true by rw [hne]; exact Bool.false_ne_true)

/-- Every live view of a failed context has failed, and so have its steps. -/
theorem fail_facts (q : SeqCtx) : q.fail.succ = 0 ∧ q.fail.lenc = q.lenc ∧ q.fail.lent = q.fail.lenc + q.fail.pending ∧ (∀ x ∈ q.fail.views, x.live = false)
    ∧ (∀ v ∈ q.views, v.live = true → { v with state := .failed, run := none } ∈ q.fail.views)
    ∧ (∀ p ∈ q.steps, (∃ v ∈ q.views, v.num = p.view ∧ v.live = true) → { p with failed := true, commits := [] } ∈ q.fail.steps) := by
  refine ⟨rfl, rfl, rfl, fun x hx => ?dead, fun v hv hl => ?views, fun p hp ⟨v, hv, hn, hl⟩ => ?steps⟩
  case dead =>
    obtain ⟨v, -, rfl⟩ := List.mem_map.mp hx
    by_cases hl : v.live = true
    · rw [if_pos hl]; rfl
    · rw [if_neg hl]; simpa using hl
  case views =>
    have h := List.mem_map_of_mem (f := fun v : View => if v.live then { v with state := .failed, run := none } else v) hv
    rwa [if_pos hl] at h
  case steps =>
    have hany : (q.views.map (fun v => if v.live then { v with state := .failed, run := none } else v)).any (fun v => v.num = p.view && v.state = .failed) = true := by
      rw [List.any_map, List.any_eq_true]
      exact ⟨v, hv, by simp [hl, hn]⟩
    have h := List.mem_map_of_mem (f := fun t : Step => if (q.views.map (fun v => if v.live then { v with state := .failed, run := none } else v)).any
      (fun v => v.num = t.view && v.state = .failed) then { t with failed := true, commits := [] } else t) hp
    rwa [if_pos hany] at h

theorem fail_steps {q : SeqCtx} {p : Step} (hp : p ∈ q.fail.steps) (hx : ∃ x ∈ q.views, x.num = p.view ∧ x.live = true) : p.failed = true := by
  obtain ⟨t, -, rfl⟩ := List.mem_map.mp hp
  by_cases hd : (q.views.map (fun v => if v.live then { v with state := .failed, run := none } else v)).any (fun v => v.num = t.view && v.state = .failed) = true
  · rw [if_pos hd]
  · rw [if_neg hd] at hx
    obtain ⟨v, hv, hn, hl⟩ := hx
    refine absurd ?_ hd
    rw [List.any_map, List.any_eq_true]
    exact ⟨v, hv, by simp [hl, hn]⟩

/-- The survivor view formed of the members that are left. -/
theorem survivor_facts {s : State} {q : SeqCtx} (members lost : List Nat) (now : Nat) : ∀ c, c = (failedSeq s q).form members true lost now →
    c.lent = c.lenc + c.pending ∧ c.lenc = q.lenc ∧ (∀ v ∈ q.views, v.live = true → { v with state := .failed, run := none } ∈ c.views)
    ∧ (∀ p ∈ q.steps, (∃ v ∈ q.views, v.num = p.view ∧ v.live = true) → { p with failed := true, commits := [] } ∈ c.steps)
    ∧ ∃ v, c.views.head? = some v ∧ v.state = .pending ∧ v.members = members ∧ v.survivor = true ∧ c.succ = v.num ∧ v.pred = q.view ∧ v.sentAt = now := by
  rintro c rfl
  obtain ⟨-, -, -, -, hviews, hsteps⟩ := fail_facts q
  exact ⟨rfl, rfl, fun v hv hl => List.mem_cons_of_mem _ (hviews v hv hl), hsteps, _, rfl, rfl, rfl, rfl, rfl, rfl, rfl⟩

/-- A fault of a device outside every view and launch changes it alone. -/
theorem faultDevice_alone {dev : Nat} {s : State} (h : (s.dev? dev).seqs = []) (hviews : ∀ q ∈ s.allDevs.flatMap Device.seqs, ∀ v ∈ q.views, v.live = true → dev ∉ v.members)
    (hg : ∀ g ∈ s.allGroups, g.gid ≠ 0 → g.dev ≠ dev) (hl : ∀ l ∈ s.allLaunches, l.isFabric = true → dev ∉ l.acks) : s.faultDevice dev = markFaulted dev s := by
  have hnone : hitSeqs dev s = [] := by
    unfold hitSeqs
    rw [List.filter_eq_nil_iff]
    intro q hq
    simpa using fun v hv hlive => hviews q hq v hv hlive
  have hnone' : hitSeqs dev (markFaulted dev s) = [] := by
    have hsub := hitSeqs_markFaulted h
    rw [hnone] at hsub
    exact List.eq_nil_of_sublist_nil hsub
  rw [faultDevice_unhomed h, afterHits, hnone', List.foldl_nil]
  have hgs : (markFaulted dev s).allGroups = s.allGroups := by simp only [markFaulted, State.updDev]; split <;> rfl
  have hls : (markFaulted dev s).allLaunches = s.allLaunches := by simp only [markFaulted, State.updDev]; split <;> rfl
  exact loseGroups_all_alone (by rwa [hgs]) (by rwa [hls])

/-- A fault of a device that one context's views count in: its survivor view is formed. -/
theorem faultDevice_one {dev : Nat} {seq : Word} {s : State} {q : SeqCtx} (h : (s.dev? dev).seqs = []) (hq : s.ctx? seq = some q) (hhome : seqHome seq ≠ some dev)
    (hone : hitSeqs dev s = [q]) (hg : ∀ g ∈ s.allGroups, g.gid ≠ 0 → g.dev ≠ dev) (hl : ∀ l ∈ s.allLaunches, l.isFabric = true → dev ∉ l.acks)
    (hleft : (lastMembers q).filter (fun m => m ≠ dev && !(s.dev? m).faulted) ≠ []) :
    ∃ lost, (s.faultDevice dev).mem = s.mem ∧ (s.faultDevice dev).ctx? seq = some ((failedSeq (markFaulted dev s) q).form ((lastMembers q).filter (fun m => m ≠ dev && !(s.dev? m).faulted)) true lost s.now) := by
  have hid := (ctx?_some hq).1
  have hq1 : (markFaulted dev s).ctx? seq = some q := by
    have hd := (ctx?_some hq).2
    unfold State.ctx? at hq ⊢
    rw [hd] at hq hhome ⊢
    rw [Option.bind_some] at hq ⊢
    rwa [dev?_markFaulted, if_neg (fun e => hhome (congrArg some e))]
  have hgone : (fun m => !((markFaulted dev s).dev? m).faulted) = fun m => decide (m ≠ dev) && !(s.dev? m).faulted := by
    funext m
    rw [dev?_markFaulted]
    by_cases hm : m = dev <;> simp [hm]
  have hnow : (markFaulted dev s).now = s.now := by simp only [markFaulted, State.updDev]; split <;> rfl
  have hmem : (markFaulted dev s).mem = s.mem := by simp only [markFaulted, State.updDev]; split <;> rfl
  have hgs : (markFaulted dev s).allGroups = s.allGroups := by simp only [markFaulted, State.updDev]; split <;> rfl
  have hls : (markFaulted dev s).allLaunches = s.allLaunches := by simp only [markFaulted, State.updDev]; split <;> rfl
  have hfail := failSeq_forms (gone := fun m => ((markFaulted dev s).dev? m).faulted) hq1 (by rw [hgone]; exact hleft) []
  rw [hgone, hnow] at hfail
  rw [faultDevice_unhomed h, afterHits, hitSeqs_one h hq hhome hone]
  generalize markFaulted dev s = s1 at *
  subst hid
  simp only [List.foldl_cons, List.foldl_nil, hfail]
  generalize hc : SeqCtx.form _ _ true _ _ = c
  have hcid : c.id = q.id := by rw [← hc]; rfl
  have hu := updSeq_eq q.id (fun _ => c) s1
  have hctx := ctx?_updSeq hq1 (f := fun _ => c) (fun _ _ => hcid)
  generalize s1.updSeq q.id (fun _ => c) = s2 at hu hctx
  have hgs2 : (s2.retryView q.id).allGroups = s1.allGroups := by rw [hu]; rfl
  have hls2 : (s2.retryView q.id).allLaunches = s1.allLaunches := by rw [hu]; rfl
  have hmem2 : (s2.retryView q.id).mem = s1.mem := by rw [hu]; rfl
  rw [loseGroups_all_alone (by rwa [hgs2, hgs]) (by rwa [hls2, hls]), hmem2]
  exact ⟨_, hmem, ((sameSeqs_retryView ..).ctx? q.id).trans (hctx.trans (congrArg some hc.symm))⟩

theorem SameSeqs.of_devs {s t u : State} (h : SameSeqs s t) (hdev : u.dev = t.dev) (hdevs : u.devs = t.devs) : SameSeqs s u := h.trans (sameSeqs_of_devs hdev hdevs)

theorem sameSeqs_perform (k : Nat) (bs : List Byte) (s : State) : SameSeqs s (s.perform k bs) := sameSeqs_of_devs rfl rfl

/-! ## Recompute handlers (R270) -/

theorem mem_putLaunch {l : Launch} (h0 : l.lid ≠ 0) (ls : List Launch) : l ∈ putLaunch l ls := by
  unfold putLaunch
  rw [if_neg h0]
  cases ls with
  | nil => exact List.mem_singleton_self l
  | cons u us =>
    simp only
    split
    · exact List.mem_cons_self ..
    · exact List.mem_cons_of_mem _ (mem_putLaunch h0 us)

/-- What an accepted launch that no queue gave is recorded as. -/
def accepted (l : Launch) (priority : Nat) (s : State) : Launch :=
  { l with lid := s.nextId, state := .waiting, priority := priority, number := (s.part? l.dev l.pid).launchNo, nbv := (s.part? l.dev l.pid).nbv }

theorem acceptLaunch_facts {l : Launch} {priority : Nat} {s : State} (hsrc : ∀ d p, l.source ≠ .queue d p) (h0 : 0 < s.nextId) :
    SameSeqs s (s.acceptLaunch l priority) ∧ accepted l priority s ∈ (s.acceptLaunch l priority).launches := by
  have he : s.acceptLaunch l priority = { (({ s with nextId := s.nextId + 1 } : State).updPart l.dev l.pid (fun p => { p with launchNo := nextLaunchNo p.launchNo })) with
      launches := putLaunch (accepted l priority s) (({ s with nextId := s.nextId + 1 } : State).updPart l.dev l.pid (fun p => { p with launchNo := nextLaunchNo p.launchNo })).launches } := by
    simp only [State.acceptLaunch, State.freshId]
    rfl
  rw [he]
  have hp : SameSeqs { s with nextId := s.nextId + 1 } _ := sameSeqs_updPart l.dev l.pid (fun p => { p with launchNo := nextLaunchNo p.launchNo }) { s with nextId := s.nextId + 1 }
  generalize State.updPart l.dev l.pid _ _ = s1 at hp
  have hs : SameSeqs s { s with nextId := s.nextId + 1 } := sameSeqs_of_devs rfl rfl
  exact ⟨(hs.trans hp).of_devs rfl rfl, mem_putLaunch (Nat.ne_of_gt h0) _⟩

/-- A record that may be launched makes its handler a launch of the member. -/
theorem submitHandler_accepts {q : SeqCtx} {r : Rebuild} {m : Nat} {s : State} {bs : List Byte} {l : Launch}
    (hl : l = Launch.submitted m q.pid bs (BitVec.ofNat 64 (q.id.toNat + (r.first + (r.count - 1) * 2 ^ 20) * 2 ^ 32)) (.recompute q.id r.first r.count))
    (hread : (s.focusPart m q.pid).readRecord (s.seqCls q).recov.toNat = some bs) (hok : l.recordOk (s.focusPart m q.pid).part none = true) (hgang : l.gang = false)
    (hroom : (s.focusPart m q.pid).deviceLaunches m q.pid < 4096) :
    s.submitHandler q r m = ((s.focusPart m q.pid).nextId, (s.focusPart m q.pid).acceptLaunch l (field (l.fld 16 4) 3 0)) := by
  subst hl
  simp only [State.submitHandler, hread, hok, hgang]
  exact (if_neg (by simp)).trans (if_neg (Nat.not_le.mpr hroom))

theorem endViews_facts {q : SeqCtx} {s : State} (h : s.ctx? q.id = some q) : (s.endViews q).mem = s.mem ∧ (s.endViews q).ctx? q.id = some q.fail := by
  unfold State.endViews
  have hr := report_reported (field q.id.toNat 25 16) q.pid 0x15 ⟨4, 0⟩ q.id (s.updSeq q.id SeqCtx.fail)
  refine ⟨hr.mem.trans (updSeq_mem ..), ?_⟩
  exact ((sameSeqs_retryView ..).ctx? _).trans (((sameSeqs_of_devs hr.dev hr.devs).ctx? _).trans (ctx?_updSeq h (fun _ h => h)))

/-! ## Re-runs (R271) -/

theorem focusPart_launches (d p : Nat) (s : State) : (s.focusPart d p).launches = s.launches ∧ (s.focusPart d p).lau = s.lau ∧ (s.focusPart d p).nextId = s.nextId := by
  unfold State.focusPart State.checkoutPart State.checkoutDev
  split <;> split <;> exact ⟨rfl, rfl, rfl⟩

theorem sameSeqs_dropStacks (l : Launch) (d : Nat) (s : State) : SameSeqs s (s.dropStacks l d) := by
  simp only [State.dropStacks]
  refine of_ite (P := SameSeqs s) (fun _ => sameSeqs_refl s) (fun _ => ?_)
  exact (sameSeqs_foldl (fun s x => sameSeqs_perform ..) _ _).of_devs rfl rfl

theorem dropStacks_none {l : Launch} (h : l.stackBase = 0) (d : Nat) (s : State) : s.dropStacks l d = s := by
  simp [State.dropStacks, h]

/-- The stacks of a launch dropped on every device it ran on. -/
def stacksDropped (s : State) : State := (if s.lau.gang || s.lau.isFabric then s.lau.acks else [s.lau.dev]).foldl (fun t d => t.dropStacks s.lau d) s

/-- A launch's race tags, kept in the partitions it marked. -/
def tagsKept (s : State) : State := s.lau.marks.foldl (fun t m => t.updPart m.1 s.lau.pid (fun p => { p with tags := (m.2.1, s.lau.lid) :: p.tags })) (stacksDropped s)

theorem removeLaunch_firmware {s : State} (hsrc : s.lau.source = .firmware) : s.removeLaunch = { tagsKept s with
    lau := Launch.none, grp := if (tagsKept s).grp.lid = s.lau.lid && (tagsKept s).grp.gid ≠ 0 then Group.none else (tagsKept s).grp,
    groups := (tagsKept s).groups.filter (fun g => !(g.lid = s.lau.lid)) } := by
  simp only [State.removeLaunch, hsrc]
  rfl

/-- What removing the checked-out launch of firmware leaves. -/
theorem removeLaunch_facts {s : State} (hsrc : s.lau.source = .firmware) : SameSeqs s s.removeLaunch ∧ s.removeLaunch.lau = Launch.none
    ∧ (∀ g ∈ s.removeLaunch.groups, g.lid ≠ s.lau.lid) ∧ (s.lau.stackBase = 0 → s.removeLaunch.mem = s.mem) := by
  have hsame : SameSeqs s (tagsKept s) := (sameSeqs_foldl (fun s d => sameSeqs_dropStacks ..) _ _).trans (sameSeqs_foldl (fun s m => sameSeqs_updPart ..) _ _)
  have hmem : s.lau.stackBase = 0 → (tagsKept s).mem = s.mem := fun h0 =>
    (foldl_mem (fun s m => State.updPart_mem ..) _ _).trans (congrArg State.mem (foldl_fixed (fun d => dropStacks_none h0 d s) _))
  rw [removeLaunch_firmware hsrc]
  refine ⟨hsame.of_devs rfl rfl, rfl, fun g hg => ?_, hmem⟩
  simpa using (List.mem_filter.mp hg).2

/-- The context of a launch's sequence is one of its home's contexts. -/
theorem ctx?_of_seqCtx {s : State} {pid : Nat} {id : Word} {q : SeqCtx} (h : s.seqCtx pid id = some q) : ∃ c, s.ctx? q.id = some c := by
  have hid := (seqCtx_some h).1
  rw [hid]
  unfold State.seqCtx at h
  unfold State.ctx?
  cases hd : seqHome id with
  | none => rw [hd] at h; cases h
  | some d =>
    rw [hd] at h
    have hm := List.mem_of_find?_eq_some h
    rw [Option.bind_some]
    exact Option.isSome_iff_exists.mp (List.find?_isSome.mpr ⟨q, hm, by simpa using hid⟩)

theorem happens_onLaunch {i : Instr} {lid : Nat} {f : State → Option State} {s : State} {due : State → Prop} {P : State → State → Prop} (hi : exec i s = s.onLaunch lid f)
    (h : ∀ s1, due s1 → ∃ t, f s1 = some t ∧ P s1 t) : Happens i s (launchAt lid s) due P := by
  intro s1 hs hd
  obtain ⟨t, ht, hp⟩ := h s1 hd
  refine ⟨t, ?_, hp⟩
  unfold launchAt at hs
  rw [hi, State.onLaunch]
  split at hs
  · cases hs
  · next h0 =>
    obtain ⟨s2, h2, rfl⟩ := Option.map_eq_some_iff.mp hs
    rw [if_neg h0, h2, Option.bind_some, ht, Option.getD_some]

/-- The launch again, as its record stands: what a re-run puts in its place. -/
def rerunOf (s : State) : Launch :=
  { s.lau with lid := s.nextId, state := .preparing, status := 0, marks := [], admitted := [], ended := [], failed := false, acks := [],
               sent := false, sentAt := 0, view := 0xFFFFFFFF, reports := [], rerun := true }

/-- The failed attempt taken out, its end left unwritten. -/
def attemptRemoved (s : State) : State := ({ s with nextId := s.nextId + 1, lau := { s.lau with source := .firmware } } : State).removeLaunch

theorem gangReruns_due {s : State} {q : SeqCtx} {v : View} (hq : s.seqCtx s.lau.pid s.lau.seqId = some q)
    (hd : s.lau.gang = true ∧ s.lau.lid ∈ q.reruns ∧ q.cur = some v ∧ v.state = .current ∧ s.groupsOver s.lau = true ∧ s.launchDrained s.lau = true) :
    gangReruns s = some (({ attemptRemoved s with launches := putLaunch (rerunOf s) (attemptRemoved s).launches } : State).updSeq q.id
      (fun q => { q with reruns := q.reruns.filter (fun x => x ≠ s.lau.lid) })) := by
  obtain ⟨hg, hr, hc, hv, ho, hdr⟩ := hd
  simp only [gangReruns, hq]
  exact if_pos (by simp [hg, hr, hc, hv, ho, hdr])

theorem gangReruns_facts {s : State} {q : SeqCtx} (hq : s.seqCtx s.lau.pid s.lau.seqId = some q) (h0 : 0 < s.nextId) : ∀ t,
    t = ({ attemptRemoved s with launches := putLaunch (rerunOf s) (attemptRemoved s).launches } : State).updSeq q.id (fun q => { q with reruns := q.reruns.filter (fun x => x ≠ s.lau.lid) }) →
    (s.lau.stackBase = 0 → t.mem = s.mem) ∧ t.lau = Launch.none ∧ (∀ g ∈ t.groups, g.lid ≠ s.lau.lid) ∧ rerunOf s ∈ t.allLaunches ∧ ∃ c, t.ctx? q.id = some c ∧ s.lau.lid ∉ c.reruns := by
  obtain ⟨hsame, hlau, hgroups, hmem⟩ := removeLaunch_facts (s := { s with nextId := s.nextId + 1, lau := { s.lau with source := .firmware } }) rfl
  obtain ⟨c, hc⟩ := ctx?_of_seqCtx hq
  have hself : SameSeqs s { s with nextId := s.nextId + 1, lau := { s.lau with source := .firmware } } := sameSeqs_of_devs rfl rfl
  have hcs := ((hself.trans hsame).of_devs (u := { attemptRemoved s with launches := putLaunch (rerunOf s) (attemptRemoved s).launches }) rfl rfl).ctx? q.id
  have hput : rerunOf s ∈ putLaunch (rerunOf s) (attemptRemoved s).launches := mem_putLaunch (Nat.ne_of_gt h0) _
  have hlau' : (attemptRemoved s).lau = Launch.none := hlau
  have hgroups' : ∀ g ∈ (attemptRemoved s).groups, g.lid ≠ s.lau.lid := hgroups
  have hmem' : s.lau.stackBase = 0 → (attemptRemoved s).mem = s.mem := hmem
  generalize attemptRemoved s = u at *
  rintro t rfl
  refine ⟨fun hz => (updSeq_mem ..).trans (hmem' hz), ?lau, ?groups, ?mem, _, ctx?_updSeq (hcs.trans hc) (fun _ h => h), ?rerun⟩
  case lau => rw [updSeq_eq]; exact hlau'
  case groups => rw [updSeq_eq]; exact hgroups'
  case mem => rw [updSeq_eq]; exact List.mem_cons_of_mem _ hput
  case rerun => simp

/-- An event that is a device's fault changes nothing where it is not due; else the device has faulted, alone or with the one context of its views. -/
theorem fault_happens {dev : Nat} {seq : Word} {s : State} {i : Instr} {c : Bool} {due : Prop} (hi : exec i s = .next ((whenDue c (s.faultDevice dev)).getD s)) (hc : c = true ↔ due) :
    (¬ due → exec i s = .next s) ∧ (due → ∃ t, exec i s = .next t ∧ (t.dev? dev).faulted = true)
    ∧ (due → (s.dev? dev).seqs = [] → (∀ q ∈ s.allDevs.flatMap Device.seqs, ∀ v ∈ q.views, v.live = true → dev ∉ v.members)
        → ((∀ g ∈ s.allGroups, g.gid ≠ 0 → g.dev ≠ dev) ∧ ∀ l ∈ s.allLaunches, l.isFabric = true → dev ∉ l.acks) → exec i s = .next (markFaulted dev s))
    ∧ (∀ q, due → (s.dev? dev).seqs = [] → s.ctx? seq = some q → seqHome seq ≠ some dev → hitSeqs dev s = [q]
        → ((∀ g ∈ s.allGroups, g.gid ≠ 0 → g.dev ≠ dev) ∧ ∀ l ∈ s.allLaunches, l.isFabric = true → dev ∉ l.acks)
        → (lastMembers q).filter (fun m => m ≠ dev && !(s.dev? m).faulted) ≠ [] → ∃ t, exec i s = .next t ∧ t.mem = s.mem ∧ ∃ c, t.ctx? seq = some c ∧ c.lent = c.lenc + c.pending ∧ c.lenc = q.lenc
          ∧ (∀ v ∈ q.views, v.live = true → { v with state := .failed, run := none } ∈ c.views)
          ∧ (∀ p ∈ q.steps, (∃ v ∈ q.views, v.num = p.view ∧ v.live = true) → { p with failed := true, commits := [] } ∈ c.steps)
          ∧ ∃ v, c.views.head? = some v ∧ v.state = .pending ∧ v.members = (lastMembers q).filter (fun m => m ≠ dev && !(s.dev? m).faulted) ∧ v.survivor = true ∧ c.succ = v.num ∧ v.pred = q.view
            ∧ v.sentAt = s.now) := by
  have hdue : due → exec i s = .next (s.faultDevice dev) := fun h => by rw [hi, hc.mpr h]; rfl
  refine ⟨fun h => ?not, fun h => ⟨_, hdue h, faultDevice_faulted dev s⟩, fun h hs hv ⟨hg, hl⟩ => (hdue h).trans (by rw [faultDevice_alone hs hv hg hl]),
    fun q h hs hq hhome hone ⟨hg, hl⟩ hleft => ?one⟩
  case not => rw [hi, whenDue_false (by simpa using fun e => h (hc.mp e))]; rfl
  case one =>
    obtain ⟨lost, hmem, hctx⟩ := faultDevice_one hs hq hhome hone hg hl hleft
    exact ⟨_, hdue h, hmem, _, hctx, survivor_facts _ _ _ _ rfl⟩

/-- Settles O46: a fault ends the views of its device and forms their survivor views; handlers and re-runs follow from them. -/
theorem faultAndRebuildEvents : Obligations.FaultAndRebuildEvents := by
  unfold Obligations.FaultAndRebuildEvents
  intro dev lid seq s
  have hfaults := fun i c due => fault_happens (i := i) (c := c) (due := due) (dev := dev) (s := s) (seq := seq)
  refine ⟨⟨?member, ?probe⟩, fun q v hq hn hsurv hst htr hcu => ⟨fun f n bs hrun hfirst => ?launches, fun r hrun h0 hgone hpart honce => ?fails⟩, fun q v => ?rerun⟩
  case member => exact hfaults (.memberFault dev) (!(s.dev? dev).faulted) _ rfl (by simp)
  case probe => exact hfaults (.livenessProbeTimeout dev) (!(s.dev? dev).faulted && !(s.dev? dev).answers) _ rfl (by simp)
  case launches =>
    intro m s2 l hread hok hgang hroom hid0
    have hvn : q.view? v.num = some v := by
      obtain ⟨-, hv⟩ := next_view? hn
      rwa [(view?_num hv).1]
    obtain ⟨hid, -⟩ := ctx?_some hq
    have hctx : (s.focusPart (field seq.toNat 25 16) q.pid).ctx? q.id = some q := ((sameSeqs_focusPart ..).ctx? q.id).trans (hid ▸ hq)
    have hnext : s2.nextId = s.nextId := (focusPart_launches ..).2.2.trans (focusPart_launches ..).2.2
    have hmem2 : s2.mem = s.mem := (State.focusPart_mem ..).trans (State.focusPart_mem ..)
    have hpart : s2.part? m q.pid = s2.part := (part?_focusPart ..).trans (focusPart_part ..).symm
    have hsub := submitHandler_accepts (q := q) (r := { first := f, count := n, todo := v.runOwners f n, lid := 0, failedOnce := false }) (m := m)
      (s := s.focusPart (field seq.toNat 25 16) q.pid) (l := l) (by rw [hid]) hread hok hgang hroom
    have hsame : SameSeqs (s.focusPart (field seq.toNat 25 16) q.pid) s2 := sameSeqs_focusPart ..
    have hfacts := acceptLaunch_facts (l := l) (priority := field (l.fld 16 4) 3 0) (s := s2) (by intro d p e; cases e) (by rw [hnext]; exact hid0)
    have hrec : recompute q (s.focusPart (field seq.toNat 25 16) q.pid) = some ((s2.acceptLaunch l (field (l.fld 16 4) 3 0)).updSeq q.id
        (fun q => q.updView v.num (fun x => { x with run := some { first := f, count := n, todo := v.runOwners f n, lid := s2.nextId, failedOnce := false } }))) := by
      have hne : s2.nextId ≠ 0 := by rw [hnext]; exact Nat.ne_of_gt hid0
      simp only [recompute, hn, hsurv, hst, htr, hcu, hrun, hfirst, State.launchRun, hvn]
      refine (if_neg (by simp)).trans (congrArg some ?_)
      rw [hsub]
      have hne' : ((s.focusPart (field seq.toNat 25 16) q.pid).focusPart m q.pid).nextId ≠ 0 := hne
      refine (if_neg (fun h => hne' h.1)).trans ?_
      simp only [hne', decide_false, Bool.or_false]
      rfl
    have hdone := onSeq_due (f := recompute) (i := .recomputeHandlerLaunch seq) rfl hq hrec
    have hc := ctx?_updSeq (f := fun q => q.updView v.num (fun x => { x with run := some { first := f, count := n, todo := v.runOwners f n, lid := s2.nextId, failedOnce := false } }))
      (((hsame.trans hfacts.1).ctx? q.id).trans hctx) (fun _ h => h)
    have hin := hfacts.2
    have hmemA : (s2.acceptLaunch l (field (l.fld 16 4) 3 0)).mem = s.mem := (acceptLaunch_mem ..).trans hmem2
    have hacc : accepted l (field (l.fld 16 4) 3 0) s2 = { l with lid := s.nextId, state := .waiting, priority := field (l.fld 16 4) 3 0, number := s2.part.launchNo, nbv := s2.part.nbv } := by
      rw [← hnext, ← hpart]; rfl
    rw [hacc] at hin
    rw [hid, hnext] at hc hdone
    generalize s2.acceptLaunch l (field (l.fld 16 4) 3 0) = u at hdone hc hin hmemA
    refine ⟨_, hdone, (updSeq_mem ..).trans hmemA, ?_, _, hc, ?_⟩
    · rw [updSeq_eq]
      exact List.mem_cons_of_mem _ hin
    · have hv := List.mem_map_of_mem (f := fun x : View => if x.num = v.num then { x with run := some { first := f, count := n, todo := v.runOwners f n, lid := s.nextId, failedOnce := false } } else x)
        (view?_num hvn).2
      rwa [if_pos rfl] at hv
  case fails =>
    have hrec : recompute q (s.focusPart (field seq.toNat 25 16) q.pid) = some ((s.focusPart (field seq.toNat 25 16) q.pid).endViews q) := by
      simp only [recompute, hn, hsurv, hst, htr, hcu, hrun, hgone, hpart, honce, if_neg h0]
      simp
    obtain ⟨hid, -⟩ := ctx?_some hq
    have hctx : (s.focusPart (field seq.toNat 25 16) q.pid).ctx? q.id = some q := ((sameSeqs_focusPart ..).ctx? q.id).trans (hid ▸ hq)
    obtain ⟨hmem, hc⟩ := endViews_facts hctx
    obtain ⟨hsucc, hlenc, -, hdead, -, hsteps⟩ := fail_facts q
    exact ⟨_, onSeq_due (f := recompute) rfl hq hrec, hmem.trans (State.focusPart_mem ..), _, hid ▸ hc, hlenc, hsucc, hdead, fun p hp hx => fail_steps hp hx⟩
  case rerun =>
    refine happens_onLaunch (f := gangReruns) rfl (fun s1 ⟨hg, hq, hr, hc, hv, ho, hdr, h0⟩ => ?_)
    exact ⟨_, gangReruns_due hq ⟨hg, hr, hc, hv, ho, hdr⟩, gangReruns_facts hq h0 _ rfl⟩

end Sys2Proof.Claims
end

section
/-!
PROOFS. Special and uniform registers (O26).
-/
namespace Sys2Proof.Claims
open Machine Bits Encoding

/-! ## rdsr -/

/-- Words read back what they were written from. -/
theorem words_mod (n v : Nat) : words n (v % (2 ^ 32) ^ n) = words n v := by
  induction n generalizing v with
  | zero => rfl
  | succ n ih =>
    have hlow : v % (2 ^ 32) ^ (n + 1) % 2 ^ 32 = v % 2 ^ 32 := Nat.mod_mod_of_dvd v (Dvd.intro_left _ (Nat.pow_succ ..).symm)
    have hhigh : v % (2 ^ 32) ^ (n + 1) / 2 ^ 32 = v / 2 ^ 32 % (2 ^ 32) ^ n := by rw [Nat.pow_succ', Nat.mod_mul_right_div_self]
    simp only [words, Nat.shiftRight_eq_div_pow, hhigh, ih]
    congr 1
    apply BitVec.eq_of_toNat_eq
    simpa only [BitVec.toNat_ofNat] using hlow

theorem words_ofWords_words (n v : Nat) : words n (ofWords (words n v)) = words n v := by rw [ofWords_words, words_mod]

theorem LX.code_encL (x : LX) (op : BitVec 8) : code (x.encL op) (x.encL op).d = x.d := rfl

/-- What a body leaves that delivers a result past the last-result file, on a state whose thread is as the instruction found it. -/
theorem retire_putM (e : Enc) {s s1 : State} (n v : Nat) (hs : s.thr.status = .ready) (hq : Quiet s) (h : s1.thr = (atBody e s).thr) :
    ∃ u, s.freshen.retire (s1.putM e n v) = withThread u s1 ∧ u.status = .ready ∧ u.pc = (atBody e s).thr.pc ∧ u.pend = shrunk (atBody e s)
      ∧ SameFlags (atBody e s) (withThread u s1) ∧ Wrote (code e e.d) (words n v) (atBody e s) (withThread u s1) := by
  have hp : s1.putM e n v = { s1 with thr := (atBody e s).thr.result false (code e e.d) (words n v) } := by rw [State.putM, h]
  rw [hp, Thread.result_eq, retire_ready]
  rotate_left
  · simp [freshen_key]
  · simpa using hs
  · simpa [Quiet] using hq
  refine ⟨_, rfl, ?_, rfl, ?_, ⟨rfl, rfl, rfl, rfl⟩, fun k h => ?_⟩
  · simpa using hs
  · simp only [shrunk, freshen_nextId, atBody_nextId]
  · simp only [withThread_thr, Thread.putDst_regs _ _ _ _ h]

/-! ## wrsr -/

/-- What a body leaves that changes no register and no pending result. -/
theorem retire_flags {e : Enc} {s s1 : State} (hs : s.thr.status = .ready) (hq : Quiet s)
    (h : s1.thr = { (atBody e s).thr with meet := s1.thr.meet, fp := s1.thr.fp, sli := s1.thr.sli, cc := s1.thr.cc }) :
    (s.freshen.retire s1).thr.pend = shrunk (atBody e s) ∧ OnlyThread s1 (s.freshen.retire s1) ∧ SameRegs (atBody e s) (s.freshen.retire s1) ∧ SameFlags s1 (s.freshen.retire s1) := by
  have hkey : s1.thr.key = s.freshen.thr.key := by rw [h]; simp [freshen_key]
  have hst : s1.thr.status = .ready := by rw [h]; simpa using hs
  have hpend : s1.thr.pend = s.thr.pend := by rw [h]; simp
  rw [retire_ready s.freshen s1 hkey hst (by rw [hpend]; exact hq)]
  refine ⟨?_, rfl, ⟨?_, ?_, ?_⟩, rfl, rfl, rfl, rfl⟩
  · simp only [hpend, shrunk, freshen_nextId, atBody_nextId, atBody_pend]
  · exact (congrArg Thread.regs h :)
  · exact (congrArg Thread.l0 h :)
  · exact (congrArg Thread.l1 h :)

theorem does_wrsr {x : LX} {s : State} {m : BitVec 8} {v : Nat} {target : State → State} (hm : x.m = m) (hv : (atBody (x.enc 0xE1) s).opB (x.enc 0xE1) (if m = 17 then 2 else 1) = v)
    (hpair : srPair m = decide (m = 17)) (hok : badSpecial m.toNat v = false) (htarget : ∀ b : State, b.setSpecial m.toNat v = target b)
    (hthr : ∀ b, (target b).thr = { b.thr with meet := (target b).thr.meet, fp := (target b).thr.fp, sli := (target b).thr.sli, cc := (target b).thr.cc }) :
    Does (.wrsr x) (x.enc 0xE1) s (fun b t => t.thr.pend = shrunk b ∧ OnlyThread (target b) t ∧ SameRegs b t ∧ SameFlags (target b) t) := by
  have hxm : (x.enc 0xE1).m = m := by rw [← hm]; unfold LX.enc; split <;> rfl
  refine does_ok (.wrsr x) rfl (target (atBody (x.enc 0xE1) s)) ?_ (fun hs hq => retire_flags hs hq (hthr _))
  have hw : (if srPair m then 2 else 1) = if m = 17 then 2 else 1 := by rw [hpair]; simp
  simp only [bodyWrsr, hxm, hw, hv, hok, htarget]
  rfl

theorem wrsr_illegal {x : LX} {s : State} {v : Nat} (hv : (atBody (x.enc 0xE1) s).opB (x.enc 0xE1) (if srPair x.m then 2 else 1) = v)
    (hbad : badSpecial x.m.toNat v = true) (hr : Ready (x.enc 0xE1) s) (hq : Quiet s) (hc : CanTrap s) :
    ∃ t, exec (.wrsr x) s = .next t ∧ Trapped causeIllegal (detail 0xF 0xE1 x.m 1) 0 (toWords (x.enc 0xE1)) s t := by
  have hxm : (x.enc 0xE1).m = x.m := by unfold LX.enc; split <;> rfl
  have hxo : (x.enc 0xE1).op = 0xE1 := by unfold LX.enc; split <;> rfl
  refine issue_traps (body := bodyWrsr) rfl hr hq hc ?_
  simp only [bodyWrsr, hxm, hxo, hv, hbad]
  rfl

/-! ## kset (R14) -/

theorem onward_stale (b : State) (ss : List (Nat × Word)) (k : Vector Word 32) (ts : List Thread) (cs : List (Nat × Nat × Nat)) :
    Onward [] b { b with grp := { b.grp with k := k }, thr := { b.thr with stale := ss }, threads := ts, cycSets := cs } :=
  ⟨rfl, rfl, (List.append_nil _).symm, rfl, rfl, ⟨rfl, rfl, rfl⟩, rfl, rfl, rfl, rfl⟩

/-- Writing a uniform register changes no more than it, what others may still read of it, and who wrote it. -/
theorem setUniform_shape (i : Nat) (v : Word) (b : State) : ∃ ss k ts cs,
    b.setUniform i v = { b with grp := { b.grp with k := k }, thr := { b.thr with stale := ss }, threads := ts, cycSets := cs } := by
  simp only [State.setUniform]
  split
  · exact ⟨_, _, _, _, rfl⟩
  · split
    · exact ⟨_, _, _, _, rfl⟩
    · exact ⟨_, b.grp.k, b.threads, b.cycSets, rfl⟩

theorem lookup_filter_ne {α : Type} (i j : Nat) (l : List (Nat × α)) : lookup j (l.filter (fun p => p.1 ≠ i)) = if j = i then none else lookup j l := by
  induction l with
  | nil => simp [lookup]
  | cons p l ih =>
    obtain ⟨k, v⟩ := p
    by_cases hk : k = i
    · rw [List.filter_cons_of_neg (by simpa using hk), ih]
      by_cases hj : j = i
      · rw [if_pos hj, if_pos hj]
      · rw [if_neg hj, if_neg hj]
        have hkj : k ≠ j := fun e => hj (e.symm.trans hk)
        simp only [lookup, if_neg hkj]
    · rw [List.filter_cons_of_pos (by simpa using hk)]
      by_cases hkj : k = j
      · have hji : j ≠ i := hkj ▸ hk
        simp [lookup, hkj, hji]
      · simp only [lookup, if_neg hkj]
        exact ih

theorem lookup_append_last {α : Type} (i j : Nat) (v : α) (l : List (Nat × α)) (h : lookup i l = none) : lookup j (l ++ [(i, v)]) = if j = i then some v else lookup j l := by
  induction l with
  | nil =>
    by_cases hj : j = i
    · simp [lookup, hj]
    · simp [lookup, hj, Ne.symm hj]
  | cons p l ih =>
    obtain ⟨k, w⟩ := p
    by_cases hk : k = i
    · simp [lookup, hk] at h
    · have h' : lookup i l = none := by simpa [lookup, hk] using h
      by_cases hkj : k = j
      · have hji : j ≠ i := hkj ▸ hk
        simp [lookup, hkj, hji]
      · simpa [lookup, hkj] using ih h'

/-- A thread that a higher one has overtaken keeps its own value to itself. -/
theorem setUniform_overtaken {i u : Nat} {b : State} (h : b.setBy i = some u) (hu : b.thr.key.tid < u) (v : Word) :
    b.setUniform i v = { b with thr := { b.thr with stale := b.thr.stale.filter (fun p => p.1 ≠ i) ++ [(i, v)] } } := by
  simp only [State.setUniform, h]
  exact if_neg (Nat.not_le.mpr hu)

theorem setUniform_first {i : Nat} {b : State} (h : b.setBy i = none) (hi : i < 32) (v : Word) :
    b.setUniform i v = { b with
      grp := { b.grp with k := b.grp.k.set i v }, thr := { b.thr with stale := b.thr.stale.filter (fun p => p.1 ≠ i) },
      threads := b.threads.map (fun u => if u.key.gid = b.thr.key.gid ∧ u.key ≠ b.thr.key then { u with stale := u.stale ++ [(i, b.grp.k.getD i 0)] } else u),
      cycSets := (b.thr.key.gid, i, b.thr.key.tid) :: b.cycSets.filter (fun p => !(p.1 = b.thr.key.gid && p.2.1 = i)) } := by
  simp only [State.setUniform, h, dif_pos hi, and_true]
  simp [Vector.getD, hi]

theorem uniform_stale {t : State} {j : Nat} {ss : List (Nat × Word)} (h : t.thr.stale = ss) : t.uniform j = ((lookup j ss).getD (if h : j < 32 then t.grp.k[j] else 0)) := by
  unfold State.uniform
  rw [h]
  cases lookup j ss <;> rfl

/-- `kset` changes only what writing the uniform register does. -/
theorem does_kset {x : LX} {s : State} {P : State → State → Prop} (hP : ∀ u b, b = atBody (x.enc 0xE2) s → let t := withThread u (b.setUniform (x.d.toNat - 0xD0) (BitVec.ofNat 32 (b.opB (x.enc 0xE2) 1)))
      Continues b t → u.pend = shrunk b → u.stale = (b.setUniform (x.d.toNat - 0xD0) (BitVec.ofNat 32 (b.opB (x.enc 0xE2) 1))).thr.stale → t.mem = b.mem → P b t) :
    Does (.kset x) (x.enc 0xE2) s P := by
  have hxd : (x.enc 0xE2).d = x.d := LX.enc_d ..
  have hb : bodyKset (x.enc 0xE2) (atBody (x.enc 0xE2) s) = .ok ((atBody (x.enc 0xE2) s).setUniform (x.d.toNat - 0xD0) (BitVec.ofNat 32 ((atBody (x.enc 0xE2) s).opB (x.enc 0xE2) 1))) := by
    rw [bodyKset, hxd]
  obtain ⟨ss, k, ts, cs, he⟩ := setUniform_shape (x.d.toNat - 0xD0) (BitVec.ofNat 32 ((atBody (x.enc 0xE2) s).opB (x.enc 0xE2) 1)) (atBody (x.enc 0xE2) s)
  refine does_continues (ps := []) rfl hb (by rw [he]; exact onward_stale ..) (by simp) (fun u hc hp hr => hP u _ rfl hc (hp.trans (List.append_nil _)) ?_ ?_)
  · exact (congrArg Thread.stale (show u = _ from hr) :)
  · rw [he]; rfl

/-- Settles O26: each special register is read and written as the table has it, and a uniform register as the order of its writers has it. -/
theorem specialRegisters : Obligations.SpecialRegisters := by
  unfold Obligations.SpecialRegisters
  intro x s
  refine ⟨fun h24 h26 => ?reads, ?clocks, fun v => ⟨fun hv hm h => ?meet, fun hm h => ?fp, fun hm h => ?sli, fun hv hm h => ?nbv, fun hm h => ?cc⟩, ?illegal, fun hi => ?overtaken, fun hi hset => ?first⟩
  case reads =>
    refine does_ok (.rdsr x) rfl _ (if_neg (not_or.mpr ⟨h24, h26⟩)) (fun hs hq => ?_)
    obtain ⟨u, he, hst, hpc, hpend, hflags, hwrote⟩ := retire_putM (x.encL 0xE0) (if srPair x.m then 2 else 1) ((atBody (x.encL 0xE0) s).special x.m.toNat) hs hq rfl
    rw [show (x.encL 0xE0).m = x.m from rfl, he]
    exact ⟨⟨hst, hpc, hpend, rfl, hflags, hwrote⟩, rfl⟩
  case clocks =>
    intro hm hrun
    have hpair : srPair x.m = true := by rcases hm with h | h <;> rw [h] <;> rfl
    have hval : (atBody (x.encL 0xE0) s).special x.m.toNat = if x.m = 24 then s.dev.clk else (s.gtime s.dev.num).toNat := by
      rcases hm with h | h
      · rw [h]; simp [State.special]
      · rw [h, atBody_eq]; rfl
    generalize (if x.m = 24 then s.dev.clk else (s.gtime s.dev.num).toNat) = v at hval ⊢
    have hbody : bodyRdsr (x.encL 0xE0) (atBody (x.encL 0xE0) s) = .ok ((withEntry (x.encL 0xE0) x.m.toNat [] (words 2 v) (atBody (x.encL 0xE0) s) (atBody (x.encL 0xE0) s)).putM (x.encL 0xE0) 2 (ofWords (words 2 v))) := by
      have hrun' : FirstRun (atBody (x.encL 0xE0) s) := by rw [FirstRun, atBody_grp]; exact hrun
      have hpub := publish_withEntry (e := x.encL 0xE0) (addr := x.m.toNat) (operand := []) (act := fun s => .ok (words 2 v, s)) hrun' rfl
      simp only [bodyRdsr, show (x.encL 0xE0).m = x.m from rfl, if_pos hm, hval, hpair, if_true, hpub]
    refine does_ok (.rdsr x) rfl _ hbody (fun hs hq => ?_)
    obtain ⟨u, he, hst, hpc, hpend, hflags, hwrote⟩ := retire_putM (x.encL 0xE0) (s1 := withEntry (x.encL 0xE0) x.m.toNat [] (words 2 v) (atBody (x.encL 0xE0) s) (atBody (x.encL 0xE0) s)) 2 (ofWords (words 2 v)) hs hq rfl
    rw [words_ofWords_words] at hwrote
    rw [he]
    exact ⟨⟨hst, hpc, hpend, rfl, hflags, hwrote⟩, rfl⟩
  case meet => exact does_wrsr hm h rfl (by simpa [badSpecial] using hv) (fun _ => rfl) (fun _ => rfl)
  case fp => exact does_wrsr hm h rfl rfl (fun _ => rfl) (fun _ => rfl)
  case sli => exact does_wrsr hm h rfl rfl (fun _ => rfl) (fun _ => rfl)
  case nbv => exact does_wrsr hm h rfl (by rcases hv with rfl | rfl <;> rfl) (fun _ => rfl) (fun _ => rfl)
  case cc => exact does_wrsr hm h rfl rfl (fun _ => rfl) (fun _ => rfl)
  case illegal =>
    intro e w hbad hr hq hc
    have hw : badSpecial x.m.toNat w = true := by
      rcases hbad with ⟨hm, hv⟩ | ⟨hm, h1, h2⟩
      · rw [hm]; simpa [badSpecial] using hv
      · rw [hm]; simpa [badSpecial] using ⟨h1, h2⟩
    exact wrsr_illegal rfl hw hr hq hc
  case overtaken =>
    refine does_kset (fun u b hb => ?_)
    intro t hc hp hss hmem
    refine ⟨hc, hp, hmem, fun w hw hlt => ?_⟩
    have he := setUniform_overtaken hw hlt (BitVec.ofNat 32 (b.opB (x.enc 0xE2) 1))
    rw [he] at hss
    refine ⟨(congrArg State.grp he :), (congrArg State.threads he :), fun j hj => ?_⟩
    rw [uniform_stale (t := t) hss, lookup_append_last _ _ _ _ (by rw [lookup_filter_ne, if_pos rfl]), lookup_filter_ne, show t.grp = b.grp from (congrArg State.grp he :)]
    by_cases hji : j = x.d.toNat - 0xD0
    · rw [if_pos hji, if_pos hji, ← hb]; rfl
    · rw [if_neg hji, if_neg hji, if_neg hji]
      exact (uniform_stale rfl).symm
  case first =>
    refine does_kset (fun u b hb => ?_)
    intro t hc hp hss hmem
    rw [← hb] at hset ⊢
    have he := setUniform_first hset hi (BitVec.ofNat 32 (b.opB (x.enc 0xE2) 1))
    rw [he] at hss
    have hgrp : t.grp = _ := (congrArg State.grp he :)
    refine ⟨hc, hp, hmem, fun j hj => ?_, fun j hj => ?_, (congrArg State.threads he :)⟩
    · rw [uniform_stale (t := t) hss, lookup_filter_ne, hgrp]
      by_cases hji : j = x.d.toNat - 0xD0
      · rw [if_pos hji, if_pos hji, Option.getD_none, dif_pos hj]
        exact (Vector.getElem_set hi hj).trans (if_pos hji.symm)
      · rw [if_neg hji, if_neg hji, uniform_stale (t := b) rfl, dif_pos hj, dif_pos hj]
        exact congrArg ((lookup j b.thr.stale).getD ·) ((Vector.getElem_set hi hj).trans (if_neg (Ne.symm hji)))
    · simp only [hgrp, Vector.getElem_set, eq_comm (a := x.d.toNat - 0xD0)]

end Sys2Proof.Claims
end

section
/-!
PROOFS. Line hash, chain hash and prefix tables (O22).
-/
namespace Sys2Proof.Claims
open Machine Bits Encoding

/-! ## Published writes that answer several words -/

theorem words_ofWords (ws : List Word) : words ws.length (ofWords ws) = ws := by
  induction ws with
  | nil => rfl
  | cons w ws ih =>
    have hlt := w.isLt
    have hhigh : ofWords (w :: ws) >>> 32 = ofWords ws := by rw [Bits.ofWords, Nat.shiftRight_eq_div_pow]; omega
    rw [List.length_cons, words, hhigh, ih]
    congr 1
    apply BitVec.eq_of_toNat_eq
    rw [BitVec.toNat_ofNat, Bits.ofWords]
    omega

/-- A published write that performs on a first run enters the log, and its answer of several words is the reply. -/
theorem does_publishes {i : Instr} {e : Enc} {s s1 s2 : State} {g : Bool} {body : Body} {addr n : Nat} {operand ret : List Word}
    {act : State → Except Stop (List Word × State)} {P : State → State → Prop} (hi : exec i s = s.issue g body e) (hrun : FirstRun s1) (hn : ret.length = n)
    (hb : ∀ s3, s1.publish (pubOp e) addr operand act = .ok (ret, s3) → body e (atBody e s) = .ok (s3.replyD e n (ofWords ret)))
    (hact : act s1 = .ok (ret, s2)) (hthr1 : s1.thr = (atBody e s).thr) (hthr : s2.thr = s1.thr) (hlog : s2.grp.log = s1.grp.log)
    (hP : ∀ u, Replied e ret s (atBody e s) (withThread u (withEntry e addr operand ret s1 s2)) →
      Logged e addr operand ret s1 (withThread u (withEntry e addr operand ret s1 s2)) → P (atBody e s) (withThread u (withEntry e addr operand ret s1 s2))) :
    Does i e s P := by
  refine does_replied hi (hb _ (publish_withEntry hrun hact)) (hthr.trans hthr1) (fun u hu => hP u ?_ (by simp [Logged, hlog]))
  subst hn
  rwa [words_ofWords] at hu

/-! ## Hashes (R240, R250, R251) -/

theorem raceRange_eq {x : Xlat} {va n : Nat} {w : Bool} {s t : State} (h : raceRange x va w n s = .ok t) :
    t = { s with stamps := t.stamps, stampOwner := t.stampOwner, grp := { s.grp with stagedStamps := t.grp.stagedStamps } } := by
  induction n generalizing t with
  | zero => cases h; rfl
  | succ n ih =>
    unfold raceRange at h
    split at h
    · cases h
    · next s1 h1 =>
      have e2 := raceIf_eq h
      rw [ih h1] at e2
      exact e2

/-- Reading a line changes neither the thread nor the partition, and of the group only the stamps it has staged. -/
theorem readLine_facts {sp : Bool} {addr : Nat} {race : Bool} {s s1 : State} {bs : List Byte} (h : s.readLine sp addr race = .ok (bs, s1)) :
    s1.thr = s.thr ∧ s1.nextId = s.nextId ∧ s1.part = s.part ∧ s1.grp.log = s.grp.log := by
  unfold State.readLine at h
  split at h
  · split at h
    · cases h
    · cases h; exact ⟨rfl, rfl, rfl, rfl⟩
  · split at h
    · cases h
    · next x s2 hg =>
      obtain ⟨hthr, hgrp, hid, hpart, -⟩ := global_facts hg
      split at h
      · cases h
      · next s3 hr =>
        have hr' : s3 = { s2 with stamps := s3.stamps, stampOwner := s3.stampOwner, grp := { s2.grp with stagedStamps := s3.grp.stagedStamps } } := by
          split at hr
          · exact raceRange_eq hr
          · cases hr; rfl
        split at h
        · cases h
        · next v s4 hl =>
          have hl' := State.load_eq hl
          cases h
          refine ⟨?_, ?_, ?_, ?_⟩ <;> rw [hl', hr']
          · exact hthr
          · exact hid
          · exact hpart
          · rw [← hgrp]

theorem readWord_part {va : Nat} {s s1 : State} {bs : List Byte} (h : s.readWord va = .ok (bs, s1)) : s1.part = s.part := by
  unfold State.readWord at h
  split at h
  · cases h; rfl
  · split at h
    · cases h
    · next x s2 hglobal =>
      obtain ⟨-, -, -, hpart, -⟩ := global_facts hglobal
      split at h
      · split at h
        · cases h
        · cases h; exact hpart
      · cases hload : s2.load x 4 true with
        | error st => rw [hload] at h; cases h
        | ok r =>
          obtain ⟨v, s3⟩ := r
          rw [hload] at h
          cases h
          rw [State.load_eq hload]
          exact hpart

theorem readTokens_part {glob : Bool} {addr n : Nat} {s s1 : State} {bs : List Byte} (h : s.readTokens glob addr n = .ok (bs, s1)) : s1.part = s.part := by
  have hwords : ∀ (n va : Nat) (s s1 : State) (bs : List Byte), readWordsAt va n s = .ok (bs, s1) → s1.part = s.part := by
    intro n
    induction n with
    | zero => intro va s s1 bs h; cases h; rfl
    | succ n ih =>
      intro va s s1 bs h
      unfold readWordsAt at h
      split at h
      · cases h
      · next hword =>
        split at h
        · cases h
        · next hrest => cases h; exact (ih _ _ _ _ hrest).trans (readWord_part hword)
  unfold State.readTokens at h
  split at h
  · split at h
    · cases h
    · next hw =>
      cases h
      have hpart := hwords _ _ _ _ _ hw
      exact hpart
  · split at h
    · cases h
    · cases h; rfl

theorem does_lhash_line {x : LX} {s s1 : State} {bs : List Byte} (hm : field x.m.toNat 7 6 ≠ 0)
    (h : (atBody (x.encL 0xC6) s).readLine (field x.m.toNat 7 6 = 1) (if field x.m.toNat 7 6 = 1 then (atBody (x.encL 0xC6) s).opA (x.encL 0xC6) 1 else (atBody (x.encL 0xC6) s).opA (x.encL 0xC6) 2) false
      = .ok (bs, s1)) :
    Does (.lhash x) (x.encL 0xC6) s (fun b t => Continues b t ∧ t.mem = s1.mem
      ∧ t.thr.pend = shrunk b ++ [loadPending (x.encL 0xC6) 2 (lh64 s1.part.ka s1.part.kb bs 128) false 0 false s1]) := by
  obtain ⟨hthr, hid, hpart, -⟩ := readLine_facts h
  have hb : bodyLhash (x.encL 0xC6) (atBody (x.encL 0xC6) s) = .ok (s1.later (x.encL 0xC6) (words 2 (lh64 s1.part.ka s1.part.kb bs 128)) 2 0 0 false false false false) := by
    simp only [bodyLhash, show (x.encL 0xC6).m = x.m from rfl, h, hpart]
  have hon := onward_later (e := x.encL 0xC6) (b := atBody (x.encL 0xC6) s) (words 2 (lh64 s1.part.ka s1.part.kb bs 128)) 2 0 false false hthr
  refine does_continues rfl hb hon ?_ (fun u hcont hpend _ => ⟨hcont, rfl, hpend⟩)
  simp [loadPending, hid]

/-! ## Prefix tables (R252 to R255) -/

/-- The longest stored prefix is the answer of a look-up (R253). -/
theorem look_longest {y : PrefixTable} {hs : List DWord} {n i : Nat} {q : PrefixEntry} (h1 : 1 ≤ i) (hn : i ≤ n)
    (hq : y.entries.find? (fun r => r.hash = hs.getD (i - 1) 0 && r.length = i) = some q)
    (hlong : ∀ j, i < j → j ≤ n → ∀ r ∈ y.entries, ¬(r.hash = hs.getD (j - 1) 0 ∧ r.length = j)) : y.look hs n = some (i, q) := by
  induction n with
  | zero => omega
  | succ n ih =>
    unfold PrefixTable.look
    by_cases he : i = n + 1
    · subst he
      rw [Nat.add_sub_cancel] at hq
      rw [hq]
    · have hnone : y.entries.find? (fun r => r.hash = hs.getD n 0 && r.length = n + 1) = none := by
        rw [List.find?_eq_none]
        intro r hr
        simpa using hlong (n + 1) (by omega) (Nat.le_refl _) r hr
      rw [hnone]
      exact ih (by omega) (fun j hj hjn => hlong j hj (by omega))

theorem look_none {y : PrefixTable} {hs : List DWord} {n : Nat} (h : ∀ j, 1 ≤ j → j ≤ n → ∀ r ∈ y.entries, ¬(r.hash = hs.getD (j - 1) 0 ∧ r.length = j)) : y.look hs n = none := by
  induction n with
  | zero => rfl
  | succ n ih =>
    have hnone : y.entries.find? (fun r => r.hash = hs.getD n 0 && r.length = n + 1) = none := by
      rw [List.find?_eq_none]
      intro r hr
      simpa using h (n + 1) (by omega) (Nat.le_refl _) r hr
    unfold PrefixTable.look
    rw [hnone]
    exact ih (fun j hj hjn => h j hj (by omega))

/-- The hashes that a look-up reads from the scratchpad. -/
def hashesAt (off n : Nat) (b : State) : List DWord := (List.range n).map (fun i => BitVec.ofNat 64 (Mem.nat b.grp.scratch (off + 8 * i) 8))

theorem hashesAt_getD {off n i : Nat} (h : i < n) (b : State) : (hashesAt off n b).getD i 0 = BitVec.ofNat 64 (Mem.nat b.grp.scratch (off + 8 * i) 8) := by
  simp [hashesAt, List.getD_eq_getElem?_getD, h]

/-- A table operation that performs: its published write, its reply and the partition it leaves. -/
theorem does_table {i : Instr} {e : Enc} {s : State} {body : Body} {t addr n : Nat} {operand ret : List Word} {p : Part} {act : State → Except Stop (List Word × State)}
    (hi : exec i s = s.issue false body e) (hn : ret.length = n)
    (hb : ∀ s3, (atBody e s).publish (pubOp e) addr operand act = .ok (ret, s3) → body e (atBody e s) = .ok (s3.replyD e n (ofWords ret)))
    (hact : ((atBody e s).part.table t).enabled = true → act (atBody e s) = .ok (ret, { atBody e s with part := p })) :
    FirstRun (atBody e s) → ((atBody e s).part.table t).enabled = true → Does i e s (fun b t => Replied e ret s b t ∧ Logged e addr operand ret b t ∧ t.mem = b.mem ∧ t.part = p) :=
  fun hrun hon => does_publishes hi hrun hn hb (hact hon) rfl rfl rfl (fun _ hr hl => ⟨hr, hl, rfl, rfl⟩)

/-- What an operation does at its table: PROT where the table is disabled. -/
def atTable (t : Nat) (act : PrefixTable → State → Except Stop (List Word × State)) (s : State) : Except Stop (List Word × State) :=
  if !(s.part.table t).enabled then .error s.tableOff else act (s.part.table t) s

theorem atTable_on {t : Nat} {s : State} (h : (s.part.table t).enabled = true) (act : PrefixTable → State → Except Stop (List Word × State)) :
    atTable t act s = act (s.part.table t) s := by
  unfold atTable
  rw [h]
  rfl

def lookAct (t n : Nat) (hs : List DWord) : State → Except Stop (List Word × State) := atTable t (fun y s =>
  match y.look hs n with
  | some (i, q) => .ok (words 2 q.root.toNat ++ [BitVec.ofNat 32 i, BitVec.ofNat 32 q.idx], { s with part := s.part.setTable t (y.touch q.idx) })
  | none => .ok ([0, 0, 0, 0xFFFFFFFF], s))

def insertAct (t : Nat) (hash root : DWord) (len : Nat) : State → Except Stop (List Word × State) := atTable t (fun _ s =>
  match s.part.pfins t hash root len with
  | none => .error (contentProt 0 root.toNat)
  | some (st, p) => .ok ([st], { s with part := p }))

def pinAct (t : Nat) (hash : DWord) (k : Nat) (up : Bool) : State → Except Stop (List Word × State) := atTable t (fun y s =>
  .ok (words 1 (y.pin hash k up).1, { s with part := s.part.setTable t (y.pin hash k up).2 }))

/-- The reply of a published write that has performed. -/
def repliesOf (e : Enc) (n : Nat) : Except Stop (List Word × State) → Except Stop State
  | .error st => .error st
  | .ok (ret, s1) => .ok (s1.replyD e n (ofWords ret))

theorem repliesOf_ok {e : Enc} {n : Nat} {r : Except Stop (List Word × State)} {ret : List Word} {s3 : State} (h : r = .ok (ret, s3)) :
    repliesOf e n r = .ok (s3.replyD e n (ofWords ret)) := by
  rw [h]
  rfl

theorem bodyPin_replies {e : Enc} {b s3 : State} {up : Bool} {ret : List Word} (hk : b.opB e 1 ≤ 63)
    (h : b.publish (pubOp e) (field e.m.toNat 3 0) (words 2 (BitVec.ofNat 64 (b.opA e 2)).toNat ++ words 1 (b.opB e 1))
      (pinAct (field e.m.toNat 3 0) (BitVec.ofNat 64 (b.opA e 2)) (b.opB e 1) up) = .ok (ret, s3)) : bodyPin up e b = .ok (s3.replyD e 1 (ofWords ret)) := by
  refine (if_neg (Nat.not_lt.mpr hk)).trans ?_
  exact repliesOf_ok h

theorem bodyPfins_replies {e : Enc} {b s3 : State} {ret : List Word} (h1 : 1 ≤ b.opB e 1) (h2 : b.opB e 1 ≤ 65535)
    (h : b.publish (pubOp e) (field e.m.toNat 3 0) (words 4 (b.opA e 4) ++ words 1 (b.opB e 1))
      (insertAct (field e.m.toNat 3 0) (BitVec.ofNat 64 (b.opA e 4)) (BitVec.ofNat 64 (b.opA e 4 / 2 ^ 64)) (b.opB e 1)) = .ok (ret, s3)) :
    bodyPfins e b = .ok (s3.replyD e 1 (ofWords ret)) := by
  have hlen : ¬(b.opB e 1 = 0 ∨ 65535 < b.opB e 1) := by omega
  refine (if_neg hlen).trans ?_
  exact repliesOf_ok h

theorem natAt_read (m : List Host.Cell) (k n : Nat) {o w : Nat} (h : o + w ≤ n) : natAt (Mem.read m k n) o w = Mem.nat m (k + o) w := by
  unfold natAt Mem.nat
  congr 1
  refine List.ext_getElem (by simp; omega) (fun i h1 h2 => ?_)
  have hi : i < w := by simpa using h2
  have hl := Mem.read_getD m k n (o + i) 0 (by omega)
  have hr := Mem.read_getD m (k + o) w i 0 hi
  rw [List.getD_eq_getElem _ _ (by simpa using (by omega : o + i < n))] at hl
  rw [List.getD_eq_getElem _ _ h2] at hr
  rw [hr, Nat.add_assoc, ← hl]
  simp

theorem bodyPflook_replies {e : Enc} {b s3 : State} {ret : List Word} (h1 : 1 ≤ b.opB e 1) (h2 : b.opB e 1 ≤ 256) (hoff : b.opA e 1 % 8 = 0)
    (hroom : b.opA e 1 + 8 * b.opB e 1 ≤ b.grp.scratchSize)
    (h : b.publish (pubOp e) (b.opA e 1) [BitVec.ofNat 32 (b.opB e 1)] (lookAct (field e.m.toNat 3 0) (b.opB e 1) (hashesAt (b.opA e 1) (b.opB e 1) b)) = .ok (ret, s3)) :
    bodyPflook e b = .ok (s3.replyD e 4 (ofWords ret)) := by
  have hlen : ¬(b.opB e 1 = 0 ∨ 256 < b.opB e 1) := by omega
  have hread : b.scratchRange (b.opA e 1) (8 * b.opB e 1) 3 = .ok (Mem.read b.grp.scratch (b.opA e 1) (8 * b.opB e 1)) := by
    unfold State.scratchRange
    rw [if_neg (by simpa using hoff), if_neg (by simpa [State.outside] using hroom)]
  have hhs : (List.range (b.opB e 1)).map (fun i => BitVec.ofNat 64 (natAt (Mem.read b.grp.scratch (b.opA e 1) (8 * b.opB e 1)) (8 * i) 8)) = hashesAt (b.opA e 1) (b.opB e 1) b := by
    refine List.map_congr_left (fun i hi => ?_)
    have := List.mem_range.mp hi
    rw [natAt_read _ _ _ (by omega)]
  rw [← hhs] at h
  unfold bodyPflook
  simp only [if_neg hlen, hread]
  exact repliesOf_ok h

/-- What `pfpin` and `pfunpin` answer of an entry (R255). -/
theorem pin_absent {y : PrefixTable} {hash : DWord} {k : Nat} (h : ∀ r ∈ y.entries, ¬(r.idx = k ∧ r.hash = hash)) (up : Bool) : y.pin hash k up = (1, y) := by
  have hnone : y.entries.find? (fun r => r.idx = k && r.hash = hash) = none := by
    rw [List.find?_eq_none]
    intro r hr
    simpa using h r hr
  simp only [PrefixTable.pin, hnone]

/-- A table with the pin count of one entry set. -/
def pinned (y : PrefixTable) (k n : Nat) : PrefixTable := { y with entries := y.entries.map (fun q => if q.idx = k then { q with pins := n } else q) }

theorem pin_up {y : PrefixTable} {hash : DWord} {k : Nat} {r : PrefixEntry} (h : y.entries.find? (fun r => r.idx = k && r.hash = hash) = some r) :
    y.pin hash k true = if r.pins = 65535 then (3, y) else (0, (pinned y k (r.pins + 1)).touch k) := by
  simp only [PrefixTable.pin, h]
  rfl

theorem pin_down {y : PrefixTable} {hash : DWord} {k : Nat} {r : PrefixEntry} (h : y.entries.find? (fun r => r.idx = k && r.hash = hash) = some r) :
    y.pin hash k false = if r.pins = 0 then (2, y) else (0, pinned y k (r.pins - 1)) := by
  simp only [PrefixTable.pin, h]
  rfl

/-- `pfpin` or `pfunpin`, as the pin of its entry answers. -/
theorem does_pin {i : Instr} {x : LX} {s : State} {op : BitVec 8} {up : Bool} {st : Nat} {y : PrefixTable} (hi : exec i s = s.issue false (bodyPin up) (x.encL op))
    (hk : (atBody (x.encL op) s).opB (x.encL op) 1 ≤ 63)
    (hpin : ((atBody (x.encL op) s).part.table (field x.m.toNat 3 0)).pin (BitVec.ofNat 64 ((atBody (x.encL op) s).opA (x.encL op) 2)) ((atBody (x.encL op) s).opB (x.encL op) 1) up = (st, y)) :
    FirstRun (atBody (x.encL op) s) → ((atBody (x.encL op) s).part.table (field x.m.toNat 3 0)).enabled = true →
      Does i (x.encL op) s (fun b t => Replied (x.encL op) [BitVec.ofNat 32 st] s b t
        ∧ Logged (x.encL op) (field x.m.toNat 3 0) (words 2 (BitVec.ofNat 64 ((atBody (x.encL op) s).opA (x.encL op) 2)).toNat ++ words 1 ((atBody (x.encL op) s).opB (x.encL op) 1)) [BitVec.ofNat 32 st] b t
        ∧ t.mem = b.mem ∧ t.part = (atBody (x.encL op) s).part.setTable (field x.m.toNat 3 0) y) := by
  refine does_table (n := 1) hi rfl (fun s3 hp => bodyPin_replies hk hp) (fun hon => ?_)
  refine (atTable_on hon _).trans ?_
  rw [show (x.encL op).m = x.m from rfl, hpin]
  rfl

/-- Settles O22: hashes of registers, lines and tokens are left or answered; each table operation answers as its entries stand. -/
theorem hashesAndPrefixes : Obligations.HashesAndPrefixes := by
  unfold Obligations.HashesAndPrefixes
  intro x s t publishes
  refine ⟨⟨fun h0 => ?registers, fun bs s1 hm h => does_lhash_line hm h⟩, fun bs s1 h => ?tokens, fun h1 hn hoff hroom => ⟨fun i q hi1 hin hq hlong => ?found, fun hnone => ?absent⟩,
    fun st p hl hh hp => ?inserts, ?pins⟩
  case registers =>
    refine does_ok (.lhash x) rfl _ ?_ (fun hs hq => later_leaves (words 2 (lh64 (atBody (x.encL 0xC6) s).part.ka (atBody (x.encL 0xC6) s).part.kb
      ((toBytes 16 ((atBody (x.encL 0xC6) s).opA (x.encL 0xC6) 4)).take (field x.m.toNat 4 0)) (field x.m.toNat 4 0))) 2 0 0 false false false false hs hq)
    simp only [bodyLhash, show (x.encL 0xC6).m = x.m from rfl, h0]
  case tokens =>
    refine does_replied (body := bodyHblk) rfl ?_ (readTokens_thr h) (fun u hu => ⟨hu, rfl⟩)
    have h' : State.readTokens (bit x.m.toNat 2) (if bit x.m.toNat 2 then (atBody (x.encL 0xC7) s).opB (x.encL 0xC7) 2 else (atBody (x.encL 0xC7) s).opB (x.encL 0xC7) 1)
      (16 * 2 ^ field x.m.toNat 1 0) (atBody (x.encL 0xC7) s) = .ok (bs, s1) := h
    simp only [bodyHblk, show (x.encL 0xC7).m = x.m from rfl, readTokens_part h, h']
  case found =>
    refine does_table (n := 4) rfl rfl (fun s3 hp => bodyPflook_replies h1 hn hoff (by rw [atBody_grp]; exact hroom) hp) (fun hon => (atTable_on hon _).trans ?_)
    have hlook := look_longest (hs := hashesAt ((atBody (x.encL 0xC8) s).opA (x.encL 0xC8) 1) ((atBody (x.encL 0xC8) s).opB (x.encL 0xC8) 1) (atBody (x.encL 0xC8) s)) hi1 hin (by rw [hashesAt_getD (by omega)]; exact hq)
      (fun j hj hjn => by rw [hashesAt_getD (by omega)]; exact hlong j hj hjn)
    rw [show (x.encL 0xC8).m = x.m from rfl, hlook]
  case absent =>
    refine does_table (n := 4) rfl rfl (fun s3 hp => bodyPflook_replies h1 hn hoff (by rw [atBody_grp]; exact hroom) hp) (fun hon => (atTable_on hon _).trans ?_)
    have hlook := look_none (n := (atBody (x.encL 0xC8) s).opB (x.encL 0xC8) 1) (hs := hashesAt ((atBody (x.encL 0xC8) s).opA (x.encL 0xC8) 1) ((atBody (x.encL 0xC8) s).opB (x.encL 0xC8) 1) (atBody (x.encL 0xC8) s))
      (fun j hj hjn => by rw [hashesAt_getD (by omega)]; exact hnone j hj hjn)
    rw [show (x.encL 0xC8).m = x.m from rfl, hlook]
  case inserts =>
    refine does_table (n := 1) rfl rfl (fun s3 hr => bodyPfins_replies hl hh hr) (fun hon => (atTable_on hon _).trans ?_)
    rw [show (x.encL 0xC9).m = x.m from rfl, hp]
  case pins =>
    intro pins
    refine ⟨fun hk => ⟨fun hnone => does_pin rfl hk (pin_absent hnone _), fun r hr => ⟨fun hstop => ?full, fun hgo => ?counted⟩⟩,
      fun hk => ⟨fun hnone => does_pin rfl hk (pin_absent hnone _), fun r hr => ⟨fun hstop => ?zero, fun hgo => ?uncounted⟩⟩⟩
    case full => exact does_pin rfl hk ((pin_up hr).trans (if_pos hstop))
    case counted => exact does_pin rfl hk ((pin_up hr).trans (if_neg hgo))
    case zero => exact does_pin rfl hk ((pin_down hr).trans (if_pos hstop))
    case uncounted => exact does_pin rfl hk ((pin_down hr).trans (if_neg hgo))

end Sys2Proof.Claims
end

section
/-!
PROOFS. Lines, names, reference counts and cell exchange (O21).
-/
namespace Sys2Proof.Claims
open Machine Bits Encoding

/-! ## A reply of an instruction that releases -/

/-- An instruction whose body ends in a reply, where it has also noted its stores and fences. -/
theorem does_replied_marked {i : Instr} {e : Enc} {s s1 : State} {g : Bool} {body : Body} {n v : Nat} {P : State → State → Prop} {us : List Unacked}
    {m : Option (Nat × List (Nat × Nat))} {f : Bool} (hi : exec i s = s.issue g body e) (hb : body e (atBody e s) = .ok (s1.replyD e n v))
    (hthr : s1.thr = { (atBody e s).thr with unacked := us, markers := m, fenced := f })
    (hP : ∀ u, Replied e (words n v) s (atBody e s) (withThread u s1) → P (atBody e s) (withThread u s1)) : Does i e s P := by
  refine does_ok i hi _ hb (fun _ hq => ?_)
  have hkey : s1.thr.key = s.thr.key := by rw [hthr]; exact atBody_key e s
  have hpend : s1.thr.pend = s.thr.pend := by rw [hthr]; exact atBody_pend e s
  rw [retire_wait (s1 := s1.replyD e n v) (w := .reply) hkey rfl (by simpa [State.replyD, hpend] using hq)]
  refine hP _ ⟨⟨rfl, rfl, ?npc, ?regs, ?flags⟩, ?pend, rfl⟩
  case npc => simp [withThread, State.replyD, hthr]
  case regs => simpa [withThread, SameRegs, State.replyD, hthr] using atBody_sameRegs e s
  case flags => simpa [withThread, SameFlags, FlagsAre, State.replyD, hthr] using atBody_sameFlags e s
  case pend => simp [withThread, State.replyD, hpend, shrunk]

/-! ## cloa (R245) -/

/-- A body that leaves two registers' worth of a published write pending. -/
theorem does_leaves_published {i : Instr} {e : Enc} {s s1 s2 : State} {body : Body} {addr : Nat} {ret : List Word}
    {act : State → Except Stop (List Word × State)} {P : State → State → Prop} (hi : exec i s = s.issue false body e) (hrun : FirstRun s1)
    (hb : ∀ s3, s1.publish (pubOp e) addr [] act = .ok (ret, s3) → body e (atBody e s) = .ok (s3.later e ret 2 0 0 false false false false))
    (hact : act s1 = .ok (ret, s2)) (hthr1 : s1.thr = (atBody e s).thr) (hid1 : s1.nextId = (atBody e s).nextId) (hthr : s2.thr = s1.thr) (hid : s2.nextId = s1.nextId)
    (hP : ∀ t, Continues (atBody e s) t → t.mem = s2.mem → t.part = s2.part → t.nextId = s1.nextId + 1 → t.grp.log = s2.grp.log ++ [⟨s1.thr.key.tid, pubOp e, addr, [], ret, 0⟩] →
      t.thr.pend = shrunk (atBody e s) ++ [{ loadPending e 2 0 false 0 false s1 with vals := ret }] → P (atBody e s) t) : Does i e s P := by
  have hon := onward_later (e := e) (b := atBody e s) (s1 := withEntry e addr [] ret s1 s2) ret 2 0 false false (hthr.trans hthr1)
  have hp : ({ loadPending e 2 0 false 0 false (withEntry e addr [] ret s1 s2) with vals := ret } : Pending) = { loadPending e 2 0 false 0 false s1 with vals := ret } := by
    simp only [loadPending, withEntry, hid]
  rw [hp] at hon
  refine does_continues hi (hb _ (publish_withEntry hrun hact)) hon (by simp [loadPending, hid1]) (fun u hcont hpend _ => hP _ hcont rfl rfl ?_ rfl hpend)
  exact congrArg (· + 1) hid

theorem named_pending (e : Enc) (v : Nat) (s : State) : ({ loadPending e 2 0 false 0 false s with vals := words 2 v } : Pending)
    = { loadPending e 2 v false 0 false s with serial := s.nextId + 1 - 1 } := by
  simp only [loadPending, Nat.add_sub_cancel]

/-- The name of a line by region, collision number and hash. -/
def nameOf (r i h : Nat) : Nat := r * 2 ^ 60 + i * 2 ^ 56 + h % 2 ^ 56

theorem incr_kept {p : Part} {n : DWord} {P : ContentLine → Prop} (hP : ∀ l c, P l → P { l with count := c }) (h : ∃ l ∈ p.lines, P l) : ∃ l ∈ (p.incr n).lines, P l := by
  obtain ⟨l, hl, hp⟩ := h
  refine ⟨_, List.mem_map_of_mem hl, ?_⟩
  split
  · exact hP l _ hp
  · exact hp

theorem foldl_incr_kept {ns : List DWord} {p : Part} {P : ContentLine → Prop} (hP : ∀ l c, P l → P { l with count := c }) (h : ∃ l ∈ p.lines, P l) :
    ∃ l ∈ (ns.foldl Part.incr p).lines, P l := by
  induction ns generalizing p with
  | nil => exact h
  | cons n ns ih => exact ih (incr_kept hP h)

/-- The line that `cloa` makes. -/
def newLine (r i slot k : Nat) (interior : Bool) (bs : List Byte) (h : BitVec 56) : ContentLine :=
  { region := r, hash := h, coll := i, slot := slot, key := k, interior := interior, bytes := bs, count := 1, freed := false, walked := false }

theorem newLine_stands (p : Part) (r i slot k : Nat) (interior : Bool) (bs : List Byte) (h : BitVec 56) :
    ∃ l ∈ (if interior then (lineChildren bs).foldl Part.incr { p with lines := p.lines ++ [newLine r i slot k interior bs h] }
        else { p with lines := p.lines ++ [newLine r i slot k interior bs h] }).lines,
      l.region = r ∧ l.coll = i ∧ l.hash = h ∧ l.slot = slot ∧ l.interior = interior ∧ l.bytes = bs ∧ l.freed = false := by
  have hlast : ∃ l ∈ p.lines ++ [newLine r i slot k interior bs h],
      l.region = r ∧ l.coll = i ∧ l.hash = h ∧ l.slot = slot ∧ l.interior = interior ∧ l.bytes = bs ∧ l.freed = false :=
    ⟨_, List.mem_append_right _ (List.mem_singleton_self _), rfl, rfl, rfl, rfl, rfl, rfl, rfl⟩
  split
  · exact foldl_incr_kept (fun _ _ h => h) hlast
  · exact hlast

section
variable {r : Nat} {interior : Bool} {bs : List Byte} {s : State} {h : Nat} (hh : h = lh64 s.part.ka s.part.kb bs (if interior then 129 else 128))
  (hon : s.part.regionOn r = true) (hint : interior = true → s.part.interiorOk bs = true)
include hh hon hint

/-- An equal line that stands already counts one more. -/
theorem cloa_found {l : ContentLine} (hl : (s.part.chain r (BitVec.ofNat 56 h)).find? (fun l => !l.freed && l.interior = interior && l.bytes = bs) = some l) :
    s.cloa r interior bs = .ok (l.name, { s with part := s.part.incr l.name }) := by
  have hi : ¬(interior && !s.part.interiorOk bs) = true := by
    cases hint' : interior with
    | false => simp
    | true => simp [hint hint']
  subst hh
  simp only [State.cloa, hon, Bool.not_true, Bool.false_eq_true, if_false, if_neg hi, hl]

/-- A line that stands nowhere takes the lowest free collision number and a free slot. -/
theorem cloa_new {i slot k : Nat} (hl : (s.part.chain r (BitVec.ofNat 56 h)).find? (fun l => !l.freed && l.interior = interior && l.bytes = bs) = none)
    (hi16 : i < 16) (hfree : ∀ l ∈ s.part.chain r (BitVec.ofNat 56 h), l.coll ≠ i) (hz : ¬(i = 0 ∧ r = 0 ∧ BitVec.ofNat 56 h = 0))
    (hlow : ∀ j < i, (∃ l ∈ s.part.chain r (BitVec.ofNat 56 h), l.coll = j) ∨ (j = 0 ∧ r = 0 ∧ BitVec.ofNat 56 h = 0))
    (hslot : s.part.freeSlot r (s.choose (s.part.region r).lines.toNat).1 = some slot) (hk : s.slotKey (s.part.slotVa r slot) = some k) :
    ∃ t, s.cloa r interior bs = .ok ((newLine r i slot k interior bs (BitVec.ofNat 56 h)).name, t) ∧ t.thr = s.thr ∧ t.nextId = s.nextId
      ∧ t.mem = Mem.write s.mem k bs ∧ t.part = (if interior then (lineChildren bs).foldl Part.incr { s.part with lines := s.part.lines ++ [newLine r i slot k interior bs (BitVec.ofNat 56 h)] }
        else { s.part with lines := s.part.lines ++ [newLine r i slot k interior bs (BitVec.ofNat 56 h)] }) := by
  have hi : ¬(interior && !s.part.interiorOk bs) = true := by
    cases hint' : interior with
    | false => simp
    | true => simp [hint hint']
  have hfind : (List.range 16).find? (fun i => !(((s.part.chain r (BitVec.ofNat 56 h)).map ContentLine.coll).contains i) && !(i = 0 && r = 0 && BitVec.ofNat 56 h = 0)) = some i := by
    rw [List.find?_range_eq_some]
    refine ⟨?_, List.mem_range.mpr hi16, fun j hj => ?_⟩
    · have hz' : (¬i = 0 ∨ ¬r = 0) ∨ ¬BitVec.ofNat 56 h = 0#56 := by tauto
      simpa using ⟨hfree, hz'⟩
    · rcases hlow j hj with ⟨l, hl, rfl⟩ | ⟨h1, h2, h3⟩
      · simp only [Bool.not_and, Bool.not_not, Bool.or_eq_true]
        left
        simpa using ⟨l, hl, rfl⟩
      · simp [h1, h2, h3]
  subst hh
  have hch : (s.choose (s.part.region r).lines.toNat).2.thr = s.thr ∧ (s.choose (s.part.region r).lines.toNat).2.nextId = s.nextId
      ∧ (s.choose (s.part.region r).lines.toNat).2.mem = s.mem ∧ (s.choose (s.part.region r).lines.toNat).2.part = s.part := by simp
  have hc : s.cloa r interior bs = .ok ((newLine r i slot k interior bs (BitVec.ofNat 56 (lh64 s.part.ka s.part.kb bs (if interior then 129 else 128)))).name,
      ({ (s.choose (s.part.region r).lines.toNat).2 with
        part := if interior then (lineChildren bs).foldl Part.incr { (s.choose (s.part.region r).lines.toNat).2.part with
            lines := (s.choose (s.part.region r).lines.toNat).2.part.lines ++ [newLine r i slot k interior bs (BitVec.ofNat 56 (lh64 s.part.ka s.part.kb bs (if interior then 129 else 128)))] }
          else { (s.choose (s.part.region r).lines.toNat).2.part with
            lines := (s.choose (s.part.region r).lines.toNat).2.part.lines ++ [newLine r i slot k interior bs (BitVec.ofNat 56 (lh64 s.part.ka s.part.kb bs (if interior then 129 else 128)))] },
        mem := Mem.write (s.choose (s.part.region r).lines.toNat).2.mem k bs } : State).forgetLine s.part.dev k) := by
    simp only [State.cloa, hon, Bool.not_true, Bool.false_eq_true, if_false, if_neg hi, hl, hfind, hslot, hk]
    rfl
  obtain ⟨hthr, hid, hmem, hpart⟩ := hch
  rw [hmem, hpart] at hc
  exact ⟨_, hc, hthr, hid, rfl, rfl⟩
end

/-- What `cloa` publishes: the name of its line. -/
def cloaAct (r : Nat) (interior : Bool) (bs : List Byte) (s : State) : Except Stop (List Word × State) := (s.cloa r interior bs).map (fun r => (words 2 r.1.toNat, r.2))

theorem cloaAct_ok {r : Nat} {interior : Bool} {bs : List Byte} {s t : State} {n : DWord} (h : s.cloa r interior bs = .ok (n, t)) :
    cloaAct r interior bs s = .ok (words 2 n.toNat, t) := by
  rw [cloaAct, h]
  rfl

theorem bodyCloa_leaves {x : LX} {b s1 s3 : State} {bs : List Byte} {ret : List Word}
    (hread : b.readLine (bit x.m.toNat 5) (if bit x.m.toNat 5 then b.opA (x.encL 0xC0) 1 else b.opA (x.encL 0xC0) 2) true = .ok (bs, s1))
    (h : s1.publish (pubOp (x.encL 0xC0)) (if bit x.m.toNat 5 then b.opA (x.encL 0xC0) 1 else b.opA (x.encL 0xC0) 2) []
      (cloaAct (field x.m.toNat 3 0) (bit x.m.toNat 4) bs) = .ok (ret, s3)) :
    bodyCloa (x.encL 0xC0) b = .ok (s3.later (x.encL 0xC0) ret 2 0 0 false false false false) := by
  unfold cloaAct at h
  simp only [bodyCloa, show (x.encL 0xC0).m = x.m from rfl, hread, h]

/-- The words of a line's name. -/
theorem words_name (r i slot k h : Nat) (interior : Bool) (bs : List Byte) : words 2 (newLine r i slot k interior bs (BitVec.ofNat 56 h)).name.toNat = words 2 (nameOf r i h) := by
  have hn : (newLine r i slot k interior bs (BitVec.ofNat 56 h)).name.toNat = nameOf r i h % (2 ^ 32) ^ 2 := by
    simp only [ContentLine.name, newLine, BitVec.toNat_ofNat, nameOf]
    rfl
  rw [hn, words_mod]

/-! ## cld (R246) -/

theorem later_leaves_load {e : Enc} {s : State} (n v : Nat) (hop : e.op ≠ 0x74) (hs : s.thr.status = .ready) (hq : Quiet s) :
    Leaves (loadPending e n v false 0 false (atBody e s)) (atBody e s) (s.freshen.retire ((atBody e s).laterM e n v false 0)) := by
  have hl := later_leaves (e := e) (s := s) (words n v) n 0 0 false false false (decide (e.op = 0x74)) hs hq
  rw [decide_eq_false hop] at hl
  simp only [State.laterM, decide_eq_false hop]
  exact hl

section
variable {x : LX} {s : State} {l : ContentLine} {o : Nat}

/-- The offset of a read of a tree: its literal, or its register. -/
theorem cld_offset (b : State) : (if (x.enc 0xC1).form = .x then (x.enc 0xC1).lit.toNat else b.opB (x.enc 0xC1) 1) = (x.lit.map BitVec.toNat).getD (b.opB (x.enc 0xC1) 1) := by
  unfold LX.enc
  cases x.lit <;> rfl

theorem does_cld (ha : (x.lit.map BitVec.toNat).getD ((atBody (x.enc 0xC1) s).opB (x.enc 0xC1) 1) % memSize (x.enc 0xC1) = 0)
    (hwalk : (atBody (x.enc 0xC1) s).part.walkTree 9 (BitVec.ofNat 64 ((atBody (x.enc 0xC1) s).opA (x.enc 0xC1) 2))
      ((x.lit.map BitVec.toNat).getD ((atBody (x.enc 0xC1) s).opB (x.enc 0xC1) 1)) = .ok (l, o))
    (htag : (atBody (x.enc 0xC1) s).lineUntagged l = none) (hp : (atBody (x.enc 0xC1) s).poisoned (l.key + o) (memSize (x.enc 0xC1)) = false) :
    Does (.cld x) (x.enc 0xC1) s (fun b t => Leaves (loadPending (x.enc 0xC1) (memN (x.enc 0xC1)) (natAt l.bytes o (memSize (x.enc 0xC1))) false 0 false b) b t) := by
  have hbody : bodyCld (x.enc 0xC1) (atBody (x.enc 0xC1) s) = .ok ((atBody (x.enc 0xC1) s).laterM (x.enc 0xC1) (memN (x.enc 0xC1)) (natAt l.bytes o (memSize (x.enc 0xC1))) false 0) := by
    simp only [bodyCld, cld_offset, ha, hwalk, htag, hp, ne_eq, not_true_eq_false, Bool.false_eq_true, if_false]
  have hop : (x.enc 0xC1).op ≠ 0x74 := by
    rw [LX.enc]
    cases x.lit <;> exact (by decide : (0xC1 : BitVec 8) ≠ 0x74)
  exact does_ok _ rfl _ hbody (fun hs hq => later_leaves_load _ _ hop hs hq)
end

/-! ## cref, cunref (R247) -/

theorem line_name {p : Part} {n : DWord} {l : ContentLine} (h : p.line n = some l) : n ≠ 0 ∧ l ∈ p.lines ∧ l.freed = false ∧ l.name = n := by
  unfold Part.line at h
  split at h
  · cases h
  · next h0 =>
    have hp := List.find?_some h
    simp only [Bool.and_eq_true, Bool.not_eq_true', decide_eq_true_eq] at hp
    exact ⟨h0, List.mem_of_find?_eq_some h, hp.1, hp.2⟩

theorem line_incr {p : Part} {n : DWord} {l : ContentLine} (h : p.line n = some l) : (p.incr n).line n = some { l with count := min (l.count + 1) 0xFFFFFFFF } := by
  obtain ⟨h0, -, hf, hn⟩ := line_name h
  unfold Part.line at h ⊢
  rw [if_neg h0] at h ⊢
  have hkeeps : ((fun l : ContentLine => !l.freed && l.name = n) ∘ fun l => if !l.freed && l.name = n && n ≠ 0 then { l with count := min (l.count + 1) 0xFFFFFFFF } else l)
      = fun l => !l.freed && decide (l.name = n) := by
    funext l
    rw [Function.comp]
    split <;> rfl
  rw [Part.incr, List.find?_map, hkeeps, h]
  simpa [hf, hn] using fun e => absurd e h0

theorem incr_zero (p : Part) : (p.incr 0).lines = p.lines := by
  simp [Part.incr]

/-- A line with one reference less, as `cunref` leaves it. -/
def dropped (n : DWord) (l : ContentLine) : ContentLine :=
  if !l.freed && l.name = n && n ≠ 0 && l.count ≠ 0xFFFFFFFF then (if l.count ≤ 1 then { l with count := 0, freed := true } else { l with count := l.count - 1 }) else l

theorem find?_congr_mem {α : Type} {p q : α → Bool} {l : List α} (h : ∀ a ∈ l, p a = q a) : l.find? p = l.find? q := by
  induction l with
  | nil => rfl
  | cons a l ih =>
    rw [List.find?_cons, List.find?_cons, h a (List.mem_cons_self ..), ih (fun b hb => h b (List.mem_cons_of_mem _ hb))]

theorem line_decr {p : Part} {n : DWord} {l : ContentLine} (h : p.line n = some l) (hone : ∀ k ∈ p.lines, k.freed = false → k.name = n → k = l) :
    (p.decr n).countOf n = (if l.count = 0xFFFFFFFF then l.count else l.count - 1) ∧ (l.count = 1 → (p.decr n).line n = none) := by
  obtain ⟨h0, hl, hf, hn⟩ := line_name h
  have hline : p.lines.find? (fun k => !k.freed && k.name = n) = some l := by
    unfold Part.line at h
    rwa [if_neg h0] at h
  have hmap : (p.decr n).line n = (p.lines.find? ((fun k : ContentLine => !k.freed && k.name = n) ∘ dropped n)).map (dropped n) := by
    unfold Part.line
    rw [if_neg h0]
    exact List.find?_map ..
  by_cases hlast : l.count ≤ 1
  · have hgone : dropped n l = { l with count := 0, freed := true } := by
      have hne : l.count ≠ 0xFFFFFFFF := by omega
      simpa [dropped, hf, hn, hne, hlast] using fun e => absurd e h0
    have hnone : p.lines.find? ((fun k : ContentLine => !k.freed && k.name = n) ∘ dropped n) = none := by
      rw [List.find?_eq_none]
      intro k hk
      by_cases hkn : k.freed = false ∧ k.name = n
      · rw [hone k hk hkn.1 hkn.2, Function.comp, hgone]
        simp
      · have hsame : dropped n k = k := by
          refine if_neg ?_
          simp only [Bool.and_eq_true, Bool.not_eq_true', decide_eq_true_eq]
          exact fun hc => hkn hc.1.1
        rw [Function.comp, hsame]
        simpa using fun hfr => fun hname => hkn ⟨hfr, hname⟩
    rw [hnone, Option.map_none] at hmap
    have hzero : (if l.count = 0xFFFFFFFF then l.count else l.count - 1) = 0 := by split <;> omega
    exact ⟨by rw [Part.countOf, hmap, hzero]; rfl, fun _ => hmap⟩
  · have hkept : (dropped n l).count = (if l.count = 0xFFFFFFFF then l.count else l.count - 1) ∧ (dropped n l).freed = false ∧ (dropped n l).name = n := by
      unfold dropped
      by_cases hfull : l.count = 0xFFFFFFFF
      · simp [hfull, hf, hn]
      · simp only [hf, hn, h0, hfull, hlast, ne_eq, not_false_eq_true, decide_true, Bool.not_false, Bool.and_self, if_true, if_false]
        exact ⟨trivial, trivial, hn⟩
    have hsome : p.lines.find? ((fun k : ContentLine => !k.freed && k.name = n) ∘ dropped n) = some l := by
      rw [← hline]
      refine find?_congr_mem (fun k hk => ?_)
      by_cases hkn : k.freed = false ∧ k.name = n
      · rw [hone k hk hkn.1 hkn.2, Function.comp]
        simp [hkept, hf, hn]
      · have hsame : dropped n k = k := by
          refine if_neg ?_
          simp only [Bool.and_eq_true, Bool.not_eq_true', decide_eq_true_eq]
          exact fun hc => hkn hc.1.1
        rw [Function.comp, hsame]
    rw [hsome, Option.map_some] at hmap
    exact ⟨by rw [Part.countOf, hmap, Option.map_some, Option.getD_some, hkept.1], fun h1 => absurd h1.le hlast⟩

/-- What `cref` publishes: the new count. -/
def crefAct (n : DWord) (s : State) : Except Stop (List Word × State) := .ok (words 1 ((s.part.incr n).countOf n), { s with part := s.part.incr n })

theorem crefAct_ok {n : DWord} {l : ContentLine} {s : State} (h : s.part.line n = some l) :
    crefAct n s = .ok ([BitVec.ofNat 32 (min (l.count + 1) 0xFFFFFFFF)], { s with part := s.part.incr n }) := by
  rw [crefAct, Part.countOf, line_incr h]
  rfl

theorem bodyCref_replies {e : Enc} {b s3 : State} {ret : List Word}
    (h : b.publish (pubOp e) (BitVec.ofNat 64 (b.opA e 2)).toNat [] (crefAct (BitVec.ofNat 64 (b.opA e 2))) = .ok (ret, s3)) :
    bodyCref e b = .ok (s3.replyD e 1 (ofWords ret)) := by
  unfold crefAct at h
  simp only [bodyCref, h]

/-- What `cunref` publishes: the new count of a line that stands. -/
def cunrefAct (n : DWord) (s : State) : Except Stop (List Word × State) :=
  if (s.part.line n).isNone then .error (contentProt 0 n.toNat) else .ok (words 1 ((s.part.decr n).countOf n), { s with part := s.part.decr n })

theorem cunrefAct_ok {n : DWord} {l : ContentLine} {s : State} {v : Nat} (h : s.part.line n = some l) (hv : (s.part.decr n).countOf n = v) :
    cunrefAct n s = .ok ([BitVec.ofNat 32 v], { s with part := s.part.decr n }) := by
  rw [cunrefAct, h, if_neg (by simp), hv]
  rfl

theorem bodyCunref_replies {e : Enc} {b s3 : State} {ret : List Word}
    (h : b.publish (pubOp e) (BitVec.ofNat 64 (b.opA e 2)).toNat [] (cunrefAct (BitVec.ofNat 64 (b.opA e 2))) = .ok (ret, s3)) :
    bodyCunref e b = .ok (s3.replyD e 1 (ofWords ret)) := by
  unfold cunrefAct at h
  simp only [bodyCunref, h]

section
variable {x : LX} {s : State} {n : DWord}

theorem does_cref_zero (hrun : FirstRun (atBody (x.encL 0xC2) s)) (hn : BitVec.ofNat 64 ((atBody (x.encL 0xC2) s).opA (x.encL 0xC2) 2) = 0) :
    Does (.cref x) (x.encL 0xC2) s (fun b t => Replied (x.encL 0xC2) [0] s b t ∧ t.mem = b.mem ∧ t.part.lines = b.part.lines) := by
  have hact : crefAct (BitVec.ofNat 64 ((atBody (x.encL 0xC2) s).opA (x.encL 0xC2) 2)) (atBody (x.encL 0xC2) s)
      = .ok ([0], { atBody (x.encL 0xC2) s with part := (atBody (x.encL 0xC2) s).part.incr 0 }) := by
    rw [hn]
    rfl
  exact does_published rfl hrun (fun s3 h => bodyCref_replies h) hact rfl rfl rfl (fun u hr _ => ⟨hr, rfl, incr_zero _⟩)

theorem does_cref {l : ContentLine} (hrun : FirstRun (atBody (x.encL 0xC2) s))
    (hl : (atBody (x.encL 0xC2) s).part.line (BitVec.ofNat 64 ((atBody (x.encL 0xC2) s).opA (x.encL 0xC2) 2)) = some l) :
    Does (.cref x) (x.encL 0xC2) s (fun b t => Replied (x.encL 0xC2) [BitVec.ofNat 32 (min (l.count + 1) 0xFFFFFFFF)] s b t ∧ t.mem = b.mem
      ∧ t.part = b.part.incr (BitVec.ofNat 64 (b.opA (x.encL 0xC2) 2))
      ∧ Logged (x.encL 0xC2) (BitVec.ofNat 64 (b.opA (x.encL 0xC2) 2)).toNat [] [BitVec.ofNat 32 (min (l.count + 1) 0xFFFFFFFF)] b t) :=
  does_published rfl hrun (fun s3 h => bodyCref_replies h) (crefAct_ok hl) rfl rfl rfl (fun u hr hlog => ⟨hr, rfl, rfl, hlog⟩)

theorem does_cunref {l : ContentLine} (hrun : FirstRun (atBody (x.encL 0xC3) s))
    (hl : (atBody (x.encL 0xC3) s).part.line (BitVec.ofNat 64 ((atBody (x.encL 0xC3) s).opA (x.encL 0xC3) 2)) = some l)
    (hone : ∀ k ∈ (atBody (x.encL 0xC3) s).part.lines, k.freed = false → k.name = BitVec.ofNat 64 ((atBody (x.encL 0xC3) s).opA (x.encL 0xC3) 2) → k = l) :
    Does (.cunref x) (x.encL 0xC3) s (fun b t => Replied (x.encL 0xC3) [BitVec.ofNat 32 (if l.count = 0xFFFFFFFF then l.count else l.count - 1)] s b t ∧ t.mem = b.mem
      ∧ t.part = b.part.decr (BitVec.ofNat 64 (b.opA (x.encL 0xC3) 2))
      ∧ Logged (x.encL 0xC3) (BitVec.ofNat 64 (b.opA (x.encL 0xC3) 2)).toNat [] [BitVec.ofNat 32 (if l.count = 0xFFFFFFFF then l.count else l.count - 1)] b t
      ∧ (l.count = 1 → t.part.line (BitVec.ofNat 64 (b.opA (x.encL 0xC3) 2)) = none)) := by
  obtain ⟨hcount, hgone⟩ := line_decr hl hone
  exact does_published rfl hrun (fun s3 h => bodyCunref_replies h) (cunrefAct_ok hl hcount) rfl rfl rfl (fun u hr hlog => ⟨hr, rfl, rfl, hlog, hgone⟩)
end

/-! ## cswap (R248) -/

/-- The cell after a compare and exchange of its own device, with nothing staged. -/
def swapped (key : Nat) (expected new : DWord) (s : State) : State :=
  if BitVec.ofNat 64 (Mem.nat s.mem key 8) = expected then { s.perform key (toBytes 8 new.toNat) with part := ((s.perform key (toBytes 8 new.toNat)).part.incr new).decr expected } else s

theorem cellSwap_ok {key : Nat} {expected new : DWord} {s : State} (hst : s.grp.staged = []) (hn : new = 0 ∨ (s.part.line new).isSome = true) :
    cellSwap key expected new s = .ok (words 2 (BitVec.ofNat 64 (Mem.nat s.mem key 8)).toNat, swapped key expected new s) := by
  have hno : ¬(new ≠ 0 ∧ (s.part.line new).isNone = true) := by
    rintro ⟨h0, hnone⟩
    rcases hn with h | h
    · exact h0 h
    · rw [Option.isNone_iff_eq_none.mp hnone] at h; cases h
  have hland : s.landBytes key 8 = s := by
    have hcells : s.grp.staged.filter (fun p => decide (key ≤ p.1) && decide (p.1 < key + 8)) = [] := by rw [hst]; rfl
    rw [State.landBytes, hcells]
    exact unstage_empty hst key 8
  unfold cellSwap
  rw [if_neg hno]
  simp only [hland]
  unfold swapped
  split <;> rfl

/-- A compare and exchange writes the cell and moves the two references where the old value is the expected one, and nothing where it is another. -/
def Exchanged (key old : Nat) (expected new : DWord) (m m' : List Host.Cell) (p p' : Part) : Prop :=
  (BitVec.ofNat 64 old = expected → Written key (toBytes 8 new.toNat) m m' ∧ p' = (p.incr new).decr expected) ∧ (BitVec.ofNat 64 old ≠ expected → m' = m ∧ p' = p)

theorem swapped_facts (key : Nat) (expected new : DWord) (s : State) : (swapped key expected new s).thr = s.thr ∧ (swapped key expected new s).grp.staged = s.grp.staged
    ∧ Exchanged key (Mem.nat s.mem key 8) expected new s.mem (swapped key expected new s).mem s.part (swapped key expected new s).part := by
  unfold swapped
  split
  · next h => exact ⟨rfl, rfl, fun _ => ⟨written_write _ _ _, rfl⟩, fun hne => absurd h hne⟩
  · next h => exact ⟨rfl, rfl, fun he => absurd he h, fun _ => ⟨rfl, rfl⟩⟩

/-- An exchange that is published: its answer is the old value. -/
theorem publish_swap {e : Enc} {addr key : Nat} {operand : List Word} {expected new : DWord} {s : State} {w0 w1 : Word} (hrun : FirstRun s) (hst : s.grp.staged = [])
    (hn : new = 0 ∨ (s.part.line new).isSome = true) (hw : words 2 (BitVec.ofNat 64 (Mem.nat s.mem key 8)).toNat = [w0, w1]) : ∃ u,
    s.publish (pubOp e) addr operand (cellSwap key expected new) = .ok ([w0, w1], u) ∧ u.thr = s.thr ∧ u.grp.staged = []
      ∧ Exchanged key (Mem.nat s.mem key 8) expected new s.mem u.mem s.part u.part := by
  obtain ⟨hsthr, hsst, hsw⟩ := swapped_facts key expected new s
  have hact := cellSwap_ok (key := key) (expected := expected) hst hn
  rw [hw] at hact
  generalize swapped key expected new s = t at *
  exact ⟨_, publish_withEntry hrun hact, hsthr, hsst.trans hst, hsw⟩

/-- An instruction waits whose body leaves its thread waiting, with its registers, flags and pending results as they were. -/
theorem does_waits_of {i : Instr} {e : Enc} {s s1 : State} {g : Bool} {body : Body} {w : Wait} {P : State → State → Prop} (hi : exec i s = s.issue g body e)
    (hb : body e (atBody e s) = .ok s1) (hstatus : s1.thr.status = .waiting w) (h : Onward [] (atBody e s) { s1 with thr := { s1.thr with status := (atBody e s).thr.status } })
    (hP : ∀ u, Waits w (atBody e s).thr.pc s (withThread u s1) → P (atBody e s) (withThread u s1)) : Does i e s P := by
  obtain ⟨hkey, -, hpend, hpc, -, ⟨hregs, hl0, hl1⟩, hq, hcc, hfp, hsli⟩ := h
  refine does_ok i hi _ hb (fun _ hquiet => ?_)
  obtain ⟨hr0, hr1, hr2⟩ := atBody_sameRegs e s
  obtain ⟨hf0, hf1, hf2, hf3⟩ := atBody_sameFlags e s
  have hkey' : s1.thr.key = s.thr.key := hkey.trans (atBody_key e s)
  have hpend' : s1.thr.pend = s.thr.pend := (hpend.trans (List.append_nil _)).trans (atBody_pend e s)
  rw [retire_wait hkey' hstatus (by rw [hpend']; exact hquiet)]
  exact hP _ ⟨hstatus, rfl, hpc, ⟨hregs.trans hr0, hl0.trans hr1, hl1.trans hr2⟩, hq.trans hf0, hcc.trans hf1, hfp.trans hf2, hsli.trans hf3⟩

theorem words_two (v : Nat) : ∃ w0 w1, words 2 v = [w0, w1] := ⟨_, _, rfl⟩

theorem acquireIf_facts (c : Prop) [Decidable c] (sc : Nat) (v : State) :
    (if c then v.acquire sc else v).thr = v.thr ∧ (if c then v.acquire sc else v).mem = v.mem ∧ (if c then v.acquire sc else v).part = v.part := by
  unfold State.acquire
  split
  · split <;> exact ⟨rfl, rfl, rfl⟩
  · exact ⟨rfl, rfl, rfl⟩

section
variable {e : Enc} {b s1 s2 s3 s4 : State} {l : Xlat}
  (hg : b.global { va := b.opA e 2, size := 8, write := true, classes := [0, 2], prot13 := false } = .ok (l, s1))
include hg

section
variable (hm : s1.releaseBy (field e.m.toNat 1 0) (field e.m.toNat 4 2) = .ok s2)
  (hf : s2.publishRule (2 ≤ field e.m.toNat 1 0 && 2 ≤ field e.m.toNat 4 2) = .ok s3) (hno : ¬(l.cls = 2 ∧ s1.thr.region.isSome = true))
include hm hf hno

theorem bodyCswap_replies {w0 w1 : Word} (hc : l.cls ≠ 2)
    (hp : s3.publish (pubOp e) (b.opA e 2) (words 2 (BitVec.ofNat 64 (b.opB e 2)).toNat ++ words 2 (BitVec.ofNat 64 (b.opC e 2)).toNat)
      (cellSwap l.key (BitVec.ofNat 64 (b.opB e 2)) (BitVec.ofNat 64 (b.opC e 2))) = .ok ([w0, w1], s4)) (hu : s4.unstage l.key 8 = s4) :
    bodyCswap e b = .ok ((if field e.m.toNat 1 0 % 2 = 1 then s4.acquire (field e.m.toNat 4 2) else s4).replyD e 2 (ofWords [w0, w1])) := by
  simp only [bodyCswap, hg, if_neg hno, hm, hf, if_neg hc, hp, hu, ite_self]

theorem bodyCswap_sends (hc : l.cls = 2)
    (hp : s3.publish (pubOp e) (b.opA e 2) (words 2 (BitVec.ofNat 64 (b.opB e 2)).toNat ++ words 2 (BitVec.ofNat 64 (b.opC e 2)).toNat)
      (cellSend (field e.m.toNat 1 0 % 2 = 1 && field e.m.toNat 4 2 ≠ 0) l (b.opA e 2) (BitVec.ofNat 64 (b.opB e 2)) (BitVec.ofNat 64 (b.opC e 2))) = .ok ([], s4)) :
    bodyCswap e b = .ok ((s4.logSent.replyD e 2 0).waitRemote (s4.nextId - 1)) := by
  simp only [bodyCswap, hg, if_neg hno, hm, hf, if_pos hc, hp]
end

variable (hrun : FirstRun s1) (hst : b.grp.staged = []) (h2 : 2 ≤ field e.m.toNat 1 0 → s1.released (field e.m.toNat 4 2) = true)
  (h3 : field e.m.toNat 1 0 = 3 → s1.acked = true)
include hrun hst h2 h3

/-- The release side of an exchange notes the markers and the fence alone. -/
theorem cswap_marked : ∃ m f, s1.releaseBy (field e.m.toNat 1 0) (field e.m.toNat 4 2) = .ok (marked m s1.thr.fenced s1)
    ∧ (marked m s1.thr.fenced s1).publishRule (2 ≤ field e.m.toNat 1 0 && 2 ≤ field e.m.toNat 4 2) = .ok (marked m f s1) ∧ (marked m f s1).grp.staged = [] ∧ FirstRun (marked m f s1) := by
  obtain ⟨-, hgrp, -, -, -, -⟩ := global_facts hg
  rw [← hgrp] at hst
  obtain ⟨m, hm⟩ := releaseBy_marked h2 h3
  obtain ⟨f, hf⟩ := publishRule_unstaged (rel := 2 ≤ field e.m.toNat 1 0 && 2 ≤ field e.m.toNat 4 2) (s := marked m s1.thr.fenced s1) hst
  exact ⟨m, f, hm, hf, hst, hrun⟩

/-- What an exchange with a cell of its own device leaves, before its reply. -/
theorem cswap_home (hc : l.cls = 0) (hn : BitVec.ofNat 64 (b.opC e 2) = 0 ∨ (s1.part.line (BitVec.ofNat 64 (b.opC e 2))).isSome = true) : ∃ (u : State) (m : Option (Nat × List (Nat × Nat))) (f : Bool),
    bodyCswap e b = .ok (u.replyD e 2 (ofWords (words 2 (BitVec.ofNat 64 (Mem.nat s1.mem l.key 8)).toNat))) ∧ u.thr = { b.thr with unacked := b.thr.unacked, markers := m, fenced := f }
      ∧ Exchanged l.key (Mem.nat s1.mem l.key 8) (BitVec.ofNat 64 (b.opB e 2)) (BitVec.ofNat 64 (b.opC e 2)) s1.mem u.mem s1.part u.part := by
  obtain ⟨hthr, -⟩ := global_facts hg
  obtain ⟨m, f, hm, hf, hst1, hrun1⟩ := cswap_marked hg hrun hst h2 h3
  have hno : ¬(l.cls = 2 ∧ s1.thr.region.isSome = true) := fun h => by rw [hc] at h; exact absurd h.1 (by decide)
  have hcls : l.cls ≠ 2 := fun h => by rw [hc] at h; exact absurd h (by decide)
  obtain ⟨w0, w1, hw⟩ := words_two (BitVec.ofNat 64 (Mem.nat s1.mem l.key 8)).toNat
  obtain ⟨u, hpub, huthr, hust, hsw⟩ := publish_swap (e := e) (addr := b.opA e 2) (expected := BitVec.ofNat 64 (b.opB e 2))
    (operand := words 2 (BitVec.ofNat 64 (b.opB e 2)).toNat ++ words 2 (BitVec.ofNat 64 (b.opC e 2)).toNat) (s := marked m f s1) (key := l.key) (new := BitVec.ofNat 64 (b.opC e 2)) hrun1 hst1 hn hw
  have hbody := bodyCswap_replies hg hm hf hno hcls hpub (unstage_empty hust _ _)
  obtain ⟨hathr, hamem, hapart⟩ := acquireIf_facts (field e.m.toNat 1 0 % 2 = 1) (field e.m.toNat 4 2) u
  rw [hw]
  refine ⟨_, m, f, hbody, hathr.trans (huthr.trans ?_), ?_⟩
  · rw [← hthr]; rfl
  · rw [hamem, hapart]
    exact hsw

/-- What an exchange with a cell of another device leaves: its operation is on its way. -/
theorem cswap_away (hc : l.cls = 2) (hreg : b.thr.region = none) (href : s1.refusal l (b.opA e 2) = none) : ∃ (u : State) (m : Option (Nat × List (Nat × Nat))) (f : Bool)
    (us : List Unacked) (a : Access), bodyCswap e b = .ok ((u.logSent.replyD e 2 0).waitRemote b.nextId) ∧ u.thr = { b.thr with unacked := us, markers := m, fenced := f }
      ∧ u.mem = s1.mem ∧ u.part = s1.part ∧ u.inflight = b.inflight ++ [a] ∧ a.serial = b.nextId ∧ a.t = b.thr.key
      ∧ a.kind = .sync (.swap (BitVec.ofNat 64 (b.opB e 2)) (BitVec.ofNat 64 (b.opC e 2))) ∧ a.dst = devOf l.key ∧ a.key = l.key ∧ a.remote = true := by
  obtain ⟨hthr, -, hid, -, hin, -⟩ := global_facts hg
  obtain ⟨m, f, hm, hf, hst1, hrun1⟩ := cswap_marked hg hrun hst h2 h3
  have hno : ¬(l.cls = 2 ∧ s1.thr.region.isSome = true) := fun h => by rw [hthr, hreg] at h; exact absurd h.2 (by decide)
  have hkey1 : (marked m f s1).thr.key = b.thr.key := (congrArg Thread.key hthr :)
  have href' : (marked m f s1).refusal l (b.opA e 2) = none := href
  generalize hq : (field e.m.toNat 1 0 % 2 = 1 && field e.m.toNat 4 2 ≠ 0 : Bool) = q
  have hact : cellSend q l (b.opA e 2) (BitVec.ofNat 64 (b.opB e 2)) (BitVec.ofNat 64 (b.opC e 2)) (marked m f s1)
      = .ok ([], (marked m f s1).send (.sync (.swap (BitVec.ofNat 64 (b.opB e 2)) (BitVec.ofNat 64 (b.opC e 2)))) l (b.opA e 2) false false true q) := by
    simp only [cellSend, href']
  have hpartS : ((marked m f s1).send (.sync (.swap (BitVec.ofNat 64 (b.opB e 2)) (BitVec.ofNat 64 (b.opC e 2)))) l (b.opA e 2) false false true q).part = s1.part := by
    obtain ⟨c, n, t, a, hsend, -⟩ := send_facts (.sync (.swap (BitVec.ofNat 64 (b.opB e 2)) (BitVec.ofNat 64 (b.opC e 2)))) l (b.opA e 2) false false true q (marked m f s1)
    rw [hsend]
    rfl
  obtain ⟨a, us, hsthr, hsmem, hsid, -, hsin, hserial, hkey, hkind, hdst, hak, hremote, -⟩ :=
    send_remote (.sync (.swap (BitVec.ofNat 64 (b.opB e 2)) (BitVec.ofNat 64 (b.opC e 2)))) (b.opA e 2) false false true q (marked m f s1) hc
  generalize (marked m f s1).send (.sync (.swap (BitVec.ofNat 64 (b.opB e 2)) (BitVec.ofNat 64 (b.opC e 2)))) l (b.opA e 2) false false true q = w at *
  have hpub := publish_withEntry (e := e) (addr := b.opA e 2) (operand := words 2 (BitVec.ofNat 64 (b.opB e 2)).toNat ++ words 2 (BitVec.ofNat 64 (b.opC e 2)).toNat) hrun1 hact
  subst hq
  have hbody := bodyCswap_sends hg hm hf hno hc hpub
  have hid' : w.nextId - 1 = b.nextId := by rw [hsid]; exact hid
  rw [show (withEntry e (b.opA e 2) _ _ (marked m f s1) w).nextId = w.nextId from rfl, hid'] at hbody
  refine ⟨_, m, f, us, a, hbody, hsthr.trans ?_, hsmem, hpartS, hsin.trans ?_, hserial.trans hid, hkey.trans hkey1, hkind, hdst, hak, hremote⟩
  · rw [← hthr]; rfl
  · rw [← hin]; rfl
end

section
variable {x : LX} {s s1 : State} {l : Xlat}
  (hg : (atBody (x.encL 0xC4) s).global { va := (atBody (x.encL 0xC4) s).opA (x.encL 0xC4) 2, size := 8, write := true, classes := [0, 2], prot13 := false } = .ok (l, s1))
  (hrun : FirstRun s1) (hst : (atBody (x.encL 0xC4) s).grp.staged = []) (h2 : 2 ≤ field x.m.toNat 1 0 → s1.released (field x.m.toNat 4 2) = true)
  (h3 : field x.m.toNat 1 0 = 3 → s1.acked = true)
include hg hrun hst h2 h3

theorem does_cswap_home (hc : l.cls = 0) (hn : BitVec.ofNat 64 ((atBody (x.encL 0xC4) s).opC (x.encL 0xC4) 2) = 0
      ∨ (s1.part.line (BitVec.ofNat 64 ((atBody (x.encL 0xC4) s).opC (x.encL 0xC4) 2))).isSome = true) :
    Does (.cswap x) (x.encL 0xC4) s (fun b t => Replied (x.encL 0xC4) (words 2 (Mem.nat s1.mem l.key 8)) s b t
      ∧ (if BitVec.ofNat 64 (Mem.nat s1.mem l.key 8) = BitVec.ofNat 64 ((atBody (x.encL 0xC4) s).opB (x.encL 0xC4) 2)
        then Written l.key (toBytes 8 (BitVec.ofNat 64 ((atBody (x.encL 0xC4) s).opC (x.encL 0xC4) 2)).toNat) s1.mem t.mem
          ∧ t.part = (s1.part.incr (BitVec.ofNat 64 ((atBody (x.encL 0xC4) s).opC (x.encL 0xC4) 2))).decr (BitVec.ofNat 64 ((atBody (x.encL 0xC4) s).opB (x.encL 0xC4) 2))
        else t.mem = s1.mem ∧ t.part = s1.part)) := by
  obtain ⟨u, m, f, hbody, hthr, hsw⟩ := cswap_home hg hrun hst h2 h3 hc hn
  have hreply : words 2 (ofWords (words 2 (BitVec.ofNat 64 (Mem.nat s1.mem l.key 8)).toNat)) = words 2 (Mem.nat s1.mem l.key 8) := by
    rw [words_ofWords_words, BitVec.toNat_ofNat]
    exact words_mod 2 _
  refine does_replied_marked rfl hbody hthr (fun r hr => ⟨?_, ?_⟩)
  · rwa [hreply] at hr
  · split
    · next he => exact hsw.1 he
    · next he => exact hsw.2 he

/-- A cell of another device: the exchange is sent there, and the thread waits for the answer. -/
theorem does_cswap_away (hc : l.cls = 2) (hreg : (atBody (x.encL 0xC4) s).thr.region = none) (href : s1.refusal l ((atBody (x.encL 0xC4) s).opA (x.encL 0xC4) 2) = none) :
    Does (.cswap x) (x.encL 0xC4) s (fun b t => Waits (.remote b.nextId) b.thr.pc s t ∧ t.mem = s1.mem ∧ t.part = s1.part
      ∧ ∃ a, t.inflight = b.inflight ++ [a] ∧ a.serial = b.nextId ∧ a.t = b.thr.key
        ∧ a.kind = .sync (.swap (BitVec.ofNat 64 ((atBody (x.encL 0xC4) s).opB (x.encL 0xC4) 2)) (BitVec.ofNat 64 ((atBody (x.encL 0xC4) s).opC (x.encL 0xC4) 2)))
        ∧ a.dst = devOf l.key ∧ a.key = l.key ∧ a.remote = true) := by
  obtain ⟨u, m, f, us, a, hbody, hthr, hmem, hpart, ha⟩ := cswap_away hg hrun hst h2 h3 hc hreg href
  refine does_waits_of rfl hbody rfl ?_ (fun v hw => ⟨hw, hmem, hpart, a, ha⟩)
  refine ⟨?_, rfl, ?_, ?_, ?_, ⟨?_, ?_, ?_⟩, ?_, ?_, ?_, ?_⟩
  all_goals simp only [State.waitRemote, State.replyD, logSent_facts, hthr, List.append_nil]
end

/-- Settles O21: a line is named, read and counted, and a cell exchanged, as its operation says. -/
theorem contentLines : Obligations.ContentLines := by
  unfold Obligations.ContentLines
  intro x s
  refine ⟨fun bs s1 hread hrun hon hint => ⟨fun l hl => ?found, fun hl i slot k hi hfree hz hlow hslot hk hlen => ?new⟩, fun l o ha hwalk htag hp => ?cld,
    fun hrun => ⟨fun hn => ?zero, fun l hl => ?cref⟩, fun l hrun hl hone => ?cunref, fun l s1 hg hrun hst h2 h3 => ⟨fun hc hn => ?home, fun hc hreg href => ?away⟩⟩
  case found =>
    obtain ⟨hthr, hid, -, -⟩ := readLine_facts hread
    have hc : s1.cloa (field x.m.toNat 3 0) (bit x.m.toNat 4) bs = .ok (l.name, { s1 with part := s1.part.incr l.name }) := cloa_found (bs := bs) rfl hon hint hl
    refine does_leaves_published (body := bodyCloa) (s2 := { s1 with part := s1.part.incr l.name }) rfl hrun (fun s3 h => bodyCloa_leaves hread h)
      (ret := words 2 l.name.toNat) (cloaAct_ok hc) hthr hid rfl rfl ?_
    intro t hcont hmem hpart hnext hlog hpend
    refine ⟨hcont, hmem, hpart, hlog, ?_⟩
    rw [hpend, hnext, named_pending]
  case new =>
    obtain ⟨hthr, hid, -, -⟩ := readLine_facts hread
    obtain ⟨t1, hc, hthr1, hid1, hmem1, hpart1⟩ := cloa_new (bs := bs) rfl hon hint hl hi hfree hz hlow hslot hk
    refine does_leaves_published (body := bodyCloa) rfl hrun (fun s3 h => bodyCloa_leaves hread h) (s2 := t1) (cloaAct_ok hc) hthr hid hthr1 hid1 ?_
    intro t hcont hmem hpart hnext hlog hpend
    refine ⟨hcont, ?_, ?_, ?_⟩
    · rw [hmem, hmem1]
      exact written_write _ _ _
    · rw [hpend, hnext, words_name, named_pending, nameOf]
    · rw [hpart, hpart1]
      exact newLine_stands _ _ _ _ _ _ _ _
  case cld => exact does_cld ha hwalk htag hp
  case zero => exact does_cref_zero hrun hn
  case cref => exact does_cref hrun hl
  case cunref => exact does_cunref hrun hl hone
  case home => exact does_cswap_home hg hrun hst h2 h3 hc hn
  case away => exact does_cswap_away hg hrun hst h2 h3 hc hreg href

end Sys2Proof.Claims
end

section
/-!
PROOFS. Directories and censuses (O28).
-/
namespace Sys2Proof.Claims
open Machine Bits Encoding

/-- A multi-word result reaches d at once, and nothing else of the thread or of memory differs. -/
def Reaches (d : BitVec 8) (n v : Nat) (b t : State) : Prop :=
  t.thr.status = .ready ∧ t.thr.pc = b.thr.pc ∧ t.thr.pend = shrunk b ∧ t.mem = b.mem ∧ SameFlags b t ∧ Wrote d (words n v) b t

/-- A published write whose answer reaches d at once. -/
theorem does_reaches {i : Instr} {e : Enc} {s s2 : State} {body : Body} {addr n : Nat} {operand ret : List Word} {act : State → Except Stop (List Word × State)}
    {P : State → State → Prop} (hi : exec i s = s.issue false body e) (hrun : FirstRun (atBody e s))
    (hb : ∀ s3, (atBody e s).publish (pubOp e) addr operand act = .ok (ret, s3) → body e (atBody e s) = .ok (s3.putM e n (ofWords ret)))
    (hact : act (atBody e s) = .ok (ret, s2)) (hthr : s2.thr = (atBody e s).thr) (hmem : s2.mem = (atBody e s).mem)
    (hP : ∀ t, Reaches (code e e.d) n (ofWords ret) (atBody e s) t → t.core = s2.core → P (atBody e s) t) : Does i e s P := by
  refine does_ok i hi _ (hb _ (publish_withEntry hrun hact)) (fun hs hq => ?_)
  obtain ⟨u, he, hst, hpc, hpend, hflags, hwrote⟩ := retire_putM e (s1 := withEntry e addr operand ret (atBody e s) s2) n (ofWords ret) hs hq hthr
  rw [he]
  exact hP _ ⟨hst, hpc, hpend, hmem, hflags, hwrote⟩ rfl

/-! ## solicit (R304) -/

/-- What `solicit` publishes. -/
def solicitAct (scope combine : Nat) (key : DWord) (buf word : Nat) (s : State) : Except Stop (List Word × State) :=
  .ok ([(s.startCensus scope combine key buf word).1], (s.startCensus scope combine key buf word).2)

theorem bodySolicit_replies {e : Enc} {b s3 : State} {ret : List Word} (hbuf : b.opB e 1 % 32 = 0) (hbufIn : b.opB e 1 + 32 ≤ b.grp.scratchSize) (hword : b.opC e 1 % 16 = 0)
    (hwordIn : b.opC e 1 + 16 ≤ b.grp.scratchSize)
    (h : b.publish (pubOp e) (b.opB e 1) (words 2 (BitVec.ofNat 64 (b.opA e 2)).toNat ++ words 1 (b.opC e 1))
      (solicitAct (field e.m.toNat 1 0) (field e.m.toNat 4 2) (BitVec.ofNat 64 (b.opA e 2)) (b.opB e 1) (b.opC e 1)) = .ok (ret, s3)) :
    bodySolicit e b = .ok (s3.replyD e 1 (ofWords ret)) := by
  have hok : ¬(b.opB e 1 % 32 ≠ 0 || b.outside (b.opB e 1) 32 || b.badWord (b.opC e 1)) = true := by
    simp [State.badWord, State.outside, hbuf, hword, Nat.not_lt.mpr hbufIn, Nat.not_lt.mpr hwordIn]
  unfold solicitAct at h
  simp only [bodySolicit, if_neg hok, h]

section
variable (scope combine : Nat) (key : DWord) (buf word : Nat) (s : State)

theorem startCensus_full (h : 16 ≤ (s.censuses.filter (fun c => c.dev = s.core.dev && c.core = s.core.num)).length) :
    s.startCensus scope combine key buf word = (0xFFFFFFFF, s) := if_pos h

theorem startCensus_noView (h : (s.censuses.filter (fun c => c.dev = s.core.dev && c.core = s.core.num)).length < 16) (hs : scope = 3) (hv : s.grp.view = 0xFFFFFFFF) :
    s.startCensus scope combine key buf word = (0xFFFFFFFE, s) := by
  rw [State.startCensus, if_neg (Nat.not_le.mpr h), if_pos ⟨hs, hv⟩]

/-- The cores that a census asks. -/
def askedCores : List Nat :=
  (if scope = 3 then s.viewMembers s.grp.seq s.grp.view else [s.grp.dev]).flatMap (fun d => (instanceCores scope s.core.num).map (fun c => d * 192 + c))

/-- The census that `solicit` starts. -/
def startedCensus (n : Word) : Census :=
  { id := s.nextId, number := n, pid := s.part.pid, scope := scope, seq := s.grp.seq, view := s.grp.view, combine := combine, key := key, dev := s.core.dev, core := s.core.num,
    gid := s.grp.gid, buf := buf, word := word, todo := askedCores scope s, spawned := 0, finished := 0, kept := 0, value := 0, first := (0, 0, 0), mobile := [], overflow := false }

theorem startCensus_starts (h : (s.censuses.filter (fun c => c.dev = s.core.dev && c.core = s.core.num)).length < 16) (hv : scope = 3 → s.grp.view ≠ 0xFFFFFFFF) {n : Word}
    (hn : n = (lookup (instanceKey scope s.core.num) (s.part? (s.rootDev scope) s.part.pid).censusNo).getD 0 + 1) : ∃ t,
    s.startCensus scope combine key buf word = (n, t) ∧ t.thr = s.thr ∧ t.mem = s.mem ∧ t.grp = s.grp ∧ t.censuses = s.censuses ++ [startedCensus scope combine key buf word s n] := by
  have hno : ¬(scope = 3 ∧ s.grp.view = 0xFFFFFFFF) := fun ⟨h3, hn⟩ => hv h3 hn
  rw [State.startCensus, if_neg (Nat.not_le.mpr h), if_neg hno, hn]
  exact ⟨_, rfl, by simp, by simp, by simp, rfl⟩
end

/-! ## dirput, dirdel (R302) -/

theorem bodyDirput_gives {e : Enc} {b s3 : State} {ret : List Word} (hoff : b.opA e 1 % 32 = 0) (hin : b.opA e 1 + 32 ≤ b.grp.scratchSize)
    (h : b.publish (pubOp e) (b.opA e 1) (words 8 (ofBytes (Mem.read b.grp.scratch (b.opA e 1) 32))) (fun s => .ok (s.dirPut (Mem.read b.grp.scratch (b.opA e 1) 32))) = .ok (ret, s3)) :
    bodyDirput e b = .ok (s3.putM e 4 (ofWords ret)) := by
  have hok : ¬(b.opA e 1 % 32 ≠ 0 || b.outside (b.opA e 1) 32) = true := by
    simp [State.outside, hoff, Nat.not_lt.mpr hin]
  simp only [bodyDirput, if_neg hok, h]

/-- A live entry of a partition that has a key and a serial. -/
def dirHit (pid : Nat) (key : DWord) (serial : Word) (d : DirEntry) : Bool := d.pid = pid && d.state = .live && d.key = key && d.serial = serial

section
variable {img : List Byte} {s : State}

theorem dirPut_bad (h : wordAt img 12 ≠ 0) : s.dirPut img = (List.replicate 4 0xFFFFFFFD, s) := if_pos h

theorem dirPut_held (h : wordAt img 12 = 0) (hh : s.core.dirs.any (dirHit s.part.pid (BitVec.ofNat 64 (natAt img 0 8)) (wordAt img 8)) = true) :
    s.dirPut img = (List.replicate 4 0xFFFFFFFE, s) := by
  unfold dirHit at hh
  rw [State.dirPut, if_neg (not_not_intro h), if_pos hh]

theorem dirPut_full (h : wordAt img 12 = 0) (hh : s.core.dirs.any (dirHit s.part.pid (BitVec.ofNat 64 (natAt img 0 8)) (wordAt img 8)) = false)
    (hf : s.core.dirFree s.part.pid = none) : s.dirPut img = (List.replicate 4 0xFFFFFFFF, s) := by
  unfold dirHit at hh
  simp only [State.dirPut, if_neg (not_not_intro h), hh, Bool.false_eq_true, if_false, hf]

theorem dirPut_new {i : Nat} (h : wordAt img 12 = 0) (hh : s.core.dirs.any (dirHit s.part.pid (BitVec.ofNat 64 (natAt img 0 8)) (wordAt img 8)) = false)
    (hf : s.core.dirFree s.part.pid = some i) : s.dirPut img = ((List.range 4).map (fun sc => s.core.seenNo s.part.pid sc + 1), { s with core := { s.core with
      dirs := s.core.dirs ++ [⟨s.part.pid, i, .live, BitVec.ofNat 64 (natAt img 0 8), wordAt img 8, BitVec.ofNat 64 (natAt img 16 8), BitVec.ofNat 64 (natAt img 24 8),
        (List.range 4).map (fun sc => s.core.seenNo s.part.pid sc + 1), []⟩] } }) := by
  unfold dirHit at hh
  simp only [State.dirPut, if_neg (not_not_intro h), hh, Bool.false_eq_true, if_false, hf]
end

/-- What `dirdel` publishes. -/
def dirdelAct (key : DWord) (serial : Word) (ts : Option (List Word)) (s : State) : Except Stop (List Word × State) :=
  .ok ([(s.dirDel key serial ts).1], (s.dirDel key serial ts).2)

/-- The thresholds that `dirdel` names. -/
def delThresholds (e : Enc) (b : State) : Option (List Word) := if e.b = 0xFF then none else some (words 4 (b.opB e 4))

theorem bodyDirdel_gives {e : Enc} {b s3 : State} {ret : List Word}
    (h : b.publish (pubOp e) 0 (words 2 (BitVec.ofNat 64 (b.opA e 2)).toNat ++ [BitVec.ofNat 32 (b.opC e 1)] ++ (delThresholds e b).getD [])
      (dirdelAct (BitVec.ofNat 64 (b.opA e 2)) (BitVec.ofNat 32 (b.opC e 1)) (delThresholds e b)) = .ok (ret, s3)) :
    bodyDirdel e b = .ok (s3.putM e 1 (ofWords ret)) := by
  unfold dirdelAct delThresholds at h
  simp only [bodyDirdel, h]

section
variable {key : DWord} {serial : Word} {s : State}

theorem dirDel_none (ts : Option (List Word)) (h : s.core.dirs.any (dirHit s.part.pid key serial) = false) : s.dirDel key serial ts = (1, s) := by
  unfold dirHit at h
  simp only [State.dirDel, h, Bool.not_false, if_true]

theorem dirDel_gone (h : s.core.dirs.any (dirHit s.part.pid key serial) = true) :
    s.dirDel key serial none = (0, { s with core := { s.core with dirs := s.core.dirs.filter (fun d => !dirHit s.part.pid key serial d) } }) := by
  unfold dirHit at h
  simp only [State.dirDel, h, Bool.not_true, Bool.false_eq_true, if_false]
  rfl

/-- An entry that is taken out with thresholds becomes a ghost. -/
def ghosted (pid : Nat) (key : DWord) (serial : Word) (ts : List Word) (d : DirEntry) : DirEntry := if dirHit pid key serial d then { d with state := .ghost, thresholds := ts } else d

theorem dirDel_ghost (ts : List Word) (h : s.core.dirs.any (dirHit s.part.pid key serial) = true) :
    s.dirDel key serial (some ts) = (0, { s with core := ({ s.core with dirs := s.core.dirs.map (ghosted s.part.pid key serial ts) } : Core).dropGhosts }) := by
  unfold dirHit at h
  simp only [State.dirDel, h, Bool.not_true, Bool.false_eq_true, if_false]
  rfl

theorem dirHit_ghosted (pid : Nat) (ts : List Word) (d : DirEntry) : dirHit pid key serial (ghosted pid key serial ts d) = false := by
  unfold ghosted
  split
  · simp [dirHit]
  · next h => exact Bool.eq_false_iff.mpr h

theorem dropGhosts_ghosted (c : Core) (pid : Nat) (ts : List Word) :
    ({ c with dirs := c.dirs.map (ghosted pid key serial ts) } : Core).dropGhosts.dirs.any (dirHit pid key serial) = false
      ∧ ∀ d ∈ c.dirs, dirHit pid key serial d = false → d.state = .live → d ∈ ({ c with dirs := c.dirs.map (ghosted pid key serial ts) } : Core).dropGhosts.dirs := by
  constructor
  · rw [List.any_eq_false]
    intro d hd
    obtain ⟨d0, -, rfl⟩ := List.mem_map.mp (List.mem_filter.mp hd).1
    rw [dirHit_ghosted]
    exact Bool.false_ne_true
  · intro d hd hh hl
    have hsame : ghosted pid key serial ts d = d := by
      rw [ghosted, hh]
      rfl
    refine List.mem_filter.mpr ⟨List.mem_map.mpr ⟨d, hd, hsame⟩, ?_⟩
    simp [hl]
end

/-! ## The instructions -/

section
variable {x : LX} {s : State} {P : State → State → Prop}

theorem does_solicit {v : Word} {s2 : State} (hrun : FirstRun (atBody (x.encL 0xDA) s)) (hbuf : (atBody (x.encL 0xDA) s).opB (x.encL 0xDA) 1 % 32 = 0)
    (hbufIn : (atBody (x.encL 0xDA) s).opB (x.encL 0xDA) 1 + 32 ≤ s.grp.scratchSize) (hword : (atBody (x.encL 0xDA) s).opC (x.encL 0xDA) 1 % 16 = 0)
    (hwordIn : (atBody (x.encL 0xDA) s).opC (x.encL 0xDA) 1 + 16 ≤ s.grp.scratchSize)
    (hact : (atBody (x.encL 0xDA) s).startCensus (field x.m.toNat 1 0) (field x.m.toNat 4 2) (BitVec.ofNat 64 ((atBody (x.encL 0xDA) s).opA (x.encL 0xDA) 2))
      ((atBody (x.encL 0xDA) s).opB (x.encL 0xDA) 1) ((atBody (x.encL 0xDA) s).opC (x.encL 0xDA) 1) = (v, s2)) (hthr : s2.thr = (atBody (x.encL 0xDA) s).thr)
    (hgrp : s2.grp = (atBody (x.encL 0xDA) s).grp)
    (hP : ∀ t : State, Replied (x.encL 0xDA) [v] s (atBody (x.encL 0xDA) s) t → t.mem = s2.mem → t.censuses = s2.censuses → P (atBody (x.encL 0xDA) s) t) :
    Does (.solicit x) (x.encL 0xDA) s P := by
  rw [← atBody_grp (x.encL 0xDA) s] at hbufIn hwordIn
  have hact' : solicitAct (field x.m.toNat 1 0) (field x.m.toNat 4 2) (BitVec.ofNat 64 ((atBody (x.encL 0xDA) s).opA (x.encL 0xDA) 2)) ((atBody (x.encL 0xDA) s).opB (x.encL 0xDA) 1)
      ((atBody (x.encL 0xDA) s).opC (x.encL 0xDA) 1) (atBody (x.encL 0xDA) s) = .ok ([v], s2) := by
    rw [solicitAct, hact]
  refine does_publishes (n := 1) rfl hrun rfl (fun s3 h => bodySolicit_replies hbuf hbufIn hword hwordIn h) hact' rfl hthr
    (congrArg Group.log hgrp) (fun u hr _ => hP _ hr rfl rfl)

theorem does_dirput {ret : List Word} {s2 : State} (hrun : FirstRun (atBody (x.encL 0xDB) s)) (hoff : (atBody (x.encL 0xDB) s).opA (x.encL 0xDB) 1 % 32 = 0)
    (hin : (atBody (x.encL 0xDB) s).opA (x.encL 0xDB) 1 + 32 ≤ s.grp.scratchSize)
    (hact : (atBody (x.encL 0xDB) s).dirPut (Mem.read s.grp.scratch ((atBody (x.encL 0xDB) s).opA (x.encL 0xDB) 1) 32) = (ret, s2))
    (hthr : s2.thr = (atBody (x.encL 0xDB) s).thr) (hmem : s2.mem = (atBody (x.encL 0xDB) s).mem)
    (hP : ∀ t, Reaches x.d 4 (ofWords ret) (atBody (x.encL 0xDB) s) t → t.core = s2.core → P (atBody (x.encL 0xDB) s) t) : Does (.dirput x) (x.encL 0xDB) s P := by
  rw [← atBody_grp (x.encL 0xDB) s] at hin hact
  exact does_reaches rfl hrun (fun s3 h => bodyDirput_gives hoff hin h) (congrArg Except.ok hact) hthr hmem hP

theorem does_dirdel {v : Word} {s2 : State} (hrun : FirstRun (atBody (x.encL 0xDC) s))
    (hact : (atBody (x.encL 0xDC) s).dirDel (BitVec.ofNat 64 ((atBody (x.encL 0xDC) s).opA (x.encL 0xDC) 2)) (BitVec.ofNat 32 ((atBody (x.encL 0xDC) s).opC (x.encL 0xDC) 1))
      (delThresholds (x.encL 0xDC) (atBody (x.encL 0xDC) s)) = (v, s2)) (hthr : s2.thr = (atBody (x.encL 0xDC) s).thr) (hmem : s2.mem = (atBody (x.encL 0xDC) s).mem)
    (hP : ∀ t, Reaches x.d 1 (ofWords [v]) (atBody (x.encL 0xDC) s) t → t.core = s2.core → P (atBody (x.encL 0xDC) s) t) : Does (.dirdel x) (x.encL 0xDC) s P := by
  have hact' : dirdelAct (BitVec.ofNat 64 ((atBody (x.encL 0xDC) s).opA (x.encL 0xDC) 2)) (BitVec.ofNat 32 ((atBody (x.encL 0xDC) s).opC (x.encL 0xDC) 1))
      (delThresholds (x.encL 0xDC) (atBody (x.encL 0xDC) s)) (atBody (x.encL 0xDC) s) = .ok ([v], s2) := by
    rw [dirdelAct, hact]
  exact does_reaches rfl hrun (fun s3 h => bodyDirdel_gives h) hact' hthr hmem hP

theorem atBody_part (e : Enc) (s : State) : (atBody e s).part = s.part := by rw [atBody_eq]

section
variable (hrun : FirstRun (atBody (x.encL 0xDC) s)) (h : (atBody (x.encL 0xDC) s).core.dirs.any (dirHit s.part.pid (BitVec.ofNat 64 ((atBody (x.encL 0xDC) s).opA (x.encL 0xDC) 2))
  (BitVec.ofNat 32 ((atBody (x.encL 0xDC) s).opC (x.encL 0xDC) 1))) = true)
include hrun h

theorem does_dirdel_gone (hb : x.b = 0xFF) : Does (.dirdel x) (x.encL 0xDC) s (fun b t => Reaches x.d 1 0 b t
    ∧ t.core.dirs = b.core.dirs.filter (fun d => !dirHit s.part.pid (BitVec.ofNat 64 (b.opA (x.encL 0xDC) 2)) (BitVec.ofNat 32 (b.opC (x.encL 0xDC) 1)) d)) := by
  have hts : delThresholds (x.encL 0xDC) (atBody (x.encL 0xDC) s) = none := if_pos hb
  rw [← atBody_part (x.encL 0xDC) s] at h ⊢
  have hact := dirDel_gone h
  rw [← hts] at hact
  exact does_dirdel hrun hact rfl rfl (fun t hr hc => ⟨hr, congrArg Core.dirs hc⟩)

theorem does_dirdel_ghost (hb : x.b ≠ 0xFF) : Does (.dirdel x) (x.encL 0xDC) s (fun b t => Reaches x.d 1 0 b t
    ∧ t.core.dirs.any (dirHit s.part.pid (BitVec.ofNat 64 (b.opA (x.encL 0xDC) 2)) (BitVec.ofNat 32 (b.opC (x.encL 0xDC) 1))) = false
    ∧ ∀ d ∈ b.core.dirs, dirHit s.part.pid (BitVec.ofNat 64 (b.opA (x.encL 0xDC) 2)) (BitVec.ofNat 32 (b.opC (x.encL 0xDC) 1)) d = false → d.state = .live → d ∈ t.core.dirs) := by
  have hts : delThresholds (x.encL 0xDC) (atBody (x.encL 0xDC) s) = some (words 4 ((atBody (x.encL 0xDC) s).opB (x.encL 0xDC) 4)) := if_neg hb
  rw [← atBody_part (x.encL 0xDC) s] at h ⊢
  have hact := dirDel_ghost (words 4 ((atBody (x.encL 0xDC) s).opB (x.encL 0xDC) 4)) h
  rw [← hts] at hact
  refine does_dirdel hrun hact rfl rfl (fun t hr hc => ⟨hr, ?_⟩)
  rw [hc]
  exact dropGhosts_ghosted _ _ _
end

/-- A reply is on its way to the reply unit. -/
def withReply (r : Reply) (s : State) : State := { s with nextId := s.nextId + 1, replies := s.replies ++ [r] }

theorem bodyReply_sends {e : Enc} {b : State} {c : Nat} {serial : Word} {dev core : Nat} (hsrc : b.lau.source = .responder c serial dev core) (hrun : FirstRun b) :
    bodyReply e b = .ok (withEntry e 0 (words 2 (BitVec.ofNat 64 (b.opA e 2)).toNat) [0] b (withReply ⟨b.nextId, c, BitVec.ofNat 64 (b.opA e 2), serial, dev, core⟩ b)) := by
  have hpub := publish_withEntry (e := e) (addr := 0) (operand := words 2 (BitVec.ofNat 64 (b.opA e 2)).toNat)
    (act := fun s => .ok ([0], withReply ⟨s.nextId, c, BitVec.ofNat 64 (b.opA e 2), serial, dev, core⟩ s)) hrun rfl
  unfold withReply at hpub
  simp only [bodyReply, hsrc, hpub]
  rfl

/-- A responder's value goes to the reply unit. -/
theorem does_reply {c : Nat} {serial : Word} {dev core : Nat} (hrun : FirstRun (atBody (x.encL 0xDD) s)) (hsrc : (atBody (x.encL 0xDD) s).lau.source = .responder c serial dev core) :
    Does (.reply x) (x.encL 0xDD) s (fun b t => Continues b t ∧ t.thr.pend = shrunk b ∧ t.mem = b.mem
       ∧ t.replies = b.replies ++ [{ serial := b.nextId, census := c, value := BitVec.ofNat 64 (b.opA (x.encL 0xDD) 2), entry := serial, dev := dev, core := core }]) := by
  have hbody := bodyReply_sends (e := x.encL 0xDD) hsrc hrun
  refine does_continues (ps := []) rfl hbody ?_ (by simp) (fun u hcont hpend _ => ⟨hcont, hpend.trans (List.append_nil _), rfl, rfl⟩)
  exact ⟨rfl, rfl, (List.append_nil _).symm, rfl, rfl, ⟨rfl, rfl, rfl⟩, rfl, rfl, rfl, rfl⟩
end

/-- Settles O28: a census starts, an entry of the directory is put or taken out, and a responder's value is sent. -/
theorem censusInstructions : Obligations.CensusInstructions := by
  unfold Obligations.CensusInstructions
  intro x s
  refine ⟨fun h1 h2 h3 h4 hrun => ⟨fun hfull => ?full, fun hroom hs hv => ?noView, fun hroom hv => ?starts⟩,
    fun h1 h2 hrun => ⟨fun hbad => ?bad, fun h0 hheld => ?held, fun h0 hheld hfree => ?noRoom, fun i h0 hheld hfree => ?put⟩,
    fun hrun => ⟨fun hno => ?absent, fun hyes hb => ?deleted, fun hyes hb => ?ghost⟩, fun c serial dev core hrun hsrc => ?reply⟩
  case full => exact does_solicit hrun h1 h2 h3 h4 (startCensus_full _ _ _ _ _ _ hfull) rfl rfl (fun t hr hmem hcensuses => ⟨hr, hcensuses, hmem⟩)
  case noView => exact does_solicit hrun h1 h2 h3 h4 (startCensus_noView _ _ _ _ _ _ hroom hs hv) rfl rfl (fun t hr hmem hcensuses => ⟨hr, hcensuses, hmem⟩)
  case starts =>
    obtain ⟨t1, hstart, hthr, hmem, hgrp, hcensuses⟩ := startCensus_starts (field x.m.toNat 1 0) (field x.m.toNat 4 2) (BitVec.ofNat 64 ((atBody (x.encL 0xDA) s).opA (x.encL 0xDA) 2))
      ((atBody (x.encL 0xDA) s).opB (x.encL 0xDA) 1) ((atBody (x.encL 0xDA) s).opC (x.encL 0xDA) 1) (atBody (x.encL 0xDA) s) hroom hv rfl
    refine does_solicit hrun h1 h2 h3 h4 hstart hthr hgrp (fun t hr htm htc => ⟨hr, htm.trans hmem, _, htc.trans hcensuses, rfl, rfl, rfl, rfl, rfl, rfl, rfl, rfl, rfl, rfl, rfl, rfl, rfl, ?_⟩)
    intro d k ⟨hd, hk⟩
    exact List.mem_flatMap.mpr ⟨d, hd, List.mem_map.mpr ⟨k, hk, rfl⟩⟩
  case bad => exact does_dirput hrun h1 h2 (dirPut_bad hbad) rfl rfl (fun t hr hc => ⟨hr, congrArg Core.dirs hc⟩)
  case held => exact does_dirput hrun h1 h2 (dirPut_held h0 hheld) rfl rfl (fun t hr hc => ⟨hr, congrArg Core.dirs hc⟩)
  case noRoom => exact does_dirput hrun h1 h2 (dirPut_full h0 hheld hfree) rfl rfl (fun t hr hc => ⟨hr, congrArg Core.dirs hc⟩)
  case put => exact does_dirput hrun h1 h2 (dirPut_new h0 hheld hfree) rfl rfl (fun t hr hc => ⟨hr, congrArg Core.dirs hc⟩)
  case absent =>
    exact does_dirdel hrun (dirDel_none _ (by rw [atBody_part]; exact hno)) rfl rfl (fun t hr hc => ⟨hr, congrArg Core.dirs hc⟩)
  case deleted => exact does_dirdel_gone hrun hyes hb
  case ghost => exact does_dirdel_ghost hrun hyes hb
  case reply => exact does_reply hrun hsrc

end Sys2Proof.Claims
end

section
/-!
PROOFS. Launches from a thread, and the privileged page-table instructions (O27).
-/
namespace Sys2Proof.Claims
open Machine Bits Encoding

/-! ## launch (R229) -/

/-- A shared load of lines that hold no poison changes nothing, and reads the same once the thread's markers and fence differ. -/
theorem load_shared {l : Xlat} {n v : Nat} {s t : State} (h : s.load l n false = .ok (v, t)) :
    t = s ∧ ∀ m f, (marked m f s).load l n false = .ok (v, marked m f s) := by
  unfold State.load at h
  split at h
  · cases h
  · next hp =>
    obtain ⟨rfl, rfl⟩ := Prod.mk.inj (Except.ok.inj h)
    exact ⟨rfl, fun m f => if_neg hp⟩

theorem acceptLaunch_keeps {l : Launch} {priority : Nat} {s : State} (hsrc : l.source = .instr) :
    (s.acceptLaunch l priority).thr = s.thr ∧ (s.acceptLaunch l priority).grp = s.grp ∧ (s.acceptLaunch l priority).mem = s.mem := by
  simp [State.acceptLaunch, hsrc]

section
variable {l : Xlat} {arg v : Nat} {s t : State}

/-- The launch that a record asks for. -/
def askedLaunch (v arg : Nat) (s : State) : Launch := Launch.submitted s.part.dev s.part.pid (toBytes 256 v) (BitVec.ofNat 64 arg) .instr

variable (h : s.load l 256 false = .ok (v, t))
include h

theorem startLaunch_foreign (hown : field ((askedLaunch v arg s).fld 16 4) 8 4 ≠ s.part.pid) : startLaunch l arg s = .ok ([2], s) := by
  obtain ⟨rfl, -⟩ := load_shared h
  unfold askedLaunch at hown
  simp only [startLaunch, h, if_pos hown]

theorem startLaunch_bad (hown : field ((askedLaunch v arg s).fld 16 4) 8 4 = s.part.pid) (hok : (askedLaunch v arg s).recordOk s.part none = false) :
    startLaunch l arg s = .ok ([1], s) := by
  obtain ⟨rfl, -⟩ := load_shared h
  unfold askedLaunch at hown hok
  simp only [startLaunch, h, if_neg (not_not_intro hown), hok, Bool.not_false, if_true]

section
variable (hown : field ((askedLaunch v arg s).fld 16 4) 8 4 = s.part.pid) (hok : (askedLaunch v arg s).recordOk s.part none = true)
include hown hok

theorem startLaunch_full (hfull : 4096 ≤ s.deviceLaunches s.part.dev s.part.pid) : startLaunch l arg s = .ok ([3], s) := by
  obtain ⟨rfl, -⟩ := load_shared h
  unfold askedLaunch at hown hok
  simp only [startLaunch, h, if_neg (not_not_intro hown), hok, Bool.not_true, Bool.false_eq_true, if_false, ge_iff_le, if_pos hfull]

theorem startLaunch_starts (hroom : s.deviceLaunches s.part.dev s.part.pid < 4096) :
    startLaunch l arg s = .ok ([0], s.acceptLaunch (askedLaunch v arg s) (min (field ((askedLaunch v arg s).fld 16 4) 3 0) s.lau.priority)) := by
  obtain ⟨rfl, -⟩ := load_shared h
  unfold askedLaunch at hown hok ⊢
  simp only [startLaunch, h, if_neg (not_not_intro hown), hok, Bool.not_true, Bool.false_eq_true, if_false, ge_iff_le, if_neg (Nat.not_le.mpr hroom)]
end
end

/-- An accepted launch of a thread stands among the launches, in Waiting. -/
theorem askedLaunch_stands {v arg priority : Nat} {s : State} (hid : s.nextId ≠ 0) : ∃ n ∈ (s.acceptLaunch (askedLaunch v arg s) priority).launches,
    n.lid = s.nextId ∧ n.state = .waiting ∧ n.record = toBytes 256 v ∧ n.arg = BitVec.ofNat 64 arg ∧ n.source = .instr ∧ n.dev = s.part.dev ∧ n.pid = s.part.pid
      ∧ n.number = s.part.launchNo ∧ n.nbv = s.part.nbv ∧ n.priority = priority := by
  have hsrc : ∀ d p, (askedLaunch v arg s).source ≠ .queue d p := fun _ _ h => LaunchSource.noConfusion h
  refine ⟨_, (acceptLaunch_facts hsrc (Nat.pos_of_ne_zero hid)).2, rfl, rfl, rfl, rfl, rfl, rfl, rfl, ?_, ?_, rfl⟩
  · exact congrArg Part.launchNo (part?_self s)
  · exact congrArg Part.nbv (part?_self s)

section
variable {x : LX} {s s1 : State} {l : Xlat} {st : Word}
  (hg : (atBody (x.enc 0xE3) s).global { va := (atBody (x.enc 0xE3) s).opA (x.enc 0xE3) 2, size := 256, write := false, classes := [0, 1, 3], prot13 := false } = .ok (l, s1))
  (hst : (atBody (x.enc 0xE3) s).grp.staged = []) (hrun : FirstRun s1)
include hg hst hrun

/-- `launch` answers a status; the launches and the partition are as its answer leaves them. -/
theorem does_launch {more : State → Prop} (hact : ∀ m f, ∃ s3, startLaunch l ((atBody (x.enc 0xE3) s).opB (x.enc 0xE3) 1) (marked m f s1) = .ok ([st], s3)
      ∧ s3.thr = (marked m f s1).thr ∧ s3.grp = s1.grp ∧ s3.mem = s1.mem ∧ ∀ t : State, t.launches = s3.launches → t.part = s3.part → more t) :
    Does (.launch x) (x.enc 0xE3) s (fun b t => Replied (x.enc 0xE3) [st] s b t
      ∧ Logged (x.enc 0xE3) ((atBody (x.enc 0xE3) s).opA (x.enc 0xE3) 2) (words 1 ((atBody (x.enc 0xE3) s).opB (x.enc 0xE3) 1)) [st] s1 t ∧ t.mem = s1.mem ∧ more t) := by
  obtain ⟨hthr, hgrp, -⟩ := global_facts hg
  rw [← hgrp] at hst
  obtain ⟨f, hf⟩ := publishRule_unstaged (rel := true) hst
  obtain ⟨s3, hstart, hthr3, hgrp3, hmem3, hmore⟩ := hact s1.thr.markers f
  have hpub := publish_withEntry (e := x.enc 0xE3) (addr := (atBody (x.enc 0xE3) s).opA (x.enc 0xE3) 2) (operand := words 1 ((atBody (x.enc 0xE3) s).opB (x.enc 0xE3) 1))
    (s := marked s1.thr.markers f s1) hrun hstart
  have hbody : bodyLaunch (x.enc 0xE3) (atBody (x.enc 0xE3) s) = .ok ((withEntry (x.enc 0xE3) ((atBody (x.enc 0xE3) s).opA (x.enc 0xE3) 2)
      (words 1 ((atBody (x.enc 0xE3) s).opB (x.enc 0xE3) 1)) [st] (marked s1.thr.markers f s1) s3).replyD (x.enc 0xE3) 1 (ofWords [st])) := by
    simp only [bodyLaunch, hg, hf, hpub]
  refine does_replied_marked (us := (atBody (x.enc 0xE3) s).thr.unacked) (m := s1.thr.markers) (f := f) rfl hbody ?_ (fun u hr => ⟨?_, ?_, hmem3, hmore _ rfl rfl⟩)
  · rw [withEntry_thr, hthr3, ← hthr]
    rfl
  · rw [← words_ofWords_one st]
    exact hr
  · rw [Logged]
    exact congrArg (fun g : Group => g.log ++ _) hgrp3

/-- `launch` that starts nothing. -/
theorem does_launch_none (hact : ∀ m f, startLaunch l ((atBody (x.enc 0xE3) s).opB (x.enc 0xE3) 1) (marked m f s1) = .ok ([st], marked m f s1)) :
    Does (.launch x) (x.enc 0xE3) s (fun b t => Replied (x.enc 0xE3) [st] s b t
      ∧ Logged (x.enc 0xE3) ((atBody (x.enc 0xE3) s).opA (x.enc 0xE3) 2) (words 1 ((atBody (x.enc 0xE3) s).opB (x.enc 0xE3) 1)) [st] s1 t ∧ t.mem = s1.mem
      ∧ t.launches = s1.launches ∧ t.part = s1.part) :=
  does_launch hg hst hrun (fun m f => ⟨_, hact m f, rfl, rfl, rfl, fun _ hl hp => ⟨hl, hp⟩⟩)
end

/-! ## mbind, tlbinv (R317) -/

section
variable {p : Part} {l va entry : Nat} {s : State}

theorem bindEntry_noPlace (h : p.ptroot.toNat % 2 = 0 ∨ entryPlace s.mem p.dev va l 5 (field p.ptroot.toNat 51 12 * 2 ^ 12) = none) : bindEntry p l va entry s = .ok ([1], s) := by
  have hnone : (if bit p.ptroot.toNat 0 then entryPlace s.mem p.dev va l 5 (field p.ptroot.toNat 51 12 * 2 ^ 12) else none) = none := by
    rcases h with h | h
    · rw [if_neg (by simp [bit, Nat.testBit_zero, h])]
    · rw [h, ite_self]
  simp only [bindEntry, hnone]

variable {k : Nat} (hroot : p.ptroot.toNat % 2 = 1) (hk : entryPlace s.mem p.dev va l 5 (field p.ptroot.toNat 51 12 * 2 ^ 12) = some k)
include hroot hk

theorem bindPlace : (if bit p.ptroot.toNat 0 then entryPlace s.mem p.dev va l 5 (field p.ptroot.toNat 51 12 * 2 ^ 12) else none) = some k := by
  rw [if_pos (by simp [bit, Nat.testBit_zero, hroot]), hk]

theorem bindEntry_unaligned (h : va % 2 ^ levelShift l ≠ 0) : bindEntry p l va entry s = .ok ([2], s) := by
  simp only [bindEntry, bindPlace hroot hk, if_pos h]

theorem bindEntry_malformed (ha : va % 2 ^ levelShift l = 0) (hv : Pte.valid entry = true) (hm : malformedAt l entry = true) : bindEntry p l va entry s = .ok ([3], s) := by
  simp only [bindEntry, bindPlace hroot hk, if_neg (not_not_intro ha), hv, hm, Bool.and_self, if_true]

theorem bindEntry_binds (ha : va % 2 ^ levelShift l = 0) (hv : Pte.valid entry = true → malformedAt l entry = false) : ∃ t, bindEntry p l va entry s = .ok ([0], t)
    ∧ t.thr = s.thr ∧ t.grp = s.grp ∧ Written k (toBytes 16 entry) s.mem t.mem := by
  have hno : ¬(Pte.valid entry && malformedAt l entry) = true := by
    rw [Bool.and_eq_true]
    rintro ⟨h1, h2⟩
    rw [hv h1] at h2
    cases h2
  have hprom : ∀ d o n, (s.promotePage d o n).thr = s.thr ∧ (s.promotePage d o n).grp = s.grp ∧ (s.promotePage d o n).mem = s.mem := by
    intro d o n
    unfold State.promotePage
    split <;> exact ⟨rfl, rfl, rfl⟩
  obtain ⟨s1, hs1, hthr, hgrp, hmem⟩ : ∃ s1, (if l = 0 then s.promotePage p.dev (Mem.nat s.mem k 16) entry else s) = s1 ∧ s1.thr = s.thr ∧ s1.grp = s.grp ∧ s1.mem = s.mem := by
    refine ⟨_, rfl, ?_⟩
    split
    · exact hprom _ _ _
    · exact ⟨rfl, rfl, rfl⟩
  refine ⟨s1.perform k (toBytes 16 entry), ?_, hthr, hgrp, ?_⟩
  · simp only [bindEntry, bindPlace hroot hk, if_neg (not_not_intro ha), if_neg hno, hs1]
  · rw [← hmem]
    exact written_write _ _ _
end

section
variable {x : LX} {s : State} {st : Word}

/-- The level of an entry that `mbind` writes. -/
def bindLevel (x : LX) (b : State) : Nat := if field x.m.toNat 7 5 = 0 then Pte.level (b.opB (x.encL 0xE7) 4) else field x.m.toNat 7 5

theorem bodyMbind_replies {e : Enc} {b s1 s2 s3 : State} {ret : List Word} (hm : b.release 4 = .ok s1) (hf : s1.publishRule true = .ok s2)
    (hp : s2.publish (pubOp e) (b.opA e 2) (words 4 (b.opB e 4)) (bindEntry (s1.part? s1.grp.dev (field e.m.toNat 4 0))
      (if field e.m.toNat 7 5 = 0 then Pte.level (b.opB e 4) else field e.m.toNat 7 5) (b.opA e 2) (b.opB e 4)) = .ok (ret, s3)) :
    bodyMbind e b = .ok (s3.replyD e 1 (ofWords ret)) := by
  simp only [bodyMbind, hm, hf, hp]

theorem does_mbind {more : State → State → Prop} (hrel : (atBody (x.encL 0xE7) s).released 4 = true) (hst : (atBody (x.encL 0xE7) s).grp.staged = []) (hrun : FirstRun (atBody (x.encL 0xE7) s))
    (hact : ∀ m f, ∃ t, bindEntry ((atBody (x.encL 0xE7) s).part? (atBody (x.encL 0xE7) s).grp.dev (field x.m.toNat 4 0)) (bindLevel x (atBody (x.encL 0xE7) s))
        ((atBody (x.encL 0xE7) s).opA (x.encL 0xE7) 2) ((atBody (x.encL 0xE7) s).opB (x.encL 0xE7) 4) (marked m f (atBody (x.encL 0xE7) s)) = .ok ([st], t)
      ∧ t.thr = (marked m f (atBody (x.encL 0xE7) s)).thr ∧ t.grp = (atBody (x.encL 0xE7) s).grp ∧ ∀ t' : State, t'.mem = t.mem → more (atBody (x.encL 0xE7) s) t') :
    Does (.mbind x) (x.encL 0xE7) s (fun b t => Replied (x.encL 0xE7) [st] s b t
      ∧ Logged (x.encL 0xE7) ((atBody (x.encL 0xE7) s).opA (x.encL 0xE7) 2) (words 4 ((atBody (x.encL 0xE7) s).opB (x.encL 0xE7) 4)) [st] b t ∧ more b t) := by
  obtain ⟨m, hm⟩ := release_marked hrel
  obtain ⟨f, hf⟩ := publishRule_unstaged (rel := true) (s := marked m (atBody (x.encL 0xE7) s).thr.fenced (atBody (x.encL 0xE7) s)) hst
  obtain ⟨t, hbind, hthr, hgrp, hmore⟩ := hact m f
  have hpub := publish_withEntry (e := x.encL 0xE7) (addr := (atBody (x.encL 0xE7) s).opA (x.encL 0xE7) 2) (operand := words 4 ((atBody (x.encL 0xE7) s).opB (x.encL 0xE7) 4))
    (s := marked m f (atBody (x.encL 0xE7) s)) hrun hbind
  have hbody : bodyMbind (x.encL 0xE7) (atBody (x.encL 0xE7) s) = .ok ((withEntry (x.encL 0xE7) ((atBody (x.encL 0xE7) s).opA (x.encL 0xE7) 2)
      (words 4 ((atBody (x.encL 0xE7) s).opB (x.encL 0xE7) 4)) [st] (marked m f (atBody (x.encL 0xE7) s)) t).replyD (x.encL 0xE7) 1 (ofWords [st])) := by
    exact bodyMbind_replies hm hf hpub
  refine does_replied_marked (us := (atBody (x.encL 0xE7) s).thr.unacked) (m := m) (f := f) rfl hbody hthr (fun u hr => ⟨?_, ?_, hmore _ rfl⟩)
  · rw [← words_ofWords_one st]
    exact hr
  · rw [Logged]
    exact congrArg (fun g : Group => g.log ++ _) hgrp
end

theorem dropPages_kept (dev pid first count : Nat) (s : State) : (s.dropPages dev pid first count).thr = s.thr ∧ (s.dropPages dev pid first count).mem = s.mem := ⟨rfl, rfl⟩

/-- The first page that `tlbinv` names, and how many. -/
def invRange (x : LX) (b : State) : Nat × Nat := (if bit x.m.toNat 5 then 0 else b.opA (x.enc 0xE8) 2 / 2 ^ 16, if bit x.m.toNat 5 then 2 ^ 48 else b.opB (x.enc 0xE8) 1)

theorem bodyTlbinv_waits {x : LX} {b : State} (h : bit x.m.toNat 5 = false → 1 ≤ b.opB (x.enc 0xE8) 1 ∧ b.opB (x.enc 0xE8) 1 ≤ 2 ^ 24) : ∃ t : State,
    bodyTlbinv (x.enc 0xE8) b = .ok { t with thr := { t.thr with status := .waiting (.tlbinv (field x.m.toNat 4 0) (invRange x b).1 (invRange x b).2), waitSince := t.dev.clk } }
      ∧ t.thr = b.thr ∧ t.mem = b.mem := by
  have hok : ¬(!bit x.m.toNat 5 && (decide (b.opB (x.enc 0xE8) 1 = 0) || decide (2 ^ 24 < b.opB (x.enc 0xE8) 1))) = true := by
    cases ha : bit x.m.toNat 5 with
    | true => simp
    | false =>
      obtain ⟨h1, h2⟩ := h ha
      simp only [Bool.not_false, Bool.true_and, Bool.or_eq_true, decide_eq_true_eq, not_or, Nat.not_lt]
      exact ⟨by omega, h2⟩
  have hxm : (x.enc 0xE8).m = x.m := by unfold LX.enc; split <;> rfl
  obtain ⟨c, hc⟩ := choose_two b
  refine ⟨if c = 1 then (drew b).dropPages (drew b).grp.dev (field x.m.toNat 4 0) (invRange x b).1 (invRange x b).2 else drew b, ?_, ?_⟩
  · simp only [bodyTlbinv, hxm, if_neg hok, hc, invRange]
  · split
    · exact dropPages_kept _ _ _ _ _
    · exact ⟨rfl, rfl⟩

theorem does_tlbinv {x : LX} {s : State} (h : bit x.m.toNat 5 = false → 1 ≤ (atBody (x.enc 0xE8) s).opB (x.enc 0xE8) 1 ∧ (atBody (x.enc 0xE8) s).opB (x.enc 0xE8) 1 ≤ 2 ^ 24) :
    Does (.tlbinv x) (x.enc 0xE8) s (fun b t => t.mem = b.mem ∧ Waits (.tlbinv (field x.m.toNat 4 0) (invRange x b).1 (invRange x b).2) b.thr.pc s t) := by
  obtain ⟨t, hbody, hthr, hmem⟩ := bodyTlbinv_waits h
  refine does_waits_of rfl hbody rfl ?_ (fun u hw => ⟨hmem, hw⟩)
  refine ⟨?_, rfl, ?_, ?_, ?_, ⟨?_, ?_, ?_⟩, ?_, ?_, ?_, ?_⟩
  all_goals simp only [hthr, List.append_nil]

/-- An instruction of device firmware alone fails its check elsewhere. -/
theorem illegal_unprivileged {e : Enc} {grant : Nat} {off : Bool} (h : e.op = 0xE7 ∨ e.op = 0xE8) : ∃ d, illegal e grant off false = some d := by
  rw [← Option.isSome_iff_exists, Option.isSome_iff_ne_none]
  intro hnone
  unfold illegal at hnone
  dsimp only at hnone
  split at hnone
  · cases hnone
  · split at hnone
    · cases hnone
    · rw [firstSome_eq_none] at hnone
      simp only [List.mem_cons, List.not_mem_nil, or_false, forall_eq_or_imp, forall_eq, flagIf_eq_none] at hnone
      obtain ⟨-, -, -, -, -, -, -, -, -, -, -, -, -, -, hpriv, -⟩ := hnone
      rcases h with h | h <;> simp [h] at hpriv

theorem denied_unprivileged {i : Instr} {e : Enc} {s : State} (hi : i.enc? = some e) (h : e.op = 0xE7 ∨ e.op = 0xE8) (hready : s.thr.status = .ready) (hc : CanTrap s)
    (hp : s.lau.privileged = false) : ∃ t d, exec i s = .next t ∧ s.illegalHere e = some d ∧ Trapped causeIllegal d 0 (toWords e) s t := by
  obtain ⟨d, hd⟩ := illegal_unprivileged (grant := s.thr.grant) (off := offBad e s.thr.pc) h
  have hill : s.illegalHere e = some d := by rw [State.illegalHere, hp, hd]
  obtain ⟨t, ht, htrap⟩ := illegalInstructionTraps i e s d hi hready hill hc
  exact ⟨t, d, ht, hill, htrap⟩

/-- Settles O27: `launch` answers its status, `mbind` writes one entry, `tlbinv` waits; the last two belong to device firmware. -/
theorem launchesAndMappings : Obligations.LaunchesAndMappings := by
  unfold Obligations.LaunchesAndMappings
  intro x s
  refine ⟨fun l s1 v s2 hg hst hrun hload => ⟨fun hown => ?foreign, fun hown hok => ?badRecord, fun hown hok hfull => ?full, fun hown hok hroom hid => ?starts⟩,
    fun hrel hst hrun => ⟨fun h => ?noPlace, fun k hroot hk => ⟨fun ha => ?unaligned, fun ha hv hm => ?malformed, fun ha hv => ?binds⟩⟩, fun hrange => ?tlbinv,
    fun hr hc hp => denied_unprivileged rfl (Or.inl rfl) hr hc hp, fun hr hc hp => denied_unprivileged rfl (Or.inr (LX.enc_op _ _)) hr hc hp⟩
  case foreign => exact does_launch_none hg hst hrun (fun m f => startLaunch_foreign ((load_shared hload).2 m f) (of_decide_eq_false hown))
  case badRecord => exact does_launch_none hg hst hrun (fun m f => startLaunch_bad ((load_shared hload).2 m f) (of_decide_eq_true hown) hok)
  case full => exact does_launch_none hg hst hrun (fun m f => startLaunch_full ((load_shared hload).2 m f) (of_decide_eq_true hown) hok hfull)
  case starts =>
    refine does_launch hg hst hrun (fun m f => ⟨_, startLaunch_starts ((load_shared hload).2 m f) (of_decide_eq_true hown) hok hroom, ?_⟩)
    obtain ⟨hthr, hgrp, hmem⟩ := acceptLaunch_keeps (l := askedLaunch v ((atBody (x.enc 0xE3) s).opB (x.enc 0xE3) 1) (marked m f s1))
      (priority := min (field ((askedLaunch v ((atBody (x.enc 0xE3) s).opB (x.enc 0xE3) 1) (marked m f s1)).fld 16 4) 3 0) s1.lau.priority) (s := marked m f s1) rfl
    refine ⟨hthr, hgrp, hmem, fun t hl _ => ?_⟩
    rw [hl]
    exact askedLaunch_stands hid
  case noPlace => exact does_mbind hrel hst hrun (fun m f => ⟨_, bindEntry_noPlace h, rfl, rfl, fun _ hm => hm⟩)
  case unaligned => exact does_mbind hrel hst hrun (fun m f => ⟨_, bindEntry_unaligned hroot hk ha, rfl, rfl, fun _ hm => hm⟩)
  case malformed => exact does_mbind hrel hst hrun (fun m f => ⟨_, bindEntry_malformed hroot hk ha hv hm, rfl, rfl, fun _ hm => hm⟩)
  case binds =>
    refine does_mbind hrel hst hrun (fun m f => ?_)
    obtain ⟨t, hbind, hthr, hgrp, hw⟩ := bindEntry_binds (s := marked m f (atBody (x.encL 0xE7) s)) hroot hk ha hv
    exact ⟨t, hbind, hthr, hgrp, fun t' ht => by rw [ht]; exact hw⟩
  case tlbinv => exact does_tlbinv hrange

end Sys2Proof.Claims
end

section
/-!
PROOFS. Forks of contexts, reports on them, and the handle table (O25).
-/
namespace Sys2Proof.Claims
open Machine Bits Encoding

/-! ## kvfork (R284) -/

/-- The thread and the group are as they were. -/
def SameActor (s t : State) : Prop := t.thr = s.thr ∧ t.grp = s.grp

theorem SameActor.trans {s t u : State} (h : SameActor s t) (h' : SameActor t u) : SameActor s u := ⟨h'.1.trans h.1, h'.2.trans h.2⟩

theorem sameActor_sharePages (d w : Nat) (es : List SliceEntry) : ∀ (done : List SliceEntry) (s : State), SameActor s (sharePages d w done es s).2 := by
  induction es with
  | nil => exact fun _ _ => ⟨rfl, rfl⟩
  | cons e es ih =>
    intro done s
    unfold sharePages
    split
    · exact ih _ _
    · have hfresh : SameActor s (if e.page = 0 then s.freshId else (e.page, s)).2 := by split <;> exact ⟨rfl, rfl⟩
      exact (hfresh.trans ⟨State.updDev_thr .., State.updDev_grp ..⟩).trans (ih _ _)

theorem sameActor_shareSlices (w : Nat) (l : List (Nat × List SliceEntry)) : ∀ s : State, SameActor s (shareSlices w l s).2 := by
  induction l with
  | nil => exact fun _ => ⟨rfl, rfl⟩
  | cons p l ih => exact fun s => (sameActor_sharePages p.1 w p.2 [] s).trans (ih _)

theorem sameActor_updSeq (id : Word) (f : SeqCtx → SeqCtx) (s : State) : SameActor s (s.updSeq id f) := by
  unfold State.updSeq
  split
  · exact ⟨rfl, rfl⟩
  · exact ⟨State.updDev_thr .., State.updDev_grp ..⟩

theorem sameActor_copyTail (a b : Nat) (seq to_ : Word) (blk n : Nat) (s : State) : SameActor s (s.copyTail a b seq to_ blk n) := by
  unfold State.copyTail
  split <;> exact ⟨rfl, rfl⟩

section
variable {src : Word} {s : State}

theorem forkSeq_none (h : s.seqCtx s.part.pid src = none ∨ s.dev.freeSeq = none) : forkSeq src s = .ok ([0xFFFFFFFF], s) := by
  unfold forkSeq
  split
  · next h1 h2 => rcases h with h | h
                  · rw [h] at h1; cases h1
                  · rw [h] at h2; cases h2
  · rfl

/-- A fork of a source of this device makes the context of its index, with the source's committed tokens. -/
theorem forkSeq_forks {q : SeqCtx} {v : View} {id : Word} (hq : s.seqCtx s.part.pid src = some q) (hv : q.cur = some v) (hs : q.succ = 0) (hid : s.dev.freeSeq = some id)
    (hhome : field src.toNat 25 16 = s.dev.num) : ∃ t slices, forkSeq src s = .ok ([id], t.addSeq (SeqCtx.new id q.pid q.cls q.tw q.tn q.lenc q.tokens q.tailIds v.members slices)) ∧ SameActor s t := by
  have href : SameActor s (s.refAt (field src.toNat 25 16) q.pid q.tokens true) := ⟨State.updPart_thr .., State.updPart_grp ..⟩
  refine ⟨?t, ?slices, ?forks, ?same⟩
  case forks =>
    simp only [forkSeq, hq, hid, hv, if_neg (not_not_intro hs), if_pos hhome]
    rfl
  case same => exact ((href.trans (sameActor_shareSlices _ _ _)).trans (sameActor_updSeq _ _ _)).trans (sameActor_copyTail _ _ _ _ _ _ _)
end

section
variable {cls n : Nat} {pr tr : DWord} {s : State}

theorem forkPrefix_none (h : s.part.classUsable cls = false ∨ s.dev.freeSeq = none) : forkPrefix cls pr tr n s = .ok ([0xFFFFFFFF], s) := by
  unfold forkPrefix
  dsimp only
  split
  · next h1 h2 => rcases h with h | h
                  · rw [h] at h1; cases h1
                  · rw [h] at h2; cases h2
  · rfl

theorem forkPrefix_empty {id : Word} (hu : s.part.classUsable cls = true) (hid : s.dev.freeSeq = some id) : forkPrefix cls 0 0 0 s = .ok ([id], s.addSeq
    (SeqCtx.new id s.part.pid cls ((s.part.seqClass cls).tw.toNat % 2 ^ 24) ((s.part.seqClass cls).tn.toNat % 2 ^ 24) 0 0 [] [s.dev.num] [[]])) := by
  simp only [forkPrefix, hu, hid, and_self, if_true, Nat.zero_mul]
end

section
variable {x : LX} {s : State}

/-- What `kvfork` publishes. -/
def forkAct (x : LX) (b : State) : State → Except Stop (List Word × State) :=
  if bit x.m.toNat 0 then forkPrefix (field x.m.toNat 7 4) (BitVec.ofNat 64 (b.opA (x.encL 0xD8) 4)) (BitVec.ofNat 64 (b.opA (x.encL 0xD8) 4 / 2 ^ 64)) (b.opB (x.encL 0xD8) 1)
  else forkSeq (BitVec.ofNat 32 (b.opA (x.encL 0xD8) 1))

/-- The operand that `kvfork` publishes. -/
def forkOperand (x : LX) (b : State) : List Word := if bit x.m.toNat 0 then words 4 (b.opA (x.encL 0xD8) 4) ++ words 1 (b.opB (x.encL 0xD8) 1) else []

theorem bodyKvfork_replies {b s3 : State} {ret : List Word}
    (h : b.publish (pubOp (x.encL 0xD8)) (if bit x.m.toNat 0 then 0 else b.opA (x.encL 0xD8) 1) (forkOperand x b) (forkAct x b) = .ok (ret, s3)) :
    bodyKvfork (x.encL 0xD8) b = .ok (s3.replyD (x.encL 0xD8) 1 (ofWords ret)) := by
  unfold forkOperand forkAct at h
  cases hm : bit x.m.toNat 0 <;> simp only [hm, Bool.false_eq_true, if_true, if_false] at h <;>
    simp only [bodyKvfork, show (x.encL 0xD8).m = x.m from rfl, hm, Bool.false_eq_true, if_true, if_false, h]

theorem does_kvfork {v : Word} {s2 : State} {P : State → State → Prop} (hrun : FirstRun (atBody (x.encL 0xD8) s)) (hact : forkAct x (atBody (x.encL 0xD8) s) (atBody (x.encL 0xD8) s) = .ok ([v], s2))
    (hsame : SameActor (atBody (x.encL 0xD8) s) s2)
    (hP : ∀ t : State, Replied (x.encL 0xD8) [v] s (atBody (x.encL 0xD8) s) t → Logged (x.encL 0xD8) (if bit x.m.toNat 0 then 0 else (atBody (x.encL 0xD8) s).opA (x.encL 0xD8) 1)
      (forkOperand x (atBody (x.encL 0xD8) s)) [v] (atBody (x.encL 0xD8) s) t → t.mem = s2.mem → t.dev = s2.dev → t.part = s2.part → P (atBody (x.encL 0xD8) s) t) :
    Does (.kvfork x) (x.encL 0xD8) s P :=
  does_publishes (n := 1) rfl hrun rfl (fun _ h => bodyKvfork_replies h) hact rfl hsame.1 (congrArg Group.log hsame.2) (fun _ hr hl => hP _ hr hl rfl rfl rfl)
end

/-! ## kvinfo (R285) -/

/-- A published write whose answer is left pending. -/
theorem does_laterK_published {i : Instr} {e : Enc} {s s2 : State} {body : Body} {addr n v : Nat} {operand ret : List Word} {act : State → Except Stop (List Word × State)}
    {P : State → State → Prop} (hi : exec i s = s.issue false body e) (hrun : FirstRun (atBody e s))
    (hb : ∀ s3, (atBody e s).publish (pubOp e) addr operand act = .ok (ret, s3) → body e (atBody e s) = .ok (s3.laterK e n (ofWords ret)))
    (hact : act (atBody e s) = .ok (ret, s2)) (hthr : s2.thr = (atBody e s).thr) (hid : s2.nextId = (atBody e s).nextId) (hret : words n (ofWords ret) = words n v)
    (hP : ∀ t, Continues (atBody e s) t → t.mem = s2.mem → t.dev = s2.dev → t.thr.pend = shrunk (atBody e s) ++ [loadPending e n v false 0 false (atBody e s)] → P (atBody e s) t) :
    Does i e s P := by
  have hbody := hb _ (publish_withEntry hrun hact)
  rw [State.laterK, hret] at hbody
  have hon := onward_later (e := e) (b := atBody e s) (s1 := withEntry e addr operand ret (atBody e s) s2) (words n v) n 0 false false hthr
  have hp : ({ loadPending e n 0 false 0 false (withEntry e addr operand ret (atBody e s) s2) with vals := words n v } : Pending) = loadPending e n v false 0 false (atBody e s) := by
    simp only [loadPending, withEntry, hid]
  rw [hp] at hon
  exact does_continues hi hbody hon (loadPending_new _ _ _ _ _ _ _) (fun u hcont hpend _ => hP _ hcont rfl rfl hpend)

theorem does_laterK {i : Instr} {e : Enc} {s : State} {body : Body} {n v : Nat} (hi : exec i s = s.issue false body e) (hb : body e (atBody e s) = .ok ((atBody e s).laterK e n v)) :
    Does i e s (fun b t => Leaves (loadPending e n v false 0 false b) b t) :=
  does_ok _ hi _ hb (fun hs hq => later_leaves (words n v) n 0 0 false false false false hs hq)

section
variable {e : Enc} {b : State}

theorem infoBlock_none {n : Nat} {f : Nat → Option SliceEntry → Nat} (h : b.infoCtx e = none) : infoBlock n f e b = .ok (b.laterK e n 0) := by
  simp only [infoBlock, h]

theorem infoBlock_entry {n : Nat} {f : Nat → Option SliceEntry → Nat} {q : SeqCtx} {v : View} {en : SliceEntry} (h : b.infoCtx e = some q) (hlt : b.opB e 1 < q.lenc / (b.seqCls q).block)
    (hv : b.reportView q = some v) (he : v.entry? (b.opB e 1) = some en) : infoBlock n f e b = .ok (b.laterK e n (f (b.opB e 1 % v.members.length) (some en))) := by
  simp only [infoBlock, h, if_neg (Nat.not_le.mpr hlt), hv, he]
end

theorem seqCls_atBody (e : Enc) (s : State) (q : SeqCtx) : (atBody e s).seqCls q = s.seqCls q := by rw [atBody_eq]; rfl

/-! ## The handle table (Table 19.7) -/

theorem handle_insert (v : Device) (i j : Nat) (en : HandleEntry) : ({ v with handles := Bits.insert i en v.handles } : Device).handle j = if j = i then en else v.handle j := by
  unfold Device.handle
  rw [lookup_insert]
  split <;> rfl

/-- A valid entry is one that the table lists. -/
theorem handle_valid_mem {v : Device} {i : Nat} (h : (v.handle i).valid = true) : i ∈ v.handles.map Prod.fst := by
  unfold Device.handle at h
  cases hl : lookup i v.handles with
  | none => rw [hl] at h; cases h
  | some en => exact List.mem_map.mpr ⟨(i, en), lookup_mem hl, rfl⟩

/-- The lowest entry that is not valid is at most one past the number of entries. -/
theorem handle_lowest {v : Device} {i : Nat} (h : ∀ j, 1 ≤ j → j < i → (v.handle j).valid = true) : i ≤ v.handles.length + 1 := by
  have hsub : Finset.Ico 1 i ⊆ (v.handles.map Prod.fst).toFinset := by
    intro j hj
    obtain ⟨h1, h2⟩ := Finset.mem_Ico.mp hj
    exact List.mem_toFinset.mpr (handle_valid_mem (h j h1 h2))
  have hcard := (Finset.card_le_card hsub).trans (List.toFinset_card_le _)
  rw [Nat.card_Ico, List.length_map] at hcard
  omega

theorem mint_find {v : Device} {i : Nat} (h1 : 1 ≤ i) (h2 : i < 2 ^ 20) (hi : (v.handle i).valid = false) (hlow : ∀ j, 1 ≤ j → j < i → (v.handle j).valid = true) :
    (List.range (v.handles.length + 1)).find? (fun i => decide (i + 1 < 2 ^ 20) && !(v.handle (i + 1)).valid) = some (i - 1) := by
  have hle := handle_lowest hlow
  have hsucc : i - 1 + 1 = i := Nat.sub_add_cancel h1
  rw [List.find?_range_eq_some]
  refine ⟨?_, List.mem_range.mpr (by omega), fun j hj => ?_⟩
  · rw [hsucc, hi]
    simpa using h2
  · rw [hlow (j + 1) (by omega) (by omega)]
    simp

/-- The entry that `kvinfo.mint` writes. -/
def mintedEntry (sid : Word) (off len gen perm : Nat) : HandleEntry := { seq := sid, off := off, len := len, gen := gen, write := bit perm 2, read := bit perm 1, valid := true }

/-- The handle of an entry. -/
def handleOf (pid gen i bound : Nat) : Nat := pid * 2 ^ 56 + gen * 2 ^ 44 + i * 2 ^ 24 + bound

theorem mintHandle_mints {sid : Word} {bound off len perm i : Nat} {s : State} (h1 : 1 ≤ i) (h2 : i < 2 ^ 20) (hi : (s.dev.handle i).valid = false)
    (hlow : ∀ j, 1 ≤ j → j < i → (s.dev.handle j).valid = true) : mintHandle sid bound off len perm s = .ok (words 2 (handleOf s.part.pid (s.dev.handle i).gen i bound),
      { s with dev := { s.dev with handles := Bits.insert i (mintedEntry sid off len (s.dev.handle i).gen perm) s.dev.handles } }) := by
  have hsucc : i - 1 + 1 = i := Nat.sub_add_cancel h1
  simp only [mintHandle, mint_find h1 h2 hi hlow, hsucc]
  rfl

theorem revokeHandle_revokes {h : Nat} {s : State} (ht : handleTenant h = s.part.pid) (h0 : handleIndex h ≠ 0) (hv : (s.dev.handle (handleIndex h)).valid = true)
    (hg : (s.dev.handle (handleIndex h)).gen = handleGen h) : revokeHandle h s = .ok ([0], { s with dev := { s.dev with
      handles := Bits.insert (handleIndex h) { s.dev.handle (handleIndex h) with valid := false, gen := ((s.dev.handle (handleIndex h)).gen + 1) % 4096 } s.dev.handles } }) := by
  refine if_neg ?_
  simp [ht, h0, hv, hg]

theorem revokeHandle_refused {h : Nat} {s : State} (hbad : handleTenant h ≠ s.part.pid ∨ handleIndex h = 0 ∨ (s.dev.handle (handleIndex h)).valid = false ∨ (s.dev.handle (handleIndex h)).gen ≠ handleGen h) :
    revokeHandle h s = .ok ([1], s) := by
  refine if_pos ?_
  simpa [or_assoc] using hbad

theorem bodyInfoMint_leaves {e : Enc} {b s3 : State} {q : SeqCtx} {ret : List Word} (hq : b.infoCtx e = some q) (hoff : field (b.opB e 4) 63 32 % 16 = 0) (hlen : field (b.opB e 4) 95 64 % 16 = 0)
    (h16 : 16 ≤ field (b.opB e 4) 95 64) (hfit : field (b.opB e 4) 63 32 + field (b.opB e 4) 95 64 ≤ (b.seqCls q).bytes) (hbound : field (b.opB e 4) 31 0 < 2 ^ 24)
    (h : b.publish (pubOp e) q.id.toNat (words 4 (b.opB e 4)) (mintHandle q.id (field (b.opB e 4) 31 0) (field (b.opB e 4) 63 32) (field (b.opB e 4) 95 64) (field (b.opB e 4) 127 96)) = .ok (ret, s3)) :
    bodyInfoMint e b = .ok (s3.laterK e 2 (ofWords ret)) := by
  have hok : ¬(field (b.opB e 4) 63 32 % 16 ≠ 0 || field (b.opB e 4) 95 64 % 16 ≠ 0 || field (b.opB e 4) 95 64 < 16 || (b.seqCls q).bytes < field (b.opB e 4) 95 64 || (b.seqCls q).bytes < field (b.opB e 4) 63 32 + field (b.opB e 4) 95 64
      || 2 ^ 24 ≤ field (b.opB e 4) 31 0) = true := by
    simp only [Bool.or_eq_true, decide_eq_true_eq, not_or, Nat.not_lt, Nat.not_le, ne_eq, not_not]
    exact ⟨⟨⟨⟨⟨hoff, hlen⟩, h16⟩, by omega⟩, hfit⟩, hbound⟩
  simp only [bodyInfoMint, hq, if_neg hok, h]

theorem bodyInfoRevoke_leaves {e : Enc} {b s3 : State} {ret : List Word} (h : b.publish (pubOp e) (b.opA e 2) [] (revokeHandle (b.opA e 2)) = .ok (ret, s3)) :
    bodyInfoRevoke e b = .ok (s3.laterK e 1 (ofWords ret)) := by
  simp only [bodyInfoRevoke, h]

theorem infoCtx_atBody {e : Enc} {s : State} {o : Option SeqCtx} (h : (atBody e s).seqCtx s.part.pid (BitVec.ofNat 32 ((atBody e s).opA e 1)) = o) : (atBody e s).infoCtx e = o := by
  rw [State.infoCtx, atBody_part]
  exact h

theorem does_mint {i : Instr} {e : Enc} {s : State} {q : SeqCtx} {n : Nat} (hi : exec i s = s.issue false bodyInfoMint e)
    (hq : (atBody e s).seqCtx s.part.pid (BitVec.ofNat 32 ((atBody e s).opA e 1)) = some q) (hrun : FirstRun (atBody e s))
    (hoff : field ((atBody e s).opB e 4) 63 32 % 16 = 0) (hlen : field ((atBody e s).opB e 4) 95 64 % 16 = 0)
    (h16 : 16 ≤ field ((atBody e s).opB e 4) 95 64) (hfit : field ((atBody e s).opB e 4) 63 32 + field ((atBody e s).opB e 4) 95 64 ≤ (s.seqCls q).bytes)
    (hbound : field ((atBody e s).opB e 4) 31 0 < 2 ^ 24) (h1 : 1 ≤ n) (h2 : n < 2 ^ 20) (hfree : (s.dev.handle n).valid = false)
    (hlow : ∀ j, 1 ≤ j → j < n → (s.dev.handle j).valid = true) : Does i e s (fun b t => Continues b t ∧ t.mem = b.mem
      ∧ t.dev.handle n = { seq := q.id, off := field ((atBody e s).opB e 4) 63 32, len := field ((atBody e s).opB e 4) 95 64, gen := (s.dev.handle n).gen,
                           write := bit ((atBody e s).opB e 4) 98, read := bit ((atBody e s).opB e 4) 97, valid := true }
      ∧ (∀ j, j ≠ n → t.dev.handle j = b.dev.handle j)
      ∧ t.thr.pend = shrunk b ++ [loadPending e 2 (handleOf s.part.pid (s.dev.handle n).gen n (field ((atBody e s).opB e 4) 31 0)) false 0 false b]) := by
  have hperm : ∀ r k, k < 32 → bit (field r 127 96) k = bit r (96 + k) := by
    intro r k hk
    have hk' : k < 127 - 96 + 1 := hk
    rw [bit, field, Nat.testBit_mod_two_pow, Nat.testBit_shiftRight, decide_eq_true hk', Bool.true_and, bit]
  rw [← seqCls_atBody e] at hfit
  rw [← atBody_dev e s] at hfree hlow
  have hact := mintHandle_mints (sid := q.id) (bound := field ((atBody e s).opB e 4) 31 0) (off := field ((atBody e s).opB e 4) 63 32) (len := field ((atBody e s).opB e 4) 95 64)
    (perm := field ((atBody e s).opB e 4) 127 96) h1 h2 hfree hlow
  refine does_laterK_published hi hrun (fun _ h => bodyInfoMint_leaves (infoCtx_atBody hq) hoff hlen h16 hfit hbound h) hact rfl rfl (words_ofWords_words _ _)
    (fun t hcont hmem hdev hpend => ⟨hcont, hmem, ?_, fun j hj => ?_, ?_⟩)
  · rw [hdev, handle_insert, if_pos rfl, mintedEntry, hperm _ 2 (by decide), hperm _ 1 (by decide), atBody_dev]
  · rw [hdev, handle_insert, if_neg hj]
  · rw [hpend, atBody_part, atBody_dev]

/-- Settles O25: contexts are forked, reported on, and their handles minted and revoked. -/
theorem kvForkAndInfo : Obligations.KvForkAndInfo := by
  unfold Obligations.KvForkAndInfo
  intro x s
  refine ⟨fun hrun => ⟨fun h => ?noFork, fun id hpfx hu hid hq hn => ?empty, fun q v id hpfx hq hv hs hid hhome => ?forks⟩, ?len, ?thr, fun q v en hq hlt hv he => ?blk, fun q v en hq hlt hv he => ?hash,
    fun q hq hlt => ?tok, fun hq => ?noBlk, fun hq => ?noHash, fun hq => ?noTok, fun hq => ?noMint, fun q i hq hrun hoff hlen h16 hfit hbound h1 h2 hfree hlow => ?mint,
    fun hrun => ⟨fun ht h0 hv hg => ?revoked, fun hbad => ?refused⟩⟩
  case noFork =>
    have hact : forkAct x (atBody (x.encL 0xD8) s) (atBody (x.encL 0xD8) s) = .ok ([0xFFFFFFFF], atBody (x.encL 0xD8) s) := by
      unfold forkAct
      cases hm : bit x.m.toNat 0 with
      | true => exact forkPrefix_none (by rw [show x.m.getLsbD 0 = true from hm] at h; exact h)
      | false => exact forkSeq_none (by rw [show x.m.getLsbD 0 = false from hm] at h; exact h)
    exact does_kvfork hrun hact ⟨rfl, rfl⟩ (fun t hr hl hmem hdev hpart => ⟨hr, hl, hmem, hdev, hpart⟩)
  case empty =>
    have hact : forkAct x (atBody (x.encL 0xD8) s) (atBody (x.encL 0xD8) s) = .ok ([id], (atBody (x.encL 0xD8) s).addSeq (SeqCtx.new id (atBody (x.encL 0xD8) s).part.pid (field x.m.toNat 7 4)
        (((atBody (x.encL 0xD8) s).part.seqClass (field x.m.toNat 7 4)).tw.toNat % 2 ^ 24) (((atBody (x.encL 0xD8) s).part.seqClass (field x.m.toNat 7 4)).tn.toNat % 2 ^ 24) 0 0 []
        [(atBody (x.encL 0xD8) s).dev.num] [[]])) := by
      rw [forkAct, show bit x.m.toNat 0 = true from hpfx, if_pos rfl, hq, hn]
      exact forkPrefix_empty hu hid
    exact does_kvfork hrun hact ⟨rfl, rfl⟩ (fun t hr _ hmem hdev hpart => ⟨hr, hmem, hpart, congrArg Device.seqs hdev⟩)
  case forks =>
    obtain ⟨t1, slices, hfork, hsame⟩ := forkSeq_forks hq hv hs hid hhome
    have hact : forkAct x (atBody (x.encL 0xD8) s) (atBody (x.encL 0xD8) s) = .ok ([id], t1.addSeq (SeqCtx.new id q.pid q.cls q.tw q.tn q.lenc q.tokens q.tailIds v.members slices)) := by
      rw [forkAct, if_neg (by rw [show bit x.m.toNat 0 = false from hpfx]; exact Bool.false_ne_true)]
      exact hfork
    refine does_kvfork hrun hact ⟨hsame.1, hsame.2⟩ (fun t hr _ _ hdev _ => ⟨hr, ?_⟩)
    rw [hdev]
    exact ⟨_, List.mem_append_right _ (List.mem_singleton_self _), rfl, rfl, rfl, rfl, rfl, rfl, rfl, rfl, rfl, rfl, rfl, rfl, _, rfl, rfl, rfl, rfl⟩
  case len => exact does_laterK rfl (by rw [bodyInfoLen, State.infoCtx, atBody_part])
  case thr => exact does_laterK rfl (by rw [bodyInfoThr, State.infoCtx, atBody_part])
  case blk => exact does_laterK rfl (infoBlock_entry (infoCtx_atBody hq) (by rw [seqCls_atBody]; exact hlt) hv he)
  case hash => exact does_laterK rfl (infoBlock_entry (infoCtx_atBody hq) (by rw [seqCls_atBody]; exact hlt) hv he)
  case tok => exact does_laterK rfl (by simp only [bodyInfoTok, infoCtx_atBody hq, if_neg (Nat.not_le.mpr hlt)])
  case noBlk => exact does_laterK rfl (infoBlock_none (infoCtx_atBody hq))
  case noHash => exact does_laterK rfl (infoBlock_none (infoCtx_atBody hq))
  case noTok => exact does_laterK rfl (by simp only [bodyInfoTok, infoCtx_atBody hq])
  case noMint => exact does_laterK rfl (by simp only [bodyInfoMint, infoCtx_atBody hq])
  case mint => exact does_mint (i := .kvinfoMint x) (e := ({ x with c := 5 } : LX).encL 0xD9) rfl hq hrun hoff hlen h16 hfit hbound h1 h2 hfree hlow
  case revoked =>
    rw [← atBody_part] at ht
    rw [← atBody_dev] at hv hg
    refine does_laterK_published rfl hrun (fun _ h => bodyInfoRevoke_leaves h) (revokeHandle_revokes ht h0 hv hg) rfl rfl rfl (fun t hcont hmem hdev hpend => ⟨hcont, hmem, ?_, fun j hj => ?_, hpend⟩)
    · rw [hdev, handle_insert, if_pos rfl, atBody_dev]
    · rw [hdev, handle_insert, if_neg hj]
  case refused =>
    rw [← atBody_part, ← atBody_dev] at hbad
    exact does_laterK_published rfl hrun (fun _ h => bodyInfoRevoke_leaves h) (revokeHandle_refused hbad) rfl rfl rfl (fun t hcont hmem hdev hpend => ⟨hcont, hdev, hmem, hpend⟩)

end Sys2Proof.Claims
end

section
/-!
PROOFS. Remote regions and router reductions, as a thread begins them (O29).
-/
namespace Sys2Proof.Claims
open Machine Bits Encoding

/-! ## fbegin (R294) -/

/-- The region that `fbegin` opens. -/
def begunRegion (x : LX) (s : State) : Region :=
  { saved := ((List.range 16).filter (fun i => bit (x.c.toNat + 2 ^ 8 * x.m.toNat) i)).map (fun i => (x.d.toNat + i, (atBody (x.encX 0xB9) s).thr.get (BitVec.ofNat 8 (x.d.toNat + i)))),
    target := s.thr.pc + BitVec.ofInt 48 (4 * branchOff (x.encX 0xB9)), failed := 0, acks := [], sent := false, since := 0 }

theorem bodyFbegin_begins {x : LX} {s : State} (h : (atBody (x.encX 0xB9) s).thr.region = none) : bodyFbegin (x.encX 0xB9) (atBody (x.encX 0xB9) s)
    = .ok { atBody (x.encX 0xB9) s with thr := { (atBody (x.encX 0xB9) s).thr with region := some (begunRegion x s) } } := by
  have hpc : (atBody (x.encX 0xB9) s).thr.pc - BitVec.ofNat 48 (len (x.encX 0xB9)) = s.thr.pc := by
    rw [atBody_pc, nextPc]
    exact BitVec.add_sub_cancel _ _
  have hno : ¬(atBody (x.encX 0xB9) s).thr.region.isSome = true := by rw [h]; exact Bool.false_ne_true
  simp only [bodyFbegin, if_neg hno, hpc]
  rfl

theorem mem_begunRegion (x : LX) (s : State) (k : Nat) (v : Word) : (k, v) ∈ (begunRegion x s).saved
    ↔ ∃ i < 16, bit (x.c.toNat + 2 ^ 8 * x.m.toNat) i = true ∧ k = x.d.toNat + i ∧ v = (atBody (x.encX 0xB9) s).thr.get (BitVec.ofNat 8 k) := by
  simp only [begunRegion, List.mem_map, List.mem_filter, List.mem_range, Prod.mk.injEq]
  constructor
  · rintro ⟨i, ⟨hi, hb⟩, rfl, rfl⟩
    exact ⟨i, hi, hb, rfl, rfl⟩
  · rintro ⟨i, hi, hb, rfl, rfl⟩
    exact ⟨i, ⟨hi, hb⟩, rfl, rfl⟩

/-! ## fcommit (R296) -/

theorem restoreRegs_eq (t : Thread) (l : List (Nat × Word)) : t.restoreRegs l = { t with regs := (t.restoreRegs l).regs, spin := (t.restoreRegs l).spin } := foldl_put1_eq l t

theorem logDone_room {s : State} (h : s.grp.log.length < 256) (tid op addr : Nat) (operand ret : List Word) :
    s.logDone tid op addr operand ret = { s with grp := { s.grp with log := s.grp.log ++ [⟨tid, op, addr, operand, ret, 0⟩] } } := by
  simp only [State.logDone, if_neg (Nat.not_le.mpr h)]

/-- The thread after a failed region: its saved registers, the status in a0, at the failure target. -/
def failedThread (r : Region) (t : Thread) : Thread := { (t.restoreRegs r.saved).put1 4 (BitVec.ofNat 32 r.failed) with region := none, pc := r.target }

theorem failedThread_eq (r : Region) (t : Thread) : failedThread r t = { t with regs := (failedThread r t).regs, spin := (failedThread r t).spin, region := none, pc := r.target } := by
  unfold failedThread
  rw [Thread.put1_eq, restoreRegs_eq]

theorem failedThread_regs {r : Region} (t : Thread) (hp : r.saved.Pairwise (fun p q => p.1 < q.1)) (k : Nat) (h : k < 200) :
    (failedThread r t).regs[k] = if k = 4 then BitVec.ofNat 32 r.failed else (lookup k r.saved).getD t.regs[k] := by
  have hput : (failedThread r t).regs[k] = ((t.restoreRegs r.saved).put1 4 (BitVec.ofNat 32 r.failed)).regs[k] := rfl
  rw [hput, Thread.put1_regs _ _ _ _ h, Thread.restoreRegs, foldl_put1_regs hp]
  simp only [eq_comm]

/-- The thread waits while the two phases of its region run. -/
def waitingCommit (r : Region) (b : State) : State :=
  { b with thr := { b.thr with status := .waiting .fcommit, waitSince := b.dev.clk, region := some { r with since := b.now } } }

section
variable {e : Enc} {b : State} {r : Region} (hr : b.thr.region = some r) (h0 : b.grp.attempt = 0)
include hr h0

theorem bodyFcommit_waits (hf : r.failed = 0) (hc : ∃ c ∈ b.core.comb, c.t = b.thr.key) : bodyFcommit e b = .ok (waitingCommit r b) := by
  have hd : b.regionDests.isEmpty = false := by
    obtain ⟨c, hmem, hkey⟩ := hc
    have hin : c.dev ∈ b.regionDests := List.mem_dedup.mpr (List.mem_map.mpr ⟨c, List.mem_filter.mpr ⟨hmem, decide_eq_true hkey⟩, rfl⟩)
    exact List.isEmpty_eq_false_iff_exists_mem.mpr ⟨_, hin⟩
  simp only [bodyFcommit, hr, h0, if_neg (not_not_intro hf), hd, ne_eq, not_true_eq_false, Bool.false_eq_true, if_false]
  rfl

variable (hlog : b.grp.log.length < 256)
include hlog

theorem bodyFcommit_empty (hf : r.failed = 0) (hc : ∀ c ∈ b.core.comb, c.t ≠ b.thr.key) : ∃ t : State, bodyFcommit e b = .ok t ∧ t.thr = { b.thr with region := none } ∧ t.mem = b.mem := by
  have hd : b.regionDests.isEmpty = true := by
    have hnone : b.core.comb.filter (fun c => c.t = b.thr.key) = [] := List.filter_eq_nil_iff.mpr (fun c h => by simpa using hc c h)
    rw [State.regionDests, hnone]
    rfl
  have hend : (b.endRegion 0).grp = b.grp ∧ (b.endRegion 0).mem = b.mem ∧ (b.endRegion 0).thr = { b.thr with region := none } := by
    simp only [State.endRegion, hr]
    exact ⟨rfl, rfl, rfl⟩
  obtain ⟨hgrp, hmem, hthr⟩ := hend
  rw [← hgrp] at hlog
  refine ⟨(b.endRegion 0).logDone b.thr.key.tid fcommitOp 0 [] [0], ?_, ?_, ?_⟩
  · simp only [bodyFcommit, hr, h0, hf, hd, ne_eq, not_true_eq_false, if_true, if_false]
  · rw [logDone_room hlog]
    exact hthr
  · rw [logDone_room hlog]
    exact hmem

theorem bodyFcommit_fails (hf : r.failed ≠ 0) : ∃ t : State, bodyFcommit e b = .ok t ∧ t.thr = failedThread r b.thr ∧ t.mem = b.mem := by
  have hend : (b.endRegion r.failed).grp = b.grp ∧ (b.endRegion r.failed).mem = b.mem ∧ (b.endRegion r.failed).thr = failedThread r b.thr := by
    refine ⟨?_, ?_, ?_⟩ <;> simp only [State.endRegion, hr, if_neg hf, failedThread]
  obtain ⟨hgrp, hmem, hthr⟩ := hend
  rw [← hgrp] at hlog
  refine ⟨(b.endRegion r.failed).logDone b.thr.key.tid fcommitOp 0 [] [BitVec.ofNat 32 r.failed], ?_, ?_, ?_⟩
  · simp only [bodyFcommit, hr, h0, ne_eq, not_true_eq_false, if_false, if_pos hf]
  · rw [logDone_room hlog]
    exact hthr
  · rw [logDone_room hlog]
    exact hmem
end

/-! ## fred (R297, R298) -/

/-- Word `i` of the uniform block of a `fred`. -/
def fredWord (ws : List Word) (i : Nat) : Nat := (ws.getD i 0).toNat

/-- The contribution that a `fred` sends. -/
def fredContribution (e : Enc) (ws : List Word) (off length : Nat) (parts : List (Nat × Nat)) (word : Option Nat) (s : State) : Contribution :=
  { serial := s.nextId, t := s.thr.key, wantsStatus := decide (code e e.d ≠ 0xFF), dst := code e e.d, dev := devOf (parts.headD (0, 0)).1, parts := parts, arrival := word,
    op := field (fredWord ws 2) 31 28, type_ := field (fredWord ws 2) 27 24, count := field (fredWord ws 2) 23 20, index := field (fredWord ws 2) 19 16, length := length,
    id := ws.getD 3 0, view := s.grp.view, seq := s.grp.seq, nbv := s.lau.nbv, bytes := Mem.read s.grp.scratch off length }

/-- The contribution is under way, and the thread waits for its status where it asks for one. -/
def contributed (e : Enc) (c : Contribution) (s : State) : State :=
  ({ s with nextId := s.nextId + 1, contributions := s.contributions ++ [c] } : State).awaitFred (decide (code e e.d ≠ 0xFF)) s.nextId

section
variable {e : Enc} {b s1 sw : State} {ws : List Word} {off dst arrival length : Nat} {ps : List (Nat × Nat)} {ar : Option Nat}
  (hws : b.block e.c 6 = some ws) (hoffE : b.opA e 1 = off) (hdstE : fredWord ws 0 + 2 ^ 32 * fredWord ws 1 = dst) (harrE : fredWord ws 4 + 2 ^ 32 * fredWord ws 5 = arrival)
  (hlenE : 64 * (field (fredWord ws 2) 9 0 + 1) = length)
  (hoff : off % 64 = 0) (hin : off + length ≤ b.grp.scratchSize) (hdst : dst % 64 = 0) (harr : arrival % 16 = 0)
  (hop : field (fredWord ws 2) 31 28 ≤ 2) (hty : fredType (field (fredWord ws 2) 27 24) = true) (hcount : field (fredWord ws 2) 23 20 ≠ 0)
  (hidx : field (fredWord ws 2) 19 16 ≤ field (fredWord ws 2) 23 20) (hzero : field (fredWord ws 2) 15 10 = 0) (hparts : b.fredParts dst length = .ok (ps, s1))
  (hword : if arrival = 0 then ar = none ∧ sw = s1 else ∃ q, s1.fredMap arrival = .ok (q, sw) ∧ ar = some q.key)
  (hhome : ∀ k ∈ ps.map Prod.fst ++ ar.toList, devOf k = devOf (ps.headD (0, 0)).1) (hrun : FirstRun sw)
include hws hoffE hdstE harrE hlenE hoff hin hdst harr hop hty hcount hidx hzero hparts hword hhome hrun

theorem bodyFred_sends : ∃ t : State, bodyFred e b = .ok t ∧ t.thr = (contributed e (fredContribution e ws off length ps ar sw) sw).thr ∧ t.mem = sw.mem
    ∧ t.contributions = sw.contributions ++ [fredContribution e ws off length ps ar sw] := by
  have hatt := hrun.1
  have hcodes : ((if off % 64 ≠ 0 || b.outside off length || dst % 64 ≠ 0 || arrival % 16 ≠ 0 then [6] else [])
      ++ (if 2 < field (fredWord ws 2) 31 28 || !fredType (field (fredWord ws 2) 27 24) || field (fredWord ws 2) 23 20 = 0 || field (fredWord ws 2) 23 20 < field (fredWord ws 2) 19 16
        || field (fredWord ws 2) 15 10 ≠ 0 then [0xA] else []) : List Nat) = [] := by
    simp [State.outside, hoff, hdst, harr, Nat.not_lt.mpr hin, Nat.not_lt.mpr hop, hty, hcount, Nat.not_lt.mpr hidx, hzero]
  have hwordE : (if arrival = 0 then .ok (none, s1) else (s1.fredMap arrival).map (fun p => (some p.1.key, p.2)) : Except Stop (Option Nat × State)) = .ok (ar, sw) := by
    split at hword
    · next h =>
      rw [if_pos h, hword.1, hword.2]
    · next h =>
      obtain ⟨q, hq, rfl⟩ := hword
      rw [if_neg h, hq]
      rfl
  have hany : ¬(ps.map Prod.fst ++ ar.toList).any (fun k => devOf k ≠ devOf (ps.headD (0, 0)).1) = true := by
    rw [List.any_eq_true]
    rintro ⟨k, hk, hne⟩
    exact of_decide_eq_true hne (hhome k hk)
  have hpub := publish_withEntry (e := e) (addr := dst) (operand := ws) (act := fun s => .ok ([], contributed e (fredContribution e ws off length ps ar s) s)) hrun rfl
  obtain ⟨u, hu⟩ : ∃ u, u = withEntry e dst ws [] sw (contributed e (fredContribution e ws off length ps ar sw) sw) := ⟨_, rfl⟩
  rw [← hu] at hpub
  have hbody : bodyFred e b = .ok (if u.grp.shadow ≠ 0 then u else u.logSerial (u.nextId - 1)) := by
    unfold contributed fredContribution at hpub
    unfold fredWord at *
    simp only [bodyFred, hws, hoffE, hdstE, harrE, hlenE, hcodes, lowest, hparts, hwordE, if_neg hany, hatt, if_true, ne_eq, not_true_eq_false, if_false, hpub]
  have hfacts : u.thr = (contributed e (fredContribution e ws off length ps ar sw) sw).thr ∧ u.mem = sw.mem ∧ u.contributions = sw.contributions ++ [fredContribution e ws off length ps ar sw] := by
    rw [hu]
    refine ⟨rfl, ?_, ?_⟩ <;> unfold contributed State.awaitFred <;> split <;> rfl
  refine ⟨_, hbody, ?_⟩
  split <;> exact hfacts
end

theorem fredMap_facts {va : Nat} {s t : State} {q : Xlat} (h : s.fredMap va = .ok (q, t)) : t.thr = s.thr ∧ t.grp = s.grp := by
  unfold State.fredMap at h
  split at h
  · cases h
  · cases h
  · obtain ⟨-, rfl⟩ := Prod.mk.inj (Except.ok.inj h)
    rw [touch_eq]
    exact ⟨rfl, rfl⟩

theorem fredParts_facts {va n : Nat} {s t : State} {ps : List (Nat × Nat)} (h : s.fredParts va n = .ok (ps, t)) : t.thr = s.thr ∧ t.grp = s.grp := by
  unfold State.fredParts at h
  dsimp only at h
  split at h
  · cases h
  · next x s1 h1 =>
    obtain ⟨hthr, hgrp⟩ := fredMap_facts h1
    split at h
    · obtain ⟨-, rfl⟩ := Prod.mk.inj (Except.ok.inj h)
      exact ⟨hthr, hgrp⟩
    · split at h
      · cases h
      · next y s2 h2 =>
        obtain ⟨-, rfl⟩ := Prod.mk.inj (Except.ok.inj h)
        obtain ⟨hthr2, hgrp2⟩ := fredMap_facts h2
        exact ⟨hthr2.trans hthr, hgrp2.trans hgrp⟩

theorem fredParts_word_facts {va n arrival : Nat} {b s1 sw : State} {ps : List (Nat × Nat)} {ar : Option Nat} (hparts : b.fredParts va n = .ok (ps, s1))
    (hword : if arrival = 0 then ar = none ∧ sw = s1 else ∃ q, s1.fredMap arrival = .ok (q, sw) ∧ ar = some q.key) : sw.thr = b.thr ∧ sw.grp = b.grp := by
  obtain ⟨hthr, hgrp⟩ := fredParts_facts hparts
  split at hword
  · rw [hword.2]
    exact ⟨hthr, hgrp⟩
  · obtain ⟨q, hq, -⟩ := hword
    obtain ⟨hthr2, hgrp2⟩ := fredMap_facts hq
    exact ⟨hthr2.trans hthr, hgrp2.trans hgrp⟩

theorem atBody_now (e : Enc) (s : State) : (atBody e s).now = s.now := by rw [atBody_eq]

/-- Settles O29: a region begins and ends, and a contribution is sent. -/
theorem regionsAndReductions : Obligations.RegionsAndReductions := by
  unfold Obligations.RegionsAndReductions
  intro x s
  refine ⟨fun hnone => ?begins, fun r hr h0 hlog => ⟨fun hf _ hpair => ?fails, fun hf hc => ?empty, fun hf hc => ?waits⟩,
    fun ws hws ps s1 ar sw hoff hin hdst harr hop hty hcount hidx hzero hparts hword hhome hrun => ?fred⟩
  case begins =>
    refine does_ready (ps := []) rfl (bodyFbegin_begins hnone) rfl rfl (List.append_nil _).symm (by simp) (fun u hready hpend hret => ?_)
    rw [RetiredAs] at hret
    rw [List.append_nil] at hpend
    refine ⟨hpend, ?_, ?_, hready, ?_, rfl, begunRegion x s, ?_, rfl, rfl, rfl, rfl, mem_begunRegion x s⟩ <;> rw [hret]
    · exact ⟨rfl, rfl, rfl⟩
    · exact ⟨rfl, rfl, rfl, rfl⟩
    · rfl
    · rfl
  case fails =>
    obtain ⟨t, hbody, hthr, hmem⟩ := bodyFcommit_fails (e := x.encL 0xBA) hr h0 hlog hf
    have heq := hthr.trans (failedThread_eq r _)
    refine does_ready (ps := []) rfl hbody (by rw [heq]) (by rw [heq]) (by rw [heq]; exact (List.append_nil _).symm) (by simp) (fun u hready _ hret => ?_)
    rw [RetiredAs, heq] at hret
    refine ⟨?_, ?_, hready, hmem, ?_, fun k hk => ?_⟩
    · rw [withThread_thr, hret]
    · rw [withThread_thr, hret]
    · rw [hret]
      exact ⟨rfl, rfl, rfl, rfl⟩
    · have hregs : u.regs = (failedThread r (atBody (x.encL 0xBA) s).thr).regs := by rw [hret]
      simp only [withThread_thr, hregs]
      exact failedThread_regs _ hpair k hk
  case empty =>
    obtain ⟨t, hbody, hthr, hmem⟩ := bodyFcommit_empty (e := x.encL 0xBA) hr h0 hlog hf hc
    refine does_continues (ps := []) rfl hbody ?_ (by simp) (fun u hcont _ hret => ⟨?_, hcont, hmem⟩)
    · refine ⟨?_, ?_, ?_, ?_, ?_, ⟨?_, ?_, ?_⟩, ?_, ?_, ?_, ?_⟩
      all_goals simp only [hthr, List.append_nil]
    · rw [RetiredAs, hthr] at hret
      rw [withThread_thr, hret]
  case waits =>
    refine does_ok _ rfl _ (bodyFcommit_waits (e := x.encL 0xBA) hr h0 hf hc) (fun _ hq => ?_)
    rw [retire_wait (s1 := waitingCommit r (atBody (x.encL 0xBA) s)) (atBody_key (x.encL 0xBA) s) rfl (by rw [waitingCommit, atBody_pend]; exact hq)]
    refine ⟨⟨rfl, rfl, rfl, atBody_sameRegs (x.encL 0xBA) s, atBody_sameFlags (x.encL 0xBA) s⟩, rfl, rfl, ?_⟩
    exact congrArg (fun n => some { r with since := n }) (atBody_now (x.encL 0xBA) s)
  case fred =>
    rw [← atBody_grp (x.encL 0xBB) s] at hin
    obtain ⟨t, hbody, hthr, hmem, hcontrib⟩ := bodyFred_sends (e := x.encL 0xBB) hws rfl rfl rfl rfl hoff hin hdst harr hop hty hcount hidx hzero hparts hword hhome hrun
    obtain ⟨hsthr, hsgrp⟩ := fredParts_word_facts hparts hword
    have hmore : ∀ u : Thread, ∃ c, (withThread u t).contributions = sw.contributions ++ [c] ∧ c.serial = sw.nextId ∧ c.t = (atBody (x.encL 0xBB) s).thr.key ∧ c.dev = devOf (ps.headD (0, 0)).1
        ∧ c.parts = ps ∧ c.arrival = ar ∧ c.op = field (fredWord ws 2) 31 28 ∧ c.type_ = field (fredWord ws 2) 27 24 ∧ c.count = field (fredWord ws 2) 23 20 ∧ c.index = field (fredWord ws 2) 19 16
        ∧ c.length = 64 * (field (fredWord ws 2) 9 0 + 1) ∧ c.id = ws.getD 3 0
        ∧ c.bytes = Mem.read (atBody (x.encL 0xBB) s).grp.scratch ((atBody (x.encL 0xBB) s).opA (x.encL 0xBB) 1) (64 * (field (fredWord ws 2) 9 0 + 1)) :=
      fun u => ⟨_, hcontrib, rfl, congrArg Thread.key hsthr, rfl, rfl, rfl, rfl, rfl, rfl, rfl, rfl, rfl, congrArg (fun g : Group => Mem.read g.scratch _ _) hsgrp⟩
    by_cases hd : x.d = 0xFF
    · have hwants : decide (code (x.encL 0xBB) (x.encL 0xBB).d ≠ 0xFF) = false := decide_eq_false (not_not_intro hd)
      rw [contributed, hwants, State.awaitFred, if_neg Bool.false_ne_true] at hthr
      replace hthr : t.thr = (atBody (x.encL 0xBB) s).thr := hthr.trans hsthr
      refine does_continues (ps := []) rfl hbody ?_ (by simp) (fun u hcont _ _ => ?_)
      · refine ⟨?_, ?_, ?_, ?_, ?_, ⟨?_, ?_, ?_⟩, ?_, ?_, ?_, ?_⟩
        all_goals simp only [hthr, List.append_nil]
      · obtain ⟨hstatus, hpc, -, hregs, hflags⟩ := hcont
        rw [if_pos hd]
        exact ⟨hmem, hregs, hflags, ⟨hstatus, hpc⟩, hmore u⟩
    · have hwants : decide (code (x.encL 0xBB) (x.encL 0xBB).d ≠ 0xFF) = true := decide_eq_true hd
      rw [contributed, hwants, State.awaitFred, if_pos rfl] at hthr
      replace hthr : t.thr = { sw.thr with status := .waiting (.fred sw.nextId), waitSince := sw.dev.clk } := hthr
      rw [hsthr] at hthr
      refine does_waits_of rfl hbody (by rw [hthr]) ?_ (fun u hw => ?_)
      · refine ⟨?_, rfl, ?_, ?_, ?_, ⟨?_, ?_, ?_⟩, ?_, ?_, ?_, ?_⟩
        all_goals simp only [hthr, List.append_nil]
      · obtain ⟨-, -, -, ⟨hr0, hr1, hr2⟩, hf0, hf1, hf2, hf3⟩ := id hw
        obtain ⟨br0, br1, br2⟩ := atBody_sameRegs (x.encL 0xBB) s
        obtain ⟨bf0, bf1, bf2, bf3⟩ := atBody_sameFlags (x.encL 0xBB) s
        rw [if_neg hd]
        exact ⟨hmem, ⟨hr0.trans br0.symm, hr1.trans br1.symm, hr2.trans br2.symm⟩, ⟨hf0.trans bf0.symm, hf1.trans bf1.symm, hf2.trans bf2.symm, hf3.trans bf3.symm⟩, hw, hmore u⟩

end Sys2Proof.Claims
end

section
/-!
PROOFS. How a launch starts: dependences, prepare, go and dispatch (O42).
-/
namespace Sys2Proof.Claims
open Machine Bits Encoding

theorem onLaunch_eq (lid : Nat) (f : State → Option State) (s : State) : s.onLaunch lid f = .next (((launchAt lid s).bind f).getD s) := by
  unfold State.onLaunch launchAt
  split
  · rfl
  · cases s.checkoutLaunch lid <;> rfl

theorem happensWhen_onLaunch {i : Instr} {lid : Nat} {f : State → Option State} {s : State} {due : State → Prop} {P : State → State → Prop} (c : State → Bool) (g : State → State)
    (hi : exec i s = s.onLaunch lid f) (hf : ∀ s1, f s1 = whenDue (c s1) (g s1)) (hc : ∀ s1, c s1 = true ↔ due s1) (hP : ∀ s1, due s1 → P s1 (g s1)) :
    HappensWhen i s (launchAt lid s) due P := by
  refine happensWhen_due c g ?_ (fun s1 _ => hc s1) (fun s1 _ => hP s1)
  rw [hi, onLaunch_eq, funext hf]

/-! ## Dispatch (R223, R236) -/

theorem mem_putGroup_self {g : Group} (h : g.gid ≠ 0) (l : List Group) : g ∈ putGroup g l := by
  induction l with
  | nil => rw [putGroup, if_neg h]; exact List.mem_singleton_self g
  | cons u us ih =>
    rw [putGroup, if_neg h]
    split
    · exact List.mem_cons_self
    · exact List.mem_cons_of_mem _ ih

theorem mem_putGroup_of_mem {g u : Group} {l : List Group} (h : u ∈ l) : u ∈ putGroup g l := by
  induction l with
  | nil => cases h
  | cons v vs ih =>
    rw [putGroup]
    split
    · exact h
    · split
      · exact List.mem_cons_of_mem _ h
      · rcases List.mem_cons.mp h with rfl | h
        · exact List.mem_cons_self
        · exact List.mem_cons_of_mem _ (ih h)

theorem mem_foldr_putGroup {g : Group} {gs l : List Group} (hg : g ∈ gs) (h0 : g.gid ≠ 0) : g ∈ gs.foldr putGroup l := by
  induction gs with
  | nil => cases hg
  | cons u us ih =>
    rw [List.foldr_cons]
    rcases List.mem_cons.mp hg with rfl | hg
    · exact mem_putGroup_self h0 _
    · exact mem_putGroup_of_mem (ih hg)

/-- The launch is Dispatching under its marks, and each of its groups inside the view is Queued. -/
def Dispatched (marks : List (Nat × Nat × Nat)) (members : List Nat) (s t : State) : Prop :=
  t.mem = s.mem ∧ t.lau.state = .dispatching ∧ t.lau.marks = marks ∧ t.lau.nbv = s.part.nbv
    ∧ (∀ i, i ∈ t.lau.ended ↔ i ∈ s.lau.ended ∨ (i < s.lau.groupCount ∧ s.lau.outsideView members i = true))
    ∧ ∀ i < s.lau.groupCount, s.lau.outsideView members i = false →
        ∃ g ∈ t.groups, s.nextId ≤ g.gid ∧ g.lid = s.lau.lid ∧ g.idx = i ∧ g.dev = s.lau.groupDev s.part members i ∧ g.phase = .queued ∧ g.size = s.lau.threadsPerGroup ∧ g.level = s.lau.priority
          ∧ g.queuedAt = s.now

theorem Dispatched.congr {marks : List (Nat × Nat × Nat)} {members : List Nat} {s t u : State} (h : Dispatched marks members s t) (hmem : u.mem = t.mem) (hlau : u.lau = t.lau)
    (hgroups : u.groups = t.groups) : Dispatched marks members s u := by
  unfold Dispatched at h ⊢
  rw [hmem, hlau, hgroups]
  exact h

theorem journalLaunch_keeps (l : Launch) (state status : Nat) (s : State) : (s.journalLaunch l state status).mem = s.mem ∧ (s.journalLaunch l state status).lau = s.lau
    ∧ (s.journalLaunch l state status).groups = s.groups ∧ SameSeqs s (s.journalLaunch l state status) := by
  unfold State.journalLaunch
  split
  · exact ⟨State.updPart_mem .., State.updPart_lau .., State.updPart_groups .., sameSeqs_updPart ..⟩
  · exact ⟨rfl, rfl, rfl, sameSeqs_refl _⟩

section
variable (members : List Nat) (marks : List (Nat × Nat × Nat)) (s : State)

/-- The groups of a launch outside the view, which count as ended. -/
def outsideGroups : List Nat := (List.range s.lau.groupCount).filter (s.lau.outsideView members)

/-- The groups of a launch that are dispatched. -/
def insideGroups : List Nat := (List.range s.lau.groupCount).filter (fun i => !(outsideGroups members s).contains i)

/-- The launch as it is dispatched. -/
def dispatchedLaunch : Launch := { s.lau with state := .dispatching, marks := marks, nbv := s.part.nbv, ended := outsideGroups members s ++ s.lau.ended }

/-- The groups that are Queued. -/
def queuedGroups : List Group := (insideGroups members s).zipIdx.map (fun i =>
  (dispatchedLaunch members marks s).newGroup (s.nextId + i.2) i.1 ((dispatchedLaunch members marks s).groupDev s.part members i.1) s.now)

/-- The launch dispatched, before the journal has it. -/
def dispatchedState : State := { s with lau := dispatchedLaunch members marks s, groups := (queuedGroups members marks s).foldr putGroup s.groups, nextId := s.nextId + (insideGroups members s).length }

variable {members marks s}

theorem mem_outsideGroups (i : Nat) : i ∈ outsideGroups members s ↔ i < s.lau.groupCount ∧ s.lau.outsideView members i = true := by
  simp [outsideGroups]

theorem mem_insideGroups (i : Nat) : i ∈ insideGroups members s ↔ i < s.lau.groupCount ∧ s.lau.outsideView members i = false := by
  simp only [insideGroups, List.mem_filter, List.mem_range, Bool.not_eq_true', List.contains_eq_mem, decide_eq_false_iff_not, mem_outsideGroups, not_and, Bool.not_eq_true]
  exact ⟨fun h => ⟨h.1, h.2 h.1⟩, fun h => ⟨h.1, fun _ => h.2⟩⟩

theorem dispatch_eq (hsome : ∃ i < s.lau.groupCount, s.lau.outsideView members i = false) : s.dispatch members marks
    = if s.lau.rerun then dispatchedState members marks s else (dispatchedState members marks s).journalLaunch (dispatchedLaunch members marks s) 1 0 := by
  obtain ⟨i, hi⟩ := hsome
  have hne : (insideGroups members s).isEmpty = false := List.isEmpty_eq_false_iff_exists_mem.mpr ⟨i, (mem_insideGroups i).mpr hi⟩
  unfold insideGroups outsideGroups at hne
  simp only [State.dispatch, hne, Bool.false_eq_true, if_false]
  rfl

theorem dispatchedState_facts (h0 : 0 < s.nextId) : Dispatched marks members s (dispatchedState members marks s) := by
  refine ⟨rfl, rfl, rfl, rfl, fun i => ?_, fun i hi hin => ?_⟩
  · rw [show (dispatchedState members marks s).lau.ended = outsideGroups members s ++ s.lau.ended from rfl, List.mem_append, mem_outsideGroups, or_comm]
  · obtain ⟨k, hk, hget⟩ := List.mem_iff_getElem.mp ((mem_insideGroups i).mpr ⟨hi, hin⟩)
    have hzip : (i, k) ∈ (insideGroups members s).zipIdx := by
      rw [List.mem_zipIdx_iff_getElem?, List.getElem?_eq_getElem hk, hget]
    refine ⟨_, mem_foldr_putGroup (List.mem_map.mpr ⟨(i, k), hzip, rfl⟩) ?_, Nat.le_add_right _ _, rfl, rfl, rfl, rfl, rfl, rfl, rfl⟩
    exact Nat.ne_of_gt (Nat.lt_of_lt_of_le h0 (Nat.le_add_right _ _))

theorem dispatch_facts (h0 : 0 < s.nextId) (hsome : ∃ i < s.lau.groupCount, s.lau.outsideView members i = false) :
    Dispatched marks members s (s.dispatch members marks) ∧ SameSeqs s (s.dispatch members marks) := by
  have hseqs : SameSeqs s (dispatchedState members marks s) := sameSeqs_of_devs rfl rfl
  rw [dispatch_eq hsome]
  split
  · exact ⟨dispatchedState_facts h0, hseqs⟩
  · obtain ⟨hmem, hlau, hgroups, hsame⟩ := journalLaunch_keeps (dispatchedLaunch members marks s) 1 0 (dispatchedState members marks s)
    exact ⟨(dispatchedState_facts h0).congr hmem hlau hgroups, hseqs.trans hsame⟩
end

/-! ## Dependences (R231) -/

/-- The dependences of the checked-out launch. -/
def depsOf (s : State) : List (Nat × Word) := (List.range s.lau.deps).map s.lau.dep

/-- The state once the words of its dependences have been read. -/
def depsRead (s : State) : State := ((depsOf s).filter (fun d => s.depState d = .passed || s.depState d = .waits)).foldl (fun s d => s.visit d.1 false) s

theorem depsRead_homeOnly (s : State) : HomeOnly s (depsRead s) := by
  refine foldl_homeOnly (fun s d => ?_) _ s
  unfold State.visit
  split
  · exact mark_homeOnly ..
  · exact homeOnly_refl s

theorem HomeOnly.lau {s t : State} (h : HomeOnly s t) : t.lau = s.lau := (congrArg State.lau (show t = _ from h) :)
theorem HomeOnly.nextId {s t : State} (h : HomeOnly s t) : t.nextId = s.nextId := (congrArg State.nextId (show t = _ from h) :)
theorem HomeOnly.newMarks {s t : State} (h : HomeOnly s t) (l : Launch) (ds : List Nat) : t.newMarks l ds = s.newMarks l ds := by
  rw [show t = _ from h]
  rfl

/-- The dependences with what each of them is found to be. -/
def depsFound (s : State) : List (Nat × DepState) := (depsOf s).map (fun d => (d.1, s.depState d))

/-- The launch is Waiting in a partition and on a device that run. -/
def DepsDue (s : State) : Prop := s.lau.state = .waiting ∧ s.part.pstat = 0 ∧ s.part.broken = false ∧ s.dev.answers = true

theorem depsPassed_eq {s : State} (h : DepsDue s) : depsPassed s = (if (depsFound s).any (fun d => d.2 = .refused) then some { depsRead s with lau := s.lau.finish 1 }
    else match (depsFound s).find? (fun d => d.2 = .fault 0 || d.2 = .fault 2) with
    | some (va, k) => some ((depsRead s).postFault (va / 2 ^ 16) (if k = .fault 2 then 2 else 0) 0xFFFFFFFF)
    | none =>
      if (depsFound s).any (fun d => d.2 = .waits) then none
      else if s.lau.gang || s.lau.isFabric then some { depsRead s with lau := { s.lau with state := .preparing } }
      else ((depsRead s).newMarks s.lau [s.lau.dev]).map (fun m => (depsRead s).dispatch [] m)) := by
  obtain ⟨hw, hp, hb, ha⟩ := h
  have hfound : (List.range s.lau.deps).map (fun j => ((s.lau.dep j).1, s.depState (s.lau.dep j))) = depsFound s := by
    rw [depsFound, depsOf, List.map_map]
    rfl
  have hread : ((depsFound s).filter (fun d => d.2 = .passed || d.2 = .waits)).foldl (fun s d => s.visit d.1 false) s = depsRead s := by
    rw [depsFound, List.filter_map, List.foldl_map, depsRead]
    rfl
  have hgo : ¬(s.lau.state ≠ .waiting ∨ (depsRead s).part.pstat ≠ 0 ∨ (depsRead s).part.broken = true ∨ (depsRead s).dev.answers = false) := by
    rw [(depsRead_homeOnly s).part, (depsRead_homeOnly s).dev]
    simp [hw, hp, hb, ha]
  simp only [depsPassed, hfound, hread, if_neg hgo] <;> rfl

theorem found_all {s : State} {x y : DepState} (h : ∀ d ∈ depsOf s, s.depState d = x) (hne : x ≠ y) : (depsFound s).any (fun d => d.2 = y) = false := by
  simp only [depsFound, List.any_map, List.any_eq_false, Function.comp, decide_eq_true_eq]
  intro d hd he
  exact hne ((h d hd).symm.trans he)

theorem passed_noFault {s : State} (h : ∀ d ∈ depsOf s, s.depState d = .passed) : (depsFound s).find? (fun d => d.2 = .fault 0 || d.2 = .fault 2) = none := by
  rw [depsFound, List.find?_map, Option.map_eq_none_iff, List.find?_eq_none]
  intro d hd
  simp [h d hd]

section
variable {s : State} (hdue : DepsDue s)
include hdue

theorem depsPassed_refused (h : ∃ d ∈ depsOf s, s.depState d = .refused) : depsPassed s = some { depsRead s with lau := s.lau.finish 1 } := by
  obtain ⟨d, hd, hr⟩ := h
  have hany : (depsFound s).any (fun d => d.2 = .refused) = true := List.any_eq_true.mpr ⟨_, List.mem_map.mpr ⟨d, hd, rfl⟩, decide_eq_true hr⟩
  rw [depsPassed_eq hdue, if_pos hany]

theorem depsPassed_faults {va : Nat} {gen : Word} (h : depsOf s = [(va, gen)]) (hf : s.depState (va, gen) = .fault 0) : depsPassed s = some (s.postFault (va / 2 ^ 16) 0 0xFFFFFFFF) := by
  have hfound : depsFound s = [(va, .fault 0)] := by rw [depsFound, h, List.map_singleton, hf]
  have hread : depsRead s = s := by
    have hno : (decide (s.depState (va, gen) = .passed) || decide (s.depState (va, gen) = .waits)) = false := by rw [hf]; rfl
    rw [depsRead, h, List.filter_cons_of_neg (by rw [hno]; exact Bool.false_ne_true), List.filter_nil]
    rfl
  rw [depsPassed_eq hdue, hfound, hread]
  rfl

section
variable (hpassed : ∀ d ∈ depsOf s, s.depState d = .passed)
include hpassed

theorem depsPassed_prepares (h : s.lau.gang = true ∨ s.lau.isFabric = true) : depsPassed s = some { depsRead s with lau := { s.lau with state := .preparing } } := by
  have hor : (s.lau.gang || s.lau.isFabric) = true := by simpa using h
  rw [depsPassed_eq hdue, found_all hpassed (y := .refused) (by decide), passed_noFault hpassed]
  simp only [found_all hpassed (y := .waits) (by decide), Bool.false_eq_true, if_false, hor, if_true]

theorem depsPassed_dispatches {marks : List (Nat × Nat × Nat)} (hg : s.lau.gang = false) (hf : s.lau.isFabric = false) (hm : s.newMarks s.lau [s.lau.dev] = some marks) :
    depsPassed s = some ((depsRead s).dispatch [] marks) := by
  rw [depsPassed_eq hdue, found_all hpassed (y := .refused) (by decide), passed_noFault hpassed]
  simp only [found_all hpassed (y := .waits) (by decide), Bool.false_eq_true, if_false, hg, hf, Bool.or_self, (depsRead_homeOnly s).newMarks, hm, Option.map_some]
end
end

/-! ## Prepare and go (R234, R235) -/

theorem choose_reserve (n : Nat) (s : State) : (s.choose n).2 = { s with drawn := (s.choose n).2.drawn } := by
  unfold State.choose
  split <;> rfl

/-- Reserving changes what the launch has reserved and which members have acknowledged. -/
theorem reserveOn_eq (d : Nat) (idxs : List Nat) (s : State) : s.reserveOn d idxs = { s with
      lau := { s.lau with acks := (s.reserveOn d idxs).lau.acks, reserved := (s.reserveOn d idxs).lau.reserved }, drawn := (s.reserveOn d idxs).drawn }
    ∧ ∀ c ∈ (s.reserveOn d idxs).lau.acks, c ∈ s.lau.acks ∨ c = d := by
  have hch := choose_reserve 192 s
  generalize hc : s.choose 192 = c at hch
  obtain ⟨start, s1⟩ := c
  simp only at hch
  simp only [State.reserveOn, hc]
  split
  · exact ⟨rfl, fun c h => Or.inl h⟩
  · split
    · rw [hch]
      exact ⟨rfl, fun c h => Or.inl h⟩
    · rw [hch]
      refine ⟨rfl, fun c h => ?_⟩
      rcases List.mem_append.mp h with h | h
      · exact Or.inl h
      · exact Or.inr (List.mem_singleton.mp h)

theorem foldl_reserve (members : List Nat) (ds : List Nat) (s : State) : ∀ t, t = ds.foldl (fun s d => s.reserveOn d (s.groupsFor members d)) s →
    t = { s with lau := { s.lau with acks := t.lau.acks, reserved := t.lau.reserved }, drawn := t.drawn } ∧ ∀ c ∈ t.lau.acks, c ∈ s.lau.acks ∨ c ∈ ds := by
  induction ds generalizing s with
  | nil =>
    rintro t rfl
    exact ⟨rfl, fun c h => Or.inl h⟩
  | cons d ds ih =>
    rintro t rfl
    obtain ⟨h1, h2⟩ := reserveOn_eq d (s.groupsFor members d) s
    rw [List.foldl_cons]
    obtain ⟨h3, h4⟩ := ih (s.reserveOn d (s.groupsFor members d)) _ rfl
    generalize s.reserveOn d (s.groupsFor members d) = s1 at h1 h2 h3 h4
    generalize List.foldl _ s1 ds = t at h3 h4
    refine ⟨?_, fun c hc => ?_⟩
    · rw [h3, h1]
    · rcases h4 c hc with h | h
      · rcases h2 c h with h | rfl
        · exact Or.inl h
        · exact Or.inr List.mem_cons_self
      · exact Or.inr (List.mem_cons_of_mem _ h)

/-- What prepare leaves: an abort where a device declines, and otherwise what the members that fit have reserved. -/
def Prepared (l : Launch) (ds members : List Nat) (s t : State) : Prop :=
  ((∃ d ∈ ds, ({ s with lau := l } : State).declines l d = true) → t = { s with lau := l.finish 3 })
    ∧ ((∀ d ∈ ds, ({ s with lau := l } : State).declines l d = false) → t = { s with lau := { l with acks := t.lau.acks, reserved := t.lau.reserved }, drawn := t.drawn }
      ∧ (∀ d ∈ t.lau.acks, d ∈ l.acks ∨ d ∈ ds)
      ∧ ∀ d start s2 cs, ds = [d] → d ∉ l.acks → (s.dev? d).answers = true → ({ s with lau := l } : State).choose 192 = (start, s2)
        → s2.pickCores l d start (({ s with lau := l } : State).groupsFor members d) [] = some cs →
          t.lau.acks = l.acks ++ [d] ∧ t.lau.reserved = l.reserved ++ cs.map (fun c => (c.1, d, c.2)))

theorem reserveOn_takes {d start : Nat} {idxs : List Nat} {s s2 : State} {cs : List (Nat × Nat)} (hd : d ∉ s.lau.acks) (ha : (s.dev? d).answers = true) (hc : s.choose 192 = (start, s2))
    (hp : s2.pickCores s.lau d start idxs [] = some cs) :
    (s.reserveOn d idxs).lau.acks = s.lau.acks ++ [d] ∧ (s.reserveOn d idxs).lau.reserved = s.lau.reserved ++ cs.map (fun c => (c.1, d, c.2)) := by
  have hch := choose_reserve 192 s
  rw [hc] at hch
  simp only at hch
  have hlau : s2.lau = s.lau := (congrArg State.lau hch :)
  have hdev : s2.dev? d = s.dev? d := by rw [hch]; rfl
  have hno : ¬(s.lau.acks.contains d || !(s2.dev? d).answers) = true := by
    rw [hdev, ha]
    simpa using hd
  simp only [State.reserveOn, hc, hlau, if_neg hno, hp, and_self]

theorem prepareOn_prepared (l : Launch) (ds members : List Nat) (s : State) : Prepared l ds members s (({ s with lau := l } : State).prepareOn ds members) := by
  refine ⟨fun ⟨d, hd, hdec⟩ => ?_, fun hall => ?_⟩
  · exact if_pos (List.any_eq_true.mpr ⟨d, hd, hdec⟩)
  · have hno : ¬ds.any (({ s with lau := l } : State).declines l) = true := by
      rw [List.any_eq_true]
      rintro ⟨d, hd, hdec⟩
      rw [hall d hd] at hdec
      cases hdec
    have heq : ({ s with lau := l } : State).prepareOn ds members = ds.foldl (fun s d => s.reserveOn d (s.groupsFor members d)) { s with lau := l } := if_neg hno
    rw [heq]
    obtain ⟨h1, h2⟩ := foldl_reserve members ds { s with lau := l } _ rfl
    refine ⟨h1, h2, ?_⟩
    rintro d start s2 cs rfl hd ha hc hp
    exact reserveOn_takes (s := { s with lau := l }) hd ha hc hp

theorem live_any {q : SeqCtx} : q.views.any View.live = true ↔ ∃ v ∈ q.views, v.live = true := List.any_eq_true

section
variable {s : State} (hstate : s.lau.state = .preparing) (hgang : s.lau.gang = true)
include hstate hgang

theorem gangPrepares_ends (h : s.gangCtx = none ∨ ∃ q, s.gangCtx = some q ∧ ∀ v ∈ q.views, v.live = false) : gangPrepares s = some { s with lau := s.lau.finish 3 } := by
  have hgo : ¬(s.lau.state ≠ .preparing ∨ s.lau.gang = false) := by simp [hstate, hgang]
  rcases h with h | ⟨q, hq, hdead⟩
  · simp only [gangPrepares, if_neg hgo, h]
  · have hno : q.views.any View.live = false := by
      rw [List.any_eq_false]
      exact fun v hv => by rw [hdead v hv]; exact Bool.false_ne_true
    simp only [gangPrepares, if_neg hgo, hq, hno, Bool.not_false, if_true]

theorem gangPrepares_sends {q : SeqCtx} {v : View} (hsent : s.lau.sent = false) (hq : s.gangCtx = some q) (hlive : ∃ w ∈ q.views, w.live = true) (hcur : q.cur = some v) (hv : v.state = .current) :
    gangPrepares s = some (State.prepareOn v.members.dedup v.members { s with lau := { s.lau with sent := true, sentAt := s.now, view := v.num } }) := by
  have hgo : ¬(s.lau.state ≠ .preparing ∨ s.lau.gang = false) := by simp [hstate, hgang]
  simp only [gangPrepares, if_neg hgo, hq, live_any.mpr hlive, Bool.not_true, Bool.false_eq_true, if_false, hsent, hcur, whenDue, hv, decide_true, if_true]

section
variable {q : SeqCtx} {v : View} (hsent : s.lau.sent = true) (hq : s.gangCtx = some q) (hview : q.view? s.lau.view = some v)
include hsent hq hview

theorem gangGoes_ends (hv : v.state ≠ .current) : gangGoes s = some { s with lau := s.lau.finish 3 } := by
  have hgo : ¬(s.lau.state ≠ .preparing ∨ s.lau.gang = false ∨ s.lau.sent = false) := by simp [hstate, hgang, hsent]
  simp only [gangGoes, if_neg hgo, hq, Option.bind_some, hview, Option.map_some, if_pos hv]

/-- The step that a gang launch binds to its view. -/
def boundStep (lid : Nat) (view : Word) : Step := { lid := lid, view := view, appended := false, commits := [], failed := false, rebuild := none }

theorem gangGoes_goes {marks : List (Nat × Nat × Nat)} (hv : v.state = .current) (hacks : ∀ d ∈ v.members, d ∈ s.lau.acks) (hm : s.newMarks s.lau v.members.dedup = some marks) :
    gangGoes s = some ((s.dispatch v.members marks).updSeq q.id (fun q => { q with steps := q.steps ++ [boundStep s.lau.lid v.num] })) := by
  have hgo : ¬(s.lau.state ≠ .preparing ∨ s.lau.gang = false ∨ s.lau.sent = false) := by simp [hstate, hgang, hsent]
  have hall : v.members.all s.lau.acks.contains = true := by simpa using hacks
  simp only [gangGoes, if_neg hgo, hq, Option.bind_some, hview, Option.map_some, if_neg (not_not_intro hv), hall, Bool.not_true, Bool.false_eq_true, if_false, hm]
  rfl
end
end

theorem gangCtx_seqCtx {s : State} {q : SeqCtx} (h : s.gangCtx = some q) : s.seqCtx s.lau.pid s.lau.seqId = some q := by
  unfold State.gangCtx at h
  split at h
  · exact h
  · cases h

theorem updSeq_keeps (id : Word) (f : SeqCtx → SeqCtx) (s : State) : (s.updSeq id f).mem = s.mem ∧ (s.updSeq id f).lau = s.lau ∧ (s.updSeq id f).groups = s.groups := by
  unfold State.updSeq
  split
  · exact ⟨rfl, rfl, rfl⟩
  · exact ⟨State.updDev_mem .., State.updDev_lau .., State.updDev_groups ..⟩

/-- Settles O42: dependences, prepare and go, with what each of them leaves of the launch. -/
theorem launchStartEvents : Obligations.LaunchStartEvents := by
  unfold Obligations.LaunchStartEvents
  intro lid s
  refine ⟨⟨?refused, fun va gen => ?faults, ?prepares, fun marks => ?dispatches⟩, ⟨?noCtx, fun q v => ?sends⟩, ⟨fun q v => ⟨?notCurrent, fun marks => ?goes⟩, ?gangTimeout⟩, ?fabricPrepare,
    fun marks => ?fabricGo, ?fabricTimeout⟩
  case refused =>
    refine happens_onLaunch (f := depsPassed) rfl (fun s1 ⟨hdue, h⟩ => ⟨_, depsPassed_refused hdue h, ?_⟩)
    exact congrArg (fun l : Launch => ({ depsRead s1 with lau := l.finish 1 } : State)) (depsRead_homeOnly s1).lau.symm
  case faults => exact happens_onLaunch (f := depsPassed) rfl (fun s1 ⟨hdue, h, hf⟩ => ⟨_, depsPassed_faults hdue h hf, rfl⟩)
  case prepares => exact happens_onLaunch (f := depsPassed) rfl (fun s1 ⟨hdue, h, hg⟩ => ⟨_, depsPassed_prepares hdue h hg, rfl⟩)
  case dispatches =>
    refine happens_onLaunch (f := depsPassed) rfl (fun s1 ⟨hdue, h, hg, hf, hm, h0, hsome⟩ => ⟨_, depsPassed_dispatches hdue h hg hf hm, ?_⟩)
    have hread := depsRead_homeOnly s1
    rw [← hread.lau] at hsome
    rw [← hread.nextId] at h0
    exact (dispatch_facts h0 hsome).1
  case noCtx => exact happens_onLaunch (f := gangPrepares) rfl (fun s1 ⟨⟨hs, hg, _⟩, h⟩ => ⟨_, gangPrepares_ends hs hg h, rfl⟩)
  case sends => exact happens_onLaunch (f := gangPrepares) rfl (fun s1 ⟨⟨hs, hg, hsent⟩, hq, hlive, hcur, hv⟩ => ⟨_, gangPrepares_sends hs hg hsent hq hlive hcur hv, prepareOn_prepared _ _ _ _⟩)
  case notCurrent => exact happens_onLaunch (f := gangGoes) rfl (fun s1 ⟨⟨⟨hs, hg, hsent⟩, hq, hview⟩, hv⟩ => ⟨_, gangGoes_ends hs hg hsent hq hview hv, rfl⟩)
  case goes =>
    refine happens_onLaunch (f := gangGoes) rfl (fun s1 ⟨⟨⟨hs, hg, hsent⟩, hq, hview⟩, hv, hacks, hm, h0, hsome⟩ => ⟨_, gangGoes_goes hs hg hsent hq hview hv hacks hm, ?_⟩)
    obtain ⟨hd, hsame⟩ := dispatch_facts (marks := marks) h0 hsome
    obtain ⟨hmem, hlau, hgroups⟩ := updSeq_keeps q.id (fun q => { q with steps := q.steps ++ [boundStep s1.lau.lid v.num] }) (s1.dispatch v.members marks)
    obtain ⟨c, hc⟩ := ctx?_of_seqCtx (gangCtx_seqCtx hq)
    rw [← hsame.ctx?] at hc
    exact ⟨hd.congr hmem hlau hgroups, _, ctx?_updSeq hc (fun _ h => h), _, List.mem_append_right _ (List.mem_singleton_self _), rfl, rfl⟩
  case gangTimeout =>
    exact happensWhen_onLaunch (f := prepareTimesOut true) (fun s => decide (s.lau.state = .preparing) && decide (s.lau.gang = true) && s.lau.sent && decide (s.lau.sentAt + 100000 ≤ s.now))
      (fun s => { s with lau := s.lau.finish 3 }) rfl (fun _ => rfl) (fun s1 => by simp [and_assoc]) (fun _ _ => rfl)
  case fabricPrepare =>
    refine happensWhen_onLaunch (f := fabricPrepares) (fun s => decide (s.lau.state = .preparing) && s.lau.isFabric)
      (fun s => State.prepareOn (s.fabricDevs s.lau) [] (if s.lau.sent then s else { s with lau := { s.lau with sent := true, sentAt := s.now } })) rfl (fun _ => rfl) (fun s1 => by simp) (fun s1 _ => ?_)
    have hlau : (if s1.lau.sent then s1 else { s1 with lau := { s1.lau with sent := true, sentAt := s1.now } } : State)
        = { s1 with lau := if s1.lau.sent then s1.lau else { s1.lau with sent := true, sentAt := s1.now } } := by
      split <;> rfl
    rw [hlau]
    exact prepareOn_prepared _ _ _ _
  case fabricGo =>
    refine happens_onLaunch (f := fabricGoes) rfl (fun s1 ⟨hs, hf, hsent, hacks, hm, h0, hsome⟩ => ⟨s1.dispatch [] marks, ?_, (dispatch_facts h0 hsome).1⟩)
    have hall : (s1.fabricDevs s1.lau).all s1.lau.acks.contains = true := by simpa using hacks
    simp only [fabricGoes, hs, hf, hsent, hall, decide_true, Bool.and_self, Bool.not_true, Bool.false_eq_true, if_false, hm, Option.map_some]
  case fabricTimeout =>
    exact happensWhen_onLaunch (f := prepareTimesOut false) (fun s => decide (s.lau.state = .preparing) && decide (s.lau.gang = false) && s.lau.sent && decide (s.lau.sentAt + 100000 ≤ s.now))
      (fun s => { s with lau := s.lau.finish 3 }) rfl (fun _ => rfl) (fun s1 => by simp [and_assoc]) (fun _ _ => rfl)

end Sys2Proof.Claims
end

section
/-!
PROOFS. Sync words: their bytes, an arrival or bytes at a word, and what completions bring about.
-/
namespace Sys2Proof.Claims
open Machine Bits Encoding

/-! ## The fields of a word (Table 11.6) -/

/-- Every field is within its width. -/
def WordFits (w : SyncWord) : Prop := w.bt < 2 ^ 32 ∧ w.bc < 2 ^ 32 ∧ w.tc < 2 ^ 16 ∧ w.tt < 2 ^ 16 ∧ w.gen < 2 ^ 32

theorem natAt_lt (bs : List Byte) (o n : Nat) : natAt bs o n < 256 ^ n := by
  refine (ofBytes_lt _).trans_le (Nat.pow_le_pow_right (by decide) ?_)
  simp

theorem syncWord_fits (bs : List Byte) : WordFits (SyncWord.ofBytes bs) :=
  ⟨natAt_lt bs 0 4, natAt_lt bs 4 4, natAt_lt bs 10 2, natAt_lt bs 8 2, natAt_lt bs 12 4⟩

theorem syncWord_length (w : SyncWord) : w.bytes.length = 16 := by
  simp [SyncWord.bytes]

theorem natAt_toBytes {xs ys : List Byte} {o n v : Nat} (ho : xs.length = o) (hv : v < 256 ^ n) : natAt (xs ++ (toBytes n v ++ ys)) o n = v := by
  rw [natAt, List.drop_left' ho, List.take_left' (toBytes_length n v), ofBytes_toBytes, Nat.mod_eq_of_lt hv]

theorem syncWord_ofBytes {w : SyncWord} (h : WordFits w) : SyncWord.ofBytes w.bytes = w := by
  obtain ⟨h1, h2, h3, h4, h5⟩ := h
  have hbt : natAt w.bytes 0 4 = w.bt := by
    simp only [SyncWord.bytes, List.append_assoc]
    exact natAt_toBytes (xs := []) rfl h1
  have hbc : natAt w.bytes 4 4 = w.bc := by
    simp only [SyncWord.bytes, List.append_assoc]
    exact natAt_toBytes (toBytes_length 4 w.bt) h2
  have htt : natAt w.bytes 8 2 = w.tt := by
    have hlen : (toBytes 4 w.bt ++ toBytes 4 w.bc).length = 8 := by simp
    have := natAt_toBytes (n := 2) (ys := toBytes 2 w.tc ++ toBytes 4 w.gen) hlen h4
    simpa only [SyncWord.bytes, List.append_assoc] using this
  have htc : natAt w.bytes 10 2 = w.tc := by
    have hlen : (toBytes 4 w.bt ++ toBytes 4 w.bc ++ toBytes 2 w.tt).length = 10 := by simp
    have := natAt_toBytes (n := 2) (ys := toBytes 4 w.gen) hlen h3
    simpa only [SyncWord.bytes, List.append_assoc] using this
  have hgen : natAt w.bytes 12 4 = w.gen := by
    have hlen : (toBytes 4 w.bt ++ toBytes 4 w.bc ++ toBytes 2 w.tt ++ toBytes 2 w.tc).length = 12 := by simp
    have := natAt_toBytes (n := 4) (ys := []) hlen h5
    simpa only [SyncWord.bytes, List.append_assoc, List.append_nil] using this
  rw [SyncWord.ofBytes, hbt, hbc, htt, htc, hgen]

/-! ## An update (R168) -/

theorem loop_fits (n : Nat) : ∀ (first : Bool) (w : SyncWord) (held k : Nat), WordFits w → WordFits (SyncWord.loop n first w held k).1 := by
  induction n with
  | zero => exact fun _ _ _ _ h => h
  | succ n ih =>
    intro first w held k h
    obtain ⟨h1, h2, h3, h4, -⟩ := id h
    unfold SyncWord.loop
    split
    · refine ih _ _ _ _ ⟨h1, ?_, ?_, h4, Nat.mod_lt _ (by decide)⟩
      · exact (Nat.sub_le _ _).trans_lt h2
      · exact (Nat.min_le_right _ _).trans_lt h4
    · exact h

theorem run_fits {w : SyncWord} (held : Nat) (h : WordFits w) : WordFits (SyncWord.run w held).1 := by
  obtain ⟨h1, -, h3, h4, -⟩ := id h
  unfold SyncWord.run
  split
  · next hbytes =>
    exact ⟨h1, (Nat.mod_lt _ hbytes.2.2).trans h1, h3, h4, Nat.mod_lt _ (by decide)⟩
  · exact loop_fits _ _ _ _ _ h

theorem apply_fits {w : SyncWord} (held bytes : Nat) (arrival : Bool) (h : WordFits w) (hok : countsOk w) : WordFits (w.apply held bytes arrival).1 := by
  obtain ⟨h1, -, h3, h4, h5⟩ := h
  refine run_fits _ ⟨h1, ?_, ?_, h4, h5⟩
  · exact (Nat.min_le_right _ _).trans_lt (by decide)
  · dsimp only
    split
    · next ha =>
      simp only [Bool.and_eq_true, Bool.not_eq_true', Bool.and_eq_false_imp, decide_eq_false_iff_not] at ha
      have hne := ha.2 ha.1
      unfold countsOk at hok
      omega
    · exact h3

/-! ## A word at its home -/

/-- What an update of a word can change: memory, groups and their scratchpads, threads, load caches, launches' generations and stamps. -/
def SyncOnly (s t : State) : Prop :=
  t = { s with mem := t.mem, stamps := t.stamps, held := t.held, thr := t.thr, threads := t.threads, grp := t.grp, groups := t.groups, lau := t.lau, launches := t.launches, core := t.core, cores := t.cores }

theorem SyncOnly.trans {s t u : State} (h1 : SyncOnly s t) (h2 : SyncOnly t u) : SyncOnly s u := by
  unfold SyncOnly at h1 h2 ⊢
  rw [h1] at h2
  exact h2

theorem syncOnly_foldl {α : Type} {f : State → α → State} (h : ∀ s a, SyncOnly s (f s a)) (l : List α) (s : State) : SyncOnly s (l.foldl f s) := by
  induction l generalizing s with
  | nil => exact rfl
  | cons a l ih => exact (h s a).trans (ih _)

section
variable {s t : State} (h : SyncOnly s t)
include h
theorem SyncOnly.part : t.part = s.part := (congrArg State.part (show t = _ from h) :)
theorem SyncOnly.parts : t.parts = s.parts := (congrArg State.parts (show t = _ from h) :)
theorem SyncOnly.dev : t.dev = s.dev := (congrArg State.dev (show t = _ from h) :)
theorem SyncOnly.devs : t.devs = s.devs := (congrArg State.devs (show t = _ from h) :)
theorem SyncOnly.nextId : t.nextId = s.nextId := (congrArg State.nextId (show t = _ from h) :)
theorem SyncOnly.inflight : t.inflight = s.inflight := (congrArg State.inflight (show t = _ from h) :)
theorem SyncOnly.attrs : t.attrs = s.attrs := (congrArg State.attrs (show t = _ from h) :)
end

theorem updCore_only (d n : Nat) (f : Core → Core) (s : State) : s.updCore d n f = { s with core := (s.updCore d n f).core, cores := (s.updCore d n f).cores } := by
  unfold State.updCore
  split <;> rfl

/-- Nothing but load caches differs. -/
def CoresOnly (s t : State) : Prop := t = { s with core := t.core, cores := t.cores }

theorem CoresOnly.trans {s t u : State} (h1 : CoresOnly s t) (h2 : CoresOnly t u) : CoresOnly s u := by
  unfold CoresOnly at h1 h2 ⊢
  rw [h1] at h2
  exact h2

theorem coresOnly_foldl {α : Type} {f : State → α → State} (h : ∀ s a, CoresOnly s (f s a)) (l : List α) (s : State) : CoresOnly s (l.foldl f s) := by
  induction l generalizing s with
  | nil => exact rfl
  | cons a l ih =>
    exact (h s a).trans (ih _)

/-- What a thread becomes at an update of a word. -/
def woken (loc : SyncLoc) (gen : Word) (changed : Bool) (counts : Nat × Nat × Nat) (clk : Nat) (t : Thread) : Thread :=
  if t.satisfied loc gen then t.wake clk else if changed && t.waitsOn loc then t.recount counts clk else t

theorem wakeSync_eq (loc : SyncLoc) (gen : Word) (changed : Bool) (counts : Nat × Nat × Nat) (s : State) :
    CoresOnly (s.mapThreads (woken loc gen changed counts s.dev.clk)) (s.wakeSync loc gen changed counts) := by
  refine coresOnly_foldl (fun s g => ?_) _ _
  split
  · exact updCore_only ..
  · exact rfl

theorem woken_ready {loc : SyncLoc} {gen : Word} {changed : Bool} {counts : Nat × Nat × Nat} {clk : Nat} {t : Thread} (h : t.status = .ready) : woken loc gen changed counts clk t = t := by
  simp [woken, Thread.satisfied, Thread.waitsOn, h]

section
variable (loc : SyncLoc) (gen : Word) (changed : Bool) (counts : Nat × Nat × Nat) (s : State)

theorem wakeSync_syncOnly : SyncOnly s (s.wakeSync loc gen changed counts) := by
  have h := wakeSync_eq loc gen changed counts s
  generalize s.wakeSync loc gen changed counts = t at h
  unfold CoresOnly at h
  unfold SyncOnly
  rw [h]
  rfl

theorem wakeSync_keeps : (s.wakeSync loc gen changed counts).mem = s.mem ∧ (s.wakeSync loc gen changed counts).held = s.held ∧ (s.wakeSync loc gen changed counts).grp = s.grp
    ∧ (s.wakeSync loc gen changed counts).groups = s.groups ∧ (s.wakeSync loc gen changed counts).lau = s.lau ∧ (s.wakeSync loc gen changed counts).launches = s.launches
    ∧ (s.wakeSync loc gen changed counts).thr = woken loc gen changed counts s.dev.clk s.thr := by
  have h := wakeSync_eq loc gen changed counts s
  generalize s.wakeSync loc gen changed counts = t at h
  unfold CoresOnly at h
  rw [h]
  exact ⟨rfl, rfl, rfl, rfl, rfl, rfl, rfl⟩
end

/-- A launch as its generations advance: its marks alone differ. -/
def SameLaunch (l m : Launch) : Prop := m = { l with marks := m.marks }

/-- What advancing the generations of a launch changes. -/
def GensOnly (lid : Nat) (s t : State) : Prop :=
  t = { s with stamps := t.stamps, lau := t.lau, launches := t.launches } ∧ SameLaunch s.lau t.lau ∧ ∀ l ∈ s.launches, l.lid ≠ lid → l ∈ t.launches

theorem GensOnly.keeps {lid : Nat} {s t : State} (h : GensOnly lid s t) : t.mem = s.mem ∧ t.held = s.held ∧ t.grp = s.grp ∧ t.groups = s.groups ∧ t.thr = s.thr ∧ SyncOnly s t := by
  obtain ⟨h, -⟩ := h
  unfold SyncOnly
  rw [h]
  exact ⟨rfl, rfl, rfl, rfl, rfl, rfl⟩

theorem gensOnly_refl (lid : Nat) (s : State) : GensOnly lid s s := ⟨rfl, rfl, fun _ h _ => h⟩

theorem GensOnly.trans {lid : Nat} {s t u : State} (h1 : GensOnly lid s t) (h2 : GensOnly lid t u) : GensOnly lid s u := by
  obtain ⟨e1, l1, m1⟩ := h1
  obtain ⟨e2, l2, m2⟩ := h2
  refine ⟨?_, ?_, fun l hl hne => m2 l (m1 l hl hne) hne⟩
  · rw [e1] at e2
    exact e2
  · unfold SameLaunch at l1 l2 ⊢
    rw [l1] at l2
    exact l2

theorem advanceGen_only (lid dev : Nat) (s : State) : GensOnly lid s (s.advanceGen lid dev) := by
  unfold State.advanceGen
  split
  · exact gensOnly_refl lid s
  · refine ⟨rfl, ?_, fun l hl hne => List.mem_map.mpr ⟨l, hl, if_neg hne⟩⟩
    unfold SameLaunch
    simp only [State.updLaunch, State.mapLaunches]
    split <;> rfl

theorem advanceGens_only (lid dev n : Nat) (s : State) : GensOnly lid s (State.advanceGens lid dev n s) := by
  induction n generalizing s with
  | zero => exact gensOnly_refl lid s
  | succ n ih => exact (advanceGen_only lid dev s).trans (ih _)

theorem onComplete_gens (key lid n : Nat) (s : State) : GensOnly lid s (s.onComplete (.mem key) lid n) := by
  unfold State.onComplete
  dsimp only
  split
  · exact advanceGens_only ..
  · exact gensOnly_refl lid s

/-- A word put with its held arrivals, and what its completions bring about. -/
def syncUpdated (loc : SyncLoc) (w : SyncWord) (held n lid : Nat) (s : State) : State :=
  (if n = 0 then s.putSync loc w held else (s.putSync loc w held).onComplete loc lid n).wakeSync loc (BitVec.ofNat 32 w.gen) (n ≠ 0 || w.counts ≠ (s.syncWord loc).counts) w.counts

/-- A word after an update, the arrivals held at it, and its completions. -/
def syncAfter (loc : SyncLoc) (bytes : Nat) (arrival : Bool) (s : State) : SyncWord × Nat × Nat := (s.syncWord loc).apply (s.syncHeld loc) bytes arrival

theorem syncApply_eq (loc : SyncLoc) (bytes : Nat) (arrival : Bool) (lid : Nat) (s : State) :
    s.syncApply loc bytes arrival lid = syncUpdated loc (syncAfter loc bytes arrival s).1 (syncAfter loc bytes arrival s).2.1 (syncAfter loc bytes arrival s).2.2 lid s := rfl

/-- A word in memory is put: its 16 bytes and its held arrivals, the threads that wait on it, and the launch's generations. -/
theorem syncUpdated_mem (key : Nat) (w : SyncWord) (held n lid : Nat) (s : State) : ∀ t, t = syncUpdated (.mem key) w held n lid s →
    SyncOnly s t ∧ t.mem = Mem.write s.mem key w.bytes ∧ t.held = putHeld key held s.held ∧ t.grp = s.grp ∧ t.groups = s.groups
      ∧ SameLaunch s.lau t.lau ∧ (∀ l ∈ s.launches, l.lid ≠ lid → l ∈ t.launches) ∧ (s.thr.status = .ready → t.thr = s.thr) := by
  rintro t rfl
  unfold syncUpdated
  have hput : SyncOnly s (s.putSync (.mem key) w held) := rfl
  have hgens : GensOnly lid (s.putSync (.mem key) w held) (if n = 0 then s.putSync (.mem key) w held else (s.putSync (.mem key) w held).onComplete (.mem key) lid n) := by
    split
    · exact gensOnly_refl lid _
    · exact onComplete_gens key lid n _
  generalize (if n = 0 then s.putSync (.mem key) w held else (s.putSync (.mem key) w held).onComplete (.mem key) lid n) = s2 at hgens
  obtain ⟨hmem2, hheld2, hgrp2, hgroups2, hthr2, honly⟩ := hgens.keeps
  obtain ⟨-, hlau, hlaunches⟩ := hgens
  obtain ⟨hmem, hheld, hgrp, hgroups, hl, hls, hthr⟩ := wakeSync_keeps (.mem key) (BitVec.ofNat 32 w.gen) (n ≠ 0 || w.counts ≠ (s.syncWord (.mem key)).counts) w.counts s2
  refine ⟨(hput.trans honly).trans (wakeSync_syncOnly ..), hmem.trans hmem2, hheld.trans hheld2, hgrp.trans hgrp2, hgroups.trans hgroups2, ?_, fun l hl0 hne => ?_, fun hready => ?_⟩
  · rw [hl]; exact hlau
  · rw [hls]; exact hlaunches l hl0 hne
  · rw [hthr, hthr2]
    exact woken_ready hready

theorem syncWord_write (m : List Host.Cell) (key : Nat) {w : SyncWord} (h : WordFits w) : SyncWord.ofBytes (Mem.read (Mem.write m key w.bytes) key 16) = w := by
  have hread := Mem.read_write_self m key w.bytes
  rw [syncWord_length] at hread
  rw [hread, syncWord_ofBytes h]

theorem syncBytes_other (m : List Host.Cell) (key : Nat) (w : SyncWord) {a : Nat} (h : a < key ∨ key + 16 ≤ a) : Mem.get (Mem.write m key w.bytes) a = Mem.get m a := by
  rw [Mem.get_write, syncWord_length]
  exact if_neg (by omega)

end Sys2Proof.Claims
end

section
/-!
PROOFS. How a launch ends: reports, drain, done word and completion record (O43).
-/
namespace Sys2Proof.Claims
open Machine Bits Encoding

/-! ## The launch leaves the machine (R138) -/

theorem foldl_proj {α β : Type} {f : State → α → State} (p : State → β) (h : ∀ s a, p (f s a) = p s) (l : List α) (s : State) : p (l.foldl f s) = p s := by
  induction l generalizing s with
  | nil => rfl
  | cons a l ih => rw [List.foldl_cons, ih, h]

theorem dropPages_launches (d pid first count : Nat) (s : State) : (s.dropPages d pid first count).launches = s.launches := rfl

theorem perform_launches (k : Nat) (bs : List Byte) (s : State) : (s.perform k bs).launches = s.launches := rfl

theorem dropStacks_launches (l : Launch) (d : Nat) (s : State) : (s.dropStacks l d).launches = s.launches := by
  unfold State.dropStacks
  dsimp only
  split
  · rfl
  · rw [dropPages_launches]
    exact foldl_proj State.launches (fun s x => perform_launches ..) _ _

theorem tagsKept_launches (s : State) : (tagsKept s).launches = s.launches :=
  (foldl_proj State.launches (fun _ _ => State.updPart_launches ..) _ _).trans (foldl_proj State.launches (fun s d => dropStacks_launches _ d s) _ _)

theorem tagsKept_mem {s : State} (h0 : s.lau.stackBase = 0) : (tagsKept s).mem = s.mem :=
  (foldl_mem (fun s m => State.updPart_mem ..) _ _).trans (congrArg State.mem (foldl_fixed (fun d => dropStacks_none h0 d s) _))

/-- The launch counted by its mailbox or its census. -/
def counted (l : Launch) (s : State) : State :=
  match l.source with
  | .mailbox m _ => { s with part := s.part.mailboxDone m }
  | .responder c _ _ _ => s.updCensus c (fun c => { c with finished := c.finished + 1 })
  | _ => s

theorem counted_keeps (l : Launch) (s : State) : (counted l s).mem = s.mem ∧ (counted l s).launches = s.launches := by
  unfold counted
  split <;> exact ⟨rfl, rfl⟩

/-- The launch and its groups are gone; every other launch stands. -/
def LaunchGone (s t : State) : Prop := t.lau = Launch.none ∧ (∀ g ∈ t.groups, g.lid ≠ s.lau.lid) ∧ ∀ l ∈ s.launches, l.lid ≠ s.lau.lid → l ∈ t.launches

theorem removeLaunch_gone (s : State) : LaunchGone s s.removeLaunch ∧ (s.lau.stackBase = 0 → s.removeLaunch.mem = s.mem) := by
  obtain ⟨hmem, hlaunches⟩ := counted_keeps s.lau (tagsKept s)
  have heq : s.removeLaunch = { counted s.lau (tagsKept s) with
      lau := Launch.none, grp := if (counted s.lau (tagsKept s)).grp.lid = s.lau.lid && (counted s.lau (tagsKept s)).grp.gid ≠ 0 then Group.none else (counted s.lau (tagsKept s)).grp,
      groups := (counted s.lau (tagsKept s)).groups.filter (fun g => !(g.lid = s.lau.lid)) } := rfl
  rw [heq]
  refine ⟨⟨rfl, fun g hg => ?_, fun l hl _ => ?_⟩, fun h0 => hmem.trans (tagsKept_mem h0)⟩
  · simpa using (List.mem_filter.mp hg).2
  · rw [show ({ counted s.lau (tagsKept s) with lau := _, grp := _, groups := _ } : State).launches = _ from hlaunches, tagsKept_launches]
    exact hl

/-! ## What the device writes at the end (R227, R338) -/

/-- The checked-out launch but for its marks, and every other launch, are as they were. -/
def EndKept (s t : State) : Prop := SameLaunch s.lau t.lau ∧ ∀ l ∈ s.launches, l.lid ≠ s.lau.lid → l ∈ t.launches

theorem EndKept.of_eq {s t : State} (hlau : t.lau = s.lau) (hlaunches : t.launches = s.launches) : EndKept s t :=
  ⟨by rw [SameLaunch, hlau], fun l hl _ => by rw [hlaunches]; exact hl⟩

theorem SameLaunch.record {l m : Launch} (h : SameLaunch l m) : m.record = l.record := (congrArg Launch.record (show m = _ from h) :)
theorem SameLaunch.lid {l m : Launch} (h : SameLaunch l m) : m.lid = l.lid := (congrArg Launch.lid (show m = _ from h) :)

theorem EndKept.trans {s t u : State} (h1 : EndKept s t) (h2 : EndKept t u) : EndKept s u := by
  obtain ⟨l1, m1⟩ := h1
  obtain ⟨l2, m2⟩ := h2
  refine ⟨?_, fun l hl hne => m2 l (m1 l hl hne) (by rw [l1.lid]; exact hne)⟩
  unfold SameLaunch at l1 l2 ⊢
  rw [l1] at l2
  exact l2

/-- Memory once the done word has had its arrival. -/
def wroteDone (done : Option Nat) (s : State) : List Host.Cell :=
  match done with
  | some k => Mem.write s.mem k (syncAfter (.mem k) 0 true s).1.bytes
  | none => s.mem

/-- The bytes of a completion record. -/
def completionBytes (l : Launch) : List Byte := toBytes 8 l.serial.toNat ++ toBytes 4 l.status ++ toBytes 4 0

/-- Memory once the completion record stands. -/
def wroteRecord (comp : Option Nat) (l : Launch) (m : List Host.Cell) : List Host.Cell :=
  match comp with
  | some k => Mem.write m k (completionBytes l)
  | none => m

theorem journalLaunch_launches (l : Launch) (state status : Nat) (s : State) : (s.journalLaunch l state status).launches = s.launches := by
  unfold State.journalLaunch
  split
  · exact State.updPart_launches ..
  · rfl

theorem msixSignal_keeps (dev pid v : Nat) (s : State) : (s.msixSignal dev pid v).mem = s.mem ∧ (s.msixSignal dev pid v).lau = s.lau ∧ (s.msixSignal dev pid v).launches = s.launches := by
  unfold State.msixSignal State.emit
  split
  · exact ⟨State.updPart_mem .., State.updPart_lau .., State.updPart_launches ..⟩
  · split <;> exact ⟨rfl, rfl, rfl⟩

/-- The interrupt of a launch from a host queue. -/
def signalled (l : Launch) (s : State) : State :=
  match l.source, l.interrupt with
  | .queue q _, true => s.msixSignal l.dev l.pid q
  | _, _ => s

theorem signalled_keeps (l : Launch) (s : State) : (signalled l s).mem = s.mem ∧ (signalled l s).lau = s.lau ∧ (signalled l s).launches = s.launches := by
  unfold signalled
  split
  · exact msixSignal_keeps ..
  · exact ⟨rfl, rfl, rfl⟩

/-- The state once the done word has had its arrival. -/
def doneArrived (done : Option Nat) (s : State) : State :=
  match done with
  | some k => s.syncApply (.mem k) 0 true s.lau.lid
  | none => s

/-- The state once the completion record stands. -/
def recordStands (comp : Option Nat) (l : Launch) (s : State) : State :=
  match comp with
  | some k => (s.perform k (completionBytes l)).clearPoison ((completionBytes l).zipIdx.map (fun b => (k + b.2, b.1)))
  | none => s

theorem endWrites_eq (done comp : Option Nat) (s : State) : s.endWrites done comp
    = signalled s.lau (State.journalLaunch s.lau (if s.lau.status = 0 then 2 else 3) s.lau.status (recordStands comp s.lau (doneArrived done s))) := rfl

theorem doneArrived_facts (done : Option Nat) (s : State) : EndKept s (doneArrived done s) ∧ (doneArrived done s).mem = wroteDone done s := by
  cases done with
  | none => exact ⟨.of_eq rfl rfl, rfl⟩
  | some k =>
    obtain ⟨-, hmem, -, -, -, hlau, hlaunches, -⟩ := syncUpdated_mem k (syncAfter (.mem k) 0 true s).1 (syncAfter (.mem k) 0 true s).2.1 (syncAfter (.mem k) 0 true s).2.2 s.lau.lid s _ rfl
    exact ⟨⟨hlau, hlaunches⟩, hmem⟩

theorem recordStands_facts (comp : Option Nat) (l : Launch) (s : State) : EndKept s (recordStands comp l s) ∧ (recordStands comp l s).mem = wroteRecord comp l s.mem := by
  cases comp with
  | none => exact ⟨.of_eq rfl rfl, rfl⟩
  | some k => exact ⟨.of_eq rfl rfl, rfl⟩

theorem endWrites_facts (done comp : Option Nat) (s : State) : EndKept s (s.endWrites done comp) ∧ (s.endWrites done comp).mem = wroteRecord comp s.lau (wroteDone done s) := by
  rw [endWrites_eq]
  obtain ⟨hk1, hm1⟩ := doneArrived_facts done s
  obtain ⟨hk2, hm2⟩ := recordStands_facts comp s.lau (doneArrived done s)
  generalize recordStands comp s.lau (doneArrived done s) = s2 at *
  obtain ⟨hm3, hl3, -, -⟩ := journalLaunch_keeps s.lau (if s.lau.status = 0 then 2 else 3) s.lau.status s2
  have hk3 : EndKept s2 _ := .of_eq hl3 (journalLaunch_launches s.lau (if s.lau.status = 0 then 2 else 3) s.lau.status s2)
  generalize State.journalLaunch s.lau (if s.lau.status = 0 then 2 else 3) s.lau.status s2 = s3 at *
  obtain ⟨hm4, hl4, hls4⟩ := signalled_keeps s.lau s3
  refine ⟨((hk1.trans hk2).trans hk3).trans (.of_eq hl4 hls4), ?_⟩
  rw [hm4, hm3, hm2, hm1]

/-- What the device writes at the end, and the launch is gone. -/
theorem endWrites_gone (done comp : Option Nat) (s : State) : LaunchGone s (s.endWrites done comp).removeLaunch
    ∧ (s.lau.stackBase = 0 → (s.endWrites done comp).removeLaunch.mem = wroteRecord comp s.lau (wroteDone done s)) := by
  obtain ⟨⟨hlau, hlaunches⟩, hmem⟩ := endWrites_facts done comp s
  obtain ⟨⟨hnone, hgroups, hall⟩, hm⟩ := removeLaunch_gone (s.endWrites done comp)
  rw [hlau.lid] at hgroups hall
  refine ⟨⟨hnone, hgroups, fun l hl hne => hall l (hlaunches l hl hne) hne⟩, fun h0 => ?_⟩
  rw [hm ?_, hmem]
  have hbase : (s.endWrites done comp).lau.stackBase = s.lau.stackBase := by
    unfold Launch.stackBase Launch.fld
    rw [hlau.record]
  rw [hbase, h0]

/-! ## The end of a launch (R227, R236) -/

theorem visit_homeOnly (va : Nat) (store : Bool) (s : State) : HomeOnly s (s.visit va store) := by
  unfold State.visit
  split
  · exact mark_homeOnly ..
  · exact homeOnly_refl s

theorem mark_lau (va : Nat) (store : Bool) (x : Xlat) (l : Launch) (s : State) : ({ s with lau := l } : State).mark va store x = { s.mark va store x with lau := l } := by
  unfold State.mark
  by_cases hu : Pte.used x.entry store = x.entry
  · rw [if_pos hu, if_pos hu]
  · rw [if_neg hu, if_neg hu]
    dsimp only
    cases walk s.mem s.part va with
    | leaf e k =>
      dsimp only
      split <;> rfl
    | _ => rfl

theorem visit_lau (va : Nat) (store : Bool) (l : Launch) (s : State) : ({ s with lau := l } : State).visit va store = { s.visit va store with lau := l } := by
  unfold State.visit
  dsimp only
  cases translateBy s.mem s.part [] va with
  | ok x => exact mark_lau va store x l s
  | _ => rfl

theorem writePlace_zero (s : State) (classes : List Nat) : s.writePlace 0 classes = .ok none := if_pos (Or.inl rfl)

section
variable {s : State}

/-- A launch that writes no done word. -/
theorem finishLaunch_plain (hd : (if s.lau.status = 0 || s.lau.status = 3 || (s.lau.status = 2 && s.lau.failed) then s.writePlace s.lau.doneWord [0, 2, 5] else .ok none) = .ok none)
    (hc : s.lau.completion = 0) : s.finishLaunch = (s.endWrites none none).removeLaunch := by
  simp only [State.finishLaunch, hd, hc, Nat.zero_mod, if_true, writePlace_zero]
  rfl

section
variable (hw : (s.lau.status = 0 || s.lau.status = 3 || (s.lau.status = 2 && s.lau.failed)) = true)
include hw

theorem finishLaunch_record {comp : Nat} (hd : s.lau.doneWord = 0) (ha : s.lau.completion % 16 = 0) (hc : s.writePlace s.lau.completion [0, 2, 5] = .ok (some comp)) :
    s.finishLaunch = ((s.visit s.lau.completion true).endWrites none (some comp)).removeLaunch := by
  simp only [State.finishLaunch, hw, hd, if_true, writePlace_zero, ha, hc]
  rfl

theorem finishLaunch_done {done : Nat} (hd : s.writePlace s.lau.doneWord [0, 2, 5] = .ok (some done)) (hc : s.lau.completion = 0) :
    s.finishLaunch = ((s.visit s.lau.doneWord true).endWrites (some done) none).removeLaunch := by
  simp only [State.finishLaunch, hw, hd, hc, Nat.zero_mod, if_true, writePlace_zero]
  rfl

theorem finishLaunch_fault {k : Nat} (hd : s.writePlace s.lau.doneWord [0, 2, 5] = .error k) : s.finishLaunch = s.postFault (s.lau.doneWord / 2 ^ 16) k 0xFFFFFFFF := by
  simp only [State.finishLaunch, hw, hd, if_true]
end
end

/-- Every group of the launch is over, on a device that answers, and no step of it is to be run again. -/
def AllOver (s : State) : Prop := s.dev.answers = true ∧ s.groupsOver s.lau = true ∧ s.awaitsRerun s.lau = false

/-- Its jobs, accesses and steps are over too. -/
def Drained (s : State) : Prop := AllOver s ∧ s.launchDrained s.lau = true ∧ (s.lau.state = .running ∨ s.lau.state = .draining ∨ s.lau.state = .aborting)

/-- The status a launch ends with, aborted or not. -/
def endStatus (s : State) : Nat := if s.lau.failed then 2 else 0

/-- The checked-out launch completed. -/
def completed (s : State) : State := { s with lau := s.lau.finish (endStatus s) }

theorem completed_writes (s : State) : ((completed s).lau.status = 0 || (completed s).lau.status = 3 || ((completed s).lau.status = 2 && (completed s).lau.failed)) = true := by
  have hst : (completed s).lau.status = if s.lau.failed then 2 else 0 := rfl
  have hf : (completed s).lau.failed = s.lau.failed := rfl
  rw [hst, hf]
  cases s.lau.failed <;> rfl

theorem launchEnds_drains {s : State} (h : AllOver s) (hr : s.lau.state = .running) (hd : s.launchDrained s.lau = false) : launchEnds s = some { s with lau := { s.lau with state := .draining } } := by
  obtain ⟨ha, hg, hw⟩ := h
  have hc : ¬s.lau.state = .completed := by rw [hr]; decide
  have hgo : ¬(!(s.lau.state = .running || s.lau.state = .draining || s.lau.state = .aborting) || !(s.groupsOver s.lau) || s.awaitsRerun s.lau) = true := by simp [hr, hg, hw]
  simp only [launchEnds, ha, Bool.not_true, Bool.false_eq_true, if_false, if_neg hc, if_neg hgo, hd]
  rw [whenDue, decide_eq_true hr, if_pos rfl]

theorem launchEnds_completes {s : State} (h : Drained s) : launchEnds s = some (completed s).finishLaunch := by
  obtain ⟨⟨ha, hg, hw⟩, hd, hst⟩ := h
  have hc : ¬s.lau.state = .completed := by rcases hst with h | h | h <;> rw [h] <;> decide
  have hgo : ¬(!(s.lau.state = .running || s.lau.state = .draining || s.lau.state = .aborting) || !(s.groupsOver s.lau) || s.awaitsRerun s.lau) = true := by
    rcases hst with h | h | h <;> simp [h, hg, hw]
  simp only [launchEnds, ha, Bool.not_true, Bool.false_eq_true, if_false, if_neg hc, if_neg hgo, hd, if_true]
  rfl

theorem launchEnds_writes {s : State} (ha : s.dev.answers = true) (hst : s.lau.state = .completed) : launchEnds s = some s.finishLaunch := by
  simp only [launchEnds, ha, Bool.not_true, Bool.false_eq_true, if_false, if_pos hst]

/-- The launch as it is completed writes at the end, and is gone. -/
theorem completed_gone (va : Nat) (done comp : Option Nat) (s : State) : LaunchGone s (((completed s).visit va true).endWrites done comp).removeLaunch
    ∧ (s.lau.stackBase = 0 → (((completed s).visit va true).endWrites done comp).removeLaunch.mem = wroteRecord comp (completed s).lau (wroteDone done (s.visit va true))) := by
  have hv := visit_lau va true (s.lau.finish (endStatus s)) s
  obtain ⟨⟨hnone, hgroups, hall⟩, hmem⟩ := endWrites_gone done comp ((completed s).visit va true)
  unfold completed at *
  rw [hv] at *
  have hls : (s.visit va true).launches = s.launches := (congrArg State.launches (show s.visit va true = _ from visit_homeOnly va true s) :)
  refine ⟨⟨hnone, hgroups, fun l hl hne => hall l (by rw [← hls] at hl; exact hl) hne⟩, fun h0 => (hmem h0).trans ?_⟩
  cases done <;> rfl

/-- The done word has had a thread arrival, and nothing else differs. -/
theorem wroteDone_arrives {k : Nat} {v t : State} (hok : countsOk (v.syncWord (.mem k))) (hm : t.mem = wroteDone (some k) v) :
    (∀ a, a < k ∨ k + 16 ≤ a → Mem.get t.mem a = Mem.get v.mem a) ∧ t.syncWord (.mem k) = ((v.syncWord (.mem k)).apply (v.syncHeld (.mem k)) 0 true).1 := by
  have hm' : t.mem = Mem.write v.mem k ((v.syncWord (.mem k)).apply (v.syncHeld (.mem k)) 0 true).1.bytes := hm
  have hword : t.syncWord (.mem k) = SyncWord.ofBytes (Mem.read t.mem k 16) := rfl
  rw [hword, hm']
  exact ⟨fun a ha => syncBytes_other _ _ _ ha, syncWord_write _ _ (apply_fits _ _ _ (syncWord_fits _) hok)⟩

/-- The completion record holds the serial and the status. -/
theorem wroteRecord_stands {k : Nat} {s : State} {m m' : List Host.Cell} (hm : m' = wroteRecord (some k) (completed s).lau m) :
    Written k (toBytes 8 s.lau.serial.toNat ++ toBytes 4 (if s.lau.failed then 2 else 0) ++ toBytes 4 0) m m' := by
  have hw := written_write m k (completionBytes (completed s).lau)
  rw [hm]
  exact hw

theorem completed_done {s : State} {k : Nat} (hc : s.lau.completion = 0) (hd : s.writePlace s.lau.doneWord [0, 2, 5] = .ok (some k))
    (hok : countsOk ((s.visit s.lau.doneWord true).syncWord (.mem k))) : LaunchGone s (completed s).finishLaunch
    ∧ (s.lau.stackBase = 0 → (∀ a, a < k ∨ k + 16 ≤ a → Mem.get (completed s).finishLaunch.mem a = Mem.get (s.visit s.lau.doneWord true).mem a)
      ∧ (completed s).finishLaunch.syncWord (.mem k) = (((s.visit s.lau.doneWord true).syncWord (.mem k)).apply ((s.visit s.lau.doneWord true).syncHeld (.mem k)) 0 true).1) := by
  obtain ⟨hgone, hmem⟩ := completed_gone s.lau.doneWord (some k) none s
  rw [finishLaunch_done (completed_writes s) hd hc]
  exact ⟨hgone, fun h0 => wroteDone_arrives hok (hmem h0)⟩

theorem completed_record {s : State} {k : Nat} (hd : s.lau.doneWord = 0) (ha : s.lau.completion % 16 = 0) (hc : s.writePlace s.lau.completion [0, 2, 5] = .ok (some k)) :
    LaunchGone s (completed s).finishLaunch ∧ (s.lau.stackBase = 0 → Written k (toBytes 8 s.lau.serial.toNat ++ toBytes 4 (if s.lau.failed then 2 else 0) ++ toBytes 4 0)
      (s.visit s.lau.completion true).mem (completed s).finishLaunch.mem) := by
  obtain ⟨hgone, hmem⟩ := completed_gone s.lau.completion none (some k) s
  rw [finishLaunch_record (completed_writes s) hd ha hc]
  exact ⟨hgone, fun h0 => wroteRecord_stands (hmem h0)⟩

theorem completed_plain {s : State} (hd : s.lau.doneWord = 0) (hc : s.lau.completion = 0) :
    LaunchGone s (completed s).finishLaunch ∧ (s.lau.stackBase = 0 → (completed s).finishLaunch.mem = s.mem) := by
  have hplace : (completed s).writePlace (completed s).lau.doneWord [0, 2, 5] = .ok none := by rw [show (completed s).lau.doneWord = 0 from hd, writePlace_zero]
  rw [finishLaunch_plain (s := completed s) (by rw [completed_writes, if_pos rfl, hplace]) hc]
  exact endWrites_gone none none (completed s)

/-- Settles O43: a device reports, and a launch drains and ends, with its done word, its completion record and no trace left. -/
theorem launchEndEvents : Obligations.LaunchEndEvents := by
  unfold Obligations.LaunchEndEvents
  intro lid dev s
  refine ⟨?report, ?drains, ⟨?plain, fun comp => ?record, fun done => ?done, fun k => ?fault⟩, ?rejected⟩
  case report =>
    refine happensWhen_onLaunch (f := fabricReports dev) (fun s => s.lau.isFabric && (s.lau.state = .running || s.lau.state = .aborting || s.lau.state = .draining) && (s.fabricDevs s.lau).contains dev
      && !(s.lau.reports.contains dev) && (s.dev? dev).answers && s.dev.answers && s.endedOn s.lau dev && !s.busyOn s.lau.lid dev) (fun s => { s with lau := { s.lau with reports := dev :: s.lau.reports } })
      rfl (fun _ => rfl) (fun s1 => ?_) (fun _ _ => rfl)
    simp only [Bool.and_eq_true, Bool.or_eq_true, decide_eq_true_eq, Bool.not_eq_true', List.contains_eq_mem, decide_eq_false_iff_not, and_assoc, or_assoc]
  case drains => exact happens_onLaunch (f := launchEnds) rfl (fun s1 ⟨hover, hr, hd⟩ => ⟨_, launchEnds_drains hover hr hd, rfl⟩)
  case plain => exact happens_onLaunch (f := launchEnds) rfl (fun s1 ⟨hdr, hd, hc⟩ => ⟨_, launchEnds_completes hdr, completed_plain hd hc⟩)
  case record => exact happens_onLaunch (f := launchEnds) rfl (fun s1 ⟨hdr, hd, _, ha, hc⟩ => ⟨_, launchEnds_completes hdr, completed_record hd ha hc⟩)
  case done => exact happens_onLaunch (f := launchEnds) rfl (fun s1 ⟨hdr, hc, hd, hok⟩ => ⟨_, launchEnds_completes hdr, completed_done hc hd hok⟩)
  case fault =>
    refine happens_onLaunch (f := launchEnds) rfl (fun s1 ⟨hdr, hd⟩ => ⟨_, launchEnds_completes hdr, ?_⟩)
    exact finishLaunch_fault (completed_writes s1) hd
  case rejected =>
    refine happens_onLaunch (f := launchEnds) rfl (fun s1 ⟨ha, hst, hstatus, hc⟩ => ⟨_, launchEnds_writes ha hst, ?_⟩)
    have hno : (s1.lau.status = 0 || s1.lau.status = 3 || (s1.lau.status = 2 && s1.lau.failed)) = false := by
      rcases hstatus with h | h <;> rw [h] <;> rfl
    rw [finishLaunch_plain (by rw [hno]; rfl) hc]
    exact endWrites_gone none none s1

end Sys2Proof.Claims
end

section
/-!
PROOFS. Host queues, device firmware's own launches, deferred launches and mailboxes (O41).
-/
namespace Sys2Proof.Claims
open Machine Bits Encoding

/-! ## The registers of a queue (R226) -/

theorem queue_setQueue (q : Nat) (x : Queue) (s : State) (r : Nat) : (s.setQueue q x).part.queue r = if r = q then x else s.part.queue r := by
  unfold State.setQueue Part.queue
  rw [lookup_insert]
  split <;> rfl

/-- Whether the device refuses a tail. -/
theorem ring_eq (x : Queue) (tail : Word) : x.ring tail = if x.size < (tail - x.head).toNat ∨ (tail - x.tail).toInt < 0 then { x with ctl := x.ctl ||| 0x40000000 } else { x with tail := tail } := by
  simp only [Queue.ring, Bool.or_eq_true, decide_eq_true_eq, BitVec.msb_eq_toInt]

theorem ringDoorbell_running {q : Nat} (tail : Word) {s : State} (hq : q < 64) (hp : s.part.pstat = 0) : ringDoorbell q tail s = some (s.setQueue q ((s.part.queue q).ring tail)) := by
  rw [ringDoorbell, whenDue, if_pos (decide_eq_true hq), if_neg (not_not.mpr hp)]

/-- A launch of the queue that waits, completed by the queue's reset. -/
def resetLaunch (q : Nat) (s : State) (l : Launch) : Launch := if s.fromQueue q l && (l.state = .submitted || l.state = .waiting) then l.finish 2 else l

theorem fromQueue_iff (q : Nat) (s : State) {l : Launch} (h0 : l.lid ≠ 0) : s.fromQueue q l = true ↔ l.dev = s.part.dev ∧ l.pid = s.part.pid ∧ ∃ e, l.source = .queue q e := by
  unfold State.fromQueue
  cases l.source <;> simp [h0, and_assoc]

theorem mem_mapLaunches (f : Launch → Launch) {s : State} {l : Launch} (h : l ∈ s.allLaunches) : f l ∈ (s.mapLaunches f).allLaunches := List.mem_map_of_mem (f := f) h

theorem resetLaunch_waits {q : Nat} {s : State} {l : Launch} (h0 : l.lid ≠ 0) (h : l.dev = s.part.dev ∧ l.pid = s.part.pid ∧ (∃ e, l.source = .queue q e) ∧ (l.state = .submitted ∨ l.state = .waiting)) :
    resetLaunch q s l = l.finish 2 := by
  obtain ⟨hd, hp, he, hst⟩ := h
  have hq : s.fromQueue q l = true := (fromQueue_iff q s h0).mpr ⟨hd, hp, he⟩
  rw [resetLaunch, hq]
  simp [hst]

theorem resetLaunch_other {q : Nat} {s : State} {l : Launch} (h0 : l.lid ≠ 0) (h : ¬(l.dev = s.part.dev ∧ l.pid = s.part.pid ∧ (∃ e, l.source = .queue q e) ∧ (l.state = .submitted ∨ l.state = .waiting))) :
    resetLaunch q s l = l := by
  refine if_neg fun hc => h ?_
  simp only [Bool.and_eq_true, Bool.or_eq_true, decide_eq_true_eq, fromQueue_iff q s h0] at hc
  obtain ⟨⟨hd, hp, he⟩, hst⟩ := hc
  exact ⟨hd, hp, he, hst⟩

/-! ## A launch accepted for the checked-out partition (R226, R338) -/

/-- What is recorded of an accepted launch; `number` is its launch number, or that of its journal entry. -/
def Launch.waitingAs (l : Launch) (number : Word) (s : State) : Launch :=
  { l with lid := s.nextId, state := .waiting, priority := field (l.fld 16 4) 3 0, number := number, nbv := s.part.nbv }

theorem updPart_self (f : Part → Part) (s : State) : s.updPart s.part.dev s.part.pid f = { s with part := f s.part } := if_pos ⟨rfl, rfl⟩

section
variable {l : Launch} {s : State} (hd : l.dev = s.part.dev) (hp : l.pid = s.part.pid)
include hd hp

theorem acceptLaunch_device (hsrc : ∀ q e, l.source ≠ .queue q e) : s.acceptLaunch l (field (l.fld 16 4) 3 0)
    = { s with nextId := s.nextId + 1, part := { s.part with launchNo := nextLaunchNo s.part.launchNo }, launches := putLaunch (Launch.waitingAs l s.part.launchNo s) s.launches } := by
  have hpart : ({ s with nextId := s.nextId + 1 } : State).part? l.dev l.pid = s.part := by rw [hd, hp]; exact part?_self _
  have hupd : ({ s with nextId := s.nextId + 1 } : State).updPart l.dev l.pid (fun p => { p with launchNo := nextLaunchNo p.launchNo })
      = { s with nextId := s.nextId + 1, part := { s.part with launchNo := nextLaunchNo s.part.launchNo } } := by rw [hd, hp]; exact updPart_self _ { s with nextId := s.nextId + 1 }
  unfold State.acceptLaunch State.freshId
  dsimp only
  rw [hpart, hupd]
  split
  · next q e hq => exact absurd hq (hsrc q e)
  · rfl

theorem acceptLaunch_queue {q e : Nat} (hsrc : l.source = .queue q e) : s.acceptLaunch l (field (l.fld 16 4) 3 0)
    = { s with nextId := s.nextId + 1, part := s.part.journalAdd 0 0 q false (BitVec.ofNat 64 e) l.serial (s.gtime l.dev), launches := putLaunch (Launch.waitingAs l s.part.jhead s) s.launches } := by
  have hpart : ({ s with nextId := s.nextId + 1 } : State).part? l.dev l.pid = s.part := by rw [hd, hp]; exact part?_self _
  have hupd (f : Part → Part) : ({ s with nextId := s.nextId + 1 } : State).updPart l.dev l.pid f = { s with nextId := s.nextId + 1, part := f s.part } := by rw [hd, hp]; exact updPart_self f { s with nextId := s.nextId + 1 }
  unfold State.acceptLaunch State.freshId State.journalLaunch Launch.waitingAs
  dsimp only
  rw [hpart, hsrc]
  simp only [if_true]
  rw [hupd]
  rfl
end

/-! ## The entry at the head of a host queue (R226) -/

theorem visit_eq (va : Nat) (store : Bool) (s : State) : s.visit va store = { s with mem := (s.visit va store).mem } := by
  unfold State.visit
  split
  · exact mark_eq ..
  · rfl

/-- Virtual address of the entry at the head of queue `q`. -/
def headVa (q : Nat) (s : State) : Nat := (s.part.queue q).base.toNat + 64 * ((s.part.queue q).head.toNat % (s.part.queue q).size)

/-- The entry has been read. -/
def entryRead (q : Nat) (s : State) : State := if (s.part.queue q).ctl.getLsbD 8 then s else s.visit (headVa q s) false

theorem entryRead_eq (q : Nat) (s : State) : entryRead q s = { s with mem := (entryRead q s).mem } := by
  unfold entryRead
  split
  · rfl
  · exact visit_eq ..

/-- The launch that an entry and a record describe. -/
def described (q : Nat) (bs r : List Byte) (s : State) : Launch :=
  { Launch.submitted s.part.dev s.part.pid r (BitVec.ofNat 64 (natAt bs 24 8)) (.queue q (headVa q s)) with
    serial := BitVec.ofNat 64 (natAt bs 8 8), completion := natAt bs 16 8, interrupt := bit (natAt bs 32 4) 0 }

/-- What the device does with the entry's launch once it is accepted. -/
def settleEntry (verdict : Option Nat) (id : Nat) (s : State) : State :=
  match verdict with
  | some status => s.updLaunch id (fun l => l.finish status)
  | none => s

/-- The launch so settled. -/
def settledAs (verdict : Option Nat) (l : Launch) : Launch :=
  match verdict with
  | some status => l.finish status
  | none => l

/-- Queue `q` may have its head entry accepted. -/
def QueueReady (q k : Nat) (s : State) : Prop :=
  q < 64 ∧ (s.part.queue q).ctl.getLsbD 31 = true ∧ (s.part.queue q).ctl.getLsbD 30 = false ∧ (s.part.queue q).head ≠ (s.part.queue q).tail ∧ s.part.pstat = 0 ∧ s.part.broken = false
    ∧ s.dev.answers = true ∧ s.queuePlace (s.part.queue q) = some k ∧ 0 < s.nextId

/-- The state once the entry and its launch are settled. -/
def entrySettled (q : Nat) (bs r : List Byte) (read : State) (verdict : Option Nat) (s : State) : State :=
  (settleEntry verdict read.nextId (read.acceptLaunch (described q bs r s) (field ((described q bs r s).fld 16 4) 3 0))).setQueue q { s.part.queue q with head := (s.part.queue q).head + 1 }

theorem entryVisited_eq (q va : Nat) (s : State) : (entryRead q s).visit va false = { s with mem := ((entryRead q s).visit va false).mem } := by
  have h := visit_eq va false (entryRead q s)
  generalize ((entryRead q s).visit va false).mem = m at *
  rw [h, entryRead_eq]

theorem entryRead_answers {q : Nat} {s : State} (ha : s.dev.answers = true) : (entryRead q s).dev.answers = true := by
  rw [entryRead_eq]
  exact ha

section
variable {q k : Nat} {s : State} (h : QueueReady q k s)
include h

theorem acceptEntry_bad (hb : entryBad (Mem.read s.mem k 64) = true) : acceptEntry q s = some (entrySettled q (Mem.read s.mem k 64) [] (entryRead q s) (some 4) s) := by
  obtain ⟨hq, he, herr, hne, hp, hbr, ha, hk, -⟩ := h
  have hdev := entryRead_answers (q := q) ha
  unfold entryRead headVa at hdev
  simp only [acceptEntry, hk, hb, if_true, Option.isSome_none, Bool.false_eq_true, if_false, whenDue, decide_eq_true hq, he, herr, hbr, hdev, decide_eq_true hp, decide_eq_true hne, Bool.not_false, Bool.and_self]
  rfl

theorem acceptEntry_norecord (hb : entryBad (Mem.read s.mem k 64) = false) (hr : s.readRecord (natAt (Mem.read s.mem k 64) 0 8) = none) :
    acceptEntry q s = some (entrySettled q (Mem.read s.mem k 64) [] (entryRead q s) (some 1) s) := by
  obtain ⟨hq, he, herr, hne, hp, hbr, ha, hk, -⟩ := h
  have hdev := entryRead_answers (q := q) ha
  unfold entryRead headVa at hdev
  simp only [acceptEntry, hk, hb, hr, if_true, Option.isSome_none, Option.isNone_none, Bool.true_or, Bool.false_eq_true, if_false, whenDue, decide_eq_true hq, he, herr, hbr, hdev, decide_eq_true hp,
    decide_eq_true hne, Bool.not_false, Bool.and_self]
  rfl

theorem acceptEntry_record {r : List Byte} (hb : entryBad (Mem.read s.mem k 64) = false) (hr : s.readRecord (natAt (Mem.read s.mem k 64) 0 8) = some r) :
    acceptEntry q s = some (entrySettled q (Mem.read s.mem k 64) r ((entryRead q s).visit (natAt (Mem.read s.mem k 64) 0 8) false)
      (if (described q (Mem.read s.mem k 64) r s).recordOk s.part none then none else some 1) s) := by
  obtain ⟨hq, he, herr, hne, hp, hbr, ha, hk, -⟩ := h
  have hdev : ((entryRead q s).visit (natAt (Mem.read s.mem k 64) 0 8) false).dev.answers = true := by
    rw [visit_eq]
    exact entryRead_answers ha
  unfold entryRead headVa at hdev
  have hok : ∀ (l : Launch) (id : Nat) (t : State), (if (!l.recordOk s.part none) = true then t.updLaunch id (fun l => l.finish 1) else t) = settleEntry (if l.recordOk s.part none then none else some 1) id t := by
    intro l id t
    cases l.recordOk s.part none <;> rfl
  simp only [acceptEntry, hk, hb, hr, if_true, Option.isSome_some, Option.isNone_some, Bool.false_or, Bool.false_eq_true, if_false, whenDue, decide_eq_true hq, he, herr, hbr, hdev, decide_eq_true hp,
    decide_eq_true hne, Bool.not_false, Bool.and_self, hok, Option.getD_some]
  rfl

/-- The launch of the entry as it is recorded. -/
theorem entrySettled_facts (r : List Byte) {read : State} (hread : read = { s with mem := read.mem }) (verdict : Option Nat) {bs : List Byte} {t : State} (ht : t = entrySettled q bs r read verdict s) :
    t.mem = read.mem ∧ t.part.queue q = { s.part.queue q with head := (s.part.queue q).head + 1 } ∧ t.part.jhead = nextSeqno s.part.jhead
    ∧ settledAs verdict (Launch.waitingAs (described q bs r s) s.part.jhead s) ∈ t.allLaunches := by
  obtain ⟨-, -, -, -, -, -, -, -, h0⟩ := h
  have hacc := acceptLaunch_queue (l := described q bs r s) (s := read) (q := q) (e := headVa q s) (by rw [hread]; rfl) (by rw [hread]; rfl) rfl
  have hin : Launch.waitingAs (described q bs r s) s.part.jhead s ∈ (read.acceptLaunch (described q bs r s) (field ((described q bs r s).fld 16 4) 3 0)).allLaunches := by
    rw [hacc, hread]
    exact List.mem_cons_of_mem _ (mem_putLaunch (Nat.ne_of_gt h0) _)
  have hmem : (read.acceptLaunch (described q bs r s) (field ((described q bs r s).fld 16 4) 3 0)).mem = read.mem := by rw [hacc]
  have hj : (read.acceptLaunch (described q bs r s) (field ((described q bs r s).fld 16 4) 3 0)).part.jhead = nextSeqno s.part.jhead := by rw [hacc, hread]; rfl
  have hqueue : t.part.queue q = { s.part.queue q with head := (s.part.queue q).head + 1 } := by rw [ht, entrySettled, queue_setQueue, if_pos rfl]
  clear hacc
  unfold entrySettled at ht
  rw [show read.nextId = s.nextId by rw [hread]] at ht
  generalize read.acceptLaunch (described q bs r s) (field ((described q bs r s).fld 16 4) 3 0) = a at *
  cases verdict with
  | none => exact ⟨by rw [ht]; exact hmem, hqueue, by rw [ht]; exact hj, by rw [ht]; exact hin⟩
  | some status =>
    refine ⟨by rw [ht]; exact hmem, hqueue, by rw [ht]; exact hj, ?_⟩
    have hup := mem_mapLaunches (fun l => if l.lid = s.nextId then l.finish status else l) hin
    rw [if_pos (show (Launch.waitingAs (described q bs r s) s.part.jhead s).lid = s.nextId from rfl)] at hup
    rw [ht]
    exact hup

end

/-! ## Launches that were held (R229, R230) -/

theorem choose_keeps (n : Nat) (s : State) : (s.choose n).2 = { s with drawn := (s.choose n).2.drawn } := by
  unfold State.choose
  split <;> rfl

theorem startHeld_facts {l : Launch} {s u t : State} (hu : u = { s with drawn := u.drawn }) (hl : l ∈ s.allLaunches) (ht : t = u.startHeld l) : t.mem = s.mem ∧ t.part.launchNo = nextLaunchNo s.part.launchNo
    ∧ { l with state := .waiting, priority := field (l.fld 16 4) 3 0, number := s.part.launchNo, nbv := s.part.nbv } ∈ t.allLaunches := by
  have hup := mem_mapLaunches (fun m : Launch => if m.lid = l.lid then { m with state := .waiting, priority := field (m.fld 16 4) 3 0, number := s.part.launchNo, nbv := s.part.nbv } else m) hl
  rw [if_pos rfl] at hup
  rw [ht, hu]
  exact ⟨rfl, rfl, hup⟩

/-- A state once mailbox `m`, drawn by choice, has given its first held launch. -/
def mailboxTook (n m : Nat) (b : Mailbox) (s : State) : State := { s with drawn := n, part := { s.part with mailboxes := Bits.insert m { b with held := b.held.drop 1 } s.part.mailboxes } }

theorem readRecord_mailboxTook (n m : Nat) (b : Mailbox) (s : State) (va : Nat) : (mailboxTook n m b s).readRecord va = s.readRecord va := rfl

theorem visit_mailboxTook_mem (n m : Nat) (b : Mailbox) (s : State) (va : Nat) : ((mailboxTook n m b s).visit va false).mem = (s.visit va false).mem := by
  unfold State.visit
  rw [show translateBy (mailboxTook n m b s).mem (mailboxTook n m b s).part [] va = translateBy s.mem s.part [] va from rfl]
  split
  · unfold State.mark
    split
    · rfl
    · rw [show walk (mailboxTook n m b s).mem (mailboxTook n m b s).part va = walk s.mem s.part va from rfl]
      split
      · split <;> rfl
      · rfl
  · rfl

theorem lookup_mailboxTook (n m : Nat) (b : Mailbox) (s : State) : lookup m (mailboxTook n m b s).part.mailboxes = some { b with held := b.held.drop 1 } := lookup_insert_self ..

section
variable {s : State} (hn : s.deviceLaunches s.part.dev s.part.pid < 4096) (hp : s.part.pstat = 0)
include hn hp

theorem startDeferred_held {l : Launch} (hl : s.heldLaunches[(s.choose (s.heldLaunches.length + s.part.heldMailboxes.length)).1]? = some l) :
    startDeferred s = some ((s.choose (s.heldLaunches.length + s.part.heldMailboxes.length)).2.startHeld l) := by
  have hlen : 0 < s.heldLaunches.length + s.part.heldMailboxes.length := by
    obtain ⟨hi, -⟩ := List.getElem?_eq_some_iff.mp hl
    omega
  simp only [startDeferred, hl, whenDue, decide_eq_true hlen, decide_eq_true hn, decide_eq_true hp, Bool.and_self, if_true]

theorem startDeferred_mailbox {m : Nat} {b : Mailbox} (hl : s.heldLaunches = []) (hm : s.part.heldMailboxes[(s.choose s.part.heldMailboxes.length).1]? = some (m, b)) :
    startDeferred s = some (State.startHandler m (b.held.headD 0) (mailboxTook (s.choose s.part.heldMailboxes.length).2.drawn m b s)) := by
  have hlen : 0 < 0 + s.part.heldMailboxes.length := by
    obtain ⟨hi, -⟩ := List.getElem?_eq_some_iff.mp hm
    omega
  have hm' := hm
  rw [← Nat.zero_add s.part.heldMailboxes.length] at hm'
  simp only [startDeferred, hl, List.length_nil, List.getElem?_nil, Nat.sub_zero, hm', whenDue, decide_eq_true hlen, decide_eq_true hn, decide_eq_true hp, Bool.and_self, if_true]
  rw [Nat.zero_add, choose_keeps]
  rfl
end

/-- The handler of a mailbox whose record may be launched. -/
theorem startHandler_accepts {m addr : Nat} {b : Mailbox} {r : List Byte} {s : State} (hb : lookup m s.part.mailboxes = some b) (hr : s.readRecord b.record.toNat = some r)
    (hok : (Launch.submitted s.part.dev s.part.pid r (BitVec.ofNat 64 addr) (.mailbox m addr)).recordOk s.part (some m) = true) :
    s.startHandler m addr = (s.visit b.record.toNat false).acceptLaunch (Launch.submitted s.part.dev s.part.pid r (BitVec.ofNat 64 addr) (.mailbox m addr))
      (field ((Launch.submitted s.part.dev s.part.pid r (BitVec.ofNat 64 addr) (.mailbox m addr)).fld 16 4) 3 0) := by
  simp only [State.startHandler, hb, hr, Option.map_some, hok, if_true]

/-- A held launch of a mailbox starts. -/
theorem startHandler_facts {n m a : Nat} {as : List Nat} {b : Mailbox} {r : List Byte} {s t : State} (hheld : b.held = a :: as) (hr : s.readRecord b.record.toNat = some r) (h0 : 0 < s.nextId)
    (hok : (Launch.submitted s.part.dev s.part.pid r (BitVec.ofNat 64 a) (.mailbox m a)).recordOk s.part (some m) = true) (ht : t = State.startHandler m (b.held.headD 0) (mailboxTook n m b s)) :
    t.mem = (s.visit b.record.toNat false).mem ∧ lookup m t.part.mailboxes = some { b with held := as } ∧ t.part.launchNo = nextLaunchNo s.part.launchNo
      ∧ Launch.waitingAs (Launch.submitted s.part.dev s.part.pid r (BitVec.ofNat 64 a) (.mailbox m a)) s.part.launchNo s ∈ t.allLaunches := by
  have hlook := lookup_mailboxTook n m b s
  have hvisit := visit_mailboxTook_mem n m b s b.record.toNat
  have hstart := startHandler_accepts (addr := a) hlook ((readRecord_mailboxTook n m b s _).trans hr) hok
  have hacc := acceptLaunch_device (l := Launch.submitted s.part.dev s.part.pid r (BitVec.ofNat 64 a) (.mailbox m a)) (s := (mailboxTook n m b s).visit b.record.toNat false)
    (by rw [visit_eq]; rfl) (by rw [visit_eq]; rfl) (fun _ _ h => by cases h)
  rw [hheld, List.drop_succ_cons, List.drop_zero] at hlook
  rw [ht, hheld, List.headD_cons, hstart]
  refine ⟨(congrArg State.mem hacc).trans hvisit, ?_, ?_, ?_⟩
  · rw [← hlook]
    refine congrArg (lookup m) ((congrArg (fun s => s.part.mailboxes) hacc).trans ?_)
    rw [visit_eq]
  · refine (congrArg (fun s => s.part.launchNo) hacc).trans ?_
    rw [visit_eq]
    rfl
  · refine (congrArg State.allLaunches hacc).substr (List.mem_cons_of_mem _ ?_)
    rw [visit_eq]
    exact mem_putLaunch (Nat.ne_of_gt h0) _

/-- Device firmware's own launch. -/
theorem acceptOwn_eq (record : List Byte) (arg : DWord) {s : State} (hp : s.part.pstat = 0) (hb : s.part.broken = false) (ha : s.dev.answers = true) :
    acceptOwn record arg s = some (if (Launch.submitted s.part.dev s.part.pid record arg .firmware).recordOk s.part none
      then s.acceptLaunch (Launch.submitted s.part.dev s.part.pid record arg .firmware) (field ((Launch.submitted s.part.dev s.part.pid record arg .firmware).fld 16 4) 3 0) else s) := by
  simp only [acceptOwn, whenDue, hp, hb, ha, decide_true, Bool.not_false, Bool.and_self, if_true]

/-- Settles O41: doorbells, control bits and resets of host queues; entries, device firmware's launches and held launches accepted. -/
theorem queueEvents : Obligations.QueueEvents := by
  unfold Obligations.QueueEvents
  intro dev pid q m tail on s
  refine ⟨?rung, ?refused, ?recorded, ?enabled, ?cleared, ?reset, fun k => ⟨fun r => ?entry, fun r => ?entryRule, ?entryNoRecord, ?entryBad⟩, fun record arg => ⟨?own, ?ownRule⟩,
    ⟨fun l => ?held, fun b a as r => ?mailbox⟩, fun b => ?overflow⟩
  case rung =>
    refine happens_onPart (f := ringDoorbell q tail) rfl (fun s1 ⟨hq, hp, hr⟩ => ⟨_, ringDoorbell_running tail hq hp, ?_⟩)
    rw [show (s1.part.queue q).ring tail = _ from (ring_eq ..).trans (if_neg hr)]
    rfl
  case refused =>
    refine happens_onPart (f := ringDoorbell q tail) rfl (fun s1 ⟨hq, hp, hr⟩ => ⟨_, ringDoorbell_running tail hq hp, ?_⟩)
    rw [show (s1.part.queue q).ring tail = _ from (ring_eq ..).trans (if_pos hr)]
    rfl
  case recorded =>
    refine happens_onPart (f := ringDoorbell q tail) rfl (fun s1 ⟨hq, hp⟩ => ⟨_, ?_, rfl⟩)
    rw [ringDoorbell, whenDue, if_pos (decide_eq_true hq), if_pos hp]
  case enabled => exact happensWhen_onPart (f := enableQueue q on) (fun _ => decide (q < 64)) _ rfl (fun _ => rfl) (fun _ => decide_eq_true_iff) (fun _ _ => rfl)
  case cleared => exact happensWhen_onPart (f := clearQueueError q) (fun _ => decide (q < 64)) _ rfl (fun _ => rfl) (fun _ => decide_eq_true_iff) (fun _ _ => rfl)
  case reset =>
    refine happensWhen_onPart (f := resetQueue q) (fun _ => decide (q < 64))
      (fun s => (s.mapLaunches (resetLaunch q s)).setQueue q { s.part.queue q with head := (s.part.queue q).tail, ctl := (s.part.queue q).ctl &&& 0xBFFFFFFF })
      rfl (fun _ => rfl) (fun _ => decide_eq_true_iff) (fun s1 _ => ⟨rfl, rfl, ?_, fun r hr => ?_, fun l h0 hl => ?_⟩)
    · rw [queue_setQueue, if_pos rfl]
    · rw [queue_setQueue, if_neg hr]
      rfl
    · have hin := mem_mapLaunches (resetLaunch q s1) hl
      refine ⟨fun hw => ?_, fun hw => ?_⟩
      · rw [resetLaunch_waits h0 hw] at hin
        exact hin
      · rw [resetLaunch_other h0 hw] at hin
        exact hin
  case entry =>
    refine happens_onPart (f := acceptEntry q) rfl (fun s1 ⟨hready, hb, hr, hok⟩ => ?_)
    have hacc := acceptEntry_record hready hb hr
    rw [show (described q (Mem.read s1.mem k 64) r s1).recordOk s1.part none = true from hok] at hacc
    exact ⟨_, hacc, entrySettled_facts hready r (entryVisited_eq ..) none rfl⟩
  case entryRule =>
    refine happens_onPart (f := acceptEntry q) rfl (fun s1 ⟨hready, hb, hr, hok⟩ => ?_)
    have hacc := acceptEntry_record hready hb hr
    rw [show (described q (Mem.read s1.mem k 64) r s1).recordOk s1.part none = false from hok] at hacc
    exact ⟨_, hacc, entrySettled_facts hready r (entryVisited_eq ..) (some 1) rfl⟩
  case entryNoRecord => exact happens_onPart (f := acceptEntry q) rfl (fun s1 ⟨hready, hb, hr⟩ => ⟨_, acceptEntry_norecord hready hb hr, entrySettled_facts hready [] (entryRead_eq ..) (some 1) rfl⟩)
  case entryBad => exact happens_onPart (f := acceptEntry q) rfl (fun s1 ⟨hready, hb⟩ => ⟨_, acceptEntry_bad hready hb, entrySettled_facts hready [] (entryRead_eq ..) (some 4) rfl⟩)
  case own =>
    refine happens_onPart (f := acceptOwn record arg) rfl (fun s1 ⟨⟨hp, hb, ha⟩, h0, hok⟩ => ⟨_, acceptOwn_eq record arg hp hb ha, ?_⟩)
    rw [if_pos hok, acceptLaunch_device rfl rfl (fun _ _ h => by cases h)]
    exact ⟨rfl, rfl, List.mem_cons_of_mem _ (mem_putLaunch (Nat.ne_of_gt h0) _)⟩
  case ownRule =>
    refine happens_onPart (f := acceptOwn record arg) rfl (fun s1 ⟨⟨hp, hb, ha⟩, hok⟩ => ⟨_, acceptOwn_eq record arg hp hb ha, ?_⟩)
    exact if_neg (by rw [hok]; exact Bool.false_ne_true)
  case held =>
    refine happens_onPart (f := startDeferred) rfl (fun s1 ⟨⟨hn, hp⟩, hl⟩ => ⟨_, startDeferred_held hn hp hl, ?_⟩)
    exact startHeld_facts (choose_keeps ..) (List.mem_filter.mp (List.mem_of_getElem? hl)).1 rfl
  case mailbox =>
    refine happens_onPart (f := startDeferred) rfl (fun s1 ⟨⟨hn, hp⟩, hl, hm, hheld, hr, h0, hok⟩ => ?_)
    have hm' : s1.part.heldMailboxes[(s1.choose (s1.heldLaunches.length + s1.part.heldMailboxes.length)).1]? = some (m, b) := hm
    rw [hl, List.length_nil, Nat.zero_add] at hm'
    exact ⟨_, startDeferred_mailbox hn hp hl hm', startHandler_facts hheld hr h0 hok rfl⟩
  case overflow =>
    refine happens_onPart (f := clearOverflow m) rfl (fun s1 hb => ⟨_, ?_, rfl⟩)
    simp only [clearOverflow, hb]

end Sys2Proof.Claims
end

section
/-!
PROOFS. The sync-word instructions: initialise, arrive, wait, barrier and poll (O15).
-/
namespace Sys2Proof.Claims
open Machine Bits Encoding

/-! ## A word of the checked-out group, or in memory -/

theorem group?_own (s : State) : s.group? s.grp.gid = some s.grp := by simp [State.group?, State.allGroups]

/-- A word in memory, or one of the checked-out group's scratchpad. -/
def OwnLoc (loc : SyncLoc) (s : State) : Prop :=
  match loc with
  | .mem _ => True
  | .scratch gid _ => gid = s.grp.gid

/-- What the words in memory and in the group's scratchpad rest on is the same. -/
def SameWords (s t : State) : Prop :=
  t.mem = s.mem ∧ t.held = s.held ∧ t.attrs = s.attrs ∧ t.grp.gid = s.grp.gid ∧ t.grp.scratch = s.grp.scratch ∧ t.grp.held = s.grp.held ∧ t.grp.attrs = s.grp.attrs

theorem SameWords.trans {s t u : State} (h1 : SameWords s t) (h2 : SameWords t u) : SameWords s u := by
  obtain ⟨a1, b1, c1, d1, e1, f1, g1⟩ := h1
  obtain ⟨a2, b2, c2, d2, e2, f2, g2⟩ := h2
  exact ⟨a2.trans a1, b2.trans b1, c2.trans c1, d2.trans d1, e2.trans e1, f2.trans f1, g2.trans g1⟩

theorem sameWords_refl (s : State) : SameWords s s := ⟨rfl, rfl, rfl, rfl, rfl, rfl, rfl⟩

theorem SameWords.of_grp {s t : State} (hmem : t.mem = s.mem) (hheld : t.held = s.held) (hattrs : t.attrs = s.attrs) (hgrp : t.grp = s.grp) : SameWords s t :=
  ⟨hmem, hheld, hattrs, by rw [hgrp], by rw [hgrp], by rw [hgrp], by rw [hgrp]⟩

section
variable {loc : SyncLoc} {s t : State} (h : SameWords s t) (ho : OwnLoc loc s)
include h ho

theorem SameWords.own : OwnLoc loc t := by
  obtain ⟨-, -, -, hgid, -⟩ := h
  cases loc with
  | mem key => exact trivial
  | scratch gid off => exact (show gid = s.grp.gid from ho).trans hgid.symm

theorem SameWords.syncWord : t.syncWord loc = s.syncWord loc := by
  have ht := h.own ho
  obtain ⟨hmem, -, -, -, hscratch, -⟩ := h
  cases loc with
  | mem key => simp only [State.syncWord, hmem]
  | scratch gid off =>
    have hs : gid = s.grp.gid := ho
    have ht' : gid = t.grp.gid := ht
    have h1 : s.group? gid = some s.grp := by rw [hs, group?_own]
    have h2 : t.group? gid = some t.grp := by rw [ht', group?_own]
    simp only [State.syncWord, h1, h2, Option.map_some, Option.getD_some, hscratch]

theorem SameWords.syncHeld : t.syncHeld loc = s.syncHeld loc := by
  have ht := h.own ho
  obtain ⟨-, hheld, -, -, -, hgheld, -⟩ := h
  cases loc with
  | mem key => simp only [State.syncHeld, hheld]
  | scratch gid off =>
    have hs : gid = s.grp.gid := ho
    have ht' : gid = t.grp.gid := ht
    have h1 : s.group? gid = some s.grp := by rw [hs, group?_own]
    have h2 : t.group? gid = some t.grp := by rw [ht', group?_own]
    simp only [State.syncHeld, h1, h2, Option.map_some, Option.getD_some, hgheld]

theorem SameWords.syncAttr : t.syncAttr loc = s.syncAttr loc := by
  have ht := h.own ho
  obtain ⟨-, -, hattrs, -, -, -, hgattrs⟩ := h
  cases loc with
  | mem key => simp only [State.syncAttr, hattrs]
  | scratch gid off =>
    have hs : gid = s.grp.gid := ho
    have ht' : gid = t.grp.gid := ht
    have h1 : s.group? gid = some s.grp := by rw [hs, group?_own]
    have h2 : t.group? gid = some t.grp := by rw [ht', group?_own]
    simp only [State.syncAttr, h1, h2, Option.map_some, Option.getD_some, hgattrs]
end

/-- The word has these fields, held arrivals and attributes, and outside its 16 bytes nothing differs. -/
def WordPut (loc : SyncLoc) (w : SyncWord) (held : Nat) (attr : SyncAttr) (s t : State) : Prop :=
  WordOnly loc s t ∧ t.syncWord loc = w ∧ t.syncHeld loc = held ∧ t.syncAttr loc = attr ∧ OwnLoc loc t

theorem WordPut.congr {loc : SyncLoc} {w : SyncWord} {held : Nat} {attr : SyncAttr} {s t u : State} (h : WordPut loc w held attr s t) (hu : SameWords t u) : WordPut loc w held attr s u := by
  obtain ⟨honly, hw, hh, ha, ho⟩ := h
  refine ⟨?_, (hu.syncWord ho).trans hw, (hu.syncHeld ho).trans hh, (hu.syncAttr ho).trans ha, hu.own ho⟩
  obtain ⟨hmem, -, -, -, hscratch, -⟩ := hu
  cases loc with
  | mem key =>
    obtain ⟨h1, h2⟩ := honly
    exact ⟨fun a ha => (congrArg (Mem.get · a) hmem).trans (h1 a ha), hscratch.trans h2⟩
  | scratch gid off =>
    obtain ⟨h1, h2⟩ := honly
    exact ⟨hmem.trans h1, fun hg a ha => (congrArg (Mem.get · a) hscratch).trans (h2 hg a ha)⟩

theorem lookup_putHeld (k n : Nat) (l : List (Nat × Nat)) : (lookup k (putHeld k n l)).getD 0 = n := by
  unfold putHeld
  split
  · next h => rw [lookup_erase, if_pos rfl, h, Option.getD_none]
  · rw [lookup_insert_self, Option.getD_some]

theorem undoRange_only (g : Group) (o n : Nat) : g.undoRange o n = { g with undoScratch := (g.undoRange o n).undoScratch } := by
  unfold Group.undoRange
  generalize List.range _ = l
  induction l generalizing g with
  | nil => rfl
  | cons x xs ih =>
    have h : g.undo (o / 64 + x) = { g with undoScratch := (g.undo (o / 64 + x)).undoScratch } := by
      unfold Group.undo
      split <;> rfl
    have hrest := ih (g.undo (o / 64 + x))
    rw [List.foldl_cons]
    generalize xs.foldl (fun g i => g.undo (o / 64 + i)) (g.undo (o / 64 + x)) = g2 at hrest
    rw [hrest, h]

theorem updGroup_own (f : Group → Group) (s : State) : s.updGroup s.grp.gid f = { s with grp := f s.grp, groups := s.groups.map (fun g => if g.gid = s.grp.gid then f g else g) } := by
  simp [State.updGroup, State.mapGroups]

/-- A word put at its home. -/
theorem putSync_put {loc : SyncLoc} {w : SyncWord} {held : Nat} {s : State} (ho : OwnLoc loc s) (hw : WordFits w) : WordPut loc w held (s.syncAttr loc) s (s.putSync loc w held)
    ∧ (s.putSync loc w held).thr = s.thr := by
  cases loc with
  | mem key =>
    refine ⟨⟨⟨fun a ha => syncBytes_other _ _ _ ha, rfl⟩, syncWord_write _ _ hw, ?_, rfl, trivial⟩, rfl⟩
    exact lookup_putHeld ..
  | scratch gid off =>
    have hg : gid = s.grp.gid := ho
    subst hg
    have hput : s.putSync (.scratch s.grp.gid off) w held = _ := updGroup_own _ s
    generalize s.putSync (.scratch s.grp.gid off) w held = t at hput
    dsimp only at hput
    rw [undoRange_only] at hput
    have hown : t.group? s.grp.gid = some t.grp := by rw [hput]; exact group?_own _
    rw [hput] at hown
    refine ⟨⟨⟨by rw [hput], fun _ a ha => ?_⟩, ?_, ?_, ?_, by rw [hput]; rfl⟩, by rw [hput]⟩
    · rw [hput]
      exact syncBytes_other _ _ _ ha
    · rw [hput, State.syncWord, hown]
      exact syncWord_write _ _ hw
    · rw [hput, State.syncHeld, hown]
      exact lookup_putHeld ..
    · rw [hput, State.syncAttr, hown, State.syncAttr, group?_own]
      rfl

theorem landWord_unstaged {loc : SyncLoc} {s : State} (h : ∀ key, loc = .mem key → s.grp.staged = []) : s.landWord loc = s := by
  cases loc with
  | scratch gid off => rfl
  | mem key =>
    have hst := h key rfl
    simp only [State.landWord, State.landBytes, hst, List.filter_nil, State.performCells, List.foldl_nil, unstage_empty hst]

theorem dropLine_same (loc : SyncLoc) (s : State) : SameWords s (s.dropLine loc) ∧ (s.dropLine loc).thr = s.thr ∧ (s.dropLine loc).grp = s.grp ∧ (s.dropLine loc).inflight = s.inflight := by
  cases loc <;> exact ⟨sameWords_refl s, rfl, rfl, rfl⟩

theorem wakeSync_same (loc : SyncLoc) (gen : Word) (changed : Bool) (counts : Nat × Nat × Nat) (s : State) : SameWords s (s.wakeSync loc gen changed counts)
    ∧ (s.wakeSync loc gen changed counts).grp = s.grp ∧ (s.wakeSync loc gen changed counts).thr = woken loc gen changed counts s.dev.clk s.thr := by
  obtain ⟨hmem, hheld, hgrp, -, -, -, hthr⟩ := wakeSync_keeps loc gen changed counts s
  exact ⟨.of_grp hmem hheld (wakeSync_syncOnly ..).attrs hgrp, hgrp, hthr⟩

theorem onComplete_nobar {loc : SyncLoc} {lid n : Nat} {s : State} (h : (s.syncAttr loc).bar = false) : GensOnly lid s (s.onComplete loc lid n) := by
  have hgens : GensOnly lid s (if (s.syncAttr loc).adv && s.syncScope loc = ((s.launch? lid).map Launch.race).getD 15 && s.syncLocal loc then State.advanceGens lid (s.syncDev loc) n s else s) := by
    split
    · exact advanceGens_only ..
    · exact gensOnly_refl lid s
  unfold State.onComplete
  simp only [h, Bool.false_eq_true, if_false]
  cases loc <;> exact hgens

/-- A word that is no barrier is updated. -/
theorem syncUpdated_put {loc : SyncLoc} {w : SyncWord} {held n lid : Nat} {s t : State} (ho : OwnLoc loc s) (hw : WordFits w) (hbar : (s.syncAttr loc).bar = false)
    (hready : s.thr.status = .ready) (ht : t = syncUpdated loc w held n lid s) : WordPut loc w held (s.syncAttr loc) s t ∧ t.thr = s.thr := by
  obtain ⟨hput, hthr⟩ := putSync_put (held := held) ho hw
  obtain ⟨-, -, -, hattr, -⟩ := id hput
  have hgens : GensOnly lid (s.putSync loc w held) (if n = 0 then s.putSync loc w held else (s.putSync loc w held).onComplete loc lid n) := by
    split
    · exact gensOnly_refl lid _
    · exact onComplete_nobar (by rw [hattr, hbar])
  unfold syncUpdated at ht
  generalize (if n = 0 then s.putSync loc w held else (s.putSync loc w held).onComplete loc lid n) = s2 at hgens ht
  obtain ⟨hmem2, hheld2, hgrp2, -, hthr2, honly⟩ := hgens.keeps
  obtain ⟨hsame, -, hthr3⟩ := wakeSync_same loc (BitVec.ofNat 32 w.gen) (n ≠ 0 || w.counts ≠ (s.syncWord loc).counts) w.counts s2
  rw [← ht] at hsame hthr3
  refine ⟨hput.congr ((SameWords.of_grp hmem2 hheld2 honly.attrs hgrp2).trans hsame), ?_⟩
  rw [hthr3, hthr2, hthr]
  exact woken_ready hready

/-- An arrival or bytes at a word that is no barrier. -/
theorem syncApply_put {loc : SyncLoc} {bytes lid : Nat} {arrival : Bool} {s t : State} (ho : OwnLoc loc s) (hok : countsOk (s.syncWord loc)) (hbar : (s.syncAttr loc).bar = false)
    (hready : s.thr.status = .ready) (ht : t = s.syncApply loc bytes arrival lid) :
    WordPut loc ((s.syncWord loc).apply (s.syncHeld loc) bytes arrival).1 ((s.syncWord loc).apply (s.syncHeld loc) bytes arrival).2.1 (s.syncAttr loc) s t ∧ t.thr = s.thr := by
  rw [syncApply_eq] at ht
  have hfit : WordFits (s.syncWord loc) := by cases loc <;> exact syncWord_fits _
  exact syncUpdated_put ho (apply_fits _ _ _ hfit hok) hbar hready ht

/-- A word is initialised. -/
theorem initSync_put {loc : SyncLoc} {bt tt : Nat} {attr : SyncAttr} {s t : State} (ho : OwnLoc loc s) (hbt : bt < 2 ^ 32) (htt : tt < 2 ^ 16) (hready : s.thr.status = .ready)
    (ht : t = s.initSync loc bt tt attr) : WordPut loc { s.syncWord loc with bt := bt, bc := 0, tt := tt, tc := 0 } 0 attr s t ∧ t.thr = s.thr := by
  have hfit : WordFits (s.syncWord loc) := by cases loc <;> exact syncWord_fits _
  obtain ⟨-, -, -, -, hgen⟩ := hfit
  have hw : WordFits { s.syncWord loc with bt := bt, bc := 0, tt := tt, tc := 0 } := ⟨hbt, Nat.two_pow_pos 32, Nat.two_pow_pos 16, htt, hgen⟩
  obtain ⟨⟨honly, hword, hheld, -, hown⟩, hthr⟩ := putSync_put (held := 0) ho hw
  have hput : WordPut loc { s.syncWord loc with bt := bt, bc := 0, tt := tt, tc := 0 } 0 attr s ((s.putSync loc { s.syncWord loc with bt := bt, bc := 0, tt := tt, tc := 0 } 0).putAttr loc attr)
      ∧ ((s.putSync loc { s.syncWord loc with bt := bt, bc := 0, tt := tt, tc := 0 } 0).putAttr loc attr).thr = s.thr := by
    generalize s.putSync loc { s.syncWord loc with bt := bt, bc := 0, tt := tt, tc := 0 } 0 = u at honly hword hheld hown hthr
    cases loc with
    | mem key => exact ⟨⟨honly, hword, hheld, by simp [State.syncAttr, State.putAttr], trivial⟩, hthr⟩
    | scratch gid off =>
      have hg : gid = u.grp.gid := hown
      subst hg
      have hatt : u.putAttr (.scratch u.grp.gid off) attr = _ := updGroup_own _ u
      generalize u.putAttr (.scratch u.grp.gid off) attr = v at hatt
      have hgv : v.group? u.grp.gid = some v.grp := by rw [hatt]; exact group?_own _
      have hgu := group?_own u
      rw [hatt] at hgv ⊢
      simp only [State.syncWord, State.syncHeld, hgu, Option.map_some, Option.getD_some] at hword hheld
      refine ⟨⟨honly, ?_, ?_, ?_, rfl⟩, hthr⟩
      · rw [State.syncWord, hgv]
        exact hword
      · rw [State.syncHeld, hgv]
        exact hheld
      · simp [State.syncAttr, hgv]
  unfold State.initSync at ht
  dsimp only at ht
  obtain ⟨hp, hthr1⟩ := hput
  generalize (s.putSync loc { s.syncWord loc with bt := bt, bc := 0, tt := tt, tc := 0 } 0).putAttr loc attr = v at hp hthr1 ht
  rw [ht]
  obtain ⟨hsame, -, hthr3⟩ := wakeSync_same loc (BitVec.ofNat 32 (s.syncWord loc).gen)
    (decide (({ s.syncWord loc with bt := bt, bc := 0, tt := tt, tc := 0 } : SyncWord).counts ≠ (s.syncWord loc).counts)) ({ s.syncWord loc with bt := bt, bc := 0, tt := tt, tc := 0 } : SyncWord).counts v
  refine ⟨hp.congr hsame, ?_⟩
  refine hthr3.trans ?_
  rw [hthr1]
  exact woken_ready hready

end Sys2Proof.Claims
end

section
/-!
PROOFS. The sync-word instructions themselves (O15).
-/
namespace Sys2Proof.Claims
open Machine Bits Encoding

/-! ## The word an instruction names (R156, R167, R291) -/

/-- Where the named word lies: in the group's scratchpad, in memory, or on another device. -/
def NamedWord (e : Enc) (b : State) (p : SyncTarget) (s1 : State) : Prop :=
  if syncGlobal e then ∃ l, p.loc = .mem l.key ∧ p.away = (if l.cls = 2 then some l else none)
  else s1 = b ∧ p.loc = .scratch b.grp.gid p.addr ∧ p.away = none

theorem syncPlace_facts {e : Enc} {w : Bool} {b s1 : State} {p : SyncTarget} (h : b.syncPlace e w = .ok (p, s1)) :
    s1.thr = b.thr ∧ s1.grp = b.grp ∧ s1.nextId = b.nextId ∧ s1.inflight = b.inflight ∧ NamedWord e b p s1 := by
  unfold State.syncPlace at h
  unfold NamedWord
  by_cases hg : syncGlobal e = true
  · rw [if_pos hg] at h ⊢
    dsimp only at h
    split at h
    · cases h
    · next l hl =>
      split at h
      · cases h
      · split at h
        · cases h
        · split at h
          · cases h
          · cases h
            obtain ⟨hthr, hgrp, hid, hin⟩ := touch_facts (b.opA e 2) w l b
            exact ⟨hthr, hgrp, hid, hin, l, rfl, rfl⟩
  · rw [if_neg hg] at h ⊢
    dsimp only at h
    split at h
    · cases h
    · cases h
      exact ⟨rfl, rfl, rfl, rfl, rfl, rfl, rfl⟩

section
variable {e : Enc} {b s1 : State} {p : SyncTarget} (h : NamedWord e b p s1)
include h

theorem NamedWord.own (hgrp : s1.grp = b.grp) : OwnLoc p.loc s1 := by
  unfold NamedWord at h
  split at h
  · obtain ⟨l, hl, -⟩ := h
    rw [hl]
    exact trivial
  · obtain ⟨-, hl, -⟩ := h
    rw [hl]
    exact (congrArg Group.gid hgrp).symm

theorem NamedWord.global {key : Nat} (hl : p.loc = .mem key) : syncGlobal e = true := by
  unfold NamedWord at h
  split at h
  · assumption
  · obtain ⟨-, hs, -⟩ := h
    rw [hs] at hl
    cases hl

theorem NamedWord.away {l : Xlat} (ha : p.away = some l) : syncGlobal e = true ∧ p.loc = .mem l.key ∧ l.cls = 2 := by
  unfold NamedWord at h
  split at h
  · next hg =>
    obtain ⟨m, hm, haway⟩ := h
    rw [ha] at haway
    split at haway
    · next hc =>
      cases haway
      exact ⟨hg, hm, hc⟩
    · cases haway
  · obtain ⟨-, -, haway⟩ := h
    rw [ha] at haway
    cases haway
end

theorem seenWord_unstaged {loc : SyncLoc} {s : State} (h : ∀ key, loc = .mem key → s.grp.staged = []) : s.seenWord loc = s.syncWord loc := by
  cases loc with
  | scratch gid off => rfl
  | mem key => simp only [State.seenWord, State.groupBytes, group?_own, Option.map_some, Option.getD_some, h key rfl, overlay_nil, State.syncWord]

/-! ## Operations on a word -/

/-- An operation here and now, on the word of the checked-out group or in memory. -/
def wordDone (loc : SyncLoc) (here : Nat → State → State) (s : State) : State := (here s.lau.lid (s.landWord loc)).dropLine loc

section
variable {e : Enc} {p : SyncTarget} {rel : Bool} {operand : List Word} {act : SyncAct} {here : State → State} {s : State} (hst : s.grp.staged = []) (hrun : FirstRun s)
include hst hrun

theorem syncUpdate_home (ha : p.away = none) : ∃ f, s.syncUpdate e p rel operand act here
    = .ok (withEntry e p.addr operand [0] (marked s.thr.markers f s) ((here (marked s.thr.markers f s)).addUnacked s.grp.dev 0)) := by
  obtain ⟨f, hf⟩ := publishRule_unstaged (rel := rel) hst
  refine ⟨f, ?_⟩
  have hpub := publish_withEntry (e := e) (addr := p.addr) (operand := operand) (s := marked s.thr.markers f s) (ret := [0]) (s1 := (here (marked s.thr.markers f s)).addUnacked s.grp.dev 0)
    (act := fun s => .ok ([0], (here s).addUnacked s.grp.dev 0)) hrun rfl
  simp only [State.syncUpdate, hf, ha, hpub]

theorem syncUpdate_away {x : Xlat} (ha : p.away = some x) : ∃ f, s.syncUpdate e p rel operand act here
    = .ok (withEntry e p.addr operand [] (marked s.thr.markers f s) ((marked s.thr.markers f s).send (.sync act) x p.addr false false false false)).logSent := by
  obtain ⟨f, hf⟩ := publishRule_unstaged (rel := rel) hst
  refine ⟨f, ?_⟩
  have hpub := publish_withEntry (e := e) (addr := p.addr) (operand := operand) (s := marked s.thr.markers f s) (ret := [])
    (s1 := (marked s.thr.markers f s).send (.sync act) x p.addr false false false false) (act := fun s => .ok ([], s.send (.sync act) x p.addr false false false false)) hrun rfl
  simp only [State.syncUpdate, hf, ha, hpub]
end

theorem remarked (m n : Option (Nat × List (Nat × Nat))) (f g : Bool) (s : State) : marked n g (marked m f s) = marked n g s := rfl

theorem marked_markers (m : Option (Nat × List (Nat × Nat))) (f : Bool) (s : State) : (marked m f s).thr.markers = m := rfl

/-- A property of an instruction of a thread that is Ready as its meaning begins. -/
theorem Does.of_ready {i : Instr} {e : Enc} {s : State} {P : State → State → Prop} (h : (atBody e s).thr.status = .ready → Does i e s P) : Does i e s P :=
  fun hr hq => h ((atBody_status e s).trans hr.1.1) hr hq

section
variable {i : Instr} {e : Enc} {s s1 : State} {g rel : Bool} {body : Body} {p : SyncTarget} {operand : List Word} {act : SyncAct} {here : State → State} {m : Option (Nat × List (Nat × Nat))}
  (hi : exec i s = s.issue g body e)
  (hbody : body e (atBody e s) = if syncGlobal e then (marked m s1.thr.fenced s1).syncUpdate e p rel operand act here else .ok (here (marked m s1.thr.fenced s1)))
  (hplace : (atBody e s).syncPlace e true = .ok (p, s1)) (hready : syncGlobal e = true → FirstRun s1 ∧ (atBody e s).grp.staged = [])
include hi hbody hplace hready

/-- An operation on a word of this device. -/
theorem does_word {w : SyncWord} {held : Nat} {attr : SyncAttr} (haway : p.away = none)
    (hhere : ∀ f t, t = here (marked m f s1) → WordPut p.loc w held attr s1 t ∧ t.thr = (marked m f s1).thr) :
    Does i e s (fun b t => Continues b t ∧ t.thr.pend = shrunk b ∧ WordPut p.loc w held attr s1 t) := by
  obtain ⟨hthr, hgrp, hid, -, hnamed⟩ := syncPlace_facts hplace
  by_cases hg : syncGlobal e = true
  · obtain ⟨hrun, hst⟩ := hready hg
    rw [← hgrp] at hst
    obtain ⟨f, hf⟩ := syncUpdate_home (e := e) (p := p) (rel := rel) (operand := operand) (act := act) (here := here) (s := marked m s1.thr.fenced s1) hst hrun haway
    rw [if_pos hg, hf, remarked, marked_markers] at hbody
    obtain ⟨hput, hthr2⟩ := hhere f _ rfl
    generalize here (marked m f s1) = v at hbody hput hthr2
    refine does_continues (ps := []) hi hbody (onward_of_thr (us := (atBody e s).thr.unacked ++ [⟨v.nextId, (marked m f s1).grp.dev, 0⟩]) (m := m) (f := f) ?_) (by simp)
      (fun u hcont hpend _ => ⟨hcont, by simpa using hpend, hput.congr ⟨rfl, rfl, rfl, rfl, rfl, rfl, rfl⟩⟩)
    rw [withEntry_thr, addUnacked_thr]
    rw [hthr2, ← hthr]
    rfl
  · rw [if_neg hg] at hbody
    obtain ⟨hput, hthr2⟩ := hhere s1.thr.fenced _ rfl
    generalize here (marked m s1.thr.fenced s1) = v at hbody hput hthr2
    refine does_continues (ps := []) hi hbody (onward_of_thr (us := (atBody e s).thr.unacked) (m := m) (f := s1.thr.fenced) ?_) (by simp)
      (fun u hcont hpend _ => ⟨hcont, by simpa using hpend, hput.congr ⟨rfl, rfl, rfl, rfl, rfl, rfl, rfl⟩⟩)
    rw [hthr2, ← hthr]
    rfl

/-- One on another device's word is sent there. -/
theorem does_word_sent {l : Xlat} (haway : p.away = some l) : Does i e s (fun b t => Continues b t ∧ t.thr.pend = shrunk b ∧ t.mem = s1.mem ∧ t.grp.scratch = b.grp.scratch
    ∧ ∃ a, t.inflight = b.inflight ++ [a] ∧ a.serial = b.nextId ∧ a.t = b.thr.key ∧ a.kind = .sync act ∧ a.dst = devOf l.key ∧ a.key = l.key ∧ a.remote = true) := by
  obtain ⟨hthr, hgrp, hid, hin, hnamed⟩ := syncPlace_facts hplace
  obtain ⟨hg, -, hc⟩ := hnamed.away haway
  obtain ⟨hrun, hst⟩ := hready hg
  rw [← hgrp] at hst
  obtain ⟨f, hf⟩ := syncUpdate_away (e := e) (p := p) (rel := rel) (operand := operand) (act := act) (here := here) (s := marked m s1.thr.fenced s1) hst hrun haway
  rw [if_pos hg, hf, remarked, marked_markers] at hbody
  obtain ⟨a, us, hsthr, hsmem, -, hsgrp, hsin, hserial, hkey, hkind, hdst, hak, hremote, -⟩ := send_remote (.sync act) p.addr false false false false (marked m f s1) hc
  generalize (marked m f s1).send (.sync act) l p.addr false false false false = v at *
  refine does_continues (ps := []) hi hbody (onward_of_thr (us := us) (m := m) (f := f) ?_) (by simp) (fun u hcont hpend _ => ⟨hcont, by simpa using hpend, hsmem, ?_, a, ?_, ?_, ?_, hkind, hdst, hak, hremote⟩)
  · rw [(logSent_facts _).1, withEntry_thr]
    refine hsthr.trans ?_
    rw [← hthr]
    rfl
  · exact (congrArg Group.scratch hsgrp).trans (congrArg Group.scratch hgrp)
  · exact hsin.trans (congrArg (· ++ [a]) hin)
  · exact hserial.trans hid
  · exact hkey.trans (show s1.thr.key = _ by rw [hthr])
end

theorem wordDone_put {loc : SyncLoc} {here : Nat → State → State} {w : SyncWord} {held : Nat} {attr : SyncAttr} {s t : State} (hst : ∀ key, loc = .mem key → s.grp.staged = [])
    (h : ∀ u, u = here s.lau.lid s → WordPut loc w held attr s u ∧ u.thr = s.thr) (ht : t = wordDone loc here s) : WordPut loc w held attr s t ∧ t.thr = s.thr := by
  rw [wordDone, landWord_unstaged hst] at ht
  obtain ⟨hput, hthr⟩ := h _ rfl
  obtain ⟨hsame, hthr2, -⟩ := dropLine_same loc (here s.lau.lid s)
  rw [ht]
  exact ⟨hput.congr hsame, hthr2.trans hthr⟩

/-! ## sinit and sarrive (R168, R169, R171) -/

section
variable {e : Enc} {b s1 : State} {p : SyncTarget}

theorem bodySinit_eq {tt : Nat} (hplace : b.syncPlace e true = .ok (p, s1)) (htt : tt = if bit e.m.toNat 2 then (b.liveThreads b.grp.gid).length else b.opC e 1 % 2 ^ 16)
    (hst : ∀ key, p.loc = .mem key → s1.grp.staged = []) (hc : bit e.m.toNat 2 = false → b.opC e 1 < 2 ^ 16) (hnz : b.opB e 1 ≠ 0 ∨ tt ≠ 0)
    (hbar : bit e.m.toNat 2 = true → (s1.grp.barriers.filter (fun o => o ≠ p.addr)).length < 16 ∧ s1.hasWaiters p.loc = false ∧ (s1.syncWord p.loc).tc = 0) :
    bodySinit e b = if syncGlobal e then s1.syncUpdate e p false [BitVec.ofNat 32 (b.opB e 1), BitVec.ofNat 32 tt] (.init (b.opB e 1) tt ⟨bit e.m.toNat 1, bit e.m.toNat 2, field e.m.toNat 5 3⟩)
        (wordDone p.loc (fun _ => State.initSync p.loc (b.opB e 1) tt ⟨bit e.m.toNat 1, bit e.m.toNat 2, field e.m.toNat 5 3⟩))
      else .ok (wordDone p.loc (fun _ => State.initSync p.loc (b.opB e 1) tt ⟨bit e.m.toNat 1, bit e.m.toNat 2, field e.m.toNat 5 3⟩) s1) := by
  have hno : ¬(b.opB e 1 = 0 ∧ tt = 0) := fun ⟨h1, h2⟩ => hnz.elim (· h1) (· h2)
  subst htt
  cases hb : bit e.m.toNat 2 with
  | false =>
    rw [hb] at hno
    have hlt := hc hb
    have hok : ¬(2 ^ 16 ≤ b.opC e 1 ∨ (b.opB e 1 = 0 ∧ b.opC e 1 % 2 ^ 16 = 0)) := fun h => h.elim (fun h => absurd hlt (Nat.not_lt.mpr h)) hno
    simp only [bodySinit, hb, Bool.false_eq_true, if_false, if_neg hok, hplace, Bool.false_and] <;> rfl
  | true =>
    rw [hb] at hno
    obtain ⟨hlen, hwait, htc⟩ := hbar hb
    have hok : ¬(2 ^ 16 ≤ 0 ∨ (b.opB e 1 = 0 ∧ (b.liveThreads b.grp.gid).length = 0)) := fun h => h.elim (by decide) hno
    have hno2 : ¬((true && (decide (16 ≤ (s1.grp.barriers.filter (fun o => decide (o ≠ p.addr))).length) || s1.hasWaiters p.loc || decide ((s1.seenWord p.loc).tc ≠ 0))) = true) := by
      rw [seenWord_unstaged hst, hwait, htc]
      simpa using hlen
    simp only [bodySinit, hb, if_true, if_neg hok, hplace, if_neg hno2] <;> rfl

theorem bodySarrive_eq {arrival : Bool} {bytes : Nat} {m : Option (Nat × List (Nat × Nat))} (hplace : b.syncPlace e true = .ok (p, s1)) (harr : arrival = (decide (e.form = .s) || !bit e.m.toNat 1))
    (hbytes : bytes = if e.form = .s then 0 else b.opB e 1) (hst : ∀ key, p.loc = .mem key → s1.grp.staged = []) (hbar : (s1.syncAttr p.loc).bar = false)
    (htt : arrival = true → (s1.syncWord p.loc).tt ≠ 0) (hm : s1.release (s1.syncScope p.loc) = .ok (marked m s1.thr.fenced s1)) :
    bodySarrive e b = if syncGlobal e then (marked m s1.thr.fenced s1).syncUpdate e p (2 ≤ s1.syncScope p.loc) [BitVec.ofNat 32 bytes] (.arrive bytes arrival)
        (wordDone p.loc (fun lid => State.syncApply p.loc bytes arrival lid))
      else .ok (wordDone p.loc (fun lid => State.syncApply p.loc bytes arrival lid) (marked m s1.thr.fenced s1)) := by
  have hno : ¬((arrival && decide ((s1.seenWord p.loc).tt = 0) || (s1.syncAttr p.loc).bar) = true) := by
    rw [seenWord_unstaged hst, hbar]
    simpa using htt
  subst hbytes
  subst harr
  simp only [bodySarrive, hplace, if_neg hno, hm] <;> rfl
end

theorem SEnc.enc_form (y : SEnc) (op : BitVec 8) : (y.enc op).form = .s := rfl
theorem opB_one_lt (s : State) (e : Enc) : s.opB e 1 < 2 ^ 32 := by
  unfold State.opB
  split
  · exact litVal_lt e 1
  · exact readN_lt ..

section
variable {i : Instr} {e : Enc} {s s1 : State} {g : Bool} {p : SyncTarget} (hplace : (atBody e s).syncPlace e true = .ok (p, s1))
  (hready : syncGlobal e = true → FirstRun s1 ∧ (atBody e s).grp.staged = [])
include hplace hready

theorem place_unstaged : ∀ key, p.loc = .mem key → s1.grp.staged = [] := by
  obtain ⟨-, hgrp, -, -, hnamed⟩ := syncPlace_facts hplace
  intro key hk
  rw [hgrp]
  exact (hready (hnamed.global hk)).2

/-- A word is initialised, here or on its device. -/
theorem does_sinit {tt : Nat} (hi : exec i s = s.issue g bodySinit e) (htt : tt = if bit e.m.toNat 2 then ((atBody e s).liveThreads (atBody e s).grp.gid).length else (atBody e s).opC e 1 % 2 ^ 16)
    (hlt : tt < 2 ^ 16) (hc : bit e.m.toNat 2 = false → (atBody e s).opC e 1 < 2 ^ 16) (hnz : (atBody e s).opB e 1 ≠ 0 ∨ tt ≠ 0)
    (hbar : bit e.m.toNat 2 = true → (s1.grp.barriers.filter (fun o => o ≠ p.addr)).length < 16 ∧ s1.hasWaiters p.loc = false ∧ (s1.syncWord p.loc).tc = 0) :
    (p.away = none → Does i e s (fun b t => Continues b t ∧ t.thr.pend = shrunk b
      ∧ WordPut p.loc { s1.syncWord p.loc with bt := (atBody e s).opB e 1, bc := 0, tt := tt, tc := 0 } 0 ⟨bit e.m.toNat 1, bit e.m.toNat 2, field e.m.toNat 5 3⟩ s1 t))
    ∧ (∀ l, p.away = some l → Does i e s (fun b t => Continues b t ∧ t.thr.pend = shrunk b ∧ t.mem = s1.mem ∧ t.grp.scratch = b.grp.scratch
      ∧ ∃ a, t.inflight = b.inflight ++ [a] ∧ a.serial = b.nextId ∧ a.t = b.thr.key
        ∧ a.kind = .sync (.init ((atBody e s).opB e 1) tt ⟨bit e.m.toNat 1, bit e.m.toNat 2, field e.m.toNat 5 3⟩) ∧ a.dst = devOf l.key ∧ a.key = l.key ∧ a.remote = true)) := by
  have hst := place_unstaged hplace hready
  have hbody := bodySinit_eq hplace htt hst hc hnz hbar
  obtain ⟨hthr, hgrp, -, -, hnamed⟩ := syncPlace_facts hplace
  refine ⟨fun haway => Does.of_ready fun hr => does_word (m := s1.thr.markers) hi hbody hplace hready haway fun f t ht => ?_, fun l haway => does_word_sent (m := s1.thr.markers) hi hbody hplace hready haway⟩
  rw [← hthr] at hr
  exact wordDone_put (s := marked s1.thr.markers f s1) hst (fun u hu => initSync_put (hnamed.own hgrp) (opB_one_lt ..) hlt hr hu) ht

/-- An arrival or bytes at a word, here or on its device. -/
theorem does_sarrive {arrival : Bool} {bytes : Nat} (hi : exec i s = s.issue g bodySarrive e) (harr : arrival = (decide (e.form = .s) || !bit e.m.toNat 1))
    (hbytes : bytes = if e.form = .s then 0 else (atBody e s).opB e 1) (hbar : (s1.syncAttr p.loc).bar = false) (htt : arrival = true → (s1.syncWord p.loc).tt ≠ 0)
    (hok : countsOk (s1.syncWord p.loc)) (hrel : s1.released (s1.syncScope p.loc) = true) :
    (p.away = none → Does i e s (fun b t => Continues b t ∧ t.thr.pend = shrunk b ∧ WordPut p.loc ((s1.syncWord p.loc).apply (s1.syncHeld p.loc) bytes arrival).1
      ((s1.syncWord p.loc).apply (s1.syncHeld p.loc) bytes arrival).2.1 (s1.syncAttr p.loc) s1 t))
    ∧ (∀ l, p.away = some l → Does i e s (fun b t => Continues b t ∧ t.thr.pend = shrunk b ∧ t.mem = s1.mem ∧ t.grp.scratch = b.grp.scratch
      ∧ ∃ a, t.inflight = b.inflight ++ [a] ∧ a.serial = b.nextId ∧ a.t = b.thr.key ∧ a.kind = .sync (.arrive bytes arrival) ∧ a.dst = devOf l.key ∧ a.key = l.key ∧ a.remote = true)) := by
  have hst := place_unstaged hplace hready
  obtain ⟨m, hm⟩ := release_marked hrel
  have hbody := bodySarrive_eq hplace harr hbytes hst hbar htt hm
  obtain ⟨hthr, hgrp, -, -, hnamed⟩ := syncPlace_facts hplace
  refine ⟨fun haway => Does.of_ready fun hr => does_word (m := m) hi hbody hplace hready haway fun f t ht => ?_, fun l haway => does_word_sent (m := m) hi hbody hplace hready haway⟩
  rw [← hthr] at hr
  exact wordDone_put (s := marked m f s1) hst (fun u hu => syncApply_put (hnamed.own hgrp) hok hbar hr hu) ht
end

end Sys2Proof.Claims
end

section
/-!
PROOFS. Waits, barriers and polls of sync words (O15).
-/
namespace Sys2Proof.Claims
open Machine Bits Encoding

/-! ## swait (R171) -/

theorem acquire_facts (n : Nat) (s : State) : (s.acquire n).thr = s.thr ∧ (s.acquire n).mem = s.mem ∧ (s.acquire n).grp = s.grp ∧ (s.acquire n).nextId = s.nextId
    ∧ (s.acquire n).core = if n = 0 then s.core else s.core.invalidate := by
  unfold State.acquire
  split <;> exact ⟨rfl, rfl, rfl, rfl, rfl⟩

section
variable {e : Enc} {b s1 : State} {p : SyncTarget} {g : Word} (hplace : b.syncPlace e false = .ok (p, s1)) (hreg : b.thr.region = none)
  (hg : g = if e.form = .x then e.lit else b.read32 (code e e.b))
include hplace hreg hg

theorem bodySwait_here (ha : p.away = none) : bodySwait e b = .ok (if passed (BitVec.ofNat 32 (s1.seenWord p.loc).gen) g then s1.acquire (s1.syncScope p.loc) else s1.syncWait p.loc g) := by
  subst hg
  simp only [bodySwait, hreg, Option.isSome_none, Bool.false_eq_true, if_false, hplace, ha]
  exact (apply_ite Except.ok _ _ _).symm

theorem bodySwait_away {l : Xlat} (ha : p.away = some l) : bodySwait e b = .ok ((s1.send (.sync (.await g)) l p.addr false false true false).waitRemote s1.nextId) := by
  subst hg
  simp only [bodySwait, hreg, Option.isSome_none, Bool.false_eq_true, if_false, hplace, ha]
end

/-- Of a thread only its unacknowledged stores, its markers, and what it notes of a wait differ. -/
def SameOnward (t u : Thread) : Prop :=
  u = { t with status := u.status, unacked := u.unacked, markers := u.markers, fenced := u.fenced, npc := u.npc, waitSince := u.waitSince, seen := u.seen, waited := u.waited, due := u.due, readySince := u.readySince, stale := u.stale }

theorem onward_same {b s1 : State} (h : SameOnward b.thr s1.thr) : Onward [] b { s1 with thr := { s1.thr with status := b.thr.status } } := by
  unfold SameOnward at h
  refine ⟨?_, rfl, ?_, ?_, ?_, ⟨?_, ?_, ?_⟩, ?_, ?_, ?_, ?_⟩ <;> dsimp only <;> rw [h]
  exact (List.append_nil _).symm

theorem waitsAt_sync {loc : SyncLoc} {g : Word} {b s1 : State} (h : s1.thr = b.thr) : SameOnward b.thr (s1.syncWait loc g).thr := by
  unfold SameOnward State.syncWait
  rw [← h]

section
variable {i : Instr} {e : Enc} {s s1 : State} {gd : Bool} {p : SyncTarget} {g : Word} (hi : exec i s = s.issue gd bodySwait e) (hplace : (atBody e s).syncPlace e false = .ok (p, s1))
  (hreg : (atBody e s).thr.region = none) (hg : g = if e.form = .x then e.lit else (atBody e s).read32 (code e e.b))
include hi hplace hreg hg

/-- The thread goes on, with an acquire, where the generation has passed, and else waits. -/
theorem does_swait (ha : p.away = none) : Does i e s (fun b t => t.mem = s1.mem ∧ t.grp = b.grp ∧
    if passed (BitVec.ofNat 32 (s1.seenWord p.loc).gen) g then Continues b t ∧ t.thr.pend = shrunk b ∧ t.core = (if s1.syncScope p.loc = 0 then s1.core else s1.core.invalidate)
    else Waits (.sync p.loc g) b.thr.pc s t) := by
  have hbody := bodySwait_here hplace hreg hg ha
  obtain ⟨hthr, hgrp, -⟩ := syncPlace_facts hplace
  by_cases hpass : passed (BitVec.ofNat 32 (s1.seenWord p.loc).gen) g = true
  · simp only [if_pos hpass] at hbody ⊢
    obtain ⟨hathr, hamem, hagrp, -, hacore⟩ := acquire_facts (s1.syncScope p.loc) s1
    refine does_continues (ps := []) hi hbody ((onward_refl _).congr (hathr.trans hthr)) (by simp) (fun u hcont hpend _ => ⟨hamem, hagrp.trans hgrp, hcont, by simpa using hpend, hacore⟩)
  · simp only [if_neg hpass] at hbody ⊢
    refine does_waits_of hi hbody rfl (onward_same (waitsAt_sync hthr)) (fun u hw => ⟨rfl, hgrp, hw⟩)

/-- On another device's word the wait is sent there. -/
theorem does_swait_away {l : Xlat} (ha : p.away = some l) : Does i e s (fun b t => (t.mem = s1.mem ∧ ∃ a, t.inflight = b.inflight ++ [a] ∧ a.serial = b.nextId ∧ a.t = b.thr.key
    ∧ a.kind = .sync (.await g) ∧ a.dst = devOf l.key ∧ a.key = l.key ∧ a.remote = true) ∧ Waits (.remote b.nextId) b.thr.pc s t) := by
  have hbody := bodySwait_away hplace hreg hg ha
  obtain ⟨hthr, -, hid, hin, hnamed⟩ := syncPlace_facts hplace
  obtain ⟨-, -, hc⟩ := hnamed.away ha
  obtain ⟨a, us, hsthr, hsmem, -, -, hsin, hserial, hkey, hkind, hdst, hak, hremote, -⟩ := send_remote (.sync (.await g)) p.addr false false true false s1 hc
  generalize s1.send (.sync (.await g)) l p.addr false false true false = v at *
  rw [hid] at hbody
  refine does_waits_of hi hbody rfl (onward_same ?_) (fun u hw => ⟨⟨hsmem, a, hsin.trans (congrArg (· ++ [a]) hin), hserial.trans hid, hkey.trans (congrArg Thread.key hthr), hkind, hdst, hak, hremote⟩, hw⟩)
  unfold SameOnward State.waitRemote
  dsimp only
  rw [hsthr, hthr]
end

/-! ## sbar (R171) -/

theorem passed_self (x : Word) : passed x x = true := by simp [passed]

theorem passed_next (n : Nat) : passed (BitVec.ofNat 32 n) (BitVec.ofNat 32 (n + 1)) = false := by
  have h : BitVec.ofNat 32 n - BitVec.ofNat 32 (n + 1) = -1#32 := by
    rw [BitVec.ofNat_add]
    generalize BitVec.ofNat 32 n = x
    bv_omega
  rw [passed, h]
  decide

section
variable {w : SyncWord} (hw : WordFits w) (hbt : w.bt = 0)
include hw hbt

omit hbt in
theorem bytes_le : w.bc ≤ 4294967295 := by
  obtain ⟨-, hbc, -⟩ := hw
  omega

omit hbt in
/-- An arrival at a barrier that still misses others. -/
theorem apply_arrives (h : w.tc + 1 < w.tt) : w.apply 0 0 true = ({ w with tc := w.tc + 1 }, 0, 0) := by
  have hne : w.tc ≠ w.tt := by omega
  have hne2 : w.tc + 1 ≠ w.tt := by omega
  have htt : w.tt ≠ 0 := by omega
  simp [SyncWord.apply, SyncWord.run, SyncWord.loop, bytes_le hw, hne, hne2, htt]

/-- The arrival that completes a barrier. -/
theorem apply_completes (h : w.tc + 1 = w.tt) : w.apply 0 0 true = ({ w with tc := 0, gen := (w.gen + 1) % 2 ^ 32 }, 0, 1) := by
  have hne : w.tc ≠ w.tt := by omega
  have htt : w.tt ≠ 0 := by omega
  simp [SyncWord.apply, SyncWord.run, SyncWord.loop, bytes_le hw, hne, h, htt, hbt]
end

/-- The race-domain generation advanced, where a word's attributes ask for it. -/
def raced (loc : SyncLoc) (lid n : Nat) (s : State) : State :=
  if (s.syncAttr loc).adv && s.syncScope loc = ((s.launch? lid).map Launch.race).getD 15 && s.syncLocal loc then State.advanceGens lid (s.syncDev loc) n s else s

theorem raced_only (loc : SyncLoc) (lid n : Nat) (s : State) : GensOnly lid s (raced loc lid n s) := by
  unfold raced
  split
  · exact advanceGens_only ..
  · exact gensOnly_refl lid s

theorem onComplete_scratch {gid off lid n : Nat} {s : State} (hb : (s.syncAttr (.scratch gid off)).bar = true) : s.onComplete (.scratch gid off) lid n
    = ((raced (.scratch gid off) lid n s).updGroup gid (fun g => g.close (raced (.scratch gid off) lid n s).now)).mapThreads (fun t => if t.key.gid = gid then { t with stale := [] } else t) := by
  unfold State.onComplete
  simp only [hb, if_true]
  rfl

/-- What the completion of a barrier word of the checked-out group brings about. -/
theorem onComplete_bar {gid off lid n : Nat} {s t : State} (hg : gid = s.grp.gid) (hb : (s.syncAttr (.scratch gid off)).bar = true) (ht : t = s.onComplete (.scratch gid off) lid n) :
    t.mem = s.mem ∧ t.held = s.held ∧ t.attrs = s.attrs ∧ t.grp = s.grp.close s.now ∧ t.thr = if s.thr.key.gid = gid then { s.thr with stale := [] } else s.thr := by
  rw [onComplete_scratch hb] at ht
  obtain ⟨hgens, -⟩ := raced_only (.scratch gid off) lid n s
  generalize raced (.scratch gid off) lid n s = s2 at hgens ht
  subst hg
  rw [hgens] at ht
  rw [ht]
  refine ⟨rfl, rfl, rfl, ?_, rfl⟩
  exact if_pos rfl

/-- A thread that waits for a generation that has not passed. -/
theorem woken_waits {loc : SyncLoc} {gen g : Word} {changed : Bool} {counts : Nat × Nat × Nat} {clk : Nat} {t : Thread} (h : t.status = .waiting (.sync loc g)) (hp : passed gen g = false) :
    SameOnward t (woken loc gen changed counts clk t) ∧ (woken loc gen changed counts clk t).status = t.status := by
  have hs : t.satisfied loc gen = false := by simp [Thread.satisfied, h, hp]
  unfold woken
  rw [hs]
  simp only [Bool.false_eq_true, if_false]
  split <;> exact ⟨rfl, rfl⟩

/-- One that waits for the generation that completes. -/
theorem woken_goes {loc : SyncLoc} {gen g : Word} {changed : Bool} {counts : Nat × Nat × Nat} {clk : Nat} {t : Thread} (h : t.status = .waiting (.sync loc g)) (hp : passed gen g = true) :
    woken loc gen changed counts clk t = t.wake clk := by
  have hs : t.satisfied loc gen = true := by simp [Thread.satisfied, h, hp]
  unfold woken
  rw [hs, if_pos rfl]

section
variable {gid off lid : Nat} {g : Word} {v u : State} (hown : gid = v.grp.gid) (hheld : v.syncHeld (.scratch gid off) = 0) (hbt : (v.syncWord (.scratch gid off)).bt = 0)
  (hst : v.thr.status = .waiting (.sync (.scratch gid off) g)) (hg : g = BitVec.ofNat 32 ((v.syncWord (.scratch gid off)).gen + 1)) (hu : u = v.syncApply (.scratch gid off) 0 true lid)
include hown hheld hbt hst hg hu

omit hbt in
/-- An arrival at a barrier by a thread that then waits for it. -/
theorem syncApply_arrives (hlt : (v.syncWord (.scratch gid off)).tc + 1 < (v.syncWord (.scratch gid off)).tt) :
    u.syncWord (.scratch gid off) = { v.syncWord (.scratch gid off) with tc := (v.syncWord (.scratch gid off)).tc + 1 } ∧ SameOnward v.thr u.thr ∧ u.thr.status = v.thr.status := by
  have hfit : WordFits (v.syncWord (.scratch gid off)) := syncWord_fits _
  obtain ⟨h1, h2, h3, h4, h5⟩ := id hfit
  have hw : WordFits { v.syncWord (.scratch gid off) with tc := (v.syncWord (.scratch gid off)).tc + 1 } := ⟨h1, h2, hlt.trans h4, h4, h5⟩
  have hafter := (show syncAfter (.scratch gid off) 0 true v = (v.syncWord (.scratch gid off)).apply 0 0 true by rw [syncAfter, hheld]).trans (apply_arrives hfit hlt)
  rw [syncApply_eq, hafter] at hu
  obtain ⟨⟨-, hword, -, -, hown2⟩, hthr⟩ := putSync_put (loc := .scratch gid off) (held := 0) hown hw
  obtain ⟨hsame, -, hthr3⟩ := wakeSync_same (.scratch gid off) (BitVec.ofNat 32 (v.syncWord (.scratch gid off)).gen)
    (0 ≠ 0 || ({ v.syncWord (.scratch gid off) with tc := (v.syncWord (.scratch gid off)).tc + 1 } : SyncWord).counts ≠ (v.syncWord (.scratch gid off)).counts)
    ({ v.syncWord (.scratch gid off) with tc := (v.syncWord (.scratch gid off)).tc + 1 } : SyncWord).counts (v.putSync (.scratch gid off) { v.syncWord (.scratch gid off) with tc := (v.syncWord (.scratch gid off)).tc + 1 } 0)
  have hpass : passed (BitVec.ofNat 32 (v.syncWord (.scratch gid off)).gen) g = false := by rw [hg, passed_next]
  have hu' : u = _ := hu.trans (congrArg (State.wakeSync _ _ _ _) (if_pos rfl))
  rw [hu']
  refine ⟨(hsame.syncWord hown2).trans hword, ?_⟩
  rw [hthr3, hthr]
  exact woken_waits hst hpass

/-- The arrival that completes it: the thread goes on, and the phase closes. -/
theorem syncApply_completes (hlt : (v.syncWord (.scratch gid off)).tc + 1 = (v.syncWord (.scratch gid off)).tt) (hbar : (v.syncAttr (.scratch gid off)).bar = true)
    (hphase : v.grp.phase = .running) : u.syncWord (.scratch gid off) = { v.syncWord (.scratch gid off) with tc := 0, gen := ((v.syncWord (.scratch gid off)).gen + 1) % 2 ^ 32 }
      ∧ SameOnward { v.thr with pc := v.thr.npc } u.thr ∧ u.thr.status = .ready ∧ u.grp.phase = .closing := by
  have hfit : WordFits (v.syncWord (.scratch gid off)) := syncWord_fits _
  obtain ⟨h1, h2, h3, h4, h5⟩ := id hfit
  have hw : WordFits { v.syncWord (.scratch gid off) with tc := 0, gen := ((v.syncWord (.scratch gid off)).gen + 1) % 2 ^ 32 } := ⟨h1, h2, Nat.two_pow_pos 16, h4, Nat.mod_lt _ (Nat.two_pow_pos 32)⟩
  have hafter := (show syncAfter (.scratch gid off) 0 true v = (v.syncWord (.scratch gid off)).apply 0 0 true by rw [syncAfter, hheld]).trans (apply_completes hfit hbt hlt)
  rw [syncApply_eq, hafter] at hu
  obtain ⟨⟨-, hword, -, hattr, hown2⟩, hthr⟩ := putSync_put (loc := .scratch gid off) (held := 0) hown hw
  have hgrp : (v.putSync (.scratch gid off) { v.syncWord (.scratch gid off) with tc := 0, gen := ((v.syncWord (.scratch gid off)).gen + 1) % 2 ^ 32 } 0).grp.phase = .running := by
    subst hown
    refine (congrArg (fun s => s.grp.phase) (updGroup_own _ v)).trans ?_
    dsimp only
    rw [undoRange_only]
    exact hphase
  have hu' : u = _ := hu.trans (congrArg (State.wakeSync _ _ _ _) (if_neg Nat.one_ne_zero))
  dsimp only at hu'
  generalize v.putSync (.scratch gid off) { v.syncWord (.scratch gid off) with tc := 0, gen := ((v.syncWord (.scratch gid off)).gen + 1) % 2 ^ 32 } 0 = q at *
  obtain ⟨hmem, hheld2, hattrs, hgrp2, hthr2⟩ := onComplete_bar (lid := lid) (n := 1) hown2 (by rw [hattr, hbar]) rfl
  generalize q.onComplete (.scratch gid off) lid 1 = r at *
  have hclose : q.grp.close q.now = { q.grp with phase := .closing, closedAt := q.now } := if_pos hgrp
  rw [hclose] at hgrp2
  obtain ⟨hsame, hgrp3, hthr3⟩ := wakeSync_same (.scratch gid off) (BitVec.ofNat 32 (((v.syncWord (.scratch gid off)).gen + 1) % 2 ^ 32))
    (1 ≠ 0 || ({ v.syncWord (.scratch gid off) with tc := 0, gen := ((v.syncWord (.scratch gid off)).gen + 1) % 2 ^ 32 } : SyncWord).counts ≠ (v.syncWord (.scratch gid off)).counts)
    ({ v.syncWord (.scratch gid off) with tc := 0, gen := ((v.syncWord (.scratch gid off)).gen + 1) % 2 ^ 32 } : SyncWord).counts r
  have hqr : SameWords q r := ⟨hmem, hheld2, hattrs, by rw [hgrp2], by rw [hgrp2], by rw [hgrp2], by rw [hgrp2]⟩
  have hpass : passed (BitVec.ofNat 32 (((v.syncWord (.scratch gid off)).gen + 1) % 2 ^ 32)) g = true := by
    rw [hg, show BitVec.ofNat 32 (((v.syncWord (.scratch gid off)).gen + 1) % 2 ^ 32) = BitVec.ofNat 32 ((v.syncWord (.scratch gid off)).gen + 1) from BitVec.eq_of_toNat_eq (by simp), passed_self]
  have hrst : r.thr.status = .waiting (.sync (.scratch gid off) g) := by
    rw [hthr2, hthr]
    split <;> exact hst
  have hrsame : SameOnward v.thr r.thr ∧ r.thr.npc = v.thr.npc := by
    rw [hthr2, hthr]
    split <;> exact ⟨rfl, rfl⟩
  rw [woken_goes hrst hpass] at hthr3
  rw [hu', hthr3, hgrp3, hgrp2]
  refine ⟨((hqr.trans hsame).syncWord hown2).trans hword, ?_, rfl, rfl⟩
  obtain ⟨hs, hn⟩ := hrsame
  unfold SameOnward Thread.wake at *
  dsimp only
  rw [hn]
  rw [hs]
end

section
variable {e : Enc} {b s1 : State} {p : SyncTarget} {off : Nat} {m : Option (Nat × List (Nat × Nat))} (hplace : b.syncPlace e true = .ok (p, s1)) (hloc : p.loc = .scratch b.grp.gid off)
  (hreg : b.thr.region = none) (hbar : (s1.syncAttr (.scratch b.grp.gid off)).bar = true) (hm : s1.release (s1.syncScope (.scratch b.grp.gid off)) = .ok (marked m s1.thr.fenced s1))
  (hne : (s1.syncWord (.scratch b.grp.gid off)).tc ≠ (s1.syncWord (.scratch b.grp.gid off)).tt) (htt : (s1.syncWord (.scratch b.grp.gid off)).tt ≠ 0)
include hplace hloc hreg hbar hm hne htt

/-- The thread as it waits at a barrier, before its arrival. -/
theorem bodySbar_eq : bodySbar e b = .ok (State.syncApply (.scratch b.grp.gid off) 0 true s1.lau.lid
    ((marked m s1.thr.fenced s1).syncWait (.scratch b.grp.gid off) (BitVec.ofNat 32 ((s1.syncWord (.scratch b.grp.gid off)).gen + 1)))) := by
  have hno : ¬((decide ((s1.syncWord (.scratch b.grp.gid off)).tt = 0) || !(s1.syncAttr (.scratch b.grp.gid off)).bar) = true) := by simp [htt, hbar]
  have hahead : ((marked m s1.thr.fenced s1).syncWord (.scratch b.grp.gid off)).ahead ((marked m s1.thr.fenced s1).syncHeld (.scratch b.grp.gid off)) = 0 := if_neg hne
  simp only [bodySbar, hreg, Option.isSome_none, Bool.false_eq_true, if_false, hplace, hloc, if_neg hno, hm, hahead, Nat.add_zero] <;> rfl
end

section
variable {i : Instr} {e : Enc} {s s1 : State} {g : Bool} {p : SyncTarget} {off : Nat} (hi : exec i s = s.issue g bodySbar e) (hplace : (atBody e s).syncPlace e true = .ok (p, s1))
  (hloc : p.loc = .scratch (atBody e s).grp.gid off) (hreg : (atBody e s).thr.region = none) (hbar : (s1.syncAttr (.scratch (atBody e s).grp.gid off)).bar = true)
  (hrel : s1.released (s1.syncScope (.scratch (atBody e s).grp.gid off)) = true) (hbt : (s1.syncWord (.scratch (atBody e s).grp.gid off)).bt = 0)
  (hheld : s1.syncHeld (.scratch (atBody e s).grp.gid off) = 0)
include hi hplace hloc hreg hbar hrel hbt hheld

omit hbt in
/-- The arrival that others are still to follow: the thread waits for the next generation. -/
theorem does_sbar_waits (hlt : (s1.syncWord (.scratch (atBody e s).grp.gid off)).tc + 1 < (s1.syncWord (.scratch (atBody e s).grp.gid off)).tt) :
    Does i e s (fun b t => Waits (.sync (.scratch b.grp.gid off) (BitVec.ofNat 32 ((s1.syncWord (.scratch b.grp.gid off)).gen + 1))) b.thr.pc s t
      ∧ t.syncWord (.scratch b.grp.gid off) = { s1.syncWord (.scratch b.grp.gid off) with tc := (s1.syncWord (.scratch b.grp.gid off)).tc + 1 }) := by
  obtain ⟨m, hm⟩ := release_marked hrel
  obtain ⟨hthr, hgrp, -⟩ := syncPlace_facts hplace
  have hbody := bodySbar_eq hplace hloc hreg hbar hm (by omega) (by omega)
  obtain ⟨hword, hsame, hstatus⟩ := syncApply_arrives (lid := s1.lau.lid) (v := (marked m s1.thr.fenced s1).syncWait (.scratch (atBody e s).grp.gid off) (BitVec.ofNat 32 ((s1.syncWord (.scratch (atBody e s).grp.gid off)).gen + 1)))
    (congrArg Group.gid hgrp).symm hheld rfl rfl rfl hlt
  generalize State.syncApply (.scratch (atBody e s).grp.gid off) 0 true s1.lau.lid _ = u at hbody hword hsame hstatus
  refine does_waits_of hi hbody hstatus (onward_same ?_) (fun r hw => ⟨hw, hword⟩)
  unfold SameOnward State.syncWait marked at hsame
  unfold SameOnward
  rw [hsame, hthr]

/-- The arrival that completes the barrier: the thread goes on and its group's phase closes. -/
theorem does_sbar_goes (hlt : (s1.syncWord (.scratch (atBody e s).grp.gid off)).tc + 1 = (s1.syncWord (.scratch (atBody e s).grp.gid off)).tt) (hphase : (atBody e s).grp.phase = .running) :
    Does i e s (fun b t => Continues b t ∧ t.grp.phase = .closing
      ∧ t.syncWord (.scratch b.grp.gid off) = { s1.syncWord (.scratch b.grp.gid off) with tc := 0, gen := ((s1.syncWord (.scratch b.grp.gid off)).gen + 1) % 2 ^ 32 }) := by
  obtain ⟨m, hm⟩ := release_marked hrel
  obtain ⟨hthr, hgrp, -⟩ := syncPlace_facts hplace
  have hbody := bodySbar_eq hplace hloc hreg hbar hm (by omega) (by omega)
  obtain ⟨hword, hsame, hstatus, hclosing⟩ := syncApply_completes (lid := s1.lau.lid) (v := (marked m s1.thr.fenced s1).syncWait (.scratch (atBody e s).grp.gid off) (BitVec.ofNat 32 ((s1.syncWord (.scratch (atBody e s).grp.gid off)).gen + 1)))
    (congrArg Group.gid hgrp).symm hheld hbt rfl rfl rfl hlt hbar (by rw [← hgrp] at hphase; exact hphase)
  generalize State.syncApply (.scratch (atBody e s).grp.gid off) 0 true s1.lau.lid _ = u at hbody hword hsame hstatus hclosing
  refine Does.of_ready fun hr => does_continues (ps := []) hi hbody ?_ (by simp) (fun r hcont _ _ => ⟨hcont, hclosing, hword⟩)
  have hon : Onward [] (atBody e s) { u with thr := { u.thr with status := (atBody e s).thr.status } } := by
    refine onward_same ?_
    unfold SameOnward State.syncWait marked at hsame
    unfold SameOnward
    rw [hsame, hthr]
  rw [hr, ← hstatus] at hon
  exact hon
end

/-! ## spoll (R171) -/

/-- What a poll does where the word lies. -/
def polled (p : SyncTarget) (g : Word) (s : State) : Except Stop (List Word × State) :=
  match p.away with
  | some x => Except.ok ([], s.send (.sync (.poll g)) x p.addr false false false false)
  | none => .ok ([BitVec.ofNat 32 (s.seenWord p.loc).gen], s)

section
variable {e : Enc} {b s1 : State} {p : SyncTarget} {g : Word} (hplace : b.syncPlace e false = .ok (p, s1)) (hg : g = if e.form = .x then e.lit else b.read32 (code e e.b))
include hplace hg

theorem bodySpoll_eq : bodySpoll e b = match (if syncGlobal e then s1.publish (pubOp e) p.addr [g] (polled p g) else polled p g s1) with
    | .error st => .error st
    | .ok ([], s2) => .ok (s2.logSent.laterAs (s2.nextId - 1) e [] 1 0 0 false false false false)
    | .ok (ret, s2) => .ok ((if passed (ret.getD 0 0) g then s2.acquire (s2.syncScope p.loc) else s2).laterM e 1 (ofWords ret) false 0) := by
  subst hg
  simp only [bodySpoll, hplace] <;> rfl

theorem bodySpoll_answers {v : State} {w : Word} (h : (if syncGlobal e then s1.publish (pubOp e) p.addr [g] (polled p g) else polled p g s1) = .ok ([w], v)) :
    bodySpoll e b = .ok ((if passed w g then v.acquire (v.syncScope p.loc) else v).laterM e 1 (ofWords [w]) false 0) := by
  rw [bodySpoll_eq hplace hg, h]
  rfl

theorem bodySpoll_sends {v : State} (h : (if syncGlobal e then s1.publish (pubOp e) p.addr [g] (polled p g) else polled p g s1) = .ok ([], v)) :
    bodySpoll e b = .ok (v.logSent.laterAs (v.nextId - 1) e [] 1 0 0 false false false false) := by
  rw [bodySpoll_eq hplace hg, h]
end

theorem laterM_keeps (e : Enc) (n v : Nat) (acq : Bool) (fp : BitVec 5) (s : State) : (s.laterM e n v acq fp).mem = s.mem ∧ (s.laterM e n v acq fp).grp = s.grp := ⟨rfl, rfl⟩

theorem logSent_laterAs_keeps (id : Nat) (e : Enc) (s : State) : (s.logSent.laterAs id e [] 1 0 0 false false false false).mem = s.mem
    ∧ (s.logSent.laterAs id e [] 1 0 0 false false false false).inflight = s.inflight
    ∧ (s.logSent.laterAs id e [] 1 0 0 false false false false).thr = (s.laterAs id e [] 1 0 0 false false false false).thr := ⟨rfl, rfl, rfl⟩

theorem loadPending_word (e : Enc) (n : Nat) (s : State) : loadPending e 1 (ofWords [BitVec.ofNat 32 n]) false 0 false s = loadPending e 1 n false 0 false s := by
  have h : words 1 (ofWords [BitVec.ofNat 32 n]) = words 1 n := words_ofWords [BitVec.ofNat 32 n]
  unfold loadPending
  rw [h]

section
variable {i : Instr} {e : Enc} {s s1 : State} {gd : Bool} {p : SyncTarget} {g : Word} (hi : exec i s = s.issue gd bodySpoll e) (hplace : (atBody e s).syncPlace e false = .ok (p, s1))
  (hg : g = if e.form = .x then e.lit else (atBody e s).read32 (code e e.b)) (hrun : syncGlobal e = true → FirstRun s1)
include hi hplace hg hrun

/-- The generation of the word is left pending. -/
theorem does_spoll (hop : ¬e.op = 0x74) (ha : p.away = none) : Does i e s (fun b t => Continues b t ∧ t.mem = s1.mem ∧ t.grp.scratch = b.grp.scratch
    ∧ t.thr.pend = shrunk b ++ [loadPending e 1 (s1.seenWord p.loc).gen false 0 false b]) := by
  obtain ⟨hthr, hgrp, hid, -⟩ := syncPlace_facts hplace
  have hpoll : polled p g s1 = .ok ([BitVec.ofNat 32 (s1.seenWord p.loc).gen], s1) := by simp only [polled, ha]
  obtain ⟨v, hv, hvthr, hvmem, hvscratch, hvid⟩ : ∃ v : State, (if syncGlobal e then s1.publish (pubOp e) p.addr [g] (polled p g) else polled p g s1) = .ok ([BitVec.ofNat 32 (s1.seenWord p.loc).gen], v)
      ∧ v.thr = s1.thr ∧ v.mem = s1.mem ∧ v.grp.scratch = s1.grp.scratch ∧ v.nextId = s1.nextId := by
    by_cases hgl : syncGlobal e = true
    · exact ⟨_, (if_pos hgl).trans (publish_withEntry (hrun hgl) hpoll), rfl, rfl, rfl, rfl⟩
    · exact ⟨s1, (if_neg hgl).trans hpoll, rfl, rfl, rfl, rfl⟩
  have hbody := bodySpoll_answers hplace hg hv
  obtain ⟨w, hw, hwthr, hwmem, hwscratch, hwid⟩ : ∃ w : State, (if passed (BitVec.ofNat 32 (s1.seenWord p.loc).gen) g then v.acquire (v.syncScope p.loc) else v) = w
      ∧ w.thr = v.thr ∧ w.mem = v.mem ∧ w.grp.scratch = v.grp.scratch ∧ w.nextId = v.nextId := by
    split
    · obtain ⟨h1, h2, h3, h4, -⟩ := acquire_facts (v.syncScope p.loc) v
      exact ⟨_, rfl, h1, h2, congrArg Group.scratch h3, h4⟩
    · exact ⟨_, rfl, rfl, rfl, rfl, rfl⟩
  rw [hw] at hbody
  have hon := onward_laterM (e := e) (b := atBody e s) (s1 := w) 1 (ofWords [BitVec.ofNat 32 (s1.seenWord p.loc).gen]) false 0 (hwthr.trans (hvthr.trans hthr)) (hwid.trans (hvid.trans hid))
  rw [decide_eq_false hop, loadPending_word] at hon
  obtain ⟨hlmem, hlgrp⟩ := laterM_keeps e 1 (ofWords [BitVec.ofNat 32 (s1.seenWord p.loc).gen]) false 0 w
  rw [← hlmem] at hwmem
  rw [← hlgrp] at hwscratch
  generalize w.laterM e 1 (ofWords [BitVec.ofNat 32 (s1.seenWord p.loc).gen]) false 0 = r at *
  exact does_continues hi hbody hon (loadPending_new _ _ _ _ _ _ _) (fun u hcont hpend _ =>
    ⟨hcont, hwmem.trans hvmem, hwscratch.trans (hvscratch.trans (congrArg Group.scratch hgrp)), hpend⟩)

/-- On another device's word the poll is sent there. -/
theorem does_spoll_away {l : Xlat} (ha : p.away = some l) : Does i e s (fun b t => Continues b t ∧ (t.mem = s1.mem ∧ ∃ a, t.inflight = b.inflight ++ [a] ∧ a.serial = b.nextId ∧ a.t = b.thr.key
    ∧ a.kind = .sync (.poll g) ∧ a.dst = devOf l.key ∧ a.key = l.key ∧ a.remote = true) ∧ t.thr.pend = shrunk b ++ [{ loadPending e 1 0 false 0 false b with vals := [] }]) := by
  obtain ⟨hthr, hgrp, hid, hin, hnamed⟩ := syncPlace_facts hplace
  obtain ⟨hgl, -, hc⟩ := hnamed.away ha
  have hpoll : polled p g s1 = .ok ([], s1.send (.sync (.poll g)) l p.addr false false false false) := by simp only [polled, ha]
  obtain ⟨a, us, hsthr, hsmem, hsid, -, hsin, hserial, hkey, hkind, hdst, hak, hremote, -⟩ := send_remote (.sync (.poll g)) p.addr false false false false s1 hc
  have hbody := bodySpoll_sends hplace hg ((if_pos hgl).trans (publish_withEntry (hrun hgl) hpoll))
  generalize s1.send (.sync (.poll g)) l p.addr false false false false = v at *
  have hid' : (withEntry e p.addr [g] [] s1 v).nextId - 1 = (atBody e s).nextId := by
    rw [← hid]
    exact congrArg (· - 1) hsid
  rw [hid'] at hbody
  obtain ⟨hlmem, hlin, hlthr⟩ := logSent_laterAs_keeps (atBody e s).nextId e (withEntry e p.addr [g] [] s1 v)
  rw [← show _ = v.mem from hlmem] at hsmem
  rw [← show _ = v.inflight from hlin] at hsin
  have hunder : Under (atBody e s).thr.status [{ loadPending e 1 0 false 0 false (atBody e s) with vals := [] }] (atBody e s).thr
      ((withEntry e p.addr [g] [] s1 v).logSent.laterAs (atBody e s).nextId e [] 1 0 0 false false false false).thr := by
    rw [hlthr]
    simp [Under, State.laterAs, hsthr, hthr, loadPending]
  generalize (withEntry e p.addr [g] [] s1 v).logSent.laterAs (atBody e s).nextId e [] 1 0 0 false false false false = r at *
  exact does_continues hi hbody hunder.onward (by simp [loadPending]) (fun u hcont hpend _ =>
    ⟨hcont, ⟨hsmem, a, hsin.trans (congrArg (· ++ [a]) hin), hserial.trans hid, hkey.trans (congrArg Thread.key hthr), hkind, hdst, hak, hremote⟩, hpend⟩)
end

theorem LX.enc_gen (x : LX) (op : BitVec 8) (b : State) : x.lit.getD (b.read32 x.b) = if (x.enc op).form = .x then (x.enc op).lit else b.read32 (code (x.enc op) (x.enc op).b) := by
  unfold LX.enc
  cases x.lit <;> rfl

theorem SEnc.enc_gen (y : SEnc) (op : BitVec 8) (b : State) : b.read32 (code (y.enc op) (y.enc op).b) = if (y.enc op).form = .x then (y.enc op).lit else b.read32 (code (y.enc op) (y.enc op).b) :=
  (if_neg Form.noConfusion).symm

/-- Settles O15: initialising, arrivals, waits, barriers and polls, each here and on another device's word. -/
theorem syncWords : Obligations.SyncWords := by
  unfold Obligations.SyncWords
  refine ⟨fun x y s => ⟨?init, ?arriveS, ?arriveL⟩, fun x y s => ⟨?waitS, ?waitL, ?barS, ?barL, ?poll⟩⟩
  case init =>
    intro p s1 e b loc bar tt attr hplace hready hlt hc hnz hbar
    have hm : (x.enc 0x82).m = x.m := LX.enc_m x 0x82
    have hdo := does_sinit (i := .sinit x) (g := false) hplace hready rfl (tt := if bit (x.enc 0x82).m.toNat 2 then ((atBody (x.enc 0x82) s).liveThreads (atBody (x.enc 0x82) s).grp.gid).length else (atBody (x.enc 0x82) s).opC (x.enc 0x82) 1 % 2 ^ 16)
      rfl (by rw [hm]; exact hlt) (by rw [hm]; exact hc) (by rw [hm]; exact hnz) (by rw [hm]; exact hbar)
    rw [hm] at hdo
    obtain ⟨hhere, haway⟩ := hdo
    exact ⟨fun ha => (hhere ha).imp_at (fun t ⟨hcont, hpend, honly, hword, _, hattr, _⟩ => ⟨hcont, hpend, honly, hword, hattr⟩), haway⟩
  case arriveS =>
    intro p s1 b loc hplace hready hbar htt hok hrel
    obtain ⟨hhere, haway⟩ := does_sarrive (i := .sarriveS y) (g := false) (arrival := true) (bytes := 0) hplace hready rfl rfl rfl hbar htt hok hrel
    exact ⟨fun ha => (hhere ha).imp_at (fun t ⟨hcont, hpend, honly, hword, hheld, _⟩ => ⟨hcont, hpend, honly, hword, hheld⟩), haway⟩
  case arriveL =>
    intro p s1 b loc hplace hready hbar htt hok hrel
    obtain ⟨hhere, haway⟩ := does_sarrive (i := .sarriveLX x) (g := false) (arrival := !x.m.getLsbD 1) (bytes := (atBody (x.enc 0x83) s).opB (x.enc 0x83) 1) hplace hready rfl
      (by rw [decide_eq_false (LX.enc_form x 0x83), LX.enc_m]; exact rfl) (by rw [if_neg (LX.enc_form x 0x83)]) hbar htt hok hrel
    exact ⟨fun ha => (hhere ha).imp_at (fun t ⟨hcont, hpend, honly, hword, hheld, _⟩ => ⟨hcont, hpend, honly, hword, hheld⟩), haway⟩
  case waitS =>
    intro p s1 b loc hplace hreg
    have hg := SEnc.enc_gen y 0x84 b
    exact ⟨fun ha => (does_swait (i := .swaitS y) (gd := false) rfl hplace hreg hg ha).imp_at (fun t h => h), fun l ha => (does_swait_away (i := .swaitS y) (gd := false) rfl hplace hreg hg ha).imp_at (fun t h => h)⟩
  case waitL =>
    intro p s1 b loc hplace hreg
    have hg := LX.enc_gen x 0x84 b
    exact ⟨fun ha => (does_swait (i := .swaitLX x) (gd := false) rfl hplace hreg hg ha).imp_at (fun t h => h), fun l ha => (does_swait_away (i := .swaitLX x) (gd := false) rfl hplace hreg hg ha).imp_at (fun t h => h)⟩
  case barS =>
    intro off p s1 b loc hplace hloc hreg hkey hbar hrel hbt htt hheld
    exact ⟨fun hlt => does_sbar_waits (i := .sbarS y) (g := false) rfl hplace hloc hreg hbar hrel hheld hlt,
      fun hlt hphase => does_sbar_goes (i := .sbarS y) (g := false) rfl hplace hloc hreg hbar hrel hbt hheld hlt hphase⟩
  case barL =>
    intro off p s1 b loc hplace hloc hreg hkey hbar hrel hbt htt hheld
    exact ⟨fun hlt => does_sbar_waits (i := .sbarL x) (g := false) rfl hplace hloc hreg hbar hrel hheld hlt,
      fun hlt hphase => does_sbar_goes (i := .sbarL x) (g := false) rfl hplace hloc hreg hbar hrel hbt hheld hlt hphase⟩
  case poll =>
    intro p s1 e b hplace hrun
    have hg := LX.enc_gen x 0x86 b
    exact ⟨fun ha => does_spoll (i := .spoll x) (gd := false) rfl hplace hg hrun (show ¬(x.enc 0x86).op = 0x74 by simp [LX.enc_op]) ha, fun l ha => (does_spoll_away (i := .spoll x) (gd := false) rfl hplace hg hrun ha).imp_at (fun t h => h)⟩

end Sys2Proof.Claims
end

section
/-!
PROOFS. Router reductions and censuses (O39).
-/
namespace Sys2Proof.Claims
open Machine Bits Encoding

/-! ## A contributor receives its status (R298) -/

/-- What a status of contribution `c` makes of a thread. -/
def fredThread (st clk : Nat) (c : Contribution) (t : Thread) : Thread :=
  if t.key = c.t then (if t.status = .waiting (.fred c.serial) then (t.putDst c.dst [BitVec.ofNat 32 st]).wake clk else t) else t

/-- Nothing but threads and groups differs. -/
def FredOnly (s t : State) : Prop := t = { s with thr := t.thr, threads := t.threads, grp := t.grp, groups := t.groups }

theorem FredOnly.trans {s t u : State} (h1 : FredOnly s t) (h2 : FredOnly t u) : FredOnly s u := by
  unfold FredOnly at h1 h2 ⊢
  rw [h1] at h2
  exact h2

theorem fredStatus_only (st : Nat) (s : State) (c : Contribution) : FredOnly s (s.fredStatus st c) := rfl

theorem fredStatus_threads (st : Nat) (s : State) (c : Contribution) : (s.fredStatus st c).allThreads = s.allThreads.map (fredThread st s.dev.clk c) := rfl

section
variable {s t : State} (h : FredOnly s t)
include h
theorem FredOnly.mem : t.mem = s.mem := (congrArg State.mem (show t = _ from h) :)
theorem FredOnly.dev : t.dev = s.dev := (congrArg State.dev (show t = _ from h) :)
theorem FredOnly.contributions : t.contributions = s.contributions := (congrArg State.contributions (show t = _ from h) :)
theorem FredOnly.failedViews : t.failedViews = s.failedViews := (congrArg State.failedViews (show t = _ from h) :)
end

theorem fredFold_facts (st : Nat) (ps : List Contribution) (s : State) : FredOnly s (ps.foldl (State.fredStatus st) s)
    ∧ (ps.foldl (State.fredStatus st) s).allThreads = s.allThreads.map (fun t => ps.foldl (fun t c => fredThread st s.dev.clk c t) t) := by
  induction ps generalizing s with
  | nil => exact ⟨rfl, (List.map_id _).symm⟩
  | cons c ps ih =>
    obtain ⟨honly, hthreads⟩ := ih (s.fredStatus st c)
    refine ⟨(fredStatus_only st s c).trans honly, ?_⟩
    rw [List.foldl_cons, hthreads, fredStatus_threads, (fredStatus_only st s c).dev, List.map_map]
    rfl

section
variable (st clk : Nat)

theorem fredThread_other {c : Contribution} {t : Thread} (h : ¬(t.key = c.t ∧ t.status = .waiting (.fred c.serial))) : fredThread st clk c t = t := by
  unfold fredThread
  split
  · next hk => exact if_neg fun hs => h ⟨hk, hs⟩
  · rfl

theorem fredThread_due {c : Contribution} {t : Thread} (hk : t.key = c.t) (hs : t.status = .waiting (.fred c.serial)) : fredThread st clk c t = (t.putDst c.dst [BitVec.ofNat 32 st]).wake clk := by
  rw [fredThread, if_pos hk, if_pos hs]

/-- A thread that receives a status goes on. -/
theorem wake_putDst (t : Thread) (d : BitVec 8) (vs : List Word) : ((t.putDst d vs).wake clk).key = t.key ∧ ((t.putDst d vs).wake clk).status = .ready ∧ ((t.putDst d vs).wake clk).pc = t.npc := by
  unfold Thread.wake
  rw [Thread.putDst_eq]
  exact ⟨rfl, rfl, rfl⟩

theorem fredThreads_ready {t : Thread} (h : t.status = .ready) (ps : List Contribution) : ps.foldl (fun t c => fredThread st clk c t) t = t := by
  induction ps with
  | nil => rfl
  | cons c ps ih => rw [List.foldl_cons, fredThread_other st clk (by rw [h]; exact fun h => by cases h.2), ih]

theorem fredThreads_others {n : Nat} {t : Thread} (h : t.status = .waiting (.fred n)) {ps : List Contribution} (hps : ∀ p ∈ ps, p.serial ≠ n) : ps.foldl (fun t c => fredThread st clk c t) t = t := by
  induction ps with
  | nil => rfl
  | cons c ps ih =>
    have hne := hps c (List.mem_cons_self ..)
    rw [List.foldl_cons, fredThread_other st clk (by rw [h]; exact fun hc => hne (by cases hc.2; rfl)), ih fun p hp => hps p (List.mem_cons_of_mem _ hp)]

/-- A contributor among those that receive a status goes on. -/
theorem fredThreads_goes {c : Contribution} {t : Thread} (hk : t.key = c.t) (hs : t.status = .waiting (.fred c.serial)) {ps : List Contribution} (hc : c ∈ ps) :
    (ps.foldl (fun t c => fredThread st clk c t) t).key = t.key ∧ (ps.foldl (fun t c => fredThread st clk c t) t).status = .ready ∧ (ps.foldl (fun t c => fredThread st clk c t) t).pc = t.npc := by
  induction ps with
  | nil => cases hc
  | cons p ps ih =>
    rw [List.foldl_cons]
    by_cases hp : t.key = p.t ∧ t.status = .waiting (.fred p.serial)
    · obtain ⟨hkey, hready, hpc⟩ := wake_putDst clk t p.dst [BitVec.ofNat 32 st]
      rw [fredThread_due st clk hp.1 hp.2, fredThreads_ready st clk hready]
      exact ⟨hkey, hready, hpc⟩
    · rw [fredThread_other st clk hp]
      refine ih ((List.mem_cons.mp hc).resolve_left fun he => hp ?_)
      subst he
      exact ⟨hk, hs⟩
end

/-- The contributor goes on with its status in d, where it waits for it. -/
def FredAnswered (c : Contribution) (serial st : Nat) (s t : State) : Prop :=
  ∀ u ∈ s.allThreads, u.key = c.t → u.status = .waiting (.fred serial) → ∃ v ∈ t.allThreads, v.key = u.key ∧ v.status = .ready ∧ v.pc = u.npc
    ∧ ∀ (n : Nat) (h : n < 200), v.regs[n] = if n = c.dst.toNat then BitVec.ofNat 32 st else u.regs[n]

theorem putDst_word (t : Thread) (d : BitVec 8) (v : Word) (clk n : Nat) (h : n < 200) : ((t.putDst d [v]).wake clk).regs[n] = if n = d.toNat then v else t.regs[n] := by
  refine (Thread.putDst_regs t d [v] n h).trans ?_
  by_cases he : n = d.toNat
  · subst he
    simp
  · rw [if_neg he, if_neg (by simp only [List.length_singleton]; omega)]

theorem fredFold_answered {ps : List Contribution} {c : Contribution} {st : Nat} {s : State} (hne : ∀ p ∈ ps, p.serial ≠ c.serial) :
    FredAnswered c c.serial st s ((ps ++ [c]).foldl (State.fredStatus st) s) := by
  intro u hu hk hs
  obtain ⟨-, hthreads⟩ := fredFold_facts st (ps ++ [c]) s
  have hlast : (ps ++ [c]).foldl (fun t c => fredThread st s.dev.clk c t) u = (u.putDst c.dst [BitVec.ofNat 32 st]).wake s.dev.clk := by
    rw [List.foldl_append, fredThreads_others st s.dev.clk hs hne]
    exact fredThread_due st s.dev.clk hk hs
  obtain ⟨hkey, hready, hpc⟩ := wake_putDst s.dev.clk u c.dst [BitVec.ofNat 32 st]
  refine ⟨(u.putDst c.dst [BitVec.ofNat 32 st]).wake s.dev.clk, ?_, hkey, hready, hpc, fun n h => putDst_word u c.dst _ _ n h⟩
  rw [hthreads, ← hlast]
  exact List.mem_map_of_mem hu

theorem fredStatus_answered (c : Contribution) (st : Nat) (s : State) : FredAnswered c c.serial st s (s.fredStatus st c) := fredFold_answered (ps := []) (by simp)

/-- A reduction that is replaced by a discarded one is gone. -/
theorem putReduction_gone {r : Reduction} (hopen : r.dead = none) {ps : List Contribution} {st : Nat} (s : State) : r ∉ (s.putReduction r { r with parts := ps, dead := some st }).dev.reductions := by
  intro hm
  obtain ⟨x, -, hx⟩ := List.mem_filterMap.mp hm
  split at hx
  · split at hx
    · cases hx
    · have hd : (some st : Option Nat) = r.dead := congrArg Reduction.dead (Option.some.inj hx)
      rw [hopen] at hd
      cases hd
  · next hne => exact hne (Option.some.inj hx)

theorem putReduction_stands {r new : Reduction} {s : State} (hr : r ∈ s.dev.reductions) (hopen : new.dead = none) : new ∈ (s.putReduction r new).dev.reductions := by
  refine List.mem_filterMap.mpr ⟨r, hr, ?_⟩
  rw [if_pos rfl, hopen]
  rfl

/-! ## A contribution arrives (R297, R298) -/

/-- The contribution has been taken from the fabric. -/
def fredTaken (c : Contribution) (s : State) : State := { s with contributions := s.contributions.filter (fun x => x.serial ≠ c.serial) }

/-- The open reductions of the checked-out device. -/
def openReductions (s : State) : List Reduction := s.dev.reductions.filter (fun r => r.dead.isNone)

section
variable {c : Contribution} {s : State} (hreach : s.fredReaches c = true)
include hreach

theorem fredArrives_lost (err : Bool) (h : s.dev.ckState = 2) : fredArrives c err s = some ((fredTaken c s).fredStatus 4 c) := by
  simp only [fredArrives, hreach, Bool.not_true, Bool.false_eq_true, if_false, if_pos h]
  rfl

theorem fredArrives_failed (err : Bool) (h : ¬s.dev.ckState = 2) (hf : (c.seq, c.view) ∈ s.failedViews) : fredArrives c err s = some ((fredTaken c s).fredStatus 2 c) := by
  simp only [fredArrives, hreach, Bool.not_true, Bool.false_eq_true, if_false, if_neg h, List.contains_iff_mem.mpr hf, if_true]
  rfl

variable (h : ¬s.dev.ckState = 2) (hf : (c.seq, c.view) ∉ s.failedViews) (howes : ∀ r ∈ s.dev.reductions, r.owes c = false)
include h hf howes

theorem fredArrives_new (err : Bool) (hnew : ∀ r ∈ openReductions s, r.of c = false) : fredArrives c err s = if (openReductions s).length ≥ 256 then some ((fredTaken c s).fredStatus 5 c)
    else some (if err then State.discardReduction { dev := s.dev.num, since := s.now, parts := [c], dead := none } [c] 4
        { fredTaken c s with dev := { (fredTaken c s).dev with reductions := (fredTaken c s).dev.reductions ++ [{ dev := s.dev.num, since := s.now, parts := [c], dead := none }] } }
      else { fredTaken c s with dev := { (fredTaken c s).dev with reductions := (fredTaken c s).dev.reductions ++ [{ dev := s.dev.num, since := s.now, parts := [c], dead := none }] } }) := by
  have hno : s.failedViews.contains (c.seq, c.view) = false := by simpa using hf
  have howe : s.dev.reductions.find? (fun r => r.owes c) = none := List.find?_eq_none.mpr fun r hr => by rw [howes r hr]; exact Bool.false_ne_true
  have hof : (s.dev.reductions.filter (fun r => r.dead.isNone)).find? (fun r => r.of c) = none := List.find?_eq_none.mpr fun r hr => by rw [hnew r hr]; exact Bool.false_ne_true
  simp only [fredArrives, hreach, Bool.not_true, Bool.false_eq_true, if_false, if_neg h, hno, howe, hof]
  rfl

theorem fredArrives_found (err : Bool) {r : Reduction} (hr : (openReductions s).find? (fun r => r.of c) = some r) : fredArrives c err s =
    if r.parts.any (fun p => !(p.agrees c) || p.index = c.index) then some ((fredTaken c s).discardReduction r (r.parts ++ [c]) 3)
    else if err then some ((fredTaken c s).discardReduction r (r.parts ++ [c]) 4)
    else if ({ r with parts := r.parts ++ [c] } : Reduction).full then
      whenDue (!(c.parts.any (fun p => s.lockedIn p.1 p.2) || c.arrival.any (fun k => s.lockedIn k 16))) ((fredTaken c s).finishReduction r (r.parts ++ [c]) c)
    else some ((fredTaken c s).putReduction r { r with parts := r.parts ++ [c] }) := by
  have hno : s.failedViews.contains (c.seq, c.view) = false := by simpa using hf
  have howe : s.dev.reductions.find? (fun r => r.owes c) = none := List.find?_eq_none.mpr fun r hr => by rw [howes r hr]; exact Bool.false_ne_true
  unfold openReductions at hr
  simp only [fredArrives, hreach, Bool.not_true, Bool.false_eq_true, if_false, if_neg h, hno, howe, hr]
  rfl
end

/-- The contribution is taken, and memory is unchanged. -/
def FredTook (c : Contribution) (s t : State) : Prop := t.mem = s.mem ∧ t.contributions = s.contributions.filter (fun x => x.serial ≠ c.serial)

theorem fredStatus_took (c : Contribution) (st : Nat) (s : State) : FredTook c s ((fredTaken c s).fredStatus st c) ∧ FredAnswered c c.serial st s ((fredTaken c s).fredStatus st c) :=
  ⟨⟨rfl, rfl⟩, fredStatus_answered c st (fredTaken c s)⟩

/-- A reduction of the checked-out device that is discarded is gone, and its last contributor answered. -/
theorem discardReduction_facts {r : Reduction} {c : Contribution} (hopen : r.dead = none) (hne : ∀ p ∈ r.parts, p.serial ≠ c.serial) (st : Nat) (s : State) :
    FredTook c s ((fredTaken c s).discardReduction r (r.parts ++ [c]) st) ∧ r ∉ ((fredTaken c s).discardReduction r (r.parts ++ [c]) st).dev.reductions
      ∧ FredAnswered c c.serial st s ((fredTaken c s).discardReduction r (r.parts ++ [c]) st) := by
  obtain ⟨honly, -⟩ := fredFold_facts st (r.parts ++ [c]) ((fredTaken c s).putReduction r { r with parts := r.parts ++ [c], dead := some st })
  refine ⟨⟨honly.mem, honly.contributions⟩, ?_, fredFold_answered (s := (fredTaken c s).putReduction r { r with parts := r.parts ++ [c], dead := some st }) hne⟩
  rw [State.discardReduction, honly.dev]
  exact putReduction_gone hopen _

/-- The last contribution completes a reduction: its result is written, byte for byte. -/
theorem finishReduction_facts {r : Reduction} {c : Contribution} (hne : ∀ p ∈ r.parts, p.serial ≠ c.serial) (harr : c.arrival = none)
    (hd : (cellsOf c.parts (fredResult (r.parts ++ [c]) c)).Pairwise (fun p q => p.1 ≠ q.1)) {s t : State} (ht : t = (fredTaken c s).finishReduction r (r.parts ++ [c]) c) :
    (∀ x ∈ cellsOf c.parts (fredResult (r.parts ++ [c]) c), Mem.get t.mem x.1 = x.2)
      ∧ (∀ a, (∀ x ∈ cellsOf c.parts (fredResult (r.parts ++ [c]) c), x.1 ≠ a) → Mem.get t.mem a = Mem.get s.mem a) ∧ r ∉ t.dev.reductions ∧ FredAnswered c c.serial 0 s t := by
  have ht' : t = (r.parts ++ [c]).foldl (State.fredStatus 0) ((State.performCells (cellsOf c.parts (fredResult (r.parts ++ [c]) c))
      { fredTaken c s with dev := { (fredTaken c s).dev with reductions := (fredTaken c s).dev.reductions.filter (fun x => x ≠ r) } }).clearPoison (cellsOf c.parts (fredResult (r.parts ++ [c]) c))) := by
    rw [ht, State.finishReduction, harr]
  generalize hcells : cellsOf c.parts (fredResult (r.parts ++ [c]) c) = cells at *
  have hhome := performCells_homeOnly cells { fredTaken c s with dev := { (fredTaken c s).dev with reductions := (fredTaken c s).dev.reductions.filter (fun x => x ≠ r) } }
  have hmem := State.performCells_mem cells { fredTaken c s with dev := { (fredTaken c s).dev with reductions := (fredTaken c s).dev.reductions.filter (fun x => x ≠ r) } }
  generalize State.performCells cells { fredTaken c s with dev := { (fredTaken c s).dev with reductions := (fredTaken c s).dev.reductions.filter (fun x => x ≠ r) } } = s1 at *
  obtain ⟨honly, -⟩ := fredFold_facts 0 (r.parts ++ [c]) (s1.clearPoison cells)
  have hanswered := fredFold_answered (st := 0) (s := s1.clearPoison cells) hne
  rw [← ht'] at honly hanswered
  have hthreads : (s1.clearPoison cells).allThreads = s.allThreads := by
    unfold HomeOnly at hhome
    rw [hhome]
    rfl
  refine ⟨fun x hx => ?_, fun a ha => ?_, ?_, ?_⟩
  · rw [honly.mem, State.clearPoison_mem, hmem]
    exact Mem.get_writeCells_mem _ _ hd x hx
  · rw [honly.mem, State.clearPoison_mem, hmem]
    exact Mem.get_writeCells_other _ _ _ ha
  · rw [honly.dev, show (s1.clearPoison cells).dev = s1.dev from rfl, hhome.dev]
    exact fun h => by simpa using (List.mem_filter.mp h).2
  · unfold FredAnswered at hanswered
    rwa [hthreads] at hanswered

/-! ## Views that fail -/

theorem checkoutDev_kept (d : Nat) (s : State) : (s.checkoutDev d).mem = s.mem ∧ (s.checkoutDev d).failedViews = s.failedViews := by
  unfold State.checkoutDev
  split <;> exact ⟨rfl, rfl⟩

theorem dropView_kept (seq view : Word) (s : State) : (s.dropView seq view).mem = s.mem ∧ (s.dropView seq view).failedViews = s.failedViews := by
  unfold State.dropView
  refine ⟨foldl_proj State.mem (fun s r => ?_) _ _, foldl_proj State.failedViews (fun s r => ?_) _ _⟩
  · dsimp only
    split
    · rfl
    · exact (fredFold_facts 2 r.parts _).1.mem
  · dsimp only
    split
    · rfl
    · exact (fredFold_facts 2 r.parts _).1.failedViews

theorem dropViews_kept (seq view : Word) (ds : List Nat) (s : State) : (ds.foldl (fun s d => (s.checkoutDev d).dropView seq view) s).mem = s.mem
    ∧ (ds.foldl (fun s d => (s.checkoutDev d).dropView seq view) s).failedViews = s.failedViews :=
  ⟨foldl_proj State.mem (fun s d => (dropView_kept seq view _).1.trans (checkoutDev_kept d s).1) _ _, foldl_proj State.failedViews (fun s d => (dropView_kept seq view _).2.trans (checkoutDev_kept d s).2) _ _⟩

/-! ## Censuses (R300, R303, R306) -/

theorem updPart_core (d p : Nat) (f : Part → Part) (s : State) : (s.updPart d p f).core = s.core := by
  unfold State.updPart
  split <;> rfl

theorem journalLaunch_core (l : Launch) (state status : Nat) (s : State) : (s.journalLaunch l state status).core = s.core := by
  unfold State.journalLaunch
  split
  · exact updPart_core ..
  · rfl

theorem acceptLaunch_core (l : Launch) (n : Nat) (s : State) : (s.acceptLaunch l n).core = s.core := by
  unfold State.acceptLaunch State.freshId
  dsimp only
  rw [apply_ite State.core, journalLaunch_core, updPart_core, ite_self]

theorem updCensus_core (id : Nat) (f : Census → Census) (s : State) : (s.updCensus id f).core = s.core := rfl

theorem respond_core (c : Census) (s : State) (d : DirEntry) : (State.respond c s d).core = s.core := by
  have hv : (s.visit d.record.toNat false).core = s.core := (congrArg State.core (visit_eq ..) :)
  unfold State.respond
  dsimp only
  split
  · rfl
  · split
    · exact hv
    · split
      · exact hv
      · rw [updCensus_core, acceptLaunch_core, hv]

theorem seenNo_insert (c : Core) (pid scope : Nat) (n : Word) : ({ c with seen := Bits.insert (4 * pid + scope) n c.seen } : Core).seenNo pid scope = n := by
  simp [Core.seenNo]

/-- The entries of the checked-out core that a census reaches. -/
def censusHits (c : Census) (s : State) : List DirEntry := s.core.dirs.filter (fun d => d.pid = c.pid && d.key = c.key && d.answers c.number c.scope)

/-- The checked-out core has the census's number. -/
def censusNoted (c : Census) (s : State) : State := { s with core := ({ s.core with seen := Bits.insert (4 * c.pid + c.scope) c.number s.core.seen } : Core).dropGhosts }

/-- A core processes a census and notes its number. -/
theorem censusStarts_facts {c : Census} {at_ : Nat} {s : State} (htodo : at_ ∈ c.todo) (hp : s.part.pstat = 0) (hb : s.part.broken = false) (ha : s.dev.answers = true)
    (hfirst : ∀ a ∈ s.censuses, a.precedes c s.core.dev s.core.num = false) : ∃ t, censusStarts c at_ s = some t
      ∧ ((∀ d ∈ s.core.dirs, d.pid = c.pid → d.key = c.key → d.answers c.number c.scope = false) → t.mem = s.mem) ∧ t.core.seenNo c.pid c.scope = c.number
      ∧ ∀ d ∈ t.censuses, d.id = c.id → at_ ∉ d.todo := by
  have hany : s.censuses.any (fun a => a.precedes c s.core.dev s.core.num) = false := List.any_eq_false.mpr fun a ha => by rw [hfirst a ha]; exact Bool.false_ne_true
  have hstart : censusStarts c at_ s = some (State.updCensus c.id (fun c => { c with todo := c.todo.filter (fun x => x ≠ at_) }) ((censusHits c s).foldl (State.respond c) (censusNoted c s))) := by
    simp only [censusStarts, whenDue, List.contains_iff_mem.mpr htodo, hp, hb, ha, hany, decide_true, Bool.not_false, Bool.and_self, if_true] <;> rfl
  refine ⟨_, hstart, fun hno => ?_, ?_, fun d hd hid hin => ?_⟩
  · have hnil : censusHits c s = [] := by
      refine List.filter_eq_nil_iff.mpr fun d hd hc => ?_
      simp only [Bool.and_eq_true, decide_eq_true_eq] at hc
      obtain ⟨⟨h1, h2⟩, h3⟩ := hc
      rw [hno d hd h1 h2] at h3
      cases h3
    rw [hnil]
    rfl
  · refine (congrArg (fun x => x.seenNo c.pid c.scope) (foldl_proj State.core (respond_core c) _ _)).trans ?_
    exact seenNo_insert s.core c.pid c.scope c.number
  · obtain ⟨x, -, hx⟩ := List.mem_map.mp hd
    split at hx
    · rw [← hx] at hin
      simpa using (List.mem_filter.mp hin).2
    · next hne =>
      rw [hx] at hne
      exact hne hid

theorem group?_updGroup {gid : Nat} {f : Group → Group} (hf : ∀ g, g.gid = gid → (f g).gid = gid) (s : State) : (s.updGroup gid f).group? gid = (s.group? gid).map f := by
  have hfind (l : List Group) : (l.map (fun g => if g.gid = gid then f g else g)).find? (fun g => g.gid = gid) = (l.find? (fun g => g.gid = gid)).map f := by
    induction l with
    | nil => rfl
    | cons g l ih =>
      by_cases hg : g.gid = gid
      · simp [hg, hf g hg]
      · simp [hg, ih]
  exact hfind s.allGroups

/-- What the completion of a word in a scratchpad leaves of it. -/
theorem onComplete_group (gid off lid n : Nat) (s : State) : (s.onComplete (.scratch gid off) lid n).mem = s.mem ∧ (s.onComplete (.scratch gid off) lid n).censuses = s.censuses
    ∧ ∀ g, s.group? gid = some g → ∃ h, (s.onComplete (.scratch gid off) lid n).group? gid = some h ∧ h.scratch = g.scratch := by
  obtain ⟨hgens, -⟩ := raced_only (.scratch gid off) lid n s
  cases hb : (s.syncAttr (.scratch gid off)).bar with
  | true =>
    rw [onComplete_scratch hb]
    generalize raced (.scratch gid off) lid n s = s2 at hgens
    refine ⟨?_, ?_, fun g hg => ?_⟩
    · rw [hgens]
      rfl
    · rw [hgens]
      rfl
    · have hclose (g : Group) (now : Nat) : (g.close now).gid = g.gid ∧ (g.close now).scratch = g.scratch := by
        unfold Group.close
        split
        · exact ⟨rfl, rfl⟩
        · split <;> exact ⟨rfl, rfl⟩
      have hg2 : s2.group? gid = some g := by
        rw [hgens]
        exact hg
      refine ⟨g.close s2.now, ?_, (hclose g s2.now).2⟩
      refine (group?_updGroup (f := fun g => g.close s2.now) (fun g hg => (hclose g _).1.trans hg) s2).trans ?_
      rw [hg2]
      rfl
  | false =>
    obtain ⟨hgens, -⟩ := onComplete_nobar (lid := lid) (n := n) hb
    refine ⟨?_, ?_, fun g hg => ⟨g, ?_, rfl⟩⟩
    · rw [hgens]
    · rw [hgens]
    · rw [hgens]
      exact hg

/-- An arrival at a word of a group's scratchpad leaves memory alone, and the scratchpad outside the word. -/
theorem syncApply_group {gid off bytes lid : Nat} {arrival : Bool} {g : Group} {s : State} (hg : s.group? gid = some g) : (s.syncApply (.scratch gid off) bytes arrival lid).mem = s.mem
    ∧ (s.syncApply (.scratch gid off) bytes arrival lid).censuses = s.censuses
    ∧ ∃ h w, (s.syncApply (.scratch gid off) bytes arrival lid).group? gid = some h ∧ h.scratch = Mem.write g.scratch off (SyncWord.bytes w) := by
  rw [syncApply_eq]
  generalize syncAfter (.scratch gid off) bytes arrival s = r
  obtain ⟨w, held, n⟩ := r
  have hput : ∃ h, (s.putSync (.scratch gid off) w held).group? gid = some h ∧ h.scratch = Mem.write g.scratch off w.bytes := by
    refine ⟨_, (group?_updGroup (fun g hg => ?_) s).trans (congrArg _ hg), ?_⟩
    · dsimp only
      rw [undoRange_only]
      exact hg
    · dsimp only
      rw [undoRange_only]
  have hdone : ∃ u : State, (if n = 0 then s.putSync (.scratch gid off) w held else (s.putSync (.scratch gid off) w held).onComplete (.scratch gid off) lid n) = u ∧ u.mem = s.mem ∧ u.censuses = s.censuses
      ∧ ∃ h, u.group? gid = some h ∧ h.scratch = Mem.write g.scratch off w.bytes := by
    obtain ⟨h1, hh1, hs1⟩ := hput
    split
    · exact ⟨_, rfl, rfl, rfl, h1, hh1, hs1⟩
    · obtain ⟨hmem, hcens, hgrp⟩ := onComplete_group gid off lid n (s.putSync (.scratch gid off) w held)
      obtain ⟨h2, hh2, hs2⟩ := hgrp h1 hh1
      exact ⟨_, rfl, hmem, hcens, h2, hh2, hs2.trans hs1⟩
  obtain ⟨u, hu, hmem, hcens, h, hh, hs⟩ := hdone
  unfold syncUpdated
  rw [hu]
  obtain ⟨hwmem, -, hwgrp, hwgroups, -⟩ := wakeSync_keeps (.scratch gid off) (BitVec.ofNat 32 w.gen) (n ≠ 0 || w.counts ≠ (s.syncWord (.scratch gid off)).counts) w.counts u
  have honly := wakeSync_syncOnly (.scratch gid off) (BitVec.ofNat 32 w.gen) (n ≠ 0 || w.counts ≠ (s.syncWord (.scratch gid off)).counts) w.counts u
  refine ⟨hwmem.trans hmem, (congrArg State.censuses (show _ = _ from honly) :).trans hcens, h, w, ?_, hs⟩
  rw [← hh]
  unfold State.group? State.allGroups
  rw [hwgrp, hwgroups]

theorem buffer_length (c : Census) (status : Nat) : (c.buffer status).length = 32 := by simp [Census.buffer]

/-- A census that is over writes its buffer and arrives at its word. -/
theorem censusEnds_facts {c : Census} {g : Group} {s : State} (hlost : s.censusLost c = false) (htodo : c.todo = []) (hfin : c.finished = c.spawned) (hrep : ∀ r ∈ s.replies, r.census ≠ c.id)
    (hg : s.group? c.gid = some g) (hapart : c.word + 16 ≤ c.buf ∨ c.buf + 32 ≤ c.word) : ∃ t, censusEnds c s = some t ∧ t.mem = s.mem ∧ t.censuses = s.censuses.filter (fun x => x.id ≠ c.id)
      ∧ ∃ h, t.group? c.gid = some h ∧ Mem.read h.scratch c.buf 32 = c.buffer (if c.overflow then 1 else 0) := by
  have hno : s.replies.any (fun r => r.census = c.id) = false := List.any_eq_false.mpr fun r hr => by simpa using hrep r hr
  have hg1 : ({ s with censuses := s.censuses.filter (fun x => x.id ≠ c.id) } : State).group? c.gid = some g := hg
  have hsts (g : Group) (off : Nat) (bs : List Byte) : (g.sts off bs).gid = g.gid := by
    unfold Group.sts
    rw [undoRange_only]
  have hg2 : (State.updGroup c.gid (fun g => g.sts c.buf (c.buffer (if c.overflow then 1 else 0))) { s with censuses := s.censuses.filter (fun x => x.id ≠ c.id) }).group? c.gid
      = some (g.sts c.buf (c.buffer (if c.overflow then 1 else 0))) := (group?_updGroup (fun g hg => (hsts g _ _).trans hg) _).trans (congrArg _ hg1)
  obtain ⟨hmem, hcens, h, w, hh, hs⟩ := syncApply_group (off := c.word) (bytes := 0) (lid := g.lid) (arrival := true) hg2
  refine ⟨_, ?_, hmem, hcens, h, hh, ?_⟩
  · simp only [censusEnds, hlost, htodo, hfin, hno, hg1, whenDue, List.isEmpty_nil, decide_true, Bool.not_false, Bool.and_self, Bool.or_true, if_true, Bool.false_eq_true, if_false]
  · have hscratch : (g.sts c.buf (c.buffer (if c.overflow then 1 else 0))).scratch = Mem.write g.scratch c.buf (c.buffer (if c.overflow then 1 else 0)) := by
      unfold Group.sts
      dsimp only
      rw [undoRange_only]
    rw [hs, Mem.read_write_other _ _ _ _ _ (by rw [syncWord_length]; omega), hscratch]
    have hself := Mem.read_write_self g.scratch c.buf (c.buffer (if c.overflow then 1 else 0))
    rw [buffer_length] at hself
    exact hself

/-- A reduction that has waited too long is gone, and its contributors go on. -/
theorem reductionTimesOut_facts {id view : Word} {r : Reduction} {s : State}
    (hr : s.dev.reductions.find? (fun r => r.dead.isNone && r.parts.any (fun p => p.id = id && p.view = view) && decide (r.since + 200000 ≤ s.now)) = some r) :
    ∃ t, reductionTimesOut id view s = some t ∧ t.mem = s.mem ∧ r ∉ t.dev.reductions
      ∧ ∀ c ∈ r.parts, ∀ u ∈ s.allThreads, u.key = c.t → u.status = .waiting (.fred c.serial) → ∃ v ∈ t.allThreads, v.key = u.key ∧ v.status = .ready ∧ v.pc = u.npc := by
  have hopen : r.dead = none := by
    have h := List.find?_some hr
    simp only [Bool.and_eq_true, Option.isNone_iff_eq_none] at h
    exact h.1.1
  obtain ⟨honly, hthreads⟩ := fredFold_facts 1 r.parts (s.putReduction r { r with parts := r.parts, dead := some 1 })
  have hstep : reductionTimesOut id view s = some (s.discardReduction r r.parts 1) := by simp only [reductionTimesOut, hr]
  refine ⟨_, hstep, honly.mem, ?_, fun c hc u hu hk hs => ?_⟩
  · rw [State.discardReduction, honly.dev]
    exact putReduction_gone hopen _
  · refine ⟨_, ?_, fredThreads_goes 1 s.dev.clk hk hs hc⟩
    rw [State.discardReduction, hthreads]
    exact List.mem_map_of_mem hu

/-- Settles O39: contributions, timeouts and failed views of router reductions; censuses start, take replies and end. -/
theorem reductionAndCensusEvents : Obligations.ReductionAndCensusEvents := by
  unfold Obligations.ReductionAndCensusEvents
  intro serial dev census core id view seq s
  refine ⟨fun c hc => ?contribution, fun r hr => ?timeout, ?announced, fun c hc => ⟨?start, fun g => ?complete⟩, fun r hr => ?reply⟩
  case contribution =>
    intro s1 opened answered gone hreach howes
    have hser : c.serial = serial := by simpa using List.find?_some hc
    subst hser
    have hexec (e : Bool) : exec (.fredContribution c.serial e) s = .next ((fredArrives c e s1).getD s) := by
      show execFredContribution c.serial e s = _
      simp only [execFredContribution, hc]
      rfl
    refine ⟨fun h e => ?lost, fun h hf e => ?failed, fun h hf hnew => ⟨fun hlen e => ?many, fun hlen => ?opens⟩, fun r h hf hr hne => ⟨fun hbad e => ?bad, fun hok hfull => ?joins, fun hok hfull harr hlock => ?ends⟩⟩
    case lost =>
      obtain ⟨htook, hans⟩ := fredStatus_took c 4 s1
      exact ⟨_, by rw [hexec, fredArrives_lost hreach e h, Option.getD_some], htook, hans⟩
    case failed =>
      obtain ⟨htook, hans⟩ := fredStatus_took c 2 s1
      exact ⟨_, by rw [hexec, fredArrives_failed hreach e h hf, Option.getD_some], htook, hans⟩
    case many =>
      obtain ⟨htook, hans⟩ := fredStatus_took c 5 s1
      exact ⟨_, by rw [hexec, fredArrives_new hreach h hf howes e hnew, if_pos (show (openReductions s1).length ≥ 256 from hlen), Option.getD_some], htook, hans⟩
    case opens =>
      have hstep : exec (.fredContribution c.serial false) s = .next { fredTaken c s1 with dev := { (fredTaken c s1).dev with
          reductions := (fredTaken c s1).dev.reductions ++ [{ dev := s1.dev.num, since := s1.now, parts := [c], dead := none }] } } := by
        rw [hexec, fredArrives_new hreach h hf howes false hnew, if_neg (show ¬(openReductions s1).length ≥ 256 from Nat.not_le.mpr hlen), Option.getD_some, if_neg Bool.false_ne_true]
      exact ⟨_, hstep, ⟨rfl, rfl⟩, rfl, rfl⟩
    all_goals
      have hmem := List.mem_of_find?_eq_some hr
      have hopen : r.dead = none := by simpa using (List.mem_filter.mp hmem).2
      have hfound (e : Bool) := fredArrives_found hreach h hf howes e hr
    case bad =>
      have hb : r.parts.any (fun p => !(p.agrees c) || p.index = c.index) = true := by
        obtain ⟨p, hp, hpb⟩ := hbad
        refine List.any_eq_true.mpr ⟨p, hp, ?_⟩
        simpa only [Bool.or_eq_true, Bool.not_eq_true', decide_eq_true_eq] using hpb
      obtain ⟨htook, hgone, hans⟩ := discardReduction_facts hopen hne 3 s1
      exact ⟨_, by rw [hexec, hfound e, if_pos hb, Option.getD_some], htook, hgone, hans⟩
    all_goals
      have hb : ¬r.parts.any (fun p => !(p.agrees c) || p.index = c.index) = true := by
        intro hb
        obtain ⟨p, hp, hpb⟩ := List.any_eq_true.mp hb
        exact hok ⟨p, hp, by simpa only [Bool.or_eq_true, Bool.not_eq_true', decide_eq_true_eq] using hpb⟩
    case joins =>
      have hstep : exec (.fredContribution c.serial false) s = .next ((fredTaken c s1).putReduction r { r with parts := r.parts ++ [c] }) := by
        rw [hexec, hfound false, if_neg hb, if_neg Bool.false_ne_true, if_neg (by rw [hfull]; exact Bool.false_ne_true), Option.getD_some]
      refine ⟨_, hstep, ⟨rfl, rfl⟩, ?_⟩
      exact putReduction_stands (s := fredTaken c s1) (List.mem_filter.mp hmem).1 hopen
    case ends =>
      intro cells hd
      have hno : (c.parts.any (fun p => s1.lockedIn p.1 p.2) || c.arrival.any (fun k => s1.lockedIn k 16)) = false := by
        rw [harr, Option.any_none, Bool.or_false]
        exact List.any_eq_false.mpr fun p hp => by rw [hlock p hp]; exact Bool.false_ne_true
      exact ⟨_, by rw [hexec, hfound false, if_neg hb, if_neg Bool.false_ne_true, if_pos hfull, whenDue, if_pos (by rw [hno]; rfl), Option.getD_some], finishReduction_facts hne harr hd rfl⟩
  case timeout =>
    obtain ⟨t, ht, hmem, hgone, hgo⟩ := reductionTimesOut_facts hr
    refine ⟨t, ?_, hmem.trans (checkoutDev_kept dev s).1, hgone, hgo⟩
    show execReductionTimeout dev id view s = _
    rw [execReductionTimeout, State.onDev, ht, Option.getD_some]
  case announced =>
    refine happensWhen_due (fun s => s.viewGone seq view && !(s.failedViews.contains (seq, view)))
      (fun s => (s.allDevs.map Device.num).foldl (fun s d => (s.checkoutDev d).dropView seq view) { s with failedViews := (seq, view) :: s.failedViews }) rfl (fun s1 _ => ?_) (fun s1 _ _ => dropViews_kept seq view _ _)
    simp only [Bool.and_eq_true, Bool.not_eq_true', List.contains_eq_mem, decide_eq_false_iff_not]
  case start =>
    intro s1 htodo hp hb ha hfirst
    have hid : c.id = census := by simpa using List.find?_some hc
    have hexec : exec (.censusStart census core) s = .next ((censusStarts c core s1).getD s) := by
      show execCensusStart census core s = _
      simp only [execCensusStart, hc]
      rfl
    obtain ⟨t, ht, hmem, hseen, hcens⟩ := censusStarts_facts htodo hp hb ha hfirst
    refine ⟨t, by rw [hexec, ht, Option.getD_some], fun hno => (hmem hno).trans ?_, hseen, fun d hd he => hcens d hd (he.trans hid.symm)⟩
    exact (((checkoutCore_refocused ..).trans (checkoutDev_refocused ..)).trans (checkoutPart_refocused ..)).mem
  case complete =>
    intro s1 hlost htodo hfin hrep hg hapart
    obtain ⟨t, ht, hfacts⟩ := censusEnds_facts hlost htodo hfin hrep hg hapart
    refine ⟨t, ?_, hfacts⟩
    show execCensusComplete census s = _
    simp only [execCensusComplete, hc, State.onDev]
    rw [ht, Option.getD_some]
  case reply =>
    show execReplyArrival serial s = _
    simp only [execReplyArrival, replyTaken, hr, Option.getD_some]
    rfl

end Sys2Proof.Claims
end

section
/-!
PROOFS. Remote regions: prepare, perform, fail (O38).
-/
namespace Sys2Proof.Claims
open Machine Bits Encoding

/-- An event of a thread completes as its own function says. -/
theorem happens_onThread {i : Instr} {k : ThreadKey} {f : State → Option State} {s : State} {due : State → Prop} {P : State → State → Prop} (hi : exec i s = s.onThread k f)
    (h : ∀ s1, due s1 → ∃ t, f s1 = some t ∧ P s1 t) : Happens i s (s.focus k) due P := by
  intro s1 hs hd
  obtain ⟨t, ht, hp⟩ := h s1 hd
  refine ⟨t, ?_, hp⟩
  rw [hi, State.onThread, hs, Option.bind_some, ht, Option.getD_some]

/-! ## Prepare (R296) -/

/-- A destination is asked about the region's sectors it holds. -/
def PrepareAsked (r : Region) (dst : Nat) (s : State) : Prop :=
  (s.thr.status = .waiting .fcommit ∧ s.thr.region = some r) ∧ r.failed = 0 ∧ r.sent = false ∧ s.regionOf dst ≠ [] ∧ dst ∉ r.acks ∧ (s.dev? dst).answers = true ∧ s.dev.answers = true
    ∧ (dst = s.grp.dev ∨ (s.dev.forward dst 0).isSome = true)

/-- The status with which a destination refuses a region, or 0. -/
def prepareStatus (dst : Nat) (s : State) : Nat :=
  if (s.dev? dst).ckState = 2 then 3
  else if (s.regionOf dst).any (s.regionDenied dst) then 4
  else if (s.regionOf dst).any (fun b => b.plain && s.regionRace b) then 6
  else if (s.regionOf dst).any (fun b => s.locks.any (fun l => l.1 = b.sector && l.2 ≠ s.thr.key)) then 1 else 0

section
variable {r : Region} {dst : Nat} {s : State} (h : PrepareAsked r dst s)
include h

theorem commitPrepares_eq : commitPrepares dst s = if prepareStatus dst s ≠ 0 then some { s with thr := { s.thr with region := some { r with failed := prepareStatus dst s } } }
    else if (s.regionOf dst).any s.regionPoison then consumeRemote 0x13 s
    else some { s with locks := s.locks ++ (s.regionOf dst).map (fun b => (b.sector, s.thr.key)), thr := { s.thr with region := some { r with acks := r.acks ++ [dst] } } } := by
  obtain ⟨⟨hst, hr⟩, hf, hsent, hne, hack, ha, hd, hroute⟩ := h
  have hemp : (s.regionOf dst).isEmpty = false := by simpa using hne
  have hdue : (s.thr.status = .waiting .fcommit && r.failed = 0 && !r.sent && !(s.regionOf dst).isEmpty && !(r.acks.contains dst) && (s.dev? dst).answers
      && s.dev.answers && (dst = s.grp.dev || (s.dev.forward dst 0).isSome)) = true := by
    simp only [hst, hf, hsent, hemp, ha, hd, decide_true, Bool.not_false, Bool.and_self, Bool.true_and, Bool.and_true, Bool.and_eq_true, Bool.or_eq_true, Bool.not_eq_true', List.contains_eq_mem, decide_eq_false_iff_not, decide_eq_true_eq]
    exact ⟨hack, hroute⟩
  unfold commitPrepares
  simp only [hr, hdue, Bool.not_true, Bool.false_eq_true, if_false, State.setRegion, hr, Option.map_some]
  rfl

theorem commitPrepares_fails {status : Nat} (hs : prepareStatus dst s = status) (h0 : status ≠ 0) :
    commitPrepares dst s = some { s with thr := { s.thr with region := some { r with failed := status } } } := by
  subst hs
  rw [commitPrepares_eq h, if_pos h0]
end

section
variable {dst : Nat} {s : State}

theorem denied_any : (s.regionOf dst).any (s.regionDenied dst) = true ↔ ∃ b ∈ s.regionOf dst, s.regionDenied dst b = true := List.any_eq_true

theorem race_any : (s.regionOf dst).any (fun b => b.plain && s.regionRace b) = true ↔ ∃ b ∈ s.regionOf dst, b.plain = true ∧ s.regionRace b = true := by
  simp only [List.any_eq_true, Bool.and_eq_true]

theorem lock_any : (s.regionOf dst).any (fun b => s.locks.any (fun l => l.1 = b.sector && l.2 ≠ s.thr.key)) = true
    ↔ ∃ b ∈ s.regionOf dst, ∃ l ∈ s.locks, l.1 = b.sector ∧ l.2 ≠ s.thr.key := by
  simp only [List.any_eq_true, Bool.and_eq_true, decide_eq_true_eq]
end

/-! ## Perform, abort (R296) -/

theorem stampRegion_only (k : ThreadKey) (dst : Nat) (s : State) : s.stampRegion k dst = { s with stamps := (s.stampRegion k dst).stamps, stampOwner := (s.stampRegion k dst).stampOwner } := by
  have hfold (l : List CombEntry) (s : State) : ∃ x y, l.foldl (fun (s : State) b =>
      match stampStep (s.stamp b.sector) s.grp.idx (s.lau.tag s.grp.dev) (s.lau.gen s.grp.dev) true with
      | .ok st => { s with stamps := Bits.insert b.sector st s.stamps, stampOwner := Bits.insert b.sector (s.grp.dev, s.lau.pid) s.stampOwner }
      | .error _ => s) s = { s with stamps := x, stampOwner := y } := by
    induction l generalizing s with
    | nil => exact ⟨_, _, rfl⟩
    | cons b l ih =>
      rw [List.foldl_cons]
      split
      · exact ih _
      · exact ih _
  have h : ∃ x y, s.stampRegion k dst = { s with stamps := x, stampOwner := y } := by
    unfold State.stampRegion
    split
    · exact ⟨_, _, rfl⟩
    · exact hfold _ _
  obtain ⟨x, y, h⟩ := h
  rw [h]

/-- The bytes that a region holds for a destination. -/
def regionCells (dst : Nat) (s : State) : List (Nat × Byte) := (s.regionOf dst).flatMap (fun b => b.bytes.map (fun p => (64 * b.sector + p.1, p.2)))

theorem commitDest_facts (dst : Nat) (s : State) : (s.commitDest s.thr.key dst).thr = s.thr ∧ (s.commitDest s.thr.key dst).grp = s.grp ∧ (s.commitDest s.thr.key dst).dev = s.dev
    ∧ (s.commitDest s.thr.key dst).mem = Mem.writeCells s.mem (regionCells dst s) := by
  have hstamp := stampRegion_only s.thr.key dst s
  have hh := performCells_homeOnly (regionCells dst s) (s.stampRegion s.thr.key dst)
  have hmem := State.performCells_mem (regionCells dst s) (s.stampRegion s.thr.key dst)
  have hthr : (s.commitDest s.thr.key dst).thr = ((s.stampRegion s.thr.key dst).performCells (regionCells dst s)).thr := rfl
  have hgrp : (s.commitDest s.thr.key dst).grp = ((s.stampRegion s.thr.key dst).performCells (regionCells dst s)).grp := rfl
  have hdev : (s.commitDest s.thr.key dst).dev = ((s.stampRegion s.thr.key dst).performCells (regionCells dst s)).dev := rfl
  have hm : (s.commitDest s.thr.key dst).mem = ((s.stampRegion s.thr.key dst).performCells (regionCells dst s)).mem := rfl
  rw [hthr, hgrp, hdev, hm, State.performCells_thr, State.performCells_grp, hh.dev, hmem, hstamp]
  exact ⟨rfl, rfl, rfl, rfl⟩

theorem retryAll_thr {s : State} (h : s.thr.status = .ready) : s.retryAll.thr = s.thr := if_neg (by rw [h]; exact ThreadStatus.noConfusion)

/-- No sector of the thread is held or locked any more, and the end of its region is in the log. -/
def RegionOver (status : Nat) (s t : State) : Prop :=
  t.mem = s.mem ∧ (∀ b ∈ t.core.comb, b.t ≠ s.thr.key) ∧ (∀ l ∈ t.locks, l.2 ≠ s.thr.key) ∧ t.grp.log = s.grp.log ++ [⟨s.thr.key.tid, fcommitOp, 0, [], [BitVec.ofNat 32 status], 0⟩]

section
variable {s : State} {r : Region} (hr : s.thr.region = some r) (hlog : s.grp.log.length < 256)
include hr hlog

theorem fcommitDone_over (status : Nat) : RegionOver status s (s.fcommitDone status) := by
  have hend : ∃ u, State.endRegion status { s with thr := s.thr.wake s.dev.clk } = u ∧ u.mem = s.mem ∧ u.grp = s.grp ∧ (∀ b ∈ u.core.comb, b.t ≠ s.thr.key) ∧ ∀ l ∈ u.locks, l.2 ≠ s.thr.key := by
    have hregion : (s.thr.wake s.dev.clk).region = some r := hr
    refine ⟨_, rfl, ?_⟩
    unfold State.endRegion
    simp only [hregion]
    split <;> exact ⟨rfl, rfl, fun b hb => of_decide_eq_true (List.mem_filter.mp hb).2, fun l hl => of_decide_eq_true (List.mem_filter.mp hl).2⟩
  obtain ⟨u, hu, hmem, hgrp, hcomb, hlocks⟩ := hend
  rw [← hgrp] at hlog
  have hdone : s.fcommitDone status = State.retryAll (u.logDone s.thr.key.tid fcommitOp 0 [] [BitVec.ofNat 32 status]) := by
    unfold State.fcommitDone
    dsimp only
    rw [hu]
  rw [hdone, logDone_room hlog]
  refine ⟨hmem, hcomb, hlocks, ?_⟩
  rw [← hgrp]
  rfl

theorem fcommitDone_thr (status : Nat) : (s.fcommitDone status).thr = if status = 0 then { s.thr.wake s.dev.clk with region := none }
    else { ((s.thr.wake s.dev.clk).restoreRegs r.saved).put1 4 (BitVec.ofNat 32 status) with region := none, pc := r.target } := by
  have hregion : (s.thr.wake s.dev.clk).region = some r := hr
  have hend : (State.endRegion status { s with thr := s.thr.wake s.dev.clk }).grp = s.grp ∧ (State.endRegion status { s with thr := s.thr.wake s.dev.clk }).thr = if status = 0 then { s.thr.wake s.dev.clk with region := none }
      else { ((s.thr.wake s.dev.clk).restoreRegs r.saved).put1 4 (BitVec.ofNat 32 status) with region := none, pc := r.target } := by
    unfold State.endRegion
    simp only [hregion]
    split <;> exact ⟨rfl, rfl⟩
  obtain ⟨hgrp, hthr⟩ := hend
  have hready : (State.endRegion status { s with thr := s.thr.wake s.dev.clk }).thr.status = .ready := by
    rw [hthr]
    split
    · rfl
    · rw [Thread.put1_eq, restoreRegs_eq]
      rfl
  unfold State.fcommitDone
  dsimp only
  generalize State.endRegion status { s with thr := s.thr.wake s.dev.clk } = u at *
  rw [← hgrp] at hlog
  rw [logDone_room hlog]
  exact (retryAll_thr hready).trans hthr
end

/-- The last destination performs its sectors, and the thread goes on. -/
theorem commitPerforms_last {s : State} {r : Region} {dst : Nat} (hst : s.thr.status = .waiting .fcommit) (hr : s.thr.region = some r) (hf : r.failed = 0) (hacks : r.acks = [dst])
    (hdests : ∀ d ∈ s.regionDests, d = dst) : commitPerforms s = some (State.fcommitDone 0 ((s.commitDest s.thr.key dst).setRegion (fun x => { x with sent := true, acks := x.acks.filter (fun d => d ≠ dst) }))) := by
  have hall : s.regionDests.all (fun d => r.acks.contains d) = true := by
    rw [List.all_eq_true]
    intro d hd
    rw [hdests d hd, hacks]
    simp
  have hleft : (r.acks.filter (fun d => d ≠ dst)).isEmpty = true := by rw [hacks]; simp
  have hchoose : s.choose r.acks.length = (0, s) := by rw [hacks]; rfl
  have hget : r.acks.getD 0 0 = dst := by rw [hacks]; rfl
  have hemp : r.acks.isEmpty = false := by rw [hacks]; rfl
  simp only [commitPerforms, hr, hchoose, hget, whenDue, hst, hf, hemp, hall, hleft, decide_true, Bool.not_false, Bool.and_self, if_true]

theorem setRegion_facts (f : Region → Region) {s : State} {r : Region} (hr : s.thr.region = some r) : (s.setRegion f).thr = { s.thr with region := some (f r) } ∧ (s.setRegion f).grp = s.grp
    ∧ (s.setRegion f).mem = s.mem ∧ (s.setRegion f).dev = s.dev := by
  refine ⟨?_, rfl, rfl, rfl⟩
  unfold State.setRegion
  rw [hr]
  rfl

/-- Settles O38: a region is prepared, performed, failed and timed out. -/
theorem regionEvents : Obligations.RegionEvents := by
  unfold Obligations.RegionEvents
  intro k dst s r
  have fails (due : State → Prop) (status : Nat) (h0 : status ≠ 0) (hs : ∀ s, PrepareAsked r dst s → due s → prepareStatus dst s = status) :
      Happens (.fcommitPrepare k dst) s (s.focus k) (fun s => PrepareAsked r dst s ∧ due s) (fun s t => t = { s with thr := { s.thr with region := some { r with failed := status } } }) :=
    happens_onThread (f := commitPrepares dst) rfl fun s1 ⟨hasked, hdue⟩ => ⟨_, commitPrepares_fails hasked (hs s1 hasked hdue) h0, rfl⟩
  refine ⟨⟨?lost, ?cls, ?race, ?lock, ?acks⟩, ?commit, ?abort, ?timeout⟩
  case lost => exact fails (fun s => (s.dev? dst).ckState = 2) 3 (by decide) fun s1 _ h => if_pos h
  case cls => exact fails (fun s => ¬(s.dev? dst).ckState = 2 ∧ ∃ b ∈ s.regionOf dst, s.regionDenied dst b = true) 4 (by decide) fun s1 _ ⟨h1, h2⟩ => by rw [prepareStatus, if_neg h1, if_pos (denied_any.mpr h2)]
  case race =>
    refine fails (fun s => ¬(s.dev? dst).ckState = 2 ∧ ¬(∃ b ∈ s.regionOf dst, s.regionDenied dst b = true) ∧ ∃ b ∈ s.regionOf dst, b.plain = true ∧ s.regionRace b = true) 6 (by decide) fun s1 _ ⟨h1, h2, h3⟩ => ?_
    rw [prepareStatus, if_neg h1, if_neg (denied_any.not.mpr h2), if_pos (race_any.mpr h3)]
  case lock =>
    refine fails (fun s => ¬(s.dev? dst).ckState = 2 ∧ ¬(∃ b ∈ s.regionOf dst, s.regionDenied dst b = true) ∧ ¬(∃ b ∈ s.regionOf dst, b.plain = true ∧ s.regionRace b = true)
      ∧ ∃ b ∈ s.regionOf dst, ∃ l ∈ s.locks, l.1 = b.sector ∧ l.2 ≠ s.thr.key) 1 (by decide) fun s1 _ ⟨h1, h2, h3, h4⟩ => ?_
    rw [prepareStatus, if_neg h1, if_neg (denied_any.not.mpr h2), if_neg (race_any.not.mpr h3), if_pos (lock_any.mpr h4)]
  case acks =>
    refine happens_onThread (f := commitPrepares dst) rfl fun s1 ⟨hasked, h1, h2, h3, h4, hpoison⟩ => ⟨_, ?_, rfl⟩
    have h0 : prepareStatus dst s1 = 0 := by rw [prepareStatus, if_neg h1, if_neg (denied_any.not.mpr h2), if_neg (race_any.not.mpr h3), if_neg (lock_any.not.mpr h4)]
    have hno : ¬(s1.regionOf dst).any s1.regionPoison = true := by
      rw [List.any_eq_true]
      rintro ⟨b, hb, hp⟩
      rw [hpoison b hb] at hp
      cases hp
    rw [commitPrepares_eq hasked, if_neg (not_not.mpr h0), if_neg hno]
  case commit =>
    refine happens_onThread (f := commitPerforms) rfl fun s1 ⟨⟨hst, hr⟩, hf, hacks, hdests, hlog, hd⟩ => ⟨_, commitPerforms_last hst hr hf hacks hdests, ?_⟩
    obtain ⟨hthr, hgrp, hdev, hmem⟩ := commitDest_facts dst s1
    have hcells : regionCells dst s1 = (s1.regionOf dst).flatMap (fun b => b.bytes.map (fun p => (64 * b.sector + p.1, p.2))) := rfl
    rw [← hcells] at hd ⊢
    rw [← hthr] at hr
    rw [← hgrp] at hlog
    generalize s1.commitDest s1.thr.key dst = u at *
    obtain ⟨hthr2, hgrp2, hmem2, hdev2⟩ := setRegion_facts (fun x => { x with sent := true, acks := x.acks.filter (fun d => d ≠ dst) }) hr
    generalize u.setRegion (fun x => { x with sent := true, acks := x.acks.filter (fun d => d ≠ dst) }) = v at *
    have hr2 : v.thr.region = some { r with sent := true, acks := r.acks.filter (fun d => d ≠ dst) } := by rw [hthr2]
    rw [← hgrp2] at hlog
    obtain ⟨hdmem, hcomb, hlocks, hdlog⟩ := fcommitDone_over hr2 hlog 0
    have hdthr := fcommitDone_thr hr2 hlog 0
    rw [if_pos rfl, hthr2, hthr] at hdthr
    have hkey : v.thr.key = s1.thr.key := by rw [hthr2, hthr]
    rw [hkey] at hcomb hlocks hdlog
    rw [hgrp2, hgrp] at hdlog
    rw [hmem2, hmem] at hdmem
    refine ⟨by rw [hdthr]; rfl, by rw [hdthr]; rfl, by rw [hdthr], ⟨by rw [hdthr]; rfl, by rw [hdthr]; rfl, by rw [hdthr]; rfl⟩, ⟨by rw [hdthr]; rfl, by rw [hdthr]; rfl, by rw [hdthr]; rfl, by rw [hdthr]; rfl⟩, hcomb, hlocks, hdlog, fun c hc => ?_, fun a ha => ?_⟩
    · rw [hdmem]
      exact Mem.get_writeCells_mem _ _ hd c hc
    · rw [hdmem]
      exact Mem.get_writeCells_other _ _ _ ha
  case abort =>
    refine happens_onThread (f := commitAborts) rfl fun s1 ⟨⟨hst, hr⟩, hf, hsent, hlog, hsaved, hp⟩ => ⟨s1.fcommitDone r.failed, ?_, ?_⟩
    · simp only [commitAborts, hr, whenDue, hst, hf, hsent, decide_true, Bool.not_false, Bool.and_self, ne_eq, not_false_eq_true, if_true]
    · obtain ⟨hdmem, hcomb, hlocks, -⟩ := fcommitDone_over hr hlog r.failed
      have hdthr : (s1.fcommitDone r.failed).thr = failedThread r (s1.thr.wake s1.dev.clk) := (fcommitDone_thr hr hlog r.failed).trans (if_neg hf)
      have hregs := failedThread_regs (s1.thr.wake s1.dev.clk) hp
      have heq := failedThread_eq r (s1.thr.wake s1.dev.clk)
      generalize s1.fcommitDone r.failed = t at *
      refine ⟨hdmem, ?_, ?_, ?_, ⟨?_, ?_, ?_, ?_⟩, hcomb, hlocks, fun n hn => ?_⟩
      case refine_8 =>
        have hn2 := hregs n hn
        simp only [hdthr]
        exact hn2
      all_goals rw [hdthr, heq]
      all_goals rfl
  case timeout =>
    refine happens_onThread (f := commitTimesOut) rfl fun s1 ⟨⟨hst, hr⟩, hf, hsent, hsince, hmiss⟩ => ⟨_, ?_, rfl⟩
    have hany : s1.regionDests.any (fun d => !(r.acks.contains d)) = true := by
      obtain ⟨d, hd, hn⟩ := hmiss
      exact List.any_eq_true.mpr ⟨d, hd, by simpa using hn⟩
    have hdue : (s1.thr.status = .waiting .fcommit && r.failed = 0 && !r.sent && decide (r.since + 50000 ≤ s1.now) && s1.regionDests.any (fun d => !(r.acks.contains d))) = true := by
      rw [hany, hsent, hst, hf, decide_eq_true hsince]
      rfl
    unfold commitTimesOut
    simp only [hr, whenDue, hdue, if_true, State.setRegion]
    rfl

end Sys2Proof.Claims
end

section
/-!
PROOFS. Sequencers, grants of pairs and sequencers, transfer packets (O36).
-/
namespace Sys2Proof.Claims
open Machine Bits Encoding

/-- An event of a core completes as its own function says. -/
theorem happens_onCore {i : Instr} {dev core : Nat} {f : State → Option State} {s : State} {due : State → Prop} {P : State → State → Prop} (hi : exec i s = s.onCore dev core f)
    (h : ∀ s1, due s1 → ∃ t, f s1 = some t ∧ P s1 t) : Happens i s (some ((s.checkoutCore dev core).checkoutDev dev)) due P := by
  rintro s1 hs hd
  cases hs
  obtain ⟨t, ht, hp⟩ := h _ hd
  refine ⟨t, ?_, hp⟩
  rw [hi, State.onCore, ht, Option.getD_some]

/-! ## Descriptors (Table 13.7) -/

/-- Bytes of a range that all read zero. -/
theorem read_zeros {m : List Host.Cell} {k n a b : Nat} (hb : b ≤ n) (h : ∀ i, a ≤ i → i < b → Mem.get m (k + i) = 0) :
    (((Mem.read m k n).drop a).take (b - a)).all (fun x => x = 0) = true := by
  rw [List.all_eq_true]
  intro x hx
  obtain ⟨i, hi, rfl⟩ := List.mem_iff_getElem.1 hx
  simp only [List.length_take, List.length_drop, Mem.read_length] at hi
  have hg := Mem.read_getD m k n (a + i) 0 (by omega)
  rw [List.getD_eq_getElem _ _ (by rw [Mem.read_length]; omega), h (a + i) (by omega) (by omega)] at hg
  simpa using hg

/-- A sequencer that runs stands at a descriptor of a kind, in its group's scratchpad. -/
def Descriptor (sq : Nat) (s s1 : State) (kind : Nat) : Prop :=
  let q := s.core.seqrs.getD sq Sequencer.free
  q.gid ≠ 0 ∧ q.stopped = false ∧ s.focusGroup q.gid = some s1 ∧ s1.core = s.core ∧ s1.grp.gid = q.gid ∧ s1.running = true ∧ q.list + 128 * q.idx + 128 ≤ s1.grp.scratchSize
    ∧ Mem.nat s1.grp.scratch (q.list + 128 * q.idx) 1 = kind ∧ Mem.nat s1.grp.scratch (q.list + 128 * q.idx + 2) 2 = 0
    ∧ (∀ i, 72 ≤ i → i < 128 → Mem.get s1.grp.scratch (q.list + 128 * q.idx + i) = 0) ∧ sq < s.core.seqrs.length

/-- The model finds the descriptor in the group's scratchpad, with its reserved bytes zero. -/
theorem Descriptor.found {sq kind : Nat} {s s1 : State} (h : Descriptor sq s s1 kind) :
    let q := s.core.seqrs.getD sq Sequencer.free
    let d := Mem.read s1.grp.scratch (q.list + 128 * q.idx) 128
    ¬(q.gid = 0 ∨ q.stopped = true) ∧ s.focusGroup q.gid = some s1 ∧ s1.running = true ∧ s1.outside (q.list + 128 * q.idx) 128 = false ∧ natAt d 0 1 = kind ∧ natAt d 2 2 = 0
      ∧ ((d.drop 72).take (128 - 72)).all (fun x => x = 0) = true := by
  obtain ⟨hg, hstop, hfocus, -, -, hrun, hroom, hkind, hres, hzero, -⟩ := h
  refine ⟨not_or.2 ⟨hg, by rw [hstop]; exact Bool.false_ne_true⟩, hfocus, hrun, decide_eq_false (by omega), ?_, ?_, read_zeros (Nat.le_refl 128) hzero⟩
  · rw [natAt_read _ _ _ (by omega)]; exact hkind
  · rw [natAt_read _ _ _ (by omega)]; exact hres

section
variable {sq w : Nat} {q : Sequencer} {s s1 : State}

theorem issueDescriptor_end (h : Descriptor sq s s1 0)
    (hz : ∀ i, 24 ≤ i → i < 64 → Mem.get s1.grp.scratch ((s.core.seqrs.getD sq Sequencer.free).list + 128 * (s.core.seqrs.getD sq Sequencer.free).idx + i) = 0) :
    issueDescriptor sq s = some (s1.seqrStop sq 0) := by
  obtain ⟨hq, hfocus, hrun, hout, hkind, hres, hzero⟩ := h.found
  have hzero' := read_zeros (b := 64) (n := 128) (by omega) hz
  unfold issueDescriptor
  simp only [if_neg hq, hfocus, hrun, hout, hkind, hres, hzero, hzero', Bool.not_true, Bool.false_eq_true, if_false, Bool.and_false, decide_false, decide_true,
    ne_eq, not_true_eq_false, Nat.not_lt_zero, Nat.zero_ne_one, OfNat.zero_ne_ofNat, Bool.or_self, Bool.false_and]

theorem issueDescriptor_wait (h : Descriptor sq s s1 4) (hq0 : q = s.core.seqrs.getD sq Sequencer.free) (hw : w = Mem.nat s1.grp.scratch (q.list + 128 * q.idx + 24) 4)
    (hz : ∀ i, 32 ≤ i → i < 64 → Mem.get s1.grp.scratch (q.list + 128 * q.idx + i) = 0) (ha : w % 16 = 0) (hb : w + 16 ≤ s1.grp.scratchSize)
    (hp : passed (BitVec.ofNat 32 (s1.syncWord (.scratch q.gid w)).gen) (BitVec.ofNat 32 (Mem.nat s1.grp.scratch (q.list + 128 * q.idx + 28) 4)) = true) :
    issueDescriptor sq s = some (s1.seqrNext sq) := by
  obtain ⟨hq, hfocus, hrun, hout, hkind, hres, hzero⟩ := h.found
  have hzero' := read_zeros (b := 64) (n := 128) (by omega) hz
  subst hq0 hw
  have hbad : s1.badWord (Mem.nat s1.grp.scratch ((s.core.seqrs.getD sq Sequencer.free).list + 128 * (s.core.seqrs.getD sq Sequencer.free).idx + 24) 4) = false := by
    simp only [State.badWord, State.outside, ha, ne_eq, not_true_eq_false, decide_false, Bool.false_or, decide_eq_false_iff_not]
    omega
  rw [← natAt_read _ _ 128 (by omega)] at hbad hp
  rw [← natAt_read _ _ 128 (by omega)] at hp
  have hp' : passed _ (wordAt _ _) = true := hp
  unfold issueDescriptor
  simp only [if_neg hq, hfocus, hrun, hout, hkind, hres, hzero, hzero', hbad, Bool.not_true, Bool.false_eq_true, if_false, decide_false,
    ne_eq, not_true_eq_false, Nat.lt_irrefl, Bool.or_self, Bool.false_and, OfNat.ofNat_ne_zero, Nat.reduceEqDiff, whenDue_true, hp']

theorem issueDescriptor_copy {m dst0 src0 : Nat} {ws : List Word} (h : Descriptor sq s s1 1) (hq0 : q = s.core.seqrs.getD sq Sequencer.free) (hm : m = Mem.nat s1.grp.scratch (q.list + 128 * q.idx + 1) 1)
    (hsrc : src0 = Mem.nat s1.grp.scratch (q.list + 128 * q.idx + 8) 8) (hdst : dst0 = Mem.nat s1.grp.scratch (q.list + 128 * q.idx + 16) 8)
    (hws : ws = (List.range 10).map (fun i => BitVec.ofNat 32 (Mem.nat s1.grp.scratch (q.list + 128 * q.idx + 24 + 4 * i) 4)))
    (hfmt : field m 1 0 < 2 → field m 7 6 = 0) (hmac : field m 1 0 ≠ 2 → field m 5 3 = 0) :
    issueDescriptor sq s = s1.seqrIssue sq (s1.planCopy m src0 dst0 ws none).1 (s1.planCopy m src0 dst0 ws none).2 := by
  obtain ⟨hq, hfocus, hrun, hout, hkind, hres, hzero⟩ := h.found
  subst hq0
  have hm' := natAt_read s1.grp.scratch ((s.core.seqrs.getD sq Sequencer.free).list + 128 * (s.core.seqrs.getD sq Sequencer.free).idx) 128 (o := 1) (w := 1) (by omega)
  have hsrc' := natAt_read s1.grp.scratch ((s.core.seqrs.getD sq Sequencer.free).list + 128 * (s.core.seqrs.getD sq Sequencer.free).idx) 128 (o := 8) (w := 8) (by omega)
  have hdst' := natAt_read s1.grp.scratch ((s.core.seqrs.getD sq Sequencer.free).list + 128 * (s.core.seqrs.getD sq Sequencer.free).idx) 128 (o := 16) (w := 8) (by omega)
  rw [← hm] at hm'
  rw [← hsrc] at hsrc'
  rw [← hdst] at hdst'
  have hws' : (List.range 10).map (fun i => wordAt (Mem.read s1.grp.scratch ((s.core.seqrs.getD sq Sequencer.free).list + 128 * (s.core.seqrs.getD sq Sequencer.free).idx) 128) (24 + 4 * i)) = ws := by
    rw [hws]
    refine List.map_congr_left (fun i hi => congrArg (BitVec.ofNat 32) ?_)
    rw [List.mem_range] at hi
    exact (natAt_read _ _ 128 (by omega)).trans (congrArg (Mem.nat _ · 4) (Nat.add_assoc _ _ _).symm)
  have hbad : ((decide (field m 1 0 < 2) && decide (field m 7 6 ≠ 0)) || (decide (field m 1 0 ≠ 2) && decide (field m 5 3 ≠ 0))) = false := by
    rw [Bool.or_eq_false_iff, Bool.and_eq_false_iff, Bool.and_eq_false_iff]
    exact ⟨(Nat.lt_or_ge (field m 1 0) 2).elim (fun hl => .inr (by rw [hfmt hl]; rfl)) (fun hl => .inl (decide_eq_false (by omega))),
      (eq_or_ne (field m 1 0) 2).elim (fun hl => .inl (by rw [hl]; rfl)) (fun hl => .inr (by rw [hmac hl]; rfl))⟩
  unfold issueDescriptor
  simp only [if_neg hq, hfocus, hrun, hout, hkind, hres, hzero, hm', hsrc', hdst', hws', hbad, Bool.not_true, Bool.false_eq_true, if_false, Bool.and_false, Bool.or_false, decide_false,
    ne_eq, not_true_eq_false, Bool.false_and, Nat.one_ne_zero, Nat.reduceLT]

/-! ## What a sequencer's step leaves -/

theorem seqrs_modify {l : List Sequencer} (f : Sequencer → Sequencer) (hsq : sq < l.length) : (l.modify sq f).getD sq Sequencer.free = f (l.getD sq Sequencer.free) := by
  rw [List.getD_eq_getElem _ _ (by simpa using hsq), List.getD_eq_getElem _ _ hsq, List.getElem_modify_eq]

theorem seqrStop_core (code : Nat) (s : State) :
    (s.seqrStop sq code).core = { s.core with seqrs := s.core.seqrs.modify sq (fun q => { q with stopped := true, status := BitVec.ofNat 32 (q.idx * 2 ^ 16 + code) }) } := rfl

theorem seqrIssue_next {codes : List Nat} {j : Job} (hc : codes = []) (hg : j.guard = none) (hf : s.core.full = false)
    (hst : s.stored ⟨(s.core.seqrs.getD sq Sequencer.free).gid, (s.core.seqrs.getD sq Sequencer.free).tid⟩ = true) :
    s.seqrIssue sq codes j = some (({ s with nextId := s.nextId + 2, core := { s.core with jobs := s.core.jobs ++ [{ j with tid := (s.core.seqrs.getD sq Sequencer.free).tid, seqr := some (sq, (s.core.seqrs.getD sq Sequencer.free).idx) }] } } : State).seqrNext sq) := by
  subst hc
  unfold State.seqrIssue State.enqueue
  simp only [lowest, hf, hst, hg, Option.map_none, Bool.not_false, Bool.and_self, whenDue_true]

end

/-! ## Grants of pairs and sequencers (R194, R205) -/

/-- The result of a granted wait: the thread is Ready past its instruction with the number in its register. -/
def Granted (dst : BitVec 8) (v : Nat) (s t : State) : Prop :=
  t.thr.status = .ready ∧ t.thr.pc = s.thr.npc ∧ Wrote dst [BitVec.ofNat 32 v] s t ∧ SameFlags s t

theorem granted_of_stall {dst : BitVec 8} {v : Nat} {clk : Nat} {s t : State} (h : t.thr = (({ s.thr with waitSince := a, waited := b } : Thread).putDst dst [BitVec.ofNat 32 v]).wake clk) :
    Granted dst v s t := by
  have hregs := Thread.putDst_regs { s.thr with waitSince := a, waited := b } dst [BitVec.ofNat 32 v]
  rw [Thread.putDst_eq] at h
  unfold Granted Wrote SameFlags FlagsAre
  rw [h]
  exact ⟨rfl, rfl, hregs, rfl, rfl, rfl, rfl⟩

/-- A change of owners restarts waits; it changes nothing else of a thread, and no core. -/
theorem changedSince_thr (old : Core) (s : State) : (∃ a b, (s.changedSince old).thr = { s.thr with waitSince := a, waited := b }) ∧ (s.changedSince old).core = s.core
    ∧ (s.changedSince old).dev = s.dev := by
  obtain ⟨f, hf, ht⟩ := changedSince_stall old s
  rw [ht]
  exact ⟨⟨_, _, hf s.thr⟩, rfl, rfl⟩

/-- Nothing but the bank copies of the group and the pairs of the core differs. -/
def PairsOnly (s t : State) : Prop := t.thr = s.thr ∧ t.dev = s.dev ∧ t.grp.gid = s.grp.gid ∧ t.core = { s.core with pairs := t.core.pairs } ∧ t.core.pairs.length = s.core.pairs.length

theorem PairsOnly.trans {s t u : State} (h1 : PairsOnly s t) (h2 : PairsOnly t u) : PairsOnly s u := by
  obtain ⟨ht, hd, hg, hc, hl⟩ := h1
  obtain ⟨ht', hd', hg', hc', hl'⟩ := h2
  refine ⟨ht'.trans ht, hd'.trans hd, hg'.trans hg, ?_, hl'.trans hl⟩
  rw [hc', hc]

theorem writePair_only (p : Nat) (w v : Bool) (f : AccPair → AccPair) (s : State) : PairsOnly s (s.writePair s.grp.gid p w v f) := by
  refine ⟨rfl, rfl, ?_, rfl, List.length_modify ..⟩
  show (if s.grp.gid = s.grp.gid then s.grp.saveBank p (s.core.pair p) w v else s.grp).gid = s.grp.gid
  rw [if_pos rfl, saveBank_eq]

theorem writePair_pair (p i : Nat) (w v : Bool) (f : AccPair → AccPair) (s : State) (hp : p < s.core.pairs.length) :
    (s.writePair s.grp.gid p w v f).core.pair i = if i = p then f (s.core.pair p) else s.core.pair i := by
  show (s.core.pairs.modify p f).getD i AccPair.free = if i = p then f (s.core.pairs.getD p AccPair.free) else s.core.pairs.getD i AccPair.free
  by_cases hip : i = p
  · subst hip
    rw [if_pos rfl, List.getD_eq_getElem _ _ (by simpa using hp), List.getD_eq_getElem _ _ hp, List.getElem_modify_eq]
  · rw [if_neg hip]
    simp only [List.getD_eq_getElem?_getD, List.getElem?_modify, Ne.symm hip, if_false, Option.map_eq_map, Option.map_id']

theorem grantFold_facts (p n : Nat) (s : State) (hp : p + n ≤ s.core.pairs.length) :
    let t := (List.range n).foldl (fun s i => s.writePair s.grp.gid (p + i) true true (fun _ => { AccPair.free with owner := s.grp.gid })) s
    PairsOnly s t ∧ ∀ i < n, t.core.pair (p + i) = { AccPair.free with owner := s.grp.gid } := by
  induction n with
  | zero => exact ⟨⟨rfl, rfl, rfl, rfl, rfl⟩, fun i hi => absurd hi (Nat.not_lt_zero i)⟩
  | succ n ih =>
    obtain ⟨honly, hpairs⟩ := ih (by omega)
    rw [List.range_succ, List.foldl_append, List.foldl_cons, List.foldl_nil]
    generalize (List.range n).foldl (fun s i => s.writePair s.grp.gid (p + i) true true (fun _ => { AccPair.free with owner := s.grp.gid })) s = u at honly hpairs ⊢
    have hkept := honly
    obtain ⟨-, -, hg, -, hl⟩ := honly
    refine ⟨hkept.trans (writePair_only ..), fun i hi => ?_⟩
    rw [writePair_pair _ _ _ _ _ _ (by omega), hg]
    split
    · rfl
    · exact hpairs i (by omega)

theorem grantPairs_facts (v p n : Nat) (s : State) (hp : p + n ≤ s.core.pairs.length) :
    (∃ a b, (s.grantPairs v p n).thr = { s.thr with waitSince := a, waited := b }) ∧ (s.grantPairs v p n).dev = s.dev ∧ (s.grantPairs v p n).core.accaQ = s.core.accaQ
      ∧ ∀ i < n, (s.grantPairs v p n).core.pair (p + i) = { AccPair.free with owner := s.grp.gid } := by
  obtain ⟨⟨hthr, hdev, -, hcore, -⟩, hpairs⟩ := grantFold_facts p n s hp
  unfold State.grantPairs State.logTicket
  simp only []
  generalize (List.range n).foldl (fun s i => s.writePair s.grp.gid (p + i) true true (fun _ => { AccPair.free with owner := s.grp.gid })) s = u at hthr hdev hcore hpairs ⊢
  obtain ⟨⟨a, b, ht⟩, hc, hd⟩ := changedSince_thr s.core { u with grp := { u.grp with pairMap := (if s.grp.shadow = 0 then s.grp.pairMap else (List.range n).foldl (fun m i => Bits.insert (v + i) (p + i) m) s.grp.pairMap), tickets := u.grp.tickets ++ [BitVec.ofNat 32 v], ticketReplay := u.grp.ticketReplay.drop 1 } }
  refine ⟨⟨a, b, ht.trans ?_⟩, hd.trans hdev, (congrArg Core.accaQ hc).trans ?_, fun i hi => ?_⟩
  · show ({ u.thr with waitSince := a, waited := b } : Thread) = _
    rw [hthr]
  · show u.core.accaQ = _
    rw [hcore]
  · rw [hc]; exact hpairs i hi

theorem accaRun_lowest {n p : Nat} {s : State} (hl : s.loggedTicket = none) (hp : p < 8) (hf : s.core.runFree p n = true) (hlow : ∀ r < p, s.core.runFree r n = false) :
    s.accaRun n = some (p, p) := by
  have hfind : (List.range 8).find? (fun p => s.core.runFree p n) = some p :=
    List.find?_range_eq_some.2 ⟨hf, List.mem_range.2 hp, fun r hr => by rw [hlow r hr]; rfl⟩
  unfold State.accaRun
  simp only [hl, hfind, Option.map_some]

section
variable {key : ThreadKey} {rest : List ThreadKey} {dst : BitVec 8} {s s2 : State}

theorem grantAcca_grants {n p : Nat} (hq : s.core.accaQ = key :: rest) (hs : s.focus key = some s2) (hst : s2.thr.status = .waiting (.acca n dst)) (hrun : s2.running = true)
    (hl : s2.loggedTicket = none) (hroom : s2.grp.tickets.length + (s2.tickets.filter (fun t => t.t.gid = s2.grp.gid)).length < 16) (h8 : s2.core.pairs.length = 8) (hn : p + n ≤ 8)
    (hf : s2.core.runFree p n = true) (hlow : ∀ r < p, s2.core.runFree r n = false) (hp : p < 8) :
    ∃ t, grantAcca s = some t ∧ t.mem = s2.mem ∧ Granted dst p s2 t ∧ t.core.accaQ = rest ∧ ∀ i < n, t.core.pair (p + i) = { AccPair.free with owner := s2.grp.gid } := by
  obtain ⟨⟨a, b, hthr⟩, -, hacc, hpairs⟩ := grantPairs_facts p p n { s2 with core := { s2.core with accaQ := rest } } (by rw [h8]; exact hn)
  refine ⟨{ State.grantPairs p p n { s2 with core := { s2.core with accaQ := rest } } with thr := ((State.grantPairs p p n { s2 with core := { s2.core with accaQ := rest } }).thr.putDst dst [BitVec.ofNat 32 p]).wake (State.grantPairs p p n { s2 with core := { s2.core with accaQ := rest } }).dev.clk },
    ?_, grantPairs_mem .., granted_of_stall (by rw [hthr]), hacc, hpairs⟩
  have hr : State.ticketRoom { s2 with core := { s2.core with accaQ := rest } } = .ok { s2 with core := { s2.core with accaQ := rest } } := if_neg (Nat.not_le.2 hroom)
  unfold grantAcca
  simp only [hq, hs, hst, accaRun_lowest hl hp hf hlow, hr, hrun, whenDue_true]

theorem grantSeqr_grants {list q : Nat} (hq : s.core.forkQ = key :: rest) (hs : s.focus key = some s2) (hst : s2.thr.status = .waiting (.fork list dst)) (hrun : s2.running = true)
    (hf : s2.core.freeSeqr = some q) (hl : q < s2.core.seqrs.length) :
    ∃ t, grantSeqr s = some t ∧ t.mem = s2.mem ∧ Granted dst q s2 t ∧ t.core.forkQ = rest
      ∧ t.core.seqrs.getD q Sequencer.free = { gid := s2.grp.gid, tid := s2.thr.key.tid, list := list, idx := 0, stopped := false, status := 0 } := by
  have hmem := startSeqr_mem q list { s2 with core := { s2.core with forkQ := rest } }
  have hfacts := changedSince_thr { s2.core with forkQ := rest } { s2 with core := { s2.core with forkQ := rest, seqrs := s2.core.seqrs.set q { gid := s2.grp.gid, tid := s2.thr.key.tid, list := list, idx := 0, stopped := false, status := 0 } } }
  obtain ⟨⟨a, b, hthr⟩, hcore, -⟩ := hfacts
  have hgrant : grantSeqr s = some { State.startSeqr q list { s2 with core := { s2.core with forkQ := rest } } with thr := ((State.startSeqr q list { s2 with core := { s2.core with forkQ := rest } }).thr.putDst dst [BitVec.ofNat 32 q]).wake (State.startSeqr q list { s2 with core := { s2.core with forkQ := rest } }).dev.clk } := by
    unfold grantSeqr
    simp only [hq, hs, hst, hf, hrun, whenDue_true]
  refine ⟨_, hgrant, hmem, granted_of_stall (a := a) (b := b) (congrArg (fun t : Thread => (t.putDst dst [BitVec.ofNat 32 q]).wake _) hthr), (congrArg Core.forkQ hcore :),
    (congrArg (fun c : Core => c.seqrs.getD q Sequencer.free) hcore).trans ?_⟩
  show (s2.core.seqrs.set q _).getD q Sequencer.free = _
  rw [List.getD_eq_getElem _ _ (by simpa using hl), List.getElem_set_self]
end

/-! ## A packet of a transfer (R293) -/

/-- Where byte `i` of a packet at `va` goes: every byte on one device. -/
def packetPlace (s : State) (home va i : Nat) : Except JobStop Place :=
  match s.jobMap (va + i) true [2] with
  | .error st => .error st
  | .ok x => if devOf x.key = home then .ok (Place.mem x.key (va + i)) else .error (.fail causeRegion (addrDetail 2 (va + i)))

theorem touchPages_jobs (w : Bool) (vas : List Nat) (s : State) : (s.touchPages w vas).core.jobs = s.core.jobs := by
  refine foldl_proj (fun s => s.core.jobs) (fun s blk => ?_) _ s
  have htouch : ∀ (va : Nat) (x : Xlat), (s.touch va w x).core.jobs = s.core.jobs := fun va x => by unfold State.touch; rw [mark_eq]
  simp only []
  split
  · split
    · exact htouch ..
    · exact htouch ..
  · rfl

theorem jobWrite_jobs (j : Job) (l : List (Place × Byte)) (s : State) : (s.jobWrite j l).core.jobs = s.core.jobs := by
  have hwritten : ∀ vas, (if s.shadowJob j then s else ((s.touchPages true vas).performCells (memCells l)).clearPoison (memCells l)).core.jobs = s.core.jobs := by
    intro vas
    split
    · rfl
    · exact (foldl_proj (f := fun (s : State) (c : Nat × Byte) => s.perform c.1 [c.2]) (fun s => s.core.jobs) (fun _ _ => rfl) _ _).trans (touchPages_jobs ..)
  unfold State.jobWrite
  simp only []
  split <;> exact hwritten _

/-- The bytes of a packet of a transfer out of the scratchpad, and where they go. -/
def packetCells (s : State) (j : Job) (src dst home o size : Nat) : List (Place × Byte) × Option JobStop :=
  collect (fun i => Except.ok ((s.jobScratch j (src + o + i) 1).headD 0)) (packetPlace s home (dst + o)) size 0

section
variable {packet src dst length o size : Nat} {j : Job} {s : State} {x0 : Xlat} {l : List (Place × Byte)}

theorem packetArrives_eq (hk : j.kind = .xfer true src dst length 0) (hp : (packetsOf dst length 0 length)[packet]? = some (o, size)) (hrun : s.mayRun j = true)
    (hm : j.moved = false) (hnew : packet ∉ j.packets) (hx : s.jobMap dst true [2] = .ok x0) (ha : (s.dev? (devOf x0.key)).answers = true)
    (hroute : devOf x0.key = s.core.dev ∨ (s.dev.forward (devOf x0.key) 0).isSome = true) (hl : packetCells s j src dst (devOf x0.key) o size = (l, none))
    (hpoison : s.partialPoison (memCells l) = false) :
    packetArrives packet j s = some ((s.jobWrite j l).updJob j.id (fun j' => { j' with packets := packet :: j'.packets, moved := (List.range (packetsOf dst length 0 length).length).all (fun i => i = packet || j.packets.contains i) })) := by
  have hdue : (s.mayRun j && !j.moved && !(j.packets.contains packet) && ((s.dev? (devOf x0.key)).answers && (devOf x0.key = s.core.dev || (s.dev.forward (devOf x0.key) 0).isSome))) = true := by
    simp only [hrun, hm, ha, Bool.not_false, Bool.true_and, Bool.and_eq_true, Bool.or_eq_true, Bool.not_eq_true', List.contains_eq_mem, decide_eq_false_iff_not, decide_eq_true_eq]
    exact ⟨hnew, hroute⟩
  unfold packetArrives
  simp only [hk, hp, hx, if_true]
  split
  · next h => cases hl.symm.trans h
  · next hw => cases hw
  · next h hw =>
    cases hl.symm.trans h
    cases hw
    simp only [hpoison, Bool.false_and, Bool.false_eq_true, if_false]
    exact whenDue_true hdue _

theorem packetArrives_arrives (hj : j ∈ s.core.jobs) (hk : j.kind = .xfer true src dst length 0) (hp : (packetsOf dst length 0 length)[packet]? = some (o, size)) (hrun : s.mayRun j = true)
    (hm : j.moved = false) (hnew : packet ∉ j.packets) (hx : s.jobMap dst true [2] = .ok x0) (ha : (s.dev? (devOf x0.key)).answers = true)
    (hroute : devOf x0.key = s.core.dev ∨ (s.dev.forward (devOf x0.key) 0).isSome = true) (hl : packetCells s j src dst (devOf x0.key) o size = (l, none))
    (hpoison : s.partialPoison (memCells l) = false) :
    ∃ t, packetArrives packet j s = some t ∧ ∃ i ∈ t.core.jobs, i.id = j.id ∧ i.packets = packet :: j.packets
      ∧ (i.moved = true ↔ ∀ n < (packetsOf dst length 0 length).length, n = packet ∨ n ∈ j.packets) := by
  refine ⟨_, packetArrives_eq hk hp hrun hm hnew hx ha hroute hl hpoison, _, List.mem_map.2 ⟨j, by rw [jobWrite_jobs]; exact hj, if_pos rfl⟩, rfl, rfl, ?_⟩
  simp only [List.all_eq_true, List.mem_range, Bool.or_eq_true, decide_eq_true_eq, List.contains_eq_mem]
end

theorem focusJob_job {dev core id : Nat} {j : Job} {s s1 : State} (h : s.focusJob dev core id = some (j, s1)) : j ∈ s1.core.jobs ∧ j.id = id := by
  unfold State.focusJob at h
  simp only [] at h
  split at h
  · cases h
  · next i hi =>
    cases h
    have hcore : ∀ u : State, ((((u.checkoutPart dev j.pid).checkoutGroup j.gid).getD (u.checkoutPart dev j.pid)).checkoutLaunch j.lid |>.getD
        (((u.checkoutPart dev j.pid).checkoutGroup j.gid).getD (u.checkoutPart dev j.pid))).core = u.core := by
      intro u
      rw [show ∀ v : State, (v.checkoutLaunch j.lid |>.getD v).core = v.core from fun v => by
        unfold State.checkoutLaunch; split <;> [rfl; (split <;> rfl)]]
      rw [show ∀ v : State, (v.checkoutGroup j.gid |>.getD v).core = v.core from fun v => by
        unfold State.checkoutGroup; split <;> [rfl; (split <;> rfl)]]
      unfold State.checkoutPart
      split <;> rfl
    rw [hcore]
    exact ⟨List.mem_of_find?_eq_some hi, by simpa using List.find?_some hi⟩

/-- An event of a job completes as its own function says. -/
theorem exec_onJob {i : Instr} {dev core id : Nat} {f : Job → State → Option State} {j : Job} {s s1 t : State} (hi : exec i s = s.onJob dev core id f)
    (hj : s.focusJob dev core id = some (j, s1)) (hf : f j s1 = some t) : exec i s = .next t := by
  rw [hi, State.onJob, hj]
  simp only [hf, Option.getD_some]

/-! ## O36 -/

/-- Settles O36: a descriptor's fields are read from the group's scratchpad and each kind steps its sequencer; a grant writes the lowest free run or sequencer, which
the change of owners that follows keeps. -/
theorem sequencerAndGrantEvents : Obligations.SequencerAndGrantEvents := by
  unfold Obligations.SequencerAndGrantEvents
  intro dev core sq k s place
  refine ⟨?_, fun key rest n dst p s2 => ?_, fun key rest list dst q s2 => ?_, ?_, ?_⟩
  · intro descriptor s2
    refine ⟨?_, ?_, fun m dst0 src0 ws => ?_⟩
    · refine happens_onCore (f := issueDescriptor sq) rfl (fun s1 ⟨hd, hz⟩ => ⟨_, issueDescriptor_end (show Descriptor sq s1 s2 0 from hd) hz, by simp [State.seqrStop], ?_⟩)
      obtain ⟨-, -, -, hcore, -, -, -, -, -, -, hsq⟩ := hd
      rw [seqrStop_core, hcore]
      refine (seqrs_modify _ hsq).trans ?_
      simp only [Nat.add_zero]
    · refine happens_onCore (f := issueDescriptor sq) rfl (fun s1 ⟨hd, hz, ha, hb, hp⟩ => ⟨_, issueDescriptor_wait (show Descriptor sq s1 s2 4 from hd) rfl rfl hz ha hb hp, rfl, ?_⟩)
      obtain ⟨-, -, -, hcore, -, -, -, -, -, -, hsq⟩ := hd
      rw [State.seqrNext, hcore]
      exact ⟨seqrs_modify _ hsq, rfl⟩
    · refine happens_onCore (f := issueDescriptor sq) rfl (fun s1 ⟨hd, hm, hsrc, hdst, hws, hc, hg, hf, hfmt, hmac, hst⟩ => ?_)
      have hcopy := issueDescriptor_copy (show Descriptor sq s1 s2 1 from hd) rfl hm hsrc hdst hws hfmt hmac
      obtain ⟨-, -, -, hcore, -, -, -, -, -, -, hsq⟩ := hd
      have hnext := seqrIssue_next (sq := sq) (s := s2) hc hg (by rw [hcore]; exact hf) (by rw [hcore]; exact hst)
      refine ⟨_, hcopy.trans hnext, rfl, ?_⟩
      rw [State.seqrNext, hcore]
      exact ⟨seqrs_modify _ hsq, rfl⟩
  · refine happens_onCore (f := grantAcca) rfl (fun s1 ⟨hq, hs, hst, hrun, hl, hroom, h8, hn, hf, hlow, hp⟩ => ?_)
    obtain ⟨t, ht, hmem, ⟨h1, h2, h3, h4⟩, hacc, hpairs⟩ := grantAcca_grants hq hs hst hrun hl hroom h8 hn hf hlow hp
    exact ⟨t, ht, hmem, h1, h2, h3, h4, hacc, hpairs⟩
  · refine happens_onCore (f := grantSeqr) rfl (fun s1 ⟨hq, hs, hst, hrun, hf, hl⟩ => ?_)
    obtain ⟨t, ht, hmem, ⟨h1, h2, h3, h4⟩, hfork, hseq⟩ := grantSeqr_grants hq hs hst hrun hf hl
    exact ⟨t, ht, hmem, h1, h2, h3, h4, hfork, hseq⟩
  · refine happensWhen_due (fun s => s.thr.status = .waiting .engine && s.thr.due.isNone && !s.core.full) (fun s => { s with thr := s.thr.retry s.dev.clk }) rfl (fun s1 _ => ?_) (fun s1 _ _ => rfl)
    simp only [Bool.and_eq_true, decide_eq_true_eq, Option.isNone_iff_eq_none, Bool.not_eq_true', and_assoc]
  · intro job packet src dst length o size j s1 l hj hk hp hrun hm hnew x0 hx ha hroute hl hpoison
    obtain ⟨hmem, rfl⟩ := focusJob_job hj
    obtain ⟨t, ht, h⟩ := packetArrives_arrives hmem hk hp hrun hm hnew hx ha hroute (Eq.trans (by rfl) hl) hpoison
    exact ⟨t, exec_onJob rfl hj ht, h⟩

end Sys2Proof.Claims
end

section
/-!
PROOFS. Errors that a node consumes (O33): what dropping an auditor's runs, rolling back and ending a node leave (R120, R182, R331, R332).
-/
namespace Sys2Proof.Claims
open Machine Bits Encoding

/-! ## A group with nothing under way -/

/-- The group has no access under way, no region, and no bytes of other jobs added in this phase; it is no auditor's run. -/
def Still (gid : Nat) (s : State) : Prop := s.grp.gid = gid ∧ gid ≠ 0 ∧ s.grp.shadow = 0 ∧ (∀ a ∈ s.inflight, a.t.gid ≠ gid) ∧ (∀ t ∈ s.groupThreads gid, t.region = none) ∧ s.grp.foreignBytes = []
  ∧ ∀ g ∈ s.shadowsOf gid, g.gid ≠ gid

theorem performAll_none {mine : Access → Bool} {n : Nat} {s : State} (h : ∀ a ∈ s.inflight, mine a = false) : performAll mine n s = (s, false) := by
  have hnone : s.inflight.find? mine = none := List.find?_eq_none.2 (fun a ha => by simp [h a ha])
  cases n with
  | zero => rfl
  | succ n => simp only [performAll, hnone]

theorem settleRegions_none {s : State} (h : ∀ t ∈ s.groupThreads s.grp.gid, t.region = none) : s.settleRegions = s := by
  unfold State.settleRegions
  generalize s.groupThreads s.grp.gid = ts at h
  induction ts with
  | nil => rfl
  | cons t ts ih =>
    obtain ⟨ht, hts⟩ := List.forall_mem_cons.1 h
    rw [List.foldl_cons]
    simp only [ht]
    exact ih hts

theorem performGroup_still {gid : Nat} {s : State} (h : Still gid s) : s.performGroup = s := by
  obtain ⟨hg, -, -, hin, hreg, -, -⟩ := h
  unfold State.performGroup
  rw [performAll_none (fun a ha => decide_eq_false (by rw [hg]; exact hin a ha))]
  exact settleRegions_none (by rwa [hg])

/-! ## Stores that hold pairs (R182) -/

/-- The pairs are held as before, and no job has come. -/
def HeldAs (c c' : Core) : Prop := c'.pairs.map AccPair.holds = c.pairs.map AccPair.holds ∧ ∀ j ∈ c'.jobs, ∃ i ∈ c.jobs, i.id = j.id ∧ i.gid = j.gid

theorem heldAs_refl (c : Core) : HeldAs c c := ⟨rfl, fun j hj => ⟨j, hj, rfl, rfl⟩⟩

theorem HeldAs.trans {c d e : Core} (h1 : HeldAs c d) (h2 : HeldAs d e) : HeldAs c e := by
  refine ⟨h2.1.trans h1.1, fun j hj => ?_⟩
  obtain ⟨i, hi, hid, hgid⟩ := h2.2 j hj
  obtain ⟨k, hk, hkid, hkgid⟩ := h1.2 i hi
  exact ⟨k, hk, hkid.trans hid, hkgid.trans hgid⟩

theorem HeldAs.none_holds {c c' : Core} {gid : Nat} (h : HeldAs c c') (hc : c.storeHolds gid = false) : c'.storeHolds gid = false := by
  obtain ⟨hp, hj⟩ := h
  have hnone : ∀ l ∈ c.pairs.map AccPair.holds, ∀ n ∈ l, ∀ j ∈ c.jobs, j.id = n → j.gid ≠ gid := by
    simpa only [Core.storeHolds, List.any_eq_false, List.forall_mem_map, Bool.not_eq_true, Bool.and_eq_false_iff, decide_eq_false_iff_not, ← imp_iff_not_or] using hc
  rw [← hp] at hnone
  have hgone : ∀ l ∈ c'.pairs.map AccPair.holds, ∀ n ∈ l, ∀ j ∈ c'.jobs, j.id = n → j.gid ≠ gid := by
    intro l hl n hn j hjm hid hgid
    obtain ⟨i, hi, hiid, higid⟩ := hj j hjm
    exact hnone l hl n hn i hi (hiid.trans hid) (higid.trans hgid)
  simpa only [Core.storeHolds, List.any_eq_false, List.forall_mem_map, Bool.not_eq_true, Bool.and_eq_false_iff, decide_eq_false_iff_not, ← imp_iff_not_or] using hgone

theorem freeGroup_heldAs (c : Core) (gid : Nat) : HeldAs c (c.freeGroup gid) := by
  refine ⟨?_, fun j hj => ⟨j, hj, rfl, rfl⟩⟩
  show (c.pairs.map _).map AccPair.holds = _
  rw [List.map_map]
  refine List.map_congr_left (fun p _ => ?_)
  show AccPair.holds (if p.owner = gid then _ else p) = p.holds
  split <;> rfl

theorem restorePairs_heldAs (ps : List AccPair) (us : List UndoBank) : (restorePairs ps us).map AccPair.holds = ps.map AccPair.holds := by
  have hrestored : ∀ p ∈ ps.zipIdx, AccPair.holds (match us.find? (fun u => u.pair = p.2) with | none => p.1 | some u => u.restored p.1) = (AccPair.holds ∘ Prod.fst) p := by
    intro p _
    split <;> rfl
  unfold restorePairs
  rw [List.map_map]
  refine Eq.trans (List.map_congr_left hrestored) ?_
  rw [← List.map_map, List.zipIdx_map_fst]

theorem filter_heldAs (c : Core) (mine : Job → Bool) : HeldAs c { c with jobs := c.jobs.filter mine } :=
  ⟨rfl, fun j hj => ⟨j, List.mem_of_mem_filter hj, rfl, rfl⟩⟩

theorem mapJobs_heldAs (c : Core) {f : Job → Job} (hf : ∀ j, (f j).id = j.id ∧ (f j).gid = j.gid) : HeldAs c { c with jobs := c.jobs.map f } := by
  refine ⟨rfl, fun j hj => ?_⟩
  obtain ⟨i, hi, rfl⟩ := List.mem_map.1 hj
  exact ⟨i, hi, (hf i).1.symm, (hf i).2.symm⟩

/-! ## Dropping the auditor's runs (R336) -/

/-- What the checked-out group, its launch and its auditor's counts keep while other groups leave the machine. -/
structure Sidelined (s t : State) : Prop where
  mem : t.mem = s.mem
  grp : t.grp = s.grp
  lau : t.lau = s.lau
  dev : t.dev = s.dev
  now : t.now = s.now
  audMis : t.part.audMis = s.part.audMis
  audDrop : t.part.audDrop = s.part.audDrop
  held : HeldAs s.core t.core
  groups : ∀ g ∈ t.groups, g ∈ s.groups

theorem sidelined_refl (s : State) : Sidelined s s := ⟨rfl, rfl, rfl, rfl, rfl, rfl, rfl, heldAs_refl _, fun _ h => h⟩

theorem Sidelined.trans {s t u : State} (h1 : Sidelined s t) (h2 : Sidelined t u) : Sidelined s u :=
  ⟨h2.mem.trans h1.mem, h2.grp.trans h1.grp, h2.lau.trans h1.lau, h2.dev.trans h1.dev, h2.now.trans h1.now, h2.audMis.trans h1.audMis, h2.audDrop.trans h1.audDrop,
    h1.held.trans h2.held, fun g hg => h1.groups g (h2.groups g hg)⟩

theorem discardJobs_part (mine : Job → Bool) (s : State) : (s.discardJobs mine).part.audMis = s.part.audMis ∧ (s.discardJobs mine).part.audDrop = s.part.audDrop := by
  unfold State.discardJobs
  simp only []
  show (List.foldl _ s.part _).audMis = s.part.audMis ∧ (List.foldl _ s.part _).audDrop = s.part.audDrop
  generalize List.flatMap _ _ = l
  generalize s.part = p
  induction l generalizing p with
  | nil => exact ⟨rfl, rfl⟩
  | cons j l ih =>
    rw [List.foldl_cons]
    refine ⟨(ih _).1.trans ?_, (ih _).2.trans ?_⟩ <;> split <;> rfl

theorem discardJobs_sidelined (mine : Job → Bool) (s : State) : Sidelined s (s.discardJobs mine) := by
  obtain ⟨hm, hd⟩ := discardJobs_part mine s
  exact ⟨rfl, rfl, rfl, rfl, rfl, hm, hd, filter_heldAs _ _, fun _ h => h⟩

theorem updCore_sidelined (d n : Nat) {f : Core → Core} (hf : ∀ c, HeldAs c (f c)) (s : State) : Sidelined s (s.updCore d n f) := by
  refine ⟨State.updCore_mem .., State.updCore_grp .., State.updCore_lau .., State.updCore_dev .., State.updCore_now .., by rw [State.updCore_part], by rw [State.updCore_part], ?_,
    by rw [State.updCore_groups]; exact fun _ h => h⟩
  unfold State.updCore
  split
  · exact hf _
  · exact heldAs_refl _

theorem changedSince_sidelined (old : Core) (s : State) : Sidelined s (s.changedSince old) := by
  obtain ⟨f, -, hf⟩ := changedSince_stall old s
  rw [hf]
  exact ⟨rfl, rfl, rfl, rfl, rfl, rfl, rfl, heldAs_refl _, fun _ h => h⟩

theorem forget_sidelined {gid : Nat} {s : State} (h : s.grp.gid ≠ gid) : Sidelined s (s.forget gid) :=
  ⟨rfl, if_neg h, rfl, rfl, rfl, rfl, rfl, heldAs_refl _, fun _ hg => List.mem_of_mem_filter hg⟩

/-- One of them leaves with what it held. -/
def dropRun (s : State) (g : Group) : State :=
  let old := s.core? g.dev g.core
  let s1 := (s.discardJobs (fun j => j.gid = g.gid)).updCore g.dev g.core (fun c => (c.restoreTiles g.gid).freeGroup g.gid)
  (State.forget g.gid { s1 with inflight := s1.inflight.filter (fun a => a.t.gid ≠ g.gid) }).changedSince old

theorem dropShadow_eq (gid : Nat) (s : State) : s.dropShadow gid = (s.shadowsOf gid).foldl dropRun s := rfl

theorem dropRun_sidelined {s : State} {g : Group} (h : s.grp.gid ≠ g.gid) : Sidelined s (dropRun s g) ∧ ∀ x ∈ (dropRun s g).groups, x.gid ≠ g.gid := by
  have h1 := (discardJobs_sidelined (fun j => j.gid = g.gid) s).trans (updCore_sidelined g.dev g.core (f := fun c => (c.restoreTiles g.gid).freeGroup g.gid)
    (fun c => (show HeldAs c (c.restoreTiles g.gid) from ⟨rfl, fun j hj => ⟨j, hj, rfl, rfl⟩⟩).trans (freeGroup_heldAs _ _)) _)
  unfold dropRun
  simp only []
  generalize State.updCore _ _ _ _ = u at h1 ⊢
  have hin : Sidelined u { u with inflight := u.inflight.filter (fun a => a.t.gid ≠ g.gid) } := ⟨rfl, rfl, rfl, rfl, rfl, rfl, rfl, heldAs_refl _, fun _ hx => hx⟩
  have h2 := hin.trans (forget_sidelined (gid := g.gid) (by show u.grp.gid ≠ g.gid; rw [h1.grp]; exact h))
  have h3 := changedSince_sidelined (s.core? g.dev g.core) (State.forget g.gid { u with inflight := u.inflight.filter (fun a => a.t.gid ≠ g.gid) })
  refine ⟨(h1.trans h2).trans h3, fun x hx => ?_⟩
  have hx' := h3.groups x hx
  simpa using (List.mem_filter.1 hx').2

theorem dropRuns_sidelined {s : State} {gs : List Group} (h : ∀ g ∈ gs, s.grp.gid ≠ g.gid) : Sidelined s (gs.foldl dropRun s) ∧ ∀ x ∈ (gs.foldl dropRun s).groups, ∀ g ∈ gs, x.gid ≠ g.gid := by
  induction gs generalizing s with
  | nil => exact ⟨sidelined_refl s, fun _ _ g hg => absurd hg List.not_mem_nil⟩
  | cons g gs ih =>
    obtain ⟨hg, hgs⟩ := List.forall_mem_cons.1 h
    obtain ⟨h1, hgone⟩ := dropRun_sidelined hg
    obtain ⟨h2, hrest⟩ := ih (s := dropRun s g) (by rw [h1.grp]; exact hgs)
    refine ⟨h1.trans h2, fun x hx => List.forall_mem_cons.2 ⟨hgone x (h2.groups x hx), hrest x hx⟩⟩

/-- With its auditor's runs dropped, a group is as it was, and none of them is left. -/
theorem dropShadow_sidelined {gid : Nat} {s : State} (hg : s.grp.gid = gid) (h0 : s.grp.shadow = 0) (h : ∀ g ∈ s.shadowsOf gid, g.gid ≠ gid) :
    Sidelined s (s.dropShadow gid) ∧ (s.dropShadow gid).shadowsOf gid = [] := by
  obtain ⟨hside, hgone⟩ := dropRuns_sidelined (s := s) (fun g hm => by rw [hg]; exact (h g hm).symm)
  rw [dropShadow_eq]
  refine ⟨hside, List.filter_eq_nil_iff.2 (fun x hx => ?_)⟩
  rw [State.allGroups, hside.grp, List.mem_cons] at hx
  simp only [Bool.and_eq_true, decide_eq_true_eq, not_and]
  rintro ⟨hx0, hgid0⟩ hsh
  rcases hx with rfl | hx
  · exact hgid0 (hsh.symm.trans h0)
  · have hmem : x ∈ s.shadowsOf gid := List.mem_filter.2 ⟨List.mem_cons_of_mem _ (hside.groups x hx), by simp [hx0, hgid0, hsh]⟩
    exact hgone x hx x hmem rfl

end Sys2Proof.Claims
end

section
/-!
PROOFS. Rolling back and ending a node (O33; R120, R182, R331, R332).
-/
namespace Sys2Proof.Claims
open Machine Bits Encoding

/-! ## Rolling back -/

/-- The group back at its record, re-queued, its attempt raised by one. -/
def RolledBack (gid : Nat) (s t : State) : Prop := t.mem = s.mem ∧ t.grp.gid = gid ∧ t.grp.attempt = s.grp.attempt + 1 ∧ t.grp.staged = [] ∧ t.grp.slots = [] ∧ t.grp.k = s.grp.record.k
  ∧ t.grp.guards = s.grp.record.guards ∧ t.grp.scratch = restoreScratch s.grp.scratch s.grp.undoScratch ∧ t.grp.replay = s.grp.log ++ s.grp.replay ∧ t.grp.log = []
  ∧ (t.grp.phase = .queued ∨ t.grp.phase = .rollingBack) ∧ (s.core.storeHolds gid = false → t.grp.phase = .queued)

/-- Only what is saved with a group, its bank copies and whether it keeps its core differ. -/
def SavedOnly (g g' : Group) : Prop := g' = { g with
  savedTiles := g'.savedTiles, savedSeqrs := g'.savedSeqrs, savedPairs := g'.savedPairs, savedJobs := g'.savedJobs, undoBanks := g'.undoBanks, placed := g'.placed }

theorem SavedOnly.trans {g h k : Group} (h1 : SavedOnly g h) (h2 : SavedOnly h k) : SavedOnly g k := by
  unfold SavedOnly at h1 h2 ⊢
  rw [h1] at h2
  exact h2

theorem CoreServed.savedOnly {s t : State} (h : CoreServed s t) : SavedOnly s.grp t.grp := by
  have hg := h.grp
  unfold SavedOnly
  rw [hg]

theorem GroupSaved.savedOnly {s t : State} (h : GroupSaved s t) : SavedOnly s.grp t.grp := by
  obtain ⟨c, tiles, seqrs, pairs, jobs, h⟩ := h
  exact SavedOnly.trans (show SavedOnly s.grp { s.grp with savedTiles := tiles, savedSeqrs := seqrs, savedPairs := pairs, savedJobs := jobs } from rfl) h.savedOnly

theorem settleQueued_savedOnly (s : State) : SavedOnly s.grp s.settleQueued.grp := by
  unfold State.settleQueued
  split
  · rfl
  · have hk := (saveGroup_saved (s.core.quarantined || decide (s.part.pstat ≠ 0)) s).savedOnly
    simp only []
    split
    · exact hk.trans rfl
    · exact hk

/-- A rolled-back group is Queued, or waits for its stores. -/
theorem requeue_facts (s : State) : s.requeue.mem = s.mem ∧ ∃ ph at_ lvl, SavedOnly { s.grp with phase := ph, slots := [], queuedAt := at_, level := lvl } s.requeue.grp
    ∧ (ph = .queued ∨ ph = .rollingBack) ∧ (s.core.storeHolds s.grp.gid = false → ph = .queued) := by
  unfold State.requeue
  simp only []
  split
  · next h => exact ⟨rfl, .rollingBack, s.grp.queuedAt, s.grp.level, rfl, .inr rfl, fun hno => absurd (h.symm.trans hno) (by decide)⟩
  · exact ⟨(settleQueued_facts _).2.1, .queued, s.now, s.lau.priority, settleQueued_savedOnly { s with grp := { s.grp with phase := .queued, slots := [], queuedAt := s.now, level := s.lau.priority } }, .inl rfl, fun _ => rfl⟩

/-- With its auditor's runs, its staged writes and its phase's queued commands gone, the group is otherwise as it was. -/
theorem cleared_facts {gid : Nat} {s : State} (h : Still gid s) :
    let u := (s.dropShadow gid).discardStaged.discardPhaseJobs
    u.mem = s.mem ∧ u.grp = { s.grp with staged := [], stagedVa := [], stagedStamps := [] } ∧ u.lau = s.lau ∧ HeldAs s.core u.core := by
  obtain ⟨hg, -, h0, -, -, -, hother⟩ := h
  obtain ⟨hside, -⟩ := dropShadow_sidelined hg h0 hother
  generalize s.dropShadow gid = d at hside
  have hjobs := discardJobs_sidelined (fun j => (j.gid = d.discardStaged.grp.gid && j.phase = d.discardStaged.grp.phases) && !j.runsOut) d.discardStaged
  refine ⟨hjobs.mem.trans hside.mem, hjobs.grp.trans ?_, hjobs.lau.trans hside.lau, (hside.held.trans hjobs.held).trans (mapJobs_heldAs _ (fun j => ?_))⟩
  · show { d.grp with staged := [], stagedVa := [], stagedStamps := [] } = _
    rw [hside.grp]
  · split <;> exact ⟨rfl, rfl⟩

/-- A group as its record and its undo copies give it, its attempt raised by one. -/
def atRecord (g g' : Group) : Group :=
  { g' with scratch := restoreScratch g.scratch g.undoScratch, attrs := g.record.attrs, held := g.record.held, undoScratch := [], undoBanks := [],
            k := g.record.k, guards := g.record.guards, pool := g.record.pool, replay := g.log ++ g.replay, log := [], ticketReplay := g.tickets ++ g.ticketReplay, tickets := [],
            attempt := g.attempt + 1, phase := .rollingBack, boundary := false, stepEnded := false, seq := g.record.bound.1, view := g.record.bound.2, claims := [], trapped := false,
            audit := [], jobBytes := [] }

theorem rollbackGroup_requeues {gid : Nat} {s : State} (h : Still gid s) : ∃ v : State, s.rollbackGroup = v.requeue ∧ v.mem = s.mem ∧ HeldAs s.core v.core
    ∧ ∃ g', (g'.gid = gid ∧ g'.staged = []) ∧ v.grp = atRecord s.grp g' := by
  have hfacts := cleared_facts h
  obtain ⟨hg, -, -, -, -, hbytes, -⟩ := h
  subst hg
  unfold State.rollbackGroup
  generalize (s.dropShadow s.grp.gid).discardStaged.discardPhaseJobs = u at hfacts
  obtain ⟨hmem, hgrp, hlau, hheld⟩ := hfacts
  have hnone : u.grp.foreignBytes = [] := by rw [hgrp]; exact hbytes
  simp only [hnone, List.foldl_nil]
  refine ⟨_, rfl, hmem, hheld.trans ?_, (if u.grp.placed then u.grp else u.grp.undoSaved), ?_, ?_⟩
  · refine (show HeldAs u.core _ from ?_)
    show HeldAs u.core (if u.grp.placed then _ else _)
    split
    · exact ⟨restorePairs_heldAs _ _, fun j hj => ⟨j, hj, rfl, rfl⟩⟩
    · exact heldAs_refl _
  · split
    · rw [hgrp]; exact ⟨rfl, rfl⟩
    · rw [hgrp]; exact ⟨rfl, rfl⟩
  · show _ = atRecord s.grp _
    unfold atRecord State.mapThreads
    simp only [hgrp]

theorem rollbackGroup_back {gid : Nat} {s : State} (h : Still gid s) : RolledBack gid s s.rollbackGroup.coreChanged := by
  obtain ⟨v, hv, hmem, hheld, g', ⟨hgid, hstaged⟩, hgrp⟩ := rollbackGroup_requeues h
  obtain ⟨hrmem, ph, at_, lvl, hsaved, hph, hq⟩ := requeue_facts v
  have hserved := coreChanged_served v.requeue
  rw [hv]
  have hall := hsaved.trans hserved.savedOnly
  rw [hgrp] at hall
  have hvgid : v.grp.gid = gid := by rw [hgrp]; exact hgid
  unfold SavedOnly at hall
  generalize v.requeue.coreChanged = t at hserved hall ⊢
  unfold RolledBack
  rw [hserved.mem, hrmem, hmem, hall]
  exact ⟨rfl, hgid, rfl, hstaged, rfl, rfl, rfl, rfl, rfl, rfl, hph, fun hno => hq (by rw [hvgid]; exact hheld.none_holds hno)⟩

/-! ## Reports -/

section
variable {gid : Nat} {s u : State} (h : Reported s u)
include h

theorem Reported.still (hs : Still gid s) : Still gid u := by
  unfold Reported at h
  rw [h]
  exact hs

theorem Reported.rolledBack {t : State} (ht : RolledBack gid u t) : RolledBack gid s t := by
  unfold Reported at h
  rw [h] at ht
  exact ht
end

/-! ## Ending a node -/

/-- The node is gone with what it had staged, and its launch has failed. -/
def NodeEnded (s t : State) : Prop := t.mem = s.mem ∧ t.grp = Group.none ∧ t.lau.failed = true

theorem abortNode_ends {s : State} (h0 : s.grp.gid ≠ 0) (hs : s.grp.shadow = 0) : NodeEnded s s.abortNode.coreChanged := by
  have hserved := coreChanged_served s.abortNode
  have hend := (endGroup_facts (s := s.discardStaged.discardPhaseJobs) h0).1
  have habort : s.abortNode.grp = Group.none ∧ s.abortNode.lau.failed = true := by
    unfold State.abortNode
    rw [if_neg (not_not.2 hs)]
    simp only []
    generalize s.discardStaged.discardPhaseJobs.endGroup = e at hend ⊢
    have hr := report_reported (s.lau.logDev s.grp.dev) e.lau.pid 0x11 ⟨0, s.grp.core⟩ s.lau.number
      { e with lau := { e.lau with failed := true, state := if e.lau.state = .dispatching ∨ e.lau.state = .running then LaunchState.aborting else e.lau.state } }
    exact ⟨(congrArg State.grp (show _ = _ from hr) :).trans hend, congrArg (fun s => s.lau.failed) (show _ = _ from hr)⟩
  obtain ⟨hgrp, hfail⟩ := habort
  exact ⟨hserved.mem.trans (abortNode_mem s), (hserved.grp_none (by rw [hgrp]; rfl)).trans hgrp, by rw [hserved.lau]; exact hfail⟩

/-! ## Consumed errors (R331, R332) -/

section
variable {gid : Nat} {s : State} (h : Still gid s) (code : Nat) (u : ErrUnit)
include h

theorem consumeError_rolls (he : s.grp.early = false) (ha : s.grp.attempt < 3) : RolledBack gid s (s.consumeError code u).coreChanged := by
  have hr := report_reported s.grp.dev s.lau.pid code u s.lau.number s
  have hback := rollbackGroup_back (hr.still h)
  obtain ⟨-, -, h0, -, -, -, -⟩ := h
  unfold State.consumeError
  have hno : (s.grp.early || decide (s.grp.attempt ≥ 3)) = false := by rw [he, Bool.false_or]; exact decide_eq_false (by omega)
  simp only [if_neg (not_not.2 h0), hno, Bool.false_eq_true, if_false]
  exact hr.rolledBack hback

theorem report_ends (dev pid : Nat) (x : Word) : NodeEnded s (s.report dev pid code u x).abortNode.coreChanged := by
  have hr := report_reported dev pid code u x s
  obtain ⟨hg, hne, h0, -⟩ := hr.still h
  obtain ⟨hmem, hgrp, hfail⟩ := abortNode_ends (s := s.report dev pid code u x) (by rw [hg]; exact hne) h0
  exact ⟨hmem.trans hr.mem, hgrp, hfail⟩

theorem consumeError_ends (he : s.grp.early = true ∨ 3 ≤ s.grp.attempt) : NodeEnded s (s.consumeError code u).coreChanged := by
  have hend := report_ends h code u s.grp.dev s.lau.pid s.lau.number
  obtain ⟨-, -, h0, -, -, -, -⟩ := h
  unfold State.consumeError
  have hyes : (s.grp.early || decide (s.grp.attempt ≥ 3)) = true := by simpa using he
  simp only [if_neg (not_not.2 h0), hyes, if_true]
  exact hend
end

/-- An error that a core may detect in what the node owns. -/
def StruckAt (gid : Nat) (u : ErrUnit) (hit : Struck) (s : State) : Prop :=
  Still gid s ∧ (s.grp.phase = .running ∨ s.grp.phase = .closing ∨ s.grp.phase = .audited) ∧ ErrUnit.legal u = true ∧ (s.struck hit).1 = true ∧ s.dev.answers = true

theorem nodeConsumes_eq {gid : Nat} {u : ErrUnit} {hit : Struck} {s : State} (h : StruckAt gid u hit s) : nodeConsumes u hit s =
    some (if (s.struck hit).2 then (s.consumeError 0x10 u).coreChanged else (s.report s.grp.dev s.lau.pid 0x10 u s.lau.number).abortNode.coreChanged) := by
  obtain ⟨hstill, hphase, hlegal, howns, hdev⟩ := h
  have hp := performGroup_still hstill
  obtain ⟨-, -, h0, -⟩ := hstill
  have hlive : s.grp.live = true := by simpa [Group.live, or_assoc] using hphase
  unfold nodeConsumes
  simp only [hp, hlive, hlegal, howns, hdev, h0, Bool.and_self, whenDue_true, ne_eq, not_true_eq_false, decide_false, Bool.or_false]

theorem nodeConsumes_rolls {gid : Nat} {u : ErrUnit} {hit : Struck} {s : State} (h : StruckAt gid u hit s) (hc : (s.struck hit).2 = true) (he : s.grp.early = false) (ha : s.grp.attempt < 3) :
    ∃ t, nodeConsumes u hit s = some t ∧ RolledBack gid s t := by
  refine ⟨_, (nodeConsumes_eq h).trans (congrArg some (if_pos hc)), ?_⟩
  obtain ⟨hstill, -⟩ := h
  exact consumeError_rolls hstill _ _ he ha

theorem nodeConsumes_ends {gid : Nat} {u : ErrUnit} {hit : Struck} {s : State} (h : StruckAt gid u hit s) (hc : (s.struck hit).2 = false ∨ s.grp.early = true ∨ 3 ≤ s.grp.attempt) :
    ∃ t, nodeConsumes u hit s = some t ∧ NodeEnded s t := by
  refine ⟨_, nodeConsumes_eq h, ?_⟩
  obtain ⟨hstill, -⟩ := h
  split
  · next hcopy => exact consumeError_ends hstill _ _ (hc.resolve_left (by rw [hcopy]; decide))
  · exact report_ends hstill _ _ _ _ _

end Sys2Proof.Claims
end

section
/-!
PROOFS. The replay auditor and consumed errors (O33; R335, R336).
-/
namespace Sys2Proof.Claims
open Machine Bits Encoding

/-! ## An error that a job consumes (R185) -/

section
variable {s : State} (h : ∀ d, (s.dev? d).answers = true)
include h

theorem emit_out (d : Nat) (m : OutMsg) : (s.emit d m).out = m :: s.out := by
  unfold State.emit
  rw [if_pos (h d)]

theorem updPart_answers (d p : Nat) (f : Part → Part) : ∀ d', ((s.updPart d p f).dev? d').answers = true := by
  intro d'
  unfold State.updPart
  split
  · exact h d'
  · exact h d'

theorem emit_answers (d : Nat) (m : OutMsg) : ∀ d', ((s.emit d m).dev? d').answers = true := by
  intro d'
  unfold State.emit
  split
  · exact h d'
  · exact h d'

theorem msixSignal_out (d p v : Nat) : s.out.length ≤ (s.msixSignal d p v).out.length := by
  unfold State.msixSignal
  split
  · unfold State.updPart
    split <;> exact Nat.le_refl _
  · rw [emit_out h, List.length_cons]
    exact Nat.le_succ _

theorem report_out (d p code : Nat) (u : ErrUnit) (x : Word) : s.out.length < (s.report d p code u x).out.length := by
  have hout : ∀ (u : State) (f : Part → Part), (u.updPart d p f).out = u.out := fun u f => by unfold State.updPart; split <;> rfl
  unfold State.report
  simp only [h d, Bool.not_true, Bool.false_eq_true, if_false]
  have h1 := updPart_answers h d p (fun p => p.logError (s.newError d code u x))
  split
  · rw [emit_out (updPart_answers h1 _ _ _), hout, hout, List.length_cons]
    exact Nat.lt_succ_self _
  · refine Nat.lt_of_lt_of_le ?_ (msixSignal_out (emit_answers (updPart_answers h1 _ _ _) _ _) ..)
    rw [emit_out (updPart_answers h1 _ _ _), hout, hout, List.length_cons]
    exact Nat.lt_succ_self _
end

/-- The job that an error may strike: it moves bytes, and is not over. -/
def strikes (gid id : Nat) (j : Job) : Bool := j.id = id && j.gid = gid && j.freed && !j.moved && !j.kind.array

theorem jobConsumes_illegal {u : ErrUnit} (hu : ErrUnit.legal u = false) (gid id : Nat) (s : State) : jobConsumes gid id u s = s := by
  unfold jobConsumes
  simp only [hu, Bool.not_false, if_true]
  split <;> rfl

section
variable {gid id : Nat} {u : ErrUnit} {s : State} (hno : ∀ g ∈ s.allGroups, g.gid = gid → g.shadow = 0)
include hno

/-- No job is struck, or its error is reported: it is not of an auditor's run. -/
theorem jobConsumes_cases (hu : ErrUnit.legal u = true) : (jobConsumes gid id u s = s ∧ ¬∃ c ∈ s.allCores, ∃ j ∈ c.jobs, strikes gid id j = true)
    ∨ ∃ d p x, jobConsumes gid id u s = s.report d p 0x10 u x := by
  unfold jobConsumes
  simp only [hu, Bool.not_true, Bool.false_eq_true, if_false]
  split
  · next c j hc hj =>
    right
    split
    · next s1 hs1 =>
      obtain ⟨-, hgrp, hgid, -⟩ := focusGroup_facts hs1
      rw [if_neg (not_not.2 (hno s1.grp (List.mem_of_find?_eq_some hgrp) hgid))]
      exact ⟨_, _, _, rfl⟩
    · exact ⟨_, _, _, rfl⟩
  · next hmiss =>
    refine .inl ⟨rfl, fun ⟨c, hc, j, hj, hhit⟩ => ?_⟩
    obtain ⟨c', hc'⟩ := Option.isSome_iff_exists.1 ((List.find?_isSome (p := fun c => c.jobs.any (strikes gid id))).2 ⟨c, hc, List.any_eq_true.2 ⟨j, hj, hhit⟩⟩)
    obtain ⟨j', hj'⟩ := Option.isSome_iff_exists.1 ((List.find?_isSome (p := strikes gid id)).2 ⟨j, List.mem_flatMap.2 ⟨c, hc, hj⟩, hhit⟩)
    exact absurd hj' (hmiss c' j' hc')

theorem jobConsumes_reported : Reported s (jobConsumes gid id u s) := by
  cases hu : ErrUnit.legal u with
  | false => rw [jobConsumes_illegal hu]; exact reported_refl s
  | true =>
    rcases jobConsumes_cases (id := id) hno hu with ⟨heq, -⟩ | ⟨d, p, x, heq⟩
    · rw [heq]; exact reported_refl s
    · rw [heq]; exact report_reported ..

theorem jobConsumes_out (hu : ErrUnit.legal u = true) (ha : ∀ d, (s.dev? d).answers = true) (hj : ∃ c ∈ s.allCores, ∃ j ∈ c.jobs, strikes gid id j = true) : (jobConsumes gid id u s).out ≠ s.out := by
  obtain ⟨d, p, x, heq⟩ := (jobConsumes_cases (id := id) hno hu).resolve_left (fun h => h.2 hj)
  rw [heq]
  exact fun e => Nat.lt_irrefl _ (e ▸ report_out ha d p 0x10 u x)
end

/-! ## Runs of the auditor (R336) -/

/-- A run of the auditor on a core: the phase from its record, with its published writes to be replayed. -/
def RunBegins (gid core : Nat) (t s : State) : Prop := t.mem = s.mem ∧ ∃ h ∈ t.groups, h.gid = s.nextId ∧ h.shadow = gid ∧ h.core = core ∧ h.phase = .running ∧ h.attempt = 1 ∧ h.staged = [] ∧ h.log = []
  ∧ h.replay = s.grp.log ∧ h.ticketReplay = s.grp.tickets ∧ h.k = s.grp.record.k ∧ h.guards = s.grp.record.guards ∧ h.scratch = restoreScratch s.grp.scratch s.grp.undoScratch

theorem startShadow_begins {core slot : Nat} {s : State} (hb : s.grp.foreignBytes = []) (hn : s.nextId ≠ 0) :
    RunBegins s.grp.gid core (s.startShadow core slot) s ∧ (s.startShadow core slot).grp = s.grp := by
  unfold State.startShadow State.freshId
  simp only [hb, List.foldl_nil]
  obtain ⟨f, -, hf⟩ := changedSince_stall (State.core? { s with nextId := s.nextId + 1 } s.grp.dev core) (State.updCore s.grp.dev core _ _)
  rw [hf]
  refine ⟨⟨State.updCore_mem .., _, (congrArg (_ ∈ ·) (State.updCore_groups ..)).mpr (mem_putGroup_self hn _), ?_⟩, State.updCore_grp ..⟩
  exact ⟨rfl, rfl, rfl, rfl, rfl, rfl, rfl, rfl, rfl, rfl, rfl, rfl⟩

theorem settled_same {a : Option DWord} (h : a.isSome = true) (g : Group) : Group.settled { g with audit := [a, a] } = true := by
  obtain ⟨v, rfl⟩ := Option.isSome_iff_exists.1 h
  exact decide_eq_true rfl

theorem settled_differs {a b : Option DWord} (h : a = none ∨ b ≠ a) (g : Group) : Group.settled { g with audit := [a, b] } = false := by
  cases a with
  | none => rfl
  | some v =>
    cases b with
    | none => rfl
    | some w =>
      have hne : w ≠ v := fun e => h.elim (Option.some_ne_none v) (fun h => h (congrArg some e))
      exact decide_eq_false hne.symm

section
variable {gid core slot : Nat} {s : State} (hs : Still gid s)
include hs

theorem auditReruns_starts (hn : s.nextId ≠ 0) (hp : s.grp.phase = .closing) (hsam : s.grp.sampled = true) (hsh : s.shadowsOf gid = []) (hset : s.settledGroup gid = true)
    (haud : s.auditor [s.grp.core / 48] core = true) :
    ∃ t, auditReruns core slot s = some t ∧ RunBegins gid core t s ∧ t.grp = { s.grp with phase := .audited, audit := [some s.signature], auditCore := core } := by
  obtain ⟨rfl, -, -, -, -, hb, -⟩ := hs
  obtain ⟨hbegin, hgrp⟩ := startShadow_begins (core := core) (slot := slot) (s := { s with grp := { s.grp with phase := .audited, audit := [some s.signature], auditCore := core } }) hb hn
  refine ⟨_, ?_, hbegin, hgrp⟩
  unfold auditReruns
  simp only [hsh, hp, hsam, hset, haud, decide_true, Bool.and_self, whenDue_true]

/-- The auditor's run that is first in line has ended on its core. -/
def RunOver (gid core : Nat) (h : Group) (more : List Group) (a : Option DWord) (s : State) : Prop :=
  s.grp.phase = .audited ∧ s.grp.audit = [a] ∧ s.shadowsOf gid = h :: more ∧ h.core = core ∧ s.shadowDone h = true

omit hs in
theorem auditReruns_over {h : Group} {more : List Group} {a : Option DWord} (hg : s.grp.gid = gid) (ho : RunOver gid core h more a s) : auditReruns core slot s =
    some (if Group.settled { s.grp with audit := [a, s.shadowSignature h] } then State.dropShadow gid { s with grp := { s.grp with audit := [a, s.shadowSignature h] } }
      else { s with grp := { s.grp with audit := [a, s.shadowSignature h] }, part := { s.part with audMis := min (s.part.audMis + 1) 0xFFFF } }) := by
  obtain ⟨hp, haud, hsh, hcore, hdone⟩ := ho
  subst hg
  unfold auditReruns
  simp only [hsh, hp, haud, hcore, hdone, List.headD_cons, List.length_singleton, decide_true, Bool.and_self, whenDue_true]

/-- What another audit entry leaves: the runs of the group are the same. -/
theorem still_audit (l : List (Option DWord)) : Still gid { s with grp := { s.grp with audit := l } } := by
  obtain ⟨hg, h0, hsh, hin, hreg, hb, hother⟩ := hs
  refine ⟨hg, h0, hsh, hin, hreg, hb, fun g hgm => ?_⟩
  obtain ⟨hmem, hc⟩ := List.mem_filter.1 hgm
  rcases List.mem_cons.1 hmem with rfl | hmem
  · simp only [Bool.and_eq_true, decide_eq_true_eq, ne_eq] at hc
    exact absurd (hc.2.symm.trans hsh) h0
  · exact hother g (List.mem_filter.2 ⟨List.mem_cons_of_mem _ hmem, hc⟩)

theorem auditReruns_agrees {h : Group} {more : List Group} {a : Option DWord} (ho : RunOver gid core h more a s) (ha : a.isSome = true) (hsig : s.shadowSignature h = a) :
    ∃ t, auditReruns core slot s = some t ∧ t.mem = s.mem ∧ t.grp = { s.grp with audit := [a, a] } ∧ t.part.audMis = s.part.audMis ∧ t.shadowsOf gid = [] := by
  have hstill := still_audit hs [a, a]
  obtain ⟨hg, -⟩ := hs
  refine ⟨_, auditReruns_over hg ho, ?_⟩
  rw [hsig, if_pos (settled_same ha _)]
  obtain ⟨hg', -, hsh', -, -, -, hother'⟩ := hstill
  obtain ⟨hside, hgone⟩ := dropShadow_sidelined hg' hsh' hother'
  exact ⟨hside.mem, hside.grp, hside.audMis, hgone⟩

omit hs in
theorem auditReruns_differs {h : Group} {more : List Group} {a : Option DWord} (hg : s.grp.gid = gid) (ho : RunOver gid core h more a s) (hsig : a = none ∨ s.shadowSignature h ≠ a) :
    auditReruns core slot s = some { s with grp := { s.grp with audit := [a, s.shadowSignature h] }, part := { s.part with audMis := min (s.part.audMis + 1) 0xFFFF } } := by
  rw [auditReruns_over hg ho, settled_differs hsig]
  rfl

/-- The two signatures of an audited phase differ, and the re-run is still held. -/
def AuditDiffers (gid : Nat) (a b : Option DWord) (h : Group) (s : State) : Prop :=
  s.grp.phase = .audited ∧ s.grp.audit = [a, b] ∧ s.grp.settled = false ∧ (s.shadowsOf gid).find? (fun h => h.core = s.grp.auditCore) = some h

theorem auditThird_starts {a b : Option DWord} {h : Group} (hd : AuditDiffers gid a b h s) (hn : s.nextId ≠ 0) (hall : ∀ k ∈ s.shadowsOf gid, k.core = s.grp.auditCore)
    (haud : s.auditor [s.grp.core / 48, s.grp.auditCore / 48] core = true) : ∃ t, auditThird core slot s = some t ∧ RunBegins gid core t s ∧ t.grp = s.grp := by
  obtain ⟨rfl, -, -, -, -, hb, -⟩ := hs
  obtain ⟨hbegin, hgrp⟩ := startShadow_begins (core := core) (slot := slot) hb hn
  obtain ⟨hp, haudit, hset, hfind⟩ := hd
  have hnone : (s.shadowsOf s.grp.gid).find? (fun h => h.core ≠ s.grp.auditCore) = none := List.find?_eq_none.2 (fun k hk => by simp [hall k hk])
  refine ⟨_, ?_, hbegin, hgrp⟩
  unfold auditThird
  simp only [haudit, hfind, hnone, hp, hset, haud, decide_true, Bool.not_false, Bool.and_self, whenDue_true]

/-- The third run has ended on its core. -/
def ThirdOver (gid core : Nat) (k : Group) (s : State) : Prop :=
  (s.shadowsOf gid).find? (fun h => h.core ≠ s.grp.auditCore) = some k ∧ k.core = core ∧ s.shadowDone k = true

omit hs in
theorem auditThird_settles {a b : Option DWord} {h k : Group} (hg : s.grp.gid = gid) (hd : AuditDiffers gid a b h s) (ho : ThirdOver gid core k s) :
    auditThird core slot s = some (s.settleAudit a b (s.shadowSignature k) h) := by
  obtain ⟨hp, haudit, hset, hfind⟩ := hd
  obtain ⟨hk, hcore, hdone⟩ := ho
  subst hg
  unfold auditThird
  simp only [haudit, hfind, hk, hp, hset, hcore, hdone, decide_true, Bool.not_false, Bool.and_self, whenDue_true]

theorem settleAudit_rolls {a b c : Option DWord} {h : Group} (hc : c = none ∨ (c ≠ a ∧ c ≠ b)) (he : s.grp.early = false) (ha : s.grp.attempt < 3) :
    RolledBack gid s (s.settleAudit a b c h) := by
  have hno : ∀ x, x = a ∨ x = b → (c.isSome && decide (c = x)) = false := by
    intro x hx
    cases c with
    | none => rfl
    | some v =>
      obtain ⟨hna, hnb⟩ := hc.resolve_left (Option.some_ne_none v)
      exact decide_eq_false (fun e => hx.elim (fun hx => hna (e.trans hx)) (fun hx => hnb (e.trans hx)))
  unfold State.settleAudit
  simp only [hno a (.inl rfl), hno b (.inr rfl), Bool.false_eq_true, if_false]
  unfold State.consume
  rw [performGroup_still hs]
  exact consumeError_rolls hs _ _ he ha
end

end Sys2Proof.Claims
end

section
/-!
PROOFS. What an audit's third run settles, dropped samples, and the events of consumed errors (O33; R336).
-/
namespace Sys2Proof.Claims
open Machine Bits Encoding

/-! ## A core by its number -/

theorem core?_dev_num (d n : Nat) (s : State) : (s.core? d n).dev = d ∧ (s.core? d n).num = n := by
  unfold State.core?
  cases h : s.allCores.find? (fun c => c.dev = d && c.num = n) with
  | none => exact ⟨rfl, rfl⟩
  | some c => simpa using List.find?_some h

theorem core?_updCore {f : Core → Core} (hf : ∀ c, (f c).dev = c.dev ∧ (f c).num = c.num) (d n : Nat) (s : State) : (s.updCore d n f).core? d n = f (s.core? d n) := by
  by_cases h : s.core.dev = d ∧ s.core.num = n
  · have hu : s.updCore d n f = { s with core := f s.core } := if_pos h
    rw [hu]
    simp [State.core?, State.allCores, hf, h]
  · have hu : s.updCore d n f = { s with cores := f (s.core? d n) :: s.cores.filter (fun c => !(c.dev = d && c.num = n)) } := if_neg h
    have hc : (decide (s.core.dev = d) && decide (s.core.num = n)) = false := by simpa using h
    obtain ⟨hd, hn⟩ := core?_dev_num d n s
    rw [hu, State.core?, State.allCores, List.find?_cons_of_neg (by simp [hc]), List.find?_cons_of_pos (by simp [hf, hd, hn])]
    rfl

theorem core?_checkoutCore (a b d n : Nat) (s : State) : (s.checkoutCore a b).core? d n = s.core? d n := by
  by_cases h : s.core.dev = a ∧ s.core.num = b
  · rw [show s.checkoutCore a b = s from if_pos h]
  · have hcore := State.checkoutCore_core a b s
    have hc : s.checkoutCore a b = { s with core := (s.checkoutCore a b).core, cores := s.core :: s.cores.filter (fun c => !(c.dev = a && c.num = b)) } := by
      unfold State.checkoutCore
      rw [if_neg h]
    have hfound : (s.checkoutCore a b).core = (s.cores.find? (fun c => c.dev = a && c.num = b)).getD (Core.fresh a b) := by
      unfold State.checkoutCore
      rw [if_neg h]
    rw [hc]
    unfold State.core? State.allCores
    generalize (s.checkoutCore a b).core = x at hcore hfound ⊢
    by_cases hab : a = d ∧ b = n
    · obtain ⟨rfl, rfl⟩ := hab
      rw [List.find?_cons_of_pos (by simp [hcore]), List.find?_cons_of_neg (by simpa using h), Option.getD_some, hfound]
    · rw [List.find?_cons_of_neg (by simpa [hcore] using hab), List.find?_cons, List.find?_cons]
      split
      · rfl
      · rw [List.find?_filter]
        refine congrArg (fun o => Option.getD o (Core.fresh d n)) (congrArg (fun p => List.find? p s.cores) (funext fun c => ?_))
        by_cases hcd : c.dev = d ∧ c.num = n
        · have hne : ¬(c.dev = a ∧ c.num = b) := fun ⟨e1, e2⟩ => hab ⟨e1.symm.trans hcd.1, e2.symm.trans hcd.2⟩
          simpa [hcd, imp_iff_not_or] using hne
        · rw [Bool.eq_iff_iff]
          simp only [decide_eq_true_eq, Bool.and_eq_true, and_iff_right_iff_imp]
          exact fun h => absurd h hcd

theorem core?_focusGroup {gid : Nat} {s t : State} (h : s.focusGroup gid = some t) (d n : Nat) : t.core? d n = s.core? d n := by
  unfold State.focusGroup at h
  split at h
  · cases h
  · next s1 h1 =>
    split at h
    · cases h
    · next s2 h2 =>
      cases h
      have h1' : s1.core? d n = s.core? d n := by
        unfold State.checkoutGroup at h1
        split at h1
        · cases h1; rfl
        · split at h1
          · cases h1
          · cases h1; rfl
      have h2' : s2.core? d n = s1.core? d n := by
        unfold State.checkoutLaunch at h2
        split at h2
        · cases h2; rfl
        · split at h2
          · cases h2
          · cases h2; rfl
      have hpart : ∀ (u : State) (a b : Nat), (u.focusPart a b).core? d n = u.core? d n := by
        intro u a b
        unfold State.focusPart State.checkoutDev State.checkoutPart
        split <;> split <;> rfl
      rw [hpart, core?_checkoutCore, h2', h1']

/-! ## Quarantine (R336) -/

/-- None of the groups that have their place on a core is Queued. -/
def NoneQueued (dev core : Nat) (s : State) : Prop := ∀ g ∈ s.placedOn dev core, g.phase ≠ .queued

theorem quarantine_facts {dev core : Nat} {s : State} (h : NoneQueued dev core s) :
    (s.quarantine dev core).mem = s.mem ∧ (s.quarantine dev core).grp = s.grp ∧ ((s.quarantine dev core).core? dev core).quarantined = true := by
  have hnone : (s.placedOn dev core).filter (fun g => g.phase = .queued) = [] := List.filter_eq_nil_iff.2 (fun g hg => by simpa using h g hg)
  have hmem := State.updCore_mem dev core (fun c => { c with quarantined := true }) s
  have hgrp := State.updCore_grp dev core (fun c => { c with quarantined := true }) s
  have hcore : ((s.updCore dev core (fun c => { c with quarantined := true })).core? dev core).quarantined = true := by
    rw [core?_updCore (f := fun c => { c with quarantined := true }) (fun _ => ⟨rfl, rfl⟩)]
  unfold State.quarantine
  simp only [hnone, List.map_nil, List.foldl_nil]
  generalize s.updCore dev core (fun c => { c with quarantined := true }) = u at hmem hgrp hcore
  cases hf : u.focusGroup s.grp.gid with
  | none => exact ⟨hmem, hgrp, hcore⟩
  | some t =>
    obtain ⟨href, hfound, -, -⟩ := focusGroup_facts hf
    rw [← hgrp, State.group?, State.allGroups, List.find?_cons_of_pos (by simp)] at hfound
    refine ⟨href.mem.trans hmem, (Option.some.inj hfound).symm.trans hgrp, ?_⟩
    rw [Option.getD_some, core?_focusGroup hf]
    exact hcore

/-- A core to blame is quarantined, and a report says so. -/
theorem blame_facts {dev core : Nat} {s : State} (h : NoneQueued dev core s) (pid : Nat) (u : ErrUnit) (x : Word) :
    let t := (s.quarantine dev core).report dev pid 0x04 u x
    t.mem = s.mem ∧ t.grp = s.grp ∧ (t.core? dev core).quarantined = true := by
  obtain ⟨hmem, hgrp, hcore⟩ := quarantine_facts h
  have hr := report_reported dev pid 0x04 u x (s.quarantine dev core)
  refine ⟨hr.mem.trans hmem, (congrArg State.grp (show _ = _ from hr) :).trans hgrp, ?_⟩
  have hcores := congrArg (fun s => s.core? dev core) (show _ = _ from hr)
  exact (congrArg Core.quarantined hcores).trans hcore

section
variable {gid : Nat} {s : State} (hs : Still gid s)
include hs

theorem settleAudit_original {a b : Option DWord} {h : Group} (ha : a.isSome = true) (hp : s.grp.phase = .audited) (hq : NoneQueued s.grp.dev s.grp.auditCore s) :
    let t := s.settleAudit a b a h
    t.mem = s.mem ∧ t.grp = { s.grp with audit := [a, a] } ∧ (t.core? s.grp.dev s.grp.auditCore).quarantined = true := by
  obtain ⟨hg, -, hsh, -, -, -, hother⟩ := still_audit hs [a, a]
  obtain ⟨hside, -⟩ := dropShadow_sidelined hg hsh hother
  obtain ⟨rfl, -⟩ := hs
  unfold State.settleAudit
  simp only [ha, Bool.true_and, decide_true, if_true]
  generalize State.dropShadow s.grp.gid { s with grp := { s.grp with audit := [a, a] } } = d at hside
  have hnone : NoneQueued s.grp.dev s.grp.auditCore d := by
    intro g hgm
    obtain ⟨hmem, hc⟩ := List.mem_filter.1 hgm
    rcases List.mem_cons.1 hmem with rfl | hmem
    · rw [hside.grp]
      show s.grp.phase ≠ .queued
      rw [hp]
      exact fun e => PhaseState.noConfusion e
    · exact hq g (List.mem_filter.2 ⟨List.mem_cons_of_mem _ (hside.groups g hmem), hc⟩)
  obtain ⟨hmem, hgrp, hcore⟩ := blame_facts hnone d.lau.pid ⟨0, s.grp.auditCore⟩ d.lau.number
  rw [hside.lau] at hmem hgrp hcore
  refine ⟨?_, ?_, ?_⟩
  · rw [hside.lau]; exact hmem.trans hside.mem
  · rw [hside.lau]; exact hgrp.trans hside.grp
  · rw [hside.lau]; exact hcore

theorem adopt_facts (h : Group) : (s.adopt h).mem = s.mem ∧ (s.adopt h).lau = s.lau ∧ (s.adopt h).grp.gid = gid ∧ (s.adopt h).grp.phase = .audited ∧ (s.adopt h).grp.shadow = 0 ∧ (s.adopt h).grp.preempt = true
    ∧ (s.adopt h).grp.placed = false ∧ (s.adopt h).grp.staged = h.staged ∧ (s.adopt h).grp.scratch = h.scratch ∧ ∀ g ∈ (s.adopt h).groups, g ∈ s.groups := by
  obtain ⟨rfl, -⟩ := hs
  unfold State.adopt
  simp only []
  obtain ⟨f1, -, hf1⟩ := changedSince_stall (s.core? h.dev h.core) (State.changedSince s.core (State.updCore h.dev h.core _ _))
  obtain ⟨f2, -, hf2⟩ := changedSince_stall s.core (State.updCore h.dev h.core _ _)
  rw [hf1, hf2]
  simp only [State.mapThreads, State.updCore_mem, State.updCore_lau, State.updCore_grp, State.updCore_groups]
  exact ⟨rfl, rfl, rfl, rfl, rfl, rfl, rfl, rfl, rfl, fun g hg => List.mem_of_mem_filter hg⟩

theorem settleAudit_rerun {a b : Option DWord} {h : Group} (hb : b.isSome = true) (hab : s.grp.settled = false) (haud : s.grp.audit = [a, b]) (hq : NoneQueued s.grp.dev s.grp.core s) :
    let t := s.settleAudit a b b h
    t.mem = s.mem ∧ t.grp.gid = gid ∧ t.grp.phase = .audited ∧ t.grp.audit = [b, b] ∧ t.grp.preempt = true ∧ t.grp.placed = false ∧ t.grp.staged = h.staged ∧ t.grp.scratch = h.scratch
      ∧ (t.core? s.grp.dev s.grp.core).quarantined = true := by
  obtain ⟨hamem, halau, hagid, haphase, hash, hapre, haplaced, hastaged, hascratch, hagroups⟩ := adopt_facts hs h
  have hne : ¬(b = a) := by
    intro e
    subst e
    obtain ⟨v, rfl⟩ := Option.isSome_iff_exists.1 hb
    unfold Group.settled at hab
    rw [haud] at hab
    simp at hab
  obtain ⟨hg, h0, hsh, -, -, -, hother⟩ := hs
  have hshadows : ∀ g ∈ State.shadowsOf gid { s.adopt h with grp := { (s.adopt h).grp with audit := [b, b] } }, g.gid ≠ gid := by
    intro g hgm
    obtain ⟨hmem, hc⟩ := List.mem_filter.1 hgm
    rcases List.mem_cons.1 hmem with rfl | hmem
    · simp only [Bool.and_eq_true, decide_eq_true_eq, ne_eq] at hc
      exact absurd (hc.2.symm.trans hash) h0
    · exact hother g (List.mem_filter.2 ⟨List.mem_cons_of_mem _ (hagroups g hmem), hc⟩)
  obtain ⟨hside, -⟩ := dropShadow_sidelined (s := { s.adopt h with grp := { (s.adopt h).grp with audit := [b, b] } }) hagid hash hshadows
  subst hg
  unfold State.settleAudit
  simp only [hb, Bool.true_and, hne, decide_false, Bool.false_eq_true, if_false, decide_true, if_true]
  generalize State.dropShadow s.grp.gid { s.adopt h with grp := { (s.adopt h).grp with audit := [b, b] } } = d at hside
  have hnone : NoneQueued s.grp.dev s.grp.core d := by
    intro g hgm
    obtain ⟨hmem, hc⟩ := List.mem_filter.1 hgm
    rcases List.mem_cons.1 hmem with rfl | hmem
    · rw [hside.grp]
      show (s.adopt h).grp.phase ≠ .queued
      rw [haphase]
      exact fun e => PhaseState.noConfusion e
    · exact hq g (List.mem_filter.2 ⟨List.mem_cons_of_mem _ (hagroups g (hside.groups g hmem)), hc⟩)
  obtain ⟨hmem, hgrp, hcore⟩ := blame_facts hnone d.lau.pid ⟨0, s.grp.core⟩ d.lau.number
  have hall := hgrp.trans hside.grp
  refine ⟨hmem.trans (hside.mem.trans hamem), ?_, ?_, ?_, ?_, ?_, ?_, ?_, hcore⟩
  all_goals rw [hall]
  · exact hagid
  · exact haphase
  · exact hapre
  · exact haplaced
  · exact hastaged
  · exact hascratch
end

/-! ## Dropped samples -/

theorem dropAudit_facts {gid : Nat} {s : State} (hs : Still gid s) : (s.dropAudit gid).mem = s.mem ∧ (s.dropAudit gid).grp = { s.grp with phase := .closing, sampled := false, audit := [] }
    ∧ (s.dropAudit gid).part.audDrop = min (s.part.audDrop + 1) 0xFFFF := by
  obtain ⟨hg, -, hsh, -, -, -, hother⟩ := hs
  obtain ⟨hside, -⟩ := dropShadow_sidelined hg hsh hother
  unfold State.dropAudit
  generalize s.dropShadow gid = d at hside
  refine ⟨hside.mem, ?_, ?_⟩
  · show (if d.grp.gid = gid then _ else d.grp) = _
    rw [hside.grp, if_pos hg]
  · show min (d.part.audDrop + 1) 0xFFFF = _
    rw [hside.audDrop]

theorem updPart_audDrop {f : Part → Part} (hf : ∀ p, (f p).audDrop = p.audDrop) (d p : Nat) (s : State) : (s.updPart d p f).part.audDrop = s.part.audDrop := by
  unfold State.updPart
  split
  · exact hf _
  · rfl

theorem msixSignal_audDrop (d p v : Nat) (s : State) : (s.msixSignal d p v).part.audDrop = s.part.audDrop := by
  unfold State.msixSignal
  split
  · exact updPart_audDrop (by intro; rfl) ..
  · rw [emit_part]

theorem report_audDrop (d p code : Nat) (u : ErrUnit) (x : Word) (s : State) : (s.report d p code u x).part.audDrop = s.part.audDrop := by
  have hlog := updPart_audDrop (f := fun p => p.logError (s.newError d code u x)) (fun _ => rfl) d p s
  unfold State.report
  split
  · rfl
  · simp only []
    split
    · rw [emit_part, updPart_audDrop (by intro; rfl), hlog]
    · rw [msixSignal_audDrop, emit_part, updPart_audDrop (by intro; rfl), hlog]

theorem auditDrops_late {gid : Nat} {s : State} (hs : Still gid s) (hp : s.grp.phase = .closing) (hsam : s.grp.sampled = true) (ht : s.grp.closedAt + 100000 ≤ s.now)
    (hno : ∀ c < 192, s.auditor [s.grp.core / 48] c = false) : auditDrops false s = some (s.dropAudit gid) := by
  obtain ⟨rfl, -⟩ := hs
  have hany : (List.range 192).any (fun c => s.auditor [s.grp.core / 48] c) = false := List.any_eq_false.2 (fun c hc => by rw [hno c (List.mem_range.1 hc)]; exact Bool.false_ne_true)
  unfold auditDrops
  simp only [hany, hp, hsam, ht, Bool.false_eq_true, if_false, decide_true, Bool.not_false, Bool.and_self, whenDue_true]

theorem auditDrops_error {gid : Nat} {s : State} (hs : Still gid s) (hd : ∃ h ∈ s.shadowsOf gid, s.shadowDone h = false) :
    ∃ t, auditDrops true s = some t ∧ t.mem = s.mem ∧ t.grp = { s.grp with phase := .closing, sampled := false, audit := [] } ∧ t.part.audDrop = min (s.part.audDrop + 1) 0xFFFF := by
  have hgid : s.grp.gid = gid := hs.1
  obtain ⟨h, hmem, hdone⟩ := hd
  obtain ⟨k, hk⟩ := Option.isSome_iff_exists.1 ((List.find?_isSome (p := fun h => !s.shadowDone h)).2 ⟨h, hmem, by rw [hdone]; rfl⟩)
  have hr := report_reported s.grp.dev s.lau.pid 0x05 ⟨0, k.core⟩ s.lau.number s
  obtain ⟨hm, hgrp, hcount⟩ := dropAudit_facts (hr.still hs)
  refine ⟨_, ?_, hm.trans hr.mem, hgrp.trans ?_, hcount.trans (by rw [report_audDrop])⟩
  · unfold auditDrops
    simp only [hgid, hk, if_true]
  · rw [(congrArg State.grp (show _ = _ from hr) :)]

/-! ## O33 -/

/-- Settles O33: with nothing under way, a node's rollback and end, and an auditor's runs, change what the phase holds alone; the runs that leave are other groups. -/
theorem errorAndAuditEvents : Obligations.ErrorAndAuditEvents := by
  unfold Obligations.ErrorAndAuditEvents
  intro gid core slot u hit s still rolled ended consumed meets
  refine ⟨⟨?_, ?_⟩, fun j => ⟨fun hu => ?_, fun hno => ?_⟩, ?_, ?_⟩
  · exact happens_onGroup rfl (fun s1 _ ⟨hm, hc, he, ha⟩ => nodeConsumes_rolls hm hc he ha)
  · exact happens_onGroup rfl (fun s1 _ ⟨hm, hc⟩ => nodeConsumes_ends hm hc)
  · show Host.Outcome.next (jobConsumes gid j u s) = _
    rw [jobConsumes_illegal hu]
  · exact ⟨_, rfl, jobConsumes_reported hno, fun hu ha ⟨c, hc, i, hi, hid, hgid, hfreed, hmoved, harr⟩ => jobConsumes_out hno hu ha ⟨c, hc, i, hi, by simp [strikes, hid, hgid, hfreed, hmoved, harr]⟩⟩
  · intro begins other
    refine ⟨?_, fun h more a => ?_, fun a b h => ?_⟩
    · exact happens_onGroup rfl (fun s1 _ ⟨⟨hs, hn⟩, hp, hsam, hsh, hset, haud⟩ => auditReruns_starts hs hn hp hsam hsh hset haud)
    · intro over_
      refine ⟨happens_onGroup rfl (fun s1 _ ⟨⟨hs, ho⟩, ha, hsig⟩ => auditReruns_agrees hs ho ha hsig), happens_onGroup rfl (fun s1 _ ⟨⟨hs, ho⟩, hsig⟩ => ⟨_, ?_, rfl⟩)⟩
      obtain ⟨hg, -⟩ := hs
      exact auditReruns_differs hg ho hsig
    · intro differ
      refine ⟨happens_onGroup rfl (fun s1 _ ⟨⟨hs, hn⟩, ⟨_, hd⟩, hall, haud⟩ => auditThird_starts hs hd hn hall haud), fun k => ?_⟩
      intro third alone runs
      refine ⟨happens_onGroup rfl ?_, happens_onGroup rfl ?_, happens_onGroup rfl ?_⟩
      · rintro s1 - ⟨⟨⟨hs, hd⟩, ho⟩, ha, hsig, hq⟩
        refine ⟨_, auditThird_settles hs.1 hd ho, ?_⟩
        rw [hsig]
        exact settleAudit_original hs ha hd.1 hq
      · rintro s1 - ⟨⟨⟨hs, hd⟩, ho⟩, hb, hsig, hq⟩
        refine ⟨_, auditThird_settles hs.1 hd ho, ?_⟩
        obtain ⟨-, haudit, hset, -⟩ := hd
        rw [hsig]
        exact settleAudit_rerun hs hb hset haudit hq
      · rintro s1 - ⟨⟨⟨hs, hd⟩, ho⟩, hc, he, ha⟩
        exact ⟨_, auditThird_settles hs.1 hd ho, settleAudit_rolls hs hc he ha⟩
  · intro dropped
    refine ⟨happens_onGroup rfl (fun s1 _ ⟨hs, hp, hsam, ht, hno⟩ => ⟨_, auditDrops_late hs hp hsam ht hno, dropAudit_facts hs⟩), happens_onGroup rfl (fun s1 _ ⟨hs, hd⟩ => auditDrops_error hs hd)⟩

end Sys2Proof.Claims
end

section
/-!
PROOFS. Paging (O34): fault replies, stack growth, translations of the host, TLBINV (R137, R138, R310, R312, R314, R318).
-/
namespace Sys2Proof.Claims
open Machine Bits Encoding

/-! ## Fault replies (R137, R312) -/

/-- A thread that waits for its page, after the reply. -/
def FaultAnswered (page : Nat) (decline : Bool) (u v : Thread) : Prop := v.key = u.key ∧ v.pc = u.pc ∧ v.regs = u.regs
  ∧ (if decline then v.status = .parked page ∧ ∃ r, v.due = some (causeXlate, xlateDetail r (page * 2 ^ 16)) ∧ (r = 0 ∨ r = 3) else v.status = .ready ∧ v.due = none)

/-- How a reply leaves a thread of the groups `gids`; `d` is the detail of XLATE. -/
def answeredThread (gids : List Nat) (page clk : Nat) (decline : Bool) (d : Word) (t : Thread) : Thread :=
  if gids.contains t.key.gid && t.status = .parked page && t.due.isNone then (if decline then { t with due := some (causeXlate, d) } else t.retry clk) else t

theorem faultReply_facts (page : Nat) (decline : Bool) (s : State) : (s.faultReply page decline).mem = s.mem
    ∧ (s.faultReply page decline).part.faults = s.part.faults.filter (fun f => !(f.posted && f.page = page && f.kind ≠ 8))
    ∧ ∃ r, (r = 0 ∨ r = 3) ∧ (s.faultReply page decline).allThreads = s.allThreads.map (answeredThread s.partGids page s.dev.clk decline (xlateDetail r (page * 2 ^ 16))) := by
  refine ⟨by cases decline <;> rfl, by cases decline <;> rfl, (if s.part.faults.any (fun f => f.page = page && f.kind = 2) then 3 else 0), ?_, by cases decline <;> rfl⟩
  split
  · exact .inr rfl
  · exact .inl rfl

theorem answeredThread_parked {gids : List Nat} {page clk : Nat} {decline : Bool} {r : Nat} {u : Thread} (hr : r = 0 ∨ r = 3) (hg : u.key.gid ∈ gids) (hst : u.status = .parked page) (hd : u.due = none) :
    FaultAnswered page decline u (answeredThread gids page clk decline (xlateDetail r (page * 2 ^ 16)) u) := by
  have hwaits : (gids.contains u.key.gid && u.status = .parked page && u.due.isNone) = true := by simp [hg, hst, hd]
  unfold answeredThread FaultAnswered
  rw [if_pos hwaits]
  cases decline with
  | false => exact ⟨rfl, rfl, rfl, rfl, hd⟩
  | true => exact ⟨rfl, rfl, rfl, hst, r, rfl, hr⟩

/-- A reply to a halted partition is recorded; one to a running partition answers every thread that is parked on the page. -/
theorem faultReply_event {i : Instr} {dev pid page : Nat} {decline : Bool} {s : State} (hi : exec i s = s.onPart dev pid (fun s => some (s.reply_ page decline))) (hp : pid < 32) :
    let at_ := s.focusPart dev pid
    (at_.part.pstat ≠ 0 → exec i s = .next { at_ with part := { at_.part with recorded := at_.part.recorded ++ [.faultReply page decline] } })
     ∧ (at_.part.pstat = 0 → ∃ t, exec i s = .next t ∧ t.mem = at_.mem
        ∧ t.part.faults = at_.part.faults.filter (fun f => !(f.posted && f.page = page && f.kind ≠ 8))
        ∧ ∀ u ∈ at_.allThreads, u.key.gid ∈ at_.partGids → u.status = .parked page → u.due = none → ∃ v ∈ t.allThreads, FaultAnswered page decline u v) := by
  intro at_
  have hexec : exec i s = .next (at_.reply_ page decline) := by
    rw [hi, State.onPart, if_pos hp]
    rfl
  refine ⟨fun h => hexec.trans (congrArg _ (if_pos h)), fun h => ⟨_, hexec, ?_⟩⟩
  rw [show at_.reply_ page decline = at_.faultReply page decline from if_neg (not_not.2 h)]
  obtain ⟨hmem, hfaults, r, hr, hthreads⟩ := faultReply_facts page decline at_
  refine ⟨hmem, hfaults, fun u hu hg hst hd => ⟨_, ?_, answeredThread_parked (clk := at_.dev.clk) hr hg hst hd⟩⟩
  rw [hthreads]
  exact List.mem_map_of_mem hu

/-! ## Stack growth (R138) -/

theorem zeroRange_get (first n a : Nat) (s : State) : Mem.get (s.zeroRange first n).mem a = if first ≤ a ∧ a < first + n then 0 else Mem.get s.mem a := by
  refine (Mem.get_filter s.mem (fun k => !(decide (first ≤ k) && decide (k < first + n))) a).trans ?_
  by_cases h : first ≤ a ∧ a < first + n
  · rw [if_pos h, if_neg (by simp [h])]
    rfl
  · rw [if_neg h, if_pos (by simp; omega)]

theorem buildTables_kept {dev va n tbl k : Nat} {tables : List Nat} {s t : State} (h : buildTables dev va n tbl tables s = some (k, t)) : t.thr = s.thr ∧ t.dev = s.dev := by
  induction n generalizing tbl tables s with
  | zero => cases h
  | succ n ih =>
    unfold buildTables at h
    simp only [] at h
    split at h
    · cases h; exact ⟨rfl, rfl⟩
    · split at h
      · split at h
        · exact ih h
        · cases h
      · split at h
        · obtain ⟨ht, hd⟩ := ih h
          exact ⟨ht, hd⟩
        · cases h

/-- Tables that stand are taken as they are. -/
theorem buildTables_standing {dev va n tbl e : Nat} {tables : List Nat} {s : State} (h : entryPlace s.mem dev va 0 n tbl = some e) : buildTables dev va n tbl tables s = some (e, s) := by
  induction n generalizing tbl with
  | zero => cases h
  | succ n ih =>
    unfold entryPlace at h
    unfold buildTables
    simp only [] at h ⊢
    split at h
    · next h0 => rw [if_pos h0, Option.some.inj h]
    · next h0 =>
      rw [if_neg h0]
      split at h
      · next hv =>
        simp only [Bool.and_eq_true] at hv
        obtain ⟨⟨hvalid, hptr⟩, hgood⟩ := hv
        rw [if_pos hvalid, if_pos (by rw [hptr, hgood]; rfl)]
        exact ih h
      · cases h

/-- A page of a thread's own stack that is not mapped may be mapped now. -/
def Grows (page frame : Nat) (tables : List Nat) (s : State) : Prop := s.thr.status = .parked page ∧ s.ownStack (page * 2 ^ 16) = true ∧ s.thr.due = none ∧ s.translate (page * 2 ^ 16) = .miss ∧ frame < 2 ^ 36
  ∧ (∀ t ∈ tables, t < 2 ^ 39) ∧ s.part.ptroot.toNat % 2 = 1

theorem stackLeaf_eq (frame : Nat) : stackLeaf frame = 7 + frame * 2 ^ 16 + 4 * 2 ^ 57 := by
  unfold stackLeaf
  omega

/-- A zeroed page under the leaf entry at `e`. -/
theorem mapped_get (e page v a : Nat) (s : State) : Mem.get ((s.zeroPage page).perform e (toBytes 16 v)).mem a =
    if e ≤ a ∧ a < e + 16 then (toBytes 16 v).getD (a - e) 0 else if page ≤ a ∧ a < page + 2 ^ 16 then 0 else Mem.get s.mem a := by
  rw [State.perform_get, toBytes_length, State.zeroPage, zeroRange_get]

theorem growStack_eq {page frame e : Nat} {tables : List Nat} {s s0 : State} (h : Grows page frame tables s)
    (hb : buildTables s.part.dev (page * 2 ^ 16) 5 (field s.part.ptroot.toNat 51 12 * 2 ^ 12) tables s = some (e, s0)) :
    growStack frame tables s = some { (s0.zeroPage (keyOf s.part.dev (frame * 2 ^ 16))).perform e (toBytes 16 (stackLeaf frame)) with
      thr := ((s0.zeroPage (keyOf s.part.dev (frame * 2 ^ 16))).perform e (toBytes 16 (stackLeaf frame))).thr.retry ((s0.zeroPage (keyOf s.part.dev (frame * 2 ^ 16))).perform e (toBytes 16 (stackLeaf frame))).dev.clk } := by
  obtain ⟨hst, hown, hdue, hmiss, hframe, htables, hroot⟩ := h
  have hbit : bit s.part.ptroot.toNat 0 = true := by rw [bit, Nat.testBit_zero, hroot]; exact decide_eq_true rfl
  have hall : tables.all (fun t => decide (t < 2 ^ 39)) = true := List.all_eq_true.2 (fun t ht => decide_eq_true (htables t ht))
  unfold growStack
  simp only [hst, hbit, if_true, hb]
  refine whenDue_true ?_ _
  simp only [hown, hdue, hmiss, hall, hframe, Option.isNone_none, decide_true, Bool.and_self]

theorem growStack_grows {page frame e : Nat} {tables : List Nat} {s s0 : State} (h : Grows page frame tables s)
    (hb : buildTables s.part.dev (page * 2 ^ 16) 5 (field s.part.ptroot.toNat 51 12 * 2 ^ 12) tables s = some (e, s0)) :
    ∃ t, growStack frame tables s = some t ∧ t.thr = s.thr.retry s.dev.clk ∧ ∀ a, Mem.get t.mem a =
      if e ≤ a ∧ a < e + 16 then (toBytes 16 (7 + frame * 2 ^ 16 + 4 * 2 ^ 57)).getD (a - e) 0
      else if keyOf s.part.dev (frame * 2 ^ 16) ≤ a ∧ a < keyOf s.part.dev (frame * 2 ^ 16) + 2 ^ 16 then 0 else Mem.get s0.mem a := by
  obtain ⟨hthr, hdev⟩ := buildTables_kept hb
  have heq := growStack_eq h hb
  have hget := fun a => mapped_get e (keyOf s.part.dev (frame * 2 ^ 16)) (stackLeaf frame) a s0
  have hkept : ∀ p, (s0.zeroPage p).thr = s0.thr ∧ (s0.zeroPage p).dev = s0.dev := fun p => ⟨rfl, rfl⟩
  generalize hp : keyOf s.part.dev (frame * 2 ^ 16) = p at heq hget ⊢
  obtain ⟨hz, hzd⟩ := hkept p
  generalize hv : stackLeaf frame = v at heq hget
  rw [stackLeaf_eq] at hv
  refine ⟨_, heq, ?_, ?_⟩
  · show (s0.zeroPage p).thr.retry (s0.zeroPage p).dev.clk = _
    rw [hz, hzd, hthr, hdev]
  · rw [hv]
    exact hget

/-! ## Translations of the host and TLBINV (R310, R312, R318) -/

theorem atsInvalidates_eq {iova : Nat} {s : State} : atsInvalidates iova s =
    whenDue (!((lookup iova s.part.ats).any (fun h => s.usesKeys s.part.dev s.part.pid (keyOf hostDev (h * 2 ^ 16) / 2 ^ 16))))
      { State.mapCores (fun c => if c.dev = s.part.dev then { c with faultBuf := [] } else c) s with
        part := { s.part with ats := Bits.erase iova s.part.ats, atsRefused := s.part.atsRefused.filter (fun x => x ≠ iova) } } := by
  unfold atsInvalidates
  cases h : lookup iova s.part.ats with
  | none => simp only [h, Option.any_none]
  | some x => simp only [h, Option.any_some]

theorem exec_onPart {i : Instr} {dev pid : Nat} {f : State → Option State} {s t : State} (hi : exec i s = s.onPart dev pid f) (hp : pid < 32) (h : (f (s.focusPart dev pid)).getD s = t) : exec i s = .next t := by
  rw [hi, State.onPart, if_pos hp, h]

end Sys2Proof.Claims
end

section
/-!
PROOFS. Integrity checks, refetched pages, and the events of paging (O34; R275, R337).
-/
namespace Sys2Proof.Claims
open Machine Bits Encoding

/-! ## Memory and the promoted pages, while a node rolls back or ends -/

/-- Memory and the promoted pages are as they were. -/
def PagesKept (s t : State) : Prop := t.mem = s.mem ∧ t.promoted = s.promoted

theorem pagesKept_refl (s : State) : PagesKept s s := ⟨rfl, rfl⟩

theorem PagesKept.trans {s t u : State} (h1 : PagesKept s t) (h2 : PagesKept t u) : PagesKept s u := ⟨h2.1.trans h1.1, h2.2.trans h1.2⟩

theorem Reported.pagesKept {s t : State} (h : Reported s t) : PagesKept s t := ⟨h.mem, (congrArg State.promoted (show t = _ from h) :)⟩

theorem CoreServed.pagesKept {s t : State} (h : CoreServed s t) : PagesKept s t := ⟨h.mem, by obtain ⟨f, k, -, -, e⟩ := h; rw [e]⟩

theorem changedSince_pagesKept (old : Core) (s : State) : PagesKept s (s.changedSince old) := (changedSince_served old s).pagesKept

theorem dropShadow_pagesKept (gid : Nat) (s : State) : PagesKept s (s.dropShadow gid) := by
  rw [dropShadow_eq]
  generalize s.shadowsOf gid = gs
  induction gs generalizing s with
  | nil => exact pagesKept_refl s
  | cons g gs ih =>
    rw [List.foldl_cons]
    have hrun : PagesKept s (dropRun s g) := by
      unfold dropRun
      refine PagesKept.trans (t := State.updCore g.dev g.core (fun c => (c.restoreTiles g.gid).freeGroup g.gid) (s.discardJobs (fun j => j.gid = g.gid))) ⟨State.updCore_mem .., State.updCore_promoted ..⟩ ?_
      exact PagesKept.trans ⟨rfl, rfl⟩ (changedSince_pagesKept ..)
    exact hrun.trans (ih _)

theorem endGroup_pagesKept (s : State) : PagesKept s s.endGroup := by
  have hd := dropShadow_pagesKept s.grp.gid s
  unfold State.endGroup
  simp only []
  generalize s.dropShadow s.grp.gid = d at hd
  generalize hk : State.mapCores _ _ = k
  have hkept : PagesKept d k := by
    rw [← hk]
    exact ⟨rfl, rfl⟩
  exact (hd.trans hkept).trans (PagesKept.trans (t := k.forget s.grp.gid) ⟨rfl, rfl⟩ (changedSince_pagesKept ..))

theorem abortNode_pagesKept {s : State} (hs : s.grp.shadow = 0) : PagesKept s s.abortNode := by
  unfold State.abortNode
  rw [if_neg (not_not.2 hs)]
  have hend := endGroup_pagesKept s.discardStaged.discardPhaseJobs
  simp only []
  generalize s.discardStaged.discardPhaseJobs.endGroup = e at hend ⊢
  have hr := report_reported (s.lau.logDev s.grp.dev) e.lau.pid 0x11 ⟨0, s.grp.core⟩ s.lau.number
    { e with lau := { e.lau with failed := true, state := if e.lau.state = .dispatching ∨ e.lau.state = .running then LaunchState.aborting else e.lau.state } }
  exact PagesKept.trans (show PagesKept s e from hend) (show PagesKept e _ from hr.pagesKept)

theorem requeue_pagesKept (s : State) : PagesKept s s.requeue := by
  have hsettle : ∀ u : State, PagesKept u u.settleQueued := by
    intro u
    unfold State.settleQueued
    split
    · exact pagesKept_refl u
    · obtain ⟨c, tiles, seqrs, pairs, jobs, h⟩ := saveGroup_saved (u.core.quarantined || decide (u.part.pstat ≠ 0)) u
      have hk : PagesKept u _ := h.pagesKept
      simp only []
      split
      · exact hk
      · exact hk
  unfold State.requeue
  simp only []
  split
  · exact pagesKept_refl s
  · exact PagesKept.trans ⟨rfl, rfl⟩ (hsettle _)

theorem rollbackGroup_pagesKept {s : State} (hb : s.grp.foreignBytes = []) : PagesKept s s.rollbackGroup := by
  have hdrop := dropShadow_pagesKept s.grp.gid s
  have hgone : (s.dropShadow s.grp.gid).discardStaged.discardPhaseJobs.grp.foreignBytes = [] := by
    show (s.dropShadow s.grp.gid).grp.foreignBytes = []
    rcases (dropShadow_lingers s.grp.gid s).1 with h | h
    · rw [h]; exact hb
    · rw [h]; rfl
  have hkept : PagesKept s (s.dropShadow s.grp.gid).discardStaged.discardPhaseJobs := hdrop
  unfold State.rollbackGroup
  generalize (s.dropShadow s.grp.gid).discardStaged.discardPhaseJobs = u at hgone hkept
  simp only [hgone, List.foldl_nil]
  exact PagesKept.trans (show PagesKept s _ from hkept) (requeue_pagesKept _)

/-- A node with nothing under way, and no bytes of other jobs added in its phase. -/
def Quiescent (s : State) : Prop := s.grp.shadow = 0 ∧ (∀ a ∈ s.inflight, a.t.gid ≠ s.grp.gid) ∧ (∀ t ∈ s.groupThreads s.grp.gid, t.region = none) ∧ s.grp.foreignBytes = []

theorem performGroup_quiescent {s : State} (h : Quiescent s) : s.performGroup = s := by
  obtain ⟨-, hin, hreg, -⟩ := h
  unfold State.performGroup
  rw [performAll_none (fun a ha => decide_eq_false (hin a ha))]
  exact settleRegions_none hreg

theorem consume_pagesKept {s : State} (h : Quiescent s) (code : Nat) : PagesKept s (s.consume code).coreChanged := by
  have hp := performGroup_quiescent h
  obtain ⟨h0, -, -, hb⟩ := h
  unfold State.consume State.consumeError
  rw [hp, if_neg (not_not.2 h0)]
  simp only []
  have hr := report_reported s.grp.dev s.lau.pid code s.coreUnit s.lau.number s
  have hgrp : (s.report s.grp.dev s.lau.pid code s.coreUnit s.lau.number).grp = s.grp := (congrArg State.grp (show _ = _ from hr) :)
  refine PagesKept.trans ?_ (coreChanged_served _).pagesKept
  split
  · exact hr.pagesKept.trans (abortNode_pagesKept (by rw [hgrp]; exact h0))
  · exact hr.pagesKept.trans (rollbackGroup_pagesKept (by rw [hgrp]; exact hb))

/-! ## The end of a node, whatever its number -/

theorem endGroup_grp (s : State) : s.endGroup.grp = Group.none := by
  rcases Nat.eq_zero_or_pos s.grp.gid with h0 | h0
  · unfold State.endGroup
    simp only []
    obtain ⟨f, -, hf⟩ := changedSince_stall ((s.dropShadow s.grp.gid).discardJobs (fun j => j.gid = s.grp.gid && !j.freed)).core (State.forget s.grp.gid (State.mapCores _ _))
    rw [hf]
    show (if (s.dropShadow s.grp.gid).grp.gid = s.grp.gid then Group.none else (s.dropShadow s.grp.gid).grp) = _
    rcases (dropShadow_lingers s.grp.gid s).1 with h | h
    · rw [h, if_pos rfl]
    · rw [h, ite_self]
  · exact (endGroup_facts (Nat.ne_of_gt h0)).1

theorem abortNode_gone {s : State} (hs : s.grp.shadow = 0) : s.abortNode.grp = Group.none ∧ s.abortNode.lau.failed = true := by
  have hend := endGroup_grp s.discardStaged.discardPhaseJobs
  unfold State.abortNode
  rw [if_neg (not_not.2 hs)]
  simp only []
  generalize s.discardStaged.discardPhaseJobs.endGroup = e at hend ⊢
  have hr := report_reported (s.lau.logDev s.grp.dev) e.lau.pid 0x11 ⟨0, s.grp.core⟩ s.lau.number
    { e with lau := { e.lau with failed := true, state := if e.lau.state = .dispatching ∨ e.lau.state = .running then LaunchState.aborting else e.lau.state } }
  exact ⟨(congrArg State.grp (show _ = _ from hr) :).trans hend, congrArg (fun s => s.lau.failed) (show _ = _ from hr)⟩

theorem postHeld_lau (n : Nat) (s : State) : (postHeld n s).grp = s.grp ∧ (postHeld n s).lau = s.lau := by
  induction n generalizing s with
  | zero => exact ⟨rfl, rfl⟩
  | succ n ih =>
    unfold postHeld
    simp only []
    split
    · exact ⟨rfl, rfl⟩
    · split
      · exact ⟨rfl, rfl⟩
      · split
        · exact ⟨rfl, rfl⟩
        · next f _ _ _ k _ =>
          obtain ⟨hg, hl⟩ := ih (State.msixSignal s.part.dev s.part.pid 64 _)
          refine ⟨hg.trans ?_, hl.trans ?_⟩
          · exact (congrArg State.grp (show _ = _ from msixSignal_reported ..) :).trans (by rw [visit_eq])
          · exact (congrArg State.lau (show _ = _ from msixSignal_reported ..) :).trans (by rw [visit_eq])

theorem atsRequest_reported (page : Nat) (s : State) : Reported s (s.atsRequest page) := by
  unfold State.atsRequest
  split
  · exact emit_reported ..
  · exact reported_refl s

theorem postFault_lau (page kind : Nat) (core : Word) (s : State) : (s.postFault page kind core).grp = s.grp ∧ (s.postFault page kind core).lau = s.lau := by
  unfold State.postFault
  split
  · exact ⟨rfl, rfl⟩
  · obtain ⟨hg, hl⟩ := postHeld_lau _ _
    have hr : Reported s (if kind = 2 then s.atsRequest page else s) := by
      split
      · exact atsRequest_reported page s
      · exact reported_refl s
    exact ⟨hg.trans (congrArg State.grp (show _ = _ from hr) :), hl.trans (congrArg State.lau (show _ = _ from hr) :)⟩

theorem secondFailure_ends {s : State} (h : Quiescent s) (hseq : s.grp.seq = 0xFFFFFFFF) (va : Nat) : (s.secondFailure va).coreChanged.grp = Group.none ∧ (s.secondFailure va).coreChanged.lau.failed = true := by
  have hp := performGroup_quiescent h
  obtain ⟨h0, -⟩ := h
  obtain ⟨hgrp, hfail⟩ := abortNode_gone h0
  obtain ⟨hpg, hpl⟩ := postFault_lau va 8 0xFFFFFFFF s.abortNode
  have hsecond : s.secondFailure va = s.abortNode.postFault va 8 0xFFFFFFFF := by
    unfold State.secondFailure
    rw [hp]
    exact if_pos hseq
  have hserved := coreChanged_served (s.secondFailure va)
  have hnone : (s.secondFailure va).grp = Group.none := by rw [hsecond, hpg, hgrp]
  exact ⟨(hserved.grp_none (by rw [hnone]; rfl)).trans hnone, by rw [hserved.lau, hsecond, hpl]; exact hfail⟩

/-! ## Integrity checks (R337, R275) -/

theorem wakePage_thr (page : Nat) (s : State) : (s.wakePage page).thr = (if s.thr.due.isNone && s.parksOn page s.thr then s.thr.retry s.dev.clk else s.thr) := rfl

theorem parksOn_parked {page : Nat} {s : State} {t : Thread} (h : ∀ va, t.status ≠ .parked va) : s.parksOn page t = false := by
  unfold State.parksOn
  split
  · next va _ _ hst _ _ => exact absurd hst (h va)
  · rfl

/-- A block of a promoted page that a parked thread reads first, not yet checked. -/
def Checks (page block va : Nat) (p : Promoted) (s : State) : Prop := s.thr.status = .parked va ∧ s.thr.due = none ∧ s.running = true ∧ s.parksOn page s.thr = true ∧ s.promoted.find? (fun p => p.page = page) = some p
  ∧ block < 16 ∧ block ∉ p.checked ∧ p.refetch = false

section
variable {page block va : Nat} {p : Promoted} {s : State}

theorem blockKey_page (hb : block < 16) : (page * 2 ^ 16 + 4096 * block) / 2 ^ 16 = page := by omega
theorem blockKey_block (hb : block < 16) : (page * 2 ^ 16 + 4096 * block) % 2 ^ 16 / 4096 = block := by omega

theorem checkBlock_eq (h : Checks page block va p s) : checkBlock page block s =
    some (if crc64 (Mem.read s.mem (page * 2 ^ 16 + 4096 * block) 4096) = p.tags.getD block 0 then (s.checkedTag (page * 2 ^ 16 + 4096 * block) true).wakePage page
      else if s.tagFailed (page * 2 ^ 16 + 4096 * block) then (s.secondFailure va).coreChanged else ((s.checkedTag (page * 2 ^ 16 + 4096 * block) false).consume 0x12).coreChanged) := by
  obtain ⟨hst, -, hrun, hparks, hp, hb, hnew, href⟩ := h
  have hpage : p.page = page := by simpa using List.find?_some hp
  have hdue : (s.running && s.parksOn page s.thr && decide (block < 16) && !(p.checked.contains block) && !p.refetch) = true := by
    simp [hrun, hparks, hb, hnew, href]
  unfold checkBlock
  simp only [hst, hp]
  rw [whenDue_true hdue]
  simp only [State.tagOk, hpage, decide_eq_true_eq]

theorem checkedTag_passed (h : Checks page block va p s) : ∃ q ∈ (s.checkedTag (page * 2 ^ 16 + 4096 * block) true).promoted, q = { p with checked := block :: p.checked, bad := p.bad.filter (fun b => b ≠ block) } := by
  obtain ⟨-, -, -, -, hp, hb, hnew, -⟩ := h
  have hpage : p.page = page := by simpa using List.find?_some hp
  refine ⟨_, List.mem_map.2 ⟨p, List.mem_of_find?_eq_some hp, rfl⟩, ?_⟩
  rw [blockKey_page hb, blockKey_block hb, if_neg (not_not.2 hpage), if_pos rfl]
  have hfresh : p.checked.filter (fun b => b ≠ block) = p.checked := List.filter_eq_self.2 (fun b hbm => decide_eq_true (fun e => hnew (by rwa [e] at hbm)))
  rw [hfresh]

theorem checkedTag_failed (h : Checks page block va p s) : ∃ q ∈ (s.checkedTag (page * 2 ^ 16 + 4096 * block) false).promoted, q = { p with bad := block :: p.bad.filter (fun b => b ≠ block), refetch := true } := by
  obtain ⟨-, -, -, -, hp, hb, -, -⟩ := h
  have hpage : p.page = page := by simpa using List.find?_some hp
  refine ⟨_, List.mem_map.2 ⟨p, List.mem_of_find?_eq_some hp, rfl⟩, ?_⟩
  rw [blockKey_page hb, blockKey_block hb, if_neg (not_not.2 hpage), if_neg Bool.false_ne_true]

theorem checkBlock_passes (h : Checks page block va p s) (hgood : crc64 (Mem.read s.mem (page * 2 ^ 16 + 4096 * block) 4096) = p.tags.getD block 0) :
    ∃ t, checkBlock page block s = some t ∧ t.mem = s.mem ∧ t.thr = s.thr.retry s.dev.clk ∧ ∃ q ∈ t.promoted, q = { p with checked := block :: p.checked, bad := p.bad.filter (fun b => b ≠ block) } := by
  have hq := checkedTag_passed h
  have heq := checkBlock_eq h
  rw [if_pos hgood] at heq
  obtain ⟨-, hdue, -, hparks, -⟩ := h
  refine ⟨_, heq, rfl, ?_, hq⟩
  rw [wakePage_thr]
  refine if_pos ?_
  show (s.thr.due.isNone && s.parksOn page s.thr) = true
  rw [hdue, hparks]
  rfl

theorem checkBlock_rolls (h : Checks page block va p s) (hbad : ¬crc64 (Mem.read s.mem (page * 2 ^ 16 + 4096 * block) 4096) = p.tags.getD block 0)
    (hf : s.tagFailed (page * 2 ^ 16 + 4096 * block) = false) (hquiet : Quiescent s) :
    ∃ t, checkBlock page block s = some t ∧ t.mem = s.mem ∧ ∃ q ∈ t.promoted, q = { p with bad := block :: p.bad.filter (fun b => b ≠ block), refetch := true } := by
  have hq := checkedTag_failed h
  have heq := checkBlock_eq h
  rw [if_neg hbad, hf, if_neg Bool.false_ne_true] at heq
  obtain ⟨hmem, hprom⟩ := consume_pagesKept (s := s.checkedTag (page * 2 ^ 16 + 4096 * block) false) hquiet 0x12
  exact ⟨_, heq, hmem, by rw [hprom]; exact hq⟩

theorem checkBlock_ends (h : Checks page block va p s) (hbad : ¬crc64 (Mem.read s.mem (page * 2 ^ 16 + 4096 * block) 4096) = p.tags.getD block 0)
    (hf : s.tagFailed (page * 2 ^ 16 + 4096 * block) = true) (hquiet : Quiescent s) (hseq : s.grp.seq = 0xFFFFFFFF) :
    ∃ t, checkBlock page block s = some t ∧ t.grp = Group.none ∧ t.lau.failed = true := by
  have heq := checkBlock_eq h
  rw [if_neg hbad, if_pos hf] at heq
  exact ⟨_, heq, secondFailure_ends hquiet hseq va⟩
end

/-! ## A page fetched again -/

/-- Cells that agree on a key leave their value there. -/
theorem get_writeCells_agree {xs : List (Nat × Byte)} {m : List Host.Cell} {a : Nat} {v : Byte} (h : ∀ w, (a, w) ∈ xs → w = v) (hm : (∃ w, (a, w) ∈ xs) ∨ Mem.get m a = v) :
    Mem.get (Mem.writeCells m xs) a = v := by
  induction xs generalizing m with
  | nil => exact hm.resolve_left (fun ⟨_, hw⟩ => List.not_mem_nil hw)
  | cons x xs ih =>
    obtain ⟨k, w⟩ := x
    refine ih (fun u hu => h u (List.mem_cons_of_mem _ hu)) ?_
    by_cases hk : k = a
    · subst hk
      right
      rw [Mem.get_set, if_pos rfl]
      exact h w List.mem_cons_self
    · rw [Mem.get_set, if_neg (Ne.symm hk)]
      refine hm.imp_left (fun ⟨u, hu⟩ => ⟨u, ?_⟩)
      rcases List.mem_cons.1 hu with he | he
      · exact absurd (congrArg Prod.fst he).symm hk
      · exact he

/-- The cells of a page that arrive with it. -/
def pageCells (page : Nat) (bytes : List (Nat × Byte)) : List (Nat × Byte) := (bytes.filter (fun b => decide (b.1 < 2 ^ 16))).map (fun b => (page * 2 ^ 16 + b.1, b.2))

theorem mem_pageCells {page a : Nat} {v : Byte} {bytes : List (Nat × Byte)} : (a, v) ∈ pageCells page bytes ↔ ∃ o < 2 ^ 16, (o, v) ∈ bytes ∧ a = page * 2 ^ 16 + o := by
  simp only [pageCells, List.mem_map, List.mem_filter, decide_eq_true_eq, Prod.exists, Prod.mk.injEq]
  constructor
  · rintro ⟨o, w, ⟨hm, ho⟩, rfl, rfl⟩
    exact ⟨o, ho, hm, rfl⟩
  · rintro ⟨o, ho, hm, rfl⟩
    exact ⟨o, v, ⟨hm, ho⟩, rfl, rfl⟩

theorem refetchPage_fetches {page : Nat} {bytes : List (Nat × Byte)} {p : Promoted} {s : State} (hp : s.promoted.find? (fun p => p.page = page) = some p) (hr : p.refetch = true) :
    ∃ t, refetchPage page bytes s = some t ∧ (∃ q ∈ t.promoted, q = { p with refetch := false, checked := [] }) ∧ ((∀ va, s.thr.status ≠ .parked va) → t.thr = s.thr)
      ∧ t.mem = Mem.writeCells (s.zeroPage (page * 2 ^ 16)).mem (pageCells page bytes) := by
  have hpage : p.page = page := by simpa using List.find?_some hp
  have heq : refetchPage page bytes s = some (State.wakePage page { s.zeroPage (page * 2 ^ 16) with mem := Mem.writeCells (s.zeroPage (page * 2 ^ 16)).mem (pageCells page bytes), promoted := (s.zeroPage (page * 2 ^ 16)).promoted.map (fun q => if q.page = page then { q with refetch := false, checked := [] } else q) }) := by
    unfold refetchPage
    simp only [hp, hr, whenDue_true]
    rfl
  have hzero : (s.zeroPage (page * 2 ^ 16)).promoted = s.promoted ∧ (s.zeroPage (page * 2 ^ 16)).thr = s.thr := ⟨rfl, rfl⟩
  generalize s.zeroPage (page * 2 ^ 16) = z at heq hzero ⊢
  obtain ⟨hprom, hthr⟩ := hzero
  refine ⟨_, heq, ⟨_, List.mem_map.2 ⟨p, by rw [hprom]; exact List.mem_of_find?_eq_some hp, if_pos hpage⟩, rfl⟩, fun hno => ?_, rfl⟩
  rw [wakePage_thr]
  refine (if_neg ?_).trans hthr
  rw [parksOn_parked (by show ∀ va, z.thr.status ≠ _; rw [hthr]; exact hno), Bool.and_false]
  exact Bool.false_ne_true

end Sys2Proof.Claims
end

section
/-!
PROOFS. The events of paging (O34).
-/
namespace Sys2Proof.Claims
open Machine Bits Encoding

/-- What stands in a page that has been fetched again. -/
theorem refetched_get {page : Nat} {bytes : List (Nat × Byte)} {s t : State} (h : t.mem = Mem.writeCells (s.zeroPage (page * 2 ^ 16)).mem (pageCells page bytes)) :
    (∀ a, (a < page * 2 ^ 16 ∨ page * 2 ^ 16 + 2 ^ 16 ≤ a) → Mem.get t.mem a = Mem.get s.mem a)
      ∧ (∀ o v, o < 2 ^ 16 → (o, v) ∈ bytes → (∀ w, (o, w) ∈ bytes → w = v) → Mem.get t.mem (page * 2 ^ 16 + o) = v)
      ∧ (∀ o < 2 ^ 16, (∀ w, (o, w) ∉ bytes) → Mem.get t.mem (page * 2 ^ 16 + o) = 0) := by
  have hzero := fun a => zeroRange_get (page * 2 ^ 16) (2 ^ 16) a s
  rw [h]
  unfold State.zeroPage
  refine ⟨fun a ha => ?_, fun o v ho hv hall => ?_, fun o ho hno => ?_⟩
  · rw [Mem.get_writeCells_other, hzero, if_neg (by omega)]
    rintro ⟨b, v⟩ hb rfl
    obtain ⟨o, ho, -, hbo⟩ := mem_pageCells.1 hb
    omega
  · refine get_writeCells_agree (fun w hw => ?_) (.inl ⟨v, mem_pageCells.2 ⟨o, ho, hv, rfl⟩⟩)
    obtain ⟨o', -, hw', he⟩ := mem_pageCells.1 hw
    exact hall w ((Nat.add_left_cancel he) ▸ hw')
  · rw [Mem.get_writeCells_other, hzero, if_pos (by omega)]
    rintro ⟨b, v⟩ hb hbo
    obtain ⟨o', -, hv, he⟩ := mem_pageCells.1 hb
    exact hno v ((Nat.add_left_cancel (hbo.symm.trans he)) ▸ hv)

section
variable {u : State}

theorem tlbinvStep_sets (h : u.part.tlbinv = false) : tlbinvStep u = some { u with part := { u.part with tlbinv := true } } := by
  unfold tlbinvStep
  simp only [h, Bool.not_false, if_true]

theorem tlbinvStep_clears (h : u.part.tlbinv = true) (hu : u.usesPages 0 u.part.dev u.part.pid 0 (2 ^ 48) = false) :
    tlbinvStep u = some { u.dropPages u.part.dev u.part.pid 0 (2 ^ 48) with part := { u.part with tlbinv := false } } := by
  unfold tlbinvStep
  simp only [h, hu, Bool.not_true, Bool.false_eq_true, if_false, Bool.not_false, whenDue_true]

theorem tlbinvStep_waits (h : u.part.tlbinv = true) (hu : u.usesPages 0 u.part.dev u.part.pid 0 (2 ^ 48) = true) : tlbinvStep u = none := by
  unfold tlbinvStep
  simp only [h, hu, Bool.not_true, Bool.false_eq_true, if_false]
  rfl
end

/-- A TLBINV write that finds the bit set waits, or drops every translation of the partition. -/
theorem tlbinv_event {dev pid : Nat} {s : State} (hp : pid < 32) :
    let at_ := s.focusPart dev pid
    let uses := at_.usesPages 0 at_.part.dev at_.part.pid 0 (2 ^ 48)
    (at_.part.tlbinv = false → exec (.tlbinvRegister dev pid) s = .next { at_ with part := { at_.part with tlbinv := true } })
     ∧ (at_.part.tlbinv = true → uses = false → ∃ t, exec (.tlbinvRegister dev pid) s = .next t ∧ t.mem = at_.mem ∧ t.part = { at_.part with tlbinv := false }
         ∧ ∀ c ∈ t.allCores, c.dev = at_.part.dev → ∀ e ∈ c.tlb, e.pid = at_.part.pid → 2 ^ 48 ≤ e.page)
     ∧ (at_.part.tlbinv = true → uses = true → exec (.tlbinvRegister dev pid) s = .next s) := by
  intro at_ uses
  refine ⟨fun h => exec_onPart (f := tlbinvStep) rfl hp ?_, fun h hu => ⟨{ at_.dropPages at_.part.dev at_.part.pid 0 (2 ^ 48) with part := { at_.part with tlbinv := false } },
      exec_onPart (f := tlbinvStep) rfl hp ?_, rfl, rfl, fun c hc hd e he hpid => ?_⟩, fun h hu => exec_onPart (f := tlbinvStep) rfl hp ?_⟩
  · rw [tlbinvStep_sets h, Option.getD_some]
  · rw [tlbinvStep_clears h hu, Option.getD_some]
  · have hgone := dropPages_tlb (s := at_) (c := c) hc hd he
    by_contra hlt
    exact hgone ⟨hpid, Nat.zero_le _, by omega⟩
  · rw [tlbinvStep_waits h hu, Option.getD_none]

/-- An invalidation waits for the accesses that use the translation. -/
theorem atsInvalidation_event {dev pid iova : Nat} {s : State} (hp : pid < 32) :
    let at_ := s.focusPart dev pid
    let used := ∃ h, lookup iova at_.part.ats = some h ∧ at_.usesKeys at_.part.dev at_.part.pid (keyOf hostDev (h * 2 ^ 16) / 2 ^ 16) = true
    (used → exec (.atsInvalidationRequest dev pid iova) s = .next s) ∧ (¬used → exec (.atsInvalidationRequest dev pid iova) s = .next
      { State.mapCores (fun c => if c.dev = at_.part.dev then { c with faultBuf := [] } else c) at_ with
             part := { at_.part with ats := Bits.erase iova at_.part.ats, atsRefused := at_.part.atsRefused.filter (fun x => x ≠ iova) } }) := by
  intro at_ used
  have hany : (lookup iova at_.part.ats).any (fun h => at_.usesKeys at_.part.dev at_.part.pid (keyOf hostDev (h * 2 ^ 16) / 2 ^ 16)) = true ↔ used := Option.any_eq_true _ _
  refine ⟨fun h => exec_onPart (f := atsInvalidates iova) rfl hp ?_, fun h => exec_onPart (f := atsInvalidates iova) rfl hp ?_⟩
  · rw [atsInvalidates_eq, whenDue_false (by rw [hany.2 h]; rfl)]
    rfl
  · rw [atsInvalidates_eq, whenDue_true (by rw [Bool.eq_false_iff.2 (fun e => h (hany.1 e))]; rfl)]
    rfl

/-- Settles O34: a reply maps the parked threads, stack growth writes one leaf over a zeroed page in the tables it finds or makes, an integrity check marks its block, and a refetched page holds the bytes that arrived. -/
theorem pagingEvents : Obligations.PagingEvents := by
  unfold Obligations.PagingEvents
  intro k dev pid page s at_
  refine ⟨?_, fun frame tables e => ?_, fun iova hp => ⟨fun h => exec_onPart (f := fun s => some (s.atsReturns iova (some h))) rfl hp rfl, exec_onPart (f := fun s => some (s.atsReturns iova none)) rfl hp rfl, ?_⟩,
    fun hp => tlbinv_event hp, fun block va p => ?_, fun bytes p hp hr => ?_⟩
  · intro reply
    exact ⟨fun hp => faultReply_event rfl hp, fun hp => faultReply_event rfl hp⟩
  · intro grows root maps
    refine ⟨happens_onThread rfl (fun s1 ⟨hg, he⟩ => growStack_grows hg (buildTables_standing he)), fun s0 => happens_onThread rfl (fun s1 ⟨hg, hb⟩ => growStack_grows hg hb)⟩
  · intro used
    obtain ⟨hu, hn⟩ := atsInvalidation_event (dev := dev) (iova := iova) (s := s) hp
    by_cases h : used
    · rw [if_pos h]; exact hu h
    · rw [if_neg h]; exact hn h
  · intro checks good failed quiet rest
    exact ⟨happens_onThread rfl (fun s1 ⟨hc, hg⟩ => checkBlock_passes hc hg), happens_onThread rfl (fun s1 ⟨hc, hg, hf, hq⟩ => checkBlock_rolls hc hg hf hq),
      happens_onThread rfl (fun s1 ⟨hc, hg, hf, hq, hseq⟩ => checkBlock_ends hc hg hf hq hseq)⟩
  · obtain ⟨t, ht, hq, hthr, hmem⟩ := refetchPage_fetches (bytes := bytes) hp hr
    have hexec : exec (.pageRefetch page bytes) s = .next ((refetchPage page bytes s).getD s) := rfl
    rw [ht] at hexec
    exact ⟨t, hexec, hq, hthr, refetched_get hmem⟩

end Sys2Proof.Claims
end

section
/-!
PROOFS. Remote accesses (O37): an arrival at a word whose count stands above its target is not kept as the statement says (R168).
-/
namespace Sys2Proof.Claims
open Machine Bits Encoding

/-! ## The counterexample -/

/-- A thread arrival of thread ⟨1, 0⟩ on its way from device 0 to the first word of device 1. -/
def strayArrival : Access :=
  { serial := 7, t := ⟨1, 0⟩, kind := .sync (.arrive 0 true), dst := 1, key := 2 ^ 52, va := 0, plain := false, remote := true, ordered := false, waits := false, sentAt := 0, lid := 0, tag := 0, ltag := 0,
    gen := 0, refused := false, path := 0, src := 0, acq := false }

/-- It is under way, with a route to device 1. The word there has thread target 0 and thread count 65,535, which no arrival has left (R168): its next arrival needs a 17th bit of the count. -/
def overfullWord : State :=
  { State.reset with mem := [(2 ^ 52 + 10, 0xFF), (2 ^ 52 + 11, 0xFF)], thr := { Thread.none with key := ⟨1, 0⟩, status := .ready }, grp := { Group.none with gid := 1, phase := .running }, dev := { Device.fresh 0 with routes := [(1, 0x80)] }, inflight := [strayArrival] }

theorem overfullWord_arrives : overfullWord.inflight.find? (fun a => a.serial = 7 && a.remote) = some strayArrival ∧ overfullWord.reaches strayArrival = true
    ∧ (overfullWord.dev? strayArrival.dst).ckState ≠ 2 ∧ overfullWord.mayPerform strayArrival = true := by decide +kernel

theorem overfullWord_focus : overfullWord.focus strayArrival.t = some overfullWord := rfl

theorem overfullWord_goes : strayArrival.refused = false ∧ (∃ s2, overfullWord.raceRemote strayArrival = .ok s2) ∧ (strayArrival.kind.isStore = false → overfullWord.tagBad strayArrival.key = false) :=
  ⟨rfl, ⟨overfullWord, rfl⟩, fun _ => rfl⟩

/-- The word counts 65,536 arrivals after this one, and its 16 bits hold none of them. -/
theorem overfullWord_counts : ((remoteArrives 7 overfullWord).getD overfullWord).syncWord (.mem strayArrival.key) ≠
    ((overfullWord.syncWord (.mem strayArrival.key)).apply (overfullWord.syncHeld (.mem strayArrival.key)) 0 true).1 := by decide +kernel

/-- Refutes O37: the clause of a `sarrive` at its destination has no bound on the word's counts. With thread count 65,535 and target 0 in memory, the count after the arrival is 65,536, and the word, which
holds 16 bits of it, reads 0. -/
theorem not_remoteAccessEvents : ¬ Obligations.RemoteAccessEvents := by
  unfold Obligations.RemoteAccessEvents
  intro h
  obtain ⟨harrives, -⟩ := h 7 ⟨1, 0⟩ 0 0 0 0 0 0 overfullWord
  obtain ⟨hfind, hreach, hck, hmay⟩ := overfullWord_arrives
  obtain ⟨-, -, -, harrive, -⟩ := harrives strayArrival overfullWord hfind hreach hck hmay overfullWord_focus
  obtain ⟨t, ht, -, -, hword⟩ := harrive 0 true overfullWord_goes rfl rfl
  have hnext : (remoteArrives 7 overfullWord).getD overfullWord = t := Host.Outcome.next.inj ht
  rw [← hnext] at hword
  exact overfullWord_counts hword

end Sys2Proof.Claims
end

section
/-!
PROOFS. Cross-lane gathers: a lane waits for the others, and completes with them (O16, first part).
-/
namespace Sys2Proof.Claims
open Machine Bits Encoding

/-! ## A lane waits (R110, R111) -/

/-- The lane of `b` waits in the gather of `e`, with its member mask. -/
def gatherWaits (e : Enc) (mask : Word) (b : State) : State :=
  { b with thr := { b.thr with status := .waiting (.gather e.op mask (toWords e) (b.thr.guard e.g e.n)), waitSince := b.dev.clk, waited := 0 } }

theorem bodyCross_waits {e : Enc} {b : State} {mask : Word} (hmask : (if e.form = .x then e.lit else b.read32 e.b) = mask)
    (hlane : mask.getLsbD (b.thr.key.tid % 32) = true) (hall : b.absentLanes mask = false) : bodyCross e b = .ok (gatherWaits e mask b) := by
  simp only [bodyCross, hmask, State.arrive, hlane, hall, Bool.not_true, Bool.and_false, Bool.false_eq_true, if_false]
  rfl

theorem atBody_guard (e : Enc) (s : State) : (atBody e s).thr.guard e.g e.n = s.thr.guard e.g e.n := by rw [atBody_eq]; rfl

/-- An instruction that gathers leaves its thread waiting at itself, guard true or false, with memory as it was. -/
theorem gathered_waits {i : Instr} {e : Enc} {s : State} {mask : Word} {body : Body} (hi : exec i s = s.issue true body e) (hs : Issues e s) (hq : Quiet s)
    (hb : body e (atBody e s) = .ok (gatherWaits e mask (atBody e s))) :
    ∃ t, exec i s = .next t ∧ Waits (.gather e.op mask (toWords e) (s.thr.guard e.g e.n)) (atBody e s).thr.pc s t ∧ t.mem = (atBody e s).mem ∧ t.thr.key = s.thr.key := by
  have hkey : (atBody e s).thr.key = s.thr.key := atBody_key e s
  obtain ⟨hr0, hr1, hr2⟩ := atBody_sameRegs e s
  have hf := atBody_sameFlags e s
  have hquiet : (gatherWaits e mask (atBody e s)).thr.pend.all (fun p => !p.arrived) = true := by
    show (atBody e s).thr.pend.all _ = true
    rw [atBody_pend]
    exact hq
  refine ⟨_, (hi.trans (issue_gathers hs hq)).trans (congrArg Host.Outcome.next ((run_ok hb).trans (retire_wait hkey rfl hquiet))), ⟨?_, rfl, rfl, ⟨hr0, hr1, hr2⟩, hf⟩, rfl, hkey⟩
  rw [← atBody_guard e s]
  rfl

/-! ## The last lane completes the gather (R110, R174) -/

/-- The fields of an L or X form are read back from its words. -/
theorem lx_words (x : LX) (op : BitVec 8) : Encoding.ofWords ((toWords (x.enc op)).getD 0 0) ((toWords (x.enc op)).getD 1 0) ((toWords (x.enc op)).getD 2 0) = some (x.enc op) := by
  refine ofWords_toWords ?_
  cases h : x.lit <;> simp [FieldsFit, LX.enc, h]

/-- The result of a gather, lane by lane, and the flags of the whole operation. -/
def gatherResult (e : Enc) (t : State) : List (Nat × Nat) × BitVec 5 :=
  crossResult e t.lau.nbv (t.liveMembers.map (fun m => (m.1, t.memberReg m.2 e.a (tw e.t)))) (t.liveMembers.map (fun m => (m.1, t.memberReg m.2 e.c 1)))
    (t.liveMembers.map (fun m => (m.1, m.2.getQ e.c.toNat)))

theorem completeGather_thr {e : Enc} {t : State} {w : Wait} (hw : t.thr.status = .waiting w) (hg : ∃ op mask ws live, w = .gather op mask ws live) :
    (t.completeGather e).thr = t.thr.gathered e t.dev.clk (gatherResult e t).1 (gatherResult e t).2 := by
  obtain ⟨op, mask, ws, live, rfl⟩ := hg
  have hin : t.inGather t.thr = true := by simp [State.inGather, hw]
  simp only [State.completeGather, State.mapThreads, hin, decide_true, Bool.and_self, if_true]
  rfl

/-- A lane leaves the gather: it is Ready past the instruction. -/
theorem gathered_ready (t : Thread) (e : Enc) (clk : Nat) (res : List (Nat × Nat)) (fl : BitVec 5) : (t.gathered e clk res fl).status = .ready ∧ (t.gathered e clk res fl).pc = t.npc := by
  unfold Thread.gathered
  split
  · split
    · exact ⟨rfl, (congrArg Thread.npc (Thread.putQ_eq _ _ _) :)⟩
    · exact ⟨rfl, (congrArg Thread.npc (Thread.putDst_eq _ _ _) :)⟩
  · exact ⟨rfl, rfl⟩

/-- What a lane that has a result receives: the flags, and its predicate (`xelect`) or its registers. -/
theorem gathered_result {t : Thread} {e : Enc} {res : List (Nat × Nat)} {v : Nat} (clk : Nat) (fl : BitVec 5) (hv : lookup (t.key.tid % 32) res = some v) :
    t.gathered e clk res fl = ((if e.op = 0x96 then t.putQ e.d.toNat (v ≠ 0) else t.putDst e.d (words (crossWidth e) v)).orFp fl).wake clk := by
  simp only [Thread.gathered, hv]

/-- The gather of the checked-out thread is due, and completes as its words say. -/
theorem gather_completes {e : Enc} {t : State} {mask : Word} {live : Bool} (hfocus : Focused t) (hop : ¬(e.op = 0xE4 || e.op = 0xE5) = true)
    (hwords : Encoding.ofWords ((toWords e).getD 0 0) ((toWords e).getD 1 0) ((toWords e).getD 2 0) = some e) (hst : t.thr.status = .waiting (.gather e.op mask (toWords e) live))
    (hrun : t.running = true) (hmiss : t.missingLanes = []) : exec (.crossLaneGather t.thr.key) t = .next (t.completeGather e) := by
  have hdone : gatherDone t = some (t.completeGather e) := by
    simp only [gatherDone, hst, hrun, hmiss, List.isEmpty_nil, Bool.and_self, whenDue_true, hwords, if_neg hop]
  have hexec : exec (.crossLaneGather t.thr.key) t = t.onThread t.thr.key gatherDone := rfl
  rw [hexec, State.onThread, show t.focus t.thr.key = some t from hfocus, Option.bind_some, hdone, Option.getD_some]

/-- What the last lane leaves its own thread: Ready past the instruction, with its result and the flags of the whole operation. -/
theorem gather_receives {e : Enc} {t : State} {w : Wait} (hst : t.thr.status = .waiting w) (hg : ∃ op mask ws live, w = .gather op mask ws live)
    (hd : e.op = 0x96 → e.d.toNat < 8) :
    let u := t.completeGather e
    u.thr.status = .ready ∧ u.thr.pc = t.thr.npc ∧ u.mem = t.mem
      ∧ ∀ v, lookup (t.thr.key.tid % 32) (gatherResult e t).1 = some v → u.thr.fp = t.thr.fp ||| (gatherResult e t).2 ∧
        (if e.op = 0x96 then SameRegs t u ∧ ∀ j < 7, u.thr.getQ j = if j = e.d.toNat then decide (v ≠ 0) else t.thr.getQ j
         else Wrote e.d (words (crossWidth e) v) t u ∧ u.thr.q = t.thr.q) := by
  intro u
  have hthr : u.thr = _ := completeGather_thr hst hg
  obtain ⟨hready, hpc⟩ := gathered_ready t.thr e t.dev.clk (gatherResult e t).1 (gatherResult e t).2
  refine ⟨by rw [hthr]; exact hready, by rw [hthr]; exact hpc, rfl, fun v hv => ?_⟩
  rw [gathered_result _ _ hv] at hthr
  generalize (gatherResult e t).2 = fl at hthr ⊢
  split
  · next h96 =>
    rw [if_pos h96] at hthr
    have hq := Thread.putQ_eq t.thr e.d.toNat (decide (v ≠ 0))
    generalize hp : t.thr.putQ e.d.toNat (decide (v ≠ 0)) = p at hthr hq
    refine ⟨by rw [hthr, hq]; rfl, by unfold SameRegs; rw [hthr, hq]; exact ⟨rfl, rfl, rfl⟩, fun j hj => ?_⟩
    have hget : u.thr.getQ j = p.getQ j := by rw [hthr]; rfl
    rw [hget, ← hp, Thread.getQ_putQ _ _ _ _ (hd h96) (by omega)]
    by_cases hjd : j = e.d.toNat
    · rw [if_pos ⟨hjd, by omega⟩, if_pos hjd]
    · rw [if_neg (fun h => hjd h.1), if_neg hjd]
  · next h96 =>
    rw [if_neg h96] at hthr
    have hq := Thread.putDst_eq t.thr e.d (words (crossWidth e) v)
    refine ⟨by rw [hthr, hq]; rfl, fun k hk => ?_, by rw [hthr, hq]; rfl⟩
    rw [← Thread.putDst_regs t.thr e.d _ k hk]
    simp only [hthr]
    rfl

end Sys2Proof.Claims
end

section
/-!
PROOFS. What the lanes of a cross-lane instruction receive (O16, second part).
-/
namespace Sys2Proof.Claims
open Machine Bits Encoding

/-! ## Results by lane -/

section
variable {l v : Nat} {vals : List (Nat × Nat)}

/-- Every lane of a list finds the result that is computed from its number. -/
theorem lookup_lane (f : Nat → Nat) {lanes : List Nat} (h : l ∈ lanes) : lookup l (lanes.map (fun i => (i, f i))) = some (f l) := by
  induction lanes with
  | nil => cases h
  | cons i is ih =>
    by_cases hi : i = l
    · simp [lookup, hi]
    · simpa [lookup, hi] using ih (List.mem_of_ne_of_mem (Ne.symm hi) h)

/-- With its lanes in rising order, a list holds one entry of a lane. -/
theorem lookup_sorted {α : Type} {xs : List (Nat × α)} {x : α} (hs : xs.Pairwise (fun a b => a.1 < b.1)) (h : (l, x) ∈ xs) : lookup l xs = some x := by
  induction xs with
  | nil => cases h
  | cons p ps ih =>
    obtain ⟨hp, hps⟩ := List.pairwise_cons.mp hs
    obtain ⟨j, y⟩ := p
    rcases List.mem_cons.mp h with heq | hmem
    · cases heq
      simp [lookup]
    · have hne : j ≠ l := (hp _ hmem).ne
      simpa [lookup, hne] using ih hps hmem

theorem sorted_map {α β : Type} {xs : List (Nat × α)} (f : Nat × α → β) (hs : xs.Pairwise (fun a b => a.1 < b.1)) : (xs.map (fun p => (p.1, f p))).Pairwise (fun a b => a.1 < b.1) :=
  List.pairwise_map.mpr hs

/-! ## Sums of distinct powers of two -/

/-- The mask of the lanes of a list. -/
def laneMask {α : Type} (xs : List (Nat × α)) : Nat := xs.foldl (fun acc q => acc + 2 ^ q.1) 0

theorem testBit_add_twoPow {acc k : Nat} (h : acc < 2 ^ k) (j : Nat) : (acc + 2 ^ k).testBit j = (acc.testBit j || decide (k = j)) := by
  have hor : acc + 2 ^ k = 2 ^ k ||| acc := by
    have := Nat.two_pow_add_eq_or_of_lt h 1
    rw [Nat.mul_one] at this
    rw [← this, Nat.add_comm]
  rw [hor, Nat.testBit_or, Nat.testBit_two_pow, Bool.or_comm]

/-- With lanes in rising order, each addition sets one more bit. -/
theorem testBit_laneMask_from {α : Type} (xs : List (Nat × α)) (hs : xs.Pairwise (fun a b => a.1 < b.1)) (acc j : Nat) (hacc : ∀ q ∈ xs, acc < 2 ^ q.1) :
    (xs.foldl (fun acc q => acc + 2 ^ q.1) acc).testBit j = (acc.testBit j || xs.any (fun q => decide (q.1 = j))) := by
  induction xs generalizing acc with
  | nil => simp
  | cons p ps ih =>
    obtain ⟨hp, hps⟩ := List.pairwise_cons.mp hs
    have hlt : acc < 2 ^ p.1 := hacc p List.mem_cons_self
    have hnext : ∀ q ∈ ps, acc + 2 ^ p.1 < 2 ^ q.1 := fun q hq =>
      calc acc + 2 ^ p.1 < 2 ^ p.1 + 2 ^ p.1 := Nat.add_lt_add_right hlt _
        _ = 2 ^ (p.1 + 1) := by rw [Nat.pow_succ, Nat.mul_two]
        _ ≤ 2 ^ q.1 := Nat.pow_le_pow_right (by decide) (hp q hq)
    rw [List.foldl_cons, ih hps _ hnext, testBit_add_twoPow hlt, List.any_cons, Bool.or_assoc]

theorem testBit_laneMask {α : Type} {xs : List (Nat × α)} (hs : xs.Pairwise (fun a b => a.1 < b.1)) (j : Nat) : (laneMask xs).testBit j = xs.any (fun q => decide (q.1 = j)) := by
  induction xs with
  | nil => simp [laneMask]
  | cons p ps _ =>
    obtain ⟨hp, hps⟩ := List.pairwise_cons.mp hs
    have h0 : ∀ q ∈ p :: ps, 0 < 2 ^ q.1 := fun q _ => Nat.two_pow_pos _
    rw [laneMask, testBit_laneMask_from _ hs 0 j h0, Nat.zero_testBit, Bool.false_or]

/-- The lanes that hold a value, as a mask. -/
theorem testBit_lanesWith {α : Type} [DecidableEq α] {xs : List (Nat × α)} (hs : xs.Pairwise (fun a b => a.1 < b.1)) (x : α) (j : Nat) :
    (laneMask (xs.filter (fun u => decide (u.2 = x)))).testBit j = decide ((j, x) ∈ xs) := by
  rw [testBit_laneMask (hs.filter _), Bool.eq_iff_iff, List.any_eq_true, decide_eq_true_iff]
  constructor
  · rintro ⟨⟨k, y⟩, hmem, hk⟩
    obtain ⟨hin, hy⟩ := List.mem_filter.mp hmem
    cases of_decide_eq_true hk
    cases of_decide_eq_true hy
    exact hin
  · exact fun hin => ⟨(j, x), List.mem_filter.mpr ⟨hin, decide_eq_true rfl⟩, decide_eq_true rfl⟩

theorem ofBool_le_one (b : Bool) : ofBool b ≤ 1 := by cases b <;> decide

/-! ## Each operation (R174) -/

variable {e : Enc} {nbv : Nat} {arg : List (Nat × Nat)} {preds : List (Nat × Bool)} (hs : vals.Pairwise (fun a b => a.1 < b.1)) (hin : (l, v) ∈ vals)
include hs hin

theorem own_value : (laneVal vals l).getD 0 = v := by rw [laneVal, lookup_sorted hs hin, Option.getD_some]

omit hs in
theorem lane_listed : l ∈ vals.map Prod.fst := List.mem_map_of_mem (f := Prod.fst) hin

/-- `xperm`: the value of the source lane, or the lane's own where that is no member. -/
theorem crossResult_perm (hop : e.op = 0x90) {n : Nat} (hn : lookup l arg = some n) :
    lookup l (crossResult e nbv vals arg preds).1 = some (match permSource (e.m.toNat % 4) l (n % 32) with | some j => (lookup j vals).getD v | none => v) := by
  simp only [crossResult, hop, show (0x90 : BitVec 8).toNat = 0x90 from rfl]
  rw [lookup_lane _ (lane_listed hin), own_value hs hin, laneVal, hn, Option.getD_some]
  cases permSource (e.m.toNat % 4) l (n % 32) <;> rfl

/-- `xbcast` of a given lane. -/
theorem crossResult_bcast (hop : e.op = 0x91) (hm : e.m.getLsbD 5 = false) :
    lookup l (crossResult e nbv vals arg preds).1 = some ((lookup (e.m.toNat % 32) vals).getD v) := by
  have hbit : bit e.m.toNat 5 = false := hm
  simp only [crossResult, hop, show (0x91 : BitVec 8).toNat = 0x91 from rfl, hbit, Bool.false_eq_true, if_false]
  rw [lookup_lane _ (lane_listed hin), own_value hs hin, laneVal]

/-- `xmatch`: the members that hold an equal value. -/
theorem crossResult_match (hop : e.op = 0x95) :
    lookup l (crossResult e nbv vals arg preds).1 = some (laneMask (vals.filter (fun u => decide (u.2 = v)))) := by
  simp only [crossResult, hop, show (0x95 : BitVec 8).toNat = 0x95 from rfl]
  exact lookup_sorted (sorted_map (fun p => laneMask (vals.filter (fun u => decide (u.2 = p.2)))) hs) (List.mem_map_of_mem hin)

/-- `xelect`: one for the lowest lane. -/
theorem crossResult_elect (hop : e.op = 0x96) : ∃ r, lookup l (crossResult e nbv vals arg preds).1 = some r ∧ (r = 1 ↔ ∀ u ∈ vals, l ≤ u.1) ∧ r ≤ 1 := by
  simp only [crossResult, hop, show (0x96 : BitVec 8).toNat = 0x96 from rfl]
  refine ⟨_, lookup_lane _ (lane_listed hin), ?_, ofBool_le_one _⟩
  cases vals with
  | nil => cases hin
  | cons p ps =>
    obtain ⟨hp, -⟩ := List.pairwise_cons.mp hs
    have hfirst : ∀ u ∈ p :: ps, p.1 ≤ u.1 := List.forall_mem_cons.mpr ⟨le_refl _, fun u hu => (hp u hu).le⟩
    have hiff : (l = p.1) ↔ ∀ u ∈ p :: ps, l ≤ u.1 := ⟨fun h => h ▸ hfirst, fun h => le_antisymm (h p List.mem_cons_self) (hfirst _ hin)⟩
    rw [← hiff]
    simp [ofBool]

end

/-! ## Votes (R174) -/

section
variable {e : Enc} {nbv l : Nat} {p : Bool} {vals arg : List (Nat × Nat)} {preds : List (Nat × Bool)}

/-- The members whose predicate is true. -/
def ayes (preds : List (Nat × Bool)) : List (Nat × Bool) := preds.filter (fun q => q.2)

/-- What a vote answers every member: the ballot, all, any, or all alike. -/
def voteResult (mode : Nat) (preds : List (Nat × Bool)) : Nat :=
  match mode with
  | 0 => laneMask (ayes preds)
  | 1 => ofBool ((ayes preds).length = preds.length)
  | 2 => ofBool (!(ayes preds).isEmpty)
  | _ => ofBool ((ayes preds).length = preds.length || (ayes preds).isEmpty)

theorem crossResult_vote (hop : e.op = 0x92) (hin : (l, p) ∈ preds) : lookup l (crossResult e nbv vals arg preds).1 = some (voteResult (e.m.toNat % 4) preds) := by
  simp only [crossResult, hop, show (0x92 : BitVec 8).toNat = 0x92 from rfl]
  have := lookup_lane (fun _ => voteResult (e.m.toNat % 4) preds) (List.mem_map_of_mem (f := Prod.fst) hin)
  rw [List.map_map] at this
  exact this

theorem ofBool_eq_one {b : Bool} : ofBool b = 1 ↔ b = true := by cases b <;> simp [ofBool]

theorem ayes_all : (ayes preds).length = preds.length ↔ ∀ q ∈ preds, q.2 = true := List.length_filter_eq_length_iff

theorem ayes_none : (ayes preds).isEmpty = true ↔ ∀ q ∈ preds, q.2 = false := by
  rw [List.isEmpty_iff, ayes, List.filter_eq_nil_iff]
  exact forall₂_congr fun q _ => Bool.not_eq_true _ ▸ Iff.rfl

theorem vote_ballot (hs : preds.Pairwise (fun a b => a.1 < b.1)) (j : Nat) : (voteResult 0 preds).testBit j = decide ((j, true) ∈ preds) := by
  have h := testBit_lanesWith hs true j
  simp only [Bool.decide_eq_true] at h
  exact h

theorem vote_all : voteResult 1 preds = 1 ↔ ∀ q ∈ preds, q.2 = true := by rw [voteResult, ofBool_eq_one, decide_eq_true_iff, ayes_all]

theorem vote_any : voteResult 2 preds = 1 ↔ ∃ q ∈ preds, q.2 = true := by
  rw [voteResult, ofBool_eq_one, Bool.not_eq_true', ← Bool.not_eq_true, ayes_none]
  simp

/-- All alike: all true, or all false. -/
theorem vote_alike : voteResult 3 preds = 1 ↔ ∀ q ∈ preds, ∀ q' ∈ preds, q.2 = q'.2 := by
  rw [voteResult, ofBool_eq_one, Bool.or_eq_true, decide_eq_true_iff, ayes_all, ayes_none]
  · constructor
    · rintro (h | h) q hq q' hq' <;> rw [h q hq, h q' hq']
    · intro h
      by_cases hany : ∃ q ∈ preds, q.2 = true
      · obtain ⟨q, hq, ht⟩ := hany
        exact .inl fun q' hq' => (h q' hq' q hq).trans ht
      · exact .inr fun q hq => Bool.eq_false_iff.mpr fun ht => hany ⟨q, hq, ht⟩
  all_goals decide

end

/-! ## The obligation -/

/-- What a gather waits for and gives, for instruction `i` with fields `e`. -/
def Gathers (i : Instr) (e : Enc) (s : State) : Prop :=
  let b := atBody e s
  let mask := if e.form = .x then e.lit else b.read32 e.b
  let lane := s.thr.key.tid % 32
  let live := s.thr.guard e.g e.n
  Issues e s → Quiet s → mask.getLsbD lane = true → b.absentLanes mask = false →
  ∃ t, exec i s = .next t ∧ Waits (.gather e.op mask (toWords e) live) b.thr.pc s t ∧ t.mem = b.mem ∧
    (Focused t → t.running = true → t.missingLanes = [] → live = true → ∃ u, exec (.crossLaneGather s.thr.key) t = .next u
      ∧ u.thr.status = .ready ∧ u.thr.pc = b.thr.pc ∧ u.mem = t.mem
      ∧ ∀ v, lookup lane (gatherResult e t).1 = some v → u.thr.fp = t.thr.fp ||| (gatherResult e t).2 ∧
           (if e.op = 0x96 then SameRegs t u ∧ ∀ j < 7, u.thr.getQ j = if j = e.d.toNat then decide (v ≠ 0) else t.thr.getQ j
            else Wrote e.d (words (crossWidth e) v) t u ∧ u.thr.q = t.thr.q))

/-- The predicate that `xelect` writes is below 8 (R12). -/
theorem legal_elect {e : Enc} {s : State} (h : s.illegalHere e = none) (hop : e.op = 0x96) : e.d.toNat < 8 :=
  legal_dst_pred (by simp [roles, hop]) h

theorem gathers_of_fields {i : Instr} {e : Enc} {s : State} (hi : exec i s = s.issue true bodyCross e) (hop : ¬(e.op = 0xE4 || e.op = 0xE5) = true)
    (hwords : Encoding.ofWords ((toWords e).getD 0 0) ((toWords e).getD 1 0) ((toWords e).getD 2 0) = some e) : Gathers i e s := by
  intro hs hq hlane hall
  have hbkey : (atBody e s).thr.key = s.thr.key := atBody_key e s
  obtain ⟨t, ht, hw, hmem, hkey⟩ := gathered_waits hi hs hq (bodyCross_waits rfl (hbkey ▸ hlane) hall)
  refine ⟨t, ht, hw, hmem, fun hfocus hrun hmiss _ => ?_⟩
  obtain ⟨hst, -, hnpc, -⟩ := hw
  have hdone := gather_completes hfocus hop hwords hst hrun hmiss
  obtain ⟨hready, hpc, hmem', hgot⟩ := gather_receives hst ⟨_, _, _, _, rfl⟩ (legal_elect hs.2.1)
  rw [hkey] at hdone hgot
  exact ⟨_, hdone, hready, hpc.trans hnpc, hmem', hgot⟩

theorem gathers_of {i : Instr} {x : LX} {op : BitVec 8} (s : State) (hi : exec i s = s.issue true bodyCross (x.enc op)) (hop : ¬(op = 0xE4 || op = 0xE5) = true) : Gathers i (x.enc op) s :=
  gathers_of_fields hi (by rw [LX.enc_op]; exact hop) (lx_words x op)

/-- Settles O16: a lane waits at its instruction with its mask and its words; the gather that no lane is missing from completes it from those words, and the operations follow from the lanes' rising order
(an exclusive bit for each lane in a mask, one entry for each lane in a list). -/
theorem crossLane : Obligations.CrossLane := by
  unfold Obligations.CrossLane
  refine ⟨fun x s => ⟨?perm, ?bcast, ?vote, ?red, ?scan, ?mtch, ?elect⟩, fun e nbv vals arg preds l v hs hp _ hin => ⟨?vperm, ?vbcast, ?vvote, ?vmatch, ?velect⟩⟩
  case perm => exact gathers_of s rfl (by decide)
  case bcast => exact gathers_of s rfl (by decide)
  case vote => exact gathers_of s rfl (by decide)
  case red => exact gathers_of s rfl (by decide)
  case scan => exact gathers_of s rfl (by decide)
  case mtch => exact gathers_of s rfl (by decide)
  case elect => exact gathers_of s rfl (by decide)
  case vperm => exact fun hop n hn => crossResult_perm hs hin hop hn
  case vbcast => exact fun hop hm => crossResult_bcast hs hin hop hm
  case vvote =>
    refine fun hop p hpin => ⟨_, crossResult_vote hop hpin, ?_, ?_, ?_, ?_⟩ <;> intro hmode <;> rw [hmode]
    · exact vote_ballot hp
    · exact vote_all
    · exact vote_any
    · exact vote_alike
  case vmatch => exact fun hop => ⟨_, crossResult_match hs hin hop, fun _ => testBit_lanesWith hs v⟩
  case velect => exact fun hop => crossResult_elect hs hin hop

end Sys2Proof.Claims
end

section
/-!
PROOFS. The register pool: gives, claims and the service of a claim (O17, first part).
-/
namespace Sys2Proof.Claims
open Machine Bits Encoding

/-! ## Gathering (R122) -/

theorem bodyPool_waits {e : Enc} {b : State} (hlane : b.liveMask.getLsbD (b.thr.key.tid % 32) = true) (hall : b.absentLanes b.liveMask = false) :
    bodyPool e b = .ok (gatherWaits e b.liveMask b) := by
  simp only [bodyPool, State.arrive, hlane, hall, Bool.not_true, Bool.and_false, Bool.false_eq_true, if_false]
  rfl

/-- `reggive` and `regclaim` leave their thread waiting for the pack's live lanes. -/
theorem pool_arrives {i : Instr} {e : Enc} {s : State} (hi : exec i s = s.issue true bodyPool e) :
    Issues e s → Quiet s → (atBody e s).liveMask.getLsbD (s.thr.key.tid % 32) = true → (atBody e s).absentLanes (atBody e s).liveMask = false →
    ∃ t, exec i s = .next t ∧ Waits (.gather e.op (atBody e s).liveMask (toWords e) (s.thr.guard e.g e.n)) (atBody e s).thr.pc s t ∧ t.mem = (atBody e s).mem := by
  intro hs hq hlane hall
  have hkey : (atBody e s).thr.key = s.thr.key := atBody_key e s
  obtain ⟨t, ht, hw, hmem, -⟩ := gathered_waits hi hs hq (bodyPool_waits (e := e) (hkey ▸ hlane) hall)
  exact ⟨t, ht, hw, hmem⟩

/-! ## The gather is complete -/

/-- Every lane of the pool instruction `op` has gathered, and each live one asks for `n` registers. -/
def PoolGathered (op : BitVec 8) (s : State) (n : Nat) : Prop :=
  Focused s ∧ s.running = true ∧ s.missingLanes = [] ∧ s.liveMembers ≠ []
    ∧ ∃ e mask live, s.thr.status = .waiting (.gather op mask (toWords e) live) ∧ e.op = op ∧ Encoding.ofWords ((toWords e).getD 0 0) ((toWords e).getD 1 0) ((toWords e).getD 2 0) = some e
        ∧ ∀ m ∈ s.liveMembers, (if e.form = .x then e.lit.toNat else s.memberReg m.2 e.b 1) = n

/-- The gather of a pool instruction is due, and completes as its words say. -/
theorem pool_completes {op : BitVec 8} {s : State} {n : Nat} (hop : (op = 0xE4 || op = 0xE5) = true) (h : PoolGathered op s n) : ∃ e mask live, e.op = op
    ∧ s.thr.status = .waiting (.gather op mask (toWords e) live) ∧ exec (.crossLaneGather s.thr.key) s = .next (s.completePool e)
    ∧ (∀ m ∈ s.liveMembers, (if e.form = .x then e.lit.toNat else s.memberReg m.2 e.b 1) = n) := by
  obtain ⟨hfocus, hrun, hmiss, hne, e, mask, live, hst, heop, hwords, hn⟩ := h
  have hdone : gatherDone s = some (s.completePool e) := by
    simp only [gatherDone, hst, hrun, hmiss, List.isEmpty_nil, Bool.and_self, whenDue_true, hwords, if_pos hop]
  have hexec : exec (.crossLaneGather s.thr.key) s = s.onThread s.thr.key gatherDone := rfl
  refine ⟨e, mask, live, heop, hst, ?_, hn⟩
  rw [hexec, State.onThread, show s.focus s.thr.key = some s from hfocus, Option.bind_some, hdone, Option.getD_some]

section
variable {e : Enc} {s : State} {n : Nat} (hne : s.liveMembers ≠ []) (hn : ∀ m ∈ s.liveMembers, (if e.form = .x then e.lit.toNat else s.memberReg m.2 e.b 1) = n)
include hne hn

/-- With one number asked for by every live member, the first member asks for it and none for another. -/
theorem asked_alike : (s.liveMembers.map (fun m => if e.form = .x then e.lit.toNat else s.memberReg m.2 e.b 1)).headD 0 = n
    ∧ (s.liveMembers.map (fun m => if e.form = .x then e.lit.toNat else s.memberReg m.2 e.b 1)).any (fun x => decide (x ≠ n)) = false := by
  rw [List.map_congr_left hn]
  refine ⟨?_, List.any_eq_false.mpr fun x hx => ?_⟩
  · cases h : s.liveMembers with
    | nil => exact absurd h hne
    | cons _ _ => rfl
  · obtain ⟨_, _, rfl⟩ := List.mem_map.mp hx
    simp

/-- A legal give. -/
theorem completePool_gives (hop : e.op = 0xE4) (h8 : n % 8 = 0) (h0 : n ≠ 0) (hg : n + 8 ≤ s.thr.grant) (hc : ∀ c ∈ s.lau.carrySet, c < 192 → c + n < s.thr.grant) :
    s.completePool e = State.poolChanged (s.releaseGather (fun _ => true)).grp.gid
      { (s.releaseGather (fun _ => true)).setGrant s.thr.grant (s.thr.grant - n) with grp := { (s.releaseGather (fun _ => true)).grp with pool := (s.releaseGather (fun _ => true)).grp.pool + n / 8 } } := by
  obtain ⟨hhead, hany⟩ := asked_alike hne hn
  have hempty : s.liveMembers.isEmpty = false := by simpa using hne
  have hcarry : s.lau.carrySet.any (fun c => decide (c < 192) && decide (s.thr.grant ≤ c + n)) = false := by
    refine List.any_eq_false.mpr fun c hcin hbad => ?_
    obtain ⟨hlt, hle⟩ := Bool.and_eq_true_iff.mp hbad
    exact absurd (hc c hcin (of_decide_eq_true hlt)) (Nat.not_lt.mpr (of_decide_eq_true hle))
  have hgrant : decide (s.thr.grant < n + 8) = false := decide_eq_false (Nat.not_lt.mpr hg)
  simp only [State.completePool, hhead, hany, hempty, hop, h8, h0, hgrant, hcarry, decide_false, ne_eq, not_true_eq_false, Bool.or_self, Bool.false_eq_true, if_true, if_false]

/-- A legal claim. -/
theorem completePool_claims (hop : e.op = 0xE5) (h8 : n % 8 = 0) (h0 : n ≠ 0) (hg : s.thr.grant + n ≤ 192) (ht : n / 8 + s.otherBlocks ≤ s.lau.regs * s.lau.packs / 8) :
    s.completePool e = { s.mapThreads (fun t => if s.samePack t && s.inGather t then { t with status := .waiting (.regclaim n), waitSince := s.dev.clk, waited := 0 } else t) with
      grp := { s.grp with claims := s.grp.claims ++ [(s.thr.key.tid / 32, n / 8)] } } := by
  obtain ⟨hhead, hany⟩ := asked_alike hne hn
  have hempty : s.liveMembers.isEmpty = false := by simpa using hne
  have hgrant : decide (192 < s.thr.grant + n) = false := decide_eq_false (Nat.not_lt.mpr hg)
  have htotal : decide (s.lau.regs * s.lau.packs / 8 < n / 8 + s.otherBlocks) = false := decide_eq_false (Nat.not_lt.mpr ht)
  simp only [State.completePool, hhead, hany, hempty, hop, h8, h0, hgrant, htotal, decide_false, ne_eq, not_true_eq_false, Bool.or_self, Bool.false_eq_true, if_false]
  rfl

end

theorem samePack_self (s : State) : s.samePack s.thr = true := by simp [State.samePack]

theorem inGather_self {s : State} {op : BitVec 8} {mask : Word} {ws : List Word} {live : Bool} (h : s.thr.status = .waiting (.gather op mask ws live)) : s.inGather s.thr = true := by
  simp [State.inGather, h]

theorem releaseGather_thr {s : State} {op : BitVec 8} {mask : Word} {ws : List Word} {live : Bool} (h : s.thr.status = .waiting (.gather op mask ws live)) :
    (s.releaseGather (fun _ => true)).thr = s.thr.wake s.dev.clk := by
  simp only [State.releaseGather, State.mapThreads, samePack_self, inGather_self h, Bool.and_self, if_true]

/-- The pool's change leaves a thread that does not wait for it. -/
theorem poolChanged_thr {gid : Nat} {s : State} (h : s.thr.status = .ready) : (State.poolChanged gid s).thr = s.thr := by
  simp only [State.poolChanged, State.mapThreads, h]

/-- The grant of the checked-out thread changes, and the registers between the old and the new one read zero. -/
theorem setGrant_thr (old new : Nat) (s : State) : (s.setGrant old new).thr = { s.thr with
    grant := new, regs := Vector.ofFn (fun i => if min old new ≤ i.val && i.val < max old new then 0 else s.thr.regs[i]) } := by
  simp only [State.setGrant, State.mapThreads, samePack_self, if_true]

/-- Settles the `reggive` clause: the grant falls, the pool rises, and what was given up reads zero (R122). -/
theorem reggive_gives {s : State} {n : Nat} (h : PoolGathered 0xE4 s n) (h8 : n % 8 = 0) (h0 : n ≠ 0) (hg : n + 8 ≤ s.thr.grant) (hc : ∀ c ∈ s.lau.carrySet, c < 192 → c + n < s.thr.grant) :
    ∃ t, exec (.crossLaneGather s.thr.key) s = .next t ∧ t.thr.grant = s.thr.grant - n ∧ t.grp.pool = s.grp.pool + n / 8 ∧ t.thr.status = .ready ∧ t.thr.pc = s.thr.npc
      ∧ ∀ (k : Nat) (h : k < 200), t.thr.regs[k] = if s.thr.grant - n ≤ k ∧ k < s.thr.grant then 0 else s.thr.regs[k] := by
  obtain ⟨e, mask, live, hop, hst, hexec, hn⟩ := pool_completes (by decide) h
  rw [completePool_gives h.2.2.2.1 hn hop h8 h0 hg hc] at hexec
  have hwoken := releaseGather_thr hst
  generalize hr : s.releaseGather (fun _ => true) = r at hexec hwoken
  have hgrp : r.grp = s.grp := by rw [← hr]; rfl
  have hthr := setGrant_thr s.thr.grant (s.thr.grant - n) r
  rw [hwoken] at hthr
  have hpool := poolChanged_thr (gid := r.grp.gid) (s := { r.setGrant s.thr.grant (s.thr.grant - n) with grp := { r.grp with pool := r.grp.pool + n / 8 } }) (by rw [show State.thr _ = _ from hthr]; rfl)
  have hleft := hpool.trans hthr
  refine ⟨_, hexec, (congrArg Thread.grant hleft :), by rw [← hgrp]; rfl, (congrArg Thread.status hleft :), (congrArg Thread.pc hleft :), fun k hk => ?_⟩
  refine (congrArg (fun v : Vector Word 200 => v[k]) (congrArg Thread.regs hleft)).trans ?_
  have hmin : min s.thr.grant (s.thr.grant - n) = s.thr.grant - n := Nat.min_eq_right (Nat.sub_le _ _)
  have hmax : max s.thr.grant (s.thr.grant - n) = s.thr.grant := Nat.max_eq_left (Nat.sub_le _ _)
  simp only [Vector.getElem_ofFn, hmin, hmax, Bool.and_eq_true, decide_eq_true_iff]
  rfl

/-- Settles the `regclaim` clause: the pack waits in the queue for its blocks (R122). -/
theorem regclaim_queues {s : State} {n : Nat} (h : PoolGathered 0xE5 s n) (h8 : n % 8 = 0) (h0 : n ≠ 0) (hg : s.thr.grant + n ≤ 192) (ht : n / 8 + s.otherBlocks ≤ s.lau.regs * s.lau.packs / 8) :
    ∃ t, exec (.crossLaneGather s.thr.key) s = .next t ∧ t.thr.status = .waiting (.regclaim n) ∧ t.grp.claims = s.grp.claims ++ [(s.thr.key.tid / 32, n / 8)] ∧ SameRegs s t := by
  obtain ⟨e, mask, live, hop, hst, hexec, hn⟩ := pool_completes (by decide) h
  rw [completePool_claims h.2.2.2.1 hn hop h8 h0 hg ht] at hexec
  have hin : (s.samePack s.thr && s.inGather s.thr) = true := by rw [samePack_self, inGather_self hst]; rfl
  refine ⟨_, hexec, ?_, rfl, ?_⟩
  · simp only [State.mapThreads, if_pos hin]
  · unfold SameRegs
    simp only [State.mapThreads, if_pos hin, and_self]

/-! ## A claim is served (R122) -/

/-- Settles the REGCLAIM_SERVE clause: the head of the queue receives its blocks. -/
theorem regclaimServe_serves {gid pack blocks : Nat} {rest : List (Nat × Nat)} {u : Thread} {s s1 s2 : State} (hgid : gid ≠ 0) (hfocus : s.focusGroup gid = some s1)
    (hclaims : s1.grp.claims = (pack, blocks) :: rest) (hg : s1.grp.gid = gid) (hfind : (s1.packThreads gid pack).find? (fun t => t.status = .waiting (.regclaim (8 * blocks))) = some u)
    (hfocus2 : s1.focus u.key = some s2) (hrun : s2.running = true) (hpool : blocks ≤ s2.grp.pool) (hkey : s2.thr.key = u.key) (hst : s2.thr.status = .waiting (.regclaim (8 * blocks))) :
    ∃ t, exec (.regclaimServe gid) s = .next t ∧ t.thr.key = u.key ∧ t.thr.grant = s2.thr.grant + 8 * blocks ∧ t.thr.status = .ready ∧ t.thr.pc = s2.thr.npc
      ∧ t.grp.pool = s2.grp.pool - blocks ∧ t.grp.claims = rest := by
  have hexec : exec (.regclaimServe gid) s = s.onGroup gid serveClaim := rfl
  have hdue : (s2.running && decide (blocks ≤ s2.grp.pool)) = true := by rw [hrun, decide_eq_true hpool]; rfl
  have hwoken : (s2.mapThreads (fun t => if s2.samePack t && t.status = .waiting (.regclaim (8 * blocks)) then t.wake s2.dev.clk else t)).thr = s2.thr.wake s2.dev.clk := by
    simp only [State.mapThreads, samePack_self, hst, decide_true, Bool.and_self, if_true]
  have hserve := hexec
  rw [State.onGroup, if_neg hgid, hfocus, Option.bind_some] at hserve
  simp only [serveClaim, hclaims, hg, hfind, hfocus2, hdue, whenDue_true, Option.getD_some] at hserve
  generalize hw : s2.mapThreads (fun t => if s2.samePack t && t.status = .waiting (.regclaim (8 * blocks)) then t.wake s2.dev.clk else t) = w at hserve hwoken
  have hgrp : w.grp = s2.grp := by rw [← hw]; rfl
  have hthr := setGrant_thr s2.thr.grant (s2.thr.grant + 8 * blocks) w
  rw [hwoken] at hthr
  have hpooled := poolChanged_thr (gid := s2.grp.gid) (s := { w.setGrant s2.thr.grant (s2.thr.grant + 8 * blocks) with grp := { w.grp with pool := w.grp.pool - blocks, claims := rest }, core := w.core.invalidate })
    (by rw [show State.thr _ = _ from hthr]; rfl)
  have hleft := hpooled.trans hthr
  exact ⟨_, hserve, (congrArg Thread.key hleft :).trans hkey, (congrArg Thread.grant hleft :), (congrArg Thread.status hleft :), (congrArg Thread.pc hleft :), by rw [← hgrp]; rfl, rfl⟩

end Sys2Proof.Claims
end

section
/-!
PROOFS. Tickets: the claim, the merge point and the reply (O17, second part).
-/
namespace Sys2Proof.Claims
open Machine Bits Encoding

/-! ## The claim (R124) -/

/-- The check of a global access leaves the claims under way alone. -/
theorem global_tickets {r : Req} {b s1 : State} {l : Xlat} (hg : b.global r = .ok (l, s1)) : s1.tickets = b.tickets := by
  rw [global_ok hg, touch_eq]

/-- Where a fenced thread's group has nothing staged, the publishing rule of an access that is no release only forgets the fence. -/
theorem publishRule_plain {s : State} (h : s.thr.fenced = true → s.grp.staged = []) : ∃ f, s.publishRule false = .ok (marked s.thr.markers f s) := by
  cases hf : s.thr.fenced with
  | false => exact ⟨s.thr.fenced, by simp only [State.publishRule, hf, Bool.or_self, Bool.false_eq_true, if_false]; rw [← hf]; rfl⟩
  | true => exact publishRule_unstaged (h hf)

/-- The claim of the checked-out thread of `s` at the merge point. -/
def claimOf (e : Enc) (x : Xlat) (va : Nat) (s : State) : Ticket :=
  { t := s.thr.key, dev := s.grp.dev, core := s.grp.core, slot := s.grp.slots.headD 0, key := x.key, va := va, since := s.dev.clk, dst := code e e.d, val := none }

/-- The thread of `s` waits for its ticket. -/
def claims (e : Enc) (x : Xlat) (va : Nat) (s : State) : State :=
  { s with tickets := s.tickets ++ [claimOf e x va s], thr := { s.thr with status := .waiting .ticket, waitSince := s.dev.clk } }

section
variable {e : Enc} {b s1 : State} {l : Xlat} (hg : b.global { va := b.opA e 2, size := 4, write := true, classes := [0], prot13 := false } = .ok (l, s1))
include hg

theorem bodyTkclaim_claims (hlog : s1.loggedTicket = none) (hsh : s1.grp.shadow = 0) (hroom : b.grp.tickets.length + (b.tickets.filter (fun t => t.t.gid = b.grp.gid)).length < 16)
    (hf : b.thr.fenced = true → b.grp.staged = []) : ∃ f, bodyTkclaim e b = .ok (claims e l (b.opA e 2) (marked s1.thr.markers f s1)) := by
  obtain ⟨hthr, hgrp, -⟩ := global_facts hg
  rw [← hthr, ← hgrp] at hf
  rw [← hgrp, ← global_tickets hg] at hroom
  obtain ⟨f, hp⟩ := publishRule_plain hf
  have hr : s1.ticketRoom = .ok s1 := if_neg (Nat.not_le.mpr hroom)
  refine ⟨f, ?_⟩
  simp only [bodyTkclaim, hg, hlog, hsh, hr, hp, ne_eq, not_true_eq_false, if_false]
  rfl

/-- A re-run takes its logged ticket. -/
theorem bodyTkclaim_logged {v : Word} (hlog : s1.loggedTicket = some v) : bodyTkclaim e b = .ok ((s1.logTicket v).replyD e 1 v.toNat) := by
  simp only [bodyTkclaim, hg, hlog]

end

section
variable {x : LX} {s s1 : State} {l : Xlat} {va : Nat} (hva : va = (atBody (x.encL 0xE6) s).opA (x.encL 0xE6) 2)
  (hg : (atBody (x.encL 0xE6) s).global { va := va, size := 4, write := true, classes := [0], prot13 := false } = .ok (l, s1))
include hva hg

theorem tkclaim_claims (hlog : s1.loggedTicket = none) (hsh : s1.grp.shadow = 0)
    (hroom : (atBody (x.encL 0xE6) s).grp.tickets.length + ((atBody (x.encL 0xE6) s).tickets.filter (fun t => t.t.gid = (atBody (x.encL 0xE6) s).grp.gid)).length < 16)
    (hf : (atBody (x.encL 0xE6) s).thr.fenced = true → (atBody (x.encL 0xE6) s).grp.staged = []) :
    Does (.tkclaim x) (x.encL 0xE6) s (fun b t => Waits .ticket b.thr.pc s t ∧ t.mem = s1.mem
      ∧ ∃ k, t.tickets = b.tickets ++ [k] ∧ k.t = b.thr.key ∧ k.key = l.key ∧ k.dev = b.grp.dev ∧ k.core = b.grp.core ∧ k.since = b.dev.clk ∧ k.dst = x.d ∧ k.val = none) := by
  subst hva
  obtain ⟨f, hb⟩ := bodyTkclaim_claims hg hlog hsh hroom hf
  obtain ⟨hthr, hgrp, -, -, -, hdev, -⟩ := global_facts hg
  have htickets := global_tickets hg
  refine does_waits_of (i := .tkclaim x) (g := false) rfl hb rfl ?_ (fun u hw => ⟨hw, rfl, claimOf (x.encL 0xE6) l ((atBody (x.encL 0xE6) s).opA (x.encL 0xE6) 2) (marked s1.thr.markers f s1), ?_, ?_, rfl, ?_, ?_, ?_, rfl, rfl⟩)
  · simp only [Onward, SameRegs, SameFlags, FlagsAre, claims, marked, hthr, List.append_nil, and_self]
  · rw [← htickets]; rfl
  · rw [← hthr]; rfl
  · rw [← hgrp]; rfl
  · rw [← hgrp]; rfl
  · rw [← hdev]; rfl

theorem tkclaim_logged {v : Word} (hlog : s1.loggedTicket = some v) :
    Does (.tkclaim x) (x.encL 0xE6) s (fun b t => Waits .reply b.thr.pc s t ∧ t.mem = s1.mem ∧ t.tickets = b.tickets
      ∧ t.thr.reply = if x.d.toNat < 200 then [(x.d.toNat, v)] else []) := by
  subst hva
  have hb := bodyTkclaim_logged hg hlog
  obtain ⟨hthr, -⟩ := global_facts hg
  have htickets := global_tickets hg
  refine does_replied_marked (i := .tkclaim x) (g := false) (us := s1.thr.unacked) (m := s1.thr.markers) (f := s1.thr.fenced) rfl hb ?_ (fun u ⟨hw, _, hreply⟩ => ⟨hw, rfl, htickets, hreply.trans ?_⟩)
  · rw [← hthr]; rfl
  · simp [words_one, LX.encL, code]

end

/-! ## The merge point (R124) -/

theorem checkoutDev_eq (dev : Nat) (s : State) : s.checkoutDev dev = { s with dev := (s.checkoutDev dev).dev, devs := (s.checkoutDev dev).devs } := by
  unfold State.checkoutDev
  split <;> rfl

/-- Writes of cells change the bytes they name alone. -/
theorem performCells_get {cells : List (Nat × Byte)} {a : Nat} (h : ∀ c ∈ cells, c.1 ≠ a) (s : State) : Mem.get (s.performCells cells).mem a = Mem.get s.mem a := by
  rw [State.performCells_mem, Mem.get_writeCells_other _ _ _ h]

/-- What a group has staged in a counter performs there: no other byte differs, and no claim. -/
theorem landOf_facts (gid key n : Nat) (s : State) : (s.landOf gid key n).tickets = s.tickets ∧ ∀ a, ¬(key ≤ a ∧ a < key + n) → Mem.get (s.landOf gid key n).mem a = Mem.get s.mem a := by
  have hunstage : ∀ u : State, (u.unstageOf gid key n).tickets = u.tickets ∧ (u.unstageOf gid key n).mem = u.mem := fun _ => ⟨rfl, rfl⟩
  unfold State.landOf
  dsimp only
  generalize hcells : (((s.group? gid).map Group.staged).getD []).filter (fun p => decide (key ≤ p.1) && decide (p.1 < key + n)) = cells
  obtain ⟨ht, hm⟩ := hunstage (s.performCells cells)
  rw [ht, hm]
  refine ⟨(congrArg State.tickets (performCells_homeOnly cells s) :), fun a ha => performCells_get (fun c hc hca => ha ?_) s⟩
  rw [← hcells] at hc
  obtain ⟨-, hin⟩ := List.mem_filter.mp hc
  obtain ⟨h1, h2⟩ := Bool.and_eq_true_iff.mp hin
  exact hca ▸ ⟨of_decide_eq_true h1, of_decide_eq_true h2⟩

theorem landAll_facts (key n : Nat) (ks : List Ticket) (s : State) : (ks.foldl (fun s j => State.landOf j.t.gid key n s) s).tickets = s.tickets
    ∧ ∀ a, ¬(key ≤ a ∧ a < key + n) → Mem.get (ks.foldl (fun s j => State.landOf j.t.gid key n s) s).mem a = Mem.get s.mem a := by
  induction ks generalizing s with
  | nil => exact ⟨rfl, fun _ _ => rfl⟩
  | cons k ks ih =>
    obtain ⟨ht, hm⟩ := ih (s.landOf k.t.gid key n)
    obtain ⟨ht1, hm1⟩ := landOf_facts k.t.gid key n s
    exact ⟨ht.trans ht1, fun a ha => (hm a ha).trans (hm1 a ha)⟩

/-- The counter is written, and no other byte differs from before the staged bytes performed. -/
theorem written_over {key : Nat} {bs : List Byte} {m m0 : List Host.Cell} (h : ∀ a, ¬(key ≤ a ∧ a < key + bs.length) → Mem.get m0 a = Mem.get m a) : Written key bs m (Mem.write m0 key bs) := by
  intro a
  rw [Mem.get_write]
  split
  · rfl
  · next ha => exact h a ha

/-- The claims of a merge point for a counter that have no ticket yet. -/
def Ticket.claimsAt (dev cluster key : Nat) (k : Ticket) : Bool := k.val.isNone && k.dev = dev && k.core / 4 = cluster && k.key = key

/-- The merge point has added one to the counter for each claim of `ks`, and each has its ticket by rank. -/
def mergedFor (key : Nat) (ks : List Ticket) (s : State) : State :=
  { s.perform key (toBytes 4 ((Mem.nat s.mem key 4 + ks.length) % 2 ^ 32)) with
    tickets := s.tickets.map (fun j => if ks.contains j then { j with val := some (BitVec.ofNat 32 (Mem.nat s.mem key 4 + (ks.filter (fun i => i.before j)).length)) } else j) }

/-- Settles the TICKET_MERGE clause. -/
theorem ticketMerge_merges {dev cluster key : Nat} {s : State} {k : Ticket} {rest : List Ticket} (hmine : s.tickets.filter (Ticket.claimsAt dev cluster key) = k :: rest)
    (hdue : k.since + 64 ≤ (s.checkoutDev dev).dev.clk) (hlock : s.locked key = false) (hpoison : s.poisoned key 4 = false) :
    let ks := k :: rest.filter (fun j => decide (j.since < k.since + 64))
    let base := Mem.nat (ks.foldl (fun s j => State.landOf j.t.gid key 4 s) (s.checkoutDev dev)).mem key 4
    ∃ t, exec (.ticketMerge dev cluster key) s = .next t
      ∧ Written key (toBytes 4 ((base + ks.length) % 2 ^ 32)) s.mem t.mem
      ∧ t.tickets = s.tickets.map (fun j => if ks.contains j then { j with val := some (BitVec.ofNat 32 (base + (ks.filter (fun i => i.before j)).length)) } else j) := by
  intro ks base
  have hexec : exec (.ticketMerge dev cluster key) s = s.onDev dev (mergeTickets dev cluster key) := rfl
  have hout := checkoutDev_eq dev s
  have htickets : (s.checkoutDev dev).tickets = s.tickets := (congrArg State.tickets hout :)
  have hmem : (s.checkoutDev dev).mem = s.mem := (congrArg State.mem hout :)
  have hlock1 : (s.checkoutDev dev).locked key = false := by rw [hout]; exact hlock
  have hpoison1 : (s.checkoutDev dev).poisoned key 4 = false := by rw [hout]; exact hpoison
  have hdue1 : decide ((s.checkoutDev dev).dev.clk < k.since + 64) = false := decide_eq_false (Nat.not_lt.mpr hdue)
  rw [← htickets] at hmine
  obtain ⟨ht0, hm0⟩ := landAll_facts key 4 ks (s.checkoutDev dev)
  refine ⟨mergedFor key ks (ks.foldl (fun s j => State.landOf j.t.gid key 4 s) (s.checkoutDev dev)), ?_, ?_, ?_⟩
  · rw [hexec, State.onDev]
    unfold Ticket.claimsAt at hmine
    simp only [mergeTickets, hmine, hlock1, hpoison1, hdue1, Bool.or_self, Bool.false_eq_true, if_false, Option.getD_some]
    rfl
  · rw [← hmem]
    exact written_over (bs := toBytes 4 ((base + ks.length) % 2 ^ 32)) (by rw [toBytes_length]; exact hm0)
  · rw [← htickets, ← ht0]
    rfl

/-! ## The reply (R124) -/

/-- Settles the TICKET_REPLY clause. -/
theorem ticketReply_arrives {k : ThreadKey} {s s1 : State} {tk : Ticket} {v : Word} (hfocus : s.focus k = some s1) (hfind : s1.tickets.find? (fun j => j.t = s1.thr.key && j.val.isSome) = some tk)
    (hval : tk.val = some v) (hst : s1.thr.status = .waiting .ticket) : ∃ t, exec (.ticketReply k) s = .next t ∧ t.thr.status = .ready ∧ t.thr.pc = s1.thr.npc ∧ Wrote tk.dst [v] s1 t
      ∧ t.mem = s1.mem ∧ t.tickets = s1.tickets.filter (fun j => j.t ≠ tk.t) := by
  have hexec : exec (.ticketReply k) s = s.onThread k ticketArrives := rfl
  obtain ⟨-, hready, hpc⟩ := wake_putDst (clk := s1.dev.clk) s1.thr tk.dst [v]
  refine ⟨{ State.logTicket v { s1 with tickets := s1.tickets.filter (fun j => j.t ≠ tk.t) } with thr := (s1.thr.putDst tk.dst [v]).wake s1.dev.clk }, ?_, hready, hpc, Thread.putDst_regs s1.thr tk.dst [v], rfl, rfl⟩
  rw [hexec, State.onThread, hfocus, Option.bind_some]
  simp only [ticketArrives, hfind, hst, hval, Option.getD_some]
  rfl

/-! ## The obligation -/

/-- Settles O17: the pool's instructions gather as cross-lane ones do, a complete gather of legal counts gives or queues, and the merge point writes what the claims add to the counter. -/
theorem poolAndTickets : Obligations.PoolAndTickets := by
  unfold Obligations.PoolAndTickets
  refine ⟨fun x s => ⟨pool_arrives rfl, pool_arrives rfl, ?give, ?claim, ?serve⟩, fun x s => ⟨fun l s1 => ?ticket, ?merge, ?reply⟩⟩
  case give => exact fun n h h8 h0 hg hc => reggive_gives h h8 h0 hg hc
  case claim => exact fun n h h8 h0 hg ht => regclaim_queues h h8 h0 hg ht
  case serve => exact fun gid pack blocks rest u s1 s2 hgid hf hc hg hfind hf2 hrun hpool hkey hst => regclaimServe_serves hgid hf hc hg hfind hf2 hrun hpool hkey hst
  case ticket =>
    intro e b hg
    exact ⟨fun hlog hsh hroom hf => tkclaim_claims rfl hg hlog hsh hroom hf, fun v hlog => tkclaim_logged rfl hg hlog⟩
  case merge => exact fun dev cluster key k rest hmine hdue hlock hpoison => ticketMerge_merges hmine hdue hlock hpoison
  case reply => exact fun k s1 tk v hfocus hfind hval hst => ticketReply_arrives hfocus hfind hval hst

end Sys2Proof.Claims
end

section
/-!
PROOFS. Array commands, tile loads and epilogue stores enter the core's queue (O18).
-/
namespace Sys2Proof.Claims
open Machine Bits Encoding

/-! ## A command that enters the queue (R149, R191, R193) -/

/-- The queue of the checked-out core with one job more, and the numbers of the job and its follow-on taken. -/
def queued (j : Job) (b : State) : State := { b with nextId := b.nextId + 2, core := { b.core with jobs := b.core.jobs ++ [j] } }

theorem command_queues {op : BitVec 8} {j : Job} {b : State} (hg : j.guard = none) (hfull : b.core.full = false) (hrel : b.released 2 = true) :
    b.command op [] j = .ok (queued j b) := by
  simp only [State.command, lowest, hfull, Bool.false_eq_true, if_false, release_eq hrel, State.enqueue, hg]
  rfl

/-- The instruction has queued this job, with the fields of its implicit card, and has gone on; `held` is the pair whose visible bank the job holds. -/
def QueuedAs (kind : JobKind) (reads writes : List CardRegion) (count : Option Nat) (bytes : Nat) (held : Option Nat) (b t : State) : Prop :=
  Continues b t ∧ t.thr.pend = shrunk b ∧ t.mem = b.mem ∧ t.grp = b.grp ∧ t.nextId = b.nextId + 2
    ∧ ∃ j, t.core.jobs = b.core.jobs ++ [j] ∧ j.id = b.nextId ∧ j.gid = b.grp.gid ∧ j.tid = b.thr.key.tid ∧ j.phase = b.grp.phases ∧ j.kind = kind
      ∧ j.reads = reads ∧ j.writes = writes ∧ j.count = count ∧ j.bytes = bytes ∧ j.guard = none ∧ j.fo = none ∧ j.freed = true ∧ j.moved = false
      ∧ (∀ p, t.core.pair p = { b.core.pair p with
          holds := if held = some p ∧ p < b.core.pairs.length then (b.core.pair p).holds ++ [j.id] else (b.core.pair p).holds })

/-- Where the queue has room and no earlier store is unacknowledged, instruction `i` queues this job. -/
def Queues (i : Instr) (e : Enc) (s : State) (kind : JobKind) (reads writes : List CardRegion) (count : Option Nat) (bytes : Nat) (held : Option Nat) : Prop :=
  (atBody e s).core.full = false → (atBody e s).released 2 = true → Does i e s (QueuedAs kind reads writes count bytes held)

/-- A new job of the checked-out thread with its implicit card. -/
def cardJob (kind : JobKind) (reads writes : List CardRegion) (count : Option Nat) (bytes : Nat) (b : State) : Job :=
  { b.newJob kind with reads := reads, writes := writes, count := count, bytes := bytes }

section
variable {i : Instr} {e : Enc} {s : State} {body : Body} {kind : JobKind} {reads writes : List CardRegion} {count : Option Nat} {bytes : Nat} (hi : exec i s = s.issue false body e)
include hi

theorem queues_of_core {c : Core} {held : Option Nat} (hb : body e (atBody e s) = .ok { queued (cardJob kind reads writes count bytes (atBody e s)) (atBody e s) with core := c })
    (hjobs : c.jobs = (atBody e s).core.jobs ++ [cardJob kind reads writes count bytes (atBody e s)])
    (hpairs : ∀ p, c.pair p = { (atBody e s).core.pair p with
      holds := if held = some p ∧ p < (atBody e s).core.pairs.length then ((atBody e s).core.pair p).holds ++ [(atBody e s).nextId] else ((atBody e s).core.pair p).holds }) :
    Does i e s (QueuedAs kind reads writes count bytes held) := by
  refine does_continues hi hb (onward_refl _) (by simp) (fun u hc hp _ => ⟨hc, hp.trans (List.append_nil _), rfl, rfl, rfl, cardJob kind reads writes count bytes (atBody e s), hjobs, ?_⟩)
  exact ⟨rfl, rfl, rfl, rfl, rfl, rfl, rfl, rfl, rfl, rfl, rfl, rfl, rfl, hpairs⟩

/-- A body that only issues its command queues it. -/
theorem queues_of_command (hb : body e (atBody e s) = (atBody e s).command e.op [] (cardJob kind reads writes count bytes (atBody e s))) : Queues i e s kind reads writes count bytes none :=
  fun hfull hrel => queues_of_core hi (hb.trans (command_queues rfl hfull hrel)) rfl (fun p => by simp [Core.pair])

end

/-! ## Checks that pass -/

theorem countWord_ok {e : Enc} {b : State} (h : code e e.d = 0xFF ∨ (b.opD e 1 % 16 = 0 ∧ b.opD e 1 + 16 ≤ b.grp.scratchSize)) : ((b.countWord e).map b.badWord).getD false = false := by
  unfold State.countWord
  split
  · rfl
  · next hd =>
    obtain ⟨h16, hsize⟩ := h.resolve_left hd
    simp [State.badWord, State.outside, h16, hsize]

theorem inside {b : State} {off n : Nat} (h : off + n ≤ b.grp.scratchSize) : b.outside off n = false := decide_eq_false (Nat.not_lt.mpr h)

theorem sourceInside {sp : Bool} {b : State} {off n : Nat} (h : sp = true → off + n ≤ b.grp.scratchSize) : (sp && b.outside off n) = false := by
  cases sp with
  | false => rfl
  | true => exact inside (h rfl)

/-! ## mload, rowld (R196) -/

/-- A tile load whose checks pass issues its command. -/
theorem bodyLoadTile_commands {e : Enc} {b : State} {dst : SideSpace} {fmt n : Nat} {sp : Bool} {region : CardRegion} (hshape : loadShape e = (dst, fmt, n, sp))
    (hclaim : b.projected.claimCodes dst b.grp.gid = []) (hregion : tileRegion dst 0 32 = region) (hcount : code e e.d = 0xFF ∨ (b.opD e 1 % 16 = 0 ∧ b.opD e 1 + 16 ≤ b.grp.scratchSize))
    (hsrc : sp = true → (if sp then b.opA e 1 else b.opA e 2) + ((n - 1) * b.opC e 1 + colBytes fmt) ≤ b.grp.scratchSize) (hcb : colBytes fmt ≤ b.opC e 1) (h4 : b.opC e 1 % 4 = 0)
    (hzpv : e.b ≠ 0xFF → fmt < 2 ∧ b.opB e 1 + n ≤ b.grp.scratchSize) :
    bodyLoadTile e b = b.command e.op [] (cardJob (.copy ⟨if sp then .scratch else .global, if sp then b.opA e 1 else b.opA e 2, 0, b.opC e 1, 0, 0⟩ ⟨dst, 0, 0, colBytes fmt, 0, 0⟩ (colBytes fmt) n 1 1 fmt
        (if e.b = 0xFF then none else some (b.opB e 1)) true)
      (⟨if sp then 1 else 0, if sp then b.opA e 1 else b.opA e 2, (n - 1) * b.opC e 1 + colBytes fmt⟩ :: ((if e.b = 0xFF then none else some (b.opB e 1)).map (fun o => (⟨1, o, n⟩ : CardRegion))).toList)
      [region] (b.countWord e) (n * colBytes fmt) b) := by
  have hz : ((if e.b = 0xFF then none else some (b.opB e 1)).map (fun o => b.outside o n)).getD false = false ∧ (decide (2 ≤ fmt) && (if e.b = 0xFF then none else some (b.opB e 1)).isSome) = false := by
    split
    · exact ⟨rfl, Bool.and_false _⟩
    · next hb =>
      obtain ⟨h2, hin⟩ := hzpv hb
      exact ⟨inside hin, by rw [decide_eq_false (Nat.not_le.mpr h2)]; rfl⟩
  obtain ⟨hz1, hz2⟩ := hz
  have hstride : (decide (b.opC e 1 < colBytes fmt) || decide (b.opC e 1 % 4 ≠ 0)) = false := by simp [h4, hcb]
  have hcodes : b.projected.claimCodes dst b.grp.gid
      ++ (if (sp && b.outside (if sp then b.opA e 1 else b.opA e 2) ((n - 1) * b.opC e 1 + colBytes fmt)) || ((b.countWord e).map b.badWord).getD false
            || ((if e.b = 0xFF then none else some (b.opB e 1)).map (fun o => b.outside o n)).getD false then [6] else [])
      ++ (if decide (b.opC e 1 < colBytes fmt) || decide (b.opC e 1 % 4 ≠ 0) then [0xA] else [])
      ++ (if decide (2 ≤ fmt) && (if e.b = 0xFF then none else some (b.opB e 1)).isSome then [0xE] else []) = [] := by
    rw [hclaim, sourceInside hsrc, countWord_ok hcount, hz1, hz2, hstride]
    rfl
  unfold bodyLoadTile
  simp only [hshape]
  rw [hcodes, hregion]
  rfl

/-- A tile load that passes its checks queues its copy. -/
theorem loads_tile {i : Instr} {e : Enc} {s : State} {dst : SideSpace} {fmt n : Nat} {sp : Bool} {region : CardRegion} (hi : exec i s = s.issue false bodyLoadTile e)
    (hshape : loadShape e = (dst, fmt, n, sp)) (hclaim : (atBody e s).projected.claimCodes dst s.grp.gid = []) (hregion : tileRegion dst 0 32 = region)
    (hcount : code e e.d = 0xFF ∨ ((atBody e s).opD e 1 % 16 = 0 ∧ (atBody e s).opD e 1 + 16 ≤ s.grp.scratchSize))
    (hsrc : sp = true → (if sp then (atBody e s).opA e 1 else (atBody e s).opA e 2) + ((n - 1) * (atBody e s).opC e 1 + colBytes fmt) ≤ s.grp.scratchSize)
    (hcb : colBytes fmt ≤ (atBody e s).opC e 1) (h4 : (atBody e s).opC e 1 % 4 = 0) (hzpv : e.b ≠ 0xFF → fmt < 2 ∧ (atBody e s).opB e 1 + n ≤ s.grp.scratchSize) :
    Queues i e s (.copy ⟨if sp then .scratch else .global, if sp then (atBody e s).opA e 1 else (atBody e s).opA e 2, 0, (atBody e s).opC e 1, 0, 0⟩ ⟨dst, 0, 0, colBytes fmt, 0, 0⟩ (colBytes fmt) n 1 1 fmt
        (if e.b = 0xFF then none else some ((atBody e s).opB e 1)) true)
      (⟨if sp then 1 else 0, if sp then (atBody e s).opA e 1 else (atBody e s).opA e 2, (n - 1) * (atBody e s).opC e 1 + colBytes fmt⟩
        :: ((if e.b = 0xFF then none else some ((atBody e s).opB e 1)).map (fun o => (⟨1, o, n⟩ : CardRegion))).toList)
      [region] ((atBody e s).countWord e) (n * colBytes fmt) none := by
  have hgrp := atBody_grp e s
  rw [← hgrp] at hclaim hcount hsrc hzpv
  exact queues_of_command hi (bodyLoadTile_commands hshape hclaim hregion hcount hsrc hcb h4 hzpv)

theorem claimCodes_macro {p : Proj} {m gid : Nat} (h : (p.macros.getD m (none, 0)).2 = 0 ∨ (p.macros.getD m (none, 0)).2 = gid) : p.claimCodes (.macro_ m) gid = [] := if_pos h
theorem claimCodes_row {p : Proj} {gid : Nat} (h : p.row.2 = 0 ∨ p.row.2 = gid) : p.claimCodes .rowbuf gid = [] := if_pos h

/-! ## hada, mmac, accz (R197 to R199) -/

theorem hada_queues {x : LX} {s : State} (hrows : x.c.toNat + 1 ≤ 32) (hfmt : (atBody (x.encL 0xA4) s).projected.row.1 = some 2 ∨ (atBody (x.encL 0xA4) s).projected.row.1 = some 3)
    (hclaim : (atBody (x.encL 0xA4) s).projected.row.2 = 0 ∨ (atBody (x.encL 0xA4) s).projected.row.2 = s.grp.gid) :
    Queues (.hada x) (x.encL 0xA4) s (.hada x.m.toNat (x.c.toNat + 1)) [⟨2, 0, x.c.toNat + 1⟩] [⟨2, 0, x.c.toNat + 1⟩] none 0 none := by
  rw [← atBody_grp (x.encL 0xA4) s] at hclaim
  refine queues_of_command (body := bodyHada) rfl ?_
  generalize atBody (x.encL 0xA4) s = b at *
  have h5 : (!(decide (b.projected.row.1 = some 2) || decide (b.projected.row.1 = some 3)) || !(decide (b.projected.row.2 = 0) || decide (b.projected.row.2 = b.grp.gid))) = false := by
    simp only [Bool.or_eq_false_iff, Bool.not_eq_false', Bool.or_eq_true, decide_eq_true_iff]
    exact ⟨hfmt, hclaim⟩
  have h32 : ¬32 < x.c.toNat + 1 := Nat.not_lt.mpr hrows
  show b.command _ (_ ++ (if 32 < x.c.toNat + 1 then [0xA] else [])) _ = _
  rw [if_neg h32, h5]
  rfl

/-- Nothing to report of a pair that is not Faulted (R182). -/
theorem faulted_one {c : Core} {p : Nat} (h : (c.pair p).fault = none) : c.faulted [p] = none := by
  simp only [Core.faulted, List.map_cons, List.map_nil, h, Option.map_none]
  rfl

theorem thePair_ok {op : BitVec 8} {p : Nat} {b : State} (hold : b.core.holdsPair b.grp.gid p = true) (hf : (b.core.pair p).fault = none) : b.thePair op p = .ok () := by
  simp only [State.thePair, hold, faulted_one hf, Bool.not_true, Bool.false_eq_true, if_false]

theorem atBody_core (e : Enc) (s : State) : (atBody e s).core = s.core := by rw [atBody_eq]

theorem accz_queues {x : LX} {s : State} (hold : s.core.holdsPair s.grp.gid (s.grp.pairNo ((atBody (x.enc 0xA9) s).op1 (x.enc 0xA9) 1)) = true)
    (hf : (s.core.pair (s.grp.pairNo ((atBody (x.enc 0xA9) s).op1 (x.enc 0xA9) 1))).fault = none) :
    Queues (.accz x) (x.enc 0xA9) s (.accz (s.grp.pairNo ((atBody (x.enc 0xA9) s).op1 (x.enc 0xA9) 1)) (x.m.getLsbD 0)) [] [] none 0 none := by
  refine queues_of_command (body := bodyAccz) rfl ?_
  rw [← atBody_grp (x.enc 0xA9) s] at *
  rw [← atBody_core (x.enc 0xA9) s] at hold hf
  simp only [bodyAccz, thePair_ok hold hf, LX.enc_m]
  rfl

section
variable {x : LX} {b : State}

/-- The fields of an `mmac`, of its literal or of its operands. -/
theorem bodyMmac_commands (hbad : (x.lit.map litBad).getD false = false) (hrows : (x.lit.map litRows).getD (x.c.toNat + 1) ≤ 32)
    (hcodes : mmacCodes b.core b.projected b.grp ((x.lit.map litAcc).getD (b.opA (x.enc 0xA5) 1)) ((x.lit.map litMask).getD x.m.toNat) ((x.lit.map litZero).getD false) = [])
    (hfault : b.core.faulted (b.projected.outPairs b.grp.pairNo ((x.lit.map litAcc).getD (b.opA (x.enc 0xA5) 1)) ((x.lit.map litMask).getD x.m.toNat)) = none) :
    bodyMmac (x.enc 0xA5) b = b.command (x.enc 0xA5).op [] (b.mmacJob ((x.lit.map litAcc).getD (b.opA (x.enc 0xA5) 1)) ((x.lit.map litMask).getD x.m.toNat)
      ((x.lit.map litRows).getD (x.c.toNat + 1)) ((x.lit.map litZero).getD false)) := by
  have h32 := Nat.not_lt.mpr hrows
  cases hx : x.lit with
  | none =>
    have hform : (x.enc 0xA5).form = .l := by unfold LX.enc; rw [hx]
    have hc : (x.enc 0xA5).c = x.c := by unfold LX.enc; rw [hx]
    simp only [hx, Option.map_none, Option.getD_none] at *
    simp only [bodyMmac, hform, hc, LX.enc_m, reduceCtorEq, decide_false, Bool.false_eq_true, if_false, Bool.false_and, hcodes, hfault, if_neg h32, List.append_nil]
  | some l =>
    have hform : (x.enc 0xA5).form = .x := by unfold LX.enc; rw [hx]
    have hl : (x.enc 0xA5).lit = l := by unfold LX.enc; rw [hx]
    simp only [hx, Option.map_some, Option.getD_some] at *
    simp only [bodyMmac, hform, hl, decide_true, if_true, Bool.true_and, hcodes, hbad, hfault, if_neg h32, Bool.false_eq_true, if_false, List.append_nil]

end

theorem mmac_queues {x : LX} {s : State} {acc mask rows : Nat} {zero : Bool} (hacc : acc = (x.lit.map litAcc).getD ((atBody (x.enc 0xA5) s).opA (x.enc 0xA5) 1))
    (hmask : mask = (x.lit.map litMask).getD x.m.toNat) (hrow : rows = (x.lit.map litRows).getD (x.c.toNat + 1)) (hzero : zero = (x.lit.map litZero).getD false)
    (hbad : (x.lit.map litBad).getD false = false) (hrows : rows ≤ 32)
    (hcodes : mmacCodes (atBody (x.enc 0xA5) s).core (atBody (x.enc 0xA5) s).projected (atBody (x.enc 0xA5) s).grp acc mask zero = [])
    (hfault : (atBody (x.enc 0xA5) s).core.faulted ((atBody (x.enc 0xA5) s).projected.outPairs (atBody (x.enc 0xA5) s).grp.pairNo acc mask) = none) :
    Queues (.mmac x) (x.enc 0xA5) s (.mmac acc mask rows zero) (⟨2, 0, rows⟩ :: (maskList mask).map (fun m => ⟨3, m, 1⟩)) [] none 0 none := by
  subst hacc hmask hrow hzero
  exact queues_of_command (body := bodyMmac) rfl (bodyMmac_commands hbad hrows hcodes hfault)

/-! ## accst (R201) -/

/-- Holding a pair's bank adds the job to its holders, and leaves the other pairs. -/
theorem pair_held (c : Core) (p id q : Nat) : (c.updPair p (fun a => { a with holds := a.holds ++ [id] })).pair q =
    { c.pair q with holds := if some p = some q ∧ q < c.pairs.length then (c.pair q).holds ++ [id] else (c.pair q).holds } := by
  simp only [Core.pair, Core.updPair, List.getD_eq_getElem?_getD, List.getElem?_modify, Option.some.injEq]
  by_cases hq : q < c.pairs.length
  · by_cases hp : p = q
    · simp [hq, hp]
    · simp [hq, hp]
  · simp [hq]

/-- What an `accst` reads of its block and its operands. -/
structure StoreShape where
  /-- the pair -/
  p : Nat
  /-- type of the elements stored -/
  t : Nat
  /-- the destination is the scratchpad -/
  sp : Bool
  /-- base address -/
  base : Nat
  /-- bytes from row to row -/
  stride : Nat
  rows : Nat
  cols : Nat
  /-- scratchpad offset of the scale factors -/
  scale : Option Nat

/-- Bytes from the first to the last element's end. -/
def StoreShape.span (h : StoreShape) : Nat := (h.rows - 1) * h.stride + h.cols * accstSize h.t

/-- The shape that an `accst` takes from its operands and the three words of its block (Table 13.4). -/
def storeShape (e : Enc) (b : State) (w0 w1 w2 : Word) : StoreShape :=
  ⟨b.grp.pairNo (b.opA e 1), e.t.toNat, bit e.m.toNat 0, if bit e.m.toNat 0 then b.opB e 1 else b.opB e 2, w0.toNat, field w1.toNat 4 0 + 1, field w1.toNat 14 8 + 1,
    if bit w2.toNat 20 then some (field w2.toNat 19 0) else none⟩

/-- The store that an `accst` of this shape queues. -/
def storeJob (e : Enc) (b : State) (h : StoreShape) : Job :=
  cardJob (.accst h.p h.t h.base h.sp h.stride h.rows h.cols h.scale (b.core.pair h.p).visible) ((h.scale.map (fun o => (⟨1, o, 4 * h.cols⟩ : CardRegion))).toList)
    [⟨if h.sp then 1 else 0, h.base, h.span⟩] (b.countWord e) (h.rows * h.cols * accstSize h.t) b

/-- Refusals of an `accst` of this shape whose reserved bits are zero (Table 13.4). -/
def storeCodes (e : Enc) (b : State) (h : StoreShape) (reserved : Bool) : List Nat :=
  (if b.core.holdsPair b.grp.gid h.p then [] else [1])
    ++ (if (h.sp && b.outside h.base h.span) || ((b.countWord e).map b.badWord).getD false || (h.scale.map (fun o => decide (o % 4 ≠ 0) || b.outside o (4 * h.cols))).getD false then [6] else [])
    ++ (if reserved then [0xA] else []) ++ (if h.t = 5 && h.scale.isNone then [0xE] else [])

/-- Whether the shape's alignment or the reserved bits of the block are wrong. -/
def storeMalformed (h : StoreShape) (w1 w2 : Word) : Bool :=
  decide (h.stride % accstSize h.t ≠ 0) || decide (h.base % accstSize h.t ≠ 0) || decide (field w1.toNat 31 15 ≠ 0) || decide (field w1.toNat 7 5 ≠ 0) || decide (field w2.toNat 31 21 ≠ 0)

/-- An `accst` without a refusal or a Faulted pair issues its command and holds the pair's bank. -/
theorem bodyAccst_commands {e : Enc} {b : State} {w0 w1 w2 : Word} (hw : b.block e.c 3 = some [w0, w1, w2])
    (hcodes : storeCodes e b (storeShape e b w0 w1 w2) (storeMalformed (storeShape e b w0 w1 w2) w1 w2) = []) (hf : b.core.faulted [(storeShape e b w0 w1 w2).p] = none) :
    bodyAccst e b = (b.command e.op [] (storeJob e b (storeShape e b w0 w1 w2))).map
      (fun s1 => { s1 with core := s1.core.updPair (storeShape e b w0 w1 w2).p (fun q => { q with holds := q.holds ++ [b.nextId] }) }) := by
  have hf' : b.core.faulted [b.grp.pairNo (b.opA e 1)] = none := hf
  unfold bodyAccst
  simp only [hw, hf']
  generalize hc : (_ ++ _ : List Nat) = codes
  cases (hc.symm.trans hcodes : codes = [])
  simp only
  show (match b.command e.op [] (storeJob e b (storeShape e b w0 w1 w2)) with | Except.error st => Except.error st | Except.ok s1 => Except.ok _) = _
  cases b.command e.op [] (storeJob e b (storeShape e b w0 w1 w2)) <;> rfl

/-- The refusals of an `accst` that passes its checks: none. -/
theorem storeCodes_none {e : Enc} {b : State} {h : StoreShape} (hold : b.core.holdsPair b.grp.gid h.p = true)
    (hcount : code e e.d = 0xFF ∨ (b.opD e 1 % 16 = 0 ∧ b.opD e 1 + 16 ≤ b.grp.scratchSize)) (hdst : h.sp = true → h.base + h.span ≤ b.grp.scratchSize)
    (hscale : ∀ o, h.scale = some o → o % 4 = 0 ∧ o + 4 * h.cols ≤ b.grp.scratchSize) (h5 : h.t = 5 → h.scale.isSome = true) : storeCodes e b h false = [] := by
  have hs : (h.scale.map (fun o => decide (o % 4 ≠ 0) || b.outside o (4 * h.cols))).getD false = false := by
    cases ho : h.scale with
    | none => rfl
    | some o =>
      obtain ⟨h4, hin⟩ := hscale o ho
      simp [h4, inside hin]
  have ht : (decide (h.t = 5) && h.scale.isNone) = false := by
    rw [Bool.and_eq_false_iff, decide_eq_false_iff_not, Option.isNone_eq_false_iff]
    exact (em (h.t = 5)).elim (fun heq => .inr (h5 heq)) .inl
  rw [storeCodes, hold, sourceInside hdst, countWord_ok hcount, hs, ht]
  rfl

theorem accst_queues {x : LX} {s : State} {h : StoreShape} {w0 w1 w2 : Word} (hw : (atBody (x.encL 0xA8) s).block (x.encL 0xA8).c 3 = some [w0, w1, w2])
    (hh : h = storeShape (x.encL 0xA8) (atBody (x.encL 0xA8) s) w0 w1 w2) (hold : s.core.holdsPair s.grp.gid h.p = true) (hf : (s.core.pair h.p).fault = none)
    (hcount : code (x.encL 0xA8) (x.encL 0xA8).d = 0xFF ∨ ((atBody (x.encL 0xA8) s).opD (x.encL 0xA8) 1 % 16 = 0 ∧ (atBody (x.encL 0xA8) s).opD (x.encL 0xA8) 1 + 16 ≤ s.grp.scratchSize))
    (hdst : h.sp = true → h.base + h.span ≤ s.grp.scratchSize) (hscale : ∀ o, h.scale = some o → o % 4 = 0 ∧ o + 4 * h.cols ≤ s.grp.scratchSize) (h5 : h.t = 5 → h.scale.isSome = true)
    (hform : storeMalformed h w1 w2 = false) :
    Queues (.accst x) (x.encL 0xA8) s (.accst h.p h.t h.base h.sp h.stride h.rows h.cols h.scale (s.core.pair h.p).visible) ((h.scale.map (fun o => (⟨1, o, 4 * h.cols⟩ : CardRegion))).toList)
      [⟨if h.sp then 1 else 0, h.base, h.span⟩] ((atBody (x.encL 0xA8) s).countWord (x.encL 0xA8)) (h.rows * h.cols * accstSize h.t) (some h.p) := by
  rw [← atBody_grp (x.encL 0xA8) s] at hold hcount hdst hscale
  rw [← atBody_core (x.encL 0xA8) s] at hold hf ⊢
  have hcodes := storeCodes_none hold hcount hdst hscale h5
  rw [← hform, hh] at hcodes
  have hf1 := faulted_one hf
  rw [hh] at hf1
  have hbody := bodyAccst_commands hw hcodes hf1
  rw [← hh] at hbody
  intro hfull hrel
  rw [command_queues rfl hfull hrel] at hbody
  exact queues_of_core (body := bodyAccst) (i := .accst x) rfl hbody rfl (fun q => pair_held _ h.p _ q)

/-! ## The obligation -/

/-- Settles O18: a command without a refusal is queued as its checks leave it, with its implicit card, and of the pairs only the one whose bank an `accst` reads gains a holder. -/
theorem arrayCommandsQueue : Obligations.ArrayCommandsQueue := by
  unfold Obligations.ArrayCommandsQueue
  intro x s
  refine ⟨?mload, ?rowld, ?hada, ?mmac, ?accz, ?accst⟩
  case mload => exact fun hclaim hcount hsrc hcb h4 hzpv => loads_tile rfl rfl (claimCodes_macro hclaim) rfl hcount hsrc hcb h4 hzpv
  case rowld => exact fun hclaim hcount hsrc hcb h4 hzpv => loads_tile rfl rfl (claimCodes_row hclaim) rfl hcount hsrc hcb h4 hzpv
  case hada => exact fun hrows hfmt hclaim => hada_queues hrows hfmt hclaim
  case mmac => exact fun hbad hrows hcodes hfault => mmac_queues rfl rfl rfl rfl hbad hrows hcodes hfault
  case accz => exact fun hold hf => accz_queues hold hf
  case accst =>
    intro e b p t sz sp w0 w1 w2 hw rows cols scale base span hold hf hcount hdst hscale h5 hstride hbase h31 h7 h21
    have hform : storeMalformed (storeShape e b w0 w1 w2) w1 w2 = false := by
      have hstride' : (storeShape e b w0 w1 w2).stride % accstSize (storeShape e b w0 w1 w2).t = 0 := hstride
      have hbase' : (storeShape e b w0 w1 w2).base % accstSize (storeShape e b w0 w1 w2).t = 0 := hbase
      simp only [storeMalformed, hstride', hbase', h31, h7, h21, ne_eq, not_true_eq_false, decide_false, Bool.or_self]
    exact accst_queues hw rfl (h := storeShape e b w0 w1 w2) hold hf hcount hdst hscale h5 hform

end Sys2Proof.Claims
end

section
/-!
PROOFS. Copies, gathers, content copies and transfers enter the queue (O20).
-/
namespace Sys2Proof.Claims
open Machine Bits Encoding

/-! ## A command with a guard slot (R188) -/

/-- What of a command enters the queue: nothing where its guard slot is false, and one that waits where the slot is unresolved. -/
def admitted (j : Job) (b : State) : List Job :=
  match j.guard.map b.grp.slot with
  | none => [j]
  | some .yes => [j]
  | some .no => []
  | some _ => [{ j with freed := false }]

/-- The queue of the checked-out core with what a command adds, and the numbers of the job and its follow-on taken. -/
def enqueued (j : Job) (b : State) : State := { b with nextId := b.nextId + 2, core := { b.core with jobs := b.core.jobs ++ admitted j b } }

theorem enqueue_eq (j : Job) (b : State) : b.enqueue j = enqueued j b := by
  unfold State.enqueue enqueued admitted
  cases j.guard.map b.grp.slot with
  | none => rfl
  | some g =>
    cases g with
    | no => simp only [List.append_nil]
    | _ => rfl

theorem command_admits {op : BitVec 8} {j : Job} {b : State} (hfull : b.core.full = false) (hrel : b.released 2 = true) : b.command op [] j = .ok (enqueued j b) := by
  simp only [State.command, lowest, hfull, Bool.false_eq_true, if_false, release_eq hrel, enqueue_eq]
  rfl

/-- The command has entered the queue as its guard slot says, and the thread goes on. -/
def Enqueued (j : Job) (b t : State) : Prop :=
  Continues b t ∧ t.thr.pend = shrunk b ∧ t.mem = b.mem ∧ t.core = { b.core with jobs := b.core.jobs ++ admitted j b }

section
variable {i : Instr} {e : Enc} {s s1 : State} {body : Body} {j : Job} (hi : exec i s = s.issue false body e)
include hi

/-- An instruction whose body queues a command, where it may also have changed its partition and its group's log. -/
theorem does_enqueues {P : State → State → Prop} (hb : body e (atBody e s) = .ok s1) (hthr : s1.thr = (atBody e s).thr) (hmem : s1.mem = (atBody e s).mem)
    (hcore : s1.core = { (atBody e s).core with jobs := (atBody e s).core.jobs ++ admitted j (atBody e s) }) (hP : ∀ u, P (atBody e s) (withThread u s1)) :
    Does i e s (fun b t => Enqueued j b t ∧ P b t) :=
  does_continues hi hb ((onward_refl _).congr hthr) (by simp) (fun u hc hp _ => ⟨⟨hc, hp.trans (List.append_nil _), hmem, hcore⟩, hP u⟩)

theorem does_enqueues_only (hfull : (atBody e s).core.full = false) (hrel : (atBody e s).released 2 = true) (hb : body e (atBody e s) = (atBody e s).command e.op [] j) :
    Does i e s (Enqueued j) :=
  (does_enqueues (P := fun _ _ => True) hi (hb.trans (command_admits hfull hrel)) rfl rfl rfl (fun _ => trivial)).imp_at (fun _ h => h.1)

end

/-! ## Checks that pass -/

theorem count_ok {b : State} {w : Word} (h : ∀ o, ctlCount w = some o → o % 16 = 0 ∧ o + 16 ≤ b.grp.scratchSize) : ((ctlCount w).map b.badWord).getD false = false := by
  cases hc : ctlCount w with
  | none => rfl
  | some o =>
    obtain ⟨h16, hin⟩ := h o hc
    simp [State.badWord, State.outside, h16, hin]

/-! ## xcopy, xgath (R203, R204) -/

theorem xcopy_queues {x : LX} {s : State} {ws : List Word} (hw : (atBody (x.enc 0xB0) s).block (x.enc 0xB0).c 10 = some ws) {p : List Nat × Job}
    (hp : p = (atBody (x.enc 0xB0) s).planCopy x.m.toNat ((atBody (x.enc 0xB0) s).opA (x.enc 0xB0) 2) ((atBody (x.enc 0xB0) s).opD (x.enc 0xB0) 2) ws x.lit) (hcodes : p.1 = [])
    (hfull : (atBody (x.enc 0xB0) s).core.full = false) (hrel : (atBody (x.enc 0xB0) s).released 2 = true) : Does (.xcopy x) (x.enc 0xB0) s (Enqueued p.2) := by
  refine does_enqueues_only (body := bodyXcopy) rfl hfull hrel ?_
  have hfo : (if (x.enc 0xB0).form = .x then some (x.enc 0xB0).lit else none) = x.lit := by
    unfold LX.enc
    cases x.lit <;> rfl
  unfold bodyXcopy
  simp only [hw, hfo, LX.enc_m, ← hp]
  rw [hcodes]

section
variable {x : LX} {b : State} {w0 w1 w2 w3 : Word}

/-- A gather that passes its checks has no refusal. -/
theorem planGather_none {table dst : Nat} (hlist : field w0.toNat 19 0 % 4 = 0) (hin : field w0.toNat 19 0 + 4 * (field w1.toNat 7 0 + 1) ≤ b.grp.scratchSize)
    (hdst : dst + (field w1.toNat 7 0 + 1) * field w1.toNat 20 8 ≤ b.grp.scratchSize) (h4 : field w1.toNat 20 8 % 4 = 0) (hlo : 4 ≤ field w1.toNat 20 8) (hhi : field w1.toNat 20 8 ≤ 4096)
    (h31 : field w1.toNat 31 21 = 0) (h20 : field w0.toNat 31 20 = 0) (h26 : field w3.toNat 31 26 = 0) (hcount : ((ctlCount w3).map b.badWord).getD false = false) :
    b.planGather table dst [w0, w1, w2, w3] = ([], { b.newJob (.gather table w2.toNat (field w1.toNat 20 8) (field w1.toNat 7 0 + 1) (field w0.toNat 19 0) dst) with
       reads := [⟨1, field w0.toNat 19 0, 4 * (field w1.toNat 7 0 + 1)⟩, ⟨0, table, 2 ^ 56 - table⟩], writes := [⟨1, dst, (field w1.toNat 7 0 + 1) * field w1.toNat 20 8⟩], guard := ctlGuard w3,
       count := ctlCount w3, bytes := (field w1.toNat 7 0 + 1) * field w1.toNat 20 8 }) := by
  have hlo' : decide (field w1.toNat 20 8 < 4) = false := decide_eq_false (Nat.not_lt.mpr hlo)
  have hhi' : decide (4096 < field w1.toNat 20 8) = false := decide_eq_false (Nat.not_lt.mpr hhi)
  simp only [State.planGather, List.getD_cons_zero, List.getD_cons_succ, hlist, h4, h31, h20, h26, inside hin, inside hdst, hcount, hlo', hhi', ne_eq, not_true_eq_false, decide_false, Bool.or_self,
    Bool.false_eq_true, if_false, List.append_nil]

end

theorem xgath_queues {x : LX} {s : State} {w0 w1 w2 w3 : Word} {j : Job} (hw : (atBody (x.encL 0xB1) s).block (x.encL 0xB1).c 4 = some [w0, w1, w2, w3])
    (hplan : (atBody (x.encL 0xB1) s).planGather ((atBody (x.encL 0xB1) s).opA (x.encL 0xB1) 2) ((atBody (x.encL 0xB1) s).opD (x.encL 0xB1) 1) [w0, w1, w2, w3] = ([], j))
    (hfull : (atBody (x.encL 0xB1) s).core.full = false) (hrel : (atBody (x.encL 0xB1) s).released 2 = true) : Does (.xgath x) (x.encL 0xB1) s (Enqueued j) := by
  refine does_enqueues_only (body := bodyXgath) rfl hfull hrel ?_
  unfold bodyXgath
  simp only [hw, hplan]

/-! ## ccopy (R249) -/

/-- The content copy that a `ccopy` queues. -/
def contentJob (b : State) (root : DWord) (limit dst : Nat) (w : Word) : Job :=
  { b.newJob (.ccopy root limit dst) with writes := [⟨0, dst, min limit (b.part.treeBytes 9 root).length⟩], guard := ctlGuard w, count := ctlCount w,
                                          bytes := min limit (b.part.treeBytes 9 root).length }

/-- Whether a command with this control word is in the queue after it is issued: not where its guard slot is false. -/
theorem contentJob_listed {b : State} {root : DWord} {limit dst : Nat} {w : Word} (hid : ∀ j ∈ b.core.jobs, j.id < b.nextId) :
    (enqueued (contentJob b root limit dst w) b).core.jobs.any (fun i => i.id = b.nextId) = !decide ((ctlGuard w).map b.grp.slot = some .no) := by
  have hold : b.core.jobs.any (fun i => decide (i.id = b.nextId)) = false := List.any_eq_false.mpr fun j hj => by simpa using (hid j hj).ne
  have hnew : (admitted (contentJob b root limit dst w) b).any (fun i => decide (i.id = b.nextId)) = !decide ((ctlGuard w).map b.grp.slot = some .no) := by
    unfold admitted
    rw [show (contentJob b root limit dst w).guard = ctlGuard w from rfl]
    cases (ctlGuard w).map b.grp.slot with
    | none => simp [contentJob, State.newJob]
    | some g => cases g <;> simp [contentJob, State.newJob]
  rw [enqueued, List.any_append, hold, hnew, Bool.false_or]

theorem ccopy_queues {x : LX} {s : State} {w : Word} {b : State} {root : DWord} {limit dst : Nat} (hbs : b = atBody (x.encL 0xC5) s) (hroot : root = BitVec.ofNat 64 (b.opA (x.encL 0xC5) 2))
    (hdst : dst = b.opD (x.encL 0xC5) 2) (hlimit : limit = b.opB (x.encL 0xC5) 1) (hw : b.block (x.encL 0xC5).c 1 = some [w]) (h128 : dst % 128 = 0) (h0 : limit ≠ 0) (h26 : field w.toNat 31 26 = 0)
    (hcount : ((ctlCount w).map b.badWord).getD false = false) (hline : (b.part.line root).isSome = true) (hfull : b.core.full = false) (hrel : b.released 2 = true)
    (hid : ∀ j ∈ b.core.jobs, j.id < b.nextId) :
    Does (.ccopy x) (x.encL 0xC5) s (fun c t => Enqueued (contentJob b root limit dst w) c t ∧ t.part = (if (ctlGuard w).map b.grp.slot = some .no then b.part else b.part.incr root)) := by
  have hbody : bodyCcopy (x.encL 0xC5) b = .ok (if (enqueued (contentJob b root limit dst w) b).core.jobs.any (fun i => i.id = b.nextId)
      then { enqueued (contentJob b root limit dst w) b with part := b.part.incr root } else enqueued (contentJob b root limit dst w) b) := by
    have hcmd := command_admits (op := (x.encL 0xC5).op) (j := contentJob b root limit dst w) hfull hrel
    have hsome : (b.part.line root).isNone = false := by rw [Option.isNone_eq_false_iff]; exact hline
    unfold contentJob at hcmd ⊢
    subst hroot hdst hlimit
    simp only [bodyCcopy, hw, List.getD_cons_zero, h128, h0, h26, hcount, hsome, ne_eq, not_true_eq_false, decide_false, Bool.or_self, Bool.false_eq_true, if_false, List.append_nil, lowest, hcmd]
    rfl
  rw [contentJob_listed hid] at hbody
  subst hbs
  by_cases hno : (ctlGuard w).map (atBody (x.encL 0xC5) s).grp.slot = some .no
  · rw [decide_eq_true hno, Bool.not_true, if_neg Bool.false_ne_true] at hbody
    rw [if_pos hno]
    exact does_enqueues (i := .ccopy x) rfl hbody rfl rfl rfl (fun _ => rfl)
  · rw [decide_eq_false hno, Bool.not_false, if_pos rfl] at hbody
    rw [if_neg hno]
    exact does_enqueues (i := .ccopy x) rfl hbody rfl rfl rfl (fun _ => rfl)

/-! ## xfer (R293) -/

section
variable {b : State} {sp : Bool} {ws : List Word}

/-- The source address of a transfer (Table 20.2). -/
def xferSrc (sp : Bool) (ws : List Word) : Nat := if sp then field (ws.getD 0 0).toNat 19 0 else (ws.getD 0 0).toNat + 2 ^ 32 * (ws.getD 1 0).toNat
/-- Its destination. -/
def xferDst (ws : List Word) : Nat := (ws.getD 2 0).toNat + 2 ^ 32 * (ws.getD 3 0).toNat
/-- The sync word at the destination that counts its arrival. -/
def xferArrival (ws : List Word) : Nat := (ws.getD 6 0).toNat + 2 ^ 32 * (ws.getD 7 0).toNat

/-- The transfer that an `xfer` queues. -/
def xferJob (b : State) (sp : Bool) (ws : List Word) : Job :=
  { b.newJob (.xfer sp (xferSrc sp ws) (xferDst ws) (ws.getD 4 0).toNat (xferArrival ws)) with
    reads := [⟨if sp then 1 else 0, xferSrc sp ws, (ws.getD 4 0).toNat⟩], writes := [⟨0, xferDst ws, (ws.getD 4 0).toNat⟩], guard := ctlGuard (ws.getD 5 0), count := ctlCount (ws.getD 5 0),
    bytes := (ws.getD 4 0).toNat }

/-- A transfer that passes its checks has no refusal. -/
theorem planXfer_none (hsrc : sp = true → xferSrc sp ws + (ws.getD 4 0).toNat ≤ b.grp.scratchSize ∧ (ws.getD 1 0).toNat = 0 ∧ field (ws.getD 0 0).toNat 31 20 = 0) (h0 : (ws.getD 4 0).toNat ≠ 0)
    (hmax : (ws.getD 4 0).toNat ≤ 2 ^ 30) (harr : xferArrival ws % 16 = 0) (h26 : field (ws.getD 5 0).toNat 31 26 = 0) (hcount : ((ctlCount (ws.getD 5 0)).map b.badWord).getD false = false) :
    b.planXfer sp ws = ([], xferJob b sp ws) := by
  have hin : (sp && b.outside (xferSrc sp ws) (ws.getD 4 0).toNat) = false := sourceInside fun h => (hsrc h).1
  have hres : (sp && (decide ((ws.getD 1 0).toNat ≠ 0) || decide (field (ws.getD 0 0).toNat 31 20 ≠ 0))) = false := by
    cases hs : sp with
    | false => rfl
    | true =>
      obtain ⟨-, h1, h20⟩ := hsrc hs
      simp only [h1, h20, ne_eq, not_true_eq_false, decide_false, Bool.or_self, Bool.and_false]
  have hmax' : decide (2 ^ 30 < (ws.getD 4 0).toNat) = false := decide_eq_false (Nat.not_lt.mpr hmax)
  unfold xferSrc at hin
  unfold xferArrival at harr
  simp only [State.planXfer, hin, hres, h0, hmax', harr, h26, hcount, ne_eq, not_true_eq_false, decide_false, Bool.or_self, Bool.false_eq_true, if_false, List.append_nil]
  rfl

/-- The published write of a transfer notes that it was sent. -/
def sentEntry (e : Enc) (addr : Nat) (ws : List Word) (b : State) : State := withEntry e addr ws [1] b b

/-- The last entry of a log receives its answer. -/
theorem answered_last (log : List PubEntry) (p : PubEntry) : (log ++ [p]).dropLast ++ ((log ++ [p]).getLast?.map (fun q : PubEntry => { q with ret := [1] })).toList = log ++ [{ p with ret := [1] }] := by
  rw [List.dropLast_concat, List.getLast?_concat]
  rfl

theorem bodyXfer_queues {e : Enc} (hw : b.block e.c 8 = some ws) (hk : (e.c.toNat - 0xD0) % 2 = 0) (hplan : b.planXfer (bit e.m.toNat 0) ws = ([], xferJob b (bit e.m.toNat 0) ws)) (hfull : b.core.full = false)
    (hrel : b.released 2 = true) (hrun : FirstRun b) : bodyXfer e b = .ok (enqueued (xferJob b (bit e.m.toNat 0) ws) (sentEntry e (xferDst ws) ws b)) := by
  have hcmd := command_admits (op := e.op) (j := xferJob b (bit e.m.toNat 0) ws) hfull hrel
  have hpub := publish_withEntry (e := e) (addr := xferDst ws) (operand := ws) (ret := []) (act := fun s => .ok ([], s)) hrun rfl
  have hlast : ({ withEntry e (xferDst ws) ws [] b b with grp := { (withEntry e (xferDst ws) ws [] b b).grp with
      log := (withEntry e (xferDst ws) ws [] b b).grp.log.dropLast ++ ((withEntry e (xferDst ws) ws [] b b).grp.log.getLast?.map (fun q : PubEntry => { q with ret := [1] })).toList } } : State)
      = sentEntry e (xferDst ws) ws b := by
    rw [withEntry_log, answered_last]
    rfl
  have hcmd2 := command_admits (op := e.op) (j := xferJob b (bit e.m.toNat 0) ws) (b := sentEntry e (xferDst ws) ws b) hfull hrel
  have haddr : ((xferJob b (bit e.m.toNat 0) ws).writes.headD ⟨0, 0, 0⟩).base = xferDst ws := rfl
  unfold bodyXfer
  simp only [hw, hplan, hk, ne_eq, not_true_eq_false, if_false, List.append_nil, hcmd, haddr, hpub]
  rw [hlast]
  exact hcmd2

end

theorem xfer_queues {x : LX} {s : State} {ws : List Word} (hw : (atBody (x.encL 0xB8) s).block (x.encL 0xB8).c 8 = some ws) (hk : x.c.toNat % 2 = 0)
    (hplan : (atBody (x.encL 0xB8) s).planXfer (bit x.m.toNat 0) ws = ([], xferJob (atBody (x.encL 0xB8) s) (bit x.m.toNat 0) ws)) (hfull : (atBody (x.encL 0xB8) s).core.full = false)
    (hrel : (atBody (x.encL 0xB8) s).released 2 = true) (hrun : FirstRun (atBody (x.encL 0xB8) s)) :
    Does (.xfer x) (x.encL 0xB8) s (fun b t => Enqueued (xferJob (atBody (x.encL 0xB8) s) (bit x.m.toNat 0) ws) b t
      ∧ t.grp.log = b.grp.log ++ [⟨b.thr.key.tid, pubOp (x.encL 0xB8), xferDst ws, ws, [1], 0⟩]) := by
  have hk' : ((x.encL 0xB8).c.toNat - 0xD0) % 2 = 0 := by
    rw [show (x.encL 0xB8).c = x.c from rfl]
    omega
  exact does_enqueues (i := .xfer x) rfl (bodyXfer_queues hw hk' hplan hfull hrel hrun) rfl rfl rfl (fun _ => rfl)

/-! ## The obligation -/

/-- Settles O20: each command's checks leave no refusal, so it is numbered and queued as its guard slot says; `xfer` enters the log first, and `ccopy` holds its root where it is queued. -/
theorem copiesQueue : Obligations.CopiesQueue := by
  unfold Obligations.CopiesQueue
  intro x s
  refine ⟨?xcopy, ?xgath, ?ccopy, ?xfer⟩
  case xcopy =>
    intro e b ws hw p hcodes ⟨hfull, hrel⟩
    exact xcopy_queues hw rfl hcodes hfull hrel
  case xgath =>
    intro e b w0 w1 w2 w3 hw list n rb dst table hlist hin hdst h4 hlo hhi h31 h20 h26 hcount ⟨hfull, hrel⟩
    rw [← atBody_grp e s] at hin hdst hcount
    exact xgath_queues hw (planGather_none hlist hin hdst h4 hlo hhi h31 h20 h26 (count_ok hcount)) hfull hrel
  case ccopy =>
    intro e b root dst limit w hw h128 h0 h26 hcount hline ⟨hfull, hrel⟩ hid
    rw [← atBody_grp e s] at hcount
    exact ccopy_queues rfl rfl rfl rfl hw h128 h0 h26 (count_ok hcount) hline hfull hrel hid
  case xfer =>
    intro e b ws hw hk w sp src dst arrival hsrc h0 hmax harr h26 hcount ⟨hfull, hrel⟩ hrun
    rw [← atBody_grp e s] at hsrc hcount
    exact xfer_queues hw hk (planXfer_none hsrc h0 hmax harr h26 (count_ok hcount)) hfull hrel hrun

end Sys2Proof.Claims
end

section
/-!
PROOFS. Accumulator pairs (O19, first part).
-/
namespace Sys2Proof.Claims
open Machine Bits Encoding

/-! ## An instruction that returns a number (R10) -/

/-- The number is in the destination's register; the thread goes on, and its flags and memory are as they were. -/
def Returns (e : Enc) (v : Nat) (b t : State) : Prop :=
  t.thr.status = .ready ∧ t.thr.pc = b.thr.pc ∧ t.thr.pend = shrunk b ∧ t.mem = b.mem ∧ SameFlags b t ∧ Wrote (code e e.d) [BitVec.ofNat 32 v] b t

section
variable {i : Instr} {e : Enc} {s : State} {body : Body} (hi : exec i s = s.issue false body e)
include hi

/-- A body that returns a number, where it has also restarted its thread's stall count. -/
theorem does_returns {s1 : State} {v : Nat} {P : State → State → Prop} (hb : body e (atBody e s) = .ok (s1.putM e 1 v)) (hmem : s1.mem = (atBody e s).mem)
    (hthr : ∃ a c, s1.thr = { (atBody e s).thr with waitSince := a, waited := c }) (hP : ∀ u, P (atBody e s) (withThread u (s1.putM e 1 v))) :
    Does i e s (fun b t => Returns e v b t ∧ P b t) := by
  obtain ⟨a, c, hthr⟩ := hthr
  have hput : (s1.putM e 1 v).thr = s1.thr.putDst (code e e.d) [BitVec.ofNat 32 v] := by
    simp only [State.putM, words_one]
    rfl
  have heq := Thread.putDst_eq s1.thr (code e e.d) [BitVec.ofNat 32 v]
  have hregs := Thread.putDst_regs s1.thr (code e e.d) [BitVec.ofNat 32 v]
  rw [← hput] at heq hregs
  rw [hthr] at heq hregs
  refine does_ready hi hb (congrArg Thread.key heq :) (congrArg Thread.status heq :) ((congrArg Thread.pend heq :).trans (List.append_nil _).symm) (by simp) (fun u hready hpend hret => ⟨?_, hP u⟩)
  unfold RetiredAs at hret
  refine ⟨hready, ?_, hpend.trans (List.append_nil _), hmem, ⟨?_, ?_, ?_, ?_⟩, fun k hk => ?_⟩
  · exact (congrArg Thread.pc hret :).trans (congrArg Thread.pc heq :)
  · exact (congrArg Thread.q hret :).trans (congrArg Thread.q heq :)
  · exact (congrArg Thread.cc hret :).trans (congrArg Thread.cc heq :)
  · exact (congrArg Thread.fp hret :).trans (congrArg Thread.fp heq :)
  · exact (congrArg Thread.sli hret :).trans (congrArg Thread.sli heq :)
  · exact (congrArg (fun t : Thread => t.regs[k]) hret).trans (hregs k hk)

end

/-! ## acca (R194) -/

/-- A grant of a run leaves the other pairs, and is logged as a ticket. -/
theorem grantFold_rest (p n : Nat) (s : State) (hp : p + n ≤ s.core.pairs.length) :
    let t := (List.range n).foldl (fun s i => s.writePair s.grp.gid (p + i) true true (fun _ => { AccPair.free with owner := s.grp.gid })) s
    t.grp.tickets = s.grp.tickets ∧ t.mem = s.mem ∧ ∀ r, ¬(p ≤ r ∧ r < p + n) → t.core.pair r = s.core.pair r := by
  induction n with
  | zero => exact ⟨rfl, rfl, fun _ _ => rfl⟩
  | succ n ih =>
    obtain ⟨hk, hm, hrest⟩ := ih (by omega)
    obtain ⟨⟨-, -, -, -, hl⟩, -⟩ := grantFold_facts p n s (by omega)
    rw [List.range_succ, List.foldl_append, List.foldl_cons, List.foldl_nil]
    generalize (List.range n).foldl (fun s i => s.writePair s.grp.gid (p + i) true true (fun _ => { AccPair.free with owner := s.grp.gid })) s = u at hk hm hrest hl ⊢
    refine ⟨?_, hm, fun r hr => ?_⟩
    · rw [← hk]
      show (if u.grp.gid = u.grp.gid then u.grp.saveBank (p + n) (u.core.pair (p + n)) true true else u.grp).tickets = u.grp.tickets
      rw [if_pos rfl, saveBank_eq]
    · rw [writePair_pair _ _ _ _ _ _ (by omega), if_neg (by omega)]
      exact hrest r (by omega)

/-- What a grant leaves of the pairs and the ticket log. -/
theorem grantPairs_all (v p n : Nat) (s : State) (hp : p + n ≤ s.core.pairs.length) : (s.grantPairs v p n).grp.tickets = s.grp.tickets ++ [BitVec.ofNat 32 v]
    ∧ ∀ r, (s.grantPairs v p n).core.pair r = if p ≤ r ∧ r < p + n then { AccPair.free with owner := s.grp.gid } else s.core.pair r := by
  obtain ⟨hk, -, hrest⟩ := grantFold_rest p n s hp
  obtain ⟨-, hpairs⟩ := grantFold_facts p n s hp
  have hchange : ∀ u : State, (u.changedSince s.core).grp = u.grp := fun u => by
    obtain ⟨f, -, ht⟩ := changedSince_stall s.core u
    rw [ht]
    rfl
  unfold State.grantPairs State.logTicket
  simp only []
  generalize (List.range n).foldl (fun s i => s.writePair s.grp.gid (p + i) true true (fun _ => { AccPair.free with owner := s.grp.gid })) s = u at hk hrest hpairs ⊢
  rw [(changedSince_thr s.core _).2.1, hchange]
  refine ⟨congrArg (· ++ _) hk, fun r => ?_⟩
  by_cases hr : p ≤ r ∧ r < p + n
  · obtain ⟨i, rfl⟩ := Nat.exists_eq_add_of_le hr.1
    exact (hpairs i (by omega)).trans (if_pos hr).symm
  · exact (hrest r hr).trans (if_neg hr).symm

/-- The body grants the lowest free run at once. -/
theorem bodyAcca_grants {e : Enc} {b : State} {n p : Nat} (hn : n = b.op1 e 1) (hserve : b.accaServable n = true) (hq : b.core.accaQ = []) (hl : b.loggedTicket = none) (hsh : b.grp.shadow = 0)
    (hroom : b.grp.tickets.length + (b.tickets.filter (fun t => t.t.gid = b.grp.gid)).length < 16) (hp : p < 8) (hf : b.core.runFree p n = true) (hlow : ∀ r < p, b.core.runFree r n = false) :
    bodyAcca e b = .ok ((b.grantPairs p p n).putM e 1 p) := by
  have hr : b.ticketRoom = .ok b := if_neg (Nat.not_le.mpr hroom)
  simp only [bodyAcca, ← hn, hserve, hsh, hq, accaRun_lowest hl hp hf hlow, hr, Bool.not_true, Bool.false_eq_true, if_false, ne_eq, not_true_eq_false, false_and]
  rfl

theorem acca_grants {x : LX} {s : State} {n p : Nat} (hn : n = (atBody (x.enc 0xA0) s).op1 (x.enc 0xA0) 1) (h1 : 1 ≤ n) (h8 : (atBody (x.enc 0xA0) s).core.pairs.length = 8)
    (hserve : (atBody (x.enc 0xA0) s).accaServable n = true) (hq : (atBody (x.enc 0xA0) s).core.accaQ = []) (hl : (atBody (x.enc 0xA0) s).loggedTicket = none)
    (hsh : (atBody (x.enc 0xA0) s).grp.shadow = 0)
    (hroom : (atBody (x.enc 0xA0) s).grp.tickets.length + ((atBody (x.enc 0xA0) s).tickets.filter (fun t => t.t.gid = (atBody (x.enc 0xA0) s).grp.gid)).length < 16) (hp : p + n ≤ 8)
    (hf : (atBody (x.enc 0xA0) s).core.runFree p n = true) (hlow : ∀ r < p, (atBody (x.enc 0xA0) s).core.runFree r n = false) :
    Does (.acca x) (x.enc 0xA0) s (fun b t => t.thr.status = .ready ∧ t.thr.pc = b.thr.pc ∧ t.thr.pend = shrunk b ∧ t.mem = b.mem ∧ SameFlags b t
       ∧ Wrote (code (x.enc 0xA0) (x.enc 0xA0).d) [BitVec.ofNat 32 p] b t ∧ t.grp.tickets = b.grp.tickets ++ [BitVec.ofNat 32 p]
       ∧ ∀ r < 8, t.core.pair r = if p ≤ r ∧ r < p + n then { AccPair.free with owner := b.grp.gid } else b.core.pair r) := by
  have hlen : p + n ≤ (atBody (x.enc 0xA0) s).core.pairs.length := by omega
  obtain ⟨hthr, -⟩ := grantPairs_facts p p n (atBody (x.enc 0xA0) s) hlen
  obtain ⟨htickets, hpairs⟩ := grantPairs_all p p n (atBody (x.enc 0xA0) s) hlen
  refine (does_returns (i := .acca x) (P := fun b t => t.grp.tickets = b.grp.tickets ++ [BitVec.ofNat 32 p] ∧ ∀ r < 8, t.core.pair r = if p ≤ r ∧ r < p + n then { AccPair.free with owner := b.grp.gid } else b.core.pair r)
    rfl (bodyAcca_grants hn hserve hq hl hsh hroom (by omega) hf hlow) (grantPairs_mem ..) hthr (fun u => ⟨htickets, fun r _ => hpairs r⟩)).imp_at ?_
  exact fun t ⟨⟨hready, hpc, hpend, hmem, hflags, hwrote⟩, htk, hr⟩ => ⟨hready, hpc, hpend, hmem, hflags, hwrote, htk, hr⟩

/-! ## accf, aswap (R195, R199) -/

/-- Pair `p` becomes `q`, and no other pair differs. -/
def PairBecomes (p : Nat) (q : AccPair) (b t : State) : Prop := t.core.pair p = q ∧ ∀ r, r ≠ p → t.core.pair r = b.core.pair r

/-- A pair that a group holds is one of the core's. -/
theorem holdsPair_lt {c : Core} {gid p : Nat} (h : c.holdsPair gid p = true) : p < c.pairs.length := by
  unfold Core.holdsPair at h
  by_contra hlt
  rw [List.getElem?_eq_none (Nat.not_lt.mp hlt)] at h
  exact Bool.false_ne_true h

theorem writePair_becomes {p : Nat} (w v : Bool) (f : AccPair → AccPair) {b : State} (hp : p < b.core.pairs.length) : PairBecomes p (f (b.core.pair p)) b (b.writePair b.grp.gid p w v f) :=
  ⟨(writePair_pair p p w v f b hp).trans (if_pos rfl), fun r hr => (writePair_pair p r w v f b hp).trans (if_neg hr)⟩

/-- The first of a split's threads performs what is done once for them. -/
theorem once_first {op p : Nat} {f : State → State} {b : State} (h : b.cycOnce.contains (op, b.grp.gid, b.thr.key.tid / 32, b.thr.pc, p) = false) :
    b.once op p f = { f b with cycOnce := (op, b.grp.gid, b.thr.key.tid / 32, b.thr.pc, p) :: (f b).cycOnce } := by
  simp only [State.once, h, Bool.false_eq_true, if_false]

section
variable {x : LX} {s : State} {p : Nat}

/-- An instruction that changes one pair and goes on. -/
theorem does_pair {i : Instr} {e : Enc} {body : Body} {s1 : State} {q : AccPair} (hi : exec i s = s.issue false body e) (hb : body e (atBody e s) = .ok s1) (hthr : s1.thr = (atBody e s).thr)
    (hmem : s1.mem = (atBody e s).mem) (hpair : PairBecomes p q (atBody e s) s1) :
    Does i e s (fun b t => (Continues b t ∧ t.thr.pend = shrunk b ∧ t.mem = b.mem) ∧ t.core.pair p = q ∧ ∀ r, r ≠ p → t.core.pair r = b.core.pair r) :=
  does_continues hi hb ((onward_refl _).congr hthr) (by simp) (fun _ hc hu _ => ⟨⟨hc, hu.trans (List.append_nil _), hmem⟩, hpair⟩)

theorem accf_releases (hp : p = (atBody (x.enc 0xA1) s).grp.pairNo ((atBody (x.enc 0xA1) s).op1 (x.enc 0xA1) 1)) (hold : (atBody (x.enc 0xA1) s).core.holdsPair (atBody (x.enc 0xA1) s).grp.gid p = true)
    (hf : ((atBody (x.enc 0xA1) s).core.pair p).fault = none) (hquiet : (atBody (x.enc 0xA1) s).quiescent p (atBody (x.enc 0xA1) s).nextId = true)
    (honce : (atBody (x.enc 0xA1) s).cycOnce.contains (0xA1, (atBody (x.enc 0xA1) s).grp.gid, (atBody (x.enc 0xA1) s).thr.key.tid / 32, (atBody (x.enc 0xA1) s).thr.pc, p) = false) :
    Does (.accf x) (x.enc 0xA1) s (fun b t => (Continues b t ∧ t.thr.pend = shrunk b ∧ t.mem = b.mem)
      ∧ t.core.pair p = { (atBody (x.enc 0xA1) s).core.pair p with released := true } ∧ ∀ r, r ≠ p → t.core.pair r = b.core.pair r) := by
  have hbody : bodyAccf (x.enc 0xA1) (atBody (x.enc 0xA1) s) = .ok ((atBody (x.enc 0xA1) s).once 0xA1 p (fun s => s.writePair s.grp.gid p false false (fun q => { q with released := true }))) := by
    simp only [bodyAccf, ← hp, honce, thePair_ok hold hf, hquiet, Bool.not_true, Bool.false_eq_true, if_false]
  rw [once_first honce] at hbody
  exact does_pair (i := .accf x) rfl hbody rfl rfl (writePair_becomes false false (fun q => { q with released := true }) (holdsPair_lt hold))

/-- The thread waits until the pair is quiescent. -/
def swapWaiting (p : Nat) (b : State) : State := { b with thr := { b.thr with status := .waiting (.aswap p b.nextId), waitSince := b.dev.clk } }

theorem swapPair_becomes {b : State} (hp : p < b.core.pairs.length) : PairBecomes p (b.core.pair p).swap b (b.swapPair b.grp.gid p) :=
  writePair_becomes false false AccPair.swap hp

theorem aswap_swaps (hp : p = (atBody (x.enc 0xA6) s).grp.pairNo ((atBody (x.enc 0xA6) s).op1 (x.enc 0xA6) 1)) (hold : (atBody (x.enc 0xA6) s).core.holdsPair (atBody (x.enc 0xA6) s).grp.gid p = true)
    (hf : ((atBody (x.enc 0xA6) s).core.pair p).fault = none) (hquiet : (atBody (x.enc 0xA6) s).quiescent p (atBody (x.enc 0xA6) s).nextId = true)
    (honce : (atBody (x.enc 0xA6) s).cycOnce.contains (0xA6, (atBody (x.enc 0xA6) s).grp.gid, (atBody (x.enc 0xA6) s).thr.key.tid / 32, (atBody (x.enc 0xA6) s).thr.pc, p) = false) :
    Does (.aswap x) (x.enc 0xA6) s (fun b t => (Continues b t ∧ t.thr.pend = shrunk b ∧ t.mem = b.mem)
      ∧ t.core.pair p = ((atBody (x.enc 0xA6) s).core.pair p).swap ∧ ∀ r, r ≠ p → t.core.pair r = b.core.pair r) := by
  have hbody : bodyAswap (x.enc 0xA6) (atBody (x.enc 0xA6) s) = .ok ((atBody (x.enc 0xA6) s).once 0xA6 p (fun s => s.swapPair s.grp.gid p)) := by
    simp only [bodyAswap, ← hp, thePair_ok hold hf, hquiet, if_true]
  rw [once_first honce] at hbody
  exact does_pair (i := .aswap x) rfl hbody rfl rfl (swapPair_becomes (holdsPair_lt hold))

theorem aswap_waits (hp : p = (atBody (x.enc 0xA6) s).grp.pairNo ((atBody (x.enc 0xA6) s).op1 (x.enc 0xA6) 1)) (hold : (atBody (x.enc 0xA6) s).core.holdsPair (atBody (x.enc 0xA6) s).grp.gid p = true)
    (hf : ((atBody (x.enc 0xA6) s).core.pair p).fault = none) (hbusy : (atBody (x.enc 0xA6) s).quiescent p (atBody (x.enc 0xA6) s).nextId = false) :
    Does (.aswap x) (x.enc 0xA6) s (fun b t => Waits (.aswap p b.nextId) b.thr.pc s t ∧ t.core = b.core ∧ t.mem = b.mem) := by
  have hbody : bodyAswap (x.enc 0xA6) (atBody (x.enc 0xA6) s) = .ok (swapWaiting p (atBody (x.enc 0xA6) s)) := by
    simp only [bodyAswap, ← hp, thePair_ok hold hf, hbusy, Bool.false_eq_true, if_false]
    rfl
  exact does_waits_of (i := .aswap x) rfl hbody rfl (onward_refl _) (fun u hw => ⟨hw, rfl, rfl⟩)

end

/-! ## accrd (R200) -/

section
variable {x : LX} {s : State} {p : Nat} (hp : p = (atBody (x.encL 0xA7) s).grp.pairNo ((atBody (x.encL 0xA7) s).opA (x.encL 0xA7) 1))
  (hold : (atBody (x.encL 0xA7) s).core.holdsPair (atBody (x.encL 0xA7) s).grp.gid p = true) (hf : ((atBody (x.encL 0xA7) s).core.pair p).fault = none)
include hp hold hf

theorem accrd_status (h3 : field x.m.toNat 7 6 = 3) : Does (.accrd x) (x.encL 0xA7) s (fun b t => Leaves { aluPending (x.encL 0xA7) 1 ((atBody (x.encL 0xA7) s).core.pair p).statusWord 0 0 false true b with alu := false } b t) := by
  have h3' : field (x.encL 0xA7).m.toNat 7 6 = 3 := h3
  have hbody : bodyAccrd (x.encL 0xA7) (atBody (x.encL 0xA7) s)
      = .ok ((atBody (x.encL 0xA7) s).later (x.encL 0xA7) (words 1 ((atBody (x.encL 0xA7) s).core.pair p).statusWord) 1 0 0 false false false true) := by
    simp only [bodyAccrd, ← hp, thePair_ok hold hf, h3', if_true]
  exact does_ok (.accrd x) rfl _ hbody (fun hs hq => later_leaves (words 1 ((atBody (x.encL 0xA7) s).core.pair p).statusWord) 1 0 0 false false false true hs hq)

theorem accrd_element (h3 : field x.m.toNat 7 6 ≠ 3) (hi : (atBody (x.encL 0xA7) s).opB (x.encL 0xA7) 1 ≤ 4095) {r : Nat × BitVec 5}
    (hr : r = accRead (x.encL 0xA7).t ((atBody (x.encL 0xA7) s).core.pair p).visible.form (((atBody (x.encL 0xA7) s).core.pair p).visible.get ((atBody (x.encL 0xA7) s).opB (x.encL 0xA7) 1))) :
    Does (.accrd x) (x.encL 0xA7) s (fun b t => Leaves { aluPending (x.encL 0xA7) (tw (x.encL 0xA7).t) r.1 r.2 0 false true b with alu := false } b t) := by
  have h3' : field (x.encL 0xA7).m.toNat 7 6 ≠ 3 := h3
  have hbody : bodyAccrd (x.encL 0xA7) (atBody (x.encL 0xA7) s)
      = .ok ((atBody (x.encL 0xA7) s).later (x.encL 0xA7) (words (tw (x.encL 0xA7).t) r.1) (tw (x.encL 0xA7).t) r.2 0 false false false true) := by
    simp only [bodyAccrd, ← hp, thePair_ok hold hf, if_neg h3', if_neg (Nat.not_lt.mpr hi), ← hr]
  exact does_ok (.accrd x) rfl _ hbody (fun hs hq => later_leaves (words (tw (x.encL 0xA7).t) r.1) (tw (x.encL 0xA7).t) r.2 0 false false false true hs hq)

end

end Sys2Proof.Claims
end

section
/-!
PROOFS. Sequencers and guard slots (O19, second part).
-/
namespace Sys2Proof.Claims
open Machine Bits Encoding

/-! ## fork (R205) -/

section
variable {x : LX} {s : State} {list : Nat}

/-- A sequencer of the checked-out group that starts on a list. -/
def startedSeqr (list : Nat) (b : State) : Sequencer := { gid := b.grp.gid, tid := b.thr.key.tid, list := list, idx := 0, stopped := false, status := 0 }

/-- The thread waits its turn for a sequencer. -/
def forkWaiting (list : Nat) (e : Enc) (b : State) : State :=
  { b with core := { b.core with forkQ := b.core.forkQ ++ [b.thr.key] }, thr := { b.thr with status := .waiting (.fork list e.d), waitSince := b.dev.clk } }

theorem fork_starts {sq : Nat} (hl : list = (atBody (x.enc 0xB2) s).op1 (x.enc 0xB2) 1) (h128 : list % 128 = 0) (hin : list + 128 ≤ s.grp.scratchSize) (hrel : (atBody (x.enc 0xB2) s).released 2 = true)
    (hq : (atBody (x.enc 0xB2) s).core.forkQ = []) (hfree : (atBody (x.enc 0xB2) s).core.freeSeqr = some sq) :
    Does (.fork x) (x.enc 0xB2) s (fun b t => Returns (x.enc 0xB2) sq b t ∧ t.core = { b.core with seqrs := b.core.seqrs.set sq (startedSeqr list b) }) := by
  rw [← atBody_grp (x.enc 0xB2) s] at hin
  have hbody : bodyFork (x.enc 0xB2) (atBody (x.enc 0xB2) s) = .ok (((atBody (x.enc 0xB2) s).startSeqr sq list).putM (x.enc 0xB2) 1 sq) := by
    simp only [bodyFork, ← hl, h128, inside hin, release_eq hrel, hq, hfree, ne_eq, not_true_eq_false, decide_false, Bool.or_self, Bool.false_eq_true, if_false, Nat.reduceLT, if_true]
  obtain ⟨hthr, hcore, -⟩ := changedSince_thr (atBody (x.enc 0xB2) s).core { atBody (x.enc 0xB2) s with core := { (atBody (x.enc 0xB2) s).core with seqrs := (atBody (x.enc 0xB2) s).core.seqrs.set sq (startedSeqr list (atBody (x.enc 0xB2) s)) } }
  exact does_returns (i := .fork x) rfl hbody (startSeqr_mem ..) hthr (fun _ => hcore)

theorem fork_waits (hl : list = (atBody (x.enc 0xB2) s).op1 (x.enc 0xB2) 1) (h128 : list % 128 = 0) (hin : list + 128 ≤ s.grp.scratchSize) (hrel : (atBody (x.enc 0xB2) s).released 2 = true)
    (hq : (atBody (x.enc 0xB2) s).core.forkQ ≠ [] ∨ (atBody (x.enc 0xB2) s).core.freeSeqr = none) :
    Does (.fork x) (x.enc 0xB2) s (fun b t => Waits (.fork list (x.enc 0xB2).d) b.thr.pc s t ∧ t.mem = b.mem ∧ t.core = { b.core with forkQ := b.core.forkQ ++ [b.thr.key] }) := by
  rw [← atBody_grp (x.enc 0xB2) s] at hin
  have hbody : bodyFork (x.enc 0xB2) (atBody (x.enc 0xB2) s) = .ok (forkWaiting list (x.enc 0xB2) (atBody (x.enc 0xB2) s)) := by
    simp only [bodyFork, ← hl, h128, inside hin, release_eq hrel, ne_eq, not_true_eq_false, decide_false, Bool.or_self, Bool.false_eq_true, if_false, Nat.reduceLT, if_true]
    split
    · next hnil hsome => exact absurd (hq.resolve_left (not_not.mpr hnil)) (by rw [hsome]; exact Option.some_ne_none _)
    · rfl
  exact does_waits_of (i := .fork x) rfl hbody rfl (onward_refl _) (fun u hw => ⟨hw, rfl, rfl⟩)

end

/-! ## rdv (R206) -/

section
variable {x : LX} {s : State} {sq : Nat} {q : Sequencer} (hsq : sq = (atBody (x.encL 0xB3) s).opA (x.encL 0xB3) 1) (hq : q = (atBody (x.encL 0xB3) s).core.seqrs.getD sq Sequencer.free) (h4 : sq < 4)
  (hgid : q.gid = (atBody (x.encL 0xB3) s).grp.gid)
  (hjobs : ∀ c ∈ (atBody (x.encL 0xB3) s).allCores, ∀ j ∈ c.jobs, j.gid = (atBody (x.encL 0xB3) s).grp.gid → (j.seqr.map Prod.fst) = some sq → j.freed = true)
include hsq hq h4 hgid hjobs

/-- What `rdv` does with a sequencer of the group, none of whose commands waits on a guard slot. -/
theorem bodyRdv_eq : bodyRdv (x.encL 0xB3) (atBody (x.encL 0xB3) s) = if q.stopped && !(atBody (x.encL 0xB3) s).seqrBusy (atBody (x.encL 0xB3) s).grp.gid sq then
    .ok ((({ atBody (x.encL 0xB3) s with core := { (atBody (x.encL 0xB3) s).core with seqrs := (atBody (x.encL 0xB3) s).core.seqrs.set sq Sequencer.free } } : State).changedSince (atBody (x.encL 0xB3) s).core).putM (x.encL 0xB3) 1 q.status.toNat)
    else .error (.wait (.rdv sq)) := by
  have hwaits : (atBody (x.encL 0xB3) s).allCores.any (fun c => c.jobs.any (fun j => j.gid = (atBody (x.encL 0xB3) s).grp.gid && (j.seqr.map Prod.fst) = some sq && !j.freed)) = false := by
    refine List.any_eq_false.mpr fun c hc hany => ?_
    obtain ⟨j, hj, hbad⟩ := List.any_eq_true.mp hany
    simp only [Bool.and_eq_true, decide_eq_true_iff, Bool.not_eq_true'] at hbad
    obtain ⟨⟨hg, hs⟩, hfreed⟩ := hbad
    rw [hjobs c hc j hj hg hs] at hfreed
    cases hfreed
  have hlt : decide (4 ≤ sq) = false := decide_eq_false (Nat.not_le.mpr h4)
  simp only [bodyRdv, ← hsq, ← hq, hlt, hgid, hwaits, ne_eq, not_true_eq_false, decide_false, Bool.or_self, Bool.false_eq_true, if_false]

theorem rdv_returns (hstop : q.stopped = true) (hidle : (atBody (x.encL 0xB3) s).seqrBusy (atBody (x.encL 0xB3) s).grp.gid sq = false) :
    Does (.rdv x) (x.encL 0xB3) s (fun b t => Returns (x.encL 0xB3) q.status.toNat b t ∧ t.core = { b.core with seqrs := b.core.seqrs.set sq Sequencer.free }) := by
  have hbody := bodyRdv_eq hsq hq h4 hgid hjobs
  rw [hstop, hidle, if_pos (by rfl)] at hbody
  obtain ⟨hthr, hcore, -⟩ := changedSince_thr (atBody (x.encL 0xB3) s).core { atBody (x.encL 0xB3) s with core := { (atBody (x.encL 0xB3) s).core with seqrs := (atBody (x.encL 0xB3) s).core.seqrs.set sq Sequencer.free } }
  exact does_returns (i := .rdv x) rfl hbody (changedSince_mem ..) hthr (fun _ => hcore)

theorem rdv_waits (hbusy : q.stopped = false ∨ (atBody (x.encL 0xB3) s).seqrBusy (atBody (x.encL 0xB3) s).grp.gid sq = true) (hs : Issues (x.encL 0xB3) s)
    (hg : s.thr.guard (x.encL 0xB3).g (x.encL 0xB3).n = true) (hquiet : Quiet s) : ∃ t, exec (.rdv x) s = .next t
       ∧ t.thr.status = .waiting (.rdv sq) ∧ t.thr.pc = s.thr.pc ∧ t.core = s.core ∧ t.mem = s.mem ∧ SameRegs s t := by
  have hbody := bodyRdv_eq hsq hq h4 hgid hjobs
  have hwait : ¬(q.stopped && !(atBody (x.encL 0xB3) s).seqrBusy (atBody (x.encL 0xB3) s).grp.gid sq) = true := by
    rw [Bool.and_eq_true, Bool.not_eq_true']
    rintro ⟨hstop, hidle⟩
    rcases hbusy with h | h
    · rw [h] at hstop; cases hstop
    · rw [h] at hidle; cases hidle
  rw [if_neg hwait] at hbody
  have hexec : exec (.rdv x) s = s.issue false bodyRdv (x.encL 0xB3) := rfl
  refine ⟨s.freshen.waitAt (.rdv sq) (toWords (x.encL 0xB3)), (hexec.trans (issue_runs ⟨hs, hg⟩ hquiet)).trans (congrArg Host.Outcome.next (run_error hbody)), rfl, freshen_pc s, ?_, freshen_mem s, ?_⟩
  · show s.freshen.core = s.core
    rw [freshen_eq]
  · show s.freshen.thr.regs = s.thr.regs ∧ s.freshen.thr.l0 = s.thr.l0 ∧ s.freshen.thr.l1 = s.thr.l1
    rw [freshen_eq]
    exact ⟨rfl, rfl, rfl⟩

end

/-! ## What serving a core's waits leaves alone -/

/-- A ready thread, the group's guard slots, the queue of the checked-out core and memory. -/
structure Undisturbed (s t : State) : Prop where
  thr : t.thr = { s.thr with due := t.thr.due }
  guards : t.grp.guards = s.grp.guards
  jobs : t.core.jobs = s.core.jobs
  mem : t.mem = s.mem

theorem undisturbed_refl (s : State) : Undisturbed s s := ⟨rfl, rfl, rfl, rfl⟩

theorem Undisturbed.trans {s t u : State} (h1 : Undisturbed s t) (h2 : Undisturbed t u) : Undisturbed s u := by
  refine ⟨?_, h2.guards.trans h1.guards, h2.jobs.trans h1.jobs, h2.mem.trans h1.mem⟩
  have e1 := h1.thr
  have e2 := h2.thr
  rw [e1] at e2
  exact e2

theorem Undisturbed.ready {s t : State} (h : Undisturbed s t) (hr : s.thr.status = .ready) : t.thr.status = .ready := (congrArg Thread.status h.thr :).trans hr

/-- A change of waiting threads leaves the rest. -/
theorem mapThreads_undisturbed {f : Thread → Thread} (s : State) (h : f s.thr = { s.thr with due := (f s.thr).due }) : Undisturbed s (s.mapThreads f) := ⟨h, rfl, rfl, rfl⟩

theorem mapThreads_ready {f : Thread → Thread} (s : State) (h : f s.thr = s.thr) : Undisturbed s (s.mapThreads f) := ⟨by rw [show (s.mapThreads f).thr = s.thr from h], rfl, rfl, rfl⟩

theorem updGroup_undisturbed {gid : Nat} {f : Group → Group} (hf : ∀ g, (f g).guards = g.guards) (s : State) : Undisturbed s (s.updGroup gid f) := by
  refine ⟨rfl, ?_, rfl, rfl⟩
  show (if s.grp.gid = gid then f s.grp else s.grp).guards = s.grp.guards
  split
  · exact hf s.grp
  · rfl

theorem pairs_undisturbed (p : Nat) (f : AccPair → AccPair) (s : State) : Undisturbed s { s with core := s.core.updPair p f } := ⟨rfl, rfl, rfl, rfl⟩

theorem swapPair_undisturbed (gid p : Nat) (s : State) : Undisturbed s (s.swapPair gid p) := by
  unfold State.swapPair State.writePair
  have h1 := updGroup_undisturbed (gid := gid) (f := fun g => g.saveBank p (s.core.pair p) false false) (fun g => by rw [saveBank_eq]) s
  exact (h1.trans (pairs_undisturbed p AccPair.swap _)).trans (updGroup_undisturbed (by intro; rfl) _)

theorem trapDue_undisturbed (k : ThreadKey) (f : Nat × Word) (s : State) : Undisturbed s (State.updThread k (fun t => { t with due := some f }) s) := by
  refine mapThreads_undisturbed s ?_
  dsimp only
  split <;> rfl

theorem serveSwaps_undisturbed (n : Nat) (s : State) (hr : s.thr.status = .ready) : Undisturbed s (serveSwaps n s) := by
  induction n generalizing s with
  | zero => exact undisturbed_refl s
  | succ n ih =>
    unfold serveSwaps
    simp only []
    split
    · exact undisturbed_refl s
    · next t _ =>
      split
      · exact undisturbed_refl s
      · next p bound _ =>
        split
        · next f _ =>
          have hdue := (pairs_undisturbed p (fun q => { q with fault := none }) s).trans (trapDue_undisturbed t.key f _)
          exact hdue.trans (ih _ (hdue.ready hr))
        · have hswap := swapPair_undisturbed t.key.gid p s
          generalize s.swapPair t.key.gid p = w at hswap
          have hw : w.thr.swapWaits = none := by simp only [Thread.swapWaits, hswap.ready hr]
          have hwake := hswap.trans (mapThreads_ready w (f := fun u => if u.key.gid = t.key.gid && u.key.tid / 32 = t.key.tid / 32 && u.pc = t.pc && u.swapWaits = some (p, bound) then u.wake s.dev.clk else u)
            (by simp [hw]))
          exact hwake.trans (ih _ (hwake.ready hr))

theorem retryCore_undisturbed (s : State) (hr : s.thr.status = .ready) : Undisturbed s s.retryCore := by
  unfold State.retryCore
  exact mapThreads_ready s (by simp [hr])

theorem retryRdv_undisturbed (s : State) (hr : s.thr.status = .ready) : Undisturbed s s.retryRdv := by
  unfold State.retryRdv
  exact mapThreads_ready s (by simp [hr])

theorem coreChanged_undisturbed (s : State) (hr : s.thr.status = .ready) : Undisturbed s s.coreChanged := by
  have h1 := serveSwaps_undisturbed s.allThreads.length s hr
  have h2 := h1.trans (retryCore_undisturbed _ (h1.ready hr))
  exact h2.trans (retryRdv_undisturbed _ (h2.ready hr))

/-! ## gres (R207) -/

section
variable {x : LX} {s : State} {i : Nat}

/-- The guard slots of a group with slot `i` set. -/
def setSlot (i : Nat) (v : GuardSlot) (g : Group) : Group := { g with guards := Vector.ofFn (fun (k : Fin 16) => if k.val = i then v else g.guards[k]) }

theorem slot_setSlot (i : Nat) (v : GuardSlot) (g : Group) {k : Nat} (hk : k < 16) : (setSlot i v g).slot k = if k = i then v else g.slot k := by
  simp only [Group.slot, setSlot, dif_pos hk, Vector.getElem_ofFn, Fin.getElem_fin]

theorem slot_congr {g h : Group} (e : g.guards = h.guards) (k : Nat) : g.slot k = h.slot k := by simp only [Group.slot, e]

theorem gres_clears (hi : i = field x.m.toNat 3 0) (hm : x.m.getLsbD 4 = true) : Does (.gres x) (x.encL 0xB4) s (fun b t => Continues b t ∧ t.mem = b.mem ∧ t.core = b.core
    ∧ ∀ k < 16, t.grp.slot k = if k = i then .unresolved else b.grp.slot k) := by
  have hbit : bit (x.encL 0xB4).m.toNat 4 = true := hm
  have hbody : bodyGres (x.encL 0xB4) (atBody (x.encL 0xB4) s) = .ok { atBody (x.encL 0xB4) s with grp := setSlot i .unresolved (atBody (x.encL 0xB4) s).grp } := by
    simp only [bodyGres, hbit, if_true]
    subst hi
    rfl
  exact does_continues (i := .gres x) (g := false) rfl hbody (onward_refl _) (by simp) (fun u hc _ _ => ⟨hc, rfl, rfl, fun k hk => slot_setSlot _ _ _ hk⟩)

/-- A slot resolves once, and of one cycle by the lowest thread. -/
theorem gres_keeps (hi : i = field x.m.toNat 3 0) (hm : x.m.getLsbD 4 = false)
    (hkeep : (atBody (x.encL 0xB4) s).grp.slot i = .yes ∨ (atBody (x.encL 0xB4) s).grp.slot i = .no ∨ (atBody (x.encL 0xB4) s).gresAhead i = true) :
    Does (.gres x) (x.encL 0xB4) s (fun b t => Continues b t ∧ t.mem = b.mem ∧ t.core = b.core ∧ t.grp = b.grp) := by
  have hbit : bit (x.encL 0xB4).m.toNat 4 = false := hm
  have hfield : field (x.encL 0xB4).m.toNat 3 0 = i := hi.symm
  have hbody : bodyGres (x.encL 0xB4) (atBody (x.encL 0xB4) s) = .ok (atBody (x.encL 0xB4) s) := by
    simp only [bodyGres, hbit, hfield, Bool.false_eq_true, if_false]
    split
    · rfl
    · rfl
    · next hy hn => rw [if_pos ((hkeep.resolve_left hy).resolve_left hn)]
  exact does_continues (i := .gres x) (g := false) rfl hbody (onward_refl _) (by simp) (fun u hc _ _ => ⟨hc, rfl, rfl, rfl⟩)

/-- Commands of the checked-out group that wait on slot `i` (R188). -/
def waitsOn (i : Nat) (b : State) (j : Job) : Bool := decide (j.gid = b.grp.gid ∧ j.guard = some i ∧ j.freed = false)

/-- Resolving a slot sets it, frees or discards what waits on it, and leaves a ready thread and memory. -/
theorem resolve_facts (i : Nat) (v : Bool) {b : State} (hr : b.thr.status = .ready) : (b.resolve i v).thr = { b.thr with due := (b.resolve i v).thr.due } ∧ (b.resolve i v).mem = b.mem
    ∧ (∀ k < 16, (b.resolve i v).grp.slot k = if k = i then (if v then .yes else .no) else b.grp.slot k)
    ∧ (b.resolve i v).core.jobs = if v then b.core.jobs.map (fun j => if waitsOn i b j then { j with freed := true } else j) else b.core.jobs.filter (fun j => !waitsOn i b j) := by
  have hmine : ∀ j : Job, (decide (j.gid = b.grp.gid) && decide (j.guard = some i) && !j.freed) = waitsOn i b j := by
    intro j
    simp only [waitsOn, Bool.decide_and, Bool.and_assoc]
    cases j.freed <;> rfl
  unfold State.resolve
  simp only [hmine]
  cases v with
  | true =>
    obtain ⟨hthr, hguards, hjobs, hmem⟩ := coreChanged_undisturbed { b.mapCores (fun c => { c with jobs := c.jobs.map (fun j => if waitsOn i b j then { j with freed := true } else j) }) with grp := setSlot i .yes b.grp } hr
    exact ⟨hthr, hmem, fun k hk => (slot_congr hguards k).trans (slot_setSlot i .yes b.grp hk), hjobs⟩
  | false =>
    obtain ⟨hthr, hguards, hjobs, hmem⟩ := coreChanged_undisturbed { b.discardJobs (waitsOn i b) with grp := setSlot i .no b.grp } hr
    exact ⟨hthr, hmem, fun k hk => (slot_congr hguards k).trans (slot_setSlot i .no b.grp hk), hjobs⟩

theorem gres_resolves (hi : i = field x.m.toNat 3 0) (hm : x.m.getLsbD 4 = false) (hun : (atBody (x.encL 0xB4) s).grp.slot i = .unresolved) (hfirst : (atBody (x.encL 0xB4) s).gresAhead i = false) :
    Does (.gres x) (x.encL 0xB4) s (fun b t => Continues b t ∧ t.mem = b.mem
       ∧ (∀ k < 16, t.grp.slot k = if k = i then (if b.thr.getQ x.c.toNat then .yes else .no) else b.grp.slot k)
       ∧ t.core.jobs = if b.thr.getQ x.c.toNat then b.core.jobs.map (fun j => if waitsOn i b j then { j with freed := true } else j) else b.core.jobs.filter (fun j => !waitsOn i b j)) := by
  have hbit : bit (x.encL 0xB4).m.toNat 4 = false := hm
  have hfield : field (x.encL 0xB4).m.toNat 3 0 = i := hi.symm
  have hbody : bodyGres (x.encL 0xB4) (atBody (x.encL 0xB4) s) = .ok ((atBody (x.encL 0xB4) s).resolve i ((atBody (x.encL 0xB4) s).thr.getQ x.c.toNat)) := by
    simp only [bodyGres, hbit, hfield, hun, hfirst, Bool.false_eq_true, if_false]
    rfl
  refine Does.of_ready (fun hr => ?_)
  obtain ⟨hthr, hmem, hslot, hjobs⟩ := resolve_facts i ((atBody (x.encL 0xB4) s).thr.getQ x.c.toNat) hr
  refine does_continues (i := .gres x) (g := false) (ps := []) rfl hbody ?_ (by simp) (fun u hc _ _ => ⟨hc, hmem, hslot, hjobs⟩)
  unfold Onward SameRegs SameFlags FlagsAre
  rw [hthr]
  exact ⟨rfl, rfl, (List.append_nil _).symm, rfl, rfl, ⟨rfl, rfl, rfl⟩, rfl, rfl, rfl, rfl⟩

end

/-! ## The obligation -/

/-- Settles O19: pairs change where the pair is quiescent, a grant takes the lowest free run or sequencer, and serving the core's waits after `gres` leaves the queue and the slots as the resolution made them. -/
theorem pairsAndSequencers : Obligations.PairsAndSequencers := by
  unfold Obligations.PairsAndSequencers
  refine ⟨fun x s => ⟨?acca, ?accf, ?aswap, ?accrd⟩, fun x s => ⟨?fork, ?rdv, ?gres⟩⟩
  case acca => exact fun p h1 _ h8 hserve hq hl hsh hroom hp hf hlow => acca_grants rfl h1 h8 hserve hq hl hsh hroom hp hf hlow
  case accf => exact fun hold hf hquiet honce => (accf_releases rfl hold hf hquiet honce).imp_at (fun _ h => h)
  case aswap =>
    exact fun hold hf => ⟨fun hquiet honce => (aswap_swaps rfl hold hf hquiet honce).imp_at (fun _ h => h), fun hbusy => aswap_waits rfl hold hf hbusy⟩
  case accrd =>
    exact fun hold hf => ⟨fun h3 => (accrd_status rfl hold hf h3).imp_at (fun _ h => h), fun h3 hi => (accrd_element rfl hold hf h3 hi rfl).imp_at (fun _ h => h)⟩
  case fork =>
    exact fun h128 hin hrel => ⟨fun sq hq hfree => (fork_starts rfl h128 hin hrel hq hfree).imp_at (fun _ h => h), fun hq => fork_waits rfl h128 hin hrel hq⟩
  case rdv =>
    exact fun h4 hgid hjobs => ⟨fun hstop hidle => (rdv_returns rfl rfl h4 hgid hjobs hstop hidle).imp_at (fun _ h => h), fun hbusy hs hg hquiet => rdv_waits rfl rfl h4 hgid hjobs hbusy hs hg hquiet⟩
  case gres =>
    exact ⟨fun hm => gres_clears rfl hm, fun hm hkeep => gres_keeps rfl hm hkeep, fun hm hun hfirst => (gres_resolves rfl hm hun hfirst).imp_at (fun _ h => h)⟩

end Sys2Proof.Claims
end

section
/-!
PROOFS. A failed job's trap (O35): two threads of one key, of which one waits for an exchange of banks, keep it from reaching its thread as the statement says (R182, R192).
-/
namespace Sys2Proof.Claims
open Machine Bits Encoding

/-! ## The counterexample -/

/-- A command of thread ⟨1, 0⟩ that has failed. -/
def failedClear : Job :=
  { id := 5, gid := 1, tid := 0, lid := 0, pid := 0, phase := 0, kind := .accz 0 false, reads := [], writes := [], guard := none, freed := true, moved := false, foDone := true, fo := none, count := none, bytes := 0,
    nbv := 2, seqr := none, parked := none, packets := [], cast := [], failed := some (8, 0) }

/-- The ready thread that takes the command's trap. -/
def readyTwin : Thread := { Thread.none with key := ⟨1, 0⟩, status := .ready }

/-- A second thread of the same key, which waits for an exchange of the banks of pair 0. -/
def swapTwin : Thread := { Thread.none with key := ⟨1, 0⟩, status := .waiting (.aswap 0 0) }

/-- The core with the failed command queued and pair 0 Faulted. -/
def faultedCore : Core := { Core.fresh 0 0 with jobs := [failedClear], pairs := (List.replicate 8 AccPair.free).set 0 { AccPair.free with fault := some (1, 0) } }

/-- Both stand in the state, and pair 0 is Faulted: when the command leaves the queue, the exchange meets the fault, and its trap falls due in every thread of that key. -/
def twinThreads : State :=
  { State.reset with thr := readyTwin, threads := [swapTwin], grp := { Group.none with gid := 1, phase := .running }, core := faultedCore }

theorem twinThreads_focus : twinThreads.focusJob 0 0 5 = some (failedClear, twinThreads) := rfl

theorem twinThreads_victim : twinThreads.twins failedClear = [] ∧ twinThreads.jobVictim failedClear = some readyTwin := ⟨rfl, rfl⟩

/-- After the event a trap of the pair is due in every thread, which was due in none of them. -/
theorem twinThreads_due : ((failJob failedClear twinThreads).getD twinThreads).allThreads.all (fun t => t.due.isSome) = true := by decide +kernel

/-- Refutes O35: the clause of a failed job's trap is stated of every state, and does not ask that the threads' keys are distinct. Where a second thread of the victim's key waits in `aswap` for a Faulted
pair, the queue's change makes the pair's trap due in both, so the victim does not stand there with nothing but its `jobTrap` changed. -/
theorem not_engineJobEvents : ¬ Obligations.EngineJobEvents := by
  unfold Obligations.EngineJobEvents
  intro h
  obtain ⟨-, -, -, -, -, -, -, -, -, -, hfail, -⟩ := h 0 0 5 twinThreads
  obtain ⟨htwins, hvictim⟩ := twinThreads_victim
  obtain ⟨t, ht, -, -, hmem⟩ := hfail 8 0 readyTwin failedClear twinThreads twinThreads_focus ⟨rfl, rfl, htwins, fun _ _ _ _ _ _ _ _ _ => Machine.JobKind.noConfusion, fun _ _ _ => Machine.JobKind.noConfusion, hvictim, rfl, rfl⟩
  have hnext : (failJob failedClear twinThreads).getD twinThreads = t := Host.Outcome.next.inj ht
  rw [← hnext] at hmem
  exact absurd (List.all_eq_true.mp twinThreads_due _ hmem) Bool.false_ne_true

end Sys2Proof.Claims
end
